-- ==== Sys2Proof/Word.lean ====
section
/-! DEFINITION. The word types: bytes, byte strings and the fixed widths of the part's fields (R5). -/

namespace Sys2Proof

/-- One byte. -/
abbrev Byte := BitVec 8

/-- A byte string, lowest address first (R5). -/
abbrev Bytes := List Byte

end Sys2Proof
end

