-- ==== Sys2Proof/Syntax.lean ====
section
/-! DEFINITION. The commands of the block: the rows of the table of operations and events, each with what its sender
brings (operands). Reports of nature (a reading, a failed check) are operands too. -/

namespace Sys2Proof

/-- A message between modules (R381): the port it arrives on or leaves by, its header fields, its body. -/
structure Msg where
  port : Nat
  stamp : Nat
  source : Nat
  kind : Nat
  hops : Nat
  seq : Nat
  dst : Nat
  origin : Nat
  arg : Nat
  total : Nat := 0
  xfer : Nat := 0
  sync : Nat := 0xFFFF
  body : Bytes
  deriving DecidableEq, Repr

/-- A skid frame (R376): the fields of its header `FH`, its 256-byte payload, and its `FCRC`. -/
structure SkidFrame where
  kind : Nat
  cls : Nat
  first : Bool
  last : Bool
  seq : Nat
  ack : Nat
  creditClass : Nat
  credits : Nat
  payload : Bytes
  fcrc : Nat
  deriving DecidableEq, Repr

/-- Spare lanes that the tests of start-up find needed (R371): the spine die 0 to 3, the module on it, the direction (away
from the spine die or toward it), the lanes that failed. -/
structure LaneFault where
  die : Nat
  module : Nat
  away : Bool
  failed : Nat
  deriving DecidableEq, Repr

/-- A line of SRAM as one read delivers it: its 64 bytes and its CRC-16 (R239). -/
structure LineRead where
  data : Bytes
  crc : Nat
  deriving DecidableEq, Repr

/-- A half-burst as one read delivers it: its 32 bytes, the metadata bits of each of the 8 beats (bit q: pin q; R261), and
whether the stack reports it as uncorrectable (R262). -/
structure BurstRead where
  data : Bytes
  beats : List Nat
  uncorrectable : Bool := false
  deriving DecidableEq, Repr

/-- A line of the second tier as one read delivers it: its 64 bytes, the CRC of its check line, and whether the device
returned it as poisoned (R291, R292). -/
structure TierRead where
  data : Bytes
  crc : Nat
  poisoned : Bool := false
  deriving DecidableEq, Repr

/-- What nature reports of a checked read (R240, R262, R292, R465): what the first read and its re-reads of a line or
half-burst delivered, on-die corrections, or a parity mismatch of the unit that holds the data (R473). `code`: the memory code
of a line tag (R239, R466). -/
inductive MemCheck where
  | sram (die code line : Nat) (reads : List LineRead)
  | hbm (addr : Nat) (reads : List BurstRead)
  | cxl (port device addr : Nat) (reads : List TierRead)
  | ecc (stack corrections : Nat)
  | parity (source : Nat)
  deriving DecidableEq, Repr

/-- A management request (R407): the IP address it comes from (16 bytes, an IPv4 address in IPv4-mapped form), its header
fields and data, and whether it found the request queue full (R409). -/
structure Req where
  addr : Bytes
  session : Nat
  seq : Nat
  index : Nat := 0
  sub : Nat := 0
  offset : Nat := 0
  last : Bool := true
  shadow : Bool := false
  full : Bool := false
  data : Bytes := []
  deriving DecidableEq, Repr

/-- What nature reports of writes to flash (R545): blocks retired, the highest erase count of a block written, whether the
write succeeded. -/
structure FlashReport where
  retired : Nat := 0
  erase : Nat := 0
  ok : Bool := true
  deriving DecidableEq, Repr

/-- A CXL device that start-up finds (R289, R290): its port and number, its width, its speed (1, 32 GT/s; 2, 64 GT/s), its
capacity. -/
structure CxlFound where
  port : Nat
  dev : Nat
  width : Nat
  speed : Nat
  capacity : Nat
  deriving DecidableEq, Repr

/-- What nature reports of the start-up stage that ends (R512): it passed; the straps as sampled; the tests, with the dies that
failed and the lanes that failed; the CXL devices found; it failed. -/
inductive StageReport where
  | passed
  | rom (slotsel : Nat) (stumpN : Bool)
  | tests (failed : List Nat) (lanes : List LaneFault)
  | links (devices : List CxlFound)
  | failed
  deriving DecidableEq, Repr

/-- A sample of the monitors (R475): both inputs in mV, rails as (rail, nominal mV, reading mV), clock instances as
(instance, kHz), REFCLK_CORE in Hz, sensors as (die number, or 128 + stack; °C), the coolant readings as F32 codes, and
the level of TAMPER_N. -/
structure MonitorReport where
  main : Nat
  backup : Nat
  rails : List (Nat × Nat × Nat) := []
  clocks : List (Nat × Nat) := []
  refclk : Nat := 100000000
  temps : List (Nat × Nat) := []
  inlet : Nat := 0
  outlet : Nat := 0
  tamper : Bool := false
  deriving DecidableEq, Repr

/-- The commands of the block: one constructor per row of the table of operations and events. -/
inductive Instr where
  /-- `POWER_GOOD` (R512). Power-good is asserted. The OSCDLY wait and the start-up stages begin. the delay sampled. -/
  | powerGood (oscdly : Nat)
  /-- `START_STAGE_DONE` (R512). A start-up stage completes and the next stage begins, or start-up ends in READY, FAILED or stump mode. what the stage found. -/
  | startStageDone (r : StageReport)
  /-- `START_STAGE_TIMEOUT` (R513). A start-up stage overruns its time limit, and start-up fails into FAILED or stump mode. -/
  | startStageTimeout
  /-- `SOURCE_UPDATE` (R582). A valid time-source update arrives. The engine steps or steers the counter, counts toward lock, or enters LOST. `offset`: the module's counter less the source's time, in sub-beat units; `logInterval`: the Sync message's logMessageInterval. -/
  | sourceUpdate (offset : Int) (logInterval : Int)
  /-- `SOURCE_LOST` (R34). Eight expected update intervals pass with no valid update, so the engine enters HOLDOVER or UNLOCKED. -/
  | sourceLost
  /-- `HOLDOVER_EXPIRED` (R36). HOLDOVER_ELAPSED reaches 10 s, so the engine enters LOST. -/
  | holdoverExpired
  /-- `BEAT_OVERFLOW` (R27). The beat counter would pass its largest value, so the engine enters the fault state with TIME_LOST. -/
  | beatOverflow
  /-- `BEAT_MARK` (R32). A beat mark is received on a skid port. The peer offset is updated, and the mark disciplines time under SKID. the port, and the frame that slot 0 of the far end carried. -/
  | beatMark (port : Nat) (f : SkidFrame)
  /-- `READ` (R408). A management READ returns an object value or a segment of it. the request. -/
  | read (q : Req)
  /-- `WRITE` (R411). A management WRITE is checked and sets a Tally object, a shadow copy or a segment of one, for objects that have no row of their own. the request; nature's report of the flash writes where it writes a table. -/
  | write (q : Req) (flash : FlashReport)
  /-- `DESCRIBE` (R408). DESCRIBE returns an object's type, access, flags, group, size and name. the request. -/
  | describe (q : Req)
  /-- `SESSION_CHALLENGE` (R414). SESSION_CHALLENGE returns a fresh 32-byte nonce, or AUTH_LOCKED during a lockout. the request. -/
  | sessionChallenge (q : Req)
  /-- `SESSION_OPEN` (R414). SESSION_OPEN verifies the signed nonce and opens a session bound to the requesting address, or refuses it. the request. -/
  | sessionOpen (q : Req)
  /-- `SESSION_CLOSE` (R415). SESSION_CLOSE closes the session and its bulk flows. the request. -/
  | sessionClose (q : Req)
  /-- `KEEPALIVE` (R408). KEEPALIVE refreshes the session and returns BEAT_NOW. the request. -/
  | keepalive (q : Req)
  /-- `SESSION_IDLE_TIMEOUT` (R415). A session sees neither a request nor a bulk block for 300 s and is closed. the session's identifier. -/
  | sessionIdleTimeout (id : Nat)
  /-- `SEQUENCE_ENTRY_EXPIRY` (R410). The sequence state of a sessionless address is removed 300 s after its last request. the address of a sessionless sequence entry. -/
  | sequenceEntryExpiry (addr : Bytes)
  /-- `AUTH_LOCK_EXPIRY` (R414). The 60 s challenge lockout ends. -/
  | authLockExpiry
  /-- `TALLY_APPLY` (R426). A write of a staged group's apply subindex checks the generation number and the consistency of the shadows, then captures a pending apply. the write of a group's apply subindex. -/
  | tallyApply (q : Req)
  /-- `APPLY_SAFE_POINT` (R426). A pending apply reaches its safe point, is checked again, and takes effect or lapses. the group. -/
  | applySafePoint (g : Nat)
  /-- `PERSIST_WRITE` (R425). A changed persistent value is written to the persistent Tally store. nature's report of the flash writes. -/
  | persistWrite (flash : FlashReport)
  /-- `OPERATOR_KEY` (R416). A write of an operator key slot enrols or removes a key and closes the sessions of that slot. the write of an operator-key object. -/
  | operatorKey (q : Req)
  /-- `DIAG_REG_READ` (R429). A read of DIAG_REG_DATA reads a die register over the configuration bus. the read of DIAG_REG_DATA. -/
  | diagRegRead (q : Req)
  /-- `DIAG_REG_WRITE` (R429). A write of DIAG_REG_DATA writes a die register over the configuration bus, including W1C and W1S fields. the write of DIAG_REG_DATA. -/
  | diagRegWrite (q : Req)
  /-- `XA_DIAG_SEL` (R120). A write of XA_DIAG_SEL clears DIAG_VALID and starts a capture of one accumulator. physical die, cluster of the die, the value written. -/
  | xaDiagSel (die n value : Nat)
  /-- `XA_DIAG_CAPTURE_DONE` (R97). A diagnostic capture completes, the data registers are loaded, and the residue is compared. K-step cycles of the pass in the pipeline that have reached the accumulate stage; whether the residue matched. -/
  | xaDiagCaptureDone (die n ksteps : Nat) (residueOk : Bool)
  /-- `CLK_GATE` (R497). A write to CLK_GATE opens or closes cluster, region or die gates, or is refused. the physical compute die; the value written. -/
  | clkGate (die value : Nat)
  /-- `EVENT_LOG` (R551). A read of EVENT_LOG at offset 0 captures the event ring, oldest first. the read of EVENT_LOG. -/
  | eventLog (q : Req)
  /-- `PLAN_SLOT` (R59). A write of PLAN_SLOT while EMPTY starts the load of a library slot. the write request. -/
  | planSlot (q : Req)
  /-- `PLAN_LOAD_COMPLETE` (R59). A plan load ends, either entering LOADED or rejecting the image with a reason. -/
  | planLoadComplete
  /-- `START` (R64). The START command arms the job for COMMAND_STEP at COMMAND_BEAT and sends it to the peers. the write of JOB_COMMAND. -/
  | start (q : Req)
  /-- `PAUSE_STEP` (R73). The PAUSE_STEP command schedules a pause at the first step boundary at or after the beat. the write of JOB_COMMAND. -/
  | pauseStep (q : Req)
  /-- `PAUSE_PASS` (R74). The PAUSE_PASS command schedules a pause at the beat, at pass boundaries. the write of JOB_COMMAND. -/
  | pausePass (q : Req)
  /-- `RESUME` (R75). The RESUME command schedules plan time to continue at the beat. the write of JOB_COMMAND. -/
  | resume (q : Req)
  /-- `STOP` (R64). The STOP command prevents further steps from beginning. Samples that will not be trained on are dropped or withdrawn. the write of JOB_COMMAND. -/
  | stop (q : Req)
  /-- `UNLOAD` (R64). The UNLOAD command discards the plan and returns the job to EMPTY. the write of JOB_COMMAND. -/
  | unload (q : Req)
  /-- `STEP_START` (R67). A step begins in plan time. Resetting sync objects are reset, decode for a later step begins, and at the START beat the job runs. -/
  | stepStart
  /-- `PHASE_WINDOW_START` (R68). A phase window opens. At NORM the partial test is taken, and at ADMIT carried samples are placed. the step, and the phase 0 to 5. -/
  | phaseWindowStart (k p : Nat)
  /-- `PHASE_WINDOW_END` (R71). A phase window ends. Overrun is checked and straggle or a fatal overrun follows. At the end of APPLY, statistics close and stale contributions are added. the step, and the phase 0 to 5. `checks`: what nature reports of the reads that it makes. -/
  | phaseWindowEnd (k p : Nat) (checks : List MemCheck)
  /-- `COMMIT` (R69). At the start of APPLY the fault latch is read, the step commits, and APPLY or the skip runs. -/
  | commit
  /-- `STEP_CLEAR` (R70). The clearance beat of a committed step passes. The step clears unless the latch is set, and captures of that step start. -/
  | stepClear
  /-- `PAUSE_TAKES_EFFECT` (R74). Plan time freezes at the pause point and the sequencers stop issuing. -/
  | pauseTakesEffect
  /-- `CLUSTER_PAUSE_SPILL` (R105). Once its issued work has completed, a paused cluster spills its tiles into its slots and gates its array. `cl`: the cluster, 12 × logical die + 4 × region + cluster. -/
  | clusterPauseSpill (cl : Nat)
  /-- `RESUME_TAKES_EFFECT` (R75). Plan time continues, PAUSE_TOTAL grows, and the clusters restore their tiles before issuing. -/
  | resumeTakesEffect
  /-- `NOP` (R154). A NOP instruction issues and does nothing. `cl`: the cluster, 12 × logical die + 4 × region + cluster. -/
  | nop (cl : Nat)
  /-- `MATRIX` (R160). A MATRIX pass is checked at issue and queued to the array. `cl`: the cluster, 12 × logical die + 4 × region + cluster. -/
  | matrix (cl : Nat)
  /-- `CONV` (R186). A CONV pass with a conv geometry descriptor is checked and queued to the array. `cl`: the cluster, 12 × logical die + 4 × region + cluster. -/
  | conv (cl : Nat)
  /-- `CROP` (R198). A CONV pass with a crop geometry descriptor samples boxes bilinearly on the array. `cl`: the cluster, 12 × logical die + 4 × region + cluster. -/
  | crop (cl : Nat)
  /-- `ELEMWISE` (R163). An element-wise pass is checked and queued to the array. `cl`: the cluster, 12 × logical die + 4 × region + cluster. -/
  | elemwise (cl : Nat)
  /-- `KAT` (R110). A known-answer pass on a tile is issued, and the sequencer signature is compared at this checkpoint. `cl`: the cluster, 12 × logical die + 4 × region + cluster. -/
  | kat (cl : Nat)
  /-- `DRAIN` (R165). A drain of a tile is accepted and waits behind the tile's fence. `cl`: the cluster, 12 × logical die + 4 × region + cluster. -/
  | drain (cl : Nat)
  /-- `DRAIN_SLOT` (R102). A drain of a spill slot rounds or sends its elements exactly and empties the slot. `cl`: the cluster, 12 × logical die + 4 × region + cluster. -/
  | drainSlot (cl : Nat)
  /-- `SPILL_STORE` (R102). A spill in store mode copies a tile exactly into its empty slot and reserves the tile. `cl`: the cluster, 12 × logical die + 4 × region + cluster. -/
  | spillStore (cl : Nat)
  /-- `SPILL_ADD` (R102). A spill in add mode adds a tile exactly into its slot and idles the tile. `cl`: the cluster, 12 × logical die + 4 × region + cluster. -/
  | spillAdd (cl : Nat)
  /-- `RESTORE` (R102). A RESTORE writes a stored slot back into its reserved tile. `cl`: the cluster, 12 × logical die + 4 × region + cluster. -/
  | restore (cl : Nat)
  /-- `COPY` (R220). The vector COPY operation converts its rows. `cl`: the cluster, 12 × logical die + 4 × region + cluster. -/
  | copy (cl : Nat)
  /-- `ADD` (R220). The vector ADD operation adds two sources. `cl`: the cluster, 12 × logical die + 4 × region + cluster. -/
  | add (cl : Nat)
  /-- `SUB` (R220). The vector SUB operation subtracts two sources. `cl`: the cluster, 12 × logical die + 4 × region + cluster. -/
  | sub (cl : Nat)
  /-- `MUL` (R220). The vector MUL operation multiplies two sources. `cl`: the cluster, 12 × logical die + 4 × region + cluster. -/
  | mul (cl : Nat)
  /-- `MAX` (R220). The vector MAX operation takes the larger of two sources. `cl`: the cluster, 12 × logical die + 4 × region + cluster. -/
  | max (cl : Nat)
  /-- `MIN` (R220). The vector MIN operation takes the smaller of two sources. `cl`: the cluster, 12 × logical die + 4 × region + cluster. -/
  | min (cl : Nat)
  /-- `SQDIFF` (R220). The vector SQDIFF operation writes the squared difference. `cl`: the cluster, 12 × logical die + 4 × region + cluster. -/
  | sqdiff (cl : Nat)
  /-- `ADD_IMM` (R220). The vector ADD_IMM operation adds the immediate. `cl`: the cluster, 12 × logical die + 4 × region + cluster. -/
  | addImm (cl : Nat)
  /-- `MUL_IMM` (R220). The vector MUL_IMM operation multiplies by the immediate. `cl`: the cluster, 12 × logical die + 4 × region + cluster. -/
  | mulImm (cl : Nat)
  /-- `MAX_IMM` (R220). The vector MAX_IMM operation takes the larger of the element and the immediate. `cl`: the cluster, 12 × logical die + 4 × region + cluster. -/
  | maxImm (cl : Nat)
  /-- `MIN_IMM` (R220). The vector MIN_IMM operation takes the smaller of the element and the immediate. `cl`: the cluster, 12 × logical die + 4 × region + cluster. -/
  | minImm (cl : Nat)
  /-- `AXPY` (R220). The vector AXPY operation writes a times c plus b. `cl`: the cluster, 12 × logical die + 4 × region + cluster. -/
  | axpy (cl : Nat)
  /-- `EXP` (R220). The vector EXP operation writes exp(a − c). `cl`: the cluster, 12 × logical die + 4 × region + cluster. -/
  | exp (cl : Nat)
  /-- `LOG` (R220). The vector LOG operation writes ln(a + c). `cl`: the cluster, 12 × logical die + 4 × region + cluster. -/
  | log (cl : Nat)
  /-- `RECIP` (R220). The vector RECIP operation writes the reciprocal of a + c. `cl`: the cluster, 12 × logical die + 4 × region + cluster. -/
  | recip (cl : Nat)
  /-- `RSQRT` (R220). The vector RSQRT operation writes the reciprocal square root of a + c. `cl`: the cluster, 12 × logical die + 4 × region + cluster. -/
  | rsqrt (cl : Nat)
  /-- `SQRT` (R220). The vector SQRT operation writes the square root of a + c. `cl`: the cluster, 12 × logical die + 4 × region + cluster. -/
  | sqrt (cl : Nat)
  /-- `TANH` (R220). The vector TANH operation writes tanh a. `cl`: the cluster, 12 × logical die + 4 × region + cluster. -/
  | tanh (cl : Nat)
  /-- `SIGMOID` (R220). The vector SIGMOID operation writes the logistic function of a. `cl`: the cluster, 12 × logical die + 4 × region + cluster. -/
  | sigmoid (cl : Nat)
  /-- `GELU` (R220). The vector GELU operation writes GELU of a. `cl`: the cluster, 12 × logical die + 4 × region + cluster. -/
  | gelu (cl : Nat)
  /-- `SILU` (R220). The vector SILU operation writes SiLU of a. `cl`: the cluster, 12 × logical die + 4 × region + cluster. -/
  | silu (cl : Nat)
  /-- `SEG_SUM` (R221). The vector SEG_SUM operation writes the exact sum of each segment. `cl`: the cluster, 12 × logical die + 4 × region + cluster. -/
  | segSum (cl : Nat)
  /-- `SEG_SUMSQ` (R221). The vector SEG_SUMSQ operation writes the exact sum of squares of each segment. `cl`: the cluster, 12 × logical die + 4 × region + cluster. -/
  | segSumsq (cl : Nat)
  /-- `SEG_MAX` (R221). The vector SEG_MAX operation writes the largest element of each segment. `cl`: the cluster, 12 × logical die + 4 × region + cluster. -/
  | segMax (cl : Nat)
  /-- `SEG_MIN` (R221). The vector SEG_MIN operation writes the smallest element of each segment. `cl`: the cluster, 12 × logical die + 4 × region + cluster. -/
  | segMin (cl : Nat)
  /-- `SOFTMAX` (R222). The vector SOFTMAX operation writes the softmax over each segment. `cl`: the cluster, 12 × logical die + 4 × region + cluster. -/
  | softmax (cl : Nat)
  /-- `LOGSUMEXP` (R222). The vector LOGSUMEXP operation writes m + ln s for each segment. `cl`: the cluster, 12 × logical die + 4 × region + cluster. -/
  | logsumexp (cl : Nat)
  /-- `XENT` (R222). The vector XENT operation writes the cross-entropy loss of each segment. `cl`: the cluster, 12 × logical die + 4 × region + cluster. -/
  | xent (cl : Nat)
  /-- `XENT_GRAD` (R222). The vector XENT_GRAD operation writes the softmax less the one-hot target. `cl`: the cluster, 12 × logical die + 4 × region + cluster. -/
  | xentGrad (cl : Nat)
  /-- `SEG_SCALE` (R220). The vector SEG_SCALE operation scales every element of a segment by its factor. `cl`: the cluster, 12 × logical die + 4 × region + cluster. -/
  | segScale (cl : Nat)
  /-- `SEG_SUB` (R220). The vector SEG_SUB operation subtracts a per-segment value from every element. `cl`: the cluster, 12 × logical die + 4 × region + cluster. -/
  | segSub (cl : Nat)
  /-- `SLICE` (R223). The vector SLICE operation cuts BF16 or FP32 panels into INT8 slices and a scale plane. `cl`: the cluster, 12 × logical die + 4 × region + cluster. -/
  | slice (cl : Nat)
  /-- `TOPK` (R225). A TOPK instruction writes the k largest or smallest values of each row, with their positions. `cl`: the cluster, 12 × logical die + 4 × region + cluster. -/
  | topk (cl : Nat)
  /-- `DMA_TRANSFER` (R172). A DMA with a transfer descriptor copies rows locally or to a peer, with ownership and stash checks. `cl`: the cluster. `checks`: what nature reports of the reads that it makes. -/
  | dmaTransfer (cl : Nat) (checks : List MemCheck)
  /-- `LIMBER_JOB` (R202). A DMA naming a limber geometry descriptor submits a job toward the die's limber queue. `cl`: the cluster. -/
  | limberJob (cl : Nat)
  /-- `LIMBER_JOB_ACCEPT` (R202). The limber queue accepts a waiting job, which frees the cluster's DMA queue. `cl`: the cluster. -/
  | limberJobAccept (cl : Nat)
  /-- `LIMBER_JOB_COMPLETE` (R202). A limber job writes and checks its last output and retires. physical compute die. `checks`: what nature reports of the reads that it makes; `collided`: lines (address / 64) that port A wrote in the same cycle. -/
  | limberJobComplete (die : Nat) (checks : List MemCheck) (collided : List Nat)
  /-- `BANK_CTRL` (R245). A DMA write to BANK_CTRL begins a handover or a power change, or is refused. `cl`: the cluster. `checks`: what nature reports of the reads that it makes. -/
  | bankCtrl (cl : Nat) (checks : List MemCheck)
  /-- `BANK_HANDOVER_COMPLETE` (R245). Accepted requests have completed, so the new owner takes effect and the DMA retires. physical die, control block index of the bank. -/
  | bankHandoverComplete (die bank : Nat)
  /-- `BANK_POWER_TRANSITION_DONE` (R248). A bank's power change or zero-fill completes. physical die, control block index of the bank. -/
  | bankPowerTransitionDone (die bank : Nat)
  /-- `SYNC_WAIT` (R174). A SYNC_WAIT registers with the object's home die and blocks issue. `cl`: the cluster. -/
  | syncWait (cl : Nat)
  /-- `SYNC_WAIT_SATISFIED` (R393). The home die notifies the sequencer that the value has reached the target, and issue resumes. `cl`: the cluster. -/
  | syncWaitSatisfied (cl : Nat)
  /-- `SYNC_SIGNAL` (R175). A SYNC_SIGNAL instruction adds its increment once its named queues have retired, or relays the signal over a skid port. `cl`: the cluster. -/
  | syncSignal (cl : Nat)
  /-- `SYNC_SIGNAL_ARRIVAL` (R391). A signal reaches the home of a sync object and is added, held for its step, or dropped as late. the `n`-th of the signals on the fabric. -/
  | syncSignalArrival (n : Nat)
  /-- `BEAT_WAIT` (R176). A BEAT_WAIT blocks issue until plan time reaches the named point. `cl`: the cluster. -/
  | beatWait (cl : Nat)
  /-- `BEAT_WAIT_REACHED` (R176). Plan time reaches a BEAT_WAIT's point, and issue resumes. `cl`: the cluster. -/
  | beatWaitReached (cl : Nat)
  /-- `BOUND_LOAD_IMMEDIATE` (R177). BOUND_LOAD form 0 writes a bound register from the immediate. `cl`: the cluster. -/
  | boundLoadImmediate (cl : Nat)
  /-- `BOUND_LOAD_MEMORY` (R177). BOUND_LOAD form 1 loads a bound register from memory. `cl`: the cluster. `back`: none, the instruction issues; what nature reports of the reads, the load completes. -/
  | boundLoadMemory (cl : Nat) (back : Option (List MemCheck))
  /-- `BOUND_LOAD_DERIVED` (R177). BOUND_LOAD form 2 derives a bound from another register with an offset and a cap. `cl`: the cluster. -/
  | boundLoadDerived (cl : Nat)
  /-- `MASK_RECTANGLE` (R167). MASK form 0 sets a mask register from row and column ranges. `cl`: the cluster. -/
  | maskRectangle (cl : Nat)
  /-- `MASK_BITMAP` (R167). MASK form 1 loads a mask register's bitmaps from memory. `cl`: the cluster. `back`: none, the instruction issues; what nature reports of the reads, the load completes. -/
  | maskBitmap (cl : Nat) (back : Option (List MemCheck))
  /-- `ARRAY_PASS_COMPLETE` (R152). A pass's last K step reaches the accumulate stage. The pass retires and releases scoreboard waiters. `cl`: the cluster, 12 × logical die + 4 × region + cluster. `checks`: what nature reports of the reads that it makes. -/
  | arrayPassComplete (cl : Nat) (checks : List MemCheck)
  /-- `DRAIN_FENCE` (R94). A tile's drain fence is reached and the drain, spill or check begins reading rows. `cl`: the cluster, 12 × logical die + 4 × region + cluster. -/
  | drainFence (cl : Nat)
  /-- `DRAIN_ROW_WRITE` (R96). A held drain row is accepted by its destination, and the drain path reads on. Residues are compared. `residue`: the column of a residue mismatch in the row, if there is one. `checks`: what nature reports of the reads that it makes. -/
  | drainRowWrite (cl : Nat) (residue : Option Nat) (checks : List MemCheck)
  /-- `DRAIN_PATH_OP_COMPLETE` (R152). A drain, spill or restore writes its last row and retires. `cl`: the cluster, 12 × logical die + 4 × region + cluster. `checks`: what nature reports of the reads that it makes. -/
  | drainPathOpComplete (cl : Nat) (checks : List MemCheck)
  /-- `KAT_CHECK_COMPLETE` (R110). The signature checker reads a known-answer tile's last row and compares the signature. the signature formed, and the place of a residue mismatch, if there is one. -/
  | katCheckComplete (cl signature : Nat) (residue : Option (Nat × Nat))
  /-- `KAT_MISSED` (R112). The plan time since an array's last known-answer pass exceeds KAT_PERIOD_BEATS. `cl`: the cluster, 12 × logical die + 4 × region + cluster. -/
  | katMissed (cl : Nat)
  /-- `VECTOR_OP_COMPLETE` (R152). A vector or top-k operation writes its last result and retires. `cl`: the cluster, 12 × logical die + 4 × region + cluster. `checks`: what nature reports of the reads that it makes. -/
  | vectorOpComplete (cl : Nat) (checks : List MemCheck)
  /-- `DMA_COMPLETE` (R152). A DMA's last byte is written and checked, or its peer acknowledgement arrives. It signals and retires. `checks`: what nature reports of the reads; `collided`: destination lines (address / 64) that port A wrote in the same cycle. -/
  | dmaComplete (cl : Nat) (checks : List MemCheck) (collided : List Nat)
  /-- `DATA` (R419). A bulk DATA block is received, checked against CRC and window, and taken in order; ingest samples are taken once whole. the flow, the block, its body, its `OB_CRC`; nature's report of the flash writes where it ends an upload. -/
  | bulkData (flow block : Nat) (body : Bytes) (crc : Nat) (flash : FlashReport)
  /-- `OPEN` (R420). A bulk OPEN requests a flow on a channel and is accepted or refused. the address it comes from, the session it names, the channel and its argument. -/
  | bulkOpen (addr : Bytes) (session channel sub : Nat)
  /-- `OPEN_ACK` (R418). An OPEN_ACK from the host answers a flow opened by Edzelys. the flow and the abort code. -/
  | bulkOpenAck (flow code : Nat)
  /-- `ACK` (R419). A cumulative bulk ACK frees acknowledged blocks and opens the send window. the flow, the next block expected, the window. `checks`: what nature reports of the reads of the blocks that it lets go out. -/
  | bulkAck (flow block window : Nat) (checks : List MemCheck)
  /-- `NAK` (R419). A bulk NAK makes the sender send the listed blocks again. the flow and the blocks named. -/
  | bulkNak (flow : Nat) (blocks : List Nat)
  /-- `CLOSE` (R418). A bulk CLOSE ends a flow. It stores plan uploads and stump images, and is answered once all blocks are held. the flow and its block count; nature's report of the flash writes. -/
  | bulkClose (flow blocks : Nat) (flash : FlashReport)
  /-- `CLOSE_ACK` (R418). A CLOSE_ACK from the host completes a flow that Edzelys sent. the flow and the abort code. -/
  | bulkCloseAck (flow code : Nat)
  /-- `ACK_TIMER` (R419). 50 µs pass after the last block with fewer than 32 outstanding, and an ACK is sent. the flow. -/
  | ackTimer (flow : Nat)
  /-- `RESEND_TIMER` (R419). 5 ms pass with no ACK, and the oldest unacknowledged block is sent again. the flow. -/
  | resendTimer (flow : Nat)
  /-- `BULK_FLOW_TIMEOUT` (R418). A flow receives nothing from its far end for 30 s and is closed. the flow. -/
  | bulkFlowTimeout (flow : Nat)
  /-- `CHECKPOINT_SKIPPED` (R448). No checkpoint flow opens within 30 s of the own slot completing. -/
  | checkpointSkipped
  /-- `HOST_LINK_UP` (R406). The host link comes up. -/
  | hostLinkUp
  /-- `HOST_LINK_DOWN` (R406). The host link goes down. The job runs on. -/
  | hostLinkDown
  /-- `DECODE_START` (R311). A queued sample is started in a free context once its decode may begin. the stand; the engine class: 0 video, 1 audio, 2 text, 3 delivered in decoded form. -/
  | decodeStart (stand cls : Nat)
  /-- `DECODE_TURN` (R303). An engine gives a context one turn of work, which may end in a drop or a wait for the pool. the stand, the sample by its arrival number, the MEDIA cycles of the turn, whether the decode ends with it, and what nature reports of the die's reads of its SRAM. -/
  | decodeTurn (stand arrival cycles : Nat) (ends : Bool) (checks : List MemCheck)
  /-- `DECODE_BUDGET_EXCEEDED` (R318). A sample's charged decode time exceeds its budget, and it is dropped with BUDGET. the stand, the sample by its arrival number. -/
  | decodeBudgetExceeded (stand arrival : Nat)
  /-- `OUTPUT_COMPLETE` (R323). A sample's converted and stemmed output is complete, and the packer places it in an open row. the stand, the sample by its arrival number, and what nature reports of the die's reads of its SRAM. -/
  | outputComplete (stand arrival : Nat) (checks : List MemCheck)
  /-- `ROW_WRITE_COMPLETE` (R323). A closed row's write to HBM completes, its samples are admitted, and their boxes are listed. the stand, the row geometry by its INGEST index, and what nature reports of the reads (the row in the die's SRAM, half-bursts of HBM written in part). -/
  | rowWriteComplete (stand geom : Nat) (checks : List MemCheck)
  /-- `GUARD_POINT` (R319). The guard point before the admission deadline is reached, and open rows close. the stand, the row geometry by its INGEST index. -/
  | guardPoint (stand geom : Nat)
  /-- `ADMISSION_DEADLINE` (R319). The admission deadline passes. Unplaced samples are carried or dropped and the row bound is set. -/
  | admissionDeadline
  /-- `DECODE_LOAD` (R328). Every 64 beats a bucking die publishes its decode load. the stand; the busy fractions of its engines in units of 1/65,535, as nature reports them. -/
  | decodeLoad (stand video audio text : Nat)
  /-- `GRADIENT` (R265). A gradient row arrives at its owner's base die and is added exactly, held or dropped as stale, or refused. `m`: a peer's row; none: the oldest row of this module's own clusters. `checks`: what nature reports of the block fetches. -/
  | gradient (m : Option Msg) (checks : List MemCheck)
  /-- `CONTRIBUTION_DEADLINE` (R350). A descriptor's contribution deadline passes, and the seen set of the step closes. the update descriptor. -/
  | contributionDeadline (n : Nat)
  /-- `NORM_PASS_COMPLETE` (R386). A module's base dies finish the NORM pass, and the warden forms its combine record. what nature reports of the reads. -/
  | normPassComplete (checks : List MemCheck)
  /-- `COMBINE_UP` (R386). A child's combine record arrives and is combined toward the root. the message. -/
  | combineUp (m : Msg)
  /-- `COMBINE_DOWN` (R356). The final combine record arrives or is formed at the root. It is forwarded, and the step's decisions are taken. the parent's message; none: formed at the root. -/
  | combineDown (m : Option Msg)
  /-- `APPLY_DESCRIPTOR_DONE` (R359). APPLY, or the skip, of one descriptor completes. The counter record and narrow copy are written, the buffer is cleared, and the descriptor signals. the update descriptor; what nature reports of the reads. -/
  | applyDescriptorDone (n : Nat) (checks : List MemCheck)
  /-- `WITHDRAW` (R351). A WITHDRAW message for a step is received and acknowledged. the message. -/
  | withdraw (m : Msg)
  /-- `SHADOW_COPY_DONE` (R278). A first-touch page copy into the pool completes, the page is SHADOWED, and the held write proceeds. the page, as HBM address / 2 MiB. `checks`: what nature reports of the reads that it makes. -/
  | shadowCopyDone (page : Nat) (checks : List MemCheck)
  /-- `PAGE_DONE` (R280). A captured page is read and accepted by its outbound path. Its pool page is freed, and the capture may complete. the page, as HBM address / 2 MiB; what nature reports of its read. -/
  | pageDone (page : Nat) (checks : List MemCheck)
  /-- `SKID_DATA_FRAME` (R379). A skid data frame is received. It is checked by CRC and sequence, acknowledged, and its message assembled or forwarded. the port, the frame, and how long an unplanned request waited before it was delivered, in ns. -/
  | skidDataFrame (port : Nat) (f : SkidFrame) (wait : Nat)
  /-- `SKID_NAK` (R379). A skid NAK frame makes the sender go back and send again, and may retrain the port. the port and the frame. -/
  | skidNak (port : Nat) (f : SkidFrame)
  /-- `IDLE_FRAME` (R376). An idle frame is received and its acknowledgement and credits are taken. the port and the frame. -/
  | idleFrame (port : Nat) (f : SkidFrame)
  /-- `LINK_CONTROL_FRAME` (R380). A link-control frame carries training identity, the epoch and the delay measurement. the port and the frame; what the far end says of itself in it; the link delay measured. -/
  | linkControlFrame (port : Nat) (f : SkidFrame) (part stepping farPort epoch : Nat) (serial : Bytes) (delay : Int)
  /-- `SKID_LINK_UP` (R380). A skid port completes training or a retrain and comes up. the port. -/
  | skidLinkUp (port : Nat)
  /-- `SKID_LINK_DOWN` (R380). A port is down for more than 1 ms, which is a fault on a used port. the port. -/
  | skidLinkDown (port : Nat)
  /-- `DMA_WRITE` (R385). A DMA_WRITE message is checked against the address map and written, then signals and acknowledges when the transfer is whole. the message. `checks`: what nature reports of the reads that it makes; `collided`: lines (address / 64) that port A wrote in the same cycle. -/
  | dmaWrite (m : Msg) (checks : List MemCheck) (collided : List Nat)
  /-- `RELAYED_SYNC_SIGNAL` (R392). A SYNC_SIGNAL message arrives and is added to the inbound object of its port. the message. -/
  | relayedSyncSignal (m : Msg)
  /-- `COMMAND` (R65). A peer's COMMAND message is recorded for comparison and acknowledged. the message. -/
  | command (m : Msg)
  /-- `E2E_ACK` (R384). An end-to-end acknowledgement retires a peer DMA or clears a gradient for withdrawal ordering. the message. -/
  | e2eAck (m : Msg)
  /-- `LINK_RECORD` (R380). A far end's link record gives its module index, job and digest. the message. -/
  | linkRecord (m : Msg)
  /-- `FAULT_NOTICE` (R388). A FAULT_NOTICE arrives, and the module enters the fault state with PEER_FAULT. the message. -/
  | faultNotice (m : Msg)
  /-- `CAPTURE_REQUEST` (R443). A CAPTURE_REQUEST names a step to capture, or is refused as passed. the message. -/
  | captureRequest (m : Msg)
  /-- `SNAP_PAGE` (R445). A partner's page chunk is written into a partner slot and its CRC checked. the message. -/
  | snapPage (m : Msg)
  /-- `PAIR` (R438). A PAIR request is checked and answered with PAIR_ACK. the message. -/
  | pair (m : Msg)
  /-- `PAIR_ACK` (R438). A PAIR_ACK gives the pairing result and the partner's feed IDs. the message. -/
  | pairAck (m : Msg)
  /-- `CAPTURE_SENT` (R445). CAPTURE_SENT tells the partner the page count of a remote copy. the message. -/
  | captureSent (m : Msg)
  /-- `HELD` (R445). The partner's HELD completes a held snapshot. The own slot is marked complete and SET_MEMBER is sent. the message. -/
  | held (m : Msg)
  /-- `SET_MEMBER` (R445). A SET_MEMBER is counted toward completing the snapshot set of its step. the message. -/
  | setMember (m : Msg)
  /-- `CAPTURE_REFUSED` (R444). A peer's refusal of a capture means that the set of its step is never complete. the message. -/
  | captureRefused (m : Msg)
  /-- `RESTORE_REFUSED` (R452). A remote source refuses to serve a restore. the message. -/
  | restoreRefused (m : Msg)
  /-- `RESTORE_READ` (R453). A source answers a RESTORE_READ with RESTORE_DATA from its partner slot. the message. -/
  | restoreRead (m : Msg)
  /-- `RESTORE_DATA` (R453). A chunk of restore data is written to its HBM page. the message. -/
  | restoreData (m : Msg)
  /-- `RESTORE_EXTENT_VERIFIED` (R453). An extent's page CRCs are verified or re-read. The last extent completes the restore. what nature reports of the reads. -/
  | restoreExtentVerified (checks : List MemCheck)
  /-- `RESTORE_GO_START` (R452). RESTORE_GO 1 checks the source and starts or resumes a restore. the write of RESTORE_GO. -/
  | restoreGoStart (q : Req)
  /-- `RESTORE_GO_STOP` (R454). RESTORE_GO 2 stops a restore and keeps no progress. the write of RESTORE_GO. -/
  | restoreGoStop (q : Req)
  /-- `RESTORE_STEP` (R454). A write of RESTORE_STEP or RESTORE_FROM clears restore progress. the write of RESTORE_STEP or RESTORE_FROM. -/
  | restoreStep (q : Req)
  /-- `WINDTHROW_EVALUATION` (R435). Every 1,024 beats the windthrow index is evaluated, arming and requesting captures. -/
  | windthrowEvaluation
  /-- `ENVIRONMENT_RECORD` (R548). Every 1,024 beats an environment telemetry record is sent. -/
  | environmentRecord
  /-- `FLIT_REPLAY` (R372). A die-to-die flit fails its CRC and is replayed, which may retrain the module or fail the link. the spine die 0 to 3 and the module on it (R370); whether a replay failed. -/
  | flitReplay (die module : Nat) (again : Bool)
  /-- `CXL_LINK_RETRAIN` (R298). A CXL link retrains, holding its traffic, and comes back possibly degraded. the port, the device, the speed and width reached. -/
  | cxlLinkRetrain (port dev speed width : Nat)
  /-- `CXL_LINK_DOWN` (R298). A CXL link is down for more than 1 ms, which is a fault or an event, and partner copies are lost. the port, the device. -/
  | cxlLinkDown (port dev : Nat)
  /-- `SCRUB_READ` (R542). An idle-cycle scrub read of an SRAM line, HBM half-burst or CXL line is checked and re-read on mismatch. the memory class; what the read found; whether it ends a pass. -/
  | scrubRead (cls : Nat) (checks : List MemCheck) (last : Bool)
  /-- `SCRUB_BEHIND` (R544). A scrub pass has not completed within twice its period. the memory class. -/
  | scrubBehind (cls : Nat)
  /-- `HBM_REFRESH_DUE` (R264). Refresh of a stack falls due, and is served first on its channels. the stack. -/
  | hbmRefreshDue (stack : Nat)
  /-- `STACK_TEMP_READ` (R259). Every 1 ms the stack temperature is read, and refresh is doubled at 85 °C. the stack; its temperature. -/
  | stackTempRead (stack temp : Nat)
  /-- `HBM_CALIBRATION` (R543). ZQ calibration or read and write training of a stack falls due. the stack. -/
  | hbmCalibration (stack : Nat)
  /-- `UNIT_KAT_TEST` (R471). A unit's known-answer test runs in idle cycles, or at an interruption point when overdue. the unit; whether its answers matched. -/
  | unitKatTest (unit : Nat) (ok : Bool)
  /-- `CHECKER_SELF_TEST` (R474). Every 60 s a checker is tested by injecting a known error. the checker; whether it must wait; whether it passed. -/
  | checkerSelfTest (checker : Nat) (waits ok : Bool)
  /-- `WARDEN_LOCKSTEP` (R477). A lockstep mismatch in the warden inhibits commit, holds the warden, and makes the spine send FAULT_NOTICE. -/
  | wardenLockstep
  /-- `CONTROLLER_LOCKSTEP` (R472). A lockstep mismatch in a controller raises a fault. the source whose controller pair differed. -/
  | controllerLockstep (source : Nat)
  /-- `MONITOR_SAMPLE` (R475). Every 100 µs the warden samples the supply, clock and temperature monitors. what the monitor measured. -/
  | monitorSample (r : MonitorReport)
  /-- `POWER_SAMPLE` (R493). Every 100 µs the input power is sampled and the power stretch demand adjusted. the power measured. -/
  | powerSample (watts : Nat)
  /-- `THERMAL_DEMAND_UPDATE` (R492). A sensor's thermal stretch demand rises every 10 µs, or falls every 100 µs. the sensor; its reading. -/
  | thermalDemandUpdate (sensor reading : Nat)
  /-- `STRETCH_STEP_DOWN` (R491). A stretch level falls by one level after a microsecond. the clock instance. -/
  | stretchStepDown (inst : Nat)
  /-- `PLL_LOCK_LOSS` (R490). A PLL loses lock, and the instance switches to its standby or bypass, or keeps running. the clock instance; whether the loop is B. -/
  | pllLockLoss (inst : Nat) (pllB : Bool)
  /-- `STANDBY_RELOCK` (R490). Every 1 ms an unlocked standby PLL tries to relock. the same; whether it locked again. -/
  | standbyRelock (inst : Nat) (pllB ok : Bool)
  /-- `SWITCH_OVER_START` (R501). The active feed reads below 40 V for 5 µs while the other is good, so a switch-over starts and stretch demand goes to 32. the two feeds, in millivolts. -/
  | switchOverStart (main backup : Nat)
  /-- `SWITCH_OVER_COMPLETE` (R501). The new feed carries the module and the switch-over demand is withdrawn. -/
  | switchOverComplete
  /-- `RETURN_TO_MAIN` (R502). MAIN has been good for 1 s with FEED_RETURN 1, so a return switch-over starts. the main feed, in millivolts. -/
  | returnToMain (main : Nat)
  /-- `SUPPLY_LOST` (R503). Both inputs read below 40 V for 5 µs. Commit is inhibited, notices are sent, and the module powers down. the two feeds, in millivolts. -/
  | supplyLost (main backup : Nat)
  /-- `FEED_BACKUP_LOW` (R504). The inactive input is out of range for 1 s. the backup feed, in millivolts. -/
  | feedBackupLow (mv : Nat)
  /-- `TAMPER` (R564). TAMPER_N is high for 1 ms, and the key store is wiped. -/
  | tamper
  /-- `COOLANT_DELTA_HIGH` (R580). The coolant rise has exceeded 16 °C for 1 s. the two temperatures. -/
  | coolantDeltaHigh (inlet outlet : Nat)
  /-- `CARD_CHANGED` (R572). A card is inserted or removed. the card detect level; the image file found. -/
  | cardChanged (card : Nat) (file : Bytes)
  /-- `FW_CARD_INSTALL` (R522). A write of FW_CARD_INSTALL starts an install of the card image into the slot that is not booted. the write. -/
  | fwCardInstall (q : Req)
  /-- `FW_INSTALL_COMPLETE` (R522). An install ends, marking the slot TRIAL or leaving it EMPTY with a result. nature's report of the flash writes. -/
  | fwInstallComplete (flash : FlashReport)
  /-- `FW_CONFIRM` (R523). A write of a trial image's header digest confirms it as ACTIVE. the write. -/
  | fwConfirm (q : Req)
  /-- `MODULE_RESTART` (R512). A write of MODULE_RESTART restarts the module through start-up. the write. -/
  | moduleRestart (q : Req)
  /-- `LIFECYCLE_RETURN` (R533). A write of the serial number requests the RETURN life-cycle state at the next start. the write. -/
  | lifecycleReturn (q : Req)
  /-- `ATTEST_NONCE` (R535). A write of a nonce makes the warden form and sign an attestation report. the write. -/
  | attestNonce (q : Req)
  /-- `FLASH_VERIFY` (R546). Every 24 h the flash images, library, tables and store copies are verified. the areas whose check failed. -/
  | flashVerify (failed : List Nat)
  /-- `BEAT_BOUNDARY` (R378). The local replica reaches a beat boundary. Every skid port sends its beat mark in slot 0, the warden sends beat marks over the spine, and slot counting restarts. -/
  | beatBoundary
  /-- `ANNOUNCE_MESSAGE` (R31). A PTP Announce message arrives and the best time transmitter clock algorithm chooses among the transmitters of the domain. the PTP Announce message: its sender's port identity, its domain, its data set, its logMessageInterval. -/
  | announceMessage (sender domain identity priority1 clockClass accuracy variance priority2 stepsRemoved : Nat) (logInterval : Int)
  /-- `ROUTE_FLOOD` (R383). A module's flooded list of used ports arrives while the job is ARMED, and the receiver extends its graph and forms its routes. the port it arrives on, the module, its used ports with their far modules. -/
  | routeFlood (port module : Nat) (ports : List (Nat × Nat))
  /-- `SKID_PORT_DOWN` (R380). A skid port loses its link, PORT_STATE goes to down, FAR_KNOWN clears, traffic on it is held, and the 1 ms down timer starts. the port. -/
  | skidPortDown (port : Nat)
  /-- `SPINE_RETRAIN_DONE` (R372). A UCIe module's retrain completes and its held traffic resumes, or the retrain fails to complete within 10 µs and SPINE_LINK_FAIL is raised. the same; whether the retrain completed in time. -/
  | spineRetrainDone (die module : Nat) (ok : Bool)
  /-- `CLOCK_SWITCH_DONE` (R489). A switched instance finishes its 64 cycles of the new source and runs again, and SWITCHING clears. the clock instance. -/
  | clockSwitchDone (inst : Nat)
  /-- `ICMP_ECHO_REQUEST` (R404). An ICMP or ICMPv6 echo request to the module's address arrives and is answered. the address it asks, in 16 bytes; the bytes of the request after its headers. -/
  | icmpEchoRequest (target data : Bytes)
  /-- `NEIGHBOUR_REQUEST` (R404). An ARP request or Neighbour Solicitation for the module's own address arrives and is answered. the address it asks for, in 16 bytes; the fields the answer returns. -/
  | neighbourRequest (target data : Bytes)
  /-- `FRAME_DISCARDED` (R405). A frame, fragment or Otdin datagram that matches nothing or fails its header CRC or version arrives, is discarded, and is counted. the Otdin datagram it brought, if it brought one; the codewords that the FEC corrected before it, and those that it could not. -/
  | frameDiscarded (dgram : Option Bytes) (corrected uncorrectable : Nat)
  /-- `UNDEFINED_OM_OP` (R408). A management datagram with an operation code that R408 does not define is answered with BAD_REQUEST. the request and its operation code. -/
  | undefinedOmOp (q : Req) (op : Nat)
  deriving DecidableEq, Repr

end Sys2Proof
end

