-- ==== Sys2Proof/Decode.lean ====
section
/-! DEFINITION. Decoding by the table of operations and events. The table gives bits to none of its rows: every row is an
operation or an event, not a word of an instruction stream. -/

namespace Sys2Proof

/-- The command that a word of `nbits` bits spells by the table: none, for the table gives no row any bits. -/
def decodeTableWord (_nbits _w : Nat) : Option Instr := none

end Sys2Proof
end

