-- ==== Sys2Proof/Machine/Joins.lean ====
section
/-! DEFINITION. Which dies the UCIe modules of the spine join, and the fixed paths between dies (R11 to R13, R370, R373). -/

namespace Sys2Proof

/-- `n` modules to physical die `d`. -/
def joins (n d : Nat) : List Nat := List.replicate n d

/-- The far dies of the modules of spine die `k`, in the model's order of them: the compute sites of its stand pair and its
spare site, the base dies, the bucking dies, the edge dies, the spine die before it and the one after it (R370). -/
def spineJoins (k : Nat) : List Nat :=
  if 3 < k then [] else
  (List.range 12).flatMap (fun i => joins 6 (12 * k + i)) ++ joins 6 (48 + k)
    ++ (List.range 8).flatMap (fun i => joins 6 (52 + 8 * k + i)) ++ joins 2 (84 + 2 * k) ++ joins 2 (85 + 2 * k)
    ++ (if k = 0 then joins 2 96 ++ joins 2 99 else if k = 3 then joins 2 97 ++ joins 2 98 else [])
    ++ (if k = 0 then [] else joins 16 (91 + k)) ++ (if k = 3 then [] else joins 16 (93 + k))

/-- The die at the far end of module `m` of spine die `k`, if the die has that module. -/
def spineFar (k m : Nat) : Option Nat := (spineJoins k)[m]?

/-- The other name of a module of a spine link: the spine die at its far end, and its place among that die's modules. -/
def spineTwin (k m : Nat) : Option (Nat × Nat) :=
  match spineFar k m with
  | some d =>
    if 92 ≤ d ∧ d ≤ 95 then some (d - 92, (spineJoins (d - 92)).idxOf (92 + k) + (m - (spineJoins k).idxOf d)) else none
  | none => none

/-- The spine die, 0 to 3, that a die attaches to, or is. -/
def spineOf (d : Nat) : Nat :=
  if d < 48 then d / 12 else if d < 52 then d - 48 else if d < 84 then (d - 52) / 8 else if d < 92 then (d - 84) / 2
  else if d < 96 then d - 92 else if d = 97 ∨ d = 98 then 3 else 0

/-- The spine dies that the path from die `a` to die `b` crosses, in order (R373). -/
def fixedPath (a b : Nat) : List Nat :=
  let x := spineOf a
  let y := spineOf b
  if x ≤ y then (List.range (y - x + 1)).map fun i => x + i else (List.range (x - y + 1)).map fun i => x - i

end Sys2Proof
end

