-- ==== Sys2Proof/Machine/Crc.lean ====
section
/-! DEFINITION. The cyclic checks of the part: CRC-16 (R239), CRC-32C (R261) and CRC-64 (R377), and the byte-order
helpers of R5. -/

namespace Sys2Proof.Machine

/-- The value of a little-endian byte string (R5). -/
def leNat : Bytes → Nat
  | [] => 0
  | b :: bs => b.toNat + 256 * leNat bs

/-- The `n` little-endian bytes of a value (R5). -/
def leBytes : Nat → Nat → Bytes
  | 0, _ => []
  | n + 1, x => BitVec.ofNat 8 x :: leBytes n (x / 256)

/-- `n` bytes from offset `o` of a byte string; bytes past its end are absent. -/
def slice (bs : Bytes) (o n : Nat) : Bytes := (bs.drop o).take n

/-- The little-endian field of `n` bytes at offset `o`. -/
def fieldAt (bs : Bytes) (o n : Nat) : Nat := leNat (slice bs o n)

/-- Bits [hi:lo] of a number (R5: both ends included). -/
def bitsOf (x hi lo : Nat) : Nat := (x / 2 ^ lo) % 2 ^ (hi + 1 - lo)

/-- A `w`-bit field read as two's complement. -/
def signed (w x : Nat) : Int := if x % 2 ^ w < 2 ^ (w - 1) then (x % 2 ^ w : Nat) else (x % 2 ^ w : Nat) - (2 ^ w : Nat)

/-- The `w`-bit two's-complement code of an integer. -/
def unsigned (w : Nat) (x : Int) : Nat := (x % (2 ^ w : Nat)).toNat

/-- One bit of a reflected CRC. -/
def crcStepR (w : Nat) (poly c : BitVec w) : BitVec w :=
  if c.getLsbD 0 then (c >>> 1) ^^^ poly else c >>> 1

/-- One byte of a reflected CRC. -/
def crcByteR (w : Nat) (poly c : BitVec w) (b : Byte) : BitVec w :=
  (List.range 8).foldl (fun c _ => crcStepR w poly c) (c ^^^ b.setWidth w)

/-- CRC-32C with the parameters of R261: 0x1EDC_6F41 reflected, initial value and final XOR all ones. -/
def crc32cFrom (c : BitVec 32) (bs : Bytes) : BitVec 32 := bs.foldl (crcByteR 32 0x82F63B78#32) c

/-- The finished CRC-32C of a byte string (R261). -/
def crc32c (bs : Bytes) : BitVec 32 := crc32cFrom 0xFFFFFFFF#32 bs ^^^ 0xFFFFFFFF#32

/-- CRC-64 of a skid frame (R377): 0x42F0_E1EB_A9EA_3693 reflected, initial value and final XOR all ones. -/
def crc64 (bs : Bytes) : BitVec 64 :=
  bs.foldl (crcByteR 64 0xC96C5795D7870F42#64) 0xFFFFFFFFFFFFFFFF#64 ^^^ 0xFFFFFFFFFFFFFFFF#64

/-- One bit of the CRC-16 of R239, not reflected. -/
def crc16Step (c : BitVec 16) : BitVec 16 := if c.msb then (c <<< 1) ^^^ 0x8BB7#16 else c <<< 1

/-- The CRC-16 of an SRAM line (R239): polynomial 0x8BB7, initial value 0, no reflection, no final XOR. -/
def crc16 (bs : Bytes) : BitVec 16 :=
  bs.foldl (fun c b => (List.range 8).foldl (fun c _ => crc16Step c) (c ^^^ ((b.setWidth 16 : BitVec 16) <<< (8 : Nat)))) 0#16

/-- The check of a line of SRAM: its 64 bytes, then the line tag (R239). -/
def lineCrc (line : Bytes) (memory lineNo : Nat) : BitVec 16 := crc16 (line ++ leBytes 4 (memory * 2 ^ 24 + lineNo))

/-- The check of an HBM half-burst: its 32 bytes, then its address (R261). -/
def halfBurstCrc (burst : Bytes) (addr : Nat) : BitVec 32 := crc32c (burst ++ leBytes 8 addr)

/-- The check of a captured page: its bytes, then its HBM address (R445). -/
def pageCrc (page : Bytes) (addr : Nat) : BitVec 32 := crc32c (page ++ leBytes 8 addr)

end Sys2Proof.Machine
end

