-- ==== Sys2Proof/Machine/Num.lean ====
section
/-! DEFINITION. Number formats, placement in the exact windows, and rounding (05: R123 to R142). Exact values are
rational numbers. -/

namespace Sys2Proof.Machine

/-- A power of two with an integer exponent. -/
def pow2 (e : Int) : ℚ := if 0 ≤ e then (2 ^ e.toNat : Nat) else 1 / ((2 ^ (-e).toNat : Nat) : ℚ)

/-- ⌊log2 |v|⌋ of a non-zero rational. -/
def log2q (v : ℚ) : Int :=
  let a := v.num.natAbs
  let k : Int := (Nat.log2 a : Int) - (Nat.log2 v.den : Int)
  -- k is the answer or one too large
  if pow2 k ≤ |v| then k else k - 1

/-- The nearest integer, ties to even (R140). -/
def rneInt (v : ℚ) : Int :=
  let f := v.floor
  let r := v - f
  if r < 1 / 2 then f else if 1 / 2 < r then f + 1 else if f % 2 = 0 then f else f + 1

/-- Truncation toward zero (R130). -/
def truncInt (v : ℚ) : Int := if v < 0 then -(-v).floor else v.floor

/-- The format codes of R137. -/
def fFP32 : Nat := 0x0
def fBF16 : Nat := 0x1
def fFP16 : Nat := 0x2
def fE4M3 : Nat := 0x3
def fE5M2 : Nat := 0x4
def fE3M2 : Nat := 0x5
def fE2M3 : Nat := 0x6
def fE2M1 : Nat := 0x7
def fINT8 : Nat := 0x8
def fINT32 : Nat := 0x9
def fE8M0 : Nat := 0xA
def fEXACT : Nat := 0xF

/-- A floating-point layout (R123): exponent bits, mantissa bits, bias, and the largest finite value (R125). -/
structure FloatFmt where
  ebits : Nat
  mbits : Nat
  bias : Int
  maxFin : ℚ
  deriving DecidableEq, Repr

/-- The layout of a floating-point format code (R123, R125, R137). -/
def floatFmt (f : Nat) : Option FloatFmt :=
  match f with
  | 0x0 => some ⟨8, 23, 127, (2 - pow2 (-23)) * pow2 127⟩
  | 0x1 => some ⟨8, 7, 127, (2 - pow2 (-7)) * pow2 127⟩
  | 0x2 => some ⟨5, 10, 15, 65504⟩
  | 0x3 => some ⟨4, 3, 7, 448⟩
  | 0x4 => some ⟨5, 2, 15, 57344⟩
  | 0x5 => some ⟨3, 2, 3, 28⟩
  | 0x6 => some ⟨2, 3, 1, 15 / 2⟩
  | 0x7 => some ⟨2, 1, 1, 6⟩
  | _ => none

/-- The element width in bits of a format code (R123, R137; EXACT is 16 bytes, R133). -/
def fmtWidth (f : Nat) : Nat :=
  match f with
  | 0x0 => 32 | 0x1 => 16 | 0x2 => 16 | 0x3 => 8 | 0x4 => 8 | 0x5 => 6 | 0x6 => 6 | 0x7 => 4
  | 0x8 => 8 | 0x9 => 32 | 0xA => 8 | 0xF => 128 | _ => 0

/-- Array operand formats (R137). -/
def isArrayOperand (f : Nat) : Bool := decide (0x3 ≤ f ∧ f ≤ 0x8)
/-- Drain forms other than EXACT (R137). -/
def isDrainForm (f : Nat) : Bool := decide (f ≤ 0x9)
/-- Forms with an MX drain (R137). -/
def isMxForm (f : Nat) : Bool := decide (0x3 ≤ f ∧ f ≤ 0x7)

/-- Whether an encoding is non-finite (R125). -/
def nonFinite (f x : Nat) : Bool :=
  match f with
  | 0x0 => bitsOf x 30 23 == 255
  | 0x1 => bitsOf x 14 7 == 255
  | 0x2 => bitsOf x 14 10 == 31
  | 0x3 => bitsOf x 6 0 == 0x7F
  | 0x4 => bitsOf x 6 2 == 31
  | _ => false

/-- The exact value of an encoding (R124; INT8 and INT32 are two's complement). Non-finite encodings are `none`. -/
def elemVal (f x : Nat) : Option ℚ :=
  if nonFinite f x then none
  else match floatFmt f with
    | some F =>
      let e := bitsOf x (F.ebits + F.mbits - 1) F.mbits
      let m := x % 2 ^ F.mbits
      let mag : ℚ :=
        if e = 0 then (m : ℚ) * pow2 (1 - F.bias - F.mbits)
        else ((2 ^ F.mbits + m : Nat) : ℚ) * pow2 ((e : Int) - F.bias - F.mbits)
      some (if (x / 2 ^ (F.ebits + F.mbits)) % 2 = 1 then -mag else mag)
    | none =>
      if f = 0x8 then some (signed 8 x)
      else if f = 0x9 then some (signed 32 x)
      else none

/-- The value used for an encoding: +0 in place of a non-finite one (R218, R128). -/
def elemVal0 (f x : Nat) : ℚ := (elemVal f x).getD 0

/-- The unbiased exponent of an E8M0 scale code (R127); 0xFF is NaN. -/
def scaleExp (x : Nat) : Option Int := if x % 256 = 255 then none else some ((x % 256 : Nat) - 127)

/-- What a rounding did besides its code (R141, R218). -/
structure RoundFlags where
  saturated : Bool := false
  flushed : Bool := false
  below : Bool := false
  deriving DecidableEq, Repr, Inhabited

/-- A rounded element: its code and what happened to it. -/
structure Rounded where
  code : Nat
  flags : RoundFlags
  deriving DecidableEq, Repr, Inhabited

/-- The largest finite magnitude's code of a floating-point format (R125). -/
def maxCode (f : Nat) : Nat :=
  match f with
  | 0x0 => 0x7F7FFFFF | 0x1 => 0x7F7F | 0x2 => 0x7BFF | 0x3 => 0x7E | 0x4 => 0x7B | 0x5 => 0x1F | 0x6 => 0x1F
  | 0x7 => 0x7 | _ => 0

/-- Round an exact value once to a floating-point form, ties to even (R140), with the conditions of R141.
`exactSat`: saturation is judged on the exact value (R218) and not on the rounded magnitude (R141). -/
def roundFloat (F : FloatFmt) (maxc : Nat) (exactSat : Bool) (v : ℚ) : Rounded :=
  if v = 0 then ⟨0, {}⟩
  else
    let sgn : Nat := if v < 0 then 2 ^ (F.ebits + F.mbits) else 0
    let a := |v|
    let emin : Int := 1 - F.bias
    let e := max (log2q a) emin
    let q := (rneInt (a * pow2 (F.mbits - e))).toNat
    let r : ℚ := (q : ℚ) * pow2 (e - F.mbits)
    if F.maxFin < r ∨ (exactSat ∧ F.maxFin < a) then ⟨sgn + maxc, { saturated := true }⟩
    else if q = 0 then ⟨0, { flushed := true }⟩
    else if q < 2 ^ F.mbits then ⟨sgn + q, { below := true }⟩
    else if q = 2 ^ (F.mbits + 1) then ⟨sgn + ((e + 1 + F.bias).toNat) * 2 ^ F.mbits, {}⟩
    else ⟨sgn + ((e + F.bias).toNat) * 2 ^ F.mbits + (q - 2 ^ F.mbits), {}⟩

/-- Round to a signed integer form of `w` bits, ties to even, clamped to its range (R141). -/
def roundInt (w : Nat) (v : ℚ) : Rounded :=
  let lo : Int := -(2 ^ (w - 1) : Nat)
  let hi : Int := (2 ^ (w - 1) : Nat) - 1
  let q := rneInt v
  if q < lo then ⟨unsigned w lo, { saturated := true }⟩
  else if hi < q then ⟨unsigned w hi, { saturated := true }⟩
  else ⟨unsigned w q, { flushed := decide (v ≠ 0 ∧ q = 0) }⟩

/-- Round an exact value once to the form `f` (R140, R141). -/
def roundTo (f : Nat) (exactSat : Bool) (v : ℚ) : Rounded :=
  match floatFmt f with
  | some F => roundFloat F (maxCode f) exactSat v
  | none => if f = 0x8 then roundInt 8 v else roundInt 32 v

/-- Round to FP32 and read the value back: one arithmetic operation of the near-memory engine (R270, R361). -/
def f32 (v : ℚ) : ℚ := elemVal0 fFP32 (roundTo fFP32 true v).code

/-- The FP32 code of an exact value, rounded once. -/
def f32Code (v : ℚ) : Nat := (roundTo fFP32 true v).code

/-- What a placement in a window did (R130). -/
structure Placed where
  val : Int
  saturated : Bool := false
  flushed : Bool := false
  below : Bool := false
  deriving DecidableEq, Repr, Inhabited

/-- Place an exact value in the window [2^lo, 2^hi) (R130): truncation toward zero below `2^lo`, the clamp at
`2^hi`; the result counts units of `2^lo`. -/
def place (lo hi : Int) (v : ℚ) : Placed :=
  if pow2 hi ≤ |v| then
    let m : Int := (2 ^ (hi - lo).toNat : Nat) - 1
    ⟨if v < 0 then -m else m, true, false, false⟩
  else
    let x := v * pow2 (-lo)
    let t := truncInt x
    ⟨t, false, decide (v ≠ 0 ∧ t = 0), decide ((t : ℚ) ≠ x)⟩

/-- Place a product in a tile's window [2^(E_REF - 64), 2^(E_REF + 32)) (R130). -/
def placeTile (eref : Int) (v : ℚ) : Placed := place (eref - 64) (eref + 32) v

/-- Place a contribution in a gradient buffer's window [2^(E_g - 80), 2^(E_g + 16)) (R134). -/
def placeGrad (eg : Int) (v : ℚ) : Placed := place (eg - 80) (eg + 16) v

/-- Place the square of a value in the norm window, units of 2^-144 (R136). -/
def placeNorm (v : ℚ) : Placed :=
  if pow2 32 ≤ |v| then ⟨(2 ^ 208 : Nat), true, false, false⟩
  else
    let x := v * v * pow2 144
    let t := truncInt x
    ⟨t, false, decide (v ≠ 0 ∧ t = 0), decide ((t : ℚ) ≠ x)⟩

/-- The value of a norm accumulator (R136). -/
def normVal (n : Int) : ℚ := (n : ℚ) * pow2 (-144)

/-- The value of a tile accumulator (R129) or slot element (R132). -/
def tileVal (eref : Int) (a : Int) : ℚ := (a : ℚ) * pow2 (eref - 64)

/-- The value of a gradient-buffer element (R134). -/
def gradVal (eg : Int) (g : Int) : ℚ := (g : ℚ) * pow2 (eg - 80)

/-- An exact transfer element: clamped to 128 bits when it comes from a slot (R133). -/
def exactTransfer (x : Int) : Int × Bool :=
  let lim : Int := (2 ^ 127 : Nat)
  if lim ≤ x then (lim - 1, true) else if x ≤ -lim then (1 - lim, true) else (x, false)

/-- The element exponent offset of an MX form (R142). -/
def mxElemExp (f : Nat) : Int :=
  match f with
  | 0x3 => 8 | 0x4 => 15 | 0x5 => 4 | 0x6 => 2 | _ => 2

/-- The scale exponent of an MX block with largest magnitude `m` (R142). -/
def mxScale (f : Nat) (m : ℚ) : Int :=
  if m = 0 then -127 else max (-127) (min 127 (log2q m - mxElemExp f))

/-- The largest magnitude of a list of values. -/
def maxAbs (vs : List ℚ) : ℚ := vs.foldl (fun m v => max m |v|) 0

/-- Element `q` of a packed string of elements of width `w` (R126: FP6 four to three bytes, FP4 two to a byte). -/
def unpackElem (w : Nat) (bs : Bytes) (q : Nat) : Nat :=
  if w = 6 then bitsOf (fieldAt bs (3 * (q / 4)) 3) (6 * (q % 4) + 5) (6 * (q % 4))
  else if w = 4 then bitsOf (fieldAt bs (q / 2) 1) (4 * (q % 2) + 3) (4 * (q % 2))
  else fieldAt bs (q * (w / 8)) (w / 8)

/-- The number of K elements packed in a lane (R83). -/
def packP (f : Nat) : Nat := match f with | 0x5 => 2 | 0x6 => 2 | 0x7 => 4 | _ => 1

/-- The legal pairings of array operands (R84). -/
def pairLegal (a b : Nat) : Bool :=
  isArrayOperand a && isArrayOperand b &&
  (decide (a = b) || (decide (a = 3 ∨ a = 4) && decide (b = 3 ∨ b = 4)) || (decide (a = 5 ∨ a = 6) && decide (b = 5 ∨ b = 6)))

/-! ### Slicing (R138) -/

/-- The unbiased exponent of a finite value of FP32 or BF16, subnormals counting as -126 (R138). -/
def sliceExp (v : ℚ) : Int := max (-126) (log2q v)

/-- The shared exponent of a block (R138): the largest exponent of its non-zero elements, clamped. -/
def blockExp (vs : List ℚ) : Int :=
  let es := (vs.filter (· ≠ 0)).map sliceExp
  match es with
  | [] => -127
  | e :: es => max (-127) (min 127 (es.foldl max e))

/-- The integer X of an element in a block of exponent `es`, `W = 7n` (R138). -/
def sliceX (n : Nat) (es : Int) (v : ℚ) : Nat := (|v| * pow2 (7 * n - 1 - es)).floor.toNat

/-- Slice `i` of an element: sign times digit `d_i` (R138). -/
def sliceDigit (n i : Nat) (es : Int) (v : ℚ) : Int :=
  let d : Int := ((sliceX n es v / 2 ^ (7 * (n - 1 - i))) % 128 : Nat)
  if v < 0 then -d else d

end Sys2Proof.Machine
end

