-- ==== Sys2Proof/Config.lean ====
section
/-! DEFINITION. What the manual leaves open, as free values: constants without a body, applied to a counter of the
state or to the operands they depend on, so that no proof can know them. -/

namespace Sys2Proof.Machine

/-- A decoded picture: the rows of its luma and chroma samples. -/
structure Picture where
  y : List (List Nat)
  cb : List (List Nat)
  cr : List (List Nat)
  deriving DecidableEq, Repr, Inhabited

/-- What the standards of R307 make of a payload. `unsupported`: a feature outside R307; `corrupt`: a syntax violation other than
running out of data; `early`: the payload ends before its pictures or samples are complete. Pictures have a size, a depth, a number
(`count`), chroma at every place or every second one along each axis (`subX`, `subY`), on luma samples or between them, and the
matrix and full range that are signalled, if any; `mono`: no chroma. A JPEG has the dequantised coefficients of its components' blocks: blocks to a
row, and the blocks. Audio has channels, a rate, a number of samples (`count`) and the FP32 codes of its samples. -/
structure Parsed where
  unsupported : Bool
  corrupt : Bool
  early : Bool
  width : Nat
  height : Nat
  depth : Nat
  count : Nat
  subX : Nat
  subY : Nat
  onLumaX : Bool
  onLumaY : Bool
  mono : Bool
  signalled : Option (Nat × Bool)
  pictures : List Picture
  blocks : List (Nat × List (List Int))
  channels : Nat
  rate : Nat
  audio : List (List Nat)
  deriving DecidableEq, Repr, Inhabited

end Sys2Proof.Machine

namespace Sys2Proof.Config

open Sys2Proof.Machine (Parsed)

/-- Free bytes: an undefined result of a vector operation (R219), stash contents after release (R276). -/
opaque freeByte : Nat → Nat → Byte

/-- Unit group and unit, bits [8:0] of a source ID (R9), of unit kind `k`: only the warden's (0), its telemetry unit's,
the packers' and the load units' are stated. -/
opaque unitCode : Nat → BitVec 9

/-- Free bits of undefined outcome. -/
opaque freeNat : Nat → Nat

/-- The 32 bytes of the n-th session nonce (R414: fresh; the values are not stated). -/
opaque nonce : Nat → Bytes

/-- The n-th random session ID (R414: non-zero and random). -/
opaque sessionId : Nat → Nat

/-- Whether an ML-DSA-65 signature verifies: key, context string, message, signature (R414, R519: FIPS 204). -/
opaque mlDsaVerify : Bytes → Bytes → Bytes → Bytes → Bool

/-- The module's ML-DSA-65 signature with the identity key: context string, message (R535). -/
opaque mlDsaSign : Bytes → Bytes → Bytes

/-- The module's identity public key, 1,952 bytes (R532: generated inside the key store). -/
opaque identityKey : Bytes

/-- The frequency word the servo chooses for a measured offset, from the present word (R29 gives its limits only). -/
opaque servoWord : Int → Nat → Nat

/-- The difference of a die's replica of the beat counter from the warden's after the n-th spine mark, in sub-beat units; R39
bounds it (`State.replica` applies the bound). -/
opaque replicaError : Nat → Nat → Int

/-- The bytes of the plan area that a load writes: of the relocated streams, the relocated DMA table, the update descriptors, the
bucking job descriptors and the expected signatures, in this order (R59 step 6, R469: their places in the area are not stated). -/
opaque planLayout : List Bytes → Bytes

/-- The payload of a link-control frame that says the given fields (R380: its layout is not stated). -/
opaque linkControl : Bytes → Bytes

/-- The value of accumulator (i, j) after `n` K-step cycles of a pass of known-answer pattern `p`, from zero (R110, R111: the
generator's operands are not stated). -/
opaque katSum : Nat → Nat → Nat → Nat → Int

/-- The expected signature of known-answer pattern `p` (R111: loaded by the warden; the values are not stated). -/
opaque katSignature : Nat → Nat

/-- A rounding that the bounded search of Transc.lean leaves undecided (never reached by R217's exact values). -/
opaque undecided : Nat → Nat

/-- What a payload of an ingest format holds: format code, payload (R304, R307: determined by standards outside the spec). -/
opaque parse : Nat → Bytes → Parsed

/-- The FP32 code of coefficient `k` of a phase of the resampling filter in a media table (R315: the table's format is not
stated). -/
opaque filterTap : Bytes → Nat → Nat → Nat

/-- The codes of the bands of one mel position, from the stream descriptor and the FP32 codes of its window of samples (R315: the order
of the FP32 operations is not stated). -/
opaque melBands : Bytes → List Nat → List Nat

/-- The token of a byte in a tokeniser table; the rank and the token of a pair that its merge table joins (R322: the table's format is
not stated). -/
opaque byteToken : Bytes → Byte → Nat
opaque mergePair : Bytes → Nat → Nat → Option (Nat × Nat)

/-- The value of a persistent object after migration between store versions (R524). -/
opaque migrated : Nat → Nat → Nat → Bytes → Bytes

/-- The certificate of the identity key that the factory writes (R532). -/
opaque certificate : Bytes

/-- The firmware image in slot A when the module reaches its reset state (R516). -/
opaque factoryImage : Bytes
/-- Fuses of a physical compute die: the bank that the spare of a region serves (R255); the rows, columns and lanes of a
cluster that test removed, as `XA_SPARE_MAP` and `VU_SPARE_MAP` show them (R119, R230). -/
opaque spareFor : Nat → Nat → Nat
opaque badRows : Nat → Nat → List Nat
opaque badCols : Nat → Nat → List Nat
opaque badLanes : Nat → Nat → List Nat

/-- Fused values (R428, R538): serial number, MAC address, root key digest; the digest of the ROM (R535). -/
opaque serial : Bytes
opaque mac : Nat
opaque rootKeyDigest : Bytes
opaque romDigest : Bytes
/-- The ROM's version (R529). -/
opaque romVersion : Nat

end Sys2Proof.Config
end

