-- ==== Sys2Proof/Machine/Sparse.lean ====
section
/-! DEFINITION. Sparse maps from natural keys: a list of (key, value) pairs with keys strictly rising and no entry
equal to what an unlisted key reads as. Memory and every indexed family of units are held this way. -/

namespace Sys2Proof.Machine

/-- What key `k` holds in the map `m` whose unlisted keys hold `d`. -/
def sget {v : Type} (d : v) : List (Nat × v) → Nat → v
  | [], _ => d
  | (a, x) :: m, k => if a = k then x else sget d m k

/-- Remove key `k`. -/
def serase {v : Type} : List (Nat × v) → Nat → List (Nat × v)
  | [], _ => []
  | (a, x) :: m, k => if a = k then serase m k else (a, x) :: serase m k

/-- Put `x` at key `k` of a map with rising keys. -/
def sput {v : Type} : List (Nat × v) → Nat → v → List (Nat × v)
  | [], k, x => [(k, x)]
  | (a, y) :: m, k, x =>
    if k < a then (k, x) :: (a, y) :: m
    else if a = k then (k, x) :: m
    else (a, y) :: sput m k x

/-- Write `x` at key `k`: a value equal to the default removes the entry, so that equal maps are equal lists. -/
def sset {v : Type} [DecidableEq v] (d : v) (m : List (Nat × v)) (k : Nat) (x : v) : List (Nat × v) :=
  if x = d then serase m k else sput m k x

/-- Keys strictly rise from `lo` on, and no entry holds the default. -/
def swfFrom {v : Type} [DecidableEq v] (d : v) : Nat → List (Nat × v) → Bool
  | _, [] => true
  | lo, (a, x) :: m => decide (lo ≤ a) && decide (x ≠ d) && swfFrom d (a + 1) m

/-- The canonical form of a sparse map. -/
def swf {v : Type} [DecidableEq v] (d : v) (m : List (Nat × v)) : Bool := swfFrom d 0 m

/-- Change the value at key `k` by a function. -/
def supd {v : Type} [DecidableEq v] (d : v) (m : List (Nat × v)) (k : Nat) (f : v → v) : List (Nat × v) :=
  sset d m k (f (sget d m k))

/-- Apply a function to every listed value. -/
def smap {v : Type} [DecidableEq v] (d : v) (f : v → v) (m : List (Nat × v)) : List (Nat × v) :=
  m.filterMap fun e => if f e.2 = d then none else some (e.1, f e.2)

/-- Change the entry of a list at position `i`, if there is one. -/
def listUpd {v : Type} (l : List v) (i : Nat) (f : v → v) : List v :=
  match l, i with
  | [], _ => []
  | x :: l, 0 => f x :: l
  | x :: l, i + 1 => x :: listUpd l i f

end Sys2Proof.Machine
end

