-- ==== Sys2Proof/Machine/State.lean ====
section
/-! DEFINITION. The state of the block: every piece of state the spec gives the module, as plain data, and its value
at reset. Sparse maps (Sparse.lean) hold families of units: an unlisted key reads as the family's reset value. -/

namespace Sys2Proof.Machine

/-! ### Time engine (02) -/

/-- `TIME_STATE` (R33). -/
inductive TimeState where
  | unlocked | acquiring | locked | holdover | lost
  deriving DecidableEq, Repr

/-- A time transmitter heard in the domain: its port identity, its announced data set in order of comparison, the engine cycle
of its last Announce message, and the interval it announces, in engine cycles (R31). -/
structure Announced where
  sender : Nat
  rank : List Nat
  last : Nat
  interval : Nat
  deriving DecidableEq, Repr

/-- The time engine (R27 to R47). -/
structure TimeEngine where
  /-- The 64-bit counter with 32 fractional bits, in units of 2^-32 sub-beat (R27, R29). -/
  counter : Nat := 0
  /-- Engine cycles of 2.5 ns since power-good: the elapsed time that timers count. -/
  cycles : Nat := 0
  valid : Bool := false
  state : TimeState := .unlocked
  /-- `LOCKED` has been entered since start-up. -/
  everLocked : Bool := false
  /-- Consecutive updates within the lock window (R582). -/
  lockCount : Nat := 0
  /-- Engine cycle of the last valid update (R34). -/
  lastUpdate : Nat := 0
  /-- The expected update interval, in tenths of an engine cycle (R34). -/
  interval : Nat := 4000000000
  /-- `TIME_OFFSET` (R46). -/
  offset : Int := 0
  /-- `FREQ_WORD` (R46). -/
  freqWord : Nat := 0xA000000000
  /-- The frequency word last in force in `LOCKED` (R37). -/
  lockedWord : Nat := 0xA000000000
  /-- Engine cycles spent in `HOLDOVER` since the state last left `LOCKED` (R36). -/
  holdover : Nat := 0
  /-- `PEER_BEAT_OFFSET` of each skid port (R46). -/
  peerOffset : List (Nat × Int) := []
  /-- Consecutive beats above a quarter beat, of each skid port (R38). -/
  peerSkew : List (Nat × Nat) := []
  /-- The transmitters heard in the domain (R31). -/
  heard : List Announced := []
  /-- The selected transmitter's port identity (R31). -/
  selected : Option Nat := none
  /-- Beat marks sent over the spine: the replica of every die runs since the last of them (R39). -/
  marks : Nat := 0
  deriving DecidableEq, Repr

/-! ### Events, statistics, background (20, 05) -/

/-- An event record (R550). -/
structure EventRec where
  stamp : Nat
  source : Nat
  code : Nat
  seq : Nat
  detail : List (BitVec 8)
  deriving DecidableEq, Repr

/-- Event ring, sequence numbers and telemetry counters (R43, R550 to R552). -/
structure Log where
  /-- The newest 65,536 records, oldest first (R551). -/
  ring : List EventRec := []
  /-- The last capture of the ring for a read of `EVENT_LOG` (R551). -/
  capture : List (BitVec 8) := []
  /-- Next sequence number of each source (R43). -/
  seq : List (Nat × Nat) := []
  /-- Newest stamp of each source (R43: stamps of one source never decrease). -/
  lastStamp : List (Nat × Nat) := []
  /-- The model's own: one more than the stamp of the message or signal whose work is being done, 0 with none (R45). -/
  cause : Nat := 0
  /-- `FAULT_HISTORY`: the newest 64 fault records, oldest first (R552). -/
  history : List EventRec := []
  deriving DecidableEq, Repr

/-- What `FAULT_FIRST` keeps (R481). -/
structure FaultFirst where
  code : Nat := 0
  source : Nat := 0
  stamp : Nat := 0
  step : Nat := 0
  phase : Nat := 0
  deriving DecidableEq, Repr

/-- The fault latch and its surroundings (R464, R478, R480). -/
structure Safety where
  latch : Bool := false
  inhibit : Bool := false
  selftestDue : Bool := false
  first : FaultFirst := {}
  /-- Successive samples over the limit, of each monitor (R475). -/
  monitorRun : List (Nat × Nat) := []
  /-- Engine cycle of each unit's last known-answer test (R471). -/
  unitTest : List (Nat × Nat) := []
  /-- Engine cycle of each checker's last self-test (R474). -/
  selfTest : List (Nat × Nat) := []
  deriving DecidableEq, Repr

/-- Background work (R540 to R556). -/
structure Background where
  /-- SRAM, HBM, CXL: passes completed, last duration in ms (R555). -/
  passes : List (Nat × Nat) := []
  passMs : List (Nat × Nat) := []
  /-- `BG_STATUS` bits SRAM_BEHIND, HBM_BEHIND, CXL_BEHIND (R554). -/
  behind : List (Nat × Bool) := []
  /-- Engine cycle at which the pass of a class began (R544). -/
  passBegan : List (Nat × Nat) := []
  verifyFailed : Bool := false
  /-- Spare flash blocks left (R545). -/
  spares : Nat := 2032
  retired : Nat := 0
  highestErase : Nat := 0
  bytesWritten : Nat := 0
  sparesLowRaised : Bool := false
  /-- Stamp of the last completed verification, failures since start (R555). -/
  verifyStamp : Nat := 0
  verifyFailures : Nat := 0
  lastVerify : Nat := 0
  deriving DecidableEq, Repr

/-- The five counts of one watch number and format code (R144). -/
structure Counts where
  elements : Nat := 0
  saturated : Nat := 0
  flushed : Nat := 0
  below : Nat := 0
  nonFinite : Nat := 0
  deriving DecidableEq, Repr

/-- Counts, histograms and flags of one step (R143 to R148). Keys: counts 16 w + f; bins 64 (16 w + f) + b. -/
structure StepStats where
  counts : List (Nat × Counts) := []
  hist : List (Nat × Nat) := []
  /-- The step's sticky non-finite flag (R145). -/
  nonFinite : Bool := false
  /-- The words of `HISTOGRAM_WATCH` in force in the step, once its statistics are closed (R147, R148). -/
  watch : List Nat := []
  /-- `STAT_FLAGS` (R148). -/
  fault : Bool := false
  straggler : Bool := false
  deriving DecidableEq, Repr

/-- Format statistics (R143 to R150). -/
structure Stats where
  /-- Open statistics by step (R147). -/
  steps : List (Nat × StepStats) := []
  /-- The newest closed step's statistics, and its number (R148: all ones for none). -/
  closed : StepStats := {}
  closedStep : Nat := 2 ^ 64 - 1
  /-- `ARRAY_PASSES`, `ARRAY_KSTEP_CYCLES`, `TILE_REUSE_STALL_CYCLES`, `KAT_PASSES` at the last close (R548). -/
  marks : List Nat := [0, 0, 0, 0]
  deriving DecidableEq, Repr

/-! ### Clusters (04, 06, 08) -/

/-- What a tile holds when no operation is in flight on it (R89). -/
inductive TileBase where
  | idle | live | reserved
  deriving DecidableEq, Repr

/-- An accumulator tile (R86): accumulators in units of 2^(eref - 64), keyed 128 i + j. -/
structure Tile where
  base : TileBase := .idle
  acc : List (Nat × Int) := []
  eref : Int := 0
  runK : Nat := 0
  deriving DecidableEq, Repr

/-- `STATE` of a spill slot (R101). -/
inductive SlotState where
  | empty | stored | accumulated
  deriving DecidableEq, Repr

/-- A spill slot and its tag (R100, R118). -/
structure Slot where
  state : SlotState := .empty
  byPause : Bool := false
  totalK : Nat := 0
  addCount : Nat := 0
  eref : Int := 0
  runK : Nat := 0
  elems : List (Nat × Int) := []
  deriving DecidableEq, Repr

/-- What a tile and its slot will be once every operation issued on them has completed (R103). -/
structure Ahead where
  base : TileBase := .idle
  eref : Int := 0
  runK : Nat := 0
  slot : SlotState := .empty
  slotEref : Int := 0
  slotRunK : Nat := 0
  deriving DecidableEq, Repr

/-- The kinds of array passes (R154). -/
inductive PassKind where
  | matrix | conv | crop | elemwise | kat
  deriving DecidableEq, Repr

/-- A pass in the array queue. `n`: its place in the cluster's issue order; `word`: the instruction as issued. -/
structure PassOp where
  n : Nat
  kind : PassKind
  tile : Nat
  word : Nat
  m : Nat
  nn : Nat
  k : Nat
  step : Nat
  idx : Nat
  deriving DecidableEq, Repr

/-- The kinds of drain-path operations (R153). -/
inductive DrainKind where
  | drain | drainSlot | spillStore | spillAdd | restore | katCheck
  deriving DecidableEq, Repr

/-- An operation in the drain-path queue: extents and mask as read at issue, whether its fence has passed (R94), and
the rows written so far (R96). -/
structure DrainOp where
  n : Nat
  kind : DrainKind
  tile : Nat
  word : Nat
  m : Nat
  nn : Nat
  rowBits : Nat
  colBits : Nat
  step : Nat
  idx : Nat
  fenced : Bool := false
  row : Nat := 0
  deriving DecidableEq, Repr

/-- An operation in the vector queue: extents as read at issue, and its progress. -/
structure VecOp where
  n : Nat
  word : Nat
  rows : Nat
  len : Nat
  step : Nat
  idx : Nat
  /-- Rows whose results are written. -/
  row : Nat := 0
  deriving DecidableEq, Repr

/-- What a DMA instruction does (R171, R203, R244). -/
inductive DmaKind where
  | transfer | limber | bank
  deriving DecidableEq, Repr

/-- An operation in the DMA queue. -/
structure DmaOp where
  n : Nat
  kind : DmaKind
  desc : Nat
  rows : Nat
  step : Nat
  idx : Nat
  done : Bool := false
  transfer : Nat := 0
  deriving DecidableEq, Repr

/-- A `SYNC_SIGNAL` that waits for the operations issued before it (R175). -/
structure PendSignal where
  n : Nat
  id : Nat
  after : Nat
  inc : Nat
  step : Nat
  idx : Nat
  deriving DecidableEq, Repr

/-- A `BOUND_LOAD` from memory, or a `MASK` of bitmaps (`mask`), whose register is not written yet (R152). -/
structure RegLoad where
  n : Nat
  mask : Bool
  word : Nat
  step : Nat
  idx : Nat
  deriving DecidableEq, Repr

/-- What blocks issue (R174, R176). -/
inductive SeqWait where
  | none
  | sync (id : Nat) (target : Nat)
  | beat (offset : Int) (sub : Nat)
  deriving DecidableEq, Repr

/-- One cluster: sequencer, array, drain path, vector unit, DMA engine. -/
structure Cluster where
  /-- `SEQ_INDEX` (R181). -/
  index : Nat := 0
  wait : SeqWait := .none
  /-- The step whose stream pass is running (R52). -/
  step : Nat := 0
  /-- The signature (R469). -/
  sig : BitVec 32 := 0xFFFFFFFF#32
  /-- `SEQ_ISSUED`, `SEQ_FULL_CYCLES`, `SEQ_WAIT_CYCLES` (R181). -/
  issued : Nat := 0
  fullCycles : Nat := 0
  waitCycles : Nat := 0
  /-- `LAST_REASON` (R182). -/
  lastReason : Nat := 0
  /-- Place of the next operation in issue order. -/
  issueNo : Nat := 0
  /-- `BNDk` (R183). -/
  bounds : List (Nat × Nat) := []
  /-- `SEQ_MASKm` (R183). -/
  masks : List (Nat × (Nat × Nat)) := []
  tiles : List (Nat × Tile) := []
  slots : List (Nat × Slot) := []
  ahead : List (Nat × Ahead) := []
  arrayQ : List PassOp := []
  drainQ : List DrainOp := []
  vecQ : List VecOp := []
  dmaQ : List DmaOp := []
  signals : List PendSignal := []
  loads : List RegLoad := []
  /-- Limber jobs that have left the DMA queue and not retired (R202): issue number, step, stream index. -/
  limberOps : List (Nat × Nat × Nat) := []
  /-- A known-answer pass that must complete before the next phase entry issues (R108). -/
  katHold : Bool := false
  /-- The spill of a pause has been taken (R105). -/
  pauseSpilled : Bool := false
  /-- Rows of the drain input, FP32 codes (R215). -/
  drainIn : List (List Nat) := []
  /-- `XA_STATUS`, `XA_DIAG_SEL`, `XA_DIAG_DATA0` to `3` and counters (R115 to R120). -/
  katNext : Nat := 0
  diagPrefence : Bool := false
  diagSel : Nat := 0
  diagValid : Bool := false
  diagBusy : Bool := false
  diagData : Int := 0
  passCount : Nat := 0
  stallCycles : Nat := 0
  katCount : Nat := 0
  /-- Plan time of the last completed known-answer pass, in sub-beat units (R112). -/
  katMark : Nat := 0
  /-- `VU_OPS`, `VU_STARVE_CYCLES` and stop state (R228, R229). -/
  vuOps : Nat := 0
  vuStarve : Nat := 0
  vuStopped : Bool := false
  deriving DecidableEq, Repr

/-! ### Plan and job (03) -/

/-- A cluster's stream as loaded: its instructions after relocation, its phase entries, and the expected signature of
each checkpoint (R52, R61, R469). -/
structure Stream where
  cluster : Nat
  words : List Nat
  entries : List Nat
  expected : List (Nat × BitVec 32)
  deriving DecidableEq, Repr

/-- A declared sync object (R53). -/
structure SyncDecl where
  id : Nat
  resets : Bool
  initial : Nat
  target : Nat
  deriving DecidableEq, Repr

/-- A branch's stash (R54). -/
structure StashDecl where
  branch : Nat
  hbmBase : Nat
  hbmSize : Nat
  cxlBase : Nat
  cxlSize : Nat
  ceiling : Nat
  deriving DecidableEq, Repr

/-- A shape class (R55). -/
structure ShapeClass where
  cls : Nat
  source : Nat
  plannedMax : Nat
  initial : Nat
  clip : Nat
  deriving DecidableEq, Repr

/-- A skid port's peer (R57). -/
structure PeerDecl where
  used : Bool
  module : Nat
  deriving DecidableEq, Repr

/-- The loaded plan (R48 to R58). Descriptors of the DMA, update and ingest tables are kept as their bytes. -/
structure Plan where
  planId : Nat
  jobId : Nat
  setDigest : List (BitVec 8)
  imageDigest : List (BitVec 8)
  moduleIndex : Nat
  moduleCount : Nat
  leadSteps : Nat
  stepBeats : Nat
  phaseStart : List Int
  phaseEnd : List Int
  katPeriod : Nat
  planArea : Nat × Nat
  staging : Nat × Nat
  dieMask : List Nat
  streams : List Stream
  dma : List (List (BitVec 8))
  sync : List SyncDecl
  stash : List StashDecl
  updates : List (List (BitVec 8))
  classes : List ShapeClass
  peers : List PeerDecl
  ingest : List (List (BitVec 8))
  deriving DecidableEq, Repr

/-- `JOB_STATE` (R63). -/
inductive JobState where
  | empty | loaded | armed | running | paused | stopped | fault
  deriving DecidableEq, Repr

/-- A job command as sent to the peers (R65). -/
structure JobCmd where
  kind : Nat
  beat : Nat
  step : Nat
  digest : List (BitVec 8)
  deriving DecidableEq, Repr

/-- A pause that has not taken effect (R73, R74): the beat at which plan time freezes; `pass`: it freezes inside FORWARD or
BACKWARD under `PAUSE_PASS`. -/
structure PendPause where
  pass : Bool
  beat : Nat
  deriving DecidableEq, Repr

/-- Per-step progress of a job: which windows have opened and ended. -/
structure StepRec where
  /-- Bit p: the window of phase p has opened / ended. -/
  opened : Nat := 0
  ended : Nat := 0
  /-- Phases whose planned work outside the clusters is retired, as reported (R71). -/
  straggles : Bool := false
  committed : Bool := false
  cleared : Bool := false
  /-- Phases that overran (telemetry, R548). -/
  overran : Nat := 0
  /-- Beat (not plan time) of the end of APPLY (R70). -/
  applyEnd : Nat := 0
  deriving DecidableEq, Repr

/-- The job (R63 to R78). -/
structure Job where
  state : JobState := .empty
  loadResult : Nat := 0
  /-- The library slot whose load is in progress (R59). -/
  loading : Option Nat := none
  plan : Option Plan := none
  /-- `COMMAND_BEAT` and `COMMAND_STEP` of `START` (R67). -/
  startBeat : Nat := 0
  startStep : Nat := 0
  /-- Beat at which plan time froze; `PAUSE_TOTAL` (R66, R75). -/
  frozenAt : Option Nat := none
  frozenByPass : Bool := false
  pauseTotal : Nat := 0
  pendingPause : Option PendPause := none
  resumeAt : Option Nat := none
  stopping : Bool := false
  /-- Newest step begun (R67). -/
  begun : Option Nat := none
  steps : List (Nat × StepRec) := []
  /-- `STEP_NOW`, `PHASE_NOW` (R66). -/
  stepNow : Nat := 0
  phaseNow : Nat := 0
  lastCommitted : Nat := 2 ^ 64 - 1
  lastCleared : Nat := 2 ^ 64 - 1
  overruns : Nat := 0
  stragglers : Nat := 0
  /-- Commands received from peers, by module, and the module's own last command (R65). -/
  peerCmds : List (Nat × List JobCmd) := []
  myCmd : Option JobCmd := none
  /-- Once-per-step events already raised (keys of Ops.lean), with their step. -/
  firsts : List (Nat × Nat) := []
  /-- `LAST_BOUND_EXCEEDED` (R184). -/
  lastBound : List Nat := [0, 0, 0, 0, 0, 0, 0]
  deriving DecidableEq, Repr

/-! ### Spine, skid links, synchronisation (14) -/

/-- `SPINE_STATUS` of a spine die and its modules (R400, R401). Modules are numbered within the die. -/
structure Spine where
  stopped : Bool := false
  /-- Spare lanes fused in, by 2 × module + direction (R371). -/
  lanes : List (Nat × Nat) := []
  replaySeen : Bool := false
  replays : Nat := 0
  /-- Replays in a row of the flit now replayed, per module; whether it was retrained for that flit. -/
  run : List (Nat × Nat) := []
  afterRetrain : List (Nat × Bool) := []
  retraining : List (Nat × Bool) := []
  deriving DecidableEq, Repr

/-- `PORT_STATE` (R401). -/
inductive PortState where
  | down | training | up | retraining | epochHeld
  deriving DecidableEq, Repr

/-- A message that waits for a skid port (R395 to R397). `own`: it is this module's, and takes its stamp and number when its
first flit is sent (R42); `input`: the input of the port's arbiter; `since`: the stamp at which it entered the fabric. -/
structure Queued where
  msg : Msg
  own : Bool
  input : Nat
  since : Nat
  /-- The stamp must not be below it (R45). -/
  cause : Nat
  deriving DecidableEq, Repr

/-- A skid port (R375 to R380, R395 to R397, R401). -/
structure SkidPort where
  state : PortState := .down
  farModule : Nat := 0
  farPort : Nat := 0
  farKnown : Bool := false
  farJob : Nat := 0
  farDigest : Bytes := []
  farPart : Nat := 0
  farStepping : Nat := 0
  farSerial : Bytes := []
  farEpoch : Nat := 0
  /-- Link delay in sub-beat units (R32, R380). -/
  delay : Int := 0
  crcMismatch : Bool := false
  nakSent : Bool := false
  retrained : Bool := false
  resends : Nat := 0
  framesTx : Nat := 0
  framesRx : Nat := 0
  /-- Next sequence number to send, and the one expected (R379). -/
  txSeq : Nat := 0
  rxSeq : Nat := 0
  /-- Frames sent and not acknowledged, oldest first (R379). -/
  replay : List SkidFrame := []
  /-- Messages not begun, oldest first; by class, the frames still to be sent of the message begun (R376, R395). -/
  waiting : List Queued := []
  sending : List (Nat × List SkidFrame) := []
  /-- The next slot unused in beat `slotBeat` (R378, R395). -/
  slot : Nat := 0
  slotBeat : Nat := 0
  /-- Present weights of the smoothed weighted round robin, by input, die and source (R397). -/
  arb : List (Nat × Int) := []
  /-- Numbers of this module's gradient rows sent on the port and not acknowledged (R384). -/
  unacked : List Nat := []
  /-- Receive-buffer credits held, by class (R376). -/
  credits : List (Nat × Nat) := []
  /-- Sequence number NAKed, how often in a row, and whether a retrain was made for it (R379). -/
  nakSeq : Nat := 0
  nakRun : Nat := 0
  nakRetrained : Bool := false
  /-- NAKs sent in a row for the frame expected; whether a retrain was made for it. -/
  rxNakRun : Nat := 0
  rxNakRetrained : Bool := false
  /-- Messages being assembled, by class (R381). -/
  partialMsg : List (Nat × Bytes) := []
  /-- Engine cycle at which the port went down; whether `SKID_LINK_DOWN` was raised for it (R380). -/
  downSince : Nat := 0
  downRaised : Bool := false
  deriving DecidableEq, Repr

/-- An inbound peer transfer in progress (R384): origin, transfer number, bytes so far. -/
structure Inbound where
  origin : Nat
  xfer : Nat
  got : Nat
  deriving DecidableEq, Repr

/-- Messages and routes (R381 to R388). -/
structure Net where
  /-- Each module's flooded list of used ports: (port, far module) (R383). -/
  graph : List (Nat × List (Nat × Nat)) := []
  /-- Next transfer number (R381). -/
  nextXfer : Nat := 0
  inbound : List Inbound := []
  /-- Messages assembled from frames and not yet taken (R379, R381). -/
  inbox : List Msg := []
  /-- `ARB_WAIT_MAX`, `COMBINE_LAST` (R402). -/
  arbWaitMax : Nat := 0
  combineStep : Nat := 0
  combineStamp : Nat := 0
  combineDepth : Nat := 0
  deriving DecidableEq, Repr

/-- A sync signal on its way, or held in a home die's pending queue (R391). -/
structure Signal where
  /-- The source ID of the unit that signals (R373). -/
  src : Nat
  id : Nat
  inc : Nat
  step : Nat
  /-- Stamp of the signal, for R45. -/
  stamp : Nat
  deriving DecidableEq, Repr

/-- A wait registered with a home die (R393). -/
structure SyncWaiter where
  cluster : Nat
  id : Nat
  target : Nat
  satisfied : Bool
  deriving DecidableEq, Repr

/-- The sync objects (R389 to R393). -/
structure Sync where
  values : List (Nat × Nat) := []
  /-- Signals on the fabric that have not reached their home. -/
  transit : List Signal := []
  /-- Pending queues of the home dies, at most 256 signals per home. -/
  held : List Signal := []
  waits : List SyncWaiter := []
  deriving DecidableEq, Repr

/-! ### Start-up, firmware, identity (19, 21, 01) -/

/-- A firmware slot (R516): its state, its trial count, its image. -/
structure FwSlot where
  state : Nat := 0
  trials : Nat := 0
  image : List (BitVec 8) := []
  deriving DecidableEq, Repr

/-- A copy of the persistent Tally store (R524): values of RW objects and active values, by key. -/
structure StoreCopy where
  valid : Bool := false
  version : Nat := 0
  counter : Nat := 0
  rw : List (Nat × List (BitVec 8)) := []
  active : List (Nat × List (BitVec 8)) := []
  deriving DecidableEq, Repr

/-- Start-up, firmware and identity. -/
structure Startup where
  /-- `LOGICAL_DIE_MAP`, `SPARE_SITE_STATE`, `REPAIR_COUNT`, `DIE_MAP_GENERATION` (R20). -/
  dieMap : List Nat := List.range 48
  spares : List Nat := [0xFF, 0xFF, 0xFF, 0xFF]
  repairs : Nat := 0
  mapGeneration : Nat := 0
  /-- `START_STAGE` (R537: reset 9, `READY`); the cycle at which it began, and at which stage 0 ended. -/
  stage : Nat := 9
  stageBegan : Nat := 0
  began : Nat := 0
  /-- `START_TIME_MS`, `BOOT_CAUSE`, `BOOT_COUNT` (R538). -/
  timeMs : Nat := 0
  cause : Nat := 0
  bootCount : Nat := 0
  /-- Stump mode and its cause. -/
  stump : Option Nat := none
  powered : Bool := true
  /-- Straps as sampled. -/
  oscdly : Nat := 0
  slotsel : Nat := 0
  stumpN : Bool := true
  bootB : Bool := false
  slots : List FwSlot := [{ state := 2, image := Config.factoryImage }, {}]
  lifecycle : Nat := 2
  returnPending : Bool := false
  security : Nat := 0
  securityPending : Nat := 0
  /-- An identity key is held. -/
  identity : Bool := true
  /-- `CARD_STATE`; the update file on the card. -/
  card : Nat := 0
  cardFile : List (BitVec 8) := []
  cardChanged : Bool := false
  tamperSeen : Bool := false
  tamperHigh : Bool := false
  storeReset : Bool := false
  /-- `FW_RESULT`; an install in progress. -/
  result : Nat := 0
  installing : Bool := false
  /-- Compute sites that failed the tests of this start and wait for their fuses (R512). -/
  found : List Nat := []
  /-- The formats in which a library slot, or 64 + table, is held; two copies where it was written while the booted slot was `TRIAL`
  (R526). -/
  formats : List (Nat × List Nat) := []
  /-- What flash holds in a newer format than the booted firmware's alone: library slot, or 64 + table (R526). -/
  unread : List (Nat × List (BitVec 8)) := []
  /-- The measurements of this start: type, digest (R520). -/
  measured : List (Nat × List (BitVec 8)) := []
  report : List (BitVec 8) := []
  /-- The two copies of the persistent store, the protected set, persistent keys changed and not stored. -/
  stores : List StoreCopy := [{}, {}]
  protectedSet : List (Nat × List (BitVec 8)) := []
  dirty : List Nat := []
  /-- The warden is held in reset by a lockstep mismatch (R477). -/
  wardenHeld : Bool := false
  deriving DecidableEq, Repr

/-! ### Clocks and supplies (18, 21) -/

/-- A clock instance (R486 to R491, R507). `switching`: the source it is switching to. -/
structure ClkInst where
  source : Nat := 0
  lockA : Bool := true
  lockB : Bool := false
  switching : Option Nat := none
  level : Nat := 0
  lockLost : Bool := false
  switched : Bool := false
  stretched : Bool := false
  kHz : Nat := 0
  deriving DecidableEq, Repr

/-- The gate tree of a compute die (R497, R509). -/
structure Gates where
  refused : Bool := false
  die : Bool := true
  regions : Nat := 7
  clusters : Nat := 0xFFF
  deriving DecidableEq, Repr

/-- Clocks and supplies. Voltages in mV, power in W. -/
structure Power where
  inst : List (Nat × ClkInst) := []
  gates : List (Nat × Gates) := []
  /-- Thermal demand of each sensor (R492): die number, or 128 + stack; cycle of its last change. -/
  thermal : List (Nat × Nat) := []
  thermalAt : List (Nat × Nat) := []
  /-- Last readings in °C, by sensor. -/
  temps : List (Nat × Nat) := []
  powerDemand : Nat := 0
  powerRun : Nat := 0
  power : Nat := 0
  main : Nat := 0
  backup : Nat := 0
  /-- 0 MAIN, 1 BACKUP. -/
  feed : Nat := 0
  switching : Bool := false
  /-- The switch-over in progress is one of R502. -/
  returning : Bool := false
  lowRaised : Bool := false
  /-- Coolant readings as F32 codes (R579), and whether `COOLANT_DELTA_HIGH` stands. -/
  inlet : Nat := 0
  outlet : Nat := 0
  deltaHigh : Bool := false
  /-- Beat of the last environment record (R548). -/
  envBeat : Nat := 0
  /-- Cycle up to which `STRETCH_TIME` has been counted. -/
  stretchMark : Nat := 0
  /-- The last level fall, by instance. -/
  fallAt : List (Nat × Nat) := []
  deriving DecidableEq, Repr

/-! ### Die memory and the limber engine (09, 07) -/

/-- A `BANK_CTRL` write in progress or waiting (R245): the cluster and operation that wrote it, and the value. -/
structure BankWrite where
  cluster : Nat
  n : Nat
  value : Nat
  deriving DecidableEq, Repr

/-- A bank of region or die SRAM (R242 to R248, R252 to R254). -/
structure Bank where
  owner : Nat := 0xFF
  power : Nat := 0
  powerNow : Nat := 0
  /-- The write between steps 1 and 4 of R245, and those waiting behind it. -/
  handover : Option BankWrite := none
  queued : List BankWrite := []
  transition : Bool := false
  lastNonOwner : Nat := 0xFF
  lastCollider : Nat := 0xFF
  collision : Bool := false
  notOnAccess : Bool := false
  notOwnerAccess : Bool := false
  deriving DecidableEq, Repr

/-- A limber job accepted by an engine (R202): the cluster and operation that submitted it (for a bucking die, the
sample context), the geometry descriptor and the rows. -/
structure LimberJob where
  cluster : Nat
  n : Nat
  desc : Nat
  rows : Nat
  step : Nat
  deriving DecidableEq, Repr

/-- A limber engine (R201, R209). -/
structure Limber where
  queue : List LimberJob := []
  jobs : Nat := 0
  products : Nat := 0
  stopped : Bool := false
  deriving DecidableEq, Repr

/-! ### Parameter update (13) -/

/-- What the NORM pass forms of a descriptor (R353, R354): contributor scale, ‖w‖² and ‖u‖² in units of 2^-144, A, and
whether it is partial (R350, R351). -/
structure NormRec where
  scale : ℚ := 1
  w2 : Int := 0
  u2 : Int := 0
  h2 : Int := 0
  contributors : Nat := 0
  isPartial : Bool := false
  deriving DecidableEq, Repr

/-- A group's part of a combine record (R355, R387); the default is that of a module with no descriptor of the group. -/
structure GroupRec where
  appliedLo : Nat := 2 ^ 64 - 1
  appliedHi : Nat := 0
  checkLo : Nat := 2 ^ 32 - 1
  checkHi : Nat := 0
  isPartial : Bool := false
  deriving DecidableEq, Repr

/-- A combine record (R387). -/
structure CombineRec where
  step : Nat
  g : Int
  nonFinite : Bool
  jobLo : Nat
  jobHi : Nat
  /-- Withdrawn modules, bit i for `MODULE_INDEX` i. -/
  withdrawn : Nat
  groups : List (Nat × GroupRec)
  deriving DecidableEq, Repr

/-- The decision of a step (R356): 0 applied, 1 skipped, 2 fault; the groups skipped; N and s. -/
structure Decision where
  step : Nat
  action : Nat
  skipped : List Nat
  norm : ℚ
  clip : ℚ
  deriving DecidableEq, Repr

/-- A 2 KiB block of a combining cache (R267): its number (address / 2,048), and the elements that contributions have changed in
it, by place, as they stand: 128-bit codes that the stack does not hold yet. -/
structure CacheBlock where
  block : Nat
  cells : List (Nat × Nat) := []
  deriving DecidableEq, Repr

/-- The parameter update (R341 to R368). -/
structure Update where
  /-- Gradient rows on their way to a base die of this module (R95). -/
  rows : List Msg := []
  /-- Steps whose withdrawal is still to be sent (R384). -/
  toWithdraw : List Nat := []
  /-- The step whose contributions the buffers accept: the newest whose BACKWARD window has opened (R268). -/
  accepting : Option Nat := none
  /-- The newest step whose APPLY window has ended (R352). -/
  released : Option Nat := none
  /-- Descriptors whose contribution deadline has passed in the accepting step (R350). -/
  closed : List Nat := []
  /-- By descriptor: the seen set, and the modules with a late contribution before NORM (R350, R351). -/
  seen : List (Nat × List Nat) := []
  late : List (Nat × List Nat) := []
  /-- The stale queue of each stack, oldest first (R352). -/
  stale : List (Nat × List Msg) := []
  /-- Withdrawals received, by step, as bits (R351); those received by the start of NORM. -/
  withdrawn : List (Nat × Nat) := []
  normWithdrawn : Nat := 0
  /-- The combining cache of each stack: blocks, most recently touched first (R267). -/
  cache : List (Nat × List CacheBlock) := []
  /-- By descriptor: the blocks that have received a contribution since its buffer was last cleared (R354). -/
  filled : List (Nat × List Nat) := []
  /-- The step whose NORM window has opened and whose decision is not taken; its pass is complete. -/
  normStep : Option Nat := none
  passDone : Bool := false
  norms : List (Nat × NormRec) := []
  /-- This module's combine record, with those of the children so far (R386). -/
  record : Option CombineRec := none
  /-- Combine records of children, by module. -/
  ups : List (Nat × CombineRec) := []
  sentUp : Bool := false
  decision : Option Decision := none
  /-- APPLY or its skip is running for the decided step; descriptors whose writes are made; descriptors done. -/
  applying : Bool := false
  written : List Nat := []
  done : List Nat := []
  /-- `LAST_UPDATE`: step, decision, groups skipped, withdrawn modules, N and s as FP32 codes (R366). -/
  last : List Nat := [0, 0, 0, 0, 0, 0]
  /-- `PARTIAL_SEEN` of each stack (R367). -/
  partialSeen : List (Nat × Bool) := []
  deriving DecidableEq, Repr

/-! ### Stash, page tracker, second tier (10, 11) -/

/-- The stash of the step in progress (R275, R276) and its objects (R286). -/
structure Stash where
  /-- The step whose stash writes are suppressed. -/
  suppressed : Option Nat := none
  /-- Index of the free bytes that released stash holds; none before the first release. -/
  released : Option Nat := none
  /-- Byte ranges of stash memory written since the release: (address, bytes). -/
  live : List (Nat × Nat) := []
  /-- By branch: highest window offset written plus one, and bytes written to the reserve, in the present FORWARD. -/
  high : List (Nat × Nat) := []
  reserve : List (Nat × Nat) := []
  /-- The same of the last completed FORWARD (`STASH_HIGH_OFFSET`, `STASH_RESERVE_BYTES`). -/
  lastHigh : List (Nat × Nat) := []
  lastReserve : List (Nat × Nat) := []
  deriving DecidableEq, Repr

/-- The state of a marked page of a capture (R277, R278): `copying` and `shadowed` name the pool page (as its page
number), `waiting` is a page whose first write waits for its read-out. A `DONE` page is not listed. -/
inductive PageState where
  | pending
  | copying (pool : Nat)
  | waiting
  | shadowed (pool : Nat)
  deriving DecidableEq, Repr

/-- The page tracker (R277 to R286). Pages are numbered by HBM address / 2 MiB. -/
structure Cow where
  /-- Pages marked at load. -/
  marked : List Nat := []
  /-- `COW_STATE` of the module, and of each base die: 0 idle, 1 capturing, 2 complete, 3 abandoned (R280, R285). -/
  state : Nat := 0
  dies : List (Nat × Nat) := []
  /-- Pages of the capture that are not `DONE`. -/
  pages : List (Nat × PageState) := []
  /-- Held writes, in order: address and bytes. -/
  held : List (Nat × List (BitVec 8)) := []
  poolEmptyRaised : Bool := false
  deriving DecidableEq, Repr

/-- A CXL device (R290, R293, R299, R300). `link`: 0 down, 1 training, 2 up. -/
structure CxlDevice where
  port : Nat
  dev : Nat
  width : Nat
  speed : Nat
  capacity : Nat
  dataArea : Nat
  base : Nat
  window : Nat
  partner : Nat
  link : Nat := 2
  foundWidth : Nat
  foundSpeed : Nat
  deriving DecidableEq, Repr

/-- The second tier (R288 to R301). -/
structure Cxl where
  devices : List CxlDevice := []
  interleaved : Bool := false
  /-- W1C bits of each port. -/
  poison : List (Nat × Bool) := []
  crcMismatch : List (Nat × Bool) := []
  deriving DecidableEq, Repr

/-- W1C bits and the last mismatch of a base die (R284). -/
structure BaseDie where
  refreshHigh : Bool := false
  temp : Nat := 0
  lastChannel : Nat := 0
  lastPc : Nat := 0
  crcMismatch : Bool := false
  eccReport : Bool := false
  deriving DecidableEq, Repr

/-! ### Host port (15) -/

/-- A management response (R407): its address, and the header fields and data that are the answer's own. -/
structure Response where
  dest : List (BitVec 8)
  session : Nat
  seq : Nat
  op : Nat
  key : Nat
  offset : Nat
  abort : Nat
  last : Bool
  data : List (BitVec 8)
  deriving DecidableEq, Repr

/-- An open run of a segmented write (R411): the object, the next offset, the bytes so far. -/
structure WriteRun where
  key : Nat
  next : Nat
  data : List (BitVec 8)
  deriving DecidableEq, Repr

/-- An operator session (R414, R415): stamps of opening and last activity, and the cycle of the last activity. -/
structure Session where
  id : Nat
  slot : Nat
  addr : List (BitVec 8)
  opened : Nat
  last : Nat
  lastCycle : Nat
  runs : List WriteRun := []
  deriving DecidableEq, Repr

/-- Sequence state of a session or of a sessionless address (R409, R410): the newest number executed, the responses to
the last 64. -/
structure SeqEntry where
  session : Nat
  addr : List (BitVec 8)
  newest : Nat
  kept : List Response
  lastCycle : Nat
  deriving DecidableEq, Repr

/-- A bulk flow (R418 to R422). -/
structure Flow where
  id : Nat
  channel : Nat
  sub : Nat
  session : Nat
  addr : List (BitVec 8)
  /-- From the module to the host. -/
  outbound : Bool
  /-- Next block expected, or to be sent. -/
  next : Nat := 0
  /-- Blocks received beyond a gap, or sent and not acknowledged. -/
  held : List (Nat × List (BitVec 8)) := []
  /-- First block not yet seen missing or received (for `NAK`). -/
  seen : Nat := 0
  /-- The block count of a `CLOSE` received or sent. -/
  count : Option Nat := none
  /-- First block beyond the window. -/
  window : Nat := 0
  /-- Bytes received in order and not taken yet. -/
  data : List (BitVec 8) := []
  /-- Blocks since the last `ACK` sent. -/
  sinceAck : Nat := 0
  /-- Engine cycles of the last datagram from the far end, of the last block received, of the last `ACK`. -/
  lastRx : Nat := 0
  lastBlock : Nat := 0
  lastAck : Nat := 0
  /-- Failures in succession of the check of a block (R467). -/
  fails : List (Nat × Nat) := []
  deriving DecidableEq, Repr

/-- The host port (R404 to R432). -/
structure HostPort where
  sessions : List Session := []
  seqs : List SeqEntry := []
  /-- Outstanding nonces, oldest first: number and cycle (R414). -/
  nonces : List (Nat × Nat) := []
  nextNonce : Nat := 0
  nextSession : Nat := 0
  /-- Cycles of the failures within 60 s; end of the lockout. -/
  failures : List Nat := []
  lockedUntil : Option Nat := none
  flows : List Flow := []
  nextFlow : Nat := 1
  /-- Images in the plan library, by slot; an empty list is an empty slot. -/
  library : List (Nat × List (BitVec 8)) := []
  /-- `LINK_STATE`, `LANE_MODE` (R432). -/
  linkState : Nat := 0
  laneMode : Nat := 0
  fecUncorrected : Bool := false
  crcDiscard : Bool := false
  linkChanged : Bool := false
  deriving DecidableEq, Repr

/-! ### Ingest (12) -/

/-- What a sample waits for: its decode, in decode, pool space for its output, the packer, its row. -/
inductive SampleState where
  | queued | decoding | waitPool | ready | complete | placed
  deriving DecidableEq, Repr

/-- A sample on a stand (R305 to R325). `ctx`: the context it holds, 64 × engine class + number. -/
structure Sample where
  arrival : Nat
  header : List (BitVec 8)
  payload : List (BitVec 8)
  boxes : List (BitVec 8)
  carries : Nat
  state : SampleState := .queued
  ctx : Option Nat := none
  charged : Nat := 0
  output : List (BitVec 8) := []
  /-- Lengths of its segments, in positions. -/
  segments : List Nat := []
  truncated : Bool := false
  /-- Place in completion order. -/
  doneNo : Nat := 0
  deriving DecidableEq, Repr

/-- A row in the packer (R323): its geometry, its place among the open rows, positions used, samples as (arrival, first
position, first segment number), and its row index once closed. -/
structure PackRow where
  geom : Nat
  slot : Nat
  used : Nat
  segs : Nat
  parts : List (Nat × Nat × Nat)
  index : Option Nat := none
  deriving DecidableEq, Repr

/-- An admitted sample, kept for its later receipts (R330). -/
structure AdmittedSample where
  step : Nat
  id : Nat
  stream : Nat
  carries : Nat
  deriving DecidableEq, Repr

/-- A bucking die (R302 to R340). -/
structure Stand where
  samples : List Sample := []
  nextArrival : Nat := 0
  nextDone : Nat := 0
  /-- Contexts that have been freed, longest free first; a context never used has been free longest of all. -/
  freed : List Nat := []
  /-- By engine (context / 8): the context after the one that it served last (R303). -/
  turns : List (Nat × Nat) := []
  rows : List PackRow := []
  /-- By geometry: rows closed, rows written, boxes written in the open step. -/
  closed : List (Nat × Nat) := []
  written : List (Nat × Nat) := []
  boxes : List (Nat × Nat) := []
  /-- Geometries past their guard point; geometries whose `RW_DONE_SYNC` has been signalled. -/
  guarded : List Nat := []
  signalled : List Nat := []
  admitted : List AdmittedSample := []
  deriving DecidableEq, Repr

/-- `DECODE_LOAD` and what is shared by the stands. -/
structure Ingest where
  stands : List (Nat × Stand) := []
  /-- Steps whose ADMIT window is open and whose deadline has not passed; steps whose row writes were cut. -/
  admitting : List Nat := []
  cut : List Nat := []
  /-- Stem weights as read at plan load, by `INGEST` index (R317). -/
  weights : List (Nat × List (BitVec 8)) := []
  /-- Bounds admitted for a step and not yet in force (R158): step, stand, shape class, value. -/
  bounds : List (Nat × Nat × Nat × Nat) := []
  /-- `INGEST_STEP` (R330). -/
  ingestStep : Nat := 2 ^ 64 - 1
  /-- Last `DECODE_LOAD` of each stand (R328). -/
  load : List (Nat × List (BitVec 8)) := []
  deriving DecidableEq, Repr

/-! ### Snapshots and restart (16) -/

/-- A slot of the partner area (R441, R446): `state` 0 empty, 1 writing, 2 complete; pages as (page number, CRC, written
bytes as offsets). -/
structure SnapSlot where
  state : Nat := 0
  step : Nat := 0
  module : Nat := 0
  modules : Nat := 0
  jobId : Nat := 0
  stamp : Nat := 0
  digest : List (BitVec 8) := []
  pages : List (Nat × Nat × List (Nat × BitVec 8)) := []
  /-- Partner slot: pages whose CRC has been checked, the page count announced, whether a page failed. -/
  checked : List Nat := []
  expect : Option Nat := none
  bad : Bool := false
  /-- Partner slot: the pages' module shared a feed with this one (R440). -/
  coFed : Bool := false
  deriving DecidableEq, Repr

/-- A capture (R443, R445): its step and own slot; the pages read out; what of the remote copy is in progress. -/
structure Capture where
  step : Nat
  slot : Nat
  checkpoint : Bool
  remote : Bool
  localDone : Bool := false
  held : Bool := false
  deriving DecidableEq, Repr

/-- A checkpoint that waits for a flow or streams (R448): its own slot, the cycle its 30 s began, its flow. -/
structure Checkpoint where
  step : Nat
  slot : Nat
  since : Nat
  flow : Option Nat := none
  deriving DecidableEq, Repr

/-- A restore (R452 to R456): `state` as `RESTORE_STATE`. -/
structure Restore where
  state : Nat := 0
  /-- Verified extents, extents, bytes moved. -/
  verified : Nat := 0
  extents : Nat := 0
  bytes : Nat := 0
  /-- `RESTORE_READ` has been sent to the source. -/
  asked : Bool := false
  /-- Manifest entries (page, CRC): those of the present extent, or of a checkpoint image. -/
  manifest : List (Nat × Nat) := []
  /-- Chunks of the present extent so far, and how often it has been read again. -/
  chunks : Nat := 0
  rereads : Nat := 0
  /-- The checkpoint flow read from, and the bytes of its image so far. -/
  flow : Option Nat := none
  image : List (BitVec 8) := []
  deriving DecidableEq, Repr

/-- Snapshots (R435 to R459). -/
structure Snaps where
  /-- E, T and H of the windthrow index, and the index as last evaluated. -/
  e : Nat := 0
  t : Nat := 0
  h : Nat := 0
  index : Nat := 0
  armed : Bool := true
  lastEval : Nat := 0
  /-- Steps named in capture requests. -/
  requested : List Nat := []
  own : List (Nat × SnapSlot) := []
  partner : List (Nat × SnapSlot) := []
  capture : Option Capture := none
  checkpoint : Option Checkpoint := none
  /-- A checkpoint whose own slot is complete while the one before it still streams (R448). -/
  nextCheckpoint : Option Checkpoint := none
  /-- `SET_MEMBER`s by step. -/
  members : List (Nat × List Nat) := []
  newestSet : Nat := 2 ^ 64 - 1
  /-- Pairing (R438 to R440): result of this module's own `PAIR` (none: not answered), the module held for, the partner's
  feed IDs, its page count. -/
  paired : Option Nat := none
  /-- `PAIR` has been sent. -/
  pairSent : Bool := false
  heldFor : Option Nat := none
  coFed : Bool := false
  partnerFeeds : List Nat := [0, 0]
  heldPages : Nat := 0
  heldCoFed : Bool := false
  restore : Restore := {}
  deriving DecidableEq, Repr

/-! ### Tally (15) -/

/-- A captured apply that waits for its safe point (R426): the group, the captured values and the beat of its acceptance. -/
structure PendApply where
  group : Nat
  beat : Nat
  values : List (Nat × List (BitVec 8))
  deriving DecidableEq, Repr

/-- The Tally's stored values, by key 256 × index + sub; an unlisted key holds the dictionary's default. -/
structure Tally where
  rw : List (Nat × List (BitVec 8)) := []
  active : List (Nat × List (BitVec 8)) := []
  shadow : List (Nat × List (BitVec 8)) := []
  /-- Shadows written since the last accepted apply of their group (R426). -/
  written : List Nat := []
  pendingApply : List PendApply := []
  gen : List (Nat × Nat) := []
  deriving DecidableEq, Repr

/-! ### What the module sends (the model's own record) -/

/-- Everything the module sends or answers. -/
inductive Output where
  /-- A management response (R407, R408). -/
  | response (r : Response)
  /-- A bulk datagram (R417): flow, kind, channel, `OB_BLOCK`, `OB_WINDOW`, body. -/
  | bulk (flow kind channel block window : Nat) (data : List (BitVec 8))
  /-- A message put on a skid port (R381); its stamp and number come with its first flit (R42). -/
  | message (m : Msg)
  /-- A frame of a skid port (R376): port, frame. -/
  | frame (port : Nat) (f : SkidFrame)
  /-- The warden's beat mark over the spine (R39). -/
  | spineMark (counter : Nat)
  /-- A host-port frame that answers ICMP, ARP or Neighbour Solicitation (R405). -/
  | netFrame (kind : Nat) (data : List (BitVec 8))
  /-- A flooded list of used ports (R383): the port it leaves by, the module, its (port, far module) pairs. -/
  | flood (port module : Nat) (ports : List (Nat × Nat))
  /-- A telemetry record offered to every open channel-3 flow (R547). -/
  | telemetry (kind : Nat) (data : List (BitVec 8))
  deriving DecidableEq, Repr

/-! ### The whole state -/

/-- The state of the block. -/
structure State where
  time : TimeEngine := {}
  start : Startup := {}
  log : Log := {}
  safe : Safety := {}
  bg : Background := {}
  stats : Stats := {}
  clusters : List (Nat × Cluster) := []
  job : Job := {}
  upd : Update := {}
  /-- Banks, by 64 × physical die + control block index (R252). -/
  banks : List (Nat × Bank) := []
  /-- Limber engines, by physical die. -/
  limbers : List (Nat × Limber) := []
  stash : Stash := {}
  cow : Cow := {}
  cxl : Cxl := {}
  /-- Base dies, by stack. -/
  base : List (Nat × BaseDie) := []
  spine : List (Nat × Spine) := []
  skid : List (Nat × SkidPort) := []
  net : Net := {}
  sync : Sync := {}
  tally : Tally := {}
  host : HostPort := {}
  ingest : Ingest := {}
  snap : Snaps := {}
  power : Power := {}
  /-- One byte map over the module address map (R155, R235, R260, R293). -/
  mem : List (Nat × BitVec 8) := []
  /-- Counters that the Tally or a register shows, by key (Ops.lean). -/
  ctr : List (Nat × Nat) := []
  /-- The model's own: everything sent, oldest first. -/
  out : List Output := []
  /-- The model's own: index of the next free value. -/
  free : Nat := 0
  /-- The model's own: the commands waiting, first in, first out. -/
  pending : List Instr := []
  deriving DecidableEq, Repr

/-- Why a step can stop. -/
inductive Fault where
  /-- An apply in a test mode breaks the clock ratio of R499, for which the spec states no behaviour (safe). -/
  | clockRatioUndefined
  deriving DecidableEq, Repr

/-- Why a command can be refused. -/
inductive Refusal where
  /-- Raised by an arm of `exec` whose command has no meaning yet (safe: nothing is claimed of it). -/
  | notModelled (mnemonic : String)
  deriving DecidableEq, Repr

/-- The module at the reset values of its registers and objects: start-up has reached READY (R537: `START_STAGE` resets to
9), no plan is loaded, no time source has been heard. -/
def State.reset : State := {}

end Sys2Proof.Machine
end

