-- ==== Sys2Proof/Machine/Ops.lean ====
section
/-! DEFINITION. The named operations that every family uses: time, event records, memory, messages, sync signals,
raising a fault. -/

namespace Sys2Proof.Machine

/-! ### Lists of bytes (R5, R550) -/

def u8 (x : Nat) : Bytes := leBytes 1 x
def u16 (x : Nat) : Bytes := leBytes 2 x
def u32 (x : Nat) : Bytes := leBytes 4 x
def u64 (x : Nat) : Bytes := leBytes 8 x
/-- Pad a byte string with zeros, or cut it, to `n` bytes. -/
def padTo (n : Nat) (bs : Bytes) : Bytes := (bs ++ List.replicate (n - bs.length) 0#8).take n
/-- The bytes of an ASCII string. -/
def ascii (s : String) : Bytes := s.toList.map fun c => BitVec.ofNat 8 c.toNat

/-! ### Time -/

/-- One millisecond and one second in cycles of the 400 MHz time engine. -/
def msCycles : Nat := 400000
def secCycles : Nat := 400000000

/-- The counter as a stamp (R9). -/
def State.stamp (s : State) : Nat := s.time.counter / 2 ^ 32
/-- The present beat (R9). -/
def State.beat (s : State) : Nat := s.stamp / 2 ^ 16
/-- Plan time in sub-beat units: the beat less `PAUSE_TOTAL`, frozen during a pause and from the point at which a pending
pause freezes it (R66, R73). -/
def State.planNow (s : State) : Nat :=
  (match s.job.frozenAt, s.job.pendingPause with
    | some b, _ => b * 2 ^ 16
    | none, some p => min s.stamp (p.beat * 2 ^ 16)
    | none, none => s.stamp) - s.job.pauseTotal * 2 ^ 16
/-- The point at which a pending pause freezes plan time has been reached. -/
def State.pauseReached (s : State) : Bool := match s.job.pendingPause with | some p => decide (p.beat * 2 ^ 16 ≤ s.stamp) | none => false

/-! ### Stored Tally values (15) -/

/-- A stored value read as a number; `d` where the object is at its default `d`. -/
def valueOr (m : List (Nat × Bytes)) (k d : Nat) : Nat :=
  match m.find? (fun e => e.1 = k) with | some e => leNat e.2 | none => d
/-- The active copy of a staged object of default `d` (R426). -/
def State.active (s : State) (index sub d : Nat) : Nat := valueOr s.tally.active (256 * index + sub) d
/-- An RW object of default `d`. -/
def State.rwValue (s : State) (index sub d : Nat) : Nat := valueOr s.tally.rw (256 * index + sub) d

/-! ### Source IDs (R9, R13) -/

/-- A source ID. -/
def srcId (die unit : Nat) : Nat := die * 512 + unit % 512
/-- The warden's own source ID (R550). -/
def wardenSrc : Nat := 0xC600
/-- The telemetry unit's source ID (R547). -/
def telemetrySrc : Nat := 0xC610

/-! ### Counters

Keys of `ctr`: 256 × index + subindex of the Tally object that shows the counter, or the address of the register. -/

/-- The key of a Tally object. -/
def objKey (index sub : Nat) : Nat := 256 * index + sub
/-- A counter's value. -/
def State.count (s : State) (k : Nat) : Nat := sget 0 s.ctr k
/-- Add to a counter. -/
def State.bump (s : State) (k n : Nat) : State := { s with ctr := sset 0 s.ctr k (sget 0 s.ctr k + n) }
/-- Set a counter. -/
def State.setCount (s : State) (k n : Nat) : State := { s with ctr := sset 0 s.ctr k n }

/-- Add to the accumulator E of the windthrow index (R435). -/
def State.stress (s : State) (n : Nat) : State := { s with snap := { s.snap with e := min (2 ^ 32 - 1) (s.snap.e + n) } }

/-! ### Output and free values -/

/-- Control register space, and the register base of a die in it (R115, R283). -/
def ctrlBase : Nat := 0x200000000000
def regBase (die : Nat) : Nat := ctrlBase + die * 2 ^ 24

/-- Send something. -/
def State.emit (s : State) (o : Output) : State := { s with out := s.out ++ [o] }
/-- `FRAMES_RX`, `FRAMES_TX` (R431). -/
def kFramesRx : Nat := ctrlBase + 96 * 2 ^ 24 + 0x18
def kFramesTx : Nat := ctrlBase + 96 * 2 ^ 24 + 0x20
/-- A frame arrives at the host port; one goes out of it. -/
def State.rxFrame (s : State) : State := s.bump kFramesRx 1
def State.sendHost (s : State) (o : Output) : State := (s.bump kFramesTx 1).emit o
/-- Use up one free value. -/
def State.nextFree (s : State) : State := { s with free := s.free + 1 }

/-! ### Event records (R42 to R45, R550, R551) -/

/-- The newest `n` entries of a list with the newest last. -/
def newest {α : Type} (n : Nat) (l : List α) : List α := l.drop (l.length - n)

/-- The replica of the beat counter on a physical die, as a stamp: within 1,024 sub-beat units of the warden's (R39). -/
def State.replica (s : State) (die : Nat) : Nat :=
  if die = 99 then s.stamp else ((s.stamp : Int) + max (-1024) (min 1024 (Config.replicaError die s.time.marks))).toNat

/-- The stamp that source `src` gives now: its die's replica, not below the source's newest stamp (R43), above its cause's
(R45); 0 until the time engine first reaches `LOCKED` (R514). -/
def State.stampOf (s : State) (src cause : Nat) : Nat :=
  if s.time.everLocked then max (max (s.replica (src / 512)) (sget 0 s.log.lastStamp src)) (max cause s.log.cause) else 0

/-- Do the work of a message or signal of stamp `stamp`: what it causes is stamped above it (R45). -/
def State.caused (s : State) (stamp : Nat) (f : State → State) : State :=
  let t := f { s with log := { s.log with cause := stamp + 1 } }
  { t with log := { t.log with cause := s.log.cause } }

/-- A message leaves the inbox. -/
def State.took (s : State) (m : Msg) : State := { s with net := { s.net with inbox := s.net.inbox.erase m } }
/-- The work of a message: it leaves the inbox, and what it causes is stamped above it (R45). -/
def State.taken (s : State) (m : Msg) (f : State → State) : State := (s.took m).caused m.stamp f

/-- The record that source `src` writes now. -/
def State.mkRecord (s : State) (src code cause : Nat) (detail : Bytes) : EventRec :=
  { stamp := s.stampOf src cause, source := src, code := code, seq := sget 0 s.log.seq src, detail := padTo 16 detail }

/-- The next sequence number of a source (R43: 32 bits, wrapping). -/
def Log.advance (l : Log) (src stamp : Nat) : Log :=
  { l with seq := sset 0 l.seq src ((sget 0 l.seq src + 1) % 2 ^ 32), lastStamp := sset 0 l.lastStamp src stamp }

/-! ### Records on the bulk plane (R421, R422, R547) -/

/-- `BULK_RECORDS_LOST`, `EVENT_RECORDS`, `TELEMETRY_RECORDS`. -/
def kRecordsLost : Nat := objKey 0x1045 0
def kEventRecords : Nat := objKey 0xA011 0
def kTelemetry : Nat := objKey 0xA020 0

/-- Change a flow. -/
def State.modFlow (s : State) (id : Nat) (f : Flow → Flow) : State :=
  { s with host := { s.host with flows := s.host.flows.map fun x => if x.id = id then f x else x } }
/-- Change a session. -/
def State.modSession (s : State) (id : Nat) (f : Session → Session) : State :=
  { s with host := { s.host with sessions := s.host.sessions.map fun x => if x.id = id then f x else x } }
/-- A session has been active now: a request of it, or a bulk block of one of its flows (R415). -/
def State.touch (s : State) (id : Nat) : State := s.modSession id fun x => { x with last := s.stamp, lastCycle := s.time.cycles }
/-- A flow to the host can take one more block (R419, R422). -/
def Flow.canSend (f : Flow) : Bool := decide (f.held.length < 256) && decide (f.next < f.window) && f.count.isNone
/-- Send the next block of a flow to the host. -/
def State.sendBlock (s : State) (f : Flow) (bs : Bytes) : State :=
  ((s.modFlow f.id fun f => { f with next := f.next + 1, held := f.held ++ [(f.next, bs)] }).touch f.session).sendHost
    (.bulk f.id 0 f.channel f.next 0 bs)
/-- A record goes to every open flow of its channel, one block a record; a flow that cannot take it loses it. Nothing is
written while the warden is held (R477). -/
def State.record (s : State) (channel sub : Nat) (bs : Bytes) : State :=
  if s.start.wardenHeld then s else
  match s.host.flows.filter fun f => f.outbound && decide (f.channel = channel ∧ f.sub = sub) with
  | [] => s.bump kRecordsLost 1
  | fs => fs.foldl (fun s f => if f.canSend then s.sendBlock f bs else s.bump kRecordsLost 1) s

/-- The bytes of an event record (R550). -/
def EventRec.bytes (r : EventRec) : Bytes := u64 r.stamp ++ u16 r.source ++ u16 r.code ++ u32 r.seq ++ padTo 16 r.detail

/-- Send a telemetry record (R547). -/
def State.telemetry (s : State) (src kind : Nat) (body : Bytes) : State :=
  let st := s.stampOf src 0
  let bs := u64 st ++ u16 src ++ u16 kind ++ u32 (sget 0 s.log.seq src) ++ u32 (24 + body.length) ++ u32 0 ++ body
  (({ s with log := s.log.advance src st }).bump kTelemetry 1).record 3 0 bs

/-- Raise an event whose record's stamp must be above `cause` - 1 (R45). Nothing is recorded while the warden is held (R477). -/
def State.eventAfter (s : State) (src code cause : Nat) (detail : Bytes) : State :=
  if s.start.wardenHeld then s else
  let r := s.mkRecord src code cause detail
  (({ s with log := { s.log.advance src r.stamp with ring := newest 65536 (s.log.ring ++ [r]) } }).bump kEventRecords 1).record 5 0 r.bytes

/-- Raise an event (R550, R551). -/
def State.event (s : State) (src code : Nat) (detail : Bytes := []) : State := s.eventAfter src code 0 detail

/-! ### Memory -/

/-- One byte of the module address map; a byte that nothing has written reads as 0. -/
def readByte (mem : List (Nat × Byte)) (a : Nat) : Byte := sget 0#8 mem a
/-- `n` bytes from address `a`. -/
def readBytes (mem : List (Nat × Byte)) (a n : Nat) : Bytes := (List.range n).map fun i => readByte mem (a + i)
/-- Write one byte. -/
def writeByte (mem : List (Nat × Byte)) (a : Nat) (b : Byte) : List (Nat × Byte) := sset 0#8 mem a b
/-- Write bytes from address `a` on. -/
def writeBytes (mem : List (Nat × Byte)) (a : Nat) : Bytes → List (Nat × Byte)
  | [] => mem
  | b :: bs => writeBytes (writeByte mem a b) (a + 1) bs
/-- The canonical form of memory. -/
def Memory.wf (mem : List (Nat × Byte)) : Bool := swf 0#8 mem

/-! ### Dies -/

/-- The physical die that serves logical die `n` (R20). -/
def State.physDie (s : State) (n : Nat) : Nat := s.start.dieMap.getD n n
/-- The logical die of a cluster key 12 × die + 4 × region + cluster. -/
def clDie (cl : Nat) : Nat := cl / 12
/-- The region of a cluster key. -/
def clRegion (cl : Nat) : Nat := (cl % 12) / 4
/-- The source ID of a cluster's sequencer (R122). -/
def State.seqSrc (s : State) (cl : Nat) : Nat := srcId (s.physDie (clDie cl)) (Config.unitCode (1 + cl % 12)).toNat
/-- The source ID of a die's controller. -/
def dieSrc (die : Nat) : Nat := srcId die (Config.unitCode 16).toNat

/-- The cluster key of cluster `n` of physical die `die`, if the die serves a logical die. -/
def State.clusterAt (s : State) (die n : Nat) : Option Nat :=
  match s.start.dieMap.findIdx? (fun p => p = die) with
  | some l => if n < 12 then some (12 * l + n) else none
  | none => none

/-! ### Clusters -/

/-- A cluster. -/
def State.cl (s : State) (k : Nat) : Cluster := sget {} s.clusters k
/-- Change a cluster. -/
def State.modCl (s : State) (k : Nat) (f : Cluster → Cluster) : State := { s with clusters := supd {} s.clusters k f }
/-- Tile `t` of a cluster. -/
def Cluster.tile (c : Cluster) (t : Nat) : Tile := sget {} c.tiles t
/-- Slot `t` of a cluster. -/
def Cluster.slot (c : Cluster) (t : Nat) : Slot := sget {} c.slots t
/-- Tile and slot `t` as they will be after the operations issued (R103). -/
def Cluster.aheadOf (c : Cluster) (t : Nat) : Ahead := sget {} c.ahead t
def Cluster.setTile (c : Cluster) (t : Nat) (x : Tile) : Cluster := { c with tiles := sset {} c.tiles t x }
def Cluster.setSlot (c : Cluster) (t : Nat) (x : Slot) : Cluster := { c with slots := sset {} c.slots t x }
def Cluster.setAhead (c : Cluster) (t : Nat) (x : Ahead) : Cluster := { c with ahead := sset {} c.ahead t x }
/-- Operations in flight (R152, R182 `INFLIGHT`). -/
def Cluster.inflight (c : Cluster) : Nat :=
  c.arrayQ.length + (c.drainQ.filter (fun d => d.kind ≠ .katCheck)).length + c.vecQ.length + c.dmaQ.length + c.signals.length + c.loads.length
    + c.limberOps.length
    + (c.drainQ.filter (fun d => d.kind = .katCheck ∧ !(c.arrayQ.any (fun a => a.n = d.n)))).length

/-- What a cluster loses when its work is abandoned (R107, R108, R226): tiles, slots, operations in flight, signals
not yet given, drain input; a wait is released. A diagnostic capture is not array work and completes (R120). -/
def Cluster.abandon (c : Cluster) : Cluster :=
  { c with tiles := [], slots := [], ahead := [], arrayQ := [], drainQ := [], vecQ := [], dmaQ := [], signals := [],
           loads := [], limberOps := [], drainIn := [], wait := .none, pauseSpilled := false, katHold := false }

/-! ### Routes and messages (R376 to R383) -/

/-- Modules reached over one used port from the modules of `front`. -/
def neighboursOf (g : List (Nat × List (Nat × Nat))) (m : Nat) : List (Nat × Nat) :=
  (g.filter (fun e => e.1 = m)).flatMap (fun e => e.2)

/-- Modules within `k` hops of `m`. -/
def ball (g : List (Nat × List (Nat × Nat))) (m : Nat) : Nat → List Nat
  | 0 => [m]
  | k + 1 =>
    let b := ball g m k
    (b ++ b.flatMap (fun x => (neighboursOf g x).map (fun e => e.2))).dedup

/-- The number of hops from `a` to `b`, if at most 15 (R383). -/
def hops (g : List (Nat × List (Nat × Nat))) (a b : Nat) : Option Nat := (List.range 16).find? (fun k => b ∈ ball g a k)

/-- The lowest of a list of numbers. -/
def lowest : List Nat → Option Nat
  | [] => none
  | x :: xs => some (xs.foldl min x)

/-- The neighbour one hop nearer to `dst`, the lowest `MODULE_INDEX` of them (R383). -/
def nearer (g : List (Nat × List (Nat × Nat))) (self dst : Nat) : Option Nat :=
  match hops g self dst with
  | none | some 0 => none
  | some (d + 1) => lowest (((neighboursOf g self).map (fun e => e.2)).filter (fun n => hops g n dst = some d))

/-- The port on which a message of `origin` to `dst` leaves module `self` (R383). -/
def routePort (g : List (Nat × List (Nat × Nat))) (self origin dst : Nat) : Option Nat :=
  match nearer g self dst with
  | none => none
  | some n =>
    let ports := (((neighboursOf g self).filter (fun e => e.2 = n)).map (fun e => e.1)).mergeSort
    ports[(origin + dst) % ports.length]?

/-- This module's `MODULE_INDEX` (R48); 0 with no plan loaded. -/
def State.self (s : State) : Nat := match s.job.plan with | some p => p.moduleIndex | none => 0
/-- The number of modules of the job. -/
def State.modules (s : State) : Nat := match s.job.plan with | some p => p.moduleCount | none => 0
/-- The loaded plan's declaration of a port (R57). -/
def State.peer (s : State) (port : Nat) : PeerDecl :=
  match s.job.plan with | some p => p.peers.getD port ⟨false, 0⟩ | none => ⟨false, 0⟩
/-- The used ports, ascending. -/
def State.usedPorts (s : State) : List Nat := (List.range 16).filter fun n => (s.peer n).used
/-- A skid port. -/
def State.port (s : State) (n : Nat) : SkidPort := sget {} s.skid n
/-- Change a skid port. -/
def State.modPort (s : State) (n : Nat) (f : SkidPort → SkidPort) : State := { s with skid := supd {} s.skid n f }
/-- The source ID of the spine die of a skid port (R403). -/
def spineSrc (port : Nat) : Nat := dieSrc (92 + port / 4)

/-- Module `m` floods the list `l` of its ports (R383): its entry in the graph. -/
def State.setPorts (s : State) (m : Nat) (l : List (Nat × Nat)) : State :=
  { s with net := { s.net with graph := (m, l) :: s.net.graph.filter fun e : Nat × List (Nat × Nat) => e.1 ≠ m } }
/-- This module floods its list of ports. -/
def State.floodPorts (s : State) (ports : List Nat) : State :=
  let l := ports.map fun k => (k, (s.peer k).module)
  ports.foldl (fun s n => { s with out := s.out ++ [.flood n s.self l] }) (s.setPorts s.self l)

/-- The class of a message kind (R382): 0 control, 1 planned, 2 unplanned. -/
def msgClass (kind : Nat) : Nat := if kind = 1 ∨ kind = 2 then 1 else if 11 ≤ kind then 2 else 0

/-- The 48-byte header of a message (R381). -/
def msgHeader (m : Msg) : Bytes :=
  u64 m.stamp ++ u16 m.source ++ u8 m.kind ++ u8 m.hops ++ u32 m.seq ++ u16 m.dst ++ u16 m.origin
    ++ u32 m.body.length ++ u64 m.arg ++ u64 m.total ++ u32 m.xfer ++ u16 m.sync ++ u16 0

/-- Cut a byte string into payloads of 256 bytes, the last padded with zeros (R381). -/
def flits : Nat → Bytes → List Bytes
  | 0, _ => []
  | n + 1, bs => padTo 256 bs :: flits n (bs.drop 256)

/-- The frame header `FH` (R376). -/
def frameHeader (f : SkidFrame) : Nat :=
  f.kind * 2 ^ 60 + f.cls * 2 ^ 58 + (if f.first then 2 ^ 57 else 0) + (if f.last then 2 ^ 56 else 0) + f.seq * 2 ^ 44 + f.ack * 2 ^ 32
    + f.creditClass * 2 ^ 30 + f.credits * 2 ^ 16
/-- Bytes 0 to 263 of a frame, which `FCRC` covers; the 272 bytes of the frame (R376, R377). -/
def frameBody (f : SkidFrame) : Bytes := u64 (frameHeader f) ++ f.payload
def frameBytes (f : SkidFrame) : Bytes := frameBody f ++ u64 f.fcrc
/-- The `FCRC` that belongs to a frame; a frame with it; whether a frame received holds it (R377). -/
def frameCrc (f : SkidFrame) : Nat := (crc64 (frameBody f)).toNat
def sealFrame (f : SkidFrame) : SkidFrame := { f with fcrc := frameCrc f }
def crcOk (f : SkidFrame) : Bool := decide (f.fcrc = frameCrc f)

/-- The data frames of a message, before they have their sequence numbers (R376, R381). -/
def msgFrames (m : Msg) : List SkidFrame :=
  let bytes := msgHeader m ++ m.body
  let ps := flits ((bytes.length + 255) / 256) bytes
  ps.zipIdx.map fun (p, i) =>
    { kind := 1, cls := msgClass m.kind, first := i = 0, last := i + 1 = ps.length, seq := 0, ack := 0,
      creditClass := 0, credits := 0, payload := p, fcrc := 0 }

/-! #### Slots and arbitration (R378, R395 to R397) -/

/-- Slots of a beat that carry frames after the mark: 1 to 798 (R395). -/
def slotEnd : Nat := 799
/-- The slot that the next frame takes at stamp `now`: no earlier than the present one, and none twice. -/
def SkidPort.slotNow (p : SkidPort) (now : Nat) : Nat := max (if p.slotBeat = now / 65536 then p.slot else 1) (max 1 (now % 65536 * 800 / 65536))
/-- `n` slots are used from slot `k` on. -/
def SkidPort.useSlots (p : SkidPort) (now k n : Nat) : SkidPort := { p with slot := k + n, slotBeat := now / 65536 }
/-- The classes in the order in which a slot takes them: an open-first slot takes unplanned traffic first; control messages
go ahead of planned data (R395, R396). -/
def slotOrder (slot : Nat) : List Nat := if slot % 32 = 31 then [2, 0, 1] else [0, 1, 2]
/-- A class has a frame to send, and credit for it (R376). -/
def SkidPort.ready (p : SkidPort) (cls : Nat) : Bool :=
  (sget [] p.sending cls != [] || p.waiting.any fun q => msgClass q.msg.kind == cls) && decide (sget 0 p.credits cls < 1024)
/-- The class that takes a slot. -/
def SkidPort.nextClass (p : SkidPort) (slot : Nat) : Option Nat := (slotOrder slot).find? p.ready

/-- The input of the arbiter of port `n` (R397): 0 the dies of its own spine die, 1 and 2 the spine links from the west and from
the east, 3 to 6 the ports of its own spine die. DESIGN CHOICE (log 111). `came`: the port on which a forwarded message came. -/
def arbInput (n src : Nat) (came : Option Nat) : Nat :=
  let k := match came with | some q => q / 4 | none => spineOf (src / 512)
  if k < n / 4 then 1 else if n / 4 < k then 2 else match came with | some q => 3 + q % 4 | none => 0

/-- One grant of a smoothed weighted round robin over keys with their weights: every present weight grows by its key's weight,
the largest is granted, the first of equals, and pays the sum (R397). DESIGN CHOICE (log 111): the first of equals. -/
def wrr (arb : List (Nat × Int)) (cands : List (Nat × Nat)) : Option Nat × List (Nat × Int) :=
  let grown := cands.foldl (fun a c => supd 0 a c.1 fun x => x + (c.2 : Int)) arb
  let total : Nat := (cands.map fun c => c.2).sum
  match cands with
  | [] => (none, arb)
  | c :: cs =>
    let k := cs.foldl (fun k d => if sget 0 grown k < sget 0 grown d.1 then d.1 else k) c.1
    (some k, supd 0 grown k fun x => x - (total : Int))

/-- The number of distinct sources behind requests, capped at 255 (R397). -/
def arbWeight (l : List Queued) : Nat := min 255 ((l.map fun q => q.msg.source).dedup).length
/-- 1 µs in sub-beat units: a request that has waited so long is aged (R397). -/
def agedAfter : Nat := 64000
/-- The unplanned requests of a queue. -/
def unplanned (l : List Queued) : List Queued := l.filter fun q => msgClass q.msg.kind == 2
/-- One of two requests goes first: the older, of equals that of the lower input. -/
def elder (a b : Queued) : Queued := if b.since < a.since ∨ (b.since = a.since ∧ b.input < a.input) then b else a

/-- The unplanned message that the arbiters grant: an aged one, the oldest first; else by weighted round robin among the inputs,
then among the dies behind the input, then among the sources of the die (R397). -/
def SkidPort.arbitrate (p : SkidPort) (now : Nat) : Option Queued × List (Nat × Int) :=
  let l := unplanned p.waiting
  match l.filter fun q => decide (q.since + agedAfter ≤ now) with
  | q :: qs => (some (qs.foldl elder q), p.arb)
  | [] =>
    let r1 := wrr p.arb (((List.range 7).filter fun i => l.any fun q => q.input == i).map fun i => (i, arbWeight (l.filter fun q => q.input == i)))
    let l1 := l.filter fun q => some q.input == r1.1
    let r2 := wrr r1.2 (((List.range 100).filter fun d => l1.any fun q => q.msg.source / 512 == d).map fun d => (256 + d, arbWeight (l1.filter fun q => q.msg.source / 512 == d)))
    let l2 := l1.filter fun q => some (256 + q.msg.source / 512) == r2.1
    let r3 := wrr r2.2 (((l2.map fun q => q.msg.source).dedup).map fun x => (65536 + x, 1))
    ((l2.find? fun q => some (65536 + q.msg.source) == r3.1), r3.2)

/-- The oldest message of class `cls`, of equals that of the lowest input: first come, first served (R396). -/
def SkidPort.oldest (p : SkidPort) (cls : Nat) : Option Queued :=
  match p.waiting.filter fun q => msgClass q.msg.kind == cls with
  | [] => none
  | q :: qs => some (qs.foldl elder q)
/-- The message that class `cls` begins next: planned and control messages first come, first served (R396). -/
def SkidPort.pick (p : SkidPort) (now cls : Nat) : Option Queued × List (Nat × Int) :=
  if cls = 2 then p.arbitrate now else (p.oldest cls, p.arb)

/-- The next message of a class begins: this module's takes its stamp and its source's next number (R42 to R45). -/
def State.beginMsg (s : State) (n cls : Nat) : State :=
  let p := s.port n
  if sget [] p.sending cls != [] then s
  else match p.pick s.stamp cls with
    | (none, _) => s
    | (some q, arb) =>
      let st := s.stampOf q.msg.source q.cause
      let m := if q.own then { q.msg with stamp := st, seq := sget 0 s.log.seq q.msg.source } else q.msg
      let s := if q.own then { s with log := s.log.advance q.msg.source st } else s
      s.modPort n fun p => { p with waiting := p.waiting.erase q, arb := arb, sending := sset [] p.sending cls (msgFrames m),
                                    unacked := if q.own && q.msg.kind == 2 then p.unacked ++ [m.seq] else p.unacked }

/-- The next frame of the message begun of a class is sent in slot `k` (R376, R379). -/
def State.sendFrame (s : State) (n cls k : Nat) : State :=
  match sget [] (s.port n).sending cls with
  | [] => s
  | f :: rest =>
    let g := sealFrame { f with seq := (s.port n).txSeq, ack := (s.port n).rxSeq }
    (s.modPort n fun p => ({ p with sending := sset [] p.sending cls rest, replay := p.replay ++ [g], txSeq := (p.txSeq + 1) % 4096,
                                    framesTx := p.framesTx + 1, credits := supd 0 p.credits cls (· + 1) }).useSlots s.stamp k 1).emit (.frame n g)

/-- A port that is up and holds replay space sends one frame, if its slots and credits allow one. -/
def State.sendNext (s : State) (n : Nat) : Option State :=
  let p := s.port n
  let k := p.slotNow s.stamp
  if p.state ≠ .up ∨ 2048 ≤ p.replay.length ∨ slotEnd ≤ k then none
  else (p.nextClass k).map fun cls => (s.beginMsg n cls).sendFrame n cls k

/-- Send up to `fuel` frames. -/
def State.pumpLoop (s : State) (n : Nat) : Nat → State
  | 0 => s
  | fuel + 1 => match s.sendNext n with | some t => t.pumpLoop n fuel | none => s

/-- The frames that a port has to send. -/
def SkidPort.backlog (p : SkidPort) : Nat :=
  ((p.waiting.map fun q => (48 + q.msg.body.length + 255) / 256).sum) + (p.sending.map fun e => e.2.length).sum
/-- Send what a port can send now. -/
def State.pumpPort (s : State) (n : Nat) : State := s.pumpLoop n (s.port n).backlog

/-- Put a whole message on a port; `came`: the port on which a message of another module came. -/
def State.putMsg (s : State) (n : Nat) (came : Option Nat) (m : Msg) : State :=
  let m := { m with port := n }
  let q : Queued := { msg := m, own := came.isNone, input := arbInput n m.source came, since := s.stamp, cause := s.log.cause }
  ((s.modPort n (fun p => { p with waiting := p.waiting ++ [q] })).emit (.message m)).pumpPort n

/-- Form a message of this module. -/
def State.newMsg (s : State) (src kind dst arg : Nat) (body : Bytes) : Msg :=
  { port := 0, stamp := 0, source := src, kind := kind, hops := 0, seq := 0, dst := dst, origin := s.self, arg := arg, body := body }

/-- Send a message on a named port. -/
def State.sendOn (s : State) (port src kind dst arg : Nat) (body : Bytes) : State :=
  s.putMsg port none (s.newMsg src kind dst arg body)

/-- Send a message to a module by the route of R383. -/
def State.sendTo (s : State) (src kind dst arg : Nat) (body : Bytes) : State :=
  match routePort s.net.graph s.self s.self dst with
  | none => s
  | some port => s.sendOn port src kind dst arg body

/-- Send a message to every other module of the job. -/
def State.sendAll (s : State) (src kind arg : Nat) (body : Bytes) : State :=
  ((List.range s.modules).filter (· ≠ s.self)).foldl (fun s d => s.sendTo src kind d arg body) s

/-- Acknowledge a message of a peer end to end (R384): the kind acknowledged and its number. -/
def State.e2eAck (s : State) (m : Msg) : State :=
  s.sendTo wardenSrc 8 m.origin (m.kind * 2 ^ 56 + (if m.kind = 1 then m.xfer else m.seq) % 2 ^ 32) []

/-! ### Once-per-step events -/

/-- Whether the first happening of kind `k` in step `step` is still to come. -/
def State.isFirst (s : State) (k step : Nat) : Bool := decide (sget 0 s.job.firsts k ≠ step + 1)
/-- Mark the first happening of kind `k` in step `step`. -/
def State.markFirst (s : State) (k step : Nat) : State :=
  { s with job := { s.job with firsts := sset 0 s.job.firsts k (step + 1) } }
/-- Raise an event once in a step: `k` names the happening. -/
def State.eventOnce (s : State) (k step src code : Nat) (detail : Bytes) : State :=
  if s.isFirst k step then (s.markFirst k step).event src code detail else s

/-! ### Sync objects (R389 to R392) -/

/-- The physical die that is the home of a sync object (R389). -/
def State.syncHome (s : State) (id : Nat) : Nat :=
  if id < 0x3000 then s.physDie (id / 256)
  else if id < 0x3800 then 52 + (id - 0x3000) / 64
  else if id < 0x3C00 then 84 + (id - 0x3800) / 128
  else 99

/-- The declaration of a sync object (R53); an object not declared has initial value and target 0. -/
def State.syncDecl (s : State) (id : Nat) : SyncDecl :=
  match s.job.plan with
  | some p => (p.sync.find? (fun d => d.id = id)).getD ⟨id, false, 0, 0⟩
  | none => ⟨id, false, 0, 0⟩

/-- The plan declares an object; one not declared keeps value 0 (R53). -/
def State.declared (s : State) (id : Nat) : Bool := match s.job.plan with | some p => p.sync.any fun d => d.id == id | none => false

/-- The value of a sync object; a relay reads as 0 (R392). -/
def State.syncValue (s : State) (id : Nat) : Nat := if 0x3E00 ≤ id then 0 else sget 0 s.sync.values id

/-- A wait on an object whose value has reached its target is satisfied, and stays satisfied (R393). -/
def Sync.notify (y : Sync) (id value : Nat) : Sync :=
  { y with waits := y.waits.map fun w => if w.id = id ∧ w.target ≤ value then { w with satisfied := true } else w }

/-- Give an ordinary object a value. -/
def State.setSync (s : State) (id v : Nat) : State :=
  { s with sync := { s.sync with values := sset 0 s.sync.values id v }.notify id v }

/-- `SYNC_SATURATIONS`, `SYNC_LATE_SIGNALS` (R402). -/
def kSyncSaturations : Nat := objKey 0x7021 0
def kSyncLate : Nat := objKey 0x7020 0

/-- Add to an ordinary object (R390). -/
def State.addSync (s : State) (id inc cause : Nat) : State :=
  let v := s.syncValue id + inc
  if v < 2 ^ 32 then s.setSync id v
  else ((s.setSync id (2 ^ 32 - 1)).bump kSyncSaturations 1).eventAfter (dieSrc (s.syncHome id)) 0x6301 (cause + 1) []

/-- Drop a late signal (R391). -/
def State.dropSignal (s : State) (g : Signal) : State :=
  (s.bump kSyncLate 1).eventAfter (dieSrc (s.syncHome g.id)) 0x6300 (g.stamp + 1) (u32 g.id ++ u32 g.step)

/-- The home's present step, low 32 bits (R391). -/
def State.homeStep (s : State) : Nat :=
  (match s.job.begun with | some k => k | none => s.job.startStep + (2 ^ 32 - 1)) % 2 ^ 32

/-- Serial arithmetic: `b` is later than `a` on 32 bits. -/
def serialLater (a b : Nat) : Bool :=
  let d := (b % 2 ^ 32 + 2 ^ 32 - a % 2 ^ 32) % 2 ^ 32
  decide (1 ≤ d ∧ d < 2 ^ 31)

/-- A signal reaches its home (R391): added, held for its step, or dropped as late; `none` when the pending queue is
full and the signal waits on the fabric. -/
def State.arriveSignal (s : State) (g : Signal) : Option State :=
  let home := s.syncHome g.id
  let hold : Option State :=
    if (s.sync.held.filter (fun h => s.syncHome h.id = home)).length < 256
    then some { s with sync := { s.sync with held := s.sync.held ++ [g] } } else none
  if !s.declared g.id then some s
  else if !(s.syncDecl g.id).resets then some (s.addSync g.id g.inc g.stamp)
  else if s.job.state = .loaded then hold
  else if g.step % 2 ^ 32 = s.homeStep then some (if s.job.begun.isSome then s.addSync g.id g.inc g.stamp else s.dropSignal g)
  else if serialLater s.homeStep g.step then hold
  else some (s.dropSignal g)

/-- A unit signals an object (R175, R390, R392): an ordinary object's signal goes onto the fabric; a relay's is sent
on its port, or dropped where the port is not up. -/
def State.signal (s : State) (src id inc step : Nat) : State :=
  if 0x3E00 ≤ id then
    let port := (id - 0x3E00) / 32
    if (s.port port).state = .up then
      s.sendOn port src 3 (s.port port).farModule ((step % 2 ^ 32) * 2 ^ 32 + inc * 2 ^ 16 + (id - 0x3E00) % 32) []
    else s.event (dieSrc 99) 0x6302 []
  else { s with sync := { s.sync with transit := s.sync.transit ++ [⟨src, id, inc, step, s.replica (src / 512)⟩] } }

/-! ### Stash release (R276) -/

/-- The stash is released: what it holds is undefined until it is written again. -/
def State.releaseStash (s : State) : State := { s with stash := { s.stash with released := some s.free, live := [] } }.nextFree

/-! ### The step's statistics close (R147, R150, R548, R549) -/

/-- A number on 256 bits as the FP32 code nearest to it (R136, R548). -/
def normCode (n : Int) : Nat := f32Code (normVal n)
/-- The counters whose increments a step summary carries. -/
def summaryKeys : List Nat := [objKey 0x3001 0, objKey 0x3002 0, objKey 0x3003 0, objKey 0x3004 0]

/-- The step summary of step `k` (kind 1). -/
def State.stepSummary (s : State) (k : Nat) (faulted : Bool) : Bytes :=
  let r := sget {} s.job.steps k
  let st := sget {} s.stats.steps k
  let incs := (summaryKeys.zip s.stats.marks).map fun (key, m) => u64 (s.count key - m)
  u64 k ++ u8 (if faulted then 2 else s.upd.last.getD 1 0) ++ u8 r.overran ++ u8 (if r.straggles then 1 else 0)
    ++ u8 ((if faulted then 1 else 0) + (if st.straggler then 2 else 0)) ++ u16 s.snap.index ++ u16 0 ++ incs.flatten
    ++ u32 (s.upd.last.getD 4 0) ++ u32 (s.upd.last.getD 5 0)

/-- The statistics of step `k` are published and become those of the newest closed step. -/
def State.closeStats (s : State) (k : Nat) (faulted : Bool) : State :=
  let st := { sget {} s.stats.steps k with fault := faulted, watch := (List.range 8).map fun i => s.active 0xA0F0 (i + 1) 0 }
  let head (key : Nat) := u8 (key / 16) ++ u8 (key % 16) ++ List.replicate 6 0#8 ++ u64 k
  let kind2 := (st.counts.filter fun e => e.2.elements ≠ 0).map fun e =>
    head e.1 ++ u64 e.2.elements ++ u64 e.2.saturated ++ u64 e.2.flushed ++ u64 e.2.below ++ u64 e.2.nonFinite
  let kind3 := ((st.hist.map fun e => e.1 / 64).dedup).map fun key =>
    head key ++ (List.range 64).flatMap fun b => u64 (sget 0 st.hist (64 * key + b))
  let kind5 := if faulted then [] else
    (match s.job.plan with | some p => p.updates | none => []).zipIdx.map fun (d, i) =>
      let r := sget (NormRec.mk 1 0 0 0 0 false) s.upd.norms i
      let held := ((s.upd.stale.flatMap fun e : Nat × List Msg => e.2).filter fun m : Msg => decide (fieldAt m.body 0 4 = i)).length
      u64 k ++ u32 i ++ slice d 0 2 ++ u8 (if r.isPartial then 1 else 0) ++ u8 0 ++ u16 r.contributors ++ slice d 0x0C 2 ++ u32 held
        ++ u32 (normCode r.h2) ++ u32 (normCode r.w2) ++ u32 (normCode r.u2) ++ u32 0
  let s := s.telemetry telemetrySrc 1 (s.stepSummary k faulted)
  let s := kind2.foldl (fun s b => s.telemetry telemetrySrc 2 b) s
  let s := kind3.foldl (fun s b => s.telemetry telemetrySrc 3 b) s
  let s := kind5.foldl (fun s b => s.telemetry telemetrySrc 5 b) s
  { s with stats := { steps := sset {} s.stats.steps k {}, closed := st, closedStep := k, marks := summaryKeys.map s.count } }

/-- The steps whose statistics are open: those begun whose APPLY window has not ended, and those with counts. -/
def State.openSteps (s : State) : List Nat :=
  (((s.job.steps.filter fun e => decide ((e.2.ended / 2 ^ 5) % 2 = 0)).map fun e => e.1) ++ s.stats.steps.map fun e => e.1).dedup.mergeSort

/-! ### Receipts (R329, R330) -/

/-- The packer of the bucking die of stand `st`: unit group 2, unit 0. -/
def packerSrc (st : Nat) : Nat := srcId (84 + st) 0x20
/-- The kinds of a receipt: 0 admitted, 1 carried, 2 dropped, 3 skipped, 4 withdrawn. -/
structure Receipt where
  kind : Nat
  reason : Nat := 0
  id : Nat
  step : Nat
  row : Nat := 2 ^ 32 - 1
  position : Nat := 0
  length : Nat := 0
  carries : Nat
  stream : Nat
  clipped : Nat := 0
/-- Send a receipt; carries above 255 read as 255. -/
def State.receipt (s : State) (st : Nat) (r : Receipt) : State :=
  let src := packerSrc st
  let stamp := s.stampOf src 0
  let bs := u64 stamp ++ u16 src ++ u8 r.kind ++ u8 r.reason ++ u32 (sget 0 s.log.seq src) ++ u64 r.id ++ u64 r.step ++ u32 r.row
    ++ u32 r.position ++ u32 r.length ++ u8 (min 255 r.carries) ++ u8 r.stream ++ u16 (min 65535 r.clipped)
  { s with log := s.log.advance src stamp }.record 4 st bs

/-- A later receipt for every admitted sample of step `k`; none of them gets another. -/
def State.laterReceipts (s : State) (k kind reason : Nat) : State :=
  s.ingest.stands.foldl (fun s (st, x) =>
    let s := (x.admitted.filter fun a => a.step = k).foldl (fun s a =>
      s.receipt st { kind := kind, reason := reason, id := a.id, step := k, carries := a.carries, stream := a.stream }) s
    { s with ingest := { s.ingest with stands := supd {} s.ingest.stands st fun y =>
        { y with admitted := y.admitted.filter fun a => decide (a.step ≠ k) } } }) s

/-! ### Captures refused (R443, R444) -/

/-- `CAPTURES_REFUSED`. -/
def kCapturesRefused : Nat := objKey 0x8152 0
/-- `PARTNER_MODULE` (R437). -/
def State.partner (s : State) : Nat := s.active 0x8110 1 0xFFFF
/-- Step `k` is a checkpoint step, a snapshot step. -/
def State.checkpointStep (s : State) (k : Nat) : Bool := let n := s.active 0x8110 3 0; decide (0 < n ∧ k % n = 0)
def State.snapshotStep (s : State) (k : Nat) : Bool := let n := s.active 0x8110 2 0; decide (0 < n ∧ k % n = 0)
/-- Step `k` is to be captured (R443). -/
def State.captures (s : State) (k : Nat) : Bool := s.checkpointStep k || s.snapshotStep k || s.snap.requested.contains k
/-- The argument of a `SNAP_STATUS` (R447). -/
def snapArg (code step : Nat) : Nat := code * 2 ^ 56 + step % 2 ^ 32
/-- A capture is refused: every module is told. -/
def State.refuseCapture (s : State) (k cause : Nat) : State :=
  ((s.bump kCapturesRefused 1).event wardenSrc 0x3303 (u32 k ++ u8 cause)).sendAll wardenSrc 13 (snapArg 6 k) (u8 cause)

/-! ### Faults (R463, R464, R478) -/

/-- `FAULT_COUNT` (R481). -/
def kFaultCount : Nat := objKey 0x8000 2

/-- A limber engine stops before its next write and discards its queue (R206). -/
def Limber.stop (l : Limber) : Limber := { l with queue := [], stopped := true }
/-- Physical die `d` has a limber engine: it serves a logical compute die, or is a bucking die, numbered from 84 (R201). -/
def State.hasLimber (s : State) (d : Nat) : Bool := s.start.dieMap.contains d || decide (84 ≤ d ∧ d < 92)
/-- Every unit stops (R107, R226, R282, R337): nothing in flight completes, and what the rings and pools hold is
discarded. -/
def State.stopUnits (s : State) : State :=
  { s with clusters := (List.range (12 * s.start.dieMap.length)).map fun k => (k, { (sget {} s.clusters k).abandon with vuStopped := true }),
           limbers := ((List.range 92).filter s.hasLimber).map fun d => (d, (sget {} s.limbers d).stop),
           upd := { s.upd with rows := [], toWithdraw := [], normStep := none, applying := false, cache := [] },
           cow := if s.cow.state = 1 then { s.cow with state := 3, dies := smap 0 (fun x => if x = 1 then 3 else x) s.cow.dies, pages := [], held := [] } else s.cow,
           snap := if s.cow.state = 1 then { s.snap with capture := none } else s.snap,
           ingest := { s.ingest with stands := [], admitting := [], bounds := [] } }

/-- Ingest flows are closed with `STATE` (R430). -/
def State.closeIngest (s : State) : State :=
  let mine := s.host.flows.filter fun f => f.channel = 0
  mine.foldl (fun s f => s.sendHost (.bulk f.id 5 0 f.next 0 (u32 0x40001)))
    { s with host := { s.host with flows := s.host.flows.filter fun f => f.channel ≠ 0 } }

/-- The checkpoint that streams or waits for its flow has ended: the one behind it, if there is one, waits now (R448). -/
def State.endCheckpoint (s : State) : State := { s with snap := { s.snap with checkpoint := s.snap.nextCheckpoint, nextCheckpoint := none } }
/-- The checkpoint is abandoned, and its flow with it. DESIGN CHOICE (log 113): no `CLOSE` goes out. -/
def State.abandonCheckpoint (s : State) : State :=
  match s.snap.checkpoint with
  | some c => ({ s.endCheckpoint with host := { s.host with flows := s.host.flows.filter fun f => c.flow ≠ some f.id } }).event wardenSrc 0x3306
  | none => s

/-- A checkpoint stream survives a fault, but for the faults that R463 names. DESIGN CHOICE (log 113): no `CLOSE` goes out. -/
def State.faultCheckpoint (s : State) (src code : Nat) : State :=
  if s.snap.checkpoint.isSome ∧ (src / 512 = 96 ∨ src / 512 = 97 ∨ src / 512 = 98 ∨ code = 0x1200 ∨ code = 0x7003) then
    ({ s with snap := { s.snap with checkpoint := none, nextCheckpoint := none },
              host := { s.host with flows := s.host.flows.filter fun f => !(f.channel = 2 && f.sub = 0) } }).event wardenSrc 0x3306
  else s

/-- The reaction to the first fault (R463): commit inhibit, units stopped, `JOB_STATE` to `FAULT` where a plan is
loaded, `FAULT_NOTICE` to every module of the job; the open statistics are published (R150), the captures of steps that
never clear refused (R444). -/
def State.react (s : State) (src code : Nat) : State :=
  let unclear := (s.job.steps.filter fun e => e.2.opened ≠ 0 && !e.2.cleared && s.captures e.1).map fun e => e.1
  let s := s.openSteps.foldl (fun s k => s.closeStats k true) { s with safe := { s.safe with latch := true, inhibit := true } }
  let s := (s.stopUnits.closeIngest).faultCheckpoint src code
  match s.job.plan with
  | none => s
  | some _ =>
    let s := { s with job := { s.job with state := .fault, pendingPause := none, resumeAt := none, stopping := false } }
    unclear.foldl (fun s k => s.refuseCapture k 4) (s.sendAll wardenSrc 10 code (u16 src))

/-- Raise a fault: its record enters the event log and `FAULT_HISTORY`, `FAULT_COUNT` grows; the first fault since
load also sets the latch, is kept in `FAULT_FIRST`, and is reacted to (R463, R478, R479). -/
def State.faultAfter (s : State) (src code cause : Nat) (detail : Bytes) : State :=
  let r := s.mkRecord src code cause detail
  let s1 := (s.eventAfter src code cause detail).bump kFaultCount 1
  let s1 := { s1 with log := { s1.log with history := newest 64 (s1.log.history ++ [r]) } }
  if s.safe.latch then s1
  else
    let s2 := s1.react src code
    let s2 := { s2 with safe := { s2.safe with first := ⟨code, src, r.stamp, s.job.stepNow, s.job.phaseNow⟩ } }
    match s.job.plan with
    | none => s2
    | some _ => s2.event wardenSrc 0x1000 (u16 code)

/-- What every command answers. -/
abbrev Res := Host.Outcome State Fault Refusal

/-- Raise a fault with no cause from another source. -/
def State.fault (s : State) (src code : Nat) (detail : Bytes := []) : State := s.faultAfter src code 0 detail

end Sys2Proof.Machine
end

