-- ==== Sys2Proof/Machine/Flags.lean ====
section
/-! DEFINITION. Format statistics and the step's non-finite flag (R143 to R147). -/

namespace Sys2Proof.Machine

/-- A count stays at 2^64 - 1 (R144). -/
def satAdd (a b : Nat) : Nat := min (a + b) (2 ^ 64 - 1)

/-- Add two sets of counts. -/
def Counts.add (a b : Counts) : Counts :=
  ⟨satAdd a.elements b.elements, satAdd a.saturated b.saturated, satAdd a.flushed b.flushed, satAdd a.below b.below,
   satAdd a.nonFinite b.nonFinite⟩

/-- The counts of one placed product or contribution (R144). -/
def Placed.counts (p : Placed) : Counts :=
  { elements := 1, saturated := if p.saturated then 1 else 0, flushed := if p.flushed then 1 else 0,
    below := if p.below then 1 else 0 }

/-- The counts of one rounded element that is written (R141, R144, R218). -/
def Rounded.counts (r : Rounded) : Counts :=
  { elements := 1, saturated := if r.flags.saturated then 1 else 0, flushed := if r.flags.flushed then 1 else 0,
    below := if r.flags.below then 1 else 0 }

/-- One non-finite replacement. -/
def Counts.oneNonFinite : Counts := { nonFinite := 1 }

/-- The open statistics of a step. -/
def State.stepStats (s : State) (step : Nat) : StepStats := sget {} s.stats.steps step
/-- Change the open statistics of a step. -/
def State.modStats (s : State) (step : Nat) (f : StepStats → StepStats) : State :=
  { s with stats := { s.stats with steps := supd {} s.stats.steps step f } }

/-- Whether watch number `w` keeps histograms (R146, R148). -/
def State.histOn (s : State) (w : Nat) : Bool := decide ((s.active 0xA0F0 (w / 32 + 1) 0 / 2 ^ (w % 32)) % 2 = 1)
/-- `HISTOGRAM_BASE` (R148). -/
def State.histBase (s : State) : Int := signed 32 (s.active 0xA0F0 9 (2 ^ 32 - 48))
/-- The bin of a non-zero value (R146). -/
def histBin (base : Int) (v : ℚ) : Nat := (max 0 (min 63 (log2q v - base))).toNat

/-- Put non-zero values into the histogram of (w, f) of a step. DESIGN CHOICE (log 102): every work that counts elements calls it. -/
def State.addHist (s : State) (step w f : Nat) (vs : List ℚ) : State :=
  if s.histOn w then
    let put (h : List (Nat × Nat)) (v : ℚ) := supd 0 h (64 * (16 * w + f) + histBin s.histBase v) (· + 1)
    s.modStats step fun st => { st with hist := (vs.filter (· ≠ 0)).foldl put st.hist }
  else s

/-- The sticky non-finite flag of a step is raised; the first time by event `NONFINITE_FIRST` from source `src` (R145). -/
def State.raiseFlag (s : State) (src step w f : Nat) : State :=
  let first := !(s.stepStats step).nonFinite
  let s := s.modStats step fun st => { st with nonFinite := true }
  if first then s.event src 0x2300 (u8 w ++ u8 f) else s

/-- Counts are added to (w, f) of a step. -/
def State.tallyCounts (s : State) (step w f : Nat) (c : Counts) : State :=
  s.modStats step fun st => { st with counts := supd {} st.counts (16 * w + f) (fun k => k.add c) }

/-- Add counts to (w, f) of a step. A `NON_FINITE` increment raises the step's sticky flag (R145). -/
def State.addCounts (s : State) (src step w f : Nat) (c : Counts) : State :=
  if c.nonFinite = 0 then s.tallyCounts step w f c else (s.tallyCounts step w f c).raiseFlag src step w f

end Sys2Proof.Machine
end

