-- ==== Sys2Proof/Machine/Operands.lean ====
section
/-! DEFINITION. Operand forms of the cluster instructions: fields, extents, local addresses, panels, scale planes, conv
and crop operands (06, 07), and accesses to die memory under bank ownership (09). -/

namespace Sys2Proof.Machine

/-! ### Fields (R154 to R177) -/

/-- The class code of an instruction (R154). -/
def iClass (w : Nat) : Nat := bitsOf w 127 123
def iTile (w : Nat) : Nat := bitsOf w 107 107
def iFresh (w : Nat) : Bool := bitsOf w 106 106 == 1
def iMx (w : Nat) : Bool := bitsOf w 105 105 == 1
def iWatch (w : Nat) : Nat := bitsOf w 115 108
def iAAlt (w : Nat) : Bool := bitsOf w 117 117 == 1
def iBAlt (w : Nat) : Bool := bitsOf w 116 116 == 1
def iFmtA (w : Nat) : Nat := bitsOf w 104 101
def iFmtB (w : Nat) : Nat := bitsOf w 100 97
def iEref (w : Nat) : Int := signed 10 (bitsOf w 96 87)
def iShift (w : Nat) : Int := signed 8 (bitsOf w 86 79)
def iALane (w : Nat) : Bool := bitsOf w 78 78 == 1
def iBLane (w : Nat) : Bool := bitsOf w 77 77 == 1
def iAAddr (w : Nat) : Nat := bitsOf w 76 62
def iBAddr (w : Nat) : Nat := bitsOf w 61 47
def iGeom (w : Nat) : Nat := bitsOf w 78 62
def iMMax (w : Nat) : Nat := bitsOf w 46 39
def iNMax (w : Nat) : Nat := bitsOf w 38 31
def iKMax (w : Nat) : Nat := bitsOf w 30 15
def iMSel (w : Nat) : Nat := bitsOf w 14 10
def iNSel (w : Nat) : Nat := bitsOf w 9 5
def iKSel (w : Nat) : Nat := bitsOf w 4 0
/-- Drains (R165). -/
def dMask (w : Nat) : Nat := bitsOf w 122 120
def dFromSlot (w : Nat) : Bool := bitsOf w 106 106 == 1
def dFmt (w : Nat) : Nat := bitsOf w 104 101
def dShift (w : Nat) : Int := signed 8 (bitsOf w 100 93)
def dKind (w : Nat) : Nat := bitsOf w 92 90
def dAddr (w : Nat) : Nat := bitsOf w 89 50
def dPitch (w : Nat) : Nat := bitsOf w 49 26
def dMMax (w : Nat) : Nat := bitsOf w 25 18
def dNMax (w : Nat) : Nat := bitsOf w 17 10
def dMSel (w : Nat) : Nat := bitsOf w 9 5
def dNSel (w : Nat) : Nat := bitsOf w 4 0
/-- Vector operations (R169). -/
def vOp (w : Nat) : Nat := bitsOf w 120 115
def vMode (w : Nat) : Nat := bitsOf w 122 121
def vFmtIn (w : Nat) : Nat := bitsOf w 114 111
def vFmtOut (w : Nat) : Nat := bitsOf w 110 107
def vSrcA (w : Nat) : Nat := bitsOf w 106 87
def vSrcB (w : Nat) : Nat := bitsOf w 86 67
def vDst (w : Nat) : Nat := bitsOf w 66 47
def vRowsMax (w : Nat) : Nat := bitsOf w 46 31
def vRowsSel (w : Nat) : Nat := bitsOf w 30 26
def vWatch (w : Nat) : Nat := bitsOf w 25 18
def vImm (w : Nat) : Nat := bitsOf w 17 2
/-- Top-k (R170). -/
def tkK (w : Nat) : Nat := bitsOf w 122 112
def tkFmt (w : Nat) : Nat := bitsOf w 111 108
def tkSrc (w : Nat) : Nat := bitsOf w 107 88
def tkVal (w : Nat) : Nat := bitsOf w 87 68
def tkPos (w : Nat) : Nat := bitsOf w 67 48
def tkLenMax (w : Nat) : Nat := bitsOf w 47 32
def tkLenSel (w : Nat) : Nat := bitsOf w 31 27
def tkRowsMax (w : Nat) : Nat := bitsOf w 26 19
def tkRowsSel (w : Nat) : Nat := bitsOf w 18 14
def tkLargest (w : Nat) : Bool := bitsOf w 13 13 == 1
/-- The drain input as a source (R155). -/
def drainInput : Nat := 0xFFFFF

/-- A bound register (R158). -/
def Cluster.bound (c : Cluster) (k : Nat) : Nat := sget 0 c.bounds k
/-- An extent read under R156: the planned maximum, or a bound register. -/
def Cluster.extent (c : Cluster) (mx sel : Nat) : Nat := if sel < 16 then mx else c.bound (sel % 16)
/-- A mask register: row and column bitmaps, all ones at load (R167). -/
def allOnes128 : Nat := 2 ^ 128 - 1
def Cluster.mask (c : Cluster) (m : Nat) : Nat × Nat := sget (allOnes128, allOnes128) c.masks m

/-! ### Local addresses (R155, R233, R235) -/

/-- The aperture of a physical compute die. -/
def apertureBase (die : Nat) : Nat := 0x100000000000 + die * 2 ^ 32
/-- The bytes of feeder SRAM. -/
def feederBytes : Nat := 0x200000
/-- The first byte after the memory that holds local byte address `x`, if it is mapped. -/
def localEnd (x : Nat) : Option Nat :=
  if x < 0x200000 then some 0x200000
  else if 0x400000 ≤ x ∧ x < 0xE00000 then some 0xE00000
  else if 0x1000000 ≤ x ∧ x < 0x1280000 then some 0x1280000
  else none
/-- Local bytes from `x` on lie within one memory. -/
def localOk (x n : Nat) : Bool := match localEnd x with | some e => decide (x + n ≤ e) | none => false
/-- The module address of a local byte address of a cluster on physical die `die`. -/
def localToModule (die cl x : Nat) : Nat :=
  if x < 0x200000 then apertureBase die + 0x08000000 + (cl % 12) * 0x200000 + x
  else if x < 0xE00000 then apertureBase die + 0x01000000 * (clRegion cl + 1) + (x - 0x400000)
  else apertureBase die + (x - 0x1000000)

/-- What a byte of an aperture is (R235). -/
inductive ApertureAt where
  | dieSram (line : Nat)
  | region (r line : Nat)
  | feeder (n line : Nat)
  | unmapped
  deriving DecidableEq, Repr

/-- The memory at an aperture offset, and the line within it (R235). -/
def apertureAt (o : Nat) : ApertureAt :=
  if o < 0x280000 then .dieSram (o / 64)
  else if 0x8000000 ≤ o ∧ o < 0x8000000 + 12 * 0x200000 then
    .feeder ((o - 0x8000000) / 0x200000) ((o - 0x8000000) % 0x200000 / 64)
  else if 0x1000000 ≤ o ∧ o < 0x4000000 ∧ o % 0x1000000 < 0xA00000 then .region (o / 0x1000000 - 1) (o % 0x1000000 / 64)
  else .unmapped

/-- Bytes from aperture offset `o` to the end of the memory that holds it; 0 where unmapped. -/
def apertureRoom (o : Nat) : Nat :=
  match apertureAt o with
  | .dieSram _ => 0x280000 - o
  | .region _ _ => 0xA00000 - o % 0x1000000
  | .feeder _ _ => 0x200000 - (o - 0x8000000) % 0x200000
  | .unmapped => 0

/-! ### Banks (R234, R242, R243, R248) -/

/-- The control block index of the bank at an aperture offset; none for feeder SRAM, which has no banks (R252). -/
def bankIndex (o : Nat) : Option Nat :=
  match apertureAt o with
  | .dieSram l => some (48 + l / 0x2000)
  | .region r l => some (16 * r + if l < 0x20000 then l / 0x4000 else 8 + (l - 0x20000) / 0x2000)
  | _ => none
/-- Bytes from aperture offset `o` to the end of its bank. -/
def bankRoom (o : Nat) : Nat :=
  match apertureAt o with
  | .dieSram _ => 0x80000 - o % 0x80000
  | .region _ l =>
    if l < 0x20000 then 0x100000 - o % 0x100000 else 0x80000 - o % 0x80000
  | _ => apertureRoom o

/-- A bank. -/
def State.bank (s : State) (die i : Nat) : Bank := sget {} s.banks (64 * die + i)
/-- Change a bank. -/
def State.modBank (s : State) (die i : Nat) (f : Bank → Bank) : State :=
  { s with banks := supd {} s.banks (64 * die + i) f }

/-- Counters of R256. -/
def kNotOwner : Nat := objKey 0x4011 0
def kNotOn : Nat := objKey 0x4012 0
def kCollisions : Nat := objKey 0x4013 0

/-- Whether requester `req` is refused by a bank as a non-owner (R243, R245), and whether the bank is not ON (R248). -/
def Bank.notOwner (b : Bank) (req : Nat) : Bool := b.handover.isSome || b.owner != req
def Bank.notOn (b : Bank) : Bool := b.powerNow != 0 || b.transition

/-- A refused access is counted and reported, the first of a bank in a step by an event (R243, R248, R257). -/
def State.noteRefused (s : State) (die i req step : Nat) : State :=
  let b := s.bank die i
  let s1 := s.modBank die i fun b =>
    { b with lastNonOwner := req, notOwnerAccess := b.notOwnerAccess || b.notOwner req, notOnAccess := b.notOnAccess || b.notOn }
  let s2 := if b.notOwner req then
      (s1.bump kNotOwner 1).eventOnce (0x100000 + 64 * die + i) step (dieSrc die) 0x3000 (u32 i ++ u32 req) else s1
  if b.notOn then (s2.bump kNotOn 1).eventOnce (0x200000 + 64 * die + i) step (dieSrc die) 0x3001 [] else s2

/-- The requests of an access: pieces of at most 576 bytes, over at most 9 lines, that stay within one bank (R236). -/
def requests : Nat → Nat → Nat → List (Nat × Nat)
  | 0, _, _ => []
  | fuel + 1, o, n =>
    if n = 0 then []
    else
      let k := max 1 (min n (min (576 - o % 64) (bankRoom o)))
      (o, k) :: requests fuel (o + k) (n - k)

/-- One request at aperture offset `o` of physical die `die`: whether it is served. -/
def State.allowAccess (s : State) (die o req step : Nat) : Bool × State :=
  match bankIndex o with
  | none => (true, s)
  | some i =>
    let b := s.bank die i
    if b.notOwner req || b.notOn then (false, s.noteRefused die i req step) else (true, s)

/-- Read `n` bytes of a die's memory as requester `req`: a refused request returns zeros (R243). -/
def State.sramRead (s : State) (die o n req step : Nat) : Bytes × State :=
  (requests n o n).foldl (fun (acc : Bytes × State) r =>
    let (ok, s) := acc.2.allowAccess die r.1 req step
    (acc.1 ++ (if ok then readBytes s.mem (apertureBase die + r.1) r.2 else List.replicate r.2 0#8), s)) ([], s)

/-- Write bytes into a die's memory as requester `req`: a refused request is dropped (R243). -/
def State.sramWrite (s : State) (die o req step : Nat) (bs : Bytes) : State :=
  (requests bs.length o bs.length).foldl (fun s r =>
    let (ok, s) := s.allowAccess die r.1 req step
    if ok then { s with mem := writeBytes s.mem (apertureBase die + r.1) (slice bs (r.1 - o) r.2) } else s) s

/-- Read local bytes of a cluster: its own requests carry its own ID 4r + c (R242). -/
def State.localRead (s : State) (cl x n step : Nat) : Bytes × State :=
  let die := s.physDie (clDie cl)
  s.sramRead die (localToModule die cl x - apertureBase die) n (cl % 12) step
/-- Write local bytes of a cluster. -/
def State.localWrite (s : State) (cl x step : Nat) (bs : Bytes) : State :=
  let die := s.physDie (clDie cl)
  s.sramWrite die (localToModule die cl x - apertureBase die) (cl % 12) step bs

/-! ### Panels (R161) -/

/-- Bytes of `n` elements of width `w`, up to whole bytes. -/
def packedBytes (w n : Nat) : Nat := if w = 6 then (n + 3) / 4 * 3 else (n * w + 7) / 8
/-- Round up to a multiple of 64. -/
def up64 (n : Nat) : Nat := (n + 63) / 64 * 64
/-- The step stride S and the lane pitch L (R161). -/
def stepStride (w : Nat) : Nat := up64 (16 * w)
def lanePitch (kmax w : Nat) : Nat := (kmax * w + 511) / 512 * 64
/-- The bytes of an element panel, and of one of its scale planes. -/
def panelBytes (lane : Bool) (kmax w : Nat) : Nat := if lane then 128 * lanePitch kmax w else kmax * stepStride w
def planeBytes (kmax : Nat) : Nat := (kmax + 31) / 32 * 128

/-- Element `q` of a packed string at address `a` of memory (R126). -/
def memElem (mem : List (Nat × Byte)) (a w q : Nat) : Nat :=
  if w = 6 then bitsOf (leNat (readBytes mem (a + 3 * (q / 4)) 3)) (6 * (q % 4) + 5) (6 * (q % 4))
  else if w = 4 then bitsOf (leNat (readBytes mem (a + q / 2) 1)) (4 * (q % 2) + 3) (4 * (q % 2))
  else leNat (readBytes mem (a + q * (w / 8)) (w / 8))

/-- Element (lane l, k) of a panel at feeder address `a` (R161). -/
def panelElem (mem : List (Nat × Byte)) (a : Nat) (lane : Bool) (kmax w l k : Nat) : Nat :=
  if lane then memElem mem (a + l * lanePitch kmax w) w k else memElem mem (a + k * stepStride w) w l

/-- The scale code of lane `l`, block `b` of a panel: the default plane, or the alternate one (R161). -/
def panelScale (mem : List (Nat × Byte)) (a : Nat) (lane alt : Bool) (kmax w l b : Nat) : Nat :=
  (readByte mem (a + panelBytes lane kmax w + (if alt then planeBytes kmax else 0) + b * 128 + l)).toNat

/-- The first feeder byte after a panel and the planes an instruction reads of it. -/
def panelEnd (addr : Nat) (lane mx alt : Bool) (kmax w : Nat) : Nat :=
  addr * 64 + panelBytes lane kmax w + (if mx then planeBytes kmax * (if alt then 2 else 1) else 0)

/-! ### Packing results -/

/-- Pack codes of width `w` densely (R126); the last group is padded with zero bits. -/
def packNat (w : Nat) : List Nat → Nat
  | [] => 0
  | c :: cs => c % 2 ^ w + 2 ^ w * packNat w cs
def packRow (w : Nat) (cs : List Nat) : Bytes := leBytes (packedBytes w cs.length) (packNat w cs)

/-- Replace element `q` of a packed byte string. -/
def putElem (w : Nat) (bs : Bytes) (q code : Nat) : Bytes :=
  let x := leNat bs
  let old := bitsOf x (w * q + w - 1) (w * q)
  leBytes bs.length (x - old * 2 ^ (w * q) + (code % 2 ^ w) * 2 ^ (w * q))

/-! ### Conv and crop geometry (R187 to R192, R196 to R200) -/

/-- A signed 16-bit and a signed 32-bit field of a descriptor. -/
def i16At (d : Bytes) (o : Nat) : Int := signed 16 (fieldAt d o 2)
def i32At (d : Bytes) (o : Nat) : Int := signed 32 (fieldAt d o 4)

/-- Mirror a coordinate into an extent without repeating the edge (R190). -/
def mirror (u : Int) (l : Nat) : Int :=
  if l ≤ 1 then 0
  else
    let q := u % (2 * ((l : Int) - 1))
    if q < l then q else 2 * ((l : Int) - 1) - q

/-- A coordinate clamped to [lo, hi]. -/
def clampInt (u lo hi : Int) : Int := max lo (min hi u)

/-- Where one operand element of a conv pass comes from. -/
inductive ConvAt where
  | zero
  | const
  | stored (row col : Int)
  deriving DecidableEq, Repr

/-- The source of map position (u, v) under the descriptor's padding mode (R190). -/
def convAt (d : Bytes) (u v : Int) : ConvAt :=
  let h := fieldAt d 0x10 2
  let w := fieldAt d 0x12 2
  let y0 := i16At d 0x0C
  let x0 := i16At d 0x0E
  if 0 ≤ u ∧ u < h ∧ 0 ≤ v ∧ v < w then .stored (u - y0) (v - x0)
  else
    match bitsOf (fieldAt d 2 2) 1 0 with
    | 0 => .zero
    | 1 => .const
    | 2 => .stored (mirror u h - y0) (mirror v w - x0)
    | _ => .stored (clampInt u 0 (h - 1) - y0) (clampInt v 0 (w - 1) - x0)

/-- The output position of linear index `p` of the rectangle (R188). -/
def convOut (d : Bytes) (p : Nat) : Int × Int :=
  let tw := fieldAt d 0x30 2
  (i16At d 0x2C + (p / tw : Nat), i16At d 0x2E + (p % tw : Nat))

/-- An output position lies inside the whole output map. -/
def convInMap (d : Bytes) (o : Int × Int) : Bool :=
  decide (0 ≤ o.1 ∧ 0 ≤ o.2 ∧ o.1 < fieldAt d 0x32 2 ∧ o.2 < fieldAt d 0x34 2)

/-- The input map position of output position `o` at tap (ky, kx) of the filter (R189). -/
def convIn (d : Bytes) (o : Int × Int) (ky kx : Nat) : Int × Int :=
  (o.1 * fieldAt d 0x24 1 - i16At d 0x28 + (ky * fieldAt d 0x26 1 : Nat),
   o.2 * fieldAt d 0x25 1 - i16At d 0x2A + (kx * fieldAt d 0x27 1 : Nat))

/-- Filter position of tap `t` of a pass (R189). -/
def convTap (d : Bytes) (t : Nat) : Nat × Nat :=
  let kw := fieldAt d 0x21 1
  (fieldAt d 0x22 1 + t / kw, fieldAt d 0x23 1 + t % kw)

/-- A stored position lies inside the stored window. -/
def inWindow (d : Bytes) (r c : Int) : Bool :=
  decide (0 ≤ r ∧ 0 ≤ c ∧ r < fieldAt d 8 2 ∧ c < fieldAt d 0xA 2)

/-- The byte address, from local address 0, of stored position (r, c) of a window (R191). -/
def windowAddr (d : Bytes) (r c : Int) : Nat :=
  fieldAt d 4 4 * 64 + r.toNat * fieldAt d 0x18 4 + c.toNat * fieldAt d 0x14 2

/-- The bytes that a stored window spans: whole rows, and positions that reach past a row's end; `last`: the bytes that a job
uses of a position, where it uses more than `CG_POS_BYTES` (R191). -/
def windowSpan (d : Bytes) (last : Nat) : Nat :=
  let pos := fieldAt d 0x14 2
  (fieldAt d 8 2 - 1) * fieldAt d 0x18 4 + max (fieldAt d 0x18 4) ((fieldAt d 0xA 2 - 1) * pos + max pos last)

/-- The fields of a conv descriptor that R187 bounds. -/
def convFieldsOk (d : Bytes) : Bool :=
  let inR (o n lo hi : Nat) := decide (lo ≤ fieldAt d o n ∧ fieldAt d o n ≤ hi)
  inR 8 2 1 32767 && inR 0xA 2 1 32767 && inR 0x10 2 1 32767 && inR 0x12 2 1 32767 &&
  decide (fieldAt d 0x14 2 % 16 = 0) && decide (fieldAt d 0x18 4 % 64 = 0) &&
  inR 0x1E 2 1 4096 && inR 0x20 1 1 64 && inR 0x21 1 1 64 &&
  inR 0x24 1 1 16 && inR 0x25 1 1 16 && inR 0x26 1 1 16 && inR 0x27 1 1 16 &&
  decide (-1024 ≤ i16At d 0x28 ∧ i16At d 0x28 ≤ 1023) && decide (-1024 ≤ i16At d 0x2A ∧ i16At d 0x2A ≤ 1023) &&
  inR 0x30 2 1 4096

/-- The set bits of a crop weight, highest first (R199). -/
def setBits (w : Nat) : List Nat := ((List.range 5).reverse).filter fun e => (w / 2 ^ e) % 2 = 1

/-- The sample point of a crop's box: quarter-position coordinates (R198). -/
def cropPoint (d : Bytes) (box : List Int) : Int × Int :=
  let g (i : Nat) := box.getD i 0
  let r : Int := fieldAt d 0x28 1
  let c : Int := fieldAt d 0x29 1
  (g 0 + ((2 * r + 1) * (g 2 - g 0)).fdiv (2 * fieldAt d 0x26 1) - 2,
   g 1 + ((2 * c + 1) * (g 3 - g 1)).fdiv (2 * fieldAt d 0x27 1) - 2)

/-- Neighbour `q` of a sample point, and its weight times 16 (R199). -/
def cropNeighbour (p : Int × Int) (q : Nat) : (Int × Int) × Nat :=
  let iy := p.1.fdiv 4
  let a := (p.1 - 4 * iy).toNat
  let ix := p.2.fdiv 4
  let b := (p.2 - 4 * ix).toNat
  ((iy + (q / 2 : Nat), ix + (q % 2 : Nat)), (if q / 2 = 0 then 4 - a else a) * (if q % 2 = 0 then 4 - b else b))

/-- A crop neighbour resolved against map and window (R200): the stored position read, or none; and whether it lies
inside the map but outside the stored window. -/
def cropResolve (d : Bytes) (n : Int × Int) : Option (Int × Int) × Bool :=
  let h : Int := fieldAt d 0x10 2
  let w : Int := fieldAt d 0x12 2
  let y0 := i16At d 0x0C
  let x0 := i16At d 0x0E
  let inMap := decide (0 ≤ n.1 ∧ n.1 < h ∧ 0 ≤ n.2 ∧ n.2 < w)
  let inWin := inWindow d (n.1 - y0) (n.2 - x0)
  if inMap && inWin then (some (n.1 - y0, n.2 - x0), false)
  else if bitsOf (fieldAt d 2 2) 0 0 = 1 then (none, inMap)
  else
    let lo1 := max 0 y0
    let hi1 := min (h - 1) (y0 + fieldAt d 8 2 - 1)
    let lo2 := max 0 x0
    let hi2 := min (w - 1) (x0 + fieldAt d 0xA 2 - 1)
    (some (clampInt n.1 lo1 hi1 - y0, clampInt n.2 lo2 hi2 - x0), inMap)

end Sys2Proof.Machine
end

