-- ==== Sys2Proof/Machine/Array.lean ====
section
/-! DEFINITION. The crosscut array: operands of each kind of pass, exact sums of placed products, drain rows (04, 05,
06, 07). -/

namespace Sys2Proof.Machine

/-- What the feeders deliver to a pass: element codes, unbiased scale exponents (none: NaN), further exponent shifts of
the A side (R199), and which row lanes are valid. -/
structure Feed where
  fa : Nat
  fb : Nat
  a : Nat → Nat → Nat
  b : Nat → Nat → Nat
  sa : Nat → Nat → Option Int
  sb : Nat → Nat → Option Int
  extra : Nat → Nat → Int
  row : Nat → Bool

/-- One product, multiplied by its scales and shift and placed (R85, R128, R130); none where an input is non-finite. -/
def Feed.product (f : Feed) (eref shift : Int) (i j k : Nat) : Option Placed :=
  match elemVal f.fa (f.a i k), elemVal f.fb (f.b j k), f.sa i k, f.sb j k with
  | some x, some y, some ea, some eb => some (placeTile eref (x * y * pow2 (ea + eb + shift + f.extra i k)))
  | _, _, _, _ => none

/-- The exact sum of a cell's placed products over K elements, with its counts (R80, R130). -/
def Feed.cell (f : Feed) (eref shift : Int) (i j kk : Nat) : Int × Counts :=
  (List.range kk).foldl (fun acc k =>
    match f.product eref shift i j k with
    | some p => (acc.1 + p.val, acc.2.add p.counts)
    | none => (acc.1, acc.2.add { elements := 1, nonFinite := 1 })) (0, {})

/-- The values of the non-zero placed products, for histograms (R146). -/
def Feed.placedVals (f : Feed) (eref shift : Int) (m n kk : Nat) : List ℚ :=
  (List.range m).flatMap fun i => (List.range n).flatMap fun j => (List.range kk).filterMap fun k =>
    if f.row i then (f.product eref shift i j k).map (fun p => tileVal eref p.val) else none

/-- Add a pass's sums to the accumulators of the valid cells (R80, R90). -/
def Feed.sum (f : Feed) (eref shift : Int) (m n kk : Nat) (acc : List (Nat × Int)) : List (Nat × Int) × Counts :=
  (List.range m).foldl (fun r i =>
    if f.row i then
      (List.range n).foldl (fun r j =>
        let (x, c) := f.cell eref shift i j kk
        (supd 0 r.1 (128 * i + j) (· + x), r.2.add c)) r
    else r) (acc, {})

/-- The scale exponent that a scale code stands for. -/
def scaleOf (mx : Bool) (code : Nat) : Option Int := if mx then scaleExp code else some 0

/-- The feeder address space of a cluster: the module address of its feeder byte 0. -/
def State.feederBase (s : State) (cl : Nat) : Nat := localToModule (s.physDie (clDie cl)) cl 0

/-- The DMA table entry `n` of the loaded plan (R50). -/
def State.desc (s : State) (n : Nat) : Option Bytes := match s.job.plan with | some p => p.dma[n]? | none => none
/-- The type of a descriptor (R172). -/
def ddType (d : Bytes) : Nat := fieldAt d 0 2

/-- The B side of a pass: lane `j`, element `k` of the panel at B_ADDR (R161). -/
def State.feedB (s : State) (cl w : Nat) (lane : Bool) (j k : Nat) : Nat :=
  panelElem s.mem (s.feederBase cl + iBAddr w * 64) lane (iKMax w) (fmtWidth (iFmtB w)) j k
def State.scaleB (s : State) (cl w : Nat) (lane : Bool) (j k : Nat) : Option Int :=
  scaleOf (iMx w) (panelScale s.mem (s.feederBase cl + iBAddr w * 64) lane (iBAlt w) (iKMax w) (fmtWidth (iFmtB w)) j (k / 32))

/-- A matrix pass (R160, R161). -/
def State.matrixFeed (s : State) (cl w : Nat) : Feed :=
  let base := s.feederBase cl + iAAddr w * 64
  { fa := iFmtA w, fb := iFmtB w,
    a := fun i k => panelElem s.mem base (iALane w) (iKMax w) (fmtWidth (iFmtA w)) i k,
    b := s.feedB cl w (iBLane w),
    sa := fun i k => scaleOf (iMx w) (panelScale s.mem base (iALane w) (iAAlt w) (iKMax w) (fmtWidth (iFmtA w)) i (k / 32)),
    sb := s.scaleB cl w (iBLane w), extra := fun _ _ => 0, row := fun _ => true }

/-- The source of lane `i`, K element `k` of a conv pass, and its channel (R188 to R190). -/
def convSource (d : Bytes) (i k : Nat) : ConvAt × Nat :=
  let cin := fieldAt d 0x1E 2
  let (ky, kx) := convTap d (k / cin)
  let (u, v) := convIn d (convOut d (fieldAt d 0x38 4 + i)) ky kx
  (convAt d u v, fieldAt d 0x1C 2 + k % cin)

/-- The scale code at a stored position (R192). -/
def State.windowScale (s : State) (cl : Nat) (d : Bytes) (addr pos : Nat) (r c : Int) (ch : Nat) : Nat :=
  (readByte s.mem (s.feederBase cl + addr * 64 + (r.toNat * fieldAt d 0xA 2 + c.toNat) * pos + ch / 32)).toNat

/-- A conv pass (R186 to R193). -/
def State.convFeed (s : State) (cl w : Nat) (d : Bytes) : Feed :=
  let fb := s.feederBase cl
  let lane := bitsOf (fieldAt d 2 2) 2 2 == 1
  { fa := iFmtA w, fb := iFmtB w,
    a := fun i k =>
      match convSource d i k with
      | (.zero, _) => 0
      | (.const, _) => fieldAt d 0x16 2 % 2 ^ fmtWidth (iFmtA w)
      | (.stored r c, ch) => memElem s.mem (fb + windowAddr d r c) (fmtWidth (iFmtA w)) ch,
    b := s.feedB cl w lane,
    sa := fun i k =>
      match convSource d i k with
      | (.stored r c, ch) => scaleOf (iMx w) (s.windowScale cl d (fieldAt d 0x3C 2 % 2 ^ 15) (fieldAt d 0x3E 2) r c ch)
      | _ => some 0,
    sb := s.scaleB cl w lane, extra := fun _ _ => 0,
    row := fun i => convInMap d (convOut d (fieldAt d 0x38 4 + i)) }

/-- Box `n` of a crop's box list (R197). -/
def State.cropBox (s : State) (cl : Nat) (d : Bytes) (n : Nat) : List Int :=
  let a := s.feederBase cl + fieldAt d 0x20 4 * 64 + 16 * n
  (List.range 4).map fun i => signed 32 (leNat (readBytes s.mem (a + 4 * i) 4))

/-- The neighbour of lane `i` for K element `k` of a crop: the position read, its copy's exponent (none: the copy has no
bit), its channel (R198 to R200). -/
def State.cropSource (s : State) (cl : Nat) (d : Bytes) (i k : Nat) : Option (Int × Int) × Option Nat × Nat :=
  let cin := fieldAt d 0x1E 2
  let (nb, wt) := cropNeighbour (cropPoint d (s.cropBox cl d (fieldAt d 0x24 2 + i))) (k / (2 * cin))
  ((cropResolve d nb).1, (setBits wt)[(k / cin) % 2]?, fieldAt d 0x1C 2 + k % cin)

/-- A crop pass (R196 to R200). -/
def State.cropFeed (s : State) (cl w : Nat) (d : Bytes) : Feed :=
  let fb := s.feederBase cl
  let lane := bitsOf (fieldAt d 2 2) 1 1 == 1
  { fa := iFmtA w, fb := iFmtB w,
    a := fun i k =>
      match s.cropSource cl d i k with
      | (some (r, c), some _, ch) => memElem s.mem (fb + windowAddr d r c) (fmtWidth (iFmtA w)) ch
      | _ => 0,
    b := s.feedB cl w lane,
    sa := fun i k =>
      match s.cropSource cl d i k with
      | (some (r, c), some _, ch) => scaleOf (iMx w) (s.windowScale cl d (fieldAt d 0x2C 2 % 2 ^ 15) (fieldAt d 0x2E 2) r c ch)
      | _ => some 0,
    sb := s.scaleB cl w lane,
    extra := fun i k => match (s.cropSource cl d i k).2.1 with | some e => (e : Int) - 4 | none => 0,
    row := fun _ => true }

/-- The neighbours of a crop pass inside the map but outside the stored window (R200). -/
def State.cropClamps (s : State) (cl m : Nat) (d : Bytes) : Nat :=
  ((List.range m).flatMap fun i => (List.range 4).filter fun q =>
    (cropResolve d (cropNeighbour (cropPoint d (s.cropBox cl d (fieldAt d 0x24 2 + i))) q).1).2).length

/-- The bytes of one plane of an element-wise operand (R163). -/
def elemPlane (mx : Bool) (w : Nat) : Nat := 128 * stepStride w + if mx then 512 else 0

/-- An element-wise pass: cell (i, j) takes plane `l` as its K element (R92, R163). The B element depends on the row, so
the sum of row `i` uses its own feed. -/
def State.elemFeed (s : State) (cl w i : Nat) : Feed :=
  let at' (addr fmt : Nat) (l j : Nat) :=
    memElem s.mem (s.feederBase cl + addr * 64 + l * elemPlane (iMx w) (fmtWidth fmt) + i * stepStride (fmtWidth fmt)) (fmtWidth fmt) j
  let sc (addr fmt : Nat) (l j : Nat) :=
    scaleOf (iMx w) (readByte s.mem (s.feederBase cl + addr * 64 + l * elemPlane (iMx w) (fmtWidth fmt)
      + 128 * stepStride (fmtWidth fmt) + (j / 32) * 128 + i)).toNat
  { fa := iFmtA w, fb := iFmtB w,
    -- lane j of row i stands in both operands: index the row by j
    a := fun j l => at' (iAAddr w) (iFmtA w) l j, b := fun j l => at' (iBAddr w) (iFmtB w) l j,
    sa := fun j l => sc (iAAddr w) (iFmtA w) l j, sb := fun j l => sc (iBAddr w) (iFmtB w) l j,
    extra := fun _ _ => 0, row := fun _ => true }

/-- The sums of an element-wise pass: cell (i, j) adds A_l[i,j] × B_l[i,j] over the planes (R92). -/
def State.elemSum (s : State) (cl w m ll : Nat) (acc : List (Nat × Int)) : List (Nat × Int) × Counts :=
  (List.range m).foldl (fun r i =>
    let f := s.elemFeed cl w i
    (List.range 128).foldl (fun r j =>
      let (x, c) := f.cell (iEref w) (iShift w) j j ll
      (supd 0 r.1 (128 * i + j) (· + x), r.2.add c)) r) (acc, {})

/-- The values of the non-zero placed products of an element-wise pass, for histograms (R146). -/
def State.elemVals (s : State) (cl w m ll : Nat) : List ℚ :=
  (List.range m).flatMap fun i => (List.range 128).flatMap fun j => (List.range ll).filterMap fun l =>
    ((s.elemFeed cl w i).product (iEref w) (iShift w) j j l).map (fun p => tileVal (iEref w) p.val)

/-- The feed of a pass that is not element-wise. -/
def State.feedOf (s : State) (cl : Nat) (op : PassOp) : Feed :=
  match op.kind with
  | .conv => s.convFeed cl op.word ((s.desc (iGeom op.word)).getD [])
  | .crop => s.cropFeed cl op.word ((s.desc (iGeom op.word)).getD [])
  | _ => s.matrixFeed cl op.word

/-- The tile after the pass's sums, and the pass's counts (R80, R87, R92). -/
def State.passTile (s : State) (cl : Nat) (op : PassOp) : Tile × Counts :=
  let t := (s.cl cl).tile op.tile
  let w := op.word
  let start := if iFresh w then [] else t.acc
  let (acc, cts) := if op.kind = .elemwise then s.elemSum cl w op.m op.k start
    else (s.feedOf cl op).sum (iEref w) (iShift w) op.m op.nn op.k start
  ({ base := .live, acc := acc, eref := iEref w, runK := if iFresh w then op.k else t.runK + op.k }, cts)

/-- K-step cycles of a pass (R83, R92, R110). -/
def PassOp.cycles (op : PassOp) : Nat :=
  let p := packP (iFmtA op.word)
  match op.kind with
  | .kat => 128
  | .elemwise => op.m * ((op.k + p - 1) / p)
  | _ => (op.k + p - 1) / p

/-- A pass at the head of the array is held: an earlier operation of the drain path names its tile (R98). -/
def Cluster.held (c : Cluster) (op : PassOp) : Bool :=
  c.drainQ.any (fun d => d.n < op.n ∧ d.tile = op.tile ∧ d.kind ≠ .drainSlot)

/-- The pattern of the known-answer pass with issue number `n`: the patterns take turns (R111). -/
def Cluster.katPattern (c : Cluster) (n : Nat) : Nat :=
  (c.katNext + (c.drainQ.filter fun d => d.kind = .katCheck ∧ d.n < n).length) % 8
/-- The check that holds tile `t` after its known-answer pass has left the array (R89, R110). -/
def Cluster.katOn (c : Cluster) (t : Nat) : Option DrainOp :=
  c.drainQ.find? fun d => d.kind = .katCheck ∧ d.tile = t ∧ !c.arrayQ.any fun o => o.n = d.n

/-- Counters of R121. -/
def kPasses : Nat := objKey 0x3001 0
def kKSteps : Nat := objKey 0x3002 0
def kStalls : Nat := objKey 0x3003 0
def kKats : Nat := objKey 0x3004 0
def kPrefence : Nat := objKey 0x3005 0

/-- A pass's effect on its tile and on the statistics (R80, R144, R146). -/
def State.passEffect (s : State) (cl : Nat) (op : PassOp) : State :=
  let w := op.word
  let (t, cts) := s.passTile cl op
  let s1 := (s.modCl cl (fun c => c.setTile op.tile t)).bump kKSteps op.cycles
  let s1 := s1.addCounts (s.seqSrc cl) op.step (iWatch w) (iFmtA w) cts
  if s.histOn (iWatch w) then
    s1.addHist op.step (iWatch w) (iFmtA w)
      (if op.kind = .elemwise then s.elemVals cl w op.m op.k
       else (s.feedOf cl op).placedVals (iEref w) (iShift w) op.m op.nn op.k)
  else s1

/-! ### Drain rows (R140 to R142, R166, R168) -/

/-- The value of element (i, j) of the tile or slot a drain reads, and its reference exponent. -/
def Cluster.drainInt (c : Cluster) (d : DrainOp) (i j : Nat) : Int :=
  if d.kind = .drainSlot then sget 0 (c.slot d.tile).elems (128 * i + j) else sget 0 (c.tile d.tile).acc (128 * i + j)
def Cluster.drainEref (c : Cluster) (d : DrainOp) : Int :=
  if d.kind = .drainSlot then (c.slot d.tile).eref else (c.tile d.tile).eref
/-- The shifted exact value of element (i, j); the shift does not apply to the EXACT form (R140). -/
def Cluster.drainVal (c : Cluster) (d : DrainOp) (i j : Nat) : ℚ :=
  tileVal (c.drainEref d) (c.drainInt d i j) * pow2 (if dFmt d.word = fEXACT then 0 else dShift d.word)

/-- Element (i, j) is written: the mask keeps it (R168). -/
def DrainOp.kept (d : DrainOp) (i j : Nat) : Bool :=
  decide (i < d.m ∧ j < d.nn ∧ (d.rowBits / 2 ^ i) % 2 = 1 ∧ (d.colBits / 2 ^ j) % 2 = 1)

/-- The scale exponent of row i, block b of an MX drain, over every valid column (R142). -/
def Cluster.drainScale (c : Cluster) (d : DrainOp) (i b : Nat) : Int :=
  mxScale (dFmt d.word) (maxAbs (((List.range 32).filter (fun q => 32 * b + q < d.nn)).map (fun q => c.drainVal d i (32 * b + q))))

/-- The rounded element (i, j) of a drain (R140 to R142). -/
def Cluster.drainElem (c : Cluster) (d : DrainOp) (i j : Nat) : Rounded :=
  let v := c.drainVal d i j
  roundTo (dFmt d.word) false (if iMx d.word then v * pow2 (-(c.drainScale d i (j / 32))) else v)

/-- The counts of row `i` of a drain: only written elements count (R144, R168). An exact row of a slot can clamp (R133). -/
def Cluster.drainCounts (c : Cluster) (d : DrainOp) (i : Nat) : Counts :=
  ((List.range d.nn).filter (fun j => d.kept i j)).foldl (fun a j =>
    a.add (if dFmt d.word = fEXACT then { elements := 1, saturated := if (exactTransfer (c.drainInt d i j)).2 then 1 else 0 }
           else (c.drainElem d i j).counts)) {}

/-- The local address of the scale plane of an MX drain (R166). -/
def drainPlane (w : Nat) : Nat := up64 (dAddr w + 128 * dPitch w)

/-- Row `i` of a drain to local memory: its kept elements, and the scale bytes of its blocks with a kept element. -/
def State.drainLocal (s : State) (cl : Nat) (d : DrainOp) (i : Nat) : State :=
  let c := s.cl cl
  let w := fmtWidth (dFmt d.word)
  let a := dAddr d.word + i * dPitch d.word
  let die := s.physDie (clDie cl)
  let old := readBytes s.mem (localToModule die cl a) (packedBytes w d.nn)
  let row := ((List.range d.nn).filter (fun j => d.kept i j)).foldl (fun bs j => putElem w bs j (c.drainElem d i j).code) old
  let s := if (List.range d.nn).any (fun j => d.kept i j) then s.localWrite cl a d.step row else s
  if iMx d.word then
    (List.range ((d.nn + 31) / 32)).foldl (fun s b =>
      if (List.range 32).any (fun q => d.kept i (32 * b + q)) then
        s.localWrite cl (drainPlane d.word + b * 128 + i) d.step (u8 (c.drainScale d i b + 127).toNat)
      else s) s
  else s

/-- Row `i` of a drain to the drain input: 128 lanes of FP32, +0 where masked or beyond N_valid (R166). -/
def Cluster.drainVector (c : Cluster) (d : DrainOp) (i : Nat) : List Nat :=
  (List.range 128).map fun j => if d.kept i j then (c.drainElem d i j).code else 0

/-- Maximal runs of kept columns of a row: (first column, length). -/
def keptRuns (d : DrainOp) (i : Nat) : List (Nat × Nat) :=
  (List.range d.nn).foldl (fun (rs : List (Nat × Nat)) j =>
    if d.kept i j then
      match rs.getLast? with
      | some (a, n) => if a + n = j then rs.dropLast ++ [(a, n + 1)] else rs ++ [(j, 1)]
      | none => [(j, 1)]
    else rs) []

/-- The body of a gradient row: prefix and elements (R382, R133). -/
def Cluster.gradBody (c : Cluster) (d : DrainOp) (update first i j0 n : Nat) : Bytes :=
  u32 update ++ u8 (dFmt d.word) ++ u8 0 ++ u16 (unsigned 16 (if dFmt d.word = fEXACT then c.drainEref d else 0)) ++ u64 first ++
  ((List.range n).flatMap fun q =>
    if dFmt d.word = fEXACT then leBytes 16 (unsigned 128 (exactTransfer (c.drainInt d i (j0 + q))).1)
    else u32 (c.drainElem d i (j0 + q)).code)

/-- Row `i` of a gradient drain: each run of kept elements goes to the owner named by the route, over the spine to a
base die of this module or as a message to a remote owner (R166, R168, R173). -/
def State.drainGradient (s : State) (cl : Nat) (d : DrainOp) (i : Nat) : State :=
  let c := s.cl cl
  let r := (s.desc (dPitch d.word)).getD []
  let owner := fieldAt r 4 2
  (keptRuns d i).foldl (fun s run =>
    let body := c.gradBody d (fieldAt r 8 4) (dAddr d.word + i * fieldAt r 0x10 8 + run.1) i run.1 run.2
    let m := s.newMsg (s.seqSrc cl) 2 owner d.step body
    if owner = s.self then { s with upd := { s.upd with rows := s.upd.rows ++ [m] } }
    else
      match routePort s.net.graph s.self s.self owner with
      | none => s
      | some port => s.putMsg port none m) s

/-- A row of a drain is accepted by its destination; none while the drain input is full (R96, R215). -/
def State.drainRow (s : State) (cl : Nat) (d : DrainOp) (i : Nat) : Option State :=
  let c := s.cl cl
  let count (t : State) : State :=
    (t.addCounts (s.seqSrc cl) d.step (iWatch d.word) (dFmt d.word) (c.drainCounts d i)).addHist d.step (iWatch d.word) (dFmt d.word)
      (((List.range d.nn).filter (fun j => d.kept i j)).map (fun j => c.drainVal d i j))
  match dKind d.word with
  | 0 => some (count (s.drainLocal cl d i))
  | 1 => if c.drainIn.length < 256 then
      some (count (s.modCl cl (fun c => { c with drainIn := c.drainIn ++ [c.drainVector d i] }))) else none
  | _ => some (count (s.drainGradient cl d i))

/-! ### Spills and restores (R100 to R102, R105) -/

/-- Spill in store mode: the slot takes the tile's image and the tile is reserved. -/
def Cluster.spillStore (c : Cluster) (t : Nat) (byPause : Bool) : Cluster :=
  let x := c.tile t
  (c.setSlot t { state := .stored, byPause := byPause, totalK := x.runK, addCount := 0, eref := x.eref, runK := x.runK,
                 elems := x.acc }).setTile t { base := .reserved, acc := [], eref := x.eref, runK := 0 }

/-- Add two sparse images. -/
def addImages (a b : List (Nat × Int)) : List (Nat × Int) := b.foldl (fun m e => supd 0 m e.1 (· + e.2)) a

/-- Spill in add mode: the tile is added exactly into the slot and idles. -/
def Cluster.spillAdd (c : Cluster) (t : Nat) : Cluster :=
  let x := c.tile t
  let y := c.slot t
  (c.setSlot t { state := .accumulated, byPause := false, totalK := y.totalK + x.runK, addCount := min (y.addCount + 1) 0xFFFF,
                 eref := x.eref, runK := 0, elems := addImages y.elems x.acc }).setTile t
    { base := .idle, acc := [], eref := x.eref, runK := 0 }

/-- Restore: the tile takes the slot's image and the slot empties. -/
def Cluster.restore (c : Cluster) (t : Nat) : Cluster :=
  let y := c.slot t
  (c.setTile t { base := .live, acc := y.elems, eref := y.eref, runK := y.runK }).setSlot t {}

/-- The spill of a pause (R105): store mode into an empty slot, exact addition into an accumulated one, which keeps the
run's count with the tile. DESIGN CHOICE (log 107): the tile added into an accumulated slot shows `LIVE` with value zero during the
pause; the spec gives its state no name. -/
def Cluster.pauseSpill (c : Cluster) (t : Nat) : Cluster :=
  let x := c.tile t
  let y := c.slot t
  match x.base with
  | .live =>
    if y.state = .empty then c.spillStore t true
    else (c.setSlot t { y with byPause := true, elems := addImages y.elems x.acc }).setTile t { x with acc := [] }
  | _ => c

/-- The restore of a resume (R106). -/
def Cluster.resumeRestore (c : Cluster) (t : Nat) : Cluster :=
  let y := c.slot t
  if y.byPause then
    if y.state = .stored then c.restore t
    else (c.setSlot t { y with byPause := false }).setTile t { c.tile t with base := .live, acc := [] }
  else c

end Sys2Proof.Machine
end

