-- ==== Sys2Proof/Machine/Issue.lean ====
section
/-! DEFINITION. The sequencer: fetching the next instruction, the signature, issue and retirement, refusals at issue,
and the straggle of a module (03, 06, 17). -/

namespace Sys2Proof.Machine

/-- The stream of a cluster (R52). -/
def State.stream (s : State) (cl : Nat) : Option Stream :=
  match s.job.plan with | some p => p.streams.find? (fun st => st.cluster = cl) | none => none

/-- The phase whose work stream index `idx` is (R52): the last entry at or before it. -/
def Stream.phaseOf (st : Stream) (idx : Nat) : Nat :=
  (((List.range 6).filter (fun p => st.entries.getD p 0 ≤ idx)).getLast?).getD 0

/-- The first index after the work of phase `p` (R52). -/
def Stream.nextEntry (st : Stream) (p : Nat) : Nat := if p < 5 then st.entries.getD (p + 1) 0 else st.words.length

/-- The step whose stream pass a cluster runs. -/
def State.clStep (s : State) (cl : Nat) : Nat := s.job.startStep + (s.cl cl).step

/-- The record of a step. -/
def State.stepRec (s : State) (k : Nat) : StepRec := sget {} s.job.steps k
/-- Change the record of a step. -/
def State.modStep (s : State) (k : Nat) (f : StepRec → StepRec) : State :=
  { s with job := { s.job with steps := supd {} s.job.steps k f } }
/-- The window of phase `p` of step `k` has opened (R68). -/
def State.windowOpen (s : State) (k p : Nat) : Bool := decide (((s.stepRec k).opened / 2 ^ p) % 2 = 1)

/-- An instruction ready to issue: its word, stream, stream index and step. -/
structure Fetched where
  word : Nat
  st : Stream
  idx : Nat
  step : Nat

/-- The ARITH instance of a stand is stopped for a switch of its source (R489). -/
def State.arithStopped (s : State) (stand : Nat) : Bool := (sget {} s.power.inst stand).switching.isSome
/-- The clock of a cluster runs: every gate above it is open (R497), and its stand's ARITH instance is not stopped: nothing
issues and nothing retires while it is (R489). -/
def State.clocked (s : State) (cl : Nat) : Bool :=
  let g := sget {} s.power.gates (s.physDie (clDie cl))
  !g.die && !s.arithStopped (clDie cl / 6) && decide ((g.regions / 2 ^ clRegion cl) % 2 = 0 ∧ (g.clusters / 2 ^ (cl % 12)) % 2 = 0)

/-- The bound registers that an instruction names: its extent selectors, and what `BOUND_LOAD` reads and writes. -/
def boundsNamed (w : Nat) : List Nat :=
  let sel (xs : List Nat) := (xs.filter fun x => 16 ≤ x).map fun x => x % 16
  match iClass w with
  | 1 | 2 | 3 => sel [iMSel w, iNSel w, iKSel w]
  | 5 => sel [dMSel w, dNSel w]
  | 8 => sel [vRowsSel w]
  | 9 => sel [tkLenSel w, tkRowsSel w]
  | 10 => sel [bitsOf w 98 94]
  | 14 => bitsOf w 120 117 :: if bitsOf w 122 121 = 2 then [bitsOf w 116 113] else []
  | _ => []
/-- The mask registers that an instruction names. -/
def masksNamed (w : Nat) : List Nat :=
  match iClass w with
  | 5 => if dMask w = 0 then [] else [dMask w - 1]
  | 15 => [bitsOf w 122 121]
  | _ => []
/-- The register that a load will write. -/
def RegLoad.reg (l : RegLoad) : Nat := if l.mask then bitsOf l.word 122 121 else bitsOf l.word 120 117
/-- An instruction waits at issue for a load of a register that it names (R153, R180); a second write of the register waits too
(DESIGN CHOICE, log 99). -/
def Cluster.regHeld (c : Cluster) (w : Nat) : Bool :=
  c.loads.any fun l => if l.mask then (masksNamed w).contains l.reg else (boundsNamed w).contains l.reg

/-- The next instruction of a cluster, where it may issue (R151, R68, R174, R176, R108, R180, R497). -/
def State.fetch (s : State) (cl : Nat) : Option Fetched :=
  match s.stream cl with
  | none => none
  | some st =>
    let c := s.cl cl
    match st.words[c.index]? with
    | none => none
    | some w =>
      if (s.job.state = .running ∨ s.job.state = .armed) ∧ s.job.frozenAt = none ∧ s.pauseReached = false ∧ c.wait = .none ∧ c.katHold = false ∧
          s.windowOpen (s.clStep cl) (st.phaseOf c.index) = true ∧ c.inflight < 1024 ∧ s.clocked cl = true ∧
          c.regHeld w = false
      then some ⟨w, st, c.index, s.clStep cl⟩ else none

/-- Counters of R184, R481. -/
def kIssued : Nat := objKey 0x3010 0
def kFull : Nat := objKey 0x3011 0
def kWait : Nat := objKey 0x3012 0
def kBoundExceeded : Nat := objKey 0x3013 0
def kSignatures : Nat := objKey 0x8010 0
def kDiscards : Nat := objKey 0x3032 0

/-- A cycle in which the sequencer holds the next instruction counts where it blocks in a wait or at 1,024 operations
in flight (R153, R181). -/
def State.holdCycle (s : State) (cl : Nat) : State :=
  let c := s.cl cl
  if !s.clocked cl then s
  else if c.wait ≠ .none then (s.modCl cl (fun c => { c with waitCycles := c.waitCycles + 1 })).bump kWait 1
  else if 1024 ≤ c.inflight then (s.modCl cl (fun c => { c with fullCycles := c.fullCycles + 1 })).bump kFull 1
  else s

/-! ### Signature (R469) -/

/-- Fold an instruction's 16 bytes into a signature. -/
def foldSig (sig : BitVec 32) (w : Nat) : BitVec 32 := crc32cFrom sig (leBytes 16 w)

/-- A stream index is a phase entry; it is a checkpoint. -/
def Stream.isEntry (st : Stream) (idx : Nat) : Bool := (List.range 6).any (fun p => st.entries.getD p 0 = idx)
def Stream.isCheckpoint (st : Stream) (idx w : Nat) : Bool :=
  iClass w == 4 || idx + 1 == st.words.length || (List.range 5).any (fun p => st.entries.getD (p + 1) 0 = idx + 1)

/-- Fold the instruction into the signature; at a checkpoint compare it with the expected value and reset it. -/
def State.sign (s : State) (cl : Nat) (f : Fetched) : State :=
  let start := if f.st.isEntry f.idx then 0xFFFFFFFF#32 else (s.cl cl).sig
  let sig := foldSig start f.word
  if f.st.isCheckpoint f.idx f.word then
    let s1 := (s.modCl cl (fun c => { c with sig := 0xFFFFFFFF#32 })).bump kSignatures 1
    if f.st.expected.lookup f.idx = some sig then s1 else s1.fault (s.seqSrc cl) 0x1202 (u16 f.idx)
  else s.modCl cl (fun c => { c with sig := sig })

/-! ### Retirement (R152, R175, R216) -/

/-- Every operation of a cluster that has not retired: its step and stream index. -/
def Cluster.unretired (c : Cluster) : List (Nat × Nat) :=
  c.arrayQ.map (fun o => (o.step, o.idx)) ++ c.drainQ.map (fun o => (o.step, o.idx)) ++ c.vecQ.map (fun o => (o.step, o.idx))
    ++ c.dmaQ.map (fun o => (o.step, o.idx)) ++ c.signals.map (fun o => (o.step, o.idx)) ++ c.loads.map (fun o => (o.step, o.idx))
    ++ c.limberOps.map (fun o => o.2)

/-- Every operation issued before a signal on the queues its `AFTER` names has retired (R175). -/
def Cluster.signalReady (c : Cluster) (g : PendSignal) : Bool :=
  let on (b : Nat) := decide ((g.after / 2 ^ b) % 2 = 1)
  let katOut := c.drainQ.any (fun o => o.kind = DrainKind.katCheck ∧ o.n < g.n)
  (!on 0 || !(c.arrayQ.any (fun o => o.n < g.n) || katOut)) && (!on 1 || !(c.drainQ.any (fun o => o.n < g.n))) &&
  (!on 2 || !(c.vecQ.any (fun o => o.n < g.n))) &&
  (!on 3 || !(c.dmaQ.any (fun o => o.n < g.n) || c.limberOps.any (fun o => o.1 < g.n)))

/-- Give every pending signal whose queues are clear. A zero increment changes no object (R157). -/
def State.giveSignals (s : State) (cl : Nat) : State :=
  let c := s.cl cl
  let ready := c.signals.filter (fun g => c.signalReady g)
  let s := s.modCl cl (fun c => { c with signals := c.signals.filter (fun g => !c.signalReady g) })
  ready.foldl (fun s g => if g.inc = 0 then s else s.signal (s.seqSrc cl) g.id g.inc g.step) s

/-! ### Straggle (R72, R108) -/

/-- The head pass of the array has K steps in the pipeline: it has K steps, and the scoreboard does not hold it (R89, R98). -/
def Cluster.inPipe (c : Cluster) : Option PassOp :=
  match c.arrayQ with
  | op :: _ => if !c.held op && decide (0 < op.cycles) then some op else none
  | [] => none

/-- A pass retires (R115, R121). -/
def State.passRetired (s : State) (cl : Nat) : State :=
  (s.modCl cl (fun c => { c with passCount := c.passCount + 1 })).bump kPasses 1

/-- The pass in the array of a cluster completes (R108); a known-answer pass retires with its check, which is not made. -/
def State.finishPass (s : State) (cl : Nat) : State :=
  match (s.cl cl).inPipe with
  | none => s
  | some op => if op.kind = PassKind.kat then s.bump kKSteps op.cycles else (s.passEffect cl op).passRetired cl

/-- The work before stream index `e` is abandoned, and the stream is taken up at `e` (R72); what was issued from later indices
stays. -/
def Cluster.abandonTo (c : Cluster) (e : Nat) : Cluster :=
  if c.index ≤ e then { c.abandon with index := e, sig := 0xFFFFFFFF#32, vuStopped := true }
  else
    { c.abandon with
      vuStopped := true, ahead := c.ahead, wait := c.wait,
      arrayQ := c.arrayQ.filter fun o => e ≤ o.idx, drainQ := c.drainQ.filter fun o => e ≤ o.idx,
      vecQ := c.vecQ.filter fun o => e ≤ o.idx, dmaQ := c.dmaQ.filter fun o => e ≤ o.idx,
      signals := c.signals.filter fun o => e ≤ o.idx, loads := c.loads.filter fun o => e ≤ o.idx,
      limberOps := c.limberOps.filter fun o => e ≤ o.2.2 }

/-- One known-answer pass on T0, pattern by rotation, before the next issue (R108; the tile is a DESIGN CHOICE, log 99). -/
def Cluster.katFirst (c : Cluster) (step : Nat) : Cluster :=
  { c with katHold := true, issueNo := c.issueNo + 1,
           arrayQ := c.arrayQ ++ [⟨c.issueNo, PassKind.kat, 0, 0, 128, 128, 128, step, c.index⟩],
           drainQ := c.drainQ ++ [{ n := c.issueNo, kind := DrainKind.katCheck, tile := 0, word := 0, m := 128, nn := 128, rowBits := 0,
                                    colBits := 0, step := step, idx := c.index }] }

/-- A cluster of a straggling module in step `k`: the pass in the array completes, its other work before the REDUCE entry is
abandoned with both tiles and slots, and it takes up the stream at the REDUCE entry after one known-answer pass. A cluster that
has ended its stream for the step, and has begun nothing of the next, loses its tiles too (DESIGN CHOICE, log 99). -/
def State.abandonCl (s : State) (k cl : Nat) : State :=
  match s.stream cl with
  | none => s
  | some st =>
    let ended := decide (s.clStep cl = k + 1 ∧ (s.cl cl).index = 0 ∧ (s.cl cl).inflight = 0 ∧ (s.cl cl).wait = .none)
    if s.clStep cl = k ∨ ended then
      let e := if s.clStep cl = k then st.entries.getD 3 0 else 0
      let s := s.finishPass cl
      let s := { s with sync := { s.sync with waits := s.sync.waits.filter fun x => x.cluster ≠ cl ∨ e < (s.cl cl).index } }
      (s.modCl cl fun c => (c.abandonTo e).katFirst (s.clStep cl)).event (s.seqSrc cl) 0x2204
    else s

/-- Once the stream's last instruction has retired, the rows left in the drain input are discarded and the next issue is
index 0 for the next step (R180, R216). In a step in which the module straggles already, the FORWARD and BACKWARD work is passed
over (R72). -/
def State.wrap (s : State) (cl : Nat) : State :=
  match s.stream cl with
  | none => s
  | some st =>
    let c := s.cl cl
    if 0 < st.words.length ∧ c.index = st.words.length ∧ c.inflight = 0 ∧ c.wait = .none then
      let n := c.drainIn.length
      let s1 := s.modCl cl (fun c => { c with index := 0, step := c.step + 1, drainIn := [], sig := 0xFFFFFFFF#32 })
      let s2 := if n = 0 then s1 else (s1.bump kDiscards n).event (s.seqSrc cl) 0x2600 (u32 n)
      if (s2.stepRec (s2.clStep cl)).straggles then s2.abandonCl (s2.clStep cl) cl else s2
    else s

/-- What follows every issue and every retirement. -/
def State.settle (s : State) (cl : Nat) : State := (s.giveSignals cl).wrap cl

/-- The clusters with a stream. -/
def State.streamed (s : State) : List Nat := match s.job.plan with | some p => p.streams.map (fun st => st.cluster) | none => []

/-- Every limber engine of a compute die stops before its next write and discards its queue (R206). -/
def State.stopLimbers (s : State) : State :=
  { s with limbers := (List.range 92).filterMap fun d =>
      let l := sget {} s.limbers d
      if s.start.dieMap.contains d then some (d, l.stop) else if l = {} then none else some (d, l) }

/-- Every gradient row sent to a remote owner has been acknowledged, and none waits for a port. -/
def State.rowsAcked (s : State) : Bool := s.skid.all fun e => e.2.unacked.isEmpty && !e.2.waiting.any fun q => q.own && q.msg.kind == 2

/-- Withdrawals are sent once every gradient row sent has been acknowledged (R384, R388). -/
def State.flushWithdrawals (s : State) : State :=
  if s.rowsAcked then
    s.upd.toWithdraw.foldl (fun s k => s.sendAll wardenSrc 4 k []) { s with upd := { s.upd with toWithdraw := [] } }
  else s

/-- A module is withdrawn from step `k` (R351). -/
def State.noteWithdrawn (s : State) (k m : Nat) : State :=
  { s with upd := { s.upd with withdrawn := supd 0 s.upd.withdrawn k (· ||| 2 ^ m) } }

/-- The module becomes a straggler for step `k`, once (R72): it withdraws its contribution. -/
def State.straggle (s : State) (k : Nat) : State :=
  if (s.stepRec k).straggles then s
  else
    let s := s.modStep k (fun r => { r with straggles := true })
    let s := (s.modStats k (fun st => { st with straggler := true })).event wardenSrc 0x2112
    let s := { s with job := { s.job with stragglers := s.job.stragglers + 1 },
                      upd := { s.upd with toWithdraw := s.upd.toWithdraw ++ [k] } }
    let s := ((s.noteWithdrawn k s.self).flushWithdrawals).laterReceipts k 4 0
    s.streamed.foldl (fun s cl => s.abandonCl k cl) s.stopLimbers.releaseStash

/-! ### Refusals at issue (R159, R178, R179) -/

/-- `INSTRUCTION_CHECK` with a reason. -/
def State.checkFail (s : State) (cl : Nat) (f : Fetched) (reason : Nat) : State :=
  (s.modCl cl (fun c => { c with lastReason := reason })).fault (s.seqSrc cl) 0x2402
    (u8 reason ++ u32 (iClass f.word) ++ u16 f.idx)

/-- `ARRAY_ISSUE` with a reason (R103); `GUARD_LIMIT` (R88). -/
def State.arrayFail (s : State) (cl reason : Nat) : State := s.fault (s.seqSrc cl) 0x2203 (u8 reason)
def State.guardFail (s : State) (cl : Nat) : State := s.fault (s.seqSrc cl) 0x2202

/-- An extent or derived bound of shape class `cls` above its maximum (R159). -/
def State.boundFail (s : State) (cl : Nat) (f : Fetched) (cls value mx : Nat) : State :=
  let detail := u8 cls ++ u16 f.idx ++ u32 value ++ u32 mx
  if f.st.phaseOf f.idx ≤ 2 then
    let s := (s.event (s.seqSrc cl) 0x2400 detail).bump kBoundExceeded 1
    let s := { s with job := { s.job with lastBound := [clDie cl, clRegion cl, cl % 4, cls, f.idx, value, mx] } }
    s.straggle f.step
  else s.fault (s.seqSrc cl) 0x2401 detail

/-- The first extent above its planned maximum: (selector, value, maximum). -/
def overMax (xs : List (Nat × Nat × Nat)) : Option (Nat × Nat × Nat) := xs.find? (fun x => x.2.2 < x.2.1)

/-- The lowest of the reasons that hold. -/
def firstReason (xs : List (Nat × Bool)) : Option Nat := (xs.find? (fun x => x.2)).map (fun x => x.1)

/-- Issue: the instruction is counted and the next index follows. -/
def State.step1 (s : State) (cl : Nat) : State :=
  (s.modCl cl (fun c => { c with index := c.index + 1, issued := c.issued + 1 })).bump kIssued 1

/-- The next instruction of a cluster is refused by the checks: nothing of it executes, and the index follows. -/
def State.skip1 (s : State) (cl : Nat) : State := s.modCl cl (fun c => { c with index := c.index + 1 })

/-- Take a place in the issue order. -/
def State.place (s : State) (cl : Nat) : Nat × State :=
  ((s.cl cl).issueNo, s.modCl cl (fun c => { c with issueNo := c.issueNo + 1 }))

/-- The verdict of the checks of R178 on an instruction. -/
inductive Verdict where
  | ok
  | field (reason : Nat)
  | bound (cls value mx : Nat)
  | guard
  | array (reason : Nat)
  deriving DecidableEq, Repr

/-- Issue the next instruction of a cluster, if it is one of those `sel` selects and may issue: it is signed, checked,
and executed by `act` or refused. -/
def State.issue (s : State) (cl : Nat) (sel : State → Nat → Bool) (check : State → Fetched → Verdict)
    (act : State → Fetched → State) : State :=
  match s.fetch cl with
  | none => s.holdCycle cl
  | some f =>
    if sel s f.word then
      let s1 := s.sign cl f
      if s1.job.state = .fault then s1
      else
        match check s1 f with
        | .ok => (act (s1.step1 cl) f).settle cl
        | .field r => (s1.skip1 cl).checkFail cl f r
        | .bound k v m => ((s1.skip1 cl).boundFail cl f k v m).settle cl
        | .guard => (s1.skip1 cl).guardFail cl
        | .array r => (s1.skip1 cl).arrayFail cl r
    else s

/-- Verdict from the field reasons and the extents. -/
def verdict1 (reasons : List (Nat × Bool)) (extents : List (Nat × Nat × Nat)) (rest : Verdict) : Verdict :=
  match firstReason reasons with
  | some r => .field r
  | none =>
    match overMax extents with
    | some (sel, v, m) => .bound (sel % 16) v m
    | none => rest

end Sys2Proof.Machine
end

