-- ==== Sys2Proof/Machine/Memory.lean ====
section
/-! DEFINITION. The module address map as transfers see it: what an address decodes to, the stash window, writes under
the page tracker, checked reads (09, 10, 11). -/

namespace Sys2Proof.Machine

/-! ### Ranges of memory -/

/-- Every byte of [a, a + n) reads as 0. -/
def clearRange (mem : List (Nat × Byte)) (a n : Nat) : List (Nat × Byte) := mem.filter fun e => e.1 < a || a + n ≤ e.1
/-- The written bytes of [a, a + n), as offsets. -/
def rangeCells (mem : List (Nat × Byte)) (a n : Nat) : List (Nat × Byte) :=
  (mem.filter fun e => decide (a ≤ e.1 ∧ e.1 < a + n)).map fun e => (e.1 - a, e.2)
/-- Give [a, a + n) the contents of a list of offsets and bytes. -/
def putCells (mem : List (Nat × Byte)) (a n : Nat) (cells : List (Nat × Byte)) : List (Nat × Byte) :=
  cells.foldl (fun m e => writeByte m (a + e.1) e.2) (clearRange mem a n)
/-- Copy `n` bytes from `src` to `dst`. -/
def copyRange (mem : List (Nat × Byte)) (src dst n : Nat) : List (Nat × Byte) := putCells mem dst n (rangeCells mem src n)

/-! ### The map (R235, R260, R274, R293) -/

/-- The first address after HBM; the bytes of a stack; the bytes of a page (R260, R277). -/
def hbmEnd : Nat := 0x018000000000
def stackBytes : Nat := 0xC00000000
def pageBytes : Nat := 0x200000
def pagesPerStack : Nat := 24576
/-- The stack of an HBM address. -/
def stackOf (a : Nat) : Nat := a / stackBytes
def cxlBase : Nat := 0x040000000000
def stashBase : Nat := 0x080000000000
def sramBase : Nat := 0x100000000000

/-- `CXL_WINDOW_BYTES` (R300). -/
def State.windowBytes (s : State) : Nat := (s.cxl.devices.map (fun d => d.window)).sum

/-- The device that serves a byte of the CXL window (R294). -/
def State.cxlDeviceAt (s : State) (a : Nat) : Option CxlDevice :=
  if s.cxl.interleaved then
    if a < cxlBase + s.windowBytes then s.cxl.devices.find? (fun d => d.port = ((a - cxlBase) / 4096) % 2) else none
  else s.cxl.devices.find? (fun d => d.base ≤ a ∧ a < d.base + d.window)

/-- The device address of a byte of the CXL window (R294). -/
def State.cxlAddress (s : State) (a : Nat) : Nat :=
  if s.cxl.interleaved then ((a - cxlBase) / 4096 / 2) * 4096 + (a - cxlBase) % 4096
  else match s.cxlDeviceAt a with | some d => a - d.base | none => 0
/-- The check line of the data line at device address `a` of a device, and the place of its CRC in it (R290, R291). -/
def CxlDevice.checkPlace (d : CxlDevice) (a : Nat) : Nat × Nat := (d.dataArea + 64 * (a / 64 / 16), 4 * (a / 64 % 16))
/-- Bytes of the check area of a device (R290). -/
def CxlDevice.checkBytes (d : CxlDevice) : Nat := 4 * (d.dataArea / 64)

/-- Bytes [a, a + n) lie within one memory that the module's map decodes, apart from the stash window. -/
def State.decodes (s : State) (a n : Nat) : Bool :=
  if a < hbmEnd then decide (a + n ≤ hbmEnd)
  else if cxlBase ≤ a ∧ a < stashBase then decide (a + n ≤ cxlBase + s.windowBytes)
  else if sramBase ≤ a ∧ a < sramBase + 52 * 2 ^ 32 then
    let die := (a - sramBase) / 2 ^ 32
    s.start.dieMap.contains die && decide (n ≤ apertureRoom ((a - sramBase) % 2 ^ 32))
  else false

/-- The stash window. -/
def inStash (a : Nat) : Bool := decide (stashBase ≤ a ∧ a < stashBase + 8 * 2 ^ 40)
def stashBranch (a : Nat) : Nat := (a - stashBase) / 2 ^ 40
def stashOffset (a : Nat) : Nat := (a - stashBase) % 2 ^ 40

/-- The stash of a branch (R54); a branch not declared has none. -/
def State.stashDecl (s : State) (b : Nat) : StashDecl :=
  match s.job.plan with
  | some p => (p.stash.find? (fun d => d.branch = b)).getD ⟨b, 0, 0, 0, 0, 0⟩
  | none => ⟨b, 0, 0, 0, 0, 0⟩
def StashDecl.limit (d : StashDecl) : Nat := d.hbmSize + d.cxlSize

/-- The addresses used for bytes [a, a + n), in order: a row that crosses from the HBM region into the reserve is split
(R274); none beyond the stash. -/
def State.pieces (s : State) (a n : Nat) : List (Nat × Nat) :=
  if inStash a then
    let d := s.stashDecl (stashBranch a)
    let o := stashOffset a
    let k := if o < d.hbmSize then min n (d.hbmSize - o) else 0
    let r := min (n - k) (d.limit - (o + k))
    (if k = 0 then [] else [(d.hbmBase + o, k)]) ++ (if r = 0 then [] else [(d.cxlBase + (o + k - d.hbmSize), r)])
  else [(a, n)]

/-- A byte address lies in a declared stash. -/
def State.stashByte (s : State) (a : Nat) : Bool :=
  match s.job.plan with
  | none => false
  | some p => p.stash.any fun d => decide (d.hbmBase ≤ a ∧ a < d.hbmBase + d.hbmSize) || decide (d.cxlBase ≤ a ∧ a < d.cxlBase + d.cxlSize)

/-- A byte of HBM or of the CXL window: stash that was released and not written since holds undefined bytes (R276). -/
def State.tierByte (s : State) (a : Nat) : Byte :=
  match s.stash.released with
  | some i => if s.stashByte a && !s.stash.live.any (fun r => decide (r.1 ≤ a ∧ a < r.1 + r.2)) then Config.freeByte i a else readByte s.mem a
  | none => readByte s.mem a

/-- `HBM_HALF_BURSTS_READ` of each base die (R283). -/
def kStackReads (m : Nat) : Nat := ctrlBase + (52 + m) * 2 ^ 24 + 0x10
/-- A read of `n` bytes of HBM from `a` counts its half-bursts. -/
def State.noteRead (s : State) (a n : Nat) : State :=
  if n = 0 ∨ hbmEnd ≤ a then s else s.bump (kStackReads (stackOf a)) ((a + n - 1) / 32 - a / 32 + 1)

/-! ### Requesters (R242) -/

/-- The requester ID of an access at aperture offset `o` of die `die`: a cluster reaches its own region and its own die's
memory as itself, everything else as that region's DMA engine or the die port. `who`: the cluster, or none for another
module. -/
def State.requester (s : State) (who : Option Nat) (die o : Nat) : Nat :=
  match who, apertureAt o with
  | some cl, .region r _ => if s.physDie (clDie cl) = die ∧ clRegion cl = r then cl % 12 else 0x10 + r
  | some cl, .dieSram _ => if s.physDie (clDie cl) = die then cl % 12 else 0x18
  | none, .region r _ => 0x10 + r
  | _, _ => 0x18

/-- Read `n` bytes of the map; what lies beyond a stash reads as zeros (R275). -/
def State.mapRead (s : State) (who : Option Nat) (a n step : Nat) : Bytes × State :=
  (fun r : Bytes × State => (padTo n r.1, r.2)) <| (s.pieces a n).foldl (fun (acc : Bytes × State) p =>
    let s := acc.2
    if sramBase ≤ p.1 then
      let die := (p.1 - sramBase) / 2 ^ 32
      let o := (p.1 - sramBase) % 2 ^ 32
      let (bs, s) := s.sramRead die o p.2 (s.requester who die o) step
      (acc.1 ++ bs, s)
    else (acc.1 ++ (List.range p.2).map (fun i => s.tierByte (p.1 + i)), s.noteRead p.1 p.2)) ([], s)

/-! ### Writes to HBM under the page tracker (R278) -/

/-- Counters of R286, and the register `COW_FIRST_TOUCH` of a base die (R283). -/
def kFirstTouches : Nat := objKey 0x4032 0
def kWriteWaits : Nat := objKey 0x4033 0
def kStackTouch (m : Nat) : Nat := regBase (52 + m) + 0x3C

/-- `COW_POOL_PAGES` (R286). -/
def State.poolPages (s : State) : Nat := s.active 0x4030 1 64

/-- A pool page in use by a capture. -/
def PageState.pool : PageState → Option Nat
  | .copying q => some q
  | .shadowed q => some q
  | _ => none

/-- The lowest free pool page of a stack: its highest `COW_POOL_PAGES` pages are the pool (R279). -/
def State.freePool (s : State) (m : Nat) : Option Nat :=
  let n := s.poolPages
  ((List.range n).map (fun i => pagesPerStack * (m + 1) - n + i)).find? fun q => !s.cow.pages.any (fun e => e.2.pool = some q)

/-- The state of a page in a capture; none: not marked, or `DONE`. -/
def State.pageState (s : State) (p : Nat) : Option PageState := s.cow.pages.lookup p
/-- Replace a page's state. -/
def State.setPage (s : State) (p : Nat) (x : PageState) : State :=
  { s with cow := { s.cow with pages := s.cow.pages.map fun e => if e.1 = p then (p, x) else e } }
/-- Hold a write. -/
def State.holdWrite (s : State) (a : Nat) (bs : Bytes) : State := { s with cow := { s.cow with held := s.cow.held ++ [(a, bs)] } }

/-- A write for which no pool page is free waits for its page's read-out (R278). -/
def State.waitPool (s : State) (p a : Nat) (bs : Bytes) : State :=
  let s1 := (s.holdWrite a bs).bump kWriteWaits 1
  let s1 := s1.setPage p .waiting
  if s.cow.poolEmptyRaised then s1
  else { s1 with cow := { s1.cow with poolEmptyRaised := true } }.event (dieSrc (52 + p / pagesPerStack)) 0x3122

/-- A write within one page of HBM. -/
def State.pageWrite (s : State) (a : Nat) (bs : Bytes) : State :=
  let p := a / pageBytes
  match s.pageState p with
  | none | some (.shadowed _) => { s with mem := writeBytes s.mem a bs }
  | some .waiting => (s.holdWrite a bs).bump kWriteWaits 1
  | some (.copying _) => s.holdWrite a bs
  | some .pending =>
    match s.freePool (p / pagesPerStack) with
    | some q =>
      (((s.holdWrite a bs).setPage p (.copying q)).bump kFirstTouches 1).bump (kStackTouch (p / pagesPerStack)) 1
    | none => s.waitPool p a bs

/-- A write to HBM, page by page. -/
def State.hbmWrite (s : State) : Nat → Nat → Bytes → State
  | 0, _, _ => s
  | fuel + 1, a, bs =>
    match bs with
    | [] => s
    | _ =>
      let k := min bs.length (pageBytes - a % pageBytes)
      (s.pageWrite a (bs.take k)).hbmWrite fuel (a + k) (bs.drop k)

/-- The half-bursts that a write of `n` bytes at `a` covers in part (R263). -/
def partBursts (a n : Nat) : Nat :=
  if n = 0 then 0 else
    let head := if a % 32 = 0 then 0 else 1
    let tail := if (a + n) % 32 = 0 then 0 else 1
    if a / 32 = (a + n - 1) / 32 then max head tail else head + tail
/-- Write bytes to HBM. A half-burst that is covered in part is read first (R263). -/
def State.toHbm (s : State) (a : Nat) (bs : Bytes) : State :=
  let s := if partBursts a bs.length = 0 then s else s.bump (kStackReads (stackOf a)) (partBursts a bs.length)
  s.hbmWrite (bs.length / pageBytes + 2) a bs

/-- Write bytes into the map. A write to stash memory makes its bytes defined again. -/
def State.mapWrite (s : State) (who : Option Nat) (a step : Nat) (bs : Bytes) : State :=
  ((s.pieces a bs.length).foldl (fun (acc : Nat × State) p =>
    let (o, s) := acc
    let part := slice bs o p.2
    let s :=
      if sramBase ≤ p.1 then
        let die := (p.1 - sramBase) / 2 ^ 32
        let off := (p.1 - sramBase) % 2 ^ 32
        s.sramWrite die off (s.requester who die off) step part
      else
        let s := if s.stash.released.isSome && s.stashByte p.1 then { s with stash := { s.stash with live := s.stash.live ++ [p] } } else s
        if p.1 < hbmEnd then s.toHbm p.1 part else { s with mem := writeBytes s.mem p.1 part }
    (o + p.2, s)) (0, s)).2

/-! ### Checked reads (R240, R262, R292) -/

/-- Counters of R256, R283, R286, R300. -/
def kSramRereads : Nat := objKey 0x4010 0
def kHbmRereads : Nat := objKey 0x4020 0
def kDramEcc : Nat := objKey 0x4021 0
def kCxlRereads : Nat := objKey 0x4054 0
def kCxlPoison : Nat := objKey 0x4055 0
def kStackRereads (m : Nat) : Nat := regBase (52 + m) + 8
def kStackEcc (m : Nat) : Nat := regBase (52 + m) + 0x18

/-- A base die. -/
def State.baseDie (s : State) (m : Nat) : BaseDie := sget {} s.base m
def State.modBase (s : State) (m : Nat) (f : BaseDie → BaseDie) : State := { s with base := supd {} s.base m f }

/-- The step whose first happenings are counted outside the clusters. -/
def State.stepKey (s : State) : Nat := s.job.stepNow

/-! #### What a read delivered (R239, R261, R291) -/

/-- The channel and pseudo-channel of an HBM address (R260). -/
def hbmChannel (a : Nat) : Nat := let o := a % stackBytes; bitsOf o 11 8 ^^^ bitsOf o 15 12
def hbmPc (a : Nat) : Nat := bitsOf (a % stackBytes) 5 5
/-- The CRC that the metadata pins carried: bit 4t + q on pin q in beat t (R261). -/
def pinCrc (beats : List Nat) : Nat := beats.foldr (fun x acc => x % 16 + 16 * acc) 0
/-- A line of SRAM, a half-burst and a line of the second tier pass their checks. -/
def lineOk (code line : Nat) (r : LineRead) : Bool := decide (r.crc = (lineCrc r.data code line).toNat)
def burstOk (a : Nat) (r : BurstRead) : Bool := !r.uncorrectable && decide (pinCrc r.beats = (halfBurstCrc r.data a).toNat)
def tierCrcOk (a : Nat) (r : TierRead) : Bool := decide (r.crc = (halfBurstCrc r.data a).toNat)
def tierOk (a : Nat) (r : TierRead) : Bool := !r.poisoned && tierCrcOk a r
/-- The number of re-reads after which a read could be used, of at most `n`; none: all of them failed. -/
def rereadsUsed {α : Type} (n : Nat) (ok : α → Bool) (reads : List α) : Option Nat := (reads.take (n + 1)).findIdx? ok

/-- A line of SRAM is read: a second read that matches is counted, one that does not is a fault, which for other dies than
compute dies carries the code and the line (R240, R466). -/
def State.checkedLine (s : State) (die code line : Nat) (reads : List LineRead) : Bool × State :=
  match rereadsUsed 1 (lineOk code line) reads with
  | some 0 => (true, s)
  | some _ => (true, (s.bump kSramRereads 1).stress 16)
  | none =>
    (false, if 0x30 ≤ code then s.fault (dieSrc die) 0x1100 (u32 code ++ u32 line)
      else s.fault (dieSrc die) 0x1100 (u32 code ++ u32 (code * 2 ^ 24 + line) ++ u32 die))

/-- A half-burst is read, and read again up to 3 times where its check fails (R262). -/
def State.checkedBurst (s : State) (a : Nat) (reads : List BurstRead) : Bool × State :=
  let m := stackOf a
  let failed (s : State) (n : Nat) : State :=
    (s.modBase m fun b => { b with lastChannel := hbmChannel a, lastPc := hbmPc a, crcMismatch := true }).bump (kStackReads m) n
  match rereadsUsed 3 (burstOk a) reads with
  | some 0 => (true, s)
  | some n => (true, (((failed s n).bump kHbmRereads n).bump (kStackRereads m) n).stress 16)
  | none => (false, (failed s 3).fault (dieSrc (52 + m)) 0x1101 (u32 m ++ u32 (hbmChannel a) ++ u32 (hbmPc a) ++ u32 a))

/-- A line of the second tier is read, and read again up to 3 times where its check fails or it is poisoned (R292, R299). -/
def State.checkedTier (s : State) (port device a : Nat) (reads : List TierRead) : Bool × State :=
  let made := reads.take ((rereadsUsed 3 (tierOk a) reads).getD 3 + 1)
  let poisoned := (made.filter fun r => r.poisoned).length
  let s := if made.all (tierCrcOk a) then s else { s with cxl := { s.cxl with crcMismatch := sset false s.cxl.crcMismatch port true } }
  let s := if poisoned = 0 then s else { s with cxl := { s.cxl with poison := sset false s.cxl.poison port true } }.bump kCxlPoison poisoned
  match rereadsUsed 3 (tierOk a) reads with
  | some 0 => (true, s)
  | some n => (true, (s.bump kCxlRereads n).stress 16)
  | none => (false, s.fault (dieSrc (97 + port)) 0x1102 (u16 port ++ u32 device ++ u32 a))

/-- What nature reports of one read. The answer says whether the data may be used. -/
def State.checkedOne (s : State) (c : MemCheck) : Bool × State :=
  match c with
  | .sram die code line reads => s.checkedLine die code line reads
  | .hbm a reads => s.checkedBurst a reads
  | .cxl port device a reads => s.checkedTier port device a reads
  | .ecc m n =>
    let s := ((s.modBase m fun b => { b with eccReport := true }).bump kDramEcc n).bump (kStackEcc m) n
    (true, if n = 0 then s else s.eventOnce (0x300000 + m) s.stepKey (dieSrc (52 + m)) 0x3100 [])
  | .parity src => (false, s.fault src 0x1204 (u16 src))

/-- What nature reports of the reads of a command, in order, up to the first whose data may not be used. -/
def State.checked (s : State) : List MemCheck → Bool × State
  | [] => (true, s)
  | c :: cs => match s.checkedOne c with | (true, t) => t.checked cs | (false, t) => (false, t)

end Sys2Proof.Machine
end

