-- ==== Sys2Proof/Machine/Transc.lean ====
section
/-! DEFINITION. The exact values of the vector unit's functions (R217, R220, R222) as enclosures: for each precision a
lower and an upper bound. A rounding is decided at the first precision at which both bounds agree. -/

namespace Sys2Proof.Machine

/-- A real number given by rational bounds that close in as the precision grows. -/
abbrev Encl := Nat → ℚ × ℚ

/-- A rational number as an enclosure. -/
def Encl.exact (v : ℚ) : Encl := fun _ => (v, v)
/-- Sum of a real and a rational. -/
def Encl.addQ (e : Encl) (v : ℚ) : Encl := fun p => ((e p).1 + v, (e p).2 + v)
/-- Product of a real and a rational. -/
def Encl.mulQ (e : Encl) (v : ℚ) : Encl := fun p =>
  if 0 ≤ v then ((e p).1 * v, (e p).2 * v) else ((e p).2 * v, (e p).1 * v)
/-- The magnitude of a real. -/
def Encl.abs (e : Encl) : Encl := fun p =>
  let b := e p
  if 0 ≤ b.1 then b else if b.2 ≤ 0 then (-b.2, -b.1) else (0, max (-b.1) b.2)
/-- The larger of two reals. -/
def Encl.max (a b : Encl) : Encl := fun p => (Max.max (a p).1 (b p).1, Max.max (a p).2 (b p).2)

/-- The value of `f` at the real `e`: decided at the first of the precisions 64, 128, … at which both bounds agree. -/
def Encl.decide {v : Type} [DecidableEq v] (f : ℚ → v) (fallback : v) (e : Encl) : Nat → Nat → v
  | 0, _ => fallback
  | fuel + 1, p =>
    let b := e p
    let x := f b.1
    if b.1 = b.2 then x else if x = f b.2 then x else Encl.decide f fallback e fuel (2 * p)

/-- Round a real once to the form `f` (R217); `sat`: saturation is judged on the exact value (R218). -/
def Encl.round (f : Nat) (sat : Bool) (e : Encl) : Rounded :=
  Encl.decide (roundTo f sat) ⟨Config.undecided 0 % 2 ^ fmtWidth f, {}⟩ e 7 64

/-! ### Fixed-point series, in units of 2^-w -/

/-- `2 Σ z^(2n+1) / (2n+1)` from term `t = z^(2n+1)`, `z2 = z²`, each truncated at 2^-w. -/
def atanhSum (w : Nat) (z2 : Int) : Nat → Nat → Int → Int
  | 0, _, _ => 0
  | fuel + 1, n, t =>
    if t = 0 then 0 else t / (2 * n + 1 : Nat) + atanhSum w z2 fuel (n + 1) ((t * z2).fdiv (2 ^ w : Nat))

/-- `ln m` in units of 2^-w for `m` from 1/2 to 2. -/
def lnFix (w : Nat) (m : ℚ) : Int :=
  let z := (((m - 1) / (m + 1)) * (2 ^ w : Nat)).floor
  2 * atanhSum w ((z * z).fdiv (2 ^ w : Nat)) w 0 z

/-- `ln 2` in units of 2^-w. -/
def ln2Fix (w : Nat) : Int := lnFix w 2

/-- `ln y` for `y > 0`. -/
def lnEncl (y : ℚ) : Encl := fun p =>
  if y = 1 then (0, 0)
  else
    let w := p + 24
    let e := log2q y
    let v := lnFix w (y * pow2 (-e)) + e * ln2Fix w
    (((v - (2 ^ 20 : Nat) : Int) : ℚ) * pow2 (-w), ((v + (2 ^ 20 : Nat) : Int) : ℚ) * pow2 (-w))

/-- `Σ r^n / n!` from term `t`, in units of 2^-w. -/
def expSum (w : Nat) (r : Int) : Nat → Nat → Int → Int
  | 0, _, _ => 0
  | fuel + 1, n, t => if t = 0 then 0 else t + expSum w r fuel (n + 1) ((t * r).tdiv ((2 ^ w * (n + 1) : Nat)))

/-- `e^x`. Beyond ±128 a stand-in beyond every format's range is used: the rounding is the same. -/
def expEncl (x : ℚ) : Encl := fun p =>
  if x = 0 then (1, 1)
  else if 128 ≤ x then (pow2 200, pow2 200)
  else if x ≤ -128 then (pow2 (-200), pow2 (-200))
  else
    let w := p + 280
    let l := ln2Fix w
    let xf := (x * (2 ^ w : Nat)).floor
    let k := (2 * xf + l).fdiv (2 * l)
    let v := expSum w (xf - k * l) w 0 (2 ^ w : Nat)
    (((v - (2 ^ 20 : Nat) : Int) : ℚ) * pow2 (k - w), ((v + (2 ^ 20 : Nat) : Int) : ℚ) * pow2 (k - w))

/-- `1 / (1 + e)` for a positive real `e`. -/
def Encl.recip1 (e : Encl) : Encl := fun p => (1 / (1 + (e p).2), 1 / (1 + (e p).1))

/-- The logistic function (R220). -/
def sigmoidEncl (a : ℚ) : Encl :=
  if 128 ≤ a then Encl.exact (1 - pow2 (-180)) else if a ≤ -128 then Encl.exact (pow2 (-180)) else (expEncl (-a)).recip1

/-- The hyperbolic tangent (R220): 1 - 2 / (e^2a + 1). -/
def tanhEncl (a : ℚ) : Encl :=
  if a = 0 then Encl.exact 0
  else if 64 ≤ a then Encl.exact (1 - pow2 (-180))
  else if a ≤ -64 then Encl.exact (pow2 (-180) - 1)
  else ((expEncl (2 * a)).recip1.mulQ (-2)).addQ 1

/-- SiLU (R220). -/
def siluEncl (a : ℚ) : Encl :=
  if a = 0 then Encl.exact 0
  else if a ≤ -128 then Encl.exact (-pow2 (-200))
  else (sigmoidEncl a).mulQ a

/-- The integer square root bounds of a non-negative rational, in units of 2^-w. -/
def sqrtEncl (y : ℚ) : Encl := fun p =>
  let n := Nat.sqrt y.num.natAbs
  let d := Nat.sqrt y.den
  if n * n = y.num.natAbs ∧ d * d = y.den then ((n : ℚ) / d, (n : ℚ) / d)
  else
    let w := p + 160
    let s := Nat.sqrt ((y * (2 ^ (2 * w) : Nat)).floor.toNat)
    ((s : ℚ) * pow2 (-w), ((s + 1 : Nat) : ℚ) * pow2 (-w))

/-- The reciprocal of a positive real. -/
def Encl.recip (e : Encl) : Encl := fun p => (1 / (e p).2, 1 / (e p).1)

/-- `Σ (-1)^n a^(2n+1) / (2^n n! (2n+1))` from the term `t = (-1)^n a^(2n+1) / (2^n n!)`, `a2 = a²`, units of 2^-w. -/
def erfSum (w : Nat) (a2 : Int) : Nat → Nat → Int → Int
  | 0, _, _ => 0
  | fuel + 1, n, t =>
    if t = 0 then 0
    else t.tdiv ((2 * n + 1 : Nat)) + erfSum w a2 fuel (n + 1) (-((t * a2).tdiv ((2 ^ w * (2 * (n + 1)) : Nat))))

/-- `arctan (1/q)` in units of 2^-w. -/
def atanInv (w q : Nat) : Nat → Nat → Int → Int
  | 0, _, _ => 0
  | fuel + 1, n, t =>
    if t = 0 then 0
    else (if n % 2 = 0 then t / (2 * n + 1 : Nat) else -(t / (2 * n + 1 : Nat))) + atanInv w q fuel (n + 1) (t / (q * q : Nat))

/-- π in units of 2^-w: 16 arctan(1/5) - 4 arctan(1/239). -/
def piFix (w : Nat) : Int :=
  16 * atanInv w 5 w 0 ((2 ^ w : Nat) / 5) - 4 * atanInv w 239 w 0 ((2 ^ w : Nat) / 239)

/-- GELU (R220): a · ½(1 + erf(a/√2)), with erf(a/√2) = √(2/π) Σ (-1)^n a^(2n+1) / (2^n n! (2n+1)). -/
def geluEncl (a : ℚ) : Encl :=
  if a = 0 then Encl.exact 0
  else if 16 ≤ a then Encl.exact (a * (1 - pow2 (-180)))
  else if a ≤ -16 then Encl.exact (-pow2 (-200))
  else fun p =>
    let w := p + 480
    let a2 := (a * a * (2 ^ w : Nat)).floor
    let s := erfSum w a2 (2 * w) 0 (a * (2 ^ w : Nat)).floor
    -- √(2/π) in units of 2^-w
    let c : Int := Nat.sqrt (((2 ^ (3 * w + 1) : Nat) : Int) / piFix w).toNat
    let v := (s * c).fdiv (2 ^ w : Nat)
    let slack : Int := (2 ^ 240 : Nat)
    let lo : ℚ := ((v - slack : Int) : ℚ) * pow2 (-w)
    let hi : ℚ := ((v + slack : Int) : ℚ) * pow2 (-w)
    let x := a * (1 + lo) / 2
    let y := a * (1 + hi) / 2
    if 0 < a then (x, y) else (y, x)

end Sys2Proof.Machine
end

