-- ==== Sys2Proof/Machine/Vector.lean ====
section
/-! DEFINITION. The vector unit: operations on rows and segments, MX output, slicing, top-k (08). -/

namespace Sys2Proof.Machine

/-- RB(f): bytes from one row of 128 elements to the next (R214). -/
def rowBytes (f : Nat) : Nat := up64 (16 * fmtWidth f)

/-- One-source operations, two-source operations and segment operations of R220. -/
def vuListed (op : Nat) : Bool :=
  decide (op ≤ 0x0B ∨ (0x10 ≤ op ∧ op ≤ 0x18) ∨ (0x20 ≤ op ∧ op ≤ 0x29) ∨ op = 0x30)
/-- Operations that read B as rows (R220). -/
def vuRowsB (op : Nat) : Bool := decide ((1 ≤ op ∧ op ≤ 6) ∨ op = 0x0B)
/-- Operations that read B as one value per segment (R220). -/
def vuSegB (op : Nat) : Bool := decide (0x26 ≤ op ∧ op ≤ 0x29)
/-- Operations on segments. -/
def vuSeg (op : Nat) : Bool := decide (0x20 ≤ op ∧ op ≤ 0x29)
/-- Segment operations that write one value per segment. -/
def vuSegOut (op : Nat) : Bool := decide ((0x20 ≤ op ∧ op ≤ 0x23) ∨ op = 0x25 ∨ op = 0x26)
/-- The result has the row layout of the input (R224). -/
def vuRowOut (op : Nat) : Bool := vuListed op && !vuSegOut op && op != 0x30
/-- G of a segment operation (R220). -/
def vuG (w : Nat) : Nat := if vImm w = 0 then 1 else vImm w

/-- The rows an operation takes at once: a segment, a block of 32 rows, or one row; with square blocks, the segments that fill
whole squares. -/
def vecChunk (w : Nat) : Nat :=
  if iClass w = 9 then 1
  else if vuSeg (vOp w) then if vMode w = 2 then Nat.lcm (vuG w) 32 else vuG w
  else if vOp w = 0x30 ∨ vMode w = 2 then 32 else 1

/-! ### Elements -/

/-- An element result: its exact value, or none where it is not a finite real number (R218). -/
abbrev ElemResult := Option Encl

/-- A one-source operation on the exact values a and c (R220). -/
def vuOne (op : Nat) (a c : ℚ) : ElemResult :=
  match op with
  | 0x00 => some (.exact a)
  | 0x07 => some (.exact (a + c))
  | 0x08 => some (.exact (a * c))
  | 0x09 => some (.exact (max a c))
  | 0x0A => some (.exact (min a c))
  | 0x10 => some (expEncl (a - c))
  | 0x11 => if a + c ≤ 0 then none else some (lnEncl (a + c))
  | 0x12 => if a + c = 0 then none else some (.exact (1 / (a + c)))
  | 0x13 => if a + c ≤ 0 then none else some (sqrtEncl (1 / (a + c)))
  | 0x14 => if a + c < 0 then none else some (sqrtEncl (a + c))
  | 0x15 => some (tanhEncl a)
  | 0x16 => some (sigmoidEncl a)
  | 0x17 => some (geluEncl a)
  | _ => some (siluEncl a)

/-- A two-source operation on the exact values a, b and c (R220). -/
def vuTwo (op : Nat) (a b c : ℚ) : ElemResult :=
  match op with
  | 0x01 => some (.exact (a + b))
  | 0x02 => some (.exact (a - b))
  | 0x03 => some (.exact (a * b))
  | 0x04 => some (.exact (max a b))
  | 0x05 => some (.exact (min a b))
  | 0x06 => some (.exact ((a - b) * (a - b)))
  | _ => some (.exact (a * c + b))

/-- The operation uses the BF16 immediate (R220). -/
def vuUsesImm (op : Nat) : Bool := decide ((7 ≤ op ∧ op ≤ 0x0B) ∨ (0x10 ≤ op ∧ op ≤ 0x14))

/-- The number of non-finite codes of a list. -/
def nonFiniteCount (f : Nat) (cs : List Nat) : Nat := (cs.filter (fun c => nonFinite f c)).length

/-- A written element and its counts (R218, R144). -/
structure Written where
  code : Nat
  counts : Counts

/-- Round an element result to `f`; `copy`: the counts of a conversion (R144). -/
def writeElem (f : Nat) (copy : Bool) (r : ElemResult) : Written :=
  match r with
  | none => ⟨0, { elements := 1, nonFinite := 1 }⟩
  | some e => let x := e.round f (!copy); ⟨x.code, x.counts⟩

/-- The counts of a row of written elements. -/
def sumCounts (cs : List Counts) : Counts := cs.foldl Counts.add {}

/-! ### Reading and writing rows -/

/-- The codes of a row of 128 elements read from local memory (R214). -/
def State.readRow (s : State) (cl line f n step : Nat) : List Nat × State :=
  let w := fmtWidth f
  Prod.map (fun bs => (List.range 128).map fun q => unpackElem w bs q) id
    (s.localRead cl (line * 64 + n * rowBytes f) (packedBytes w 128) step)

/-- Write a row of 128 codes. -/
def State.writeRow (s : State) (cl line f n step : Nat) (cs : List Nat) : State :=
  s.localWrite cl (line * 64 + n * rowBytes f) step (packRow (fmtWidth f) cs)

/-- Write per-segment value `i`, packed densely (R214). -/
def State.writeSegValue (s : State) (cl line f i step code : Nat) : State :=
  let w := fmtWidth f
  let per := if w = 6 then 4 else if w = 4 then 2 else 1
  let bytes := if w = 6 then 3 else if w = 4 then 1 else w / 8
  let a := line * 64 + (i / per) * bytes
  let old := readBytes s.mem (localToModule (s.physDie (clDie cl)) cl a) bytes
  s.localWrite cl a step (putElem w old (i % per) code)

/-- The values of codes; a non-finite one is +0 (R218). -/
def vals (f : Nat) (cs : List Nat) : List ℚ := cs.map (elemVal0 f)

/-! ### Row results: plain and MX output (R224) -/

/-- A row of element results, and whether its elements are counted: those of an ignored segment are not (R222). -/
abbrev OutRow := List ElemResult × Bool
/-- The counts of the written elements of a row. -/
def OutRow.counts (r : OutRow) (ws : List Written) : Counts := if r.2 then sumCounts (ws.map fun x => x.counts) else {}

/-- Write rows of element results from row `r0` in output mode 0. -/
def State.writePlain (s : State) (cl w r0 step : Nat) (rows : List OutRow) : State × Counts :=
  rows.zipIdx.foldl (fun (acc : State × Counts) (p : OutRow × Nat) =>
    let ws := p.1.1.map (writeElem (vFmtOut w) (vOp w = 0))
    (acc.1.writeRow cl (vDst w) (vFmtOut w) (r0 + p.2) step (ws.map (fun x => x.code)), acc.2.add (OutRow.counts p.1 ws)))
    (s, {})

/-- The exact value of a result for a block scale; an invalid result is written as +0. -/
def resultEncl (r : ElemResult) : Encl := r.getD (Encl.exact 0)

/-- The scale exponent of a block (R142, R224). -/
def blockScale (f : Nat) (rs : List ElemResult) : Int :=
  Encl.decide (mxScale f) 0 (rs.foldl (fun m r => Encl.max m (resultEncl r).abs) (Encl.exact 0)) 7 64

/-- Write MX rows from row `r0` of at most 32 rows of element results; `square`: one square block for every 32 columns, its
scale in the alternate plane too (R224). -/
def State.writeBlocks (s : State) (cl w r0 step : Nat) (square : Bool) (rows : List OutRow) : State × Counts :=
  let f := vFmtOut w
  let base := vDst w * 64
  let plane := base + 128 * rowBytes f
  let block (b : Nat) (row : OutRow) : List ElemResult := (row.1.drop (32 * b)).take 32
  (List.range 4).foldl (fun (acc : State × Counts) b =>
    let sq := blockScale f (rows.flatMap (block b))
    let acc := if square then
        (acc.1.localWrite cl (plane + 512 + (r0 / 32) * 128 + 32 * b) step (List.replicate 32 (BitVec.ofNat 8 (sq + 127).toNat)), acc.2)
      else acc
    rows.zipIdx.foldl (fun (acc : State × Counts) (p : OutRow × Nat) =>
      let x := if square then sq else blockScale f (block b p.1)
      let s := acc.1.localWrite cl (plane + b * 128 + r0 + p.2) step (u8 (x + 127).toNat)
      let ws := (block b p.1).map fun r =>
        match r with
        | none => (⟨0, { elements := 1, nonFinite := 1 }⟩ : Written)
        | some e => let y := (e.mulQ (pow2 (-x))).round f false; ⟨y.code, y.counts⟩
      (s.localWrite cl (base + (r0 + p.2) * rowBytes f + 4 * b * fmtWidth f) step (packRow (fmtWidth f) (ws.map (fun y => y.code))),
       acc.2.add (OutRow.counts p.1 ws))) acc) (s, {})

/-- Write MX rows from row `r0`, 32 rows at a time. -/
def State.writeMx (s : State) (cl w r0 step : Nat) (square : Bool) (rows : List OutRow) : State × Counts :=
  (List.range ((rows.length + 31) / 32)).foldl (fun (acc : State × Counts) a =>
    let (s, c) := acc.1.writeBlocks cl w (r0 + 32 * a) step square ((rows.drop (32 * a)).take 32)
    (s, acc.2.add c)) (s, {})

/-- A value in the histogram bin of the real `e` (R146): itself where it is exact, else the power of two below it. -/
def Encl.binValue (e : Encl) : ℚ := if (e 64).1 = (e 64).2 then (e 64).1 else pow2 (Encl.decide log2q 0 e.abs 7 64)

/-- Write rows of element results in the output mode of the instruction, count them and take histograms. -/
def State.writeRows (s : State) (cl w r0 step : Nat) (rows : List OutRow) : State :=
  let (s, c) := match vMode w with
    | 0 => s.writePlain cl w r0 step rows
    | 1 => s.writeMx cl w r0 step false rows
    | _ => s.writeMx cl w r0 step true rows
  let hist := (rows.filter fun r => r.2).flatMap fun row => row.1.map fun r => (resultEncl r).binValue
  (s.addCounts (s.seqSrc cl) step (vWatch w) (vFmtOut w) c).addHist step (vWatch w) (vFmtOut w) hist

/-! ### Operations on rows -/

/-- Element operations on a chunk of rows of A (and B) (R217, R220). -/
def State.vecRows (s : State) (cl w r0 step : Nat) (rows : List (List Nat)) : State :=
  let f := vFmtIn w
  let op := vOp w
  let src := s.seqSrc cl
  let immBad := vuUsesImm op && nonFinite fBF16 (vImm w)
  let c := elemVal0 fBF16 (vImm w)
  let (out, s) := rows.zipIdx.foldl (fun (acc : List OutRow × State) (p : List Nat × Nat) =>
    let (bs, s) := if vuRowsB op then acc.2.readRow cl (vSrcB w) f (r0 + p.2) step else ([], acc.2)
    let row := if vuRowsB op then List.zipWith (fun a b => vuTwo op a b c) (vals f p.1) (vals f bs)
      else (vals f p.1).map (fun a => vuOne op a c)
    let s := s.addCounts src step (vWatch w) f { nonFinite := nonFiniteCount f p.1 + nonFiniteCount f bs }
    let s := if immBad then s.addCounts src step (vWatch w) (vFmtOut w) { nonFinite := row.length } else s
    (acc.1 ++ [(row, true)], s)) ([], s)
  s.writeRows cl w r0 step out

/-- The largest (or smallest) value of a list, the first in order of equal ones: (value, position) (R221). -/
def extreme (big : Bool) : List ℚ → Option (ℚ × Nat)
  | [] => none
  | v :: vs => some (vs.zipIdx.foldl (fun (m : ℚ × Nat) (p : ℚ × Nat) =>
      if (if big then m.1 < p.1 else p.1 < m.1) then (p.1, p.2 + 1) else m) (v, 0))

/-- The counts that an intermediate rounding or placement adds: never under ELEMENTS (R218). -/
def Counts.inner (c : Counts) : Counts := { c with elements := 0 }

/-- e_k of a segment with largest element `m` (R222): the FP32 codes, and their counts. -/
def segExps (m : ℚ) (xs : List ℚ) : List ℚ × Counts :=
  let rs := xs.map (fun x => (expEncl (x - m)).round fFP32 true)
  (rs.map (fun r => elemVal0 fFP32 r.code), (sumCounts (rs.map Rounded.counts)).inner)

/-- A value that a segment operation writes for the segment, its extra counts, and the code to force (the sign of a zero
extreme, R221). -/
def segValue (op f fo : Nat) (codes : List Nat) (t : Nat) : ElemResult × Counts × Option Nat :=
  let xs := vals f codes
  match op with
  | 0x20 => (some (.exact xs.sum), {}, none)
  | 0x21 =>
    let ps := xs.map placeNorm
    (some (.exact (normVal ((ps.map (fun p => p.val)).sum))), (sumCounts (ps.map Placed.counts)).inner, none)
  | 0x22 | 0x23 =>
    match extreme (op = 0x22) xs with
    | none => (some (.exact 0), {}, none)
    | some (v, i) =>
      let c := codes.getD i 0
      -- a zero extreme keeps the sign it was read with
      let neg := v = 0 ∧ f ≤ 7 ∧ fo ≤ 7 ∧ !nonFinite f c ∧ c ≠ 0
      (some (.exact v), {}, if neg then some (2 ^ (fmtWidth fo - 1)) else none)
  | _ =>
    let m := ((extreme true xs).map (fun p => p.1)).getD 0
    let (es, c) := segExps m xs
    let l := (lnEncl es.sum).addQ m
    (some (if op = 0x25 then l else l.addQ (-(xs.getD t 0))), c, none)

/-- The U32 or FP32 word of B for segment `i` (R220). -/
def State.segB (s : State) (cl w i step : Nat) : Nat × State :=
  Prod.map leNat id (s.localRead cl (vSrcB w * 64 + 4 * i) 4 step)

/-- What a segment whose target was read does: it is ignored, its target is out of range, or it is computed (R222). -/
def segIgnored (op b : Nat) : Bool := (op == 0x26 || op == 0x27) && b == 0xFFFFFFFF
def segBad (op n b : Nat) : Bool := (op == 0x26 || op == 0x27) && decide (n ≤ b)

/-- A segment's one value is written (R220 to R222); `b`: its word of B. -/
def State.segOne (s : State) (cl w i step b : Nat) (codes : List Nat) : State :=
  let fo := vFmtOut w
  if segIgnored (vOp w) b then s.writeSegValue cl (vDst w) fo i step 0
  else
    let (r, c, force) := segValue (vOp w) (vFmtIn w) fo codes b
    let x := writeElem fo false r
    let s := s.writeSegValue cl (vDst w) fo i step (force.getD x.code)
    (s.addCounts (s.seqSrc cl) step (vWatch w) fo (c.add x.counts)).addHist step (vWatch w) fo [(resultEncl r).binValue]

/-- The rows of results of a segment (R220 to R222), with the counts of values it rounds and does not write. -/
def segOut (w b : Nat) (rows : List (List Nat)) : List OutRow × Counts :=
  let f := vFmtIn w
  if segIgnored (vOp w) b then (rows.map fun _ => (List.replicate 128 (some (Encl.exact 0)), false), {})
  else
    let xs := vals f rows.flatten
    let bv := elemVal0 fFP32 b
    let m := ((extreme true xs).map (fun p => p.1)).getD 0
    let (es, c) := if vOp w = 0x24 ∨ vOp w = 0x27 then segExps m xs else ([], {})
    let elem (k : Nat) (x : ℚ) : ElemResult :=
      match vOp w with
      | 0x24 => some (.exact (es.getD k 0 / es.sum))
      | 0x27 => some (.exact (es.getD k 0 / es.sum - if k = b then 1 else 0))
      | 0x28 => some (.exact (x * bv))
      | _ => some (.exact (x - bv))
    (rows.zipIdx.map fun (row, q) => (row.zipIdx.map fun (cd, j) => elem (128 * q + j) (elemVal0 f cd), true), c)

/-- One segment, its rows from row `r0` on: rows of results to be written, none where its target is out of range. -/
def State.vecSegment (s : State) (cl w idx r0 step : Nat) (rows : List (List Nat)) : Option (List OutRow) × State :=
  let op := vOp w
  let src := s.seqSrc cl
  let codes := rows.flatten
  let (b, s) := if vuSegB op then s.segB cl w (r0 / vuG w) step else (0, s)
  if segIgnored op b then (if vuSegOut op then (some [], s.segOne cl w (r0 / vuG w) step b codes) else (some (segOut w b rows).1, s))
  else
    let s := s.addCounts src step (vWatch w) (vFmtIn w) { nonFinite := nonFiniteCount (vFmtIn w) codes }
    if segBad op codes.length b then (none, s.fault src 0x2601 (u16 idx))
    else if vuSegOut op then (some [], s.segOne cl w (r0 / vuG w) step b codes)
    else
      let bad := (op = 0x28 ∨ op = 0x29) ∧ nonFinite fFP32 b
      let s := if bad then s.addCounts src step (vWatch w) (vFmtIn w) { nonFinite := 1 } else s
      let (out, c) := segOut w b rows
      (some out, s.addCounts src step (vWatch w) (vFmtOut w) c)

/-- The segments of a chunk of rows from row `r0` on, in order; what they write in rows is written together. A fault at a segment
leaves the rows of its chunk unwritten (DESIGN CHOICE, log 101). -/
def State.vecSegments (s : State) (cl w idx r0 step : Nat) (rows : List (List Nat)) : State :=
  let g := vuG w
  let (out, s) := (List.range ((rows.length + g - 1) / g)).foldl (fun (acc : Option (List OutRow) × State) i =>
    match acc.1 with
    | none => acc
    | some done =>
      let (r, s) := acc.2.vecSegment cl w idx (r0 + g * i) step ((rows.drop (g * i)).take g)
      (r.map fun x => done ++ x, s)) (some [], s)
  match out with
  | some (x :: xs) => s.writeRows cl w r0 step (x :: xs)
  | _ => s

/-! ### SLICE (R138, R223) -/

/-- Q: bytes from one slice's panel to the next (R223). -/
def sliceQ (w : Nat) : Nat := up64 (vRowsMax w * 128 + (vRowsMax w + 31) / 32 * 128)
/-- Slices per element: 3 for BF16, 4 for FP32 (R138). -/
def sliceN (w : Nat) : Nat := if vFmtIn w = fBF16 then 3 else 4

/-- The counts of one sliced element (R138, R144). -/
def sliceCounts (f n : Nat) (es : Int) (code : Nat) : Counts :=
  if nonFinite f code then { elements := 1, nonFinite := 1 }
  else
    let v := elemVal0 f code
    let x := sliceX n es v
    { elements := 1, flushed := if v ≠ 0 ∧ x = 0 then 1 else 0,
      below := if (x : ℚ) ≠ |v| * pow2 (7 * n - 1 - es) then 1 else 0 }

/-- One block of 32 rows (the last may be shorter) of a `SLICE`. -/
def State.vecSlice (s : State) (cl w r0 step : Nat) (rows : List (List Nat)) : State :=
  let f := vFmtIn w
  let n := sliceN w
  let lane (l : Nat) := rows.map (fun r => elemVal0 f (r.getD l 0))
  let es := (List.range 128).map (fun l => blockExp (lane l))
  let base := vDst w * 64
  let s := (List.range n).foldl (fun s i =>
    let s := s.localWrite cl (base + i * sliceQ w + vRowsMax w * 128 + (r0 / 32) * 128) step
      (es.map (fun e => BitVec.ofNat 8 (e + 127).toNat))
    rows.zipIdx.foldl (fun s (p : List Nat × Nat) =>
      s.localWrite cl (base + i * sliceQ w + (r0 + p.2) * 128) step
        (p.1.zipIdx.map (fun (c, l) => BitVec.ofInt 8 (sliceDigit n i (es.getD l 0) (elemVal0 f c))))) s) s
  let c := sumCounts (rows.flatMap (fun r => r.zipIdx.map (fun (c, l) => sliceCounts f n (es.getD l 0) c)))
  (s.addCounts (s.seqSrc cl) step (vWatch w) f c).addHist step (vWatch w) f (rows.flatMap (vals f))

/-! ### TOPK (R225) -/

/-- The pitch of a top-k source row (R225). -/
def topkPitch (w : Nat) : Nat := (tkLenMax w * fmtWidth (tkFmt w) + 511) / 512 * 64

/-- The selected (value code, position) pairs of a row, best first, ties by lower position (R225). -/
def topkSelect (f k : Nat) (largest : Bool) (codes : List Nat) : List (Nat × Nat) :=
  let clean := codes.map (fun c => if nonFinite f c then 0 else c)
  let better (x y : Nat × Nat) : Bool :=
    let a := elemVal0 f x.1
    let b := elemVal0 f y.1
    if a = b then decide (x.2 ≤ y.2) else if largest then decide (b < a) else decide (a < b)
  (clean.zipIdx.mergeSort better).take k

/-- Row `r` of a `TOPK`. -/
def State.vecTopk (s : State) (cl w r step : Nat) (codes : List Nat) : State :=
  let f := tkFmt w
  let k := tkK w
  let sel := topkSelect f k (tkLargest w) codes
  let pad := k - sel.length
  let vp := (k * fmtWidth f + 511) / 512 * 64
  let pp := (k * 4 + 63) / 64 * 64
  let s := s.localWrite cl (tkVal w * 64 + r * vp) step (packRow (fmtWidth f) (sel.map (fun x : Nat × Nat => x.1) ++ List.replicate pad 0))
  let s := s.localWrite cl (tkPos w * 64 + r * pp) step
    ((sel.map (fun x : Nat × Nat => x.2) ++ List.replicate pad 0xFFFFFFFF).flatMap u32)
  (s.addCounts (s.seqSrc cl) step 0 f { elements := sel.length, nonFinite := nonFiniteCount f codes }).addHist step 0 f
    (vals f (sel.map fun x => x.1))

/-! ### Running the queue -/

/-- Whether an operation reads the drain input (R215). -/
def vecFromDrain (w : Nat) : Bool := if iClass w = 9 then tkSrc w == drainInput else vSrcA w == drainInput

/-- The source rows of a chunk: from the drain input, or read from local memory. -/
def State.vecSource (s : State) (cl : Nat) (op : VecOp) (n : Nat) : Option (List (List Nat) × State) :=
  let w := op.word
  if vecFromDrain w then
    let c := s.cl cl
    if c.drainIn.length < n then none
    else some ((c.drainIn.take n).map (fun r => if iClass w = 9 then r.take op.len else r),
               s.modCl cl (fun c => { c with drainIn := c.drainIn.drop n }))
  else if iClass w = 9 then
    let wd := fmtWidth (tkFmt w)
    let (bs, s) := s.localRead cl (tkSrc w * 64 + op.row * topkPitch w) (packedBytes wd op.len) op.step
    some ([(List.range op.len).map (fun q => unpackElem wd bs q)], s)
  else
    some ((List.range n).foldl (fun (acc : List (List Nat) × State) i =>
      let (r, s) := acc.2.readRow cl (vSrcA w) (vFmtIn w) (op.row + i) op.step
      (acc.1 ++ [r], s)) ([], s))

/-- The local byte ranges of an operation's elements (first byte, bytes), at its valid extents; for one that writes rows, the rows
(R214, R223 to R225). -/
def vecElems (op : VecOp) : List (Nat × Nat) :=
  let w := op.word
  if iClass w = 9 then
    let vp := (tkK w * fmtWidth (tkFmt w) + 511) / 512 * 64
    let pp := (tkK w * 4 + 63) / 64 * 64
    [(tkVal w * 64, (op.rows - 1) * vp + packedBytes (fmtWidth (tkFmt w)) (tkK w)), (tkPos w * 64, (op.rows - 1) * pp + 4 * tkK w)]
  else if vOp w = 0x30 then (List.range (sliceN w)).map fun i => (vDst w * 64 + i * sliceQ w, op.rows * 128)
  else if vuSegOut (vOp w) then [(vDst w * 64, packedBytes (fmtWidth (vFmtOut w)) ((op.rows + vuG w - 1) / vuG w))]
  else [(vDst w * 64, op.rows * rowBytes (vFmtOut w))]
/-- The local byte ranges of the scales that it writes. -/
def vecScales (op : VecOp) : List (Nat × Nat) :=
  let w := op.word
  let plane := vDst w * 64 + 128 * rowBytes (vFmtOut w)
  if iClass w = 9 then []
  else if vOp w = 0x30 then
    (List.range (sliceN w)).map fun i => (vDst w * 64 + i * sliceQ w + vRowsMax w * 128, (op.rows + 31) / 32 * 128)
  else if vMode w = 0 then []
  else (List.range 4).map (fun b => (plane + 128 * b, op.rows)) ++ if vMode w = 2 then [(plane + 512, (op.rows + 31) / 32 * 128)] else []
/-- The local byte ranges that it reads. -/
def vecSources (op : VecOp) : List (Nat × Nat) :=
  let w := op.word
  if iClass w = 9 then
    if tkSrc w = drainInput then [] else [(tkSrc w * 64, (op.rows - 1) * topkPitch w + packedBytes (fmtWidth (tkFmt w)) op.len)]
  else
    (if vSrcA w = drainInput then [] else [(vSrcA w * 64, op.rows * rowBytes (vFmtIn w))])
      ++ (if vuRowsB (vOp w) then [(vSrcB w * 64, op.rows * rowBytes (vFmtIn w))] else [])
      ++ (if vuSegB (vOp w) then [(vSrcB w * 64, 4 * ((op.rows + vuG w - 1) / vuG w))] else [])

/-- A destination that overlaps a source gives results that are not defined, but where an operation whose output has the row layout
of its input writes its rows from the source's first byte on, each row no longer than the one that was read (R219). -/
def vecOverlap (op : VecOp) : Bool :=
  let w := op.word
  let meet (a b : Nat × Nat) := decide (a.1 < b.1 + b.2 ∧ b.1 < a.1 + a.2)
  let same (a : Nat × Nat) := iClass w != 9 && vuRowOut (vOp w) && decide (rowBytes (vFmtOut w) ≤ rowBytes (vFmtIn w)) && vDst w * 64 == a.1
  (vecSources op).any fun a => (!same a && (vecElems op).any (meet a)) || (vecScales op).any (meet a)

/-- The local byte ranges that an operation writes. -/
def vecDest (op : VecOp) : List (Nat × Nat) := vecElems op ++ vecScales op

/-- The result of an overlap is not defined (R219): the destination's bytes become free values. -/
def State.scramble (s : State) (cl : Nat) (op : VecOp) : State :=
  (vecDest op).foldl (fun s d =>
    (s.localWrite cl d.1 op.step ((List.range d.2).map (fun i => Config.freeByte s.free i))).nextFree) s

/-- Apply the operation to one chunk of source rows. -/
def State.vecApply (s : State) (cl : Nat) (op : VecOp) (rows : List (List Nat)) : State :=
  let w := op.word
  if iClass w = 9 then s.vecTopk cl w op.row op.step (rows.headD [])
  else if vuSeg (vOp w) then s.vecSegments cl w op.idx op.row op.step rows
  else if vOp w = 0x30 then s.vecSlice cl w op.row op.step rows
  else s.vecRows cl w op.row op.step rows

/-- The head of the vector queue runs on: chunk after chunk while its rows are there (R215). -/
def State.runVector (s : State) (cl : Nat) : Nat → State
  | 0 => s
  | fuel + 1 =>
    match (s.cl cl).vecQ with
    | [] => s
    | op :: rest =>
      if op.rows ≤ op.row then s
      else
        let n := min (vecChunk op.word) (op.rows - op.row)
        match s.vecSource cl op n with
        | none => s
        | some (rows, s1) =>
          let s2 := s1.vecApply cl op rows
          if s2.safe.latch ∧ !s.safe.latch then s2
          else
            let op' := { op with row := op.row + n }
            let s3 := s2.modCl cl (fun c => { c with vecQ := op' :: rest })
            let s3 := if op'.rows ≤ op'.row ∧ vecOverlap op' then s3.scramble cl op' else s3
            s3.runVector cl fuel

/-! ### Issue of VECTOR and TOPK (R169, R170, R179) -/

/-- The byte ranges of local memory that an operation reads and writes, at its valid extents. -/
def vecRanges (op : VecOp) : List (Nat × Nat) := vecSources op ++ vecDest op

/-- The reasons of R179 for a `VECTOR`. -/
def vectorReasons (op : VecOp) : List (Nat × Bool) :=
  let w := op.word
  let o := vOp w
  [ (2, !isDrainForm (vFmtIn w) || !isDrainForm (vFmtOut w) || ((vMode w == 1 || vMode w == 2) && !isMxForm (vFmtOut w))
        || (o == 0x30 && (decide (1 < vFmtIn w) || vFmtOut w != 8))),
    (3, (vecRanges op).any (fun r => !localOk r.1 r.2)
        || (vSrcA w == drainInput && (vFmtIn w != 0 || (vuSeg o && decide (256 < vuG w))))),
    (7, !vuListed o || vMode w == 3 || (vMode w != 0 && (!vuRowOut o || decide (128 < vRowsMax w)))) ]

/-- The reasons of R179 for a `TOPK`. -/
def topkReasons (op : VecOp) : List (Nat × Bool) :=
  let w := op.word
  [ (1, decide (1024 < tkK w)),
    (2, !(decide (tkFmt w ≤ 4) || tkFmt w == 8 || tkFmt w == 9)),
    (3, (vecRanges op).any (fun r => !localOk r.1 r.2)
        || (tkSrc w == drainInput && (tkFmt w != 0 || decide (128 < tkLenMax w)))) ]

/-- The operation that an instruction makes, with its extents read now. -/
def State.vecOpOf (s : State) (cl : Nat) (f : Fetched) : VecOp :=
  let c := s.cl cl
  let w := f.word
  if iClass w = 9 then
    { n := c.issueNo, word := w, rows := c.extent (tkRowsMax w) (tkRowsSel w), len := c.extent (tkLenMax w) (tkLenSel w),
      step := f.step, idx := f.idx }
  else { n := c.issueNo, word := w, rows := c.extent (vRowsMax w) (vRowsSel w), len := 128, step := f.step, idx := f.idx }

/-- The checks of R178 for `VECTOR` and `TOPK`. -/
def State.vecCheck (s : State) (cl : Nat) (f : Fetched) : Verdict :=
  let op := s.vecOpOf cl f
  let w := f.word
  if iClass w = 9 then verdict1 (topkReasons op) [(tkLenSel w, op.len, tkLenMax w), (tkRowsSel w, op.rows, tkRowsMax w)] .ok
  else verdict1 (vectorReasons op) [(vRowsSel w, op.rows, vRowsMax w)] .ok

/-- Counter of R231. -/
def kVuOps : Nat := objKey 0x3030 0
def kVuStarve : Nat := objKey 0x3031 0

/-- An operation of the vector unit retires (R228). -/
def State.vuRetired (s : State) (cl : Nat) : State := (s.modCl cl (fun c => { c with vuOps := c.vuOps + 1 })).bump kVuOps 1

/-- The operation enters the vector queue; zero extents retire at issue (R157). -/
def State.vecIssue (s : State) (cl : Nat) (f : Fetched) : State :=
  let op := s.vecOpOf cl f
  if op.rows = 0 ∨ (iClass f.word = 9 ∧ (op.len = 0 ∨ tkK f.word = 0)) then s.vuRetired cl
  else
    (s.place cl).2.modCl cl (fun c => { c with vecQ := c.vecQ ++ [op], vuStopped := false })

/-- Issue the next instruction of a cluster if it is the `VECTOR` operation `o`. -/
def vectorCommand (o cl : Nat) (s : State) : State :=
  s.issue cl (fun _ w => iClass w = 8 ∧ vOp w = o ∧ vMode w ≠ 3) (fun s f => s.vecCheck cl f) (fun s f => s.vecIssue cl f)

/-- `COPY`; a `VECTOR` of an undefined operation code or mode is refused here too (R220). -/
def execCopy (cl : Nat) (s : State) : Res :=
  .next (s.issue cl (fun _ w => iClass w = 8 ∧ (vOp w = 0 ∨ vMode w = 3 ∨ !vuListed (vOp w)))
    (fun s f => s.vecCheck cl f) (fun s f => s.vecIssue cl f))
def execAdd (cl : Nat) (s : State) : Res := .next (vectorCommand 0x01 cl s)
def execSub (cl : Nat) (s : State) : Res := .next (vectorCommand 0x02 cl s)
def execMul (cl : Nat) (s : State) : Res := .next (vectorCommand 0x03 cl s)
def execMax (cl : Nat) (s : State) : Res := .next (vectorCommand 0x04 cl s)
def execMin (cl : Nat) (s : State) : Res := .next (vectorCommand 0x05 cl s)
def execSqdiff (cl : Nat) (s : State) : Res := .next (vectorCommand 0x06 cl s)
def execAddImm (cl : Nat) (s : State) : Res := .next (vectorCommand 0x07 cl s)
def execMulImm (cl : Nat) (s : State) : Res := .next (vectorCommand 0x08 cl s)
def execMaxImm (cl : Nat) (s : State) : Res := .next (vectorCommand 0x09 cl s)
def execMinImm (cl : Nat) (s : State) : Res := .next (vectorCommand 0x0A cl s)
def execAxpy (cl : Nat) (s : State) : Res := .next (vectorCommand 0x0B cl s)
def execExp (cl : Nat) (s : State) : Res := .next (vectorCommand 0x10 cl s)
def execLog (cl : Nat) (s : State) : Res := .next (vectorCommand 0x11 cl s)
def execRecip (cl : Nat) (s : State) : Res := .next (vectorCommand 0x12 cl s)
def execRsqrt (cl : Nat) (s : State) : Res := .next (vectorCommand 0x13 cl s)
def execSqrt (cl : Nat) (s : State) : Res := .next (vectorCommand 0x14 cl s)
def execTanh (cl : Nat) (s : State) : Res := .next (vectorCommand 0x15 cl s)
def execSigmoid (cl : Nat) (s : State) : Res := .next (vectorCommand 0x16 cl s)
def execGelu (cl : Nat) (s : State) : Res := .next (vectorCommand 0x17 cl s)
def execSilu (cl : Nat) (s : State) : Res := .next (vectorCommand 0x18 cl s)
def execSegSum (cl : Nat) (s : State) : Res := .next (vectorCommand 0x20 cl s)
def execSegSumsq (cl : Nat) (s : State) : Res := .next (vectorCommand 0x21 cl s)
def execSegMax (cl : Nat) (s : State) : Res := .next (vectorCommand 0x22 cl s)
def execSegMin (cl : Nat) (s : State) : Res := .next (vectorCommand 0x23 cl s)
def execSoftmax (cl : Nat) (s : State) : Res := .next (vectorCommand 0x24 cl s)
def execLogsumexp (cl : Nat) (s : State) : Res := .next (vectorCommand 0x25 cl s)
def execXent (cl : Nat) (s : State) : Res := .next (vectorCommand 0x26 cl s)
def execXentGrad (cl : Nat) (s : State) : Res := .next (vectorCommand 0x27 cl s)
def execSegScale (cl : Nat) (s : State) : Res := .next (vectorCommand 0x28 cl s)
def execSegSub (cl : Nat) (s : State) : Res := .next (vectorCommand 0x29 cl s)
def execSlice (cl : Nat) (s : State) : Res := .next (vectorCommand 0x30 cl s)

/-- `TOPK` (R170, R225). -/
def execTopk (cl : Nat) (s : State) : Res :=
  .next (s.issue cl (fun _ w => iClass w = 9) (fun s f => s.vecCheck cl f) (fun s f => s.vecIssue cl f))

/-- The rows that the operation takes next are not in the drain input yet. -/
def Cluster.starved (c : Cluster) (op : VecOp) : Bool :=
  vecFromDrain op.word && decide (op.row < op.rows ∧ c.drainIn.length < min (vecChunk op.word) (op.rows - op.row))

/-- `VECTOR_OP_COMPLETE`: the head of the queue works through the rows that are there, writes its results, and retires after its last
row; where it waits for rows of the drain input it counts a starved cycle (R152, R215). `checks`: what nature reports of its reads
and of the lines that it writes in part: nothing is written where one fails (R240, R241). -/
def execVectorOpComplete (cl : Nat) (checks : List MemCheck) (s : State) : Res :=
  .next (match (s.cl cl).vecQ with
    | [] => s
    | op :: _ =>
      if !s.clocked cl then s
      else if (s.cl cl).starved op then (s.modCl cl (fun c => { c with vuStarve := c.vuStarve + 1 })).bump kVuStarve 1
      else
        let (ok, s) := s.checked checks
        if !ok then s
        else
          let s := s.runVector cl op.rows
          match (s.cl cl).vecQ with
          | [] => s
          | op :: rest =>
            if op.rows ≤ op.row then ((s.modCl cl (fun c => { c with vecQ := rest })).vuRetired cl).settle cl else s)

end Sys2Proof.Machine
end

