-- ==== Sys2Proof/Machine/ArrayCmds.lean ====
section
/-! DEFINITION. The commands of the array and the drain path: passes, drains, spills, restores, known-answer passes,
their completion, diagnostic reads and the spill of a pause (04, 06, 07). -/

namespace Sys2Proof.Machine

/-! ### Passes -/

/-- The checks of R88 and R103 for a pass, against the tile and slot as they will be. -/
def passVerdict (a : Ahead) (fresh : Bool) (eref : Int) (k : Nat) (legal : Bool) : Verdict :=
  if 2 ^ 22 < (if fresh then k else a.runK + k) then .guard
  else
    match firstReason [(1, !fresh && eref != a.eref), (2, a.base = .reserved),
        (7, fresh && a.slot = .accumulated && decide (0 < a.runK)), (9, !legal)] with
    | some r => .array r
    | none => .ok

/-- The verdict of R103 on a pass instruction of extents `m`, `n`, `k`. -/
def Cluster.passCheck (c : Cluster) (w m n k : Nat) : Verdict :=
  passVerdict (c.aheadOf (iTile w)) (iFresh w) (iEref w) (if m = 0 ∨ n = 0 then 0 else k) (pairLegal (iFmtA w) (iFmtB w))

/-- Some operation in flight names a tile. -/
def Cluster.tileBusy (c : Cluster) (t : Nat) : Bool :=
  c.arrayQ.any (fun o => o.tile = t) || c.drainQ.any (fun o => o.tile = t ∧ o.kind ≠ .drainSlot)

/-- A pass is queued to the array, or completes at issue where it uses no array cycles (R91). -/
def State.passIssue (s : State) (cl : Nat) (f : Fetched) (kind : PassKind) (m n k : Nat) : State :=
  let w := f.word
  let t := iTile w
  let c := s.cl cl
  let a := c.aheadOf t
  if m = 0 ∨ n = 0 ∨ (k = 0 ∧ !iFresh w) then s.passRetired cl
  else
    let a' := { a with base := .live, eref := iEref w, runK := if iFresh w then k else a.runK + k }
    let s := s.modCl cl (fun c => c.setAhead t a')
    if k = 0 ∧ !c.tileBusy t then
      (s.modCl cl (fun c => c.setTile t { base := .live, acc := [], eref := iEref w, runK := 0 })).passRetired cl
    else
      let op : PassOp := ⟨c.issueNo, kind, t, w, m, n, k, f.step, f.idx⟩
      (s.place cl).2.modCl cl (fun c => { c with arrayQ := c.arrayQ ++ [op] })

/-- The extents of a pass (R156, R160). -/
def Cluster.passExtents (c : Cluster) (w : Nat) : Nat × Nat × Nat :=
  (c.extent (iMMax w) (iMSel w), c.extent (iNMax w) (iNSel w), c.extent (iKMax w) (iKSel w))
/-- The extents with their selectors and maxima, in order. -/
def Cluster.passMaxima (c : Cluster) (w : Nat) : List (Nat × Nat × Nat) :=
  let (m, n, k) := c.passExtents w
  [(iMSel w, m, iMMax w), (iNSel w, n, iNMax w), (iKSel w, k, iKMax w)]

/-- Reasons 1 and 2 of R179 for an array pass. -/
def sizeReason (w : Nat) : Bool := decide (128 < iMMax w ∨ 128 < iNMax w)
def formatReason (w : Nat) : Bool := !isArrayOperand (iFmtA w) || !isArrayOperand (iFmtB w)
/-- The B panel reaches past feeder SRAM. -/
def bReach (w : Nat) (lane : Bool) : Bool := decide (feederBytes < panelEnd (iBAddr w) lane (iMx w) (iBAlt w) (iKMax w) (fmtWidth (iFmtB w)))

/-- The checks of `MATRIX` (R178, R179). -/
def State.matrixCheck (s : State) (cl : Nat) (f : Fetched) : Verdict :=
  let w := f.word
  let c := s.cl cl
  let (m, n, k) := c.passExtents w
  verdict1 [(1, sizeReason w), (2, formatReason w),
      (3, decide (feederBytes < panelEnd (iAAddr w) (iALane w) (iMx w) (iAAlt w) (iKMax w) (fmtWidth (iFmtA w))) || bReach w (iBLane w))]
    (c.passMaxima w) (c.passCheck w m n k)

/-- `MATRIX` (R160). -/
def execMatrix (cl : Nat) (s : State) : Res :=
  .next (s.issue cl (fun _ w => iClass w = 1) (fun s f => s.matrixCheck cl f)
    (fun s f => let (m, n, k) := (s.cl cl).passExtents f.word; s.passIssue cl f .matrix m n k))

/-- Reason 3 for the stored window and scale plane of a conv or crop pass (R191, R192). -/
def windowReason (d : Bytes) (fmt : Nat) (mx : Bool) (scaleAddr scalePos : Nat) : Bool :=
  let chans := fieldAt d 0x1C 2 + fieldAt d 0x1E 2
  decide (feederBytes < fieldAt d 4 4 * 64 + windowSpan d (packedBytes (fmtWidth fmt) chans)) || decide (2 ^ 15 ≤ fieldAt d 4 4)
    || (mx && (decide (feederBytes < scaleAddr * 64 + (fieldAt d 8 2 * fieldAt d 0xA 2 - 1) * scalePos + max scalePos ((chans + 31) / 32))
        || fieldAt d 0x1C 2 % 32 != 0 || fieldAt d 0x1E 2 % 32 != 0))

/-- A resolved position on a valid lane lies outside the stored window (R191). -/
def convOutside (d : Bytes) (m k : Nat) : Bool :=
  (List.range m).any fun i => convInMap d (convOut d (fieldAt d 0x38 4 + i)) &&
    (List.range ((k + fieldAt d 0x1E 2 - 1) / fieldAt d 0x1E 2)).any fun t =>
      match (convSource d i (t * fieldAt d 0x1E 2)).1 with
      | .stored r c => !inWindow d r c
      | _ => false

/-- Reason 3 of a conv pass (R191). -/
def convReason (d : Bytes) (w m k : Nat) : Bool :=
  !convFieldsOk d || fieldAt d 0x36 2 != 0 || decide (fieldAt d 0x20 1 * fieldAt d 0x21 1 * fieldAt d 0x1E 2 < iKMax w)
    || windowReason d (iFmtA w) (iMx w) (fieldAt d 0x3C 2 % 2 ^ 15) (fieldAt d 0x3E 2) || convOutside d m k

/-- The checks of `CONV` with a conv geometry descriptor, or with no usable descriptor (R191). -/
def State.convCheck (s : State) (cl : Nat) (f : Fetched) : Verdict :=
  let w := f.word
  let c := s.cl cl
  let (m, n, k) := c.passExtents w
  let d := (s.desc (iGeom w)).getD []
  let good := (s.desc (iGeom w)).isSome && ddType d == 3 && bitsOf (fieldAt d 2 2) 3 3 == 0
  verdict1 [(1, sizeReason w), (2, formatReason w),
      (3, bReach w (bitsOf (fieldAt d 2 2) 2 2 == 1) || (good && convReason d w m k)), (5, !good), (9, iAAlt w)]
    (c.passMaxima w) (c.passCheck w m n k)

/-- The descriptor that a `CONV` instruction names is a crop geometry descriptor. -/
def State.namesCrop (s : State) (w : Nat) : Bool := match s.desc (iGeom w) with | some d => ddType d == 4 | none => false

/-- `CONV` (R162, R186). -/
def execConv (cl : Nat) (s : State) : Res :=
  .next (s.issue cl (fun s w => iClass w = 2 ∧ !s.namesCrop w) (fun s f => s.convCheck cl f)
    (fun s f => let (m, n, k) := (s.cl cl).passExtents f.word; s.passIssue cl f .conv m n k))

/-- The fields of a crop descriptor (R187, R196). -/
def cropFieldsOk (d : Bytes) : Bool :=
  let inR (o n lo hi : Nat) := decide (lo ≤ fieldAt d o n ∧ fieldAt d o n ≤ hi)
  inR 8 2 1 32767 && inR 0xA 2 1 32767 && inR 0x10 2 1 32767 && inR 0x12 2 1 32767 &&
  decide (fieldAt d 0x14 2 % 16 = 0) && decide (fieldAt d 0x18 4 % 64 = 0) && inR 0x1E 2 1 4096 &&
  inR 0x26 1 1 255 && inR 0x27 1 1 255 && decide (fieldAt d 0x28 1 < fieldAt d 0x26 1) && decide (fieldAt d 0x29 1 < fieldAt d 0x27 1) &&
  decide (fieldAt d 0x20 4 < 2 ^ 15)

/-- The checks of `CONV` with a crop geometry descriptor (R196 to R200). -/
def State.cropCheck (s : State) (cl : Nat) (f : Fetched) : Verdict :=
  let w := f.word
  let c := s.cl cl
  let (m, n, k) := c.passExtents w
  let d := (s.desc (iGeom w)).getD []
  verdict1 [(1, sizeReason w), (2, formatReason w),
      (3, bReach w (bitsOf (fieldAt d 2 2) 1 1 == 1) || !cropFieldsOk d || k != 8 * fieldAt d 0x1E 2
          || windowReason d (iFmtA w) (iMx w) (fieldAt d 0x2C 2 % 2 ^ 15) (fieldAt d 0x2E 2)
          || decide (feederBytes < fieldAt d 0x20 4 * 64 + 16 * (fieldAt d 0x24 2 + iMMax w))), (9, iAAlt w)]
    (c.passMaxima w) (c.passCheck w m n k)

/-- Counter of R210. -/
def kCropClamps : Nat := objKey 0x3022 0

/-- `CROP`: neighbours resolved against the stored window are counted, the first of a step by an event (R200, R211). -/
def execCrop (cl : Nat) (s : State) : Res :=
  .next (s.issue cl (fun s w => iClass w = 2 ∧ s.namesCrop w) (fun s f => s.cropCheck cl f)
    (fun s f =>
      let (m, n, k) := (s.cl cl).passExtents f.word
      let clamps := if n = 0 then 0 else s.cropClamps cl m ((s.desc (iGeom f.word)).getD [])
      let s := if clamps = 0 then s
        else (s.bump kCropClamps clamps).eventOnce 3 f.step (s.seqSrc cl) 0x2500 (u16 (iGeom f.word))
      s.passIssue cl f .crop m n k))

/-- The checks of `ELEMWISE` (R163). -/
def State.elemCheck (s : State) (cl : Nat) (f : Fetched) : Verdict :=
  let w := f.word
  let c := s.cl cl
  let (m, _, k) := c.passExtents w
  let reach (addr fmt : Nat) := decide (feederBytes < addr * 64 + iKMax w * elemPlane (iMx w) (fmtWidth fmt))
  verdict1 [(1, sizeReason w), (2, formatReason w), (3, reach (iAAddr w) (iFmtA w) || reach (iBAddr w) (iFmtB w)),
      (9, iNMax w != 0 || iNSel w != 0 || iALane w || iBLane w || iAAlt w || iBAlt w)]
    [(iMSel w, m, iMMax w), (iKSel w, k, iKMax w)] (c.passCheck w m 128 k)

/-- `ELEMWISE` (R92, R163). -/
def execElemwise (cl : Nat) (s : State) : Res :=
  .next (s.issue cl (fun _ w => iClass w = 3) (fun s f => s.elemCheck cl f)
    (fun s f => let (m, _, k) := (s.cl cl).passExtents f.word; s.passIssue cl f .elemwise m 128 k))

/-- `NOP`. -/
def execNop (cl : Nat) (s : State) : Res := .next (s.issue cl (fun _ w => iClass w = 0) (fun _ _ => .ok) (fun s _ => s))

/-- A known-answer pass is queued: its pass to the array, its check to the drain path (R110, R153). -/
def State.katIssue (s : State) (cl : Nat) (f : Fetched) : State :=
  let c := s.cl cl
  let t := iTile f.word
  let a := c.aheadOf t
  let pass : PassOp := ⟨c.issueNo, .kat, t, f.word, 128, 128, 128, f.step, f.idx⟩
  let chk : DrainOp := { n := c.issueNo, kind := .katCheck, tile := t, word := f.word, m := 128, nn := 128, rowBits := 0,
                         colBits := 0, step := f.step, idx := f.idx }
  (s.place cl).2.modCl cl (fun c =>
    { c.setAhead t { a with base := .idle, runK := 0 } with arrayQ := c.arrayQ ++ [pass], drainQ := c.drainQ ++ [chk] })

/-- `KAT` (R110, R164): reasons 2 and 7 of R103. -/
def execKat (cl : Nat) (s : State) : Res :=
  .next (s.issue cl (fun _ w => iClass w = 4)
    (fun s f =>
      let a := (s.cl cl).aheadOf (iTile f.word)
      match firstReason [(2, a.base = .reserved), (7, a.slot = .accumulated && decide (0 < a.runK))] with
      | some r => .array r
      | none => .ok)
    (fun s f => s.katIssue cl f))

/-! ### Drains, spills, restores -/

/-- The mask a drain applies (R165, R167). -/
def Cluster.drainMask (c : Cluster) (w : Nat) : Nat × Nat :=
  if dMask w = 0 then (allOnes128, allOnes128) else c.mask (dMask w - 1)

/-- Reason 3 of a drain (R166, R179). -/
def State.drainReach (s : State) (w m n : Nat) : Bool :=
  if dKind w = 0 then
    let e := (localEnd (dAddr w)).getD 0
    let last := dAddr w + (m - 1) * dPitch w + packedBytes (fmtWidth (dFmt w)) n
    let plane := drainPlane w + ((n + 31) / 32 - 1) * 128 + m
    dAddr w % 32 != 0 || dPitch w % 64 != 0 || (localEnd (dAddr w)).isNone
      || (m != 0 && n != 0 && (decide (e < last) || (iMx w && decide (e < plane))))
  else if dKind w = 2 then
    let d := (s.desc (dPitch w)).getD []
    (s.desc (dPitch w)).isSome && ddType d == 2 && m != 0 && n != 0
      && decide (fieldAt d 0x18 8 ≤ dAddr w + (m - 1) * fieldAt d 0x10 8 + (n - 1))
  else false

/-- Reason 2 of a drain: the destination form (R137, R166). -/
def drainFormat (w : Nat) : Bool :=
  match dKind w with
  | 0 => !isDrainForm (dFmt w)
  | 1 => dFmt w != 0
  | 2 => dFmt w != 0 && dFmt w != 0xF
  | _ => !(isDrainForm (dFmt w) || dFmt w == 0xF)

/-- The checks of `DRAIN` (R165, R178, R179); `slotReasons`: the checks of R103. -/
def State.drainCheck (s : State) (cl : Nat) (f : Fetched) : Verdict :=
  let w := f.word
  let c := s.cl cl
  let m := c.extent (dMMax w) (dMSel w)
  let n := c.extent (dNMax w) (dNSel w)
  let a := c.aheadOf (iTile w)
  let rest := if dFromSlot w then firstReason [(8, a.slot = .empty)]
    else firstReason [(2, a.base = .reserved), (6, a.slot = .accumulated)]
  verdict1 [(1, decide (128 < dMMax w ∨ 128 < dNMax w)), (2, drainFormat w), (3, s.drainReach w m n),
      (4, decide (5 ≤ dMask w) || decide (3 ≤ dKind w)),
      (5, dKind w == 2 && !(match s.desc (dPitch w) with | some d => ddType d == 2 | none => false)),
      (8, iMx w && !isMxForm (dFmt w))]
    [(dMSel w, m, dMMax w), (dNSel w, n, dNMax w)] (match rest with | some r => .array r | none => .ok)

/-- Put an operation into the drain-path queue. -/
def State.drainPut (s : State) (cl : Nat) (f : Fetched) (kind : DrainKind) (m n : Nat) (mask : Nat × Nat) : State :=
  let op : DrainOp := { n := (s.cl cl).issueNo, kind := kind, tile := iTile f.word, word := f.word, m := m, nn := n,
                        rowBits := mask.1, colBits := mask.2, step := f.step, idx := f.idx }
  (s.place cl).2.modCl cl (fun c => { c with drainQ := c.drainQ ++ [op] })

/-- A drain is accepted: extents and mask are read now (R94, R156). -/
def State.drainIssue (s : State) (cl : Nat) (f : Fetched) : State :=
  let w := f.word
  let c := s.cl cl
  let t := iTile w
  let a := c.aheadOf t
  let s := if dFromSlot w then s.modCl cl (fun c => c.setAhead t { a with slot := .empty }) else s
  s.drainPut cl f (if dFromSlot w then .drainSlot else .drain) (c.extent (dMMax w) (dMSel w)) (c.extent (dNMax w) (dNSel w)) (c.drainMask w)

/-- `DRAIN` of a tile (R165). -/
def execDrain (cl : Nat) (s : State) : Res :=
  .next (s.issue cl (fun _ w => iClass w = 5 ∧ !dFromSlot w) (fun s f => s.drainCheck cl f) (fun s f => s.drainIssue cl f))
/-- `DRAIN` of a slot (R102, R165). -/
def execDrainSlot (cl : Nat) (s : State) : Res :=
  .next (s.issue cl (fun _ w => iClass w = 5 ∧ dFromSlot w) (fun s f => s.drainCheck cl f) (fun s f => s.drainIssue cl f))

/-- `SPILL` in store mode (R102). -/
def execSpillStore (cl : Nat) (s : State) : Res :=
  .next (s.issue cl (fun _ w => iClass w = 6 ∧ !iFresh w)
    (fun s f =>
      let a := (s.cl cl).aheadOf (iTile f.word)
      match firstReason [(2, a.base = .reserved), (3, a.slot ≠ .empty)] with | some r => .array r | none => .ok)
    (fun s f =>
      let a := (s.cl cl).aheadOf (iTile f.word)
      (s.modCl cl (fun c => c.setAhead (iTile f.word)
        { a with base := .reserved, runK := 0, slot := .stored, slotEref := a.eref, slotRunK := a.runK })).drainPut cl f .spillStore 128 128 (0, 0)))

/-- `SPILL` in add mode (R102). -/
def execSpillAdd (cl : Nat) (s : State) : Res :=
  .next (s.issue cl (fun _ w => iClass w = 6 ∧ iFresh w)
    (fun s f =>
      let a := (s.cl cl).aheadOf (iTile f.word)
      match firstReason [(2, a.base = .reserved),
          (4, a.slot = .stored || (a.slot = .accumulated && a.slotEref != a.eref))] with
      | some r => .array r | none => .ok)
    (fun s f =>
      let a := (s.cl cl).aheadOf (iTile f.word)
      (s.modCl cl (fun c => c.setAhead (iTile f.word)
        { a with base := .idle, runK := 0, slot := .accumulated, slotEref := a.eref, slotRunK := 0 })).drainPut cl f .spillAdd 128 128 (0, 0)))

/-- `RESTORE` (R102). -/
def execRestore (cl : Nat) (s : State) : Res :=
  .next (s.issue cl (fun _ w => iClass w = 7)
    (fun s f => if ((s.cl cl).aheadOf (iTile f.word)).slot ≠ .stored then .array 5 else .ok)
    (fun s f =>
      let a := (s.cl cl).aheadOf (iTile f.word)
      (s.modCl cl (fun c => c.setAhead (iTile f.word)
        { a with base := .live, eref := a.slotEref, runK := a.slotRunK, slot := .empty })).drainPut cl f .restore 128 128 (0, 0)))

/-! ### Completion -/

/-- A known-answer pass leaves the array: its tile holds the generator's sums until the check, `RUN_K` 0, and keeps its `E_REF`
(the spec gives the pass none: DESIGN CHOICE, log 100). -/
def Cluster.katRun (c : Cluster) (t : Nat) : Cluster := c.setTile t { (c.tile t) with acc := [], runK := 0 }

/-- `ARRAY_PASS_COMPLETE`: the head pass's sums reach the tile and it retires; a held pass counts a stall cycle (R98,
R99, R152). A known-answer pass leaves its check on the drain path. `checks`: what nature reports of the feeder reads; a pass
with a read that fails its check does not complete. -/
def execArrayPassComplete (cl : Nat) (checks : List MemCheck) (s : State) : Res :=
  .next (match (s.cl cl).arrayQ with
    | [] => s
    | op :: rest =>
      if !s.clocked cl then s
      else if (s.cl cl).held op then (s.modCl cl (fun c => { c with stallCycles := c.stallCycles + 1 })).bump kStalls 1
      else
        let (ok, s) := s.checked checks
        if !ok then s
        else
          let pop (s : State) := s.modCl cl (fun c => { c with arrayQ := rest })
          if op.kind = .kat then (((pop s).modCl cl fun c => c.katRun op.tile).bump kKSteps op.cycles).settle cl
          else ((pop (s.passEffect cl op)).passRetired cl).settle cl)

/-- The operation at the head of the drain path after its effect on the slot or tile (R102). -/
def Cluster.drainDone (c : Cluster) (d : DrainOp) : Cluster :=
  match d.kind with
  | .drain => c
  | .drainSlot => c.setSlot d.tile {}
  | .spillStore => c.spillStore d.tile false
  | .spillAdd => c.spillAdd d.tile
  | .restore => c.restore d.tile
  | .katCheck => c.setTile d.tile { base := .idle, acc := [], eref := (c.tile d.tile).eref, runK := 0 }

/-- The head of the drain path retires (R152). -/
def State.drainRetire (s : State) (cl : Nat) (d : DrainOp) : State :=
  (s.modCl cl (fun c => { (c.drainDone d) with drainQ := c.drainQ.drop 1 })).settle cl

/-- Rows of a drain-path operation that write to a destination. -/
def DrainOp.sendsRows (d : DrainOp) : Bool := d.kind = .drain || d.kind = .drainSlot
/-- A drain writes nothing: its extent is zero, or its mask keeps no element of it. Rows of a drain to the drain input are
delivered masked or not (R166). -/
def DrainOp.writesNothing (d : DrainOp) : Bool :=
  d.m == 0 || d.nn == 0 || (dKind d.word != 1 && (d.rowBits % 2 ^ d.m == 0 || d.colBits % 2 ^ d.nn == 0))

/-- `DRAIN_FENCE`: every pass issued on the tile before has reached the accumulate stage, and the head of the drain path
begins to read rows; a drain that writes nothing, of zero extent or with every element masked, retires here (R91, R94, R97,
R152). -/
def execDrainFence (cl : Nat) (s : State) : Res :=
  .next (match (s.cl cl).drainQ with
    | [] => s
    | d :: _ =>
      if !s.clocked cl ∨ d.fenced ∨ (d.kind ≠ .drainSlot ∧ (s.cl cl).arrayQ.any (fun o => o.n ≤ d.n ∧ o.tile = d.tile)) then s
      else if d.sendsRows ∧ d.writesNothing then s.drainRetire cl d
      else s.modCl cl (fun c => { c with drainQ := { d with fenced := true } :: c.drainQ.drop 1 }))

/-- The head of the drain path goes on to its next row. -/
def State.rowTaken (s : State) (cl : Nat) (d : DrainOp) : State :=
  s.modCl cl (fun c => { c with drainQ := { d with row := d.row + 1 } :: c.drainQ.drop 1 })
/-- The head of the drain path writes a row, if it is accepted. -/
def State.drainOne (s : State) (cl : Nat) (d : DrainOp) : State :=
  match s.drainRow cl d d.row with | some t => t.rowTaken cl d | none => s

/-- A residue mismatch at (row, column) (R470). -/
def State.residueFail (s : State) (cl tile row col : Nat) : State :=
  s.fault (s.seqSrc cl) 0x1203 (u32 (cl % 12) ++ u32 tile ++ u32 row ++ u32 col)

/-- `DRAIN_ROW_WRITE`: the row the drain path holds is accepted and it reads on; `residue`: the column whose residue
mismatched, if one did (R96, R470). The last row belongs to the operation's completion. `checks`: what nature reports of the
lines that the row covers in part; the row is not written where one fails (R241). -/
def execDrainRowWrite (cl : Nat) (residue : Option Nat) (checks : List MemCheck) (s : State) : Res :=
  .next (match (s.cl cl).drainQ with
    | [] => s
    | d :: _ =>
      if !s.clocked cl ∨ !d.fenced ∨ d.m ≤ d.row + 1 then s
      else
        match residue with
        | some col => s.residueFail cl d.tile d.row col
        | none =>
          let (ok, s) := s.checked checks
          if !ok then s
          else if d.sendsRows then s.drainOne cl d else s.rowTaken cl d)

/-- Write the rows that the drain at the head of the path has left; it stops at a row that is not accepted. -/
def State.drainRows (s : State) (cl : Nat) : Nat → State
  | 0 => s
  | fuel + 1 =>
    match (s.cl cl).drainQ with
    | [] => s
    | d :: _ => if d.m ≤ d.row ∨ (s.drainRow cl d d.row).isNone then s else (s.drainOne cl d).drainRows cl fuel

/-- `DRAIN_PATH_OP_COMPLETE`: the head of the drain path writes its remaining rows and retires (R102, R152). `checks`: what
nature reports of its reads: lines that are written in part (R241), a slot's lines in the spill buffer. -/
def execDrainPathOpComplete (cl : Nat) (checks : List MemCheck) (s : State) : Res :=
  .next (match (s.cl cl).drainQ with
    | [] => s
    | d :: _ =>
      if !s.clocked cl ∨ !d.fenced ∨ d.kind = .katCheck then s
      else
        let (ok, s) := s.checked checks
        if !ok then s
        else if d.sendsRows then
          let s := s.drainRows cl d.m
          match (s.cl cl).drainQ with
          | [] => s
          | d :: _ => if d.m ≤ d.row then s.drainRetire cl d else s
        else s.drainRetire cl d)

/-- `KAT_CHECK_COMPLETE`: the checker has read the last row; `signature`: the CRC-64 it formed; `residue`: a residue
mismatch (row, column) (R110 to R112, R470). -/
def execKatCheckComplete (cl signature : Nat) (residue : Option (Nat × Nat)) (s : State) : Res :=
  .next (match (s.cl cl).drainQ with
    | [] => s
    | d :: _ =>
      if !s.clocked cl ∨ !d.fenced ∨ d.kind ≠ .katCheck then s
      else
        match residue with
        | some (row, col) => s.residueFail cl d.tile row col
        | none =>
          let p := (s.cl cl).katNext
          if signature ≠ Config.katSignature p then s.fault (s.seqSrc cl) 0x2200 (u8 p)
          else
            let mark := s.planNow - s.job.startBeat * 2 ^ 16
            let s := (s.modCl cl (fun c =>
              { c with katNext := (p + 1) % 8, katCount := c.katCount + 1, katHold := false, katMark := mark })).bump kKats 1
            (s.passRetired cl).drainRetire cl d)

/-- The plan time since a cluster's last completed known-answer pass, in sub-beat units (R112). -/
def State.katGap (s : State) (cl : Nat) : Nat := s.planNow - s.job.startBeat * 2 ^ 16 - (s.cl cl).katMark

/-- `KAT_MISSED`: the measure of an array that the plan uses exceeds `KAT_PERIOD_BEATS` (R112). -/
def execKatMissed (cl : Nat) (s : State) : Res :=
  .next (match s.job.plan with
    | none => s
    | some p =>
      if (s.job.state = .running ∨ s.job.state = .paused) ∧ (s.stream cl).isSome = true ∧ p.katPeriod * 2 ^ 16 < s.katGap cl
      then s.fault (s.seqSrc cl) 0x2201 else s)

/-! ### Diagnostic reads (R97, R120) -/

/-- `XA_DIAG_SEL`: the write clears `DIAG_VALID` and starts a capture. -/
def State.diagSelect (s : State) (die n value : Nat) : State :=
  match s.clusterAt die n with
  | none => s
  | some cl => s.modCl cl (fun c => { c with diagSel := bitsOf value 16 0, diagValid := false, diagBusy := true })
def execXaDiagSel (die n value : Nat) (s : State) : Res := .next (s.diagSelect die n value)

/-- The value of accumulator (i, j) of a tile while `ksteps` K-step cycles of the pass in the pipeline have reached the
accumulate stage (R97): element-wise passes go plane by plane, with the rows inside (R92); a known-answer pass's operands are
the generator's own. -/
def State.prefence (s : State) (cl : Nat) (op : PassOp) (i j ksteps : Nat) : Int :=
  let t := (s.cl cl).tile op.tile
  let start := if (iFresh op.word ∨ op.kind = .kat) ∧ 0 < ksteps then 0 else sget 0 t.acc (128 * i + j)
  let p := packP (iFmtA op.word)
  match op.kind with
  | .kat => if ksteps = 0 then start else signed 120 (unsigned 120 (Config.katSum ((s.cl cl).katPattern op.n) ksteps i j))
  | .elemwise =>
    let done := min op.k ((ksteps + op.m - 1 - i) / op.m * p)
    if i < op.m then start + ((s.elemFeed cl op.word i).cell (iEref op.word) (iShift op.word) j j done).1 else start
  | _ =>
    if i < op.m ∧ j < op.nn ∧ (s.feedOf cl op).row i then
      start + ((s.feedOf cl op).cell (iEref op.word) (iShift op.word) i j (min op.k (ksteps * p))).1
    else start

/-- The value of accumulator (i, j) of a tile that no pass in the pipeline names: the generator's sums between a known-answer
pass and its check, and the rows that a restore has already written (R97). -/
def Cluster.tileNow (c : Cluster) (t i j : Nat) : Int :=
  match c.katOn t with
  | some d => signed 120 (unsigned 120 (Config.katSum (c.katPattern d.n) 128 i j))
  | none =>
    match c.drainQ with
    | d :: _ => if d.kind = .restore ∧ d.tile = t ∧ d.fenced ∧ i < d.row then sget 0 (c.slot t).elems (128 * i + j)
      else sget 0 (c.tile t).acc (128 * i + j)
    | [] => sget 0 (c.tile t).acc (128 * i + j)

/-- `XA_DIAG_CAPTURE_DONE`: the capture completes with the value the accumulator holds; `ksteps`: K-step cycles of the
pass in the pipeline that have reached the accumulate stage; `residueOk`: the residue matched (R97, R120, R470). -/
def execXaDiagCaptureDone (die n ksteps : Nat) (residueOk : Bool) (s : State) : Res :=
  .next (match s.clusterAt die n with
    | none => s
    | some cl =>
      let c := s.cl cl
      if !c.diagBusy then s
      else
        let t := bitsOf c.diagSel 16 16
        let i := bitsOf c.diagSel 15 8
        let j := bitsOf c.diagSel 7 0
        let pass := c.inPipe.filter fun op => op.tile = t
        let v := if 127 < i ∨ 127 < j then 0
          else match pass with
            | some op => s.prefence cl op i j ksteps
            | none => c.tileNow t i j
        let s := s.modCl cl (fun c => { c with diagData := v, diagValid := true, diagBusy := false,
                                               diagPrefence := c.diagPrefence || pass.isSome })
        let s := if pass.isSome then s.bump kPrefence 1 else s
        if residueOk then s else s.residueFail cl t i j)

/-- `CLUSTER_PAUSE_SPILL`: a cluster paused at a pass boundary spills its tiles once its issued work has completed (R105). -/
def execClusterPauseSpill (cl : Nat) (s : State) : Res :=
  let c := s.cl cl
  .next (if s.job.state = .paused ∧ s.job.frozenByPass = true ∧ (s.stream cl).isSome = true ∧ c.pauseSpilled = false ∧
      c.arrayQ = [] ∧ c.drainQ = []
    then s.modCl cl (fun c => let d := (c.pauseSpill 0).pauseSpill 1; { d with pauseSpilled := true })
    else s)

end Sys2Proof.Machine
end

