-- ==== Sys2Proof/Machine/Keccak.lean ====
section
/-! DEFINITION. SHAKE256 (named by R48, R446, R518; its definition is FIPS 202, outside the spec: PRESUMED, log 6). -/

namespace Sys2Proof.Machine

/-- The 25 lanes of the Keccak state, lane x + 5y. -/
abbrev Lanes := List (BitVec 64)

/-- Lane `(x, y)`, indices modulo 5. -/
def lane (a : Lanes) (x y : Nat) : BitVec 64 := a.getD (x % 5 + 5 * (y % 5)) 0#64

/-- The round constants of Keccak-f[1600]. -/
def keccakRC : List (BitVec 64) :=
  [0x0000000000000001#64, 0x0000000000008082#64, 0x800000000000808A#64, 0x8000000080008000#64,
   0x000000000000808B#64, 0x0000000080000001#64, 0x8000000080008081#64, 0x8000000000008009#64,
   0x000000000000008A#64, 0x0000000000000088#64, 0x0000000080008009#64, 0x000000008000000A#64] ++
  [0x000000008000808B#64, 0x800000000000008B#64, 0x8000000000008089#64, 0x8000000000008003#64,
   0x8000000000008002#64, 0x8000000000000080#64, 0x000000000000800A#64, 0x800000008000000A#64,
   0x8000000080008081#64, 0x8000000000008080#64, 0x0000000080000001#64, 0x8000000080008008#64]

/-- The rotation of lane x + 5y. -/
def keccakRot : List Nat :=
  [0, 1, 62, 28, 27, 36, 44, 6, 55, 20, 3, 10, 43] ++ [25, 39, 41, 45, 15, 21, 8, 18, 2, 61, 56, 14]

/-- One round of Keccak-f[1600]. -/
def keccakRound (a : Lanes) (rc : BitVec 64) : Lanes :=
  let c := (List.range 5).map fun x => lane a x 0 ^^^ lane a x 1 ^^^ lane a x 2 ^^^ lane a x 3 ^^^ lane a x 4
  let d := (List.range 5).map fun x => c.getD ((x + 4) % 5) 0#64 ^^^ (c.getD ((x + 1) % 5) 0#64).rotateLeft 1
  let t := (List.range 25).map fun i => a.getD i 0#64 ^^^ d.getD (i % 5) 0#64
  -- lane (x, y) of the next array comes from lane (x + 3y, x), rotated
  let b := (List.range 25).map fun i =>
    let x := i % 5
    let y := i / 5
    let src := (x + 3 * y) % 5 + 5 * x
    (t.getD src 0#64).rotateLeft (keccakRot.getD src 0)
  let e := (List.range 25).map fun i =>
    let x := i % 5
    let y := i / 5
    lane b x y ^^^ (~~~ (lane b (x + 1) y) &&& lane b (x + 2) y)
  match e with
  | [] => []
  | e0 :: es => (e0 ^^^ rc) :: es

/-- Keccak-f[1600]. -/
def keccakF (a : Lanes) : Lanes := keccakRC.foldl keccakRound a

/-- The lanes of one 136-byte block of SHAKE256. -/
def absorbBlock (a : Lanes) (block : Bytes) : Lanes :=
  keccakF ((List.range 25).map fun i =>
    a.getD i 0#64 ^^^ (if i < 17 then BitVec.ofNat 64 (fieldAt block (8 * i) 8) else 0#64))

/-- Absorb a padded message, `fuel` blocks at most. -/
def absorb : Nat → Lanes → Bytes → Lanes
  | 0, a, _ => a
  | fuel + 1, a, bs => if bs.isEmpty then a else absorb fuel (absorbBlock a (bs.take 136)) (bs.drop 136)

/-- The padding of SHAKE256. -/
def shakePad (n : Nat) : Bytes :=
  let k := 136 - n % 136
  if k = 1 then [0x9F#8] else [0x1F#8] ++ List.replicate (k - 2) 0#8 ++ [0x80#8]

/-- The bytes of the lanes. -/
def lanesBytes (a : Lanes) : Bytes := a.flatMap fun l => leBytes 8 l.toNat

/-- SHAKE256 with an output of `n` bytes, `n` at most 136 (the part uses 32 and 64). -/
def shake256 (n : Nat) (msg : Bytes) : Bytes :=
  let m := msg ++ shakePad msg.length
  (lanesBytes (absorb (m.length / 136 + 1) (List.replicate 25 0#64) m)).take n

end Sys2Proof.Machine
end

