-- ==== Sys2Proof/Machine/Dma.lean ====
section
/-! DEFINITION. The cluster DMA engine: transfers in the module and to a peer, the stash window, bank control writes and
power changes (R171, R172, R244 to R249, R274 to R276, R385). -/

namespace Sys2Proof.Machine

/-! ### Descriptors -/

def dmaIndex (w : Nat) : Nat := bitsOf w 122 99
def dmaSel (w : Nat) : Nat := bitsOf w 98 94
def ddFlag (d : Bytes) : Bool := bitsOf (fieldAt d 2 2) 0 0 == 1
def ddSync (d : Bytes) : Nat := bitsOf (fieldAt d 4 2) 13 0
def ddPeer (d : Bytes) : Nat := fieldAt d 6 2
def ddLocal (d : Bytes) : Bool := ddPeer d == 0xFFFF
def ddSrc (d : Bytes) : Nat := fieldAt d 8 8
def ddDst (d : Bytes) : Nat := fieldAt d 0x10 8
def ddRowBytes (d : Bytes) : Nat := fieldAt d 0x18 4
def ddRowsMax (d : Bytes) : Nat := fieldAt d 0x1C 4
def ddSrcPitch (d : Bytes) : Nat := fieldAt d 0x20 8
def ddDstPitch (d : Bytes) : Nat := fieldAt d 0x28 8

/-- The descriptor of a `DMA` instruction. -/
def State.dmaDesc (s : State) (w : Nat) : Option Bytes := s.desc (dmaIndex w)
/-- The instruction submits a limber job: a conv geometry descriptor with `LIMBER` 1 (R202). -/
def State.namesLimber (s : State) (w : Nat) : Bool :=
  match s.dmaDesc w with | some d => ddType d == 3 && bitsOf (fieldAt d 2 2) 3 3 == 1 | none => false
/-- The instruction writes control register space (R244). -/
def State.namesControl (s : State) (w : Nat) : Bool :=
  match s.dmaDesc w with | some d => ddType d == 1 && ddLocal d && decide (ctrlBase ≤ ddDst d) | none => false

/-- The planned maximum and the valid row count (R156). -/
def dmaMax (d : Bytes) : Nat := if ddType d = 1 then ddRowsMax d else fieldAt d 0x36 2
def State.dmaRows (s : State) (cl w : Nat) (d : Bytes) : Nat := (s.cl cl).extent (dmaMax d) (dmaSel w)

/-! ### Checks of a transfer (R172, R179, R235, R244, R274, R275, R294, R385) -/

/-- An address or pitch that R172 wants aligned is not. -/
def ddMisaligned (d : Bytes) : Bool :=
  [ddSrc d, ddDst d, ddRowBytes d, ddSrcPitch d, ddDstPitch d].any fun x => x % 64 != 0

/-- The bytes that `rows` rows span from the first address. -/
def rowSpan (rows pitch rowBytes : Nat) : Nat := (rows - 1) * pitch + rowBytes

/-- A used port reaches module `m` directly, by the plan (R385). -/
def State.reaches (s : State) (m : Nat) : Bool := (List.range 16).any fun n => (s.peer n).used && (s.peer n).module == m

/-- The rows of one side of a transfer are not where a transfer may reach. A stash write beyond the stash is not refused
here: R275 handles it. -/
def State.sideBad (s : State) (a span : Nat) (write : Bool) : Bool :=
  if inStash a then
    !(decide (stashOffset a + span ≤ 2 ^ 40)) || (!write && decide ((s.stashDecl (stashBranch a)).limit < stashOffset a + span))
  else !s.decodes a span

/-- Reason 3 of a transfer of `rows` rows. -/
def State.transferBad (s : State) (d : Bytes) (rows : Nat) : Bool :=
  ddMisaligned d || decide (ctrlBase ≤ ddSrc d) || (!ddLocal d && (!s.reaches (ddPeer d) || decide (ctrlBase ≤ ddDst d) || inStash (ddSrc d) || inStash (ddDst d)))
    || (decide (0 < rows ∧ 0 < ddRowBytes d) &&
        (s.sideBad (ddSrc d) (rowSpan rows (ddSrcPitch d) (ddRowBytes d)) false
          || (ddLocal d && s.sideBad (ddDst d) (rowSpan rows (ddDstPitch d) (ddRowBytes d)) true)))

/-- The checks of R178 for a transfer. -/
def State.transferCheck (s : State) (cl : Nat) (f : Fetched) : Verdict :=
  match s.dmaDesc f.word with
  | none => .field 5
  | some d =>
    let rows := s.dmaRows cl f.word d
    verdict1 [(3, ddType d == 1 && s.transferBad d rows), (5, ddType d != 1)] [(dmaSel f.word, rows, ddRowsMax d)] .ok

/-! ### Moving rows -/

/-- Copy the rows of a local transfer, in row order (R172). -/
def State.copyRows (s : State) (cl step : Nat) (d : Bytes) (rows : Nat) : State :=
  (List.range rows).foldl (fun s r =>
    let (bs, s) := s.mapRead (some cl) (ddSrc d + r * ddSrcPitch d) (ddRowBytes d) step
    s.mapWrite (some cl) (ddDst d + r * ddDstPitch d) step bs) s

/-- Cut a row into message bodies (R385). -/
def bodies : Nat → Bytes → List Bytes
  | 0, _ => []
  | fuel + 1, bs => if bs.length ≤ 65536 then [bs] else bs.take 65536 :: bodies fuel (bs.drop 65536)

/-- Send one `DMA_WRITE` (R381, R385). -/
def State.sendWrite (s : State) (cl : Nat) (d : Bytes) (addr total xfer : Nat) (body : Bytes) : State :=
  match routePort s.net.graph s.self s.self (ddPeer d) with
  | none => s
  | some port =>
    s.putMsg port none { s.newMsg (s.seqSrc cl) 1 (ddPeer d) addr body with total := total, xfer := xfer, sync := if ddFlag d then ddSync d else 0xFFFF }

/-- Send a whole transfer to a peer. -/
def State.sendTransfer (s : State) (cl step : Nat) (d : Bytes) (rows xfer : Nat) : State :=
  if rows = 0 ∨ ddRowBytes d = 0 then s.sendWrite cl d (ddDst d) 0 xfer []
  else
    (List.range rows).foldl (fun s r =>
      let (bs, s) := s.mapRead (some cl) (ddSrc d + r * ddSrcPitch d) (ddRowBytes d) step
      ((bodies (bs.length / 65536 + 1) bs).foldl (fun (acc : Nat × State) b =>
        (acc.1 + b.length, acc.2.sendWrite cl d acc.1 (rows * ddRowBytes d) xfer b)) (ddDst d + r * ddDstPitch d, s)).2) s

/-! ### Stash writes (R275, R286) -/

/-- The first offset beyond the stash that a transfer would write. -/
def beyondAt (o rows pitch rowBytes limit : Nat) : Nat :=
  let r := if limit < o + rowBytes ∨ pitch = 0 then 0 else (limit + 1 - o - rowBytes + pitch - 1) / pitch
  max limit (o + min r (rows - 1) * pitch)

/-- `STASH_LIMIT`: stash writes of the step are suppressed from here on, and the module straggles once its FORWARD has
ended. -/
def State.stashLimit (s : State) (step branch offset : Nat) : State :=
  let s := { s with stash := { s.stash with suppressed := some step } }.event (dieSrc (52 + stackOf (s.stashDecl branch).hbmBase)) 0x3110
    (u32 branch ++ u32 offset)
  if ((s.stepRec step).ended / 2) % 2 = 1 then s.straggle step else s

/-- A stash write is suppressed, or lies beyond the stash: it writes nothing. The answer says so. -/
def State.stashRefuses (s : State) (step : Nat) (d : Bytes) (rows : Nat) : Bool × State :=
  if !(ddLocal d && inStash (ddDst d)) then (false, s)
  else if s.stash.suppressed = some step then (true, s)
  else
    let b := stashBranch (ddDst d)
    let o := stashOffset (ddDst d)
    let lim := (s.stashDecl b).limit
    if lim < o + rowSpan rows (ddDstPitch d) (ddRowBytes d) then
      (true, s.stashLimit step b (beyondAt o rows (ddDstPitch d) (ddRowBytes d) lim))
    else (false, s)

/-- The stash objects' counts of a transfer into the stash. -/
def State.noteStash (s : State) (d : Bytes) (rows : Nat) : State :=
  if ddLocal d && inStash (ddDst d) then
    let b := stashBranch (ddDst d)
    let o := stashOffset (ddDst d)
    let hbm := (s.stashDecl b).hbmSize
    let inReserve := ((List.range rows).map fun r =>
      let a := o + r * ddDstPitch d
      a + ddRowBytes d - max a (min hbm (a + ddRowBytes d))).sum
    { s with stash := { s.stash with high := supd 0 s.stash.high b (max (o + rowSpan rows (ddDstPitch d) (ddRowBytes d))),
                                     reserve := supd 0 s.stash.reserve b (· + inReserve) } }
  else s

/-! ### Bank control (R244 to R248) -/

/-- The control block index that an address names on die `die` (R252). -/
def bankBlock (die a : Nat) : Option Nat :=
  let base := regBase die + 0xE00000
  if base ≤ a ∧ (a - base) % 64 = 0 then
    let i := (a - base) / 64
    if (i < 48 ∧ i % 16 < 12) ∨ (48 ≤ i ∧ i < 53) then some i else none
  else none

/-- The checks of a write to control register space (R244). -/
def State.bankCheck (s : State) (cl : Nat) (f : Fetched) : Verdict :=
  match s.dmaDesc f.word with
  | none => .field 5
  | some d =>
    let rows := s.dmaRows cl f.word d
    let bad := (bankBlock (s.physDie (clDie cl)) (ddDst d)).isNone || ddRowBytes d != 64 || rows != 1 || ddMisaligned d
      || decide (ctrlBase ≤ ddSrc d) || s.sideBad (ddSrc d) 64 false
    verdict1 [(3, bad)] [(dmaSel f.word, rows, ddRowsMax d)] .ok

def bcKeepOwner (v : Nat) : Bool := bitsOf v 31 31 == 1
def bcKeepPower (v : Nat) : Bool := bitsOf v 30 30 == 1
def bcPower (v : Nat) : Nat := bitsOf v 17 16
def bcOwner (v : Nat) : Nat := bitsOf v 7 0

/-- The owner IDs allowed for a bank (R242). -/
def ownerAllowed (i owner : Nat) : Bool :=
  decide (owner = 0xFF) ||
    (if i < 48 then decide ((4 * (i / 16) ≤ owner ∧ owner < 4 * (i / 16) + 4) ∨ owner = 0x10 + i / 16)
     else decide (owner ≤ 0x0B ∨ owner = 0x18))

/-- A cluster gated off for the life of the plan (R51), by physical die and number. -/
def State.clusterOff (s : State) (die n : Nat) : Bool :=
  match s.job.plan, s.start.dieMap.findIdx? (fun p => p = die) with
  | some p, some l => (p.dieMask.getD l 0 / 2 ^ n) % 2 = 0
  | _, _ => false

/-- R246. -/
def State.bankRefused (s : State) (die i v : Nat) : Bool :=
  (!bcKeepOwner v && (!ownerAllowed i (bcOwner v) || (decide (bcOwner v ≤ 0x0B) && s.clusterOff die (bcOwner v))))
    || (!bcKeepPower v && bcPower v == 3) || bitsOf v 29 18 != 0 || bitsOf v 15 8 != 0

/-- The power state and owner that a write asks for. -/
def Bank.target (b : Bank) (v : Nat) : Nat × Nat :=
  (if bcKeepPower v then b.power else bcPower v, if bcKeepOwner v then b.owner else bcOwner v)

/-- A bank takes up a write (R245 step 1); `TRANSITION` is set where it changes the power state. -/
def Bank.begin (b : Bank) (w : BankWrite) : Bank :=
  let (p, _) := b.target w.value
  { b with handover := some w, power := p, transition := b.powerNow != p }

/-- A `BANK_CTRL` write arrives (R245, R246). -/
def State.bankArrives (s : State) (die i : Nat) (w : BankWrite) : State :=
  if s.bankRefused die i w.value then s.fault (dieSrc die) 0x3003 (u32 i ++ u32 w.value)
  else s.modBank die i fun b => if b.handover.isSome then { b with queued := b.queued ++ [w] } else b.begin w

/-! ### The queue (R152, R153) -/

/-- The head of a cluster's DMA queue becomes `op`, before `rest`. -/
def State.putHead (s : State) (cl : Nat) (op : DmaOp) (rest : List DmaOp) : State :=
  s.modCl cl fun c => { c with dmaQ := op :: rest }
/-- A bank control write is made: `p` is what was read of its source, and the state after the read. -/
def bankSend (cl : Nat) (op : DmaOp) (rest : List DmaOp) (d : Bytes) (p : Bytes × State) : State :=
  let s := p.2.putHead cl { op with done := true } rest
  (bankBlock (s.physDie (clDie cl)) (ddDst d)).elim s fun i => s.bankArrives (s.physDie (clDie cl)) i ⟨cl, op.n, fieldAt p.1 0 4⟩

/-- The operation at the head of a cluster's DMA queue begins: a transfer to a peer is sent, a bank control write is made.
A local transfer moves its rows when it completes, and a limber job waits for the limber queue. `checks`: what nature reports of
the source reads; data that fail their check are not used. -/
def State.dmaBegin (s : State) (cl : Nat) (checks : List MemCheck) : State :=
  match (s.cl cl).dmaQ with
  | [] => s
  | op :: rest =>
    match s.desc op.desc with
    | none => s
    | some d =>
      if op.done || decide (op.kind = .limber) || (decide (op.kind = .transfer) && ddLocal d) then s
      else
      let (ok, s) := s.checked checks
      if !ok then s
      else
      match op.kind with
      | .transfer =>
          let x := s.net.nextXfer
          let s := ({ s with net := { s.net with nextXfer := (x + 1) % 2 ^ 32 } }).putHead cl { op with done := true, transfer := x } rest
          s.sendTransfer cl op.step d op.rows x
      | .bank => bankSend cl op rest d (s.mapRead (some cl) (ddSrc d) 64 op.step)
      | .limber => s

/-- The signal of a retiring DMA (R152). -/
def State.dmaSignal (s : State) (cl step : Nat) (d : Bytes) : State :=
  if ddFlag d then s.signal (s.seqSrc cl) (ddSync d) 1 step else s

/-- The operation at the head retires; `signal`: it signals its sync object here. -/
def State.dmaRetire (s : State) (cl : Nat) (signal : Bool) : State :=
  match (s.cl cl).dmaQ with
  | [] => s
  | op :: rest =>
    let s := s.modCl cl fun c => { c with dmaQ := rest }
    let s := if signal then s.dmaSignal cl op.step ((s.desc op.desc).getD []) else s
    s.settle cl

/-- Put an operation on the DMA queue. It begins at once where it is the oldest; else a `DMA_COMPLETE` begins it in its turn (DESIGN
CHOICE, log 98). -/
def State.dmaPut (s : State) (cl : Nat) (f : Fetched) (kind : DmaKind) (rows : Nat) (checks : List MemCheck) : State :=
  let n := (s.cl cl).issueNo
  let first := (s.cl cl).dmaQ.isEmpty
  let s := (s.place cl).2.modCl cl fun c =>
    { c with dmaQ := c.dmaQ ++ [{ n := n, kind := kind, desc := dmaIndex f.word, rows := rows, step := f.step, idx := f.idx }] }
  if first then s.dmaBegin cl checks else s

/-- A transfer issues: zero extents and refused stash writes complete at once (R157, R275). -/
def State.transferIssue (s : State) (cl : Nat) (f : Fetched) (checks : List MemCheck) : State :=
  match s.dmaDesc f.word with
  | none => s
  | some d =>
    let rows := s.dmaRows cl f.word d
    if rows = 0 ∨ ddRowBytes d = 0 then
      if ddLocal d then s.dmaSignal cl f.step d
      else if ddFlag d then s.dmaPut cl f .transfer rows checks else s
    else
      let (refused, s) := s.stashRefuses f.step d rows
      if refused then s.dmaSignal cl f.step d else s.dmaPut cl f .transfer rows checks

/-- `DMA_TRANSFER`; a `DMA` that names no usable descriptor is refused here too (R172, R173). -/
def execDmaTransfer (cl : Nat) (checks : List MemCheck) (s : State) : Res :=
  .next (s.issue cl (fun s w => iClass w = 10 ∧ !s.namesLimber w ∧ !s.namesControl w) (fun s f => s.transferCheck cl f)
    (fun s f => s.transferIssue cl f checks))

/-- `BANK_CTRL` (R244, R245). -/
def execBankCtrl (cl : Nat) (checks : List MemCheck) (s : State) : Res :=
  .next (s.issue cl (fun s w => iClass w = 10 ∧ s.namesControl w) (fun s f => s.bankCheck cl f) (fun s f => s.dmaPut cl f .bank 1 checks))




/-- A line of the destination was dropped because port A wrote it in the same cycle (R238): it keeps what it held. `old`:
memory before the transfer; `who`: the requester at port B. -/
def State.collide (s : State) (old : List (Nat × Byte)) (who : Option Nat) (step line : Nat) : State :=
  let a := 64 * line
  let die := (a - sramBase) / 2 ^ 32
  let o := (a - sramBase) % 2 ^ 32
  if a < sramBase ∨ sramBase + 52 * 2 ^ 32 ≤ a then s
  else
    let s := { s with mem := writeBytes s.mem a (readBytes old a 64) }
    match bankIndex o with
    | none => s
    | some i =>
      if (s.bank die i).notOwner (s.requester who die o) || (s.bank die i).notOn then s
      else
      let s := (s.modBank die i fun b => { b with collision := true, lastCollider := s.requester who die o }).bump kCollisions 1
      s.eventOnce (0x500000 + 64 * die + i) step (dieSrc die) 0x3002 []

/-- A write of `bs` from `a` on at port B, which loses the lines of `collided` (R238). -/
def State.landWrite (s : State) (who : Option Nat) (a step : Nat) (bs : Bytes) (collided : List Nat) : State :=
  (collided.filter fun l => decide (a < 64 * l + 64 ∧ 64 * l < a + bs.length)).foldl (fun t l => t.collide s.mem who step l) (s.mapWrite who a step bs)

/-- The lines, of those named, that a transfer writes. -/
def dstLines (d : Bytes) (rows : Nat) (lines : List Nat) : List Nat :=
  lines.filter fun l => (List.range rows).any fun r =>
    decide (ddDst d + r * ddDstPitch d ≤ 64 * l ∧ 64 * l < ddDst d + r * ddDstPitch d + ddRowBytes d)

/-- `DMA_COMPLETE`: the local transfer at the head of the queue has moved its last byte. Its rows are copied; a source
read that fails its check is a fault and its data are not used. `collided`: the destination lines (address / 64) that
port A wrote in the same cycle (R238). A transfer to a peer, or a bank control write, that has come to the head begins. -/
def execDmaComplete (cl : Nat) (checks : List MemCheck) (collided : List Nat) (s : State) : Res :=
  .next (match (s.cl cl).dmaQ with
    | [] => s
    | op :: _ =>
      if !s.clocked cl then s
      else
      match op.kind, s.desc op.desc with
      | .transfer, some d =>
        if !ddLocal d then s.dmaBegin cl checks
        else
          let (ok, s) := s.checked checks
          if ok then
            let t := s.copyRows cl op.step d op.rows
            (((dstLines d op.rows collided).foldl (fun t l => t.collide s.mem (some cl) op.step l) t).noteStash d op.rows).dmaRetire cl true
          else s
      | _, _ => s.dmaBegin cl checks)

/-! ### Completion of a bank control write -/

/-- The bytes of a bank. -/
def bankRange (die i : Nat) : Nat × Nat :=
  if i < 48 then
    let b := i % 16
    (apertureBase die + 0x1000000 * (i / 16 + 1) + (if b < 8 then b * 0x100000 else 0x800000 + (b - 8) * 0x80000),
     if b < 8 then 0x100000 else 0x80000)
  else (apertureBase die + (i - 48) * 0x80000, 0x80000)

/-- `BANK_POWER_TRANSITION_DONE`: a bank that leaves OFF has been filled with zeros (R248). -/
def execBankPowerTransitionDone (die bank : Nat) (s : State) : Res :=
  .next (let b := s.bank die bank
    if !b.transition ∨ s.job.state = .fault then s
    else
      let (a, n) := bankRange die bank
      let s := s.modBank die bank fun b => { b with powerNow := b.power, transition := false }
      if b.powerNow = 2 then { s with mem := clearRange s.mem a n } else s)

/-- The `DMA` of a bank control write retires, if its cluster still holds it. -/
def State.bankRetire (s : State) (w : BankWrite) : State :=
  match (s.cl w.cluster).dmaQ with
  | op :: _ => if op.n = w.n ∧ op.kind = .bank then s.dmaRetire w.cluster true else s
  | [] => s

/-- `BANK_HANDOVER_COMPLETE`: the owner takes its new value, a write that waits is taken up, the `DMA` retires (R245). -/
def execBankHandoverComplete (die bank : Nat) (s : State) : Res :=
  .next (let b := s.bank die bank
    match b.handover with
    | none => s
    | some w =>
      if b.transition ∨ s.job.state = .fault ∨ s.arithStopped (clDie w.cluster / 6) then s
      else
        let b1 := { b with owner := (b.target w.value).2, handover := none }
        let b2 := match b1.queued with
          | [] => b1
          | q :: rest => { b1 with queued := rest }.begin q
        (s.modBank die bank fun _ => b2).bankRetire w)

end Sys2Proof.Machine
end

