-- ==== Sys2Proof/Machine/Limber.lean ====
section
/-! DEFINITION. The limber engine: few-channel convolutions and pooling (R201 to R206). -/

namespace Sys2Proof.Machine

/-! ### The limber word (R203) -/

def lbWord (d : Bytes) : Nat := fieldAt d 0x38 8
def lbIn (d : Bytes) : Nat := bitsOf (lbWord d) 63 62
def lbRef (d : Bytes) : Int := signed 10 (bitsOf (lbWord d) 61 52)
def lbOut (d : Bytes) : Nat := bitsOf (lbWord d) 51 48
def lbCout (d : Bytes) : Nat := bitsOf (lbWord d) 47 40
def lbOutAddr (d : Bytes) : Nat := bitsOf (lbWord d) 39 20 * 64
def lbWAddr (d : Bytes) : Nat := bitsOf (lbWord d) 19 0 * 64
/-- `LIMBER_OP`: 0 convolution, 1 max pooling, 2 min pooling (R187). -/
def lbOp (d : Bytes) : Nat := bitsOf (fieldAt d 2 2) 5 4
def lbCin (d : Bytes) : Nat := fieldAt d 0x1E 2
def lbC0 (d : Bytes) : Nat := fieldAt d 0x1C 2
def lbKH (d : Bytes) : Nat := fieldAt d 0x20 1
def lbKW (d : Bytes) : Nat := fieldAt d 0x21 1
def lbTileW (d : Bytes) : Nat := fieldAt d 0x30 2

/-- Bytes of an input element. -/
def lbInBytes (d : Bytes) : Nat := if lbIn d = 0 then 2 else 1
/-- The value of an input code; none where it is non-finite (R204). -/
def lbValue (fmt code : Nat) : Option ℚ := if fmt = 1 then some (code % 256 : Nat) else elemVal (if fmt = 0 then fBF16 else fE4M3) code

/-- Bytes of an output position (R203). -/
def lbPosBytes (d : Bytes) : Nat :=
  if lbOp d = 0 then (lbCout d * (fmtWidth (lbOut d) / 8) + 15) / 16 * 16 else fieldAt d 0x14 2

/-! ### Checks (R191, R202, R203, R205) -/

/-- A limber job writes nothing (R208). -/
def lbEmpty (d : Bytes) (rows : Nat) : Bool := rows == 0 || (lbOp d == 0 && lbCout d == 0)

/-- A format code not allowed in its field. -/
def lbFormatBad (d : Bytes) : Bool :=
  lbIn d == 3 || (if lbOp d = 0 then !([0, 1, 3, 4].contains (lbOut d)) else
    (lbIn d == 0 && lbOut d != 1) || (lbIn d == 2 && lbOut d != 3))

/-- A position that the job reads lies outside the stored window. -/
def lbOutside (d : Bytes) (rows : Nat) : Bool :=
  (List.range (rows * lbTileW d)).any fun p => convInMap d (convOut d p) &&
    (List.range (lbKH d * lbKW d)).any fun t =>
      let (ky, kx) := convTap d t
      let (u, v) := convIn d (convOut d p) ky kx
      match convAt d u v with
      | .stored r c => !inWindow d r c
      | _ => false

/-- Bytes that the output of `rows` rows spans: pooling writes `CG_CIN_PASS` elements of a position, be they more than
`CG_POS_BYTES`. -/
def lbOutSpan (d : Bytes) (rows : Nat) : Nat :=
  (rows * lbTileW d - 1) * lbPosBytes d + max (lbPosBytes d) (if lbOp d = 0 then 0 else lbCin d * lbInBytes d)

/-- Reason 3 of a limber job. -/
def lbAddressBad (d : Bytes) (rows : Nat) : Bool :=
  !convFieldsOk d || (lbOp d != 0 && bitsOf (fieldAt d 2 2) 1 0 != 0)
    || !localOk (fieldAt d 4 4 * 64) (windowSpan d ((lbC0 d + lbCin d) * lbInBytes d))
    || (lbOp d == 0 && !localOk (lbWAddr d) (lbKH d * lbKW d * lbCin d * lbCout d * 2))
    || (!lbEmpty d rows && (!localOk (lbOutAddr d) (lbOutSpan d rows) || lbOutside d rows))

/-- The checks of R178 for a limber job. -/
def State.limberCheck (s : State) (cl : Nat) (f : Fetched) : Verdict :=
  match s.dmaDesc f.word with
  | none => .field 5
  | some d =>
    let rows := s.dmaRows cl f.word d
    verdict1 [(2, lbFormatBad d), (3, lbAddressBad d rows), (5, decide (2 < lbOp d) || (lbOp d == 0 && decide (4 < lbCin d ∧ 8 < lbCout d)))]
      [(dmaSel f.word, rows, fieldAt d 0x36 2)] .ok

/-- A limber engine. -/
def State.limber (s : State) (die : Nat) : Limber := sget {} s.limbers die
def State.modLimber (s : State) (die : Nat) (f : Limber → Limber) : State := { s with limbers := supd {} s.limbers die f }

/-- Counters of R210. -/
def kLimberJobs : Nat := objKey 0x3020 0
def kLimberProducts : Nat := objKey 0x3021 0

/-- A limber job of a compute die retires, with the products it formed (R209, R210). -/
def State.limberRetired (s : State) (die n : Nat) : State :=
  ((s.modLimber die fun l => { l with jobs := l.jobs + 1, products := l.products + n }).bump kLimberJobs 1).bump kLimberProducts n

/-- `LIMBER_JOB` (R202); a job that writes nothing retires at issue (R208). -/
def execLimberJob (cl : Nat) (s : State) : Res :=
  .next (s.issue cl (fun s w => iClass w = 10 ∧ s.namesLimber w) (fun s f => s.limberCheck cl f)
    (fun s f =>
      match s.dmaDesc f.word with
      | none => s
      | some d =>
        let rows := s.dmaRows cl f.word d
        if lbEmpty d rows then s.limberRetired (s.physDie (clDie cl)) 0 else s.dmaPut cl f .limber rows []))

/-- `LIMBER_JOB_ACCEPT`: the queue, 64 jobs deep beside the one that runs, takes the job at the head of the cluster's DMA
queue. -/
def execLimberJobAccept (cl : Nat) (s : State) : Res :=
  .next (match (s.cl cl).dmaQ with
    | [] => s
    | op :: rest =>
      let die := s.physDie (clDie cl)
      if s.clocked cl ∧ op.kind = .limber ∧ (s.limber die).queue.length ≤ 64 then
        let s := s.modCl cl fun c => { c with dmaQ := rest, limberOps := c.limberOps ++ [(op.n, op.step, op.idx)] }
        s.modLimber die fun l => { l with queue := l.queue ++ [⟨cl, op.n, op.desc, op.rows, op.step⟩], stopped := false }
      else s)

/-! ### The work of a job -/

/-- How a job reads and writes its local space, held in a state of type `σ`: weights (an offset and a count of bytes), the
input of a stored position (its row and column), and the output at an offset. -/
structure LimberIo (σ : Type) where
  weights : σ → Nat → Bytes × σ
  read : σ → Int → Int → Bytes × σ
  write : σ → Nat → Bytes → σ

/-- The input codes of one tap at an output position: one per channel; none where the position supplies exact zero. -/
def lbTap {σ : Type} (io : LimberIo σ) (d : Bytes) (s : σ) (o : Int × Int) (t : Nat) : Option (List Nat) × σ :=
  let (ky, kx) := convTap d t
  let (u, v) := convIn d o ky kx
  match convAt d u v with
  | .zero => (none, s)
  | .const => (some (List.replicate (lbCin d) (fieldAt d 0x16 2 % 2 ^ (8 * lbInBytes d))), s)
  | .stored r c =>
    let (bs, s) := io.read s r c
    (some ((List.range (lbCin d)).map fun k => fieldAt bs (k * lbInBytes d) (lbInBytes d)), s)

/-- Every tap of an output position, in order. -/
def lbTaps {σ : Type} (io : LimberIo σ) (d : Bytes) (s : σ) (o : Int × Int) : List (Option (List Nat)) × σ :=
  (List.range (lbKH d * lbKW d)).foldl (fun (acc : List (Option (List Nat)) × σ) t =>
    let (x, s) := lbTap io d acc.2 o t
    (acc.1 ++ [x], s)) ([], s)

/-- What a job counts at watch point 0: the counts (R144), and the values of its histogram: each placed product, and each value
before its rounding or its choice by a pooling (R146, R204). -/
structure LimberTally where
  counts : Counts := {}
  vals : List ℚ := []
def LimberTally.add (a b : LimberTally) : LimberTally := ⟨a.counts.add b.counts, a.vals ++ b.vals⟩

/-- The exact sum of one output channel (R204): weight (t, c, o) is element (t × CIN + c) × COUT + o. -/
def lbSum (d : Bytes) (weights : Bytes) (taps : List (Option (List Nat))) (o : Nat) : Int × LimberTally :=
  taps.zipIdx.foldl (fun acc (x, t) =>
    (List.range (lbCin d)).foldl (fun (acc : Int × LimberTally) c =>
      let wt := fieldAt weights (2 * ((t * lbCin d + c) * lbCout d + o)) 2
      let code := match x with | some cs => cs.getD c 0 | none => 0
      match lbValue (lbIn d) code, elemVal fBF16 wt with
      | some a, some b =>
        let p := placeGrad (lbRef d) (a * b)
        (acc.1 + p.val, acc.2.add ⟨p.counts, [gradVal (lbRef d) p.val]⟩)
      | _, _ => (acc.1, acc.2.add ⟨{ elements := 1, nonFinite := 1 }, []⟩)) acc) (0, {})

/-- The largest or smallest of the values of one channel's window; +0 for an empty one (R205). -/
def lbPool (big : Bool) (fmt : Nat) (codes : List Nat) : Nat × Nat :=
  let clean := codes.map fun c => if (lbValue fmt c).isSome then c else 0
  let v (c : Nat) : ℚ := (lbValue fmt c).getD 0
  let best := match clean with
    | [] => 0
    | x :: xs => xs.foldl (fun a b => if (if big then decide (v a < v b) else decide (v b < v a)) then b else a) x
  (best, (codes.filter (fun c => (lbValue fmt c).isNone)).length)

/-- One output position of a convolution: its bytes and tally. -/
def lbConvPos (d weights : Bytes) (taps : List (Option (List Nat))) : Bytes × LimberTally :=
  (List.range (lbCout d)).foldl (fun (acc : Bytes × LimberTally) o =>
    let (x, c) := lbSum d weights taps o
    let r := roundTo (lbOut d) false (gradVal (lbRef d) x)
    (acc.1 ++ leBytes (fmtWidth (lbOut d) / 8) r.code, (acc.2.add c).add ⟨r.counts, [gradVal (lbRef d) x]⟩)) ([], {})

/-- One output position of a pooling. -/
def lbPoolPos (d : Bytes) (taps : List (Option (List Nat))) : Bytes × LimberTally :=
  (List.range (lbCin d)).foldl (fun (acc : Bytes × LimberTally) c =>
    let (code, bad) := lbPool (lbOp d == 1) (lbIn d) (taps.filterMap fun x => x.map fun cs => cs.getD c 0)
    (acc.1 ++ leBytes (lbInBytes d) code,
     acc.2.add ⟨{ elements := 1, nonFinite := bad }, [(lbValue (lbIn d) code).getD 0]⟩)) ([], {})

/-- The work of a job: every position of its rectangle that lies in the output map is written. The answer counts the
products, and holds the tally. -/
def limberWork {σ : Type} (io : LimberIo σ) (d : Bytes) (rows : Nat) (s : σ) : Nat × LimberTally × σ :=
  let (weights, s) := if lbOp d = 0 then io.weights s (lbKH d * lbKW d * lbCin d * lbCout d * 2) else ([], s)
  (List.range (rows * lbTileW d)).foldl (fun (acc : Nat × LimberTally × σ) p =>
    let (n, cts, s) := acc
    if convInMap d (convOut d p) then
      let (taps, s) := lbTaps io d s (convOut d p)
      let (bs, c) := if lbOp d = 0 then lbConvPos d weights taps else lbPoolPos d taps
      (n + (if lbOp d = 0 then lbKH d * lbKW d * lbCin d * lbCout d else 0), cts.add c, io.write s (p * lbPosBytes d) bs)
    else (n, cts, s)) (0, {}, s)

/-- Limber work counts under watch number 0 in its output format (R204). -/
def State.addTally (s : State) (src step f : Nat) (t : LimberTally) : State :=
  (s.addCounts src step 0 f t.counts).addHist step 0 f t.vals

/-- How a job reads and writes the local memory of its cluster; a write loses the lines of `collided` (R238). -/
def limberIo (j : LimberJob) (d : Bytes) (collided : List Nat) : LimberIo State :=
  ⟨fun s n => s.localRead j.cluster (lbWAddr d) n j.step,
   fun s r c => s.localRead j.cluster (windowAddr d r c + lbC0 d * lbInBytes d) (lbCin d * lbInBytes d) j.step,
   fun s a bs => s.landWrite (some j.cluster) (localToModule (s.physDie (clDie j.cluster)) j.cluster (lbOutAddr d + a)) j.step bs collided⟩

/-- `LIMBER_JOB_COMPLETE`: the running job of a compute die's engine writes its outputs and retires. `checks`: what nature
reports of its reads, and of the lines that it writes in part (R240, R241): nothing is written where one fails; `collided`: the
lines (address / 64) that port A wrote in the same cycle (R238). -/
def execLimberJobComplete (die : Nat) (checks : List MemCheck) (collided : List Nat) (s : State) : Res :=
  .next (match (s.limber die).queue with
    | [] => s
    | j :: rest =>
      match s.desc j.desc with
      | none => s
      | some d =>
        if s.arithStopped (clDie j.cluster / 6) then s
        else
          let (ok, s) := s.checked checks
          if !ok then s
          else
            let (n, cts, s) := limberWork (limberIo j d collided) d j.rows s
            let s := s.addTally (dieSrc die) j.step (lbOut d) cts
            let s := (s.modLimber die fun l => { l with queue := rest }).limberRetired die n
            (s.modCl j.cluster fun c => { c with limberOps := c.limberOps.filter fun o => o.1 ≠ j.n }).settle j.cluster)

end Sys2Proof.Machine
end

