-- ==== Sys2Proof/Machine/Dictionary.lean ====
section
/-! DEFINITION. The dictionary of the Tally: every object that a chapter defines, with its type, access, flags and default
(R423 to R428 and the object tables of every chapter). -/

namespace Sys2Proof.Machine

/-- Types of objects (R423), and their codes (R581). -/
inductive ObjType where
  | bool | u8 | u16 | u32 | u64 | i32 | i64 | f32 | str | blob | record
  deriving DecidableEq, Repr
def ObjType.code : ObjType → Nat
  | .bool => 0 | .u8 => 1 | .u16 => 2 | .u32 => 3 | .u64 => 4 | .i32 => 5 | .i64 => 6 | .f32 => 7 | .str => 8 | .blob => 9 | .record => 10
/-- The size of a value of fixed size. -/
def ObjType.size : ObjType → Option Nat
  | .bool => some 1 | .u8 => some 1 | .u16 => some 2 | .u32 => some 4 | .u64 => some 8 | .i32 => some 4 | .i64 => some 8
  | .f32 => some 4 | .str => none | .blob => none | .record => none

/-- Access kinds (R424), and their codes (R581). -/
inductive Access where
  | const | ro | rw | wo | rws
  deriving DecidableEq, Repr
def Access.code : Access → Nat
  | .const => 0 | .ro => 1 | .rw => 2 | .wo => 3 | .rws => 4

/-- A row of the dictionary: indices `lo` to `hi`, subindices `sub0` to `sub1`; `dflt`: the default as a number (F32 by
its code; a STR, BLOB or REC default that is empty or zero is 0). -/
structure Obj where
  lo : Nat
  hi : Nat
  sub0 : Nat
  sub1 : Nat
  name : String
  type : ObjType
  access : Access
  persistent : Bool
  commissioning : Bool
  dflt : Nat
  deriving DecidableEq, Repr

def dictionary0 : List Obj := [
  ⟨0x1010, 0x1010, 0x0, 0x0, "LOGICAL_DIE_COUNT", .u8, .const, false, false, 48⟩,
  ⟨0x1010, 0x1010, 0x1, 0x30, "LOGICAL_DIE_MAP", .u8, .ro, false, false, 0⟩,
  ⟨0x1011, 0x1011, 0x1, 0x4, "SPARE_SITE_STATE", .u8, .ro, false, false, 255⟩,
  ⟨0x1012, 0x1012, 0x0, 0x0, "REPAIR_COUNT", .u8, .ro, false, false, 0⟩,
  ⟨0x1013, 0x1013, 0x0, 0x0, "DIE_MAP_GENERATION", .u32, .ro, false, false, 0⟩,
  ⟨0x7000, 0x7000, 0x1, 0x1, "TIME_SOURCE", .u8, .rws, true, false, 0⟩,
  ⟨0x7000, 0x7000, 0x2, 0x2, "TIME_SKID_PORT", .u8, .rws, false, false, 0⟩,
  ⟨0x7000, 0x7000, 0x3, 0x3, "PTP_DOMAIN", .u8, .rws, true, false, 0⟩,
  ⟨0x7000, 0x7000, 0x4, 0x4, "PTP_TRANSPORT", .u8, .rws, true, false, 1⟩,
  ⟨0x7000, 0x7000, 0x5, 0x5, "PTP_DELAY_MODE", .u8, .rws, true, false, 0⟩,
  ⟨0x7000, 0x7000, 0xfe, 0xfe, "TIME_GENERATION", .u32, .ro, false, false, 0⟩,
  ⟨0x7000, 0x7000, 0xff, 0xff, "TIME_APPLY", .u32, .wo, false, false, 0⟩,
  ⟨0x7001, 0x7001, 0x0, 0x0, "BEAT_EPOCH", .u64, .rw, true, true, 1735689637⟩,
  ⟨0x7002, 0x7002, 0x0, 0x0, "TIME_STATE", .u8, .ro, false, false, 0⟩,
  ⟨0x7003, 0x7003, 0x0, 0x0, "TIME_OFFSET", .i64, .ro, false, false, 0⟩,
  ⟨0x7004, 0x7004, 0x0, 0x0, "HOLDOVER_ELAPSED", .u32, .ro, false, false, 0⟩,
  ⟨0x7005, 0x7005, 0x0, 0x0, "HOLDOVER_LIMIT", .u32, .const, false, false, 10000⟩,
  ⟨0x7006, 0x7006, 0x0, 0x0, "BEAT_NOW", .u64, .ro, false, false, 0⟩,
  ⟨0x7007, 0x7007, 0x1, 0x10, "PEER_BEAT_OFFSET", .i32, .ro, false, false, 0⟩,
  ⟨0x7008, 0x7008, 0x0, 0x0, "FREQ_WORD", .u64, .ro, false, false, 687194767360⟩,
  ⟨0x2000, 0x2000, 0x1, 0x1, "JOB_COMMAND", .u8, .wo, false, false, 0⟩,
  ⟨0x2000, 0x2000, 0x2, 0x2, "COMMAND_BEAT", .u64, .rw, false, false, 0⟩,
  ⟨0x2000, 0x2000, 0x3, 0x3, "COMMAND_STEP", .u64, .rw, false, false, 0⟩,
  ⟨0x2000, 0x2000, 0x4, 0x4, "PLAN_SLOT", .u8, .rw, false, false, 0⟩,
  ⟨0x2001, 0x2001, 0x0, 0x0, "JOB_STATE", .u8, .ro, false, false, 0⟩,
  ⟨0x2002, 0x2002, 0x0, 0x0, "PLAN_LOAD_RESULT", .u8, .ro, false, false, 0⟩,
  ⟨0x2003, 0x2003, 0x1, 0x1, "LOADED_PLAN_ID", .u64, .ro, false, false, 0⟩,
  ⟨0x2003, 0x2003, 0x2, 0x2, "LOADED_JOB_ID", .u64, .ro, false, false, 0⟩,
  ⟨0x2003, 0x2003, 0x3, 0x3, "LOADED_DIGEST", .blob, .ro, false, false, 0⟩,
  ⟨0x2004, 0x2004, 0x0, 0x0, "STEP_NOW", .u64, .ro, false, false, 0⟩,
  ⟨0x2005, 0x2005, 0x0, 0x0, "PHASE_NOW", .u8, .ro, false, false, 0⟩,
  ⟨0x2006, 0x2006, 0x0, 0x0, "LAST_COMMITTED_STEP", .u64, .ro, false, false, 18446744073709551615⟩,
  ⟨0x2007, 0x2007, 0x0, 0x0, "LAST_CLEARED_STEP", .u64, .ro, false, false, 18446744073709551615⟩,
  ⟨0x2008, 0x2008, 0x0, 0x0, "PAUSE_TOTAL", .u64, .ro, false, false, 0⟩,
  ⟨0x2009, 0x2009, 0x0, 0x0, "OVERRUN_COUNT", .u32, .ro, false, false, 0⟩,
  ⟨0x200a, 0x200a, 0x0, 0x0, "STRAGGLER_COUNT", .u32, .ro, false, false, 0⟩,
  ⟨0x2010, 0x2010, 0x1, 0x8, "PLAN_LIBRARY", .record, .ro, true, false, 0⟩,
  ⟨0x3100, 0x312f, 0x1, 0xc, "ARRAY_SPARE_MAP", .u32, .ro, false, false, 0⟩,
  ⟨0x3001, 0x3001, 0x0, 0x0, "ARRAY_PASSES", .u64, .ro, false, false, 0⟩,
  ⟨0x3002, 0x3002, 0x0, 0x0, "ARRAY_KSTEP_CYCLES", .u64, .ro, false, false, 0⟩]

def dictionary1 : List Obj := [
  ⟨0x3003, 0x3003, 0x0, 0x0, "TILE_REUSE_STALL_CYCLES", .u64, .ro, false, false, 0⟩,
  ⟨0x3004, 0x3004, 0x0, 0x0, "KAT_PASSES", .u64, .ro, false, false, 0⟩,
  ⟨0x3005, 0x3005, 0x0, 0x0, "DIAG_PREFENCE_READS", .u32, .ro, false, false, 0⟩,
  ⟨0xa0f0, 0xa0f0, 0x1, 0x8, "HISTOGRAM_WATCH", .u32, .rws, false, false, 0⟩,
  ⟨0xa0f0, 0xa0f0, 0x9, 0x9, "HISTOGRAM_BASE", .i32, .rws, false, false, 4294967248⟩,
  ⟨0xa0f0, 0xa0f0, 0xfe, 0xfe, "HISTOGRAM_GENERATION", .u32, .ro, false, false, 0⟩,
  ⟨0xa0f0, 0xa0f0, 0xff, 0xff, "HISTOGRAM_APPLY", .u32, .wo, false, false, 0⟩,
  ⟨0xa100, 0xa1ff, 0x1, 0x10, "STAT_COUNTS", .record, .ro, false, false, 0⟩,
  ⟨0xa100, 0xa1ff, 0x11, 0x11, "STAT_STEP", .u64, .ro, false, false, 18446744073709551615⟩,
  ⟨0xa100, 0xa1ff, 0x12, 0x12, "STAT_FLAGS", .u8, .ro, false, false, 0⟩,
  ⟨0xa200, 0xa2ff, 0x1, 0x10, "STAT_HISTOGRAM", .blob, .ro, false, false, 0⟩,
  ⟨0x3010, 0x3010, 0x0, 0x0, "SEQ_INSTRUCTIONS", .u64, .ro, false, false, 0⟩,
  ⟨0x3011, 0x3011, 0x0, 0x0, "SEQ_FULL_CYCLES_ALL", .u64, .ro, false, false, 0⟩,
  ⟨0x3012, 0x3012, 0x0, 0x0, "SEQ_WAIT_CYCLES_ALL", .u64, .ro, false, false, 0⟩,
  ⟨0x3013, 0x3013, 0x0, 0x0, "BOUND_EXCEEDED_COUNT", .u32, .ro, false, false, 0⟩,
  ⟨0x3014, 0x3014, 0x0, 0x0, "LAST_BOUND_EXCEEDED", .record, .ro, false, false, 0⟩,
  ⟨0x3020, 0x3020, 0x0, 0x0, "LIMBER_JOBS", .u64, .ro, false, false, 0⟩,
  ⟨0x3021, 0x3021, 0x0, 0x0, "LIMBER_PRODUCTS", .u64, .ro, false, false, 0⟩,
  ⟨0x3022, 0x3022, 0x0, 0x0, "CROP_WINDOW_CLAMPS", .u64, .ro, false, false, 0⟩,
  ⟨0x3030, 0x3030, 0x0, 0x0, "VU_OPS_ALL", .u64, .ro, false, false, 0⟩,
  ⟨0x3031, 0x3031, 0x0, 0x0, "VU_STARVE_CYCLES_ALL", .u64, .ro, false, false, 0⟩,
  ⟨0x3032, 0x3032, 0x0, 0x0, "DRAIN_INPUT_DISCARDS", .u64, .ro, false, false, 0⟩,
  ⟨0x3130, 0x315f, 0x1, 0xc, "VU_SPARE_MAP_ALL", .u64, .ro, false, false, 0⟩,
  ⟨0x4010, 0x4010, 0x0, 0x0, "SRAM_REREADS", .u64, .ro, false, false, 0⟩,
  ⟨0x4011, 0x4011, 0x0, 0x0, "BANK_NOT_OWNER_ACCESSES", .u64, .ro, false, false, 0⟩,
  ⟨0x4012, 0x4012, 0x0, 0x0, "BANK_NOT_ON_ACCESSES", .u64, .ro, false, false, 0⟩,
  ⟨0x4013, 0x4013, 0x0, 0x0, "BANK_COLLISIONS", .u64, .ro, false, false, 0⟩,
  ⟨0x4014, 0x4014, 0x0, 0x0, "BANK_PORT_B_WAIT_CYCLES", .u64, .ro, false, false, 0⟩,
  ⟨0x4015, 0x4015, 0x0, 0x0, "FEEDER_WAIT_CYCLES_ALL", .u64, .ro, false, false, 0⟩,
  ⟨0x4130, 0x415f, 0x1, 0x3, "REGION_SPARE_MAP", .u8, .ro, false, false, 0⟩,
  ⟨0x4020, 0x4020, 0x0, 0x0, "HBM_REREADS", .u64, .ro, false, false, 0⟩,
  ⟨0x4021, 0x4021, 0x0, 0x0, "HBM_DRAM_ECC_CORRECTIONS", .u64, .ro, false, false, 0⟩,
  ⟨0x4022, 0x4022, 0x0, 0x0, "GAE_CONTRIBUTIONS_ALL", .u64, .ro, false, false, 0⟩,
  ⟨0x4030, 0x4030, 0x1, 0x1, "COW_POOL_PAGES", .u8, .rws, true, false, 64⟩,
  ⟨0x4030, 0x4030, 0xfe, 0xfe, "COW_GENERATION", .u32, .ro, false, false, 0⟩,
  ⟨0x4030, 0x4030, 0xff, 0xff, "COW_APPLY", .u32, .wo, false, false, 0⟩,
  ⟨0x4031, 0x4031, 0x0, 0x0, "COW_STATE_MODULE", .u8, .ro, false, false, 0⟩,
  ⟨0x4032, 0x4032, 0x0, 0x0, "COW_FIRST_TOUCHES", .u64, .ro, false, false, 0⟩,
  ⟨0x4033, 0x4033, 0x0, 0x0, "COW_WRITE_WAITS", .u64, .ro, false, false, 0⟩,
  ⟨0x4040, 0x4040, 0x1, 0x8, "STASH_HIGH_OFFSET", .u64, .ro, false, false, 0⟩]

def dictionary2 : List Obj := [
  ⟨0x4041, 0x4041, 0x1, 0x8, "STASH_RESERVE_BYTES", .u64, .ro, false, false, 0⟩,
  ⟨0x4060, 0x4060, 0x1, 0x20, "STACK_TEMPERATURE", .u8, .ro, false, false, 0⟩,
  ⟨0x4050, 0x4050, 0x1, 0x1, "CXL_INTERLEAVE", .u8, .rws, true, false, 0⟩,
  ⟨0x4050, 0x4050, 0x2, 0x2, "PARTNER_AREA_SIZE", .u64, .rws, true, true, 0⟩,
  ⟨0x4050, 0x4050, 0xfe, 0xfe, "CXL_GENERATION", .u32, .ro, false, false, 0⟩,
  ⟨0x4050, 0x4050, 0xff, 0xff, "CXL_APPLY", .u32, .wo, false, false, 0⟩,
  ⟨0x4051, 0x4051, 0x1, 0x4, "CXL_DEVICE", .record, .ro, false, false, 0⟩,
  ⟨0x4052, 0x4052, 0x1, 0x4, "CXL_WINDOW_RANGE", .record, .ro, false, false, 0⟩,
  ⟨0x4053, 0x4053, 0x0, 0x0, "CXL_WINDOW_BYTES", .u64, .ro, false, false, 0⟩,
  ⟨0x4054, 0x4054, 0x0, 0x0, "CXL_REREADS", .u64, .ro, false, false, 0⟩,
  ⟨0x4055, 0x4055, 0x0, 0x0, "CXL_POISON_READS", .u64, .ro, false, false, 0⟩,
  ⟨0x4056, 0x4056, 0x0, 0x0, "CXL_LINK_RETRAINS", .u32, .ro, false, false, 0⟩,
  ⟨0x5000, 0x5000, 0x1, 0x1, "DECODE_BUDGET_MULT", .u16, .rws, true, false, 32⟩,
  ⟨0x5000, 0x5000, 0x2, 0x2, "CARRY_LIMIT", .u8, .rws, true, false, 2⟩,
  ⟨0x5000, 0x5000, 0x3, 0x3, "EXPANSION_LIMIT", .u32, .rws, true, false, 2048⟩,
  ⟨0x5000, 0x5000, 0x4, 0x4, "TRUNCATED_POLICY", .u8, .rws, true, false, 0⟩,
  ⟨0x5000, 0x5000, 0xfe, 0xfe, "INGEST_GENERATION", .u32, .ro, false, false, 0⟩,
  ⟨0x5000, 0x5000, 0xff, 0xff, "INGEST_APPLY", .u32, .wo, false, false, 0⟩,
  ⟨0x5010, 0x5010, 0x1, 0x8, "DECODE_LOAD", .record, .ro, false, false, 0⟩,
  ⟨0x5020, 0x5020, 0x1, 0x40, "STREAM_COUNTS", .record, .ro, false, false, 0⟩,
  ⟨0x5021, 0x5021, 0x0, 0x0, "INGEST_STEP", .u64, .ro, false, false, 18446744073709551615⟩,
  ⟨0x5030, 0x5030, 0x1, 0xd, "DROP_COUNTS", .u64, .ro, false, false, 0⟩,
  ⟨0x5031, 0x5031, 0x0, 0x0, "BOXES_CLIPPED", .u64, .ro, false, false, 0⟩,
  ⟨0x5032, 0x5032, 0x0, 0x0, "TRUNCATED_ZERO_FILLED", .u64, .ro, false, false, 0⟩,
  ⟨0x6400, 0x67ff, 0x1, 0x1, "LR", .f32, .rws, true, false, 0⟩,
  ⟨0x6400, 0x67ff, 0x2, 0x2, "BETA1", .f32, .rws, true, false, 1063675494⟩,
  ⟨0x6400, 0x67ff, 0x3, 0x3, "BETA2", .f32, .rws, true, false, 1065336439⟩,
  ⟨0x6400, 0x67ff, 0x4, 0x4, "EPS", .f32, .rws, true, false, 841731191⟩,
  ⟨0x6400, 0x67ff, 0x5, 0x5, "WEIGHT_DECAY", .f32, .rws, true, false, 0⟩,
  ⟨0x6400, 0x67ff, 0x6, 0x6, "DAMPING", .f32, .rws, true, false, 897988541⟩,
  ⟨0x6400, 0x67ff, 0x7, 0x7, "PIVOT_MIN", .f32, .rws, true, false, 729808896⟩,
  ⟨0x6400, 0x67ff, 0x8, 0x8, "NS_RESIDUAL_MAX", .f32, .rws, true, false, 981467136⟩,
  ⟨0x6400, 0x67ff, 0x9, 0x9, "NS_A", .f32, .rws, true, false, 1077936128⟩,
  ⟨0x6400, 0x67ff, 0xa, 0xa, "NS_B", .f32, .rws, true, false, 3226258637⟩,
  ⟨0x6400, 0x67ff, 0xb, 0xb, "NS_C", .f32, .rws, true, false, 1067030938⟩,
  ⟨0x6400, 0x67ff, 0xfe, 0xfe, "GROUP_GENERATION", .u32, .ro, false, false, 0⟩,
  ⟨0x6400, 0x67ff, 0xff, 0xff, "GROUP_APPLY", .u32, .wo, false, false, 0⟩,
  ⟨0x6000, 0x6000, 0x1, 0x1, "NONFINITE_POLICY", .u8, .rws, true, false, 0⟩,
  ⟨0x6000, 0x6000, 0x2, 0x2, "STALE_POLICY", .u8, .rws, true, false, 0⟩,
  ⟨0x6000, 0x6000, 0x3, 0x3, "STRAGGLER_POLICY", .u8, .rws, true, false, 0⟩]

def dictionary3 : List Obj := [
  ⟨0x6000, 0x6000, 0x4, 0x4, "CLIP_NORM", .f32, .rws, true, false, 0⟩,
  ⟨0x6000, 0x6000, 0xfe, 0xfe, "UPDATE_GENERATION", .u32, .ro, false, false, 0⟩,
  ⟨0x6000, 0x6000, 0xff, 0xff, "UPDATE_APPLY", .u32, .wo, false, false, 0⟩,
  ⟨0x6001, 0x6001, 0x0, 0x0, "GROUP_APPLY_STEP", .u64, .rw, false, false, 0⟩,
  ⟨0x6010, 0x6010, 0x0, 0x0, "LAST_UPDATE", .record, .ro, false, false, 0⟩,
  ⟨0x6020, 0x6020, 0x0, 0x0, "STEPS_SKIPPED", .u32, .ro, false, false, 0⟩,
  ⟨0x6021, 0x6021, 0x0, 0x0, "GROUP_SKIPS", .u64, .ro, false, false, 0⟩,
  ⟨0x6022, 0x6022, 0x0, 0x0, "STALE_HELD", .u64, .ro, false, false, 0⟩,
  ⟨0x6023, 0x6023, 0x0, 0x0, "STALE_DROPPED", .u64, .ro, false, false, 0⟩,
  ⟨0x6024, 0x6024, 0x0, 0x0, "PRECOND_FALLBACKS", .u64, .ro, false, false, 0⟩,
  ⟨0x6025, 0x6025, 0x0, 0x0, "WITHDRAWALS_RECEIVED", .u32, .ro, false, false, 0⟩,
  ⟨0x7010, 0x7010, 0x1, 0x10, "SKID_PORT_INFO", .record, .ro, false, false, 0⟩,
  ⟨0x7011, 0x7011, 0x1, 0x10, "SKID_RESENDS", .u64, .ro, false, false, 0⟩,
  ⟨0x7012, 0x7012, 0x0, 0x0, "SKID_RETRAINS", .u32, .ro, false, false, 0⟩,
  ⟨0x7013, 0x7013, 0x0, 0x0, "SKID_DISCARDS", .u32, .ro, false, false, 0⟩,
  ⟨0x7014, 0x7014, 0x0, 0x0, "SPINE_REPLAYS", .u64, .ro, false, false, 0⟩,
  ⟨0x7015, 0x7015, 0x0, 0x0, "SPINE_RETRAINS", .u32, .ro, false, false, 0⟩,
  ⟨0x7020, 0x7020, 0x0, 0x0, "SYNC_LATE_SIGNALS", .u32, .ro, false, false, 0⟩,
  ⟨0x7021, 0x7021, 0x0, 0x0, "SYNC_SATURATIONS", .u32, .ro, false, false, 0⟩,
  ⟨0x7030, 0x7030, 0x0, 0x0, "ARB_WAIT_MAX", .u32, .ro, false, false, 0⟩,
  ⟨0x7031, 0x7031, 0x0, 0x0, "ARB_WAIT_EXCEEDED", .u32, .ro, false, false, 0⟩,
  ⟨0x7040, 0x7040, 0x0, 0x0, "COMBINE_LAST", .record, .ro, false, false, 0⟩,
  ⟨0x1000, 0x1000, 0x1, 0x1, "VENDOR_NAME", .str, .const, false, false, 0⟩,
  ⟨0x1000, 0x1000, 0x2, 0x2, "PART_NUMBER", .str, .const, false, false, 0⟩,
  ⟨0x1000, 0x1000, 0x3, 0x3, "PART_CODE", .u32, .const, false, false, 57600⟩,
  ⟨0x1000, 0x1000, 0x4, 0x4, "SERIAL_NUMBER", .str, .const, false, false, 0⟩,
  ⟨0x1000, 0x1000, 0x5, 0x5, "STEPPING", .u16, .const, false, false, 177⟩,
  ⟨0x1001, 0x1001, 0x0, 0x0, "MAC_ADDRESS", .u64, .const, false, false, 0⟩,
  ⟨0x1002, 0x1002, 0x1, 0x1, "OTDIN_MGMT_PORT", .u16, .const, false, false, 46560⟩,
  ⟨0x1002, 0x1002, 0x2, 0x2, "OTDIN_BULK_PORT", .u16, .const, false, false, 46561⟩,
  ⟨0x1020, 0x1020, 0x1, 0x1, "HOST_LANE_MODE", .u8, .rws, true, true, 0⟩,
  ⟨0x1020, 0x1020, 0x2, 0x2, "IPV4_ADDRESS", .u32, .rws, true, false, 0⟩,
  ⟨0x1020, 0x1020, 0x3, 0x3, "IPV4_PREFIX", .u8, .rws, true, false, 0⟩,
  ⟨0x1020, 0x1020, 0x4, 0x4, "IPV4_GATEWAY", .u32, .rws, true, false, 0⟩,
  ⟨0x1020, 0x1020, 0x5, 0x5, "IPV6_ADDRESS", .blob, .rws, true, false, 0⟩,
  ⟨0x1020, 0x1020, 0x6, 0x6, "IPV6_PREFIX", .u8, .rws, true, false, 64⟩,
  ⟨0x1020, 0x1020, 0x7, 0x7, "IPV6_GATEWAY", .blob, .rws, true, false, 0⟩,
  ⟨0x1020, 0x1020, 0x8, 0x8, "VLAN_ID", .u16, .rws, true, false, 0⟩,
  ⟨0x1020, 0x1020, 0xfe, 0xfe, "NET_GENERATION", .u32, .ro, false, false, 0⟩,
  ⟨0x1020, 0x1020, 0xff, 0xff, "NET_APPLY", .u32, .wo, false, false, 0⟩]

def dictionary4 : List Obj := [
  ⟨0x1030, 0x1030, 0x1, 0x8, "OPERATOR_KEY", .blob, .rw, true, true, 0⟩,
  ⟨0x1031, 0x1031, 0x1, 0x4, "SESSION_INFO", .record, .ro, false, false, 0⟩,
  ⟨0x1040, 0x1040, 0x0, 0x0, "OTDIN_REQUESTS", .u64, .ro, false, false, 0⟩,
  ⟨0x1041, 0x1041, 0x0, 0x0, "OTDIN_DUPLICATES", .u32, .ro, false, false, 0⟩,
  ⟨0x1042, 0x1042, 0x0, 0x0, "OTDIN_DISCARDS", .u32, .ro, false, false, 0⟩,
  ⟨0x1043, 0x1043, 0x0, 0x0, "BULK_RESENDS_TX", .u64, .ro, false, false, 0⟩,
  ⟨0x1044, 0x1044, 0x0, 0x0, "BULK_NAKS_SENT", .u64, .ro, false, false, 0⟩,
  ⟨0x1045, 0x1045, 0x0, 0x0, "BULK_RECORDS_LOST", .u64, .ro, false, false, 0⟩,
  ⟨0x1046, 0x1046, 0x0, 0x0, "SESSION_FAILURES", .u32, .ro, false, false, 0⟩,
  ⟨0xf000, 0xf000, 0x1, 0x1, "DIAG_REG_ADDR", .u64, .rw, false, false, 0⟩,
  ⟨0xf000, 0xf000, 0x2, 0x2, "DIAG_REG_SIZE", .u8, .rw, false, false, 4⟩,
  ⟨0xf000, 0xf000, 0x3, 0x3, "DIAG_REG_DATA", .u64, .rw, false, false, 0⟩,
  ⟨0x8100, 0x8100, 0x1, 0x1, "WINDTHROW_INDEX", .u16, .ro, false, false, 0⟩,
  ⟨0x8100, 0x8100, 0x2, 0x2, "WINDTHROW_THRESHOLD", .u16, .rw, true, false, 40000⟩,
  ⟨0x8100, 0x8100, 0x3, 0x3, "WINDTHROW_PARTS", .record, .ro, false, false, 0⟩,
  ⟨0x8110, 0x8110, 0x1, 0x1, "PARTNER_MODULE", .u16, .rws, true, false, 65535⟩,
  ⟨0x8110, 0x8110, 0x2, 0x2, "SNAPSHOT_EVERY", .u32, .rws, true, false, 0⟩,
  ⟨0x8110, 0x8110, 0x3, 0x3, "CHECKPOINT_EVERY", .u32, .rws, true, false, 0⟩,
  ⟨0x8110, 0x8110, 0xfe, 0xfe, "SNAP_GENERATION", .u32, .ro, false, false, 0⟩,
  ⟨0x8110, 0x8110, 0xff, 0xff, "SNAP_APPLY", .u32, .wo, false, false, 0⟩,
  ⟨0x8120, 0x8120, 0x1, 0x1, "NEWEST_COMPLETE_SET", .u64, .ro, false, false, 18446744073709551615⟩,
  ⟨0x8120, 0x8120, 0x2, 0x5, "SNAPSHOT_SLOTS", .record, .ro, false, false, 0⟩,
  ⟨0x8130, 0x8130, 0x1, 0x1, "RESTORE_STEP", .u64, .rw, false, false, 0⟩,
  ⟨0x8130, 0x8130, 0x2, 0x2, "RESTORE_FROM", .u16, .rw, false, false, 65535⟩,
  ⟨0x8130, 0x8130, 0x3, 0x3, "RESTORE_GO", .u8, .wo, false, false, 0⟩,
  ⟨0x8130, 0x8130, 0x4, 0x4, "RESTORE_STATE", .u8, .ro, false, false, 0⟩,
  ⟨0x8130, 0x8130, 0x5, 0x5, "RESTORE_PROGRESS", .record, .ro, false, false, 0⟩,
  ⟨0x8140, 0x8140, 0x1, 0x1, "FEED_ID_MAIN", .u32, .rw, true, true, 0⟩,
  ⟨0x8140, 0x8140, 0x2, 0x2, "FEED_ID_BACKUP", .u32, .rw, true, true, 0⟩,
  ⟨0x8140, 0x8140, 0x3, 0x3, "PAIR_STATE", .record, .ro, false, false, 0⟩,
  ⟨0x8150, 0x8150, 0x0, 0x0, "SNAPSHOTS_HELD", .u32, .ro, false, false, 0⟩,
  ⟨0x8151, 0x8151, 0x0, 0x0, "CHECKPOINTS_SENT", .u32, .ro, false, false, 0⟩,
  ⟨0x8152, 0x8152, 0x0, 0x0, "CAPTURES_REFUSED", .u32, .ro, false, false, 0⟩,
  ⟨0x8000, 0x8000, 0x1, 0x1, "FAULT_FIRST", .record, .ro, false, false, 0⟩,
  ⟨0x8000, 0x8000, 0x2, 0x2, "FAULT_COUNT", .u32, .ro, false, false, 0⟩,
  ⟨0x8001, 0x8001, 0x0, 0x0, "FDTI", .u32, .const, false, false, 8000⟩,
  ⟨0x8002, 0x8002, 0x0, 0x0, "REACTION_TIME", .u32, .const, false, false, 2000⟩,
  ⟨0x8010, 0x8010, 0x0, 0x0, "SIGNATURE_CHECKS", .u64, .ro, false, false, 0⟩,
  ⟨0x8011, 0x8011, 0x0, 0x0, "UNIT_KAT_PASSES", .u64, .ro, false, false, 0⟩,
  ⟨0x8012, 0x8012, 0x0, 0x0, "SELFTEST_PASSES", .u64, .ro, false, false, 0⟩]

def dictionary5 : List Obj := [
  ⟨0x8013, 0x8013, 0x0, 0x0, "BULK_CRC_LIMITS", .u32, .ro, false, false, 0⟩,
  ⟨0x9000, 0x9000, 0x1, 0x1, "ARITH_SOURCE", .u8, .rws, false, false, 0⟩,
  ⟨0x9000, 0x9000, 0x2, 0x2, "FABRIC_SOURCE", .u8, .rws, false, false, 0⟩,
  ⟨0x9000, 0x9000, 0x3, 0x3, "MEM_SOURCE", .u8, .rws, false, false, 0⟩,
  ⟨0x9000, 0x9000, 0x4, 0x4, "MEDIA_SOURCE", .u8, .rws, false, false, 0⟩,
  ⟨0x9000, 0x9000, 0x5, 0x5, "WARDEN_SOURCE", .u8, .rws, false, false, 0⟩,
  ⟨0x9000, 0x9000, 0x6, 0x6, "CFG_SOURCE", .u8, .rws, false, false, 0⟩,
  ⟨0x9000, 0x9000, 0x7, 0x7, "CFG_DIV", .u8, .rws, false, false, 1⟩,
  ⟨0x9000, 0x9000, 0xfe, 0xfe, "CLOCK_GENERATION", .u32, .ro, false, false, 0⟩,
  ⟨0x9000, 0x9000, 0xff, 0xff, "CLOCK_APPLY", .u32, .wo, false, false, 0⟩,
  ⟨0x9001, 0x9001, 0x0, 0x0, "FEED_RETURN", .u8, .rw, true, false, 1⟩,
  ⟨0x9010, 0x9010, 0x1, 0x39, "CLOCK_DOMAINS", .record, .ro, false, false, 0⟩,
  ⟨0x9011, 0x9011, 0x0, 0x0, "PLL_SWITCHOVERS", .u32, .ro, false, false, 0⟩,
  ⟨0x9020, 0x9020, 0x0, 0x0, "ACTIVE_FEED_NOW", .u8, .ro, false, false, 0⟩,
  ⟨0x9021, 0x9021, 0x1, 0x1, "MAIN_VOLTAGE", .f32, .ro, false, false, 0⟩,
  ⟨0x9021, 0x9021, 0x2, 0x2, "BACKUP_VOLTAGE", .f32, .ro, false, false, 0⟩,
  ⟨0x9021, 0x9021, 0x3, 0x3, "INPUT_POWER_KW", .f32, .ro, false, false, 0⟩,
  ⟨0x9022, 0x9022, 0x0, 0x0, "SWITCHOVER_COUNT", .u32, .ro, false, false, 0⟩,
  ⟨0x9023, 0x9023, 0x0, 0x0, "FEED_RETURNS", .u32, .ro, false, false, 0⟩,
  ⟨0x9030, 0x9030, 0x1, 0x8, "STRETCH_TIME", .u64, .ro, false, false, 0⟩,
  ⟨0x9040, 0x9040, 0x1, 0x64, "DIE_TEMPERATURE", .u8, .ro, false, false, 0⟩,
  ⟨0xb000, 0xb000, 0x1, 0x1, "START_STAGE", .u8, .ro, false, false, 9⟩,
  ⟨0xb000, 0xb000, 0x2, 0x2, "BOOT_CAUSE", .u8, .ro, false, false, 0⟩,
  ⟨0xb000, 0xb000, 0x3, 0x3, "BOOT_COUNT", .u32, .ro, false, false, 0⟩,
  ⟨0xb000, 0xb000, 0x4, 0x4, "START_TIME_MS", .u32, .ro, false, false, 0⟩,
  ⟨0xb000, 0xb000, 0x5, 0x5, "MODULE_RESTART", .u8, .wo, false, false, 0⟩,
  ⟨0xb010, 0xb010, 0x1, 0x2, "FW_SLOT", .record, .ro, false, false, 0⟩,
  ⟨0xb011, 0xb011, 0x0, 0x0, "FW_CONFIRM", .blob, .wo, false, false, 0⟩,
  ⟨0xb012, 0xb012, 0x0, 0x0, "FW_CARD_INSTALL", .u8, .wo, false, false, 0⟩,
  ⟨0xb013, 0xb013, 0x0, 0x0, "FW_RESULT", .u8, .ro, false, false, 0⟩,
  ⟨0xb014, 0xb014, 0x0, 0x0, "CARD_STATE", .u8, .ro, false, false, 0⟩,
  ⟨0xb020, 0xb020, 0x1, 0x1, "SECURITY_COUNTER", .u8, .ro, false, false, 0⟩,
  ⟨0xb020, 0xb020, 0x2, 0x2, "ROOT_KEY_DIGEST", .blob, .const, false, false, 0⟩,
  ⟨0xb020, 0xb020, 0x3, 0x3, "LIFECYCLE_STATE", .u8, .ro, false, false, 0⟩,
  ⟨0xb020, 0xb020, 0x4, 0x4, "LIFECYCLE_RETURN", .blob, .wo, false, false, 0⟩,
  ⟨0xb030, 0xb030, 0x1, 0x1, "ATTEST_NONCE", .blob, .wo, false, false, 0⟩,
  ⟨0xb030, 0xb030, 0x2, 0x2, "ATTEST_REPORT", .blob, .ro, false, false, 0⟩,
  ⟨0xb030, 0xb030, 0x3, 0x3, "IDENTITY_PUBLIC_KEY", .blob, .ro, false, false, 0⟩,
  ⟨0xb030, 0xb030, 0x4, 0x4, "IDENTITY_CERT", .blob, .ro, false, false, 0⟩,
  ⟨0xb040, 0xb040, 0x1, 0x40, "MEDIA_TABLE", .blob, .rw, true, false, 0⟩]

def dictionary6 : List Obj := [
  ⟨0xa001, 0xa001, 0x1, 0x3, "SCRUB_PASSES", .record, .ro, false, false, 0⟩,
  ⟨0xa002, 0xa002, 0x0, 0x0, "FLASH_WEAR", .record, .ro, false, false, 0⟩,
  ⟨0xa003, 0xa003, 0x0, 0x0, "FLASH_VERIFY", .record, .ro, false, false, 0⟩,
  ⟨0xa010, 0xa010, 0x0, 0x0, "EVENT_LOG", .blob, .ro, false, false, 0⟩,
  ⟨0xa011, 0xa011, 0x0, 0x0, "EVENT_RECORDS", .u64, .ro, false, false, 0⟩,
  ⟨0xa012, 0xa012, 0x0, 0x0, "FAULT_HISTORY", .blob, .ro, true, false, 0⟩,
  ⟨0xa020, 0xa020, 0x0, 0x0, "TELEMETRY_RECORDS", .u64, .ro, false, false, 0⟩,
  ⟨0x9050, 0x9050, 0x0, 0x0, "OSCDLY_SAMPLED", .u8, .ro, false, false, 0⟩,
  ⟨0x9051, 0x9051, 0x1, 0x1, "COOLANT_INLET_TEMP", .f32, .ro, false, false, 0⟩,
  ⟨0x9051, 0x9051, 0x2, 0x2, "COOLANT_OUTLET_TEMP", .f32, .ro, false, false, 0⟩,
  ⟨0x9052, 0x9052, 0x0, 0x0, "TAMPER_LEVEL", .bool, .ro, false, false, 0⟩]

/-- The dictionary. -/
def dictionary : List Obj := dictionary0 ++ dictionary1 ++ dictionary2 ++ dictionary3 ++ dictionary4 ++ dictionary5 ++ dictionary6

/-- The object at an index and subindex. -/
def objAt (index sub : Nat) : Option Obj := dictionary.find? fun o => decide (o.lo ≤ index ∧ index ≤ o.hi ∧ o.sub0 ≤ sub ∧ sub ≤ o.sub1)
/-- An index that some chapter defines. -/
def indexDefined (index : Nat) : Bool := dictionary.any fun o => decide (o.lo ≤ index ∧ index ≤ o.hi)
/-- The default of an object as its bytes. -/
def Obj.default (o : Obj) : Bytes := match o.type.size with | some n => leBytes n o.dflt | none => []

/-! ### Staged groups (R426) -/

/-- The staged objects of a group, with their subindices. -/
def groupSubs (g : Nat) : List (Nat × Obj) :=
  (dictionary.filter fun o => o.access = .rws ∧ o.lo ≤ g ∧ g ≤ o.hi).flatMap fun o => (List.range (o.sub1 + 1 - o.sub0)).map fun i => (o.sub0 + i, o)
/-- An index that is a staged group. -/
def isGroup (g : Nat) : Bool := dictionary.any fun o => o.access = .rws ∧ o.lo ≤ g ∧ g ≤ o.hi

/-- The stored bytes of a key, `d` where nothing is stored. -/
def bytesOr (m : List (Nat × Bytes)) (k : Nat) (d : Bytes) : Bytes := match m.find? fun e => e.1 = k with | some e => e.2 | none => d
/-- The active value and the shadow of a staged object. -/
def State.activeBytes (s : State) (index sub : Nat) (o : Obj) : Bytes := bytesOr s.tally.active (objKey index sub) o.default
def State.shadowBytes (s : State) (index sub : Nat) (o : Obj) : Bytes := bytesOr s.tally.shadow (objKey index sub) (s.activeBytes index sub o)

end Sys2Proof.Machine
end

