-- ==== Sys2Proof/Machine/Host.lean ====
section
/-! DEFINITION. The host port: serving a management request, operator sessions, the host link, other frames (15). -/

namespace Sys2Proof.Machine

/-! ### Abort codes (R433) -/

def abNoObject : Nat := 0x10001
def abNoSubindex : Nat := 0x10002
def abNoRegister : Nat := 0x10003
def abNotReadable : Nat := 0x20001
def abNotWritable : Nat := 0x20002
def abNoSession : Nat := 0x20003
def abAuthFailed : Nat := 0x20004
def abAuthLocked : Nat := 0x20005
def abSessionLimit : Nat := 0x20006
def abTypeLength : Nat := 0x30001
def abRange : Nat := 0x30002
def abState : Nat := 0x40001
def abCommandBeat : Nat := 0x40002
def abPausePending : Nat := 0x40003
def abPeersNotReady : Nat := 0x40004
def abBusy : Nat := 0x40005
def abGeneration : Nat := 0x50001
def abInconsistent : Nat := 0x50002
def abSegmentOrder : Nat := 0x60001
def abFraming : Nat := 0x60002
def abStoreFull : Nat := 0x70001
def abStoreFault : Nat := 0x70002
def abOverload : Nat := 0x80001
def abBadRequest : Nat := 0x80002

/-! ### Sessions (R412 to R416) -/

/-- The session a request carries, where it is open and comes from its own address (R413). -/
def State.session (s : State) (addr : Bytes) (id : Nat) : Option Session :=
  if id = 0 then none else s.host.sessions.find? fun x => decide (x.id = id ∧ x.addr = addr)

/-- `OPERATOR_KEY` slot `n`. -/
def State.operatorKey (s : State) (n : Nat) : Bytes := ((s.tally.rw.find? fun e => e.1 = objKey 0x1030 (n + 1)).map (·.2)).getD []
/-- Every key slot is empty (R416). -/
def State.noKeys (s : State) : Bool := (List.range 8).all fun n => s.operatorKey n = []

/-- What becomes of a flow's use when the flow ends without a clean close (R421, R448, R456). -/
def State.flowLost (s : State) (f : Flow) : State :=
  let s : State := if f.channel = 1 then { s with host := { s.host with library := sset [] s.host.library f.sub [] } } else s
  let s : State := match s.snap.checkpoint with
    | some c => if c.flow = some f.id then
        ({ s with snap := { s.snap with checkpoint := some { c with flow := none, since := s.time.cycles } } }).event wardenSrc 0x3306
      else s
    | none => s
  if s.snap.restore.flow = some f.id ∧ s.snap.restore.state = 1 then
    ({ s with snap := { s.snap with restore := { s.snap.restore with state := 3, flow := none, verified := 0, image := [], manifest := [] } } }).event
      wardenSrc 0x3308
  else s
/-- Close a flow from the module's side. -/
def State.closeFlow (s : State) (f : Flow) : State :=
  ({ s with host := { s.host with flows := s.host.flows.filter fun x => x.id ≠ f.id } }).flowLost f
/-- Close a flow, telling the host the code. -/
def State.closeWith (s : State) (f : Flow) (abort : Nat) : State := (s.closeFlow f).sendHost (.bulk f.id 5 f.channel f.next 0 (u32 abort))

/-- Close a session and its flows; the cause: 0 `SESSION_CLOSE`, 1 idle, 2 key written. -/
def State.closeSession (s : State) (id cause : Nat) : State :=
  let mine := s.host.flows.filter fun f => f.session = id
  let s := mine.foldl State.closeFlow s
  ({ s with host := { s.host with sessions := s.host.sessions.filter (fun x => x.id ≠ id),
                                  seqs := s.host.seqs.filter (fun e => e.session ≠ id) } }).event wardenSrc 0x8202 (u8 cause)

/-! ### Serving a request (R409 to R413) -/

/-- The answer to an executed request. -/
structure Answer where
  abort : Nat
  data : Bytes := []
  last : Bool := true
  s : State

/-- A refusal that changes nothing. -/
def refuse (s : State) (abort : Nat) : Answer := ⟨abort, [], true, s⟩
/-- Success without data. -/
def accept (s : State) : Answer := ⟨0, [], true, s⟩

/-- `OTDIN_REQUESTS`, `OTDIN_DUPLICATES`, `OTDIN_DISCARDS`. -/
def kRequests : Nat := objKey 0x1040 0
def kDuplicates : Nat := objKey 0x1041 0
def kOtdinDiscards : Nat := objKey 0x1042 0

def reqKey (q : Req) : Nat := objKey q.index q.sub
/-- The response to a request. -/
def reqResponse (q : Req) (op abort : Nat) (last : Bool) (data : Bytes) : Response :=
  ⟨q.addr, q.session, q.seq, op, (reqKey q), q.offset, abort, last, data⟩

/-- The entry of the sequence state that a request falls under. -/
def State.seqEntry (s : State) (sid : Nat) (addr : Bytes) : Option SeqEntry :=
  s.host.seqs.find? fun e => if sid = 0 then decide (e.session = 0 ∧ e.addr = addr) else decide (e.session = sid)

/-- Keep the response to an executed request: the last 64 of an entry, at most 64 sessionless entries (R409, R410). -/
def State.keepResponse (s : State) (sid : Nat) (addr : Bytes) (r : Response) : State :=
  let old := ((s.seqEntry sid addr).map (·.kept)).getD []
  let others := s.host.seqs.filter fun e => !(if sid = 0 then decide (e.session = 0 ∧ e.addr = addr) else decide (e.session = sid))
  let loose := others.filter fun e => e.session = 0
  let others := if sid = 0 ∧ 64 ≤ loose.length then
      match loose with | o :: _ => others.filter (fun e => e ≠ o) | [] => others
    else others
  { s with host := { s.host with seqs := others ++ [⟨sid, if sid = 0 then addr else [], r.seq, newest 64 (old ++ [r]), s.time.cycles⟩] } }

/-- The session that a request belongs to; 0 for none (R413). -/
def State.sid (s : State) (q : Req) : Nat := match s.session q.addr q.session with | some x => x.id | none => 0
/-- The state in which a request is executed: its session has been active now (R415). -/
def State.executing (s : State) (q : Req) : State := if s.sid q = 0 then s else s.touch (s.sid q)
/-- A request has been executed with this answer: the response is kept and sent (R407, R409). -/
def Answer.finish (a : Answer) (sid op : Nat) (q : Req) : State :=
  let r := reqResponse q op a.abort a.last a.data
  ((a.s.bump kRequests 1).keepResponse sid q.addr r).sendHost (.response r)

/-- The warden answers nothing while it is held (R477), and nothing before READY (R512). -/
def State.deaf (s : State) : Bool := s.start.wardenHeld || decide (s.start.stage < 9 ∧ s.start.stump = none)
/-- A request has come from an address whose sequence state is kept: 300 s begin again (R410). -/
def State.seqHeard (s : State) (sid : Nat) (addr : Bytes) : State :=
  match s.seqEntry sid addr with
  | some e => { s with host := { s.host with seqs := s.host.seqs.filter (fun x => x ≠ e) ++ [{ e with lastCycle := s.time.cycles }] } }
  | none => s
/-- The state in which a request that the warden hears is looked at: its frame is counted, its session has been active now
(R415), its sequence state has been used now (R410). -/
def State.hearing (s : State) (q : Req) : State := (s.rxFrame.executing q).seqHeard (s.sid q) q.addr

/-- Serve a management request (R409 to R413): a duplicate gets its kept response, a stale number is discarded, every other
request is executed once by `act` and answered. `op`: the operation; `free`: it needs no session; `stump`: it is served in
stump mode. -/
def State.serve (s : State) (q : Req) (op : Nat) (free stump : Bool) (act : State → Answer) : State :=
  if s.deaf then s.rxFrame
  else
    let sid := s.sid q
    let s := s.hearing q
    let entry := s.seqEntry sid q.addr
    let kept := entry.bind fun e => e.kept.find? fun r => r.seq = q.seq
    if q.full then s.sendHost (.response (reqResponse q op abOverload true []))
    else match kept with
    | some r => (s.bump kDuplicates 1).sendHost (.response r)
    | none =>
      if (match entry with | some e => !serialLater e.newest q.seq | none => false) then s.bump kOtdinDiscards 1
      else
        Answer.finish
          (if s.start.stump.isSome && !stump then refuse s abState
            else if sid = 0 && !free then refuse s abNoSession
            else act s) sid op q

/-- A request whose object is `index`:`sub`. -/
def reqIs (q : Req) (index sub : Nat) : Bool := decide (q.index = index ∧ q.sub = sub)

/-- A `WRITE` of a fixed-length object with a row of its own: one segment of `n` bytes at offset 0 (R411, R423). -/
def State.serveWrite (s : State) (q : Req) (index sub n : Nat) (act : State → Nat → Answer) : State :=
  if reqIs q index sub then
    s.serve q 2 false false fun s =>
      if q.offset ≠ 0 ∨ (!q.last ∧ q.data.length < 4096) then refuse s abSegmentOrder
      else if q.data.length ≠ n then refuse s abTypeLength else act s (leNat q.data)
  else s

/-- The open run of an object in a session. -/
def State.runOf (s : State) (sid key : Nat) : Option WriteRun :=
  (s.host.sessions.find? fun x => x.id = sid).bind fun x => x.runs.find? fun r => r.key = key
/-- Set or end the open run of an object in a session. -/
def State.setRun (s : State) (sid key : Nat) (r : Option WriteRun) : State :=
  s.modSession sid fun x => { x with runs := x.runs.filter (fun y => y.key ≠ key) ++ r.toList }
/-- A segment of a BLOB (R411): a refusal ends the run; the last segment hands the whole value to `act`. `bar`: what else
refuses a segment. -/
def State.blobSegment (s : State) (q : Req) (bar : Option Nat) (act : State → Bytes → Answer) : Answer :=
  let key := reqKey q
  let ended := s.setRun q.session key none
  let run := if q.offset = 0 then some ⟨key, 0, []⟩ else (s.runOf q.session key).filter fun r => r.next = q.offset
  match run, bar with
  | none, _ => refuse ended abSegmentOrder
  | some r, bar =>
    let v := r.data ++ q.data
    if !q.last ∧ q.data.length ≠ 4096 then refuse ended abSegmentOrder
    else if 16777216 < v.length then refuse ended abStoreFull
    else match bar with
      | some ab => refuse ended ab
      | none => if !q.last then accept (s.setRun q.session key (some ⟨key, q.offset + q.data.length, v⟩)) else act ended v

/-! ### Session commands (R408, R414, R415) -/

/-- `SESSION_CHALLENGE`. -/
def execSessionChallenge (q : Req) (s : State) : Res :=
  .next (s.serve q 4 true true fun s =>
    if s.host.lockedUntil.isSome then refuse s abAuthLocked
    else
      let n := s.host.nextNonce
      ⟨0, padTo 32 (Config.nonce n), true,
        { s with host := { s.host with nextNonce := n + 1, nonces := newest 16 (s.host.nonces ++ [(n, s.time.cycles)]) } }⟩)

/-- `SESSION_FAILURES`. -/
def kSessionFailures : Nat := objKey 0x1046 0
/-- A `SESSION_OPEN` is refused. -/
def State.openRefused (s : State) (abort : Nat) : Answer := refuse ((s.bump kSessionFailures 1).event wardenSrc 0x8201) abort

/-- A failed verification counts toward the lockout (R414). -/
def State.authFailed (s : State) : Answer :=
  let recent := s.host.failures.filter (fun c => decide (s.time.cycles < c + 60 * secCycles)) ++ [s.time.cycles]
  let s1 := { s with host := { s.host with failures := recent } }
  let s2 := if 8 ≤ recent.length ∧ s1.host.lockedUntil.isNone then
      ({ s1 with host := { s1.host with failures := [], lockedUntil := some (s1.time.cycles + 60 * secCycles) } }).event wardenSrc 0x8203
    else s1
  s2.openRefused abAuthFailed

/-- `SERIAL_NUMBER`, 16 ASCII bytes. -/
def serialNumber : Bytes := padTo 16 Config.serial

/-- `SESSION_OPEN`. -/
def execSessionOpen (q : Req) (s : State) : Res :=
  .next (s.serve q 5 true true fun s =>
    if q.data.length ≠ 3345 then s.openRefused abTypeLength
    else if 4 ≤ s.host.sessions.length then s.openRefused abSessionLimit
    else
      let slot := fieldAt q.data 0 1
      let nonce := slice q.data 4 32
      let sig := q.data.drop 36
      let found := s.host.nonces.find? fun n => padTo 32 (Config.nonce n.1) = nonce
      let s1 := { s with host := { s.host with nonces := s.host.nonces.filter fun n => found ≠ some n } }
      let fresh := match found with | some n => decide (s.time.cycles ≤ n.2 + 10 * secCycles) | none => false
      let key := if slot < 8 then s.operatorKey slot else []
      if fresh && decide (key.length = 1952) && Config.mlDsaVerify key (ascii "OTDIN-SESSION-1") (nonce ++ serialNumber ++ q.addr) sig then
        let id := Config.sessionId s1.host.nextSession % (2 ^ 32 - 1) + 1
        let x : Session := { id := id, slot := slot, addr := q.addr, opened := s1.stamp, last := s1.stamp, lastCycle := s1.time.cycles }
        ⟨0, u32 id, true, ({ s1 with host := { s1.host with nextSession := s1.host.nextSession + 1, sessions := s1.host.sessions ++ [x] } }).event
          wardenSrc 0x8200 (u32 slot)⟩
      else s1.authFailed)

/-- `SESSION_CLOSE`. -/
def execSessionClose (q : Req) (s : State) : Res :=
  .next (s.serve q 6 false false fun s => accept (s.closeSession q.session 0))

/-- `KEEPALIVE` returns `BEAT_NOW`. -/
def execKeepalive (q : Req) (s : State) : Res := .next (s.serve q 7 false false fun s => ⟨0, u64 s.stamp, true, s⟩)

/-- A management datagram with an operation code that R408 does not define. -/
def execUndefinedOmOp (q : Req) (op : Nat) (s : State) : Res :=
  .next (if 1 ≤ op ∧ op ≤ 7 then s else s.serve q op true false fun s => refuse s abBadRequest)

/-- `SESSION_IDLE_TIMEOUT`: a session that has been idle for 300 s. -/
def execSessionIdleTimeout (id : Nat) (s : State) : Res :=
  match s.host.sessions.find? fun x => x.id = id with
  | some x => .next (if x.lastCycle + 300 * secCycles ≤ s.time.cycles then s.closeSession id 1 else s)
  | none => .next s

/-- `SEQUENCE_ENTRY_EXPIRY`: the sequence state of a sessionless address, 300 s after its last request. -/
def execSequenceEntryExpiry (addr : Bytes) (s : State) : Res :=
  .next { s with host := { s.host with
    seqs := s.host.seqs.filter fun e => !decide (e.session = 0 ∧ e.addr = addr ∧ e.lastCycle + 300 * secCycles ≤ s.time.cycles) } }

/-- `AUTH_LOCK_EXPIRY`: the lockout ends. -/
def execAuthLockExpiry (s : State) : Res :=
  match s.host.lockedUntil with
  | some t => .next (if t ≤ s.time.cycles then { s with host := { s.host with lockedUntil := none } } else s)
  | none => .next s

/-! ### Operator keys (R416) -/

/-- An RW or persistent value changes: it is in force at once and waits to be stored (R424, R425). -/
def State.putValue (s : State) (key : Nat) (v : Bytes) (persistent : Bool) : State :=
  { s with tally := { s.tally with rw := (key, v) :: s.tally.rw.filter fun e => e.1 ≠ key },
           start := { s.start with dirty := if persistent && !s.start.dirty.contains key then s.start.dirty ++ [key] else s.start.dirty } }

/-- `OPERATOR_KEY`: the write of key slot `sub` - 1. The first key may be written without a session. -/
def execOperatorKey (q : Req) (s : State) : Res :=
  if q.index = 0x1030 ∧ 1 ≤ q.sub ∧ q.sub ≤ 8 then
    let first := s.noKeys && decide (q.sub = 1)
    .next (s.serve q 2 first false fun s =>
      s.blobSegment q (if s.job.state ≠ .empty ∧ first = false then some abState else none) fun s v =>
        if v.length ≠ 0 ∧ v.length ≠ 1952 then refuse s abTypeLength
        else
          let s1 := (s.putValue (reqKey q) v true).event wardenSrc 0x8204
          let out := s1.host.sessions.filter fun x => s1.noKeys || decide (x.slot + 1 = q.sub)
          accept (out.foldl (fun s x => s.closeSession x.id 2) s1))
  else .next s

/-! ### The host link and other frames (R404 to R406, R431, R432) -/

/-- The source ID of the Ethernet die (R434). -/
def ethSrc : Nat := dieSrc 96
/-- The FEC counters and `FRAMES_DROPPED` (R431). -/
def kFec : Nat := regBase 96 + 0x08
def kFecBad : Nat := regBase 96 + 0x10
def kFramesDropped : Nat := regBase 96 + 0x28

/-- `HOST_LINK_UP`. -/
def execHostLinkUp (s : State) : Res :=
  .next (if s.host.linkState = 2 then s
    else ({ s with host := { s.host with linkState := 2, linkChanged := true } }).event ethSrc 0x6500)

/-- `HOST_LINK_DOWN`: an event; the job runs on, sessions and flows survive to their idle limits. -/
def execHostLinkDown (s : State) : Res :=
  .next (if s.host.linkState ≠ 2 then s
    else ({ s with host := { s.host with linkState := 0, linkChanged := true } }).event ethSrc 0x6501)

/-- `MAC_ADDRESS` as six octets, the first from bits [47:40]. PRESUMED (log 112). -/
def macOctets : Bytes := (leBytes 6 Config.mac).reverse
/-- The IPv6 link-local address that the modified EUI-64 rule forms from `MAC_ADDRESS` (R529). -/
def linkLocal : Bytes :=
  [0xFE#8, 0x80#8] ++ List.replicate 6 0#8 ++ ((macOctets.take 1).map (· ^^^ 2#8)) ++ slice macOctets 1 2 ++ [0xFF#8, 0xFE#8] ++ macOctets.drop 3
/-- The IPv4-mapped form of an IPv4 address, its first octet in bits [31:24] (R414, R423). -/
def v4Mapped (a : Nat) : Bytes := List.replicate 10 0#8 ++ [0xFF#8, 0xFF#8] ++ (leBytes 4 a).reverse
/-- The module's own addresses (R404): those of group 0x1020; in stump mode, where it has none, the link-local one (R529). -/
def State.ownAddrs (s : State) : List Bytes :=
  let v4 := s.active 0x1020 2 0
  let v6 := bytesOr s.tally.active (objKey 0x1020 5) []
  let own := (if v4 = 0 then [] else [v4Mapped v4]) ++ (if v6 = [] then [] else [v6])
  if own = [] ∧ s.start.stump.isSome then [linkLocal] else own
/-- A frame for the address `target` is answered where that is an address of the module, and dropped otherwise (R404, R405). -/
def State.answerFrame (s : State) (target : Bytes) (kind : Nat) (data : Bytes) : State :=
  let s := s.rxFrame
  if s.start.wardenHeld then s
  else if s.ownAddrs.contains target then s.sendHost (.netFrame kind data) else s.bump kFramesDropped 1

/-- `ICMP_ECHO_REQUEST`: an echo request to `target`; the answer carries the same data. -/
def execIcmpEchoRequest (target data : Bytes) (s : State) : Res := .next (s.answerFrame target 0 data)

/-- `NEIGHBOUR_REQUEST`: ARP or Neighbour Solicitation for `target`; the answer gives `MAC_ADDRESS`. -/
def execNeighbourRequest (target data : Bytes) (s : State) : Res := .next (s.answerFrame target 1 (macOctets ++ data))

/-- A management datagram (R407). -/
def omDatagram (op flags seq session index sub offset abort : Nat) (data : Bytes) : Bytes :=
  let front := u16 1 ++ u8 op ++ u8 flags ++ u32 seq ++ u32 session ++ u16 index ++ u8 sub ++ u8 0 ++ u32 offset ++ u16 data.length ++ u16 0
    ++ u32 abort
  front ++ u32 (crc32c (front ++ u32 0 ++ data)).toNat ++ data
/-- The datagram of a response: `RESPONSE`, and `LAST` on a last segment. -/
def Response.datagram (r : Response) : Bytes :=
  omDatagram r.op (1 + (if r.last then 2 else 0)) r.seq r.session (r.key / 256) (r.key % 256) r.offset r.abort r.data
/-- The first 28 bytes of a bulk datagram (R417). -/
def obFront (kind channel flow block sub window length : Nat) : Bytes :=
  u16 1 ++ u8 kind ++ u8 channel ++ u32 flow ++ u64 block ++ u32 length ++ u16 sub ++ u16 0 ++ u32 window
/-- `OB_CRC` (R417): over the header, with the field itself zero, and the body. -/
def obCrc (kind channel flow block sub window : Nat) (body : Bytes) : Nat :=
  (crc32c (obFront kind channel flow block sub window body.length ++ u32 0 ++ body)).toNat
/-- The bytes of what the host port sends, where they are an Otdin datagram. -/
def Output.datagram (o : Output) : Option Bytes :=
  match o with
  | .response r => some r.datagram
  | .bulk flow kind channel block window body =>
    some (obFront kind channel flow block 0 window body.length ++ u32 (obCrc kind channel flow block 0 window body) ++ body)
  | _ => none

/-- The check and the version of an Otdin datagram, which both planes place alike (R407, R417). -/
def otdinCrcOk (d : Bytes) : Bool := decide (32 ≤ d.length ∧ fieldAt d 28 4 = (crc32c (d.take 28 ++ u32 0 ++ d.drop 32)).toNat)
def otdinGood (d : Bytes) : Bool := otdinCrcOk d && decide (fieldAt d 0 2 = 1)

/-- `FRAME_DISCARDED`: `dgram`, the Otdin datagram that the frame brought; none for a frame, fragment or datagram that matches
nothing of R404. With it, codewords that the FEC corrected, and those it could not. A datagram that is good is no such event, and
changes nothing more. -/
def execFrameDiscarded (dgram : Option Bytes) (corrected uncorrectable : Nat) (s : State) : Res :=
  let s := ((s.rxFrame).bump kFec corrected).bump kFecBad uncorrectable
  let s : State := if 0 < uncorrectable then { s with host := { s.host with fecUncorrected := true } } else s
  .next (match dgram with
    | none => s.bump kFramesDropped 1
    | some d =>
      if otdinGood d then s
      else
        let s := s.bump kOtdinDiscards 1
        if otdinCrcOk d then s else { s with host := { s.host with crcDiscard := true } })

end Sys2Proof.Machine
end

