-- ==== Sys2Proof/Machine/Time.lean ====
section
/-! DEFINITION. The time engine: ticks, updates of the source, lock, holdover and loss, beat marks (02). -/

namespace Sys2Proof.Machine

/-- The nominal frequency word, and 500 ppm of it (R29, R46). -/
def nominalWord : Nat := 0xA000000000
def wordSpan : Nat := 343597383
/-- 2^96: the counter's units in one full span of 64-bit stamps (R27). -/
def counterEnd : Nat := 2 ^ 96
/-- The lock window and the limit of slewing, in sub-beat units (R33, R37). -/
def lockWindow : Int := 4096
def slewLimit : Int := 32 * 65536

/-- The word the servo puts in force for an offset: what it chooses, held within 500 ppm of nominal and on the side of
nominal that reduces the offset (R29). -/
def steer (offset : Int) (word : Nat) : Nat :=
  let w := Config.servoWord offset word
  if 0 < offset then min (max w (nominalWord - wordSpan)) (nominalWord - 1)
  else if offset < 0 then min (max w (nominalWord + 1)) (nominalWord + wordSpan)
  else min (max w (nominalWord - wordSpan)) (nominalWord + wordSpan)

/-- Time passes: `n` engine cycles, to the counter value `c`. -/
def TimeEngine.pass (t : TimeEngine) (c n : Nat) : TimeEngine :=
  { t with counter := c, cycles := t.cycles + n,
           holdover := if t.state = .holdover then t.holdover + n else t.holdover }

/-- The ports that are up, ascending. -/
def State.upPorts (s : State) : List Nat := (List.range 16).filter fun n => (s.port n).state = .up

/-- The frame of a beat mark: the sender's counter, then zeros (R378). -/
def markFrame (counter ack : Nat) : SkidFrame :=
  sealFrame { kind := 2, cls := 0, first := false, last := false, seq := 0, ack := ack, creditClass := 0, credits := 0,
              payload := padTo 256 (u64 counter), fcrc := 0 }

/-- Slot 0 of a beat: a port sends its mark; the traffic that waits takes the slots after it (R378). -/
def State.sendMark (s : State) (n : Nat) : State :=
  (((s.modPort n fun p => { p with framesTx := p.framesTx + 1, slot := 1, slotBeat := s.beat }).emit
    (.frame n (markFrame s.stamp (s.port n).rxSeq)))).pumpPort n

/-- Every port that is up sends its mark, and the warden marks the spine, which aligns every die's replica (R32, R39, R378). -/
def State.sendMarks (s : State) : State :=
  let s := s.upPorts.foldl State.sendMark s
  { s with time := { s.time with marks := s.time.marks + 1 } }.emit (.spineMark s.stamp)

/-- `n` cycles of the time engine: each adds the frequency word. The beat number does not wrap (R27, R29); cycles that cross a
beat boundary send the marks (R378). -/
def State.advance (s : State) (n : Nat) : State :=
  let c := s.time.counter + n * s.time.freqWord
  if counterEnd ≤ c then { s with time := s.time.pass s.time.counter n }
  else
    let t := { s with time := s.time.pass c n }
    if t.beat = s.beat then t else t.sendMarks

/-- One cycle of the time engine. -/
def State.tick (s : State) : State := s.advance 1

/-- The time engine enters `LOCKED` (R33, R37). DESIGN CHOICE (log 92): the records of the time engine carry the warden's own
source ID and no values, which R38 does not state. -/
def State.lock (s : State) : State :=
  { s with time := { s.time with state := .locked, everLocked := true, holdover := 0, lockedWord := s.time.freqWord } }.event
    wardenSrc 0x6100

/-- The time engine enters `LOST` because an offset is too large to slew (R37, R582). -/
def State.timeStep (s : State) : State := { s with time := { s.time with state := .lost } }.fault wardenSrc 0x6103

/-- An update inside or outside the lock window steers the word and counts toward lock (R582). Outside it, `lockedWord` keeps the
word last in force in `LOCKED`. -/
def State.track (s : State) (offset : Int) : State :=
  let inside := decide (-lockWindow ≤ offset ∧ offset ≤ lockWindow)
  let t := { s.time with freqWord := steer offset s.time.freqWord }
  let n := if inside then min 16 (t.lockCount + 1) else 0
  match t.state with
  | .locked =>
    if inside then { s with time := { t with lockedWord := t.freqWord } }
    else { s with time := { t with state := .acquiring, lockCount := 0 } }
  | _ =>
    let s := { s with time := { t with state := .acquiring, lockCount := n } }
    if n = 16 then s.lock else s

/-- A valid update of the selected source measures `offset` (R35, R37, R582). `interval`: the update interval it
announces, in tenths of an engine cycle. DESIGN CHOICE (log 91): a step to a time before the epoch, or past the last beat, goes to
the nearest counter value there is; an update in `LOST`, which R37 and R582 do not speak of, only measures the offset. -/
def State.timeUpdate (s : State) (offset : Int) (interval : Nat) : State :=
  let t := { s.time with offset := offset, lastUpdate := s.time.cycles, interval := interval }
  let tooFar := decide (offset < -slewLimit ∨ slewLimit < offset)
  match t.state with
  | .lost => { s with time := t }
  | .unlocked =>
    -- the counter is stepped to the source's time; this update does not count (R35)
    { s with time := { t with counter := min (counterEnd - 1) ((t.counter : Int) - offset * (2 ^ 32 : Nat)).toNat,
                              valid := true, state := .acquiring, lockCount := 0 } }
  | .acquiring => if t.everLocked && tooFar then { s with time := t }.timeStep else { s with time := t }.track offset
  | .locked => if tooFar then { s with time := t }.timeStep else { s with time := t }.track offset
  | .holdover => if tooFar then { s with time := t }.timeStep else { s with time := { t with lockCount := 0 } }.track offset

/-- The Sync interval of a logMessageInterval, in tenths of an engine cycle (R34). -/
def syncInterval (log : Int) : Nat :=
  if 0 ≤ log then 4000000000 * 2 ^ log.toNat else 4000000000 / 2 ^ (-log).toNat

/-- `SOURCE_UPDATE`. Under SKID the interval is one beat (R34). -/
def execSourceUpdate (offset logInterval : Int) (s : State) : Res :=
  .next (s.timeUpdate offset (if s.active 0x7000 1 0 = 1 then 4096 else syncInterval logInterval))

/-- Eight expected intervals have passed with no valid update (R34). -/
def TimeEngine.silent (t : TimeEngine) : Bool := decide (8 * t.interval ≤ 10 * (t.cycles - t.lastUpdate))

/-- The engine enters `HOLDOVER` at the word last in force in `LOCKED` (R33, R37). -/
def State.hold (s : State) : State :=
  { s with time := { s.time with state := .holdover, freqWord := s.time.lockedWord, lockCount := 0 } }.event wardenSrc 0x6101

/-- `SOURCE_LOST`: from `LOCKED`, or from `ACQUIRING` after the first lock, to `HOLDOVER`; from `ACQUIRING` before it
to `UNLOCKED` (R34, R35, R37). -/
def execSourceLost (s : State) : Res :=
  .next (if !s.time.silent then s
    else match s.time.state with
      | .locked => s.hold
      | .acquiring =>
        if s.time.everLocked then s.hold
        else { s with time := { s.time with state := .unlocked, valid := false, lockCount := 0 } }
      | _ => s)

/-- `HOLDOVER_EXPIRED`: 10 s in `HOLDOVER` (R36). -/
def execHoldoverExpired (s : State) : Res :=
  .next (if s.time.state = .holdover ∧ 10 * secCycles ≤ s.time.holdover then
      { s with time := { s.time with state := .lost } }.fault wardenSrc 0x6102
    else s)

/-- `BEAT_OVERFLOW`: the next cycle would pass the largest beat (R27). DESIGN CHOICE (log 93): `TIME_STATE` stays as it was, since
R33 names other grounds for `LOST`. -/
def execBeatOverflow (s : State) : Res :=
  .next (if counterEnd ≤ s.time.counter + s.time.freqWord then s.fault wardenSrc 0x6102 else s)

/-- A quarter beat in sub-beat units (R38). -/
def quarterBeat : Int := 16384

/-- The peer offset of a mark is taken; the 64th consecutive one above a quarter beat raises `PEER_BEAT_SKEW` (R38). DESIGN CHOICE
(log 94): a beat without a good mark neither adds to the run nor ends it, since it measures no offset. -/
def State.notePeer (s : State) (port : Nat) (offset : Int) : State :=
  let wide := decide (offset < -quarterBeat ∨ quarterBeat < offset)
  let run := if wide then sget 0 s.time.peerSkew port + 1 else 0
  let s := { s with time := { s.time with peerOffset := sset 0 s.time.peerOffset port offset,
                                          peerSkew := sset 0 s.time.peerSkew port run } }
  if run = 64 then s.event wardenSrc 0x6104 else s

/-- `BEAT_MARK` on a port that is up (R32, R34, R38); bytes 0 to 7 of the payload hold the sender's counter (R378). -/
def execBeatMark (port : Nat) (f : SkidFrame) (s : State) : Res :=
  .next (if (s.port port).state ≠ .up then s
    else if !crcOk f then s.modPort port (fun p => { p with crcMismatch := true })
    else
      let s := s.modPort port (fun p => { p with framesRx := p.framesRx + 1 })
      let offset : Int := (s.stamp : Int) - fieldAt f.payload 0 8 - (s.port port).delay
      let s := s.notePeer port offset
      if s.active 0x7000 1 0 = 1 ∧ s.active 0x7000 2 0 = port then s.timeUpdate offset 4096 else s)

/-- The engine cycles up to the first at or after the next beat boundary. -/
def State.toBoundary (s : State) : Nat := ((s.beat + 1) * 2 ^ 48 - s.time.counter + s.time.freqWord - 1) / s.time.freqWord

/-- `BEAT_BOUNDARY`: time passes up to the next beat boundary, and the marks go out. There is none past the last beat (R27). -/
def execBeatBoundary (s : State) : Res :=
  .next (if counterEnd ≤ (s.beat + 1) * 2 ^ 48 then s else s.advance s.toBoundary)

/-- One list of numbers comes before another, the first difference deciding. -/
def listLt : List Nat → List Nat → Bool
  | [], [] => false
  | [], _ :: _ => true
  | _ :: _, [] => false
  | a :: as, b :: bs => if a < b then true else if b < a then false else listLt as bs

/-- The best transmitter of those heard. -/
def best : List Announced → Option Announced
  | [] => none
  | a :: as => some (as.foldl (fun x y => if listLt y.rank x.rank then y else x) a)

/-- Announce intervals after which a transmitter that is silent is forgotten (PRESUMED: the default of the standard's default
profile, log 95). -/
def announceTimeout : Nat := 3
/-- The interval of a logMessageInterval, in engine cycles. -/
def announceInterval (log : Int) : Nat := syncInterval log / 10

/-- `ANNOUNCE_MESSAGE`: a data set of the domain replaces what its transmitter announced before, and the best
transmitter is selected by the standard's order: priority 1, class, accuracy, variance, priority 2, identity, steps
removed, the sender's port (R31). Under PTP a newly selected transmitter's interval is 1 s until its Sync (R34). -/
def execAnnounceMessage (sender domain identity priority1 clockClass accuracy variance priority2 stepsRemoved : Nat) (logInterval : Int) (s : State) :
    Res :=
  let s := s.rxFrame
  .next (if domain ≠ s.active 0x7000 3 0 then s
    else
      let a : Announced := ⟨sender, [priority1, clockClass, accuracy, variance, priority2, identity, stepsRemoved, sender], s.time.cycles,
        announceInterval logInterval⟩
      let live := s.time.heard.filter fun h => decide (h.sender ≠ sender ∧ s.time.cycles ≤ h.last + announceTimeout * h.interval)
      let heard := live ++ [a]
      let sel := (best heard).map (fun h => h.sender)
      let t := { s.time with heard := heard, selected := sel }
      { s with time := if sel = s.time.selected ∨ s.active 0x7000 1 0 = 1 then t else { t with interval := 4000000000 } })

/-- An apply of group 0x7000 restarts acquisition on the source now selected (R34, R35, R47); `domain`: it changed `PTP_DOMAIN`, so
no transmitter of the domain has been heard. DESIGN CHOICE (log 96): the 8 silent intervals of R34 count from the apply. -/
def State.restartAcquisition (s : State) (domain : Bool) : State :=
  let t := { s.time with lockCount := 0, lastUpdate := s.time.cycles,
                         interval := if s.active 0x7000 1 0 = 1 then 4096 else 4000000000,
                         heard := if domain then [] else s.time.heard, selected := if domain then none else s.time.selected }
  { s with time := if t.everLocked then { t with state := .acquiring }
                   else { t with state := .unlocked, valid := false } }

end Sys2Proof.Machine
end

