-- ==== Sys2Proof/Machine/Groups.lean ====
section
/-! DEFINITION. Staged groups of the Tally: the ranges of values, the consistency rules of each group, and what an apply
does when it takes effect (R47, R148, R286, R300, R339, R348, R366, R423 to R428, R458, R510). -/

namespace Sys2Proof.Machine

/-! ### Own ranges of values (R423) -/

/-- A finite F32 code whose value meets `p`. -/
def f32Ok (bs : Bytes) (p : ℚ → Bool) : Bool := !nonFinite fFP32 (leNat bs) && p (elemVal0 fFP32 (leNat bs))

/-- The range of the constants of a group (R348). -/
def constOk (sub : Nat) (bs : Bytes) : Bool :=
  match sub with
  | 2 | 3 => f32Ok bs fun x => decide (0 ≤ x ∧ x < 1)
  | 4 | 5 | 6 => f32Ok bs fun x => decide (0 ≤ x)
  | 7 | 8 => f32Ok bs fun x => decide (0 < x)
  | _ => f32Ok bs fun _ => true

/-- A value lies in its object's own range. -/
def rangeOk (index sub : Nat) (bs : Bytes) : Bool :=
  let v := leNat bs
  if 0x6400 ≤ index ∧ index < 0x6800 then constOk sub bs
  else match index, sub with
    | 0x7000, 1 => decide (v ≤ 1)
    | 0x7000, 2 => decide (v ≤ 15)
    | 0x7000, 3 => decide (v ≤ 127)
    | 0x7000, 4 => decide (v ≤ 2)
    | 0x7000, 5 => decide (v ≤ 1)
    | 0x2000, 4 => decide (v ≤ 7)
    | 0x4030, 1 => decide (v ≤ 127)
    | 0x4050, 1 => decide (v ≤ 1)
    | 0x5000, 1 => decide (1 ≤ v ∧ v ≤ 1024)
    | 0x5000, 2 => decide (v ≤ 4)
    | 0x5000, 3 => decide (1 ≤ v ∧ v ≤ 1048576)
    | 0x5000, 4 => decide (v ≤ 1)
    | 0x6000, 4 => f32Ok bs fun x => decide (0 ≤ x)
    | 0x6000, _ => decide (v ≤ 1)
    | 0x1020, 1 => decide (v ≤ 1)
    | 0x1020, 3 => decide (v ≤ 32)
    | 0x1020, 6 => decide (1 ≤ v ∧ v ≤ 128)
    | 0x1020, 8 => decide (v ≤ 4094)
    | 0xF000, 2 => decide (v = 4 ∨ v = 8)
    | 0x8130, 2 => decide (v < 4096 ∨ v = 0xFFFE ∨ v = 0xFFFF)
    | 0x8130, 3 => decide (v = 1 ∨ v = 2)
    | 0x9000, 7 => decide (v = 1 ∨ v = 2 ∨ v = 4 ∨ v = 8)
    | 0x9000, _ => decide (v ≤ 2)
    | 0x9001, _ => decide (v ≤ 1)
    | 0xB000, 5 => decide (v = 1)
    | 0xB012, _ => decide (v = 1)
    | _, _ => true

/-- The lengths a BLOB object allows: fixed, or up to 16 MiB (R411, R423). -/
def blobLengthOk (index n : Nat) : Bool :=
  match index with
  | 0x1020 => decide (n = 0 ∨ n = 16)
  | 0x1030 => decide (n = 0 ∨ n = 1952)
  | 0xB011 => decide (n = 64)
  | 0xB020 => decide (n = 16)
  | 0xB030 => decide (n = 32)
  | _ => decide (n ≤ 16777216)

/-! ### Consistency (R426 step 2) -/

/-- A value of a captured group, as a number and as bytes. -/
def capBytes (vs : List (Nat × Bytes)) (g sub : Nat) : Bytes := bytesOr vs (objKey g sub) []
def capNat (vs : List (Nat × Bytes)) (g sub : Nat) : Nat := leNat (capBytes vs g sub)

/-- The values of an apply that differ from the active ones. -/
def State.changedSubs (s : State) (a : PendApply) : List (Nat × Obj) :=
  (groupSubs a.group).filter fun e => capBytes a.values a.group e.1 != s.activeBytes a.group e.1 e.2
/-- A plan is loaded (R63). -/
def State.planLoaded (s : State) : Bool := decide (s.job.state ≠ .empty)

/-- Addresses that a module may not have: multicast, broadcast, unspecified (R428). -/
def v4Bad (a p : Nat) : Bool :=
  decide (a = 0 ∨ a / 2 ^ 28 = 0xE ∨ a = 2 ^ 32 - 1) || decide (p < 31 ∧ a % 2 ^ (32 - p) = 2 ^ (32 - p) - 1)
def v6Bad (a : Bytes) : Bool := decide (a = List.replicate 16 0#8) || decide (fieldAt a 0 1 = 0xFF)
/-- An IPv6 address as a number, its first byte highest. -/
def v6Num (a : Bytes) : Nat := leNat a.reverse

/-- Group 0x1020 is consistent (R428). -/
def netConsistent (vs : List (Nat × Bytes)) : Bool :=
  let v4 := capNat vs 0x1020 2
  let p4 := capNat vs 0x1020 3
  let g4 := capNat vs 0x1020 4
  let v6 := capBytes vs 0x1020 5
  let p6 := capNat vs 0x1020 6
  let g6 := capBytes vs 0x1020 7
  let ok4 := decide (v4 = 0) || (decide (1 ≤ p4) && !v4Bad v4 p4)
  let ok6 := decide (v6 = []) || !v6Bad v6
  let gw4 := decide (g4 = 0) || (decide (v4 ≠ 0 ∧ g4 ≠ v4 ∧ g4 / 2 ^ (32 - p4) = v4 / 2 ^ (32 - p4)) && !v4Bad g4 p4)
  let gw6 := decide (g6 = []) ||
    (decide (v6 ≠ [] ∧ g6 ≠ v6 ∧ v6Num g6 / 2 ^ (128 - p6) = v6Num v6 / 2 ^ (128 - p6)) && !v6Bad g6)
  decide (v4 ≠ 0 ∨ v6 ≠ []) && ok4 && ok6 && gw4 && gw6

/-- An apply of group 0x9000 that only `EMPTY` allows (R510). -/
def clockTest (vs : List (Nat × Bytes)) : Bool := ((List.range 6).any fun d => capNat vs 0x9000 (d + 1) == 2) || capNat vs 0x9000 7 != 1

/-- The state forbids an apply. -/
def State.groupState (s : State) (a : PendApply) : Bool :=
  (s.planLoaded && (s.changedSubs a).any fun e => e.2.commissioning) ||
  match a.group with
  | 0x1020 => decide (s.job.state = .armed ∨ s.job.state = .running ∨ s.job.state = .paused)
  | 0x7000 | 0x4030 | 0x4050 => s.planLoaded
  | 0x8110 => decide (s.job.state ≠ .empty ∧ s.job.state ≠ .loaded)
  | 0x9000 => s.planLoaded && clockTest a.values
  | _ => false

/-- The shadows disagree with one another or with present conditions. -/
def State.groupInconsistent (s : State) (a : PendApply) : Bool :=
  match a.group with
  | 0x1020 => !netConsistent a.values
  | 0x7000 => decide (capNat a.values 0x7000 1 = 1) && decide ((s.port (capNat a.values 0x7000 2)).state ≠ .up)
  | 0x8110 => decide (4096 ≤ capNat a.values 0x8110 1 ∧ capNat a.values 0x8110 1 ≠ 0xFFFF)
  | _ => false

/-- A value outside its range. -/
def groupRange (a : PendApply) : Bool :=
  ((groupSubs a.group).any fun e => !rangeOk a.group e.1 (capBytes a.values a.group e.1))
    || (a.group == 0x4050 && capNat a.values 0x4050 2 % 2 ^ 28 != 0)

/-- The checks of an apply: the abort code, 0 where it may take effect. -/
def State.groupCheck (s : State) (a : PendApply) : Nat :=
  if s.groupState a then abState else if groupRange a then abRange else if s.groupInconsistent a then abInconsistent else 0

/-! ### Taking effect (R426 steps 4 and 5) -/

/-- Pending persistent keys that wait for the store. -/
def State.markDirty (s : State) (keys : List Nat) : State :=
  { s with start := { s.start with dirty := (s.start.dirty ++ keys).dedup } }

/-- The captured values become active; shadows not written since take them. -/
def State.putActive (s : State) (a : PendApply) : State :=
  let dirty := ((s.changedSubs a).filter fun e => e.2.persistent).map fun e => objKey a.group e.1
  ({ s with tally := { s.tally with
      active := a.values ++ s.tally.active.filter fun e : Nat × Bytes => e.1 / 256 ≠ a.group,
      shadow := s.tally.shadow.filter fun e : Nat × Bytes => e.1 / 256 ≠ a.group ∨ s.tally.written.contains e.1 } }).markDirty dirty

/-- A clock instance, and the domain of an instance (R486): 0 ARITH, 1 FABRIC, 2 MEM, 3 MEDIA, 4 WARDEN, 5 CFG. -/
def State.inst (s : State) (i : Nat) : ClkInst := sget {} s.power.inst i
def State.modInst (s : State) (i : Nat) (f : ClkInst → ClkInst) : State := { s with power := { s.power with inst := supd {} s.power.inst i f } }
def clkDomain (i : Nat) : Nat :=
  if i < 8 then 0 else if i < 12 then 1 else if i < 44 then 2 else if i < 52 then 3 else if i = 52 then 4 else if i = 53 then 5 else 1
/-- The number of instances. -/
def clkInstances : Nat := 57
/-- Nominal frequency of a domain in kHz (R486). -/
def nominalKHz : Nat → Nat
  | 0 => 1400000 | 1 => 1600000 | 2 => 1200000 | 3 => 1000000 | 4 => 800000 | _ => 200000
/-- Frequency of a domain from a source, before any divider (R487). -/
def sourceKHz (domain source : Nat) : Nat := if source = 2 then 100000 else nominalKHz domain

/-- The ratios of R499 are broken by the sources of an apply. -/
def ratioBroken (vs : List (Nat × Bytes)) : Bool :=
  let f (d : Nat) := sourceKHz d (capNat vs 0x9000 (d + 1))
  let cfg := f 5 / capNat vs 0x9000 7
  ((List.range 5).any fun d => decide (f d < 4 * cfg)) || decide (10 * f 1 < 11 * f 2)

/-- Begin to switch a running instance to a source (R489). -/
def State.beginSwitch (s : State) (i source : Nat) : State := s.modInst i fun c => { c with switching := some source }

/-- What an apply does beside its values; `changed`: the subindices whose active value changed. -/
def State.applyEffect (s : State) (a : PendApply) (changed : List Nat) : State :=
  match a.group with
  | 0x7000 =>
    if changed = [] then s
    else
      let s := s.restartAcquisition (changed.contains 3)
      if changed.contains 1 ∨ (changed.contains 2 ∧ capNat a.values 0x7000 1 = 1) then s.event wardenSrc 0x6106 else s
  | 0x1020 =>
    let s := if changed.contains 2 ∧ capNat a.values 0x1020 2 ≠ 0 then
        s.sendHost (.netFrame 2 (macOctets ++ capBytes a.values 0x1020 2)) else s
    if changed.contains 1 then
      let wasUp := decide (s.host.linkState = 2)
      let s := { s with host := { s.host with linkState := 1, laneMode := capNat a.values 0x1020 1, linkChanged := true } }
      if wasUp then s.event ethSrc 0x6501 else s
    else s
  | 0x9000 =>
    ((List.range clkInstances).filter fun i => (s.inst i).source ≠ capNat a.values 0x9000 (clkDomain i + 1)).foldl
      (fun s i => s.beginSwitch i (capNat a.values 0x9000 (clkDomain i + 1))) s |>.event wardenSrc 0x7022
  | _ => s

/-- The pending apply of a group. -/
def State.pendingOf (s : State) (g : Nat) : Option PendApply := s.tally.pendingApply.find? fun a => a.group = g

/-- The safe point of group `g` is reached. -/
def State.safePoint (s : State) (g : Nat) : State :=
  match s.pendingOf g with
  | none => s
  | some a =>
    let s := { s with tally := { s.tally with pendingApply := s.tally.pendingApply.filter fun p => p.group ≠ g } }
    let ab := s.groupCheck a
    if ab ≠ 0 then s.event wardenSrc 0x8212 (u16 g ++ u32 ab)
    else
      let changed := (s.changedSubs a).map fun e => e.1
      ((s.putActive a).event wardenSrc 0x8210 (u16 g ++ u32 (sget 0 s.tally.gen g))).applyEffect a changed

end Sys2Proof.Machine
end

