-- ==== Sys2Proof/Machine/SyncCmds.lean ====
section
/-! DEFINITION. Synchronisation, time and bounds: `SYNC_WAIT`, `SYNC_SIGNAL`, `BEAT_WAIT`, `BOUND_LOAD`, `MASK`, and the
events that end them (06, 14). -/

namespace Sys2Proof.Machine

/-! ### Sync objects (R174, R175, R389 to R393) -/

/-- The target of a `SYNC_WAIT` (R174). -/
def State.waitTarget (s : State) (w : Nat) : Nat :=
  if bitsOf w 108 108 = 1 then bitsOf w 107 76 else (s.syncDecl (bitsOf w 122 109)).target

/-- A cluster registers a wait with the object's home (R393). -/
def State.registerWait (s : State) (cl id target : Nat) : State :=
  let others := s.sync.waits.filter fun x => x.cluster ≠ cl
  let mine : SyncWaiter := ⟨cl, id, target, decide (target ≤ s.syncValue id)⟩
  let s := { s with sync := { s.sync with waits := others ++ [mine] } }
  s.modCl cl fun c => { c with wait := .sync id target }

/-- `SYNC_WAIT`. -/
def execSyncWait (cl : Nat) (s : State) : Res :=
  .next (s.issue cl (fun _ w => iClass w = 11) (fun _ _ => .ok)
    (fun s f => s.registerWait cl (bitsOf f.word 122 109) (s.waitTarget f.word)))

/-- The home has found the cluster's wait satisfied. -/
def State.waitSatisfied (s : State) (cl : Nat) : Bool := s.sync.waits.any fun x => x.cluster = cl ∧ x.satisfied

/-- `SYNC_WAIT_SATISFIED`. -/
def execSyncWaitSatisfied (cl : Nat) (s : State) : Res :=
  .next (match (s.cl cl).wait with
    | .sync _ _ =>
      if s.waitSatisfied cl && s.clocked cl then
        let s := { s with sync := { s.sync with waits := s.sync.waits.filter fun x => x.cluster ≠ cl } }
        (s.modCl cl fun c => { c with wait := .none }).settle cl
      else s
    | _ => s)

/-- `SYNC_SIGNAL`. -/
def execSyncSignal (cl : Nat) (s : State) : Res :=
  .next (s.issue cl (fun _ w => iClass w = 12) (fun _ _ => .ok)
    (fun s f =>
      let n := (s.cl cl).issueNo
      let g : PendSignal := ⟨n, bitsOf f.word 122 109, bitsOf f.word 108 105, bitsOf f.word 104 89, f.step, f.idx⟩
      (s.place cl).2.modCl cl fun c => { c with signals := c.signals ++ [g] }))

/-- No signal that the same die sent to the same home before signal `n` is still on its way: messages from one source to one
destination arrive in the order sent (R373). -/
def State.inOrder (s : State) (n : Nat) (g : Signal) : Bool :=
  (s.sync.transit.take n).all fun h => !(h.src / 512 == g.src / 512 && s.syncHome h.id == s.syncHome g.id)

/-- `SYNC_SIGNAL_ARRIVAL`: the `n`-th signal on the fabric reaches its home; one that finds the pending queue full stays
on the fabric (R391). -/
def execSyncSignalArrival (n : Nat) (s : State) : Res :=
  .next (match s.sync.transit[n]? with
    | none => s
    | some g =>
      if !s.inOrder n g then s
      else match s.arriveSignal g with
      | none => s
      | some s1 => { s1 with sync := { s1.sync with transit := s1.sync.transit.eraseIdx n } })

/-! ### Points in a step (R67, R176) -/

/-- The beat, in plan time, at which step `k` begins (R67). -/
def State.stepBegin (s : State) (k : Nat) : Nat :=
  s.job.startBeat + (k - s.job.startStep) * (match s.job.plan with | some p => p.stepBeats | none => 0)

/-- The plan time, in sub-beat units, of a point of step `k`. -/
def State.pointOf (s : State) (k : Nat) (offset : Int) (sub : Nat) : Int := ((s.stepBegin k : Int) + offset) * (2 ^ 16 : Nat) + sub

/-- `BEAT_WAIT`; a point already passed blocks nothing. -/
def execBeatWait (cl : Nat) (s : State) : Res :=
  .next (s.issue cl (fun _ w => iClass w = 13) (fun _ _ => .ok)
    (fun s f =>
      let o := signed 32 (bitsOf f.word 122 91)
      let sub := bitsOf f.word 90 75
      if s.pointOf f.step o sub ≤ s.planNow then s else s.modCl cl fun c => { c with wait := .beat o sub }))

/-- `BEAT_WAIT_REACHED`. -/
def execBeatWaitReached (cl : Nat) (s : State) : Res :=
  .next (match (s.cl cl).wait with
    | .beat o sub =>
      if s.pointOf (s.clStep cl) o sub ≤ s.planNow ∧ s.clocked cl then (s.modCl cl fun c => { c with wait := .none }).settle cl else s
    | _ => s)

/-! ### Bound registers (R158, R177) -/

def blForm (w : Nat) : Nat := bitsOf w 122 121
def blDst (w : Nat) : Nat := bitsOf w 120 117
def blSrc (w : Nat) : Nat := bitsOf w 116 113
def blValue (w : Nat) : Nat := bitsOf w 112 81
def blCap (w : Nat) : Nat := bitsOf w 80 49

/-- The shape class entry of class `k` (R55). -/
def State.shapeClass (s : State) (k : Nat) : Option ShapeClass :=
  match s.job.plan with | some p => p.classes.find? (fun c => c.cls = k) | none => none

/-- The class may be written by `BOUND_LOAD`. -/
def State.loadable (s : State) (k : Nat) : Bool := match s.shapeClass k with | some c => c.source == 2 | none => false

/-- Write a bound register. -/
def Cluster.setBound (c : Cluster) (k v : Nat) : Cluster := { c with bounds := sset 0 c.bounds k v }

/-- The derived value of form 2. -/
def Cluster.derived (c : Cluster) (w : Nat) : Nat := min (c.bound (blSrc w) - blValue w) (blCap w)

/-- The checks of R178 for `BOUND_LOAD`. -/
def State.boundCheck (s : State) (cl : Nat) (f : Fetched) : Verdict :=
  let w := f.word
  let a := blValue w % 2 ^ 26
  match firstReason [(3, blForm w == 1 && (a % 4 != 0 || !localOk a 4)), (4, blForm w == 3), (6, !s.loadable (blDst w))] with
  | some r => .field r
  | none =>
    let v := (s.cl cl).derived w
    let mx := match s.shapeClass (blDst w) with | some c => c.plannedMax | none => 0
    if blForm w = 2 ∧ mx < v then .bound (blDst w) v mx else .ok

/-- Issue a `BOUND_LOAD` of the forms that `sel` takes. -/
def boundCommand (sel : Nat → Bool) (act : State → Fetched → State) (cl : Nat) (s : State) : State :=
  s.issue cl (fun _ w => iClass w = 14 ∧ sel (blForm w)) (fun s f => s.boundCheck cl f) act

/-- `BOUND_LOAD_IMMEDIATE`; the undefined form 3 is refused here too. -/
def execBoundLoadImmediate (cl : Nat) (s : State) : Res :=
  .next (boundCommand (fun f => f = 0 ∨ f = 3) (fun s f => s.modCl cl fun c => c.setBound (blDst f.word) (blValue f.word)) cl s)
/-- A load of a bound or mask register is in flight (R152). -/
def State.loadIssue (s : State) (cl : Nat) (mask : Bool) (f : Fetched) : State :=
  (s.place cl).2.modCl cl fun c => { c with loads := c.loads ++ [⟨(s.cl cl).issueNo, mask, f.word, f.step, f.idx⟩] }
/-- The oldest load of a kind. -/
def Cluster.nextLoad (c : Cluster) (mask : Bool) : Option RegLoad := c.loads.find? fun l => l.mask = mask
/-- A load retires: its register is written (R152). -/
def State.loadRetire (s : State) (cl : Nat) (l : RegLoad) (write : Cluster → Cluster) : State :=
  (s.modCl cl fun c => { (write c) with loads := c.loads.filter fun x => x.n ≠ l.n }).settle cl
/-- A bound register takes a number that was read. -/
def loadBound (cl : Nat) (l : RegLoad) (p : Bytes × State) : State := p.2.loadRetire cl l fun c => c.setBound (blDst l.word) (leNat p.1)
/-- The oldest load of a bound register ends; nothing is written where the read fails its check (R240). -/
def State.boundBack (s : State) (cl : Nat) (checks : List MemCheck) : State :=
  match (s.cl cl).nextLoad false with
  | none => s
  | some l =>
    if !s.clocked cl then s
    else
      let (ok, s) := s.checked checks
      if !ok then s else loadBound cl l (s.localRead cl (blValue l.word % 2 ^ 26) 4 l.step)
/-- `BOUND_LOAD_MEMORY`: it issues (`back` is none), or the oldest such load comes back. -/
def execBoundLoadMemory (cl : Nat) (back : Option (List MemCheck)) (s : State) : Res :=
  .next (match back with
    | none => boundCommand (fun f => f = 1) (fun s f => s.loadIssue cl false f) cl s
    | some checks => s.boundBack cl checks)
/-- `BOUND_LOAD_DERIVED`. -/
def execBoundLoadDerived (cl : Nat) (s : State) : Res :=
  .next (boundCommand (fun f => f = 2) (fun s f => s.modCl cl fun c => c.setBound (blDst f.word) (c.derived f.word)) cl s)

/-! ### Mask registers (R167) -/

/-- The bitmap of the bits from `lo` up to `hi`. -/
def rangeBits (lo hi : Nat) : Nat := if lo < hi then (2 ^ (min hi 128) - 2 ^ (min lo 128)) else 0

/-- Write a mask register. -/
def Cluster.setMask (c : Cluster) (m rows cols : Nat) : Cluster :=
  { c with masks := sset (allOnes128, allOnes128) c.masks m (rows, cols) }

/-- `MASK_RECTANGLE`. -/
def execMaskRectangle (cl : Nat) (s : State) : Res :=
  .next (s.issue cl (fun _ w => iClass w = 15 ∧ bitsOf w 120 120 = 0) (fun _ _ => .ok)
    (fun s f =>
      let w := f.word
      s.modCl cl fun c => c.setMask (bitsOf w 122 121) (rangeBits (bitsOf w 119 112) (bitsOf w 111 104))
        (rangeBits (bitsOf w 103 96) (bitsOf w 95 88))))

/-- A mask register takes a bitmap that was read. -/
def loadMask (cl : Nat) (l : RegLoad) (p : Bytes × State) : State :=
  p.2.loadRetire cl l fun c => c.setMask (bitsOf l.word 122 121) (fieldAt p.1 0 16) (fieldAt p.1 16 16)
/-- The oldest load of a mask register ends. -/
def State.maskBack (s : State) (cl : Nat) (checks : List MemCheck) : State :=
  match (s.cl cl).nextLoad true with
  | none => s
  | some l =>
    if !s.clocked cl then s
    else
      let (ok, s) := s.checked checks
      if !ok then s else loadMask cl l (s.localRead cl (bitsOf l.word 87 68 * 64) 64 l.step)
/-- `MASK_BITMAP`: it issues (`back` is none), or the oldest such load comes back. -/
def execMaskBitmap (cl : Nat) (back : Option (List MemCheck)) (s : State) : Res :=
  .next (match back with
    | none => s.issue cl (fun _ w => iClass w = 15 ∧ bitsOf w 120 120 = 1)
        (fun _ f => if localOk (bitsOf f.word 87 68 * 64) 64 then .ok else .field 3) (fun s f => s.loadIssue cl true f)
    | some checks => s.maskBack cl checks)

end Sys2Proof.Machine
end

