-- ==== Sys2Proof/Machine/UpdateMath.lean ====
section
/-! DEFINITION. Arithmetic of the near-memory engine: FP32 operations rounded once, exact sums, the update rules (R270,
R271, R343, R346, R347, R359 to R363). -/

namespace Sys2Proof.Machine

/-- What the engine counts while it works: the FP32 counts of its watch number, and lane operations. -/
structure Work where
  cts : Counts := {}
  ops : Nat := 0
  deriving DecidableEq, Repr

/-- A computation of the engine. -/
abbrev Eng (α : Type) : Type := Work → α × Work

def Eng.ret {α : Type} (a : α) : Eng α := fun w => (a, w)
def Eng.then {α β : Type} (x : Eng α) (f : α → Eng β) : Eng β := fun w => f (x w).1 (x w).2
/-- Do a computation for every element of a list, in order. -/
def Eng.each {α β : Type} (l : List α) (f : α → Eng β) : Eng (List β) := fun w =>
  l.foldl (fun (acc : List β × Work) a => let (b, w) := f a acc.2; (acc.1 ++ [b], w)) ([], w)

/-- Round an exact result once to FP32 (R270), with the conditions of R218. -/
def er (v : ℚ) : Eng ℚ := fun w =>
  let r := roundTo fFP32 true v
  (elemVal0 fFP32 r.code, { w with cts := w.cts.add { r.counts with elements := 0 }, ops := w.ops + 1 })
/-- A result that is not finite: +0, counted (R218, R358). -/
def ebad : Eng ℚ := fun w => (0, { w with cts := w.cts.add Counts.oneNonFinite, ops := w.ops + 1 })
/-- Lane operations whose results are not written or rounded by themselves: signs, comparisons, terms of an exact sum (R270). -/
def etick (n : Nat) : Eng Unit := fun w => ((), { w with ops := w.ops + n })
/-- An exact sum of `n` terms or products, rounded once: each term takes a lane operation. -/
def esum (n : Nat) (v : ℚ) : Eng ℚ := (etick (n - 1)).then fun _ => er v
/-- A comparison. -/
def ecmp (p : Bool) : Eng Bool := (etick 1).then fun _ => Eng.ret p
def ediv (a b : ℚ) : Eng ℚ := if b = 0 then ebad else er (a / b)

/-- A rational that rounds to FP32 as the square root of `x` does: the exact root, or a value strictly between the
neighbouring multiples of 2^-p, at least 64 bits below the leading one. -/
def rootNear (x : ℚ) : ℚ :=
  if x ≤ 0 then 0
  else
    let p : Nat := (70 - log2q x / 2).toNat
    let n := (x * (4 ^ p : Nat)).floor.toNat
    let r := Nat.sqrt n
    if ((r * r : Nat) : ℚ) = x * (4 ^ p : Nat) then (r : ℚ) / (2 ^ p : Nat) else ((2 * r + 1 : Nat) : ℚ) / (2 ^ (p + 1) : Nat)
def esqrt (x : ℚ) : Eng ℚ := if x < 0 then ebad else er (rootNear x)

/-- A list of FP32 codes as values; a non-finite operand is used as +0 (R270). -/
def evals (codes : List Nat) : Eng (List ℚ) := fun w =>
  (codes.map (elemVal0 fFP32), { w with cts := w.cts.add { nonFinite := nonFiniteIn codes } })
where
  /-- How many codes are non-finite. -/
  nonFiniteIn (cs : List Nat) : Nat := (cs.filter (fun c => nonFinite fFP32 c)).length

/-- The exact sum of squares in the norm accumulator form (R136). -/
def enorm (vs : List ℚ) : Eng Int := fun w =>
  vs.foldl (fun (acc : Int × Work) v =>
    let p := placeNorm v
    (acc.1 + p.val, { acc.2 with cts := acc.2.cts.add p.counts, ops := acc.2.ops + 1 })) (0, w)
/-- A sum of squares, rounded once to FP32 (R361). -/
def esumsq (vs : List ℚ) : Eng ℚ := (enorm vs).then fun n => er (normVal n)

/-! ### Matrices (R361) -/

abbrev Mat := List (List ℚ)
def Mat.at (m : Mat) (i j : Nat) : ℚ := (m.getD i []).getD j 0
/-- A matrix of `r` rows and `c` columns. -/
def Mat.make (r c : Nat) (f : Nat → Nat → ℚ) : Mat := (List.range r).map fun i => (List.range c).map fun j => f i j
def Mat.flip (m : Mat) (r c : Nat) : Mat := Mat.make c r fun i j => m.at j i
def Mat.ident (n : Nat) : Mat := Mat.make n n fun i j => if i = j then 1 else 0
/-- Elements of two matrices combined one by one. -/
def emap2 (f : ℚ → ℚ → Eng ℚ) (a b : Mat) : Eng Mat := Eng.each (a.zip b) fun (x, y) => Eng.each (x.zip y) fun (u, v) => f u v
def emap (f : ℚ → Eng ℚ) (a : Mat) : Eng Mat := Eng.each a fun x => Eng.each x f
/-- A matrix product: each element an exact sum, rounded once. -/
def emul (a b : Mat) (r n c : Nat) : Eng Mat :=
  Eng.each (List.range r) fun i => Eng.each (List.range c) fun j => esum n (((List.range n).map fun k => a.at i k * b.at k j).sum)
/-- The Frobenius norm. -/
def efrob (a : Mat) : Eng ℚ := (esumsq a.flatten).then esqrt

/-! ### Constants (R346 to R348) -/

/-- The constants an update uses. -/
structure Consts where
  lr : ℚ
  b1 : ℚ
  b2 : ℚ
  eps : ℚ
  wd : ℚ
  damping : ℚ
  pivot : ℚ
  residual : ℚ
  nsA : ℚ
  nsB : ℚ
  nsC : ℚ

/-- The defaults of group 0x6400 + g, subindices 0x01 to 0x0B, as FP32 codes. -/
def groupDefaults : List Nat :=
  [0, 0x3F666666, 0x3F7FBE77, 0x322BCC77, 0, 0x358637BD, 0x2B800000, 0x3A800000, 0x40400000, 0xC04CCCCD, 0x3F99999A]

/-- The active value of constant `sub` of a group, as a code. -/
def State.groupConst (s : State) (g sub : Nat) : Nat := s.active (0x6400 + g) sub (groupDefaults.getD (sub - 1) 0)

/-- The group constants. -/
def State.consts (s : State) (g : Nat) : Consts :=
  let v (sub : Nat) := elemVal0 fFP32 (s.groupConst g sub)
  ⟨v 1, v 2, v 3, v 4, v 5, v 6, v 7, v 8, v 9, v 10, v 11⟩

/-- The constants for update `t` under a schedule table (R347). -/
def scheduled (c : Consts) (table : Bytes) (n t : Nat) : Eng Consts :=
  let at' (i o k : Nat) := fieldAt table (32 * i + o) k
  match ((List.range n).filter fun i => decide (at' i 0 8 ≤ t)).getLast? with
  | none => Eng.ret c
  | some i =>
    let interp := bitsOf (at' i 0x18 4) 0 0 = 1 ∧ i + 1 < n
    let one (o : Nat) : Eng ℚ :=
      (evals [at' i o 4, if interp then at' (i + 1) o 4 else 0]).then fun xs =>
        let x := xs.getD 0 0
        if interp then er (x + (xs.getD 1 0 - x) * ((t - at' i 0 8 : Nat) : ℚ) / ((at' (i + 1) 0 8 - at' i 0 8 : Nat) : ℚ)) else Eng.ret x
    (one 8).then fun lr => (one 0xC).then fun wd => (one 0x10).then fun b1 => (one 0x14).then fun b2 =>
      Eng.ret { c with lr := lr, wd := wd, b1 := b1, b2 := b2 }

/-- The bits of `t` from the most significant. -/
def bitsFrom (t : Nat) : List Nat := ((List.range (Nat.log2 t + 1)).reverse).map fun i => (t / 2 ^ i) % 2

/-- 1 - β^t by square-and-multiply (R359). -/
def bias (b : ℚ) (t : Nat) : Eng ℚ :=
  let pow : Eng ℚ := (bitsFrom t).foldl (fun (acc : Eng ℚ) bit =>
    acc.then fun p => (er (p * p)).then fun q => if bit = 1 then er (q * b) else Eng.ret q) (Eng.ret 1)
  pow.then fun p => er (1 - p)

/-- β x + γ y, each operation rounded. -/
def blend (b g : ℚ) (x y : ℚ) : Eng ℚ := (er (b * x)).then fun p => (er (g * y)).then fun q => er (p + q)

/-! ### Rules 0 to 3 (R360) -/

/-- The arrays of a descriptor as values: first moment, second state array. -/
structure Arrays where
  m : List ℚ
  st2 : List ℚ

/-- What a rule forms: the direction u, and the new arrays. -/
structure RuleOut where
  u : List ℚ
  m : List ℚ
  st2 : List ℚ

def sgn (x : ℚ) : ℚ := if 0 < x then 1 else if x < 0 then -1 else 0

/-- Rule 0: SGD with momentum. -/
def rule0 (c : Consts) (g : List ℚ) (a : Arrays) : Eng RuleOut :=
  (Eng.each (a.m.zip g) fun (m, x) => (er (c.b1 * m)).then fun p => er (p + x)).then fun m => Eng.ret ⟨m, m, []⟩

/-- Rule 1: AdamW. -/
def rule1 (c : Consts) (t : Nat) (g : List ℚ) (a : Arrays) : Eng RuleOut :=
  (bias c.b1 t).then fun bc1 => (bias c.b2 t).then fun bc2 => (er (1 - c.b1)).then fun om1 => (er (1 - c.b2)).then fun om2 =>
  (Eng.each (a.m.zip g) fun (m, x) => blend c.b1 om1 m x).then fun m =>
  (Eng.each (a.st2.zip g) fun (v, x) => (er (x * x)).then fun sq => blend c.b2 om2 v sq).then fun v =>
  (Eng.each (m.zip v) fun (x, y) =>
    (ediv x bc1).then fun n => (ediv y bc2).then fun q => (esqrt q).then fun r => (er (r + c.eps)).then fun d => ediv n d).then fun u =>
  Eng.ret ⟨u, m, v⟩

/-- Rule 2: sign-momentum; m is written after u is formed. -/
def rule2 (c : Consts) (g : List ℚ) (a : Arrays) : Eng RuleOut :=
  (er (1 - c.b1)).then fun om1 => (er (1 - c.b2)).then fun om2 =>
  (Eng.each (a.m.zip g) fun (m, x) => blend c.b1 om1 m x).then fun y =>
  (Eng.each (a.m.zip g) fun (m, x) => blend c.b2 om2 m x).then fun m =>
  (etick y.length).then fun _ => Eng.ret ⟨y.map sgn, m, []⟩

/-- Rule 3: factored second moment. -/
def rule3 (c : Consts) (t rows cols : Nat) (g : List ℚ) (a : Arrays) : Eng RuleOut :=
  let gij (i j : Nat) := g.getD (i * cols + j) 0
  (bias c.b2 t).then fun bc2 => (er (1 - c.b1)).then fun om1 => (er (1 - c.b2)).then fun om2 =>
  (Eng.each (List.range rows) fun i =>
    (esumsq ((List.range cols).map fun j => gij i j)).then fun x => (ediv x cols).then fun r => blend c.b2 om2 (a.st2.getD i 0) r).then fun rs =>
  (Eng.each (List.range cols) fun j =>
    (esumsq ((List.range rows).map fun i => gij i j)).then fun x => (ediv x rows).then fun r => blend c.b2 om2 (a.st2.getD (rows + j) 0) r).then fun cs =>
  (esum rows rs.sum).then fun total => (ediv total rows).then fun mean =>
  (Eng.each (List.range (rows * cols)) fun k =>
    let vhat : Eng ℚ := if mean = 0 then Eng.ret 0
      else (er (rs.getD (k / cols) 0 * cs.getD (k % cols) 0)).then fun p => (ediv p mean).then fun q => ediv q bc2
    vhat.then fun v => (esqrt v).then fun r => (er (r + c.eps)).then fun d => ediv (g.getD k 0) d).then fun q =>
  if 0 < c.b1 then (Eng.each (a.m.zip q) fun (m, x) => blend c.b1 om1 m x).then fun m => Eng.ret ⟨m, m, rs ++ cs⟩
  else Eng.ret ⟨q, a.m, rs ++ cs⟩

/-- Rules 0 to 3. -/
def rule03 (rule : Nat) (c : Consts) (t rows cols : Nat) (g : List ℚ) (a : Arrays) : Eng RuleOut :=
  match rule with
  | 0 => rule0 c g a
  | 1 => rule1 c t g a
  | 2 => rule2 c g a
  | _ => rule3 c t rows cols g a

/-! ### Blocks (R343) -/

/-- The bands of an extent: (first, length). -/
def bands (n b : Nat) : List (Nat × Nat) := (List.range ((n + b - 1) / b)).map fun i => (i * b, min b (n - i * b))

/-- A block: its rows and columns, and the byte offsets of its L and R in a state array. -/
structure Block where
  r0 : Nat
  r : Nat
  c0 : Nat
  c : Nat
  offL : Nat
  offR : Nat

/-- The blocks of a tensor in row-major order. -/
def blocks (rows cols b : Nat) : List Block :=
  (((bands rows b).flatMap fun x => (bands cols b).map fun y => (x, y)).foldl (fun (acc : List Block × Nat) xy =>
    let ((r0, r), (c0, c)) := xy
    let offR := acc.2 + up64 (4 * r * r)
    (acc.1 ++ [⟨r0, r, c0, c, acc.2, offR⟩], offR + up64 (4 * c * c))) ([], 0)).1

/-- The block of a row-major tensor of `cols` columns. -/
def Block.of (k : Block) (cols : Nat) (x : List ℚ) : Mat := Mat.make k.r k.c fun i j => x.getD ((k.r0 + i) * cols + k.c0 + j) 0

/-! ### Rule 4 (R360, R362) -/

/-- The pivots of a Cholesky factorisation of an n × n matrix, column by column; none once a pivot is below the
threshold. -/
def cholesky (n : Nat) (least : ℚ) (f : Mat) : Eng Bool := fun w =>
  let (cols, ok, w) := (List.range n).foldl (fun (acc : Mat × Bool × Work) j =>
    let (cols, ok, w) := acc
    if !ok then acc
    else
      -- cols holds the columns of the factor so far, each from its diagonal down
      let l (i k : Nat) := (cols.getD k []).getD (i - k) 0
      let (sq, w) := esum j (((List.range j).map fun k => l j k * l j k).sum) w
      let (d, w) := er (f.at j j - sq) w
      let (low, w) := ecmp (decide (d < least)) w
      if low then (cols, false, w)
      else
        let (root, w) := esqrt d w
        let (col, w) := (Eng.each (List.range (n - j - 1)) fun q =>
          let i := j + 1 + q
          (esum j (((List.range j).map fun k => l i k * l j k).sum)).then fun x => (er (f.at i j - x)).then fun y => ediv y root) w
        (cols ++ [root :: col], true, w)) ([], true, w)
  (ok && decide (cols.length = n), w)

/-- One Newton–Schulz iteration of R362: (y, z), and the residual after it. -/
def nsStep (n : Nat) (y z : Mat) : Eng (Mat × Mat × ℚ) :=
  (emul z y n n n).then fun zy => (emap (fun v => er (3 * v)) (Mat.ident n)).then fun i3 => (emap2 (fun a b => er (a - b)) i3 zy).then fun d =>
  (emap (fun v => er (v / 2)) d).then fun t => (emul y t n n n).then fun y => (emul t z n n n).then fun z =>
  (emul z y n n n).then fun zy => (emap2 (fun a b => er (a - b)) (Mat.ident n) zy).then fun d => (efrob d).then fun r => Eng.ret (y, z, r)

/-- The twelve iterations; none where a residual does not fall. -/
def nsRun (n : Nat) : Nat → Mat → Mat → ℚ → Eng (Option (Mat × ℚ))
  | 0, _, z, r => Eng.ret (some (z, r))
  | k + 1, y, z, r => (nsStep n y z).then fun (y, z, r') => (ecmp (decide (r ≤ r'))).then fun bad =>
    if bad then Eng.ret none else nsRun n k y z r'

/-- The preconditioner of a factor; none where the layer fails (R362). -/
def precondition (c : Consts) (n : Nat) (f : Mat) : Eng (Option Mat) :=
  (emap2 (fun a b => (er (c.damping * b)).then fun x => er (a + x)) f (Mat.ident n)).then fun f =>
  (cholesky n c.pivot f).then fun ok =>
  if !ok then Eng.ret none
  else
    (esum n (((List.range n).map fun i => f.at i i).sum)).then fun kappa => (emap (fun v => ediv v kappa) f).then fun y =>
    (emul (Mat.ident n) y n n n).then fun zy => (emap2 (fun a b => er (a - b)) (Mat.ident n) zy).then fun d => (efrob d).then fun r0 =>
    (nsRun n 12 y (Mat.ident n) r0).then fun out =>
    match out with
    | none => Eng.ret none
    | some (z, r) =>
      (ecmp (decide (c.residual < r))).then fun bad => if bad then Eng.ret none
      else (esqrt kappa).then fun k => (emap (fun v => ediv v k) z).then fun p => Eng.ret (some p)

/-- The direction of one block under preconditioners P_L and P_R. -/
def rule4Dir (k : Block) (m pl pr : Mat) : Eng Mat :=
  (emul pl m k.r k.r k.c).then fun x => (emul x pr k.r k.c k.c).then fun y => (efrob m).then fun nm => (efrob y).then fun ny =>
  if ny = 0 then Eng.ret (Mat.make k.r k.c fun _ _ => 0)
  else (ediv nm ny).then fun q => emap (fun v => er (v * q)) y

/-- The new factor of one side: β2 F + (1 - β2) (X Xᵀ). -/
def newFactor (c : Consts) (om2 : ℚ) (f x : Mat) (n k : Nat) : Eng Mat :=
  (emul x (x.flip n k) n k n).then fun p => emap2 (fun a b => blend c.b2 om2 a b) f p

/-! ### Rule 5 (R363) -/

/-- The orthogonalisation of one block with r ≤ c. -/
def orthoWide (c : Consts) (r n : Nat) (x : Mat) : Eng Mat :=
  (efrob x).then fun f => (er (f + c.eps)).then fun d => (emap (fun v => ediv v d) x).then fun x =>
  (List.range 5).foldl (fun (acc : Eng Mat) _ =>
    acc.then fun x => (emul x (x.flip r n) r n r).then fun a => (emul a a r r r).then fun aa =>
    (emap2 (fun u v => (er (c.nsB * u)).then fun p => (er (c.nsC * v)).then fun q => er (p + q)) a aa).then fun b =>
    (emul b x r r n).then fun bx => emap2 (fun u v => (er (c.nsA * u)).then fun p => er (p + v)) x bx) (Eng.ret x)

/-- The orthogonalisation of a block; an all-zero block gives zeros. -/
def ortho (c : Consts) (k : Block) (x : Mat) : Eng Mat :=
  if x.all fun row => row.all fun v => v == 0 then Eng.ret (Mat.make k.r k.c fun _ _ => 0)
  else if k.c < k.r then (orthoWide c k.c k.r (x.flip k.r k.c)).then fun y => Eng.ret (y.flip k.c k.r)
  else orthoWide c k.r k.c x

/-- Put the blocks' matrices back in row-major order. -/
def unblock (cols n : Nat) (parts : List (Block × Mat)) : List ℚ :=
  (List.range n).map fun e =>
    let i := e / cols
    let j := e % cols
    match parts.find? fun p => decide (p.1.r0 ≤ i ∧ i < p.1.r0 + p.1.r ∧ p.1.c0 ≤ j ∧ j < p.1.c0 + p.1.c) with
    | some p => p.2.at (i - p.1.r0) (j - p.1.c0)
    | none => 0

end Sys2Proof.Machine
end

