-- ==== Sys2Proof/Machine/Update.lean ====
section
/-! DEFINITION. The parameter update: gradient buffers, contributions, withdrawals, the NORM pass and its combine, the
decisions of a step, APPLY (10, 13, 14). -/

namespace Sys2Proof.Machine

/-! ### Descriptors (R342, R343) -/

def udGroup (d : Bytes) : Nat := fieldAt d 0 2
def udRule (d : Bytes) : Nat := fieldAt d 2 1
def udStack (d : Bytes) : Nat := fieldAt d 3 1
def udWatch (d : Bytes) : Nat := fieldAt d 4 1
def udFlag (d : Bytes) (b : Nat) : Bool := bitsOf (fieldAt d 5 1) b b == 1
def udEg (d : Bytes) : Int := i16At d 6
def udDeadline (d : Bytes) : Int := i32At d 8
def udContributors (d : Bytes) : Nat := fieldAt d 0x0C 2
def udBlock (d : Bytes) : Nat := fieldAt d 0x0E 2
def udElems (d : Bytes) : Nat := fieldAt d 0x10 8
def udRows (d : Bytes) : Nat := fieldAt d 0x18 4
def udCols (d : Bytes) : Nat := fieldAt d 0x1C 4
def udGrad (d : Bytes) : Nat := fieldAt d 0x20 8
def udParam (d : Bytes) : Nat := fieldAt d 0x28 8
def udState1 (d : Bytes) : Nat := fieldAt d 0x30 8
def udState2 (d : Bytes) : Nat := fieldAt d 0x38 8
def udState3 (d : Bytes) : Nat := fieldAt d 0x40 8
def udCounter (d : Bytes) : Nat := fieldAt d 0x48 8
def udSched (d : Bytes) : Nat := fieldAt d 0x50 8
def udSchedN (d : Bytes) : Nat := fieldAt d 0x58 4
def udRefresh (d : Bytes) : Nat := fieldAt d 0x5C 4
def udNarrow (d : Bytes) : Nat := fieldAt d 0x60 8
def udNarrowFmt (d : Bytes) : Nat := bitsOf (fieldAt d 0x68 1) 3 0
def udDone (d : Bytes) : Nat := fieldAt d 0x6A 2

/-- The update descriptors of the loaded plan. -/
def State.updates (s : State) : List Bytes := match s.job.plan with | some p => p.updates | none => []
/-- The source ID of the base-die controller that serves a descriptor (R368). -/
def udSrc (d : Bytes) : Nat := dieSrc (52 + udStack d)

/-- The bytes of state 1, 2 and 3 (R343). -/
def udSizes (d : Bytes) : Nat × Nat × Nat :=
  let factors := match (blocks (udRows d) (udCols d) (udBlock d)).getLast? with
    | some k => k.offR + up64 (4 * k.c * k.c)
    | none => 0
  match udRule d with
  | 1 => (4 * udElems d, 4 * udElems d, 0)
  | 3 => (4 * udElems d, 4 * (udRows d + udCols d), 0)
  | 4 => (4 * udElems d, factors, factors)
  | _ => (4 * udElems d, 0, 0)

/-! ### Tally values and counters (R283, R366) -/

def State.staleDrop (s : State) : Bool := s.active 0x6000 2 0 == 1
def State.asIs (s : State) : Bool := s.active 0x6000 3 0 == 1
def kStepsSkipped : Nat := objKey 0x6020 0
def kGroupSkips : Nat := objKey 0x6021 0
def kStaleHeld : Nat := objKey 0x6022 0
def kStaleDropped : Nat := objKey 0x6023 0
def kPrecondFallbacks : Nat := objKey 0x6024 0
def kWithdrawals : Nat := objKey 0x6025 0
def kGaeContributions (m : Nat) : Nat := regBase (52 + m) + 0x20
def kGaeMisses (m : Nat) : Nat := regBase (52 + m) + 0x28
def kNmvOps (m : Nat) : Nat := regBase (52 + m) + 0x30

/-- Give back what the engine counted: statistics of `step`, lane operations. -/
def State.noteWork (s : State) (d : Bytes) (step : Nat) (w : Work) : State :=
  (s.addCounts (udSrc d) step (udWatch d) fFP32 w.cts).bump (kNmvOps (udStack d)) w.ops

/-! ### Contributions (R134, R265 to R268, R350, R352) -/

/-- The fields of a `GRADIENT` body (R382). -/
def gpIndex (m : Msg) : Nat := fieldAt m.body 0 4
def gpForm (m : Msg) : Nat := fieldAt m.body 4 1
def gpEt (m : Msg) : Int := i16At m.body 6
def gpFirst (m : Msg) : Nat := fieldAt m.body 8 8
def gpCount (m : Msg) : Nat := (m.body.length - 16) / (if gpForm m = fEXACT then 16 else 4)

/-- The exact value of element `j` of a row, and whether it was replaced by zero. -/
def gpValue (m : Msg) (j : Nat) : ℚ × Bool :=
  if gpForm m = fEXACT then (tileVal (gpEt m) (signed 128 (fieldAt m.body (16 + 16 * j) 16)), false)
  else
    let c := fieldAt m.body (16 + 4 * j) 4
    (elemVal0 fFP32 c, nonFinite fFP32 c)

/-- The cache of a stack. -/
def State.cacheOf (s : State) (m : Nat) : List CacheBlock := sget [] s.upd.cache m
def State.setCache (s : State) (m : Nat) (c : List CacheBlock) : State := { s with upd := { s.upd with cache := sset [] s.upd.cache m c } }
/-- Blocks are written back to the stack. -/
def writeBack (mem : List (Nat × Byte)) (bs : List CacheBlock) : List (Nat × Byte) :=
  bs.foldl (fun mem b => b.cells.foldl (fun mem e => writeBytes mem (2048 * b.block + 16 * e.1) (leBytes 16 e.2)) mem) mem
/-- A block of stack `m` is touched: fetched where the cache lacks it; the cache holds 4,096 blocks, and the least recently touched
is written back first (R267). -/
def State.touchBlock (s : State) (m b : Nat) : State :=
  let c := s.cacheOf m
  match c.find? fun x => x.block = b with
  | some x => s.setCache m (x :: c.filter fun y => y.block ≠ b)
  | none =>
    let s := ((s.noteRead (2048 * b) 2048).bump (kGaeMisses m) 1).setCache m ({ block := b } :: c.take 4095)
    { s with mem := writeBack s.mem (c.drop 4095) }
/-- The gradient element at address `a` of a stack, a 128-bit code: as the cache holds it, else as memory does. -/
def State.gaeElem (s : State) (m a : Nat) : Nat :=
  match (s.cacheOf m).findSome? fun x => if x.block = a / 2048 then x.cells.lookup (a % 2048 / 16) else none with
  | some v => v
  | none => leNat (readBytes s.mem a 16)
/-- An element of a cached block changes. -/
def State.setElem (s : State) (m a v : Nat) : State :=
  s.setCache m ((s.cacheOf m).map fun x => if x.block = a / 2048 then { x with cells := sput x.cells (a % 2048 / 16) v } else x)
/-- Every block is written back, and the caches are empty. -/
def State.flushCaches (s : State) : State :=
  { s with mem := s.upd.cache.foldl (fun mem e => writeBack mem e.2) s.mem, upd := { s.upd with cache := [] } }

/-- The blocks of a row of `n` elements from element `e` on. -/
def rowBlocks (d : Bytes) (e n : Nat) : List Nat :=
  let a := udGrad d + 16 * e
  if n = 0 then [] else (List.range ((a + 16 * n - 1) / 2048 - a / 2048 + 1)).map fun k => a / 2048 + k

/-- Add a row to its buffer, as part of step `into`: its blocks are fetched into the cache, and its elements added there (R134,
R265, R267). -/
def State.placeRow (s : State) (d : Bytes) (m : Msg) (into : Nat) : State :=
  let n := gpCount m
  let stack := udStack d
  let vs := (List.range n).map (gpValue m)
  let ps := vs.map fun v => placeGrad (udEg d) v.1
  let cts := ((ps.zip vs).map fun (p, v) => { p.counts with nonFinite := if v.2 then 1 else 0 }).foldl Counts.add {}
  let bs := rowBlocks d (gpFirst m) n
  let s := bs.foldl (fun s b => s.touchBlock stack b) s
  let s := ps.zipIdx.foldl (fun s (p, j) =>
    let a := udGrad d + 16 * (gpFirst m + j)
    if p.val = 0 then s else s.setElem stack a (unsigned 128 (signed 128 (s.gaeElem stack a) + p.val))) s
  let s := { s with upd := { s.upd with filled := supd [] s.upd.filled (gpIndex m) fun l => (l ++ bs).dedup } }
  let s := s.bump (kGaeContributions stack) n
  let s := s.addCounts (udSrc d) into (udWatch d) (gpForm m) cts
  s.addHist into (udWatch d) (gpForm m) (ps.map fun p => gradVal (udEg d) p.val)

/-- Add a late row into step `into`, outside its seen set (R352). -/
def State.addHeld (s : State) (d : Bytes) (m : Msg) (into : Nat) : State :=
  ((s.placeRow d m into).bump kStaleHeld 1).eventOnce 0x10 into (udSrc d) 0x5005 []

/-- A late row under the stale policy (R352). `acc`: the step the buffer accepts. -/
def State.staleRow (s : State) (d : Bytes) (m : Msg) (acc : Nat) : State :=
  let q := sget [] s.upd.stale (udStack d)
  let now := decide (m.arg < acc) || (match s.upd.released with | some r => decide (m.arg ≤ r) | none => false)
  if s.staleDrop || decide (m.arg + 2 ≤ acc) || (!now && decide (512 ≤ q.length)) then
    (s.bump kStaleDropped 1).eventOnce 0x11 acc (udSrc d) 0x5006 []
  else if now then s.addHeld d m (m.arg + 1)
  else { s with upd := { s.upd with stale := sset [] s.upd.stale (udStack d) (q ++ [m]) } }

/-- A contribution of step `k` to descriptor `i` is late: it comes after the deadline (R268, R350). -/
def State.isLate (s : State) (i : Nat) (d : Bytes) (k acc : Nat) : Bool :=
  decide (k < acc) || s.upd.closed.contains i || decide (s.pointOf k (udDeadline d) 0 < (s.planNow : Int))

/-- Add a module to a descriptor's set. -/
def addMember (m : List (Nat × List Nat)) (i origin : Nat) : List (Nat × List Nat) :=
  supd [] m i fun l => if l.contains origin then l else l ++ [origin]

/-- A gradient row reaches its owner; none while its step's buffers do not accept yet. -/
def State.gradientRow (s : State) (m : Msg) : Option State :=
  let i := gpIndex m
  match s.updates[i]? with
  | none => some (s.fault wardenSrc 0x5009)
  | some d =>
    if udElems d < gpFirst m + gpCount m then some (s.fault (udSrc d) 0x5009)
    else
      match s.upd.accepting with
      | none => none
      | some acc =>
        if acc < m.arg then none
        else if s.isLate i d m.arg acc then
          let s := if m.arg = acc then { s with upd := { s.upd with late := addMember s.upd.late i m.origin } } else s
          some (s.staleRow d m acc)
        else some { s.placeRow d m m.arg with upd := { (s.placeRow d m m.arg).upd with seen := addMember s.upd.seen i m.origin } }

/-- A row on its way is taken: by a check of the blocks it fetches, by its owner. `back`: the state where it is not taken yet. -/
def State.takeRow (s back : State) (checks : List MemCheck) (m : Msg) (ack : State → State) : State :=
  let (ok, s) := s.checked checks
  if !ok then s
  else match s.gradientRow m with
    | none => back
    | some t => if t.job.state = .fault then t else ack t

/-- `GRADIENT`: a row from a peer, or the oldest one of this module's own clusters. It is acknowledged once it is added,
held or dropped (R384). `checks`: what nature reports of the blocks that it fetches (R267). -/
def execGradient (m : Option Msg) (checks : List MemCheck) (s : State) : Res :=
  .next (if s.job.plan.isNone ∨ s.job.state = .fault then s
    else match m, s.upd.rows with
      | none, [] => s
      | none, r :: rest => { s with upd := { s.upd with rows := rest } }.takeRow s checks r id
      | some r, _ => s.taken r fun t => t.takeRow s checks r fun t => t.e2eAck r)

/-- `CONTRIBUTION_DEADLINE`: the deadline of descriptor `i` has passed in the step that the buffers accept. -/
def execContributionDeadline (i : Nat) (s : State) : Res :=
  match s.upd.accepting, s.updates[i]? with
  | some k, some d =>
    if s.pointOf k (udDeadline d) 0 < (s.planNow : Int) ∧ !s.upd.closed.contains i then
      .next { s with upd := { s.upd with closed := s.upd.closed ++ [i] } }
    else .next s
  | _, _ => .next s

/-- `WITHDRAW`: a peer's withdrawal for the step in its argument, acknowledged on receipt. -/
def execWithdraw (m : Msg) (s : State) : Res :=
  .next (s.taken m fun s => ((s.noteWithdrawn m.arg m.origin).bump kWithdrawals 1).e2eAck m)

/-- The buffers begin to accept step `k` (R268). -/
def State.openBuffers (s : State) (k : Nat) : State :=
  { s with upd := { s.upd with accepting := some k, seen := [], late := [], closed := [] } }

/-- The end of the APPLY window of step `k`: held rows are added as part of step `k` + 1 (R352). -/
def State.releaseStale (s : State) (k : Nat) : State :=
  let s := { s with upd := { s.upd with released := some k } }
  s.upd.stale.foldl (fun s (m, q) =>
    let s := { s with upd := { s.upd with stale := sset [] s.upd.stale m (q.filter fun r => decide (k < r.arg)) } }
    (q.filter fun r => decide (r.arg ≤ k)).foldl (fun s r =>
      match s.updates[gpIndex r]? with | some d => s.addHeld d r (k + 1) | none => s) s) s

/-! ### The start of NORM (R349, R351, R353) -/

/-- A group of the parameter update: the job group and the groups of constants. -/
def updateGroup (g : Nat) : Bool := g == 0x6000 || decide (0x6400 ≤ g ∧ g < 0x6800)

/-- Applies of the update's groups take effect at the NORM start of a step numbered at least `GROUP_APPLY_STEP` (R349). -/
def State.normApplies (s : State) (k : Nat) : State :=
  if s.rwValue 0x6001 0 0 ≤ k then ((s.tally.pendingApply.map fun a => a.group).filter updateGroup).foldl State.safePoint s else s

/-- The withdrawals of step `k` received by now. -/
def State.withdrawals (s : State) (k : Nat) : Nat := sget 0 s.upd.withdrawn k

/-- The partial test and the contributor scale of descriptor `i` in step `k` (R351, R353). -/
def State.normTest (s : State) (k i : Nat) (d : Bytes) : NormRec :=
  let seen := sget [] s.upd.seen i
  let a := seen.length
  let e := udContributors d
  let part := seen.any (fun m => (s.withdrawals k / 2 ^ m) % 2 = 1 || (sget [] s.upd.late i).contains m) || decide (a = 0 ∧ 0 < e)
  { contributors := a, isPartial := part,
    scale := if part || s.asIs || decide (e = 0) || decide (a = e) then 1 else f32 ((e : ℚ) / a) }

/-- The NORM window of step `k` opens. -/
def State.openNorm (s : State) (k : Nat) : State :=
  let s := s.normApplies k
  let ds := s.updates.zipIdx
  let recs := ds.map fun (d, i) => (i, s.normTest k i d)
  let s := ds.foldl (fun s (d, i) =>
    let r := s.normTest k i d
    let s := if r.isPartial then { s with upd := { s.upd with partialSeen := sset false s.upd.partialSeen (udStack d) true } } else s
    if udContributors d < r.contributors then s.event (udSrc d) 0x500A else s) s
  let s := s.flushCaches
  { s with upd := { s.upd with normWithdrawn := s.withdrawals k, normStep := some k, passDone := false, norms := recs,
                               record := none, sentUp := false, decision := none } }

/-! ### What the passes read (R271, R343, R354) -/

/-- `n` FP32 codes from address `a`. -/
def codesAt (mem : List (Nat × Byte)) (a n : Nat) : List Nat := (List.range n).map fun i => leNat (readBytes mem (a + 4 * i) 4)

/-- The gradient, rounded once to FP32; zero where no module contributes (R271, R353). -/
def State.gradient (s : State) (d : Bytes) : Eng (List ℚ) :=
  if udContributors d = 0 then Eng.ret (List.replicate (udElems d) 0)
  else Eng.each (List.range (udElems d)) fun e =>
    er (gradVal (udEg d) (signed 128 (s.gaeElem (udStack d) (udGrad d + 16 * e))))

/-- The element-sized state of a descriptor, and of rules 0 to 3 the second array. -/
def State.arrays (s : State) (d : Bytes) : Eng Arrays :=
  (evals (codesAt s.mem (udState1 d) (udElems d))).then fun m =>
    let n2 := if udRule d = 1 then udElems d else if udRule d = 3 then udRows d + udCols d else 0
    (evals (codesAt s.mem (udState2 d) n2)).then fun v => Eng.ret ⟨m, v⟩

/-- The counter record and the schedule table (R344, R346). -/
def State.counterRec (s : State) (d : Bytes) : Bytes := readBytes s.mem (udCounter d) 64
def crApplied (r : Bytes) : Nat := fieldAt r 0 8
def State.schedule (s : State) (d : Bytes) : Bytes := readBytes s.mem (udSched d) (32 * udSchedN d)

/-- The reads of a gradient buffer: blocks that have received no contribution since it was cleared are zero without traffic
(R354). -/
def State.noteGrad (s : State) (i : Nat) (d : Bytes) : State :=
  let lo := udGrad d
  let hi := lo + 16 * udElems d
  (sget [] s.upd.filled i).foldl (fun s b => s.noteRead (max lo (2048 * b)) (min hi (2048 * b + 2048) - max lo (2048 * b))) s
/-- An update of descriptor `d` at count `t` refreshes its preconditioners (R362). -/
def refreshes (d : Bytes) (t : Nat) : Bool := decide (udRule d = 4 ∧ 0 < udRefresh d ∧ t % udRefresh d = 0)
/-- Half-bursts of the arrays that a pass reads (R283, R354, R364). -/
def State.notePass (s : State) (i : Nat) (d : Bytes) (apply : Bool) : State :=
  let (n1, n2, n3) := udSizes d
  let s := (s.noteGrad i d).noteRead (udSched d) (32 * udSchedN d)
  let s := if apply then s else s.noteRead (udCounter d) 64
  if apply || decide (udRule d ≤ 3) then
    (((s.noteRead (udParam d) (4 * udElems d)).noteRead (udState1 d) n1).noteRead (udState2 d) n2).noteRead (udState3 d)
      (if apply ∧ refreshes d (crApplied (s.counterRec d) + 1) then n3 else 0)
  else s

/-! ### The NORM pass (R354) -/

/-- The group check of a descriptor, and the job check. -/
def State.constCheck (s : State) (d : Bytes) : Nat :=
  (crc32c ((List.range 11).flatMap (fun i => u32 (s.groupConst (udGroup d) (i + 1))) ++ s.schedule d)).toNat
def State.jobCheck (s : State) : Nat :=
  (crc32c (u8 (s.active 0x6000 1 0) ++ u8 (s.active 0x6000 2 0) ++ u8 (s.active 0x6000 3 0) ++ u32 (s.active 0x6000 4 0))).toNat

/-- The pass over one descriptor: its norms. -/
def State.normPass (s : State) (d : Bytes) (r : NormRec) : Eng NormRec :=
  if udElems d = 0 then Eng.ret r
  else
    (s.gradient d).then fun g => (Eng.each g fun x => er (x * r.scale)).then fun h => (enorm h).then fun h2 =>
    if 3 < udRule d then Eng.ret { r with h2 := h2 }
    else
      (evals (codesAt s.mem (udParam d) (udElems d))).then fun w => (enorm w).then fun w2 => (s.arrays d).then fun a =>
      let t := crApplied (s.counterRec d) + 1
      (scheduled (s.consts (udGroup d)) (s.schedule d) (udSchedN d) t).then fun c =>
      (rule03 (udRule d) c t (udRows d) (udCols d) h a).then fun out => (enorm out.u).then fun u2 =>
      Eng.ret { r with h2 := h2, w2 := w2, u2 := u2 }

/-- Two groups' parts, and two combine records, combined (R355). -/
def GroupRec.join (a b : GroupRec) : GroupRec :=
  ⟨min a.appliedLo b.appliedLo, max a.appliedHi b.appliedHi, min a.checkLo b.checkLo, max a.checkHi b.checkHi,
   a.isPartial || b.isPartial⟩
def joinGroups (a b : List (Nat × GroupRec)) : List (Nat × GroupRec) := b.foldl (fun m e => supd {} m e.1 fun x => x.join e.2) a
def CombineRec.join (a b : CombineRec) : CombineRec :=
  ⟨a.step, a.g + b.g, a.nonFinite || b.nonFinite, min a.jobLo b.jobLo, max a.jobHi b.jobHi, a.withdrawn ||| b.withdrawn,
   joinGroups a.groups b.groups⟩

/-- The bytes of a combine record, and the record of bytes (R387). -/
def groupBytes (g : GroupRec) : Bytes :=
  u64 g.appliedLo ++ u64 g.appliedHi ++ u32 g.checkLo ++ u32 g.checkHi ++ u8 (if g.isPartial then 1 else 0) ++ List.replicate 7 0#8
def CombineRec.bytes (r : CombineRec) : Bytes :=
  leBytes 32 (unsigned 256 r.g) ++ u64 r.step ++ u8 (if r.nonFinite then 1 else 0) ++ List.replicate 7 0#8 ++ u32 r.jobLo ++ u32 r.jobHi
    ++ List.replicate 8 0#8 ++ leBytes 512 r.withdrawn ++ (List.range 1024).flatMap fun g => groupBytes (sget {} r.groups g)
def groupAt (bs : Bytes) (g : Nat) : GroupRec :=
  let e := slice bs (0x240 + 32 * g) 32
  ⟨fieldAt e 0 8, fieldAt e 8 8, fieldAt e 16 4, fieldAt e 20 4, bitsOf (fieldAt e 24 1) 0 0 == 1⟩
def combineOf (bs : Bytes) : CombineRec :=
  { step := fieldAt bs 0x20 8, g := signed 256 (fieldAt bs 0 32), nonFinite := bitsOf (fieldAt bs 0x28 1) 0 0 == 1,
    jobLo := fieldAt bs 0x30 4, jobHi := fieldAt bs 0x34 4, withdrawn := fieldAt bs 0x40 512,
    groups := (List.range 1024).foldl (fun m g => sset {} m g (groupAt bs g)) [] }

/-- This module's own combine record after its pass (R354, R355). -/
def State.ownRecord (s : State) (k : Nat) : CombineRec :=
  let parts := s.updates.zipIdx.map fun (d, i) => (d, sget (NormRec.mk 1 0 0 0 0 false) s.upd.norms i)
  { step := k, g := (parts.map fun (d, r) => if udFlag d 0 then 0 else r.h2).sum, nonFinite := (s.stepStats k).nonFinite,
    jobLo := s.jobCheck, jobHi := s.jobCheck, withdrawn := s.upd.normWithdrawn,
    groups := joinGroups [] (parts.map fun (d, r) =>
      let a := crApplied (s.counterRec d)
      (udGroup d, { appliedLo := a, appliedHi := a, checkLo := s.constCheck d, checkHi := s.constCheck d, isPartial := r.isPartial })) }

/-- The parent of this module in the combine's tree, and its children (R386). -/
def State.treeParent (s : State) : Option Nat := nearer s.net.graph s.self 0
def State.treeChildren (s : State) : List Nat :=
  (((neighboursOf s.net.graph s.self).map (fun e => e.2)).dedup.filter fun n => nearer s.net.graph n 0 = some s.self).mergeSort

/-- Once this module's record and those of its children are here, the result goes up; the root keeps it. -/
def State.tryUp (s : State) : State :=
  match s.upd.normStep, s.upd.record with
  | some k, some r =>
    let here := s.upd.ups.filter fun u => u.2.step = k ∧ s.treeChildren.contains u.1
    if s.upd.sentUp || !s.treeChildren.all (fun c => here.any fun u => u.1 = c) then s
    else
      let all := here.foldl (fun a u => a.join u.2) r
      let s := { s with upd := { s.upd with sentUp := true, record := some all, ups := s.upd.ups.filter fun u => u.2.step ≠ k } }
      match s.treeParent with
      | some p => s.sendTo wardenSrc 6 p k all.bytes
      | none => s
  | _, _ => s

/-- `NORM_PASS_COMPLETE`: the base dies have finished the pass; `checks`: what nature reports of their reads. -/
def execNormPassComplete (checks : List MemCheck) (s : State) : Res :=
  match s.upd.normStep with
  | none => .next s
  | some k =>
    if s.upd.passDone then .next s
    else
      let (ok, s) := s.checked checks
      if !ok then .next s
      else
        let s := s.updates.zipIdx.foldl (fun s (d, i) =>
          let (r, w) := s.normPass d (sget {} s.upd.norms i) {}
          let s := { s with upd := { s.upd with norms := sset {} s.upd.norms i r } }
          (s.noteWork d k w).notePass i d false) s
        .next ({ s with upd := { s.upd with passDone := true, record := some (s.ownRecord k) } }).tryUp

/-- `COMBINE_UP`: the record of a child. -/
def execCombineUp (m : Msg) (s : State) : Res :=
  .next (s.taken m fun s =>
    if s.treeChildren.contains m.origin ∧ s.job.state ≠ .fault then
      ({ s with upd := { s.upd with ups := s.upd.ups ++ [(m.origin, combineOf m.body)] } }).tryUp
    else s)

/-! ### Decisions (R356) -/

/-- The number of modules in a set. -/
def popCount (n : Nat) : Nat := ((List.range 4096).filter fun i => (n / 2 ^ i) % 2 = 1).length

/-- What row of R356 applies. -/
inductive Verdict356 where
  | stepSkew (group least greatest : Nat)
  | groupSkew (group : Nat)
  | withdrawLate
  | halt
  | skip
  | apply (skipped : List Nat)
  deriving DecidableEq, Repr

/-- The decision on a combined record. A group with no descriptor anywhere in the job passes every check (R355). -/
def State.decide356 (s : State) (r : CombineRec) : Verdict356 :=
  let live := r.groups.filter fun g => decide (g.2.appliedLo ≤ g.2.appliedHi)
  match live.find? fun g => g.2.appliedLo ≠ g.2.appliedHi with
  | some g => .stepSkew g.1 g.2.appliedLo g.2.appliedHi
  | none =>
    match live.find? fun g => g.2.checkLo ≠ g.2.checkHi with
    | some g => .groupSkew g.1
    | none =>
      if r.jobLo ≠ r.jobHi then .groupSkew 0xFFFF
      else if r.withdrawn &&& s.upd.normWithdrawn ≠ r.withdrawn then .withdrawLate
      else if r.nonFinite then (if s.active 0x6000 1 0 = 1 then .halt else .skip)
      else .apply (if s.asIs then [] else (live.filter fun g => g.2.isPartial).map fun g => g.1)

/-- N and s (R356). -/
def State.clipOf (s : State) (r : CombineRec) : ℚ × ℚ :=
  let n := f32 (rootNear (normVal r.g))
  let c := elemVal0 fFP32 (s.active 0x6000 4 0)
  (n, if 0 < c ∧ c < n then f32 (c / n) else 1)

/-- The source of `GROUP_SKIPPED`: the base die of the group's first descriptor here; the warden where there is none. -/
def State.groupSrc (s : State) (g : Nat) : Nat :=
  match s.updates.find? fun d => udGroup d = g with | some d => udSrc d | none => wardenSrc

/-- The step's decisions are taken. -/
def State.takeDecision (s : State) (r : CombineRec) : State :=
  let (n, c) := s.clipOf r
  let v := s.decide356 r
  let (code, skipped) := match v with | .apply sk => (0, sk) | .skip => (1, []) | _ => (2, [])
  let depth := (((List.range s.modules).filterMap fun m => hops s.net.graph m 0).foldl max 0)
  let s := { s with net := { s.net with combineStep := r.step, combineStamp := s.stamp, combineDepth := depth },
                    upd := { s.upd with normStep := none, decision := some ⟨r.step, code, skipped, n, c⟩,
                                        last := [r.step, code, skipped.length, popCount r.withdrawn, f32Code n, f32Code c] } }
  match v with
  | .stepSkew g lo hi => s.fault wardenSrc 0x5002 (u16 g ++ u32 lo ++ u32 hi)
  | .groupSkew g => s.fault wardenSrc 0x5003 (u16 g)
  | .withdrawLate => s.fault wardenSrc 0x5008
  | .halt => s.fault wardenSrc 0x5001
  | .skip => (s.bump kStepsSkipped 1).event wardenSrc 0x5000
  | .apply sk => sk.foldl (fun s g => (s.bump kGroupSkips 1).event (s.groupSrc g) 0x5004 (u16 g)) s

/-- `COMBINE_DOWN`: the final record, from the parent or (none) formed at the root; it goes down unchanged. -/
def execCombineDown (m : Option Msg) (s : State) : Res :=
  match s.upd.normStep, s.upd.record with
  | some k, some own =>
    if !s.upd.sentUp then .next s
    else
      match m with
      | none =>
        match s.treeParent with
        | some _ => .next s
        | none => .next ((s.treeChildren.foldl (fun s c => s.sendTo wardenSrc 7 c k own.bytes) s).takeDecision own)
      | some msg =>
        .next (if msg.arg = k ∧ s.treeParent = some msg.origin then
            s.taken msg fun s => (s.treeChildren.foldl (fun s c => s.sendTo wardenSrc 7 c k msg.body) s).takeDecision (combineOf msg.body)
          else s)
  | _, _ => .next s

/-! ### APPLY (R358 to R364) -/

/-- The FP32 bytes of values, and the values at an address as a matrix. -/
def f32Bytes (vs : List ℚ) : Bytes := vs.flatMap fun v => u32 (f32Code v)
def matAt (mem : List (Nat × Byte)) (a n : Nat) : Eng Mat :=
  Eng.each (List.range n) fun i => evals (codesAt mem (a + 4 * n * i) n)
def matBytes (m : Mat) : Bytes := m.flatMap f32Bytes

/-- What APPLY writes of one descriptor: (address, bytes) in order, and whether a refresh failed. -/
structure ApplyOut where
  writes : List (Nat × Bytes)
  params : List ℚ
  fallback : Bool := false
  refreshed : Bool := false

/-- The factors of one block after the update, and the new preconditioners where the step refreshes. -/
structure BlockOut where
  block : Block
  l : Mat
  r : Mat
  pl : Option Mat
  pr : Option Mat

/-- Rule 4: momentum, factors, refresh, direction (R360, R362). The answer: u, m and the writes of states 2 and 3. -/
def State.rule4 (s : State) (d : Bytes) (c : Consts) (t : Nat) (g m0 : List ℚ) : Eng (List ℚ × List ℚ × List (Nat × Bytes) × Bool × Bool) :=
  let cols := udCols d
  let bs := blocks (udRows d) cols (udBlock d)
  let computed := fieldAt (s.counterRec d) 0x1C 1 = 1
  let refresh := refreshes d t
  (er (1 - c.b1)).then fun om1 => (er (1 - c.b2)).then fun om2 =>
  (Eng.each (m0.zip g) fun (x, y) => blend c.b1 om1 x y).then fun m =>
  (Eng.each bs fun b =>
    let x := b.of cols g
    (matAt s.mem (udState2 d + b.offL) b.r).then fun l => (matAt s.mem (udState2 d + b.offR) b.c).then fun r =>
    (newFactor c om2 l x b.r b.c).then fun l => (newFactor c om2 r (x.flip b.r b.c) b.c b.r).then fun r =>
    if refresh then
      (precondition c b.r l).then fun pl => (precondition c b.c r).then fun pr => Eng.ret (⟨b, l, r, pl, pr⟩ : BlockOut)
    else Eng.ret ⟨b, l, r, none, none⟩).then fun outs =>
  let ok := refresh && outs.all fun o => o.pl.isSome && o.pr.isSome
  (Eng.each outs fun o =>
    let old (a n : Nat) : Eng Mat := if computed then matAt s.mem (udState3 d + a) n else Eng.ret (Mat.ident n)
    let use (new : Option Mat) (a n : Nat) : Eng Mat := match ok, new with | true, some p => Eng.ret p | _, _ => old a n
    (use o.pl o.block.offL o.block.r).then fun pl => (use o.pr o.block.offR o.block.c).then fun pr =>
    (rule4Dir o.block (o.block.of cols m) pl pr).then fun u => Eng.ret (o.block, u)).then fun us =>
  let fw := outs.flatMap fun o => [(udState2 d + o.block.offL, matBytes o.l), (udState2 d + o.block.offR, matBytes o.r)]
  let pw := if ok then outs.flatMap fun o =>
      [(udState3 d + o.block.offL, matBytes (o.pl.getD [])), (udState3 d + o.block.offR, matBytes (o.pr.getD []))] else []
  Eng.ret (unblock cols (udElems d) us, m, fw ++ pw, ok, refresh && !ok)

/-- Rule 5 (R360, R363). -/
def rule5 (d : Bytes) (c : Consts) (g m0 : List ℚ) : Eng (List ℚ × List ℚ) :=
  (Eng.each (m0.zip g) fun (x, y) => (er (c.b1 * x)).then fun p => er (p + y)).then fun m =>
  (Eng.each (blocks (udRows d) (udCols d) (udBlock d)) fun b => (ortho c b (b.of (udCols d) m)).then fun u => Eng.ret (b, u)).then fun us =>
  Eng.ret (unblock (udCols d) (udElems d) us, m)

/-- The direction and the new state of a descriptor: u, the writes of its state arrays, refreshed, fallback. -/
def State.direction (s : State) (d : Bytes) (c : Consts) (t : Nat) (g : List ℚ) : Eng (List ℚ × List (Nat × Bytes) × Bool × Bool) :=
  (s.arrays d).then fun a =>
  match udRule d with
  | 4 => (s.rule4 d c t g a.m).then fun o => Eng.ret (o.1, (udState1 d, f32Bytes o.2.1) :: o.2.2.1, o.2.2.2)
  | 5 => (rule5 d c g a.m).then fun o => Eng.ret (o.1, [(udState1 d, f32Bytes o.2)], false, false)
  | rule => (rule03 rule c t (udRows d) (udCols d) g a).then fun o =>
    Eng.ret (o.u, [(udState1 d, f32Bytes o.m), (udState2 d, f32Bytes o.st2)], false, false)

/-- The trust ratio τ (R359). -/
def trust (r : NormRec) : Eng ℚ :=
  if r.w2 = 0 ∨ r.u2 = 0 then Eng.ret 1
  else (esqrt (normVal r.w2)).then fun a => (esqrt (normVal r.u2)).then fun b => ediv a b

/-- The second pass over one descriptor. -/
def State.applyPass (s : State) (d : Bytes) (r : NormRec) (clip : ℚ) : Eng ApplyOut :=
  if udElems d = 0 then Eng.ret ⟨[], [], false, false⟩
  else
    let t := crApplied (s.counterRec d) + 1
    (er (r.scale * clip)).then fun kappa => (s.gradient d).then fun g => (Eng.each g fun x => er (x * kappa)).then fun g =>
    (scheduled (s.consts (udGroup d)) (s.schedule d) (udSchedN d) t).then fun c =>
    (s.direction d c t g).then fun (u, writes, refreshed, fallback) =>
    (if udFlag d 1 then (trust r).then fun tau => er (c.lr * tau) else Eng.ret c.lr).then fun lr =>
    (evals (codesAt s.mem (udParam d) (udElems d))).then fun w =>
    (if udFlag d 2 then (er (lr * c.wd)).then fun p => Eng.each w fun x => er (x - p * x) else Eng.ret w).then fun w =>
    (Eng.each (w.zip u) fun (x, y) => er (x - lr * y)).then fun w =>
    Eng.ret ⟨writes ++ [(udParam d, f32Bytes w)], w, fallback, refreshed⟩

/-- The counter record after an applied update of step `k` (R344, R362). -/
def newCounter (rec : Bytes) (k : Nat) (o : ApplyOut) : Bytes :=
  let t := crApplied rec + 1
  u64 t ++ u64 k ++ (if o.refreshed then u64 t else slice rec 0x10 8)
    ++ u32 (fieldAt rec 0x18 4 + if o.fallback then 1 else 0) ++ (if o.refreshed then u8 1 else slice rec 0x1C 1) ++ slice rec 0x1D 35

/-- The narrow copy of row `i`: its codes, the scales of its blocks, its counts (R140 to R142, R343). -/
def narrowRow (f : Nat) (mx : Bool) (row : List ℚ) : Bytes × List Nat × Counts :=
  let scales := (List.range ((row.length + 31) / 32)).map fun b => if mx then mxScale f (maxAbs ((row.drop (32 * b)).take 32)) else 0
  let els := row.zipIdx.map fun (v, j) => roundTo f false (v * pow2 (-(scales.getD (j / 32) 0)))
  (packRow (fmtWidth f) (els.map (·.code)), scales.map fun x => (x + 127).toNat, (els.map Rounded.counts).foldl Counts.add {})

/-- The writes of the narrow copy, and its counts. -/
def narrowWrites (d : Bytes) (params : List ℚ) : List (Nat × Bytes) × Counts :=
  if udNarrow d = 0 ∨ udElems d = 0 then ([], {})
  else
    let f := udNarrowFmt d
    let pitch := (udCols d * fmtWidth f + 511) / 512 * 64
    let rows := (List.range (udRows d)).map fun i => narrowRow f (udFlag d 3) ((params.drop (i * udCols d)).take (udCols d))
    let plane := up64 (udNarrow d + udRows d * pitch)
    let scales := (List.range ((udCols d + 31) / 32)).flatMap fun b => rows.flatMap fun r => u8 (r.2.1.getD b 0)
    (rows.zipIdx.map (fun (r, i) => (udNarrow d + i * pitch, r.1)) ++ (if udFlag d 3 then [(plane, scales)] else []),
     (rows.map fun r => r.2.2).foldl Counts.add {})
/-- The exact values that the narrow copy rounds, as its elements carry them (R146). -/
def narrowVals (d : Bytes) (params : List ℚ) : List ℚ := if udNarrow d = 0 then [] else params

/-- Non-finite results of the APPLY of step `k` count in step `k`, whose work they are, and raise the flag of step `k` + 1, with that
step's first event (R145, R147, R358). -/
def State.applyNonFinite (s : State) (d : Bytes) (k n : Nat) : State :=
  if n = 0 then s
  else (s.tallyCounts k (udWatch d) fFP32 { nonFinite := n }).raiseFlag (udSrc d) (k + 1) (udWatch d) fFP32

/-- APPLY writes one descriptor of step `k`. What it counts belongs to step `k`; its non-finite results raise the flag of step
`k` + 1 (R147, R358). -/
def State.applyOne (s : State) (k i : Nat) (d : Bytes) (clip : ℚ) : State :=
  let (o, w) := s.applyPass d (sget {} s.upd.norms i) clip {}
  let (nw, ncts) := narrowWrites d o.params
  let cr := newCounter (s.counterRec d) k o
  let s := s.notePass i d true
  let s := (o.writes ++ [(udCounter d, cr)] ++ nw).foldl (fun s e => s.toHbm e.1 e.2) s
  let s := s.noteWork d k { w with cts := { w.cts with nonFinite := 0 } }
  let s := s.applyNonFinite d k w.cts.nonFinite
  let s := (s.addCounts (udSrc d) k (udWatch d) (udNarrowFmt d) ncts).addHist k (udWatch d) (udNarrowFmt d) (narrowVals d o.params)
  if o.fallback then (s.bump kPrecondFallbacks 1).eventOnce 0x12 k (udSrc d) 0x5007 (u16 i) else s

/-- A descriptor is done: its buffer is cleared and its object signalled; the last one ends APPLY. -/
def State.finishDesc (s : State) (k i : Nat) (d : Bytes) : State :=
  let mine (b e : Nat) := decide (udGrad d ≤ 2048 * b + 16 * e ∧ 2048 * b + 16 * e < udGrad d + 16 * udElems d)
  let s := s.setCache (udStack d) ((s.cacheOf (udStack d)).map fun x => { x with cells := x.cells.filter fun e => !mine x.block e.1 })
  let s := { s with mem := clearRange s.mem (udGrad d) (16 * udElems d),
                    upd := { s.upd with done := s.upd.done ++ [i], filled := sset [] s.upd.filled i [] } }
  let s : State := if udDone d = 0xFFFF then s else s.signal (udSrc d) (udDone d % 0x4000) 1 k
  if s.updates.length ≤ s.upd.done.length then { s with upd := { s.upd with applying := false } } else s

/-- A write of stack `m` is held by the page tracker. -/
def State.heldOn (s : State) (m : Nat) : Bool := s.cow.held.any fun h => stackOf h.1 = m

/-- `APPLY_DESCRIPTOR_DONE`: APPLY, or the skip, of descriptor `i` completes. A descriptor whose writes the page tracker
holds (R278) completes once they are made. -/
def execApplyDescriptorDone (i : Nat) (checks : List MemCheck) (s : State) : Res :=
  match s.upd.decision, s.updates[i]? with
  | some dec, some d =>
    if !s.upd.applying || s.upd.done.contains i then .next s
    else if dec.action = 1 ∨ dec.skipped.contains (udGroup d) then .next (s.finishDesc dec.step i d)
    else
      let (ok, s1) := if s.upd.written.contains i then (true, s) else s.checked checks
      if !ok then .next s1
      else
        let s2 := if s.upd.written.contains i then s1
          else
            let t := s1.applyOne dec.step i d dec.clip
            { t with upd := { t.upd with written := t.upd.written ++ [i] } }
        .next (if s2.heldOn (udStack d) then s2 else s2.finishDesc dec.step i d)
  | _, _ => .next s

end Sys2Proof.Machine
end

