-- ==== Sys2Proof/Machine/PlanImage.lean ====
section
/-! DEFINITION. The plan image: its layout, the checks of a load, relocation, and the plan it gives (03, 12, 13). -/

namespace Sys2Proof.Machine

/-! ### Layout (R48 to R58) -/

/-- Cut a byte string into entries of `n` bytes; the first argument bounds their number. -/
def chunks (n : Nat) : Nat → Bytes → List Bytes
  | 0, _ => []
  | k + 1, bs => if bs = [] then [] else bs.take n :: chunks n k (bs.drop n)

/-- Bytes [o, o + n) of an entry are zero. -/
def zeroAt (bs : Bytes) (o n : Nat) : Bool := fieldAt bs o n == 0

/-- A section table entry (R49). -/
structure SecEntry where
  type : Nat
  size : Nat
  count : Nat
  offset : Nat
  bytes : Nat
  crc : Nat
  rsvd : Bool
  deriving DecidableEq, Repr

/-- The rules of a section type (R50): entry size, least and greatest count, required. `multi`: a multi-module set. -/
def secRule (multi : Bool) : Nat → Option (Nat × Nat × Option Nat × Bool)
  | 1 => some (16, 48, some 48, true)
  | 2 => some (64, 0, some 576, true)
  | 3 => some (16, 0, none, true)
  | 4 => some (64, 0, none, true)
  | 5 => some (16, 0, some 16384, true)
  | 6 => some (64, 0, some 8, true)
  | 7 => some (128, 0, none, true)
  | 8 => some (32, 0, some 16, true)
  | 9 => some (8, 0, none, true)
  | 10 => some (8, 16, some 16, multi)
  | 11 => some (64, 0, none, true)
  | 12 => some (32, 0, none, false)
  | _ => none

def phMultiple (img : Bytes) : Bool := bitsOf (fieldAt img 0x0E 2) 0 0 == 1
def phSections (img : Bytes) : Nat := fieldAt img 0x0C 2
def phModule (img : Bytes) : Nat := fieldAt img 0x26 2
def phModules (img : Bytes) : Nat := fieldAt img 0x28 2
def phLead (img : Bytes) : Nat := fieldAt img 0x2A 2
def phStepBeats (img : Bytes) : Nat := fieldAt img 0x2C 4
def phStart (img : Bytes) (p : Nat) : Int := i32At img (0x30 + 4 * p)
def phEnd (img : Bytes) (p : Nat) : Int := i32At img (0x48 + 4 * p)
def phPlanArea (img : Bytes) : Nat × Nat := (fieldAt img 0x68 8, fieldAt img 0x70 8)
def phStaging (img : Bytes) : Nat × Nat := (fieldAt img 0x78 8, fieldAt img 0x80 8)

/-- The section table. -/
def secTable (img : Bytes) : List SecEntry :=
  (List.range (phSections img)).map fun i =>
    let e := slice img (0x200 + 32 * i) 32
    ⟨fieldAt e 0 2, fieldAt e 2 2, fieldAt e 4 4, fieldAt e 8 8, fieldAt e 0x10 8, fieldAt e 0x18 4, zeroAt e 0x1C 4⟩

/-- The bytes of a section; none where it is absent. -/
def secBytes (img : Bytes) (t : Nat) : Bytes :=
  match (secTable img).find? fun e => e.type = t with
  | some e => slice img e.offset e.bytes
  | none => []
/-- The entries of a section. -/
def secEntries (img : Bytes) (t : Nat) : List Bytes :=
  match secRule true t with
  | some r => let bs := secBytes img t; chunks r.1 (bs.length / r.1) bs
  | none => []

/-- Two ranges (first, length) share no byte. -/
def apart (a b : Nat × Nat) : Bool := a.2 == 0 || b.2 == 0 || decide (a.1 + a.2 ≤ b.1 ∨ b.1 + b.2 ≤ a.1)
/-- No two of a list of ranges share a byte. -/
def allApart : List (Nat × Nat) → Bool
  | [] => true
  | a :: l => l.all (apart a) && allApart l
/-- No value stands twice in a list. -/
def noRepeat (l : List Nat) : Bool := l.dedup.length == l.length

/-! ### Steps 2 and 3 of a load (R59) -/

/-- The module's part code and stepping (R66, R428). -/
def partCode : Nat := 0xE100
def stepping : Nat := 0xB1

def headerBad (img : Bytes) : Bool :=
  decide (img.length < 512) || slice img 0 8 != ascii "EDZPLAN1" || fieldAt img 8 2 != 1 || fieldAt img 0x0A 2 != 512
    || fieldAt img 0x10 8 != img.length || decide (268435456 < img.length)
    || decide (phSections img < 1 ∨ 32 < phSections img) || decide (phModules img < 1 ∨ 4096 < phModules img)
    || decide (phLead img < 1 ∨ 8 < phLead img) || decide (phStepBeats img < 4096 ∨ 16777216 < phStepBeats img)
    || decide (phModules img ≤ phModule img) || phMultiple img != decide (1 < phModules img)
def partBad (img : Bytes) : Bool := fieldAt img 0x20 4 != partCode || decide (stepping < fieldAt img 0x24 2)
/-- The digest covers the image with `PLAN_SET_DIGEST` and `IMAGE_DIGEST` taken as zero (R48). -/
def digestBad (img : Bytes) : Bool := shake256 64 (img.take 0x90 ++ List.replicate 128 0#8 ++ img.drop 0x110) != slice img 0xD0 64
def crcBad (img : Bytes) : Bool :=
  decide (img.length < 0x200 + 32 * phSections img) || (secTable img).any fun e =>
    decide (img.length < e.offset + e.bytes) || (crc32c (slice img e.offset e.bytes)).toNat != e.crc

/-! ### Step 4: the structure (R49 to R58) -/

def tableBad (img : Bytes) : Bool :=
  let t := secTable img
  (t.any fun e => match secRule (phMultiple img) e.type with
    | none => true
    | some (size, lo, hi, _) => e.size != size || e.bytes != e.size * e.count || e.offset % 64 != 0 || decide (e.count < lo)
        || (match hi with | some h => decide (h < e.count) | none => false))
    || !noRepeat (t.map fun e => e.type)
    || ((List.range 13).any fun k => match secRule (phMultiple img) k with
        | some (_, _, _, true) => !(t.any fun e => e.type = k)
        | _ => false)
    || !allApart ((0, 0x200 + 32 * phSections img) :: t.map fun e => (e.offset, e.bytes))

def sdCluster (e : Bytes) : Nat := 12 * fieldAt e 0 1 + 4 * fieldAt e 1 1 + fieldAt e 2 1
def sdLength (e : Bytes) : Nat := fieldAt e 4 4
def sdBody (e : Bytes) : Nat := fieldAt e 8 8
def sdEntries (e : Bytes) : List Nat := (List.range 6).map fun p => fieldAt e (0x10 + 4 * p) 4
def dmMask (e : Bytes) : Nat := bitsOf (fieldAt e 2 2) 11 0
/-- The word that a relocation entry names does not lie whole within its section. DESIGN CHOICE (log 105): the spec rejects an
`RL_OFFSET` past its section; one inside it whose 8 bytes reach past the end is rejected with the same reason. -/
def relocationPast (img : Bytes) (e : Bytes) : Bool := decide ((secBytes img (fieldAt e 4 1)).length < fieldAt e 0 4 + 8)
/-- Non-decreasing. -/
def rising : List Nat → Bool
  | a :: b :: l => decide (a ≤ b) && rising (b :: l)
  | _ => true

def entriesBad (img : Bytes) : Bool :=
  let maps := secEntries img 1
  let dirs := secEntries img 2
  let masked := maps.zipIdx.flatMap fun (e, n) => ((List.range 12).filter fun c => (dmMask e / 2 ^ c) % 2 = 1).map fun c => 12 * n + c
  (maps.zipIdx.any fun (e, n) => fieldAt e 0 1 != n || fieldAt e 1 1 != n / 6)
    || (dirs.any fun e => decide (47 < fieldAt e 0 1 ∨ 2 < fieldAt e 1 1 ∨ 3 < fieldAt e 2 1)
        || decide ((secEntries img 3).length < sdBody e + sdLength e) || !rising (sdEntries e ++ [sdLength e]))
    || !noRepeat (dirs.map sdCluster)
    || (dirs.any fun e => !masked.contains (sdCluster e)) || (masked.any fun c => !(dirs.map sdCluster).contains c)
    || ((secEntries img 6).any fun e => decide (7 < fieldAt e 0 1)) || !noRepeat ((secEntries img 6).map fun e => fieldAt e 0 1)
    || ((secEntries img 9).any fun e =>
        !([3, 4].contains (fieldAt e 4 1)) || decide (1 < fieldAt e 5 1) || (fieldAt e 5 1 == 0 && decide (57 < fieldAt e 6 1))
          || relocationPast img e)
    || ((secEntries img 10).zipIdx.any fun (e, n) => fieldAt e 0 1 != n)
    || ((secEntries img 12).any fun e => fieldAt e 0 8 % 64 != 0 || fieldAt e 8 8 % 64 != 0 || fieldAt e 0x10 8 % 64 != 0
        || decide (img.length < fieldAt e 8 8 + fieldAt e 0x10 8))

/-! ### Step 4: reserved fields (R50, R154) -/

/-- Bits above 14 of a sync ID field that may be 0xFFFF for none. -/
def syncFieldBad (x : Nat) : Bool := x != 0xFFFF && bitsOf x 15 14 != 0

/-- The reserved bits of an instruction. -/
def instrReserved (w : Nat) : Bool :=
  match iClass w with
  | 0 => bitsOf w 122 0 != 0
  | 1 | 2 | 3 => bitsOf w 122 118 != 0
  | 4 | 7 => bitsOf w 122 108 != 0 || bitsOf w 106 0 != 0
  | 5 => bitsOf w 119 116 != 0
  | 6 => bitsOf w 122 108 != 0 || bitsOf w 105 0 != 0
  | 8 => bitsOf w 1 0 != 0
  | 9 => bitsOf w 12 0 != 0
  | 10 => bitsOf w 93 0 != 0
  | 11 => bitsOf w 75 0 != 0
  | 12 => bitsOf w 88 0 != 0
  | 13 => bitsOf w 74 0 != 0
  | 14 => bitsOf w 48 0 != 0 || (bitsOf w 122 121 == 1 && bitsOf w 112 107 != 0)
  | 15 => bitsOf w 67 0 != 0
  | _ => false

/-- The reserved fields of a DMA table entry (R172, R173, R187, R196, R203); an undefined type has none. -/
def dmaReserved (d : Bytes) : Bool :=
  match ddType d with
  | 1 => bitsOf (fieldAt d 2 2) 15 1 != 0 || syncFieldBad (fieldAt d 4 2) || !zeroAt d 0x30 16
  | 2 => !zeroAt d 2 2 || !zeroAt d 6 2 || !zeroAt d 0x0C 4 || !zeroAt d 0x20 32
  | 3 => bitsOf (fieldAt d 2 2) 15 6 != 0 ||
      (if bitsOf (fieldAt d 2 2) 3 3 = 1 then bitsOf (fieldAt d 4 4) 31 20 != 0 else bitsOf (fieldAt d 0x3C 2) 15 15 != 0)
  | 4 => bitsOf (fieldAt d 2 2) 15 2 != 0 || !zeroAt d 0x16 2 || !zeroAt d 0x2A 2 || !zeroAt d 0x30 16
      || bitsOf (fieldAt d 0x2C 2) 15 15 != 0
  | _ => false

def updReserved (d : Bytes) : Bool :=
  bitsOf (fieldAt d 5 1) 7 4 != 0 || bitsOf (fieldAt d 0x68 1) 7 4 != 0 || !zeroAt d 0x69 1 || syncFieldBad (udDone d) || !zeroAt d 0x6C 20

def bjType (d : Bytes) : Nat := fieldAt d 0 2
def bjStand (d : Bytes) : Nat := fieldAt d 2 1
def bjFormats (d : Bytes) : Nat := fieldAt d 6 2
/-- Whether a stream allows one of the formats of a mask. -/
def bjAllows (d : Bytes) (mask : Nat) : Bool := (bjFormats d) &&& mask != 0

def ingReserved (d : Bytes) : Bool :=
  match bjType d with
  | 1 => !zeroAt d 3 5 || !zeroAt d 0x28 24
  | 2 => bjAllows d 0x100 && !zeroAt d 0x38 4
  | 3 => syncFieldBad (fieldAt d 0x22 2) || !zeroAt d 0x28 24
  | 4 => !zeroAt d 3 1 || !zeroAt d 0x14 44
  | _ => false

def reservedBad (img : Bytes) : Bool :=
  bitsOf (fieldAt img 0x0E 2) 15 1 != 0 || !zeroAt img 0x64 4 || !zeroAt img 0x110 240
    || ((secTable img).any fun e => !e.rsvd)
    || ((secEntries img 1).any fun e => bitsOf (fieldAt e 2 2) 15 12 != 0 || !zeroAt e 4 12)
    || ((secEntries img 2).any fun e => !zeroAt e 3 1 || !zeroAt e 0x28 24)
    || ((secEntries img 3).any fun e => instrReserved (leNat e))
    || ((secEntries img 4).any dmaReserved)
    || ((secEntries img 5).any fun e => bitsOf (fieldAt e 0 2) 15 14 != 0 || bitsOf (fieldAt e 2 2) 15 1 != 0 || !zeroAt e 0x0C 4)
    || ((secEntries img 6).any fun e => !zeroAt e 1 7 || !zeroAt e 0x30 16)
    || ((secEntries img 7).any updReserved)
    || ((secEntries img 8).any fun e => !zeroAt e 2 2 || !zeroAt e 0x10 16)
    || ((secEntries img 9).any fun e => !zeroAt e 7 1)
    || ((secEntries img 10).any fun e => bitsOf (fieldAt e 1 1) 7 1 != 0 || !zeroAt e 4 4)
    || ((secEntries img 11).any ingReserved)
    || ((secEntries img 12).any fun e => !zeroAt e 0x18 8)

/-! ### Step 4: shape classes, instructions (R55, R154) -/

def shapeBad (img : Bytes) : Bool :=
  ((secEntries img 8).any fun e =>
    decide (15 < fieldAt e 0 1 ∨ 2 < fieldAt e 1 1) || decide (fieldAt e 4 4 < fieldAt e 8 4) || decide (fieldAt e 4 4 < fieldAt e 0x0C 4)
      || (fieldAt e 1 1 != 1 && !zeroAt e 0x0C 4))
    || !noRepeat ((secEntries img 8).map fun e => fieldAt e 0 1)

def instrBad (img : Bytes) : Bool := (secEntries img 3).any fun e => decide (16 ≤ iClass (leNat e))

/-! ### Step 4: update descriptors (R345) -/

/-- HBM after the `HBM_INIT` copies (R58). -/
def initMem (img : Bytes) (mem : List (Nat × Byte)) : List (Nat × Byte) :=
  (secEntries img 12).foldl (fun m e => writeBytes m (fieldAt e 0 8) (slice img (fieldAt e 8 8) (fieldAt e 0x10 8))) mem

/-- The bytes of a narrow copy (R343). -/
def narrowBytes (d : Bytes) : Nat :=
  let rows := udRows d * ((udCols d * fmtWidth (udNarrowFmt d) + 511) / 512 * 64)
  if udFlag d 3 then up64 rows + (udCols d + 31) / 32 * udRows d else rows

/-- The arrays of state of a descriptor, and with them its gradient buffer (R343). -/
def udState (d : Bytes) : List (Nat × Nat) :=
  let (n1, n2, n3) := udSizes d
  [(udParam d, 4 * udElems d), (udState1 d, n1), (udState2 d, n2), (udState3 d, n3), (udCounter d, 64), (udSched d, 32 * udSchedN d),
   (udNarrow d, if udNarrow d = 0 then 0 else narrowBytes d)]
def udArrays (d : Bytes) : List (Nat × Nat) := (udGrad d, 16 * udElems d) :: udState d

/-- Strictly increasing. -/
def strictly : List Nat → Bool
  | a :: b :: l => decide (a < b) && strictly (b :: l)
  | _ => true

def updateBad (img : Bytes) (mem : List (Nat × Byte)) : Bool :=
  let us := secEntries img 7
  (us.any fun d =>
    decide (5 < udRule d ∨ 1023 < udGroup d ∨ 31 < udStack d) || udRows d * udCols d != udElems d
      || (decide (3 ≤ udRule d) && udElems d != 0 && (udRows d == 0 || udCols d == 0))
      || (if 4 ≤ udRule d then decide (udBlock d < 1 ∨ 1024 < udBlock d) else udBlock d != 0)
      || (if udRule d = 4 then decide (udRefresh d < 1 ∨ 65535 < udRefresh d) else udRefresh d != 0)
      || (decide (4 ≤ udRule d) && udFlag d 1)
      || decide (udDeadline d ≤ phStart img 2 ∨ phEnd img 3 < udDeadline d)
      || decide (phModules img < udContributors d)
      || !isDrainForm (udNarrowFmt d) || (udFlag d 3 && !isMxForm (udNarrowFmt d))
      || ((udArrays d).any fun a => a.2 != 0 &&
          (a.1 % 64 != 0 || decide (a.1 < udStack d * stackBytes ∨ (udStack d + 1) * stackBytes < a.1 + a.2)))
      || !strictly ((List.range (udSchedN d)).map fun i => leNat (readBytes mem (udSched d + 32 * i) 8)))
    || !allApart (us.flatMap udArrays)

/-! ### Step 4: bucking job descriptors (R332 to R336, R527) -/

def rwLength (d : Bytes) : Nat := fieldAt d 4 4
def rwPos (d : Bytes) : Nat := fieldAt d 8 4
def rwRows (d : Bytes) : Nat := fieldAt d 0x0C 4
def rwBase (d : Bytes) : Nat := fieldAt d 0x10 8
def rwSet (d : Bytes) : Nat := fieldAt d 0x18 8
def rwRowsClass (d : Bytes) : Nat := fieldAt d 0x20 1
def rwBoxClass (d : Bytes) : Nat := fieldAt d 0x21 1
def rwDone (d : Bytes) : Nat := fieldAt d 0x22 2
def rwGuard (d : Bytes) : Nat := fieldAt d 0x24 4
/-- The bytes of a row (R334). -/
def rwRowBytes (d : Bytes) : Nat := up64 (rwLength d * rwPos d) + up64 (rwLength d * 4)
/-- The bytes of a row set whose box list has `c` entries. -/
def rwLayout (d : Bytes) (c : Nat) : Nat := up64 (rwRows d * rwRowBytes d) + up64 (16 * c) + up64 (4 * c)

def bjStream (d : Bytes) : Nat := fieldAt d 3 1
def bjBranch (d : Bytes) : Nat := fieldAt d 4 1
def bjRows (d : Bytes) : Nat := fieldAt d 5 1
def bjCeiling (d : Bytes) : Nat := fieldAt d 8 8
def bjMean (d : Bytes) : Nat := fieldAt d 0x10 4
def bjOutW (d : Bytes) : Nat := fieldAt d 0x14 2
def bjOutH (d : Bytes) : Nat := fieldAt d 0x16 2
def bjForm (d : Bytes) : Nat := fieldAt d 0x18 1
def bjFrameStep (d : Bytes) : Nat := fieldAt d 0x1B 1
def bjRate (d : Bytes) : Nat := fieldAt d 0x1C 4
def bjMel (d : Bytes) : Nat := fieldAt d 0x20 2
def bjFft (d : Bytes) : Nat := fieldAt d 0x22 2
def bjHop (d : Bytes) : Nat := fieldAt d 0x24 2
def bjWin (d : Bytes) : Nat := fieldAt d 0x26 2
def bjTable (d : Bytes) : Nat := fieldAt d 0x2C 2
def bjStem (d : Bytes) : Nat := fieldAt d 0x2E 2

/-- Bytes of an output element by `BJ_OUT_FORM`. -/
def formBytes (form : Nat) : Nat := match form with | 0 => 1 | 1 => 2 | _ => 4

/-- The position sizes, before any stem, of the formats a stream allows; format 9 brings no size of its own. -/
def bjPosSizes (d : Bytes) : List Nat :=
  (if bjAllows d 0x00F then [3 * bjOutW d * bjOutH d * formBytes (bjForm d)] else [])
    ++ (if bjAllows d 0x0F0 then [if bjMel d = 0 then 4 * bjOutH d else bjMel d * formBytes (bjForm d)] else [])
    ++ (if bjAllows d 0x500 then [4] else [])

/-- A stem's geometry: bytes of one input map, bytes of one output position. -/
def stemIn (g : Bytes) : Nat := fieldAt g 0x10 2 * fieldAt g 0x12 2 * lbCin g * lbInBytes g
def stemOut (g : Bytes) : Nat := fieldAt g 0x36 2 * lbTileW g * lbPosBytes g

def bjRangeBad (d : Bytes) : Bool :=
  decide (63 < bjStream d ∨ 7 < bjBranch d) || bitsOf (bjFormats d) 15 11 != 0 || bjMean d == 0 || decide (3 < bjForm d)
    || (bjAllows d 0x00F && (bjOutW d == 0 || bjOutH d == 0 || decide (3 < fieldAt d 0x19 1 ∨ 2 < fieldAt d 0x1A 1) || bjFrameStep d == 0
        || decide (1 < bjForm d)))
    || (bjAllows d 0x0F0 && (decide (bjRate d < 8000 ∨ 48000 < bjRate d) || decide (256 < bjMel d)
        || (if bjMel d = 0 then bjOutH d == 0 || bjForm d != 2
            else !([64, 128, 256, 512, 1024, 2048, 4096].contains (bjFft d)) || decide (bjFft d < bjWin d) || bjHop d == 0
              || decide (bjRate d < 2 * fieldAt d 0x2A 2) || !([1, 2].contains (bjForm d)))))
    || (bjAllows d 0x500 && bjForm d != 3)

/-- The shape class with number `k`. -/
def shapeOf (img : Bytes) (k : Nat) : Option Bytes := (secEntries img 8).find? fun e => fieldAt e 0 1 = k
/-- The greatest entry count of a class. -/
def clipOf (img : Bytes) (k : Nat) : Nat := match shapeOf img k with | some e => fieldAt e 0x0C 4 | none => 0

def geomBad (img : Bytes) (d : Bytes) : Bool :=
  let named (k : Nat) := match shapeOf img k with | some e => fieldAt e 1 1 != 1 | none => true
  decide (7 < fieldAt d 3 1) || decide (rwLength d < 1 ∨ 65535 < rwLength d) || rwPos d % 4 != 0 || decide (65535 < rwRows d)
    || rwBase d % 64 != 0
    || (if rwRowsClass d = 0xFF then rwRows d != 0 else named (rwRowsClass d) || clipOf img (rwRowsClass d) != rwRows d)
    || (rwBoxClass d != 0xFF && named (rwBoxClass d)) || (rwDone d != 0xFFFF && (rwDone d % 0x4000) / 128 != 0x70 + bjStand d)
    || decide (rwSet d < rwLayout d (if rwBoxClass d = 0xFF then 0 else clipOf img (rwBoxClass d)))

/-- A stem names a conv geometry descriptor with `LIMBER` 1 (R317, R335). -/
def stemBad (img : Bytes) (d : Bytes) : Bool :=
  match (secEntries img 4)[fieldAt d 4 4]? with
  | none => true
  | some g => ddType g != 3 || bitsOf (fieldAt g 2 2) 3 3 != 1
/-- The resampling ratio of a stream has more than 1,024 phases (R336). The plan states the input rate of Opus only (R307), so the test
is made for streams that allow Opus. -/
def phasesOver (d : Bytes) : Bool := bjAllows d 0x020 && decide (1024 < bjRate d / Nat.gcd (bjRate d) 48000)

def streamBad (img : Bytes) (tables : Nat → Bool) (d : Bytes) : Bool :=
  let ing := secEntries img 11
  bjRangeBad d || phasesOver d || decide (63 < bjTable d) || !tables (bjTable d) ||
  match ing[bjRows d]? with
  | none => true
  | some g =>
    bjType g != 3 || bjStand g != bjStand d || decide (rwLength g * rwPos g < bjCeiling d) ||
    if bjStem d = 0xFFFF then (bjPosSizes d).any fun n => n != rwPos g
    else match ing[bjStem d]? with
      | none => true
      | some st => bjType st != 4 || bjStand st != bjStand d ||
        match (secEntries img 4)[fieldAt st 4 4]? with
        | none => true
        | some cg => ddType cg != 3 || bitsOf (fieldAt cg 2 2) 3 3 != 1 || stemOut cg != rwPos g || (bjPosSizes d).any fun n => n != stemIn cg

/-- The ranges of a stand's staging area. -/
def standRanges (ing : List Bytes) (k : Nat) : List (Nat × Nat) :=
  (ing.filter fun d => bjStand d = k).flatMap fun d =>
    match bjType d with
    | 1 => [(fieldAt d 8 8, fieldAt d 0x10 8), (fieldAt d 0x18 8, fieldAt d 0x20 8)]
    | 3 => [(rwBase d, 2 * rwSet d)]
    | _ => []

def ingestBad (img : Bytes) (tables : Nat → Bool) : Bool :=
  let ing := secEntries img 11
  let streams := ing.filter fun d => bjType d = 2
  (ing.any fun d => decide (bjType d < 1 ∨ 4 < bjType d) || decide (7 < bjStand d)
    || (bjType d == 1 && [8, 0x10, 0x18, 0x20].any fun o => fieldAt d o 8 % pageBytes != 0)
    || (bjType d == 2 && streamBad img tables d) || (bjType d == 3 && geomBad img d)
      || (bjType d == 4 && stemBad img d))
    || (streams.any fun d => (ing.filter fun x => bjType x = 1 ∧ bjStand x = bjStand d).length != 1)
    || !noRepeat (streams.map bjStream)
    || ((List.range 8).any fun k => !allApart (standRanges ing k) || (standRanges ing k).any fun r => decide ((phStaging img).2 < r.1 + r.2))
    || decide (phStart img 0 + 2 * phStepBeats img < phEnd img 2)

/-! ### Step 5: windows and addresses (R60, R279, R441) -/

def phasesBad (img : Bytes) : Bool :=
  decide (phStart img 0 < -((phLead img * phStepBeats img : Nat) : Int) ∨ phEnd img 0 ≤ phStart img 0 ∨ phStart img 1 < phEnd img 0
      ∨ phStart img 1 < 0 ∨ (phStepBeats img : Int) < phEnd img 5)
    || ((List.range 5).any fun p => decide (phEnd img (p + 1) ≤ phStart img (p + 1)))
    || ((List.range 4).any fun p => decide (phStart img (p + 2) < phEnd img (p + 1)))

/-- The value that a relocation entry names (R56): the 7-bit field, or the address. -/
def rlField (img : Bytes) (e : Bytes) : Nat :=
  let w := fieldAt (secBytes img (fieldAt e 4 1)) (fieldAt e 0 4) 8
  if fieldAt e 5 1 = 0 then bitsOf w (fieldAt e 6 1 + 6) (fieldAt e 6 1) else w
/-- The logical die that the field holds; at least 48 where it holds none. -/
def rlDie (img : Bytes) (e : Bytes) : Nat :=
  let x := rlField img e
  if fieldAt e 5 1 = 0 then x else if x < sramBase then 48 else (x - sramBase) / 2 ^ 32

/-- Bytes of the plan area that a plan needs (R59 step 6, R469). -/
def planAreaNeed (img : Bytes) : Nat :=
  16 * (secEntries img 3).length + 64 * (secEntries img 4).length + 128 * (secEntries img 7).length + 64 * (secEntries img 11).length
    + 4 * ((secEntries img 2).map fun e =>
        let st : Stream := ⟨0, ((secEntries img 3).drop (sdBody e)).take (sdLength e) |>.map leNat, sdEntries e, []⟩
        ((List.range st.words.length).filter fun i => st.isCheckpoint i (st.words.getD i 0)).length).sum

/-- The pages marked for capture (R277). -/
def markedPages (us : List Bytes) : List Nat :=
  ((us.flatMap udState).flatMap fun a =>
    if a.2 = 0 then [] else (List.range ((a.1 + a.2 - 1) / pageBytes + 1 - a.1 / pageBytes)).map fun i => a.1 / pageBytes + i).dedup.mergeSort

/-- The bytes of a snapshot slot of `n` pages (R441). -/
def slotBytes (n : Nat) : Nat := (256 + 8 * n + pageBytes - 1) / pageBytes * pageBytes + n * pageBytes
/-- The bytes of the partner area: `PARTNER_AREA_SIZE` (R300); none without a device (R298). -/
def State.partnerArea (s : State) : Nat := if s.cxl.devices.isEmpty then 0 else s.active 0x4050 2 0

/-- A stash whose two parts hold less than its declared ceiling (R54). -/
def ceilingBad (img : Bytes) : Bool :=
  (secEntries img 6).any fun e => decide (fieldAt e 0x10 8 + fieldAt e 0x20 8 < fieldAt e 0x28 8)

/-- The areas and addresses of a plan (R60, R279, R441). DESIGN CHOICE (log 106): where `SM_CXL_SIZE` is 0 the stash has no reserve,
whatever `SM_CXL_BASE` holds, and the base is not checked. -/
def State.addressBad (s : State) (img : Bytes) : Bool :=
  let aligned (a : Nat × Nat) := a.1 % pageBytes == 0 && a.2 % pageBytes == 0
  let inHbm (a : Nat × Nat) := decide (a.1 + a.2 ≤ hbmEnd)
  let stash := (secEntries img 6).map fun e => (fieldAt e 8 8, fieldAt e 0x10 8)
  let stagings := (List.range 8).map fun k => (4 * k * stackBytes + (phStaging img).1, (phStaging img).2)
  let inits := (secEntries img 12).map fun e => (fieldAt e 0 8, fieldAt e 0x10 8)
  let pools := (List.range 32).map fun m => (stackBytes * (m + 1) - pageBytes * s.poolPages, pageBytes * s.poolPages)
  let cxlOk (a n : Nat) := decide (cxlBase ≤ a ∧ a + n ≤ cxlBase + s.windowBytes)
  let inCxl (a : Nat) := decide (cxlBase ≤ a ∧ a < stashBase)
  let spare (a : Nat) := decide (sramBase + 48 * 2 ^ 32 ≤ a ∧ a < sramBase + 52 * 2 ^ 32)
  !aligned (phPlanArea img) || !aligned (phStaging img) || (stash.any fun a => !aligned a)
    || ((secEntries img 6).any fun e => fieldAt e 0x20 8 % pageBytes != 0
        || (fieldAt e 0x20 8 != 0 && !cxlOk (fieldAt e 0x18 8) (fieldAt e 0x20 8)))
    || !inHbm (phPlanArea img) || (stash.any fun a => !inHbm a) || decide (4 * stackBytes < (phStaging img).1 + (phStaging img).2)
    || !allApart (phPlanArea img :: stagings ++ stash)
    || ((secEntries img 4).any fun d => ddType d == 1 &&
        ((inCxl (fieldAt d 8 8) && !cxlOk (fieldAt d 8 8) 1) || (fieldAt d 6 2 == 0xFFFF && inCxl (fieldAt d 0x10 8) && !cxlOk (fieldAt d 0x10 8) 1)
          || spare (fieldAt d 8 8) || spare (fieldAt d 0x10 8)))
    || ((secEntries img 9).any fun e => decide (47 < rlDie img e))
    || (inits.any fun a => !inHbm a)
    || ((phPlanArea img :: stagings ++ stash ++ inits ++ (secEntries img 7).flatMap udArrays).any fun a => pools.any fun p => !apart a p)
    || decide ((phPlanArea img).2 < planAreaNeed img)
    || (match (markedPages (secEntries img 7)).length with
        | 0 => false
        | n => decide (s.partnerArea < pageBytes + 2 * slotBytes n))

def syncTwice (img : Bytes) : Bool := !noRepeat ((secEntries img 5).map fun e => bitsOf (fieldAt e 0 2) 13 0)
def katBad (img : Bytes) : Bool := decide (fieldAt img 0x60 4 < 1 ∨ 3906 < fieldAt img 0x60 4)

/-! ### The verdict (R59, R62) -/

/-- A tokeniser or media table that is not empty (R527). -/
def State.hasTable (s : State) (n : Nat) : Bool := match s.tally.rw.find? fun e => e.1 = objKey 0xB040 (n + 1) with | some e => e.2 != [] | none => false

/-- The reason for which an image is rejected: the first failing step, and within it the lowest reason; 0 where it may be
loaded. -/
def State.planReason (s : State) (img : Bytes) : Nat :=
  let checks : List (Unit → Nat × Bool) := [
    fun _ => (16, img == []), fun _ => (3, headerBad img), fun _ => (4, partBad img), fun _ => (5, digestBad img), fun _ => (6, crcBad img),
    fun _ => (6, tableBad img), fun _ => (6, entriesBad img), fun _ => (7, reservedBad img), fun _ => (9, ceilingBad img),
    fun _ => (11, shapeBad img),
    fun _ => (13, instrBad img), fun _ => (14, updateBad img (initMem img s.mem)), fun _ => (15, ingestBad img s.hasTable),
    fun _ => (8, phasesBad img), fun _ => (9, s.addressBad img), fun _ => (10, syncTwice img), fun _ => (12, katBad img)]
  checks.foldl (fun r c => if r ≠ 0 then r else let x := c (); if x.2 then x.1 else 0) 0

/-! ### Relocation and the plan (R61, R469) -/

/-- Bytes `new` in place of those at `o`. -/
def patchBytes (bs : Bytes) (o : Nat) (new : Bytes) : Bytes := bs.take o ++ new ++ bs.drop (o + new.length)

/-- A section with every named field relocated. -/
def State.relocated (s : State) (img : Bytes) (t : Nat) : Bytes :=
  ((secEntries img 9).filter fun e => fieldAt e 4 1 = t).foldl (fun bs e =>
    let o := fieldAt e 0 4
    let n := s.physDie (rlDie img e)
    let w := fieldAt bs o 8
    let b := fieldAt e 6 1
    patchBytes bs o (u64 (if fieldAt e 5 1 = 0 then w - bitsOf w (b + 6) b * 2 ^ b + n * 2 ^ b
      else sramBase + n * 2 ^ 32 + (rlField img e - sramBase) % 2 ^ 32))) (secBytes img t)

/-- The expected signature of every checkpoint of a stream. -/
def Stream.signatures (st : Stream) : List (Nat × BitVec 32) :=
  (st.words.zipIdx.foldl (fun (acc : BitVec 32 × List (Nat × BitVec 32)) (w, i) =>
    let sig := foldSig (if st.isEntry i then 0xFFFFFFFF#32 else acc.1) w
    if st.isCheckpoint i w then (0xFFFFFFFF#32, acc.2 ++ [(i, sig)]) else (sig, acc.2)) (0xFFFFFFFF#32, [])).2

/-- The streams of an image. -/
def State.planStreams (s : State) (img : Bytes) : List Stream :=
  let body := s.relocated img 3
  let words := (chunks 16 (body.length / 16) body).map leNat
  (secEntries img 2).map fun e =>
    let st : Stream := ⟨sdCluster e, (words.drop (sdBody e)).take (sdLength e), sdEntries e, []⟩
    { st with expected := st.signatures }

/-- The plan area as a load writes it (R59 step 6, R469). -/
def State.planAreaBytes (s : State) (img : Bytes) : Bytes :=
  let sigs := (s.planStreams img).flatMap fun st => st.expected.flatMap fun e => u32 e.2.toNat
  (Config.planLayout [s.relocated img 3, s.relocated img 4, secBytes img 7, secBytes img 11, sigs]).take (phPlanArea img).2

/-- The plan of an image. -/
def State.planOf (s : State) (img : Bytes) : Plan :=
  let dma := s.relocated img 4
  { planId := fieldAt img 0x18 8, jobId := fieldAt img 0x88 8, setDigest := slice img 0x90 64, imageDigest := slice img 0xD0 64,
    moduleIndex := phModule img, moduleCount := phModules img, leadSteps := phLead img, stepBeats := phStepBeats img,
    phaseStart := (List.range 6).map (phStart img), phaseEnd := (List.range 6).map (phEnd img), katPeriod := fieldAt img 0x60 4,
    planArea := phPlanArea img, staging := phStaging img, dieMask := (secEntries img 1).map dmMask,
    streams := s.planStreams img, dma := chunks 64 (dma.length / 64) dma,
    sync := (secEntries img 5).map fun e => ⟨bitsOf (fieldAt e 0 2) 13 0, bitsOf (fieldAt e 2 2) 0 0 == 1, fieldAt e 4 4, fieldAt e 8 4⟩,
    stash := (secEntries img 6).map fun e => ⟨fieldAt e 0 1, fieldAt e 8 8, fieldAt e 0x10 8, fieldAt e 0x18 8, fieldAt e 0x20 8, fieldAt e 0x28 8⟩,
    updates := secEntries img 7,
    classes := (secEntries img 8).map fun e => ⟨fieldAt e 0 1, fieldAt e 1 1, fieldAt e 4 4, fieldAt e 8 4, fieldAt e 0x0C 4⟩,
    peers := (secEntries img 10).map fun e => ⟨bitsOf (fieldAt e 1 1) 0 0 == 1, fieldAt e 2 2⟩,
    ingest := secEntries img 11 }

end Sys2Proof.Machine
end

