-- ==== Sys2Proof/Machine/Captures.lean ====
section
/-! DEFINITION. Snapshots: slots and captures, the page tracker's streamer, the messages between partners, pairing, the
windthrow index (10, 16). -/

namespace Sys2Proof.Machine

/-! ### Slots (R441, R442, R446) -/

def State.ownSlot (s : State) (i : Nat) : SnapSlot := sget {} s.snap.own i
def State.modOwn (s : State) (i : Nat) (f : SnapSlot → SnapSlot) : State := { s with snap := { s.snap with own := supd {} s.snap.own i f } }
def State.partnerSlot (s : State) (i : Nat) : SnapSlot := sget {} s.snap.partner i
def State.modPartner (s : State) (i : Nat) (f : SnapSlot → SnapSlot) : State :=
  { s with snap := { s.snap with partner := supd {} s.snap.partner i f } }

/-- A slot holds the newest complete snapshot set. -/
def State.keepsSet (s : State) (x : SnapSlot) : Bool := decide (x.state = 2 ∧ x.step = s.snap.newestSet)
/-- An own slot holds a copy that is still being streamed, or waits for its flow. -/
def State.streaming (s : State) (i : Nat) : Bool := (s.snap.checkpoint.toList ++ s.snap.nextCheckpoint.toList).any fun c => decide (c.slot = i)
/-- The own slot, and the partner slot, that a capture may write into. -/
def State.freeOwn (s : State) : Option Nat := [0, 1].find? fun i => !s.keepsSet (s.ownSlot i) && !s.streaming i
def State.freePartner (s : State) : Option Nat := [0, 1].find? fun i => !s.keepsSet (s.partnerSlot i)

/-- The bytes of a page from its written offsets, and the CRC of a page (R445). -/
def cellBytes (n : Nat) (cells : List (Nat × Byte)) : Bytes := (List.range n).map fun i => sget 0#8 cells i
def crcOfPage (page : Nat) (bs : Bytes) : Nat := (pageCrc bs (page * pageBytes)).toNat

/-- The plan's job and set digest. -/
def State.jobId (s : State) : Nat := match s.job.plan with | some p => p.jobId | none => 0
def State.setDigest (s : State) : Bytes := match s.job.plan with | some p => p.setDigest | none => []

/-- The step whose low 32 bits are `low`, nearest to the newest step begun. -/
def State.fullStep (s : State) (low : Nat) : Nat :=
  let b := match s.job.begun with | some k => k | none => s.job.startStep
  let d : Int := signed 32 ((low + 2 ^ 32 - b % 2 ^ 32) % 2 ^ 32)
  ((b : Int) + d).toNat

/-! ### A capture starts and ends (R280, R281, R443 to R445) -/

/-- An own slot is complete; a checkpoint step waits for its flow (R448). -/
def State.ownComplete (s : State) (c : Capture) : State :=
  let s := s.modOwn c.slot fun x => { x with state := 2 }
  let s := { s with snap := { s.snap with capture := none } }
  let p : Checkpoint := { step := c.step, slot := c.slot, since := s.time.cycles }
  if !c.checkpoint then s
  else if s.snap.checkpoint.isNone then { s with snap := { s.snap with checkpoint := some p } }
  else { s with snap := { s.snap with nextCheckpoint := some p } }

/-- The capture of base die `m` is complete when none of its pages is left (R280). -/
def State.captureDie (s : State) (m : Nat) : State :=
  if s.cow.pages.any fun e => decide (e.1 / pagesPerStack = m) then s
  else { s with cow := { s.cow with dies := sset 0 s.cow.dies m 2 } }

/-- Every page of the capture is `DONE`: the capture of the module is complete, and the partner is told, or the slot of a
module without a partner is complete. -/
def State.captureRead (s : State) : State :=
  if s.cow.state = 1 ∧ s.cow.pages = [] then
    let s := { s with cow := { s.cow with state := 2 } }.event wardenSrc 0x3121
    match s.snap.capture with
    | none => s
    | some c =>
      if c.remote then
        { s with snap := { s.snap with capture := some { c with localDone := true } } }.sendTo wardenSrc 13 s.partner (snapArg 3 c.step)
          (u32 s.cow.marked.length)
      else s.ownComplete c
  else s

/-- The capture of step `k` into own slot `i` begins: every marked page becomes `PENDING`. -/
def State.beginCapture (s : State) (k i : Nat) : State :=
  let s := s.modOwn i fun _ => { state := 1, step := k, module := s.self, modules := s.modules, jobId := s.jobId, stamp := s.stamp,
                                 digest := s.setDigest }
  let s := (List.range 32).foldl (fun s m => s.setCount (kStackTouch m) 0) s
  { s with cow := { s.cow with state := 1, dies := (List.range 32).map fun m => (m, if (s.cow.marked.any fun p => decide (p / pagesPerStack = m)) = true then 1 else 2),
                               pages := s.cow.marked.map fun p => (p, PageState.pending), held := [], poolEmptyRaised := false },
           snap := { s.snap with capture := some { step := k, slot := i, checkpoint := s.checkpointStep k,
                                                   remote := decide (s.partner ≠ 0xFFFF) } } }.event wardenSrc 0x3120

/-- The clearance of step `k` starts its capture, if it is one to capture, or refuses it. -/
def State.startCapture (s : State) (k : Nat) : State :=
  if !s.captures k then s
  else
    let t := { s with snap := { s.snap with requested := s.snap.requested.filter fun x => decide (x ≠ k) } }
    if s.partner = 0xFFFF ∧ !s.checkpointStep k then t.refuseCapture k 5
    else if s.cow.state = 1 then (t.event (dieSrc 52) 0x3123).refuseCapture k 2
    else match s.freeOwn with
      | none => t.refuseCapture k 3
      | some i => (t.beginCapture k i).captureRead

/-! ### The streamer (R278, R280, R445) -/

/-- The writes held for page `p` are made. -/
def State.releaseHeld (s : State) (p : Nat) : State :=
  let mine := s.cow.held.filter fun h => decide (h.1 / pageBytes = p)
  { s with mem := mine.foldl (fun m h => writeBytes m h.1 h.2) s.mem,
           cow := { s.cow with held := s.cow.held.filter fun h => decide (h.1 / pageBytes ≠ p) } }

/-- `SHADOW_COPY_DONE`: the copy of page `page` into its pool page completes: its half-bursts are read and checked (R262). -/
def execShadowCopyDone (page : Nat) (checks : List MemCheck) (s : State) : Res :=
  .next (match s.pageState page with
    | some (.copying q) =>
      let (ok, s) := s.checked checks
      if !ok then s
      else
      let s := s.noteRead (page * pageBytes) pageBytes
      ({ s with mem := copyRange s.mem (page * pageBytes) (q * pageBytes) pageBytes }.setPage page (.shadowed q)).releaseHeld page
    | _ => s)

/-- The page of stack `m` that the streamer reads next: one that a held write waits for, else the lowest not read out. A
page whose first-touch copy is being made is not read before the copy is done. -/
def State.nextPage (s : State) (m : Nat) : Option Nat :=
  match s.cow.held.find? fun h => decide (stackOf h.1 = m) && (s.pageState (h.1 / pageBytes) == some .waiting) with
  | some h => some (h.1 / pageBytes)
  | none =>
    match s.cow.pages.find? fun e => decide (e.1 / pagesPerStack = m) with
    | some (p, .copying _) => (fun _ => none) p
    | some (p, _) => some p
    | none => none

/-- The argument of a `SNAP_PAGE` (R447). -/
def pageArg (step page chunk : Nat) : Nat :=
  (step % 2 ^ 32) * 2 ^ 32 + (page / pagesPerStack) * 2 ^ 27 + (page % pagesPerStack) * 2 ^ 12 + chunk * 2 ^ 6

/-- A page goes to the partner: 32 chunks of data, then its CRC. -/
def State.sendPage (s : State) (step page crc : Nat) (bs : Bytes) : State :=
  let src := dieSrc (52 + page / pagesPerStack)
  let s := (List.range 32).foldl (fun s i => s.sendTo src 12 s.partner (pageArg step page i) (slice bs (65536 * i) 65536)) s
  s.sendTo src 12 s.partner (pageArg step page 32) (u32 crc ++ u32 0)

/-- `PAGE_DONE`: the streamer has read a page and both writes have been accepted. `checks`: what nature reports of
the reads. -/
def execPageDone (page : Nat) (checks : List MemCheck) (s : State) : Res :=
  .next (match s.snap.capture, s.pageState page with
    | some c, some st =>
      if s.cow.state ≠ 1 ∨ s.nextPage (page / pagesPerStack) ≠ some page then s
      else
        let (ok, s) := s.checked checks
        if !ok then s
        else
          let from_ := match st with | .shadowed q => q * pageBytes | _ => page * pageBytes
          let cells := rangeCells s.mem from_ pageBytes
          let bs := readBytes s.mem from_ pageBytes
          let crc := crcOfPage page bs
          let s := (s.noteRead from_ pageBytes).modOwn c.slot fun x => { x with pages := x.pages ++ [(page, crc, cells)] }
          let s := if c.remote then s.sendPage c.step page crc bs else s
          (({ s with cow := { s.cow with pages := s.cow.pages.filter fun e => decide (e.1 ≠ page) } }.releaseHeld page).captureDie (page / pagesPerStack)).captureRead
    | _, _ => s)

/-! ### Requests and sets (R443 to R445) -/

/-- Step `k` has cleared (R70). -/
def State.hasCleared (s : State) (k : Nat) : Bool := decide (s.job.lastCleared ≠ 2 ^ 64 - 1 ∧ k ≤ s.job.lastCleared)

/-- A capture of step `k` is requested here, or by a peer. -/
def State.noteRequest (s : State) (k : Nat) : State :=
  if s.hasCleared k then s.refuseCapture k 1
  else if s.snap.requested.contains k then s
  else { s with snap := { s.snap with requested := s.snap.requested ++ [k] } }

/-- `CAPTURE_REQUEST`. -/
def execCaptureRequest (m : Msg) (s : State) : Res := .next (s.taken m fun s => s.noteRequest m.arg)

/-- The set of step `k` is complete once every module is a member. -/
def State.addMember (s : State) (k m : Nat) : State :=
  if (sget [] s.snap.members k).contains m then s
  else
    let s := { s with snap := { s.snap with members := supd [] s.snap.members k fun l => l ++ [m] } }
    if (sget [] s.snap.members k).length = s.modules then
      { s with snap := { s.snap with newestSet := if s.snap.newestSet = 2 ^ 64 - 1 then k else max s.snap.newestSet k } }.event wardenSrc 0x3302 (u32 k)
    else s

/-- `SET_MEMBER`. -/
def execSetMember (m : Msg) (s : State) : Res := .next (s.taken m fun s => s.addMember (s.fullStep (m.arg % 2 ^ 32)) m.origin)

/-- `CAPTURE_REFUSED`: the refusing module never becomes a member of the set, so that the set is never complete. -/
def execCaptureRefused (m : Msg) (s : State) : Res := .next (s.took m)

/-- `SNAPSHOTS_HELD`. -/
def kSnapshotsHeld : Nat := objKey 0x8150 0

/-- `HELD`: the partner holds every page of the capture in progress. -/
def execHeld (m : Msg) (s : State) : Res :=
  .next (s.taken m fun s =>
    match s.snap.capture with
    | some c =>
      if c.remote && c.localDone && decide (m.origin = s.partner ∧ m.arg % 2 ^ 32 = c.step % 2 ^ 32) then
        let s := ((s.ownComplete c).bump kSnapshotsHeld 1).event wardenSrc 0x3301
        (s.sendAll wardenSrc 13 (snapArg 5 c.step) []).addMember c.step s.self
      else s
    | none => s)

/-! ### The partner's side (R445) -/

/-- The partner slot that takes the pages of step `k` from module `m`. -/
def State.slotFor (s : State) (m k : Nat) : Option Nat :=
  match [0, 1].find? fun i => decide ((s.partnerSlot i).state = 1 ∧ (s.partnerSlot i).step = k ∧ (s.partnerSlot i).module = m) with
  | some i => some i
  | none => s.freePartner

/-- The slot holds every page announced, each checked: it is complete, and `HELD` is answered. -/
def State.tryHeld (s : State) (i : Nat) : State :=
  let x := s.partnerSlot i
  if x.state = 1 ∧ !x.bad ∧ x.expect = some x.checked.length then
    (s.modPartner i fun x => { x with state := 2 }).sendTo wardenSrc 13 x.module (snapArg 4 x.step) []
  else s

/-- A page of a slot takes a chunk of data. -/
def SnapSlot.putChunk (x : SnapSlot) (page o : Nat) (bs : Bytes) : SnapSlot :=
  let cells := (bs.zipIdx.filter fun e => decide (e.1 ≠ 0#8)).map fun (b, j) => (o + j, b)
  if x.pages.any fun e => e.1 = page then
    { x with pages := x.pages.map fun e => if e.1 = page then (page, e.2.1, e.2.2 ++ cells) else e }
  else { x with pages := x.pages ++ [(page, 0, cells)] }

/-- The CRC of a page arrives: it is compared with the one computed here. -/
def SnapSlot.putCrc (x : SnapSlot) (page crc : Nat) : SnapSlot :=
  let cells := match x.pages.find? fun e => e.1 = page with | some e => e.2.2 | none => []
  if crcOfPage page (cellBytes pageBytes cells) = crc then
    { x with pages := x.pages.map fun e => if e.1 = page then (page, crc, e.2.2) else e, checked := x.checked ++ [page] }
  else { x with bad := true }

/-- `SNAP_PAGE`: taken from the module that this one holds copies for, and not in the fault state (R463). -/
def execSnapPage (m : Msg) (s : State) : Res :=
  .next (s.taken m fun s =>
    let k := s.fullStep (m.arg / 2 ^ 32)
    let page := bitsOf m.arg 31 27 * pagesPerStack + bitsOf m.arg 26 12
    let chunk := bitsOf m.arg 11 6
    if s.snap.heldFor ≠ some m.origin ∨ s.job.state = .fault then s
    else match s.slotFor m.origin k with
      | none => s
      | some i =>
        let x := s.partnerSlot i
        let s := if x.state = 1 ∧ x.step = k ∧ x.module = m.origin then s
          else s.modPartner i fun _ => { state := 1, step := k, module := m.origin, modules := s.modules, jobId := s.jobId, stamp := m.stamp,
                                         digest := s.setDigest, coFed := s.snap.heldCoFed }
        if chunk < 32 then s.modPartner i fun x => x.putChunk page (65536 * chunk) m.body
        else (s.modPartner i fun x => x.putCrc page (fieldAt m.body 0 4)).tryHeld i)

/-- `CAPTURE_SENT`: the number of pages of the remote copy. -/
def execCaptureSent (m : Msg) (s : State) : Res :=
  .next (s.taken m fun s =>
    let k := s.fullStep (m.arg % 2 ^ 32)
    if s.snap.heldFor ≠ some m.origin then s
    else match s.slotFor m.origin k with
      | none => s
      | some i =>
        let x := s.partnerSlot i
        let s := if x.state = 1 ∧ x.step = k ∧ x.module = m.origin then s
          else s.modPartner i fun _ => { state := 1, step := k, module := m.origin, modules := s.modules, jobId := s.jobId, stamp := m.stamp,
                                         digest := s.setDigest, coFed := s.snap.heldCoFed }
        (s.modPartner i fun x => { x with expect := some (fieldAt m.body 0 4) }).tryHeld i)

/-! ### Pairing (R438 to R441) -/

/-- `FEED_ID_MAIN`, `FEED_ID_BACKUP`. -/
def State.feedIds (s : State) : List Nat := [s.rwValue 0x8140 1 0, s.rwValue 0x8140 2 0]
/-- Two modules share a feed, or a feed is not recorded (R439). -/
def coFed (a b : List Nat) : Bool := a.any (fun x => b.contains x) || (a ++ b).contains 0
/-- The number of pages that the loaded plan marks. -/
def State.markedCount (s : State) : Nat := s.cow.marked.length

/-- Every module has flooded its ports, and no two modules are more than 15 hops apart (R383). -/
def State.routesDone (s : State) : Bool :=
  let ms := List.range s.modules
  (ms.all fun m => s.net.graph.any fun e => e.1 = m) && ms.all fun a => ms.all fun b => (hops s.net.graph a b).isSome

/-- The body of `PAIR`, and of `PAIR_ACK` before its result. -/
def State.pairBody (s : State) : Bytes := s.feedIds.flatMap u32 ++ u32 s.markedCount ++ u64 s.partnerArea ++ u64 s.jobId

/-- Once the routes exist, an armed module pairs with its partner. -/
def State.tryPair (s : State) : State :=
  if s.job.state = .armed ∧ s.partner ≠ 0xFFFF ∧ !s.snap.pairSent ∧ s.routesDone then
    { s with snap := { s.snap with pairSent := true } }.sendTo wardenSrc 13 s.partner (snapArg 1 0) s.pairBody
  else s

/-- The result of a `PAIR`: 0 accepted, 1 area short, 2 already paired, 3 another job (R438, R441, R447). -/
def State.pairResult (s : State) (m : Msg) : Nat :=
  if s.partnerArea < pageBytes + 2 * slotBytes s.markedCount + 2 * slotBytes (fieldAt m.body 8 4) then 1
  else if (match s.snap.heldFor with | some o => decide (o ≠ m.origin) | none => false) then 2
  else if s.job.plan.isNone ∨ fieldAt m.body 20 8 ≠ s.jobId then 3
  else 0

/-- The feed IDs that a `PAIR` or `PAIR_ACK` carries. -/
def pairFeeds (m : Msg) : List Nat := [fieldAt m.body 0 4, fieldAt m.body 4 4]
/-- `PARTNER_CO_FED` carries this module's feed IDs and the other's. -/
def State.noteCoFed (s : State) (m : Msg) : State :=
  if coFed s.feedIds (pairFeeds m) then s.event wardenSrc 0x7300 ((s.feedIds ++ pairFeeds m).flatMap u32) else s

/-- `PAIR`. -/
def execPair (m : Msg) (s : State) : Res :=
  .next (s.taken m fun s =>
    let r := s.pairResult m
    let s := if r = 0 then
        { s with snap := { s.snap with heldFor := some m.origin, heldPages := fieldAt m.body 8 4,
                                       heldCoFed := coFed s.feedIds (pairFeeds m) } }.noteCoFed m
      else s
    s.sendTo wardenSrc 13 m.origin (snapArg 2 0) (s.pairBody ++ u8 r))

/-- `PAIR_ACK`. -/
def execPairAck (m : Msg) (s : State) : Res :=
  .next (s.taken m fun s =>
    let r := fieldAt m.body 28 1
    if m.origin ≠ s.partner then s
    else
      let s := { s with snap := { s.snap with paired := some r, partnerFeeds := pairFeeds m, coFed := coFed s.feedIds (pairFeeds m) } }
      if r = 0 then s.noteCoFed m else s)

/-! ### The windthrow index (R435, R436) -/

/-- T: the degrees by which a reading lies within 16 °C of its throttle threshold, worst sensor (R435, R492). A sensor is
a die number, or 128 + stack. -/
def throttleAt (sensor : Nat) : Nat := if 128 ≤ sensor then 90 else 95
def State.thermalPart (s : State) : Nat :=
  min 16384 ((s.power.temps.map fun e => 1024 * (e.2 + 16 - throttleAt e.1)).foldl max 0)
/-- `HOLDOVER_ELAPSED`, in ms (R36, R46). -/
def State.holdoverMs (s : State) : Nat := s.time.holdover / msCycles

/-- The earliest step whose clearance lies at least 4,096 beats from now (R443). -/
def State.clearBeat (s : State) (k : Nat) : Int :=
  ((s.stepBegin k + s.job.pauseTotal : Nat) : Int) + (match s.job.plan with | some p => p.phaseEnd.getD 5 0 | none => 0) + 7813
def State.requestStep (s : State) : Option Nat :=
  if s.job.state = .armed ∨ s.job.state = .running ∨ s.job.state = .paused then
    let k := match s.job.begun with | some k => k | none => s.job.startStep
    ((List.range 16).map fun i => k - 1 + i).find? fun j => decide (s.job.startStep ≤ j) && decide ((s.beat : Int) + 4096 ≤ s.clearBeat j)
  else none

/-- `WINDTHROW_EVALUATION`, once every 1,024 beats. With no step to request, the S of the event is not stated. -/
def execWindthrowEvaluation (s : State) : Res :=
  .next (if s.beat / 1024 = s.snap.lastEval / 1024 then s
    else
      let e := s.snap.e - s.snap.e / 4096
      let t := s.thermalPart
      let h := 8192 * s.holdoverMs / 1000
      let x := min 65535 (e + t + h)
      let lim := s.rwValue 0x8100 2 40000
      let armed := s.snap.armed
      let s := { s with snap := { s.snap with e := e, t := t, h := h, index := x, lastEval := s.beat,
                                              armed := if armed && decide (lim ≤ x) then false else armed || decide (x + 4096 < lim) } }
      if armed && decide (lim ≤ x) then
        match s.requestStep with
        | some k =>
          let s := s.event wardenSrc 0x3300 (u16 x ++ u32 k)
          if s.partner = 0xFFFF ∨ s.job.state = .fault then s else (s.sendAll wardenSrc 11 k []).noteRequest k
        | none => s.nextFree.event wardenSrc 0x3300 (u16 x ++ u32 (Config.freeNat s.free))
      else s)

end Sys2Proof.Machine
end

