-- ==== Sys2Proof/Machine/Firmware.lean ====
section
/-! DEFINITION. Firmware images, flash, the persistent store, what a restart keeps, stump mode (19, 20). -/

namespace Sys2Proof.Machine

/-! ### Flash (R545) -/

/-- Flash is written: `n` bytes, with nature's report. -/
def State.flashWrite (s : State) (r : FlashReport) (n : Nat) : State :=
  let b := s.bg
  let left := b.spares - r.retired
  let s := { s with bg := { b with spares := left, retired := b.retired + r.retired, highestErase := max b.highestErase r.erase,
                                   bytesWritten := b.bytesWritten + n } }
  let s := (List.range r.retired).foldl (fun s _ => s.event wardenSrc 0x8300) s
  if left < 64 ∧ !b.sparesLowRaised then { s with bg := { s.bg with sparesLowRaised := true } }.event wardenSrc 0x8302 else s

/-! ### Images (R518, R519) -/

def imgSize (i : Bytes) : Nat := fieldAt i 0x10 8
def imgVersion (i : Bytes) : Nat := fieldAt i 0x18 4
def imgSecurity (i : Bytes) : Nat := fieldAt i 0x1C 1
def imgStore (i : Bytes) : Nat := fieldAt i 0x24 2
/-- The formats that an image writes library slots and tables in. -/
def imgLibrary (i : Bytes) : Nat := fieldAt i 0x26 2
def imgTables (i : Bytes) : Nat := fieldAt i 0x28 2
def imgRootKey (i : Bytes) : Bytes := slice i 0x100 1952
/-- The header digest. -/
def headerDigest (i : Bytes) : Bytes := shake256 64 (i.take 0x1900)
/-- Component entry `n`, and its fields. -/
def imgEntry (i : Bytes) (n : Nat) : Bytes := slice i (0x900 + 128 * n) 128
def ceType (e : Bytes) : Nat := fieldAt e 0 2
def ceOffset (e : Bytes) : Nat := fieldAt e 8 8
def ceSize (e : Bytes) : Nat := fieldAt e 0x10 8
def ceDigest (e : Bytes) : Bytes := slice e 0x20 64
/-- The component entries in use. -/
def imgEntries (i : Bytes) : List Bytes := (List.range 8).map (imgEntry i)

/-- Reserved bytes of the header and of an entry. -/
def imgReservedOk (i : Bytes) : Bool :=
  zeroAt i 0x0C 4 && zeroAt i 0x1D 1 && zeroAt i 0x2A 0xD6 && zeroAt i 0x8A0 0x60 && zeroAt i 0x25ED 0x13 && zeroAt i 0xD00 0xC00
def ceReservedOk (e : Bytes) : Bool := zeroAt e 2 6 && zeroAt e 0x1C 4 && zeroAt e 0x60 32

/-- The first check of R519. -/
def imgHeaderOk (i : Bytes) : Bool :=
  let es := imgEntries i
  decide (slice i 0 8 = ascii "EDZFIRM1" ∧ fieldAt i 8 2 = 1 ∧ fieldAt i 0x0A 2 = 8 ∧ imgSize i ≤ 268435456 ∧ imgSize i = i.length)
    && imgReservedOk i && es.all ceReservedOk
    && es.all (fun e => decide (ceOffset e % 64 = 0 ∧ 0x2600 ≤ ceOffset e ∧ ceOffset e + ceSize e ≤ imgSize i))
    && allApart (es.map fun e => (ceOffset e, ceSize e))

/-- The last check of R519: `all` components, or the warden firmware alone. -/
def imgComponentsOk (i : Bytes) (all : Bool) : Bool :=
  let es := imgEntries i
  decide ((es.map ceType).mergeSort = (List.range 8).map (· + 1))
    && es.all fun e => (!all && ceType e != 1) || shake256 64 (slice i (ceOffset e) (ceSize e)) == ceDigest e

/-- The result of verifying an image: 0, or the `FW_RESULT` of the first failure. -/
def State.verifyImage (s : State) (i : Bytes) (all : Bool) : Nat :=
  if !imgHeaderOk i then 3
  else if fieldAt i 0x20 4 ≠ partCode ∨ stepping < fieldAt i 0x1E 2 then 4
  else if shake256 32 (imgRootKey i) ≠ Config.rootKeyDigest then 5
  else if imgSecurity i < s.start.security then 6
  else if !Config.mlDsaVerify (imgRootKey i) (ascii "EDZ-FIRMWARE-1") (i.take 0x1900) (slice i 0x1900 3309) then 7
  else if !imgComponentsOk i all then 8
  else 0

/-! ### Slots (R516) -/

def State.fwSlot (s : State) (n : Nat) : FwSlot := s.start.slots.getD n {}
def State.modFwSlot (s : State) (n : Nat) (f : FwSlot → FwSlot) : State := { s with start := { s.start with slots := listUpd s.start.slots n f } }
/-- The number of the slot booted, and of the other one. -/
def State.booted (s : State) : Nat := if s.start.bootB then 1 else 0
def State.otherSlot (s : State) : Nat := 1 - s.booted
/-- The booted slot is `TRIAL`. -/
def State.onTrial (s : State) : Bool := decide ((s.fwSlot s.booted).state = 1)

/-! ### Formats of the plan library and the table store (R526)

An entry is named by its library slot, or by 64 + its table. -/

/-- The format in which the firmware of slot `n` writes entry `e`. -/
def State.entryFormat (s : State) (n e : Nat) : Nat := let i := (s.fwSlot n).image; if e < 64 then imgLibrary i else imgTables i
/-- The formats in which an entry is written now: the booted firmware's, and on trial that of the `ACTIVE` slot's image too. -/
def State.formatsNow (s : State) (e : Nat) : List Nat :=
  s.entryFormat s.booted e :: if s.onTrial && decide ((s.fwSlot s.otherSlot).state = 2) then [s.entryFormat s.otherSlot e] else []
/-- How many copies of an entry flash holds. -/
def State.copies (s : State) (e : Nat) : Nat := max 1 (sget [] s.start.formats e).length
/-- Entry `e` is written, in these formats, or erased. -/
def State.setFormats (s : State) (e : Nat) (fs : List Nat) : State :=
  { s with start := { s.start with formats := sset [] s.start.formats e fs, unread := s.start.unread.filter fun x => decide (x.1 ≠ e) } }
/-- The booted firmware reads an entry: it reads every format up to its own. -/
def State.readable (s : State) (e : Nat) : Bool :=
  let fs := sget [] s.start.formats e
  fs.isEmpty || fs.any fun f => decide (f ≤ s.entryFormat s.booted e)

/-! ### Persistent values (R424, R425, R525, R526) -/

/-- The objects of key `k`. -/
def keyObj (k : Nat) : Option Obj := objAt (k / 256) (k % 256)
/-- A key of the persistent store: the tables of R527 have a store of their own. -/
def keyPersists (k : Nat) : Bool := match keyObj k with | some o => o.persistent && decide (k / 256 ≠ 0xB040) | none => false
/-- A key of the protected set: the commissioning set, and group 0x1020. -/
def keyProtected (k : Nat) : Bool := match keyObj k with | some o => o.commissioning || decide (k / 256 = 0x1020) | none => false
def keyStaged (k : Nat) : Bool := match keyObj k with | some o => o.access == .rws | none => false
/-- The tables of the table store. -/
def tablesOf (rw : List (Nat × Bytes)) : List (Nat × Bytes) := rw.filter fun e => e.1 / 256 = 0xB040

/-- The library and the table store are indexed (R512, R526): an entry that flash holds in newer formats alone counts as empty. -/
def State.indexFlash (s : State) : State :=
  let tables := (tablesOf s.tally.rw).map fun e => (63 + e.1 % 256, e.2)
  let all := s.host.library ++ tables ++ s.start.unread
  let seen := all.filter fun e => s.readable e.1
  { s with host := { s.host with library := (seen.filter fun e => decide (e.1 < 64)).foldl (fun m e => sset [] m e.1 e.2) [] },
           tally := { s.tally with rw := ((seen.filter fun e => decide (64 ≤ e.1)).map fun e => (objKey 0xB040 (e.1 - 63), e.2))
                        ++ s.tally.rw.filter fun e => decide (e.1 / 256 ≠ 0xB040) },
           start := { s.start with unread := all.filter fun e => !s.readable e.1 } }

/-- Values restored from a list of keys: RW values, and active values. -/
def State.restoreValues (s : State) (rw active : List (Nat × Bytes)) : State :=
  { s with tally := { s.tally with rw := tablesOf s.tally.rw ++ rw, active := active, shadow := [], written := [] } }
/-- Factory defaults, with the protected set written back. -/
def State.factoryDefaults (s : State) : State :=
  { s.restoreValues (s.start.protectedSet.filter fun e => !keyStaged e.1) (s.start.protectedSet.filter fun e => keyStaged e.1) with
    log := { s.log with history := [] } }

/-- The valid copy of the store with the higher counter, by its number. -/
def newestCopy (cs : List StoreCopy) : Option Nat :=
  match cs with
  | [a, b] => if a.valid && (!b.valid || decide (b.counter ≤ a.counter)) then some 0 else if b.valid then some 1 else none
  | _ => none

/-- Write the present persistent values to the copy that is not the newest, in version `v`. -/
def State.storeValues (s : State) (v : Nat) : State :=
  let cs := s.start.stores
  let k := newestCopy cs
  let n := match k with | some 0 => 1 | _ => 0
  let c := match k with | some i => (cs.getD i {}).counter + 1 | none => 1
  let rw := s.tally.rw.filter fun e => keyPersists e.1
  let act := s.tally.active.filter fun e => keyPersists e.1
  { s with start := { s.start with
      stores := listUpd cs n fun _ => { valid := true, version := v, counter := c, rw := rw, active := act },
      protectedSet := (s.tally.rw ++ s.tally.active).filter fun e => keyProtected e.1,
      dirty := [] } }

/-! ### What a restart keeps (R297, R512, R515, R520) -/

/-- The instances at step 1 of the clock order (R499): WARDEN and CFG on the bypass, the others stopped, no PLL locked. -/
def bootClocks : List (Nat × ClkInst) :=
  (List.range clkInstances).map fun i => (i, { source := if i = 52 ∨ i = 53 then 2 else 3, lockA := false })
/-- The instances in stump mode (R528): WARDEN and the FABRIC instances of S0 and E on PLL A, CFG on the bypass, the others stopped. -/
def stumpClocks : List (Nat × ClkInst) :=
  (List.range clkInstances).map fun i =>
    (i, if i = 52 ∨ i = 8 ∨ i = 54 then ({} : ClkInst) else { source := if i = 53 then 2 else 3, lockA := false })
/-- The module as start-up finds it: flash, fuses, straps, the supplies and the model's own records stay; everything else is
as at reset. -/
def State.restarted (s : State) (stage cause : Nat) (powered : Bool) : State :=
  { State.reset with
    start := { s.start with
      stage := stage, stageBegan := 0, began := 0, timeMs := 0, cause := cause, stump := none, powered := powered, installing := false,
      result := 0, found := [], measured := [], report := [], dirty := [], wardenHeld := false, storeReset := false, tamperSeen := false,
      cardChanged := false },
    log := { history := s.log.history },
    bg := { spares := s.bg.spares, retired := s.bg.retired, highestErase := s.bg.highestErase, bytesWritten := s.bg.bytesWritten },
    host := { library := s.host.library, nextNonce := s.host.nextNonce, nextSession := s.host.nextSession, nextFlow := s.host.nextFlow },
    tally := { rw := tablesOf s.tally.rw, pendingApply := s.tally.pendingApply.filter fun a => a.group = 0x4050 },
    power := { inst := bootClocks, main := s.power.main, backup := s.power.backup,
               feed := if decide (s.power.main < 40000 ∧ 40000 ≤ s.power.backup) then 1 else 0 },
    spine := smap {} (fun d : Spine => { lanes := d.lanes }) s.spine,
    out := s.out, free := s.free, pending := s.pending }

/-! ### Stump mode (R528 to R530) -/

/-- Write an image to a slot and mark it `TRIAL`. -/
def State.putTrial (s : State) (n : Nat) (img : Bytes) : State := s.modFwSlot n fun _ => { state := 1, trials := 0, image := img }

/-- The slot that the card's image goes to in stump mode: the one that is not `ACTIVE`, or A where neither is. -/
def State.stumpSlot (s : State) : Nat := if (s.fwSlot 0).state = 2 then 1 else 0

/-- After a slot has been written in stump mode, the ROM starts again at stage 1 while STUMP_N is high. -/
def State.romAgain (s : State) : State := if s.start.stumpN then s.restarted 1 3 true else s

/-- The ROM reads the card: a good image that neither slot holds is written and tried. -/
def State.stumpCard (s : State) : State :=
  let img := s.start.cardFile
  if s.start.card ≠ 1 ∨ img = [] ∨ s.verifyImage img true ≠ 0 then s
  else if (s.start.slots.any fun x => headerDigest x.image == headerDigest img) = true then s
  else ((s.putTrial s.stumpSlot img).flashWrite {} img.length).romAgain

/-- Stump mode is entered. The causes' numbers are the model's: 0 STUMP_N is low, 1 the slot that SLOTSEL names fails, 2 no slot
verifies, 3 a ROM test fails, 4 the life-cycle state is not FIELD. `STUMP_ENTERED` is the first record of the start: DESIGN CHOICE (log 72), a
record that the start wrote before is not kept. -/
def State.enterStump (s : State) (cause : Nat) : State :=
  let s := { s.factoryDefaults with log := { history := s.log.history }, power := { s.power with inst := stumpClocks } }.setCount kEventRecords 0
  ({ s with start := { s.start with stump := some cause } }.event wardenSrc 0x8001 (u8 cause)).stumpCard

end Sys2Proof.Machine
end

