-- ==== Sys2Proof/Machine/Media.lean ====
section
/-! DEFINITION. What the bucking dies make of a sample once its standard has been followed: the drops of a decode, the inverse DCT
of JPEG, chroma upsampling, colour, resizing, output forms, channels, resampling, positions, tokens (R304, R312 to R316, R322).
What the standards of R307 say of a payload is `Config.parse`. -/

namespace Sys2Proof.Machine

/-- ⌈a / b⌉. -/
def ceilDiv (a b : Nat) : Nat := (a + b - 1) / b
/-- A value within 0 to `m`. -/
def clampTo (m : Nat) (x : Int) : Nat := (max 0 (min (m : Int) x)).toNat
/-- Entry `i` of row `j`; 0 where there is none: what is missing of a truncated sample is zero (R313). -/
def cell (rows : List (List Nat)) (j i : Nat) : Nat := (rows.getD j []).getD i 0

/-! ### JPEG (R304) -/

/-- cos(kπ/16) scaled by 2^20 and rounded to nearest. -/
def cos20 (k : Nat) : Int :=
  let quarter : List Int := [1048576, 1028428, 968758, 871859, 741455, 582558, 401273, 204567, 0]
  let m := k % 32
  let n := if m ≤ 16 then m else 32 - m
  if n ≤ 8 then quarter.getD n 0 else -(quarter.getD (16 - n) 0)
/-- The scaled constant of frequency `u` at place `x`; C(0) is cos(π/4). -/
def dct20 (u x : Nat) : Int := if u = 0 then cos20 4 else cos20 ((2 * x + 1) * u)
/-- Sample (x, y) of the inverse DCT of an 8 × 8 block of dequantised coefficients, rounded once to the sample grid (R304; the
folding of C(u) into the constants is a DESIGN CHOICE, log 109). -/
def idct (block : List Int) (x y : Nat) : Nat :=
  let sum := ((List.range 8).flatMap fun v => (List.range 8).map fun u => dct20 u x * dct20 v y * block.getD (8 * v + u) 0).sum
  clampTo 255 (rneInt ((sum : ℚ) / (4 * 2 ^ 40 : Nat)) + 128)
/-- A component of a JPEG image: `n` blocks to a row. -/
def jpegPlane (w h : Nat) (c : Nat × List (List Int)) : List (List Nat) :=
  (List.range h).map fun y => (List.range w).map fun x => idct (c.2.getD (y / 8 * c.1 + x / 8) []) (x % 8) (y % 8)

/-! ### The pictures of a sample (R312 to R314) -/

/-- The picture with number `i`: of a JPEG, from its coefficients; all zero where the payload ended before it (R313). -/
def Parsed.picture (p : Parsed) (i : Nat) : Picture :=
  match p.blocks with
  | [] => p.pictures.getD i ⟨[], [], []⟩
  | y :: cs =>
    let w := ceilDiv p.width (2 ^ p.subX)
    let h := ceilDiv p.height (2 ^ p.subY)
    ⟨jpegPlane p.width p.height y, (cs.head?.map (jpegPlane w h)).getD [], ((cs.drop 1).head?.map (jpegPlane w h)).getD []⟩

/-- The chroma value at luma place `x` of `n` chroma samples along one axis: the lower sample, and the weight of the next one, for
samples at every place, or at every second one that lie on a luma sample or between two (R314 step 2). -/
def chromaAt (sub : Nat) (onLuma : Bool) (x : Nat) : Int × ℚ :=
  if sub = 0 then (x, 0)
  else
    let c : ℚ := if onLuma then (x : ℚ) / 2 else (x : ℚ) / 2 - 1 / 4
    (c.floor, c - c.floor)
/-- Bilinear interpolation of a plane of `w` × `h` samples, whose edge samples extend outward. -/
def bilinearAt (w h : Nat) (f : Nat → Nat → ℚ) (x y : Int × ℚ) : ℚ :=
  let col (k : Int) := clampTo (w - 1) k
  let row (k : Int) := clampTo (h - 1) k
  (1 - x.2) * (1 - y.2) * f (row y.1) (col x.1) + x.2 * (1 - y.2) * f (row y.1) (col (x.1 + 1))
    + (1 - x.2) * y.2 * f (row (y.1 + 1)) (col x.1) + x.2 * y.2 * f (row (y.1 + 1)) (col (x.1 + 1))
/-- Chroma at a luma place; the middle of the range where there is none. -/
def Parsed.chroma (p : Parsed) (plane : List (List Nat)) (x y : Nat) : ℚ :=
  if p.mono then (2 ^ (p.depth - 1) : Nat)
  else bilinearAt (ceilDiv p.width (2 ^ p.subX)) (ceilDiv p.height (2 ^ p.subY)) (fun j i => cell plane j i)
    (chromaAt p.subX p.onLumaX x) (chromaAt p.subY p.onLumaY y)

/-- The weights Kr and Kb of a colour matrix: 0 BT.601, 1 BT.709, 2 BT.2020 (PRESUMED, log 110: the standards' values). -/
def kr (m : Nat) : ℚ := match m with | 0 => 299 / 1000 | 1 => 2126 / 10000 | _ => 2627 / 10000
def kb (m : Nat) : ℚ := match m with | 0 => 114 / 1000 | 1 => 722 / 10000 | _ => 593 / 10000
/-- A constant with 16 fraction bits. -/
def fix16 (v : ℚ) : ℚ := (rneInt (v * 65536) : ℚ) / 65536

/-- R, G, B of one place from Y, Cb, Cr at depth `b`, full or limited range, rounded once to the depth (R314 step 3). -/
def toRgb (m : Nat) (full : Bool) (b : Nat) (y cb cr : ℚ) : Nat × Nat × Nat :=
  let top : ℚ := (2 ^ b - 1 : Nat)
  let unit : ℚ := (2 ^ (b - 8) : Nat)
  let sy := if full then 1 else top / (219 * unit)
  let sc := if full then 1 else top / (224 * unit)
  let y := fix16 sy * (y - if full then 0 else 16 * unit)
  let u := cb - (2 ^ (b - 1) : Nat)
  let v := cr - (2 ^ (b - 1) : Nat)
  let kg := 1 - kr m - kb m
  let out (x : ℚ) := clampTo (2 ^ b - 1) (rneInt x)
  (out (y + fix16 (2 * (1 - kr m) * sc) * v),
   out (y - fix16 (2 * kb m * (1 - kb m) / kg * sc) * u - fix16 (2 * kr m * (1 - kr m) / kg * sc) * v),
   out (y + fix16 (2 * (1 - kb m) * sc) * u))

/-- The matrix and range that `BJ_COLOUR` names, or that the bitstream signals, or of a bitstream that signals none. -/
def Parsed.colour (p : Parsed) (choice : Nat) (jpeg : Bool) : Nat × Bool :=
  match choice with
  | 1 => (0, true)
  | 2 => (1, false)
  | 3 => (2, false)
  | _ => p.signalled.getD (if jpeg then (0, true) else (1, false))

/-- Channel `c` of a converted picture, by row and column. -/
def Parsed.rgb (p : Parsed) (choice : Nat) (jpeg : Bool) (q : Picture) (c j i : Nat) : Nat :=
  let (m, full) := p.colour choice jpeg
  let x := toRgb m full p.depth (cell q.y j i) (p.chroma q.cb i j) (p.chroma q.cr i j)
  match c with | 0 => x.1 | 1 => x.2.1 | _ => x.2.2

/-- The source place of output place `x` under half-pixel centres, its weight in 16 fraction bits. -/
def halfPixel (n out x : Nat) : Int × ℚ :=
  let c : ℚ := (2 * x + 1 : Nat) * (n : ℚ) / (2 * out : Nat) - 1 / 2
  (c.floor, fix16 (c - c.floor))
/-- The weight of source sample `i` in the area of output place `x`, in 16 fraction bits. -/
def areaWeight (n out x i : Nat) : ℚ :=
  let lo := max ((x : ℚ) * n / out) i
  let hi := min (((x + 1 : Nat) : ℚ) * n / out) (i + 1 : Nat)
  if lo < hi then fix16 ((hi - lo) * out / n) else 0
/-- One output value of a resize: 0 none, 1 bilinear, 2 area average; rounded once (R314 step 4). -/
def resized (kind w h ow oh : Nat) (f : Nat → Nat → Nat) (j i : Nat) : Nat :=
  match kind with
  | 0 => f j i
  | 1 => (rneInt (bilinearAt w h (fun j i => f j i) (halfPixel w ow i) (halfPixel h oh j))).toNat
  | _ => (rneInt (((List.range h).flatMap fun y => (List.range w).map fun x =>
      areaWeight h oh j y * areaWeight w ow i x * (f y x : ℚ)).sum)).toNat

/-- The bytes of an output value of channel `c` at depth `b`: U8, or BF16 with the mean and the inverse deviation of the channel
(R314 step 5). -/
def outputForm (form b : Nat) (norm : Bytes) (c x : Nat) : Bytes :=
  if form = 0 then leBytes 1 (if b = 8 then x else clampTo 255 (rneInt ((x : ℚ) / (2 ^ (b - 8) : Nat))))
  else
    let v := ((x : ℚ) / (2 ^ b - 1 : Nat) - elemVal0 fBF16 (fieldAt norm (2 * c) 2)) * elemVal0 fBF16 (fieldAt norm (6 + 2 * c) 2)
    leBytes 2 (roundTo fBF16 false v).code

/-- What a stream's descriptor says of pictures: `BJ_OUT_W`, `BJ_OUT_H`, `BJ_OUT_FORM`, `BJ_COLOUR`, `BJ_RESIZE`, `BJ_NORM`. -/
structure PictureForm where
  w : Nat
  h : Nat
  form : Nat
  colour : Nat
  resize : Nat
  norm : Bytes
/-- One position: picture `n` of a sample, pixel-interleaved R, G, B (R314). -/
def Parsed.position (p : Parsed) (o : PictureForm) (jpeg : Bool) (n : Nat) : Bytes :=
  let q := p.picture n
  (List.range o.h).flatMap fun j => (List.range o.w).flatMap fun i => (List.range 3).flatMap fun c =>
    outputForm o.form p.depth o.norm c (resized o.resize p.width p.height o.w o.h (p.rgb o.colour jpeg q c) j i)

/-! ### Audio (R315, R316) -/

/-- Samples of a channel with every non-finite one made zero, and their number over all channels (R316). -/
def finite32 (l : List Nat) : List Nat := l.map fun c => if nonFinite fFP32 c then 0 else c
def Parsed.badSamples (p : Parsed) : Nat := ((p.audio.map fun l => (l.filter fun c => nonFinite fFP32 c).length)).sum
/-- The sample at place `i` after channel selection: one channel, or the exact mean of all (R315 step 1). -/
def Parsed.selected (p : Parsed) (channel : Nat) (i : Nat) : ℚ :=
  let at_ (l : List Nat) : ℚ := elemVal0 fFP32 ((finite32 l).getD i 0)
  if channel = 0xFFFF then ((p.audio.map at_).sum) / (p.channels : ℚ) else at_ (p.audio.getD channel [])
/-- Output sample `n` at rate `out` of a signal of `len` samples at rate `rate`, by the 32 taps of its phase, accumulated exactly and
rounded once to FP32 (R315 step 2). The tap that lies on the output's own place is the sixteenth (DESIGN CHOICE, log 109). -/
def resampled (table : Bytes) (rate out len : Nat) (f : Nat → ℚ) (n : Nat) : Nat :=
  let g := Nat.gcd rate out
  let t := n * (rate / g)
  let x (k : Nat) : ℚ := if t / (out / g) + k < 15 ∨ len ≤ t / (out / g) + k - 15 then 0 else f (t / (out / g) + k - 15)
  f32Code (((List.range 32).map fun k => elemVal0 fFP32 (Config.filterTap table (t % (out / g)) k) * x k).sum)
/-- The resampled samples of a sample. -/
def Parsed.samples (p : Parsed) (table : Bytes) (channel out len : Nat) : List Nat :=
  (List.range (ceilDiv (len * out) p.rate)).map (resampled table p.rate out len (p.selected channel))

/-! ### Text (R322) -/

/-- The least rank of a pair of neighbours that the merge table joins. -/
def bestRank (table : Bytes) : List Nat → Option Nat
  | a :: b :: l =>
    match Config.mergePair table a b, bestRank table (b :: l) with
    | some (r, _), some q => some (min r q)
    | some (r, _), none => some r
    | none, o => o
  | _ => none
/-- The first pair of that rank is joined. -/
def joinFirst (table : Bytes) (r : Nat) : List Nat → List Nat
  | a :: b :: l =>
    match Config.mergePair table a b with
    | some (q, t) => if q = r then t :: l else a :: joinFirst table r (b :: l)
    | none => a :: joinFirst table r (b :: l)
  | l => l
/-- Byte-level BPE: pairs are joined, the least rank first and of equals the leftmost, until none can be; each step shortens the
list, so its length bounds the steps. -/
def bpe (table : Bytes) : Nat → List Nat → List Nat
  | 0, ts => ts
  | n + 1, ts => match bestRank table ts with | none => ts | some r => bpe table n (joinFirst table r ts)
/-- The tokens of a text: each byte is a token (R322). -/
def tokensOf (table payload : Bytes) : List Nat := bpe table payload.length (payload.map (Config.byteToken table))

end Sys2Proof.Machine
end

