-- ==== Sys2Proof/Machine/Ingest.lean ====
section
/-! DEFINITION. Sample ingest: the checks of a sample, decoding, stems, rows, admission and receipts (12). -/

namespace Sys2Proof.Machine

/-! ### The sample header (R305) -/

def smId (h : Bytes) : Nat := fieldAt h 0 8
def smFormat (h : Bytes) : Nat := fieldAt h 9 1
def smStream (h : Bytes) : Nat := fieldAt h 0x0A 1
def smDepth (h : Bytes) : Nat := fieldAt h 0x0B 1
def smBytes (h : Bytes) : Nat := fieldAt h 0x0C 4
def smStep (h : Bytes) : Nat := fieldAt h 0x10 8
def smDim (h : Bytes) (n : Nat) : Nat := fieldAt h (0x18 + 4 * n) 4
def smBoxes (h : Bytes) : Nat := fieldAt h 0x24 4
def smCrcOk (h : Bytes) : Bool := (crc32c (h.take 0x3C)).toNat == fieldAt h 0x3C 4
/-- Bytes of a sample on the wire: header, payload, boxes. -/
def smSize (h : Bytes) : Nat := 64 + smBytes h + 20 * smBoxes h

/-- The engine class of a format: 0 video, 1 audio, 2 text, 3 delivered in decoded form. -/
def smClass (h : Bytes) : Nat := if smFormat h ≤ 3 then 0 else if smFormat h ≤ 7 then 1 else if smFormat h = 8 then 2 else 3
/-- Contexts, and engines, of a class (R302). -/
def classContexts : Nat → Nat
  | 0 => 48 | 1 => 16 | 2 => 8 | _ => 0
def classEngines : Nat → Nat
  | 0 => 6 | 1 => 2 | _ => 1

/-! ### Descriptors (R332 to R335) -/

def State.ingestDesc (s : State) (i : Nat) : Option Bytes := s.job.plan.bind fun p => p.ingest[i]?
/-- The descriptor of a stream. -/
def State.streamDesc (s : State) (n : Nat) : Option Bytes := s.job.plan.bind fun p => p.ingest.find? fun d => decide (bjType d = 2 ∧ bjStream d = n)
/-- The descriptor of a stand. -/
def State.standDesc (s : State) (st : Nat) : Option Bytes := s.job.plan.bind fun p => p.ingest.find? fun d => decide (bjType d = 1 ∧ bjStand d = st)
def State.ringBytes (s : State) (st : Nat) : Nat := match s.standDesc st with | some d => fieldAt d 0x10 8 | none => 0
def State.poolBytes (s : State) (st : Nat) : Nat := match s.standDesc st with | some d => fieldAt d 0x20 8 | none => 0
/-- The row geometry of a stream; all zeros where it has none. -/
def State.rowGeom (s : State) (d : Bytes) : Bytes := (s.ingestDesc (bjRows d)).getD []
/-- The conv geometry of a stream's stem. -/
def State.stemGeom (s : State) (d : Bytes) : Option Bytes :=
  if bjStem d = 0xFFFF then none
  else (s.ingestDesc (bjStem d)).bind fun x => s.job.plan.bind fun p => p.dma[fieldAt x 4 4]?
/-- D: bytes of a position before any stem (R327). -/
def State.decodedPos (s : State) (d : Bytes) : Nat := match s.stemGeom d with | some g => stemIn g | none => rwPos (s.rowGeom d)

/-! ### The claim (R307 to R310) -/

/-- The claimed frames: a JPEG counts as one. -/
def smFrames (h : Bytes) : Nat := if smFormat h = 0 then 1 else smDim h 2

/-- The claimed output positions (R310). -/
def claimPositions (d h : Bytes) : Nat :=
  match smClass h with
  | 0 => ceilDiv (smFrames h) (bjFrameStep d)
  | 1 =>
    let n := ceilDiv (smDim h 0 * bjRate d) (smDim h 2)
    if bjMel d = 0 then ceilDiv n (bjOutH d) else if bjWin d ≤ n then (n - bjWin d) / bjHop d + 1 else 0
  | 2 => smBytes h + 2
  | _ => smDim h 0

/-- S: the claimed decoded bytes (R309). -/
def claimDecoded (h : Bytes) : Nat :=
  match smClass h with
  | 0 => smDim h 0 * smDim h 1 * smFrames h * (if smDepth h = 10 then 6 else 3)
  | 1 => smDim h 0 * smDim h 1 * 4
  | 2 => 4 * (smBytes h + 2)
  | _ => smBytes h

/-- The claimed dimensions that the format uses. -/
def usedDims (h : Bytes) : List Nat :=
  match smClass h with
  | 0 => if smFormat h = 0 then [smDim h 0, smDim h 1] else [smDim h 0, smDim h 1, smDim h 2]
  | 1 => [smDim h 0, smDim h 1, smDim h 2]
  | _ => [smDim h 0]

/-- Every claimed dimension lies within its format's limit (R307). -/
def dimsInLimit (h : Bytes) : Bool :=
  let a := smDim h 0
  let b := smDim h 1
  let c := smDim h 2
  let audio := decide (a ≤ 2 ^ 26 ∧ 1 ≤ b ∧ b ≤ 8)
  match smFormat h with
  | 0 => decide (a ≤ 8192 ∧ b ≤ 8192)
  | 1 | 2 | 3 => decide (a ≤ 4096 ∧ b ≤ 2304 ∧ c ≤ 4096)
  | 4 => audio && decide (8000 ≤ c ∧ c ≤ 96000)
  | 5 => audio
  | 6 | 7 => audio && decide (8000 ≤ c ∧ c ≤ 192000)
  | 8 => decide (a ≤ 4194304)
  | _ => decide (a ≤ 65535)

/-- O: the claimed output bytes (R309). -/
def State.claimOutput (s : State) (d h : Bytes) : Nat := claimPositions d h * rwPos (s.rowGeom d)

/-- The segment lengths of a format 10 payload (R327). -/
def packedLengths (payload : Bytes) : List Nat :=
  let n := fieldAt payload 0 4
  if payload.length < 4 + 4 * n then [] else (List.range n).map fun i => fieldAt payload (4 + 4 * i) 4

/-- The header check (R308 step 1). -/
def headerBadSample (h : Bytes) : Bool :=
  !smCrcOk h || !zeroAt h 0x28 20 || !(smDepth h == 0 || (smDepth h == 10 && (smFormat h == 2 || smFormat h == 3))) || decide (4096 < smBoxes h)

/-- What a sample of formats 9 or 10 delivers differs from its claim (R327). -/
def State.deliveryBad (s : State) (d h payload : Bytes) : Bool :=
  match smFormat h with
  | 9 => smBytes h != smDim h 0 * s.decodedPos d
  | 10 => (packedLengths payload).sum != smDim h 0 || smBytes h != 4 + 4 * fieldAt payload 0 4 + 4 * smDim h 0
  | _ => false

/-- The first check that a sample received whole by stand `st` fails, as the reason of its drop; 0 where it passes (R308,
R327, R421). -/
def State.arrivalReason (s : State) (st : Nat) (h payload : Bytes) : Nat :=
  if headerBadSample h then 1
  else match s.streamDesc (smStream h) with
    | none => 2
    | some d =>
      let pos := claimPositions d h
      let o := s.claimOutput d h
      if bjStand d ≠ st ∨ fieldAt h 8 1 ≠ bjBranch d then 2
      else if (bjFormats d / 2 ^ smFormat h) % 2 = 0 then 3
      else if smBytes h = 0 ∨ (usedDims h).contains 0 ∨ pos = 0 then 4
      else if !dimsInLimit h || decide (bjCeiling d < o) || decide (s.active 0x5000 3 2048 * smBytes h < claimDecoded h) then 5
      else if s.deliveryBad d h payload then 8
      else 0

/-! ### Stands -/

def State.stand (s : State) (st : Nat) : Stand := sget {} s.ingest.stands st
def State.modStand (s : State) (st : Nat) (f : Stand → Stand) : State :=
  { s with ingest := { s.ingest with stands := supd {} s.ingest.stands st f } }
def Stand.sample (x : Stand) (a : Nat) : Option Sample := x.samples.find? fun e => e.arrival = a
def Stand.modSample (x : Stand) (a : Nat) (f : Sample → Sample) : Stand :=
  { x with samples := x.samples.map fun e => if e.arrival = a then f e else e }
/-- The admission step of a sample (R319). -/
def Sample.step (e : Sample) : Nat := smStep e.header + e.carries
/-- The source of ingest events (R340). -/
def bkSrc (st : Nat) : Nat := dieSrc (84 + st)
/-- Registers of R338. -/
def kBkDone (st : Nat) : Nat := regBase (84 + st) + 0x08
def kBkCycles (st : Nat) : Nat := regBase (84 + st) + 0x10
def kBkRows (st : Nat) : Nat := regBase (84 + st) + 0x18
/-- `STREAM_COUNTS` of a stream: 0 received, 1 admitted, 2 carries, 3 dropped. -/
def kStream (n i : Nat) : Nat := 2 ^ 50 + 4 * n + i
/-- `DROP_COUNTS`, `BOXES_CLIPPED`, `TRUNCATED_ZERO_FILLED`. -/
def kDrop (reason : Nat) : Nat := objKey 0x5030 reason
def kBoxesClipped : Nat := objKey 0x5031 0
def kZeroFilled : Nat := objKey 0x5032 0
/-- An event of stand `st` raised once in a step; `n` names it: the reason of a drop, 0x20 `BOX_CLIP`, 0x21
`DECODE_POOL_FULL`, 0x22 `INGEST_RING_FULL`. -/
def State.ingestOnce (s : State) (st n code : Nat) (detail : Bytes) : State :=
  s.eventOnce (0x400000 + 256 * st + n) s.stepKey (bkSrc st) code detail

/-- Count for a stream. -/
def State.bumpStream (s : State) (n i : Nat) : State := if n < 64 then s.bump (kStream n i) 1 else s
/-- A sample is dropped: its final receipt, its counts, the first of its reason in the step (R331). -/
def State.dropReceipt (s : State) (st : Nat) (h : Bytes) (carries reason : Nat) : State :=
  let s := s.receipt st { kind := 2, reason := reason, id := smId h, step := smStep h + carries, carries := carries, stream := smStream h }
  let s := ((s.bump (kDrop reason) 1).bump (kBkDone st) 1).bumpStream (smStream h) 3
  s.ingestOnce st reason 0x4000 (u8 reason ++ u32 (smId h))

/-- A context is free again, the newest of those freed. -/
def Stand.release (x : Stand) (ctx : Option Nat) : Stand := match ctx with | some c => { x with freed := x.freed ++ [c] } | none => x
/-- A sample that the stand holds is dropped (R312). -/
def State.dropSample (s : State) (st reason : Nat) (e : Sample) : State :=
  (s.modStand st fun x => { x with samples := x.samples.filter fun y => decide (y.arrival ≠ e.arrival) }.release e.ctx).dropReceipt st e.header
    e.carries reason

/-! ### Ring and pool (R306, R421) -/

/-- Free ring bytes: a sample holds its bytes until its decode ends. -/
def State.ringFree (s : State) (st : Nat) : Nat :=
  s.ringBytes st - (((s.stand st).samples.filter fun e => decide (e.state = .queued ∨ e.state = .decoding)).map fun e => smSize e.header).sum
/-- Free pool bytes: an output holds its bytes until its row is written. -/
def State.poolFree (s : State) (st : Nat) : Nat :=
  s.poolBytes st - (((s.stand st).samples.filter fun e => decide (e.state = .ready ∨ e.state = .complete ∨ e.state = .placed)).map
    fun e => e.output.length).sum

/-- The ingest flow of a stand. -/
def State.ingestFlow (s : State) (st : Nat) : Option Flow := s.host.flows.find? fun f => decide (f.channel = 0 ∧ f.sub = st)
/-- The window of an ingest flow, in blocks. -/
def State.ingestGrant (s : State) (f : Flow) : Nat := min 4096 ((s.ringFree f.sub - f.data.length) / 8192)
/-- Send an `ACK` that grants `n` blocks (R419). -/
def State.sendAck (s : State) (f : Flow) (n : Nat) : State :=
  (s.modFlow f.id fun f => { f with window := f.next + n, sinceAck := 0, lastAck := s.time.cycles }).sendHost (.bulk f.id 3 f.channel f.next n [])
/-- An `ACK` opens a window that was closed. -/
def State.reopenWindow (s : State) (st : Nat) : State :=
  match s.ingestFlow st with
  | some f => let n := s.ingestGrant f; if f.window ≤ f.next ∧ 0 < n then s.sendAck f n else s
  | none => s

/-! ### Which steps a sample can still reach (R320, R330) -/

/-- The first step whose deadline has not passed; the steps before `COMMAND_STEP` never begin, and count as passed. -/
def State.firstOpen (s : State) : Nat := if s.ingest.ingestStep = 2 ^ 64 - 1 then s.job.startStep else s.ingest.ingestStep + 1
/-- The carries of a sample that arrives, or waits, with its step behind. -/
def State.carriesOf (s : State) (h : Bytes) : Nat :=
  if s.job.state = .loaded ∨ s.job.state = .empty then 0 else s.firstOpen - smStep h
/-- Step `k` will not begin because the job stops (R64). -/
def State.neverBegins (s : State) (k : Nat) : Bool :=
  (s.job.stopping || decide (s.job.state = .stopped)) && (match s.job.begun with | some b => decide (b < k) | none => true)
def State.carryLimit (s : State) : Nat := s.active 0x5000 2 2

/-- A sample received whole is checked and queued, or dropped. -/
def State.arrive (s : State) (st : Nat) (h payload boxes : Bytes) : State :=
  let s := s.bumpStream (smStream h) 0
  let r := s.arrivalReason st h payload
  let c := s.carriesOf h
  if r ≠ 0 then s.dropReceipt st h 0 r
  else if s.carryLimit < c then s.dropReceipt st h c 12
  else if s.neverBegins (smStep h + c) then s.dropReceipt st h c 13
  else s.modStand st fun x =>
    { x with nextArrival := x.nextArrival + 1, samples := x.samples ++ [{ arrival := x.nextArrival, header := h, payload := payload, boxes := boxes, carries := c }] }

/-- Take every sample whose bytes have all arrived in order (R421); none in the fault state (R337). -/
def State.takeSamples (s : State) (st : Nat) : Nat → State
  | 0 => s
  | fuel + 1 =>
    match s.ingestFlow st with
    | none => s
    | some f =>
      let h := f.data.take 64
      if f.data.length < 64 then s
      else if !smCrcOk h then ((s.bumpStream (smStream h) 0).dropReceipt st h 0 1).closeWith f abFraming
      else if f.data.length < smSize h then s
      else
        let rest := f.data.drop 64
        let s := s.modFlow f.id fun f => { f with data := f.data.drop (smSize h) }
        (s.arrive st h (rest.take (smBytes h)) ((rest.drop (smBytes h)).take (20 * smBoxes h))).takeSamples st fuel

/-- A context whose output waits gets pool space that is free. -/
def State.fillPool (s : State) (st : Nat) : State :=
  ((s.stand st).samples.filter fun e => e.state = .waitPool).foldl (fun s e =>
    if e.output.length ≤ s.poolFree st then s.modStand st fun x => x.modSample e.arrival fun e => { e with state := .ready } else s) s

/-- The ring cannot take the next sample: the bytes its header names, or, before the header is here, not even a header (R306). -/
def State.ringFull (s : State) (st : Nat) : Bool :=
  match s.ingestFlow st with
  | some f => decide (s.ringFree st < if f.data.length < 64 then 64 else smSize (f.data.take 64))
  | none => false

/-- What follows every change of a stand: outputs that wait take pool space, samples are taken, a full ring is noted, a closed
window opens. In the fault state nothing is taken, and no receipt is sent (R337). -/
def State.settleStand (s : State) (st : Nat) : State :=
  if s.job.state = .fault then s
  else
    let s := s.fillPool st
    let s := s.takeSamples st (match s.ingestFlow st with | some f => f.data.length / 64 + 1 | none => 0)
    (if s.ringFull st then s.ingestOnce st 0x22 0x4003 [] else s).reopenWindow st

/-! ### Decoding (R303, R311 to R318) -/

/-- The decode of a sample may begin (R67, R311, R337). -/
def State.mayDecode (s : State) (e : Sample) : Bool :=
  match s.job.plan with
  | none => false
  | some p =>
    decide (s.job.state = .armed ∨ s.job.state = .running ∨ s.job.state = .paused) &&
      (decide (smStep e.header < s.job.startStep + p.leadSteps)
        || decide (s.stepBegin (smStep e.header - p.leadSteps) * 2 ^ 16 ≤ s.planNow))

/-- The queued sample of a class that starts next: ascending `SH_STEP`, then arrival order. -/
def Stand.nextQueued (x : Stand) (cls : Nat) : Option Sample :=
  match x.samples.filter fun e => decide (e.state = .queued ∧ smClass e.header = cls) with
  | [] => none
  | e :: es => some (es.foldl (fun a b => if smStep b.header < smStep a.header ∨ (smStep b.header = smStep a.header ∧ b.arrival < a.arrival) then b else a) e)
/-- The context of a class that has been free longest (R303). -/
def Stand.freeContext (x : Stand) (cls : Nat) : Option Nat :=
  let busy := x.samples.filterMap fun e => e.ctx
  match ((List.range (classContexts cls)).map fun n => 64 * cls + n).find? fun c => !busy.contains c && !x.freed.contains c with
  | some c => some c
  | none => x.freed.find? fun c => c / 64 = cls

/-- `DECODE_START`: on stand `stand`, for engine class `cls`. A sample delivered in decoded form takes no decoder's context. -/
def execDecodeStart (stand cls : Nat) (s : State) : Res :=
  .next (match (s.stand stand).nextQueued cls with
    | none => s
    | some e =>
      if !s.mayDecode e then s
      else if cls = 3 then s.modStand stand fun x => x.modSample e.arrival fun e => { e with state := .decoding }
      else match (s.stand stand).freeContext cls with
        | none => s
        | some c => s.modStand stand fun x =>
            { x with freed := x.freed.filter (fun y => decide (y ≠ c)) }.modSample e.arrival fun e => { e with state := .decoding, ctx := some c })

/-- The bytes of `BJ_TABLE`. -/
def State.tableBytes (s : State) (n : Nat) : Bytes := bytesOr s.tally.rw (objKey 0xB040 (n + 1)) []
/-- The tokens of a text with its first and last token (R322). -/
def State.textTokens (s : State) (d payload : Bytes) : List Nat :=
  let mark (x : Nat) := if x = 2 ^ 32 - 1 then [] else [x]
  mark (fieldAt d 0x30 4) ++ tokensOf (s.tableBytes (bjTable d)) payload ++ mark (fieldAt d 0x34 4)

/-- A pre-decoded tensor with every non-finite element made zero, and their number (R316). -/
def cleanTensor (form : Nat) (bs : Bytes) : Bytes × Nat :=
  let n := formBytes form
  let fmt := if form = 1 then fBF16 else fFP32
  if form = 1 ∨ form = 2 then
    (chunks n (bs.length / n) bs).foldl (fun (acc : Bytes × Nat) e =>
      if nonFinite fmt (leNat e) then (acc.1 ++ List.replicate n 0#8, acc.2 + 1) else (acc.1 ++ e, acc.2)) ([], 0)
  else (bs, 0)

/-- What the decode of a sample finds. -/
def Sample.parsed (e : Sample) : Parsed := Config.parse (smFormat e.header) e.payload
/-- What a stream's descriptor says of pictures. -/
def pictureForm (d : Bytes) : PictureForm := ⟨bjOutW d, bjOutH d, bjForm d, fieldAt d 0x19 1, fieldAt d 0x1A 1, slice d 0x30 12⟩

/-- The reason for which a decode drops its sample, truncation apart (R312, R314 step 4, R315 step 1). Several that hold count in the
table's order; an area average of a smaller source is a mismatch too (DESIGN CHOICE, log 109). -/
def dropReason (d : Bytes) (e : Sample) : Option Nat :=
  let p := e.parsed
  let h := e.header
  match smClass h with
  | 0 =>
    let f := pictureForm d
    if p.unsupported then some 3
    else if p.width ≠ smDim h 0 ∨ p.height ≠ smDim h 1 ∨ p.depth ≠ (if smDepth h = 10 then 10 else 8) ∨ smFrames h < p.count then some 8
    else if (f.resize = 0 ∧ (p.width ≠ f.w ∨ p.height ≠ f.h)) ∨ (f.resize = 2 ∧ (p.width < f.w ∨ p.height < f.h)) then some 8
    else if p.corrupt then some 7 else none
  | 1 =>
    if p.unsupported then some 3
    else if p.channels ≠ smDim h 1 ∨ p.rate ≠ smDim h 2 ∨ smDim h 0 < p.count then some 8
    else if bjOutW d ≠ 0xFFFF ∧ p.channels ≤ bjOutW d then some 8
    else if p.corrupt then some 7 else none
  | _ => none
/-- The payload ends before what it claims is complete (R312, R313). -/
def endsEarly (e : Sample) : Bool :=
  match smClass e.header with
  | 0 => e.parsed.early || decide (e.parsed.count < smFrames e.header)
  | 1 => e.parsed.early || decide (e.parsed.count < smDim e.header 0)
  | _ => false

/-- The audio output of a sample: its positions, and the number of non-finite inputs and results made zero (R315, R316). -/
def State.audioOut (s : State) (d : Bytes) (e : Sample) : Bytes × Nat :=
  let p := e.parsed
  let n := claimPositions d e.header
  let xs := p.samples (s.tableBytes (bjTable d)) (bjOutW d) (bjRate d) (smDim e.header 0)
  let w := formBytes (bjForm d)
  let bs := if bjMel d = 0 then xs.flatMap u32
    else (List.range n).flatMap fun f =>
      let bands := Config.melBands d ((xs.drop (f * bjHop d)).take (bjWin d))
      (List.range (bjMel d)).flatMap fun b => leBytes w (bands.getD b 0)
  let (bs, k) := cleanTensor (bjForm d) bs
  (bs, p.badSamples + k)

/-- The decoded and converted output of a sample: its positions before any stem, its segments, and non-finite values made zero
(R313 to R316, R322, R327). -/
def State.converted (s : State) (d : Bytes) (e : Sample) : Bytes × List Nat × Nat :=
  let n := claimPositions d e.header
  match smFormat e.header with
  | 8 => let ts := s.textTokens d e.payload; (ts.flatMap u32, [ts.length], 0)
  | 9 => let (bs, k) := cleanTensor (bjForm d) e.payload; (bs, [n], k)
  | 10 => (e.payload.drop (4 + 4 * fieldAt e.payload 0 4), packedLengths e.payload, 0)
  | f =>
    let (bs, k) := if f ≤ 3
      then ((List.range n).flatMap fun i => e.parsed.position (pictureForm d) (decide (f = 0)) (i * bjFrameStep d), 0)
      else s.audioOut d e
    (padTo (n * s.decodedPos d) bs, [n], k)

/-- The stem over one position (R317): the position is the whole map, packed; bytes of an output position that the job does not
write are not stated. -/
def stemPosition (g weights input : Bytes) : Nat × LimberTally × Bytes :=
  let n := lbCin g * lbInBytes g
  let io : LimberIo Bytes :=
    ⟨fun o k => (padTo k weights, o),
     fun o r c => (padTo n (slice input (((r + i16At g 0x0C).toNat * fieldAt g 0x12 2 + (c + i16At g 0x0E).toNat) * n) n), o),
     fun o a bs => patchBytes o a bs⟩
  limberWork io g (fieldAt g 0x36 2) ((List.range (stemOut g)).map fun i => Config.freeByte 0 i)

/-- The stem over every position of an output. -/
def State.stemmed (s : State) (st step : Nat) (d bs : Bytes) : Bytes × State :=
  match s.stemGeom d with
  | none => (bs, s)
  | some g =>
    let weights := sget [] s.ingest.weights (bjStem d)
    (chunks (stemIn g) (bs.length / stemIn g) bs).foldl (fun (acc : Bytes × State) p =>
      let (n, cts, out) := stemPosition g weights p
      let s := (acc.2.addTally (bkSrc st) step (lbOut g) cts).modLimber (84 + st) fun l => { l with jobs := l.jobs + 1, products := l.products + n }
      (acc.1 ++ out, s)) ([], s)

/-- The decode of a sample ends well: it is converted and stemmed, and its output takes pool space or waits for it. -/
def State.finishDecode (s : State) (st : Nat) (d : Bytes) (e : Sample) (truncated : Bool) : State :=
  let (bs, segs, bad) := s.converted d e
  if s.claimOutput d e.header < segs.sum * rwPos (s.rowGeom d) then s.dropSample st 9 e
  else
    let s := if bad = 0 then s
      else s.addCounts (bkSrc st) e.step 0 (if smFormat e.header = 9 ∧ bjForm d = 1 then fBF16 else fFP32) { nonFinite := bad }
    let (out, s) := s.stemmed st e.step d bs
    let fits := decide (out.length ≤ s.poolFree st)
    let s := s.modStand st fun x => x.modSample e.arrival fun e =>
      { e with state := if fits then .ready else .waitPool, output := out, segments := segs, truncated := truncated }
    if fits then s else s.ingestOnce st 0x21 0x4002 []

/-- The budget of a sample (R318). -/
def State.budget (s : State) (d : Bytes) : Nat := s.active 0x5000 1 32 * bjMean d
/-- Charged time above the budget. -/
def State.overBudget (s : State) (e : Sample) : Bool :=
  match s.streamDesc (smStream e.header) with | some d => decide (s.budget d < e.charged) | none => false

/-- The decode of a sample ends (R312, R313). -/
def State.endDecode (s : State) (st : Nat) (d : Bytes) (e : Sample) : State :=
  match dropReason d e with
  | some r => s.dropSample st r e
  | none =>
    if !endsEarly e then s.finishDecode st d e false
    else if s.active 0x5000 4 0 = 1 then s.finishDecode st d e true
    else s.dropSample st 6 e

/-- The longest turn, in MEDIA cycles (R303). -/
def turnLimit : Nat := 131072
/-- The place of context `c` in its engine's round: how many contexts come before it from the one after the last served on. -/
def Stand.turnPlace (x : Stand) (c : Nat) : Nat := (c + 8 - sget 0 x.turns (c / 8) % 8) % 8
/-- An engine serves its busy contexts in turn: context `c` is the next busy one (R303; ascending context numbers are a DESIGN
CHOICE, log 65). -/
def Stand.inTurn (x : Stand) (c : Nat) : Bool :=
  x.samples.all fun e => match e.ctx with
    | some b => decide (b / 8 = c / 8 ∧ e.state = .decoding → x.turnPlace c ≤ x.turnPlace b)
    | none => true
/-- A turn of `cycles` MEDIA cycles for a sample is one that its engine gives now. -/
def Stand.turnOk (x : Stand) (e : Sample) (cycles : Nat) : Bool :=
  decide (cycles ≤ turnLimit) && (match e.ctx with | some c => x.inTurn c | none => true)
/-- The turn is given. -/
def Stand.turned (x : Stand) (e : Sample) : Stand :=
  match e.ctx with | some c => { x with turns := sset 0 x.turns (c / 8) (c + 1) } | none => x

/-- `DECODE_TURN`: a turn of `cycles` MEDIA cycles for the sample `arrival`, with which its decode may end; `checks`: what nature
reports of the die's reads of its SRAM (R302). A sample above its budget gets no further (R318). -/
def execDecodeTurn (stand arrival cycles : Nat) (ends : Bool) (checks : List MemCheck) (s : State) : Res :=
  .next (match (s.stand stand).sample arrival with
    | none => s
    | some e =>
      if e.state ≠ .decoding ∨ !(s.stand stand).turnOk e cycles then s
      else match s.streamDesc (smStream e.header) with
        | none => s
        | some d =>
          let (ok, s) := s.checked checks
          if !ok then s
          else
            let f := { e with charged := e.charged + cycles }
            let s := (s.modStand stand fun x => (x.turned e).modSample arrival fun _ => f).bump (kBkCycles stand) cycles
            if s.budget d < f.charged then s
            else if ends then (s.endDecode stand d f).settleStand stand
            else s)

/-- `DECODE_BUDGET_EXCEEDED`. -/
def execDecodeBudgetExceeded (stand arrival : Nat) (s : State) : Res :=
  .next (match (s.stand stand).sample arrival with
    | none => s
    | some e => if e.state = .decoding ∧ s.overBudget e then (s.dropSample stand 11 e).settleStand stand else s)

/-! ### The packer (R321 to R326) -/

/-- The key of a geometry's rows of step `k`: its `INGEST` index and its row set. -/
def rowKey (g k : Nat) : Nat := 2 * g + k % 2
/-- Close a row: it receives the next row index. -/
def Stand.closeRow (x : Stand) (key slot : Nat) : Stand :=
  let n := sget 0 x.closed key
  { x with closed := sset 0 x.closed key (n + 1),
           rows := x.rows.map fun r => if r.geom = key ∧ r.slot = slot ∧ r.index = none then { r with index := some n } else r }
/-- The open rows of a key, by slot. -/
def Stand.openRows (x : Stand) (key : Nat) : List PackRow :=
  (x.rows.filter fun r => decide (r.geom = key ∧ r.index = none)).mergeSort fun a b => decide (a.slot ≤ b.slot)
/-- Of several open rows, the one with the fewest free positions, the lowest slot first. -/
def fullest : List PackRow → Option PackRow
  | [] => none
  | r :: rs => some (rs.foldl (fun a b => if a.used < b.used then b else a) r)

/-- Put a sample of `n` positions and `k` segments into a row. -/
def PackRow.add (r : PackRow) (a n k : Nat) : PackRow := { r with used := r.used + n, segs := r.segs + k, parts := r.parts ++ [(a, r.used, r.segs + 1)] }

/-- The placement of a complete sample (R323); `len` and `most`: positions per row, rows per step. -/
def Stand.pack (x : Stand) (key len most : Nat) (e : Sample) : Stand :=
  let n := e.segments.sum
  let k := e.segments.length
  match (x.openRows key).find? fun r => decide (r.used + n ≤ len) with
  | some r =>
    { x with rows := x.rows.map fun q : PackRow => if q.geom = key ∧ q.slot = r.slot ∧ q.index = none then q.add e.arrival n k else q }.modSample e.arrival fun e =>
      { e with state := .placed }
  | none =>
    let x := if (x.openRows key).length < 4 then x else match fullest (x.openRows key) with | some r => x.closeRow key r.slot | none => x
    if sget 0 x.closed key < most then
      match [0, 1, 2, 3].find? fun i => !(x.openRows key).any fun r => r.slot = i with
      | some i => { x with rows := x.rows ++ [PackRow.add ⟨key, i, 0, 0, [], none⟩ e.arrival n k] }.modSample e.arrival fun e => { e with state := .placed }
      | none => x
    else x

/-- The deadline of step `k`, less the guard of a geometry: its guard point (R319). -/
def State.guardAt (s : State) (k : Nat) (d : Bytes) : Int :=
  s.pointOf k (match s.job.plan with | some p => p.phaseEnd.getD 0 0 | none => 0) 0 - (rwGuard d : Int) * (2 ^ 16 : Nat)

/-- The packer takes a complete sample whose admission step is open and whose guard point has not come (R337). -/
def State.placeSample (s : State) (st : Nat) (e : Sample) : State :=
  match s.streamDesc (smStream e.header) with
  | none => s
  | some d =>
    let key := rowKey (bjRows d) e.step
    let g := s.rowGeom d
    if s.ingest.admitting.contains e.step ∧ !(s.stand st).guarded.contains key ∧ e.state = .complete ∧ (s.planNow : Int) < s.guardAt e.step g then
      s.modStand st fun x => x.pack key (rwLength g) (rwRows g) e
    else s

/-- `OUTPUT_COMPLETE`: the output of a sample lies whole in the pool; its context is free. `checks`: what nature reports of the die's
reads of its SRAM (R302). -/
def execOutputComplete (stand arrival : Nat) (checks : List MemCheck) (s : State) : Res :=
  .next (match (s.stand stand).sample arrival with
    | none => s
    | some e =>
      if e.state ≠ .ready then s
      else
      let (ok, s) := s.checked checks
      if !ok then s
      else if e.segments.contains 0 then (s.dropSample stand 10 e).settleStand stand
      else
        let f := { e with state := .complete, ctx := none, doneNo := (s.stand stand).nextDone }
        let s := s.modStand stand fun x => { x with nextDone := x.nextDone + 1 }.release e.ctx |>.modSample arrival fun _ => f
        s.placeSample stand f)

/-- The ADMIT window of step `k` opens: its row sets are taken up anew, and complete samples are placed, the most carried
first, then in completion order. -/
def State.openAdmit (s : State) (k : Nat) : State :=
  let s := { s with ingest := { s.ingest with admitting := (s.ingest.admitting ++ [k]).dedup } }
  (List.range 8).foldl (fun s st =>
    let fresh (m : List (Nat × Nat)) := m.filter fun e : Nat × Nat => decide (e.1 % 2 ≠ k % 2)
    let s := s.modStand st fun x => { x with closed := fresh x.closed, written := fresh x.written, boxes := fresh x.boxes,
                                             guarded := x.guarded.filter (fun n => decide (n % 2 ≠ k % 2)),
                                             signalled := x.signalled.filter (fun n => decide (n % 2 ≠ k % 2)),
                                             rows := x.rows.filter fun r => decide (r.geom % 2 ≠ k % 2) }
    let mine := (s.stand st).samples.filter fun e => decide (e.step = k ∧ e.state = .complete)
    let order := mine.mergeSort fun a b => decide (b.carries < a.carries ∨ (a.carries = b.carries ∧ a.doneNo ≤ b.doneNo))
    order.foldl (fun s e => s.placeSample st e) s) s

/-- The geometries of a stand, by `INGEST` index. -/
def State.standGeoms (s : State) (st : Nat) : List (Nat × Bytes) :=
  match s.job.plan with
  | none => []
  | some p => (p.ingest.zipIdx.filter fun e => decide (bjType e.1 = 3 ∧ bjStand e.1 = st)).map fun (d, i) => (i, d)

/-- Plan time, in sub-beat units, of the admission deadline of step `k`. -/
def State.deadlineOf (s : State) (k : Nat) : Int := s.pointOf k (match s.job.plan with | some p => p.phaseEnd.getD 0 0 | none => 0) 0

/-- Rows of a key that are closed, lie below `RW_ROWS` and are not written. -/
def Stand.unwritten (x : Stand) (key most : Nat) : List PackRow :=
  x.rows.filter fun r => decide (r.geom = key) && (match r.index with | some i => decide (i < most) | none => false)

/-- Once the writes of a step have completed, or have been cut, `RW_DONE_SYNC` is signalled (R326). -/
def State.signalRows (s : State) (st g k : Nat) (d : Bytes) : State :=
  if (s.stand st).signalled.contains (rowKey g k) then s
  else
    let s := s.modStand st fun x => { x with signalled := x.signalled ++ [rowKey g k] }
    if rwDone d = 0xFFFF then s else s.signal (packerSrc st) (bitsOf (rwDone d) 13 0) 1 k

/-- The guard point of a geometry: every open row closes, in order. -/
def State.guardRows (s : State) (st g k : Nat) (d : Bytes) : State :=
  let key := rowKey g k
  if (s.stand st).guarded.contains key then s
  else
    let s := s.modStand st fun x =>
      let y := (x.openRows key).foldl (fun y r => y.closeRow key r.slot) x
      { y with guarded := y.guarded ++ [key] }
    if (s.stand st).unwritten key (rwRows d) = [] then s.signalRows st g k d else s

/-- `GUARD_POINT` of geometry `geom` (an `INGEST` index) of a stand (R319). -/
def execGuardPoint (stand geom : Nat) (s : State) : Res :=
  .next (match s.ingestDesc geom with
    | none => s
    | some d =>
      match s.ingest.admitting.find? fun k => !(s.stand stand).guarded.contains (rowKey geom k) with
      | none => s
      | some k =>
        if bjType d = 3 ∧ bjStand d = stand ∧ s.guardAt k d ≤ s.planNow then s.guardRows stand geom k d else s)

/-! ### Row writes (R323 to R326) -/

/-- The segment marks of a sample's positions, the first segment numbered `n`. -/
def segMarks (n : Nat) (segs : List Nat) : Bytes := segs.zipIdx.flatMap fun (len, i) => (List.range len).flatMap fun p => u32 ((n + i) * 2 ^ 16 + p)

/-- Whether the boxes of a sample are listed: a sample of a video format, or a pre-decoded one of a video stream. -/
def listsBoxes (d h : Bytes) : Bool := decide (smFormat h ≤ 3) || (smFormat h == 9 && bjAllows d 0x00F)

/-- The module address of a row set. -/
def State.rowSet (s : State) (st k : Nat) (d : Bytes) : Nat :=
  4 * st * stackBytes + (match s.job.plan with | some p => p.staging.1 | none => 0) + rwBase d + k % 2 * rwSet d

/-- `SC_CLIP_CEILING` of a class. -/
def State.clipCeiling (s : State) (k : Nat) : Nat :=
  match s.job.plan with | some p => (match p.classes.find? fun c => c.cls = k with | some c => c.clip | none => 0) | none => 0

/-- Write the boxes of a sample placed at position `first` of row `row` (R325). The answer counts those clipped. -/
def State.writeBoxes (s : State) (st k key : Nat) (d : Bytes) (row first : Nat) (e : Sample) : Nat × State :=
  if rwBoxClass d = 0xFF then (0, s)
  else
    let c := s.clipCeiling (rwBoxClass d)
    let list := s.rowSet st k d + up64 (rwRows d * rwRowBytes d)
    (chunks 20 (e.boxes.length / 20) e.boxes).foldl (fun (acc : Nat × State) b =>
      let s := acc.2
      let n := sget 0 (s.stand st).boxes key
      let frame := fieldAt b 16 4
      if e.segments.sum ≤ frame ∨ c ≤ n then (acc.1 + 1, (s.bump kBoxesClipped 1).ingestOnce st 0x20 0x4001 [])
      else
        let s := (s.toHbm (list + 16 * n) (b.take 16)).toHbm (list + up64 (16 * c) + 4 * n) (u32 (row * rwLength d + first + frame))
        (acc.1, s.modStand st fun x => { x with boxes := sset 0 x.boxes key (n + 1) })) (0, s)

/-- A sample of a written row is admitted. -/
def State.admitSample (s : State) (st k key : Nat) (d : Bytes) (row first : Nat) (e : Sample) : State :=
  let listed := match s.streamDesc (smStream e.header) with | some b => listsBoxes b e.header | none => false
  let (clipped, s) := if listed then s.writeBoxes st k key d row first e else (0, s)
  let s := s.receipt st { kind := 0, reason := if e.truncated then 6 else 0, id := smId e.header, step := k, row := row, position := first,
                          length := e.segments.sum, carries := e.carries, stream := smStream e.header, clipped := clipped }
  let s := ((s.bumpStream (smStream e.header) 1).bump (kBkDone st) 1).bump kZeroFilled (if e.truncated then 1 else 0)
  s.modStand st fun x => { x with samples := x.samples.filter (fun y => decide (y.arrival ≠ e.arrival)),
                                  admitted := x.admitted ++ [⟨k, smId e.header, smStream e.header, e.carries⟩] }

/-- The bytes of a row: its samples' positions, padding, then the marks. -/
def packedRowBytes (x : Stand) (d : Bytes) (r : PackRow) : Bytes × Bytes :=
  let of (a : Nat) (f : Sample → Bytes) := match x.sample a with | some e => f e | none => []
  (padTo (rwLength d * rwPos d) (r.parts.flatMap fun p => of p.1 fun e => padTo (e.segments.sum * rwPos d) e.output),
   padTo (4 * rwLength d) (r.parts.flatMap fun p => of p.1 fun e => segMarks p.2.2 e.segments))

/-- Row `r`, with row index `i`, is written whole. -/
def State.writePacked (s : State) (st g k i : Nat) (d : Bytes) (r : PackRow) : State :=
  let key := rowKey g k
  let (data, marks) := packedRowBytes (s.stand st) d r
  let a := s.rowSet st k d + i * rwRowBytes d
  let s := ((s.toHbm a data).toHbm (a + up64 (rwLength d * rwPos d)) marks).bump (kBkRows st) 1
  let s := r.parts.foldl (fun s p => match (s.stand st).sample p.1 with | some e => s.admitSample st k key d i p.2.1 e | none => s) s
  let s := s.modStand st fun x => { x with written := sset 0 x.written key (i + 1), rows := x.rows.filter fun q => decide (q ≠ r) }
  if (s.stand st).guarded.contains key ∧ (s.stand st).unwritten key (rwRows d) = [] then s.signalRows st g k d else s

/-- `ROW_WRITE_COMPLETE`: the next closed row of a geometry, in index order, is in HBM. `checks`: what nature reports of the reads of the
row, and of the half-bursts that the write covers in part (R263, R302); nothing is written where one fails. -/
def execRowWriteComplete (stand geom : Nat) (checks : List MemCheck) (s : State) : Res :=
  .next (match s.ingestDesc geom with
    | none => s
    | some d =>
      let next (k : Nat) : Option (Nat × PackRow) :=
        let i := sget 0 (s.stand stand).written (rowKey geom k)
        if i < rwRows d then ((s.stand stand).rows.find? fun r => decide (r.geom = rowKey geom k ∧ r.index = some i)).map fun r => (i, r) else none
      match s.ingest.admitting.findSome? fun k => (next k).map fun e => (k, e) with
      | none => s
      | some (k, i, r) =>
        if bjType d = 3 ∧ bjStand d = stand then
          let (ok, s) := s.checked checks
          if ok then (s.writePacked stand geom k i d r).settleStand stand else s
        else s)

/-! ### The admission deadline (R319, R324) -/

/-- A sample of step `k` that is in no written row is carried, or dropped as stale; a complete one that is carried into a step whose
ADMIT window is open is placed at once (R319, R323). -/
def State.carrySample (s : State) (st k : Nat) (e : Sample) : State :=
  if e.carries < s.carryLimit then
    let s := s.modStand st fun x => x.modSample e.arrival fun e => { e with carries := e.carries + 1 }
    ((s.receipt st { kind := 1, id := smId e.header, step := k, carries := e.carries + 1, stream := smStream e.header }).bumpStream (smStream e.header) 2).placeSample
      st { e with carries := e.carries + 1 }
  else s.dropSample st 12 e

/-- Samples that the stop of the job leaves behind are dropped (R337). -/
def State.dropStopped (s : State) (st : Nat) : State :=
  ((s.stand st).samples.filter fun e => s.neverBegins e.step).foldl (fun s e => s.dropSample st 13 e) s

/-- The bounds of a geometry for step `k`: rows written, boxes written. -/
def State.setBounds (s : State) (st k g : Nat) (d : Bytes) : State :=
  let x := s.stand st
  let rows := if rwRowsClass d = 0xFF then [] else [(k, st, rwRowsClass d, sget 0 x.written (rowKey g k))]
  let boxes := if rwBoxClass d = 0xFF then [] else [(k, st, rwBoxClass d, sget 0 x.boxes (rowKey g k))]
  { s with ingest := { s.ingest with bounds := s.ingest.bounds ++ rows ++ boxes } }

/-- The deadline of step `k` passes on one stand. -/
def State.standDeadline (s : State) (k st : Nat) : State :=
  let s := ((s.stand st).samples.filter fun e => decide (e.step = k ∧ e.state = .decoding) && s.overBudget e).foldl (fun s e => s.dropSample st 11 e) s
  let geoms := s.standGeoms st
  let s := geoms.foldl (fun s (g, d) => s.guardRows st g k d) s
  let cut := geoms.any fun (g, d) => (s.stand st).unwritten (rowKey g k) (rwRows d) ≠ []
  let s := if cut then { s with ingest := { s.ingest with cut := (s.ingest.cut ++ [k]).dedup } }.event (bkSrc st) 0x4004 [] else s
  let s := geoms.foldl (fun s (g, d) => (s.setBounds st k g d).signalRows st g k d) s
  let s := s.modStand st fun x =>
    { x with rows := x.rows.filter fun r => decide (r.geom % 2 ≠ k % 2),
             samples := x.samples.map fun e => if e.step = k ∧ e.state = .placed then { e with state := .complete } else e }
  let late := ((s.stand st).samples.filter fun e => decide (e.step = k)).mergeSort fun a b =>
    decide (b.carries < a.carries ∨ (a.carries = b.carries ∧ a.doneNo ≤ b.doneNo))
  let s := late.foldl (fun s e => s.carrySample st k e) s
  (s.dropStopped st).settleStand st

/-- The deadline of step `k` passes, if its ADMIT window is open. -/
def State.deadline (s : State) (k : Nat) : State :=
  if s.ingest.admitting.contains k then
    let s := (List.range 8).foldl (fun s st => s.standDeadline k st) s
    { s with ingest := { s.ingest with ingestStep := k, admitting := s.ingest.admitting.filter fun j => decide (j ≠ k) } }
  else s

/-- `ADMISSION_DEADLINE`: of the oldest open admission step. -/
def execAdmissionDeadline (s : State) : Res :=
  .next (match lowest s.ingest.admitting with
    | none => s
    | some k => if s.deadlineOf k ≤ s.planNow then s.deadline k else s)

/-! ### Start and stop (R320, R330, R337) -/

/-- A `START` is accepted: the samples that wait are taken as arriving now. -/
def State.ingestArm (s : State) : State :=
  (List.range 8).foldl (fun s st =>
    let s := (s.stand st).samples.foldl (fun s e =>
      let c := s.carriesOf e.header
      if s.carryLimit < c then s.dropSample st 12 { e with carries := c }
      else s.modStand st fun x => x.modSample e.arrival fun e => { e with carries := c }) s
    s.settleStand st) s

/-- `STOP` takes effect: samples for steps that will not begin are dropped, those admitted to such a step withdrawn. -/
def State.ingestStop (s : State) : State :=
  let gone := s.ingest.admitting.filter fun k => s.neverBegins k
  let later := ((s.ingest.stands.flatMap fun e : Nat × Stand => e.2.admitted.map fun a => a.step).filter fun k => s.neverBegins k).dedup
  let s := later.foldl (fun s k => s.laterReceipts k 4 13) s
  let s := { s with ingest := { s.ingest with admitting := s.ingest.admitting.filter fun k => !gone.contains k } }
  (List.range 8).foldl (fun s st =>
    let s := s.modStand st fun x => { x with rows := x.rows.filter fun r => !gone.any fun k => decide (k % 2 = r.geom % 2) }
    (s.dropStopped st).settleStand st) s

/-! ### Decode load (R328) -/

/-- Backlog of the samples of a list: mean cycles planned, less cycles charged. -/
def State.backlog (s : State) (es : List Sample) : Nat :=
  (es.map fun e => match s.streamDesc (smStream e.header) with | some d => bjMean d | none => 0).sum - (es.map fun e => e.charged).sum
/-- One MEDIA cycle of a stand in sub-beat units: 1 ns is 64 of them at level 0, more when stretched (R491). -/
def State.mediaCycle (s : State) (st : Nat) : Nat := 64 + (sget {} s.power.inst (44 + st)).level

/-- The queued samples of a class whose projected finish falls after their admission deadline. -/
def State.atRisk (s : State) (st cls : Nat) : Nat :=
  let mine := (s.stand st).samples.filter fun e => decide (smClass e.header = cls)
  let queued := (mine.filter fun e => e.state = .queued).mergeSort fun a b => decide (smStep a.header < smStep b.header ∨
    (smStep a.header = smStep b.header ∧ a.arrival ≤ b.arrival))
  let busy := mine.filter fun e => e.state = .decoding
  ((List.range queued.length).filter fun i =>
    match queued[i]? with
    | some e => decide (s.deadlineOf e.step < (s.planNow : Int) + (s.backlog (busy ++ queued.take (i + 1)) / classEngines cls * s.mediaCycle st : Nat))
    | none => false).length

/-- `DECODE_LOAD` of a stand, every 64 beats: the busy fractions are what nature reports. -/
def execDecodeLoad (stand video audio text : Nat) (s : State) : Res :=
  let last := sget [] s.ingest.load stand
  .next (if 8 ≤ stand ∨ (last ≠ [] ∧ fieldAt last 0 8 / 2 ^ 22 = s.stamp / 2 ^ 22) then s
    else
      let es := (s.stand stand).samples.filter fun e => decide (e.state = .queued ∨ e.state = .decoding)
      let ring := (es.map fun e => smSize e.header).sum + (match s.ingestFlow stand with | some f => f.data.length | none => 0)
      let risk := ((List.range 3).map fun c => s.atRisk stand c).sum
      let back := s.backlog es
      let busy := u16 video ++ u16 audio ++ u16 text
      let s := s.telemetry (srcId (84 + stand) 0x30) 4 (busy ++ u16 0 ++ u64 ring ++ u64 back ++ u32 risk ++ u32 0)
      { s with ingest := { s.ingest with load := sset [] s.ingest.load stand (u64 s.stamp ++ busy ++ u64 ring ++ u64 back ++ u32 risk) } })

end Sys2Proof.Machine
end

