-- ==== Sys2Proof/Machine/Restart.lean ====
section
/-! DEFINITION. Restart: a restore from the own slot, from a partner's slot or from a checkpoint image, and serving a
restore (R446, R450 to R456). -/

namespace Sys2Proof.Machine

/-! ### The state of a restore -/

def State.modRestore (s : State) (f : Restore → Restore) : State := { s with snap := { s.snap with restore := f s.snap.restore } }
/-- `RESTORE_STEP`, `RESTORE_FROM` (R458). -/
def State.restoreStep (s : State) : Nat := s.rwValue 0x8130 1 0
def State.restoreFrom (s : State) : Nat := s.rwValue 0x8130 2 0xFFFF
/-- Pages of an extent (R453). -/
def extentPages : Nat := 512
/-- The pages of extent `e`, in manifest order. -/
def State.extent (s : State) (e : Nat) : List Nat := (s.cow.marked.drop (extentPages * e)).take extentPages
def State.extentCount (s : State) : Nat := (s.cow.marked.length + extentPages - 1) / extentPages

/-- Close the checkpoint flow that a restore reads, if it has one. -/
def State.closeRestoreFlow (s : State) (f : Option Nat) : State :=
  match f.bind fun id => s.host.flows.find? fun x => x.id = id with | some x => s.closeWith x abState | none => s

/-- A restore is refused or abandoned: no progress is kept. The causes' numbers are the model's: 1 the source fails its
check, 2 the source refuses, 3 the source is lost, 4 an extent fails, 5 stopped. -/
def State.abandonRestore (s : State) (cause : Nat) : State :=
  let f := s.snap.restore.flow
  ((s.modRestore fun _ => { state := 4 }).event wardenSrc 0x3309 (u8 cause)).closeRestoreFlow f

/-- A restore is interrupted: verified extents are kept (R454). -/
def State.interruptRestore (s : State) : State :=
  (s.modRestore fun r => { r with state := 3, asked := false, manifest := [], chunks := 0, rereads := 0 }).event wardenSrc 0x3308

/-- The restore is done (R453). -/
def State.finishRestore (s : State) : State := (s.modRestore fun r => { r with state := 2 }).event wardenSrc 0x3307

/-- The modules on the route from `a` to `b`, the ends apart (R383). -/
def routeBetween (g : List (Nat × List (Nat × Nat))) (b : Nat) : Nat → Nat → List Nat
  | 0, _ => []
  | n + 1, a => match nearer g a b with | some x => if x = b then [] else x :: routeBetween g b n x | none => []

/-- A remote restore is running. -/
def State.remoteRestore (s : State) : Bool := decide (s.snap.restore.state = 1 ∧ s.restoreFrom < 0xFFFE)
/-- Module `m` has failed: the source of the fill, or one on its route (R454). -/
def State.peerFailed (s : State) (m : Nat) : State :=
  if !s.remoteRestore then s
  else if m = s.restoreFrom then s.abandonRestore 3
  else if (routeBetween s.net.graph s.self 16 s.restoreFrom).contains m then s.interruptRestore
  else s

/-- The source is asked for the extents from the first unverified one, once a route to it exists (R453). -/
def State.askRestore (s : State) : State :=
  if s.remoteRestore && !s.snap.restore.asked && (routePort s.net.graph s.self s.self s.restoreFrom).isSome then
    (s.modRestore fun r => { r with asked := true, chunks := 0, manifest := [] }).sendTo wardenSrc 14 s.restoreFrom
      ((s.restoreStep % 2 ^ 32) * 2 ^ 32 + s.snap.restore.verified) []
  else s

/-! ### Checking a source (R452) -/

/-- A slot's pages in manifest order. -/
def SnapSlot.ordered (x : SnapSlot) : List (Nat × Nat × List (Nat × Byte)) := x.pages.mergeSort fun a b => a.1 ≤ b.1

/-- A slot is a complete copy of step `k` of module `m`, of the loaded job and plan set. -/
def State.slotGood (s : State) (x : SnapSlot) (k m : Nat) : Bool :=
  decide (x.state = 2 ∧ x.step % 2 ^ 32 = k % 2 ^ 32 ∧ x.module = m ∧ x.jobId = s.jobId ∧ x.digest = s.setDigest)

/-- The own slot that a local restore reads. -/
def State.localSource (s : State) : Option SnapSlot :=
  ([0, 1].map s.ownSlot).find? fun x =>
    s.slotGood x s.restoreStep s.self && decide (x.step = s.restoreStep) && (x.ordered.map fun e => e.1) == s.cow.marked

/-! ### Commands of the host (R452, R454) -/

/-- `RESTORE_GO` 1 takes hold: routes are computed afresh from the links that are up, the source is checked. -/
def State.goRestore (s : State) : State :=
  let r := s.snap.restore
  let kept := if r.state = 3 ∧ s.restoreFrom ≠ 0xFFFE then r.verified else 0
  let s := s.floodPorts (s.usedPorts.filter fun n => (s.port n).state = .up)
  let s := s.modRestore fun _ => { state := 1, verified := kept, extents := s.extentCount, bytes := if kept = 0 then 0 else r.bytes }
  if s.restoreFrom = 0xFFFF then
    if s.localSource.isNone then s.abandonRestore 1 else if s.extentCount = 0 then s.finishRestore else s
  else if s.restoreFrom = 0xFFFE then s
  else if s.extentCount = 0 then s.finishRestore
  else s.askRestore

/-- A write of `RESTORE_GO` with value `n`. -/
def State.restoreCommand (s : State) (q : Req) (n : Nat) (act : State → Answer) : State :=
  if q.data = u8 n then s.serveWrite q 0x8130 3 1 fun s _ => act s else s

/-- `RESTORE_GO_START`: allowed in `LOADED`, while no restore is running. -/
def execRestoreGoStart (q : Req) (s : State) : Res :=
  .next (s.restoreCommand q 1 fun s =>
    if s.job.state ≠ .loaded ∨ s.snap.restore.state = 1 then refuse s abState else accept s.goRestore)

/-- `RESTORE_GO_STOP`: a restore that runs, or was interrupted, stops. -/
def execRestoreGoStop (q : Req) (s : State) : Res :=
  .next (s.restoreCommand q 2 fun s =>
    accept (if s.snap.restore.state = 1 ∨ s.snap.restore.state = 3 then s.abandonRestore 5 else s))

/-- `RESTORE_STEP`: a write of `RESTORE_STEP` or `RESTORE_FROM` clears the progress of the restore. -/
def execRestoreStep (q : Req) (s : State) : Res :=
  let act (s : State) : Answer :=
    let f := s.snap.restore.flow
    accept (((s.putValue (reqKey q) q.data false).modRestore fun _ => {}).closeRestoreFlow f)
  .next (if reqIs q 0x8130 1 then s.serveWrite q 0x8130 1 8 fun s _ => act s
    else s.serveWrite q 0x8130 2 2 fun s v => if 4096 ≤ v ∧ v < 0xFFFE then refuse s abRange else act s)

/-! ### The source's side -/

/-- A `RESTORE_DATA` chunk. -/
def State.sendChunk (s : State) (dst e c : Nat) (bs : Bytes) : State := s.sendTo wardenSrc 15 dst (e * 2 ^ 32 + c) bs

/-- A manifest entry (R446). -/
def manifestEntry (page crc : Nat) : Bytes := u8 (page / pagesPerStack) ++ u8 0 ++ u16 (page % pagesPerStack) ++ u32 crc
/-- The entries of a manifest. -/
def manifestOf (n : Nat) (bs : Bytes) : List (Nat × Nat) :=
  (List.range n).map fun i => (fieldAt bs (8 * i) 1 * pagesPerStack + fieldAt bs (8 * i + 2) 2, fieldAt bs (8 * i + 4) 4)

/-- An extent goes to its requester: 32 chunks a page, then a chunk of its manifest entries. -/
def State.sendExtent (s : State) (dst e : Nat) (pages : List (Nat × Nat × List (Nat × Byte))) : State :=
  let s := pages.zipIdx.foldl (fun s (p, i) =>
    (List.range 32).foldl (fun s c =>
      let cells := (p.2.2.filter fun x => decide (65536 * c ≤ x.1 ∧ x.1 < 65536 * (c + 1))).map fun x => (x.1 - 65536 * c, x.2)
      s.sendChunk dst e (32 * i + c) (cellBytes 65536 cells)) s) s
  s.sendChunk dst e (32 * pages.length) (pages.flatMap fun p => manifestEntry p.1 p.2.1)

/-- `RESTORE_READ`: the source sends the extents from the one named on, or refuses (1 no good copy, 2 co-fed). -/
def execRestoreRead (m : Msg) (s : State) : Res :=
  .next (s.taken m fun s =>
    let k := m.arg / 2 ^ 32
    match ([0, 1].map s.partnerSlot).find? fun x => s.slotGood x k m.origin with
    | none => s.sendTo wardenSrc 13 m.origin (snapArg 7 k) (u8 1)
    | some x =>
      if x.coFed then s.sendTo wardenSrc 13 m.origin (snapArg 7 k) (u8 2)
      else
        let pages := x.ordered
        let n := (pages.length + extentPages - 1) / extentPages
        ((List.range n).filter fun e => decide (m.arg % 2 ^ 32 ≤ e)).foldl
          (fun s e => s.sendExtent m.origin e ((pages.drop (extentPages * e)).take extentPages)) s)

/-- `RESTORE_REFUSED`. -/
def execRestoreRefused (m : Msg) (s : State) : Res :=
  .next (s.taken m fun s =>
    if s.remoteRestore && decide (m.origin = s.restoreFrom) then s.abandonRestore 2 else s)

/-! ### The fill -/

/-- `RESTORE_DATA`: the next chunk of the present extent is written to its page; the last brings the manifest entries. -/
def execRestoreData (m : Msg) (s : State) : Res :=
  .next (s.taken m fun s =>
    let r := s.snap.restore
    let e := m.arg / 2 ^ 32
    let c := m.arg % 2 ^ 32
    let pages := s.extent e
    if !s.remoteRestore || !r.asked || decide (m.origin ≠ s.restoreFrom ∨ e ≠ r.verified ∨ c ≠ r.chunks) then s
    else if c < 32 * pages.length then
      let a := (pages.getD (c / 32) 0) * pageBytes + 65536 * (c % 32)
      { s with mem := writeBytes s.mem a (m.body.take 65536) }.modRestore fun r =>
        { r with chunks := c + 1, bytes := r.bytes + m.body.length }
    else if c = 32 * pages.length then s.modRestore fun r => { r with chunks := c + 1, manifest := manifestOf pages.length m.body }
    else s)

/-- The CRC of the HBM page `p`. -/
def State.hbmPageCrc (s : State) (p : Nat) : Nat := crcOfPage p (readBytes s.mem (p * pageBytes) pageBytes)

/-- The bytes of an image before its pages, and before its digest. -/
def imageFront (n : Nat) : Nat := 256 + 8 * n
def imageBody (n : Nat) : Nat := imageFront n + n * pageBytes

/-- A checkpoint image is whole and every extent of it verified: its digest decides (R456). -/
def State.imageEnd (s : State) : State :=
  let r := s.snap.restore
  let n := imageBody s.cow.marked.length
  if r.state = 1 ∧ s.restoreFrom = 0xFFFE ∧ r.flow.isSome ∧ r.verified = r.extents ∧ n + 64 ≤ r.image.length then
    if shake256 64 (r.image.take n) = slice r.image n 64 then s.finishRestore
    else s.interruptRestore.modRestore fun r => { r with verified := 0, image := [], flow := none }
  else s

/-- The header and manifest of an image agree with the loaded plan (R452, R446). -/
def State.imageGood (s : State) (img : Bytes) : Bool :=
  let n := s.cow.marked.length
  decide (slice img 0 8 = ascii "EDZSNAP1" ∧ fieldAt img 8 2 = 1 ∧ fieldAt img 0x0A 2 = s.self ∧ fieldAt img 0x0E 1 = 2 ∧
    fieldAt img 0x10 8 = s.jobId ∧ fieldAt img 0x18 8 = s.restoreStep ∧ fieldAt img 0x20 4 = n ∧ slice img 0x30 64 = s.setDigest ∧
    fieldAt img 0xFC 4 = (crc32c (img.take 0xFC)).toNat ∧ ((manifestOf n (img.drop 256)).map fun e => e.1) = s.cow.marked)

/-- Bytes of a checkpoint image arrive in order. -/
def State.imageBytesIn (s : State) (bs : Bytes) : State :=
  let n := s.cow.marked.length
  let old := s.snap.restore.image.length
  let s := s.modRestore fun r => { r with image := r.image ++ bs, bytes := r.bytes + bs.length }
  let img := s.snap.restore.image
  if old < imageFront n ∧ imageFront n ≤ img.length then
    if s.imageGood img then (s.modRestore fun r => { r with manifest := manifestOf n (img.drop 256) }).imageEnd else s.abandonRestore 1
  else s.imageEnd

/-- The extent's pages are in HBM, with the manifest to hold them to; none: its data are not all here. -/
def State.extentIn (s : State) : Option (List (Nat × Nat) × State) :=
  let r := s.snap.restore
  let e := r.verified
  let pages := s.extent e
  if r.state ≠ 1 ∨ r.extents ≤ e then none
  else if s.restoreFrom = 0xFFFF then
    s.localSource.map fun x =>
      let mine := (x.ordered.drop (extentPages * e)).take extentPages
      (mine.map fun p : Nat × Nat × List (Nat × Byte) => (p.1, p.2.1),
        { s with mem := mine.foldl (fun m (p : Nat × Nat × List (Nat × Byte)) => putCells m (p.1 * pageBytes) pageBytes p.2.2) s.mem }.modRestore fun r =>
          { r with bytes := r.bytes + pageBytes * mine.length })
  else if s.restoreFrom = 0xFFFE then
    let n := s.cow.marked.length
    let first := imageFront n + extentPages * e * pageBytes
    if r.manifest.length = n ∧ first + pages.length * pageBytes ≤ r.image.length then
      some ((r.manifest.drop (extentPages * e)).take extentPages,
        { s with mem := pages.zipIdx.foldl (fun m (p, i) => writeBytes m (p * pageBytes) (slice r.image (first + i * pageBytes) pageBytes)) s.mem })
    else none
  else if r.chunks = 32 * pages.length + 1 then some (r.manifest, s)
  else none

/-- `RESTORE_EXTENT_VERIFIED`: every page of the extent is compared with its manifest entry. `checks`: what nature reports
of the reads. -/
def execRestoreExtentVerified (checks : List MemCheck) (s : State) : Res :=
  .next (match s.extentIn with
    | none => s
    | some (manifest, t) =>
      let (ok, t) := t.checked checks
      let r := t.snap.restore
      if !ok then t
      else if (manifest.map fun e => e.1) ≠ t.extent r.verified then t.abandonRestore 1
      else if manifest.all fun e => decide (t.hbmPageCrc e.1 = e.2) then
        let t := t.modRestore fun r => { r with verified := r.verified + 1, chunks := 0, rereads := 0,
                                                manifest := if t.restoreFrom = 0xFFFE then r.manifest else [] }
        if t.restoreFrom = 0xFFFE then t.imageEnd else if t.snap.restore.verified = r.extents then t.finishRestore else t
      else if r.rereads < 3 then (t.modRestore fun r => { r with rereads := r.rereads + 1, chunks := 0, asked := false }).askRestore
      else t.abandonRestore 4)

end Sys2Proof.Machine
end

