-- ==== Sys2Proof/Machine/Bulk.lean ====
section
/-! DEFINITION. The bulk plane: flows, blocks, acknowledgement and re-sending, checkpoint images, uploads, the recovery exchange
(R417 to R422, R446, R448, R456, R467, R529). -/

namespace Sys2Proof.Machine

/-- `BULK_RESENDS_TX`, `BULK_NAKS_SENT`, `BULK_CRC_LIMITS`, `CHECKPOINTS_SENT`. -/
def kBulkResends : Nat := objKey 0x1043 0
def kBulkNaks : Nat := objKey 0x1044 0
def kBulkCrcLimits : Nat := objKey 0x8013 0
def kCheckpointsSent : Nat := objKey 0x8151 0

def State.flow (s : State) (id : Nat) : Option Flow := s.host.flows.find? fun f => f.id = id
/-- A datagram of a flow has come from its far end. -/
def State.heard (s : State) (id : Nat) : State := s.modFlow id fun f => { f with lastRx := s.time.cycles }
/-- A bulk datagram of flow `id` arrives; one that names no open flow does nothing more. -/
def State.onFlow (s : State) (id : Nat) (f : State → Flow → State) : Res :=
  let s := s.rxFrame
  .next (match s.flow id with | some x => f s x | none => s)

/-! ### Opening a flow (R418, R420) -/

/-- The arguments a channel allows. -/
def subOk (channel sub : Nat) : Bool :=
  match channel with
  | 0 | 1 | 4 => decide (sub < 8)
  | 2 => decide (sub < 2)
  | 3 | 5 => decide (sub = 0)
  | 15 => decide (sub < 3)
  | _ => false
/-- A channel's bytes go to the host. -/
def isOutbound (channel sub : Nat) : Bool :=
  decide (channel = 3 ∨ channel = 4 ∨ channel = 5 ∨ (channel = 2 ∧ sub = 0) ∨ (channel = 15 ∧ sub = 2))
/-- The limit of open flows is reached. -/
def State.flowsFull (s : State) (channel sub : Nat) : Bool :=
  let same := s.host.flows.filter fun f => f.channel = channel
  decide (64 ≤ s.host.flows.length) ||
    (if channel = 3 ∨ channel = 5 then decide (4 ≤ same.length) else if channel = 1 then !same.isEmpty else same.any fun f => f.sub = sub)

/-- Bytes of the plan library in use by slots other than `slot`; a slot written on trial is held twice (R526). -/
def State.libraryUsed (s : State) (slot : Nat) : Nat :=
  ((s.host.library.filter fun e => e.1 ≠ slot).map fun e => s.copies e.1 * e.2.length).sum
def libraryBytes : Nat := 268435456

/-- The abort code of an `OPEN`; 0 where it is accepted. -/
def State.openCheck (s : State) (addr : Bytes) (session channel sub : Nat) : Nat :=
  let noSession := (s.session addr session).isNone
  if s.start.stump.isSome then
    if channel ≠ 15 then abState else if !subOk 15 sub then abBadRequest else if noSession && !s.noKeys then abNoSession
    else if s.flowsFull 15 sub then abBusy else 0
  else if !subOk channel sub then abBadRequest
  else if channel = 15 then abState
  else if channel ≠ 3 ∧ channel ≠ 5 ∧ noSession then abNoSession
  else if channel = 2 ∧ sub = 1 ∧ (s.snap.restore.state ≠ 1 ∨ s.restoreFrom ≠ 0xFFFE) then abState
  else if s.flowsFull channel sub ∨ (channel = 1 ∧ s.job.loading = some sub) then abBusy
  else if channel = 1 ∧ libraryBytes ≤ s.libraryUsed sub then abStoreFull
  else 0

/-- The window of an inbound flow, in blocks (R306, R419). -/
def State.grant (s : State) (f : Flow) : Nat := if f.channel = 0 then s.ingestGrant f else 4096

/-- `OPEN`. -/
def execBulkOpen (addr : Bytes) (session channel sub : Nat) (s : State) : Res :=
  let s := s.rxFrame
  .next (if s.deaf then s
    else
      let ab := s.openCheck addr session channel sub
      if ab ≠ 0 then s.sendHost (.bulk 0 2 channel 0 0 (u32 ab))
      else
        let id := s.host.nextFlow
        let now := s.time.cycles
        let sid := match s.session addr session with | some x => x.id | none => 0
        let f : Flow := { id := id, channel := channel, sub := sub, session := sid, addr := addr, outbound := isOutbound channel sub,
                          lastRx := now, lastBlock := now, lastAck := now }
        let n := if f.outbound then 0 else s.grant f
        let s := { s with host := { s.host with nextFlow := id % (2 ^ 32 - 1) + 1, flows := s.host.flows ++ [{ f with window := n }] } }
        let s : State :=
          if channel = 1 then { s with host := { s.host with library := sset [] s.host.library sub [] } }.setFormats sub []
          else if channel = 2 ∧ sub = 1 then s.modRestore fun r => { r with flow := some id, image := [], manifest := [] }
          else if channel = 2 then
            { s with snap := { s.snap with checkpoint := s.snap.checkpoint.map fun c => if c.flow = none then { c with flow := some id } else c } }
          else s
        s.sendHost (.bulk id 2 channel 0 n (u32 0)))

/-! ### Sending to the host (R419, R446, R448) -/

/-- The header of an image. -/
def SnapSlot.header (x : SnapSlot) : Bytes :=
  let front := ascii "EDZSNAP1" ++ u16 1 ++ u16 x.module ++ u16 x.modules ++ u8 2 ++ u8 0 ++ u64 x.jobId ++ u64 x.step
    ++ u32 x.pages.length ++ u32 0 ++ u64 x.stamp ++ padTo 64 x.digest ++ List.replicate 140 0#8
  front ++ u32 (crc32c front).toNat
/-- The checkpoint image of a slot. -/
def SnapSlot.imageBytes (x : SnapSlot) : Bytes :=
  let ps := x.ordered
  let body := x.header ++ (ps.flatMap fun p => manifestEntry p.1 p.2.1) ++ ps.flatMap fun p => cellBytes pageBytes p.2.2
  body ++ shake256 64 body

/-- The stump report (R529). -/
def State.stumpReport (s : State) : Bytes :=
  u8 (s.start.stump.getD 0) ++ u32 Config.romVersion ++ u8 s.start.security ++ u8 s.start.lifecycle
    ++ s.start.slots.flatMap fun x => u8 x.state ++ headerDigest x.image

/-- The byte stream that a flow to the host carries, where it has an end. -/
def State.flowBytes (s : State) (f : Flow) : Option Bytes :=
  if f.channel = 15 then some s.stumpReport
  else match s.snap.checkpoint with
    | some c => if c.flow = some f.id then some (s.ownSlot c.slot).imageBytes else none
    | none => none

/-- In the fault state a page is checked against its manifest entry before a block of it is sent (R463): the CRC of a page that block
`n` of the image of slot `x` reaches differs. -/
def SnapSlot.pageDiffers (x : SnapSlot) (n : Nat) : Bool :=
  let front := imageFront x.pages.length
  x.ordered.zipIdx.any fun (p, i) =>
    !apart (front + i * pageBytes, pageBytes) (8192 * n, 8192) && decide (crcOfPage p.1 (cellBytes pageBytes p.2.2) ≠ p.2.1)
/-- A stream under the fault latch finds such a page in its next block. -/
def State.streamDiffers (s : State) (f : Flow) : Bool :=
  match s.snap.checkpoint with
  | some c => s.safe.latch && decide (c.flow = some f.id) && (s.ownSlot c.slot).pageDiffers f.next
  | none => false
/-- Send the blocks of `bs` that the flow can take, then the `CLOSE`. -/
def State.pumpBytes (s : State) (id : Nat) (bs : Bytes) : Nat → State
  | 0 => s
  | fuel + 1 =>
    match s.flow id with
    | none => s
    | some f =>
      if f.count.isSome then s
      else if 8192 * f.next < bs.length then
        if !f.canSend then s
        else if s.streamDiffers f then s.abandonCheckpoint
        else (s.sendBlock f (slice bs (8192 * f.next) 8192)).pumpBytes id bs fuel
      else (s.modFlow id fun f => { f with count := some f.next }).sendHost (.bulk id 5 f.channel f.next 0 [])
/-- Send what a flow can send now. -/
def State.pumpFlow (s : State) (id : Nat) : State :=
  match s.flow id with
  | none => s
  | some f => match s.flowBytes f with | some bs => s.pumpBytes id bs 257 | none => s

/-- Send held blocks again. -/
def State.resendBlocks (s : State) (f : Flow) (bs : List (Nat × Bytes)) : State :=
  bs.foldl (fun s b => ((s.bump kBulkResends 1).touch f.session).sendHost (.bulk f.id 0 f.channel b.1 0 b.2)) s

/-- `ACK`: the blocks before `block` are acknowledged, and those before `block` + `window` may go out (R419). `checks`: what nature
reports of the reads of the second tier that the blocks of a checkpoint need; where one fails, none goes out. -/
def execBulkAck (flow block window : Nat) (checks : List MemCheck) (s : State) : Res :=
  s.onFlow flow fun s _ =>
    let s := (s.heard flow).modFlow flow fun f =>
      if f.outbound then { f with held := f.held.filter fun b => decide (block ≤ b.1), window := block + window, lastAck := s.time.cycles }
      else f
    let (ok, s) := s.checked checks
    if ok then s.pumpFlow flow else s

/-- `NAK`. -/
def execBulkNak (flow : Nat) (blocks : List Nat) (s : State) : Res :=
  s.onFlow flow fun s f => (s.heard flow).resendBlocks f (if f.outbound then f.held.filter fun b => blocks.contains b.1 else [])

/-- `RESEND_TIMER`: 5 ms without an `ACK`. -/
def execResendTimer (flow : Nat) (s : State) : Res :=
  .next (match s.flow flow with
    | none => s
    | some f =>
      if !f.outbound ∨ s.time.cycles < f.lastAck + 5 * msCycles then s
      else (s.modFlow flow fun f => { f with lastAck := s.time.cycles }).resendBlocks f (f.held.take 1))

/-- `OPEN_ACK` from the host: an answer to an `OPEN` of the module. No rule has the module open a flow; a refusal ends the
flow it names. -/
def execBulkOpenAck (flow code : Nat) (s : State) : Res :=
  s.onFlow flow fun s f => if code = 0 then s.heard flow else s.closeFlow f

/-- `CLOSE_ACK` of a flow that the module has sent. -/
def execBulkCloseAck (flow code : Nat) (s : State) : Res :=
  s.onFlow flow fun s f =>
    if !f.outbound ∨ f.count = none then s
    else match s.snap.checkpoint with
      | some c =>
        if c.flow = some flow ∧ code = 0 then ((s.endCheckpoint.bump kCheckpointsSent 1).event wardenSrc 0x3304).closeFlow f
        else s.closeFlow f
      | none => s.closeFlow f

/-! ### Receiving from the host (R419, R421, R467) -/

/-- Blocks are missing: one `NAK` lists them. -/
def State.bulkNak (s : State) (f : Flow) (missing : List Nat) : State :=
  if missing = [] then s else (s.bump kBulkNaks 1).sendHost (.bulk f.id 4 f.channel 0 0 ((missing.take 1024).flatMap u64))
/-- Blocks from `lo` up to `hi` that the flow does not hold. -/
def Flow.missing (f : Flow) (lo hi : Nat) : List Nat :=
  (List.range (hi - lo)).map (lo + ·) |>.filter fun b => !f.held.any fun h => h.1 = b
/-- Held blocks that follow in order are appended to the data. -/
def Flow.absorb : Nat → Flow → Flow
  | 0, f => f
  | n + 1, f =>
    match f.held.find? fun h => h.1 = f.next with
    | some h => Flow.absorb n { f with next := f.next + 1, data := f.data ++ h.2, held := f.held.filter fun x => decide (x.1 ≠ h.1) }
    | none => f

/-- What becomes of the bytes that have arrived in order. -/
def State.takeBytes (s : State) (id : Nat) : State :=
  match s.flow id with
  | none => s
  | some f =>
    match f.channel with
    | 0 => s.settleStand f.sub
    | 1 => if libraryBytes < s.libraryUsed f.sub + (s.formatsNow f.sub).length * f.data.length then s.closeWith f abStoreFull else s
    | 2 => (s.modFlow id fun f => { f with data := [] }).imageBytesIn f.data
    | _ => s

/-- Answer a `CLOSE` and end the flow. -/
def State.closeAck (s : State) (f : Flow) (code : Nat) : State :=
  ({ s with host := { s.host with flows := s.host.flows.filter fun x => x.id ≠ f.id } }).sendHost (.bulk f.id 6 f.channel 0 0 (u32 code))

/-- Every block of an inbound flow has come: it closes cleanly. -/
def State.finishFlow (s : State) (f : Flow) (flash : FlashReport) : State :=
  match f.channel with
  | 1 =>
    let fs := s.formatsNow f.sub
    let s := s.flashWrite flash (fs.length * f.data.length)
    if flash.ok then (({ s with host := { s.host with library := sset [] s.host.library f.sub f.data } }).setFormats f.sub fs).closeAck f 0
    else s.closeAck f abStoreFault
  | 2 =>
    let r := s.snap.restore
    let s := s.closeAck f 0
    if r.state = 1 ∧ r.flow = some f.id ∧ r.image.length < imageBody s.cow.marked.length + 64 then s.flowLost f else s
  | 15 =>
    let r := s.verifyImage f.data true
    let s := s.flashWrite flash f.data.length
    if r ≠ 0 then (s.modFwSlot f.sub fun _ => {}).closeAck f abAuthFailed
    else if !flash.ok then (s.modFwSlot f.sub fun _ => {}).closeAck f abStoreFault
    else ((s.putTrial f.sub f.data).closeAck f 0).romAgain
  | _ => s.closeAck f 0

/-- A flow whose `CLOSE` has come ends once it holds every block. -/
def State.tryFinish (s : State) (id : Nat) (flash : FlashReport) : State :=
  match s.flow id with
  | some f => match f.count with | some n => if n ≤ f.next then s.finishFlow f flash else s | none => s
  | none => s

/-- A block fails its check (R405, R467): it is discarded and named in a `NAK`; the 16th failure in succession of one block closes the
flow. -/
def State.badBlock (s : State) (f : Flow) (block : Nat) : State :=
  let n := sget 0 f.fails block + 1
  let s : State := { s.bump kOtdinDiscards 1 with host := { s.host with crcDiscard := true } }
  if n < 16 then (s.modFlow f.id fun f => { f with fails := sset 0 f.fails block n }).bulkNak f [block]
  else ((s.bump kBulkCrcLimits 1).event ethSrc 0x1207 (u32 f.channel ++ u32 f.id)).closeFlow f

/-- `DATA`. `crc`: the block's `OB_CRC`, compared with the one computed over its header (whose unused fields are 0: DEDUCED, log 35) and
its body; `flash`: nature's report of the flash writes, where it ends an upload. A block is activity of its flow's session (R415). -/
def execBulkData (flow block : Nat) (body : Bytes) (crc : Nat) (flash : FlashReport) (s : State) : Res :=
  s.onFlow flow fun s f =>
    if f.outbound then s
    else if crc ≠ obCrc 0 f.channel flow block 0 0 body then s.badBlock f block
    else
      let s := (s.heard flow).touch f.session
      if block < f.next ∨ f.window ≤ block ∨ 8192 < body.length ∨ (f.held.any fun h => h.1 = block) = true then s
      else
        let gap := f.missing f.seen block
        let s := s.modFlow flow fun f =>
          Flow.absorb (f.held.length + 1) { f with held := f.held ++ [(block, body)], seen := max f.seen (block + 1), sinceAck := f.sinceAck + 1,
                                                   lastBlock := s.time.cycles, fails := sset 0 f.fails block 0 }
        let s := (s.bulkNak f gap).takeBytes flow
        let s := match s.flow flow with | some f => if 32 ≤ f.sinceAck then s.sendAck f (s.grant f) else s | none => s
        s.tryFinish flow flash

/-- `CLOSE` from the host, with the flow's block count. On a flow to the host it ends the flow. -/
def execBulkClose (flow blocks : Nat) (flash : FlashReport) (s : State) : Res :=
  s.onFlow flow fun s f =>
    if f.outbound then (s.closeFlow f).sendHost (.bulk flow 6 f.channel 0 0 (u32 0))
    else
      let s := (s.heard flow).modFlow flow fun f => { f with count := some blocks, seen := max f.seen blocks }
      (s.bulkNak f (f.missing (max f.next f.seen) blocks)).tryFinish flow flash

/-- `ACK_TIMER`: 50 µs after the last block. -/
def execAckTimer (flow : Nat) (s : State) : Res :=
  .next (match s.flow flow with
    | none => s
    | some f => if f.outbound ∨ f.sinceAck = 0 ∨ s.time.cycles < f.lastBlock + 20000 then s else s.sendAck f (s.grant f))

/-- `BULK_FLOW_TIMEOUT`: 30 s with nothing from the far end. -/
def execBulkFlowTimeout (flow : Nat) (s : State) : Res :=
  .next (match s.flow flow with
    | none => s
    | some f => if s.time.cycles < f.lastRx + 30 * secCycles then s
      else (s.event ethSrc 0x6502 (u32 f.channel ++ u32 f.id)).closeFlow f)

/-- A checkpoint has waited 30 s for its flow. -/
def State.waitedOut (s : State) (c : Option Checkpoint) : Bool :=
  match c with | some c => decide (c.flow = none ∧ c.since + 30 * secCycles ≤ s.time.cycles) | none => false
/-- `CHECKPOINT_SKIPPED`: no flow within 30 s, of the checkpoint next to stream or of the one behind it. -/
def execCheckpointSkipped (s : State) : Res :=
  let s := if s.waitedOut s.snap.nextCheckpoint then { s with snap := { s.snap with nextCheckpoint := none } }.event wardenSrc 0x3305 else s
  .next (if s.waitedOut s.snap.checkpoint then s.endCheckpoint.event wardenSrc 0x3305 else s)

end Sys2Proof.Machine
end

