-- ==== Sys2Proof/Machine/Power.lean ====
section
/-! DEFINITION. Clocks, stretching, supplies and monitors (17, 18, 21). -/

namespace Sys2Proof.Machine

/-! ### Stretching (R491 to R495) -/

/-- The stand of a compute die in service: the stand of the site it serves (R15). -/
def State.standOfDie (s : State) (die : Nat) : Option Nat := (s.start.dieMap.findIdx? fun d => d = die).map fun l => l / 6

/-- The clock instances that a sensor's demand stretches (R492): a die number, or 128 + stack. -/
def State.stretchedBy (s : State) (sensor : Nat) : List Nat :=
  if sensor < 52 then (s.standOfDie sensor).toList
  else if sensor < 84 then [(sensor - 52) / 4]
  else if sensor < 92 then [44 + (sensor - 84)]
  else if sensor < 96 then [2 * (sensor - 92), 2 * (sensor - 92) + 1]
  else if 128 ≤ sensor ∧ sensor < 160 then [(sensor - 128) / 4]
  else []
/-- An instance that can be stretched: ARITH or MEDIA. -/
def stretches (i : Nat) : Bool := decide (i < 8 ∨ (44 ≤ i ∧ i < 52))
/-- The largest demand on an instance: thermal, power, switch-over. -/
def State.demandOn (s : State) (i : Nat) : Nat :=
  let thermal := (s.power.thermal.map fun e => if (s.stretchedBy e.1).contains i then e.2 else 0).foldl max 0
  max (max thermal s.power.powerDemand) (if s.power.switching then 32 else 0)

/-- `STRETCH_TIME` of a stand. -/
def kStretch (stand : Nat) : Nat := objKey 0x9030 (stand + 1)
/-- The stretch of the time since it was last counted: at level L, L of every 64 + L. -/
def State.accrueStretch (s : State) : State :=
  let n := s.time.cycles - s.power.stretchMark
  let s := (List.range 8).foldl (fun s i => let l := (s.inst i).level; if l = 0 then s else s.bump (kStretch i) (5 * n * l / (2 * (64 + l)))) s
  { s with power := { s.power with stretchMark := s.time.cycles } }

/-- Rises of the level take effect at once (R491). -/
def State.restretch (s : State) : State :=
  ((List.range 52).filter stretches).foldl (fun s i =>
    if (s.inst i).level < s.demandOn i then s.modInst i fun c => { c with level := s.demandOn i, stretched := true } else s) s.accrueStretch

/-- `STRETCH_STEP_DOWN`: one level per microsecond. -/
def execStretchStepDown (inst : Nat) (s : State) : Res :=
  .next (if !stretches inst ∨ (s.inst inst).level ≤ s.demandOn inst ∨ s.time.cycles < sget 0 s.power.fallAt inst + 400 then s
    else
      let s := s.accrueStretch.modInst inst fun c => { c with level := c.level - 1 }
      { s with power := { s.power with fallAt := sset 0 s.power.fallAt inst s.time.cycles } })

/-- A sensor takes a reading. -/
def State.noteTemp (s : State) (sensor t : Nat) : State := { s with power := { s.power with temps := sset 0 s.power.temps sensor t } }

/-- `THERMAL_DEMAND_UPDATE`: a sensor at its threshold raises its demand every 10 µs; 2 °C below, the demand falls every
100 µs. The first demand above 0 in a step raises `THROTTLE_THERMAL` (R495). -/
def execThermalDemandUpdate (sensor reading : Nat) (s : State) : Res :=
  let s := s.noteTemp sensor reading
  let d := sget 0 s.power.thermal sensor
  let since := s.time.cycles - sget 0 s.power.thermalAt sensor
  let set (n : Nat) : State := { s with power := { s.power with thermal := sset 0 s.power.thermal sensor n,
                                                                thermalAt := sset 0 s.power.thermalAt sensor s.time.cycles } }
  let t := if throttleAt sensor ≤ reading ∧ 4000 ≤ since ∧ d < 64 then (set (d + 1)).restretch
    else if reading + 2 ≤ throttleAt sensor ∧ 40000 ≤ since ∧ 0 < d then set (d - 1)
    else s
  .next (if 0 < sget 0 t.power.thermal sensor then t.eventOnce 0x700000 s.stepKey wardenSrc 0x7010 (u32 sensor ++ u32 reading) else t)

/-- `POWER_SAMPLE`: the input power in W. -/
def execPowerSample (watts : Nat) (s : State) : Res :=
  let p := s.power
  let run := if 6500 < watts then p.powerRun + 1 else 0
  let d := p.powerDemand
  let rise := (if 7200 < watts then 8 else 0) + (if 100 < run then 1 else 0)
  let d := if watts ≤ 6500 then d - 1 else min 64 (d + rise)
  let s := { s with power := { p with power := watts, powerRun := run, powerDemand := d } }.restretch
  .next (if 0 < d then s.eventOnce 0x700001 s.stepKey wardenSrc 0x7011 (u32 watts) else s)

/-! ### Sources (R489, R490) -/

/-- `PLL_SWITCHOVERS`. -/
def kPllSwitchovers : Nat := objKey 0x9011 0
/-- The source an instance runs on, or switches to. -/
def ClkInst.target (c : ClkInst) : Nat := c.switching.getD c.source

/-- `PLL_LOCK_LOSS`: PLL A, or B, of an instance. -/
def execPllLockLoss (inst : Nat) (pllB : Bool) (s : State) : Res :=
  let s := s.modInst inst fun c => { c with lockA := c.lockA && pllB, lockB := c.lockB && !pllB, lockLost := true }
  let c := s.inst inst
  let mine := if pllB then 1 else 0
  .next (if c.target ≠ mine then s
    else if (if pllB then c.lockA else c.lockB) then
      ((s.beginSwitch inst (1 - mine)).bump kPllSwitchovers 1).event wardenSrc 0x7020 (u32 inst)
    else (s.beginSwitch inst 2).fault wardenSrc 0x7021)

/-- `STANDBY_RELOCK`: a standby PLL that has lost lock tries again; `ok`: it locks. -/
def execStandbyRelock (inst : Nat) (pllB ok : Bool) (s : State) : Res :=
  .next (if !ok ∨ (s.inst inst).target = (if pllB then 1 else 0) then s
    else s.modInst inst fun c => if pllB then { c with lockB := true } else { c with lockA := true })

/-- `CLOCK_SWITCH_DONE`: the instance runs on its new source. -/
def execClockSwitchDone (inst : Nat) (s : State) : Res :=
  .next (match (s.inst inst).switching with
    | some x => s.modInst inst fun c => { c with source := x, switching := none, switched := true }
    | none => s)

/-! ### Supplies (R500 to R504) -/

/-- The inputs read. -/
def State.noteInputs (s : State) (main backup : Nat) : State := { s with power := { s.power with main := main, backup := backup } }
def kSwitchovers : Nat := objKey 0x9022 0
def kFeedReturns : Nat := objKey 0x9023 0
/-- A switch-over begins; `back`: it is one of R502. -/
def State.switchFeed (s : State) (back : Bool) : State := { s with power := { s.power with switching := true, returning := back } }.restretch

/-- `SWITCH_OVER_START`: the active feed has read below 40 V for 5 µs, the other reads at least 40 V. Readings in mV. -/
def execSwitchOverStart (main backup : Nat) (s : State) : Res :=
  let s := s.noteInputs main backup
  .next (if s.power.switching then s
    else if s.power.feed = 0 then (if main < 40000 ∧ 40000 ≤ backup then s.switchFeed false else s)
    else if backup < 40000 ∧ 40000 ≤ main then s.switchFeed true else s)

/-- `RETURN_TO_MAIN`: MAIN has read between 42 V and 58 V for 1 s. -/
def execReturnToMain (main : Nat) (s : State) : Res :=
  let s := s.noteInputs main s.power.backup
  .next (if s.power.switching ∨ s.power.feed = 0 ∨ s.rwValue 0x9001 0 1 ≠ 1 ∨ main < 42000 ∨ 58000 < main then s else s.switchFeed true)

/-- `SWITCH_OVER_COMPLETE`. -/
def execSwitchOverComplete (s : State) : Res :=
  .next (if !s.power.switching then s
    else
      let back := s.power.returning
      let s := { s with power := { s.power with switching := false, returning := false, feed := if back then 0 else 1 } }
      if back then (s.bump kFeedReturns 1).event wardenSrc 0x7001
      else ((s.bump kSwitchovers 1).stress 16384).event wardenSrc 0x7000)

/-- The spine dies send a `FAULT_NOTICE` from hardware on every port that is up (R477). -/
def State.hardNotice (s : State) (code : Nat) : State :=
  ((List.range 16).filter fun n => (s.port n).state = .up).foldl (fun s n =>
    s.sendOn n wardenSrc 10 (s.port n).farModule code (u16 wardenSrc)) s

/-- `SUPPLY_LOST`: both inputs have read below 40 V for 5 µs. The notices go out, and the module powers down. -/
def execSupplyLost (main backup : Nat) (s : State) : Res :=
  let s := s.noteInputs main backup
  .next (if 40000 ≤ main ∨ 40000 ≤ backup ∨ !s.start.powered then s
    else ((s.fault wardenSrc 0x7003).hardNotice 0x7003).restarted 0 2 false)

/-- `FEED_BACKUP_LOW`: the inactive input has read out of range, or within it, for 1 s. -/
def execFeedBackupLow (mv : Nat) (s : State) : Res :=
  let s := if s.power.feed = 0 then s.noteInputs s.power.main mv else s.noteInputs mv s.power.backup
  .next (if 40000 ≤ mv ∧ mv ≤ 58000 then { s with power := { s.power with lowRaised := false } }
    else if s.power.lowRaised then s
    else { s with power := { s.power with lowRaised := true } }.event wardenSrc 0x7002)

/-! ### Monitors (R475, R504) -/

/-- The frequency an instance is commanded to, in kHz; none while it is stopped. CFG runs at 25 MHz up to step 6 of the clock order, and
in stump mode (R499, R528). -/
def State.commandedKHz (s : State) (i : Nat) : Option Nat :=
  let c := s.inst i
  match c.switching with
  | some _ => none
  | none =>
    let f := sourceKHz (clkDomain i) c.source
    if c.source = 3 then none
    else if i = 53 ∧ (s.start.stage ≤ 3 ∨ s.start.stump.isSome) then some 25000
    else
      let f := if i = 53 then f / s.active 0x9000 7 1 else f
      some (f * 64 / (64 + c.level))

/-- Readings beyond their fault limits, as (key, fault code, sensor, reading). Sensors are numbered by the model: supplies 0
MAIN, 1 BACKUP, 2 + rail; clocks by instance, 57 REFCLK_CORE; temperatures by die, or 128 + stack. -/
def State.beyond (s : State) (r : MonitorReport) : List (Nat × Nat × Nat × Nat) :=
  let supply := ([(0, r.main), (1, r.backup)].filter fun e => decide (60000 < e.2)).map fun e => (0x1000 + e.1, 0x7F00, e.1, e.2)
  let rails := (r.rails.filter fun e => decide (e.2.1 < 20 * (max e.2.1 e.2.2 - min e.2.1 e.2.2))).map fun e => (0x1002 + e.1, 0x7F00, e.1 + 2, e.2.2)
  let clocks := (r.clocks.filter fun e => match s.commandedKHz e.1 with
    | some f => decide (f < 50 * (max f e.2 - min f e.2)) | none => false).map fun e => (0x2000 + e.1, 0x7F01, e.1, e.2)
  let ref := if 100000000 < 1000 * (max r.refclk 100000000 - min r.refclk 100000000) then [(0x2039, 0x7F01, 57, r.refclk)] else []
  let temps := (r.temps.filter fun e => decide (throttleAt e.1 + 10 ≤ e.2)).map fun e => (0x3000 + e.1, 0x7F02, e.1, e.2)
  supply ++ rails ++ clocks ++ ref ++ temps

/-- `MONITOR_SAMPLE`: the readings are kept; one beyond its limit for the 3rd successive sample raises its fault. -/
def execMonitorSample (r : MonitorReport) (s : State) : Res :=
  let s := s.noteInputs r.main r.backup
  let s := r.temps.foldl (fun s e => s.noteTemp e.1 e.2) s
  let s := r.clocks.foldl (fun s e => s.modInst e.1 fun c => { c with kHz := e.2 }) s
  let s := { s with power := { s.power with inlet := r.inlet, outlet := r.outlet }, start := { s.start with tamperHigh := r.tamper } }
  let bad := s.beyond r
  let runs := bad.foldl (fun m e => sset 0 m e.1 (sget 0 s.safe.monitorRun e.1 + 1)) []
  let s := { s with safe := { s.safe with monitorRun := runs } }
  .next ((bad.filter fun e => decide (sget 0 runs e.1 = 3)).foldl (fun s e => s.fault wardenSrc e.2.1 (u32 e.2.2.1 ++ u32 e.2.2.2)) s)

/-- `COOLANT_DELTA_HIGH`: the readings that have stood for 1 s. -/
def execCoolantDeltaHigh (inlet outlet : Nat) (s : State) : Res :=
  let s := { s with power := { s.power with inlet := inlet, outlet := outlet } }
  let d := elemVal0 fFP32 outlet - elemVal0 fFP32 inlet
  .next (if 16 < d ∧ !s.power.deltaHigh then { s with power := { s.power with deltaHigh := true } }.event wardenSrc 0x7030
    else if d ≤ 14 then { s with power := { s.power with deltaHigh := false } }
    else s)

/-- `ENVIRONMENT_RECORD`: once every 1,024 beats. -/
def execEnvironmentRecord (s : State) : Res :=
  .next (if s.beat / 1024 = s.power.envBeat / 1024 then s
    else
      let p := s.power
      let hot := (p.temps.map fun e => e.2).foldl max 0
      { s with power := { p with envBeat := s.beat } }.telemetry telemetrySrc 6
        (u32 (f32Code (p.power / 1000)) ++ u32 (f32Code (p.main / 1000)) ++ u32 (f32Code (p.backup / 1000)) ++ u16 s.snap.index ++ u8 hot ++ u8 p.feed
          ++ List.replicate 8 0#8))

end Sys2Proof.Machine
end

