-- ==== Sys2Proof/Machine/Care.lean ====
section
/-! DEFINITION. Tests of units and checkers, lockstep, scrubbing, refresh and temperature, CXL links (10, 11, 17, 20). -/

namespace Sys2Proof.Machine

/-! ### Tests and lockstep (R471 to R477) -/

/-- `UNIT_KAT_PASSES`, `SELFTEST_PASSES`. -/
def kUnitKats : Nat := objKey 0x8011 0
def kSelfTests : Nat := objKey 0x8012 0

/-- Physical die `d` has a known-answer test of R471 to run: it is a compute die in service, a base die or a bucking die. -/
def State.testsUnits (s : State) (d : Nat) : Bool := s.start.dieMap.contains d || decide (52 ≤ d ∧ d < 92)
/-- `UNIT_KAT_TEST` of the unit with source ID `unit`, while a plan is loaded. `ok`: its result is the value loaded at start. -/
def execUnitKatTest (unit : Nat) (ok : Bool) (s : State) : Res :=
  .next (if s.job.plan.isNone ∨ !s.testsUnits (unit / 512) then s
    else
      let s := { s with safe := { s.safe with unitTest := sset 0 s.safe.unitTest unit s.time.cycles } }
      if ok then s.bump kUnitKats 1 else s.fault unit 0x1205 (u16 unit))

/-- Background work runs: start-up has passed stage 8, outside stump mode (R540). -/
def State.background (s : State) : Bool := s.start.powered && s.start.stump.isNone && decide (s.start.stage = 9)

/-- `CHECKER_SELF_TEST` of a checker, every 60 s. `waits`: a retry is in progress; `ok`: the injected error is reported. -/
def execCheckerSelfTest (checker : Nat) (waits ok : Bool) (s : State) : Res :=
  let last := sget 0 s.safe.selfTest checker
  .next (if !s.background ∨ s.time.cycles < last + 60 * secCycles then s
    else if waits then { s with safe := { s.safe with selftestDue := true } }
    else
      let s := { s with safe := { s.safe with selftestDue := false, selfTest := sset 0 s.safe.selfTest checker s.time.cycles } }
      if ok then s.bump kSelfTests 1 else s.fault checker 0x1206 (u16 checker))

/-- Physical die `d` has a controller of paired cores: it is a compute die in service, a base, bucking or edge die (R472). -/
def State.controls (s : State) (d : Nat) : Bool := s.testsUnits d || decide (96 ≤ d ∧ d < 99)
/-- `CONTROLLER_LOCKSTEP`: the controller with source ID `source`. -/
def execControllerLockstep (source : Nat) (s : State) : Res :=
  .next (if s.controls (source / 512) then s.fault source 0x1201 (u16 source) else s)

/-- `WARDEN_LOCKSTEP`: commit is inhibited, the units stop, the warden is held, the spine sends the notices. Nothing is
recorded. -/
def execWardenLockstep (s : State) : Res :=
  let s := (s.stopUnits.faultCheckpoint wardenSrc 0x1200).hardNotice 0x1200
  .next { s with
    safe := { s.safe with latch := true, inhibit := true },
    job := if s.job.plan.isSome then { s.job with state := .fault, pendingPause := none, resumeAt := none, stopping := false } else s.job,
    start := { s.start with wardenHeld := true } }

/-! ### Scrubbing (R542, R544) -/

/-- The period of a memory class in cycles: 0 SRAM, 1 HBM, 2 CXL (R540). -/
def scrubPeriod : Nat → Nat
  | 0 => 10 * secCycles
  | 1 => 3600 * secCycles
  | _ => 86400 * secCycles

/-- A memory that is scrubbed: no bank in RETENTION or OFF, no cluster that is OFF, no die out of service (R498, R542). -/
def State.scrubbed (s : State) (c : MemCheck) : Bool :=
  match c with
  | .sram die code line _ =>
    if 52 ≤ die then true
    else s.start.dieMap.contains die &&
      (if code % 32 < 12 ∧ code ≠ 0x18 ∧ !decide (0x10 ≤ code ∧ code < 0x20) then
          match s.clusterAt die (code % 32) with | some cl => (s.stream cl).isSome | none => false
        else
          let b := if code = 0x18 then 48 + line / 0x2000
            else 16 * (code - 0x10) + if line < 0x20000 then line / 0x4000 else 8 + (line - 0x20000) / 0x2000
          decide ((s.bank die b).powerNow = 0))
  | _ => true
/-- The half-bursts that a scrub read reads, counted (R283). -/
def State.noteScrub (s : State) (checks : List MemCheck) : State :=
  checks.foldl (fun s c => match c with | .hbm a _ => s.bump (kStackReads (stackOf a)) 1 | _ => s) s

/-- `SCRUB_READ` of a memory class, past stage 8 of start-up (R540). `checks`: the reads, as nature delivers them; `last`: they end a
pass. -/
def execScrubRead (cls : Nat) (checks : List MemCheck) (last : Bool) (s : State) : Res :=
  .next (if 2 < cls ∨ !s.background then s
    else
      let mine := checks.filter s.scrubbed
      let (ok, s) := (s.noteScrub mine).checked mine
      if !ok ∨ !last then s
      else
        let b := s.bg
        let now := s.time.cycles
        { s with bg := { b with passes := supd 0 b.passes cls (· + 1), passMs := sset 0 b.passMs cls ((now - sget 0 b.passBegan cls) / msCycles),
                                passBegan := sset 0 b.passBegan cls now, behind := sset false b.behind cls false } })

/-- `SCRUB_BEHIND`: a pass has taken more than twice its period. -/
def execScrubBehind (cls : Nat) (s : State) : Res :=
  .next (if 2 < cls ∨ !s.background ∨ sget false s.bg.behind cls ∨ s.time.cycles < sget 0 s.bg.passBegan cls + 2 * scrubPeriod cls then s
    else { s with bg := { s.bg with behind := sset false s.bg.behind cls true } }.event wardenSrc 0x1300 (u32 cls))

/-! ### Stacks (R259, R264, R543) -/

/-- `HBM_REFRESH_DUE`: the refresh is served first on the stack's channels, out of every requester's time; no value changes. -/
def execHbmRefreshDue (_stack : Nat) (s : State) : Res := .next s

/-- `STACK_TEMP_READ`: refresh is doubled at 85 °C or more. -/
def execStackTempRead (stack temp : Nat) (s : State) : Res :=
  .next ((s.modBase stack fun b => { b with temp := temp, refreshHigh := decide (85 ≤ temp) }).noteTemp (128 + stack) temp)

/-- `HBM_CALIBRATION`: made inside the time of refresh; no value changes. -/
def execHbmCalibration (_stack : Nat) (s : State) : Res := .next s

/-! ### CXL links (R297, R298) -/

/-- `CXL_LINK_RETRAINS`. -/
def kCxlRetrains : Nat := objKey 0x4056 0
/-- The source ID of a CXL die. -/
def cxlSrc (port : Nat) : Nat := dieSrc (97 + port)
def State.cxlDevice (s : State) (port dev : Nat) : Option CxlDevice := s.cxl.devices.find? fun d => decide (d.port = port ∧ d.dev = dev)
def State.modDevice (s : State) (port dev : Nat) (f : CxlDevice → CxlDevice) : State :=
  { s with cxl := { s.cxl with devices := s.cxl.devices.map fun d => if d.port = port ∧ d.dev = dev then f d else d } }

/-- `CXL_LINK_RETRAIN`: a link is back within 1 ms, at this speed and width. A rate below 32 GT/s (speed 0) leaves the link unused
(R288): it is down. -/
def execCxlLinkRetrain (port dev speed width : Nat) (s : State) : Res :=
  .next (match s.cxlDevice port dev with
    | none => s
    | some d =>
      let s := s.modDevice port dev fun d => { d with link := if speed = 0 then 0 else 2, speed := speed, width := width }
      let s := ((s.bump kCxlRetrains 1).stress 4096).event (cxlSrc port) 0x6400
      if speed < d.foundSpeed ∨ width < d.foundWidth then s.event (cxlSrc port) 0x6402 else s)

/-- A plan reserve is mapped to a device. -/
def State.reserveOn (s : State) (d : CxlDevice) : Bool :=
  let stashes := match s.job.plan with | some p => p.stash.filter fun x : StashDecl => decide (0 < x.cxlSize) | none => []
  if s.cxl.interleaved then !stashes.isEmpty
  else stashes.any fun x => decide (0 < d.window ∧ x.cxlBase < d.base + d.window ∧ d.base < x.cxlBase + x.cxlSize)

/-- The byte range of a device in the partner space: the parts lie in device order. -/
def partnerRange : List CxlDevice → CxlDevice → Nat → Nat × Nat
  | [], _, o => (o, 0)
  | d :: ds, x, o => if d = x then (o, d.partner) else partnerRange ds x (o + d.partner)

/-- The byte ranges of the four slots of the partner area (R441): own 0 and 1, partner 0 and 1. -/
def State.slotRanges (s : State) : List (Nat × Nat) :=
  let z (a b n : Nat) := slotBytes (max (max a b) n)
  let zo := z (s.ownSlot 0).pages.length (s.ownSlot 1).pages.length s.cow.marked.length
  let zp := z (s.partnerSlot 0).pages.length (s.partnerSlot 1).pages.length s.snap.heldPages
  [(pageBytes, zo), (pageBytes + zo, zo), (pageBytes + 2 * zo, zp), (pageBytes + 2 * zo + zp, zp)]

/-- The slots of the partner area whose ranges, or whose first page, meet the range `r`: 0 and 1 own, 2 and 3 partner slots. -/
def State.slotsHit (s : State) (r : Nat × Nat) : List Nat :=
  (s.slotRanges.zipIdx.filter fun e => !apart e.1 r || !apart (0, pageBytes) r).map fun e => e.2
/-- The slots of a list are empty; a checkpoint read from one of them is abandoned. -/
def State.loseSlots (s : State) (port : Nat) (lost : List Nat) : State :=
  let s := lost.foldl (fun s i => if i < 2 then s.modOwn i fun _ => {} else s.modPartner (i - 2) fun _ => {}) s
  let s := s.event (cxlSrc port) 0x6403
  let hit (c : Option Checkpoint) : Bool := match c with | some c => lost.contains c.slot | none => false
  let s := if hit s.snap.nextCheckpoint then { s with snap := { s.snap with nextCheckpoint := none } }.event wardenSrc 0x3306 else s
  if hit s.snap.checkpoint then s.abandonCheckpoint else s
/-- What a device holds of the partner area is lost: its slots, or with the directory every slot. -/
def State.partnerLost (s : State) (d : CxlDevice) : State :=
  let r := partnerRange s.cxl.devices d 0
  if r.2 = 0 then s else s.loseSlots d.port (s.slotsHit r)

/-- `CXL_LINK_DOWN`: a link has been down for more than 1 ms: a fault where a plan reserve is mapped to it. -/
def execCxlLinkDown (port dev : Nat) (s : State) : Res :=
  .next (match s.cxlDevice port dev with
    | none => s
    | some d =>
      if d.link = 0 then s
      else
        let t := s.modDevice port dev fun d => { d with link := 0 }
        let t := if s.reserveOn d then t.fault (cxlSrc port) 0x6401 else t.event (cxlSrc port) 0x6401
        t.partnerLost { d with link := 0 })

end Sys2Proof.Machine
end

