-- ==== Sys2Proof/Machine/JobCmds.lean ====
section
/-! DEFINITION. The job: loading a plan, the job commands, steps, phase windows, commit and clearance, pause and resume
(03). -/

namespace Sys2Proof.Machine

/-! ### Loading a plan (R59, R62) -/

/-- A load fails with a reason. -/
def State.loadFails (s : State) (reason : Nat) : State :=
  { s with job := { s.job with loading := none, loadResult := reason } }.event wardenSrc 0x2101 (u8 reason)

/-- `PLAN_SLOT`: the write starts a load; with a plan loaded, or without time, the load fails at once (R59 step 1). -/
def execPlanSlot (q : Req) (s : State) : Res :=
  .next (s.serveWrite q 0x2000 4 1 fun s v =>
    if 7 < v then refuse s abRange
    else if s.job.loading.isSome ∨ (s.host.flows.any fun f => decide (f.channel = 1 ∧ f.sub = v)) = true then refuse s abBusy
    else
      let s := s.putValue (objKey 0x2000 4) q.data false
      accept (if s.job.state ≠ .empty then s.loadFails 1 else if s.time.state ≠ .locked then s.loadFails 2
        else { s with job := { s.job with loading := some v } }))

/-- Counters that count since load. -/
def sinceLoad (k : Nat) : Bool :=
  let i := k / 256
  let o := (k - ctrlBase) % 2 ^ 24
  let die := (k - ctrlBase) / 2 ^ 24
  if 2 ^ 50 ≤ k then true
  else if ctrlBase ≤ k then
    (decide (52 ≤ die ∧ die < 84) && [0x20, 0x28, 0x30].contains o) || (decide (84 ≤ die ∧ die < 92) && [0x08, 0x10, 0x18].contains o)
  else
    [0x3001, 0x3002, 0x3003, 0x3004, 0x3005, 0x3010, 0x3011, 0x3012, 0x3013, 0x3020, 0x3021, 0x3022, 0x3030, 0x3031, 0x3032, 0x4010, 0x4011,
     0x4012, 0x4013, 0x4014, 0x4015, 0x4022, 0x4032, 0x4033, 0x5030, 0x5031, 0x5032, 0x6020, 0x6021, 0x6022, 0x6023, 0x6024, 0x6025, 0x7013,
     0x7020, 0x7021, 0x7030, 0x7031, 0x8010, 0x8011, 0x8150, 0x8151, 0x8152, 0x9030].contains i || decide (k = kFaultCount)

/-- HBM and SRAM as a load leaves them: the plan area, then the `HBM_INIT` copies, gradient buffers and every line of SRAM zero
(R59, R249, R269). -/
def State.loadedMem (s : State) (img : Bytes) (p : Plan) : List (Nat × Byte) :=
  let mem := initMem img (writeBytes s.mem p.planArea.1 (s.planAreaBytes img))
  clearRange (p.updates.foldl (fun m d => clearRange m (udGrad d) (16 * udElems d)) mem) sramBase (ctrlBase - sramBase)

/-- The clusters as a load leaves them: every bound register at `SC_INITIAL`. -/
def loadedClusters (p : Plan) : List (Nat × Cluster) :=
  let bounds := p.classes.foldl (fun m c => sset 0 m c.cls c.initial) []
  if bounds = [] then [] else (List.range 576).map fun k => (k, { bounds := bounds })

/-- The gate tree of a die with cluster mask `mask` (R51, R497): 1 is a closed gate. -/
def loadedGates (g : Gates) (mask : Nat) : Gates :=
  let closed := 0xFFF - mask % 0x1000
  let regions := ((List.range 3).map fun r => if (closed / 16 ^ r) % 16 = 15 then 2 ^ r else 0).sum
  { g with clusters := closed, regions := regions, die := decide (regions = 7) }

/-- The link record of this module (R380), sent on every port that is up. -/
def State.linkRecords (s : State) (ports : List Nat) : State :=
  match s.job.plan with
  | none => s
  | some p => (ports.filter fun n => (s.port n).state = .up).foldl (fun s n =>
      s.sendOn n wardenSrc 9 (s.peer n).module 0 (u16 p.moduleIndex ++ u64 p.jobId ++ p.setDigest)) s

/-- The plan of an image becomes the loaded plan (R59 steps 6 to 8). -/
def State.install (s : State) (img : Bytes) : State :=
  let p := s.planOf img
  let mem := s.loadedMem img p
  let used := (p.peers.zipIdx.filter fun e => e.1.used).map fun (e, n) => (n, e.module)
  let weights := (p.ingest.zipIdx.filter fun e => bjType e.1 = 4).foldl
    (fun m (d, i) => sset [] m i (readBytes mem (fieldAt d 8 8) (fieldAt d 0x10 4))) []
  let s : State := { s with
    mem := mem, clusters := loadedClusters p, banks := [], limbers := [], stash := {}, cow := { marked := markedPages p.updates },
    job := { state := .loaded, plan := some p },
    upd := { partialSeen := s.upd.partialSeen },
    stats := { s.stats with steps := [], marks := [0, 0, 0, 0] },
    ctr := s.ctr.filter fun e : Nat × Nat => !sinceLoad e.1,
    sync := { values := (p.sync.filter fun d => d.id < 0x3E00).foldl (fun m d => sset 0 m d.id d.initial) [] },
    net := { s.net with graph := [(p.moduleIndex, used)], inbound := [], arbWaitMax := 0 },
    ingest := { load := s.ingest.load, weights := weights },
    snap := { s.snap with requested := [], members := [], capture := none, paired := none, pairSent := false, heldFor := none, coFed := false,
                          partnerFeeds := [0, 0], heldPages := 0, heldCoFed := false, restore := {} },
    safe := { s.safe with latch := false, inhibit := false, first := {} },
    power := { s.power with
      gates := (p.dieMask.zipIdx.map fun (m, n) => (s.physDie n, m)).foldl (fun g (d, m) => supd {} g d fun x => loadedGates x m) s.power.gates,
      inst := (List.range clkInstances).foldl (fun m i => supd {} m i fun c => { c with lockA := true, lockB := true }) s.power.inst } }
  (s.event wardenSrc 0x2100).linkRecords (List.range 16)

/-- `PLAN_LOAD_COMPLETE`. -/
def execPlanLoadComplete (s : State) : Res :=
  .next (match s.job.loading with
    | none => s
    | some slot =>
      let img := sget [] s.host.library slot
      let r := s.planReason img
      if r ≠ 0 then s.loadFails r else s.install img)

/-! ### Job commands (R64, R65) -/

/-- A write of `JOB_COMMAND` with value `n`. -/
def State.jobCommand (s : State) (q : Req) (n : Nat) (act : State → Answer) : State :=
  if q.data = u8 n then s.serveWrite q 0x2000 1 1 fun s _ => act s else s

/-- `COMMAND_BEAT`, `COMMAND_STEP`. -/
def State.commandBeat (s : State) : Nat := s.rwValue 0x2000 2 0
def State.commandStep (s : State) : Nat := s.rwValue 0x2000 3 0
/-- `COMMAND_BEAT` lies at least `n` beats ahead. -/
def State.beatAhead (s : State) (n : Nat) : Bool := decide (s.stamp + n * 2 ^ 16 ≤ s.commandBeat * 2 ^ 16)

/-- The used neighbours, each with its lowest port. -/
def State.neighbours (s : State) : List (Nat × Nat) :=
  s.usedPorts.foldl (fun l n => if l.any fun e => e.1 = (s.peer n).module then l else l ++ [((s.peer n).module, n)]) []

/-- An accepted command goes to every used neighbour (R65, R388). -/
def State.sendCommand (s : State) (kind beat step : Nat) : State :=
  let s := { s with job := { s.job with myCmd := some ⟨kind, beat, step, s.setDigest⟩ } }
  s.neighbours.foldl (fun s (m, n) => s.sendOn n wardenSrc 5 m step (u8 kind ++ List.replicate 7 0#8 ++ u64 beat ++ s.setDigest)) s

/-- Every used neighbour's newest command is this module's own (R65). -/
def State.commandsAgree (s : State) : Bool := s.neighbours.all fun e => (sget [] s.job.peerCmds e.1).getLast? == s.job.myCmd
/-- `COMMAND_MISMATCH`. -/
def State.commandMismatch (s : State) : State := s.fault wardenSrc 0x2123

/-- `COMMAND`: recorded and acknowledged. -/
def execCommand (m : Msg) (s : State) : Res :=
  .next (s.taken m fun s =>
    let c : JobCmd := ⟨fieldAt m.body 0 1, fieldAt m.body 8 8, m.arg, slice m.body 16 64⟩
    { s with job := { s.job with peerCmds := supd [] s.job.peerCmds m.origin fun l => l ++ [c] } }.e2eAck m)

/-! #### `START` -/

/-- A used port is not ready for `START`: down, or its far end not the planned one; and those whose far end is known to
differ (R380). -/
def State.farDiffers (s : State) (n : Nat) : Bool :=
  let p := s.port n
  p.farKnown && (p.farModule != (s.peer n).module || p.farJob != s.jobId || p.farDigest != s.setDigest)
def State.portUnready (s : State) (n : Nat) : Bool := decide ((s.port n).state ≠ .up) || !(s.port n).farKnown || s.farDiffers n

/-- The signals held at the homes are taken by the present step (R391). -/
def State.rearrive (s : State) : State :=
  s.sync.held.foldl (fun s g => match s.arriveSignal g with | some t => t | none => s) { s with sync := { s.sync with held := [] } }

/-- `START` takes hold: `ARMED`. -/
def State.arm (s : State) : State :=
  let beat := s.commandBeat
  let step := s.commandStep
  let s := { s with job := { s.job with state := .armed, startBeat := beat, startStep := step, frozenAt := none, frozenByPass := false,
                                        pauseTotal := 0, pendingPause := none, resumeAt := none, stopping := false, begun := none, steps := [] } }
  let s := s.rearrive.ingestArm
  ((s.floodPorts s.usedPorts).sendCommand 1 beat step).tryPair

/-- The answer to `START`. -/
def State.startAnswer (s : State) : Answer :=
  match s.job.plan with
  | none => refuse s abState
  | some p =>
    let r := s.snap.restore.state
    if s.job.state ≠ .loaded ∨ r = 1 ∨ r = 3 ∨ r = 4 then refuse s abState
    else if r = 2 ∧ s.commandStep ≠ s.rwValue 0x8130 1 0 + 1 then refuse s abInconsistent
    else if !s.beatAhead (p.leadSteps * p.stepBeats + 1024) then refuse s abCommandBeat
    else if (s.usedPorts.any s.portUnready) = true then
      refuse ((s.usedPorts.filter s.farDiffers).foldl (fun s n => s.event (spineSrc n) 0x6203 (u16 n)) s) abPeersNotReady
    else accept s.arm

def execStart (q : Req) (s : State) : Res := .next (s.jobCommand q 1 State.startAnswer)

/-! #### Pauses -/

/-- Plan time `x` (beats) lies in the FORWARD or BACKWARD window of a step (R74). -/
def State.inPasses (s : State) (x : Nat) : Bool :=
  match s.job.plan with
  | none => false
  | some p =>
    let o : Int := ((x - s.job.startBeat) % p.stepBeats : Nat)
    decide (s.job.startBeat ≤ x) && ([1, 2].any fun w => decide (p.phaseStart.getD w 0 ≤ o ∧ o < p.phaseEnd.getD w 0))

/-- The beat at which the first step begins at or after beat `b` (R73). -/
def State.boundaryAt (s : State) (b : Nat) : Nat :=
  match s.job.plan with
  | none => b
  | some p => s.job.startBeat + s.job.pauseTotal + (b - s.job.pauseTotal - s.job.startBeat + p.stepBeats - 1) / p.stepBeats * p.stepBeats

/-- The answer to `PAUSE_STEP` and `PAUSE_PASS`. -/
def State.pauseAnswer (s : State) (pass : Bool) : Answer :=
  let b := s.commandBeat
  if s.job.state ≠ .running then refuse s abState
  else if s.job.pendingPause.isSome then refuse s abPausePending
  else if !s.beatAhead 1024 then refuse s abCommandBeat
  else
    let inside := pass && s.inPasses (b - s.job.pauseTotal)
    let s := { s with job := { s.job with pendingPause := some ⟨inside, if inside then b else s.boundaryAt b⟩ } }
    accept (s.sendCommand (if pass then 3 else 2) b 0)

def execPauseStep (q : Req) (s : State) : Res := .next (s.jobCommand q 2 fun s => s.pauseAnswer false)
def execPausePass (q : Req) (s : State) : Res := .next (s.jobCommand q 3 fun s => s.pauseAnswer true)

/-- `RESUME`. -/
def execResume (q : Req) (s : State) : Res :=
  .next (s.jobCommand q 4 fun s =>
    if s.job.state ≠ .paused then refuse s abState
    else if !s.beatAhead 1024 then refuse s abCommandBeat
    else
      let b := s.commandBeat
      accept ({ s with job := { s.job with resumeAt := some b } }.sendCommand 4 b 0))

/-! #### `STOP`, `UNLOAD` -/

/-- The job has stopped: its last step has cleared and no pause waits. -/
def State.checkStopped (s : State) : State :=
  let cleared : Bool := match s.job.begun with | some k => s.hasCleared k | none => true
  if s.job.stopping ∧ s.job.state = .running ∧ s.job.pendingPause = none ∧ cleared then
    { s with job := { s.job with state := .stopped, stopping := false } }.event wardenSrc 0x2122
  else s

/-- `STOP`. -/
def execStop (q : Req) (s : State) : Res :=
  .next (s.jobCommand q 5 fun s =>
    match s.job.state with
    | .armed => accept ({ s with job := { s.job with state := .stopped } }.event wardenSrc 0x2122).ingestStop
    | .running | .paused => accept ({ s with job := { s.job with stopping := true } }.ingestStop).checkStopped
    | _ => refuse s abState)

/-- The plan is discarded. -/
def State.unload (s : State) : State :=
  let s := s.closeIngest
  { s with
    job := { s.job with state := .empty, plan := none, loading := none, frozenAt := none, pendingPause := none, resumeAt := none,
                        stopping := false, begun := none, steps := [], peerCmds := [], myCmd := none, firsts := [] },
    clusters := [], limbers := [], sync := {}, cow := {}, stash := {}, net := { s.net with graph := [], inbound := [] },
    upd := { last := s.upd.last, partialSeen := s.upd.partialSeen }, stats := { s.stats with steps := [] },
    ingest := { load := s.ingest.load, ingestStep := s.ingest.ingestStep },
    power := { s.power with gates := smap {} (fun g => { refused := g.refused }) s.power.gates },
    snap := { s.snap with capture := none, requested := [], restore := {} },
    safe := { s.safe with first := {} } }

def execUnload (q : Req) (s : State) : Res :=
  .next (s.jobCommand q 6 fun s =>
    match s.job.state with
    | .loaded | .stopped | .fault => accept s.unload
    | _ => refuse s abState)

/-! ### Steps (R67, R391) -/

/-- The step that begins next. -/
def State.nextStep (s : State) : Nat := match s.job.begun with | some k => k + 1 | none => s.job.startStep
/-- The window of phase `p` of step `k` has ended. -/
def State.windowEnded (s : State) (k p : Nat) : Bool := decide (((s.stepRec k).ended / 2 ^ p) % 2 = 1)
/-- The offset at which a window starts, and ends. -/
def State.winStart (s : State) (p : Nat) : Int := match s.job.plan with | some x => x.phaseStart.getD p 0 | none => 0
def State.winEnd (s : State) (p : Nat) : Int := match s.job.plan with | some x => x.phaseEnd.getD p 0 | none => 0
/-- Every window of the step in progress has ended. -/
def State.stepDone (s : State) : Bool := match s.job.begun with | some k => s.windowEnded k 5 | none => true

/-- Step `k` begins: resetting objects are reset, and the signals held for it added (R391); histogram settings take effect
(R148). -/
def State.beginStep (s : State) (k : Nat) : State :=
  let s := { s with job := { s.job with state := .running, begun := some k } }
  let resets := match s.job.plan with | some p => p.sync.filter (fun d : SyncDecl => d.resets && decide (d.id < 0x3E00)) | none => []
  let s := (resets.foldl (fun s d => s.setSync d.id d.initial) s).rearrive
  s.safePoint 0xA0F0

/-- The checks at the `START` beat: commands, routes, pairing (R65, R383, R438). The result carried where no `PAIR_ACK` has
come is not stated. -/
def State.startChecks (s : State) : Option State :=
  if !s.commandsAgree then some s.commandMismatch
  else if !s.routesDone then some (s.fault wardenSrc 0x6304)
  else if s.partner = 0xFFFF then none
  else match s.snap.paired with
    | some 0 => none
    | some r => some (s.fault wardenSrc 0x6600 (u32 r))
    | none => some (s.nextFree.fault wardenSrc 0x6600 (u32 (Config.freeNat s.free)))

/-- `STEP_START`. -/
def execStepStart (s : State) : Res :=
  let k := s.nextStep
  .next (if (s.job.state ≠ .armed ∧ s.job.state ≠ .running) ∨ s.job.stopping ∨ s.planNow < s.stepBegin k * 2 ^ 16 ∨ !s.stepDone then s
    else if (match s.job.pendingPause with
      | some p => !p.pass && decide (p.beat ≤ s.stepBegin k + s.job.pauseTotal) | none => false) then s
    else if s.job.state = .armed then (match s.startChecks with | some t => t | none => s.beginStep k)
    else s.beginStep k)

/-! ### Phase windows (R68, R71, R72) -/

/-- The bounds admitted for step `k` come into force in the clusters of each stand (R158). -/
def State.applyBounds (s : State) (k : Nat) : State :=
  let mine := s.ingest.bounds.filter fun b => decide (b.1 = k)
  let s := mine.foldl (fun s b =>
    (List.range 72).foldl (fun s i => s.modCl (72 * b.2.1 + i) fun c => c.setBound b.2.2.1 b.2.2.2) s) s
  { s with ingest := { s.ingest with bounds := s.ingest.bounds.filter fun b => decide (k < b.1) } }

/-- What the opening of a window does beside letting its work begin. -/
def State.openPhase (s : State) (k p : Nat) : State :=
  match p with
  | 0 => (s.safePoint 0x5000).openAdmit k
  | 1 => { s with stash := { s.stash with suppressed := none, high := [], reserve := [] } }.applyBounds k
  | 2 => s.openBuffers k
  | 4 => s.openNorm k
  | _ => s

/-- The window of phase `p` of step `k` may open. -/
def State.mayOpen (s : State) (k p : Nat) : Bool :=
  decide (p < 6) && decide (s.job.state = .running ∨ (s.job.state = .armed ∧ p = 0)) && s.job.frozenAt.isNone
    && decide (s.pointOf k (s.winStart p) 0 ≤ s.planNow) && !s.windowOpen k p
    && (List.range p).all (fun j => s.windowEnded k j)
    && (if p = 0 then decide (s.nextStep ≤ k + 1) && !s.neverBegins k && (decide (k = s.job.startStep) || s.windowOpen (k - 1) 0)
          && decide (s.job.startStep ≤ k)
        else decide (s.job.begun = some k))
    && !(match s.job.pendingPause with
      | some q => !q.pass && decide (((q.beat - s.job.pauseTotal : Nat) : Int) * (2 ^ 16 : Nat) ≤ s.pointOf k (s.winStart p) 0) | none => false)

/-- `PHASE_WINDOW_START`. -/
def execPhaseWindowStart (k p : Nat) (s : State) : Res :=
  .next (if !s.mayOpen k p then s
    else
      let s := s.modStep k fun r => { r with opened := r.opened + 2 ^ p }
      let s := if p = 0 then s else { s with job := { s.job with stepNow := k, phaseNow := p } }
      s.openPhase k p)

/-- A cluster has not finished phase `p` of step `k`: an instruction of the phase, or one before it, has not issued, has not
retired, or is a wait that still blocks (R52, R180). -/
def State.clLate (s : State) (k p cl : Nat) : Bool :=
  match s.stream cl with
  | none => false
  | some st =>
    let c := s.cl cl
    let next := st.nextEntry p
    decide (s.clStep cl < k ∧ 0 < next) || decide (s.clStep cl = k ∧ c.index < next)
      || decide (s.clStep cl = k ∧ c.wait ≠ .none ∧ c.index ≤ next)
      || c.unretired.any fun o => decide (o.1 = k ∧ o.2 < next)
/-- The work of phase `p` of step `k` outside the clusters is not retired. -/
def State.workLate (s : State) (k p : Nat) : Bool :=
  match p with
  | 0 => s.ingest.cut.contains k
  | 4 => match s.upd.decision with | some d => decide (d.step ≠ k) | none => true
  | 5 => s.upd.applying
  | _ => false

/-- A phase overruns (R72). -/
def State.overrun (s : State) (k p : Nat) : State :=
  let s := s.modStep k fun r => { r with overran := r.overran + 2 ^ p }
  let s := { s with job := { s.job with overruns := s.job.overruns + 1 } }.event wardenSrc 0x2110 (u8 p ++ u32 k)
  if p = 0 then s else if p ≤ 2 then s.straggle k else s.fault wardenSrc 0x2111 (u8 p ++ u32 k)

/-- What the end of a window does where the module has not faulted. -/
def State.closePhase (s : State) (k p : Nat) : State :=
  match p with
  | 1 =>
    let s := { s with stash := { s.stash with lastHigh := s.stash.high, lastReserve := s.stash.reserve } }
    if s.stash.suppressed = some k then s.straggle k else s
  | 2 => s.releaseStash
  | 5 =>
    let s := (s.closeStats k false).releaseStale k
    s.modStep k fun r => { r with applyEnd := ((s.stepBegin k + s.job.pauseTotal : Nat) + s.winEnd 5).toNat }
  | _ => s

/-- `PHASE_WINDOW_END`. `checks`: what nature reports of the blocks that held rows fetch at the end of APPLY (R267, R352). -/
def execPhaseWindowEnd (k p : Nat) (checks : List MemCheck) (s : State) : Res :=
  let live := decide (s.job.state = .armed ∨ s.job.state = .running ∨ s.job.state = .paused)
  .next (if 6 ≤ p ∨ !live ∨ !s.windowOpen k p ∨ s.windowEnded k p ∨ s.planNow < s.pointOf k (s.winEnd p) 0 ∨ (p = 5 ∧ !(s.stepRec k).committed) then s
    else
      let s := s.modStep k fun r => { r with ended := r.ended + 2 ^ p }
      let s := if p = 0 then s.deadline k else { s with job := { s.job with phaseNow := 6 } }
      let late := s.workLate k p || s.streamed.any fun cl => s.clLate k p cl
      let s := if p = 0 then { s with ingest := { s.ingest with cut := s.ingest.cut.filter fun j => decide (j ≠ k) } } else s
      let s := if late then s.overrun k p else s
      if s.job.state = .fault then s
      else if p = 5 then
        let (ok, s) := s.checked checks
        if ok then s.closePhase k p else s
      else s.closePhase k p)

/-! ### Commit and clearance (R69, R70) -/

/-- APPLY of the decided step, or its skip, begins; what was admitted for a skipped step is told so (R330, R357). -/
def State.beginApply (s : State) (k : Nat) : State :=
  let skip := match s.upd.decision with | some d => decide (d.action = 1) | none => false
  let s := if skip then s.laterReceipts k 3 0 else s
  let s := { s with ingest := { s.ingest with stands := smap {} (fun x : Stand => { x with admitted := x.admitted.filter fun a => decide (k < a.step) })
                                                s.ingest.stands } }
  { s with upd := { s.upd with applying := decide (s.updates ≠ []), written := [], done := [] } }

/-- `COMMIT`: the start of the APPLY window of the step in progress. -/
def execCommit (s : State) : Res :=
  .next (match s.job.begun with
    | none => s
    | some k =>
      if (s.job.state ≠ .running ∧ s.job.state ≠ .paused) ∨ s.safe.latch ∨ (s.stepRec k).committed ∨ !s.windowEnded k 4
          ∨ s.planNow < s.pointOf k (s.winStart 5) 0 then s
      else
        let s := s.modStep k fun r => { r with committed := true }
        { s with job := { s.job with lastCommitted := k } }.beginApply k)

/-- `STEP_CLEAR`: the oldest committed step whose clearance beat has passed. -/
def execStepClear (s : State) : Res :=
  let waiting := (s.job.steps.filter fun e => e.2.committed && !e.2.cleared && decide ((e.2.ended / 2 ^ 5) % 2 = 1)).map fun e => e.1
  .next (match lowest waiting with
    | none => s
    | some k =>
      if s.safe.latch ∨ s.beat < (s.stepRec k).applyEnd + 7813 then s
      else
        let s := s.modStep k fun r => { r with cleared := true }
        let s := { s with job := { s.job with lastCleared := k, steps := s.job.steps.filter fun e : Nat × StepRec => decide (k ≤ e.1) } }
        (s.startCapture k).checkStopped)

/-! ### Pause and resume take effect (R73 to R75) -/

/-- `PAUSE_TAKES_EFFECT`. -/
def execPauseTakesEffect (s : State) : Res :=
  .next (match s.job.pendingPause with
    | none => s
    | some p =>
      if s.job.state ≠ .running ∨ !s.pauseReached ∨ (!p.pass ∧ !s.stepDone) then s
      else if !s.commandsAgree then s.commandMismatch
      else
        let s := { s with job := { s.job with state := .paused, frozenAt := some p.beat, frozenByPass := p.pass, pendingPause := none },
                          clusters := smap {} (fun c : Cluster => { c with pauseSpilled := false }) s.clusters }
        s.event wardenSrc 0x2120)

/-- `RESUME_TAKES_EFFECT`: after a pass-boundary pause every cluster restores its tiles. -/
def execResumeTakesEffect (s : State) : Res :=
  .next (match s.job.resumeAt, s.job.frozenAt with
    | some b, some f =>
      if s.job.state ≠ .paused ∨ s.stamp < b * 2 ^ 16 then s
      else if !s.commandsAgree then s.commandMismatch
      else
        let restore (c : Cluster) : Cluster := if s.job.frozenByPass then (c.resumeRestore 0).resumeRestore 1 else c
        let s := { s with job := { s.job with state := .running, frozenAt := none, frozenByPass := false, resumeAt := none,
                                              pauseTotal := s.job.pauseTotal + (b - f) },
                          clusters := smap {} (fun c => { restore c with pauseSpilled := false }) s.clusters }
        (s.event wardenSrc 0x2121).checkStopped
    | _, _ => s)

end Sys2Proof.Machine
end

