-- ==== Sys2Proof/Machine/Links.lean ====
section
/-! DEFINITION. Spine and skid links: frames, re-sending, training, what arrives in messages, routes (14). -/

namespace Sys2Proof.Machine

/-! ### Frames (R376 to R379) -/

/-- Serial distance on 12 bits from `a` to `b`. -/
def seqGap (a b : Nat) : Nat := (b + 4096 - a % 4096) % 4096

/-- The far end expects frame `n`: everything before it has arrived. -/
def SkidPort.ackTo (p : SkidPort) (n : Nat) : SkidPort :=
  { p with replay := p.replay.dropWhile fun f => decide (1 ≤ seqGap f.seq n ∧ seqGap f.seq n ≤ 2048) }
/-- The far end returns credits of a class. -/
def SkidPort.credit (p : SkidPort) (cls n : Nat) : SkidPort := { p with credits := sset 0 p.credits cls (sget 0 p.credits cls - n) }

/-- `SKID_RETRAINS`, `SKID_DISCARDS`, `SKID_RESENDS` of a port. -/
def kSkidRetrains : Nat := objKey 0x7012 0
def kSkidDiscards : Nat := objKey 0x7013 0
def kSkidResends (n : Nat) : Nat := objKey 0x7011 (n + 1)

/-- A port retrains (R379, R435). -/
def State.retrainPort (s : State) (n : Nat) : State :=
  (((s.modPort n fun p => { p with state := .retraining, retrained := true }).bump kSkidRetrains 1).stress 4096).event (spineSrc n) 0x6201
/-- A frame fails for good. -/
def State.skidFails (s : State) (n : Nat) : State := s.fault (spineSrc n) 0x1104 (u16 n)

/-- Send everything not acknowledged again, from the oldest frame on. -/
def State.resend (s : State) (n : Nat) : State :=
  let fs := (s.port n).replay.map fun f => sealFrame { f with ack := (s.port n).rxSeq }
  let s := (s.modPort n fun p =>
    ({ p with resends := p.resends + fs.length, framesTx := p.framesTx + fs.length }).useSlots s.stamp (p.slotNow s.stamp) fs.length).bump
      (kSkidResends n) fs.length
  { s with out := s.out ++ fs.map fun f => .frame n f }

/-- A frame without payload: 0 idle, 3 NAK. -/
def State.bareFrame (s : State) (n kind cls credits : Nat) : State :=
  s.emit (.frame n (sealFrame { kind := kind, cls := 0, first := false, last := false, seq := 0, ack := (s.port n).rxSeq, creditClass := cls,
                                credits := credits, payload := List.replicate 256 0#8, fcrc := 0 }))

/-- The receiver sends a NAK for the frame it expects; the 4th in a row retrains a port that is up, once for a frame. -/
def State.sendNak (s : State) (n : Nat) : State :=
  let s := (s.modPort n fun p => { p with nakSent := true, rxNakRun := p.rxNakRun + 1 }).bareFrame n 3 0 0
  if (s.port n).rxNakRun < 4 ∨ (s.port n).state ≠ .up then s
  else if (s.port n).rxNakRetrained then s.skidFails n
  else (s.modPort n fun p => { p with rxNakRun := 0, rxNakRetrained := true }).retrainPort n

/-- A frame failed its CRC. -/
def State.badFrame (s : State) (n : Nat) : State := s.modPort n fun p => { p with crcMismatch := true }

/-! ### Messages (R381 to R383) -/

/-- A message from its bytes. -/
def parseMsg (port : Nat) (bs : Bytes) : Msg :=
  { port := port, stamp := fieldAt bs 0 8, source := fieldAt bs 8 2, kind := fieldAt bs 0x0A 1, hops := fieldAt bs 0x0B 1,
    seq := fieldAt bs 0x0C 4, dst := fieldAt bs 0x10 2, origin := fieldAt bs 0x12 2, arg := fieldAt bs 0x18 8, total := fieldAt bs 0x20 8,
    xfer := fieldAt bs 0x28 4, sync := fieldAt bs 0x2C 2, body := slice bs 48 (fieldAt bs 0x14 4) }

/-- A whole message has arrived: discarded, forwarded, or kept for its command. Sync signals and link records are for the
module that receives them. With no plan loaded there are no routes, and only a link record is taken. -/
def State.deliver (s : State) (m : Msg) : State :=
  if m.kind = 0 ∨ 16 ≤ m.kind ∨ 15 < m.hops then s.bump kSkidDiscards 1
  else if s.job.plan.isNone ∧ m.kind ≠ 9 then s
  else if m.kind = 3 ∨ m.kind = 9 ∨ m.dst = s.self then { s with net := { s.net with inbox := s.net.inbox ++ [m] } }
  else if 15 ≤ m.hops then s.bump kSkidDiscards 1
  else match routePort s.net.graph s.self m.origin m.dst with
    | some port => s.putMsg port (some m.port) { m with hops := m.hops + 1 }
    | none => s

/-- A good data frame: its message is assembled (R381). -/
def State.takeFrame (s : State) (n : Nat) (f : SkidFrame) : State :=
  let had := if f.first then [] else sget [] (s.port n).partialMsg f.cls
  let bs := had ++ f.payload
  let s := s.modPort n fun p => { p with partialMsg := sset [] p.partialMsg f.cls (if f.last then [] else bs) }
  if f.last then s.deliver (parseMsg n bs) else s

/-- `ARB_WAIT_EXCEEDED`. -/
def kArbExceeded : Nat := objKey 0x7031 0
/-- An unplanned request waited `ns` on its way (R398). -/
def State.noteWait (s : State) (n ns : Nat) : State :=
  let s := { s with net := { s.net with arbWaitMax := max s.net.arbWaitMax ns } }
  if 4000 < ns ∧ s.isFirst 0x600000 s.stepKey then ((s.markFirst 0x600000 s.stepKey).bump kArbExceeded 1).event (spineSrc n) 0x6303 else s

/-- `SKID_DATA_FRAME` on a port that is up. `wait`: how long an unplanned request waited in this module before it was
delivered, in ns. -/
def execSkidDataFrame (port : Nat) (f : SkidFrame) (wait : Nat) (s : State) : Res :=
  .next (if (s.port port).state ≠ .up then s
    else if !crcOk f then (s.badFrame port).sendNak port
    else if f.seq ≠ (s.port port).rxSeq then (if (s.port port).rxNakRun = 0 then s.sendNak port else s)
    else
      let s := s.modPort port fun p =>
        { (p.ackTo f.ack).credit f.creditClass f.credits with
          rxSeq := (p.rxSeq + 1) % 4096, framesRx := p.framesRx + 1, rxNakRun := 0, rxNakRetrained := false }
      let s := (s.bareFrame port 0 f.cls 1).pumpPort port
      let s := if f.cls < 3 then s.takeFrame port f else s
      s.noteWait port wait)

/-- `SKID_NAK` on a port that is up. -/
def execSkidNak (port : Nat) (f : SkidFrame) (s : State) : Res :=
  .next (if (s.port port).state ≠ .up then s
    else if !crcOk f then s.badFrame port
    else
      let s := s.stress 64
      let s := s.modPort port fun p =>
        let q : SkidPort := { p.ackTo f.ack with framesRx := p.framesRx + 1 }
        if q.nakRun ≠ 0 ∧ q.nakSeq = f.ack then { q with nakRun := q.nakRun + 1 }
        else { q with nakSeq := f.ack, nakRun := 1, nakRetrained := q.nakRetrained && decide (q.nakSeq = f.ack) }
      if (s.port port).nakRun < 4 then s.resend port
      else if (s.port port).nakRetrained then s.skidFails port
      else (s.modPort port fun p => { p with nakRun := 0, nakRetrained := true }).retrainPort port)

/-- `IDLE_FRAME` on a port that is up. -/
def execIdleFrame (port : Nat) (f : SkidFrame) (s : State) : Res :=
  .next (if (s.port port).state ≠ .up then s
    else if !crcOk f then s.badFrame port
    else (s.modPort port fun p => (p.ackTo f.ack).credit f.creditClass f.credits).pumpPort port)

/-! ### Training (R380) -/

/-- `BEAT_EPOCH` (R46). -/
def State.beatEpoch (s : State) : Nat := s.rwValue 0x7001 0 0x677485A5

/-- The part code (R428), and what a link-control frame of this module says: part code, stepping, serial number, port number and
`BEAT_EPOCH` (R380). -/
def State.controlFields (s : State) (n : Nat) : Bytes := u32 partCode ++ u16 stepping ++ serialNumber ++ u8 n ++ u64 s.beatEpoch
/-- A link-control frame goes out under go-back-N (R379, R380). -/
def State.sendControl (s : State) (n : Nat) : State :=
  let g := sealFrame { kind := 4, cls := 0, first := false, last := false, seq := (s.port n).txSeq, ack := (s.port n).rxSeq, creditClass := 0,
                       credits := 0, payload := padTo 256 (Config.linkControl (s.controlFields n)), fcrc := 0 }
  (s.modPort n fun p => ({ p with replay := p.replay ++ [g], txSeq := (p.txSeq + 1) % 4096, framesTx := p.framesTx + 1 }).useSlots s.stamp
    (p.slotNow s.stamp) 1).emit (.frame n g)

/-- `LINK_CONTROL_FRAME`: what the far end says of itself in training, and the delay measured. A port that enters training says the
same of this module (R380). -/
def execLinkControlFrame (port : Nat) (f : SkidFrame) (part stepping farPort epoch : Nat) (serial : Bytes) (delay : Int) (s : State) : Res :=
  .next (if !crcOk f then (s.badFrame port).sendNak port
    else if f.seq ≠ (s.port port).rxSeq then (if (s.port port).rxNakRun = 0 then s.sendNak port else s)
    else
      let enters := decide ((s.port port).state = .down ∨ (s.port port).state = .epochHeld)
      let s := s.modPort port fun p =>
        { p.ackTo f.ack with
                 state := if p.state = .down ∨ p.state = .epochHeld then .training else p.state, farPart := part, farStepping := stepping,
                 farPort := farPort, farEpoch := epoch, farSerial := serial, delay := delay,
                 rxSeq := (p.rxSeq + 1) % 4096, framesRx := p.framesRx + 1, rxNakRun := 0, rxNakRetrained := false }
      let s := if enters then s.sendControl port else s
      if epoch ≠ s.beatEpoch then (s.modPort port fun p => { p with state := .epochHeld }).event (spineSrc port) 0x6105 else s)

/-- `SKID_LINK_UP`: training or a retrain completes. Frames not acknowledged are sent again; with a plan loaded the link
record follows. -/
def execSkidLinkUp (port : Nat) (s : State) : Res :=
  .next (if (s.port port).state ≠ .training ∧ (s.port port).state ≠ .retraining then s
    else
      let s := (s.modPort port fun p => { p with state := .up }).event (spineSrc port) 0x6200
      (((s.resend port).linkRecords [port]).pumpPort port))

/-- `SKID_PORT_DOWN`. -/
def execSkidPortDown (port : Nat) (s : State) : Res :=
  .next (if (s.port port).state ≠ .up ∧ (s.port port).state ≠ .retraining then s
    else s.modPort port fun p => { p with state := .down, farKnown := false, downSince := s.time.cycles, downRaised := false })

/-- A link of this module has been down for 1 ms: a fill whose route leaves by it stops (R454). -/
def State.routeCut (s : State) (port : Nat) : State :=
  if s.remoteRestore && routePort s.net.graph s.self s.restoreFrom s.self == some port then s.interruptRestore
  else if s.remoteRestore && routePort s.net.graph s.self s.self s.restoreFrom == some port then s.interruptRestore
  else s

/-- `SKID_LINK_DOWN`: a port has been down for more than 1 ms. -/
def execSkidLinkDown (port : Nat) (s : State) : Res :=
  let p := s.port port
  .next (if p.state = .up ∨ p.state = .retraining ∨ p.downRaised ∨ s.time.cycles ≤ p.downSince + msCycles then s
    else
      let s := (s.modPort port fun p => { p with downRaised := true }).routeCut port
      if (s.peer port).used ∧ (s.job.state = .armed ∨ s.job.state = .running ∨ s.job.state = .paused) then
        s.fault (spineSrc port) 0x6202
      else s.event (spineSrc port) 0x6202)

/-- `LINK_RECORD`: the far end's module, job and plan set (R380). -/
def execLinkRecord (m : Msg) (s : State) : Res :=
  .next (s.taken m fun s =>
    let s := s.modPort m.port fun p =>
      { p with farKnown := true, farModule := fieldAt m.body 0 2, farJob := fieldAt m.body 2 8, farDigest := slice m.body 10 64 }
    if (s.peer m.port).used && s.farDiffers m.port then s.event (spineSrc m.port) 0x6203 (u16 m.port) else s)

/-! ### What messages do (R384 to R392) -/

/-- `DMA_WRITE`: checked against this module's own map, written; the whole transfer signals and is acknowledged. `checks`: what
nature reports of the lines and half-bursts that are covered in part; where one cannot be used nothing is written (R241, R263).
`collided`: lines that port A wrote in the same cycle. -/
def execDmaWrite (m : Msg) (checks : List MemCheck) (collided : List Nat) (s : State) : Res :=
  .next (s.taken m fun s =>
    if s.job.state = .fault then s
    else if m.body ≠ [] ∧ !s.decodes m.arg m.body.length then s.fault m.source 0x2402 (u8 3 ++ u32 0x0A ++ u16 0xFFFF)
    else
      let (ok, s) := s.checked checks
      if !ok then s
      else
      let s := s.landWrite none m.arg s.stepKey m.body collided
      let mine (x : Inbound) : Bool := decide (x.origin = m.origin ∧ x.xfer = m.xfer)
      let got := (match s.net.inbound.find? mine with | some x => x.got | none => 0) + m.body.length
      let others := s.net.inbound.filter fun x => !mine x
      if got < m.total then { s with net := { s.net with inbound := others ++ [⟨m.origin, m.xfer, got⟩] } }
      else
        let s := { s with net := { s.net with inbound := others } }
        let s := if m.sync = 0xFFFF then s else s.signal m.source m.sync 1 s.homeStep
        s.e2eAck m)

/-- `RELAYED_SYNC_SIGNAL`: added, under R391, to the inbound object of the port it arrived on; where the pending queue is
full it waits on the fabric. -/
def execRelayedSyncSignal (m : Msg) (s : State) : Res :=
  .next (s.taken m fun s =>
    let g : Signal := ⟨m.source, 0x3C00 + 32 * m.port + m.arg % 32, bitsOf m.arg 31 16, bitsOf m.arg 63 32, m.stamp⟩
    match s.arriveSignal g with
    | some t => t
    | none => { s with sync := { s.sync with transit := s.sync.transit ++ [g] } })

/-- The cluster whose oldest DMA is the transfer `x` to a peer. -/
def State.sender (s : State) (x : Nat) : Option Nat :=
  (s.clusters.find? fun e => match e.2.dmaQ with
    | op :: _ => op.done && decide (op.kind = .transfer ∧ op.transfer = x) | [] => false).map fun e => e.1

/-- The gradient row of number `n` is acknowledged (R384). -/
def State.rowAcked (s : State) (n : Nat) : State :=
  match (List.range 16).find? fun k => (s.port k).unacked.contains n with
  | some k => s.modPort k fun p => { p with unacked := p.unacked.erase n }
  | none => s

/-- `E2E_ACK`: a transfer retires; a gradient row is no longer waited for before a withdrawal. -/
def execE2eAck (m : Msg) (s : State) : Res :=
  .next (s.taken m fun s =>
    let n := m.arg % 2 ^ 32
    match m.arg / 2 ^ 56 with
    | 1 => match s.sender n with | some cl => s.dmaRetire cl false | none => s
    | 2 => (s.rowAcked n).flushWithdrawals
    | _ => s)

/-- `FAULT_NOTICE`: the module enters the fault state; one already in it only counts the notice. -/
def execFaultNotice (m : Msg) (s : State) : Res :=
  .next (s.taken m fun s =>
    match s.job.plan with
    | none => s
    | some _ =>
      if s.job.state = .fault then s.bump kFaultCount 1
      else (s.peerFailed m.origin).faultAfter wardenSrc 0x6305 (m.stamp + 1) (u16 m.origin ++ u16 m.arg))

/-- `ROUTE_FLOOD`: module `module`'s list of (port, far module) arrives on a port; a new list is passed on. -/
def execRouteFlood (port module : Nat) (ports : List (Nat × Nat)) (s : State) : Res :=
  .next (if (s.job.state ≠ .armed ∧ s.job.state ≠ .loaded) ∨ module = s.self ∨ s.net.graph.contains (module, ports) then s
    else
      let s := s.setPorts module ports
      let s := (s.usedPorts.filter fun n => decide (n ≠ port)).foldl (fun s n => s.emit (.flood n module ports)) s
      s.tryPair.askRestore)

/-! ### The spine (R372) -/

/-- Spine die `k`. -/
def State.spineDie (s : State) (k : Nat) : Spine := sget {} s.spine k
def State.modSpine (s : State) (k : Nat) (f : Spine → Spine) : State := { s with spine := supd {} s.spine k f }
/-- `SPINE_REPLAYS`, `SPINE_RETRAINS`; `SPINE_REPLAY_COUNT` of a die. -/
def kSpineReplays : Nat := objKey 0x7014 0
def kSpineRetrains : Nat := objKey 0x7015 0
/-- The source ID of spine die `k`; the fault of a module of it, whose far end is die `other`: it carries both physical die numbers
(R372, R550). -/
def spineDieSrc (k : Nat) : Nat := dieSrc (92 + k)
def State.spineFails (s : State) (k other : Nat) : State := s.fault (spineDieSrc k) 0x1103 (u32 (92 + k) ++ u32 other)

/-- Change what both ends of a module of spine die `k` hold of it: `f` has the module's number on the die. -/
def State.atEnds (s : State) (k m : Nat) (f : Nat → Spine → Spine) : State :=
  match spineTwin k m with
  | some (k2, m2) => (s.modSpine k (f m)).modSpine k2 (f m2)
  | none => s.modSpine k (f m)

/-- `FLIT_REPLAY` on module `m` of spine die `k`. `again`: what failed is a replay of the flit that failed last on this module. The
flit is replayed, or after 4 failed replays the module retrains, once. DESIGN CHOICE (log 97): a module of a spine link counts on
both its dies. -/
def execFlitReplay (k m : Nat) (again : Bool) (s : State) : Res :=
  .next (match spineFar k m with
    | none => s
    | some other =>
      let s := s.atEnds k m fun m x =>
        { x with run := supd 0 x.run m fun n => if again then n + 1 else 0,
                 afterRetrain := if again then x.afterRetrain else sset false x.afterRetrain m false }
      let x := s.spineDie k
      if sget 0 x.run m < 4 then
        ((s.atEnds k m fun _ x => { x with replaySeen := true, replays := x.replays + 1 }).bump kSpineReplays 1).stress 16
      else if sget false x.afterRetrain m then s.spineFails k other
      else
        let s := s.atEnds k m fun m x => { x with run := sset 0 x.run m 0, afterRetrain := sset false x.afterRetrain m true,
                                                  retraining := sset false x.retraining m true }
        ((s.bump kSpineRetrains 1).stress 4096).event (spineDieSrc k) 0x6204)

/-- `SPINE_RETRAIN_DONE`; `ok`: the retrain completed within 10 µs. -/
def execSpineRetrainDone (k m : Nat) (ok : Bool) (s : State) : Res :=
  .next (match spineFar k m with
    | none => s
    | some other =>
      if !sget false (s.spineDie k).retraining m then s
      else if ok then s.atEnds k m fun m x => { x with retraining := sset false x.retraining m false }
      else s.spineFails k other)

end Sys2Proof.Machine
end

