-- ==== Sys2Proof/Machine/StartUp.lean ====
section
/-! DEFINITION. Start-up stage by stage, repair, firmware installs, life cycle, attestation, tamper, flash verification
(01, 11, 19, 20). -/

namespace Sys2Proof.Machine

/-! ### Stages (R512, R513) -/

/-- The time limit of a stage, in ms. -/
def stageLimit : Nat → Nat
  | 0 => 128 | 1 => 50 | 2 => 3000 | 3 => 10 | 4 => 60000 | 5 => 2000 | 6 => 15000 | 7 => 5000 | _ => 30000

/-- The next stage begins. -/
def State.enterStage (s : State) (n : Nat) : State := { s with start := { s.start with stage := n, stageBegan := s.time.cycles } }
/-- Start-up ends in the fault state. -/
def State.startFails (s : State) : State :=
  { s with start := { s.start with stage := 10 }, safe := { s.safe with latch := true, inhibit := true } }

/-- `POWER_GOOD`: start-up begins at stage 0; `oscdly`: the strap as sampled. -/
def execPowerGood (oscdly : Nat) (s : State) : Res :=
  .next (if s.start.powered then s
    else
      let s := s.restarted 0 s.start.cause true
      { s with start := { s.start with oscdly := oscdly % 8 } })

/-! #### Stage 2: choosing a slot (R517) -/

/-- Slot `n` is booted. -/
def State.bootSlot (s : State) (n : Nat) : State := { s with start := { s.start with bootB := decide (n = 1) } }
/-- The slot in a state, if there is one. -/
def State.slotIn (s : State) (st : Nat) : Option Nat := [0, 1].find? fun n => (s.fwSlot n).state = st
def State.slotVerifies (s : State) (n : Nat) : Bool := decide (s.verifyImage (s.fwSlot n).image false = 0)

/-- Boot the active slot, or the inactive one. -/
def State.bootActive (s : State) : State :=
  let reject (s : State) (o : Option Nat) : State := match o with | some n => s.modFwSlot n fun x => { x with state := 4 } | none => s
  match s.slotIn 2, s.slotIn 3 with
  | some a, i =>
    if s.slotVerifies a then (s.bootSlot a).enterStage 3
    else
      let s := reject s (some a)
      match i with
      | some n => if s.slotVerifies n then ((s.modFwSlot n fun x => { x with state := 2 }).bootSlot n).enterStage 3 else (reject s i).enterStump 2
      | none => s.enterStump 2
  | none, some n => if s.slotVerifies n then ((s.modFwSlot n fun x => { x with state := 2 }).bootSlot n).enterStage 3 else (reject s (some n)).enterStump 2
  | none, none => s.enterStump 2

/-- Stage 2. -/
def State.selectSlot (s : State) : State :=
  if !s.start.stumpN then s.enterStump 0
  else if s.start.slotsel = 1 ∨ s.start.slotsel = 2 then
    let n := s.start.slotsel - 1
    if s.slotVerifies n then (s.bootSlot n).enterStage 3 else s.enterStump 1
  else match s.slotIn 1 with
    | none => s.bootActive
    | some n =>
      let c := (s.fwSlot n).trials
      let s := if 0 < c then s.event wardenSrc 0x8003 else s
      if 3 ≤ c then ((s.modFwSlot n fun x => { x with state := 4 }).event wardenSrc 0x8004).bootActive
      else if !s.slotVerifies n then (s.modFwSlot n fun x => { x with state := 4 }).bootActive
      else (((s.modFwSlot n fun x => { x with trials := c + 1 }).bootSlot n).event wardenSrc 0x8002 (u32 n ++ u32 (c + 1))).enterStage 3

/-! #### Stages 4 and 5: tests and fuses (R15 to R20, R371, R512, R521, R531) -/

/-- The spine die, 0 to 3, that joins the stand of compute site `n`, or carries it as a spare. -/
def spareOf (n : Nat) : Nat := if n < 48 then n / 12 else n - 48
/-- The logical die that compute site `n` serves. -/
def State.logicalOf (s : State) (n : Nat) : Option Nat := s.start.dieMap.findIdx? fun d => d = n

/-- A compute site fails with no spare left: its spare is in service, or fails too (R19). DESIGN CHOICE (log 108): where two sites of
one stand pair fail in the same start and their spare is free, the spec does not say whether one of them is repaired; neither is, and
each raises `SPARES_EXHAUSTED`. -/
def State.unrepairable (s : State) (failed : List Nat) (n : Nat) : Bool :=
  let k := spareOf n
  decide (n < 52) && (s.logicalOf n).isSome
    && (decide (48 ≤ n) || s.start.spares.getD k 0xFF != 0xFF || failed.contains (48 + k)
        || decide (1 < (failed.filter fun f => decide (f < 48 ∧ spareOf f = k) && (s.logicalOf f).isSome).length))

/-- Spare lanes of module `m` of spine die `k` are fused in; the far die of a spine link keeps the same count, for its own name of the
module and the other direction (R371). -/
def State.fuseLanes (s : State) (f : LaneFault) : State :=
  let add (s : State) (k m : Nat) (away : Bool) : State :=
    { s with spine := supd {} s.spine k fun d => { d with lanes := supd 0 d.lanes (2 * m + if away then 1 else 0) (· + f.failed) } }
  let s := add s f.die f.module f.away
  match spineTwin f.die f.module with | some (k, m) => add s k m (!f.away) | none => s
/-- A module has more than its 8 spare lanes' worth of failed lanes in a direction, those of earlier starts among them (R371). -/
def State.lanesOut (s : State) (f : LaneFault) : Bool :=
  decide (8 < sget 0 (sget {} s.spine f.die).lanes (2 * f.module + if f.away then 1 else 0))
/-- The dies that the lanes of their modules fail: both that the module joins. -/
def State.laneDies (s : State) (lanes : List LaneFault) : List Nat :=
  (lanes.filter s.lanesOut).flatMap fun f => (92 + f.die) :: (spineFar f.die f.module).toList
/-- A spare site that failed shows 0xFE, whether it was in service or not (R19, R20). -/
def State.markSpares (s : State) (failed : List Nat) : State :=
  { s with start := { s.start with spares := s.start.spares.zipIdx.map fun (x, k) => if failed.contains (48 + k) then 0xFE else x } }

/-- Stage 4 ends with the dies that failed and the lanes that failed. -/
def State.tested (s : State) (dies : List Nat) (lanes : List LaneFault) : State :=
  let s := lanes.foldl State.fuseLanes s
  let failed := (dies ++ s.laneDies lanes).dedup
  let lost := failed.filter fun n => decide (52 ≤ n ∧ n < 99)
  let short := failed.filter fun n => s.unrepairable failed n
  if failed.contains 99 then s.enterStump 3
  else if lost ≠ [] ∨ short ≠ [] then
    let s := lost.foldl (fun s n => s.fault (dieSrc n) 0x2F02) (s.markSpares failed)
    (short.foldl (fun s n => s.fault (dieSrc n) 0x2F01) s).startFails
  else { s with start := { s.start with found := failed } }.enterStage 5

/-- A spare that fails while not in service is marked; a failed site in service is replaced (R15, R19). -/
def State.repair (s : State) (n : Nat) : State :=
  let k := spareOf n
  if 48 ≤ n then { s with start := { s.start with spares := listUpd s.start.spares k fun _ => 0xFE } }
  else match s.logicalOf n with
    | none => s
    | some l =>
      { s with start := { s.start with dieMap := listUpd s.start.dieMap l fun _ => 48 + k, spares := listUpd s.start.spares k fun _ => l,
                                       repairs := s.start.repairs + 1 } }.event (dieSrc (48 + k)) 0x2F00

/-- The key store is wiped (R531, R534). -/
def State.wipeKeys (s : State) : State := { s with start := { s.start with identity := false } }.event wardenSrc 0x800B

/-- The library and the table store hold nothing, in any format. -/
def State.noEntries (s : State) : State := { s with start := { s.start with formats := [], unread := [] } }
/-- Stage 5. -/
def State.fuses (s : State) : State :=
  let map := s.start.dieMap
  let s := s.start.found.foldl State.repair s
  let s : State := if s.start.dieMap = map then s else { s with start := { s.start with mapGeneration := s.start.mapGeneration + 1 } }
  let s := if s.start.security < s.start.securityPending then
      let v := s.start.securityPending
      let revoke (x : FwSlot) : FwSlot := if x.state ≠ 0 ∧ imgSecurity x.image < v then { x with state := 5 } else x
      { s with start := { s.start with security := v, slots := s.start.slots.map revoke } }.event wardenSrc 0x8009
    else s
  let s := if s.start.returnPending then
      { s with start := { s.start with lifecycle := 3, returnPending := false, protectedSet := [], stores := [{}, {}] },
               host := { s.host with library := [] }, tally := { s.tally with rw := [] } }.noEntries.event wardenSrc 0x800A |>.wipeKeys
    else s
  { s with start := { s.start with found := [] } }.enterStage 6

/-! #### Stages 6 and 7: reload and store (R520, R524) -/

/-- Stage 6: every component is read again and verified; the start's measurements are recorded. -/
def State.reload (s : State) : State :=
  let img := (s.fwSlot s.booted).image
  if s.verifyImage img true ≠ 0 then s.startFails
  else
    let ces := (imgEntries img).mergeSort fun a b => ceType a ≤ ceType b
    { s with start := { s.start with
      measured := (0xFFFF, Config.romDigest) :: (0, headerDigest img) :: ces.map fun e => (ceType e, ceDigest e) } }.enterStage 7

/-- A value in the newer version of the store. -/
def migrate (a b : Nat) (m : List (Nat × Bytes)) : List (Nat × Bytes) := m.map fun e => (e.1, Config.migrated a b e.1 e.2)

/-- Stage 7. -/
def State.readStore (s : State) : State :=
  let v := imgStore (s.fwSlot s.booted).image
  let s := match newestCopy s.start.stores with
    | none => { s.factoryDefaults with start := { s.start with storeReset := true } }.event wardenSrc 0x8008
    | some k =>
      let c := s.start.stores.getD k {}
      if c.version = v then s.restoreValues c.rw c.active
      else if c.version < v then
        ((s.restoreValues (migrate c.version v c.rw) (migrate c.version v c.active)).storeValues v).event wardenSrc 0x8007 (u32 c.version ++ u32 v)
      else { s.factoryDefaults with start := { s.start with storeReset := true } }.event wardenSrc 0x8008
  s.indexFlash.enterStage 8

/-! #### Stage 8: CXL decoding (R289, R290, R293, R294) -/

def cxlUnit : Nat := 0x10000000
def roundDown (n : Nat) : Nat := n / cxlUnit * cxlUnit
def roundUp (n : Nat) : Nat := (n + cxlUnit - 1) / cxlUnit * cxlUnit
/-- The capacity decoded of each device in order, up to 8 TiB; whether it loses capacity. -/
def decodeCaps : Nat → List CxlFound → List (CxlFound × Nat × Bool)
  | _, [] => []
  | used, d :: ds =>
    let c := roundDown d.capacity
    let t := min c (8 * 2 ^ 40 - used)
    (d, t, decide (t < c)) :: decodeCaps (used + t) ds
/-- Window parts back to back from the window's first address, cut at its end (R294). -/
def placeWindows : Nat → List CxlDevice → List CxlDevice
  | _, [] => []
  | a, d :: ds => let w := min d.window (stashBase - a); { d with base := a, window := w } :: placeWindows (a + w) ds

/-- The devices found are decoded; a link that trains below 32 GT/s (speed 0) is unused (R288). The event of a cut of the window names
the die of the first device whose part is cut (R294, R301). -/
def State.decodeCxl (s : State) (devices : List CxlFound) : State :=
  let found := devices.filter fun d => d.speed ≠ 0
  let order := found.mergeSort fun a b => decide (2 * a.port + a.dev ≤ 2 * b.port + b.dev)
  let caps := decodeCaps 0 order
  let part := roundUp ((s.active 0x4050 2 0 + found.length - 1) / found.length)
  let devs := caps.map fun (d, c, _) =>
    let data := roundDown (15 * c / 16)
    let p := min part data
    ({ port := d.port, dev := d.dev, width := d.width, speed := d.speed, capacity := d.capacity, dataArea := data, base := cxlBase,
       window := data - p, partner := p, foundWidth := d.width, foundSpeed := d.speed } : CxlDevice)
  let s := match caps.find? fun e => e.2.2 with | some e => s.event (cxlSrc e.1.port) 0x3200 | none => s
  let first := match devs with | d :: _ => d.port | [] => 0
  let wanted := decide (s.active 0x4050 1 0 = 1)
  let can := match devs with | [a, b] => decide (a.port ≠ b.port ∧ a.window = b.window) | _ => false
  let s := if wanted && !can then s.event (cxlSrc first) 0x3201 else s
  let placed := if wanted && can then devs.map fun d => { d with window := min d.window (2 * 2 ^ 40) } else placeWindows cxlBase devs
  let s := match (devs.zip placed).find? fun e => decide (e.2.window < e.1.window) with
    | some e => s.event (cxlSrc e.1.port) 0x3200 | none => s
  { s with cxl := { s.cxl with devices := placed, interleaved := wanted && can } }

/-- READY. -/
def State.ready (s : State) : State :=
  let ms := (s.time.cycles - s.start.began) / msCycles
  let s := s.modFwSlot s.booted fun x => { x with trials := 0 }
  let s := { s with start := { s.start with stage := 9, timeMs := ms } }.event wardenSrc 0x8000 (u32 ms)
  if s.start.identity then s else s.event wardenSrc 0x800C

/-- Stage 8: the pending group 0x4050 becomes active, the devices are decoded. -/
def State.linkUp (s : State) (found : List CxlFound) : State := ((s.safePoint 0x4050).decodeCxl found).ready

/-- The stage in progress has failed. -/
def State.stageFails (s : State) : State :=
  if s.start.stage ≤ 1 then s.enterStump 3 else if s.start.stage = 2 then s.enterStump 2 else s.startFails

/-- Start-up is running. -/
def State.starting (s : State) : Bool := s.start.powered && s.start.stump.isNone && decide (s.start.stage < 9)

/-- `START_STAGE_DONE`. -/
def execStartStageDone (r : StageReport) (s : State) : Res :=
  .next (if !s.starting then s
    else match r with
      | .failed => s.stageFails
      | _ =>
        match s.start.stage with
        | 0 => if s.time.cycles < s.start.stageBegan + 2 ^ s.start.oscdly * msCycles then s
          else { s with start := { s.start with began := s.time.cycles } }.enterStage 1
        | 1 =>
          let s := { s with start := { s.start with bootCount := s.start.bootCount + 1 } }
          let s : State := match r with | .rom sel up => { s with start := { s.start with slotsel := sel % 4, stumpN := up } } | _ => s
          if s.start.lifecycle ≠ 2 then s.enterStump 4 else s.enterStage 2
        | 2 => s.selectSlot
        | 3 => { s with power := { s.power with inst := [] } }.enterStage 4
        | 4 => match r with | .tests failed lanes => s.tested failed lanes | _ => s.tested [] []
        | 5 => s.fuses
        | 6 => s.reload
        | 7 => s.readStore
        | _ => match r with | .links found => s.linkUp found | _ => s.linkUp [])

/-- `START_STAGE_TIMEOUT`: the stage has passed its time limit. -/
def execStartStageTimeout (s : State) : Res :=
  .next (if !s.starting ∨ s.time.cycles ≤ s.start.stageBegan + stageLimit s.start.stage * msCycles then s else s.stageFails)

/-- `MODULE_RESTART`: refused while `ARMED`, `RUNNING` or `PAUSED`. The answer goes out before the restart. -/
def execModuleRestart (q : Req) (s : State) : Res :=
  let t := s.serveWrite q 0xB000 5 1 fun s v =>
    if v ≠ 1 then refuse s abRange
    else if s.job.state = .armed ∨ s.job.state = .running ∨ s.job.state = .paused then refuse s abState
    else accept (s.enterStage 1)
  .next (if s.start.stage ≠ 1 ∧ t.start.stage = 1 then t.restarted 1 1 true else t)

/-! ### Updating from the card (R522, R523, R572) -/

/-- An install ends with a failure: the slot that is not booted is left `EMPTY`. -/
def State.installFails (s : State) (r : Nat) : State :=
  { s.modFwSlot s.otherSlot fun _ => {} with start := { (s.modFwSlot s.otherSlot fun _ => {}).start with installing := false, result := r } }.event
    wardenSrc 0x8006 (u32 r)

/-- `CARD_CHANGED`: the state of the card as `CARD_STATE`, and its update file (empty: none). An install in progress ends
when the card is removed (R536). -/
def execCardChanged (card : Nat) (file : Bytes) (s : State) : Res :=
  let s := { s with start := { s.start with card := card, cardFile := file, cardChanged := true } }
  .next (if s.start.installing ∧ card = 0 then s.installFails 2 else s)

/-- `FW_CARD_INSTALL`. -/
def execFwCardInstall (q : Req) (s : State) : Res :=
  .next (s.serveWrite q 0xB012 0 1 fun s v =>
    if v ≠ 1 then refuse s abRange
    else if s.onTrial ∨ s.start.installing then refuse s abState
    else accept { s with start := { s.start with installing := true, result := 255 } })

/-- The result of the install in progress. -/
def State.installResult (s : State) (ok : Bool) : Nat :=
  let img := s.start.cardFile
  if s.start.card = 0 then 1
  else if s.start.card ≠ 1 then 2
  else if img = [] then 1
  else
    let v := s.verifyImage img true
    if v ≠ 0 then v
    else if headerDigest img = headerDigest (s.fwSlot s.booted).image then 10
    else if !ok then 9
    else 0

/-- `FW_INSTALL_COMPLETE`. -/
def execFwInstallComplete (flash : FlashReport) (s : State) : Res :=
  .next (if !s.start.installing then s
    else
      let r := s.installResult flash.ok
      let img := s.start.cardFile
      if r = 0 then
        ({ s with start := { s.start with installing := false, result := 0 } }.putTrial s.otherSlot img).flashWrite flash img.length
      else (s.flashWrite flash 0).installFails r)

/-- A `WRITE` of a fixed-length BLOB with a row of its own. -/
def State.serveBlob (s : State) (q : Req) (index sub n : Nat) (act : State → Bytes → Answer) : State :=
  if reqIs q index sub then
    s.serve q 2 false false fun s => s.blobSegment q none fun s v => if v.length ≠ n then refuse s abTypeLength else act s v
  else s

/-- `FW_CONFIRM`. -/
def execFwConfirm (q : Req) (s : State) : Res :=
  .next (s.serveBlob q 0xB011 0 64 fun s v =>
    if !s.onTrial ∨ s.start.stage ≠ 9 then refuse s abState
    else if v ≠ headerDigest (s.fwSlot s.booted).image then refuse s abInconsistent
    else
      let sec := imgSecurity (s.fwSlot s.booted).image
      let s := s.modFwSlot s.booted fun x => { x with state := 2 }
      let s := s.modFwSlot s.otherSlot fun x => if x.state = 0 then x else { x with state := 3 }
      accept ({ s with start := { s.start with securityPending := max s.start.securityPending sec,
                                                 formats := s.start.formats.map fun e : Nat × List Nat => (e.1, [s.entryFormat s.booted e.1]) } }.event wardenSrc 0x8005))

/-! ### Life cycle, tamper, attestation (R533 to R535, R564) -/

/-- `LIFECYCLE_RETURN`. -/
def execLifecycleReturn (q : Req) (s : State) : Res :=
  .next (s.serveBlob q 0xB020 4 16 fun s v =>
    if s.job.state ≠ .empty then refuse s abState
    else if v ≠ serialNumber then refuse s abInconsistent
    else accept { s with start := { s.start with returnPending := true } })

/-- `TAMPER`: TAMPER_N has been high for 1 ms. -/
def execTamper (s : State) : Res :=
  let s := { s with start := { s.start with tamperSeen := true, tamperHigh := true } }.wipeKeys
  .next (if s.job.plan.isSome then s.fault wardenSrc 0x8100 else s)

/-- The attestation report for a nonce, signature apart. -/
def State.attestBody (s : State) (nonce : Bytes) : Bytes :=
  ascii "EDZATTS1" ++ u16 1 ++ u16 s.start.measured.length ++ u16 stepping ++ u8 s.start.lifecycle ++ u8 s.start.security ++ serialNumber ++ nonce
    ++ u64 s.stamp ++ u32 s.start.mapGeneration ++ u32 s.start.bootCount
    ++ s.start.measured.flatMap fun e => u16 e.1 ++ List.replicate 6 0#8 ++ padTo 64 e.2

/-- `ATTEST_NONCE`. -/
def execAttestNonce (q : Req) (s : State) : Res :=
  .next (s.serveBlob q 0xB030 1 32 fun s v =>
    if !s.start.identity then refuse s abState
    else
      let b := s.attestBody v
      accept { s with start := { s.start with report := b ++ padTo 3309 (Config.mlDsaSign (ascii "EDZ-ATTEST-1") b) } })

/-! ### Flash verification (R546) -/

/-- One area fails its verification. Areas are numbered by the model: 0 and 1 slots, 2 and 3 store copies, 16 + library slot,
64 + table. -/
def State.areaFails (s : State) (a : Nat) : State :=
  let s := { s with bg := { s.bg with verifyFailed := true, verifyFailures := s.bg.verifyFailures + 1 } }.event wardenSrc 0x8301 (u32 a)
  let s : State := { s with start := { s.start with unread := s.start.unread.filter fun x => decide (x.1 ≠ if a < 64 then a - 16 else a) } }
  if a < 2 then (if a = s.booted then s else s.modFwSlot a fun x => if x.state = 1 ∨ x.state = 3 then {} else x)
  else if 16 ≤ a ∧ a < 24 then { s with host := { s.host with library := sset [] s.host.library (a - 16) [] } }
  else if 64 ≤ a ∧ a < 128 then { s with tally := { s.tally with rw := s.tally.rw.filter fun e => e.1 ≠ objKey 0xB040 (a - 63) } }
  else s

/-- An area that is being written is not verified. -/
def State.areaBusy (s : State) (a : Nat) : Bool :=
  (s.start.installing && decide (a = s.otherSlot)) || s.host.flows.any fun f => decide (f.channel = 1 ∧ a = 16 + f.sub)

/-- `FLASH_VERIFY`, every 24 h. `failed`: the areas that fail. -/
def execFlashVerify (failed : List Nat) (s : State) : Res :=
  .next (if !s.background ∨ s.time.cycles < s.bg.lastVerify + 86400 * secCycles then s
    else
      let s := (failed.filter fun a => !s.areaBusy a).foldl State.areaFails s
      { s with bg := { s.bg with lastVerify := s.time.cycles, verifyStamp := s.stamp } })

/-! ### Output pins (R565, R566) -/

/-- PG_OUT is released. -/
def State.pgOut (s : State) : Bool := s.start.powered
/-- FAULT_OUT_N is high. -/
def State.faultOutN (s : State) : Bool :=
  s.start.powered && decide (1 < s.start.stage) && !s.safe.latch && decide (s.start.stage ≠ 10) && s.start.stump.isNone && !s.start.wardenHeld
/-- CXL_PERST_N of every device is released. -/
def State.cxlPerstN (s : State) : Bool := s.start.powered && decide (8 ≤ s.start.stage ∧ s.start.stage ≤ 9) && s.start.stump.isNone

end Sys2Proof.Machine
end

