-- ==== Sys2Proof/Machine/Registers.lean ====
section
/-! DEFINITION. The control register space: what each register reads as, and what a write of it does (R6 to R8, R115 to R120,
R181 to R183, R209, R228 to R230, R252 to R255, R283 to R285, R299, R338, R367, R400, R401, R429, R431, R432, R480, R497,
R506 to R509, R537, R554). A register is read and written as 32-bit words; the words of a wider register follow one another. -/

namespace Sys2Proof.Machine

/-- Word `k` of a register of any width. -/
def wordOf (v k : Nat) : Nat := v / 2 ^ (32 * k) % 2 ^ 32
/-- A bit at place `n`. -/
def bitAt (b : Bool) (n : Nat) : Nat := if b then 2 ^ n else 0
/-- A number at place `n`, cut to `w` bits. -/
def putAt (v w n : Nat) : Nat := v % 2 ^ w * 2 ^ n
/-- The two's complement code of `x` on `w` bits. -/
def codeOf (w : Nat) (x : Int) : Nat := (x % (2 ^ w : Nat)).toNat

/-! ### Arrays (R89, R115 to R120) -/

/-- The state of tile `t` (R89). -/
def Cluster.tileState (c : Cluster) (t : Nat) : Nat :=
  match c.inPipe.filter fun op => decide (op.tile = t) with
  | some op => if op.kind = .kat then 7 else 2
  | none =>
    if (c.katOn t).isSome then 7
    else
    let path := match c.drainQ with | op :: _ => if op.tile = t ∧ op.fenced then some op.kind else none | [] => none
    match path with
    | some .drain => 3
    | some .spillStore | some .spillAdd => 4
    | some .restore => 5
    | _ => match (c.tile t).base with | .idle => 0 | .live => 1 | .reserved => 6
/-- The state of a slot (R101). -/
def SlotState.code : SlotState → Nat
  | .empty => 0 | .stored => 1 | .accumulated => 2
/-- `XA_STATUS`. -/
def State.xaStatus (s : State) (cl : Nat) : Nat :=
  let c := s.cl cl
  putAt (c.slot 1).state.code 2 26 + putAt (c.slot 0).state.code 2 24 + putAt (c.tileState 1) 3 20 + putAt (c.tileState 0) 3 16
    + putAt c.katNext 3 8 + bitAt c.diagPrefence 2 + bitAt (0 < (s.inst (clDie cl / 6)).level) 1 + bitAt c.inPipe.isSome 0
/-- `XA_TILEt_RUN`. -/
def Tile.run (t : Tile) : Nat := putAt (codeOf 10 t.eref) 10 32 + t.runK % 2 ^ 23
/-- `XA_SLOTt_TAG`. -/
def Slot.tag (x : Slot) : Nat :=
  putAt x.state.code 2 126 + bitAt x.byPause 125 + putAt x.totalK 48 64 + putAt (min 0xFFFF x.addCount) 16 48
    + putAt (codeOf 10 x.eref) 10 32 + (if x.state = .stored then x.runK % 2 ^ 23 else 0)
/-- `XA_DIAG_SEL`, and the captured value on 128 bits. -/
def Cluster.diagSelWord (c : Cluster) : Nat := bitAt c.diagValid 31 + c.diagSel % 2 ^ 17
def Cluster.diagValue (c : Cluster) : Nat := codeOf 128 c.diagData

/-! ### Sequencers and vector units (R181 to R183, R228 to R230) -/

/-- `SEQ_STATE` (R182). -/
def State.seqState (s : State) (cl : Nat) : Nat :=
  let c := s.cl cl
  match s.stream cl with
  | none => 0
  | some st =>
    if s.job.state = .fault ∨ c.katHold then 7
    else if !s.clocked cl then 0
    else if s.job.frozenAt.isSome ∨ s.pauseReached then 6
    else match c.wait with
      | .sync _ _ => 2
      | .beat _ _ => 3
      | .none =>
        if 1024 ≤ c.inflight then 4
        else if (s.job.state = .running ∨ s.job.state = .armed) ∧ c.index < st.words.length ∧
          s.windowOpen (s.clStep cl) (st.phaseOf c.index) then (if c.regHeld (st.words.getD c.index 0) then 5 else 1) else 0
/-- `SEQ_STATUS`. -/
def State.seqStatus (s : State) (cl : Nat) : Nat :=
  putAt (s.seqState cl) 3 29 + putAt (s.cl cl).inflight 11 16 + putAt (s.cl cl).lastReason 8 8
/-- `VU_STATUS`: a unit whose head operation lacks rows of the drain input waits for them. -/
def State.vuStatus (s : State) (cl : Nat) : Nat :=
  let c := s.cl cl
  let st := if c.vuStopped then 3
    else match c.vecQ with
      | [] => 0
      | op :: _ => if c.starved op then 2 else 1
  putAt st 2 30 + putAt c.drainIn.length 9 21

/-- Field `k` of the removed lines that test fused, below `n`, in increasing order; 0xFF, none (R119, R230). -/
def spareField (l : List Nat) (n k : Nat) : Nat := ((l.filter fun x => decide (x < n)).dedup.mergeSort).getD k 0xFF
/-- `XA_SPARE_MAP`: two rows and two columns of 130 (R119). -/
def xaSpareMap (d n : Nat) : Nat :=
  let rows := Config.badRows d n
  let cols := Config.badCols d n
  spareField cols 130 1 * 2 ^ 24 + spareField cols 130 0 * 2 ^ 16 + spareField rows 130 1 * 2 ^ 8 + spareField rows 130 0
/-- `VU_SPARE_MAP`: eight lanes of 136 (R230). -/
def vuSpareMap (d n : Nat) : Nat := ((List.range 8).map fun k => spareField (Config.badLanes d n) 136 k * 2 ^ (8 * k)).sum
/-- `SPARE_FOR`: a bank, or 0xFF (R255). -/
def spareBank (d r : Nat) : Nat := if Config.spareFor d r < 12 then Config.spareFor d r else 0xFF

/-- A word of the registers of cluster `n` of die `d`, at offset `o`. -/
def State.clusterWord (s : State) (d n cl o : Nat) : Option Nat :=
  let c := s.cl cl
  if o = 0 then some (s.seqStatus cl)
  else if o = 4 then some (wordOf c.index 0)
  else if 0x10 ≤ o ∧ o < 0x18 then some (wordOf c.issued ((o - 0x10) / 4))
  else if 0x18 ≤ o ∧ o < 0x20 then some (wordOf c.fullCycles ((o - 0x18) / 4))
  else if 0x20 ≤ o ∧ o < 0x28 then some (wordOf c.waitCycles ((o - 0x20) / 4))
  else if 0x100 ≤ o ∧ o < 0x140 then some (wordOf (sget 0 c.bounds ((o - 0x100) / 4)) 0)
  else if 0x200 ≤ o ∧ o < 0x280 then
    let (rows, cols) := c.mask ((o - 0x200) / 0x20)
    some (wordOf (rows % 2 ^ 128 + cols * 2 ^ 128) ((o - 0x200) % 0x20 / 4))
  else if o = 0x400 then some (s.xaStatus cl)
  else if o = 0x404 then some (xaSpareMap d n)
  else if 0x408 ≤ o ∧ o < 0x418 then some (wordOf (c.tile ((o - 0x408) / 8)).run ((o - 0x408) % 8 / 4))
  else if 0x420 ≤ o ∧ o < 0x440 then some (wordOf (c.slot ((o - 0x420) / 16)).tag ((o - 0x420) % 16 / 4))
  else if o = 0x440 then some c.diagSelWord
  else if 0x444 ≤ o ∧ o < 0x454 then some (wordOf c.diagValue ((o - 0x444) / 4))
  else if 0x460 ≤ o ∧ o < 0x468 then some (wordOf c.passCount ((o - 0x460) / 4))
  else if 0x468 ≤ o ∧ o < 0x470 then some (wordOf c.stallCycles ((o - 0x468) / 4))
  else if o = 0x470 then some (wordOf c.katCount 0)
  else if o = 0x800 then some (s.vuStatus cl)
  else if 0x808 ≤ o ∧ o < 0x810 then some (wordOf (vuSpareMap d n) ((o - 0x808) / 4))
  else if 0x810 ≤ o ∧ o < 0x818 then some (wordOf c.vuOps ((o - 0x810) / 4))
  else if 0x818 ≤ o ∧ o < 0x820 then some (wordOf c.vuStarve ((o - 0x818) / 4))
  else none

/-! ### Limber engines, banks, gates (R209, R252 to R255, R497, R509) -/

/-- A word of the limber registers at offset `o` of their block: the job at the head of the queue has started. -/
def State.limberWord (s : State) (d o : Nat) : Option Nat :=
  let l := s.limber d
  if o = 0 then
    some (putAt (if l.stopped then 2 else if l.queue = [] then 0 else 1) 2 30 + putAt (l.queue.length - 1) 7 23)
  else if 8 ≤ o ∧ o < 16 then some (wordOf l.jobs ((o - 8) / 4))
  else if 16 ≤ o ∧ o < 24 then some (wordOf l.products ((o - 16) / 4))
  else none

/-- `BANK_CTRL` and `BANK_STATUS`; a write-only field reads as zero (R7). -/
def Bank.ctrl (b : Bank) : Nat := putAt b.power 2 16 + b.owner % 256
def Bank.status (b : Bank) : Nat :=
  putAt b.powerNow 2 30 + bitAt b.transition 29 + bitAt b.handover.isSome 28 + putAt b.lastNonOwner 8 16 + putAt b.lastCollider 8 8
    + bitAt b.collision 2 + bitAt b.notOnAccess 1 + bitAt b.notOwnerAccess 0
/-- `FEEDER_WAIT_CYCLES` of a die. -/
def kFeederWait (d : Nat) : Nat := regBase d + 0xE00E10
/-- A word of the bank registers at offset `o` of their block. -/
def State.bankWord (s : State) (d o : Nat) : Option Nat :=
  if 0xE00 ≤ o ∧ o < 0xE0C then some (spareBank d ((o - 0xE00) / 4))
  else if 0xE10 ≤ o ∧ o < 0xE18 then some (wordOf (s.count (kFeederWait d)) ((o - 0xE10) / 4))
  else match bankBlock d (regBase d + 0xE00000 + o / 64 * 64) with
    | none => none
    | some i => if o % 64 = 0 then some (s.bank d i).ctrl else if o % 64 = 8 then some (s.bank d i).status else none

/-- `CLK_GATE`. -/
def Gates.word (g : Gates) : Nat := bitAt g.refused 31 + bitAt g.die 19 + putAt g.regions 3 16 + g.clusters % 2 ^ 12

/-- A cluster is in use: its gate is open and it has work, or a bus access of the diagnostic capture pending (R497). -/
def State.clusterInUse (s : State) (d n : Nat) : Bool :=
  let g := sget {} s.power.gates d
  decide ((g.clusters / 2 ^ n) % 2 = 0) &&
    match s.clusterAt d n with | some cl => (s.cl cl).inflight != 0 || (s.cl cl).diagBusy | none => false
/-- The DMA engine of a region is busy. -/
def State.dmaBusy (s : State) (d r : Nat) : Bool :=
  (List.range 4).any fun c => match s.clusterAt d (4 * r + c) with | some cl => !(s.cl cl).dmaQ.isEmpty | none => false
/-- A write of `CLK_GATE` with the new gates `die`, `regions`, `clusters` is refused (R497). -/
def State.gateRefused (s : State) (d v : Nat) : Bool :=
  let g := sget {} s.power.gates d
  let shut (old new n : Nat) := decide ((old / 2 ^ n) % 2 = 0 ∧ (new / 2 ^ n) % 2 = 1)
  let openCl (n : Nat) := decide ((bitsOf v 11 0 / 2 ^ n) % 2 = 0)
  let openRg (r : Nat) := decide ((bitsOf v 18 16 / 2 ^ r) % 2 = 0)
  let regionBad (r : Nat) := ((List.range 4).any fun c => openCl (4 * r + c) || s.clusterInUse d (4 * r + c)) || s.dmaBusy d r
  ((List.range 12).any fun n => shut g.clusters (bitsOf v 11 0) n && s.clusterInUse d n)
    || ((List.range 3).any fun r => shut g.regions (bitsOf v 18 16) r && regionBad r)
    || (!g.die && bitsOf v 19 19 == 1 &&
        (((List.range 3).any fun r => openRg r || ((List.range 4).any fun c => s.clusterInUse d (4 * r + c)) || s.dmaBusy d r)
          || !(s.limber d).queue.isEmpty))
/-- A write of `CLK_GATE` (R497, R509): a 1 at `GATE_REFUSED` clears it; a refused write changes nothing and sets it. -/
def State.writeGates (s : State) (d v : Nat) : State :=
  let set (f : Gates → Gates) : State := { s with power := { s.power with gates := supd {} s.power.gates d f } }
  if !s.start.dieMap.contains d then s
  else if s.gateRefused d v then set fun g => { g with refused := true }
  else set fun g => { refused := g.refused && bitsOf v 31 31 == 0, die := bitsOf v 19 19 == 1, regions := bitsOf v 18 16, clusters := bitsOf v 11 0 }

/-- A word of the registers of a compute die in service. -/
def State.computeWord (s : State) (d o : Nat) : Option Nat :=
  if o < 0xC0000 then
    match s.clusterAt d (o / 2 ^ 16) with | some cl => s.clusterWord d (o / 2 ^ 16) cl (o % 2 ^ 16) | none => none
  else if o = 0xD00000 then some (sget {} s.power.gates d).word
  else if 0xE00000 ≤ o ∧ o < 0xE01000 then s.bankWord d (o - 0xE00000)
  else if 0xF00000 ≤ o then s.limberWord d (o - 0xF00000)
  else none

/-! ### Base dies (R283 to R285, R367) -/

/-- The update descriptors that base die `m` serves. -/
def State.served (s : State) (m : Nat) : List (Bytes × Nat) := s.updates.zipIdx.filter fun e => decide (udStack e.1 = m)
/-- A buffer of base die `m` accepts contributions of the present step: the deadline of one has not passed (R268, R284). -/
def State.gaeOpen (s : State) (m : Nat) : Bool :=
  match s.upd.accepting with
  | some k => (s.served m).any fun e => !s.isLate e.2 e.1 k k
  | none => false
/-- The descriptor that base die `m` is updating: the first that applies and is not done. -/
def State.updating (s : State) (m : Nat) : Option (Bytes × Nat) :=
  match s.upd.decision with
  | some dec =>
    if s.upd.applying ∧ dec.action ≠ 1 then
      (s.served m).find? fun e => !s.upd.done.contains e.2 && !dec.skipped.contains (udGroup e.1)
    else none
  | none => none
/-- A NORM or APPLY pass runs on base die `m`. -/
def State.nmvBusy (s : State) (m : Nat) : Bool :=
  (s.upd.normStep.isSome && !s.upd.passDone && !(s.served m).isEmpty) || (s.updating m).isSome
/-- The module has stopped by a fault. -/
def State.stoppedByFault (s : State) : Bool := s.safe.latch && s.job.plan.isSome
/-- `MB_STATUS`. -/
def State.mbStatus (s : State) (m : Nat) : Nat :=
  let b := s.baseDie m
  putAt (if s.stoppedByFault then 2 else if s.gaeOpen m || s.nmvBusy m then 1 else 0) 2 30 + bitAt b.refreshHigh 29 + bitAt (s.gaeOpen m) 28
    + bitAt (s.nmvBusy m) 27 + bitAt s.stash.suppressed.isSome 26 + putAt b.temp 8 12 + putAt b.lastChannel 4 8 + putAt b.lastPc 1 7
    + bitAt b.crcMismatch 1 + bitAt b.eccReport 0
/-- `COW_STATUS`: a page whose copy is under way, or that waits for the streamer, is still `PENDING` (R278). Before the first capture
since load `POOL_FREE` reads its reset value 0 (R285; DESIGN CHOICE, log 104). -/
def State.cowStatus (s : State) (m : Nat) : Nat :=
  let mine := s.cow.pages.filter fun e => e.1 / pagesPerStack = m
  let held := mine.filter fun e => e.2.pool.isSome
  let st := sget 0 s.cow.dies m
  putAt st 2 30 + putAt mine.length 15 15 + putAt (if st = 0 then 0 else s.poolPages - held.length) 7 8
/-- The stale queue of a stack. -/
def State.staleOf (s : State) (m : Nat) : Nat := (sget [] s.upd.stale m).length
/-- `UPD_STATUS`. State 5 shows while the descriptor that the die is updating refreshes its preconditioners and is not yet written
(DESIGN CHOICE, log 103: the spec does not say when within APPLY it shows). -/
def State.updStatus (s : State) (m : Nat) : Nat :=
  let st := if s.stoppedByFault then 6
    else match s.updating m with
      | some (d, i) => if refreshes d (crApplied (s.counterRec d) + 1) && !s.upd.written.contains i then 5 else 4
      | none =>
        if s.upd.normStep.isSome && !(s.served m).isEmpty then (if s.upd.passDone then 3 else 2) else if s.gaeOpen m then 1 else 0
  putAt st 3 29 + bitAt (decide (512 ≤ s.staleOf m)) 28 + putAt (s.staleOf m) 10 16 + bitAt (sget false s.upd.partialSeen m) 0
/-- A word of the registers of a base die. -/
def State.baseWord (s : State) (m o : Nat) : Option Nat :=
  if o = 0 then some (s.mbStatus m)
  else if 8 ≤ o ∧ o < 0x38 then some (wordOf (s.count (regBase (52 + m) + o / 8 * 8)) (o % 8 / 4))
  else if o = 0x38 then some (s.cowStatus m)
  else if o = 0x3C then some (wordOf (s.count (kStackTouch m)) 0)
  else if o = 0x40 then some (s.updStatus m)
  else none

/-! ### Bucking dies (R338) -/

/-- `BK_STATUS`: the die holds at `LEAD_STEPS` where samples are queued and the decode of none may begin yet (R67, R337). A context is 64 × engine class + number: 0 video, 1 audio, 2 text. -/
def State.bkStatus (s : State) (st : Nat) : Nat :=
  let x := s.stand st
  let busy (cls : Nat) := (x.samples.filter fun e => match e.ctx with | some c => c / 64 == cls | none => false).length
  let has (t : SampleState) := x.samples.any fun e => decide (e.state = t)
  let queued := x.samples.filter fun e => decide (e.state = .queued)
  let live := decide (s.job.state = .armed ∨ s.job.state = .running ∨ s.job.state = .paused)
  let holding := live && !queued.isEmpty && queued.all fun e => !s.mayDecode e
  putAt (if s.stoppedByFault then 3 else if has .decoding then 1 else if holding then 2 else 0) 2 30 + putAt (busy 0) 6 24
    + putAt (busy 1) 5 19 + putAt (busy 2) 4 15 + bitAt (has .waitPool) 14 + bitAt (s.ringFull st) 13
/-- A word of the registers of a bucking die. -/
def State.bkWord (s : State) (st o : Nat) : Option Nat :=
  if o = 0 then some (s.bkStatus st)
  else if 8 ≤ o ∧ o < 0x20 then some (wordOf (s.count (regBase (84 + st) + o / 8 * 8)) (o % 8 / 4))
  else if 0xF00000 ≤ o then s.limberWord (84 + st) (o - 0xF00000)
  else none

/-! ### Spine, host port, second tier (R299, R400, R401, R431, R432) -/

/-- `SPINE_STATUS`. -/
def State.spineStatus (s : State) (k : Nat) : Nat :=
  let x := sget {} s.spine k
  putAt (if x.stopped || s.stoppedByFault then 2 else if s.job.plan.isSome then 1 else 0) 2 30
    + putAt (x.retraining.filter fun e => e.2).length 6 24 + putAt ((x.lanes.map fun e => e.2).sum) 8 16 + bitAt x.replaySeen 0
/-- The code of a port's state. -/
def PortState.code : PortState → Nat
  | .down => 0 | .training => 1 | .up => 2 | .retraining => 3 | .epochHeld => 4
/-- `SKID_PORT_STATUS`. -/
def State.portStatus (s : State) (n : Nat) : Nat :=
  let p := s.port n
  putAt p.state.code 3 29 + bitAt (s.peer n).used 28 + putAt p.farModule 12 16 + putAt p.farPort 4 12 + bitAt p.farKnown 11
    + bitAt p.crcMismatch 2 + bitAt p.nakSent 1 + bitAt p.retrained 0
/-- A word of the registers of a spine die. -/
def State.spineWord (s : State) (k o : Nat) : Option Nat :=
  if o = 0 then some (s.spineStatus k)
  else if 8 ≤ o ∧ o < 16 then some (wordOf (sget {} s.spine k).replays ((o - 8) / 4))
  else if 0x100 ≤ o ∧ o < 0x200 then
    let n := 4 * k + (o - 0x100) / 0x40
    let r := (o - 0x100) % 0x40
    let p := s.port n
    if r = 0 then some (s.portStatus n)
    else if 8 ≤ r ∧ r < 16 then some (wordOf p.resends ((r - 8) / 4))
    else if 16 ≤ r ∧ r < 24 then some (wordOf p.framesTx ((r - 16) / 4))
    else if 24 ≤ r ∧ r < 32 then some (wordOf p.framesRx ((r - 24) / 4))
    else none
  else none

/-- `HOST_PORT_STATUS`. -/
def State.hostStatus (s : State) : Nat :=
  let h := s.host
  putAt h.linkState 2 30 + putAt h.laneMode 1 29 + putAt h.sessions.length 3 20 + putAt h.flows.length 7 13 + bitAt h.fecUncorrected 2
    + bitAt h.crcDiscard 1 + bitAt h.linkChanged 0
/-- A word of the host-port registers. -/
def State.hostWord (s : State) (o : Nat) : Option Nat :=
  if o = 0 then some s.hostStatus
  else if 8 ≤ o ∧ o < 0x30 then some (wordOf (s.count (regBase 96 + o / 8 * 8)) (o % 8 / 4))
  else none

/-- The devices of a CXL port. -/
def State.devicesOn (s : State) (p : Nat) : List CxlDevice := s.cxl.devices.filter fun d => d.port = p
/-- `CXL_PORT_STATUS`: state and speed of the port's first device; a port of eight-lane devices is split. -/
def State.cxlStatus (s : State) (p : Nat) : Nat :=
  let ds := s.devicesOn p
  let (link, speed, mode) := match ds with
    | [] => (0, 0, 0)
    | d :: _ => (d.link, if d.link = 2 then d.speed else 0, if ds.any fun d => decide (d.foundWidth ≤ 8) then 2 else 1)
  putAt link 2 30 + putAt speed 2 28 + putAt mode 2 26 + putAt ds.length 2 24 + bitAt (sget false s.cxl.poison p) 23
    + bitAt (sget false s.cxl.crcMismatch p) 22

/-! ### The warden's registers (R480, R506 to R508, R537, R554) -/

/-- `SAFETY_STATUS`. -/
def State.safetyStatus (s : State) : Nat :=
  bitAt s.safe.latch 31 + bitAt s.safe.inhibit 30 + bitAt s.safe.selftestDue 29 + s.safe.first.code % 2 ^ 16
/-- An input reads 40 V to 58 V. -/
def inputOk (mv : Nat) : Bool := decide (40000 ≤ mv ∧ mv ≤ 58000)
/-- `SUPPLY_STATUS`. -/
def State.supplyStatus (s : State) : Nat :=
  let p := s.power
  putAt p.feed 1 31 + bitAt (inputOk p.main) 30 + bitAt (inputOk p.backup) 29 + bitAt p.switching 28 + putAt p.powerDemand 7 16
    + min 65535 p.power
/-- `CLK_DOMAIN` of an instance. -/
def ClkInst.word (c : ClkInst) : Nat :=
  putAt (if c.switching.isSome then 3 else c.source) 2 30 + bitAt c.lockA 29 + bitAt c.lockB 28 + bitAt c.switching.isSome 27
    + putAt c.level 7 16 + bitAt c.lockLost 2 + bitAt c.switched 1 + bitAt c.stretched 0
/-- `BOOT_STATUS`. -/
def State.bootStatus (s : State) : Nat :=
  let x := s.start
  putAt x.stage 4 28 + bitAt x.bootB 27 + bitAt s.onTrial 26 + putAt x.lifecycle 2 24 + putAt x.security 6 18 + bitAt x.identity 17
    + bitAt (decide (x.card ≠ 0)) 16 + putAt x.slotsel 2 14 + bitAt x.stumpN 13 + bitAt x.cardChanged 2 + bitAt x.tamperSeen 1
    + bitAt x.storeReset 0
/-- Flash is being written: an install, or an upload to the library or to a slot. -/
def State.flashBusy (s : State) : Bool :=
  s.start.installing || s.host.flows.any fun f => !f.outbound && (f.channel == 1 || f.channel == 15)
/-- `BG_STATUS`. -/
def State.bgStatus (s : State) : Nat :=
  let b := s.bg
  bitAt (sget false b.behind 0) 31 + bitAt (sget false b.behind 1) 30 + bitAt (sget false b.behind 2) 29 + bitAt s.flashBusy 28
    + putAt b.spares 12 12 + bitAt b.verifyFailed 0
/-- A word of the warden's registers. -/
def State.wardenWord (s : State) (o : Nat) : Option Nat :=
  if o = 0 then some s.safetyStatus
  else if o = 0x100 then some s.supplyStatus
  else if o = 0x200 then some s.bootStatus
  else if o = 0x300 then some s.bgStatus
  else if 0x1000 ≤ o ∧ o < 0x1000 + 4 * clkInstances then some (s.inst ((o - 0x1000) / 4)).word
  else none

/-! ### Reading (R429) -/

/-- The 32-bit word at a register address; none where no register map defines it, or its die is not in service. -/
def State.regWord (s : State) (a : Nat) : Option Nat :=
  if a < ctrlBase ∨ a % 4 ≠ 0 then none
  else
    let d := (a - ctrlBase) / 2 ^ 24
    let o := (a - ctrlBase) % 2 ^ 24
    if d < 52 then (if s.start.dieMap.contains d then s.computeWord d o else none)
    else if d < 84 then s.baseWord (d - 52) o
    else if d < 92 then s.bkWord (d - 84) o
    else if d < 96 then s.spineWord (d - 92) o
    else if d = 96 then s.hostWord o
    else if d < 99 then (if o = 0 then some (s.cxlStatus (d - 97)) else none)
    else if d = 99 then s.wardenWord o
    else none
/-- A read of `size` bytes: beyond the end of a register map, the upper word reads as zero. -/
def State.regRead (s : State) (a size : Nat) : Option Nat :=
  if size ≠ 8 then s.regWord a
  else if a % 8 ≠ 0 then none
  else (s.regWord a).map fun w => w + (s.regWord (a + 4)).getD 0 * 2 ^ 32

/-! ### Writing (R7, R429) -/

/-- A W1C bit of a write at place `n` keeps the bit unless it is 1. -/
def keeps (v n : Nat) (b : Bool) : Bool := b && decide ((v / 2 ^ n) % 2 = 0)

/-- A write of the 32-bit word at an address that is a register: none where no field of it may be written, or where it is
`BANK_CTRL`. -/
def State.regPut (s : State) (a v : Nat) : Option State :=
  let d := (a - ctrlBase) / 2 ^ 24
  let o := (a - ctrlBase) % 2 ^ 24
  if d < 52 then
    if o < 0xC0000 then
      match s.clusterAt d (o / 2 ^ 16) with
      | none => none
      | some cl =>
        if o % 2 ^ 16 = 0x400 then some (s.modCl cl fun c => { c with diagPrefence := keeps v 2 c.diagPrefence })
        else if o % 2 ^ 16 = 0x440 then some (s.diagSelect d (o / 2 ^ 16) v)
        else none
    else if o = 0xD00000 then some (s.writeGates d v)
    else if 0xE00000 ≤ o ∧ o < 0xE00E00 ∧ o % 64 = 8 then
      some (s.modBank d ((o - 0xE00000) / 64) fun b => { b with collision := keeps v 2 b.collision, notOnAccess := keeps v 1 b.notOnAccess,
                                                                notOwnerAccess := keeps v 0 b.notOwnerAccess })
    else none
  else if d < 84 then
    if o = 0 then some (s.modBase (d - 52) fun b => { b with crcMismatch := keeps v 1 b.crcMismatch, eccReport := keeps v 0 b.eccReport })
    else if o = 0x40 then
      some { s with upd := { s.upd with partialSeen := supd false s.upd.partialSeen (d - 52) (keeps v 0) } }
    else none
  else if d < 92 then none
  else if d < 96 then
    if o = 0 then some { s with spine := supd {} s.spine (d - 92) fun x => { x with replaySeen := keeps v 0 x.replaySeen } }
    else if 0x100 ≤ o ∧ o < 0x200 ∧ o % 0x40 = 0 then
      some (s.modPort (4 * (d - 92) + (o - 0x100) / 0x40) fun p =>
        { p with crcMismatch := keeps v 2 p.crcMismatch, nakSent := keeps v 1 p.nakSent, retrained := keeps v 0 p.retrained })
    else none
  else if d = 96 then
    if o = 0 then some { s with host := { s.host with fecUncorrected := keeps v 2 s.host.fecUncorrected,
                                                      crcDiscard := keeps v 1 s.host.crcDiscard,
                                                      linkChanged := keeps v 0 s.host.linkChanged } }
    else none
  else if d < 99 then
    some { s with cxl := { s.cxl with poison := supd false s.cxl.poison (d - 97) (keeps v 23),
                                      crcMismatch := supd false s.cxl.crcMismatch (d - 97) (keeps v 22) } }
  else if o = 0x200 then
    some { s with start := { s.start with cardChanged := keeps v 2 s.start.cardChanged, tamperSeen := keeps v 1 s.start.tamperSeen,
                                          storeReset := keeps v 0 s.start.storeReset } }
  else if o = 0x300 then some { s with bg := { s.bg with verifyFailed := keeps v 0 s.bg.verifyFailed } }
  else if 0x1000 ≤ o then
    some (s.modInst ((o - 0x1000) / 4) fun c => { c with lockLost := keeps v 2 c.lockLost, switched := keeps v 1 c.switched,
                                                         stretched := keeps v 0 c.stretched })
  else none

/-- A write of `size` bytes: none of an 8-byte write's two words need be writable but one. -/
def State.regWrite (s : State) (a size v : Nat) : Option State :=
  let low := s.regPut a (v % 2 ^ 32)
  if size ≠ 8 ∨ (s.regWord (a + 4)).isNone then low
  else match low, (low.getD s).regPut (a + 4) (v / 2 ^ 32 % 2 ^ 32) with
    | none, none => none
    | some t, none => some t
    | _, some t => some t

/-- `CLK_GATE`: a write of the gate tree of a compute die. -/
def execClkGate (die value : Nat) (s : State) : Res := .next (s.writeGates die (value % 2 ^ 32))

end Sys2Proof.Machine
end

