-- ==== Sys2Proof/Machine/TallyCmds.lean ====
section
/-! DEFINITION. The Tally's commands: reading an object, writing one, describing one, applying a group, the safe point of an
apply, the persistent store, diagnostics registers and the event log (R408, R411, R423 to R429, R551). -/

namespace Sys2Proof.Machine

/-! ### Present values of read-only objects -/

/-- Codes of `TIME_STATE` (R33) and `JOB_STATE` (R63). -/
def TimeState.code : TimeState → Nat
  | .unlocked => 0 | .acquiring => 1 | .locked => 2 | .holdover => 3 | .lost => 4
def JobState.code : JobState → Nat
  | .empty => 0 | .loaded => 1 | .armed => 2 | .running => 3 | .paused => 4 | .stopped => 5 | .fault => 6

/-- A BOOL. -/
def flag (b : Bool) : Bytes := u8 (if b then 1 else 0)
/-- A signed number on `n` bytes. -/
def intBytes (n : Nat) (x : Int) : Bytes := leBytes n (codeOf (8 * n) x)
/-- An F32 of an exact value. -/
def f32Of (x : ℚ) : Bytes := u32 (f32Code x)

/-- `PLAN_LIBRARY` of a slot; an empty slot reads as zeros. -/
def State.libraryRec (s : State) (slot : Nat) : Bytes :=
  let img := sget [] s.host.library slot
  padTo 8 (slice img 0x10 8) ++ padTo 8 (slice img 0x18 8) ++ padTo 8 (slice img 0x88 8) ++ padTo 64 (slice img 0xD0 64)
/-- `STAT_COUNTS` of a watch number and format code, and `STAT_HISTOGRAM`: empty where the closed step did not enable it (R148). -/
def Counts.bytes (c : Counts) : Bytes := u64 c.elements ++ u64 c.saturated ++ u64 c.flushed ++ u64 c.below ++ u64 c.nonFinite
def State.histBytes (s : State) (w f : Nat) : Bytes :=
  if s.stats.closed.watch.getD (w / 32) 0 / 2 ^ (w % 32) % 2 = 1 then (List.range 64).flatMap fun b => u64 (sget 0 s.stats.closed.hist (64 * (16 * w + f) + b)) else []
/-- `SESSION_INFO`. -/
def Session.info (x : Session) : Bytes := u32 x.id ++ u8 x.slot ++ padTo 16 x.addr ++ u64 x.opened ++ u64 x.last
/-- `CXL_DEVICE` and `CXL_WINDOW_RANGE`. -/
def CxlDevice.info (d : CxlDevice) : Bytes := u8 d.port ++ u8 d.width ++ u8 d.speed ++ u64 d.capacity ++ u64 d.dataArea
def CxlDevice.range (d : CxlDevice) (ways : Nat) : Bytes := u64 d.base ++ u64 d.window ++ u64 d.partner ++ u8 ways
/-- `SNAPSHOT_SLOTS`: a complete copy is offered unless its module's feeds are shared (R440, R450). -/
def SnapSlot.info (x : SnapSlot) : Bytes := u64 x.step ++ u16 x.module ++ u8 x.state ++ flag (decide (x.state = 2) && !x.coFed)
/-- `FW_SLOT`; the image's fields of an empty slot read as zeros. -/
def FwSlot.info (x : FwSlot) : Bytes :=
  u8 x.state ++ u8 x.trials ++ u32 (imgVersion x.image) ++ u8 (imgSecurity x.image) ++ u16 (imgStore x.image)
    ++ (if x.image = [] then List.replicate 64 0#8 else padTo 64 (headerDigest x.image))
/-- `CLOCK_DOMAINS`. -/
def ClkInst.info (c : ClkInst) : Bytes := u8 c.source ++ u8 c.level ++ flag c.lockA ++ flag c.lockB ++ u32 c.kHz
/-- `SKID_PORT_INFO`. -/
def SkidPort.info (p : SkidPort) : Bytes := u8 p.state.code ++ u16 p.farModule ++ u8 p.farPort ++ intBytes 4 p.delay
/-- `PAIR_STATE`. -/
def State.pairRec (s : State) : Bytes :=
  let done := decide (s.snap.paired = some 0)
  u16 (if done then s.partner else 0) ++ u16 (s.snap.heldFor.getD 0) ++ flag done ++ flag (s.snap.coFed || s.snap.heldCoFed)
    ++ u32 (s.snap.partnerFeeds.getD 0 0) ++ u32 (s.snap.partnerFeeds.getD 1 0)
/-- `DIE_TEMPERATURE`: 0 for a die not in service. -/
def State.dieTemp (s : State) (d : Nat) : Nat := if d < 52 ∧ !s.start.dieMap.contains d then 0 else sget 0 s.power.temps d
/-- `LAST_BOUND_EXCEEDED`. -/
def State.boundRec (s : State) : Bytes :=
  match s.job.lastBound with
  | [d, r, c, k, i, v, m] => u8 d ++ u8 r ++ u8 c ++ u8 k ++ u32 i ++ u32 v ++ u32 m
  | _ => List.replicate 16 0#8
/-- `LAST_UPDATE`. -/
def State.updateRec (s : State) : Bytes :=
  match s.upd.last with
  | [k, a, g, w, n, c] => u64 k ++ u8 a ++ u16 g ++ u16 w ++ u32 n ++ u32 c
  | _ => List.replicate 21 0#8
/-- The record of the fault history, the event ring. -/
def recordsBytes (rs : List EventRec) : Bytes := rs.flatMap EventRec.bytes

/-- Identity, job and statistics objects. -/
def State.roLow (s : State) (index sub : Nat) : Option Bytes :=
  let j := s.job
  if 0x3100 ≤ index ∧ index < 0x3130 then some (leBytes 4 (xaSpareMap (s.physDie (index - 0x3100)) (sub - 1)))
  else if 0x3130 ≤ index ∧ index < 0x3160 then some (leBytes 8 (vuSpareMap (s.physDie (index - 0x3130)) (sub - 1)))
  else match index with
    | 0x1010 => some (u8 (s.physDie (sub - 1)))
    | 0x1011 => some (u8 (s.start.spares.getD (sub - 1) 0xFF))
    | 0x1012 => some (u8 s.start.repairs)
    | 0x1013 => some (u32 s.start.mapGeneration)
    | 0x1031 => some (match s.host.sessions[sub - 1]? with | some x => x.info | none => List.replicate 37 0#8)
    | 0x2001 => some (u8 j.state.code)
    | 0x2002 => some (u8 j.loadResult)
    | 0x2003 => some (match j.plan, sub with
      | some p, 1 => u64 p.planId | some p, 2 => u64 p.jobId | some p, _ => p.imageDigest
      | none, 3 => [] | none, _ => u64 0)
    | 0x2004 => some (u64 j.stepNow)
    | 0x2005 => some (u8 j.phaseNow)
    | 0x2006 => some (u64 j.lastCommitted)
    | 0x2007 => some (u64 j.lastCleared)
    | 0x2008 => some (u64 j.pauseTotal)
    | 0x2009 => some (u32 j.overruns)
    | 0x200A => some (u32 j.stragglers)
    | 0x2010 => some (s.libraryRec (sub - 1))
    | 0x3014 => some s.boundRec
    | _ => none

/-- Memory, ingest, update, time and link objects. -/
def State.roMid (s : State) (index sub : Nat) : Option Bytes :=
  if 0x4130 ≤ index ∧ index < 0x4160 then some (u8 (spareBank (s.physDie (index - 0x4130)) (sub - 1)))
  else match index with
    | 0x4022 => some (u64 ((List.range 32).map fun m => s.count (kGaeContributions m)).sum)
    | 0x4031 => some (u8 s.cow.state)
    | 0x4040 => some (u64 (sget 0 s.stash.lastHigh (sub - 1)))
    | 0x4041 => some (u64 (sget 0 s.stash.lastReserve (sub - 1)))
    | 0x4060 => some (u8 (s.baseDie (sub - 1)).temp)
    | 0x4051 => some (match s.cxl.devices[sub - 1]? with | some d => d.info | none => List.replicate 19 0#8)
    | 0x4052 => some (match s.cxl.devices[sub - 1]? with
      | some d => d.range (if s.cxl.interleaved then 2 else 1) | none => List.replicate 25 0#8)
    | 0x4053 => some (u64 s.windowBytes)
    | 0x5010 => some (padTo 34 (sget [] s.ingest.load (sub - 1)))
    | 0x5020 => some ((List.range 4).flatMap fun i => u64 (s.count (kStream (sub - 1) i)))
    | 0x5021 => some (u64 s.ingest.ingestStep)
    | 0x6010 => some s.updateRec
    | 0x7002 => some (u8 s.time.state.code)
    | 0x7003 => some (intBytes 8 s.time.offset)
    | 0x7004 => some (u32 (s.time.holdover / msCycles))
    | 0x7006 => some (u64 s.stamp)
    | 0x7007 => some (intBytes 4 (sget 0 s.time.peerOffset (sub - 1)))
    | 0x7008 => some (u64 s.time.freqWord)
    | 0x7010 => some (s.port (sub - 1)).info
    | 0x7030 => some (u32 s.net.arbWaitMax)
    | 0x7040 => some (u64 s.net.combineStep ++ u64 s.net.combineStamp ++ u8 s.net.combineDepth)
    | _ => none

/-- Safety, snapshot, clock, firmware and background objects. -/
def State.roHigh (s : State) (index sub : Nat) : Option Bytes :=
  let st := s.start
  if 0xA100 ≤ index ∧ index < 0xA200 then
    some (match sub with
      | 0x11 => u64 s.stats.closedStep
      | 0x12 => u8 ((if s.stats.closed.fault then 1 else 0) + (if s.stats.closed.straggler then 2 else 0))
      | f => (sget {} s.stats.closed.counts (16 * (index - 0xA100) + (f - 1))).bytes)
  else if 0xA200 ≤ index ∧ index < 0xA300 then some (s.histBytes (index - 0xA200) (sub - 1))
  else match index, sub with
    | 0x8000, 1 => let f := s.safe.first; some (u16 f.code ++ u16 f.source ++ u64 f.stamp ++ u64 f.step ++ u8 f.phase)
    | 0x8100, 1 => some (u16 s.snap.index)
    | 0x8100, 3 => some (u32 s.snap.e ++ u16 s.snap.t ++ u32 s.snap.h ++ flag s.snap.armed)
    | 0x8120, 1 => some (u64 s.snap.newestSet)
    | 0x8120, n => some (if n < 4 then s.ownSlot (n - 2) else s.partnerSlot (n - 4)).info
    | 0x8130, 4 => some (u8 s.snap.restore.state)
    | 0x8130, 5 => let r := s.snap.restore; some (u32 r.verified ++ u32 r.extents ++ u64 r.bytes)
    | 0x8140, 3 => some s.pairRec
    | 0x9010, n => some (s.inst (n - 1)).info
    | 0x9020, _ => some (u8 s.power.feed)
    | 0x9021, 1 => some (f32Of (s.power.main / 1000))
    | 0x9021, 2 => some (f32Of (s.power.backup / 1000))
    | 0x9021, 3 => some (f32Of (s.power.power / 1000))
    | 0x9030, n => some (u64 (s.accrueStretch.count (kStretch (n - 1))))
    | 0x9040, n => some (u8 (s.dieTemp (n - 1)))
    | 0x9050, _ => some (u8 st.oscdly)
    | 0x9051, 1 => some (u32 s.power.inlet)
    | 0x9051, _ => some (u32 s.power.outlet)
    | 0x9052, _ => some (flag st.tamperHigh)
    | 0xB000, 1 => some (u8 st.stage)
    | 0xB000, 2 => some (u8 st.cause)
    | 0xB000, 3 => some (u32 st.bootCount)
    | 0xB000, _ => some (u32 st.timeMs)
    | 0xB010, n => some (s.fwSlot (n - 1)).info
    | 0xB013, _ => some (u8 st.result)
    | 0xB014, _ => some (u8 st.card)
    | 0xB020, 1 => some (u8 st.security)
    | 0xB020, 3 => some (u8 st.lifecycle)
    | 0xB030, 2 => some st.report
    | 0xB030, 3 => some (if st.identity then padTo 1952 Config.identityKey else [])
    | 0xB030, 4 => some Config.certificate
    | 0xA001, n => some (u64 (sget 0 s.bg.passes (n - 1)) ++ u32 (sget 0 s.bg.passMs (n - 1)) ++ flag (sget false s.bg.behind (n - 1)))
    | 0xA002, _ => some (u16 s.bg.spares ++ u16 s.bg.retired ++ u32 s.bg.highestErase ++ u64 s.bg.bytesWritten)
    | 0xA003, _ => some (u64 s.bg.verifyStamp ++ u32 s.bg.verifyFailures)
    | 0xA010, _ => some (recordsBytes s.log.ring)
    | 0xA012, _ => some (recordsBytes s.log.history)
    | _, _ => none

/-- The present value of an RO object: a generation number, a value formed from the state, or a counter. -/
def State.roBytes (s : State) (index sub : Nat) (o : Obj) : Bytes :=
  if sub = 0xFE ∧ isGroup index then u32 (sget 0 s.tally.gen index)
  else match (s.roLow index sub).orElse fun _ => (s.roMid index sub).orElse fun _ => s.roHigh index sub with
    | some v => v
    | none => leBytes (o.type.size.getD 8) (s.count (objKey index sub))

/-- The value of a CONST object. -/
def constBytes (index sub : Nat) (o : Obj) : Bytes :=
  match index, sub with
  | 0x1000, 1 => ascii "Aelnal"
  | 0x1000, 2 => ascii "FL-E100"
  | 0x1000, 4 => serialNumber
  | 0x1001, _ => u64 (Config.mac % 2 ^ 48)
  | 0xB020, 2 => padTo 32 Config.rootKeyDigest
  | _, _ => o.default

/-- The value that a `READ` of an object returns (R424); `shadow`: the shadow copy of a staged object. -/
def State.objBytes (s : State) (index sub : Nat) (o : Obj) (shadow : Bool) : Bytes :=
  match o.access with
  | .const => constBytes index sub o
  | .ro => s.roBytes index sub o
  | .rw => bytesOr s.tally.rw (objKey index sub) o.default
  | .rws => if shadow then s.shadowBytes index sub o else s.activeBytes index sub o
  | .wo => []

/-! ### Reading (R408, R411, R413, R424, R429, R551) -/

/-- The abort code of an index and subindex that name no object. -/
def noObject (index : Nat) : Nat := if indexDefined index then abNoSubindex else abNoObject
/-- A `READ` needs no session in the ranges 0x1000 and 0xA000 (R413). -/
def readFree (index : Nat) : Bool := decide (index / 0x1000 = 1 ∨ index / 0x1000 = 0xA)
/-- A segment of a value (R411). -/
def segment (s : State) (v : Bytes) (offset : Nat) : Answer :=
  let part := slice v offset 4096
  ⟨0, part, decide (v.length ≤ offset + part.length), s⟩
/-- `DIAG_REG_ADDR`, `DIAG_REG_SIZE`. -/
def State.diagAddr (s : State) : Nat := s.rwValue 0xF000 1 0
def State.diagSize (s : State) : Nat := s.rwValue 0xF000 2 4
/-- A read of `DIAG_REG_DATA`. -/
def State.diagAnswer (s : State) : Answer :=
  match s.regRead s.diagAddr s.diagSize with | some v => ⟨0, u64 v, true, s⟩ | none => refuse s abNoRegister
/-- A read of `EVENT_LOG`: at offset 0 the ring is captured, oldest first; the capture serves the later segments until
`LAST`. -/
def State.logAnswer (s : State) (offset : Nat) : Answer :=
  let v := if offset = 0 ∨ s.log.capture = [] then recordsBytes s.log.ring else s.log.capture
  let a := segment s v offset
  { a with s := { s with log := { s.log with capture := if a.last then [] else if offset = 0 then v else s.log.capture } } }

/-- `READ` of an object without a row of its own. -/
def execRead (q : Req) (s : State) : Res :=
  .next (s.serve q 1 (readFree q.index) false fun s =>
    match objAt q.index q.sub with
    | none => refuse s (noObject q.index)
    | some o =>
      if o.access = .wo then refuse s abNotReadable
      else if reqIs q 0xF000 3 then s.diagAnswer
      else if reqIs q 0xA010 0 then s.logAnswer q.offset
      else segment s (s.objBytes q.index q.sub o q.shadow) q.offset)

/-- `DIAG_REG_READ`: a `READ` of `DIAG_REG_DATA`. -/
def execDiagRegRead (q : Req) (s : State) : Res :=
  .next (if reqIs q 0xF000 3 then s.serve q 1 false false State.diagAnswer else s)

/-- `EVENT_LOG`: a `READ` of `EVENT_LOG`. -/
def execEventLog (q : Req) (s : State) : Res :=
  .next (if reqIs q 0xA010 0 then s.serve q 1 true false fun s => s.logAnswer q.offset else s)

/-- The group that an object belongs to (R408). -/
def groupOf (index sub : Nat) (o : Obj) : Nat := if o.access = .rws ∨ (isGroup index ∧ 0xFE ≤ sub) then index else 0
/-- What `DESCRIBE` returns of an object (R408, R581). -/
def State.description (s : State) (index sub : Nat) (o : Obj) : Bytes :=
  u8 o.type.code ++ u8 o.access.code
    ++ u8 ((if o.persistent then 1 else 0) + (if o.commissioning then 2 else 0) + (if o.access = .rws then 4 else 0)) ++ u8 0
    ++ u16 (groupOf index sub o) ++ u16 0 ++ u32 (o.type.size.getD (s.objBytes index sub o false).length) ++ ascii o.name
/-- `DESCRIBE`. -/
def execDescribe (q : Req) (s : State) : Res :=
  .next (s.serve q 3 true false fun s =>
    match objAt q.index q.sub with
    | none => refuse s (noObject q.index)
    | some o => ⟨0, s.description q.index q.sub o, true, s⟩)

/-! ### Applying a group (R426) -/

/-- The shadows of a group, captured now. -/
def State.capture (s : State) (g : Nat) : PendApply :=
  ⟨g, s.beat, (groupSubs g).map fun e => (objKey g e.1, s.shadowBytes g e.1 e.2)⟩
/-- An apply is accepted: it replaces a pending one of its group; the generation number grows. -/
def State.acceptApply (s : State) (g : Nat) : State :=
  let a := s.capture g
  let s1 := if (s.pendingOf g).isSome then s.event wardenSrc 0x8211 else s
  { s1 with tally := { s1.tally with
      pendingApply := s1.tally.pendingApply.filter (fun p => p.group ≠ g) ++ [a],
      gen := sset 0 s1.tally.gen g ((sget 0 s1.tally.gen g + 1) % 2 ^ 32),
      written := s1.tally.written.filter fun k => k / 256 ≠ g } }
/-- `TALLY_APPLY`: a write of a group's apply subindex. -/
def execTallyApply (q : Req) (s : State) : Res :=
  .next (if isGroup q.index ∧ q.sub = 0xFF then
      s.serveWrite q q.index 0xFF 4 fun s v =>
        if v ≠ sget 0 s.tally.gen q.index then refuse s abGeneration
        else
          let ab := s.groupCheck (s.capture q.index)
          if ab ≠ 0 then refuse s ab else accept (s.acceptApply q.index)
    else s)

/-- A group that takes effect at the next beat boundary: every group but those whose safe point a phase of a step or
start-up reaches. -/
def atBoundary (g : Nat) : Bool := decide (g = 0x7000 ∨ g = 0x4030 ∨ g = 0x9000 ∨ g = 0x1020 ∨ g = 0x8110)
/-- `APPLY_SAFE_POINT` of a group that waits for a beat boundary: a clock switch waits for a switch-over to complete (R505).
An apply in a test mode that breaks the ratios of R499 has no defined outcome. -/
def execApplySafePoint (g : Nat) (s : State) : Res :=
  match s.pendingOf g with
  | none => .next s
  | some a =>
    if !atBoundary g ∨ s.beat = a.beat ∨ (g = 0x9000 ∧ s.power.switching) then .next s
    else if g = 0x9000 ∧ clockTest a.values ∧ ratioBroken a.values ∧ s.groupCheck a = 0 then .fault .clockRatioUndefined
    else .next (s.safePoint g)

/-! ### Writing (R408, R411, R423 to R425, R527) -/

/-- Bytes of the table store in use by tables other than subindex `sub`; a table written on trial is held twice (R526). -/
def State.tableUse (s : State) (sub : Nat) : Nat :=
  (((tablesOf s.tally.rw).filter fun e => e.1 % 256 ≠ sub).map fun e =>
    s.copies (63 + e.1 % 256) * e.2.length).sum
/-- 128 MiB. -/
def tableStore : Nat := 134217728
/-- The state forbids a write of an object (R47, R425, R527). -/
def State.writeForbidden (s : State) (index : Nat) (o : Obj) : Bool :=
  s.planLoaded && (o.commissioning || decide (index = 0x7000 ∨ index = 0xB040))
/-- A whole value is written: a table to flash, an RW value into force, a staged value to its shadow. -/
def State.storeValue (s : State) (q : Req) (o : Obj) (flash : FlashReport) (v : Bytes) : Answer :=
  if q.index = 0xB040 then
    let n := (s.formatsNow (63 + q.sub)).length * v.length
    if tableStore < s.tableUse q.sub + n then refuse s abStoreFull
    else if !flash.ok then refuse (s.flashWrite flash 0) abStoreFault
    else
      accept (((s.putValue (reqKey q) v false).flashWrite flash n).setFormats (63 + q.sub) (s.formatsNow (63 + q.sub)))
  else if o.access = .rws then
    accept { s with tally := { s.tally with shadow := (reqKey q, v) :: s.tally.shadow.filter (fun e => e.1 ≠ reqKey q),
                                            written := (s.tally.written ++ [reqKey q]).dedup } }
  else accept (s.putValue (reqKey q) v o.persistent)

/-- A write of a fixed-length object. -/
def State.writeFixed (s : State) (q : Req) (o : Obj) (n : Nat) (flash : FlashReport) : Answer :=
  if q.offset ≠ 0 ∨ (!q.last ∧ q.data.length < 4096) then refuse s abSegmentOrder
  else if q.data.length ≠ n then refuse s abTypeLength
  else if s.writeForbidden q.index o then refuse s abState
  else if o.access = .wo ∨ !rangeOk q.index q.sub q.data then refuse s abRange
  else s.storeValue q o flash q.data

/-- A segment of a BLOB. -/
def State.writeBlob (s : State) (q : Req) (o : Obj) (flash : FlashReport) : Answer :=
  s.blobSegment q (if s.writeForbidden q.index o then some abState else none) fun s v =>
    if !blobLengthOk q.index v.length then refuse s abTypeLength else s.storeValue q o flash v

/-- A write of `DIAG_REG_DATA` (R429). -/
def State.diagWrite (s : State) (v : Nat) : Answer :=
  match s.regRead s.diagAddr s.diagSize with
  | none => refuse s abNoRegister
  | some _ => match s.regWrite s.diagAddr s.diagSize v with | some t => accept t | none => refuse s abNotWritable
/-- `DIAG_REG_WRITE`: a `WRITE` of `DIAG_REG_DATA`. -/
def execDiagRegWrite (q : Req) (s : State) : Res :=
  .next (s.serveWrite q 0xF000 3 8 fun s v => s.diagWrite v)

/-- The write of an object that has a row of its own: that row's command serves it. -/
def writeOwn (q : Req) (s : State) : Option Res :=
  match q.index, q.sub with
  | 0x2000, 1 =>
    if q.data = u8 1 then some (execStart q s) else if q.data = u8 2 then some (execPauseStep q s)
    else if q.data = u8 3 then some (execPausePass q s) else if q.data = u8 4 then some (execResume q s)
    else if q.data = u8 5 then some (execStop q s) else if q.data = u8 6 then some (execUnload q s) else none
  | 0x2000, 4 => some (execPlanSlot q s)
  | 0x8130, 1 | 0x8130, 2 => some (execRestoreStep q s)
  | 0x8130, 3 =>
    if q.data = u8 1 then some (execRestoreGoStart q s) else if q.data = u8 2 then some (execRestoreGoStop q s) else none
  | 0xB000, 5 => some (execModuleRestart q s)
  | 0xB011, 0 => some (execFwConfirm q s)
  | 0xB012, 0 => some (execFwCardInstall q s)
  | 0xB020, 4 => some (execLifecycleReturn q s)
  | 0xB030, 1 => some (execAttestNonce q s)
  | 0xF000, 3 => some (execDiagRegWrite q s)
  | 0x1030, _ => if 1 ≤ q.sub ∧ q.sub ≤ 8 then some (execOperatorKey q s) else none
  | _, 0xFF => if isGroup q.index then some (execTallyApply q s) else none
  | _, _ => none

/-- `WRITE`; `flash`: nature's report where the object is a table. -/
def execWrite (q : Req) (flash : FlashReport) (s : State) : Res :=
  match writeOwn q s with
  | some r => r
  | none =>
    .next (s.serve q 2 false false fun s =>
      match objAt q.index q.sub with
      | none => refuse s (noObject q.index)
      | some o =>
        if o.access = .const ∨ o.access = .ro then refuse s abNotWritable
        else match o.type.size with
          | some n => s.writeFixed q o n flash
          | none => s.writeBlob q o flash)

/-! ### The persistent store (R425, R524) -/

/-- `PERSIST_WRITE`: the values that have changed are stored; a failed write is reported, and the values stay in force. -/
def execPersistWrite (flash : FlashReport) (s : State) : Res :=
  .next (if s.start.dirty = [] then s
    else if flash.ok then
      let n := ((s.tally.rw ++ s.tally.active).map fun e => e.2.length).sum
      (s.storeValues (imgStore (s.fwSlot s.booted).image)).flashWrite flash n
    else
      let t := s.flashWrite flash 0
      { t with start := { t.start with dirty := [] } }.event wardenSrc 0x8213)

end Sys2Proof.Machine
end

