-- ==== Sys2Proof/Machine/Dispatch.lean ====
section
/-! DEFINITION. The meaning of every command: one arm per constructor. -/

namespace Sys2Proof.Machine

/-- The command's effect on everything but the queue. -/
def exec (i : Instr) (s : State) : Host.Outcome State Fault Refusal :=
  match i with
  | .powerGood oscdly => Sys2Proof.Machine.execPowerGood oscdly s
  | .startStageDone r => Sys2Proof.Machine.execStartStageDone r s
  | .startStageTimeout => Sys2Proof.Machine.execStartStageTimeout s
  | .sourceUpdate offset logInterval => Sys2Proof.Machine.execSourceUpdate offset logInterval s
  | .sourceLost => Sys2Proof.Machine.execSourceLost s
  | .holdoverExpired => Sys2Proof.Machine.execHoldoverExpired s
  | .beatOverflow => Sys2Proof.Machine.execBeatOverflow s
  | .beatMark port f => Sys2Proof.Machine.execBeatMark port f s
  | .read q => Sys2Proof.Machine.execRead q s
  | .write q flash => Sys2Proof.Machine.execWrite q flash s
  | .describe q => Sys2Proof.Machine.execDescribe q s
  | .sessionChallenge q => Sys2Proof.Machine.execSessionChallenge q s
  | .sessionOpen q => Sys2Proof.Machine.execSessionOpen q s
  | .sessionClose q => Sys2Proof.Machine.execSessionClose q s
  | .keepalive q => Sys2Proof.Machine.execKeepalive q s
  | .sessionIdleTimeout id => Sys2Proof.Machine.execSessionIdleTimeout id s
  | .sequenceEntryExpiry addr => Sys2Proof.Machine.execSequenceEntryExpiry addr s
  | .authLockExpiry => Sys2Proof.Machine.execAuthLockExpiry s
  | .tallyApply q => Sys2Proof.Machine.execTallyApply q s
  | .applySafePoint g => Sys2Proof.Machine.execApplySafePoint g s
  | .persistWrite flash => Sys2Proof.Machine.execPersistWrite flash s
  | .operatorKey q => Sys2Proof.Machine.execOperatorKey q s
  | .diagRegRead q => Sys2Proof.Machine.execDiagRegRead q s
  | .diagRegWrite q => Sys2Proof.Machine.execDiagRegWrite q s
  | .xaDiagSel die n value => Sys2Proof.Machine.execXaDiagSel die n value s
  | .xaDiagCaptureDone die n ksteps residueOk => Sys2Proof.Machine.execXaDiagCaptureDone die n ksteps residueOk s
  | .clkGate die value => Sys2Proof.Machine.execClkGate die value s
  | .eventLog q => Sys2Proof.Machine.execEventLog q s
  | .planSlot q => Sys2Proof.Machine.execPlanSlot q s
  | .planLoadComplete => Sys2Proof.Machine.execPlanLoadComplete s
  | .start q => Sys2Proof.Machine.execStart q s
  | .pauseStep q => Sys2Proof.Machine.execPauseStep q s
  | .pausePass q => Sys2Proof.Machine.execPausePass q s
  | .resume q => Sys2Proof.Machine.execResume q s
  | .stop q => Sys2Proof.Machine.execStop q s
  | .unload q => Sys2Proof.Machine.execUnload q s
  | .stepStart => Sys2Proof.Machine.execStepStart s
  | .phaseWindowStart k p => Sys2Proof.Machine.execPhaseWindowStart k p s
  | .phaseWindowEnd k p checks => Sys2Proof.Machine.execPhaseWindowEnd k p checks s
  | .commit => Sys2Proof.Machine.execCommit s
  | .stepClear => Sys2Proof.Machine.execStepClear s
  | .pauseTakesEffect => Sys2Proof.Machine.execPauseTakesEffect s
  | .clusterPauseSpill cl => Sys2Proof.Machine.execClusterPauseSpill cl s
  | .resumeTakesEffect => Sys2Proof.Machine.execResumeTakesEffect s
  | .nop cl => Sys2Proof.Machine.execNop cl s
  | .matrix cl => Sys2Proof.Machine.execMatrix cl s
  | .conv cl => Sys2Proof.Machine.execConv cl s
  | .crop cl => Sys2Proof.Machine.execCrop cl s
  | .elemwise cl => Sys2Proof.Machine.execElemwise cl s
  | .kat cl => Sys2Proof.Machine.execKat cl s
  | .drain cl => Sys2Proof.Machine.execDrain cl s
  | .drainSlot cl => Sys2Proof.Machine.execDrainSlot cl s
  | .spillStore cl => Sys2Proof.Machine.execSpillStore cl s
  | .spillAdd cl => Sys2Proof.Machine.execSpillAdd cl s
  | .restore cl => Sys2Proof.Machine.execRestore cl s
  | .copy cl => Sys2Proof.Machine.execCopy cl s
  | .add cl => Sys2Proof.Machine.execAdd cl s
  | .sub cl => Sys2Proof.Machine.execSub cl s
  | .mul cl => Sys2Proof.Machine.execMul cl s
  | .max cl => Sys2Proof.Machine.execMax cl s
  | .min cl => Sys2Proof.Machine.execMin cl s
  | .sqdiff cl => Sys2Proof.Machine.execSqdiff cl s
  | .addImm cl => Sys2Proof.Machine.execAddImm cl s
  | .mulImm cl => Sys2Proof.Machine.execMulImm cl s
  | .maxImm cl => Sys2Proof.Machine.execMaxImm cl s
  | .minImm cl => Sys2Proof.Machine.execMinImm cl s
  | .axpy cl => Sys2Proof.Machine.execAxpy cl s
  | .exp cl => Sys2Proof.Machine.execExp cl s
  | .log cl => Sys2Proof.Machine.execLog cl s
  | .recip cl => Sys2Proof.Machine.execRecip cl s
  | .rsqrt cl => Sys2Proof.Machine.execRsqrt cl s
  | .sqrt cl => Sys2Proof.Machine.execSqrt cl s
  | .tanh cl => Sys2Proof.Machine.execTanh cl s
  | .sigmoid cl => Sys2Proof.Machine.execSigmoid cl s
  | .gelu cl => Sys2Proof.Machine.execGelu cl s
  | .silu cl => Sys2Proof.Machine.execSilu cl s
  | .segSum cl => Sys2Proof.Machine.execSegSum cl s
  | .segSumsq cl => Sys2Proof.Machine.execSegSumsq cl s
  | .segMax cl => Sys2Proof.Machine.execSegMax cl s
  | .segMin cl => Sys2Proof.Machine.execSegMin cl s
  | .softmax cl => Sys2Proof.Machine.execSoftmax cl s
  | .logsumexp cl => Sys2Proof.Machine.execLogsumexp cl s
  | .xent cl => Sys2Proof.Machine.execXent cl s
  | .xentGrad cl => Sys2Proof.Machine.execXentGrad cl s
  | .segScale cl => Sys2Proof.Machine.execSegScale cl s
  | .segSub cl => Sys2Proof.Machine.execSegSub cl s
  | .slice cl => Sys2Proof.Machine.execSlice cl s
  | .topk cl => Sys2Proof.Machine.execTopk cl s
  | .dmaTransfer cl checks => Sys2Proof.Machine.execDmaTransfer cl checks s
  | .limberJob cl => Sys2Proof.Machine.execLimberJob cl s
  | .limberJobAccept cl => Sys2Proof.Machine.execLimberJobAccept cl s
  | .limberJobComplete die checks collided => Sys2Proof.Machine.execLimberJobComplete die checks collided s
  | .bankCtrl cl checks => Sys2Proof.Machine.execBankCtrl cl checks s
  | .bankHandoverComplete die bank => Sys2Proof.Machine.execBankHandoverComplete die bank s
  | .bankPowerTransitionDone die bank => Sys2Proof.Machine.execBankPowerTransitionDone die bank s
  | .syncWait cl => Sys2Proof.Machine.execSyncWait cl s
  | .syncWaitSatisfied cl => Sys2Proof.Machine.execSyncWaitSatisfied cl s
  | .syncSignal cl => Sys2Proof.Machine.execSyncSignal cl s
  | .syncSignalArrival n => Sys2Proof.Machine.execSyncSignalArrival n s
  | .beatWait cl => Sys2Proof.Machine.execBeatWait cl s
  | .beatWaitReached cl => Sys2Proof.Machine.execBeatWaitReached cl s
  | .boundLoadImmediate cl => Sys2Proof.Machine.execBoundLoadImmediate cl s
  | .boundLoadMemory cl back => Sys2Proof.Machine.execBoundLoadMemory cl back s
  | .boundLoadDerived cl => Sys2Proof.Machine.execBoundLoadDerived cl s
  | .maskRectangle cl => Sys2Proof.Machine.execMaskRectangle cl s
  | .maskBitmap cl back => Sys2Proof.Machine.execMaskBitmap cl back s
  | .arrayPassComplete cl checks => Sys2Proof.Machine.execArrayPassComplete cl checks s
  | .drainFence cl => Sys2Proof.Machine.execDrainFence cl s
  | .drainRowWrite cl residue checks => Sys2Proof.Machine.execDrainRowWrite cl residue checks s
  | .drainPathOpComplete cl checks => Sys2Proof.Machine.execDrainPathOpComplete cl checks s
  | .katCheckComplete cl signature residue => Sys2Proof.Machine.execKatCheckComplete cl signature residue s
  | .katMissed cl => Sys2Proof.Machine.execKatMissed cl s
  | .vectorOpComplete cl checks => Sys2Proof.Machine.execVectorOpComplete cl checks s
  | .dmaComplete cl checks collided => Sys2Proof.Machine.execDmaComplete cl checks collided s
  | .bulkData flow block body crc flash => Sys2Proof.Machine.execBulkData flow block body crc flash s
  | .bulkOpen addr session channel sub => Sys2Proof.Machine.execBulkOpen addr session channel sub s
  | .bulkOpenAck flow code => Sys2Proof.Machine.execBulkOpenAck flow code s
  | .bulkAck flow block window checks => Sys2Proof.Machine.execBulkAck flow block window checks s
  | .bulkNak flow blocks => Sys2Proof.Machine.execBulkNak flow blocks s
  | .bulkClose flow blocks flash => Sys2Proof.Machine.execBulkClose flow blocks flash s
  | .bulkCloseAck flow code => Sys2Proof.Machine.execBulkCloseAck flow code s
  | .ackTimer flow => Sys2Proof.Machine.execAckTimer flow s
  | .resendTimer flow => Sys2Proof.Machine.execResendTimer flow s
  | .bulkFlowTimeout flow => Sys2Proof.Machine.execBulkFlowTimeout flow s
  | .checkpointSkipped => Sys2Proof.Machine.execCheckpointSkipped s
  | .hostLinkUp => Sys2Proof.Machine.execHostLinkUp s
  | .hostLinkDown => Sys2Proof.Machine.execHostLinkDown s
  | .decodeStart stand cls => Sys2Proof.Machine.execDecodeStart stand cls s
  | .decodeTurn stand arrival cycles ends checks => Sys2Proof.Machine.execDecodeTurn stand arrival cycles ends checks s
  | .decodeBudgetExceeded stand arrival => Sys2Proof.Machine.execDecodeBudgetExceeded stand arrival s
  | .outputComplete stand arrival checks => Sys2Proof.Machine.execOutputComplete stand arrival checks s
  | .rowWriteComplete stand geom checks => Sys2Proof.Machine.execRowWriteComplete stand geom checks s
  | .guardPoint stand geom => Sys2Proof.Machine.execGuardPoint stand geom s
  | .admissionDeadline => Sys2Proof.Machine.execAdmissionDeadline s
  | .decodeLoad stand video audio text => Sys2Proof.Machine.execDecodeLoad stand video audio text s
  | .gradient m checks => Sys2Proof.Machine.execGradient m checks s
  | .contributionDeadline n => Sys2Proof.Machine.execContributionDeadline n s
  | .normPassComplete checks => Sys2Proof.Machine.execNormPassComplete checks s
  | .combineUp m => Sys2Proof.Machine.execCombineUp m s
  | .combineDown m => Sys2Proof.Machine.execCombineDown m s
  | .applyDescriptorDone n checks => Sys2Proof.Machine.execApplyDescriptorDone n checks s
  | .withdraw m => Sys2Proof.Machine.execWithdraw m s
  | .shadowCopyDone page checks => Sys2Proof.Machine.execShadowCopyDone page checks s
  | .pageDone page checks => Sys2Proof.Machine.execPageDone page checks s
  | .skidDataFrame port f wait => Sys2Proof.Machine.execSkidDataFrame port f wait s
  | .skidNak port f => Sys2Proof.Machine.execSkidNak port f s
  | .idleFrame port f => Sys2Proof.Machine.execIdleFrame port f s
  | .linkControlFrame port f part stepping farPort epoch serial delay => Sys2Proof.Machine.execLinkControlFrame port f part stepping farPort epoch serial delay s
  | .skidLinkUp port => Sys2Proof.Machine.execSkidLinkUp port s
  | .skidLinkDown port => Sys2Proof.Machine.execSkidLinkDown port s
  | .dmaWrite m checks collided => Sys2Proof.Machine.execDmaWrite m checks collided s
  | .relayedSyncSignal m => Sys2Proof.Machine.execRelayedSyncSignal m s
  | .command m => Sys2Proof.Machine.execCommand m s
  | .e2eAck m => Sys2Proof.Machine.execE2eAck m s
  | .linkRecord m => Sys2Proof.Machine.execLinkRecord m s
  | .faultNotice m => Sys2Proof.Machine.execFaultNotice m s
  | .captureRequest m => Sys2Proof.Machine.execCaptureRequest m s
  | .snapPage m => Sys2Proof.Machine.execSnapPage m s
  | .pair m => Sys2Proof.Machine.execPair m s
  | .pairAck m => Sys2Proof.Machine.execPairAck m s
  | .captureSent m => Sys2Proof.Machine.execCaptureSent m s
  | .held m => Sys2Proof.Machine.execHeld m s
  | .setMember m => Sys2Proof.Machine.execSetMember m s
  | .captureRefused m => Sys2Proof.Machine.execCaptureRefused m s
  | .restoreRefused m => Sys2Proof.Machine.execRestoreRefused m s
  | .restoreRead m => Sys2Proof.Machine.execRestoreRead m s
  | .restoreData m => Sys2Proof.Machine.execRestoreData m s
  | .restoreExtentVerified checks => Sys2Proof.Machine.execRestoreExtentVerified checks s
  | .restoreGoStart q => Sys2Proof.Machine.execRestoreGoStart q s
  | .restoreGoStop q => Sys2Proof.Machine.execRestoreGoStop q s
  | .restoreStep q => Sys2Proof.Machine.execRestoreStep q s
  | .windthrowEvaluation => Sys2Proof.Machine.execWindthrowEvaluation s
  | .environmentRecord => Sys2Proof.Machine.execEnvironmentRecord s
  | .flitReplay die module again => Sys2Proof.Machine.execFlitReplay die module again s
  | .cxlLinkRetrain port dev speed width => Sys2Proof.Machine.execCxlLinkRetrain port dev speed width s
  | .cxlLinkDown port dev => Sys2Proof.Machine.execCxlLinkDown port dev s
  | .scrubRead cls checks last => Sys2Proof.Machine.execScrubRead cls checks last s
  | .scrubBehind cls => Sys2Proof.Machine.execScrubBehind cls s
  | .hbmRefreshDue stack => Sys2Proof.Machine.execHbmRefreshDue stack s
  | .stackTempRead stack temp => Sys2Proof.Machine.execStackTempRead stack temp s
  | .hbmCalibration stack => Sys2Proof.Machine.execHbmCalibration stack s
  | .unitKatTest unit ok => Sys2Proof.Machine.execUnitKatTest unit ok s
  | .checkerSelfTest checker waits ok => Sys2Proof.Machine.execCheckerSelfTest checker waits ok s
  | .wardenLockstep => Sys2Proof.Machine.execWardenLockstep s
  | .controllerLockstep source => Sys2Proof.Machine.execControllerLockstep source s
  | .monitorSample r => Sys2Proof.Machine.execMonitorSample r s
  | .powerSample watts => Sys2Proof.Machine.execPowerSample watts s
  | .thermalDemandUpdate sensor reading => Sys2Proof.Machine.execThermalDemandUpdate sensor reading s
  | .stretchStepDown inst => Sys2Proof.Machine.execStretchStepDown inst s
  | .pllLockLoss inst pllB => Sys2Proof.Machine.execPllLockLoss inst pllB s
  | .standbyRelock inst pllB ok => Sys2Proof.Machine.execStandbyRelock inst pllB ok s
  | .switchOverStart main backup => Sys2Proof.Machine.execSwitchOverStart main backup s
  | .switchOverComplete => Sys2Proof.Machine.execSwitchOverComplete s
  | .returnToMain main => Sys2Proof.Machine.execReturnToMain main s
  | .supplyLost main backup => Sys2Proof.Machine.execSupplyLost main backup s
  | .feedBackupLow mv => Sys2Proof.Machine.execFeedBackupLow mv s
  | .tamper => Sys2Proof.Machine.execTamper s
  | .coolantDeltaHigh inlet outlet => Sys2Proof.Machine.execCoolantDeltaHigh inlet outlet s
  | .cardChanged card file => Sys2Proof.Machine.execCardChanged card file s
  | .fwCardInstall q => Sys2Proof.Machine.execFwCardInstall q s
  | .fwInstallComplete flash => Sys2Proof.Machine.execFwInstallComplete flash s
  | .fwConfirm q => Sys2Proof.Machine.execFwConfirm q s
  | .moduleRestart q => Sys2Proof.Machine.execModuleRestart q s
  | .lifecycleReturn q => Sys2Proof.Machine.execLifecycleReturn q s
  | .attestNonce q => Sys2Proof.Machine.execAttestNonce q s
  | .flashVerify failed => Sys2Proof.Machine.execFlashVerify failed s
  | .beatBoundary => Sys2Proof.Machine.execBeatBoundary s
  | .announceMessage sender domain identity priority1 clockClass accuracy variance priority2 stepsRemoved logInterval => Sys2Proof.Machine.execAnnounceMessage sender domain identity priority1 clockClass accuracy variance priority2 stepsRemoved logInterval s
  | .routeFlood port module ports => Sys2Proof.Machine.execRouteFlood port module ports s
  | .skidPortDown port => Sys2Proof.Machine.execSkidPortDown port s
  | .spineRetrainDone die module ok => Sys2Proof.Machine.execSpineRetrainDone die module ok s
  | .clockSwitchDone inst => Sys2Proof.Machine.execClockSwitchDone inst s
  | .icmpEchoRequest target data => Sys2Proof.Machine.execIcmpEchoRequest target data s
  | .neighbourRequest target data => Sys2Proof.Machine.execNeighbourRequest target data s
  | .frameDiscarded dgram corrected uncorrectable => Sys2Proof.Machine.execFrameDiscarded dgram corrected uncorrectable s
  | .undefinedOmOp q op => Sys2Proof.Machine.execUndefinedOmOp q op s

end Sys2Proof.Machine
end

