-- ==== Sys2Proof/Machine/Step.lean ====
section
/-! DEFINITION. One step: the command at the front of the queue, or a tick of the time engine when none waits. -/

namespace Sys2Proof.Machine

/-- The queue without its front. -/
def State.popped (s : State) (rest : List Instr) : State := { s with pending := rest }

/-- One step of the block. With no command waiting, the time engine's counter runs on by one of its cycles (R27). -/
def step (s : State) : Host.Outcome State Fault Refusal :=
  match s.pending with
  | [] => .next s.tick
  | c :: rest => exec c (s.popped rest)

/-- The state with the command of a table word in front of its queue; unchanged where the word spells none. -/
def State.withFetchWord (s : State) (nbits w : Nat) : State :=
  match decodeTableWord nbits w with
  | some c => { s with pending := c :: s.pending }
  | none => s

end Sys2Proof.Machine
end

