-- ==== Sys2Proof/Safety.lean ====
section
/-! DEFINITION. What counts as a sound state: the invariants that every step keeps. Each is a definition of its own over the
part of `State` it speaks of; `Inv` joins them. Then the words that claims use: frames, records, answers. -/

namespace Sys2Proof.Machine

/-- The counter keeps to its 64 bits of sub-beat units (R27), and the frequency words to 500 ppm of nominal (R29). -/
def TimeOk (t : TimeEngine) : Prop :=
  t.counter < counterEnd ∧ (nominalWord - wordSpan ≤ t.freqWord ∧ t.freqWord ≤ nominalWord + wordSpan)
    ∧ (nominalWord - wordSpan ≤ t.lockedWord ∧ t.lockedWord ≤ nominalWord + wordSpan)
/-- The event ring holds at most 65,536 records, the fault history at most 64 (R551, R552). -/
def LogOk (l : Log) : Prop := l.ring.length ≤ 65536 ∧ l.history.length ≤ 64
/-- With the fault latch the commit inhibit is set (R463, R464). -/
def SafeOk (x : Safety) : Prop := x.latch = true → x.inhibit = true
/-- Every sync object's value keeps to 32 bits (R390). -/
def SyncOk (y : Sync) : Prop := ∀ e ∈ y.values, e.2 < 2 ^ 32
/-- The job is `EMPTY` just where no plan is loaded (R63), and the initial values it gives keep to 32 bits (R53). -/
def JobOk (j : Job) : Prop :=
  (j.state = .empty ↔ j.plan = none) ∧ ∀ p, j.plan = some p → ∀ d ∈ p.sync, d.initial < 2 ^ 32
/-- At most four sessions and sixteen outstanding nonces (R414). -/
def HostOk (h : HostPort) : Prop := h.sessions.length ≤ 4 ∧ h.nonces.length ≤ 16

/-- The state invariant that every step keeps; memory is in its canonical form. -/
def Inv (s : State) : Prop :=
  Memory.wf s.mem = true ∧ TimeOk s.time ∧ LogOk s.log ∧ SafeOk s.safe ∧ SyncOk s.sync ∧ JobOk s.job ∧ HostOk s.host

/-! ### What a command leaves alone -/

/-- The parts of the state. -/
inductive Part where
  | time | start | log | safe | bg | stats | clusters | job | upd | banks | limbers | stash | cow | cxl | base | spine
  | skid | net | sync | tally | host | ingest | snap | power | mem | ctr | out | free | pending
  deriving DecidableEq, Repr

/-- A part is the same in two states. -/
def Part.same (p : Part) (s t : State) : Prop :=
  match p with
  | .time => t.time = s.time
  | .start => t.start = s.start
  | .log => t.log = s.log
  | .safe => t.safe = s.safe
  | .bg => t.bg = s.bg
  | .stats => t.stats = s.stats
  | .clusters => t.clusters = s.clusters
  | .job => t.job = s.job
  | .upd => t.upd = s.upd
  | .banks => t.banks = s.banks
  | .limbers => t.limbers = s.limbers
  | .stash => t.stash = s.stash
  | .cow => t.cow = s.cow
  | .cxl => t.cxl = s.cxl
  | .base => t.base = s.base
  | .spine => t.spine = s.spine
  | .skid => t.skid = s.skid
  | .net => t.net = s.net
  | .sync => t.sync = s.sync
  | .tally => t.tally = s.tally
  | .host => t.host = s.host
  | .ingest => t.ingest = s.ingest
  | .snap => t.snap = s.snap
  | .power => t.power = s.power
  | .mem => t.mem = s.mem
  | .ctr => t.ctr = s.ctr
  | .out => t.out = s.out
  | .free => t.free = s.free
  | .pending => t.pending = s.pending

/-- Every part but those named is the same. -/
def SameBut (ps : List Part) (s t : State) : Prop := ∀ p, p ∉ ps → p.same s t

/-! ### Which parts a command may change -/

/-- Every part but the queue. -/
def anyPart : List Part :=
  [.time, .start, .log, .safe, .bg, .stats, .clusters, .job, .upd, .banks, .limbers, .stash, .cow, .cxl,
   .base, .spine, .skid, .net, .sync, .tally, .host, .ingest, .snap, .power, .mem, .ctr, .out, .free]
/-- The parts of the state that a command may change, on any path: its own effect and the faults it may raise. -/
def mayChange : Instr → List Part
  | .powerGood _ | .startStageDone _ | .startStageTimeout | .write _ _ | .bulkData _ _ _ _ _ | .bulkClose _ _ _ |
    .supplyLost _ _ | .moduleRestart _ => anyPart
  | .sourceUpdate _ _ | .holdoverExpired | .beatMark _ _ =>
    [.time, .log, .safe, .stats, .clusters, .job, .upd, .limbers, .cow, .skid, .host, .ingest, .snap, .ctr, .out]
  | .sourceLost => [.time, .log, .host, .ctr, .out]
  | .beatOverflow | .xaDiagCaptureDone _ _ _ _ | .pauseTakesEffect | .resumeTakesEffect | .katMissed _ | .skidNak _ _ |
    .linkControlFrame _ _ _ _ _ _ _ _ | .skidLinkDown _ | .unitKatTest _ _ | .checkerSelfTest _ _ _ | .controllerLockstep _ =>
    [.log, .safe, .stats, .clusters, .job, .upd, .limbers, .cow, .skid, .host, .ingest, .snap, .ctr, .out]
  | .read _ | .sessionOpen _ | .eventLog _ | .hostLinkUp | .hostLinkDown => [.log, .host, .ctr, .out]
  | .describe _ | .sessionChallenge _ | .keepalive _ | .diagRegRead _ | .bulkNak _ _ | .ackTimer _ | .resendTimer _ |
    .undefinedOmOp _ _ => [.host, .ctr, .out]
  | .sessionClose _ | .sessionIdleTimeout _ | .bulkOpenAck _ _ | .bulkCloseAck _ _ | .bulkFlowTimeout _ |
    .checkpointSkipped | .restoreGoStop _ => [.log, .host, .snap, .ctr, .out]
  | .sequenceEntryExpiry _ | .authLockExpiry => [.host]
  | .tallyApply _ => [.log, .tally, .host, .ctr, .out]
  | .applySafePoint _ => [.time, .start, .log, .tally, .host, .power, .ctr, .out]
  | .persistWrite _ | .fwInstallComplete _ => [.start, .log, .bg, .host, .ctr, .out]
  | .operatorKey _ | .restoreStep _ => [.start, .log, .tally, .host, .snap, .ctr, .out]
  | .diagRegWrite _ => [.start, .bg, .clusters, .upd, .banks, .cxl, .base, .spine, .skid, .host, .power, .ctr, .out]
  | .xaDiagSel _ _ _ | .clusterPauseSpill _ => [.clusters]
  | .clkGate _ _ | .standbyRelock _ _ _ | .clockSwitchDone _ => [.power]
  | .planSlot _ => [.start, .log, .job, .tally, .host, .ctr, .out]
  | .planLoadComplete =>
    [.log, .safe, .stats, .clusters, .job, .upd, .banks, .limbers, .stash, .cow, .skid, .net, .sync, .host, .ingest, .snap, .power, .mem, .ctr, .out]
  | .start _ => [.log, .job, .skid, .net, .sync, .host, .ingest, .snap, .ctr, .out]
  | .pauseStep _ | .pausePass _ | .resume _ => [.log, .job, .skid, .host, .ctr, .out]
  | .stop _ | .decodeBudgetExceeded _ _ => [.log, .job, .host, .ingest, .snap, .ctr, .out]
  | .unload _ =>
    [.safe, .stats, .clusters, .job, .upd, .limbers, .stash, .cow, .net, .sync, .host, .ingest, .snap, .power, .ctr, .out]
  | .stepStart =>
    [.time, .start, .log, .safe, .stats, .clusters, .job, .upd, .limbers, .cow, .skid, .sync, .tally, .host, .ingest, .snap, .power, .ctr, .out, .free]
  | .phaseWindowStart _ _ =>
    [.time, .start, .log, .clusters, .job, .upd, .stash, .tally, .host, .ingest, .power, .mem, .ctr, .out]
  | .phaseWindowEnd _ _ _ =>
    [.log, .safe, .stats, .clusters, .job, .upd, .limbers, .stash, .cow, .cxl, .base, .skid, .sync, .host, .ingest, .snap, .mem, .ctr, .out, .free]
  | .commit => [.log, .job, .upd, .host, .ingest, .ctr, .out]
  | .stepClear => [.log, .job, .cow, .skid, .host, .snap, .ctr, .out]
  | .nop _ | .matrix _ | .conv _ | .crop _ | .elemwise _ | .kat _ | .drain _ | .drainSlot _ | .spillStore _ | .spillAdd _ |
    .restore _ | .copy _ | .add _ | .sub _ | .mul _ | .max _ | .min _ | .sqdiff _ | .addImm _ | .mulImm _ | .maxImm _ |
    .minImm _ | .axpy _ | .exp _ | .log _ | .recip _ | .rsqrt _ | .sqrt _ | .tanh _ | .sigmoid _ | .gelu _ | .silu _ |
    .segSum _ | .segSumsq _ | .segMax _ | .segMin _ | .softmax _ | .logsumexp _ | .xent _ | .xentGrad _ | .segScale _ |
    .segSub _ | .slice _ | .topk _ | .syncWait _ | .syncSignal _ | .beatWait _ | .boundLoadImmediate _ |
    .boundLoadDerived _ | .maskRectangle _ =>
    [.log, .safe, .stats, .clusters, .job, .upd, .limbers, .stash, .cow, .skid, .sync, .host, .ingest, .snap, .ctr, .out, .free]
  | .dmaTransfer _ _ | .limberJob _ | .bankCtrl _ _ =>
    [.log, .safe, .stats, .clusters, .job, .upd, .banks, .limbers, .stash, .cow, .cxl, .base, .skid, .net, .sync, .host, .ingest, .snap, .ctr, .out, .free]
  | .limberJobAccept _ => [.clusters, .limbers]
  | .limberJobComplete _ _ _ =>
    [.log, .safe, .stats, .clusters, .job, .upd, .banks, .limbers, .stash, .cow, .cxl, .base, .skid, .sync, .host, .ingest, .snap, .mem, .ctr, .out]
  | .bankHandoverComplete _ _ => [.log, .stats, .clusters, .banks, .skid, .sync, .host, .ctr, .out]
  | .bankPowerTransitionDone _ _ => [.banks, .mem]
  | .syncWaitSatisfied _ | .beatWaitReached _ | .drainFence _ => [.log, .stats, .clusters, .skid, .sync, .host, .ctr, .out]
  | .syncSignalArrival _ => [.log, .sync, .host, .ctr, .out]
  | .boundLoadMemory _ _ | .maskBitmap _ _ =>
    [.log, .safe, .stats, .clusters, .job, .upd, .banks, .limbers, .stash, .cow, .cxl, .base, .skid, .sync, .host, .ingest, .snap, .ctr, .out, .free]
  | .arrayPassComplete _ _ =>
    [.log, .safe, .stats, .clusters, .job, .upd, .limbers, .cow, .cxl, .base, .skid, .sync, .host, .ingest, .snap, .ctr, .out]
  | .drainRowWrite _ _ _ =>
    [.log, .safe, .stats, .clusters, .job, .upd, .banks, .limbers, .cow, .cxl, .base, .skid, .host, .ingest, .snap, .mem, .ctr, .out]
  | .drainPathOpComplete _ _ =>
    [.log, .safe, .stats, .clusters, .job, .upd, .banks, .limbers, .cow, .cxl, .base, .skid, .sync, .host, .ingest, .snap, .mem, .ctr, .out]
  | .katCheckComplete _ _ _ =>
    [.log, .safe, .stats, .clusters, .job, .upd, .limbers, .cow, .skid, .sync, .host, .ingest, .snap, .ctr, .out]
  | .vectorOpComplete _ _ =>
    [.log, .safe, .stats, .clusters, .job, .upd, .banks, .limbers, .cow, .cxl, .base, .skid, .sync, .host, .ingest, .snap, .mem, .ctr, .out, .free]
  | .dmaComplete _ _ _ | .dmaWrite _ _ _ =>
    [.log, .safe, .stats, .clusters, .job, .upd, .banks, .limbers, .stash, .cow, .cxl, .base, .skid, .net, .sync, .host, .ingest, .snap, .mem, .ctr, .out]
  | .bulkOpen _ _ _ _ => [.start, .host, .snap, .ctr, .out]
  | .bulkAck _ _ _ _ | .decodeTurn _ _ _ _ _ | .outputComplete _ _ _ | .normPassComplete _ =>
    [.log, .safe, .stats, .clusters, .job, .upd, .limbers, .cow, .cxl, .base, .skid, .host, .ingest, .snap, .ctr, .out]
  | .decodeStart _ _ => [.ingest]
  | .rowWriteComplete _ _ _ | .applyDescriptorDone _ _ =>
    [.log, .safe, .stats, .clusters, .job, .upd, .limbers, .cow, .cxl, .base, .skid, .sync, .host, .ingest, .snap, .mem, .ctr, .out]
  | .guardPoint _ _ => [.log, .skid, .sync, .host, .ingest, .ctr, .out]
  | .admissionDeadline => [.log, .job, .skid, .sync, .host, .ingest, .snap, .ctr, .out]
  | .decodeLoad _ _ _ _ => [.log, .host, .ingest, .ctr, .out]
  | .gradient _ _ =>
    [.log, .safe, .stats, .clusters, .job, .upd, .limbers, .cow, .cxl, .base, .skid, .net, .host, .ingest, .snap, .mem, .ctr, .out]
  | .contributionDeadline _ => [.upd]
  | .combineUp _ => [.log, .upd, .skid, .net, .out]
  | .combineDown _ | .skidDataFrame _ _ _ | .faultNotice _ =>
    [.log, .safe, .stats, .clusters, .job, .upd, .limbers, .cow, .skid, .net, .host, .ingest, .snap, .ctr, .out]
  | .withdraw _ => [.log, .upd, .skid, .net, .ctr, .out]
  | .shadowCopyDone _ _ | .pageDone _ _ | .restoreExtentVerified _ =>
    [.log, .safe, .stats, .clusters, .job, .upd, .limbers, .cow, .cxl, .base, .skid, .host, .ingest, .snap, .mem, .ctr, .out]
  | .idleFrame _ _ => [.log, .skid, .out]
  | .skidLinkUp _ => [.log, .skid, .host, .ctr, .out]
  | .relayedSyncSignal _ => [.log, .net, .sync, .host, .ctr, .out]
  | .command _ => [.log, .job, .skid, .net, .out]
  | .e2eAck _ => [.log, .stats, .clusters, .upd, .skid, .net, .sync, .host, .ctr, .out]
  | .linkRecord _ => [.log, .skid, .net, .host, .ctr, .out]
  | .captureRequest _ | .pair _ | .held _ | .restoreGoStart _ => [.log, .skid, .net, .host, .snap, .ctr, .out]
  | .snapPage _ | .captureSent _ | .routeFlood _ _ _ => [.log, .skid, .net, .snap, .out]
  | .pairAck _ | .setMember _ | .restoreRefused _ => [.log, .net, .host, .snap, .ctr, .out]
  | .captureRefused _ => [.net]
  | .restoreRead _ => [.log, .skid, .net, .out]
  | .restoreData _ => [.log, .net, .snap, .mem]
  | .windthrowEvaluation => [.log, .skid, .host, .snap, .ctr, .out, .free]
  | .environmentRecord | .feedBackupLow _ | .coolantDeltaHigh _ _ => [.log, .host, .power, .ctr, .out]
  | .flitReplay _ _ _ | .spineRetrainDone _ _ _ =>
    [.log, .safe, .stats, .clusters, .job, .upd, .limbers, .cow, .spine, .skid, .host, .ingest, .snap, .ctr, .out]
  | .cxlLinkRetrain _ _ _ _ => [.log, .cxl, .host, .snap, .ctr, .out]
  | .cxlLinkDown _ _ =>
    [.log, .safe, .stats, .clusters, .job, .upd, .limbers, .cow, .cxl, .skid, .host, .ingest, .snap, .ctr, .out]
  | .scrubRead _ _ _ =>
    [.log, .safe, .bg, .stats, .clusters, .job, .upd, .limbers, .cow, .cxl, .base, .skid, .host, .ingest, .snap, .ctr, .out]
  | .scrubBehind _ => [.log, .bg, .host, .ctr, .out]
  | .hbmRefreshDue _ | .hbmCalibration _ => []
  | .stackTempRead _ _ => [.base, .power]
  | .wardenLockstep => [.start, .log, .safe, .clusters, .job, .upd, .limbers, .cow, .skid, .host, .ingest, .snap, .ctr, .out]
  | .monitorSample _ =>
    [.start, .log, .safe, .stats, .clusters, .job, .upd, .limbers, .cow, .skid, .host, .ingest, .snap, .power, .ctr, .out]
  | .powerSample _ | .thermalDemandUpdate _ _ => [.log, .job, .host, .power, .ctr, .out]
  | .stretchStepDown _ | .switchOverStart _ _ | .returnToMain _ => [.power, .ctr]
  | .pllLockLoss _ _ =>
    [.log, .safe, .stats, .clusters, .job, .upd, .limbers, .cow, .skid, .host, .ingest, .snap, .power, .ctr, .out]
  | .switchOverComplete => [.log, .host, .snap, .power, .ctr, .out]
  | .tamper => [.start, .log, .safe, .stats, .clusters, .job, .upd, .limbers, .cow, .skid, .host, .ingest, .snap, .ctr, .out]
  | .cardChanged _ _ | .fwConfirm _ => [.start, .log, .host, .ctr, .out]
  | .fwCardInstall _ | .lifecycleReturn _ | .attestNonce _ => [.start, .host, .ctr, .out]
  | .flashVerify _ => [.start, .log, .bg, .tally, .host, .ctr, .out]
  | .beatBoundary => [.time, .log, .skid, .out]
  | .announceMessage _ _ _ _ _ _ _ _ _ _ => [.time, .ctr]
  | .skidPortDown _ => [.skid]
  | .icmpEchoRequest _ _ | .neighbourRequest _ _ => [.ctr, .out]
  | .frameDiscarded _ _ _ => [.host, .ctr]

/-! ### Records, answers, requests -/

/-- The newest record of the event ring is of this source and code (R550, R551). -/
def Raised (t : State) (src code : Nat) : Prop := ∃ r, t.log.ring.getLast? = some r ∧ r.source = src ∧ r.code = code
/-- The newest record of the fault history is of this source and code (R552). -/
def Faulted (t : State) (src code : Nat) : Prop := ∃ r, t.log.history.getLast? = some r ∧ r.source = src ∧ r.code = code

/-- The warden serves requests (R409, R477, R512). -/
def Serving (s : State) : Prop := s.start.wardenHeld = false ∧ 9 ≤ s.start.stage ∧ s.start.stump = none
/-- A request that is executed: served, not turned away, and, by the sequence state in which it is heard, no duplicate and not
stale (R409). -/
def Fresh (s : State) (q : Req) : Prop :=
  Serving s ∧ q.full = false ∧
    ∀ e, (s.hearing q).seqEntry (s.sid q) q.addr = some e → serialLater e.newest q.seq = true ∧ ∀ r ∈ e.kept, r.seq ≠ q.seq
/-- A request of an open session, from its own address (R413). -/
def InSession (s : State) (q : Req) : Prop := s.sid q ≠ 0
/-- The last thing sent is the response to a request, with this abort code and data. -/
def Answered (t : State) (q : Req) (op abort : Nat) (last : Bool) (data : Bytes) : Prop :=
  t.out.getLast? = some (.response (reqResponse q op abort last data))
/-- A whole write: one segment of `n` bytes at offset 0 (R411). -/
def WholeWrite (q : Req) (index sub n : Nat) : Prop :=
  q.index = index ∧ q.sub = sub ∧ q.offset = 0 ∧ q.last = true ∧ q.data.length = n

/-- The flows that are open, each with the channel and the session it belongs to. -/
def State.flowKeys (s : State) : List (Nat × Nat × Nat) := s.host.flows.map fun f => (f.id, f.channel, f.session)
/-- A session without the time it was last active. -/
def Session.still (x : Session) : Session := { x with last := 0, lastCycle := 0 }
/-- The sessions that are open. -/
def HostPort.standing (h : HostPort) : List Session := h.sessions.map Session.still

/-! ### An instruction that issues -/

/-- The next instruction of a cluster may issue, and its signature, where it is compared, is the expected one (R151, R469). -/
def Issues (s : State) (cl : Nat) (f : Fetched) : Prop :=
  s.fetch cl = some f ∧ (f.st.isCheckpoint f.idx f.word = true →
    f.st.expected.lookup f.idx = some (foldSig (if f.st.isEntry f.idx then 0xFFFFFFFF#32 else (s.cl cl).sig) f.word))

/-- A cluster apart from its place in its stream, its signature, the signals it still owes and its drain input: what ends a
pass of the stream, and gives signals, changes these alone (R175, R216). -/
def Cluster.work (c : Cluster) : Cluster := { c with index := 0, step := 0, sig := 0#32, signals := [], drainIn := [] }

/-- An instruction of cluster `cl` has issued: the cluster's work is that of `c`, counted once more; no other cluster changes. -/
def Issued (s t : State) (cl : Nat) (c : Cluster) : Prop :=
  (t.cl cl).work = { c.work with issued := (s.cl cl).issued + 1 } ∧ (∀ n, n ≠ cl → t.cl n = s.cl n)
    ∧ t.count kIssued = s.count kIssued + 1

/-- The module does not straggle, so far, in the step after the one whose stream pass cluster `cl` runs: where it does, the end of
the pass passes over the work before the REDUCE entry of the next (R72). -/
def OnTime (s : State) (cl : Nat) : Prop := (s.stepRec (s.clStep cl + 1)).straggles = false

/-- The parts that giving signals and ending a pass of a stream may change, with the counters and clusters (R175, R216). -/
def issueParts : List Part := [.clusters, .sync, .skid, .log, .host, .ctr, .out]

/-- The commands of the `VECTOR` operations of a cluster, by operation code (R220). -/
def vectorOps (cl : Nat) : List (Nat × Instr) :=
  [(0x00, .copy cl), (0x01, .add cl), (0x02, .sub cl), (0x03, .mul cl), (0x04, .max cl), (0x05, .min cl), (0x06, .sqdiff cl),
   (0x07, .addImm cl), (0x08, .mulImm cl), (0x09, .maxImm cl), (0x0A, .minImm cl), (0x0B, .axpy cl), (0x10, .exp cl), (0x11, .log cl),
   (0x12, .recip cl), (0x13, .rsqrt cl), (0x14, .sqrt cl), (0x15, .tanh cl), (0x16, .sigmoid cl), (0x17, .gelu cl), (0x18, .silu cl),
   (0x20, .segSum cl), (0x21, .segSumsq cl), (0x22, .segMax cl), (0x23, .segMin cl), (0x24, .softmax cl), (0x25, .logsumexp cl),
   (0x26, .xent cl), (0x27, .xentGrad cl), (0x28, .segScale cl), (0x29, .segSub cl), (0x30, .slice cl)]

end Sys2Proof.Machine
end

