-- ==== Sys2Proof/Certificates/Slice0/Obligations.lean ====
section
/-! DEFINITION. The statements for the provers. -/

open Sys2Proof Sys2Proof.Machine


/-! ### The machine -/

/-- With a command at the front of the queue, a step is `exec` of it on the state with the queue's rest. -/
def Obligations.StepRunsTheFrontCommand : Prop :=
  ∀ (c : Instr) (rest : List Instr) (s : State), step { s with pending := c :: rest } = exec c { s with pending := rest }

/-- With no command waiting, a step is one cycle of the time engine: the counter runs on by the frequency word and stands at its
end. Where the cycle crosses a beat boundary the marks go out, the spine's last of all (R32, R39, R378); the other units stand still
(the model's choice, log entry 2). -/
def Obligations.IdleStepIsOneCycle : Prop :=
  ∀ s : State, s.pending = [] → ∃ t, step s = .next t ∧ SameBut [.time, .log, .skid, .out] s t ∧ t.time.cycles = s.time.cycles + 1
    ∧ t.time.state = s.time.state ∧ t.time.freqWord = s.time.freqWord
    ∧ t.time.counter = (if s.time.counter + s.time.freqWord < counterEnd then s.time.counter + s.time.freqWord else s.time.counter)
    ∧ (t.beat = s.beat → SameBut [.time] s t) ∧ (t.beat ≠ s.beat → t.out.getLast? = some (.spineMark t.stamp))

/-- The state after reset meets the invariant, and no command waits. -/
def Obligations.ResetMeetsTheInvariant : Prop := Inv State.reset ∧ State.reset.pending = []

/-- Registers of a die in service read at reset as their Reset columns say: the sequencer idle and its masks all ones, tiles and
slots empty, the diagnostic and vector registers zero, every bank ON with no owner, the limber engine idle; and start-up has
reached its last stage (R8, R116 to R120, R182, R183, R209, R229, R253, R254, R537). -/
def Obligations.RegistersResetToTheirColumns : Prop :=
  (∀ e ∈ ([(0x0, 0), (0x200, 0xFFFFFFFF), (0x21C, 0xFFFFFFFF), (0x260, 0xFFFFFFFF), (0x27C, 0xFFFFFFFF), (0x400, 0), (0x408, 0),
      (0x40C, 0), (0x410, 0), (0x414, 0), (0x420, 0), (0x42C, 0), (0x43C, 0), (0x440, 0), (0x800, 0), (0xE00000, 0xFF),
      (0xE00008, 0xFFFF00), (0xF00000, 0)] : List (Nat × Nat)),
    State.reset.regRead (0x2000_0000_0000 + e.1) 4 = some e.2) ∧
  (State.reset.regRead 0x2000_6300_0200 4).map (fun w => w / 2 ^ 28 % 16) = some 9

/-- Every step keeps the invariant: the byte map in its canonical form, the counter within 64 bits and the frequency words within
500 ppm (R27, R29), the rings within their sizes (R551, R552), the commit inhibit set with the latch (R463, R464), every sync
value within 32 bits (R390), the job `EMPTY` just where no plan is loaded (R63), at most 4 sessions and 16 nonces (R414). -/
def Obligations.EveryStepKeepsTheInvariant : Prop := ∀ s t : State, step s = .next t → Inv s → Inv t

/-- A command leaves the queue alone, takes nothing back that was sent, and uses no free value twice. -/
def Obligations.CommandsOnlyAddToTheRecord : Prop :=
  ∀ (c : Instr) (s t : State), exec c s = .next t → t.pending = s.pending ∧ s.out <+: t.out ∧ s.free ≤ t.free

/-- A command changes no part of the state but those that the table `mayChange` lists for it. -/
def Obligations.CommandsChangeOnlyTheirParts : Prop :=
  ∀ (c : Instr) (s t : State), exec c s = .next t → SameBut (mayChange c) s t

/-- Every command runs in every state. The one stop is the beat boundary that would take clock test values which break the ratio
of R499, for which the spec states no behaviour; it takes none of them. -/
def Obligations.EveryCommandRuns : Prop :=
  ∀ (c : Instr) (s : State), (∃ t, exec c s = .next t) ∨
    (c = .applySafePoint 0x9000 ∧ exec c s = .fault .clockRatioUndefined ∧
      ∃ a, s.pendingOf 0x9000 = some a ∧ clockTest a.values = true ∧ ratioBroken a.values = true)

/-- The byte map: bytes written read back, every other address reads as before, and the canonical form is kept (R155, R235). -/
def Obligations.BytesReadBackAsWritten : Prop :=
  ∀ (m : List (Nat × Byte)) (a : Nat) (bs : Bytes), Memory.wf m = true →
    Memory.wf (writeBytes m a bs) = true ∧ readBytes (writeBytes m a bs) a bs.length = bs
      ∧ ∀ j, j < a ∨ a + bs.length ≤ j → readByte (writeBytes m a bs) j = readByte m j
/-! ### Management requests (15) -/

/-- A request numbered as one whose response is kept gets that response again and is not executed; a number that is not later
than the newest executed is discarded and counted; one that finds the request queue full is answered with `OVERLOAD`. Here for every
operation that a management datagram names, in operation and in recovery; each counts the frame that brought it (R409, R431). -/
def Obligations.RequestNumbersAreServedOnce : Prop :=
  ∀ (s : State) (q : Req) (op : Nat) (c : Instr), s.deaf = false →
    (op, c) ∈ [(1, Instr.read q), (3, .describe q), (4, .sessionChallenge q), (5, .sessionOpen q), (6, .sessionClose q), (7, .keepalive q)] →
    (q.full = true → ∃ t, exec c s = .next t ∧ Answered t q op abOverload true [] ∧ t.count kFramesRx = s.count kFramesRx + 1
      ∧ SameBut [.host, .ctr, .out] s t) ∧
    (q.full = false → ∀ e, (s.hearing q).seqEntry (s.sid q) q.addr = some e →
      (∀ r, e.kept.find? (fun r => r.seq = q.seq) = some r → ∃ t, exec c s = .next t ∧ t.out = s.out ++ [.response r]
        ∧ t.count kDuplicates = s.count kDuplicates + 1 ∧ t.count kFramesRx = s.count kFramesRx + 1 ∧ SameBut [.host, .ctr, .out] s t) ∧
      ((∀ r ∈ e.kept, r.seq ≠ q.seq) → serialLater e.newest q.seq = false →
        ∃ t, exec c s = .next t ∧ t.out = s.out ∧ t.count kOtdinDiscards = s.count kOtdinDiscards + 1
          ∧ t.count kFramesRx = s.count kFramesRx + 1 ∧ SameBut [.host, .ctr, .out] s t))

/-- `KEEPALIVE` refreshes its session and returns `BEAT_NOW`; `SESSION_CLOSE` closes the session and its flows; an undefined
operation is answered with `BAD_REQUEST`; none changes anything outside the host port (R408, R415). -/
def Obligations.SessionRequestsComplete : Prop :=
  ∀ (s : State) (q : Req), Fresh s q → InSession s q →
    (∃ t, exec (.keepalive q) s = .next t ∧ Answered t q 7 0 true (u64 s.stamp) ∧ SameBut [.host, .ctr, .out] s t
      ∧ t.host.flows = s.host.flows ∧ ∀ x ∈ t.host.sessions, x.id = s.sid q → x.last = s.stamp ∧ x.lastCycle = s.time.cycles) ∧
    (∃ t, exec (.sessionClose q) s = .next t ∧ Answered t q 6 0 true [] ∧ Raised t wardenSrc 0x8202
      ∧ (∀ x ∈ t.host.sessions, x.id ≠ s.sid q) ∧ (∀ f ∈ t.host.flows, f.session ≠ s.sid q)
      ∧ SameBut [.host, .log, .snap, .ctr, .out] s t) ∧
    (∀ op, ¬(1 ≤ op ∧ op ≤ 7) → ∃ t, exec (.undefinedOmOp q op) s = .next t ∧ Answered t q op abBadRequest true []
      ∧ SameBut [.host, .ctr, .out] s t ∧ t.host.flows = s.host.flows)

/-- `SESSION_CHALLENGE` returns a fresh nonce, of which the newest 16 are outstanding, or `AUTH_LOCKED` during a lockout;
`DESCRIBE` returns an object's type, access, flags, group, size and name. Neither needs a session (R408, R413, R414). -/
def Obligations.SessionlessRequestsComplete : Prop :=
  ∀ (s : State) (q : Req), Fresh s q →
    (∃ t, exec (.sessionChallenge q) s = .next t ∧ SameBut [.host, .ctr, .out] s t ∧ t.host.flows = s.host.flows ∧
      if s.host.lockedUntil = none then
        Answered t q 4 0 true (padTo 32 (Config.nonce s.host.nextNonce)) ∧ t.host.nextNonce = s.host.nextNonce + 1
          ∧ t.host.nonces = newest 16 (s.host.nonces ++ [(s.host.nextNonce, s.time.cycles)])
      else Answered t q 4 abAuthLocked true [] ∧ t.host.nonces = s.host.nonces ∧ t.host.nextNonce = s.host.nextNonce) ∧
    (∃ t, exec (.describe q) s = .next t ∧ SameBut [.host, .ctr, .out] s t ∧ t.host.flows = s.host.flows ∧
      match objAt q.index q.sub with
      | none => Answered t q 3 (noObject q.index) true []
      | some o => Answered t q 3 0 true ((s.hearing q).description q.index q.sub o))

/-- `SESSION_OPEN` with a nonce of the last 10 seconds: the nonce is used up; where the signature of the slot's key holds, a
session opens for the address it came from; where not, none does (R414). -/
def Obligations.SessionOpenVerifiesTheNonce : Prop :=
  ∀ (s : State) (q : Req) (n : Nat × Nat), Fresh s q → q.data.length = 3345 → s.host.sessions.length < 4 →
    fieldAt q.data 0 1 < 8 → (s.operatorKey (fieldAt q.data 0 1)).length = 1952 →
    s.host.nonces.find? (fun m => padTo 32 (Config.nonce m.1) = slice q.data 4 32) = some n → s.time.cycles ≤ n.2 + 10 * secCycles →
    ∃ t, exec (.sessionOpen q) s = .next t ∧ n ∉ t.host.nonces ∧ SameBut [.host, .log, .ctr, .out] s t ∧
      if Config.mlDsaVerify (s.operatorKey (fieldAt q.data 0 1)) (ascii "OTDIN-SESSION-1")
          (slice q.data 4 32 ++ serialNumber ++ q.addr) (q.data.drop 36) = true then
        Raised t wardenSrc 0x8200 ∧ t.host.sessions.length = s.host.sessions.length + 1 ∧ ∃ x, t.host.sessions.getLast? = some x
          ∧ 1 ≤ x.id ∧ x.id < 2 ^ 32 ∧ x.slot = fieldAt q.data 0 1 ∧ x.addr = q.addr ∧ Answered t q 5 0 true (u32 x.id)
      else Raised t wardenSrc 0x8201 ∧ t.host.sessions.length = s.host.sessions.length ∧ Answered t q 5 abAuthFailed true []
        ∧ t.count kSessionFailures = s.count kSessionFailures + 1

/-- A `READ` returns the object's present value, its active copy or, when asked, its shadow, in segments of 4,096 bytes; in the
ranges 0x1000 and 0xA000 without a session. Reads of `DIAG_REG_DATA` read the register named; a read of `EVENT_LOG` at offset 0
returns the ring, oldest first (R408, R411, R413, R429, R551). -/
def Obligations.ReadsReturnTheValue : Prop :=
  ∀ (s : State) (q : Req), Fresh s q →
    (∀ o, objAt q.index q.sub = some o → o.access ≠ .wo → reqIs q 0xF000 3 = false → reqIs q 0xA010 0 = false →
      (readFree q.index = true ∨ InSession s q) →
      ∃ t, exec (.read q) s = .next t ∧ SameBut [.host, .ctr, .out] s t ∧ t.host.flows = s.host.flows
        ∧ Answered t q 1 0 (decide (((s.hearing q).objBytes q.index q.sub o q.shadow).length ≤ q.offset + 4096))
            (slice ((s.hearing q).objBytes q.index q.sub o q.shadow) q.offset 4096)) ∧
    (InSession s q → q.index = 0xF000 → q.sub = 3 → ∃ t, exec (.diagRegRead q) s = .next t ∧ SameBut [.host, .ctr, .out] s t ∧
      match (s.hearing q).regRead s.diagAddr s.diagSize with
      | some v => Answered t q 1 0 true (u64 v)
      | none => Answered t q 1 abNoRegister true []) ∧
    (q.index = 0xA010 → q.sub = 0 → q.offset = 0 → ∃ t, exec (.eventLog q) s = .next t ∧ SameBut [.log, .host, .ctr, .out] s t
      ∧ t.log.ring = s.log.ring ∧ t.log.history = s.log.history
      ∧ Answered t q 1 0 (decide ((recordsBytes s.log.ring).length ≤ 4096)) (slice (recordsBytes s.log.ring) 0 4096))

/-- A whole `WRITE` of a fixed-length object without a row of its own: an RW object takes the value at once, a staged object
takes it in its shadow only; a value outside the object's range changes nothing (R411, R423, R424, R426). -/
def Obligations.WritesSetTheValue : Prop :=
  ∀ (s : State) (q : Req) (flash : FlashReport) (o : Obj) (n : Nat) (d : Bytes), Fresh s q → InSession s q →
    objAt q.index q.sub = some o → writeOwn q s = none → q.index ≠ 0xB040 → o.type.size = some n →
    WholeWrite q q.index q.sub n → s.writeForbidden q.index o = false →
    ∃ t, exec (.write q flash) s = .next t ∧ SameBut [.tally, .start, .host, .ctr, .out] s t ∧ t.host.flows = s.host.flows
      ∧ t.tally.active = s.tally.active ∧ t.tally.gen = s.tally.gen ∧ t.tally.pendingApply = s.tally.pendingApply
      ∧ (rangeOk q.index q.sub q.data = false → (o.access = .rw ∨ o.access = .rws) → Answered t q 2 abRange true [] ∧ t.tally = s.tally)
      ∧ (rangeOk q.index q.sub q.data = true → o.access = .rw → Answered t q 2 0 true [] ∧ bytesOr t.tally.rw (reqKey q) d = q.data
          ∧ (∀ k, k ≠ reqKey q → bytesOr t.tally.rw k d = bytesOr s.tally.rw k d) ∧ t.tally.shadow = s.tally.shadow)
      ∧ (rangeOk q.index q.sub q.data = true → o.access = .rws → Answered t q 2 0 true [] ∧ bytesOr t.tally.shadow (reqKey q) d = q.data
          ∧ (∀ k, k ≠ reqKey q → bytesOr t.tally.shadow k d = bytesOr s.tally.shadow k d) ∧ t.tally.rw = s.tally.rw
          ∧ reqKey q ∈ t.tally.written)

/-- A write of a key slot in `EMPTY`, in a session or, for the first key of a module that has none, without one: 1,952 bytes enrol
the key and no bytes remove it, and every session of that slot closes; another length changes no key, and neither does any write while
a job is loaded. A write of `DIAG_REG_DATA` writes the register that `DIAG_REG_ADDR` names, or is refused where there is none or it is
read-only. The values that have changed go into the copy of the store that is not the newest; a failed write is reported and leaves the
store and every value as they were (R416, R425, R429, R524). -/
def Obligations.StoredValuesComplete : Prop :=
  (∀ (s : State) (q : Req), Fresh s q → q.index = 0x1030 → 1 ≤ q.sub → q.sub ≤ 8 → q.offset = 0 → q.last = true → q.data.length ≤ 4096 →
    InSession s q ∨ (s.noKeys = true ∧ q.sub = 1) →
    ∃ t, exec (.operatorKey q) s = .next t ∧ SameBut [.tally, .start, .log, .snap, .host, .ctr, .out] s t ∧
      (∀ k, k + 1 ≠ q.sub → t.operatorKey k = s.operatorKey k) ∧
      if s.job.state ≠ .empty ∧ ¬(s.noKeys = true ∧ q.sub = 1) then Answered t q 2 abState true [] ∧ t.tally = s.tally
      else if q.data.length = 0 ∨ q.data.length = 1952 then Answered t q 2 0 true [] ∧ t.operatorKey (q.sub - 1) = q.data
        ∧ (∀ x ∈ t.host.sessions, x.slot + 1 ≠ q.sub) ∧ reqKey q ∈ t.start.dirty
      else Answered t q 2 abTypeLength true [] ∧ t.tally = s.tally) ∧
  (∀ (s : State) (q : Req), Fresh s q → InSession s q → WholeWrite q 0xF000 3 8 →
    ∃ t, exec (.diagRegWrite q) s = .next t ∧
      match (s.hearing q).regRead s.diagAddr s.diagSize, (s.hearing q).regWrite s.diagAddr s.diagSize (leNat q.data) with
      | none, _ => Answered t q 2 abNoRegister true [] ∧ SameBut [.host, .ctr, .out] s t
      | some _, none => Answered t q 2 abNotWritable true [] ∧ SameBut [.host, .ctr, .out] s t
      | some _, some u => Answered t q 2 0 true [] ∧ SameBut [.host, .ctr, .out] u t) ∧
  (∀ (s : State) (flash : FlashReport),
    ∃ t, exec (.persistWrite flash) s = .next t ∧ SameBut [.start, .bg, .log, .host, .ctr, .out] s t ∧
      let older := match newestCopy s.start.stores with | some 0 => 1 | _ => 0
      let next := match newestCopy s.start.stores with | some i => (s.start.stores.getD i {}).counter + 1 | none => 1
      if s.start.dirty = [] then t = s
      else t.start.dirty = [] ∧
        if flash.ok = true then
          t.start.stores = listUpd s.start.stores older (fun _ => { valid := true, version := imgStore (s.fwSlot s.booted).image, counter := next, rw := s.tally.rw.filter fun e => keyPersists e.1, active := s.tally.active.filter fun e => keyPersists e.1 })
          ∧ t.bg.bytesWritten = s.bg.bytesWritten + ((s.tally.rw ++ s.tally.active).map fun e => e.2.length).sum
        else t.start.stores = s.start.stores ∧ t.bg.bytesWritten = s.bg.bytesWritten
          ∧ (s.start.wardenHeld = false → Raised t wardenSrc 0x8213))

/-- A write of a group's apply subindex with the group's generation number captures its shadows and leaves the active copies
alone; with another number it changes nothing. At the group's safe point the captured values become active (R426). -/
def Obligations.AppliesAreStagedThenTaken : Prop :=
  (∀ (s : State) (q : Req) (g : Nat), Fresh s q → InSession s q → isGroup g = true → WholeWrite q g 0xFF 4 →
    ∃ t, exec (.tallyApply q) s = .next t ∧ SameBut [.tally, .log, .host, .ctr, .out] s t ∧ t.tally.active = s.tally.active
      ∧ t.tally.rw = s.tally.rw ∧ t.tally.shadow = s.tally.shadow ∧
      (leNat q.data ≠ sget 0 s.tally.gen g → Answered t q 2 abGeneration true [] ∧ t.tally = s.tally) ∧
      (leNat q.data = sget 0 s.tally.gen g → s.groupCheck (s.capture g) = 0 →
        Answered t q 2 0 true [] ∧ sget 0 t.tally.gen g = (sget 0 s.tally.gen g + 1) % 2 ^ 32 ∧ t.pendingOf g = some (s.capture g))) ∧
  (∀ (s : State) (g : Nat) (a : PendApply), s.pendingOf g = some a → atBoundary g = true → s.beat ≠ a.beat →
    ¬(g = 0x9000 ∧ s.power.switching = true) → ¬(g = 0x9000 ∧ clockTest a.values = true ∧ ratioBroken a.values = true) →
    s.groupCheck a = 0 →
    ∃ t, exec (.applySafePoint g) s = .next t ∧ t.pendingOf g = none
      ∧ t.tally.active = a.values ++ s.tally.active.filter (fun e => e.1 / 256 ≠ g) ∧ t.tally.rw = s.tally.rw ∧ t.tally.gen = s.tally.gen
      ∧ SameBut [.tally, .start, .time, .power, .log, .host, .ctr, .out] s t)

/-- A session idle for 300 s is closed with its flows; the sequence state of a sessionless address is removed 300 s after its
last request; the lockout of the challenge ends at its time (R410, R414, R415). Before, each changes nothing. -/
def Obligations.HostTimersExpire : Prop :=
  (∀ (s : State) (id : Nat) (x : Session), s.host.sessions.find? (fun x => x.id = id) = some x →
    (x.lastCycle + 300 * secCycles ≤ s.time.cycles → ∃ t, exec (.sessionIdleTimeout id) s = .next t
      ∧ (∀ y ∈ t.host.sessions, y.id ≠ id) ∧ (∀ f ∈ t.host.flows, f.session ≠ id)
      ∧ (s.start.wardenHeld = false → Raised t wardenSrc 0x8202) ∧ SameBut [.host, .log, .snap, .ctr, .out] s t) ∧
    (s.time.cycles < x.lastCycle + 300 * secCycles → exec (.sessionIdleTimeout id) s = .next s)) ∧
  (∀ (s : State) (addr : Bytes), ∃ t, exec (.sequenceEntryExpiry addr) s = .next t ∧ SameBut [.host] s t
    ∧ t.host.sessions = s.host.sessions ∧ t.host.flows = s.host.flows
    ∧ ∀ e, e ∈ t.host.seqs ↔ e ∈ s.host.seqs ∧ ¬(e.session = 0 ∧ e.addr = addr ∧ e.lastCycle + 300 * secCycles ≤ s.time.cycles)) ∧
  (∀ (s : State) (b : Nat), s.host.lockedUntil = some b →
    (b ≤ s.time.cycles → ∃ t, exec .authLockExpiry s = .next t ∧ t.host = { s.host with lockedUntil := none } ∧ SameBut [.host] s t) ∧
    (s.time.cycles < b → exec .authLockExpiry s = .next s))

/-- The host link comes up or goes down with its event, and the job, sessions and flows go on; an echo request and a neighbour
request for an address of the module are answered, for another they are dropped; a datagram that fails its CRC, or is of another
version, is discarded and counted, and a frame that matches nothing is dropped and counted (R404 to R407, R431). -/
def Obligations.HostPortFramesComplete : Prop :=
  ∀ s : State, s.start.wardenHeld = false →
    (∃ t, exec .hostLinkUp s = .next t ∧ SameBut [.host, .log, .ctr, .out] s t ∧ t.host.linkState = 2 ∧ t.flowKeys = s.flowKeys
      ∧ t.host.standing = s.host.standing ∧ (s.host.linkState ≠ 2 → t.host.linkChanged = true ∧ Raised t ethSrc 0x6500)) ∧
    (∃ t, exec .hostLinkDown s = .next t ∧ SameBut [.host, .log, .ctr, .out] s t ∧ t.flowKeys = s.flowKeys
      ∧ t.host.standing = s.host.standing
      ∧ (if s.host.linkState = 2 then t.host.linkState = 0 ∧ t.host.linkChanged = true ∧ Raised t ethSrc 0x6501 else t = s)) ∧
    (∀ kind a d (c : Instr) body, (c = .icmpEchoRequest a d ∧ kind = 0 ∧ body = d) ∨ (c = .neighbourRequest a d ∧ kind = 1 ∧ body = macOctets ++ d) →
      ∃ t, exec c s = .next t ∧ SameBut [.ctr, .out] s t ∧ t.count kFramesRx = s.count kFramesRx + 1 ∧
        if a ∈ s.ownAddrs then t.out = s.out ++ [.netFrame kind body] ∧ t.count kFramesTx = s.count kFramesTx + 1
        else t.out = s.out ∧ t.count kFramesDropped = s.count kFramesDropped + 1) ∧
    (∀ (d : Option Bytes) (fixed bad : Nat), ∃ t, exec (.frameDiscarded d fixed bad) s = .next t ∧ t.out = s.out ∧ SameBut [.host, .ctr] s t
      ∧ t.host = { s.host with fecUncorrected := s.host.fecUncorrected || decide (0 < bad), crcDiscard := s.host.crcDiscard || d.any (fun x => !otdinCrcOk x) }
      ∧ t.count kFramesRx = s.count kFramesRx + 1 ∧ t.count kFec = s.count kFec + fixed ∧ t.count kFecBad = s.count kFecBad + bad
      ∧ t.count kOtdinDiscards = s.count kOtdinDiscards + (if d.any (fun x => !otdinGood x) = true then 1 else 0)
      ∧ t.count kFramesDropped = s.count kFramesDropped + (if d = none then 1 else 0))

/-- A write of `XA_DIAG_SEL` clears `DIAG_VALID` and starts a capture. The capture completes with the value its accumulator holds: of a
pass in the pipeline on its tile, the sum of the K steps that have reached the accumulate stage, and counted; it disturbs no tile; a
residue that does not match is a fault. A write of `CLK_GATE` sets the gates of a die, or is refused and changes none (R97, R120,
R470, R497, R509). -/
def Obligations.DiagnosticsComplete : Prop :=
  (∀ (s : State) (die n cl value : Nat), s.clusterAt die n = some cl →
    ∃ t, exec (.xaDiagSel die n value) s = .next t ∧ SameBut [.clusters] s t ∧ (∀ k, k ≠ cl → t.cl k = s.cl k)
      ∧ t.cl cl = { s.cl cl with diagSel := bitsOf value 16 0, diagValid := false, diagBusy := true }) ∧
  (∀ (s : State) (die n cl ksteps : Nat), s.clusterAt die n = some cl → (s.cl cl).diagBusy = true →
    let c := s.cl cl
    let tile := bitsOf c.diagSel 16 16
    let i := bitsOf c.diagSel 15 8
    let j := bitsOf c.diagSel 7 0
    let value := if 127 < i ∨ 127 < j then 0 else match c.inPipe with
      | some op => if op.tile = tile then s.prefence cl op i j ksteps else c.tileNow tile i j
      | none => c.tileNow tile i j
    (∃ t, exec (.xaDiagCaptureDone die n ksteps true) s = .next t ∧ SameBut [.clusters, .ctr] s t ∧ (∀ k, k ≠ cl → t.cl k = s.cl k)
      ∧ (t.cl cl).diagValid = true ∧ (t.cl cl).diagBusy = false ∧ (t.cl cl).diagData = value ∧ (∀ k, (t.cl cl).tile k = c.tile k)
      ∧ t.count kPrefence = s.count kPrefence + (match c.inPipe with | some op => if op.tile = tile then 1 else 0 | none => 0)) ∧
    (∃ t, exec (.xaDiagCaptureDone die n ksteps false) s = .next t ∧ Faulted t (s.seqSrc cl) 0x1203 ∧ t.safe.latch = true ∧ t.mem = s.mem)) ∧
  (∀ (s : State) (die value : Nat), die ∈ s.start.dieMap → value < 2 ^ 32 →
    ∃ t, exec (.clkGate die value) s = .next t ∧ SameBut [.power] s t ∧
      (∀ d, d ≠ die → sget {} t.power.gates d = sget {} s.power.gates d) ∧ t.power = { s.power with gates := t.power.gates } ∧
      (s.gateRefused die value = true → sget {} t.power.gates die = { (sget {} s.power.gates die : Gates) with refused := true }) ∧
      (s.gateRefused die value = false → (sget {} t.power.gates die).clusters = bitsOf value 11 0
        ∧ (sget {} t.power.gates die).regions = bitsOf value 18 16 ∧ (sget {} t.power.gates die).die = (bitsOf value 19 19 == 1)))

/-! ### Time -/

/-- A measured offset steers the beat: the first steps the counter to the source's time, as near as the counter has a value (log entry
91); later ones set a frequency word that reduces the offset; in `LOCKED` and `HOLDOVER`, and in `ACQUIRING` after a lock, one beyond
32 beats is a `TIME_STEP` fault. Sixteen in a row within 1/16 beat lock; one outside ends `LOCKED`, of which the word last in force
stays (R29, R33, R35, R37, R582). -/
def Obligations.SourceUpdatesSteerTheBeat : Prop :=
  ∀ (s : State) (offset log : Int), ∃ t, exec (.sourceUpdate offset log) s = .next t ∧ t.time.offset = offset
    ∧ t.time.lastUpdate = s.time.cycles ∧ t.time.interval = (if s.active 0x7000 1 0 = 1 then 4096 else syncInterval log) ∧
    if s.time.state = .unlocked then t.time.state = .acquiring ∧ t.time.valid = true ∧ t.time.lockCount = 0 ∧ SameBut [.time] s t
      ∧ t.time.counter = min (counterEnd - 1) ((s.time.counter : Int) - offset * 2 ^ 32).toNat
    else if s.time.state = .lost then t.time.state = .lost ∧ t.time.counter = s.time.counter ∧ t.time.freqWord = s.time.freqWord
      ∧ SameBut [.time] s t
    else if 2097152 < offset.natAbs ∧ (s.time.state = .acquiring → s.time.everLocked = true) then
      t.time.state = .lost ∧ t.time.counter = s.time.counter ∧ Faulted t wardenSrc 0x6103
    else t.time.counter = s.time.counter ∧ SameBut [.time, .log, .host, .ctr, .out] s t
      ∧ (0 < offset → t.time.freqWord < 0xA000000000) ∧ (offset < 0 → 0xA000000000 < t.time.freqWord)
      ∧ t.time.freqWord = steer offset s.time.freqWord ∧
      if s.time.state = .locked then t.time.state = (if offset.natAbs ≤ 4096 then .locked else .acquiring)
        ∧ t.time.lockedWord = if offset.natAbs ≤ 4096 then t.time.freqWord else s.time.lockedWord
      else if 4096 < offset.natAbs then t.time.state = .acquiring ∧ t.time.lockCount = 0
      else if s.time.state = .holdover ∨ s.time.lockCount < 15 then
        t.time.state = .acquiring ∧ t.time.lockCount = (if s.time.state = .holdover then 0 else s.time.lockCount) + 1
      else t.time.state = .locked ∧ (s.start.wardenHeld = false → Raised t wardenSrc 0x6100)

/-- Eight silent intervals end lock: `HOLDOVER` at the word last in force in `LOCKED`, or `UNLOCKED` before the first lock. Ten
seconds of `HOLDOVER`, and a counter at its end, are `TIME_LOST` faults (R27, R34 to R37). -/
def Obligations.SilenceAndHoldoverEndLock : Prop :=
  ∀ s : State,
    (s.time.silent = true → s.time.state = .locked ∨ s.time.state = .acquiring → ∃ t, exec .sourceLost s = .next t
      ∧ t.time.counter = s.time.counter ∧ SameBut [.time, .log, .host, .ctr, .out] s t ∧
      if s.time.state = .locked ∨ s.time.everLocked = true then t.time.state = .holdover ∧ t.time.freqWord = s.time.lockedWord
        ∧ (s.start.wardenHeld = false → Raised t wardenSrc 0x6101)
      else t.time.state = .unlocked ∧ t.time.valid = false) ∧
    (s.time.state = .holdover → 10 * secCycles ≤ s.time.holdover →
      ∃ t, exec .holdoverExpired s = .next t ∧ t.time.state = .lost ∧ t.time.counter = s.time.counter ∧ Faulted t wardenSrc 0x6102
        ∧ t.safe.latch = true) ∧
    (counterEnd ≤ s.time.counter + s.time.freqWord →
      ∃ t, exec .beatOverflow s = .next t ∧ t.time = s.time ∧ Faulted t wardenSrc 0x6102 ∧ t.safe.latch = true)

/-- A beat mark with a good check gives its port's peer offset, the 64th wide one in a row raising `PEER_BEAT_SKEW`; where its port is
the selected source it steers the beat too; one with a bad check only sets the port's flag, and one on a port that is not up does
nothing. Time runs to the boundary of a beat by the frequency word, and the boundary marks the spine. An announcement of the
domain takes the place of its sender's last one, and the best transmitter heard is selected; senders silent for three of their
intervals are forgotten (log entry 95) (R29, R31, R32, R38, R39). -/
def Obligations.BeatsAreMarkedAndCompared : Prop :=
  (∀ (s : State) (port : Nat) (f : SkidFrame), ∃ t, exec (.beatMark port f) s = .next t ∧
    if (s.port port).state ≠ .up then t = s
    else if crcOk f = false then (t.port port).crcMismatch = true ∧ t.time = s.time ∧ SameBut [.skid] s t
    else ∃ u, SameBut [.time, .skid, .log, .host, .ctr, .out] s u
      ∧ sget 0 u.time.peerOffset port = (s.stamp : Int) - fieldAt f.payload 0 8 - (s.port port).delay
      ∧ u.time.counter = s.time.counter ∧ (u.port port).framesRx = (s.port port).framesRx + 1
      ∧ (sget 0 u.time.peerSkew port = if 16384 < (sget 0 u.time.peerOffset port).natAbs then sget 0 s.time.peerSkew port + 1 else 0)
      ∧ (sget 0 u.time.peerSkew port = 64 → s.start.wardenHeld = false → Raised u wardenSrc 0x6104)
      ∧ if s.active 0x7000 1 0 = 1 ∧ s.active 0x7000 2 0 = port then exec (.sourceUpdate (sget 0 u.time.peerOffset port) 0) u = .next t
        else t = u) ∧
  (∀ s : State, (s.beat + 1) * 2 ^ 48 < counterEnd → TimeOk s.time →
    ∃ t, exec .beatBoundary s = .next t ∧ SameBut [.time, .log, .skid, .out] s t ∧ t.beat = s.beat + 1
      ∧ t.time.counter = s.time.counter + s.toBoundary * s.time.freqWord ∧ t.time.cycles = s.time.cycles + s.toBoundary
      ∧ t.time.counter < (s.beat + 1) * 2 ^ 48 + s.time.freqWord ∧ t.time.state = s.time.state
      ∧ t.time.marks = s.time.marks + 1 ∧ t.out.getLast? = some (.spineMark t.stamp)) ∧
  (∀ (s : State) (sender domain identity p1 clockClass accuracy variance p2 removed : Nat) (log : Int),
    ∃ t, exec (.announceMessage sender domain identity p1 clockClass accuracy variance p2 removed log) s = .next t
      ∧ SameBut [.time, .ctr] s t ∧ t.count kFramesRx = s.count kFramesRx + 1 ∧ t.time.counter = s.time.counter ∧
      if domain ≠ s.active 0x7000 3 0 then t.time = s.time
      else (∀ a, a ∈ t.time.heard ↔ a = ⟨sender, [p1, clockClass, accuracy, variance, p2, identity, removed, sender], s.time.cycles,
          announceInterval log⟩ ∨ (a ∈ s.time.heard ∧ a.sender ≠ sender ∧ s.time.cycles ≤ a.last + 3 * a.interval))
        ∧ ∃ b ∈ t.time.heard, t.time.selected = some b.sender ∧ ∀ a ∈ t.time.heard, listLt a.rank b.rank = false)

/-! ### The job -/

/-- A write of `PLAN_SLOT` starts a load, or fails it with its reason at once. A load that completes installs the plan, clears the
fault latch and the commit inhibit, and zeroes gradient buffers and SRAM; one that fails keeps its reason and installs nothing
(R59, R62, R249, R269, R479). -/
def Obligations.PlansLoadOrFail : Prop :=
  (∀ (s : State) (q : Req), Fresh s q → InSession s q → WholeWrite q 0x2000 4 1 → leNat q.data ≤ 7 → s.job.loading = none →
    (∀ f ∈ s.host.flows, ¬(f.channel = 1 ∧ f.sub = leNat q.data)) →
    ∃ t, exec (.planSlot q) s = .next t ∧ Answered t q 2 0 true [] ∧ SameBut [.job, .tally, .start, .log, .host, .ctr, .out] s t
      ∧ t.job.plan = s.job.plan ∧ t.job.state = s.job.state ∧
      if s.job.state = .empty ∧ s.time.state = .locked then t.job.loading = some (leNat q.data)
      else t.job.loading = none ∧ t.job.loadResult = (if s.job.state = .empty then 2 else 1) ∧ Raised t wardenSrc 0x2101) ∧
  (∀ (s : State) (slot : Nat), s.job.loading = some slot → s.start.wardenHeld = false → ∃ t, exec .planLoadComplete s = .next t ∧
    if s.planReason (sget [] s.host.library slot) = 0 then
      t.job.state = .loaded ∧ t.job.plan = some (s.planOf (sget [] s.host.library slot)) ∧ t.safe.latch = false
        ∧ t.safe.inhibit = false ∧ Raised t wardenSrc 0x2100
        ∧ (∀ a, sramBase ≤ a → a < ctrlBase → readByte t.mem a = 0#8)
        ∧ (∀ d ∈ (s.planOf (sget [] s.host.library slot)).updates, ∀ i, i < 16 * udElems d → readByte t.mem (udGrad d + i) = 0#8)
    else t.job.loading = none ∧ t.job.loadResult = s.planReason (sget [] s.host.library slot) ∧ t.job.state = s.job.state
        ∧ t.job.plan = s.job.plan ∧ Raised t wardenSrc 0x2101 ∧ SameBut [.job, .log, .host, .ctr, .out] s t)

/-- `START` arms a loaded job at its beat and step; `STOP` ends it, at once when armed and else after the step in progress has
cleared; `UNLOAD` discards the plan and leaves memory, time and the objects of the Tally (R63 to R65, R67). -/
def Obligations.JobCommandsArmStopAndUnload : Prop :=
  ∀ (s : State) (q : Req), Fresh s q → InSession s q → WholeWrite q 0x2000 1 1 →
    (∀ p, q.data = u8 1 → s.job.plan = some p → s.job.state = .loaded → s.snap.restore.state ∉ [1, 3, 4] →
      (s.snap.restore.state = 2 → s.commandStep = s.rwValue 0x8130 1 0 + 1) →
      s.stamp + (p.leadSteps * p.stepBeats + 1024) * 2 ^ 16 ≤ s.commandBeat * 2 ^ 16 →
      (∀ n ∈ s.usedPorts, (s.port n).state = .up ∧ (s.port n).farKnown = true ∧ (s.port n).farModule = (s.peer n).module
        ∧ (s.port n).farJob = s.jobId ∧ (s.port n).farDigest = s.setDigest) →
      ∃ t, exec (.start q) s = .next t ∧ Answered t q 2 0 true [] ∧ t.job.state = .armed ∧ t.job.plan = some p
        ∧ t.job.startBeat = s.commandBeat ∧ t.job.startStep = s.commandStep ∧ t.job.begun = none ∧ t.job.pauseTotal = 0
        ∧ t.job.myCmd = some ⟨1, s.commandBeat, s.commandStep, s.setDigest⟩
        ∧ SameBut [.log, .job, .skid, .net, .sync, .host, .ingest, .snap, .ctr, .out] s t) ∧
    (q.data = u8 5 → s.job.state = .armed ∨ s.job.state = .running ∨ s.job.state = .paused →
      ∃ t, exec (.stop q) s = .next t ∧ Answered t q 2 0 true [] ∧ t.job.plan = s.job.plan ∧ t.job.begun = s.job.begun
        ∧ SameBut [.log, .job, .host, .ingest, .snap, .ctr, .out] s t ∧
        if s.job.state = .armed ∨ (s.job.state = .running ∧ s.job.pendingPause = none ∧ ∀ k, s.job.begun = some k → s.hasCleared k = true) then
          t.job.state = .stopped
        else t.job.state = s.job.state ∧ t.job.stopping = true) ∧
    (q.data = u8 6 → s.job.state = .loaded ∨ s.job.state = .stopped ∨ s.job.state = .fault →
      ∃ t, exec (.unload q) s = .next t ∧ Answered t q 2 0 true [] ∧ t.job.state = .empty ∧ t.job.plan = none
        ∧ t.safe.latch = s.safe.latch ∧ (∀ f ∈ t.host.flows, f.channel ≠ 0)
        ∧ SameBut [.safe, .stats, .clusters, .job, .upd, .limbers, .stash, .cow, .net, .sync, .host, .ingest, .snap, .power, .ctr, .out] s t)

/-- A pause takes effect at a step boundary or, inside a pass, at its own beat, and freezes plan time there; `RESUME` lets it run
on from its beat, `PAUSE_TOTAL` growing by the beats between (R66, R73 to R75). -/
def Obligations.PausesFreezePlanTime : Prop :=
  (∀ (s : State) (q : Req), Fresh s q → InSession s q → WholeWrite q 0x2000 1 1 → s.beatAhead 1024 = true →
    (q.data = u8 2 → s.job.state = .running → s.job.pendingPause = none → ∃ t, exec (.pauseStep q) s = .next t
      ∧ Answered t q 2 0 true [] ∧ t.job.pendingPause = some ⟨false, s.boundaryAt s.commandBeat⟩ ∧ t.job.state = .running
      ∧ SameBut [.log, .job, .skid, .host, .ctr, .out] s t) ∧
    (q.data = u8 3 → s.job.state = .running → s.job.pendingPause = none → ∃ t, exec (.pausePass q) s = .next t
      ∧ Answered t q 2 0 true [] ∧ t.job.state = .running ∧ SameBut [.log, .job, .skid, .host, .ctr, .out] s t
      ∧ t.job.pendingPause = some (if s.inPasses (s.commandBeat - s.job.pauseTotal) = true then ⟨true, s.commandBeat⟩
          else ⟨false, s.boundaryAt s.commandBeat⟩)) ∧
    (q.data = u8 4 → s.job.state = .paused → ∃ t, exec (.resume q) s = .next t ∧ Answered t q 2 0 true []
      ∧ t.job.resumeAt = some s.commandBeat ∧ t.job.state = .paused ∧ SameBut [.log, .job, .skid, .host, .ctr, .out] s t)) ∧
  (∀ (s : State) (p : PendPause), s.job.state = .running → s.job.pendingPause = some p → p.beat * 2 ^ 16 ≤ s.stamp →
    (p.pass = true ∨ s.stepDone = true) → s.commandsAgree = true → s.start.wardenHeld = false →
    ∃ t, exec .pauseTakesEffect s = .next t ∧ t.job.state = .paused ∧ t.job.frozenAt = some p.beat ∧ t.job.pendingPause = none
      ∧ t.planNow = p.beat * 2 ^ 16 - s.job.pauseTotal * 2 ^ 16 ∧ Raised t wardenSrc 0x2120
      ∧ SameBut [.job, .clusters, .log, .host, .ctr, .out] s t) ∧
  (∀ (s : State) (b f : Nat), s.job.state = .paused → s.job.resumeAt = some b → s.job.frozenAt = some f → b * 2 ^ 16 ≤ s.stamp →
    s.commandsAgree = true → s.job.stopping = false → s.start.wardenHeld = false →
    ∃ t, exec .resumeTakesEffect s = .next t ∧ t.job.state = .running ∧ t.job.frozenAt = none ∧ t.job.resumeAt = none
      ∧ t.job.pauseTotal = s.job.pauseTotal + (b - f) ∧ Raised t wardenSrc 0x2121 ∧ SameBut [.job, .clusters, .log, .host, .ctr, .out] s t)

/-- A step begins at its beat: objects that reset take their initial values and the others keep theirs. A window opens when plan
time reaches its start and its turn has come, and makes its step and phase the present ones (R52, R66 to R68, R391). -/
def Obligations.StepsAndWindowsBegin : Prop :=
  (∀ (s : State) (p : Plan), s.job.plan = some p → s.job.state = .running ∨ (s.job.state = .armed ∧ s.startChecks = none) →
    s.job.stopping = false → s.job.pendingPause = none → s.stepBegin s.nextStep * 2 ^ 16 ≤ s.planNow → s.stepDone = true →
    ∃ t, exec .stepStart s = .next t ∧ t.job.begun = some s.nextStep ∧ t.job.state = .running ∧ t.job.plan = some p
      ∧ SameBut [.time, .start, .log, .job, .sync, .tally, .host, .power, .ctr, .out] s t ∧
      (s.sync.held = [] →
        (∀ d ∈ p.sync, d.resets = true → d.id < 0x3E00 → (∀ e ∈ p.sync, e.id = d.id → e = d) → sget 0 t.sync.values d.id = d.initial) ∧
        (∀ id, (∀ d ∈ p.sync, d.resets = true → d.id ≠ id) → sget 0 t.sync.values id = sget 0 s.sync.values id))) ∧
  (∀ (s : State) (k p : Nat), s.mayOpen k p = true →
    ∃ t, exec (.phaseWindowStart k p) s = .next t ∧ t.windowOpen k p = true ∧ (p ≠ 0 → t.job.stepNow = k ∧ t.job.phaseNow = p)
      ∧ t.job.begun = s.job.begun ∧ (t.stepRec k).ended = (s.stepRec k).ended
      ∧ SameBut [.time, .start, .log, .clusters, .job, .upd, .stash, .tally, .host, .ingest, .power, .mem, .ctr, .out] s t)

/-- A window ends at its planned end, and no window is then open. With its work retired nothing else happens but that the stash is
released, or the step's statistics close; a late FORWARD or BACKWARD makes the step straggle, a late REDUCE, NORM or APPLY is a
fault, a late ADMIT is counted, and every overrun is (R66, R71, R72). -/
def Obligations.WindowsEndAsPlanned : Prop :=
  ∀ (s : State) (k p : Nat) (checks : List MemCheck), (s.job.state = .running ∨ s.job.state = .paused) → p < 6 → s.windowOpen k p = true →
    s.windowEnded k p = false → s.pointOf k (s.winEnd p) 0 ≤ s.planNow → (p = 5 → (s.stepRec k).committed = true) →
    ∃ t, exec (.phaseWindowEnd k p checks) s = .next t ∧ t.windowEnded k p = true ∧ (p ≠ 0 → t.job.phaseNow = 6) ∧
      (p = 0 → t.job.state = s.job.state ∧ t.safe = s.safe ∧ t.job.overruns = s.job.overruns +
        if (((s.modStep k fun r => { r with ended := r.ended + 1 }).deadline k).ingest.cut.contains k || s.streamed.any fun cl => s.clLate k 0 cl) = true
        then 1 else 0) ∧
      ((s.workLate k p || s.streamed.any fun cl => s.clLate k p cl) = false → p ≠ 0 →
        (p = 5 → checks = []) → (p = 1 → s.stash.suppressed ≠ some k) →
        t.job.overruns = s.job.overruns ∧ t.job.state = s.job.state ∧ t.safe = s.safe ∧
        SameBut (if p = 3 ∨ p = 4 then [.job] else if p = 5 then [.log, .job, .stats, .upd, .host, .mem, .ctr, .out] else [.job, .stash, .free]) s t ∧
        (p = 5 → (t.stepRec k).applyEnd = ((s.stepBegin k + s.job.pauseTotal : Nat) + s.winEnd 5).toNat)) ∧
      ((s.workLate k p || s.streamed.any fun cl => s.clLate k p cl) = true → 3 ≤ p → s.safe.latch = false → s.job.plan ≠ none →
        Faulted t wardenSrc 0x2111 ∧ t.job.overruns = s.job.overruns + 1 ∧ t.job.state = .fault ∧ t.safe.inhibit = true) ∧
      ((s.workLate k p || s.streamed.any fun cl => s.clLate k p cl) = true → p = 1 ∨ p = 2 → (s.stepRec k).straggles = false →
        (t.stepRec k).straggles = true ∧ t.job.overruns = s.job.overruns + 1 ∧ t.job.stragglers = s.job.stragglers + 1
          ∧ t.job.state = s.job.state ∧ t.safe = s.safe)

/-- The commit point: with no fault raised by the start of the APPLY window of a step, the step commits and is the newest one that
did; with one, it does not. In the fault state no step commits and no window opens (R69). -/
def Obligations.TheApplyWindowCommits : Prop :=
  (∀ (s : State) (k : Nat), s.job.begun = some k → (s.job.state = .running ∨ s.job.state = .paused) →
    (s.stepRec k).committed = false → s.windowEnded k 4 = true → s.pointOf k (s.winStart 5) 0 ≤ s.planNow →
    ∃ t, exec .commit s = .next t ∧
      if s.safe.latch = true then t = s
      else t.job.lastCommitted = k ∧ (t.stepRec k).committed = true ∧ t.job.state = s.job.state
        ∧ SameBut [.job, .log, .upd, .host, .ingest, .ctr, .out] s t) ∧
  (∀ (s : State) (k p : Nat), s.job.state = .fault → exec .commit s = .next s ∧ exec (.phaseWindowStart k p) s = .next s)

/-- 7,813 beats after the end of its APPLY window a committed step clears, the oldest first; a fault stops it (R70). -/
def Obligations.CommittedStepsClear : Prop :=
  ∀ (s : State) (k : Nat), s.safe.latch = false → (s.stepRec k).applyEnd + 7813 ≤ s.beat →
    lowest ((s.job.steps.filter fun e => e.2.committed && !e.2.cleared && decide ((e.2.ended / 2 ^ 5) % 2 = 1)).map fun e => e.1) = some k →
    ∃ t, exec .stepClear s = .next t ∧ t.job.lastCleared = k ∧ (t.stepRec k).cleared = true ∧ t.job.lastCommitted = s.job.lastCommitted
      ∧ SameBut [.job, .log, .cow, .skid, .host, .snap, .ctr, .out] s t

/-! ### Clocks, supplies, monitors -/

/-- Stretching: a rise of demand takes effect at once, a level falls by one each microsecond and never below the demand; a hot
sensor raises its demand every 10 µs and a cool one lowers it every 100 µs; input power above its limits raises the power
demand, and less lowers it; the first demand of a step raises its event (R491 to R493, R495). -/
def Obligations.DemandsStretchTheClocks : Prop :=
  (∀ (s : State) (i : Nat), stretches i = true → s.demandOn i < (s.inst i).level → sget 0 s.power.fallAt i + 400 ≤ s.time.cycles →
    ∃ t, exec (.stretchStepDown i) s = .next t ∧ (t.inst i).level + 1 = (s.inst i).level ∧ sget 0 t.power.fallAt i = s.time.cycles
      ∧ (∀ j, j ≠ i → t.inst j = s.inst j) ∧ SameBut [.power, .ctr] s t) ∧
  (∀ (s : State) (sensor reading : Nat), ∃ t, exec (.thermalDemandUpdate sensor reading) s = .next t ∧ sget 0 t.power.temps sensor = reading
    ∧ SameBut [.power, .log, .job, .host, .ctr, .out] s t ∧
    (sget 0 t.power.thermal sensor =
      if throttleAt sensor ≤ reading ∧ sget 0 s.power.thermalAt sensor + 4000 ≤ s.time.cycles ∧ sget 0 s.power.thermal sensor < 64 then
        sget 0 s.power.thermal sensor + 1
      else if reading + 2 ≤ throttleAt sensor ∧ sget 0 s.power.thermalAt sensor + 40000 ≤ s.time.cycles then sget 0 s.power.thermal sensor - 1
      else sget 0 s.power.thermal sensor) ∧
    (sget 0 s.power.thermal sensor < sget 0 t.power.thermal sensor → ∀ i, i < 52 → stretches i = true → t.demandOn i ≤ (t.inst i).level) ∧
    (0 < sget 0 t.power.thermal sensor → s.isFirst 0x700000 s.stepKey = true → s.start.wardenHeld = false → Raised t wardenSrc 0x7010)) ∧
  (∀ (s : State) (watts : Nat), ∃ t, exec (.powerSample watts) s = .next t ∧ t.power.power = watts
    ∧ SameBut [.power, .log, .job, .host, .ctr, .out] s t ∧ (∀ i, i < 52 → stretches i = true → t.demandOn i ≤ (t.inst i).level)
    ∧ t.power.powerRun = (if 6500 < watts then s.power.powerRun + 1 else 0)
    ∧ t.power.powerDemand = (if watts ≤ 6500 then s.power.powerDemand - 1
        else min 64 (s.power.powerDemand + (if 7200 < watts then 8 else 0) + if 100 ≤ s.power.powerRun then 1 else 0))
    ∧ (0 < t.power.powerDemand → s.isFirst 0x700001 s.stepKey = true → s.start.wardenHeld = false → Raised t wardenSrc 0x7011))

/-- A clock whose PLL loses lock switches to the other PLL of its instance, or with neither locked is a fault; an instance on
another source only notes it. A switch done is the new source; a standby PLL may lock again (R488 to R490). -/
def Obligations.ClocksSwitchToTheirOtherPll : Prop :=
  (∀ (s : State) (inst : Nat) (pllB : Bool), ∃ t, exec (.pllLockLoss inst pllB) s = .next t ∧ (t.inst inst).lockLost = true
    ∧ (t.inst inst).source = (s.inst inst).source ∧ (t.inst inst).lockA = ((s.inst inst).lockA && pllB)
    ∧ (t.inst inst).lockB = ((s.inst inst).lockB && !pllB) ∧
    ((s.inst inst).target ≠ (if pllB then 1 else 0) → (t.inst inst).switching = (s.inst inst).switching ∧ SameBut [.power] s t) ∧
    ((s.inst inst).target = (if pllB then 1 else 0) → (if pllB then (s.inst inst).lockA else (s.inst inst).lockB) = true →
      (t.inst inst).switching = some (if pllB then 0 else 1) ∧ t.safe = s.safe ∧ (s.start.wardenHeld = false → Raised t wardenSrc 0x7020)) ∧
    ((s.inst inst).target = (if pllB then 1 else 0) → (if pllB then (s.inst inst).lockA else (s.inst inst).lockB) = false →
      Faulted t wardenSrc 0x7021 ∧ t.safe.latch = true)) ∧
  (∀ (s : State) (inst : Nat) (pllB ok : Bool), ∃ t, exec (.standbyRelock inst pllB ok) s = .next t ∧
    if ok = true ∧ (s.inst inst).target ≠ (if pllB then 1 else 0) then (if pllB then (t.inst inst).lockB else (t.inst inst).lockA) = true
      ∧ (t.inst inst).source = (s.inst inst).source ∧ SameBut [.power] s t
    else t = s) ∧
  (∀ (s : State) (inst : Nat), ∃ t, exec (.clockSwitchDone inst) s = .next t ∧
    match (s.inst inst).switching with
    | some x => (t.inst inst).source = x ∧ (t.inst inst).switching = none ∧ SameBut [.power] s t
    | none => t = s)

/-- From the start of a feed switch-over the switch-over demand of every ARITH and MEDIA instance is 32, until it completes: `BACKUP`
takes over from a low `MAIN`, and `MAIN` from a low `BACKUP`, and a good `MAIN` comes back. With both inputs lost the module powers down after its fault notices; a
bad inactive input is reported once (R494, R500 to R503). -/
def Obligations.FeedsSwitchOver : Prop :=
  (∀ (s : State) (main backup : Nat), s.power.switching = false →
    (if s.power.feed = 0 then main else backup) < 40000 → 40000 ≤ (if s.power.feed = 0 then backup else main) →
    ∃ t, exec (.switchOverStart main backup) s = .next t ∧ t.power.switching = true ∧ t.power.feed = s.power.feed
      ∧ t.power.returning = decide (s.power.feed ≠ 0)
      ∧ (∀ i, i < 52 → stretches i = true → 32 ≤ (t.inst i).level) ∧ SameBut [.power, .ctr] s t) ∧
  (∀ (s : State) (main : Nat), s.power.switching = false → s.power.feed ≠ 0 → s.rwValue 0x9001 0 1 = 1 → 42000 ≤ main → main ≤ 58000 →
    ∃ t, exec (.returnToMain main) s = .next t ∧ t.power.switching = true ∧ t.power.returning = true ∧ t.power.feed = s.power.feed
      ∧ (∀ i, i < 52 → stretches i = true → 32 ≤ (t.inst i).level) ∧ SameBut [.power, .ctr] s t) ∧
  (∀ s : State, s.power.switching = true → s.start.wardenHeld = false →
    ∃ t, exec .switchOverComplete s = .next t ∧ t.power.switching = false ∧ t.power.feed = (if s.power.returning then 0 else 1)
      ∧ Raised t wardenSrc (if s.power.returning then 0x7001 else 0x7000) ∧ SameBut [.power, .log, .host, .snap, .ctr, .out] s t) ∧
  (∀ (s : State) (main backup : Nat), main < 40000 → backup < 40000 → s.start.powered = true →
    ∃ t, exec (.supplyLost main backup) s = .next t ∧ t.start.powered = false ∧ t.start.stage = 0 ∧ t.job.plan = none ∧ t.mem = []
      ∧ Faulted t wardenSrc 0x7003 ∧ t.start.stores = s.start.stores ∧ t.pending = s.pending) ∧
  (∀ (s : State) (mv : Nat), ∃ t, exec (.feedBackupLow mv) s = .next t ∧ SameBut [.power, .log, .host, .ctr, .out] s t
    ∧ (if s.power.feed = 0 then t.power.backup else t.power.main) = mv
    ∧ t.power.lowRaised = decide ¬(40000 ≤ mv ∧ mv ≤ 58000)
    ∧ (¬(40000 ≤ mv ∧ mv ≤ 58000) → s.power.lowRaised = false → s.start.wardenHeld = false → Raised t wardenSrc 0x7002))

/-- A monitor sample with nothing beyond its fault limit clears the counts of successive samples; the third in a row beyond it is
a fault. Coolant 16 °C apart is reported once; an environment record is sent in each 1,024 beats (R475, R504, R548, R580). -/
def Obligations.MonitorsRaiseFaults : Prop :=
  (∀ (s : State) (r : MonitorReport), ∃ t, exec (.monitorSample r) s = .next t ∧ t.power.main = r.main ∧ t.power.backup = r.backup
    ∧ t.power.inlet = r.inlet ∧ t.power.outlet = r.outlet ∧ t.start.tamperHigh = r.tamper
    ∧ (r.main ≤ 60000 → sget 0 t.safe.monitorRun 0x1000 = 0)
    ∧ (60000 < r.main → sget 0 t.safe.monitorRun 0x1000 = sget 0 s.safe.monitorRun 0x1000 + 1)
    ∧ (60000 < r.main → sget 0 s.safe.monitorRun 0x1000 = 2 → t.safe.latch = true)) ∧
  (∀ (s : State) (inlet outlet : Nat), ∃ t, exec (.coolantDeltaHigh inlet outlet) s = .next t ∧ t.power.inlet = inlet
    ∧ t.power.outlet = outlet ∧ SameBut [.power, .log, .host, .ctr, .out] s t
    ∧ (16 < elemVal0 fFP32 outlet - elemVal0 fFP32 inlet → t.power.deltaHigh = true
        ∧ (s.power.deltaHigh = false → s.start.wardenHeld = false → Raised t wardenSrc 0x7030))
    ∧ (elemVal0 fFP32 outlet - elemVal0 fFP32 inlet ≤ 14 → t.power.deltaHigh = false ∧ t.log = s.log)) ∧
  (∀ s : State, s.beat / 1024 ≠ s.power.envBeat / 1024 →
    ∃ t, exec .environmentRecord s = .next t ∧ t.power.envBeat = s.beat ∧ t.log.ring = s.log.ring
      ∧ sget 0 t.log.seq telemetrySrc = (sget 0 s.log.seq telemetrySrc + 1) % 2 ^ 32 ∧ SameBut [.power, .log, .host, .ctr, .out] s t)

/-! ### Tests, lockstep, scrubbing, links to CXL devices -/

/-- Past stage 8 of start-up, outside stump mode: scrub reads of good memory change nothing but their pass; a line of SRAM that fails
twice, a half-burst or a line of the second tier that fails four times, is a fault of its die, and a re-read that matches is only
counted; a pass twice its period late is reported. Refresh is doubled at 85 °C; refresh and calibration change no value (R240, R259,
R262, R264, R292, R540, R542 to R544). -/
def Obligations.MemoryIsScrubbedAndRefreshed : Prop :=
  (∀ (s : State) (cls : Nat), cls ≤ 2 → s.start.powered = true → s.start.stump = none → s.start.stage = 9 →
    (∃ t, exec (.scrubRead cls [] false) s = .next t ∧ t = s) ∧
    (∃ t, exec (.scrubRead cls [] true) s = .next t ∧ sget 0 t.bg.passes cls = sget 0 s.bg.passes cls + 1
      ∧ sget 0 t.bg.passMs cls = (s.time.cycles - sget 0 s.bg.passBegan cls) / msCycles
      ∧ sget false t.bg.behind cls = false ∧ sget 0 t.bg.passBegan cls = s.time.cycles ∧ SameBut [.bg] s t) ∧
    (∀ (die code line : Nat) (reads : List LineRead), s.scrubbed (.sram die code line reads) = true →
      (∀ last, rereadsUsed 1 (lineOk code line) reads = none → ∃ t, exec (.scrubRead cls [.sram die code line reads] last) s = .next t
        ∧ Faulted t (dieSrc die) 0x1100 ∧ t.safe.latch = true ∧ t.mem = s.mem ∧ t.bg = s.bg) ∧
      (rereadsUsed 1 (lineOk code line) reads = some 1 → ∃ t, exec (.scrubRead cls [.sram die code line reads] false) s = .next t
        ∧ t.count kSramRereads = s.count kSramRereads + 1 ∧ SameBut [.ctr, .snap] s t)) ∧
    (∀ (a : Nat) (reads : List BurstRead) (last : Bool), rereadsUsed 3 (burstOk a) reads = none →
      ∃ t, exec (.scrubRead cls [.hbm a reads] last) s = .next t
        ∧ Faulted t (dieSrc (52 + stackOf a)) 0x1101 ∧ t.safe.latch = true ∧ t.mem = s.mem ∧ t.bg = s.bg) ∧
    (∀ (port device a : Nat) (reads : List TierRead) (last : Bool), rereadsUsed 3 (tierOk a) reads = none →
      ∃ t, exec (.scrubRead cls [.cxl port device a reads] last) s = .next t
        ∧ Faulted t (dieSrc (97 + port)) 0x1102 ∧ t.safe.latch = true ∧ t.mem = s.mem ∧ t.bg = s.bg)) ∧
  (∀ (s : State) (cls : Nat), cls ≤ 2 → s.start.powered = true → s.start.stump = none → s.start.stage = 9 → sget false s.bg.behind cls = false →
    sget 0 s.bg.passBegan cls + 2 * scrubPeriod cls ≤ s.time.cycles → s.start.wardenHeld = false →
    ∃ t, exec (.scrubBehind cls) s = .next t ∧ sget false t.bg.behind cls = true ∧ Raised t wardenSrc 0x1300
      ∧ SameBut [.bg, .log, .host, .ctr, .out] s t) ∧
  (∀ (s : State) (stack temp : Nat), (∃ t, exec (.hbmRefreshDue stack) s = .next t ∧ t = s)
    ∧ (∃ t, exec (.hbmCalibration stack) s = .next t ∧ t = s)
    ∧ ∃ t, exec (.stackTempRead stack temp) s = .next t ∧ (sget {} t.base stack).temp = temp
      ∧ ((sget {} t.base stack).refreshHigh = true ↔ 85 ≤ temp) ∧ sget 0 t.power.temps (128 + stack) = temp ∧ SameBut [.base, .power] s t)

/-- A retrained CXL link works on at its new speed and width, reported where lower than found at start-up, and is unused below 32 GT/s; one
that stays down is a fault where the plan keeps a reserve on its device, else an event (R288, R297, R298). -/
def Obligations.CxlLinksRetrainOrGoDown : Prop :=
  ∀ (s : State) (port dev : Nat) (d : CxlDevice), s.cxlDevice port dev = some d →
    (∀ speed width, s.start.wardenHeld = false → ∃ t, exec (.cxlLinkRetrain port dev speed width) s = .next t
      ∧ t.cxlDevice port dev = some { d with link := if speed = 0 then 0 else 2, speed := speed, width := width }
      ∧ t.count kCxlRetrains = s.count kCxlRetrains + 1 ∧ SameBut [.cxl, .log, .host, .snap, .ctr, .out] s t
      ∧ Raised t (cxlSrc port) (if speed < d.foundSpeed ∨ width < d.foundWidth then 0x6402 else 0x6400)) ∧
    (d.link ≠ 0 → ∃ t, exec (.cxlLinkDown port dev) s = .next t ∧ t.cxlDevice port dev = some { d with link := 0 }
      ∧ (s.reserveOn d = true → t.safe.latch = true) ∧ (s.reserveOn d = false → t.safe = s.safe ∧ t.job = s.job) ∧ t.mem = s.mem)

/-- A unit's known-answer test and a checker's self-test are counted when they pass and faults when they fail; a self-test waits
for a retry in progress. A controller out of lockstep is a fault; the warden out of lockstep stops the units, inhibits commit and
is held, and nothing is recorded (R471, R474, R476, R477). -/
def Obligations.TestsAndLockstepStopTheModule : Prop :=
  (∀ (s : State) (unit : Nat), s.job.plan ≠ none → unit / 512 ∈ s.start.dieMap ∨ (52 ≤ unit / 512 ∧ unit / 512 < 92) →
    (∃ t, exec (.unitKatTest unit true) s = .next t ∧ t.count kUnitKats = s.count kUnitKats + 1
      ∧ sget 0 t.safe.unitTest unit = s.time.cycles ∧ t.safe.latch = s.safe.latch ∧ SameBut [.safe, .ctr] s t) ∧
    (∃ t, exec (.unitKatTest unit false) s = .next t ∧ Faulted t unit 0x1205 ∧ t.safe.latch = true ∧ t.mem = s.mem)) ∧
  (∀ (s : State) (checker : Nat), s.start.powered = true → s.start.stump = none → s.start.stage = 9 →
    sget 0 s.safe.selfTest checker + 60 * secCycles ≤ s.time.cycles →
    (∀ ok, ∃ t, exec (.checkerSelfTest checker true ok) s = .next t ∧ t.safe.selftestDue = true
      ∧ t.safe.selfTest = s.safe.selfTest ∧ SameBut [.safe] s t) ∧
    (∃ t, exec (.checkerSelfTest checker false true) s = .next t ∧ t.count kSelfTests = s.count kSelfTests + 1
      ∧ t.safe.selftestDue = false ∧ sget 0 t.safe.selfTest checker = s.time.cycles ∧ SameBut [.safe, .ctr] s t) ∧
    (∃ t, exec (.checkerSelfTest checker false false) s = .next t ∧ Faulted t checker 0x1206 ∧ t.safe.latch = true ∧ t.mem = s.mem)) ∧
  (∀ (s : State) (source : Nat), source / 512 ∈ s.start.dieMap ∨ (52 ≤ source / 512 ∧ source / 512 < 92) ∨ (96 ≤ source / 512 ∧ source / 512 < 99) →
    s.safe.latch = false → ∃ t, exec (.controllerLockstep source) s = .next t
    ∧ Faulted t source 0x1201 ∧ t.safe.inhibit = true ∧ t.safe.first.code = 0x1201 ∧ t.safe.first.source = source
    ∧ (s.job.plan ≠ none → t.job.state = .fault) ∧ t.mem = s.mem ∧ t.tally = s.tally) ∧
  (∀ s : State, ∃ t, exec .wardenLockstep s = .next t ∧ t.start.wardenHeld = true ∧ t.safe.latch = true ∧ t.safe.inhibit = true
    ∧ (s.job.plan ≠ none → t.job.state = .fault) ∧ t.log.history = s.log.history ∧ t.mem = s.mem ∧ t.tally = s.tally ∧ t.bg = s.bg)

/-! ### Start-up, restart, installs, life cycle (01, 11, 19, 20) -/

/-- Power brings start-up to stage 0; a passed stage leads to the next and the last to `READY`; a failed or overdue stage leads to
stump mode from the ROM's stages and to the fault state from later ones. A slot is booted only where it verifies (R512, R513, R517). -/
def Obligations.StartUpPassesItsStages : Prop :=
  (∀ (s : State) (osc : Nat), s.start.powered = false → ∃ t, exec (.powerGood osc) s = .next t ∧ t.start.powered = true
    ∧ t.start.stage = 0 ∧ t.start.stump = none ∧ t.start.oscdly = osc % 8 ∧ t.job.plan = none ∧ t.start.slots = s.start.slots
    ∧ t.start.stores = s.start.stores ∧ t.log.history = s.log.history ∧ t.pending = s.pending) ∧
  (∀ s : State, s.starting = true → s.start.card ≠ 1 →
    (∀ c, c = .startStageDone .failed
        ∨ (c = .startStageTimeout ∧ s.start.stageBegan + stageLimit s.start.stage * msCycles < s.time.cycles) →
      ∃ t, exec c s = .next t ∧ (s.start.stage ≤ 1 → t.start.stump = some 3) ∧ (s.start.stage = 2 → t.start.stump = some 2)
        ∧ (3 ≤ s.start.stage → t.start.stage = 10 ∧ t.safe.latch = true ∧ t.safe.inhibit = true ∧ SameBut [.start, .safe] s t)) ∧
    (s.time.cycles ≤ s.start.stageBegan + stageLimit s.start.stage * msCycles → ∃ t, exec .startStageTimeout s = .next t ∧ t = s) ∧
    (s.start.stage = 0 → s.start.stageBegan + 2 ^ s.start.oscdly * msCycles ≤ s.time.cycles →
      ∃ t, exec (.startStageDone .passed) s = .next t ∧ t.start.stage = 1 ∧ SameBut [.start] s t) ∧
    (s.start.stage = 1 → ∀ sel up, ∃ t, exec (.startStageDone (.rom sel up)) s = .next t ∧ t.start.bootCount = s.start.bootCount + 1
      ∧ (if s.start.lifecycle = 2 then t.start.stage = 2 ∧ t.start.slotsel = sel % 4 ∧ t.start.stumpN = up ∧ SameBut [.start] s t
         else t.start.stump = some 4)) ∧
    (s.start.stage = 2 → ∃ t, exec (.startStageDone .passed) s = .next t ∧ (s.start.stumpN = false → t.start.stump = some 0)
      ∧ ∀ a, s.start.stumpN = true → s.start.slotsel = 0 → s.slotIn 1 = none → s.slotIn 2 = some a → s.slotIn 3 = none →
        if s.slotVerifies a = true then t.start.stage = 3 ∧ t.start.bootB = decide (a = 1) ∧ SameBut [.start] s t
        else t.start.stump = some 2) ∧
    (s.start.stage = 3 → ∃ t, exec (.startStageDone .passed) s = .next t ∧ t.start.stage = 4 ∧ t.power.inst = []
      ∧ SameBut [.start, .power] s t) ∧
    (s.start.stage = 4 →
      (∀ lanes, (∀ f ∈ lanes, (lanes.foldl State.fuseLanes s).lanesOut f = false) → ∃ t, exec (.startStageDone (.tests [] lanes)) s = .next t
        ∧ t.start.stage = 5 ∧ t.start.found = [] ∧ t.spine = (lanes.foldl State.fuseLanes s).spine ∧ SameBut [.start, .spine] s t) ∧
      (∀ n, 52 ≤ n → n < 99 → ∃ t, exec (.startStageDone (.tests [n] [])) s = .next t ∧ t.start.stage = 10 ∧ t.safe.latch = true
        ∧ Faulted t (dieSrc n) 0x2F02) ∧
      (∀ n l, n < 48 → s.logicalOf n = some l → ∃ t, exec (.startStageDone (.tests [n] [])) s = .next t ∧
        if s.start.spares.getD (n / 12) 0xFF = 0xFF then t.start.stage = 5 ∧ t.start.found = [n] ∧ SameBut [.start] s t
        else t.start.stage = 10 ∧ t.safe.latch = true ∧ Faulted t (dieSrc n) 0x2F01)) ∧
    (s.start.stage = 5 → ∃ t, exec (.startStageDone .passed) s = .next t ∧ t.start.stage = 6 ∧ t.start.found = []
      ∧ t.start.security = max s.start.security s.start.securityPending
      ∧ ∀ n l, s.start.found = [n] → n < 48 → s.logicalOf n = some l → t.start.dieMap = listUpd s.start.dieMap l (fun _ => 48 + n / 12)
        ∧ t.start.spares = listUpd s.start.spares (n / 12) (fun _ => l) ∧ t.start.repairs = s.start.repairs + 1
        ∧ t.start.mapGeneration = s.start.mapGeneration + 1) ∧
    (s.start.stage = 6 → ∃ t, exec (.startStageDone .passed) s = .next t ∧ SameBut [.start, .safe] s t ∧
      if s.verifyImage (s.fwSlot s.booted).image true = 0 then t.start.stage = 7 ∧ t.safe = s.safe else t.start.stage = 10) ∧
    (s.start.stage = 7 → ∃ t, exec (.startStageDone .passed) s = .next t ∧ t.start.stage = 8) ∧
    (s.start.stage = 8 → s.start.wardenHeld = false → ∀ found, ∃ t, exec (.startStageDone (.links found)) s = .next t
      ∧ t.start.stage = 9 ∧ t.cxl.devices.length = (found.filter fun d => d.speed ≠ 0).length
      ∧ Raised t wardenSrc (if s.start.identity = true then 0x8000 else 0x800C)))

/-- A module restart is refused while the job is armed, runs or is paused; else it starts again at stage 1 with no plan and no
session, keeping its slots and its fault history. A card install ends with its result, its image on trial or its slot empty, and a
removed card ends it. Confirming the trial makes its slot `ACTIVE` and its security version the pending one (R513, R520 to R523). -/
def Obligations.RestartsAndInstallsComplete : Prop :=
  (∀ (s : State) (q : Req), Fresh s q → InSession s q → WholeWrite q 0xB000 5 1 → q.data = u8 1 →
    ∃ t, exec (.moduleRestart q) s = .next t ∧
      if s.job.state = .armed ∨ s.job.state = .running ∨ s.job.state = .paused then
        Answered t q 2 abState true [] ∧ SameBut [.host, .ctr, .out] s t
      else Answered t q 2 0 true [] ∧ t.start.stage = 1 ∧ t.start.cause = 1 ∧ t.job.plan = none ∧ t.host.sessions = []
        ∧ t.safe.latch = false ∧ t.start.slots = s.start.slots ∧ t.log.history = s.log.history) ∧
  (∀ (s : State) (card : Nat) (file : Bytes), ∃ t, exec (.cardChanged card file) s = .next t
    ∧ t.start.card = card ∧ t.start.cardFile = file ∧ t.start.cardChanged = true
    ∧ if s.start.installing = true ∧ card = 0 then t.start.installing = false ∧ t.start.result = 2
        ∧ t.start.slots = listUpd s.start.slots s.otherSlot (fun _ => {}) ∧ SameBut [.start, .log, .host, .ctr, .out] s t
      else t.start.installing = s.start.installing ∧ t.start.slots = s.start.slots ∧ SameBut [.start] s t) ∧
  (∀ (s : State) (q : Req), Fresh s q → InSession s q → WholeWrite q 0xB012 0 1 → q.data = u8 1 →
    ∃ t, exec (.fwCardInstall q) s = .next t ∧ SameBut [.start, .host, .ctr, .out] s t ∧
      if s.onTrial = true ∨ s.start.installing = true then Answered t q 2 abState true [] ∧ t.start = s.start
      else Answered t q 2 0 true [] ∧ t.start.installing = true ∧ t.start.result = 255 ∧ t.start.slots = s.start.slots) ∧
  (∀ (s : State) (flash : FlashReport), s.start.installing = true → ∃ t, exec (.fwInstallComplete flash) s = .next t
    ∧ t.start.installing = false ∧ t.start.result = s.installResult flash.ok ∧ SameBut [.start, .bg, .log, .host, .ctr, .out] s t
    ∧ t.start.slots = listUpd s.start.slots s.otherSlot (fun _ =>
        if s.installResult flash.ok = 0 then { state := 1, trials := 0, image := s.start.cardFile } else {})) ∧
  (∀ (s : State) (q : Req), Fresh s q → InSession s q → WholeWrite q 0xB011 0 64 → s.start.stage = 9 →
    ∃ t, exec (.fwConfirm q) s = .next t ∧ SameBut [.start, .log, .host, .ctr, .out] s t ∧
      if s.onTrial = false then Answered t q 2 abState true [] ∧ t.start = s.start
      else if q.data ≠ headerDigest (s.fwSlot s.booted).image then Answered t q 2 abInconsistent true [] ∧ t.start = s.start
      else Answered t q 2 0 true [] ∧ Raised t wardenSrc 0x8005 ∧ (t.fwSlot s.booted).state = 2
        ∧ ((t.fwSlot s.otherSlot).state = 0 ∨ (t.fwSlot s.otherSlot).state = 3)
        ∧ t.start.securityPending = max s.start.securityPending (imgSecurity (s.fwSlot s.booted).image))

/-- A return is pending once its serial number is written with no plan loaded; a broken seal wipes the identity key, and is a fault
where a plan is loaded; a nonce is attested; flash is verified every 24 hours, and a failed area is reported (R533 to R535, R546, R564). -/
def Obligations.IdentityAndFlashAreGuarded : Prop :=
  (∀ (s : State) (q : Req), Fresh s q → InSession s q → WholeWrite q 0xB020 4 16 → q.data = serialNumber →
    ∃ t, exec (.lifecycleReturn q) s = .next t ∧ SameBut [.start, .host, .ctr, .out] s t ∧
      if s.job.state = .empty then Answered t q 2 0 true [] ∧ t.start = { s.start with returnPending := true }
      else Answered t q 2 abState true [] ∧ t.start = s.start) ∧
  (∀ s : State, s.start.wardenHeld = false → ∃ t, exec .tamper s = .next t ∧ t.start.identity = false ∧ t.start.tamperSeen = true
    ∧ t.start.tamperHigh = true ∧ t.mem = s.mem ∧ t.tally = s.tally
    ∧ (s.job.plan = none → Raised t wardenSrc 0x800B ∧ SameBut [.start, .log, .host, .ctr, .out] s t)
    ∧ (s.job.plan ≠ none → Faulted t wardenSrc 0x8100 ∧ t.safe.latch = true)) ∧
  (∀ (s : State) (q : Req), Fresh s q → InSession s q → WholeWrite q 0xB030 1 32 →
    ∃ t, exec (.attestNonce q) s = .next t ∧ SameBut [.start, .host, .ctr, .out] s t ∧
      if s.start.identity = true then Answered t q 2 0 true [] ∧ t.start = { s.start with
        report := s.attestBody q.data ++ padTo 3309 (Config.mlDsaSign (ascii "EDZ-ATTEST-1") (s.attestBody q.data)) }
      else Answered t q 2 abState true [] ∧ t.start = s.start) ∧
  (∀ s : State, s.start.powered = true → s.start.stump = none → s.start.stage = 9 → s.bg.lastVerify + 86400 * secCycles ≤ s.time.cycles →
    (∃ t, exec (.flashVerify []) s = .next t ∧ t.bg.lastVerify = s.time.cycles ∧ t.bg.verifyFailures = s.bg.verifyFailures
      ∧ SameBut [.bg] s t) ∧
    (∀ a, s.areaBusy a = false → ∃ t, exec (.flashVerify [a]) s = .next t ∧ t.bg.verifyFailed = true
      ∧ t.bg.verifyFailures = s.bg.verifyFailures + 1 ∧ t.bg.lastVerify = s.time.cycles
      ∧ (a = s.booted → t.start = { s.start with unread := s.start.unread.filter fun x => decide (x.1 ≠ a - 16) } ∧ t.tally = s.tally) ∧ SameBut [.start, .tally, .bg, .log, .host, .ctr, .out] s t))

/-! ### Instructions of a stream: the array and the drain path (04, 06, 07) -/

/-- An instruction that may issue and that no check refuses is counted and takes its place: a pass in the array's queue, with its
extents as they are at issue (R88, R91, R103, R156, R160, R163). A pass without rows or columns, or of no depth onto no new tile,
retires at issue; one of no depth that begins an idle tile clears it there. A known-answer pass takes the array and leaves its check
on the drain path (R110). The last instruction of a pass of the stream that leaves nothing in flight begins the next pass at its REDUCE
entry, after one known-answer pass, where the module straggles in the next step already (R72). -/
def Obligations.PassesTakeTheirPlaceAtIssue : Prop :=
  ∀ (s : State) (cl : Nat) (f : Fetched), Issues s cl f →
    (¬OnTime s cl → iClass f.word = 0 → f.idx + 1 = f.st.words.length → (s.cl cl).inflight = 0 → s.start.wardenHeld = false →
      ∃ t, exec (.nop cl) s = .next t ∧ (t.cl cl).index = f.st.entries.getD 3 0 ∧ (t.cl cl).step = (s.cl cl).step + 1
        ∧ (t.cl cl).katHold = true ∧ (t.cl cl).arrayQ.map (fun o => o.kind) = [.kat] ∧ (t.cl cl).tiles = [] ∧ (t.cl cl).slots = []
        ∧ Raised t (s.seqSrc cl) 0x2204 ∧ SameBut issueParts s t) ∧
    (OnTime s cl →
    (iClass f.word = 0 → ∃ t, exec (.nop cl) s = .next t ∧ Issued s t cl (s.cl cl) ∧ SameBut issueParts s t) ∧
    (∀ (i : Instr) (kind : PassKind) (n : Nat),
      ((i = .matrix cl ∧ kind = .matrix ∧ iClass f.word = 1 ∧ n = ((s.cl cl).passExtents f.word).2.1 ∧ s.matrixCheck cl f = .ok) ∨
       (i = .conv cl ∧ kind = .conv ∧ iClass f.word = 2 ∧ s.namesCrop f.word = false ∧ n = ((s.cl cl).passExtents f.word).2.1
          ∧ s.convCheck cl f = .ok) ∨
       (i = .crop cl ∧ kind = .crop ∧ iClass f.word = 2 ∧ s.namesCrop f.word = true ∧ n = ((s.cl cl).passExtents f.word).2.1
          ∧ s.cropCheck cl f = .ok) ∨
       (i = .elemwise cl ∧ kind = .elemwise ∧ iClass f.word = 3 ∧ n = 128 ∧ s.elemCheck cl f = .ok)) →
      ∃ t, exec i s = .next t ∧ SameBut (.job :: issueParts) s t ∧ (kind ≠ .crop → t.job = s.job) ∧
        let c := s.cl cl
        let w := f.word
        let m := (c.passExtents w).1
        let k := (c.passExtents w).2.2
        let a := c.aheadOf (iTile w)
        let next := c.setAhead (iTile w) { a with base := .live, eref := iEref w, runK := if iFresh w = true then k else a.runK + k }
        if m = 0 ∨ n = 0 ∨ (k = 0 ∧ iFresh w = false) then Issued s t cl { c with passCount := c.passCount + 1 }
        else if k = 0 ∧ c.tileBusy (iTile w) = false then
          Issued s t cl { next.setTile (iTile w) { base := .live, acc := [], eref := iEref w, runK := 0 } with passCount := c.passCount + 1 }
        else Issued s t cl
          { next with issueNo := c.issueNo + 1, arrayQ := c.arrayQ ++ [⟨c.issueNo, kind, iTile w, w, m, n, k, f.step, f.idx⟩] }) ∧
    (iClass f.word = 4 → ((s.cl cl).aheadOf (iTile f.word)).base ≠ .reserved →
      ¬(((s.cl cl).aheadOf (iTile f.word)).slot = .accumulated ∧ 0 < ((s.cl cl).aheadOf (iTile f.word)).runK) →
      ∃ t, exec (.kat cl) s = .next t ∧ SameBut issueParts s t ∧
        let c := s.cl cl
        let a := c.aheadOf (iTile f.word)
        Issued s t cl { c.setAhead (iTile f.word) { a with base := .idle, runK := 0 } with
          issueNo := c.issueNo + 1
          arrayQ := c.arrayQ ++ [⟨c.issueNo, .kat, iTile f.word, f.word, 128, 128, 128, f.step, f.idx⟩]
          drainQ := c.drainQ ++ [{ n := c.issueNo, kind := .katCheck, tile := iTile f.word, word := f.word, m := 128, nn := 128, rowBits := 0,
                                   colBits := 0, step := f.step, idx := f.idx }] }))

/-- A drain, a spill or a restore that no check refuses takes its place on the drain path, with the extents and the mask that it has
at issue; tile and slot are from then on what it will leave: a store reserves its tile and fills the slot, an add empties the tile
into the slot, a restore empties the slot into the tile, a drain of a slot empties it (R94, R102, R103, R156, R165 to R167). -/
def Obligations.DrainsAndSpillsTakeTheirPlaceAtIssue : Prop :=
  ∀ (s : State) (cl : Nat) (f : Fetched), Issues s cl f → OnTime s cl →
    let c := s.cl cl
    let t0 := iTile f.word
    let a := c.aheadOf t0
    let op (kind : DrainKind) (m n : Nat) (mask : Nat × Nat) : DrainOp :=
      { n := c.issueNo, kind := kind, tile := t0, word := f.word, m := m, nn := n, rowBits := mask.1, colBits := mask.2, step := f.step, idx := f.idx }
    let put (c' : Cluster) (d : DrainOp) : Cluster := { c' with issueNo := c.issueNo + 1, drainQ := c.drainQ ++ [d] }
    (iClass f.word = 5 → s.drainCheck cl f = .ok →
      (dFromSlot f.word = false → ∃ t, exec (.drain cl) s = .next t ∧ SameBut issueParts s t ∧ Issued s t cl
        (put c (op .drain (c.extent (dMMax f.word) (dMSel f.word)) (c.extent (dNMax f.word) (dNSel f.word)) (c.drainMask f.word)))) ∧
      (dFromSlot f.word = true → ∃ t, exec (.drainSlot cl) s = .next t ∧ SameBut issueParts s t ∧ Issued s t cl
        (put (c.setAhead t0 { a with slot := .empty })
          (op .drainSlot (c.extent (dMMax f.word) (dMSel f.word)) (c.extent (dNMax f.word) (dNSel f.word)) (c.drainMask f.word))))) ∧
    (iClass f.word = 6 → iFresh f.word = false → a.base ≠ .reserved → a.slot = .empty →
      ∃ t, exec (.spillStore cl) s = .next t ∧ SameBut issueParts s t ∧ Issued s t cl
        (put (c.setAhead t0 { a with base := .reserved, runK := 0, slot := .stored, slotEref := a.eref, slotRunK := a.runK })
          (op .spillStore 128 128 (0, 0)))) ∧
    (iClass f.word = 6 → iFresh f.word = true → a.base ≠ .reserved → a.slot ≠ .stored → (a.slot = .accumulated → a.slotEref = a.eref) →
      ∃ t, exec (.spillAdd cl) s = .next t ∧ SameBut issueParts s t ∧ Issued s t cl
        (put (c.setAhead t0 { a with base := .idle, runK := 0, slot := .accumulated, slotEref := a.eref, slotRunK := 0 })
          (op .spillAdd 128 128 (0, 0)))) ∧
    (iClass f.word = 7 → a.slot = .stored →
      ∃ t, exec (.restore cl) s = .next t ∧ SameBut issueParts s t ∧ Issued s t cl
        (put (c.setAhead t0 { a with base := .live, eref := a.slotEref, runK := a.slotRunK, slot := .empty })
          (op .restore 128 128 (0, 0))))

/-- The head pass of the array, unless an earlier operation of the drain path names its tile, retires: each valid cell of its tile has
then its earlier sum, or nothing for a fresh pass, plus the exact sum of its placed products; a known-answer pass leaves a tile of the
generator's sums, and its check. A held pass counts a stall. The drain path begins once no earlier pass on its tile is left; its head
takes its row, stores, adds or restores, and retires; a drain that writes nothing retires as it begins; a signature that is not the
known one, a residue mismatch, and an array whose known-answer pass is overdue are faults. A cluster paused in a pass spills its tiles
once it is idle. While its clock is stopped nothing of a cluster retires (R80, R94, R96 to R99, R102, R105, R110 to R112, R130, R152,
R470, R489, R497). -/
def Obligations.QueuedArrayWorkRetires : Prop :=
  ∀ (s : State) (cl : Nat),
    (s.clocked cl = false → ∀ sig, ∀ c ∈ ([.arrayPassComplete cl [], .drainFence cl, .drainRowWrite cl none [], .drainPathOpComplete cl [],
      .katCheckComplete cl sig none] : List Instr), ∃ t, exec c s = .next t ∧ t = s) ∧
    (s.clocked cl = true → OnTime s cl → ∀ op rest, (s.cl cl).arrayQ = op :: rest →
      ((s.cl cl).held op = true → ∃ t, exec (.arrayPassComplete cl []) s = .next t ∧ SameBut [.clusters, .ctr] s t
        ∧ t.cl cl = { s.cl cl with stallCycles := (s.cl cl).stallCycles + 1 }) ∧
      ((s.cl cl).held op = false → ∃ t, exec (.arrayPassComplete cl []) s = .next t ∧ (t.cl cl).arrayQ = rest
        ∧ SameBut (.stats :: issueParts) s t ∧ (∀ n, n ≠ cl → t.cl n = s.cl n)
        ∧ (∀ n, n ≠ op.tile → (t.cl cl).tile n = (s.cl cl).tile n)
        ∧ (op.kind = .kat → (t.cl cl).tile op.tile = { (s.cl cl).tile op.tile with acc := [], runK := 0 }
            ∧ (t.cl cl).passCount = (s.cl cl).passCount ∧ (t.cl cl).drainQ = (s.cl cl).drainQ)
        ∧ (op.kind ≠ .kat → (t.cl cl).passCount = (s.cl cl).passCount + 1 ∧ ((t.cl cl).tile op.tile).base = .live
            ∧ ((t.cl cl).tile op.tile).eref = iEref op.word
            ∧ ((t.cl cl).tile op.tile).runK = (if iFresh op.word = true then op.k else ((s.cl cl).tile op.tile).runK + op.k))
        ∧ (op.kind = .matrix ∨ op.kind = .conv ∨ op.kind = .crop → op.nn ≤ 128 → ∀ i j, j < 128 →
            sget 0 ((t.cl cl).tile op.tile).acc (128 * i + j) =
              (if iFresh op.word = true then 0 else sget 0 ((s.cl cl).tile op.tile).acc (128 * i + j)) +
              if i < op.m ∧ j < op.nn ∧ (s.feedOf cl op).row i = true
              then ((s.feedOf cl op).cell (iEref op.word) (iShift op.word) i j op.k).1 else 0))) ∧
    (s.clocked cl = true → OnTime s cl → ∀ d rest, (s.cl cl).drainQ = d :: rest →
      (d.fenced = false → ∃ t, exec (.drainFence cl) s = .next t ∧
        if d.kind ≠ .drainSlot ∧ (∃ o ∈ (s.cl cl).arrayQ, o.n ≤ d.n ∧ o.tile = d.tile) then t = s
        else SameBut issueParts s t ∧ (t.cl cl).drainQ =
          (if (d.kind = .drain ∨ d.kind = .drainSlot) ∧ d.writesNothing = true then rest else { d with fenced := true } :: rest)) ∧
      (d.fenced = true → d.row + 1 < d.m →
        (∀ col, ∃ t, exec (.drainRowWrite cl (some col) []) s = .next t ∧ Faulted t (s.seqSrc cl) 0x1203 ∧ t.mem = s.mem) ∧
        (∃ t, exec (.drainRowWrite cl none []) s = .next t ∧
          if d.sendsRows = true ∧ dKind d.word = 1 ∧ 256 ≤ (s.cl cl).drainIn.length then t = s
          else (t.cl cl).drainQ = { d with row := d.row + 1 } :: rest
            ∧ (d.sendsRows = true → dKind d.word = 1 → (t.cl cl).drainIn = (s.cl cl).drainIn ++ [(s.cl cl).drainVector d d.row] ∧ t.mem = s.mem)
            ∧ (d.sendsRows = true → dKind d.word = 0 → t.mem = (s.drainLocal cl d d.row).mem ∧ (t.cl cl).drainIn = (s.cl cl).drainIn)
            ∧ (d.sendsRows = false → t.mem = s.mem ∧ (t.cl cl).drainIn = (s.cl cl).drainIn))) ∧
      (d.fenced = true → d.kind = .spillStore ∨ d.kind = .spillAdd ∨ d.kind = .restore →
        ∃ t, exec (.drainPathOpComplete cl []) s = .next t ∧ SameBut issueParts s t ∧ (t.cl cl).drainQ = rest
          ∧ (d.kind = .spillStore → let x := (s.cl cl).tile d.tile
              (t.cl cl).slot d.tile = { state := .stored, totalK := x.runK, eref := x.eref, runK := x.runK, elems := x.acc }
              ∧ ((t.cl cl).tile d.tile).base = .reserved)
          ∧ (d.kind = .spillAdd → ((t.cl cl).slot d.tile).state = .accumulated
              ∧ ((t.cl cl).slot d.tile).elems = addImages ((s.cl cl).slot d.tile).elems ((s.cl cl).tile d.tile).acc
              ∧ ((t.cl cl).tile d.tile).base = .idle)
          ∧ (d.kind = .restore → let y := (s.cl cl).slot d.tile
              (t.cl cl).slot d.tile = {} ∧ (t.cl cl).tile d.tile = { base := .live, acc := y.elems, eref := y.eref, runK := y.runK })) ∧
      (d.fenced = true → d.sendsRows = true → dKind d.word ≠ 1 ∨ (s.cl cl).drainIn.length + (d.m - d.row) ≤ 256 →
        ∃ t, exec (.drainPathOpComplete cl []) s = .next t ∧ (t.cl cl).drainQ = rest ∧ (∀ n, n ≠ cl → t.cl n = s.cl n)
          ∧ (d.kind = .drainSlot → (t.cl cl).slot d.tile = {}) ∧ (∀ n, (t.cl cl).tile n = (s.cl cl).tile n)
          ∧ (dKind d.word = 1 → t.mem = s.mem)
          ∧ (dKind d.word = 0 → d.m = d.row + 1 → t.mem = (s.drainLocal cl d d.row).mem)) ∧
      (d.fenced = true → d.kind = .katCheck → ∀ sig, ∃ t, exec (.katCheckComplete cl sig none) s = .next t ∧ t.mem = s.mem ∧
        if sig = Config.katSignature (s.cl cl).katNext then (t.cl cl).drainQ = rest ∧ (t.cl cl).katCount = (s.cl cl).katCount + 1
          ∧ (t.cl cl).katNext = ((s.cl cl).katNext + 1) % 8 ∧ (t.cl cl).katHold = false
          ∧ (t.cl cl).tile d.tile = { eref := ((s.cl cl).tile d.tile).eref } ∧ SameBut issueParts s t
        else Faulted t (s.seqSrc cl) 0x2200 ∧ t.safe.latch = true)) ∧
    (∀ p, s.job.plan = some p → s.job.state = .running ∨ s.job.state = .paused → (s.stream cl).isSome = true →
      ∃ t, exec (.katMissed cl) s = .next t ∧
        if p.katPeriod * 2 ^ 16 < s.katGap cl then Faulted t (s.seqSrc cl) 0x2201 ∧ t.safe.latch = true ∧ t.mem = s.mem else t = s) ∧
    (s.job.state = .paused → s.job.frozenByPass = true → (s.stream cl).isSome = true → (s.cl cl).arrayQ = [] → (s.cl cl).drainQ = [] →
      (s.cl cl).pauseSpilled = false → ∃ t, exec (.clusterPauseSpill cl) s = .next t ∧ SameBut [.clusters] s t
        ∧ t.cl cl = { ((s.cl cl).pauseSpill 0).pauseSpill 1 with pauseSpilled := true })

/-! ### Instructions of a stream: the vector unit (08) -/

/-- A vector operation that no check refuses takes its place in the unit's queue, its extents read at issue; one of zero extents
retires at issue. The unit works through the rows of the head of its queue: with no row left the head retires and is counted, and a
head that waits for rows of the drain input counts a starved cycle; while the cluster's clock is stopped nothing retires (R152, R156,
R157, R169, R170, R179, R215, R220, R228, R489, R497). -/
def Obligations.VectorOperationsQueueAndRetire : Prop :=
  (∀ (s : State) (cl : Nat) (f : Fetched) (i : Instr), Issues s cl f → OnTime s cl → s.vecCheck cl f = .ok →
    (iClass f.word = 8 ∧ vMode f.word ≠ 3 ∧ (vOp f.word, i) ∈ vectorOps cl) ∨ (iClass f.word = 9 ∧ i = .topk cl) →
    let c := s.cl cl
    let op := s.vecOpOf cl f
    ∃ t, exec i s = .next t ∧ SameBut issueParts s t ∧
      if op.rows = 0 ∨ (iClass f.word = 9 ∧ (op.len = 0 ∨ tkK f.word = 0)) then Issued s t cl { c with vuOps := c.vuOps + 1 }
      else Issued s t cl { c with issueNo := c.issueNo + 1, vecQ := c.vecQ ++ [op], vuStopped := false }) ∧
  (∀ (s : State) (cl : Nat) (op : VecOp) (rest : List VecOp), (s.cl cl).vecQ = op :: rest →
    (s.clocked cl = false → ∃ t, exec (.vectorOpComplete cl []) s = .next t ∧ t = s) ∧
    (s.clocked cl = true → (s.cl cl).starved op = true → ∃ t, exec (.vectorOpComplete cl []) s = .next t
      ∧ t.cl cl = { s.cl cl with vuStarve := (s.cl cl).vuStarve + 1 } ∧ SameBut [.clusters, .ctr] s t) ∧
    (s.clocked cl = true → OnTime s cl → op.rows ≤ op.row → ∃ t, exec (.vectorOpComplete cl []) s = .next t
      ∧ (t.cl cl).vecQ = rest ∧ (t.cl cl).vuOps = (s.cl cl).vuOps + 1 ∧ SameBut issueParts s t))

/-- The unit works through an element operation in plain output mode on one row, from the drain input or from feeder SRAM, with its
operands in feeder SRAM: it writes the row of its results, each the exact value of the operation on the elements' exact values,
rounded once to the output format, and the operation retires; nothing else of memory changes (R127, R152, R214, R217, R218, R220). -/
def Obligations.RowOperationsWriteTheirResults : Prop :=
  ∀ (s : State) (cl : Nat) (op : VecOp) (rest : List VecOp), (s.cl cl).vecQ = op :: rest → s.clocked cl = true → OnTime s cl →
    let w := op.word
    iClass w = 8 → vMode w = 0 → vOp w ≤ 0x18 → op.row = 0 → op.rows = 1 → vecOverlap { op with row := 1 } = false →
    (vSrcA w = drainInput → ∃ r rs, (s.cl cl).drainIn = r :: rs ∧ r.length = 128) →
    (vSrcA w ≠ drainInput → vSrcA w * 64 + rowBytes (vFmtIn w) ≤ feederBytes) →
    vDst w * 64 + rowBytes (vFmtOut w) ≤ feederBytes →
    (vuRowsB (vOp w) = true → vSrcB w * 64 + rowBytes (vFmtIn w) ≤ feederBytes) →
    let at' (line : Nat) := localToModule (s.physDie (clDie cl)) cl (line * 64)
    let imm := elemVal0 fBF16 (vImm w)
    let stored (line : Nat) := (List.range 128).map fun q =>
      unpackElem (fmtWidth (vFmtIn w)) (readBytes s.mem (at' line) (packedBytes (fmtWidth (vFmtIn w)) 128)) q
    let xs := vals (vFmtIn w) (if vSrcA w = drainInput then (s.cl cl).drainIn.headD [] else stored (vSrcA w))
    let ys := vals (vFmtIn w) (stored (vSrcB w))
    let results := if vuRowsB (vOp w) = true then List.zipWith (fun a b => vuTwo (vOp w) a b imm) xs ys else xs.map fun a => vuOne (vOp w) a imm
    ∃ t, exec (.vectorOpComplete cl []) s = .next t ∧ (t.cl cl).vecQ = rest ∧ (t.cl cl).vuOps = (s.cl cl).vuOps + 1
      ∧ SameBut (.mem :: .stats :: issueParts) s t
      ∧ t.mem = writeBytes s.mem (at' (vDst w))
          (packRow (fmtWidth (vFmtOut w)) (results.map fun r => (writeElem (vFmtOut w) (decide (vOp w = 0)) r).code))

/-! ### Instructions of a stream: transfers, limber jobs, bank control (06, 07, 09) -/

/-- A DMA instruction that no check refuses takes its place in its cluster's queue. A transfer of zero extents, and a transfer into a
stash that is suppressed, complete at issue; a limber job that writes nothing is none. A bank control write at the head of the queue
reaches its bank, which takes it up, or, where it asks for what R246 forbids, raises a fault (R152, R156, R157, R171, R172, R202,
R244 to R246, R275). -/
def Obligations.DmaInstructionsTakeTheirPlace : Prop :=
  ∀ (s : State) (cl : Nat) (f : Fetched) (d : Bytes), Issues s cl f → OnTime s cl → iClass f.word = 10 → s.dmaDesc f.word = some d →
    let c := s.cl cl
    let rows := s.dmaRows cl f.word d
    let op (kind : DmaKind) (n : Nat) : DmaOp := { n := c.issueNo, kind := kind, desc := dmaIndex f.word, rows := n, step := f.step, idx := f.idx }
    let queued (o : DmaOp) : Cluster := { c with issueNo := c.issueNo + 1, dmaQ := c.dmaQ ++ [o] }
    (s.namesLimber f.word = false → s.namesControl f.word = false → s.transferCheck cl f = .ok → ∃ t, exec (.dmaTransfer cl []) s = .next t ∧
      if rows = 0 ∨ ddRowBytes d = 0 then
        (ddLocal d = true ∨ ddFlag d = false → Issued s t cl c ∧ SameBut issueParts s t)
          ∧ (ddLocal d = false → ddFlag d = true → c.dmaQ ≠ [] → Issued s t cl (queued (op .transfer rows)) ∧ SameBut issueParts s t)
          ∧ (ddLocal d = false → ddFlag d = true → c.dmaQ = [] → (t.cl cl).dmaQ = [{ op .transfer rows with done := true, transfer := s.net.nextXfer }]
            ∧ t.net.nextXfer = (s.net.nextXfer + 1) % 2 ^ 32 ∧ t.mem = s.mem)
      else if ddLocal d = true ∧ inStash (ddDst d) = true ∧ s.stash.suppressed = some f.step then Issued s t cl c ∧ SameBut issueParts s t
      else if ddLocal d = true ∧ inStash (ddDst d) = true
          ∧ (s.stashDecl (stashBranch (ddDst d))).limit < stashOffset (ddDst d) + rowSpan rows (ddDstPitch d) (ddRowBytes d) then
        t.stash.suppressed = some f.step ∧ t.mem = s.mem
          ∧ ((s.stepRec f.step).ended / 2 % 2 ≠ 1 → Issued s t cl c ∧ SameBut (.stash :: issueParts) s t)
      else if ddLocal d = true ∨ c.dmaQ ≠ [] then Issued s t cl (queued (op .transfer rows)) ∧ SameBut issueParts s t
      else (t.cl cl).dmaQ = [{ op .transfer rows with done := true, transfer := s.net.nextXfer }]
        ∧ t.net.nextXfer = (s.net.nextXfer + 1) % 2 ^ 32 ∧ t.mem = s.mem) ∧
    (s.namesLimber f.word = true → s.limberCheck cl f = .ok → ∃ t, exec (.limberJob cl) s = .next t ∧
      if lbEmpty d rows = true then Issued s t cl c ∧ SameBut (.limbers :: issueParts) s t
        ∧ t.limber (s.physDie (clDie cl)) = { s.limber (s.physDie (clDie cl)) with jobs := (s.limber (s.physDie (clDie cl))).jobs + 1 }
      else Issued s t cl (queued (op .limber rows)) ∧ SameBut issueParts s t) ∧
    (s.namesControl f.word = true → s.bankCheck cl f = .ok → ∃ t, exec (.bankCtrl cl []) s = .next t ∧
      (c.dmaQ ≠ [] → Issued s t cl (queued (op .bank 1)) ∧ SameBut issueParts s t) ∧
      (c.dmaQ = [] → ddSrc d + 64 ≤ hbmEnd → ∀ i, bankBlock (s.physDie (clDie cl)) (ddDst d) = some i →
        let die := s.physDie (clDie cl)
        let v := fieldAt ((List.range 64).map fun k => s.tierByte (ddSrc d + k)) 0 4
        t.mem = s.mem ∧
        if s.bankRefused die i v = true then Faulted t (dieSrc die) 0x3003 ∧ t.safe.latch = true ∧ t.banks = s.banks
        else Issued s t cl { c with issueNo := c.issueNo + 1, dmaQ := [{ op .bank 1 with done := true }] }
          ∧ t.bank die i = (if (s.bank die i).handover.isSome = true
              then { s.bank die i with queued := (s.bank die i).queued ++ [⟨cl, c.issueNo, v⟩] }
              else (s.bank die i).begin ⟨cl, c.issueNo, v⟩)
          ∧ SameBut (.banks :: issueParts) s t))

/-- The local transfer at the head of the queue moves its rows and retires, or, where a read of its source fails its check, is a fault
and moves nothing; a transfer to a peer that has come to the head is sent. A limber queue takes a job while it has room; the running job
writes its outputs and retires. A hand-over gives a bank its new owner; a power transition ends, and a bank that was off is then filled
with zeros. While the ARITH clock is stopped nothing retires (R152, R172, R202, R206, R209, R210, R240, R245, R248, R489). -/
def Obligations.DmaWorkCompletes : Prop :=
  (∀ (s : State) (cl : Nat) (op : DmaOp) (rest : List DmaOp) (d : Bytes), (s.cl cl).dmaQ = op :: rest → op.kind = .transfer → s.desc op.desc = some d →
    (s.clocked cl = false → ∃ t, exec (.dmaComplete cl [] []) s = .next t ∧ t = s) ∧
    (s.clocked cl = true → OnTime s cl → ddLocal d = true → ∃ t, exec (.dmaComplete cl [] []) s = .next t ∧ (t.cl cl).dmaQ = rest
      ∧ t.mem = (s.copyRows cl op.step d op.rows).mem
      ∧ (op.rows = 1 → inStash (ddSrc d) = false → inStash (ddDst d) = false → ddSrc d < hbmEnd → ddDst d < hbmEnd → s.stash.released = none →
          s.cow.pages = [] → t.mem = writeBytes s.mem (ddDst d) (readBytes s.mem (ddSrc d) (ddRowBytes d)))) ∧
    (s.clocked cl = true → ddLocal d = true → ∀ (die code line : Nat) (reads : List LineRead), rereadsUsed 1 (lineOk code line) reads = none →
      ∃ t, exec (.dmaComplete cl [.sram die code line reads] []) s = .next t ∧ Faulted t (dieSrc die) 0x1100 ∧ t.safe.latch = true ∧ t.mem = s.mem) ∧
    (s.clocked cl = true → ddLocal d = false → op.done = false → ∃ t, exec (.dmaComplete cl [] []) s = .next t
      ∧ (t.cl cl).dmaQ = { op with done := true, transfer := s.net.nextXfer } :: rest
      ∧ t.net.nextXfer = (s.net.nextXfer + 1) % 2 ^ 32 ∧ t.mem = s.mem)) ∧
  (∀ (s : State) (cl : Nat) (op : DmaOp) (rest : List DmaOp), (s.cl cl).dmaQ = op :: rest → op.kind = .limber →
    ∃ t, exec (.limberJobAccept cl) s = .next t ∧
    let die := s.physDie (clDie cl)
    if s.clocked cl = true ∧ (s.limber die).queue.length ≤ 64 then
      (t.cl cl).dmaQ = rest ∧ (t.cl cl).limberOps = (s.cl cl).limberOps ++ [(op.n, op.step, op.idx)]
        ∧ (t.limber die).queue = (s.limber die).queue ++ [⟨cl, op.n, op.desc, op.rows, op.step⟩] ∧ SameBut [.clusters, .limbers] s t
    else t = s) ∧
  (∀ (s : State) (die : Nat) (j : LimberJob) (rest : List LimberJob) (d : Bytes), (s.limber die).queue = j :: rest → s.desc j.desc = some d →
    OnTime s j.cluster → ∃ t, exec (.limberJobComplete die [] []) s = .next t ∧
      if s.arithStopped (clDie j.cluster / 6) = true then t = s
      else (t.limber die).queue = rest ∧ (t.limber die).jobs = (s.limber die).jobs + 1
        ∧ t.mem = (limberWork (limberIo j d []) d j.rows s).2.2.mem
        ∧ (t.limber die).products = (s.limber die).products + (limberWork (limberIo j d []) d j.rows s).1
        ∧ (t.cl j.cluster).limberOps = (s.cl j.cluster).limberOps.filter (fun o => o.1 ≠ j.n)) ∧
  (∀ (s : State) (die bank : Nat) (w : BankWrite) (op : DmaOp) (rest : List DmaOp), (s.bank die bank).handover = some w →
    (s.bank die bank).transition = false → s.job.state ≠ .fault → (s.cl w.cluster).dmaQ = op :: rest → op.n = w.n → op.kind = .bank →
    OnTime s w.cluster → ∃ t, exec (.bankHandoverComplete die bank) s = .next t ∧
      if s.arithStopped (clDie w.cluster / 6) = true then t = s
      else (t.cl w.cluster).dmaQ = rest ∧ SameBut (.banks :: issueParts) s t ∧
        let b := { s.bank die bank with owner := ((s.bank die bank).target w.value).2, handover := none }
        t.bank die bank = match b.queued with | [] => b | q :: rest => { b with queued := rest }.begin q) ∧
  (∀ (s : State) (die bank : Nat), (s.bank die bank).transition = true → s.job.state ≠ .fault →
    ∃ t, exec (.bankPowerTransitionDone die bank) s = .next t ∧ SameBut [.banks, .mem] s t
      ∧ t.bank die bank = { s.bank die bank with powerNow := (s.bank die bank).power, transition := false }
      ∧ (∀ a, (s.bank die bank).powerNow = 2 → (bankRange die bank).1 ≤ a → a < (bankRange die bank).1 + (bankRange die bank).2 → readByte t.mem a = 0#8)
      ∧ (∀ a, ((s.bank die bank).powerNow ≠ 2 ∨ a < (bankRange die bank).1 ∨ (bankRange die bank).1 + (bankRange die bank).2 ≤ a) →
          readByte t.mem a = readByte s.mem a))

/-! ### Synchronisation, time, bounds and masks (06, 14) -/

/-- A wait registers with the home of its object, which answers at once whether the target is reached; a wait for a point already
passed blocks nothing. A signal is given once every earlier operation on the queues it names has retired, and a zero increment changes
no object. A bound takes the immediate or derived value, a mask its rectangle; a load of either from memory is in flight until it comes
back. A bound load that fails a check raises the check's fault, and in an early phase makes the module a straggler; a bitmap outside
local memory is a fault (R152, R157 to R159, R167, R174 to R178, R393). -/
def Obligations.SyncTimeAndBoundInstructionsExecute : Prop :=
  ∀ (s : State) (cl : Nat) (f : Fetched), Issues s cl f → OnTime s cl →
    let c := s.cl cl
    let w := f.word
    let id := bitsOf w 122 109
    let loading (mask : Bool) : Cluster := { c with issueNo := c.issueNo + 1, loads := c.loads ++ [⟨c.issueNo, mask, w, f.step, f.idx⟩] }
    let plain (i : Instr) (c' : Cluster) : Prop := ∃ t, exec i s = .next t ∧ Issued s t cl c' ∧ SameBut issueParts s t
    (iClass w = 11 → ∃ t, exec (.syncWait cl) s = .next t ∧ SameBut issueParts s t ∧
      let target := if bitsOf w 108 108 = 1 then bitsOf w 107 76 else (s.syncDecl id).target
      Issued s t cl { c with wait := .sync id target } ∧
      t.sync.waits = s.sync.waits.filter (fun x => x.cluster ≠ cl) ++ [⟨cl, id, target, decide (target ≤ s.syncValue id)⟩]) ∧
    (iClass w = 12 → ∃ t, exec (.syncSignal cl) s = .next t ∧ SameBut issueParts s t ∧ Issued s t cl { c with issueNo := c.issueNo + 1 } ∧
      let g : PendSignal := ⟨c.issueNo, id, bitsOf w 108 105, bitsOf w 104 89, f.step, f.idx⟩
      (t.cl cl).signals = (c.signals ++ [g]).filter (fun g => c.signalReady g = false) ∧
      (c.signals = [] → bitsOf w 104 89 = 0 ∨ c.signalReady g = false ∨ 0x3E00 ≤ id → t.sync = s.sync) ∧
      (c.signals = [] → bitsOf w 104 89 ≠ 0 → c.signalReady g = true → id < 0x3E00 →
        t.sync = { s.sync with transit := s.sync.transit ++ [⟨s.seqSrc cl, id, bitsOf w 104 89, f.step, s.replica (s.seqSrc cl / 512)⟩] })) ∧
    (iClass w = 13 → plain (.beatWait cl)
      (if s.pointOf f.step (signed 32 (bitsOf w 122 91)) (bitsOf w 90 75) ≤ s.planNow then c
       else { c with wait := .beat (signed 32 (bitsOf w 122 91)) (bitsOf w 90 75) })) ∧
    (iClass w = 14 → s.boundCheck cl f = .ok →
      (blForm w = 0 → plain (.boundLoadImmediate cl) (c.setBound (blDst w) (blValue w))) ∧
      (blForm w = 1 → plain (.boundLoadMemory cl none) (loading false)) ∧
      (blForm w = 2 → plain (.boundLoadDerived cl) (c.setBound (blDst w) (min (c.bound (blSrc w) - blValue w) (blCap w))))) ∧
    (iClass w = 14 → ∀ i form, (form, i) ∈ [(0, Instr.boundLoadImmediate cl), (3, .boundLoadImmediate cl), (1, .boundLoadMemory cl none), (2, .boundLoadDerived cl)] →
      blForm w = form →
      (∀ r, s.boundCheck cl f = .field r → ∃ t, exec i s = .next t ∧ Faulted t (s.seqSrc cl) 0x2402 ∧ t.safe.latch = true ∧ t.mem = s.mem) ∧
      (∀ k v m, s.boundCheck cl f = .bound k v m → 2 < f.st.phaseOf f.idx →
        ∃ t, exec i s = .next t ∧ Faulted t (s.seqSrc cl) 0x2401 ∧ t.safe.latch = true ∧ t.mem = s.mem) ∧
      (∀ k v m, s.boundCheck cl f = .bound k v m → f.st.phaseOf f.idx ≤ 2 →
        ∃ t, exec i s = .next t ∧ (t.stepRec f.step).straggles = true ∧ t.mem = s.mem ∧ t.safe = s.safe)) ∧
    (iClass w = 15 → bitsOf w 120 120 = 0 → plain (.maskRectangle cl)
      (c.setMask (bitsOf w 122 121) (rangeBits (bitsOf w 119 112) (bitsOf w 111 104)) (rangeBits (bitsOf w 103 96) (bitsOf w 95 88)))) ∧
    (iClass w = 15 → bitsOf w 120 120 = 1 → if localOk (bitsOf w 87 68 * 64) 64 = true then plain (.maskBitmap cl none) (loading true)
      else ∃ t, exec (.maskBitmap cl none) s = .next t ∧ Faulted t (s.seqSrc cl) 0x2402 ∧ t.safe.latch = true ∧ t.mem = s.mem)

/-- A wait ends once its home has found it satisfied, or its point in the step is reached; until then it blocks. A load of a bound or
mask register writes what it read, or, where the read fails its check, is a fault and writes nothing. A signal that reaches
its home, in the order sent, is added to an object that the plan declares; an object that resets at each step start takes a signal of
its home's present step once the job's first step has begun, holds one of a later step while fewer than 256 are held, and drops one of
an earlier step as late. A sum above the largest 32-bit value stays there (R53, R152, R167, R174 to R177, R240, R373, R390, R391,
R393). -/
def Obligations.WaitsEndAndSignalsArrive : Prop :=
  (∀ (s : State) (cl id target : Nat), (s.cl cl).wait = .sync id target → OnTime s cl → ∃ t, exec (.syncWaitSatisfied cl) s = .next t ∧
    if (∃ x ∈ s.sync.waits, x.cluster = cl ∧ x.satisfied = true) ∧ s.clocked cl = true then
      (t.cl cl).wait = .none ∧ t.sync.waits = s.sync.waits.filter (fun x => x.cluster ≠ cl) ∧ SameBut issueParts s t
    else t = s) ∧
  (∀ (s : State) (cl : Nat) (offset : Int) (sub : Nat), (s.cl cl).wait = .beat offset sub → OnTime s cl → ∃ t, exec (.beatWaitReached cl) s = .next t ∧
    if ((s.stepBegin (s.clStep cl) : Int) + offset) * 65536 + sub ≤ s.planNow ∧ s.clocked cl = true then
      (t.cl cl).wait = .none ∧ SameBut issueParts s t
    else t = s) ∧
  (∀ (s : State) (cl : Nat) (mask : Bool) (l : RegLoad), (s.cl cl).nextLoad mask = some l → OnTime s cl →
    let back (checks : List MemCheck) : Instr := if mask then .maskBitmap cl (some checks) else .boundLoadMemory cl (some checks)
    let addr := if mask then bitsOf l.word 87 68 * 64 else blValue l.word % 2 ^ 26
    let n := if mask then 64 else 4
    (∃ t, exec (back []) s = .next t ∧
      if s.clocked cl = true then
        let bs := (s.localRead cl addr n l.step).1
        let c := { s.cl cl with loads := (s.cl cl).loads.filter fun x => x.n ≠ l.n }
        (t.cl cl).work = (if mask then c.setMask (bitsOf l.word 122 121) (fieldAt bs 0 16) (fieldAt bs 16 16) else c.setBound (blDst l.word) (leNat bs)).work
          ∧ (addr + n ≤ feederBytes → bs = readBytes s.mem (localToModule (s.physDie (clDie cl)) cl addr) n)
          ∧ (∀ m, m ≠ cl → t.cl m = s.cl m) ∧ t.mem = s.mem
      else t = s) ∧
    (s.clocked cl = true → ∀ (die code line : Nat) (reads : List LineRead), rereadsUsed 1 (lineOk code line) reads = none →
      ∃ t, exec (back [.sram die code line reads]) s = .next t ∧ Faulted t (dieSrc die) 0x1100 ∧ t.safe.latch = true ∧ t.mem = s.mem)) ∧
  (∀ (s : State) (n : Nat) (g : Signal), s.sync.transit[n]? = some g → g.id < 0x3E00 → s.inOrder n g = true → ∃ t, exec (.syncSignalArrival n) s = .next t ∧
    SameBut [.log, .sync, .host, .ctr, .out] s t ∧
    let gone := t.sync.transit = s.sync.transit.eraseIdx n
    let added := gone ∧ t.sync.held = s.sync.held ∧ t.syncValue g.id = min (s.syncValue g.id + g.inc) 0xFFFFFFFF
      ∧ (∀ j, j ≠ g.id → t.syncValue j = s.syncValue j)
      ∧ t.sync.waits = s.sync.waits.map (fun x => if x.id = g.id ∧ x.target ≤ t.syncValue g.id then { x with satisfied := true } else x)
      ∧ (2 ^ 32 ≤ s.syncValue g.id + g.inc → t.count kSyncSaturations = s.count kSyncSaturations + 1)
    let held := if (s.sync.held.filter (fun h => s.syncHome h.id = s.syncHome g.id)).length < 256
      then gone ∧ t.sync.held = s.sync.held ++ [g] ∧ t.sync.values = s.sync.values else t = s
    let late := gone ∧ t.sync.held = s.sync.held ∧ t.sync.values = s.sync.values ∧ t.count kSyncLate = s.count kSyncLate + 1
    if s.declared g.id = false then gone ∧ t.sync.held = s.sync.held ∧ t.sync.values = s.sync.values ∧ t.sync.waits = s.sync.waits
    else if (s.syncDecl g.id).resets = false then added
    else if s.job.state = .loaded then held
    else if g.step % 2 ^ 32 = s.homeStep then (if s.job.begun ≠ none then added else late)
    else if serialLater s.homeStep g.step = true then held
    else late) ∧
  (∀ (s : State) (n : Nat), (∀ g, s.sync.transit[n]? = some g → s.inOrder n g = false) → ∃ t, exec (.syncSignalArrival n) s = .next t ∧ t = s)

/-! ### The bulk plane (15, 16) -/

/-- An `OPEN` is answered: with the code that refuses it, and then nothing opens, or with a new flow and its window. A closed flow is
no more: after the host's `CLOSE`, a refusal, the `CLOSE_ACK` of an outbound flow, or 30 s of silence. An upload whose blocks have all
come is kept, or refused where flash fails; missing blocks are named in a `NAK`. A complete checkpoint stream is counted, and the one
behind it waits; one for which no flow opens in 30 s is skipped (R417 to R422, R448, R512, R526). -/
def Obligations.FlowsOpenAndClose : Prop :=
  (∀ (s : State) (addr : Bytes) (session channel sub : Nat), ∃ t, exec (.bulkOpen addr session channel sub) s = .next t ∧
    if s.deaf = true then SameBut [.ctr] s t ∧ t.count kFramesRx = s.count kFramesRx + 1
    else SameBut [.start, .host, .snap, .ctr, .out] s t ∧ t.host.sessions = s.host.sessions ∧
      (s.start.stump = none → subOk channel sub = true → channel ≠ 3 → channel ≠ 5 → channel ≠ 15 → s.session addr session = none →
        s.openCheck addr session channel sub = abNoSession) ∧
      (if s.openCheck addr session channel sub ≠ 0 then t.host = s.host ∧ t.snap = s.snap
        ∧ t.out = s.out ++ [.bulk 0 2 channel 0 0 (u32 (s.openCheck addr session channel sub))]
      else ∃ f, t.host.flows = s.host.flows ++ [f] ∧ f.id = s.host.nextFlow ∧ f.channel = channel
        ∧ f.sub = sub ∧ f.addr = addr ∧ f.outbound = isOutbound channel sub ∧ f.next = 0 ∧ f.held = []
        ∧ (f.outbound = true → f.window = 0) ∧ (f.outbound = false → channel ≠ 0 → f.window = 4096)
        ∧ t.out = s.out ++ [.bulk f.id 2 channel 0 f.window (u32 0)])) ∧
  (∀ (s : State) (id : Nat) (f : Flow), s.flow id = some f →
    (∀ code, ∃ t, exec (.bulkOpenAck id code) s = .next t ∧
      if code = 0 then t.flow id = some { f with lastRx := s.time.cycles } ∧ SameBut [.host, .ctr] s t else t.flow id = none) ∧
    (∀ blocks flash, f.outbound = true → ∃ t, exec (.bulkClose id blocks flash) s = .next t ∧ t.flow id = none
      ∧ t.out.getLast? = some (.bulk id 6 f.channel 0 0 (u32 0))) ∧
    (∀ blocks flash, f.outbound = false → f.channel = 1 → blocks ≤ f.next →
      ∃ t, exec (.bulkClose id blocks flash) s = .next t ∧ t.flow id = none ∧
        if flash.ok = true then sget [] t.host.library f.sub = f.data ∧ t.out.getLast? = some (.bulk f.id 6 1 0 0 (u32 0))
        else t.out.getLast? = some (.bulk f.id 6 1 0 0 (u32 abStoreFault))) ∧
    (∀ blocks flash, f.outbound = false → f.held = [] → f.seen ≤ f.next → f.next < blocks →
      ∃ t, exec (.bulkClose id blocks flash) s = .next t ∧ SameBut [.host, .ctr, .out] s t
        ∧ t.flow id = some { f with lastRx := s.time.cycles, count := some blocks, seen := blocks } ∧ t.count kBulkNaks = s.count kBulkNaks + 1
        ∧ t.out = s.out ++ [.bulk f.id 4 f.channel 0 0 ((((List.range (blocks - f.next)).map (f.next + ·)).take 1024).flatMap u64)]) ∧
    (∀ code, ∃ t, exec (.bulkCloseAck id code) s = .next t ∧
      if f.outbound = false ∨ f.count = none then SameBut [.ctr] s t
      else t.flow id = none ∧
        (∀ c, s.snap.checkpoint = some c → c.flow = some id → code = 0 → t.count kCheckpointsSent = s.count kCheckpointsSent + 1
          ∧ ((∀ n, s.snap.nextCheckpoint = some n → n.flow = none) → t.snap.checkpoint = s.snap.nextCheckpoint))) ∧
    (∃ t, exec (.bulkFlowTimeout id) s = .next t ∧
      if s.time.cycles < f.lastRx + 30 * secCycles then t = s else t.flow id = none)) ∧
  (∀ (s : State), s.start.wardenHeld = false → ∃ t, exec .checkpointSkipped s = .next t ∧
    if s.waitedOut s.snap.checkpoint = true ∨ s.waitedOut s.snap.nextCheckpoint = true then
      t.snap.nextCheckpoint = none ∧ Raised t wardenSrc 0x3305 ∧ SameBut [.snap, .log, .host, .ctr, .out] s t
        ∧ t.snap.checkpoint = (if s.waitedOut s.snap.checkpoint = true then (if s.waitedOut s.snap.nextCheckpoint = true then none else s.snap.nextCheckpoint) else s.snap.checkpoint)
    else t = s)

/-- A block whose check fails is named in a `NAK`, and the 16th failure in succession closes its flow; a block in order is appended, and
every 32nd is acknowledged; one that was taken, or lies beyond the window, is not taken. 50 µs after the last block comes an `ACK`. An
`ACK` of the host frees the blocks before its number and moves the window on; a `NAK`, and 5 ms without an `ACK`, send held blocks
again (R405, R417, R419 to R422, R467). -/
def Obligations.BlocksAreCarried : Prop :=
  ∀ (s : State) (id : Nat) (f : Flow), s.flow id = some f →
    (f.outbound = false → ∀ block body crc flash, ∃ t, exec (.bulkData id block body crc flash) s = .next t ∧
      if crc ≠ obCrc 0 f.channel id block 0 0 body then
        if sget 0 f.fails block < 15 then SameBut [.host, .ctr, .out] s t ∧ t.out = s.out ++ [.bulk f.id 4 f.channel 0 0 (u64 block)]
          ∧ t.flow id = some { f with fails := sset 0 f.fails block (sget 0 f.fails block + 1) } ∧ t.host.crcDiscard = true
        else t.flow id = none ∧ t.count kBulkCrcLimits = s.count kBulkCrcLimits + 1
      else if block < f.next ∨ f.window ≤ block ∨ 8192 < body.length ∨ (∃ h ∈ f.held, h.1 = block) then
        t.out = s.out ∧ SameBut [.host, .ctr] s t ∧ t.flow id = some { f with lastRx := s.time.cycles }
      else (f.channel = 1 → block = f.next → f.held = [] → f.seen = f.next → f.count = none →
        s.libraryUsed f.sub + (s.formatsNow f.sub).length * (f.data.length + body.length) ≤ libraryBytes →
        ∃ g, t.flow id = some g ∧ g.data = f.data ++ body ∧ g.next = f.next + 1 ∧ g.held = [] ∧ SameBut [.host, .ctr, .out] s t ∧
          (f.sinceAck < 31 → g.sinceAck = f.sinceAck + 1 ∧ t.out = s.out) ∧
          (31 ≤ f.sinceAck → g.sinceAck = 0 ∧ g.window = f.next + 4097 ∧ t.out = s.out ++ [.bulk f.id 3 1 (f.next + 1) 4096 []]))) ∧
    (∃ t, exec (.ackTimer id) s = .next t ∧
      if f.outbound = true ∨ f.sinceAck = 0 ∨ s.time.cycles < f.lastBlock + 20000 then t = s
      else SameBut [.host, .ctr, .out] s t ∧ t.out = s.out ++ [.bulk f.id 3 f.channel f.next (s.grant f) []]
        ∧ t.flow id = some { f with window := f.next + s.grant f, sinceAck := 0, lastAck := s.time.cycles }) ∧
    (∀ block window, f.channel ≠ 15 → (∀ c, s.snap.checkpoint = some c → c.flow ≠ some id) →
      ∃ t, exec (.bulkAck id block window []) s = .next t ∧ t.out = s.out ∧ SameBut [.host, .ctr] s t ∧
      t.flow id = some (if f.outbound = true then { f with lastRx := s.time.cycles, lastAck := s.time.cycles, held := f.held.filter (fun b => decide (block ≤ b.1)), window := block + window }
        else { f with lastRx := s.time.cycles })) ∧
    (∀ blocks, ∃ t, exec (.bulkNak id blocks) s = .next t ∧ SameBut [.host, .ctr, .out] s t ∧ t.flow id = some { f with lastRx := s.time.cycles } ∧
      let again := if f.outbound = true then f.held.filter (fun b => blocks.contains b.1) else []
      t.out = s.out ++ again.map (fun b => .bulk f.id 0 f.channel b.1 0 b.2) ∧ t.count kBulkResends = s.count kBulkResends + again.length) ∧
    (∃ t, exec (.resendTimer id) s = .next t ∧
      if f.outbound = false ∨ s.time.cycles < f.lastAck + 5 * msCycles then t = s
      else SameBut [.host, .ctr, .out] s t ∧ t.flow id = some { f with lastAck := s.time.cycles }
        ∧ t.out = s.out ++ (f.held.take 1).map (fun b => .bulk f.id 0 f.channel b.1 0 b.2))

/-! ### Links and messages (14) -/

/-- A frame in order is taken, answered with the credit it returns, and its message, when whole, waits for its command; a frame that
fails its CRC, or out of order, is named in a `NAK`, once, and the fourth in a row retrains the port. A `NAK` has everything from its
number on sent again; the fourth in a row retrains the port, and again after that is a fault. Every frame acknowledges, and an idle frame
returns credit. A link control frame tells who the far end is, is answered by a port that enters training, and one of another epoch holds
the port. A port that comes up sends again what was not acknowledged; one that goes down is reported after 1 ms, as a fault where the
running job uses it. A flit is replayed four times, then its module retrains once, then it is a fault; a module of a spine link counts on
both its dies (R46, R370, R372, R376 to R381, R398, R453). -/
def Obligations.LinksCarryFrames : Prop :=
  let nak (n ack : Nat) : Output := .frame n (sealFrame { kind := 3, cls := 0, first := false, last := false, seq := 0, ack := ack, creditClass := 0, credits := 0, payload := List.replicate 256 0#8, fcrc := 0 })
  let naked (n : Nat) (p : SkidPort) (s t : State) : Prop :=
    (p.rxNakRun < 3 ∨ p.state ≠ .up → SameBut [.skid, .out] s t ∧ t.out = s.out ++ [nak n p.rxSeq] ∧ t.port n = { p with nakSent := true, rxNakRun := p.rxNakRun + 1 }) ∧
    (3 ≤ p.rxNakRun → p.state = .up → p.rxNakRetrained = false → s.start.wardenHeld = false → (t.port n).state = .retraining ∧ (t.port n).rxNakRetrained = true
      ∧ t.count kSkidRetrains = s.count kSkidRetrains + 1 ∧ Raised t (spineSrc n) 0x6201) ∧
    (3 ≤ p.rxNakRun → p.state = .up → p.rxNakRetrained = true → Faulted t (spineSrc n) 0x1104 ∧ t.safe.latch = true ∧ t.mem = s.mem)
  (∀ (s : State) (n : Nat) (f : SkidFrame) (wait : Nat),
    let p := s.port n
    ∃ t, exec (.skidDataFrame n f wait) s = .next t ∧
      if p.state ≠ .up then t = s
      else if crcOk f = false then naked n { p with crcMismatch := true } s t
      else if f.seq ≠ p.rxSeq then (if p.rxNakRun = 0 then naked n p s t else t = s)
      else f.cls < 3 → p.backlog = 0 → wait ≤ 4000 →
        let bytes := (if f.first = true then [] else sget [] p.partialMsg f.cls) ++ f.payload
        let m := parseMsg n bytes
        let q : SkidPort := { (p.ackTo f.ack).credit f.creditClass f.credits with rxSeq := (p.rxSeq + 1) % 4096, framesRx := p.framesRx + 1, rxNakRun := 0, rxNakRetrained := false, partialMsg := sset [] p.partialMsg f.cls (if f.last = true then [] else bytes) }
        (f.last = false → t.port n = q ∧ SameBut [.skid, .net, .out] s t ∧ t.net.inbox = s.net.inbox ∧ t.out = s.out ++ [.frame n (sealFrame { kind := 0, cls := 0, first := false, last := false, seq := 0, ack := (p.rxSeq + 1) % 4096, creditClass := f.cls, credits := 1, payload := List.replicate 256 0#8, fcrc := 0 })]) ∧
        (f.last = true → m.kind = 0 ∨ 16 ≤ m.kind ∨ 15 < m.hops → t.port n = q ∧ t.net.inbox = s.net.inbox ∧ t.count kSkidDiscards = s.count kSkidDiscards + 1) ∧
        (f.last = true → 0 < m.kind → m.kind < 16 → m.hops ≤ 15 → s.job.plan ≠ none → m.kind = 3 ∨ m.kind = 9 ∨ m.dst = s.self →
          t.port n = q ∧ t.net.inbox = s.net.inbox ++ [m] ∧ SameBut [.skid, .net, .out] s t)) ∧
  (∀ (s : State) (n : Nat) (f : SkidFrame),
    let p := s.port n
    (∃ t, exec (.idleFrame n f) s = .next t ∧
      if p.state ≠ .up then t = s
      else if crcOk f = false then t.port n = { p with crcMismatch := true } ∧ SameBut [.skid] s t
      else p.backlog = 0 → t.port n = (p.ackTo f.ack).credit f.creditClass f.credits ∧ SameBut [.skid] s t) ∧
    (∃ t, exec (.skidNak n f) s = .next t ∧
      if p.state ≠ .up then t = s
      else if crcOk f = false then t.port n = { p with crcMismatch := true } ∧ SameBut [.skid] s t
      else
      let again : Bool := decide (p.nakRun ≠ 0 ∧ p.nakSeq = f.ack)
      (again = false ∨ p.nakRun < 3 → SameBut [.skid, .snap, .ctr, .out] s t
        ∧ t.out = s.out ++ (p.ackTo f.ack).replay.map (fun g => .frame n (sealFrame { g with ack := p.rxSeq }))
        ∧ (t.port n).replay = (p.ackTo f.ack).replay ∧ (t.port n).nakRun = (if again = true then p.nakRun + 1 else 1)
        ∧ (t.port n).resends = p.resends + (p.ackTo f.ack).replay.length) ∧
      (again = true → 3 ≤ p.nakRun → p.nakRetrained = false → s.start.wardenHeld = false → (t.port n).state = .retraining
        ∧ (t.port n).nakRetrained = true ∧ t.count kSkidRetrains = s.count kSkidRetrains + 1 ∧ Raised t (spineSrc n) 0x6201) ∧
      (again = true → 3 ≤ p.nakRun → p.nakRetrained = true → Faulted t (spineSrc n) 0x1104 ∧ t.safe.latch = true ∧ t.mem = s.mem))) ∧
  (∀ (s : State) (n : Nat) (f : SkidFrame) (part stepping far epoch : Nat) (serial : Bytes) (delay : Int),
    let p := s.port n
    ∃ t, exec (.linkControlFrame n f part stepping far epoch serial delay) s = .next t ∧
      if crcOk f = false then naked n { p with crcMismatch := true } s t
      else if f.seq ≠ p.rxSeq then (if p.rxNakRun = 0 then naked n p s t else t = s)
      else
      let q := t.port n
      let enters := p.state = .down ∨ p.state = .epochHeld
      SameBut [.skid, .log, .host, .ctr, .out] s t ∧ q.farPart = part ∧ q.farStepping = stepping ∧ q.farPort = far ∧ q.farEpoch = epoch
        ∧ q.farSerial = serial ∧ q.delay = delay ∧ q.rxSeq = (p.rxSeq + 1) % 4096 ∧ q.framesRx = p.framesRx + 1 ∧
      (epoch = s.beatEpoch → q.state = (if enters then .training else p.state)) ∧
      (epoch ≠ s.beatEpoch → q.state = .epochHeld ∧ (s.start.wardenHeld = false → Raised t (spineSrc n) 0x6105)) ∧
      let g := sealFrame { kind := 4, cls := 0, first := false, last := false, seq := p.txSeq, ack := (p.rxSeq + 1) % 4096, creditClass := 0, credits := 0, payload := padTo 256 (Config.linkControl (s.controlFields n)), fcrc := 0 }
      (enters → Output.frame n g ∈ t.out ∧ q.replay = (p.ackTo f.ack).replay ++ [g] ∧ q.txSeq = (p.txSeq + 1) % 4096) ∧
      (¬ enters → q.replay = (p.ackTo f.ack).replay ∧ q.txSeq = p.txSeq ∧ (epoch = s.beatEpoch → t.out = s.out))) ∧
  (∀ (s : State) (n : Nat), ∃ t, exec (.skidLinkUp n) s = .next t ∧
    if (s.port n).state = .training ∨ (s.port n).state = .retraining then (t.port n).state = .up ∧ t.mem = s.mem ∧ t.job = s.job
      ∧ ∀ g ∈ (s.port n).replay, Output.frame n (sealFrame { g with ack := (s.port n).rxSeq }) ∈ t.out
    else t = s) ∧
  (∀ (s : State) (n : Nat), ∃ t, exec (.skidPortDown n) s = .next t ∧
    if (s.port n).state = .up ∨ (s.port n).state = .retraining then SameBut [.skid] s t
      ∧ t.port n = { s.port n with state := .down, farKnown := false, downSince := s.time.cycles, downRaised := false }
    else t = s) ∧
  (∀ (s : State) (n : Nat), s.start.wardenHeld = false → ∃ t, exec (.skidLinkDown n) s = .next t ∧
      if (s.port n).state = .up ∨ (s.port n).state = .retraining ∨ (s.port n).downRaised = true ∨ s.time.cycles ≤ (s.port n).downSince + msCycles then t = s
      else if (s.peer n).used = true ∧ (s.job.state = .armed ∨ s.job.state = .running ∨ s.job.state = .paused)
      then Faulted t (spineSrc n) 0x6202 ∧ t.safe.latch = true ∧ t.mem = s.mem
      else Raised t (spineSrc n) 0x6202 ∧ (t.port n).downRaised = true ∧ t.safe = s.safe ∧ t.job = s.job ∧ t.mem = s.mem) ∧
  (∀ (s : State) (die module : Nat) (again : Bool), ∃ t, exec (.flitReplay die module again) s = .next t ∧
    if spineFar die module = none then t = s else
    let x := s.spineDie die
    let run := if again = true then sget 0 x.run module + 1 else 0
    let ends := (die, module) :: (spineTwin die module).toList
    (run < 4 → SameBut [.spine, .snap, .ctr] s t ∧ t.count kSpineReplays = s.count kSpineReplays + 1 ∧
      ∀ e ∈ ends, (t.spineDie e.1).replays = (s.spineDie e.1).replays + 1 ∧ (t.spineDie e.1).replaySeen = true
        ∧ sget 0 (t.spineDie e.1).run e.2 = (if again = true then sget 0 (s.spineDie e.1).run e.2 + 1 else 0)
        ∧ (t.spineDie e.1).retraining = (s.spineDie e.1).retraining) ∧
    (4 ≤ run → sget false x.afterRetrain module = false → s.start.wardenHeld = false →
      t.count kSpineRetrains = s.count kSpineRetrains + 1 ∧ Raised t (spineDieSrc die) 0x6204 ∧ t.safe = s.safe ∧
      ∀ e ∈ ends, sget false (t.spineDie e.1).retraining e.2 = true ∧ sget false (t.spineDie e.1).afterRetrain e.2 = true) ∧
    (4 ≤ run → sget false x.afterRetrain module = true → Faulted t (spineDieSrc die) 0x1103 ∧ t.safe.latch = true ∧ t.mem = s.mem)) ∧
  (∀ (s : State) (die module : Nat) (ok : Bool), ∃ t, exec (.spineRetrainDone die module ok) s = .next t ∧
    if spineFar die module = none ∨ sget false (s.spineDie die).retraining module = false then t = s
    else if ok = true then SameBut [.spine] s t ∧ ∀ e ∈ (die, module) :: (spineTwin die module).toList, sget false (t.spineDie e.1).retraining e.2 = false
    else Faulted t (spineDieSrc die) 0x1103 ∧ t.safe.latch = true ∧ t.mem = s.mem)

/-- A transfer of a peer is written where this module's map takes it, and is a fault of its sender elsewhere; the last part of it is
acknowledged, and signals. A relayed signal reaches an object that the plan declares. A command of a peer is kept and acknowledged. An
end-to-end acknowledgement retires the transfer it names, or ends the wait for a gradient row. A link record tells who the far end is, and is
reported where it is not the planned one. A fault notice puts the module into the fault state; a new list of routes is kept and passed on (R53,
R380, R383 to R385, R388, R391, R392). -/
def Obligations.MessagesHaveTheirEffect : Prop :=
  let sent (s t : State) (kind dst arg : Nat) : Prop := ∀ n, routePort s.net.graph s.self s.self dst = some n →
    ∃ a : Msg, Output.message a ∈ t.out ∧ a.kind = kind ∧ a.dst = dst ∧ a.arg = arg ∧ a.port = n
  ∀ (s : State) (m : Msg),
    (∃ t, exec (.dmaWrite m [] []) s = .next t ∧
      let got := (match s.net.inbound.find? (fun x => decide (x.origin = m.origin ∧ x.xfer = m.xfer)) with | some x => x.got | none => 0) + m.body.length
      if s.job.state = .fault then t = s.took m
      else if m.body ≠ [] ∧ s.decodes m.arg m.body.length = false then Faulted t m.source 0x2402 ∧ t.safe.latch = true ∧ t.mem = s.mem
      else cxlBase ≤ m.arg → m.arg < stashBase → s.stash.released = none →
        t.mem = writeBytes s.mem m.arg m.body ∧
        if got < m.total then SameBut [.mem, .net] s t
          ∧ t.net.inbound = s.net.inbound.filter (fun x => !decide (x.origin = m.origin ∧ x.xfer = m.xfer)) ++ [⟨m.origin, m.xfer, got⟩]
        else sent s t 8 m.origin (m.kind * 2 ^ 56 + (if m.kind = 1 then m.xfer else m.seq) % 2 ^ 32) ∧
          (m.sync = 0xFFFF → t.sync = s.sync) ∧
          (m.sync < 0x3E00 → t.sync.transit = s.sync.transit ++ [⟨m.source, m.sync, 1, s.homeStep, s.replica (m.source / 512)⟩])) ∧
    (let id := 0x3C00 + 32 * m.port + m.arg % 32;
      id < 0x3E00 → ∃ t, exec (.relayedSyncSignal m) s = .next t ∧
        if s.declared id = false then t = s.took m
        else (s.syncDecl id).resets = false → s.syncValue id + bitsOf m.arg 31 16 < 2 ^ 32 →
          t.syncValue id = s.syncValue id + bitsOf m.arg 31 16 ∧ t.sync.transit = s.sync.transit ∧ t.sync.held = s.sync.held
            ∧ SameBut [.net, .sync] s t) ∧
    (∃ t, exec (.command m) s = .next t ∧ sget [] t.job.peerCmds m.origin
        = sget [] s.job.peerCmds m.origin ++ [⟨fieldAt m.body 0 1, fieldAt m.body 8 8, m.arg, slice m.body 16 64⟩]
      ∧ t.job.state = s.job.state ∧ SameBut [.log, .job, .skid, .net, .out] s t
      ∧ sent s t 8 m.origin (m.kind * 2 ^ 56 + (if m.kind = 1 then m.xfer else m.seq) % 2 ^ 32)) ∧
    (∃ t, exec (.e2eAck m) s = .next t ∧
      (m.arg / 2 ^ 56 = 1 → ∀ cl op rest, s.sender (m.arg % 2 ^ 32) = some cl → (s.cl cl).dmaQ = op :: rest → OnTime s cl → (t.cl cl).dmaQ = rest ∧ t.mem = s.mem) ∧
      (m.arg / 2 ^ 56 = 1 → s.sender (m.arg % 2 ^ 32) = none → t = s.took m) ∧
      (m.arg / 2 ^ 56 = 2 → if (s.rowAcked (m.arg % 2 ^ 32)).rowsAcked = true then t.upd.toWithdraw = [] ∧ t.mem = s.mem
        else t = { s.took m with skid := (s.rowAcked (m.arg % 2 ^ 32)).skid })) ∧
    (∃ t, exec (.linkRecord m) s = .next t ∧ t.port m.port = { s.port m.port with farKnown := true, farModule := fieldAt m.body 0 2, farJob := fieldAt m.body 2 8, farDigest := slice m.body 10 64 } ∧
      ((s.peer m.port).used = true → fieldAt m.body 0 2 ≠ (s.peer m.port).module → s.start.wardenHeld = false → Raised t (spineSrc m.port) 0x6203) ∧
      ((s.peer m.port).used = false → SameBut [.net, .skid] s t)) ∧
    (∃ t, exec (.faultNotice m) s = .next t ∧
      if s.job.plan = none then t = s.took m
      else if s.job.state = .fault then t.count kFaultCount = s.count kFaultCount + 1 ∧ SameBut [.net, .ctr] s t
      else Faulted t wardenSrc 0x6305 ∧ t.safe.latch = true ∧ (s.safe.latch = false → t.job.state = .fault) ∧ t.mem = s.mem) ∧
    (∀ port module ports, ∃ t, exec (.routeFlood port module ports) s = .next t ∧
      if (s.job.state ≠ .armed ∧ s.job.state ≠ .loaded) ∨ module = s.self ∨ (module, ports) ∈ s.net.graph then t = s
      else t.net.graph = (module, ports) :: s.net.graph.filter (fun e => decide (e.1 ≠ module))
        ∧ (∀ n, n ∈ s.usedPorts → n ≠ port → Output.flood n module ports ∈ t.out) ∧ t.job = s.job ∧ t.mem = s.mem)

/-! ### Sample ingest (12) -/

/-- The queued sample of lowest step, then earliest arrival, starts on a free context of its class once its step is near enough. A turn
of at most 131,072 cycles, in its engine's round, charges its cycles; a sample above its budget gets no further and is dropped. A decode
that ends drops the sample for the first reason that holds of the payload, or converts it; the output takes pool space, and, complete,
frees its context and takes its place in an open row. The load of a stand is reported once in 64 beats (R303, R305, R311 to R318, R321,
R323, R328, R331). -/
def Obligations.SamplesAreDecoded : Prop :=
  (∀ (s : State) (st cls : Nat) (e : Sample), e ∈ (s.stand st).samples → e.state = .queued → smClass e.header = cls →
    (∀ x ∈ (s.stand st).samples, x.state = .queued → smClass x.header = cls →
      smStep e.header < smStep x.header ∨ (smStep e.header = smStep x.header ∧ e.arrival ≤ x.arrival)) →
    let busy := (s.stand st).samples.filterMap (fun x => x.ctx)
    ∃ t, exec (.decodeStart st cls) s = .next t ∧ SameBut [.ingest] s t ∧
      (s.mayDecode e = false → t = s) ∧
      (s.mayDecode e = true → cls = 3 → (t.stand st).samples = (s.stand st).samples.map (fun x => if x.arrival = e.arrival then { x with state := .decoding } else x)) ∧
      (s.mayDecode e = true → cls < 3 → ∀ n, n < classContexts cls → 64 * cls + n ∉ busy → 64 * cls + n ∉ (s.stand st).freed →
        ∃ c, c / 64 = cls ∧ c ∉ busy ∧ (t.stand st).samples = (s.stand st).samples.map (fun x => if x.arrival = e.arrival then { x with state := .decoding, ctx := some c } else x))) ∧
  (∀ (s : State) (st arrival cycles : Nat) (ends : Bool) (e : Sample) (d : Bytes), (s.stand st).sample arrival = some e →
    s.streamDesc (smStream e.header) = some d → st < 8 → s.ingestFlow st = none → (∀ x ∈ (s.stand st).samples, x.state ≠ .waitPool) →
    ∃ t, exec (.decodeTurn st arrival cycles ends []) s = .next t ∧
      if e.state ≠ .decoding ∨ 131072 < cycles ∨ (∃ c, e.ctx = some c ∧ (s.stand st).inTurn c = false) then t = s
      else
      let charged : Sample := { e with charged := e.charged + cycles }
      let gone (r : Nat) : Prop := (t.stand st).sample arrival = none ∧ t.count (kDrop r) = s.count (kDrop r) + 1
      t.mem = s.mem ∧ t.count (kBkCycles st) = s.count (kBkCycles st) + cycles ∧
      (s.budget d < e.charged + cycles ∨ ends = false → SameBut [.ingest, .ctr] s t ∧ (t.stand st).sample arrival = some charged
        ∧ ∀ c, e.ctx = some c → sget 0 (t.stand st).turns (c / 8) = c + 1) ∧
      (e.charged + cycles ≤ s.budget d → ends = true →
        (∀ r, dropReason d e = some r → gone r) ∧
        (dropReason d e = none → endsEarly e = true → s.active 0x5000 4 0 ≠ 1 → gone 6) ∧
        (dropReason d e = none → endsEarly e = false ∨ s.active 0x5000 4 0 = 1 →
          let x := s.converted d e
          (s.claimOutput d e.header < x.2.1.sum * rwPos (s.rowGeom d) → gone 9) ∧
          (x.2.1.sum * rwPos (s.rowGeom d) ≤ s.claimOutput d e.header → x.2.2 = 0 → s.stemGeom d = none →
            (∀ y ∈ (s.stand st).samples, y.arrival = arrival → y = e) → x.1.length ≤ s.poolFree st →
            (t.stand st).sample arrival = some { charged with state := .ready, output := x.1, segments := x.2.1, truncated := endsEarly e })) ∧
        (smFormat e.header = 9 → bjForm d ≠ 1 → bjForm d ≠ 2 → s.converted d e = (e.payload, [claimPositions d e.header], 0)))) ∧
  (∀ (s : State) (st arrival : Nat) (e : Sample), (s.stand st).sample arrival = some e → st < 8 → s.ingestFlow st = none →
    (∀ x ∈ (s.stand st).samples, x.state ≠ .waitPool) →
    (∃ t, exec (.decodeBudgetExceeded st arrival) s = .next t ∧
      if e.state = .decoding ∧ s.overBudget e = true then (t.stand st).sample arrival = none ∧ t.count (kDrop 11) = s.count (kDrop 11) + 1 ∧ t.mem = s.mem
      else t = s) ∧
    (∃ t, exec (.outputComplete st arrival []) s = .next t ∧ t.mem = s.mem ∧
      (e.state ≠ .ready → t = s) ∧
      (e.state = .ready → 0 ∈ e.segments → (t.stand st).sample arrival = none ∧ t.count (kDrop 10) = s.count (kDrop 10) + 1) ∧
      (e.state = .ready → 0 ∉ e.segments → e.step ∉ s.ingest.admitting ∨ (∀ d, s.streamDesc (smStream e.header) = some d → s.guardAt e.step (s.rowGeom d) ≤ s.planNow) → SameBut [.ingest] s t ∧ (t.stand st).rows = (s.stand st).rows
        ∧ (t.stand st).sample arrival = some { e with state := .complete, ctx := none, doneNo := (s.stand st).nextDone }
        ∧ (t.stand st).freed = (s.stand st).freed ++ e.ctx.toList) ∧
      (e.state = .ready → 0 ∉ e.segments → e.step ∈ s.ingest.admitting → ∀ d, s.streamDesc (smStream e.header) = some d →
        rowKey (bjRows d) e.step ∉ (s.stand st).guarded → s.planNow < s.guardAt e.step (s.rowGeom d) → (∀ r ∈ (s.stand st).rows, r.geom = rowKey (bjRows d) e.step → r.index ≠ none) →
        sget 0 (s.stand st).closed (rowKey (bjRows d) e.step) < rwRows (s.rowGeom d) → SameBut [.ingest] s t
          ∧ (t.stand st).sample arrival = some { e with state := .placed, ctx := none, doneNo := (s.stand st).nextDone }
          ∧ (t.stand st).rows = (s.stand st).rows ++ [⟨rowKey (bjRows d) e.step, 0, e.segments.sum, e.segments.length, [(arrival, 0, 1)], none⟩]))) ∧
  (∀ (s : State) (st video audio text : Nat), st < 8 → ∃ t, exec (.decodeLoad st video audio text) s = .next t ∧
    let last := sget [] s.ingest.load st
    if last ≠ [] ∧ fieldAt last 0 8 / 2 ^ 22 = s.stamp / 2 ^ 22 then t = s
    else SameBut [.log, .host, .ingest, .ctr, .out] s t ∧ t.ingest.stands = s.ingest.stands ∧
      let es := (s.stand st).samples.filter (fun e => decide (e.state = .queued ∨ e.state = .decoding))
      sget [] t.ingest.load st = u64 s.stamp ++ (u16 video ++ u16 audio ++ u16 text)
        ++ u64 ((es.map (fun e => smSize e.header)).sum + (match s.ingestFlow st with | some f => f.data.length | none => 0)) ++ u64 (s.backlog es) ++ u32 ((List.range 3).map (fun c => s.atRisk st c)).sum)

/-- At its guard point a geometry's open rows close, and, where nothing is left to write, its object is signalled; before it nothing
happens. The next closed row is written whole, positions then marks, and its samples are admitted; at the deadline the admission of the
oldest open step ends, and the rows written become its bounds (R158, R319, R323 to R326, R330). -/
def Obligations.RowsAreWrittenAndAdmitted : Prop :=
  (∀ (s : State) (st g k : Nat) (d : Bytes), s.ingestDesc g = some d → bjType d = 3 → bjStand d = st → s.ingest.admitting = [k] →
    rowKey g k ∉ (s.stand st).guarded → ∃ t, exec (.guardPoint st g) s = .next t ∧
      if s.deadlineOf k - (rwGuard d : Int) * (2 ^ 16 : Nat) ≤ s.planNow then
        rowKey g k ∈ (t.stand st).guarded ∧ (∀ r ∈ (t.stand st).rows, r.geom = rowKey g k → r.index ≠ none) ∧ t.mem = s.mem
        ∧ (t.stand st).samples = (s.stand st).samples ∧
        ((∀ r ∈ (s.stand st).rows, r.geom ≠ rowKey g k) → rowKey g k ∉ (s.stand st).signalled → rwDone d ≠ 0xFFFF → bitsOf (rwDone d) 13 0 < 0x3E00 →
          t.sync.transit = s.sync.transit ++ [⟨packerSrc st, bitsOf (rwDone d) 13 0, 1, k, s.replica (packerSrc st / 512)⟩])
      else t = s) ∧
  (∀ (s : State) (st g k : Nat) (d : Bytes) (r : PackRow), s.ingestDesc g = some d → bjType d = 3 → bjStand d = st → st < 8 → s.ingest.admitting = [k] →
    let i := sget 0 (s.stand st).written (rowKey g k)
    i < rwRows d → (s.stand st).rows.find? (fun r => decide (r.geom = rowKey g k ∧ r.index = some i)) = some r → rwBoxClass d = 0xFF →
    s.ingestFlow st = none → (∀ x ∈ (s.stand st).samples, x.state ≠ .waitPool) →
    ∃ t, exec (.rowWriteComplete st g []) s = .next t ∧ sget 0 (t.stand st).written (rowKey g k) = i + 1
      ∧ t.count (kBkRows st) = s.count (kBkRows st) + 1 ∧ r ∉ (t.stand st).rows ∧
      (s.cow.pages = [] → s.rowSet st k d + i * rwRowBytes d + rwRowBytes d ≤ hbmEnd →
        let a := s.rowSet st k d + i * rwRowBytes d
        t.mem = writeBytes (writeBytes s.mem a (packedRowBytes (s.stand st) d r).1) (a + up64 (rwLength d * rwPos d)) (packedRowBytes (s.stand st) d r).2) ∧
      (∀ a e, r.parts = [(a, 0, 1)] → (s.stand st).sample a = some e →
        (t.stand st).admitted = (s.stand st).admitted ++ [⟨k, smId e.header, smStream e.header, e.carries⟩] ∧ (t.stand st).sample a = none)) ∧
  (∀ (s : State), ∃ t, exec .admissionDeadline s = .next t ∧ t.mem = s.mem ∧
    (s.ingest.admitting = [] → t = s) ∧
    (∀ k, lowest s.ingest.admitting = some k → s.planNow < s.deadlineOf k → t = s) ∧
    (∀ k, lowest s.ingest.admitting = some k → s.deadlineOf k ≤ s.planNow → t.ingest.ingestStep = k
      ∧ t.ingest.admitting = s.ingest.admitting.filter (fun j => decide (j ≠ k)) ∧ t.job.state = s.job.state ∧
      (∀ st g d, st < 8 → (g, d) ∈ s.standGeoms st → rwRowsClass d ≠ 0xFF →
        (k, st, rwRowsClass d, sget 0 (s.stand st).written (rowKey g k)) ∈ t.ingest.bounds)))

/-! ### The parameter update (13) -/

/-- A gradient row of the accepting step is added to its buffer, exactly, and its module seen; a late one is held or dropped; one of a
later step waits; one outside its buffer is a fault; a row from a peer is acknowledged. At its deadline a descriptor closes. A
withdrawal is kept for its step and acknowledged. `APPLY` or the skip of a descriptor clears its buffer; an update applied is counted in
its record (R134, R265, R268, R271, R344, R350 to R352, R358, R384). -/
def Obligations.ContributionsAreTakenAndApplied : Prop :=
  (∀ (s : State) (r : Msg) (rest : List Msg), s.job.plan ≠ none → s.job.state ≠ .fault → s.upd.rows = r :: rest →
    (s.updates[gpIndex r]? = none → ∃ t, exec (.gradient none []) s = .next t ∧ Faulted t wardenSrc 0x5009 ∧ t.safe.latch = true ∧ t.mem = s.mem) ∧
    (∀ d, s.updates[gpIndex r]? = some d →
      (udElems d < gpFirst r + gpCount r → ∃ t, exec (.gradient none []) s = .next t ∧ Faulted t (udSrc d) 0x5009 ∧ t.safe.latch = true ∧ t.mem = s.mem) ∧
      (gpFirst r + gpCount r ≤ udElems d →
        (s.upd.accepting = none → exec (.gradient none []) s = .next s) ∧
        (∀ acc, s.upd.accepting = some acc →
          (acc < r.arg → exec (.gradient none []) s = .next s) ∧
          (r.arg = acc → s.isLate (gpIndex r) d acc acc = false → udGrad d % 16 = 0 → ((s.cacheOf (udStack d)).map (fun x => x.block)).Nodup →
            (s.cacheOf (udStack d)).length + (rowBlocks d (gpFirst r) (gpCount r)).length ≤ 4096 → ∃ t, exec (.gradient none []) s = .next t
            ∧ t.upd.rows = rest ∧ r.origin ∈ sget [] t.upd.seen (gpIndex r) ∧ t.mem = s.mem
            ∧ (udStack d < 32 → t.count (kGaeContributions (udStack d)) = s.count (kGaeContributions (udStack d)) + gpCount r)
            ∧ (∀ j, j < gpCount r → let v := (placeGrad (udEg d) (gpValue r j).1).val
                t.gaeElem (udStack d) (udGrad d + 16 * (gpFirst r + j)) = if v = 0 then s.gaeElem (udStack d) (udGrad d + 16 * (gpFirst r + j))
                  else unsigned 128 (signed 128 (s.gaeElem (udStack d) (udGrad d + 16 * (gpFirst r + j))) + v))
            ∧ (∀ a, a % 16 = 0 → a < udGrad d + 16 * gpFirst r ∨ udGrad d + 16 * (gpFirst r + gpCount r) ≤ a → t.gaeElem (udStack d) a = s.gaeElem (udStack d) a)) ∧
          (r.arg < acc → s.staleDrop = true → ∃ t, exec (.gradient none []) s = .next t ∧ t.upd.rows = rest ∧ t.mem = s.mem
            ∧ t.count kStaleDropped = s.count kStaleDropped + 1 ∧ t.upd.seen = s.upd.seen))))) ∧
  (∀ (s : State) (m : Msg) (d : Bytes) (acc n : Nat), s.job.plan ≠ none → s.job.state ≠ .fault → s.updates[gpIndex m]? = some d →
    gpFirst m + gpCount m ≤ udElems d → s.upd.accepting = some acc → m.arg = acc → s.isLate (gpIndex m) d acc acc = false →
    routePort s.net.graph s.self s.self m.origin = some n →
    ∃ t, exec (.gradient (some m) []) s = .next t ∧ t.net.inbox = s.net.inbox.erase m ∧ m.origin ∈ sget [] t.upd.seen (gpIndex m)
      ∧ ∃ a : Msg, Output.message a ∈ t.out ∧ a.kind = 8 ∧ a.dst = m.origin ∧ a.port = n
        ∧ a.arg = m.kind * 2 ^ 56 + (if m.kind = 1 then m.xfer else m.seq) % 2 ^ 32) ∧
  (∀ (s : State) (i k : Nat) (d : Bytes), s.upd.accepting = some k → s.updates[i]? = some d → ∃ t, exec (.contributionDeadline i) s = .next t ∧
    if s.pointOf k (udDeadline d) 0 < (s.planNow : Int) ∧ i ∉ s.upd.closed
    then t.upd = { s.upd with closed := s.upd.closed ++ [i] } ∧ SameBut [.upd] s t else t = s) ∧
  (∀ (s : State) (m : Msg), ∃ t, exec (.withdraw m) s = .next t ∧ sget 0 t.upd.withdrawn m.arg = (sget 0 s.upd.withdrawn m.arg ||| 2 ^ m.origin)
    ∧ (∀ k, k ≠ m.arg → sget 0 t.upd.withdrawn k = sget 0 s.upd.withdrawn k) ∧ t.count kWithdrawals = s.count kWithdrawals + 1
    ∧ t.net.inbox = s.net.inbox.erase m ∧ SameBut [.log, .upd, .skid, .net, .ctr, .out] s t) ∧
  (∀ (s : State) (i : Nat) (d : Bytes) (dec : Decision), s.upd.decision = some dec → s.updates[i]? = some d →
    (∀ checks, s.upd.applying = false ∨ i ∈ s.upd.done → exec (.applyDescriptorDone i checks) s = .next s) ∧
    (s.upd.applying = true → i ∉ s.upd.done →
      (∀ checks, dec.action = 1 ∨ udGroup d ∈ dec.skipped → ∃ t, exec (.applyDescriptorDone i checks) s = .next t
        ∧ t.upd.done = s.upd.done ++ [i] ∧ (t.upd.applying = false ↔ s.updates.length ≤ s.upd.done.length + 1)
        ∧ (∀ a, readByte t.mem a = if udGrad d ≤ a ∧ a < udGrad d + 16 * udElems d then 0#8 else readByte s.mem a)
        ∧ (udGrad d % 16 = 0 → ∀ j, j < udElems d → t.gaeElem (udStack d) (udGrad d + 16 * j) = 0)
        ∧ (udDone d ≠ 0xFFFF → udDone d % 0x4000 < 0x3E00 → t.sync.transit = s.sync.transit ++ [⟨udSrc d, udDone d % 0x4000, 1, dec.step, s.replica (udSrc d / 512)⟩])) ∧
      (dec.action ≠ 1 → udGroup d ∉ dec.skipped → i ∉ s.upd.written →
        (∃ t, exec (.applyDescriptorDone i []) s = .next t ∧ i ∈ t.upd.written ∧
          let u := s.applyOne dec.step i d dec.clip
          if u.heldOn (udStack d) = true then t.upd.done = s.upd.done ∧ t.mem = u.mem
          else t.upd.done = s.upd.done ++ [i] ∧ t.mem = clearRange u.mem (udGrad d) (16 * udElems d)) ∧
        (udElems d = 0 → s.cow.pages = [] → s.cow.held = [] → udCounter d + 64 ≤ hbmEnd → Memory.wf s.mem = true → crApplied (s.counterRec d) + 1 < 2 ^ 64 →
          ∃ t, exec (.applyDescriptorDone i []) s = .next t ∧ leNat (readBytes t.mem (udCounter d) 8) = crApplied (s.counterRec d) + 1
            ∧ ∀ a, a < udCounter d ∨ udCounter d + 64 ≤ a → readByte t.mem a = readByte s.mem a))))

/-- The pass of `NORM` ends with this module's combine record; a child's record joins it, and goes up when all children's are here; the
final record goes down, and decides: a fault where steps or constants differ, a withdrawal came late or the job halts, a skip of the
step where a module had a non-finite value, else `APPLY`, with the groups that are partial skipped (R354 to R357, R386). -/
def Obligations.NormsCombineAndDecide : Prop :=
  (∀ (s : State), ∃ t, exec (.normPassComplete []) s = .next t ∧ t.mem = s.mem ∧
    (s.upd.normStep = none ∨ s.upd.passDone = true → t = s) ∧
    (∀ k, s.upd.normStep = some k → s.upd.passDone = false → t.upd.passDone = true ∧ t.upd.record ≠ none ∧ t.job.state = s.job.state ∧
      (s.treeChildren = [] → s.upd.sentUp = false → t.upd.sentUp = true) ∧
      (s.treeChildren ≠ [] → s.upd.ups = [] → t.upd.sentUp = s.upd.sentUp) ∧
      (s.treeChildren ≠ [] → s.upd.ups = [] → s.updates = [] → t.upd.record = some (s.ownRecord k) ∧ SameBut [.upd] s t))) ∧
  (∀ (s : State) (die code line k : Nat) (reads : List LineRead), s.upd.normStep = some k → s.upd.passDone = false → rereadsUsed 1 (lineOk code line) reads = none →
    ∃ t, exec (.normPassComplete [.sram die code line reads]) s = .next t ∧ Faulted t (dieSrc die) 0x1100 ∧ t.safe.latch = true ∧ t.mem = s.mem) ∧
  (∀ (s : State) (m : Msg), ∃ t, exec (.combineUp m) s = .next t ∧ t.mem = s.mem ∧
    (m.origin ∉ s.treeChildren ∨ s.job.state = .fault → t = { s with net := { s.net with inbox := s.net.inbox.erase m } }) ∧
    (m.origin ∈ s.treeChildren → s.job.state ≠ .fault → s.upd.normStep = none ∨ s.upd.record = none ∨ s.upd.sentUp = true →
      SameBut [.upd, .net] s t ∧ t.upd = { s.upd with ups := s.upd.ups ++ [(m.origin, combineOf m.body)] }) ∧
    (∀ k r, s.treeChildren = [m.origin] → s.job.state ≠ .fault → s.upd.normStep = some k → s.upd.record = some r → s.upd.sentUp = false →
      s.upd.ups = [] → (combineOf m.body).step = k → t.upd.sentUp = true ∧ t.upd.record = some (r.join (combineOf m.body)) ∧
        (∀ p n, s.treeParent = some p → routePort s.net.graph s.self s.self p = some n →
          ∃ a : Msg, Output.message a ∈ t.out ∧ a.kind = 6 ∧ a.dst = p ∧ a.arg = k ∧ a.port = n ∧ a.body = (r.join (combineOf m.body)).bytes))) ∧
  (∀ (s : State) (k : Nat) (own : CombineRec), s.upd.normStep = some k → s.upd.record = some own →
    let decided (r : CombineRec) (t : State) : Prop :=
      let fails (code : Nat) : Prop := Faulted t wardenSrc code ∧ t.safe.latch = true
      let goes (action : Nat) (skipped : List Nat) : Prop := t.upd.normStep = none ∧ t.safe = s.safe
        ∧ t.upd.decision = some ⟨r.step, action, skipped, (s.clipOf r).1, (s.clipOf r).2⟩
      match s.decide356 r with
      | .stepSkew _ _ _ => fails 0x5002
      | .groupSkew _ => fails 0x5003
      | .withdrawLate => fails 0x5008
      | .halt => fails 0x5001
      | .skip => goes 1 [] ∧ t.count kStepsSkipped = s.count kStepsSkipped + 1
      | .apply sk => goes 0 sk ∧ t.count kGroupSkips = s.count kGroupSkips + sk.length
    (∀ m, s.upd.sentUp = false → exec (.combineDown m) s = .next s) ∧
    (s.upd.sentUp = true →
      (∃ t, exec (.combineDown none) s = .next t ∧ t.mem = s.mem ∧ (s.treeParent ≠ none → t = s) ∧ (s.treeParent = none → decided own t)) ∧
      (∀ m : Msg, ∃ t, exec (.combineDown (some m)) s = .next t ∧ t.mem = s.mem ∧
        (m.arg = k → s.treeParent = some m.origin → decided (combineOf m.body) t) ∧
        (m.arg ≠ k ∨ s.treeParent ≠ some m.origin → t = s))))

/-! ### Snapshots and restart (16) -/

/-- A first-touch copy ends with the old page in its pool page; a page read out joins the own slot with its CRC, and the last one ends
the capture. Requests are kept or refused, members counted, refusals only read; `HELD` completes the own copy. The partner keeps the
pages of the module it holds for, and checks them. `PAIR` is answered with its result, `PAIR_ACK` kept. The windthrow index is formed
once in 1,024 beats, and asks for a capture when it first reaches its limit (R278, R280, R281, R435, R436, R438 to R445, R447). -/
def Obligations.CapturesAreTakenAndHeld : Prop :=
  let sent (s t : State) (dst arg : Nat) (body : Bytes) : Prop := ∀ n, routePort s.net.graph s.self s.self dst = some n →
    ∃ a : Msg, Output.message a ∈ t.out ∧ a.kind = 13 ∧ a.dst = dst ∧ a.arg = arg ∧ a.body = body ∧ a.port = n
  (∀ (s : State) (page : Nat), ∃ t, exec (.shadowCopyDone page []) s = .next t ∧
    ((∀ q, s.pageState page ≠ some (.copying q)) → t = s) ∧
    (∀ q die code line reads, s.pageState page = some (.copying q) → rereadsUsed 1 (lineOk code line) reads = none →
      ∃ u, exec (.shadowCopyDone page [.sram die code line reads]) s = .next u ∧ Faulted u (dieSrc die) 0x1100 ∧ u.safe.latch = true ∧ u.mem = s.mem) ∧
    (∀ q, s.pageState page = some (.copying q) → SameBut [.cow, .mem, .ctr] s t ∧ t.pageState page = some (.shadowed q) ∧
      t.cow.held = s.cow.held.filter (fun h => decide (h.1 / pageBytes ≠ page)) ∧
      (Memory.wf s.mem = true → (∀ h ∈ s.cow.held, h.1 / pageBytes ≠ page) → ∀ a, readByte t.mem a
        = if q * pageBytes ≤ a ∧ a < q * pageBytes + pageBytes then readByte s.mem (page * pageBytes + (a - q * pageBytes)) else readByte s.mem a))) ∧
  (∀ (s : State) (page : Nat) (c : Capture) (x : PageState), s.snap.capture = some c → s.pageState page = some x →
    (s.cow.state ≠ 1 ∨ s.nextPage (page / pagesPerStack) ≠ some page → ∀ checks, exec (.pageDone page checks) s = .next s) ∧
    (s.cow.state = 1 → s.nextPage (page / pagesPerStack) = some page →
      (∀ die code line reads, rereadsUsed 1 (lineOk code line) reads = none → ∃ t, exec (.pageDone page [.sram die code line reads]) s = .next t ∧ Faulted t (dieSrc die) 0x1100 ∧ t.safe.latch = true ∧ t.mem = s.mem) ∧
      (c.remote = false → ∃ t, exec (.pageDone page []) s = .next t ∧
        let src := match x with | .shadowed q => q * pageBytes | _ => page * pageBytes
        let kept := s.cow.pages.filter (fun e => decide (e.1 ≠ page))
        (t.ownSlot c.slot).pages = (s.ownSlot c.slot).pages ++ [(page, crcOfPage page (readBytes s.mem src pageBytes), rangeCells s.mem src pageBytes)]
        ∧ t.cow.pages = kept ∧ ((∀ h ∈ s.cow.held, h.1 / pageBytes ≠ page) → t.mem = s.mem)
        ∧ sget 0 t.cow.dies (page / pagesPerStack) = (if kept.any (fun e => decide (e.1 / pagesPerStack = page / pagesPerStack)) = true then sget 0 s.cow.dies (page / pagesPerStack) else 2)
        ∧ (kept ≠ [] → t.cow.state = 1 ∧ t.snap.capture = some c)
        ∧ (kept = [] → t.cow.state = 2 ∧ t.snap.capture = none ∧ (t.ownSlot c.slot).state = 2 ∧ (s.start.wardenHeld = false → Raised t wardenSrc 0x3121)
            ∧ (c.checkpoint = true → let w : Checkpoint := { step := c.step, slot := c.slot, since := s.time.cycles }
                if s.snap.checkpoint = none then t.snap.checkpoint = some w else t.snap.checkpoint = s.snap.checkpoint ∧ t.snap.nextCheckpoint = some w))))) ∧
  (∀ (s : State) (m : Msg),
    (∃ t, exec (.captureRequest m) s = .next t ∧
      if s.hasCleared m.arg = true then t.count kCapturesRefused = s.count kCapturesRefused + 1 ∧ t.snap = s.snap
      else SameBut [.log, .net, .snap] s t ∧ t.snap = { s.snap with requested := if m.arg ∈ s.snap.requested then s.snap.requested else s.snap.requested ++ [m.arg] }) ∧
    exec (.captureRefused m) s = .next (s.took m) ∧
    (∃ t, exec (.setMember m) s = .next t ∧ SameBut [.log, .net, .host, .snap, .ctr, .out] s t ∧
      let k := s.fullStep (m.arg % 2 ^ 32)
      let l := sget [] s.snap.members k
      if m.origin ∈ l then t = s.took m
      else sget [] t.snap.members k = l ++ [m.origin] ∧
        if l.length + 1 = s.modules then t.snap.newestSet = (if s.snap.newestSet = 2 ^ 64 - 1 then k else max s.snap.newestSet k) ∧ (s.start.wardenHeld = false → Raised t wardenSrc 0x3302)
        else t.snap.newestSet = s.snap.newestSet) ∧
    (∃ t, exec (.held m) s = .next t ∧
      (s.snap.capture = none → t = s.took m) ∧
      (∀ c, s.snap.capture = some c → c.remote = false ∨ c.localDone = false ∨ m.origin ≠ s.partner ∨ m.arg % 2 ^ 32 ≠ c.step % 2 ^ 32 → t = s.took m) ∧
      (∀ c, s.snap.capture = some c → c.remote = true → c.localDone = true → m.origin = s.partner → m.arg % 2 ^ 32 = c.step % 2 ^ 32 →
        (t.ownSlot c.slot).state = 2 ∧ t.snap.capture = none ∧ t.count kSnapshotsHeld = s.count kSnapshotsHeld + 1 ∧ s.self ∈ sget [] t.snap.members c.step)) ∧
    (∀ i k, k = s.fullStep (m.arg / 2 ^ 32) → s.snap.heldFor = some m.origin → s.slotFor m.origin k = some i → s.job.state ≠ .fault →
      let page := bitsOf m.arg 31 27 * pagesPerStack + bitsOf m.arg 26 12
      let x := s.partnerSlot i
      let base : SnapSlot := if x.state = 1 ∧ x.step = k ∧ x.module = m.origin then x else { state := 1, step := k, module := m.origin, modules := s.modules, jobId := s.jobId, stamp := m.stamp, digest := s.setDigest, coFed := s.snap.heldCoFed }
      ∃ t, exec (.snapPage m) s = .next t ∧ t.mem = s.mem ∧
        (bitsOf m.arg 11 6 < 32 → t.partnerSlot i = base.putChunk page (65536 * bitsOf m.arg 11 6) m.body ∧ SameBut [.log, .net, .snap] s t) ∧
        (32 ≤ bitsOf m.arg 11 6 → (base.putCrc page (fieldAt m.body 0 4)).bad = true → t.partnerSlot i = base.putCrc page (fieldAt m.body 0 4)) ∧
        (32 ≤ bitsOf m.arg 11 6 → (base.putCrc page (fieldAt m.body 0 4)).bad = false → base.expect = some (base.checked.length + 1) →
          t.partnerSlot i = { base.putCrc page (fieldAt m.body 0 4) with state := 2 } ∧ sent s t m.origin (snapArg 4 k) [])) ∧
    (s.snap.heldFor ≠ some m.origin → exec (.snapPage m) s = .next (s.took m) ∧ exec (.captureSent m) s = .next (s.took m)) ∧
    (∀ i k, k = s.fullStep (m.arg % 2 ^ 32) → s.snap.heldFor = some m.origin → s.slotFor m.origin k = some i →
      let x := s.partnerSlot i
      let base : SnapSlot := if x.state = 1 ∧ x.step = k ∧ x.module = m.origin then x else { state := 1, step := k, module := m.origin, modules := s.modules, jobId := s.jobId, stamp := m.stamp, digest := s.setDigest, coFed := s.snap.heldCoFed }
      ∃ t, exec (.captureSent m) s = .next t ∧ t.mem = s.mem ∧
        if base.bad = false ∧ base.checked.length = fieldAt m.body 0 4
        then t.partnerSlot i = { base with expect := some (fieldAt m.body 0 4), state := 2 } ∧ sent s t m.origin (snapArg 4 k) []
        else t.partnerSlot i = { base with expect := some (fieldAt m.body 0 4) }) ∧
    (∃ t, exec (.pair m) s = .next t ∧ sent s t m.origin (snapArg 2 0) (s.pairBody ++ u8 (s.pairResult m)) ∧
      (s.pairResult m ≠ 0 → t.snap = s.snap) ∧
      (s.pairResult m = 0 → t.snap = { s.snap with heldFor := some m.origin, heldPages := fieldAt m.body 8 4, heldCoFed := coFed s.feedIds (pairFeeds m) })) ∧
    (∃ t, exec (.pairAck m) s = .next t ∧
      (m.origin ≠ s.partner → t = s.took m) ∧
      (m.origin = s.partner → t.snap = { s.snap with paired := some (fieldAt m.body 28 1), partnerFeeds := pairFeeds m, coFed := coFed s.feedIds (pairFeeds m) } ∧
        (fieldAt m.body 28 1 = 0 → coFed s.feedIds (pairFeeds m) = true → s.start.wardenHeld = false → Raised t wardenSrc 0x7300)))) ∧
  (∀ (s : State), ∃ t, exec .windthrowEvaluation s = .next t ∧
    let e := s.snap.e - s.snap.e / 4096
    let h := 8192 * s.holdoverMs / 1000
    let x := min 65535 (e + s.thermalPart + h)
    let lim := s.rwValue 0x8100 2 40000
    (s.beat / 1024 = s.snap.lastEval / 1024 → t = s) ∧
    (s.beat / 1024 ≠ s.snap.lastEval / 1024 → t.snap.e = e ∧ t.snap.t = s.thermalPart ∧ t.snap.h = h ∧ t.snap.index = x ∧ t.snap.lastEval = s.beat ∧ t.mem = s.mem ∧
      (s.snap.armed = false ∨ x < lim → SameBut [.snap] s t ∧ (t.snap.armed = true ↔ s.snap.armed = true ∨ x + 4096 < lim)) ∧
      (s.snap.armed = true → lim ≤ x → t.snap.armed = false ∧
        (s.start.wardenHeld = false → s.partner = 0xFFFF ∨ s.requestStep = none → Raised t wardenSrc 0x3300) ∧
        (∀ k, s.requestStep = some k → s.partner ≠ 0xFFFF → s.job.state ≠ .fault → s.hasCleared k = false → k ∈ t.snap.requested))))

/-- A write of `RESTORE_STEP` or `RESTORE_FROM` takes its value and clears the restore; `RESTORE_GO` 1 begins one in `LOADED`, 2 stops it.
A source answers a read with its extents, or refuses. Data of the present extent, in order, are written; an extent that agrees with its
manifest is verified, and the last one ends the restore; one that does not is read again three times, then the restore fails; a
refusal of the source ends it (R450 to R456, R458). -/
def Obligations.RestoresFillTheModule : Prop :=
  let sent (s t : State) (kind dst arg : Nat) (p : Bytes → Prop) : Prop := ∀ n, routePort s.net.graph s.self s.self dst = some n →
    ∃ a : Msg, Output.message a ∈ t.out ∧ a.kind = kind ∧ a.dst = dst ∧ a.arg = arg ∧ p a.body ∧ a.port = n
  (∀ (s : State) (q : Req), Fresh s q → InSession s q →
    (∀ sub n, (sub, n) ∈ [(1, 8), (2, 2)] → WholeWrite q 0x8130 sub n → ¬(sub = 2 ∧ 4096 ≤ leNat q.data ∧ leNat q.data < 0xFFFE) → s.snap.restore.flow = none →
      ∃ t, exec (.restoreStep q) s = .next t ∧ Answered t q 2 0 true [] ∧ t.snap.restore = {} ∧ bytesOr t.tally.rw (reqKey q) [] = q.data
        ∧ t.snap.own = s.snap.own ∧ t.mem = s.mem) ∧
    (WholeWrite q 0x8130 2 2 → 4096 ≤ leNat q.data → leNat q.data < 0xFFFE →
      ∃ t, exec (.restoreStep q) s = .next t ∧ Answered t q 2 abRange true [] ∧ t.snap = s.snap ∧ t.tally = s.tally) ∧
    (WholeWrite q 0x8130 3 1 → q.data = u8 1 →
      ∃ t, exec (.restoreGoStart q) s = .next t ∧ t.mem = s.mem ∧ t.job.state = s.job.state ∧
        (s.job.state ≠ .loaded ∨ s.snap.restore.state = 1 → Answered t q 2 abState true [] ∧ t.snap = s.snap) ∧
        (s.job.state = .loaded → s.snap.restore.state ≠ 1 → Answered t q 2 0 true [] ∧
          (s.restoreFrom = 0xFFFF → s.localSource = none → t.snap.restore.state = 4) ∧
          (s.restoreFrom = 0xFFFF → s.localSource ≠ none → 0 < s.extentCount → t.snap.restore.state = 1 ∧ t.snap.restore.extents = s.extentCount
            ∧ t.snap.restore.verified = if s.snap.restore.state = 3 then s.snap.restore.verified else 0) ∧
          (s.restoreFrom = 0xFFFE → t.snap.restore.state = 1 ∧ t.snap.restore.verified = 0 ∧ t.snap.restore.extents = s.extentCount) ∧
          (s.restoreFrom < 0xFFFE → 0 < s.extentCount → t.snap.restore.state = 1 ∧ t.snap.restore.extents = s.extentCount) ∧
          (s.restoreFrom < 0xFFFE → s.extentCount = 0 → t.snap.restore.state = 2))) ∧
    (WholeWrite q 0x8130 3 1 → q.data = u8 2 →
      ∃ t, exec (.restoreGoStop q) s = .next t ∧ Answered t q 2 0 true [] ∧ t.mem = s.mem ∧
        (s.snap.restore.state = 1 ∨ s.snap.restore.state = 3 → t.snap.restore = { state := 4 }) ∧
        (s.snap.restore.state ≠ 1 → s.snap.restore.state ≠ 3 → t.snap = s.snap))) ∧
  (∀ (s : State) (m : Msg),
    (∃ t, exec (.restoreRead m) s = .next t ∧ t.mem = s.mem ∧ t.snap = s.snap ∧
      match [s.partnerSlot 0, s.partnerSlot 1].find? (fun x => s.slotGood x (m.arg / 2 ^ 32) m.origin) with
      | none => sent s t 13 m.origin (snapArg 7 (m.arg / 2 ^ 32)) (fun b => b = u8 1)
      | some x => if x.coFed = true then sent s t 13 m.origin (snapArg 7 (m.arg / 2 ^ 32)) (fun b => b = u8 2)
        else ∀ e, m.arg % 2 ^ 32 ≤ e → e < (x.ordered.length + extentPages - 1) / extentPages →
          let pages := (x.ordered.drop (extentPages * e)).take extentPages
          sent s t 15 m.origin (e * 2 ^ 32 + 32 * pages.length) (fun b => b = pages.flatMap (fun p => manifestEntry p.1 p.2.1))) ∧
    (∃ t, exec (.restoreRefused m) s = .next t ∧
      if s.remoteRestore = true ∧ m.origin = s.restoreFrom then t.snap.restore = { state := 4 } ∧ t.mem = s.mem else t = s.took m) ∧
    (∃ t, exec (.restoreData m) s = .next t ∧ SameBut [.log, .net, .snap, .mem] s t ∧
      let r := s.snap.restore
      let e := m.arg / 2 ^ 32
      let c := m.arg % 2 ^ 32
      let pages := s.extent e
      (s.remoteRestore = false ∨ r.asked = false ∨ m.origin ≠ s.restoreFrom ∨ e ≠ r.verified ∨ c ≠ r.chunks → t = s.took m) ∧
      (s.remoteRestore = true → r.asked = true → m.origin = s.restoreFrom → e = r.verified → c = r.chunks →
        (c < 32 * pages.length → t.mem = writeBytes s.mem ((pages.getD (c / 32) 0) * pageBytes + 65536 * (c % 32)) (m.body.take 65536)
          ∧ t.snap = { s.snap with restore := { r with chunks := c + 1, bytes := r.bytes + m.body.length } }) ∧
        (c = 32 * pages.length → t.mem = s.mem ∧ t.snap = { s.snap with restore := { r with chunks := c + 1, manifest := manifestOf pages.length m.body } })))) ∧
  (∀ s : State, let r := s.snap.restore
    (s.extentIn = none → ∀ checks, exec (.restoreExtentVerified checks) s = .next s) ∧
    (r.state = 1 → r.verified < r.extents → s.restoreFrom < 0xFFFE → r.chunks = 32 * (s.extent r.verified).length + 1 → r.flow = none →
      (∃ t, exec (.restoreExtentVerified []) s = .next t ∧ t.mem = s.mem ∧ t.job.state = s.job.state ∧
        (r.manifest.map (fun e => e.1) ≠ s.extent r.verified → t.snap.restore = { state := 4 }) ∧
        (r.manifest.map (fun e => e.1) = s.extent r.verified → (∀ e ∈ r.manifest, s.hbmPageCrc e.1 = e.2) → t.snap.restore
          = { r with verified := r.verified + 1, chunks := 0, rereads := 0, manifest := [], state := if r.verified + 1 = r.extents then 2 else 1 }) ∧
        (r.manifest.map (fun e => e.1) = s.extent r.verified → (∃ e ∈ r.manifest, s.hbmPageCrc e.1 ≠ e.2) →
          (r.rereads < 3 → t.snap.restore.verified = r.verified ∧ t.snap.restore.rereads = r.rereads + 1 ∧ t.snap.restore.chunks = 0 ∧ t.snap.restore.state = 1) ∧
          (3 ≤ r.rereads → t.snap.restore = { state := 4 }))) ∧
      (∀ die code line reads, rereadsUsed 1 (lineOk code line) reads = none → ∃ t, exec (.restoreExtentVerified [.sram die code line reads]) s = .next t ∧ Faulted t (dieSrc die) 0x1100 ∧ t.safe.latch = true ∧ t.mem = s.mem)) ∧
    (∀ x, r.state = 1 → r.verified < r.extents → s.restoreFrom = 0xFFFF → s.localSource = some x →
      ∃ t, exec (.restoreExtentVerified []) s = .next t ∧
        t.mem = ((x.ordered.drop (extentPages * r.verified)).take extentPages).foldl (fun m p => putCells m (p.1 * pageBytes) pageBytes p.2.2) s.mem))

/-! ### The guard limit (04) -/

/-- The sequencer refuses a pass, and raises fault `GUARD_LIMIT`, if the pass would make `RUN_K` exceed 2^22: the fault is recorded of the
cluster's sequencer and the latch is set. A refused pass is not executed: it joins no queue, no tile gets a new sum (the reaction to
a first fault empties them, R107), and memory is as it was. (A pass that an earlier check refuses raises that check's fault instead.) (R88) -/
def Obligations.GuardLimitRefusesThePass : Prop :=
  ∀ (s : State) (cl : Nat) (f : Fetched) (i : Instr) (check : Verdict) (n : Nat), Issues s cl f →
    ((i = .matrix cl ∧ iClass f.word = 1 ∧ check = s.matrixCheck cl f ∧ n = ((s.cl cl).passExtents f.word).2.1) ∨
     (i = .conv cl ∧ iClass f.word = 2 ∧ s.namesCrop f.word = false ∧ check = s.convCheck cl f ∧ n = ((s.cl cl).passExtents f.word).2.1) ∨
     (i = .crop cl ∧ iClass f.word = 2 ∧ s.namesCrop f.word = true ∧ check = s.cropCheck cl f ∧ n = ((s.cl cl).passExtents f.word).2.1) ∨
     (i = .elemwise cl ∧ iClass f.word = 3 ∧ check = s.elemCheck cl f ∧ n = 128)) →
    (∀ r, check ≠ .field r) → (∀ k v m, check ≠ .bound k v m) →
    let m := ((s.cl cl).passExtents f.word).1
    let k := if m = 0 ∨ n = 0 then 0 else ((s.cl cl).passExtents f.word).2.2
    2 ^ 22 < (if iFresh f.word = true then k else ((s.cl cl).aheadOf (iTile f.word)).runK + k) →
    ∃ t, exec i s = .next t ∧ Faulted t (s.seqSrc cl) 0x2202 ∧ t.safe.latch = true ∧ t.mem = s.mem
      ∧ (∀ o ∈ (t.cl cl).arrayQ, o ∈ (s.cl cl).arrayQ) ∧ ∀ x, (t.cl cl).tile x = (s.cl cl).tile x ∨ (t.cl cl).tile x = {}
end

