-- ==== Sys2Proof/Laws/Sparse.lean ====
section
/-! SUPPORT. The laws of sparse maps and of memory: a read after a write, and the canonical form kept by every write. -/

namespace Sys2Proof.Machine

variable {v : Type}

theorem sget_sput_same (d : v) (m : List (Nat × v)) (k : Nat) (x : v) : sget d (sput m k x) k = x := by
  induction m with
  | nil => simp [sput, sget]
  | cons e m ih =>
    obtain ⟨a, y⟩ := e
    simp only [sput]
    split
    · simp [sget]
    · split
      · simp [sget]
      · simp [sget, *]

theorem sget_sput_other (d : v) (m : List (Nat × v)) (k j : Nat) (x : v) (h : j ≠ k) :
    sget d (sput m k x) j = sget d m j := by
  induction m with
  | nil => simp [sput, sget, Ne.symm h]
  | cons e m ih =>
    obtain ⟨a, y⟩ := e
    simp only [sput]
    split
    · simp [sget, Ne.symm h]
    · split
      · subst a; simp [sget, Ne.symm h]
      · simp [sget, ih]

theorem sget_serase_other (d : v) (m : List (Nat × v)) (k j : Nat) (h : j ≠ k) :
    sget d (serase m k) j = sget d m j := by
  induction m with
  | nil => rfl
  | cons e m ih =>
    obtain ⟨a, y⟩ := e
    simp only [serase]
    split
    · subst a; simp [sget, Ne.symm h, ih]
    · simp [sget, ih]

theorem sget_serase_same (d : v) (m : List (Nat × v)) (k : Nat) : sget d (serase m k) k = d := by
  induction m with
  | nil => rfl
  | cons e m ih =>
    obtain ⟨a, y⟩ := e
    simp only [serase]
    split
    · exact ih
    · simp only [sget]
      rw [if_neg ‹_›]
      exact ih

variable [DecidableEq v]

theorem swfFrom_mono (d : v) (m : List (Nat × v)) (lo hi : Nat) (h : lo ≤ hi) (w : swfFrom d hi m = true) :
    swfFrom d lo m = true := by
  cases m with
  | nil => rfl
  | cons e m =>
    simp only [swfFrom, Bool.and_eq_true, decide_eq_true_eq] at w ⊢
    exact ⟨⟨by omega, w.1.2⟩, w.2⟩

theorem sget_below (d : v) (m : List (Nat × v)) (lo k : Nat) (w : swfFrom d lo m = true) (h : k < lo) : sget d m k = d := by
  induction m generalizing lo with
  | nil => rfl
  | cons e m ih =>
    obtain ⟨a, y⟩ := e
    simp only [swfFrom, Bool.and_eq_true, decide_eq_true_eq] at w
    simp only [sget]
    rw [if_neg (by omega)]
    exact ih (a + 1) w.2 (by omega)

theorem swfFrom_serase (d : v) (m : List (Nat × v)) (lo k : Nat) (w : swfFrom d lo m = true) :
    swfFrom d lo (serase m k) = true := by
  induction m generalizing lo with
  | nil => rfl
  | cons e m ih =>
    obtain ⟨a, y⟩ := e
    simp only [swfFrom, Bool.and_eq_true, decide_eq_true_eq] at w
    simp only [serase]
    split
    · exact ih lo (swfFrom_mono d m lo (a + 1) (by omega) w.2)
    · simp only [swfFrom, Bool.and_eq_true, decide_eq_true_eq]
      exact ⟨w.1, ih _ w.2⟩

theorem swfFrom_sput (d : v) (m : List (Nat × v)) (lo k : Nat) (x : v) (w : swfFrom d lo m = true) (h : lo ≤ k) (hx : x ≠ d) :
    swfFrom d lo (sput m k x) = true := by
  induction m generalizing lo with
  | nil => simp [sput, swfFrom, h, hx]
  | cons e m ih =>
    obtain ⟨a, y⟩ := e
    simp only [swfFrom, Bool.and_eq_true, decide_eq_true_eq] at w
    simp only [sput]
    split
    · simp only [swfFrom, Bool.and_eq_true, decide_eq_true_eq]
      exact ⟨⟨h, hx⟩, ⟨by omega, w.1.2⟩, w.2⟩
    · split
      · subst a
        simp only [swfFrom, Bool.and_eq_true, decide_eq_true_eq]
        exact ⟨⟨h, hx⟩, w.2⟩
      · simp only [swfFrom, Bool.and_eq_true, decide_eq_true_eq]
        exact ⟨w.1, ih _ w.2 (by omega)⟩

theorem swf_sset (d : v) (m : List (Nat × v)) (k : Nat) (x : v) (w : swf d m = true) : swf d (sset d m k x) = true := by
  unfold sset
  split
  · exact swfFrom_serase d m 0 k w
  · exact swfFrom_sput d m 0 k x w (Nat.zero_le _) ‹_›

/-- A map reads back what was written. -/
@[simp] theorem sget_sset_same (d : v) (m : List (Nat × v)) (k : Nat) (x : v) : sget d (sset d m k x) k = x := by
  unfold sset
  split
  · rw [sget_serase_same d m k]; exact Eq.symm ‹_›
  · exact sget_sput_same d m k x

/-- A write leaves every other key alone. -/
theorem sget_sset_other (d : v) (m : List (Nat × v)) (k j : Nat) (x : v) (h : j ≠ k) :
    sget d (sset d m k x) j = sget d m j := by
  unfold sset
  split
  · exact sget_serase_other d m k j h
  · exact sget_sput_other d m k j x h

/-- Every entry after a write is an old one or the one written. -/
theorem mem_sset (d : v) (m : List (Nat × v)) (k : Nat) (x : v) (e : Nat × v) (h : e ∈ sset d m k x) : e ∈ m ∨ e = (k, x) := by
  unfold sset at h
  split at h
  · left
    induction m with
    | nil => simp [serase] at h
    | cons f m ih =>
      obtain ⟨a, y⟩ := f
      simp only [serase] at h
      split at h
      · exact List.mem_cons_of_mem _ (ih h)
      · rcases List.mem_cons.1 h with h | h
        · simp [h]
        · exact List.mem_cons_of_mem _ (ih h)
  · induction m with
    | nil => simp [sput] at h; exact .inr h
    | cons f m ih =>
      obtain ⟨a, y⟩ := f
      simp only [sput] at h
      split at h
      · simp at h ⊢; tauto
      · split at h
        · simp at h ⊢; tauto
        · simp only [List.mem_cons] at h ⊢
          rcases h with h | h
          · tauto
          · have := ih h; tauto

/-! ### Memory -/

theorem writeByte_wf (m : List (Nat × Byte)) (a : Nat) (b : Byte) (w : Memory.wf m = true) : Memory.wf (writeByte m a b) = true :=
  swf_sset _ m a b w

theorem writeBytes_wf (bs : Bytes) (m : List (Nat × Byte)) (a : Nat) (w : Memory.wf m = true) :
    Memory.wf (writeBytes m a bs) = true := by
  induction bs generalizing m a with
  | nil => exact w
  | cons b bs ih => exact ih _ _ (writeByte_wf m a b w)

/-- Bytes outside those written read as before. -/
theorem readByte_writeBytes_other (bs : Bytes) (m : List (Nat × Byte)) (a j : Nat) (h : j < a ∨ a + bs.length ≤ j) :
    readByte (writeBytes m a bs) j = readByte m j := by
  induction bs generalizing m a with
  | nil => rfl
  | cons b bs ih =>
    simp only [List.length_cons] at h
    rw [writeBytes, ih _ _ (by omega)]
    exact sget_sset_other _ m a j b (by omega)

/-- The bytes written read back. -/
theorem readByte_writeBytes_same (bs : Bytes) (m : List (Nat × Byte)) (a i : Nat) (h : i < bs.length) :
    readByte (writeBytes m a bs) (a + i) = bs[i] := by
  induction bs generalizing m a i with
  | nil => simp at h
  | cons b bs ih =>
    cases i with
    | zero =>
      rw [writeBytes, readByte_writeBytes_other _ _ _ _ (by omega)]
      exact sget_sset_same _ m a b
    | succ i =>
      have := ih (writeByte m a b) (a + 1) i (by simpa using h)
      simpa [writeBytes, Nat.add_comm, Nat.add_left_comm] using this

end Sys2Proof.Machine
end

