-- ==== Sys2Proof/Laws/State.lean ====
section
/-! SUPPORT. What the named updates of the state leave as it was: one lemma for each, true by the definition. -/

namespace Sys2Proof.Machine

@[simp] theorem State.bootSlot_frame (s : State) (n : ℕ) :
    (State.bootSlot s n).time = s.time ∧ (State.bootSlot s n).log = s.log ∧ (State.bootSlot s n).safe = s.safe ∧
    (State.bootSlot s n).bg = s.bg ∧ (State.bootSlot s n).stats = s.stats ∧ (State.bootSlot s n).clusters = s.clusters ∧
    (State.bootSlot s n).job = s.job ∧ (State.bootSlot s n).upd = s.upd ∧ (State.bootSlot s n).banks = s.banks ∧
    (State.bootSlot s n).limbers = s.limbers ∧ (State.bootSlot s n).stash = s.stash ∧ (State.bootSlot s n).cow = s.cow ∧
    (State.bootSlot s n).cxl = s.cxl ∧ (State.bootSlot s n).base = s.base ∧ (State.bootSlot s n).spine = s.spine ∧
    (State.bootSlot s n).skid = s.skid ∧ (State.bootSlot s n).net = s.net ∧ (State.bootSlot s n).sync = s.sync ∧
    (State.bootSlot s n).tally = s.tally ∧ (State.bootSlot s n).host = s.host ∧ (State.bootSlot s n).ingest = s.ingest ∧
    (State.bootSlot s n).snap = s.snap ∧ (State.bootSlot s n).power = s.power ∧ (State.bootSlot s n).mem = s.mem ∧
    (State.bootSlot s n).ctr = s.ctr ∧ (State.bootSlot s n).out = s.out ∧ (State.bootSlot s n).free = s.free ∧
    (State.bootSlot s n).pending = s.pending :=
  ⟨rfl, rfl, rfl, rfl, rfl, rfl, rfl, rfl, rfl, rfl, rfl, rfl, rfl, rfl, rfl, rfl, rfl, rfl, rfl, rfl, rfl, rfl, rfl, rfl, rfl, rfl, rfl, rfl⟩

@[simp] theorem State.bump_frame (s : State) (k : ℕ) (n : ℕ) :
    (State.bump s k n).time = s.time ∧ (State.bump s k n).start = s.start ∧ (State.bump s k n).log = s.log ∧
    (State.bump s k n).safe = s.safe ∧ (State.bump s k n).bg = s.bg ∧ (State.bump s k n).stats = s.stats ∧
    (State.bump s k n).clusters = s.clusters ∧ (State.bump s k n).job = s.job ∧ (State.bump s k n).upd = s.upd ∧
    (State.bump s k n).banks = s.banks ∧ (State.bump s k n).limbers = s.limbers ∧ (State.bump s k n).stash = s.stash ∧
    (State.bump s k n).cow = s.cow ∧ (State.bump s k n).cxl = s.cxl ∧ (State.bump s k n).base = s.base ∧
    (State.bump s k n).spine = s.spine ∧ (State.bump s k n).skid = s.skid ∧ (State.bump s k n).net = s.net ∧
    (State.bump s k n).sync = s.sync ∧ (State.bump s k n).tally = s.tally ∧ (State.bump s k n).host = s.host ∧
    (State.bump s k n).ingest = s.ingest ∧ (State.bump s k n).snap = s.snap ∧ (State.bump s k n).power = s.power ∧
    (State.bump s k n).mem = s.mem ∧ (State.bump s k n).out = s.out ∧ (State.bump s k n).free = s.free ∧
    (State.bump s k n).pending = s.pending :=
  ⟨rfl, rfl, rfl, rfl, rfl, rfl, rfl, rfl, rfl, rfl, rfl, rfl, rfl, rfl, rfl, rfl, rfl, rfl, rfl, rfl, rfl, rfl, rfl, rfl, rfl, rfl, rfl, rfl⟩

@[simp] theorem State.emit_frame (s : State) (o : Output) :
    (State.emit s o).time = s.time ∧ (State.emit s o).start = s.start ∧ (State.emit s o).log = s.log ∧
    (State.emit s o).safe = s.safe ∧ (State.emit s o).bg = s.bg ∧ (State.emit s o).stats = s.stats ∧
    (State.emit s o).clusters = s.clusters ∧ (State.emit s o).job = s.job ∧ (State.emit s o).upd = s.upd ∧
    (State.emit s o).banks = s.banks ∧ (State.emit s o).limbers = s.limbers ∧ (State.emit s o).stash = s.stash ∧
    (State.emit s o).cow = s.cow ∧ (State.emit s o).cxl = s.cxl ∧ (State.emit s o).base = s.base ∧
    (State.emit s o).spine = s.spine ∧ (State.emit s o).skid = s.skid ∧ (State.emit s o).net = s.net ∧
    (State.emit s o).sync = s.sync ∧ (State.emit s o).tally = s.tally ∧ (State.emit s o).host = s.host ∧
    (State.emit s o).ingest = s.ingest ∧ (State.emit s o).snap = s.snap ∧ (State.emit s o).power = s.power ∧
    (State.emit s o).mem = s.mem ∧ (State.emit s o).ctr = s.ctr ∧ (State.emit s o).free = s.free ∧
    (State.emit s o).pending = s.pending :=
  ⟨rfl, rfl, rfl, rfl, rfl, rfl, rfl, rfl, rfl, rfl, rfl, rfl, rfl, rfl, rfl, rfl, rfl, rfl, rfl, rfl, rfl, rfl, rfl, rfl, rfl, rfl, rfl, rfl⟩

@[simp] theorem State.endCheckpoint_frame (s : State) :
    (State.endCheckpoint s).time = s.time ∧ (State.endCheckpoint s).start = s.start ∧ (State.endCheckpoint s).log = s.log ∧
    (State.endCheckpoint s).safe = s.safe ∧ (State.endCheckpoint s).bg = s.bg ∧ (State.endCheckpoint s).stats = s.stats ∧
    (State.endCheckpoint s).clusters = s.clusters ∧ (State.endCheckpoint s).job = s.job ∧ (State.endCheckpoint s).upd = s.upd ∧
    (State.endCheckpoint s).banks = s.banks ∧ (State.endCheckpoint s).limbers = s.limbers ∧
    (State.endCheckpoint s).stash = s.stash ∧ (State.endCheckpoint s).cow = s.cow ∧ (State.endCheckpoint s).cxl = s.cxl ∧
    (State.endCheckpoint s).base = s.base ∧ (State.endCheckpoint s).spine = s.spine ∧ (State.endCheckpoint s).skid = s.skid ∧
    (State.endCheckpoint s).net = s.net ∧ (State.endCheckpoint s).sync = s.sync ∧ (State.endCheckpoint s).tally = s.tally ∧
    (State.endCheckpoint s).host = s.host ∧ (State.endCheckpoint s).ingest = s.ingest ∧ (State.endCheckpoint s).power = s.power ∧
    (State.endCheckpoint s).mem = s.mem ∧ (State.endCheckpoint s).ctr = s.ctr ∧ (State.endCheckpoint s).out = s.out ∧
    (State.endCheckpoint s).free = s.free ∧ (State.endCheckpoint s).pending = s.pending :=
  ⟨rfl, rfl, rfl, rfl, rfl, rfl, rfl, rfl, rfl, rfl, rfl, rfl, rfl, rfl, rfl, rfl, rfl, rfl, rfl, rfl, rfl, rfl, rfl, rfl, rfl, rfl, rfl, rfl⟩

@[simp] theorem State.enterStage_frame (s : State) (n : ℕ) :
    (State.enterStage s n).time = s.time ∧ (State.enterStage s n).log = s.log ∧ (State.enterStage s n).safe = s.safe ∧
    (State.enterStage s n).bg = s.bg ∧ (State.enterStage s n).stats = s.stats ∧ (State.enterStage s n).clusters = s.clusters ∧
    (State.enterStage s n).job = s.job ∧ (State.enterStage s n).upd = s.upd ∧ (State.enterStage s n).banks = s.banks ∧
    (State.enterStage s n).limbers = s.limbers ∧ (State.enterStage s n).stash = s.stash ∧ (State.enterStage s n).cow = s.cow ∧
    (State.enterStage s n).cxl = s.cxl ∧ (State.enterStage s n).base = s.base ∧ (State.enterStage s n).spine = s.spine ∧
    (State.enterStage s n).skid = s.skid ∧ (State.enterStage s n).net = s.net ∧ (State.enterStage s n).sync = s.sync ∧
    (State.enterStage s n).tally = s.tally ∧ (State.enterStage s n).host = s.host ∧ (State.enterStage s n).ingest = s.ingest ∧
    (State.enterStage s n).snap = s.snap ∧ (State.enterStage s n).power = s.power ∧ (State.enterStage s n).mem = s.mem ∧
    (State.enterStage s n).ctr = s.ctr ∧ (State.enterStage s n).out = s.out ∧ (State.enterStage s n).free = s.free ∧
    (State.enterStage s n).pending = s.pending :=
  ⟨rfl, rfl, rfl, rfl, rfl, rfl, rfl, rfl, rfl, rfl, rfl, rfl, rfl, rfl, rfl, rfl, rfl, rfl, rfl, rfl, rfl, rfl, rfl, rfl, rfl, rfl, rfl, rfl⟩

@[simp] theorem State.flushCaches_frame (s : State) :
    (State.flushCaches s).time = s.time ∧ (State.flushCaches s).start = s.start ∧ (State.flushCaches s).log = s.log ∧
    (State.flushCaches s).safe = s.safe ∧ (State.flushCaches s).bg = s.bg ∧ (State.flushCaches s).stats = s.stats ∧
    (State.flushCaches s).clusters = s.clusters ∧ (State.flushCaches s).job = s.job ∧ (State.flushCaches s).banks = s.banks ∧
    (State.flushCaches s).limbers = s.limbers ∧ (State.flushCaches s).stash = s.stash ∧ (State.flushCaches s).cow = s.cow ∧
    (State.flushCaches s).cxl = s.cxl ∧ (State.flushCaches s).base = s.base ∧ (State.flushCaches s).spine = s.spine ∧
    (State.flushCaches s).skid = s.skid ∧ (State.flushCaches s).net = s.net ∧ (State.flushCaches s).sync = s.sync ∧
    (State.flushCaches s).tally = s.tally ∧ (State.flushCaches s).host = s.host ∧ (State.flushCaches s).ingest = s.ingest ∧
    (State.flushCaches s).snap = s.snap ∧ (State.flushCaches s).power = s.power ∧ (State.flushCaches s).ctr = s.ctr ∧
    (State.flushCaches s).out = s.out ∧ (State.flushCaches s).free = s.free ∧ (State.flushCaches s).pending = s.pending :=
  ⟨rfl, rfl, rfl, rfl, rfl, rfl, rfl, rfl, rfl, rfl, rfl, rfl, rfl, rfl, rfl, rfl, rfl, rfl, rfl, rfl, rfl, rfl, rfl, rfl, rfl, rfl, rfl⟩

@[simp] theorem State.holdWrite_frame (s : State) (a : ℕ) (bs : Bytes) :
    (State.holdWrite s a bs).time = s.time ∧ (State.holdWrite s a bs).start = s.start ∧ (State.holdWrite s a bs).log = s.log ∧
    (State.holdWrite s a bs).safe = s.safe ∧ (State.holdWrite s a bs).bg = s.bg ∧ (State.holdWrite s a bs).stats = s.stats ∧
    (State.holdWrite s a bs).clusters = s.clusters ∧ (State.holdWrite s a bs).job = s.job ∧
    (State.holdWrite s a bs).upd = s.upd ∧ (State.holdWrite s a bs).banks = s.banks ∧
    (State.holdWrite s a bs).limbers = s.limbers ∧ (State.holdWrite s a bs).stash = s.stash ∧
    (State.holdWrite s a bs).cxl = s.cxl ∧ (State.holdWrite s a bs).base = s.base ∧ (State.holdWrite s a bs).spine = s.spine ∧
    (State.holdWrite s a bs).skid = s.skid ∧ (State.holdWrite s a bs).net = s.net ∧ (State.holdWrite s a bs).sync = s.sync ∧
    (State.holdWrite s a bs).tally = s.tally ∧ (State.holdWrite s a bs).host = s.host ∧
    (State.holdWrite s a bs).ingest = s.ingest ∧ (State.holdWrite s a bs).snap = s.snap ∧
    (State.holdWrite s a bs).power = s.power ∧ (State.holdWrite s a bs).mem = s.mem ∧ (State.holdWrite s a bs).ctr = s.ctr ∧
    (State.holdWrite s a bs).out = s.out ∧ (State.holdWrite s a bs).free = s.free ∧ (State.holdWrite s a bs).pending = s.pending :=
  ⟨rfl, rfl, rfl, rfl, rfl, rfl, rfl, rfl, rfl, rfl, rfl, rfl, rfl, rfl, rfl, rfl, rfl, rfl, rfl, rfl, rfl, rfl, rfl, rfl, rfl, rfl, rfl, rfl⟩

@[simp] theorem State.indexFlash_frame (s : State) :
    (State.indexFlash s).time = s.time ∧ (State.indexFlash s).log = s.log ∧ (State.indexFlash s).safe = s.safe ∧
    (State.indexFlash s).bg = s.bg ∧ (State.indexFlash s).stats = s.stats ∧ (State.indexFlash s).clusters = s.clusters ∧
    (State.indexFlash s).job = s.job ∧ (State.indexFlash s).upd = s.upd ∧ (State.indexFlash s).banks = s.banks ∧
    (State.indexFlash s).limbers = s.limbers ∧ (State.indexFlash s).stash = s.stash ∧ (State.indexFlash s).cow = s.cow ∧
    (State.indexFlash s).cxl = s.cxl ∧ (State.indexFlash s).base = s.base ∧ (State.indexFlash s).spine = s.spine ∧
    (State.indexFlash s).skid = s.skid ∧ (State.indexFlash s).net = s.net ∧ (State.indexFlash s).sync = s.sync ∧
    (State.indexFlash s).ingest = s.ingest ∧ (State.indexFlash s).snap = s.snap ∧ (State.indexFlash s).power = s.power ∧
    (State.indexFlash s).mem = s.mem ∧ (State.indexFlash s).ctr = s.ctr ∧ (State.indexFlash s).out = s.out ∧
    (State.indexFlash s).free = s.free ∧ (State.indexFlash s).pending = s.pending :=
  ⟨rfl, rfl, rfl, rfl, rfl, rfl, rfl, rfl, rfl, rfl, rfl, rfl, rfl, rfl, rfl, rfl, rfl, rfl, rfl, rfl, rfl, rfl, rfl, rfl, rfl, rfl⟩

@[simp] theorem State.keepResponse_frame (s : State) (sid : ℕ) (addr : Bytes) (r : Response) :
    (State.keepResponse s sid addr r).time = s.time ∧ (State.keepResponse s sid addr r).start = s.start ∧
    (State.keepResponse s sid addr r).log = s.log ∧ (State.keepResponse s sid addr r).safe = s.safe ∧
    (State.keepResponse s sid addr r).bg = s.bg ∧ (State.keepResponse s sid addr r).stats = s.stats ∧
    (State.keepResponse s sid addr r).clusters = s.clusters ∧ (State.keepResponse s sid addr r).job = s.job ∧
    (State.keepResponse s sid addr r).upd = s.upd ∧ (State.keepResponse s sid addr r).banks = s.banks ∧
    (State.keepResponse s sid addr r).limbers = s.limbers ∧ (State.keepResponse s sid addr r).stash = s.stash ∧
    (State.keepResponse s sid addr r).cow = s.cow ∧ (State.keepResponse s sid addr r).cxl = s.cxl ∧
    (State.keepResponse s sid addr r).base = s.base ∧ (State.keepResponse s sid addr r).spine = s.spine ∧
    (State.keepResponse s sid addr r).skid = s.skid ∧ (State.keepResponse s sid addr r).net = s.net ∧
    (State.keepResponse s sid addr r).sync = s.sync ∧ (State.keepResponse s sid addr r).tally = s.tally ∧
    (State.keepResponse s sid addr r).ingest = s.ingest ∧ (State.keepResponse s sid addr r).snap = s.snap ∧
    (State.keepResponse s sid addr r).power = s.power ∧ (State.keepResponse s sid addr r).mem = s.mem ∧
    (State.keepResponse s sid addr r).ctr = s.ctr ∧ (State.keepResponse s sid addr r).out = s.out ∧
    (State.keepResponse s sid addr r).free = s.free ∧ (State.keepResponse s sid addr r).pending = s.pending :=
  ⟨rfl, rfl, rfl, rfl, rfl, rfl, rfl, rfl, rfl, rfl, rfl, rfl, rfl, rfl, rfl, rfl, rfl, rfl, rfl, rfl, rfl, rfl, rfl, rfl, rfl, rfl, rfl, rfl⟩

@[simp] theorem State.markDirty_frame (s : State) (keys : List ℕ) :
    (State.markDirty s keys).time = s.time ∧ (State.markDirty s keys).log = s.log ∧ (State.markDirty s keys).safe = s.safe ∧
    (State.markDirty s keys).bg = s.bg ∧ (State.markDirty s keys).stats = s.stats ∧
    (State.markDirty s keys).clusters = s.clusters ∧ (State.markDirty s keys).job = s.job ∧
    (State.markDirty s keys).upd = s.upd ∧ (State.markDirty s keys).banks = s.banks ∧
    (State.markDirty s keys).limbers = s.limbers ∧ (State.markDirty s keys).stash = s.stash ∧
    (State.markDirty s keys).cow = s.cow ∧ (State.markDirty s keys).cxl = s.cxl ∧ (State.markDirty s keys).base = s.base ∧
    (State.markDirty s keys).spine = s.spine ∧ (State.markDirty s keys).skid = s.skid ∧ (State.markDirty s keys).net = s.net ∧
    (State.markDirty s keys).sync = s.sync ∧ (State.markDirty s keys).tally = s.tally ∧ (State.markDirty s keys).host = s.host ∧
    (State.markDirty s keys).ingest = s.ingest ∧ (State.markDirty s keys).snap = s.snap ∧
    (State.markDirty s keys).power = s.power ∧ (State.markDirty s keys).mem = s.mem ∧ (State.markDirty s keys).ctr = s.ctr ∧
    (State.markDirty s keys).out = s.out ∧ (State.markDirty s keys).free = s.free ∧ (State.markDirty s keys).pending = s.pending :=
  ⟨rfl, rfl, rfl, rfl, rfl, rfl, rfl, rfl, rfl, rfl, rfl, rfl, rfl, rfl, rfl, rfl, rfl, rfl, rfl, rfl, rfl, rfl, rfl, rfl, rfl, rfl, rfl, rfl⟩

@[simp] theorem State.markFirst_frame (s : State) (k : ℕ) (step : ℕ) :
    (State.markFirst s k step).time = s.time ∧ (State.markFirst s k step).start = s.start ∧
    (State.markFirst s k step).log = s.log ∧ (State.markFirst s k step).safe = s.safe ∧ (State.markFirst s k step).bg = s.bg ∧
    (State.markFirst s k step).stats = s.stats ∧ (State.markFirst s k step).clusters = s.clusters ∧
    (State.markFirst s k step).upd = s.upd ∧ (State.markFirst s k step).banks = s.banks ∧
    (State.markFirst s k step).limbers = s.limbers ∧ (State.markFirst s k step).stash = s.stash ∧
    (State.markFirst s k step).cow = s.cow ∧ (State.markFirst s k step).cxl = s.cxl ∧ (State.markFirst s k step).base = s.base ∧
    (State.markFirst s k step).spine = s.spine ∧ (State.markFirst s k step).skid = s.skid ∧
    (State.markFirst s k step).net = s.net ∧ (State.markFirst s k step).sync = s.sync ∧
    (State.markFirst s k step).tally = s.tally ∧ (State.markFirst s k step).host = s.host ∧
    (State.markFirst s k step).ingest = s.ingest ∧ (State.markFirst s k step).snap = s.snap ∧
    (State.markFirst s k step).power = s.power ∧ (State.markFirst s k step).mem = s.mem ∧
    (State.markFirst s k step).ctr = s.ctr ∧ (State.markFirst s k step).out = s.out ∧ (State.markFirst s k step).free = s.free ∧
    (State.markFirst s k step).pending = s.pending :=
  ⟨rfl, rfl, rfl, rfl, rfl, rfl, rfl, rfl, rfl, rfl, rfl, rfl, rfl, rfl, rfl, rfl, rfl, rfl, rfl, rfl, rfl, rfl, rfl, rfl, rfl, rfl, rfl, rfl⟩

@[simp] theorem State.markSpares_frame (s : State) (failed : List ℕ) :
    (State.markSpares s failed).time = s.time ∧ (State.markSpares s failed).log = s.log ∧
    (State.markSpares s failed).safe = s.safe ∧ (State.markSpares s failed).bg = s.bg ∧
    (State.markSpares s failed).stats = s.stats ∧ (State.markSpares s failed).clusters = s.clusters ∧
    (State.markSpares s failed).job = s.job ∧ (State.markSpares s failed).upd = s.upd ∧
    (State.markSpares s failed).banks = s.banks ∧ (State.markSpares s failed).limbers = s.limbers ∧
    (State.markSpares s failed).stash = s.stash ∧ (State.markSpares s failed).cow = s.cow ∧
    (State.markSpares s failed).cxl = s.cxl ∧ (State.markSpares s failed).base = s.base ∧
    (State.markSpares s failed).spine = s.spine ∧ (State.markSpares s failed).skid = s.skid ∧
    (State.markSpares s failed).net = s.net ∧ (State.markSpares s failed).sync = s.sync ∧
    (State.markSpares s failed).tally = s.tally ∧ (State.markSpares s failed).host = s.host ∧
    (State.markSpares s failed).ingest = s.ingest ∧ (State.markSpares s failed).snap = s.snap ∧
    (State.markSpares s failed).power = s.power ∧ (State.markSpares s failed).mem = s.mem ∧
    (State.markSpares s failed).ctr = s.ctr ∧ (State.markSpares s failed).out = s.out ∧
    (State.markSpares s failed).free = s.free ∧ (State.markSpares s failed).pending = s.pending :=
  ⟨rfl, rfl, rfl, rfl, rfl, rfl, rfl, rfl, rfl, rfl, rfl, rfl, rfl, rfl, rfl, rfl, rfl, rfl, rfl, rfl, rfl, rfl, rfl, rfl, rfl, rfl, rfl, rfl⟩

@[simp] theorem State.modBank_frame (s : State) (die : ℕ) (i : ℕ) (f : Bank → Bank) :
    (State.modBank s die i f).time = s.time ∧ (State.modBank s die i f).start = s.start ∧ (State.modBank s die i f).log = s.log ∧
    (State.modBank s die i f).safe = s.safe ∧ (State.modBank s die i f).bg = s.bg ∧ (State.modBank s die i f).stats = s.stats ∧
    (State.modBank s die i f).clusters = s.clusters ∧ (State.modBank s die i f).job = s.job ∧
    (State.modBank s die i f).upd = s.upd ∧ (State.modBank s die i f).limbers = s.limbers ∧
    (State.modBank s die i f).stash = s.stash ∧ (State.modBank s die i f).cow = s.cow ∧ (State.modBank s die i f).cxl = s.cxl ∧
    (State.modBank s die i f).base = s.base ∧ (State.modBank s die i f).spine = s.spine ∧
    (State.modBank s die i f).skid = s.skid ∧ (State.modBank s die i f).net = s.net ∧ (State.modBank s die i f).sync = s.sync ∧
    (State.modBank s die i f).tally = s.tally ∧ (State.modBank s die i f).host = s.host ∧
    (State.modBank s die i f).ingest = s.ingest ∧ (State.modBank s die i f).snap = s.snap ∧
    (State.modBank s die i f).power = s.power ∧ (State.modBank s die i f).mem = s.mem ∧ (State.modBank s die i f).ctr = s.ctr ∧
    (State.modBank s die i f).out = s.out ∧ (State.modBank s die i f).free = s.free ∧
    (State.modBank s die i f).pending = s.pending :=
  ⟨rfl, rfl, rfl, rfl, rfl, rfl, rfl, rfl, rfl, rfl, rfl, rfl, rfl, rfl, rfl, rfl, rfl, rfl, rfl, rfl, rfl, rfl, rfl, rfl, rfl, rfl, rfl, rfl⟩

@[simp] theorem State.modBase_frame (s : State) (m : ℕ) (f : BaseDie → BaseDie) :
    (State.modBase s m f).time = s.time ∧ (State.modBase s m f).start = s.start ∧ (State.modBase s m f).log = s.log ∧
    (State.modBase s m f).safe = s.safe ∧ (State.modBase s m f).bg = s.bg ∧ (State.modBase s m f).stats = s.stats ∧
    (State.modBase s m f).clusters = s.clusters ∧ (State.modBase s m f).job = s.job ∧ (State.modBase s m f).upd = s.upd ∧
    (State.modBase s m f).banks = s.banks ∧ (State.modBase s m f).limbers = s.limbers ∧ (State.modBase s m f).stash = s.stash ∧
    (State.modBase s m f).cow = s.cow ∧ (State.modBase s m f).cxl = s.cxl ∧ (State.modBase s m f).spine = s.spine ∧
    (State.modBase s m f).skid = s.skid ∧ (State.modBase s m f).net = s.net ∧ (State.modBase s m f).sync = s.sync ∧
    (State.modBase s m f).tally = s.tally ∧ (State.modBase s m f).host = s.host ∧ (State.modBase s m f).ingest = s.ingest ∧
    (State.modBase s m f).snap = s.snap ∧ (State.modBase s m f).power = s.power ∧ (State.modBase s m f).mem = s.mem ∧
    (State.modBase s m f).ctr = s.ctr ∧ (State.modBase s m f).out = s.out ∧ (State.modBase s m f).free = s.free ∧
    (State.modBase s m f).pending = s.pending :=
  ⟨rfl, rfl, rfl, rfl, rfl, rfl, rfl, rfl, rfl, rfl, rfl, rfl, rfl, rfl, rfl, rfl, rfl, rfl, rfl, rfl, rfl, rfl, rfl, rfl, rfl, rfl, rfl, rfl⟩

@[simp] theorem State.modCl_frame (s : State) (k : ℕ) (f : Cluster → Cluster) :
    (State.modCl s k f).time = s.time ∧ (State.modCl s k f).start = s.start ∧ (State.modCl s k f).log = s.log ∧
    (State.modCl s k f).safe = s.safe ∧ (State.modCl s k f).bg = s.bg ∧ (State.modCl s k f).stats = s.stats ∧
    (State.modCl s k f).job = s.job ∧ (State.modCl s k f).upd = s.upd ∧ (State.modCl s k f).banks = s.banks ∧
    (State.modCl s k f).limbers = s.limbers ∧ (State.modCl s k f).stash = s.stash ∧ (State.modCl s k f).cow = s.cow ∧
    (State.modCl s k f).cxl = s.cxl ∧ (State.modCl s k f).base = s.base ∧ (State.modCl s k f).spine = s.spine ∧
    (State.modCl s k f).skid = s.skid ∧ (State.modCl s k f).net = s.net ∧ (State.modCl s k f).sync = s.sync ∧
    (State.modCl s k f).tally = s.tally ∧ (State.modCl s k f).host = s.host ∧ (State.modCl s k f).ingest = s.ingest ∧
    (State.modCl s k f).snap = s.snap ∧ (State.modCl s k f).power = s.power ∧ (State.modCl s k f).mem = s.mem ∧
    (State.modCl s k f).ctr = s.ctr ∧ (State.modCl s k f).out = s.out ∧ (State.modCl s k f).free = s.free ∧
    (State.modCl s k f).pending = s.pending :=
  ⟨rfl, rfl, rfl, rfl, rfl, rfl, rfl, rfl, rfl, rfl, rfl, rfl, rfl, rfl, rfl, rfl, rfl, rfl, rfl, rfl, rfl, rfl, rfl, rfl, rfl, rfl, rfl, rfl⟩

@[simp] theorem State.modDevice_frame (s : State) (port : ℕ) (dev : ℕ) (f : CxlDevice → CxlDevice) :
    (State.modDevice s port dev f).time = s.time ∧ (State.modDevice s port dev f).start = s.start ∧
    (State.modDevice s port dev f).log = s.log ∧ (State.modDevice s port dev f).safe = s.safe ∧
    (State.modDevice s port dev f).bg = s.bg ∧ (State.modDevice s port dev f).stats = s.stats ∧
    (State.modDevice s port dev f).clusters = s.clusters ∧ (State.modDevice s port dev f).job = s.job ∧
    (State.modDevice s port dev f).upd = s.upd ∧ (State.modDevice s port dev f).banks = s.banks ∧
    (State.modDevice s port dev f).limbers = s.limbers ∧ (State.modDevice s port dev f).stash = s.stash ∧
    (State.modDevice s port dev f).cow = s.cow ∧ (State.modDevice s port dev f).base = s.base ∧
    (State.modDevice s port dev f).spine = s.spine ∧ (State.modDevice s port dev f).skid = s.skid ∧
    (State.modDevice s port dev f).net = s.net ∧ (State.modDevice s port dev f).sync = s.sync ∧
    (State.modDevice s port dev f).tally = s.tally ∧ (State.modDevice s port dev f).host = s.host ∧
    (State.modDevice s port dev f).ingest = s.ingest ∧ (State.modDevice s port dev f).snap = s.snap ∧
    (State.modDevice s port dev f).power = s.power ∧ (State.modDevice s port dev f).mem = s.mem ∧
    (State.modDevice s port dev f).ctr = s.ctr ∧ (State.modDevice s port dev f).out = s.out ∧
    (State.modDevice s port dev f).free = s.free ∧ (State.modDevice s port dev f).pending = s.pending :=
  ⟨rfl, rfl, rfl, rfl, rfl, rfl, rfl, rfl, rfl, rfl, rfl, rfl, rfl, rfl, rfl, rfl, rfl, rfl, rfl, rfl, rfl, rfl, rfl, rfl, rfl, rfl, rfl, rfl⟩

@[simp] theorem State.modFlow_frame (s : State) (id : ℕ) (f : Flow → Flow) :
    (State.modFlow s id f).time = s.time ∧ (State.modFlow s id f).start = s.start ∧ (State.modFlow s id f).log = s.log ∧
    (State.modFlow s id f).safe = s.safe ∧ (State.modFlow s id f).bg = s.bg ∧ (State.modFlow s id f).stats = s.stats ∧
    (State.modFlow s id f).clusters = s.clusters ∧ (State.modFlow s id f).job = s.job ∧ (State.modFlow s id f).upd = s.upd ∧
    (State.modFlow s id f).banks = s.banks ∧ (State.modFlow s id f).limbers = s.limbers ∧
    (State.modFlow s id f).stash = s.stash ∧ (State.modFlow s id f).cow = s.cow ∧ (State.modFlow s id f).cxl = s.cxl ∧
    (State.modFlow s id f).base = s.base ∧ (State.modFlow s id f).spine = s.spine ∧ (State.modFlow s id f).skid = s.skid ∧
    (State.modFlow s id f).net = s.net ∧ (State.modFlow s id f).sync = s.sync ∧ (State.modFlow s id f).tally = s.tally ∧
    (State.modFlow s id f).ingest = s.ingest ∧ (State.modFlow s id f).snap = s.snap ∧ (State.modFlow s id f).power = s.power ∧
    (State.modFlow s id f).mem = s.mem ∧ (State.modFlow s id f).ctr = s.ctr ∧ (State.modFlow s id f).out = s.out ∧
    (State.modFlow s id f).free = s.free ∧ (State.modFlow s id f).pending = s.pending :=
  ⟨rfl, rfl, rfl, rfl, rfl, rfl, rfl, rfl, rfl, rfl, rfl, rfl, rfl, rfl, rfl, rfl, rfl, rfl, rfl, rfl, rfl, rfl, rfl, rfl, rfl, rfl, rfl, rfl⟩

@[simp] theorem State.modFwSlot_frame (s : State) (n : ℕ) (f : FwSlot → FwSlot) :
    (State.modFwSlot s n f).time = s.time ∧ (State.modFwSlot s n f).log = s.log ∧ (State.modFwSlot s n f).safe = s.safe ∧
    (State.modFwSlot s n f).bg = s.bg ∧ (State.modFwSlot s n f).stats = s.stats ∧ (State.modFwSlot s n f).clusters = s.clusters ∧
    (State.modFwSlot s n f).job = s.job ∧ (State.modFwSlot s n f).upd = s.upd ∧ (State.modFwSlot s n f).banks = s.banks ∧
    (State.modFwSlot s n f).limbers = s.limbers ∧ (State.modFwSlot s n f).stash = s.stash ∧ (State.modFwSlot s n f).cow = s.cow ∧
    (State.modFwSlot s n f).cxl = s.cxl ∧ (State.modFwSlot s n f).base = s.base ∧ (State.modFwSlot s n f).spine = s.spine ∧
    (State.modFwSlot s n f).skid = s.skid ∧ (State.modFwSlot s n f).net = s.net ∧ (State.modFwSlot s n f).sync = s.sync ∧
    (State.modFwSlot s n f).tally = s.tally ∧ (State.modFwSlot s n f).host = s.host ∧ (State.modFwSlot s n f).ingest = s.ingest ∧
    (State.modFwSlot s n f).snap = s.snap ∧ (State.modFwSlot s n f).power = s.power ∧ (State.modFwSlot s n f).mem = s.mem ∧
    (State.modFwSlot s n f).ctr = s.ctr ∧ (State.modFwSlot s n f).out = s.out ∧ (State.modFwSlot s n f).free = s.free ∧
    (State.modFwSlot s n f).pending = s.pending :=
  ⟨rfl, rfl, rfl, rfl, rfl, rfl, rfl, rfl, rfl, rfl, rfl, rfl, rfl, rfl, rfl, rfl, rfl, rfl, rfl, rfl, rfl, rfl, rfl, rfl, rfl, rfl, rfl, rfl⟩

@[simp] theorem State.modInst_frame (s : State) (i : ℕ) (f : ClkInst → ClkInst) :
    (State.modInst s i f).time = s.time ∧ (State.modInst s i f).start = s.start ∧ (State.modInst s i f).log = s.log ∧
    (State.modInst s i f).safe = s.safe ∧ (State.modInst s i f).bg = s.bg ∧ (State.modInst s i f).stats = s.stats ∧
    (State.modInst s i f).clusters = s.clusters ∧ (State.modInst s i f).job = s.job ∧ (State.modInst s i f).upd = s.upd ∧
    (State.modInst s i f).banks = s.banks ∧ (State.modInst s i f).limbers = s.limbers ∧ (State.modInst s i f).stash = s.stash ∧
    (State.modInst s i f).cow = s.cow ∧ (State.modInst s i f).cxl = s.cxl ∧ (State.modInst s i f).base = s.base ∧
    (State.modInst s i f).spine = s.spine ∧ (State.modInst s i f).skid = s.skid ∧ (State.modInst s i f).net = s.net ∧
    (State.modInst s i f).sync = s.sync ∧ (State.modInst s i f).tally = s.tally ∧ (State.modInst s i f).host = s.host ∧
    (State.modInst s i f).ingest = s.ingest ∧ (State.modInst s i f).snap = s.snap ∧ (State.modInst s i f).mem = s.mem ∧
    (State.modInst s i f).ctr = s.ctr ∧ (State.modInst s i f).out = s.out ∧ (State.modInst s i f).free = s.free ∧
    (State.modInst s i f).pending = s.pending :=
  ⟨rfl, rfl, rfl, rfl, rfl, rfl, rfl, rfl, rfl, rfl, rfl, rfl, rfl, rfl, rfl, rfl, rfl, rfl, rfl, rfl, rfl, rfl, rfl, rfl, rfl, rfl, rfl, rfl⟩

@[simp] theorem State.modLimber_frame (s : State) (die : ℕ) (f : Limber → Limber) :
    (State.modLimber s die f).time = s.time ∧ (State.modLimber s die f).start = s.start ∧ (State.modLimber s die f).log = s.log ∧
    (State.modLimber s die f).safe = s.safe ∧ (State.modLimber s die f).bg = s.bg ∧ (State.modLimber s die f).stats = s.stats ∧
    (State.modLimber s die f).clusters = s.clusters ∧ (State.modLimber s die f).job = s.job ∧
    (State.modLimber s die f).upd = s.upd ∧ (State.modLimber s die f).banks = s.banks ∧
    (State.modLimber s die f).stash = s.stash ∧ (State.modLimber s die f).cow = s.cow ∧ (State.modLimber s die f).cxl = s.cxl ∧
    (State.modLimber s die f).base = s.base ∧ (State.modLimber s die f).spine = s.spine ∧
    (State.modLimber s die f).skid = s.skid ∧ (State.modLimber s die f).net = s.net ∧ (State.modLimber s die f).sync = s.sync ∧
    (State.modLimber s die f).tally = s.tally ∧ (State.modLimber s die f).host = s.host ∧
    (State.modLimber s die f).ingest = s.ingest ∧ (State.modLimber s die f).snap = s.snap ∧
    (State.modLimber s die f).power = s.power ∧ (State.modLimber s die f).mem = s.mem ∧ (State.modLimber s die f).ctr = s.ctr ∧
    (State.modLimber s die f).out = s.out ∧ (State.modLimber s die f).free = s.free ∧
    (State.modLimber s die f).pending = s.pending :=
  ⟨rfl, rfl, rfl, rfl, rfl, rfl, rfl, rfl, rfl, rfl, rfl, rfl, rfl, rfl, rfl, rfl, rfl, rfl, rfl, rfl, rfl, rfl, rfl, rfl, rfl, rfl, rfl, rfl⟩

@[simp] theorem State.modOwn_frame (s : State) (i : ℕ) (f : SnapSlot → SnapSlot) :
    (State.modOwn s i f).time = s.time ∧ (State.modOwn s i f).start = s.start ∧ (State.modOwn s i f).log = s.log ∧
    (State.modOwn s i f).safe = s.safe ∧ (State.modOwn s i f).bg = s.bg ∧ (State.modOwn s i f).stats = s.stats ∧
    (State.modOwn s i f).clusters = s.clusters ∧ (State.modOwn s i f).job = s.job ∧ (State.modOwn s i f).upd = s.upd ∧
    (State.modOwn s i f).banks = s.banks ∧ (State.modOwn s i f).limbers = s.limbers ∧ (State.modOwn s i f).stash = s.stash ∧
    (State.modOwn s i f).cow = s.cow ∧ (State.modOwn s i f).cxl = s.cxl ∧ (State.modOwn s i f).base = s.base ∧
    (State.modOwn s i f).spine = s.spine ∧ (State.modOwn s i f).skid = s.skid ∧ (State.modOwn s i f).net = s.net ∧
    (State.modOwn s i f).sync = s.sync ∧ (State.modOwn s i f).tally = s.tally ∧ (State.modOwn s i f).host = s.host ∧
    (State.modOwn s i f).ingest = s.ingest ∧ (State.modOwn s i f).power = s.power ∧ (State.modOwn s i f).mem = s.mem ∧
    (State.modOwn s i f).ctr = s.ctr ∧ (State.modOwn s i f).out = s.out ∧ (State.modOwn s i f).free = s.free ∧
    (State.modOwn s i f).pending = s.pending :=
  ⟨rfl, rfl, rfl, rfl, rfl, rfl, rfl, rfl, rfl, rfl, rfl, rfl, rfl, rfl, rfl, rfl, rfl, rfl, rfl, rfl, rfl, rfl, rfl, rfl, rfl, rfl, rfl, rfl⟩

@[simp] theorem State.modPartner_frame (s : State) (i : ℕ) (f : SnapSlot → SnapSlot) :
    (State.modPartner s i f).time = s.time ∧ (State.modPartner s i f).start = s.start ∧ (State.modPartner s i f).log = s.log ∧
    (State.modPartner s i f).safe = s.safe ∧ (State.modPartner s i f).bg = s.bg ∧ (State.modPartner s i f).stats = s.stats ∧
    (State.modPartner s i f).clusters = s.clusters ∧ (State.modPartner s i f).job = s.job ∧
    (State.modPartner s i f).upd = s.upd ∧ (State.modPartner s i f).banks = s.banks ∧
    (State.modPartner s i f).limbers = s.limbers ∧ (State.modPartner s i f).stash = s.stash ∧
    (State.modPartner s i f).cow = s.cow ∧ (State.modPartner s i f).cxl = s.cxl ∧ (State.modPartner s i f).base = s.base ∧
    (State.modPartner s i f).spine = s.spine ∧ (State.modPartner s i f).skid = s.skid ∧ (State.modPartner s i f).net = s.net ∧
    (State.modPartner s i f).sync = s.sync ∧ (State.modPartner s i f).tally = s.tally ∧ (State.modPartner s i f).host = s.host ∧
    (State.modPartner s i f).ingest = s.ingest ∧ (State.modPartner s i f).power = s.power ∧
    (State.modPartner s i f).mem = s.mem ∧ (State.modPartner s i f).ctr = s.ctr ∧ (State.modPartner s i f).out = s.out ∧
    (State.modPartner s i f).free = s.free ∧ (State.modPartner s i f).pending = s.pending :=
  ⟨rfl, rfl, rfl, rfl, rfl, rfl, rfl, rfl, rfl, rfl, rfl, rfl, rfl, rfl, rfl, rfl, rfl, rfl, rfl, rfl, rfl, rfl, rfl, rfl, rfl, rfl, rfl, rfl⟩

@[simp] theorem State.modPort_frame (s : State) (n : ℕ) (f : SkidPort → SkidPort) :
    (State.modPort s n f).time = s.time ∧ (State.modPort s n f).start = s.start ∧ (State.modPort s n f).log = s.log ∧
    (State.modPort s n f).safe = s.safe ∧ (State.modPort s n f).bg = s.bg ∧ (State.modPort s n f).stats = s.stats ∧
    (State.modPort s n f).clusters = s.clusters ∧ (State.modPort s n f).job = s.job ∧ (State.modPort s n f).upd = s.upd ∧
    (State.modPort s n f).banks = s.banks ∧ (State.modPort s n f).limbers = s.limbers ∧ (State.modPort s n f).stash = s.stash ∧
    (State.modPort s n f).cow = s.cow ∧ (State.modPort s n f).cxl = s.cxl ∧ (State.modPort s n f).base = s.base ∧
    (State.modPort s n f).spine = s.spine ∧ (State.modPort s n f).net = s.net ∧ (State.modPort s n f).sync = s.sync ∧
    (State.modPort s n f).tally = s.tally ∧ (State.modPort s n f).host = s.host ∧ (State.modPort s n f).ingest = s.ingest ∧
    (State.modPort s n f).snap = s.snap ∧ (State.modPort s n f).power = s.power ∧ (State.modPort s n f).mem = s.mem ∧
    (State.modPort s n f).ctr = s.ctr ∧ (State.modPort s n f).out = s.out ∧ (State.modPort s n f).free = s.free ∧
    (State.modPort s n f).pending = s.pending :=
  ⟨rfl, rfl, rfl, rfl, rfl, rfl, rfl, rfl, rfl, rfl, rfl, rfl, rfl, rfl, rfl, rfl, rfl, rfl, rfl, rfl, rfl, rfl, rfl, rfl, rfl, rfl, rfl, rfl⟩

@[simp] theorem State.modRestore_frame (s : State) (f : Restore → Restore) :
    (State.modRestore s f).time = s.time ∧ (State.modRestore s f).start = s.start ∧ (State.modRestore s f).log = s.log ∧
    (State.modRestore s f).safe = s.safe ∧ (State.modRestore s f).bg = s.bg ∧ (State.modRestore s f).stats = s.stats ∧
    (State.modRestore s f).clusters = s.clusters ∧ (State.modRestore s f).job = s.job ∧ (State.modRestore s f).upd = s.upd ∧
    (State.modRestore s f).banks = s.banks ∧ (State.modRestore s f).limbers = s.limbers ∧
    (State.modRestore s f).stash = s.stash ∧ (State.modRestore s f).cow = s.cow ∧ (State.modRestore s f).cxl = s.cxl ∧
    (State.modRestore s f).base = s.base ∧ (State.modRestore s f).spine = s.spine ∧ (State.modRestore s f).skid = s.skid ∧
    (State.modRestore s f).net = s.net ∧ (State.modRestore s f).sync = s.sync ∧ (State.modRestore s f).tally = s.tally ∧
    (State.modRestore s f).host = s.host ∧ (State.modRestore s f).ingest = s.ingest ∧ (State.modRestore s f).power = s.power ∧
    (State.modRestore s f).mem = s.mem ∧ (State.modRestore s f).ctr = s.ctr ∧ (State.modRestore s f).out = s.out ∧
    (State.modRestore s f).free = s.free ∧ (State.modRestore s f).pending = s.pending :=
  ⟨rfl, rfl, rfl, rfl, rfl, rfl, rfl, rfl, rfl, rfl, rfl, rfl, rfl, rfl, rfl, rfl, rfl, rfl, rfl, rfl, rfl, rfl, rfl, rfl, rfl, rfl, rfl, rfl⟩

@[simp] theorem State.modSession_frame (s : State) (id : ℕ) (f : Session → Session) :
    (State.modSession s id f).time = s.time ∧ (State.modSession s id f).start = s.start ∧ (State.modSession s id f).log = s.log ∧
    (State.modSession s id f).safe = s.safe ∧ (State.modSession s id f).bg = s.bg ∧ (State.modSession s id f).stats = s.stats ∧
    (State.modSession s id f).clusters = s.clusters ∧ (State.modSession s id f).job = s.job ∧
    (State.modSession s id f).upd = s.upd ∧ (State.modSession s id f).banks = s.banks ∧
    (State.modSession s id f).limbers = s.limbers ∧ (State.modSession s id f).stash = s.stash ∧
    (State.modSession s id f).cow = s.cow ∧ (State.modSession s id f).cxl = s.cxl ∧ (State.modSession s id f).base = s.base ∧
    (State.modSession s id f).spine = s.spine ∧ (State.modSession s id f).skid = s.skid ∧ (State.modSession s id f).net = s.net ∧
    (State.modSession s id f).sync = s.sync ∧ (State.modSession s id f).tally = s.tally ∧
    (State.modSession s id f).ingest = s.ingest ∧ (State.modSession s id f).snap = s.snap ∧
    (State.modSession s id f).power = s.power ∧ (State.modSession s id f).mem = s.mem ∧ (State.modSession s id f).ctr = s.ctr ∧
    (State.modSession s id f).out = s.out ∧ (State.modSession s id f).free = s.free ∧
    (State.modSession s id f).pending = s.pending :=
  ⟨rfl, rfl, rfl, rfl, rfl, rfl, rfl, rfl, rfl, rfl, rfl, rfl, rfl, rfl, rfl, rfl, rfl, rfl, rfl, rfl, rfl, rfl, rfl, rfl, rfl, rfl, rfl, rfl⟩

@[simp] theorem State.modSpine_frame (s : State) (k : ℕ) (f : Spine → Spine) :
    (State.modSpine s k f).time = s.time ∧ (State.modSpine s k f).start = s.start ∧ (State.modSpine s k f).log = s.log ∧
    (State.modSpine s k f).safe = s.safe ∧ (State.modSpine s k f).bg = s.bg ∧ (State.modSpine s k f).stats = s.stats ∧
    (State.modSpine s k f).clusters = s.clusters ∧ (State.modSpine s k f).job = s.job ∧ (State.modSpine s k f).upd = s.upd ∧
    (State.modSpine s k f).banks = s.banks ∧ (State.modSpine s k f).limbers = s.limbers ∧
    (State.modSpine s k f).stash = s.stash ∧ (State.modSpine s k f).cow = s.cow ∧ (State.modSpine s k f).cxl = s.cxl ∧
    (State.modSpine s k f).base = s.base ∧ (State.modSpine s k f).skid = s.skid ∧ (State.modSpine s k f).net = s.net ∧
    (State.modSpine s k f).sync = s.sync ∧ (State.modSpine s k f).tally = s.tally ∧ (State.modSpine s k f).host = s.host ∧
    (State.modSpine s k f).ingest = s.ingest ∧ (State.modSpine s k f).snap = s.snap ∧ (State.modSpine s k f).power = s.power ∧
    (State.modSpine s k f).mem = s.mem ∧ (State.modSpine s k f).ctr = s.ctr ∧ (State.modSpine s k f).out = s.out ∧
    (State.modSpine s k f).free = s.free ∧ (State.modSpine s k f).pending = s.pending :=
  ⟨rfl, rfl, rfl, rfl, rfl, rfl, rfl, rfl, rfl, rfl, rfl, rfl, rfl, rfl, rfl, rfl, rfl, rfl, rfl, rfl, rfl, rfl, rfl, rfl, rfl, rfl, rfl, rfl⟩

@[simp] theorem State.modStand_frame (s : State) (st : ℕ) (f : Stand → Stand) :
    (State.modStand s st f).time = s.time ∧ (State.modStand s st f).start = s.start ∧ (State.modStand s st f).log = s.log ∧
    (State.modStand s st f).safe = s.safe ∧ (State.modStand s st f).bg = s.bg ∧ (State.modStand s st f).stats = s.stats ∧
    (State.modStand s st f).clusters = s.clusters ∧ (State.modStand s st f).job = s.job ∧ (State.modStand s st f).upd = s.upd ∧
    (State.modStand s st f).banks = s.banks ∧ (State.modStand s st f).limbers = s.limbers ∧
    (State.modStand s st f).stash = s.stash ∧ (State.modStand s st f).cow = s.cow ∧ (State.modStand s st f).cxl = s.cxl ∧
    (State.modStand s st f).base = s.base ∧ (State.modStand s st f).spine = s.spine ∧ (State.modStand s st f).skid = s.skid ∧
    (State.modStand s st f).net = s.net ∧ (State.modStand s st f).sync = s.sync ∧ (State.modStand s st f).tally = s.tally ∧
    (State.modStand s st f).host = s.host ∧ (State.modStand s st f).snap = s.snap ∧ (State.modStand s st f).power = s.power ∧
    (State.modStand s st f).mem = s.mem ∧ (State.modStand s st f).ctr = s.ctr ∧ (State.modStand s st f).out = s.out ∧
    (State.modStand s st f).free = s.free ∧ (State.modStand s st f).pending = s.pending :=
  ⟨rfl, rfl, rfl, rfl, rfl, rfl, rfl, rfl, rfl, rfl, rfl, rfl, rfl, rfl, rfl, rfl, rfl, rfl, rfl, rfl, rfl, rfl, rfl, rfl, rfl, rfl, rfl, rfl⟩

@[simp] theorem State.modStats_frame (s : State) (step : ℕ) (f : StepStats → StepStats) :
    (State.modStats s step f).time = s.time ∧ (State.modStats s step f).start = s.start ∧ (State.modStats s step f).log = s.log ∧
    (State.modStats s step f).safe = s.safe ∧ (State.modStats s step f).bg = s.bg ∧
    (State.modStats s step f).clusters = s.clusters ∧ (State.modStats s step f).job = s.job ∧
    (State.modStats s step f).upd = s.upd ∧ (State.modStats s step f).banks = s.banks ∧
    (State.modStats s step f).limbers = s.limbers ∧ (State.modStats s step f).stash = s.stash ∧
    (State.modStats s step f).cow = s.cow ∧ (State.modStats s step f).cxl = s.cxl ∧ (State.modStats s step f).base = s.base ∧
    (State.modStats s step f).spine = s.spine ∧ (State.modStats s step f).skid = s.skid ∧ (State.modStats s step f).net = s.net ∧
    (State.modStats s step f).sync = s.sync ∧ (State.modStats s step f).tally = s.tally ∧
    (State.modStats s step f).host = s.host ∧ (State.modStats s step f).ingest = s.ingest ∧
    (State.modStats s step f).snap = s.snap ∧ (State.modStats s step f).power = s.power ∧ (State.modStats s step f).mem = s.mem ∧
    (State.modStats s step f).ctr = s.ctr ∧ (State.modStats s step f).out = s.out ∧ (State.modStats s step f).free = s.free ∧
    (State.modStats s step f).pending = s.pending :=
  ⟨rfl, rfl, rfl, rfl, rfl, rfl, rfl, rfl, rfl, rfl, rfl, rfl, rfl, rfl, rfl, rfl, rfl, rfl, rfl, rfl, rfl, rfl, rfl, rfl, rfl, rfl, rfl, rfl⟩

@[simp] theorem State.modStep_frame (s : State) (k : ℕ) (f : StepRec → StepRec) :
    (State.modStep s k f).time = s.time ∧ (State.modStep s k f).start = s.start ∧ (State.modStep s k f).log = s.log ∧
    (State.modStep s k f).safe = s.safe ∧ (State.modStep s k f).bg = s.bg ∧ (State.modStep s k f).stats = s.stats ∧
    (State.modStep s k f).clusters = s.clusters ∧ (State.modStep s k f).upd = s.upd ∧ (State.modStep s k f).banks = s.banks ∧
    (State.modStep s k f).limbers = s.limbers ∧ (State.modStep s k f).stash = s.stash ∧ (State.modStep s k f).cow = s.cow ∧
    (State.modStep s k f).cxl = s.cxl ∧ (State.modStep s k f).base = s.base ∧ (State.modStep s k f).spine = s.spine ∧
    (State.modStep s k f).skid = s.skid ∧ (State.modStep s k f).net = s.net ∧ (State.modStep s k f).sync = s.sync ∧
    (State.modStep s k f).tally = s.tally ∧ (State.modStep s k f).host = s.host ∧ (State.modStep s k f).ingest = s.ingest ∧
    (State.modStep s k f).snap = s.snap ∧ (State.modStep s k f).power = s.power ∧ (State.modStep s k f).mem = s.mem ∧
    (State.modStep s k f).ctr = s.ctr ∧ (State.modStep s k f).out = s.out ∧ (State.modStep s k f).free = s.free ∧
    (State.modStep s k f).pending = s.pending :=
  ⟨rfl, rfl, rfl, rfl, rfl, rfl, rfl, rfl, rfl, rfl, rfl, rfl, rfl, rfl, rfl, rfl, rfl, rfl, rfl, rfl, rfl, rfl, rfl, rfl, rfl, rfl, rfl, rfl⟩

@[simp] theorem State.nextFree_frame (s : State) :
    (State.nextFree s).time = s.time ∧ (State.nextFree s).start = s.start ∧ (State.nextFree s).log = s.log ∧
    (State.nextFree s).safe = s.safe ∧ (State.nextFree s).bg = s.bg ∧ (State.nextFree s).stats = s.stats ∧
    (State.nextFree s).clusters = s.clusters ∧ (State.nextFree s).job = s.job ∧ (State.nextFree s).upd = s.upd ∧
    (State.nextFree s).banks = s.banks ∧ (State.nextFree s).limbers = s.limbers ∧ (State.nextFree s).stash = s.stash ∧
    (State.nextFree s).cow = s.cow ∧ (State.nextFree s).cxl = s.cxl ∧ (State.nextFree s).base = s.base ∧
    (State.nextFree s).spine = s.spine ∧ (State.nextFree s).skid = s.skid ∧ (State.nextFree s).net = s.net ∧
    (State.nextFree s).sync = s.sync ∧ (State.nextFree s).tally = s.tally ∧ (State.nextFree s).host = s.host ∧
    (State.nextFree s).ingest = s.ingest ∧ (State.nextFree s).snap = s.snap ∧ (State.nextFree s).power = s.power ∧
    (State.nextFree s).mem = s.mem ∧ (State.nextFree s).ctr = s.ctr ∧ (State.nextFree s).out = s.out ∧
    (State.nextFree s).pending = s.pending :=
  ⟨rfl, rfl, rfl, rfl, rfl, rfl, rfl, rfl, rfl, rfl, rfl, rfl, rfl, rfl, rfl, rfl, rfl, rfl, rfl, rfl, rfl, rfl, rfl, rfl, rfl, rfl, rfl, rfl⟩

@[simp] theorem State.noEntries_frame (s : State) :
    (State.noEntries s).time = s.time ∧ (State.noEntries s).log = s.log ∧ (State.noEntries s).safe = s.safe ∧
    (State.noEntries s).bg = s.bg ∧ (State.noEntries s).stats = s.stats ∧ (State.noEntries s).clusters = s.clusters ∧
    (State.noEntries s).job = s.job ∧ (State.noEntries s).upd = s.upd ∧ (State.noEntries s).banks = s.banks ∧
    (State.noEntries s).limbers = s.limbers ∧ (State.noEntries s).stash = s.stash ∧ (State.noEntries s).cow = s.cow ∧
    (State.noEntries s).cxl = s.cxl ∧ (State.noEntries s).base = s.base ∧ (State.noEntries s).spine = s.spine ∧
    (State.noEntries s).skid = s.skid ∧ (State.noEntries s).net = s.net ∧ (State.noEntries s).sync = s.sync ∧
    (State.noEntries s).tally = s.tally ∧ (State.noEntries s).host = s.host ∧ (State.noEntries s).ingest = s.ingest ∧
    (State.noEntries s).snap = s.snap ∧ (State.noEntries s).power = s.power ∧ (State.noEntries s).mem = s.mem ∧
    (State.noEntries s).ctr = s.ctr ∧ (State.noEntries s).out = s.out ∧ (State.noEntries s).free = s.free ∧
    (State.noEntries s).pending = s.pending :=
  ⟨rfl, rfl, rfl, rfl, rfl, rfl, rfl, rfl, rfl, rfl, rfl, rfl, rfl, rfl, rfl, rfl, rfl, rfl, rfl, rfl, rfl, rfl, rfl, rfl, rfl, rfl, rfl, rfl⟩

@[simp] theorem State.noteInputs_frame (s : State) (main : ℕ) (backup : ℕ) :
    (State.noteInputs s main backup).time = s.time ∧ (State.noteInputs s main backup).start = s.start ∧
    (State.noteInputs s main backup).log = s.log ∧ (State.noteInputs s main backup).safe = s.safe ∧
    (State.noteInputs s main backup).bg = s.bg ∧ (State.noteInputs s main backup).stats = s.stats ∧
    (State.noteInputs s main backup).clusters = s.clusters ∧ (State.noteInputs s main backup).job = s.job ∧
    (State.noteInputs s main backup).upd = s.upd ∧ (State.noteInputs s main backup).banks = s.banks ∧
    (State.noteInputs s main backup).limbers = s.limbers ∧ (State.noteInputs s main backup).stash = s.stash ∧
    (State.noteInputs s main backup).cow = s.cow ∧ (State.noteInputs s main backup).cxl = s.cxl ∧
    (State.noteInputs s main backup).base = s.base ∧ (State.noteInputs s main backup).spine = s.spine ∧
    (State.noteInputs s main backup).skid = s.skid ∧ (State.noteInputs s main backup).net = s.net ∧
    (State.noteInputs s main backup).sync = s.sync ∧ (State.noteInputs s main backup).tally = s.tally ∧
    (State.noteInputs s main backup).host = s.host ∧ (State.noteInputs s main backup).ingest = s.ingest ∧
    (State.noteInputs s main backup).snap = s.snap ∧ (State.noteInputs s main backup).mem = s.mem ∧
    (State.noteInputs s main backup).ctr = s.ctr ∧ (State.noteInputs s main backup).out = s.out ∧
    (State.noteInputs s main backup).free = s.free ∧ (State.noteInputs s main backup).pending = s.pending :=
  ⟨rfl, rfl, rfl, rfl, rfl, rfl, rfl, rfl, rfl, rfl, rfl, rfl, rfl, rfl, rfl, rfl, rfl, rfl, rfl, rfl, rfl, rfl, rfl, rfl, rfl, rfl, rfl, rfl⟩

@[simp] theorem State.noteTemp_frame (s : State) (sensor : ℕ) (t : ℕ) :
    (State.noteTemp s sensor t).time = s.time ∧ (State.noteTemp s sensor t).start = s.start ∧
    (State.noteTemp s sensor t).log = s.log ∧ (State.noteTemp s sensor t).safe = s.safe ∧ (State.noteTemp s sensor t).bg = s.bg ∧
    (State.noteTemp s sensor t).stats = s.stats ∧ (State.noteTemp s sensor t).clusters = s.clusters ∧
    (State.noteTemp s sensor t).job = s.job ∧ (State.noteTemp s sensor t).upd = s.upd ∧
    (State.noteTemp s sensor t).banks = s.banks ∧ (State.noteTemp s sensor t).limbers = s.limbers ∧
    (State.noteTemp s sensor t).stash = s.stash ∧ (State.noteTemp s sensor t).cow = s.cow ∧
    (State.noteTemp s sensor t).cxl = s.cxl ∧ (State.noteTemp s sensor t).base = s.base ∧
    (State.noteTemp s sensor t).spine = s.spine ∧ (State.noteTemp s sensor t).skid = s.skid ∧
    (State.noteTemp s sensor t).net = s.net ∧ (State.noteTemp s sensor t).sync = s.sync ∧
    (State.noteTemp s sensor t).tally = s.tally ∧ (State.noteTemp s sensor t).host = s.host ∧
    (State.noteTemp s sensor t).ingest = s.ingest ∧ (State.noteTemp s sensor t).snap = s.snap ∧
    (State.noteTemp s sensor t).mem = s.mem ∧ (State.noteTemp s sensor t).ctr = s.ctr ∧ (State.noteTemp s sensor t).out = s.out ∧
    (State.noteTemp s sensor t).free = s.free ∧ (State.noteTemp s sensor t).pending = s.pending :=
  ⟨rfl, rfl, rfl, rfl, rfl, rfl, rfl, rfl, rfl, rfl, rfl, rfl, rfl, rfl, rfl, rfl, rfl, rfl, rfl, rfl, rfl, rfl, rfl, rfl, rfl, rfl, rfl, rfl⟩

@[simp] theorem State.noteWithdrawn_frame (s : State) (k : ℕ) (m : ℕ) :
    (State.noteWithdrawn s k m).time = s.time ∧ (State.noteWithdrawn s k m).start = s.start ∧
    (State.noteWithdrawn s k m).log = s.log ∧ (State.noteWithdrawn s k m).safe = s.safe ∧ (State.noteWithdrawn s k m).bg = s.bg ∧
    (State.noteWithdrawn s k m).stats = s.stats ∧ (State.noteWithdrawn s k m).clusters = s.clusters ∧
    (State.noteWithdrawn s k m).job = s.job ∧ (State.noteWithdrawn s k m).banks = s.banks ∧
    (State.noteWithdrawn s k m).limbers = s.limbers ∧ (State.noteWithdrawn s k m).stash = s.stash ∧
    (State.noteWithdrawn s k m).cow = s.cow ∧ (State.noteWithdrawn s k m).cxl = s.cxl ∧
    (State.noteWithdrawn s k m).base = s.base ∧ (State.noteWithdrawn s k m).spine = s.spine ∧
    (State.noteWithdrawn s k m).skid = s.skid ∧ (State.noteWithdrawn s k m).net = s.net ∧
    (State.noteWithdrawn s k m).sync = s.sync ∧ (State.noteWithdrawn s k m).tally = s.tally ∧
    (State.noteWithdrawn s k m).host = s.host ∧ (State.noteWithdrawn s k m).ingest = s.ingest ∧
    (State.noteWithdrawn s k m).snap = s.snap ∧ (State.noteWithdrawn s k m).power = s.power ∧
    (State.noteWithdrawn s k m).mem = s.mem ∧ (State.noteWithdrawn s k m).ctr = s.ctr ∧ (State.noteWithdrawn s k m).out = s.out ∧
    (State.noteWithdrawn s k m).free = s.free ∧ (State.noteWithdrawn s k m).pending = s.pending :=
  ⟨rfl, rfl, rfl, rfl, rfl, rfl, rfl, rfl, rfl, rfl, rfl, rfl, rfl, rfl, rfl, rfl, rfl, rfl, rfl, rfl, rfl, rfl, rfl, rfl, rfl, rfl, rfl, rfl⟩

@[simp] theorem State.openBuffers_frame (s : State) (k : ℕ) :
    (State.openBuffers s k).time = s.time ∧ (State.openBuffers s k).start = s.start ∧ (State.openBuffers s k).log = s.log ∧
    (State.openBuffers s k).safe = s.safe ∧ (State.openBuffers s k).bg = s.bg ∧ (State.openBuffers s k).stats = s.stats ∧
    (State.openBuffers s k).clusters = s.clusters ∧ (State.openBuffers s k).job = s.job ∧
    (State.openBuffers s k).banks = s.banks ∧ (State.openBuffers s k).limbers = s.limbers ∧
    (State.openBuffers s k).stash = s.stash ∧ (State.openBuffers s k).cow = s.cow ∧ (State.openBuffers s k).cxl = s.cxl ∧
    (State.openBuffers s k).base = s.base ∧ (State.openBuffers s k).spine = s.spine ∧ (State.openBuffers s k).skid = s.skid ∧
    (State.openBuffers s k).net = s.net ∧ (State.openBuffers s k).sync = s.sync ∧ (State.openBuffers s k).tally = s.tally ∧
    (State.openBuffers s k).host = s.host ∧ (State.openBuffers s k).ingest = s.ingest ∧ (State.openBuffers s k).snap = s.snap ∧
    (State.openBuffers s k).power = s.power ∧ (State.openBuffers s k).mem = s.mem ∧ (State.openBuffers s k).ctr = s.ctr ∧
    (State.openBuffers s k).out = s.out ∧ (State.openBuffers s k).free = s.free ∧ (State.openBuffers s k).pending = s.pending :=
  ⟨rfl, rfl, rfl, rfl, rfl, rfl, rfl, rfl, rfl, rfl, rfl, rfl, rfl, rfl, rfl, rfl, rfl, rfl, rfl, rfl, rfl, rfl, rfl, rfl, rfl, rfl, rfl, rfl⟩

@[simp] theorem State.popped_frame (s : State) (rest : List Instr) :
    (State.popped s rest).time = s.time ∧ (State.popped s rest).start = s.start ∧ (State.popped s rest).log = s.log ∧
    (State.popped s rest).safe = s.safe ∧ (State.popped s rest).bg = s.bg ∧ (State.popped s rest).stats = s.stats ∧
    (State.popped s rest).clusters = s.clusters ∧ (State.popped s rest).job = s.job ∧ (State.popped s rest).upd = s.upd ∧
    (State.popped s rest).banks = s.banks ∧ (State.popped s rest).limbers = s.limbers ∧ (State.popped s rest).stash = s.stash ∧
    (State.popped s rest).cow = s.cow ∧ (State.popped s rest).cxl = s.cxl ∧ (State.popped s rest).base = s.base ∧
    (State.popped s rest).spine = s.spine ∧ (State.popped s rest).skid = s.skid ∧ (State.popped s rest).net = s.net ∧
    (State.popped s rest).sync = s.sync ∧ (State.popped s rest).tally = s.tally ∧ (State.popped s rest).host = s.host ∧
    (State.popped s rest).ingest = s.ingest ∧ (State.popped s rest).snap = s.snap ∧ (State.popped s rest).power = s.power ∧
    (State.popped s rest).mem = s.mem ∧ (State.popped s rest).ctr = s.ctr ∧ (State.popped s rest).out = s.out ∧
    (State.popped s rest).free = s.free :=
  ⟨rfl, rfl, rfl, rfl, rfl, rfl, rfl, rfl, rfl, rfl, rfl, rfl, rfl, rfl, rfl, rfl, rfl, rfl, rfl, rfl, rfl, rfl, rfl, rfl, rfl, rfl, rfl, rfl⟩

@[simp] theorem State.putValue_frame (s : State) (key : ℕ) (v : Bytes) (persistent : Bool) :
    (State.putValue s key v persistent).time = s.time ∧ (State.putValue s key v persistent).log = s.log ∧
    (State.putValue s key v persistent).safe = s.safe ∧ (State.putValue s key v persistent).bg = s.bg ∧
    (State.putValue s key v persistent).stats = s.stats ∧ (State.putValue s key v persistent).clusters = s.clusters ∧
    (State.putValue s key v persistent).job = s.job ∧ (State.putValue s key v persistent).upd = s.upd ∧
    (State.putValue s key v persistent).banks = s.banks ∧ (State.putValue s key v persistent).limbers = s.limbers ∧
    (State.putValue s key v persistent).stash = s.stash ∧ (State.putValue s key v persistent).cow = s.cow ∧
    (State.putValue s key v persistent).cxl = s.cxl ∧ (State.putValue s key v persistent).base = s.base ∧
    (State.putValue s key v persistent).spine = s.spine ∧ (State.putValue s key v persistent).skid = s.skid ∧
    (State.putValue s key v persistent).net = s.net ∧ (State.putValue s key v persistent).sync = s.sync ∧
    (State.putValue s key v persistent).host = s.host ∧ (State.putValue s key v persistent).ingest = s.ingest ∧
    (State.putValue s key v persistent).snap = s.snap ∧ (State.putValue s key v persistent).power = s.power ∧
    (State.putValue s key v persistent).mem = s.mem ∧ (State.putValue s key v persistent).ctr = s.ctr ∧
    (State.putValue s key v persistent).out = s.out ∧ (State.putValue s key v persistent).free = s.free ∧
    (State.putValue s key v persistent).pending = s.pending :=
  ⟨rfl, rfl, rfl, rfl, rfl, rfl, rfl, rfl, rfl, rfl, rfl, rfl, rfl, rfl, rfl, rfl, rfl, rfl, rfl, rfl, rfl, rfl, rfl, rfl, rfl, rfl, rfl⟩

@[simp] theorem State.releaseHeld_frame (s : State) (p : ℕ) :
    (State.releaseHeld s p).time = s.time ∧ (State.releaseHeld s p).start = s.start ∧ (State.releaseHeld s p).log = s.log ∧
    (State.releaseHeld s p).safe = s.safe ∧ (State.releaseHeld s p).bg = s.bg ∧ (State.releaseHeld s p).stats = s.stats ∧
    (State.releaseHeld s p).clusters = s.clusters ∧ (State.releaseHeld s p).job = s.job ∧ (State.releaseHeld s p).upd = s.upd ∧
    (State.releaseHeld s p).banks = s.banks ∧ (State.releaseHeld s p).limbers = s.limbers ∧
    (State.releaseHeld s p).stash = s.stash ∧ (State.releaseHeld s p).cxl = s.cxl ∧ (State.releaseHeld s p).base = s.base ∧
    (State.releaseHeld s p).spine = s.spine ∧ (State.releaseHeld s p).skid = s.skid ∧ (State.releaseHeld s p).net = s.net ∧
    (State.releaseHeld s p).sync = s.sync ∧ (State.releaseHeld s p).tally = s.tally ∧ (State.releaseHeld s p).host = s.host ∧
    (State.releaseHeld s p).ingest = s.ingest ∧ (State.releaseHeld s p).snap = s.snap ∧ (State.releaseHeld s p).power = s.power ∧
    (State.releaseHeld s p).ctr = s.ctr ∧ (State.releaseHeld s p).out = s.out ∧ (State.releaseHeld s p).free = s.free ∧
    (State.releaseHeld s p).pending = s.pending :=
  ⟨rfl, rfl, rfl, rfl, rfl, rfl, rfl, rfl, rfl, rfl, rfl, rfl, rfl, rfl, rfl, rfl, rfl, rfl, rfl, rfl, rfl, rfl, rfl, rfl, rfl, rfl, rfl⟩

@[simp] theorem State.restartAcquisition_frame (s : State) (domain : Bool) :
    (State.restartAcquisition s domain).start = s.start ∧ (State.restartAcquisition s domain).log = s.log ∧
    (State.restartAcquisition s domain).safe = s.safe ∧ (State.restartAcquisition s domain).bg = s.bg ∧
    (State.restartAcquisition s domain).stats = s.stats ∧ (State.restartAcquisition s domain).clusters = s.clusters ∧
    (State.restartAcquisition s domain).job = s.job ∧ (State.restartAcquisition s domain).upd = s.upd ∧
    (State.restartAcquisition s domain).banks = s.banks ∧ (State.restartAcquisition s domain).limbers = s.limbers ∧
    (State.restartAcquisition s domain).stash = s.stash ∧ (State.restartAcquisition s domain).cow = s.cow ∧
    (State.restartAcquisition s domain).cxl = s.cxl ∧ (State.restartAcquisition s domain).base = s.base ∧
    (State.restartAcquisition s domain).spine = s.spine ∧ (State.restartAcquisition s domain).skid = s.skid ∧
    (State.restartAcquisition s domain).net = s.net ∧ (State.restartAcquisition s domain).sync = s.sync ∧
    (State.restartAcquisition s domain).tally = s.tally ∧ (State.restartAcquisition s domain).host = s.host ∧
    (State.restartAcquisition s domain).ingest = s.ingest ∧ (State.restartAcquisition s domain).snap = s.snap ∧
    (State.restartAcquisition s domain).power = s.power ∧ (State.restartAcquisition s domain).mem = s.mem ∧
    (State.restartAcquisition s domain).ctr = s.ctr ∧ (State.restartAcquisition s domain).out = s.out ∧
    (State.restartAcquisition s domain).free = s.free ∧ (State.restartAcquisition s domain).pending = s.pending :=
  ⟨rfl, rfl, rfl, rfl, rfl, rfl, rfl, rfl, rfl, rfl, rfl, rfl, rfl, rfl, rfl, rfl, rfl, rfl, rfl, rfl, rfl, rfl, rfl, rfl, rfl, rfl, rfl, rfl⟩

@[simp] theorem State.restarted_frame (s : State) (stage : ℕ) (cause : ℕ) (powered : Bool) :
    (State.restarted s stage cause powered).out = s.out ∧ (State.restarted s stage cause powered).free = s.free ∧
    (State.restarted s stage cause powered).pending = s.pending :=
  ⟨rfl, rfl, rfl⟩

@[simp] theorem State.restoreValues_frame (s : State) (rw : List (ℕ × Bytes)) (active : List (ℕ × Bytes)) :
    (State.restoreValues s rw active).time = s.time ∧ (State.restoreValues s rw active).start = s.start ∧
    (State.restoreValues s rw active).log = s.log ∧ (State.restoreValues s rw active).safe = s.safe ∧
    (State.restoreValues s rw active).bg = s.bg ∧ (State.restoreValues s rw active).stats = s.stats ∧
    (State.restoreValues s rw active).clusters = s.clusters ∧ (State.restoreValues s rw active).job = s.job ∧
    (State.restoreValues s rw active).upd = s.upd ∧ (State.restoreValues s rw active).banks = s.banks ∧
    (State.restoreValues s rw active).limbers = s.limbers ∧ (State.restoreValues s rw active).stash = s.stash ∧
    (State.restoreValues s rw active).cow = s.cow ∧ (State.restoreValues s rw active).cxl = s.cxl ∧
    (State.restoreValues s rw active).base = s.base ∧ (State.restoreValues s rw active).spine = s.spine ∧
    (State.restoreValues s rw active).skid = s.skid ∧ (State.restoreValues s rw active).net = s.net ∧
    (State.restoreValues s rw active).sync = s.sync ∧ (State.restoreValues s rw active).host = s.host ∧
    (State.restoreValues s rw active).ingest = s.ingest ∧ (State.restoreValues s rw active).snap = s.snap ∧
    (State.restoreValues s rw active).power = s.power ∧ (State.restoreValues s rw active).mem = s.mem ∧
    (State.restoreValues s rw active).ctr = s.ctr ∧ (State.restoreValues s rw active).out = s.out ∧
    (State.restoreValues s rw active).free = s.free ∧ (State.restoreValues s rw active).pending = s.pending :=
  ⟨rfl, rfl, rfl, rfl, rfl, rfl, rfl, rfl, rfl, rfl, rfl, rfl, rfl, rfl, rfl, rfl, rfl, rfl, rfl, rfl, rfl, rfl, rfl, rfl, rfl, rfl, rfl, rfl⟩

@[simp] theorem State.setBounds_frame (s : State) (st : ℕ) (k : ℕ) (g : ℕ) (d : Bytes) :
    (State.setBounds s st k g d).time = s.time ∧ (State.setBounds s st k g d).start = s.start ∧
    (State.setBounds s st k g d).log = s.log ∧ (State.setBounds s st k g d).safe = s.safe ∧
    (State.setBounds s st k g d).bg = s.bg ∧ (State.setBounds s st k g d).stats = s.stats ∧
    (State.setBounds s st k g d).clusters = s.clusters ∧ (State.setBounds s st k g d).job = s.job ∧
    (State.setBounds s st k g d).upd = s.upd ∧ (State.setBounds s st k g d).banks = s.banks ∧
    (State.setBounds s st k g d).limbers = s.limbers ∧ (State.setBounds s st k g d).stash = s.stash ∧
    (State.setBounds s st k g d).cow = s.cow ∧ (State.setBounds s st k g d).cxl = s.cxl ∧
    (State.setBounds s st k g d).base = s.base ∧ (State.setBounds s st k g d).spine = s.spine ∧
    (State.setBounds s st k g d).skid = s.skid ∧ (State.setBounds s st k g d).net = s.net ∧
    (State.setBounds s st k g d).sync = s.sync ∧ (State.setBounds s st k g d).tally = s.tally ∧
    (State.setBounds s st k g d).host = s.host ∧ (State.setBounds s st k g d).snap = s.snap ∧
    (State.setBounds s st k g d).power = s.power ∧ (State.setBounds s st k g d).mem = s.mem ∧
    (State.setBounds s st k g d).ctr = s.ctr ∧ (State.setBounds s st k g d).out = s.out ∧
    (State.setBounds s st k g d).free = s.free ∧ (State.setBounds s st k g d).pending = s.pending :=
  ⟨rfl, rfl, rfl, rfl, rfl, rfl, rfl, rfl, rfl, rfl, rfl, rfl, rfl, rfl, rfl, rfl, rfl, rfl, rfl, rfl, rfl, rfl, rfl, rfl, rfl, rfl, rfl, rfl⟩

@[simp] theorem State.setCache_frame (s : State) (m : ℕ) (c : List CacheBlock) :
    (State.setCache s m c).time = s.time ∧ (State.setCache s m c).start = s.start ∧ (State.setCache s m c).log = s.log ∧
    (State.setCache s m c).safe = s.safe ∧ (State.setCache s m c).bg = s.bg ∧ (State.setCache s m c).stats = s.stats ∧
    (State.setCache s m c).clusters = s.clusters ∧ (State.setCache s m c).job = s.job ∧ (State.setCache s m c).banks = s.banks ∧
    (State.setCache s m c).limbers = s.limbers ∧ (State.setCache s m c).stash = s.stash ∧ (State.setCache s m c).cow = s.cow ∧
    (State.setCache s m c).cxl = s.cxl ∧ (State.setCache s m c).base = s.base ∧ (State.setCache s m c).spine = s.spine ∧
    (State.setCache s m c).skid = s.skid ∧ (State.setCache s m c).net = s.net ∧ (State.setCache s m c).sync = s.sync ∧
    (State.setCache s m c).tally = s.tally ∧ (State.setCache s m c).host = s.host ∧ (State.setCache s m c).ingest = s.ingest ∧
    (State.setCache s m c).snap = s.snap ∧ (State.setCache s m c).power = s.power ∧ (State.setCache s m c).mem = s.mem ∧
    (State.setCache s m c).ctr = s.ctr ∧ (State.setCache s m c).out = s.out ∧ (State.setCache s m c).free = s.free ∧
    (State.setCache s m c).pending = s.pending :=
  ⟨rfl, rfl, rfl, rfl, rfl, rfl, rfl, rfl, rfl, rfl, rfl, rfl, rfl, rfl, rfl, rfl, rfl, rfl, rfl, rfl, rfl, rfl, rfl, rfl, rfl, rfl, rfl, rfl⟩

@[simp] theorem State.setCount_frame (s : State) (k : ℕ) (n : ℕ) :
    (State.setCount s k n).time = s.time ∧ (State.setCount s k n).start = s.start ∧ (State.setCount s k n).log = s.log ∧
    (State.setCount s k n).safe = s.safe ∧ (State.setCount s k n).bg = s.bg ∧ (State.setCount s k n).stats = s.stats ∧
    (State.setCount s k n).clusters = s.clusters ∧ (State.setCount s k n).job = s.job ∧ (State.setCount s k n).upd = s.upd ∧
    (State.setCount s k n).banks = s.banks ∧ (State.setCount s k n).limbers = s.limbers ∧
    (State.setCount s k n).stash = s.stash ∧ (State.setCount s k n).cow = s.cow ∧ (State.setCount s k n).cxl = s.cxl ∧
    (State.setCount s k n).base = s.base ∧ (State.setCount s k n).spine = s.spine ∧ (State.setCount s k n).skid = s.skid ∧
    (State.setCount s k n).net = s.net ∧ (State.setCount s k n).sync = s.sync ∧ (State.setCount s k n).tally = s.tally ∧
    (State.setCount s k n).host = s.host ∧ (State.setCount s k n).ingest = s.ingest ∧ (State.setCount s k n).snap = s.snap ∧
    (State.setCount s k n).power = s.power ∧ (State.setCount s k n).mem = s.mem ∧ (State.setCount s k n).out = s.out ∧
    (State.setCount s k n).free = s.free ∧ (State.setCount s k n).pending = s.pending :=
  ⟨rfl, rfl, rfl, rfl, rfl, rfl, rfl, rfl, rfl, rfl, rfl, rfl, rfl, rfl, rfl, rfl, rfl, rfl, rfl, rfl, rfl, rfl, rfl, rfl, rfl, rfl, rfl, rfl⟩

@[simp] theorem State.setFormats_frame (s : State) (e : ℕ) (fs : List ℕ) :
    (State.setFormats s e fs).time = s.time ∧ (State.setFormats s e fs).log = s.log ∧ (State.setFormats s e fs).safe = s.safe ∧
    (State.setFormats s e fs).bg = s.bg ∧ (State.setFormats s e fs).stats = s.stats ∧
    (State.setFormats s e fs).clusters = s.clusters ∧ (State.setFormats s e fs).job = s.job ∧
    (State.setFormats s e fs).upd = s.upd ∧ (State.setFormats s e fs).banks = s.banks ∧
    (State.setFormats s e fs).limbers = s.limbers ∧ (State.setFormats s e fs).stash = s.stash ∧
    (State.setFormats s e fs).cow = s.cow ∧ (State.setFormats s e fs).cxl = s.cxl ∧ (State.setFormats s e fs).base = s.base ∧
    (State.setFormats s e fs).spine = s.spine ∧ (State.setFormats s e fs).skid = s.skid ∧ (State.setFormats s e fs).net = s.net ∧
    (State.setFormats s e fs).sync = s.sync ∧ (State.setFormats s e fs).tally = s.tally ∧
    (State.setFormats s e fs).host = s.host ∧ (State.setFormats s e fs).ingest = s.ingest ∧
    (State.setFormats s e fs).snap = s.snap ∧ (State.setFormats s e fs).power = s.power ∧ (State.setFormats s e fs).mem = s.mem ∧
    (State.setFormats s e fs).ctr = s.ctr ∧ (State.setFormats s e fs).out = s.out ∧ (State.setFormats s e fs).free = s.free ∧
    (State.setFormats s e fs).pending = s.pending :=
  ⟨rfl, rfl, rfl, rfl, rfl, rfl, rfl, rfl, rfl, rfl, rfl, rfl, rfl, rfl, rfl, rfl, rfl, rfl, rfl, rfl, rfl, rfl, rfl, rfl, rfl, rfl, rfl, rfl⟩

@[simp] theorem State.setPage_frame (s : State) (p : ℕ) (x : PageState) :
    (State.setPage s p x).time = s.time ∧ (State.setPage s p x).start = s.start ∧ (State.setPage s p x).log = s.log ∧
    (State.setPage s p x).safe = s.safe ∧ (State.setPage s p x).bg = s.bg ∧ (State.setPage s p x).stats = s.stats ∧
    (State.setPage s p x).clusters = s.clusters ∧ (State.setPage s p x).job = s.job ∧ (State.setPage s p x).upd = s.upd ∧
    (State.setPage s p x).banks = s.banks ∧ (State.setPage s p x).limbers = s.limbers ∧ (State.setPage s p x).stash = s.stash ∧
    (State.setPage s p x).cxl = s.cxl ∧ (State.setPage s p x).base = s.base ∧ (State.setPage s p x).spine = s.spine ∧
    (State.setPage s p x).skid = s.skid ∧ (State.setPage s p x).net = s.net ∧ (State.setPage s p x).sync = s.sync ∧
    (State.setPage s p x).tally = s.tally ∧ (State.setPage s p x).host = s.host ∧ (State.setPage s p x).ingest = s.ingest ∧
    (State.setPage s p x).snap = s.snap ∧ (State.setPage s p x).power = s.power ∧ (State.setPage s p x).mem = s.mem ∧
    (State.setPage s p x).ctr = s.ctr ∧ (State.setPage s p x).out = s.out ∧ (State.setPage s p x).free = s.free ∧
    (State.setPage s p x).pending = s.pending :=
  ⟨rfl, rfl, rfl, rfl, rfl, rfl, rfl, rfl, rfl, rfl, rfl, rfl, rfl, rfl, rfl, rfl, rfl, rfl, rfl, rfl, rfl, rfl, rfl, rfl, rfl, rfl, rfl, rfl⟩

@[simp] theorem State.setPorts_frame (s : State) (m : ℕ) (l : List (ℕ × ℕ)) :
    (State.setPorts s m l).time = s.time ∧ (State.setPorts s m l).start = s.start ∧ (State.setPorts s m l).log = s.log ∧
    (State.setPorts s m l).safe = s.safe ∧ (State.setPorts s m l).bg = s.bg ∧ (State.setPorts s m l).stats = s.stats ∧
    (State.setPorts s m l).clusters = s.clusters ∧ (State.setPorts s m l).job = s.job ∧ (State.setPorts s m l).upd = s.upd ∧
    (State.setPorts s m l).banks = s.banks ∧ (State.setPorts s m l).limbers = s.limbers ∧
    (State.setPorts s m l).stash = s.stash ∧ (State.setPorts s m l).cow = s.cow ∧ (State.setPorts s m l).cxl = s.cxl ∧
    (State.setPorts s m l).base = s.base ∧ (State.setPorts s m l).spine = s.spine ∧ (State.setPorts s m l).skid = s.skid ∧
    (State.setPorts s m l).sync = s.sync ∧ (State.setPorts s m l).tally = s.tally ∧ (State.setPorts s m l).host = s.host ∧
    (State.setPorts s m l).ingest = s.ingest ∧ (State.setPorts s m l).snap = s.snap ∧ (State.setPorts s m l).power = s.power ∧
    (State.setPorts s m l).mem = s.mem ∧ (State.setPorts s m l).ctr = s.ctr ∧ (State.setPorts s m l).out = s.out ∧
    (State.setPorts s m l).free = s.free ∧ (State.setPorts s m l).pending = s.pending :=
  ⟨rfl, rfl, rfl, rfl, rfl, rfl, rfl, rfl, rfl, rfl, rfl, rfl, rfl, rfl, rfl, rfl, rfl, rfl, rfl, rfl, rfl, rfl, rfl, rfl, rfl, rfl, rfl, rfl⟩

@[simp] theorem State.setSync_frame (s : State) (id : ℕ) (v : ℕ) :
    (State.setSync s id v).time = s.time ∧ (State.setSync s id v).start = s.start ∧ (State.setSync s id v).log = s.log ∧
    (State.setSync s id v).safe = s.safe ∧ (State.setSync s id v).bg = s.bg ∧ (State.setSync s id v).stats = s.stats ∧
    (State.setSync s id v).clusters = s.clusters ∧ (State.setSync s id v).job = s.job ∧ (State.setSync s id v).upd = s.upd ∧
    (State.setSync s id v).banks = s.banks ∧ (State.setSync s id v).limbers = s.limbers ∧
    (State.setSync s id v).stash = s.stash ∧ (State.setSync s id v).cow = s.cow ∧ (State.setSync s id v).cxl = s.cxl ∧
    (State.setSync s id v).base = s.base ∧ (State.setSync s id v).spine = s.spine ∧ (State.setSync s id v).skid = s.skid ∧
    (State.setSync s id v).net = s.net ∧ (State.setSync s id v).tally = s.tally ∧ (State.setSync s id v).host = s.host ∧
    (State.setSync s id v).ingest = s.ingest ∧ (State.setSync s id v).snap = s.snap ∧ (State.setSync s id v).power = s.power ∧
    (State.setSync s id v).mem = s.mem ∧ (State.setSync s id v).ctr = s.ctr ∧ (State.setSync s id v).out = s.out ∧
    (State.setSync s id v).free = s.free ∧ (State.setSync s id v).pending = s.pending :=
  ⟨rfl, rfl, rfl, rfl, rfl, rfl, rfl, rfl, rfl, rfl, rfl, rfl, rfl, rfl, rfl, rfl, rfl, rfl, rfl, rfl, rfl, rfl, rfl, rfl, rfl, rfl, rfl, rfl⟩

@[simp] theorem State.startFails_frame (s : State) :
    (State.startFails s).time = s.time ∧ (State.startFails s).log = s.log ∧ (State.startFails s).bg = s.bg ∧
    (State.startFails s).stats = s.stats ∧ (State.startFails s).clusters = s.clusters ∧ (State.startFails s).job = s.job ∧
    (State.startFails s).upd = s.upd ∧ (State.startFails s).banks = s.banks ∧ (State.startFails s).limbers = s.limbers ∧
    (State.startFails s).stash = s.stash ∧ (State.startFails s).cow = s.cow ∧ (State.startFails s).cxl = s.cxl ∧
    (State.startFails s).base = s.base ∧ (State.startFails s).spine = s.spine ∧ (State.startFails s).skid = s.skid ∧
    (State.startFails s).net = s.net ∧ (State.startFails s).sync = s.sync ∧ (State.startFails s).tally = s.tally ∧
    (State.startFails s).host = s.host ∧ (State.startFails s).ingest = s.ingest ∧ (State.startFails s).snap = s.snap ∧
    (State.startFails s).power = s.power ∧ (State.startFails s).mem = s.mem ∧ (State.startFails s).ctr = s.ctr ∧
    (State.startFails s).out = s.out ∧ (State.startFails s).free = s.free ∧ (State.startFails s).pending = s.pending :=
  ⟨rfl, rfl, rfl, rfl, rfl, rfl, rfl, rfl, rfl, rfl, rfl, rfl, rfl, rfl, rfl, rfl, rfl, rfl, rfl, rfl, rfl, rfl, rfl, rfl, rfl, rfl, rfl⟩

@[simp] theorem State.stopLimbers_frame (s : State) :
    (State.stopLimbers s).time = s.time ∧ (State.stopLimbers s).start = s.start ∧ (State.stopLimbers s).log = s.log ∧
    (State.stopLimbers s).safe = s.safe ∧ (State.stopLimbers s).bg = s.bg ∧ (State.stopLimbers s).stats = s.stats ∧
    (State.stopLimbers s).clusters = s.clusters ∧ (State.stopLimbers s).job = s.job ∧ (State.stopLimbers s).upd = s.upd ∧
    (State.stopLimbers s).banks = s.banks ∧ (State.stopLimbers s).stash = s.stash ∧ (State.stopLimbers s).cow = s.cow ∧
    (State.stopLimbers s).cxl = s.cxl ∧ (State.stopLimbers s).base = s.base ∧ (State.stopLimbers s).spine = s.spine ∧
    (State.stopLimbers s).skid = s.skid ∧ (State.stopLimbers s).net = s.net ∧ (State.stopLimbers s).sync = s.sync ∧
    (State.stopLimbers s).tally = s.tally ∧ (State.stopLimbers s).host = s.host ∧ (State.stopLimbers s).ingest = s.ingest ∧
    (State.stopLimbers s).snap = s.snap ∧ (State.stopLimbers s).power = s.power ∧ (State.stopLimbers s).mem = s.mem ∧
    (State.stopLimbers s).ctr = s.ctr ∧ (State.stopLimbers s).out = s.out ∧ (State.stopLimbers s).free = s.free ∧
    (State.stopLimbers s).pending = s.pending :=
  ⟨rfl, rfl, rfl, rfl, rfl, rfl, rfl, rfl, rfl, rfl, rfl, rfl, rfl, rfl, rfl, rfl, rfl, rfl, rfl, rfl, rfl, rfl, rfl, rfl, rfl, rfl, rfl, rfl⟩

@[simp] theorem State.stopUnits_frame (s : State) :
    (State.stopUnits s).time = s.time ∧ (State.stopUnits s).start = s.start ∧ (State.stopUnits s).log = s.log ∧
    (State.stopUnits s).safe = s.safe ∧ (State.stopUnits s).bg = s.bg ∧ (State.stopUnits s).stats = s.stats ∧
    (State.stopUnits s).job = s.job ∧ (State.stopUnits s).banks = s.banks ∧ (State.stopUnits s).stash = s.stash ∧
    (State.stopUnits s).cxl = s.cxl ∧ (State.stopUnits s).base = s.base ∧ (State.stopUnits s).spine = s.spine ∧
    (State.stopUnits s).skid = s.skid ∧ (State.stopUnits s).net = s.net ∧ (State.stopUnits s).sync = s.sync ∧
    (State.stopUnits s).tally = s.tally ∧ (State.stopUnits s).host = s.host ∧ (State.stopUnits s).power = s.power ∧
    (State.stopUnits s).mem = s.mem ∧ (State.stopUnits s).ctr = s.ctr ∧ (State.stopUnits s).out = s.out ∧
    (State.stopUnits s).free = s.free ∧ (State.stopUnits s).pending = s.pending :=
  ⟨rfl, rfl, rfl, rfl, rfl, rfl, rfl, rfl, rfl, rfl, rfl, rfl, rfl, rfl, rfl, rfl, rfl, rfl, rfl, rfl, rfl, rfl, rfl⟩

@[simp] theorem State.storeValues_frame (s : State) (v : ℕ) :
    (State.storeValues s v).time = s.time ∧ (State.storeValues s v).log = s.log ∧ (State.storeValues s v).safe = s.safe ∧
    (State.storeValues s v).bg = s.bg ∧ (State.storeValues s v).stats = s.stats ∧ (State.storeValues s v).clusters = s.clusters ∧
    (State.storeValues s v).job = s.job ∧ (State.storeValues s v).upd = s.upd ∧ (State.storeValues s v).banks = s.banks ∧
    (State.storeValues s v).limbers = s.limbers ∧ (State.storeValues s v).stash = s.stash ∧ (State.storeValues s v).cow = s.cow ∧
    (State.storeValues s v).cxl = s.cxl ∧ (State.storeValues s v).base = s.base ∧ (State.storeValues s v).spine = s.spine ∧
    (State.storeValues s v).skid = s.skid ∧ (State.storeValues s v).net = s.net ∧ (State.storeValues s v).sync = s.sync ∧
    (State.storeValues s v).tally = s.tally ∧ (State.storeValues s v).host = s.host ∧ (State.storeValues s v).ingest = s.ingest ∧
    (State.storeValues s v).snap = s.snap ∧ (State.storeValues s v).power = s.power ∧ (State.storeValues s v).mem = s.mem ∧
    (State.storeValues s v).ctr = s.ctr ∧ (State.storeValues s v).out = s.out ∧ (State.storeValues s v).free = s.free ∧
    (State.storeValues s v).pending = s.pending :=
  ⟨rfl, rfl, rfl, rfl, rfl, rfl, rfl, rfl, rfl, rfl, rfl, rfl, rfl, rfl, rfl, rfl, rfl, rfl, rfl, rfl, rfl, rfl, rfl, rfl, rfl, rfl, rfl, rfl⟩

@[simp] theorem State.stress_frame (s : State) (n : ℕ) :
    (State.stress s n).time = s.time ∧ (State.stress s n).start = s.start ∧ (State.stress s n).log = s.log ∧
    (State.stress s n).safe = s.safe ∧ (State.stress s n).bg = s.bg ∧ (State.stress s n).stats = s.stats ∧
    (State.stress s n).clusters = s.clusters ∧ (State.stress s n).job = s.job ∧ (State.stress s n).upd = s.upd ∧
    (State.stress s n).banks = s.banks ∧ (State.stress s n).limbers = s.limbers ∧ (State.stress s n).stash = s.stash ∧
    (State.stress s n).cow = s.cow ∧ (State.stress s n).cxl = s.cxl ∧ (State.stress s n).base = s.base ∧
    (State.stress s n).spine = s.spine ∧ (State.stress s n).skid = s.skid ∧ (State.stress s n).net = s.net ∧
    (State.stress s n).sync = s.sync ∧ (State.stress s n).tally = s.tally ∧ (State.stress s n).host = s.host ∧
    (State.stress s n).ingest = s.ingest ∧ (State.stress s n).power = s.power ∧ (State.stress s n).mem = s.mem ∧
    (State.stress s n).ctr = s.ctr ∧ (State.stress s n).out = s.out ∧ (State.stress s n).free = s.free ∧
    (State.stress s n).pending = s.pending :=
  ⟨rfl, rfl, rfl, rfl, rfl, rfl, rfl, rfl, rfl, rfl, rfl, rfl, rfl, rfl, rfl, rfl, rfl, rfl, rfl, rfl, rfl, rfl, rfl, rfl, rfl, rfl, rfl, rfl⟩

@[simp] theorem State.took_frame (s : State) (m : Msg) :
    (State.took s m).time = s.time ∧ (State.took s m).start = s.start ∧ (State.took s m).log = s.log ∧
    (State.took s m).safe = s.safe ∧ (State.took s m).bg = s.bg ∧ (State.took s m).stats = s.stats ∧
    (State.took s m).clusters = s.clusters ∧ (State.took s m).job = s.job ∧ (State.took s m).upd = s.upd ∧
    (State.took s m).banks = s.banks ∧ (State.took s m).limbers = s.limbers ∧ (State.took s m).stash = s.stash ∧
    (State.took s m).cow = s.cow ∧ (State.took s m).cxl = s.cxl ∧ (State.took s m).base = s.base ∧
    (State.took s m).spine = s.spine ∧ (State.took s m).skid = s.skid ∧ (State.took s m).sync = s.sync ∧
    (State.took s m).tally = s.tally ∧ (State.took s m).host = s.host ∧ (State.took s m).ingest = s.ingest ∧
    (State.took s m).snap = s.snap ∧ (State.took s m).power = s.power ∧ (State.took s m).mem = s.mem ∧
    (State.took s m).ctr = s.ctr ∧ (State.took s m).out = s.out ∧ (State.took s m).free = s.free ∧
    (State.took s m).pending = s.pending :=
  ⟨rfl, rfl, rfl, rfl, rfl, rfl, rfl, rfl, rfl, rfl, rfl, rfl, rfl, rfl, rfl, rfl, rfl, rfl, rfl, rfl, rfl, rfl, rfl, rfl, rfl, rfl, rfl, rfl⟩

end Sys2Proof.Machine
end

