-- ==== Sys2Proof/Laws/Frames.lean ====
section
/-! SUPPORT. What raising an event, sending and raising a fault leave as they were, and what they leave behind. A masked
state forgets the parts that an operation may change, so that one equation says all the others are unchanged. -/

namespace Sys2Proof.Machine

/-- A function of the state that no step of a fold changes is not changed by the fold. -/
theorem foldl_same {α β : Type} (g : State → β) (f : State → α → State) (l : List α) (s : State) (h : ∀ s x, g (f s x) = g s) :
    g (l.foldl f s) = g s := by
  induction l generalizing s with
  | nil => rfl
  | cons x l ih => rw [List.foldl_cons, ih, h]

theorem newest_snoc {α : Type} (n : Nat) (l : List α) (x : α) (h : 0 < n) : (newest n (l ++ [x])).getLast? = some x := by
  unfold newest
  rw [List.getLast?_drop]
  simp; omega

/-! ### Records and events -/

/-- The state without what a record may change: the flows of the host, counters, the record of what was sent. -/
def State.quieter (s : State) : State := { s with host := {}, ctr := [], out := [] }
/-- The state without what an event may change. -/
def State.quiet (s : State) : State := { s.quieter with log := {} }

/-- What is equal in two states that agree so far. -/
theorem same_quieter {s t : State} (h : s.quieter = t.quieter) :
    s.time = t.time ∧ s.start = t.start ∧ s.log = t.log ∧ s.safe = t.safe ∧ s.bg = t.bg ∧ s.stats = t.stats ∧
    s.clusters = t.clusters ∧ s.job = t.job ∧ s.upd = t.upd ∧ s.banks = t.banks ∧ s.limbers = t.limbers ∧ s.stash = t.stash ∧
    s.cow = t.cow ∧ s.cxl = t.cxl ∧ s.base = t.base ∧ s.spine = t.spine ∧ s.skid = t.skid ∧ s.net = t.net ∧ s.sync = t.sync ∧
    s.tally = t.tally ∧ s.ingest = t.ingest ∧ s.snap = t.snap ∧ s.power = t.power ∧ s.mem = t.mem ∧ s.free = t.free ∧
    s.pending = t.pending :=
  have k {β : Type} (g : State → β) : g s.quieter = g t.quieter := congrArg g h
  ⟨k State.time, k State.start, k State.log, k State.safe, k State.bg, k State.stats, k State.clusters, k State.job,
    k State.upd, k State.banks, k State.limbers, k State.stash, k State.cow, k State.cxl, k State.base, k State.spine,
    k State.skid, k State.net, k State.sync, k State.tally, k State.ingest, k State.snap, k State.power, k State.mem,
    k State.free, k State.pending⟩

theorem State.bump_quieter (s : State) (k n : Nat) : (s.bump k n).quieter = s.quieter := rfl
theorem State.sendHost_quieter (s : State) (o : Output) : (s.sendHost o).quieter = s.quieter := rfl
theorem State.touch_quieter (s : State) (i : Nat) : (s.touch i).quieter = s.quieter := rfl
theorem State.sendBlock_quieter (s : State) (f : Flow) (bs : Bytes) : (s.sendBlock f bs).quieter = s.quieter := by
  unfold State.sendBlock
  rw [State.sendHost_quieter, State.touch_quieter]; rfl
theorem State.record_quieter (s : State) (ch sub : Nat) (bs : Bytes) : (s.record ch sub bs).quieter = s.quieter := by
  unfold State.record
  split
  · rfl
  · split
    · exact State.bump_quieter _ _ _
    · refine foldl_same State.quieter _ _ _ fun s f => ?_
      split
      · exact State.sendBlock_quieter _ _ _
      · exact State.bump_quieter _ _ _

@[simp] theorem State.record_frame (s : State) (ch sub : Nat) (bs : Bytes) :
    (s.record ch sub bs).time = s.time ∧ (s.record ch sub bs).start = s.start ∧ (s.record ch sub bs).log = s.log ∧
    (s.record ch sub bs).safe = s.safe ∧ (s.record ch sub bs).bg = s.bg ∧ (s.record ch sub bs).stats = s.stats ∧
    (s.record ch sub bs).clusters = s.clusters ∧ (s.record ch sub bs).job = s.job ∧ (s.record ch sub bs).upd = s.upd ∧
    (s.record ch sub bs).banks = s.banks ∧ (s.record ch sub bs).limbers = s.limbers ∧ (s.record ch sub bs).stash = s.stash ∧
    (s.record ch sub bs).cow = s.cow ∧ (s.record ch sub bs).cxl = s.cxl ∧ (s.record ch sub bs).base = s.base ∧
    (s.record ch sub bs).spine = s.spine ∧ (s.record ch sub bs).skid = s.skid ∧ (s.record ch sub bs).net = s.net ∧
    (s.record ch sub bs).sync = s.sync ∧ (s.record ch sub bs).tally = s.tally ∧ (s.record ch sub bs).ingest = s.ingest ∧
    (s.record ch sub bs).snap = s.snap ∧ (s.record ch sub bs).power = s.power ∧ (s.record ch sub bs).mem = s.mem ∧
    (s.record ch sub bs).free = s.free ∧ (s.record ch sub bs).pending = s.pending :=
  same_quieter (State.record_quieter s ch sub bs)

/-- What is equal in two states that agree so far. -/
theorem same_quiet {s t : State} (h : s.quiet = t.quiet) :
    s.time = t.time ∧ s.start = t.start ∧ s.safe = t.safe ∧ s.bg = t.bg ∧ s.stats = t.stats ∧ s.clusters = t.clusters ∧
    s.job = t.job ∧ s.upd = t.upd ∧ s.banks = t.banks ∧ s.limbers = t.limbers ∧ s.stash = t.stash ∧ s.cow = t.cow ∧
    s.cxl = t.cxl ∧ s.base = t.base ∧ s.spine = t.spine ∧ s.skid = t.skid ∧ s.net = t.net ∧ s.sync = t.sync ∧
    s.tally = t.tally ∧ s.ingest = t.ingest ∧ s.snap = t.snap ∧ s.power = t.power ∧ s.mem = t.mem ∧ s.free = t.free ∧
    s.pending = t.pending :=
  have k {β : Type} (g : State → β) : g s.quiet = g t.quiet := congrArg g h
  ⟨k State.time, k State.start, k State.safe, k State.bg, k State.stats, k State.clusters, k State.job, k State.upd,
    k State.banks, k State.limbers, k State.stash, k State.cow, k State.cxl, k State.base, k State.spine, k State.skid,
    k State.net, k State.sync, k State.tally, k State.ingest, k State.snap, k State.power, k State.mem, k State.free,
    k State.pending⟩

theorem quiet_of_quieter {s t : State} (h : s.quieter = t.quieter) : s.quiet = t.quiet := by unfold State.quiet; rw [h]

theorem State.record_quiet (s : State) (ch sub : Nat) (bs : Bytes) : (s.record ch sub bs).quiet = s.quiet :=
  quiet_of_quieter (State.record_quieter _ _ _ _)

theorem State.bump_quiet (s : State) (k n : Nat) : (s.bump k n).quiet = s.quiet := rfl
theorem State.log_quiet (s : State) (l : Log) : ({ s with log := l } : State).quiet = s.quiet := rfl

theorem State.telemetry_quiet (s : State) (src kind : Nat) (body : Bytes) : (s.telemetry src kind body).quiet = s.quiet := by
  unfold State.telemetry
  exact (State.record_quiet _ _ _ _).trans rfl

theorem State.eventAfter_quiet (s : State) (src code cause : Nat) (d : Bytes) : (s.eventAfter src code cause d).quiet = s.quiet := by
  unfold State.eventAfter
  split
  · rfl
  · exact (State.record_quiet _ _ _ _).trans ((State.bump_quiet _ _ _).trans (State.log_quiet _ _))

theorem State.event_quiet (s : State) (src code : Nat) (d : Bytes) : (s.event src code d).quiet = s.quiet :=
  s.eventAfter_quiet src code 0 d

theorem State.receipt_quiet (s : State) (st : Nat) (r : Receipt) : (s.receipt st r).quiet = s.quiet := by
  unfold State.receipt
  exact (State.record_quiet _ _ _ _).trans rfl

@[simp] theorem State.telemetry_frame (s : State) (src kind : Nat) (body : Bytes) :
    (s.telemetry src kind body).time = s.time ∧ (s.telemetry src kind body).start = s.start ∧
    (s.telemetry src kind body).safe = s.safe ∧ (s.telemetry src kind body).bg = s.bg ∧
    (s.telemetry src kind body).stats = s.stats ∧ (s.telemetry src kind body).clusters = s.clusters ∧
    (s.telemetry src kind body).job = s.job ∧ (s.telemetry src kind body).upd = s.upd ∧
    (s.telemetry src kind body).banks = s.banks ∧ (s.telemetry src kind body).limbers = s.limbers ∧
    (s.telemetry src kind body).stash = s.stash ∧ (s.telemetry src kind body).cow = s.cow ∧
    (s.telemetry src kind body).cxl = s.cxl ∧ (s.telemetry src kind body).base = s.base ∧
    (s.telemetry src kind body).spine = s.spine ∧ (s.telemetry src kind body).skid = s.skid ∧
    (s.telemetry src kind body).net = s.net ∧ (s.telemetry src kind body).sync = s.sync ∧
    (s.telemetry src kind body).tally = s.tally ∧ (s.telemetry src kind body).ingest = s.ingest ∧
    (s.telemetry src kind body).snap = s.snap ∧ (s.telemetry src kind body).power = s.power ∧
    (s.telemetry src kind body).mem = s.mem ∧ (s.telemetry src kind body).free = s.free ∧
    (s.telemetry src kind body).pending = s.pending :=
  same_quiet (State.telemetry_quiet s src kind body)

@[simp] theorem State.eventAfter_frame (s : State) (src code cause : Nat) (d : Bytes) :
    (s.eventAfter src code cause d).time = s.time ∧ (s.eventAfter src code cause d).start = s.start ∧
    (s.eventAfter src code cause d).safe = s.safe ∧ (s.eventAfter src code cause d).bg = s.bg ∧
    (s.eventAfter src code cause d).stats = s.stats ∧ (s.eventAfter src code cause d).clusters = s.clusters ∧
    (s.eventAfter src code cause d).job = s.job ∧ (s.eventAfter src code cause d).upd = s.upd ∧
    (s.eventAfter src code cause d).banks = s.banks ∧ (s.eventAfter src code cause d).limbers = s.limbers ∧
    (s.eventAfter src code cause d).stash = s.stash ∧ (s.eventAfter src code cause d).cow = s.cow ∧
    (s.eventAfter src code cause d).cxl = s.cxl ∧ (s.eventAfter src code cause d).base = s.base ∧
    (s.eventAfter src code cause d).spine = s.spine ∧ (s.eventAfter src code cause d).skid = s.skid ∧
    (s.eventAfter src code cause d).net = s.net ∧ (s.eventAfter src code cause d).sync = s.sync ∧
    (s.eventAfter src code cause d).tally = s.tally ∧ (s.eventAfter src code cause d).ingest = s.ingest ∧
    (s.eventAfter src code cause d).snap = s.snap ∧ (s.eventAfter src code cause d).power = s.power ∧
    (s.eventAfter src code cause d).mem = s.mem ∧ (s.eventAfter src code cause d).free = s.free ∧
    (s.eventAfter src code cause d).pending = s.pending :=
  same_quiet (State.eventAfter_quiet s src code cause d)

@[simp] theorem State.event_frame (s : State) (src code : Nat) (d : Bytes) :
    (s.event src code d).time = s.time ∧ (s.event src code d).start = s.start ∧ (s.event src code d).safe = s.safe ∧
    (s.event src code d).bg = s.bg ∧ (s.event src code d).stats = s.stats ∧ (s.event src code d).clusters = s.clusters ∧
    (s.event src code d).job = s.job ∧ (s.event src code d).upd = s.upd ∧ (s.event src code d).banks = s.banks ∧
    (s.event src code d).limbers = s.limbers ∧ (s.event src code d).stash = s.stash ∧ (s.event src code d).cow = s.cow ∧
    (s.event src code d).cxl = s.cxl ∧ (s.event src code d).base = s.base ∧ (s.event src code d).spine = s.spine ∧
    (s.event src code d).skid = s.skid ∧ (s.event src code d).net = s.net ∧ (s.event src code d).sync = s.sync ∧
    (s.event src code d).tally = s.tally ∧ (s.event src code d).ingest = s.ingest ∧ (s.event src code d).snap = s.snap ∧
    (s.event src code d).power = s.power ∧ (s.event src code d).mem = s.mem ∧ (s.event src code d).free = s.free ∧
    (s.event src code d).pending = s.pending :=
  same_quiet (State.event_quiet s src code d)

@[simp] theorem State.receipt_frame (s : State) (st : Nat) (r : Receipt) :
    (s.receipt st r).time = s.time ∧ (s.receipt st r).start = s.start ∧ (s.receipt st r).safe = s.safe ∧
    (s.receipt st r).bg = s.bg ∧ (s.receipt st r).stats = s.stats ∧ (s.receipt st r).clusters = s.clusters ∧
    (s.receipt st r).job = s.job ∧ (s.receipt st r).upd = s.upd ∧ (s.receipt st r).banks = s.banks ∧
    (s.receipt st r).limbers = s.limbers ∧ (s.receipt st r).stash = s.stash ∧ (s.receipt st r).cow = s.cow ∧
    (s.receipt st r).cxl = s.cxl ∧ (s.receipt st r).base = s.base ∧ (s.receipt st r).spine = s.spine ∧
    (s.receipt st r).skid = s.skid ∧ (s.receipt st r).net = s.net ∧ (s.receipt st r).sync = s.sync ∧
    (s.receipt st r).tally = s.tally ∧ (s.receipt st r).ingest = s.ingest ∧ (s.receipt st r).snap = s.snap ∧
    (s.receipt st r).power = s.power ∧ (s.receipt st r).mem = s.mem ∧ (s.receipt st r).free = s.free ∧
    (s.receipt st r).pending = s.pending :=
  same_quiet (State.receipt_quiet s st r)

/-- The newest record after an event is the event's own. -/
theorem State.eventAfter_ring (s : State) (src code cause : Nat) (d : Bytes) (h : s.start.wardenHeld = false) :
    (s.eventAfter src code cause d).log.ring.getLast? = some (s.mkRecord src code cause d) := by
  unfold State.eventAfter
  rw [if_neg (by simp [h])]
  simp only [State.record_frame, State.bump_frame]
  exact newest_snoc _ _ _ (by decide)
theorem State.event_ring (s : State) (src code : Nat) (d : Bytes) (h : s.start.wardenHeld = false) :
    (s.event src code d).log.ring.getLast? = some (s.mkRecord src code 0 d) := s.eventAfter_ring src code 0 d h
theorem State.eventAfter_history (s : State) (src code cause : Nat) (d : Bytes) : (s.eventAfter src code cause d).log.history = s.log.history := by
  unfold State.eventAfter
  split
  · rfl
  · simp [Log.advance]

/-! ### Sending -/

/-- The state without what sending a message may change: also the skid ports. -/
def State.silent (s : State) : State := { s.quiet with skid := [] }
/-- What is equal in two states that agree so far. -/
theorem same_silent {s t : State} (h : s.silent = t.silent) :
    s.time = t.time ∧ s.start = t.start ∧ s.safe = t.safe ∧ s.bg = t.bg ∧ s.stats = t.stats ∧ s.clusters = t.clusters ∧
    s.job = t.job ∧ s.upd = t.upd ∧ s.banks = t.banks ∧ s.limbers = t.limbers ∧ s.stash = t.stash ∧ s.cow = t.cow ∧
    s.cxl = t.cxl ∧ s.base = t.base ∧ s.spine = t.spine ∧ s.net = t.net ∧ s.sync = t.sync ∧ s.tally = t.tally ∧
    s.ingest = t.ingest ∧ s.snap = t.snap ∧ s.power = t.power ∧ s.mem = t.mem ∧ s.free = t.free ∧ s.pending = t.pending :=
  have k {β : Type} (g : State → β) : g s.silent = g t.silent := congrArg g h
  ⟨k State.time, k State.start, k State.safe, k State.bg, k State.stats, k State.clusters, k State.job, k State.upd,
    k State.banks, k State.limbers, k State.stash, k State.cow, k State.cxl, k State.base, k State.spine, k State.net,
    k State.sync, k State.tally, k State.ingest, k State.snap, k State.power, k State.mem, k State.free, k State.pending⟩

theorem silent_of_quiet {s t : State} (h : s.quiet = t.quiet) : s.silent = t.silent := by unfold State.silent; rw [h]

theorem State.modPort_silent (s : State) (n : Nat) (f : SkidPort → SkidPort) : (s.modPort n f).silent = s.silent := rfl
theorem State.beginMsg_silent (s : State) (n cls : Nat) : (s.beginMsg n cls).silent = s.silent := by
  unfold State.beginMsg
  dsimp only
  split
  · rfl
  · split
    · rfl
    · rw [State.modPort_silent]
      split <;> rfl
theorem State.sendFrame_silent (s : State) (n cls k : Nat) : (s.sendFrame n cls k).silent = s.silent := by
  unfold State.sendFrame
  split <;> rfl
theorem State.pumpLoop_silent (s : State) (n fuel : Nat) : (s.pumpLoop n fuel).silent = s.silent := by
  induction fuel generalizing s with
  | zero => rfl
  | succ k ih =>
    unfold State.pumpLoop
    split
    · rename_i t e
      refine (ih t).trans ?_
      unfold State.sendNext at e
      dsimp only at e
      split at e
      · cases e
      · obtain ⟨c, _, rfl⟩ := Option.map_eq_some_iff.1 e
        exact (State.sendFrame_silent _ _ _ _).trans (State.beginMsg_silent _ _ _)
    · rfl
theorem State.pumpPort_silent (s : State) (n : Nat) : (s.pumpPort n).silent = s.silent := s.pumpLoop_silent n _
theorem State.putMsg_silent (s : State) (n : Nat) (came : Option Nat) (m : Msg) : (s.putMsg n came m).silent = s.silent := by
  unfold State.putMsg
  exact State.pumpPort_silent _ _
theorem State.sendOn_silent (s : State) (port src kind dst arg : Nat) (body : Bytes) : (s.sendOn port src kind dst arg body).silent = s.silent := by
  unfold State.sendOn State.newMsg
  exact State.putMsg_silent _ _ _ _
theorem State.sendTo_silent (s : State) (src kind dst arg : Nat) (body : Bytes) : (s.sendTo src kind dst arg body).silent = s.silent := by
  unfold State.sendTo
  split
  · rfl
  · exact State.sendOn_silent _ _ _ _ _ _ _
theorem State.sendAll_silent (s : State) (src kind arg : Nat) (body : Bytes) : (s.sendAll src kind arg body).silent = s.silent :=
  foldl_same State.silent _ _ _ fun s d => s.sendTo_silent src kind d arg body
theorem State.e2eAck_silent (s : State) (m : Msg) : (s.e2eAck m).silent = s.silent := s.sendTo_silent _ _ _ _ _

@[simp] theorem State.pumpPort_frame (s : State) (n : Nat) :
    (s.pumpPort n).time = s.time ∧ (s.pumpPort n).start = s.start ∧ (s.pumpPort n).safe = s.safe ∧ (s.pumpPort n).bg = s.bg ∧
    (s.pumpPort n).stats = s.stats ∧ (s.pumpPort n).clusters = s.clusters ∧ (s.pumpPort n).job = s.job ∧
    (s.pumpPort n).upd = s.upd ∧ (s.pumpPort n).banks = s.banks ∧ (s.pumpPort n).limbers = s.limbers ∧
    (s.pumpPort n).stash = s.stash ∧ (s.pumpPort n).cow = s.cow ∧ (s.pumpPort n).cxl = s.cxl ∧ (s.pumpPort n).base = s.base ∧
    (s.pumpPort n).spine = s.spine ∧ (s.pumpPort n).net = s.net ∧ (s.pumpPort n).sync = s.sync ∧
    (s.pumpPort n).tally = s.tally ∧ (s.pumpPort n).ingest = s.ingest ∧ (s.pumpPort n).snap = s.snap ∧
    (s.pumpPort n).power = s.power ∧ (s.pumpPort n).mem = s.mem ∧ (s.pumpPort n).free = s.free ∧
    (s.pumpPort n).pending = s.pending :=
  same_silent (State.pumpPort_silent s n)

@[simp] theorem State.putMsg_frame (s : State) (n : Nat) (came : Option Nat) (m : Msg) :
    (s.putMsg n came m).time = s.time ∧ (s.putMsg n came m).start = s.start ∧ (s.putMsg n came m).safe = s.safe ∧ (s.putMsg n came m).bg = s.bg ∧
    (s.putMsg n came m).stats = s.stats ∧ (s.putMsg n came m).clusters = s.clusters ∧ (s.putMsg n came m).job = s.job ∧
    (s.putMsg n came m).upd = s.upd ∧ (s.putMsg n came m).banks = s.banks ∧ (s.putMsg n came m).limbers = s.limbers ∧
    (s.putMsg n came m).stash = s.stash ∧ (s.putMsg n came m).cow = s.cow ∧ (s.putMsg n came m).cxl = s.cxl ∧ (s.putMsg n came m).base = s.base ∧
    (s.putMsg n came m).spine = s.spine ∧ (s.putMsg n came m).net = s.net ∧ (s.putMsg n came m).sync = s.sync ∧
    (s.putMsg n came m).tally = s.tally ∧ (s.putMsg n came m).ingest = s.ingest ∧ (s.putMsg n came m).snap = s.snap ∧
    (s.putMsg n came m).power = s.power ∧ (s.putMsg n came m).mem = s.mem ∧ (s.putMsg n came m).free = s.free ∧
    (s.putMsg n came m).pending = s.pending :=
  same_silent (State.putMsg_silent s n came m)

@[simp] theorem State.sendOn_frame (s : State) (port src kind dst arg : Nat) (body : Bytes) :
    (s.sendOn port src kind dst arg body).time = s.time ∧ (s.sendOn port src kind dst arg body).start = s.start ∧
    (s.sendOn port src kind dst arg body).safe = s.safe ∧ (s.sendOn port src kind dst arg body).bg = s.bg ∧
    (s.sendOn port src kind dst arg body).stats = s.stats ∧ (s.sendOn port src kind dst arg body).clusters = s.clusters ∧
    (s.sendOn port src kind dst arg body).job = s.job ∧ (s.sendOn port src kind dst arg body).upd = s.upd ∧
    (s.sendOn port src kind dst arg body).banks = s.banks ∧ (s.sendOn port src kind dst arg body).limbers = s.limbers ∧
    (s.sendOn port src kind dst arg body).stash = s.stash ∧ (s.sendOn port src kind dst arg body).cow = s.cow ∧
    (s.sendOn port src kind dst arg body).cxl = s.cxl ∧ (s.sendOn port src kind dst arg body).base = s.base ∧
    (s.sendOn port src kind dst arg body).spine = s.spine ∧ (s.sendOn port src kind dst arg body).net = s.net ∧
    (s.sendOn port src kind dst arg body).sync = s.sync ∧ (s.sendOn port src kind dst arg body).tally = s.tally ∧
    (s.sendOn port src kind dst arg body).ingest = s.ingest ∧ (s.sendOn port src kind dst arg body).snap = s.snap ∧
    (s.sendOn port src kind dst arg body).power = s.power ∧ (s.sendOn port src kind dst arg body).mem = s.mem ∧
    (s.sendOn port src kind dst arg body).free = s.free ∧ (s.sendOn port src kind dst arg body).pending = s.pending :=
  same_silent (State.sendOn_silent s port src kind dst arg body)

@[simp] theorem State.sendTo_frame (s : State) (src kind dst arg : Nat) (body : Bytes) :
    (s.sendTo src kind dst arg body).time = s.time ∧ (s.sendTo src kind dst arg body).start = s.start ∧
    (s.sendTo src kind dst arg body).safe = s.safe ∧ (s.sendTo src kind dst arg body).bg = s.bg ∧
    (s.sendTo src kind dst arg body).stats = s.stats ∧ (s.sendTo src kind dst arg body).clusters = s.clusters ∧
    (s.sendTo src kind dst arg body).job = s.job ∧ (s.sendTo src kind dst arg body).upd = s.upd ∧
    (s.sendTo src kind dst arg body).banks = s.banks ∧ (s.sendTo src kind dst arg body).limbers = s.limbers ∧
    (s.sendTo src kind dst arg body).stash = s.stash ∧ (s.sendTo src kind dst arg body).cow = s.cow ∧
    (s.sendTo src kind dst arg body).cxl = s.cxl ∧ (s.sendTo src kind dst arg body).base = s.base ∧
    (s.sendTo src kind dst arg body).spine = s.spine ∧ (s.sendTo src kind dst arg body).net = s.net ∧
    (s.sendTo src kind dst arg body).sync = s.sync ∧ (s.sendTo src kind dst arg body).tally = s.tally ∧
    (s.sendTo src kind dst arg body).ingest = s.ingest ∧ (s.sendTo src kind dst arg body).snap = s.snap ∧
    (s.sendTo src kind dst arg body).power = s.power ∧ (s.sendTo src kind dst arg body).mem = s.mem ∧
    (s.sendTo src kind dst arg body).free = s.free ∧ (s.sendTo src kind dst arg body).pending = s.pending :=
  same_silent (State.sendTo_silent s src kind dst arg body)

@[simp] theorem State.sendAll_frame (s : State) (src kind arg : Nat) (body : Bytes) :
    (s.sendAll src kind arg body).time = s.time ∧ (s.sendAll src kind arg body).start = s.start ∧
    (s.sendAll src kind arg body).safe = s.safe ∧ (s.sendAll src kind arg body).bg = s.bg ∧
    (s.sendAll src kind arg body).stats = s.stats ∧ (s.sendAll src kind arg body).clusters = s.clusters ∧
    (s.sendAll src kind arg body).job = s.job ∧ (s.sendAll src kind arg body).upd = s.upd ∧
    (s.sendAll src kind arg body).banks = s.banks ∧ (s.sendAll src kind arg body).limbers = s.limbers ∧
    (s.sendAll src kind arg body).stash = s.stash ∧ (s.sendAll src kind arg body).cow = s.cow ∧
    (s.sendAll src kind arg body).cxl = s.cxl ∧ (s.sendAll src kind arg body).base = s.base ∧
    (s.sendAll src kind arg body).spine = s.spine ∧ (s.sendAll src kind arg body).net = s.net ∧
    (s.sendAll src kind arg body).sync = s.sync ∧ (s.sendAll src kind arg body).tally = s.tally ∧
    (s.sendAll src kind arg body).ingest = s.ingest ∧ (s.sendAll src kind arg body).snap = s.snap ∧
    (s.sendAll src kind arg body).power = s.power ∧ (s.sendAll src kind arg body).mem = s.mem ∧
    (s.sendAll src kind arg body).free = s.free ∧ (s.sendAll src kind arg body).pending = s.pending :=
  same_silent (State.sendAll_silent s src kind arg body)

@[simp] theorem State.e2eAck_frame (s : State) (m : Msg) :
    (s.e2eAck m).time = s.time ∧ (s.e2eAck m).start = s.start ∧ (s.e2eAck m).safe = s.safe ∧ (s.e2eAck m).bg = s.bg ∧
    (s.e2eAck m).stats = s.stats ∧ (s.e2eAck m).clusters = s.clusters ∧ (s.e2eAck m).job = s.job ∧ (s.e2eAck m).upd = s.upd ∧
    (s.e2eAck m).banks = s.banks ∧ (s.e2eAck m).limbers = s.limbers ∧ (s.e2eAck m).stash = s.stash ∧ (s.e2eAck m).cow = s.cow ∧
    (s.e2eAck m).cxl = s.cxl ∧ (s.e2eAck m).base = s.base ∧ (s.e2eAck m).spine = s.spine ∧ (s.e2eAck m).net = s.net ∧
    (s.e2eAck m).sync = s.sync ∧ (s.e2eAck m).tally = s.tally ∧ (s.e2eAck m).ingest = s.ingest ∧ (s.e2eAck m).snap = s.snap ∧
    (s.e2eAck m).power = s.power ∧ (s.e2eAck m).mem = s.mem ∧ (s.e2eAck m).free = s.free ∧ (s.e2eAck m).pending = s.pending :=
  same_silent (State.e2eAck_silent s m)

/-! ### Faults -/

/-- The state without what the reaction to a fault may change (R463). -/
def State.struck (s : State) : State :=
  { s.silent with safe := {}, stats := {}, clusters := [], job := {}, upd := {}, limbers := [], cow := {}, ingest := {}, snap := {} }
/-- What is equal in two states that agree so far. -/
theorem same_struck {s t : State} (h : s.struck = t.struck) :
    s.time = t.time ∧ s.start = t.start ∧ s.bg = t.bg ∧ s.banks = t.banks ∧ s.stash = t.stash ∧ s.cxl = t.cxl ∧
    s.base = t.base ∧ s.spine = t.spine ∧ s.net = t.net ∧ s.sync = t.sync ∧ s.tally = t.tally ∧ s.power = t.power ∧
    s.mem = t.mem ∧ s.free = t.free ∧ s.pending = t.pending :=
  have k {β : Type} (g : State → β) : g s.struck = g t.struck := congrArg g h
  ⟨k State.time, k State.start, k State.bg, k State.banks, k State.stash, k State.cxl, k State.base, k State.spine,
    k State.net, k State.sync, k State.tally, k State.power, k State.mem, k State.free, k State.pending⟩

theorem struck_of_silent {s t : State} (h : s.silent = t.silent) : s.struck = t.struck := by unfold State.struck; rw [h]
theorem struck_of_quiet {s t : State} (h : s.quiet = t.quiet) : s.struck = t.struck := struck_of_silent (silent_of_quiet h)

theorem State.closeStats_struck (s : State) (k : Nat) (f : Bool) : (s.closeStats k f).struck = s.struck := by
  have aux : ∀ (l : List Bytes) (kind : Nat) (s : State), (l.foldl (fun s b => s.telemetry telemetrySrc kind b) s).struck = s.struck :=
    fun l kind s => foldl_same State.struck _ _ _ fun s b => struck_of_quiet (s.telemetry_quiet _ _ _)
  unfold State.closeStats
  exact (aux _ _ _).trans ((aux _ _ _).trans ((aux _ _ _).trans (struck_of_quiet (State.telemetry_quiet _ _ _ _))))

theorem State.refuseCapture_struck (s : State) (k c : Nat) : (s.refuseCapture k c).struck = s.struck := by
  unfold State.refuseCapture
  exact struck_of_silent ((State.sendAll_silent _ _ _ _ _).trans (silent_of_quiet (State.event_quiet _ _ _ _)))

theorem State.closeIngest_struck (s : State) : s.closeIngest.struck = s.struck := by
  unfold State.closeIngest
  exact foldl_same State.struck _ _ _ fun s f => rfl

theorem State.faultCheckpoint_struck (s : State) (src code : Nat) : (s.faultCheckpoint src code).struck = s.struck := by
  unfold State.faultCheckpoint
  split
  · exact (struck_of_quiet (State.event_quiet _ _ _ _)).trans rfl
  · rfl

theorem State.react_struck (s : State) (src code : Nat) : (s.react src code).struck = s.struck := by
  have h : ∀ t : State, ((t.stopUnits.closeIngest).faultCheckpoint src code).struck = t.struck := fun t =>
    (State.faultCheckpoint_struck _ _ _).trans ((State.closeIngest_struck _).trans rfl)
  have h2 : ∀ (l : List Nat) (t : State), (l.foldl (fun s k => s.closeStats k true) t).struck = t.struck := fun l t =>
    foldl_same State.struck _ _ _ fun s k => s.closeStats_struck k true
  have h3 : ∀ (l : List Nat) (t : State), (l.foldl (fun s k => s.refuseCapture k 4) t).struck = t.struck := fun l t =>
    foldl_same State.struck _ _ _ fun s k => s.refuseCapture_struck k 4
  unfold State.react
  dsimp only
  split
  · exact (h _).trans (h2 _ _)
  · exact (h3 _ _).trans ((struck_of_silent (State.sendAll_silent _ _ _ _ _)).trans ((h _).trans (h2 _ _)))

theorem State.faultAfter_struck (s : State) (src code cause : Nat) (d : Bytes) : (s.faultAfter src code cause d).struck = s.struck := by
  unfold State.faultAfter
  dsimp only
  have h := struck_of_quiet (s.eventAfter_quiet src code cause d)
  split
  · exact h
  · split
    · exact (State.react_struck _ _ _).trans h
    · exact (struck_of_quiet (State.event_quiet _ _ _ _)).trans ((State.react_struck _ _ _).trans h)
theorem State.fault_struck (s : State) (src code : Nat) (d : Bytes) : (s.fault src code d).struck = s.struck := s.faultAfter_struck src code 0 d

@[simp] theorem State.faultAfter_frame (s : State) (src code cause : Nat) (d : Bytes) :
    (s.faultAfter src code cause d).time = s.time ∧ (s.faultAfter src code cause d).start = s.start ∧
    (s.faultAfter src code cause d).bg = s.bg ∧ (s.faultAfter src code cause d).banks = s.banks ∧
    (s.faultAfter src code cause d).stash = s.stash ∧ (s.faultAfter src code cause d).cxl = s.cxl ∧
    (s.faultAfter src code cause d).base = s.base ∧ (s.faultAfter src code cause d).spine = s.spine ∧
    (s.faultAfter src code cause d).net = s.net ∧ (s.faultAfter src code cause d).sync = s.sync ∧
    (s.faultAfter src code cause d).tally = s.tally ∧ (s.faultAfter src code cause d).power = s.power ∧
    (s.faultAfter src code cause d).mem = s.mem ∧ (s.faultAfter src code cause d).free = s.free ∧
    (s.faultAfter src code cause d).pending = s.pending :=
  same_struck (State.faultAfter_struck s src code cause d)

@[simp] theorem State.fault_frame (s : State) (src code : Nat) (d : Bytes) :
    (s.fault src code d).time = s.time ∧ (s.fault src code d).start = s.start ∧ (s.fault src code d).bg = s.bg ∧
    (s.fault src code d).banks = s.banks ∧ (s.fault src code d).stash = s.stash ∧ (s.fault src code d).cxl = s.cxl ∧
    (s.fault src code d).base = s.base ∧ (s.fault src code d).spine = s.spine ∧ (s.fault src code d).net = s.net ∧
    (s.fault src code d).sync = s.sync ∧ (s.fault src code d).tally = s.tally ∧ (s.fault src code d).power = s.power ∧
    (s.fault src code d).mem = s.mem ∧ (s.fault src code d).free = s.free ∧ (s.fault src code d).pending = s.pending :=
  same_struck (State.fault_struck s src code d)

/-! ### Requests -/

theorem State.seqHeard_eq (s : State) (sid : Nat) (a : Bytes) : ∃ l, s.seqHeard sid a = { s with host := { s.host with seqs := l } } := by
  unfold State.seqHeard
  split
  · exact ⟨_, rfl⟩
  · exact ⟨s.host.seqs, rfl⟩
theorem State.executing_start (s : State) (q : Req) : (s.executing q).start = s.start := by
  unfold State.executing; split <;> rfl
theorem State.hearing_start (s : State) (q : Req) : (s.hearing q).start = s.start := by
  unfold State.hearing
  obtain ⟨l, h⟩ := (s.rxFrame.executing q).seqHeard_eq (s.sid q) q.addr
  rw [h]
  exact s.rxFrame.executing_start q
/-- A warden that serves is not deaf. -/
theorem Serving.hears {s : State} (h : Serving s) : s.deaf = false := by
  obtain ⟨h1, h2, h3⟩ := h
  unfold State.deaf
  simp [h1]; omega

/-- What serving a fresh request does. -/
theorem State.serve_fresh {s : State} {q : Req} (h : Fresh s q) (op : Nat) (free stump : Bool) (act : State → Answer) :
    s.serve q op free stump act
      = (if s.sid q = 0 && !free then refuse (s.hearing q) abNoSession else act (s.hearing q)).finish (s.sid q) op q := by
  obtain ⟨hs, hf, he⟩ := h
  unfold State.serve
  rw [if_neg (by simp [hs.hears])]
  have hsp : (s.hearing q).start.stump = none := by rw [State.hearing_start]; exact hs.2.2
  dsimp only
  generalize s.hearing q = x at *
  generalize s.sid q = sid at *
  rw [if_neg (by simp [hf])]
  cases hq : x.seqEntry sid q.addr with
  | none => simp [hsp]
  | some e =>
    obtain ⟨h1, h2⟩ := he e hq
    have h3 : (e.kept.find? fun r => r.seq = q.seq) = none := by simpa [List.find?_eq_none] using h2
    simp [h1, h3, hsp]

theorem State.serve_free {s : State} {q : Req} (h : Fresh s q) (op : Nat) (stump : Bool) (act : State → Answer) :
    s.serve q op true stump act = (act (s.hearing q)).finish (s.sid q) op q := by
  rw [s.serve_fresh h]; simp
theorem State.serve_session {s : State} {q : Req} (h : Fresh s q) (hs : InSession s q) (op : Nat) (free stump : Bool) (act : State → Answer) :
    s.serve q op free stump act = (act (s.hearing q)).finish (s.sid q) op q := by
  have h0 : ¬ s.sid q = 0 := hs
  rw [s.serve_fresh h]; simp [h0]
theorem State.serveWrite_session {s : State} {q : Req} {index sub n : Nat} (h : Fresh s q) (hs : InSession s q)
    (hw : WholeWrite q index sub n) (act : State → Nat → Answer) :
    s.serveWrite q index sub n act = (act (s.hearing q) (leNat q.data)).finish (s.sid q) 2 q := by
  obtain ⟨h1, h2, h3, h4, h5⟩ := hw
  unfold State.serveWrite reqIs
  rw [if_pos (by simp [h1, h2])]
  refine (s.serve_session h hs _ _ _ _).trans ?_
  generalize s.hearing q = x
  rw [if_neg (by simp [h3, h4]), if_neg (by simp [h5])]

theorem Answer.finish_answered (a : Answer) (sid op : Nat) (q : Req) : Answered (a.finish sid op q) q op a.abort a.last a.data := by
  unfold Answered Answer.finish State.sendHost State.emit
  simp

theorem State.keepResponse_eq (s : State) (sid : Nat) (addr : Bytes) (r : Response) :
    ∃ l, s.keepResponse sid addr r = { s with host := { s.host with seqs := l } } := ⟨_, rfl⟩

/-- The state without what answering a request changes. -/
def State.asked (s : State) : State := { s with host := { s.host with seqs := [], sessions := [] }, ctr := [], out := [] }
theorem State.sendHost_asked (s : State) (o : Output) : (s.sendHost o).asked = s.asked := rfl
theorem State.bump_asked (s : State) (k n : Nat) : (s.bump k n).asked = s.asked := rfl
theorem State.keepResponse_asked (s : State) (sid : Nat) (addr : Bytes) (r : Response) : (s.keepResponse sid addr r).asked = s.asked := rfl
theorem Answer.finish_asked (a : Answer) (sid op : Nat) (q : Req) :
    (a.finish sid op q).asked = a.s.asked ∧ (a.finish sid op q).host.sessions = a.s.host.sessions := by
  unfold Answer.finish
  dsimp only
  rw [State.sendHost_asked, State.keepResponse_asked, State.bump_asked]
  exact ⟨rfl, rfl⟩
theorem State.executing_asked (s : State) (q : Req) : (s.executing q).asked = s.asked := by
  unfold State.executing
  split <;> rfl
theorem State.hearing_asked (s : State) (q : Req) : (s.hearing q).asked = s.asked := by
  unfold State.hearing
  obtain ⟨l, h⟩ := (s.rxFrame.executing q).seqHeard_eq (s.sid q) q.addr
  rw [h]
  exact (State.executing_asked _ q).trans rfl

/-! ### Frames by part -/

theorem SameBut.mono {a b : List Part} {s t : State} (h : SameBut a s t) (hab : a ⊆ b) : SameBut b s t :=
  fun p hp => h p fun ha => hp (hab ha)
theorem Part.same_trans {p : Part} {s t u : State} (h : p.same s t) (k : p.same t u) : p.same s u := by
  cases p <;> exact k.trans h
theorem SameBut.trans {a b : List Part} {s t u : State} (h : SameBut a s t) (k : SameBut b t u) : SameBut (a ++ b) s u :=
  fun p hp => Part.same_trans (h p fun ha => hp (List.mem_append_left _ ha)) (k p fun hb => hp (List.mem_append_right _ hb))
theorem sameBut_quieter {s t : State} (h : t.quieter = s.quieter) : SameBut [.host, .ctr, .out] s t := by
  have k := same_quieter h
  intro p hp
  cases p <;> first | exact absurd (by decide) hp | simp [Part.same, k]
theorem sameBut_quiet {s t : State} (h : t.quiet = s.quiet) : SameBut [.log, .host, .ctr, .out] s t := by
  have k := same_quiet h
  intro p hp
  cases p <;> first | exact absurd (by decide) hp | simp [Part.same, k]
theorem sameBut_silent {s t : State} (h : t.silent = s.silent) : SameBut [.log, .skid, .host, .ctr, .out] s t := by
  have k := same_silent h
  intro p hp
  cases p <;> first | exact absurd (by decide) hp | simp [Part.same, k]
theorem sameBut_struck {s t : State} (h : t.struck = s.struck) :
    SameBut [.log, .skid, .host, .ctr, .out, .safe, .stats, .clusters, .job, .upd, .limbers, .cow, .ingest, .snap] s t := by
  have k := same_struck h
  intro p hp
  cases p <;> first | exact absurd (by decide) hp | simp [Part.same, k]
theorem sameBut_asked {s t : State} (h : t.asked = s.asked) : SameBut [.host, .ctr, .out] s t := by
  refine sameBut_quieter ?_
  have k {β : Type} (g : State → β) : g t.asked = g s.asked := congrArg g h
  exact k State.quieter
theorem Answer.finish_sameBut (a : Answer) (sid op : Nat) (q : Req) : SameBut [.host, .ctr, .out] a.s (a.finish sid op q) :=
  sameBut_asked (a.finish_asked sid op q).1
theorem State.hearing_sameBut (s : State) (q : Req) : SameBut [.host, .ctr, .out] s (s.hearing q) := sameBut_asked (s.hearing_asked q)

/-! ### Units by key -/

@[simp] theorem sget_supd_same {v : Type} [DecidableEq v] (d : v) (m : List (Nat × v)) (k : Nat) (f : v → v) :
    sget d (supd d m k f) k = f (sget d m k) := sget_sset_same _ _ _ _
theorem sget_supd_other {v : Type} [DecidableEq v] (d : v) (m : List (Nat × v)) (k j : Nat) (f : v → v) (h : j ≠ k) :
    sget d (supd d m k f) j = sget d m j := sget_sset_other _ _ _ _ _ h
@[simp] theorem State.modCl_cl (s : State) (k : Nat) (f : Cluster → Cluster) : (s.modCl k f).cl k = f (s.cl k) := sget_supd_same _ _ _ _
theorem State.modCl_other (s : State) (k j : Nat) (f : Cluster → Cluster) (h : j ≠ k) : (s.modCl k f).cl j = s.cl j :=
  sget_supd_other _ _ _ _ _ h
@[simp] theorem State.modPort_port (s : State) (k : Nat) (f : SkidPort → SkidPort) : (s.modPort k f).port k = f (s.port k) :=
  sget_supd_same _ _ _ _
theorem State.modPort_other (s : State) (k j : Nat) (f : SkidPort → SkidPort) (h : j ≠ k) : (s.modPort k f).port j = s.port j :=
  sget_supd_other _ _ _ _ _ h

/-! ### Which flows are open -/

theorem State.modFlow_flowKeys (s : State) (id : Nat) (f : Flow → Flow)
    (h : ∀ x, (f x).id = x.id ∧ (f x).channel = x.channel ∧ (f x).session = x.session) : (s.modFlow id f).flowKeys = s.flowKeys := by
  unfold State.flowKeys State.modFlow
  simp only [List.map_map]
  refine List.map_congr_left fun x _ => ?_
  simp only [Function.comp]
  split
  · simp [h x]
  · rfl
theorem State.bump_flowKeys (s : State) (k n : Nat) : (s.bump k n).flowKeys = s.flowKeys := rfl
theorem State.sendHost_flowKeys (s : State) (o : Output) : (s.sendHost o).flowKeys = s.flowKeys := rfl
theorem State.touch_flowKeys (s : State) (i : Nat) : (s.touch i).flowKeys = s.flowKeys := rfl
theorem State.record_flowKeys (s : State) (ch sub : Nat) (bs : Bytes) : (s.record ch sub bs).flowKeys = s.flowKeys := by
  unfold State.record
  split
  · rfl
  · split
    · exact State.bump_flowKeys _ _ _
    · refine foldl_same State.flowKeys _ _ _ fun s f => ?_
      split
      · unfold State.sendBlock
        rw [State.sendHost_flowKeys, State.touch_flowKeys]
        exact s.modFlow_flowKeys f.id _ fun x => ⟨rfl, rfl, rfl⟩
      · exact State.bump_flowKeys _ _ _
theorem State.event_flowKeys (s : State) (src code : Nat) (d : Bytes) : (s.event src code d).flowKeys = s.flowKeys := by
  unfold State.event State.eventAfter
  split
  · rfl
  · rw [State.record_flowKeys]; unfold State.flowKeys; simp only [State.bump_frame]

/-! ### The host port beside its flows -/

/-- The host port without its flows. -/
def HostPort.calm (h : HostPort) : HostPort := { h with flows := [], sessions := h.standing }
theorem State.touch_standing (s : State) (i : Nat) : (s.touch i).host.standing = s.host.standing := by
  unfold State.touch State.modSession HostPort.standing
  simp only [List.map_map]
  refine List.map_congr_left fun x _ => ?_
  simp only [Function.comp]
  split <;> rfl
theorem State.touch_calm (s : State) (i : Nat) : (s.touch i).host.calm = s.host.calm := by
  unfold HostPort.calm
  rw [State.touch_standing]; rfl
theorem State.record_calm (s : State) (ch sub : Nat) (bs : Bytes) : (s.record ch sub bs).host.calm = s.host.calm := by
  unfold State.record
  split
  · rfl
  · split
    · rfl
    · refine foldl_same (fun s => s.host.calm) _ _ _ fun s f => ?_
      split
      · exact ((s.modFlow f.id _).touch_calm f.session).trans rfl
      · rfl
theorem State.eventAfter_calm (s : State) (src code cause : Nat) (d : Bytes) : (s.eventAfter src code cause d).host.calm = s.host.calm := by
  unfold State.eventAfter
  split
  · rfl
  · rw [State.record_calm]; simp only [State.bump_frame]
theorem State.event_calm (s : State) (src code : Nat) (d : Bytes) : (s.event src code d).host.calm = s.host.calm :=
  s.eventAfter_calm src code 0 d
@[simp] theorem State.event_host (s : State) (src code : Nat) (d : Bytes) :
    (s.event src code d).host.standing = s.host.standing ∧ (s.event src code d).host.seqs = s.host.seqs ∧
    (s.event src code d).host.nonces = s.host.nonces ∧ (s.event src code d).host.nextNonce = s.host.nextNonce ∧
    (s.event src code d).host.nextSession = s.host.nextSession ∧ (s.event src code d).host.failures = s.host.failures ∧
    (s.event src code d).host.lockedUntil = s.host.lockedUntil ∧ (s.event src code d).host.nextFlow = s.host.nextFlow ∧
    (s.event src code d).host.library = s.host.library ∧ (s.event src code d).host.linkState = s.host.linkState ∧
    (s.event src code d).host.laneMode = s.host.laneMode ∧ (s.event src code d).host.linkChanged = s.host.linkChanged ∧
    (s.event src code d).host.crcDiscard = s.host.crcDiscard := by
  have k {β : Type} (g : HostPort → β) : g (s.event src code d).host.calm = g s.host.calm := congrArg g (s.event_calm src code d)
  exact ⟨k (·.sessions), k (·.seqs), k (·.nonces), k (·.nextNonce), k (·.nextSession), k (·.failures), k (·.lockedUntil), k (·.nextFlow),
    k (·.library), k (·.linkState), k (·.laneMode), k (·.linkChanged), k (·.crcDiscard)⟩

/-! ### Flows and sessions that end -/

/-- The state without what the end of a flow may change. -/
def State.bereft (s : State) : State := { s.quiet with snap := {} }
theorem bereft_of_quiet {s t : State} (h : s.quiet = t.quiet) : s.bereft = t.bereft := by unfold State.bereft; rw [h]
theorem sameBut_bereft {s t : State} (h : t.bereft = s.bereft) : SameBut [.log, .host, .snap, .ctr, .out] s t := by
  have k {β : Type} (g : State → β) : g t.bereft = g s.bereft := congrArg g h
  intro p hp
  cases p <;> first
    | exact absurd (by decide) hp
    | exact k State.time | exact k State.start | exact k State.safe | exact k State.bg | exact k State.stats | exact k State.clusters
    | exact k State.job | exact k State.upd | exact k State.banks | exact k State.limbers | exact k State.stash | exact k State.cow
    | exact k State.cxl | exact k State.base | exact k State.spine | exact k State.skid | exact k State.net | exact k State.sync
    | exact k State.tally | exact k State.ingest | exact k State.power | exact k State.mem | exact k State.free | exact k State.pending

/-- What the end of a flow's use leaves alone. -/
def State.intact (s : State) : State × List (Nat × Nat × Nat) × List Session := (s.bereft, s.flowKeys, s.host.standing)
theorem State.flowLost_intact (s : State) (f : Flow) : (s.flowLost f).intact = s.intact := by
  have ev : ∀ (s : State) code, (s.event wardenSrc code).intact = s.intact := fun s code => by
    unfold State.intact
    rw [bereft_of_quiet (s.event_quiet wardenSrc code []), s.event_flowKeys, (s.event_host _ _ _).1]
  have h1 : ∀ (s : State) (l : List (Nat × Bytes)), ({ s with host := { s.host with library := l } } : State).intact = s.intact := fun _ _ => rfl
  have h2 : ∀ (s : State) (x : Snaps), ({ s with snap := x } : State).intact = s.intact := fun _ _ => rfl
  have last : ∀ (b : State), (if b.snap.restore.flow = some f.id ∧ b.snap.restore.state = 1 then
      ({ b with snap := { b.snap with restore := { b.snap.restore with state := 3, flow := none, verified := 0, image := [], manifest := [] } } }).event
        wardenSrc 0x3308 else b).intact = b.intact := by
    intro b
    split
    · exact (ev _ _).trans (h2 _ _)
    · rfl
  have mid : ∀ (a : State), (match a.snap.checkpoint with
      | some c => if c.flow = some f.id then
          ({ a with snap := { a.snap with checkpoint := some { c with flow := none, since := a.time.cycles } } }).event wardenSrc 0x3306
        else a
      | none => a).intact = a.intact := by
    intro a
    cases a.snap.checkpoint with
    | none => rfl
    | some c =>
      dsimp only
      split
      · exact (ev _ _).trans (h2 _ _)
      · rfl
  unfold State.flowLost
  refine (last _).trans ((mid _).trans ?_)
  split
  · exact h1 _ _
  · rfl
theorem State.flowLost_spec (s : State) (f : Flow) :
    (s.flowLost f).bereft = s.bereft ∧ (s.flowLost f).flowKeys = s.flowKeys ∧ (s.flowLost f).host.standing = s.host.standing := by
  have h := s.flowLost_intact f
  unfold State.intact at h
  simp only [Prod.mk.injEq] at h
  exact h

theorem State.closeFlow_spec (s : State) (f : Flow) :
    (s.closeFlow f).bereft = s.bereft ∧ (s.closeFlow f).flowKeys = s.flowKeys.filter (fun k => k.1 ≠ f.id) := by
  unfold State.closeFlow
  refine ⟨(State.flowLost_spec _ _).1.trans rfl, (State.flowLost_spec _ _).2.1.trans ?_⟩
  unfold State.flowKeys
  simp [List.filter_map, Function.comp_def]

/-- After the end of some flows no flow with one of their numbers is open, and no other flow is lost. -/
theorem State.closeFlows_spec (l : List Flow) (s : State) :
    (l.foldl State.closeFlow s).bereft = s.bereft ∧
      (l.foldl State.closeFlow s).flowKeys = s.flowKeys.filter fun k => ∀ f ∈ l, k.1 ≠ f.id := by
  induction l generalizing s with
  | nil => exact ⟨rfl, by simp⟩
  | cons f l ih =>
    rw [List.foldl_cons]
    refine ⟨(ih _).1.trans (s.closeFlow_spec f).1, (ih _).2.trans ?_⟩
    rw [(s.closeFlow_spec f).2, List.filter_filter]
    refine List.filter_congr fun k _ => ?_
    simp [Bool.and_comm]

/-- What closing a session does. -/
theorem State.closeSession_spec (s : State) (id cause : Nat) :
    (s.closeSession id cause).bereft = s.bereft ∧ (∀ k ∈ (s.closeSession id cause).flowKeys, k.2.2 ≠ id) ∧
      (s.start.wardenHeld = false → Raised (s.closeSession id cause) wardenSrc 0x8202) := by
  unfold State.closeSession
  dsimp only
  generalize hm : s.host.flows.filter (fun f => f.session = id) = mine
  obtain ⟨h1, h2⟩ := State.closeFlows_spec mine s
  refine ⟨(bereft_of_quiet (State.event_quiet _ _ _ _)).trans (Eq.trans rfl h1), fun k hk => ?_, fun hw => ?_⟩
  · rw [State.event_flowKeys] at hk
    replace hk : k ∈ (mine.foldl State.closeFlow s).flowKeys := hk
    rw [h2, List.mem_filter] at hk
    obtain ⟨hk1, hk2⟩ := hk
    intro hid
    simp only [State.flowKeys, List.mem_map] at hk1
    obtain ⟨f, hf, rfl⟩ := hk1
    have : f ∈ mine := by rw [← hm]; exact List.mem_filter.2 ⟨hf, by simpa using hid⟩
    exact absurd rfl ((of_decide_eq_true hk2) f this)
  · refine ⟨_, State.event_ring _ _ _ _ ?_, rfl, rfl⟩
    have := congrArg (fun s : State => s.start.wardenHeld) h1
    exact Eq.trans this hw

/-- A closed session is not in the list; the other sessions are those there were. -/
theorem State.closeFlows_standing (l : List Flow) (s : State) : (l.foldl State.closeFlow s).host.standing = s.host.standing := by
  refine foldl_same (fun s => s.host.standing) _ _ _ fun s f => ?_
  exact (State.flowLost_spec _ _).2.2
theorem State.closeSession_standing (s : State) (id cause : Nat) :
    (s.closeSession id cause).host.standing = s.host.standing.filter fun x => x.id ≠ id := by
  unfold State.closeSession
  dsimp only
  rw [(State.event_host _ _ _ _).1, ← State.closeFlows_standing (s.host.flows.filter fun f => f.session = id) s]
  generalize (s.host.flows.filter fun f => f.session = id).foldl State.closeFlow s = t
  unfold HostPort.standing
  rw [List.filter_map]
  rfl

/-! ### Parts of a state in which a request is served -/

theorem same_asked {s t : State} (h : s.asked = t.asked) :
    s.time = t.time ∧ s.start = t.start ∧ s.log = t.log ∧ s.safe = t.safe ∧ s.bg = t.bg ∧ s.stats = t.stats ∧
    s.clusters = t.clusters ∧ s.job = t.job ∧ s.upd = t.upd ∧ s.banks = t.banks ∧ s.limbers = t.limbers ∧
    s.stash = t.stash ∧ s.cow = t.cow ∧ s.cxl = t.cxl ∧ s.base = t.base ∧ s.spine = t.spine ∧ s.skid = t.skid ∧
    s.net = t.net ∧ s.sync = t.sync ∧ s.tally = t.tally ∧ s.ingest = t.ingest ∧ s.snap = t.snap ∧
    s.power = t.power ∧ s.mem = t.mem ∧ s.free = t.free ∧ s.pending = t.pending ∧ s.host.nonces = t.host.nonces ∧
    s.host.nextNonce = t.host.nextNonce ∧ s.host.nextSession = t.host.nextSession ∧ s.host.failures = t.host.failures ∧
    s.host.lockedUntil = t.host.lockedUntil ∧ s.host.flows = t.host.flows ∧ s.host.nextFlow = t.host.nextFlow ∧
    s.host.library = t.host.library ∧ s.host.linkState = t.host.linkState ∧ s.host.laneMode = t.host.laneMode ∧
    s.host.fecUncorrected = t.host.fecUncorrected ∧ s.host.crcDiscard = t.host.crcDiscard ∧
    s.host.linkChanged = t.host.linkChanged := by
  have k {β : Type} (g : State → β) : g s.asked = g t.asked := congrArg g h
  exact ⟨k (·.time), k (·.start), k (·.log), k (·.safe), k (·.bg), k (·.stats), k (·.clusters), k (·.job), k (·.upd),
    k (·.banks), k (·.limbers), k (·.stash), k (·.cow), k (·.cxl), k (·.base), k (·.spine), k (·.skid), k (·.net),
    k (·.sync), k (·.tally), k (·.ingest), k (·.snap), k (·.power), k (·.mem), k (·.free), k (·.pending), k (·.host.nonces),
    k (·.host.nextNonce), k (·.host.nextSession), k (·.host.failures), k (·.host.lockedUntil), k (·.host.flows),
    k (·.host.nextFlow), k (·.host.library), k (·.host.linkState), k (·.host.laneMode), k (·.host.fecUncorrected),
    k (·.host.crcDiscard), k (·.host.linkChanged)⟩
@[simp] theorem State.hearing_frame (s : State) (q : Req) :
    (s.hearing q).time = s.time ∧ (s.hearing q).start = s.start ∧ (s.hearing q).log = s.log ∧
    (s.hearing q).safe = s.safe ∧ (s.hearing q).bg = s.bg ∧ (s.hearing q).stats = s.stats ∧
    (s.hearing q).clusters = s.clusters ∧ (s.hearing q).job = s.job ∧ (s.hearing q).upd = s.upd ∧
    (s.hearing q).banks = s.banks ∧ (s.hearing q).limbers = s.limbers ∧ (s.hearing q).stash = s.stash ∧
    (s.hearing q).cow = s.cow ∧ (s.hearing q).cxl = s.cxl ∧ (s.hearing q).base = s.base ∧
    (s.hearing q).spine = s.spine ∧ (s.hearing q).skid = s.skid ∧ (s.hearing q).net = s.net ∧
    (s.hearing q).sync = s.sync ∧ (s.hearing q).tally = s.tally ∧ (s.hearing q).ingest = s.ingest ∧
    (s.hearing q).snap = s.snap ∧ (s.hearing q).power = s.power ∧ (s.hearing q).mem = s.mem ∧
    (s.hearing q).free = s.free ∧ (s.hearing q).pending = s.pending ∧ (s.hearing q).host.nonces = s.host.nonces ∧
    (s.hearing q).host.nextNonce = s.host.nextNonce ∧ (s.hearing q).host.nextSession = s.host.nextSession ∧
    (s.hearing q).host.failures = s.host.failures ∧ (s.hearing q).host.lockedUntil = s.host.lockedUntil ∧
    (s.hearing q).host.flows = s.host.flows ∧ (s.hearing q).host.nextFlow = s.host.nextFlow ∧
    (s.hearing q).host.library = s.host.library ∧ (s.hearing q).host.linkState = s.host.linkState ∧
    (s.hearing q).host.laneMode = s.host.laneMode ∧ (s.hearing q).host.fecUncorrected = s.host.fecUncorrected ∧
    (s.hearing q).host.crcDiscard = s.host.crcDiscard ∧ (s.hearing q).host.linkChanged = s.host.linkChanged :=
  same_asked (s.hearing_asked q)
theorem State.executing_ctr (s : State) (q : Req) : (s.executing q).ctr = s.ctr := by
  unfold State.executing
  split <;> rfl
theorem State.executing_out (s : State) (q : Req) : (s.executing q).out = s.out := by
  unfold State.executing
  split <;> rfl
@[simp] theorem State.hearing_ctr (s : State) (q : Req) : (s.hearing q).ctr = s.rxFrame.ctr := by
  unfold State.hearing
  obtain ⟨l, h⟩ := (s.rxFrame.executing q).seqHeard_eq (s.sid q) q.addr
  rw [h]
  exact State.executing_ctr _ q
@[simp] theorem State.hearing_out (s : State) (q : Req) : (s.hearing q).out = s.out := by
  unfold State.hearing
  obtain ⟨l, h⟩ := (s.rxFrame.executing q).seqHeard_eq (s.sid q) q.addr
  rw [h]
  exact (State.executing_out _ q).trans rfl
@[simp] theorem State.hearing_stamp (s : State) (q : Req) : (s.hearing q).stamp = s.stamp := by
  unfold State.stamp
  simp
@[simp] theorem Answer.finish_frame (a : Answer) (sid op : Nat) (q : Req) :
    (a.finish sid op q).time = a.s.time ∧ (a.finish sid op q).start = a.s.start ∧ (a.finish sid op q).log = a.s.log ∧
    (a.finish sid op q).safe = a.s.safe ∧ (a.finish sid op q).bg = a.s.bg ∧ (a.finish sid op q).stats = a.s.stats ∧
    (a.finish sid op q).clusters = a.s.clusters ∧ (a.finish sid op q).job = a.s.job ∧ (a.finish sid op q).upd = a.s.upd ∧
    (a.finish sid op q).banks = a.s.banks ∧ (a.finish sid op q).limbers = a.s.limbers ∧
    (a.finish sid op q).stash = a.s.stash ∧ (a.finish sid op q).cow = a.s.cow ∧ (a.finish sid op q).cxl = a.s.cxl ∧
    (a.finish sid op q).base = a.s.base ∧ (a.finish sid op q).spine = a.s.spine ∧ (a.finish sid op q).skid = a.s.skid ∧
    (a.finish sid op q).net = a.s.net ∧ (a.finish sid op q).sync = a.s.sync ∧ (a.finish sid op q).tally = a.s.tally ∧
    (a.finish sid op q).ingest = a.s.ingest ∧ (a.finish sid op q).snap = a.s.snap ∧ (a.finish sid op q).power = a.s.power ∧
    (a.finish sid op q).mem = a.s.mem ∧ (a.finish sid op q).free = a.s.free ∧ (a.finish sid op q).pending = a.s.pending ∧
    (a.finish sid op q).host.nonces = a.s.host.nonces ∧ (a.finish sid op q).host.nextNonce = a.s.host.nextNonce ∧
    (a.finish sid op q).host.nextSession = a.s.host.nextSession ∧ (a.finish sid op q).host.failures = a.s.host.failures ∧
    (a.finish sid op q).host.lockedUntil = a.s.host.lockedUntil ∧ (a.finish sid op q).host.flows = a.s.host.flows ∧
    (a.finish sid op q).host.nextFlow = a.s.host.nextFlow ∧ (a.finish sid op q).host.library = a.s.host.library ∧
    (a.finish sid op q).host.linkState = a.s.host.linkState ∧ (a.finish sid op q).host.laneMode = a.s.host.laneMode ∧
    (a.finish sid op q).host.fecUncorrected = a.s.host.fecUncorrected ∧
    (a.finish sid op q).host.crcDiscard = a.s.host.crcDiscard ∧ (a.finish sid op q).host.linkChanged = a.s.host.linkChanged :=
  same_asked (a.finish_asked sid op q).1
@[simp] theorem Answer.finish_ctr (a : Answer) (sid op : Nat) (q : Req) : (a.finish sid op q).ctr = ((a.s.bump kRequests 1).bump kFramesTx 1).ctr := rfl

/-- A request whose number is that of a kept response. -/
theorem State.serve_duplicate {s : State} {q : Req} (h : s.deaf = false) (hf : q.full = false) {e : SeqEntry} {r : Response}
    (he : (s.hearing q).seqEntry (s.sid q) q.addr = some e) (hr : e.kept.find? (fun r => r.seq = q.seq) = some r) (op : Nat)
    (free stump : Bool) (act : State → Answer) :
    s.serve q op free stump act = ((s.hearing q).bump kDuplicates 1).sendHost (.response r) := by
  unfold State.serve
  rw [if_neg (by simp [h])]
  dsimp only
  rw [if_neg (by simp [hf]), he]
  simp [hr]
/-- A request whose number is not later than the newest. -/
theorem State.serve_stale {s : State} {q : Req} (h : s.deaf = false) (hf : q.full = false) {e : SeqEntry}
    (he : (s.hearing q).seqEntry (s.sid q) q.addr = some e) (hr : ∀ r ∈ e.kept, r.seq ≠ q.seq)
    (hl : serialLater e.newest q.seq = false) (op : Nat) (free stump : Bool) (act : State → Answer) :
    s.serve q op free stump act = (s.hearing q).bump kOtdinDiscards 1 := by
  unfold State.serve
  rw [if_neg (by simp [h])]
  dsimp only
  have hn : (e.kept.find? fun r => r.seq = q.seq) = none := by simpa [List.find?_eq_none] using hr
  rw [if_neg (by simp [hf]), he]
  simp [hn, hl]
/-- A request that the full queue turns away. -/
theorem State.serve_full {s : State} {q : Req} (h : s.deaf = false) (hf : q.full = true) (op : Nat) (free stump : Bool)
    (act : State → Answer) :
    s.serve q op free stump act = (s.hearing q).sendHost (.response (reqResponse q op abOverload true [])) := by
  unfold State.serve
  rw [if_neg (by simp [h])]
  dsimp only
  rw [if_pos hf]

/-! ### Counters -/

@[simp] theorem State.bump_count (s : State) (k n : Nat) : (s.bump k n).count k = s.count k + n := by
  unfold State.bump State.count
  simp
theorem State.bump_count_other (s : State) (k j n : Nat) (h : j ≠ k) : (s.bump k n).count j = s.count j :=
  sget_sset_other _ _ _ _ _ h
theorem State.sendHost_count (s : State) (o : Output) (k : Nat) (h : k ≠ kFramesTx) : (s.sendHost o).count k = s.count k :=
  (congrArg (sget 0 · k) (show (s.sendHost o).ctr = (s.bump kFramesTx 1).ctr from rfl)).trans (s.bump_count_other kFramesTx k 1 h)
theorem State.record_count (s : State) (ch sub : Nat) (bs : Bytes) (k : Nat) (h : k ≠ kRecordsLost) (ht : k ≠ kFramesTx) :
    (s.record ch sub bs).count k = s.count k := by
  unfold State.record
  split
  · rfl
  · split
    · exact State.bump_count_other _ _ _ _ h
    · refine foldl_same (fun s => s.count k) _ _ _ fun s f => ?_
      split
      · exact State.sendHost_count _ _ _ ht
      · exact State.bump_count_other _ _ _ _ h
/-- An event leaves every counter but those of event records and of sent frames alone. -/
theorem State.eventAfter_count (s : State) (src code cause : Nat) (d : Bytes) (k : Nat) (h : k ≠ kRecordsLost) (h2 : k ≠ kEventRecords)
    (h3 : k ≠ kFramesTx) :
    (s.eventAfter src code cause d).count k = s.count k := by
  unfold State.eventAfter
  split
  · rfl
  · rw [State.record_count _ _ _ _ _ h h3, State.bump_count_other _ _ _ _ h2]; simp only [State.count]
theorem State.event_count (s : State) (src code : Nat) (d : Bytes) (k : Nat) (h : k ≠ kRecordsLost) (h2 : k ≠ kEventRecords)
    (h3 : k ≠ kFramesTx) : (s.event src code d).count k = s.count k := s.eventAfter_count src code 0 d k h h2 h3

/-! ### Writing flash -/

/-- The state without what writing flash changes. -/
def State.unburnt (s : State) : State := { s.quiet with bg := {} }
theorem State.flashWrite_spec (s : State) (r : FlashReport) (n : Nat) :
    (s.flashWrite r n).unburnt = s.unburnt ∧ (s.flashWrite r n).bg.bytesWritten = s.bg.bytesWritten + n := by
  have ev : ∀ (s : State) code, (s.event wardenSrc code).unburnt = s.unburnt ∧ (s.event wardenSrc code).bg = s.bg := fun s code =>
    ⟨congrArg (fun x : State => ({ x with bg := {} } : State)) (s.event_quiet wardenSrc code []), by simp⟩
  have h2 : ∀ (l : List Nat) (s : State), (l.foldl (fun s _ => s.event wardenSrc 0x8300) s).unburnt = s.unburnt ∧
      (l.foldl (fun s _ => s.event wardenSrc 0x8300) s).bg = s.bg := fun l s =>
    ⟨foldl_same State.unburnt _ _ _ fun s _ => (ev s _).1, foldl_same State.bg _ _ _ fun s _ => (ev s _).2⟩
  unfold State.flashWrite
  dsimp only
  split
  · refine ⟨(ev _ _).1.trans (Eq.trans rfl ((h2 _ _).1.trans rfl)), ?_⟩
    rw [(ev _ _).2]
    dsimp only
    rw [(h2 _ _).2]
  · exact ⟨(h2 _ _).1.trans rfl, by rw [(h2 _ _).2]⟩
theorem sameBut_unburnt {s t : State} (h : t.unburnt = s.unburnt) : SameBut [.log, .host, .bg, .ctr, .out] s t := by
  have k {β : Type} (g : State → β) : g t.unburnt = g s.unburnt := congrArg g h
  intro p hp
  cases p <;> first
    | exact absurd (by decide) hp
    | exact k State.time | exact k State.start | exact k State.safe | exact k State.stats | exact k State.clusters
    | exact k State.job | exact k State.upd | exact k State.banks | exact k State.limbers | exact k State.stash | exact k State.cow
    | exact k State.cxl | exact k State.base | exact k State.spine | exact k State.skid | exact k State.net | exact k State.sync
    | exact k State.tally | exact k State.ingest | exact k State.snap | exact k State.power | exact k State.mem | exact k State.free
    | exact k State.pending

end Sys2Proof.Machine
end

