-- ==== Sys2Proof/Laws/Faults.lean ====
section
/-! SUPPORT. What a fault leaves behind (R463, R479, R552): its record, the latch, the inhibit, the job in `FAULT`. -/

namespace Sys2Proof.Machine

/-- The parts of the state that tell of faults. -/
def State.scars (s : State) : List EventRec × Safety × Job := (s.log.history, s.safe, s.job)

theorem State.telemetry_scars (s : State) (src kind : Nat) (b : Bytes) : (s.telemetry src kind b).scars = s.scars := by
  unfold State.telemetry State.scars; dsimp only; simp [Log.advance]
theorem State.event_scars (s : State) (src code : Nat) (d : Bytes) : (s.event src code d).scars = s.scars := by
  unfold State.scars; rw [show (s.event src code d).log.history = s.log.history from s.eventAfter_history _ _ _ _]; simp
/-- What is on record, with the scars: forming and sending a message raises nothing. -/
def State.recorded (s : State) : List EventRec × List EventRec × Safety × Job := (s.log.ring, s.scars)
theorem State.beginMsg_recorded (s : State) (n cls : Nat) : (s.beginMsg n cls).recorded = s.recorded := by
  unfold State.beginMsg
  dsimp only
  split
  · rfl
  · split
    · rfl
    · split <;> rfl
theorem State.sendFrame_recorded (s : State) (n cls k : Nat) : (s.sendFrame n cls k).recorded = s.recorded := by
  unfold State.sendFrame
  split <;> rfl
theorem State.pumpLoop_recorded (s : State) (n fuel : Nat) : (s.pumpLoop n fuel).recorded = s.recorded := by
  induction fuel generalizing s with
  | zero => rfl
  | succ k ih =>
    unfold State.pumpLoop
    split
    · rename_i t e
      refine (ih t).trans ?_
      unfold State.sendNext at e
      dsimp only at e
      split at e
      · cases e
      · obtain ⟨c, _, rfl⟩ := Option.map_eq_some_iff.1 e
        exact (State.sendFrame_recorded _ _ _ _).trans (State.beginMsg_recorded _ _ _)
    · rfl
theorem State.pumpPort_recorded (s : State) (n : Nat) : (s.pumpPort n).recorded = s.recorded := s.pumpLoop_recorded n _
theorem State.sendOn_recorded (s : State) (n src kind dst arg : Nat) (b : Bytes) : (s.sendOn n src kind dst arg b).recorded = s.recorded := by
  unfold State.sendOn State.newMsg State.putMsg; rw [State.pumpPort_recorded]; rfl
theorem State.sendTo_recorded (s : State) (src kind dst arg : Nat) (b : Bytes) : (s.sendTo src kind dst arg b).recorded = s.recorded := by
  unfold State.sendTo; split
  · rfl
  · exact State.sendOn_recorded _ _ _ _ _ _ _
theorem scars_of {s t : State} (h : t.recorded = s.recorded) : t.scars = s.scars := congrArg Prod.snd h
theorem State.pumpPort_scars (s : State) (n : Nat) : (s.pumpPort n).scars = s.scars := scars_of (s.pumpPort_recorded n)
theorem State.sendTo_scars (s : State) (src kind dst arg : Nat) (b : Bytes) : (s.sendTo src kind dst arg b).scars = s.scars :=
  scars_of (s.sendTo_recorded _ _ _ _ _)
theorem State.sendAll_scars (s : State) (src kind arg : Nat) (b : Bytes) : (s.sendAll src kind arg b).scars = s.scars :=
  foldl_same State.scars _ _ _ fun s _ => s.sendTo_scars _ _ _ _ _
theorem State.closeStats_scars (s : State) (k : Nat) (f : Bool) : (s.closeStats k f).scars = s.scars := by
  have aux : ∀ (l : List Bytes) (kind : Nat) (s : State), (l.foldl (fun s b => s.telemetry telemetrySrc kind b) s).scars = s.scars :=
    fun l kind s => foldl_same State.scars _ _ _ fun s b => s.telemetry_scars _ _ _
  unfold State.closeStats
  exact (aux _ _ _).trans ((aux _ _ _).trans ((aux _ _ _).trans (State.telemetry_scars _ _ _ _)))
theorem State.refuseCapture_scars (s : State) (k c : Nat) : (s.refuseCapture k c).scars = s.scars := by
  unfold State.refuseCapture
  exact (State.sendAll_scars _ _ _ _ _).trans (State.event_scars _ _ _ _)
theorem State.closeIngest_scars (s : State) : s.closeIngest.scars = s.scars := by
  unfold State.closeIngest
  exact foldl_same State.scars _ _ _ fun s f => rfl
theorem State.faultCheckpoint_scars (s : State) (src code : Nat) : (s.faultCheckpoint src code).scars = s.scars := by
  unfold State.faultCheckpoint
  split
  · exact (State.event_scars _ _ _ _).trans rfl
  · rfl

theorem State.react_scars (s : State) (src code : Nat) :
    (s.react src code).log.history = s.log.history ∧ (s.react src code).safe = { s.safe with latch := true, inhibit := true } ∧
    (s.react src code).job = match s.job.plan with
      | none => s.job
      | some _ => { s.job with state := .fault, pendingPause := none, resumeAt := none, stopping := false } := by
  have h : ∀ t : State, ((t.stopUnits.closeIngest).faultCheckpoint src code).scars = t.scars := fun t =>
    (State.faultCheckpoint_scars _ _ _).trans ((State.closeIngest_scars _).trans rfl)
  have h2 : ∀ (l : List Nat) (t : State), (l.foldl (fun s k => s.closeStats k true) t).scars = t.scars := fun l t =>
    foldl_same State.scars _ _ _ fun s k => s.closeStats_scars k true
  have h3 : ∀ (l : List Nat) (t : State), (l.foldl (fun s k => s.refuseCapture k 4) t).scars = t.scars := fun l t =>
    foldl_same State.scars _ _ _ fun s k => s.refuseCapture_scars k 4
  unfold State.react
  dsimp only
  have hp : ∀ t : State, t.scars = ({ s with safe := { s.safe with latch := true, inhibit := true } } : State).scars →
      t.job.plan = s.job.plan := fun t ht => congrArg (fun x => x.2.2.plan) ht
  have key := (h (s.openSteps.foldl (fun s k => s.closeStats k true) { s with safe := { s.safe with latch := true, inhibit := true } })).trans (h2 _ _)
  have hplan := hp _ key
  revert key hplan
  generalize State.faultCheckpoint _ src code = w
  intro key hplan
  have a1 : w.log.history = s.log.history := congrArg (·.1) key
  have a2 : w.safe = { s.safe with latch := true, inhibit := true } := congrArg (·.2.1) key
  have a3 : w.job = s.job := congrArg (·.2.2) key
  split
  · rename_i hn
    rw [hplan] at hn
    rw [hn]
    exact ⟨a1, a2, a3⟩
  · rename_i p hn
    rw [hplan] at hn
    rw [hn]
    have key2 := (h3 ((s.job.steps.filter fun e => e.2.opened ≠ 0 && !e.2.cleared && s.captures e.1).map fun e => e.1) _).trans
      (State.sendAll_scars { w with job := { w.job with state := .fault, pendingPause := none, resumeAt := none, stopping := false } }
        wardenSrc 10 code (u16 src))
    refine ⟨(congrArg (·.1) key2).trans a1, (congrArg (·.2.1) key2).trans a2, (congrArg (·.2.2) key2).trans ?_⟩
    simp [State.scars, a3, hn]

/-- A fault's record is the newest of `FAULT_HISTORY`; the latch is set; the first fault is kept, and sets the commit inhibit
and, where a plan is loaded, the job's state. -/
theorem State.fault_spec (s : State) (src code : Nat) (d : Bytes) :
    Faulted (s.fault src code d) src code ∧ (s.fault src code d).safe.latch = true ∧
    (s.safe.latch = true → (s.fault src code d).safe = s.safe ∧ (s.fault src code d).job = s.job) ∧
    (s.safe.latch = false → (s.fault src code d).safe.inhibit = true ∧ (s.fault src code d).safe.first.code = code ∧
      (s.fault src code d).safe.first.source = src ∧
      (s.job.plan ≠ none → (s.fault src code d).job.state = .fault) ∧ (s.fault src code d).job.plan = s.job.plan) := by
  have he : ∀ t : State, (t.event wardenSrc 0x1000 (u16 code)).scars = t.scars := fun t => t.event_scars _ _ _
  have h1 : ((s.eventAfter src code 0 d).bump kFaultCount 1).scars = s.scars := s.event_scars src code d
  unfold State.fault State.faultAfter
  dsimp only
  generalize hu : ({ (s.eventAfter src code 0 d).bump kFaultCount 1 with
    log := { ((s.eventAfter src code 0 d).bump kFaultCount 1).log with
      history := newest 64 (((s.eventAfter src code 0 d).bump kFaultCount 1).log.history ++ [s.mkRecord src code 0 d]) } } : State) = u
  have hl : u.log.history.getLast? = some (s.mkRecord src code 0 d) := by rw [← hu]; exact newest_snoc 64 _ _ (by decide)
  have hs : u.safe = s.safe := by rw [← hu]; exact congrArg (·.2.1) h1
  have hj : u.job = s.job := by rw [← hu]; exact congrArg (·.2.2) h1
  have hr := u.react_scars src code
  split
  · rename_i hla
    refine ⟨⟨_, hl, rfl, rfl⟩, hs ▸ hla, fun _ => ⟨hs, hj⟩, fun h => absurd hla (by simp [h])⟩
  · rename_i hla
    have hfin : ∀ (t : State) (r : FaultFirst), r.code = code → r.source = src →
        t.scars = ({ u.react src code with safe := { (u.react src code).safe with first := r } } : State).scars →
        Faulted t src code ∧ t.safe.latch = true ∧ (s.safe.latch = true → t.safe = s.safe ∧ t.job = s.job) ∧
        (s.safe.latch = false → t.safe.inhibit = true ∧ t.safe.first.code = code ∧ t.safe.first.source = src ∧
          (s.job.plan ≠ none → t.job.state = .fault) ∧ t.job.plan = s.job.plan) := by
      intro t r rc rs ht
      have a1 : t.log.history = (u.react src code).log.history := congrArg (·.1) ht
      have a2 : t.safe = { (u.react src code).safe with first := r } := congrArg (·.2.1) ht
      have a3 : t.job = (u.react src code).job := congrArg (·.2.2) ht
      refine ⟨⟨_, by rw [a1, hr.1]; exact hl, rfl, rfl⟩, by rw [a2, hr.2.1], fun h => absurd h hla, fun _ => ⟨?_, ?_, ?_, ?_, ?_⟩⟩
      · rw [a2, hr.2.1]
      · rw [a2]; exact rc
      · rw [a2]; exact rs
      · intro hp
        rw [a3, hr.2.2, hj]
        split
        · rename_i h; exact absurd h hp
        · rfl
      · rw [a3, hr.2.2, hj]; split <;> rfl
    split
    · exact hfin _ _ rfl rfl rfl
    · exact hfin _ _ rfl rfl (he _)

/-- The first fault of a module with a plan loaded puts its job in `FAULT`; no other fault changes the job. -/
theorem State.fault_job_eq (s : State) (src code : Nat) (d : Bytes) : (s.fault src code d).job =
    if s.safe.latch = true ∨ s.job.plan = none then s.job
    else { s.job with state := .fault, pendingPause := none, resumeAt := none, stopping := false } := by
  by_cases hl : s.safe.latch = true
  · rw [if_pos (.inl hl)]; exact ((s.fault_spec src code d).2.2.1 hl).2
  have he : ∀ t : State, (t.event wardenSrc 0x1000 (u16 code)).scars = t.scars := fun t => t.event_scars _ _ _
  have h1 : ((s.eventAfter src code 0 d).bump kFaultCount 1).scars = s.scars := s.event_scars src code d
  unfold State.fault State.faultAfter
  dsimp only
  generalize hu : ({ (s.eventAfter src code 0 d).bump kFaultCount 1 with
    log := { ((s.eventAfter src code 0 d).bump kFaultCount 1).log with
      history := newest 64 (((s.eventAfter src code 0 d).bump kFaultCount 1).log.history ++ [s.mkRecord src code 0 d]) } } : State) = u
  have hj : u.job = s.job := by rw [← hu]; exact congrArg (·.2.2) h1
  have hr := (u.react_scars src code).2.2
  rw [hj] at hr
  rw [if_neg hl]
  have hr2 : (u.react src code).job = if s.safe.latch = true ∨ s.job.plan = none then s.job
      else { s.job with state := .fault, pendingPause := none, resumeAt := none, stopping := false } := by
    rw [hr]
    cases hp : s.job.plan with
    | none => simp
    | some p => simp [hl]
  have h3 : ∀ t : State, t.scars.2.2 = (u.react src code).job → t.job = if s.safe.latch = true ∨ s.job.plan = none then s.job
      else { s.job with state := .fault, pendingPause := none, resumeAt := none, stopping := false } := fun t ht => ht.trans hr2
  split
  · exact h3 _ rfl
  · exact h3 _ (congrArg (·.2.2) (he _))
theorem State.fault_job (s : State) (src code : Nat) (d : Bytes) (h : s.safe.latch = false) (hp : s.job.plan ≠ none) :
    (s.fault src code d).job = { s.job with state := .fault, pendingPause := none, resumeAt := none, stopping := false } := by
  rw [State.fault_job_eq, if_neg (by simp [h, hp])]
theorem State.fault_steps (s : State) (src code : Nat) (d : Bytes) :
    (s.fault src code d).job.steps = s.job.steps ∧ (s.fault src code d).job.phaseNow = s.job.phaseNow := by
  rw [State.fault_job_eq]; split <;> exact ⟨rfl, rfl⟩

theorem State.fault_monitorRun (s : State) (src code : Nat) (d : Bytes) : (s.fault src code d).safe.monitorRun = s.safe.monitorRun := by
  have he : ∀ t : State, (t.event wardenSrc 0x1000 (u16 code)).scars = t.scars := fun t => t.event_scars _ _ _
  have h1 : ((s.eventAfter src code 0 d).bump kFaultCount 1).scars = s.scars := s.event_scars src code d
  unfold State.fault State.faultAfter
  dsimp only
  generalize hu : ({ (s.eventAfter src code 0 d).bump kFaultCount 1 with
    log := { ((s.eventAfter src code 0 d).bump kFaultCount 1).log with
      history := newest 64 (((s.eventAfter src code 0 d).bump kFaultCount 1).log.history ++ [s.mkRecord src code 0 d]) } } : State) = u
  have hs : u.safe.monitorRun = s.safe.monitorRun := by rw [← hu]; exact congrArg (·.2.1.monitorRun) h1
  have hr : (u.react src code).safe.monitorRun = s.safe.monitorRun := (congrArg Safety.monitorRun (u.react_scars src code).2.1).trans hs
  split
  · exact hs
  · split
    · exact hr
    · have h3 : ∀ t : State, (t.event wardenSrc 0x1000 (u16 code)).safe.monitorRun = t.safe.monitorRun := fun t => congrArg (·.2.1.monitorRun) (he t)
      exact (h3 _).trans hr

theorem State.fault_faulted (s : State) (src code : Nat) (d : Bytes) : Faulted (s.fault src code d) src code := (s.fault_spec src code d).1

end Sys2Proof.Machine
end

