-- ==== Sys2Proof/Laws/Answers.lean ====
section
/-! SUPPORT. Small lemmas for statements about one command: an answered request, a record just raised, a frame. -/

namespace Sys2Proof.Machine


theorem next_of {c : Instr} {s u t : State} (h : exec c s = .next u) (e : u = t) : exec c s = .next t := e ▸ h
theorem sameBut_exec {a b : List Part} {s : State} {q : Req} {sid op : Nat} (ans : Answer)
  (h : SameBut a (s.hearing q) ans.s) (hb : (([.host, .ctr, .out] ++ (a ++ [.host, .ctr, .out])) : List Part) ⊆ b) :
  SameBut b s (ans.finish sid op q) :=
  ((s.hearing_sameBut q).trans (h.trans (ans.finish_sameBut sid op q))).mono hb
theorem sameBut_fin {a b : List Part} {s : State} {q : Req} {sid op : Nat} (ans : Answer)
  (h : SameBut a s ans.s) (hb : ((a ++ [.host, .ctr, .out]) : List Part) ⊆ b) :
  SameBut b s (ans.finish sid op q) :=
  ((h.trans (ans.finish_sameBut sid op q))).mono hb
theorem SameBut.rfl' {a : List Part} {s : State} : SameBut a s s := by intro p _; cases p <;> rfl

theorem finish_host (ans : Answer) (sid op : Nat) (q : Req) : ∃ l, (ans.finish sid op q).host = { ans.s.host with seqs := l } := ⟨_, rfl⟩
theorem hearing_host (s : State) (q : Req) : ∃ l m, (s.hearing q).host = { s.host with sessions := l, seqs := m } := by
  unfold State.hearing
  obtain ⟨m, h⟩ := (s.rxFrame.executing q).seqHeard_eq (s.sid q) q.addr
  rw [h]
  unfold State.executing; split
  · exact ⟨_, m, rfl⟩
  · exact ⟨_, m, rfl⟩
theorem finish_log (ans : Answer) (sid op : Nat) (q : Req) : (ans.finish sid op q).log = ans.s.log := (ans.finish_sameBut sid op q) .log (by decide)
theorem hearing_part {s : State} {q : Req} (p : Part) (h : p ∉ ([.host, .ctr, .out] : List Part)) : p.same s (s.hearing q) := s.hearing_sameBut q p h
theorem finish_part (ans : Answer) (sid op : Nat) (q : Req) (p : Part) (h : p ∉ ([.host, .ctr, .out] : List Part)) : p.same ans.s (ans.finish sid op q) :=
  ans.finish_sameBut sid op q p h
theorem raised_event (s : State) (src code : Nat) (d : Bytes) (h : s.start.wardenHeld = false) : Raised (s.event src code d) src code :=
  ⟨_, s.event_ring src code d h, rfl, rfl⟩
theorem raised_finish {ans : Answer} {sid op : Nat} {q : Req} {a b : Nat} (h : Raised ans.s a b) : Raised (ans.finish sid op q) a b := by
  unfold Raised at *; rw [finish_log]; exact h
theorem sameBut_event (s : State) (src code : Nat) (d : Bytes) : SameBut [.log, .host, .ctr, .out] s (s.event src code d) := sameBut_quiet (s.event_quiet src code d)
theorem sb_idem {a : List Part} {s u t : State} (h : SameBut a s u) (k : SameBut a u t) : SameBut a s t :=
  (h.trans k).mono (by intro p hp; rcases List.mem_append.1 hp with h | h <;> exact h)
theorem sb_of {a b : List Part} {s t : State} (h : SameBut a s t) (hab : a ⊆ b) : SameBut b s t := h.mono hab
theorem sb_bump_event (u : State) (k n src code : Nat) (d : Bytes) : SameBut [.log, .host, .ctr, .out] u ((u.bump k n).event src code d) := by
  have h1 : SameBut [.host, .ctr, .out] u (u.bump k n) := sameBut_asked rfl
  exact sb_of (h1.trans (sameBut_event _ _ _ _)) (by decide)

theorem State.event_job (s : State) (src code : Nat) (d : Bytes) : (s.event src code d).job = s.job := by simp
theorem State.event_safe (s : State) (src code : Nat) (d : Bytes) : (s.event src code d).safe = s.safe := by simp

end Sys2Proof.Machine
end

