-- ==== Sys2Proof/Laws/Limber.lean ====
section
/-! SUPPORT. What the work of a limber job keeps. -/

namespace Sys2Proof.Machine

/-- The work of a job keeps whatever its accesses keep. -/
theorem limberWork_keeps {σ : Type} (P : σ → Prop) (io : LimberIo σ) (d : Bytes) (rows : ℕ) (s : σ)
    (hw : ∀ s n, P s → P (io.weights s n).2) (hr : ∀ s r c, P s → P (io.read s r c).2) (hx : ∀ s a bs, P s → P (io.write s a bs))
    (h : P s) : P (limberWork io d rows s).2.2 := by
  have tap : ∀ s o t, P s → P (lbTap io d s o t).2 := by
    intro s o t h
    unfold lbTap
    generalize convTap d t = a
    obtain ⟨ky, kx⟩ := a
    dsimp only
    generalize convIn d o ky kx = b
    obtain ⟨u, v⟩ := b
    dsimp only
    generalize convAt d u v = k
    cases k with
    | zero => exact h
    | const => exact h
    | stored r c =>
      have h1 := hr s r c h
      cases hq : io.read s r c with
      | mk bs t => rw [hq] at h1; simp only [hq]; exact h1
  have foldl : ∀ {α β : Type} (f : β × σ → α → β × σ) (l : List α) (p : β × σ), (∀ p x, P p.2 → P (f p x).2) → P p.2 → P (l.foldl f p).2 := by
    intro α β f l
    induction l with
    | nil => exact fun _ _ h => h
    | cons x l ih => exact fun p hf h => ih _ hf (hf _ _ h)
  have taps : ∀ s o, P s → P (lbTaps io d s o).2 := by
    intro s o h
    exact foldl _ _ _ (fun p x h => tap _ _ _ h) h
  have foldl2 : ∀ {α β γ : Type} (f : β × γ × σ → α → β × γ × σ) (l : List α) (p : β × γ × σ),
      (∀ p x, P p.2.2 → P (f p x).2.2) → P p.2.2 → P (l.foldl f p).2.2 := by
    intro α β γ f l
    induction l with
    | nil => exact fun _ _ h => h
    | cons x l ih => exact fun p hf h => ih _ hf (hf _ _ h)
  unfold limberWork
  have h1 : P (if lbOp d = 0 then io.weights s (lbKH d * lbKW d * lbCin d * lbCout d * 2) else ([], s)).2 := by
    split
    · exact hw _ _ h
    · exact h
  generalize (if lbOp d = 0 then io.weights s (lbKH d * lbKW d * lbCin d * lbCout d * 2) else ([], s)) = w at h1 ⊢
  obtain ⟨weights, s1⟩ := w
  refine foldl2 _ _ _ (fun p x h => ?_) h1
  obtain ⟨n, cts, s2⟩ := p
  dsimp only at h ⊢
  split
  · have h2 := taps s2 (convOut d x) h
    generalize lbTaps io d s2 (convOut d x) = q at h2 ⊢
    obtain ⟨ts, s3⟩ := q
    dsimp only
    generalize (if lbOp d = 0 then lbConvPos d weights ts else lbPoolPos d ts) = r
    obtain ⟨bs, c⟩ := r
    exact hx _ _ _ h2
  · exact h

end Sys2Proof.Machine
end

