-- ==== Sys2Proof/Laws/Touch.lean ====
section
/-! SUPPORT. Which parts of the state an operation may change: lemmas for chains of operations, stated after an operation already
known to change no part but those of `ps`. -/

namespace Sys2Proof.Machine

/-- `t` comes from `s` by operations that change no part but those of `ps`. -/
def Touch (ps : List Part) (s t : State) : Prop := SameBut ps s t
/-- An answer changes no other part. -/
def TouchA (ps : List Part) (s : State) (a : Answer) : Prop := Touch ps s a.s
/-- A possible state. -/
def TouchO (ps : List Part) (s : State) (o : Option State) : Prop := ∀ t, o = some t → Touch ps s t
/-- A possible pair. -/
def TouchP {α : Type} (ps : List Part) (s : State) (o : Option (α × State)) : Prop := ∀ p, o = some p → Touch ps s p.2
/-- A result of a command. -/
def TouchR (ps : List Part) (s : State) (r : Res) : Prop := ∀ t, r = .next t → Touch ps s t

theorem Touch.refl (ps : List Part) (s : State) : Touch ps s s := by
  intro p _
  cases p <;> rfl
/-- The parts may be listed more widely. -/
theorem Touch.mono {a b : List Part} {s t : State} (h : Touch a s t) (hab : a ⊆ b) : Touch b s t := fun p hp => h p fun ha => hp (hab ha)

variable {ps : List Part} {s0 s t : State}

/-- A state written field by field from one already reached. -/
theorem touch_mk
    {time : TimeEngine} {start : Startup} {log : Log} {safe : Safety} {bg : Background} {stats : Stats}
    {clusters : List (Nat × Cluster)} {job : Job} {upd : Update} {banks : List (Nat × Bank)} {limbers : List (Nat × Limber)}
    {stash : Stash} {cow : Cow} {cxl : Cxl} {base : List (Nat × BaseDie)} {spine : List (Nat × Spine)}
    {skid : List (Nat × SkidPort)} {net : Net} {sync : Sync} {tally : Tally} {host : HostPort} {ingest : Ingest}
    {snap : Snaps} {power : Power} {mem : List (Nat × BitVec 8)} {ctr : List (Nat × Nat)} {out : List Output} {free : Nat}
    (h : Touch ps s0 t)
    (h0 : time = t.time ∨ Part.time ∈ ps) (h1 : start = t.start ∨ Part.start ∈ ps) (h2 : log = t.log ∨ Part.log ∈ ps)
    (h3 : safe = t.safe ∨ Part.safe ∈ ps) (h4 : bg = t.bg ∨ Part.bg ∈ ps) (h5 : stats = t.stats ∨ Part.stats ∈ ps)
    (h6 : clusters = t.clusters ∨ Part.clusters ∈ ps) (h7 : job = t.job ∨ Part.job ∈ ps) (h8 : upd = t.upd ∨ Part.upd ∈ ps)
    (h9 : banks = t.banks ∨ Part.banks ∈ ps) (h10 : limbers = t.limbers ∨ Part.limbers ∈ ps)
    (h11 : stash = t.stash ∨ Part.stash ∈ ps) (h12 : cow = t.cow ∨ Part.cow ∈ ps) (h13 : cxl = t.cxl ∨ Part.cxl ∈ ps)
    (h14 : base = t.base ∨ Part.base ∈ ps) (h15 : spine = t.spine ∨ Part.spine ∈ ps) (h16 : skid = t.skid ∨ Part.skid ∈ ps)
    (h17 : net = t.net ∨ Part.net ∈ ps) (h18 : sync = t.sync ∨ Part.sync ∈ ps) (h19 : tally = t.tally ∨ Part.tally ∈ ps)
    (h20 : host = t.host ∨ Part.host ∈ ps) (h21 : ingest = t.ingest ∨ Part.ingest ∈ ps)
    (h22 : snap = t.snap ∨ Part.snap ∈ ps) (h23 : power = t.power ∨ Part.power ∈ ps) (h24 : mem = t.mem ∨ Part.mem ∈ ps)
    (h25 : ctr = t.ctr ∨ Part.ctr ∈ ps) (h26 : out = t.out ∨ Part.out ∈ ps) (h27 : free = t.free ∨ Part.free ∈ ps) :
    Touch ps s0 ⟨time, start, log, safe, bg, stats, clusters, job, upd, banks, limbers, stash, cow, cxl,
      base, spine, skid, net, sync, tally, host, ingest, snap, power, mem, ctr, out, free, t.pending⟩ := by
  intro p hp
  cases p with
  | time => exact (h0.resolve_right hp).trans (h .time hp)
  | start => exact (h1.resolve_right hp).trans (h .start hp)
  | log => exact (h2.resolve_right hp).trans (h .log hp)
  | safe => exact (h3.resolve_right hp).trans (h .safe hp)
  | bg => exact (h4.resolve_right hp).trans (h .bg hp)
  | stats => exact (h5.resolve_right hp).trans (h .stats hp)
  | clusters => exact (h6.resolve_right hp).trans (h .clusters hp)
  | job => exact (h7.resolve_right hp).trans (h .job hp)
  | upd => exact (h8.resolve_right hp).trans (h .upd hp)
  | banks => exact (h9.resolve_right hp).trans (h .banks hp)
  | limbers => exact (h10.resolve_right hp).trans (h .limbers hp)
  | stash => exact (h11.resolve_right hp).trans (h .stash hp)
  | cow => exact (h12.resolve_right hp).trans (h .cow hp)
  | cxl => exact (h13.resolve_right hp).trans (h .cxl hp)
  | base => exact (h14.resolve_right hp).trans (h .base hp)
  | spine => exact (h15.resolve_right hp).trans (h .spine hp)
  | skid => exact (h16.resolve_right hp).trans (h .skid hp)
  | net => exact (h17.resolve_right hp).trans (h .net hp)
  | sync => exact (h18.resolve_right hp).trans (h .sync hp)
  | tally => exact (h19.resolve_right hp).trans (h .tally hp)
  | host => exact (h20.resolve_right hp).trans (h .host hp)
  | ingest => exact (h21.resolve_right hp).trans (h .ingest hp)
  | snap => exact (h22.resolve_right hp).trans (h .snap hp)
  | power => exact (h23.resolve_right hp).trans (h .power hp)
  | mem => exact (h24.resolve_right hp).trans (h .mem hp)
  | ctr => exact (h25.resolve_right hp).trans (h .ctr hp)
  | out => exact (h26.resolve_right hp).trans (h .out hp)
  | free => exact (h27.resolve_right hp).trans (h .free hp)
  | pending => exact h .pending hp

theorem touch_ite {c : Prop} [Decidable c] {a b : State} (ha : c → Touch ps s0 a) (hb : ¬c → Touch ps s0 b) :
    Touch ps s0 (if c then a else b) := by
  split
  · exact ha ‹_›
  · exact hb ‹_›

theorem touchA_ite {c : Prop} [Decidable c] {a b : Answer} (ha : c → TouchA ps s0 a) (hb : ¬c → TouchA ps s0 b) :
    TouchA ps s0 (if c then a else b) := by
  split
  · exact ha ‹_›
  · exact hb ‹_›

theorem touchO_ite {c : Prop} [Decidable c] {a b : Option State} (ha : c → TouchO ps s0 a) (hb : ¬c → TouchO ps s0 b) :
    TouchO ps s0 (if c then a else b) := by
  split
  · exact ha ‹_›
  · exact hb ‹_›

theorem touchR_ite {c : Prop} [Decidable c] {a b : Res} (ha : c → TouchR ps s0 a) (hb : ¬c → TouchR ps s0 b) :
    TouchR ps s0 (if c then a else b) := by
  split
  · exact ha ‹_›
  · exact hb ‹_›

theorem touchA_mk {a : Nat} {d : Bytes} {l : Bool} (h : Touch ps s0 s) : TouchA ps s0 ⟨a, d, l, s⟩ := h
theorem touchA_refuse {a : Nat} (h : Touch ps s0 s) : TouchA ps s0 (refuse s a) := h
theorem touchA_accept (h : Touch ps s0 s) : TouchA ps s0 (accept s) := h
theorem touchA_s {a : Answer} (h : TouchA ps s0 a) : Touch ps s0 a.s := h
theorem touchO_some (h : Touch ps s0 s) : TouchO ps s0 (some s) := fun _ e => Option.some.inj e ▸ h
theorem touchO_none : TouchO ps s0 none := fun _ e => nomatch e
theorem touchO_map {α : Type} {o : Option α} {f : α → State} (h : ∀ x, Touch ps s0 (f x)) : TouchO ps s0 (o.map f) := by
  intro t e
  obtain ⟨x, _, rfl⟩ := Option.map_eq_some_iff.mp e
  exact h x
theorem touchO_getD {o : Option State} (ho : TouchO ps s0 o) (h : Touch ps s0 s) : Touch ps s0 (o.getD s) := by
  cases o with
  | none => exact h
  | some t => exact ho t rfl
theorem touchP_some {α : Type} {p : α × State} (h : Touch ps s0 p.2) : TouchP ps s0 (some p) := fun _ e => Option.some.inj e ▸ h
theorem touchP_none {α : Type} : TouchP (α := α) ps s0 none := fun _ e => nomatch e
theorem touchP_ite {α : Type} {c : Prop} [Decidable c] {a b : Option (α × State)} (ha : c → TouchP ps s0 a) (hb : ¬c → TouchP ps s0 b) :
    TouchP ps s0 (if c then a else b) := by
  split
  · exact ha ‹_›
  · exact hb ‹_›
theorem touchR_next (h : Touch ps s0 s) : TouchR ps s0 (.next s) := fun _ e => by cases e; exact h
theorem touchR_fault {f : Fault} : TouchR ps s0 (.fault f) := fun _ e => nomatch e
theorem touchR_refused {f : Refusal} : TouchR ps s0 (.refused f) := fun _ e => nomatch e

theorem touch_of_some {o : Option State} (e : o = some t) (h : TouchO ps s0 o) : Touch ps s0 t := h t e
theorem touch_of_pair {α : Type} {o : Option (α × State)} {a : α} (e : o = some (a, t)) (h : TouchP ps s0 o) : Touch ps s0 t := h _ e
theorem touch_of_next {o : Res} (e : o = .next t) (h : TouchR ps s0 o) : Touch ps s0 t := h t e
theorem touch_of_snd {α : Type} {p : α × State} {a : α} (e : p = (a, t)) (h : Touch ps s0 p.2) : Touch ps s0 t := by subst e; exact h
theorem touch_of_fst {α : Type} {p : State × α} {a : α} (e : p = (t, a)) (h : Touch ps s0 p.1) : Touch ps s0 t := by subst e; exact h

theorem touch_elim {α : Type} {o : Option α} {f : α → State} (h : Touch ps s0 s) (hf : ∀ x, Touch ps s0 (f x)) : Touch ps s0 (o.elim s f) := by
  cases o with
  | none => exact h
  | some x => exact hf x

theorem touch_foldl {α : Type} {f : State → α → State} (l : List α) (hf : ∀ s x, Touch ps s0 s → Touch ps s0 (f s x)) (h : Touch ps s0 s) :
    Touch ps s0 (l.foldl f s) := by
  induction l generalizing s with
  | nil => exact h
  | cons x l ih => exact ih (hf s x h)

theorem touch_foldl_mem {α : Type} {f : State → α → State} (l : List α) (hf : ∀ s x, x ∈ l → Touch ps s0 s → Touch ps s0 (f s x))
    (h : Touch ps s0 s) : Touch ps s0 (l.foldl f s) := by
  induction l generalizing s with
  | nil => exact h
  | cons x l ih => exact ih (fun s y m => hf s y (List.mem_cons_of_mem _ m)) (hf s x List.mem_cons_self h)

theorem touch_foldl_fst {α β : Type} {f : State × β → α → State × β} (l : List α) (p : State × β)
    (hf : ∀ p x, Touch ps s0 p.1 → Touch ps s0 (f p x).1) (h : Touch ps s0 p.1) : Touch ps s0 (l.foldl f p).1 := by
  induction l generalizing p with
  | nil => exact h
  | cons x l ih => exact ih _ (hf p x h)

theorem touch_foldl_snd {α β : Type} {f : β × State → α → β × State} (l : List α) (p : β × State)
    (hf : ∀ p x, Touch ps s0 p.2 → Touch ps s0 (f p x).2) (h : Touch ps s0 p.2) : Touch ps s0 (l.foldl f p).2 := by
  induction l generalizing p with
  | nil => exact h
  | cons x l ih => exact ih _ (hf p x h)

theorem touch_ite_fst {α : Type} {c : Prop} [Decidable c] {a b : State × α} (ha : c → Touch ps s0 a.1) (hb : ¬c → Touch ps s0 b.1) :
    Touch ps s0 (if c then a else b).1 := by
  split
  · exact ha ‹_›
  · exact hb ‹_›

theorem touch_ite_snd {α : Type} {c : Prop} [Decidable c] {a b : α × State} (ha : c → Touch ps s0 a.2) (hb : ¬c → Touch ps s0 b.2) :
    Touch ps s0 (if c then a else b).2 := by
  split
  · exact ha ‹_›
  · exact hb ‹_›

/-! ### One part of a state replaced -/

theorem touch_time {x : TimeEngine} (hp : Part.time ∈ ps) (h : Touch ps s0 s) : Touch ps s0 { s with time := x } :=
  touch_mk h (.inr hp) (.inl rfl) (.inl rfl) (.inl rfl) (.inl rfl) (.inl rfl) (.inl rfl) (.inl rfl) (.inl rfl) (.inl rfl)
    (.inl rfl) (.inl rfl) (.inl rfl) (.inl rfl) (.inl rfl) (.inl rfl) (.inl rfl) (.inl rfl) (.inl rfl) (.inl rfl) (.inl rfl)
    (.inl rfl) (.inl rfl) (.inl rfl) (.inl rfl) (.inl rfl) (.inl rfl) (.inl rfl)
theorem touch_log {x : Log} (hp : Part.log ∈ ps) (h : Touch ps s0 s) : Touch ps s0 { s with log := x } :=
  touch_mk h (.inl rfl) (.inl rfl) (.inr hp) (.inl rfl) (.inl rfl) (.inl rfl) (.inl rfl) (.inl rfl) (.inl rfl) (.inl rfl)
    (.inl rfl) (.inl rfl) (.inl rfl) (.inl rfl) (.inl rfl) (.inl rfl) (.inl rfl) (.inl rfl) (.inl rfl) (.inl rfl) (.inl rfl)
    (.inl rfl) (.inl rfl) (.inl rfl) (.inl rfl) (.inl rfl) (.inl rfl) (.inl rfl)
theorem touch_safe {x : Safety} (hp : Part.safe ∈ ps) (h : Touch ps s0 s) : Touch ps s0 { s with safe := x } :=
  touch_mk h (.inl rfl) (.inl rfl) (.inl rfl) (.inr hp) (.inl rfl) (.inl rfl) (.inl rfl) (.inl rfl) (.inl rfl) (.inl rfl)
    (.inl rfl) (.inl rfl) (.inl rfl) (.inl rfl) (.inl rfl) (.inl rfl) (.inl rfl) (.inl rfl) (.inl rfl) (.inl rfl) (.inl rfl)
    (.inl rfl) (.inl rfl) (.inl rfl) (.inl rfl) (.inl rfl) (.inl rfl) (.inl rfl)
theorem touch_sync {x : Sync} (hp : Part.sync ∈ ps) (h : Touch ps s0 s) : Touch ps s0 { s with sync := x } :=
  touch_mk h (.inl rfl) (.inl rfl) (.inl rfl) (.inl rfl) (.inl rfl) (.inl rfl) (.inl rfl) (.inl rfl) (.inl rfl) (.inl rfl)
    (.inl rfl) (.inl rfl) (.inl rfl) (.inl rfl) (.inl rfl) (.inl rfl) (.inl rfl) (.inl rfl) (.inr hp) (.inl rfl) (.inl rfl)
    (.inl rfl) (.inl rfl) (.inl rfl) (.inl rfl) (.inl rfl) (.inl rfl) (.inl rfl)
theorem touch_job {x : Job} (hp : Part.job ∈ ps) (h : Touch ps s0 s) : Touch ps s0 { s with job := x } :=
  touch_mk h (.inl rfl) (.inl rfl) (.inl rfl) (.inl rfl) (.inl rfl) (.inl rfl) (.inl rfl) (.inr hp) (.inl rfl) (.inl rfl)
    (.inl rfl) (.inl rfl) (.inl rfl) (.inl rfl) (.inl rfl) (.inl rfl) (.inl rfl) (.inl rfl) (.inl rfl) (.inl rfl) (.inl rfl)
    (.inl rfl) (.inl rfl) (.inl rfl) (.inl rfl) (.inl rfl) (.inl rfl) (.inl rfl)
theorem touch_host {x : HostPort} (hp : Part.host ∈ ps) (h : Touch ps s0 s) : Touch ps s0 { s with host := x } :=
  touch_mk h (.inl rfl) (.inl rfl) (.inl rfl) (.inl rfl) (.inl rfl) (.inl rfl) (.inl rfl) (.inl rfl) (.inl rfl) (.inl rfl)
    (.inl rfl) (.inl rfl) (.inl rfl) (.inl rfl) (.inl rfl) (.inl rfl) (.inl rfl) (.inl rfl) (.inl rfl) (.inl rfl) (.inr hp)
    (.inl rfl) (.inl rfl) (.inl rfl) (.inl rfl) (.inl rfl) (.inl rfl) (.inl rfl)
theorem touch_snap {x : Snaps} (hp : Part.snap ∈ ps) (h : Touch ps s0 s) : Touch ps s0 { s with snap := x } :=
  touch_mk h (.inl rfl) (.inl rfl) (.inl rfl) (.inl rfl) (.inl rfl) (.inl rfl) (.inl rfl) (.inl rfl) (.inl rfl) (.inl rfl)
    (.inl rfl) (.inl rfl) (.inl rfl) (.inl rfl) (.inl rfl) (.inl rfl) (.inl rfl) (.inl rfl) (.inl rfl) (.inl rfl) (.inl rfl)
    (.inl rfl) (.inr hp) (.inl rfl) (.inl rfl) (.inl rfl) (.inl rfl) (.inl rfl)
theorem touch_mem {x : List (Nat × BitVec 8)} (hp : Part.mem ∈ ps) (h : Touch ps s0 s) : Touch ps s0 { s with mem := x } :=
  touch_mk h (.inl rfl) (.inl rfl) (.inl rfl) (.inl rfl) (.inl rfl) (.inl rfl) (.inl rfl) (.inl rfl) (.inl rfl) (.inl rfl)
    (.inl rfl) (.inl rfl) (.inl rfl) (.inl rfl) (.inl rfl) (.inl rfl) (.inl rfl) (.inl rfl) (.inl rfl) (.inl rfl) (.inl rfl)
    (.inl rfl) (.inl rfl) (.inl rfl) (.inr hp) (.inl rfl) (.inl rfl) (.inl rfl)
theorem touch_out {x : List Output} (hp : Part.out ∈ ps) (h : Touch ps s0 s) : Touch ps s0 { s with out := x } :=
  touch_mk h (.inl rfl) (.inl rfl) (.inl rfl) (.inl rfl) (.inl rfl) (.inl rfl) (.inl rfl) (.inl rfl) (.inl rfl) (.inl rfl)
    (.inl rfl) (.inl rfl) (.inl rfl) (.inl rfl) (.inl rfl) (.inl rfl) (.inl rfl) (.inl rfl) (.inl rfl) (.inl rfl) (.inl rfl)
    (.inl rfl) (.inl rfl) (.inl rfl) (.inl rfl) (.inl rfl) (.inr hp) (.inl rfl)
theorem touch_stash {x : Stash} (hp : Part.stash ∈ ps) (h : Touch ps s0 s) : Touch ps s0 { s with stash := x } :=
  touch_mk h (.inl rfl) (.inl rfl) (.inl rfl) (.inl rfl) (.inl rfl) (.inl rfl) (.inl rfl) (.inl rfl) (.inl rfl) (.inl rfl)
    (.inl rfl) (.inr hp) (.inl rfl) (.inl rfl) (.inl rfl) (.inl rfl) (.inl rfl) (.inl rfl) (.inl rfl) (.inl rfl) (.inl rfl)
    (.inl rfl) (.inl rfl) (.inl rfl) (.inl rfl) (.inl rfl) (.inl rfl) (.inl rfl)

end Sys2Proof.Machine
end

