-- ==== Sys2Proof/Laws/TouchOps.lean ====
section
/-! SUPPORT. Which parts of the state the operations of Machine/Ops.lean may change. -/

namespace Sys2Proof.Machine

variable {s0 : State} {ps : List Part}

theorem State.bump_touch (hp : ([.ctr] : List Part) ⊆ ps) (s : State) (k : ℕ) (n : ℕ)  (h : Touch ps s0 s) :
    Touch ps s0 (State.bump s k n) := by
  unfold State.bump; try dsimp only
  repeat' first
    | with_reducible assumption
    | exact .inr (hp (by decide))
    | with_reducible exact .inl rfl
    | with_reducible refine touch_mk ?_ ?_ ?_ ?_ ?_ ?_ ?_ ?_ ?_ ?_ ?_ ?_ ?_ ?_ ?_ ?_ ?_ ?_ ?_ ?_ ?_ ?_ ?_ ?_ ?_ ?_ ?_ ?_ ?_

theorem State.emit_touch (hp : ([.out] : List Part) ⊆ ps) (s : State) (o : Output)  (h : Touch ps s0 s) :
    Touch ps s0 (State.emit s o) := by
  unfold State.emit; try dsimp only
  repeat' first
    | with_reducible assumption
    | exact .inr (hp (by decide))
    | with_reducible exact .inl rfl
    | with_reducible refine touch_mk ?_ ?_ ?_ ?_ ?_ ?_ ?_ ?_ ?_ ?_ ?_ ?_ ?_ ?_ ?_ ?_ ?_ ?_ ?_ ?_ ?_ ?_ ?_ ?_ ?_ ?_ ?_ ?_ ?_

theorem State.sendHost_touch (hp : ([.ctr, .out] : List Part) ⊆ ps) (s : State) (o : Output)  (h : Touch ps s0 s) :
    Touch ps s0 (State.sendHost s o) := by
  unfold State.sendHost; try dsimp only
  repeat' first
    | with_reducible assumption
    | exact List.Subset.trans (by decide) hp
    | with_reducible apply State.emit_touch
    | with_reducible apply State.bump_touch

theorem State.modSession_touch (hp : ([.host] : List Part) ⊆ ps) (s : State) (id : ℕ) (f : Session → Session)  (h : Touch ps s0 s) :
    Touch ps s0 (State.modSession s id f) := by
  unfold State.modSession; try dsimp only
  repeat' first
    | with_reducible assumption
    | exact .inr (hp (by decide))
    | with_reducible exact .inl rfl
    | with_reducible apply touch_ite
    | with_reducible intro _
    | with_reducible refine touch_mk ?_ ?_ ?_ ?_ ?_ ?_ ?_ ?_ ?_ ?_ ?_ ?_ ?_ ?_ ?_ ?_ ?_ ?_ ?_ ?_ ?_ ?_ ?_ ?_ ?_ ?_ ?_ ?_ ?_

theorem State.touch_touch (hp : ([.host] : List Part) ⊆ ps) (s : State) (id : ℕ)  (h : Touch ps s0 s) :
    Touch ps s0 (State.touch s id) := by
  unfold State.touch; try dsimp only
  repeat' first
    | with_reducible assumption
    | exact List.Subset.trans (by decide) hp
    | with_reducible apply State.modSession_touch

theorem State.modFlow_touch (hp : ([.host] : List Part) ⊆ ps) (s : State) (id : ℕ) (f : Flow → Flow)  (h : Touch ps s0 s) :
    Touch ps s0 (State.modFlow s id f) := by
  unfold State.modFlow; try dsimp only
  repeat' first
    | with_reducible assumption
    | exact .inr (hp (by decide))
    | with_reducible exact .inl rfl
    | with_reducible apply touch_ite
    | with_reducible intro _
    | with_reducible refine touch_mk ?_ ?_ ?_ ?_ ?_ ?_ ?_ ?_ ?_ ?_ ?_ ?_ ?_ ?_ ?_ ?_ ?_ ?_ ?_ ?_ ?_ ?_ ?_ ?_ ?_ ?_ ?_ ?_ ?_

theorem State.sendBlock_touch (hp : ([.host, .ctr, .out] : List Part) ⊆ ps) (s : State) (f : Flow) (bs : Bytes)  (h : Touch ps s0 s) :
    Touch ps s0 (State.sendBlock s f bs) := by
  unfold State.sendBlock; try dsimp only
  repeat' first
    | with_reducible assumption
    | exact List.Subset.trans (by decide) hp
    | with_reducible apply State.sendHost_touch
    | with_reducible apply State.touch_touch
    | with_reducible apply State.modFlow_touch
    | with_reducible intro _

theorem State.record_touch (hp : ([.host, .ctr, .out] : List Part) ⊆ ps) (s : State) (channel : ℕ) (sub : ℕ) (bs : Bytes)  (h : Touch ps s0 s) :
    Touch ps s0 (State.record s channel sub bs) := by
  unfold State.record; try dsimp only
  repeat' first
    | with_reducible assumption
    | exact List.Subset.trans (by decide) hp
    | with_reducible apply State.bump_touch
    | with_reducible apply State.sendBlock_touch
    | with_reducible apply touch_ite
    | with_reducible apply touch_foldl
    | with_reducible intro _
    | split

theorem State.eventAfter_touch (hp : ([.log, .host, .ctr, .out] : List Part) ⊆ ps) (s : State) (src code cause : Nat) (detail : Bytes) (h : Touch ps s0 s) :
    Touch ps s0 (State.eventAfter s src code cause detail) := by
  unfold State.eventAfter
  exact touch_ite (fun _ => h) fun _ => State.record_touch (List.Subset.trans (by decide) hp) _ _ _ _
    (State.bump_touch (List.Subset.trans (by decide) hp) _ _ _ (touch_log (hp (by decide)) h))

theorem State.event_touch (hp : ([.log, .host, .ctr, .out] : List Part) ⊆ ps) (s : State) (src : ℕ) (code : ℕ) (detail : optParam Bytes [])  (h : Touch ps s0 s) :
    Touch ps s0 (State.event s src code detail) := by
  unfold State.event; try dsimp only
  repeat' first
    | with_reducible assumption
    | exact List.Subset.trans (by decide) hp
    | with_reducible apply State.eventAfter_touch

theorem State.endCheckpoint_touch (hp : ([.snap] : List Part) ⊆ ps) (s : State)  (h : Touch ps s0 s) :
    Touch ps s0 (State.endCheckpoint s) := by
  unfold State.endCheckpoint; try dsimp only
  repeat' first
    | with_reducible assumption
    | exact .inr (hp (by decide))
    | with_reducible exact .inl rfl
    | with_reducible refine touch_mk ?_ ?_ ?_ ?_ ?_ ?_ ?_ ?_ ?_ ?_ ?_ ?_ ?_ ?_ ?_ ?_ ?_ ?_ ?_ ?_ ?_ ?_ ?_ ?_ ?_ ?_ ?_ ?_ ?_

theorem State.abandonCheckpoint_touch (hp : ([.log, .host, .snap, .ctr, .out] : List Part) ⊆ ps) (s : State)  (h : Touch ps s0 s) :
    Touch ps s0 (State.abandonCheckpoint s) := by
  unfold State.abandonCheckpoint; try dsimp only
  repeat' first
    | with_reducible assumption
    | exact List.Subset.trans (by decide) hp
    | with_reducible apply State.event_touch
    | with_reducible apply State.endCheckpoint_touch
    | exact .inr (hp (by decide))
    | with_reducible exact .inl rfl
    | split
    | with_reducible refine touch_mk ?_ ?_ ?_ ?_ ?_ ?_ ?_ ?_ ?_ ?_ ?_ ?_ ?_ ?_ ?_ ?_ ?_ ?_ ?_ ?_ ?_ ?_ ?_ ?_ ?_ ?_ ?_ ?_ ?_

theorem State.setSync_touch (hp : ([.sync] : List Part) ⊆ ps) (s : State) (id : ℕ) (v : ℕ)  (h : Touch ps s0 s) :
    Touch ps s0 (State.setSync s id v) := by
  unfold State.setSync; try dsimp only
  repeat' first
    | with_reducible assumption
    | exact .inr (hp (by decide))
    | with_reducible exact .inl rfl
    | with_reducible refine touch_mk ?_ ?_ ?_ ?_ ?_ ?_ ?_ ?_ ?_ ?_ ?_ ?_ ?_ ?_ ?_ ?_ ?_ ?_ ?_ ?_ ?_ ?_ ?_ ?_ ?_ ?_ ?_ ?_ ?_

theorem State.addSync_touch (hp : ([.log, .sync, .host, .ctr, .out] : List Part) ⊆ ps) (s : State) (id : ℕ) (inc : ℕ) (cause : ℕ)  (h : Touch ps s0 s) :
    Touch ps s0 (State.addSync s id inc cause) := by
  unfold State.addSync; try dsimp only
  repeat' first
    | with_reducible assumption
    | exact List.Subset.trans (by decide) hp
    | with_reducible apply State.setSync_touch
    | with_reducible apply State.eventAfter_touch
    | with_reducible apply State.bump_touch
    | with_reducible apply touch_ite
    | with_reducible intro _

theorem State.dropSignal_touch (hp : ([.log, .host, .ctr, .out] : List Part) ⊆ ps) (s : State) (g : Signal)  (h : Touch ps s0 s) :
    Touch ps s0 (State.dropSignal s g) := by
  unfold State.dropSignal; try dsimp only
  repeat' first
    | with_reducible assumption
    | exact List.Subset.trans (by decide) hp
    | with_reducible apply State.eventAfter_touch
    | with_reducible apply State.bump_touch

theorem State.arriveSignal_touch (hp : ([.log, .sync, .host, .ctr, .out] : List Part) ⊆ ps) (s : State) (g : Signal)  (h : Touch ps s0 s) :
    TouchO ps s0 (State.arriveSignal s g) := by
  unfold State.arriveSignal; try dsimp only
  repeat' first
    | with_reducible assumption
    | exact List.Subset.trans (by decide) hp
    | with_reducible apply State.addSync_touch
    | with_reducible apply State.dropSignal_touch
    | exact .inr (hp (by decide))
    | with_reducible exact .inl rfl
    | with_reducible apply touch_ite
    | with_reducible apply touchO_ite
    | with_reducible apply touchO_some
    | with_reducible exact touchO_none
    | with_reducible intro _
    | with_reducible refine touch_mk ?_ ?_ ?_ ?_ ?_ ?_ ?_ ?_ ?_ ?_ ?_ ?_ ?_ ?_ ?_ ?_ ?_ ?_ ?_ ?_ ?_ ?_ ?_ ?_ ?_ ?_ ?_ ?_ ?_

theorem State.modPort_touch (hp : ([.skid] : List Part) ⊆ ps) (s : State) (n : ℕ) (f : SkidPort → SkidPort)  (h : Touch ps s0 s) :
    Touch ps s0 (State.modPort s n f) := by
  unfold State.modPort; try dsimp only
  repeat' first
    | with_reducible assumption
    | exact .inr (hp (by decide))
    | with_reducible exact .inl rfl
    | with_reducible refine touch_mk ?_ ?_ ?_ ?_ ?_ ?_ ?_ ?_ ?_ ?_ ?_ ?_ ?_ ?_ ?_ ?_ ?_ ?_ ?_ ?_ ?_ ?_ ?_ ?_ ?_ ?_ ?_ ?_ ?_

theorem State.beginMsg_touch (hp : ([.log, .skid] : List Part) ⊆ ps) (s : State) (n : ℕ) (cls : ℕ)  (h : Touch ps s0 s) :
    Touch ps s0 (State.beginMsg s n cls) := by
  unfold State.beginMsg; try dsimp only
  repeat' first
    | with_reducible assumption
    | exact List.Subset.trans (by decide) hp
    | with_reducible apply State.modPort_touch
    | exact .inr (hp (by decide))
    | with_reducible exact .inl rfl
    | with_reducible apply touch_ite
    | with_reducible intro _
    | split
    | with_reducible refine touch_mk ?_ ?_ ?_ ?_ ?_ ?_ ?_ ?_ ?_ ?_ ?_ ?_ ?_ ?_ ?_ ?_ ?_ ?_ ?_ ?_ ?_ ?_ ?_ ?_ ?_ ?_ ?_ ?_ ?_

theorem State.caused_touch (hp : ([.log] : List Part) ⊆ ps) (s : State) (stamp : ℕ) (f : State → State) (hf : ∀ s , Touch ps s0 s → Touch ps s0 (f s )) (h : Touch ps s0 s) :
    Touch ps s0 (State.caused s stamp f) := by
  unfold State.caused; try dsimp only
  repeat' first
    | with_reducible assumption
    | with_reducible apply hf
    | exact .inr (hp (by decide))
    | with_reducible exact .inl rfl
    | with_reducible refine touch_mk ?_ ?_ ?_ ?_ ?_ ?_ ?_ ?_ ?_ ?_ ?_ ?_ ?_ ?_ ?_ ?_ ?_ ?_ ?_ ?_ ?_ ?_ ?_ ?_ ?_ ?_ ?_ ?_ ?_

theorem State.closeIngest_touch (hp : ([.host, .ctr, .out] : List Part) ⊆ ps) (s : State)  (h : Touch ps s0 s) :
    Touch ps s0 (State.closeIngest s) := by
  unfold State.closeIngest; try dsimp only
  repeat' first
    | with_reducible assumption
    | exact List.Subset.trans (by decide) hp
    | with_reducible apply State.sendHost_touch
    | exact .inr (hp (by decide))
    | with_reducible exact .inl rfl
    | with_reducible apply touch_foldl
    | with_reducible intro _
    | with_reducible refine touch_mk ?_ ?_ ?_ ?_ ?_ ?_ ?_ ?_ ?_ ?_ ?_ ?_ ?_ ?_ ?_ ?_ ?_ ?_ ?_ ?_ ?_ ?_ ?_ ?_ ?_ ?_ ?_ ?_ ?_

theorem State.telemetry_touch (hp : ([.log, .host, .ctr, .out] : List Part) ⊆ ps) (s : State) (src : ℕ) (kind : ℕ) (body : Bytes)  (h : Touch ps s0 s) :
    Touch ps s0 (State.telemetry s src kind body) := by
  unfold State.telemetry; try dsimp only
  repeat' first
    | with_reducible assumption
    | exact List.Subset.trans (by decide) hp
    | with_reducible apply State.record_touch
    | with_reducible apply State.bump_touch
    | exact .inr (hp (by decide))
    | with_reducible exact .inl rfl
    | with_reducible refine touch_mk ?_ ?_ ?_ ?_ ?_ ?_ ?_ ?_ ?_ ?_ ?_ ?_ ?_ ?_ ?_ ?_ ?_ ?_ ?_ ?_ ?_ ?_ ?_ ?_ ?_ ?_ ?_ ?_ ?_

theorem State.closeStats_touch (hp : ([.log, .stats, .host, .ctr, .out] : List Part) ⊆ ps) (s : State) (k : ℕ) (faulted : Bool)  (h : Touch ps s0 s) :
    Touch ps s0 (State.closeStats s k faulted) := by
  unfold State.closeStats; try dsimp only
  repeat' first
    | with_reducible assumption
    | exact List.Subset.trans (by decide) hp
    | with_reducible apply State.telemetry_touch
    | exact .inr (hp (by decide))
    | with_reducible exact .inl rfl
    | with_reducible apply touch_ite
    | with_reducible apply touch_foldl
    | with_reducible intro _
    | split
    | with_reducible refine touch_mk ?_ ?_ ?_ ?_ ?_ ?_ ?_ ?_ ?_ ?_ ?_ ?_ ?_ ?_ ?_ ?_ ?_ ?_ ?_ ?_ ?_ ?_ ?_ ?_ ?_ ?_ ?_ ?_ ?_

theorem State.sendFrame_touch (hp : ([.skid, .out] : List Part) ⊆ ps) (s : State) (n : ℕ) (cls : ℕ) (k : ℕ)  (h : Touch ps s0 s) :
    Touch ps s0 (State.sendFrame s n cls k) := by
  unfold State.sendFrame; try dsimp only
  repeat' first
    | with_reducible assumption
    | exact List.Subset.trans (by decide) hp
    | with_reducible apply State.emit_touch
    | with_reducible apply State.modPort_touch
    | split

theorem State.sendNext_touch (hp : ([.log, .skid, .out] : List Part) ⊆ ps) (s : State) (n : ℕ) (h : Touch ps s0 s) : TouchO ps s0 (s.sendNext n) := by
  unfold State.sendNext
  exact touchO_ite (fun _ => touchO_none) fun _ => touchO_map fun _ =>
    State.sendFrame_touch (List.Subset.trans (by decide) hp) _ _ _ _ (State.beginMsg_touch (List.Subset.trans (by decide) hp) _ _ _ h)

theorem State.pumpLoop_touch (hp : ([.log, .skid, .out] : List Part) ⊆ ps) (s : State) (n fuel : ℕ) (h : Touch ps s0 s) : Touch ps s0 (s.pumpLoop n fuel) := by
  induction fuel generalizing s with
  | zero => exact h
  | succ k ih =>
    unfold State.pumpLoop
    split
    · exact ih _ (touch_of_some (by assumption) (State.sendNext_touch (List.Subset.trans (by decide) hp) s n h))
    · exact h

theorem State.pumpPort_touch (hp : ([.log, .skid, .out] : List Part) ⊆ ps) (s : State) (n : ℕ)  (h : Touch ps s0 s) :
    Touch ps s0 (State.pumpPort s n) := by
  unfold State.pumpPort; try dsimp only
  repeat' first
    | with_reducible assumption
    | exact List.Subset.trans (by decide) hp
    | with_reducible apply State.pumpLoop_touch

theorem State.putMsg_touch (hp : ([.log, .skid, .out] : List Part) ⊆ ps) (s : State) (n : ℕ) (came : Option ℕ) (m : Msg)  (h : Touch ps s0 s) :
    Touch ps s0 (State.putMsg s n came m) := by
  unfold State.putMsg; try dsimp only
  repeat' first
    | with_reducible assumption
    | exact List.Subset.trans (by decide) hp
    | with_reducible apply State.pumpPort_touch
    | with_reducible apply State.emit_touch
    | with_reducible apply State.modPort_touch

theorem State.sendOn_touch (hp : ([.log, .skid, .out] : List Part) ⊆ ps) (s : State) (port : ℕ) (src : ℕ) (kind : ℕ) (dst : ℕ) (arg : ℕ) (body : Bytes)  (h : Touch ps s0 s) :
    Touch ps s0 (State.sendOn s port src kind dst arg body) := by
  unfold State.sendOn; try dsimp only
  repeat' first
    | with_reducible assumption
    | exact List.Subset.trans (by decide) hp
    | with_reducible apply State.putMsg_touch

theorem State.sendTo_touch (hp : ([.log, .skid, .out] : List Part) ⊆ ps) (s : State) (src : ℕ) (kind : ℕ) (dst : ℕ) (arg : ℕ) (body : Bytes)  (h : Touch ps s0 s) :
    Touch ps s0 (State.sendTo s src kind dst arg body) := by
  unfold State.sendTo; try dsimp only
  repeat' first
    | with_reducible assumption
    | exact List.Subset.trans (by decide) hp
    | with_reducible apply State.sendOn_touch
    | split

theorem State.e2eAck_touch (hp : ([.log, .skid, .out] : List Part) ⊆ ps) (s : State) (m : Msg)  (h : Touch ps s0 s) :
    Touch ps s0 (State.e2eAck s m) := by
  unfold State.e2eAck; try dsimp only
  repeat' first
    | with_reducible assumption
    | exact List.Subset.trans (by decide) hp
    | with_reducible apply State.sendTo_touch
    | with_reducible apply touch_ite
    | with_reducible intro _

theorem State.markFirst_touch (hp : ([.job] : List Part) ⊆ ps) (s : State) (k : ℕ) (step : ℕ)  (h : Touch ps s0 s) :
    Touch ps s0 (State.markFirst s k step) := by
  unfold State.markFirst; try dsimp only
  repeat' first
    | with_reducible assumption
    | exact .inr (hp (by decide))
    | with_reducible exact .inl rfl
    | with_reducible refine touch_mk ?_ ?_ ?_ ?_ ?_ ?_ ?_ ?_ ?_ ?_ ?_ ?_ ?_ ?_ ?_ ?_ ?_ ?_ ?_ ?_ ?_ ?_ ?_ ?_ ?_ ?_ ?_ ?_ ?_

theorem State.eventOnce_touch (hp : ([.log, .job, .host, .ctr, .out] : List Part) ⊆ ps) (s : State) (k : ℕ) (step : ℕ) (src : ℕ) (code : ℕ) (detail : Bytes)  (h : Touch ps s0 s) :
    Touch ps s0 (State.eventOnce s k step src code detail) := by
  unfold State.eventOnce; try dsimp only
  repeat' first
    | with_reducible assumption
    | exact List.Subset.trans (by decide) hp
    | with_reducible apply State.event_touch
    | with_reducible apply State.markFirst_touch
    | with_reducible apply touch_ite
    | with_reducible intro _

theorem State.faultCheckpoint_touch (hp : ([.log, .host, .snap, .ctr, .out] : List Part) ⊆ ps) (s : State) (src : ℕ) (code : ℕ)  (h : Touch ps s0 s) :
    Touch ps s0 (State.faultCheckpoint s src code) := by
  unfold State.faultCheckpoint; try dsimp only
  repeat' first
    | with_reducible assumption
    | exact List.Subset.trans (by decide) hp
    | with_reducible apply State.event_touch
    | exact .inr (hp (by decide))
    | with_reducible exact .inl rfl
    | with_reducible apply touch_ite
    | with_reducible intro _
    | with_reducible refine touch_mk ?_ ?_ ?_ ?_ ?_ ?_ ?_ ?_ ?_ ?_ ?_ ?_ ?_ ?_ ?_ ?_ ?_ ?_ ?_ ?_ ?_ ?_ ?_ ?_ ?_ ?_ ?_ ?_ ?_

theorem State.stopUnits_touch (hp : ([.clusters, .upd, .limbers, .cow, .ingest, .snap] : List Part) ⊆ ps) (s : State)  (h : Touch ps s0 s) :
    Touch ps s0 (State.stopUnits s) := by
  unfold State.stopUnits; try dsimp only
  repeat' first
    | with_reducible assumption
    | exact .inr (hp (by decide))
    | with_reducible exact .inl rfl
    | with_reducible apply touch_ite
    | with_reducible intro _
    | with_reducible refine touch_mk ?_ ?_ ?_ ?_ ?_ ?_ ?_ ?_ ?_ ?_ ?_ ?_ ?_ ?_ ?_ ?_ ?_ ?_ ?_ ?_ ?_ ?_ ?_ ?_ ?_ ?_ ?_ ?_ ?_

theorem State.sendAll_touch (hp : ([.log, .skid, .out] : List Part) ⊆ ps) (s : State) (src : ℕ) (kind : ℕ) (arg : ℕ) (body : Bytes)  (h : Touch ps s0 s) :
    Touch ps s0 (State.sendAll s src kind arg body) := by
  unfold State.sendAll; try dsimp only
  repeat' first
    | with_reducible assumption
    | exact List.Subset.trans (by decide) hp
    | with_reducible apply State.sendTo_touch
    | with_reducible apply touch_foldl
    | with_reducible intro _

theorem State.refuseCapture_touch (hp : ([.log, .skid, .host, .ctr, .out] : List Part) ⊆ ps) (s : State) (k : ℕ) (cause : ℕ)  (h : Touch ps s0 s) :
    Touch ps s0 (State.refuseCapture s k cause) := by
  unfold State.refuseCapture; try dsimp only
  repeat' first
    | with_reducible assumption
    | exact List.Subset.trans (by decide) hp
    | with_reducible apply State.sendAll_touch
    | with_reducible apply State.event_touch
    | with_reducible apply State.bump_touch

theorem State.react_touch (hp : ([.log, .safe, .stats, .clusters, .job, .upd, .limbers, .cow, .skid, .host, .ingest, .snap, .ctr, .out] : List Part) ⊆ ps) (s : State) (src : ℕ) (code : ℕ)  (h : Touch ps s0 s) :
    Touch ps s0 (State.react s src code) := by
  unfold State.react; try dsimp only
  repeat' first
    | with_reducible assumption
    | exact List.Subset.trans (by decide) hp
    | with_reducible apply State.closeStats_touch
    | with_reducible apply State.faultCheckpoint_touch
    | with_reducible apply State.closeIngest_touch
    | with_reducible apply State.stopUnits_touch
    | with_reducible apply State.refuseCapture_touch
    | with_reducible apply State.sendAll_touch
    | exact .inr (hp (by decide))
    | with_reducible exact .inl rfl
    | with_reducible apply touch_foldl
    | with_reducible intro _
    | split
    | with_reducible refine touch_mk ?_ ?_ ?_ ?_ ?_ ?_ ?_ ?_ ?_ ?_ ?_ ?_ ?_ ?_ ?_ ?_ ?_ ?_ ?_ ?_ ?_ ?_ ?_ ?_ ?_ ?_ ?_ ?_ ?_

theorem State.faultAfter_touch (hp : ([.log, .safe, .stats, .clusters, .job, .upd, .limbers, .cow, .skid, .host, .ingest, .snap, .ctr, .out] : List Part) ⊆ ps) (s : State) (src : ℕ) (code : ℕ) (cause : ℕ) (detail : Bytes)  (h : Touch ps s0 s) :
    Touch ps s0 (State.faultAfter s src code cause detail) := by
  unfold State.faultAfter; try dsimp only
  repeat' first
    | with_reducible assumption
    | exact List.Subset.trans (by decide) hp
    | with_reducible apply State.bump_touch
    | with_reducible apply State.eventAfter_touch
    | with_reducible apply State.react_touch
    | with_reducible apply State.event_touch
    | exact .inr (hp (by decide))
    | with_reducible exact .inl rfl
    | with_reducible apply touch_ite
    | with_reducible intro _
    | split
    | with_reducible refine touch_mk ?_ ?_ ?_ ?_ ?_ ?_ ?_ ?_ ?_ ?_ ?_ ?_ ?_ ?_ ?_ ?_ ?_ ?_ ?_ ?_ ?_ ?_ ?_ ?_ ?_ ?_ ?_ ?_ ?_

theorem State.fault_touch (hp : ([.log, .safe, .stats, .clusters, .job, .upd, .limbers, .cow, .skid, .host, .ingest, .snap, .ctr, .out] : List Part) ⊆ ps) (s : State) (src : ℕ) (code : ℕ) (detail : optParam Bytes [])  (h : Touch ps s0 s) :
    Touch ps s0 (State.fault s src code detail) := by
  unfold State.fault; try dsimp only
  repeat' first
    | with_reducible assumption
    | exact List.Subset.trans (by decide) hp
    | with_reducible apply State.faultAfter_touch

theorem State.setPorts_touch (hp : ([.net] : List Part) ⊆ ps) (s : State) (m : ℕ) (l : List (ℕ × ℕ))  (h : Touch ps s0 s) :
    Touch ps s0 (State.setPorts s m l) := by
  unfold State.setPorts; try dsimp only
  repeat' first
    | with_reducible assumption
    | exact .inr (hp (by decide))
    | with_reducible exact .inl rfl
    | with_reducible refine touch_mk ?_ ?_ ?_ ?_ ?_ ?_ ?_ ?_ ?_ ?_ ?_ ?_ ?_ ?_ ?_ ?_ ?_ ?_ ?_ ?_ ?_ ?_ ?_ ?_ ?_ ?_ ?_ ?_ ?_

theorem State.floodPorts_touch (hp : ([.net, .out] : List Part) ⊆ ps) (s : State) (ports : List ℕ) (h : Touch ps s0 s) : Touch ps s0 (s.floodPorts ports) :=
  touch_foldl _ (fun _ _ h => touch_out (hp (by decide)) h) (State.setPorts_touch (List.Subset.trans (by decide) hp) s _ _ h)

theorem State.receipt_touch (hp : ([.log, .host, .ctr, .out] : List Part) ⊆ ps) (s : State) (st : ℕ) (r : Receipt)  (h : Touch ps s0 s) :
    Touch ps s0 (State.receipt s st r) := by
  unfold State.receipt; try dsimp only
  repeat' first
    | with_reducible assumption
    | exact List.Subset.trans (by decide) hp
    | with_reducible apply State.record_touch
    | exact .inr (hp (by decide))
    | with_reducible exact .inl rfl
    | with_reducible refine touch_mk ?_ ?_ ?_ ?_ ?_ ?_ ?_ ?_ ?_ ?_ ?_ ?_ ?_ ?_ ?_ ?_ ?_ ?_ ?_ ?_ ?_ ?_ ?_ ?_ ?_ ?_ ?_ ?_ ?_

theorem State.laterReceipts_touch (hp : ([.log, .host, .ingest, .ctr, .out] : List Part) ⊆ ps) (s : State) (k : ℕ) (kind : ℕ) (reason : ℕ)  (h : Touch ps s0 s) :
    Touch ps s0 (State.laterReceipts s k kind reason) := by
  unfold State.laterReceipts; try dsimp only
  repeat' first
    | with_reducible assumption
    | exact List.Subset.trans (by decide) hp
    | with_reducible apply State.receipt_touch
    | exact .inr (hp (by decide))
    | with_reducible exact .inl rfl
    | with_reducible apply touch_foldl
    | with_reducible intro _
    | split
    | with_reducible refine touch_mk ?_ ?_ ?_ ?_ ?_ ?_ ?_ ?_ ?_ ?_ ?_ ?_ ?_ ?_ ?_ ?_ ?_ ?_ ?_ ?_ ?_ ?_ ?_ ?_ ?_ ?_ ?_ ?_ ?_

theorem State.modCl_touch (hp : ([.clusters] : List Part) ⊆ ps) (s : State) (k : ℕ) (f : Cluster → Cluster)  (h : Touch ps s0 s) :
    Touch ps s0 (State.modCl s k f) := by
  unfold State.modCl; try dsimp only
  repeat' first
    | with_reducible assumption
    | exact .inr (hp (by decide))
    | with_reducible exact .inl rfl
    | with_reducible refine touch_mk ?_ ?_ ?_ ?_ ?_ ?_ ?_ ?_ ?_ ?_ ?_ ?_ ?_ ?_ ?_ ?_ ?_ ?_ ?_ ?_ ?_ ?_ ?_ ?_ ?_ ?_ ?_ ?_ ?_

theorem State.nextFree_touch (hp : ([.free] : List Part) ⊆ ps) (s : State)  (h : Touch ps s0 s) :
    Touch ps s0 (State.nextFree s) := by
  unfold State.nextFree; try dsimp only
  repeat' first
    | with_reducible assumption
    | exact .inr (hp (by decide))
    | with_reducible exact .inl rfl
    | with_reducible refine touch_mk ?_ ?_ ?_ ?_ ?_ ?_ ?_ ?_ ?_ ?_ ?_ ?_ ?_ ?_ ?_ ?_ ?_ ?_ ?_ ?_ ?_ ?_ ?_ ?_ ?_ ?_ ?_ ?_ ?_

theorem State.releaseStash_touch (hp : ([.stash, .free] : List Part) ⊆ ps) (s : State)  (h : Touch ps s0 s) :
    Touch ps s0 (State.releaseStash s) := by
  unfold State.releaseStash; try dsimp only
  repeat' first
    | with_reducible assumption
    | exact List.Subset.trans (by decide) hp
    | with_reducible apply State.nextFree_touch
    | exact .inr (hp (by decide))
    | with_reducible exact .inl rfl
    | with_reducible refine touch_mk ?_ ?_ ?_ ?_ ?_ ?_ ?_ ?_ ?_ ?_ ?_ ?_ ?_ ?_ ?_ ?_ ?_ ?_ ?_ ?_ ?_ ?_ ?_ ?_ ?_ ?_ ?_ ?_ ?_

theorem State.rxFrame_touch (hp : ([.ctr] : List Part) ⊆ ps) (s : State)  (h : Touch ps s0 s) :
    Touch ps s0 (State.rxFrame s) := by
  unfold State.rxFrame; try dsimp only
  repeat' first
    | with_reducible assumption
    | exact List.Subset.trans (by decide) hp
    | with_reducible apply State.bump_touch

theorem State.setCount_touch (hp : ([.ctr] : List Part) ⊆ ps) (s : State) (k : ℕ) (n : ℕ)  (h : Touch ps s0 s) :
    Touch ps s0 (State.setCount s k n) := by
  unfold State.setCount; try dsimp only
  repeat' first
    | with_reducible assumption
    | exact .inr (hp (by decide))
    | with_reducible exact .inl rfl
    | with_reducible refine touch_mk ?_ ?_ ?_ ?_ ?_ ?_ ?_ ?_ ?_ ?_ ?_ ?_ ?_ ?_ ?_ ?_ ?_ ?_ ?_ ?_ ?_ ?_ ?_ ?_ ?_ ?_ ?_ ?_ ?_

theorem State.signal_touch (hp : ([.log, .skid, .sync, .host, .ctr, .out] : List Part) ⊆ ps) (s : State) (src : ℕ) (id : ℕ) (inc : ℕ) (step : ℕ)  (h : Touch ps s0 s) :
    Touch ps s0 (State.signal s src id inc step) := by
  unfold State.signal; try dsimp only
  repeat' first
    | with_reducible assumption
    | exact List.Subset.trans (by decide) hp
    | with_reducible apply State.sendOn_touch
    | with_reducible apply State.event_touch
    | exact .inr (hp (by decide))
    | with_reducible exact .inl rfl
    | with_reducible apply touch_ite
    | with_reducible intro _
    | with_reducible refine touch_mk ?_ ?_ ?_ ?_ ?_ ?_ ?_ ?_ ?_ ?_ ?_ ?_ ?_ ?_ ?_ ?_ ?_ ?_ ?_ ?_ ?_ ?_ ?_ ?_ ?_ ?_ ?_ ?_ ?_

theorem State.stress_touch (hp : ([.snap] : List Part) ⊆ ps) (s : State) (n : ℕ)  (h : Touch ps s0 s) :
    Touch ps s0 (State.stress s n) := by
  unfold State.stress; try dsimp only
  repeat' first
    | with_reducible assumption
    | exact .inr (hp (by decide))
    | with_reducible exact .inl rfl
    | with_reducible refine touch_mk ?_ ?_ ?_ ?_ ?_ ?_ ?_ ?_ ?_ ?_ ?_ ?_ ?_ ?_ ?_ ?_ ?_ ?_ ?_ ?_ ?_ ?_ ?_ ?_ ?_ ?_ ?_ ?_ ?_

theorem State.took_touch (hp : ([.net] : List Part) ⊆ ps) (s : State) (m : Msg)  (h : Touch ps s0 s) :
    Touch ps s0 (State.took s m) := by
  unfold State.took; try dsimp only
  repeat' first
    | with_reducible assumption
    | exact .inr (hp (by decide))
    | with_reducible exact .inl rfl
    | with_reducible refine touch_mk ?_ ?_ ?_ ?_ ?_ ?_ ?_ ?_ ?_ ?_ ?_ ?_ ?_ ?_ ?_ ?_ ?_ ?_ ?_ ?_ ?_ ?_ ?_ ?_ ?_ ?_ ?_ ?_ ?_

theorem State.taken_touch (hp : ([.log, .net] : List Part) ⊆ ps) (s : State) (m : Msg) (f : State → State) (hf : ∀ s , Touch ps s0 s → Touch ps s0 (f s )) (h : Touch ps s0 s) :
    Touch ps s0 (State.taken s m f) := by
  unfold State.taken; try dsimp only
  repeat' first
    | with_reducible assumption
    | exact List.Subset.trans (by decide) hp
    | with_reducible apply State.caused_touch
    | with_reducible apply State.took_touch
    | with_reducible apply hf
    | with_reducible intro _

end Sys2Proof.Machine
end

