-- ==== Sys2Proof/Laws/TouchFlags.lean ====
section
/-! SUPPORT. Which parts of the state the operations of Machine/Flags.lean may change. -/

namespace Sys2Proof.Machine

variable {s0 : State} {ps : List Part}

theorem State.modStats_touch (hp : ([.stats] : List Part) ⊆ ps) (s : State) (step : ℕ) (f : StepStats → StepStats)  (h : Touch ps s0 s) :
    Touch ps s0 (State.modStats s step f) := by
  unfold State.modStats; try dsimp only
  repeat' first
    | with_reducible assumption
    | exact .inr (hp (by decide))
    | with_reducible exact .inl rfl
    | with_reducible refine touch_mk ?_ ?_ ?_ ?_ ?_ ?_ ?_ ?_ ?_ ?_ ?_ ?_ ?_ ?_ ?_ ?_ ?_ ?_ ?_ ?_ ?_ ?_ ?_ ?_ ?_ ?_ ?_ ?_ ?_

theorem State.tallyCounts_touch (hp : ([.stats] : List Part) ⊆ ps) (s : State) (step : ℕ) (w : ℕ) (f : ℕ) (c : Counts)  (h : Touch ps s0 s) :
    Touch ps s0 (State.tallyCounts s step w f c) := by
  unfold State.tallyCounts; try dsimp only
  repeat' first
    | with_reducible assumption
    | exact List.Subset.trans (by decide) hp
    | with_reducible apply State.modStats_touch

theorem State.raiseFlag_touch (hp : ([.log, .stats, .host, .ctr, .out] : List Part) ⊆ ps) (s : State) (src : ℕ) (step : ℕ) (w : ℕ) (f : ℕ)  (h : Touch ps s0 s) :
    Touch ps s0 (State.raiseFlag s src step w f) := by
  unfold State.raiseFlag; try dsimp only
  repeat' first
    | with_reducible assumption
    | exact List.Subset.trans (by decide) hp
    | with_reducible apply State.modStats_touch
    | with_reducible apply State.event_touch
    | with_reducible apply touch_ite
    | with_reducible intro _

theorem State.addCounts_touch (hp : ([.log, .stats, .host, .ctr, .out] : List Part) ⊆ ps) (s : State) (src : ℕ) (step : ℕ) (w : ℕ) (f : ℕ) (c : Counts)  (h : Touch ps s0 s) :
    Touch ps s0 (State.addCounts s src step w f c) := by
  unfold State.addCounts; try dsimp only
  repeat' first
    | with_reducible assumption
    | exact List.Subset.trans (by decide) hp
    | with_reducible apply State.tallyCounts_touch
    | with_reducible apply State.raiseFlag_touch
    | with_reducible apply touch_ite
    | with_reducible intro _

theorem State.addHist_touch (hp : ([.stats] : List Part) ⊆ ps) (s : State) (step : ℕ) (w : ℕ) (f : ℕ) (vs : List ℚ)  (h : Touch ps s0 s) :
    Touch ps s0 (State.addHist s step w f vs) := by
  unfold State.addHist; try dsimp only
  repeat' first
    | with_reducible assumption
    | exact List.Subset.trans (by decide) hp
    | with_reducible apply State.modStats_touch
    | with_reducible apply touch_ite
    | with_reducible apply touch_foldl
    | with_reducible intro _

end Sys2Proof.Machine
end

