-- ==== Sys2Proof/Laws/TouchOperands.lean ====
section
/-! SUPPORT. Which parts of the state the operations of Machine/Operands.lean may change. -/

namespace Sys2Proof.Machine

variable {s0 : State} {ps : List Part}

theorem State.modBank_touch (hp : ([.banks] : List Part) ⊆ ps) (s : State) (die : ℕ) (i : ℕ) (f : Bank → Bank)  (h : Touch ps s0 s) :
    Touch ps s0 (State.modBank s die i f) := by
  unfold State.modBank; try dsimp only
  repeat' first
    | with_reducible assumption
    | exact .inr (hp (by decide))
    | with_reducible exact .inl rfl
    | with_reducible refine touch_mk ?_ ?_ ?_ ?_ ?_ ?_ ?_ ?_ ?_ ?_ ?_ ?_ ?_ ?_ ?_ ?_ ?_ ?_ ?_ ?_ ?_ ?_ ?_ ?_ ?_ ?_ ?_ ?_ ?_

theorem State.noteRefused_touch (hp : ([.log, .job, .banks, .host, .ctr, .out] : List Part) ⊆ ps) (s : State) (die : ℕ) (i : ℕ) (req : ℕ) (step : ℕ)  (h : Touch ps s0 s) :
    Touch ps s0 (State.noteRefused s die i req step) := by
  unfold State.noteRefused; try dsimp only
  repeat' first
    | with_reducible assumption
    | exact List.Subset.trans (by decide) hp
    | with_reducible apply State.modBank_touch
    | with_reducible apply State.eventOnce_touch
    | with_reducible apply State.bump_touch
    | with_reducible apply touch_ite
    | with_reducible intro _

theorem State.allowAccess_touch (hp : ([.log, .job, .banks, .host, .ctr, .out] : List Part) ⊆ ps) (s : State) (die : ℕ) (o : ℕ) (req : ℕ) (step : ℕ)  (h : Touch ps s0 s) :
    Touch ps s0 (State.allowAccess s die o req step).2 := by
  unfold State.allowAccess; try dsimp only
  repeat' first
    | with_reducible assumption
    | exact List.Subset.trans (by decide) hp
    | with_reducible apply State.noteRefused_touch
    | with_reducible apply touch_ite
    | with_reducible apply touch_ite_snd
    | with_reducible intro _
    | split
    | dsimp only

theorem State.sramRead_touch (hp : ([.log, .job, .banks, .host, .ctr, .out] : List Part) ⊆ ps) (s : State) (die : ℕ) (o : ℕ) (n : ℕ) (req : ℕ) (step : ℕ)  (h : Touch ps s0 s) :
    Touch ps s0 (State.sramRead s die o n req step).2 := by
  unfold State.sramRead; try dsimp only
  repeat' first
    | with_reducible assumption
    | exact List.Subset.trans (by decide) hp
    | with_reducible apply State.allowAccess_touch
    | with_reducible apply touch_ite
    | with_reducible apply touch_foldl_snd
    | with_reducible apply touch_ite_snd
    | with_reducible refine touch_of_snd (by assumption) ?_
    | with_reducible intro _
    | split
    | dsimp only

theorem State.localRead_touch (hp : ([.log, .job, .banks, .host, .ctr, .out] : List Part) ⊆ ps) (s : State) (cl : ℕ) (x : ℕ) (n : ℕ) (step : ℕ)  (h : Touch ps s0 s) :
    Touch ps s0 (State.localRead s cl x n step).2 := by
  unfold State.localRead; try dsimp only
  repeat' first
    | with_reducible assumption
    | exact List.Subset.trans (by decide) hp
    | with_reducible apply State.sramRead_touch
    | with_reducible refine touch_of_snd (by assumption) ?_
    | dsimp only

theorem State.sramWrite_touch (hp : ([.log, .job, .banks, .host, .mem, .ctr, .out] : List Part) ⊆ ps) (s : State) (die : ℕ) (o : ℕ) (req : ℕ) (step : ℕ) (bs : Bytes)  (h : Touch ps s0 s) :
    Touch ps s0 (State.sramWrite s die o req step bs) := by
  unfold State.sramWrite; try dsimp only
  repeat' first
    | with_reducible assumption
    | exact List.Subset.trans (by decide) hp
    | with_reducible apply State.allowAccess_touch
    | exact .inr (hp (by decide))
    | with_reducible exact .inl rfl
    | with_reducible apply touch_ite
    | with_reducible apply touch_foldl
    | with_reducible refine touch_of_snd (by assumption) ?_
    | with_reducible intro _
    | split
    | with_reducible refine touch_mk ?_ ?_ ?_ ?_ ?_ ?_ ?_ ?_ ?_ ?_ ?_ ?_ ?_ ?_ ?_ ?_ ?_ ?_ ?_ ?_ ?_ ?_ ?_ ?_ ?_ ?_ ?_ ?_ ?_

theorem State.localWrite_touch (hp : ([.log, .job, .banks, .host, .mem, .ctr, .out] : List Part) ⊆ ps) (s : State) (cl : ℕ) (x : ℕ) (step : ℕ) (bs : Bytes)  (h : Touch ps s0 s) :
    Touch ps s0 (State.localWrite s cl x step bs) := by
  unfold State.localWrite; try dsimp only
  repeat' first
    | with_reducible assumption
    | exact List.Subset.trans (by decide) hp
    | with_reducible apply State.sramWrite_touch

end Sys2Proof.Machine
end

