-- ==== Sys2Proof/Laws/TouchArray.lean ====
section
/-! SUPPORT. Which parts of the state the operations of Machine/Array.lean may change. -/

namespace Sys2Proof.Machine

variable {s0 : State} {ps : List Part}

theorem State.drainGradient_touch (hp : ([.log, .upd, .skid, .out] : List Part) ⊆ ps) (s : State) (cl : ℕ) (d : DrainOp) (i : ℕ)  (h : Touch ps s0 s) :
    Touch ps s0 (State.drainGradient s cl d i) := by
  unfold State.drainGradient; try dsimp only
  repeat' first
    | with_reducible assumption
    | exact List.Subset.trans (by decide) hp
    | with_reducible apply State.putMsg_touch
    | exact .inr (hp (by decide))
    | with_reducible exact .inl rfl
    | with_reducible apply touch_ite
    | with_reducible apply touchO_getD
    | with_reducible apply touch_foldl
    | with_reducible intro _
    | split
    | with_reducible refine touch_mk ?_ ?_ ?_ ?_ ?_ ?_ ?_ ?_ ?_ ?_ ?_ ?_ ?_ ?_ ?_ ?_ ?_ ?_ ?_ ?_ ?_ ?_ ?_ ?_ ?_ ?_ ?_ ?_ ?_

theorem State.drainLocal_touch (hp : ([.log, .job, .banks, .host, .mem, .ctr, .out] : List Part) ⊆ ps) (s : State) (cl : ℕ) (d : DrainOp) (i : ℕ)  (h : Touch ps s0 s) :
    Touch ps s0 (State.drainLocal s cl d i) := by
  unfold State.drainLocal; try dsimp only
  repeat' first
    | with_reducible assumption
    | exact List.Subset.trans (by decide) hp
    | with_reducible apply State.localWrite_touch
    | with_reducible apply touch_ite
    | with_reducible apply touch_foldl
    | with_reducible intro _

theorem State.drainRow_touch (hp : ([.log, .stats, .clusters, .job, .upd, .banks, .skid, .host, .mem, .ctr, .out] : List Part) ⊆ ps) (s : State) (cl : ℕ) (d : DrainOp) (i : ℕ)  (h : Touch ps s0 s) :
    TouchO ps s0 (State.drainRow s cl d i) := by
  unfold State.drainRow; try dsimp only
  repeat' first
    | with_reducible assumption
    | exact List.Subset.trans (by decide) hp
    | with_reducible apply State.addHist_touch
    | with_reducible apply State.addCounts_touch
    | with_reducible apply State.drainLocal_touch
    | with_reducible apply State.modCl_touch
    | with_reducible apply State.drainGradient_touch
    | with_reducible apply touch_ite
    | with_reducible apply touchO_ite
    | with_reducible apply touchO_some
    | with_reducible exact touchO_none
    | with_reducible intro _
    | split

theorem State.passEffect_touch (hp : ([.log, .stats, .clusters, .host, .ctr, .out] : List Part) ⊆ ps) (s : State) (cl : ℕ) (op : PassOp)  (h : Touch ps s0 s) :
    Touch ps s0 (State.passEffect s cl op) := by
  unfold State.passEffect; try dsimp only
  repeat' first
    | with_reducible assumption
    | exact List.Subset.trans (by decide) hp
    | with_reducible apply State.bump_touch
    | with_reducible apply State.modCl_touch
    | with_reducible apply State.addCounts_touch
    | with_reducible apply State.addHist_touch
    | with_reducible apply touch_ite
    | with_reducible intro _
    | split

end Sys2Proof.Machine
end

