-- ==== Sys2Proof/Laws/TouchIssue.lean ====
section
/-! SUPPORT. Which parts of the state the operations of Machine/Issue.lean may change. -/

namespace Sys2Proof.Machine

variable {s0 : State} {ps : List Part}

theorem State.passRetired_touch (hp : ([.clusters, .ctr] : List Part) ⊆ ps) (s : State) (cl : ℕ)  (h : Touch ps s0 s) :
    Touch ps s0 (State.passRetired s cl) := by
  unfold State.passRetired; try dsimp only
  repeat' first
    | with_reducible assumption
    | exact List.Subset.trans (by decide) hp
    | with_reducible apply State.bump_touch
    | with_reducible apply State.modCl_touch

theorem State.finishPass_touch (hp : ([.log, .stats, .clusters, .host, .ctr, .out] : List Part) ⊆ ps) (s : State) (cl : ℕ)  (h : Touch ps s0 s) :
    Touch ps s0 (State.finishPass s cl) := by
  unfold State.finishPass; try dsimp only
  repeat' first
    | with_reducible assumption
    | exact List.Subset.trans (by decide) hp
    | with_reducible apply State.bump_touch
    | with_reducible apply State.passRetired_touch
    | with_reducible apply State.passEffect_touch
    | with_reducible apply touch_ite
    | with_reducible intro _
    | split

theorem State.abandonCl_touch (hp : ([.log, .stats, .clusters, .sync, .host, .ctr, .out] : List Part) ⊆ ps) (s : State) (k : ℕ) (cl : ℕ)  (h : Touch ps s0 s) :
    Touch ps s0 (State.abandonCl s k cl) := by
  unfold State.abandonCl; try dsimp only
  repeat' first
    | with_reducible assumption
    | exact List.Subset.trans (by decide) hp
    | with_reducible apply State.finishPass_touch
    | with_reducible apply State.event_touch
    | with_reducible apply State.modCl_touch
    | exact .inr (hp (by decide))
    | with_reducible exact .inl rfl
    | with_reducible apply touch_ite
    | with_reducible intro _
    | split
    | with_reducible refine touch_mk ?_ ?_ ?_ ?_ ?_ ?_ ?_ ?_ ?_ ?_ ?_ ?_ ?_ ?_ ?_ ?_ ?_ ?_ ?_ ?_ ?_ ?_ ?_ ?_ ?_ ?_ ?_ ?_ ?_

theorem State.arrayFail_touch (hp : ([.log, .safe, .stats, .clusters, .job, .upd, .limbers, .cow, .skid, .host, .ingest, .snap, .ctr, .out] : List Part) ⊆ ps) (s : State) (cl : ℕ) (reason : ℕ)  (h : Touch ps s0 s) :
    Touch ps s0 (State.arrayFail s cl reason) := by
  unfold State.arrayFail; try dsimp only
  repeat' first
    | with_reducible assumption
    | exact List.Subset.trans (by decide) hp
    | with_reducible apply State.fault_touch

theorem State.modStep_touch (hp : ([.job] : List Part) ⊆ ps) (s : State) (k : ℕ) (f : StepRec → StepRec)  (h : Touch ps s0 s) :
    Touch ps s0 (State.modStep s k f) := by
  unfold State.modStep; try dsimp only
  repeat' first
    | with_reducible assumption
    | exact .inr (hp (by decide))
    | with_reducible exact .inl rfl
    | with_reducible refine touch_mk ?_ ?_ ?_ ?_ ?_ ?_ ?_ ?_ ?_ ?_ ?_ ?_ ?_ ?_ ?_ ?_ ?_ ?_ ?_ ?_ ?_ ?_ ?_ ?_ ?_ ?_ ?_ ?_ ?_

theorem State.flushWithdrawals_touch (hp : ([.log, .upd, .skid, .out] : List Part) ⊆ ps) (s : State)  (h : Touch ps s0 s) :
    Touch ps s0 (State.flushWithdrawals s) := by
  unfold State.flushWithdrawals; try dsimp only
  repeat' first
    | with_reducible assumption
    | exact List.Subset.trans (by decide) hp
    | with_reducible apply State.sendAll_touch
    | exact .inr (hp (by decide))
    | with_reducible exact .inl rfl
    | with_reducible apply touch_ite
    | with_reducible apply touch_foldl
    | with_reducible intro _
    | with_reducible refine touch_mk ?_ ?_ ?_ ?_ ?_ ?_ ?_ ?_ ?_ ?_ ?_ ?_ ?_ ?_ ?_ ?_ ?_ ?_ ?_ ?_ ?_ ?_ ?_ ?_ ?_ ?_ ?_ ?_ ?_

theorem State.noteWithdrawn_touch (hp : ([.upd] : List Part) ⊆ ps) (s : State) (k : ℕ) (m : ℕ)  (h : Touch ps s0 s) :
    Touch ps s0 (State.noteWithdrawn s k m) := by
  unfold State.noteWithdrawn; try dsimp only
  repeat' first
    | with_reducible assumption
    | exact .inr (hp (by decide))
    | with_reducible exact .inl rfl
    | with_reducible refine touch_mk ?_ ?_ ?_ ?_ ?_ ?_ ?_ ?_ ?_ ?_ ?_ ?_ ?_ ?_ ?_ ?_ ?_ ?_ ?_ ?_ ?_ ?_ ?_ ?_ ?_ ?_ ?_ ?_ ?_

theorem State.stopLimbers_touch (hp : ([.limbers] : List Part) ⊆ ps) (s : State)  (h : Touch ps s0 s) :
    Touch ps s0 (State.stopLimbers s) := by
  unfold State.stopLimbers; try dsimp only
  repeat' first
    | with_reducible assumption
    | exact .inr (hp (by decide))
    | with_reducible exact .inl rfl
    | with_reducible apply touch_ite
    | with_reducible intro _
    | with_reducible refine touch_mk ?_ ?_ ?_ ?_ ?_ ?_ ?_ ?_ ?_ ?_ ?_ ?_ ?_ ?_ ?_ ?_ ?_ ?_ ?_ ?_ ?_ ?_ ?_ ?_ ?_ ?_ ?_ ?_ ?_

theorem State.straggle_touch (hp : ([.log, .stats, .clusters, .job, .upd, .limbers, .stash, .skid, .sync, .host, .ingest, .ctr, .out, .free] : List Part) ⊆ ps) (s : State) (k : ℕ)  (h : Touch ps s0 s) :
    Touch ps s0 (State.straggle s k) := by
  unfold State.straggle; try dsimp only
  repeat' first
    | with_reducible assumption
    | exact List.Subset.trans (by decide) hp
    | with_reducible apply State.modStep_touch
    | with_reducible apply State.event_touch
    | with_reducible apply State.modStats_touch
    | with_reducible apply State.laterReceipts_touch
    | with_reducible apply State.flushWithdrawals_touch
    | with_reducible apply State.noteWithdrawn_touch
    | with_reducible apply State.abandonCl_touch
    | with_reducible apply State.releaseStash_touch
    | with_reducible apply State.stopLimbers_touch
    | exact .inr (hp (by decide))
    | with_reducible exact .inl rfl
    | with_reducible apply touch_ite
    | with_reducible apply touch_foldl
    | with_reducible intro _
    | with_reducible refine touch_mk ?_ ?_ ?_ ?_ ?_ ?_ ?_ ?_ ?_ ?_ ?_ ?_ ?_ ?_ ?_ ?_ ?_ ?_ ?_ ?_ ?_ ?_ ?_ ?_ ?_ ?_ ?_ ?_ ?_

theorem State.boundFail_touch (hp : ([.log, .safe, .stats, .clusters, .job, .upd, .limbers, .stash, .cow, .skid, .sync, .host, .ingest, .snap, .ctr, .out, .free] : List Part) ⊆ ps) (s : State) (cl : ℕ) (f : Fetched) (cls : ℕ) (value : ℕ) (mx : ℕ)  (h : Touch ps s0 s) :
    Touch ps s0 (State.boundFail s cl f cls value mx) := by
  unfold State.boundFail; try dsimp only
  repeat' first
    | with_reducible assumption
    | exact List.Subset.trans (by decide) hp
    | with_reducible apply State.bump_touch
    | with_reducible apply State.event_touch
    | with_reducible apply State.straggle_touch
    | with_reducible apply State.fault_touch
    | exact .inr (hp (by decide))
    | with_reducible exact .inl rfl
    | with_reducible apply touch_ite
    | with_reducible intro _
    | with_reducible refine touch_mk ?_ ?_ ?_ ?_ ?_ ?_ ?_ ?_ ?_ ?_ ?_ ?_ ?_ ?_ ?_ ?_ ?_ ?_ ?_ ?_ ?_ ?_ ?_ ?_ ?_ ?_ ?_ ?_ ?_

theorem State.checkFail_touch (hp : ([.log, .safe, .stats, .clusters, .job, .upd, .limbers, .cow, .skid, .host, .ingest, .snap, .ctr, .out] : List Part) ⊆ ps) (s : State) (cl : ℕ) (f : Fetched) (reason : ℕ)  (h : Touch ps s0 s) :
    Touch ps s0 (State.checkFail s cl f reason) := by
  unfold State.checkFail; try dsimp only
  repeat' first
    | with_reducible assumption
    | exact List.Subset.trans (by decide) hp
    | with_reducible apply State.fault_touch
    | with_reducible apply State.modCl_touch

theorem State.giveSignals_touch (hp : ([.log, .clusters, .skid, .sync, .host, .ctr, .out] : List Part) ⊆ ps) (s : State) (cl : ℕ)  (h : Touch ps s0 s) :
    Touch ps s0 (State.giveSignals s cl) := by
  unfold State.giveSignals; try dsimp only
  repeat' first
    | with_reducible assumption
    | exact List.Subset.trans (by decide) hp
    | with_reducible apply State.modCl_touch
    | with_reducible apply State.signal_touch
    | with_reducible apply touch_ite
    | with_reducible apply touch_foldl
    | with_reducible intro _

theorem State.guardFail_touch (hp : ([.log, .safe, .stats, .clusters, .job, .upd, .limbers, .cow, .skid, .host, .ingest, .snap, .ctr, .out] : List Part) ⊆ ps) (s : State) (cl : ℕ)  (h : Touch ps s0 s) :
    Touch ps s0 (State.guardFail s cl) := by
  unfold State.guardFail; try dsimp only
  repeat' first
    | with_reducible assumption
    | exact List.Subset.trans (by decide) hp
    | with_reducible apply State.fault_touch

theorem State.holdCycle_touch (hp : ([.clusters, .ctr] : List Part) ⊆ ps) (s : State) (cl : ℕ)  (h : Touch ps s0 s) :
    Touch ps s0 (State.holdCycle s cl) := by
  unfold State.holdCycle; try dsimp only
  repeat' first
    | with_reducible assumption
    | exact List.Subset.trans (by decide) hp
    | with_reducible apply State.bump_touch
    | with_reducible apply State.modCl_touch
    | with_reducible apply touch_ite
    | with_reducible intro _

theorem State.sign_touch (hp : ([.log, .safe, .stats, .clusters, .job, .upd, .limbers, .cow, .skid, .host, .ingest, .snap, .ctr, .out] : List Part) ⊆ ps) (s : State) (cl : ℕ) (f : Fetched)  (h : Touch ps s0 s) :
    Touch ps s0 (State.sign s cl f) := by
  unfold State.sign; try dsimp only
  repeat' first
    | with_reducible assumption
    | exact List.Subset.trans (by decide) hp
    | with_reducible apply State.bump_touch
    | with_reducible apply State.modCl_touch
    | with_reducible apply State.fault_touch
    | with_reducible apply touch_ite
    | with_reducible intro _

theorem State.wrap_touch (hp : ([.log, .stats, .clusters, .sync, .host, .ctr, .out] : List Part) ⊆ ps) (s : State) (cl : ℕ)  (h : Touch ps s0 s) :
    Touch ps s0 (State.wrap s cl) := by
  unfold State.wrap; try dsimp only
  repeat' first
    | with_reducible assumption
    | exact List.Subset.trans (by decide) hp
    | with_reducible apply State.modCl_touch
    | with_reducible apply State.event_touch
    | with_reducible apply State.bump_touch
    | with_reducible apply State.abandonCl_touch
    | with_reducible apply touch_ite
    | with_reducible intro _
    | split

theorem State.settle_touch (hp : ([.log, .stats, .clusters, .skid, .sync, .host, .ctr, .out] : List Part) ⊆ ps) (s : State) (cl : ℕ)  (h : Touch ps s0 s) :
    Touch ps s0 (State.settle s cl) := by
  unfold State.settle; try dsimp only
  repeat' first
    | with_reducible assumption
    | exact List.Subset.trans (by decide) hp
    | with_reducible apply State.wrap_touch
    | with_reducible apply State.giveSignals_touch

theorem State.step1_touch (hp : ([.clusters, .ctr] : List Part) ⊆ ps) (s : State) (cl : ℕ)  (h : Touch ps s0 s) :
    Touch ps s0 (State.step1 s cl) := by
  unfold State.step1; try dsimp only
  repeat' first
    | with_reducible assumption
    | exact List.Subset.trans (by decide) hp
    | with_reducible apply State.bump_touch
    | with_reducible apply State.modCl_touch

theorem State.skip1_touch (hp : ([.clusters] : List Part) ⊆ ps) (s : State) (cl : ℕ)  (h : Touch ps s0 s) :
    Touch ps s0 (State.skip1 s cl) := by
  unfold State.skip1; try dsimp only
  repeat' first
    | with_reducible assumption
    | exact List.Subset.trans (by decide) hp
    | with_reducible apply State.modCl_touch

theorem State.issue_touch (hp : ([.log, .safe, .stats, .clusters, .job, .upd, .limbers, .stash, .cow, .skid, .sync, .host, .ingest, .snap, .ctr, .out, .free] : List Part) ⊆ ps) (s : State) (cl : ℕ) (sel : State → ℕ → Bool) (check : State → Fetched → Verdict) (act : State → Fetched → State) (hact : ∀ s y0, Touch ps s0 s → Touch ps s0 (act s y0)) (h : Touch ps s0 s) :
    Touch ps s0 (State.issue s cl sel check act) := by
  unfold State.issue; try dsimp only
  repeat' first
    | with_reducible assumption
    | exact List.Subset.trans (by decide) hp
    | with_reducible apply State.holdCycle_touch
    | with_reducible apply State.sign_touch
    | with_reducible apply State.settle_touch
    | with_reducible apply State.step1_touch
    | with_reducible apply State.checkFail_touch
    | with_reducible apply State.skip1_touch
    | with_reducible apply State.boundFail_touch
    | with_reducible apply State.guardFail_touch
    | with_reducible apply State.arrayFail_touch
    | with_reducible apply hact
    | with_reducible apply touch_ite
    | with_reducible intro _
    | split

theorem State.place_touch (hp : ([.clusters] : List Part) ⊆ ps) (s : State) (cl : ℕ)  (h : Touch ps s0 s) :
    Touch ps s0 (State.place s cl).2 := by
  unfold State.place; try dsimp only
  repeat' first
    | with_reducible assumption
    | exact List.Subset.trans (by decide) hp
    | with_reducible apply State.modCl_touch
    | dsimp only

end Sys2Proof.Machine
end

