-- ==== Sys2Proof/Laws/TouchMemory.lean ====
section
/-! SUPPORT. Which parts of the state the operations of Machine/Memory.lean may change. -/

namespace Sys2Proof.Machine

variable {s0 : State} {ps : List Part}

theorem State.checkedLine_touch (hp : ([.log, .safe, .stats, .clusters, .job, .upd, .limbers, .cow, .skid, .host, .ingest, .snap, .ctr, .out] : List Part) ⊆ ps) (s : State) (die : ℕ) (code : ℕ) (line : ℕ) (reads : List LineRead)  (h : Touch ps s0 s) :
    Touch ps s0 (State.checkedLine s die code line reads).2 := by
  unfold State.checkedLine; try dsimp only
  repeat' first
    | with_reducible assumption
    | exact List.Subset.trans (by decide) hp
    | with_reducible apply State.stress_touch
    | with_reducible apply State.bump_touch
    | with_reducible apply State.fault_touch
    | with_reducible apply touch_ite
    | with_reducible apply touch_ite_snd
    | with_reducible intro _
    | split
    | dsimp only

theorem State.modBase_touch (hp : ([.base] : List Part) ⊆ ps) (s : State) (m : ℕ) (f : BaseDie → BaseDie)  (h : Touch ps s0 s) :
    Touch ps s0 (State.modBase s m f) := by
  unfold State.modBase; try dsimp only
  repeat' first
    | with_reducible assumption
    | exact .inr (hp (by decide))
    | with_reducible exact .inl rfl
    | with_reducible refine touch_mk ?_ ?_ ?_ ?_ ?_ ?_ ?_ ?_ ?_ ?_ ?_ ?_ ?_ ?_ ?_ ?_ ?_ ?_ ?_ ?_ ?_ ?_ ?_ ?_ ?_ ?_ ?_ ?_ ?_

theorem State.checkedBurst_touch (hp : ([.log, .safe, .stats, .clusters, .job, .upd, .limbers, .cow, .base, .skid, .host, .ingest, .snap, .ctr, .out] : List Part) ⊆ ps) (s : State) (a : ℕ) (reads : List BurstRead)  (h : Touch ps s0 s) :
    Touch ps s0 (State.checkedBurst s a reads).2 := by
  unfold State.checkedBurst; try dsimp only
  repeat' first
    | with_reducible assumption
    | exact List.Subset.trans (by decide) hp
    | with_reducible apply State.bump_touch
    | with_reducible apply State.modBase_touch
    | with_reducible apply State.stress_touch
    | with_reducible apply State.fault_touch
    | split
    | dsimp only

theorem State.checkedTier_touch (hp : ([.log, .safe, .stats, .clusters, .job, .upd, .limbers, .cow, .cxl, .skid, .host, .ingest, .snap, .ctr, .out] : List Part) ⊆ ps) (s : State) (port : ℕ) (device : ℕ) (a : ℕ) (reads : List TierRead)  (h : Touch ps s0 s) :
    Touch ps s0 (State.checkedTier s port device a reads).2 := by
  unfold State.checkedTier; try dsimp only
  repeat' first
    | with_reducible assumption
    | exact List.Subset.trans (by decide) hp
    | with_reducible apply State.bump_touch
    | with_reducible apply State.stress_touch
    | with_reducible apply State.fault_touch
    | exact .inr (hp (by decide))
    | with_reducible exact .inl rfl
    | with_reducible apply touch_ite
    | with_reducible apply touchO_getD
    | with_reducible apply touch_ite_snd
    | with_reducible intro _
    | split
    | with_reducible refine touch_mk ?_ ?_ ?_ ?_ ?_ ?_ ?_ ?_ ?_ ?_ ?_ ?_ ?_ ?_ ?_ ?_ ?_ ?_ ?_ ?_ ?_ ?_ ?_ ?_ ?_ ?_ ?_ ?_ ?_
    | dsimp only

theorem State.checkedOne_touch (hp : ([.log, .safe, .stats, .clusters, .job, .upd, .limbers, .cow, .cxl, .base, .skid, .host, .ingest, .snap, .ctr, .out] : List Part) ⊆ ps) (s : State) (c : MemCheck)  (h : Touch ps s0 s) :
    Touch ps s0 (State.checkedOne s c).2 := by
  unfold State.checkedOne; try dsimp only
  repeat' first
    | with_reducible assumption
    | exact List.Subset.trans (by decide) hp
    | with_reducible apply State.checkedLine_touch
    | with_reducible apply State.checkedBurst_touch
    | with_reducible apply State.checkedTier_touch
    | with_reducible apply State.bump_touch
    | with_reducible apply State.modBase_touch
    | with_reducible apply State.eventOnce_touch
    | with_reducible apply State.fault_touch
    | with_reducible apply touch_ite
    | with_reducible apply touch_ite_snd
    | with_reducible refine touch_of_snd (by assumption) ?_
    | with_reducible intro _
    | split
    | dsimp only

theorem State.checked_touch (hp : ([.log, .safe, .stats, .clusters, .job, .upd, .limbers, .cow, .cxl, .base, .skid, .host, .ingest, .snap, .ctr, .out] : List Part) ⊆ ps) (s : State) (cs : List MemCheck) (h : Touch ps s0 s) : Touch ps s0 (s.checked cs).2 := by
  induction cs generalizing s with
  | nil => exact h
  | cons c cs ih =>
    unfold State.checked
    split
    · exact ih _ (touch_of_snd (by assumption) (State.checkedOne_touch (List.Subset.trans (by decide) hp) s c h))
    · exact touch_of_snd (by assumption) (State.checkedOne_touch (List.Subset.trans (by decide) hp) s c h)

theorem State.holdWrite_touch (hp : ([.cow] : List Part) ⊆ ps) (s : State) (a : ℕ) (bs : Bytes)  (h : Touch ps s0 s) :
    Touch ps s0 (State.holdWrite s a bs) := by
  unfold State.holdWrite; try dsimp only
  repeat' first
    | with_reducible assumption
    | exact .inr (hp (by decide))
    | with_reducible exact .inl rfl
    | with_reducible refine touch_mk ?_ ?_ ?_ ?_ ?_ ?_ ?_ ?_ ?_ ?_ ?_ ?_ ?_ ?_ ?_ ?_ ?_ ?_ ?_ ?_ ?_ ?_ ?_ ?_ ?_ ?_ ?_ ?_ ?_

theorem State.setPage_touch (hp : ([.cow] : List Part) ⊆ ps) (s : State) (p : ℕ) (x : PageState)  (h : Touch ps s0 s) :
    Touch ps s0 (State.setPage s p x) := by
  unfold State.setPage; try dsimp only
  repeat' first
    | with_reducible assumption
    | exact .inr (hp (by decide))
    | with_reducible exact .inl rfl
    | with_reducible apply touch_ite
    | with_reducible intro _
    | with_reducible refine touch_mk ?_ ?_ ?_ ?_ ?_ ?_ ?_ ?_ ?_ ?_ ?_ ?_ ?_ ?_ ?_ ?_ ?_ ?_ ?_ ?_ ?_ ?_ ?_ ?_ ?_ ?_ ?_ ?_ ?_

theorem State.waitPool_touch (hp : ([.log, .cow, .host, .ctr, .out] : List Part) ⊆ ps) (s : State) (p : ℕ) (a : ℕ) (bs : Bytes)  (h : Touch ps s0 s) :
    Touch ps s0 (State.waitPool s p a bs) := by
  unfold State.waitPool; try dsimp only
  repeat' first
    | with_reducible assumption
    | exact List.Subset.trans (by decide) hp
    | with_reducible apply State.bump_touch
    | with_reducible apply State.holdWrite_touch
    | with_reducible apply State.setPage_touch
    | with_reducible apply State.event_touch
    | exact .inr (hp (by decide))
    | with_reducible exact .inl rfl
    | with_reducible apply touch_ite
    | with_reducible intro _
    | with_reducible refine touch_mk ?_ ?_ ?_ ?_ ?_ ?_ ?_ ?_ ?_ ?_ ?_ ?_ ?_ ?_ ?_ ?_ ?_ ?_ ?_ ?_ ?_ ?_ ?_ ?_ ?_ ?_ ?_ ?_ ?_

theorem State.pageWrite_touch (hp : ([.log, .cow, .host, .mem, .ctr, .out] : List Part) ⊆ ps) (s : State) (a : ℕ) (bs : Bytes)  (h : Touch ps s0 s) :
    Touch ps s0 (State.pageWrite s a bs) := by
  unfold State.pageWrite; try dsimp only
  repeat' first
    | with_reducible assumption
    | exact List.Subset.trans (by decide) hp
    | with_reducible apply State.bump_touch
    | with_reducible apply State.holdWrite_touch
    | with_reducible apply State.setPage_touch
    | with_reducible apply State.waitPool_touch
    | exact .inr (hp (by decide))
    | with_reducible exact .inl rfl
    | split
    | with_reducible refine touch_mk ?_ ?_ ?_ ?_ ?_ ?_ ?_ ?_ ?_ ?_ ?_ ?_ ?_ ?_ ?_ ?_ ?_ ?_ ?_ ?_ ?_ ?_ ?_ ?_ ?_ ?_ ?_ ?_ ?_

theorem State.hbmWrite_touch (hp : ([.log, .cow, .host, .mem, .ctr, .out] : List Part) ⊆ ps) (s : State) (fuel a : ℕ) (bs : Bytes) (h : Touch ps s0 s) : Touch ps s0 (s.hbmWrite fuel a bs) := by
  induction fuel generalizing s a bs with
  | zero => exact h
  | succ n ih =>
    unfold State.hbmWrite
    split
    · exact h
    · exact ih _ _ _ (State.pageWrite_touch (List.Subset.trans (by decide) hp) s a _ h)

theorem State.noteRead_touch (hp : ([.ctr] : List Part) ⊆ ps) (s : State) (a : ℕ) (n : ℕ)  (h : Touch ps s0 s) :
    Touch ps s0 (State.noteRead s a n) := by
  unfold State.noteRead; try dsimp only
  repeat' first
    | with_reducible assumption
    | exact List.Subset.trans (by decide) hp
    | with_reducible apply State.bump_touch
    | with_reducible apply touch_ite
    | with_reducible intro _

theorem State.mapRead_touch (hp : ([.log, .job, .banks, .host, .ctr, .out] : List Part) ⊆ ps) (s : State) (who : Option ℕ) (a : ℕ) (n : ℕ) (step : ℕ)  (h : Touch ps s0 s) :
    Touch ps s0 (State.mapRead s who a n step).2 := by
  unfold State.mapRead; try dsimp only
  repeat' first
    | with_reducible assumption
    | exact List.Subset.trans (by decide) hp
    | with_reducible apply State.sramRead_touch
    | with_reducible apply State.noteRead_touch
    | with_reducible apply touch_ite
    | with_reducible apply touch_foldl_snd
    | with_reducible apply touch_ite_snd
    | with_reducible refine touch_of_snd (by assumption) ?_
    | with_reducible intro _
    | split
    | dsimp only

theorem State.toHbm_touch (hp : ([.log, .cow, .host, .mem, .ctr, .out] : List Part) ⊆ ps) (s : State) (a : ℕ) (bs : Bytes)  (h : Touch ps s0 s) :
    Touch ps s0 (State.toHbm s a bs) := by
  unfold State.toHbm; try dsimp only
  repeat' first
    | with_reducible assumption
    | exact List.Subset.trans (by decide) hp
    | with_reducible apply State.bump_touch
    | with_reducible apply State.hbmWrite_touch
    | with_reducible apply touch_ite
    | with_reducible intro _

theorem State.mapWrite_touch (hp : ([.log, .job, .banks, .stash, .cow, .host, .mem, .ctr, .out] : List Part) ⊆ ps) (s : State) (who : Option ℕ) (a step : ℕ) (bs : Bytes) (h : Touch ps s0 s) :
    Touch ps s0 (s.mapWrite who a step bs) := by
  unfold State.mapWrite
  refine touch_foldl_snd _ _ (fun p x h => ?_) h
  obtain ⟨o, s⟩ := p
  dsimp only at h ⊢
  refine touch_ite (fun _ => State.sramWrite_touch (List.Subset.trans (by decide) hp) _ _ _ _ _ _ h) fun _ => ?_
  have h1 := touch_ite (c := (s.stash.released.isSome && s.stashByte x.1) = true)
    (a := { s with stash := { s.stash with live := s.stash.live ++ [x] } }) (fun _ => touch_stash (hp (by decide)) h) fun _ => h
  exact touch_ite (fun _ => State.toHbm_touch (List.Subset.trans (by decide) hp) _ _ _ h1) fun _ => touch_mem (hp (by decide)) h1

end Sys2Proof.Machine
end

