-- ==== Sys2Proof/Laws/TouchDma.lean ====
section
/-! SUPPORT. Which parts of the state the operations of Machine/Dma.lean may change. -/

namespace Sys2Proof.Machine

variable {s0 : State} {ps : List Part}

theorem State.bankArrives_touch (hp : ([.log, .safe, .stats, .clusters, .job, .upd, .banks, .limbers, .cow, .skid, .host, .ingest, .snap, .ctr, .out] : List Part) ⊆ ps) (s : State) (die : ℕ) (i : ℕ) (w : BankWrite)  (h : Touch ps s0 s) :
    Touch ps s0 (State.bankArrives s die i w) := by
  unfold State.bankArrives; try dsimp only
  repeat' first
    | with_reducible assumption
    | exact List.Subset.trans (by decide) hp
    | with_reducible apply State.fault_touch
    | with_reducible apply State.modBank_touch
    | with_reducible apply touch_ite
    | with_reducible intro _

theorem State.dmaSignal_touch (hp : ([.log, .skid, .sync, .host, .ctr, .out] : List Part) ⊆ ps) (s : State) (cl : ℕ) (step : ℕ) (d : Bytes)  (h : Touch ps s0 s) :
    Touch ps s0 (State.dmaSignal s cl step d) := by
  unfold State.dmaSignal; try dsimp only
  repeat' first
    | with_reducible assumption
    | exact List.Subset.trans (by decide) hp
    | with_reducible apply State.signal_touch
    | with_reducible apply touch_ite
    | with_reducible intro _

theorem State.dmaRetire_touch (hp : ([.log, .stats, .clusters, .skid, .sync, .host, .ctr, .out] : List Part) ⊆ ps) (s : State) (cl : ℕ) (signal : Bool)  (h : Touch ps s0 s) :
    Touch ps s0 (State.dmaRetire s cl signal) := by
  unfold State.dmaRetire; try dsimp only
  repeat' first
    | with_reducible assumption
    | exact List.Subset.trans (by decide) hp
    | with_reducible apply State.modCl_touch
    | with_reducible apply State.dmaSignal_touch
    | with_reducible apply State.settle_touch
    | with_reducible apply touch_ite
    | with_reducible apply touchO_getD
    | with_reducible intro _
    | split

theorem State.bankRetire_touch (hp : ([.log, .stats, .clusters, .skid, .sync, .host, .ctr, .out] : List Part) ⊆ ps) (s : State) (w : BankWrite)  (h : Touch ps s0 s) :
    Touch ps s0 (State.bankRetire s w) := by
  unfold State.bankRetire; try dsimp only
  repeat' first
    | with_reducible assumption
    | exact List.Subset.trans (by decide) hp
    | with_reducible apply State.dmaRetire_touch
    | with_reducible apply touch_ite
    | with_reducible intro _
    | split

theorem State.collide_touch (hp : ([.log, .job, .banks, .host, .mem, .ctr, .out] : List Part) ⊆ ps) (s : State) (old : List (ℕ × BitVec 8)) (who : Option ℕ) (step line : ℕ) (h : Touch ps s0 s) :
    Touch ps s0 (s.collide old who step line) := by
  unfold State.collide
  refine touch_ite (fun _ => h) fun _ => ?_
  have h1 := touch_mem (x := writeBytes s.mem (64 * line) (readBytes old (64 * line) 64)) (hp (by decide)) h
  split
  · exact h1
  · exact touch_ite (fun _ => h1) fun _ => State.eventOnce_touch (List.Subset.trans (by decide) hp) _ _ _ _ _ _ (State.bump_touch (List.Subset.trans (by decide) hp) _ _ _ (State.modBank_touch (List.Subset.trans (by decide) hp) _ _ _ _ h1))

theorem State.copyRows_touch (hp : ([.log, .job, .banks, .stash, .cow, .host, .mem, .ctr, .out] : List Part) ⊆ ps) (s : State) (cl : ℕ) (step : ℕ) (d : Bytes) (rows : ℕ)  (h : Touch ps s0 s) :
    Touch ps s0 (State.copyRows s cl step d rows) := by
  unfold State.copyRows; try dsimp only
  repeat' first
    | with_reducible assumption
    | exact List.Subset.trans (by decide) hp
    | with_reducible apply State.mapRead_touch
    | with_reducible apply State.mapWrite_touch
    | with_reducible apply touch_foldl
    | with_reducible refine touch_of_snd (by assumption) ?_
    | with_reducible intro _
    | split

theorem State.putHead_touch (hp : ([.clusters] : List Part) ⊆ ps) (s : State) (cl : ℕ) (op : DmaOp) (rest : List DmaOp)  (h : Touch ps s0 s) :
    Touch ps s0 (State.putHead s cl op rest) := by
  unfold State.putHead; try dsimp only
  repeat' first
    | with_reducible assumption
    | exact List.Subset.trans (by decide) hp
    | with_reducible apply State.modCl_touch

theorem State.sendWrite_touch (hp : ([.log, .skid, .out] : List Part) ⊆ ps) (s : State) (cl : ℕ) (d : Bytes) (addr : ℕ) (total : ℕ) (xfer : ℕ) (body : Bytes)  (h : Touch ps s0 s) :
    Touch ps s0 (State.sendWrite s cl d addr total xfer body) := by
  unfold State.sendWrite; try dsimp only
  repeat' first
    | with_reducible assumption
    | exact List.Subset.trans (by decide) hp
    | with_reducible apply State.putMsg_touch
    | with_reducible apply touch_ite
    | with_reducible intro _
    | split

theorem State.sendTransfer_touch (hp : ([.log, .job, .banks, .skid, .host, .ctr, .out] : List Part) ⊆ ps) (s : State) (cl step : ℕ) (d : Bytes) (rows xfer : ℕ) (h : Touch ps s0 s) :
    Touch ps s0 (s.sendTransfer cl step d rows xfer) := by
  unfold State.sendTransfer
  refine touch_ite (fun _ => State.sendWrite_touch (List.Subset.trans (by decide) hp) _ _ _ _ _ _ _ h) fun _ => touch_foldl _ (fun s r h => ?_) h
  have h1 := State.mapRead_touch (List.Subset.trans (by decide) hp) s (some cl) (ddSrc d + r * ddSrcPitch d) (ddRowBytes d) step h
  generalize s.mapRead (some cl) (ddSrc d + r * ddSrcPitch d) (ddRowBytes d) step = p at h1 ⊢
  obtain ⟨bs, t⟩ := p
  exact touch_foldl_snd _ _ (fun p x h => State.sendWrite_touch (List.Subset.trans (by decide) hp) _ _ _ _ _ _ _ h) h1

theorem bankSend_touch (hp : ([.log, .safe, .stats, .clusters, .job, .upd, .banks, .limbers, .cow, .skid, .host, .ingest, .snap, .ctr, .out] : List Part) ⊆ ps) (cl : ℕ) (op : DmaOp) (rest : List DmaOp) (d : Bytes) (p : Bytes × State) (h : Touch ps s0 p.2) :
    Touch ps s0 (bankSend cl op rest d p) := by
  unfold bankSend; dsimp only
  exact touch_elim (State.putHead_touch (List.Subset.trans (by decide) hp) _ _ _ _ h) fun _ => State.bankArrives_touch (List.Subset.trans (by decide) hp) _ _ _ _ (State.putHead_touch (List.Subset.trans (by decide) hp) _ _ _ _ h)

theorem State.dmaBegin_touch (hp : ([.log, .safe, .stats, .clusters, .job, .upd, .banks, .limbers, .cow, .cxl, .base, .skid, .net, .host, .ingest, .snap, .ctr, .out] : List Part) ⊆ ps) (s : State) (cl : ℕ) (checks : List MemCheck)  (h : Touch ps s0 s) :
    Touch ps s0 (State.dmaBegin s cl checks) := by
  unfold State.dmaBegin; try dsimp only
  repeat' first
    | with_reducible assumption
    | exact List.Subset.trans (by decide) hp
    | with_reducible apply State.checked_touch
    | with_reducible apply State.putHead_touch
    | with_reducible apply State.sendTransfer_touch
    | with_reducible apply bankSend_touch
    | with_reducible apply State.mapRead_touch
    | exact .inr (hp (by decide))
    | with_reducible exact .inl rfl
    | with_reducible apply touch_ite
    | with_reducible refine touch_of_snd (by assumption) ?_
    | with_reducible intro _
    | split
    | with_reducible refine touch_mk ?_ ?_ ?_ ?_ ?_ ?_ ?_ ?_ ?_ ?_ ?_ ?_ ?_ ?_ ?_ ?_ ?_ ?_ ?_ ?_ ?_ ?_ ?_ ?_ ?_ ?_ ?_ ?_ ?_

theorem State.dmaPut_touch (hp : ([.log, .safe, .stats, .clusters, .job, .upd, .banks, .limbers, .cow, .cxl, .base, .skid, .net, .host, .ingest, .snap, .ctr, .out] : List Part) ⊆ ps) (s : State) (cl : ℕ) (f : Fetched) (kind : DmaKind) (rows : ℕ) (checks : List MemCheck)  (h : Touch ps s0 s) :
    Touch ps s0 (State.dmaPut s cl f kind rows checks) := by
  unfold State.dmaPut; try dsimp only
  repeat' first
    | with_reducible assumption
    | exact List.Subset.trans (by decide) hp
    | with_reducible apply State.modCl_touch
    | with_reducible apply State.place_touch
    | with_reducible apply State.dmaBegin_touch
    | with_reducible apply touch_ite
    | with_reducible refine touch_of_snd (by assumption) ?_
    | with_reducible intro _

theorem State.landWrite_touch (hp : ([.log, .job, .banks, .stash, .cow, .host, .mem, .ctr, .out] : List Part) ⊆ ps) (s : State) (who : Option ℕ) (a step : ℕ) (bs : Bytes) (collided : List ℕ) (h : Touch ps s0 s) :
    Touch ps s0 (s.landWrite who a step bs collided) := by
  unfold State.landWrite
  exact touch_foldl _ (fun _ _ h => State.collide_touch (List.Subset.trans (by decide) hp) _ _ _ _ _ h) (State.mapWrite_touch (List.Subset.trans (by decide) hp) _ _ _ _ _ h)

theorem State.noteStash_touch (hp : ([.stash] : List Part) ⊆ ps) (s : State) (d : Bytes) (rows : ℕ)  (h : Touch ps s0 s) :
    Touch ps s0 (State.noteStash s d rows) := by
  unfold State.noteStash; try dsimp only
  repeat' first
    | with_reducible assumption
    | exact .inr (hp (by decide))
    | with_reducible exact .inl rfl
    | with_reducible apply touch_ite
    | with_reducible intro _
    | with_reducible refine touch_mk ?_ ?_ ?_ ?_ ?_ ?_ ?_ ?_ ?_ ?_ ?_ ?_ ?_ ?_ ?_ ?_ ?_ ?_ ?_ ?_ ?_ ?_ ?_ ?_ ?_ ?_ ?_ ?_ ?_

theorem State.stashLimit_touch (hp : ([.log, .stats, .clusters, .job, .upd, .limbers, .stash, .skid, .sync, .host, .ingest, .ctr, .out, .free] : List Part) ⊆ ps) (s : State) (step : ℕ) (branch : ℕ) (offset : ℕ)  (h : Touch ps s0 s) :
    Touch ps s0 (State.stashLimit s step branch offset) := by
  unfold State.stashLimit; try dsimp only
  repeat' first
    | with_reducible assumption
    | exact List.Subset.trans (by decide) hp
    | with_reducible apply State.event_touch
    | with_reducible apply State.straggle_touch
    | exact .inr (hp (by decide))
    | with_reducible exact .inl rfl
    | with_reducible apply touch_ite
    | with_reducible intro _
    | with_reducible refine touch_mk ?_ ?_ ?_ ?_ ?_ ?_ ?_ ?_ ?_ ?_ ?_ ?_ ?_ ?_ ?_ ?_ ?_ ?_ ?_ ?_ ?_ ?_ ?_ ?_ ?_ ?_ ?_ ?_ ?_

theorem State.stashRefuses_touch (hp : ([.log, .stats, .clusters, .job, .upd, .limbers, .stash, .skid, .sync, .host, .ingest, .ctr, .out, .free] : List Part) ⊆ ps) (s : State) (step : ℕ) (d : Bytes) (rows : ℕ)  (h : Touch ps s0 s) :
    Touch ps s0 (State.stashRefuses s step d rows).2 := by
  unfold State.stashRefuses; try dsimp only
  repeat' first
    | with_reducible assumption
    | exact List.Subset.trans (by decide) hp
    | with_reducible apply State.stashLimit_touch
    | with_reducible apply touch_ite
    | with_reducible apply touch_ite_snd
    | with_reducible intro _
    | dsimp only

theorem State.transferIssue_touch (hp : ([.log, .safe, .stats, .clusters, .job, .upd, .banks, .limbers, .stash, .cow, .cxl, .base, .skid, .net, .sync, .host, .ingest, .snap, .ctr, .out, .free] : List Part) ⊆ ps) (s : State) (cl : ℕ) (f : Fetched) (checks : List MemCheck)  (h : Touch ps s0 s) :
    Touch ps s0 (State.transferIssue s cl f checks) := by
  unfold State.transferIssue; try dsimp only
  repeat' first
    | with_reducible assumption
    | exact List.Subset.trans (by decide) hp
    | with_reducible apply State.dmaSignal_touch
    | with_reducible apply State.dmaPut_touch
    | with_reducible apply State.stashRefuses_touch
    | with_reducible apply touch_ite
    | with_reducible refine touch_of_snd (by assumption) ?_
    | with_reducible intro _
    | split

theorem execBankCtrl_touch (hp : ([.log, .safe, .stats, .clusters, .job, .upd, .banks, .limbers, .stash, .cow, .cxl, .base, .skid, .net, .sync, .host, .ingest, .snap, .ctr, .out, .free] : List Part) ⊆ ps) (cl : ℕ) (checks : List MemCheck) (s : State)  (h : Touch ps s0 s) :
    TouchR ps s0 (execBankCtrl cl checks s) := by
  unfold execBankCtrl; try dsimp only
  repeat' first
    | with_reducible assumption
    | exact List.Subset.trans (by decide) hp
    | with_reducible apply State.issue_touch
    | with_reducible apply State.dmaPut_touch
    | with_reducible apply touchR_next
    | with_reducible intro _

theorem execBankHandoverComplete_touch (hp : ([.log, .stats, .clusters, .banks, .skid, .sync, .host, .ctr, .out] : List Part) ⊆ ps) (die : ℕ) (bank : ℕ) (s : State)  (h : Touch ps s0 s) :
    TouchR ps s0 (execBankHandoverComplete die bank s) := by
  unfold execBankHandoverComplete; try dsimp only
  repeat' first
    | with_reducible assumption
    | exact List.Subset.trans (by decide) hp
    | with_reducible apply State.bankRetire_touch
    | with_reducible apply State.modBank_touch
    | with_reducible apply touch_ite
    | with_reducible apply touchR_ite
    | with_reducible apply touchR_next
    | with_reducible intro _
    | split

theorem execBankPowerTransitionDone_touch (hp : ([.banks, .mem] : List Part) ⊆ ps) (die : ℕ) (bank : ℕ) (s : State)  (h : Touch ps s0 s) :
    TouchR ps s0 (execBankPowerTransitionDone die bank s) := by
  unfold execBankPowerTransitionDone; try dsimp only
  repeat' first
    | with_reducible assumption
    | exact List.Subset.trans (by decide) hp
    | with_reducible apply State.modBank_touch
    | exact .inr (hp (by decide))
    | with_reducible exact .inl rfl
    | with_reducible apply touch_ite
    | with_reducible apply touchR_ite
    | with_reducible apply touchR_next
    | with_reducible intro _
    | split
    | with_reducible refine touch_mk ?_ ?_ ?_ ?_ ?_ ?_ ?_ ?_ ?_ ?_ ?_ ?_ ?_ ?_ ?_ ?_ ?_ ?_ ?_ ?_ ?_ ?_ ?_ ?_ ?_ ?_ ?_ ?_ ?_

theorem execDmaComplete_touch (hp : ([.log, .safe, .stats, .clusters, .job, .upd, .banks, .limbers, .stash, .cow, .cxl, .base, .skid, .net, .sync, .host, .ingest, .snap, .mem, .ctr, .out] : List Part) ⊆ ps) (cl : ℕ) (checks : List MemCheck) (collided : List ℕ) (s : State)  (h : Touch ps s0 s) :
    TouchR ps s0 (execDmaComplete cl checks collided s) := by
  unfold execDmaComplete; try dsimp only
  repeat' first
    | with_reducible assumption
    | exact List.Subset.trans (by decide) hp
    | with_reducible apply State.dmaBegin_touch
    | with_reducible apply State.checked_touch
    | with_reducible apply State.copyRows_touch
    | with_reducible apply State.dmaRetire_touch
    | with_reducible apply State.noteStash_touch
    | with_reducible apply State.collide_touch
    | with_reducible apply touch_ite
    | with_reducible apply touchR_ite
    | with_reducible apply touchR_next
    | with_reducible apply touch_foldl
    | with_reducible refine touch_of_snd (by assumption) ?_
    | with_reducible intro _
    | split

theorem execDmaTransfer_touch (hp : ([.log, .safe, .stats, .clusters, .job, .upd, .banks, .limbers, .stash, .cow, .cxl, .base, .skid, .net, .sync, .host, .ingest, .snap, .ctr, .out, .free] : List Part) ⊆ ps) (cl : ℕ) (checks : List MemCheck) (s : State)  (h : Touch ps s0 s) :
    TouchR ps s0 (execDmaTransfer cl checks s) := by
  unfold execDmaTransfer; try dsimp only
  repeat' first
    | with_reducible assumption
    | exact List.Subset.trans (by decide) hp
    | with_reducible apply State.issue_touch
    | with_reducible apply State.transferIssue_touch
    | with_reducible apply touchR_next
    | with_reducible intro _

end Sys2Proof.Machine
end

