-- ==== Sys2Proof/Laws/TouchHost.lean ====
section
/-! SUPPORT. Which parts of the state the operations of Machine/Host.lean may change. -/

namespace Sys2Proof.Machine

variable {s0 : State} {ps : List Part}

theorem State.keepResponse_touch (hp : ([.host] : List Part) ⊆ ps) (s : State) (sid : ℕ) (addr : Bytes) (r : Response)  (h : Touch ps s0 s) :
    Touch ps s0 (State.keepResponse s sid addr r) := by
  unfold State.keepResponse; try dsimp only
  repeat' first
    | with_reducible assumption
    | exact .inr (hp (by decide))
    | with_reducible exact .inl rfl
    | with_reducible apply touch_ite
    | with_reducible apply touchO_getD
    | with_reducible intro _
    | split
    | with_reducible refine touch_mk ?_ ?_ ?_ ?_ ?_ ?_ ?_ ?_ ?_ ?_ ?_ ?_ ?_ ?_ ?_ ?_ ?_ ?_ ?_ ?_ ?_ ?_ ?_ ?_ ?_ ?_ ?_ ?_ ?_

theorem Answer.finish_touch (hp : ([.host, .ctr, .out] : List Part) ⊆ ps) (a : Answer) (sid op : ℕ) (q : Req) (h : TouchA ps s0 a) : Touch ps s0 (Answer.finish a sid op q) := by
  unfold Answer.finish; dsimp only
  exact State.sendHost_touch (List.Subset.trans (by decide) hp) _ _ (State.keepResponse_touch (List.Subset.trans (by decide) hp) _ _ _ _ (State.bump_touch (List.Subset.trans (by decide) hp) _ _ _ h))

theorem State.answerFrame_touch (hp : ([.ctr, .out] : List Part) ⊆ ps) (s : State) (target : Bytes) (kind : ℕ) (data : Bytes)  (h : Touch ps s0 s) :
    Touch ps s0 (State.answerFrame s target kind data) := by
  unfold State.answerFrame; try dsimp only
  repeat' first
    | with_reducible assumption
    | exact List.Subset.trans (by decide) hp
    | with_reducible apply State.rxFrame_touch
    | with_reducible apply State.sendHost_touch
    | with_reducible apply State.bump_touch
    | with_reducible apply touch_ite
    | with_reducible intro _

theorem refuse_touch (hp : ([] : List Part) ⊆ ps) (s : State) (abort : ℕ)  (h : Touch ps s0 s) :
    TouchA ps s0 (refuse s abort) := by
  unfold refuse; try dsimp only
  repeat' first
    | with_reducible assumption
    | with_reducible apply touchA_mk

theorem State.openRefused_touch (hp : ([.log, .host, .ctr, .out] : List Part) ⊆ ps) (s : State) (abort : ℕ)  (h : Touch ps s0 s) :
    TouchA ps s0 (State.openRefused s abort) := by
  unfold State.openRefused; try dsimp only
  repeat' first
    | with_reducible assumption
    | exact List.Subset.trans (by decide) hp
    | with_reducible apply refuse_touch
    | with_reducible apply State.event_touch
    | with_reducible apply State.bump_touch
    | with_reducible apply touchA_refuse

theorem State.authFailed_touch (hp : ([.log, .host, .ctr, .out] : List Part) ⊆ ps) (s : State)  (h : Touch ps s0 s) :
    TouchA ps s0 (State.authFailed s) := by
  unfold State.authFailed; try dsimp only
  repeat' first
    | with_reducible assumption
    | exact List.Subset.trans (by decide) hp
    | with_reducible apply State.event_touch
    | with_reducible apply State.openRefused_touch
    | exact .inr (hp (by decide))
    | with_reducible exact .inl rfl
    | with_reducible apply touch_ite
    | with_reducible apply touchA_ite
    | with_reducible intro _
    | with_reducible refine touch_mk ?_ ?_ ?_ ?_ ?_ ?_ ?_ ?_ ?_ ?_ ?_ ?_ ?_ ?_ ?_ ?_ ?_ ?_ ?_ ?_ ?_ ?_ ?_ ?_ ?_ ?_ ?_ ?_ ?_

theorem State.setRun_touch (hp : ([.host] : List Part) ⊆ ps) (s : State) (sid : ℕ) (key : ℕ) (r : Option WriteRun)  (h : Touch ps s0 s) :
    Touch ps s0 (State.setRun s sid key r) := by
  unfold State.setRun; try dsimp only
  repeat' first
    | with_reducible assumption
    | exact List.Subset.trans (by decide) hp
    | with_reducible apply State.modSession_touch

theorem accept_touch (hp : ([] : List Part) ⊆ ps) (s : State)  (h : Touch ps s0 s) :
    TouchA ps s0 (accept s) := by
  unfold accept; try dsimp only
  repeat' first
    | with_reducible assumption
    | with_reducible apply touchA_mk

theorem State.blobSegment_touch (hp : ([.host] : List Part) ⊆ ps) (s : State) (q : Req) (bar : Option ℕ) (act : State → Bytes → Answer) (hact : ∀ s y0, Touch ps s0 s → TouchA ps s0 (act s y0)) (h : Touch ps s0 s) :
    TouchA ps s0 (State.blobSegment s q bar act) := by
  unfold State.blobSegment; try dsimp only
  repeat' first
    | with_reducible assumption
    | exact List.Subset.trans (by decide) hp
    | with_reducible apply State.setRun_touch
    | with_reducible apply refuse_touch
    | with_reducible apply accept_touch
    | with_reducible apply hact
    | with_reducible apply touch_ite
    | with_reducible apply touchA_ite
    | with_reducible apply touchA_refuse
    | with_reducible apply touchA_accept
    | with_reducible intro _
    | split

theorem State.flowLost_touch (hp : ([.log, .host, .snap, .ctr, .out] : List Part) ⊆ ps) (s : State) (f : Flow)  (h : Touch ps s0 s) :
    Touch ps s0 (State.flowLost s f) := by
  unfold State.flowLost; try dsimp only
  repeat' first
    | with_reducible assumption
    | exact List.Subset.trans (by decide) hp
    | with_reducible apply State.event_touch
    | exact .inr (hp (by decide))
    | with_reducible exact .inl rfl
    | with_reducible apply touch_ite
    | with_reducible intro _
    | split
    | with_reducible refine touch_mk ?_ ?_ ?_ ?_ ?_ ?_ ?_ ?_ ?_ ?_ ?_ ?_ ?_ ?_ ?_ ?_ ?_ ?_ ?_ ?_ ?_ ?_ ?_ ?_ ?_ ?_ ?_ ?_ ?_

theorem State.closeFlow_touch (hp : ([.log, .host, .snap, .ctr, .out] : List Part) ⊆ ps) (s : State) (f : Flow)  (h : Touch ps s0 s) :
    Touch ps s0 (State.closeFlow s f) := by
  unfold State.closeFlow; try dsimp only
  repeat' first
    | with_reducible assumption
    | exact List.Subset.trans (by decide) hp
    | with_reducible apply State.flowLost_touch
    | exact .inr (hp (by decide))
    | with_reducible exact .inl rfl
    | with_reducible refine touch_mk ?_ ?_ ?_ ?_ ?_ ?_ ?_ ?_ ?_ ?_ ?_ ?_ ?_ ?_ ?_ ?_ ?_ ?_ ?_ ?_ ?_ ?_ ?_ ?_ ?_ ?_ ?_ ?_ ?_

theorem State.closeSession_touch (hp : ([.log, .host, .snap, .ctr, .out] : List Part) ⊆ ps) (s : State) (id : ℕ) (cause : ℕ)  (h : Touch ps s0 s) :
    Touch ps s0 (State.closeSession s id cause) := by
  unfold State.closeSession; try dsimp only
  repeat' first
    | with_reducible assumption
    | exact List.Subset.trans (by decide) hp
    | with_reducible apply State.closeFlow_touch
    | with_reducible apply State.event_touch
    | exact .inr (hp (by decide))
    | with_reducible exact .inl rfl
    | with_reducible apply touch_foldl
    | with_reducible intro _
    | with_reducible refine touch_mk ?_ ?_ ?_ ?_ ?_ ?_ ?_ ?_ ?_ ?_ ?_ ?_ ?_ ?_ ?_ ?_ ?_ ?_ ?_ ?_ ?_ ?_ ?_ ?_ ?_ ?_ ?_ ?_ ?_

theorem State.closeWith_touch (hp : ([.log, .host, .snap, .ctr, .out] : List Part) ⊆ ps) (s : State) (f : Flow) (abort : ℕ)  (h : Touch ps s0 s) :
    Touch ps s0 (State.closeWith s f abort) := by
  unfold State.closeWith; try dsimp only
  repeat' first
    | with_reducible assumption
    | exact List.Subset.trans (by decide) hp
    | with_reducible apply State.sendHost_touch
    | with_reducible apply State.closeFlow_touch
    | with_reducible intro _

theorem State.executing_touch (hp : ([.host] : List Part) ⊆ ps) (s : State) (q : Req)  (h : Touch ps s0 s) :
    Touch ps s0 (State.executing s q) := by
  unfold State.executing; try dsimp only
  repeat' first
    | with_reducible assumption
    | exact List.Subset.trans (by decide) hp
    | with_reducible apply State.touch_touch
    | with_reducible apply touch_ite
    | with_reducible intro _

theorem State.seqHeard_touch (hp : ([.host] : List Part) ⊆ ps) (s : State) (sid : ℕ) (addr : Bytes)  (h : Touch ps s0 s) :
    Touch ps s0 (State.seqHeard s sid addr) := by
  unfold State.seqHeard; try dsimp only
  repeat' first
    | with_reducible assumption
    | exact .inr (hp (by decide))
    | with_reducible exact .inl rfl
    | split
    | with_reducible refine touch_mk ?_ ?_ ?_ ?_ ?_ ?_ ?_ ?_ ?_ ?_ ?_ ?_ ?_ ?_ ?_ ?_ ?_ ?_ ?_ ?_ ?_ ?_ ?_ ?_ ?_ ?_ ?_ ?_ ?_

theorem State.hearing_touch (hp : ([.host, .ctr] : List Part) ⊆ ps) (s : State) (q : Req)  (h : Touch ps s0 s) :
    Touch ps s0 (State.hearing s q) := by
  unfold State.hearing; try dsimp only
  repeat' first
    | with_reducible assumption
    | exact List.Subset.trans (by decide) hp
    | with_reducible apply State.seqHeard_touch
    | with_reducible apply State.executing_touch
    | with_reducible apply State.rxFrame_touch

theorem State.putValue_touch (hp : ([.start, .tally] : List Part) ⊆ ps) (s : State) (key : ℕ) (v : Bytes) (persistent : Bool)  (h : Touch ps s0 s) :
    Touch ps s0 (State.putValue s key v persistent) := by
  unfold State.putValue; try dsimp only
  repeat' first
    | with_reducible assumption
    | exact .inr (hp (by decide))
    | with_reducible exact .inl rfl
    | with_reducible apply touch_ite
    | with_reducible intro _
    | with_reducible refine touch_mk ?_ ?_ ?_ ?_ ?_ ?_ ?_ ?_ ?_ ?_ ?_ ?_ ?_ ?_ ?_ ?_ ?_ ?_ ?_ ?_ ?_ ?_ ?_ ?_ ?_ ?_ ?_ ?_ ?_

theorem State.serve_touch (hp : ([.host, .ctr, .out] : List Part) ⊆ ps) (s : State) (q : Req) (op : ℕ) (free' : Bool) (stump : Bool) (act : State → Answer) (hact : ∀ s , Touch ps s0 s → TouchA ps s0 (act s )) (h : Touch ps s0 s) :
    Touch ps s0 (State.serve s q op free' stump act) := by
  unfold State.serve; try dsimp only
  repeat' first
    | with_reducible assumption
    | exact List.Subset.trans (by decide) hp
    | with_reducible apply State.rxFrame_touch
    | with_reducible apply State.hearing_touch
    | with_reducible apply State.sendHost_touch
    | with_reducible apply State.bump_touch
    | with_reducible apply Answer.finish_touch
    | with_reducible apply refuse_touch
    | with_reducible apply hact
    | with_reducible apply touch_ite
    | with_reducible apply touchA_ite
    | with_reducible apply touchA_refuse
    | with_reducible intro _
    | split

theorem State.serveWrite_touch (hp : ([.host, .ctr, .out] : List Part) ⊆ ps) (s : State) (q : Req) (index : ℕ) (sub : ℕ) (n : ℕ) (act : State → ℕ → Answer) (hact : ∀ s y0, Touch ps s0 s → TouchA ps s0 (act s y0)) (h : Touch ps s0 s) :
    Touch ps s0 (State.serveWrite s q index sub n act) := by
  unfold State.serveWrite; try dsimp only
  repeat' first
    | with_reducible assumption
    | exact List.Subset.trans (by decide) hp
    | with_reducible apply State.serve_touch
    | with_reducible apply refuse_touch
    | with_reducible apply hact
    | with_reducible apply touch_ite
    | with_reducible apply touchA_ite
    | with_reducible apply touchA_refuse
    | with_reducible intro _

theorem execAuthLockExpiry_touch (hp : ([.host] : List Part) ⊆ ps) (s : State)  (h : Touch ps s0 s) :
    TouchR ps s0 (execAuthLockExpiry s) := by
  unfold execAuthLockExpiry; try dsimp only
  repeat' first
    | with_reducible assumption
    | exact .inr (hp (by decide))
    | with_reducible exact .inl rfl
    | with_reducible apply touch_ite
    | with_reducible apply touchR_ite
    | with_reducible apply touchR_next
    | with_reducible intro _
    | split
    | with_reducible refine touch_mk ?_ ?_ ?_ ?_ ?_ ?_ ?_ ?_ ?_ ?_ ?_ ?_ ?_ ?_ ?_ ?_ ?_ ?_ ?_ ?_ ?_ ?_ ?_ ?_ ?_ ?_ ?_ ?_ ?_

theorem execFrameDiscarded_touch (hp : ([.host, .ctr] : List Part) ⊆ ps) (dgram : Option Bytes) (corrected : ℕ) (uncorrectable : ℕ) (s : State)  (h : Touch ps s0 s) :
    TouchR ps s0 (execFrameDiscarded dgram corrected uncorrectable s) := by
  unfold execFrameDiscarded; try dsimp only
  repeat' first
    | with_reducible assumption
    | exact List.Subset.trans (by decide) hp
    | with_reducible apply State.bump_touch
    | with_reducible apply State.rxFrame_touch
    | exact .inr (hp (by decide))
    | with_reducible exact .inl rfl
    | with_reducible apply touch_ite
    | with_reducible apply touchR_ite
    | with_reducible apply touchR_next
    | with_reducible intro _
    | split
    | with_reducible refine touch_mk ?_ ?_ ?_ ?_ ?_ ?_ ?_ ?_ ?_ ?_ ?_ ?_ ?_ ?_ ?_ ?_ ?_ ?_ ?_ ?_ ?_ ?_ ?_ ?_ ?_ ?_ ?_ ?_ ?_

theorem execHostLinkDown_touch (hp : ([.log, .host, .ctr, .out] : List Part) ⊆ ps) (s : State)  (h : Touch ps s0 s) :
    TouchR ps s0 (execHostLinkDown s) := by
  unfold execHostLinkDown; try dsimp only
  repeat' first
    | with_reducible assumption
    | exact List.Subset.trans (by decide) hp
    | with_reducible apply State.event_touch
    | exact .inr (hp (by decide))
    | with_reducible exact .inl rfl
    | with_reducible apply touch_ite
    | with_reducible apply touchR_ite
    | with_reducible apply touchR_next
    | with_reducible intro _
    | with_reducible refine touch_mk ?_ ?_ ?_ ?_ ?_ ?_ ?_ ?_ ?_ ?_ ?_ ?_ ?_ ?_ ?_ ?_ ?_ ?_ ?_ ?_ ?_ ?_ ?_ ?_ ?_ ?_ ?_ ?_ ?_

theorem execHostLinkUp_touch (hp : ([.log, .host, .ctr, .out] : List Part) ⊆ ps) (s : State)  (h : Touch ps s0 s) :
    TouchR ps s0 (execHostLinkUp s) := by
  unfold execHostLinkUp; try dsimp only
  repeat' first
    | with_reducible assumption
    | exact List.Subset.trans (by decide) hp
    | with_reducible apply State.event_touch
    | exact .inr (hp (by decide))
    | with_reducible exact .inl rfl
    | with_reducible apply touch_ite
    | with_reducible apply touchR_ite
    | with_reducible apply touchR_next
    | with_reducible intro _
    | with_reducible refine touch_mk ?_ ?_ ?_ ?_ ?_ ?_ ?_ ?_ ?_ ?_ ?_ ?_ ?_ ?_ ?_ ?_ ?_ ?_ ?_ ?_ ?_ ?_ ?_ ?_ ?_ ?_ ?_ ?_ ?_

theorem execIcmpEchoRequest_touch (hp : ([.ctr, .out] : List Part) ⊆ ps) (target : Bytes) (data : Bytes) (s : State)  (h : Touch ps s0 s) :
    TouchR ps s0 (execIcmpEchoRequest target data s) := by
  unfold execIcmpEchoRequest; try dsimp only
  repeat' first
    | with_reducible assumption
    | exact List.Subset.trans (by decide) hp
    | with_reducible apply State.answerFrame_touch
    | with_reducible apply touchR_next

theorem execKeepalive_touch (hp : ([.host, .ctr, .out] : List Part) ⊆ ps) (q : Req) (s : State)  (h : Touch ps s0 s) :
    TouchR ps s0 (execKeepalive q s) := by
  unfold execKeepalive; try dsimp only
  repeat' first
    | with_reducible assumption
    | exact List.Subset.trans (by decide) hp
    | with_reducible apply State.serve_touch
    | with_reducible apply touchR_next
    | with_reducible apply touchA_mk
    | with_reducible intro _

theorem execNeighbourRequest_touch (hp : ([.ctr, .out] : List Part) ⊆ ps) (target : Bytes) (data : Bytes) (s : State)  (h : Touch ps s0 s) :
    TouchR ps s0 (execNeighbourRequest target data s) := by
  unfold execNeighbourRequest; try dsimp only
  repeat' first
    | with_reducible assumption
    | exact List.Subset.trans (by decide) hp
    | with_reducible apply State.answerFrame_touch
    | with_reducible apply touchR_next

theorem execOperatorKey_touch (hp : ([.start, .log, .tally, .host, .snap, .ctr, .out] : List Part) ⊆ ps) (q : Req) (s : State)  (h : Touch ps s0 s) :
    TouchR ps s0 (execOperatorKey q s) := by
  unfold execOperatorKey; try dsimp only
  repeat' first
    | with_reducible assumption
    | exact List.Subset.trans (by decide) hp
    | with_reducible apply State.serve_touch
    | with_reducible apply State.blobSegment_touch
    | with_reducible apply refuse_touch
    | with_reducible apply State.event_touch
    | with_reducible apply State.putValue_touch
    | with_reducible apply accept_touch
    | with_reducible apply State.closeSession_touch
    | with_reducible apply touch_ite
    | with_reducible apply touchR_ite
    | with_reducible apply touchA_ite
    | with_reducible apply touchR_next
    | with_reducible apply touchA_refuse
    | with_reducible apply touchA_accept
    | with_reducible apply touch_foldl
    | with_reducible intro _

theorem execSequenceEntryExpiry_touch (hp : ([.host] : List Part) ⊆ ps) (addr : Bytes) (s : State)  (h : Touch ps s0 s) :
    TouchR ps s0 (execSequenceEntryExpiry addr s) := by
  unfold execSequenceEntryExpiry; try dsimp only
  repeat' first
    | with_reducible assumption
    | exact .inr (hp (by decide))
    | with_reducible exact .inl rfl
    | with_reducible apply touchR_next
    | with_reducible refine touch_mk ?_ ?_ ?_ ?_ ?_ ?_ ?_ ?_ ?_ ?_ ?_ ?_ ?_ ?_ ?_ ?_ ?_ ?_ ?_ ?_ ?_ ?_ ?_ ?_ ?_ ?_ ?_ ?_ ?_

theorem execSessionChallenge_touch (hp : ([.host, .ctr, .out] : List Part) ⊆ ps) (q : Req) (s : State)  (h : Touch ps s0 s) :
    TouchR ps s0 (execSessionChallenge q s) := by
  unfold execSessionChallenge; try dsimp only
  repeat' first
    | with_reducible assumption
    | exact List.Subset.trans (by decide) hp
    | with_reducible apply State.serve_touch
    | with_reducible apply refuse_touch
    | exact .inr (hp (by decide))
    | with_reducible exact .inl rfl
    | with_reducible apply touch_ite
    | with_reducible apply touchR_ite
    | with_reducible apply touchA_ite
    | with_reducible apply touchR_next
    | with_reducible apply touchA_refuse
    | with_reducible apply touchA_mk
    | with_reducible intro _
    | with_reducible refine touch_mk ?_ ?_ ?_ ?_ ?_ ?_ ?_ ?_ ?_ ?_ ?_ ?_ ?_ ?_ ?_ ?_ ?_ ?_ ?_ ?_ ?_ ?_ ?_ ?_ ?_ ?_ ?_ ?_ ?_

theorem execSessionClose_touch (hp : ([.log, .host, .snap, .ctr, .out] : List Part) ⊆ ps) (q : Req) (s : State)  (h : Touch ps s0 s) :
    TouchR ps s0 (execSessionClose q s) := by
  unfold execSessionClose; try dsimp only
  repeat' first
    | with_reducible assumption
    | exact List.Subset.trans (by decide) hp
    | with_reducible apply State.serve_touch
    | with_reducible apply accept_touch
    | with_reducible apply State.closeSession_touch
    | with_reducible apply touchR_next
    | with_reducible apply touchA_accept
    | with_reducible intro _

theorem execSessionIdleTimeout_touch (hp : ([.log, .host, .snap, .ctr, .out] : List Part) ⊆ ps) (id : ℕ) (s : State)  (h : Touch ps s0 s) :
    TouchR ps s0 (execSessionIdleTimeout id s) := by
  unfold execSessionIdleTimeout; try dsimp only
  repeat' first
    | with_reducible assumption
    | exact List.Subset.trans (by decide) hp
    | with_reducible apply State.closeSession_touch
    | with_reducible apply touch_ite
    | with_reducible apply touchR_ite
    | with_reducible apply touchR_next
    | with_reducible intro _
    | split

theorem execSessionOpen_touch (hp : ([.log, .host, .ctr, .out] : List Part) ⊆ ps) (q : Req) (s : State)  (h : Touch ps s0 s) :
    TouchR ps s0 (execSessionOpen q s) := by
  unfold execSessionOpen; try dsimp only
  repeat' first
    | with_reducible assumption
    | exact List.Subset.trans (by decide) hp
    | with_reducible apply State.serve_touch
    | with_reducible apply State.openRefused_touch
    | with_reducible apply State.event_touch
    | with_reducible apply State.authFailed_touch
    | exact .inr (hp (by decide))
    | with_reducible exact .inl rfl
    | with_reducible apply touch_ite
    | with_reducible apply touchR_ite
    | with_reducible apply touchA_ite
    | with_reducible apply touchR_next
    | with_reducible apply touchA_mk
    | with_reducible intro _
    | split
    | with_reducible refine touch_mk ?_ ?_ ?_ ?_ ?_ ?_ ?_ ?_ ?_ ?_ ?_ ?_ ?_ ?_ ?_ ?_ ?_ ?_ ?_ ?_ ?_ ?_ ?_ ?_ ?_ ?_ ?_ ?_ ?_

theorem execUndefinedOmOp_touch (hp : ([.host, .ctr, .out] : List Part) ⊆ ps) (q : Req) (op : ℕ) (s : State)  (h : Touch ps s0 s) :
    TouchR ps s0 (execUndefinedOmOp q op s) := by
  unfold execUndefinedOmOp; try dsimp only
  repeat' first
    | with_reducible assumption
    | exact List.Subset.trans (by decide) hp
    | with_reducible apply State.serve_touch
    | with_reducible apply refuse_touch
    | with_reducible apply touch_ite
    | with_reducible apply touchR_ite
    | with_reducible apply touchA_ite
    | with_reducible apply touchR_next
    | with_reducible apply touchA_refuse
    | with_reducible intro _

end Sys2Proof.Machine
end

