-- ==== Sys2Proof/Laws/TouchLimber.lean ====
section
/-! SUPPORT. Which parts of the state the operations of Machine/Limber.lean may change. -/

namespace Sys2Proof.Machine

variable {s0 : State} {ps : List Part}

theorem State.addTally_touch (hp : ([.log, .stats, .host, .ctr, .out] : List Part) ⊆ ps) (s : State) (src : ℕ) (step : ℕ) (f : ℕ) (t : LimberTally)  (h : Touch ps s0 s) :
    Touch ps s0 (State.addTally s src step f t) := by
  unfold State.addTally; try dsimp only
  repeat' first
    | with_reducible assumption
    | exact List.Subset.trans (by decide) hp
    | with_reducible apply State.addHist_touch
    | with_reducible apply State.addCounts_touch

theorem State.modLimber_touch (hp : ([.limbers] : List Part) ⊆ ps) (s : State) (die : ℕ) (f : Limber → Limber)  (h : Touch ps s0 s) :
    Touch ps s0 (State.modLimber s die f) := by
  unfold State.modLimber; try dsimp only
  repeat' first
    | with_reducible assumption
    | exact .inr (hp (by decide))
    | with_reducible exact .inl rfl
    | with_reducible refine touch_mk ?_ ?_ ?_ ?_ ?_ ?_ ?_ ?_ ?_ ?_ ?_ ?_ ?_ ?_ ?_ ?_ ?_ ?_ ?_ ?_ ?_ ?_ ?_ ?_ ?_ ?_ ?_ ?_ ?_

theorem State.limberRetired_touch (hp : ([.limbers, .ctr] : List Part) ⊆ ps) (s : State) (die : ℕ) (n : ℕ)  (h : Touch ps s0 s) :
    Touch ps s0 (State.limberRetired s die n) := by
  unfold State.limberRetired; try dsimp only
  repeat' first
    | with_reducible assumption
    | exact List.Subset.trans (by decide) hp
    | with_reducible apply State.bump_touch
    | with_reducible apply State.modLimber_touch

theorem execLimberJob_touch (hp : ([.log, .safe, .stats, .clusters, .job, .upd, .banks, .limbers, .stash, .cow, .cxl, .base, .skid, .net, .sync, .host, .ingest, .snap, .ctr, .out, .free] : List Part) ⊆ ps) (cl : ℕ) (s : State)  (h : Touch ps s0 s) :
    TouchR ps s0 (execLimberJob cl s) := by
  unfold execLimberJob; try dsimp only
  repeat' first
    | with_reducible assumption
    | exact List.Subset.trans (by decide) hp
    | with_reducible apply State.issue_touch
    | with_reducible apply State.limberRetired_touch
    | with_reducible apply State.dmaPut_touch
    | with_reducible apply touch_ite
    | with_reducible apply touchR_ite
    | with_reducible apply touchR_next
    | with_reducible intro _
    | split

theorem execLimberJobAccept_touch (hp : ([.clusters, .limbers] : List Part) ⊆ ps) (cl : ℕ) (s : State)  (h : Touch ps s0 s) :
    TouchR ps s0 (execLimberJobAccept cl s) := by
  unfold execLimberJobAccept; try dsimp only
  repeat' first
    | with_reducible assumption
    | exact List.Subset.trans (by decide) hp
    | with_reducible apply State.modCl_touch
    | with_reducible apply State.modLimber_touch
    | with_reducible apply touch_ite
    | with_reducible apply touchR_ite
    | with_reducible apply touchR_next
    | with_reducible intro _
    | split

theorem execLimberJobComplete_touch (hp : ([.log, .safe, .stats, .clusters, .job, .upd, .banks, .limbers, .stash, .cow, .cxl, .base, .skid, .sync, .host, .ingest, .snap, .mem, .ctr, .out] : List Part) ⊆ ps) (die : ℕ) (checks : List MemCheck) (collided : List ℕ) (s : State) (h : Touch ps s0 s) :
    TouchR ps s0 (execLimberJobComplete die checks collided s) := by
  unfold execLimberJobComplete
  refine touchR_next ?_
  generalize (s.limber die).queue = q
  cases q with
  | nil => exact h
  | cons j rest =>
    dsimp only
    generalize s.desc j.desc = o
    cases o with
    | none => exact h
    | some d =>
      dsimp only
      refine touch_ite (fun _ => h) fun _ => ?_
      have hc := State.checked_touch (List.Subset.trans (by decide) hp) s checks h
      generalize s.checked checks = c at hc ⊢
      obtain ⟨ok, u⟩ := c
      refine touch_ite (fun _ => hc) fun _ => ?_
      have h1 := limberWork_keeps (Touch ps s0) (limberIo j d collided) d j.rows u
        (fun s n h => State.localRead_touch (List.Subset.trans (by decide) hp) _ _ _ _ _ h) (fun s r c h => State.localRead_touch (List.Subset.trans (by decide) hp) _ _ _ _ _ h)
        (fun s a bs h => State.landWrite_touch (List.Subset.trans (by decide) hp) _ _ _ _ _ _ h) hc
      generalize limberWork (limberIo j d collided) d j.rows u = w at h1 ⊢
      obtain ⟨n, cts, t⟩ := w
      exact State.settle_touch (List.Subset.trans (by decide) hp) _ _ (State.modCl_touch (List.Subset.trans (by decide) hp) _ _ _ (State.limberRetired_touch (List.Subset.trans (by decide) hp) _ _ _
        (State.modLimber_touch (List.Subset.trans (by decide) hp) _ _ _ (State.addTally_touch (List.Subset.trans (by decide) hp) _ _ _ _ _ h1))))

end Sys2Proof.Machine
end

