-- ==== Sys2Proof/Laws/TouchTime.lean ====
section
/-! SUPPORT. Which parts of the state the operations of Machine/Time.lean may change. -/

namespace Sys2Proof.Machine

variable {s0 : State} {ps : List Part}

theorem State.sendMark_touch (hp : ([.log, .skid, .out] : List Part) ⊆ ps) (s : State) (n : ℕ)  (h : Touch ps s0 s) :
    Touch ps s0 (State.sendMark s n) := by
  unfold State.sendMark; try dsimp only
  repeat' first
    | with_reducible assumption
    | exact List.Subset.trans (by decide) hp
    | with_reducible apply State.pumpPort_touch
    | with_reducible apply State.emit_touch
    | with_reducible apply State.modPort_touch

theorem State.sendMarks_touch (hp : ([.time, .log, .skid, .out] : List Part) ⊆ ps) (s : State)  (h : Touch ps s0 s) :
    Touch ps s0 (State.sendMarks s) := by
  unfold State.sendMarks; try dsimp only
  repeat' first
    | with_reducible assumption
    | exact List.Subset.trans (by decide) hp
    | with_reducible apply State.sendMark_touch
    | with_reducible apply State.emit_touch
    | exact .inr (hp (by decide))
    | with_reducible exact .inl rfl
    | with_reducible apply touch_foldl
    | with_reducible intro _
    | with_reducible refine touch_mk ?_ ?_ ?_ ?_ ?_ ?_ ?_ ?_ ?_ ?_ ?_ ?_ ?_ ?_ ?_ ?_ ?_ ?_ ?_ ?_ ?_ ?_ ?_ ?_ ?_ ?_ ?_ ?_ ?_

theorem State.advance_touch (hp : ([.time, .log, .skid, .out] : List Part) ⊆ ps) (s : State) (n : ℕ)  (h : Touch ps s0 s) :
    Touch ps s0 (State.advance s n) := by
  unfold State.advance; try dsimp only
  repeat' first
    | with_reducible assumption
    | exact List.Subset.trans (by decide) hp
    | with_reducible apply State.sendMarks_touch
    | exact .inr (hp (by decide))
    | with_reducible exact .inl rfl
    | with_reducible apply touch_ite
    | with_reducible intro _
    | with_reducible refine touch_mk ?_ ?_ ?_ ?_ ?_ ?_ ?_ ?_ ?_ ?_ ?_ ?_ ?_ ?_ ?_ ?_ ?_ ?_ ?_ ?_ ?_ ?_ ?_ ?_ ?_ ?_ ?_ ?_ ?_

theorem State.hold_touch (hp : ([.time, .log, .host, .ctr, .out] : List Part) ⊆ ps) (s : State)  (h : Touch ps s0 s) :
    Touch ps s0 (State.hold s) := by
  unfold State.hold; try dsimp only
  repeat' first
    | with_reducible assumption
    | exact List.Subset.trans (by decide) hp
    | with_reducible apply State.event_touch
    | exact .inr (hp (by decide))
    | with_reducible exact .inl rfl
    | with_reducible refine touch_mk ?_ ?_ ?_ ?_ ?_ ?_ ?_ ?_ ?_ ?_ ?_ ?_ ?_ ?_ ?_ ?_ ?_ ?_ ?_ ?_ ?_ ?_ ?_ ?_ ?_ ?_ ?_ ?_ ?_

theorem State.lock_touch (hp : ([.time, .log, .host, .ctr, .out] : List Part) ⊆ ps) (s : State)  (h : Touch ps s0 s) :
    Touch ps s0 (State.lock s) := by
  unfold State.lock; try dsimp only
  repeat' first
    | with_reducible assumption
    | exact List.Subset.trans (by decide) hp
    | with_reducible apply State.event_touch
    | exact .inr (hp (by decide))
    | with_reducible exact .inl rfl
    | with_reducible refine touch_mk ?_ ?_ ?_ ?_ ?_ ?_ ?_ ?_ ?_ ?_ ?_ ?_ ?_ ?_ ?_ ?_ ?_ ?_ ?_ ?_ ?_ ?_ ?_ ?_ ?_ ?_ ?_ ?_ ?_

theorem State.notePeer_touch (hp : ([.time, .log, .host, .ctr, .out] : List Part) ⊆ ps) (s : State) (port : ℕ) (offset : ℤ)  (h : Touch ps s0 s) :
    Touch ps s0 (State.notePeer s port offset) := by
  unfold State.notePeer; try dsimp only
  repeat' first
    | with_reducible assumption
    | exact List.Subset.trans (by decide) hp
    | with_reducible apply State.event_touch
    | exact .inr (hp (by decide))
    | with_reducible exact .inl rfl
    | with_reducible apply touch_ite
    | with_reducible intro _
    | with_reducible refine touch_mk ?_ ?_ ?_ ?_ ?_ ?_ ?_ ?_ ?_ ?_ ?_ ?_ ?_ ?_ ?_ ?_ ?_ ?_ ?_ ?_ ?_ ?_ ?_ ?_ ?_ ?_ ?_ ?_ ?_

theorem State.restartAcquisition_touch (hp : ([.time] : List Part) ⊆ ps) (s : State) (domain : Bool)  (h : Touch ps s0 s) :
    Touch ps s0 (State.restartAcquisition s domain) := by
  unfold State.restartAcquisition; try dsimp only
  repeat' first
    | with_reducible assumption
    | exact .inr (hp (by decide))
    | with_reducible exact .inl rfl
    | with_reducible apply touch_ite
    | with_reducible intro _
    | with_reducible refine touch_mk ?_ ?_ ?_ ?_ ?_ ?_ ?_ ?_ ?_ ?_ ?_ ?_ ?_ ?_ ?_ ?_ ?_ ?_ ?_ ?_ ?_ ?_ ?_ ?_ ?_ ?_ ?_ ?_ ?_

theorem State.tick_touch (hp : ([.time, .log, .skid, .out] : List Part) ⊆ ps) (s : State)  (h : Touch ps s0 s) :
    Touch ps s0 (State.tick s) := by
  unfold State.tick; try dsimp only
  repeat' first
    | with_reducible assumption
    | exact List.Subset.trans (by decide) hp
    | with_reducible apply State.advance_touch

theorem State.timeStep_touch (hp : ([.time, .log, .safe, .stats, .clusters, .job, .upd, .limbers, .cow, .skid, .host, .ingest, .snap, .ctr, .out] : List Part) ⊆ ps) (s : State)  (h : Touch ps s0 s) :
    Touch ps s0 (State.timeStep s) := by
  unfold State.timeStep; try dsimp only
  repeat' first
    | with_reducible assumption
    | exact List.Subset.trans (by decide) hp
    | with_reducible apply State.fault_touch
    | exact .inr (hp (by decide))
    | with_reducible exact .inl rfl
    | with_reducible refine touch_mk ?_ ?_ ?_ ?_ ?_ ?_ ?_ ?_ ?_ ?_ ?_ ?_ ?_ ?_ ?_ ?_ ?_ ?_ ?_ ?_ ?_ ?_ ?_ ?_ ?_ ?_ ?_ ?_ ?_

theorem State.track_touch (hp : ([.time, .log, .host, .ctr, .out] : List Part) ⊆ ps) (s : State) (offset : ℤ)  (h : Touch ps s0 s) :
    Touch ps s0 (State.track s offset) := by
  unfold State.track; try dsimp only
  repeat' first
    | with_reducible assumption
    | exact List.Subset.trans (by decide) hp
    | with_reducible apply State.lock_touch
    | exact .inr (hp (by decide))
    | with_reducible exact .inl rfl
    | with_reducible apply touch_ite
    | with_reducible intro _
    | split
    | with_reducible refine touch_mk ?_ ?_ ?_ ?_ ?_ ?_ ?_ ?_ ?_ ?_ ?_ ?_ ?_ ?_ ?_ ?_ ?_ ?_ ?_ ?_ ?_ ?_ ?_ ?_ ?_ ?_ ?_ ?_ ?_

theorem State.timeUpdate_touch (hp : ([.time, .log, .safe, .stats, .clusters, .job, .upd, .limbers, .cow, .skid, .host, .ingest, .snap, .ctr, .out] : List Part) ⊆ ps) (s : State) (offset : ℤ) (interval : ℕ)  (h : Touch ps s0 s) :
    Touch ps s0 (State.timeUpdate s offset interval) := by
  unfold State.timeUpdate; try dsimp only
  repeat' first
    | with_reducible assumption
    | exact List.Subset.trans (by decide) hp
    | with_reducible apply State.timeStep_touch
    | with_reducible apply State.track_touch
    | exact .inr (hp (by decide))
    | with_reducible exact .inl rfl
    | with_reducible apply touch_ite
    | with_reducible intro _
    | split
    | with_reducible refine touch_mk ?_ ?_ ?_ ?_ ?_ ?_ ?_ ?_ ?_ ?_ ?_ ?_ ?_ ?_ ?_ ?_ ?_ ?_ ?_ ?_ ?_ ?_ ?_ ?_ ?_ ?_ ?_ ?_ ?_

theorem execAnnounceMessage_touch (hp : ([.time, .ctr] : List Part) ⊆ ps) (sender : ℕ) (domain : ℕ) (identity : ℕ) (priority1 : ℕ) (clockClass : ℕ) (accuracy : ℕ) (variance : ℕ) (priority2 : ℕ) (stepsRemoved : ℕ) (logInterval : ℤ) (s : State)  (h : Touch ps s0 s) :
    TouchR ps s0 (execAnnounceMessage sender domain identity priority1 clockClass accuracy variance priority2 stepsRemoved logInterval s) := by
  unfold execAnnounceMessage; try dsimp only
  repeat' first
    | with_reducible assumption
    | exact List.Subset.trans (by decide) hp
    | with_reducible apply State.rxFrame_touch
    | exact .inr (hp (by decide))
    | with_reducible exact .inl rfl
    | with_reducible apply touch_ite
    | with_reducible apply touchR_ite
    | with_reducible apply touchR_next
    | with_reducible intro _
    | with_reducible refine touch_mk ?_ ?_ ?_ ?_ ?_ ?_ ?_ ?_ ?_ ?_ ?_ ?_ ?_ ?_ ?_ ?_ ?_ ?_ ?_ ?_ ?_ ?_ ?_ ?_ ?_ ?_ ?_ ?_ ?_

theorem execBeatBoundary_touch (hp : ([.time, .log, .skid, .out] : List Part) ⊆ ps) (s : State)  (h : Touch ps s0 s) :
    TouchR ps s0 (execBeatBoundary s) := by
  unfold execBeatBoundary; try dsimp only
  repeat' first
    | with_reducible assumption
    | exact List.Subset.trans (by decide) hp
    | with_reducible apply State.advance_touch
    | with_reducible apply touch_ite
    | with_reducible apply touchR_ite
    | with_reducible apply touchR_next
    | with_reducible intro _

theorem execBeatMark_touch (hp : ([.time, .log, .safe, .stats, .clusters, .job, .upd, .limbers, .cow, .skid, .host, .ingest, .snap, .ctr, .out] : List Part) ⊆ ps) (port : ℕ) (f : SkidFrame) (s : State)  (h : Touch ps s0 s) :
    TouchR ps s0 (execBeatMark port f s) := by
  unfold execBeatMark; try dsimp only
  repeat' first
    | with_reducible assumption
    | exact List.Subset.trans (by decide) hp
    | with_reducible apply State.modPort_touch
    | with_reducible apply State.notePeer_touch
    | with_reducible apply State.timeUpdate_touch
    | with_reducible apply touch_ite
    | with_reducible apply touchR_ite
    | with_reducible apply touchR_next
    | with_reducible intro _

theorem execBeatOverflow_touch (hp : ([.log, .safe, .stats, .clusters, .job, .upd, .limbers, .cow, .skid, .host, .ingest, .snap, .ctr, .out] : List Part) ⊆ ps) (s : State)  (h : Touch ps s0 s) :
    TouchR ps s0 (execBeatOverflow s) := by
  unfold execBeatOverflow; try dsimp only
  repeat' first
    | with_reducible assumption
    | exact List.Subset.trans (by decide) hp
    | with_reducible apply State.fault_touch
    | with_reducible apply touch_ite
    | with_reducible apply touchR_ite
    | with_reducible apply touchR_next
    | with_reducible intro _

theorem execHoldoverExpired_touch (hp : ([.time, .log, .safe, .stats, .clusters, .job, .upd, .limbers, .cow, .skid, .host, .ingest, .snap, .ctr, .out] : List Part) ⊆ ps) (s : State)  (h : Touch ps s0 s) :
    TouchR ps s0 (execHoldoverExpired s) := by
  unfold execHoldoverExpired; try dsimp only
  repeat' first
    | with_reducible assumption
    | exact List.Subset.trans (by decide) hp
    | with_reducible apply State.fault_touch
    | exact .inr (hp (by decide))
    | with_reducible exact .inl rfl
    | with_reducible apply touch_ite
    | with_reducible apply touchR_ite
    | with_reducible apply touchR_next
    | with_reducible intro _
    | with_reducible refine touch_mk ?_ ?_ ?_ ?_ ?_ ?_ ?_ ?_ ?_ ?_ ?_ ?_ ?_ ?_ ?_ ?_ ?_ ?_ ?_ ?_ ?_ ?_ ?_ ?_ ?_ ?_ ?_ ?_ ?_

theorem execSourceLost_touch (hp : ([.time, .log, .host, .ctr, .out] : List Part) ⊆ ps) (s : State)  (h : Touch ps s0 s) :
    TouchR ps s0 (execSourceLost s) := by
  unfold execSourceLost; try dsimp only
  repeat' first
    | with_reducible assumption
    | exact List.Subset.trans (by decide) hp
    | with_reducible apply State.hold_touch
    | exact .inr (hp (by decide))
    | with_reducible exact .inl rfl
    | with_reducible apply touch_ite
    | with_reducible apply touchR_ite
    | with_reducible apply touchR_next
    | with_reducible intro _
    | split
    | with_reducible refine touch_mk ?_ ?_ ?_ ?_ ?_ ?_ ?_ ?_ ?_ ?_ ?_ ?_ ?_ ?_ ?_ ?_ ?_ ?_ ?_ ?_ ?_ ?_ ?_ ?_ ?_ ?_ ?_ ?_ ?_

theorem execSourceUpdate_touch (hp : ([.time, .log, .safe, .stats, .clusters, .job, .upd, .limbers, .cow, .skid, .host, .ingest, .snap, .ctr, .out] : List Part) ⊆ ps) (offset : ℤ) (logInterval : ℤ) (s : State)  (h : Touch ps s0 s) :
    TouchR ps s0 (execSourceUpdate offset logInterval s) := by
  unfold execSourceUpdate; try dsimp only
  repeat' first
    | with_reducible assumption
    | exact List.Subset.trans (by decide) hp
    | with_reducible apply State.timeUpdate_touch
    | with_reducible apply touch_ite
    | with_reducible apply touchR_ite
    | with_reducible apply touchR_next
    | with_reducible intro _

end Sys2Proof.Machine
end

