-- ==== Sys2Proof/Laws/TouchGroups.lean ====
section
/-! SUPPORT. Which parts of the state the operations of Machine/Groups.lean may change. -/

namespace Sys2Proof.Machine

variable {s0 : State} {ps : List Part}

theorem State.modInst_touch (hp : ([.power] : List Part) ⊆ ps) (s : State) (i : ℕ) (f : ClkInst → ClkInst)  (h : Touch ps s0 s) :
    Touch ps s0 (State.modInst s i f) := by
  unfold State.modInst; try dsimp only
  repeat' first
    | with_reducible assumption
    | exact .inr (hp (by decide))
    | with_reducible exact .inl rfl
    | with_reducible refine touch_mk ?_ ?_ ?_ ?_ ?_ ?_ ?_ ?_ ?_ ?_ ?_ ?_ ?_ ?_ ?_ ?_ ?_ ?_ ?_ ?_ ?_ ?_ ?_ ?_ ?_ ?_ ?_ ?_ ?_

theorem State.beginSwitch_touch (hp : ([.power] : List Part) ⊆ ps) (s : State) (i : ℕ) (source : ℕ)  (h : Touch ps s0 s) :
    Touch ps s0 (State.beginSwitch s i source) := by
  unfold State.beginSwitch; try dsimp only
  repeat' first
    | with_reducible assumption
    | exact List.Subset.trans (by decide) hp
    | with_reducible apply State.modInst_touch

theorem State.applyEffect_touch (hp : ([.time, .log, .host, .power, .ctr, .out] : List Part) ⊆ ps) (s : State) (a : PendApply) (changed : List ℕ)  (h : Touch ps s0 s) :
    Touch ps s0 (State.applyEffect s a changed) := by
  unfold State.applyEffect; try dsimp only
  repeat' first
    | with_reducible assumption
    | exact List.Subset.trans (by decide) hp
    | with_reducible apply State.restartAcquisition_touch
    | with_reducible apply State.event_touch
    | with_reducible apply State.sendHost_touch
    | with_reducible apply State.beginSwitch_touch
    | exact .inr (hp (by decide))
    | with_reducible exact .inl rfl
    | with_reducible apply touch_ite
    | with_reducible apply touch_foldl
    | with_reducible intro _
    | split
    | with_reducible refine touch_mk ?_ ?_ ?_ ?_ ?_ ?_ ?_ ?_ ?_ ?_ ?_ ?_ ?_ ?_ ?_ ?_ ?_ ?_ ?_ ?_ ?_ ?_ ?_ ?_ ?_ ?_ ?_ ?_ ?_

theorem State.markDirty_touch (hp : ([.start] : List Part) ⊆ ps) (s : State) (keys : List ℕ)  (h : Touch ps s0 s) :
    Touch ps s0 (State.markDirty s keys) := by
  unfold State.markDirty; try dsimp only
  repeat' first
    | with_reducible assumption
    | exact .inr (hp (by decide))
    | with_reducible exact .inl rfl
    | with_reducible refine touch_mk ?_ ?_ ?_ ?_ ?_ ?_ ?_ ?_ ?_ ?_ ?_ ?_ ?_ ?_ ?_ ?_ ?_ ?_ ?_ ?_ ?_ ?_ ?_ ?_ ?_ ?_ ?_ ?_ ?_

theorem State.putActive_touch (hp : ([.start, .tally] : List Part) ⊆ ps) (s : State) (a : PendApply)  (h : Touch ps s0 s) :
    Touch ps s0 (State.putActive s a) := by
  unfold State.putActive; try dsimp only
  repeat' first
    | with_reducible assumption
    | exact List.Subset.trans (by decide) hp
    | with_reducible apply State.markDirty_touch
    | exact .inr (hp (by decide))
    | with_reducible exact .inl rfl
    | with_reducible refine touch_mk ?_ ?_ ?_ ?_ ?_ ?_ ?_ ?_ ?_ ?_ ?_ ?_ ?_ ?_ ?_ ?_ ?_ ?_ ?_ ?_ ?_ ?_ ?_ ?_ ?_ ?_ ?_ ?_ ?_

theorem State.safePoint_touch (hp : ([.time, .start, .log, .tally, .host, .power, .ctr, .out] : List Part) ⊆ ps) (s : State) (g : ℕ)  (h : Touch ps s0 s) :
    Touch ps s0 (State.safePoint s g) := by
  unfold State.safePoint; try dsimp only
  repeat' first
    | with_reducible assumption
    | exact List.Subset.trans (by decide) hp
    | with_reducible apply State.event_touch
    | with_reducible apply State.applyEffect_touch
    | with_reducible apply State.putActive_touch
    | exact .inr (hp (by decide))
    | with_reducible exact .inl rfl
    | with_reducible apply touch_ite
    | with_reducible intro _
    | split
    | with_reducible refine touch_mk ?_ ?_ ?_ ?_ ?_ ?_ ?_ ?_ ?_ ?_ ?_ ?_ ?_ ?_ ?_ ?_ ?_ ?_ ?_ ?_ ?_ ?_ ?_ ?_ ?_ ?_ ?_ ?_ ?_

end Sys2Proof.Machine
end

