-- ==== Sys2Proof/Laws/TouchSyncCmds.lean ====
section
/-! SUPPORT. Which parts of the state the operations of Machine/SyncCmds.lean may change. -/

namespace Sys2Proof.Machine

variable {s0 : State} {ps : List Part}

theorem State.loadRetire_touch (hp : ([.log, .stats, .clusters, .skid, .sync, .host, .ctr, .out] : List Part) ⊆ ps) (s : State) (cl : ℕ) (l : RegLoad) (write : Cluster → Cluster)  (h : Touch ps s0 s) :
    Touch ps s0 (State.loadRetire s cl l write) := by
  unfold State.loadRetire; try dsimp only
  repeat' first
    | with_reducible assumption
    | exact List.Subset.trans (by decide) hp
    | with_reducible apply State.settle_touch
    | with_reducible apply State.modCl_touch

theorem loadBound_touch (hp : ([.log, .stats, .clusters, .skid, .sync, .host, .ctr, .out] : List Part) ⊆ ps) (cl : ℕ) (l : RegLoad) (p : Bytes × State) (h : Touch ps s0 p.2) : Touch ps s0 (loadBound cl l p) := by
  unfold loadBound; exact State.loadRetire_touch (List.Subset.trans (by decide) hp) _ _ _ _ h

theorem State.boundBack_touch (hp : ([.log, .safe, .stats, .clusters, .job, .upd, .banks, .limbers, .cow, .cxl, .base, .skid, .sync, .host, .ingest, .snap, .ctr, .out] : List Part) ⊆ ps) (s : State) (cl : ℕ) (checks : List MemCheck)  (h : Touch ps s0 s) :
    Touch ps s0 (State.boundBack s cl checks) := by
  unfold State.boundBack; try dsimp only
  repeat' first
    | with_reducible assumption
    | exact List.Subset.trans (by decide) hp
    | with_reducible apply State.checked_touch
    | with_reducible apply loadBound_touch
    | with_reducible apply State.localRead_touch
    | with_reducible apply touch_ite
    | with_reducible refine touch_of_snd (by assumption) ?_
    | with_reducible intro _
    | split

theorem State.loadIssue_touch (hp : ([.clusters] : List Part) ⊆ ps) (s : State) (cl : ℕ) (mask : Bool) (f : Fetched)  (h : Touch ps s0 s) :
    Touch ps s0 (State.loadIssue s cl mask f) := by
  unfold State.loadIssue; try dsimp only
  repeat' first
    | with_reducible assumption
    | exact List.Subset.trans (by decide) hp
    | with_reducible apply State.modCl_touch
    | with_reducible apply State.place_touch
    | with_reducible refine touch_of_snd (by assumption) ?_

theorem loadMask_touch (hp : ([.log, .stats, .clusters, .skid, .sync, .host, .ctr, .out] : List Part) ⊆ ps) (cl : ℕ) (l : RegLoad) (p : Bytes × State) (h : Touch ps s0 p.2) : Touch ps s0 (loadMask cl l p) := by
  unfold loadMask; exact State.loadRetire_touch (List.Subset.trans (by decide) hp) _ _ _ _ h

theorem State.maskBack_touch (hp : ([.log, .safe, .stats, .clusters, .job, .upd, .banks, .limbers, .cow, .cxl, .base, .skid, .sync, .host, .ingest, .snap, .ctr, .out] : List Part) ⊆ ps) (s : State) (cl : ℕ) (checks : List MemCheck)  (h : Touch ps s0 s) :
    Touch ps s0 (State.maskBack s cl checks) := by
  unfold State.maskBack; try dsimp only
  repeat' first
    | with_reducible assumption
    | exact List.Subset.trans (by decide) hp
    | with_reducible apply State.checked_touch
    | with_reducible apply loadMask_touch
    | with_reducible apply State.localRead_touch
    | with_reducible apply touch_ite
    | with_reducible refine touch_of_snd (by assumption) ?_
    | with_reducible intro _
    | split

theorem State.registerWait_touch (hp : ([.clusters, .sync] : List Part) ⊆ ps) (s : State) (cl : ℕ) (id : ℕ) (target : ℕ)  (h : Touch ps s0 s) :
    Touch ps s0 (State.registerWait s cl id target) := by
  unfold State.registerWait; try dsimp only
  repeat' first
    | with_reducible assumption
    | exact List.Subset.trans (by decide) hp
    | with_reducible apply State.modCl_touch
    | exact .inr (hp (by decide))
    | with_reducible exact .inl rfl
    | with_reducible refine touch_mk ?_ ?_ ?_ ?_ ?_ ?_ ?_ ?_ ?_ ?_ ?_ ?_ ?_ ?_ ?_ ?_ ?_ ?_ ?_ ?_ ?_ ?_ ?_ ?_ ?_ ?_ ?_ ?_ ?_

theorem boundCommand_touch (hp : ([.log, .safe, .stats, .clusters, .job, .upd, .limbers, .stash, .cow, .skid, .sync, .host, .ingest, .snap, .ctr, .out, .free] : List Part) ⊆ ps) (sel : ℕ → Bool) (act : State → Fetched → State) (cl : ℕ) (s : State) (hact : ∀ s y0, Touch ps s0 s → Touch ps s0 (act s y0)) (h : Touch ps s0 s) :
    Touch ps s0 (boundCommand sel act cl s) := by
  unfold boundCommand; try dsimp only
  repeat' first
    | with_reducible assumption
    | exact List.Subset.trans (by decide) hp
    | with_reducible apply State.issue_touch
    | with_reducible apply hact
    | with_reducible intro _

theorem execBeatWait_touch (hp : ([.log, .safe, .stats, .clusters, .job, .upd, .limbers, .stash, .cow, .skid, .sync, .host, .ingest, .snap, .ctr, .out, .free] : List Part) ⊆ ps) (cl : ℕ) (s : State)  (h : Touch ps s0 s) :
    TouchR ps s0 (execBeatWait cl s) := by
  unfold execBeatWait; try dsimp only
  repeat' first
    | with_reducible assumption
    | exact List.Subset.trans (by decide) hp
    | with_reducible apply State.issue_touch
    | with_reducible apply State.modCl_touch
    | with_reducible apply touch_ite
    | with_reducible apply touchR_ite
    | with_reducible apply touchR_next
    | with_reducible intro _

theorem execBeatWaitReached_touch (hp : ([.log, .stats, .clusters, .skid, .sync, .host, .ctr, .out] : List Part) ⊆ ps) (cl : ℕ) (s : State)  (h : Touch ps s0 s) :
    TouchR ps s0 (execBeatWaitReached cl s) := by
  unfold execBeatWaitReached; try dsimp only
  repeat' first
    | with_reducible assumption
    | exact List.Subset.trans (by decide) hp
    | with_reducible apply State.settle_touch
    | with_reducible apply State.modCl_touch
    | with_reducible apply touch_ite
    | with_reducible apply touchR_ite
    | with_reducible apply touchR_next
    | with_reducible intro _
    | split

theorem execBoundLoadDerived_touch (hp : ([.log, .safe, .stats, .clusters, .job, .upd, .limbers, .stash, .cow, .skid, .sync, .host, .ingest, .snap, .ctr, .out, .free] : List Part) ⊆ ps) (cl : ℕ) (s : State)  (h : Touch ps s0 s) :
    TouchR ps s0 (execBoundLoadDerived cl s) := by
  unfold execBoundLoadDerived; try dsimp only
  repeat' first
    | with_reducible assumption
    | exact List.Subset.trans (by decide) hp
    | with_reducible apply boundCommand_touch
    | with_reducible apply State.modCl_touch
    | with_reducible apply touchR_next
    | with_reducible intro _

theorem execBoundLoadImmediate_touch (hp : ([.log, .safe, .stats, .clusters, .job, .upd, .limbers, .stash, .cow, .skid, .sync, .host, .ingest, .snap, .ctr, .out, .free] : List Part) ⊆ ps) (cl : ℕ) (s : State)  (h : Touch ps s0 s) :
    TouchR ps s0 (execBoundLoadImmediate cl s) := by
  unfold execBoundLoadImmediate; try dsimp only
  repeat' first
    | with_reducible assumption
    | exact List.Subset.trans (by decide) hp
    | with_reducible apply boundCommand_touch
    | with_reducible apply State.modCl_touch
    | with_reducible apply touchR_next
    | with_reducible intro _

theorem execBoundLoadMemory_touch (hp : ([.log, .safe, .stats, .clusters, .job, .upd, .banks, .limbers, .stash, .cow, .cxl, .base, .skid, .sync, .host, .ingest, .snap, .ctr, .out, .free] : List Part) ⊆ ps) (cl : ℕ) (back : Option (List MemCheck)) (s : State)  (h : Touch ps s0 s) :
    TouchR ps s0 (execBoundLoadMemory cl back s) := by
  unfold execBoundLoadMemory; try dsimp only
  repeat' first
    | with_reducible assumption
    | exact List.Subset.trans (by decide) hp
    | with_reducible apply boundCommand_touch
    | with_reducible apply State.loadIssue_touch
    | with_reducible apply State.boundBack_touch
    | with_reducible apply touchR_next
    | with_reducible intro _
    | split

theorem execMaskBitmap_touch (hp : ([.log, .safe, .stats, .clusters, .job, .upd, .banks, .limbers, .stash, .cow, .cxl, .base, .skid, .sync, .host, .ingest, .snap, .ctr, .out, .free] : List Part) ⊆ ps) (cl : ℕ) (back : Option (List MemCheck)) (s : State)  (h : Touch ps s0 s) :
    TouchR ps s0 (execMaskBitmap cl back s) := by
  unfold execMaskBitmap; try dsimp only
  repeat' first
    | with_reducible assumption
    | exact List.Subset.trans (by decide) hp
    | with_reducible apply State.issue_touch
    | with_reducible apply State.loadIssue_touch
    | with_reducible apply State.maskBack_touch
    | with_reducible apply touch_ite
    | with_reducible apply touchR_ite
    | with_reducible apply touchR_next
    | with_reducible intro _
    | split

theorem execMaskRectangle_touch (hp : ([.log, .safe, .stats, .clusters, .job, .upd, .limbers, .stash, .cow, .skid, .sync, .host, .ingest, .snap, .ctr, .out, .free] : List Part) ⊆ ps) (cl : ℕ) (s : State)  (h : Touch ps s0 s) :
    TouchR ps s0 (execMaskRectangle cl s) := by
  unfold execMaskRectangle; try dsimp only
  repeat' first
    | with_reducible assumption
    | exact List.Subset.trans (by decide) hp
    | with_reducible apply State.issue_touch
    | with_reducible apply State.modCl_touch
    | with_reducible apply touchR_next
    | with_reducible intro _

theorem execSyncSignal_touch (hp : ([.log, .safe, .stats, .clusters, .job, .upd, .limbers, .stash, .cow, .skid, .sync, .host, .ingest, .snap, .ctr, .out, .free] : List Part) ⊆ ps) (cl : ℕ) (s : State)  (h : Touch ps s0 s) :
    TouchR ps s0 (execSyncSignal cl s) := by
  unfold execSyncSignal; try dsimp only
  repeat' first
    | with_reducible assumption
    | exact List.Subset.trans (by decide) hp
    | with_reducible apply State.issue_touch
    | with_reducible apply State.modCl_touch
    | with_reducible apply State.place_touch
    | with_reducible apply touchR_next
    | with_reducible refine touch_of_snd (by assumption) ?_
    | with_reducible intro _

theorem execSyncSignalArrival_touch (hp : ([.log, .sync, .host, .ctr, .out] : List Part) ⊆ ps) (n : ℕ) (s : State)  (h : Touch ps s0 s) :
    TouchR ps s0 (execSyncSignalArrival n s) := by
  unfold execSyncSignalArrival; try dsimp only
  repeat' first
    | with_reducible assumption
    | exact List.Subset.trans (by decide) hp
    | with_reducible apply State.arriveSignal_touch
    | exact .inr (hp (by decide))
    | with_reducible exact .inl rfl
    | with_reducible apply touch_ite
    | with_reducible apply touchR_ite
    | with_reducible apply touchR_next
    | with_reducible refine touch_of_some (by assumption) ?_
    | with_reducible intro _
    | split
    | with_reducible refine touch_mk ?_ ?_ ?_ ?_ ?_ ?_ ?_ ?_ ?_ ?_ ?_ ?_ ?_ ?_ ?_ ?_ ?_ ?_ ?_ ?_ ?_ ?_ ?_ ?_ ?_ ?_ ?_ ?_ ?_

theorem execSyncWait_touch (hp : ([.log, .safe, .stats, .clusters, .job, .upd, .limbers, .stash, .cow, .skid, .sync, .host, .ingest, .snap, .ctr, .out, .free] : List Part) ⊆ ps) (cl : ℕ) (s : State)  (h : Touch ps s0 s) :
    TouchR ps s0 (execSyncWait cl s) := by
  unfold execSyncWait; try dsimp only
  repeat' first
    | with_reducible assumption
    | exact List.Subset.trans (by decide) hp
    | with_reducible apply State.issue_touch
    | with_reducible apply State.registerWait_touch
    | with_reducible apply touchR_next
    | with_reducible intro _

theorem execSyncWaitSatisfied_touch (hp : ([.log, .stats, .clusters, .skid, .sync, .host, .ctr, .out] : List Part) ⊆ ps) (cl : ℕ) (s : State)  (h : Touch ps s0 s) :
    TouchR ps s0 (execSyncWaitSatisfied cl s) := by
  unfold execSyncWaitSatisfied; try dsimp only
  repeat' first
    | with_reducible assumption
    | exact List.Subset.trans (by decide) hp
    | with_reducible apply State.settle_touch
    | with_reducible apply State.modCl_touch
    | exact .inr (hp (by decide))
    | with_reducible exact .inl rfl
    | with_reducible apply touch_ite
    | with_reducible apply touchR_ite
    | with_reducible apply touchR_next
    | with_reducible intro _
    | split
    | with_reducible refine touch_mk ?_ ?_ ?_ ?_ ?_ ?_ ?_ ?_ ?_ ?_ ?_ ?_ ?_ ?_ ?_ ?_ ?_ ?_ ?_ ?_ ?_ ?_ ?_ ?_ ?_ ?_ ?_ ?_ ?_

end Sys2Proof.Machine
end

