-- ==== Sys2Proof/Laws/TouchUpdate.lean ====
section
/-! SUPPORT. Which parts of the state the operations of Machine/Update.lean may change. -/

namespace Sys2Proof.Machine

variable {s0 : State} {ps : List Part}

theorem State.setCache_touch (hp : ([.upd] : List Part) ⊆ ps) (s : State) (m : ℕ) (c : List CacheBlock)  (h : Touch ps s0 s) :
    Touch ps s0 (State.setCache s m c) := by
  unfold State.setCache; try dsimp only
  repeat' first
    | with_reducible assumption
    | exact .inr (hp (by decide))
    | with_reducible exact .inl rfl
    | with_reducible refine touch_mk ?_ ?_ ?_ ?_ ?_ ?_ ?_ ?_ ?_ ?_ ?_ ?_ ?_ ?_ ?_ ?_ ?_ ?_ ?_ ?_ ?_ ?_ ?_ ?_ ?_ ?_ ?_ ?_ ?_

theorem State.touchBlock_touch (hp : ([.upd, .mem, .ctr] : List Part) ⊆ ps) (s : State) (m : ℕ) (b : ℕ)  (h : Touch ps s0 s) :
    Touch ps s0 (State.touchBlock s m b) := by
  unfold State.touchBlock; try dsimp only
  repeat' first
    | with_reducible assumption
    | exact List.Subset.trans (by decide) hp
    | with_reducible apply State.setCache_touch
    | with_reducible apply State.bump_touch
    | with_reducible apply State.noteRead_touch
    | exact .inr (hp (by decide))
    | with_reducible exact .inl rfl
    | split
    | with_reducible refine touch_mk ?_ ?_ ?_ ?_ ?_ ?_ ?_ ?_ ?_ ?_ ?_ ?_ ?_ ?_ ?_ ?_ ?_ ?_ ?_ ?_ ?_ ?_ ?_ ?_ ?_ ?_ ?_ ?_ ?_

theorem State.setElem_touch (hp : ([.upd] : List Part) ⊆ ps) (s : State) (m : ℕ) (a : ℕ) (v : ℕ)  (h : Touch ps s0 s) :
    Touch ps s0 (State.setElem s m a v) := by
  unfold State.setElem; try dsimp only
  repeat' first
    | with_reducible assumption
    | exact List.Subset.trans (by decide) hp
    | with_reducible apply State.setCache_touch
    | with_reducible apply touch_ite
    | with_reducible intro _

theorem State.placeRow_touch (hp : ([.log, .stats, .upd, .host, .mem, .ctr, .out] : List Part) ⊆ ps) (s : State) (d : Bytes) (m : Msg) (into : ℕ)  (h : Touch ps s0 s) :
    Touch ps s0 (State.placeRow s d m into) := by
  unfold State.placeRow; try dsimp only
  repeat' first
    | with_reducible assumption
    | exact List.Subset.trans (by decide) hp
    | with_reducible apply State.touchBlock_touch
    | with_reducible apply State.setElem_touch
    | with_reducible apply State.bump_touch
    | with_reducible apply State.addCounts_touch
    | with_reducible apply State.addHist_touch
    | exact .inr (hp (by decide))
    | with_reducible exact .inl rfl
    | with_reducible apply touch_ite
    | with_reducible apply touch_foldl
    | with_reducible intro _
    | split
    | with_reducible refine touch_mk ?_ ?_ ?_ ?_ ?_ ?_ ?_ ?_ ?_ ?_ ?_ ?_ ?_ ?_ ?_ ?_ ?_ ?_ ?_ ?_ ?_ ?_ ?_ ?_ ?_ ?_ ?_ ?_ ?_

theorem State.addHeld_touch (hp : ([.log, .stats, .job, .upd, .host, .mem, .ctr, .out] : List Part) ⊆ ps) (s : State) (d : Bytes) (m : Msg) (into : ℕ)  (h : Touch ps s0 s) :
    Touch ps s0 (State.addHeld s d m into) := by
  unfold State.addHeld; try dsimp only
  repeat' first
    | with_reducible assumption
    | exact List.Subset.trans (by decide) hp
    | with_reducible apply State.eventOnce_touch
    | with_reducible apply State.bump_touch
    | with_reducible apply State.placeRow_touch

theorem State.applyNonFinite_touch (hp : ([.log, .stats, .host, .ctr, .out] : List Part) ⊆ ps) (s : State) (d : Bytes) (k : ℕ) (n : ℕ)  (h : Touch ps s0 s) :
    Touch ps s0 (State.applyNonFinite s d k n) := by
  unfold State.applyNonFinite; try dsimp only
  repeat' first
    | with_reducible assumption
    | exact List.Subset.trans (by decide) hp
    | with_reducible apply State.raiseFlag_touch
    | with_reducible apply State.tallyCounts_touch
    | with_reducible apply touch_ite
    | with_reducible intro _

theorem State.noteGrad_touch (hp : ([.ctr] : List Part) ⊆ ps) (s : State) (i : ℕ) (d : Bytes)  (h : Touch ps s0 s) :
    Touch ps s0 (State.noteGrad s i d) := by
  unfold State.noteGrad; try dsimp only
  repeat' first
    | with_reducible assumption
    | exact List.Subset.trans (by decide) hp
    | with_reducible apply State.noteRead_touch
    | with_reducible apply touch_foldl
    | with_reducible intro _

theorem State.notePass_touch (hp : ([.ctr] : List Part) ⊆ ps) (s : State) (i : ℕ) (d : Bytes) (apply : Bool)  (h : Touch ps s0 s) :
    Touch ps s0 (State.notePass s i d apply) := by
  unfold State.notePass; try dsimp only
  repeat' first
    | with_reducible assumption
    | exact List.Subset.trans (by decide) hp
    | with_reducible apply State.noteRead_touch
    | with_reducible apply State.noteGrad_touch
    | with_reducible apply touch_ite
    | with_reducible intro _
    | split

theorem State.noteWork_touch (hp : ([.log, .stats, .host, .ctr, .out] : List Part) ⊆ ps) (s : State) (d : Bytes) (step : ℕ) (w : Work)  (h : Touch ps s0 s) :
    Touch ps s0 (State.noteWork s d step w) := by
  unfold State.noteWork; try dsimp only
  repeat' first
    | with_reducible assumption
    | exact List.Subset.trans (by decide) hp
    | with_reducible apply State.bump_touch
    | with_reducible apply State.addCounts_touch

theorem State.applyOne_touch (hp : ([.log, .stats, .job, .cow, .host, .mem, .ctr, .out] : List Part) ⊆ ps) (s : State) (k : ℕ) (i : ℕ) (d : Bytes) (clip : ℚ)  (h : Touch ps s0 s) :
    Touch ps s0 (State.applyOne s k i d clip) := by
  unfold State.applyOne; try dsimp only
  repeat' first
    | with_reducible assumption
    | exact List.Subset.trans (by decide) hp
    | with_reducible apply State.notePass_touch
    | with_reducible apply State.toHbm_touch
    | with_reducible apply State.noteWork_touch
    | with_reducible apply State.applyNonFinite_touch
    | with_reducible apply State.addHist_touch
    | with_reducible apply State.addCounts_touch
    | with_reducible apply State.eventOnce_touch
    | with_reducible apply State.bump_touch
    | with_reducible apply touch_ite
    | with_reducible apply touch_foldl
    | with_reducible intro _
    | split

theorem State.finishDesc_touch (hp : ([.log, .upd, .skid, .sync, .host, .mem, .ctr, .out] : List Part) ⊆ ps) (s : State) (k : ℕ) (i : ℕ) (d : Bytes)  (h : Touch ps s0 s) :
    Touch ps s0 (State.finishDesc s k i d) := by
  unfold State.finishDesc; try dsimp only
  repeat' first
    | with_reducible assumption
    | exact List.Subset.trans (by decide) hp
    | with_reducible apply State.setCache_touch
    | with_reducible apply State.signal_touch
    | exact .inr (hp (by decide))
    | with_reducible exact .inl rfl
    | with_reducible apply touch_ite
    | with_reducible intro _
    | with_reducible refine touch_mk ?_ ?_ ?_ ?_ ?_ ?_ ?_ ?_ ?_ ?_ ?_ ?_ ?_ ?_ ?_ ?_ ?_ ?_ ?_ ?_ ?_ ?_ ?_ ?_ ?_ ?_ ?_ ?_ ?_

theorem State.flushCaches_touch (hp : ([.upd, .mem] : List Part) ⊆ ps) (s : State)  (h : Touch ps s0 s) :
    Touch ps s0 (State.flushCaches s) := by
  unfold State.flushCaches; try dsimp only
  repeat' first
    | with_reducible assumption
    | exact .inr (hp (by decide))
    | with_reducible exact .inl rfl
    | with_reducible apply touch_foldl
    | with_reducible intro _
    | with_reducible refine touch_mk ?_ ?_ ?_ ?_ ?_ ?_ ?_ ?_ ?_ ?_ ?_ ?_ ?_ ?_ ?_ ?_ ?_ ?_ ?_ ?_ ?_ ?_ ?_ ?_ ?_ ?_ ?_ ?_ ?_

theorem State.staleRow_touch (hp : ([.log, .stats, .job, .upd, .host, .mem, .ctr, .out] : List Part) ⊆ ps) (s : State) (d : Bytes) (m : Msg) (acc : ℕ)  (h : Touch ps s0 s) :
    Touch ps s0 (State.staleRow s d m acc) := by
  unfold State.staleRow; try dsimp only
  repeat' first
    | with_reducible assumption
    | exact List.Subset.trans (by decide) hp
    | with_reducible apply State.eventOnce_touch
    | with_reducible apply State.bump_touch
    | with_reducible apply State.addHeld_touch
    | exact .inr (hp (by decide))
    | with_reducible exact .inl rfl
    | with_reducible apply touch_ite
    | with_reducible intro _
    | split
    | with_reducible refine touch_mk ?_ ?_ ?_ ?_ ?_ ?_ ?_ ?_ ?_ ?_ ?_ ?_ ?_ ?_ ?_ ?_ ?_ ?_ ?_ ?_ ?_ ?_ ?_ ?_ ?_ ?_ ?_ ?_ ?_

theorem State.gradientRow_touch (hp : ([.log, .safe, .stats, .clusters, .job, .upd, .limbers, .cow, .skid, .host, .ingest, .snap, .mem, .ctr, .out] : List Part) ⊆ ps) (s : State) (m : Msg)  (h : Touch ps s0 s) :
    TouchO ps s0 (State.gradientRow s m) := by
  unfold State.gradientRow; try dsimp only
  repeat' first
    | with_reducible assumption
    | exact List.Subset.trans (by decide) hp
    | with_reducible apply State.fault_touch
    | with_reducible apply State.staleRow_touch
    | with_reducible apply State.placeRow_touch
    | exact .inr (hp (by decide))
    | with_reducible exact .inl rfl
    | with_reducible apply touch_ite
    | with_reducible apply touchO_ite
    | with_reducible apply touchO_some
    | with_reducible exact touchO_none
    | with_reducible intro _
    | split
    | with_reducible refine touch_mk ?_ ?_ ?_ ?_ ?_ ?_ ?_ ?_ ?_ ?_ ?_ ?_ ?_ ?_ ?_ ?_ ?_ ?_ ?_ ?_ ?_ ?_ ?_ ?_ ?_ ?_ ?_ ?_ ?_

theorem State.normApplies_touch (hp : ([.time, .start, .log, .tally, .host, .power, .ctr, .out] : List Part) ⊆ ps) (s : State) (k : ℕ)  (h : Touch ps s0 s) :
    Touch ps s0 (State.normApplies s k) := by
  unfold State.normApplies; try dsimp only
  repeat' first
    | with_reducible assumption
    | exact List.Subset.trans (by decide) hp
    | with_reducible apply State.safePoint_touch
    | with_reducible apply touch_ite
    | with_reducible apply touch_foldl
    | with_reducible intro _

theorem State.openBuffers_touch (hp : ([.upd] : List Part) ⊆ ps) (s : State) (k : ℕ)  (h : Touch ps s0 s) :
    Touch ps s0 (State.openBuffers s k) := by
  unfold State.openBuffers; try dsimp only
  repeat' first
    | with_reducible assumption
    | exact .inr (hp (by decide))
    | with_reducible exact .inl rfl
    | with_reducible refine touch_mk ?_ ?_ ?_ ?_ ?_ ?_ ?_ ?_ ?_ ?_ ?_ ?_ ?_ ?_ ?_ ?_ ?_ ?_ ?_ ?_ ?_ ?_ ?_ ?_ ?_ ?_ ?_ ?_ ?_

theorem State.openNorm_touch (hp : ([.time, .start, .log, .upd, .tally, .host, .power, .mem, .ctr, .out] : List Part) ⊆ ps) (s : State) (k : ℕ)  (h : Touch ps s0 s) :
    Touch ps s0 (State.openNorm s k) := by
  unfold State.openNorm; try dsimp only
  repeat' first
    | with_reducible assumption
    | exact List.Subset.trans (by decide) hp
    | with_reducible apply State.normApplies_touch
    | with_reducible apply State.event_touch
    | with_reducible apply State.flushCaches_touch
    | exact .inr (hp (by decide))
    | with_reducible exact .inl rfl
    | with_reducible apply touch_ite
    | with_reducible apply touch_foldl
    | with_reducible intro _
    | split
    | with_reducible refine touch_mk ?_ ?_ ?_ ?_ ?_ ?_ ?_ ?_ ?_ ?_ ?_ ?_ ?_ ?_ ?_ ?_ ?_ ?_ ?_ ?_ ?_ ?_ ?_ ?_ ?_ ?_ ?_ ?_ ?_

theorem State.releaseStale_touch (hp : ([.log, .stats, .job, .upd, .host, .mem, .ctr, .out] : List Part) ⊆ ps) (s : State) (k : ℕ)  (h : Touch ps s0 s) :
    Touch ps s0 (State.releaseStale s k) := by
  unfold State.releaseStale; try dsimp only
  repeat' first
    | with_reducible assumption
    | exact List.Subset.trans (by decide) hp
    | with_reducible apply State.addHeld_touch
    | exact .inr (hp (by decide))
    | with_reducible exact .inl rfl
    | with_reducible apply touch_foldl
    | with_reducible intro _
    | split
    | with_reducible refine touch_mk ?_ ?_ ?_ ?_ ?_ ?_ ?_ ?_ ?_ ?_ ?_ ?_ ?_ ?_ ?_ ?_ ?_ ?_ ?_ ?_ ?_ ?_ ?_ ?_ ?_ ?_ ?_ ?_ ?_

theorem State.takeDecision_touch (hp : ([.log, .safe, .stats, .clusters, .job, .upd, .limbers, .cow, .skid, .net, .host, .ingest, .snap, .ctr, .out] : List Part) ⊆ ps) (s : State) (r : CombineRec)  (h : Touch ps s0 s) :
    Touch ps s0 (State.takeDecision s r) := by
  unfold State.takeDecision; try dsimp only
  repeat' first
    | with_reducible assumption
    | exact List.Subset.trans (by decide) hp
    | with_reducible apply State.fault_touch
    | with_reducible apply State.event_touch
    | with_reducible apply State.bump_touch
    | exact .inr (hp (by decide))
    | with_reducible exact .inl rfl
    | with_reducible apply touch_foldl
    | with_reducible intro _
    | split
    | with_reducible refine touch_mk ?_ ?_ ?_ ?_ ?_ ?_ ?_ ?_ ?_ ?_ ?_ ?_ ?_ ?_ ?_ ?_ ?_ ?_ ?_ ?_ ?_ ?_ ?_ ?_ ?_ ?_ ?_ ?_ ?_

theorem State.takeRow_touch (hp : ([.log, .safe, .stats, .clusters, .job, .upd, .limbers, .cow, .cxl, .base, .skid, .host, .ingest, .snap, .mem, .ctr, .out] : List Part) ⊆ ps) (s back : State) (checks : List MemCheck) (m : Msg) (ack : State → State) (hack : ∀ s, Touch ps s0 s → Touch ps s0 (ack s))
    (h : Touch ps s0 s) (hb : Touch ps s0 back) : Touch ps s0 (s.takeRow back checks m ack) := by
  unfold State.takeRow
  have hc := State.checked_touch (List.Subset.trans (by decide) hp) s checks h
  generalize s.checked checks = c at hc ⊢
  obtain ⟨ok, u⟩ := c
  refine touch_ite (fun _ => hc) fun _ => ?_
  have h1 := State.gradientRow_touch (List.Subset.trans (by decide) hp) u m hc
  generalize u.gradientRow m = o at h1 ⊢
  cases o with
  | none => exact hb
  | some t => exact touch_ite (fun _ => h1 t rfl) fun _ => hack _ (h1 t rfl)

theorem State.tryUp_touch (hp : ([.log, .upd, .skid, .out] : List Part) ⊆ ps) (s : State)  (h : Touch ps s0 s) :
    Touch ps s0 (State.tryUp s) := by
  unfold State.tryUp; try dsimp only
  repeat' first
    | with_reducible assumption
    | exact List.Subset.trans (by decide) hp
    | with_reducible apply State.sendTo_touch
    | exact .inr (hp (by decide))
    | with_reducible exact .inl rfl
    | with_reducible apply touch_ite
    | with_reducible apply touch_foldl
    | with_reducible intro _
    | split
    | with_reducible refine touch_mk ?_ ?_ ?_ ?_ ?_ ?_ ?_ ?_ ?_ ?_ ?_ ?_ ?_ ?_ ?_ ?_ ?_ ?_ ?_ ?_ ?_ ?_ ?_ ?_ ?_ ?_ ?_ ?_ ?_

theorem execApplyDescriptorDone_touch (hp : ([.log, .safe, .stats, .clusters, .job, .upd, .limbers, .cow, .cxl, .base, .skid, .sync, .host, .ingest, .snap, .mem, .ctr, .out] : List Part) ⊆ ps) (i : ℕ) (checks : List MemCheck) (s : State)  (h : Touch ps s0 s) :
    TouchR ps s0 (execApplyDescriptorDone i checks s) := by
  unfold execApplyDescriptorDone; try dsimp only
  repeat' first
    | with_reducible assumption
    | exact List.Subset.trans (by decide) hp
    | with_reducible apply State.finishDesc_touch
    | with_reducible apply State.checked_touch
    | with_reducible apply State.applyOne_touch
    | exact .inr (hp (by decide))
    | with_reducible exact .inl rfl
    | with_reducible apply touch_ite
    | with_reducible apply touchR_ite
    | with_reducible apply touchR_next
    | with_reducible refine touch_of_snd (by assumption) ?_
    | with_reducible intro _
    | split
    | with_reducible refine touch_mk ?_ ?_ ?_ ?_ ?_ ?_ ?_ ?_ ?_ ?_ ?_ ?_ ?_ ?_ ?_ ?_ ?_ ?_ ?_ ?_ ?_ ?_ ?_ ?_ ?_ ?_ ?_ ?_ ?_

theorem execCombineDown_touch (hp : ([.log, .safe, .stats, .clusters, .job, .upd, .limbers, .cow, .skid, .net, .host, .ingest, .snap, .ctr, .out] : List Part) ⊆ ps) (m : Option Msg) (s : State)  (h : Touch ps s0 s) :
    TouchR ps s0 (execCombineDown m s) := by
  unfold execCombineDown; try dsimp only
  repeat' first
    | with_reducible assumption
    | exact List.Subset.trans (by decide) hp
    | with_reducible apply State.takeDecision_touch
    | with_reducible apply State.sendTo_touch
    | with_reducible apply State.taken_touch
    | with_reducible apply touch_ite
    | with_reducible apply touchR_ite
    | with_reducible apply touchR_next
    | with_reducible apply touch_foldl
    | with_reducible intro _
    | split

theorem execCombineUp_touch (hp : ([.log, .upd, .skid, .net, .out] : List Part) ⊆ ps) (m : Msg) (s : State)  (h : Touch ps s0 s) :
    TouchR ps s0 (execCombineUp m s) := by
  unfold execCombineUp; try dsimp only
  repeat' first
    | with_reducible assumption
    | exact List.Subset.trans (by decide) hp
    | with_reducible apply State.taken_touch
    | with_reducible apply State.tryUp_touch
    | exact .inr (hp (by decide))
    | with_reducible exact .inl rfl
    | with_reducible apply touch_ite
    | with_reducible apply touchR_ite
    | with_reducible apply touchR_next
    | with_reducible intro _
    | with_reducible refine touch_mk ?_ ?_ ?_ ?_ ?_ ?_ ?_ ?_ ?_ ?_ ?_ ?_ ?_ ?_ ?_ ?_ ?_ ?_ ?_ ?_ ?_ ?_ ?_ ?_ ?_ ?_ ?_ ?_ ?_

theorem execContributionDeadline_touch (hp : ([.upd] : List Part) ⊆ ps) (i : ℕ) (s : State)  (h : Touch ps s0 s) :
    TouchR ps s0 (execContributionDeadline i s) := by
  unfold execContributionDeadline; try dsimp only
  repeat' first
    | with_reducible assumption
    | exact .inr (hp (by decide))
    | with_reducible exact .inl rfl
    | with_reducible apply touch_ite
    | with_reducible apply touchR_ite
    | with_reducible apply touchR_next
    | with_reducible intro _
    | split
    | with_reducible refine touch_mk ?_ ?_ ?_ ?_ ?_ ?_ ?_ ?_ ?_ ?_ ?_ ?_ ?_ ?_ ?_ ?_ ?_ ?_ ?_ ?_ ?_ ?_ ?_ ?_ ?_ ?_ ?_ ?_ ?_

theorem execGradient_touch (hp : ([.log, .safe, .stats, .clusters, .job, .upd, .limbers, .cow, .cxl, .base, .skid, .net, .host, .ingest, .snap, .mem, .ctr, .out] : List Part) ⊆ ps) (m : Option Msg) (checks : List MemCheck) (s : State) (h : Touch ps s0 s) : TouchR ps s0 (execGradient m checks s) := by
  unfold execGradient
  refine touchR_next (touch_ite (fun _ => h) fun _ => ?_)
  split
  · exact h
  · exact State.takeRow_touch (List.Subset.trans (by decide) hp) _ _ _ _ _ (fun _ h => h) (touch_mk h (.inl rfl) (.inl rfl) (.inl rfl) (.inl rfl) (.inl rfl) (.inl rfl) (.inl rfl) (.inl rfl) (.inr (hp (by decide))) (.inl rfl) (.inl rfl) (.inl rfl) (.inl rfl) (.inl rfl) (.inl rfl) (.inl rfl) (.inl rfl) (.inl rfl) (.inl rfl) (.inl rfl) (.inl rfl) (.inl rfl) (.inl rfl) (.inl rfl) (.inl rfl) (.inl rfl) (.inl rfl) (.inl rfl)) h
  · exact State.taken_touch (List.Subset.trans (by decide) hp) _ _ _ (fun t ht => State.takeRow_touch (List.Subset.trans (by decide) hp) _ _ _ _ _ (fun _ h => State.e2eAck_touch (List.Subset.trans (by decide) hp) _ _ h) ht h) h

theorem execNormPassComplete_touch (hp : ([.log, .safe, .stats, .clusters, .job, .upd, .limbers, .cow, .cxl, .base, .skid, .host, .ingest, .snap, .ctr, .out] : List Part) ⊆ ps) (checks : List MemCheck) (s : State)  (h : Touch ps s0 s) :
    TouchR ps s0 (execNormPassComplete checks s) := by
  unfold execNormPassComplete; try dsimp only
  repeat' first
    | with_reducible assumption
    | exact List.Subset.trans (by decide) hp
    | with_reducible apply State.checked_touch
    | with_reducible apply State.notePass_touch
    | with_reducible apply State.noteWork_touch
    | with_reducible apply State.tryUp_touch
    | exact .inr (hp (by decide))
    | with_reducible exact .inl rfl
    | with_reducible apply touch_ite
    | with_reducible apply touchR_ite
    | with_reducible apply touchR_next
    | with_reducible apply touch_foldl
    | with_reducible refine touch_of_snd (by assumption) ?_
    | with_reducible intro _
    | split
    | with_reducible refine touch_mk ?_ ?_ ?_ ?_ ?_ ?_ ?_ ?_ ?_ ?_ ?_ ?_ ?_ ?_ ?_ ?_ ?_ ?_ ?_ ?_ ?_ ?_ ?_ ?_ ?_ ?_ ?_ ?_ ?_

theorem execWithdraw_touch (hp : ([.log, .upd, .skid, .net, .ctr, .out] : List Part) ⊆ ps) (m : Msg) (s : State)  (h : Touch ps s0 s) :
    TouchR ps s0 (execWithdraw m s) := by
  unfold execWithdraw; try dsimp only
  repeat' first
    | with_reducible assumption
    | exact List.Subset.trans (by decide) hp
    | with_reducible apply State.taken_touch
    | with_reducible apply State.e2eAck_touch
    | with_reducible apply State.bump_touch
    | with_reducible apply State.noteWithdrawn_touch
    | with_reducible apply touchR_next
    | with_reducible intro _

end Sys2Proof.Machine
end

