-- ==== Sys2Proof/Laws/TouchIngest.lean ====
section
/-! SUPPORT. Which parts of the state the operations of Machine/Ingest.lean may change. -/

namespace Sys2Proof.Machine

variable {s0 : State} {ps : List Part}

theorem State.ingestOnce_touch (hp : ([.log, .job, .host, .ctr, .out] : List Part) ⊆ ps) (s : State) (st : ℕ) (n : ℕ) (code : ℕ) (detail : Bytes)  (h : Touch ps s0 s) :
    Touch ps s0 (State.ingestOnce s st n code detail) := by
  unfold State.ingestOnce; try dsimp only
  repeat' first
    | with_reducible assumption
    | exact List.Subset.trans (by decide) hp
    | with_reducible apply State.eventOnce_touch

theorem State.modStand_touch (hp : ([.ingest] : List Part) ⊆ ps) (s : State) (st : ℕ) (f : Stand → Stand)  (h : Touch ps s0 s) :
    Touch ps s0 (State.modStand s st f) := by
  unfold State.modStand; try dsimp only
  repeat' first
    | with_reducible assumption
    | exact .inr (hp (by decide))
    | with_reducible exact .inl rfl
    | with_reducible refine touch_mk ?_ ?_ ?_ ?_ ?_ ?_ ?_ ?_ ?_ ?_ ?_ ?_ ?_ ?_ ?_ ?_ ?_ ?_ ?_ ?_ ?_ ?_ ?_ ?_ ?_ ?_ ?_ ?_ ?_

theorem State.writeBoxes_touch (hp : ([.log, .job, .cow, .host, .ingest, .mem, .ctr, .out] : List Part) ⊆ ps) (s : State) (st : ℕ) (k : ℕ) (key : ℕ) (d : Bytes) (row : ℕ) (first : ℕ) (e : Sample)  (h : Touch ps s0 s) :
    Touch ps s0 (State.writeBoxes s st k key d row first e).2 := by
  unfold State.writeBoxes; try dsimp only
  repeat' first
    | with_reducible assumption
    | exact List.Subset.trans (by decide) hp
    | with_reducible apply State.ingestOnce_touch
    | with_reducible apply State.bump_touch
    | with_reducible apply State.toHbm_touch
    | with_reducible apply State.modStand_touch
    | with_reducible apply touch_ite
    | with_reducible apply touch_foldl_snd
    | with_reducible apply touch_ite_snd
    | with_reducible intro _
    | dsimp only

theorem State.bumpStream_touch (hp : ([.ctr] : List Part) ⊆ ps) (s : State) (n : ℕ) (i : ℕ)  (h : Touch ps s0 s) :
    Touch ps s0 (State.bumpStream s n i) := by
  unfold State.bumpStream; try dsimp only
  repeat' first
    | with_reducible assumption
    | exact List.Subset.trans (by decide) hp
    | with_reducible apply State.bump_touch
    | with_reducible apply touch_ite
    | with_reducible intro _

theorem State.admitSample_touch (hp : ([.log, .job, .cow, .host, .ingest, .mem, .ctr, .out] : List Part) ⊆ ps) (s : State) (st : ℕ) (k : ℕ) (key : ℕ) (d : Bytes) (row : ℕ) (first : ℕ) (e : Sample)  (h : Touch ps s0 s) :
    Touch ps s0 (State.admitSample s st k key d row first e) := by
  unfold State.admitSample; try dsimp only
  repeat' first
    | with_reducible assumption
    | exact List.Subset.trans (by decide) hp
    | with_reducible apply State.writeBoxes_touch
    | with_reducible apply State.receipt_touch
    | with_reducible apply State.bump_touch
    | with_reducible apply State.bumpStream_touch
    | with_reducible apply State.modStand_touch
    | with_reducible apply touch_ite
    | with_reducible refine touch_of_snd (by assumption) ?_
    | with_reducible intro _
    | split

theorem State.dropReceipt_touch (hp : ([.log, .job, .host, .ctr, .out] : List Part) ⊆ ps) (s : State) (st : ℕ) (h' : Bytes) (carries : ℕ) (reason : ℕ)  (h : Touch ps s0 s) :
    Touch ps s0 (State.dropReceipt s st h' carries reason) := by
  unfold State.dropReceipt; try dsimp only
  repeat' first
    | with_reducible assumption
    | exact List.Subset.trans (by decide) hp
    | with_reducible apply State.receipt_touch
    | with_reducible apply State.bumpStream_touch
    | with_reducible apply State.bump_touch
    | with_reducible apply State.ingestOnce_touch

theorem State.arrive_touch (hp : ([.log, .job, .host, .ingest, .ctr, .out] : List Part) ⊆ ps) (s : State) (st : ℕ) (h' : Bytes) (payload : Bytes) (boxes : Bytes)  (h : Touch ps s0 s) :
    Touch ps s0 (State.arrive s st h' payload boxes) := by
  unfold State.arrive; try dsimp only
  repeat' first
    | with_reducible assumption
    | exact List.Subset.trans (by decide) hp
    | with_reducible apply State.bumpStream_touch
    | with_reducible apply State.dropReceipt_touch
    | with_reducible apply State.modStand_touch
    | with_reducible apply touch_ite
    | with_reducible intro _

theorem State.placeSample_touch (hp : ([.ingest] : List Part) ⊆ ps) (s : State) (st : ℕ) (e : Sample)  (h : Touch ps s0 s) :
    Touch ps s0 (State.placeSample s st e) := by
  unfold State.placeSample; try dsimp only
  repeat' first
    | with_reducible assumption
    | exact List.Subset.trans (by decide) hp
    | with_reducible apply State.modStand_touch
    | with_reducible apply touch_ite
    | with_reducible intro _
    | split

theorem State.dropSample_touch (hp : ([.log, .job, .host, .ingest, .ctr, .out] : List Part) ⊆ ps) (s : State) (st : ℕ) (reason : ℕ) (e : Sample)  (h : Touch ps s0 s) :
    Touch ps s0 (State.dropSample s st reason e) := by
  unfold State.dropSample; try dsimp only
  repeat' first
    | with_reducible assumption
    | exact List.Subset.trans (by decide) hp
    | with_reducible apply State.dropReceipt_touch
    | with_reducible apply State.modStand_touch

theorem State.carrySample_touch (hp : ([.log, .job, .host, .ingest, .ctr, .out] : List Part) ⊆ ps) (s : State) (st : ℕ) (k : ℕ) (e : Sample)  (h : Touch ps s0 s) :
    Touch ps s0 (State.carrySample s st k e) := by
  unfold State.carrySample; try dsimp only
  repeat' first
    | with_reducible assumption
    | exact List.Subset.trans (by decide) hp
    | with_reducible apply State.modStand_touch
    | with_reducible apply State.placeSample_touch
    | with_reducible apply State.bumpStream_touch
    | with_reducible apply State.receipt_touch
    | with_reducible apply State.dropSample_touch
    | with_reducible apply touch_ite
    | with_reducible intro _

theorem State.signalRows_touch (hp : ([.log, .skid, .sync, .host, .ingest, .ctr, .out] : List Part) ⊆ ps) (s : State) (st : ℕ) (g : ℕ) (k : ℕ) (d : Bytes)  (h : Touch ps s0 s) :
    Touch ps s0 (State.signalRows s st g k d) := by
  unfold State.signalRows; try dsimp only
  repeat' first
    | with_reducible assumption
    | exact List.Subset.trans (by decide) hp
    | with_reducible apply State.modStand_touch
    | with_reducible apply State.signal_touch
    | with_reducible apply touch_ite
    | with_reducible intro _

theorem State.guardRows_touch (hp : ([.log, .skid, .sync, .host, .ingest, .ctr, .out] : List Part) ⊆ ps) (s : State) (st : ℕ) (g : ℕ) (k : ℕ) (d : Bytes)  (h : Touch ps s0 s) :
    Touch ps s0 (State.guardRows s st g k d) := by
  unfold State.guardRows; try dsimp only
  repeat' first
    | with_reducible assumption
    | exact List.Subset.trans (by decide) hp
    | with_reducible apply State.modStand_touch
    | with_reducible apply State.signalRows_touch
    | with_reducible apply touch_ite
    | with_reducible apply touch_foldl
    | with_reducible intro _

theorem State.setBounds_touch (hp : ([.ingest] : List Part) ⊆ ps) (s : State) (st : ℕ) (k : ℕ) (g : ℕ) (d : Bytes)  (h : Touch ps s0 s) :
    Touch ps s0 (State.setBounds s st k g d) := by
  unfold State.setBounds; try dsimp only
  repeat' first
    | with_reducible assumption
    | exact .inr (hp (by decide))
    | with_reducible exact .inl rfl
    | with_reducible apply touch_ite
    | with_reducible intro _
    | with_reducible refine touch_mk ?_ ?_ ?_ ?_ ?_ ?_ ?_ ?_ ?_ ?_ ?_ ?_ ?_ ?_ ?_ ?_ ?_ ?_ ?_ ?_ ?_ ?_ ?_ ?_ ?_ ?_ ?_ ?_ ?_

theorem State.fillPool_touch (hp : ([.ingest] : List Part) ⊆ ps) (s : State) (st : ℕ)  (h : Touch ps s0 s) :
    Touch ps s0 (State.fillPool s st) := by
  unfold State.fillPool; try dsimp only
  repeat' first
    | with_reducible assumption
    | exact List.Subset.trans (by decide) hp
    | with_reducible apply State.modStand_touch
    | with_reducible apply touch_ite
    | with_reducible apply touch_foldl
    | with_reducible intro _

theorem State.takeSamples_touch (hp : ([.log, .job, .host, .ingest, .snap, .ctr, .out] : List Part) ⊆ ps) (s : State) (st fuel : ℕ) (h : Touch ps s0 s) : Touch ps s0 (s.takeSamples st fuel) := by
  induction fuel generalizing s with
  | zero => exact h
  | succ n ih =>
    unfold State.takeSamples
    split
    · exact h
    · refine touch_ite (fun _ => h) fun _ => touch_ite (fun _ => State.closeWith_touch (List.Subset.trans (by decide) hp) _ _ _ (State.dropReceipt_touch (List.Subset.trans (by decide) hp) _ _ _ _ _ (State.bumpStream_touch (List.Subset.trans (by decide) hp) _ _ _ h))) fun _ =>
        touch_ite (fun _ => h) fun _ => ih _ (State.arrive_touch (List.Subset.trans (by decide) hp) _ _ _ _ _ (State.modFlow_touch (List.Subset.trans (by decide) hp) _ _ _ h))

theorem State.sendAck_touch (hp : ([.host, .ctr, .out] : List Part) ⊆ ps) (s : State) (f : Flow) (n : ℕ)  (h : Touch ps s0 s) :
    Touch ps s0 (State.sendAck s f n) := by
  unfold State.sendAck; try dsimp only
  repeat' first
    | with_reducible assumption
    | exact List.Subset.trans (by decide) hp
    | with_reducible apply State.sendHost_touch
    | with_reducible apply State.modFlow_touch
    | with_reducible intro _

theorem State.reopenWindow_touch (hp : ([.host, .ctr, .out] : List Part) ⊆ ps) (s : State) (st : ℕ)  (h : Touch ps s0 s) :
    Touch ps s0 (State.reopenWindow s st) := by
  unfold State.reopenWindow; try dsimp only
  repeat' first
    | with_reducible assumption
    | exact List.Subset.trans (by decide) hp
    | with_reducible apply State.sendAck_touch
    | with_reducible apply touch_ite
    | with_reducible intro _
    | split

theorem State.settleStand_touch (hp : ([.log, .job, .host, .ingest, .snap, .ctr, .out] : List Part) ⊆ ps) (s : State) (st : ℕ)  (h : Touch ps s0 s) :
    Touch ps s0 (State.settleStand s st) := by
  unfold State.settleStand; try dsimp only
  repeat' first
    | with_reducible assumption
    | exact List.Subset.trans (by decide) hp
    | with_reducible apply State.fillPool_touch
    | with_reducible apply State.takeSamples_touch
    | with_reducible apply State.reopenWindow_touch
    | with_reducible apply State.ingestOnce_touch
    | with_reducible apply touch_ite
    | with_reducible intro _
    | split

theorem State.dropStopped_touch (hp : ([.log, .job, .host, .ingest, .ctr, .out] : List Part) ⊆ ps) (s : State) (st : ℕ)  (h : Touch ps s0 s) :
    Touch ps s0 (State.dropStopped s st) := by
  unfold State.dropStopped; try dsimp only
  repeat' first
    | with_reducible assumption
    | exact List.Subset.trans (by decide) hp
    | with_reducible apply State.dropSample_touch
    | with_reducible apply touch_foldl
    | with_reducible intro _

theorem State.standDeadline_touch (hp : ([.log, .job, .skid, .sync, .host, .ingest, .snap, .ctr, .out] : List Part) ⊆ ps) (s : State) (k : ℕ) (st : ℕ)  (h : Touch ps s0 s) :
    Touch ps s0 (State.standDeadline s k st) := by
  unfold State.standDeadline; try dsimp only
  repeat' first
    | with_reducible assumption
    | exact List.Subset.trans (by decide) hp
    | with_reducible apply State.dropSample_touch
    | with_reducible apply State.guardRows_touch
    | with_reducible apply State.event_touch
    | with_reducible apply State.signalRows_touch
    | with_reducible apply State.setBounds_touch
    | with_reducible apply State.modStand_touch
    | with_reducible apply State.carrySample_touch
    | with_reducible apply State.settleStand_touch
    | with_reducible apply State.dropStopped_touch
    | exact .inr (hp (by decide))
    | with_reducible exact .inl rfl
    | with_reducible apply touch_ite
    | with_reducible apply touch_foldl
    | with_reducible intro _
    | split
    | with_reducible refine touch_mk ?_ ?_ ?_ ?_ ?_ ?_ ?_ ?_ ?_ ?_ ?_ ?_ ?_ ?_ ?_ ?_ ?_ ?_ ?_ ?_ ?_ ?_ ?_ ?_ ?_ ?_ ?_ ?_ ?_

theorem State.deadline_touch (hp : ([.log, .job, .skid, .sync, .host, .ingest, .snap, .ctr, .out] : List Part) ⊆ ps) (s : State) (k : ℕ)  (h : Touch ps s0 s) :
    Touch ps s0 (State.deadline s k) := by
  unfold State.deadline; try dsimp only
  repeat' first
    | with_reducible assumption
    | exact List.Subset.trans (by decide) hp
    | with_reducible apply State.standDeadline_touch
    | exact .inr (hp (by decide))
    | with_reducible exact .inl rfl
    | with_reducible apply touch_ite
    | with_reducible apply touch_foldl
    | with_reducible intro _
    | with_reducible refine touch_mk ?_ ?_ ?_ ?_ ?_ ?_ ?_ ?_ ?_ ?_ ?_ ?_ ?_ ?_ ?_ ?_ ?_ ?_ ?_ ?_ ?_ ?_ ?_ ?_ ?_ ?_ ?_ ?_ ?_

theorem State.stemmed_touch (hp : ([.log, .stats, .limbers, .host, .ctr, .out] : List Part) ⊆ ps) (s : State) (st : ℕ) (step : ℕ) (d : Bytes) (bs : Bytes)  (h : Touch ps s0 s) :
    Touch ps s0 (State.stemmed s st step d bs).2 := by
  unfold State.stemmed; try dsimp only
  repeat' first
    | with_reducible assumption
    | exact List.Subset.trans (by decide) hp
    | with_reducible apply State.modLimber_touch
    | with_reducible apply State.addTally_touch
    | with_reducible apply touch_foldl_snd
    | with_reducible intro _
    | split
    | dsimp only

theorem State.finishDecode_touch (hp : ([.log, .stats, .job, .limbers, .host, .ingest, .ctr, .out] : List Part) ⊆ ps) (s : State) (st : ℕ) (d : Bytes) (e : Sample) (truncated : Bool) (h : Touch ps s0 s) :
    Touch ps s0 (s.finishDecode st d e truncated) := by
  unfold State.finishDecode
  generalize s.converted d e = c
  obtain ⟨bs, segs, bad⟩ := c
  refine touch_ite (fun _ => State.dropSample_touch (List.Subset.trans (by decide) hp) _ _ _ _ h) fun _ => ?_
  dsimp only
  have h1 := touch_ite (c := bad = 0) (fun _ => h) fun _ => State.addCounts_touch (List.Subset.trans (by decide) hp) s (bkSrc st) e.step 0
    (if smFormat e.header = 9 ∧ bjForm d = 1 then fBF16 else fFP32) { nonFinite := bad } h
  generalize (if bad = 0 then s else _) = t at h1 ⊢
  have h2 := State.stemmed_touch (List.Subset.trans (by decide) hp) t st e.step d bs h1
  generalize t.stemmed st e.step d bs = q at h2 ⊢
  obtain ⟨o, u⟩ := q
  exact touch_ite (fun _ => State.modStand_touch (List.Subset.trans (by decide) hp) _ _ _ h2) fun _ => State.ingestOnce_touch (List.Subset.trans (by decide) hp) _ _ _ _ _ (State.modStand_touch (List.Subset.trans (by decide) hp) _ _ _ h2)

theorem State.endDecode_touch (hp : ([.log, .stats, .job, .limbers, .host, .ingest, .ctr, .out] : List Part) ⊆ ps) (s : State) (st : ℕ) (d : Bytes) (e : Sample)  (h : Touch ps s0 s) :
    Touch ps s0 (State.endDecode s st d e) := by
  unfold State.endDecode; try dsimp only
  repeat' first
    | with_reducible assumption
    | exact List.Subset.trans (by decide) hp
    | with_reducible apply State.dropSample_touch
    | with_reducible apply State.finishDecode_touch
    | with_reducible apply touch_ite
    | with_reducible intro _
    | split

theorem State.ingestArm_touch (hp : ([.log, .job, .host, .ingest, .snap, .ctr, .out] : List Part) ⊆ ps) (s : State)  (h : Touch ps s0 s) :
    Touch ps s0 (State.ingestArm s) := by
  unfold State.ingestArm; try dsimp only
  repeat' first
    | with_reducible assumption
    | exact List.Subset.trans (by decide) hp
    | with_reducible apply State.dropSample_touch
    | with_reducible apply State.modStand_touch
    | with_reducible apply State.settleStand_touch
    | with_reducible apply touch_ite
    | with_reducible apply touch_foldl
    | with_reducible intro _

theorem State.ingestStop_touch (hp : ([.log, .job, .host, .ingest, .snap, .ctr, .out] : List Part) ⊆ ps) (s : State)  (h : Touch ps s0 s) :
    Touch ps s0 (State.ingestStop s) := by
  unfold State.ingestStop; try dsimp only
  repeat' first
    | with_reducible assumption
    | exact List.Subset.trans (by decide) hp
    | with_reducible apply State.laterReceipts_touch
    | with_reducible apply State.modStand_touch
    | with_reducible apply State.settleStand_touch
    | with_reducible apply State.dropStopped_touch
    | exact .inr (hp (by decide))
    | with_reducible exact .inl rfl
    | with_reducible apply touch_foldl
    | with_reducible intro _
    | with_reducible refine touch_mk ?_ ?_ ?_ ?_ ?_ ?_ ?_ ?_ ?_ ?_ ?_ ?_ ?_ ?_ ?_ ?_ ?_ ?_ ?_ ?_ ?_ ?_ ?_ ?_ ?_ ?_ ?_ ?_ ?_

theorem State.openAdmit_touch (hp : ([.ingest] : List Part) ⊆ ps) (s : State) (k : ℕ)  (h : Touch ps s0 s) :
    Touch ps s0 (State.openAdmit s k) := by
  unfold State.openAdmit; try dsimp only
  repeat' first
    | with_reducible assumption
    | exact List.Subset.trans (by decide) hp
    | with_reducible apply State.modStand_touch
    | with_reducible apply State.placeSample_touch
    | exact .inr (hp (by decide))
    | with_reducible exact .inl rfl
    | with_reducible apply touch_foldl
    | with_reducible intro _
    | with_reducible refine touch_mk ?_ ?_ ?_ ?_ ?_ ?_ ?_ ?_ ?_ ?_ ?_ ?_ ?_ ?_ ?_ ?_ ?_ ?_ ?_ ?_ ?_ ?_ ?_ ?_ ?_ ?_ ?_ ?_ ?_

theorem State.writePacked_touch (hp : ([.log, .job, .cow, .skid, .sync, .host, .ingest, .mem, .ctr, .out] : List Part) ⊆ ps) (s : State) (st g k i : ℕ) (d : Bytes) (r : PackRow) (h : Touch ps s0 s) :
    Touch ps s0 (s.writePacked st g k i d r) := by
  unfold State.writePacked
  generalize packedRowBytes (s.stand st) d r = p
  obtain ⟨data, marks⟩ := p
  dsimp only
  have h1 := touch_foldl (f := fun s p => match (s.stand st).sample p.1 with
      | some e => s.admitSample st k (rowKey g k) d i p.2.1 e | none => s) r.parts (fun s p h => by
        generalize (s.stand st).sample p.1 = o
        cases o with
        | none => exact h
        | some e => exact State.admitSample_touch (List.Subset.trans (by decide) hp) _ _ _ _ _ _ _ _ h)
    (State.bump_touch (List.Subset.trans (by decide) hp) _ (kBkRows st) 1 (State.toHbm_touch (List.Subset.trans (by decide) hp) _ (s.rowSet st k d + i * rwRowBytes d + up64 (rwLength d * rwPos d)) marks
      (State.toHbm_touch (List.Subset.trans (by decide) hp) _ (s.rowSet st k d + i * rwRowBytes d) data h)))
  exact touch_ite (fun _ => State.signalRows_touch (List.Subset.trans (by decide) hp) _ _ _ _ _ (State.modStand_touch (List.Subset.trans (by decide) hp) _ _ _ h1)) fun _ => State.modStand_touch (List.Subset.trans (by decide) hp) _ _ _ h1

theorem execAdmissionDeadline_touch (hp : ([.log, .job, .skid, .sync, .host, .ingest, .snap, .ctr, .out] : List Part) ⊆ ps) (s : State)  (h : Touch ps s0 s) :
    TouchR ps s0 (execAdmissionDeadline s) := by
  unfold execAdmissionDeadline; try dsimp only
  repeat' first
    | with_reducible assumption
    | exact List.Subset.trans (by decide) hp
    | with_reducible apply State.deadline_touch
    | with_reducible apply touch_ite
    | with_reducible apply touchR_ite
    | with_reducible apply touchR_next
    | with_reducible intro _
    | split

theorem execDecodeBudgetExceeded_touch (hp : ([.log, .job, .host, .ingest, .snap, .ctr, .out] : List Part) ⊆ ps) (stand : ℕ) (arrival : ℕ) (s : State)  (h : Touch ps s0 s) :
    TouchR ps s0 (execDecodeBudgetExceeded stand arrival s) := by
  unfold execDecodeBudgetExceeded; try dsimp only
  repeat' first
    | with_reducible assumption
    | exact List.Subset.trans (by decide) hp
    | with_reducible apply State.settleStand_touch
    | with_reducible apply State.dropSample_touch
    | with_reducible apply touch_ite
    | with_reducible apply touchR_ite
    | with_reducible apply touchR_next
    | with_reducible intro _
    | split

theorem execDecodeLoad_touch (hp : ([.log, .host, .ingest, .ctr, .out] : List Part) ⊆ ps) (stand : ℕ) (video : ℕ) (audio : ℕ) (text : ℕ) (s : State)  (h : Touch ps s0 s) :
    TouchR ps s0 (execDecodeLoad stand video audio text s) := by
  unfold execDecodeLoad; try dsimp only
  repeat' first
    | with_reducible assumption
    | exact List.Subset.trans (by decide) hp
    | with_reducible apply State.telemetry_touch
    | exact .inr (hp (by decide))
    | with_reducible exact .inl rfl
    | with_reducible apply touch_ite
    | with_reducible apply touchR_ite
    | with_reducible apply touchR_next
    | with_reducible intro _
    | split
    | with_reducible refine touch_mk ?_ ?_ ?_ ?_ ?_ ?_ ?_ ?_ ?_ ?_ ?_ ?_ ?_ ?_ ?_ ?_ ?_ ?_ ?_ ?_ ?_ ?_ ?_ ?_ ?_ ?_ ?_ ?_ ?_

theorem execDecodeStart_touch (hp : ([.ingest] : List Part) ⊆ ps) (stand : ℕ) (cls : ℕ) (s : State)  (h : Touch ps s0 s) :
    TouchR ps s0 (execDecodeStart stand cls s) := by
  unfold execDecodeStart; try dsimp only
  repeat' first
    | with_reducible assumption
    | exact List.Subset.trans (by decide) hp
    | with_reducible apply State.modStand_touch
    | with_reducible apply touch_ite
    | with_reducible apply touchR_ite
    | with_reducible apply touchR_next
    | with_reducible intro _
    | split

theorem execDecodeTurn_touch (hp : ([.log, .safe, .stats, .clusters, .job, .upd, .limbers, .cow, .cxl, .base, .skid, .host, .ingest, .snap, .ctr, .out] : List Part) ⊆ ps) (stand : ℕ) (arrival : ℕ) (cycles : ℕ) (ends : Bool) (checks : List MemCheck) (s : State)  (h : Touch ps s0 s) :
    TouchR ps s0 (execDecodeTurn stand arrival cycles ends checks s) := by
  unfold execDecodeTurn; try dsimp only
  repeat' first
    | with_reducible assumption
    | exact List.Subset.trans (by decide) hp
    | with_reducible apply State.checked_touch
    | with_reducible apply State.bump_touch
    | with_reducible apply State.modStand_touch
    | with_reducible apply State.settleStand_touch
    | with_reducible apply State.endDecode_touch
    | with_reducible apply touch_ite
    | with_reducible apply touchR_ite
    | with_reducible apply touchR_next
    | with_reducible refine touch_of_snd (by assumption) ?_
    | with_reducible intro _
    | split

theorem execGuardPoint_touch (hp : ([.log, .skid, .sync, .host, .ingest, .ctr, .out] : List Part) ⊆ ps) (stand : ℕ) (geom : ℕ) (s : State)  (h : Touch ps s0 s) :
    TouchR ps s0 (execGuardPoint stand geom s) := by
  unfold execGuardPoint; try dsimp only
  repeat' first
    | with_reducible assumption
    | exact List.Subset.trans (by decide) hp
    | with_reducible apply State.guardRows_touch
    | with_reducible apply touch_ite
    | with_reducible apply touchR_ite
    | with_reducible apply touchR_next
    | with_reducible intro _
    | split

theorem execOutputComplete_touch (hp : ([.log, .safe, .stats, .clusters, .job, .upd, .limbers, .cow, .cxl, .base, .skid, .host, .ingest, .snap, .ctr, .out] : List Part) ⊆ ps) (stand : ℕ) (arrival : ℕ) (checks : List MemCheck) (s : State)  (h : Touch ps s0 s) :
    TouchR ps s0 (execOutputComplete stand arrival checks s) := by
  unfold execOutputComplete; try dsimp only
  repeat' first
    | with_reducible assumption
    | exact List.Subset.trans (by decide) hp
    | with_reducible apply State.checked_touch
    | with_reducible apply State.settleStand_touch
    | with_reducible apply State.dropSample_touch
    | with_reducible apply State.modStand_touch
    | with_reducible apply State.placeSample_touch
    | with_reducible apply touch_ite
    | with_reducible apply touchR_ite
    | with_reducible apply touchR_next
    | with_reducible refine touch_of_snd (by assumption) ?_
    | with_reducible intro _
    | split

theorem execRowWriteComplete_touch (hp : ([.log, .safe, .stats, .clusters, .job, .upd, .limbers, .cow, .cxl, .base, .skid, .sync, .host, .ingest, .snap, .mem, .ctr, .out] : List Part) ⊆ ps) (stand : ℕ) (geom : ℕ) (checks : List MemCheck) (s : State)  (h : Touch ps s0 s) :
    TouchR ps s0 (execRowWriteComplete stand geom checks s) := by
  unfold execRowWriteComplete; try dsimp only
  repeat' first
    | with_reducible assumption
    | exact List.Subset.trans (by decide) hp
    | with_reducible apply State.checked_touch
    | with_reducible apply State.settleStand_touch
    | with_reducible apply State.writePacked_touch
    | with_reducible apply touch_ite
    | with_reducible apply touchR_ite
    | with_reducible apply touchR_next
    | with_reducible refine touch_of_snd (by assumption) ?_
    | with_reducible intro _
    | split

end Sys2Proof.Machine
end

