-- ==== Sys2Proof/Laws/Steady.lean ====
section
/-! SUPPORT. Ingest, the late rows of the update, accesses of memory and rows of a drain change nothing of the job but the list of the events already raised once in a step. -/

namespace Sys2Proof.Machine

/-- The job without that list. -/
def State.duty (s : State) : Job := { s.job with firsts := [] }
theorem duty_of_touch {ps : List Part} {s t : State} (h : Touch ps s t) (hp : Part.job ∉ ps) : t.duty = s.duty := by
  have e : t.job = s.job := h .job hp
  unfold State.duty; rw [e]
theorem foldl_duty {α : Type} (f : State → α → State) (l : List α) (s : State) (h : ∀ s x, (f s x).duty = s.duty) :
    (l.foldl f s).duty = s.duty := by
  induction l generalizing s with
  | nil => rfl
  | cons x xs ih => exact (ih _).trans (h _ _)

theorem State.eventOnce_duty (s : State) (k step src code : Nat) (d : Bytes) : (s.eventOnce k step src code d).duty = s.duty := by
  unfold State.eventOnce; split
  · exact (duty_of_touch (State.event_touch (List.Subset.refl _) _ _ _ _ (Touch.refl _ _)) (by decide)).trans rfl
  · rfl
theorem State.dropReceipt_duty (s : State) (st : Nat) (h : Bytes) (c r : Nat) : (s.dropReceipt st h c r).duty = s.duty := by
  unfold State.dropReceipt State.ingestOnce
  refine (State.eventOnce_duty _ _ _ _ _ _).trans ?_
  refine (duty_of_touch (ps := [.ctr]) (State.bumpStream_touch (List.Subset.refl _) _ _ _ (Touch.refl _ _)) (by decide)).trans ?_
  have e : (s.receipt st { kind := 2, reason := r, id := smId h, step := smStep h + c, carries := c, stream := smStream h }).duty = s.duty :=
    congrArg (fun j : Job => { j with firsts := [] }) (State.receipt_frame s st _).2.2.2.2.2.2.1
  generalize State.receipt _ _ _ = u at e
  exact e
theorem State.dropSample_duty (s : State) (st r : Nat) (e : Sample) : (s.dropSample st r e).duty = s.duty :=
  (State.dropReceipt_duty _ _ _ _ _).trans rfl
theorem State.arrive_duty (s : State) (st : Nat) (h p b : Bytes) : (s.arrive st h p b).duty = s.duty := by
  have e : (s.bumpStream (smStream h) 0).duty = s.duty :=
    duty_of_touch (State.bumpStream_touch (List.Subset.refl _) _ _ _ (Touch.refl _ _)) (by decide)
  unfold State.arrive; dsimp only
  repeat' split
  all_goals first | exact (State.dropReceipt_duty _ _ _ _ _).trans e | exact Eq.trans rfl e
theorem State.takeSamples_duty (fuel : Nat) : ∀ (s : State) (st : Nat), (s.takeSamples st fuel).duty = s.duty := by
  induction fuel with
  | zero => intro s st; rfl
  | succ n ih =>
    intro s st
    unfold State.takeSamples
    split
    · rfl
    · dsimp only
      repeat' split
      · rfl
      · refine (duty_of_touch (State.closeWith_touch (List.Subset.refl _) _ _ _ (Touch.refl _ _)) (by decide)).trans ?_
        exact (State.dropReceipt_duty _ _ _ _ _).trans (duty_of_touch (State.bumpStream_touch (List.Subset.refl _) _ _ _ (Touch.refl _ _)) (by decide))
      · rfl
      · exact (ih _ _).trans ((State.arrive_duty _ _ _ _ _).trans rfl)
theorem State.settleStand_duty (s : State) (st : Nat) : (s.settleStand st).duty = s.duty := by
  have e : ∀ n, ((s.fillPool st).takeSamples st n).duty = s.duty := fun n =>
    (State.takeSamples_duty _ _ _).trans (duty_of_touch (State.fillPool_touch (List.Subset.refl _) _ _ (Touch.refl _ _)) (by decide))
  have k : ∀ u : State, (if u.ringFull st then u.ingestOnce st 0x22 0x4003 [] else u).duty = u.duty := by
    intro u
    split
    · exact State.eventOnce_duty _ _ _ _ _ _
    · rfl
  unfold State.settleStand
  split
  · rfl
  · exact (duty_of_touch (State.reopenWindow_touch (List.Subset.refl _) _ _ (Touch.refl _ _)) (by decide)).trans ((k _).trans (e _))
theorem State.ingestArm_duty (s : State) : s.ingestArm.duty = s.duty := by
  unfold State.ingestArm
  refine foldl_duty _ _ _ fun s st => ?_
  refine (State.settleStand_duty _ _).trans (foldl_duty _ _ _ fun s e => ?_)
  dsimp only
  split
  · exact State.dropSample_duty _ _ _ _
  · rfl
theorem State.ingestStop_duty (s : State) : s.ingestStop.duty = s.duty := by
  unfold State.ingestStop
  dsimp only
  refine (foldl_duty _ _ _ fun s st => ?_).trans ?_
  · refine (State.settleStand_duty _ _).trans ?_
    unfold State.dropStopped
    exact (foldl_duty _ _ _ fun s e => State.dropSample_duty _ _ _ _).trans rfl
  · exact (foldl_duty (fun s k => s.laterReceipts k 4 13) _ _ fun s k =>
      duty_of_touch (State.laterReceipts_touch (List.Subset.refl _) _ _ _ _ (Touch.refl _ _)) (by decide)).trans rfl
theorem State.carrySample_duty (s : State) (st k : Nat) (e : Sample) : (s.carrySample st k e).duty = s.duty := by
  unfold State.carrySample
  split
  · dsimp only
    refine (duty_of_touch (State.placeSample_touch (List.Subset.refl _) _ _ _ (Touch.refl _ _)) (by decide)).trans ?_
    refine (duty_of_touch (State.bumpStream_touch (List.Subset.refl _) _ _ _ (Touch.refl _ _)) (by decide)).trans ?_
    refine (duty_of_touch (State.receipt_touch (List.Subset.refl _) _ _ _ (Touch.refl _ _)) (by decide)).trans ?_
    exact duty_of_touch (State.modStand_touch (List.Subset.refl _) _ _ _ (Touch.refl _ _)) (by decide)
  · exact State.dropSample_duty _ _ _ _
theorem State.dropStopped_duty (s : State) (st : Nat) : (s.dropStopped st).duty = s.duty := foldl_duty _ _ _ fun _ _ => State.dropSample_duty _ _ _ _
theorem State.standDeadline_duty (s : State) (k st : Nat) : (s.standDeadline k st).duty = s.duty := by
  unfold State.standDeadline
  dsimp only
  refine (State.settleStand_duty _ _).trans ((State.dropStopped_duty _ _).trans ((foldl_duty _ _ _ fun s e => State.carrySample_duty _ _ _ _).trans ?_))
  refine (duty_of_touch (State.modStand_touch (List.Subset.refl _) _ _ _ (Touch.refl _ _)) (by decide)).trans ?_
  refine (foldl_duty _ _ _ fun s e => (duty_of_touch (State.signalRows_touch (List.Subset.refl _) _ _ _ _ _ (Touch.refl _ _)) (by decide)).trans
    (duty_of_touch (State.setBounds_touch (List.Subset.refl _) _ _ _ _ _ (Touch.refl _ _)) (by decide))).trans ?_
  have e : ∀ l : List (Nat × Bytes), (l.foldl (fun s (e : Nat × Bytes) => s.guardRows st e.1 k e.2)
      (((s.stand st).samples.filter fun e => decide (e.step = k ∧ e.state = .decoding) && s.overBudget e).foldl (fun s e => s.dropSample st 11 e) s)).duty = s.duty := fun l =>
    (foldl_duty _ _ _ fun s e => duty_of_touch (State.guardRows_touch (List.Subset.refl _) _ _ _ _ _ (Touch.refl _ _)) (by decide)).trans
      (foldl_duty _ _ _ fun s e => State.dropSample_duty _ _ _ _)
  split
  · exact (duty_of_touch (State.event_touch (List.Subset.refl _) _ _ _ _ (Touch.refl _ _)) (by decide)).trans (e _)
  · exact e _
theorem State.deadline_duty (s : State) (k : Nat) : (s.deadline k).duty = s.duty := by
  unfold State.deadline
  split
  · exact (foldl_duty (fun s st => s.standDeadline k st) _ _ fun s st => State.standDeadline_duty _ _ _)
  · rfl
theorem State.addHeld_duty (s : State) (d : Bytes) (m : Msg) (k : Nat) : (s.addHeld d m k).duty = s.duty :=
  (State.eventOnce_duty _ _ _ _ _ _).trans
    (duty_of_touch (ps := [.log, .stats, .upd, .host, .mem, .ctr, .out]) (State.bump_touch (by decide) _ _ _ (State.placeRow_touch (List.Subset.refl _) _ _ _ _ (Touch.refl _ _))) (by decide))
theorem State.releaseStale_duty (s : State) (k : Nat) : (s.releaseStale k).duty = s.duty := by
  unfold State.releaseStale
  dsimp only
  refine (foldl_duty _ _ _ fun u e => ?_).trans rfl
  refine (foldl_duty _ _ _ fun v r => ?_).trans rfl
  split
  · exact State.addHeld_duty _ _ _ _
  · rfl
/-- What nature reports of reads changes neither the step records nor the present phase. -/
def State.pace (s : State) : List (Nat × StepRec) × Nat := (s.job.steps, s.job.phaseNow)
theorem pace_of_duty {s t : State} (h : t.duty = s.duty) : t.pace = s.pace :=
  Prod.ext (by have := congrArg Job.steps h; exact this) (by have := congrArg Job.phaseNow h; exact this)
theorem pace_of_touch {ps : List Part} {s t : State} (h : Touch ps s t) (hp : Part.job ∉ ps) : t.pace = s.pace := pace_of_duty (duty_of_touch h hp)
theorem pace_of_fault (s : State) (src code : Nat) (d : Bytes) : (s.fault src code d).pace = s.pace :=
  Prod.ext (s.fault_steps src code d).1 (s.fault_steps src code d).2
theorem State.checkedLine_pace (s : State) (die code line : Nat) (reads : List LineRead) : (s.checkedLine die code line reads).2.pace = s.pace := by
  unfold State.checkedLine
  split
  · rfl
  · exact pace_of_touch (ps := [.ctr, .snap]) (State.stress_touch (by decide) _ _ (State.bump_touch (by decide) _ _ _ (Touch.refl _ _))) (by decide)
  · split <;> exact pace_of_fault _ _ _ _
theorem State.checkedBurst_pace (s : State) (a : Nat) (reads : List BurstRead) : (s.checkedBurst a reads).2.pace = s.pace := by
  have f : ∀ n, Touch [.ctr, .snap, .base] s ((s.modBase (stackOf a) fun b => { b with lastChannel := hbmChannel a, lastPc := hbmPc a, crcMismatch := true }).bump
      (kStackReads (stackOf a)) n) := fun n => State.bump_touch (by decide) _ _ _ (State.modBase_touch (by decide) _ _ _ (Touch.refl _ _))
  unfold State.checkedBurst
  dsimp only
  split
  · rfl
  · exact pace_of_touch (ps := [.ctr, .snap, .base])
      (State.stress_touch (by decide) _ _ (State.bump_touch (by decide) _ _ _ (State.bump_touch (by decide) _ _ _ (f _)))) (by decide)
  · exact (pace_of_fault _ _ _ _).trans (pace_of_touch (f 3) (by decide))
theorem State.checkedTier_pace (s : State) (port device a : Nat) (reads : List TierRead) : (s.checkedTier port device a reads).2.pace = s.pace := by
  unfold State.checkedTier
  dsimp only
  have h1 : ∀ b : Bool, (if b = true then s else { s with cxl := { s.cxl with crcMismatch := sset false s.cxl.crcMismatch port true } } : State).pace = s.pace := by
    intro b; cases b <;> rfl
  have h2 : ∀ (v : State) (n : Nat), v.pace = s.pace →
      (if n = 0 then v else { v with cxl := { v.cxl with poison := sset false v.cxl.poison port true } }.bump kCxlPoison n : State).pace = s.pace := by
    intro v n h; split
    · exact h
    · exact h
  have h3 := fun n b => h2 _ n (h1 b)
  split
  · exact h3 _ _
  · exact (pace_of_touch (ps := [.ctr, .snap]) (State.stress_touch (by decide) _ _ (State.bump_touch (by decide) _ _ _ (Touch.refl _ _))) (by decide)).trans (h3 _ _)
  · exact (pace_of_fault _ _ _ _).trans (h3 _ _)
theorem State.checkedOne_pace (s : State) (c : MemCheck) : (s.checkedOne c).2.pace = s.pace := by
  cases c with
  | sram die code line reads => exact s.checkedLine_pace die code line reads
  | hbm a reads => exact s.checkedBurst_pace a reads
  | cxl port device a reads => exact s.checkedTier_pace port device a reads
  | ecc m n =>
    have f : Touch [.ctr, .base] s (((s.modBase m fun b => { b with eccReport := true }).bump kDramEcc n).bump (kStackEcc m) n) :=
      State.bump_touch (by decide) _ _ _ (State.bump_touch (by decide) _ _ _ (State.modBase_touch (by decide) _ _ _ (Touch.refl _ _)))
    unfold State.checkedOne
    dsimp only
    split
    · exact pace_of_touch f (by decide)
    · exact (pace_of_duty (State.eventOnce_duty _ _ _ _ _ _)).trans (pace_of_touch f (by decide))
  | parity src => exact pace_of_fault _ _ _ _
theorem State.checked_pace (s : State) (cs : List MemCheck) : (s.checked cs).2.pace = s.pace := by
  induction cs generalizing s with
  | nil => rfl
  | cons c cs ih =>
    have h := s.checkedOne_pace c
    unfold State.checked
    split
    · rename_i t e; rw [e] at h; exact (ih t).trans h
    · rename_i t e; rw [e] at h; exact h

/-! ### Accesses of SRAM, rows of a drain -/

theorem State.noteRefused_duty (s : State) (die i req step : Nat) : (s.noteRefused die i req step).duty = s.duty := by
  have k : ∀ (c : Bool) (u : State) key a k2 src code d, (if c then (u.bump key a).eventOnce k2 step src code d else u).duty = u.duty := by
    intro c u key a k2 src code d
    split
    · exact State.eventOnce_duty _ _ _ _ _ _
    · rfl
  unfold State.noteRefused
  exact (k _ _ _ _ _ _ _ _).trans ((k _ _ _ _ _ _ _ _).trans rfl)
theorem State.allowAccess_duty (s : State) (die o req step : Nat) : (s.allowAccess die o req step).2.duty = s.duty := by
  unfold State.allowAccess
  split
  · rfl
  · dsimp only
    split
    · exact State.noteRefused_duty _ _ _ _ _
    · rfl
theorem State.sramWrite_duty (s : State) (die o req step : Nat) (bs : Bytes) : (s.sramWrite die o req step bs).duty = s.duty := by
  unfold State.sramWrite
  refine foldl_duty _ _ _ fun s r => ?_
  have h := s.allowAccess_duty die r.1 req step
  generalize s.allowAccess die r.1 req step = x at *
  obtain ⟨ok, u⟩ := x
  dsimp only at h ⊢
  split
  · exact h
  · exact h
theorem State.localWrite_duty (s : State) (cl x step : Nat) (bs : Bytes) : (s.localWrite cl x step bs).duty = s.duty := State.sramWrite_duty _ _ _ _ _ _
theorem State.drainLocal_duty (s : State) (cl : Nat) (d : DrainOp) (i : Nat) : (s.drainLocal cl d i).duty = s.duty := by
  have k : ∀ (c : Prop) [Decidable c] (u : State) x step bs, (if c then u.localWrite cl x step bs else u).duty = u.duty := by
    intro c _ u x step bs
    split
    · exact State.localWrite_duty _ _ _ _ _
    · rfl
  unfold State.drainLocal
  dsimp only
  split
  · exact (foldl_duty _ _ _ fun s b => k _ _ _ _ _).trans (k _ _ _ _ _)
  · exact k _ _ _ _ _
theorem State.drainRow_duty {s t : State} {cl i : Nat} {d : DrainOp} (h : s.drainRow cl d i = some t) : t.duty = s.duty := by
  have fin : ∀ (v : State) a b c e f g k l m, ((v.addCounts a b c e f).addHist g k l m).duty = v.duty := fun v a b c e f g k l m =>
    (duty_of_touch (State.addHist_touch (List.Subset.refl _) _ _ _ _ _ (Touch.refl _ _)) (by decide)).trans
      (duty_of_touch (State.addCounts_touch (List.Subset.refl _) _ _ _ _ _ _ (Touch.refl _ _)) (by decide))
  unfold State.drainRow at h
  dsimp only at h
  split at h
  · obtain rfl := Option.some.inj h; exact (fin _ _ _ _ _ _ _ _ _ _).trans (State.drainLocal_duty _ _ _ _)
  · split at h
    · obtain rfl := Option.some.inj h; exact (fin _ _ _ _ _ _ _ _ _ _).trans rfl
    · exact absurd h (by simp)
  · obtain rfl := Option.some.inj h
    exact (fin _ _ _ _ _ _ _ _ _ _).trans (duty_of_touch (State.drainGradient_touch (List.Subset.refl _) _ _ _ _ (Touch.refl _ _)) (by decide))

/-! ### Accesses of the map, transfers, limber jobs -/

theorem foldl_duty2 {α β : Type} (f : β × State → α → β × State) (l : List α) (x : β × State) (h : ∀ x a, (f x a).2.duty = x.2.duty) :
    (l.foldl f x).2.duty = x.2.duty := by
  induction l generalizing x with
  | nil => rfl
  | cons a l ih => exact (ih _).trans (h _ _)
theorem State.sramRead_duty (s : State) (die o n req step : Nat) : (s.sramRead die o n req step).2.duty = s.duty := by
  unfold State.sramRead
  refine foldl_duty2 _ _ _ fun x r => ?_
  have h := x.2.allowAccess_duty die r.1 req step
  generalize x.2.allowAccess die r.1 req step = y at *
  exact h
theorem State.localRead_duty (s : State) (cl x n step : Nat) : (s.localRead cl x n step).2.duty = s.duty := State.sramRead_duty _ _ _ _ _ _
theorem State.mapRead_duty (s : State) (who : Option Nat) (a n step : Nat) : (s.mapRead who a n step).2.duty = s.duty := by
  unfold State.mapRead
  refine foldl_duty2 _ _ _ fun x p => ?_
  dsimp only
  split
  · have h := x.2.sramRead_duty ((p.1 - sramBase) / 2 ^ 32) ((p.1 - sramBase) % 2 ^ 32) p.2
      (x.2.requester who ((p.1 - sramBase) / 2 ^ 32) ((p.1 - sramBase) % 2 ^ 32)) step
    generalize x.2.sramRead _ _ _ _ _ = y at *
    exact h
  · exact duty_of_touch (State.noteRead_touch (List.Subset.refl _) _ _ _ (Touch.refl _ _)) (by decide)
theorem State.mapWrite_duty (s : State) (who : Option Nat) (a step : Nat) (bs : Bytes) : (s.mapWrite who a step bs).duty = s.duty := by
  unfold State.mapWrite
  refine foldl_duty2 _ _ _ fun x p => ?_
  dsimp only
  split
  · exact State.sramWrite_duty _ _ _ _ _ _
  · have k : ∀ u : State, (if p.1 < hbmEnd then u.toHbm p.1 (slice bs x.1 p.2) else { u with mem := writeBytes u.mem p.1 (slice bs x.1 p.2) }).duty = u.duty := by
      intro u
      split
      · exact duty_of_touch (State.toHbm_touch (List.Subset.refl _) _ _ _ (Touch.refl _ _)) (by decide)
      · rfl
    refine (k _).trans ?_
    split
    · rfl
    · rfl
theorem State.copyRows_duty (s : State) (cl step : Nat) (d : Bytes) (rows : Nat) : (s.copyRows cl step d rows).duty = s.duty := by
  unfold State.copyRows
  refine foldl_duty _ _ _ fun s r => ?_
  have h := s.mapRead_duty (some cl) (ddSrc d + r * ddSrcPitch d) (ddRowBytes d) step
  generalize s.mapRead (some cl) _ _ _ = y at *
  exact (State.mapWrite_duty _ _ _ _ _).trans h
theorem State.collide_duty (s : State) (old : List (Nat × Byte)) (who : Option Nat) (step line : Nat) : (s.collide old who step line).duty = s.duty := by
  have hm : ∀ m : List (Nat × Byte), ({ s with mem := m } : State).duty = s.duty := fun _ => rfl
  have e : ∀ (u : State) (die o i key : Nat), (((u.modBank die i fun b => { b with collision := true, lastCollider := u.requester who die o }).bump kCollisions 1).eventOnce
      key step (dieSrc die) 0x3002 []).duty = u.duty := fun u die o i key => (State.eventOnce_duty _ _ _ _ _ _).trans rfl
  have ite : ∀ (c : Prop) [Decidable c] (x y : State), x.duty = s.duty → y.duty = s.duty → (if c then x else y).duty = s.duty := by
    intro c _ x y h1 h2; split <;> assumption
  unfold State.collide
  refine ite _ _ _ rfl ?_
  have h1 := hm (writeBytes s.mem (64 * line) (readBytes old (64 * line) 64))
  split
  · exact h1
  · exact ite _ _ _ h1 ((e _ _ _ _ _).trans h1)
theorem State.landWrite_duty (s : State) (who : Option Nat) (a step : Nat) (bs : Bytes) (l : List Nat) : (s.landWrite who a step bs l).duty = s.duty := by
  unfold State.landWrite
  exact (foldl_duty _ _ _ fun t l => State.collide_duty _ _ _ _ _).trans (State.mapWrite_duty _ _ _ _ _)
theorem limberWork_duty (j : LimberJob) (d : Bytes) (collided : List Nat) (rows : Nat) (s : State) :
    (limberWork (limberIo j d collided) d rows s).2.2.duty = s.duty :=
  limberWork_keeps (fun u : State => u.duty = s.duty) (limberIo j d collided) d rows s
    (fun _ _ h => (State.localRead_duty _ _ _ _ _).trans h) (fun _ _ _ h => (State.localRead_duty _ _ _ _ _).trans h)
    (fun _ _ _ h => (State.landWrite_duty _ _ _ _ _ _).trans h) rfl

end Sys2Proof.Machine
end

