-- ==== Sys2Proof/Laws/TouchVector.lean ====
section
/-! SUPPORT. Which parts of the state the operations of Machine/Vector.lean may change. -/

namespace Sys2Proof.Machine

variable {s0 : State} {ps : List Part}

theorem State.readRow_touch (hp : ([.log, .job, .banks, .host, .ctr, .out] : List Part) ⊆ ps) (s : State) (cl line f n step : ℕ) (h : Touch ps s0 s) : Touch ps s0 (s.readRow cl line f n step).2 := by
  rw [State.readRow, Prod.map_snd, id_eq]; exact State.localRead_touch (List.Subset.trans (by decide) hp) s cl _ _ step h

theorem State.vecTopk_touch (hp : ([.log, .stats, .job, .banks, .host, .mem, .ctr, .out] : List Part) ⊆ ps) (s : State) (cl : ℕ) (w : ℕ) (r : ℕ) (step : ℕ) (codes : List ℕ)  (h : Touch ps s0 s) :
    Touch ps s0 (State.vecTopk s cl w r step codes) := by
  unfold State.vecTopk; try dsimp only
  repeat' first
    | with_reducible assumption
    | exact List.Subset.trans (by decide) hp
    | with_reducible apply State.localWrite_touch
    | with_reducible apply State.addHist_touch
    | with_reducible apply State.addCounts_touch

theorem State.segB_touch (hp : ([.log, .job, .banks, .host, .ctr, .out] : List Part) ⊆ ps) (s : State) (cl w i step : ℕ) (h : Touch ps s0 s) : Touch ps s0 (s.segB cl w i step).2 := by
  rw [State.segB, Prod.map_snd, id_eq]; exact State.localRead_touch (List.Subset.trans (by decide) hp) s cl _ 4 step h

theorem State.writeSegValue_touch (hp : ([.log, .job, .banks, .host, .mem, .ctr, .out] : List Part) ⊆ ps) (s : State) (cl : ℕ) (line : ℕ) (f : ℕ) (i : ℕ) (step : ℕ) (code : ℕ)  (h : Touch ps s0 s) :
    Touch ps s0 (State.writeSegValue s cl line f i step code) := by
  unfold State.writeSegValue; try dsimp only
  repeat' first
    | with_reducible assumption
    | exact List.Subset.trans (by decide) hp
    | with_reducible apply State.localWrite_touch
    | with_reducible apply touch_ite
    | with_reducible intro _

theorem State.segOne_touch (hp : ([.log, .stats, .job, .banks, .host, .mem, .ctr, .out] : List Part) ⊆ ps) (s : State) (cl : ℕ) (w : ℕ) (i : ℕ) (step : ℕ) (b : ℕ) (codes : List ℕ)  (h : Touch ps s0 s) :
    Touch ps s0 (State.segOne s cl w i step b codes) := by
  unfold State.segOne; try dsimp only
  repeat' first
    | with_reducible assumption
    | exact List.Subset.trans (by decide) hp
    | with_reducible apply State.writeSegValue_touch
    | with_reducible apply State.addHist_touch
    | with_reducible apply State.addCounts_touch
    | with_reducible apply touch_ite
    | with_reducible apply touchO_getD
    | with_reducible intro _
    | split

theorem State.vecSegment_touch (hp : ([.log, .safe, .stats, .clusters, .job, .upd, .banks, .limbers, .cow, .skid, .host, .ingest, .snap, .mem, .ctr, .out] : List Part) ⊆ ps) (s : State) (cl : ℕ) (w : ℕ) (idx : ℕ) (r0 : ℕ) (step : ℕ) (rows : List (List ℕ))  (h : Touch ps s0 s) :
    Touch ps s0 (State.vecSegment s cl w idx r0 step rows).2 := by
  unfold State.vecSegment; try dsimp only
  repeat' first
    | with_reducible assumption
    | exact List.Subset.trans (by decide) hp
    | with_reducible apply State.segB_touch
    | with_reducible apply State.segOne_touch
    | with_reducible apply State.addCounts_touch
    | with_reducible apply State.fault_touch
    | with_reducible apply touch_ite
    | with_reducible apply touch_ite_snd
    | with_reducible refine touch_of_snd (by assumption) ?_
    | with_reducible intro _
    | split
    | dsimp only

theorem State.writeRow_touch (hp : ([.log, .job, .banks, .host, .mem, .ctr, .out] : List Part) ⊆ ps) (s : State) (cl : ℕ) (line : ℕ) (f : ℕ) (n : ℕ) (step : ℕ) (cs : List ℕ)  (h : Touch ps s0 s) :
    Touch ps s0 (State.writeRow s cl line f n step cs) := by
  unfold State.writeRow; try dsimp only
  repeat' first
    | with_reducible assumption
    | exact List.Subset.trans (by decide) hp
    | with_reducible apply State.localWrite_touch

theorem State.writePlain_touch (hp : ([.log, .job, .banks, .host, .mem, .ctr, .out] : List Part) ⊆ ps) (s : State) (cl : ℕ) (w : ℕ) (r0 : ℕ) (step : ℕ) (rows : List OutRow)  (h : Touch ps s0 s) :
    Touch ps s0 (State.writePlain s cl w r0 step rows).1 := by
  unfold State.writePlain; try dsimp only
  repeat' first
    | with_reducible assumption
    | exact List.Subset.trans (by decide) hp
    | with_reducible apply State.writeRow_touch
    | with_reducible apply touch_foldl_fst
    | with_reducible intro _
    | dsimp only

theorem State.writeBlocks_touch (hp : ([.log, .job, .banks, .host, .mem, .ctr, .out] : List Part) ⊆ ps) (s : State) (cl : ℕ) (w : ℕ) (r0 : ℕ) (step : ℕ) (square : Bool) (rows : List OutRow)  (h : Touch ps s0 s) :
    Touch ps s0 (State.writeBlocks s cl w r0 step square rows).1 := by
  unfold State.writeBlocks; try dsimp only
  repeat' first
    | with_reducible assumption
    | exact List.Subset.trans (by decide) hp
    | with_reducible apply State.localWrite_touch
    | with_reducible apply touch_ite
    | with_reducible apply touch_foldl_fst
    | with_reducible apply touch_ite_fst
    | with_reducible intro _
    | split
    | dsimp only

theorem State.writeMx_touch (hp : ([.log, .job, .banks, .host, .mem, .ctr, .out] : List Part) ⊆ ps) (s : State) (cl : ℕ) (w : ℕ) (r0 : ℕ) (step : ℕ) (square : Bool) (rows : List OutRow)  (h : Touch ps s0 s) :
    Touch ps s0 (State.writeMx s cl w r0 step square rows).1 := by
  unfold State.writeMx; try dsimp only
  repeat' first
    | with_reducible assumption
    | exact List.Subset.trans (by decide) hp
    | with_reducible apply State.writeBlocks_touch
    | with_reducible apply touch_foldl_fst
    | with_reducible refine touch_of_fst (by assumption) ?_
    | with_reducible intro _
    | split
    | dsimp only

theorem State.writeRows_touch (hp : ([.log, .stats, .job, .banks, .host, .mem, .ctr, .out] : List Part) ⊆ ps) (s : State) (cl : ℕ) (w : ℕ) (r0 : ℕ) (step : ℕ) (rows : List OutRow)  (h : Touch ps s0 s) :
    Touch ps s0 (State.writeRows s cl w r0 step rows) := by
  unfold State.writeRows; try dsimp only
  repeat' first
    | with_reducible assumption
    | exact List.Subset.trans (by decide) hp
    | with_reducible apply State.writePlain_touch
    | with_reducible apply State.writeMx_touch
    | with_reducible apply State.addHist_touch
    | with_reducible apply State.addCounts_touch
    | with_reducible refine touch_of_fst (by assumption) ?_
    | split

theorem State.vecSegments_touch (hp : ([.log, .safe, .stats, .clusters, .job, .upd, .banks, .limbers, .cow, .skid, .host, .ingest, .snap, .mem, .ctr, .out] : List Part) ⊆ ps) (s : State) (cl w idx r0 step : ℕ) (rows : List (List ℕ)) (h : Touch ps s0 s) :
    Touch ps s0 (s.vecSegments cl w idx r0 step rows) := by
  unfold State.vecSegments; dsimp only
  have h1 := touch_foldl_snd (f := fun (acc : Option (List OutRow) × State) i =>
    match acc.1 with
    | none => acc
    | some done => ((acc.2.vecSegment cl w idx (r0 + vuG w * i) step ((rows.drop (vuG w * i)).take (vuG w))).1.map fun x => done ++ x,
        (acc.2.vecSegment cl w idx (r0 + vuG w * i) step ((rows.drop (vuG w * i)).take (vuG w))).2))
    (List.range ((rows.length + vuG w - 1) / vuG w)) (some [], s) (fun p x h => by
      obtain ⟨o, t⟩ := p
      cases o with
      | none => exact h
      | some done => exact State.vecSegment_touch (List.Subset.trans (by decide) hp) _ _ _ _ _ _ _ h) h
  split
  · exact State.writeRows_touch (List.Subset.trans (by decide) hp) _ _ _ _ _ _ h1
  · exact h1

theorem State.vecSlice_touch (hp : ([.log, .stats, .job, .banks, .host, .mem, .ctr, .out] : List Part) ⊆ ps) (s : State) (cl : ℕ) (w : ℕ) (r0 : ℕ) (step : ℕ) (rows : List (List ℕ))  (h : Touch ps s0 s) :
    Touch ps s0 (State.vecSlice s cl w r0 step rows) := by
  unfold State.vecSlice; try dsimp only
  repeat' first
    | with_reducible assumption
    | exact List.Subset.trans (by decide) hp
    | with_reducible apply State.localWrite_touch
    | with_reducible apply State.addHist_touch
    | with_reducible apply State.addCounts_touch
    | with_reducible apply touch_foldl
    | with_reducible intro _
    | split

theorem State.vecRows_touch (hp : ([.log, .stats, .job, .banks, .host, .mem, .ctr, .out] : List Part) ⊆ ps) (s : State) (cl w r0 step : ℕ) (rows : List (List ℕ)) (h : Touch ps s0 s) :
    Touch ps s0 (s.vecRows cl w r0 step rows) := by
  unfold State.vecRows; dsimp only
  refine State.writeRows_touch (List.Subset.trans (by decide) hp) _ _ _ _ _ _ (touch_foldl_snd _ _ (fun p x h => ?_) h)
  have h1 : Touch ps s0 (if vuRowsB (vOp w) = true then p.2.readRow cl (vSrcB w) (vFmtIn w) (r0 + x.2) step else ([], p.2)).2 :=
    touch_ite_snd (fun _ => State.readRow_touch (List.Subset.trans (by decide) hp) _ _ _ _ _ _ h) fun _ => h
  generalize (if vuRowsB (vOp w) = true then p.2.readRow cl (vSrcB w) (vFmtIn w) (r0 + x.2) step else ([], p.2)) = q at h1 ⊢
  obtain ⟨bs, t⟩ := q
  have h2 := fun c => State.addCounts_touch (List.Subset.trans (by decide) hp) t (s.seqSrc cl) step (vWatch w) (vFmtIn w) c h1
  exact touch_ite (fun _ => State.addCounts_touch (List.Subset.trans (by decide) hp) _ _ _ _ _ _ (h2 _)) fun _ => h2 _

theorem State.vecApply_touch (hp : ([.log, .safe, .stats, .clusters, .job, .upd, .banks, .limbers, .cow, .skid, .host, .ingest, .snap, .mem, .ctr, .out] : List Part) ⊆ ps) (s : State) (cl : ℕ) (op : VecOp) (rows : List (List ℕ))  (h : Touch ps s0 s) :
    Touch ps s0 (State.vecApply s cl op rows) := by
  unfold State.vecApply; try dsimp only
  repeat' first
    | with_reducible assumption
    | exact List.Subset.trans (by decide) hp
    | with_reducible apply State.vecTopk_touch
    | with_reducible apply State.vecSegments_touch
    | with_reducible apply State.vecSlice_touch
    | with_reducible apply State.vecRows_touch
    | with_reducible apply touch_ite
    | with_reducible intro _

theorem State.vecSource_touch (hp : ([.log, .clusters, .job, .banks, .host, .ctr, .out] : List Part) ⊆ ps) (s : State) (cl : ℕ) (op : VecOp) (n : ℕ) (h : Touch ps s0 s) : TouchP ps s0 (s.vecSource cl op n) := by
  unfold State.vecSource; dsimp only
  refine touchP_ite (fun _ => ?_) fun _ => touchP_ite (fun _ => ?_) fun _ => ?_
  · exact touchP_ite (fun _ => touchP_none) fun _ => touchP_some (State.modCl_touch (List.Subset.trans (by decide) hp) _ _ _ h)
  · have := State.localRead_touch (List.Subset.trans (by decide) hp) s cl (tkSrc op.word * 64 + op.row * topkPitch op.word) (packedBytes (fmtWidth (tkFmt op.word)) op.len) op.step h
    generalize s.localRead cl _ _ op.step = p at this ⊢
    obtain ⟨bs, t⟩ := p
    exact touchP_some this
  · refine touchP_some (touch_foldl_snd _ _ (fun p x h => ?_) h)
    have := State.readRow_touch (List.Subset.trans (by decide) hp) p.2 cl (vSrcA op.word) (vFmtIn op.word) (op.row + x) op.step h
    generalize p.2.readRow cl _ _ _ op.step = q at this ⊢
    obtain ⟨r, t⟩ := q
    exact this

theorem State.scramble_touch (hp : ([.log, .job, .banks, .host, .mem, .ctr, .out, .free] : List Part) ⊆ ps) (s : State) (cl : ℕ) (op : VecOp)  (h : Touch ps s0 s) :
    Touch ps s0 (State.scramble s cl op) := by
  unfold State.scramble; try dsimp only
  repeat' first
    | with_reducible assumption
    | exact List.Subset.trans (by decide) hp
    | with_reducible apply State.nextFree_touch
    | with_reducible apply State.localWrite_touch
    | with_reducible apply touch_foldl
    | with_reducible intro _

theorem State.runVector_touch (hp : ([.log, .safe, .stats, .clusters, .job, .upd, .banks, .limbers, .cow, .skid, .host, .ingest, .snap, .mem, .ctr, .out, .free] : List Part) ⊆ ps) (s : State) (cl fuel : ℕ) (h : Touch ps s0 s) : Touch ps s0 (s.runVector cl fuel) := by
  induction fuel generalizing s with
  | zero => exact h
  | succ n ih =>
    unfold State.runVector
    split
    · exact h
    · refine touch_ite (fun _ => h) fun _ => ?_
      dsimp only
      split
      · exact h
      · have h1 := fun op rows => State.vecApply_touch (List.Subset.trans (by decide) hp) _ cl op rows (touch_of_pair ‹_› (State.vecSource_touch (List.Subset.trans (by decide) hp) _ _ _ _ h))
        refine touch_ite (fun _ => h1 _ _) fun _ => ih _ ?_
        exact touch_ite (fun _ => State.scramble_touch (List.Subset.trans (by decide) hp) _ _ _ (State.modCl_touch (List.Subset.trans (by decide) hp) _ _ _ (h1 _ _))) fun _ => State.modCl_touch (List.Subset.trans (by decide) hp) _ _ _ (h1 _ _)

theorem State.vuRetired_touch (hp : ([.clusters, .ctr] : List Part) ⊆ ps) (s : State) (cl : ℕ)  (h : Touch ps s0 s) :
    Touch ps s0 (State.vuRetired s cl) := by
  unfold State.vuRetired; try dsimp only
  repeat' first
    | with_reducible assumption
    | exact List.Subset.trans (by decide) hp
    | with_reducible apply State.bump_touch
    | with_reducible apply State.modCl_touch

theorem State.vecIssue_touch (hp : ([.clusters, .ctr] : List Part) ⊆ ps) (s : State) (cl : ℕ) (f : Fetched)  (h : Touch ps s0 s) :
    Touch ps s0 (State.vecIssue s cl f) := by
  unfold State.vecIssue; try dsimp only
  repeat' first
    | with_reducible assumption
    | exact List.Subset.trans (by decide) hp
    | with_reducible apply State.vuRetired_touch
    | with_reducible apply State.modCl_touch
    | with_reducible apply State.place_touch
    | with_reducible apply touch_ite
    | with_reducible refine touch_of_snd (by assumption) ?_
    | with_reducible intro _

theorem vectorCommand_touch (hp : ([.log, .safe, .stats, .clusters, .job, .upd, .limbers, .stash, .cow, .skid, .sync, .host, .ingest, .snap, .ctr, .out, .free] : List Part) ⊆ ps) (o : ℕ) (cl : ℕ) (s : State)  (h : Touch ps s0 s) :
    Touch ps s0 (vectorCommand o cl s) := by
  unfold vectorCommand; try dsimp only
  repeat' first
    | with_reducible assumption
    | exact List.Subset.trans (by decide) hp
    | with_reducible apply State.issue_touch
    | with_reducible apply State.vecIssue_touch
    | with_reducible intro _

theorem execAdd_touch (hp : ([.log, .safe, .stats, .clusters, .job, .upd, .limbers, .stash, .cow, .skid, .sync, .host, .ingest, .snap, .ctr, .out, .free] : List Part) ⊆ ps) (cl : ℕ) (s : State)  (h : Touch ps s0 s) :
    TouchR ps s0 (execAdd cl s) := by
  unfold execAdd; try dsimp only
  repeat' first
    | with_reducible assumption
    | exact List.Subset.trans (by decide) hp
    | with_reducible apply vectorCommand_touch
    | with_reducible apply touchR_next

theorem execAddImm_touch (hp : ([.log, .safe, .stats, .clusters, .job, .upd, .limbers, .stash, .cow, .skid, .sync, .host, .ingest, .snap, .ctr, .out, .free] : List Part) ⊆ ps) (cl : ℕ) (s : State)  (h : Touch ps s0 s) :
    TouchR ps s0 (execAddImm cl s) := by
  unfold execAddImm; try dsimp only
  repeat' first
    | with_reducible assumption
    | exact List.Subset.trans (by decide) hp
    | with_reducible apply vectorCommand_touch
    | with_reducible apply touchR_next

theorem execAxpy_touch (hp : ([.log, .safe, .stats, .clusters, .job, .upd, .limbers, .stash, .cow, .skid, .sync, .host, .ingest, .snap, .ctr, .out, .free] : List Part) ⊆ ps) (cl : ℕ) (s : State)  (h : Touch ps s0 s) :
    TouchR ps s0 (execAxpy cl s) := by
  unfold execAxpy; try dsimp only
  repeat' first
    | with_reducible assumption
    | exact List.Subset.trans (by decide) hp
    | with_reducible apply vectorCommand_touch
    | with_reducible apply touchR_next

theorem execCopy_touch (hp : ([.log, .safe, .stats, .clusters, .job, .upd, .limbers, .stash, .cow, .skid, .sync, .host, .ingest, .snap, .ctr, .out, .free] : List Part) ⊆ ps) (cl : ℕ) (s : State)  (h : Touch ps s0 s) :
    TouchR ps s0 (execCopy cl s) := by
  unfold execCopy; try dsimp only
  repeat' first
    | with_reducible assumption
    | exact List.Subset.trans (by decide) hp
    | with_reducible apply State.issue_touch
    | with_reducible apply State.vecIssue_touch
    | with_reducible apply touchR_next
    | with_reducible intro _

theorem execExp_touch (hp : ([.log, .safe, .stats, .clusters, .job, .upd, .limbers, .stash, .cow, .skid, .sync, .host, .ingest, .snap, .ctr, .out, .free] : List Part) ⊆ ps) (cl : ℕ) (s : State)  (h : Touch ps s0 s) :
    TouchR ps s0 (execExp cl s) := by
  unfold execExp; try dsimp only
  repeat' first
    | with_reducible assumption
    | exact List.Subset.trans (by decide) hp
    | with_reducible apply vectorCommand_touch
    | with_reducible apply touchR_next

theorem execGelu_touch (hp : ([.log, .safe, .stats, .clusters, .job, .upd, .limbers, .stash, .cow, .skid, .sync, .host, .ingest, .snap, .ctr, .out, .free] : List Part) ⊆ ps) (cl : ℕ) (s : State)  (h : Touch ps s0 s) :
    TouchR ps s0 (execGelu cl s) := by
  unfold execGelu; try dsimp only
  repeat' first
    | with_reducible assumption
    | exact List.Subset.trans (by decide) hp
    | with_reducible apply vectorCommand_touch
    | with_reducible apply touchR_next

theorem execLog_touch (hp : ([.log, .safe, .stats, .clusters, .job, .upd, .limbers, .stash, .cow, .skid, .sync, .host, .ingest, .snap, .ctr, .out, .free] : List Part) ⊆ ps) (cl : ℕ) (s : State)  (h : Touch ps s0 s) :
    TouchR ps s0 (execLog cl s) := by
  unfold execLog; try dsimp only
  repeat' first
    | with_reducible assumption
    | exact List.Subset.trans (by decide) hp
    | with_reducible apply vectorCommand_touch
    | with_reducible apply touchR_next

theorem execLogsumexp_touch (hp : ([.log, .safe, .stats, .clusters, .job, .upd, .limbers, .stash, .cow, .skid, .sync, .host, .ingest, .snap, .ctr, .out, .free] : List Part) ⊆ ps) (cl : ℕ) (s : State)  (h : Touch ps s0 s) :
    TouchR ps s0 (execLogsumexp cl s) := by
  unfold execLogsumexp; try dsimp only
  repeat' first
    | with_reducible assumption
    | exact List.Subset.trans (by decide) hp
    | with_reducible apply vectorCommand_touch
    | with_reducible apply touchR_next

theorem execMax_touch (hp : ([.log, .safe, .stats, .clusters, .job, .upd, .limbers, .stash, .cow, .skid, .sync, .host, .ingest, .snap, .ctr, .out, .free] : List Part) ⊆ ps) (cl : ℕ) (s : State)  (h : Touch ps s0 s) :
    TouchR ps s0 (execMax cl s) := by
  unfold execMax; try dsimp only
  repeat' first
    | with_reducible assumption
    | exact List.Subset.trans (by decide) hp
    | with_reducible apply vectorCommand_touch
    | with_reducible apply touchR_next

theorem execMaxImm_touch (hp : ([.log, .safe, .stats, .clusters, .job, .upd, .limbers, .stash, .cow, .skid, .sync, .host, .ingest, .snap, .ctr, .out, .free] : List Part) ⊆ ps) (cl : ℕ) (s : State)  (h : Touch ps s0 s) :
    TouchR ps s0 (execMaxImm cl s) := by
  unfold execMaxImm; try dsimp only
  repeat' first
    | with_reducible assumption
    | exact List.Subset.trans (by decide) hp
    | with_reducible apply vectorCommand_touch
    | with_reducible apply touchR_next

theorem execMin_touch (hp : ([.log, .safe, .stats, .clusters, .job, .upd, .limbers, .stash, .cow, .skid, .sync, .host, .ingest, .snap, .ctr, .out, .free] : List Part) ⊆ ps) (cl : ℕ) (s : State)  (h : Touch ps s0 s) :
    TouchR ps s0 (execMin cl s) := by
  unfold execMin; try dsimp only
  repeat' first
    | with_reducible assumption
    | exact List.Subset.trans (by decide) hp
    | with_reducible apply vectorCommand_touch
    | with_reducible apply touchR_next

theorem execMinImm_touch (hp : ([.log, .safe, .stats, .clusters, .job, .upd, .limbers, .stash, .cow, .skid, .sync, .host, .ingest, .snap, .ctr, .out, .free] : List Part) ⊆ ps) (cl : ℕ) (s : State)  (h : Touch ps s0 s) :
    TouchR ps s0 (execMinImm cl s) := by
  unfold execMinImm; try dsimp only
  repeat' first
    | with_reducible assumption
    | exact List.Subset.trans (by decide) hp
    | with_reducible apply vectorCommand_touch
    | with_reducible apply touchR_next

theorem execMul_touch (hp : ([.log, .safe, .stats, .clusters, .job, .upd, .limbers, .stash, .cow, .skid, .sync, .host, .ingest, .snap, .ctr, .out, .free] : List Part) ⊆ ps) (cl : ℕ) (s : State)  (h : Touch ps s0 s) :
    TouchR ps s0 (execMul cl s) := by
  unfold execMul; try dsimp only
  repeat' first
    | with_reducible assumption
    | exact List.Subset.trans (by decide) hp
    | with_reducible apply vectorCommand_touch
    | with_reducible apply touchR_next

theorem execMulImm_touch (hp : ([.log, .safe, .stats, .clusters, .job, .upd, .limbers, .stash, .cow, .skid, .sync, .host, .ingest, .snap, .ctr, .out, .free] : List Part) ⊆ ps) (cl : ℕ) (s : State)  (h : Touch ps s0 s) :
    TouchR ps s0 (execMulImm cl s) := by
  unfold execMulImm; try dsimp only
  repeat' first
    | with_reducible assumption
    | exact List.Subset.trans (by decide) hp
    | with_reducible apply vectorCommand_touch
    | with_reducible apply touchR_next

theorem execRecip_touch (hp : ([.log, .safe, .stats, .clusters, .job, .upd, .limbers, .stash, .cow, .skid, .sync, .host, .ingest, .snap, .ctr, .out, .free] : List Part) ⊆ ps) (cl : ℕ) (s : State)  (h : Touch ps s0 s) :
    TouchR ps s0 (execRecip cl s) := by
  unfold execRecip; try dsimp only
  repeat' first
    | with_reducible assumption
    | exact List.Subset.trans (by decide) hp
    | with_reducible apply vectorCommand_touch
    | with_reducible apply touchR_next

theorem execRsqrt_touch (hp : ([.log, .safe, .stats, .clusters, .job, .upd, .limbers, .stash, .cow, .skid, .sync, .host, .ingest, .snap, .ctr, .out, .free] : List Part) ⊆ ps) (cl : ℕ) (s : State)  (h : Touch ps s0 s) :
    TouchR ps s0 (execRsqrt cl s) := by
  unfold execRsqrt; try dsimp only
  repeat' first
    | with_reducible assumption
    | exact List.Subset.trans (by decide) hp
    | with_reducible apply vectorCommand_touch
    | with_reducible apply touchR_next

theorem execSegMax_touch (hp : ([.log, .safe, .stats, .clusters, .job, .upd, .limbers, .stash, .cow, .skid, .sync, .host, .ingest, .snap, .ctr, .out, .free] : List Part) ⊆ ps) (cl : ℕ) (s : State)  (h : Touch ps s0 s) :
    TouchR ps s0 (execSegMax cl s) := by
  unfold execSegMax; try dsimp only
  repeat' first
    | with_reducible assumption
    | exact List.Subset.trans (by decide) hp
    | with_reducible apply vectorCommand_touch
    | with_reducible apply touchR_next

theorem execSegMin_touch (hp : ([.log, .safe, .stats, .clusters, .job, .upd, .limbers, .stash, .cow, .skid, .sync, .host, .ingest, .snap, .ctr, .out, .free] : List Part) ⊆ ps) (cl : ℕ) (s : State)  (h : Touch ps s0 s) :
    TouchR ps s0 (execSegMin cl s) := by
  unfold execSegMin; try dsimp only
  repeat' first
    | with_reducible assumption
    | exact List.Subset.trans (by decide) hp
    | with_reducible apply vectorCommand_touch
    | with_reducible apply touchR_next

theorem execSegScale_touch (hp : ([.log, .safe, .stats, .clusters, .job, .upd, .limbers, .stash, .cow, .skid, .sync, .host, .ingest, .snap, .ctr, .out, .free] : List Part) ⊆ ps) (cl : ℕ) (s : State)  (h : Touch ps s0 s) :
    TouchR ps s0 (execSegScale cl s) := by
  unfold execSegScale; try dsimp only
  repeat' first
    | with_reducible assumption
    | exact List.Subset.trans (by decide) hp
    | with_reducible apply vectorCommand_touch
    | with_reducible apply touchR_next

theorem execSegSub_touch (hp : ([.log, .safe, .stats, .clusters, .job, .upd, .limbers, .stash, .cow, .skid, .sync, .host, .ingest, .snap, .ctr, .out, .free] : List Part) ⊆ ps) (cl : ℕ) (s : State)  (h : Touch ps s0 s) :
    TouchR ps s0 (execSegSub cl s) := by
  unfold execSegSub; try dsimp only
  repeat' first
    | with_reducible assumption
    | exact List.Subset.trans (by decide) hp
    | with_reducible apply vectorCommand_touch
    | with_reducible apply touchR_next

theorem execSegSum_touch (hp : ([.log, .safe, .stats, .clusters, .job, .upd, .limbers, .stash, .cow, .skid, .sync, .host, .ingest, .snap, .ctr, .out, .free] : List Part) ⊆ ps) (cl : ℕ) (s : State)  (h : Touch ps s0 s) :
    TouchR ps s0 (execSegSum cl s) := by
  unfold execSegSum; try dsimp only
  repeat' first
    | with_reducible assumption
    | exact List.Subset.trans (by decide) hp
    | with_reducible apply vectorCommand_touch
    | with_reducible apply touchR_next

theorem execSegSumsq_touch (hp : ([.log, .safe, .stats, .clusters, .job, .upd, .limbers, .stash, .cow, .skid, .sync, .host, .ingest, .snap, .ctr, .out, .free] : List Part) ⊆ ps) (cl : ℕ) (s : State)  (h : Touch ps s0 s) :
    TouchR ps s0 (execSegSumsq cl s) := by
  unfold execSegSumsq; try dsimp only
  repeat' first
    | with_reducible assumption
    | exact List.Subset.trans (by decide) hp
    | with_reducible apply vectorCommand_touch
    | with_reducible apply touchR_next

theorem execSigmoid_touch (hp : ([.log, .safe, .stats, .clusters, .job, .upd, .limbers, .stash, .cow, .skid, .sync, .host, .ingest, .snap, .ctr, .out, .free] : List Part) ⊆ ps) (cl : ℕ) (s : State)  (h : Touch ps s0 s) :
    TouchR ps s0 (execSigmoid cl s) := by
  unfold execSigmoid; try dsimp only
  repeat' first
    | with_reducible assumption
    | exact List.Subset.trans (by decide) hp
    | with_reducible apply vectorCommand_touch
    | with_reducible apply touchR_next

theorem execSilu_touch (hp : ([.log, .safe, .stats, .clusters, .job, .upd, .limbers, .stash, .cow, .skid, .sync, .host, .ingest, .snap, .ctr, .out, .free] : List Part) ⊆ ps) (cl : ℕ) (s : State)  (h : Touch ps s0 s) :
    TouchR ps s0 (execSilu cl s) := by
  unfold execSilu; try dsimp only
  repeat' first
    | with_reducible assumption
    | exact List.Subset.trans (by decide) hp
    | with_reducible apply vectorCommand_touch
    | with_reducible apply touchR_next

theorem execSlice_touch (hp : ([.log, .safe, .stats, .clusters, .job, .upd, .limbers, .stash, .cow, .skid, .sync, .host, .ingest, .snap, .ctr, .out, .free] : List Part) ⊆ ps) (cl : ℕ) (s : State)  (h : Touch ps s0 s) :
    TouchR ps s0 (execSlice cl s) := by
  unfold execSlice; try dsimp only
  repeat' first
    | with_reducible assumption
    | exact List.Subset.trans (by decide) hp
    | with_reducible apply vectorCommand_touch
    | with_reducible apply touchR_next

theorem execSoftmax_touch (hp : ([.log, .safe, .stats, .clusters, .job, .upd, .limbers, .stash, .cow, .skid, .sync, .host, .ingest, .snap, .ctr, .out, .free] : List Part) ⊆ ps) (cl : ℕ) (s : State)  (h : Touch ps s0 s) :
    TouchR ps s0 (execSoftmax cl s) := by
  unfold execSoftmax; try dsimp only
  repeat' first
    | with_reducible assumption
    | exact List.Subset.trans (by decide) hp
    | with_reducible apply vectorCommand_touch
    | with_reducible apply touchR_next

theorem execSqdiff_touch (hp : ([.log, .safe, .stats, .clusters, .job, .upd, .limbers, .stash, .cow, .skid, .sync, .host, .ingest, .snap, .ctr, .out, .free] : List Part) ⊆ ps) (cl : ℕ) (s : State)  (h : Touch ps s0 s) :
    TouchR ps s0 (execSqdiff cl s) := by
  unfold execSqdiff; try dsimp only
  repeat' first
    | with_reducible assumption
    | exact List.Subset.trans (by decide) hp
    | with_reducible apply vectorCommand_touch
    | with_reducible apply touchR_next

theorem execSqrt_touch (hp : ([.log, .safe, .stats, .clusters, .job, .upd, .limbers, .stash, .cow, .skid, .sync, .host, .ingest, .snap, .ctr, .out, .free] : List Part) ⊆ ps) (cl : ℕ) (s : State)  (h : Touch ps s0 s) :
    TouchR ps s0 (execSqrt cl s) := by
  unfold execSqrt; try dsimp only
  repeat' first
    | with_reducible assumption
    | exact List.Subset.trans (by decide) hp
    | with_reducible apply vectorCommand_touch
    | with_reducible apply touchR_next

theorem execSub_touch (hp : ([.log, .safe, .stats, .clusters, .job, .upd, .limbers, .stash, .cow, .skid, .sync, .host, .ingest, .snap, .ctr, .out, .free] : List Part) ⊆ ps) (cl : ℕ) (s : State)  (h : Touch ps s0 s) :
    TouchR ps s0 (execSub cl s) := by
  unfold execSub; try dsimp only
  repeat' first
    | with_reducible assumption
    | exact List.Subset.trans (by decide) hp
    | with_reducible apply vectorCommand_touch
    | with_reducible apply touchR_next

theorem execTanh_touch (hp : ([.log, .safe, .stats, .clusters, .job, .upd, .limbers, .stash, .cow, .skid, .sync, .host, .ingest, .snap, .ctr, .out, .free] : List Part) ⊆ ps) (cl : ℕ) (s : State)  (h : Touch ps s0 s) :
    TouchR ps s0 (execTanh cl s) := by
  unfold execTanh; try dsimp only
  repeat' first
    | with_reducible assumption
    | exact List.Subset.trans (by decide) hp
    | with_reducible apply vectorCommand_touch
    | with_reducible apply touchR_next

theorem execTopk_touch (hp : ([.log, .safe, .stats, .clusters, .job, .upd, .limbers, .stash, .cow, .skid, .sync, .host, .ingest, .snap, .ctr, .out, .free] : List Part) ⊆ ps) (cl : ℕ) (s : State)  (h : Touch ps s0 s) :
    TouchR ps s0 (execTopk cl s) := by
  unfold execTopk; try dsimp only
  repeat' first
    | with_reducible assumption
    | exact List.Subset.trans (by decide) hp
    | with_reducible apply State.issue_touch
    | with_reducible apply State.vecIssue_touch
    | with_reducible apply touchR_next
    | with_reducible intro _

theorem execVectorOpComplete_touch (hp : ([.log, .safe, .stats, .clusters, .job, .upd, .banks, .limbers, .cow, .cxl, .base, .skid, .sync, .host, .ingest, .snap, .mem, .ctr, .out, .free] : List Part) ⊆ ps) (cl : ℕ) (checks : List MemCheck) (s : State)  (h : Touch ps s0 s) :
    TouchR ps s0 (execVectorOpComplete cl checks s) := by
  unfold execVectorOpComplete; try dsimp only
  repeat' first
    | with_reducible assumption
    | exact List.Subset.trans (by decide) hp
    | with_reducible apply State.bump_touch
    | with_reducible apply State.modCl_touch
    | with_reducible apply State.checked_touch
    | with_reducible apply State.runVector_touch
    | with_reducible apply State.settle_touch
    | with_reducible apply State.vuRetired_touch
    | with_reducible apply touch_ite
    | with_reducible apply touchR_ite
    | with_reducible apply touchR_next
    | with_reducible refine touch_of_snd (by assumption) ?_
    | with_reducible intro _
    | split

theorem execXent_touch (hp : ([.log, .safe, .stats, .clusters, .job, .upd, .limbers, .stash, .cow, .skid, .sync, .host, .ingest, .snap, .ctr, .out, .free] : List Part) ⊆ ps) (cl : ℕ) (s : State)  (h : Touch ps s0 s) :
    TouchR ps s0 (execXent cl s) := by
  unfold execXent; try dsimp only
  repeat' first
    | with_reducible assumption
    | exact List.Subset.trans (by decide) hp
    | with_reducible apply vectorCommand_touch
    | with_reducible apply touchR_next

theorem execXentGrad_touch (hp : ([.log, .safe, .stats, .clusters, .job, .upd, .limbers, .stash, .cow, .skid, .sync, .host, .ingest, .snap, .ctr, .out, .free] : List Part) ⊆ ps) (cl : ℕ) (s : State)  (h : Touch ps s0 s) :
    TouchR ps s0 (execXentGrad cl s) := by
  unfold execXentGrad; try dsimp only
  repeat' first
    | with_reducible assumption
    | exact List.Subset.trans (by decide) hp
    | with_reducible apply vectorCommand_touch
    | with_reducible apply touchR_next

end Sys2Proof.Machine
end

