-- ==== Sys2Proof/Laws/Issued.lean ====
section
/-! SUPPORT. What issuing an instruction does (R151, R175, R216, R469): its signature, what follows it, the cluster it leaves. -/

namespace Sys2Proof.Machine

theorem cl_modCl (s : State) (n : Nat) (f : Cluster → Cluster) : (s.modCl n f).cl n = f (s.cl n) := sget_supd_same _ _ _ _
theorem cl_modCl_other (s : State) (n m : Nat) (f : Cluster → Cluster) (h : m ≠ n) : (s.modCl n f).cl m = s.cl m := sget_supd_other _ _ _ _ _ h
theorem cl_of {s t : State} (h : t.clusters = s.clusters) (n : Nat) : t.cl n = s.cl n := by unfold State.cl; rw [h]
theorem count_of {s t : State} (h : t.ctr = s.ctr) (k : Nat) : t.count k = s.count k := by unfold State.count; rw [h]
theorem count_bump_other (s : State) (k j n : Nat) (h : j ≠ k) : (s.bump k n).count j = s.count j := sget_sset_other _ _ _ _ _ h
theorem count_bump (s : State) (k n : Nat) : (s.bump k n).count k = s.count k + n := sget_sset_same _ _ _ _

theorem cl_bump (s : State) (k n m : Nat) : (s.bump k n).cl m = s.cl m := rfl
theorem event_clusters (s : State) (a b : Nat) (d : Bytes) : (s.event a b d).clusters = s.clusters := by simp

theorem sb_modCl (s : State) (n : Nat) (f : Cluster → Cluster) : SameBut [.clusters] s (s.modCl n f) := by
  intro p hp; cases p <;> first | exact absurd (by decide) hp | rfl
theorem sb_ctr (s : State) (k n : Nat) : SameBut [.ctr] s (s.bump k n) := by
  intro p hp; cases p <;> first | exact absurd (by decide) hp | rfl

/-- Where the signature is as expected, signing changes the cluster's signature and the count of signatures alone. -/
theorem State.sign_ok (s : State) (cl : Nat) (f : Fetched) (h : Issues s cl f) :
    (∃ g, (s.sign cl f).cl cl = { s.cl cl with sig := g }) ∧ (∀ n, n ≠ cl → (s.sign cl f).cl n = s.cl n) ∧
    (s.sign cl f).count kIssued = s.count kIssued ∧ SameBut [.clusters, .ctr] s (s.sign cl f) := by
  unfold State.sign
  dsimp only
  split
  · rename_i hc
    rw [if_pos (h.2 hc)]
    refine ⟨⟨_, by rw [cl_bump, cl_modCl]⟩, fun n hn => by rw [cl_bump]; exact cl_modCl_other s cl n _ hn, ?_, ?_⟩
    · rw [count_bump_other _ _ _ _ (by decide)]; rfl
    · exact ((sb_modCl s cl _).trans (sb_ctr _ _ _)).mono (by decide)
  · refine ⟨⟨_, by rw [cl_modCl]⟩, fun n hn => cl_modCl_other s cl n _ hn, rfl, ?_⟩
    exact (sb_modCl s cl _).mono (by decide)

/-- Sending a message changes no counter. -/
theorem State.sendOn_ctr (s : State) (a b c d e : Nat) (x : Bytes) : (s.sendOn a b c d e x).ctr = s.ctr :=
  (State.sendOn_touch (List.Subset.refl _) s a b c d e x (Touch.refl _ s)) .ctr (by decide)
theorem State.signal_count (s : State) (src id inc step k : Nat) (h : k ≠ kRecordsLost) (h2 : k ≠ kEventRecords) (h3 : k ≠ kFramesTx) :
    (s.signal src id inc step).count k = s.count k := by
  unfold State.signal
  dsimp only
  split
  · split
    · exact count_of (State.sendOn_ctr _ _ _ _ _ _ _) _
    · exact State.event_count _ _ _ _ _ h h2 h3
  · rfl

/-- Giving signals leaves the work of every cluster alone. -/
theorem State.giveSignals_spec (s : State) (cl : Nat) :
    (((s.giveSignals cl).cl cl).work = (s.cl cl).work ∧ ((s.giveSignals cl).cl cl).step = (s.cl cl).step) ∧
    (∀ n, n ≠ cl → (s.giveSignals cl).cl n = s.cl n) ∧ (s.giveSignals cl).count kIssued = s.count kIssued ∧
    SameBut issueParts s (s.giveSignals cl) := by
  have hb : SameBut issueParts s (s.giveSignals cl) :=
    SameBut.mono (State.giveSignals_touch (List.Subset.refl _) s cl (Touch.refl _ s)) (by decide)
  suffices h : (((s.giveSignals cl).cl cl).work = (s.cl cl).work ∧ ((s.giveSignals cl).cl cl).step = (s.cl cl).step) ∧
      (∀ n, n ≠ cl → (s.giveSignals cl).cl n = s.cl n) ∧ (s.giveSignals cl).count kIssued = s.count kIssued from
    ⟨h.1, h.2.1, h.2.2, hb⟩
  unfold State.giveSignals
  dsimp only
  generalize (s.cl cl).signals.filter _ = l
  generalize hu : (s.modCl cl fun c => { c with signals := c.signals.filter _ }) = u
  have h1 : (u.cl cl).work = (s.cl cl).work ∧ (u.cl cl).step = (s.cl cl).step := by rw [← hu, cl_modCl]; exact ⟨rfl, rfl⟩
  have h2 : ∀ n, n ≠ cl → u.cl n = s.cl n := by rw [← hu]; exact fun n hn => cl_modCl_other s cl n _ hn
  have h3 : u.count kIssued = s.count kIssued := by rw [← hu]; rfl
  clear hu
  have sg : ∀ (v : State) (g : PendSignal), (if g.inc = 0 then v else v.signal (v.seqSrc cl) g.id g.inc g.step).clusters = v.clusters ∧
      (if g.inc = 0 then v else v.signal (v.seqSrc cl) g.id g.inc g.step).count kIssued = v.count kIssued := by
    intro v g
    split
    · exact ⟨rfl, rfl⟩
    · exact ⟨(State.signal_touch (List.Subset.refl _) v _ _ _ _ (Touch.refl _ v)) .clusters (by decide),
        State.signal_count _ _ _ _ _ _ (by decide) (by decide) (by decide)⟩
  have k1 := foldl_same (fun s : State => s.clusters) _ l u fun v g => (sg v g).1
  have k2 := foldl_same (fun s : State => s.count kIssued) _ l u fun v g => (sg v g).2
  refine ⟨⟨?_, ?_⟩, fun n hn => ?_, k2.trans h3⟩
  · rw [cl_of k1, h1.1]
  · rw [cl_of k1, h1.2]
  · rw [cl_of k1, h2 n hn]

theorem onTime_of {s v : State} {cl : Nat} (hj : v.job = s.job) (hc : (v.cl cl).step = (s.cl cl).step) (h : OnTime s cl) : OnTime v cl := by
  unfold OnTime State.stepRec State.clStep
  rw [hj, hc]
  exact h

/-- Whether a module straggles rests on the job apart from the events raised. -/
theorem onTime_duty {s v : State} {cl : Nat} (hj : v.duty = s.duty) (hc : (v.cl cl).step = (s.cl cl).step) (h : OnTime s cl) : OnTime v cl := by
  have h1 : v.job.steps = s.job.steps := by have := congrArg Job.steps hj; exact this
  have h2 : v.job.startStep = s.job.startStep := by have := congrArg Job.startStep hj; exact this
  unfold OnTime State.stepRec State.clStep
  rw [h1, h2, hc]
  exact h

/-- The end of a pass of the stream, where the step after it does not straggle: its drain input is gone, and the next index is 0. -/
theorem State.wrap_onTime (s : State) (cl : Nat) (h : OnTime s cl) :
    s.wrap cl = s ∨ ∃ n, s.wrap cl = (let s1 := s.modCl cl (fun c => { c with index := 0, step := c.step + 1, drainIn := [], sig := 0xFFFFFFFF#32 });
      if n = 0 then s1 else (s1.bump kDiscards n).event (s.seqSrc cl) 0x2600 (u32 n)) := by
  unfold State.wrap
  split
  · exact .inl rfl
  · dsimp only
    split
    · refine .inr ⟨_, if_neg ?_⟩
      have hj : ∀ v : State, v.job = s.job → (v.cl cl).step = (s.cl cl).step + 1 → ¬((v.stepRec (v.clStep cl)).straggles = true) := by
        intro v h1 h2
        have h3 : v.clStep cl = s.clStep cl + 1 := by unfold State.clStep; rw [h1, h2]; omega
        rw [h3, show v.stepRec (s.clStep cl + 1) = s.stepRec (s.clStep cl + 1) from by unfold State.stepRec; rw [h1]]
        rw [h]; decide
      apply hj
      · split
        · rfl
        · simp
      · split
        · rw [cl_modCl]
        · rw [cl_of (event_clusters _ _ _ _), cl_bump, cl_modCl]
    · exact .inl rfl

/-- What follows every issue and every retirement leaves the work of every cluster alone (R175, R216), where the next step does not
straggle already. -/
theorem State.settle_spec (s : State) (cl : Nat) (h : OnTime s cl) :
    ((s.settle cl).cl cl).work = (s.cl cl).work ∧ (∀ n, n ≠ cl → (s.settle cl).cl n = s.cl n) ∧
    (s.settle cl).count kIssued = s.count kIssued ∧ SameBut issueParts s (s.settle cl) := by
  obtain ⟨⟨g1, g2⟩, g3, g4, g5⟩ := s.giveSignals_spec cl
  have ho : OnTime (s.giveSignals cl) cl := onTime_of (g5 .job (by decide)) g2 h
  unfold State.settle
  generalize s.giveSignals cl = u at *
  rcases u.wrap_onTime cl ho with e | ⟨n, e⟩
  · rw [e]; exact ⟨g1, g3, g4, g5⟩
  · rw [e]
    dsimp only
    have hm := sb_modCl u cl (fun c => { c with index := 0, step := c.step + 1, drainIn := [], sig := 0xFFFFFFFF#32 })
    split
    · exact ⟨by rw [cl_modCl, ← g1]; rfl, fun m hn => (cl_modCl_other _ _ _ _ hn).trans (g3 m hn), g4, (g5.trans hm).mono (by decide)⟩
    · refine ⟨?_, fun m hn => ?_, ?_, ((g5.trans hm).trans (sb_bump_event _ _ _ _ _ _)).mono (by decide)⟩
      · rw [cl_of (event_clusters _ _ _ _), cl_bump, cl_modCl, ← g1]; rfl
      · rw [cl_of (event_clusters _ _ _ _), cl_bump]; exact (cl_modCl_other _ _ _ _ hn).trans (g3 m hn)
      · rw [State.event_count _ _ _ _ _ (by decide) (by decide) (by decide), count_bump_other _ _ _ _ (by decide)]; exact g4

/-- An instruction that may issue, that this command selects and no check refuses, is signed, counted and executed. -/
theorem State.issue_ok {s : State} {cl : Nat} {f : Fetched} (h : Issues s cl f) (sel : State → Nat → Bool) (check : State → Fetched → Verdict)
    (act : State → Fetched → State) (hs : sel s f.word = true) (hc : check (s.sign cl f) f = .ok) :
    s.issue cl sel check act = (act ((s.sign cl f).step1 cl) f).settle cl := by
  unfold State.issue
  rw [h.1]
  dsimp only
  rw [if_pos hs, hc]
  rw [if_neg]
  rw [show (s.sign cl f).job = s.job from (s.sign_ok cl f h).2.2.2 .job (by decide)]
  intro he
  have := h.1
  unfold State.fetch at this
  split at this
  · exact absurd this (by simp)
  · dsimp only at this
    split at this
    · exact absurd this (by simp)
    · split at this
      · rename_i hh; rw [he] at hh; simp at hh
      · exact absurd this (by simp)

/-- The state in which an instruction acts: its cluster moved on in its stream, and counted once more. -/
theorem State.step1_spec {s : State} {cl : Nat} {f : Fetched} (h : Issues s cl f) :
    (∃ i g, ((s.sign cl f).step1 cl).cl cl = { s.cl cl with index := i, sig := g, issued := (s.cl cl).issued + 1 }) ∧
    (∀ n, n ≠ cl → ((s.sign cl f).step1 cl).cl n = s.cl n) ∧
    ((s.sign cl f).step1 cl).count kIssued = s.count kIssued + 1 ∧ SameBut [.clusters, .ctr] s ((s.sign cl f).step1 cl) := by
  obtain ⟨⟨g, h1⟩, h4, h5, h6⟩ := s.sign_ok cl f h
  generalize s.sign cl f = u at *
  unfold State.step1
  refine ⟨⟨_, g, by rw [cl_bump, cl_modCl, h1]⟩, fun n hn => Eq.trans (by rw [cl_bump]; exact cl_modCl_other u cl n _ hn) (h4 n hn), ?_, ?_⟩
  · rw [count_bump]
    show u.count kIssued + 1 = _
    rw [h5]
  · exact ((h6.trans (sb_modCl u cl _)).trans (sb_ctr _ _ _)).mono (by decide)

theorem State.step1_onTime {s : State} {cl : Nat} {f : Fetched} (h : Issues s cl f) (ht : OnTime s cl) : OnTime ((s.sign cl f).step1 cl) cl := by
  obtain ⟨⟨i, g, e⟩, _, _, hb⟩ := State.step1_spec h
  exact onTime_of (hb .job (by decide)) (by rw [e]) ht

/-- An instruction has issued once its action, on the state that issue leaves, gives the cluster the work of `c`. -/
theorem issued_of {s v : State} {cl : Nat} {f : Fetched} (h : Issues s cl f) {c : Cluster}
    (hw : (v.cl cl).work = { c.work with issued := (s.cl cl).issued + 1 }) (ho : ∀ n, n ≠ cl → v.cl n = ((s.sign cl f).step1 cl).cl n)
    (ht : OnTime v cl)
    (hk : v.count kIssued = ((s.sign cl f).step1 cl).count kIssued) : Issued s (v.settle cl) cl c := by
  obtain ⟨_, a4, a5, _⟩ := State.step1_spec h
  obtain ⟨b1, b2, b3, _⟩ := v.settle_spec cl ht
  exact ⟨b1.trans hw, fun n hn => (b2 n hn).trans ((ho n hn).trans (a4 n hn)), b3.trans (hk.trans a5)⟩

theorem issued_sb {s v : State} {cl : Nat} {f : Fetched} (h : Issues s cl f) {ps : List Part} (hv : SameBut ps ((s.sign cl f).step1 cl) v)
    (ht : OnTime v cl) :
    SameBut (ps ++ issueParts) s (v.settle cl) :=
  (((State.step1_spec h).2.2.2.trans hv).trans (v.settle_spec cl ht).2.2.2).mono (by
    intro p hp
    rcases List.mem_append.1 hp with hp | hp
    · rcases List.mem_append.1 hp with hp | hp
      · exact List.mem_append.2 (.inr (by cases p <;> first | exact absurd hp (by decide) | decide))
      · exact List.mem_append.2 (.inl hp)
    · exact List.mem_append.2 (.inr hp))

end Sys2Proof.Machine
end

