-- ==== Sys2Proof/Laws/Memory.lean ====
section
/-! SUPPORT. The range operations of memory keep its canonical form. -/

namespace Sys2Proof.Machine

theorem swfFrom_filter {v : Type} [DecidableEq v] (d : v) (p : Nat × v → Bool) (m : List (Nat × v)) (lo : Nat)
    (w : swfFrom d lo m = true) : swfFrom d lo (m.filter p) = true := by
  induction m generalizing lo with
  | nil => exact w
  | cons e m ih =>
    obtain ⟨a, x⟩ := e
    simp only [swfFrom, Bool.and_eq_true, decide_eq_true_eq] at w
    rw [List.filter_cons]
    split
    · simp only [swfFrom, Bool.and_eq_true, decide_eq_true_eq]
      exact ⟨w.1, ih _ w.2⟩
    · exact swfFrom_mono d _ lo (a + 1) (by omega) (ih _ w.2)

theorem clearRange_wf (m : List (Nat × Byte)) (a n : Nat) (w : Memory.wf m = true) : Memory.wf (clearRange m a n) = true :=
  swfFrom_filter _ _ m 0 w

theorem putCells_wf (m : List (Nat × Byte)) (a n : Nat) (cells : List (Nat × Byte)) (w : Memory.wf m = true) :
    Memory.wf (putCells m a n cells) = true := by
  unfold putCells
  have : ∀ (cells : List (Nat × Byte)) m, Memory.wf m = true →
      Memory.wf (cells.foldl (fun m e => writeByte m (a + e.1) e.2) m) = true := by
    intro cells
    induction cells with
    | nil => exact fun _ w => w
    | cons c cs ih => exact fun m w => ih _ (writeByte_wf m _ _ w)
  exact this cells _ (clearRange_wf m a n w)

theorem copyRange_wf (m : List (Nat × Byte)) (src dst n : Nat) (w : Memory.wf m = true) :
    Memory.wf (copyRange m src dst n) = true := putCells_wf m dst n _ w

/-- A number of `n` bytes is below 256^n. -/
theorem leNat_lt (bs : Bytes) : leNat bs < 256 ^ bs.length := by
  induction bs with
  | nil => simp [leNat]
  | cons b bs ih =>
    have := b.isLt
    simp only [leNat, List.length_cons, Nat.pow_succ] at *
    omega

theorem fieldAt_lt (bs : Bytes) (o n : Nat) : fieldAt bs o n < 256 ^ n :=
  Nat.lt_of_lt_of_le (leNat_lt _) (Nat.pow_le_pow_right (by decide) (by simp [slice]))

/-- A fold whose every step keeps the canonical form keeps it. -/
theorem foldl_wf {α : Type} (f : List (Nat × Byte) → α → List (Nat × Byte)) (l : List α) (m : List (Nat × Byte))
    (hf : ∀ m x, Memory.wf m = true → Memory.wf (f m x) = true) (w : Memory.wf m = true) : Memory.wf (l.foldl f m) = true := by
  induction l generalizing m with
  | nil => exact w
  | cons x l ih => exact ih _ (hf m x w)

end Sys2Proof.Machine
end

