-- ==== Sys2Proof/Laws/Kept.lean ====
section
/-! SUPPORT. What every operation keeps: the queue, the record of what was sent, the free values used up, the invariant.
Lemmas are stated after an operation already known to keep them, so that chains of operations need no transitivity. -/

namespace Sys2Proof.Machine

/-- `t` comes from `s` by operations that leave the queue alone, only add to what was sent and to the free values used, and
keep the invariant. -/
def Kept (s t : State) : Prop :=
  t.pending = s.pending ∧ s.out <+: t.out ∧ s.free ≤ t.free ∧ (Inv s → Inv t)

theorem Kept.refl (s : State) : Kept s s := ⟨rfl, List.prefix_rfl, Nat.le_refl _, id⟩

theorem Kept.trans {a b c : State} (h : Kept a b) (k : Kept b c) : Kept a c :=
  ⟨k.1.trans h.1, h.2.1.trans k.2.1, Nat.le_trans h.2.2.1 k.2.2.1, fun i => k.2.2.2 (h.2.2.2 i)⟩

/-- An answer keeps them. -/
def KeptA (s : State) (a : Answer) : Prop := Kept s a.s
/-- A possible state keeps them. -/
def KeptO (s : State) (o : Option State) : Prop := ∀ t, o = some t → Kept s t
/-- A possible pair keeps them. -/
def KeptP {α : Type} (s : State) (o : Option (α × State)) : Prop := ∀ p, o = some p → Kept s p.2
/-- A result of a command keeps them. -/
def KeptR (s : State) (r : Res) : Prop := ∀ t, r = .next t → Kept s t

variable {s0 s t : State}

/-- A state written field by field from one that keeps them. -/
theorem kept_mk {time : TimeEngine} {start : Startup} {log : Log} {safe : Safety} {bg : Background} {stats : Stats}
    {clusters : List (Nat × Cluster)} {job : Job} {upd : Update} {banks : List (Nat × Bank)} {limbers : List (Nat × Limber)}
    {stash : Stash} {cow : Cow} {cxl : Cxl} {base : List (Nat × BaseDie)} {spine : List (Nat × Spine)}
    {skid : List (Nat × SkidPort)} {net : Net} {sync : Sync} {tally : Tally} {host : HostPort} {ingest : Ingest} {snap : Snaps}
    {power : Power} {mem : List (Nat × BitVec 8)} {ctr : List (Nat × Nat)} {out : List Output} {free : Nat}
    (h : Kept s0 t) (ho : t.out <+: out) (hf : t.free ≤ free)
    (hm : Memory.wf t.mem = true → Memory.wf mem = true) (ht : TimeOk t.time → TimeOk time) (hl : LogOk t.log → LogOk log)
    (hs : SafeOk t.safe → SafeOk safe) (hy : SyncOk t.sync → SyncOk sync) (hj : JobOk t.job → JobOk job)
    (hh : HostOk t.host → HostOk host) :
    Kept s0 ⟨time, start, log, safe, bg, stats, clusters, job, upd, banks, limbers, stash, cow, cxl, base, spine, skid, net, sync,
      tally, host, ingest, snap, power, mem, ctr, out, free, t.pending⟩ :=
  h.trans ⟨rfl, ho, hf, fun i => ⟨hm i.1, ht i.2.1, hl i.2.2.1, hs i.2.2.2.1, hy i.2.2.2.2.1, hj i.2.2.2.2.2.1, hh i.2.2.2.2.2.2⟩⟩

theorem kept_ite {c : Prop} [Decidable c] {a b : State} (ha : c → Kept s0 a) (hb : ¬c → Kept s0 b) :
    Kept s0 (if c then a else b) := by
  split
  · exact ha ‹_›
  · exact hb ‹_›

theorem keptA_ite {c : Prop} [Decidable c] {a b : Answer} (ha : c → KeptA s0 a) (hb : ¬c → KeptA s0 b) :
    KeptA s0 (if c then a else b) := by
  split
  · exact ha ‹_›
  · exact hb ‹_›

theorem keptO_ite {c : Prop} [Decidable c] {a b : Option State} (ha : c → KeptO s0 a) (hb : ¬c → KeptO s0 b) :
    KeptO s0 (if c then a else b) := by
  split
  · exact ha ‹_›
  · exact hb ‹_›

theorem keptR_ite {c : Prop} [Decidable c] {a b : Res} (ha : c → KeptR s0 a) (hb : ¬c → KeptR s0 b) :
    KeptR s0 (if c then a else b) := by
  split
  · exact ha ‹_›
  · exact hb ‹_›

theorem keptA_mk {a : Nat} {d : Bytes} {l : Bool} (h : Kept s0 s) : KeptA s0 ⟨a, d, l, s⟩ := h
theorem keptA_refuse {a : Nat} (h : Kept s0 s) : KeptA s0 (refuse s a) := h
theorem keptA_accept (h : Kept s0 s) : KeptA s0 (accept s) := h
theorem keptA_s {a : Answer} (h : KeptA s0 a) : Kept s0 a.s := h
theorem keptO_some (h : Kept s0 s) : KeptO s0 (some s) := fun _ e => Option.some.inj e ▸ h
theorem keptO_none : KeptO s0 none := fun _ e => nomatch e
theorem keptO_map {α : Type} {o : Option α} {f : α → State} (h : ∀ x, Kept s0 (f x)) : KeptO s0 (o.map f) := by
  intro t e
  obtain ⟨x, _, rfl⟩ := Option.map_eq_some_iff.mp e
  exact h x
theorem keptO_getD {o : Option State} (ho : KeptO s0 o) (h : Kept s0 s) : Kept s0 (o.getD s) := by
  cases o with
  | none => exact h
  | some t => exact ho t rfl
theorem keptP_some {α : Type} {p : α × State} (h : Kept s0 p.2) : KeptP s0 (some p) := fun _ e => Option.some.inj e ▸ h
theorem keptP_none {α : Type} : KeptP (α := α) s0 none := fun _ e => nomatch e
theorem keptP_ite {α : Type} {c : Prop} [Decidable c] {a b : Option (α × State)} (ha : c → KeptP s0 a) (hb : ¬c → KeptP s0 b) :
    KeptP s0 (if c then a else b) := by
  split
  · exact ha ‹_›
  · exact hb ‹_›
theorem keptR_next (h : Kept s0 s) : KeptR s0 (.next s) := fun _ e => by cases e; exact h
theorem keptR_fault {f : Fault} : KeptR s0 (.fault f) := fun _ e => nomatch e
theorem keptR_refused {f : Refusal} : KeptR s0 (.refused f) := fun _ e => nomatch e

theorem kept_of_some {o : Option State} (e : o = some t) (h : KeptO s0 o) : Kept s0 t := h t e
theorem kept_of_pair {α : Type} {o : Option (α × State)} {a : α} (e : o = some (a, t)) (h : KeptP s0 o) : Kept s0 t := h _ e
theorem kept_of_next {o : Res} (e : o = .next t) (h : KeptR s0 o) : Kept s0 t := h t e
theorem kept_of_snd {α : Type} {p : α × State} {a : α} (e : p = (a, t)) (h : Kept s0 p.2) : Kept s0 t := by subst e; exact h
theorem kept_of_fst {α : Type} {p : State × α} {a : α} (e : p = (t, a)) (h : Kept s0 p.1) : Kept s0 t := by subst e; exact h

theorem kept_elim {α : Type} {o : Option α} {f : α → State} (h : Kept s0 s) (hf : ∀ x, Kept s0 (f x)) : Kept s0 (o.elim s f) := by
  cases o with
  | none => exact h
  | some x => exact hf x

theorem kept_foldl {α : Type} {f : State → α → State} (l : List α) (hf : ∀ s x, Kept s0 s → Kept s0 (f s x)) (h : Kept s0 s) :
    Kept s0 (l.foldl f s) := by
  induction l generalizing s with
  | nil => exact h
  | cons x l ih => exact ih (hf s x h)

theorem kept_foldl_mem {α : Type} {f : State → α → State} (l : List α) (hf : ∀ s x, x ∈ l → Kept s0 s → Kept s0 (f s x))
    (h : Kept s0 s) : Kept s0 (l.foldl f s) := by
  induction l generalizing s with
  | nil => exact h
  | cons x l ih => exact ih (fun s y m => hf s y (List.mem_cons_of_mem _ m)) (hf s x List.mem_cons_self h)

theorem kept_foldl_fst {α β : Type} {f : State × β → α → State × β} (l : List α) (p : State × β)
    (hf : ∀ p x, Kept s0 p.1 → Kept s0 (f p x).1) (h : Kept s0 p.1) : Kept s0 (l.foldl f p).1 := by
  induction l generalizing p with
  | nil => exact h
  | cons x l ih => exact ih _ (hf p x h)

theorem kept_foldl_snd {α β : Type} {f : β × State → α → β × State} (l : List α) (p : β × State)
    (hf : ∀ p x, Kept s0 p.2 → Kept s0 (f p x).2) (h : Kept s0 p.2) : Kept s0 (l.foldl f p).2 := by
  induction l generalizing p with
  | nil => exact h
  | cons x l ih => exact ih _ (hf p x h)

theorem kept_ite_fst {α : Type} {c : Prop} [Decidable c] {a b : State × α} (ha : c → Kept s0 a.1) (hb : ¬c → Kept s0 b.1) :
    Kept s0 (if c then a else b).1 := by
  split
  · exact ha ‹_›
  · exact hb ‹_›

theorem kept_ite_snd {α : Type} {c : Prop} [Decidable c] {a b : α × State} (ha : c → Kept s0 a.2) (hb : ¬c → Kept s0 b.2) :
    Kept s0 (if c then a else b).2 := by
  split
  · exact ha ‹_›
  · exact hb ‹_›

/-! ### The parts of the invariant -/

theorem newest_length {α : Type} (n : Nat) (l : List α) : (newest n l).length ≤ n := by
  simp [newest]; omega

theorem timeOk_of {x y : TimeEngine} (a : y.counter = x.counter) (b : y.freqWord = x.freqWord) (c : y.lockedWord = x.lockedWord)
    (h : TimeOk x) : TimeOk y := by unfold TimeOk at *; rw [a, b, c]; exact h
theorem steer_span (offset : Int) (w : Nat) : nominalWord - wordSpan ≤ steer offset w ∧ steer offset w ≤ nominalWord + wordSpan := by
  unfold steer nominalWord wordSpan; dsimp only; split
  · omega
  · split <;> omega
theorem timeOk_steer {x y : TimeEngine} (h : TimeOk x) (offset : Int) (w : Nat) (a : y.counter = x.counter) (b : y.freqWord = steer offset w)
    (c : y.lockedWord = steer offset w ∨ y.lockedWord = x.lockedWord) : TimeOk y := by
  unfold TimeOk at *
  rw [a, b]
  refine ⟨h.1, steer_span _ _, ?_⟩
  rcases c with c | c <;> rw [c]
  · exact steer_span _ _
  · exact h.2.2
theorem timeOk_pass {t : TimeEngine} {c : Nat} (n : Nat) (hc : c < counterEnd) (h : TimeOk t) : TimeOk (t.pass c n) := ⟨hc, h.2⟩
theorem timeOk_counter {x y : TimeEngine} (h : TimeOk x) (a : y.counter < counterEnd) (b : y.freqWord = x.freqWord)
    (c : y.lockedWord = x.lockedWord) : TimeOk y := by unfold TimeOk at *; rw [b, c]; exact ⟨a, h.2⟩
theorem logOk_of {x y : Log} (a : y.ring = x.ring) (b : y.history = x.history) (h : LogOk x) : LogOk y := by
  unfold LogOk at *; rw [a, b]; exact h
theorem safeOk_of {x y : Safety} (a : y.latch = x.latch) (b : y.inhibit = x.inhibit) (h : SafeOk x) : SafeOk y := by
  unfold SafeOk at *; rw [a, b]; exact h
theorem syncOk_of {x y : Sync} (a : y.values = x.values) (h : SyncOk x) : SyncOk y := by unfold SyncOk at *; rw [a]; exact h
theorem jobOk_of {x y : Job} (a : y.state = x.state) (b : y.plan = x.plan) (h : JobOk x) : JobOk y := by
  unfold JobOk at *; rw [a, b]; exact h
/-- A state other than `EMPTY` follows one other than `EMPTY`. -/
theorem jobOk_state {x y : Job} (h : JobOk x) (a : y.state ≠ .empty) (c : x.state ≠ .empty) (b : y.plan = x.plan) : JobOk y := by
  unfold JobOk at *; rw [b]; exact ⟨⟨fun e => absurd e a, fun e => absurd (h.1.2 e) c⟩, h.2⟩
/-- A state other than `EMPTY` with a plan loaded. -/
theorem jobOk_plan {x y : Job} {p : Plan} (h : JobOk x) (e : x.plan = some p) (a : y.state ≠ .empty) (b : y.plan = x.plan) : JobOk y :=
  jobOk_state h a (fun c => by rw [h.1.1 c] at e; cases e) b
theorem safeOk_set {x y : Safety} (a : y.inhibit = true) (_ : SafeOk x) : SafeOk y := fun _ => a
theorem logOk_ring {l : Log} {xs : List EventRec} (h : LogOk l) : LogOk { l with ring := newest 65536 xs } := by
  have := newest_length 65536 xs; unfold LogOk at *; dsimp only; exact ⟨this, h.2⟩
theorem logOk_history {l : Log} {xs : List EventRec} (h : LogOk l) : LogOk { l with history := newest 64 xs } := by
  have := newest_length 64 xs; unfold LogOk at *; dsimp only; exact ⟨h.1, this⟩
theorem hostOk_of {x y : HostPort} (a : y.sessions = x.sessions) (b : y.nonces = x.nonces) (h : HostOk x) : HostOk y := by
  unfold HostOk at *; rw [a, b]; exact h

theorem logOk_advance {l : Log} (src st : Nat) (h : LogOk l) : LogOk (l.advance src st) := h

theorem syncOk_sset {m : List (Nat × Nat)} {k v : Nat} (h : ∀ e ∈ m, e.2 < 2 ^ 32) (hv : v < 2 ^ 32) :
    ∀ e ∈ sset 0 m k v, e.2 < 2 ^ 32 := by
  intro e he
  rcases mem_sset 0 m k v e he with he | he
  · exact h e he
  · subst he; exact hv

theorem sget_lt {m : List (Nat × Nat)} (k b : Nat) (hb : 0 < b) (h : ∀ e ∈ m, e.2 < b) : sget 0 m k < b := by
  induction m with
  | nil => exact hb
  | cons e m ih =>
    obtain ⟨a, x⟩ := e
    simp only [sget]
    split
    · exact h (a, x) (by simp)
    · exact ih fun e he => h e (by simp [he])

theorem hostOk_map {x y : HostPort} (h : HostOk x) {f : Session → Session} (a : y.sessions = x.sessions.map f) (b : y.nonces = x.nonces) : HostOk y := by
  unfold HostOk at *; rw [a, b, List.length_map]; exact h
theorem hostOk_filter {x y : HostPort} (h : HostOk x) {f : Session → Bool} {g : Nat × Nat → Bool} (a : y.sessions = x.sessions.filter f)
    (b : y.nonces = x.nonces.filter g ∨ y.nonces = x.nonces) : HostOk y := by
  unfold HostOk at *; rw [a]
  refine ⟨Nat.le_trans (List.length_filter_le _ _) h.1, ?_⟩
  rcases b with b | b <;> rw [b]
  · exact Nat.le_trans (List.length_filter_le _ _) h.2
  · exact h.2
theorem hostOk_nonces {x y : HostPort} (h : HostOk x) {l : List (Nat × Nat)} (a : y.sessions = x.sessions) (b : y.nonces = newest 16 l) :
    HostOk y := by
  unfold HostOk at *; rw [a, b]; exact ⟨h.1, newest_length _ _⟩
theorem hostOk_spent {x y : HostPort} (h : HostOk x) {g : Nat × Nat → Bool} (a : y.sessions = x.sessions) (b : y.nonces = x.nonces.filter g) : HostOk y := by
  unfold HostOk at *; rw [a, b]; exact ⟨h.1, Nat.le_trans (List.length_filter_le _ _) h.2⟩
theorem hostOk_open {x y : HostPort} (h : HostOk x) {s : Session} {g : Nat × Nat → Bool} (n : ¬4 ≤ x.sessions.length) (a : y.sessions = x.sessions ++ [s])
    (b : y.nonces = x.nonces.filter g) : HostOk y := by
  unfold HostOk at *; rw [a, b, List.length_append, List.length_singleton]
  exact ⟨by omega, Nat.le_trans (List.length_filter_le _ _) h.2⟩

/-! ### One part of a state replaced -/

theorem kept_time {x : TimeEngine} (h : Kept s0 s) (k : TimeOk s.time → TimeOk x) : Kept s0 { s with time := x } :=
  kept_mk h List.prefix_rfl (Nat.le_refl _) id k id id id id id
theorem kept_log {x : Log} (h : Kept s0 s) (k : LogOk s.log → LogOk x) : Kept s0 { s with log := x } :=
  kept_mk h List.prefix_rfl (Nat.le_refl _) id id k id id id id
theorem kept_safe {x : Safety} (h : Kept s0 s) (k : SafeOk s.safe → SafeOk x) : Kept s0 { s with safe := x } :=
  kept_mk h List.prefix_rfl (Nat.le_refl _) id id id k id id id
theorem kept_sync {x : Sync} (h : Kept s0 s) (k : SyncOk s.sync → SyncOk x) : Kept s0 { s with sync := x } :=
  kept_mk h List.prefix_rfl (Nat.le_refl _) id id id id k id id
theorem kept_job {x : Job} (h : Kept s0 s) (k : JobOk s.job → JobOk x) : Kept s0 { s with job := x } :=
  kept_mk h List.prefix_rfl (Nat.le_refl _) id id id id id k id
theorem kept_host {x : HostPort} (h : Kept s0 s) (k : HostOk s.host → HostOk x) : Kept s0 { s with host := x } :=
  kept_mk h List.prefix_rfl (Nat.le_refl _) id id id id id id k
theorem kept_snap {x : Snaps} (h : Kept s0 s) : Kept s0 { s with snap := x } :=
  kept_mk h List.prefix_rfl (Nat.le_refl _) id id id id id id id
theorem kept_mem {x : List (Nat × Byte)} (h : Kept s0 s) (k : Memory.wf s.mem = true → Memory.wf x = true) :
    Kept s0 { s with mem := x } :=
  kept_mk h List.prefix_rfl (Nat.le_refl _) k id id id id id id

end Sys2Proof.Machine
end

