-- ==== Sys2Proof/Laws/KeptOps.lean ====
section
/-! SUPPORT. What the operations of Machine/Ops.lean keep. -/

namespace Sys2Proof.Machine

variable {s0 : State}

theorem State.bump_kept (s : State) (k : ℕ) (n : ℕ) (h : Kept s0 s) :
    Kept s0 (State.bump s k n) := by
  unfold State.bump; try dsimp only
  repeat' first
    | with_reducible assumption
    | with_reducible exact List.prefix_rfl
    | with_reducible exact Nat.le_refl _
    | with_reducible exact fun h => h
    | with_reducible refine kept_mk ?_ ?_ ?_ ?_ ?_ ?_ ?_ ?_ ?_ ?_

theorem State.emit_kept (s : State) (o : Output) (h : Kept s0 s) : Kept s0 (s.emit o) :=
  kept_mk h (List.prefix_append _ _) (Nat.le_refl _) id id id id id id id

theorem State.sendHost_kept (s : State) (o : Output) (h : Kept s0 s) :
    Kept s0 (State.sendHost s o) := by
  unfold State.sendHost; try dsimp only
  repeat' first
    | with_reducible assumption
    | with_reducible apply State.emit_kept
    | with_reducible apply State.bump_kept

theorem State.modSession_kept (s : State) (id : ℕ) (f : Session → Session) (h : Kept s0 s) :
    Kept s0 (State.modSession s id f) := by
  unfold State.modSession; try dsimp only
  repeat' first
    | with_reducible assumption
    | (rename_i t; exact hostOk_map t rfl rfl)
    | with_reducible exact List.prefix_rfl
    | with_reducible exact Nat.le_refl _
    | with_reducible exact fun h => h
    | with_reducible exact hostOk_of rfl rfl
    | with_reducible apply kept_ite
    | with_reducible intro _
    | with_reducible refine kept_mk ?_ ?_ ?_ ?_ ?_ ?_ ?_ ?_ ?_ ?_

theorem State.touch_kept (s : State) (id : ℕ) (h : Kept s0 s) :
    Kept s0 (State.touch s id) := by
  unfold State.touch; try dsimp only
  repeat' first
    | with_reducible assumption
    | with_reducible apply State.modSession_kept

theorem State.modFlow_kept (s : State) (id : ℕ) (f : Flow → Flow) (h : Kept s0 s) :
    Kept s0 (State.modFlow s id f) := by
  unfold State.modFlow; try dsimp only
  repeat' first
    | with_reducible assumption
    | with_reducible exact List.prefix_rfl
    | with_reducible exact Nat.le_refl _
    | with_reducible exact fun h => h
    | with_reducible exact hostOk_of rfl rfl
    | with_reducible apply kept_ite
    | with_reducible intro _
    | with_reducible refine kept_mk ?_ ?_ ?_ ?_ ?_ ?_ ?_ ?_ ?_ ?_

theorem State.sendBlock_kept (s : State) (f : Flow) (bs : Bytes) (h : Kept s0 s) :
    Kept s0 (State.sendBlock s f bs) := by
  unfold State.sendBlock; try dsimp only
  repeat' first
    | with_reducible assumption
    | with_reducible apply State.sendHost_kept
    | with_reducible apply State.touch_kept
    | with_reducible apply State.modFlow_kept

theorem State.record_kept (s : State) (channel : ℕ) (sub : ℕ) (bs : Bytes) (h : Kept s0 s) :
    Kept s0 (State.record s channel sub bs) := by
  unfold State.record; try dsimp only
  repeat' first
    | with_reducible assumption
    | with_reducible apply State.bump_kept
    | with_reducible apply State.sendBlock_kept
    | with_reducible apply kept_ite
    | with_reducible apply kept_foldl
    | with_reducible intro _
    | split

theorem State.eventAfter_kept (s : State) (src code cause : ℕ) (detail : Bytes) (h : Kept s0 s) :
    Kept s0 (s.eventAfter src code cause detail) := by
  unfold State.eventAfter; dsimp only
  refine kept_ite (fun _ => h) fun _ => State.record_kept _ _ _ _ (State.bump_kept _ _ _ (kept_log h fun l => ?_))
  have a : LogOk (s.log.advance src (s.mkRecord src code cause detail).stamp) := logOk_of rfl rfl l
  with_reducible exact logOk_ring a

theorem State.event_kept (s : State) (src : ℕ) (code : ℕ) (detail : optParam Bytes []) (h : Kept s0 s) :
    Kept s0 (State.event s src code detail) := by
  unfold State.event; try dsimp only
  repeat' first
    | with_reducible assumption
    | with_reducible apply State.eventAfter_kept

theorem State.endCheckpoint_kept (s : State) (h : Kept s0 s) :
    Kept s0 (State.endCheckpoint s) := by
  unfold State.endCheckpoint; try dsimp only
  repeat' first
    | with_reducible assumption
    | with_reducible exact List.prefix_rfl
    | with_reducible exact Nat.le_refl _
    | with_reducible exact fun h => h
    | with_reducible refine kept_mk ?_ ?_ ?_ ?_ ?_ ?_ ?_ ?_ ?_ ?_

theorem State.abandonCheckpoint_kept (s : State) (h : Kept s0 s) :
    Kept s0 (State.abandonCheckpoint s) := by
  unfold State.abandonCheckpoint; try dsimp only
  repeat' first
    | with_reducible assumption
    | with_reducible apply State.event_kept
    | with_reducible apply State.endCheckpoint_kept
    | with_reducible exact List.prefix_rfl
    | with_reducible exact Nat.le_refl _
    | with_reducible exact fun h => h
    | with_reducible exact hostOk_of rfl rfl
    | split
    | with_reducible refine kept_mk ?_ ?_ ?_ ?_ ?_ ?_ ?_ ?_ ?_ ?_

theorem State.setSync_kept (s : State) (i v : ℕ) (hv : Inv s0 → v < 2 ^ 32) (h : Kept s0 s) : Kept s0 (State.setSync s i v) := by
  refine ⟨h.1, h.2.1, h.2.2.1, fun k => ?_⟩
  have := h.2.2.2 k
  exact ⟨this.1, this.2.1, this.2.2.1, this.2.2.2.1, syncOk_sset this.2.2.2.2.1 (hv k), this.2.2.2.2.2⟩

theorem State.addSync_kept (s : State) (id inc cause : ℕ) (h : Kept s0 s) : Kept s0 (s.addSync id inc cause) := by
  unfold State.addSync; dsimp only
  split
  · exact State.setSync_kept _ _ _ (fun _ => ‹_›) h
  · exact State.eventAfter_kept _ _ _ _ _ (State.bump_kept _ _ _ (State.setSync_kept _ _ _ (fun _ => by decide) h))

theorem State.dropSignal_kept (s : State) (g : Signal) (h : Kept s0 s) :
    Kept s0 (State.dropSignal s g) := by
  unfold State.dropSignal; try dsimp only
  repeat' first
    | with_reducible assumption
    | with_reducible apply State.eventAfter_kept
    | with_reducible apply State.bump_kept

theorem State.arriveSignal_kept (s : State) (g : Signal) (h : Kept s0 s) :
    KeptO s0 (State.arriveSignal s g) := by
  unfold State.arriveSignal; try dsimp only
  repeat' first
    | with_reducible assumption
    | with_reducible apply State.addSync_kept
    | with_reducible apply State.dropSignal_kept
    | with_reducible exact List.prefix_rfl
    | with_reducible exact Nat.le_refl _
    | with_reducible exact fun h => h
    | with_reducible exact syncOk_of rfl
    | with_reducible apply kept_ite
    | with_reducible apply keptO_ite
    | with_reducible apply keptO_some
    | with_reducible exact keptO_none
    | with_reducible intro _
    | with_reducible refine kept_mk ?_ ?_ ?_ ?_ ?_ ?_ ?_ ?_ ?_ ?_

theorem State.modPort_kept (s : State) (n : ℕ) (f : SkidPort → SkidPort) (h : Kept s0 s) :
    Kept s0 (State.modPort s n f) := by
  unfold State.modPort; try dsimp only
  repeat' first
    | with_reducible assumption
    | with_reducible exact List.prefix_rfl
    | with_reducible exact Nat.le_refl _
    | with_reducible exact fun h => h
    | with_reducible refine kept_mk ?_ ?_ ?_ ?_ ?_ ?_ ?_ ?_ ?_ ?_

theorem State.beginMsg_kept (s : State) (n : ℕ) (cls : ℕ) (h : Kept s0 s) :
    Kept s0 (State.beginMsg s n cls) := by
  unfold State.beginMsg; try dsimp only
  repeat' first
    | with_reducible assumption
    | with_reducible apply State.modPort_kept
    | with_reducible exact List.prefix_rfl
    | with_reducible exact Nat.le_refl _
    | with_reducible exact fun h => h
    | exact logOk_of rfl rfl
    | with_reducible apply kept_ite
    | with_reducible intro _
    | split
    | with_reducible refine kept_mk ?_ ?_ ?_ ?_ ?_ ?_ ?_ ?_ ?_ ?_

theorem State.caused_kept (s : State) (stamp : ℕ) (f : State → State)(hf : ∀ s , Kept s0 s → Kept s0 (f s )) (h : Kept s0 s) :
    Kept s0 (State.caused s stamp f) := by
  unfold State.caused; try dsimp only
  repeat' first
    | with_reducible assumption
    | with_reducible apply hf
    | with_reducible exact List.prefix_rfl
    | with_reducible exact Nat.le_refl _
    | with_reducible exact fun h => h
    | with_reducible exact logOk_of rfl rfl
    | with_reducible refine kept_mk ?_ ?_ ?_ ?_ ?_ ?_ ?_ ?_ ?_ ?_

theorem State.closeIngest_kept (s : State) (h : Kept s0 s) :
    Kept s0 (State.closeIngest s) := by
  unfold State.closeIngest; try dsimp only
  repeat' first
    | with_reducible assumption
    | with_reducible apply State.sendHost_kept
    | with_reducible exact List.prefix_rfl
    | with_reducible exact Nat.le_refl _
    | with_reducible exact fun h => h
    | with_reducible exact hostOk_of rfl rfl
    | with_reducible apply kept_foldl
    | with_reducible intro _
    | with_reducible refine kept_mk ?_ ?_ ?_ ?_ ?_ ?_ ?_ ?_ ?_ ?_

theorem State.telemetry_kept (s : State) (src : ℕ) (kind : ℕ) (body : Bytes) (h : Kept s0 s) :
    Kept s0 (State.telemetry s src kind body) := by
  unfold State.telemetry; try dsimp only
  repeat' first
    | with_reducible assumption
    | with_reducible apply State.record_kept
    | with_reducible apply State.bump_kept
    | with_reducible exact List.prefix_rfl
    | with_reducible exact Nat.le_refl _
    | with_reducible exact fun h => h
    | exact logOk_of rfl rfl
    | with_reducible refine kept_mk ?_ ?_ ?_ ?_ ?_ ?_ ?_ ?_ ?_ ?_

theorem State.closeStats_kept (s : State) (k : ℕ) (faulted : Bool) (h : Kept s0 s) :
    Kept s0 (State.closeStats s k faulted) := by
  unfold State.closeStats; try dsimp only
  repeat' first
    | with_reducible assumption
    | with_reducible apply State.telemetry_kept
    | with_reducible exact List.prefix_rfl
    | with_reducible exact Nat.le_refl _
    | with_reducible exact fun h => h
    | with_reducible apply kept_ite
    | with_reducible apply kept_foldl
    | with_reducible intro _
    | split
    | with_reducible refine kept_mk ?_ ?_ ?_ ?_ ?_ ?_ ?_ ?_ ?_ ?_

theorem State.sendFrame_kept (s : State) (n : ℕ) (cls : ℕ) (k : ℕ) (h : Kept s0 s) :
    Kept s0 (State.sendFrame s n cls k) := by
  unfold State.sendFrame; try dsimp only
  repeat' first
    | with_reducible assumption
    | with_reducible apply State.emit_kept
    | with_reducible apply State.modPort_kept
    | split

theorem State.sendNext_kept (s : State) (n : ℕ) (h : Kept s0 s) : KeptO s0 (s.sendNext n) := by
  unfold State.sendNext
  exact keptO_ite (fun _ => keptO_none) fun _ => keptO_map fun _ => State.sendFrame_kept _ _ _ _ (State.beginMsg_kept _ _ _ h)

theorem State.pumpLoop_kept (s : State) (n fuel : ℕ) (h : Kept s0 s) : Kept s0 (s.pumpLoop n fuel) := by
  induction fuel generalizing s with
  | zero => exact h
  | succ k ih =>
    unfold State.pumpLoop
    split
    · exact ih _ (kept_of_some (by assumption) (State.sendNext_kept s n h))
    · exact h

theorem State.pumpPort_kept (s : State) (n : ℕ) (h : Kept s0 s) :
    Kept s0 (State.pumpPort s n) := by
  unfold State.pumpPort; try dsimp only
  repeat' first
    | with_reducible assumption
    | with_reducible apply State.pumpLoop_kept

theorem State.putMsg_kept (s : State) (n : ℕ) (came : Option ℕ) (m : Msg) (h : Kept s0 s) :
    Kept s0 (State.putMsg s n came m) := by
  unfold State.putMsg; try dsimp only
  repeat' first
    | with_reducible assumption
    | with_reducible apply State.pumpPort_kept
    | with_reducible apply State.emit_kept
    | with_reducible apply State.modPort_kept

theorem State.sendOn_kept (s : State) (port : ℕ) (src : ℕ) (kind : ℕ) (dst : ℕ) (arg : ℕ) (body : Bytes) (h : Kept s0 s) :
    Kept s0 (State.sendOn s port src kind dst arg body) := by
  unfold State.sendOn; try dsimp only
  repeat' first
    | with_reducible assumption
    | with_reducible apply State.putMsg_kept

theorem State.sendTo_kept (s : State) (src : ℕ) (kind : ℕ) (dst : ℕ) (arg : ℕ) (body : Bytes) (h : Kept s0 s) :
    Kept s0 (State.sendTo s src kind dst arg body) := by
  unfold State.sendTo; try dsimp only
  repeat' first
    | with_reducible assumption
    | with_reducible apply State.sendOn_kept
    | split

theorem State.e2eAck_kept (s : State) (m : Msg) (h : Kept s0 s) :
    Kept s0 (State.e2eAck s m) := by
  unfold State.e2eAck; try dsimp only
  repeat' first
    | with_reducible assumption
    | with_reducible apply State.sendTo_kept
    | with_reducible apply kept_ite
    | with_reducible intro _

theorem State.markFirst_kept (s : State) (k : ℕ) (step : ℕ) (h : Kept s0 s) :
    Kept s0 (State.markFirst s k step) := by
  unfold State.markFirst; try dsimp only
  repeat' first
    | with_reducible assumption
    | with_reducible exact List.prefix_rfl
    | with_reducible exact Nat.le_refl _
    | with_reducible exact fun h => h
    | with_reducible exact jobOk_of rfl rfl
    | with_reducible refine kept_mk ?_ ?_ ?_ ?_ ?_ ?_ ?_ ?_ ?_ ?_

theorem State.eventOnce_kept (s : State) (k : ℕ) (step : ℕ) (src : ℕ) (code : ℕ) (detail : Bytes) (h : Kept s0 s) :
    Kept s0 (State.eventOnce s k step src code detail) := by
  unfold State.eventOnce; try dsimp only
  repeat' first
    | with_reducible assumption
    | with_reducible apply State.event_kept
    | with_reducible apply State.markFirst_kept
    | with_reducible apply kept_ite
    | with_reducible intro _

theorem State.faultCheckpoint_kept (s : State) (src : ℕ) (code : ℕ) (h : Kept s0 s) :
    Kept s0 (State.faultCheckpoint s src code) := by
  unfold State.faultCheckpoint; try dsimp only
  repeat' first
    | with_reducible assumption
    | with_reducible apply State.event_kept
    | with_reducible exact List.prefix_rfl
    | with_reducible exact Nat.le_refl _
    | with_reducible exact fun h => h
    | with_reducible exact hostOk_of rfl rfl
    | with_reducible apply kept_ite
    | with_reducible intro _
    | with_reducible refine kept_mk ?_ ?_ ?_ ?_ ?_ ?_ ?_ ?_ ?_ ?_

theorem State.stopUnits_kept (s : State) (h : Kept s0 s) :
    Kept s0 (State.stopUnits s) := by
  unfold State.stopUnits; try dsimp only
  repeat' first
    | with_reducible assumption
    | with_reducible exact List.prefix_rfl
    | with_reducible exact Nat.le_refl _
    | with_reducible exact fun h => h
    | with_reducible apply kept_ite
    | with_reducible intro _
    | with_reducible refine kept_mk ?_ ?_ ?_ ?_ ?_ ?_ ?_ ?_ ?_ ?_

theorem State.sendAll_kept (s : State) (src : ℕ) (kind : ℕ) (arg : ℕ) (body : Bytes) (h : Kept s0 s) :
    Kept s0 (State.sendAll s src kind arg body) := by
  unfold State.sendAll; try dsimp only
  repeat' first
    | with_reducible assumption
    | with_reducible apply State.sendTo_kept
    | with_reducible apply kept_foldl
    | with_reducible intro _

theorem State.refuseCapture_kept (s : State) (k : ℕ) (cause : ℕ) (h : Kept s0 s) :
    Kept s0 (State.refuseCapture s k cause) := by
  unfold State.refuseCapture; try dsimp only
  repeat' first
    | with_reducible assumption
    | with_reducible apply State.sendAll_kept
    | with_reducible apply State.event_kept
    | with_reducible apply State.bump_kept

theorem State.react_kept (s : State) (src code : ℕ) (h : Kept s0 s) : Kept s0 (s.react src code) := by
  unfold State.react; dsimp only
  have h1 := kept_foldl s.openSteps (fun s x h => State.closeStats_kept s x true h)
    (kept_safe (x := { s.safe with latch := true, inhibit := true }) h (safeOk_set rfl))
  have h2 := State.faultCheckpoint_kept _ src code (State.closeIngest_kept _ (State.stopUnits_kept _ h1))
  split
  · exact h2
  · rename_i p e
    exact kept_foldl _ (fun s k h => State.refuseCapture_kept s k 4 h)
      (State.sendAll_kept _ _ _ _ _ (kept_job h2 fun j => jobOk_plan j e (by simp) rfl))

theorem State.faultAfter_kept (s : State) (src code cause : ℕ) (detail : Bytes) (h : Kept s0 s) :
    Kept s0 (s.faultAfter src code cause detail) := by
  unfold State.faultAfter; dsimp only
  have h1 := State.bump_kept _ kFaultCount 1 (State.eventAfter_kept s src code cause detail h)
  have h2 := kept_log (x := { ((s.eventAfter src code cause detail).bump kFaultCount 1).log with
      history := newest 64 (((s.eventAfter src code cause detail).bump kFaultCount 1).log.history ++ [s.mkRecord src code cause detail]) })
      h1 logOk_history
  refine kept_ite (fun _ => h2) fun _ => ?_
  have h3 := kept_safe (x := { ((State.react _ src code).safe) with first := ⟨code, src, (s.mkRecord src code cause detail).stamp, s.job.stepNow, s.job.phaseNow⟩ })
    (State.react_kept _ src code h2) (safeOk_of rfl rfl)
  split
  · exact h3
  · exact State.event_kept _ _ _ _ h3

theorem State.fault_kept (s : State) (src : ℕ) (code : ℕ) (detail : optParam Bytes []) (h : Kept s0 s) :
    Kept s0 (State.fault s src code detail) := by
  unfold State.fault; try dsimp only
  repeat' first
    | with_reducible assumption
    | with_reducible apply State.faultAfter_kept

theorem State.setPorts_kept (s : State) (m : ℕ) (l : List (ℕ × ℕ)) (h : Kept s0 s) :
    Kept s0 (State.setPorts s m l) := by
  unfold State.setPorts; try dsimp only
  repeat' first
    | with_reducible assumption
    | with_reducible exact List.prefix_rfl
    | with_reducible exact Nat.le_refl _
    | with_reducible exact fun h => h
    | with_reducible refine kept_mk ?_ ?_ ?_ ?_ ?_ ?_ ?_ ?_ ?_ ?_

theorem State.floodPorts_kept (s : State) (ports : List ℕ) (h : Kept s0 s) : Kept s0 (s.floodPorts ports) :=
  kept_foldl _ (fun _ _ h => kept_mk h (List.prefix_append _ _) (Nat.le_refl _) id id id id id id id) (State.setPorts_kept s _ _ h)

theorem State.receipt_kept (s : State) (st : ℕ) (r : Receipt) (h : Kept s0 s) :
    Kept s0 (State.receipt s st r) := by
  unfold State.receipt; try dsimp only
  repeat' first
    | with_reducible assumption
    | with_reducible apply State.record_kept
    | with_reducible exact List.prefix_rfl
    | with_reducible exact Nat.le_refl _
    | with_reducible exact fun h => h
    | exact logOk_of rfl rfl
    | with_reducible refine kept_mk ?_ ?_ ?_ ?_ ?_ ?_ ?_ ?_ ?_ ?_

theorem State.laterReceipts_kept (s : State) (k : ℕ) (kind : ℕ) (reason : ℕ) (h : Kept s0 s) :
    Kept s0 (State.laterReceipts s k kind reason) := by
  unfold State.laterReceipts; try dsimp only
  repeat' first
    | with_reducible assumption
    | with_reducible apply State.receipt_kept
    | with_reducible exact List.prefix_rfl
    | with_reducible exact Nat.le_refl _
    | with_reducible exact fun h => h
    | with_reducible apply kept_foldl
    | with_reducible intro _
    | split
    | with_reducible refine kept_mk ?_ ?_ ?_ ?_ ?_ ?_ ?_ ?_ ?_ ?_

theorem State.modCl_kept (s : State) (k : ℕ) (f : Cluster → Cluster) (h : Kept s0 s) :
    Kept s0 (State.modCl s k f) := by
  unfold State.modCl; try dsimp only
  repeat' first
    | with_reducible assumption
    | with_reducible exact List.prefix_rfl
    | with_reducible exact Nat.le_refl _
    | with_reducible exact fun h => h
    | with_reducible refine kept_mk ?_ ?_ ?_ ?_ ?_ ?_ ?_ ?_ ?_ ?_

theorem State.nextFree_kept (s : State) (h : Kept s0 s) : Kept s0 s.nextFree :=
  kept_mk h List.prefix_rfl (Nat.le_succ _) id id id id id id id

theorem State.releaseStash_kept (s : State) (h : Kept s0 s) :
    Kept s0 (State.releaseStash s) := by
  unfold State.releaseStash; try dsimp only
  repeat' first
    | with_reducible assumption
    | with_reducible apply State.nextFree_kept
    | with_reducible exact List.prefix_rfl
    | with_reducible exact Nat.le_refl _
    | with_reducible exact fun h => h
    | with_reducible refine kept_mk ?_ ?_ ?_ ?_ ?_ ?_ ?_ ?_ ?_ ?_

theorem State.rxFrame_kept (s : State) (h : Kept s0 s) :
    Kept s0 (State.rxFrame s) := by
  unfold State.rxFrame; try dsimp only
  repeat' first
    | with_reducible assumption
    | with_reducible apply State.bump_kept

theorem State.setCount_kept (s : State) (k : ℕ) (n : ℕ) (h : Kept s0 s) :
    Kept s0 (State.setCount s k n) := by
  unfold State.setCount; try dsimp only
  repeat' first
    | with_reducible assumption
    | with_reducible exact List.prefix_rfl
    | with_reducible exact Nat.le_refl _
    | with_reducible exact fun h => h
    | with_reducible refine kept_mk ?_ ?_ ?_ ?_ ?_ ?_ ?_ ?_ ?_ ?_

theorem State.signal_kept (s : State) (src : ℕ) (id : ℕ) (inc : ℕ) (step : ℕ) (h : Kept s0 s) :
    Kept s0 (State.signal s src id inc step) := by
  unfold State.signal; try dsimp only
  repeat' first
    | with_reducible assumption
    | with_reducible apply State.sendOn_kept
    | with_reducible apply State.event_kept
    | with_reducible exact List.prefix_rfl
    | with_reducible exact Nat.le_refl _
    | with_reducible exact fun h => h
    | with_reducible exact syncOk_of rfl
    | with_reducible apply kept_ite
    | with_reducible intro _
    | with_reducible refine kept_mk ?_ ?_ ?_ ?_ ?_ ?_ ?_ ?_ ?_ ?_

theorem State.stress_kept (s : State) (n : ℕ) (h : Kept s0 s) :
    Kept s0 (State.stress s n) := by
  unfold State.stress; try dsimp only
  repeat' first
    | with_reducible assumption
    | with_reducible exact List.prefix_rfl
    | with_reducible exact Nat.le_refl _
    | with_reducible exact fun h => h
    | with_reducible refine kept_mk ?_ ?_ ?_ ?_ ?_ ?_ ?_ ?_ ?_ ?_

theorem State.took_kept (s : State) (m : Msg) (h : Kept s0 s) :
    Kept s0 (State.took s m) := by
  unfold State.took; try dsimp only
  repeat' first
    | with_reducible assumption
    | with_reducible exact List.prefix_rfl
    | with_reducible exact Nat.le_refl _
    | with_reducible exact fun h => h
    | with_reducible refine kept_mk ?_ ?_ ?_ ?_ ?_ ?_ ?_ ?_ ?_ ?_

theorem State.taken_kept (s : State) (m : Msg) (f : State → State)(hf : ∀ s , Kept s0 s → Kept s0 (f s )) (h : Kept s0 s) :
    Kept s0 (State.taken s m f) := by
  unfold State.taken; try dsimp only
  repeat' first
    | with_reducible assumption
    | with_reducible apply State.caused_kept
    | with_reducible apply State.took_kept
    | with_reducible apply hf
    | with_reducible intro _

end Sys2Proof.Machine
end

