-- ==== Sys2Proof/Laws/KeptFlags.lean ====
section
/-! SUPPORT. What the operations of Machine/Flags.lean keep. -/

namespace Sys2Proof.Machine

variable {s0 : State}

theorem State.modStats_kept (s : State) (step : ℕ) (f : StepStats → StepStats) (h : Kept s0 s) :
    Kept s0 (State.modStats s step f) := by
  unfold State.modStats; try dsimp only
  repeat' first
    | with_reducible assumption
    | with_reducible exact List.prefix_rfl
    | with_reducible exact Nat.le_refl _
    | with_reducible exact fun h => h
    | with_reducible refine kept_mk ?_ ?_ ?_ ?_ ?_ ?_ ?_ ?_ ?_ ?_

theorem State.tallyCounts_kept (s : State) (step : ℕ) (w : ℕ) (f : ℕ) (c : Counts) (h : Kept s0 s) :
    Kept s0 (State.tallyCounts s step w f c) := by
  unfold State.tallyCounts; try dsimp only
  repeat' first
    | with_reducible assumption
    | with_reducible apply State.modStats_kept

theorem State.raiseFlag_kept (s : State) (src : ℕ) (step : ℕ) (w : ℕ) (f : ℕ) (h : Kept s0 s) :
    Kept s0 (State.raiseFlag s src step w f) := by
  unfold State.raiseFlag; try dsimp only
  repeat' first
    | with_reducible assumption
    | with_reducible apply State.modStats_kept
    | with_reducible apply State.event_kept
    | with_reducible apply kept_ite
    | with_reducible intro _

theorem State.addCounts_kept (s : State) (src : ℕ) (step : ℕ) (w : ℕ) (f : ℕ) (c : Counts) (h : Kept s0 s) :
    Kept s0 (State.addCounts s src step w f c) := by
  unfold State.addCounts; try dsimp only
  repeat' first
    | with_reducible assumption
    | with_reducible apply State.tallyCounts_kept
    | with_reducible apply State.raiseFlag_kept
    | with_reducible apply kept_ite
    | with_reducible intro _

theorem State.addHist_kept (s : State) (step : ℕ) (w : ℕ) (f : ℕ) (vs : List ℚ) (h : Kept s0 s) :
    Kept s0 (State.addHist s step w f vs) := by
  unfold State.addHist; try dsimp only
  repeat' first
    | with_reducible assumption
    | with_reducible apply State.modStats_kept
    | with_reducible apply kept_ite
    | with_reducible apply kept_foldl
    | with_reducible intro _

end Sys2Proof.Machine
end

