-- ==== Sys2Proof/Laws/KeptOperands.lean ====
section
/-! SUPPORT. What the operations of Machine/Operands.lean keep. -/

namespace Sys2Proof.Machine

variable {s0 : State}

theorem State.modBank_kept (s : State) (die : ℕ) (i : ℕ) (f : Bank → Bank) (h : Kept s0 s) :
    Kept s0 (State.modBank s die i f) := by
  unfold State.modBank; try dsimp only
  repeat' first
    | with_reducible assumption
    | with_reducible exact List.prefix_rfl
    | with_reducible exact Nat.le_refl _
    | with_reducible exact fun h => h
    | with_reducible refine kept_mk ?_ ?_ ?_ ?_ ?_ ?_ ?_ ?_ ?_ ?_

theorem State.noteRefused_kept (s : State) (die : ℕ) (i : ℕ) (req : ℕ) (step : ℕ) (h : Kept s0 s) :
    Kept s0 (State.noteRefused s die i req step) := by
  unfold State.noteRefused; try dsimp only
  repeat' first
    | with_reducible assumption
    | with_reducible apply State.modBank_kept
    | with_reducible apply State.eventOnce_kept
    | with_reducible apply State.bump_kept
    | with_reducible apply kept_ite
    | with_reducible intro _

theorem State.allowAccess_kept (s : State) (die : ℕ) (o : ℕ) (req : ℕ) (step : ℕ) (h : Kept s0 s) :
    Kept s0 (State.allowAccess s die o req step).2 := by
  unfold State.allowAccess; try dsimp only
  repeat' first
    | with_reducible assumption
    | with_reducible apply State.noteRefused_kept
    | with_reducible apply kept_ite
    | with_reducible apply kept_ite_snd
    | with_reducible intro _
    | split
    | dsimp only

theorem State.sramRead_kept (s : State) (die : ℕ) (o : ℕ) (n : ℕ) (req : ℕ) (step : ℕ) (h : Kept s0 s) :
    Kept s0 (State.sramRead s die o n req step).2 := by
  unfold State.sramRead; try dsimp only
  repeat' first
    | with_reducible assumption
    | with_reducible apply State.allowAccess_kept
    | with_reducible apply kept_ite
    | with_reducible apply kept_foldl_snd
    | with_reducible apply kept_ite_snd
    | with_reducible refine kept_of_snd (by assumption) ?_
    | with_reducible intro _
    | split
    | dsimp only

theorem State.localRead_kept (s : State) (cl : ℕ) (x : ℕ) (n : ℕ) (step : ℕ) (h : Kept s0 s) :
    Kept s0 (State.localRead s cl x n step).2 := by
  unfold State.localRead; try dsimp only
  repeat' first
    | with_reducible assumption
    | with_reducible apply State.sramRead_kept
    | with_reducible refine kept_of_snd (by assumption) ?_
    | dsimp only

theorem State.sramWrite_kept (s : State) (die : ℕ) (o : ℕ) (req : ℕ) (step : ℕ) (bs : Bytes) (h : Kept s0 s) :
    Kept s0 (State.sramWrite s die o req step bs) := by
  unfold State.sramWrite; try dsimp only
  repeat' first
    | with_reducible assumption
    | with_reducible apply State.allowAccess_kept
    | with_reducible exact List.prefix_rfl
    | with_reducible exact Nat.le_refl _
    | with_reducible exact fun h => h
    | with_reducible apply kept_ite
    | with_reducible apply kept_foldl
    | exact fun w => writeBytes_wf _ _ _ w
    | exact writeBytes_wf _ _ _ ‹_›
    | with_reducible refine kept_of_snd (by assumption) ?_
    | with_reducible intro _
    | split
    | with_reducible refine kept_mk ?_ ?_ ?_ ?_ ?_ ?_ ?_ ?_ ?_ ?_

theorem State.localWrite_kept (s : State) (cl : ℕ) (x : ℕ) (step : ℕ) (bs : Bytes) (h : Kept s0 s) :
    Kept s0 (State.localWrite s cl x step bs) := by
  unfold State.localWrite; try dsimp only
  repeat' first
    | with_reducible assumption
    | with_reducible apply State.sramWrite_kept

end Sys2Proof.Machine
end

