-- ==== Sys2Proof/Laws/KeptArray.lean ====
section
/-! SUPPORT. What the operations of Machine/Array.lean keep. -/

namespace Sys2Proof.Machine

variable {s0 : State}

theorem State.drainGradient_kept (s : State) (cl : ℕ) (d : DrainOp) (i : ℕ) (h : Kept s0 s) :
    Kept s0 (State.drainGradient s cl d i) := by
  unfold State.drainGradient; try dsimp only
  repeat' first
    | with_reducible assumption
    | with_reducible apply State.putMsg_kept
    | with_reducible exact List.prefix_rfl
    | with_reducible exact Nat.le_refl _
    | with_reducible exact fun h => h
    | with_reducible apply kept_ite
    | with_reducible apply keptO_getD
    | with_reducible apply kept_foldl
    | with_reducible intro _
    | split
    | with_reducible refine kept_mk ?_ ?_ ?_ ?_ ?_ ?_ ?_ ?_ ?_ ?_

theorem State.drainLocal_kept (s : State) (cl : ℕ) (d : DrainOp) (i : ℕ) (h : Kept s0 s) :
    Kept s0 (State.drainLocal s cl d i) := by
  unfold State.drainLocal; try dsimp only
  repeat' first
    | with_reducible assumption
    | with_reducible apply State.localWrite_kept
    | with_reducible apply kept_ite
    | with_reducible apply kept_foldl
    | with_reducible intro _

theorem State.drainRow_kept (s : State) (cl : ℕ) (d : DrainOp) (i : ℕ) (h : Kept s0 s) :
    KeptO s0 (State.drainRow s cl d i) := by
  unfold State.drainRow; try dsimp only
  repeat' first
    | with_reducible assumption
    | with_reducible apply State.addHist_kept
    | with_reducible apply State.addCounts_kept
    | with_reducible apply State.drainLocal_kept
    | with_reducible apply State.modCl_kept
    | with_reducible apply State.drainGradient_kept
    | with_reducible apply kept_ite
    | with_reducible apply keptO_ite
    | with_reducible apply keptO_some
    | with_reducible exact keptO_none
    | with_reducible intro _
    | split

theorem State.passEffect_kept (s : State) (cl : ℕ) (op : PassOp) (h : Kept s0 s) :
    Kept s0 (State.passEffect s cl op) := by
  unfold State.passEffect; try dsimp only
  repeat' first
    | with_reducible assumption
    | with_reducible apply State.bump_kept
    | with_reducible apply State.modCl_kept
    | with_reducible apply State.addCounts_kept
    | with_reducible apply State.addHist_kept
    | with_reducible apply kept_ite
    | with_reducible intro _
    | split

end Sys2Proof.Machine
end

