-- ==== Sys2Proof/Laws/KeptIssue.lean ====
section
/-! SUPPORT. What the operations of Machine/Issue.lean keep. -/

namespace Sys2Proof.Machine

variable {s0 : State}

theorem State.passRetired_kept (s : State) (cl : ℕ) (h : Kept s0 s) :
    Kept s0 (State.passRetired s cl) := by
  unfold State.passRetired; try dsimp only
  repeat' first
    | with_reducible assumption
    | with_reducible apply State.bump_kept
    | with_reducible apply State.modCl_kept

theorem State.finishPass_kept (s : State) (cl : ℕ) (h : Kept s0 s) :
    Kept s0 (State.finishPass s cl) := by
  unfold State.finishPass; try dsimp only
  repeat' first
    | with_reducible assumption
    | with_reducible apply State.bump_kept
    | with_reducible apply State.passRetired_kept
    | with_reducible apply State.passEffect_kept
    | with_reducible apply kept_ite
    | with_reducible intro _
    | split

theorem State.abandonCl_kept (s : State) (k : ℕ) (cl : ℕ) (h : Kept s0 s) :
    Kept s0 (State.abandonCl s k cl) := by
  unfold State.abandonCl; try dsimp only
  repeat' first
    | with_reducible assumption
    | with_reducible apply State.finishPass_kept
    | with_reducible apply State.event_kept
    | with_reducible apply State.modCl_kept
    | with_reducible exact List.prefix_rfl
    | with_reducible exact Nat.le_refl _
    | with_reducible exact fun h => h
    | with_reducible exact syncOk_of rfl
    | with_reducible apply kept_ite
    | with_reducible intro _
    | split
    | with_reducible refine kept_mk ?_ ?_ ?_ ?_ ?_ ?_ ?_ ?_ ?_ ?_

theorem State.arrayFail_kept (s : State) (cl : ℕ) (reason : ℕ) (h : Kept s0 s) :
    Kept s0 (State.arrayFail s cl reason) := by
  unfold State.arrayFail; try dsimp only
  repeat' first
    | with_reducible assumption
    | with_reducible apply State.fault_kept

theorem State.modStep_kept (s : State) (k : ℕ) (f : StepRec → StepRec) (h : Kept s0 s) :
    Kept s0 (State.modStep s k f) := by
  unfold State.modStep; try dsimp only
  repeat' first
    | with_reducible assumption
    | with_reducible exact List.prefix_rfl
    | with_reducible exact Nat.le_refl _
    | with_reducible exact fun h => h
    | with_reducible exact jobOk_of rfl rfl
    | with_reducible refine kept_mk ?_ ?_ ?_ ?_ ?_ ?_ ?_ ?_ ?_ ?_

theorem State.flushWithdrawals_kept (s : State) (h : Kept s0 s) :
    Kept s0 (State.flushWithdrawals s) := by
  unfold State.flushWithdrawals; try dsimp only
  repeat' first
    | with_reducible assumption
    | with_reducible apply State.sendAll_kept
    | with_reducible exact List.prefix_rfl
    | with_reducible exact Nat.le_refl _
    | with_reducible exact fun h => h
    | with_reducible apply kept_ite
    | with_reducible apply kept_foldl
    | with_reducible intro _
    | with_reducible refine kept_mk ?_ ?_ ?_ ?_ ?_ ?_ ?_ ?_ ?_ ?_

theorem State.noteWithdrawn_kept (s : State) (k : ℕ) (m : ℕ) (h : Kept s0 s) :
    Kept s0 (State.noteWithdrawn s k m) := by
  unfold State.noteWithdrawn; try dsimp only
  repeat' first
    | with_reducible assumption
    | with_reducible exact List.prefix_rfl
    | with_reducible exact Nat.le_refl _
    | with_reducible exact fun h => h
    | with_reducible refine kept_mk ?_ ?_ ?_ ?_ ?_ ?_ ?_ ?_ ?_ ?_

theorem State.stopLimbers_kept (s : State) (h : Kept s0 s) :
    Kept s0 (State.stopLimbers s) := by
  unfold State.stopLimbers; try dsimp only
  repeat' first
    | with_reducible assumption
    | with_reducible exact List.prefix_rfl
    | with_reducible exact Nat.le_refl _
    | with_reducible exact fun h => h
    | with_reducible apply kept_ite
    | with_reducible intro _
    | with_reducible refine kept_mk ?_ ?_ ?_ ?_ ?_ ?_ ?_ ?_ ?_ ?_

theorem State.straggle_kept (s : State) (k : ℕ) (h : Kept s0 s) :
    Kept s0 (State.straggle s k) := by
  unfold State.straggle; try dsimp only
  repeat' first
    | with_reducible assumption
    | with_reducible apply State.modStep_kept
    | with_reducible apply State.event_kept
    | with_reducible apply State.modStats_kept
    | with_reducible apply State.laterReceipts_kept
    | with_reducible apply State.flushWithdrawals_kept
    | with_reducible apply State.noteWithdrawn_kept
    | with_reducible apply State.abandonCl_kept
    | with_reducible apply State.releaseStash_kept
    | with_reducible apply State.stopLimbers_kept
    | with_reducible exact List.prefix_rfl
    | with_reducible exact Nat.le_refl _
    | with_reducible exact fun h => h
    | with_reducible exact jobOk_of rfl rfl
    | with_reducible apply kept_ite
    | with_reducible apply kept_foldl
    | with_reducible intro _
    | with_reducible refine kept_mk ?_ ?_ ?_ ?_ ?_ ?_ ?_ ?_ ?_ ?_

theorem State.boundFail_kept (s : State) (cl : ℕ) (f : Fetched) (cls : ℕ) (value : ℕ) (mx : ℕ) (h : Kept s0 s) :
    Kept s0 (State.boundFail s cl f cls value mx) := by
  unfold State.boundFail; try dsimp only
  repeat' first
    | with_reducible assumption
    | with_reducible apply State.bump_kept
    | with_reducible apply State.event_kept
    | with_reducible apply State.straggle_kept
    | with_reducible apply State.fault_kept
    | with_reducible exact List.prefix_rfl
    | with_reducible exact Nat.le_refl _
    | with_reducible exact fun h => h
    | with_reducible exact jobOk_of rfl rfl
    | with_reducible apply kept_ite
    | with_reducible intro _
    | with_reducible refine kept_mk ?_ ?_ ?_ ?_ ?_ ?_ ?_ ?_ ?_ ?_

theorem State.checkFail_kept (s : State) (cl : ℕ) (f : Fetched) (reason : ℕ) (h : Kept s0 s) :
    Kept s0 (State.checkFail s cl f reason) := by
  unfold State.checkFail; try dsimp only
  repeat' first
    | with_reducible assumption
    | with_reducible apply State.fault_kept
    | with_reducible apply State.modCl_kept

theorem State.giveSignals_kept (s : State) (cl : ℕ) (h : Kept s0 s) :
    Kept s0 (State.giveSignals s cl) := by
  unfold State.giveSignals; try dsimp only
  repeat' first
    | with_reducible assumption
    | with_reducible apply State.modCl_kept
    | with_reducible apply State.signal_kept
    | with_reducible apply kept_ite
    | with_reducible apply kept_foldl
    | with_reducible intro _

theorem State.guardFail_kept (s : State) (cl : ℕ) (h : Kept s0 s) :
    Kept s0 (State.guardFail s cl) := by
  unfold State.guardFail; try dsimp only
  repeat' first
    | with_reducible assumption
    | with_reducible apply State.fault_kept

theorem State.holdCycle_kept (s : State) (cl : ℕ) (h : Kept s0 s) :
    Kept s0 (State.holdCycle s cl) := by
  unfold State.holdCycle; try dsimp only
  repeat' first
    | with_reducible assumption
    | with_reducible apply State.bump_kept
    | with_reducible apply State.modCl_kept
    | with_reducible apply kept_ite
    | with_reducible intro _

theorem State.sign_kept (s : State) (cl : ℕ) (f : Fetched) (h : Kept s0 s) :
    Kept s0 (State.sign s cl f) := by
  unfold State.sign; try dsimp only
  repeat' first
    | with_reducible assumption
    | with_reducible apply State.bump_kept
    | with_reducible apply State.modCl_kept
    | with_reducible apply State.fault_kept
    | with_reducible apply kept_ite
    | with_reducible intro _

theorem State.wrap_kept (s : State) (cl : ℕ) (h : Kept s0 s) :
    Kept s0 (State.wrap s cl) := by
  unfold State.wrap; try dsimp only
  repeat' first
    | with_reducible assumption
    | with_reducible apply State.modCl_kept
    | with_reducible apply State.event_kept
    | with_reducible apply State.bump_kept
    | with_reducible apply State.abandonCl_kept
    | with_reducible apply kept_ite
    | with_reducible intro _
    | split

theorem State.settle_kept (s : State) (cl : ℕ) (h : Kept s0 s) :
    Kept s0 (State.settle s cl) := by
  unfold State.settle; try dsimp only
  repeat' first
    | with_reducible assumption
    | with_reducible apply State.wrap_kept
    | with_reducible apply State.giveSignals_kept

theorem State.step1_kept (s : State) (cl : ℕ) (h : Kept s0 s) :
    Kept s0 (State.step1 s cl) := by
  unfold State.step1; try dsimp only
  repeat' first
    | with_reducible assumption
    | with_reducible apply State.bump_kept
    | with_reducible apply State.modCl_kept

theorem State.skip1_kept (s : State) (cl : ℕ) (h : Kept s0 s) :
    Kept s0 (State.skip1 s cl) := by
  unfold State.skip1; try dsimp only
  repeat' first
    | with_reducible assumption
    | with_reducible apply State.modCl_kept

theorem State.issue_kept (s : State) (cl : ℕ) (sel : State → ℕ → Bool) (check : State → Fetched → Verdict) (act : State → Fetched → State)(hact : ∀ s y0, Kept s0 s → Kept s0 (act s y0)) (h : Kept s0 s) :
    Kept s0 (State.issue s cl sel check act) := by
  unfold State.issue; try dsimp only
  repeat' first
    | with_reducible assumption
    | with_reducible apply State.holdCycle_kept
    | with_reducible apply State.sign_kept
    | with_reducible apply State.settle_kept
    | with_reducible apply State.step1_kept
    | with_reducible apply State.checkFail_kept
    | with_reducible apply State.skip1_kept
    | with_reducible apply State.boundFail_kept
    | with_reducible apply State.guardFail_kept
    | with_reducible apply State.arrayFail_kept
    | with_reducible apply hact
    | with_reducible apply kept_ite
    | with_reducible intro _
    | split

theorem State.place_kept (s : State) (cl : ℕ) (h : Kept s0 s) :
    Kept s0 (State.place s cl).2 := by
  unfold State.place; try dsimp only
  repeat' first
    | with_reducible assumption
    | with_reducible apply State.modCl_kept
    | dsimp only

end Sys2Proof.Machine
end

