-- ==== Sys2Proof/Laws/KeptMemory.lean ====
section
/-! SUPPORT. What the operations of Machine/Memory.lean keep. -/

namespace Sys2Proof.Machine

variable {s0 : State}

theorem State.checkedLine_kept (s : State) (die : ℕ) (code : ℕ) (line : ℕ) (reads : List LineRead) (h : Kept s0 s) :
    Kept s0 (State.checkedLine s die code line reads).2 := by
  unfold State.checkedLine; try dsimp only
  repeat' first
    | with_reducible assumption
    | with_reducible apply State.stress_kept
    | with_reducible apply State.bump_kept
    | with_reducible apply State.fault_kept
    | with_reducible apply kept_ite
    | with_reducible apply kept_ite_snd
    | with_reducible intro _
    | split
    | dsimp only

theorem State.modBase_kept (s : State) (m : ℕ) (f : BaseDie → BaseDie) (h : Kept s0 s) :
    Kept s0 (State.modBase s m f) := by
  unfold State.modBase; try dsimp only
  repeat' first
    | with_reducible assumption
    | with_reducible exact List.prefix_rfl
    | with_reducible exact Nat.le_refl _
    | with_reducible exact fun h => h
    | with_reducible refine kept_mk ?_ ?_ ?_ ?_ ?_ ?_ ?_ ?_ ?_ ?_

theorem State.checkedBurst_kept (s : State) (a : ℕ) (reads : List BurstRead) (h : Kept s0 s) :
    Kept s0 (State.checkedBurst s a reads).2 := by
  unfold State.checkedBurst; try dsimp only
  repeat' first
    | with_reducible assumption
    | with_reducible apply State.bump_kept
    | with_reducible apply State.modBase_kept
    | with_reducible apply State.stress_kept
    | with_reducible apply State.fault_kept
    | split
    | dsimp only

theorem State.checkedTier_kept (s : State) (port : ℕ) (device : ℕ) (a : ℕ) (reads : List TierRead) (h : Kept s0 s) :
    Kept s0 (State.checkedTier s port device a reads).2 := by
  unfold State.checkedTier; try dsimp only
  repeat' first
    | with_reducible assumption
    | with_reducible apply State.bump_kept
    | with_reducible apply State.stress_kept
    | with_reducible apply State.fault_kept
    | with_reducible exact List.prefix_rfl
    | with_reducible exact Nat.le_refl _
    | with_reducible exact fun h => h
    | with_reducible apply kept_ite
    | with_reducible apply keptO_getD
    | with_reducible apply kept_ite_snd
    | with_reducible intro _
    | split
    | with_reducible refine kept_mk ?_ ?_ ?_ ?_ ?_ ?_ ?_ ?_ ?_ ?_
    | dsimp only

theorem State.checkedOne_kept (s : State) (c : MemCheck) (h : Kept s0 s) :
    Kept s0 (State.checkedOne s c).2 := by
  unfold State.checkedOne; try dsimp only
  repeat' first
    | with_reducible assumption
    | with_reducible apply State.checkedLine_kept
    | with_reducible apply State.checkedBurst_kept
    | with_reducible apply State.checkedTier_kept
    | with_reducible apply State.bump_kept
    | with_reducible apply State.modBase_kept
    | with_reducible apply State.eventOnce_kept
    | with_reducible apply State.fault_kept
    | with_reducible apply kept_ite
    | with_reducible apply kept_ite_snd
    | with_reducible refine kept_of_snd (by assumption) ?_
    | with_reducible intro _
    | split
    | dsimp only

theorem State.checked_kept (s : State) (cs : List MemCheck) (h : Kept s0 s) : Kept s0 (s.checked cs).2 := by
  induction cs generalizing s with
  | nil => exact h
  | cons c cs ih =>
    unfold State.checked
    split
    · exact ih _ (kept_of_snd (by assumption) (State.checkedOne_kept s c h))
    · exact kept_of_snd (by assumption) (State.checkedOne_kept s c h)

theorem State.holdWrite_kept (s : State) (a : ℕ) (bs : Bytes) (h : Kept s0 s) :
    Kept s0 (State.holdWrite s a bs) := by
  unfold State.holdWrite; try dsimp only
  repeat' first
    | with_reducible assumption
    | with_reducible exact List.prefix_rfl
    | with_reducible exact Nat.le_refl _
    | with_reducible exact fun h => h
    | with_reducible refine kept_mk ?_ ?_ ?_ ?_ ?_ ?_ ?_ ?_ ?_ ?_

theorem State.setPage_kept (s : State) (p : ℕ) (x : PageState) (h : Kept s0 s) :
    Kept s0 (State.setPage s p x) := by
  unfold State.setPage; try dsimp only
  repeat' first
    | with_reducible assumption
    | with_reducible exact List.prefix_rfl
    | with_reducible exact Nat.le_refl _
    | with_reducible exact fun h => h
    | with_reducible apply kept_ite
    | with_reducible intro _
    | with_reducible refine kept_mk ?_ ?_ ?_ ?_ ?_ ?_ ?_ ?_ ?_ ?_

theorem State.waitPool_kept (s : State) (p : ℕ) (a : ℕ) (bs : Bytes) (h : Kept s0 s) :
    Kept s0 (State.waitPool s p a bs) := by
  unfold State.waitPool; try dsimp only
  repeat' first
    | with_reducible assumption
    | with_reducible apply State.bump_kept
    | with_reducible apply State.holdWrite_kept
    | with_reducible apply State.setPage_kept
    | with_reducible apply State.event_kept
    | with_reducible exact List.prefix_rfl
    | with_reducible exact Nat.le_refl _
    | with_reducible exact fun h => h
    | with_reducible apply kept_ite
    | with_reducible intro _
    | with_reducible refine kept_mk ?_ ?_ ?_ ?_ ?_ ?_ ?_ ?_ ?_ ?_

theorem State.pageWrite_kept (s : State) (a : ℕ) (bs : Bytes) (h : Kept s0 s) :
    Kept s0 (State.pageWrite s a bs) := by
  unfold State.pageWrite; try dsimp only
  repeat' first
    | with_reducible assumption
    | with_reducible apply State.bump_kept
    | with_reducible apply State.holdWrite_kept
    | with_reducible apply State.setPage_kept
    | with_reducible apply State.waitPool_kept
    | with_reducible exact List.prefix_rfl
    | with_reducible exact Nat.le_refl _
    | with_reducible exact fun h => h
    | exact fun w => writeBytes_wf _ _ _ w
    | exact writeBytes_wf _ _ _ ‹_›
    | split
    | with_reducible refine kept_mk ?_ ?_ ?_ ?_ ?_ ?_ ?_ ?_ ?_ ?_

theorem State.hbmWrite_kept (s : State) (fuel a : ℕ) (bs : Bytes) (h : Kept s0 s) : Kept s0 (s.hbmWrite fuel a bs) := by
  induction fuel generalizing s a bs with
  | zero => exact h
  | succ n ih =>
    unfold State.hbmWrite
    split
    · exact h
    · exact ih _ _ _ (State.pageWrite_kept s a _ h)

theorem State.noteRead_kept (s : State) (a : ℕ) (n : ℕ) (h : Kept s0 s) :
    Kept s0 (State.noteRead s a n) := by
  unfold State.noteRead; try dsimp only
  repeat' first
    | with_reducible assumption
    | with_reducible apply State.bump_kept
    | with_reducible apply kept_ite
    | with_reducible intro _

theorem State.mapRead_kept (s : State) (who : Option ℕ) (a : ℕ) (n : ℕ) (step : ℕ) (h : Kept s0 s) :
    Kept s0 (State.mapRead s who a n step).2 := by
  unfold State.mapRead; try dsimp only
  repeat' first
    | with_reducible assumption
    | with_reducible apply State.sramRead_kept
    | with_reducible apply State.noteRead_kept
    | with_reducible apply kept_ite
    | with_reducible apply kept_foldl_snd
    | with_reducible apply kept_ite_snd
    | with_reducible refine kept_of_snd (by assumption) ?_
    | with_reducible intro _
    | split
    | dsimp only

theorem State.toHbm_kept (s : State) (a : ℕ) (bs : Bytes) (h : Kept s0 s) :
    Kept s0 (State.toHbm s a bs) := by
  unfold State.toHbm; try dsimp only
  repeat' first
    | with_reducible assumption
    | with_reducible apply State.bump_kept
    | with_reducible apply State.hbmWrite_kept
    | with_reducible apply kept_ite
    | with_reducible intro _

theorem State.mapWrite_kept (s : State) (who : Option ℕ) (a step : ℕ) (bs : Bytes) (h : Kept s0 s) :
    Kept s0 (s.mapWrite who a step bs) := by
  unfold State.mapWrite
  refine kept_foldl_snd _ _ (fun p x h => ?_) h
  obtain ⟨o, s⟩ := p
  dsimp only at h ⊢
  refine kept_ite (fun _ => State.sramWrite_kept _ _ _ _ _ _ h) fun _ => ?_
  have h1 := kept_ite (c := (s.stash.released.isSome && s.stashByte x.1) = true)
    (a := { s with stash := { s.stash with live := s.stash.live ++ [x] } }) (fun _ => h) fun _ => h
  exact kept_ite (fun _ => State.toHbm_kept _ _ _ h1) fun _ => kept_mem h1 (writeBytes_wf _ _ _)

end Sys2Proof.Machine
end

