-- ==== Sys2Proof/Laws/KeptVector.lean ====
section
/-! SUPPORT. What the operations of Machine/Vector.lean keep. -/

namespace Sys2Proof.Machine

variable {s0 : State}

theorem State.readRow_kept (s : State) (cl line f n step : ℕ) (h : Kept s0 s) : Kept s0 (s.readRow cl line f n step).2 := by
  rw [State.readRow, Prod.map_snd, id_eq]; exact State.localRead_kept s cl _ _ step h

theorem State.vecTopk_kept (s : State) (cl : ℕ) (w : ℕ) (r : ℕ) (step : ℕ) (codes : List ℕ) (h : Kept s0 s) :
    Kept s0 (State.vecTopk s cl w r step codes) := by
  unfold State.vecTopk; try dsimp only
  repeat' first
    | with_reducible assumption
    | with_reducible apply State.localWrite_kept
    | with_reducible apply State.addHist_kept
    | with_reducible apply State.addCounts_kept

theorem State.segB_kept (s : State) (cl w i step : ℕ) (h : Kept s0 s) : Kept s0 (s.segB cl w i step).2 := by
  rw [State.segB, Prod.map_snd, id_eq]; exact State.localRead_kept s cl _ 4 step h

theorem State.writeSegValue_kept (s : State) (cl : ℕ) (line : ℕ) (f : ℕ) (i : ℕ) (step : ℕ) (code : ℕ) (h : Kept s0 s) :
    Kept s0 (State.writeSegValue s cl line f i step code) := by
  unfold State.writeSegValue; try dsimp only
  repeat' first
    | with_reducible assumption
    | with_reducible apply State.localWrite_kept
    | with_reducible apply kept_ite
    | with_reducible intro _

theorem State.segOne_kept (s : State) (cl : ℕ) (w : ℕ) (i : ℕ) (step : ℕ) (b : ℕ) (codes : List ℕ) (h : Kept s0 s) :
    Kept s0 (State.segOne s cl w i step b codes) := by
  unfold State.segOne; try dsimp only
  repeat' first
    | with_reducible assumption
    | with_reducible apply State.writeSegValue_kept
    | with_reducible apply State.addHist_kept
    | with_reducible apply State.addCounts_kept
    | with_reducible apply kept_ite
    | with_reducible apply keptO_getD
    | with_reducible intro _
    | split

theorem State.vecSegment_kept (s : State) (cl : ℕ) (w : ℕ) (idx : ℕ) (r0 : ℕ) (step : ℕ) (rows : List (List ℕ)) (h : Kept s0 s) :
    Kept s0 (State.vecSegment s cl w idx r0 step rows).2 := by
  unfold State.vecSegment; try dsimp only
  repeat' first
    | with_reducible assumption
    | with_reducible apply State.segB_kept
    | with_reducible apply State.segOne_kept
    | with_reducible apply State.addCounts_kept
    | with_reducible apply State.fault_kept
    | with_reducible apply kept_ite
    | with_reducible apply kept_ite_snd
    | with_reducible refine kept_of_snd (by assumption) ?_
    | with_reducible intro _
    | split
    | dsimp only

theorem State.writeRow_kept (s : State) (cl : ℕ) (line : ℕ) (f : ℕ) (n : ℕ) (step : ℕ) (cs : List ℕ) (h : Kept s0 s) :
    Kept s0 (State.writeRow s cl line f n step cs) := by
  unfold State.writeRow; try dsimp only
  repeat' first
    | with_reducible assumption
    | with_reducible apply State.localWrite_kept

theorem State.writePlain_kept (s : State) (cl : ℕ) (w : ℕ) (r0 : ℕ) (step : ℕ) (rows : List OutRow) (h : Kept s0 s) :
    Kept s0 (State.writePlain s cl w r0 step rows).1 := by
  unfold State.writePlain; try dsimp only
  repeat' first
    | with_reducible assumption
    | with_reducible apply State.writeRow_kept
    | with_reducible apply kept_foldl_fst
    | with_reducible intro _
    | dsimp only

theorem State.writeBlocks_kept (s : State) (cl : ℕ) (w : ℕ) (r0 : ℕ) (step : ℕ) (square : Bool) (rows : List OutRow) (h : Kept s0 s) :
    Kept s0 (State.writeBlocks s cl w r0 step square rows).1 := by
  unfold State.writeBlocks; try dsimp only
  repeat' first
    | with_reducible assumption
    | with_reducible apply State.localWrite_kept
    | with_reducible apply kept_ite
    | with_reducible apply kept_foldl_fst
    | with_reducible apply kept_ite_fst
    | with_reducible intro _
    | split
    | dsimp only

theorem State.writeMx_kept (s : State) (cl : ℕ) (w : ℕ) (r0 : ℕ) (step : ℕ) (square : Bool) (rows : List OutRow) (h : Kept s0 s) :
    Kept s0 (State.writeMx s cl w r0 step square rows).1 := by
  unfold State.writeMx; try dsimp only
  repeat' first
    | with_reducible assumption
    | with_reducible apply State.writeBlocks_kept
    | with_reducible apply kept_foldl_fst
    | with_reducible refine kept_of_fst (by assumption) ?_
    | with_reducible intro _
    | split
    | dsimp only

theorem State.writeRows_kept (s : State) (cl : ℕ) (w : ℕ) (r0 : ℕ) (step : ℕ) (rows : List OutRow) (h : Kept s0 s) :
    Kept s0 (State.writeRows s cl w r0 step rows) := by
  unfold State.writeRows; try dsimp only
  repeat' first
    | with_reducible assumption
    | with_reducible apply State.writePlain_kept
    | with_reducible apply State.writeMx_kept
    | with_reducible apply State.addHist_kept
    | with_reducible apply State.addCounts_kept
    | with_reducible refine kept_of_fst (by assumption) ?_
    | split

theorem State.vecSegments_kept (s : State) (cl w idx r0 step : ℕ) (rows : List (List ℕ)) (h : Kept s0 s) :
    Kept s0 (s.vecSegments cl w idx r0 step rows) := by
  unfold State.vecSegments; dsimp only
  have h1 := kept_foldl_snd (f := fun (acc : Option (List OutRow) × State) i =>
    match acc.1 with
    | none => acc
    | some done => ((acc.2.vecSegment cl w idx (r0 + vuG w * i) step ((rows.drop (vuG w * i)).take (vuG w))).1.map fun x => done ++ x,
        (acc.2.vecSegment cl w idx (r0 + vuG w * i) step ((rows.drop (vuG w * i)).take (vuG w))).2))
    (List.range ((rows.length + vuG w - 1) / vuG w)) (some [], s) (fun p x h => by
      obtain ⟨o, t⟩ := p
      cases o with
      | none => exact h
      | some done => exact State.vecSegment_kept _ _ _ _ _ _ _ h) h
  split
  · exact State.writeRows_kept _ _ _ _ _ _ h1
  · exact h1

theorem State.vecSlice_kept (s : State) (cl : ℕ) (w : ℕ) (r0 : ℕ) (step : ℕ) (rows : List (List ℕ)) (h : Kept s0 s) :
    Kept s0 (State.vecSlice s cl w r0 step rows) := by
  unfold State.vecSlice; try dsimp only
  repeat' first
    | with_reducible assumption
    | with_reducible apply State.localWrite_kept
    | with_reducible apply State.addHist_kept
    | with_reducible apply State.addCounts_kept
    | with_reducible apply kept_foldl
    | with_reducible intro _
    | split

theorem State.vecRows_kept (s : State) (cl w r0 step : ℕ) (rows : List (List ℕ)) (h : Kept s0 s) :
    Kept s0 (s.vecRows cl w r0 step rows) := by
  unfold State.vecRows; dsimp only
  refine State.writeRows_kept _ _ _ _ _ _ (kept_foldl_snd _ _ (fun p x h => ?_) h)
  have h1 : Kept s0 (if vuRowsB (vOp w) = true then p.2.readRow cl (vSrcB w) (vFmtIn w) (r0 + x.2) step else ([], p.2)).2 :=
    kept_ite_snd (fun _ => State.readRow_kept _ _ _ _ _ _ h) fun _ => h
  generalize (if vuRowsB (vOp w) = true then p.2.readRow cl (vSrcB w) (vFmtIn w) (r0 + x.2) step else ([], p.2)) = q at h1 ⊢
  obtain ⟨bs, t⟩ := q
  have h2 := fun c => State.addCounts_kept t (s.seqSrc cl) step (vWatch w) (vFmtIn w) c h1
  exact kept_ite (fun _ => State.addCounts_kept _ _ _ _ _ _ (h2 _)) fun _ => h2 _

theorem State.vecApply_kept (s : State) (cl : ℕ) (op : VecOp) (rows : List (List ℕ)) (h : Kept s0 s) :
    Kept s0 (State.vecApply s cl op rows) := by
  unfold State.vecApply; try dsimp only
  repeat' first
    | with_reducible assumption
    | with_reducible apply State.vecTopk_kept
    | with_reducible apply State.vecSegments_kept
    | with_reducible apply State.vecSlice_kept
    | with_reducible apply State.vecRows_kept
    | with_reducible apply kept_ite
    | with_reducible intro _

theorem State.vecSource_kept (s : State) (cl : ℕ) (op : VecOp) (n : ℕ) (h : Kept s0 s) : KeptP s0 (s.vecSource cl op n) := by
  unfold State.vecSource; dsimp only
  refine keptP_ite (fun _ => ?_) fun _ => keptP_ite (fun _ => ?_) fun _ => ?_
  · exact keptP_ite (fun _ => keptP_none) fun _ => keptP_some (State.modCl_kept _ _ _ h)
  · have := State.localRead_kept s cl (tkSrc op.word * 64 + op.row * topkPitch op.word) (packedBytes (fmtWidth (tkFmt op.word)) op.len) op.step h
    generalize s.localRead cl _ _ op.step = p at this ⊢
    obtain ⟨bs, t⟩ := p
    exact keptP_some this
  · refine keptP_some (kept_foldl_snd _ _ (fun p x h => ?_) h)
    have := State.readRow_kept p.2 cl (vSrcA op.word) (vFmtIn op.word) (op.row + x) op.step h
    generalize p.2.readRow cl _ _ _ op.step = q at this ⊢
    obtain ⟨r, t⟩ := q
    exact this

theorem State.scramble_kept (s : State) (cl : ℕ) (op : VecOp) (h : Kept s0 s) :
    Kept s0 (State.scramble s cl op) := by
  unfold State.scramble; try dsimp only
  repeat' first
    | with_reducible assumption
    | with_reducible apply State.nextFree_kept
    | with_reducible apply State.localWrite_kept
    | with_reducible apply kept_foldl
    | with_reducible intro _

theorem State.runVector_kept (s : State) (cl fuel : ℕ) (h : Kept s0 s) : Kept s0 (s.runVector cl fuel) := by
  induction fuel generalizing s with
  | zero => exact h
  | succ n ih =>
    unfold State.runVector
    split
    · exact h
    · refine kept_ite (fun _ => h) fun _ => ?_
      dsimp only
      split
      · exact h
      · have h1 := fun op rows => State.vecApply_kept _ cl op rows (kept_of_pair ‹_› (State.vecSource_kept _ _ _ _ h))
        refine kept_ite (fun _ => h1 _ _) fun _ => ih _ ?_
        exact kept_ite (fun _ => State.scramble_kept _ _ _ (State.modCl_kept _ _ _ (h1 _ _))) fun _ => State.modCl_kept _ _ _ (h1 _ _)

theorem State.vuRetired_kept (s : State) (cl : ℕ) (h : Kept s0 s) :
    Kept s0 (State.vuRetired s cl) := by
  unfold State.vuRetired; try dsimp only
  repeat' first
    | with_reducible assumption
    | with_reducible apply State.bump_kept
    | with_reducible apply State.modCl_kept

theorem State.vecIssue_kept (s : State) (cl : ℕ) (f : Fetched) (h : Kept s0 s) :
    Kept s0 (State.vecIssue s cl f) := by
  unfold State.vecIssue; try dsimp only
  repeat' first
    | with_reducible assumption
    | with_reducible apply State.vuRetired_kept
    | with_reducible apply State.modCl_kept
    | with_reducible apply State.place_kept
    | with_reducible apply kept_ite
    | with_reducible refine kept_of_snd (by assumption) ?_
    | with_reducible intro _

theorem vectorCommand_kept (o : ℕ) (cl : ℕ) (s : State) (h : Kept s0 s) :
    Kept s0 (vectorCommand o cl s) := by
  unfold vectorCommand; try dsimp only
  repeat' first
    | with_reducible assumption
    | with_reducible apply State.issue_kept
    | with_reducible apply State.vecIssue_kept
    | with_reducible intro _

theorem execAdd_kept (cl : ℕ) (s : State) (h : Kept s0 s) :
    KeptR s0 (execAdd cl s) := by
  unfold execAdd; try dsimp only
  repeat' first
    | with_reducible assumption
    | with_reducible apply vectorCommand_kept
    | with_reducible apply keptR_next

theorem execAddImm_kept (cl : ℕ) (s : State) (h : Kept s0 s) :
    KeptR s0 (execAddImm cl s) := by
  unfold execAddImm; try dsimp only
  repeat' first
    | with_reducible assumption
    | with_reducible apply vectorCommand_kept
    | with_reducible apply keptR_next

theorem execAxpy_kept (cl : ℕ) (s : State) (h : Kept s0 s) :
    KeptR s0 (execAxpy cl s) := by
  unfold execAxpy; try dsimp only
  repeat' first
    | with_reducible assumption
    | with_reducible apply vectorCommand_kept
    | with_reducible apply keptR_next

theorem execCopy_kept (cl : ℕ) (s : State) (h : Kept s0 s) :
    KeptR s0 (execCopy cl s) := by
  unfold execCopy; try dsimp only
  repeat' first
    | with_reducible assumption
    | with_reducible apply State.issue_kept
    | with_reducible apply State.vecIssue_kept
    | with_reducible apply keptR_next
    | with_reducible intro _

theorem execExp_kept (cl : ℕ) (s : State) (h : Kept s0 s) :
    KeptR s0 (execExp cl s) := by
  unfold execExp; try dsimp only
  repeat' first
    | with_reducible assumption
    | with_reducible apply vectorCommand_kept
    | with_reducible apply keptR_next

theorem execGelu_kept (cl : ℕ) (s : State) (h : Kept s0 s) :
    KeptR s0 (execGelu cl s) := by
  unfold execGelu; try dsimp only
  repeat' first
    | with_reducible assumption
    | with_reducible apply vectorCommand_kept
    | with_reducible apply keptR_next

theorem execLog_kept (cl : ℕ) (s : State) (h : Kept s0 s) :
    KeptR s0 (execLog cl s) := by
  unfold execLog; try dsimp only
  repeat' first
    | with_reducible assumption
    | with_reducible apply vectorCommand_kept
    | with_reducible apply keptR_next

theorem execLogsumexp_kept (cl : ℕ) (s : State) (h : Kept s0 s) :
    KeptR s0 (execLogsumexp cl s) := by
  unfold execLogsumexp; try dsimp only
  repeat' first
    | with_reducible assumption
    | with_reducible apply vectorCommand_kept
    | with_reducible apply keptR_next

theorem execMax_kept (cl : ℕ) (s : State) (h : Kept s0 s) :
    KeptR s0 (execMax cl s) := by
  unfold execMax; try dsimp only
  repeat' first
    | with_reducible assumption
    | with_reducible apply vectorCommand_kept
    | with_reducible apply keptR_next

theorem execMaxImm_kept (cl : ℕ) (s : State) (h : Kept s0 s) :
    KeptR s0 (execMaxImm cl s) := by
  unfold execMaxImm; try dsimp only
  repeat' first
    | with_reducible assumption
    | with_reducible apply vectorCommand_kept
    | with_reducible apply keptR_next

theorem execMin_kept (cl : ℕ) (s : State) (h : Kept s0 s) :
    KeptR s0 (execMin cl s) := by
  unfold execMin; try dsimp only
  repeat' first
    | with_reducible assumption
    | with_reducible apply vectorCommand_kept
    | with_reducible apply keptR_next

theorem execMinImm_kept (cl : ℕ) (s : State) (h : Kept s0 s) :
    KeptR s0 (execMinImm cl s) := by
  unfold execMinImm; try dsimp only
  repeat' first
    | with_reducible assumption
    | with_reducible apply vectorCommand_kept
    | with_reducible apply keptR_next

theorem execMul_kept (cl : ℕ) (s : State) (h : Kept s0 s) :
    KeptR s0 (execMul cl s) := by
  unfold execMul; try dsimp only
  repeat' first
    | with_reducible assumption
    | with_reducible apply vectorCommand_kept
    | with_reducible apply keptR_next

theorem execMulImm_kept (cl : ℕ) (s : State) (h : Kept s0 s) :
    KeptR s0 (execMulImm cl s) := by
  unfold execMulImm; try dsimp only
  repeat' first
    | with_reducible assumption
    | with_reducible apply vectorCommand_kept
    | with_reducible apply keptR_next

theorem execRecip_kept (cl : ℕ) (s : State) (h : Kept s0 s) :
    KeptR s0 (execRecip cl s) := by
  unfold execRecip; try dsimp only
  repeat' first
    | with_reducible assumption
    | with_reducible apply vectorCommand_kept
    | with_reducible apply keptR_next

theorem execRsqrt_kept (cl : ℕ) (s : State) (h : Kept s0 s) :
    KeptR s0 (execRsqrt cl s) := by
  unfold execRsqrt; try dsimp only
  repeat' first
    | with_reducible assumption
    | with_reducible apply vectorCommand_kept
    | with_reducible apply keptR_next

theorem execSegMax_kept (cl : ℕ) (s : State) (h : Kept s0 s) :
    KeptR s0 (execSegMax cl s) := by
  unfold execSegMax; try dsimp only
  repeat' first
    | with_reducible assumption
    | with_reducible apply vectorCommand_kept
    | with_reducible apply keptR_next

theorem execSegMin_kept (cl : ℕ) (s : State) (h : Kept s0 s) :
    KeptR s0 (execSegMin cl s) := by
  unfold execSegMin; try dsimp only
  repeat' first
    | with_reducible assumption
    | with_reducible apply vectorCommand_kept
    | with_reducible apply keptR_next

theorem execSegScale_kept (cl : ℕ) (s : State) (h : Kept s0 s) :
    KeptR s0 (execSegScale cl s) := by
  unfold execSegScale; try dsimp only
  repeat' first
    | with_reducible assumption
    | with_reducible apply vectorCommand_kept
    | with_reducible apply keptR_next

theorem execSegSub_kept (cl : ℕ) (s : State) (h : Kept s0 s) :
    KeptR s0 (execSegSub cl s) := by
  unfold execSegSub; try dsimp only
  repeat' first
    | with_reducible assumption
    | with_reducible apply vectorCommand_kept
    | with_reducible apply keptR_next

theorem execSegSum_kept (cl : ℕ) (s : State) (h : Kept s0 s) :
    KeptR s0 (execSegSum cl s) := by
  unfold execSegSum; try dsimp only
  repeat' first
    | with_reducible assumption
    | with_reducible apply vectorCommand_kept
    | with_reducible apply keptR_next

theorem execSegSumsq_kept (cl : ℕ) (s : State) (h : Kept s0 s) :
    KeptR s0 (execSegSumsq cl s) := by
  unfold execSegSumsq; try dsimp only
  repeat' first
    | with_reducible assumption
    | with_reducible apply vectorCommand_kept
    | with_reducible apply keptR_next

theorem execSigmoid_kept (cl : ℕ) (s : State) (h : Kept s0 s) :
    KeptR s0 (execSigmoid cl s) := by
  unfold execSigmoid; try dsimp only
  repeat' first
    | with_reducible assumption
    | with_reducible apply vectorCommand_kept
    | with_reducible apply keptR_next

theorem execSilu_kept (cl : ℕ) (s : State) (h : Kept s0 s) :
    KeptR s0 (execSilu cl s) := by
  unfold execSilu; try dsimp only
  repeat' first
    | with_reducible assumption
    | with_reducible apply vectorCommand_kept
    | with_reducible apply keptR_next

theorem execSlice_kept (cl : ℕ) (s : State) (h : Kept s0 s) :
    KeptR s0 (execSlice cl s) := by
  unfold execSlice; try dsimp only
  repeat' first
    | with_reducible assumption
    | with_reducible apply vectorCommand_kept
    | with_reducible apply keptR_next

theorem execSoftmax_kept (cl : ℕ) (s : State) (h : Kept s0 s) :
    KeptR s0 (execSoftmax cl s) := by
  unfold execSoftmax; try dsimp only
  repeat' first
    | with_reducible assumption
    | with_reducible apply vectorCommand_kept
    | with_reducible apply keptR_next

theorem execSqdiff_kept (cl : ℕ) (s : State) (h : Kept s0 s) :
    KeptR s0 (execSqdiff cl s) := by
  unfold execSqdiff; try dsimp only
  repeat' first
    | with_reducible assumption
    | with_reducible apply vectorCommand_kept
    | with_reducible apply keptR_next

theorem execSqrt_kept (cl : ℕ) (s : State) (h : Kept s0 s) :
    KeptR s0 (execSqrt cl s) := by
  unfold execSqrt; try dsimp only
  repeat' first
    | with_reducible assumption
    | with_reducible apply vectorCommand_kept
    | with_reducible apply keptR_next

theorem execSub_kept (cl : ℕ) (s : State) (h : Kept s0 s) :
    KeptR s0 (execSub cl s) := by
  unfold execSub; try dsimp only
  repeat' first
    | with_reducible assumption
    | with_reducible apply vectorCommand_kept
    | with_reducible apply keptR_next

theorem execTanh_kept (cl : ℕ) (s : State) (h : Kept s0 s) :
    KeptR s0 (execTanh cl s) := by
  unfold execTanh; try dsimp only
  repeat' first
    | with_reducible assumption
    | with_reducible apply vectorCommand_kept
    | with_reducible apply keptR_next

theorem execTopk_kept (cl : ℕ) (s : State) (h : Kept s0 s) :
    KeptR s0 (execTopk cl s) := by
  unfold execTopk; try dsimp only
  repeat' first
    | with_reducible assumption
    | with_reducible apply State.issue_kept
    | with_reducible apply State.vecIssue_kept
    | with_reducible apply keptR_next
    | with_reducible intro _

theorem execVectorOpComplete_kept (cl : ℕ) (checks : List MemCheck) (s : State) (h : Kept s0 s) :
    KeptR s0 (execVectorOpComplete cl checks s) := by
  unfold execVectorOpComplete; try dsimp only
  repeat' first
    | with_reducible assumption
    | with_reducible apply State.bump_kept
    | with_reducible apply State.modCl_kept
    | with_reducible apply State.checked_kept
    | with_reducible apply State.runVector_kept
    | with_reducible apply State.settle_kept
    | with_reducible apply State.vuRetired_kept
    | with_reducible apply kept_ite
    | with_reducible apply keptR_ite
    | with_reducible apply keptR_next
    | with_reducible refine kept_of_snd (by assumption) ?_
    | with_reducible intro _
    | split

theorem execXent_kept (cl : ℕ) (s : State) (h : Kept s0 s) :
    KeptR s0 (execXent cl s) := by
  unfold execXent; try dsimp only
  repeat' first
    | with_reducible assumption
    | with_reducible apply vectorCommand_kept
    | with_reducible apply keptR_next

theorem execXentGrad_kept (cl : ℕ) (s : State) (h : Kept s0 s) :
    KeptR s0 (execXentGrad cl s) := by
  unfold execXentGrad; try dsimp only
  repeat' first
    | with_reducible assumption
    | with_reducible apply vectorCommand_kept
    | with_reducible apply keptR_next

end Sys2Proof.Machine
end

