-- ==== Sys2Proof/Laws/KeptArrayCmds.lean ====
section
/-! SUPPORT. What the operations of Machine/ArrayCmds.lean keep. -/

namespace Sys2Proof.Machine

variable {s0 : State}

theorem State.diagSelect_kept (s : State) (die : ℕ) (n : ℕ) (value : ℕ) (h : Kept s0 s) :
    Kept s0 (State.diagSelect s die n value) := by
  unfold State.diagSelect; try dsimp only
  repeat' first
    | with_reducible assumption
    | with_reducible apply State.modCl_kept
    | split

theorem State.drainPut_kept (s : State) (cl : ℕ) (f : Fetched) (kind : DrainKind) (m : ℕ) (n : ℕ) (mask : ℕ × ℕ) (h : Kept s0 s) :
    Kept s0 (State.drainPut s cl f kind m n mask) := by
  unfold State.drainPut; try dsimp only
  repeat' first
    | with_reducible assumption
    | with_reducible apply State.modCl_kept
    | with_reducible apply State.place_kept
    | with_reducible refine kept_of_snd (by assumption) ?_

theorem State.drainIssue_kept (s : State) (cl : ℕ) (f : Fetched) (h : Kept s0 s) :
    Kept s0 (State.drainIssue s cl f) := by
  unfold State.drainIssue; try dsimp only
  repeat' first
    | with_reducible assumption
    | with_reducible apply State.modCl_kept
    | with_reducible apply State.drainPut_kept
    | with_reducible apply kept_ite
    | with_reducible intro _

theorem State.rowTaken_kept (s : State) (cl : ℕ) (d : DrainOp) (h : Kept s0 s) :
    Kept s0 (State.rowTaken s cl d) := by
  unfold State.rowTaken; try dsimp only
  repeat' first
    | with_reducible assumption
    | with_reducible apply State.modCl_kept

theorem State.drainOne_kept (s : State) (cl : ℕ) (d : DrainOp) (h : Kept s0 s) :
    Kept s0 (State.drainOne s cl d) := by
  unfold State.drainOne; try dsimp only
  repeat' first
    | with_reducible assumption
    | with_reducible apply State.drainRow_kept
    | with_reducible apply State.rowTaken_kept
    | with_reducible refine kept_of_some (by assumption) ?_
    | split

theorem State.drainRetire_kept (s : State) (cl : ℕ) (d : DrainOp) (h : Kept s0 s) :
    Kept s0 (State.drainRetire s cl d) := by
  unfold State.drainRetire; try dsimp only
  repeat' first
    | with_reducible assumption
    | with_reducible apply State.settle_kept
    | with_reducible apply State.modCl_kept

theorem State.drainRows_kept (s : State) (cl fuel : ℕ) (h : Kept s0 s) : Kept s0 (s.drainRows cl fuel) := by
  induction fuel generalizing s with
  | zero => exact h
  | succ n ih =>
    unfold State.drainRows
    split
    · exact h
    · exact kept_ite (fun _ => h) fun _ => ih _ (State.drainOne_kept _ _ _ h)

theorem State.katIssue_kept (s : State) (cl : ℕ) (f : Fetched) (h : Kept s0 s) :
    Kept s0 (State.katIssue s cl f) := by
  unfold State.katIssue; try dsimp only
  repeat' first
    | with_reducible assumption
    | with_reducible apply State.modCl_kept
    | with_reducible apply State.place_kept
    | with_reducible refine kept_of_snd (by assumption) ?_

theorem State.passIssue_kept (s : State) (cl : ℕ) (f : Fetched) (kind : PassKind) (m : ℕ) (n : ℕ) (k : ℕ) (h : Kept s0 s) :
    Kept s0 (State.passIssue s cl f kind m n k) := by
  unfold State.passIssue; try dsimp only
  repeat' first
    | with_reducible assumption
    | with_reducible apply State.passRetired_kept
    | with_reducible apply State.modCl_kept
    | with_reducible apply State.place_kept
    | with_reducible apply kept_ite
    | with_reducible refine kept_of_snd (by assumption) ?_
    | with_reducible intro _

theorem State.residueFail_kept (s : State) (cl : ℕ) (tile : ℕ) (row : ℕ) (col : ℕ) (h : Kept s0 s) :
    Kept s0 (State.residueFail s cl tile row col) := by
  unfold State.residueFail; try dsimp only
  repeat' first
    | with_reducible assumption
    | with_reducible apply State.fault_kept

theorem execArrayPassComplete_kept (cl : ℕ) (checks : List MemCheck) (s : State) (h : Kept s0 s) :
    KeptR s0 (execArrayPassComplete cl checks s) := by
  unfold execArrayPassComplete; try dsimp only
  repeat' first
    | with_reducible assumption
    | with_reducible apply State.bump_kept
    | with_reducible apply State.modCl_kept
    | with_reducible apply State.checked_kept
    | with_reducible apply State.settle_kept
    | with_reducible apply State.passRetired_kept
    | with_reducible apply State.passEffect_kept
    | with_reducible apply kept_ite
    | with_reducible apply keptR_ite
    | with_reducible apply keptR_next
    | with_reducible refine kept_of_snd (by assumption) ?_
    | with_reducible intro _
    | split

theorem execClusterPauseSpill_kept (cl : ℕ) (s : State) (h : Kept s0 s) :
    KeptR s0 (execClusterPauseSpill cl s) := by
  unfold execClusterPauseSpill; try dsimp only
  repeat' first
    | with_reducible assumption
    | with_reducible apply State.modCl_kept
    | with_reducible apply kept_ite
    | with_reducible apply keptR_ite
    | with_reducible apply keptR_next
    | with_reducible intro _

theorem execConv_kept (cl : ℕ) (s : State) (h : Kept s0 s) :
    KeptR s0 (execConv cl s) := by
  unfold execConv; try dsimp only
  repeat' first
    | with_reducible assumption
    | with_reducible apply State.issue_kept
    | with_reducible apply State.passIssue_kept
    | with_reducible apply keptR_next
    | with_reducible intro _
    | split

theorem execCrop_kept (cl : ℕ) (s : State) (h : Kept s0 s) :
    KeptR s0 (execCrop cl s) := by
  unfold execCrop; try dsimp only
  repeat' first
    | with_reducible assumption
    | with_reducible apply State.issue_kept
    | with_reducible apply State.eventOnce_kept
    | with_reducible apply State.bump_kept
    | with_reducible apply State.passIssue_kept
    | with_reducible apply kept_ite
    | with_reducible apply keptR_ite
    | with_reducible apply keptR_next
    | with_reducible apply keptO_getD
    | with_reducible intro _
    | split

theorem execDrain_kept (cl : ℕ) (s : State) (h : Kept s0 s) :
    KeptR s0 (execDrain cl s) := by
  unfold execDrain; try dsimp only
  repeat' first
    | with_reducible assumption
    | with_reducible apply State.issue_kept
    | with_reducible apply State.drainIssue_kept
    | with_reducible apply keptR_next
    | with_reducible intro _

theorem execDrainFence_kept (cl : ℕ) (s : State) (h : Kept s0 s) :
    KeptR s0 (execDrainFence cl s) := by
  unfold execDrainFence; try dsimp only
  repeat' first
    | with_reducible assumption
    | with_reducible apply State.drainRetire_kept
    | with_reducible apply State.modCl_kept
    | with_reducible apply kept_ite
    | with_reducible apply keptR_ite
    | with_reducible apply keptR_next
    | with_reducible intro _
    | split

theorem execDrainPathOpComplete_kept (cl : ℕ) (checks : List MemCheck) (s : State) (h : Kept s0 s) :
    KeptR s0 (execDrainPathOpComplete cl checks s) := by
  unfold execDrainPathOpComplete; try dsimp only
  repeat' first
    | with_reducible assumption
    | with_reducible apply State.checked_kept
    | with_reducible apply State.drainRows_kept
    | with_reducible apply State.drainRetire_kept
    | with_reducible apply kept_ite
    | with_reducible apply keptR_ite
    | with_reducible apply keptR_next
    | with_reducible refine kept_of_snd (by assumption) ?_
    | with_reducible intro _
    | split

theorem execDrainRowWrite_kept (cl : ℕ) (residue : Option ℕ) (checks : List MemCheck) (s : State) (h : Kept s0 s) :
    KeptR s0 (execDrainRowWrite cl residue checks s) := by
  unfold execDrainRowWrite; try dsimp only
  repeat' first
    | with_reducible assumption
    | with_reducible apply State.residueFail_kept
    | with_reducible apply State.checked_kept
    | with_reducible apply State.drainOne_kept
    | with_reducible apply State.rowTaken_kept
    | with_reducible apply kept_ite
    | with_reducible apply keptR_ite
    | with_reducible apply keptR_next
    | with_reducible refine kept_of_snd (by assumption) ?_
    | with_reducible intro _
    | split

theorem execDrainSlot_kept (cl : ℕ) (s : State) (h : Kept s0 s) :
    KeptR s0 (execDrainSlot cl s) := by
  unfold execDrainSlot; try dsimp only
  repeat' first
    | with_reducible assumption
    | with_reducible apply State.issue_kept
    | with_reducible apply State.drainIssue_kept
    | with_reducible apply keptR_next
    | with_reducible intro _

theorem execElemwise_kept (cl : ℕ) (s : State) (h : Kept s0 s) :
    KeptR s0 (execElemwise cl s) := by
  unfold execElemwise; try dsimp only
  repeat' first
    | with_reducible assumption
    | with_reducible apply State.issue_kept
    | with_reducible apply State.passIssue_kept
    | with_reducible apply keptR_next
    | with_reducible intro _
    | split

theorem execKat_kept (cl : ℕ) (s : State) (h : Kept s0 s) :
    KeptR s0 (execKat cl s) := by
  unfold execKat; try dsimp only
  repeat' first
    | with_reducible assumption
    | with_reducible apply State.issue_kept
    | with_reducible apply State.katIssue_kept
    | with_reducible apply keptR_next
    | with_reducible intro _
    | split

theorem execKatCheckComplete_kept (cl : ℕ) (signature : ℕ) (residue : Option (ℕ × ℕ)) (s : State) (h : Kept s0 s) :
    KeptR s0 (execKatCheckComplete cl signature residue s) := by
  unfold execKatCheckComplete; try dsimp only
  repeat' first
    | with_reducible assumption
    | with_reducible apply State.residueFail_kept
    | with_reducible apply State.fault_kept
    | with_reducible apply State.bump_kept
    | with_reducible apply State.modCl_kept
    | with_reducible apply State.drainRetire_kept
    | with_reducible apply State.passRetired_kept
    | with_reducible apply kept_ite
    | with_reducible apply keptR_ite
    | with_reducible apply keptR_next
    | with_reducible intro _
    | split

theorem execKatMissed_kept (cl : ℕ) (s : State) (h : Kept s0 s) :
    KeptR s0 (execKatMissed cl s) := by
  unfold execKatMissed; try dsimp only
  repeat' first
    | with_reducible assumption
    | with_reducible apply State.fault_kept
    | with_reducible apply kept_ite
    | with_reducible apply keptR_ite
    | with_reducible apply keptR_next
    | with_reducible intro _
    | split

theorem execMatrix_kept (cl : ℕ) (s : State) (h : Kept s0 s) :
    KeptR s0 (execMatrix cl s) := by
  unfold execMatrix; try dsimp only
  repeat' first
    | with_reducible assumption
    | with_reducible apply State.issue_kept
    | with_reducible apply State.passIssue_kept
    | with_reducible apply keptR_next
    | with_reducible intro _
    | split

theorem execNop_kept (cl : ℕ) (s : State) (h : Kept s0 s) :
    KeptR s0 (execNop cl s) := by
  unfold execNop; try dsimp only
  repeat' first
    | with_reducible assumption
    | with_reducible apply State.issue_kept
    | with_reducible apply keptR_next
    | with_reducible intro _

theorem execRestore_kept (cl : ℕ) (s : State) (h : Kept s0 s) :
    KeptR s0 (execRestore cl s) := by
  unfold execRestore; try dsimp only
  repeat' first
    | with_reducible assumption
    | with_reducible apply State.issue_kept
    | with_reducible apply State.drainPut_kept
    | with_reducible apply State.modCl_kept
    | with_reducible apply kept_ite
    | with_reducible apply keptR_ite
    | with_reducible apply keptR_next
    | with_reducible intro _

theorem execSpillAdd_kept (cl : ℕ) (s : State) (h : Kept s0 s) :
    KeptR s0 (execSpillAdd cl s) := by
  unfold execSpillAdd; try dsimp only
  repeat' first
    | with_reducible assumption
    | with_reducible apply State.issue_kept
    | with_reducible apply State.drainPut_kept
    | with_reducible apply State.modCl_kept
    | with_reducible apply keptR_next
    | with_reducible intro _
    | split

theorem execSpillStore_kept (cl : ℕ) (s : State) (h : Kept s0 s) :
    KeptR s0 (execSpillStore cl s) := by
  unfold execSpillStore; try dsimp only
  repeat' first
    | with_reducible assumption
    | with_reducible apply State.issue_kept
    | with_reducible apply State.drainPut_kept
    | with_reducible apply State.modCl_kept
    | with_reducible apply keptR_next
    | with_reducible intro _
    | split

theorem execXaDiagCaptureDone_kept (die : ℕ) (n : ℕ) (ksteps : ℕ) (residueOk : Bool) (s : State) (h : Kept s0 s) :
    KeptR s0 (execXaDiagCaptureDone die n ksteps residueOk s) := by
  unfold execXaDiagCaptureDone; try dsimp only
  repeat' first
    | with_reducible assumption
    | with_reducible apply State.modCl_kept
    | with_reducible apply State.bump_kept
    | with_reducible apply State.residueFail_kept
    | with_reducible apply kept_ite
    | with_reducible apply keptR_ite
    | with_reducible apply keptR_next
    | with_reducible intro _
    | split

theorem execXaDiagSel_kept (die : ℕ) (n : ℕ) (value : ℕ) (s : State) (h : Kept s0 s) :
    KeptR s0 (execXaDiagSel die n value s) := by
  unfold execXaDiagSel; try dsimp only
  repeat' first
    | with_reducible assumption
    | with_reducible apply State.diagSelect_kept
    | with_reducible apply keptR_next

end Sys2Proof.Machine
end

