-- ==== Sys2Proof/Laws/KeptDma.lean ====
section
/-! SUPPORT. What the operations of Machine/Dma.lean keep. -/

namespace Sys2Proof.Machine

variable {s0 : State}

theorem State.bankArrives_kept (s : State) (die : ℕ) (i : ℕ) (w : BankWrite) (h : Kept s0 s) :
    Kept s0 (State.bankArrives s die i w) := by
  unfold State.bankArrives; try dsimp only
  repeat' first
    | with_reducible assumption
    | with_reducible apply State.fault_kept
    | with_reducible apply State.modBank_kept
    | with_reducible apply kept_ite
    | with_reducible intro _

theorem State.dmaSignal_kept (s : State) (cl : ℕ) (step : ℕ) (d : Bytes) (h : Kept s0 s) :
    Kept s0 (State.dmaSignal s cl step d) := by
  unfold State.dmaSignal; try dsimp only
  repeat' first
    | with_reducible assumption
    | with_reducible apply State.signal_kept
    | with_reducible apply kept_ite
    | with_reducible intro _

theorem State.dmaRetire_kept (s : State) (cl : ℕ) (signal : Bool) (h : Kept s0 s) :
    Kept s0 (State.dmaRetire s cl signal) := by
  unfold State.dmaRetire; try dsimp only
  repeat' first
    | with_reducible assumption
    | with_reducible apply State.modCl_kept
    | with_reducible apply State.dmaSignal_kept
    | with_reducible apply State.settle_kept
    | with_reducible apply kept_ite
    | with_reducible apply keptO_getD
    | with_reducible intro _
    | split

theorem State.bankRetire_kept (s : State) (w : BankWrite) (h : Kept s0 s) :
    Kept s0 (State.bankRetire s w) := by
  unfold State.bankRetire; try dsimp only
  repeat' first
    | with_reducible assumption
    | with_reducible apply State.dmaRetire_kept
    | with_reducible apply kept_ite
    | with_reducible intro _
    | split

theorem State.collide_kept (s : State) (old : List (ℕ × BitVec 8)) (who : Option ℕ) (step line : ℕ) (h : Kept s0 s) :
    Kept s0 (s.collide old who step line) := by
  unfold State.collide
  refine kept_ite (fun _ => h) fun _ => ?_
  have h1 := kept_mem (x := writeBytes s.mem (64 * line) (readBytes old (64 * line) 64)) h (writeBytes_wf _ _ _)
  split
  · exact h1
  · exact kept_ite (fun _ => h1) fun _ => State.eventOnce_kept _ _ _ _ _ _ (State.bump_kept _ _ _ (State.modBank_kept _ _ _ _ h1))

theorem State.copyRows_kept (s : State) (cl : ℕ) (step : ℕ) (d : Bytes) (rows : ℕ) (h : Kept s0 s) :
    Kept s0 (State.copyRows s cl step d rows) := by
  unfold State.copyRows; try dsimp only
  repeat' first
    | with_reducible assumption
    | with_reducible apply State.mapRead_kept
    | with_reducible apply State.mapWrite_kept
    | with_reducible apply kept_foldl
    | with_reducible refine kept_of_snd (by assumption) ?_
    | with_reducible intro _
    | split

theorem State.putHead_kept (s : State) (cl : ℕ) (op : DmaOp) (rest : List DmaOp) (h : Kept s0 s) :
    Kept s0 (State.putHead s cl op rest) := by
  unfold State.putHead; try dsimp only
  repeat' first
    | with_reducible assumption
    | with_reducible apply State.modCl_kept

theorem State.sendWrite_kept (s : State) (cl : ℕ) (d : Bytes) (addr : ℕ) (total : ℕ) (xfer : ℕ) (body : Bytes) (h : Kept s0 s) :
    Kept s0 (State.sendWrite s cl d addr total xfer body) := by
  unfold State.sendWrite; try dsimp only
  repeat' first
    | with_reducible assumption
    | with_reducible apply State.putMsg_kept
    | with_reducible apply kept_ite
    | with_reducible intro _
    | split

theorem State.sendTransfer_kept (s : State) (cl step : ℕ) (d : Bytes) (rows xfer : ℕ) (h : Kept s0 s) :
    Kept s0 (s.sendTransfer cl step d rows xfer) := by
  unfold State.sendTransfer
  refine kept_ite (fun _ => State.sendWrite_kept _ _ _ _ _ _ _ h) fun _ => kept_foldl _ (fun s r h => ?_) h
  have h1 := State.mapRead_kept s (some cl) (ddSrc d + r * ddSrcPitch d) (ddRowBytes d) step h
  generalize s.mapRead (some cl) (ddSrc d + r * ddSrcPitch d) (ddRowBytes d) step = p at h1 ⊢
  obtain ⟨bs, t⟩ := p
  exact kept_foldl_snd _ _ (fun p x h => State.sendWrite_kept _ _ _ _ _ _ _ h) h1

theorem bankSend_kept (cl : ℕ) (op : DmaOp) (rest : List DmaOp) (d : Bytes) (p : Bytes × State) (h : Kept s0 p.2) :
    Kept s0 (bankSend cl op rest d p) := by
  unfold bankSend; dsimp only
  exact kept_elim (State.putHead_kept _ _ _ _ h) fun _ => State.bankArrives_kept _ _ _ _ (State.putHead_kept _ _ _ _ h)

theorem State.dmaBegin_kept (s : State) (cl : ℕ) (checks : List MemCheck) (h : Kept s0 s) :
    Kept s0 (State.dmaBegin s cl checks) := by
  unfold State.dmaBegin; try dsimp only
  repeat' first
    | with_reducible assumption
    | with_reducible apply State.checked_kept
    | with_reducible apply State.putHead_kept
    | with_reducible apply State.sendTransfer_kept
    | with_reducible apply bankSend_kept
    | with_reducible apply State.mapRead_kept
    | with_reducible exact List.prefix_rfl
    | with_reducible exact Nat.le_refl _
    | with_reducible exact fun h => h
    | with_reducible apply kept_ite
    | with_reducible refine kept_of_snd (by assumption) ?_
    | with_reducible intro _
    | split
    | with_reducible refine kept_mk ?_ ?_ ?_ ?_ ?_ ?_ ?_ ?_ ?_ ?_

theorem State.dmaPut_kept (s : State) (cl : ℕ) (f : Fetched) (kind : DmaKind) (rows : ℕ) (checks : List MemCheck) (h : Kept s0 s) :
    Kept s0 (State.dmaPut s cl f kind rows checks) := by
  unfold State.dmaPut; try dsimp only
  repeat' first
    | with_reducible assumption
    | with_reducible apply State.modCl_kept
    | with_reducible apply State.place_kept
    | with_reducible apply State.dmaBegin_kept
    | with_reducible apply kept_ite
    | with_reducible refine kept_of_snd (by assumption) ?_
    | with_reducible intro _

theorem State.landWrite_kept (s : State) (who : Option ℕ) (a step : ℕ) (bs : Bytes) (collided : List ℕ) (h : Kept s0 s) :
    Kept s0 (s.landWrite who a step bs collided) := by
  unfold State.landWrite
  exact kept_foldl _ (fun _ _ h => State.collide_kept _ _ _ _ _ h) (State.mapWrite_kept _ _ _ _ _ h)

theorem State.noteStash_kept (s : State) (d : Bytes) (rows : ℕ) (h : Kept s0 s) :
    Kept s0 (State.noteStash s d rows) := by
  unfold State.noteStash; try dsimp only
  repeat' first
    | with_reducible assumption
    | with_reducible exact List.prefix_rfl
    | with_reducible exact Nat.le_refl _
    | with_reducible exact fun h => h
    | with_reducible apply kept_ite
    | with_reducible intro _
    | with_reducible refine kept_mk ?_ ?_ ?_ ?_ ?_ ?_ ?_ ?_ ?_ ?_

theorem State.stashLimit_kept (s : State) (step : ℕ) (branch : ℕ) (offset : ℕ) (h : Kept s0 s) :
    Kept s0 (State.stashLimit s step branch offset) := by
  unfold State.stashLimit; try dsimp only
  repeat' first
    | with_reducible assumption
    | with_reducible apply State.event_kept
    | with_reducible apply State.straggle_kept
    | with_reducible exact List.prefix_rfl
    | with_reducible exact Nat.le_refl _
    | with_reducible exact fun h => h
    | with_reducible apply kept_ite
    | with_reducible intro _
    | with_reducible refine kept_mk ?_ ?_ ?_ ?_ ?_ ?_ ?_ ?_ ?_ ?_

theorem State.stashRefuses_kept (s : State) (step : ℕ) (d : Bytes) (rows : ℕ) (h : Kept s0 s) :
    Kept s0 (State.stashRefuses s step d rows).2 := by
  unfold State.stashRefuses; try dsimp only
  repeat' first
    | with_reducible assumption
    | with_reducible apply State.stashLimit_kept
    | with_reducible apply kept_ite
    | with_reducible apply kept_ite_snd
    | with_reducible intro _
    | dsimp only

theorem State.transferIssue_kept (s : State) (cl : ℕ) (f : Fetched) (checks : List MemCheck) (h : Kept s0 s) :
    Kept s0 (State.transferIssue s cl f checks) := by
  unfold State.transferIssue; try dsimp only
  repeat' first
    | with_reducible assumption
    | with_reducible apply State.dmaSignal_kept
    | with_reducible apply State.dmaPut_kept
    | with_reducible apply State.stashRefuses_kept
    | with_reducible apply kept_ite
    | with_reducible refine kept_of_snd (by assumption) ?_
    | with_reducible intro _
    | split

theorem execBankCtrl_kept (cl : ℕ) (checks : List MemCheck) (s : State) (h : Kept s0 s) :
    KeptR s0 (execBankCtrl cl checks s) := by
  unfold execBankCtrl; try dsimp only
  repeat' first
    | with_reducible assumption
    | with_reducible apply State.issue_kept
    | with_reducible apply State.dmaPut_kept
    | with_reducible apply keptR_next
    | with_reducible intro _

theorem execBankHandoverComplete_kept (die : ℕ) (bank : ℕ) (s : State) (h : Kept s0 s) :
    KeptR s0 (execBankHandoverComplete die bank s) := by
  unfold execBankHandoverComplete; try dsimp only
  repeat' first
    | with_reducible assumption
    | with_reducible apply State.bankRetire_kept
    | with_reducible apply State.modBank_kept
    | with_reducible apply kept_ite
    | with_reducible apply keptR_ite
    | with_reducible apply keptR_next
    | with_reducible intro _
    | split

theorem execBankPowerTransitionDone_kept (die : ℕ) (bank : ℕ) (s : State) (h : Kept s0 s) :
    KeptR s0 (execBankPowerTransitionDone die bank s) := by
  unfold execBankPowerTransitionDone; try dsimp only
  repeat' first
    | with_reducible assumption
    | with_reducible apply State.modBank_kept
    | with_reducible exact List.prefix_rfl
    | with_reducible exact Nat.le_refl _
    | with_reducible exact fun h => h
    | with_reducible apply kept_ite
    | with_reducible apply keptR_ite
    | with_reducible apply keptR_next
    | exact fun w => clearRange_wf _ _ _ w
    | exact clearRange_wf _ _ _ ‹_›
    | with_reducible intro _
    | split
    | with_reducible refine kept_mk ?_ ?_ ?_ ?_ ?_ ?_ ?_ ?_ ?_ ?_

theorem execDmaComplete_kept (cl : ℕ) (checks : List MemCheck) (collided : List ℕ) (s : State) (h : Kept s0 s) :
    KeptR s0 (execDmaComplete cl checks collided s) := by
  unfold execDmaComplete; try dsimp only
  repeat' first
    | with_reducible assumption
    | with_reducible apply State.dmaBegin_kept
    | with_reducible apply State.checked_kept
    | with_reducible apply State.copyRows_kept
    | with_reducible apply State.dmaRetire_kept
    | with_reducible apply State.noteStash_kept
    | with_reducible apply State.collide_kept
    | with_reducible apply kept_ite
    | with_reducible apply keptR_ite
    | with_reducible apply keptR_next
    | with_reducible apply kept_foldl
    | with_reducible refine kept_of_snd (by assumption) ?_
    | with_reducible intro _
    | split

theorem execDmaTransfer_kept (cl : ℕ) (checks : List MemCheck) (s : State) (h : Kept s0 s) :
    KeptR s0 (execDmaTransfer cl checks s) := by
  unfold execDmaTransfer; try dsimp only
  repeat' first
    | with_reducible assumption
    | with_reducible apply State.issue_kept
    | with_reducible apply State.transferIssue_kept
    | with_reducible apply keptR_next
    | with_reducible intro _

end Sys2Proof.Machine
end

