-- ==== Sys2Proof/Laws/KeptLimber.lean ====
section
/-! SUPPORT. What the operations of Machine/Limber.lean keep. -/

namespace Sys2Proof.Machine

variable {s0 : State}

theorem State.addTally_kept (s : State) (src : ℕ) (step : ℕ) (f : ℕ) (t : LimberTally) (h : Kept s0 s) :
    Kept s0 (State.addTally s src step f t) := by
  unfold State.addTally; try dsimp only
  repeat' first
    | with_reducible assumption
    | with_reducible apply State.addHist_kept
    | with_reducible apply State.addCounts_kept

theorem State.modLimber_kept (s : State) (die : ℕ) (f : Limber → Limber) (h : Kept s0 s) :
    Kept s0 (State.modLimber s die f) := by
  unfold State.modLimber; try dsimp only
  repeat' first
    | with_reducible assumption
    | with_reducible exact List.prefix_rfl
    | with_reducible exact Nat.le_refl _
    | with_reducible exact fun h => h
    | with_reducible refine kept_mk ?_ ?_ ?_ ?_ ?_ ?_ ?_ ?_ ?_ ?_

theorem State.limberRetired_kept (s : State) (die : ℕ) (n : ℕ) (h : Kept s0 s) :
    Kept s0 (State.limberRetired s die n) := by
  unfold State.limberRetired; try dsimp only
  repeat' first
    | with_reducible assumption
    | with_reducible apply State.bump_kept
    | with_reducible apply State.modLimber_kept

theorem execLimberJob_kept (cl : ℕ) (s : State) (h : Kept s0 s) :
    KeptR s0 (execLimberJob cl s) := by
  unfold execLimberJob; try dsimp only
  repeat' first
    | with_reducible assumption
    | with_reducible apply State.issue_kept
    | with_reducible apply State.limberRetired_kept
    | with_reducible apply State.dmaPut_kept
    | with_reducible apply kept_ite
    | with_reducible apply keptR_ite
    | with_reducible apply keptR_next
    | with_reducible intro _
    | split

theorem execLimberJobAccept_kept (cl : ℕ) (s : State) (h : Kept s0 s) :
    KeptR s0 (execLimberJobAccept cl s) := by
  unfold execLimberJobAccept; try dsimp only
  repeat' first
    | with_reducible assumption
    | with_reducible apply State.modCl_kept
    | with_reducible apply State.modLimber_kept
    | with_reducible apply kept_ite
    | with_reducible apply keptR_ite
    | with_reducible apply keptR_next
    | with_reducible intro _
    | split

theorem execLimberJobComplete_kept (die : ℕ) (checks : List MemCheck) (collided : List ℕ) (s : State) (h : Kept s0 s) :
    KeptR s0 (execLimberJobComplete die checks collided s) := by
  unfold execLimberJobComplete
  refine keptR_next ?_
  generalize (s.limber die).queue = q
  cases q with
  | nil => exact h
  | cons j rest =>
    dsimp only
    generalize s.desc j.desc = o
    cases o with
    | none => exact h
    | some d =>
      dsimp only
      refine kept_ite (fun _ => h) fun _ => ?_
      have hc := State.checked_kept s checks h
      generalize s.checked checks = c at hc ⊢
      obtain ⟨ok, u⟩ := c
      refine kept_ite (fun _ => hc) fun _ => ?_
      have h1 := limberWork_keeps (Kept s0) (limberIo j d collided) d j.rows u
        (fun s n h => State.localRead_kept _ _ _ _ _ h) (fun s r c h => State.localRead_kept _ _ _ _ _ h)
        (fun s a bs h => State.landWrite_kept _ _ _ _ _ _ h) hc
      generalize limberWork (limberIo j d collided) d j.rows u = w at h1 ⊢
      obtain ⟨n, cts, t⟩ := w
      exact State.settle_kept _ _ (State.modCl_kept _ _ _ (State.limberRetired_kept _ _ _
        (State.modLimber_kept _ _ _ (State.addTally_kept _ _ _ _ _ h1))))

end Sys2Proof.Machine
end

