-- ==== Sys2Proof/Laws/KeptHost.lean ====
section
/-! SUPPORT. What the operations of Machine/Host.lean keep. -/

namespace Sys2Proof.Machine

variable {s0 : State}

theorem State.keepResponse_kept (s : State) (sid : ℕ) (addr : Bytes) (r : Response) (h : Kept s0 s) :
    Kept s0 (State.keepResponse s sid addr r) := by
  unfold State.keepResponse; try dsimp only
  repeat' first
    | with_reducible assumption
    | with_reducible exact List.prefix_rfl
    | with_reducible exact Nat.le_refl _
    | with_reducible exact fun h => h
    | with_reducible exact hostOk_of rfl rfl
    | with_reducible apply kept_ite
    | with_reducible apply keptO_getD
    | with_reducible intro _
    | split
    | with_reducible refine kept_mk ?_ ?_ ?_ ?_ ?_ ?_ ?_ ?_ ?_ ?_

theorem Answer.finish_kept (a : Answer) (sid op : ℕ) (q : Req) (h : KeptA s0 a) : Kept s0 (Answer.finish a sid op q) := by
  unfold Answer.finish; dsimp only
  exact State.sendHost_kept _ _ (State.keepResponse_kept _ _ _ _ (State.bump_kept _ _ _ h))

theorem State.answerFrame_kept (s : State) (target : Bytes) (kind : ℕ) (data : Bytes) (h : Kept s0 s) :
    Kept s0 (State.answerFrame s target kind data) := by
  unfold State.answerFrame; try dsimp only
  repeat' first
    | with_reducible assumption
    | with_reducible apply State.rxFrame_kept
    | with_reducible apply State.sendHost_kept
    | with_reducible apply State.bump_kept
    | with_reducible apply kept_ite
    | with_reducible intro _

theorem refuse_kept (s : State) (abort : ℕ) (h : Kept s0 s) :
    KeptA s0 (refuse s abort) := by
  unfold refuse; try dsimp only
  repeat' first
    | with_reducible assumption
    | with_reducible apply keptA_mk

theorem State.openRefused_kept (s : State) (abort : ℕ) (h : Kept s0 s) :
    KeptA s0 (State.openRefused s abort) := by
  unfold State.openRefused; try dsimp only
  repeat' first
    | with_reducible assumption
    | with_reducible apply refuse_kept
    | with_reducible apply State.event_kept
    | with_reducible apply State.bump_kept
    | with_reducible apply keptA_refuse

theorem State.authFailed_kept (s : State) (h : Kept s0 s) :
    KeptA s0 (State.authFailed s) := by
  unfold State.authFailed; try dsimp only
  repeat' first
    | with_reducible assumption
    | with_reducible apply State.event_kept
    | with_reducible apply State.openRefused_kept
    | with_reducible exact List.prefix_rfl
    | with_reducible exact Nat.le_refl _
    | with_reducible exact fun h => h
    | with_reducible exact hostOk_of rfl rfl
    | with_reducible apply kept_ite
    | with_reducible apply keptA_ite
    | with_reducible intro _
    | with_reducible refine kept_mk ?_ ?_ ?_ ?_ ?_ ?_ ?_ ?_ ?_ ?_

theorem State.setRun_kept (s : State) (sid : ℕ) (key : ℕ) (r : Option WriteRun) (h : Kept s0 s) :
    Kept s0 (State.setRun s sid key r) := by
  unfold State.setRun; try dsimp only
  repeat' first
    | with_reducible assumption
    | with_reducible apply State.modSession_kept

theorem accept_kept (s : State) (h : Kept s0 s) :
    KeptA s0 (accept s) := by
  unfold accept; try dsimp only
  repeat' first
    | with_reducible assumption
    | with_reducible apply keptA_mk

theorem State.blobSegment_kept (s : State) (q : Req) (bar : Option ℕ) (act : State → Bytes → Answer)(hact : ∀ s y0, Kept s0 s → KeptA s0 (act s y0)) (h : Kept s0 s) :
    KeptA s0 (State.blobSegment s q bar act) := by
  unfold State.blobSegment; try dsimp only
  repeat' first
    | with_reducible assumption
    | with_reducible apply State.setRun_kept
    | with_reducible apply refuse_kept
    | with_reducible apply accept_kept
    | with_reducible apply hact
    | with_reducible apply kept_ite
    | with_reducible apply keptA_ite
    | with_reducible apply keptA_refuse
    | with_reducible apply keptA_accept
    | with_reducible intro _
    | split

theorem State.flowLost_kept (s : State) (f : Flow) (h : Kept s0 s) :
    Kept s0 (State.flowLost s f) := by
  unfold State.flowLost; try dsimp only
  repeat' first
    | with_reducible assumption
    | with_reducible apply State.event_kept
    | with_reducible exact List.prefix_rfl
    | with_reducible exact Nat.le_refl _
    | with_reducible exact fun h => h
    | with_reducible exact hostOk_of rfl rfl
    | with_reducible apply kept_ite
    | with_reducible intro _
    | split
    | with_reducible refine kept_mk ?_ ?_ ?_ ?_ ?_ ?_ ?_ ?_ ?_ ?_

theorem State.closeFlow_kept (s : State) (f : Flow) (h : Kept s0 s) :
    Kept s0 (State.closeFlow s f) := by
  unfold State.closeFlow; try dsimp only
  repeat' first
    | with_reducible assumption
    | with_reducible apply State.flowLost_kept
    | with_reducible exact List.prefix_rfl
    | with_reducible exact Nat.le_refl _
    | with_reducible exact fun h => h
    | with_reducible exact hostOk_of rfl rfl
    | with_reducible refine kept_mk ?_ ?_ ?_ ?_ ?_ ?_ ?_ ?_ ?_ ?_

theorem State.closeSession_kept (s : State) (id : ℕ) (cause : ℕ) (h : Kept s0 s) :
    Kept s0 (State.closeSession s id cause) := by
  unfold State.closeSession; try dsimp only
  repeat' first
    | with_reducible assumption
    | with_reducible apply State.closeFlow_kept
    | with_reducible apply State.event_kept
    | (rename_i t; exact hostOk_filter (g := fun _ => true) t rfl (.inr rfl))
    | with_reducible exact List.prefix_rfl
    | with_reducible exact Nat.le_refl _
    | with_reducible exact fun h => h
    | with_reducible exact hostOk_of rfl rfl
    | with_reducible apply kept_foldl
    | with_reducible intro _
    | with_reducible refine kept_mk ?_ ?_ ?_ ?_ ?_ ?_ ?_ ?_ ?_ ?_

theorem State.closeWith_kept (s : State) (f : Flow) (abort : ℕ) (h : Kept s0 s) :
    Kept s0 (State.closeWith s f abort) := by
  unfold State.closeWith; try dsimp only
  repeat' first
    | with_reducible assumption
    | with_reducible apply State.sendHost_kept
    | with_reducible apply State.closeFlow_kept

theorem State.executing_kept (s : State) (q : Req) (h : Kept s0 s) :
    Kept s0 (State.executing s q) := by
  unfold State.executing; try dsimp only
  repeat' first
    | with_reducible assumption
    | with_reducible apply State.touch_kept
    | with_reducible apply kept_ite
    | with_reducible intro _

theorem State.seqHeard_kept (s : State) (sid : ℕ) (addr : Bytes) (h : Kept s0 s) :
    Kept s0 (State.seqHeard s sid addr) := by
  unfold State.seqHeard; try dsimp only
  repeat' first
    | with_reducible assumption
    | with_reducible exact List.prefix_rfl
    | with_reducible exact Nat.le_refl _
    | with_reducible exact fun h => h
    | with_reducible exact hostOk_of rfl rfl
    | split
    | with_reducible refine kept_mk ?_ ?_ ?_ ?_ ?_ ?_ ?_ ?_ ?_ ?_

theorem State.hearing_kept (s : State) (q : Req) (h : Kept s0 s) :
    Kept s0 (State.hearing s q) := by
  unfold State.hearing; try dsimp only
  repeat' first
    | with_reducible assumption
    | with_reducible apply State.seqHeard_kept
    | with_reducible apply State.executing_kept
    | with_reducible apply State.rxFrame_kept

theorem State.putValue_kept (s : State) (key : ℕ) (v : Bytes) (persistent : Bool) (h : Kept s0 s) :
    Kept s0 (State.putValue s key v persistent) := by
  unfold State.putValue; try dsimp only
  repeat' first
    | with_reducible assumption
    | with_reducible exact List.prefix_rfl
    | with_reducible exact Nat.le_refl _
    | with_reducible exact fun h => h
    | with_reducible apply kept_ite
    | with_reducible intro _
    | with_reducible refine kept_mk ?_ ?_ ?_ ?_ ?_ ?_ ?_ ?_ ?_ ?_

theorem State.serve_kept (s : State) (q : Req) (op : ℕ) (free' : Bool) (stump : Bool) (act : State → Answer)(hact : ∀ s , Kept s0 s → KeptA s0 (act s )) (h : Kept s0 s) :
    Kept s0 (State.serve s q op free' stump act) := by
  unfold State.serve; try dsimp only
  repeat' first
    | with_reducible assumption
    | with_reducible apply State.rxFrame_kept
    | with_reducible apply State.hearing_kept
    | with_reducible apply State.sendHost_kept
    | with_reducible apply State.bump_kept
    | with_reducible apply Answer.finish_kept
    | with_reducible apply refuse_kept
    | with_reducible apply hact
    | with_reducible apply kept_ite
    | with_reducible apply keptA_ite
    | with_reducible apply keptA_refuse
    | with_reducible intro _
    | split

theorem State.serveWrite_kept (s : State) (q : Req) (index : ℕ) (sub : ℕ) (n : ℕ) (act : State → ℕ → Answer)(hact : ∀ s y0, Kept s0 s → KeptA s0 (act s y0)) (h : Kept s0 s) :
    Kept s0 (State.serveWrite s q index sub n act) := by
  unfold State.serveWrite; try dsimp only
  repeat' first
    | with_reducible assumption
    | with_reducible apply State.serve_kept
    | with_reducible apply refuse_kept
    | with_reducible apply hact
    | with_reducible apply kept_ite
    | with_reducible apply keptA_ite
    | with_reducible apply keptA_refuse
    | with_reducible intro _

theorem execAuthLockExpiry_kept (s : State) (h : Kept s0 s) :
    KeptR s0 (execAuthLockExpiry s) := by
  unfold execAuthLockExpiry; try dsimp only
  repeat' first
    | with_reducible assumption
    | with_reducible exact List.prefix_rfl
    | with_reducible exact Nat.le_refl _
    | with_reducible exact fun h => h
    | with_reducible exact hostOk_of rfl rfl
    | with_reducible apply kept_ite
    | with_reducible apply keptR_ite
    | with_reducible apply keptR_next
    | with_reducible intro _
    | split
    | with_reducible refine kept_mk ?_ ?_ ?_ ?_ ?_ ?_ ?_ ?_ ?_ ?_

theorem execFrameDiscarded_kept (dgram : Option Bytes) (corrected : ℕ) (uncorrectable : ℕ) (s : State) (h : Kept s0 s) :
    KeptR s0 (execFrameDiscarded dgram corrected uncorrectable s) := by
  unfold execFrameDiscarded; try dsimp only
  repeat' first
    | with_reducible assumption
    | with_reducible apply State.bump_kept
    | with_reducible apply State.rxFrame_kept
    | with_reducible exact List.prefix_rfl
    | with_reducible exact Nat.le_refl _
    | with_reducible exact fun h => h
    | with_reducible exact hostOk_of rfl rfl
    | with_reducible apply kept_ite
    | with_reducible apply keptR_ite
    | with_reducible apply keptR_next
    | with_reducible intro _
    | split
    | with_reducible refine kept_mk ?_ ?_ ?_ ?_ ?_ ?_ ?_ ?_ ?_ ?_

theorem execHostLinkDown_kept (s : State) (h : Kept s0 s) :
    KeptR s0 (execHostLinkDown s) := by
  unfold execHostLinkDown; try dsimp only
  repeat' first
    | with_reducible assumption
    | with_reducible apply State.event_kept
    | with_reducible exact List.prefix_rfl
    | with_reducible exact Nat.le_refl _
    | with_reducible exact fun h => h
    | with_reducible exact hostOk_of rfl rfl
    | with_reducible apply kept_ite
    | with_reducible apply keptR_ite
    | with_reducible apply keptR_next
    | with_reducible intro _
    | with_reducible refine kept_mk ?_ ?_ ?_ ?_ ?_ ?_ ?_ ?_ ?_ ?_

theorem execHostLinkUp_kept (s : State) (h : Kept s0 s) :
    KeptR s0 (execHostLinkUp s) := by
  unfold execHostLinkUp; try dsimp only
  repeat' first
    | with_reducible assumption
    | with_reducible apply State.event_kept
    | with_reducible exact List.prefix_rfl
    | with_reducible exact Nat.le_refl _
    | with_reducible exact fun h => h
    | with_reducible exact hostOk_of rfl rfl
    | with_reducible apply kept_ite
    | with_reducible apply keptR_ite
    | with_reducible apply keptR_next
    | with_reducible intro _
    | with_reducible refine kept_mk ?_ ?_ ?_ ?_ ?_ ?_ ?_ ?_ ?_ ?_

theorem execIcmpEchoRequest_kept (target : Bytes) (data : Bytes) (s : State) (h : Kept s0 s) :
    KeptR s0 (execIcmpEchoRequest target data s) := by
  unfold execIcmpEchoRequest; try dsimp only
  repeat' first
    | with_reducible assumption
    | with_reducible apply State.answerFrame_kept
    | with_reducible apply keptR_next

theorem execKeepalive_kept (q : Req) (s : State) (h : Kept s0 s) :
    KeptR s0 (execKeepalive q s) := by
  unfold execKeepalive; try dsimp only
  repeat' first
    | with_reducible assumption
    | with_reducible apply State.serve_kept
    | with_reducible apply keptR_next
    | with_reducible apply keptA_mk
    | with_reducible intro _

theorem execNeighbourRequest_kept (target : Bytes) (data : Bytes) (s : State) (h : Kept s0 s) :
    KeptR s0 (execNeighbourRequest target data s) := by
  unfold execNeighbourRequest; try dsimp only
  repeat' first
    | with_reducible assumption
    | with_reducible apply State.answerFrame_kept
    | with_reducible apply keptR_next

theorem execOperatorKey_kept (q : Req) (s : State) (h : Kept s0 s) :
    KeptR s0 (execOperatorKey q s) := by
  unfold execOperatorKey; try dsimp only
  repeat' first
    | with_reducible assumption
    | with_reducible apply State.serve_kept
    | with_reducible apply State.blobSegment_kept
    | with_reducible apply refuse_kept
    | with_reducible apply State.event_kept
    | with_reducible apply State.putValue_kept
    | with_reducible apply accept_kept
    | with_reducible apply State.closeSession_kept
    | with_reducible apply kept_ite
    | with_reducible apply keptR_ite
    | with_reducible apply keptA_ite
    | with_reducible apply keptR_next
    | with_reducible apply keptA_refuse
    | with_reducible apply keptA_accept
    | with_reducible apply kept_foldl
    | with_reducible intro _

theorem execSequenceEntryExpiry_kept (addr : Bytes) (s : State) (h : Kept s0 s) :
    KeptR s0 (execSequenceEntryExpiry addr s) := by
  unfold execSequenceEntryExpiry; try dsimp only
  repeat' first
    | with_reducible assumption
    | with_reducible exact List.prefix_rfl
    | with_reducible exact Nat.le_refl _
    | with_reducible exact fun h => h
    | with_reducible exact hostOk_of rfl rfl
    | with_reducible apply keptR_next
    | with_reducible refine kept_mk ?_ ?_ ?_ ?_ ?_ ?_ ?_ ?_ ?_ ?_

theorem execSessionChallenge_kept (q : Req) (s : State) (h : Kept s0 s) :
    KeptR s0 (execSessionChallenge q s) := by
  unfold execSessionChallenge; try dsimp only
  repeat' first
    | with_reducible assumption
    | with_reducible apply State.serve_kept
    | with_reducible apply refuse_kept
    | (rename_i t; exact hostOk_nonces t rfl rfl)
    | with_reducible exact List.prefix_rfl
    | with_reducible exact Nat.le_refl _
    | with_reducible exact fun h => h
    | with_reducible exact hostOk_of rfl rfl
    | with_reducible apply kept_ite
    | with_reducible apply keptR_ite
    | with_reducible apply keptA_ite
    | with_reducible apply keptR_next
    | with_reducible apply keptA_refuse
    | with_reducible apply keptA_mk
    | with_reducible intro _
    | with_reducible refine kept_mk ?_ ?_ ?_ ?_ ?_ ?_ ?_ ?_ ?_ ?_

theorem execSessionClose_kept (q : Req) (s : State) (h : Kept s0 s) :
    KeptR s0 (execSessionClose q s) := by
  unfold execSessionClose; try dsimp only
  repeat' first
    | with_reducible assumption
    | with_reducible apply State.serve_kept
    | with_reducible apply accept_kept
    | with_reducible apply State.closeSession_kept
    | with_reducible apply keptR_next
    | with_reducible apply keptA_accept
    | with_reducible intro _

theorem execSessionIdleTimeout_kept (id : ℕ) (s : State) (h : Kept s0 s) :
    KeptR s0 (execSessionIdleTimeout id s) := by
  unfold execSessionIdleTimeout; try dsimp only
  repeat' first
    | with_reducible assumption
    | with_reducible apply State.closeSession_kept
    | with_reducible apply kept_ite
    | with_reducible apply keptR_ite
    | with_reducible apply keptR_next
    | with_reducible intro _
    | split

theorem execSessionOpen_kept (q : Req) (s : State) (h : Kept s0 s) :
    KeptR s0 (execSessionOpen q s) := by
  unfold execSessionOpen; try dsimp only
  repeat' first
    | with_reducible assumption
    | with_reducible apply State.serve_kept
    | with_reducible apply State.openRefused_kept
    | with_reducible apply State.event_kept
    | with_reducible apply State.authFailed_kept
    | (rename_i t; exact hostOk_open t ‹¬4 ≤ _› rfl rfl)
    | (rename_i t; exact hostOk_spent t rfl rfl)
    | with_reducible exact List.prefix_rfl
    | with_reducible exact Nat.le_refl _
    | with_reducible exact fun h => h
    | with_reducible exact hostOk_of rfl rfl
    | with_reducible apply kept_ite
    | with_reducible apply keptR_ite
    | with_reducible apply keptA_ite
    | with_reducible apply keptR_next
    | with_reducible apply keptA_mk
    | with_reducible intro _
    | split
    | with_reducible refine kept_mk ?_ ?_ ?_ ?_ ?_ ?_ ?_ ?_ ?_ ?_

theorem execUndefinedOmOp_kept (q : Req) (op : ℕ) (s : State) (h : Kept s0 s) :
    KeptR s0 (execUndefinedOmOp q op s) := by
  unfold execUndefinedOmOp; try dsimp only
  repeat' first
    | with_reducible assumption
    | with_reducible apply State.serve_kept
    | with_reducible apply refuse_kept
    | with_reducible apply kept_ite
    | with_reducible apply keptR_ite
    | with_reducible apply keptA_ite
    | with_reducible apply keptR_next
    | with_reducible apply keptA_refuse
    | with_reducible intro _

end Sys2Proof.Machine
end

