-- ==== Sys2Proof/Laws/KeptTime.lean ====
section
/-! SUPPORT. What the operations of Machine/Time.lean keep. -/

namespace Sys2Proof.Machine

variable {s0 : State}

theorem State.sendMark_kept (s : State) (n : ℕ) (h : Kept s0 s) :
    Kept s0 (State.sendMark s n) := by
  unfold State.sendMark; try dsimp only
  repeat' first
    | with_reducible assumption
    | with_reducible apply State.pumpPort_kept
    | with_reducible apply State.emit_kept
    | with_reducible apply State.modPort_kept

theorem State.sendMarks_kept (s : State) (h : Kept s0 s) :
    Kept s0 (State.sendMarks s) := by
  unfold State.sendMarks; try dsimp only
  repeat' first
    | with_reducible assumption
    | with_reducible apply State.sendMark_kept
    | with_reducible apply State.emit_kept
    | with_reducible exact List.prefix_rfl
    | with_reducible exact Nat.le_refl _
    | with_reducible exact fun h => h
    | with_reducible exact timeOk_of rfl rfl rfl
    | with_reducible apply kept_foldl
    | with_reducible intro _
    | with_reducible refine kept_mk ?_ ?_ ?_ ?_ ?_ ?_ ?_ ?_ ?_ ?_

theorem State.advance_kept (s : State) (n : ℕ) (h : Kept s0 s) :
    Kept s0 (State.advance s n) := by
  unfold State.advance; try dsimp only
  repeat' first
    | with_reducible assumption
    | with_reducible apply State.sendMarks_kept
    | exact timeOk_pass _ (‹TimeOk _›).1 ‹TimeOk _›
    | exact timeOk_pass _ (by omega) ‹TimeOk _›
    | with_reducible exact List.prefix_rfl
    | with_reducible exact Nat.le_refl _
    | with_reducible exact fun h => h
    | with_reducible apply kept_ite
    | with_reducible intro _
    | with_reducible refine kept_mk ?_ ?_ ?_ ?_ ?_ ?_ ?_ ?_ ?_ ?_

theorem State.hold_kept (s : State) (h : Kept s0 s) :
    Kept s0 (State.hold s) := by
  unfold State.hold; try dsimp only
  repeat' first
    | with_reducible assumption
    | with_reducible apply State.event_kept
    | exact fun t => ⟨t.1, t.2.2, t.2.2⟩
    | with_reducible exact List.prefix_rfl
    | with_reducible exact Nat.le_refl _
    | with_reducible exact fun h => h
    | with_reducible exact timeOk_of rfl rfl rfl
    | with_reducible refine kept_mk ?_ ?_ ?_ ?_ ?_ ?_ ?_ ?_ ?_ ?_

theorem State.lock_kept (s : State) (h : Kept s0 s) :
    Kept s0 (State.lock s) := by
  unfold State.lock; try dsimp only
  repeat' first
    | with_reducible assumption
    | with_reducible apply State.event_kept
    | exact fun t => ⟨t.1, t.2.1, t.2.1⟩
    | with_reducible exact List.prefix_rfl
    | with_reducible exact Nat.le_refl _
    | with_reducible exact fun h => h
    | with_reducible exact timeOk_of rfl rfl rfl
    | with_reducible refine kept_mk ?_ ?_ ?_ ?_ ?_ ?_ ?_ ?_ ?_ ?_

theorem State.notePeer_kept (s : State) (port : ℕ) (offset : ℤ) (h : Kept s0 s) :
    Kept s0 (State.notePeer s port offset) := by
  unfold State.notePeer; try dsimp only
  repeat' first
    | with_reducible assumption
    | with_reducible apply State.event_kept
    | with_reducible exact List.prefix_rfl
    | with_reducible exact Nat.le_refl _
    | with_reducible exact fun h => h
    | with_reducible exact timeOk_of rfl rfl rfl
    | with_reducible apply kept_ite
    | with_reducible intro _
    | with_reducible refine kept_mk ?_ ?_ ?_ ?_ ?_ ?_ ?_ ?_ ?_ ?_

theorem State.restartAcquisition_kept (s : State) (domain : Bool) (h : Kept s0 s) :
    Kept s0 (State.restartAcquisition s domain) := by
  unfold State.restartAcquisition; try dsimp only
  repeat' first
    | with_reducible assumption
    | (refine timeOk_of ?_ ?_ ?_ ‹TimeOk _› <;> split <;> rfl)
    | with_reducible exact List.prefix_rfl
    | with_reducible exact Nat.le_refl _
    | with_reducible exact fun h => h
    | with_reducible exact timeOk_of rfl rfl rfl
    | with_reducible apply kept_ite
    | with_reducible intro _
    | with_reducible refine kept_mk ?_ ?_ ?_ ?_ ?_ ?_ ?_ ?_ ?_ ?_

theorem State.tick_kept (s : State) (h : Kept s0 s) :
    Kept s0 (State.tick s) := by
  unfold State.tick; try dsimp only
  repeat' first
    | with_reducible assumption
    | with_reducible apply State.advance_kept

theorem State.timeStep_kept (s : State) (h : Kept s0 s) :
    Kept s0 (State.timeStep s) := by
  unfold State.timeStep; try dsimp only
  repeat' first
    | with_reducible assumption
    | with_reducible apply State.fault_kept
    | with_reducible exact List.prefix_rfl
    | with_reducible exact Nat.le_refl _
    | with_reducible exact fun h => h
    | with_reducible exact timeOk_of rfl rfl rfl
    | with_reducible refine kept_mk ?_ ?_ ?_ ?_ ?_ ?_ ?_ ?_ ?_ ?_

theorem State.track_kept (s : State) (offset : ℤ) (h : Kept s0 s) :
    Kept s0 (State.track s offset) := by
  unfold State.track; try dsimp only
  repeat' first
    | with_reducible assumption
    | with_reducible apply State.lock_kept
    | (rename_i t; exact timeOk_steer t _ _ rfl rfl (.inl rfl))
    | (rename_i t; exact timeOk_steer t _ _ rfl rfl (.inr rfl))
    | with_reducible exact List.prefix_rfl
    | with_reducible exact Nat.le_refl _
    | with_reducible exact fun h => h
    | with_reducible exact timeOk_of rfl rfl rfl
    | with_reducible apply kept_ite
    | with_reducible intro _
    | split
    | with_reducible refine kept_mk ?_ ?_ ?_ ?_ ?_ ?_ ?_ ?_ ?_ ?_

theorem State.timeUpdate_kept (s : State) (offset : ℤ) (interval : ℕ) (h : Kept s0 s) :
    Kept s0 (State.timeUpdate s offset interval) := by
  unfold State.timeUpdate; try dsimp only
  repeat' first
    | with_reducible assumption
    | with_reducible apply State.timeStep_kept
    | with_reducible apply State.track_kept
    | (rename_i t; exact timeOk_counter t (by show min (counterEnd - 1) _ < counterEnd; unfold counterEnd; omega) rfl rfl)
    | with_reducible exact List.prefix_rfl
    | with_reducible exact Nat.le_refl _
    | with_reducible exact fun h => h
    | with_reducible exact timeOk_of rfl rfl rfl
    | with_reducible apply kept_ite
    | with_reducible intro _
    | split
    | with_reducible refine kept_mk ?_ ?_ ?_ ?_ ?_ ?_ ?_ ?_ ?_ ?_

theorem execAnnounceMessage_kept (sender : ℕ) (domain : ℕ) (identity : ℕ) (priority1 : ℕ) (clockClass : ℕ) (accuracy : ℕ) (variance : ℕ) (priority2 : ℕ) (stepsRemoved : ℕ) (logInterval : ℤ) (s : State) (h : Kept s0 s) :
    KeptR s0 (execAnnounceMessage sender domain identity priority1 clockClass accuracy variance priority2 stepsRemoved logInterval s) := by
  unfold execAnnounceMessage; try dsimp only
  repeat' first
    | with_reducible assumption
    | with_reducible apply State.rxFrame_kept
    | (refine timeOk_of ?_ ?_ ?_ ‹TimeOk _› <;> split <;> rfl)
    | with_reducible exact List.prefix_rfl
    | with_reducible exact Nat.le_refl _
    | with_reducible exact fun h => h
    | with_reducible exact timeOk_of rfl rfl rfl
    | with_reducible apply kept_ite
    | with_reducible apply keptR_ite
    | with_reducible apply keptR_next
    | with_reducible intro _
    | with_reducible refine kept_mk ?_ ?_ ?_ ?_ ?_ ?_ ?_ ?_ ?_ ?_

theorem execBeatBoundary_kept (s : State) (h : Kept s0 s) :
    KeptR s0 (execBeatBoundary s) := by
  unfold execBeatBoundary; try dsimp only
  repeat' first
    | with_reducible assumption
    | with_reducible apply State.advance_kept
    | with_reducible apply kept_ite
    | with_reducible apply keptR_ite
    | with_reducible apply keptR_next
    | with_reducible intro _

theorem execBeatMark_kept (port : ℕ) (f : SkidFrame) (s : State) (h : Kept s0 s) :
    KeptR s0 (execBeatMark port f s) := by
  unfold execBeatMark; try dsimp only
  repeat' first
    | with_reducible assumption
    | with_reducible apply State.modPort_kept
    | with_reducible apply State.notePeer_kept
    | with_reducible apply State.timeUpdate_kept
    | with_reducible apply kept_ite
    | with_reducible apply keptR_ite
    | with_reducible apply keptR_next
    | with_reducible intro _

theorem execBeatOverflow_kept (s : State) (h : Kept s0 s) :
    KeptR s0 (execBeatOverflow s) := by
  unfold execBeatOverflow; try dsimp only
  repeat' first
    | with_reducible assumption
    | with_reducible apply State.fault_kept
    | with_reducible apply kept_ite
    | with_reducible apply keptR_ite
    | with_reducible apply keptR_next
    | with_reducible intro _

theorem execHoldoverExpired_kept (s : State) (h : Kept s0 s) :
    KeptR s0 (execHoldoverExpired s) := by
  unfold execHoldoverExpired; try dsimp only
  repeat' first
    | with_reducible assumption
    | with_reducible apply State.fault_kept
    | with_reducible exact List.prefix_rfl
    | with_reducible exact Nat.le_refl _
    | with_reducible exact fun h => h
    | with_reducible exact timeOk_of rfl rfl rfl
    | with_reducible apply kept_ite
    | with_reducible apply keptR_ite
    | with_reducible apply keptR_next
    | with_reducible intro _
    | with_reducible refine kept_mk ?_ ?_ ?_ ?_ ?_ ?_ ?_ ?_ ?_ ?_

theorem execSourceLost_kept (s : State) (h : Kept s0 s) :
    KeptR s0 (execSourceLost s) := by
  unfold execSourceLost; try dsimp only
  repeat' first
    | with_reducible assumption
    | with_reducible apply State.hold_kept
    | with_reducible exact List.prefix_rfl
    | with_reducible exact Nat.le_refl _
    | with_reducible exact fun h => h
    | with_reducible exact timeOk_of rfl rfl rfl
    | with_reducible apply kept_ite
    | with_reducible apply keptR_ite
    | with_reducible apply keptR_next
    | with_reducible intro _
    | split
    | with_reducible refine kept_mk ?_ ?_ ?_ ?_ ?_ ?_ ?_ ?_ ?_ ?_

theorem execSourceUpdate_kept (offset : ℤ) (logInterval : ℤ) (s : State) (h : Kept s0 s) :
    KeptR s0 (execSourceUpdate offset logInterval s) := by
  unfold execSourceUpdate; try dsimp only
  repeat' first
    | with_reducible assumption
    | with_reducible apply State.timeUpdate_kept
    | with_reducible apply kept_ite
    | with_reducible apply keptR_ite
    | with_reducible apply keptR_next
    | with_reducible intro _

end Sys2Proof.Machine
end

