-- ==== Sys2Proof/Laws/KeptGroups.lean ====
section
/-! SUPPORT. What the operations of Machine/Groups.lean keep. -/

namespace Sys2Proof.Machine

variable {s0 : State}

theorem State.modInst_kept (s : State) (i : ℕ) (f : ClkInst → ClkInst) (h : Kept s0 s) :
    Kept s0 (State.modInst s i f) := by
  unfold State.modInst; try dsimp only
  repeat' first
    | with_reducible assumption
    | with_reducible exact List.prefix_rfl
    | with_reducible exact Nat.le_refl _
    | with_reducible exact fun h => h
    | with_reducible refine kept_mk ?_ ?_ ?_ ?_ ?_ ?_ ?_ ?_ ?_ ?_

theorem State.beginSwitch_kept (s : State) (i : ℕ) (source : ℕ) (h : Kept s0 s) :
    Kept s0 (State.beginSwitch s i source) := by
  unfold State.beginSwitch; try dsimp only
  repeat' first
    | with_reducible assumption
    | with_reducible apply State.modInst_kept

theorem State.applyEffect_kept (s : State) (a : PendApply) (changed : List ℕ) (h : Kept s0 s) :
    Kept s0 (State.applyEffect s a changed) := by
  unfold State.applyEffect; try dsimp only
  repeat' first
    | with_reducible assumption
    | with_reducible apply State.restartAcquisition_kept
    | with_reducible apply State.event_kept
    | with_reducible apply State.sendHost_kept
    | with_reducible apply State.beginSwitch_kept
    | with_reducible exact List.prefix_rfl
    | with_reducible exact Nat.le_refl _
    | with_reducible exact fun h => h
    | with_reducible exact hostOk_of rfl rfl
    | with_reducible apply kept_ite
    | with_reducible apply kept_foldl
    | with_reducible intro _
    | split
    | with_reducible refine kept_mk ?_ ?_ ?_ ?_ ?_ ?_ ?_ ?_ ?_ ?_

theorem State.markDirty_kept (s : State) (keys : List ℕ) (h : Kept s0 s) :
    Kept s0 (State.markDirty s keys) := by
  unfold State.markDirty; try dsimp only
  repeat' first
    | with_reducible assumption
    | with_reducible exact List.prefix_rfl
    | with_reducible exact Nat.le_refl _
    | with_reducible exact fun h => h
    | with_reducible refine kept_mk ?_ ?_ ?_ ?_ ?_ ?_ ?_ ?_ ?_ ?_

theorem State.putActive_kept (s : State) (a : PendApply) (h : Kept s0 s) :
    Kept s0 (State.putActive s a) := by
  unfold State.putActive; try dsimp only
  repeat' first
    | with_reducible assumption
    | with_reducible apply State.markDirty_kept
    | with_reducible exact List.prefix_rfl
    | with_reducible exact Nat.le_refl _
    | with_reducible exact fun h => h
    | with_reducible refine kept_mk ?_ ?_ ?_ ?_ ?_ ?_ ?_ ?_ ?_ ?_

theorem State.safePoint_kept (s : State) (g : ℕ) (h : Kept s0 s) :
    Kept s0 (State.safePoint s g) := by
  unfold State.safePoint; try dsimp only
  repeat' first
    | with_reducible assumption
    | with_reducible apply State.event_kept
    | with_reducible apply State.applyEffect_kept
    | with_reducible apply State.putActive_kept
    | with_reducible exact List.prefix_rfl
    | with_reducible exact Nat.le_refl _
    | with_reducible exact fun h => h
    | with_reducible apply kept_ite
    | with_reducible intro _
    | split
    | with_reducible refine kept_mk ?_ ?_ ?_ ?_ ?_ ?_ ?_ ?_ ?_ ?_

end Sys2Proof.Machine
end

