-- ==== Sys2Proof/Laws/KeptSyncCmds.lean ====
section
/-! SUPPORT. What the operations of Machine/SyncCmds.lean keep. -/

namespace Sys2Proof.Machine

variable {s0 : State}

theorem State.loadRetire_kept (s : State) (cl : ℕ) (l : RegLoad) (write : Cluster → Cluster) (h : Kept s0 s) :
    Kept s0 (State.loadRetire s cl l write) := by
  unfold State.loadRetire; try dsimp only
  repeat' first
    | with_reducible assumption
    | with_reducible apply State.settle_kept
    | with_reducible apply State.modCl_kept

theorem loadBound_kept (cl : ℕ) (l : RegLoad) (p : Bytes × State) (h : Kept s0 p.2) : Kept s0 (loadBound cl l p) := by
  unfold loadBound; exact State.loadRetire_kept _ _ _ _ h

theorem State.boundBack_kept (s : State) (cl : ℕ) (checks : List MemCheck) (h : Kept s0 s) :
    Kept s0 (State.boundBack s cl checks) := by
  unfold State.boundBack; try dsimp only
  repeat' first
    | with_reducible assumption
    | with_reducible apply State.checked_kept
    | with_reducible apply loadBound_kept
    | with_reducible apply State.localRead_kept
    | with_reducible apply kept_ite
    | with_reducible refine kept_of_snd (by assumption) ?_
    | with_reducible intro _
    | split

theorem State.loadIssue_kept (s : State) (cl : ℕ) (mask : Bool) (f : Fetched) (h : Kept s0 s) :
    Kept s0 (State.loadIssue s cl mask f) := by
  unfold State.loadIssue; try dsimp only
  repeat' first
    | with_reducible assumption
    | with_reducible apply State.modCl_kept
    | with_reducible apply State.place_kept
    | with_reducible refine kept_of_snd (by assumption) ?_

theorem loadMask_kept (cl : ℕ) (l : RegLoad) (p : Bytes × State) (h : Kept s0 p.2) : Kept s0 (loadMask cl l p) := by
  unfold loadMask; exact State.loadRetire_kept _ _ _ _ h

theorem State.maskBack_kept (s : State) (cl : ℕ) (checks : List MemCheck) (h : Kept s0 s) :
    Kept s0 (State.maskBack s cl checks) := by
  unfold State.maskBack; try dsimp only
  repeat' first
    | with_reducible assumption
    | with_reducible apply State.checked_kept
    | with_reducible apply loadMask_kept
    | with_reducible apply State.localRead_kept
    | with_reducible apply kept_ite
    | with_reducible refine kept_of_snd (by assumption) ?_
    | with_reducible intro _
    | split

theorem State.registerWait_kept (s : State) (cl : ℕ) (id : ℕ) (target : ℕ) (h : Kept s0 s) :
    Kept s0 (State.registerWait s cl id target) := by
  unfold State.registerWait; try dsimp only
  repeat' first
    | with_reducible assumption
    | with_reducible apply State.modCl_kept
    | with_reducible exact List.prefix_rfl
    | with_reducible exact Nat.le_refl _
    | with_reducible exact fun h => h
    | with_reducible exact syncOk_of rfl
    | with_reducible refine kept_mk ?_ ?_ ?_ ?_ ?_ ?_ ?_ ?_ ?_ ?_

theorem boundCommand_kept (sel : ℕ → Bool) (act : State → Fetched → State) (cl : ℕ) (s : State)(hact : ∀ s y0, Kept s0 s → Kept s0 (act s y0)) (h : Kept s0 s) :
    Kept s0 (boundCommand sel act cl s) := by
  unfold boundCommand; try dsimp only
  repeat' first
    | with_reducible assumption
    | with_reducible apply State.issue_kept
    | with_reducible apply hact
    | with_reducible intro _

theorem execBeatWait_kept (cl : ℕ) (s : State) (h : Kept s0 s) :
    KeptR s0 (execBeatWait cl s) := by
  unfold execBeatWait; try dsimp only
  repeat' first
    | with_reducible assumption
    | with_reducible apply State.issue_kept
    | with_reducible apply State.modCl_kept
    | with_reducible apply kept_ite
    | with_reducible apply keptR_ite
    | with_reducible apply keptR_next
    | with_reducible intro _

theorem execBeatWaitReached_kept (cl : ℕ) (s : State) (h : Kept s0 s) :
    KeptR s0 (execBeatWaitReached cl s) := by
  unfold execBeatWaitReached; try dsimp only
  repeat' first
    | with_reducible assumption
    | with_reducible apply State.settle_kept
    | with_reducible apply State.modCl_kept
    | with_reducible apply kept_ite
    | with_reducible apply keptR_ite
    | with_reducible apply keptR_next
    | with_reducible intro _
    | split

theorem execBoundLoadDerived_kept (cl : ℕ) (s : State) (h : Kept s0 s) :
    KeptR s0 (execBoundLoadDerived cl s) := by
  unfold execBoundLoadDerived; try dsimp only
  repeat' first
    | with_reducible assumption
    | with_reducible apply boundCommand_kept
    | with_reducible apply State.modCl_kept
    | with_reducible apply keptR_next
    | with_reducible intro _

theorem execBoundLoadImmediate_kept (cl : ℕ) (s : State) (h : Kept s0 s) :
    KeptR s0 (execBoundLoadImmediate cl s) := by
  unfold execBoundLoadImmediate; try dsimp only
  repeat' first
    | with_reducible assumption
    | with_reducible apply boundCommand_kept
    | with_reducible apply State.modCl_kept
    | with_reducible apply keptR_next
    | with_reducible intro _

theorem execBoundLoadMemory_kept (cl : ℕ) (back : Option (List MemCheck)) (s : State) (h : Kept s0 s) :
    KeptR s0 (execBoundLoadMemory cl back s) := by
  unfold execBoundLoadMemory; try dsimp only
  repeat' first
    | with_reducible assumption
    | with_reducible apply boundCommand_kept
    | with_reducible apply State.loadIssue_kept
    | with_reducible apply State.boundBack_kept
    | with_reducible apply keptR_next
    | with_reducible intro _
    | split

theorem execMaskBitmap_kept (cl : ℕ) (back : Option (List MemCheck)) (s : State) (h : Kept s0 s) :
    KeptR s0 (execMaskBitmap cl back s) := by
  unfold execMaskBitmap; try dsimp only
  repeat' first
    | with_reducible assumption
    | with_reducible apply State.issue_kept
    | with_reducible apply State.loadIssue_kept
    | with_reducible apply State.maskBack_kept
    | with_reducible apply kept_ite
    | with_reducible apply keptR_ite
    | with_reducible apply keptR_next
    | with_reducible intro _
    | split

theorem execMaskRectangle_kept (cl : ℕ) (s : State) (h : Kept s0 s) :
    KeptR s0 (execMaskRectangle cl s) := by
  unfold execMaskRectangle; try dsimp only
  repeat' first
    | with_reducible assumption
    | with_reducible apply State.issue_kept
    | with_reducible apply State.modCl_kept
    | with_reducible apply keptR_next
    | with_reducible intro _

theorem execSyncSignal_kept (cl : ℕ) (s : State) (h : Kept s0 s) :
    KeptR s0 (execSyncSignal cl s) := by
  unfold execSyncSignal; try dsimp only
  repeat' first
    | with_reducible assumption
    | with_reducible apply State.issue_kept
    | with_reducible apply State.modCl_kept
    | with_reducible apply State.place_kept
    | with_reducible apply keptR_next
    | with_reducible refine kept_of_snd (by assumption) ?_
    | with_reducible intro _

theorem execSyncSignalArrival_kept (n : ℕ) (s : State) (h : Kept s0 s) :
    KeptR s0 (execSyncSignalArrival n s) := by
  unfold execSyncSignalArrival; try dsimp only
  repeat' first
    | with_reducible assumption
    | with_reducible apply State.arriveSignal_kept
    | with_reducible exact List.prefix_rfl
    | with_reducible exact Nat.le_refl _
    | with_reducible exact fun h => h
    | with_reducible exact syncOk_of rfl
    | with_reducible apply kept_ite
    | with_reducible apply keptR_ite
    | with_reducible apply keptR_next
    | with_reducible refine kept_of_some (by assumption) ?_
    | with_reducible intro _
    | split
    | with_reducible refine kept_mk ?_ ?_ ?_ ?_ ?_ ?_ ?_ ?_ ?_ ?_

theorem execSyncWait_kept (cl : ℕ) (s : State) (h : Kept s0 s) :
    KeptR s0 (execSyncWait cl s) := by
  unfold execSyncWait; try dsimp only
  repeat' first
    | with_reducible assumption
    | with_reducible apply State.issue_kept
    | with_reducible apply State.registerWait_kept
    | with_reducible apply keptR_next
    | with_reducible intro _

theorem execSyncWaitSatisfied_kept (cl : ℕ) (s : State) (h : Kept s0 s) :
    KeptR s0 (execSyncWaitSatisfied cl s) := by
  unfold execSyncWaitSatisfied; try dsimp only
  repeat' first
    | with_reducible assumption
    | with_reducible apply State.settle_kept
    | with_reducible apply State.modCl_kept
    | with_reducible exact List.prefix_rfl
    | with_reducible exact Nat.le_refl _
    | with_reducible exact fun h => h
    | with_reducible exact syncOk_of rfl
    | with_reducible apply kept_ite
    | with_reducible apply keptR_ite
    | with_reducible apply keptR_next
    | with_reducible intro _
    | split
    | with_reducible refine kept_mk ?_ ?_ ?_ ?_ ?_ ?_ ?_ ?_ ?_ ?_

end Sys2Proof.Machine
end

