-- ==== Sys2Proof/Laws/KeptUpdate.lean ====
section
/-! SUPPORT. What the operations of Machine/Update.lean keep. -/

namespace Sys2Proof.Machine

variable {s0 : State}

theorem State.setCache_kept (s : State) (m : ℕ) (c : List CacheBlock) (h : Kept s0 s) :
    Kept s0 (State.setCache s m c) := by
  unfold State.setCache; try dsimp only
  repeat' first
    | with_reducible assumption
    | with_reducible exact List.prefix_rfl
    | with_reducible exact Nat.le_refl _
    | with_reducible exact fun h => h
    | with_reducible refine kept_mk ?_ ?_ ?_ ?_ ?_ ?_ ?_ ?_ ?_ ?_

/-- Writing blocks back keeps the canonical form. -/
theorem writeBack_wf {mem : List (ℕ × BitVec 8)} (bs : List CacheBlock) (w : Memory.wf mem = true) : Memory.wf (writeBack mem bs) = true :=
  foldl_wf _ _ _ (fun _ _ w => foldl_wf _ _ _ (fun _ _ w => writeBytes_wf _ _ _ w) w) w

theorem State.touchBlock_kept (s : State) (m b : ℕ) (h : Kept s0 s) : Kept s0 (s.touchBlock m b) := by
  unfold State.touchBlock; dsimp only
  split
  · exact State.setCache_kept _ _ _ h
  · have h1 := State.setCache_kept _ m ({ block := b } :: (s.cacheOf m).take 4095) (State.bump_kept _ (kGaeMisses m) 1 (State.noteRead_kept s (2048 * b) 2048 h))
    exact kept_mem h1 fun w => writeBack_wf _ w

theorem State.setElem_kept (s : State) (m : ℕ) (a : ℕ) (v : ℕ) (h : Kept s0 s) :
    Kept s0 (State.setElem s m a v) := by
  unfold State.setElem; try dsimp only
  repeat' first
    | with_reducible assumption
    | with_reducible apply State.setCache_kept
    | with_reducible apply kept_ite
    | with_reducible intro _

theorem State.placeRow_kept (s : State) (d : Bytes) (m : Msg) (into : ℕ) (h : Kept s0 s) :
    Kept s0 (State.placeRow s d m into) := by
  unfold State.placeRow; try dsimp only
  repeat' first
    | with_reducible assumption
    | with_reducible apply State.touchBlock_kept
    | with_reducible apply State.setElem_kept
    | with_reducible apply State.bump_kept
    | with_reducible apply State.addCounts_kept
    | with_reducible apply State.addHist_kept
    | with_reducible exact List.prefix_rfl
    | with_reducible exact Nat.le_refl _
    | with_reducible exact fun h => h
    | with_reducible apply kept_ite
    | with_reducible apply kept_foldl
    | with_reducible intro _
    | split
    | with_reducible refine kept_mk ?_ ?_ ?_ ?_ ?_ ?_ ?_ ?_ ?_ ?_

theorem State.addHeld_kept (s : State) (d : Bytes) (m : Msg) (into : ℕ) (h : Kept s0 s) :
    Kept s0 (State.addHeld s d m into) := by
  unfold State.addHeld; try dsimp only
  repeat' first
    | with_reducible assumption
    | with_reducible apply State.eventOnce_kept
    | with_reducible apply State.bump_kept
    | with_reducible apply State.placeRow_kept

theorem State.applyNonFinite_kept (s : State) (d : Bytes) (k : ℕ) (n : ℕ) (h : Kept s0 s) :
    Kept s0 (State.applyNonFinite s d k n) := by
  unfold State.applyNonFinite; try dsimp only
  repeat' first
    | with_reducible assumption
    | with_reducible apply State.raiseFlag_kept
    | with_reducible apply State.tallyCounts_kept
    | with_reducible apply kept_ite
    | with_reducible intro _

theorem State.noteGrad_kept (s : State) (i : ℕ) (d : Bytes) (h : Kept s0 s) :
    Kept s0 (State.noteGrad s i d) := by
  unfold State.noteGrad; try dsimp only
  repeat' first
    | with_reducible assumption
    | with_reducible apply State.noteRead_kept
    | with_reducible apply kept_foldl
    | with_reducible intro _

theorem State.notePass_kept (s : State) (i : ℕ) (d : Bytes) (apply : Bool) (h : Kept s0 s) :
    Kept s0 (State.notePass s i d apply) := by
  unfold State.notePass; try dsimp only
  repeat' first
    | with_reducible assumption
    | with_reducible apply State.noteRead_kept
    | with_reducible apply State.noteGrad_kept
    | with_reducible apply kept_ite
    | with_reducible intro _
    | split

theorem State.noteWork_kept (s : State) (d : Bytes) (step : ℕ) (w : Work) (h : Kept s0 s) :
    Kept s0 (State.noteWork s d step w) := by
  unfold State.noteWork; try dsimp only
  repeat' first
    | with_reducible assumption
    | with_reducible apply State.bump_kept
    | with_reducible apply State.addCounts_kept

theorem State.applyOne_kept (s : State) (k : ℕ) (i : ℕ) (d : Bytes) (clip : ℚ) (h : Kept s0 s) :
    Kept s0 (State.applyOne s k i d clip) := by
  unfold State.applyOne; try dsimp only
  repeat' first
    | with_reducible assumption
    | with_reducible apply State.notePass_kept
    | with_reducible apply State.toHbm_kept
    | with_reducible apply State.noteWork_kept
    | with_reducible apply State.applyNonFinite_kept
    | with_reducible apply State.addHist_kept
    | with_reducible apply State.addCounts_kept
    | with_reducible apply State.eventOnce_kept
    | with_reducible apply State.bump_kept
    | with_reducible apply kept_ite
    | with_reducible apply kept_foldl
    | with_reducible intro _
    | split

theorem State.finishDesc_kept (s : State) (k : ℕ) (i : ℕ) (d : Bytes) (h : Kept s0 s) :
    Kept s0 (State.finishDesc s k i d) := by
  unfold State.finishDesc; try dsimp only
  repeat' first
    | with_reducible assumption
    | with_reducible apply State.setCache_kept
    | with_reducible apply State.signal_kept
    | with_reducible exact List.prefix_rfl
    | with_reducible exact Nat.le_refl _
    | with_reducible exact fun h => h
    | with_reducible apply kept_ite
    | exact fun w => clearRange_wf _ _ _ w
    | exact clearRange_wf _ _ _ ‹_›
    | with_reducible intro _
    | with_reducible refine kept_mk ?_ ?_ ?_ ?_ ?_ ?_ ?_ ?_ ?_ ?_

theorem State.flushCaches_kept (s : State) (h : Kept s0 s) : Kept s0 s.flushCaches := by
  unfold State.flushCaches
  exact kept_mk h List.prefix_rfl (Nat.le_refl _) (fun w => foldl_wf _ _ _ (fun m e w => writeBack_wf _ w) w) id id id id id id

theorem State.staleRow_kept (s : State) (d : Bytes) (m : Msg) (acc : ℕ) (h : Kept s0 s) :
    Kept s0 (State.staleRow s d m acc) := by
  unfold State.staleRow; try dsimp only
  repeat' first
    | with_reducible assumption
    | with_reducible apply State.eventOnce_kept
    | with_reducible apply State.bump_kept
    | with_reducible apply State.addHeld_kept
    | with_reducible exact List.prefix_rfl
    | with_reducible exact Nat.le_refl _
    | with_reducible exact fun h => h
    | with_reducible apply kept_ite
    | with_reducible intro _
    | split
    | with_reducible refine kept_mk ?_ ?_ ?_ ?_ ?_ ?_ ?_ ?_ ?_ ?_

theorem State.gradientRow_kept (s : State) (m : Msg) (h : Kept s0 s) :
    KeptO s0 (State.gradientRow s m) := by
  unfold State.gradientRow; try dsimp only
  repeat' first
    | with_reducible assumption
    | with_reducible apply State.fault_kept
    | with_reducible apply State.staleRow_kept
    | with_reducible apply State.placeRow_kept
    | with_reducible exact List.prefix_rfl
    | with_reducible exact Nat.le_refl _
    | with_reducible exact fun h => h
    | with_reducible apply kept_ite
    | with_reducible apply keptO_ite
    | with_reducible apply keptO_some
    | with_reducible exact keptO_none
    | with_reducible intro _
    | split
    | with_reducible refine kept_mk ?_ ?_ ?_ ?_ ?_ ?_ ?_ ?_ ?_ ?_

theorem State.normApplies_kept (s : State) (k : ℕ) (h : Kept s0 s) :
    Kept s0 (State.normApplies s k) := by
  unfold State.normApplies; try dsimp only
  repeat' first
    | with_reducible assumption
    | with_reducible apply State.safePoint_kept
    | with_reducible apply kept_ite
    | with_reducible apply kept_foldl
    | with_reducible intro _

theorem State.openBuffers_kept (s : State) (k : ℕ) (h : Kept s0 s) :
    Kept s0 (State.openBuffers s k) := by
  unfold State.openBuffers; try dsimp only
  repeat' first
    | with_reducible assumption
    | with_reducible exact List.prefix_rfl
    | with_reducible exact Nat.le_refl _
    | with_reducible exact fun h => h
    | with_reducible refine kept_mk ?_ ?_ ?_ ?_ ?_ ?_ ?_ ?_ ?_ ?_

theorem State.openNorm_kept (s : State) (k : ℕ) (h : Kept s0 s) :
    Kept s0 (State.openNorm s k) := by
  unfold State.openNorm; try dsimp only
  repeat' first
    | with_reducible assumption
    | with_reducible apply State.normApplies_kept
    | with_reducible apply State.event_kept
    | with_reducible apply State.flushCaches_kept
    | with_reducible exact List.prefix_rfl
    | with_reducible exact Nat.le_refl _
    | with_reducible exact fun h => h
    | with_reducible apply kept_ite
    | with_reducible apply kept_foldl
    | with_reducible intro _
    | split
    | with_reducible refine kept_mk ?_ ?_ ?_ ?_ ?_ ?_ ?_ ?_ ?_ ?_

theorem State.releaseStale_kept (s : State) (k : ℕ) (h : Kept s0 s) :
    Kept s0 (State.releaseStale s k) := by
  unfold State.releaseStale; try dsimp only
  repeat' first
    | with_reducible assumption
    | with_reducible apply State.addHeld_kept
    | with_reducible exact List.prefix_rfl
    | with_reducible exact Nat.le_refl _
    | with_reducible exact fun h => h
    | with_reducible apply kept_foldl
    | with_reducible intro _
    | split
    | with_reducible refine kept_mk ?_ ?_ ?_ ?_ ?_ ?_ ?_ ?_ ?_ ?_

theorem State.takeDecision_kept (s : State) (r : CombineRec) (h : Kept s0 s) :
    Kept s0 (State.takeDecision s r) := by
  unfold State.takeDecision; try dsimp only
  repeat' first
    | with_reducible assumption
    | with_reducible apply State.fault_kept
    | with_reducible apply State.event_kept
    | with_reducible apply State.bump_kept
    | with_reducible exact List.prefix_rfl
    | with_reducible exact Nat.le_refl _
    | with_reducible exact fun h => h
    | with_reducible apply kept_foldl
    | with_reducible intro _
    | split
    | with_reducible refine kept_mk ?_ ?_ ?_ ?_ ?_ ?_ ?_ ?_ ?_ ?_

theorem State.takeRow_kept (s back : State) (checks : List MemCheck) (m : Msg) (ack : State → State) (hack : ∀ s, Kept s0 s → Kept s0 (ack s))
    (h : Kept s0 s) (hb : Kept s0 back) : Kept s0 (s.takeRow back checks m ack) := by
  unfold State.takeRow
  have hc := State.checked_kept s checks h
  generalize s.checked checks = c at hc ⊢
  obtain ⟨ok, u⟩ := c
  refine kept_ite (fun _ => hc) fun _ => ?_
  have h1 := State.gradientRow_kept u m hc
  generalize u.gradientRow m = o at h1 ⊢
  cases o with
  | none => exact hb
  | some t => exact kept_ite (fun _ => h1 t rfl) fun _ => hack _ (h1 t rfl)

theorem State.tryUp_kept (s : State) (h : Kept s0 s) :
    Kept s0 (State.tryUp s) := by
  unfold State.tryUp; try dsimp only
  repeat' first
    | with_reducible assumption
    | with_reducible apply State.sendTo_kept
    | with_reducible exact List.prefix_rfl
    | with_reducible exact Nat.le_refl _
    | with_reducible exact fun h => h
    | with_reducible apply kept_ite
    | with_reducible apply kept_foldl
    | with_reducible intro _
    | split
    | with_reducible refine kept_mk ?_ ?_ ?_ ?_ ?_ ?_ ?_ ?_ ?_ ?_

theorem execApplyDescriptorDone_kept (i : ℕ) (checks : List MemCheck) (s : State) (h : Kept s0 s) :
    KeptR s0 (execApplyDescriptorDone i checks s) := by
  unfold execApplyDescriptorDone; try dsimp only
  repeat' first
    | with_reducible assumption
    | with_reducible apply State.finishDesc_kept
    | with_reducible apply State.checked_kept
    | with_reducible apply State.applyOne_kept
    | with_reducible exact List.prefix_rfl
    | with_reducible exact Nat.le_refl _
    | with_reducible exact fun h => h
    | with_reducible apply kept_ite
    | with_reducible apply keptR_ite
    | with_reducible apply keptR_next
    | with_reducible refine kept_of_snd (by assumption) ?_
    | with_reducible intro _
    | split
    | with_reducible refine kept_mk ?_ ?_ ?_ ?_ ?_ ?_ ?_ ?_ ?_ ?_

theorem execCombineDown_kept (m : Option Msg) (s : State) (h : Kept s0 s) :
    KeptR s0 (execCombineDown m s) := by
  unfold execCombineDown; try dsimp only
  repeat' first
    | with_reducible assumption
    | with_reducible apply State.takeDecision_kept
    | with_reducible apply State.sendTo_kept
    | with_reducible apply State.taken_kept
    | with_reducible apply kept_ite
    | with_reducible apply keptR_ite
    | with_reducible apply keptR_next
    | with_reducible apply kept_foldl
    | with_reducible intro _
    | split

theorem execCombineUp_kept (m : Msg) (s : State) (h : Kept s0 s) :
    KeptR s0 (execCombineUp m s) := by
  unfold execCombineUp; try dsimp only
  repeat' first
    | with_reducible assumption
    | with_reducible apply State.taken_kept
    | with_reducible apply State.tryUp_kept
    | with_reducible exact List.prefix_rfl
    | with_reducible exact Nat.le_refl _
    | with_reducible exact fun h => h
    | with_reducible apply kept_ite
    | with_reducible apply keptR_ite
    | with_reducible apply keptR_next
    | with_reducible intro _
    | with_reducible refine kept_mk ?_ ?_ ?_ ?_ ?_ ?_ ?_ ?_ ?_ ?_

theorem execContributionDeadline_kept (i : ℕ) (s : State) (h : Kept s0 s) :
    KeptR s0 (execContributionDeadline i s) := by
  unfold execContributionDeadline; try dsimp only
  repeat' first
    | with_reducible assumption
    | with_reducible exact List.prefix_rfl
    | with_reducible exact Nat.le_refl _
    | with_reducible exact fun h => h
    | with_reducible apply kept_ite
    | with_reducible apply keptR_ite
    | with_reducible apply keptR_next
    | with_reducible intro _
    | split
    | with_reducible refine kept_mk ?_ ?_ ?_ ?_ ?_ ?_ ?_ ?_ ?_ ?_

theorem execGradient_kept (m : Option Msg) (checks : List MemCheck) (s : State) (h : Kept s0 s) : KeptR s0 (execGradient m checks s) := by
  unfold execGradient
  refine keptR_next (kept_ite (fun _ => h) fun _ => ?_)
  split
  · exact h
  · exact State.takeRow_kept _ _ _ _ _ (fun _ h => h) (kept_mk h List.prefix_rfl (Nat.le_refl _) id id id id id id id) h
  · exact State.taken_kept _ _ _ (fun t ht => State.takeRow_kept _ _ _ _ _ (fun _ h => State.e2eAck_kept _ _ h) ht h) h

theorem execNormPassComplete_kept (checks : List MemCheck) (s : State) (h : Kept s0 s) :
    KeptR s0 (execNormPassComplete checks s) := by
  unfold execNormPassComplete; try dsimp only
  repeat' first
    | with_reducible assumption
    | with_reducible apply State.checked_kept
    | with_reducible apply State.notePass_kept
    | with_reducible apply State.noteWork_kept
    | with_reducible apply State.tryUp_kept
    | with_reducible exact List.prefix_rfl
    | with_reducible exact Nat.le_refl _
    | with_reducible exact fun h => h
    | with_reducible apply kept_ite
    | with_reducible apply keptR_ite
    | with_reducible apply keptR_next
    | with_reducible apply kept_foldl
    | with_reducible refine kept_of_snd (by assumption) ?_
    | with_reducible intro _
    | split
    | with_reducible refine kept_mk ?_ ?_ ?_ ?_ ?_ ?_ ?_ ?_ ?_ ?_

theorem execWithdraw_kept (m : Msg) (s : State) (h : Kept s0 s) :
    KeptR s0 (execWithdraw m s) := by
  unfold execWithdraw; try dsimp only
  repeat' first
    | with_reducible assumption
    | with_reducible apply State.taken_kept
    | with_reducible apply State.e2eAck_kept
    | with_reducible apply State.bump_kept
    | with_reducible apply State.noteWithdrawn_kept
    | with_reducible apply keptR_next
    | with_reducible intro _

end Sys2Proof.Machine
end

