-- ==== Sys2Proof/Laws/KeptCaptures.lean ====
section
/-! SUPPORT. What the operations of Machine/Captures.lean keep. -/

namespace Sys2Proof.Machine

variable {s0 : State}

theorem State.addMember_kept (s : State) (k : ℕ) (m : ℕ) (h : Kept s0 s) :
    Kept s0 (State.addMember s k m) := by
  unfold State.addMember; try dsimp only
  repeat' first
    | with_reducible assumption
    | with_reducible apply State.event_kept
    | with_reducible exact List.prefix_rfl
    | with_reducible exact Nat.le_refl _
    | with_reducible exact fun h => h
    | with_reducible apply kept_ite
    | with_reducible intro _
    | with_reducible refine kept_mk ?_ ?_ ?_ ?_ ?_ ?_ ?_ ?_ ?_ ?_

theorem State.modOwn_kept (s : State) (i : ℕ) (f : SnapSlot → SnapSlot) (h : Kept s0 s) :
    Kept s0 (State.modOwn s i f) := by
  unfold State.modOwn; try dsimp only
  repeat' first
    | with_reducible assumption
    | with_reducible exact List.prefix_rfl
    | with_reducible exact Nat.le_refl _
    | with_reducible exact fun h => h
    | with_reducible refine kept_mk ?_ ?_ ?_ ?_ ?_ ?_ ?_ ?_ ?_ ?_

theorem State.beginCapture_kept (s : State) (k : ℕ) (i : ℕ) (h : Kept s0 s) :
    Kept s0 (State.beginCapture s k i) := by
  unfold State.beginCapture; try dsimp only
  repeat' first
    | with_reducible assumption
    | with_reducible apply State.modOwn_kept
    | with_reducible apply State.setCount_kept
    | with_reducible apply State.event_kept
    | with_reducible exact List.prefix_rfl
    | with_reducible exact Nat.le_refl _
    | with_reducible exact fun h => h
    | with_reducible apply kept_ite
    | with_reducible apply kept_foldl
    | with_reducible intro _
    | with_reducible refine kept_mk ?_ ?_ ?_ ?_ ?_ ?_ ?_ ?_ ?_ ?_

theorem State.captureDie_kept (s : State) (m : ℕ) (h : Kept s0 s) :
    Kept s0 (State.captureDie s m) := by
  unfold State.captureDie; try dsimp only
  repeat' first
    | with_reducible assumption
    | with_reducible exact List.prefix_rfl
    | with_reducible exact Nat.le_refl _
    | with_reducible exact fun h => h
    | with_reducible apply kept_ite
    | with_reducible intro _
    | with_reducible refine kept_mk ?_ ?_ ?_ ?_ ?_ ?_ ?_ ?_ ?_ ?_

theorem State.ownComplete_kept (s : State) (c : Capture) (h : Kept s0 s) :
    Kept s0 (State.ownComplete s c) := by
  unfold State.ownComplete; try dsimp only
  repeat' first
    | with_reducible assumption
    | with_reducible apply State.modOwn_kept
    | with_reducible exact List.prefix_rfl
    | with_reducible exact Nat.le_refl _
    | with_reducible exact fun h => h
    | with_reducible apply kept_ite
    | with_reducible intro _
    | with_reducible refine kept_mk ?_ ?_ ?_ ?_ ?_ ?_ ?_ ?_ ?_ ?_

theorem State.captureRead_kept (s : State) (h : Kept s0 s) :
    Kept s0 (State.captureRead s) := by
  unfold State.captureRead; try dsimp only
  repeat' first
    | with_reducible assumption
    | with_reducible apply State.event_kept
    | with_reducible apply State.sendTo_kept
    | with_reducible apply State.ownComplete_kept
    | with_reducible exact List.prefix_rfl
    | with_reducible exact Nat.le_refl _
    | with_reducible exact fun h => h
    | with_reducible apply kept_ite
    | with_reducible intro _
    | split
    | with_reducible refine kept_mk ?_ ?_ ?_ ?_ ?_ ?_ ?_ ?_ ?_ ?_

theorem State.modPartner_kept (s : State) (i : ℕ) (f : SnapSlot → SnapSlot) (h : Kept s0 s) :
    Kept s0 (State.modPartner s i f) := by
  unfold State.modPartner; try dsimp only
  repeat' first
    | with_reducible assumption
    | with_reducible exact List.prefix_rfl
    | with_reducible exact Nat.le_refl _
    | with_reducible exact fun h => h
    | with_reducible refine kept_mk ?_ ?_ ?_ ?_ ?_ ?_ ?_ ?_ ?_ ?_

theorem State.noteCoFed_kept (s : State) (m : Msg) (h : Kept s0 s) :
    Kept s0 (State.noteCoFed s m) := by
  unfold State.noteCoFed; try dsimp only
  repeat' first
    | with_reducible assumption
    | with_reducible apply State.event_kept
    | with_reducible apply kept_ite
    | with_reducible intro _

theorem State.noteRequest_kept (s : State) (k : ℕ) (h : Kept s0 s) :
    Kept s0 (State.noteRequest s k) := by
  unfold State.noteRequest; try dsimp only
  repeat' first
    | with_reducible assumption
    | with_reducible apply State.refuseCapture_kept
    | with_reducible exact List.prefix_rfl
    | with_reducible exact Nat.le_refl _
    | with_reducible exact fun h => h
    | with_reducible apply kept_ite
    | with_reducible intro _
    | with_reducible refine kept_mk ?_ ?_ ?_ ?_ ?_ ?_ ?_ ?_ ?_ ?_

theorem State.releaseHeld_kept (s : State) (p : ℕ) (h : Kept s0 s) :
    Kept s0 (State.releaseHeld s p) := by
  unfold State.releaseHeld; try dsimp only
  repeat' first
    | with_reducible assumption
    | exact foldl_wf _ _ _ (fun m x w => writeBytes_wf _ _ _ w) ‹_›
    | with_reducible exact List.prefix_rfl
    | with_reducible exact Nat.le_refl _
    | with_reducible exact fun h => h
    | with_reducible apply kept_foldl
    | exact fun w => writeBytes_wf _ _ _ w
    | exact writeBytes_wf _ _ _ ‹_›
    | with_reducible intro _
    | with_reducible refine kept_mk ?_ ?_ ?_ ?_ ?_ ?_ ?_ ?_ ?_ ?_

theorem State.sendPage_kept (s : State) (step : ℕ) (page : ℕ) (crc : ℕ) (bs : Bytes) (h : Kept s0 s) :
    Kept s0 (State.sendPage s step page crc bs) := by
  unfold State.sendPage; try dsimp only
  repeat' first
    | with_reducible assumption
    | with_reducible apply State.sendTo_kept
    | with_reducible apply kept_foldl
    | with_reducible intro _

theorem State.startCapture_kept (s : State) (k : ℕ) (h : Kept s0 s) :
    Kept s0 (State.startCapture s k) := by
  unfold State.startCapture; try dsimp only
  repeat' first
    | with_reducible assumption
    | with_reducible apply State.refuseCapture_kept
    | with_reducible apply State.event_kept
    | with_reducible apply State.captureRead_kept
    | with_reducible apply State.beginCapture_kept
    | with_reducible exact List.prefix_rfl
    | with_reducible exact Nat.le_refl _
    | with_reducible exact fun h => h
    | with_reducible apply kept_ite
    | with_reducible intro _
    | split
    | with_reducible refine kept_mk ?_ ?_ ?_ ?_ ?_ ?_ ?_ ?_ ?_ ?_

theorem State.tryHeld_kept (s : State) (i : ℕ) (h : Kept s0 s) :
    Kept s0 (State.tryHeld s i) := by
  unfold State.tryHeld; try dsimp only
  repeat' first
    | with_reducible assumption
    | with_reducible apply State.sendTo_kept
    | with_reducible apply State.modPartner_kept
    | with_reducible apply kept_ite
    | with_reducible intro _

theorem State.tryPair_kept (s : State) (h : Kept s0 s) :
    Kept s0 (State.tryPair s) := by
  unfold State.tryPair; try dsimp only
  repeat' first
    | with_reducible assumption
    | with_reducible apply State.sendTo_kept
    | with_reducible exact List.prefix_rfl
    | with_reducible exact Nat.le_refl _
    | with_reducible exact fun h => h
    | with_reducible apply kept_ite
    | with_reducible intro _
    | with_reducible refine kept_mk ?_ ?_ ?_ ?_ ?_ ?_ ?_ ?_ ?_ ?_

theorem execCaptureRefused_kept (m : Msg) (s : State) (h : Kept s0 s) :
    KeptR s0 (execCaptureRefused m s) := by
  unfold execCaptureRefused; try dsimp only
  repeat' first
    | with_reducible assumption
    | with_reducible apply State.took_kept
    | with_reducible apply keptR_next

theorem execCaptureRequest_kept (m : Msg) (s : State) (h : Kept s0 s) :
    KeptR s0 (execCaptureRequest m s) := by
  unfold execCaptureRequest; try dsimp only
  repeat' first
    | with_reducible assumption
    | with_reducible apply State.taken_kept
    | with_reducible apply State.noteRequest_kept
    | with_reducible apply keptR_next
    | with_reducible intro _

theorem execCaptureSent_kept (m : Msg) (s : State) (h : Kept s0 s) :
    KeptR s0 (execCaptureSent m s) := by
  unfold execCaptureSent; try dsimp only
  repeat' first
    | with_reducible assumption
    | with_reducible apply State.taken_kept
    | with_reducible apply State.modPartner_kept
    | with_reducible apply State.tryHeld_kept
    | with_reducible apply kept_ite
    | with_reducible apply keptR_ite
    | with_reducible apply keptR_next
    | with_reducible intro _
    | split

theorem execHeld_kept (m : Msg) (s : State) (h : Kept s0 s) :
    KeptR s0 (execHeld m s) := by
  unfold execHeld; try dsimp only
  repeat' first
    | with_reducible assumption
    | with_reducible apply State.taken_kept
    | with_reducible apply State.event_kept
    | with_reducible apply State.bump_kept
    | with_reducible apply State.ownComplete_kept
    | with_reducible apply State.addMember_kept
    | with_reducible apply State.sendAll_kept
    | with_reducible apply kept_ite
    | with_reducible apply keptR_ite
    | with_reducible apply keptR_next
    | with_reducible intro _
    | split

theorem execPageDone_kept (page : ℕ) (checks : List MemCheck) (s : State) (h : Kept s0 s) :
    KeptR s0 (execPageDone page checks s) := by
  unfold execPageDone; try dsimp only
  repeat' first
    | with_reducible assumption
    | with_reducible apply State.checked_kept
    | with_reducible apply State.modOwn_kept
    | with_reducible apply State.noteRead_kept
    | with_reducible apply State.sendPage_kept
    | with_reducible apply State.captureRead_kept
    | with_reducible apply State.captureDie_kept
    | with_reducible apply State.releaseHeld_kept
    | with_reducible exact List.prefix_rfl
    | with_reducible exact Nat.le_refl _
    | with_reducible exact fun h => h
    | with_reducible apply kept_ite
    | with_reducible apply keptR_ite
    | with_reducible apply keptR_next
    | with_reducible refine kept_of_snd (by assumption) ?_
    | with_reducible intro _
    | split
    | with_reducible refine kept_mk ?_ ?_ ?_ ?_ ?_ ?_ ?_ ?_ ?_ ?_

theorem execPair_kept (m : Msg) (s : State) (h : Kept s0 s) :
    KeptR s0 (execPair m s) := by
  unfold execPair; try dsimp only
  repeat' first
    | with_reducible assumption
    | with_reducible apply State.taken_kept
    | with_reducible apply State.noteCoFed_kept
    | with_reducible apply State.sendTo_kept
    | with_reducible exact List.prefix_rfl
    | with_reducible exact Nat.le_refl _
    | with_reducible exact fun h => h
    | with_reducible apply kept_ite
    | with_reducible apply keptR_ite
    | with_reducible apply keptR_next
    | with_reducible intro _
    | with_reducible refine kept_mk ?_ ?_ ?_ ?_ ?_ ?_ ?_ ?_ ?_ ?_

theorem execPairAck_kept (m : Msg) (s : State) (h : Kept s0 s) :
    KeptR s0 (execPairAck m s) := by
  unfold execPairAck; try dsimp only
  repeat' first
    | with_reducible assumption
    | with_reducible apply State.taken_kept
    | with_reducible apply State.noteCoFed_kept
    | with_reducible exact List.prefix_rfl
    | with_reducible exact Nat.le_refl _
    | with_reducible exact fun h => h
    | with_reducible apply kept_ite
    | with_reducible apply keptR_ite
    | with_reducible apply keptR_next
    | with_reducible intro _
    | with_reducible refine kept_mk ?_ ?_ ?_ ?_ ?_ ?_ ?_ ?_ ?_ ?_

theorem execSetMember_kept (m : Msg) (s : State) (h : Kept s0 s) :
    KeptR s0 (execSetMember m s) := by
  unfold execSetMember; try dsimp only
  repeat' first
    | with_reducible assumption
    | with_reducible apply State.taken_kept
    | with_reducible apply State.addMember_kept
    | with_reducible apply keptR_next
    | with_reducible intro _

theorem execShadowCopyDone_kept (page : ℕ) (checks : List MemCheck) (s : State) (h : Kept s0 s) :
    KeptR s0 (execShadowCopyDone page checks s) := by
  unfold execShadowCopyDone; try dsimp only
  repeat' first
    | with_reducible assumption
    | with_reducible apply State.checked_kept
    | with_reducible apply State.noteRead_kept
    | with_reducible apply State.releaseHeld_kept
    | with_reducible apply State.setPage_kept
    | with_reducible exact List.prefix_rfl
    | with_reducible exact Nat.le_refl _
    | with_reducible exact fun h => h
    | with_reducible apply kept_ite
    | with_reducible apply keptR_ite
    | with_reducible apply keptR_next
    | exact fun w => copyRange_wf _ _ _ _ w
    | exact copyRange_wf _ _ _ _ ‹_›
    | with_reducible refine kept_of_snd (by assumption) ?_
    | with_reducible intro _
    | split
    | with_reducible refine kept_mk ?_ ?_ ?_ ?_ ?_ ?_ ?_ ?_ ?_ ?_

theorem execSnapPage_kept (m : Msg) (s : State) (h : Kept s0 s) :
    KeptR s0 (execSnapPage m s) := by
  unfold execSnapPage; try dsimp only
  repeat' first
    | with_reducible assumption
    | with_reducible apply State.taken_kept
    | with_reducible apply State.modPartner_kept
    | with_reducible apply State.tryHeld_kept
    | with_reducible apply kept_ite
    | with_reducible apply keptR_ite
    | with_reducible apply keptR_next
    | with_reducible intro _
    | split

theorem execWindthrowEvaluation_kept (s : State) (h : Kept s0 s) :
    KeptR s0 (execWindthrowEvaluation s) := by
  unfold execWindthrowEvaluation; try dsimp only
  repeat' first
    | with_reducible assumption
    | with_reducible apply State.event_kept
    | with_reducible apply State.noteRequest_kept
    | with_reducible apply State.sendAll_kept
    | with_reducible apply State.nextFree_kept
    | with_reducible exact List.prefix_rfl
    | with_reducible exact Nat.le_refl _
    | with_reducible exact fun h => h
    | with_reducible apply kept_ite
    | with_reducible apply keptR_ite
    | with_reducible apply keptR_next
    | with_reducible intro _
    | split
    | with_reducible refine kept_mk ?_ ?_ ?_ ?_ ?_ ?_ ?_ ?_ ?_ ?_

end Sys2Proof.Machine
end

