-- ==== Sys2Proof/Laws/KeptFirmware.lean ====
section
/-! SUPPORT. What the operations of Machine/Firmware.lean keep. -/

namespace Sys2Proof.Machine

variable {s0 : State}

theorem State.restoreValues_kept (s : State) (rw : List (ℕ × Bytes)) (active : List (ℕ × Bytes)) (h : Kept s0 s) :
    Kept s0 (State.restoreValues s rw active) := by
  unfold State.restoreValues; try dsimp only
  repeat' first
    | with_reducible assumption
    | with_reducible exact List.prefix_rfl
    | with_reducible exact Nat.le_refl _
    | with_reducible exact fun h => h
    | with_reducible refine kept_mk ?_ ?_ ?_ ?_ ?_ ?_ ?_ ?_ ?_ ?_

theorem State.factoryDefaults_kept (s : State) (h : Kept s0 s) :
    Kept s0 (State.factoryDefaults s) := by
  unfold State.factoryDefaults; try dsimp only
  repeat' first
    | with_reducible assumption
    | with_reducible apply State.restoreValues_kept
    | exact fun l => ⟨l.1, Nat.zero_le _⟩
    | with_reducible exact List.prefix_rfl
    | with_reducible exact Nat.le_refl _
    | with_reducible exact fun h => h
    | with_reducible exact logOk_of rfl rfl
    | with_reducible refine kept_mk ?_ ?_ ?_ ?_ ?_ ?_ ?_ ?_ ?_ ?_

theorem timeOk_reset : TimeOk State.reset.time := by unfold TimeOk; decide

theorem State.restarted_kept (s : State) (stage cause : ℕ) (powered : Bool) (h : Kept s0 s) : Kept s0 (s.restarted stage cause powered) := by
  refine ⟨h.1, h.2.1, h.2.2.1, fun i => ?_⟩
  have l := (h.2.2.2 i).2.2.1.2
  refine ⟨rfl, timeOk_reset, ⟨Nat.zero_le _, l⟩, (fun e => nomatch e), (fun _ h => nomatch h),
    ⟨⟨fun _ => rfl, fun _ => rfl⟩, (fun p e => nomatch e)⟩, Nat.zero_le _, Nat.zero_le _⟩

theorem State.romAgain_kept (s : State) (h : Kept s0 s) :
    Kept s0 (State.romAgain s) := by
  unfold State.romAgain; try dsimp only
  repeat' first
    | with_reducible assumption
    | with_reducible apply State.restarted_kept
    | with_reducible apply kept_ite
    | with_reducible intro _

theorem State.flashWrite_kept (s : State) (r : FlashReport) (n : ℕ) (h : Kept s0 s) :
    Kept s0 (State.flashWrite s r n) := by
  unfold State.flashWrite; try dsimp only
  repeat' first
    | with_reducible assumption
    | with_reducible apply State.event_kept
    | with_reducible exact List.prefix_rfl
    | with_reducible exact Nat.le_refl _
    | with_reducible exact fun h => h
    | with_reducible apply kept_ite
    | with_reducible apply kept_foldl
    | with_reducible intro _
    | with_reducible refine kept_mk ?_ ?_ ?_ ?_ ?_ ?_ ?_ ?_ ?_ ?_

theorem State.modFwSlot_kept (s : State) (n : ℕ) (f : FwSlot → FwSlot) (h : Kept s0 s) :
    Kept s0 (State.modFwSlot s n f) := by
  unfold State.modFwSlot; try dsimp only
  repeat' first
    | with_reducible assumption
    | with_reducible exact List.prefix_rfl
    | with_reducible exact Nat.le_refl _
    | with_reducible exact fun h => h
    | with_reducible refine kept_mk ?_ ?_ ?_ ?_ ?_ ?_ ?_ ?_ ?_ ?_

theorem State.putTrial_kept (s : State) (n : ℕ) (img : Bytes) (h : Kept s0 s) :
    Kept s0 (State.putTrial s n img) := by
  unfold State.putTrial; try dsimp only
  repeat' first
    | with_reducible assumption
    | with_reducible apply State.modFwSlot_kept

theorem State.stumpCard_kept (s : State) (h : Kept s0 s) :
    Kept s0 (State.stumpCard s) := by
  unfold State.stumpCard; try dsimp only
  repeat' first
    | with_reducible assumption
    | with_reducible apply State.romAgain_kept
    | with_reducible apply State.flashWrite_kept
    | with_reducible apply State.putTrial_kept
    | with_reducible apply kept_ite
    | with_reducible intro _

theorem State.enterStump_kept (s : State) (cause : ℕ) (h : Kept s0 s) : Kept s0 (s.enterStump cause) := by
  unfold State.enterStump
  have h1 := State.factoryDefaults_kept s h
  refine State.stumpCard_kept _ (State.event_kept _ _ _ _ (kept_mk (State.setCount_kept _ _ _ ?_)
    List.prefix_rfl (Nat.le_refl _) id id id id id id id))
  exact ⟨h1.1, h1.2.1, h1.2.2.1, fun i => ⟨(h1.2.2.2 i).1, (h1.2.2.2 i).2.1, ⟨Nat.zero_le _, (h.2.2.2 i).2.2.1.2⟩, (h1.2.2.2 i).2.2.2⟩⟩

theorem State.indexFlash_kept (s : State) (h : Kept s0 s) :
    Kept s0 (State.indexFlash s) := by
  unfold State.indexFlash; try dsimp only
  repeat' first
    | with_reducible assumption
    | with_reducible exact List.prefix_rfl
    | with_reducible exact Nat.le_refl _
    | with_reducible exact fun h => h
    | with_reducible exact hostOk_of rfl rfl
    | with_reducible apply kept_foldl
    | with_reducible intro _
    | with_reducible refine kept_mk ?_ ?_ ?_ ?_ ?_ ?_ ?_ ?_ ?_ ?_

theorem State.setFormats_kept (s : State) (e : ℕ) (fs : List ℕ) (h : Kept s0 s) :
    Kept s0 (State.setFormats s e fs) := by
  unfold State.setFormats; try dsimp only
  repeat' first
    | with_reducible assumption
    | with_reducible exact List.prefix_rfl
    | with_reducible exact Nat.le_refl _
    | with_reducible exact fun h => h
    | with_reducible refine kept_mk ?_ ?_ ?_ ?_ ?_ ?_ ?_ ?_ ?_ ?_

theorem State.storeValues_kept (s : State) (v : ℕ) (h : Kept s0 s) :
    Kept s0 (State.storeValues s v) := by
  unfold State.storeValues; try dsimp only
  repeat' first
    | with_reducible assumption
    | with_reducible exact List.prefix_rfl
    | with_reducible exact Nat.le_refl _
    | with_reducible exact fun h => h
    | split
    | with_reducible refine kept_mk ?_ ?_ ?_ ?_ ?_ ?_ ?_ ?_ ?_ ?_

end Sys2Proof.Machine
end

