-- ==== Sys2Proof/Laws/KeptIngest.lean ====
section
/-! SUPPORT. What the operations of Machine/Ingest.lean keep. -/

namespace Sys2Proof.Machine

variable {s0 : State}

theorem State.ingestOnce_kept (s : State) (st : ℕ) (n : ℕ) (code : ℕ) (detail : Bytes) (h : Kept s0 s) :
    Kept s0 (State.ingestOnce s st n code detail) := by
  unfold State.ingestOnce; try dsimp only
  repeat' first
    | with_reducible assumption
    | with_reducible apply State.eventOnce_kept

theorem State.modStand_kept (s : State) (st : ℕ) (f : Stand → Stand) (h : Kept s0 s) :
    Kept s0 (State.modStand s st f) := by
  unfold State.modStand; try dsimp only
  repeat' first
    | with_reducible assumption
    | with_reducible exact List.prefix_rfl
    | with_reducible exact Nat.le_refl _
    | with_reducible exact fun h => h
    | with_reducible refine kept_mk ?_ ?_ ?_ ?_ ?_ ?_ ?_ ?_ ?_ ?_

theorem State.writeBoxes_kept (s : State) (st : ℕ) (k : ℕ) (key : ℕ) (d : Bytes) (row : ℕ) (first : ℕ) (e : Sample) (h : Kept s0 s) :
    Kept s0 (State.writeBoxes s st k key d row first e).2 := by
  unfold State.writeBoxes; try dsimp only
  repeat' first
    | with_reducible assumption
    | with_reducible apply State.ingestOnce_kept
    | with_reducible apply State.bump_kept
    | with_reducible apply State.toHbm_kept
    | with_reducible apply State.modStand_kept
    | with_reducible apply kept_ite
    | with_reducible apply kept_foldl_snd
    | with_reducible apply kept_ite_snd
    | with_reducible intro _
    | dsimp only

theorem State.bumpStream_kept (s : State) (n : ℕ) (i : ℕ) (h : Kept s0 s) :
    Kept s0 (State.bumpStream s n i) := by
  unfold State.bumpStream; try dsimp only
  repeat' first
    | with_reducible assumption
    | with_reducible apply State.bump_kept
    | with_reducible apply kept_ite
    | with_reducible intro _

theorem State.admitSample_kept (s : State) (st : ℕ) (k : ℕ) (key : ℕ) (d : Bytes) (row : ℕ) (first : ℕ) (e : Sample) (h : Kept s0 s) :
    Kept s0 (State.admitSample s st k key d row first e) := by
  unfold State.admitSample; try dsimp only
  repeat' first
    | with_reducible assumption
    | with_reducible apply State.writeBoxes_kept
    | with_reducible apply State.receipt_kept
    | with_reducible apply State.bump_kept
    | with_reducible apply State.bumpStream_kept
    | with_reducible apply State.modStand_kept
    | with_reducible apply kept_ite
    | with_reducible refine kept_of_snd (by assumption) ?_
    | with_reducible intro _
    | split

theorem State.dropReceipt_kept (s : State) (st : ℕ) (h' : Bytes) (carries : ℕ) (reason : ℕ) (h : Kept s0 s) :
    Kept s0 (State.dropReceipt s st h' carries reason) := by
  unfold State.dropReceipt; try dsimp only
  repeat' first
    | with_reducible assumption
    | with_reducible apply State.receipt_kept
    | with_reducible apply State.bumpStream_kept
    | with_reducible apply State.bump_kept
    | with_reducible apply State.ingestOnce_kept

theorem State.arrive_kept (s : State) (st : ℕ) (h' : Bytes) (payload : Bytes) (boxes : Bytes) (h : Kept s0 s) :
    Kept s0 (State.arrive s st h' payload boxes) := by
  unfold State.arrive; try dsimp only
  repeat' first
    | with_reducible assumption
    | with_reducible apply State.bumpStream_kept
    | with_reducible apply State.dropReceipt_kept
    | with_reducible apply State.modStand_kept
    | with_reducible apply kept_ite
    | with_reducible intro _

theorem State.placeSample_kept (s : State) (st : ℕ) (e : Sample) (h : Kept s0 s) :
    Kept s0 (State.placeSample s st e) := by
  unfold State.placeSample; try dsimp only
  repeat' first
    | with_reducible assumption
    | with_reducible apply State.modStand_kept
    | with_reducible apply kept_ite
    | with_reducible intro _
    | split

theorem State.dropSample_kept (s : State) (st : ℕ) (reason : ℕ) (e : Sample) (h : Kept s0 s) :
    Kept s0 (State.dropSample s st reason e) := by
  unfold State.dropSample; try dsimp only
  repeat' first
    | with_reducible assumption
    | with_reducible apply State.dropReceipt_kept
    | with_reducible apply State.modStand_kept

theorem State.carrySample_kept (s : State) (st : ℕ) (k : ℕ) (e : Sample) (h : Kept s0 s) :
    Kept s0 (State.carrySample s st k e) := by
  unfold State.carrySample; try dsimp only
  repeat' first
    | with_reducible assumption
    | with_reducible apply State.modStand_kept
    | with_reducible apply State.placeSample_kept
    | with_reducible apply State.bumpStream_kept
    | with_reducible apply State.receipt_kept
    | with_reducible apply State.dropSample_kept
    | with_reducible apply kept_ite
    | with_reducible intro _

theorem State.signalRows_kept (s : State) (st : ℕ) (g : ℕ) (k : ℕ) (d : Bytes) (h : Kept s0 s) :
    Kept s0 (State.signalRows s st g k d) := by
  unfold State.signalRows; try dsimp only
  repeat' first
    | with_reducible assumption
    | with_reducible apply State.modStand_kept
    | with_reducible apply State.signal_kept
    | with_reducible apply kept_ite
    | with_reducible intro _

theorem State.guardRows_kept (s : State) (st : ℕ) (g : ℕ) (k : ℕ) (d : Bytes) (h : Kept s0 s) :
    Kept s0 (State.guardRows s st g k d) := by
  unfold State.guardRows; try dsimp only
  repeat' first
    | with_reducible assumption
    | with_reducible apply State.modStand_kept
    | with_reducible apply State.signalRows_kept
    | with_reducible apply kept_ite
    | with_reducible apply kept_foldl
    | with_reducible intro _

theorem State.setBounds_kept (s : State) (st : ℕ) (k : ℕ) (g : ℕ) (d : Bytes) (h : Kept s0 s) :
    Kept s0 (State.setBounds s st k g d) := by
  unfold State.setBounds; try dsimp only
  repeat' first
    | with_reducible assumption
    | with_reducible exact List.prefix_rfl
    | with_reducible exact Nat.le_refl _
    | with_reducible exact fun h => h
    | with_reducible apply kept_ite
    | with_reducible intro _
    | with_reducible refine kept_mk ?_ ?_ ?_ ?_ ?_ ?_ ?_ ?_ ?_ ?_

theorem State.fillPool_kept (s : State) (st : ℕ) (h : Kept s0 s) :
    Kept s0 (State.fillPool s st) := by
  unfold State.fillPool; try dsimp only
  repeat' first
    | with_reducible assumption
    | with_reducible apply State.modStand_kept
    | with_reducible apply kept_ite
    | with_reducible apply kept_foldl
    | with_reducible intro _

theorem State.takeSamples_kept (s : State) (st fuel : ℕ) (h : Kept s0 s) : Kept s0 (s.takeSamples st fuel) := by
  induction fuel generalizing s with
  | zero => exact h
  | succ n ih =>
    unfold State.takeSamples
    split
    · exact h
    · refine kept_ite (fun _ => h) fun _ => kept_ite (fun _ => State.closeWith_kept _ _ _ (State.dropReceipt_kept _ _ _ _ _ (State.bumpStream_kept _ _ _ h))) fun _ =>
        kept_ite (fun _ => h) fun _ => ih _ (State.arrive_kept _ _ _ _ _ (State.modFlow_kept _ _ _ h))

theorem State.sendAck_kept (s : State) (f : Flow) (n : ℕ) (h : Kept s0 s) :
    Kept s0 (State.sendAck s f n) := by
  unfold State.sendAck; try dsimp only
  repeat' first
    | with_reducible assumption
    | with_reducible apply State.sendHost_kept
    | with_reducible apply State.modFlow_kept

theorem State.reopenWindow_kept (s : State) (st : ℕ) (h : Kept s0 s) :
    Kept s0 (State.reopenWindow s st) := by
  unfold State.reopenWindow; try dsimp only
  repeat' first
    | with_reducible assumption
    | with_reducible apply State.sendAck_kept
    | with_reducible apply kept_ite
    | with_reducible intro _
    | split

theorem State.settleStand_kept (s : State) (st : ℕ) (h : Kept s0 s) :
    Kept s0 (State.settleStand s st) := by
  unfold State.settleStand; try dsimp only
  repeat' first
    | with_reducible assumption
    | with_reducible apply State.fillPool_kept
    | with_reducible apply State.takeSamples_kept
    | with_reducible apply State.reopenWindow_kept
    | with_reducible apply State.ingestOnce_kept
    | with_reducible apply kept_ite
    | with_reducible intro _
    | split

theorem State.dropStopped_kept (s : State) (st : ℕ) (h : Kept s0 s) :
    Kept s0 (State.dropStopped s st) := by
  unfold State.dropStopped; try dsimp only
  repeat' first
    | with_reducible assumption
    | with_reducible apply State.dropSample_kept
    | with_reducible apply kept_foldl
    | with_reducible intro _

theorem State.standDeadline_kept (s : State) (k : ℕ) (st : ℕ) (h : Kept s0 s) :
    Kept s0 (State.standDeadline s k st) := by
  unfold State.standDeadline; try dsimp only
  repeat' first
    | with_reducible assumption
    | with_reducible apply State.dropSample_kept
    | with_reducible apply State.guardRows_kept
    | with_reducible apply State.event_kept
    | with_reducible apply State.signalRows_kept
    | with_reducible apply State.setBounds_kept
    | with_reducible apply State.modStand_kept
    | with_reducible apply State.carrySample_kept
    | with_reducible apply State.settleStand_kept
    | with_reducible apply State.dropStopped_kept
    | with_reducible exact List.prefix_rfl
    | with_reducible exact Nat.le_refl _
    | with_reducible exact fun h => h
    | with_reducible apply kept_ite
    | with_reducible apply kept_foldl
    | with_reducible intro _
    | split
    | with_reducible refine kept_mk ?_ ?_ ?_ ?_ ?_ ?_ ?_ ?_ ?_ ?_

theorem State.deadline_kept (s : State) (k : ℕ) (h : Kept s0 s) :
    Kept s0 (State.deadline s k) := by
  unfold State.deadline; try dsimp only
  repeat' first
    | with_reducible assumption
    | with_reducible apply State.standDeadline_kept
    | with_reducible exact List.prefix_rfl
    | with_reducible exact Nat.le_refl _
    | with_reducible exact fun h => h
    | with_reducible apply kept_ite
    | with_reducible apply kept_foldl
    | with_reducible intro _
    | with_reducible refine kept_mk ?_ ?_ ?_ ?_ ?_ ?_ ?_ ?_ ?_ ?_

theorem State.stemmed_kept (s : State) (st : ℕ) (step : ℕ) (d : Bytes) (bs : Bytes) (h : Kept s0 s) :
    Kept s0 (State.stemmed s st step d bs).2 := by
  unfold State.stemmed; try dsimp only
  repeat' first
    | with_reducible assumption
    | with_reducible apply State.modLimber_kept
    | with_reducible apply State.addTally_kept
    | with_reducible apply kept_foldl_snd
    | with_reducible intro _
    | split
    | dsimp only

theorem State.finishDecode_kept (s : State) (st : ℕ) (d : Bytes) (e : Sample) (truncated : Bool) (h : Kept s0 s) :
    Kept s0 (s.finishDecode st d e truncated) := by
  unfold State.finishDecode
  generalize s.converted d e = c
  obtain ⟨bs, segs, bad⟩ := c
  refine kept_ite (fun _ => State.dropSample_kept _ _ _ _ h) fun _ => ?_
  dsimp only
  have h1 := kept_ite (c := bad = 0) (fun _ => h) fun _ => State.addCounts_kept s (bkSrc st) e.step 0
    (if smFormat e.header = 9 ∧ bjForm d = 1 then fBF16 else fFP32) { nonFinite := bad } h
  generalize (if bad = 0 then s else _) = t at h1 ⊢
  have h2 := State.stemmed_kept t st e.step d bs h1
  generalize t.stemmed st e.step d bs = q at h2 ⊢
  obtain ⟨o, u⟩ := q
  exact kept_ite (fun _ => State.modStand_kept _ _ _ h2) fun _ => State.ingestOnce_kept _ _ _ _ _ (State.modStand_kept _ _ _ h2)

theorem State.endDecode_kept (s : State) (st : ℕ) (d : Bytes) (e : Sample) (h : Kept s0 s) :
    Kept s0 (State.endDecode s st d e) := by
  unfold State.endDecode; try dsimp only
  repeat' first
    | with_reducible assumption
    | with_reducible apply State.dropSample_kept
    | with_reducible apply State.finishDecode_kept
    | with_reducible apply kept_ite
    | with_reducible intro _
    | split

theorem State.ingestArm_kept (s : State) (h : Kept s0 s) :
    Kept s0 (State.ingestArm s) := by
  unfold State.ingestArm; try dsimp only
  repeat' first
    | with_reducible assumption
    | with_reducible apply State.dropSample_kept
    | with_reducible apply State.modStand_kept
    | with_reducible apply State.settleStand_kept
    | with_reducible apply kept_ite
    | with_reducible apply kept_foldl
    | with_reducible intro _

theorem State.ingestStop_kept (s : State) (h : Kept s0 s) :
    Kept s0 (State.ingestStop s) := by
  unfold State.ingestStop; try dsimp only
  repeat' first
    | with_reducible assumption
    | with_reducible apply State.laterReceipts_kept
    | with_reducible apply State.modStand_kept
    | with_reducible apply State.settleStand_kept
    | with_reducible apply State.dropStopped_kept
    | with_reducible exact List.prefix_rfl
    | with_reducible exact Nat.le_refl _
    | with_reducible exact fun h => h
    | with_reducible apply kept_foldl
    | with_reducible intro _
    | with_reducible refine kept_mk ?_ ?_ ?_ ?_ ?_ ?_ ?_ ?_ ?_ ?_

theorem State.openAdmit_kept (s : State) (k : ℕ) (h : Kept s0 s) :
    Kept s0 (State.openAdmit s k) := by
  unfold State.openAdmit; try dsimp only
  repeat' first
    | with_reducible assumption
    | with_reducible apply State.modStand_kept
    | with_reducible apply State.placeSample_kept
    | with_reducible exact List.prefix_rfl
    | with_reducible exact Nat.le_refl _
    | with_reducible exact fun h => h
    | with_reducible apply kept_foldl
    | with_reducible intro _
    | with_reducible refine kept_mk ?_ ?_ ?_ ?_ ?_ ?_ ?_ ?_ ?_ ?_

theorem State.writePacked_kept (s : State) (st g k i : ℕ) (d : Bytes) (r : PackRow) (h : Kept s0 s) :
    Kept s0 (s.writePacked st g k i d r) := by
  unfold State.writePacked
  generalize packedRowBytes (s.stand st) d r = p
  obtain ⟨data, marks⟩ := p
  dsimp only
  have h1 := kept_foldl (f := fun s p => match (s.stand st).sample p.1 with
      | some e => s.admitSample st k (rowKey g k) d i p.2.1 e | none => s) r.parts (fun s p h => by
        generalize (s.stand st).sample p.1 = o
        cases o with
        | none => exact h
        | some e => exact State.admitSample_kept _ _ _ _ _ _ _ _ h)
    (State.bump_kept _ (kBkRows st) 1 (State.toHbm_kept _ (s.rowSet st k d + i * rwRowBytes d + up64 (rwLength d * rwPos d)) marks
      (State.toHbm_kept _ (s.rowSet st k d + i * rwRowBytes d) data h)))
  exact kept_ite (fun _ => State.signalRows_kept _ _ _ _ _ (State.modStand_kept _ _ _ h1)) fun _ => State.modStand_kept _ _ _ h1

theorem execAdmissionDeadline_kept (s : State) (h : Kept s0 s) :
    KeptR s0 (execAdmissionDeadline s) := by
  unfold execAdmissionDeadline; try dsimp only
  repeat' first
    | with_reducible assumption
    | with_reducible apply State.deadline_kept
    | with_reducible apply kept_ite
    | with_reducible apply keptR_ite
    | with_reducible apply keptR_next
    | with_reducible intro _
    | split

theorem execDecodeBudgetExceeded_kept (stand : ℕ) (arrival : ℕ) (s : State) (h : Kept s0 s) :
    KeptR s0 (execDecodeBudgetExceeded stand arrival s) := by
  unfold execDecodeBudgetExceeded; try dsimp only
  repeat' first
    | with_reducible assumption
    | with_reducible apply State.settleStand_kept
    | with_reducible apply State.dropSample_kept
    | with_reducible apply kept_ite
    | with_reducible apply keptR_ite
    | with_reducible apply keptR_next
    | with_reducible intro _
    | split

theorem execDecodeLoad_kept (stand : ℕ) (video : ℕ) (audio : ℕ) (text : ℕ) (s : State) (h : Kept s0 s) :
    KeptR s0 (execDecodeLoad stand video audio text s) := by
  unfold execDecodeLoad; try dsimp only
  repeat' first
    | with_reducible assumption
    | with_reducible apply State.telemetry_kept
    | with_reducible exact List.prefix_rfl
    | with_reducible exact Nat.le_refl _
    | with_reducible exact fun h => h
    | with_reducible apply kept_ite
    | with_reducible apply keptR_ite
    | with_reducible apply keptR_next
    | with_reducible intro _
    | split
    | with_reducible refine kept_mk ?_ ?_ ?_ ?_ ?_ ?_ ?_ ?_ ?_ ?_

theorem execDecodeStart_kept (stand : ℕ) (cls : ℕ) (s : State) (h : Kept s0 s) :
    KeptR s0 (execDecodeStart stand cls s) := by
  unfold execDecodeStart; try dsimp only
  repeat' first
    | with_reducible assumption
    | with_reducible apply State.modStand_kept
    | with_reducible apply kept_ite
    | with_reducible apply keptR_ite
    | with_reducible apply keptR_next
    | with_reducible intro _
    | split

theorem execDecodeTurn_kept (stand : ℕ) (arrival : ℕ) (cycles : ℕ) (ends : Bool) (checks : List MemCheck) (s : State) (h : Kept s0 s) :
    KeptR s0 (execDecodeTurn stand arrival cycles ends checks s) := by
  unfold execDecodeTurn; try dsimp only
  repeat' first
    | with_reducible assumption
    | with_reducible apply State.checked_kept
    | with_reducible apply State.bump_kept
    | with_reducible apply State.modStand_kept
    | with_reducible apply State.settleStand_kept
    | with_reducible apply State.endDecode_kept
    | with_reducible apply kept_ite
    | with_reducible apply keptR_ite
    | with_reducible apply keptR_next
    | with_reducible refine kept_of_snd (by assumption) ?_
    | with_reducible intro _
    | split

theorem execGuardPoint_kept (stand : ℕ) (geom : ℕ) (s : State) (h : Kept s0 s) :
    KeptR s0 (execGuardPoint stand geom s) := by
  unfold execGuardPoint; try dsimp only
  repeat' first
    | with_reducible assumption
    | with_reducible apply State.guardRows_kept
    | with_reducible apply kept_ite
    | with_reducible apply keptR_ite
    | with_reducible apply keptR_next
    | with_reducible intro _
    | split

theorem execOutputComplete_kept (stand : ℕ) (arrival : ℕ) (checks : List MemCheck) (s : State) (h : Kept s0 s) :
    KeptR s0 (execOutputComplete stand arrival checks s) := by
  unfold execOutputComplete; try dsimp only
  repeat' first
    | with_reducible assumption
    | with_reducible apply State.checked_kept
    | with_reducible apply State.settleStand_kept
    | with_reducible apply State.dropSample_kept
    | with_reducible apply State.modStand_kept
    | with_reducible apply State.placeSample_kept
    | with_reducible apply kept_ite
    | with_reducible apply keptR_ite
    | with_reducible apply keptR_next
    | with_reducible refine kept_of_snd (by assumption) ?_
    | with_reducible intro _
    | split

theorem execRowWriteComplete_kept (stand : ℕ) (geom : ℕ) (checks : List MemCheck) (s : State) (h : Kept s0 s) :
    KeptR s0 (execRowWriteComplete stand geom checks s) := by
  unfold execRowWriteComplete; try dsimp only
  repeat' first
    | with_reducible assumption
    | with_reducible apply State.checked_kept
    | with_reducible apply State.settleStand_kept
    | with_reducible apply State.writePacked_kept
    | with_reducible apply kept_ite
    | with_reducible apply keptR_ite
    | with_reducible apply keptR_next
    | with_reducible refine kept_of_snd (by assumption) ?_
    | with_reducible intro _
    | split

end Sys2Proof.Machine
end

