-- ==== Sys2Proof/Laws/KeptRestart.lean ====
section
/-! SUPPORT. What the operations of Machine/Restart.lean keep. -/

namespace Sys2Proof.Machine

variable {s0 : State}

theorem State.closeRestoreFlow_kept (s : State) (f : Option ℕ) (h : Kept s0 s) :
    Kept s0 (State.closeRestoreFlow s f) := by
  unfold State.closeRestoreFlow; try dsimp only
  repeat' first
    | with_reducible assumption
    | with_reducible apply State.closeWith_kept
    | split

theorem State.modRestore_kept (s : State) (f : Restore → Restore) (h : Kept s0 s) :
    Kept s0 (State.modRestore s f) := by
  unfold State.modRestore; try dsimp only
  repeat' first
    | with_reducible assumption
    | with_reducible exact List.prefix_rfl
    | with_reducible exact Nat.le_refl _
    | with_reducible exact fun h => h
    | with_reducible refine kept_mk ?_ ?_ ?_ ?_ ?_ ?_ ?_ ?_ ?_ ?_

theorem State.abandonRestore_kept (s : State) (cause : ℕ) (h : Kept s0 s) :
    Kept s0 (State.abandonRestore s cause) := by
  unfold State.abandonRestore; try dsimp only
  repeat' first
    | with_reducible assumption
    | with_reducible apply State.closeRestoreFlow_kept
    | with_reducible apply State.event_kept
    | with_reducible apply State.modRestore_kept

theorem State.askRestore_kept (s : State) (h : Kept s0 s) :
    Kept s0 (State.askRestore s) := by
  unfold State.askRestore; try dsimp only
  repeat' first
    | with_reducible assumption
    | with_reducible apply State.sendTo_kept
    | with_reducible apply State.modRestore_kept
    | with_reducible apply kept_ite
    | with_reducible intro _

theorem State.extentIn_kept (s : State) (h : Kept s0 s) : KeptP s0 s.extentIn := by
  unfold State.extentIn; dsimp only
  refine keptP_ite (fun _ => keptP_none) fun _ => keptP_ite (fun _ => ?_) fun _ => keptP_ite (fun _ => ?_) fun _ =>
    keptP_ite (fun _ => keptP_some h) fun _ => keptP_none
  · generalize s.localSource = o
    cases o with
    | none => exact keptP_none
    | some x =>
      exact keptP_some (State.modRestore_kept _ _ (kept_mem h (foldl_wf _ _ _ (fun m p w => putCells_wf _ _ _ _ w))))
  · refine keptP_ite (fun _ => keptP_some (kept_mem h (foldl_wf _ _ _ (fun m p w => ?_)))) fun _ => keptP_none
    exact writeBytes_wf _ _ _ w

theorem State.finishRestore_kept (s : State) (h : Kept s0 s) :
    Kept s0 (State.finishRestore s) := by
  unfold State.finishRestore; try dsimp only
  repeat' first
    | with_reducible assumption
    | with_reducible apply State.event_kept
    | with_reducible apply State.modRestore_kept

theorem State.goRestore_kept (s : State) (h : Kept s0 s) :
    Kept s0 (State.goRestore s) := by
  unfold State.goRestore; try dsimp only
  repeat' first
    | with_reducible assumption
    | with_reducible apply State.floodPorts_kept
    | with_reducible apply State.modRestore_kept
    | with_reducible apply State.abandonRestore_kept
    | with_reducible apply State.finishRestore_kept
    | with_reducible apply State.askRestore_kept
    | with_reducible apply kept_ite
    | with_reducible intro _

theorem State.interruptRestore_kept (s : State) (h : Kept s0 s) :
    Kept s0 (State.interruptRestore s) := by
  unfold State.interruptRestore; try dsimp only
  repeat' first
    | with_reducible assumption
    | with_reducible apply State.event_kept
    | with_reducible apply State.modRestore_kept

theorem State.imageEnd_kept (s : State) (h : Kept s0 s) :
    Kept s0 (State.imageEnd s) := by
  unfold State.imageEnd; try dsimp only
  repeat' first
    | with_reducible assumption
    | with_reducible apply State.finishRestore_kept
    | with_reducible apply State.modRestore_kept
    | with_reducible apply State.interruptRestore_kept
    | with_reducible apply kept_ite
    | with_reducible intro _

theorem State.imageBytesIn_kept (s : State) (bs : Bytes) (h : Kept s0 s) :
    Kept s0 (State.imageBytesIn s bs) := by
  unfold State.imageBytesIn; try dsimp only
  repeat' first
    | with_reducible assumption
    | with_reducible apply State.modRestore_kept
    | with_reducible apply State.imageEnd_kept
    | with_reducible apply State.abandonRestore_kept
    | with_reducible apply kept_ite
    | with_reducible intro _

theorem State.peerFailed_kept (s : State) (m : ℕ) (h : Kept s0 s) :
    Kept s0 (State.peerFailed s m) := by
  unfold State.peerFailed; try dsimp only
  repeat' first
    | with_reducible assumption
    | with_reducible apply State.abandonRestore_kept
    | with_reducible apply State.interruptRestore_kept
    | with_reducible apply kept_ite
    | with_reducible intro _

theorem State.restoreCommand_kept (s : State) (q : Req) (n : ℕ) (act : State → Answer)(hact : ∀ s , Kept s0 s → KeptA s0 (act s )) (h : Kept s0 s) :
    Kept s0 (State.restoreCommand s q n act) := by
  unfold State.restoreCommand; try dsimp only
  repeat' first
    | with_reducible assumption
    | with_reducible apply State.serveWrite_kept
    | with_reducible apply hact
    | with_reducible apply kept_ite
    | with_reducible apply keptA_ite
    | with_reducible intro _

theorem State.sendChunk_kept (s : State) (dst : ℕ) (e : ℕ) (c : ℕ) (bs : Bytes) (h : Kept s0 s) :
    Kept s0 (State.sendChunk s dst e c bs) := by
  unfold State.sendChunk; try dsimp only
  repeat' first
    | with_reducible assumption
    | with_reducible apply State.sendTo_kept

theorem State.sendExtent_kept (s : State) (dst : ℕ) (e : ℕ) (pages : List (ℕ × ℕ × List (ℕ × Byte))) (h : Kept s0 s) :
    Kept s0 (State.sendExtent s dst e pages) := by
  unfold State.sendExtent; try dsimp only
  repeat' first
    | with_reducible assumption
    | with_reducible apply State.sendChunk_kept
    | with_reducible apply kept_foldl
    | with_reducible intro _
    | split

theorem execRestoreData_kept (m : Msg) (s : State) (h : Kept s0 s) :
    KeptR s0 (execRestoreData m s) := by
  unfold execRestoreData; try dsimp only
  repeat' first
    | with_reducible assumption
    | with_reducible apply State.taken_kept
    | with_reducible apply State.modRestore_kept
    | with_reducible exact List.prefix_rfl
    | with_reducible exact Nat.le_refl _
    | with_reducible exact fun h => h
    | with_reducible apply kept_ite
    | with_reducible apply keptR_ite
    | with_reducible apply keptR_next
    | exact fun w => writeBytes_wf _ _ _ w
    | exact writeBytes_wf _ _ _ ‹_›
    | with_reducible intro _
    | with_reducible refine kept_mk ?_ ?_ ?_ ?_ ?_ ?_ ?_ ?_ ?_ ?_

theorem execRestoreExtentVerified_kept (check : List MemCheck) (s : State) (h : Kept s0 s) :
    KeptR s0 (execRestoreExtentVerified check s) := by
  unfold execRestoreExtentVerified
  refine keptR_next ?_
  have h1 := State.extentIn_kept s h
  generalize s.extentIn = o at h1 ⊢
  cases o with
  | none => exact h
  | some x =>
    obtain ⟨manifest, t⟩ := x
    dsimp only
    have h2 := State.checked_kept t check (h1 _ rfl)
    generalize t.checked check = p at h2 ⊢
    obtain ⟨ok, u⟩ := p
    dsimp only at h2 ⊢
    refine kept_ite (fun _ => h2) fun _ => kept_ite (fun _ => State.abandonRestore_kept _ _ h2) fun _ => kept_ite (fun _ => ?_) fun _ =>
      kept_ite (fun _ => State.askRestore_kept _ (State.modRestore_kept _ _ h2)) fun _ => State.abandonRestore_kept _ _ h2
    have h3 := fun f => State.modRestore_kept u f h2
    exact kept_ite (fun _ => State.imageEnd_kept _ (h3 _)) fun _ => kept_ite (fun _ => State.finishRestore_kept _ (h3 _)) fun _ => h3 _

theorem execRestoreGoStart_kept (q : Req) (s : State) (h : Kept s0 s) :
    KeptR s0 (execRestoreGoStart q s) := by
  unfold execRestoreGoStart; try dsimp only
  repeat' first
    | with_reducible assumption
    | with_reducible apply State.restoreCommand_kept
    | with_reducible apply refuse_kept
    | with_reducible apply accept_kept
    | with_reducible apply State.goRestore_kept
    | with_reducible apply kept_ite
    | with_reducible apply keptR_ite
    | with_reducible apply keptA_ite
    | with_reducible apply keptR_next
    | with_reducible apply keptA_refuse
    | with_reducible apply keptA_accept
    | with_reducible intro _

theorem execRestoreGoStop_kept (q : Req) (s : State) (h : Kept s0 s) :
    KeptR s0 (execRestoreGoStop q s) := by
  unfold execRestoreGoStop; try dsimp only
  repeat' first
    | with_reducible assumption
    | with_reducible apply State.restoreCommand_kept
    | with_reducible apply accept_kept
    | with_reducible apply State.abandonRestore_kept
    | with_reducible apply kept_ite
    | with_reducible apply keptR_ite
    | with_reducible apply keptA_ite
    | with_reducible apply keptR_next
    | with_reducible apply keptA_accept
    | with_reducible intro _

theorem execRestoreRead_kept (m : Msg) (s : State) (h : Kept s0 s) :
    KeptR s0 (execRestoreRead m s) := by
  unfold execRestoreRead; try dsimp only
  repeat' first
    | with_reducible assumption
    | with_reducible apply State.taken_kept
    | with_reducible apply State.sendTo_kept
    | with_reducible apply State.sendExtent_kept
    | with_reducible apply kept_ite
    | with_reducible apply keptR_ite
    | with_reducible apply keptR_next
    | with_reducible apply kept_foldl
    | with_reducible intro _
    | split

theorem execRestoreRefused_kept (m : Msg) (s : State) (h : Kept s0 s) :
    KeptR s0 (execRestoreRefused m s) := by
  unfold execRestoreRefused; try dsimp only
  repeat' first
    | with_reducible assumption
    | with_reducible apply State.taken_kept
    | with_reducible apply State.abandonRestore_kept
    | with_reducible apply kept_ite
    | with_reducible apply keptR_ite
    | with_reducible apply keptR_next
    | with_reducible intro _

theorem execRestoreStep_kept (q : Req) (s : State) (h : Kept s0 s) :
    KeptR s0 (execRestoreStep q s) := by
  unfold execRestoreStep; try dsimp only
  repeat' first
    | with_reducible assumption
    | with_reducible apply accept_kept
    | with_reducible apply State.closeRestoreFlow_kept
    | with_reducible apply State.modRestore_kept
    | with_reducible apply State.putValue_kept
    | with_reducible apply State.serveWrite_kept
    | with_reducible apply refuse_kept
    | with_reducible apply kept_ite
    | with_reducible apply keptR_ite
    | with_reducible apply keptA_ite
    | with_reducible apply keptR_next
    | with_reducible apply keptA_refuse
    | with_reducible apply keptA_accept
    | with_reducible intro _

end Sys2Proof.Machine
end

