-- ==== Sys2Proof/Laws/KeptBulk.lean ====
section
/-! SUPPORT. What the operations of Machine/Bulk.lean keep. -/

namespace Sys2Proof.Machine

variable {s0 : State}

theorem State.bulkNak_kept (s : State) (f : Flow) (missing : List ℕ) (h : Kept s0 s) :
    Kept s0 (State.bulkNak s f missing) := by
  unfold State.bulkNak; try dsimp only
  repeat' first
    | with_reducible assumption
    | with_reducible apply State.sendHost_kept
    | with_reducible apply State.bump_kept
    | with_reducible apply kept_ite
    | with_reducible intro _

theorem State.badBlock_kept (s : State) (f : Flow) (block : ℕ) (h : Kept s0 s) :
    Kept s0 (State.badBlock s f block) := by
  unfold State.badBlock; try dsimp only
  repeat' first
    | with_reducible assumption
    | with_reducible apply State.bump_kept
    | with_reducible apply State.bulkNak_kept
    | with_reducible apply State.modFlow_kept
    | with_reducible apply State.closeFlow_kept
    | with_reducible apply State.event_kept
    | with_reducible exact List.prefix_rfl
    | with_reducible exact Nat.le_refl _
    | with_reducible exact fun h => h
    | with_reducible exact hostOk_of rfl rfl
    | with_reducible apply kept_ite
    | with_reducible intro _
    | with_reducible refine kept_mk ?_ ?_ ?_ ?_ ?_ ?_ ?_ ?_ ?_ ?_

theorem State.closeAck_kept (s : State) (f : Flow) (code : ℕ) (h : Kept s0 s) :
    Kept s0 (State.closeAck s f code) := by
  unfold State.closeAck; try dsimp only
  repeat' first
    | with_reducible assumption
    | with_reducible apply State.sendHost_kept
    | with_reducible exact List.prefix_rfl
    | with_reducible exact Nat.le_refl _
    | with_reducible exact fun h => h
    | with_reducible exact hostOk_of rfl rfl
    | with_reducible refine kept_mk ?_ ?_ ?_ ?_ ?_ ?_ ?_ ?_ ?_ ?_

theorem State.finishFlow_kept (s : State) (f : Flow) (flash : FlashReport) (h : Kept s0 s) :
    Kept s0 (State.finishFlow s f flash) := by
  unfold State.finishFlow; try dsimp only
  repeat' first
    | with_reducible assumption
    | with_reducible apply State.flashWrite_kept
    | with_reducible apply State.closeAck_kept
    | with_reducible apply State.setFormats_kept
    | with_reducible apply State.flowLost_kept
    | with_reducible apply State.modFwSlot_kept
    | with_reducible apply State.romAgain_kept
    | with_reducible apply State.putTrial_kept
    | with_reducible exact List.prefix_rfl
    | with_reducible exact Nat.le_refl _
    | with_reducible exact fun h => h
    | with_reducible exact hostOk_of rfl rfl
    | with_reducible apply kept_ite
    | with_reducible intro _
    | split
    | with_reducible refine kept_mk ?_ ?_ ?_ ?_ ?_ ?_ ?_ ?_ ?_ ?_

theorem State.heard_kept (s : State) (id : ℕ) (h : Kept s0 s) :
    Kept s0 (State.heard s id) := by
  unfold State.heard; try dsimp only
  repeat' first
    | with_reducible assumption
    | with_reducible apply State.modFlow_kept

theorem State.onFlow_kept (s : State) (id : ℕ) (f : State → Flow → State)(hf : ∀ s y0, Kept s0 s → Kept s0 (f s y0)) (h : Kept s0 s) :
    KeptR s0 (State.onFlow s id f) := by
  unfold State.onFlow; try dsimp only
  repeat' first
    | with_reducible assumption
    | with_reducible apply State.rxFrame_kept
    | with_reducible apply hf
    | with_reducible apply keptR_next
    | split

theorem State.pumpBytes_kept (s : State) (id : ℕ) (bs : Bytes) (fuel : ℕ) (h : Kept s0 s) : Kept s0 (s.pumpBytes id bs fuel) := by
  induction fuel generalizing s with
  | zero => exact h
  | succ n ih =>
    unfold State.pumpBytes
    split
    · exact h
    · exact kept_ite (fun _ => h) fun _ => kept_ite (fun _ => kept_ite (fun _ => h) fun _ => kept_ite
        (fun _ => State.abandonCheckpoint_kept _ h) fun _ => ih _ (State.sendBlock_kept _ _ _ h)) fun _ =>
        State.sendHost_kept _ _ (State.modFlow_kept _ _ _ h)

theorem State.pumpFlow_kept (s : State) (id : ℕ) (h : Kept s0 s) :
    Kept s0 (State.pumpFlow s id) := by
  unfold State.pumpFlow; try dsimp only
  repeat' first
    | with_reducible assumption
    | with_reducible apply State.pumpBytes_kept
    | split

theorem State.resendBlocks_kept (s : State) (f : Flow) (bs : List (ℕ × Bytes)) (h : Kept s0 s) :
    Kept s0 (State.resendBlocks s f bs) := by
  unfold State.resendBlocks; try dsimp only
  repeat' first
    | with_reducible assumption
    | with_reducible apply State.sendHost_kept
    | with_reducible apply State.touch_kept
    | with_reducible apply State.bump_kept
    | with_reducible apply kept_foldl
    | with_reducible intro _

theorem State.takeBytes_kept (s : State) (id : ℕ) (h : Kept s0 s) :
    Kept s0 (State.takeBytes s id) := by
  unfold State.takeBytes; try dsimp only
  repeat' first
    | with_reducible assumption
    | with_reducible apply State.settleStand_kept
    | with_reducible apply State.closeWith_kept
    | with_reducible apply State.imageBytesIn_kept
    | with_reducible apply State.modFlow_kept
    | with_reducible apply kept_ite
    | with_reducible intro _
    | split

theorem State.tryFinish_kept (s : State) (id : ℕ) (flash : FlashReport) (h : Kept s0 s) :
    Kept s0 (State.tryFinish s id flash) := by
  unfold State.tryFinish; try dsimp only
  repeat' first
    | with_reducible assumption
    | with_reducible apply State.finishFlow_kept
    | with_reducible apply kept_ite
    | with_reducible intro _
    | split

theorem execAckTimer_kept (flow : ℕ) (s : State) (h : Kept s0 s) :
    KeptR s0 (execAckTimer flow s) := by
  unfold execAckTimer; try dsimp only
  repeat' first
    | with_reducible assumption
    | with_reducible apply State.sendAck_kept
    | with_reducible apply kept_ite
    | with_reducible apply keptR_ite
    | with_reducible apply keptR_next
    | with_reducible intro _
    | split

theorem execBulkAck_kept (flow : ℕ) (block : ℕ) (window : ℕ) (checks : List MemCheck) (s : State) (h : Kept s0 s) :
    KeptR s0 (execBulkAck flow block window checks s) := by
  unfold execBulkAck; try dsimp only
  repeat' first
    | with_reducible assumption
    | with_reducible apply State.onFlow_kept
    | with_reducible apply State.modFlow_kept
    | with_reducible apply State.heard_kept
    | with_reducible apply State.checked_kept
    | with_reducible apply State.pumpFlow_kept
    | with_reducible apply kept_ite
    | with_reducible apply keptR_ite
    | with_reducible apply keptR_next
    | with_reducible refine kept_of_snd (by assumption) ?_
    | with_reducible intro _
    | split

theorem execBulkClose_kept (flow : ℕ) (blocks : ℕ) (flash : FlashReport) (s : State) (h : Kept s0 s) :
    KeptR s0 (execBulkClose flow blocks flash s) := by
  unfold execBulkClose; try dsimp only
  repeat' first
    | with_reducible assumption
    | with_reducible apply State.onFlow_kept
    | with_reducible apply State.sendHost_kept
    | with_reducible apply State.closeFlow_kept
    | with_reducible apply State.modFlow_kept
    | with_reducible apply State.heard_kept
    | with_reducible apply State.tryFinish_kept
    | with_reducible apply State.bulkNak_kept
    | with_reducible apply kept_ite
    | with_reducible apply keptR_ite
    | with_reducible apply keptR_next
    | with_reducible intro _

theorem execBulkCloseAck_kept (flow : ℕ) (code : ℕ) (s : State) (h : Kept s0 s) :
    KeptR s0 (execBulkCloseAck flow code s) := by
  unfold execBulkCloseAck; try dsimp only
  repeat' first
    | with_reducible assumption
    | with_reducible apply State.onFlow_kept
    | with_reducible apply State.closeFlow_kept
    | with_reducible apply State.event_kept
    | with_reducible apply State.bump_kept
    | with_reducible apply State.endCheckpoint_kept
    | with_reducible apply kept_ite
    | with_reducible apply keptR_ite
    | with_reducible apply keptR_next
    | with_reducible intro _
    | split

theorem execBulkData_kept (flow : ℕ) (block : ℕ) (body : Bytes) (crc : ℕ) (flash : FlashReport) (s : State) (h : Kept s0 s) :
    KeptR s0 (execBulkData flow block body crc flash s) := by
  unfold execBulkData; try dsimp only
  repeat' first
    | with_reducible assumption
    | with_reducible apply State.onFlow_kept
    | with_reducible apply State.badBlock_kept
    | with_reducible apply State.touch_kept
    | with_reducible apply State.heard_kept
    | with_reducible apply State.modFlow_kept
    | with_reducible apply State.takeBytes_kept
    | with_reducible apply State.bulkNak_kept
    | with_reducible apply State.sendAck_kept
    | with_reducible apply State.tryFinish_kept
    | with_reducible apply kept_ite
    | with_reducible apply keptR_ite
    | with_reducible apply keptR_next
    | with_reducible intro _
    | split

theorem execBulkFlowTimeout_kept (flow : ℕ) (s : State) (h : Kept s0 s) :
    KeptR s0 (execBulkFlowTimeout flow s) := by
  unfold execBulkFlowTimeout; try dsimp only
  repeat' first
    | with_reducible assumption
    | with_reducible apply State.closeFlow_kept
    | with_reducible apply State.event_kept
    | with_reducible apply kept_ite
    | with_reducible apply keptR_ite
    | with_reducible apply keptR_next
    | with_reducible intro _
    | split

theorem execBulkNak_kept (flow : ℕ) (blocks : List ℕ) (s : State) (h : Kept s0 s) :
    KeptR s0 (execBulkNak flow blocks s) := by
  unfold execBulkNak; try dsimp only
  repeat' first
    | with_reducible assumption
    | with_reducible apply State.onFlow_kept
    | with_reducible apply State.resendBlocks_kept
    | with_reducible apply State.heard_kept
    | with_reducible apply kept_ite
    | with_reducible apply keptR_ite
    | with_reducible apply keptR_next
    | with_reducible intro _

theorem execBulkOpen_kept (addr : Bytes) (session : ℕ) (channel : ℕ) (sub : ℕ) (s : State) (h : Kept s0 s) :
    KeptR s0 (execBulkOpen addr session channel sub s) := by
  unfold execBulkOpen; try dsimp only
  repeat' first
    | with_reducible assumption
    | with_reducible apply State.rxFrame_kept
    | with_reducible apply State.sendHost_kept
    | with_reducible apply State.setFormats_kept
    | with_reducible apply State.modRestore_kept
    | with_reducible exact List.prefix_rfl
    | with_reducible exact Nat.le_refl _
    | with_reducible exact fun h => h
    | with_reducible exact hostOk_of rfl rfl
    | with_reducible apply kept_ite
    | with_reducible apply keptR_ite
    | with_reducible apply keptR_next
    | with_reducible intro _
    | split
    | with_reducible refine kept_mk ?_ ?_ ?_ ?_ ?_ ?_ ?_ ?_ ?_ ?_

theorem execBulkOpenAck_kept (flow : ℕ) (code : ℕ) (s : State) (h : Kept s0 s) :
    KeptR s0 (execBulkOpenAck flow code s) := by
  unfold execBulkOpenAck; try dsimp only
  repeat' first
    | with_reducible assumption
    | with_reducible apply State.onFlow_kept
    | with_reducible apply State.heard_kept
    | with_reducible apply State.closeFlow_kept
    | with_reducible apply kept_ite
    | with_reducible apply keptR_ite
    | with_reducible apply keptR_next
    | with_reducible intro _

theorem execCheckpointSkipped_kept (s : State) (h : Kept s0 s) :
    KeptR s0 (execCheckpointSkipped s) := by
  unfold execCheckpointSkipped; try dsimp only
  repeat' first
    | with_reducible assumption
    | with_reducible apply State.event_kept
    | with_reducible apply State.endCheckpoint_kept
    | with_reducible exact List.prefix_rfl
    | with_reducible exact Nat.le_refl _
    | with_reducible exact fun h => h
    | with_reducible apply kept_ite
    | with_reducible apply keptR_ite
    | with_reducible apply keptR_next
    | with_reducible intro _
    | with_reducible refine kept_mk ?_ ?_ ?_ ?_ ?_ ?_ ?_ ?_ ?_ ?_

theorem execResendTimer_kept (flow : ℕ) (s : State) (h : Kept s0 s) :
    KeptR s0 (execResendTimer flow s) := by
  unfold execResendTimer; try dsimp only
  repeat' first
    | with_reducible assumption
    | with_reducible apply State.resendBlocks_kept
    | with_reducible apply State.modFlow_kept
    | with_reducible apply kept_ite
    | with_reducible apply keptR_ite
    | with_reducible apply keptR_next
    | with_reducible intro _
    | split

end Sys2Proof.Machine
end

