-- ==== Sys2Proof/Laws/KeptPower.lean ====
section
/-! SUPPORT. What the operations of Machine/Power.lean keep. -/

namespace Sys2Proof.Machine

variable {s0 : State}

theorem State.accrueStretch_kept (s : State) (h : Kept s0 s) :
    Kept s0 (State.accrueStretch s) := by
  unfold State.accrueStretch; try dsimp only
  repeat' first
    | with_reducible assumption
    | with_reducible apply State.bump_kept
    | with_reducible exact List.prefix_rfl
    | with_reducible exact Nat.le_refl _
    | with_reducible exact fun h => h
    | with_reducible apply kept_ite
    | with_reducible apply kept_foldl
    | with_reducible intro _
    | with_reducible refine kept_mk ?_ ?_ ?_ ?_ ?_ ?_ ?_ ?_ ?_ ?_

theorem State.hardNotice_kept (s : State) (code : ℕ) (h : Kept s0 s) :
    Kept s0 (State.hardNotice s code) := by
  unfold State.hardNotice; try dsimp only
  repeat' first
    | with_reducible assumption
    | with_reducible apply State.sendOn_kept
    | with_reducible apply kept_foldl
    | with_reducible intro _

theorem State.noteInputs_kept (s : State) (main : ℕ) (backup : ℕ) (h : Kept s0 s) :
    Kept s0 (State.noteInputs s main backup) := by
  unfold State.noteInputs; try dsimp only
  repeat' first
    | with_reducible assumption
    | with_reducible exact List.prefix_rfl
    | with_reducible exact Nat.le_refl _
    | with_reducible exact fun h => h
    | with_reducible refine kept_mk ?_ ?_ ?_ ?_ ?_ ?_ ?_ ?_ ?_ ?_

theorem State.noteTemp_kept (s : State) (sensor : ℕ) (t : ℕ) (h : Kept s0 s) :
    Kept s0 (State.noteTemp s sensor t) := by
  unfold State.noteTemp; try dsimp only
  repeat' first
    | with_reducible assumption
    | with_reducible exact List.prefix_rfl
    | with_reducible exact Nat.le_refl _
    | with_reducible exact fun h => h
    | with_reducible refine kept_mk ?_ ?_ ?_ ?_ ?_ ?_ ?_ ?_ ?_ ?_

theorem State.restretch_kept (s : State) (h : Kept s0 s) :
    Kept s0 (State.restretch s) := by
  unfold State.restretch; try dsimp only
  repeat' first
    | with_reducible assumption
    | with_reducible apply State.modInst_kept
    | with_reducible apply State.accrueStretch_kept
    | with_reducible apply kept_ite
    | with_reducible apply kept_foldl
    | with_reducible intro _

theorem State.switchFeed_kept (s : State) (back : Bool) (h : Kept s0 s) :
    Kept s0 (State.switchFeed s back) := by
  unfold State.switchFeed; try dsimp only
  repeat' first
    | with_reducible assumption
    | with_reducible apply State.restretch_kept
    | with_reducible exact List.prefix_rfl
    | with_reducible exact Nat.le_refl _
    | with_reducible exact fun h => h
    | with_reducible refine kept_mk ?_ ?_ ?_ ?_ ?_ ?_ ?_ ?_ ?_ ?_

theorem execClockSwitchDone_kept (inst : ℕ) (s : State) (h : Kept s0 s) :
    KeptR s0 (execClockSwitchDone inst s) := by
  unfold execClockSwitchDone; try dsimp only
  repeat' first
    | with_reducible assumption
    | with_reducible apply State.modInst_kept
    | with_reducible apply keptR_next
    | split

theorem execCoolantDeltaHigh_kept (inlet : ℕ) (outlet : ℕ) (s : State) (h : Kept s0 s) :
    KeptR s0 (execCoolantDeltaHigh inlet outlet s) := by
  unfold execCoolantDeltaHigh; try dsimp only
  repeat' first
    | with_reducible assumption
    | with_reducible apply State.event_kept
    | with_reducible exact List.prefix_rfl
    | with_reducible exact Nat.le_refl _
    | with_reducible exact fun h => h
    | with_reducible apply kept_ite
    | with_reducible apply keptR_ite
    | with_reducible apply keptR_next
    | with_reducible intro _
    | with_reducible refine kept_mk ?_ ?_ ?_ ?_ ?_ ?_ ?_ ?_ ?_ ?_

theorem execEnvironmentRecord_kept (s : State) (h : Kept s0 s) :
    KeptR s0 (execEnvironmentRecord s) := by
  unfold execEnvironmentRecord; try dsimp only
  repeat' first
    | with_reducible assumption
    | with_reducible apply State.telemetry_kept
    | with_reducible exact List.prefix_rfl
    | with_reducible exact Nat.le_refl _
    | with_reducible exact fun h => h
    | with_reducible apply kept_ite
    | with_reducible apply keptR_ite
    | with_reducible apply keptR_next
    | with_reducible apply kept_foldl
    | with_reducible intro _
    | with_reducible refine kept_mk ?_ ?_ ?_ ?_ ?_ ?_ ?_ ?_ ?_ ?_

theorem execFeedBackupLow_kept (mv : ℕ) (s : State) (h : Kept s0 s) :
    KeptR s0 (execFeedBackupLow mv s) := by
  unfold execFeedBackupLow; try dsimp only
  repeat' first
    | with_reducible assumption
    | with_reducible apply State.noteInputs_kept
    | with_reducible apply State.event_kept
    | with_reducible exact List.prefix_rfl
    | with_reducible exact Nat.le_refl _
    | with_reducible exact fun h => h
    | with_reducible apply kept_ite
    | with_reducible apply keptR_ite
    | with_reducible apply keptR_next
    | with_reducible intro _
    | with_reducible refine kept_mk ?_ ?_ ?_ ?_ ?_ ?_ ?_ ?_ ?_ ?_

theorem execMonitorSample_kept (r : MonitorReport) (s : State) (h : Kept s0 s) :
    KeptR s0 (execMonitorSample r s) := by
  unfold execMonitorSample; try dsimp only
  repeat' first
    | with_reducible assumption
    | with_reducible apply State.noteInputs_kept
    | with_reducible apply State.noteTemp_kept
    | with_reducible apply State.modInst_kept
    | with_reducible apply State.fault_kept
    | with_reducible exact List.prefix_rfl
    | with_reducible exact Nat.le_refl _
    | with_reducible exact fun h => h
    | with_reducible exact safeOk_of rfl rfl
    | with_reducible apply keptR_next
    | with_reducible apply kept_foldl
    | with_reducible intro _
    | with_reducible refine kept_mk ?_ ?_ ?_ ?_ ?_ ?_ ?_ ?_ ?_ ?_

theorem execPllLockLoss_kept (inst : ℕ) (pllB : Bool) (s : State) (h : Kept s0 s) :
    KeptR s0 (execPllLockLoss inst pllB s) := by
  unfold execPllLockLoss; try dsimp only
  repeat' first
    | with_reducible assumption
    | with_reducible apply State.modInst_kept
    | with_reducible apply State.event_kept
    | with_reducible apply State.bump_kept
    | with_reducible apply State.beginSwitch_kept
    | with_reducible apply State.fault_kept
    | with_reducible apply kept_ite
    | with_reducible apply keptR_ite
    | with_reducible apply keptR_next
    | with_reducible intro _

theorem execPowerSample_kept (watts : ℕ) (s : State) (h : Kept s0 s) :
    KeptR s0 (execPowerSample watts s) := by
  unfold execPowerSample; try dsimp only
  repeat' first
    | with_reducible assumption
    | with_reducible apply State.restretch_kept
    | with_reducible apply State.eventOnce_kept
    | with_reducible exact List.prefix_rfl
    | with_reducible exact Nat.le_refl _
    | with_reducible exact fun h => h
    | with_reducible apply kept_ite
    | with_reducible apply keptR_ite
    | with_reducible apply keptR_next
    | with_reducible intro _
    | with_reducible refine kept_mk ?_ ?_ ?_ ?_ ?_ ?_ ?_ ?_ ?_ ?_

theorem execReturnToMain_kept (main : ℕ) (s : State) (h : Kept s0 s) :
    KeptR s0 (execReturnToMain main s) := by
  unfold execReturnToMain; try dsimp only
  repeat' first
    | with_reducible assumption
    | with_reducible apply State.noteInputs_kept
    | with_reducible apply State.switchFeed_kept
    | with_reducible apply kept_ite
    | with_reducible apply keptR_ite
    | with_reducible apply keptR_next
    | with_reducible intro _

theorem execStandbyRelock_kept (inst : ℕ) (pllB : Bool) (ok : Bool) (s : State) (h : Kept s0 s) :
    KeptR s0 (execStandbyRelock inst pllB ok s) := by
  unfold execStandbyRelock; try dsimp only
  repeat' first
    | with_reducible assumption
    | with_reducible apply State.modInst_kept
    | with_reducible apply kept_ite
    | with_reducible apply keptR_ite
    | with_reducible apply keptR_next
    | with_reducible intro _

theorem execStretchStepDown_kept (inst : ℕ) (s : State) (h : Kept s0 s) :
    KeptR s0 (execStretchStepDown inst s) := by
  unfold execStretchStepDown; try dsimp only
  repeat' first
    | with_reducible assumption
    | with_reducible apply State.modInst_kept
    | with_reducible apply State.accrueStretch_kept
    | with_reducible exact List.prefix_rfl
    | with_reducible exact Nat.le_refl _
    | with_reducible exact fun h => h
    | with_reducible apply kept_ite
    | with_reducible apply keptR_ite
    | with_reducible apply keptR_next
    | with_reducible intro _
    | with_reducible refine kept_mk ?_ ?_ ?_ ?_ ?_ ?_ ?_ ?_ ?_ ?_

theorem execSupplyLost_kept (main : ℕ) (backup : ℕ) (s : State) (h : Kept s0 s) :
    KeptR s0 (execSupplyLost main backup s) := by
  unfold execSupplyLost; try dsimp only
  repeat' first
    | with_reducible assumption
    | with_reducible apply State.noteInputs_kept
    | with_reducible apply State.restarted_kept
    | with_reducible apply State.hardNotice_kept
    | with_reducible apply State.fault_kept
    | with_reducible apply kept_ite
    | with_reducible apply keptR_ite
    | with_reducible apply keptR_next
    | with_reducible intro _

theorem execSwitchOverComplete_kept (s : State) (h : Kept s0 s) :
    KeptR s0 (execSwitchOverComplete s) := by
  unfold execSwitchOverComplete; try dsimp only
  repeat' first
    | with_reducible assumption
    | with_reducible apply State.event_kept
    | with_reducible apply State.bump_kept
    | with_reducible apply State.stress_kept
    | with_reducible exact List.prefix_rfl
    | with_reducible exact Nat.le_refl _
    | with_reducible exact fun h => h
    | with_reducible apply kept_ite
    | with_reducible apply keptR_ite
    | with_reducible apply keptR_next
    | with_reducible intro _
    | with_reducible refine kept_mk ?_ ?_ ?_ ?_ ?_ ?_ ?_ ?_ ?_ ?_

theorem execSwitchOverStart_kept (main : ℕ) (backup : ℕ) (s : State) (h : Kept s0 s) :
    KeptR s0 (execSwitchOverStart main backup s) := by
  unfold execSwitchOverStart; try dsimp only
  repeat' first
    | with_reducible assumption
    | with_reducible apply State.noteInputs_kept
    | with_reducible apply State.switchFeed_kept
    | with_reducible apply kept_ite
    | with_reducible apply keptR_ite
    | with_reducible apply keptR_next
    | with_reducible intro _

theorem execThermalDemandUpdate_kept (sensor : ℕ) (reading : ℕ) (s : State) (h : Kept s0 s) :
    KeptR s0 (execThermalDemandUpdate sensor reading s) := by
  unfold execThermalDemandUpdate; try dsimp only
  repeat' first
    | with_reducible assumption
    | with_reducible apply State.noteTemp_kept
    | with_reducible apply State.restretch_kept
    | with_reducible apply State.eventOnce_kept
    | with_reducible exact List.prefix_rfl
    | with_reducible exact Nat.le_refl _
    | with_reducible exact fun h => h
    | with_reducible apply kept_ite
    | with_reducible apply keptR_ite
    | with_reducible apply keptR_next
    | with_reducible intro _
    | with_reducible refine kept_mk ?_ ?_ ?_ ?_ ?_ ?_ ?_ ?_ ?_ ?_

end Sys2Proof.Machine
end

