-- ==== Sys2Proof/Laws/KeptCare.lean ====
section
/-! SUPPORT. What the operations of Machine/Care.lean keep. -/

namespace Sys2Proof.Machine

variable {s0 : State}

theorem State.loseSlots_kept (s : State) (port : ℕ) (lost : List ℕ) (h : Kept s0 s) :
    Kept s0 (State.loseSlots s port lost) := by
  unfold State.loseSlots; try dsimp only
  repeat' first
    | with_reducible assumption
    | with_reducible apply State.modOwn_kept
    | with_reducible apply State.modPartner_kept
    | with_reducible apply State.event_kept
    | with_reducible apply State.abandonCheckpoint_kept
    | with_reducible exact List.prefix_rfl
    | with_reducible exact Nat.le_refl _
    | with_reducible exact fun h => h
    | with_reducible apply kept_ite
    | with_reducible apply kept_foldl
    | with_reducible intro _
    | split
    | with_reducible refine kept_mk ?_ ?_ ?_ ?_ ?_ ?_ ?_ ?_ ?_ ?_

theorem State.modDevice_kept (s : State) (port : ℕ) (dev : ℕ) (f : CxlDevice → CxlDevice) (h : Kept s0 s) :
    Kept s0 (State.modDevice s port dev f) := by
  unfold State.modDevice; try dsimp only
  repeat' first
    | with_reducible assumption
    | with_reducible exact List.prefix_rfl
    | with_reducible exact Nat.le_refl _
    | with_reducible exact fun h => h
    | with_reducible apply kept_ite
    | with_reducible intro _
    | with_reducible refine kept_mk ?_ ?_ ?_ ?_ ?_ ?_ ?_ ?_ ?_ ?_

theorem State.noteScrub_kept (s : State) (checks : List MemCheck) (h : Kept s0 s) :
    Kept s0 (State.noteScrub s checks) := by
  unfold State.noteScrub; try dsimp only
  repeat' first
    | with_reducible assumption
    | with_reducible apply State.bump_kept
    | with_reducible apply kept_foldl
    | with_reducible intro _
    | split

theorem State.partnerLost_kept (s : State) (d : CxlDevice) (h : Kept s0 s) :
    Kept s0 (State.partnerLost s d) := by
  unfold State.partnerLost; try dsimp only
  repeat' first
    | with_reducible assumption
    | with_reducible apply State.loseSlots_kept
    | with_reducible apply kept_ite
    | with_reducible intro _

theorem execCheckerSelfTest_kept (checker : ℕ) (waits : Bool) (ok : Bool) (s : State) (h : Kept s0 s) :
    KeptR s0 (execCheckerSelfTest checker waits ok s) := by
  unfold execCheckerSelfTest; try dsimp only
  repeat' first
    | with_reducible assumption
    | with_reducible apply State.bump_kept
    | with_reducible apply State.fault_kept
    | with_reducible exact List.prefix_rfl
    | with_reducible exact Nat.le_refl _
    | with_reducible exact fun h => h
    | with_reducible exact safeOk_of rfl rfl
    | with_reducible apply kept_ite
    | with_reducible apply keptR_ite
    | with_reducible apply keptR_next
    | with_reducible intro _
    | with_reducible refine kept_mk ?_ ?_ ?_ ?_ ?_ ?_ ?_ ?_ ?_ ?_

theorem execControllerLockstep_kept (source : ℕ) (s : State) (h : Kept s0 s) :
    KeptR s0 (execControllerLockstep source s) := by
  unfold execControllerLockstep; try dsimp only
  repeat' first
    | with_reducible assumption
    | with_reducible apply State.fault_kept
    | with_reducible apply kept_ite
    | with_reducible apply keptR_ite
    | with_reducible apply keptR_next
    | with_reducible intro _

theorem execCxlLinkDown_kept (port : ℕ) (dev : ℕ) (s : State) (h : Kept s0 s) :
    KeptR s0 (execCxlLinkDown port dev s) := by
  unfold execCxlLinkDown; try dsimp only
  repeat' first
    | with_reducible assumption
    | with_reducible apply State.modDevice_kept
    | with_reducible apply State.fault_kept
    | with_reducible apply State.event_kept
    | with_reducible apply State.partnerLost_kept
    | with_reducible apply kept_ite
    | with_reducible apply keptR_ite
    | with_reducible apply keptR_next
    | with_reducible intro _
    | split

theorem execCxlLinkRetrain_kept (port : ℕ) (dev : ℕ) (speed : ℕ) (width : ℕ) (s : State) (h : Kept s0 s) :
    KeptR s0 (execCxlLinkRetrain port dev speed width s) := by
  unfold execCxlLinkRetrain; try dsimp only
  repeat' first
    | with_reducible assumption
    | with_reducible apply State.modDevice_kept
    | with_reducible apply State.event_kept
    | with_reducible apply State.stress_kept
    | with_reducible apply State.bump_kept
    | with_reducible apply kept_ite
    | with_reducible apply keptR_ite
    | with_reducible apply keptR_next
    | with_reducible intro _
    | split

theorem execHbmCalibration_kept (_stack : ℕ) (s : State) (h : Kept s0 s) :
    KeptR s0 (execHbmCalibration _stack s) := by
  unfold execHbmCalibration; try dsimp only
  repeat' first
    | with_reducible assumption
    | with_reducible apply keptR_next

theorem execHbmRefreshDue_kept (_stack : ℕ) (s : State) (h : Kept s0 s) :
    KeptR s0 (execHbmRefreshDue _stack s) := by
  unfold execHbmRefreshDue; try dsimp only
  repeat' first
    | with_reducible assumption
    | with_reducible apply keptR_next

theorem execScrubBehind_kept (cls : ℕ) (s : State) (h : Kept s0 s) :
    KeptR s0 (execScrubBehind cls s) := by
  unfold execScrubBehind; try dsimp only
  repeat' first
    | with_reducible assumption
    | with_reducible apply State.event_kept
    | with_reducible exact List.prefix_rfl
    | with_reducible exact Nat.le_refl _
    | with_reducible exact fun h => h
    | with_reducible apply kept_ite
    | with_reducible apply keptR_ite
    | with_reducible apply keptR_next
    | with_reducible intro _
    | with_reducible refine kept_mk ?_ ?_ ?_ ?_ ?_ ?_ ?_ ?_ ?_ ?_

theorem execScrubRead_kept (cls : ℕ) (checks : List MemCheck) (last : Bool) (s : State) (h : Kept s0 s) :
    KeptR s0 (execScrubRead cls checks last s) := by
  unfold execScrubRead; try dsimp only
  repeat' first
    | with_reducible assumption
    | with_reducible apply State.checked_kept
    | with_reducible apply State.noteScrub_kept
    | with_reducible exact List.prefix_rfl
    | with_reducible exact Nat.le_refl _
    | with_reducible exact fun h => h
    | with_reducible apply kept_ite
    | with_reducible apply keptR_ite
    | with_reducible apply keptR_next
    | with_reducible refine kept_of_snd (by assumption) ?_
    | with_reducible intro _
    | split
    | with_reducible refine kept_mk ?_ ?_ ?_ ?_ ?_ ?_ ?_ ?_ ?_ ?_

theorem execStackTempRead_kept (stack : ℕ) (temp : ℕ) (s : State) (h : Kept s0 s) :
    KeptR s0 (execStackTempRead stack temp s) := by
  unfold execStackTempRead; try dsimp only
  repeat' first
    | with_reducible assumption
    | with_reducible apply State.noteTemp_kept
    | with_reducible apply State.modBase_kept
    | with_reducible apply keptR_next

theorem execUnitKatTest_kept (unit : ℕ) (ok : Bool) (s : State) (h : Kept s0 s) :
    KeptR s0 (execUnitKatTest unit ok s) := by
  unfold execUnitKatTest; try dsimp only
  repeat' first
    | with_reducible assumption
    | with_reducible apply State.bump_kept
    | with_reducible apply State.fault_kept
    | with_reducible exact List.prefix_rfl
    | with_reducible exact Nat.le_refl _
    | with_reducible exact fun h => h
    | with_reducible exact safeOk_of rfl rfl
    | with_reducible apply kept_ite
    | with_reducible apply keptR_ite
    | with_reducible apply keptR_next
    | with_reducible intro _
    | with_reducible refine kept_mk ?_ ?_ ?_ ?_ ?_ ?_ ?_ ?_ ?_ ?_

theorem execWardenLockstep_kept (s : State) (h : Kept s0 s) :
    KeptR s0 (execWardenLockstep s) := by
  unfold execWardenLockstep; try dsimp only
  repeat' first
    | with_reducible assumption
    | with_reducible apply State.hardNotice_kept
    | with_reducible apply State.faultCheckpoint_kept
    | with_reducible apply State.stopUnits_kept
    | exact safeOk_set rfl ‹_›
    | (rename_i t; split; (obtain ⟨p, e⟩ := Option.isSome_iff_exists.1 ‹_›; exact jobOk_plan t e (by simp) rfl); exact t)
    | with_reducible exact List.prefix_rfl
    | with_reducible exact Nat.le_refl _
    | with_reducible exact fun h => h
    | with_reducible exact safeOk_of rfl rfl
    | with_reducible exact jobOk_of rfl rfl
    | with_reducible apply kept_ite
    | with_reducible apply keptR_ite
    | with_reducible apply keptR_next
    | with_reducible intro _
    | with_reducible refine kept_mk ?_ ?_ ?_ ?_ ?_ ?_ ?_ ?_ ?_ ?_

end Sys2Proof.Machine
end

