-- ==== Sys2Proof/Laws/KeptJobCmds.lean ====
section
/-! SUPPORT. What the operations of Machine/JobCmds.lean keep. -/

namespace Sys2Proof.Machine

variable {s0 : State}

theorem State.applyBounds_kept (s : State) (k : ℕ) (h : Kept s0 s) :
    Kept s0 (State.applyBounds s k) := by
  unfold State.applyBounds; try dsimp only
  repeat' first
    | with_reducible assumption
    | with_reducible apply State.modCl_kept
    | with_reducible exact List.prefix_rfl
    | with_reducible exact Nat.le_refl _
    | with_reducible exact fun h => h
    | with_reducible apply kept_foldl
    | with_reducible intro _
    | with_reducible refine kept_mk ?_ ?_ ?_ ?_ ?_ ?_ ?_ ?_ ?_ ?_

theorem State.rearrive_kept (s : State) (h : Kept s0 s) :
    Kept s0 (State.rearrive s) := by
  unfold State.rearrive; try dsimp only
  repeat' first
    | with_reducible assumption
    | with_reducible apply State.arriveSignal_kept
    | with_reducible exact List.prefix_rfl
    | with_reducible exact Nat.le_refl _
    | with_reducible exact fun h => h
    | with_reducible exact syncOk_of rfl
    | with_reducible apply kept_foldl
    | with_reducible refine kept_of_some (by assumption) ?_
    | with_reducible intro _
    | split
    | with_reducible refine kept_mk ?_ ?_ ?_ ?_ ?_ ?_ ?_ ?_ ?_ ?_

theorem State.sendCommand_kept (s : State) (kind : ℕ) (beat : ℕ) (step : ℕ) (h : Kept s0 s) :
    Kept s0 (State.sendCommand s kind beat step) := by
  unfold State.sendCommand; try dsimp only
  repeat' first
    | with_reducible assumption
    | with_reducible apply State.sendOn_kept
    | with_reducible exact List.prefix_rfl
    | with_reducible exact Nat.le_refl _
    | with_reducible exact fun h => h
    | with_reducible exact jobOk_of rfl rfl
    | with_reducible apply kept_foldl
    | with_reducible intro _
    | split
    | with_reducible refine kept_mk ?_ ?_ ?_ ?_ ?_ ?_ ?_ ?_ ?_ ?_

theorem State.arm_kept (s : State) (hs : s.job.state ≠ .empty) (h : Kept s0 s) : Kept s0 s.arm := by
  unfold State.arm
  refine State.tryPair_kept _ (State.sendCommand_kept _ _ _ _ (State.floodPorts_kept _ _ (State.ingestArm_kept _ (State.rearrive_kept _ ?_))))
  exact kept_job h fun j => jobOk_state j (by simp) hs rfl

theorem State.beginApply_kept (s : State) (k : ℕ) (h : Kept s0 s) :
    Kept s0 (State.beginApply s k) := by
  unfold State.beginApply; try dsimp only
  repeat' first
    | with_reducible assumption
    | with_reducible apply State.laterReceipts_kept
    | with_reducible exact List.prefix_rfl
    | with_reducible exact Nat.le_refl _
    | with_reducible exact fun h => h
    | with_reducible apply kept_ite
    | with_reducible intro _
    | split
    | with_reducible refine kept_mk ?_ ?_ ?_ ?_ ?_ ?_ ?_ ?_ ?_ ?_

theorem State.beginStep_kept (s : State) (k : ℕ) (hs : s.job.state ≠ .empty) (h : Kept s0 s) : Kept s0 (s.beginStep k) := by
  unfold State.beginStep
  refine State.safePoint_kept _ _ (State.rearrive_kept _ (kept_foldl_mem _ (fun t d m h' => State.setSync_kept _ _ _ (fun i => ?_) h') ?_))
  · have hj := (h.2.2.2 i).2.2.2.2.2.1.2
    dsimp only at m
    split at m
    · rename_i p e
      exact hj p e d (List.mem_filter.1 m).1
    · cases m
  · exact kept_job h fun j => jobOk_state j (by simp) hs rfl

theorem State.checkStopped_kept (s : State) (h : Kept s0 s) :
    Kept s0 (State.checkStopped s) := by
  unfold State.checkStopped; try dsimp only
  repeat' first
    | with_reducible assumption
    | with_reducible apply State.event_kept
    | (rename_i t; exact jobOk_state t (by simp) (by simp_all) rfl)
    | with_reducible exact List.prefix_rfl
    | with_reducible exact Nat.le_refl _
    | with_reducible exact fun h => h
    | with_reducible exact jobOk_of rfl rfl
    | with_reducible apply kept_ite
    | with_reducible intro _
    | split
    | with_reducible refine kept_mk ?_ ?_ ?_ ?_ ?_ ?_ ?_ ?_ ?_ ?_

theorem State.closePhase_kept (s : State) (k : ℕ) (p : ℕ) (h : Kept s0 s) :
    Kept s0 (State.closePhase s k p) := by
  unfold State.closePhase; try dsimp only
  repeat' first
    | with_reducible assumption
    | with_reducible apply State.straggle_kept
    | with_reducible apply State.releaseStash_kept
    | with_reducible apply State.releaseStale_kept
    | with_reducible apply State.closeStats_kept
    | with_reducible apply State.modStep_kept
    | with_reducible exact List.prefix_rfl
    | with_reducible exact Nat.le_refl _
    | with_reducible exact fun h => h
    | with_reducible apply kept_ite
    | with_reducible intro _
    | split
    | with_reducible refine kept_mk ?_ ?_ ?_ ?_ ?_ ?_ ?_ ?_ ?_ ?_

theorem State.commandMismatch_kept (s : State) (h : Kept s0 s) :
    Kept s0 (State.commandMismatch s) := by
  unfold State.commandMismatch; try dsimp only
  repeat' first
    | with_reducible assumption
    | with_reducible apply State.fault_kept

theorem State.linkRecords_kept (s : State) (ports : List ℕ) (h : Kept s0 s) :
    Kept s0 (State.linkRecords s ports) := by
  unfold State.linkRecords; try dsimp only
  repeat' first
    | with_reducible assumption
    | with_reducible apply State.sendOn_kept
    | with_reducible apply kept_foldl
    | with_reducible intro _
    | split

theorem planOf_sync (s : State) (img : Bytes) : ∀ d ∈ (s.planOf img).sync, d.initial < 2 ^ 32 := by
  intro d hd
  have : (s.planOf img).sync = (secEntries img 5).map fun e =>
      (⟨bitsOf (fieldAt e 0 2) 13 0, bitsOf (fieldAt e 2 2) 0 0 == 1, fieldAt e 4 4, fieldAt e 8 4⟩ : SyncDecl) := by
    unfold State.planOf; rfl
  rw [this] at hd
  obtain ⟨e, _, rfl⟩ := List.mem_map.1 hd
  exact fieldAt_lt e 4 4

theorem loadedMem_wf (s : State) (img : Bytes) (p : Plan) (w : Memory.wf s.mem = true) : Memory.wf (s.loadedMem img p) = true := by
  unfold State.loadedMem initMem
  exact clearRange_wf _ _ _ (foldl_wf _ _ _ (fun m d w => clearRange_wf _ _ _ w)
    (foldl_wf _ _ _ (fun m e w => writeBytes_wf _ _ _ w) (writeBytes_wf _ _ _ w)))

theorem State.install_kept (s : State) (img : Bytes) (h : Kept s0 s) : Kept s0 (s.install img) := by
  unfold State.install; dsimp only
  refine State.linkRecords_kept _ _ (State.event_kept _ _ _ _ ?_)
  refine kept_mk h List.prefix_rfl (Nat.le_refl _) (loadedMem_wf _ _ _) id id (fun _ e => nomatch e) (fun _ => ?_) (fun _ => ?_) id
  · have := planOf_sync s img
    have aux : ∀ (l : List SyncDecl) (m : List (ℕ × ℕ)), (∀ d ∈ l, d.initial < 2 ^ 32) → (∀ e ∈ m, e.2 < 2 ^ 32) →
        ∀ e ∈ l.foldl (fun m d => sset 0 m d.id d.initial) m, e.2 < 2 ^ 32 := by
      intro l
      induction l with
      | nil => exact fun _ _ h => h
      | cons d l ih => exact fun m hd hm => ih _ (fun x hx => hd x (List.mem_cons_of_mem _ hx)) (syncOk_sset hm (hd d List.mem_cons_self))
    exact aux _ _ (fun d hd => this d (List.mem_filter.1 hd).1) (fun _ h => nomatch h)
  · refine ⟨⟨(fun e => nomatch e), (fun e => nomatch e)⟩, fun p e d hd => ?_⟩
    cases e
    exact planOf_sync s img d hd

theorem State.jobCommand_kept (s : State) (q : Req) (n : ℕ) (act : State → Answer)(hact : ∀ s , Kept s0 s → KeptA s0 (act s )) (h : Kept s0 s) :
    Kept s0 (State.jobCommand s q n act) := by
  unfold State.jobCommand; try dsimp only
  repeat' first
    | with_reducible assumption
    | with_reducible apply State.serveWrite_kept
    | with_reducible apply hact
    | with_reducible apply kept_ite
    | with_reducible apply keptA_ite
    | with_reducible intro _

theorem State.loadFails_kept (s : State) (reason : ℕ) (h : Kept s0 s) :
    Kept s0 (State.loadFails s reason) := by
  unfold State.loadFails; try dsimp only
  repeat' first
    | with_reducible assumption
    | with_reducible apply State.event_kept
    | with_reducible exact List.prefix_rfl
    | with_reducible exact Nat.le_refl _
    | with_reducible exact fun h => h
    | with_reducible exact jobOk_of rfl rfl
    | with_reducible refine kept_mk ?_ ?_ ?_ ?_ ?_ ?_ ?_ ?_ ?_ ?_

theorem State.openPhase_kept (s : State) (k : ℕ) (p : ℕ) (h : Kept s0 s) :
    Kept s0 (State.openPhase s k p) := by
  unfold State.openPhase; try dsimp only
  repeat' first
    | with_reducible assumption
    | with_reducible apply State.openAdmit_kept
    | with_reducible apply State.safePoint_kept
    | with_reducible apply State.applyBounds_kept
    | with_reducible apply State.openBuffers_kept
    | with_reducible apply State.openNorm_kept
    | with_reducible exact List.prefix_rfl
    | with_reducible exact Nat.le_refl _
    | with_reducible exact fun h => h
    | split
    | with_reducible refine kept_mk ?_ ?_ ?_ ?_ ?_ ?_ ?_ ?_ ?_ ?_

theorem State.overrun_kept (s : State) (k : ℕ) (p : ℕ) (h : Kept s0 s) :
    Kept s0 (State.overrun s k p) := by
  unfold State.overrun; try dsimp only
  repeat' first
    | with_reducible assumption
    | with_reducible apply State.modStep_kept
    | with_reducible apply State.event_kept
    | with_reducible apply State.straggle_kept
    | with_reducible apply State.fault_kept
    | with_reducible exact List.prefix_rfl
    | with_reducible exact Nat.le_refl _
    | with_reducible exact fun h => h
    | with_reducible exact jobOk_of rfl rfl
    | with_reducible apply kept_ite
    | with_reducible intro _
    | with_reducible refine kept_mk ?_ ?_ ?_ ?_ ?_ ?_ ?_ ?_ ?_ ?_

theorem State.pauseAnswer_kept (s : State) (pass : Bool) (h : Kept s0 s) :
    KeptA s0 (State.pauseAnswer s pass) := by
  unfold State.pauseAnswer; try dsimp only
  repeat' first
    | with_reducible assumption
    | with_reducible apply refuse_kept
    | with_reducible apply accept_kept
    | with_reducible apply State.sendCommand_kept
    | with_reducible exact List.prefix_rfl
    | with_reducible exact Nat.le_refl _
    | with_reducible exact fun h => h
    | with_reducible exact jobOk_of rfl rfl
    | with_reducible apply kept_ite
    | with_reducible apply keptA_ite
    | with_reducible apply keptA_refuse
    | with_reducible apply keptA_accept
    | with_reducible intro _
    | with_reducible refine kept_mk ?_ ?_ ?_ ?_ ?_ ?_ ?_ ?_ ?_ ?_

theorem State.startAnswer_kept (s : State) (h : Kept s0 s) : KeptA s0 s.startAnswer := by
  unfold State.startAnswer
  split
  · exact h
  · dsimp only
    with_reducible refine keptA_ite (fun _ => keptA_refuse h) fun a => ?_
    with_reducible refine keptA_ite (fun _ => keptA_refuse h) fun _ => ?_
    with_reducible refine keptA_ite (fun _ => keptA_refuse h) fun _ => ?_
    with_reducible refine keptA_ite (fun _ => keptA_refuse ?_) fun _ => keptA_accept (State.arm_kept s (fun e => absurd (Or.inl (by rw [e]; simp)) a) h)
    exact kept_foldl _ (fun s n h => State.event_kept _ _ _ _ h) h

theorem State.startChecks_kept (s : State) (h : Kept s0 s) :
    KeptO s0 (State.startChecks s) := by
  unfold State.startChecks; try dsimp only
  repeat' first
    | with_reducible assumption
    | with_reducible apply State.commandMismatch_kept
    | with_reducible apply State.fault_kept
    | with_reducible apply State.nextFree_kept
    | with_reducible apply kept_ite
    | with_reducible apply keptO_ite
    | with_reducible apply keptO_some
    | with_reducible exact keptO_none
    | with_reducible intro _
    | split

theorem State.unload_kept (s : State) (h : Kept s0 s) :
    Kept s0 (State.unload s) := by
  unfold State.unload; try dsimp only
  repeat' first
    | with_reducible assumption
    | with_reducible apply State.closeIngest_kept
    | exact fun _ _ h => nomatch h
    | exact fun _ => ⟨⟨fun _ => rfl, fun _ => rfl⟩, fun _ e => nomatch e⟩
    | with_reducible exact List.prefix_rfl
    | with_reducible exact Nat.le_refl _
    | with_reducible exact fun h => h
    | with_reducible exact safeOk_of rfl rfl
    | with_reducible exact syncOk_of rfl
    | with_reducible exact jobOk_of rfl rfl
    | with_reducible refine kept_mk ?_ ?_ ?_ ?_ ?_ ?_ ?_ ?_ ?_ ?_

theorem execCommand_kept (m : Msg) (s : State) (h : Kept s0 s) :
    KeptR s0 (execCommand m s) := by
  unfold execCommand; try dsimp only
  repeat' first
    | with_reducible assumption
    | with_reducible apply State.taken_kept
    | with_reducible apply State.e2eAck_kept
    | with_reducible exact List.prefix_rfl
    | with_reducible exact Nat.le_refl _
    | with_reducible exact fun h => h
    | with_reducible exact jobOk_of rfl rfl
    | with_reducible apply keptR_next
    | with_reducible intro _
    | with_reducible refine kept_mk ?_ ?_ ?_ ?_ ?_ ?_ ?_ ?_ ?_ ?_

theorem execCommit_kept (s : State) (h : Kept s0 s) :
    KeptR s0 (execCommit s) := by
  unfold execCommit; try dsimp only
  repeat' first
    | with_reducible assumption
    | with_reducible apply State.modStep_kept
    | with_reducible apply State.beginApply_kept
    | with_reducible exact List.prefix_rfl
    | with_reducible exact Nat.le_refl _
    | with_reducible exact fun h => h
    | with_reducible exact jobOk_of rfl rfl
    | with_reducible apply kept_ite
    | with_reducible apply keptR_ite
    | with_reducible apply keptR_next
    | with_reducible intro _
    | split
    | with_reducible refine kept_mk ?_ ?_ ?_ ?_ ?_ ?_ ?_ ?_ ?_ ?_

theorem execPausePass_kept (q : Req) (s : State) (h : Kept s0 s) :
    KeptR s0 (execPausePass q s) := by
  unfold execPausePass; try dsimp only
  repeat' first
    | with_reducible assumption
    | with_reducible apply State.jobCommand_kept
    | with_reducible apply State.pauseAnswer_kept
    | with_reducible apply keptR_next
    | with_reducible intro _

theorem execPauseStep_kept (q : Req) (s : State) (h : Kept s0 s) :
    KeptR s0 (execPauseStep q s) := by
  unfold execPauseStep; try dsimp only
  repeat' first
    | with_reducible assumption
    | with_reducible apply State.jobCommand_kept
    | with_reducible apply State.pauseAnswer_kept
    | with_reducible apply keptR_next
    | with_reducible intro _

theorem execPauseTakesEffect_kept (s : State) (h : Kept s0 s) :
    KeptR s0 (execPauseTakesEffect s) := by
  unfold execPauseTakesEffect; try dsimp only
  repeat' first
    | with_reducible assumption
    | with_reducible apply State.commandMismatch_kept
    | with_reducible apply State.event_kept
    | (rename_i t; exact jobOk_state t (by simp) (by simp_all) rfl)
    | with_reducible exact List.prefix_rfl
    | with_reducible exact Nat.le_refl _
    | with_reducible exact fun h => h
    | with_reducible exact jobOk_of rfl rfl
    | with_reducible apply kept_ite
    | with_reducible apply keptR_ite
    | with_reducible apply keptR_next
    | with_reducible intro _
    | split
    | with_reducible refine kept_mk ?_ ?_ ?_ ?_ ?_ ?_ ?_ ?_ ?_ ?_

theorem execPhaseWindowEnd_kept (k : ℕ) (p : ℕ) (checks : List MemCheck) (s : State) (h : Kept s0 s) :
    KeptR s0 (execPhaseWindowEnd k p checks s) := by
  unfold execPhaseWindowEnd; try dsimp only
  repeat' first
    | with_reducible assumption
    | with_reducible apply State.modStep_kept
    | with_reducible apply State.deadline_kept
    | with_reducible apply State.overrun_kept
    | with_reducible apply State.checked_kept
    | with_reducible apply State.closePhase_kept
    | with_reducible exact List.prefix_rfl
    | with_reducible exact Nat.le_refl _
    | with_reducible exact fun h => h
    | with_reducible exact jobOk_of rfl rfl
    | with_reducible apply kept_ite
    | with_reducible apply keptR_ite
    | with_reducible apply keptR_next
    | with_reducible refine kept_of_snd (by assumption) ?_
    | with_reducible intro _
    | split
    | with_reducible refine kept_mk ?_ ?_ ?_ ?_ ?_ ?_ ?_ ?_ ?_ ?_

theorem execPhaseWindowStart_kept (k : ℕ) (p : ℕ) (s : State) (h : Kept s0 s) :
    KeptR s0 (execPhaseWindowStart k p s) := by
  unfold execPhaseWindowStart; try dsimp only
  repeat' first
    | with_reducible assumption
    | with_reducible apply State.modStep_kept
    | with_reducible apply State.openPhase_kept
    | with_reducible exact List.prefix_rfl
    | with_reducible exact Nat.le_refl _
    | with_reducible exact fun h => h
    | with_reducible exact jobOk_of rfl rfl
    | with_reducible apply kept_ite
    | with_reducible apply keptR_ite
    | with_reducible apply keptR_next
    | with_reducible intro _
    | with_reducible refine kept_mk ?_ ?_ ?_ ?_ ?_ ?_ ?_ ?_ ?_ ?_

theorem execPlanLoadComplete_kept (s : State) (h : Kept s0 s) :
    KeptR s0 (execPlanLoadComplete s) := by
  unfold execPlanLoadComplete; try dsimp only
  repeat' first
    | with_reducible assumption
    | with_reducible apply State.loadFails_kept
    | with_reducible apply State.install_kept
    | with_reducible apply kept_ite
    | with_reducible apply keptR_ite
    | with_reducible apply keptR_next
    | with_reducible intro _
    | split

theorem execPlanSlot_kept (q : Req) (s : State) (h : Kept s0 s) :
    KeptR s0 (execPlanSlot q s) := by
  unfold execPlanSlot; try dsimp only
  repeat' first
    | with_reducible assumption
    | with_reducible apply State.serveWrite_kept
    | with_reducible apply refuse_kept
    | with_reducible apply State.putValue_kept
    | with_reducible apply accept_kept
    | with_reducible apply State.loadFails_kept
    | with_reducible exact List.prefix_rfl
    | with_reducible exact Nat.le_refl _
    | with_reducible exact fun h => h
    | with_reducible exact jobOk_of rfl rfl
    | with_reducible apply kept_ite
    | with_reducible apply keptR_ite
    | with_reducible apply keptA_ite
    | with_reducible apply keptR_next
    | with_reducible apply keptA_refuse
    | with_reducible apply keptA_accept
    | with_reducible intro _
    | with_reducible refine kept_mk ?_ ?_ ?_ ?_ ?_ ?_ ?_ ?_ ?_ ?_

theorem execResume_kept (q : Req) (s : State) (h : Kept s0 s) :
    KeptR s0 (execResume q s) := by
  unfold execResume; try dsimp only
  repeat' first
    | with_reducible assumption
    | with_reducible apply State.jobCommand_kept
    | with_reducible apply refuse_kept
    | with_reducible apply accept_kept
    | with_reducible apply State.sendCommand_kept
    | with_reducible exact List.prefix_rfl
    | with_reducible exact Nat.le_refl _
    | with_reducible exact fun h => h
    | with_reducible exact jobOk_of rfl rfl
    | with_reducible apply kept_ite
    | with_reducible apply keptR_ite
    | with_reducible apply keptA_ite
    | with_reducible apply keptR_next
    | with_reducible apply keptA_refuse
    | with_reducible apply keptA_accept
    | with_reducible intro _
    | with_reducible refine kept_mk ?_ ?_ ?_ ?_ ?_ ?_ ?_ ?_ ?_ ?_

theorem execResumeTakesEffect_kept (s : State) (h : Kept s0 s) :
    KeptR s0 (execResumeTakesEffect s) := by
  unfold execResumeTakesEffect; try dsimp only
  repeat' first
    | with_reducible assumption
    | with_reducible apply State.commandMismatch_kept
    | with_reducible apply State.checkStopped_kept
    | with_reducible apply State.event_kept
    | (rename_i t; exact jobOk_state t (by simp) (by simp_all) rfl)
    | with_reducible exact List.prefix_rfl
    | with_reducible exact Nat.le_refl _
    | with_reducible exact fun h => h
    | with_reducible exact jobOk_of rfl rfl
    | with_reducible apply kept_ite
    | with_reducible apply keptR_ite
    | with_reducible apply keptR_next
    | with_reducible intro _
    | split
    | with_reducible refine kept_mk ?_ ?_ ?_ ?_ ?_ ?_ ?_ ?_ ?_ ?_

theorem execStart_kept (q : Req) (s : State) (h : Kept s0 s) :
    KeptR s0 (execStart q s) := by
  unfold execStart; try dsimp only
  repeat' first
    | with_reducible assumption
    | with_reducible apply State.jobCommand_kept
    | with_reducible apply State.startAnswer_kept
    | with_reducible apply keptR_next
    | with_reducible intro _

theorem execStepClear_kept (s : State) (h : Kept s0 s) :
    KeptR s0 (execStepClear s) := by
  unfold execStepClear; try dsimp only
  repeat' first
    | with_reducible assumption
    | with_reducible apply State.modStep_kept
    | with_reducible apply State.checkStopped_kept
    | with_reducible apply State.startCapture_kept
    | with_reducible exact List.prefix_rfl
    | with_reducible exact Nat.le_refl _
    | with_reducible exact fun h => h
    | with_reducible exact jobOk_of rfl rfl
    | with_reducible apply kept_ite
    | with_reducible apply keptR_ite
    | with_reducible apply keptR_next
    | with_reducible intro _
    | split
    | with_reducible refine kept_mk ?_ ?_ ?_ ?_ ?_ ?_ ?_ ?_ ?_ ?_

theorem execStepStart_kept (s : State) (h : Kept s0 s) : KeptR s0 (execStepStart s) := by
  unfold execStepStart; dsimp only
  refine keptR_next (kept_ite (fun _ => h) fun a => ?_)
  have hs : s.job.state ≠ .empty := fun e => a (.inl (by rw [e]; simp))
  refine kept_ite (fun _ => h) fun _ => kept_ite (fun _ => ?_) fun _ => State.beginStep_kept s _ hs h
  have h1 := State.startChecks_kept s h
  generalize s.startChecks = o at h1 ⊢
  cases o with
  | none => exact State.beginStep_kept s _ hs h
  | some t => exact h1 t rfl

theorem execStop_kept (q : Req) (s : State) (h : Kept s0 s) :
    KeptR s0 (execStop q s) := by
  unfold execStop; try dsimp only
  repeat' first
    | with_reducible assumption
    | with_reducible apply State.jobCommand_kept
    | with_reducible apply accept_kept
    | with_reducible apply State.ingestStop_kept
    | with_reducible apply State.event_kept
    | with_reducible apply State.checkStopped_kept
    | with_reducible apply refuse_kept
    | (rename_i t; exact jobOk_state t (by simp) (by simp_all) rfl)
    | with_reducible exact List.prefix_rfl
    | with_reducible exact Nat.le_refl _
    | with_reducible exact fun h => h
    | with_reducible exact jobOk_of rfl rfl
    | with_reducible apply keptR_next
    | with_reducible apply keptA_refuse
    | with_reducible apply keptA_accept
    | with_reducible intro _
    | split
    | with_reducible refine kept_mk ?_ ?_ ?_ ?_ ?_ ?_ ?_ ?_ ?_ ?_

theorem execUnload_kept (q : Req) (s : State) (h : Kept s0 s) :
    KeptR s0 (execUnload q s) := by
  unfold execUnload; try dsimp only
  repeat' first
    | with_reducible assumption
    | with_reducible apply State.jobCommand_kept
    | with_reducible apply accept_kept
    | with_reducible apply State.unload_kept
    | with_reducible apply refuse_kept
    | with_reducible apply keptR_next
    | with_reducible apply keptA_refuse
    | with_reducible apply keptA_accept
    | with_reducible intro _
    | split

end Sys2Proof.Machine
end

