-- ==== Sys2Proof/Laws/KeptLinks.lean ====
section
/-! SUPPORT. What the operations of Machine/Links.lean keep. -/

namespace Sys2Proof.Machine

variable {s0 : State}

theorem State.modSpine_kept (s : State) (k : ℕ) (f : Spine → Spine) (h : Kept s0 s) :
    Kept s0 (State.modSpine s k f) := by
  unfold State.modSpine; try dsimp only
  repeat' first
    | with_reducible assumption
    | with_reducible exact List.prefix_rfl
    | with_reducible exact Nat.le_refl _
    | with_reducible exact fun h => h
    | with_reducible refine kept_mk ?_ ?_ ?_ ?_ ?_ ?_ ?_ ?_ ?_ ?_

theorem State.atEnds_kept (s : State) (k : ℕ) (m : ℕ) (f : ℕ → Spine → Spine) (h : Kept s0 s) :
    Kept s0 (State.atEnds s k m f) := by
  unfold State.atEnds; try dsimp only
  repeat' first
    | with_reducible assumption
    | with_reducible apply State.modSpine_kept
    | split

theorem State.badFrame_kept (s : State) (n : ℕ) (h : Kept s0 s) :
    Kept s0 (State.badFrame s n) := by
  unfold State.badFrame; try dsimp only
  repeat' first
    | with_reducible assumption
    | with_reducible apply State.modPort_kept

theorem State.bareFrame_kept (s : State) (n : ℕ) (kind : ℕ) (cls : ℕ) (credits : ℕ) (h : Kept s0 s) :
    Kept s0 (State.bareFrame s n kind cls credits) := by
  unfold State.bareFrame; try dsimp only
  repeat' first
    | with_reducible assumption
    | with_reducible apply State.emit_kept

theorem State.deliver_kept (s : State) (m : Msg) (h : Kept s0 s) :
    Kept s0 (State.deliver s m) := by
  unfold State.deliver; try dsimp only
  repeat' first
    | with_reducible assumption
    | with_reducible apply State.bump_kept
    | with_reducible apply State.putMsg_kept
    | with_reducible exact List.prefix_rfl
    | with_reducible exact Nat.le_refl _
    | with_reducible exact fun h => h
    | with_reducible apply kept_ite
    | with_reducible intro _
    | split
    | with_reducible refine kept_mk ?_ ?_ ?_ ?_ ?_ ?_ ?_ ?_ ?_ ?_

theorem State.noteWait_kept (s : State) (n : ℕ) (ns : ℕ) (h : Kept s0 s) :
    Kept s0 (State.noteWait s n ns) := by
  unfold State.noteWait; try dsimp only
  repeat' first
    | with_reducible assumption
    | with_reducible apply State.event_kept
    | with_reducible apply State.bump_kept
    | with_reducible apply State.markFirst_kept
    | with_reducible exact List.prefix_rfl
    | with_reducible exact Nat.le_refl _
    | with_reducible exact fun h => h
    | with_reducible apply kept_ite
    | with_reducible intro _
    | with_reducible refine kept_mk ?_ ?_ ?_ ?_ ?_ ?_ ?_ ?_ ?_ ?_

theorem State.resend_kept (s : State) (n : ℕ) (h : Kept s0 s) : Kept s0 (s.resend n) :=
  kept_mk (State.bump_kept _ _ _ (State.modPort_kept s n _ h)) (List.prefix_append _ _) (Nat.le_refl _) id id id id id id id

theorem State.retrainPort_kept (s : State) (n : ℕ) (h : Kept s0 s) :
    Kept s0 (State.retrainPort s n) := by
  unfold State.retrainPort; try dsimp only
  repeat' first
    | with_reducible assumption
    | with_reducible apply State.event_kept
    | with_reducible apply State.stress_kept
    | with_reducible apply State.bump_kept
    | with_reducible apply State.modPort_kept

theorem State.routeCut_kept (s : State) (port : ℕ) (h : Kept s0 s) :
    Kept s0 (State.routeCut s port) := by
  unfold State.routeCut; try dsimp only
  repeat' first
    | with_reducible assumption
    | with_reducible apply State.interruptRestore_kept
    | with_reducible apply kept_ite
    | with_reducible intro _

theorem State.rowAcked_kept (s : State) (n : ℕ) (h : Kept s0 s) :
    Kept s0 (State.rowAcked s n) := by
  unfold State.rowAcked; try dsimp only
  repeat' first
    | with_reducible assumption
    | with_reducible apply State.modPort_kept
    | split

theorem State.sendControl_kept (s : State) (n : ℕ) (h : Kept s0 s) :
    Kept s0 (State.sendControl s n) := by
  unfold State.sendControl; try dsimp only
  repeat' first
    | with_reducible assumption
    | with_reducible apply State.emit_kept
    | with_reducible apply State.modPort_kept

theorem State.skidFails_kept (s : State) (n : ℕ) (h : Kept s0 s) :
    Kept s0 (State.skidFails s n) := by
  unfold State.skidFails; try dsimp only
  repeat' first
    | with_reducible assumption
    | with_reducible apply State.fault_kept

theorem State.sendNak_kept (s : State) (n : ℕ) (h : Kept s0 s) :
    Kept s0 (State.sendNak s n) := by
  unfold State.sendNak; try dsimp only
  repeat' first
    | with_reducible assumption
    | with_reducible apply State.bareFrame_kept
    | with_reducible apply State.modPort_kept
    | with_reducible apply State.skidFails_kept
    | with_reducible apply State.retrainPort_kept
    | with_reducible apply kept_ite
    | with_reducible intro _

theorem State.spineFails_kept (s : State) (k : ℕ) (other : ℕ) (h : Kept s0 s) :
    Kept s0 (State.spineFails s k other) := by
  unfold State.spineFails; try dsimp only
  repeat' first
    | with_reducible assumption
    | with_reducible apply State.fault_kept

theorem State.takeFrame_kept (s : State) (n : ℕ) (f : SkidFrame) (h : Kept s0 s) :
    Kept s0 (State.takeFrame s n f) := by
  unfold State.takeFrame; try dsimp only
  repeat' first
    | with_reducible assumption
    | with_reducible apply State.modPort_kept
    | with_reducible apply State.deliver_kept
    | with_reducible apply kept_ite
    | with_reducible intro _

theorem execDmaWrite_kept (m : Msg) (checks : List MemCheck) (collided : List ℕ) (s : State) (h : Kept s0 s) :
    KeptR s0 (execDmaWrite m checks collided s) := by
  unfold execDmaWrite; try dsimp only
  repeat' first
    | with_reducible assumption
    | with_reducible apply State.taken_kept
    | with_reducible apply State.fault_kept
    | with_reducible apply State.checked_kept
    | with_reducible apply State.landWrite_kept
    | with_reducible apply State.signal_kept
    | with_reducible apply State.e2eAck_kept
    | with_reducible exact List.prefix_rfl
    | with_reducible exact Nat.le_refl _
    | with_reducible exact fun h => h
    | with_reducible apply kept_ite
    | with_reducible apply keptR_ite
    | with_reducible apply keptR_next
    | with_reducible refine kept_of_snd (by assumption) ?_
    | with_reducible intro _
    | split
    | with_reducible refine kept_mk ?_ ?_ ?_ ?_ ?_ ?_ ?_ ?_ ?_ ?_

theorem execE2eAck_kept (m : Msg) (s : State) (h : Kept s0 s) :
    KeptR s0 (execE2eAck m s) := by
  unfold execE2eAck; try dsimp only
  repeat' first
    | with_reducible assumption
    | with_reducible apply State.taken_kept
    | with_reducible apply State.dmaRetire_kept
    | with_reducible apply State.flushWithdrawals_kept
    | with_reducible apply State.rowAcked_kept
    | with_reducible apply keptR_next
    | with_reducible intro _
    | split

theorem execFaultNotice_kept (m : Msg) (s : State) (h : Kept s0 s) :
    KeptR s0 (execFaultNotice m s) := by
  unfold execFaultNotice; try dsimp only
  repeat' first
    | with_reducible assumption
    | with_reducible apply State.taken_kept
    | with_reducible apply State.bump_kept
    | with_reducible apply State.faultAfter_kept
    | with_reducible apply State.peerFailed_kept
    | with_reducible apply kept_ite
    | with_reducible apply keptR_ite
    | with_reducible apply keptR_next
    | with_reducible intro _
    | split

theorem execFlitReplay_kept (k : ℕ) (m : ℕ) (again : Bool) (s : State) (h : Kept s0 s) :
    KeptR s0 (execFlitReplay k m again s) := by
  unfold execFlitReplay; try dsimp only
  repeat' first
    | with_reducible assumption
    | with_reducible apply State.atEnds_kept
    | with_reducible apply State.stress_kept
    | with_reducible apply State.bump_kept
    | with_reducible apply State.spineFails_kept
    | with_reducible apply State.event_kept
    | with_reducible apply kept_ite
    | with_reducible apply keptR_ite
    | with_reducible apply keptR_next
    | with_reducible intro _
    | split

theorem execIdleFrame_kept (port : ℕ) (f : SkidFrame) (s : State) (h : Kept s0 s) :
    KeptR s0 (execIdleFrame port f s) := by
  unfold execIdleFrame; try dsimp only
  repeat' first
    | with_reducible assumption
    | with_reducible apply State.badFrame_kept
    | with_reducible apply State.pumpPort_kept
    | with_reducible apply State.modPort_kept
    | with_reducible apply kept_ite
    | with_reducible apply keptR_ite
    | with_reducible apply keptR_next
    | with_reducible intro _

theorem execLinkControlFrame_kept (port : ℕ) (f : SkidFrame) (part : ℕ) (stepping : ℕ) (farPort : ℕ) (epoch : ℕ) (serial : Bytes) (delay : ℤ) (s : State) (h : Kept s0 s) :
    KeptR s0 (execLinkControlFrame port f part stepping farPort epoch serial delay s) := by
  unfold execLinkControlFrame; try dsimp only
  repeat' first
    | with_reducible assumption
    | with_reducible apply State.sendNak_kept
    | with_reducible apply State.badFrame_kept
    | with_reducible apply State.modPort_kept
    | with_reducible apply State.sendControl_kept
    | with_reducible apply State.event_kept
    | with_reducible apply kept_ite
    | with_reducible apply keptR_ite
    | with_reducible apply keptR_next
    | with_reducible intro _

theorem execLinkRecord_kept (m : Msg) (s : State) (h : Kept s0 s) :
    KeptR s0 (execLinkRecord m s) := by
  unfold execLinkRecord; try dsimp only
  repeat' first
    | with_reducible assumption
    | with_reducible apply State.taken_kept
    | with_reducible apply State.modPort_kept
    | with_reducible apply State.event_kept
    | with_reducible apply kept_ite
    | with_reducible apply keptR_ite
    | with_reducible apply keptR_next
    | with_reducible intro _

theorem execRelayedSyncSignal_kept (m : Msg) (s : State) (h : Kept s0 s) :
    KeptR s0 (execRelayedSyncSignal m s) := by
  unfold execRelayedSyncSignal; try dsimp only
  repeat' first
    | with_reducible assumption
    | with_reducible apply State.taken_kept
    | with_reducible apply State.arriveSignal_kept
    | with_reducible exact List.prefix_rfl
    | with_reducible exact Nat.le_refl _
    | with_reducible exact fun h => h
    | with_reducible exact syncOk_of rfl
    | with_reducible apply keptR_next
    | with_reducible refine kept_of_some (by assumption) ?_
    | with_reducible intro _
    | split
    | with_reducible refine kept_mk ?_ ?_ ?_ ?_ ?_ ?_ ?_ ?_ ?_ ?_

theorem execRouteFlood_kept (port : ℕ) (module : ℕ) (ports : List (ℕ × ℕ)) (s : State) (h : Kept s0 s) :
    KeptR s0 (execRouteFlood port module ports s) := by
  unfold execRouteFlood; try dsimp only
  repeat' first
    | with_reducible assumption
    | with_reducible apply State.setPorts_kept
    | with_reducible apply State.emit_kept
    | with_reducible apply State.askRestore_kept
    | with_reducible apply State.tryPair_kept
    | with_reducible apply kept_ite
    | with_reducible apply keptR_ite
    | with_reducible apply keptR_next
    | with_reducible apply kept_foldl
    | with_reducible intro _

theorem execSkidDataFrame_kept (port : ℕ) (f : SkidFrame) (wait : ℕ) (s : State) (h : Kept s0 s) :
    KeptR s0 (execSkidDataFrame port f wait s) := by
  unfold execSkidDataFrame; try dsimp only
  repeat' first
    | with_reducible assumption
    | with_reducible apply State.sendNak_kept
    | with_reducible apply State.badFrame_kept
    | with_reducible apply State.modPort_kept
    | with_reducible apply State.pumpPort_kept
    | with_reducible apply State.bareFrame_kept
    | with_reducible apply State.takeFrame_kept
    | with_reducible apply State.noteWait_kept
    | with_reducible apply kept_ite
    | with_reducible apply keptR_ite
    | with_reducible apply keptR_next
    | with_reducible intro _

theorem execSkidLinkDown_kept (port : ℕ) (s : State) (h : Kept s0 s) :
    KeptR s0 (execSkidLinkDown port s) := by
  unfold execSkidLinkDown; try dsimp only
  repeat' first
    | with_reducible assumption
    | with_reducible apply State.routeCut_kept
    | with_reducible apply State.modPort_kept
    | with_reducible apply State.fault_kept
    | with_reducible apply State.event_kept
    | with_reducible apply kept_ite
    | with_reducible apply keptR_ite
    | with_reducible apply keptR_next
    | with_reducible intro _

theorem execSkidLinkUp_kept (port : ℕ) (s : State) (h : Kept s0 s) :
    KeptR s0 (execSkidLinkUp port s) := by
  unfold execSkidLinkUp; try dsimp only
  repeat' first
    | with_reducible assumption
    | with_reducible apply State.event_kept
    | with_reducible apply State.modPort_kept
    | with_reducible apply State.pumpPort_kept
    | with_reducible apply State.linkRecords_kept
    | with_reducible apply State.resend_kept
    | with_reducible apply kept_ite
    | with_reducible apply keptR_ite
    | with_reducible apply keptR_next
    | with_reducible intro _

theorem execSkidNak_kept (port : ℕ) (f : SkidFrame) (s : State) (h : Kept s0 s) :
    KeptR s0 (execSkidNak port f s) := by
  unfold execSkidNak; try dsimp only
  repeat' first
    | with_reducible assumption
    | with_reducible apply State.badFrame_kept
    | with_reducible apply State.stress_kept
    | with_reducible apply State.modPort_kept
    | with_reducible apply State.resend_kept
    | with_reducible apply State.skidFails_kept
    | with_reducible apply State.retrainPort_kept
    | with_reducible apply kept_ite
    | with_reducible apply keptR_ite
    | with_reducible apply keptR_next
    | with_reducible intro _

theorem execSkidPortDown_kept (port : ℕ) (s : State) (h : Kept s0 s) :
    KeptR s0 (execSkidPortDown port s) := by
  unfold execSkidPortDown; try dsimp only
  repeat' first
    | with_reducible assumption
    | with_reducible apply State.modPort_kept
    | with_reducible apply kept_ite
    | with_reducible apply keptR_ite
    | with_reducible apply keptR_next
    | with_reducible intro _

theorem execSpineRetrainDone_kept (k : ℕ) (m : ℕ) (ok : Bool) (s : State) (h : Kept s0 s) :
    KeptR s0 (execSpineRetrainDone k m ok s) := by
  unfold execSpineRetrainDone; try dsimp only
  repeat' first
    | with_reducible assumption
    | with_reducible apply State.atEnds_kept
    | with_reducible apply State.spineFails_kept
    | with_reducible apply kept_ite
    | with_reducible apply keptR_ite
    | with_reducible apply keptR_next
    | with_reducible intro _
    | split

end Sys2Proof.Machine
end

