-- ==== Sys2Proof/Laws/KeptStartUp.lean ====
section
/-! SUPPORT. What the operations of Machine/StartUp.lean keep. -/

namespace Sys2Proof.Machine

variable {s0 : State}

theorem State.areaFails_kept (s : State) (a : ℕ) (h : Kept s0 s) :
    Kept s0 (State.areaFails s a) := by
  unfold State.areaFails; try dsimp only
  repeat' first
    | with_reducible assumption
    | with_reducible apply State.event_kept
    | with_reducible apply State.modFwSlot_kept
    | with_reducible exact List.prefix_rfl
    | with_reducible exact Nat.le_refl _
    | with_reducible exact fun h => h
    | with_reducible exact hostOk_of rfl rfl
    | with_reducible apply kept_ite
    | with_reducible intro _
    | with_reducible refine kept_mk ?_ ?_ ?_ ?_ ?_ ?_ ?_ ?_ ?_ ?_

theorem State.enterStage_kept (s : State) (n : ℕ) (h : Kept s0 s) :
    Kept s0 (State.enterStage s n) := by
  unfold State.enterStage; try dsimp only
  repeat' first
    | with_reducible assumption
    | with_reducible exact List.prefix_rfl
    | with_reducible exact Nat.le_refl _
    | with_reducible exact fun h => h
    | with_reducible refine kept_mk ?_ ?_ ?_ ?_ ?_ ?_ ?_ ?_ ?_ ?_

theorem State.bootSlot_kept (s : State) (n : ℕ) (h : Kept s0 s) :
    Kept s0 (State.bootSlot s n) := by
  unfold State.bootSlot; try dsimp only
  repeat' first
    | with_reducible assumption
    | with_reducible exact List.prefix_rfl
    | with_reducible exact Nat.le_refl _
    | with_reducible exact fun h => h
    | with_reducible refine kept_mk ?_ ?_ ?_ ?_ ?_ ?_ ?_ ?_ ?_ ?_

theorem State.bootActive_kept (s : State) (h : Kept s0 s) :
    Kept s0 (State.bootActive s) := by
  unfold State.bootActive; try dsimp only
  repeat' first
    | with_reducible assumption
    | with_reducible apply State.modFwSlot_kept
    | with_reducible apply State.enterStage_kept
    | with_reducible apply State.bootSlot_kept
    | with_reducible apply State.enterStump_kept
    | with_reducible apply kept_ite
    | with_reducible intro _
    | split

theorem State.decodeCxl_kept (s : State) (devices : List CxlFound) (h : Kept s0 s) :
    Kept s0 (State.decodeCxl s devices) := by
  unfold State.decodeCxl; try dsimp only
  repeat' first
    | with_reducible assumption
    | with_reducible apply State.event_kept
    | with_reducible exact List.prefix_rfl
    | with_reducible exact Nat.le_refl _
    | with_reducible exact fun h => h
    | with_reducible apply kept_ite
    | with_reducible intro _
    | split
    | with_reducible refine kept_mk ?_ ?_ ?_ ?_ ?_ ?_ ?_ ?_ ?_ ?_

theorem State.fuseLanes_kept (s : State) (f : LaneFault) (h : Kept s0 s) :
    Kept s0 (State.fuseLanes s f) := by
  unfold State.fuseLanes; try dsimp only
  repeat' first
    | with_reducible assumption
    | with_reducible exact List.prefix_rfl
    | with_reducible exact Nat.le_refl _
    | with_reducible exact fun h => h
    | with_reducible apply kept_ite
    | with_reducible intro _
    | split
    | with_reducible refine kept_mk ?_ ?_ ?_ ?_ ?_ ?_ ?_ ?_ ?_ ?_

theorem State.repair_kept (s : State) (n : ℕ) (h : Kept s0 s) :
    Kept s0 (State.repair s n) := by
  unfold State.repair; try dsimp only
  repeat' first
    | with_reducible assumption
    | with_reducible apply State.event_kept
    | with_reducible exact List.prefix_rfl
    | with_reducible exact Nat.le_refl _
    | with_reducible exact fun h => h
    | with_reducible apply kept_ite
    | with_reducible intro _
    | split
    | with_reducible refine kept_mk ?_ ?_ ?_ ?_ ?_ ?_ ?_ ?_ ?_ ?_

theorem State.wipeKeys_kept (s : State) (h : Kept s0 s) :
    Kept s0 (State.wipeKeys s) := by
  unfold State.wipeKeys; try dsimp only
  repeat' first
    | with_reducible assumption
    | with_reducible apply State.event_kept
    | with_reducible exact List.prefix_rfl
    | with_reducible exact Nat.le_refl _
    | with_reducible exact fun h => h
    | with_reducible refine kept_mk ?_ ?_ ?_ ?_ ?_ ?_ ?_ ?_ ?_ ?_

theorem State.noEntries_kept (s : State) (h : Kept s0 s) :
    Kept s0 (State.noEntries s) := by
  unfold State.noEntries; try dsimp only
  repeat' first
    | with_reducible assumption
    | with_reducible exact List.prefix_rfl
    | with_reducible exact Nat.le_refl _
    | with_reducible exact fun h => h
    | with_reducible refine kept_mk ?_ ?_ ?_ ?_ ?_ ?_ ?_ ?_ ?_ ?_

theorem State.fuses_kept (s : State) (h : Kept s0 s) :
    Kept s0 (State.fuses s) := by
  unfold State.fuses; try dsimp only
  repeat' first
    | with_reducible assumption
    | with_reducible apply State.repair_kept
    | with_reducible apply State.event_kept
    | with_reducible apply State.wipeKeys_kept
    | with_reducible apply State.noEntries_kept
    | with_reducible apply State.enterStage_kept
    | with_reducible exact List.prefix_rfl
    | with_reducible exact Nat.le_refl _
    | with_reducible exact fun h => h
    | with_reducible exact hostOk_of rfl rfl
    | with_reducible apply kept_ite
    | with_reducible apply kept_foldl
    | with_reducible intro _
    | with_reducible refine kept_mk ?_ ?_ ?_ ?_ ?_ ?_ ?_ ?_ ?_ ?_

theorem State.installFails_kept (s : State) (r : ℕ) (h : Kept s0 s) :
    Kept s0 (State.installFails s r) := by
  unfold State.installFails; try dsimp only
  repeat' first
    | with_reducible assumption
    | with_reducible apply State.event_kept
    | with_reducible apply State.modFwSlot_kept
    | with_reducible exact List.prefix_rfl
    | with_reducible exact Nat.le_refl _
    | with_reducible exact fun h => h
    | with_reducible refine kept_mk ?_ ?_ ?_ ?_ ?_ ?_ ?_ ?_ ?_ ?_

theorem State.ready_kept (s : State) (h : Kept s0 s) :
    Kept s0 (State.ready s) := by
  unfold State.ready; try dsimp only
  repeat' first
    | with_reducible assumption
    | with_reducible apply State.modFwSlot_kept
    | with_reducible apply State.event_kept
    | with_reducible exact List.prefix_rfl
    | with_reducible exact Nat.le_refl _
    | with_reducible exact fun h => h
    | with_reducible apply kept_ite
    | with_reducible intro _
    | with_reducible refine kept_mk ?_ ?_ ?_ ?_ ?_ ?_ ?_ ?_ ?_ ?_

theorem State.linkUp_kept (s : State) (found : List CxlFound) (h : Kept s0 s) :
    Kept s0 (State.linkUp s found) := by
  unfold State.linkUp; try dsimp only
  repeat' first
    | with_reducible assumption
    | with_reducible apply State.ready_kept
    | with_reducible apply State.decodeCxl_kept
    | with_reducible apply State.safePoint_kept

theorem State.markSpares_kept (s : State) (failed : List ℕ) (h : Kept s0 s) :
    Kept s0 (State.markSpares s failed) := by
  unfold State.markSpares; try dsimp only
  repeat' first
    | with_reducible assumption
    | with_reducible exact List.prefix_rfl
    | with_reducible exact Nat.le_refl _
    | with_reducible exact fun h => h
    | with_reducible apply kept_ite
    | with_reducible intro _
    | split
    | with_reducible refine kept_mk ?_ ?_ ?_ ?_ ?_ ?_ ?_ ?_ ?_ ?_

theorem State.readStore_kept (s : State) (h : Kept s0 s) :
    Kept s0 (State.readStore s) := by
  unfold State.readStore; try dsimp only
  repeat' first
    | with_reducible assumption
    | with_reducible apply State.event_kept
    | with_reducible apply State.factoryDefaults_kept
    | with_reducible apply State.restoreValues_kept
    | with_reducible apply State.storeValues_kept
    | with_reducible apply State.enterStage_kept
    | with_reducible apply State.indexFlash_kept
    | with_reducible exact List.prefix_rfl
    | with_reducible exact Nat.le_refl _
    | with_reducible exact fun h => h
    | with_reducible apply kept_ite
    | with_reducible intro _
    | split
    | with_reducible refine kept_mk ?_ ?_ ?_ ?_ ?_ ?_ ?_ ?_ ?_ ?_

theorem State.startFails_kept (s : State) (h : Kept s0 s) :
    Kept s0 (State.startFails s) := by
  unfold State.startFails; try dsimp only
  repeat' first
    | with_reducible assumption
    | exact safeOk_set rfl
    | with_reducible exact List.prefix_rfl
    | with_reducible exact Nat.le_refl _
    | with_reducible exact fun h => h
    | with_reducible exact safeOk_of rfl rfl
    | with_reducible refine kept_mk ?_ ?_ ?_ ?_ ?_ ?_ ?_ ?_ ?_ ?_

theorem State.reload_kept (s : State) (h : Kept s0 s) :
    Kept s0 (State.reload s) := by
  unfold State.reload; try dsimp only
  repeat' first
    | with_reducible assumption
    | with_reducible apply State.startFails_kept
    | with_reducible apply State.enterStage_kept
    | with_reducible exact List.prefix_rfl
    | with_reducible exact Nat.le_refl _
    | with_reducible exact fun h => h
    | with_reducible apply kept_ite
    | with_reducible intro _
    | with_reducible refine kept_mk ?_ ?_ ?_ ?_ ?_ ?_ ?_ ?_ ?_ ?_

theorem State.selectSlot_kept (s : State) (h : Kept s0 s) :
    Kept s0 (State.selectSlot s) := by
  unfold State.selectSlot; try dsimp only
  repeat' first
    | with_reducible assumption
    | with_reducible apply State.enterStump_kept
    | with_reducible apply State.enterStage_kept
    | with_reducible apply State.bootSlot_kept
    | with_reducible apply State.bootActive_kept
    | with_reducible apply State.event_kept
    | with_reducible apply State.modFwSlot_kept
    | with_reducible apply kept_ite
    | with_reducible intro _
    | split

theorem State.serveBlob_kept (s : State) (q : Req) (index : ℕ) (sub : ℕ) (n : ℕ) (act : State → Bytes → Answer)(hact : ∀ s y0, Kept s0 s → KeptA s0 (act s y0)) (h : Kept s0 s) :
    Kept s0 (State.serveBlob s q index sub n act) := by
  unfold State.serveBlob; try dsimp only
  repeat' first
    | with_reducible assumption
    | with_reducible apply State.serve_kept
    | with_reducible apply State.blobSegment_kept
    | with_reducible apply refuse_kept
    | with_reducible apply hact
    | with_reducible apply kept_ite
    | with_reducible apply keptA_ite
    | with_reducible apply keptA_refuse
    | with_reducible intro _

theorem State.stageFails_kept (s : State) (h : Kept s0 s) :
    Kept s0 (State.stageFails s) := by
  unfold State.stageFails; try dsimp only
  repeat' first
    | with_reducible assumption
    | with_reducible apply State.enterStump_kept
    | with_reducible apply State.startFails_kept
    | with_reducible apply kept_ite
    | with_reducible intro _

theorem State.tested_kept (s : State) (dies : List ℕ) (lanes : List LaneFault) (h : Kept s0 s) :
    Kept s0 (State.tested s dies lanes) := by
  unfold State.tested; try dsimp only
  repeat' first
    | with_reducible assumption
    | with_reducible apply State.fuseLanes_kept
    | with_reducible apply State.enterStump_kept
    | with_reducible apply State.fault_kept
    | with_reducible apply State.markSpares_kept
    | with_reducible apply State.startFails_kept
    | with_reducible apply State.enterStage_kept
    | with_reducible exact List.prefix_rfl
    | with_reducible exact Nat.le_refl _
    | with_reducible exact fun h => h
    | with_reducible apply kept_ite
    | with_reducible apply kept_foldl
    | with_reducible intro _
    | with_reducible refine kept_mk ?_ ?_ ?_ ?_ ?_ ?_ ?_ ?_ ?_ ?_

theorem execAttestNonce_kept (q : Req) (s : State) (h : Kept s0 s) :
    KeptR s0 (execAttestNonce q s) := by
  unfold execAttestNonce; try dsimp only
  repeat' first
    | with_reducible assumption
    | with_reducible apply State.serveBlob_kept
    | with_reducible apply refuse_kept
    | with_reducible apply accept_kept
    | with_reducible exact List.prefix_rfl
    | with_reducible exact Nat.le_refl _
    | with_reducible exact fun h => h
    | with_reducible apply kept_ite
    | with_reducible apply keptR_ite
    | with_reducible apply keptA_ite
    | with_reducible apply keptR_next
    | with_reducible apply keptA_refuse
    | with_reducible apply keptA_accept
    | with_reducible intro _
    | with_reducible refine kept_mk ?_ ?_ ?_ ?_ ?_ ?_ ?_ ?_ ?_ ?_

theorem execCardChanged_kept (card : ℕ) (file : Bytes) (s : State) (h : Kept s0 s) :
    KeptR s0 (execCardChanged card file s) := by
  unfold execCardChanged; try dsimp only
  repeat' first
    | with_reducible assumption
    | with_reducible apply State.installFails_kept
    | with_reducible exact List.prefix_rfl
    | with_reducible exact Nat.le_refl _
    | with_reducible exact fun h => h
    | with_reducible apply kept_ite
    | with_reducible apply keptR_ite
    | with_reducible apply keptR_next
    | with_reducible intro _
    | with_reducible refine kept_mk ?_ ?_ ?_ ?_ ?_ ?_ ?_ ?_ ?_ ?_

theorem execFlashVerify_kept (failed : List ℕ) (s : State) (h : Kept s0 s) :
    KeptR s0 (execFlashVerify failed s) := by
  unfold execFlashVerify; try dsimp only
  repeat' first
    | with_reducible assumption
    | with_reducible apply State.areaFails_kept
    | with_reducible exact List.prefix_rfl
    | with_reducible exact Nat.le_refl _
    | with_reducible exact fun h => h
    | with_reducible apply kept_ite
    | with_reducible apply keptR_ite
    | with_reducible apply keptR_next
    | with_reducible apply kept_foldl
    | with_reducible intro _
    | with_reducible refine kept_mk ?_ ?_ ?_ ?_ ?_ ?_ ?_ ?_ ?_ ?_

theorem execFwCardInstall_kept (q : Req) (s : State) (h : Kept s0 s) :
    KeptR s0 (execFwCardInstall q s) := by
  unfold execFwCardInstall; try dsimp only
  repeat' first
    | with_reducible assumption
    | with_reducible apply State.serveWrite_kept
    | with_reducible apply refuse_kept
    | with_reducible apply accept_kept
    | with_reducible exact List.prefix_rfl
    | with_reducible exact Nat.le_refl _
    | with_reducible exact fun h => h
    | with_reducible apply kept_ite
    | with_reducible apply keptR_ite
    | with_reducible apply keptA_ite
    | with_reducible apply keptR_next
    | with_reducible apply keptA_refuse
    | with_reducible apply keptA_accept
    | with_reducible intro _
    | with_reducible refine kept_mk ?_ ?_ ?_ ?_ ?_ ?_ ?_ ?_ ?_ ?_

theorem execFwConfirm_kept (q : Req) (s : State) (h : Kept s0 s) :
    KeptR s0 (execFwConfirm q s) := by
  unfold execFwConfirm; try dsimp only
  repeat' first
    | with_reducible assumption
    | with_reducible apply State.serveBlob_kept
    | with_reducible apply refuse_kept
    | with_reducible apply State.modFwSlot_kept
    | with_reducible apply accept_kept
    | with_reducible apply State.event_kept
    | with_reducible exact List.prefix_rfl
    | with_reducible exact Nat.le_refl _
    | with_reducible exact fun h => h
    | with_reducible apply kept_ite
    | with_reducible apply keptR_ite
    | with_reducible apply keptA_ite
    | with_reducible apply keptR_next
    | with_reducible apply keptA_refuse
    | with_reducible apply keptA_accept
    | with_reducible intro _
    | with_reducible refine kept_mk ?_ ?_ ?_ ?_ ?_ ?_ ?_ ?_ ?_ ?_

theorem execFwInstallComplete_kept (flash : FlashReport) (s : State) (h : Kept s0 s) :
    KeptR s0 (execFwInstallComplete flash s) := by
  unfold execFwInstallComplete; try dsimp only
  repeat' first
    | with_reducible assumption
    | with_reducible apply State.flashWrite_kept
    | with_reducible apply State.putTrial_kept
    | with_reducible apply State.installFails_kept
    | with_reducible exact List.prefix_rfl
    | with_reducible exact Nat.le_refl _
    | with_reducible exact fun h => h
    | with_reducible apply kept_ite
    | with_reducible apply keptR_ite
    | with_reducible apply keptR_next
    | with_reducible intro _
    | with_reducible refine kept_mk ?_ ?_ ?_ ?_ ?_ ?_ ?_ ?_ ?_ ?_

theorem execLifecycleReturn_kept (q : Req) (s : State) (h : Kept s0 s) :
    KeptR s0 (execLifecycleReturn q s) := by
  unfold execLifecycleReturn; try dsimp only
  repeat' first
    | with_reducible assumption
    | with_reducible apply State.serveBlob_kept
    | with_reducible apply refuse_kept
    | with_reducible apply accept_kept
    | with_reducible exact List.prefix_rfl
    | with_reducible exact Nat.le_refl _
    | with_reducible exact fun h => h
    | with_reducible apply kept_ite
    | with_reducible apply keptR_ite
    | with_reducible apply keptA_ite
    | with_reducible apply keptR_next
    | with_reducible apply keptA_refuse
    | with_reducible apply keptA_accept
    | with_reducible intro _
    | with_reducible refine kept_mk ?_ ?_ ?_ ?_ ?_ ?_ ?_ ?_ ?_ ?_

theorem execModuleRestart_kept (q : Req) (s : State) (h : Kept s0 s) :
    KeptR s0 (execModuleRestart q s) := by
  unfold execModuleRestart; try dsimp only
  repeat' first
    | with_reducible assumption
    | with_reducible apply State.serveWrite_kept
    | with_reducible apply refuse_kept
    | with_reducible apply accept_kept
    | with_reducible apply State.enterStage_kept
    | with_reducible apply State.restarted_kept
    | with_reducible apply kept_ite
    | with_reducible apply keptR_ite
    | with_reducible apply keptA_ite
    | with_reducible apply keptR_next
    | with_reducible apply keptA_refuse
    | with_reducible apply keptA_accept
    | with_reducible intro _

theorem execPowerGood_kept (oscdly : ℕ) (s : State) (h : Kept s0 s) :
    KeptR s0 (execPowerGood oscdly s) := by
  unfold execPowerGood; try dsimp only
  repeat' first
    | with_reducible assumption
    | with_reducible apply State.restarted_kept
    | with_reducible exact List.prefix_rfl
    | with_reducible exact Nat.le_refl _
    | with_reducible exact fun h => h
    | with_reducible apply kept_ite
    | with_reducible apply keptR_ite
    | with_reducible apply keptR_next
    | with_reducible intro _
    | with_reducible refine kept_mk ?_ ?_ ?_ ?_ ?_ ?_ ?_ ?_ ?_ ?_

theorem execStartStageDone_kept (r : StageReport) (s : State) (h : Kept s0 s) :
    KeptR s0 (execStartStageDone r s) := by
  unfold execStartStageDone; try dsimp only
  repeat' first
    | with_reducible assumption
    | with_reducible apply State.stageFails_kept
    | with_reducible apply State.enterStage_kept
    | with_reducible apply State.enterStump_kept
    | with_reducible apply State.selectSlot_kept
    | with_reducible apply State.tested_kept
    | with_reducible apply State.fuses_kept
    | with_reducible apply State.reload_kept
    | with_reducible apply State.readStore_kept
    | with_reducible apply State.linkUp_kept
    | with_reducible exact List.prefix_rfl
    | with_reducible exact Nat.le_refl _
    | with_reducible exact fun h => h
    | with_reducible apply kept_ite
    | with_reducible apply keptR_ite
    | with_reducible apply keptR_next
    | with_reducible intro _
    | split
    | with_reducible refine kept_mk ?_ ?_ ?_ ?_ ?_ ?_ ?_ ?_ ?_ ?_

theorem execStartStageTimeout_kept (s : State) (h : Kept s0 s) :
    KeptR s0 (execStartStageTimeout s) := by
  unfold execStartStageTimeout; try dsimp only
  repeat' first
    | with_reducible assumption
    | with_reducible apply State.stageFails_kept
    | with_reducible apply kept_ite
    | with_reducible apply keptR_ite
    | with_reducible apply keptR_next
    | with_reducible intro _

theorem execTamper_kept (s : State) (h : Kept s0 s) :
    KeptR s0 (execTamper s) := by
  unfold execTamper; try dsimp only
  repeat' first
    | with_reducible assumption
    | with_reducible apply State.wipeKeys_kept
    | with_reducible apply State.fault_kept
    | with_reducible exact List.prefix_rfl
    | with_reducible exact Nat.le_refl _
    | with_reducible exact fun h => h
    | with_reducible apply kept_ite
    | with_reducible apply keptR_ite
    | with_reducible apply keptR_next
    | with_reducible intro _
    | with_reducible refine kept_mk ?_ ?_ ?_ ?_ ?_ ?_ ?_ ?_ ?_ ?_

end Sys2Proof.Machine
end

