-- ==== Sys2Proof/Laws/KeptRegisters.lean ====
section
/-! SUPPORT. What the operations of Machine/Registers.lean keep. -/

namespace Sys2Proof.Machine

variable {s0 : State}

theorem State.writeGates_kept (s : State) (d : ℕ) (v : ℕ) (h : Kept s0 s) :
    Kept s0 (State.writeGates s d v) := by
  unfold State.writeGates; try dsimp only
  repeat' first
    | with_reducible assumption
    | with_reducible exact List.prefix_rfl
    | with_reducible exact Nat.le_refl _
    | with_reducible exact fun h => h
    | with_reducible apply kept_ite
    | with_reducible intro _
    | with_reducible refine kept_mk ?_ ?_ ?_ ?_ ?_ ?_ ?_ ?_ ?_ ?_

theorem State.regPut_kept (s : State) (a : ℕ) (v : ℕ) (h : Kept s0 s) :
    KeptO s0 (State.regPut s a v) := by
  unfold State.regPut; try dsimp only
  repeat' first
    | with_reducible assumption
    | with_reducible apply State.modCl_kept
    | with_reducible apply State.diagSelect_kept
    | with_reducible apply State.writeGates_kept
    | with_reducible apply State.modBank_kept
    | with_reducible apply State.modBase_kept
    | with_reducible apply State.modPort_kept
    | with_reducible apply State.modInst_kept
    | with_reducible exact List.prefix_rfl
    | with_reducible exact Nat.le_refl _
    | with_reducible exact fun h => h
    | with_reducible exact hostOk_of rfl rfl
    | with_reducible apply kept_ite
    | with_reducible apply keptO_ite
    | with_reducible apply keptO_some
    | with_reducible exact keptO_none
    | with_reducible intro _
    | split
    | with_reducible refine kept_mk ?_ ?_ ?_ ?_ ?_ ?_ ?_ ?_ ?_ ?_

theorem State.regWrite_kept (s : State) (a : ℕ) (size : ℕ) (v : ℕ) (h : Kept s0 s) :
    KeptO s0 (State.regWrite s a size v) := by
  unfold State.regWrite; try dsimp only
  repeat' first
    | with_reducible assumption
    | with_reducible apply State.regPut_kept
    | with_reducible apply kept_ite
    | with_reducible apply keptO_ite
    | with_reducible apply keptO_some
    | with_reducible exact keptO_none
    | with_reducible apply keptO_getD
    | with_reducible refine kept_of_some (by assumption) ?_
    | with_reducible intro _
    | split

theorem execClkGate_kept (die : ℕ) (value : ℕ) (s : State) (h : Kept s0 s) :
    KeptR s0 (execClkGate die value s) := by
  unfold execClkGate; try dsimp only
  repeat' first
    | with_reducible assumption
    | with_reducible apply State.writeGates_kept
    | with_reducible apply keptR_next

end Sys2Proof.Machine
end

