-- ==== Sys2Proof/Laws/KeptTallyCmds.lean ====
section
/-! SUPPORT. What the operations of Machine/TallyCmds.lean keep. -/

namespace Sys2Proof.Machine

variable {s0 : State}

theorem State.acceptApply_kept (s : State) (g : ℕ) (h : Kept s0 s) :
    Kept s0 (State.acceptApply s g) := by
  unfold State.acceptApply; try dsimp only
  repeat' first
    | with_reducible assumption
    | with_reducible apply State.event_kept
    | with_reducible exact List.prefix_rfl
    | with_reducible exact Nat.le_refl _
    | with_reducible exact fun h => h
    | with_reducible apply kept_ite
    | with_reducible intro _
    | with_reducible refine kept_mk ?_ ?_ ?_ ?_ ?_ ?_ ?_ ?_ ?_ ?_

theorem State.diagAnswer_kept (s : State) (h : Kept s0 s) :
    KeptA s0 (State.diagAnswer s) := by
  unfold State.diagAnswer; try dsimp only
  repeat' first
    | with_reducible assumption
    | with_reducible apply refuse_kept
    | assumption
    | with_reducible apply keptA_refuse
    | with_reducible apply keptA_mk
    | split

theorem State.diagWrite_kept (s : State) (v : ℕ) (h : Kept s0 s) :
    KeptA s0 (State.diagWrite s v) := by
  unfold State.diagWrite; try dsimp only
  repeat' first
    | with_reducible assumption
    | with_reducible apply refuse_kept
    | with_reducible apply State.regWrite_kept
    | with_reducible apply accept_kept
    | assumption
    | with_reducible apply keptA_refuse
    | with_reducible apply keptA_accept
    | with_reducible refine kept_of_some (by assumption) ?_
    | split

theorem segment_kept (s : State) (v : Bytes) (offset : ℕ) (h : Kept s0 s) :
    KeptA s0 (segment s v offset) := by
  unfold segment; try dsimp only
  repeat' first
    | with_reducible assumption
    | with_reducible apply keptA_mk

theorem State.logAnswer_kept (s : State) (offset : ℕ) (h : Kept s0 s) :
    KeptA s0 (State.logAnswer s offset) := by
  unfold State.logAnswer; try dsimp only
  repeat' first
    | with_reducible assumption
    | with_reducible apply segment_kept
    | with_reducible exact List.prefix_rfl
    | with_reducible exact Nat.le_refl _
    | with_reducible exact fun h => h
    | with_reducible exact logOk_of rfl rfl
    | with_reducible apply kept_ite
    | with_reducible apply keptA_ite
    | with_reducible apply keptA_mk
    | with_reducible intro _
    | with_reducible refine kept_mk ?_ ?_ ?_ ?_ ?_ ?_ ?_ ?_ ?_ ?_

theorem State.storeValue_kept (s : State) (q : Req) (o : Obj) (flash : FlashReport) (v : Bytes) (h : Kept s0 s) :
    KeptA s0 (State.storeValue s q o flash v) := by
  unfold State.storeValue; try dsimp only
  repeat' first
    | with_reducible assumption
    | with_reducible apply refuse_kept
    | with_reducible apply State.flashWrite_kept
    | with_reducible apply accept_kept
    | with_reducible apply State.setFormats_kept
    | with_reducible apply State.putValue_kept
    | with_reducible exact List.prefix_rfl
    | with_reducible exact Nat.le_refl _
    | with_reducible exact fun h => h
    | with_reducible apply kept_ite
    | with_reducible apply keptA_ite
    | with_reducible apply keptA_refuse
    | with_reducible apply keptA_accept
    | with_reducible intro _
    | with_reducible refine kept_mk ?_ ?_ ?_ ?_ ?_ ?_ ?_ ?_ ?_ ?_

theorem State.writeBlob_kept (s : State) (q : Req) (o : Obj) (flash : FlashReport) (h : Kept s0 s) :
    KeptA s0 (State.writeBlob s q o flash) := by
  unfold State.writeBlob; try dsimp only
  repeat' first
    | with_reducible assumption
    | with_reducible apply State.blobSegment_kept
    | with_reducible apply refuse_kept
    | with_reducible apply State.storeValue_kept
    | with_reducible apply kept_ite
    | with_reducible apply keptA_ite
    | with_reducible apply keptA_refuse
    | with_reducible intro _

theorem State.writeFixed_kept (s : State) (q : Req) (o : Obj) (n : ℕ) (flash : FlashReport) (h : Kept s0 s) :
    KeptA s0 (State.writeFixed s q o n flash) := by
  unfold State.writeFixed; try dsimp only
  repeat' first
    | with_reducible assumption
    | with_reducible apply refuse_kept
    | with_reducible apply State.storeValue_kept
    | with_reducible apply kept_ite
    | with_reducible apply keptA_ite
    | with_reducible apply keptA_refuse
    | with_reducible intro _

theorem execApplySafePoint_kept (g : ℕ) (s : State) (h : Kept s0 s) :
    KeptR s0 (execApplySafePoint g s) := by
  unfold execApplySafePoint; try dsimp only
  repeat' first
    | with_reducible assumption
    | with_reducible apply State.safePoint_kept
    | exact keptR_fault
    | with_reducible apply kept_ite
    | with_reducible apply keptR_ite
    | with_reducible apply keptR_next
    | with_reducible intro _
    | split

theorem execDescribe_kept (q : Req) (s : State) (h : Kept s0 s) :
    KeptR s0 (execDescribe q s) := by
  unfold execDescribe; try dsimp only
  repeat' first
    | with_reducible assumption
    | with_reducible apply State.serve_kept
    | with_reducible apply refuse_kept
    | assumption
    | with_reducible apply keptR_next
    | with_reducible apply keptA_refuse
    | with_reducible apply keptA_mk
    | with_reducible intro _
    | split

theorem execDiagRegRead_kept (q : Req) (s : State) (h : Kept s0 s) :
    KeptR s0 (execDiagRegRead q s) := by
  unfold execDiagRegRead; try dsimp only
  repeat' first
    | with_reducible assumption
    | with_reducible apply State.serve_kept
    | with_reducible apply State.diagAnswer_kept
    | with_reducible apply kept_ite
    | with_reducible apply keptR_ite
    | with_reducible apply keptA_ite
    | with_reducible apply keptR_next
    | with_reducible intro _

theorem execDiagRegWrite_kept (q : Req) (s : State) (h : Kept s0 s) :
    KeptR s0 (execDiagRegWrite q s) := by
  unfold execDiagRegWrite; try dsimp only
  repeat' first
    | with_reducible assumption
    | with_reducible apply State.serveWrite_kept
    | with_reducible apply State.diagWrite_kept
    | with_reducible apply keptR_next
    | with_reducible intro _

theorem execEventLog_kept (q : Req) (s : State) (h : Kept s0 s) :
    KeptR s0 (execEventLog q s) := by
  unfold execEventLog; try dsimp only
  repeat' first
    | with_reducible assumption
    | with_reducible apply State.serve_kept
    | with_reducible apply State.logAnswer_kept
    | with_reducible apply kept_ite
    | with_reducible apply keptR_ite
    | with_reducible apply keptA_ite
    | with_reducible apply keptR_next
    | with_reducible intro _

theorem execPersistWrite_kept (flash : FlashReport) (s : State) (h : Kept s0 s) :
    KeptR s0 (execPersistWrite flash s) := by
  unfold execPersistWrite; try dsimp only
  repeat' first
    | with_reducible assumption
    | with_reducible apply State.flashWrite_kept
    | with_reducible apply State.storeValues_kept
    | with_reducible apply State.event_kept
    | with_reducible exact List.prefix_rfl
    | with_reducible exact Nat.le_refl _
    | with_reducible exact fun h => h
    | with_reducible apply kept_ite
    | with_reducible apply keptR_ite
    | with_reducible apply keptR_next
    | with_reducible intro _
    | with_reducible refine kept_mk ?_ ?_ ?_ ?_ ?_ ?_ ?_ ?_ ?_ ?_

theorem execRead_kept (q : Req) (s : State) (h : Kept s0 s) :
    KeptR s0 (execRead q s) := by
  unfold execRead; try dsimp only
  repeat' first
    | with_reducible assumption
    | with_reducible apply State.serve_kept
    | with_reducible apply refuse_kept
    | with_reducible apply State.diagAnswer_kept
    | with_reducible apply State.logAnswer_kept
    | with_reducible apply segment_kept
    | with_reducible apply kept_ite
    | with_reducible apply keptR_ite
    | with_reducible apply keptA_ite
    | with_reducible apply keptR_next
    | with_reducible apply keptA_refuse
    | with_reducible intro _
    | split

theorem execTallyApply_kept (q : Req) (s : State) (h : Kept s0 s) :
    KeptR s0 (execTallyApply q s) := by
  unfold execTallyApply; try dsimp only
  repeat' first
    | with_reducible assumption
    | with_reducible apply State.serveWrite_kept
    | with_reducible apply refuse_kept
    | with_reducible apply accept_kept
    | with_reducible apply State.acceptApply_kept
    | with_reducible apply kept_ite
    | with_reducible apply keptR_ite
    | with_reducible apply keptA_ite
    | with_reducible apply keptR_next
    | with_reducible apply keptA_refuse
    | with_reducible apply keptA_accept
    | with_reducible intro _

theorem some_ite_kept {c : Prop} [Decidable c] {a r : Res} {b : Option Res} (e : (if c then some a else b) = some r)
    (ha : KeptR s0 a) (hb : b = some r → KeptR s0 r) : KeptR s0 r := by
  split at e
  · cases e; exact ha
  · exact hb e

theorem writeOwn_kept (q : Req) (s : State) (r : Res) (e : writeOwn q s = some r) (h : Kept s0 s) : KeptR s0 r := by
  unfold writeOwn at e
  split at e
  · refine some_ite_kept e (execStart_kept _ _ h) fun e => some_ite_kept e (execPauseStep_kept _ _ h) fun e =>
      some_ite_kept e (execPausePass_kept _ _ h) fun e => some_ite_kept e (execResume_kept _ _ h) fun e =>
      some_ite_kept e (execStop_kept _ _ h) fun e => some_ite_kept e (execUnload_kept _ _ h) fun e => nomatch e
  · cases e; exact execPlanSlot_kept _ _ h
  · cases e; exact execRestoreStep_kept _ _ h
  · cases e; exact execRestoreStep_kept _ _ h
  · exact some_ite_kept e (execRestoreGoStart_kept _ _ h) fun e => some_ite_kept e (execRestoreGoStop_kept _ _ h) fun e => nomatch e
  · cases e; exact execModuleRestart_kept _ _ h
  · cases e; exact execFwConfirm_kept _ _ h
  · cases e; exact execFwCardInstall_kept _ _ h
  · cases e; exact execLifecycleReturn_kept _ _ h
  · cases e; exact execAttestNonce_kept _ _ h
  · cases e; exact execDiagRegWrite_kept _ _ h
  · exact some_ite_kept e (execOperatorKey_kept _ _ h) fun e => nomatch e
  · exact some_ite_kept e (execTallyApply_kept _ _ h) fun e => nomatch e
  · cases e

theorem execWrite_kept (q : Req) (flash : FlashReport) (s : State) (h : Kept s0 s) : KeptR s0 (execWrite q flash s) := by
  unfold execWrite
  cases e : writeOwn q s with
  | some r => exact writeOwn_kept q s r e h
  | none =>
    refine keptR_next (State.serve_kept _ _ _ _ _ _ (fun s h => ?_) h)
    split
    · exact h
    · refine keptA_ite (fun _ => h) fun _ => ?_
      split
      · exact State.writeFixed_kept _ _ _ _ _ h
      · exact State.writeBlob_kept _ _ _ _ h

end Sys2Proof.Machine
end

