-- ==== Sys2Proof/Laws/TouchArrayCmds.lean ====
section
/-! SUPPORT. Which parts of the state the operations of Machine/ArrayCmds.lean may change. -/

namespace Sys2Proof.Machine

variable {s0 : State} {ps : List Part}

theorem State.diagSelect_touch (hp : ([.clusters] : List Part) ⊆ ps) (s : State) (die : ℕ) (n : ℕ) (value : ℕ)  (h : Touch ps s0 s) :
    Touch ps s0 (State.diagSelect s die n value) := by
  unfold State.diagSelect; try dsimp only
  repeat' first
    | with_reducible assumption
    | exact List.Subset.trans (by decide) hp
    | with_reducible apply State.modCl_touch
    | split

theorem State.drainPut_touch (hp : ([.clusters] : List Part) ⊆ ps) (s : State) (cl : ℕ) (f : Fetched) (kind : DrainKind) (m : ℕ) (n : ℕ) (mask : ℕ × ℕ)  (h : Touch ps s0 s) :
    Touch ps s0 (State.drainPut s cl f kind m n mask) := by
  unfold State.drainPut; try dsimp only
  repeat' first
    | with_reducible assumption
    | exact List.Subset.trans (by decide) hp
    | with_reducible apply State.modCl_touch
    | with_reducible apply State.place_touch
    | with_reducible refine touch_of_snd (by assumption) ?_

theorem State.drainIssue_touch (hp : ([.clusters] : List Part) ⊆ ps) (s : State) (cl : ℕ) (f : Fetched)  (h : Touch ps s0 s) :
    Touch ps s0 (State.drainIssue s cl f) := by
  unfold State.drainIssue; try dsimp only
  repeat' first
    | with_reducible assumption
    | exact List.Subset.trans (by decide) hp
    | with_reducible apply State.modCl_touch
    | with_reducible apply State.drainPut_touch
    | with_reducible apply touch_ite
    | with_reducible intro _

theorem State.rowTaken_touch (hp : ([.clusters] : List Part) ⊆ ps) (s : State) (cl : ℕ) (d : DrainOp)  (h : Touch ps s0 s) :
    Touch ps s0 (State.rowTaken s cl d) := by
  unfold State.rowTaken; try dsimp only
  repeat' first
    | with_reducible assumption
    | exact List.Subset.trans (by decide) hp
    | with_reducible apply State.modCl_touch

theorem State.drainOne_touch (hp : ([.log, .stats, .clusters, .job, .upd, .banks, .skid, .host, .mem, .ctr, .out] : List Part) ⊆ ps) (s : State) (cl : ℕ) (d : DrainOp)  (h : Touch ps s0 s) :
    Touch ps s0 (State.drainOne s cl d) := by
  unfold State.drainOne; try dsimp only
  repeat' first
    | with_reducible assumption
    | exact List.Subset.trans (by decide) hp
    | with_reducible apply State.drainRow_touch
    | with_reducible apply State.rowTaken_touch
    | with_reducible refine touch_of_some (by assumption) ?_
    | split

theorem State.drainRetire_touch (hp : ([.log, .stats, .clusters, .skid, .sync, .host, .ctr, .out] : List Part) ⊆ ps) (s : State) (cl : ℕ) (d : DrainOp)  (h : Touch ps s0 s) :
    Touch ps s0 (State.drainRetire s cl d) := by
  unfold State.drainRetire; try dsimp only
  repeat' first
    | with_reducible assumption
    | exact List.Subset.trans (by decide) hp
    | with_reducible apply State.settle_touch
    | with_reducible apply State.modCl_touch

theorem State.drainRows_touch (hp : ([.log, .stats, .clusters, .job, .upd, .banks, .skid, .host, .mem, .ctr, .out] : List Part) ⊆ ps) (s : State) (cl fuel : ℕ) (h : Touch ps s0 s) : Touch ps s0 (s.drainRows cl fuel) := by
  induction fuel generalizing s with
  | zero => exact h
  | succ n ih =>
    unfold State.drainRows
    split
    · exact h
    · exact touch_ite (fun _ => h) fun _ => ih _ (State.drainOne_touch (List.Subset.trans (by decide) hp) _ _ _ h)

theorem State.katIssue_touch (hp : ([.clusters] : List Part) ⊆ ps) (s : State) (cl : ℕ) (f : Fetched)  (h : Touch ps s0 s) :
    Touch ps s0 (State.katIssue s cl f) := by
  unfold State.katIssue; try dsimp only
  repeat' first
    | with_reducible assumption
    | exact List.Subset.trans (by decide) hp
    | with_reducible apply State.modCl_touch
    | with_reducible apply State.place_touch
    | with_reducible refine touch_of_snd (by assumption) ?_

theorem State.passIssue_touch (hp : ([.clusters, .ctr] : List Part) ⊆ ps) (s : State) (cl : ℕ) (f : Fetched) (kind : PassKind) (m : ℕ) (n : ℕ) (k : ℕ)  (h : Touch ps s0 s) :
    Touch ps s0 (State.passIssue s cl f kind m n k) := by
  unfold State.passIssue; try dsimp only
  repeat' first
    | with_reducible assumption
    | exact List.Subset.trans (by decide) hp
    | with_reducible apply State.passRetired_touch
    | with_reducible apply State.modCl_touch
    | with_reducible apply State.place_touch
    | with_reducible apply touch_ite
    | with_reducible refine touch_of_snd (by assumption) ?_
    | with_reducible intro _

theorem State.residueFail_touch (hp : ([.log, .safe, .stats, .clusters, .job, .upd, .limbers, .cow, .skid, .host, .ingest, .snap, .ctr, .out] : List Part) ⊆ ps) (s : State) (cl : ℕ) (tile : ℕ) (row : ℕ) (col : ℕ)  (h : Touch ps s0 s) :
    Touch ps s0 (State.residueFail s cl tile row col) := by
  unfold State.residueFail; try dsimp only
  repeat' first
    | with_reducible assumption
    | exact List.Subset.trans (by decide) hp
    | with_reducible apply State.fault_touch

theorem execArrayPassComplete_touch (hp : ([.log, .safe, .stats, .clusters, .job, .upd, .limbers, .cow, .cxl, .base, .skid, .sync, .host, .ingest, .snap, .ctr, .out] : List Part) ⊆ ps) (cl : ℕ) (checks : List MemCheck) (s : State)  (h : Touch ps s0 s) :
    TouchR ps s0 (execArrayPassComplete cl checks s) := by
  unfold execArrayPassComplete; try dsimp only
  repeat' first
    | with_reducible assumption
    | exact List.Subset.trans (by decide) hp
    | with_reducible apply State.bump_touch
    | with_reducible apply State.modCl_touch
    | with_reducible apply State.checked_touch
    | with_reducible apply State.settle_touch
    | with_reducible apply State.passRetired_touch
    | with_reducible apply State.passEffect_touch
    | with_reducible apply touch_ite
    | with_reducible apply touchR_ite
    | with_reducible apply touchR_next
    | with_reducible refine touch_of_snd (by assumption) ?_
    | with_reducible intro _
    | split

theorem execClusterPauseSpill_touch (hp : ([.clusters] : List Part) ⊆ ps) (cl : ℕ) (s : State)  (h : Touch ps s0 s) :
    TouchR ps s0 (execClusterPauseSpill cl s) := by
  unfold execClusterPauseSpill; try dsimp only
  repeat' first
    | with_reducible assumption
    | exact List.Subset.trans (by decide) hp
    | with_reducible apply State.modCl_touch
    | with_reducible apply touch_ite
    | with_reducible apply touchR_ite
    | with_reducible apply touchR_next
    | with_reducible intro _

theorem execConv_touch (hp : ([.log, .safe, .stats, .clusters, .job, .upd, .limbers, .stash, .cow, .skid, .sync, .host, .ingest, .snap, .ctr, .out, .free] : List Part) ⊆ ps) (cl : ℕ) (s : State)  (h : Touch ps s0 s) :
    TouchR ps s0 (execConv cl s) := by
  unfold execConv; try dsimp only
  repeat' first
    | with_reducible assumption
    | exact List.Subset.trans (by decide) hp
    | with_reducible apply State.issue_touch
    | with_reducible apply State.passIssue_touch
    | with_reducible apply touchR_next
    | with_reducible intro _
    | split

theorem execCrop_touch (hp : ([.log, .safe, .stats, .clusters, .job, .upd, .limbers, .stash, .cow, .skid, .sync, .host, .ingest, .snap, .ctr, .out, .free] : List Part) ⊆ ps) (cl : ℕ) (s : State)  (h : Touch ps s0 s) :
    TouchR ps s0 (execCrop cl s) := by
  unfold execCrop; try dsimp only
  repeat' first
    | with_reducible assumption
    | exact List.Subset.trans (by decide) hp
    | with_reducible apply State.issue_touch
    | with_reducible apply State.eventOnce_touch
    | with_reducible apply State.bump_touch
    | with_reducible apply State.passIssue_touch
    | with_reducible apply touch_ite
    | with_reducible apply touchR_ite
    | with_reducible apply touchR_next
    | with_reducible apply touchO_getD
    | with_reducible intro _
    | split

theorem execDrain_touch (hp : ([.log, .safe, .stats, .clusters, .job, .upd, .limbers, .stash, .cow, .skid, .sync, .host, .ingest, .snap, .ctr, .out, .free] : List Part) ⊆ ps) (cl : ℕ) (s : State)  (h : Touch ps s0 s) :
    TouchR ps s0 (execDrain cl s) := by
  unfold execDrain; try dsimp only
  repeat' first
    | with_reducible assumption
    | exact List.Subset.trans (by decide) hp
    | with_reducible apply State.issue_touch
    | with_reducible apply State.drainIssue_touch
    | with_reducible apply touchR_next
    | with_reducible intro _

theorem execDrainFence_touch (hp : ([.log, .stats, .clusters, .skid, .sync, .host, .ctr, .out] : List Part) ⊆ ps) (cl : ℕ) (s : State)  (h : Touch ps s0 s) :
    TouchR ps s0 (execDrainFence cl s) := by
  unfold execDrainFence; try dsimp only
  repeat' first
    | with_reducible assumption
    | exact List.Subset.trans (by decide) hp
    | with_reducible apply State.drainRetire_touch
    | with_reducible apply State.modCl_touch
    | with_reducible apply touch_ite
    | with_reducible apply touchR_ite
    | with_reducible apply touchR_next
    | with_reducible intro _
    | split

theorem execDrainPathOpComplete_touch (hp : ([.log, .safe, .stats, .clusters, .job, .upd, .banks, .limbers, .cow, .cxl, .base, .skid, .sync, .host, .ingest, .snap, .mem, .ctr, .out] : List Part) ⊆ ps) (cl : ℕ) (checks : List MemCheck) (s : State)  (h : Touch ps s0 s) :
    TouchR ps s0 (execDrainPathOpComplete cl checks s) := by
  unfold execDrainPathOpComplete; try dsimp only
  repeat' first
    | with_reducible assumption
    | exact List.Subset.trans (by decide) hp
    | with_reducible apply State.checked_touch
    | with_reducible apply State.drainRows_touch
    | with_reducible apply State.drainRetire_touch
    | with_reducible apply touch_ite
    | with_reducible apply touchR_ite
    | with_reducible apply touchR_next
    | with_reducible refine touch_of_snd (by assumption) ?_
    | with_reducible intro _
    | split

theorem execDrainRowWrite_touch (hp : ([.log, .safe, .stats, .clusters, .job, .upd, .banks, .limbers, .cow, .cxl, .base, .skid, .host, .ingest, .snap, .mem, .ctr, .out] : List Part) ⊆ ps) (cl : ℕ) (residue : Option ℕ) (checks : List MemCheck) (s : State)  (h : Touch ps s0 s) :
    TouchR ps s0 (execDrainRowWrite cl residue checks s) := by
  unfold execDrainRowWrite; try dsimp only
  repeat' first
    | with_reducible assumption
    | exact List.Subset.trans (by decide) hp
    | with_reducible apply State.residueFail_touch
    | with_reducible apply State.checked_touch
    | with_reducible apply State.drainOne_touch
    | with_reducible apply State.rowTaken_touch
    | with_reducible apply touch_ite
    | with_reducible apply touchR_ite
    | with_reducible apply touchR_next
    | with_reducible refine touch_of_snd (by assumption) ?_
    | with_reducible intro _
    | split

theorem execDrainSlot_touch (hp : ([.log, .safe, .stats, .clusters, .job, .upd, .limbers, .stash, .cow, .skid, .sync, .host, .ingest, .snap, .ctr, .out, .free] : List Part) ⊆ ps) (cl : ℕ) (s : State)  (h : Touch ps s0 s) :
    TouchR ps s0 (execDrainSlot cl s) := by
  unfold execDrainSlot; try dsimp only
  repeat' first
    | with_reducible assumption
    | exact List.Subset.trans (by decide) hp
    | with_reducible apply State.issue_touch
    | with_reducible apply State.drainIssue_touch
    | with_reducible apply touchR_next
    | with_reducible intro _

theorem execElemwise_touch (hp : ([.log, .safe, .stats, .clusters, .job, .upd, .limbers, .stash, .cow, .skid, .sync, .host, .ingest, .snap, .ctr, .out, .free] : List Part) ⊆ ps) (cl : ℕ) (s : State)  (h : Touch ps s0 s) :
    TouchR ps s0 (execElemwise cl s) := by
  unfold execElemwise; try dsimp only
  repeat' first
    | with_reducible assumption
    | exact List.Subset.trans (by decide) hp
    | with_reducible apply State.issue_touch
    | with_reducible apply State.passIssue_touch
    | with_reducible apply touchR_next
    | with_reducible intro _
    | split

theorem execKat_touch (hp : ([.log, .safe, .stats, .clusters, .job, .upd, .limbers, .stash, .cow, .skid, .sync, .host, .ingest, .snap, .ctr, .out, .free] : List Part) ⊆ ps) (cl : ℕ) (s : State)  (h : Touch ps s0 s) :
    TouchR ps s0 (execKat cl s) := by
  unfold execKat; try dsimp only
  repeat' first
    | with_reducible assumption
    | exact List.Subset.trans (by decide) hp
    | with_reducible apply State.issue_touch
    | with_reducible apply State.katIssue_touch
    | with_reducible apply touchR_next
    | with_reducible intro _
    | split

theorem execKatCheckComplete_touch (hp : ([.log, .safe, .stats, .clusters, .job, .upd, .limbers, .cow, .skid, .sync, .host, .ingest, .snap, .ctr, .out] : List Part) ⊆ ps) (cl : ℕ) (signature : ℕ) (residue : Option (ℕ × ℕ)) (s : State)  (h : Touch ps s0 s) :
    TouchR ps s0 (execKatCheckComplete cl signature residue s) := by
  unfold execKatCheckComplete; try dsimp only
  repeat' first
    | with_reducible assumption
    | exact List.Subset.trans (by decide) hp
    | with_reducible apply State.residueFail_touch
    | with_reducible apply State.fault_touch
    | with_reducible apply State.bump_touch
    | with_reducible apply State.modCl_touch
    | with_reducible apply State.drainRetire_touch
    | with_reducible apply State.passRetired_touch
    | with_reducible apply touch_ite
    | with_reducible apply touchR_ite
    | with_reducible apply touchR_next
    | with_reducible intro _
    | split

theorem execKatMissed_touch (hp : ([.log, .safe, .stats, .clusters, .job, .upd, .limbers, .cow, .skid, .host, .ingest, .snap, .ctr, .out] : List Part) ⊆ ps) (cl : ℕ) (s : State)  (h : Touch ps s0 s) :
    TouchR ps s0 (execKatMissed cl s) := by
  unfold execKatMissed; try dsimp only
  repeat' first
    | with_reducible assumption
    | exact List.Subset.trans (by decide) hp
    | with_reducible apply State.fault_touch
    | with_reducible apply touch_ite
    | with_reducible apply touchR_ite
    | with_reducible apply touchR_next
    | with_reducible intro _
    | split

theorem execMatrix_touch (hp : ([.log, .safe, .stats, .clusters, .job, .upd, .limbers, .stash, .cow, .skid, .sync, .host, .ingest, .snap, .ctr, .out, .free] : List Part) ⊆ ps) (cl : ℕ) (s : State)  (h : Touch ps s0 s) :
    TouchR ps s0 (execMatrix cl s) := by
  unfold execMatrix; try dsimp only
  repeat' first
    | with_reducible assumption
    | exact List.Subset.trans (by decide) hp
    | with_reducible apply State.issue_touch
    | with_reducible apply State.passIssue_touch
    | with_reducible apply touchR_next
    | with_reducible intro _
    | split

theorem execNop_touch (hp : ([.log, .safe, .stats, .clusters, .job, .upd, .limbers, .stash, .cow, .skid, .sync, .host, .ingest, .snap, .ctr, .out, .free] : List Part) ⊆ ps) (cl : ℕ) (s : State)  (h : Touch ps s0 s) :
    TouchR ps s0 (execNop cl s) := by
  unfold execNop; try dsimp only
  repeat' first
    | with_reducible assumption
    | exact List.Subset.trans (by decide) hp
    | with_reducible apply State.issue_touch
    | with_reducible apply touchR_next
    | with_reducible intro _

theorem execRestore_touch (hp : ([.log, .safe, .stats, .clusters, .job, .upd, .limbers, .stash, .cow, .skid, .sync, .host, .ingest, .snap, .ctr, .out, .free] : List Part) ⊆ ps) (cl : ℕ) (s : State)  (h : Touch ps s0 s) :
    TouchR ps s0 (execRestore cl s) := by
  unfold execRestore; try dsimp only
  repeat' first
    | with_reducible assumption
    | exact List.Subset.trans (by decide) hp
    | with_reducible apply State.issue_touch
    | with_reducible apply State.drainPut_touch
    | with_reducible apply State.modCl_touch
    | with_reducible apply touch_ite
    | with_reducible apply touchR_ite
    | with_reducible apply touchR_next
    | with_reducible intro _

theorem execSpillAdd_touch (hp : ([.log, .safe, .stats, .clusters, .job, .upd, .limbers, .stash, .cow, .skid, .sync, .host, .ingest, .snap, .ctr, .out, .free] : List Part) ⊆ ps) (cl : ℕ) (s : State)  (h : Touch ps s0 s) :
    TouchR ps s0 (execSpillAdd cl s) := by
  unfold execSpillAdd; try dsimp only
  repeat' first
    | with_reducible assumption
    | exact List.Subset.trans (by decide) hp
    | with_reducible apply State.issue_touch
    | with_reducible apply State.drainPut_touch
    | with_reducible apply State.modCl_touch
    | with_reducible apply touchR_next
    | with_reducible intro _
    | split

theorem execSpillStore_touch (hp : ([.log, .safe, .stats, .clusters, .job, .upd, .limbers, .stash, .cow, .skid, .sync, .host, .ingest, .snap, .ctr, .out, .free] : List Part) ⊆ ps) (cl : ℕ) (s : State)  (h : Touch ps s0 s) :
    TouchR ps s0 (execSpillStore cl s) := by
  unfold execSpillStore; try dsimp only
  repeat' first
    | with_reducible assumption
    | exact List.Subset.trans (by decide) hp
    | with_reducible apply State.issue_touch
    | with_reducible apply State.drainPut_touch
    | with_reducible apply State.modCl_touch
    | with_reducible apply touchR_next
    | with_reducible intro _
    | split

theorem execXaDiagCaptureDone_touch (hp : ([.log, .safe, .stats, .clusters, .job, .upd, .limbers, .cow, .skid, .host, .ingest, .snap, .ctr, .out] : List Part) ⊆ ps) (die : ℕ) (n : ℕ) (ksteps : ℕ) (residueOk : Bool) (s : State)  (h : Touch ps s0 s) :
    TouchR ps s0 (execXaDiagCaptureDone die n ksteps residueOk s) := by
  unfold execXaDiagCaptureDone; try dsimp only
  repeat' first
    | with_reducible assumption
    | exact List.Subset.trans (by decide) hp
    | with_reducible apply State.modCl_touch
    | with_reducible apply State.bump_touch
    | with_reducible apply State.residueFail_touch
    | with_reducible apply touch_ite
    | with_reducible apply touchR_ite
    | with_reducible apply touchR_next
    | with_reducible intro _
    | split

theorem execXaDiagSel_touch (hp : ([.clusters] : List Part) ⊆ ps) (die : ℕ) (n : ℕ) (value : ℕ) (s : State)  (h : Touch ps s0 s) :
    TouchR ps s0 (execXaDiagSel die n value s) := by
  unfold execXaDiagSel; try dsimp only
  repeat' first
    | with_reducible assumption
    | exact List.Subset.trans (by decide) hp
    | with_reducible apply State.diagSelect_touch
    | with_reducible apply touchR_next

end Sys2Proof.Machine
end

