-- ==== Sys2Proof/Laws/TouchCaptures.lean ====
section
/-! SUPPORT. Which parts of the state the operations of Machine/Captures.lean may change. -/

namespace Sys2Proof.Machine

variable {s0 : State} {ps : List Part}

theorem State.addMember_touch (hp : ([.log, .host, .snap, .ctr, .out] : List Part) ⊆ ps) (s : State) (k : ℕ) (m : ℕ)  (h : Touch ps s0 s) :
    Touch ps s0 (State.addMember s k m) := by
  unfold State.addMember; try dsimp only
  repeat' first
    | with_reducible assumption
    | exact List.Subset.trans (by decide) hp
    | with_reducible apply State.event_touch
    | exact .inr (hp (by decide))
    | with_reducible exact .inl rfl
    | with_reducible apply touch_ite
    | with_reducible intro _
    | with_reducible refine touch_mk ?_ ?_ ?_ ?_ ?_ ?_ ?_ ?_ ?_ ?_ ?_ ?_ ?_ ?_ ?_ ?_ ?_ ?_ ?_ ?_ ?_ ?_ ?_ ?_ ?_ ?_ ?_ ?_ ?_

theorem State.modOwn_touch (hp : ([.snap] : List Part) ⊆ ps) (s : State) (i : ℕ) (f : SnapSlot → SnapSlot)  (h : Touch ps s0 s) :
    Touch ps s0 (State.modOwn s i f) := by
  unfold State.modOwn; try dsimp only
  repeat' first
    | with_reducible assumption
    | exact .inr (hp (by decide))
    | with_reducible exact .inl rfl
    | with_reducible refine touch_mk ?_ ?_ ?_ ?_ ?_ ?_ ?_ ?_ ?_ ?_ ?_ ?_ ?_ ?_ ?_ ?_ ?_ ?_ ?_ ?_ ?_ ?_ ?_ ?_ ?_ ?_ ?_ ?_ ?_

theorem State.beginCapture_touch (hp : ([.log, .cow, .host, .snap, .ctr, .out] : List Part) ⊆ ps) (s : State) (k : ℕ) (i : ℕ)  (h : Touch ps s0 s) :
    Touch ps s0 (State.beginCapture s k i) := by
  unfold State.beginCapture; try dsimp only
  repeat' first
    | with_reducible assumption
    | exact List.Subset.trans (by decide) hp
    | with_reducible apply State.modOwn_touch
    | with_reducible apply State.setCount_touch
    | with_reducible apply State.event_touch
    | exact .inr (hp (by decide))
    | with_reducible exact .inl rfl
    | with_reducible apply touch_ite
    | with_reducible apply touch_foldl
    | with_reducible intro _
    | with_reducible refine touch_mk ?_ ?_ ?_ ?_ ?_ ?_ ?_ ?_ ?_ ?_ ?_ ?_ ?_ ?_ ?_ ?_ ?_ ?_ ?_ ?_ ?_ ?_ ?_ ?_ ?_ ?_ ?_ ?_ ?_

theorem State.captureDie_touch (hp : ([.cow] : List Part) ⊆ ps) (s : State) (m : ℕ)  (h : Touch ps s0 s) :
    Touch ps s0 (State.captureDie s m) := by
  unfold State.captureDie; try dsimp only
  repeat' first
    | with_reducible assumption
    | exact .inr (hp (by decide))
    | with_reducible exact .inl rfl
    | with_reducible apply touch_ite
    | with_reducible intro _
    | with_reducible refine touch_mk ?_ ?_ ?_ ?_ ?_ ?_ ?_ ?_ ?_ ?_ ?_ ?_ ?_ ?_ ?_ ?_ ?_ ?_ ?_ ?_ ?_ ?_ ?_ ?_ ?_ ?_ ?_ ?_ ?_

theorem State.ownComplete_touch (hp : ([.snap] : List Part) ⊆ ps) (s : State) (c : Capture)  (h : Touch ps s0 s) :
    Touch ps s0 (State.ownComplete s c) := by
  unfold State.ownComplete; try dsimp only
  repeat' first
    | with_reducible assumption
    | exact List.Subset.trans (by decide) hp
    | with_reducible apply State.modOwn_touch
    | exact .inr (hp (by decide))
    | with_reducible exact .inl rfl
    | with_reducible apply touch_ite
    | with_reducible intro _
    | with_reducible refine touch_mk ?_ ?_ ?_ ?_ ?_ ?_ ?_ ?_ ?_ ?_ ?_ ?_ ?_ ?_ ?_ ?_ ?_ ?_ ?_ ?_ ?_ ?_ ?_ ?_ ?_ ?_ ?_ ?_ ?_

theorem State.captureRead_touch (hp : ([.log, .cow, .skid, .host, .snap, .ctr, .out] : List Part) ⊆ ps) (s : State)  (h : Touch ps s0 s) :
    Touch ps s0 (State.captureRead s) := by
  unfold State.captureRead; try dsimp only
  repeat' first
    | with_reducible assumption
    | exact List.Subset.trans (by decide) hp
    | with_reducible apply State.event_touch
    | with_reducible apply State.sendTo_touch
    | with_reducible apply State.ownComplete_touch
    | exact .inr (hp (by decide))
    | with_reducible exact .inl rfl
    | with_reducible apply touch_ite
    | with_reducible intro _
    | split
    | with_reducible refine touch_mk ?_ ?_ ?_ ?_ ?_ ?_ ?_ ?_ ?_ ?_ ?_ ?_ ?_ ?_ ?_ ?_ ?_ ?_ ?_ ?_ ?_ ?_ ?_ ?_ ?_ ?_ ?_ ?_ ?_

theorem State.modPartner_touch (hp : ([.snap] : List Part) ⊆ ps) (s : State) (i : ℕ) (f : SnapSlot → SnapSlot)  (h : Touch ps s0 s) :
    Touch ps s0 (State.modPartner s i f) := by
  unfold State.modPartner; try dsimp only
  repeat' first
    | with_reducible assumption
    | exact .inr (hp (by decide))
    | with_reducible exact .inl rfl
    | with_reducible refine touch_mk ?_ ?_ ?_ ?_ ?_ ?_ ?_ ?_ ?_ ?_ ?_ ?_ ?_ ?_ ?_ ?_ ?_ ?_ ?_ ?_ ?_ ?_ ?_ ?_ ?_ ?_ ?_ ?_ ?_

theorem State.noteCoFed_touch (hp : ([.log, .host, .ctr, .out] : List Part) ⊆ ps) (s : State) (m : Msg)  (h : Touch ps s0 s) :
    Touch ps s0 (State.noteCoFed s m) := by
  unfold State.noteCoFed; try dsimp only
  repeat' first
    | with_reducible assumption
    | exact List.Subset.trans (by decide) hp
    | with_reducible apply State.event_touch
    | with_reducible apply touch_ite
    | with_reducible intro _

theorem State.noteRequest_touch (hp : ([.log, .skid, .host, .snap, .ctr, .out] : List Part) ⊆ ps) (s : State) (k : ℕ)  (h : Touch ps s0 s) :
    Touch ps s0 (State.noteRequest s k) := by
  unfold State.noteRequest; try dsimp only
  repeat' first
    | with_reducible assumption
    | exact List.Subset.trans (by decide) hp
    | with_reducible apply State.refuseCapture_touch
    | exact .inr (hp (by decide))
    | with_reducible exact .inl rfl
    | with_reducible apply touch_ite
    | with_reducible intro _
    | with_reducible refine touch_mk ?_ ?_ ?_ ?_ ?_ ?_ ?_ ?_ ?_ ?_ ?_ ?_ ?_ ?_ ?_ ?_ ?_ ?_ ?_ ?_ ?_ ?_ ?_ ?_ ?_ ?_ ?_ ?_ ?_

theorem State.releaseHeld_touch (hp : ([.cow, .mem] : List Part) ⊆ ps) (s : State) (p : ℕ)  (h : Touch ps s0 s) :
    Touch ps s0 (State.releaseHeld s p) := by
  unfold State.releaseHeld; try dsimp only
  repeat' first
    | with_reducible assumption
    | exact .inr (hp (by decide))
    | with_reducible exact .inl rfl
    | with_reducible apply touch_foldl
    | with_reducible intro _
    | with_reducible refine touch_mk ?_ ?_ ?_ ?_ ?_ ?_ ?_ ?_ ?_ ?_ ?_ ?_ ?_ ?_ ?_ ?_ ?_ ?_ ?_ ?_ ?_ ?_ ?_ ?_ ?_ ?_ ?_ ?_ ?_

theorem State.sendPage_touch (hp : ([.log, .skid, .out] : List Part) ⊆ ps) (s : State) (step : ℕ) (page : ℕ) (crc : ℕ) (bs : Bytes)  (h : Touch ps s0 s) :
    Touch ps s0 (State.sendPage s step page crc bs) := by
  unfold State.sendPage; try dsimp only
  repeat' first
    | with_reducible assumption
    | exact List.Subset.trans (by decide) hp
    | with_reducible apply State.sendTo_touch
    | with_reducible apply touch_foldl
    | with_reducible intro _

theorem State.startCapture_touch (hp : ([.log, .cow, .skid, .host, .snap, .ctr, .out] : List Part) ⊆ ps) (s : State) (k : ℕ)  (h : Touch ps s0 s) :
    Touch ps s0 (State.startCapture s k) := by
  unfold State.startCapture; try dsimp only
  repeat' first
    | with_reducible assumption
    | exact List.Subset.trans (by decide) hp
    | with_reducible apply State.refuseCapture_touch
    | with_reducible apply State.event_touch
    | with_reducible apply State.captureRead_touch
    | with_reducible apply State.beginCapture_touch
    | exact .inr (hp (by decide))
    | with_reducible exact .inl rfl
    | with_reducible apply touch_ite
    | with_reducible intro _
    | split
    | with_reducible refine touch_mk ?_ ?_ ?_ ?_ ?_ ?_ ?_ ?_ ?_ ?_ ?_ ?_ ?_ ?_ ?_ ?_ ?_ ?_ ?_ ?_ ?_ ?_ ?_ ?_ ?_ ?_ ?_ ?_ ?_

theorem State.tryHeld_touch (hp : ([.log, .skid, .snap, .out] : List Part) ⊆ ps) (s : State) (i : ℕ)  (h : Touch ps s0 s) :
    Touch ps s0 (State.tryHeld s i) := by
  unfold State.tryHeld; try dsimp only
  repeat' first
    | with_reducible assumption
    | exact List.Subset.trans (by decide) hp
    | with_reducible apply State.sendTo_touch
    | with_reducible apply State.modPartner_touch
    | with_reducible apply touch_ite
    | with_reducible intro _

theorem State.tryPair_touch (hp : ([.log, .skid, .snap, .out] : List Part) ⊆ ps) (s : State)  (h : Touch ps s0 s) :
    Touch ps s0 (State.tryPair s) := by
  unfold State.tryPair; try dsimp only
  repeat' first
    | with_reducible assumption
    | exact List.Subset.trans (by decide) hp
    | with_reducible apply State.sendTo_touch
    | exact .inr (hp (by decide))
    | with_reducible exact .inl rfl
    | with_reducible apply touch_ite
    | with_reducible intro _
    | with_reducible refine touch_mk ?_ ?_ ?_ ?_ ?_ ?_ ?_ ?_ ?_ ?_ ?_ ?_ ?_ ?_ ?_ ?_ ?_ ?_ ?_ ?_ ?_ ?_ ?_ ?_ ?_ ?_ ?_ ?_ ?_

theorem execCaptureRefused_touch (hp : ([.net] : List Part) ⊆ ps) (m : Msg) (s : State)  (h : Touch ps s0 s) :
    TouchR ps s0 (execCaptureRefused m s) := by
  unfold execCaptureRefused; try dsimp only
  repeat' first
    | with_reducible assumption
    | exact List.Subset.trans (by decide) hp
    | with_reducible apply State.took_touch
    | with_reducible apply touchR_next

theorem execCaptureRequest_touch (hp : ([.log, .skid, .net, .host, .snap, .ctr, .out] : List Part) ⊆ ps) (m : Msg) (s : State)  (h : Touch ps s0 s) :
    TouchR ps s0 (execCaptureRequest m s) := by
  unfold execCaptureRequest; try dsimp only
  repeat' first
    | with_reducible assumption
    | exact List.Subset.trans (by decide) hp
    | with_reducible apply State.taken_touch
    | with_reducible apply State.noteRequest_touch
    | with_reducible apply touchR_next
    | with_reducible intro _

theorem execCaptureSent_touch (hp : ([.log, .skid, .net, .snap, .out] : List Part) ⊆ ps) (m : Msg) (s : State)  (h : Touch ps s0 s) :
    TouchR ps s0 (execCaptureSent m s) := by
  unfold execCaptureSent; try dsimp only
  repeat' first
    | with_reducible assumption
    | exact List.Subset.trans (by decide) hp
    | with_reducible apply State.taken_touch
    | with_reducible apply State.modPartner_touch
    | with_reducible apply State.tryHeld_touch
    | with_reducible apply touch_ite
    | with_reducible apply touchR_ite
    | with_reducible apply touchR_next
    | with_reducible intro _
    | split

theorem execHeld_touch (hp : ([.log, .skid, .net, .host, .snap, .ctr, .out] : List Part) ⊆ ps) (m : Msg) (s : State)  (h : Touch ps s0 s) :
    TouchR ps s0 (execHeld m s) := by
  unfold execHeld; try dsimp only
  repeat' first
    | with_reducible assumption
    | exact List.Subset.trans (by decide) hp
    | with_reducible apply State.taken_touch
    | with_reducible apply State.event_touch
    | with_reducible apply State.bump_touch
    | with_reducible apply State.ownComplete_touch
    | with_reducible apply State.addMember_touch
    | with_reducible apply State.sendAll_touch
    | with_reducible apply touch_ite
    | with_reducible apply touchR_ite
    | with_reducible apply touchR_next
    | with_reducible intro _
    | split

theorem execPageDone_touch (hp : ([.log, .safe, .stats, .clusters, .job, .upd, .limbers, .cow, .cxl, .base, .skid, .host, .ingest, .snap, .mem, .ctr, .out] : List Part) ⊆ ps) (page : ℕ) (checks : List MemCheck) (s : State)  (h : Touch ps s0 s) :
    TouchR ps s0 (execPageDone page checks s) := by
  unfold execPageDone; try dsimp only
  repeat' first
    | with_reducible assumption
    | exact List.Subset.trans (by decide) hp
    | with_reducible apply State.checked_touch
    | with_reducible apply State.modOwn_touch
    | with_reducible apply State.noteRead_touch
    | with_reducible apply State.sendPage_touch
    | with_reducible apply State.captureRead_touch
    | with_reducible apply State.captureDie_touch
    | with_reducible apply State.releaseHeld_touch
    | exact .inr (hp (by decide))
    | with_reducible exact .inl rfl
    | with_reducible apply touch_ite
    | with_reducible apply touchR_ite
    | with_reducible apply touchR_next
    | with_reducible refine touch_of_snd (by assumption) ?_
    | with_reducible intro _
    | split
    | with_reducible refine touch_mk ?_ ?_ ?_ ?_ ?_ ?_ ?_ ?_ ?_ ?_ ?_ ?_ ?_ ?_ ?_ ?_ ?_ ?_ ?_ ?_ ?_ ?_ ?_ ?_ ?_ ?_ ?_ ?_ ?_

theorem execPair_touch (hp : ([.log, .skid, .net, .host, .snap, .ctr, .out] : List Part) ⊆ ps) (m : Msg) (s : State)  (h : Touch ps s0 s) :
    TouchR ps s0 (execPair m s) := by
  unfold execPair; try dsimp only
  repeat' first
    | with_reducible assumption
    | exact List.Subset.trans (by decide) hp
    | with_reducible apply State.taken_touch
    | with_reducible apply State.noteCoFed_touch
    | with_reducible apply State.sendTo_touch
    | exact .inr (hp (by decide))
    | with_reducible exact .inl rfl
    | with_reducible apply touch_ite
    | with_reducible apply touchR_ite
    | with_reducible apply touchR_next
    | with_reducible intro _
    | with_reducible refine touch_mk ?_ ?_ ?_ ?_ ?_ ?_ ?_ ?_ ?_ ?_ ?_ ?_ ?_ ?_ ?_ ?_ ?_ ?_ ?_ ?_ ?_ ?_ ?_ ?_ ?_ ?_ ?_ ?_ ?_

theorem execPairAck_touch (hp : ([.log, .net, .host, .snap, .ctr, .out] : List Part) ⊆ ps) (m : Msg) (s : State)  (h : Touch ps s0 s) :
    TouchR ps s0 (execPairAck m s) := by
  unfold execPairAck; try dsimp only
  repeat' first
    | with_reducible assumption
    | exact List.Subset.trans (by decide) hp
    | with_reducible apply State.taken_touch
    | with_reducible apply State.noteCoFed_touch
    | exact .inr (hp (by decide))
    | with_reducible exact .inl rfl
    | with_reducible apply touch_ite
    | with_reducible apply touchR_ite
    | with_reducible apply touchR_next
    | with_reducible intro _
    | with_reducible refine touch_mk ?_ ?_ ?_ ?_ ?_ ?_ ?_ ?_ ?_ ?_ ?_ ?_ ?_ ?_ ?_ ?_ ?_ ?_ ?_ ?_ ?_ ?_ ?_ ?_ ?_ ?_ ?_ ?_ ?_

theorem execSetMember_touch (hp : ([.log, .net, .host, .snap, .ctr, .out] : List Part) ⊆ ps) (m : Msg) (s : State)  (h : Touch ps s0 s) :
    TouchR ps s0 (execSetMember m s) := by
  unfold execSetMember; try dsimp only
  repeat' first
    | with_reducible assumption
    | exact List.Subset.trans (by decide) hp
    | with_reducible apply State.taken_touch
    | with_reducible apply State.addMember_touch
    | with_reducible apply touchR_next
    | with_reducible intro _

theorem execShadowCopyDone_touch (hp : ([.log, .safe, .stats, .clusters, .job, .upd, .limbers, .cow, .cxl, .base, .skid, .host, .ingest, .snap, .mem, .ctr, .out] : List Part) ⊆ ps) (page : ℕ) (checks : List MemCheck) (s : State)  (h : Touch ps s0 s) :
    TouchR ps s0 (execShadowCopyDone page checks s) := by
  unfold execShadowCopyDone; try dsimp only
  repeat' first
    | with_reducible assumption
    | exact List.Subset.trans (by decide) hp
    | with_reducible apply State.checked_touch
    | with_reducible apply State.noteRead_touch
    | with_reducible apply State.releaseHeld_touch
    | with_reducible apply State.setPage_touch
    | exact .inr (hp (by decide))
    | with_reducible exact .inl rfl
    | with_reducible apply touch_ite
    | with_reducible apply touchR_ite
    | with_reducible apply touchR_next
    | with_reducible refine touch_of_snd (by assumption) ?_
    | with_reducible intro _
    | split
    | with_reducible refine touch_mk ?_ ?_ ?_ ?_ ?_ ?_ ?_ ?_ ?_ ?_ ?_ ?_ ?_ ?_ ?_ ?_ ?_ ?_ ?_ ?_ ?_ ?_ ?_ ?_ ?_ ?_ ?_ ?_ ?_

theorem execSnapPage_touch (hp : ([.log, .skid, .net, .snap, .out] : List Part) ⊆ ps) (m : Msg) (s : State)  (h : Touch ps s0 s) :
    TouchR ps s0 (execSnapPage m s) := by
  unfold execSnapPage; try dsimp only
  repeat' first
    | with_reducible assumption
    | exact List.Subset.trans (by decide) hp
    | with_reducible apply State.taken_touch
    | with_reducible apply State.modPartner_touch
    | with_reducible apply State.tryHeld_touch
    | with_reducible apply touch_ite
    | with_reducible apply touchR_ite
    | with_reducible apply touchR_next
    | with_reducible intro _
    | split

theorem execWindthrowEvaluation_touch (hp : ([.log, .skid, .host, .snap, .ctr, .out, .free] : List Part) ⊆ ps) (s : State)  (h : Touch ps s0 s) :
    TouchR ps s0 (execWindthrowEvaluation s) := by
  unfold execWindthrowEvaluation; try dsimp only
  repeat' first
    | with_reducible assumption
    | exact List.Subset.trans (by decide) hp
    | with_reducible apply State.event_touch
    | with_reducible apply State.noteRequest_touch
    | with_reducible apply State.sendAll_touch
    | with_reducible apply State.nextFree_touch
    | exact .inr (hp (by decide))
    | with_reducible exact .inl rfl
    | with_reducible apply touch_ite
    | with_reducible apply touchR_ite
    | with_reducible apply touchR_next
    | with_reducible intro _
    | split
    | with_reducible refine touch_mk ?_ ?_ ?_ ?_ ?_ ?_ ?_ ?_ ?_ ?_ ?_ ?_ ?_ ?_ ?_ ?_ ?_ ?_ ?_ ?_ ?_ ?_ ?_ ?_ ?_ ?_ ?_ ?_ ?_

end Sys2Proof.Machine
end

