-- ==== Sys2Proof/Laws/TouchFirmware.lean ====
section
/-! SUPPORT. Which parts of the state the operations of Machine/Firmware.lean may change. -/

namespace Sys2Proof.Machine

variable {s0 : State} {ps : List Part}

theorem State.restoreValues_touch (hp : ([.tally] : List Part) ⊆ ps) (s : State) (rw : List (ℕ × Bytes)) (active : List (ℕ × Bytes))  (h : Touch ps s0 s) :
    Touch ps s0 (State.restoreValues s rw active) := by
  unfold State.restoreValues; try dsimp only
  repeat' first
    | with_reducible assumption
    | exact .inr (hp (by decide))
    | with_reducible exact .inl rfl
    | with_reducible refine touch_mk ?_ ?_ ?_ ?_ ?_ ?_ ?_ ?_ ?_ ?_ ?_ ?_ ?_ ?_ ?_ ?_ ?_ ?_ ?_ ?_ ?_ ?_ ?_ ?_ ?_ ?_ ?_ ?_ ?_

theorem State.factoryDefaults_touch (hp : ([.log, .tally] : List Part) ⊆ ps) (s : State)  (h : Touch ps s0 s) :
    Touch ps s0 (State.factoryDefaults s) := by
  unfold State.factoryDefaults; try dsimp only
  repeat' first
    | with_reducible assumption
    | exact List.Subset.trans (by decide) hp
    | with_reducible apply State.restoreValues_touch
    | exact .inr (hp (by decide))
    | with_reducible exact .inl rfl
    | with_reducible refine touch_mk ?_ ?_ ?_ ?_ ?_ ?_ ?_ ?_ ?_ ?_ ?_ ?_ ?_ ?_ ?_ ?_ ?_ ?_ ?_ ?_ ?_ ?_ ?_ ?_ ?_ ?_ ?_ ?_ ?_

theorem State.restarted_touch (hp : ([.time, .start, .log, .safe, .bg, .stats, .clusters, .job, .upd, .banks, .limbers, .stash, .cow, .cxl, .base, .spine, .skid, .net, .sync, .tally, .host, .ingest, .snap, .power, .mem, .ctr, .out, .free] : List Part) ⊆ ps) (s : State) (stage : ℕ) (cause : ℕ) (powered : Bool)  (h : Touch ps s0 s) :
    Touch ps s0 (State.restarted s stage cause powered) := by
  unfold State.restarted; try dsimp only
  repeat' first
    | with_reducible assumption
    | exact .inr (hp (by decide))
    | with_reducible exact .inl rfl
    | with_reducible apply touch_ite
    | with_reducible intro _
    | with_reducible refine touch_mk ?_ ?_ ?_ ?_ ?_ ?_ ?_ ?_ ?_ ?_ ?_ ?_ ?_ ?_ ?_ ?_ ?_ ?_ ?_ ?_ ?_ ?_ ?_ ?_ ?_ ?_ ?_ ?_ ?_

theorem State.romAgain_touch (hp : ([.time, .start, .log, .safe, .bg, .stats, .clusters, .job, .upd, .banks, .limbers, .stash, .cow, .cxl, .base, .spine, .skid, .net, .sync, .tally, .host, .ingest, .snap, .power, .mem, .ctr, .out, .free] : List Part) ⊆ ps) (s : State)  (h : Touch ps s0 s) :
    Touch ps s0 (State.romAgain s) := by
  unfold State.romAgain; try dsimp only
  repeat' first
    | with_reducible assumption
    | exact List.Subset.trans (by decide) hp
    | with_reducible apply State.restarted_touch
    | with_reducible apply touch_ite
    | with_reducible intro _

theorem State.flashWrite_touch (hp : ([.log, .bg, .host, .ctr, .out] : List Part) ⊆ ps) (s : State) (r : FlashReport) (n : ℕ)  (h : Touch ps s0 s) :
    Touch ps s0 (State.flashWrite s r n) := by
  unfold State.flashWrite; try dsimp only
  repeat' first
    | with_reducible assumption
    | exact List.Subset.trans (by decide) hp
    | with_reducible apply State.event_touch
    | exact .inr (hp (by decide))
    | with_reducible exact .inl rfl
    | with_reducible apply touch_ite
    | with_reducible apply touch_foldl
    | with_reducible intro _
    | with_reducible refine touch_mk ?_ ?_ ?_ ?_ ?_ ?_ ?_ ?_ ?_ ?_ ?_ ?_ ?_ ?_ ?_ ?_ ?_ ?_ ?_ ?_ ?_ ?_ ?_ ?_ ?_ ?_ ?_ ?_ ?_

theorem State.modFwSlot_touch (hp : ([.start] : List Part) ⊆ ps) (s : State) (n : ℕ) (f : FwSlot → FwSlot)  (h : Touch ps s0 s) :
    Touch ps s0 (State.modFwSlot s n f) := by
  unfold State.modFwSlot; try dsimp only
  repeat' first
    | with_reducible assumption
    | exact .inr (hp (by decide))
    | with_reducible exact .inl rfl
    | with_reducible refine touch_mk ?_ ?_ ?_ ?_ ?_ ?_ ?_ ?_ ?_ ?_ ?_ ?_ ?_ ?_ ?_ ?_ ?_ ?_ ?_ ?_ ?_ ?_ ?_ ?_ ?_ ?_ ?_ ?_ ?_

theorem State.putTrial_touch (hp : ([.start] : List Part) ⊆ ps) (s : State) (n : ℕ) (img : Bytes)  (h : Touch ps s0 s) :
    Touch ps s0 (State.putTrial s n img) := by
  unfold State.putTrial; try dsimp only
  repeat' first
    | with_reducible assumption
    | exact List.Subset.trans (by decide) hp
    | with_reducible apply State.modFwSlot_touch

theorem State.stumpCard_touch (hp : ([.time, .start, .log, .safe, .bg, .stats, .clusters, .job, .upd, .banks, .limbers, .stash, .cow, .cxl, .base, .spine, .skid, .net, .sync, .tally, .host, .ingest, .snap, .power, .mem, .ctr, .out, .free] : List Part) ⊆ ps) (s : State)  (h : Touch ps s0 s) :
    Touch ps s0 (State.stumpCard s) := by
  unfold State.stumpCard; try dsimp only
  repeat' first
    | with_reducible assumption
    | exact List.Subset.trans (by decide) hp
    | with_reducible apply State.romAgain_touch
    | with_reducible apply State.flashWrite_touch
    | with_reducible apply State.putTrial_touch
    | with_reducible apply touch_ite
    | with_reducible intro _

theorem State.enterStump_touch (hp : ([.time, .start, .log, .safe, .bg, .stats, .clusters, .job, .upd, .banks, .limbers, .stash, .cow, .cxl, .base, .spine, .skid, .net, .sync, .tally, .host, .ingest, .snap, .power, .mem, .ctr, .out, .free] : List Part) ⊆ ps) (s : State) (cause : ℕ)  (h : Touch ps s0 s) :
    Touch ps s0 (State.enterStump s cause) := by
  unfold State.enterStump; try dsimp only
  repeat' first
    | with_reducible assumption
    | exact List.Subset.trans (by decide) hp
    | with_reducible apply State.setCount_touch
    | with_reducible apply State.factoryDefaults_touch
    | with_reducible apply State.stumpCard_touch
    | with_reducible apply State.event_touch
    | exact .inr (hp (by decide))
    | with_reducible exact .inl rfl
    | with_reducible refine touch_mk ?_ ?_ ?_ ?_ ?_ ?_ ?_ ?_ ?_ ?_ ?_ ?_ ?_ ?_ ?_ ?_ ?_ ?_ ?_ ?_ ?_ ?_ ?_ ?_ ?_ ?_ ?_ ?_ ?_

theorem State.indexFlash_touch (hp : ([.start, .tally, .host] : List Part) ⊆ ps) (s : State)  (h : Touch ps s0 s) :
    Touch ps s0 (State.indexFlash s) := by
  unfold State.indexFlash; try dsimp only
  repeat' first
    | with_reducible assumption
    | exact .inr (hp (by decide))
    | with_reducible exact .inl rfl
    | with_reducible apply touch_foldl
    | with_reducible intro _
    | with_reducible refine touch_mk ?_ ?_ ?_ ?_ ?_ ?_ ?_ ?_ ?_ ?_ ?_ ?_ ?_ ?_ ?_ ?_ ?_ ?_ ?_ ?_ ?_ ?_ ?_ ?_ ?_ ?_ ?_ ?_ ?_

theorem State.setFormats_touch (hp : ([.start] : List Part) ⊆ ps) (s : State) (e : ℕ) (fs : List ℕ)  (h : Touch ps s0 s) :
    Touch ps s0 (State.setFormats s e fs) := by
  unfold State.setFormats; try dsimp only
  repeat' first
    | with_reducible assumption
    | exact .inr (hp (by decide))
    | with_reducible exact .inl rfl
    | with_reducible refine touch_mk ?_ ?_ ?_ ?_ ?_ ?_ ?_ ?_ ?_ ?_ ?_ ?_ ?_ ?_ ?_ ?_ ?_ ?_ ?_ ?_ ?_ ?_ ?_ ?_ ?_ ?_ ?_ ?_ ?_

theorem State.storeValues_touch (hp : ([.start] : List Part) ⊆ ps) (s : State) (v : ℕ)  (h : Touch ps s0 s) :
    Touch ps s0 (State.storeValues s v) := by
  unfold State.storeValues; try dsimp only
  repeat' first
    | with_reducible assumption
    | exact .inr (hp (by decide))
    | with_reducible exact .inl rfl
    | split
    | with_reducible refine touch_mk ?_ ?_ ?_ ?_ ?_ ?_ ?_ ?_ ?_ ?_ ?_ ?_ ?_ ?_ ?_ ?_ ?_ ?_ ?_ ?_ ?_ ?_ ?_ ?_ ?_ ?_ ?_ ?_ ?_

end Sys2Proof.Machine
end

