-- ==== Sys2Proof/Laws/TouchRestart.lean ====
section
/-! SUPPORT. Which parts of the state the operations of Machine/Restart.lean may change. -/

namespace Sys2Proof.Machine

variable {s0 : State} {ps : List Part}

theorem State.closeRestoreFlow_touch (hp : ([.log, .host, .snap, .ctr, .out] : List Part) ⊆ ps) (s : State) (f : Option ℕ)  (h : Touch ps s0 s) :
    Touch ps s0 (State.closeRestoreFlow s f) := by
  unfold State.closeRestoreFlow; try dsimp only
  repeat' first
    | with_reducible assumption
    | exact List.Subset.trans (by decide) hp
    | with_reducible apply State.closeWith_touch
    | split

theorem State.modRestore_touch (hp : ([.snap] : List Part) ⊆ ps) (s : State) (f : Restore → Restore)  (h : Touch ps s0 s) :
    Touch ps s0 (State.modRestore s f) := by
  unfold State.modRestore; try dsimp only
  repeat' first
    | with_reducible assumption
    | exact .inr (hp (by decide))
    | with_reducible exact .inl rfl
    | with_reducible refine touch_mk ?_ ?_ ?_ ?_ ?_ ?_ ?_ ?_ ?_ ?_ ?_ ?_ ?_ ?_ ?_ ?_ ?_ ?_ ?_ ?_ ?_ ?_ ?_ ?_ ?_ ?_ ?_ ?_ ?_

theorem State.abandonRestore_touch (hp : ([.log, .host, .snap, .ctr, .out] : List Part) ⊆ ps) (s : State) (cause : ℕ)  (h : Touch ps s0 s) :
    Touch ps s0 (State.abandonRestore s cause) := by
  unfold State.abandonRestore; try dsimp only
  repeat' first
    | with_reducible assumption
    | exact List.Subset.trans (by decide) hp
    | with_reducible apply State.closeRestoreFlow_touch
    | with_reducible apply State.event_touch
    | with_reducible apply State.modRestore_touch

theorem State.askRestore_touch (hp : ([.log, .skid, .snap, .out] : List Part) ⊆ ps) (s : State)  (h : Touch ps s0 s) :
    Touch ps s0 (State.askRestore s) := by
  unfold State.askRestore; try dsimp only
  repeat' first
    | with_reducible assumption
    | exact List.Subset.trans (by decide) hp
    | with_reducible apply State.sendTo_touch
    | with_reducible apply State.modRestore_touch
    | with_reducible apply touch_ite
    | with_reducible intro _

theorem State.extentIn_touch (hp : ([.snap, .mem] : List Part) ⊆ ps) (s : State) (h : Touch ps s0 s) : TouchP ps s0 s.extentIn := by
  unfold State.extentIn; dsimp only
  refine touchP_ite (fun _ => touchP_none) fun _ => touchP_ite (fun _ => ?_) fun _ => touchP_ite (fun _ => ?_) fun _ =>
    touchP_ite (fun _ => touchP_some h) fun _ => touchP_none
  · generalize s.localSource = o
    cases o with
    | none => exact touchP_none
    | some x => exact touchP_some (State.modRestore_touch (List.Subset.trans (by decide) hp) _ _ (touch_mem (hp (by decide)) h))
  · exact touchP_ite (fun _ => touchP_some (touch_mem (hp (by decide)) h)) fun _ => touchP_none

theorem State.finishRestore_touch (hp : ([.log, .host, .snap, .ctr, .out] : List Part) ⊆ ps) (s : State)  (h : Touch ps s0 s) :
    Touch ps s0 (State.finishRestore s) := by
  unfold State.finishRestore; try dsimp only
  repeat' first
    | with_reducible assumption
    | exact List.Subset.trans (by decide) hp
    | with_reducible apply State.event_touch
    | with_reducible apply State.modRestore_touch

theorem State.goRestore_touch (hp : ([.log, .skid, .net, .host, .snap, .ctr, .out] : List Part) ⊆ ps) (s : State)  (h : Touch ps s0 s) :
    Touch ps s0 (State.goRestore s) := by
  unfold State.goRestore; try dsimp only
  repeat' first
    | with_reducible assumption
    | exact List.Subset.trans (by decide) hp
    | with_reducible apply State.floodPorts_touch
    | with_reducible apply State.modRestore_touch
    | with_reducible apply State.abandonRestore_touch
    | with_reducible apply State.finishRestore_touch
    | with_reducible apply State.askRestore_touch
    | with_reducible apply touch_ite
    | with_reducible intro _

theorem State.interruptRestore_touch (hp : ([.log, .host, .snap, .ctr, .out] : List Part) ⊆ ps) (s : State)  (h : Touch ps s0 s) :
    Touch ps s0 (State.interruptRestore s) := by
  unfold State.interruptRestore; try dsimp only
  repeat' first
    | with_reducible assumption
    | exact List.Subset.trans (by decide) hp
    | with_reducible apply State.event_touch
    | with_reducible apply State.modRestore_touch

theorem State.imageEnd_touch (hp : ([.log, .host, .snap, .ctr, .out] : List Part) ⊆ ps) (s : State)  (h : Touch ps s0 s) :
    Touch ps s0 (State.imageEnd s) := by
  unfold State.imageEnd; try dsimp only
  repeat' first
    | with_reducible assumption
    | exact List.Subset.trans (by decide) hp
    | with_reducible apply State.finishRestore_touch
    | with_reducible apply State.modRestore_touch
    | with_reducible apply State.interruptRestore_touch
    | with_reducible apply touch_ite
    | with_reducible intro _

theorem State.imageBytesIn_touch (hp : ([.log, .host, .snap, .ctr, .out] : List Part) ⊆ ps) (s : State) (bs : Bytes)  (h : Touch ps s0 s) :
    Touch ps s0 (State.imageBytesIn s bs) := by
  unfold State.imageBytesIn; try dsimp only
  repeat' first
    | with_reducible assumption
    | exact List.Subset.trans (by decide) hp
    | with_reducible apply State.modRestore_touch
    | with_reducible apply State.imageEnd_touch
    | with_reducible apply State.abandonRestore_touch
    | with_reducible apply touch_ite
    | with_reducible intro _

theorem State.peerFailed_touch (hp : ([.log, .host, .snap, .ctr, .out] : List Part) ⊆ ps) (s : State) (m : ℕ)  (h : Touch ps s0 s) :
    Touch ps s0 (State.peerFailed s m) := by
  unfold State.peerFailed; try dsimp only
  repeat' first
    | with_reducible assumption
    | exact List.Subset.trans (by decide) hp
    | with_reducible apply State.abandonRestore_touch
    | with_reducible apply State.interruptRestore_touch
    | with_reducible apply touch_ite
    | with_reducible intro _

theorem State.restoreCommand_touch (hp : ([.host, .ctr, .out] : List Part) ⊆ ps) (s : State) (q : Req) (n : ℕ) (act : State → Answer) (hact : ∀ s , Touch ps s0 s → TouchA ps s0 (act s )) (h : Touch ps s0 s) :
    Touch ps s0 (State.restoreCommand s q n act) := by
  unfold State.restoreCommand; try dsimp only
  repeat' first
    | with_reducible assumption
    | exact List.Subset.trans (by decide) hp
    | with_reducible apply State.serveWrite_touch
    | with_reducible apply hact
    | with_reducible apply touch_ite
    | with_reducible apply touchA_ite
    | with_reducible intro _

theorem State.sendChunk_touch (hp : ([.log, .skid, .out] : List Part) ⊆ ps) (s : State) (dst : ℕ) (e : ℕ) (c : ℕ) (bs : Bytes)  (h : Touch ps s0 s) :
    Touch ps s0 (State.sendChunk s dst e c bs) := by
  unfold State.sendChunk; try dsimp only
  repeat' first
    | with_reducible assumption
    | exact List.Subset.trans (by decide) hp
    | with_reducible apply State.sendTo_touch

theorem State.sendExtent_touch (hp : ([.log, .skid, .out] : List Part) ⊆ ps) (s : State) (dst : ℕ) (e : ℕ) (pages : List (ℕ × ℕ × List (ℕ × Byte)))  (h : Touch ps s0 s) :
    Touch ps s0 (State.sendExtent s dst e pages) := by
  unfold State.sendExtent; try dsimp only
  repeat' first
    | with_reducible assumption
    | exact List.Subset.trans (by decide) hp
    | with_reducible apply State.sendChunk_touch
    | with_reducible apply touch_foldl
    | with_reducible intro _
    | split

theorem execRestoreData_touch (hp : ([.log, .net, .snap, .mem] : List Part) ⊆ ps) (m : Msg) (s : State)  (h : Touch ps s0 s) :
    TouchR ps s0 (execRestoreData m s) := by
  unfold execRestoreData; try dsimp only
  repeat' first
    | with_reducible assumption
    | exact List.Subset.trans (by decide) hp
    | with_reducible apply State.taken_touch
    | with_reducible apply State.modRestore_touch
    | exact .inr (hp (by decide))
    | with_reducible exact .inl rfl
    | with_reducible apply touch_ite
    | with_reducible apply touchR_ite
    | with_reducible apply touchR_next
    | with_reducible intro _
    | with_reducible refine touch_mk ?_ ?_ ?_ ?_ ?_ ?_ ?_ ?_ ?_ ?_ ?_ ?_ ?_ ?_ ?_ ?_ ?_ ?_ ?_ ?_ ?_ ?_ ?_ ?_ ?_ ?_ ?_ ?_ ?_

theorem execRestoreExtentVerified_touch (hp : ([.log, .safe, .stats, .clusters, .job, .upd, .limbers, .cow, .cxl, .base, .skid, .host, .ingest, .snap, .mem, .ctr, .out] : List Part) ⊆ ps) (check : List MemCheck) (s : State) (h : Touch ps s0 s) :
    TouchR ps s0 (execRestoreExtentVerified check s) := by
  unfold execRestoreExtentVerified
  refine touchR_next ?_
  have h1 := State.extentIn_touch (List.Subset.trans (by decide) hp) s h
  generalize s.extentIn = o at h1 ⊢
  cases o with
  | none => exact h
  | some x =>
    obtain ⟨manifest, t⟩ := x
    dsimp only
    have h2 := State.checked_touch (List.Subset.trans (by decide) hp) t check (h1 _ rfl)
    generalize t.checked check = p at h2 ⊢
    obtain ⟨ok, u⟩ := p
    dsimp only at h2 ⊢
    refine touch_ite (fun _ => h2) fun _ => touch_ite (fun _ => State.abandonRestore_touch (List.Subset.trans (by decide) hp) _ _ h2) fun _ =>
      touch_ite (fun _ => ?_) fun _ =>
      touch_ite (fun _ => State.askRestore_touch (List.Subset.trans (by decide) hp) _ (State.modRestore_touch (List.Subset.trans (by decide) hp) _ _ h2))
        fun _ => State.abandonRestore_touch (List.Subset.trans (by decide) hp) _ _ h2
    have h3 := fun f => State.modRestore_touch (List.Subset.trans (by decide) hp) u f h2
    exact touch_ite (fun _ => State.imageEnd_touch (List.Subset.trans (by decide) hp) _ (h3 _)) fun _ =>
      touch_ite (fun _ => State.finishRestore_touch (List.Subset.trans (by decide) hp) _ (h3 _)) fun _ => h3 _

theorem execRestoreGoStart_touch (hp : ([.log, .skid, .net, .host, .snap, .ctr, .out] : List Part) ⊆ ps) (q : Req) (s : State)  (h : Touch ps s0 s) :
    TouchR ps s0 (execRestoreGoStart q s) := by
  unfold execRestoreGoStart; try dsimp only
  repeat' first
    | with_reducible assumption
    | exact List.Subset.trans (by decide) hp
    | with_reducible apply State.restoreCommand_touch
    | with_reducible apply refuse_touch
    | with_reducible apply accept_touch
    | with_reducible apply State.goRestore_touch
    | with_reducible apply touch_ite
    | with_reducible apply touchR_ite
    | with_reducible apply touchA_ite
    | with_reducible apply touchR_next
    | with_reducible apply touchA_refuse
    | with_reducible apply touchA_accept
    | with_reducible intro _

theorem execRestoreGoStop_touch (hp : ([.log, .host, .snap, .ctr, .out] : List Part) ⊆ ps) (q : Req) (s : State)  (h : Touch ps s0 s) :
    TouchR ps s0 (execRestoreGoStop q s) := by
  unfold execRestoreGoStop; try dsimp only
  repeat' first
    | with_reducible assumption
    | exact List.Subset.trans (by decide) hp
    | with_reducible apply State.restoreCommand_touch
    | with_reducible apply accept_touch
    | with_reducible apply State.abandonRestore_touch
    | with_reducible apply touch_ite
    | with_reducible apply touchR_ite
    | with_reducible apply touchA_ite
    | with_reducible apply touchR_next
    | with_reducible apply touchA_accept
    | with_reducible intro _

theorem execRestoreRead_touch (hp : ([.log, .skid, .net, .out] : List Part) ⊆ ps) (m : Msg) (s : State)  (h : Touch ps s0 s) :
    TouchR ps s0 (execRestoreRead m s) := by
  unfold execRestoreRead; try dsimp only
  repeat' first
    | with_reducible assumption
    | exact List.Subset.trans (by decide) hp
    | with_reducible apply State.taken_touch
    | with_reducible apply State.sendTo_touch
    | with_reducible apply State.sendExtent_touch
    | with_reducible apply touch_ite
    | with_reducible apply touchR_ite
    | with_reducible apply touchR_next
    | with_reducible apply touch_foldl
    | with_reducible intro _
    | split

theorem execRestoreRefused_touch (hp : ([.log, .net, .host, .snap, .ctr, .out] : List Part) ⊆ ps) (m : Msg) (s : State)  (h : Touch ps s0 s) :
    TouchR ps s0 (execRestoreRefused m s) := by
  unfold execRestoreRefused; try dsimp only
  repeat' first
    | with_reducible assumption
    | exact List.Subset.trans (by decide) hp
    | with_reducible apply State.taken_touch
    | with_reducible apply State.abandonRestore_touch
    | with_reducible apply touch_ite
    | with_reducible apply touchR_ite
    | with_reducible apply touchR_next
    | with_reducible intro _

theorem execRestoreStep_touch (hp : ([.start, .log, .tally, .host, .snap, .ctr, .out] : List Part) ⊆ ps) (q : Req) (s : State)  (h : Touch ps s0 s) :
    TouchR ps s0 (execRestoreStep q s) := by
  unfold execRestoreStep; try dsimp only
  repeat' first
    | with_reducible assumption
    | exact List.Subset.trans (by decide) hp
    | with_reducible apply accept_touch
    | with_reducible apply State.closeRestoreFlow_touch
    | with_reducible apply State.modRestore_touch
    | with_reducible apply State.putValue_touch
    | with_reducible apply State.serveWrite_touch
    | with_reducible apply refuse_touch
    | with_reducible apply touch_ite
    | with_reducible apply touchR_ite
    | with_reducible apply touchA_ite
    | with_reducible apply touchR_next
    | with_reducible apply touchA_refuse
    | with_reducible apply touchA_accept
    | with_reducible intro _

end Sys2Proof.Machine
end

