-- ==== Sys2Proof/Laws/TouchBulk.lean ====
section
/-! SUPPORT. Which parts of the state the operations of Machine/Bulk.lean may change. -/

namespace Sys2Proof.Machine

variable {s0 : State} {ps : List Part}

theorem State.bulkNak_touch (hp : ([.ctr, .out] : List Part) ⊆ ps) (s : State) (f : Flow) (missing : List ℕ)  (h : Touch ps s0 s) :
    Touch ps s0 (State.bulkNak s f missing) := by
  unfold State.bulkNak; try dsimp only
  repeat' first
    | with_reducible assumption
    | exact List.Subset.trans (by decide) hp
    | with_reducible apply State.sendHost_touch
    | with_reducible apply State.bump_touch
    | with_reducible apply touch_ite
    | with_reducible intro _

theorem State.badBlock_touch (hp : ([.log, .host, .snap, .ctr, .out] : List Part) ⊆ ps) (s : State) (f : Flow) (block : ℕ)  (h : Touch ps s0 s) :
    Touch ps s0 (State.badBlock s f block) := by
  unfold State.badBlock; try dsimp only
  repeat' first
    | with_reducible assumption
    | exact List.Subset.trans (by decide) hp
    | with_reducible apply State.bump_touch
    | with_reducible apply State.bulkNak_touch
    | with_reducible apply State.modFlow_touch
    | with_reducible apply State.closeFlow_touch
    | with_reducible apply State.event_touch
    | exact .inr (hp (by decide))
    | with_reducible exact .inl rfl
    | with_reducible apply touch_ite
    | with_reducible intro _
    | with_reducible refine touch_mk ?_ ?_ ?_ ?_ ?_ ?_ ?_ ?_ ?_ ?_ ?_ ?_ ?_ ?_ ?_ ?_ ?_ ?_ ?_ ?_ ?_ ?_ ?_ ?_ ?_ ?_ ?_ ?_ ?_

theorem State.closeAck_touch (hp : ([.host, .ctr, .out] : List Part) ⊆ ps) (s : State) (f : Flow) (code : ℕ)  (h : Touch ps s0 s) :
    Touch ps s0 (State.closeAck s f code) := by
  unfold State.closeAck; try dsimp only
  repeat' first
    | with_reducible assumption
    | exact List.Subset.trans (by decide) hp
    | with_reducible apply State.sendHost_touch
    | exact .inr (hp (by decide))
    | with_reducible exact .inl rfl
    | with_reducible intro _
    | with_reducible refine touch_mk ?_ ?_ ?_ ?_ ?_ ?_ ?_ ?_ ?_ ?_ ?_ ?_ ?_ ?_ ?_ ?_ ?_ ?_ ?_ ?_ ?_ ?_ ?_ ?_ ?_ ?_ ?_ ?_ ?_

theorem State.finishFlow_touch (hp : ([.time, .start, .log, .safe, .bg, .stats, .clusters, .job, .upd, .banks, .limbers, .stash, .cow, .cxl, .base, .spine, .skid, .net, .sync, .tally, .host, .ingest, .snap, .power, .mem, .ctr, .out, .free] : List Part) ⊆ ps) (s : State) (f : Flow) (flash : FlashReport)  (h : Touch ps s0 s) :
    Touch ps s0 (State.finishFlow s f flash) := by
  unfold State.finishFlow; try dsimp only
  repeat' first
    | with_reducible assumption
    | exact List.Subset.trans (by decide) hp
    | with_reducible apply State.flashWrite_touch
    | with_reducible apply State.closeAck_touch
    | with_reducible apply State.setFormats_touch
    | with_reducible apply State.flowLost_touch
    | with_reducible apply State.modFwSlot_touch
    | with_reducible apply State.romAgain_touch
    | with_reducible apply State.putTrial_touch
    | exact .inr (hp (by decide))
    | with_reducible exact .inl rfl
    | with_reducible apply touch_ite
    | with_reducible intro _
    | split
    | with_reducible refine touch_mk ?_ ?_ ?_ ?_ ?_ ?_ ?_ ?_ ?_ ?_ ?_ ?_ ?_ ?_ ?_ ?_ ?_ ?_ ?_ ?_ ?_ ?_ ?_ ?_ ?_ ?_ ?_ ?_ ?_

theorem State.heard_touch (hp : ([.host] : List Part) ⊆ ps) (s : State) (id : ℕ)  (h : Touch ps s0 s) :
    Touch ps s0 (State.heard s id) := by
  unfold State.heard; try dsimp only
  repeat' first
    | with_reducible assumption
    | exact List.Subset.trans (by decide) hp
    | with_reducible apply State.modFlow_touch

theorem State.onFlow_touch (hp : ([.ctr] : List Part) ⊆ ps) (s : State) (id : ℕ) (f : State → Flow → State) (hf : ∀ s y0, Touch ps s0 s → Touch ps s0 (f s y0)) (h : Touch ps s0 s) :
    TouchR ps s0 (State.onFlow s id f) := by
  unfold State.onFlow; try dsimp only
  repeat' first
    | with_reducible assumption
    | exact List.Subset.trans (by decide) hp
    | with_reducible apply State.rxFrame_touch
    | with_reducible apply hf
    | with_reducible apply touchR_next
    | split

theorem State.pumpBytes_touch (hp : ([.log, .host, .snap, .ctr, .out] : List Part) ⊆ ps) (s : State) (id : ℕ) (bs : Bytes) (fuel : ℕ) (h : Touch ps s0 s) : Touch ps s0 (s.pumpBytes id bs fuel) := by
  induction fuel generalizing s with
  | zero => exact h
  | succ n ih =>
    unfold State.pumpBytes
    split
    · exact h
    · exact touch_ite (fun _ => h) fun _ => touch_ite (fun _ => touch_ite (fun _ => h) fun _ => touch_ite
        (fun _ => State.abandonCheckpoint_touch (List.Subset.trans (by decide) hp) _ h) fun _ => ih _ (State.sendBlock_touch (List.Subset.trans (by decide) hp) _ _ _ h)) fun _ =>
        State.sendHost_touch (List.Subset.trans (by decide) hp) _ _ (State.modFlow_touch (List.Subset.trans (by decide) hp) _ _ _ h)

theorem State.pumpFlow_touch (hp : ([.log, .host, .snap, .ctr, .out] : List Part) ⊆ ps) (s : State) (id : ℕ)  (h : Touch ps s0 s) :
    Touch ps s0 (State.pumpFlow s id) := by
  unfold State.pumpFlow; try dsimp only
  repeat' first
    | with_reducible assumption
    | exact List.Subset.trans (by decide) hp
    | with_reducible apply State.pumpBytes_touch
    | split

theorem State.resendBlocks_touch (hp : ([.host, .ctr, .out] : List Part) ⊆ ps) (s : State) (f : Flow) (bs : List (ℕ × Bytes))  (h : Touch ps s0 s) :
    Touch ps s0 (State.resendBlocks s f bs) := by
  unfold State.resendBlocks; try dsimp only
  repeat' first
    | with_reducible assumption
    | exact List.Subset.trans (by decide) hp
    | with_reducible apply State.sendHost_touch
    | with_reducible apply State.touch_touch
    | with_reducible apply State.bump_touch
    | with_reducible apply touch_foldl
    | with_reducible intro _

theorem State.takeBytes_touch (hp : ([.log, .job, .host, .ingest, .snap, .ctr, .out] : List Part) ⊆ ps) (s : State) (id : ℕ)  (h : Touch ps s0 s) :
    Touch ps s0 (State.takeBytes s id) := by
  unfold State.takeBytes; try dsimp only
  repeat' first
    | with_reducible assumption
    | exact List.Subset.trans (by decide) hp
    | with_reducible apply State.settleStand_touch
    | with_reducible apply State.closeWith_touch
    | with_reducible apply State.imageBytesIn_touch
    | with_reducible apply State.modFlow_touch
    | with_reducible apply touch_ite
    | with_reducible intro _
    | split

theorem State.tryFinish_touch (hp : ([.time, .start, .log, .safe, .bg, .stats, .clusters, .job, .upd, .banks, .limbers, .stash, .cow, .cxl, .base, .spine, .skid, .net, .sync, .tally, .host, .ingest, .snap, .power, .mem, .ctr, .out, .free] : List Part) ⊆ ps) (s : State) (id : ℕ) (flash : FlashReport)  (h : Touch ps s0 s) :
    Touch ps s0 (State.tryFinish s id flash) := by
  unfold State.tryFinish; try dsimp only
  repeat' first
    | with_reducible assumption
    | exact List.Subset.trans (by decide) hp
    | with_reducible apply State.finishFlow_touch
    | with_reducible apply touch_ite
    | with_reducible intro _
    | split

theorem execAckTimer_touch (hp : ([.host, .ctr, .out] : List Part) ⊆ ps) (flow : ℕ) (s : State)  (h : Touch ps s0 s) :
    TouchR ps s0 (execAckTimer flow s) := by
  unfold execAckTimer; try dsimp only
  repeat' first
    | with_reducible assumption
    | exact List.Subset.trans (by decide) hp
    | with_reducible apply State.sendAck_touch
    | with_reducible apply touch_ite
    | with_reducible apply touchR_ite
    | with_reducible apply touchR_next
    | with_reducible intro _
    | split

theorem execBulkAck_touch (hp : ([.log, .safe, .stats, .clusters, .job, .upd, .limbers, .cow, .cxl, .base, .skid, .host, .ingest, .snap, .ctr, .out] : List Part) ⊆ ps) (flow : ℕ) (block : ℕ) (window : ℕ) (checks : List MemCheck) (s : State)  (h : Touch ps s0 s) :
    TouchR ps s0 (execBulkAck flow block window checks s) := by
  unfold execBulkAck; try dsimp only
  repeat' first
    | with_reducible assumption
    | exact List.Subset.trans (by decide) hp
    | with_reducible apply State.onFlow_touch
    | with_reducible apply State.modFlow_touch
    | with_reducible apply State.heard_touch
    | with_reducible apply State.checked_touch
    | with_reducible apply State.pumpFlow_touch
    | with_reducible apply touch_ite
    | with_reducible apply touchR_ite
    | with_reducible apply touchR_next
    | with_reducible refine touch_of_snd (by assumption) ?_
    | with_reducible intro _
    | split

theorem execBulkClose_touch (hp : ([.time, .start, .log, .safe, .bg, .stats, .clusters, .job, .upd, .banks, .limbers, .stash, .cow, .cxl, .base, .spine, .skid, .net, .sync, .tally, .host, .ingest, .snap, .power, .mem, .ctr, .out, .free] : List Part) ⊆ ps) (flow : ℕ) (blocks : ℕ) (flash : FlashReport) (s : State)  (h : Touch ps s0 s) :
    TouchR ps s0 (execBulkClose flow blocks flash s) := by
  unfold execBulkClose; try dsimp only
  repeat' first
    | with_reducible assumption
    | exact List.Subset.trans (by decide) hp
    | with_reducible apply State.onFlow_touch
    | with_reducible apply State.sendHost_touch
    | with_reducible apply State.closeFlow_touch
    | with_reducible apply State.modFlow_touch
    | with_reducible apply State.heard_touch
    | with_reducible apply State.tryFinish_touch
    | with_reducible apply State.bulkNak_touch
    | with_reducible apply touch_ite
    | with_reducible apply touchR_ite
    | with_reducible apply touchR_next
    | with_reducible intro _

theorem execBulkCloseAck_touch (hp : ([.log, .host, .snap, .ctr, .out] : List Part) ⊆ ps) (flow : ℕ) (code : ℕ) (s : State)  (h : Touch ps s0 s) :
    TouchR ps s0 (execBulkCloseAck flow code s) := by
  unfold execBulkCloseAck; try dsimp only
  repeat' first
    | with_reducible assumption
    | exact List.Subset.trans (by decide) hp
    | with_reducible apply State.onFlow_touch
    | with_reducible apply State.closeFlow_touch
    | with_reducible apply State.event_touch
    | with_reducible apply State.bump_touch
    | with_reducible apply State.endCheckpoint_touch
    | with_reducible apply touch_ite
    | with_reducible apply touchR_ite
    | with_reducible apply touchR_next
    | with_reducible intro _
    | split

theorem execBulkData_touch (hp : ([.time, .start, .log, .safe, .bg, .stats, .clusters, .job, .upd, .banks, .limbers, .stash, .cow, .cxl, .base, .spine, .skid, .net, .sync, .tally, .host, .ingest, .snap, .power, .mem, .ctr, .out, .free] : List Part) ⊆ ps) (flow : ℕ) (block : ℕ) (body : Bytes) (crc : ℕ) (flash : FlashReport) (s : State)  (h : Touch ps s0 s) :
    TouchR ps s0 (execBulkData flow block body crc flash s) := by
  unfold execBulkData; try dsimp only
  repeat' first
    | with_reducible assumption
    | exact List.Subset.trans (by decide) hp
    | with_reducible apply State.onFlow_touch
    | with_reducible apply State.badBlock_touch
    | with_reducible apply State.touch_touch
    | with_reducible apply State.heard_touch
    | with_reducible apply State.modFlow_touch
    | with_reducible apply State.takeBytes_touch
    | with_reducible apply State.bulkNak_touch
    | with_reducible apply State.sendAck_touch
    | with_reducible apply State.tryFinish_touch
    | with_reducible apply touch_ite
    | with_reducible apply touchR_ite
    | with_reducible apply touchR_next
    | with_reducible intro _
    | split

theorem execBulkFlowTimeout_touch (hp : ([.log, .host, .snap, .ctr, .out] : List Part) ⊆ ps) (flow : ℕ) (s : State)  (h : Touch ps s0 s) :
    TouchR ps s0 (execBulkFlowTimeout flow s) := by
  unfold execBulkFlowTimeout; try dsimp only
  repeat' first
    | with_reducible assumption
    | exact List.Subset.trans (by decide) hp
    | with_reducible apply State.closeFlow_touch
    | with_reducible apply State.event_touch
    | with_reducible apply touch_ite
    | with_reducible apply touchR_ite
    | with_reducible apply touchR_next
    | with_reducible intro _
    | split

theorem execBulkNak_touch (hp : ([.host, .ctr, .out] : List Part) ⊆ ps) (flow : ℕ) (blocks : List ℕ) (s : State)  (h : Touch ps s0 s) :
    TouchR ps s0 (execBulkNak flow blocks s) := by
  unfold execBulkNak; try dsimp only
  repeat' first
    | with_reducible assumption
    | exact List.Subset.trans (by decide) hp
    | with_reducible apply State.onFlow_touch
    | with_reducible apply State.resendBlocks_touch
    | with_reducible apply State.heard_touch
    | with_reducible apply touch_ite
    | with_reducible apply touchR_ite
    | with_reducible apply touchR_next
    | with_reducible intro _

theorem execBulkOpen_touch (hp : ([.start, .host, .snap, .ctr, .out] : List Part) ⊆ ps) (addr : Bytes) (session : ℕ) (channel : ℕ) (sub : ℕ) (s : State)  (h : Touch ps s0 s) :
    TouchR ps s0 (execBulkOpen addr session channel sub s) := by
  unfold execBulkOpen; try dsimp only
  repeat' first
    | with_reducible assumption
    | exact List.Subset.trans (by decide) hp
    | with_reducible apply State.rxFrame_touch
    | with_reducible apply State.sendHost_touch
    | with_reducible apply State.setFormats_touch
    | with_reducible apply State.modRestore_touch
    | exact .inr (hp (by decide))
    | with_reducible exact .inl rfl
    | with_reducible apply touch_ite
    | with_reducible apply touchR_ite
    | with_reducible apply touchR_next
    | with_reducible intro _
    | split
    | with_reducible refine touch_mk ?_ ?_ ?_ ?_ ?_ ?_ ?_ ?_ ?_ ?_ ?_ ?_ ?_ ?_ ?_ ?_ ?_ ?_ ?_ ?_ ?_ ?_ ?_ ?_ ?_ ?_ ?_ ?_ ?_

theorem execBulkOpenAck_touch (hp : ([.log, .host, .snap, .ctr, .out] : List Part) ⊆ ps) (flow : ℕ) (code : ℕ) (s : State)  (h : Touch ps s0 s) :
    TouchR ps s0 (execBulkOpenAck flow code s) := by
  unfold execBulkOpenAck; try dsimp only
  repeat' first
    | with_reducible assumption
    | exact List.Subset.trans (by decide) hp
    | with_reducible apply State.onFlow_touch
    | with_reducible apply State.heard_touch
    | with_reducible apply State.closeFlow_touch
    | with_reducible apply touch_ite
    | with_reducible apply touchR_ite
    | with_reducible apply touchR_next
    | with_reducible intro _

theorem execCheckpointSkipped_touch (hp : ([.log, .host, .snap, .ctr, .out] : List Part) ⊆ ps) (s : State)  (h : Touch ps s0 s) :
    TouchR ps s0 (execCheckpointSkipped s) := by
  unfold execCheckpointSkipped; try dsimp only
  repeat' first
    | with_reducible assumption
    | exact List.Subset.trans (by decide) hp
    | with_reducible apply State.event_touch
    | with_reducible apply State.endCheckpoint_touch
    | exact .inr (hp (by decide))
    | with_reducible exact .inl rfl
    | with_reducible apply touch_ite
    | with_reducible apply touchR_ite
    | with_reducible apply touchR_next
    | with_reducible intro _
    | with_reducible refine touch_mk ?_ ?_ ?_ ?_ ?_ ?_ ?_ ?_ ?_ ?_ ?_ ?_ ?_ ?_ ?_ ?_ ?_ ?_ ?_ ?_ ?_ ?_ ?_ ?_ ?_ ?_ ?_ ?_ ?_

theorem execResendTimer_touch (hp : ([.host, .ctr, .out] : List Part) ⊆ ps) (flow : ℕ) (s : State)  (h : Touch ps s0 s) :
    TouchR ps s0 (execResendTimer flow s) := by
  unfold execResendTimer; try dsimp only
  repeat' first
    | with_reducible assumption
    | exact List.Subset.trans (by decide) hp
    | with_reducible apply State.resendBlocks_touch
    | with_reducible apply State.modFlow_touch
    | with_reducible apply touch_ite
    | with_reducible apply touchR_ite
    | with_reducible apply touchR_next
    | with_reducible intro _
    | split

end Sys2Proof.Machine
end

