-- ==== Sys2Proof/Laws/TouchPower.lean ====
section
/-! SUPPORT. Which parts of the state the operations of Machine/Power.lean may change. -/

namespace Sys2Proof.Machine

variable {s0 : State} {ps : List Part}

theorem State.accrueStretch_touch (hp : ([.power, .ctr] : List Part) ⊆ ps) (s : State)  (h : Touch ps s0 s) :
    Touch ps s0 (State.accrueStretch s) := by
  unfold State.accrueStretch; try dsimp only
  repeat' first
    | with_reducible assumption
    | exact List.Subset.trans (by decide) hp
    | with_reducible apply State.bump_touch
    | exact .inr (hp (by decide))
    | with_reducible exact .inl rfl
    | with_reducible apply touch_ite
    | with_reducible apply touch_foldl
    | with_reducible intro _
    | with_reducible refine touch_mk ?_ ?_ ?_ ?_ ?_ ?_ ?_ ?_ ?_ ?_ ?_ ?_ ?_ ?_ ?_ ?_ ?_ ?_ ?_ ?_ ?_ ?_ ?_ ?_ ?_ ?_ ?_ ?_ ?_

theorem State.hardNotice_touch (hp : ([.log, .skid, .out] : List Part) ⊆ ps) (s : State) (code : ℕ)  (h : Touch ps s0 s) :
    Touch ps s0 (State.hardNotice s code) := by
  unfold State.hardNotice; try dsimp only
  repeat' first
    | with_reducible assumption
    | exact List.Subset.trans (by decide) hp
    | with_reducible apply State.sendOn_touch
    | with_reducible apply touch_foldl
    | with_reducible intro _

theorem State.noteInputs_touch (hp : ([.power] : List Part) ⊆ ps) (s : State) (main : ℕ) (backup : ℕ)  (h : Touch ps s0 s) :
    Touch ps s0 (State.noteInputs s main backup) := by
  unfold State.noteInputs; try dsimp only
  repeat' first
    | with_reducible assumption
    | exact .inr (hp (by decide))
    | with_reducible exact .inl rfl
    | with_reducible refine touch_mk ?_ ?_ ?_ ?_ ?_ ?_ ?_ ?_ ?_ ?_ ?_ ?_ ?_ ?_ ?_ ?_ ?_ ?_ ?_ ?_ ?_ ?_ ?_ ?_ ?_ ?_ ?_ ?_ ?_

theorem State.noteTemp_touch (hp : ([.power] : List Part) ⊆ ps) (s : State) (sensor : ℕ) (t : ℕ)  (h : Touch ps s0 s) :
    Touch ps s0 (State.noteTemp s sensor t) := by
  unfold State.noteTemp; try dsimp only
  repeat' first
    | with_reducible assumption
    | exact .inr (hp (by decide))
    | with_reducible exact .inl rfl
    | with_reducible refine touch_mk ?_ ?_ ?_ ?_ ?_ ?_ ?_ ?_ ?_ ?_ ?_ ?_ ?_ ?_ ?_ ?_ ?_ ?_ ?_ ?_ ?_ ?_ ?_ ?_ ?_ ?_ ?_ ?_ ?_

theorem State.restretch_touch (hp : ([.power, .ctr] : List Part) ⊆ ps) (s : State)  (h : Touch ps s0 s) :
    Touch ps s0 (State.restretch s) := by
  unfold State.restretch; try dsimp only
  repeat' first
    | with_reducible assumption
    | exact List.Subset.trans (by decide) hp
    | with_reducible apply State.modInst_touch
    | with_reducible apply State.accrueStretch_touch
    | with_reducible apply touch_ite
    | with_reducible apply touch_foldl
    | with_reducible intro _

theorem State.switchFeed_touch (hp : ([.power, .ctr] : List Part) ⊆ ps) (s : State) (back : Bool)  (h : Touch ps s0 s) :
    Touch ps s0 (State.switchFeed s back) := by
  unfold State.switchFeed; try dsimp only
  repeat' first
    | with_reducible assumption
    | exact List.Subset.trans (by decide) hp
    | with_reducible apply State.restretch_touch
    | exact .inr (hp (by decide))
    | with_reducible exact .inl rfl
    | with_reducible refine touch_mk ?_ ?_ ?_ ?_ ?_ ?_ ?_ ?_ ?_ ?_ ?_ ?_ ?_ ?_ ?_ ?_ ?_ ?_ ?_ ?_ ?_ ?_ ?_ ?_ ?_ ?_ ?_ ?_ ?_

theorem execClockSwitchDone_touch (hp : ([.power] : List Part) ⊆ ps) (inst : ℕ) (s : State)  (h : Touch ps s0 s) :
    TouchR ps s0 (execClockSwitchDone inst s) := by
  unfold execClockSwitchDone; try dsimp only
  repeat' first
    | with_reducible assumption
    | exact List.Subset.trans (by decide) hp
    | with_reducible apply State.modInst_touch
    | with_reducible apply touchR_next
    | split

theorem execCoolantDeltaHigh_touch (hp : ([.log, .host, .power, .ctr, .out] : List Part) ⊆ ps) (inlet : ℕ) (outlet : ℕ) (s : State)  (h : Touch ps s0 s) :
    TouchR ps s0 (execCoolantDeltaHigh inlet outlet s) := by
  unfold execCoolantDeltaHigh; try dsimp only
  repeat' first
    | with_reducible assumption
    | exact List.Subset.trans (by decide) hp
    | with_reducible apply State.event_touch
    | exact .inr (hp (by decide))
    | with_reducible exact .inl rfl
    | with_reducible apply touch_ite
    | with_reducible apply touchR_ite
    | with_reducible apply touchR_next
    | with_reducible intro _
    | with_reducible refine touch_mk ?_ ?_ ?_ ?_ ?_ ?_ ?_ ?_ ?_ ?_ ?_ ?_ ?_ ?_ ?_ ?_ ?_ ?_ ?_ ?_ ?_ ?_ ?_ ?_ ?_ ?_ ?_ ?_ ?_

theorem execEnvironmentRecord_touch (hp : ([.log, .host, .power, .ctr, .out] : List Part) ⊆ ps) (s : State)  (h : Touch ps s0 s) :
    TouchR ps s0 (execEnvironmentRecord s) := by
  unfold execEnvironmentRecord; try dsimp only
  repeat' first
    | with_reducible assumption
    | exact List.Subset.trans (by decide) hp
    | with_reducible apply State.telemetry_touch
    | exact .inr (hp (by decide))
    | with_reducible exact .inl rfl
    | with_reducible apply touch_ite
    | with_reducible apply touchR_ite
    | with_reducible apply touchR_next
    | with_reducible apply touch_foldl
    | with_reducible intro _
    | with_reducible refine touch_mk ?_ ?_ ?_ ?_ ?_ ?_ ?_ ?_ ?_ ?_ ?_ ?_ ?_ ?_ ?_ ?_ ?_ ?_ ?_ ?_ ?_ ?_ ?_ ?_ ?_ ?_ ?_ ?_ ?_

theorem execFeedBackupLow_touch (hp : ([.log, .host, .power, .ctr, .out] : List Part) ⊆ ps) (mv : ℕ) (s : State)  (h : Touch ps s0 s) :
    TouchR ps s0 (execFeedBackupLow mv s) := by
  unfold execFeedBackupLow; try dsimp only
  repeat' first
    | with_reducible assumption
    | exact List.Subset.trans (by decide) hp
    | with_reducible apply State.noteInputs_touch
    | with_reducible apply State.event_touch
    | exact .inr (hp (by decide))
    | with_reducible exact .inl rfl
    | with_reducible apply touch_ite
    | with_reducible apply touchR_ite
    | with_reducible apply touchR_next
    | with_reducible intro _
    | with_reducible refine touch_mk ?_ ?_ ?_ ?_ ?_ ?_ ?_ ?_ ?_ ?_ ?_ ?_ ?_ ?_ ?_ ?_ ?_ ?_ ?_ ?_ ?_ ?_ ?_ ?_ ?_ ?_ ?_ ?_ ?_

theorem execMonitorSample_touch (hp : ([.start, .log, .safe, .stats, .clusters, .job, .upd, .limbers, .cow, .skid, .host, .ingest, .snap, .power, .ctr, .out] : List Part) ⊆ ps) (r : MonitorReport) (s : State)  (h : Touch ps s0 s) :
    TouchR ps s0 (execMonitorSample r s) := by
  unfold execMonitorSample; try dsimp only
  repeat' first
    | with_reducible assumption
    | exact List.Subset.trans (by decide) hp
    | with_reducible apply State.noteInputs_touch
    | with_reducible apply State.noteTemp_touch
    | with_reducible apply State.modInst_touch
    | with_reducible apply State.fault_touch
    | exact .inr (hp (by decide))
    | with_reducible exact .inl rfl
    | with_reducible apply touchR_next
    | with_reducible apply touch_foldl
    | with_reducible intro _
    | with_reducible refine touch_mk ?_ ?_ ?_ ?_ ?_ ?_ ?_ ?_ ?_ ?_ ?_ ?_ ?_ ?_ ?_ ?_ ?_ ?_ ?_ ?_ ?_ ?_ ?_ ?_ ?_ ?_ ?_ ?_ ?_

theorem execPllLockLoss_touch (hp : ([.log, .safe, .stats, .clusters, .job, .upd, .limbers, .cow, .skid, .host, .ingest, .snap, .power, .ctr, .out] : List Part) ⊆ ps) (inst : ℕ) (pllB : Bool) (s : State)  (h : Touch ps s0 s) :
    TouchR ps s0 (execPllLockLoss inst pllB s) := by
  unfold execPllLockLoss; try dsimp only
  repeat' first
    | with_reducible assumption
    | exact List.Subset.trans (by decide) hp
    | with_reducible apply State.modInst_touch
    | with_reducible apply State.event_touch
    | with_reducible apply State.bump_touch
    | with_reducible apply State.beginSwitch_touch
    | with_reducible apply State.fault_touch
    | with_reducible apply touch_ite
    | with_reducible apply touchR_ite
    | with_reducible apply touchR_next
    | with_reducible intro _

theorem execPowerSample_touch (hp : ([.log, .job, .host, .power, .ctr, .out] : List Part) ⊆ ps) (watts : ℕ) (s : State)  (h : Touch ps s0 s) :
    TouchR ps s0 (execPowerSample watts s) := by
  unfold execPowerSample; try dsimp only
  repeat' first
    | with_reducible assumption
    | exact List.Subset.trans (by decide) hp
    | with_reducible apply State.restretch_touch
    | with_reducible apply State.eventOnce_touch
    | exact .inr (hp (by decide))
    | with_reducible exact .inl rfl
    | with_reducible apply touch_ite
    | with_reducible apply touchR_ite
    | with_reducible apply touchR_next
    | with_reducible intro _
    | with_reducible refine touch_mk ?_ ?_ ?_ ?_ ?_ ?_ ?_ ?_ ?_ ?_ ?_ ?_ ?_ ?_ ?_ ?_ ?_ ?_ ?_ ?_ ?_ ?_ ?_ ?_ ?_ ?_ ?_ ?_ ?_

theorem execReturnToMain_touch (hp : ([.power, .ctr] : List Part) ⊆ ps) (main : ℕ) (s : State)  (h : Touch ps s0 s) :
    TouchR ps s0 (execReturnToMain main s) := by
  unfold execReturnToMain; try dsimp only
  repeat' first
    | with_reducible assumption
    | exact List.Subset.trans (by decide) hp
    | with_reducible apply State.noteInputs_touch
    | with_reducible apply State.switchFeed_touch
    | with_reducible apply touch_ite
    | with_reducible apply touchR_ite
    | with_reducible apply touchR_next
    | with_reducible intro _

theorem execStandbyRelock_touch (hp : ([.power] : List Part) ⊆ ps) (inst : ℕ) (pllB : Bool) (ok : Bool) (s : State)  (h : Touch ps s0 s) :
    TouchR ps s0 (execStandbyRelock inst pllB ok s) := by
  unfold execStandbyRelock; try dsimp only
  repeat' first
    | with_reducible assumption
    | exact List.Subset.trans (by decide) hp
    | with_reducible apply State.modInst_touch
    | with_reducible apply touch_ite
    | with_reducible apply touchR_ite
    | with_reducible apply touchR_next
    | with_reducible intro _

theorem execStretchStepDown_touch (hp : ([.power, .ctr] : List Part) ⊆ ps) (inst : ℕ) (s : State)  (h : Touch ps s0 s) :
    TouchR ps s0 (execStretchStepDown inst s) := by
  unfold execStretchStepDown; try dsimp only
  repeat' first
    | with_reducible assumption
    | exact List.Subset.trans (by decide) hp
    | with_reducible apply State.modInst_touch
    | with_reducible apply State.accrueStretch_touch
    | exact .inr (hp (by decide))
    | with_reducible exact .inl rfl
    | with_reducible apply touch_ite
    | with_reducible apply touchR_ite
    | with_reducible apply touchR_next
    | with_reducible intro _
    | with_reducible refine touch_mk ?_ ?_ ?_ ?_ ?_ ?_ ?_ ?_ ?_ ?_ ?_ ?_ ?_ ?_ ?_ ?_ ?_ ?_ ?_ ?_ ?_ ?_ ?_ ?_ ?_ ?_ ?_ ?_ ?_

theorem execSupplyLost_touch (hp : ([.time, .start, .log, .safe, .bg, .stats, .clusters, .job, .upd, .banks, .limbers, .stash, .cow, .cxl, .base, .spine, .skid, .net, .sync, .tally, .host, .ingest, .snap, .power, .mem, .ctr, .out, .free] : List Part) ⊆ ps) (main : ℕ) (backup : ℕ) (s : State)  (h : Touch ps s0 s) :
    TouchR ps s0 (execSupplyLost main backup s) := by
  unfold execSupplyLost; try dsimp only
  repeat' first
    | with_reducible assumption
    | exact List.Subset.trans (by decide) hp
    | with_reducible apply State.noteInputs_touch
    | with_reducible apply State.restarted_touch
    | with_reducible apply State.hardNotice_touch
    | with_reducible apply State.fault_touch
    | with_reducible apply touch_ite
    | with_reducible apply touchR_ite
    | with_reducible apply touchR_next
    | with_reducible intro _

theorem execSwitchOverComplete_touch (hp : ([.log, .host, .snap, .power, .ctr, .out] : List Part) ⊆ ps) (s : State)  (h : Touch ps s0 s) :
    TouchR ps s0 (execSwitchOverComplete s) := by
  unfold execSwitchOverComplete; try dsimp only
  repeat' first
    | with_reducible assumption
    | exact List.Subset.trans (by decide) hp
    | with_reducible apply State.event_touch
    | with_reducible apply State.bump_touch
    | with_reducible apply State.stress_touch
    | exact .inr (hp (by decide))
    | with_reducible exact .inl rfl
    | with_reducible apply touch_ite
    | with_reducible apply touchR_ite
    | with_reducible apply touchR_next
    | with_reducible intro _
    | with_reducible refine touch_mk ?_ ?_ ?_ ?_ ?_ ?_ ?_ ?_ ?_ ?_ ?_ ?_ ?_ ?_ ?_ ?_ ?_ ?_ ?_ ?_ ?_ ?_ ?_ ?_ ?_ ?_ ?_ ?_ ?_

theorem execSwitchOverStart_touch (hp : ([.power, .ctr] : List Part) ⊆ ps) (main : ℕ) (backup : ℕ) (s : State)  (h : Touch ps s0 s) :
    TouchR ps s0 (execSwitchOverStart main backup s) := by
  unfold execSwitchOverStart; try dsimp only
  repeat' first
    | with_reducible assumption
    | exact List.Subset.trans (by decide) hp
    | with_reducible apply State.noteInputs_touch
    | with_reducible apply State.switchFeed_touch
    | with_reducible apply touch_ite
    | with_reducible apply touchR_ite
    | with_reducible apply touchR_next
    | with_reducible intro _

theorem execThermalDemandUpdate_touch (hp : ([.log, .job, .host, .power, .ctr, .out] : List Part) ⊆ ps) (sensor : ℕ) (reading : ℕ) (s : State)  (h : Touch ps s0 s) :
    TouchR ps s0 (execThermalDemandUpdate sensor reading s) := by
  unfold execThermalDemandUpdate; try dsimp only
  repeat' first
    | with_reducible assumption
    | exact List.Subset.trans (by decide) hp
    | with_reducible apply State.noteTemp_touch
    | with_reducible apply State.restretch_touch
    | with_reducible apply State.eventOnce_touch
    | exact .inr (hp (by decide))
    | with_reducible exact .inl rfl
    | with_reducible apply touch_ite
    | with_reducible apply touchR_ite
    | with_reducible apply touchR_next
    | with_reducible intro _
    | with_reducible refine touch_mk ?_ ?_ ?_ ?_ ?_ ?_ ?_ ?_ ?_ ?_ ?_ ?_ ?_ ?_ ?_ ?_ ?_ ?_ ?_ ?_ ?_ ?_ ?_ ?_ ?_ ?_ ?_ ?_ ?_

end Sys2Proof.Machine
end

