-- ==== Sys2Proof/Laws/TouchCare.lean ====
section
/-! SUPPORT. Which parts of the state the operations of Machine/Care.lean may change. -/

namespace Sys2Proof.Machine

variable {s0 : State} {ps : List Part}

theorem State.loseSlots_touch (hp : ([.log, .host, .snap, .ctr, .out] : List Part) ⊆ ps) (s : State) (port : ℕ) (lost : List ℕ)  (h : Touch ps s0 s) :
    Touch ps s0 (State.loseSlots s port lost) := by
  unfold State.loseSlots; try dsimp only
  repeat' first
    | with_reducible assumption
    | exact List.Subset.trans (by decide) hp
    | with_reducible apply State.modOwn_touch
    | with_reducible apply State.modPartner_touch
    | with_reducible apply State.event_touch
    | with_reducible apply State.abandonCheckpoint_touch
    | exact .inr (hp (by decide))
    | with_reducible exact .inl rfl
    | with_reducible apply touch_ite
    | with_reducible apply touch_foldl
    | with_reducible intro _
    | split
    | with_reducible refine touch_mk ?_ ?_ ?_ ?_ ?_ ?_ ?_ ?_ ?_ ?_ ?_ ?_ ?_ ?_ ?_ ?_ ?_ ?_ ?_ ?_ ?_ ?_ ?_ ?_ ?_ ?_ ?_ ?_ ?_

theorem State.modDevice_touch (hp : ([.cxl] : List Part) ⊆ ps) (s : State) (port : ℕ) (dev : ℕ) (f : CxlDevice → CxlDevice)  (h : Touch ps s0 s) :
    Touch ps s0 (State.modDevice s port dev f) := by
  unfold State.modDevice; try dsimp only
  repeat' first
    | with_reducible assumption
    | exact .inr (hp (by decide))
    | with_reducible exact .inl rfl
    | with_reducible apply touch_ite
    | with_reducible intro _
    | with_reducible refine touch_mk ?_ ?_ ?_ ?_ ?_ ?_ ?_ ?_ ?_ ?_ ?_ ?_ ?_ ?_ ?_ ?_ ?_ ?_ ?_ ?_ ?_ ?_ ?_ ?_ ?_ ?_ ?_ ?_ ?_

theorem State.noteScrub_touch (hp : ([.ctr] : List Part) ⊆ ps) (s : State) (checks : List MemCheck)  (h : Touch ps s0 s) :
    Touch ps s0 (State.noteScrub s checks) := by
  unfold State.noteScrub; try dsimp only
  repeat' first
    | with_reducible assumption
    | exact List.Subset.trans (by decide) hp
    | with_reducible apply State.bump_touch
    | with_reducible apply touch_foldl
    | with_reducible intro _
    | split

theorem State.partnerLost_touch (hp : ([.log, .host, .snap, .ctr, .out] : List Part) ⊆ ps) (s : State) (d : CxlDevice)  (h : Touch ps s0 s) :
    Touch ps s0 (State.partnerLost s d) := by
  unfold State.partnerLost; try dsimp only
  repeat' first
    | with_reducible assumption
    | exact List.Subset.trans (by decide) hp
    | with_reducible apply State.loseSlots_touch
    | with_reducible apply touch_ite
    | with_reducible intro _

theorem execCheckerSelfTest_touch (hp : ([.log, .safe, .stats, .clusters, .job, .upd, .limbers, .cow, .skid, .host, .ingest, .snap, .ctr, .out] : List Part) ⊆ ps) (checker : ℕ) (waits : Bool) (ok : Bool) (s : State)  (h : Touch ps s0 s) :
    TouchR ps s0 (execCheckerSelfTest checker waits ok s) := by
  unfold execCheckerSelfTest; try dsimp only
  repeat' first
    | with_reducible assumption
    | exact List.Subset.trans (by decide) hp
    | with_reducible apply State.bump_touch
    | with_reducible apply State.fault_touch
    | exact .inr (hp (by decide))
    | with_reducible exact .inl rfl
    | with_reducible apply touch_ite
    | with_reducible apply touchR_ite
    | with_reducible apply touchR_next
    | with_reducible intro _
    | with_reducible refine touch_mk ?_ ?_ ?_ ?_ ?_ ?_ ?_ ?_ ?_ ?_ ?_ ?_ ?_ ?_ ?_ ?_ ?_ ?_ ?_ ?_ ?_ ?_ ?_ ?_ ?_ ?_ ?_ ?_ ?_

theorem execControllerLockstep_touch (hp : ([.log, .safe, .stats, .clusters, .job, .upd, .limbers, .cow, .skid, .host, .ingest, .snap, .ctr, .out] : List Part) ⊆ ps) (source : ℕ) (s : State)  (h : Touch ps s0 s) :
    TouchR ps s0 (execControllerLockstep source s) := by
  unfold execControllerLockstep; try dsimp only
  repeat' first
    | with_reducible assumption
    | exact List.Subset.trans (by decide) hp
    | with_reducible apply State.fault_touch
    | with_reducible apply touch_ite
    | with_reducible apply touchR_ite
    | with_reducible apply touchR_next
    | with_reducible intro _

theorem execCxlLinkDown_touch (hp : ([.log, .safe, .stats, .clusters, .job, .upd, .limbers, .cow, .cxl, .skid, .host, .ingest, .snap, .ctr, .out] : List Part) ⊆ ps) (port : ℕ) (dev : ℕ) (s : State)  (h : Touch ps s0 s) :
    TouchR ps s0 (execCxlLinkDown port dev s) := by
  unfold execCxlLinkDown; try dsimp only
  repeat' first
    | with_reducible assumption
    | exact List.Subset.trans (by decide) hp
    | with_reducible apply State.modDevice_touch
    | with_reducible apply State.fault_touch
    | with_reducible apply State.event_touch
    | with_reducible apply State.partnerLost_touch
    | with_reducible apply touch_ite
    | with_reducible apply touchR_ite
    | with_reducible apply touchR_next
    | with_reducible intro _
    | split

theorem execCxlLinkRetrain_touch (hp : ([.log, .cxl, .host, .snap, .ctr, .out] : List Part) ⊆ ps) (port : ℕ) (dev : ℕ) (speed : ℕ) (width : ℕ) (s : State)  (h : Touch ps s0 s) :
    TouchR ps s0 (execCxlLinkRetrain port dev speed width s) := by
  unfold execCxlLinkRetrain; try dsimp only
  repeat' first
    | with_reducible assumption
    | exact List.Subset.trans (by decide) hp
    | with_reducible apply State.modDevice_touch
    | with_reducible apply State.event_touch
    | with_reducible apply State.stress_touch
    | with_reducible apply State.bump_touch
    | with_reducible apply touch_ite
    | with_reducible apply touchR_ite
    | with_reducible apply touchR_next
    | with_reducible intro _
    | split

theorem execHbmCalibration_touch (hp : ([] : List Part) ⊆ ps) (_stack : ℕ) (s : State)  (h : Touch ps s0 s) :
    TouchR ps s0 (execHbmCalibration _stack s) := by
  unfold execHbmCalibration; try dsimp only
  repeat' first
    | with_reducible assumption
    | with_reducible apply touchR_next

theorem execHbmRefreshDue_touch (hp : ([] : List Part) ⊆ ps) (_stack : ℕ) (s : State)  (h : Touch ps s0 s) :
    TouchR ps s0 (execHbmRefreshDue _stack s) := by
  unfold execHbmRefreshDue; try dsimp only
  repeat' first
    | with_reducible assumption
    | with_reducible apply touchR_next

theorem execScrubBehind_touch (hp : ([.log, .bg, .host, .ctr, .out] : List Part) ⊆ ps) (cls : ℕ) (s : State)  (h : Touch ps s0 s) :
    TouchR ps s0 (execScrubBehind cls s) := by
  unfold execScrubBehind; try dsimp only
  repeat' first
    | with_reducible assumption
    | exact List.Subset.trans (by decide) hp
    | with_reducible apply State.event_touch
    | exact .inr (hp (by decide))
    | with_reducible exact .inl rfl
    | with_reducible apply touch_ite
    | with_reducible apply touchR_ite
    | with_reducible apply touchR_next
    | with_reducible intro _
    | with_reducible refine touch_mk ?_ ?_ ?_ ?_ ?_ ?_ ?_ ?_ ?_ ?_ ?_ ?_ ?_ ?_ ?_ ?_ ?_ ?_ ?_ ?_ ?_ ?_ ?_ ?_ ?_ ?_ ?_ ?_ ?_

theorem execScrubRead_touch (hp : ([.log, .safe, .bg, .stats, .clusters, .job, .upd, .limbers, .cow, .cxl, .base, .skid, .host, .ingest, .snap, .ctr, .out] : List Part) ⊆ ps) (cls : ℕ) (checks : List MemCheck) (last : Bool) (s : State)  (h : Touch ps s0 s) :
    TouchR ps s0 (execScrubRead cls checks last s) := by
  unfold execScrubRead; try dsimp only
  repeat' first
    | with_reducible assumption
    | exact List.Subset.trans (by decide) hp
    | with_reducible apply State.checked_touch
    | with_reducible apply State.noteScrub_touch
    | exact .inr (hp (by decide))
    | with_reducible exact .inl rfl
    | with_reducible apply touch_ite
    | with_reducible apply touchR_ite
    | with_reducible apply touchR_next
    | with_reducible refine touch_of_snd (by assumption) ?_
    | with_reducible intro _
    | split
    | with_reducible refine touch_mk ?_ ?_ ?_ ?_ ?_ ?_ ?_ ?_ ?_ ?_ ?_ ?_ ?_ ?_ ?_ ?_ ?_ ?_ ?_ ?_ ?_ ?_ ?_ ?_ ?_ ?_ ?_ ?_ ?_

theorem execStackTempRead_touch (hp : ([.base, .power] : List Part) ⊆ ps) (stack : ℕ) (temp : ℕ) (s : State)  (h : Touch ps s0 s) :
    TouchR ps s0 (execStackTempRead stack temp s) := by
  unfold execStackTempRead; try dsimp only
  repeat' first
    | with_reducible assumption
    | exact List.Subset.trans (by decide) hp
    | with_reducible apply State.noteTemp_touch
    | with_reducible apply State.modBase_touch
    | with_reducible apply touchR_next

theorem execUnitKatTest_touch (hp : ([.log, .safe, .stats, .clusters, .job, .upd, .limbers, .cow, .skid, .host, .ingest, .snap, .ctr, .out] : List Part) ⊆ ps) (unit : ℕ) (ok : Bool) (s : State)  (h : Touch ps s0 s) :
    TouchR ps s0 (execUnitKatTest unit ok s) := by
  unfold execUnitKatTest; try dsimp only
  repeat' first
    | with_reducible assumption
    | exact List.Subset.trans (by decide) hp
    | with_reducible apply State.bump_touch
    | with_reducible apply State.fault_touch
    | exact .inr (hp (by decide))
    | with_reducible exact .inl rfl
    | with_reducible apply touch_ite
    | with_reducible apply touchR_ite
    | with_reducible apply touchR_next
    | with_reducible intro _
    | with_reducible refine touch_mk ?_ ?_ ?_ ?_ ?_ ?_ ?_ ?_ ?_ ?_ ?_ ?_ ?_ ?_ ?_ ?_ ?_ ?_ ?_ ?_ ?_ ?_ ?_ ?_ ?_ ?_ ?_ ?_ ?_

theorem execWardenLockstep_touch (hp : ([.start, .log, .safe, .clusters, .job, .upd, .limbers, .cow, .skid, .host, .ingest, .snap, .ctr, .out] : List Part) ⊆ ps) (s : State)  (h : Touch ps s0 s) :
    TouchR ps s0 (execWardenLockstep s) := by
  unfold execWardenLockstep; try dsimp only
  repeat' first
    | with_reducible assumption
    | exact List.Subset.trans (by decide) hp
    | with_reducible apply State.hardNotice_touch
    | with_reducible apply State.faultCheckpoint_touch
    | with_reducible apply State.stopUnits_touch
    | exact .inr (hp (by decide))
    | with_reducible exact .inl rfl
    | with_reducible apply touch_ite
    | with_reducible apply touchR_ite
    | with_reducible apply touchR_next
    | with_reducible intro _
    | with_reducible refine touch_mk ?_ ?_ ?_ ?_ ?_ ?_ ?_ ?_ ?_ ?_ ?_ ?_ ?_ ?_ ?_ ?_ ?_ ?_ ?_ ?_ ?_ ?_ ?_ ?_ ?_ ?_ ?_ ?_ ?_

end Sys2Proof.Machine
end

