-- ==== Sys2Proof/Laws/TouchJobCmds.lean ====
section
/-! SUPPORT. Which parts of the state the operations of Machine/JobCmds.lean may change. -/

namespace Sys2Proof.Machine

variable {s0 : State} {ps : List Part}

theorem State.applyBounds_touch (hp : ([.clusters, .ingest] : List Part) ⊆ ps) (s : State) (k : ℕ)  (h : Touch ps s0 s) :
    Touch ps s0 (State.applyBounds s k) := by
  unfold State.applyBounds; try dsimp only
  repeat' first
    | with_reducible assumption
    | exact List.Subset.trans (by decide) hp
    | with_reducible apply State.modCl_touch
    | exact .inr (hp (by decide))
    | with_reducible exact .inl rfl
    | with_reducible apply touch_foldl
    | with_reducible intro _
    | with_reducible refine touch_mk ?_ ?_ ?_ ?_ ?_ ?_ ?_ ?_ ?_ ?_ ?_ ?_ ?_ ?_ ?_ ?_ ?_ ?_ ?_ ?_ ?_ ?_ ?_ ?_ ?_ ?_ ?_ ?_ ?_

theorem State.rearrive_touch (hp : ([.log, .sync, .host, .ctr, .out] : List Part) ⊆ ps) (s : State)  (h : Touch ps s0 s) :
    Touch ps s0 (State.rearrive s) := by
  unfold State.rearrive; try dsimp only
  repeat' first
    | with_reducible assumption
    | exact List.Subset.trans (by decide) hp
    | with_reducible apply State.arriveSignal_touch
    | exact .inr (hp (by decide))
    | with_reducible exact .inl rfl
    | with_reducible apply touch_foldl
    | with_reducible refine touch_of_some (by assumption) ?_
    | with_reducible intro _
    | split
    | with_reducible refine touch_mk ?_ ?_ ?_ ?_ ?_ ?_ ?_ ?_ ?_ ?_ ?_ ?_ ?_ ?_ ?_ ?_ ?_ ?_ ?_ ?_ ?_ ?_ ?_ ?_ ?_ ?_ ?_ ?_ ?_

theorem State.sendCommand_touch (hp : ([.log, .job, .skid, .out] : List Part) ⊆ ps) (s : State) (kind : ℕ) (beat : ℕ) (step : ℕ)  (h : Touch ps s0 s) :
    Touch ps s0 (State.sendCommand s kind beat step) := by
  unfold State.sendCommand; try dsimp only
  repeat' first
    | with_reducible assumption
    | exact List.Subset.trans (by decide) hp
    | with_reducible apply State.sendOn_touch
    | exact .inr (hp (by decide))
    | with_reducible exact .inl rfl
    | with_reducible apply touch_foldl
    | with_reducible intro _
    | split
    | with_reducible refine touch_mk ?_ ?_ ?_ ?_ ?_ ?_ ?_ ?_ ?_ ?_ ?_ ?_ ?_ ?_ ?_ ?_ ?_ ?_ ?_ ?_ ?_ ?_ ?_ ?_ ?_ ?_ ?_ ?_ ?_

theorem State.arm_touch (hp : ([.log, .job, .skid, .net, .sync, .host, .ingest, .snap, .ctr, .out] : List Part) ⊆ ps) (s : State)  (h : Touch ps s0 s) :
    Touch ps s0 (State.arm s) := by
  unfold State.arm; try dsimp only
  repeat' first
    | with_reducible assumption
    | exact List.Subset.trans (by decide) hp
    | with_reducible apply State.ingestArm_touch
    | with_reducible apply State.rearrive_touch
    | with_reducible apply State.tryPair_touch
    | with_reducible apply State.sendCommand_touch
    | with_reducible apply State.floodPorts_touch
    | exact .inr (hp (by decide))
    | with_reducible exact .inl rfl
    | with_reducible refine touch_mk ?_ ?_ ?_ ?_ ?_ ?_ ?_ ?_ ?_ ?_ ?_ ?_ ?_ ?_ ?_ ?_ ?_ ?_ ?_ ?_ ?_ ?_ ?_ ?_ ?_ ?_ ?_ ?_ ?_

theorem State.beginApply_touch (hp : ([.log, .upd, .host, .ingest, .ctr, .out] : List Part) ⊆ ps) (s : State) (k : ℕ)  (h : Touch ps s0 s) :
    Touch ps s0 (State.beginApply s k) := by
  unfold State.beginApply; try dsimp only
  repeat' first
    | with_reducible assumption
    | exact List.Subset.trans (by decide) hp
    | with_reducible apply State.laterReceipts_touch
    | exact .inr (hp (by decide))
    | with_reducible exact .inl rfl
    | with_reducible apply touch_ite
    | with_reducible intro _
    | split
    | with_reducible refine touch_mk ?_ ?_ ?_ ?_ ?_ ?_ ?_ ?_ ?_ ?_ ?_ ?_ ?_ ?_ ?_ ?_ ?_ ?_ ?_ ?_ ?_ ?_ ?_ ?_ ?_ ?_ ?_ ?_ ?_

theorem State.beginStep_touch (hp : ([.time, .start, .log, .job, .sync, .tally, .host, .power, .ctr, .out] : List Part) ⊆ ps) (s : State) (k : ℕ)  (h : Touch ps s0 s) :
    Touch ps s0 (State.beginStep s k) := by
  unfold State.beginStep; try dsimp only
  repeat' first
    | with_reducible assumption
    | exact List.Subset.trans (by decide) hp
    | with_reducible apply State.rearrive_touch
    | with_reducible apply State.setSync_touch
    | with_reducible apply State.safePoint_touch
    | exact .inr (hp (by decide))
    | with_reducible exact .inl rfl
    | with_reducible apply touch_foldl
    | with_reducible intro _
    | split
    | with_reducible refine touch_mk ?_ ?_ ?_ ?_ ?_ ?_ ?_ ?_ ?_ ?_ ?_ ?_ ?_ ?_ ?_ ?_ ?_ ?_ ?_ ?_ ?_ ?_ ?_ ?_ ?_ ?_ ?_ ?_ ?_

theorem State.checkStopped_touch (hp : ([.log, .job, .host, .ctr, .out] : List Part) ⊆ ps) (s : State)  (h : Touch ps s0 s) :
    Touch ps s0 (State.checkStopped s) := by
  unfold State.checkStopped; try dsimp only
  repeat' first
    | with_reducible assumption
    | exact List.Subset.trans (by decide) hp
    | with_reducible apply State.event_touch
    | exact .inr (hp (by decide))
    | with_reducible exact .inl rfl
    | with_reducible apply touch_ite
    | with_reducible intro _
    | split
    | with_reducible refine touch_mk ?_ ?_ ?_ ?_ ?_ ?_ ?_ ?_ ?_ ?_ ?_ ?_ ?_ ?_ ?_ ?_ ?_ ?_ ?_ ?_ ?_ ?_ ?_ ?_ ?_ ?_ ?_ ?_ ?_

theorem State.closePhase_touch (hp : ([.log, .stats, .clusters, .job, .upd, .limbers, .stash, .skid, .sync, .host, .ingest, .mem, .ctr, .out, .free] : List Part) ⊆ ps) (s : State) (k : ℕ) (p : ℕ)  (h : Touch ps s0 s) :
    Touch ps s0 (State.closePhase s k p) := by
  unfold State.closePhase; try dsimp only
  repeat' first
    | with_reducible assumption
    | exact List.Subset.trans (by decide) hp
    | with_reducible apply State.straggle_touch
    | with_reducible apply State.releaseStash_touch
    | with_reducible apply State.releaseStale_touch
    | with_reducible apply State.closeStats_touch
    | with_reducible apply State.modStep_touch
    | exact .inr (hp (by decide))
    | with_reducible exact .inl rfl
    | with_reducible apply touch_ite
    | with_reducible intro _
    | split
    | with_reducible refine touch_mk ?_ ?_ ?_ ?_ ?_ ?_ ?_ ?_ ?_ ?_ ?_ ?_ ?_ ?_ ?_ ?_ ?_ ?_ ?_ ?_ ?_ ?_ ?_ ?_ ?_ ?_ ?_ ?_ ?_

theorem State.commandMismatch_touch (hp : ([.log, .safe, .stats, .clusters, .job, .upd, .limbers, .cow, .skid, .host, .ingest, .snap, .ctr, .out] : List Part) ⊆ ps) (s : State)  (h : Touch ps s0 s) :
    Touch ps s0 (State.commandMismatch s) := by
  unfold State.commandMismatch; try dsimp only
  repeat' first
    | with_reducible assumption
    | exact List.Subset.trans (by decide) hp
    | with_reducible apply State.fault_touch

theorem State.linkRecords_touch (hp : ([.log, .skid, .out] : List Part) ⊆ ps) (s : State) (ports : List ℕ)  (h : Touch ps s0 s) :
    Touch ps s0 (State.linkRecords s ports) := by
  unfold State.linkRecords; try dsimp only
  repeat' first
    | with_reducible assumption
    | exact List.Subset.trans (by decide) hp
    | with_reducible apply State.sendOn_touch
    | with_reducible apply touch_foldl
    | with_reducible intro _
    | split

theorem State.install_touch (hp : ([.log, .safe, .stats, .clusters, .job, .upd, .banks, .limbers, .stash, .cow, .skid, .net, .sync, .host, .ingest, .snap, .power, .mem, .ctr, .out] : List Part) ⊆ ps) (s : State) (img : Bytes)  (h : Touch ps s0 s) :
    Touch ps s0 (State.install s img) := by
  unfold State.install; try dsimp only
  repeat' first
    | with_reducible assumption
    | exact List.Subset.trans (by decide) hp
    | with_reducible apply State.linkRecords_touch
    | with_reducible apply State.event_touch
    | exact .inr (hp (by decide))
    | with_reducible exact .inl rfl
    | with_reducible apply touch_foldl
    | with_reducible intro _
    | split
    | with_reducible refine touch_mk ?_ ?_ ?_ ?_ ?_ ?_ ?_ ?_ ?_ ?_ ?_ ?_ ?_ ?_ ?_ ?_ ?_ ?_ ?_ ?_ ?_ ?_ ?_ ?_ ?_ ?_ ?_ ?_ ?_

theorem State.jobCommand_touch (hp : ([.host, .ctr, .out] : List Part) ⊆ ps) (s : State) (q : Req) (n : ℕ) (act : State → Answer) (hact : ∀ s , Touch ps s0 s → TouchA ps s0 (act s )) (h : Touch ps s0 s) :
    Touch ps s0 (State.jobCommand s q n act) := by
  unfold State.jobCommand; try dsimp only
  repeat' first
    | with_reducible assumption
    | exact List.Subset.trans (by decide) hp
    | with_reducible apply State.serveWrite_touch
    | with_reducible apply hact
    | with_reducible apply touch_ite
    | with_reducible apply touchA_ite
    | with_reducible intro _

theorem State.loadFails_touch (hp : ([.log, .job, .host, .ctr, .out] : List Part) ⊆ ps) (s : State) (reason : ℕ)  (h : Touch ps s0 s) :
    Touch ps s0 (State.loadFails s reason) := by
  unfold State.loadFails; try dsimp only
  repeat' first
    | with_reducible assumption
    | exact List.Subset.trans (by decide) hp
    | with_reducible apply State.event_touch
    | exact .inr (hp (by decide))
    | with_reducible exact .inl rfl
    | with_reducible refine touch_mk ?_ ?_ ?_ ?_ ?_ ?_ ?_ ?_ ?_ ?_ ?_ ?_ ?_ ?_ ?_ ?_ ?_ ?_ ?_ ?_ ?_ ?_ ?_ ?_ ?_ ?_ ?_ ?_ ?_

theorem State.openPhase_touch (hp : ([.time, .start, .log, .clusters, .upd, .stash, .tally, .host, .ingest, .power, .mem, .ctr, .out] : List Part) ⊆ ps) (s : State) (k : ℕ) (p : ℕ)  (h : Touch ps s0 s) :
    Touch ps s0 (State.openPhase s k p) := by
  unfold State.openPhase; try dsimp only
  repeat' first
    | with_reducible assumption
    | exact List.Subset.trans (by decide) hp
    | with_reducible apply State.openAdmit_touch
    | with_reducible apply State.safePoint_touch
    | with_reducible apply State.applyBounds_touch
    | with_reducible apply State.openBuffers_touch
    | with_reducible apply State.openNorm_touch
    | exact .inr (hp (by decide))
    | with_reducible exact .inl rfl
    | split
    | with_reducible refine touch_mk ?_ ?_ ?_ ?_ ?_ ?_ ?_ ?_ ?_ ?_ ?_ ?_ ?_ ?_ ?_ ?_ ?_ ?_ ?_ ?_ ?_ ?_ ?_ ?_ ?_ ?_ ?_ ?_ ?_

theorem State.overrun_touch (hp : ([.log, .safe, .stats, .clusters, .job, .upd, .limbers, .stash, .cow, .skid, .sync, .host, .ingest, .snap, .ctr, .out, .free] : List Part) ⊆ ps) (s : State) (k : ℕ) (p : ℕ)  (h : Touch ps s0 s) :
    Touch ps s0 (State.overrun s k p) := by
  unfold State.overrun; try dsimp only
  repeat' first
    | with_reducible assumption
    | exact List.Subset.trans (by decide) hp
    | with_reducible apply State.modStep_touch
    | with_reducible apply State.event_touch
    | with_reducible apply State.straggle_touch
    | with_reducible apply State.fault_touch
    | exact .inr (hp (by decide))
    | with_reducible exact .inl rfl
    | with_reducible apply touch_ite
    | with_reducible intro _
    | with_reducible refine touch_mk ?_ ?_ ?_ ?_ ?_ ?_ ?_ ?_ ?_ ?_ ?_ ?_ ?_ ?_ ?_ ?_ ?_ ?_ ?_ ?_ ?_ ?_ ?_ ?_ ?_ ?_ ?_ ?_ ?_

theorem State.pauseAnswer_touch (hp : ([.log, .job, .skid, .out] : List Part) ⊆ ps) (s : State) (pass : Bool)  (h : Touch ps s0 s) :
    TouchA ps s0 (State.pauseAnswer s pass) := by
  unfold State.pauseAnswer; try dsimp only
  repeat' first
    | with_reducible assumption
    | exact List.Subset.trans (by decide) hp
    | with_reducible apply refuse_touch
    | with_reducible apply accept_touch
    | with_reducible apply State.sendCommand_touch
    | exact .inr (hp (by decide))
    | with_reducible exact .inl rfl
    | with_reducible apply touch_ite
    | with_reducible apply touchA_ite
    | with_reducible apply touchA_refuse
    | with_reducible apply touchA_accept
    | with_reducible intro _
    | with_reducible refine touch_mk ?_ ?_ ?_ ?_ ?_ ?_ ?_ ?_ ?_ ?_ ?_ ?_ ?_ ?_ ?_ ?_ ?_ ?_ ?_ ?_ ?_ ?_ ?_ ?_ ?_ ?_ ?_ ?_ ?_

theorem State.startAnswer_touch (hp : ([.log, .job, .skid, .net, .sync, .host, .ingest, .snap, .ctr, .out] : List Part) ⊆ ps) (s : State)  (h : Touch ps s0 s) :
    TouchA ps s0 (State.startAnswer s) := by
  unfold State.startAnswer; try dsimp only
  repeat' first
    | with_reducible assumption
    | exact List.Subset.trans (by decide) hp
    | with_reducible apply refuse_touch
    | with_reducible apply State.event_touch
    | with_reducible apply accept_touch
    | with_reducible apply State.arm_touch
    | with_reducible apply touch_ite
    | with_reducible apply touchA_ite
    | with_reducible apply touchA_refuse
    | with_reducible apply touchA_accept
    | with_reducible apply touch_foldl
    | with_reducible intro _
    | split

theorem State.startChecks_touch (hp : ([.log, .safe, .stats, .clusters, .job, .upd, .limbers, .cow, .skid, .host, .ingest, .snap, .ctr, .out, .free] : List Part) ⊆ ps) (s : State)  (h : Touch ps s0 s) :
    TouchO ps s0 (State.startChecks s) := by
  unfold State.startChecks; try dsimp only
  repeat' first
    | with_reducible assumption
    | exact List.Subset.trans (by decide) hp
    | with_reducible apply State.commandMismatch_touch
    | with_reducible apply State.fault_touch
    | with_reducible apply State.nextFree_touch
    | with_reducible apply touch_ite
    | with_reducible apply touchO_ite
    | with_reducible apply touchO_some
    | with_reducible exact touchO_none
    | with_reducible intro _
    | split

theorem State.unload_touch (hp : ([.safe, .stats, .clusters, .job, .upd, .limbers, .stash, .cow, .net, .sync, .host, .ingest, .snap, .power, .ctr, .out] : List Part) ⊆ ps) (s : State)  (h : Touch ps s0 s) :
    Touch ps s0 (State.unload s) := by
  unfold State.unload; try dsimp only
  repeat' first
    | with_reducible assumption
    | exact List.Subset.trans (by decide) hp
    | with_reducible apply State.closeIngest_touch
    | exact .inr (hp (by decide))
    | with_reducible exact .inl rfl
    | with_reducible refine touch_mk ?_ ?_ ?_ ?_ ?_ ?_ ?_ ?_ ?_ ?_ ?_ ?_ ?_ ?_ ?_ ?_ ?_ ?_ ?_ ?_ ?_ ?_ ?_ ?_ ?_ ?_ ?_ ?_ ?_

theorem execCommand_touch (hp : ([.log, .job, .skid, .net, .out] : List Part) ⊆ ps) (m : Msg) (s : State)  (h : Touch ps s0 s) :
    TouchR ps s0 (execCommand m s) := by
  unfold execCommand; try dsimp only
  repeat' first
    | with_reducible assumption
    | exact List.Subset.trans (by decide) hp
    | with_reducible apply State.taken_touch
    | with_reducible apply State.e2eAck_touch
    | exact .inr (hp (by decide))
    | with_reducible exact .inl rfl
    | with_reducible apply touchR_next
    | with_reducible intro _
    | with_reducible refine touch_mk ?_ ?_ ?_ ?_ ?_ ?_ ?_ ?_ ?_ ?_ ?_ ?_ ?_ ?_ ?_ ?_ ?_ ?_ ?_ ?_ ?_ ?_ ?_ ?_ ?_ ?_ ?_ ?_ ?_

theorem execCommit_touch (hp : ([.log, .job, .upd, .host, .ingest, .ctr, .out] : List Part) ⊆ ps) (s : State)  (h : Touch ps s0 s) :
    TouchR ps s0 (execCommit s) := by
  unfold execCommit; try dsimp only
  repeat' first
    | with_reducible assumption
    | exact List.Subset.trans (by decide) hp
    | with_reducible apply State.modStep_touch
    | with_reducible apply State.beginApply_touch
    | exact .inr (hp (by decide))
    | with_reducible exact .inl rfl
    | with_reducible apply touch_ite
    | with_reducible apply touchR_ite
    | with_reducible apply touchR_next
    | with_reducible intro _
    | split
    | with_reducible refine touch_mk ?_ ?_ ?_ ?_ ?_ ?_ ?_ ?_ ?_ ?_ ?_ ?_ ?_ ?_ ?_ ?_ ?_ ?_ ?_ ?_ ?_ ?_ ?_ ?_ ?_ ?_ ?_ ?_ ?_

theorem execPausePass_touch (hp : ([.log, .job, .skid, .host, .ctr, .out] : List Part) ⊆ ps) (q : Req) (s : State)  (h : Touch ps s0 s) :
    TouchR ps s0 (execPausePass q s) := by
  unfold execPausePass; try dsimp only
  repeat' first
    | with_reducible assumption
    | exact List.Subset.trans (by decide) hp
    | with_reducible apply State.jobCommand_touch
    | with_reducible apply State.pauseAnswer_touch
    | with_reducible apply touchR_next
    | with_reducible intro _

theorem execPauseStep_touch (hp : ([.log, .job, .skid, .host, .ctr, .out] : List Part) ⊆ ps) (q : Req) (s : State)  (h : Touch ps s0 s) :
    TouchR ps s0 (execPauseStep q s) := by
  unfold execPauseStep; try dsimp only
  repeat' first
    | with_reducible assumption
    | exact List.Subset.trans (by decide) hp
    | with_reducible apply State.jobCommand_touch
    | with_reducible apply State.pauseAnswer_touch
    | with_reducible apply touchR_next
    | with_reducible intro _

theorem execPauseTakesEffect_touch (hp : ([.log, .safe, .stats, .clusters, .job, .upd, .limbers, .cow, .skid, .host, .ingest, .snap, .ctr, .out] : List Part) ⊆ ps) (s : State)  (h : Touch ps s0 s) :
    TouchR ps s0 (execPauseTakesEffect s) := by
  unfold execPauseTakesEffect; try dsimp only
  repeat' first
    | with_reducible assumption
    | exact List.Subset.trans (by decide) hp
    | with_reducible apply State.commandMismatch_touch
    | with_reducible apply State.event_touch
    | exact .inr (hp (by decide))
    | with_reducible exact .inl rfl
    | with_reducible apply touch_ite
    | with_reducible apply touchR_ite
    | with_reducible apply touchR_next
    | with_reducible intro _
    | split
    | with_reducible refine touch_mk ?_ ?_ ?_ ?_ ?_ ?_ ?_ ?_ ?_ ?_ ?_ ?_ ?_ ?_ ?_ ?_ ?_ ?_ ?_ ?_ ?_ ?_ ?_ ?_ ?_ ?_ ?_ ?_ ?_

theorem execPhaseWindowEnd_touch (hp : ([.log, .safe, .stats, .clusters, .job, .upd, .limbers, .stash, .cow, .cxl, .base, .skid, .sync, .host, .ingest, .snap, .mem, .ctr, .out, .free] : List Part) ⊆ ps) (k : ℕ) (p : ℕ) (checks : List MemCheck) (s : State)  (h : Touch ps s0 s) :
    TouchR ps s0 (execPhaseWindowEnd k p checks s) := by
  unfold execPhaseWindowEnd; try dsimp only
  repeat' first
    | with_reducible assumption
    | exact List.Subset.trans (by decide) hp
    | with_reducible apply State.modStep_touch
    | with_reducible apply State.deadline_touch
    | with_reducible apply State.overrun_touch
    | with_reducible apply State.checked_touch
    | with_reducible apply State.closePhase_touch
    | exact .inr (hp (by decide))
    | with_reducible exact .inl rfl
    | with_reducible apply touch_ite
    | with_reducible apply touchR_ite
    | with_reducible apply touchR_next
    | with_reducible refine touch_of_snd (by assumption) ?_
    | with_reducible intro _
    | split
    | with_reducible refine touch_mk ?_ ?_ ?_ ?_ ?_ ?_ ?_ ?_ ?_ ?_ ?_ ?_ ?_ ?_ ?_ ?_ ?_ ?_ ?_ ?_ ?_ ?_ ?_ ?_ ?_ ?_ ?_ ?_ ?_

theorem execPhaseWindowStart_touch (hp : ([.time, .start, .log, .clusters, .job, .upd, .stash, .tally, .host, .ingest, .power, .mem, .ctr, .out] : List Part) ⊆ ps) (k : ℕ) (p : ℕ) (s : State)  (h : Touch ps s0 s) :
    TouchR ps s0 (execPhaseWindowStart k p s) := by
  unfold execPhaseWindowStart; try dsimp only
  repeat' first
    | with_reducible assumption
    | exact List.Subset.trans (by decide) hp
    | with_reducible apply State.modStep_touch
    | with_reducible apply State.openPhase_touch
    | exact .inr (hp (by decide))
    | with_reducible exact .inl rfl
    | with_reducible apply touch_ite
    | with_reducible apply touchR_ite
    | with_reducible apply touchR_next
    | with_reducible intro _
    | with_reducible refine touch_mk ?_ ?_ ?_ ?_ ?_ ?_ ?_ ?_ ?_ ?_ ?_ ?_ ?_ ?_ ?_ ?_ ?_ ?_ ?_ ?_ ?_ ?_ ?_ ?_ ?_ ?_ ?_ ?_ ?_

theorem execPlanLoadComplete_touch (hp : ([.log, .safe, .stats, .clusters, .job, .upd, .banks, .limbers, .stash, .cow, .skid, .net, .sync, .host, .ingest, .snap, .power, .mem, .ctr, .out] : List Part) ⊆ ps) (s : State)  (h : Touch ps s0 s) :
    TouchR ps s0 (execPlanLoadComplete s) := by
  unfold execPlanLoadComplete; try dsimp only
  repeat' first
    | with_reducible assumption
    | exact List.Subset.trans (by decide) hp
    | with_reducible apply State.loadFails_touch
    | with_reducible apply State.install_touch
    | with_reducible apply touch_ite
    | with_reducible apply touchR_ite
    | with_reducible apply touchR_next
    | with_reducible intro _
    | split

theorem execPlanSlot_touch (hp : ([.start, .log, .job, .tally, .host, .ctr, .out] : List Part) ⊆ ps) (q : Req) (s : State)  (h : Touch ps s0 s) :
    TouchR ps s0 (execPlanSlot q s) := by
  unfold execPlanSlot; try dsimp only
  repeat' first
    | with_reducible assumption
    | exact List.Subset.trans (by decide) hp
    | with_reducible apply State.serveWrite_touch
    | with_reducible apply refuse_touch
    | with_reducible apply State.putValue_touch
    | with_reducible apply accept_touch
    | with_reducible apply State.loadFails_touch
    | exact .inr (hp (by decide))
    | with_reducible exact .inl rfl
    | with_reducible apply touch_ite
    | with_reducible apply touchR_ite
    | with_reducible apply touchA_ite
    | with_reducible apply touchR_next
    | with_reducible apply touchA_refuse
    | with_reducible apply touchA_accept
    | with_reducible intro _
    | with_reducible refine touch_mk ?_ ?_ ?_ ?_ ?_ ?_ ?_ ?_ ?_ ?_ ?_ ?_ ?_ ?_ ?_ ?_ ?_ ?_ ?_ ?_ ?_ ?_ ?_ ?_ ?_ ?_ ?_ ?_ ?_

theorem execResume_touch (hp : ([.log, .job, .skid, .host, .ctr, .out] : List Part) ⊆ ps) (q : Req) (s : State)  (h : Touch ps s0 s) :
    TouchR ps s0 (execResume q s) := by
  unfold execResume; try dsimp only
  repeat' first
    | with_reducible assumption
    | exact List.Subset.trans (by decide) hp
    | with_reducible apply State.jobCommand_touch
    | with_reducible apply refuse_touch
    | with_reducible apply accept_touch
    | with_reducible apply State.sendCommand_touch
    | exact .inr (hp (by decide))
    | with_reducible exact .inl rfl
    | with_reducible apply touch_ite
    | with_reducible apply touchR_ite
    | with_reducible apply touchA_ite
    | with_reducible apply touchR_next
    | with_reducible apply touchA_refuse
    | with_reducible apply touchA_accept
    | with_reducible intro _
    | with_reducible refine touch_mk ?_ ?_ ?_ ?_ ?_ ?_ ?_ ?_ ?_ ?_ ?_ ?_ ?_ ?_ ?_ ?_ ?_ ?_ ?_ ?_ ?_ ?_ ?_ ?_ ?_ ?_ ?_ ?_ ?_

theorem execResumeTakesEffect_touch (hp : ([.log, .safe, .stats, .clusters, .job, .upd, .limbers, .cow, .skid, .host, .ingest, .snap, .ctr, .out] : List Part) ⊆ ps) (s : State)  (h : Touch ps s0 s) :
    TouchR ps s0 (execResumeTakesEffect s) := by
  unfold execResumeTakesEffect; try dsimp only
  repeat' first
    | with_reducible assumption
    | exact List.Subset.trans (by decide) hp
    | with_reducible apply State.commandMismatch_touch
    | with_reducible apply State.checkStopped_touch
    | with_reducible apply State.event_touch
    | exact .inr (hp (by decide))
    | with_reducible exact .inl rfl
    | with_reducible apply touch_ite
    | with_reducible apply touchR_ite
    | with_reducible apply touchR_next
    | with_reducible intro _
    | split
    | with_reducible refine touch_mk ?_ ?_ ?_ ?_ ?_ ?_ ?_ ?_ ?_ ?_ ?_ ?_ ?_ ?_ ?_ ?_ ?_ ?_ ?_ ?_ ?_ ?_ ?_ ?_ ?_ ?_ ?_ ?_ ?_

theorem execStart_touch (hp : ([.log, .job, .skid, .net, .sync, .host, .ingest, .snap, .ctr, .out] : List Part) ⊆ ps) (q : Req) (s : State)  (h : Touch ps s0 s) :
    TouchR ps s0 (execStart q s) := by
  unfold execStart; try dsimp only
  repeat' first
    | with_reducible assumption
    | exact List.Subset.trans (by decide) hp
    | with_reducible apply State.jobCommand_touch
    | with_reducible apply State.startAnswer_touch
    | with_reducible apply touchR_next
    | with_reducible intro _

theorem execStepClear_touch (hp : ([.log, .job, .cow, .skid, .host, .snap, .ctr, .out] : List Part) ⊆ ps) (s : State)  (h : Touch ps s0 s) :
    TouchR ps s0 (execStepClear s) := by
  unfold execStepClear; try dsimp only
  repeat' first
    | with_reducible assumption
    | exact List.Subset.trans (by decide) hp
    | with_reducible apply State.modStep_touch
    | with_reducible apply State.checkStopped_touch
    | with_reducible apply State.startCapture_touch
    | exact .inr (hp (by decide))
    | with_reducible exact .inl rfl
    | with_reducible apply touch_ite
    | with_reducible apply touchR_ite
    | with_reducible apply touchR_next
    | with_reducible intro _
    | split
    | with_reducible refine touch_mk ?_ ?_ ?_ ?_ ?_ ?_ ?_ ?_ ?_ ?_ ?_ ?_ ?_ ?_ ?_ ?_ ?_ ?_ ?_ ?_ ?_ ?_ ?_ ?_ ?_ ?_ ?_ ?_ ?_

theorem execStepStart_touch (hp : ([.time, .start, .log, .safe, .stats, .clusters, .job, .upd, .limbers, .cow, .skid, .sync, .tally, .host, .ingest, .snap, .power, .ctr, .out, .free] : List Part) ⊆ ps) (s : State)  (h : Touch ps s0 s) :
    TouchR ps s0 (execStepStart s) := by
  unfold execStepStart; try dsimp only
  repeat' first
    | with_reducible assumption
    | exact List.Subset.trans (by decide) hp
    | with_reducible apply State.startChecks_touch
    | with_reducible apply State.beginStep_touch
    | with_reducible apply touch_ite
    | with_reducible apply touchR_ite
    | with_reducible apply touchR_next
    | with_reducible refine touch_of_some (by assumption) ?_
    | with_reducible intro _
    | split

theorem execStop_touch (hp : ([.log, .job, .host, .ingest, .snap, .ctr, .out] : List Part) ⊆ ps) (q : Req) (s : State)  (h : Touch ps s0 s) :
    TouchR ps s0 (execStop q s) := by
  unfold execStop; try dsimp only
  repeat' first
    | with_reducible assumption
    | exact List.Subset.trans (by decide) hp
    | with_reducible apply State.jobCommand_touch
    | with_reducible apply accept_touch
    | with_reducible apply State.ingestStop_touch
    | with_reducible apply State.event_touch
    | with_reducible apply State.checkStopped_touch
    | with_reducible apply refuse_touch
    | exact .inr (hp (by decide))
    | with_reducible exact .inl rfl
    | with_reducible apply touchR_next
    | with_reducible apply touchA_refuse
    | with_reducible apply touchA_accept
    | with_reducible intro _
    | split
    | with_reducible refine touch_mk ?_ ?_ ?_ ?_ ?_ ?_ ?_ ?_ ?_ ?_ ?_ ?_ ?_ ?_ ?_ ?_ ?_ ?_ ?_ ?_ ?_ ?_ ?_ ?_ ?_ ?_ ?_ ?_ ?_

theorem execUnload_touch (hp : ([.safe, .stats, .clusters, .job, .upd, .limbers, .stash, .cow, .net, .sync, .host, .ingest, .snap, .power, .ctr, .out] : List Part) ⊆ ps) (q : Req) (s : State)  (h : Touch ps s0 s) :
    TouchR ps s0 (execUnload q s) := by
  unfold execUnload; try dsimp only
  repeat' first
    | with_reducible assumption
    | exact List.Subset.trans (by decide) hp
    | with_reducible apply State.jobCommand_touch
    | with_reducible apply accept_touch
    | with_reducible apply State.unload_touch
    | with_reducible apply refuse_touch
    | with_reducible apply touchR_next
    | with_reducible apply touchA_refuse
    | with_reducible apply touchA_accept
    | with_reducible intro _
    | split

end Sys2Proof.Machine
end

