-- ==== Sys2Proof/Laws/TouchLinks.lean ====
section
/-! SUPPORT. Which parts of the state the operations of Machine/Links.lean may change. -/

namespace Sys2Proof.Machine

variable {s0 : State} {ps : List Part}

theorem State.modSpine_touch (hp : ([.spine] : List Part) ⊆ ps) (s : State) (k : ℕ) (f : Spine → Spine)  (h : Touch ps s0 s) :
    Touch ps s0 (State.modSpine s k f) := by
  unfold State.modSpine; try dsimp only
  repeat' first
    | with_reducible assumption
    | exact .inr (hp (by decide))
    | with_reducible exact .inl rfl
    | with_reducible refine touch_mk ?_ ?_ ?_ ?_ ?_ ?_ ?_ ?_ ?_ ?_ ?_ ?_ ?_ ?_ ?_ ?_ ?_ ?_ ?_ ?_ ?_ ?_ ?_ ?_ ?_ ?_ ?_ ?_ ?_

theorem State.atEnds_touch (hp : ([.spine] : List Part) ⊆ ps) (s : State) (k : ℕ) (m : ℕ) (f : ℕ → Spine → Spine)  (h : Touch ps s0 s) :
    Touch ps s0 (State.atEnds s k m f) := by
  unfold State.atEnds; try dsimp only
  repeat' first
    | with_reducible assumption
    | exact List.Subset.trans (by decide) hp
    | with_reducible apply State.modSpine_touch
    | split

theorem State.badFrame_touch (hp : ([.skid] : List Part) ⊆ ps) (s : State) (n : ℕ)  (h : Touch ps s0 s) :
    Touch ps s0 (State.badFrame s n) := by
  unfold State.badFrame; try dsimp only
  repeat' first
    | with_reducible assumption
    | exact List.Subset.trans (by decide) hp
    | with_reducible apply State.modPort_touch

theorem State.bareFrame_touch (hp : ([.out] : List Part) ⊆ ps) (s : State) (n : ℕ) (kind : ℕ) (cls : ℕ) (credits : ℕ)  (h : Touch ps s0 s) :
    Touch ps s0 (State.bareFrame s n kind cls credits) := by
  unfold State.bareFrame; try dsimp only
  repeat' first
    | with_reducible assumption
    | exact List.Subset.trans (by decide) hp
    | with_reducible apply State.emit_touch

theorem State.deliver_touch (hp : ([.log, .skid, .net, .ctr, .out] : List Part) ⊆ ps) (s : State) (m : Msg)  (h : Touch ps s0 s) :
    Touch ps s0 (State.deliver s m) := by
  unfold State.deliver; try dsimp only
  repeat' first
    | with_reducible assumption
    | exact List.Subset.trans (by decide) hp
    | with_reducible apply State.bump_touch
    | with_reducible apply State.putMsg_touch
    | exact .inr (hp (by decide))
    | with_reducible exact .inl rfl
    | with_reducible apply touch_ite
    | with_reducible intro _
    | split
    | with_reducible refine touch_mk ?_ ?_ ?_ ?_ ?_ ?_ ?_ ?_ ?_ ?_ ?_ ?_ ?_ ?_ ?_ ?_ ?_ ?_ ?_ ?_ ?_ ?_ ?_ ?_ ?_ ?_ ?_ ?_ ?_

theorem State.noteWait_touch (hp : ([.log, .job, .net, .host, .ctr, .out] : List Part) ⊆ ps) (s : State) (n : ℕ) (ns : ℕ)  (h : Touch ps s0 s) :
    Touch ps s0 (State.noteWait s n ns) := by
  unfold State.noteWait; try dsimp only
  repeat' first
    | with_reducible assumption
    | exact List.Subset.trans (by decide) hp
    | with_reducible apply State.event_touch
    | with_reducible apply State.bump_touch
    | with_reducible apply State.markFirst_touch
    | exact .inr (hp (by decide))
    | with_reducible exact .inl rfl
    | with_reducible apply touch_ite
    | with_reducible intro _
    | with_reducible refine touch_mk ?_ ?_ ?_ ?_ ?_ ?_ ?_ ?_ ?_ ?_ ?_ ?_ ?_ ?_ ?_ ?_ ?_ ?_ ?_ ?_ ?_ ?_ ?_ ?_ ?_ ?_ ?_ ?_ ?_

theorem State.resend_touch (hp : ([.skid, .ctr, .out] : List Part) ⊆ ps) (s : State) (n : ℕ) (h : Touch ps s0 s) : Touch ps s0 (s.resend n) :=
  touch_out (hp (by decide)) (State.bump_touch (List.Subset.trans (by decide) hp) _ _ _ (State.modPort_touch (List.Subset.trans (by decide) hp) s n _ h))

theorem State.retrainPort_touch (hp : ([.log, .skid, .host, .snap, .ctr, .out] : List Part) ⊆ ps) (s : State) (n : ℕ)  (h : Touch ps s0 s) :
    Touch ps s0 (State.retrainPort s n) := by
  unfold State.retrainPort; try dsimp only
  repeat' first
    | with_reducible assumption
    | exact List.Subset.trans (by decide) hp
    | with_reducible apply State.event_touch
    | with_reducible apply State.stress_touch
    | with_reducible apply State.bump_touch
    | with_reducible apply State.modPort_touch

theorem State.routeCut_touch (hp : ([.log, .host, .snap, .ctr, .out] : List Part) ⊆ ps) (s : State) (port : ℕ)  (h : Touch ps s0 s) :
    Touch ps s0 (State.routeCut s port) := by
  unfold State.routeCut; try dsimp only
  repeat' first
    | with_reducible assumption
    | exact List.Subset.trans (by decide) hp
    | with_reducible apply State.interruptRestore_touch
    | with_reducible apply touch_ite
    | with_reducible intro _

theorem State.rowAcked_touch (hp : ([.skid] : List Part) ⊆ ps) (s : State) (n : ℕ)  (h : Touch ps s0 s) :
    Touch ps s0 (State.rowAcked s n) := by
  unfold State.rowAcked; try dsimp only
  repeat' first
    | with_reducible assumption
    | exact List.Subset.trans (by decide) hp
    | with_reducible apply State.modPort_touch
    | split

theorem State.sendControl_touch (hp : ([.skid, .out] : List Part) ⊆ ps) (s : State) (n : ℕ)  (h : Touch ps s0 s) :
    Touch ps s0 (State.sendControl s n) := by
  unfold State.sendControl; try dsimp only
  repeat' first
    | with_reducible assumption
    | exact List.Subset.trans (by decide) hp
    | with_reducible apply State.emit_touch
    | with_reducible apply State.modPort_touch

theorem State.skidFails_touch (hp : ([.log, .safe, .stats, .clusters, .job, .upd, .limbers, .cow, .skid, .host, .ingest, .snap, .ctr, .out] : List Part) ⊆ ps) (s : State) (n : ℕ)  (h : Touch ps s0 s) :
    Touch ps s0 (State.skidFails s n) := by
  unfold State.skidFails; try dsimp only
  repeat' first
    | with_reducible assumption
    | exact List.Subset.trans (by decide) hp
    | with_reducible apply State.fault_touch

theorem State.sendNak_touch (hp : ([.log, .safe, .stats, .clusters, .job, .upd, .limbers, .cow, .skid, .host, .ingest, .snap, .ctr, .out] : List Part) ⊆ ps) (s : State) (n : ℕ)  (h : Touch ps s0 s) :
    Touch ps s0 (State.sendNak s n) := by
  unfold State.sendNak; try dsimp only
  repeat' first
    | with_reducible assumption
    | exact List.Subset.trans (by decide) hp
    | with_reducible apply State.bareFrame_touch
    | with_reducible apply State.modPort_touch
    | with_reducible apply State.skidFails_touch
    | with_reducible apply State.retrainPort_touch
    | with_reducible apply touch_ite
    | with_reducible intro _

theorem State.spineFails_touch (hp : ([.log, .safe, .stats, .clusters, .job, .upd, .limbers, .cow, .skid, .host, .ingest, .snap, .ctr, .out] : List Part) ⊆ ps) (s : State) (k : ℕ) (other : ℕ)  (h : Touch ps s0 s) :
    Touch ps s0 (State.spineFails s k other) := by
  unfold State.spineFails; try dsimp only
  repeat' first
    | with_reducible assumption
    | exact List.Subset.trans (by decide) hp
    | with_reducible apply State.fault_touch

theorem State.takeFrame_touch (hp : ([.log, .skid, .net, .ctr, .out] : List Part) ⊆ ps) (s : State) (n : ℕ) (f : SkidFrame)  (h : Touch ps s0 s) :
    Touch ps s0 (State.takeFrame s n f) := by
  unfold State.takeFrame; try dsimp only
  repeat' first
    | with_reducible assumption
    | exact List.Subset.trans (by decide) hp
    | with_reducible apply State.modPort_touch
    | with_reducible apply State.deliver_touch
    | with_reducible apply touch_ite
    | with_reducible intro _

theorem execDmaWrite_touch (hp : ([.log, .safe, .stats, .clusters, .job, .upd, .banks, .limbers, .stash, .cow, .cxl, .base, .skid, .net, .sync, .host, .ingest, .snap, .mem, .ctr, .out] : List Part) ⊆ ps) (m : Msg) (checks : List MemCheck) (collided : List ℕ) (s : State)  (h : Touch ps s0 s) :
    TouchR ps s0 (execDmaWrite m checks collided s) := by
  unfold execDmaWrite; try dsimp only
  repeat' first
    | with_reducible assumption
    | exact List.Subset.trans (by decide) hp
    | with_reducible apply State.taken_touch
    | with_reducible apply State.fault_touch
    | with_reducible apply State.checked_touch
    | with_reducible apply State.landWrite_touch
    | with_reducible apply State.signal_touch
    | with_reducible apply State.e2eAck_touch
    | exact .inr (hp (by decide))
    | with_reducible exact .inl rfl
    | with_reducible apply touch_ite
    | with_reducible apply touchR_ite
    | with_reducible apply touchR_next
    | with_reducible refine touch_of_snd (by assumption) ?_
    | with_reducible intro _
    | split
    | with_reducible refine touch_mk ?_ ?_ ?_ ?_ ?_ ?_ ?_ ?_ ?_ ?_ ?_ ?_ ?_ ?_ ?_ ?_ ?_ ?_ ?_ ?_ ?_ ?_ ?_ ?_ ?_ ?_ ?_ ?_ ?_

theorem execE2eAck_touch (hp : ([.log, .stats, .clusters, .upd, .skid, .net, .sync, .host, .ctr, .out] : List Part) ⊆ ps) (m : Msg) (s : State)  (h : Touch ps s0 s) :
    TouchR ps s0 (execE2eAck m s) := by
  unfold execE2eAck; try dsimp only
  repeat' first
    | with_reducible assumption
    | exact List.Subset.trans (by decide) hp
    | with_reducible apply State.taken_touch
    | with_reducible apply State.dmaRetire_touch
    | with_reducible apply State.flushWithdrawals_touch
    | with_reducible apply State.rowAcked_touch
    | with_reducible apply touchR_next
    | with_reducible intro _
    | split

theorem execFaultNotice_touch (hp : ([.log, .safe, .stats, .clusters, .job, .upd, .limbers, .cow, .skid, .net, .host, .ingest, .snap, .ctr, .out] : List Part) ⊆ ps) (m : Msg) (s : State)  (h : Touch ps s0 s) :
    TouchR ps s0 (execFaultNotice m s) := by
  unfold execFaultNotice; try dsimp only
  repeat' first
    | with_reducible assumption
    | exact List.Subset.trans (by decide) hp
    | with_reducible apply State.taken_touch
    | with_reducible apply State.bump_touch
    | with_reducible apply State.faultAfter_touch
    | with_reducible apply State.peerFailed_touch
    | with_reducible apply touch_ite
    | with_reducible apply touchR_ite
    | with_reducible apply touchR_next
    | with_reducible intro _
    | split

theorem execFlitReplay_touch (hp : ([.log, .safe, .stats, .clusters, .job, .upd, .limbers, .cow, .spine, .skid, .host, .ingest, .snap, .ctr, .out] : List Part) ⊆ ps) (k : ℕ) (m : ℕ) (again : Bool) (s : State)  (h : Touch ps s0 s) :
    TouchR ps s0 (execFlitReplay k m again s) := by
  unfold execFlitReplay; try dsimp only
  repeat' first
    | with_reducible assumption
    | exact List.Subset.trans (by decide) hp
    | with_reducible apply State.atEnds_touch
    | with_reducible apply State.stress_touch
    | with_reducible apply State.bump_touch
    | with_reducible apply State.spineFails_touch
    | with_reducible apply State.event_touch
    | with_reducible apply touch_ite
    | with_reducible apply touchR_ite
    | with_reducible apply touchR_next
    | with_reducible intro _
    | split

theorem execIdleFrame_touch (hp : ([.log, .skid, .out] : List Part) ⊆ ps) (port : ℕ) (f : SkidFrame) (s : State)  (h : Touch ps s0 s) :
    TouchR ps s0 (execIdleFrame port f s) := by
  unfold execIdleFrame; try dsimp only
  repeat' first
    | with_reducible assumption
    | exact List.Subset.trans (by decide) hp
    | with_reducible apply State.badFrame_touch
    | with_reducible apply State.pumpPort_touch
    | with_reducible apply State.modPort_touch
    | with_reducible apply touch_ite
    | with_reducible apply touchR_ite
    | with_reducible apply touchR_next
    | with_reducible intro _

theorem execLinkControlFrame_touch (hp : ([.log, .safe, .stats, .clusters, .job, .upd, .limbers, .cow, .skid, .host, .ingest, .snap, .ctr, .out] : List Part) ⊆ ps) (port : ℕ) (f : SkidFrame) (part : ℕ) (stepping : ℕ) (farPort : ℕ) (epoch : ℕ) (serial : Bytes) (delay : ℤ) (s : State)  (h : Touch ps s0 s) :
    TouchR ps s0 (execLinkControlFrame port f part stepping farPort epoch serial delay s) := by
  unfold execLinkControlFrame; try dsimp only
  repeat' first
    | with_reducible assumption
    | exact List.Subset.trans (by decide) hp
    | with_reducible apply State.sendNak_touch
    | with_reducible apply State.badFrame_touch
    | with_reducible apply State.modPort_touch
    | with_reducible apply State.sendControl_touch
    | with_reducible apply State.event_touch
    | with_reducible apply touch_ite
    | with_reducible apply touchR_ite
    | with_reducible apply touchR_next
    | with_reducible intro _

theorem execLinkRecord_touch (hp : ([.log, .skid, .net, .host, .ctr, .out] : List Part) ⊆ ps) (m : Msg) (s : State)  (h : Touch ps s0 s) :
    TouchR ps s0 (execLinkRecord m s) := by
  unfold execLinkRecord; try dsimp only
  repeat' first
    | with_reducible assumption
    | exact List.Subset.trans (by decide) hp
    | with_reducible apply State.taken_touch
    | with_reducible apply State.modPort_touch
    | with_reducible apply State.event_touch
    | with_reducible apply touch_ite
    | with_reducible apply touchR_ite
    | with_reducible apply touchR_next
    | with_reducible intro _

theorem execRelayedSyncSignal_touch (hp : ([.log, .net, .sync, .host, .ctr, .out] : List Part) ⊆ ps) (m : Msg) (s : State)  (h : Touch ps s0 s) :
    TouchR ps s0 (execRelayedSyncSignal m s) := by
  unfold execRelayedSyncSignal; try dsimp only
  repeat' first
    | with_reducible assumption
    | exact List.Subset.trans (by decide) hp
    | with_reducible apply State.taken_touch
    | with_reducible apply State.arriveSignal_touch
    | exact .inr (hp (by decide))
    | with_reducible exact .inl rfl
    | with_reducible apply touchR_next
    | with_reducible refine touch_of_some (by assumption) ?_
    | with_reducible intro _
    | split
    | with_reducible refine touch_mk ?_ ?_ ?_ ?_ ?_ ?_ ?_ ?_ ?_ ?_ ?_ ?_ ?_ ?_ ?_ ?_ ?_ ?_ ?_ ?_ ?_ ?_ ?_ ?_ ?_ ?_ ?_ ?_ ?_

theorem execRouteFlood_touch (hp : ([.log, .skid, .net, .snap, .out] : List Part) ⊆ ps) (port : ℕ) (module : ℕ) (ports : List (ℕ × ℕ)) (s : State)  (h : Touch ps s0 s) :
    TouchR ps s0 (execRouteFlood port module ports s) := by
  unfold execRouteFlood; try dsimp only
  repeat' first
    | with_reducible assumption
    | exact List.Subset.trans (by decide) hp
    | with_reducible apply State.setPorts_touch
    | with_reducible apply State.emit_touch
    | with_reducible apply State.askRestore_touch
    | with_reducible apply State.tryPair_touch
    | with_reducible apply touch_ite
    | with_reducible apply touchR_ite
    | with_reducible apply touchR_next
    | with_reducible apply touch_foldl
    | with_reducible intro _

theorem execSkidDataFrame_touch (hp : ([.log, .safe, .stats, .clusters, .job, .upd, .limbers, .cow, .skid, .net, .host, .ingest, .snap, .ctr, .out] : List Part) ⊆ ps) (port : ℕ) (f : SkidFrame) (wait : ℕ) (s : State)  (h : Touch ps s0 s) :
    TouchR ps s0 (execSkidDataFrame port f wait s) := by
  unfold execSkidDataFrame; try dsimp only
  repeat' first
    | with_reducible assumption
    | exact List.Subset.trans (by decide) hp
    | with_reducible apply State.sendNak_touch
    | with_reducible apply State.badFrame_touch
    | with_reducible apply State.modPort_touch
    | with_reducible apply State.pumpPort_touch
    | with_reducible apply State.bareFrame_touch
    | with_reducible apply State.takeFrame_touch
    | with_reducible apply State.noteWait_touch
    | with_reducible apply touch_ite
    | with_reducible apply touchR_ite
    | with_reducible apply touchR_next
    | with_reducible intro _

theorem execSkidLinkDown_touch (hp : ([.log, .safe, .stats, .clusters, .job, .upd, .limbers, .cow, .skid, .host, .ingest, .snap, .ctr, .out] : List Part) ⊆ ps) (port : ℕ) (s : State)  (h : Touch ps s0 s) :
    TouchR ps s0 (execSkidLinkDown port s) := by
  unfold execSkidLinkDown; try dsimp only
  repeat' first
    | with_reducible assumption
    | exact List.Subset.trans (by decide) hp
    | with_reducible apply State.routeCut_touch
    | with_reducible apply State.modPort_touch
    | with_reducible apply State.fault_touch
    | with_reducible apply State.event_touch
    | with_reducible apply touch_ite
    | with_reducible apply touchR_ite
    | with_reducible apply touchR_next
    | with_reducible intro _

theorem execSkidLinkUp_touch (hp : ([.log, .skid, .host, .ctr, .out] : List Part) ⊆ ps) (port : ℕ) (s : State)  (h : Touch ps s0 s) :
    TouchR ps s0 (execSkidLinkUp port s) := by
  unfold execSkidLinkUp; try dsimp only
  repeat' first
    | with_reducible assumption
    | exact List.Subset.trans (by decide) hp
    | with_reducible apply State.event_touch
    | with_reducible apply State.modPort_touch
    | with_reducible apply State.pumpPort_touch
    | with_reducible apply State.linkRecords_touch
    | with_reducible apply State.resend_touch
    | with_reducible apply touch_ite
    | with_reducible apply touchR_ite
    | with_reducible apply touchR_next
    | with_reducible intro _

theorem execSkidNak_touch (hp : ([.log, .safe, .stats, .clusters, .job, .upd, .limbers, .cow, .skid, .host, .ingest, .snap, .ctr, .out] : List Part) ⊆ ps) (port : ℕ) (f : SkidFrame) (s : State)  (h : Touch ps s0 s) :
    TouchR ps s0 (execSkidNak port f s) := by
  unfold execSkidNak; try dsimp only
  repeat' first
    | with_reducible assumption
    | exact List.Subset.trans (by decide) hp
    | with_reducible apply State.badFrame_touch
    | with_reducible apply State.stress_touch
    | with_reducible apply State.modPort_touch
    | with_reducible apply State.resend_touch
    | with_reducible apply State.skidFails_touch
    | with_reducible apply State.retrainPort_touch
    | with_reducible apply touch_ite
    | with_reducible apply touchR_ite
    | with_reducible apply touchR_next
    | with_reducible intro _

theorem execSkidPortDown_touch (hp : ([.skid] : List Part) ⊆ ps) (port : ℕ) (s : State)  (h : Touch ps s0 s) :
    TouchR ps s0 (execSkidPortDown port s) := by
  unfold execSkidPortDown; try dsimp only
  repeat' first
    | with_reducible assumption
    | exact List.Subset.trans (by decide) hp
    | with_reducible apply State.modPort_touch
    | with_reducible apply touch_ite
    | with_reducible apply touchR_ite
    | with_reducible apply touchR_next
    | with_reducible intro _

theorem execSpineRetrainDone_touch (hp : ([.log, .safe, .stats, .clusters, .job, .upd, .limbers, .cow, .spine, .skid, .host, .ingest, .snap, .ctr, .out] : List Part) ⊆ ps) (k : ℕ) (m : ℕ) (ok : Bool) (s : State)  (h : Touch ps s0 s) :
    TouchR ps s0 (execSpineRetrainDone k m ok s) := by
  unfold execSpineRetrainDone; try dsimp only
  repeat' first
    | with_reducible assumption
    | exact List.Subset.trans (by decide) hp
    | with_reducible apply State.atEnds_touch
    | with_reducible apply State.spineFails_touch
    | with_reducible apply touch_ite
    | with_reducible apply touchR_ite
    | with_reducible apply touchR_next
    | with_reducible intro _
    | split

end Sys2Proof.Machine
end

