-- ==== Sys2Proof/Laws/TouchStartUp.lean ====
section
/-! SUPPORT. Which parts of the state the operations of Machine/StartUp.lean may change. -/

namespace Sys2Proof.Machine

variable {s0 : State} {ps : List Part}

theorem State.areaFails_touch (hp : ([.start, .log, .bg, .tally, .host, .ctr, .out] : List Part) ⊆ ps) (s : State) (a : ℕ)  (h : Touch ps s0 s) :
    Touch ps s0 (State.areaFails s a) := by
  unfold State.areaFails; try dsimp only
  repeat' first
    | with_reducible assumption
    | exact List.Subset.trans (by decide) hp
    | with_reducible apply State.event_touch
    | with_reducible apply State.modFwSlot_touch
    | exact .inr (hp (by decide))
    | with_reducible exact .inl rfl
    | with_reducible apply touch_ite
    | with_reducible intro _
    | with_reducible refine touch_mk ?_ ?_ ?_ ?_ ?_ ?_ ?_ ?_ ?_ ?_ ?_ ?_ ?_ ?_ ?_ ?_ ?_ ?_ ?_ ?_ ?_ ?_ ?_ ?_ ?_ ?_ ?_ ?_ ?_

theorem State.enterStage_touch (hp : ([.start] : List Part) ⊆ ps) (s : State) (n : ℕ)  (h : Touch ps s0 s) :
    Touch ps s0 (State.enterStage s n) := by
  unfold State.enterStage; try dsimp only
  repeat' first
    | with_reducible assumption
    | exact .inr (hp (by decide))
    | with_reducible exact .inl rfl
    | with_reducible refine touch_mk ?_ ?_ ?_ ?_ ?_ ?_ ?_ ?_ ?_ ?_ ?_ ?_ ?_ ?_ ?_ ?_ ?_ ?_ ?_ ?_ ?_ ?_ ?_ ?_ ?_ ?_ ?_ ?_ ?_

theorem State.bootSlot_touch (hp : ([.start] : List Part) ⊆ ps) (s : State) (n : ℕ)  (h : Touch ps s0 s) :
    Touch ps s0 (State.bootSlot s n) := by
  unfold State.bootSlot; try dsimp only
  repeat' first
    | with_reducible assumption
    | exact .inr (hp (by decide))
    | with_reducible exact .inl rfl
    | with_reducible refine touch_mk ?_ ?_ ?_ ?_ ?_ ?_ ?_ ?_ ?_ ?_ ?_ ?_ ?_ ?_ ?_ ?_ ?_ ?_ ?_ ?_ ?_ ?_ ?_ ?_ ?_ ?_ ?_ ?_ ?_

theorem State.bootActive_touch (hp : ([.time, .start, .log, .safe, .bg, .stats, .clusters, .job, .upd, .banks, .limbers, .stash, .cow, .cxl, .base, .spine, .skid, .net, .sync, .tally, .host, .ingest, .snap, .power, .mem, .ctr, .out, .free] : List Part) ⊆ ps) (s : State)  (h : Touch ps s0 s) :
    Touch ps s0 (State.bootActive s) := by
  unfold State.bootActive; try dsimp only
  repeat' first
    | with_reducible assumption
    | exact List.Subset.trans (by decide) hp
    | with_reducible apply State.modFwSlot_touch
    | with_reducible apply State.enterStage_touch
    | with_reducible apply State.bootSlot_touch
    | with_reducible apply State.enterStump_touch
    | with_reducible apply touch_ite
    | with_reducible intro _
    | split

theorem State.decodeCxl_touch (hp : ([.log, .cxl, .host, .ctr, .out] : List Part) ⊆ ps) (s : State) (devices : List CxlFound)  (h : Touch ps s0 s) :
    Touch ps s0 (State.decodeCxl s devices) := by
  unfold State.decodeCxl; try dsimp only
  repeat' first
    | with_reducible assumption
    | exact List.Subset.trans (by decide) hp
    | with_reducible apply State.event_touch
    | exact .inr (hp (by decide))
    | with_reducible exact .inl rfl
    | with_reducible apply touch_ite
    | with_reducible intro _
    | split
    | with_reducible refine touch_mk ?_ ?_ ?_ ?_ ?_ ?_ ?_ ?_ ?_ ?_ ?_ ?_ ?_ ?_ ?_ ?_ ?_ ?_ ?_ ?_ ?_ ?_ ?_ ?_ ?_ ?_ ?_ ?_ ?_

theorem State.fuseLanes_touch (hp : ([.spine] : List Part) ⊆ ps) (s : State) (f : LaneFault)  (h : Touch ps s0 s) :
    Touch ps s0 (State.fuseLanes s f) := by
  unfold State.fuseLanes; try dsimp only
  repeat' first
    | with_reducible assumption
    | exact .inr (hp (by decide))
    | with_reducible exact .inl rfl
    | with_reducible apply touch_ite
    | with_reducible intro _
    | split
    | with_reducible refine touch_mk ?_ ?_ ?_ ?_ ?_ ?_ ?_ ?_ ?_ ?_ ?_ ?_ ?_ ?_ ?_ ?_ ?_ ?_ ?_ ?_ ?_ ?_ ?_ ?_ ?_ ?_ ?_ ?_ ?_

theorem State.repair_touch (hp : ([.start, .log, .host, .ctr, .out] : List Part) ⊆ ps) (s : State) (n : ℕ)  (h : Touch ps s0 s) :
    Touch ps s0 (State.repair s n) := by
  unfold State.repair; try dsimp only
  repeat' first
    | with_reducible assumption
    | exact List.Subset.trans (by decide) hp
    | with_reducible apply State.event_touch
    | exact .inr (hp (by decide))
    | with_reducible exact .inl rfl
    | with_reducible apply touch_ite
    | with_reducible intro _
    | split
    | with_reducible refine touch_mk ?_ ?_ ?_ ?_ ?_ ?_ ?_ ?_ ?_ ?_ ?_ ?_ ?_ ?_ ?_ ?_ ?_ ?_ ?_ ?_ ?_ ?_ ?_ ?_ ?_ ?_ ?_ ?_ ?_

theorem State.wipeKeys_touch (hp : ([.start, .log, .host, .ctr, .out] : List Part) ⊆ ps) (s : State)  (h : Touch ps s0 s) :
    Touch ps s0 (State.wipeKeys s) := by
  unfold State.wipeKeys; try dsimp only
  repeat' first
    | with_reducible assumption
    | exact List.Subset.trans (by decide) hp
    | with_reducible apply State.event_touch
    | exact .inr (hp (by decide))
    | with_reducible exact .inl rfl
    | with_reducible refine touch_mk ?_ ?_ ?_ ?_ ?_ ?_ ?_ ?_ ?_ ?_ ?_ ?_ ?_ ?_ ?_ ?_ ?_ ?_ ?_ ?_ ?_ ?_ ?_ ?_ ?_ ?_ ?_ ?_ ?_

theorem State.noEntries_touch (hp : ([.start] : List Part) ⊆ ps) (s : State)  (h : Touch ps s0 s) :
    Touch ps s0 (State.noEntries s) := by
  unfold State.noEntries; try dsimp only
  repeat' first
    | with_reducible assumption
    | exact .inr (hp (by decide))
    | with_reducible exact .inl rfl
    | with_reducible refine touch_mk ?_ ?_ ?_ ?_ ?_ ?_ ?_ ?_ ?_ ?_ ?_ ?_ ?_ ?_ ?_ ?_ ?_ ?_ ?_ ?_ ?_ ?_ ?_ ?_ ?_ ?_ ?_ ?_ ?_

theorem State.fuses_touch (hp : ([.start, .log, .tally, .host, .ctr, .out] : List Part) ⊆ ps) (s : State)  (h : Touch ps s0 s) :
    Touch ps s0 (State.fuses s) := by
  unfold State.fuses; try dsimp only
  repeat' first
    | with_reducible assumption
    | exact List.Subset.trans (by decide) hp
    | with_reducible apply State.repair_touch
    | with_reducible apply State.event_touch
    | with_reducible apply State.wipeKeys_touch
    | with_reducible apply State.noEntries_touch
    | with_reducible apply State.enterStage_touch
    | exact .inr (hp (by decide))
    | with_reducible exact .inl rfl
    | with_reducible apply touch_ite
    | with_reducible apply touch_foldl
    | with_reducible intro _
    | with_reducible refine touch_mk ?_ ?_ ?_ ?_ ?_ ?_ ?_ ?_ ?_ ?_ ?_ ?_ ?_ ?_ ?_ ?_ ?_ ?_ ?_ ?_ ?_ ?_ ?_ ?_ ?_ ?_ ?_ ?_ ?_

theorem State.installFails_touch (hp : ([.start, .log, .host, .ctr, .out] : List Part) ⊆ ps) (s : State) (r : ℕ)  (h : Touch ps s0 s) :
    Touch ps s0 (State.installFails s r) := by
  unfold State.installFails; try dsimp only
  repeat' first
    | with_reducible assumption
    | exact List.Subset.trans (by decide) hp
    | with_reducible apply State.event_touch
    | with_reducible apply State.modFwSlot_touch
    | exact .inr (hp (by decide))
    | with_reducible exact .inl rfl
    | with_reducible refine touch_mk ?_ ?_ ?_ ?_ ?_ ?_ ?_ ?_ ?_ ?_ ?_ ?_ ?_ ?_ ?_ ?_ ?_ ?_ ?_ ?_ ?_ ?_ ?_ ?_ ?_ ?_ ?_ ?_ ?_

theorem State.ready_touch (hp : ([.start, .log, .host, .ctr, .out] : List Part) ⊆ ps) (s : State)  (h : Touch ps s0 s) :
    Touch ps s0 (State.ready s) := by
  unfold State.ready; try dsimp only
  repeat' first
    | with_reducible assumption
    | exact List.Subset.trans (by decide) hp
    | with_reducible apply State.modFwSlot_touch
    | with_reducible apply State.event_touch
    | exact .inr (hp (by decide))
    | with_reducible exact .inl rfl
    | with_reducible apply touch_ite
    | with_reducible intro _
    | with_reducible refine touch_mk ?_ ?_ ?_ ?_ ?_ ?_ ?_ ?_ ?_ ?_ ?_ ?_ ?_ ?_ ?_ ?_ ?_ ?_ ?_ ?_ ?_ ?_ ?_ ?_ ?_ ?_ ?_ ?_ ?_

theorem State.linkUp_touch (hp : ([.time, .start, .log, .cxl, .tally, .host, .power, .ctr, .out] : List Part) ⊆ ps) (s : State) (found : List CxlFound)  (h : Touch ps s0 s) :
    Touch ps s0 (State.linkUp s found) := by
  unfold State.linkUp; try dsimp only
  repeat' first
    | with_reducible assumption
    | exact List.Subset.trans (by decide) hp
    | with_reducible apply State.ready_touch
    | with_reducible apply State.decodeCxl_touch
    | with_reducible apply State.safePoint_touch

theorem State.markSpares_touch (hp : ([.start] : List Part) ⊆ ps) (s : State) (failed : List ℕ)  (h : Touch ps s0 s) :
    Touch ps s0 (State.markSpares s failed) := by
  unfold State.markSpares; try dsimp only
  repeat' first
    | with_reducible assumption
    | exact .inr (hp (by decide))
    | with_reducible exact .inl rfl
    | with_reducible apply touch_ite
    | with_reducible intro _
    | split
    | with_reducible refine touch_mk ?_ ?_ ?_ ?_ ?_ ?_ ?_ ?_ ?_ ?_ ?_ ?_ ?_ ?_ ?_ ?_ ?_ ?_ ?_ ?_ ?_ ?_ ?_ ?_ ?_ ?_ ?_ ?_ ?_

theorem State.readStore_touch (hp : ([.start, .log, .tally, .host, .ctr, .out] : List Part) ⊆ ps) (s : State)  (h : Touch ps s0 s) :
    Touch ps s0 (State.readStore s) := by
  unfold State.readStore; try dsimp only
  repeat' first
    | with_reducible assumption
    | exact List.Subset.trans (by decide) hp
    | with_reducible apply State.event_touch
    | with_reducible apply State.factoryDefaults_touch
    | with_reducible apply State.restoreValues_touch
    | with_reducible apply State.storeValues_touch
    | with_reducible apply State.enterStage_touch
    | with_reducible apply State.indexFlash_touch
    | exact .inr (hp (by decide))
    | with_reducible exact .inl rfl
    | with_reducible apply touch_ite
    | with_reducible intro _
    | split
    | with_reducible refine touch_mk ?_ ?_ ?_ ?_ ?_ ?_ ?_ ?_ ?_ ?_ ?_ ?_ ?_ ?_ ?_ ?_ ?_ ?_ ?_ ?_ ?_ ?_ ?_ ?_ ?_ ?_ ?_ ?_ ?_

theorem State.startFails_touch (hp : ([.start, .safe] : List Part) ⊆ ps) (s : State)  (h : Touch ps s0 s) :
    Touch ps s0 (State.startFails s) := by
  unfold State.startFails; try dsimp only
  repeat' first
    | with_reducible assumption
    | exact .inr (hp (by decide))
    | with_reducible exact .inl rfl
    | with_reducible refine touch_mk ?_ ?_ ?_ ?_ ?_ ?_ ?_ ?_ ?_ ?_ ?_ ?_ ?_ ?_ ?_ ?_ ?_ ?_ ?_ ?_ ?_ ?_ ?_ ?_ ?_ ?_ ?_ ?_ ?_

theorem State.reload_touch (hp : ([.start, .safe] : List Part) ⊆ ps) (s : State)  (h : Touch ps s0 s) :
    Touch ps s0 (State.reload s) := by
  unfold State.reload; try dsimp only
  repeat' first
    | with_reducible assumption
    | exact List.Subset.trans (by decide) hp
    | with_reducible apply State.startFails_touch
    | with_reducible apply State.enterStage_touch
    | exact .inr (hp (by decide))
    | with_reducible exact .inl rfl
    | with_reducible apply touch_ite
    | with_reducible intro _
    | with_reducible refine touch_mk ?_ ?_ ?_ ?_ ?_ ?_ ?_ ?_ ?_ ?_ ?_ ?_ ?_ ?_ ?_ ?_ ?_ ?_ ?_ ?_ ?_ ?_ ?_ ?_ ?_ ?_ ?_ ?_ ?_

theorem State.selectSlot_touch (hp : ([.time, .start, .log, .safe, .bg, .stats, .clusters, .job, .upd, .banks, .limbers, .stash, .cow, .cxl, .base, .spine, .skid, .net, .sync, .tally, .host, .ingest, .snap, .power, .mem, .ctr, .out, .free] : List Part) ⊆ ps) (s : State)  (h : Touch ps s0 s) :
    Touch ps s0 (State.selectSlot s) := by
  unfold State.selectSlot; try dsimp only
  repeat' first
    | with_reducible assumption
    | exact List.Subset.trans (by decide) hp
    | with_reducible apply State.enterStump_touch
    | with_reducible apply State.enterStage_touch
    | with_reducible apply State.bootSlot_touch
    | with_reducible apply State.bootActive_touch
    | with_reducible apply State.event_touch
    | with_reducible apply State.modFwSlot_touch
    | with_reducible apply touch_ite
    | with_reducible intro _
    | split

theorem State.serveBlob_touch (hp : ([.host, .ctr, .out] : List Part) ⊆ ps) (s : State) (q : Req) (index : ℕ) (sub : ℕ) (n : ℕ) (act : State → Bytes → Answer) (hact : ∀ s y0, Touch ps s0 s → TouchA ps s0 (act s y0)) (h : Touch ps s0 s) :
    Touch ps s0 (State.serveBlob s q index sub n act) := by
  unfold State.serveBlob; try dsimp only
  repeat' first
    | with_reducible assumption
    | exact List.Subset.trans (by decide) hp
    | with_reducible apply State.serve_touch
    | with_reducible apply State.blobSegment_touch
    | with_reducible apply refuse_touch
    | with_reducible apply hact
    | with_reducible apply touch_ite
    | with_reducible apply touchA_ite
    | with_reducible apply touchA_refuse
    | with_reducible intro _

theorem State.stageFails_touch (hp : ([.time, .start, .log, .safe, .bg, .stats, .clusters, .job, .upd, .banks, .limbers, .stash, .cow, .cxl, .base, .spine, .skid, .net, .sync, .tally, .host, .ingest, .snap, .power, .mem, .ctr, .out, .free] : List Part) ⊆ ps) (s : State)  (h : Touch ps s0 s) :
    Touch ps s0 (State.stageFails s) := by
  unfold State.stageFails; try dsimp only
  repeat' first
    | with_reducible assumption
    | exact List.Subset.trans (by decide) hp
    | with_reducible apply State.enterStump_touch
    | with_reducible apply State.startFails_touch
    | with_reducible apply touch_ite
    | with_reducible intro _

theorem State.tested_touch (hp : ([.time, .start, .log, .safe, .bg, .stats, .clusters, .job, .upd, .banks, .limbers, .stash, .cow, .cxl, .base, .spine, .skid, .net, .sync, .tally, .host, .ingest, .snap, .power, .mem, .ctr, .out, .free] : List Part) ⊆ ps) (s : State) (dies : List ℕ) (lanes : List LaneFault)  (h : Touch ps s0 s) :
    Touch ps s0 (State.tested s dies lanes) := by
  unfold State.tested; try dsimp only
  repeat' first
    | with_reducible assumption
    | exact List.Subset.trans (by decide) hp
    | with_reducible apply State.fuseLanes_touch
    | with_reducible apply State.enterStump_touch
    | with_reducible apply State.fault_touch
    | with_reducible apply State.markSpares_touch
    | with_reducible apply State.startFails_touch
    | with_reducible apply State.enterStage_touch
    | exact .inr (hp (by decide))
    | with_reducible exact .inl rfl
    | with_reducible apply touch_ite
    | with_reducible apply touch_foldl
    | with_reducible intro _
    | with_reducible refine touch_mk ?_ ?_ ?_ ?_ ?_ ?_ ?_ ?_ ?_ ?_ ?_ ?_ ?_ ?_ ?_ ?_ ?_ ?_ ?_ ?_ ?_ ?_ ?_ ?_ ?_ ?_ ?_ ?_ ?_

theorem execAttestNonce_touch (hp : ([.start, .host, .ctr, .out] : List Part) ⊆ ps) (q : Req) (s : State)  (h : Touch ps s0 s) :
    TouchR ps s0 (execAttestNonce q s) := by
  unfold execAttestNonce; try dsimp only
  repeat' first
    | with_reducible assumption
    | exact List.Subset.trans (by decide) hp
    | with_reducible apply State.serveBlob_touch
    | with_reducible apply refuse_touch
    | with_reducible apply accept_touch
    | exact .inr (hp (by decide))
    | with_reducible exact .inl rfl
    | with_reducible apply touch_ite
    | with_reducible apply touchR_ite
    | with_reducible apply touchA_ite
    | with_reducible apply touchR_next
    | with_reducible apply touchA_refuse
    | with_reducible apply touchA_accept
    | with_reducible intro _
    | with_reducible refine touch_mk ?_ ?_ ?_ ?_ ?_ ?_ ?_ ?_ ?_ ?_ ?_ ?_ ?_ ?_ ?_ ?_ ?_ ?_ ?_ ?_ ?_ ?_ ?_ ?_ ?_ ?_ ?_ ?_ ?_

theorem execCardChanged_touch (hp : ([.start, .log, .host, .ctr, .out] : List Part) ⊆ ps) (card : ℕ) (file : Bytes) (s : State)  (h : Touch ps s0 s) :
    TouchR ps s0 (execCardChanged card file s) := by
  unfold execCardChanged; try dsimp only
  repeat' first
    | with_reducible assumption
    | exact List.Subset.trans (by decide) hp
    | with_reducible apply State.installFails_touch
    | exact .inr (hp (by decide))
    | with_reducible exact .inl rfl
    | with_reducible apply touch_ite
    | with_reducible apply touchR_ite
    | with_reducible apply touchR_next
    | with_reducible intro _
    | with_reducible refine touch_mk ?_ ?_ ?_ ?_ ?_ ?_ ?_ ?_ ?_ ?_ ?_ ?_ ?_ ?_ ?_ ?_ ?_ ?_ ?_ ?_ ?_ ?_ ?_ ?_ ?_ ?_ ?_ ?_ ?_

theorem execFlashVerify_touch (hp : ([.start, .log, .bg, .tally, .host, .ctr, .out] : List Part) ⊆ ps) (failed : List ℕ) (s : State)  (h : Touch ps s0 s) :
    TouchR ps s0 (execFlashVerify failed s) := by
  unfold execFlashVerify; try dsimp only
  repeat' first
    | with_reducible assumption
    | exact List.Subset.trans (by decide) hp
    | with_reducible apply State.areaFails_touch
    | exact .inr (hp (by decide))
    | with_reducible exact .inl rfl
    | with_reducible apply touch_ite
    | with_reducible apply touchR_ite
    | with_reducible apply touchR_next
    | with_reducible apply touch_foldl
    | with_reducible intro _
    | with_reducible refine touch_mk ?_ ?_ ?_ ?_ ?_ ?_ ?_ ?_ ?_ ?_ ?_ ?_ ?_ ?_ ?_ ?_ ?_ ?_ ?_ ?_ ?_ ?_ ?_ ?_ ?_ ?_ ?_ ?_ ?_

theorem execFwCardInstall_touch (hp : ([.start, .host, .ctr, .out] : List Part) ⊆ ps) (q : Req) (s : State)  (h : Touch ps s0 s) :
    TouchR ps s0 (execFwCardInstall q s) := by
  unfold execFwCardInstall; try dsimp only
  repeat' first
    | with_reducible assumption
    | exact List.Subset.trans (by decide) hp
    | with_reducible apply State.serveWrite_touch
    | with_reducible apply refuse_touch
    | with_reducible apply accept_touch
    | exact .inr (hp (by decide))
    | with_reducible exact .inl rfl
    | with_reducible apply touch_ite
    | with_reducible apply touchR_ite
    | with_reducible apply touchA_ite
    | with_reducible apply touchR_next
    | with_reducible apply touchA_refuse
    | with_reducible apply touchA_accept
    | with_reducible intro _
    | with_reducible refine touch_mk ?_ ?_ ?_ ?_ ?_ ?_ ?_ ?_ ?_ ?_ ?_ ?_ ?_ ?_ ?_ ?_ ?_ ?_ ?_ ?_ ?_ ?_ ?_ ?_ ?_ ?_ ?_ ?_ ?_

theorem execFwConfirm_touch (hp : ([.start, .log, .host, .ctr, .out] : List Part) ⊆ ps) (q : Req) (s : State)  (h : Touch ps s0 s) :
    TouchR ps s0 (execFwConfirm q s) := by
  unfold execFwConfirm; try dsimp only
  repeat' first
    | with_reducible assumption
    | exact List.Subset.trans (by decide) hp
    | with_reducible apply State.serveBlob_touch
    | with_reducible apply refuse_touch
    | with_reducible apply State.modFwSlot_touch
    | with_reducible apply accept_touch
    | with_reducible apply State.event_touch
    | exact .inr (hp (by decide))
    | with_reducible exact .inl rfl
    | with_reducible apply touch_ite
    | with_reducible apply touchR_ite
    | with_reducible apply touchA_ite
    | with_reducible apply touchR_next
    | with_reducible apply touchA_refuse
    | with_reducible apply touchA_accept
    | with_reducible intro _
    | with_reducible refine touch_mk ?_ ?_ ?_ ?_ ?_ ?_ ?_ ?_ ?_ ?_ ?_ ?_ ?_ ?_ ?_ ?_ ?_ ?_ ?_ ?_ ?_ ?_ ?_ ?_ ?_ ?_ ?_ ?_ ?_

theorem execFwInstallComplete_touch (hp : ([.start, .log, .bg, .host, .ctr, .out] : List Part) ⊆ ps) (flash : FlashReport) (s : State)  (h : Touch ps s0 s) :
    TouchR ps s0 (execFwInstallComplete flash s) := by
  unfold execFwInstallComplete; try dsimp only
  repeat' first
    | with_reducible assumption
    | exact List.Subset.trans (by decide) hp
    | with_reducible apply State.flashWrite_touch
    | with_reducible apply State.putTrial_touch
    | with_reducible apply State.installFails_touch
    | exact .inr (hp (by decide))
    | with_reducible exact .inl rfl
    | with_reducible apply touch_ite
    | with_reducible apply touchR_ite
    | with_reducible apply touchR_next
    | with_reducible intro _
    | with_reducible refine touch_mk ?_ ?_ ?_ ?_ ?_ ?_ ?_ ?_ ?_ ?_ ?_ ?_ ?_ ?_ ?_ ?_ ?_ ?_ ?_ ?_ ?_ ?_ ?_ ?_ ?_ ?_ ?_ ?_ ?_

theorem execLifecycleReturn_touch (hp : ([.start, .host, .ctr, .out] : List Part) ⊆ ps) (q : Req) (s : State)  (h : Touch ps s0 s) :
    TouchR ps s0 (execLifecycleReturn q s) := by
  unfold execLifecycleReturn; try dsimp only
  repeat' first
    | with_reducible assumption
    | exact List.Subset.trans (by decide) hp
    | with_reducible apply State.serveBlob_touch
    | with_reducible apply refuse_touch
    | with_reducible apply accept_touch
    | exact .inr (hp (by decide))
    | with_reducible exact .inl rfl
    | with_reducible apply touch_ite
    | with_reducible apply touchR_ite
    | with_reducible apply touchA_ite
    | with_reducible apply touchR_next
    | with_reducible apply touchA_refuse
    | with_reducible apply touchA_accept
    | with_reducible intro _
    | with_reducible refine touch_mk ?_ ?_ ?_ ?_ ?_ ?_ ?_ ?_ ?_ ?_ ?_ ?_ ?_ ?_ ?_ ?_ ?_ ?_ ?_ ?_ ?_ ?_ ?_ ?_ ?_ ?_ ?_ ?_ ?_

theorem execModuleRestart_touch (hp : ([.time, .start, .log, .safe, .bg, .stats, .clusters, .job, .upd, .banks, .limbers, .stash, .cow, .cxl, .base, .spine, .skid, .net, .sync, .tally, .host, .ingest, .snap, .power, .mem, .ctr, .out, .free] : List Part) ⊆ ps) (q : Req) (s : State)  (h : Touch ps s0 s) :
    TouchR ps s0 (execModuleRestart q s) := by
  unfold execModuleRestart; try dsimp only
  repeat' first
    | with_reducible assumption
    | exact List.Subset.trans (by decide) hp
    | with_reducible apply State.serveWrite_touch
    | with_reducible apply refuse_touch
    | with_reducible apply accept_touch
    | with_reducible apply State.enterStage_touch
    | with_reducible apply State.restarted_touch
    | with_reducible apply touch_ite
    | with_reducible apply touchR_ite
    | with_reducible apply touchA_ite
    | with_reducible apply touchR_next
    | with_reducible apply touchA_refuse
    | with_reducible apply touchA_accept
    | with_reducible intro _

theorem execPowerGood_touch (hp : ([.time, .start, .log, .safe, .bg, .stats, .clusters, .job, .upd, .banks, .limbers, .stash, .cow, .cxl, .base, .spine, .skid, .net, .sync, .tally, .host, .ingest, .snap, .power, .mem, .ctr, .out, .free] : List Part) ⊆ ps) (oscdly : ℕ) (s : State)  (h : Touch ps s0 s) :
    TouchR ps s0 (execPowerGood oscdly s) := by
  unfold execPowerGood; try dsimp only
  repeat' first
    | with_reducible assumption
    | exact List.Subset.trans (by decide) hp
    | with_reducible apply State.restarted_touch
    | exact .inr (hp (by decide))
    | with_reducible exact .inl rfl
    | with_reducible apply touch_ite
    | with_reducible apply touchR_ite
    | with_reducible apply touchR_next
    | with_reducible intro _
    | with_reducible refine touch_mk ?_ ?_ ?_ ?_ ?_ ?_ ?_ ?_ ?_ ?_ ?_ ?_ ?_ ?_ ?_ ?_ ?_ ?_ ?_ ?_ ?_ ?_ ?_ ?_ ?_ ?_ ?_ ?_ ?_

theorem execStartStageDone_touch (hp : ([.time, .start, .log, .safe, .bg, .stats, .clusters, .job, .upd, .banks, .limbers, .stash, .cow, .cxl, .base, .spine, .skid, .net, .sync, .tally, .host, .ingest, .snap, .power, .mem, .ctr, .out, .free] : List Part) ⊆ ps) (r : StageReport) (s : State)  (h : Touch ps s0 s) :
    TouchR ps s0 (execStartStageDone r s) := by
  unfold execStartStageDone; try dsimp only
  repeat' first
    | with_reducible assumption
    | exact List.Subset.trans (by decide) hp
    | with_reducible apply State.stageFails_touch
    | with_reducible apply State.enterStage_touch
    | with_reducible apply State.enterStump_touch
    | with_reducible apply State.selectSlot_touch
    | with_reducible apply State.tested_touch
    | with_reducible apply State.fuses_touch
    | with_reducible apply State.reload_touch
    | with_reducible apply State.readStore_touch
    | with_reducible apply State.linkUp_touch
    | exact .inr (hp (by decide))
    | with_reducible exact .inl rfl
    | with_reducible apply touch_ite
    | with_reducible apply touchR_ite
    | with_reducible apply touchR_next
    | with_reducible intro _
    | split
    | with_reducible refine touch_mk ?_ ?_ ?_ ?_ ?_ ?_ ?_ ?_ ?_ ?_ ?_ ?_ ?_ ?_ ?_ ?_ ?_ ?_ ?_ ?_ ?_ ?_ ?_ ?_ ?_ ?_ ?_ ?_ ?_

theorem execStartStageTimeout_touch (hp : ([.time, .start, .log, .safe, .bg, .stats, .clusters, .job, .upd, .banks, .limbers, .stash, .cow, .cxl, .base, .spine, .skid, .net, .sync, .tally, .host, .ingest, .snap, .power, .mem, .ctr, .out, .free] : List Part) ⊆ ps) (s : State)  (h : Touch ps s0 s) :
    TouchR ps s0 (execStartStageTimeout s) := by
  unfold execStartStageTimeout; try dsimp only
  repeat' first
    | with_reducible assumption
    | exact List.Subset.trans (by decide) hp
    | with_reducible apply State.stageFails_touch
    | with_reducible apply touch_ite
    | with_reducible apply touchR_ite
    | with_reducible apply touchR_next
    | with_reducible intro _

theorem execTamper_touch (hp : ([.start, .log, .safe, .stats, .clusters, .job, .upd, .limbers, .cow, .skid, .host, .ingest, .snap, .ctr, .out] : List Part) ⊆ ps) (s : State)  (h : Touch ps s0 s) :
    TouchR ps s0 (execTamper s) := by
  unfold execTamper; try dsimp only
  repeat' first
    | with_reducible assumption
    | exact List.Subset.trans (by decide) hp
    | with_reducible apply State.wipeKeys_touch
    | with_reducible apply State.fault_touch
    | exact .inr (hp (by decide))
    | with_reducible exact .inl rfl
    | with_reducible apply touch_ite
    | with_reducible apply touchR_ite
    | with_reducible apply touchR_next
    | with_reducible intro _
    | with_reducible refine touch_mk ?_ ?_ ?_ ?_ ?_ ?_ ?_ ?_ ?_ ?_ ?_ ?_ ?_ ?_ ?_ ?_ ?_ ?_ ?_ ?_ ?_ ?_ ?_ ?_ ?_ ?_ ?_ ?_ ?_

end Sys2Proof.Machine
end

