-- ==== Sys2Proof/Laws/TouchRegisters.lean ====
section
/-! SUPPORT. Which parts of the state the operations of Machine/Registers.lean may change. -/

namespace Sys2Proof.Machine

variable {s0 : State} {ps : List Part}

theorem State.writeGates_touch (hp : ([.power] : List Part) ⊆ ps) (s : State) (d : ℕ) (v : ℕ)  (h : Touch ps s0 s) :
    Touch ps s0 (State.writeGates s d v) := by
  unfold State.writeGates; try dsimp only
  repeat' first
    | with_reducible assumption
    | exact .inr (hp (by decide))
    | with_reducible exact .inl rfl
    | with_reducible apply touch_ite
    | with_reducible intro _
    | with_reducible refine touch_mk ?_ ?_ ?_ ?_ ?_ ?_ ?_ ?_ ?_ ?_ ?_ ?_ ?_ ?_ ?_ ?_ ?_ ?_ ?_ ?_ ?_ ?_ ?_ ?_ ?_ ?_ ?_ ?_ ?_

theorem State.regPut_touch (hp : ([.start, .bg, .clusters, .upd, .banks, .cxl, .base, .spine, .skid, .host, .power] : List Part) ⊆ ps) (s : State) (a : ℕ) (v : ℕ)  (h : Touch ps s0 s) :
    TouchO ps s0 (State.regPut s a v) := by
  unfold State.regPut; try dsimp only
  repeat' first
    | with_reducible assumption
    | exact List.Subset.trans (by decide) hp
    | with_reducible apply State.modCl_touch
    | with_reducible apply State.diagSelect_touch
    | with_reducible apply State.writeGates_touch
    | with_reducible apply State.modBank_touch
    | with_reducible apply State.modBase_touch
    | with_reducible apply State.modPort_touch
    | with_reducible apply State.modInst_touch
    | exact .inr (hp (by decide))
    | with_reducible exact .inl rfl
    | with_reducible apply touch_ite
    | with_reducible apply touchO_ite
    | with_reducible apply touchO_some
    | with_reducible exact touchO_none
    | with_reducible intro _
    | split
    | with_reducible refine touch_mk ?_ ?_ ?_ ?_ ?_ ?_ ?_ ?_ ?_ ?_ ?_ ?_ ?_ ?_ ?_ ?_ ?_ ?_ ?_ ?_ ?_ ?_ ?_ ?_ ?_ ?_ ?_ ?_ ?_

theorem State.regWrite_touch (hp : ([.start, .bg, .clusters, .upd, .banks, .cxl, .base, .spine, .skid, .host, .power] : List Part) ⊆ ps) (s : State) (a : ℕ) (size : ℕ) (v : ℕ)  (h : Touch ps s0 s) :
    TouchO ps s0 (State.regWrite s a size v) := by
  unfold State.regWrite; try dsimp only
  repeat' first
    | with_reducible assumption
    | exact List.Subset.trans (by decide) hp
    | with_reducible apply State.regPut_touch
    | with_reducible apply touch_ite
    | with_reducible apply touchO_ite
    | with_reducible apply touchO_some
    | with_reducible exact touchO_none
    | with_reducible apply touchO_getD
    | with_reducible refine touch_of_some (by assumption) ?_
    | with_reducible intro _
    | split

theorem execClkGate_touch (hp : ([.power] : List Part) ⊆ ps) (die : ℕ) (value : ℕ) (s : State)  (h : Touch ps s0 s) :
    TouchR ps s0 (execClkGate die value s) := by
  unfold execClkGate; try dsimp only
  repeat' first
    | with_reducible assumption
    | exact List.Subset.trans (by decide) hp
    | with_reducible apply State.writeGates_touch
    | with_reducible apply touchR_next

end Sys2Proof.Machine
end

