-- ==== Sys2Proof/Laws/TouchTallyCmds.lean ====
section
/-! SUPPORT. Which parts of the state the operations of Machine/TallyCmds.lean may change. -/

namespace Sys2Proof.Machine

variable {s0 : State} {ps : List Part}

theorem State.acceptApply_touch (hp : ([.log, .tally, .host, .ctr, .out] : List Part) ⊆ ps) (s : State) (g : ℕ)  (h : Touch ps s0 s) :
    Touch ps s0 (State.acceptApply s g) := by
  unfold State.acceptApply; try dsimp only
  repeat' first
    | with_reducible assumption
    | exact List.Subset.trans (by decide) hp
    | with_reducible apply State.event_touch
    | exact .inr (hp (by decide))
    | with_reducible exact .inl rfl
    | with_reducible apply touch_ite
    | with_reducible intro _
    | with_reducible refine touch_mk ?_ ?_ ?_ ?_ ?_ ?_ ?_ ?_ ?_ ?_ ?_ ?_ ?_ ?_ ?_ ?_ ?_ ?_ ?_ ?_ ?_ ?_ ?_ ?_ ?_ ?_ ?_ ?_ ?_

theorem State.diagAnswer_touch (hp : ([] : List Part) ⊆ ps) (s : State)  (h : Touch ps s0 s) :
    TouchA ps s0 (State.diagAnswer s) := by
  unfold State.diagAnswer; try dsimp only
  repeat' first
    | with_reducible assumption
    | exact List.Subset.trans (by decide) hp
    | with_reducible apply refuse_touch
    | assumption
    | with_reducible apply touchA_refuse
    | with_reducible apply touchA_mk
    | split

theorem State.diagWrite_touch (hp : ([.start, .bg, .clusters, .upd, .banks, .cxl, .base, .spine, .skid, .host, .power] : List Part) ⊆ ps) (s : State) (v : ℕ)  (h : Touch ps s0 s) :
    TouchA ps s0 (State.diagWrite s v) := by
  unfold State.diagWrite; try dsimp only
  repeat' first
    | with_reducible assumption
    | exact List.Subset.trans (by decide) hp
    | with_reducible apply refuse_touch
    | with_reducible apply State.regWrite_touch
    | with_reducible apply accept_touch
    | assumption
    | with_reducible apply touchA_refuse
    | with_reducible apply touchA_accept
    | with_reducible refine touch_of_some (by assumption) ?_
    | split

theorem segment_touch (hp : ([] : List Part) ⊆ ps) (s : State) (v : Bytes) (offset : ℕ)  (h : Touch ps s0 s) :
    TouchA ps s0 (segment s v offset) := by
  unfold segment; try dsimp only
  repeat' first
    | with_reducible assumption
    | with_reducible apply touchA_mk

theorem State.logAnswer_touch (hp : ([.log] : List Part) ⊆ ps) (s : State) (offset : ℕ)  (h : Touch ps s0 s) :
    TouchA ps s0 (State.logAnswer s offset) := by
  unfold State.logAnswer; try dsimp only
  repeat' first
    | with_reducible assumption
    | exact List.Subset.trans (by decide) hp
    | with_reducible apply segment_touch
    | exact .inr (hp (by decide))
    | with_reducible exact .inl rfl
    | with_reducible apply touch_ite
    | with_reducible apply touchA_ite
    | with_reducible apply touchA_mk
    | with_reducible intro _
    | with_reducible refine touch_mk ?_ ?_ ?_ ?_ ?_ ?_ ?_ ?_ ?_ ?_ ?_ ?_ ?_ ?_ ?_ ?_ ?_ ?_ ?_ ?_ ?_ ?_ ?_ ?_ ?_ ?_ ?_ ?_ ?_

theorem State.storeValue_touch (hp : ([.start, .log, .bg, .tally, .host, .ctr, .out] : List Part) ⊆ ps) (s : State) (q : Req) (o : Obj) (flash : FlashReport) (v : Bytes)  (h : Touch ps s0 s) :
    TouchA ps s0 (State.storeValue s q o flash v) := by
  unfold State.storeValue; try dsimp only
  repeat' first
    | with_reducible assumption
    | exact List.Subset.trans (by decide) hp
    | with_reducible apply refuse_touch
    | with_reducible apply State.flashWrite_touch
    | with_reducible apply accept_touch
    | with_reducible apply State.setFormats_touch
    | with_reducible apply State.putValue_touch
    | exact .inr (hp (by decide))
    | with_reducible exact .inl rfl
    | with_reducible apply touch_ite
    | with_reducible apply touchA_ite
    | with_reducible apply touchA_refuse
    | with_reducible apply touchA_accept
    | with_reducible intro _
    | with_reducible refine touch_mk ?_ ?_ ?_ ?_ ?_ ?_ ?_ ?_ ?_ ?_ ?_ ?_ ?_ ?_ ?_ ?_ ?_ ?_ ?_ ?_ ?_ ?_ ?_ ?_ ?_ ?_ ?_ ?_ ?_

theorem State.writeBlob_touch (hp : ([.start, .log, .bg, .tally, .host, .ctr, .out] : List Part) ⊆ ps) (s : State) (q : Req) (o : Obj) (flash : FlashReport)  (h : Touch ps s0 s) :
    TouchA ps s0 (State.writeBlob s q o flash) := by
  unfold State.writeBlob; try dsimp only
  repeat' first
    | with_reducible assumption
    | exact List.Subset.trans (by decide) hp
    | with_reducible apply State.blobSegment_touch
    | with_reducible apply refuse_touch
    | with_reducible apply State.storeValue_touch
    | with_reducible apply touch_ite
    | with_reducible apply touchA_ite
    | with_reducible apply touchA_refuse
    | with_reducible intro _

theorem State.writeFixed_touch (hp : ([.start, .log, .bg, .tally, .host, .ctr, .out] : List Part) ⊆ ps) (s : State) (q : Req) (o : Obj) (n : ℕ) (flash : FlashReport)  (h : Touch ps s0 s) :
    TouchA ps s0 (State.writeFixed s q o n flash) := by
  unfold State.writeFixed; try dsimp only
  repeat' first
    | with_reducible assumption
    | exact List.Subset.trans (by decide) hp
    | with_reducible apply refuse_touch
    | with_reducible apply State.storeValue_touch
    | with_reducible apply touch_ite
    | with_reducible apply touchA_ite
    | with_reducible apply touchA_refuse
    | with_reducible intro _

theorem execApplySafePoint_touch (hp : ([.time, .start, .log, .tally, .host, .power, .ctr, .out] : List Part) ⊆ ps) (g : ℕ) (s : State)  (h : Touch ps s0 s) :
    TouchR ps s0 (execApplySafePoint g s) := by
  unfold execApplySafePoint; try dsimp only
  repeat' first
    | with_reducible assumption
    | exact List.Subset.trans (by decide) hp
    | with_reducible apply State.safePoint_touch
    | exact touchR_fault
    | with_reducible apply touch_ite
    | with_reducible apply touchR_ite
    | with_reducible apply touchR_next
    | with_reducible intro _
    | split

theorem execDescribe_touch (hp : ([.host, .ctr, .out] : List Part) ⊆ ps) (q : Req) (s : State)  (h : Touch ps s0 s) :
    TouchR ps s0 (execDescribe q s) := by
  unfold execDescribe; try dsimp only
  repeat' first
    | with_reducible assumption
    | exact List.Subset.trans (by decide) hp
    | with_reducible apply State.serve_touch
    | with_reducible apply refuse_touch
    | assumption
    | with_reducible apply touchR_next
    | with_reducible apply touchA_refuse
    | with_reducible apply touchA_mk
    | with_reducible intro _
    | split

theorem execDiagRegRead_touch (hp : ([.host, .ctr, .out] : List Part) ⊆ ps) (q : Req) (s : State)  (h : Touch ps s0 s) :
    TouchR ps s0 (execDiagRegRead q s) := by
  unfold execDiagRegRead; try dsimp only
  repeat' first
    | with_reducible assumption
    | exact List.Subset.trans (by decide) hp
    | with_reducible apply State.serve_touch
    | with_reducible apply State.diagAnswer_touch
    | with_reducible apply touch_ite
    | with_reducible apply touchR_ite
    | with_reducible apply touchA_ite
    | with_reducible apply touchR_next
    | with_reducible intro _

theorem execDiagRegWrite_touch (hp : ([.start, .bg, .clusters, .upd, .banks, .cxl, .base, .spine, .skid, .host, .power, .ctr, .out] : List Part) ⊆ ps) (q : Req) (s : State)  (h : Touch ps s0 s) :
    TouchR ps s0 (execDiagRegWrite q s) := by
  unfold execDiagRegWrite; try dsimp only
  repeat' first
    | with_reducible assumption
    | exact List.Subset.trans (by decide) hp
    | with_reducible apply State.serveWrite_touch
    | with_reducible apply State.diagWrite_touch
    | with_reducible apply touchR_next
    | with_reducible intro _

theorem execEventLog_touch (hp : ([.log, .host, .ctr, .out] : List Part) ⊆ ps) (q : Req) (s : State)  (h : Touch ps s0 s) :
    TouchR ps s0 (execEventLog q s) := by
  unfold execEventLog; try dsimp only
  repeat' first
    | with_reducible assumption
    | exact List.Subset.trans (by decide) hp
    | with_reducible apply State.serve_touch
    | with_reducible apply State.logAnswer_touch
    | with_reducible apply touch_ite
    | with_reducible apply touchR_ite
    | with_reducible apply touchA_ite
    | with_reducible apply touchR_next
    | with_reducible intro _

theorem execPersistWrite_touch (hp : ([.start, .log, .bg, .host, .ctr, .out] : List Part) ⊆ ps) (flash : FlashReport) (s : State)  (h : Touch ps s0 s) :
    TouchR ps s0 (execPersistWrite flash s) := by
  unfold execPersistWrite; try dsimp only
  repeat' first
    | with_reducible assumption
    | exact List.Subset.trans (by decide) hp
    | with_reducible apply State.flashWrite_touch
    | with_reducible apply State.storeValues_touch
    | with_reducible apply State.event_touch
    | exact .inr (hp (by decide))
    | with_reducible exact .inl rfl
    | with_reducible apply touch_ite
    | with_reducible apply touchR_ite
    | with_reducible apply touchR_next
    | with_reducible intro _
    | with_reducible refine touch_mk ?_ ?_ ?_ ?_ ?_ ?_ ?_ ?_ ?_ ?_ ?_ ?_ ?_ ?_ ?_ ?_ ?_ ?_ ?_ ?_ ?_ ?_ ?_ ?_ ?_ ?_ ?_ ?_ ?_

theorem execRead_touch (hp : ([.log, .host, .ctr, .out] : List Part) ⊆ ps) (q : Req) (s : State)  (h : Touch ps s0 s) :
    TouchR ps s0 (execRead q s) := by
  unfold execRead; try dsimp only
  repeat' first
    | with_reducible assumption
    | exact List.Subset.trans (by decide) hp
    | with_reducible apply State.serve_touch
    | with_reducible apply refuse_touch
    | with_reducible apply State.diagAnswer_touch
    | with_reducible apply State.logAnswer_touch
    | with_reducible apply segment_touch
    | with_reducible apply touch_ite
    | with_reducible apply touchR_ite
    | with_reducible apply touchA_ite
    | with_reducible apply touchR_next
    | with_reducible apply touchA_refuse
    | with_reducible intro _
    | split

theorem execTallyApply_touch (hp : ([.log, .tally, .host, .ctr, .out] : List Part) ⊆ ps) (q : Req) (s : State)  (h : Touch ps s0 s) :
    TouchR ps s0 (execTallyApply q s) := by
  unfold execTallyApply; try dsimp only
  repeat' first
    | with_reducible assumption
    | exact List.Subset.trans (by decide) hp
    | with_reducible apply State.serveWrite_touch
    | with_reducible apply refuse_touch
    | with_reducible apply accept_touch
    | with_reducible apply State.acceptApply_touch
    | with_reducible apply touch_ite
    | with_reducible apply touchR_ite
    | with_reducible apply touchA_ite
    | with_reducible apply touchR_next
    | with_reducible apply touchA_refuse
    | with_reducible apply touchA_accept
    | with_reducible intro _

-- TODO writeOwn : Option Res

theorem some_ite_touch {c : Prop} [Decidable c] {a r : Res} {b : Option Res} (e : (if c then some a else b) = some r)
    (ha : TouchR ps s0 a) (hb : b = some r → TouchR ps s0 r) : TouchR ps s0 r := by
  split at e
  · cases e; exact ha
  · exact hb e

theorem writeOwn_touch (hp : ([.time, .start, .log, .safe, .bg, .stats, .clusters, .job, .upd, .banks, .limbers, .stash, .cow, .cxl, .base, .spine, .skid, .net, .sync, .tally, .host, .ingest, .snap, .power, .mem, .ctr, .out, .free] : List Part) ⊆ ps) (q : Req) (s : State) (r : Res) (e : writeOwn q s = some r) (h : Touch ps s0 s) : TouchR ps s0 r := by
  unfold writeOwn at e
  split at e
  · refine some_ite_touch e (execStart_touch (List.Subset.trans (by decide) hp) _ _ h) fun e => some_ite_touch e (execPauseStep_touch (List.Subset.trans (by decide) hp) _ _ h) fun e =>
      some_ite_touch e (execPausePass_touch (List.Subset.trans (by decide) hp) _ _ h) fun e => some_ite_touch e (execResume_touch (List.Subset.trans (by decide) hp) _ _ h) fun e =>
      some_ite_touch e (execStop_touch (List.Subset.trans (by decide) hp) _ _ h) fun e => some_ite_touch e (execUnload_touch (List.Subset.trans (by decide) hp) _ _ h) fun e => nomatch e
  · cases e; exact execPlanSlot_touch (List.Subset.trans (by decide) hp) _ _ h
  · cases e; exact execRestoreStep_touch (List.Subset.trans (by decide) hp) _ _ h
  · cases e; exact execRestoreStep_touch (List.Subset.trans (by decide) hp) _ _ h
  · exact some_ite_touch e (execRestoreGoStart_touch (List.Subset.trans (by decide) hp) _ _ h) fun e => some_ite_touch e (execRestoreGoStop_touch (List.Subset.trans (by decide) hp) _ _ h) fun e => nomatch e
  · cases e; exact execModuleRestart_touch (List.Subset.trans (by decide) hp) _ _ h
  · cases e; exact execFwConfirm_touch (List.Subset.trans (by decide) hp) _ _ h
  · cases e; exact execFwCardInstall_touch (List.Subset.trans (by decide) hp) _ _ h
  · cases e; exact execLifecycleReturn_touch (List.Subset.trans (by decide) hp) _ _ h
  · cases e; exact execAttestNonce_touch (List.Subset.trans (by decide) hp) _ _ h
  · cases e; exact execDiagRegWrite_touch (List.Subset.trans (by decide) hp) _ _ h
  · exact some_ite_touch e (execOperatorKey_touch (List.Subset.trans (by decide) hp) _ _ h) fun e => nomatch e
  · exact some_ite_touch e (execTallyApply_touch (List.Subset.trans (by decide) hp) _ _ h) fun e => nomatch e
  · cases e

theorem execWrite_touch (hp : ([.time, .start, .log, .safe, .bg, .stats, .clusters, .job, .upd, .banks, .limbers, .stash, .cow, .cxl, .base, .spine, .skid, .net, .sync, .tally, .host, .ingest, .snap, .power, .mem, .ctr, .out, .free] : List Part) ⊆ ps) (q : Req) (flash : FlashReport) (s : State) (h : Touch ps s0 s) : TouchR ps s0 (execWrite q flash s) := by
  unfold execWrite
  cases e : writeOwn q s with
  | some r => exact writeOwn_touch (List.Subset.trans (by decide) hp) q s r e h
  | none =>
    refine touchR_next (State.serve_touch (List.Subset.trans (by decide) hp) _ _ _ _ _ _ (fun s h => ?_) h)
    split
    · exact h
    · refine touchA_ite (fun _ => h) fun _ => ?_
      split
      · exact State.writeFixed_touch (List.Subset.trans (by decide) hp) _ _ _ _ _ h
      · exact State.writeBlob_touch (List.Subset.trans (by decide) hp) _ _ _ _ h

end Sys2Proof.Machine
end

