-- ==== Sys2Proof/WellFormed.lean ====
section
/-! DEFINITION. The operands that the block's units have: a command names a cluster, port, die, stand or stack that exists,
a message of its own kind, fields within their widths. `exec` is total and does not ask it. -/

namespace Sys2Proof

/-- A cluster key: 48 logical dies of 12 clusters (R10). -/
def clOk (cl : Nat) : Bool := decide (cl < 576)
/-- A skid port (R12). -/
def portOk (n : Nat) : Bool := decide (n < 16)
/-- A physical compute die (R10). -/
def computeDie (die : Nat) : Bool := decide (die < 52)
/-- A spine die (R12). -/
def spineOk (die : Nat) : Bool := decide (die < 4)
/-- A bucking die (R11). -/
def standOk (stand : Nat) : Bool := decide (stand < 8)
/-- A base die and its stack (R11). -/
def stackOk (stack : Nat) : Bool := decide (stack < 32)
/-- A CXL port: CXL die Xk serves port k (R12). -/
def cxlOk (port : Nat) : Bool := decide (port < 2)
/-- A clock instance (R486). -/
def instOk (i : Nat) : Bool := decide (i < 57)
/-- A source ID (R9). -/
def sourceOk (n : Nat) : Bool := decide (n < 65536)
/-- A page of HBM by its number (R260, R277): 32 stacks of 48 GiB, in pages of 2 MiB. -/
def pageOk (page : Nat) : Bool := decide (page < 786432)

/-- A request whose fields keep to their widths (R407). -/
def reqOk (q : Req) : Bool :=
  decide (q.addr.length = 16 ∧ q.session < 2 ^ 32 ∧ q.seq < 2 ^ 32 ∧ q.index < 65536 ∧ q.sub < 256 ∧ q.offset < 2 ^ 32 ∧ q.data.length ≤ 4096)
/-- A message of kind `k` whose fields keep to their widths (R381). -/
def msgOk (k : Nat) (m : Msg) : Bool :=
  portOk m.port && decide (m.kind = k ∧ m.stamp < 2 ^ 64 ∧ m.source < 65536 ∧ m.hops < 16 ∧ m.seq < 2 ^ 32 ∧ m.dst < 65536 ∧ m.origin < 65536
    ∧ m.arg < 2 ^ 64 ∧ m.total < 2 ^ 64 ∧ m.xfer < 2 ^ 32 ∧ m.sync < 65536 ∧ m.body.length ≤ 65536)
/-- A frame of kind `k` (R376). -/
def frameOk (k : Nat) (f : SkidFrame) : Bool :=
  decide (f.kind = k ∧ f.cls < 4 ∧ f.seq < 4096 ∧ f.ack < 4096 ∧ f.creditClass < 4 ∧ f.credits < 16384 ∧ f.payload.length = 256 ∧ f.fcrc < 2 ^ 64)
/-- The memory codes of the SRAM of a die (R239, R466). -/
def codeOk (die code : Nat) : Bool :=
  if die < 52 then decide (code < 12 ∨ (0x10 ≤ code ∧ code ≤ 0x12) ∨ code = 0x18 ∨ (0x20 ≤ code ∧ code < 0x2C))
  else if die < 84 then code == 0x40 else if die < 92 then code == 0x30 else if die < 96 then code == 0x50
  else if die = 96 then code == 0x70 else if die < 99 then code == 0x78 else code == 0x60
/-- What nature reports of a read names units that exist, and brings every read that was made. -/
def checkOk (c : MemCheck) : Bool :=
  match c with
  | .sram die code line reads => decide (die < 100 ∧ line < 2 ^ 24 ∧ reads ≠ []) && codeOk die code && reads.all fun r => decide (r.data.length = 64 ∧ r.crc < 2 ^ 16)
  | .hbm addr reads => decide (addr < 0x018000000000 ∧ addr % 32 = 0 ∧ reads ≠ []) && reads.all fun r => decide (r.data.length = 32 ∧ r.beats.length = 8) && r.beats.all fun x => decide (x < 16)
  | .cxl port device addr reads => cxlOk port && decide (device < 2 ∧ addr < 2 ^ 64 ∧ addr % 64 = 0 ∧ reads ≠ []) && reads.all fun r => decide (r.data.length = 64 ∧ r.crc < 2 ^ 32)
  | .ecc stack _ => stackOk stack
  | .parity source => sourceOk source
def checksOk (cs : List MemCheck) : Bool := cs.all checkOk
/-- The memory class of a scrub read: 0 SRAM, 1 HBM, 2 the second tier (R540). -/
def scrubClass (c : MemCheck) : Nat := match c with | .sram .. => 0 | .hbm .. | .ecc .. => 1 | .cxl .. => 2 | .parity _ => 3
/-- A load issues, or its memory answers. -/
def backOk (b : Option (List MemCheck)) : Bool := match b with | some cs => checksOk cs | none => true
/-- Spine die `k` has a module `m` (R370). -/
def joinOk (k m : Nat) : Bool := (spineFar k m).isSome
/-- What nature reports of a start-up stage names units that exist. -/
def reportOk (r : StageReport) : Bool :=
  match r with
  | .passed => true
  | .rom slotsel _ => decide (slotsel < 4)
  | .tests failed lanes => failed.all (fun d => decide (d < 100)) && lanes.all (fun l => joinOk l.die l.module && decide (l.failed ≤ 72))
  | .links ds => ds.all fun d => cxlOk d.port
  | .failed => true

/-- The operands of a command name units that the block has. -/
def wellFormed : Instr → Bool
  | .powerGood _ => true
  | .startStageDone r => reportOk r
  | .startStageTimeout => true
  | .sourceUpdate _ logInterval => decide (-128 ≤ logInterval ∧ logInterval ≤ 127)
  | .sourceLost => true
  | .holdoverExpired => true
  | .beatOverflow => true
  | .beatMark port f => portOk port && frameOk 2 f
  | .read q => reqOk q
  | .write q _ => reqOk q
  | .describe q => reqOk q
  | .sessionChallenge q => reqOk q
  | .sessionOpen q => reqOk q
  | .sessionClose q => reqOk q
  | .keepalive q => reqOk q
  | .sessionIdleTimeout id => decide (id < 2 ^ 32)
  | .sequenceEntryExpiry addr => decide (addr.length = 16)
  | .authLockExpiry => true
  | .tallyApply q => reqOk q
  | .applySafePoint g => decide (g < 2 ^ 16)
  | .persistWrite _ => true
  | .operatorKey q => reqOk q
  | .diagRegRead q => reqOk q
  | .diagRegWrite q => reqOk q
  | .xaDiagSel die n value => computeDie die && decide (n < 12 ∧ value < 2 ^ 32)
  | .xaDiagCaptureDone die n _ _ => computeDie die && decide (n < 12)
  | .clkGate die value => computeDie die && decide (value < 2 ^ 32)
  | .eventLog q => reqOk q
  | .planSlot q => reqOk q
  | .planLoadComplete => true
  | .start q => reqOk q
  | .pauseStep q => reqOk q
  | .pausePass q => reqOk q
  | .resume q => reqOk q
  | .stop q => reqOk q
  | .unload q => reqOk q
  | .stepStart => true
  | .phaseWindowStart k p => decide (k < 2 ^ 64 ∧ p < 6)
  | .phaseWindowEnd k p checks => decide (k < 2 ^ 64 ∧ p < 6) && checksOk checks
  | .commit => true
  | .stepClear => true
  | .pauseTakesEffect => true
  | .clusterPauseSpill cl => clOk cl
  | .resumeTakesEffect => true
  | .nop cl => clOk cl
  | .matrix cl => clOk cl
  | .conv cl => clOk cl
  | .crop cl => clOk cl
  | .elemwise cl => clOk cl
  | .kat cl => clOk cl
  | .drain cl => clOk cl
  | .drainSlot cl => clOk cl
  | .spillStore cl => clOk cl
  | .spillAdd cl => clOk cl
  | .restore cl => clOk cl
  | .copy cl => clOk cl
  | .add cl => clOk cl
  | .sub cl => clOk cl
  | .mul cl => clOk cl
  | .max cl => clOk cl
  | .min cl => clOk cl
  | .sqdiff cl => clOk cl
  | .addImm cl => clOk cl
  | .mulImm cl => clOk cl
  | .maxImm cl => clOk cl
  | .minImm cl => clOk cl
  | .axpy cl => clOk cl
  | .exp cl => clOk cl
  | .log cl => clOk cl
  | .recip cl => clOk cl
  | .rsqrt cl => clOk cl
  | .sqrt cl => clOk cl
  | .tanh cl => clOk cl
  | .sigmoid cl => clOk cl
  | .gelu cl => clOk cl
  | .silu cl => clOk cl
  | .segSum cl => clOk cl
  | .segSumsq cl => clOk cl
  | .segMax cl => clOk cl
  | .segMin cl => clOk cl
  | .softmax cl => clOk cl
  | .logsumexp cl => clOk cl
  | .xent cl => clOk cl
  | .xentGrad cl => clOk cl
  | .segScale cl => clOk cl
  | .segSub cl => clOk cl
  | .slice cl => clOk cl
  | .topk cl => clOk cl
  | .dmaTransfer cl checks => clOk cl && checksOk checks
  | .limberJob cl => clOk cl
  | .limberJobAccept cl => clOk cl
  | .limberJobComplete die checks _ => computeDie die && checksOk checks
  | .bankCtrl cl checks => clOk cl && checksOk checks
  | .bankHandoverComplete die bank => computeDie die && decide (bank < 64)
  | .bankPowerTransitionDone die bank => computeDie die && decide (bank < 64)
  | .syncWait cl => clOk cl
  | .syncWaitSatisfied cl => clOk cl
  | .syncSignal cl => clOk cl
  | .syncSignalArrival _ => true
  | .beatWait cl => clOk cl
  | .beatWaitReached cl => clOk cl
  | .boundLoadImmediate cl => clOk cl
  | .boundLoadMemory cl back => clOk cl && backOk back
  | .boundLoadDerived cl => clOk cl
  | .maskRectangle cl => clOk cl
  | .maskBitmap cl back => clOk cl && backOk back
  | .arrayPassComplete cl checks => clOk cl && checksOk checks
  | .drainFence cl => clOk cl
  | .drainRowWrite cl residue checks => clOk cl && checksOk checks && (match residue with | some c => decide (c < 128) | none => true)
  | .drainPathOpComplete cl checks => clOk cl && checksOk checks
  | .katCheckComplete cl signature residue => clOk cl && decide (signature < 2 ^ 64) && (match residue with | some (r, c) => decide (r < 128 ∧ c < 128) | none => true)
  | .katMissed cl => clOk cl
  | .vectorOpComplete cl checks => clOk cl && checksOk checks
  | .dmaComplete cl checks _ => clOk cl && checksOk checks
  | .bulkData flow block body crc _ => decide (flow < 2 ^ 32 ∧ block < 2 ^ 64 ∧ body.length ≤ 8192 ∧ crc < 2 ^ 32)
  | .bulkOpen addr session channel sub => decide (addr.length = 16 ∧ session < 2 ^ 32 ∧ channel < 256 ∧ sub < 256)
  | .bulkOpenAck flow code => decide (flow < 2 ^ 32 ∧ code < 2 ^ 32)
  | .bulkAck flow block window checks => decide (flow < 2 ^ 32 ∧ block < 2 ^ 64 ∧ window < 2 ^ 32) && checksOk checks
  | .bulkNak flow _ => decide (flow < 2 ^ 32)
  | .bulkClose flow _ _ => decide (flow < 2 ^ 32)
  | .bulkCloseAck flow code => decide (flow < 2 ^ 32 ∧ code < 2 ^ 32)
  | .ackTimer flow => decide (flow < 2 ^ 32)
  | .resendTimer flow => decide (flow < 2 ^ 32)
  | .bulkFlowTimeout flow => decide (flow < 2 ^ 32)
  | .checkpointSkipped => true
  | .hostLinkUp => true
  | .hostLinkDown => true
  | .decodeStart stand cls => standOk stand && decide (cls < 4)
  | .decodeTurn stand _ _ _ checks => standOk stand && checksOk checks
  | .decodeBudgetExceeded stand _ => standOk stand
  | .outputComplete stand _ checks => standOk stand && checksOk checks
  | .rowWriteComplete stand _ checks => standOk stand && checksOk checks
  | .guardPoint stand _ => standOk stand
  | .admissionDeadline => true
  | .decodeLoad stand video audio text => standOk stand && decide (video < 65536 ∧ audio < 65536 ∧ text < 65536)
  | .gradient m checks => (match m with | some x => msgOk 2 x | none => true) && checksOk checks
  | .contributionDeadline _ => true
  | .normPassComplete checks => checksOk checks
  | .combineUp m => msgOk 6 m
  | .combineDown m => match m with | some x => msgOk 7 x | none => true
  | .applyDescriptorDone _ checks => checksOk checks
  | .withdraw m => msgOk 4 m
  | .shadowCopyDone page checks => pageOk page && checksOk checks
  | .pageDone page checks => pageOk page && checksOk checks
  | .skidDataFrame port f _ => portOk port && frameOk 1 f
  | .skidNak port f => portOk port && frameOk 3 f
  | .idleFrame port f => portOk port && frameOk 0 f
  | .linkControlFrame port f _ _ farPort _ serial _ => portOk port && frameOk 4 f && portOk farPort && decide (serial.length = 16)
  | .skidLinkUp port => portOk port
  | .skidLinkDown port => portOk port
  | .dmaWrite m checks _ => msgOk 1 m && checksOk checks
  | .relayedSyncSignal m => msgOk 3 m
  | .command m => msgOk 5 m
  | .e2eAck m => msgOk 8 m
  | .linkRecord m => msgOk 9 m
  | .faultNotice m => msgOk 10 m
  | .captureRequest m => msgOk 11 m
  | .snapPage m => msgOk 12 m
  | .pair m => msgOk 13 m && decide (m.arg / 2 ^ 56 = 1)
  | .pairAck m => msgOk 13 m && decide (m.arg / 2 ^ 56 = 2)
  | .captureSent m => msgOk 13 m && decide (m.arg / 2 ^ 56 = 3)
  | .held m => msgOk 13 m && decide (m.arg / 2 ^ 56 = 4)
  | .setMember m => msgOk 13 m && decide (m.arg / 2 ^ 56 = 5)
  | .captureRefused m => msgOk 13 m && decide (m.arg / 2 ^ 56 = 6)
  | .restoreRefused m => msgOk 13 m && decide (m.arg / 2 ^ 56 = 7)
  | .restoreRead m => msgOk 14 m
  | .restoreData m => msgOk 15 m
  | .restoreExtentVerified checks => checksOk checks
  | .restoreGoStart q => reqOk q
  | .restoreGoStop q => reqOk q
  | .restoreStep q => reqOk q
  | .windthrowEvaluation => true
  | .environmentRecord => true
  | .flitReplay die module _ => joinOk die module
  | .cxlLinkRetrain port _ _ _ => cxlOk port
  | .cxlLinkDown port _ => cxlOk port
  | .scrubRead cls checks _ => decide (cls < 3) && checksOk checks && checks.all fun c => scrubClass c == cls
  | .scrubBehind cls => decide (cls < 3)
  | .hbmRefreshDue stack => stackOk stack
  | .stackTempRead stack _ => stackOk stack
  | .hbmCalibration stack => stackOk stack
  | .unitKatTest unit _ => sourceOk unit && decide (unit / 512 < 92)
  | .checkerSelfTest checker _ _ => sourceOk checker
  | .wardenLockstep => true
  | .controllerLockstep source => sourceOk source && decide (source / 512 < 99 ∧ ¬(92 ≤ source / 512 ∧ source / 512 < 96))
  | .monitorSample r => r.clocks.all fun c => instOk c.1
  | .powerSample _ => true
  | .thermalDemandUpdate _ _ => true
  | .stretchStepDown inst => instOk inst
  | .pllLockLoss inst _ => instOk inst
  | .standbyRelock inst _ _ => instOk inst
  | .switchOverStart _ _ => true
  | .switchOverComplete => true
  | .returnToMain _ => true
  | .supplyLost _ _ => true
  | .feedBackupLow _ => true
  | .tamper => true
  | .coolantDeltaHigh inlet outlet => decide (inlet < 2 ^ 32 ∧ outlet < 2 ^ 32)
  | .cardChanged card _ => decide (card < 2)
  | .fwCardInstall q => reqOk q
  | .fwInstallComplete _ => true
  | .fwConfirm q => reqOk q
  | .moduleRestart q => reqOk q
  | .lifecycleReturn q => reqOk q
  | .attestNonce q => reqOk q
  | .flashVerify _ => true
  | .beatBoundary => true
  | .announceMessage sender domain identity priority1 clockClass accuracy variance priority2 stepsRemoved logInterval => decide (sender < 2 ^ 80 ∧ -128 ≤ logInterval ∧ logInterval ≤ 127 ∧ domain < 256 ∧ identity < 2 ^ 64 ∧ priority1 < 256 ∧ clockClass < 256 ∧ accuracy < 256 ∧ variance < 65536
      ∧ priority2 < 256 ∧ stepsRemoved < 65536)
  | .routeFlood port module ports => portOk port && decide (module < 65536) && ports.all fun p => portOk p.1
  | .skidPortDown port => portOk port
  | .spineRetrainDone die module _ => joinOk die module
  | .clockSwitchDone inst => instOk inst
  | .icmpEchoRequest target _ => decide (target.length = 16)
  | .neighbourRequest target _ => decide (target.length = 16)
  | .frameDiscarded dgram _ _ => match dgram with | some d => decide (d.length ≤ 9216) | none => true
  | .undefinedOmOp q op => reqOk q && !decide (1 ≤ op ∧ op ≤ 7)

/-- A well-formed command. -/
abbrev WellFormed (i : Instr) : Prop := wellFormed i = true

end Sys2Proof
end

