-- ==== Sys2Proof/Tests/Slice0.lean ====
section
/-! SUPPORT. Tests: each check of `WellFormed` refuses an ill-formed command; small steps on small states; and for every
statement with hypotheses, a state and operands that meet them (witnesses). Expected values come from the spec's rules. -/

namespace Sys2Proof.Tests
open Sys2Proof Sys2Proof.Machine

/-! ### WellFormed: an ill-formed command for each check -/

/-- A request of a host at address 0 with nothing wrong. -/
def req : Req := { addr := List.replicate 16 0#8, session := 0, seq := 1 }
/-- A message of kind `k` with nothing wrong. -/
def msg (k : Nat) : Msg := { port := 0, stamp := 0, source := 0, kind := k, hops := 0, seq := 0, dst := 0, origin := 0, arg := 0, body := [] }
/-- A frame of kind `k` with nothing wrong. -/
def frame (k : Nat) : SkidFrame :=
  { kind := k, cls := 0, first := true, last := true, seq := 0, ack := 0, creditClass := 0, credits := 0, payload := List.replicate 256 0#8, fcrc := 0 }
/-- One read of a line, and one of a half-burst, of zeros. -/
def line0 : LineRead := { data := List.replicate 64 0#8, crc := 0 }
def burst0 : BurstRead := { data := List.replicate 32 0#8, beats := List.replicate 8 0 }
def tier0 : TierRead := { data := List.replicate 64 0#8, crc := 0 }

theorem test_wf_cluster : ¬ WellFormed (.nop 576) ∧ WellFormed (.nop 575) := by decide
theorem test_wf_port : ¬ WellFormed (.skidLinkUp 16) ∧ WellFormed (.skidLinkUp 15) := by decide
theorem test_wf_compute_die : ¬ WellFormed (.limberJobComplete 52 [] []) ∧ WellFormed (.limberJobComplete 51 [] []) := by decide
theorem test_wf_bank : ¬ WellFormed (.bankHandoverComplete 0 64) ∧ WellFormed (.bankPowerTransitionDone 0 63) := by decide
theorem test_wf_diag : ¬ WellFormed (.xaDiagSel 0 12 0) ∧ ¬ WellFormed (.xaDiagCaptureDone 0 12 0 true) ∧ WellFormed (.xaDiagSel 0 11 0) := by decide
theorem test_wf_gate : ¬ WellFormed (.clkGate 52 0) ∧ ¬ WellFormed (.clkGate 0 (2 ^ 32)) ∧ WellFormed (.clkGate 51 0) := by decide
theorem test_wf_spine : ¬ WellFormed (.flitReplay 4 0 false) ∧ ¬ WellFormed (.spineRetrainDone 4 0 false) ∧ WellFormed (.flitReplay 0 0 false) := by decide
theorem test_wf_stand : ¬ WellFormed (.decodeStart 8 0) ∧ ¬ WellFormed (.decodeStart 0 4) ∧ WellFormed (.decodeStart 7 3) := by decide
theorem test_wf_load : ¬ WellFormed (.decodeLoad 0 65536 0 0) ∧ WellFormed (.decodeLoad 7 65535 0 0) := by decide
theorem test_wf_stack : ¬ WellFormed (.hbmRefreshDue 32) ∧ WellFormed (.hbmCalibration 31) ∧ ¬ WellFormed (.stackTempRead 32 0) := by decide
theorem test_wf_cxl : ¬ WellFormed (.cxlLinkDown 2 0) ∧ WellFormed (.cxlLinkRetrain 1 0 2 16) := by decide
theorem test_wf_inst : ¬ WellFormed (.stretchStepDown 57) ∧ ¬ WellFormed (.pllLockLoss 57 true) ∧ WellFormed (.clockSwitchDone 56) := by decide
theorem test_wf_source : ¬ WellFormed (.controllerLockstep 65536) ∧ ¬ WellFormed (.unitKatTest 65536 true) ∧ WellFormed (.checkerSelfTest 65535 false true) := by decide
theorem test_wf_page : ¬ WellFormed (.shadowCopyDone 786432 []) ∧ WellFormed (.pageDone 786431 []) := by decide
theorem test_wf_check : WellFormed (.pageDone 0 [.sram 51 0 0 [line0]]) ∧ ¬ WellFormed (.pageDone 0 [.sram 52 0 0 [line0]])
    ∧ WellFormed (.pageDone 0 [.sram 97 0x78 0 [line0]]) ∧ ¬ WellFormed (.pageDone 0 [.sram 0 0 0 []])
    ∧ ¬ WellFormed (.pageDone 0 [.hbm 16 [burst0]]) ∧ ¬ WellFormed (.pageDone 0 [.hbm 0 [{ burst0 with beats := [0] }]])
    ∧ ¬ WellFormed (.pageDone 0 [.cxl 2 0 0 [tier0]]) ∧ ¬ WellFormed (.pageDone 0 [.cxl 0 2 0 [tier0]])
    ∧ ¬ WellFormed (.pageDone 0 [.ecc 32 0]) ∧ ¬ WellFormed (.pageDone 0 [.parity 65536]) := by decide
theorem test_wf_loads : ¬ WellFormed (.boundLoadMemory 0 (some [.ecc 32 0])) ∧ WellFormed (.boundLoadMemory 0 none)
    ∧ ¬ WellFormed (.maskBitmap 576 none) := by decide
theorem test_wf_scrub : ¬ WellFormed (.scrubRead 3 [] true) ∧ ¬ WellFormed (.scrubRead 0 [.ecc 0 1] true) ∧ WellFormed (.scrubRead 1 [.ecc 0 1] true) ∧ ¬ WellFormed (.scrubBehind 3) ∧ WellFormed (.scrubBehind 2) := by decide
theorem test_wf_request : WellFormed (.read req) ∧ ¬ WellFormed (.read { req with addr := [] }) ∧ ¬ WellFormed (.read { req with session := 2 ^ 32 })
    ∧ ¬ WellFormed (.read { req with seq := 2 ^ 32 }) ∧ ¬ WellFormed (.read { req with index := 65536 }) ∧ ¬ WellFormed (.read { req with sub := 256 })
    ∧ ¬ WellFormed (.read { req with offset := 2 ^ 32 }) := by decide
theorem test_wf_undefined_op : ¬ WellFormed (.undefinedOmOp req 7) ∧ WellFormed (.undefinedOmOp req 8) := by decide
theorem test_wf_message : WellFormed (.dmaWrite (msg 1) [] []) ∧ ¬ WellFormed (.dmaWrite (msg 2) [] []) ∧ ¬ WellFormed (.dmaWrite { msg 1 with port := 16 } [] [])
    ∧ ¬ WellFormed (.withdraw { msg 4 with hops := 16 }) := by decide
theorem test_wf_partner_message : ¬ WellFormed (.pair (msg 13)) ∧ WellFormed (.pair { msg 13 with arg := 2 ^ 56 })
    ∧ ¬ WellFormed (.held { msg 13 with arg := 2 ^ 56 }) := by decide
theorem test_wf_frame : WellFormed (.idleFrame 0 (frame 0)) ∧ ¬ WellFormed (.idleFrame 0 (frame 1)) ∧ ¬ WellFormed (.skidNak 0 { frame 3 with seq := 4096 })
    ∧ ¬ WellFormed (.skidDataFrame 0 { frame 1 with payload := [] } 0) := by
  simp [WellFormed, wellFormed, frameOk, portOk, frame, -List.reduceReplicate]
theorem test_wf_link_control : ¬ WellFormed (.linkControlFrame 0 (frame 4) 0 0 16 0 (List.replicate 16 0#8) 0)
    ∧ ¬ WellFormed (.linkControlFrame 0 (frame 4) 0 0 0 0 [] 0) ∧ ¬ WellFormed (.linkControlFrame 0 (frame 1) 0 0 0 0 (List.replicate 16 0#8) 0) := by
  simp [WellFormed, wellFormed, frameOk, portOk, frame, -List.reduceReplicate]
theorem test_wf_stage : ¬ WellFormed (.startStageDone (.rom 4 true)) ∧ WellFormed (.startStageDone (.rom 3 true))
    ∧ ¬ WellFormed (.startStageDone (.tests [100] [])) ∧ ¬ WellFormed (.startStageDone (.tests [] [⟨4, 0, true, 1⟩])) ∧ WellFormed (.startStageDone (.tests [99] [⟨0, 0, true, 72⟩]))
    ∧ ¬ WellFormed (.startStageDone (.links [⟨2, 0, 16, 2, 0⟩])) := by decide
theorem test_wf_log_interval : ¬ WellFormed (.sourceUpdate 0 128) ∧ WellFormed (.sourceUpdate 0 (-128)) := by decide
theorem test_wf_beat_mark : ¬ WellFormed (.beatMark 0 (frame 1)) ∧ ¬ WellFormed (.beatMark 16 (frame 2)) ∧ WellFormed (.beatMark 0 (frame 2)) := by
  simp [WellFormed, wellFormed, frameOk, portOk, frame, -List.reduceReplicate]
theorem test_wf_window : ¬ WellFormed (.phaseWindowStart 0 6) ∧ ¬ WellFormed (.phaseWindowEnd (2 ^ 64) 0 []) ∧ WellFormed (.phaseWindowEnd 0 5 []) := by decide
theorem test_wf_row : ¬ WellFormed (.drainRowWrite 0 (some 128) []) ∧ WellFormed (.drainRowWrite 0 (some 127) []) := by decide
theorem test_wf_kat : ¬ WellFormed (.katCheckComplete 0 0 (some (0, 128))) ∧ ¬ WellFormed (.katCheckComplete 0 (2 ^ 64) none) := by decide
theorem test_wf_bulk : ¬ WellFormed (.bulkData (2 ^ 32) 0 [] 0 {}) ∧ ¬ WellFormed (.bulkData 0 (2 ^ 64) [] 0 {}) ∧ ¬ WellFormed (.bulkData 0 0 [] (2 ^ 32) {})
    ∧ ¬ WellFormed (.bulkOpen [] 0 0 0) ∧ ¬ WellFormed (.bulkOpenAck 0 (2 ^ 32)) ∧ ¬ WellFormed (.bulkCloseAck (2 ^ 32) 0)
    ∧ ¬ WellFormed (.ackTimer (2 ^ 32)) := by decide
theorem test_wf_flow : ¬ WellFormed (.bulkAck (2 ^ 32) 0 0 []) ∧ ¬ WellFormed (.bulkNak (2 ^ 32) []) ∧ ¬ WellFormed (.bulkClose (2 ^ 32) 0 {})
    ∧ ¬ WellFormed (.resendTimer (2 ^ 32)) ∧ ¬ WellFormed (.bulkFlowTimeout (2 ^ 32)) := by decide
theorem test_wf_card : ¬ WellFormed (.cardChanged 2 []) ∧ ¬ WellFormed (.coolantDeltaHigh (2 ^ 32) 0) := by decide
theorem test_wf_monitor : ¬ WellFormed (.monitorSample { main := 48000, backup := 48000, clocks := [(57, 0)] }) := by decide
theorem test_wf_announce : ¬ WellFormed (.announceMessage 0 256 0 0 0 0 0 0 0 0) ∧ ¬ WellFormed (.announceMessage 0 0 0 0 0 0 65536 0 0 0)
    ∧ ¬ WellFormed (.announceMessage (2 ^ 80) 0 0 0 0 0 0 0 0 0) ∧ ¬ WellFormed (.announceMessage 0 0 0 0 0 0 0 0 0 128) := by decide
theorem test_wf_flood : ¬ WellFormed (.routeFlood 0 0 [(16, 0)]) ∧ ¬ WellFormed (.routeFlood 0 65536 []) := by decide
theorem test_wf_address : ¬ WellFormed (.sequenceEntryExpiry []) ∧ ¬ WellFormed (.sessionIdleTimeout (2 ^ 32)) ∧ ¬ WellFormed (.applySafePoint 65536) := by decide

/-! ### Witnesses: the machine and management requests

Each theorem shows a state and operands that meet the hypotheses of the statement it is named after, clause by clause. -/

/-- A host address. -/
def host1 : Bytes := List.replicate 16 0#8
/-- An open session of a host. -/
def sess1 : Session := { id := 1, slot := 0, addr := host1, opened := 0, last := 0, lastCycle := 0 }
/-- A module with one open session. -/
def open1 : State := { State.reset with host := { sessions := [sess1] } }
/-- A response that a module has kept. -/
def resp (n : Nat) : Response := ⟨host1, 1, n, 1, 0, 0, 0, true, []⟩
/-- The module of `open1` after request 5, and another of request 3. -/
def open5 : State := { open1 with host := { open1.host with seqs := [⟨1, host1, 5, [resp 3, resp 5], 0⟩] } }
/-- A request of that session. -/
def reqS (n : Nat) : Req := { addr := host1, session := 1, seq := n }
/-- A whole write of that session. -/
def wr (index sub : Nat) (data : Bytes) : Req := { addr := host1, session := 1, seq := 6, index := index, sub := sub, data := data }

/-- With nothing of its sender kept, a request is fresh. -/
theorem fresh_of {s : State} {q : Req} (h : Serving s) (f : q.full = false) (n : (s.hearing q).seqEntry (s.sid q) q.addr = none) : Fresh s q :=
  ⟨h, f, fun e he => by rw [n] at he; cases he⟩
/-- With no sequence state kept, none is found for a request. -/
theorem hearing_none (s : State) (q : Req) (h : s.host.seqs = []) (k : Nat) (a : Bytes) : (s.hearing q).seqEntry k a = none := by
  have e : (s.rxFrame.executing q).host.seqs = [] := by unfold State.executing; split <;> exact h
  have e2 : (s.hearing q).host.seqs = [] := by
    unfold State.hearing State.seqHeard
    have : (s.rxFrame.executing q).seqEntry (s.sid q) q.addr = none := by unfold State.seqEntry; rw [e]; rfl
    rw [this]; exact e
  unfold State.seqEntry; rw [e2]; rfl
/-- A frame with its own `FCRC` passes the check; one with another does not. -/
theorem seal_ok (f : SkidFrame) : crcOk (sealFrame f) = true := decide_eq_true rfl
theorem unsealed (f : SkidFrame) : crcOk { sealFrame f with fcrc := frameCrc f + 1 } = false :=
  decide_eq_false (show ¬ frameCrc f + 1 = frameCrc f from Nat.succ_ne_self _)
theorem open1_fresh (n : Nat) : Fresh open1 (reqS n) := fresh_of ⟨rfl, by decide, rfl⟩ rfl rfl
theorem open1_write (index sub : Nat) (d : Bytes) : Fresh open1 (wr index sub d) ∧ InSession open1 (wr index sub d) :=
  ⟨fresh_of ⟨rfl, by decide, rfl⟩ rfl rfl, Nat.one_ne_zero⟩

theorem witness_IdleStepIsOneCycle : State.reset.pending = [] := rfl
theorem reset_inv : Inv State.reset := by
  refine ⟨rfl, ⟨by decide, by decide, by decide⟩, ⟨by decide, by decide⟩, ?_, ?_, ⟨by decide, ?_⟩, ⟨by decide, by decide⟩⟩
  · intro h; cases h
  · intro e h; cases h
  · intro p h; cases h
theorem witness_EveryStepKeepsTheInvariant : ∃ t, step State.reset = .next t ∧ Inv State.reset := ⟨_, rfl, reset_inv⟩
theorem witness_CommandsOnlyAddToTheRecord : ∃ t, exec .beatOverflow State.reset = .next t := ⟨_, rfl⟩
theorem witness_CommandsChangeOnlyTheirParts : ∃ t, exec (.pllLockLoss 0 false) State.reset = .next t := ⟨_, rfl⟩
theorem witness_BytesReadBackAsWritten : Memory.wf [(3, 7#8)] = true ∧ Memory.wf [] = true := by decide

theorem witness_RequestNumbersAreServedOnce :
    open5.deaf = false ∧ ({ reqS 5 with full := true } : Req).full = true ∧ (reqS 5).full = false
      ∧ (open5.hearing (reqS 5)).seqEntry (open5.sid (reqS 5)) host1 = some ⟨1, host1, 5, [resp 3, resp 5], 0⟩
      ∧ [resp 3, resp 5].find? (fun r => r.seq = (reqS 5).seq) = some (resp 5)
      ∧ (∀ r ∈ [resp 3, resp 5], r.seq ≠ (reqS 4).seq) ∧ serialLater 5 (reqS 4).seq = false := by
  refine ⟨by decide, rfl, rfl, by decide, rfl, by decide, by decide⟩
theorem witness_SessionRequestsComplete : Fresh open5 (reqS 6) ∧ InSession open5 (reqS 6) ∧ ¬(1 ≤ 0 ∧ 0 ≤ 7) ∧ ¬(1 ≤ 8 ∧ 8 ≤ 7) := by
  refine ⟨⟨⟨rfl, by decide, rfl⟩, rfl, fun e he => ?_⟩, Nat.one_ne_zero, by decide, by decide⟩
  have : e = ⟨1, host1, 5, [resp 3, resp 5], 0⟩ := (Option.some.inj he).symm
  subst this; exact ⟨by decide, by decide⟩
theorem witness_SessionlessRequestsComplete : Fresh State.reset req := fresh_of ⟨rfl, by decide, rfl⟩ rfl rfl
/-- A request to open a session, with the nonce of number 0. -/
def openReq : Req := { req with data := [0#8, 0#8, 0#8, 0#8] ++ padTo 32 (Config.nonce 0) ++ List.replicate 3309 0#8 }
/-- A module with an operator key and an outstanding nonce that is 10 s old. -/
def keyed : State :=
  { State.reset with
    tally := { rw := [(objKey 0x1030 1, List.replicate 1952 0#8)] }
    host := { nonces := [(0, 0)], nextNonce := 1 }
    time := { cycles := 10 * secCycles } }
theorem padTo_length (n : Nat) (b : Bytes) : (padTo n b).length = n := by unfold padTo; simp; omega
theorem witness_SessionOpenVerifiesTheNonce :
    Fresh keyed openReq ∧ openReq.data.length = 3345 ∧ keyed.host.sessions.length < 4 ∧ fieldAt openReq.data 0 1 < 8
      ∧ (keyed.operatorKey 0).length = 1952
      ∧ keyed.host.nonces.find? (fun m => padTo 32 (Config.nonce m.1) = slice openReq.data 4 32) = some (0, 0)
      ∧ keyed.time.cycles ≤ 0 + 10 * secCycles := by
  have hs : slice openReq.data 4 32 = padTo 32 (Config.nonce 0) := by
    unfold slice openReq
    simp [padTo_length, -List.reduceReplicate]
  refine ⟨fresh_of ⟨rfl, by decide, rfl⟩ rfl rfl, ?_, by decide, by decide, ?_, ?_, by decide⟩
  · unfold openReq; simp [padTo_length, -List.reduceReplicate]
  · unfold State.operatorKey keyed; simp [-List.reduceReplicate]
  · rw [hs]; show List.find? _ [(0, 0)] = _; simp

/-! ### Witnesses: values, applies, timers, the host port -/

theorem witness_ReadsReturnTheValue :
    -- SERIAL_NUMBER and WINDTHROW_THRESHOLD; the first and the last subindex of LOGICAL_DIE_MAP
    ((objAt 0x1000 4).isSome = true ∧ readFree 0x1000 = true) ∧ ((objAt 0x8100 2).isSome = true ∧ readFree 0x8100 = false)
      ∧ (objAt 0x1010 0x30).isSome = true ∧ (objAt 0x1010 0x31).isSome = false
      ∧ (∀ o, objAt 0x8100 2 = some o → o.access ≠ .wo)
      ∧ Fresh open1 (wr 0x8100 2 []) ∧ InSession open1 (wr 0x8100 2 [])
      ∧ reqIs (wr 0x8100 2 []) 0xF000 3 = false ∧ reqIs (wr 0x8100 2 []) 0xA010 0 = false
      ∧ Fresh State.reset { req with index := 0x1000, sub := 4 } ∧ Fresh State.reset { req with index := 0xA010, sub := 0 } := by
  refine ⟨by decide, by decide, by decide, by decide, ?_, (open1_write _ _ _).1, (open1_write _ _ _).2, by decide, by decide,
    fresh_of ⟨rfl, by decide, rfl⟩ rfl rfl, fresh_of ⟨rfl, by decide, rfl⟩ rfl rfl⟩
  intro o h
  have : objAt 0x8100 2 = some ⟨0x8100, 0x8100, 2, 2, "WINDTHROW_THRESHOLD", .u16, .rw, true, false, 40000⟩ := by decide
  rw [this] at h; cases h; decide

/-- What a whole write of an object of `n` bytes must meet. -/
def writable (index sub n : Nat) (data : Bytes) (access : Access) (ok : Bool) : Bool :=
  (match objAt index sub with
    | some o => o.type.size == some n && o.access == access && !(open1.writeForbidden index o)
    | none => false)
    && (writeOwn (wr index sub data) open1).isNone && rangeOk index sub data == ok && decide (data.length = n) && index != 0xB040
theorem witness_WritesSetTheValue :
    -- FEED_RETURN at its bound and beyond it, TIME_SOURCE at its bound and beyond it, PTP_DOMAIN
    writable 0x9001 0 1 (u8 1) .rw true = true ∧ writable 0x9001 0 1 (u8 2) .rw false = true
      ∧ writable 0x7000 1 1 (u8 1) .rws true = true ∧ writable 0x7000 1 1 (u8 2) .rws false = true
      ∧ writable 0x7000 3 1 (u8 127) .rws true = true ∧ writable 0x7000 3 1 (u8 128) .rws false = true
      ∧ Fresh open1 (wr 0x9001 0 (u8 1)) ∧ InSession open1 (wr 0x9001 0 (u8 1)) := by
  refine ⟨by decide, by decide, by decide, by decide, by decide, by decide, (open1_write _ _ _).1, (open1_write _ _ _).2⟩

/-- A module whose `DIAG_REG_ADDR` names a register. -/
def diag1 (a : Nat) : State := { open1 with tally := { rw := [(objKey 0xF000 1, u64 a)] } }
/-- A module with a job in its fault state and an operator key. -/
def jobKeyed : State := { open1 with job := { state := .fault }, tally := { rw := [(objKey 0x1030 2, List.replicate 1952 0#8)] } }
theorem witness_StoredValuesComplete :
    -- a key in a session, none, and a key of a wrong length; a write while a job is loaded; the first key without a session
    (∀ d : Bytes, d.length ≤ 4096 → Fresh open1 (wr 0x1030 8 d) ∧ InSession open1 (wr 0x1030 8 d)) ∧ open1.job.state = .empty ∧
    (Fresh (jobKeyed) (wr 0x1030 1 []) ∧ InSession jobKeyed (wr 0x1030 1 []) ∧ jobKeyed.job.state ≠ .empty ∧ jobKeyed.noKeys = false) ∧
    (Fresh State.reset { req with index := 0x1030, sub := 1, data := List.replicate 1952 0#8 } ∧ State.reset.noKeys = true) ∧
    -- a register that may be written, one that may not, and none
    (∀ a, Fresh (diag1 a) (wr 0xF000 3 (u64 5)) ∧ InSession (diag1 a) (wr 0xF000 3 (u64 5)) ∧ WholeWrite (wr 0xF000 3 (u64 5)) 0xF000 3 8) ∧
    (let s := diag1 0x2000_0000_0440; (s.regRead s.diagAddr s.diagSize).isSome = true ∧ (s.regWrite s.diagAddr s.diagSize 5).isSome = true) ∧
    (let s := diag1 0x2000_0000_0410; (s.regRead s.diagAddr s.diagSize).isSome = true ∧ s.regWrite s.diagAddr s.diagSize 5 = none) ∧
    (let s := diag1 0; s.regRead s.diagAddr s.diagSize = none) ∧
    -- a changed value, with a write of flash that succeeds and one that fails
    (({ State.reset.start with dirty := [objKey 0x9001 0] } : Startup).dirty ≠ [] ∧ ({} : FlashReport).ok = true ∧ ({ ok := false } : FlashReport).ok = false) := by
  refine ⟨fun d _ => open1_write _ _ _, rfl, ⟨⟨⟨rfl, by decide, rfl⟩, rfl, fun e he => ?_⟩, ?_, by decide, by decide⟩,
    ⟨fresh_of ⟨rfl, by decide, rfl⟩ rfl (hearing_none _ _ rfl _ _), by decide⟩,
    fun a => ⟨fresh_of ⟨rfl, by show 9 ≤ 9; decide, rfl⟩ rfl (hearing_none _ _ rfl _ _), ?_, rfl, rfl, rfl, rfl, by decide⟩, by decide, by decide, by decide, by decide⟩
  · rw [hearing_none _ _ rfl] at he; cases he
  · exact Nat.one_ne_zero
  · exact Nat.one_ne_zero

/-- A captured apply of PTP_DOMAIN 1 at beat 0. -/
def timeApply : PendApply := ⟨0x7000, 0, [(objKey 0x7000 1, u8 0), (objKey 0x7000 2, u8 0), (objKey 0x7000 3, u8 1), (objKey 0x7000 4, u8 1), (objKey 0x7000 5, u8 0)]⟩
/-- A module with it pending, one beat later. -/
def staged : State := { State.reset with tally := { pendingApply := [timeApply] }, time := { counter := 2 ^ 48 } }
theorem witness_AppliesAreStagedThenTaken :
    (isGroup 0x7000 = true ∧ Fresh open1 (wr 0x7000 0xFF (u32 0)) ∧ InSession open1 (wr 0x7000 0xFF (u32 0))
      ∧ leNat (u32 0) = sget 0 open1.tally.gen 0x7000 ∧ open1.groupCheck (open1.capture 0x7000) = 0)
      ∧ leNat (u32 1) ≠ sget 0 open1.tally.gen 0x7000
      ∧ (staged.pendingOf 0x7000 = some timeApply ∧ atBoundary 0x7000 = true ∧ staged.beat ≠ timeApply.beat ∧ staged.groupCheck timeApply = 0) := by
  refine ⟨⟨by decide, (open1_write _ _ _).1, (open1_write _ _ _).2, by decide, by decide⟩, by decide, by decide, by decide, by decide, by decide⟩

/-- `open1` with a lockout, `c` cycles after reset. -/
def later (c : Nat) : State := { open1 with time := { cycles := c }, host := { open1.host with lockedUntil := some secCycles } }
theorem witness_HostTimersExpire :
    (later (300 * secCycles)).host.sessions.find? (fun x => x.id = 1) = some sess1 ∧ sess1.lastCycle + 300 * secCycles ≤ (later (300 * secCycles)).time.cycles
      ∧ (later (300 * secCycles - 1)).time.cycles < sess1.lastCycle + 300 * secCycles
      ∧ (later secCycles).host.lockedUntil = some secCycles ∧ secCycles ≤ (later secCycles).time.cycles
      ∧ (later (secCycles - 1)).time.cycles < secCycles := by
  refine ⟨rfl, by decide, by decide, rfl, by decide, by decide⟩
theorem witness_HostPortFramesComplete :
    State.reset.start.wardenHeld = false ∧ State.reset.host.linkState ≠ 2 ∧ ({ State.reset.host with linkState := 2 } : HostPort).linkState = 2 := by decide

/-- A module with a capture under way on the last cluster of the last die in service, at its last element of tile T1, and with
`q` in the array. -/
def capturing (q : List PassOp) (sel : Nat := 0x17F7F) : State := { State.reset with clusters := [(575, { diagSel := sel, diagBusy := true, arrayQ := q })] }
/-- A matrix pass of 4 K steps on a tile. -/
def passOn (t : Nat) : PassOp := { n := 0, kind := .matrix, tile := t, word := 0, m := 1, nn := 1, k := 4, step := 0, idx := 0 }
theorem witness_DiagnosticsComplete :
    (State.reset.clusterAt 0 0 = some 0 ∧ State.reset.clusterAt 47 11 = some 575)
      -- the array empty, a pass on the tile of the capture, a pass on the other tile, a row outside the array
      ∧ ((capturing []).clusterAt 47 11 = some 575 ∧ ((capturing []).cl 575).diagBusy = true ∧ ((capturing []).cl 575).inPipe = none)
      ∧ (((capturing [passOn 1]).cl 575).inPipe = some (passOn 1) ∧ (passOn 1).tile = bitsOf 0x17F7F 16 16)
      ∧ (((capturing [passOn 0]).cl 575).inPipe = some (passOn 0) ∧ (passOn 0).tile ≠ bitsOf 0x17F7F 16 16)
      ∧ 127 < bitsOf ((capturing [] 0x8000).cl 575).diagSel 15 8
      -- a gate of a cluster that is in use, and gates that may change
      ∧ (47 ∈ State.reset.start.dieMap ∧ ({ capturing [] with power := { gates := [(47, { die := false, regions := 0, clusters := 0 })] } } : State).gateRefused 47 0x800 = true ∧ State.reset.gateRefused 47 0xFFFFF = false
        ∧ State.reset.gateRefused 47 0 = false) := by
  decide

/-! ### Witnesses: time -/

/-- A module with this time engine. -/
def timed (t : TimeEngine) : State := { State.reset with time := t }
theorem witness_SourceUpdatesSteerTheBeat :
    -- each state of the engine; an offset of 32 beats and one more; 1/16 beat and one more; the sixteenth update in a row
    (timed {}).time.state = .unlocked ∧ (timed { state := .lost }).time.state = .lost
      ∧ (2097152 < (2097153 : Int).natAbs ∧ (timed { state := .locked }).time.state = .locked)
      ∧ (2097152 < (-2097153 : Int).natAbs ∧ (timed { state := .acquiring, everLocked := true }).time.state = .acquiring)
      ∧ ((2097152 : Int).natAbs ≤ 2097152 ∧ (0 : Int) < 2097152 ∧ (-2097152 : Int) < 0)
      ∧ ((4096 : Int).natAbs ≤ 4096 ∧ 4096 < (4097 : Int).natAbs)
      ∧ ((timed { state := .acquiring, lockCount := 14 }).time.lockCount < 15 ∧ (timed { state := .acquiring, lockCount := 15 }).time.lockCount = 15)
      ∧ State.reset.start.wardenHeld = false := by decide
theorem witness_SilenceAndHoldoverEndLock :
    ((timed { state := .locked, cycles := 3200000000 }).time.silent = true ∧ (timed { state := .acquiring, cycles := 3200000000 }).time.silent = true
      ∧ (timed { state := .locked, cycles := 3199999999 }).time.silent = false)
      ∧ 10 * secCycles ≤ (timed { state := .holdover, holdover := 10 * secCycles }).time.holdover
      ∧ counterEnd ≤ (timed { counter := counterEnd - 0xA000000000 }).time.counter + (timed {}).time.freqWord := by decide
/-- A module with the last skid port up. -/
def port15 : State := { State.reset with skid := [(15, { state := .up })], time := { counter := 7 * 2 ^ 48, peerSkew := [(15, 63)] } }
theorem witness_BeatsAreMarkedAndCompared :
    ((port15.port 15).state = .up ∧ (port15.port 14).state ≠ .up ∧ port15.active 0x7000 1 0 ≠ 1
      ∧ crcOk (sealFrame (frame 2)) = true ∧ crcOk { sealFrame (frame 2) with fcrc := frameCrc (frame 2) + 1 } = false)
      -- a peer that far away makes this the 64th wide beat in a row
      ∧ (16384 < (((port15.stamp : Int) - fieldAt (sealFrame (frame 2)).payload 0 8 - (port15.port 15).delay).natAbs) ∧ sget 0 port15.time.peerSkew 15 + 1 = 64)
      -- a module that takes its time from port 0
      ∧ (let s : State := { port15 with tally := { active := [(objKey 0x7000 1, u8 1)] } }; s.active 0x7000 1 0 = 1 ∧ s.active 0x7000 2 0 = 0)
      ∧ ((port15.beat + 1) * 2 ^ 48 < counterEnd ∧ port15.time.counter < counterEnd ∧ nominalWord - wordSpan ≤ port15.time.freqWord)
      -- a domain that is listened to, one that is not; a sender silent for its three intervals and one silent for longer
      ∧ (0 = State.reset.active 0x7000 3 0 ∧ 1 ≠ State.reset.active 0x7000 3 0)
      ∧ (3 * announceInterval 0 ≤ 0 + 3 * (announceInterval 0) ∧ ¬ 3 * announceInterval 0 + 1 ≤ 0 + 3 * announceInterval 0)
      -- of two senders of one grandmaster the one nearer to it goes first
      ∧ listLt [128, 6, 0, 0, 128, 7, 1, 2] [128, 6, 0, 0, 128, 7, 2, 1] = true := by
  refine ⟨⟨by decide, by decide, by decide, seal_ok _, unsealed _⟩, ?_, by decide, by decide, by decide, by decide, by decide⟩
  refine ⟨?_, by decide⟩
  show 16384 < (((port15.stamp : Int) - fieldAt (List.replicate 256 0#8) 0 8 - (port15.port 15).delay).natAbs)
  decide

/-! ### Witnesses: the job -/

/-- A plan without streams: windows of 1,000 beats from beat 0, steps of 20,000 beats, a sync object that resets to 3 and one that does not. -/
def plan0 : Plan :=
  { planId := 1, jobId := 1, setDigest := [], imageDigest := [], moduleIndex := 0, moduleCount := 1, leadSteps := 1, stepBeats := 20000,
    phaseStart := [-1000, 0, 1000, 2000, 3000, 4000], phaseEnd := [-10, 1000, 2000, 3000, 4000, 5000], katPeriod := 100, planArea := (0, 0),
    staging := (0, 0), dieMask := [], streams := [], dma := [], sync := [⟨1, true, 3, 5⟩, ⟨2, false, 4, 5⟩], stash := [], updates := [],
    classes := [], peers := [], ingest := [] }
/-- A module with a job, at a beat, and with one open session. -/
def jobbed (j : Job) (beat : Nat) (rw : List (Nat × Bytes) := []) : State :=
  { open1 with job := { j with plan := some plan0 }, time := { state := .locked, counter := beat * 2 ^ 48 }, tally := { rw := rw }, net := { graph := [(0, [])] } }
/-- `JOB_COMMAND` `c` with `COMMAND_BEAT` `b`. -/
def cmd (state : JobState) (b : Nat) : State := jobbed { state := state } 100 [(objKey 0x2000 2, u64 b)]
theorem jobbed_fresh (j : Job) (b : Nat) (rw : List (Nat × Bytes)) (q : Req) (h : q.addr = host1 ∧ q.session = 1 ∧ q.full = false) :
    Fresh (jobbed j b rw) q ∧ InSession (jobbed j b rw) q := by
  have e : (jobbed j b rw).sid q = 1 := by unfold State.sid; rw [h.1, h.2.1]; rfl
  refine ⟨fresh_of ⟨rfl, by show 9 ≤ 9; decide, rfl⟩ h.2.2 (hearing_none _ _ rfl _ _), ?_⟩
  · unfold InSession; rw [e]; decide

theorem witness_PlansLoadOrFail :
    (Fresh open1 (wr 0x2000 4 (u8 7)) ∧ InSession open1 (wr 0x2000 4 (u8 7))) ∧ (leNat (u8 7) ≤ 7 ∧ open1.job.loading = none ∧ open1.host.flows = [])
      ∧ open1.job.state = .empty
      ∧ (({ open1 with job := { loading := some 3 } } : State).job.loading = some 3 ∧ open1.start.wardenHeld = false
        -- an empty slot
        ∧ ({ open1 with job := { loading := some 3 } } : State).planReason [] = 16) := by
  refine ⟨open1_write _ _ _, by decide, rfl, rfl, rfl, ?_⟩
  decide
theorem witness_JobCommandsArmStopAndUnload :
    (∀ d, Fresh (cmd .loaded 21124) (wr 0x2000 1 d) ∧ InSession (cmd .loaded 21124) (wr 0x2000 1 d)) ∧
    -- the nearest beat that START may name, and one nearer
    ((cmd .loaded 21124).job.plan = some plan0 ∧ (cmd .loaded 21124).job.state = .loaded ∧ (cmd .loaded 21124).snap.restore.state = 0
      ∧ (cmd .loaded 21124).beatAhead (plan0.leadSteps * plan0.stepBeats + 1024) = true
      ∧ (cmd .loaded 21123).beatAhead (plan0.leadSteps * plan0.stepBeats + 1024) = false ∧ (cmd .loaded 21124).usedPorts = []) ∧
    ((cmd .armed 0).job.state = .armed ∧ (cmd .running 0).job.state = .running ∧ (cmd .paused 0).job.state = .paused) ∧
    ((cmd .stopped 0).job.state = .stopped ∧ (cmd .fault 0).job.state = .fault) := by
  refine ⟨fun d => jobbed_fresh _ _ _ _ ⟨rfl, rfl, rfl⟩, by decide, by decide, by decide⟩
/-- A loaded job with a neighbour behind port 3 that says the same of itself. -/
def loadedPeer : State :=
  { cmd .loaded 21124 with
    job := { state := .loaded, plan := some { plan0 with peers := [⟨false, 0⟩, ⟨false, 0⟩, ⟨false, 0⟩, ⟨true, 5⟩] } }
    skid := [(3, { state := .up, farKnown := true, farModule := 5, farJob := 1 })] }
theorem witness_JobCommandsArmStopAndUnload_peers :
    (∀ n ∈ loadedPeer.usedPorts, (loadedPeer.port n).state = .up ∧ (loadedPeer.port n).farKnown = true ∧ (loadedPeer.port n).farModule = (loadedPeer.peer n).module
        ∧ (loadedPeer.port n).farJob = loadedPeer.jobId ∧ (loadedPeer.port n).farDigest = loadedPeer.setDigest)
      ∧ loadedPeer.usedPorts = [3] ∧ loadedPeer.snap.restore.state ∉ [1, 3, 4] ∧ loadedPeer.snap.restore.state ≠ 2
      ∧ loadedPeer.stamp + (1 * 20000 + 1024) * 2 ^ 16 ≤ loadedPeer.commandBeat * 2 ^ 16 := by decide
theorem witness_PausesFreezePlanTime :
    (∀ d, Fresh (cmd .running 1124) (wr 0x2000 1 d) ∧ InSession (cmd .running 1124) (wr 0x2000 1 d)) ∧
    (∀ d, Fresh (cmd .paused 1124) (wr 0x2000 1 d) ∧ InSession (cmd .paused 1124) (wr 0x2000 1 d)) ∧
    ((cmd .running 1124).beatAhead 1024 = true ∧ (cmd .running 1123).beatAhead 1024 = false ∧ (cmd .paused 1124).beatAhead 1024 = true
      ∧ (cmd .running 1124).job.pendingPause = none) ∧
    -- within the passes, and at their end
    ((cmd .running 1124).inPasses 1999 = true ∧ (cmd .running 1124).inPasses 2000 = false) ∧
    (let s := jobbed { state := .running, pendingPause := some ⟨true, 100⟩ } 100;
      s.job.pendingPause = some ⟨true, 100⟩ ∧ 100 * 2 ^ 16 ≤ s.stamp ∧ s.commandsAgree = true) ∧
    (let s := jobbed { state := .running, pendingPause := some ⟨false, 100⟩, begun := some 0, steps := [(0, { ended := 63 })] } 100;
      s.stepDone = true ∧ s.commandsAgree = true) ∧
    (let s := jobbed { state := .paused, resumeAt := some 100, frozenAt := some 50 } 100;
      s.job.resumeAt = some 100 ∧ s.job.frozenAt = some 50 ∧ 100 * 2 ^ 16 ≤ s.stamp ∧ s.commandsAgree = true ∧ s.job.stopping = false) := by
  refine ⟨fun d => jobbed_fresh _ _ _ _ ⟨rfl, rfl, rfl⟩, fun d => jobbed_fresh _ _ _ _ ⟨rfl, rfl, rfl⟩, by decide, by decide, by decide, by decide, by decide⟩

/-- A job whose first step is in progress: windows `opened` and `ended`. -/
def inStep (beat opened ended : Nat) (r : StepRec := {}) : State :=
  jobbed { state := .running, startBeat := 1000, begun := some 0, steps := [(0, { r with opened := opened, ended := ended })] } beat
theorem witness_StepsAndWindowsBegin :
    (let s := jobbed { state := .armed, startBeat := 1000 } 1000;
      s.job.state = .armed ∧ s.startChecks = none ∧ s.job.stopping = false ∧ s.job.pendingPause = none
        ∧ s.stepBegin s.nextStep * 2 ^ 16 ≤ s.planNow ∧ s.stepDone = true ∧ s.sync.held = []) ∧
    (let s := inStep 21000 63 63;
      s.job.state = .running ∧ s.nextStep = 1 ∧ s.stepBegin s.nextStep * 2 ^ 16 ≤ s.planNow ∧ s.stepDone = true) ∧
    -- the ADMIT window before the first step, and the five others at their first beat; one beat before none
    (jobbed { state := .armed, startBeat := 1000 } 0).mayOpen 0 0 = true ∧
    ((inStep 1000 1 1).mayOpen 0 1 = true ∧ (inStep 2000 3 3).mayOpen 0 2 = true ∧ (inStep 3000 7 7).mayOpen 0 3 = true
      ∧ (inStep 4000 15 15).mayOpen 0 4 = true ∧ (inStep 5000 31 31).mayOpen 0 5 = true ∧ (inStep 4999 31 31).mayOpen 0 5 = false) := by decide
theorem witness_WindowsEndAsPlanned :
    ((inStep 2000 3 1).windowOpen 0 1 = true ∧ (inStep 2000 3 1).windowEnded 0 1 = false ∧ (inStep 2000 3 1).pointOf 0 ((inStep 2000 3 1).winEnd 1) 0 ≤ (inStep 2000 3 1).planNow
      ∧ ¬(inStep 1999 3 1).pointOf 0 ((inStep 1999 3 1).winEnd 1) 0 ≤ (inStep 1999 3 1).planNow) ∧
    -- REDUCE has nothing late; NORM, with no decision, is late; APPLY ends once the step has committed
    ((inStep 4000 15 7).windowOpen 0 3 = true ∧ (inStep 4000 15 7).windowEnded 0 3 = false ∧ (inStep 4000 15 7).workLate 0 3 = false ∧ (inStep 4000 15 7).streamed = []) ∧
    ((inStep 5000 31 15).windowOpen 0 4 = true ∧ (inStep 5000 31 15).workLate 0 4 = true ∧ (inStep 5000 31 15).safe.latch = false ∧ (inStep 5000 31 15).job.plan ≠ none) ∧
    ((inStep 6000 63 31 { committed := true }).windowOpen 0 5 = true ∧ ((inStep 6000 63 31 { committed := true }).stepRec 0).committed = true) := by decide
/-- `inStep` with a cluster whose stream has one instruction in phase `ph`, at stream index `i`. -/
def busy (beat opened ended ph i : Nat) : State :=
  { inStep beat opened ended with
    job := { (inStep beat opened ended).job with plan := some { plan0 with streams := [{ cluster := 575, words := [0], entries := (List.range 6).map (fun p => if p ≤ ph then 0 else 1), expected := [] }] } }
    clusters := [(575, { index := i })] }
theorem witness_WindowsEndAsPlanned_late :
    -- ADMIT and FORWARD of a cluster that is not through with them, and that is; the stash of the step not suppressed
    ((busy 1000 1 0 0 0).windowOpen 0 0 = true ∧ (busy 1000 1 0 0 0).windowEnded 0 0 = false ∧ (busy 1000 1 0 0 0).pointOf 0 ((busy 1000 1 0 0 0).winEnd 0) 0 ≤ (busy 1000 1 0 0 0).planNow
      ∧ (busy 1000 1 0 0 0).clLate 0 0 575 = true ∧ (busy 1000 1 0 0 1).clLate 0 0 575 = false) ∧
    ((busy 2000 3 1 1 0).windowOpen 0 1 = true ∧ (busy 2000 3 1 1 0).windowEnded 0 1 = false ∧ (busy 2000 3 1 1 0).pointOf 0 ((busy 2000 3 1 1 0).winEnd 1) 0 ≤ (busy 2000 3 1 1 0).planNow
      ∧ (busy 2000 3 1 1 0).streamed = [575] ∧ (busy 2000 3 1 1 0).clLate 0 1 575 = true ∧ ((busy 2000 3 1 1 0).stepRec 0).straggles = false
      ∧ (busy 2000 3 1 1 1).workLate 0 1 = false ∧ (busy 2000 3 1 1 1).clLate 0 1 575 = false ∧ (busy 2000 3 1 1 1).stash.suppressed ≠ some 0) := by decide
theorem witness_TheApplyWindowCommits :
    ((inStep 5000 63 31).job.begun = some 0 ∧ ((inStep 5000 63 31).stepRec 0).committed = false ∧ (inStep 5000 63 31).windowEnded 0 4 = true
      ∧ (inStep 5000 63 31).pointOf 0 ((inStep 5000 63 31).winStart 5) 0 ≤ (inStep 5000 63 31).planNow ∧ (inStep 5000 63 31).safe.latch = false)
      ∧ (cmd .fault 0).job.state = .fault := by decide
theorem witness_CommittedStepsClear :
    let s := inStep (6000 + 7813) 63 63 { committed := true, applyEnd := 6000 };
    s.safe.latch = false ∧ (s.stepRec 0).applyEnd + 7813 ≤ s.beat
      ∧ lowest ((s.job.steps.filter fun e => e.2.committed && !e.2.cleared && decide ((e.2.ended / 2 ^ 5) % 2 = 1)).map fun e => e.1) = some 0 := by decide

/-! ### Witnesses: clocks, supplies, care, start-up -/

/-- A module with these supplies and clocks, `c` cycles after reset. -/
def powered (p : Power) (c : Nat) : State := { State.reset with power := p, time := { cycles := c } }
theorem witness_DemandsStretchTheClocks :
    (let s := powered { inst := [(0, { level := 5 })], powerDemand := 4 } 400;
      stretches 0 = true ∧ stretches 51 = true ∧ stretches 8 = false ∧ s.demandOn 0 < (s.inst 0).level ∧ sget 0 s.power.fallAt 0 + 400 ≤ s.time.cycles) ∧
    -- sensors of both kinds at their throttling temperatures
    (let s := powered { thermal := [(127, 63)] } 4000;
      throttleAt 127 ≤ 95 ∧ throttleAt 128 ≤ 90 ∧ sget 0 s.power.thermalAt 127 + 4000 ≤ s.time.cycles ∧ sget 0 s.power.thermal 127 < 64) ∧
    (let s := powered { thermal := [(127, 1)] } 40000;
      93 + 2 ≤ throttleAt 127 ∧ sget 0 s.power.thermalAt 127 + 40000 ≤ s.time.cycles ∧ 0 < sget 0 s.power.thermal 127) ∧
    -- input power at and above its limits, the hundredth and the next sample in a row
    (6500 < 6501 ∧ 7200 < 7201 ∧ (powered { powerRun := 99 } 0).power.powerRun + 1 ≤ 100 ∧ 100 ≤ (powered { powerRun := 100 } 0).power.powerRun) := by decide
theorem witness_ClocksSwitchToTheirOtherPll :
    let both := powered { inst := [(56, { lockB := true })] } 0
    (((both.inst 56).target = 0 ∧ (both.inst 56).lockB = true) ∧ ((State.reset.inst 56).target = 0 ∧ (State.reset.inst 56).lockB = false)
      ∧ (State.reset.inst 56).target ≠ 1) ∧ State.reset.start.wardenHeld = false
      ∧ ((powered { inst := [(56, { switching := some 1 })] } 0).inst 56).switching = some 1 := by decide
theorem witness_FeedsSwitchOver :
    (State.reset.power.switching = false ∧ State.reset.power.feed = 0 ∧ 39999 < 40000) ∧
    ((powered { feed := 1 } 0).power.switching = false ∧ (powered { feed := 1 } 0).power.feed ≠ 0 ∧ (powered { feed := 1 } 0).rwValue 0x9001 0 1 = 1 ∧ 42000 ≤ 42000 ∧ 58000 ≤ 58000) ∧
    ((powered { switching := true } 0).power.switching = true ∧ (powered { switching := true, feed := 1, returning := true } 0).power.switching = true) ∧
    (State.reset.start.powered = true ∧ ¬(40000 ≤ 39999 ∧ 39999 ≤ 58000) ∧ ¬(40000 ≤ 58001 ∧ 58001 ≤ 58000) ∧ State.reset.power.lowRaised = false) := by decide
theorem witness_MonitorsRaiseFaults :
    -- the second sample above 60 V, and the third
    (60000 < 60001 ∧ sget 0 ({ State.reset with safe := { monitorRun := [(0x1000, 2)] } } : State).safe.monitorRun 0x1000 = 2) ∧
    ({ State.reset with time := { counter := 1024 * 2 ^ 48 } } : State).beat / 1024 ≠ State.reset.power.envBeat / 1024 := by decide
/-- FP32 codes of 20, 34, 36 and 37. -/
theorem coolant_codes : elemVal0 fFP32 0x41A00000 = 20 ∧ elemVal0 fFP32 0x42080000 = 34 ∧ elemVal0 fFP32 0x42100000 = 36
    ∧ elemVal0 fFP32 0x42140000 = 37 := by
  refine ⟨?_, ?_, ?_, ?_⟩ <;> norm_num [elemVal0, elemVal, nonFinite, floatFmt, fFP32, bitsOf, pow2, Int.toNat]
theorem witness_MonitorsRaiseFaults_coolant :
    elemVal0 fFP32 0x42080000 - elemVal0 fFP32 0x41A00000 ≤ 14 ∧ 16 < elemVal0 fFP32 0x42140000 - elemVal0 fFP32 0x41A00000
      ∧ ¬(16 < elemVal0 fFP32 0x42100000 - elemVal0 fFP32 0x41A00000) := by
  obtain ⟨a, b, c, d⟩ := coolant_codes
  rw [a, b, c, d]; norm_num
theorem witness_MemoryIsScrubbedAndRefreshed :
    (2 ≤ 2 ∧ State.reset.start.stump = none ∧ sget false State.reset.bg.behind 2 = false) ∧
    sget 0 State.reset.bg.passBegan 2 + 2 * scrubPeriod 2 ≤ (powered {} (2 * 86400 * secCycles)).time.cycles
      ∧ sget 0 State.reset.bg.passBegan 0 + 2 * scrubPeriod 0 ≤ (powered {} (20 * secCycles)).time.cycles := by decide
/-- The CRC-16 of 64 zeros at line 0 of code 0 is 0, the CRC-32C of zeros at address 0 is not. -/
theorem line_good : lineOk 0 0 line0 = true := by decide +kernel
theorem line_bad : lineOk 0 0 { line0 with crc := 1 } = false := by decide +kernel
theorem burst_bad : burstOk 0 burst0 = false := by decide +kernel
theorem tier_bad : tierOk 0 tier0 = false := by decide +kernel
theorem witness_MemoryIsScrubbedAndRefreshed_reads :
    (State.reset.start.powered = true ∧ State.reset.start.stump = none ∧ State.reset.start.stage = 9) ∧
    -- a die in service, and one that is always scrubbed
    (State.reset.scrubbed (.sram 0 0x10 0 []) = true ∧ State.reset.scrubbed (.sram 98 0x78 0 []) = true) ∧
    rereadsUsed 1 (lineOk 0 0) [{ line0 with crc := 1 }, { line0 with crc := 1 }] = none ∧
    rereadsUsed 1 (lineOk 0 0) [{ line0 with crc := 1 }, line0] = some 1 ∧
    rereadsUsed 3 (burstOk 0) [burst0, burst0, burst0, burst0] = none ∧ rereadsUsed 3 (tierOk 0) [tier0, tier0, tier0, tier0] = none := by
  refine ⟨by decide, by decide, ?_, ?_, ?_, ?_⟩ <;> simp [rereadsUsed, line_good, line_bad, burst_bad, tier_bad, List.findIdx?, List.findIdx?.go]
/-- A CXL device of the last number. -/
def cxl1 : CxlDevice := { port := 1, dev := 0, width := 16, speed := 2, capacity := 2 ^ 40, dataArea := 0, base := cxlBase, window := 2 ^ 40, partner := 0, foundWidth := 16, foundSpeed := 2 }
/-- A module with it, and with a plan that keeps a reserve on it. -/
def cxlState : State := { State.reset with cxl := { devices := [cxl1] } }
def cxlReserve : State :=
  { cxlState with job := { state := .loaded, plan := some { plan0 with stash := [⟨0, 0, 0, cxlBase, 1, 0⟩] } } }
theorem witness_CxlLinksRetrainOrGoDown :
    cxlState.cxlDevice 1 0 = some cxl1 ∧ cxl1.link ≠ 0 ∧ cxlState.reserveOn cxl1 = false ∧ cxlReserve.reserveOn cxl1 = true
      ∧ (1 < cxl1.foundSpeed ∨ 16 < cxl1.foundWidth) ∧ ¬(2 < cxl1.foundSpeed ∨ 16 < cxl1.foundWidth) := by decide
theorem witness_TestsAndLockstepStopTheModule :
    ((jobbed { state := .loaded } 0).job.plan ≠ none ∧ State.reset.safe.latch = false)
      ∧ sget 0 State.reset.safe.selfTest 65535 + 60 * secCycles ≤ (powered {} (60 * secCycles)).time.cycles := by decide

theorem witness_TestsAndLockstepStopTheModule_units :
    -- a compute die in service and one that is not, a base die, a CXL die
    (0 ∈ State.reset.start.dieMap ∧ 0 * 512 / 512 ∈ State.reset.start.dieMap ∧ 48 ∉ State.reset.start.dieMap) ∧ (52 ≤ 52 * 512 / 512 ∧ 91 * 512 / 512 < 92)
      ∧ (96 ≤ 98 * 512 / 512 ∧ 98 * 512 / 512 < 99) := by decide

/-- A module in a stage of start-up, `c` cycles on. -/
def staging (x : Startup) (c : Nat) : State := { State.reset with start := x, time := { cycles := c } }
theorem witness_StartUpPassesItsStages :
    (staging { powered := false } 0).start.powered = false ∧
    (∀ n ∈ List.range 9, (staging { stage := n } 0).starting = true ∧ (staging { stage := n } 0).start.card ≠ 1
      -- at its limit a stage is not overdue, a cycle later it is
      ∧ (staging { stage := n } (stageLimit n * msCycles)).time.cycles ≤ 0 + stageLimit n * msCycles
      ∧ 0 + stageLimit n * msCycles < (staging { stage := n } (stageLimit n * msCycles + 1)).time.cycles) ∧
    (0 + 2 ^ 7 * msCycles ≤ (staging { stage := 0, oscdly := 7 } (128 * msCycles)).time.cycles) ∧
    ((staging { stage := 2 } 0).start.stumpN = true ∧ (staging { stage := 2 } 0).start.slotsel = 0
      ∧ (staging { stage := 2, stumpN := false } 0).start.stumpN = false) := by decide
/-- What the tests of stage 4 find: lanes within a module's spares, a base die that fails, a compute die whose spare is free and one
whose spare is in service. -/
theorem witness_StartUpPassesItsStages_tests :
    let s := staging { stage := 4 } 0
    let used := staging { stage := 4, spares := [7, 0xFF, 0xFF, 0xFF] } 0
    (s.starting = true ∧ s.start.card ≠ 1 ∧ s.start.stage = 4) ∧
      (∀ f ∈ [(⟨0, 0, true, 8⟩ : LaneFault)], ([(⟨0, 0, true, 8⟩ : LaneFault)].foldl State.fuseLanes s).lanesOut f = false) ∧
      ([(⟨0, 0, true, 9⟩ : LaneFault)].foldl State.fuseLanes s).lanesOut ⟨0, 0, true, 9⟩ = true ∧
      (s.logicalOf 3 = some 3 ∧ s.start.spares.getD (3 / 12) 0xFF = 0xFF ∧ used.logicalOf 3 = some 3 ∧ used.start.spares.getD (3 / 12) 0xFF ≠ 0xFF) := by decide
theorem witness_StartUpPassesItsStages_slots :
    let s := staging { stage := 2, slots := [{ state := 2, image := [] }, {}] } 0
    s.slotIn 1 = none ∧ s.slotIn 2 = some 0 ∧ s.slotIn 3 = none := by decide
/-- The serial number has 16 bytes. -/
theorem serial_length : serialNumber.length = 16 := padTo_length _ _
theorem witness_RestartsAndInstallsComplete :
    (Fresh open1 (wr 0xB000 5 (u8 1)) ∧ InSession open1 (wr 0xB000 5 (u8 1)) ∧ WholeWrite (wr 0xB000 5 (u8 1)) 0xB000 5 1) ∧
    (WholeWrite (wr 0xB012 0 (u8 1)) 0xB012 0 1 ∧ WholeWrite (wr 0xB011 0 (List.replicate 64 0#8)) 0xB011 0 64 ∧ open1.start.stage = 9) ∧
    (staging { installing := true } 0).start.installing = true ∧ (cmd .running 0).job.state = .running := by
  refine ⟨⟨(open1_write _ _ _).1, (open1_write _ _ _).2, rfl, rfl, rfl, rfl, rfl⟩, ⟨⟨rfl, rfl, rfl, rfl, rfl⟩, ⟨rfl, rfl, rfl, rfl, rfl⟩, rfl⟩, rfl, rfl⟩
theorem witness_IdentityAndFlashAreGuarded :
    (Fresh open1 (wr 0xB020 4 serialNumber) ∧ InSession open1 (wr 0xB020 4 serialNumber) ∧ WholeWrite (wr 0xB020 4 serialNumber) 0xB020 4 16) ∧
    (Fresh open1 (wr 0xB030 1 host1) ∧ WholeWrite (wr 0xB030 1 (List.replicate 32 0#8)) 0xB030 1 32) ∧
    (9 ≤ State.reset.start.stage ∧ State.reset.start.stump = none ∧ State.reset.bg.lastVerify + 86400 * secCycles ≤ (powered {} (86400 * secCycles)).time.cycles
      ∧ State.reset.areaBusy 0 = false ∧ State.reset.areaBusy 23 = false) := by
  refine ⟨⟨(open1_write _ _ _).1, (open1_write _ _ _).2, rfl, rfl, rfl, rfl, serial_length⟩, ⟨(open1_write _ _ _).1, rfl, rfl, rfl, rfl, rfl⟩, ?_⟩
  decide

/-! ### Witnesses: instructions of a stream -/

/-- A descriptor of 64 bytes with these fields: offset and value. -/
def descOf (fs : List (Nat × Nat)) : Bytes := leBytes 64 (fs.map fun e => e.2 * 256 ^ e.1).sum
/-- A stream of instruction `w` and a `NOP`, in phase `ph`, on cluster `cl`. -/
def streamOf (cl w ph : Nat) : Stream :=
  { cluster := cl, words := [w, 0], entries := (List.range 6).map (fun p => if p ≤ ph then 0 else 2), expected := [(0, foldSig 0xFFFFFFFF#32 w)] }
/-- A running job in which cluster `cl`, in state `c`, is at instruction `w` of phase `ph`. -/
def issuing (w : Nat) (c : Cluster := {}) (dma : List Bytes := []) (ph : Nat := 1) (cl : Nat := 575) : State :=
  { State.reset with
    job := { state := .running, begun := some 0, steps := [(0, { opened := 2 ^ (ph + 1) - 1, ended := 2 ^ ph - 1 })], plan := some { plan0 with streams := [streamOf cl w ph], dma := dma, classes := [⟨3, 2, 128, 0, 0⟩] } }
    clusters := [(cl, c)]
    power := { gates := [(47, { die := false, regions := 0, clusters := 0 })] } }
/-- What is fetched there. -/
def fetched (w : Nat) (ph : Nat := 1) : Fetched := ⟨w, streamOf 575 w ph, 0, 0⟩
/-- The instruction may issue. -/
def mayIssue (w : Nat) (c : Cluster := {}) (dma : List Bytes := []) (ph : Nat := 1) : Bool := ((issuing w c dma ph).fetch 575).isSome
theorem issues_of (w : Nat) (c : Cluster) (dma : List Bytes) (ph : Nat) (h : mayIssue w c dma ph = true) (hc : c.index = 0) (hs : c.step = 0)
    (e : (streamOf 575 w ph).isEntry 0 = true) : Issues (issuing w c dma ph) 575 (fetched w ph) := by
  have h1 : (issuing w c dma ph).stream 575 = some (streamOf 575 w ph) := rfl
  have h2 : (issuing w c dma ph).cl 575 = c := rfl
  have h3 : (issuing w c dma ph).clStep 575 = 0 := by show 0 + ((issuing w c dma ph).cl 575).step = 0; rw [h2, hs]
  refine ⟨?_, fun _ => ?_⟩
  · unfold mayIssue State.fetch at h
    unfold State.fetch
    rw [h1] at h ⊢
    dsimp only at h ⊢
    rw [h2, hc, h3] at h ⊢
    rw [show (streamOf 575 w ph).words[0]? = some w from rfl] at h ⊢
    dsimp only at h ⊢
    split at h
    · rename_i hh; rw [if_pos hh]; rfl
    · cases h
  · show (streamOf 575 w ph).expected.lookup 0 = some (foldSig (if (streamOf 575 w ph).isEntry 0 = true then _ else _) w)
    rw [if_pos e]
    rfl

/-- `MATRIX`: E4M3 by E4M3, extents 128 × 128 × 1, tile 1, fresh. -/
def wMatrix (m n k : Nat) (fresh : Nat := 1) : Nat :=
  1 * 2 ^ 123 + 2 ^ 107 + fresh * 2 ^ 106 + 3 * 2 ^ 101 + 3 * 2 ^ 97 + 64 * 2 ^ 47 + m * 2 ^ 39 + n * 2 ^ 31 + k * 2 ^ 15
/-- `CONV` with descriptor `g`: E4M3, extents m × 128 × k. -/
def wConv (g m k : Nat) : Nat := 2 * 2 ^ 123 + 2 ^ 107 + 2 ^ 106 + 3 * 2 ^ 101 + 3 * 2 ^ 97 + g * 2 ^ 62 + 0x4000 * 2 ^ 47 + m * 2 ^ 39 + 128 * 2 ^ 31 + k * 2 ^ 15
/-- `ELEMWISE`: E4M3, extents 128 × 1. -/
def wElem (m k : Nat) : Nat := 3 * 2 ^ 123 + 2 ^ 107 + 2 ^ 106 + 3 * 2 ^ 101 + 3 * 2 ^ 97 + 0x4000 * 2 ^ 47 + m * 2 ^ 39 + k * 2 ^ 15
/-- A conv geometry descriptor: a 1 × 1 filter on a map of 4 × 4 positions of one channel. -/
def convDesc : Bytes :=
  descOf [(0, 3), (8, 4), (0xA, 4), (0x10, 4), (0x12, 4), (0x14, 16), (0x18, 64), (0x1E, 1), (0x20, 1), (0x21, 1), (0x24, 1), (0x25, 1),
    (0x26, 1), (0x27, 1), (0x30, 4), (0x32, 4), (0x34, 4)]
/-- A crop geometry descriptor: one channel of a map of 4 × 4 positions, grid 1 × 1. -/
def cropDesc : Bytes := descOf [(0, 4), (8, 4), (0xA, 4), (0x10, 4), (0x12, 4), (0x14, 16), (0x18, 64), (0x1E, 1), (0x20, 64), (0x26, 1), (0x27, 1)]
theorem test_conv_source : convFieldsOk convDesc = true ∧ cropFieldsOk cropDesc = true := by decide
/-- A cluster whose tile 1 holds a live sum of depth `k`. -/
def live (k : Nat) : Cluster := { ahead := [(1, { base := .live, runK := k })], tiles := [(1, { base := .live, runK := k })] }

theorem witness_PassesTakeTheirPlaceAtIssue :
    (mayIssue 0 = true ∧ iClass 0 = 0) ∧
    -- the largest tile; no rows; no depth, fresh and not
    (mayIssue (wMatrix 128 128 1) = true ∧ iClass (wMatrix 128 128 1) = 1 ∧ (issuing (wMatrix 128 128 1)).matrixCheck 575 (fetched (wMatrix 128 128 1)) = .ok) ∧
    (mayIssue (wMatrix 0 128 1) = true ∧ (issuing (wMatrix 0 128 1)).matrixCheck 575 (fetched (wMatrix 0 128 1)) = .ok) ∧
    (mayIssue (wMatrix 1 1 0) = true ∧ (issuing (wMatrix 1 1 0)).matrixCheck 575 (fetched (wMatrix 1 1 0)) = .ok ∧ ({} : Cluster).tileBusy 1 = false) ∧
    (mayIssue (wMatrix 1 1 0 0) = true ∧ (issuing (wMatrix 1 1 0 0)).matrixCheck 575 (fetched (wMatrix 1 1 0 0)) = .ok) ∧
    -- the deepest sum
    (mayIssue (wMatrix 1 1 1 0) (live (2 ^ 22 - 1)) = true
      ∧ (issuing (wMatrix 1 1 1 0) (live (2 ^ 22 - 1))).matrixCheck 575 (fetched (wMatrix 1 1 1 0)) = .ok) ∧
    (mayIssue (wElem 128 1) = true ∧ iClass (wElem 128 1) = 3 ∧ (issuing (wElem 128 1)).elemCheck 575 (fetched (wElem 128 1)) = .ok) := by decide
theorem witness_PassesTakeTheirPlaceAtIssue_windows :
    (mayIssue (wConv 0 16 1) {} [convDesc] = true ∧ iClass (wConv 0 16 1) = 2 ∧ (issuing (wConv 0 16 1) {} [convDesc]).namesCrop (wConv 0 16 1) = false
      ∧ (issuing (wConv 0 16 1) {} [convDesc]).convCheck 575 (fetched (wConv 0 16 1)) = .ok) ∧
    (mayIssue (wConv 0 1 8) {} [cropDesc] = true ∧ (issuing (wConv 0 1 8) {} [cropDesc]).namesCrop (wConv 0 1 8) = true
      ∧ (issuing (wConv 0 1 8) {} [cropDesc]).cropCheck 575 (fetched (wConv 0 1 8)) = .ok) := by decide
theorem witness_PassesTakeTheirPlaceAtIssue_kat :
    mayIssue (4 * 2 ^ 123) = true ∧ iClass (4 * 2 ^ 123) = 4 ∧ (({} : Cluster).aheadOf 0).base ≠ .reserved
      ∧ ¬((({} : Cluster).aheadOf 0).slot = .accumulated ∧ 0 < (({} : Cluster).aheadOf 0).runK)
      ∧ (streamOf 575 (4 * 2 ^ 123) 1).isEntry 0 = true := by decide
/-- The instructions above issue. -/
theorem witness_Issues : Issues (issuing (4 * 2 ^ 123)) 575 (fetched (4 * 2 ^ 123)) ∧ Issues (issuing (wMatrix 128 128 1)) 575 (fetched (wMatrix 128 128 1)) :=
  ⟨issues_of _ _ _ _ (by decide) rfl rfl (by decide), issues_of _ _ _ _ (by decide) rfl rfl (by decide)⟩
/-- The one instruction of a stream, a `NOP`, on a cluster with nothing in flight, in a module that straggles in the next step already. -/
def oneNop : Stream := { cluster := 575, words := [0], entries := [0, 0, 1, 1, 1, 1], expected := [(0, foldSig 0xFFFFFFFF#32 0)] }
def passesOver : State :=
  let s := issuing 0
  { s with job := { s.job with steps := s.job.steps ++ [(1, { straggles := true })], plan := some { plan0 with streams := [oneNop] } } }
theorem witness_PassesTakeTheirPlaceAtIssue_straggle :
    Issues passesOver 575 ⟨0, oneNop, 0, 0⟩ ∧ ¬OnTime passesOver 575 ∧ iClass 0 = 0 ∧ 0 + 1 = oneNop.words.length ∧ (passesOver.cl 575).inflight = 0
      ∧ passesOver.start.wardenHeld = false ∧ OnTime (issuing (wMatrix 128 128 1)) 575 := by
  refine ⟨⟨?_, fun _ => ?_⟩, by unfold OnTime; decide, by decide, rfl, by decide, rfl, by unfold OnTime; decide⟩
  · unfold State.fetch
    rw [show passesOver.stream 575 = some oneNop from rfl]
    dsimp only
    rw [show oneNop.words[(passesOver.cl 575).index]? = some 0 from rfl]
    dsimp only
    rw [if_pos (by decide)]
    rfl
  · show oneNop.expected.lookup 0 = some (foldSig (if oneNop.isEntry 0 = true then _ else _) 0)
    rw [if_pos (by decide)]
    rfl
theorem witness_GuardLimitRefusesThePass :
    mayIssue (wMatrix 1 1 1 0) (live (2 ^ 22)) = true ∧ (issuing (wMatrix 1 1 1 0) (live (2 ^ 22))).matrixCheck 575 (fetched (wMatrix 1 1 1 0)) = .guard
      ∧ 2 ^ 22 < ((live (2 ^ 22)).aheadOf (iTile (wMatrix 1 1 1 0))).runK + 1 ∧ iFresh (wMatrix 1 1 1 0) = false := by decide

/-- `DRAIN` of tile 1 to local address 0: FP32, m rows, 128 columns; `slot` 1 drains the slot. -/
def wDrain (m slot : Nat) : Nat := 5 * 2 ^ 123 + 2 ^ 107 + slot * 2 ^ 106 + 512 * 2 ^ 26 + m * 2 ^ 18 + 128 * 2 ^ 10
/-- A cluster whose tile 1 will be as `a` says. -/
def withAhead (a : Ahead) : Cluster := { ahead := [(1, a)] }
theorem witness_DrainsAndSpillsTakeTheirPlaceAtIssue_onTime : OnTime (issuing (wDrain 128 0) (live 1)) 575 := by
  unfold OnTime
  decide
theorem witness_DrainsAndSpillsTakeTheirPlaceAtIssue :
    (mayIssue (wDrain 128 0) (live 1) = true ∧ iClass (wDrain 128 0) = 5 ∧ dFromSlot (wDrain 128 0) = false
      ∧ (issuing (wDrain 128 0) (live 1)).drainCheck 575 (fetched (wDrain 128 0)) = .ok) ∧
    (mayIssue (wDrain 128 1) (withAhead { slot := .stored }) = true ∧ dFromSlot (wDrain 128 1) = true
      ∧ (issuing (wDrain 128 1) (withAhead { slot := .stored })).drainCheck 575 (fetched (wDrain 128 1)) = .ok) ∧
    (mayIssue (6 * 2 ^ 123 + 2 ^ 107) (live 1) = true ∧ iClass (6 * 2 ^ 123 + 2 ^ 107) = 6 ∧ iFresh (6 * 2 ^ 123 + 2 ^ 107) = false
      ∧ ((live 1).aheadOf 1).base ≠ .reserved ∧ ((live 1).aheadOf 1).slot = .empty) ∧
    (mayIssue (6 * 2 ^ 123 + 2 ^ 107 + 2 ^ 106) (withAhead { base := .live, slot := .accumulated }) = true ∧ iFresh (6 * 2 ^ 123 + 2 ^ 107 + 2 ^ 106) = true
      ∧ ((withAhead { base := .live, slot := .accumulated }).aheadOf 1).slotEref = ((withAhead { base := .live, slot := .accumulated }).aheadOf 1).eref) ∧
    (mayIssue (7 * 2 ^ 123 + 2 ^ 107) (withAhead { slot := .stored }) = true ∧ iClass (7 * 2 ^ 123 + 2 ^ 107) = 7
      ∧ ((withAhead { slot := .stored }).aheadOf 1).slot = .stored) := by decide

/-! ### Witnesses: the queues of a cluster -/

/-- A pass of tile `t`, number `n`. -/
def pass (n t : Nat) (kind : PassKind := .matrix) : PassOp := ⟨n, kind, t, wMatrix 128 128 1, 128, 128, 1, 0, 0⟩
/-- An operation of the drain path on tile 1. -/
def drainOp (kind : DrainKind) (fenced : Bool) (word : Nat := wDrain 128 0) (row : Nat := 0) : DrainOp :=
  { n := 1, kind := kind, tile := 1, word := word, m := 128, nn := 128, rowBits := allOnes128, colBits := allOnes128, step := 0, idx := 0, fenced := fenced, row := row }
/-- A module with cluster 575 in this state. -/
def withCl (c : Cluster) : State := { State.reset with clusters := [(575, c)] }
theorem witness_QueuedArrayWorkRetires :
    (let c : Cluster := { arrayQ := [pass 2 1], drainQ := [drainOp .spillStore true] };
      ((withCl c).cl 575).arrayQ = pass 2 1 :: [] ∧ c.held (pass 2 1) = true) ∧
    (let c : Cluster := { arrayQ := [pass 2 0, pass 3 1], drainQ := [drainOp .spillStore true] };
      ((withCl c).cl 575).arrayQ = pass 2 0 :: [pass 3 1] ∧ c.held (pass 2 0) = false ∧ (pass 2 0).nn ≤ 128 ∧ (pass 2 1 .kat).kind = .kat) ∧
    -- the fence waits for an earlier pass of the tile, and is passed with none
    (let c : Cluster := { arrayQ := [pass 0 1], drainQ := [drainOp .drain false] };
      ((withCl c).cl 575).drainQ = drainOp .drain false :: [] ∧ (drainOp .drain false).fenced = false ∧ (∃ o ∈ c.arrayQ, o.n ≤ 1 ∧ o.tile = 1)) ∧
    (let d := drainOp .drain true (wDrain 128 0) 126; let e := drainOp .drain true (wDrain 128 0) 127;
      ((withCl { drainQ := [d] }).cl 575).drainQ = [d] ∧ d.fenced = true ∧ d.row + 1 < d.m ∧ ¬ e.row + 1 < e.m ∧ d.sendsRows = true ∧ dKind d.word ≠ 1) ∧
    (let d := drainOp .drain true (wDrain 128 0 + 2 ^ 90);
      d.sendsRows = true ∧ dKind d.word = 1 ∧ ({ drainQ := [d] } : Cluster).drainIn.length < 256) ∧
    ((drainOp .restore true).fenced = true ∧ (drainOp .restore true).kind = .restore ∧ (drainOp .katCheck true).kind = .katCheck) := by decide
/-- The clocks of the clusters stand still where their gates are shut, and run where they are open. -/
theorem witness_QueuedArrayWorkRetires_clocks :
    (withCl {}).clocked 575 = false ∧ (issuing 0 { arrayQ := [pass 2 0] }).clocked 575 = true ∧ OnTime (issuing 0 { arrayQ := [pass 2 0] }) 575
      ∧ ((issuing 0 { arrayQ := [pass 2 0] }).cl 575).arrayQ = pass 2 0 :: [] := by
  unfold OnTime
  decide
theorem witness_QueuedArrayWorkRetires_rows :
    -- a drain that writes nothing; a full drain input; the last row to a destination and to the drain input
    (({ drainOp .drain false with m := 0 } : DrainOp).writesNothing = true ∧ (drainOp .drain false).writesNothing = false) ∧
    (let d := drainOp .drain true (wDrain 128 0 + 2 ^ 90) 126; d.sendsRows = true ∧ dKind d.word = 1 ∧ d.row + 1 < d.m
      ∧ 256 ≤ (List.replicate 256 ([] : List Nat)).length) ∧
    (let d := drainOp .drain true (wDrain 128 0) 127; d.fenced = true ∧ dKind d.word = 0 ∧ d.m = d.row + 1) ∧
    (let d := drainOp .drain true (wDrain 128 0 + 2 ^ 90) 127; dKind d.word = 1 ∧ 0 + (d.m - d.row) ≤ 256) ∧
    (drainOp .spillStore true).sendsRows = false := by
  refine ⟨by decide, ⟨by decide, by decide, by decide, by rw [List.length_replicate]⟩, by decide, by decide, by decide⟩
theorem witness_QueuedArrayWorkRetires_kat :
    let s := { issuing 0 with time := { counter := 101 * 2 ^ 48 } }
    s.job.state = .running ∧ (s.stream 575).isSome = true ∧ plan0.katPeriod * 2 ^ 16 < s.katGap 575 ∧ ¬ plan0.katPeriod * 2 ^ 16 < (issuing 0).katGap 575 := by decide
theorem witness_QueuedArrayWorkRetires_pause :
    let s := { issuing 0 with job := { (issuing 0).job with state := .paused, frozenAt := some 0, frozenByPass := true } }
    s.job.state = .paused ∧ s.job.frozenByPass = true ∧ (s.stream 575).isSome = true ∧ (s.cl 575).arrayQ = [] ∧ (s.cl 575).drainQ = [] ∧ (s.cl 575).pauseSpilled = false := by decide

/-- `VECTOR` operation `o` on `rows` rows of FP32 from the drain input, B at line 16, into line 32. -/
def wVec (o rows : Nat) : Nat := 8 * 2 ^ 123 + o * 2 ^ 115 + 0xFFFFF * 2 ^ 87 + 16 * 2 ^ 67 + 32 * 2 ^ 47 + rows * 2 ^ 31
/-- `TOPK` of `k` of a row of 128 FP32 values of the drain input. -/
def wTopk (k : Nat) : Nat := 9 * 2 ^ 123 + k * 2 ^ 112 + 0xFFFFF * 2 ^ 88 + 0 * 2 ^ 68 + 0x4000 * 2 ^ 48 + 128 * 2 ^ 32 + 1 * 2 ^ 19
theorem witness_VectorOperationsQueueAndRetire :
    -- every operation of a row on FP32 values
    (∀ e ∈ vectorOps 575, e.1 < 0x20 → mayIssue (wVec e.1 1) = true ∧ (issuing (wVec e.1 1)).vecCheck 575 (fetched (wVec e.1 1)) = .ok
      ∧ iClass (wVec e.1 1) = 8 ∧ vMode (wVec e.1 1) ≠ 3 ∧ vOp (wVec e.1 1) = e.1) ∧
    (mayIssue (wTopk 1024) = true ∧ iClass (wTopk 1024) = 9 ∧ (issuing (wTopk 1024)).vecCheck 575 (fetched (wTopk 1024)) = .ok) ∧
    -- no rows; a row that has not come
    ((issuing (wVec 0 0)).vecOpOf 575 (fetched (wVec 0 0))).rows = 0 ∧
    (vecFromDrain (wVec 0 1) = true ∧ ({} : Cluster).drainIn.length < min (vecChunk (wVec 0 1)) 1) ∧
    (let op := (issuing (wVec 0 1)).vecOpOf 575 (fetched (wVec 0 1));
      op.row < op.rows ∧ ({ op with row := 1 } : VecOp).rows ≤ ({ op with row := 1 } : VecOp).row) := by decide
theorem witness_VectorOperationsQueueAndRetire_queue :
    let op := (issuing (wVec 0 1)).vecOpOf 575 (fetched (wVec 0 1))
    ((withCl { vecQ := [op] }).clocked 575 = false ∧ ((withCl { vecQ := [op] }).cl 575).vecQ = op :: []) ∧
    ((issuing 0 { vecQ := [op] }).clocked 575 = true ∧ ({ vecQ := [op] } : Cluster).starved op = true ∧ OnTime (issuing 0 { vecQ := [op] }) 575) := by
  unfold OnTime
  decide
theorem witness_VectorOperationsQueueAndRetire_segments :
    ∀ e ∈ vectorOps 575, 0x20 ≤ e.1 → e.1 ≤ 0x29 → mayIssue (wVec e.1 1 + 2 ^ 2) = true
      ∧ (issuing (wVec e.1 1 + 2 ^ 2)).vecCheck 575 (fetched (wVec e.1 1 + 2 ^ 2)) = .ok := by decide
/-- A row of an operation from line 0 of feeder SRAM into line 32. -/
theorem witness_RowOperationsWriteTheirResults_sram :
    let w := 8 * 2 ^ 123 + 1 * 2 ^ 115 + 0 * 2 ^ 87 + 16 * 2 ^ 67 + 32 * 2 ^ 47 + 1 * 2 ^ 31
    let op := { (issuing w).vecOpOf 575 (fetched w) with row := 0 }
    iClass w = 8 ∧ vMode w = 0 ∧ vOp w ≤ 0x18 ∧ op.rows = 1 ∧ vecOverlap { op with row := 1 } = false ∧ vSrcA w ≠ drainInput
      ∧ vSrcA w * 64 + rowBytes (vFmtIn w) ≤ feederBytes ∧ vDst w * 64 + rowBytes (vFmtOut w) ≤ feederBytes ∧ vuRowsB (vOp w) = true
      ∧ vSrcB w * 64 + rowBytes (vFmtIn w) ≤ feederBytes := by decide
/-- The input that a row operation takes: a row of 128 ones. -/
def rowCluster : Cluster := { drainIn := [List.replicate 128 0x3F800000] }
theorem witness_RowOperationsWriteTheirResults :
    ∀ e ∈ vectorOps 575, e.1 ≤ 0x18 → mayIssue (wVec e.1 1) rowCluster = true ∧ (issuing (wVec e.1 1) rowCluster).vecCheck 575 (fetched (wVec e.1 1)) = .ok
      ∧ vMode (wVec e.1 1) = 0 ∧ vSrcA (wVec e.1 1) = drainInput ∧ ((issuing (wVec e.1 1) rowCluster).vecOpOf 575 (fetched (wVec e.1 1))).rows = 1
      ∧ vDst (wVec e.1 1) * 64 + rowBytes (vFmtOut (wVec e.1 1)) ≤ feederBytes ∧ vSrcB (wVec e.1 1) * 64 + rowBytes (vFmtIn (wVec e.1 1)) ≤ feederBytes
      ∧ vecOverlap ((issuing (wVec e.1 1) rowCluster).vecOpOf 575 (fetched (wVec e.1 1))) = false := by decide
theorem witness_RowOperationsWriteTheirResults_input : rowCluster.vecQ = [] ∧ rowCluster.drainIn = List.replicate 128 0x3F800000 :: [] ∧ (List.replicate 128 0x3F800000).length = 128 :=
  ⟨rfl, rfl, List.length_replicate⟩

/-! ### Witnesses: transfers, limber jobs, banks, synchronisation -/

/-- `DMA` with descriptor 0. -/
def wDma : Nat := 10 * 2 ^ 123
/-- A transfer descriptor: `rows` rows of `n` bytes from address 0 to `dst`, to peer `peer`. -/
def xferDesc (dst n rows : Nat) (peer : Nat := 0xFFFF) : Bytes :=
  descOf [(0, 1), (6, peer), (0x10, dst), (0x18, n), (0x1C, rows), (0x20, 64), (0x28, 64)]
/-- A limber descriptor: max pooling of BF16, 1 × 1, 4 positions of a map of 4 × 4. -/
def limberDesc (rows : Nat) : Bytes :=
  descOf [(0, 3), (2, 24), (8, 4), (0xA, 4), (0x10, 4), (0x12, 4), (0x14, 16), (0x18, 64), (0x1E, 1), (0x20, 1), (0x21, 1), (0x24, 1), (0x25, 1),
    (0x26, 1), (0x27, 1), (0x30, 4), (0x32, 4), (0x34, 4), (0x36, rows), (0x38, 2 ^ 48 + 0x4000 * 2 ^ 20)]
theorem witness_DmaInstructionsTakeTheirPlace :
    (mayIssue wDma {} [xferDesc 4096 64 1] = true ∧ iClass wDma = 10 ∧ (issuing wDma {} [xferDesc 4096 64 1]).dmaDesc wDma = some (xferDesc 4096 64 1)) ∧
    -- the last line of HBM; no rows; rows of no bytes
    (∀ d ∈ [xferDesc (hbmEnd - 64) 64 1, xferDesc 4096 64 0, xferDesc 4096 0 1], (issuing wDma {} [d]).namesLimber wDma = false
      ∧ (issuing wDma {} [d]).namesControl wDma = false ∧ (issuing wDma {} [d]).transferCheck 575 (fetched wDma) = .ok ∧ ddLocal d = true ∧ inStash (ddDst d) = false) ∧
    (issuing wDma {} [xferDesc hbmEnd 64 1]).transferCheck 575 (fetched wDma) ≠ .ok := by decide
/-- The state above with a stash on branch 7 that is suppressed in this step, and with module 1 as a neighbour. -/
def withStash : State :=
  let s := issuing wDma {} [xferDesc (stashBase + 7 * 2 ^ 40) 64 1]
  { s with stash := { suppressed := some 0 } }
def withPeer : State :=
  let s := issuing wDma {} [xferDesc 4096 64 1 1]
  { s with job := { s.job with plan := s.job.plan.map fun p => { p with peers := [⟨true, 1⟩] } } }
theorem witness_DmaInstructionsTakeTheirPlace_windows :
    (withStash.transferCheck 575 (fetched wDma) = .ok ∧ inStash (stashBase + 7 * 2 ^ 40) = true ∧ withStash.stash.suppressed = some (fetched wDma).step
      ∧ (withStash.fetch 575).isSome = true) ∧
    (withPeer.transferCheck 575 (fetched wDma) = .ok ∧ ddLocal (xferDesc 4096 64 1 1) = false ∧ (withPeer.cl 575).dmaQ = [] ∧ (withPeer.fetch 575).isSome = true) := by decide
/-- A transfer of no rows to module 1, with and without a sync object, and one with an operation before it; a transfer beyond the end of
a branch of the stash. -/
theorem witness_DmaInstructionsTakeTheirPlace_corners :
    let d (flag : Nat) := descOf [(0, 1), (2, flag), (6, 1), (0x10, 4096), (0x18, 64), (0x1C, 0), (0x20, 64), (0x28, 64)]
    let peer (s : State) : State := { s with job := { s.job with plan := s.job.plan.map fun p => { p with peers := [⟨true, 1⟩] } } }
    let stash (m : Nat) : State := let s := issuing wDma {} [xferDesc (stashBase + 7 * 2 ^ 40) 64 1]; { s with job := { s.job with plan := s.job.plan.map fun p => { p with stash := [⟨7, 2 ^ 30, m, 0, 0, m⟩] } } }
    (ddLocal (d 0) = false ∧ ddFlag (d 0) = false ∧ ddFlag (d 1) = true) ∧
    ((peer (issuing wDma {} [d 0])).transferCheck 575 (fetched wDma) = .ok ∧ (peer (issuing wDma {} [d 0])).dmaRows 575 wDma (d 0) = 0) ∧
    ((stash 63).transferCheck 575 (fetched wDma) = .ok ∧ ((stash 63).stashDecl (stashBranch (stashBase + 7 * 2 ^ 40))).limit < stashOffset (stashBase + 7 * 2 ^ 40) + rowSpan 1 64 64
      ∧ ¬((stash 64).stashDecl (stashBranch (stashBase + 7 * 2 ^ 40))).limit < stashOffset (stashBase + 7 * 2 ^ 40) + rowSpan 1 64 64
      ∧ ((stash 63).stepRec 0).ended / 2 % 2 ≠ 1 ∧ OnTime (stash 63) 575) := by
  unfold OnTime
  decide
theorem witness_DmaInstructionsTakeTheirPlace_limber :
    (mayIssue wDma {} [limberDesc 1] = true ∧ (issuing wDma {} [limberDesc 1]).namesLimber wDma = true ∧ (issuing wDma {} [limberDesc 1]).limberCheck 575 (fetched wDma) = .ok
      ∧ lbEmpty (limberDesc 1) 1 = false) ∧
    ((issuing wDma {} [limberDesc 0]).namesLimber wDma = true ∧ (issuing wDma {} [limberDesc 0]).limberCheck 575 (fetched wDma) = .ok ∧ lbEmpty (limberDesc 0) 0 = true) := by decide
/-- A descriptor that writes control block `i` of the last die in service, and a state whose first byte of HBM is `v`. -/
def bankDesc (i : Nat) : Bytes := descOf [(0, 1), (6, 0xFFFF), (0x10, regBase 47 + 0xE00000 + 64 * i), (0x18, 64), (0x1C, 1), (0x20, 64), (0x28, 64)]
def banking (i : Nat) (v : Byte) (c : Cluster := {}) : State := { issuing wDma c [bankDesc i] with mem := writeByte [] 0 v }
theorem witness_DmaInstructionsTakeTheirPlace_banks :
    -- the limber engine of region 0 for its first bank, and for the last bank of the die, where R246 forbids it
    ((banking 0 0x10#8).namesControl wDma = true ∧ (banking 0 0x10#8).bankCheck 575 (fetched wDma) = .ok ∧ ((banking 0 0x10#8).fetch 575).isSome = true
      ∧ bankBlock ((banking 0 0x10#8).physDie (clDie 575)) (ddDst (bankDesc 0)) = some 0 ∧ (banking 0 0x10#8).bankRefused 47 0 0x10 = false
      ∧ fieldAt ((List.range 64).map fun k => (banking 0 0x10#8).tierByte (ddSrc (bankDesc 0) + k)) 0 4 = 0x10) ∧
    ((banking 52 0x10#8).bankCheck 575 (fetched wDma) = .ok ∧ bankBlock 47 (ddDst (bankDesc 52)) = some 52 ∧ (banking 52 0x10#8).bankRefused 47 52 0x10 = true) ∧
    bankBlock 47 (ddDst (bankDesc 53)) = none := by decide

/-- A DMA operation at the head of its queue. -/
def dmaHead (kind : DmaKind) : DmaOp := { n := 4, kind := kind, desc := 0, rows := 1, step := 0, idx := 0 }
/-- A module in which it is the only one of cluster 575. -/
def dmaState (kind : DmaKind) (d : Bytes) : State := issuing 0 { dmaQ := [dmaHead kind] } [d]
theorem witness_DmaWorkCompletes :
    (((dmaState .transfer (xferDesc 4096 64 1)).cl 575).dmaQ = [dmaHead .transfer] ∧ (dmaState .transfer (xferDesc 4096 64 1)).desc 0 = some (xferDesc 4096 64 1)
      ∧ ddLocal (xferDesc 4096 64 1) = true ∧ inStash 0 = false ∧ inStash 4096 = false ∧ (dmaState .transfer []).stash.released = none ∧ (dmaState .transfer []).cow.pages = []) ∧
    (((dmaState .limber (limberDesc 1)).cl 575).dmaQ = [dmaHead .limber] ∧ ((dmaState .limber (limberDesc 1)).limber 47).queue.length ≤ 64) ∧
    (let s := { dmaState .limber (limberDesc 1) with limbers := [(47, { queue := [⟨575, 3, 0, 1, 0⟩] })] };
      (s.limber 47).queue = ⟨575, 3, 0, 1, 0⟩ :: [] ∧ s.desc 0 = some (limberDesc 1)) ∧
    (let s := { dmaState .bank (bankDesc 0) with banks := [(64 * 47, { handover := some ⟨575, 4, 0x10⟩ }), (64 * 47 + 52, { power := 2, powerNow := 2, transition := true })] };
      (s.bank 47 0).handover = some ⟨575, 4, 0x10⟩ ∧ (s.bank 47 0).transition = false ∧ s.job.state ≠ .fault ∧ (s.cl 575).dmaQ = [dmaHead .bank]
        ∧ (dmaHead .bank).n = 4 ∧ (s.bank 47 52).transition = true ∧ (s.bank 47 52).powerNow = 2) := by decide

theorem witness_DmaWorkCompletes_reads :
    (dmaState .transfer (xferDesc 4096 64 1)).clocked 575 = true ∧ OnTime (dmaState .transfer (xferDesc 4096 64 1)) 575
      ∧ (withCl { dmaQ := [dmaHead .transfer] }).clocked 575 = false
      ∧ rereadsUsed 1 (lineOk 0 0) [{ line0 with crc := 1 }, { line0 with crc := 1 }] = none
      ∧ (ddLocal (xferDesc 4096 64 1 1) = false ∧ (dmaHead .transfer).done = false)
      ∧ (dmaState .limber (limberDesc 1)).arithStopped (clDie 575 / 6) = false
      ∧ ({ dmaState .limber (limberDesc 1) with power := { inst := [(7, { switching := some 1 })] } } : State).arithStopped (clDie 575 / 6) = true := by
  refine ⟨by decide, by unfold OnTime; decide, by decide, ?_, by decide, by decide, by decide⟩
  simp [rereadsUsed, line_bad, List.findIdx?, List.findIdx?.go]

/-- `SYNC_WAIT`, `SYNC_SIGNAL` and `BEAT_WAIT`: object 1, a target or increment, an offset. -/
def wWait (target : Nat) : Nat := 11 * 2 ^ 123 + 2 ^ 109 + 2 ^ 108 + target * 2 ^ 76
def wSignal (id after inc : Nat) : Nat := 12 * 2 ^ 123 + id * 2 ^ 109 + after * 2 ^ 105 + inc * 2 ^ 89
def wBeat (offset : Nat) : Nat := 13 * 2 ^ 123 + offset * 2 ^ 91
/-- `BOUND_LOAD` of form `f` into class `k`; `MASK`. -/
def wBound (f k v : Nat) : Nat := 14 * 2 ^ 123 + f * 2 ^ 121 + k * 2 ^ 117 + 4 * 2 ^ 113 + v * 2 ^ 81 + (2 ^ 32 - 1) * 2 ^ 49
def wMask (form : Nat) : Nat := 15 * 2 ^ 123 + 3 * 2 ^ 121 + form * 2 ^ 120 + 0x7FFF * 2 ^ 68 * form
theorem witness_SyncTimeAndBoundInstructionsExecute :
    (mayIssue (wWait 5) = true ∧ iClass (wWait 5) = 11) ∧
    (mayIssue (wSignal 0x3DFF 0 1) = true ∧ iClass (wSignal 0x3DFF 0 1) = 12
      ∧ (let g : PendSignal := ⟨0, 0x3DFF, 0, 1, 0, 0⟩; ({} : Cluster).signalReady g = true ∧ ({} : Cluster).signals = [] ∧ bitsOf (wSignal 0x3DFF 0 1) 104 89 ≠ 0)) ∧
    (let g : PendSignal := ⟨2, 1, 1, 1, 0, 0⟩; ({ arrayQ := [pass 1 0] } : Cluster).signalReady g = false ∧ mayIssue (wSignal 1 1 1) { arrayQ := [pass 1 0] } = true) ∧
    -- a point of the present, and one a beat ahead
    (mayIssue (wBeat 0) = true ∧ iClass (wBeat 0) = 13 ∧ (issuing (wBeat 0)).pointOf 0 (signed 32 (bitsOf (wBeat 0) 122 91)) 0 ≤ (issuing (wBeat 0)).planNow
      ∧ ¬(issuing (wBeat 1)).pointOf 0 (signed 32 (bitsOf (wBeat 1) 122 91)) 0 ≤ (issuing (wBeat 1)).planNow) ∧
    -- every form; the last word of feeder memory
    (∀ f ∈ [0, 1, 2], mayIssue (wBound f 3 0) = true ∧ iClass (wBound f 3 0) = 14 ∧ blForm (wBound f 3 0) = f ∧ (issuing (wBound f 3 0)).boundCheck 575 (fetched (wBound f 3 0)) = .ok) ∧
    ((issuing (wBound 1 3 0x1FFFFC)).boundCheck 575 (fetched (wBound 1 3 0x1FFFFC)) = .ok ∧ blValue (wBound 1 3 0x1FFFFC) % 2 ^ 26 + 4 ≤ feederBytes) ∧
    -- a form that does not exist, a class not loaded by the stream, a value beyond the planned maximum in FORWARD and in REDUCE
    ((issuing (wBound 3 3 0)).boundCheck 575 (fetched (wBound 3 3 0)) = .field 4 ∧ (issuing (wBound 0 2 0)).boundCheck 575 (fetched (wBound 0 2 0)) = .field 6) ∧
    ((issuing (wBound 2 3 0) { bounds := [(4, 129)] }).boundCheck 575 (fetched (wBound 2 3 0)) = .bound 3 129 128 ∧ (streamOf 575 0 1).phaseOf 0 ≤ 2
      ∧ 2 < (streamOf 575 0 3).phaseOf 0 ∧ mayIssue (wBound 2 3 0) { bounds := [(4, 129)] } [] 3 = true
      ∧ (issuing (wBound 2 3 0) { bounds := [(4, 129)] } [] 3).boundCheck 575 (fetched (wBound 2 3 0) 3) = .bound 3 129 128) ∧
    (mayIssue (wMask 0) = true ∧ iClass (wMask 0) = 15 ∧ bitsOf (wMask 0) 120 120 = 0 ∧ bitsOf (wMask 1) 120 120 = 1 ∧ bitsOf (wMask 1) 87 68 * 64 + 64 = feederBytes) := by decide

/-- The state above with a sync state, and with the job as given. -/
def syncing (y : Sync) (j : JobState := .running) (begun : Option Nat := some 0) : State :=
  let s := issuing 0
  { s with sync := y, job := { s.job with state := j, begun := begun } }
theorem witness_WaitsEndAndSignalsArrive :
    (let s := { syncing { waits := [⟨575, 1, 5, true⟩] } with clusters := [(575, { wait := .sync 1 5 })] };
      (s.cl 575).wait = .sync 1 5 ∧ (∃ x ∈ s.sync.waits, x.cluster = 575 ∧ x.satisfied = true) ∧ s.clocked 575 = true) ∧
    (let s := { issuing 0 with clusters := [(575, { wait := .beat 0 0 })] };
      (s.cl 575).wait = .beat 0 0 ∧ ((s.stepBegin (s.clStep 575) : Int) + 0) * 65536 + 0 ≤ s.planNow ∧ s.clocked 575 = true) ∧
    -- an object that does not reset, at the largest sum and beyond it
    (let s := syncing { values := [(2, 2 ^ 32 - 2)], transit := [⟨0, 2, 1, 0, 0⟩, ⟨512, 2, 2, 0, 0⟩] };
      s.sync.transit[1]? = some ⟨512, 2, 2, 0, 0⟩ ∧ s.inOrder 1 ⟨512, 2, 2, 0, 0⟩ = true ∧ s.declared 2 = true ∧ (s.syncDecl 2).resets = false ∧ s.syncValue 2 + 1 < 2 ^ 32 ∧ 2 ^ 32 ≤ s.syncValue 2 + 2) ∧
    -- one that resets: present step, later step, earlier step, before the first step, in `LOADED`
    (let s := syncing { transit := [⟨0, 1, 1, 0, 0⟩] };
      s.inOrder 0 ⟨0, 1, 1, 0, 0⟩ = true ∧ s.declared 1 = true ∧ (s.syncDecl 1).resets = true ∧ s.job.state ≠ .loaded ∧ 0 % 2 ^ 32 = s.homeStep ∧ s.job.begun ≠ none ∧ serialLater s.homeStep 1 = true
        ∧ serialLater s.homeStep (2 ^ 32 - 1) = false ∧ s.sync.held.length < 256) ∧
    ((syncing {} .armed none).job.begun = none ∧ (2 ^ 32 - 1) % 2 ^ 32 = (syncing {} .armed none).homeStep ∧ (syncing {} .loaded none).job.state = .loaded) := by decide
theorem witness_WaitsEndAndSignalsArrive_loads :
    -- a load of each kind, at the last word of feeder memory; a module whose clocks stand still
    (let l : RegLoad := ⟨0, false, wBound 1 3 0x1FFFFC, 0, 0⟩; ({ loads := [l] } : Cluster).nextLoad false = some l
      ∧ blValue l.word % 2 ^ 26 + 4 ≤ feederBytes ∧ OnTime (issuing 0 { loads := [l] }) 575 ∧ (issuing 0 { loads := [l] }).clocked 575 = true
      ∧ (withCl { loads := [l] }).clocked 575 = false) ∧
    (let l : RegLoad := ⟨0, true, wMask 1, 0, 0⟩; ({ loads := [l] } : Cluster).nextLoad true = some l ∧ bitsOf l.word 87 68 * 64 + 64 ≤ feederBytes) := by
  unfold OnTime
  decide
theorem witness_WaitsEndAndSignalsArrive_order :
    -- of two signals of one die to one home the first arrives first; an object that the plan does not declare; no such signal
    (let s := syncing { transit := [⟨0, 1, 1, 0, 0⟩, ⟨1, 1, 1, 0, 0⟩] }; s.inOrder 0 ⟨0, 1, 1, 0, 0⟩ = true ∧ s.sync.transit[1]? = some ⟨1, 1, 1, 0, 0⟩
      ∧ s.inOrder 1 ⟨1, 1, 1, 0, 0⟩ = false ∧ s.sync.transit[2]? = none) ∧
    (syncing {}).declared 3 = false := by decide

/-! ### Witnesses: flows, links, messages -/

/-- A flow of channel `ch`. -/
def flowOf (ch sub : Nat) (out : Bool) : Flow := { id := 9, channel := ch, sub := sub, session := 1, addr := host1, outbound := out, window := if out then 0 else 4096 }
/-- A module with one open session and this flow, `c` cycles after reset. -/
def withFlow (f : Flow) (c : Nat := 0) : State := { open1 with host := { open1.host with flows := [f] }, time := { cycles := c } }
theorem witness_FlowsOpenAndClose :
    (open1.start.wardenHeld = false ∧ 9 ≤ open1.start.stage) ∧
    -- a plan image, at the last slot and beyond it; records without a session; a plan image without one
    (open1.openCheck host1 1 1 7 = 0 ∧ open1.openCheck host1 1 1 8 ≠ 0 ∧ open1.openCheck host1 0 3 0 = 0 ∧ open1.session host1 0 = none ∧ subOk 1 7 = true) ∧
    ((withFlow (flowOf 1 7 false)).flow 9 = some (flowOf 1 7 false) ∧ (flowOf 1 7 false).outbound = false ∧ (flowOf 1 7 false).held = [] ∧ 0 < 1) ∧
    ((withFlow (flowOf 4 7 true)).flow 9 = some (flowOf 4 7 true) ∧ (flowOf 4 7 true).outbound = true ∧ { flowOf 2 0 true with count := some 0 }.count ≠ none) ∧
    (¬ (withFlow (flowOf 1 7 false) (30 * secCycles)).time.cycles < (flowOf 1 7 false).lastRx + 30 * secCycles
      ∧ (withFlow (flowOf 1 7 false) (30 * secCycles - 1)).time.cycles < (flowOf 1 7 false).lastRx + 30 * secCycles) ∧
    -- a checkpoint that streams with another behind it; one that has waited 30 s, and one a cycle less
    (let s := { withFlow { flowOf 2 0 true with count := some 0 } with snap := { checkpoint := some ⟨3, 0, 0, some 9⟩, nextCheckpoint := some ⟨4, 1, 0, none⟩ } };
      s.snap.checkpoint = some ⟨3, 0, 0, some 9⟩ ∧ (∀ n, s.snap.nextCheckpoint = some n → n.flow = none) ∧ s.start.wardenHeld = false) ∧
    ((withFlow (flowOf 1 7 false) (30 * secCycles)).waitedOut (some ⟨4, 1, 0, none⟩) = true ∧ (withFlow (flowOf 1 7 false) (30 * secCycles - 1)).waitedOut (some ⟨4, 1, 0, none⟩) = false
      ∧ (open1.deaf = false ∧ ({ open1 with start := { open1.start with wardenHeld := true } } : State).deaf = true)) := by
  refine ⟨by decide, by decide, by decide, by decide, by decide, ?_, by decide⟩
  refine ⟨rfl, fun n h => ?_, rfl⟩
  cases h; rfl
theorem witness_BlocksAreCarried :
    -- the fifteenth failure of a block and the sixteenth; a block taken, the last of the window and one beyond it
    (sget 0 { flowOf 1 7 false with fails := [(0, 14)] }.fails 0 < 15 ∧ 15 ≤ sget 0 { flowOf 1 7 false with fails := [(0, 15)] }.fails 0) ∧
    (0 < { flowOf 1 7 false with next := 1, seen := 1 }.next ∧ (flowOf 1 7 false).window ≤ 4096 ∧ 0 < (flowOf 1 7 false).window) ∧
    ((flowOf 1 7 false).seen = (flowOf 1 7 false).next ∧ (flowOf 1 7 false).count = none
      ∧ (withFlow (flowOf 1 7 false)).libraryUsed 7 + ((withFlow (flowOf 1 7 false)).formatsNow 7).length * (([] : Bytes).length + 8192) ≤ libraryBytes) ∧
    ({ flowOf 1 7 false with sinceAck := 30 }.sinceAck < 31 ∧ 31 ≤ { flowOf 1 7 false with sinceAck := 31 }.sinceAck) ∧
    ((flowOf 4 7 true).channel ≠ 15 ∧ (withFlow (flowOf 4 7 true)).snap.checkpoint = none) ∧
    ¬ (withFlow (flowOf 4 7 true) (5 * msCycles)).time.cycles < (flowOf 4 7 true).lastAck + 5 * msCycles := by decide

/-- A module with the last skid port in this state. -/
def skidding (p : SkidPort) (c : Nat := 0) : State := { State.reset with skid := [(15, p)], time := { cycles := c } }
theorem witness_LinksCarryFrames :
    (((skidding { state := .up }).port 15).state = .up ∧ 4000 ≤ 4000 ∧ ((skidding { state := .up }).port 15).backlog = 0) ∧
    (crcOk (sealFrame (frame 1)) = true ∧ (sealFrame (frame 1)).seq = ({} : SkidPort).rxSeq ∧ (sealFrame (frame 1)).cls < 3 ∧ (sealFrame (frame 1)).last = true
      ∧ (sealFrame { frame 1 with last := false }).last = false) ∧
    (crcOk { sealFrame (frame 1) with fcrc := frameCrc (frame 1) + 1 } = false ∧ (sealFrame (frame 1)).seq ≠ ({ rxSeq := 4095 } : SkidPort).rxSeq) := by
  exact ⟨by decide, ⟨seal_ok _, rfl, Nat.zero_lt_succ _, rfl, rfl⟩, unsealed _, by show 0 ≠ 4095; decide⟩
theorem witness_LinksCarryFrames_naks :
    -- this end's fourth NAK of a number, before and after a retrain, and its third
    (let p : SkidPort := { state := .up, rxNakRun := 3 }; 3 ≤ p.rxNakRun ∧ p.state = .up ∧ p.rxNakRetrained = false ∧ { p with rxNakRetrained := true }.rxNakRetrained = true
      ∧ ({ p with rxNakRun := 2 } : SkidPort).rxNakRun < 3) ∧
    -- the fourth NAK of one number from the far end, before and after a retrain, and its third
    (let p : SkidPort := { state := .up, nakRun := 3, nakSeq := 0 }; p.nakRun ≠ 0 ∧ p.nakSeq = (frame 3).ack ∧ 3 ≤ p.nakRun ∧ p.nakRetrained = false
      ∧ { p with nakRetrained := true }.nakRetrained = true ∧ ({ p with nakRun := 2 } : SkidPort).nakRun < 3) ∧
    (let s := skidding { state := .down, downSince := 0 } (msCycles + 1); (s.port 15).state = .down ∧ (s.port 15).downRaised = false ∧ (s.port 15).downSince + msCycles < s.time.cycles
      ∧ s.start.wardenHeld = false ∧ ¬ msCycles < (skidding {} msCycles).time.cycles) := by decide
theorem witness_LinksCarryFrames_control :
    (({} : SkidPort).state = .down ∧ ({ state := .up } : SkidPort).state ≠ .down ∧ ({ state := .up } : SkidPort).state ≠ .epochHeld) ∧
    State.reset.beatEpoch + 1 ≠ State.reset.beatEpoch ∧
    (((skidding { state := .training }).port 15).state = .training ∧ ((skidding { state := .retraining }).port 15).state = .retraining) := by decide
/-- Modules of spine die 0: the first, of a compute die, and the last, of the link to spine die 1, which that die knows as another. -/
theorem witness_LinksCarryFrames_spine :
    (spineFar 0 0 = some 0 ∧ spineTwin 0 0 = none ∧ (spineJoins 0).length = 150 ∧ spineFar 0 149 = some 93 ∧ spineTwin 0 149 = some (1, 145) ∧ spineFar 1 145 = some 92
      ∧ spineFar 0 150 = none ∧ spineFar 4 0 = none) ∧
    -- the fifth failure in a row of one flit, before and after a retrain, and the fourth
    (4 ≤ sget 0 ({ run := [(3, 3)] } : Spine).run 3 + 1 ∧ sget 0 ({ run := [(3, 2)] } : Spine).run 3 + 1 < 4
      ∧ sget false ({} : Spine).afterRetrain 3 = false ∧ sget false ({ afterRetrain := [(3, true)] } : Spine).afterRetrain 3 = true
      ∧ sget false ({ retraining := [(3, true)] } : Spine).retraining 3 = true) := by decide +kernel
/-- A module of a job of two whose last port leads to the other. -/
def paired (j : JobState := .running) (m : Msg := msg 1) : State :=
  { State.reset with
    job := { state := j, plan := some { plan0 with moduleCount := 2, peers := (List.range 16).map fun n => ⟨decide (n = 15), 1⟩ } }
    net := { graph := [(0, [(15, 1)]), (1, [(15, 0)])], inbox := [m] }
    skid := [(15, { state := .up })]
    cxl := { devices := [{ cxl1 with window := 2 ^ 20 }] }
    power := { gates := [(47, { die := false, regions := 0, clusters := 0 })] } }
/-- A frame that carries the first 256 bytes of a message of kind 3, or of a stray kind. -/
def bytesFrame (kind : Nat) : SkidFrame := { frame 1 with payload := leBytes 256 (kind * 2 ^ 16) }
theorem witness_LinksCarryFrames_message :
    (∃ k ∈ List.range 16, 0 < k ∧ (paired).job.plan ≠ none ∧ (paired).self = 0) ∧ (parseMsg 15 (frame 1).payload).hops ≤ 15 := by
  refine ⟨⟨3, by decide, by decide, by decide, by decide⟩, by decide⟩
/-- A route to the other module. -/
theorem witness_route : routePort (paired).net.graph (paired).self 0 1 = some 15 := by
  unfold routePort
  rw [show nearer (paired).net.graph (paired).self 1 = some 1 by decide]
  dsimp only
  rw [show (((neighboursOf (paired).net.graph (paired).self).filter (fun e => decide (e.2 = 1))).map (fun e => e.1)) = [15] by decide]
  simp
theorem witness_MessagesHaveTheirEffect :
    -- a row of 64 bytes to the first and the last line of the CXL window, and beyond it
    ((paired).decodes cxlBase 64 = true ∧ (paired).decodes (cxlBase + (paired).windowBytes - 64) 64 = true ∧ (paired).decodes (cxlBase + (paired).windowBytes) 64 = false
      ∧ cxlBase < stashBase ∧ (paired).stash.released = none ∧ (paired .fault).job.state = .fault) ∧
    (64 < { msg 1 with total := 128 }.total ∧ { msg 1 with total := 64 }.total ≤ 64) ∧
    -- a relayed signal of the last port
    (0x3C00 + 32 * 15 + 31 < 0x3E00 ∧ ((paired).syncDecl 0x3DFF).resets = false ∧ (paired).syncValue 0x3DFF + 65535 < 2 ^ 32) ∧
    -- an acknowledged transfer and an unknown one
    (let op : DmaOp := { dmaHead .transfer with done := true, transfer := 7 };
      ({ paired with clusters := [(575, { dmaQ := [op] })] } : State).sender 7 = some 575 ∧ ({ paired with clusters := [(575, { dmaQ := [op] })] } : State).sender 8 = none) ∧
    (((paired).peer 15).used = true ∧ ((paired).peer 14).used = false ∧ ((paired).peer 15).module ≠ 5) ∧
    ((paired).job.plan ≠ none ∧ State.reset.job.plan = none ∧ (paired .armed).job.state = .armed ∧ (paired).safe.latch = false
      ∧ (1, [(15, 0)]) ∈ (paired).net.graph ∧ (1, []) ∉ (paired).net.graph) := by decide
theorem witness_MessagesHaveTheirEffect_relays :
    -- a relay that the plan declares and one that it does not; the wait for a gradient row ends, or goes on
    (let s : State := { paired with job := { (paired).job with plan := (paired).job.plan.map fun p => { p with sync := [⟨0x3DFF, false, 0, 0⟩] } } };
      s.declared 0x3DFF = true ∧ s.declared 0x3DFE = false ∧ (s.syncDecl 0x3DFF).resets = false ∧ s.syncValue 0x3DFF + 65535 < 2 ^ 32) ∧
    ((skidding { unacked := [7] }).rowAcked 7).rowsAcked = true ∧ ((skidding { unacked := [7, 8] }).rowAcked 7).rowsAcked = false ∧
    (let op : DmaOp := { dmaHead .transfer with done := true, transfer := 7 };
      OnTime (issuing 0 { dmaQ := [op] }) 575 ∧ ((issuing 0 { dmaQ := [op] }).cl 575).dmaQ = op :: [] ∧ (issuing 0 { dmaQ := [op] }).sender 7 = some 575) := by
  unfold OnTime
  decide

/-! ### Witnesses: ingest and the update -/

/-- A sample header of format `f`, of stream 1, for step `k`, that claims `n` positions. -/
def header (f k n : Nat) : Bytes := descOf [(9, f), (0x0A, 1), (0x10, k), (0x18, n)]
/-- The descriptors: a row geometry of stand 7 of two rows of 4 positions of 16 bytes, its guard point 10 beats before the deadline,
and stream 1 of that stand, whose mean charge is 100 cycles; the stand's pool has 128 bytes. -/
def geomDesc : Bytes := descOf [(0, 3), (2, 7), (4, 4), (8, 16), (0x0C, 2), (0x10, 0x10000), (0x18, 0x10000), (0x20, 2), (0x21, 0xFF), (0x22, 2), (0x24, 10)]
def streamDesc1 : Bytes := descOf [(0, 2), (2, 7), (3, 1), (5, 0), (6, 0x3FF), (0x10, 100), (0x2E, 0xFFFF)]
def standDesc7 : Bytes := descOf [(0, 1), (2, 7), (0x10, 2 ^ 20), (0x20, 128)]
/-- A sample of arrival `a`. -/
def sample (a f k n : Nat) (st : SampleState) : Sample :=
  { arrival := a, header := header f k n, payload := List.replicate 64 0#8, boxes := [], carries := 0, state := st }
/-- A module that ingests step 0 on stand 7, its admission open at `beat`. -/
def ingesting (x : Stand) (beat : Nat := 0) : State :=
  { State.reset with
    job := { state := .running, startBeat := 1000, plan := some { plan0 with ingest := [geomDesc, streamDesc1, standDesc7] } }
    time := { counter := beat * 2 ^ 48 }
    ingest := { stands := [(7, x)], admitting := [0] } }
theorem witness_SamplesAreDecoded_start :
    -- the sample of the lower step starts; a decoded one needs no context; one of a step too far ahead waits
    (let e := sample 5 1 0 4 .queued; let s := ingesting { samples := [sample 4 1 1 4 .queued, e] };
      e ∈ (s.stand 7).samples ∧ e.state = .queued ∧ smClass e.header = 0 ∧ s.mayDecode e = true ∧ 0 < classContexts 0 ∧ 64 * 0 + 47 ∉ (s.stand 7).freed
        ∧ smStep e.header < smStep (sample 4 1 1 4 .queued).header) ∧
    (smClass (header 9 0 4) = 3 ∧ (ingesting {}).mayDecode (sample 5 9 1 4 .queued) = false) := by decide
theorem witness_SamplesAreDecoded_turns :
    let e := sample 5 9 0 4 .decoding
    let s := ingesting { samples := [e] }
    ((s.stand 7).sample 5 = some e ∧ e.state = .decoding ∧ s.streamDesc (smStream e.header) = some streamDesc1 ∧ s.ingestFlow 7 = none
      ∧ (∀ x ∈ (s.stand 7).samples, x.state ≠ .waitPool)) ∧
    -- at the budget of 3200 cycles, and one above it
    (e.charged + 3200 ≤ s.budget streamDesc1 ∧ s.budget streamDesc1 < e.charged + 3201) ∧
    (s.active 0x5000 4 0 ≠ 1 ∧ smFormat e.header = 9 ∧ bjForm streamDesc1 = 0 ∧ bjStem streamDesc1 = 0xFFFF ∧ e.payload.length ≤ s.poolFree 7) ∧
    s.overBudget { e with charged := 3201 } = true ∧
    -- the longest turn; a tensor is dropped for no reason of its payload
    (3200 ≤ 131072 ∧ e.ctx = none ∧ dropReason streamDesc1 e = none ∧ endsEarly e = false) := by decide
/-- Of two busy contexts of one engine the one after the last served is next. -/
theorem witness_SamplesAreDecoded_round :
    let x : Stand := { samples := [{ sample 5 1 0 4 .decoding with ctx := some 2 }, { sample 6 1 0 4 .decoding with ctx := some 3 }], turns := [(0, 3)] }
    x.inTurn 3 = true ∧ x.inTurn 2 = false := by decide
/-- A tensor whose output fits its claim and its pool. A picture that would have to be resized, on a stream that does not, is dropped
whatever its payload holds. -/
theorem witness_SamplesAreDecoded_ends :
    let e := sample 5 9 0 4 .decoding
    let s := ingesting { samples := [e] }
    ((s.converted streamDesc1 e).2.1.sum * rwPos (s.rowGeom streamDesc1) ≤ s.claimOutput streamDesc1 e.header ∧ (s.converted streamDesc1 e).2.2 = 0
      ∧ s.stemGeom streamDesc1 = none ∧ (s.converted streamDesc1 e).1.length ≤ s.poolFree 7) := by decide
theorem witness_SamplesAreDecoded_drops : dropReason streamDesc1 (sample 5 1 0 4 .decoding) ≠ none := by
  have hc : smClass (sample 5 1 0 4 .decoding).header = 0 := by decide
  have h4 : smDim (sample 5 1 0 4 .decoding).header 0 = 4 := by decide
  have hf : (pictureForm streamDesc1).resize = 0 ∧ (pictureForm streamDesc1).w = 0 := by decide
  unfold dropReason
  simp only [hc]
  rw [h4, hf.1, hf.2]
  by_cases h : (sample 5 1 0 4 .decoding).parsed.width = 4
  · simp [h]
    split <;> simp
  · simp [h]
    split
    · simp
    · simp
theorem witness_SamplesAreDecoded_load :
    (ingesting {}).ingest.load = [] ∧ fieldAt (u64 5) 0 8 / 2 ^ 22 = State.reset.stamp / 2 ^ 22 ∧ fieldAt (u64 (2 ^ 22)) 0 8 / 2 ^ 22 ≠ State.reset.stamp / 2 ^ 22 := by decide
theorem witness_SamplesAreDecoded_placing :
    let e := { sample 5 9 0 4 .ready with segments := [4] }
    let s := ingesting { samples := [e] }
    ((s.stand 7).sample 5 = some e ∧ e.state = .ready ∧ 0 ∉ e.segments ∧ e.step ∈ s.ingest.admitting ∧ s.streamDesc (smStream e.header) = some streamDesc1) ∧
    (rowKey (bjRows streamDesc1) e.step ∉ (s.stand 7).guarded ∧ (s.stand 7).rows = []
      ∧ sget 0 (s.stand 7).closed (rowKey (bjRows streamDesc1) e.step) < rwRows (s.rowGeom streamDesc1)) ∧
    (0 ∈ ({ e with segments := [0] } : Sample).segments ∧ { e with carries := 1 }.step ∉ s.ingest.admitting) := by decide
/-- A closed row of sample 5. -/
def closedRow : PackRow := ⟨0, 0, 4, 1, [(5, 0, 1)], some 1⟩
theorem witness_RowsAreWrittenAndAdmitted :
    (let s := ingesting {} 980;
      s.ingestDesc 0 = some geomDesc ∧ bjType geomDesc = 3 ∧ bjStand geomDesc = 7 ∧ s.ingest.admitting = [0] ∧ rowKey 0 0 ∉ (s.stand 7).guarded
        -- the guard point and the sub-beat before it
        ∧ s.deadlineOf 0 - (rwGuard geomDesc : Int) * (2 ^ 16 : Nat) ≤ s.planNow ∧ ¬ (ingesting {} 979).deadlineOf 0 - (rwGuard geomDesc : Int) * (2 ^ 16 : Nat) ≤ (ingesting {} 979).planNow
        ∧ rwDone geomDesc ≠ 0xFFFF ∧ bitsOf (rwDone geomDesc) 13 0 < 0x3E00) ∧
    -- the last row of the set
    (let s := ingesting { samples := [sample 5 9 0 4 .placed], rows := [closedRow], written := [(0, 1)] };
      sget 0 (s.stand 7).written (rowKey 0 0) = 1 ∧ 1 < rwRows geomDesc ∧ (s.stand 7).rows.find? (fun r => decide (r.geom = rowKey 0 0 ∧ r.index = some 1)) = some closedRow
        ∧ rwBoxClass geomDesc = 0xFF ∧ s.ingestFlow 7 = none ∧ s.cow.pages = [] ∧ s.rowSet 7 0 geomDesc + 1 * rwRowBytes geomDesc + rwRowBytes geomDesc ≤ hbmEnd
        ∧ closedRow.parts = [(5, 0, 1)] ∧ (s.stand 7).sample 5 = some (sample 5 9 0 4 .placed)) ∧
    -- the deadline and the beat before it
    (lowest (ingesting {} 990).ingest.admitting = some 0 ∧ (ingesting {} 990).deadlineOf 0 ≤ (ingesting {} 990).planNow
      ∧ (ingesting {} 989).planNow < (ingesting {} 989).deadlineOf 0 ∧ (0, geomDesc) ∈ (ingesting {} 990).standGeoms 7 ∧ rwRowsClass geomDesc ≠ 0xFF) := by decide

/-- An update descriptor of group 2, of `n` elements on stack 3, its gradient buffer at 0x20000, its counters at 0x40000, with a deadline 2,000
beats into the step and an object to signal. -/
def updDesc (n : Nat) : Bytes := leBytes 128 (([(0, 2), (3, 3), (8, 2000), (0x0C, 1), (0x10, n), (0x20, 0x20000), (0x28, 0x30000), (0x48, 0x40000), (0x6A, 2)] : List (Nat × Nat)).map
  fun e => e.2 * 256 ^ e.1).sum
/-- A gradient row for descriptor `i` and step `k`: four FP32 elements from element `first`, from module 1. -/
def gradRow (i first k : Nat) : Msg := { msg 2 with arg := k, origin := 1, body := leBytes 16 (i + first * 256 ^ 8) ++ leBytes 16 0x3F800000 }
/-- A module of two in whose step 0 the update accepts rows, at a beat; one descriptor of `n` elements. -/
def updating (u : Update) (beat : Nat := 0) (n : Nat := 8) : State :=
  { paired with
    job := { (paired).job with begun := some 0, plan := (paired).job.plan.map fun p => { p with updates := [updDesc n] } }
    time := { counter := beat * 2 ^ 48 }
    upd := u }
theorem witness_ContributionsAreTakenAndApplied :
    (let s := updating { rows := [gradRow 0 4 0], accepting := some 0 };
      s.job.plan ≠ none ∧ s.job.state ≠ .fault ∧ s.upd.rows = gradRow 0 4 0 :: [] ∧ s.updates[gpIndex (gradRow 0 4 0)]? = some (updDesc 8)
        ∧ s.upd.accepting = some 0
        -- the last four elements, and one beyond them
        ∧ gpFirst (gradRow 0 4 0) + gpCount (gradRow 0 4 0) = udElems (updDesc 8) ∧ udElems (updDesc 8) < gpFirst (gradRow 0 5 0) + gpCount (gradRow 0 5 0)
        ∧ s.isLate 0 (updDesc 8) 0 0 = false ∧ Memory.wf s.mem = true ∧ s.updates[gpIndex (gradRow 1 0 0)]? = none) ∧
    -- a row of a later step, and one of an earlier step with stale rows dropped
    (0 < (gradRow 0 0 1).arg ∧ (gradRow 0 0 0).arg < 1 ∧ ({ updating {} with tally := { active := [(256 * 0x6000 + 2, u8 1)] } } : State).staleDrop = true) ∧
    -- the deadline, at which a row is not late, and the beat after it
    ((updating { accepting := some 0 } 2001).pointOf 0 (udDeadline (updDesc 8)) 0 < ((updating { accepting := some 0 } 2001).planNow : Int)
      ∧ (updating { accepting := some 0 } 2000).isLate 0 (updDesc 8) 0 0 = false ∧ (updating { accepting := some 0 } 2001).isLate 0 (updDesc 8) 0 0 = true) ∧
    -- a buffer whose elements are aligned, and a cache with room for the row's blocks
    (let s := updating { rows := [gradRow 0 4 0], accepting := some 0 };
      udGrad (updDesc 8) % 16 = 0 ∧ ((s.cacheOf (udStack (updDesc 8))).map (fun x => x.block)).Nodup
        ∧ (s.cacheOf (udStack (updDesc 8))).length + (rowBlocks (updDesc 8) (gpFirst (gradRow 0 4 0)) (gpCount (gradRow 0 4 0))).length ≤ 4096) := by decide
theorem witness_ContributionsAreTakenAndApplied_peer :
    let s := updating { accepting := some 0 }
    let m := gradRow 0 4 0
    s.job.plan ≠ none ∧ s.job.state ≠ .fault ∧ s.updates[gpIndex m]? = some (updDesc 8) ∧ gpFirst m + gpCount m ≤ udElems (updDesc 8)
      ∧ s.upd.accepting = some 0 ∧ m.arg = 0 ∧ s.isLate (gpIndex m) (updDesc 8) 0 0 = false ∧ routePort s.net.graph s.self s.self m.origin = some 15 := by
  refine ⟨by decide, by decide, by decide, by decide, rfl, rfl, by decide, witness_route⟩
theorem witness_ContributionsAreTakenAndApplied_apply :
    (let s := updating { decision := some ⟨0, 1, [], 0, 1⟩, applying := true };
      s.upd.decision = some ⟨0, 1, [], 0, 1⟩ ∧ s.upd.applying = true ∧ 0 ∉ s.upd.done ∧ s.updates[0]? = some (updDesc 8) ∧ udDone (updDesc 8) ≠ 0xFFFF
        ∧ udDone (updDesc 8) % 0x4000 < 0x3E00) ∧
    (let s := updating { decision := some ⟨0, 0, [], 0, 1⟩, applying := true } 0 0;
      udGroup (updDesc 0) ∉ ([] : List Nat) ∧ 0 ∉ s.upd.written ∧ udElems (updDesc 0) = 0 ∧ s.cow.pages = [] ∧ s.cow.held = [] ∧ udCounter (updDesc 0) + 64 ≤ hbmEnd
        ∧ crApplied (s.counterRec (updDesc 0)) + 1 < 2 ^ 64 ∧ udGroup (updDesc 8) ∈ [2]) := by decide

/-! ### Witnesses: the combine, captures, restores -/

/-- The graph of `paired`; module 1's part in it. -/
theorem paired_children : (paired).treeChildren = [1] := by
  unfold State.treeChildren
  rw [show ((neighboursOf (paired).net.graph (paired).self).map (fun e => e.2)).dedup.filter (fun n => decide (nearer (paired).net.graph n 0 = some (paired).self)) = [1] by decide]
  simp
/-- The other module of the two. -/
def other (u : Update) : State :=
  { paired with job := { (paired).job with plan := (paired).job.plan.map fun p => { p with moduleIndex := 1 } }, upd := u }
theorem other_children : (other {}).treeChildren = [] := by
  unfold State.treeChildren
  rw [show ((neighboursOf (other {}).net.graph (other {}).self).map (fun e => e.2)).dedup.filter (fun n => decide (nearer (other {}).net.graph n 0 = some (other {}).self)) = [] by decide]
  simp
/-- A record of step 0 with these groups. -/
def recOf (gs : List (Nat × GroupRec)) (nf : Bool := false) (w : Nat := 0) : CombineRec := ⟨0, 0, nf, 7, 7, w, gs⟩
/-- The middle one of three modules in a line. -/
def middle (u : Update) : State :=
  { paired with
    job := { (paired).job with plan := (paired).job.plan.map fun p => { p with moduleIndex := 1, moduleCount := 3 } }
    net := { graph := [(0, [(15, 1)]), (1, [(15, 0), (3, 2)]), (2, [(3, 1)])] }
    upd := u }
theorem middle_children : (middle {}).treeChildren = [2] := by
  unfold State.treeChildren
  rw [show ((neighboursOf (middle {}).net.graph (middle {}).self).map (fun e => e.2)).dedup.filter (fun n => decide (nearer (middle {}).net.graph n 0 = some (middle {}).self)) = [2] by decide]
  simp
theorem middle_route : routePort (middle {}).net.graph (middle {}).self (middle {}).self 0 = some 15 := by
  unfold routePort
  rw [show nearer (middle {}).net.graph (middle {}).self 0 = some 0 by decide]
  dsimp only
  rw [show (((neighboursOf (middle {}).net.graph (middle {}).self).filter (fun e => decide (e.2 = 0))).map (fun e => e.1)) = [15] by decide]
  simp [Nat.mod_one]
/-- Two reads of a line, neither of which agrees with its CRC. -/
theorem reads_bad : rereadsUsed 1 (lineOk 0 0) [{ line0 with crc := 1 }, { line0 with crc := 1 }] = none := by decide +kernel
theorem witness_NormsCombineAndDecide_up :
    (let s := middle { normStep := some 0, record := some (combineOf []) };
      (msg 5).origin ∉ [2] ∧ s.job.state ≠ .fault ∧ s.upd.sentUp = false ∧ s.upd.ups = [] ∧ (combineOf []).step = 0 ∧ s.treeParent = some 0) ∧ routePort (middle {}).net.graph (middle {}).self (middle {}).self 0 = some 15 ∧
    ((middle {}).treeChildren = [2] ∧ (other {}).treeChildren = []) ∧
    (let s := middle { normStep := some 0, record := some (combineOf []), sentUp := true }; s.treeParent = some 0 ∧ s.upd.sentUp = true) :=
  ⟨by decide, middle_route, ⟨middle_children, other_children⟩, by decide⟩
theorem witness_NormsCombineAndDecide :
    ((updating { normStep := some 0 }).upd.normStep = some 0 ∧ (updating { normStep := some 0 }).upd.passDone = false ∧ (updating {}).upd.ups = []
      ∧ (updating {}).upd.sentUp = false ∧ (paired).updates = []) ∧
    ((other {}).treeParent = some 0 ∧ (paired).treeParent = none ∧ (paired).job.state ≠ .fault) ∧
    -- each row of R356
    ((paired).decide356 (recOf [(2, ⟨4, 5, 1, 1, false⟩)]) = .stepSkew 2 4 5 ∧ (paired).decide356 (recOf [(2, ⟨4, 4, 1, 2, false⟩)]) = .groupSkew 2
      ∧ (paired).decide356 { recOf [] with jobHi := 8 } = .groupSkew 0xFFFF ∧ (paired).decide356 (recOf [] false 2) = .withdrawLate
      ∧ (paired).decide356 (recOf [] true) = .skip ∧ (paired).decide356 (recOf [(2, ⟨4, 4, 1, 1, true⟩)]) = .apply [2]
      ∧ ({ paired with tally := { active := [(256 * 0x6000 + 1, u8 1)] } } : State).decide356 (recOf [] true) = .halt) ∧
    (combineOf []).step = 0 := by
  refine ⟨by decide, by decide, by decide, rfl⟩

/-- A module of two that captures step 0 into its own slot 1: its first two pages, one of them copied to pool page 9. -/
def capturing2 (ps : List (Nat × PageState)) (remote : Bool := false) : State :=
  { paired with cow := { marked := [0, 1], state := 1, pages := ps }, snap := { capture := some ⟨0, 1, true, remote, remote, false⟩ },
                tally := { active := [(256 * 0x8110 + 1, u16 1)] } }
theorem witness_CapturesAreTakenAndHeld_pages :
    ((capturing2 [(0, .copying 9)]).pageState 0 = some (.copying 9) ∧ (capturing2 [(0, .copying 9)]).cow.held = [] ∧ Memory.wf (paired).mem = true) ∧
    (let s := capturing2 [(0, .shadowed 9), (1, .pending)];
      s.snap.capture = some ⟨0, 1, true, false, false, false⟩ ∧ s.pageState 0 = some (.shadowed 9) ∧ s.cow.state = 1 ∧ s.nextPage (0 / pagesPerStack) = some 0
        ∧ (s.cow.pages.filter fun e => decide (e.1 ≠ 0)) ≠ [] ∧ s.nextPage (1 / pagesPerStack) ≠ some 1) ∧
    (let s := capturing2 [(1, .pending)];
      s.pageState 1 = some .pending ∧ s.nextPage (1 / pagesPerStack) = some 1 ∧ (s.cow.pages.filter fun e => decide (e.1 ≠ 1)) = []) := by decide
/-- A message of a snapshot, from module 1, about step `k`. -/
def snapMsg (k : Nat) (body : Bytes := []) : Msg := { msg 13 with origin := 1, arg := k, body := body }
theorem witness_CapturesAreTakenAndHeld :
    ((cmd .running 0).hasCleared 0 = false ∧ ({ cmd .running 0 with job := { lastCleared := 0 } } : State).hasCleared 0 = true) ∧
    (let s := capturing2 [] true;
      s.snap.capture = some ⟨0, 1, true, true, true, false⟩ ∧ s.partner = 1 ∧ (snapMsg 0).origin = s.partner ∧ (snapMsg 0).arg % 2 ^ 32 = 0 % 2 ^ 32 ∧ (snapMsg 1).arg % 2 ^ 32 ≠ 0 % 2 ^ 32) ∧
    (let s := { paired with snap := { heldFor := some 1, newestSet := 3, partner := [(0, { state := 2, step := 3 })] } };
      -- the slot of the newest set is kept, and the other is taken; chunk 31 and the CRC
      s.snap.heldFor = some 1 ∧ s.slotFor 1 (s.fullStep 0) = some 1 ∧ s.job.state ≠ .fault ∧ bitsOf (31 * 64) 11 6 = 31 ∧ bitsOf (32 * 64) 11 6 = 32) ∧
    (∃ s : State, s.snap.heldFor ≠ some (snapMsg 0).origin) ∧
    -- results of a pairing
    (let s := { paired with tally := { active := [(256 * 0x4050 + 2, u64 (2 ^ 40))], rw := [(256 * 0x8140 + 1, u32 5), (256 * 0x8140 + 2, u32 6)] } };
      s.pairResult (snapMsg 0 (u32 7 ++ u32 8 ++ u32 1 ++ u64 0 ++ u64 1)) = 0 ∧ s.pairResult (snapMsg 0 (u32 7 ++ u32 8 ++ u32 1 ++ u64 0 ++ u64 2)) = 3
        ∧ coFed s.feedIds (pairFeeds (snapMsg 0 (u32 7 ++ u32 6))) = true) ∧
    ((paired).pairResult (snapMsg 0 (u32 7 ++ u32 8 ++ u32 1 ++ u64 0 ++ u64 1)) = 1 ∧ (capturing2 []).partner = (snapMsg 0 (List.replicate 29 0#8)).origin
      ∧ fieldAt (List.replicate 29 0#8) 28 1 = 0) := by
  refine ⟨by decide, by decide, by decide, ⟨State.reset, by decide⟩, by decide, by decide⟩
/-- A slot whose one page has come, its CRC with it. -/
def fullSlot : SnapSlot := { state := 1, step := 0, module := 1, pages := [(4, 0, [])], expect := some 1 }
theorem ite_bad (v crc : Nat) (x : SnapSlot) (a b : SnapSlot) (ha : a.bad = x.bad) (hb : b.bad = true) : (if v = crc then a else b).bad = if v = crc then x.bad else true := by
  split <;> assumption
theorem putCrc_bad (x : SnapSlot) (page : Nat) : ∃ v, ∀ crc, (x.putCrc page crc).bad = if v = crc then x.bad else true :=
  ⟨_, fun _ => ite_bad _ _ x _ _ rfl rfl⟩
/-- The CRC that agrees and one that does not; a slot that waits for no more pages, and one that does. -/
theorem witness_CapturesAreTakenAndHeld_crc :
    (∃ crc, (fullSlot.putCrc 4 crc).bad = false ∧ (fullSlot.putCrc 4 (crc + 1)).bad = true) ∧ fullSlot.expect = some (fullSlot.checked.length + 1)
      ∧ fullSlot.bad = false ∧ fullSlot.checked.length = fieldAt (u32 0) 0 4 ∧ fullSlot.checked.length ≠ fieldAt (u32 1) 0 4 := by
  obtain ⟨v, hv⟩ := putCrc_bad fullSlot 4
  refine ⟨⟨v, ?_, ?_⟩, rfl, rfl, rfl, by decide⟩
  · rw [hv, if_pos rfl]; rfl
  · rw [hv, if_neg (by omega)]
/-- A member already there; the last one; one before the last. A checkpoint that streams while another ends. -/
theorem witness_CapturesAreTakenAndHeld_members :
    (let s := { paired with snap := { members := [(0, [0])] } };
      (snapMsg 0).origin ∉ sget [] s.snap.members (s.fullStep (0 % 2 ^ 32)) ∧ (sget [] s.snap.members (s.fullStep (0 % 2 ^ 32))).length + 1 = s.modules
        ∧ (msg 13).origin ∈ sget [] s.snap.members (s.fullStep (0 % 2 ^ 32)) ∧ (sget [] s.snap.members 1).length + 1 ≠ s.modules) ∧
    (let s : State := { capturing2 [(1, .pending)] with snap := { capture := some ⟨0, 1, true, false, false, false⟩, checkpoint := some { step := 0, slot := 0, since := 0 } } };
      s.snap.checkpoint ≠ none ∧ s.pageState 1 = some .pending ∧ s.cow.state = 1 ∧ (capturing2 [(1, .pending)]).snap.checkpoint = none
        ∧ ∃ c, (capturing2 [(1, .pending)]).snap.capture = some c ∧ c.remote = false ∧ c.checkpoint = true) := by
  refine ⟨by decide, ?_⟩
  exact ⟨by decide, by decide, by decide, by decide, ⟨0, 1, true, false, false, false⟩, by decide, by decide, by decide⟩
theorem witness_CapturesAreTakenAndHeld_windthrow :
    -- an index at the threshold, and 4,096 below it
    (let s := { paired with snap := { e := 40000 }, time := { counter := 1024 * 2 ^ 48 } };
      s.beat / 1024 ≠ s.snap.lastEval / 1024 ∧ s.snap.armed = true ∧ 40000 - 40000 / 4096 < s.rwValue 0x8100 2 40000
        ∧ min 65535 (40009 - 40009 / 4096 + s.thermalPart + 8192 * s.holdoverMs / 1000) = s.rwValue 0x8100 2 40000) ∧
    (let s := { capturing2 [] with time := { counter := 1024 * 2 ^ 48 } };
      s.requestStep = some 0 ∧ s.partner ≠ 0xFFFF ∧ s.job.state ≠ .fault ∧ s.hasCleared 0 = false) ∧
    ((paired).partner = 0xFFFF ∧ State.reset.requestStep = none) := by decide

/-- A loaded job of two whose page 4 is marked, with this restore, `RESTORE_FROM` `from`. -/
def restoring (r : Restore) (source : Nat) (own : List (Nat × SnapSlot) := []) : State :=
  { open1 with
    job := { state := .loaded, plan := (paired).job.plan }
    net := (paired).net
    skid := (paired).skid
    cow := { marked := [4] }
    tally := { rw := [(256 * 0x8130 + 2, u16 source)] }
    snap := { restore := r, own := own } }
theorem restoring_fresh (r : Restore) (source : Nat) (own : List (Nat × SnapSlot)) (index sub : Nat) (d : Bytes) :
    Fresh (restoring r source own) (wr index sub d) ∧ InSession (restoring r source own) (wr index sub d) :=
  ⟨fresh_of ⟨rfl, by show 9 ≤ 9; decide, rfl⟩ rfl (hearing_none _ _ rfl _ _), Nat.one_ne_zero⟩
/-- An own copy of step 0 of this module. -/
def ownCopy : SnapSlot := { state := 2, step := 0, module := 0, jobId := 1, pages := [(4, 0, [])] }
theorem witness_RestoresFillTheModule_source : (restoring {} 0xFFFF [(0, ownCopy)]).localSource = some ownCopy ∧ (restoring {} 0xFFFF []).localSource = none := by
  have h : ∀ x : SnapSlot, x.pages = [(4, 0, [])] → x.ordered = [(4, 0, [])] := by intro x hx; unfold SnapSlot.ordered; rw [hx]; simp
  have h0 : ∀ x : SnapSlot, x.pages = [] → x.ordered = [] := by intro x hx; unfold SnapSlot.ordered; rw [hx]; simp
  refine ⟨?_, ?_⟩
  · unfold State.localSource
    rw [show [0, 1].map (restoring {} 0xFFFF [(0, ownCopy)]).ownSlot = [ownCopy, {}] from rfl, List.find?_cons_of_pos]
    rw [h _ rfl]; decide
  · unfold State.localSource
    rw [show [0, 1].map (restoring {} 0xFFFF []).ownSlot = [{}, {}] from rfl]
    rw [List.find?_cons_of_neg, List.find?_cons_of_neg]
    · rfl
    all_goals rw [h0 _ rfl]; decide
theorem witness_RestoresFillTheModule :
    (WholeWrite (wr 0x8130 1 (u64 5)) 0x8130 1 8 ∧ WholeWrite (wr 0x8130 2 (u16 4095)) 0x8130 2 2 ∧ WholeWrite (wr 0x8130 3 (u8 2)) 0x8130 3 1) ∧
    -- the largest module number, the first that is none, the last that is none, and a checkpoint image
    (¬(4096 ≤ leNat (u16 4095) ∧ leNat (u16 4095) < 0xFFFE) ∧ 4096 ≤ leNat (u16 4096) ∧ leNat (u16 0xFFFD) < 0xFFFE ∧ ¬ leNat (u16 0xFFFE) < 0xFFFE) :=
  ⟨⟨⟨rfl, rfl, rfl, rfl, by decide⟩, ⟨rfl, rfl, rfl, rfl, by decide⟩, ⟨rfl, rfl, rfl, rfl, by decide⟩⟩, by decide⟩
theorem witness_RestoresFillTheModule_go :
    (restoring {} 0xFFFF).job.state = .loaded ∧ (restoring {} 0xFFFF).snap.restore.state ≠ 1 ∧ (restoring {} 0xFFFF).restoreFrom = 0xFFFF
      ∧ 0 < (restoring {} 0xFFFF).extentCount ∧ (restoring {} 0xFFFE).restoreFrom = 0xFFFE ∧ (restoring {} 1).restoreFrom < 0xFFFE
      ∧ ({ restoring {} 1 with cow := {} } : State).extentCount = 0 ∧ (restoring { state := 3 } 1).snap.restore.state = 3
      ∧ (restoring { state := 1, extents := 1 } 1).snap.restore.state = 1 ∧ (restoring {} 1).snap.restore.flow = none :=
  ⟨rfl, by show ¬ (0 : Nat) = 1; decide, rfl, by show 0 < (1 + extentPages - 1) / extentPages; decide, rfl, by show leNat (u16 1) < 0xFFFE; decide,
    by show (0 + extentPages - 1) / extentPages = 0; decide, rfl, rfl, rfl⟩
/-- The restore of `restoring` once its source has been asked, with these chunks of the extent here. -/
def asking (chunks : Nat) : State := restoring { state := 1, extents := 1, asked := true, chunks := chunks } 1
/-- The first and the last chunk of the one page, and the manifest after it. -/
theorem witness_RestoresFillTheModule_data :
    (∀ n, (asking n).remoteRestore = true ∧ (asking n).snap.restore.asked = true ∧ (asking n).restoreFrom = 1 ∧ (asking n).snap.restore.verified = 0
      ∧ (asking n).snap.restore.chunks = n ∧ (asking n).extent 0 = [4]) ∧
    (snapMsg 0).origin = 1 ∧ (snapMsg 0).arg / 2 ^ 32 = 0 ∧ (snapMsg 0).arg % 2 ^ 32 = 0 ∧ (snapMsg 31).arg % 2 ^ 32 < 32 * [4].length ∧ (snapMsg 32).arg % 2 ^ 32 = 32 * [4].length
      ∧ (msg 15).origin ≠ 1 :=
  ⟨fun n => ⟨by unfold State.remoteRestore; exact decide_eq_true ⟨rfl, by show leNat (u16 1) < 0xFFFE; decide⟩, rfl, rfl, rfl, rfl, rfl⟩, by decide, by decide, by decide, by decide, by decide, by decide⟩
/-- A slot held for module 1 that answers its read, and one that shared a feed. -/
theorem witness_RestoresFillTheModule_read :
    (∀ co, let x : SnapSlot := { state := 2, step := 0, module := 1, jobId := (paired).jobId, digest := (paired).setDigest, pages := [(4, 0, [])], coFed := co }
      (paired).slotGood x ((snapMsg 0).arg / 2 ^ 32) (snapMsg 0).origin = true ∧ (paired).slotGood {} 0 1 = false) ∧
    (asking 0).extentIn.isNone = true ∧ ∃ s : State, s.extentIn = none := by
  refine ⟨fun co => ⟨?_, ?_⟩, ?_, ?_⟩
  · unfold State.slotGood; exact decide_eq_true ⟨rfl, rfl, rfl, rfl, rfl⟩
  · unfold State.slotGood; exact decide_eq_false fun h => absurd h.1 (by decide)
  · rfl
  · exact ⟨State.reset, rfl⟩
/-- A restore whose one extent has come, with the CRC `crc` of its page. -/
def extentHere (crc rereads : Nat) : State := restoring { state := 1, extents := 1, asked := true, chunks := 33, manifest := [(4, crc)], rereads := rereads } 1
theorem extentHere_manifest (crc n : Nat) (e : Nat × Nat) (h : e ∈ (extentHere crc n).snap.restore.manifest) : e.1 = 4 ∧ e.2 = crc := by
  have : e = (4, crc) := List.mem_singleton.1 h
  subst this; exact ⟨rfl, rfl⟩
theorem extentHere_page (crc n m : Nat) (p : Nat) : (extentHere crc n).hbmPageCrc p = (extentHere m n).hbmPageCrc p := rfl
/-- An extent that agrees; one that does not, read again for the first and after the last time; one whose manifest names another page. -/
theorem witness_RestoresFillTheModule_extents :
    (∀ crc n, let s := extentHere crc n
      s.snap.restore.state = 1 ∧ s.snap.restore.verified < s.snap.restore.extents ∧ s.restoreFrom < 0xFFFE
        ∧ s.snap.restore.chunks = 32 * (s.extent s.snap.restore.verified).length + 1 ∧ s.snap.restore.flow = none
        ∧ s.snap.restore.manifest.map (fun e => e.1) = s.extent s.snap.restore.verified ∧ s.snap.restore.rereads = n) ∧
    (∃ crc, ∀ e ∈ (extentHere crc 0).snap.restore.manifest, (extentHere crc 0).hbmPageCrc e.1 = e.2) ∧
    (∀ n, ∃ crc, ∃ e ∈ (extentHere crc n).snap.restore.manifest, (extentHere crc n).hbmPageCrc e.1 ≠ e.2) ∧
    [(5, 0)].map (fun e : Nat × Nat => e.1) ≠ (extentHere 0 0).extent 0 := by
  refine ⟨fun crc n => ⟨rfl, by show 0 < 1; decide, by show leNat (u16 1) < _; decide, rfl, rfl, rfl, rfl⟩, ⟨(extentHere 0 0).hbmPageCrc 4, ?_⟩,
    fun n => ⟨(extentHere 0 n).hbmPageCrc 4 + 1, (4, (extentHere 0 n).hbmPageCrc 4 + 1), List.mem_cons_self, ?_⟩, by decide⟩
  · intro e he
    obtain ⟨h4, hc⟩ := extentHere_manifest _ _ e he
    rw [h4, hc]; exact extentHere_page _ _ _ _
  · dsimp only
    rw [extentHere_page _ _ 0]; omega
theorem witness_RestoresFillTheModule_local :
    let s := restoring { state := 1, extents := 1 } 0xFFFF [(0, ownCopy)]
    s.snap.restore.state = 1 ∧ s.snap.restore.verified < s.snap.restore.extents ∧ s.restoreFrom = 0xFFFF :=
  ⟨rfl, by show 0 < 1; decide, rfl⟩

end Sys2Proof.Tests
end

section
/-! SUPPORT and PROOFS. The commit point of a step (R69): what `COMMIT` does at the start of an APPLY window, and what it and the
opening of a window leave alone in the fault state. -/

namespace Sys2Proof.Machine

/-! ### The record of a step, and APPLY's beginning -/

@[simp] theorem State.modStep_stepRec (s : State) (k : Nat) (f : StepRec → StepRec) : (s.modStep k f).stepRec k = f (s.stepRec k) :=
  sget_supd_same _ _ _ _
/-- That APPLY begins, or its skip, does not concern the job. -/
@[simp] theorem State.beginApply_job (s : State) (k : Nat) : (s.beginApply k).job = s.job :=
  State.beginApply_touch (List.Subset.refl _) s k (Touch.refl _ s) .job (by decide)
@[simp] theorem State.beginApply_stepRec (s : State) (k j : Nat) : (s.beginApply k).stepRec j = s.stepRec j := by
  simp [State.stepRec]

/-! ### The commit (R69) -/

/-- The record of the job once step `k` is committed. -/
def State.noteCommit (s : State) (k : Nat) : State :=
  let t := s.modStep k fun r => { r with committed := true }
  { t with job := { t.job with lastCommitted := k } }
@[simp] theorem State.noteCommit_stepRec (s : State) (k : Nat) : (s.noteCommit k).stepRec k = { s.stepRec k with committed := true } :=
  s.modStep_stepRec k fun r => { r with committed := true }
@[simp] theorem State.noteCommit_lastCommitted (s : State) (k : Nat) : (s.noteCommit k).job.lastCommitted = k := rfl
@[simp] theorem State.noteCommit_jobState (s : State) (k : Nat) : (s.noteCommit k).job.state = s.job.state := rfl

variable {s : State} {k : Nat}

/-- Where a fault was raised by the commit point, nothing commits and APPLY does not begin. -/
theorem execCommit_of_latch (h : s.safe.latch = true) : execCommit s = .next s := by
  unfold execCommit
  cases s.job.begun with
  | none => rfl
  | some k => exact congrArg _ (if_pos (.inr (.inl h)))
/-- In the fault state nothing commits. -/
theorem execCommit_of_fault (h : s.job.state = .fault) : execCommit s = .next s := by
  unfold execCommit
  cases s.job.begun with
  | none => rfl
  | some k => exact congrArg _ (if_pos (.inl (by simp [h])))
/-- At the commit point, with no fault raised, the step in progress commits and its APPLY begins. -/
theorem execCommit_of_no_fault (hk : s.job.begun = some k) (hlive : s.job.state = .running ∨ s.job.state = .paused)
    (hlatch : s.safe.latch ≠ true) (hnew : (s.stepRec k).committed = false) (hnorm : s.windowEnded k 4 = true)
    (hpoint : s.pointOf k (s.winStart 5) 0 ≤ s.planNow) : execCommit s = .next ((s.noteCommit k).beginApply k) := by
  have due : ¬((s.job.state ≠ .running ∧ s.job.state ≠ .paused) ∨ s.safe.latch ∨ (s.stepRec k).committed ∨ !s.windowEnded k 4
      ∨ s.planNow < s.pointOf k (s.winStart 5) 0) := by
    rintro (⟨hrun, hpause⟩ | hl | hc | he | hp)
    · exact hlive.elim hrun hpause
    · exact hlatch hl
    · simp [hnew] at hc
    · simp [hnorm] at he
    · exact Int.not_lt.mpr hpoint hp
  unfold execCommit
  simp only [hk]
  exact congrArg _ (if_neg due)

/-! ### Windows in the fault state -/

/-- In the fault state no window may open. -/
theorem State.mayOpen_of_fault (h : s.job.state = .fault) (p : Nat) : s.mayOpen k p = false := by
  simp [State.mayOpen, h]
theorem execPhaseWindowStart_of_not_mayOpen {p : Nat} (h : s.mayOpen k p = false) : execPhaseWindowStart k p s = .next s := by
  simp [execPhaseWindowStart, h]

end Sys2Proof.Machine
end

section
open Sys2Proof Sys2Proof.Machine

/-- Settles O29: with the latch set `COMMIT` does nothing; else it writes the commit into the job's record, which the beginning of
APPLY keeps. In the fault state the guards of `COMMIT` and `PHASE_WINDOW_START` fail. -/
theorem theApplyWindowCommits : Obligations.TheApplyWindowCommits := by
  unfold Obligations.TheApplyWindowCommits
  refine ⟨fun s k hk hlive hnew hnorm hpoint => ?_, fun s k p hfault =>
    ⟨execCommit_of_fault hfault, execPhaseWindowStart_of_not_mayOpen (State.mayOpen_of_fault hfault p)⟩⟩
  by_cases hlatch : s.safe.latch = true
  · exact ⟨s, execCommit_of_latch hlatch, by rw [if_pos hlatch]⟩
  · have hexec := execCommit_of_no_fault hk hlive hlatch hnew hnorm hpoint
    refine ⟨(s.noteCommit k).beginApply k, hexec, ?_⟩
    rw [if_neg hlatch]
    exact ⟨by simp, by simp, by simp, execCommit_touch (by decide) s (Touch.refl _ s) _ hexec⟩
end

section
/-! SUPPORT and PROOFS. The guard limit of the array (R88): the verdict on a pass that would go beyond it, what the refusal of an
instruction does, and the clusters that a fault leaves (R107). -/

namespace Sys2Proof.Machine

/-! ### The clusters that a fault leaves (R107) -/

/-- The clusters that stopping the units leaves rest on the clusters before and on the dies that serve. -/
theorem State.stopUnits_clusters_congr {s t : State} (hc : t.clusters = s.clusters) (hs : t.start = s.start) :
    t.stopUnits.clusters = s.stopUnits.clusters := by
  unfold State.stopUnits
  rw [hc, hs]

/-- The reaction to a first fault changes the clusters by stopping the units alone. -/
theorem State.react_clusters (s : State) (src code : Nat) : (s.react src code).clusters = s.stopUnits.clusters := by
  have closed (l : List Nat) (t : State) : (l.foldl (fun s k => s.closeStats k true) t).stopUnits.clusters = t.stopUnits.clusters :=
    State.stopUnits_clusters_congr
      (foldl_same State.clusters _ _ _ fun s k => State.closeStats_touch (List.Subset.refl _) s k true (Touch.refl _ s) .clusters (by decide))
      (foldl_same State.start _ _ _ fun s k => State.closeStats_touch (List.Subset.refl _) s k true (Touch.refl _ s) .start (by decide))
  have stopped (t : State) : ((t.stopUnits.closeIngest).faultCheckpoint src code).clusters = t.stopUnits.clusters :=
    (State.faultCheckpoint_touch (List.Subset.refl _) _ src code (Touch.refl _ _) .clusters (by decide)).trans
      (State.closeIngest_touch (List.Subset.refl _) _ (Touch.refl _ _) .clusters (by decide))
  have refused (l : List Nat) (t : State) : (l.foldl (fun s k => s.refuseCapture k 4) t).clusters = t.clusters :=
    foldl_same State.clusters _ _ _ fun s k => State.refuseCapture_touch (List.Subset.refl _) s k 4 (Touch.refl _ s) .clusters (by decide)
  have noticed (t : State) (b : Bytes) : (t.sendAll wardenSrc 10 code b).clusters = t.clusters := by simp
  unfold State.react
  dsimp only
  split
  · exact (stopped _).trans (closed _ _)
  · exact (refused _ _).trans ((noticed _ _).trans ((stopped _).trans (closed _ _)))

/-- A first fault stops the units; a later one leaves the clusters as they were. -/
theorem State.fault_clusters (s : State) (src code : Nat) (d : Bytes) :
    (s.fault src code d).clusters = if s.safe.latch then s.clusters else s.stopUnits.clusters := by
  have recorded : (s.eventAfter src code 0 d).clusters = s.clusters := by simp
  have reacted (u : State) (hc : u.clusters = s.clusters) (hs : u.start = s.start) :
      (u.react src code).clusters = s.stopUnits.clusters :=
    (u.react_clusters src code).trans (State.stopUnits_clusters_congr hc hs)
  unfold State.fault State.faultAfter
  dsimp only
  split
  · exact recorded
  · split
    · exact reacted _ recorded (by simp)
    · exact (event_clusters _ _ _ _).trans (reacted _ recorded (by simp))

/-- A cluster whose array holds nothing: no pass waits, and every tile is empty. -/
def Cluster.ArrayEmpty (c : Cluster) : Prop := c.arrayQ = [] ∧ c.tiles = []

theorem Cluster.ArrayEmpty.arrayQ_eq {c : Cluster} (h : c.ArrayEmpty) : c.arrayQ = [] := h.1
theorem Cluster.ArrayEmpty.tile_eq {c : Cluster} (h : c.ArrayEmpty) (x : Nat) : c.tile x = {} := by
  rw [Cluster.tile, h.2]
  rfl

/-- What holds of the default and of every value of a sparse map holds of what a read returns. -/
theorem sget_of_forall {v : Type} {P : v → Prop} {d : v} {m : List (Nat × v)} (hd : P d) (h : ∀ e ∈ m, P e.2) (k : Nat) :
    P (sget d m k) := by
  induction m with
  | nil => exact hd
  | cons e m ih =>
    obtain ⟨a, x⟩ := e
    obtain ⟨hx, hm⟩ := List.forall_mem_cons.mp h
    rw [sget]
    split
    · exact hx
    · exact ih hm

/-- Once the units are stopped no array holds anything: each cluster has abandoned its work. -/
theorem State.stopUnits_arrayEmpty (s : State) (n : Nat) : (s.stopUnits.cl n).ArrayEmpty := by
  refine sget_of_forall ⟨rfl, rfl⟩ (fun e he => ?_) n
  obtain ⟨k, -, rfl⟩ := List.mem_map.mp he
  exact ⟨rfl, rfl⟩

/-- A fault gives no cluster array work: its array is as it was, or empty. -/
theorem State.fault_cl (s : State) (src code : Nat) (d : Bytes) (n : Nat) :
    (s.fault src code d).cl n = s.cl n ∨ ((s.fault src code d).cl n).ArrayEmpty := by
  have hc := s.fault_clusters src code d
  split at hc
  · exact .inl (cl_of hc n)
  · refine .inr ?_
    rw [cl_of hc]
    exact s.stopUnits_arrayEmpty n

/-! ### The verdict on a pass (R88, R103, R178) -/

/-- Where neither a field nor an extent is refused, the last check gives the verdict. -/
theorem verdict1_eq_rest {reasons : List (Nat × Bool)} {extents : List (Nat × Nat × Nat)} {rest : Verdict}
    (hfield : ∀ r, verdict1 reasons extents rest ≠ .field r) (hbound : ∀ k v m, verdict1 reasons extents rest ≠ .bound k v m) :
    verdict1 reasons extents rest = rest := by
  unfold verdict1 at *
  split
  · next r hr => exact absurd (by rw [hr]) (hfield r)
  · next hr =>
    split
    · next sel v m hm => exact absurd (by rw [hr, hm]) (hbound (sel % 16) v m)
    · rfl

/-- A pass that would make `RUN_K` exceed 2^22 goes beyond the guard limit, whatever else R103 says of it. -/
theorem Cluster.passCheck_eq_guard {c : Cluster} {w m n k : Nat}
    (h : 2 ^ 22 < (if iFresh w = true then (if m = 0 ∨ n = 0 then 0 else k)
      else (c.aheadOf (iTile w)).runK + (if m = 0 ∨ n = 0 then 0 else k))) : c.passCheck w m n k = .guard := if_pos h

/-! ### The signature leaves the checks alone (R469) -/

variable {s : State} {cl : Nat} {f : Fetched}

theorem State.sign_cl (h : Issues s cl f) : ∃ g, (s.sign cl f).cl cl = { s.cl cl with sig := g } := by
  obtain ⟨hcl, -, -, -⟩ := s.sign_ok cl f h
  exact hcl
theorem State.sign_same (h : Issues s cl f) : SameBut [.clusters, .ctr] s (s.sign cl f) := by
  obtain ⟨-, -, -, hsame⟩ := s.sign_ok cl f h
  exact hsame
theorem State.sign_desc (h : Issues s cl f) (n : Nat) : (s.sign cl f).desc n = s.desc n := by
  have hjob : (s.sign cl f).job = s.job := State.sign_same h .job (by decide)
  rw [State.desc, hjob, State.desc]

theorem State.matrixCheck_sign (h : Issues s cl f) : (s.sign cl f).matrixCheck cl f = s.matrixCheck cl f := by
  obtain ⟨g, hg⟩ := State.sign_cl h
  rw [State.matrixCheck, hg, State.matrixCheck]
  rfl
theorem State.convCheck_sign (h : Issues s cl f) : (s.sign cl f).convCheck cl f = s.convCheck cl f := by
  obtain ⟨g, hg⟩ := State.sign_cl h
  rw [State.convCheck, hg, State.sign_desc h, State.convCheck]
  rfl
theorem State.cropCheck_sign (h : Issues s cl f) : (s.sign cl f).cropCheck cl f = s.cropCheck cl f := by
  obtain ⟨g, hg⟩ := State.sign_cl h
  rw [State.cropCheck, hg, State.sign_desc h, State.cropCheck]
  rfl
theorem State.elemCheck_sign (h : Issues s cl f) : (s.sign cl f).elemCheck cl f = s.elemCheck cl f := by
  obtain ⟨g, hg⟩ := State.sign_cl h
  rw [State.elemCheck, hg, State.elemCheck]
  rfl

/-! ### A pass beyond the guard limit is refused (R88) -/

/-- No instruction issues in the fault state. -/
theorem Issues.job_ne_fault (h : Issues s cl f) : s.job.state ≠ .fault := by
  obtain ⟨hfetch, -⟩ := h
  intro hfault
  unfold State.fetch at hfetch
  split at hfetch
  · cases hfetch
  · dsimp only at hfetch
    split at hfetch
    · cases hfetch
    · simp [hfault] at hfetch

/-- An instruction that a command selects and that goes beyond the guard limit is signed, passed over, and a fault. -/
theorem State.issue_guard (h : Issues s cl f) {sel : State → Nat → Bool} {check : State → Fetched → Verdict} {act : State → Fetched → State}
    (hsel : sel s f.word = true) (hcheck : check (s.sign cl f) f = .guard) :
    s.issue cl sel check act = ((s.sign cl f).skip1 cl).guardFail cl := by
  have hjob : (s.sign cl f).job = s.job := State.sign_same h .job (by decide)
  have hrun : ¬(s.sign cl f).job.state = .fault := hjob ▸ h.job_ne_fault
  unfold State.issue
  rw [h.1]
  dsimp only
  rw [if_pos hsel, if_neg hrun, hcheck]

/-- Cluster `cl` of `s` is refused a pass with `GUARD_LIMIT`, which leaves `t` (R88). -/
def GuardRefused (s t : State) (cl : Nat) : Prop :=
  Faulted t (s.seqSrc cl) 0x2202 ∧ t.safe.latch = true ∧ t.mem = s.mem
    ∧ (∀ o ∈ (t.cl cl).arrayQ, o ∈ (s.cl cl).arrayQ) ∧ ∀ x, (t.cl cl).tile x = (s.cl cl).tile x ∨ (t.cl cl).tile x = {}

/-- The fault alone does all that a refusal does: it is recorded, and gives no cluster array work. -/
theorem State.guardFail_guardRefused (s : State) (cl : Nat) : GuardRefused s (s.guardFail cl) cl := by
  unfold State.guardFail
  obtain ⟨hfaulted, hlatch, -⟩ := State.fault_spec s (s.seqSrc cl) 0x2202 []
  refine ⟨hfaulted, hlatch, by simp, ?_⟩
  rcases State.fault_cl s (s.seqSrc cl) 0x2202 [] cl with hkept | hempty
  · rw [hkept]
    exact ⟨fun o ho => ho, fun x => .inl rfl⟩
  · rw [hempty.arrayQ_eq]
    exact ⟨fun o ho => absurd ho List.not_mem_nil, fun x => .inr (hempty.tile_eq x)⟩

/-- The refusal speaks of the dies that serve, the memory, the array's queue and the tiles alone. -/
theorem GuardRefused.congr {s u t : State} (hstart : u.start = s.start) (hmem : u.mem = s.mem)
    (hqueue : (u.cl cl).arrayQ = (s.cl cl).arrayQ) (htiles : (u.cl cl).tiles = (s.cl cl).tiles) (h : GuardRefused u t cl) :
    GuardRefused s t cl := by
  simpa only [GuardRefused, State.seqSrc, State.physDie, Cluster.tile, hstart, hmem, hqueue, htiles] using h

@[simp] theorem State.skip1_cl (s : State) (n : Nat) : (s.skip1 n).cl n = { s.cl n with index := (s.cl n).index + 1 } := cl_modCl s n _

/-- Signing an instruction and passing over it do not bear on what its refusal does. -/
theorem State.sign_skip1_guardFail_guardRefused (h : Issues s cl f) :
    GuardRefused s (((s.sign cl f).skip1 cl).guardFail cl) cl := by
  obtain ⟨g, hg⟩ := State.sign_cl h
  have hstart : ((s.sign cl f).skip1 cl).start = s.start := State.sign_same h .start (by decide)
  have hmem : ((s.sign cl f).skip1 cl).mem = s.mem := State.sign_same h .mem (by decide)
  exact (State.guardFail_guardRefused _ cl).congr hstart hmem (by simp [hg]) (by simp [hg])

theorem exec_matrix_of_guard (h : Issues s cl f) (hclass : iClass f.word = 1) (hcheck : s.matrixCheck cl f = .guard) :
    exec (.matrix cl) s = .next (((s.sign cl f).skip1 cl).guardFail cl) :=
  congrArg _ (State.issue_guard h (decide_eq_true hclass) ((State.matrixCheck_sign h).trans hcheck))
theorem exec_conv_of_guard (h : Issues s cl f) (hclass : iClass f.word = 2) (hcrop : s.namesCrop f.word = false)
    (hcheck : s.convCheck cl f = .guard) : exec (.conv cl) s = .next (((s.sign cl f).skip1 cl).guardFail cl) :=
  congrArg _ (State.issue_guard h (by simp [hclass, hcrop]) ((State.convCheck_sign h).trans hcheck))
theorem exec_crop_of_guard (h : Issues s cl f) (hclass : iClass f.word = 2) (hcrop : s.namesCrop f.word = true)
    (hcheck : s.cropCheck cl f = .guard) : exec (.crop cl) s = .next (((s.sign cl f).skip1 cl).guardFail cl) :=
  congrArg _ (State.issue_guard h (by simp [hclass, hcrop]) ((State.cropCheck_sign h).trans hcheck))
theorem exec_elemwise_of_guard (h : Issues s cl f) (hclass : iClass f.word = 3) (hcheck : s.elemCheck cl f = .guard) :
    exec (.elemwise cl) s = .next (((s.sign cl f).skip1 cl).guardFail cl) :=
  congrArg _ (State.issue_guard h (decide_eq_true hclass) ((State.elemCheck_sign h).trans hcheck))

end Sys2Proof.Machine
end

section
open Sys2Proof Sys2Proof.Machine

/-- Settles O60: with the checks of R178 passed, the verdict on each kind of pass is that of `passCheck`, which the guard limit comes
first in; the refusal signs and passes over the instruction and raises the fault, which gives no cluster array work. -/
theorem guardLimitRefusesThePass : Obligations.GuardLimitRefusesThePass := by
  unfold Obligations.GuardLimitRefusesThePass
  intro s cl f i check n hissues hpass hfield hbound m k hlimit
  refine ⟨_, ?_, State.sign_skip1_guardFail_guardRefused hissues⟩
  rcases hpass with ⟨rfl, hclass, rfl, rfl⟩ | ⟨rfl, hclass, hcrop, rfl, rfl⟩ | ⟨rfl, hclass, hcrop, rfl, rfl⟩ | ⟨rfl, hclass, rfl, rfl⟩
  · exact exec_matrix_of_guard hissues hclass ((verdict1_eq_rest hfield hbound).trans (Cluster.passCheck_eq_guard hlimit))
  · exact exec_conv_of_guard hissues hclass hcrop ((verdict1_eq_rest hfield hbound).trans (Cluster.passCheck_eq_guard hlimit))
  · exact exec_crop_of_guard hissues hclass hcrop ((verdict1_eq_rest hfield hbound).trans (Cluster.passCheck_eq_guard hlimit))
  · exact exec_elemwise_of_guard hissues hclass ((verdict1_eq_rest hfield hbound).trans (Cluster.passCheck_eq_guard hlimit))
end

section
/-! SUPPORT and PROOFS. What holds of every command: what it keeps, which parts it changes, and that it runs. Each is one case
split over the commands, whose cases are the laws of the single commands. -/

namespace Sys2Proof.Machine

/-! ### What every command keeps -/

/-- A command leaves the queue alone, only adds to what was sent and to the free values used, and keeps the invariant. -/
theorem exec_kept (c : Instr) (s : State) : KeptR s (exec c s) := by
  have h := Kept.refl s
  cases c with
  | powerGood _ => exact execPowerGood_kept _ s h
  | startStageDone _ => exact execStartStageDone_kept _ s h
  | startStageTimeout => exact execStartStageTimeout_kept s h
  | sourceUpdate _ _ => exact execSourceUpdate_kept _ _ s h
  | sourceLost => exact execSourceLost_kept s h
  | holdoverExpired => exact execHoldoverExpired_kept s h
  | beatOverflow => exact execBeatOverflow_kept s h
  | beatMark _ _ => exact execBeatMark_kept _ _ s h
  | read _ => exact execRead_kept _ s h
  | write _ _ => exact execWrite_kept _ _ s h
  | describe _ => exact execDescribe_kept _ s h
  | sessionChallenge _ => exact execSessionChallenge_kept _ s h
  | sessionOpen _ => exact execSessionOpen_kept _ s h
  | sessionClose _ => exact execSessionClose_kept _ s h
  | keepalive _ => exact execKeepalive_kept _ s h
  | sessionIdleTimeout _ => exact execSessionIdleTimeout_kept _ s h
  | sequenceEntryExpiry _ => exact execSequenceEntryExpiry_kept _ s h
  | authLockExpiry => exact execAuthLockExpiry_kept s h
  | tallyApply _ => exact execTallyApply_kept _ s h
  | applySafePoint _ => exact execApplySafePoint_kept _ s h
  | persistWrite _ => exact execPersistWrite_kept _ s h
  | operatorKey _ => exact execOperatorKey_kept _ s h
  | diagRegRead _ => exact execDiagRegRead_kept _ s h
  | diagRegWrite _ => exact execDiagRegWrite_kept _ s h
  | xaDiagSel _ _ _ => exact execXaDiagSel_kept _ _ _ s h
  | xaDiagCaptureDone _ _ _ _ => exact execXaDiagCaptureDone_kept _ _ _ _ s h
  | clkGate _ _ => exact execClkGate_kept _ _ s h
  | eventLog _ => exact execEventLog_kept _ s h
  | planSlot _ => exact execPlanSlot_kept _ s h
  | planLoadComplete => exact execPlanLoadComplete_kept s h
  | start _ => exact execStart_kept _ s h
  | pauseStep _ => exact execPauseStep_kept _ s h
  | pausePass _ => exact execPausePass_kept _ s h
  | resume _ => exact execResume_kept _ s h
  | stop _ => exact execStop_kept _ s h
  | unload _ => exact execUnload_kept _ s h
  | stepStart => exact execStepStart_kept s h
  | phaseWindowStart _ _ => exact execPhaseWindowStart_kept _ _ s h
  | phaseWindowEnd _ _ _ => exact execPhaseWindowEnd_kept _ _ _ s h
  | commit => exact execCommit_kept s h
  | stepClear => exact execStepClear_kept s h
  | pauseTakesEffect => exact execPauseTakesEffect_kept s h
  | clusterPauseSpill _ => exact execClusterPauseSpill_kept _ s h
  | resumeTakesEffect => exact execResumeTakesEffect_kept s h
  | nop _ => exact execNop_kept _ s h
  | matrix _ => exact execMatrix_kept _ s h
  | conv _ => exact execConv_kept _ s h
  | crop _ => exact execCrop_kept _ s h
  | elemwise _ => exact execElemwise_kept _ s h
  | kat _ => exact execKat_kept _ s h
  | drain _ => exact execDrain_kept _ s h
  | drainSlot _ => exact execDrainSlot_kept _ s h
  | spillStore _ => exact execSpillStore_kept _ s h
  | spillAdd _ => exact execSpillAdd_kept _ s h
  | restore _ => exact execRestore_kept _ s h
  | copy _ => exact execCopy_kept _ s h
  | add _ => exact execAdd_kept _ s h
  | sub _ => exact execSub_kept _ s h
  | mul _ => exact execMul_kept _ s h
  | max _ => exact execMax_kept _ s h
  | min _ => exact execMin_kept _ s h
  | sqdiff _ => exact execSqdiff_kept _ s h
  | addImm _ => exact execAddImm_kept _ s h
  | mulImm _ => exact execMulImm_kept _ s h
  | maxImm _ => exact execMaxImm_kept _ s h
  | minImm _ => exact execMinImm_kept _ s h
  | axpy _ => exact execAxpy_kept _ s h
  | exp _ => exact execExp_kept _ s h
  | log _ => exact execLog_kept _ s h
  | recip _ => exact execRecip_kept _ s h
  | rsqrt _ => exact execRsqrt_kept _ s h
  | sqrt _ => exact execSqrt_kept _ s h
  | tanh _ => exact execTanh_kept _ s h
  | sigmoid _ => exact execSigmoid_kept _ s h
  | gelu _ => exact execGelu_kept _ s h
  | silu _ => exact execSilu_kept _ s h
  | segSum _ => exact execSegSum_kept _ s h
  | segSumsq _ => exact execSegSumsq_kept _ s h
  | segMax _ => exact execSegMax_kept _ s h
  | segMin _ => exact execSegMin_kept _ s h
  | softmax _ => exact execSoftmax_kept _ s h
  | logsumexp _ => exact execLogsumexp_kept _ s h
  | xent _ => exact execXent_kept _ s h
  | xentGrad _ => exact execXentGrad_kept _ s h
  | segScale _ => exact execSegScale_kept _ s h
  | segSub _ => exact execSegSub_kept _ s h
  | slice _ => exact execSlice_kept _ s h
  | topk _ => exact execTopk_kept _ s h
  | dmaTransfer _ _ => exact execDmaTransfer_kept _ _ s h
  | limberJob _ => exact execLimberJob_kept _ s h
  | limberJobAccept _ => exact execLimberJobAccept_kept _ s h
  | limberJobComplete _ _ _ => exact execLimberJobComplete_kept _ _ _ s h
  | bankCtrl _ _ => exact execBankCtrl_kept _ _ s h
  | bankHandoverComplete _ _ => exact execBankHandoverComplete_kept _ _ s h
  | bankPowerTransitionDone _ _ => exact execBankPowerTransitionDone_kept _ _ s h
  | syncWait _ => exact execSyncWait_kept _ s h
  | syncWaitSatisfied _ => exact execSyncWaitSatisfied_kept _ s h
  | syncSignal _ => exact execSyncSignal_kept _ s h
  | syncSignalArrival _ => exact execSyncSignalArrival_kept _ s h
  | beatWait _ => exact execBeatWait_kept _ s h
  | beatWaitReached _ => exact execBeatWaitReached_kept _ s h
  | boundLoadImmediate _ => exact execBoundLoadImmediate_kept _ s h
  | boundLoadMemory _ _ => exact execBoundLoadMemory_kept _ _ s h
  | boundLoadDerived _ => exact execBoundLoadDerived_kept _ s h
  | maskRectangle _ => exact execMaskRectangle_kept _ s h
  | maskBitmap _ _ => exact execMaskBitmap_kept _ _ s h
  | arrayPassComplete _ _ => exact execArrayPassComplete_kept _ _ s h
  | drainFence _ => exact execDrainFence_kept _ s h
  | drainRowWrite _ _ _ => exact execDrainRowWrite_kept _ _ _ s h
  | drainPathOpComplete _ _ => exact execDrainPathOpComplete_kept _ _ s h
  | katCheckComplete _ _ _ => exact execKatCheckComplete_kept _ _ _ s h
  | katMissed _ => exact execKatMissed_kept _ s h
  | vectorOpComplete _ _ => exact execVectorOpComplete_kept _ _ s h
  | dmaComplete _ _ _ => exact execDmaComplete_kept _ _ _ s h
  | bulkData _ _ _ _ _ => exact execBulkData_kept _ _ _ _ _ s h
  | bulkOpen _ _ _ _ => exact execBulkOpen_kept _ _ _ _ s h
  | bulkOpenAck _ _ => exact execBulkOpenAck_kept _ _ s h
  | bulkAck _ _ _ _ => exact execBulkAck_kept _ _ _ _ s h
  | bulkNak _ _ => exact execBulkNak_kept _ _ s h
  | bulkClose _ _ _ => exact execBulkClose_kept _ _ _ s h
  | bulkCloseAck _ _ => exact execBulkCloseAck_kept _ _ s h
  | ackTimer _ => exact execAckTimer_kept _ s h
  | resendTimer _ => exact execResendTimer_kept _ s h
  | bulkFlowTimeout _ => exact execBulkFlowTimeout_kept _ s h
  | checkpointSkipped => exact execCheckpointSkipped_kept s h
  | hostLinkUp => exact execHostLinkUp_kept s h
  | hostLinkDown => exact execHostLinkDown_kept s h
  | decodeStart _ _ => exact execDecodeStart_kept _ _ s h
  | decodeTurn _ _ _ _ _ => exact execDecodeTurn_kept _ _ _ _ _ s h
  | decodeBudgetExceeded _ _ => exact execDecodeBudgetExceeded_kept _ _ s h
  | outputComplete _ _ _ => exact execOutputComplete_kept _ _ _ s h
  | rowWriteComplete _ _ _ => exact execRowWriteComplete_kept _ _ _ s h
  | guardPoint _ _ => exact execGuardPoint_kept _ _ s h
  | admissionDeadline => exact execAdmissionDeadline_kept s h
  | decodeLoad _ _ _ _ => exact execDecodeLoad_kept _ _ _ _ s h
  | gradient _ _ => exact execGradient_kept _ _ s h
  | contributionDeadline _ => exact execContributionDeadline_kept _ s h
  | normPassComplete _ => exact execNormPassComplete_kept _ s h
  | combineUp _ => exact execCombineUp_kept _ s h
  | combineDown _ => exact execCombineDown_kept _ s h
  | applyDescriptorDone _ _ => exact execApplyDescriptorDone_kept _ _ s h
  | withdraw _ => exact execWithdraw_kept _ s h
  | shadowCopyDone _ _ => exact execShadowCopyDone_kept _ _ s h
  | pageDone _ _ => exact execPageDone_kept _ _ s h
  | skidDataFrame _ _ _ => exact execSkidDataFrame_kept _ _ _ s h
  | skidNak _ _ => exact execSkidNak_kept _ _ s h
  | idleFrame _ _ => exact execIdleFrame_kept _ _ s h
  | linkControlFrame _ _ _ _ _ _ _ _ => exact execLinkControlFrame_kept _ _ _ _ _ _ _ _ s h
  | skidLinkUp _ => exact execSkidLinkUp_kept _ s h
  | skidLinkDown _ => exact execSkidLinkDown_kept _ s h
  | dmaWrite _ _ _ => exact execDmaWrite_kept _ _ _ s h
  | relayedSyncSignal _ => exact execRelayedSyncSignal_kept _ s h
  | command _ => exact execCommand_kept _ s h
  | e2eAck _ => exact execE2eAck_kept _ s h
  | linkRecord _ => exact execLinkRecord_kept _ s h
  | faultNotice _ => exact execFaultNotice_kept _ s h
  | captureRequest _ => exact execCaptureRequest_kept _ s h
  | snapPage _ => exact execSnapPage_kept _ s h
  | pair _ => exact execPair_kept _ s h
  | pairAck _ => exact execPairAck_kept _ s h
  | captureSent _ => exact execCaptureSent_kept _ s h
  | held _ => exact execHeld_kept _ s h
  | setMember _ => exact execSetMember_kept _ s h
  | captureRefused _ => exact execCaptureRefused_kept _ s h
  | restoreRefused _ => exact execRestoreRefused_kept _ s h
  | restoreRead _ => exact execRestoreRead_kept _ s h
  | restoreData _ => exact execRestoreData_kept _ s h
  | restoreExtentVerified _ => exact execRestoreExtentVerified_kept _ s h
  | restoreGoStart _ => exact execRestoreGoStart_kept _ s h
  | restoreGoStop _ => exact execRestoreGoStop_kept _ s h
  | restoreStep _ => exact execRestoreStep_kept _ s h
  | windthrowEvaluation => exact execWindthrowEvaluation_kept s h
  | environmentRecord => exact execEnvironmentRecord_kept s h
  | flitReplay _ _ _ => exact execFlitReplay_kept _ _ _ s h
  | cxlLinkRetrain _ _ _ _ => exact execCxlLinkRetrain_kept _ _ _ _ s h
  | cxlLinkDown _ _ => exact execCxlLinkDown_kept _ _ s h
  | scrubRead _ _ _ => exact execScrubRead_kept _ _ _ s h
  | scrubBehind _ => exact execScrubBehind_kept _ s h
  | hbmRefreshDue stack => exact execHbmRefreshDue_kept stack s h
  | stackTempRead _ _ => exact execStackTempRead_kept _ _ s h
  | hbmCalibration stack => exact execHbmCalibration_kept stack s h
  | unitKatTest _ _ => exact execUnitKatTest_kept _ _ s h
  | checkerSelfTest _ _ _ => exact execCheckerSelfTest_kept _ _ _ s h
  | wardenLockstep => exact execWardenLockstep_kept s h
  | controllerLockstep _ => exact execControllerLockstep_kept _ s h
  | monitorSample _ => exact execMonitorSample_kept _ s h
  | powerSample _ => exact execPowerSample_kept _ s h
  | thermalDemandUpdate _ _ => exact execThermalDemandUpdate_kept _ _ s h
  | stretchStepDown _ => exact execStretchStepDown_kept _ s h
  | pllLockLoss _ _ => exact execPllLockLoss_kept _ _ s h
  | standbyRelock _ _ _ => exact execStandbyRelock_kept _ _ _ s h
  | switchOverStart _ _ => exact execSwitchOverStart_kept _ _ s h
  | switchOverComplete => exact execSwitchOverComplete_kept s h
  | returnToMain _ => exact execReturnToMain_kept _ s h
  | supplyLost _ _ => exact execSupplyLost_kept _ _ s h
  | feedBackupLow _ => exact execFeedBackupLow_kept _ s h
  | tamper => exact execTamper_kept s h
  | coolantDeltaHigh _ _ => exact execCoolantDeltaHigh_kept _ _ s h
  | cardChanged _ _ => exact execCardChanged_kept _ _ s h
  | fwCardInstall _ => exact execFwCardInstall_kept _ s h
  | fwInstallComplete _ => exact execFwInstallComplete_kept _ s h
  | fwConfirm _ => exact execFwConfirm_kept _ s h
  | moduleRestart _ => exact execModuleRestart_kept _ s h
  | lifecycleReturn _ => exact execLifecycleReturn_kept _ s h
  | attestNonce _ => exact execAttestNonce_kept _ s h
  | flashVerify _ => exact execFlashVerify_kept _ s h
  | beatBoundary => exact execBeatBoundary_kept s h
  | announceMessage _ _ _ _ _ _ _ _ _ _ => exact execAnnounceMessage_kept _ _ _ _ _ _ _ _ _ _ s h
  | routeFlood _ _ _ => exact execRouteFlood_kept _ _ _ s h
  | skidPortDown _ => exact execSkidPortDown_kept _ s h
  | spineRetrainDone _ _ _ => exact execSpineRetrainDone_kept _ _ _ s h
  | clockSwitchDone _ => exact execClockSwitchDone_kept _ s h
  | icmpEchoRequest _ _ => exact execIcmpEchoRequest_kept _ _ s h
  | neighbourRequest _ _ => exact execNeighbourRequest_kept _ _ s h
  | frameDiscarded _ _ _ => exact execFrameDiscarded_kept _ _ _ s h
  | undefinedOmOp _ _ => exact execUndefinedOmOp_kept _ _ s h

/-- A command changes only the parts that `mayChange` lists for it. -/
theorem exec_touch (c : Instr) (s : State) : TouchR (mayChange c) s (exec c s) := by
  have h := Touch.refl (mayChange c) s
  cases c with
  | powerGood _ => exact execPowerGood_touch (List.Subset.refl _) _ s h
  | startStageDone _ => exact execStartStageDone_touch (List.Subset.refl _) _ s h
  | startStageTimeout => exact execStartStageTimeout_touch (List.Subset.refl _) s h
  | sourceUpdate _ _ => exact execSourceUpdate_touch (List.Subset.refl _) _ _ s h
  | sourceLost => exact execSourceLost_touch (List.Subset.refl _) s h
  | holdoverExpired => exact execHoldoverExpired_touch (List.Subset.refl _) s h
  | beatOverflow => exact execBeatOverflow_touch (List.Subset.refl _) s h
  | beatMark _ _ => exact execBeatMark_touch (List.Subset.refl _) _ _ s h
  | read _ => exact execRead_touch (List.Subset.refl _) _ s h
  | write _ _ => exact execWrite_touch (List.Subset.refl _) _ _ s h
  | describe _ => exact execDescribe_touch (List.Subset.refl _) _ s h
  | sessionChallenge _ => exact execSessionChallenge_touch (List.Subset.refl _) _ s h
  | sessionOpen _ => exact execSessionOpen_touch (List.Subset.refl _) _ s h
  | sessionClose _ => exact execSessionClose_touch (List.Subset.refl _) _ s h
  | keepalive _ => exact execKeepalive_touch (List.Subset.refl _) _ s h
  | sessionIdleTimeout _ => exact execSessionIdleTimeout_touch (List.Subset.refl _) _ s h
  | sequenceEntryExpiry _ => exact execSequenceEntryExpiry_touch (List.Subset.refl _) _ s h
  | authLockExpiry => exact execAuthLockExpiry_touch (List.Subset.refl _) s h
  | tallyApply _ => exact execTallyApply_touch (List.Subset.refl _) _ s h
  | applySafePoint _ => exact execApplySafePoint_touch (List.Subset.refl _) _ s h
  | persistWrite _ => exact execPersistWrite_touch (List.Subset.refl _) _ s h
  | operatorKey _ => exact execOperatorKey_touch (List.Subset.refl _) _ s h
  | diagRegRead _ => exact execDiagRegRead_touch (List.Subset.refl _) _ s h
  | diagRegWrite _ => exact execDiagRegWrite_touch (List.Subset.refl _) _ s h
  | xaDiagSel _ _ _ => exact execXaDiagSel_touch (List.Subset.refl _) _ _ _ s h
  | xaDiagCaptureDone _ _ _ _ => exact execXaDiagCaptureDone_touch (List.Subset.refl _) _ _ _ _ s h
  | clkGate _ _ => exact execClkGate_touch (List.Subset.refl _) _ _ s h
  | eventLog _ => exact execEventLog_touch (List.Subset.refl _) _ s h
  | planSlot _ => exact execPlanSlot_touch (List.Subset.refl _) _ s h
  | planLoadComplete => exact execPlanLoadComplete_touch (List.Subset.refl _) s h
  | start _ => exact execStart_touch (List.Subset.refl _) _ s h
  | pauseStep _ => exact execPauseStep_touch (List.Subset.refl _) _ s h
  | pausePass _ => exact execPausePass_touch (List.Subset.refl _) _ s h
  | resume _ => exact execResume_touch (List.Subset.refl _) _ s h
  | stop _ => exact execStop_touch (List.Subset.refl _) _ s h
  | unload _ => exact execUnload_touch (List.Subset.refl _) _ s h
  | stepStart => exact execStepStart_touch (List.Subset.refl _) s h
  | phaseWindowStart _ _ => exact execPhaseWindowStart_touch (List.Subset.refl _) _ _ s h
  | phaseWindowEnd _ _ _ => exact execPhaseWindowEnd_touch (List.Subset.refl _) _ _ _ s h
  | commit => exact execCommit_touch (List.Subset.refl _) s h
  | stepClear => exact execStepClear_touch (List.Subset.refl _) s h
  | pauseTakesEffect => exact execPauseTakesEffect_touch (List.Subset.refl _) s h
  | clusterPauseSpill _ => exact execClusterPauseSpill_touch (List.Subset.refl _) _ s h
  | resumeTakesEffect => exact execResumeTakesEffect_touch (List.Subset.refl _) s h
  | nop _ => exact execNop_touch (List.Subset.refl _) _ s h
  | matrix _ => exact execMatrix_touch (List.Subset.refl _) _ s h
  | conv _ => exact execConv_touch (List.Subset.refl _) _ s h
  | crop _ => exact execCrop_touch (List.Subset.refl _) _ s h
  | elemwise _ => exact execElemwise_touch (List.Subset.refl _) _ s h
  | kat _ => exact execKat_touch (List.Subset.refl _) _ s h
  | drain _ => exact execDrain_touch (List.Subset.refl _) _ s h
  | drainSlot _ => exact execDrainSlot_touch (List.Subset.refl _) _ s h
  | spillStore _ => exact execSpillStore_touch (List.Subset.refl _) _ s h
  | spillAdd _ => exact execSpillAdd_touch (List.Subset.refl _) _ s h
  | restore _ => exact execRestore_touch (List.Subset.refl _) _ s h
  | copy _ => exact execCopy_touch (List.Subset.refl _) _ s h
  | add _ => exact execAdd_touch (List.Subset.refl _) _ s h
  | sub _ => exact execSub_touch (List.Subset.refl _) _ s h
  | mul _ => exact execMul_touch (List.Subset.refl _) _ s h
  | max _ => exact execMax_touch (List.Subset.refl _) _ s h
  | min _ => exact execMin_touch (List.Subset.refl _) _ s h
  | sqdiff _ => exact execSqdiff_touch (List.Subset.refl _) _ s h
  | addImm _ => exact execAddImm_touch (List.Subset.refl _) _ s h
  | mulImm _ => exact execMulImm_touch (List.Subset.refl _) _ s h
  | maxImm _ => exact execMaxImm_touch (List.Subset.refl _) _ s h
  | minImm _ => exact execMinImm_touch (List.Subset.refl _) _ s h
  | axpy _ => exact execAxpy_touch (List.Subset.refl _) _ s h
  | exp _ => exact execExp_touch (List.Subset.refl _) _ s h
  | log _ => exact execLog_touch (List.Subset.refl _) _ s h
  | recip _ => exact execRecip_touch (List.Subset.refl _) _ s h
  | rsqrt _ => exact execRsqrt_touch (List.Subset.refl _) _ s h
  | sqrt _ => exact execSqrt_touch (List.Subset.refl _) _ s h
  | tanh _ => exact execTanh_touch (List.Subset.refl _) _ s h
  | sigmoid _ => exact execSigmoid_touch (List.Subset.refl _) _ s h
  | gelu _ => exact execGelu_touch (List.Subset.refl _) _ s h
  | silu _ => exact execSilu_touch (List.Subset.refl _) _ s h
  | segSum _ => exact execSegSum_touch (List.Subset.refl _) _ s h
  | segSumsq _ => exact execSegSumsq_touch (List.Subset.refl _) _ s h
  | segMax _ => exact execSegMax_touch (List.Subset.refl _) _ s h
  | segMin _ => exact execSegMin_touch (List.Subset.refl _) _ s h
  | softmax _ => exact execSoftmax_touch (List.Subset.refl _) _ s h
  | logsumexp _ => exact execLogsumexp_touch (List.Subset.refl _) _ s h
  | xent _ => exact execXent_touch (List.Subset.refl _) _ s h
  | xentGrad _ => exact execXentGrad_touch (List.Subset.refl _) _ s h
  | segScale _ => exact execSegScale_touch (List.Subset.refl _) _ s h
  | segSub _ => exact execSegSub_touch (List.Subset.refl _) _ s h
  | slice _ => exact execSlice_touch (List.Subset.refl _) _ s h
  | topk _ => exact execTopk_touch (List.Subset.refl _) _ s h
  | dmaTransfer _ _ => exact execDmaTransfer_touch (List.Subset.refl _) _ _ s h
  | limberJob _ => exact execLimberJob_touch (List.Subset.refl _) _ s h
  | limberJobAccept _ => exact execLimberJobAccept_touch (List.Subset.refl _) _ s h
  | limberJobComplete _ _ _ => exact execLimberJobComplete_touch (List.Subset.refl _) _ _ _ s h
  | bankCtrl _ _ => exact execBankCtrl_touch (List.Subset.refl _) _ _ s h
  | bankHandoverComplete _ _ => exact execBankHandoverComplete_touch (List.Subset.refl _) _ _ s h
  | bankPowerTransitionDone _ _ => exact execBankPowerTransitionDone_touch (List.Subset.refl _) _ _ s h
  | syncWait _ => exact execSyncWait_touch (List.Subset.refl _) _ s h
  | syncWaitSatisfied _ => exact execSyncWaitSatisfied_touch (List.Subset.refl _) _ s h
  | syncSignal _ => exact execSyncSignal_touch (List.Subset.refl _) _ s h
  | syncSignalArrival _ => exact execSyncSignalArrival_touch (List.Subset.refl _) _ s h
  | beatWait _ => exact execBeatWait_touch (List.Subset.refl _) _ s h
  | beatWaitReached _ => exact execBeatWaitReached_touch (List.Subset.refl _) _ s h
  | boundLoadImmediate _ => exact execBoundLoadImmediate_touch (List.Subset.refl _) _ s h
  | boundLoadMemory _ _ => exact execBoundLoadMemory_touch (List.Subset.refl _) _ _ s h
  | boundLoadDerived _ => exact execBoundLoadDerived_touch (List.Subset.refl _) _ s h
  | maskRectangle _ => exact execMaskRectangle_touch (List.Subset.refl _) _ s h
  | maskBitmap _ _ => exact execMaskBitmap_touch (List.Subset.refl _) _ _ s h
  | arrayPassComplete _ _ => exact execArrayPassComplete_touch (List.Subset.refl _) _ _ s h
  | drainFence _ => exact execDrainFence_touch (List.Subset.refl _) _ s h
  | drainRowWrite _ _ _ => exact execDrainRowWrite_touch (List.Subset.refl _) _ _ _ s h
  | drainPathOpComplete _ _ => exact execDrainPathOpComplete_touch (List.Subset.refl _) _ _ s h
  | katCheckComplete _ _ _ => exact execKatCheckComplete_touch (List.Subset.refl _) _ _ _ s h
  | katMissed _ => exact execKatMissed_touch (List.Subset.refl _) _ s h
  | vectorOpComplete _ _ => exact execVectorOpComplete_touch (List.Subset.refl _) _ _ s h
  | dmaComplete _ _ _ => exact execDmaComplete_touch (List.Subset.refl _) _ _ _ s h
  | bulkData _ _ _ _ _ => exact execBulkData_touch (List.Subset.refl _) _ _ _ _ _ s h
  | bulkOpen _ _ _ _ => exact execBulkOpen_touch (List.Subset.refl _) _ _ _ _ s h
  | bulkOpenAck _ _ => exact execBulkOpenAck_touch (List.Subset.refl _) _ _ s h
  | bulkAck _ _ _ _ => exact execBulkAck_touch (List.Subset.refl _) _ _ _ _ s h
  | bulkNak _ _ => exact execBulkNak_touch (List.Subset.refl _) _ _ s h
  | bulkClose _ _ _ => exact execBulkClose_touch (List.Subset.refl _) _ _ _ s h
  | bulkCloseAck _ _ => exact execBulkCloseAck_touch (List.Subset.refl _) _ _ s h
  | ackTimer _ => exact execAckTimer_touch (List.Subset.refl _) _ s h
  | resendTimer _ => exact execResendTimer_touch (List.Subset.refl _) _ s h
  | bulkFlowTimeout _ => exact execBulkFlowTimeout_touch (List.Subset.refl _) _ s h
  | checkpointSkipped => exact execCheckpointSkipped_touch (List.Subset.refl _) s h
  | hostLinkUp => exact execHostLinkUp_touch (List.Subset.refl _) s h
  | hostLinkDown => exact execHostLinkDown_touch (List.Subset.refl _) s h
  | decodeStart _ _ => exact execDecodeStart_touch (List.Subset.refl _) _ _ s h
  | decodeTurn _ _ _ _ _ => exact execDecodeTurn_touch (List.Subset.refl _) _ _ _ _ _ s h
  | decodeBudgetExceeded _ _ => exact execDecodeBudgetExceeded_touch (List.Subset.refl _) _ _ s h
  | outputComplete _ _ _ => exact execOutputComplete_touch (List.Subset.refl _) _ _ _ s h
  | rowWriteComplete _ _ _ => exact execRowWriteComplete_touch (List.Subset.refl _) _ _ _ s h
  | guardPoint _ _ => exact execGuardPoint_touch (List.Subset.refl _) _ _ s h
  | admissionDeadline => exact execAdmissionDeadline_touch (List.Subset.refl _) s h
  | decodeLoad _ _ _ _ => exact execDecodeLoad_touch (List.Subset.refl _) _ _ _ _ s h
  | gradient _ _ => exact execGradient_touch (List.Subset.refl _) _ _ s h
  | contributionDeadline _ => exact execContributionDeadline_touch (List.Subset.refl _) _ s h
  | normPassComplete _ => exact execNormPassComplete_touch (List.Subset.refl _) _ s h
  | combineUp _ => exact execCombineUp_touch (List.Subset.refl _) _ s h
  | combineDown _ => exact execCombineDown_touch (List.Subset.refl _) _ s h
  | applyDescriptorDone _ _ => exact execApplyDescriptorDone_touch (List.Subset.refl _) _ _ s h
  | withdraw _ => exact execWithdraw_touch (List.Subset.refl _) _ s h
  | shadowCopyDone _ _ => exact execShadowCopyDone_touch (List.Subset.refl _) _ _ s h
  | pageDone _ _ => exact execPageDone_touch (List.Subset.refl _) _ _ s h
  | skidDataFrame _ _ _ => exact execSkidDataFrame_touch (List.Subset.refl _) _ _ _ s h
  | skidNak _ _ => exact execSkidNak_touch (List.Subset.refl _) _ _ s h
  | idleFrame _ _ => exact execIdleFrame_touch (List.Subset.refl _) _ _ s h
  | linkControlFrame _ _ _ _ _ _ _ _ => exact execLinkControlFrame_touch (List.Subset.refl _) _ _ _ _ _ _ _ _ s h
  | skidLinkUp _ => exact execSkidLinkUp_touch (List.Subset.refl _) _ s h
  | skidLinkDown _ => exact execSkidLinkDown_touch (List.Subset.refl _) _ s h
  | dmaWrite _ _ _ => exact execDmaWrite_touch (List.Subset.refl _) _ _ _ s h
  | relayedSyncSignal _ => exact execRelayedSyncSignal_touch (List.Subset.refl _) _ s h
  | command _ => exact execCommand_touch (List.Subset.refl _) _ s h
  | e2eAck _ => exact execE2eAck_touch (List.Subset.refl _) _ s h
  | linkRecord _ => exact execLinkRecord_touch (List.Subset.refl _) _ s h
  | faultNotice _ => exact execFaultNotice_touch (List.Subset.refl _) _ s h
  | captureRequest _ => exact execCaptureRequest_touch (List.Subset.refl _) _ s h
  | snapPage _ => exact execSnapPage_touch (List.Subset.refl _) _ s h
  | pair _ => exact execPair_touch (List.Subset.refl _) _ s h
  | pairAck _ => exact execPairAck_touch (List.Subset.refl _) _ s h
  | captureSent _ => exact execCaptureSent_touch (List.Subset.refl _) _ s h
  | held _ => exact execHeld_touch (List.Subset.refl _) _ s h
  | setMember _ => exact execSetMember_touch (List.Subset.refl _) _ s h
  | captureRefused _ => exact execCaptureRefused_touch (List.Subset.refl _) _ s h
  | restoreRefused _ => exact execRestoreRefused_touch (List.Subset.refl _) _ s h
  | restoreRead _ => exact execRestoreRead_touch (List.Subset.refl _) _ s h
  | restoreData _ => exact execRestoreData_touch (List.Subset.refl _) _ s h
  | restoreExtentVerified _ => exact execRestoreExtentVerified_touch (List.Subset.refl _) _ s h
  | restoreGoStart _ => exact execRestoreGoStart_touch (List.Subset.refl _) _ s h
  | restoreGoStop _ => exact execRestoreGoStop_touch (List.Subset.refl _) _ s h
  | restoreStep _ => exact execRestoreStep_touch (List.Subset.refl _) _ s h
  | windthrowEvaluation => exact execWindthrowEvaluation_touch (List.Subset.refl _) s h
  | environmentRecord => exact execEnvironmentRecord_touch (List.Subset.refl _) s h
  | flitReplay _ _ _ => exact execFlitReplay_touch (List.Subset.refl _) _ _ _ s h
  | cxlLinkRetrain _ _ _ _ => exact execCxlLinkRetrain_touch (List.Subset.refl _) _ _ _ _ s h
  | cxlLinkDown _ _ => exact execCxlLinkDown_touch (List.Subset.refl _) _ _ s h
  | scrubRead _ _ _ => exact execScrubRead_touch (List.Subset.refl _) _ _ _ s h
  | scrubBehind _ => exact execScrubBehind_touch (List.Subset.refl _) _ s h
  | hbmRefreshDue stack => exact execHbmRefreshDue_touch (List.Subset.refl _) stack s h
  | stackTempRead _ _ => exact execStackTempRead_touch (List.Subset.refl _) _ _ s h
  | hbmCalibration stack => exact execHbmCalibration_touch (List.Subset.refl _) stack s h
  | unitKatTest _ _ => exact execUnitKatTest_touch (List.Subset.refl _) _ _ s h
  | checkerSelfTest _ _ _ => exact execCheckerSelfTest_touch (List.Subset.refl _) _ _ _ s h
  | wardenLockstep => exact execWardenLockstep_touch (List.Subset.refl _) s h
  | controllerLockstep _ => exact execControllerLockstep_touch (List.Subset.refl _) _ s h
  | monitorSample _ => exact execMonitorSample_touch (List.Subset.refl _) _ s h
  | powerSample _ => exact execPowerSample_touch (List.Subset.refl _) _ s h
  | thermalDemandUpdate _ _ => exact execThermalDemandUpdate_touch (List.Subset.refl _) _ _ s h
  | stretchStepDown _ => exact execStretchStepDown_touch (List.Subset.refl _) _ s h
  | pllLockLoss _ _ => exact execPllLockLoss_touch (List.Subset.refl _) _ _ s h
  | standbyRelock _ _ _ => exact execStandbyRelock_touch (List.Subset.refl _) _ _ _ s h
  | switchOverStart _ _ => exact execSwitchOverStart_touch (List.Subset.refl _) _ _ s h
  | switchOverComplete => exact execSwitchOverComplete_touch (List.Subset.refl _) s h
  | returnToMain _ => exact execReturnToMain_touch (List.Subset.refl _) _ s h
  | supplyLost _ _ => exact execSupplyLost_touch (List.Subset.refl _) _ _ s h
  | feedBackupLow _ => exact execFeedBackupLow_touch (List.Subset.refl _) _ s h
  | tamper => exact execTamper_touch (List.Subset.refl _) s h
  | coolantDeltaHigh _ _ => exact execCoolantDeltaHigh_touch (List.Subset.refl _) _ _ s h
  | cardChanged _ _ => exact execCardChanged_touch (List.Subset.refl _) _ _ s h
  | fwCardInstall _ => exact execFwCardInstall_touch (List.Subset.refl _) _ s h
  | fwInstallComplete _ => exact execFwInstallComplete_touch (List.Subset.refl _) _ s h
  | fwConfirm _ => exact execFwConfirm_touch (List.Subset.refl _) _ s h
  | moduleRestart _ => exact execModuleRestart_touch (List.Subset.refl _) _ s h
  | lifecycleReturn _ => exact execLifecycleReturn_touch (List.Subset.refl _) _ s h
  | attestNonce _ => exact execAttestNonce_touch (List.Subset.refl _) _ s h
  | flashVerify _ => exact execFlashVerify_touch (List.Subset.refl _) _ s h
  | beatBoundary => exact execBeatBoundary_touch (List.Subset.refl _) s h
  | announceMessage _ _ _ _ _ _ _ _ _ _ => exact execAnnounceMessage_touch (List.Subset.refl _) _ _ _ _ _ _ _ _ _ _ s h
  | routeFlood _ _ _ => exact execRouteFlood_touch (List.Subset.refl _) _ _ _ s h
  | skidPortDown _ => exact execSkidPortDown_touch (List.Subset.refl _) _ s h
  | spineRetrainDone _ _ _ => exact execSpineRetrainDone_touch (List.Subset.refl _) _ _ _ s h
  | clockSwitchDone _ => exact execClockSwitchDone_touch (List.Subset.refl _) _ s h
  | icmpEchoRequest _ _ => exact execIcmpEchoRequest_touch (List.Subset.refl _) _ _ s h
  | neighbourRequest _ _ => exact execNeighbourRequest_touch (List.Subset.refl _) _ _ s h
  | frameDiscarded _ _ _ => exact execFrameDiscarded_touch (List.Subset.refl _) _ _ _ s h
  | undefinedOmOp _ _ => exact execUndefinedOmOp_touch (List.Subset.refl _) _ _ s h

/-! ### Every command runs -/

/-- A result is a next state. -/
def Runs (r : Res) : Prop := ∃ t, r = .next t

theorem Runs.next (s : State) : Runs (.next s) := ⟨s, rfl⟩
theorem Runs.ite {c : Prop} [Decidable c] {a b : Res} (ha : Runs a) (hb : Runs b) : Runs (if c then a else b) := by
  split
  · exact ha
  · exact hb

theorem execSessionIdleTimeout_runs (id : Nat) (s : State) : Runs (execSessionIdleTimeout id s) := by
  unfold execSessionIdleTimeout
  split <;> exact .next _
theorem execAuthLockExpiry_runs (s : State) : Runs (execAuthLockExpiry s) := by
  unfold execAuthLockExpiry
  split <;> exact .next _
theorem execOperatorKey_runs (q : Req) (s : State) : Runs (execOperatorKey q s) := .ite (.next _) (.next _)
theorem execContributionDeadline_runs (i : Nat) (s : State) : Runs (execContributionDeadline i s) := by
  unfold execContributionDeadline
  split
  · exact .ite (.next _) (.next _)
  · exact .next _
theorem execNormPassComplete_runs (checks : List MemCheck) (s : State) : Runs (execNormPassComplete checks s) := by
  unfold execNormPassComplete
  split
  · exact .next _
  · exact .ite (.next _) (.ite (.next _) (.next _))
theorem execCombineDown_runs (m : Option Msg) (s : State) : Runs (execCombineDown m s) := by
  unfold execCombineDown
  split
  · refine .ite (.next _) ?_
    split
    · split <;> exact .next _
    · exact .next _
  · exact .next _
theorem execApplyDescriptorDone_runs (i : Nat) (checks : List MemCheck) (s : State) : Runs (execApplyDescriptorDone i checks s) := by
  unfold execApplyDescriptorDone
  split
  · exact .ite (.next _) (.ite (.next _) (.ite (.next _) (.next _)))
  · exact .next _

/-- A possible result runs. -/
def RunsO (o : Option Res) : Prop := ∀ r, o = some r → Runs r

theorem RunsO.none : RunsO none := fun _ h => nomatch h
theorem RunsO.some {r : Res} (h : Runs r) : RunsO (some r) := fun _ e => Option.some.inj e ▸ h
theorem RunsO.ite {c : Prop} [Decidable c] {a b : Option Res} (ha : RunsO a) (hb : RunsO b) : RunsO (if c then a else b) := by
  split
  · exact ha
  · exact hb

/-- The command that serves the write of an object with a row of its own runs. -/
theorem writeOwn_runs (q : Req) (s : State) : RunsO (writeOwn q s) := by
  have next (t : State) : RunsO (Option.some (.next t)) := .some (.next t)
  unfold writeOwn
  split
  · exact .ite (next _) (.ite (next _) (.ite (next _) (.ite (next _) (.ite (next _) (.ite (next _) .none)))))
  · exact next _
  · exact next _
  · exact next _
  · exact .ite (next _) (.ite (next _) .none)
  · exact next _
  · exact next _
  · exact next _
  · exact next _
  · exact next _
  · exact next _
  · exact .ite (.some (execOperatorKey_runs q s)) .none
  · exact .ite (next _) .none
  · exact .none
theorem execWrite_runs (q : Req) (flash : FlashReport) (s : State) : Runs (execWrite q flash s) := by
  unfold execWrite
  split
  · next r hr => exact writeOwn_runs q s r hr
  · exact .next _

/-- The safe point of a group runs, but where clock test values of group 0x9000 break the ratio of R499. -/
theorem execApplySafePoint_runs (g : Nat) (s : State) : Runs (execApplySafePoint g s) ∨
    (g = 0x9000 ∧ execApplySafePoint g s = .fault .clockRatioUndefined ∧
      ∃ a, s.pendingOf g = some a ∧ clockTest a.values = true ∧ ratioBroken a.values = true) := by
  unfold execApplySafePoint
  split
  · exact .inl (.next _)
  · next a ha =>
    split_ifs with hwait hbroken
    · exact .inl (.next _)
    · obtain ⟨hg, htest, hratio, -⟩ := hbroken
      exact .inr ⟨hg, rfl, a, ha, htest, hratio⟩
    · exact .inl (.next _)

/-- Every command but a group's safe point runs: most answer a next state outright. -/
theorem exec_runs (c : Instr) (s : State) (h : ∀ g, c ≠ .applySafePoint g) : Runs (exec c s) := by
  cases c with
  | applySafePoint g => exact absurd rfl (h g)
  | write q flash => exact execWrite_runs q flash s
  | sessionIdleTimeout id => exact execSessionIdleTimeout_runs id s
  | authLockExpiry => exact execAuthLockExpiry_runs s
  | operatorKey q => exact execOperatorKey_runs q s
  | contributionDeadline i => exact execContributionDeadline_runs i s
  | normPassComplete checks => exact execNormPassComplete_runs checks s
  | combineDown m => exact execCombineDown_runs m s
  | applyDescriptorDone i checks => exact execApplyDescriptorDone_runs i checks s
  | _ => exact .next _

end Sys2Proof.Machine
end

section
open Sys2Proof Sys2Proof.Machine

/-- Settles O5: a step is a command or a cycle of the time engine, and both keep the invariant. -/
theorem everyStepKeepsTheInvariant : Obligations.EveryStepKeepsTheInvariant := by
  unfold Obligations.EveryStepKeepsTheInvariant step
  intro s t hstep hinv
  split at hstep
  · cases hstep
    obtain ⟨-, -, -, hkeeps⟩ := State.tick_kept s (Kept.refl s)
    exact hkeeps hinv
  · next c rest _ =>
    obtain ⟨-, -, -, hkeeps⟩ := exec_kept c (s.popped rest) t hstep
    exact hkeeps hinv

/-- Settles O6: part of what every command keeps. -/
theorem commandsOnlyAddToTheRecord : Obligations.CommandsOnlyAddToTheRecord := by
  unfold Obligations.CommandsOnlyAddToTheRecord
  intro c s t hexec
  obtain ⟨hpending, hout, hfree, -⟩ := exec_kept c s t hexec
  exact ⟨hpending, hout, hfree⟩

/-- Settles O7: each command's own law says which parts it may change. -/
theorem commandsChangeOnlyTheirParts : Obligations.CommandsChangeOnlyTheirParts :=
  fun c s t hexec => exec_touch c s t hexec

/-- Settles O8: the safe point of a group is the one command with a path that stops. -/
theorem everyCommandRuns : Obligations.EveryCommandRuns := by
  unfold Obligations.EveryCommandRuns
  intro c s
  by_cases hsafe : ∃ g, c = .applySafePoint g
  · obtain ⟨g, rfl⟩ := hsafe
    refine (execApplySafePoint_runs g s).imp id ?_
    rintro ⟨rfl, hfault, hbroken⟩
    exact ⟨rfl, hfault, hbroken⟩
  · exact .inl (exec_runs c s fun g hg => hsafe ⟨g, hg⟩)

/-- Settles O9: bytes written read back and all others stay, by the laws of memory. -/
theorem bytesReadBackAsWritten : Obligations.BytesReadBackAsWritten := by
  unfold Obligations.BytesReadBackAsWritten
  intro m a bs hwf
  refine ⟨writeBytes_wf bs m a hwf, ?_, fun j hj => readByte_writeBytes_other bs m a j hj⟩
  refine List.ext_getElem (by simp [readBytes]) fun i hi hbs => ?_
  simpa [readBytes] using readByte_writeBytes_same bs m a i hbs
end

section
/-! SUPPORT and PROOFS. Feeder SRAM, which no bank guards (R235, R252), and the element operations of the vector unit on a row of it
(R214, R217, R220). -/

namespace Sys2Proof.Machine

/-! ### Byte ranges of memory -/

theorem readBytes_add (m : List (Nat × Byte)) (a k n : Nat) : readBytes m a (k + n) = readBytes m a k ++ readBytes m (a + k) n := by
  simp [readBytes, List.range_add, Function.comp_def, Nat.add_assoc]
theorem writeBytes_append (m : List (Nat × Byte)) (a : Nat) (xs ys : Bytes) :
    writeBytes m a (xs ++ ys) = writeBytes (writeBytes m a xs) (a + xs.length) ys := by
  induction xs generalizing m a with
  | nil => rfl
  | cons x xs ih => rw [List.cons_append, writeBytes, writeBytes, ih, List.length_cons, Nat.add_assoc, Nat.add_comm 1]
theorem slice_add (bs : Bytes) (o k n : Nat) : slice bs o (k + n) = slice bs o k ++ slice bs (o + k) n := by
  simp [slice, List.take_add]
theorem slice_length_of_le {bs : Bytes} {o n : Nat} (h : o + n ≤ bs.length) : (slice bs o n).length = n := by
  simp [slice]; omega

/-! ### The requests of an access (R236) -/

theorem requests_zero (fuel o : Nat) : requests fuel o 0 = [] := by cases fuel <;> rfl
/-- The first request of an access takes some of its bytes. -/
theorem requests_succ (fuel o : Nat) {n : Nat} (h : 0 < n) :
    ∃ k, 0 < k ∧ k ≤ n ∧ requests (fuel + 1) o n = (o, k) :: requests fuel (o + k) (n - k) :=
  ⟨max 1 (min n (min (576 - o % 64) (bankRoom o))), by omega, by omega, by rw [requests, if_neg (by omega)]⟩

/-- A fold over the requests of a range does what it does on the whole range, where it does so piece by piece. -/
theorem foldl_requests {β : Type} {F : β → Nat × Nat → β} {G : Nat → Nat → β → β} {lo hi : Nat} (hzero : ∀ o b, G o 0 b = b)
    (hadd : ∀ o k n b, lo ≤ o → o + (k + n) ≤ hi → G (o + k) n (G o k b) = G o (k + n) b)
    (hone : ∀ o k b, lo ≤ o → 0 < k → o + k ≤ hi → F b (o, k) = G o k b) :
    ∀ fuel o n b, n ≤ fuel → lo ≤ o → o + n ≤ hi → (requests fuel o n).foldl F b = G o n b := by
  intro fuel
  induction fuel with
  | zero =>
    intro o n b hn _ _
    rw [Nat.le_zero.mp hn, requests_zero]
    exact (hzero o b).symm
  | succ fuel ih =>
    intro o n b hn hlo hhi
    rcases Nat.eq_zero_or_pos n with rfl | hpos
    · rw [requests_zero]
      exact (hzero o b).symm
    · obtain ⟨k, hk, hkn, hreq⟩ := requests_succ fuel o hpos
      rw [hreq, List.foldl_cons, hone o k b hlo hk (by omega), ih _ _ _ (by omega) (by omega) (by omega),
        hadd _ _ _ _ hlo (by omega), Nat.add_sub_cancel' hkn]

/-! ### Feeder SRAM -/

/-- Aperture offsets of feeder SRAM (R235). -/
def feederStart : Nat := 0x8000000
def feederEnd : Nat := 0x8000000 + 12 * 0x200000

theorem bankIndex_of_feeder {o : Nat} (hlo : feederStart ≤ o) (hhi : o < feederEnd) : bankIndex o = none := by
  unfold feederStart feederEnd at *
  have hat : apertureAt o = .feeder ((o - 0x8000000) / 0x200000) ((o - 0x8000000) % 0x200000 / 64) := by
    unfold apertureAt
    rw [if_neg (by omega), if_pos ⟨hlo, hhi⟩]
  rw [bankIndex, hat]

variable (s : State) (die req step : Nat)

theorem State.allowAccess_of_feeder {o : Nat} (hlo : feederStart ≤ o) (hhi : o < feederEnd) : s.allowAccess die o req step = (true, s) := by
  rw [State.allowAccess, bankIndex_of_feeder hlo hhi]

/-- A read of feeder SRAM returns what it holds, and changes nothing. -/
theorem State.sramRead_of_feeder {o n : Nat} (hlo : feederStart ≤ o) (hhi : o + n ≤ feederEnd) :
    s.sramRead die o n req step = (readBytes s.mem (apertureBase die + o) n, s) := by
  unfold State.sramRead
  refine (foldl_requests (G := fun o n (acc : Bytes × State) => (acc.1 ++ readBytes acc.2.mem (apertureBase die + o) n, acc.2))
    (lo := feederStart) (hi := feederEnd) (fun o b => ?_) (fun o k n b _ _ => ?_) (fun o k b h1 hk h2 => ?_) n o n _ (Nat.le_refl n) hlo hhi).trans ?_
  · simp [readBytes]
  · simp only [readBytes_add, List.append_assoc, Nat.add_assoc]
  · rw [State.allowAccess_of_feeder _ _ _ _ h1 (by omega)]
    rfl
  · rfl

/-- A write of feeder SRAM writes its bytes. -/
theorem State.sramWrite_of_feeder {o : Nat} {bs : Bytes} (hlo : feederStart ≤ o) (hhi : o + bs.length ≤ feederEnd) :
    s.sramWrite die o req step bs = { s with mem := writeBytes s.mem (apertureBase die + o) bs } := by
  unfold State.sramWrite
  refine (foldl_requests (G := fun a n (t : State) => { t with mem := writeBytes t.mem (apertureBase die + a) (slice bs (a - o) n) })
    (lo := o) (hi := o + bs.length) (fun a t => ?_) (fun a k n t h1 h2 => ?_) (fun a k t h1 hk h2 => ?_) _ o _ _ (Nat.le_refl _)
    (Nat.le_refl _) (Nat.le_refl _)).trans ?_
  · simp [slice, writeBytes]
  · have hlen : (slice bs (a - o) k).length = k := slice_length_of_le (by omega)
    have hoff : a + k - o = a - o + k := by omega
    rw [hoff, slice_add, writeBytes_append, hlen, Nat.add_assoc]
  · rw [State.allowAccess_of_feeder _ _ _ _ (by omega) (by omega)]
    rfl
  · simp [slice]

/-! ### Feeder SRAM of a cluster -/

variable (cl : Nat)

theorem localToModule_of_feeder (cl : Nat) {x : Nat} (h : x < feederBytes) :
    localToModule die cl x = apertureBase die + (feederStart + (cl % 12 * 0x200000 + x)) := by
  unfold feederBytes at h
  rw [localToModule, if_pos h, feederStart, Nat.add_assoc, Nat.add_assoc]
theorem feeder_in_aperture (cl : Nat) {x n : Nat} (h : x + n ≤ feederBytes) : feederStart + (cl % 12 * 0x200000 + x) + n ≤ feederEnd := by
  unfold feederBytes at h
  unfold feederStart feederEnd
  have := Nat.mod_lt cl (show 12 > 0 by decide)
  omega

theorem State.localRead_of_feeder {x n : Nat} (h : x + n ≤ feederBytes) :
    s.localRead cl x n step = (readBytes s.mem (localToModule (s.physDie (clDie cl)) cl x) n, s) := by
  unfold State.localRead
  dsimp only
  rcases Nat.eq_zero_or_pos n with rfl | hn
  · rfl
  · rw [localToModule_of_feeder _ cl (by omega), Nat.add_sub_cancel_left,
      State.sramRead_of_feeder _ _ _ _ (Nat.le_add_right _ _) (feeder_in_aperture cl h)]

/-- The state once local bytes of a cluster are written. -/
def State.putLocal (s : State) (cl x : Nat) (bs : Bytes) : State :=
  { s with mem := writeBytes s.mem (localToModule (s.physDie (clDie cl)) cl x) bs }

theorem State.localWrite_of_feeder {x : Nat} {bs : Bytes} (h : x + bs.length ≤ feederBytes) :
    s.localWrite cl x step bs = s.putLocal cl x bs := by
  unfold State.localWrite State.putLocal
  dsimp only
  cases bs with
  | nil => rfl
  | cons b bs =>
    rw [localToModule_of_feeder _ cl (by simp only [List.length_cons] at h; omega), Nat.add_sub_cancel_left,
      State.sramWrite_of_feeder _ _ _ _ (Nat.le_add_right _ _) (feeder_in_aperture cl h)]

/-! ### Rows of feeder SRAM (R214) -/

theorem leBytes_length (n x : Nat) : (leBytes n x).length = n := by
  induction n generalizing x with
  | zero => rfl
  | succ n ih => rw [leBytes, List.length_cons, ih]
theorem packRow_length (w : Nat) (cs : List Nat) : (packRow w cs).length = packedBytes w cs.length := leBytes_length _ _
/-- A packed row of 128 elements keeps to the row pitch. -/
theorem packedBytes_le_rowBytes (f : Nat) : packedBytes (fmtWidth f) 128 ≤ rowBytes f := by
  unfold packedBytes rowBytes up64
  split
  · next h => rw [h]; decide
  · omega

/-- The 128 codes of format `f` that feeder SRAM of a cluster holds at a line. -/
def State.storedRow (s : State) (cl f line : Nat) : List Nat :=
  (List.range 128).map fun q => unpackElem (fmtWidth f)
    (readBytes s.mem (localToModule (s.physDie (clDie cl)) cl (line * 64)) (packedBytes (fmtWidth f) 128)) q

theorem State.readRow_of_feeder {line f : Nat} (h : line * 64 + rowBytes f ≤ feederBytes) :
    s.readRow cl line f 0 step = (s.storedRow cl f line, s) := by
  have hrow := packedBytes_le_rowBytes f
  unfold State.readRow
  dsimp only
  rw [Nat.zero_mul, Nat.add_zero, State.localRead_of_feeder _ _ _ (by omega)]
  rfl
theorem State.writeRow_of_feeder {line f : Nat} {cs : List Nat} (hcs : cs.length = 128) (h : line * 64 + rowBytes f ≤ feederBytes) :
    s.writeRow cl line f 0 step cs = s.putLocal cl (line * 64) (packRow (fmtWidth f) cs) := by
  have hrow := packedBytes_le_rowBytes f
  unfold State.writeRow
  rw [Nat.zero_mul, Nat.add_zero, State.localWrite_of_feeder _ _ _ (by rw [packRow_length, hcs]; omega)]

/-! ### One row of an element operation (R217, R218, R220) -/

/-- The results of an element operation on a row of codes of A and one of B. -/
def elemResults (w : Nat) (as bs : List Nat) : List ElemResult :=
  if vuRowsB (vOp w) = true then List.zipWith (fun a b => vuTwo (vOp w) a b (elemVal0 fBF16 (vImm w))) (vals (vFmtIn w) as) (vals (vFmtIn w) bs)
  else (vals (vFmtIn w) as).map fun a => vuOne (vOp w) a (elemVal0 fBF16 (vImm w))
/-- The codes of results, each rounded once. -/
def resultCodes (w : Nat) (rs : List ElemResult) : List Nat := rs.map fun r => (writeElem (vFmtOut w) (decide (vOp w = 0)) r).code

theorem elemResults_length {w : Nat} {as bs : List Nat} (ha : as.length = 128) (hb : vuRowsB (vOp w) = true → bs.length = 128) :
    (elemResults w as bs).length = 128 := by
  unfold elemResults vals
  split
  · next h => simp [ha, hb h]
  · simp [ha]

/-- The parts that counting rounded elements changes (R144, R145). -/
def countParts : List Part := [.log, .stats, .host, .ctr, .out]

theorem State.addCounts_same (src w f : Nat) (c : Counts) : SameBut countParts s (s.addCounts src step w f c) :=
  State.addCounts_touch (List.Subset.refl _) s src step w f c (Touch.refl _ s)
theorem State.addHist_same (w f : Nat) (vs : List ℚ) : SameBut countParts s (s.addHist step w f vs) :=
  State.addHist_touch (by decide) s step w f vs (Touch.refl _ s)
theorem countParts_trans {s t u : State} (h : SameBut countParts s t) (k : SameBut countParts t u) : SameBut countParts s u := sb_idem h k

theorem putLocal_same {s t : State} (h : SameBut countParts s t) (cl x : Nat) (bs : Bytes) :
    SameBut countParts (s.putLocal cl x bs) (t.putLocal cl x bs) := by
  have hstart : t.start = s.start := h .start (by decide)
  have hmem : t.mem = s.mem := h .mem (by decide)
  intro p hp
  cases p with
  | mem => simp only [Part.same, State.putLocal, State.physDie, hstart, hmem]
  | _ => exact h _ hp

/-- In plain output mode a row of 128 results is written with its codes, and counted. -/
theorem State.writeRows_plain {w : Nat} {rs : List ElemResult} (hmode : vMode w = 0) (hrs : rs.length = 128)
    (h : vDst w * 64 + rowBytes (vFmtOut w) ≤ feederBytes) :
    SameBut countParts (s.putLocal cl (vDst w * 64) (packRow (fmtWidth (vFmtOut w)) (resultCodes w rs)))
      (s.writeRows cl w 0 step [(rs, true)]) := by
  have hcodes : resultCodes w rs = (rs.map (writeElem (vFmtOut w) (vOp w = 0))).map fun x => x.code := by
    rw [resultCodes, List.map_map]
    rfl
  unfold State.writeRows
  rw [hmode]
  simp only [State.writePlain, List.zipIdx_cons, List.zipIdx_nil, List.foldl_cons, List.foldl_nil]
  rw [State.writeRow_of_feeder _ _ _ (by simp [hrs]) h, ← hcodes]
  exact countParts_trans (State.addCounts_same _ _ _ _ _ _) (State.addHist_same _ _ _ _ _)

/-- The operands of a row are counted: their non-finite codes, and the results that a non-finite immediate spoils (R218). -/
def State.countOperands (s : State) (cl w step : Nat) (as bs : List Nat) : State :=
  let t := s.addCounts (s.seqSrc cl) step (vWatch w) (vFmtIn w)
    { nonFinite := nonFiniteCount (vFmtIn w) as + nonFiniteCount (vFmtIn w) bs }
  if (vuUsesImm (vOp w) && nonFinite fBF16 (vImm w)) = true then
    t.addCounts (s.seqSrc cl) step (vWatch w) (vFmtOut w) { nonFinite := (elemResults w as bs).length }
  else t

theorem State.countOperands_same (w : Nat) (as bs : List Nat) : SameBut countParts s (s.countOperands cl w step as bs) := by
  unfold State.countOperands
  dsimp only
  split
  · exact countParts_trans (State.addCounts_same _ _ _ _ _ _) (State.addCounts_same _ _ _ _ _ _)
  · exact State.addCounts_same _ _ _ _ _ _

/-- The row of B that an operation on rows reads: none for one of a single source. -/
def State.rowB (s : State) (cl w : Nat) : List Nat := if vuRowsB (vOp w) = true then s.storedRow cl (vFmtIn w) (vSrcB w) else []

theorem State.vecRows_eq {w : Nat} (as : List Nat) (hb : vuRowsB (vOp w) = true → vSrcB w * 64 + rowBytes (vFmtIn w) ≤ feederBytes) :
    s.vecRows cl w 0 step [as]
      = (s.countOperands cl w step as (s.rowB cl w)).writeRows cl w 0 step [(elemResults w as (s.rowB cl w), true)] := by
  unfold State.vecRows State.countOperands elemResults State.rowB
  by_cases hrows : vuRowsB (vOp w) = true
  · simp only [List.zipIdx_cons, List.zipIdx_nil, List.foldl_cons, List.foldl_nil, Nat.add_zero, hrows, if_true,
      State.readRow_of_feeder s step cl (hb hrows), List.nil_append]
  · simp only [List.zipIdx_cons, List.zipIdx_nil, List.foldl_cons, List.foldl_nil, hrows, List.nil_append]
    rfl

/-- An element operation on one row of A, its row of B in feeder SRAM, writes the row of its results, and counts. -/
theorem State.vecRows_of_feeder {w : Nat} {as : List Nat} (hmode : vMode w = 0) (has : as.length = 128)
    (hdst : vDst w * 64 + rowBytes (vFmtOut w) ≤ feederBytes)
    (hb : vuRowsB (vOp w) = true → vSrcB w * 64 + rowBytes (vFmtIn w) ≤ feederBytes) :
    SameBut countParts
      (s.putLocal cl (vDst w * 64) (packRow (fmtWidth (vFmtOut w)) (resultCodes w (elemResults w as (s.rowB cl w)))))
      (s.vecRows cl w 0 step [as]) := by
  have hlen : vuRowsB (vOp w) = true → (s.rowB cl w).length = 128 := fun h => by simp [State.rowB, h, State.storedRow]
  rw [State.vecRows_eq s step cl as hb]
  exact countParts_trans (putLocal_same (s.countOperands_same step cl w as _) _ _ _)
    (State.writeRows_plain _ step cl hmode (elemResults_length has hlen) hdst)

/-! ### One row of the queue's head (R152, R215) -/

/-- The row of A that an operation at its first row takes: of the drain input, or of feeder SRAM. -/
def State.rowA (s : State) (cl w : Nat) : List Nat :=
  if vSrcA w = drainInput then (s.cl cl).drainIn.headD [] else s.storedRow cl (vFmtIn w) (vSrcA w)

theorem State.rowA_length {w : Nat} (hdrain : vSrcA w = drainInput → ∃ r rs, (s.cl cl).drainIn = r :: rs ∧ r.length = 128) :
    (s.rowA cl w).length = 128 := by
  unfold State.rowA
  split
  · next h =>
    obtain ⟨r, rs, hr, hlen⟩ := hdrain h
    rw [hr]
    exact hlen
  · simp [State.storedRow]

theorem State.rowB_congr {s t : State} (cl : Nat) (hmem : t.mem = s.mem) (hstart : t.start = s.start) (w : Nat) : t.rowB cl w = s.rowB cl w := by
  simp only [State.rowB, State.storedRow, State.physDie, hmem, hstart]

/-- Taking its row of A, an operation changes at most the drain input of its cluster. -/
theorem State.vecSource_of_feeder {op : VecOp} (hclass : iClass op.word = 8) (hrow : op.row = 0)
    (hdrain : vSrcA op.word = drainInput → ∃ r rs, (s.cl cl).drainIn = r :: rs ∧ r.length = 128)
    (hfeeder : vSrcA op.word ≠ drainInput → vSrcA op.word * 64 + rowBytes (vFmtIn op.word) ≤ feederBytes) :
    ∃ u, s.vecSource cl op 1 = some ([s.rowA cl op.word], u) ∧ SameBut [.clusters] s u ∧ (u.cl cl).vuOps = (s.cl cl).vuOps
      ∧ (u.cl cl).step = (s.cl cl).step := by
  have hclass9 : ¬iClass op.word = 9 := by omega
  unfold State.vecSource State.rowA vecFromDrain
  simp only [hclass9, if_false, hrow, Nat.zero_add]
  by_cases hsrc : vSrcA op.word = drainInput
  · obtain ⟨r, rs, hr, -⟩ := hdrain hsrc
    simp only [hsrc, hr, beq_self_eq_true, if_true, List.length_cons, List.take_succ_cons, List.take_zero, List.map_cons, List.map_nil,
      List.headD_cons]
    rw [if_neg (by omega)]
    exact ⟨_, rfl, sb_modCl _ _ _, by rw [cl_modCl], by rw [cl_modCl]⟩
  · simp only [beq_eq_false_iff_ne.mpr hsrc, hsrc, if_false, List.range_one, List.foldl_cons, List.foldl_nil,
      State.readRow_of_feeder s op.step cl (hfeeder hsrc), List.nil_append]
    exact ⟨s, rfl, SameBut.rfl', rfl, rfl⟩

/-- An operation on elements takes one row at once in plain output mode. -/
theorem vecChunk_of_elem {w : Nat} (hclass : iClass w = 8) (hmode : vMode w = 0) (hop : vOp w ≤ 0x18) : vecChunk w = 1 := by
  have hseg : vuSeg (vOp w) = false := by simp [vuSeg]; omega
  rw [vecChunk, if_neg (by omega), hseg, if_neg (by decide), if_neg (by omega)]
theorem State.vecApply_of_elem {op : VecOp} (hclass : iClass op.word = 8) (hop : vOp op.word ≤ 0x18) (rows : List (List Nat)) :
    s.vecApply cl op rows = s.vecRows cl op.word op.row op.step rows := by
  have hseg : vuSeg (vOp op.word) = false := by simp [vuSeg]; omega
  unfold State.vecApply
  dsimp only
  rw [if_neg (by omega), hseg, if_neg (by decide), if_neg (by omega)]

/-- The operation at the head, of one row, runs through it. -/
theorem State.runVector_one {op : VecOp} {rest : List VecOp} {u : State} {rows : List (List Nat)} (hq : (s.cl cl).vecQ = op :: rest)
    (hrow : op.row = 0) (hrows : op.rows = 1) (hchunk : vecChunk op.word = 1) (hsource : s.vecSource cl op 1 = some (rows, u))
    (hlatch : (u.vecApply cl op rows).safe.latch = s.safe.latch) (hover : vecOverlap { op with row := 1 } = false) :
    s.runVector cl op.rows = (u.vecApply cl op rows).modCl cl fun c => { c with vecQ := { op with row := 1 } :: rest } := by
  have hn : min (vecChunk op.word) (op.rows - op.row) = 1 := by rw [hchunk, hrows, hrow]; rfl
  have hleft : ¬op.rows ≤ op.row := by omega
  conv_lhs => rw [hrows, State.runVector, hq]
  dsimp only
  rw [if_neg hleft, hn, hsource]
  dsimp only
  rw [hlatch, if_neg (by simp), hrow, Nat.zero_add, hover, if_neg (by simp)]
  rfl

/-- The head of the vector queue retires; `rest` is behind it. -/
def State.retireVec (s : State) (cl : Nat) (rest : List VecOp) : State :=
  ((s.modCl cl fun c => { c with vecQ := rest }).vuRetired cl).settle cl

theorem State.retireVec_spec {s : State} {cl : Nat} (h : OnTime s cl) (rest : List VecOp) :
    ((s.retireVec cl rest).cl cl).vecQ = rest ∧ ((s.retireVec cl rest).cl cl).vuOps = (s.cl cl).vuOps + 1
      ∧ SameBut issueParts s (s.retireVec cl rest) := by
  unfold State.retireVec
  generalize hv : (s.modCl cl fun c => { c with vecQ := rest }).vuRetired cl = v
  have hcl : v.cl cl = { s.cl cl with vecQ := rest, vuOps := (s.cl cl).vuOps + 1 } := by
    rw [← hv, State.vuRetired, cl_bump, cl_modCl, cl_modCl]
  have hsame : SameBut [.clusters, .ctr] s v := by
    rw [← hv]
    exact (((sb_modCl s cl _).trans (sb_modCl _ cl _)).trans (sb_ctr _ _ _)).mono (by decide)
  obtain ⟨hwork, -, -, hsettle⟩ := v.settle_spec cl (onTime_of (hsame .job (by decide)) (by rw [hcl]) h)
  have hq := congrArg Cluster.vecQ hwork
  have hops := congrArg Cluster.vuOps hwork
  rw [hcl] at hq hops
  exact ⟨hq, hops, (hsame.trans hsettle).mono (by decide)⟩

/-- The head of the queue, once it has run through its last row, retires. -/
theorem execVectorOpComplete_of_run {s v : State} {cl : Nat} {op op' : VecOp} {rest rest' : List VecOp} (hq : (s.cl cl).vecQ = op :: rest)
    (hclock : s.clocked cl = true) (hstarved : (s.cl cl).starved op = false) (hrun : s.runVector cl op.rows = v)
    (hv : (v.cl cl).vecQ = op' :: rest') (hdone : op'.rows ≤ op'.row) :
    execVectorOpComplete cl [] s = .next (v.retireVec cl rest') := by
  unfold execVectorOpComplete
  rw [hq]
  simp only [hclock, hstarved, State.checked, hrun, hv, hdone, Bool.not_true, if_true]
  rfl

end Sys2Proof.Machine
end

section
open Sys2Proof Sys2Proof.Machine

/-- Settles O45: in feeder SRAM a row is read and written whole; the head of the queue takes its one row, writes the row of its
results, and retires. -/
theorem rowOperationsWriteTheirResults : Obligations.RowOperationsWriteTheirResults := by
  unfold Obligations.RowOperationsWriteTheirResults
  intro s cl op rest hq hclock htime w hclass hmode hop hrow hrows hover hdrain hfeeder hdst hb at' imm stored xs ys results
  obtain ⟨u, hsource, hu, hops, hstep⟩ := s.vecSource_of_feeder cl hclass hrow hdrain hfeeder
  have hmem : u.mem = s.mem := hu .mem (by decide)
  have hstart : u.start = s.start := hu .start (by decide)
  have hlen := s.rowA_length cl hdrain
  have hwrite := u.vecRows_of_feeder op.step cl hmode hlen hdst hb
  rw [State.rowB_congr cl hmem hstart] at hwrite
  generalize hv : u.vecRows cl w 0 op.step [s.rowA cl w] = v at hwrite
  have happly : u.vecApply cl op [s.rowA cl w] = v := by rw [u.vecApply_of_elem cl hclass hop, hrow, hv]
  have hput (bs : Bytes) : SameBut [.clusters, .mem] s (u.putLocal cl (vDst w * 64) bs) := fun p hp => by
    cases p with
    | mem => exact absurd (by decide) hp
    | _ => exact hu _ fun h => hp (List.mem_append_left [.mem] h)
  have hsv := (hput _).trans hwrite
  have hcl : v.cl cl = u.cl cl := cl_of (hwrite .clusters (by decide)) cl
  have hrun := s.runVector_one cl hq hrow hrows (vecChunk_of_elem hclass hmode hop) hsource
    (by rw [happly]; exact congrArg Safety.latch (hsv .safe (by decide))) hover
  rw [happly] at hrun
  have hstarved : (s.cl cl).starved op = false := by
    by_cases hsrc : vSrcA op.word = drainInput
    · obtain ⟨r, rs, hr, -⟩ := hdrain hsrc
      simp [Cluster.starved, hr, hrow, hrows]
    · have hclass' : iClass op.word = 8 := hclass
      simp [Cluster.starved, vecFromDrain, hclass', hsrc]
  have hexec := execVectorOpComplete_of_run hq hclock hstarved hrun (op' := { op with row := 1 }) (rest' := rest) (by rw [cl_modCl])
    (by rw [hrows])
  have htime' : OnTime (v.modCl cl fun c => { c with vecQ := { op with row := 1 } :: rest }) cl :=
    onTime_of (hsv .job (by decide)) (by rw [cl_modCl, hcl, hstep]) htime
  obtain ⟨hvecQ, hvuOps, hsettle⟩ := State.retireVec_spec htime' rest
  refine ⟨_, hexec, hvecQ, by rw [hvuOps, cl_modCl, hcl, hops], ?_, ?_⟩
  · exact ((hsv.trans (sb_modCl v cl _)).trans hsettle).mono (by decide)
  · have hm : v.mem = _ := hwrite .mem (by decide)
    refine (hsettle .mem (by decide)).trans (hm.trans ?_)
    have hres : results = elemResults w (s.rowA cl w) (s.rowB cl w) := by
      unfold elemResults State.rowB
      by_cases hrowsB : vuRowsB (vOp w) = true
      · simp only [results, hrowsB, if_true]
        rfl
      · simp only [results, hrowsB]
        rfl
    simp only [State.putLocal, hmem, State.physDie, hstart, hres]
    rfl
end

section
/-! SUPPORT and PROOFS. The machine itself: a step, an idle cycle, the state after reset. -/

namespace Sys2Proof.Machine

theorem sameBut_of_next {c : Instr} {s t : State} (h : exec c s = .next t) : SameBut (mayChange c) s t := exec_touch c s t h

/-- What a command changes lies within the parts its table lists. -/
theorem sb_next {c : Instr} {s t : State} {b : List Part} (h : exec c s = .next t) (hb : (mayChange c).all b.contains = true) : SameBut b s t :=
  (sameBut_of_next h).mono fun p hp => List.contains_iff_mem.1 (List.all_eq_true.1 hb p hp)
theorem sb_time (s : State) (t : TimeEngine) : SameBut [.time] s { s with time := t } := by
  intro p hp
  cases p with
  | time => exact absurd (by decide) hp
  | _ => rfl

/-! ### One cycle of the time engine -/

theorem State.upMarks_sameBut (s : State) : SameBut [.log, .skid, .out] s (s.upPorts.foldl State.sendMark s) := by
  have h : ∀ (l : List Nat) (t : State), SameBut [.log, .skid, .out] t (l.foldl State.sendMark t) := fun l => by
    induction l with
    | nil => exact fun t => .rfl'
    | cons n l ih => exact fun t => sb_idem (State.sendMark_touch (List.Subset.refl _) t n (Touch.refl _ t)) (ih _)
  exact h _ s
/-- The marks go out, the spine's last; the time engine only counts them. -/
theorem State.sendMarks_spec (s : State) : s.sendMarks.time = { s.time with marks := s.time.marks + 1 }
    ∧ s.sendMarks.out.getLast? = some (.spineMark s.stamp) := by
  have h : (s.upPorts.foldl State.sendMark s).time = s.time := s.upMarks_sameBut .time (by decide)
  unfold State.sendMarks State.emit State.stamp
  simp [h]
/-- What some cycles of the time engine do: time passes, and where a beat boundary is crossed the marks go out. -/
theorem State.advance_spec (s : State) (n : Nat) :
    let c := s.time.counter + n * s.time.freqWord
    let t := s.advance n
    (counterEnd ≤ c → t = { s with time := s.time.pass s.time.counter n }) ∧
    (c < counterEnd → c / 2 ^ 32 / 2 ^ 16 = s.beat → t = { s with time := s.time.pass c n }) ∧
    (c < counterEnd → c / 2 ^ 32 / 2 ^ 16 ≠ s.beat → t = ({ s with time := s.time.pass c n } : State).sendMarks) := by
  refine ⟨fun h => if_pos h, fun h hb => ?_, fun h hb => ?_⟩
  · exact (if_neg (Nat.not_le.2 h)).trans (if_pos hb)
  · exact (if_neg (Nat.not_le.2 h)).trans (if_neg hb)
theorem State.tick_sameBut (s : State) : SameBut [.time, .log, .skid, .out] s s.tick :=
  State.tick_touch (List.Subset.refl _) s (Touch.refl _ s)

/-! ### The state after reset -/

theorem inv_reset : Inv State.reset := by
  refine ⟨rfl, timeOk_reset, by unfold LogOk; decide, by unfold SafeOk; decide, fun e he => absurd he List.not_mem_nil, ⟨by decide, ?_⟩,
    by unfold HostOk; decide⟩
  exact fun p hp => nomatch hp

end Sys2Proof.Machine
end

section
open Sys2Proof Sys2Proof.Machine

/-- Settles O1: by the definition of a step. -/
theorem stepRunsTheFrontCommand : Obligations.StepRunsTheFrontCommand := fun _ _ _ => rfl

/-- Settles O2: a cycle stands at the counter's end, stays within its beat, or crosses a boundary and sends the marks. -/
theorem idleStepIsOneCycle : Obligations.IdleStepIsOneCycle := by
  unfold Obligations.IdleStepIsOneCycle
  intro s hpending
  refine ⟨s.tick, by unfold step; rw [hpending], s.tick_sameBut, ?_⟩
  obtain ⟨hend, hwithin, hacross⟩ := s.advance_spec 1
  simp only [Nat.one_mul] at hend hwithin hacross
  by_cases hc : s.time.counter + s.time.freqWord < counterEnd
  · by_cases hb : (s.time.counter + s.time.freqWord) / 2 ^ 32 / 2 ^ 16 = s.beat
    · have ht : s.tick = _ := hwithin hc hb
      rw [ht]
      refine ⟨rfl, rfl, rfl, (if_pos hc).symm, fun _ => sb_time s _, fun h => absurd hb h⟩
    · have ht : s.tick = _ := hacross hc hb
      obtain ⟨htime, hlast⟩ := State.sendMarks_spec { s with time := s.time.pass (s.time.counter + s.time.freqWord) 1 }
      have hstamp (t u : State) (h : t.time.counter = u.time.counter) : t.stamp = u.stamp := by unfold State.stamp; rw [h]
      rw [ht]
      refine ⟨by rw [htime]; rfl, by rw [htime]; rfl, by rw [htime]; rfl, by rw [htime, if_pos hc]; rfl, fun h => absurd ?_ hb, fun _ => ?_⟩
      · rw [← h]; unfold State.beat State.stamp; rw [htime]; rfl
      · rw [hlast]; exact congrArg (fun n => some (Output.spineMark n)) (hstamp _ _ (by rw [htime]))
  · have ht : s.tick = _ := hend (Nat.not_lt.1 hc)
    rw [ht]
    refine ⟨rfl, rfl, rfl, (if_neg hc).symm, fun _ => sb_time s _, fun h => absurd rfl h⟩

/-- Settles O3: each conjunct of the invariant holds of the default state. -/
theorem resetMeetsTheInvariant : Obligations.ResetMeetsTheInvariant := ⟨inv_reset, rfl⟩

/-- Settles O4: each register reads as listed. -/
theorem registersResetToTheirColumns : Obligations.RegistersResetToTheirColumns := by
  unfold Obligations.RegistersResetToTheirColumns
  exact ⟨by decide, by decide⟩
end

section
/-! SUPPORT and PROOFS. Requests of the management plane: sequence numbers, sessions, reads and writes (R407 to R424). -/

namespace Sys2Proof.Machine

/-! ### Counters and the record of what was sent -/

theorem State.hearing_count (s : State) (q : Req) (k : Nat) : (s.hearing q).count k = s.rxFrame.count k :=
  congrArg (fun c => sget 0 c k) (s.hearing_ctr q)
theorem State.rxFrame_count (s : State) : s.rxFrame.count kFramesRx = s.count kFramesRx + 1 := s.bump_count _ _
theorem State.rxFrame_count_other (s : State) (k : Nat) (h : k ≠ kFramesRx) : s.rxFrame.count k = s.count k := s.bump_count_other _ _ _ h
@[simp] theorem State.sendHost_out (s : State) (o : Output) : (s.sendHost o).out = s.out ++ [o] := rfl
theorem sb_sendHost (s : State) (o : Output) : SameBut [.host, .ctr, .out] s (s.sendHost o) := sameBut_asked (s.sendHost_asked o)
theorem sb_bump (s : State) (k n : Nat) : SameBut [.host, .ctr, .out] s (s.bump k n) := sameBut_asked rfl

/-! ### A request that is not executed (R409) -/

/-- What becomes of a request that finds the queue full, repeats a number, or comes late. -/
theorem State.serve_once {s : State} {q : Req} (h : s.deaf = false) (op : Nat) (free stump : Bool) (act : State → Answer) :
    let t := s.serve q op free stump act
    (q.full = true → Answered t q op abOverload true [] ∧ t.count kFramesRx = s.count kFramesRx + 1 ∧ SameBut [.host, .ctr, .out] s t) ∧
    (q.full = false → ∀ e, (s.hearing q).seqEntry (s.sid q) q.addr = some e →
      (∀ r, e.kept.find? (fun r => r.seq = q.seq) = some r → t.out = s.out ++ [Output.response r]
        ∧ t.count kDuplicates = s.count kDuplicates + 1 ∧ t.count kFramesRx = s.count kFramesRx + 1 ∧ SameBut [.host, .ctr, .out] s t) ∧
      ((∀ r ∈ e.kept, r.seq ≠ q.seq) → serialLater e.newest q.seq = false →
        t.out = s.out ∧ t.count kOtdinDiscards = s.count kOtdinDiscards + 1
          ∧ t.count kFramesRx = s.count kFramesRx + 1 ∧ SameBut [.host, .ctr, .out] s t)) := by
  have hheard := s.hearing_sameBut q
  refine ⟨fun hf => ?_, fun hf e he => ⟨fun r hr => ?_, fun hr hl => ?_⟩⟩
  · rw [s.serve_full h hf]
    refine ⟨?_, ?_, sb_idem hheard (sb_sendHost _ _)⟩
    · unfold Answered; simp
    · rw [State.sendHost_count _ _ _ (by decide), State.hearing_count, State.rxFrame_count]
  · rw [s.serve_duplicate h hf he hr]
    refine ⟨by simp, ?_, ?_, sb_idem hheard (sb_idem (sb_bump _ _ _) (sb_sendHost _ _))⟩
    · rw [State.sendHost_count _ _ _ (by decide), State.bump_count, State.hearing_count, State.rxFrame_count_other _ _ (by decide)]
    · rw [State.sendHost_count _ _ _ (by decide), State.bump_count_other _ _ _ _ (by decide), State.hearing_count, State.rxFrame_count]
  · rw [s.serve_stale h hf he hr hl]
    refine ⟨by simp, ?_, ?_, sb_idem hheard (sb_bump _ _ _)⟩
    · rw [State.bump_count, State.hearing_count, State.rxFrame_count_other _ _ (by decide)]
    · rw [State.bump_count_other _ _ _ _ (by decide), State.hearing_count, State.rxFrame_count]

/-- The operations that need no row of their own are served. -/
theorem exec_serve (s : State) (q : Req) {op : Nat} {c : Instr}
    (hc : (op, c) ∈ [(1, Instr.read q), (3, .describe q), (4, .sessionChallenge q), (5, .sessionOpen q), (6, .sessionClose q), (7, .keepalive q)]) :
    ∃ free stump act, exec c s = .next (s.serve q op free stump act) := by
  simp only [List.mem_cons, Prod.mk.injEq, List.not_mem_nil, or_false] at hc
  obtain ⟨rfl, rfl⟩ | ⟨rfl, rfl⟩ | ⟨rfl, rfl⟩ | ⟨rfl, rfl⟩ | ⟨rfl, rfl⟩ | ⟨rfl, rfl⟩ := hc <;> exact ⟨_, _, _, rfl⟩

/-! ### Sessions -/

/-- The session of a request carries the request's number. -/
theorem State.sid_eq {s : State} {q : Req} (h : InSession s q) : s.sid q = q.session := by
  unfold InSession at h
  revert h
  unfold State.sid State.session
  by_cases h0 : q.session = 0
  · simp [h0]
  · rw [if_neg h0]
    cases hx : s.host.sessions.find? fun x => decide (x.id = q.session ∧ x.addr = q.addr) with
    | none => simp
    | some x =>
      have := List.find?_some hx
      simp only [decide_eq_true_eq] at this
      exact fun _ => this.1
/-- In the state in which a request is heard, its session has been active now. -/
theorem State.hearing_sessions {s : State} {q : Req} (h : InSession s q) :
    (s.hearing q).host.sessions = (s.touch (s.sid q)).host.sessions := by
  have h0 : ¬ s.sid q = 0 := h
  unfold State.hearing
  obtain ⟨l, hl⟩ := (s.rxFrame.executing q).seqHeard_eq (s.sid q) q.addr
  rw [hl]
  unfold State.executing
  rw [if_neg (show ¬ s.rxFrame.sid q = 0 from h0)]
  rfl
theorem State.touch_active {s : State} {i : Nat} {x : Session} (h : x ∈ (s.touch i).host.sessions) (hi : x.id = i) :
    x.last = s.stamp ∧ x.lastCycle = s.time.cycles := by
  obtain ⟨y, -, rfl⟩ := List.mem_map.1 h
  revert hi
  dsimp only
  split
  · exact fun _ => ⟨rfl, rfl⟩
  · next hn => exact fun hy => absurd hy hn
/-- With a session closed, none has its number, and no flow is its. -/
theorem State.closeSession_gone (s : State) (id cause : Nat) :
    (∀ x ∈ (s.closeSession id cause).host.sessions, x.id ≠ id) ∧ (∀ f ∈ (s.closeSession id cause).host.flows, f.session ≠ id) := by
  obtain ⟨-, hflows, -⟩ := s.closeSession_spec id cause
  refine ⟨fun x hx => ?_, fun f hf => hflows _ (List.mem_map_of_mem hf)⟩
  have hstill : x.still ∈ (s.closeSession id cause).host.standing := List.mem_map_of_mem hx
  rw [s.closeSession_standing id cause, List.mem_filter] at hstill
  exact of_decide_eq_true hstill.2

end Sys2Proof.Machine
end

section
open Sys2Proof Sys2Proof.Machine

/-- Settles O10: every listed operation is served, and serving decides by the number. -/
theorem requestNumbersAreServedOnce : Obligations.RequestNumbersAreServedOnce := by
  unfold Obligations.RequestNumbersAreServedOnce
  intro s q op c hdeaf hc
  obtain ⟨free, stump, act, hexec⟩ := exec_serve s q hc
  obtain ⟨hfull, hnot⟩ := s.serve_once (q := q) hdeaf op free stump act
  refine ⟨fun hf => ⟨_, hexec, hfull hf⟩, fun hf e he => ?_⟩
  obtain ⟨hdup, hstale⟩ := hnot hf e he
  exact ⟨fun r hr => ⟨_, hexec, hdup r hr⟩, fun hr hl => ⟨_, hexec, hstale hr hl⟩⟩

/-- Settles O11: each operation's answer is finished, and closing a session leaves none of its number. -/
theorem sessionRequestsComplete : Obligations.SessionRequestsComplete := by
  unfold Obligations.SessionRequestsComplete
  intro s q hfresh hin
  have hserve (op : Nat) (free stump : Bool) (act : State → Answer) := s.serve_session hfresh hin op free stump act
  refine ⟨?_, ?_, fun op hop => ?_⟩
  · have hexec : exec (.keepalive q) s = .next _ := congrArg Host.Outcome.next (hserve 7 false false _)
    refine ⟨_, hexec, ?_, sameBut_of_next hexec, by simp, fun x hx hid => ?_⟩
    · simpa using Answer.finish_answered ⟨0, u64 (s.hearing q).stamp, true, s.hearing q⟩ (s.sid q) 7 q
    · rw [(Answer.finish_asked _ _ _ _).2, State.hearing_sessions hin] at hx
      exact State.touch_active hx hid
  · have hexec : exec (.sessionClose q) s = .next _ := congrArg Host.Outcome.next (hserve 6 false false _)
    obtain ⟨hsessions, hflows⟩ := (s.hearing q).closeSession_gone q.session 0
    obtain ⟨-, -, hraised⟩ := (s.hearing q).closeSession_spec q.session 0
    refine ⟨_, hexec, Answer.finish_answered _ _ _ _, raised_finish (hraised (by simpa using hfresh.1.1)), ?_, ?_, sb_next hexec rfl⟩
    · rw [(Answer.finish_asked _ _ _ _).2, State.sid_eq hin]; exact hsessions
    · intro f hf; rw [State.sid_eq hin]; exact hflows f (by simpa [accept] using hf)
  · have hexec : exec (.undefinedOmOp q op) s = .next _ := congrArg Host.Outcome.next ((if_neg hop).trans (hserve op true false _))
    exact ⟨_, hexec, Answer.finish_answered _ _ _ _, sameBut_of_next hexec, by simp [refuse]⟩

/-- Settles O12: neither operation needs a session. -/
theorem sessionlessRequestsComplete : Obligations.SessionlessRequestsComplete := by
  unfold Obligations.SessionlessRequestsComplete
  intro s q hfresh
  refine ⟨?_, ?_⟩
  · have hexec : exec (.sessionChallenge q) s = .next _ := congrArg Host.Outcome.next (s.serve_free hfresh 4 true _)
    refine ⟨_, hexec, sameBut_of_next hexec, ?_, ?_⟩
    · split <;> simp [refuse]
    · by_cases hlocked : s.host.lockedUntil = none
      · simp only [hlocked, State.hearing_frame, if_true, Option.isSome_none, Bool.false_eq_true, if_false]
        refine ⟨Answer.finish_answered _ _ _ _, by simp, by simp⟩
      · have hsome : s.host.lockedUntil.isSome = true := Option.isSome_iff_ne_none.2 hlocked
        simp only [hlocked, State.hearing_frame, hsome, if_true, if_false]
        exact ⟨Answer.finish_answered _ _ _ _, by simp [refuse], by simp [refuse]⟩
  · have hexec : exec (.describe q) s = .next _ := congrArg Host.Outcome.next (s.serve_free hfresh 3 false _)
    refine ⟨_, hexec, sameBut_of_next hexec, ?_, ?_⟩
    · cases objAt q.index q.sub with
      | none => simp [refuse]
      | some o => simp
    · cases objAt q.index q.sub with
      | none => exact Answer.finish_answered _ _ _ _
      | some o => exact Answer.finish_answered _ _ _ _
end

section
/-! SUPPORT and PROOFS. `SESSION_OPEN` (R414). -/

namespace Sys2Proof.Machine

theorem Answer.finish_count (a : Answer) (sid op : Nat) (q : Req) (k : Nat) (h : k ≠ kRequests) (h2 : k ≠ kFramesTx) :
    (a.finish sid op q).count k = a.s.count k :=
  (congrArg (sget 0 · k) (a.finish_ctr sid op q)).trans <| ((a.s.bump kRequests 1).bump_count_other _ _ 1 h2).trans (a.s.bump_count_other _ _ _ h)

theorem standing_length (h : HostPort) : h.standing.length = h.sessions.length := List.length_map _
/-- The last session that is open, from the list of sessions that stand. -/
theorem standing_getLast {h : HostPort} {l : List Session} {y : Session} (hs : h.standing = l ++ [y.still]) :
    ∃ x, h.sessions.getLast? = some x ∧ x.id = y.id ∧ x.slot = y.slot ∧ x.addr = y.addr := by
  have hlast : h.sessions.getLast?.map Session.still = some y.still := by
    rw [← List.getLast?_map]
    exact (congrArg List.getLast? hs).trans (List.getLast?_concat ..)
  obtain ⟨x, hx, hxy⟩ := Option.map_eq_some_iff.1 hlast
  have same {β : Type} (g : Session → β) : g x.still = g y.still := congrArg g hxy
  exact ⟨x, hx, same Session.id, same Session.slot, same Session.addr⟩
/-- Hearing a request opens and closes no session. -/
theorem State.hearing_standing (s : State) (q : Req) : (s.hearing q).host.standing = s.host.standing := by
  unfold State.hearing
  obtain ⟨l, hl⟩ := (s.rxFrame.executing q).seqHeard_eq (s.sid q) q.addr
  rw [hl]
  unfold State.executing
  split
  · rfl
  · exact (s.rxFrame.touch_standing _).trans rfl
theorem Answer.finish_standing (a : Answer) (sid op : Nat) (q : Req) : (a.finish sid op q).host.standing = a.s.host.standing :=
  congrArg (List.map Session.still) (a.finish_asked sid op q).2

/-- What a failed verification does: it is counted and reported, and no session opens. -/
theorem State.authFailed_spec (s : State) (h : s.start.wardenHeld = false) :
    s.authFailed.abort = abAuthFailed ∧ s.authFailed.data = [] ∧ s.authFailed.last = true ∧ Raised s.authFailed.s wardenSrc 0x8201
      ∧ s.authFailed.s.host.standing = s.host.standing ∧ s.authFailed.s.host.nonces = s.host.nonces
      ∧ s.authFailed.s.count kSessionFailures = s.count kSessionFailures + 1 := by
  have refused (u : State) (hw : u.start.wardenHeld = false) (hs : u.host.standing = s.host.standing) (hn : u.host.nonces = s.host.nonces)
      (hc : u.count kSessionFailures = s.count kSessionFailures) : let a := u.openRefused abAuthFailed
      a.abort = abAuthFailed ∧ a.data = [] ∧ a.last = true ∧ Raised a.s wardenSrc 0x8201
        ∧ a.s.host.standing = s.host.standing ∧ a.s.host.nonces = s.host.nonces ∧ a.s.count kSessionFailures = s.count kSessionFailures + 1 := by
    refine ⟨rfl, rfl, rfl, raised_event _ _ _ _ (by simpa using hw), ?_, ?_, ?_⟩
    · exact ((u.bump kSessionFailures 1).event_host _ _ _).1.trans hs
    · simpa [State.openRefused, refuse] using hn
    · rw [← hc]; exact (State.event_count _ _ _ _ _ (by decide) (by decide) (by decide)).trans (u.bump_count _ _)
  unfold State.authFailed
  dsimp only
  split
  · refine refused _ (by simpa using h) ?_ (by simp) ?_
    · exact (State.event_host _ _ _ _).1.trans rfl
    · exact (State.event_count _ _ _ _ _ (by decide) (by decide) (by decide)).trans rfl
  · exact refused _ h rfl rfl rfl

/-- A nonce is used up. -/
def State.spend (s : State) (n : Nat × Nat) : State :=
  { s with host := { s.host with nonces := s.host.nonces.filter fun m => some n ≠ some m } }
/-- The session that `SESSION_OPEN` opens, and its answer. -/
def State.newSession (s : State) (q : Req) : Session :=
  { id := Config.sessionId s.host.nextSession % (2 ^ 32 - 1) + 1, slot := fieldAt q.data 0 1, addr := q.addr, opened := s.stamp,
    last := s.stamp, lastCycle := s.time.cycles }
def State.enterSession (s : State) (q : Req) : Answer :=
  ⟨0, u32 (s.newSession q).id, true, ({ s with host := { s.host with
    nextSession := s.host.nextSession + 1, sessions := s.host.sessions ++ [s.newSession q] } }).event wardenSrc 0x8200 (u32 (fieldAt q.data 0 1))⟩
/-- The signature of a `SESSION_OPEN`, under the key of its slot. -/
def State.openSigned (s : State) (q : Req) : Bool :=
  Config.mlDsaVerify (s.operatorKey (fieldAt q.data 0 1)) (ascii "OTDIN-SESSION-1") (slice q.data 4 32 ++ serialNumber ++ q.addr) (q.data.drop 36)

/-- With a nonce that is outstanding and fresh, the signature alone decides. -/
theorem exec_sessionOpen {s : State} {q : Req} {n : Nat × Nat} (hfresh : Fresh s q) (hlen : q.data.length = 3345)
    (hroom : s.host.sessions.length < 4) (hslot : fieldAt q.data 0 1 < 8) (hkey : (s.operatorKey (fieldAt q.data 0 1)).length = 1952)
    (hfound : s.host.nonces.find? (fun m => padTo 32 (Config.nonce m.1) = slice q.data 4 32) = some n)
    (hage : s.time.cycles ≤ n.2 + 10 * secCycles) :
    exec (.sessionOpen q) s = .next ((if s.openSigned q = true then ((s.hearing q).spend n).enterSession q
      else ((s.hearing q).spend n).authFailed).finish (s.sid q) 5 q) := by
  refine congrArg Host.Outcome.next ((s.serve_free hfresh 5 true _).trans (congrArg (Answer.finish · (s.sid q) 5 q) ?_))
  have hlength : (s.hearing q).host.sessions.length = s.host.sessions.length := by
    rw [← standing_length, ← standing_length, s.hearing_standing]
  have hkeys : (s.hearing q).operatorKey = s.operatorKey := by funext k; unfold State.operatorKey; simp
  have hnonces : (s.hearing q).host.nonces = s.host.nonces := by simp
  have htime : (s.hearing q).time = s.time := by simp
  unfold State.openSigned
  rw [← hnonces] at hfound
  rw [← htime] at hage
  rw [← hkeys] at hkey ⊢
  generalize s.hearing q = u at *
  dsimp only
  rw [if_neg (by omega), if_neg (by omega), hfound, if_pos hslot]
  simp only [hage, hkey, decide_true, Bool.true_and]
  rfl

/-- What opening a session does. -/
theorem State.enterSession_spec (s : State) (q : Req) (h : s.start.wardenHeld = false) :
    Raised (s.enterSession q).s wardenSrc 0x8200 ∧ (s.enterSession q).s.host.standing = s.host.standing ++ [(s.newSession q).still]
      ∧ (s.enterSession q).s.host.nonces = s.host.nonces := by
  refine ⟨raised_event _ _ _ _ h, ?_, ?_⟩
  · exact (State.event_host _ _ _ _).1.trans (List.map_append ..)
  · simp [State.enterSession]

end Sys2Proof.Machine
end

section
open Sys2Proof Sys2Proof.Machine

/-- Settles O13: the nonce found is dropped from those outstanding; the signature decides which of two answers is finished. -/
theorem sessionOpenVerifiesTheNonce : Obligations.SessionOpenVerifiesTheNonce := by
  unfold Obligations.SessionOpenVerifiesTheNonce
  intro s q n hfresh hlen hroom hslot hkey hfound hage
  have hheld : s.start.wardenHeld = false := hfresh.1.1
  have hexec := exec_sessionOpen hfresh hlen hroom hslot hkey hfound hage
  have hheard : ((s.hearing q).spend n).start.wardenHeld = false := by simpa [State.spend] using hheld
  have hstanding : ((s.hearing q).spend n).host.standing = s.host.standing := s.hearing_standing q
  have hspent : n ∉ ((s.hearing q).spend n).host.nonces := by simp [State.spend]
  refine ⟨_, hexec, ?_⟩
  change _ ∧ _ ∧ if s.openSigned q = true then _ else _
  by_cases hsigned : s.openSigned q = true
  · rw [if_pos hsigned] at hexec ⊢
    obtain ⟨hraised, hentered, hnonces⟩ := ((s.hearing q).spend n).enterSession_spec q hheard
    obtain ⟨x, hx, hid, hxslot, haddr⟩ := standing_getLast ((Answer.finish_standing _ (s.sid q) 5 q).trans hentered)
    have hrange := Nat.mod_lt (Config.sessionId s.host.nextSession) (show 0 < 2 ^ 32 - 1 by decide)
    refine ⟨by simpa [hnonces] using hspent, sb_next hexec rfl, ?_⟩
    rw [if_pos hsigned]
    refine ⟨raised_finish hraised, ?_, x, hx, ?_, ?_, hxslot, haddr, ?_⟩
    · rw [← standing_length, Answer.finish_standing, hentered, hstanding, List.length_append, standing_length]; rfl
    · rw [hid]; exact Nat.le_add_left 1 _
    · rw [hid]; simp only [State.newSession, State.spend, State.hearing_frame]; omega
    · rw [hid]; exact Answer.finish_answered _ _ _ _
  · rw [if_neg hsigned] at hexec ⊢
    obtain ⟨habort, hdata, hlast, hraised, hrefused, hnonces, hcount⟩ := ((s.hearing q).spend n).authFailed_spec hheard
    refine ⟨by simpa [hnonces] using hspent, sb_next hexec rfl, ?_⟩
    rw [if_neg hsigned]
    refine ⟨raised_finish hraised, ?_, ?_, ?_⟩
    · rw [← standing_length, Answer.finish_standing, hrefused, hstanding, standing_length]
    · simpa [habort, hdata, hlast] using Answer.finish_answered ((s.hearing q).spend n).authFailed (s.sid q) 5 q
    · rw [Answer.finish_count _ _ _ _ _ (by decide) (by decide), hcount]
      exact congrArg (· + 1) ((s.hearing_count q _).trans (s.rxFrame_count_other _ (by decide)))
end

section
/-! SUPPORT and PROOFS. Reads and writes of the Tally's objects (R408, R411, R413, R423 to R426, R429, R551). -/

namespace Sys2Proof.Machine

/-! ### Values by key -/

theorem bytesOr_put (m : List (Nat × Bytes)) (k : Nat) (v d : Bytes) : bytesOr ((k, v) :: m.filter fun e => e.1 ≠ k) k d = v := by
  simp [bytesOr]
theorem bytesOr_put_other (m : List (Nat × Bytes)) {j k : Nat} (v d : Bytes) (h : j ≠ k) :
    bytesOr ((k, v) :: m.filter fun e => e.1 ≠ k) j d = bytesOr m j d := by
  have hfind : (m.filter fun e => e.1 ≠ k).find? (fun e => e.1 = j) = m.find? fun e => e.1 = j := by
    rw [List.find?_filter]
    congr 1
    funext e
    simp only [decide_eq_true_eq, ne_eq, decide_not, Bool.decide_and]
    by_cases he : e.1 = j
    · simp [he, h]
    · simp [he]
  unfold bytesOr
  rw [List.find?_cons_of_neg (by simpa using fun e => h e.symm), hfind]

/-! ### Segments -/

/-- A segment is the last where it reaches the end of the value. -/
theorem segment_last (s : State) (v : Bytes) (offset : Nat) :
    (segment s v offset).last = decide (v.length ≤ offset + 4096) := by
  have hlen : (slice v offset 4096).length = min 4096 (v.length - offset) := by simp [slice]
  unfold segment
  simp only [hlen, decide_eq_decide]
  omega
theorem segment_finish (s : State) (v : Bytes) (offset sid op : Nat) (q : Req) :
    Answered ((segment s v offset).finish sid op q) q op 0 (decide (v.length ≤ offset + 4096)) (slice v offset 4096) := by
  rw [← segment_last s]
  exact Answer.finish_answered _ _ _ _

/-! ### A whole write (R411, R423, R424, R426) -/

/-- The answer to a whole write of the right length that the state allows. -/
def State.writeAnswer (s : State) (q : Req) (o : Obj) : Answer :=
  if o.access = .const ∨ o.access = .ro then refuse s abNotWritable
  else if o.access = .wo ∨ (!rangeOk q.index q.sub q.data) = true then refuse s abRange
  else if o.access = .rws then
    accept { s with tally := { s.tally with shadow := (reqKey q, q.data) :: s.tally.shadow.filter (fun e => e.1 ≠ reqKey q),
                                            written := (s.tally.written ++ [reqKey q]).dedup } }
  else accept (s.putValue (reqKey q) q.data o.persistent)

theorem sb_putValue (s : State) (k : Nat) (v : Bytes) (p : Bool) : SameBut [.start, .tally] s (s.putValue k v p) :=
  State.putValue_touch (List.Subset.refl _) s k v p (Touch.refl _ s)
theorem sb_tally (s : State) (y : Tally) : SameBut [.tally] s { s with tally := y } := by
  intro p hp
  cases p with
  | tally => exact absurd (by decide) hp
  | _ => rfl

/-- What the answer changes, and what it says. -/
theorem State.writeAnswer_spec (s : State) (q : Req) (o : Obj) (d : Bytes) : let a := s.writeAnswer q o
    SameBut [.start, .tally] s a.s ∧ a.s.host.flows = s.host.flows ∧ a.s.tally.active = s.tally.active ∧ a.s.tally.gen = s.tally.gen
      ∧ a.s.tally.pendingApply = s.tally.pendingApply
      ∧ (rangeOk q.index q.sub q.data = false → (o.access = .rw ∨ o.access = .rws) → a = refuse s abRange)
      ∧ (rangeOk q.index q.sub q.data = true → o.access = .rw → a.abort = 0 ∧ a.data = [] ∧ a.last = true
          ∧ bytesOr a.s.tally.rw (reqKey q) d = q.data
          ∧ (∀ k, k ≠ reqKey q → bytesOr a.s.tally.rw k d = bytesOr s.tally.rw k d) ∧ a.s.tally.shadow = s.tally.shadow)
      ∧ (rangeOk q.index q.sub q.data = true → o.access = .rws → a.abort = 0 ∧ a.data = [] ∧ a.last = true
          ∧ bytesOr a.s.tally.shadow (reqKey q) d = q.data
          ∧ (∀ k, k ≠ reqKey q → bytesOr a.s.tally.shadow k d = bytesOr s.tally.shadow k d) ∧ a.s.tally.rw = s.tally.rw
          ∧ reqKey q ∈ a.s.tally.written) := by
  unfold State.writeAnswer
  dsimp only
  split_ifs with hconst hrange hstaged
  · refine ⟨.rfl', rfl, rfl, rfl, rfl, fun _ h => ?_, fun _ h => ?_, fun _ h => ?_⟩
    · obtain h | h := h <;> simp [h] at hconst
    · simp [h] at hconst
    · simp [h] at hconst
  · refine ⟨.rfl', rfl, rfl, rfl, rfl, fun _ _ => rfl, fun hgood h => ?_, fun hgood h => ?_⟩
    · simp [h, hgood] at hrange
    · simp [h, hgood] at hrange
  · refine ⟨(sb_tally s _).mono (by decide), rfl, rfl, rfl, rfl, fun h => ?_, fun _ h => ?_, fun _ _ => ?_⟩
    · simp [h] at hrange
    · simp [h] at hstaged
    · exact ⟨rfl, rfl, rfl, bytesOr_put _ _ _ _, fun k hk => bytesOr_put_other _ _ _ hk, rfl, by simp [accept]⟩
  · refine ⟨sb_putValue _ _ _ _, rfl, rfl, rfl, rfl, fun h => ?_, fun _ _ => ?_, fun _ h => absurd h hstaged⟩
    · simp [h] at hrange
    · exact ⟨rfl, rfl, rfl, bytesOr_put _ _ _ _, fun k hk => bytesOr_put_other _ _ _ hk, rfl⟩

end Sys2Proof.Machine
end

section
open Sys2Proof Sys2Proof.Machine

/-- Settles O14: each read is served, and answers the segment, the register or the ring it names. -/
theorem readsReturnTheValue : Obligations.ReadsReturnTheValue := by
  unfold Obligations.ReadsReturnTheValue
  intro s q hfresh
  refine ⟨fun o ho haccess hdiag hlog hallowed => ?_, fun hin hindex hsub => ?_, fun hindex hsub hoffset => ?_⟩
  · have hserve : exec (.read q) s = .next ((segment (s.hearing q) ((s.hearing q).objBytes q.index q.sub o q.shadow) q.offset).finish (s.sid q) 1 q) := by
      refine congrArg Host.Outcome.next ((s.serve_fresh hfresh 1 _ _ _).trans (congrArg (Answer.finish · (s.sid q) 1 q) ?_))
      rw [if_neg, ho]
      · simp [haccess, hdiag, hlog]
      · intro hrefused
        simp only [Bool.and_eq_true, decide_eq_true_eq, Bool.not_eq_true'] at hrefused
        obtain ⟨hsid, hfree⟩ := hrefused
        obtain hyes | hin := hallowed
        · exact absurd (hyes.symm.trans hfree) (by decide)
        · exact hin hsid
    exact ⟨_, hserve, sameBut_exec _ (.rfl' (a := [])) (by decide), by simp [Machine.segment], segment_finish _ _ _ _ _ _⟩
  · have hexec : exec (.diagRegRead q) s = .next _ :=
      congrArg Host.Outcome.next ((if_pos (by simp [reqIs, hindex, hsub])).trans (s.serve_session hfresh hin 1 false false State.diagAnswer))
    have haddr : (s.hearing q).diagAddr = s.diagAddr ∧ (s.hearing q).diagSize = s.diagSize := by
      unfold State.diagAddr State.diagSize State.rwValue
      simp
    refine ⟨_, hexec, sameBut_of_next hexec, ?_⟩
    rw [← haddr.1, ← haddr.2]
    unfold State.diagAnswer
    cases (s.hearing q).regRead (s.hearing q).diagAddr (s.hearing q).diagSize with
    | some v => exact Answer.finish_answered _ _ _ _
    | none => exact Answer.finish_answered _ _ _ _
  · have hexec : exec (.eventLog q) s = .next _ :=
      congrArg Host.Outcome.next ((if_pos (by simp [reqIs, hindex, hsub])).trans (s.serve_free hfresh 1 false _))
    refine ⟨_, hexec, sb_next hexec rfl, by simp [State.logAnswer], by simp [State.logAnswer], ?_⟩
    have hring := segment_finish (s.hearing q) (recordsBytes s.log.ring) 0 (s.sid q) 1 q
    unfold Answered at hring ⊢
    simpa [State.logAnswer, hoffset, Answer.finish] using hring

/-- Settles O15: a whole write that the state allows is refused for its range, or stored at once or in the shadow. -/
theorem writesSetTheValue : Obligations.WritesSetTheValue := by
  unfold Obligations.WritesSetTheValue
  intro s q flash o n d hfresh hin ho hown hindex hsize hwhole hallowed
  obtain ⟨-, -, hoffset, hlast, hlen⟩ := hwhole
  have hexec : exec (.write q flash) s = .next (((s.hearing q).writeAnswer q o).finish (s.sid q) 2 q) := by
    show execWrite q flash s = _
    unfold execWrite
    rw [hown]
    refine congrArg Host.Outcome.next ((s.serve_session hfresh hin 2 false false _).trans (congrArg (Answer.finish · (s.sid q) 2 q) ?_))
    have hforbid : (s.hearing q).writeForbidden q.index o = false := by
      rw [← hallowed]; unfold State.writeForbidden State.planLoaded; simp
    generalize s.hearing q = u at *
    unfold State.writeAnswer State.writeFixed State.storeValue
    rw [ho]
    simp [hsize, hoffset, hlast, hlen, hforbid, hindex]
  obtain ⟨hsame, hflows, hactive, hgen, hpending, hrange, hrw, hrws⟩ := (s.hearing q).writeAnswer_spec q o d
  have htally : (s.hearing q).tally = s.tally := by simp
  rw [htally] at hactive hgen hpending hrw hrws
  have hfin : ((s.hearing q).writeAnswer q o |>.finish (s.sid q) 2 q).tally = ((s.hearing q).writeAnswer q o).s.tally := by simp
  have hans := Answer.finish_answered ((s.hearing q).writeAnswer q o) (s.sid q) 2 q
  refine ⟨_, hexec, sameBut_exec _ hsame (by decide), by simp [hflows], ?_⟩
  rw [hfin]
  generalize (s.hearing q).writeAnswer q o = a at *
  refine ⟨hactive, hgen, hpending, fun hbad hacc => ?_, fun hgood hacc => ?_, fun hgood hacc => ?_⟩
  · rw [hrange hbad hacc] at hans ⊢
    exact ⟨hans, htally⟩
  · obtain ⟨habort, hdata, hlast', h⟩ := hrw hgood hacc
    rw [habort, hdata, hlast'] at hans
    exact ⟨hans, h⟩
  · obtain ⟨habort, hdata, hlast', h⟩ := hrws hgood hacc
    rw [habort, hdata, hlast'] at hans
    exact ⟨hans, h⟩
end

section
/-! SUPPORT and PROOFS. Operator keys, diagnostic registers, the persistent store, applies of staged groups (R416, R425, R426,
R429, R524). -/

namespace Sys2Proof.Machine

/-! ### Sessions closed in a row -/

theorem closeSessions_spec (l : List Session) (cause : Nat) (s : State) : let t := l.foldl (fun s x => s.closeSession x.id cause) s
    t.bereft = s.bereft ∧ t.host.standing = s.host.standing.filter fun y => ∀ x ∈ l, y.id ≠ x.id := by
  induction l generalizing s with
  | nil => exact ⟨rfl, by simp⟩
  | cons x l ih =>
    obtain ⟨hrest, hstanding⟩ := ih (s.closeSession x.id cause)
    refine ⟨hrest.trans (s.closeSession_spec x.id cause).1, hstanding.trans ?_⟩
    rw [s.closeSession_standing, List.filter_filter]
    refine List.filter_congr fun y _ => ?_
    simp [Bool.and_comm]
/-- After the sessions that meet `p` have been closed, none that is open meets it, where `p` looks at what stands. -/
theorem closeSessions_none (p : Session → Bool) (hp : ∀ x, p x.still = p x) (cause : Nat) (s : State) :
    ∀ x ∈ ((s.host.sessions.filter p).foldl (fun s x => s.closeSession x.id cause) s).host.sessions, p x = false := by
  intro x hx
  obtain ⟨-, hstanding⟩ := closeSessions_spec (s.host.sessions.filter p) cause s
  have hstill : x.still ∈ _ := List.mem_map_of_mem (f := Session.still) hx
  change x.still ∈ HostPort.standing _ at hstill
  rw [hstanding, List.mem_filter] at hstill
  obtain ⟨hmem, hids⟩ := hstill
  obtain ⟨y, hy, hxy⟩ := List.mem_map.1 hmem
  by_contra hpx
  have hpy : p y = true := by rw [← hp y, hxy, hp x]; simpa using hpx
  refine of_decide_eq_true hids y (List.mem_filter.2 ⟨hy, hpy⟩) ?_
  rw [← hxy]; rfl

/-! ### Key slots (R416) -/

theorem State.operatorKey_eq (s : State) (n : Nat) : s.operatorKey n = bytesOr s.tally.rw (objKey 0x1030 (n + 1)) [] := by
  unfold State.operatorKey bytesOr
  cases s.tally.rw.find? _ <;> rfl

/-- A value is put: it is in force, all others stay, and a persistent one waits to be stored. -/
theorem State.putValue_spec (s : State) (k : Nat) (v d : Bytes) (p : Bool) : bytesOr (s.putValue k v p).tally.rw k d = v
    ∧ (∀ j, j ≠ k → bytesOr (s.putValue k v p).tally.rw j d = bytesOr s.tally.rw j d)
    ∧ (p = true → k ∈ (s.putValue k v p).start.dirty) := by
  refine ⟨bytesOr_put _ _ _ _, fun j hj => bytesOr_put_other _ _ _ hj, fun hp => ?_⟩
  unfold State.putValue
  by_cases hk : k ∈ s.start.dirty
  · simp [hp, hk]
  · simp [hp, hk]

/-- A whole value in one segment: what bars it, or the act on it. -/
theorem State.blobSegment_whole (s : State) {q : Req} (hoffset : q.offset = 0) (hlast : q.last = true) (hlen : q.data.length ≤ 4096)
    (bar : Option Nat) (act : State → Bytes → Answer) :
    s.blobSegment q bar act = match bar with
      | some ab => refuse (s.setRun q.session (reqKey q) none) ab
      | none => act (s.setRun q.session (reqKey q) none) q.data := by
  unfold State.blobSegment
  simp only [hoffset, hlast, if_true, List.nil_append, Bool.not_true, Bool.false_eq_true, false_and, if_false]
  rewrite [if_neg (by omega)]
  cases bar with
  | none => rfl
  | some ab => rfl

/-- A key slot takes a key: the sessions of the slot, and with the last key gone all, close. -/
def State.enrol (s : State) (q : Req) : State :=
  let s1 := (s.putValue (reqKey q) q.data true).event wardenSrc 0x8204
  (s1.host.sessions.filter fun x => s1.noKeys || decide (x.slot + 1 = q.sub)).foldl (fun s x => s.closeSession x.id 2) s1
theorem State.enrol_spec (s : State) (q : Req) : (∀ x ∈ (s.enrol q).host.sessions, x.slot + 1 ≠ q.sub)
    ∧ (s.enrol q).tally = (s.putValue (reqKey q) q.data true).tally ∧ (s.enrol q).start = (s.putValue (reqKey q) q.data true).start := by
  unfold State.enrol
  dsimp only
  refine ⟨fun x hx => ?_, ?_⟩
  · have := closeSessions_none _ (fun x => rfl) 2 _ x hx
    simp only [Bool.or_eq_false_iff, decide_eq_false_iff_not] at this
    exact this.2
  · obtain ⟨h, -⟩ := closeSessions_spec (((s.putValue (reqKey q) q.data true).event wardenSrc 0x8204).host.sessions.filter fun x =>
      ((s.putValue (reqKey q) q.data true).event wardenSrc 0x8204).noKeys || decide (x.slot + 1 = q.sub)) 2
      ((s.putValue (reqKey q) q.data true).event wardenSrc 0x8204)
    exact ⟨(congrArg State.tally h).trans (by simp [State.bereft, State.quiet, State.quieter]), (congrArg State.start h).trans (by simp [State.bereft, State.quiet, State.quieter])⟩

theorem sb_setRun (s : State) (sid k : Nat) (r : Option WriteRun) : SameBut [.host] s (s.setRun sid k r) :=
  State.setRun_touch (List.Subset.refl _) s sid k r (Touch.refl _ s)

/-- The answer to a whole write of a key slot. -/
def State.keyAnswer (s : State) (q : Req) (bar : Option Nat) : Answer :=
  match bar with
  | some ab => refuse s ab
  | none => if q.data.length ≠ 0 ∧ q.data.length ≠ 1952 then refuse s abTypeLength else accept (s.enrol q)
theorem exec_operatorKey {s : State} {q : Req} (hfresh : Fresh s q) (hindex : q.index = 0x1030) (hsub : 1 ≤ q.sub) (hsub8 : q.sub ≤ 8)
    (hoffset : q.offset = 0) (hlast : q.last = true) (hlen : q.data.length ≤ 4096)
    (hallowed : InSession s q ∨ (s.noKeys = true ∧ q.sub = 1)) :
    exec (.operatorKey q) s = .next ((((s.hearing q).setRun q.session (reqKey q) none).keyAnswer q
      (if s.job.state ≠ .empty ∧ ¬(s.noKeys = true ∧ q.sub = 1) then some abState else none)).finish (s.sid q) 2 q) := by
  show execOperatorKey q s = _
  unfold execOperatorKey
  rw [if_pos ⟨hindex, hsub, hsub8⟩]
  refine congrArg Host.Outcome.next ((s.serve_fresh hfresh 2 _ _ _).trans (congrArg (Answer.finish · (s.sid q) 2 q) ?_))
  rw [if_neg, State.blobSegment_whole _ hoffset hlast hlen]
  · have hjob : (s.hearing q).job = s.job := by simp
    rw [hjob]
    by_cases hfirst : s.noKeys = true ∧ q.sub = 1
    · simp [hfirst, State.keyAnswer, State.enrol]
    · have : (s.noKeys && decide (q.sub = 1)) = false := by simpa using hfirst
      by_cases hempty : s.job.state = .empty
      · simp [this, hfirst, hempty, State.keyAnswer, State.enrol]
      · simp [this, hfirst, hempty, State.keyAnswer]
  · intro hrefused
    simp only [Bool.and_eq_true, decide_eq_true_eq, Bool.not_eq_true', Bool.and_eq_false_iff, decide_eq_false_iff_not] at hrefused
    obtain ⟨hsid, hnot⟩ := hrefused
    obtain hin | ⟨hkeys, hone⟩ := hallowed
    · exact hin hsid
    · obtain h | h := hnot
      · exact absurd (hkeys.symm.trans h) (by decide)
      · exact h hone

end Sys2Proof.Machine
end

section
open Sys2Proof Sys2Proof.Machine

/-- The first clause of O16: writes of a key slot. -/
theorem keySlotsTakeTheirKeys (s : State) (q : Req) (hfresh : Fresh s q) (hindex : q.index = 0x1030) (hsub : 1 ≤ q.sub) (hsub8 : q.sub ≤ 8)
    (hoffset : q.offset = 0) (hlast : q.last = true) (hlen : q.data.length ≤ 4096)
    (hallowed : InSession s q ∨ (s.noKeys = true ∧ q.sub = 1)) :
    ∃ t, exec (.operatorKey q) s = .next t ∧ SameBut [.tally, .start, .log, .snap, .host, .ctr, .out] s t ∧
      (∀ k, k + 1 ≠ q.sub → t.operatorKey k = s.operatorKey k) ∧
      if s.job.state ≠ .empty ∧ ¬(s.noKeys = true ∧ q.sub = 1) then Answered t q 2 abState true [] ∧ t.tally = s.tally
      else if q.data.length = 0 ∨ q.data.length = 1952 then Answered t q 2 0 true [] ∧ t.operatorKey (q.sub - 1) = q.data
        ∧ (∀ x ∈ t.host.sessions, x.slot + 1 ≠ q.sub) ∧ reqKey q ∈ t.start.dirty
      else Answered t q 2 abTypeLength true [] ∧ t.tally = s.tally := by
  have hexec := exec_operatorKey hfresh hindex hsub hsub8 hoffset hlast hlen hallowed
  refine ⟨_, hexec, sb_next hexec rfl, ?_⟩
  generalize hu : (s.hearing q).setRun q.session (reqKey q) none = u
  have htally : u.tally = s.tally := by rw [← hu, (sb_setRun _ _ _ _) .tally (by decide)]; simp
  have hkeep {a : Answer} (h : a.s.tally = s.tally) : (a.finish (s.sid q) 2 q).tally = s.tally := by simpa using h
  have hsame {t : State} (h : t.tally = s.tally) (k : Nat) : t.operatorKey k = s.operatorKey k := by
    rw [State.operatorKey_eq, State.operatorKey_eq, h]
  by_cases hbar : s.job.state ≠ .empty ∧ ¬(s.noKeys = true ∧ q.sub = 1)
  · rw [if_pos hbar, if_pos hbar]
    exact ⟨fun k _ => hsame (hkeep htally) k, Answer.finish_answered _ _ _ _, hkeep htally⟩
  rw [if_neg hbar, if_neg hbar]
  unfold State.keyAnswer
  dsimp only
  by_cases hgood : q.data.length = 0 ∨ q.data.length = 1952
  · rw [if_pos hgood, if_neg (not_and_or.2 (hgood.imp not_not.2 not_not.2))]
    obtain ⟨hclosed, hetally, hestart⟩ := u.enrol_spec q
    obtain ⟨hput, hothers, hdirty⟩ := u.putValue_spec (reqKey q) q.data [] true
    have hkey : ((accept (u.enrol q)).finish (s.sid q) 2 q).tally = (u.putValue (reqKey q) q.data true).tally := by simpa [accept] using hetally
    refine ⟨fun k hk => ?_, Answer.finish_answered _ _ _ _, ?_, ?_, ?_⟩
    · rw [State.operatorKey_eq, State.operatorKey_eq, hkey, hothers _ ?_, htally]
      unfold reqKey objKey; omega
    · have hself : objKey 0x1030 (q.sub - 1 + 1) = reqKey q := by unfold reqKey objKey; omega
      rw [State.operatorKey_eq, hkey, hself]
      exact hput
    · exact hclosed
    · simpa [accept, hestart] using hdirty rfl
  · rw [if_neg hgood, if_pos (not_or.1 hgood)]
    exact ⟨fun k _ => hsame (hkeep htally) k, Answer.finish_answered _ _ _ _, hkeep htally⟩

/-- The second clause of O16: a write of `DIAG_REG_DATA`. -/
theorem diagWritesReachTheirRegister (s : State) (q : Req) (hfresh : Fresh s q) (hin : InSession s q) (hwhole : WholeWrite q 0xF000 3 8) :
    ∃ t, exec (.diagRegWrite q) s = .next t ∧
      match (s.hearing q).regRead s.diagAddr s.diagSize, (s.hearing q).regWrite s.diagAddr s.diagSize (leNat q.data) with
      | none, _ => Answered t q 2 abNoRegister true [] ∧ SameBut [.host, .ctr, .out] s t
      | some _, none => Answered t q 2 abNotWritable true [] ∧ SameBut [.host, .ctr, .out] s t
      | some _, some u => Answered t q 2 0 true [] ∧ SameBut [.host, .ctr, .out] u t := by
  refine ⟨_, congrArg Host.Outcome.next (s.serveWrite_session hfresh hin hwhole fun s v => s.diagWrite v), ?_⟩
  have haddr : (s.hearing q).diagAddr = s.diagAddr ∧ (s.hearing q).diagSize = s.diagSize := by
    unfold State.diagAddr State.diagSize State.rwValue
    simp
  rw [← haddr.1, ← haddr.2]
  unfold State.diagWrite
  cases (s.hearing q).regRead (s.hearing q).diagAddr (s.hearing q).diagSize with
  | none => exact ⟨Answer.finish_answered _ _ _ _, sameBut_exec _ (.rfl' (a := [])) (by decide)⟩
  | some v =>
    cases (s.hearing q).regWrite (s.hearing q).diagAddr (s.hearing q).diagSize (leNat q.data) with
    | none => exact ⟨Answer.finish_answered _ _ _ _, sameBut_exec _ (.rfl' (a := [])) (by decide)⟩
    | some u => exact ⟨Answer.finish_answered _ _ _ _, Answer.finish_sameBut _ _ _ _⟩

/-- The third clause of O16: the persistent store takes the values that have changed. -/
theorem valuesAreStored (s : State) (flash : FlashReport) :
    ∃ t, exec (.persistWrite flash) s = .next t ∧ SameBut [.start, .bg, .log, .host, .ctr, .out] s t ∧
      let older := match newestCopy s.start.stores with | some 0 => 1 | _ => 0
      let next := match newestCopy s.start.stores with | some i => (s.start.stores.getD i {}).counter + 1 | none => 1
      if s.start.dirty = [] then t = s
      else t.start.dirty = [] ∧
        if flash.ok = true then
          t.start.stores = listUpd s.start.stores older (fun _ => { valid := true, version := imgStore (s.fwSlot s.booted).image, counter := next, rw := s.tally.rw.filter fun e => keyPersists e.1, active := s.tally.active.filter fun e => keyPersists e.1 })
          ∧ t.bg.bytesWritten = s.bg.bytesWritten + ((s.tally.rw ++ s.tally.active).map fun e => e.2.length).sum
        else t.start.stores = s.start.stores ∧ t.bg.bytesWritten = s.bg.bytesWritten
          ∧ (s.start.wardenHeld = false → Raised t wardenSrc 0x8213) := by
  have hexec : exec (.persistWrite flash) s = .next _ := rfl
  refine ⟨_, hexec, sb_next hexec rfl, ?_⟩
  dsimp only
  by_cases hclean : s.start.dirty = []
  · rw [if_pos hclean, if_pos hclean]
  · rw [if_neg hclean, if_neg hclean]
    by_cases hok : flash.ok = true
    · rw [if_pos hok, if_pos hok]
      obtain ⟨hkept, hbytes⟩ := (s.storeValues (imgStore (s.fwSlot s.booted).image)).flashWrite_spec flash
        ((s.tally.rw ++ s.tally.active).map fun e => e.2.length).sum
      have hstart := congrArg State.start hkept
      exact ⟨congrArg Startup.dirty hstart, congrArg Startup.stores hstart, hbytes⟩
    · rw [if_neg hok, if_neg hok]
      obtain ⟨hkept, hbytes⟩ := s.flashWrite_spec flash 0
      have hstart := congrArg State.start hkept
      change (s.flashWrite flash 0).start = s.start at hstart
      refine ⟨by simp, by simp [hstart], by simpa using hbytes, fun hheld => raised_event _ _ _ _ ?_⟩
      simpa [hstart] using hheld

/-- Settles O16: its three clauses. -/
theorem storedValuesComplete : Obligations.StoredValuesComplete := by
  unfold Obligations.StoredValuesComplete
  exact ⟨keySlotsTakeTheirKeys, diagWritesReachTheirRegister, valuesAreStored⟩

end

section
/-! SUPPORT and PROOFS. Applies of staged groups (R426). -/

namespace Sys2Proof.Machine

theorem find_filter_none {α : Type} (l : List α) (p : α → Bool) : (l.filter fun x => !p x).find? p = none := by
  simp [List.find?_eq_none]

/-- An apply that is accepted is the pending one of its group. -/
theorem State.acceptApply_spec (s : State) (g : Nat) : let t := s.acceptApply g
    t.tally.active = s.tally.active ∧ t.tally.rw = s.tally.rw ∧ t.tally.shadow = s.tally.shadow
      ∧ sget 0 t.tally.gen g = (sget 0 s.tally.gen g + 1) % 2 ^ 32 ∧ t.pendingOf g = some (s.capture g) := by
  have htally : (if (s.pendingOf g).isSome then s.event wardenSrc 0x8211 else s).tally = s.tally := by split <;> simp
  unfold State.acceptApply
  dsimp only
  rw [htally]
  refine ⟨rfl, rfl, rfl, sget_sset_same _ _ _ _, ?_⟩
  unfold State.pendingOf
  dsimp only
  rw [List.find?_append, show (fun p : PendApply => decide (p.group ≠ g)) = fun p => !decide (p.group = g) by funext p; simp,
    find_filter_none]
  simp [State.capture]

/-- What the checks of an apply look at. -/
theorem State.groupCheck_congr {s t : State} (hjob : t.job = s.job) (htally : t.tally = s.tally) (hskid : t.skid = s.skid) :
    t.groupCheck = s.groupCheck := by
  funext a
  unfold State.groupCheck State.groupState State.groupInconsistent State.changedSubs State.activeBytes State.planLoaded State.port
  rw [hjob, htally, hskid]
theorem State.capture_congr {s t : State} (htally : t.tally = s.tally) (htime : t.time = s.time) : t.capture = s.capture := by
  funext g
  unfold State.capture State.shadowBytes State.activeBytes State.beat State.stamp
  rw [htally, htime]

/-- A group's apply pends no more. -/
def State.unpend (s : State) (g : Nat) : State :=
  { s with tally := { s.tally with pendingApply := s.tally.pendingApply.filter fun p => p.group ≠ g } }
theorem State.unpend_pendingOf (s : State) (g : Nat) : (s.unpend g).pendingOf g = none := by
  unfold State.pendingOf State.unpend
  dsimp only
  rw [show (fun p : PendApply => decide (p.group ≠ g)) = fun p => !decide (p.group = g) by funext p; simp, find_filter_none]
/-- An apply that its checks pass puts its values into force, is reported, and has its effect. -/
theorem State.safePoint_passed {s : State} {g : Nat} {a : PendApply} (ha : s.pendingOf g = some a) (hcheck : s.groupCheck a = 0) :
    s.safePoint g = (((s.unpend g).putActive a).event wardenSrc 0x8210 (u16 g ++ u32 (sget 0 s.tally.gen g))).applyEffect a
      (((s.unpend g).changedSubs a).map fun e => e.1) := by
  unfold State.safePoint
  rw [ha]
  exact if_neg (not_not.2 hcheck)
theorem State.applyEffect_tally (s : State) (a : PendApply) (l : List Nat) : (s.applyEffect a l).tally = s.tally :=
  State.applyEffect_touch (ps := [.time, .log, .host, .power, .ctr, .out]) (List.Subset.refl _) s a l (Touch.refl _ s) .tally (by decide)

/-- At its safe point a group's values become active. -/
theorem State.safePoint_spec {s : State} {g : Nat} {a : PendApply} (ha : s.pendingOf g = some a) (hcheck : s.groupCheck a = 0) :
    let t := s.safePoint g
    t.pendingOf g = none ∧ t.tally.active = a.values ++ s.tally.active.filter (fun e => e.1 / 256 ≠ g) ∧ t.tally.rw = s.tally.rw
      ∧ t.tally.gen = s.tally.gen := by
  have hgroup : a.group = g := by simpa using List.find?_some ha
  have htally : (s.safePoint g).tally = ((s.unpend g).putActive a).tally := by
    rw [State.safePoint_passed ha hcheck, State.applyEffect_tally]; simp
  have hpending : (s.safePoint g).pendingOf g = (s.unpend g).pendingOf g := by unfold State.pendingOf; rw [htally]; rfl
  refine ⟨hpending.trans (s.unpend_pendingOf g), ?_, ?_, ?_⟩
  · rw [htally, ← hgroup]; rfl
  · rw [htally]; rfl
  · rw [htally]; rfl

end Sys2Proof.Machine
end

section
open Sys2Proof Sys2Proof.Machine

/-- Settles O17: an apply passes its checks and pends; at its safe point it takes effect. -/
theorem appliesAreStagedThenTaken : Obligations.AppliesAreStagedThenTaken := by
  unfold Obligations.AppliesAreStagedThenTaken
  refine ⟨fun s q g hfresh hin hgroup hwhole => ?_, fun s g a ha hboundary hbeat hswitch hratio hcheck => ?_⟩
  · obtain ⟨rfl, hsub, hrest⟩ := hwhole
    have hexec : exec (.tallyApply q) s = .next _ :=
      congrArg Host.Outcome.next ((if_pos ⟨hgroup, hsub⟩).trans (s.serveWrite_session hfresh hin ⟨rfl, hsub, hrest⟩ _))
    have htally : (s.hearing q).tally = s.tally := by simp
    have hcheck : (s.hearing q).groupCheck = s.groupCheck := State.groupCheck_congr (by simp) htally (by simp)
    have hcapture : (s.hearing q).capture = s.capture := State.capture_congr htally (by simp)
    refine ⟨_, hexec, sb_next hexec rfl, ?_⟩
    dsimp only
    rw [htally, hcheck, hcapture]
    have hans (a : Answer) := Answer.finish_answered a (s.sid q) 2 q
    have hfin (a : Answer) : (a.finish (s.sid q) 2 q).tally = a.s.tally := by simp
    have hfinp (a : Answer) (g : Nat) : (a.finish (s.sid q) 2 q).pendingOf g = a.s.pendingOf g := by unfold State.pendingOf; rw [hfin]
    by_cases hgen : leNat q.data = sget 0 s.tally.gen q.index
    · rw [if_neg (not_not.2 hgen)]
      by_cases hbad : s.groupCheck (s.capture q.index) = 0
      · obtain ⟨hactive, hrw, hshadow, hgen', hpending⟩ := (s.hearing q).acceptApply_spec q.index
        rw [htally] at hactive hrw hshadow hgen'
        rw [hcapture] at hpending
        rw [if_neg (not_not.2 hbad)]
        rw [hfin, hfinp]
        exact ⟨hactive, hrw, hshadow, fun h => absurd hgen h, fun _ _ => ⟨hans (accept _), hgen', hpending⟩⟩
      · rw [if_pos hbad, hfin]
        exact ⟨congrArg _ htally, congrArg _ htally, congrArg _ htally, fun h => absurd hgen h, fun _ h => absurd h hbad⟩
    · rw [if_pos hgen, hfin]
      exact ⟨congrArg _ htally, congrArg _ htally, congrArg _ htally, fun _ => ⟨hans (refuse _ _), htally⟩, fun h => absurd h hgen⟩
  · have hnot : ¬ (!atBoundary g ∨ s.beat = a.beat ∨ (g = 0x9000 ∧ s.power.switching)) := by simp_all
    have hexec : exec (.applySafePoint g) s = .next (s.safePoint g) := by
      show execApplySafePoint g s = _
      unfold execApplySafePoint
      rw [ha]
      dsimp only
      rw [if_neg hnot, if_neg (by tauto)]
    obtain ⟨hpending, hactive, hrw, hgen⟩ := State.safePoint_spec ha hcheck
    exact ⟨_, hexec, hpending, hactive, hrw, hgen, sb_next hexec rfl⟩
end

section
/-! SUPPORT and PROOFS. Timers and frames of the host port (R404 to R407, R410, R414, R415, R431). -/

namespace Sys2Proof.Machine

theorem sb_host (s : State) (h : HostPort) : SameBut [.host] s { s with host := h } := by
  intro p hp
  cases p with
  | host => exact absurd (by decide) hp
  | _ => rfl

/-! ### The host link -/

theorem State.event_standing (s : State) (src code : Nat) (d : Bytes) : (s.event src code d).host.standing = s.host.standing :=
  (s.event_host src code d).1

/-! ### Frames for an address -/

/-- A frame for an address of the module is answered, for another dropped. -/
theorem State.answerFrame_spec (s : State) (target : Bytes) (kind : Nat) (data : Bytes) (h : s.start.wardenHeld = false) :
    let t := s.answerFrame target kind data
    t.count kFramesRx = s.count kFramesRx + 1 ∧
      if target ∈ s.ownAddrs then t.out = s.out ++ [Output.netFrame kind data] ∧ t.count kFramesTx = s.count kFramesTx + 1
      else t.out = s.out ∧ t.count kFramesDropped = s.count kFramesDropped + 1 := by
  have hheld : s.rxFrame.start.wardenHeld = false := h
  have haddrs : s.rxFrame.ownAddrs = s.ownAddrs := rfl
  unfold State.answerFrame
  dsimp only
  rw [if_neg (by simp [hheld]), haddrs]
  by_cases hown : target ∈ s.ownAddrs
  · rw [if_pos (by simpa using hown), if_pos hown]
    have htx : (s.rxFrame.sendHost (Output.netFrame kind data)).count kFramesTx = s.rxFrame.count kFramesTx + 1 := s.rxFrame.bump_count kFramesTx 1
    exact ⟨by rw [State.sendHost_count _ _ _ (by decide), s.rxFrame_count], rfl, by rw [htx, s.rxFrame_count_other _ (by decide)]⟩
  · rw [if_neg (by simpa using hown), if_neg hown]
    exact ⟨by rw [State.bump_count_other _ _ _ _ (by decide), s.rxFrame_count], rfl,
      by rw [State.bump_count, s.rxFrame_count_other _ (by decide)]⟩

/-! ### Discarded frames -/

/-- A frame that is discarded has come, with what the FEC reports of it. -/
def State.fecNoted (s : State) (corrected uncorrectable : Nat) : State :=
  let s := ((s.rxFrame).bump kFec corrected).bump kFecBad uncorrectable
  if 0 < uncorrectable then { s with host := { s.host with fecUncorrected := true } } else s
theorem State.fecNoted_spec (s : State) (fixed bad : Nat) : let t := s.fecNoted fixed bad
    t.out = s.out ∧ t.host = { s.host with fecUncorrected := s.host.fecUncorrected || decide (0 < bad) }
      ∧ t.count kFramesRx = s.count kFramesRx + 1 ∧ t.count kFec = s.count kFec + fixed ∧ t.count kFecBad = s.count kFecBad + bad
      ∧ t.count kOtdinDiscards = s.count kOtdinDiscards ∧ t.count kFramesDropped = s.count kFramesDropped := by
  have hcount (k : Nat) : (s.fecNoted fixed bad).count k = (((s.rxFrame).bump kFec fixed).bump kFecBad bad).count k := by
    unfold State.fecNoted; dsimp only; split <;> rfl
  refine ⟨?_, ?_, ?_, ?_, ?_, ?_, ?_⟩
  · unfold State.fecNoted; dsimp only; split <;> rfl
  · unfold State.fecNoted; dsimp only
    split
    · next h => simp [h, State.rxFrame]
    · next h => simp [h, State.rxFrame]
  · rw [hcount, count_bump_other _ _ _ _ (by decide), count_bump_other _ _ _ _ (by decide), s.rxFrame_count]
  · rw [hcount, count_bump_other _ _ _ _ (by decide), count_bump, s.rxFrame_count_other _ (by decide)]
  · rw [hcount, count_bump, count_bump_other _ _ _ _ (by decide), s.rxFrame_count_other _ (by decide)]
  · rw [hcount, count_bump_other _ _ _ _ (by decide), count_bump_other _ _ _ _ (by decide), s.rxFrame_count_other _ (by decide)]
  · rw [hcount, count_bump_other _ _ _ _ (by decide), count_bump_other _ _ _ _ (by decide), s.rxFrame_count_other _ (by decide)]

/-- What is discarded for its datagram, or for having none. -/
def State.discard (s : State) (d : Option Bytes) : State :=
  match d with
  | none => s.bump kFramesDropped 1
  | some d =>
    if otdinGood d then s
    else if otdinCrcOk d then s.bump kOtdinDiscards 1
    else { s.bump kOtdinDiscards 1 with host := { s.host with crcDiscard := true } }
theorem State.discard_spec (s : State) (d : Option Bytes) : let t := s.discard d
    t.out = s.out ∧ t.host = { s.host with crcDiscard := s.host.crcDiscard || d.any (fun x => !otdinCrcOk x) }
      ∧ (∀ k, k ≠ kOtdinDiscards → k ≠ kFramesDropped → t.count k = s.count k)
      ∧ t.count kOtdinDiscards = s.count kOtdinDiscards + (if d.any (fun x => !otdinGood x) = true then 1 else 0)
      ∧ t.count kFramesDropped = s.count kFramesDropped + (if d = none then 1 else 0) := by
  unfold State.discard
  cases d with
  | none =>
    exact ⟨rfl, by simp, fun k _ hk => count_bump_other _ _ _ _ hk, count_bump_other _ _ _ _ (by decide), count_bump _ _ _⟩
  | some d =>
    dsimp only
    by_cases hgood : otdinGood d = true
    · have hcrc : otdinCrcOk d = true := by unfold otdinGood at hgood; simp at hgood; exact hgood.1
      rw [if_pos hgood]
      exact ⟨rfl, by simp [hcrc], fun k _ _ => rfl, by simp [hgood], rfl⟩
    · rw [if_neg hgood]
      by_cases hcrc : otdinCrcOk d = true
      · rw [if_pos hcrc]
        exact ⟨rfl, by simp [hcrc], fun k hk _ => count_bump_other _ _ _ _ hk, by simp [hgood], count_bump_other _ _ _ _ (by decide)⟩
      · rw [if_neg hcrc]
        exact ⟨rfl, by simp [hcrc], fun k hk _ => count_bump_other s _ _ 1 hk, (count_bump s _ 1).trans (by simp [hgood]),
          count_bump_other s _ _ 1 (by decide)⟩
theorem exec_frameDiscarded (d : Option Bytes) (fixed bad : Nat) (s : State) :
    exec (.frameDiscarded d fixed bad) s = .next ((s.fecNoted fixed bad).discard d) := by
  cases d <;> rfl

end Sys2Proof.Machine
end

section
open Sys2Proof Sys2Proof.Machine

/-- Settles O18: each timer acts from its time on, and not before. -/
theorem hostTimersExpire : Obligations.HostTimersExpire := by
  unfold Obligations.HostTimersExpire
  refine ⟨fun s id x hx => ⟨fun hidle => ?_, fun hearly => ?_⟩, fun s addr => ?_, fun s b hb => ⟨fun hover => ?_, fun hearly => ?_⟩⟩
  · have hexec : exec (.sessionIdleTimeout id) s = .next (s.closeSession id 1) := by
      show execSessionIdleTimeout id s = _
      unfold execSessionIdleTimeout
      rw [hx]
      exact congrArg Host.Outcome.next (if_pos hidle)
    obtain ⟨hsessions, hflows⟩ := s.closeSession_gone id 1
    obtain ⟨-, -, hraised⟩ := s.closeSession_spec id 1
    exact ⟨_, hexec, hsessions, hflows, hraised, sb_next hexec rfl⟩
  · show execSessionIdleTimeout id s = _
    unfold execSessionIdleTimeout
    rw [hx]
    exact congrArg Host.Outcome.next (if_neg (Nat.not_le.2 hearly))
  · exact ⟨_, rfl, sb_host _ _, rfl, rfl, fun e => by simp [Classical.or_iff_not_imp_left]⟩
  · refine ⟨{ s with host := { s.host with lockedUntil := none } }, ?_, rfl, sb_host _ _⟩
    show execAuthLockExpiry s = _
    unfold execAuthLockExpiry
    rw [hb]
    exact congrArg Host.Outcome.next (if_pos hover)
  · show execAuthLockExpiry s = _
    unfold execAuthLockExpiry
    rw [hb]
    exact congrArg Host.Outcome.next (if_neg (Nat.not_le.2 hearly))

/-- Settles O19: the link's events, answered frames and counted discards. -/
theorem hostPortFramesComplete : Obligations.HostPortFramesComplete := by
  unfold Obligations.HostPortFramesComplete
  intro s hheld
  refine ⟨?_, ?_, fun kind a d c body hc => ?_, fun d fixed bad => ?_⟩
  · have hexec : exec .hostLinkUp s = .next _ := rfl
    refine ⟨_, hexec, sb_next hexec rfl, ?_⟩
    by_cases hup : s.host.linkState = 2
    · rw [if_pos hup]
      exact ⟨hup, rfl, rfl, fun h => absurd hup h⟩
    · rw [if_neg hup]
      refine ⟨by simp, State.event_flowKeys _ _ _ _, State.event_standing _ _ _ _, fun _ => ⟨by simp, raised_event _ _ _ _ hheld⟩⟩
  · have hexec : exec .hostLinkDown s = .next _ := rfl
    refine ⟨_, hexec, sb_next hexec rfl, ?_⟩
    by_cases hup : s.host.linkState = 2
    · rw [if_neg (not_not.2 hup), if_pos hup]
      exact ⟨State.event_flowKeys _ _ _ _, State.event_standing _ _ _ _, by simp, by simp, raised_event _ _ _ _ hheld⟩
    · rw [if_pos hup, if_neg hup]
      exact ⟨rfl, rfl, rfl⟩
  · obtain ⟨rfl, rfl, rfl⟩ | ⟨rfl, rfl, rfl⟩ := hc
    · have hexec : exec (.icmpEchoRequest a body) s = .next _ := rfl
      exact ⟨_, hexec, sameBut_of_next hexec, s.answerFrame_spec a 0 body hheld⟩
    · have hexec : exec (.neighbourRequest a d) s = .next _ := rfl
      exact ⟨_, hexec, sameBut_of_next hexec, s.answerFrame_spec a 1 (macOctets ++ d) hheld⟩
  · have hexec := exec_frameDiscarded d fixed bad s
    obtain ⟨hout, hhost, hrx, hfec, hbad, hotdin, hdropped⟩ := s.fecNoted_spec fixed bad
    obtain ⟨hout', hhost', hcount, hotdin', hdropped'⟩ := (s.fecNoted fixed bad).discard_spec d
    refine ⟨_, hexec, hout'.trans hout, sb_next hexec rfl, by rw [hhost', hhost], ?_, ?_, ?_, ?_, ?_⟩
    · rw [hcount _ (by decide) (by decide), hrx]
    · rw [hcount _ (by decide) (by decide), hfec]
    · rw [hcount _ (by decide) (by decide), hbad]
    · rw [hotdin', hotdin]
    · rw [hdropped', hdropped]
end

section
/-! SUPPORT and PROOFS. Diagnostic captures and clock gates (R97, R116 to R120, R470, R497, R509). -/

namespace Sys2Proof.Machine

/-! ### A diagnostic capture -/

/-- The accumulator that a capture reads, and the pass in the pipeline on its tile. -/
def Cluster.diagTile (c : Cluster) : Nat := bitsOf c.diagSel 16 16
def Cluster.diagPass (c : Cluster) : Option PassOp := c.inPipe.filter fun op => op.tile = c.diagTile
/-- The value that a capture finds. -/
def State.captureValue (s : State) (cl ksteps : Nat) : Int :=
  let c := s.cl cl
  let i := bitsOf c.diagSel 15 8
  let j := bitsOf c.diagSel 7 0
  if 127 < i ∨ 127 < j then 0
  else match c.inPipe with
    | some op => if op.tile = c.diagTile then s.prefence cl op i j ksteps else c.tileNow c.diagTile i j
    | none => c.tileNow c.diagTile i j
/-- A capture completes. -/
def State.captured (s : State) (cl ksteps : Nat) : State :=
  let t := s.modCl cl fun c => { c with diagData := s.captureValue cl ksteps, diagValid := true, diagBusy := false,
                                        diagPrefence := c.diagPrefence || (s.cl cl).diagPass.isSome }
  if (s.cl cl).diagPass.isSome then t.bump kPrefence 1 else t

theorem exec_capture {s : State} {die n cl : Nat} (hat : s.clusterAt die n = some cl) (hbusy : (s.cl cl).diagBusy = true) (ksteps : Nat)
    (residueOk : Bool) :
    exec (.xaDiagCaptureDone die n ksteps residueOk) s = .next (if residueOk then s.captured cl ksteps
      else (s.captured cl ksteps).residueFail cl (s.cl cl).diagTile (bitsOf (s.cl cl).diagSel 15 8) (bitsOf (s.cl cl).diagSel 7 0)) := by
  show execXaDiagCaptureDone die n ksteps residueOk s = _
  have hvalue : s.captureValue cl ksteps = if 127 < bitsOf (s.cl cl).diagSel 15 8 ∨ 127 < bitsOf (s.cl cl).diagSel 7 0 then 0
      else match (s.cl cl).diagPass with
        | some op => s.prefence cl op (bitsOf (s.cl cl).diagSel 15 8) (bitsOf (s.cl cl).diagSel 7 0) ksteps
        | none => (s.cl cl).tileNow (s.cl cl).diagTile (bitsOf (s.cl cl).diagSel 15 8) (bitsOf (s.cl cl).diagSel 7 0) := by
    unfold State.captureValue Cluster.diagPass
    dsimp only
    cases (s.cl cl).inPipe with
    | none => rfl
    | some op => by_cases htile : op.tile = (s.cl cl).diagTile <;> simp [htile, Option.filter]
  unfold execXaDiagCaptureDone State.captured
  rw [hat, hvalue]
  dsimp only
  rw [if_neg (by simp [hbusy])]
  rfl
theorem State.captured_sameBut (s : State) (cl ksteps : Nat) : SameBut [.clusters, .ctr] s (s.captured cl ksteps) := by
  unfold State.captured
  dsimp only
  split
  · exact ((sb_modCl s cl _).trans (sb_ctr _ _ _)).mono (by decide)
  · exact (sb_modCl s cl _).mono (by decide)
theorem State.captured_cl (s : State) (cl ksteps k : Nat) : (s.captured cl ksteps).cl k = (s.modCl cl fun c => { c with
    diagData := s.captureValue cl ksteps, diagValid := true, diagBusy := false, diagPrefence := c.diagPrefence || (s.cl cl).diagPass.isSome }).cl k := by
  unfold State.captured; dsimp only; split <;> rfl
theorem State.captured_count (s : State) (cl ksteps : Nat) : (s.captured cl ksteps).count kPrefence = s.count kPrefence
    + (match (s.cl cl).inPipe with | some op => if op.tile = (s.cl cl).diagTile then 1 else 0 | none => 0) := by
  unfold State.captured Cluster.diagPass
  dsimp only
  cases (s.cl cl).inPipe with
  | none => rfl
  | some op =>
    by_cases htile : op.tile = (s.cl cl).diagTile
    · simp only [Option.filter, htile, decide_true, Option.isSome_some, if_true]
      exact count_bump _ _ _
    · simp only [Option.filter, htile, decide_false, Bool.false_eq_true, if_false, Option.isSome_none]
      rfl
theorem State.residueFail_spec (s : State) (cl tile row col : Nat) : let t := s.residueFail cl tile row col
    Faulted t (s.seqSrc cl) 0x1203 ∧ t.safe.latch = true ∧ t.mem = s.mem := by
  obtain ⟨hfaulted, hlatch, -⟩ := s.fault_spec (s.seqSrc cl) 0x1203 (u32 (cl % 12) ++ u32 tile ++ u32 row ++ u32 col)
  exact ⟨hfaulted, hlatch, by simp [State.residueFail]⟩

/-! ### Clock gates -/

theorem sb_power (s : State) (x : Power) : SameBut [.power] s { s with power := x } := by
  intro p hp
  cases p with
  | power => exact absurd (by decide) hp
  | _ => rfl
/-- The gates of a die are set. -/
def State.setGates (s : State) (d : Nat) (f : Gates → Gates) : State := { s with power := { s.power with gates := supd {} s.power.gates d f } }
theorem exec_clkGate {s : State} {die value : Nat} (hin : die ∈ s.start.dieMap) (hvalue : value < 2 ^ 32) :
    exec (.clkGate die value) s = .next (if s.gateRefused die value then s.setGates die fun g => { g with refused := true }
      else s.setGates die fun g => { refused := g.refused && bitsOf value 31 31 == 0, die := bitsOf value 19 19 == 1,
                                     regions := bitsOf value 18 16, clusters := bitsOf value 11 0 }) := by
  show Host.Outcome.next (s.writeGates die (value % 2 ^ 32)) = _
  rw [Nat.mod_eq_of_lt hvalue]
  unfold State.writeGates
  dsimp only
  rw [if_neg (by simpa using hin)]
  rfl
theorem State.setGates_spec (s : State) (d : Nat) (f : Gates → Gates) : SameBut [.power] s (s.setGates d f)
    ∧ (∀ e, e ≠ d → sget {} (s.setGates d f).power.gates e = sget {} s.power.gates e)
    ∧ (s.setGates d f).power = { s.power with gates := (s.setGates d f).power.gates }
    ∧ sget {} (s.setGates d f).power.gates d = f (sget {} s.power.gates d) :=
  ⟨sb_power _ _, fun _ he => sget_supd_other _ _ _ _ _ he, rfl, sget_supd_same _ _ _ _⟩

end Sys2Proof.Machine
end

section
open Sys2Proof Sys2Proof.Machine

/-- Settles O20: a capture begins and completes, and the gates of one die are set. -/
theorem diagnosticsComplete : Obligations.DiagnosticsComplete := by
  unfold Obligations.DiagnosticsComplete
  refine ⟨fun s die n cl value hat => ?_, fun s die n cl ksteps hat hbusy => ⟨?_, ?_⟩, fun s die value hin hvalue => ?_⟩
  · have hexec : exec (.xaDiagSel die n value) s = .next (s.modCl cl fun c => { c with diagSel := bitsOf value 16 0, diagValid := false, diagBusy := true }) := by
      show Host.Outcome.next (s.diagSelect die n value) = _
      unfold State.diagSelect
      rw [hat]
    exact ⟨_, hexec, sb_modCl _ _ _, fun k hk => cl_modCl_other _ _ _ _ hk, cl_modCl _ _ _⟩
  · have hcl (k : Nat) := s.captured_cl cl ksteps k
    refine ⟨s.captured cl ksteps, exec_capture hat hbusy ksteps true, s.captured_sameBut cl ksteps, fun k hk => ?_, ?_, ?_, ?_, fun k => ?_, ?_⟩
    · rw [hcl, cl_modCl_other _ _ _ _ hk]
    · rw [hcl, cl_modCl]
    · rw [hcl, cl_modCl]
    · rw [hcl, cl_modCl]; rfl
    · rw [hcl, cl_modCl]; rfl
    · exact s.captured_count cl ksteps
  · obtain ⟨hfaulted, hlatch, hmem⟩ := (s.captured cl ksteps).residueFail_spec cl (s.cl cl).diagTile (bitsOf (s.cl cl).diagSel 15 8)
      (bitsOf (s.cl cl).diagSel 7 0)
    have hsame := s.captured_sameBut cl ksteps
    have hsrc : (s.captured cl ksteps).seqSrc cl = s.seqSrc cl := by
      unfold State.seqSrc State.physDie; rw [hsame .start (by decide)]
    rw [hsrc] at hfaulted
    exact ⟨_, exec_capture hat hbusy ksteps false, hfaulted, hlatch, hmem.trans (hsame .mem (by decide))⟩
  · refine ⟨_, exec_clkGate hin hvalue, ?_⟩
    by_cases hrefused : s.gateRefused die value = true
    · rw [if_pos hrefused]
      obtain ⟨hsame, hothers, hpower, hgate⟩ := s.setGates_spec die fun g => { g with refused := true }
      exact ⟨hsame, hothers, hpower, fun _ => hgate, fun h => absurd hrefused (by simp [h])⟩
    · rw [if_neg hrefused]
      obtain ⟨hsame, hothers, hpower, hgate⟩ := s.setGates_spec die fun g =>
        { refused := g.refused && bitsOf value 31 31 == 0, die := bitsOf value 19 19 == 1, regions := bitsOf value 18 16, clusters := bitsOf value 11 0 }
      refine ⟨hsame, hothers, hpower, fun h => absurd h hrefused, fun _ => ?_⟩
      rw [hgate]
      exact ⟨rfl, rfl, rfl⟩
end

section
/-! SUPPORT and PROOFS. The time engine: updates of the source, silence, holdover (R27 to R37, R582). -/

namespace Sys2Proof.Machine

/-! ### Steering -/

theorem steer_below {offset : Int} (h : 0 < offset) (w : Nat) : steer offset w < 0xA000000000 := by
  unfold steer
  dsimp only
  rw [if_pos h]
  exact Nat.lt_of_le_of_lt (Nat.min_le_right _ _) (by decide)
theorem steer_above {offset : Int} (h : offset < 0) (w : Nat) : 0xA000000000 < steer offset w := by
  unfold steer
  dsimp only
  rw [if_neg (by omega), if_pos h]
  exact lt_min (Nat.lt_of_lt_of_le (by decide) (Nat.le_max_right _ _)) (by decide)
theorem inside_iff (offset : Int) : decide (-lockWindow ≤ offset ∧ offset ≤ lockWindow) = decide (offset.natAbs ≤ 4096) := by
  unfold lockWindow
  simp only [decide_eq_decide]
  omega
theorem tooFar_iff (offset : Int) : decide (offset < -slewLimit ∨ slewLimit < offset) = decide (2097152 < offset.natAbs) := by
  unfold slewLimit
  simp only [decide_eq_decide]
  omega

/-! ### An update that steers -/

/-- The word that an update puts in force. -/
def TimeEngine.steered (t : TimeEngine) (offset : Int) : TimeEngine := { t with freqWord := steer offset t.freqWord }
theorem State.track_locked {s : State} (h : s.time.state = .locked) (offset : Int) :
    s.track offset = { s with time := if offset.natAbs ≤ 4096 then { s.time.steered offset with lockedWord := steer offset s.time.freqWord }
      else { s.time.steered offset with state := .acquiring, lockCount := 0 } } := by
  unfold State.track
  rw [inside_iff]
  dsimp only
  rw [h]
  dsimp only
  by_cases hin : offset.natAbs ≤ 4096
  · simp [hin, TimeEngine.steered, h]
  · simp [hin, TimeEngine.steered]
/-- The updates in a row that count toward lock, after one more. -/
def TimeEngine.inRow (t : TimeEngine) (offset : Int) : Nat := if offset.natAbs ≤ 4096 then min 16 (t.lockCount + 1) else 0
theorem State.track_unlocked {s : State} (h : s.time.state ≠ .locked) (offset : Int) :
    s.track offset =
      let u : State := { s with time := { s.time.steered offset with state := .acquiring, lockCount := s.time.inRow offset } }
      if s.time.inRow offset = 16 then u.lock else u := by
  unfold State.track TimeEngine.inRow
  rw [inside_iff]
  simp only [decide_eq_true_eq]
  cases hs : s.time.state with
  | locked => exact absurd hs h
  | _ => rfl
theorem State.lock_spec (s : State) : s.lock.time = { s.time with state := .locked, everLocked := true, holdover := 0, lockedWord := s.time.freqWord }
    ∧ SameBut [.time, .log, .host, .ctr, .out] s s.lock ∧ (s.start.wardenHeld = false → Raised s.lock wardenSrc 0x6100) := by
  refine ⟨by simp [State.lock], ((sb_time s _).trans (sameBut_event _ _ _ _)).mono (by decide), fun h => raised_event _ _ _ _ h⟩

/-- What an update that steers leaves behind. -/
def Steers (s t : State) (offset : Int) : Prop :=
  t.time.counter = s.time.counter ∧ t.time.offset = s.time.offset ∧ t.time.lastUpdate = s.time.lastUpdate
    ∧ t.time.interval = s.time.interval ∧ t.time.freqWord = steer offset s.time.freqWord ∧ SameBut [.time, .log, .host, .ctr, .out] s t
theorem State.track_steers (s : State) (offset : Int) : Steers s (s.track offset) offset := by
  have htime (t : TimeEngine) : SameBut [.time, .log, .host, .ctr, .out] s { s with time := t } := (sb_time s t).mono (by decide)
  by_cases h : s.time.state = .locked
  · rw [State.track_locked h]
    refine ⟨?_, ?_, ?_, ?_, ?_, htime _⟩ <;> dsimp only <;> split <;> rfl
  · rw [State.track_unlocked h]
    dsimp only
    split
    · obtain ⟨hlock, hsame, -⟩ := State.lock_spec { s with time := { s.time.steered offset with state := .acquiring, lockCount := s.time.inRow offset } }
      unfold Steers
      rw [hlock]
      exact ⟨rfl, rfl, rfl, rfl, rfl, ((sb_time s _).trans hsame).mono (by decide)⟩
    · exact ⟨rfl, rfl, rfl, rfl, rfl, htime _⟩
/-- What an update that steers makes of lock. -/
theorem State.track_state (s : State) (offset : Int) : let t := s.track offset
    if s.time.state = .locked then t.time.state = (if offset.natAbs ≤ 4096 then .locked else .acquiring)
      ∧ t.time.lockedWord = if offset.natAbs ≤ 4096 then t.time.freqWord else s.time.lockedWord
    else if 4096 < offset.natAbs then t.time.state = .acquiring ∧ t.time.lockCount = 0
    else if s.time.lockCount < 15 then t.time.state = .acquiring ∧ t.time.lockCount = s.time.lockCount + 1
    else t.time.state = .locked ∧ (s.start.wardenHeld = false → Raised t wardenSrc 0x6100) := by
  dsimp only
  by_cases hlocked : s.time.state = .locked
  · rw [if_pos hlocked, State.track_locked hlocked]
    by_cases hin : offset.natAbs ≤ 4096
    · simp [hin, TimeEngine.steered, hlocked]
    · simp [hin, TimeEngine.steered]
  rw [if_neg hlocked, State.track_unlocked hlocked]
  by_cases hfar : 4096 < offset.natAbs
  · have hn : s.time.inRow offset = 0 := if_neg (Nat.not_le.2 hfar)
    rw [if_pos hfar, hn]
    exact ⟨rfl, rfl⟩
  have hn : s.time.inRow offset = min 16 (s.time.lockCount + 1) := if_pos (Nat.not_lt.1 hfar)
  rw [if_neg hfar, hn]
  by_cases hrow : s.time.lockCount < 15
  · rw [if_pos hrow, if_neg (by omega)]
    exact ⟨rfl, Nat.min_eq_right (by omega)⟩
  · obtain ⟨hlock, -, hraised⟩ := State.lock_spec { s with time := { s.time.steered offset with state := .acquiring, lockCount := min 16 (s.time.lockCount + 1) } }
    rw [if_neg hrow, if_pos (by omega)]
    exact ⟨congrArg TimeEngine.state hlock, hraised⟩

/-! ### An update of the source -/

/-- The offset of an update is noted; a run toward lock begins again in `HOLDOVER`. -/
def TimeEngine.noted (t : TimeEngine) (offset : Int) (interval : Nat) : TimeEngine :=
  { t with offset := offset, lastUpdate := t.cycles, interval := interval }
def TimeEngine.rerun (t : TimeEngine) : TimeEngine := if t.state = .holdover then { t with lockCount := 0 } else t
theorem State.timeUpdate_steady {s : State} (hu : s.time.state ≠ .unlocked) (hl : s.time.state ≠ .lost) (offset : Int) (interval : Nat) :
    s.timeUpdate offset interval = if 2097152 < offset.natAbs ∧ (s.time.state = .acquiring → s.time.everLocked = true)
      then ({ s with time := s.time.noted offset interval } : State).timeStep
      else ({ s with time := (s.time.noted offset interval).rerun } : State).track offset := by
  unfold State.timeUpdate TimeEngine.rerun
  rw [tooFar_iff]
  cases hs : s.time.state with
  | unlocked => exact absurd hs hu
  | lost => exact absurd hs hl
  | acquiring => by_cases hever : s.time.everLocked = true <;> simp [hs, hever, TimeEngine.noted]
  | locked => simp [hs, TimeEngine.noted]
  | holdover => simp [hs, TimeEngine.noted]
theorem State.timeStep_spec (s : State) : s.timeStep.time = { s.time with state := .lost } ∧ Faulted s.timeStep wardenSrc 0x6103 :=
  ⟨by simp [State.timeStep], State.fault_faulted _ _ _ _⟩
theorem TimeEngine.rerun_frame (t : TimeEngine) : t.rerun.counter = t.counter ∧ t.rerun.offset = t.offset ∧ t.rerun.lastUpdate = t.lastUpdate
    ∧ t.rerun.interval = t.interval ∧ t.rerun.freqWord = t.freqWord ∧ t.rerun.state = t.state ∧ t.rerun.lockedWord = t.lockedWord
    ∧ t.rerun.lockCount = if t.state = .holdover then 0 else t.lockCount := by
  unfold TimeEngine.rerun
  split
  · exact ⟨rfl, rfl, rfl, rfl, rfl, rfl, rfl, rfl⟩
  · exact ⟨rfl, rfl, rfl, rfl, rfl, rfl, rfl, rfl⟩

end Sys2Proof.Machine
end

section
open Sys2Proof Sys2Proof.Machine

/-- Settles O21: an update steps the counter, is measured only, is a fault, or steers, by the state it finds. -/
theorem sourceUpdatesSteerTheBeat : Obligations.SourceUpdatesSteerTheBeat := by
  unfold Obligations.SourceUpdatesSteerTheBeat
  intro s offset log
  have hexec : exec (.sourceUpdate offset log) s = .next (s.timeUpdate offset (if s.active 0x7000 1 0 = 1 then 4096 else syncInterval log)) := rfl
  generalize (if s.active 0x7000 1 0 = 1 then 4096 else syncInterval log) = interval at hexec ⊢
  refine ⟨_, hexec, ?_⟩
  by_cases hunlocked : s.time.state = .unlocked
  · rw [if_pos hunlocked]
    unfold State.timeUpdate
    dsimp only
    rw [hunlocked]
    exact ⟨rfl, rfl, rfl, rfl, rfl, rfl, sb_time s _, rfl⟩
  rw [if_neg hunlocked]
  by_cases hlost : s.time.state = .lost
  · rw [if_pos hlost]
    unfold State.timeUpdate
    dsimp only
    rw [hlost]
    exact ⟨rfl, rfl, rfl, rfl, rfl, rfl, sb_time s _⟩
  rw [if_neg hlost, State.timeUpdate_steady hunlocked hlost]
  by_cases hfar : 2097152 < offset.natAbs ∧ (s.time.state = .acquiring → s.time.everLocked = true)
  · obtain ⟨htime, hfaulted⟩ := State.timeStep_spec { s with time := s.time.noted offset interval }
    rw [if_pos hfar, if_pos hfar, htime]
    exact ⟨rfl, rfl, rfl, rfl, rfl, hfaulted⟩
  rw [if_neg hfar, if_neg hfar]
  obtain ⟨hcounter, hoffset, hlast, hinterval, hword, hsame⟩ := State.track_steers { s with time := (s.time.noted offset interval).rerun } offset
  have hstate := State.track_state { s with time := (s.time.noted offset interval).rerun } offset
  obtain ⟨kcounter, koffset, klast, kinterval, kword, kstate, klocked, kcount⟩ := (s.time.noted offset interval).rerun_frame
  dsimp only at hcounter hoffset hlast hinterval hword hstate
  rw [kcounter] at hcounter
  rw [koffset] at hoffset
  rw [klast] at hlast
  rw [kinterval] at hinterval
  rw [kword] at hword
  rw [kstate, klocked, kcount] at hstate
  generalize State.track { s with time := (s.time.noted offset interval).rerun } offset = t at *
  refine ⟨hoffset, hlast, hinterval, hcounter, ((sb_time s _).trans hsame).mono (by decide), fun h => ?_, fun h => ?_, hword, ?_⟩
  · rw [hword]; exact steer_below h _
  · rw [hword]; exact steer_above h _
  · change if s.time.state = .locked then _ else _ at hstate
    by_cases hlocked : s.time.state = .locked
    · rw [if_pos hlocked] at hstate ⊢
      exact hstate
    rw [if_neg hlocked] at hstate ⊢
    by_cases hwide : 4096 < offset.natAbs
    · rw [if_pos hwide] at hstate ⊢
      exact hstate
    rw [if_neg hwide] at hstate ⊢
    by_cases hhold : s.time.state = .holdover
    · rw [if_pos (.inl hhold)]
      simpa [TimeEngine.noted, hhold] using hstate
    · simpa [TimeEngine.noted, hhold] using hstate
end

section
/-! SUPPORT and PROOFS. The time engine: silence and holdover, beat marks, boundaries, announcements (R27, R31 to R39, R378). -/

namespace Sys2Proof.Machine

/-! ### Holdover and loss -/

theorem State.hold_spec (s : State) : s.hold.time = { s.time with state := .holdover, freqWord := s.time.lockedWord, lockCount := 0 }
    ∧ SameBut [.time, .log, .host, .ctr, .out] s s.hold ∧ (s.start.wardenHeld = false → Raised s.hold wardenSrc 0x6101) :=
  ⟨by simp [State.hold], ((sb_time s _).trans (sameBut_event _ _ _ _)).mono (by decide), fun h => raised_event _ _ _ _ h⟩

/-! ### Marks of peers -/

theorem sb_modPort (s : State) (n : Nat) (f : SkidPort → SkidPort) : SameBut [.skid] s (s.modPort n f) := by
  intro p hp
  cases p with
  | skid => exact absurd (by decide) hp
  | _ => rfl
/-- What a mark's offset does to its port's record. -/
theorem State.notePeer_spec (s : State) (port : Nat) (offset : Int) : let u := s.notePeer port offset
    SameBut [.time, .log, .host, .ctr, .out] s u ∧ sget 0 u.time.peerOffset port = offset ∧ u.time.counter = s.time.counter
      ∧ (sget 0 u.time.peerSkew port = if 16384 < offset.natAbs then sget 0 s.time.peerSkew port + 1 else 0)
      ∧ (sget 0 u.time.peerSkew port = 64 → s.start.wardenHeld = false → Raised u wardenSrc 0x6104) := by
  have hwide : decide (offset < -quarterBeat ∨ quarterBeat < offset) = decide (16384 < offset.natAbs) := by
    unfold quarterBeat
    simp only [decide_eq_decide]
    omega
  unfold State.notePeer
  rw [hwide]
  simp only [decide_eq_true_eq]
  generalize (if 16384 < offset.natAbs then sget 0 s.time.peerSkew port + 1 else 0) = run
  by_cases hrun : run = 64
  · rw [if_pos hrun]
    refine ⟨((sb_time s _).trans (sameBut_event _ _ _ _)).mono (by decide), by simp, by simp, by simp, fun _ h => raised_event _ _ _ _ h⟩
  · rw [if_neg hrun]
    refine ⟨(sb_time s _).mono (by decide), sget_sset_same _ _ _ _, rfl, sget_sset_same _ _ _ _, fun h => ?_⟩
    exact absurd ((sget_sset_same _ _ _ _).symm.trans h) hrun

/-! ### The next beat boundary -/

/-- The engine reaches the first cycle at or past the boundary. -/
theorem toBoundary_bounds {s : State} (h : TimeOk s.time) : (s.beat + 1) * 2 ^ 48 ≤ s.time.counter + s.toBoundary * s.time.freqWord
    ∧ s.time.counter + s.toBoundary * s.time.freqWord < (s.beat + 1) * 2 ^ 48 + s.time.freqWord := by
  obtain ⟨-, ⟨hlow, -⟩, -⟩ := h
  have hpos : 0 < s.time.freqWord := Nat.lt_of_lt_of_le (by decide) hlow
  have hbeat : s.time.counter < (s.beat + 1) * 2 ^ 48 := by unfold State.beat State.stamp; omega
  unfold State.toBoundary
  generalize (s.beat + 1) * 2 ^ 48 = b at *
  have hle := Nat.div_mul_le_self (b - s.time.counter + s.time.freqWord - 1) s.time.freqWord
  have hlt := Nat.lt_div_mul_add (a := b - s.time.counter + s.time.freqWord - 1) hpos
  omega

@[simp] theorem TimeEngine.pass_frame (t : TimeEngine) (c n : Nat) : (t.pass c n).counter = c ∧ (t.pass c n).cycles = t.cycles + n
    ∧ (t.pass c n).state = t.state ∧ (t.pass c n).marks = t.marks := ⟨rfl, rfl, rfl, rfl⟩

/-! ### The best transmitter -/

/-- Lists of numbers are compared in lexicographic order. -/
theorem listLt_iff (a b : List Nat) : listLt a b = true ↔ a < b := by
  induction a generalizing b with
  | nil => cases b <;> simp [listLt]
  | cons x a ih =>
    cases b with
    | nil => simp [listLt]
    | cons y b =>
      unfold listLt
      rw [List.cons_lt_cons_iff, ← ih]
      split_ifs with hxy hyx
      · simp [hxy]
      · simp [hxy, (Nat.ne_of_lt hyx).symm]
      · simp [show x = y by omega]
theorem listLt_false_iff (a b : List Nat) : listLt a b = false ↔ b ≤ a := by
  rw [← not_lt, ← listLt_iff, Bool.not_eq_true]
/-- The one that is kept ranks no worse than any it was compared with. -/
theorem foldl_best (as : List Announced) (a : Announced) : let b := as.foldl (fun x y => if listLt y.rank x.rank then y else x) a
    b ∈ a :: as ∧ ∀ e ∈ a :: as, b.rank ≤ e.rank := by
  induction as generalizing a with
  | nil => exact ⟨List.mem_singleton_self a, fun e he => by rw [List.mem_singleton.1 he]; exact le_refl _⟩
  | cons y as ih =>
    rw [List.foldl_cons]
    by_cases hlt : listLt y.rank a.rank = true
    · obtain ⟨hmem, hbest⟩ := ih y
      rw [if_pos hlt]
      refine ⟨List.mem_cons_of_mem _ hmem, fun e he => ?_⟩
      obtain rfl | he := List.mem_cons.1 he
      · exact (hbest y List.mem_cons_self).trans ((listLt_iff _ _).1 hlt).le
      · exact hbest e he
    · obtain ⟨hmem, hbest⟩ := ih a
      rw [if_neg hlt]
      have hle : a.rank ≤ y.rank := (listLt_false_iff _ _).1 (by simpa using hlt)
      refine ⟨?_, fun e he => ?_⟩
      · obtain h | h := List.mem_cons.1 hmem
        · exact List.mem_cons.2 (.inl h)
        · exact List.mem_cons_of_mem _ (List.mem_cons_of_mem _ h)
      · obtain rfl | he := List.mem_cons.1 he
        · exact hbest _ List.mem_cons_self
        obtain rfl | he := List.mem_cons.1 he
        · exact (hbest _ List.mem_cons_self).trans hle
        · exact hbest e (List.mem_cons_of_mem _ he)
theorem best_spec {l : List Announced} (h : l ≠ []) : ∃ b ∈ l, best l = some b ∧ ∀ a ∈ l, listLt a.rank b.rank = false := by
  cases l with
  | nil => exact absurd rfl h
  | cons a as =>
    obtain ⟨hmem, hbest⟩ := foldl_best as a
    exact ⟨_, hmem, rfl, fun e he => (listLt_false_iff _ _).2 (hbest e he)⟩

/-- The transmitters heard, with one that has announced itself now. -/
def TimeEngine.hear (t : TimeEngine) (a : Announced) : List Announced :=
  (t.heard.filter fun h => decide (h.sender ≠ a.sender ∧ t.cycles ≤ h.last + announceTimeout * h.interval)) ++ [a]
theorem mem_hear (t : TimeEngine) (a e : Announced) : e ∈ t.hear a ↔ e = a ∨ (e ∈ t.heard ∧ e.sender ≠ a.sender ∧ t.cycles ≤ e.last + 3 * e.interval) := by
  rw [TimeEngine.hear, List.mem_append, List.mem_filter, List.mem_singleton, decide_eq_true_eq, or_comm]
  rfl
/-- An announcement of the domain is taken. -/
def State.takeAnnounced (s : State) (a : Announced) : State :=
  let sel := (best (s.time.hear a)).map fun h => h.sender
  let t := { s.time with heard := s.time.hear a, selected := sel }
  { s.rxFrame with time := if sel = s.time.selected ∨ s.active 0x7000 1 0 = 1 then t else { t with interval := 4000000000 } }
theorem State.takeAnnounced_spec (s : State) (a : Announced) : (s.takeAnnounced a).time.heard = s.time.hear a
    ∧ (s.takeAnnounced a).time.selected = (best (s.time.hear a)).map (fun h => h.sender)
    ∧ (s.takeAnnounced a).time.counter = s.time.counter ∧ (s.takeAnnounced a).count kFramesRx = s.count kFramesRx + 1 := by
  unfold State.takeAnnounced
  dsimp only
  refine ⟨?_, ?_, ?_, s.rxFrame_count⟩ <;> split <;> rfl

end Sys2Proof.Machine
end

section
open Sys2Proof Sys2Proof.Machine

/-- Settles O22: silence from lock, ten seconds of holdover, a counter at its end. -/
theorem silenceAndHoldoverEndLock : Obligations.SilenceAndHoldoverEndLock := by
  unfold Obligations.SilenceAndHoldoverEndLock
  refine fun s => ⟨fun hsilent hstate => ?_, fun hstate hten => ?_, fun hend => ?_⟩
  · have hexec : exec .sourceLost s = .next (if s.time.state = .locked ∨ s.time.everLocked = true then s.hold
        else { s with time := { s.time with state := .unlocked, valid := false, lockCount := 0 } }) := by
      show execSourceLost s = _
      unfold execSourceLost
      rw [if_neg (by simp [hsilent])]
      obtain h | h := hstate
      · simp [h]
      · simp [h]
    refine ⟨_, hexec, ?_⟩
    by_cases hlock : s.time.state = .locked ∨ s.time.everLocked = true
    · obtain ⟨htime, hsame, hraised⟩ := s.hold_spec
      rw [if_pos hlock, if_pos hlock, htime]
      exact ⟨rfl, hsame, rfl, rfl, hraised⟩
    · rw [if_neg hlock, if_neg hlock]
      exact ⟨rfl, (sb_time s _).mono (by decide), rfl, rfl⟩
  · have hexec : exec .holdoverExpired s = .next _ := congrArg Host.Outcome.next (if_pos ⟨hstate, hten⟩)
    obtain ⟨hfaulted, hlatch, -⟩ := State.fault_spec { s with time := { s.time with state := .lost } } wardenSrc 0x6102 []
    exact ⟨_, hexec, by simp, by simp, hfaulted, hlatch⟩
  · have hexec : exec .beatOverflow s = .next _ := congrArg Host.Outcome.next (if_pos hend)
    obtain ⟨hfaulted, hlatch, -⟩ := s.fault_spec wardenSrc 0x6102 []
    exact ⟨_, hexec, by simp, hfaulted, hlatch⟩

/-- The first clause of O23: the mark of a peer. -/
theorem marksGivePeerOffsets (s : State) (port : Nat) (f : SkidFrame) : ∃ t, exec (.beatMark port f) s = .next t ∧
    if (s.port port).state ≠ .up then t = s
    else if crcOk f = false then (t.port port).crcMismatch = true ∧ t.time = s.time ∧ SameBut [.skid] s t
    else ∃ u, SameBut [.time, .skid, .log, .host, .ctr, .out] s u
      ∧ sget 0 u.time.peerOffset port = (s.stamp : Int) - fieldAt f.payload 0 8 - (s.port port).delay
      ∧ u.time.counter = s.time.counter ∧ (u.port port).framesRx = (s.port port).framesRx + 1
      ∧ (sget 0 u.time.peerSkew port = if 16384 < (sget 0 u.time.peerOffset port).natAbs then sget 0 s.time.peerSkew port + 1 else 0)
      ∧ (sget 0 u.time.peerSkew port = 64 → s.start.wardenHeld = false → Raised u wardenSrc 0x6104)
      ∧ if s.active 0x7000 1 0 = 1 ∧ s.active 0x7000 2 0 = port then exec (.sourceUpdate (sget 0 u.time.peerOffset port) 0) u = .next t
        else t = u := by
  refine ⟨_, rfl, ?_⟩
  by_cases hup : (s.port port).state ≠ .up
  · rw [if_pos hup, if_pos hup]
  rw [if_neg hup, if_neg hup]
  by_cases hcrc : crcOk f = false
  · rw [if_pos hcrc, if_pos (by simp [hcrc])]
    exact ⟨by rw [State.modPort_port], rfl, sb_modPort _ _ _⟩
  rw [if_neg hcrc, if_neg (by simpa using hcrc)]
  have hport := s.modPort_port port fun p => { p with framesRx := p.framesRx + 1 }
  have hsame := sb_modPort s port fun p => { p with framesRx := p.framesRx + 1 }
  have hoffset : ((s.modPort port fun p => { p with framesRx := p.framesRx + 1 }).stamp : Int) - fieldAt f.payload 0 8
      - ((s.modPort port fun p => { p with framesRx := p.framesRx + 1 }).port port).delay
      = (s.stamp : Int) - fieldAt f.payload 0 8 - (s.port port).delay := by rw [hport]; rfl
  dsimp only
  rw [hoffset]
  generalize (s.modPort port fun p => { p with framesRx := p.framesRx + 1 }) = v at *
  generalize (s.stamp : Int) - fieldAt f.payload 0 8 - (s.port port).delay = offset
  obtain ⟨hsame', hpeer, hcounter, hskew, hraised⟩ := v.notePeer_spec port offset
  have htime : v.time = s.time := hsame .time (by decide)
  have hactive (i j : Nat) : (v.notePeer port offset).active i j 0 = s.active i j 0 := by
    have htally : (v.notePeer port offset).tally = s.tally := (hsame' .tally (by decide)).trans (hsame .tally (by decide))
    unfold State.active; rw [htally]
  refine ⟨v.notePeer port offset, (hsame.trans hsame').mono (by decide), hpeer, by rw [hcounter, htime], ?_, by rw [hpeer, hskew, htime], ?_, ?_⟩
  · have hskid : (v.notePeer port offset).skid = v.skid := hsame' .skid (by decide)
    have hp : (v.notePeer port offset).port port = v.port port := by unfold State.port; rw [hskid]
    rw [hp, hport]
  · exact fun h hheld => hraised h (by rw [hsame .start (by decide)]; exact hheld)
  · rw [hpeer, hactive, hactive]
    by_cases hsel : s.active 0x7000 1 0 = 1 ∧ s.active 0x7000 2 0 = port
    · rw [if_pos hsel, if_pos hsel]
      show Host.Outcome.next (State.timeUpdate _ _ (if (v.notePeer port offset).active 0x7000 1 0 = 1 then 4096 else _)) = _
      rw [if_pos (by rw [hactive]; exact hsel.1)]
    · rw [if_neg hsel, if_neg hsel]

/-- The second clause of O23: time runs to the boundary of a beat. -/
theorem timeRunsToTheBoundary (s : State) (hroom : (s.beat + 1) * 2 ^ 48 < counterEnd) (hok : TimeOk s.time) :
    ∃ t, exec .beatBoundary s = .next t ∧ SameBut [.time, .log, .skid, .out] s t ∧ t.beat = s.beat + 1
      ∧ t.time.counter = s.time.counter + s.toBoundary * s.time.freqWord ∧ t.time.cycles = s.time.cycles + s.toBoundary
      ∧ t.time.counter < (s.beat + 1) * 2 ^ 48 + s.time.freqWord ∧ t.time.state = s.time.state
      ∧ t.time.marks = s.time.marks + 1 ∧ t.out.getLast? = some (.spineMark t.stamp) := by
  have hexec : exec .beatBoundary s = .next (s.advance s.toBoundary) := congrArg Host.Outcome.next (if_neg (Nat.not_le.2 hroom))
  obtain ⟨hreach, hbound⟩ := toBoundary_bounds hok
  obtain ⟨-, ⟨-, hword⟩, -⟩ := hok
  have hspan : s.time.freqWord < 2 ^ 48 := Nat.lt_of_le_of_lt hword (by decide)
  have hsteps : s.time.counter + s.toBoundary * s.time.freqWord < counterEnd := by unfold counterEnd at hroom ⊢; omega
  have hbeat : (s.time.counter + s.toBoundary * s.time.freqWord) / 2 ^ 32 / 2 ^ 16 = s.beat + 1 := by omega
  obtain ⟨-, -, hacross⟩ := s.advance_spec s.toBoundary
  have ht : s.advance s.toBoundary = _ := hacross hsteps (by omega)
  refine ⟨_, hexec, sb_next hexec rfl, ?_⟩
  rw [ht]
  obtain ⟨htime, hlast⟩ := State.sendMarks_spec { s with time := s.time.pass (s.time.counter + s.toBoundary * s.time.freqWord) s.toBoundary }
  have hstamp : (State.sendMarks { s with time := s.time.pass (s.time.counter + s.toBoundary * s.time.freqWord) s.toBoundary }).stamp
      = (s.time.counter + s.toBoundary * s.time.freqWord) / 2 ^ 32 := by
    simp only [State.stamp, htime, TimeEngine.pass_frame]
  refine ⟨?_, ?_, ?_, ?_, ?_, ?_, ?_⟩
  · unfold State.beat; rw [hstamp]; exact hbeat
  all_goals simp only [htime, hlast, TimeEngine.pass_frame, State.stamp]
  exact hbound

/-- The third clause of O23: the announcements of the domain. -/
theorem announcementsSelectASource (s : State) (sender domain identity p1 clockClass accuracy variance p2 removed : Nat) (log : Int) :
    ∃ t, exec (.announceMessage sender domain identity p1 clockClass accuracy variance p2 removed log) s = .next t
      ∧ SameBut [.time, .ctr] s t ∧ t.count kFramesRx = s.count kFramesRx + 1 ∧ t.time.counter = s.time.counter ∧
      if domain ≠ s.active 0x7000 3 0 then t.time = s.time
      else (∀ a, a ∈ t.time.heard ↔ a = ⟨sender, [p1, clockClass, accuracy, variance, p2, identity, removed, sender], s.time.cycles,
          announceInterval log⟩ ∨ (a ∈ s.time.heard ∧ a.sender ≠ sender ∧ s.time.cycles ≤ a.last + 3 * a.interval))
        ∧ ∃ b ∈ t.time.heard, t.time.selected = some b.sender ∧ ∀ a ∈ t.time.heard, listLt a.rank b.rank = false := by
  have hexec : exec (.announceMessage sender domain identity p1 clockClass accuracy variance p2 removed log) s = .next _ := rfl
  refine ⟨_, hexec, sameBut_of_next hexec, ?_⟩
  by_cases hother : domain ≠ s.active 0x7000 3 0
  · rw [if_pos hother, if_pos (show domain ≠ s.rxFrame.active 0x7000 3 0 from hother)]
    exact ⟨s.rxFrame_count, rfl, rfl⟩
  rw [if_neg hother, if_neg (show ¬ domain ≠ s.rxFrame.active 0x7000 3 0 from hother)]
  let a : Announced := ⟨sender, [p1, clockClass, accuracy, variance, p2, identity, removed, sender], s.time.cycles, announceInterval log⟩
  obtain ⟨hheard, hsel, hcounter, hcount⟩ := s.takeAnnounced_spec a
  obtain ⟨b, hb, hbest, hrank⟩ := best_spec (l := s.time.hear a) (by simp [TimeEngine.hear])
  change (s.takeAnnounced a).count _ = _ ∧ (s.takeAnnounced a).time.counter = _ ∧ (∀ e, e ∈ (s.takeAnnounced a).time.heard ↔ _)
    ∧ ∃ b ∈ (s.takeAnnounced a).time.heard, (s.takeAnnounced a).time.selected = _ ∧ ∀ e ∈ (s.takeAnnounced a).time.heard, _
  rw [hheard, hsel, hbest]
  exact ⟨hcount, hcounter, mem_hear s.time a, b, hb, rfl, hrank⟩

/-- Settles O23: its three clauses. -/
theorem beatsAreMarkedAndCompared : Obligations.BeatsAreMarkedAndCompared := by
  unfold Obligations.BeatsAreMarkedAndCompared
  exact ⟨marksGivePeerOffsets, timeRunsToTheBoundary, announcementsSelectASource⟩
end

section
/-! SUPPORT and PROOFS. The job: loading a plan and the job commands (R59 to R65, R73 to R75, R249, R269). -/

namespace Sys2Proof.Machine

theorem sb_job (s : State) (j : Job) : SameBut [.job] s { s with job := j } := by
  intro p hp
  cases p with
  | job => exact absurd (by decide) hp
  | _ => rfl

/-! ### Ranges set to zero -/

theorem sget_filter {v : Type} (d : v) (m : List (Nat × v)) (p : Nat → Bool) (k : Nat) :
    sget d (m.filter fun e => p e.1) k = if p k then sget d m k else d := by
  induction m with
  | nil => simp [sget]
  | cons e m ih =>
    obtain ⟨a, x⟩ := e
    by_cases ha : p a = true
    · rw [show ((a, x) :: m).filter (fun e => p e.1) = (a, x) :: m.filter fun e => p e.1 from List.filter_cons_of_pos ha]
      by_cases hk : a = k
      · simp [sget, ← hk, ha]
      · simp [sget, hk, ih]
    · rw [show ((a, x) :: m).filter (fun e => p e.1) = m.filter fun e => p e.1 from List.filter_cons_of_neg ha, ih]
      by_cases hk : a = k
      · simp [← hk, ha]
      · simp [sget, hk]
theorem readByte_clearRange (m : List (Nat × Byte)) (a n x : Nat) :
    readByte (clearRange m a n) x = if x < a ∨ a + n ≤ x then readByte m x else 0#8 := by
  unfold readByte clearRange
  rw [sget_filter 0#8 m fun k => decide (k < a) || decide (a + n ≤ k)]
  simp only [Bool.or_eq_true, decide_eq_true_eq]
theorem readByte_clearRange_zero {m : List (Nat × Byte)} {x : Nat} (h : readByte m x = 0#8) (a n : Nat) :
    readByte (clearRange m a n) x = 0#8 := by
  rw [readByte_clearRange, h, ite_self]
theorem readByte_clearRange_in {a n x : Nat} (m : List (Nat × Byte)) (ha : a ≤ x) (hn : x < a + n) : readByte (clearRange m a n) x = 0#8 := by
  rw [readByte_clearRange, if_neg (by omega)]
/-- After some ranges have been cleared, every byte of each is zero. -/
theorem readByte_clearRanges {α : Type} (base size : α → Nat) (l : List α) (m : List (Nat × Byte)) {x : Nat}
    (h : readByte m x = 0#8 ∨ ∃ d ∈ l, base d ≤ x ∧ x < base d + size d) :
    readByte (l.foldl (fun m d => clearRange m (base d) (size d)) m) x = 0#8 := by
  induction l generalizing m with
  | nil =>
    obtain h | ⟨d, hd, -⟩ := h
    · exact h
    · exact absurd hd List.not_mem_nil
  | cons e l ih =>
    rw [List.foldl_cons]
    refine ih _ ?_
    obtain h | ⟨d, hd, hlo, hhi⟩ := h
    · exact .inl (readByte_clearRange_zero h _ _)
    · obtain rfl | hd := List.mem_cons.1 hd
      · exact .inl (readByte_clearRange_in _ hlo hhi)
      · exact .inr ⟨d, hd, hlo, hhi⟩
/-- A load leaves SRAM and the gradient buffers zero. -/
theorem State.loadedMem_zero (s : State) (img : Bytes) (p : Plan) {a : Nat}
    (h : (sramBase ≤ a ∧ a < ctrlBase) ∨ ∃ d ∈ p.updates, udGrad d ≤ a ∧ a < udGrad d + 16 * udElems d) :
    readByte (s.loadedMem img p) a = 0#8 := by
  unfold State.loadedMem
  obtain ⟨hlo, hhi⟩ | hgrad := h
  · exact readByte_clearRange_in _ hlo (by omega)
  · exact readByte_clearRange_zero (readByte_clearRanges udGrad (fun d => 16 * udElems d) p.updates _ (.inr hgrad)) _ _

/-! ### Loading a plan -/

theorem State.linkRecords_sameBut (s : State) (l : List Nat) : SameBut [.log, .skid, .out] s (s.linkRecords l) :=
  State.linkRecords_touch (List.Subset.refl _) s l (Touch.refl _ s)
theorem State.linkRecords_ring (s : State) (l : List Nat) : (s.linkRecords l).log.ring = s.log.ring := by
  unfold State.linkRecords
  split
  · rfl
  · exact foldl_same (fun s : State => s.log.ring) _ _ _ fun s n => congrArg Prod.fst (s.sendOn_recorded _ _ _ _ _ _)

/-- What the installation of a plan leaves. -/
theorem State.install_spec (s : State) (img : Bytes) (h : s.start.wardenHeld = false) : let t := s.install img
    t.job.state = .loaded ∧ t.job.plan = some (s.planOf img) ∧ t.safe.latch = false ∧ t.safe.inhibit = false
      ∧ t.mem = s.loadedMem img (s.planOf img) ∧ Raised t wardenSrc 0x2100 := by
  unfold State.install
  dsimp only
  generalize hu : ({ s with mem := _, clusters := _, banks := _, limbers := _, stash := _, cow := _, job := _, upd := _, stats := _, ctr := _, sync := _, net := _, ingest := _, snap := _, safe := _, power := _ } : State) = u
  have hsame := (u.event wardenSrc 0x2100).linkRecords_sameBut (List.range 16)
  have hjob : ((u.event wardenSrc 0x2100).linkRecords (List.range 16)).job = u.job := (hsame .job (by decide)).trans (by simp)
  have hsafe : ((u.event wardenSrc 0x2100).linkRecords (List.range 16)).safe = u.safe := (hsame .safe (by decide)).trans (by simp)
  have hmem : ((u.event wardenSrc 0x2100).linkRecords (List.range 16)).mem = u.mem := (hsame .mem (by decide)).trans (by simp)
  rw [hjob, hsafe, hmem]
  refine ⟨by rw [← hu], by rw [← hu], by rw [← hu], by rw [← hu], by rw [← hu], ?_⟩
  have hraised := raised_event u wardenSrc 0x2100 [] (by rw [← hu]; exact h)
  unfold Raised at hraised ⊢
  rwa [State.linkRecords_ring]

/-- What a load that fails leaves. -/
theorem State.loadFails_spec (s : State) (r : Nat) (h : s.start.wardenHeld = false) : let t := s.loadFails r
    t.job = { s.job with loading := none, loadResult := r } ∧ Raised t wardenSrc 0x2101 ∧ SameBut [.job, .log, .host, .ctr, .out] s t :=
  ⟨by simp [State.loadFails], raised_event _ _ _ _ h, ((sb_job s _).trans (sameBut_event _ _ _ _)).mono (by decide)⟩

theorem State.hearing_job (s : State) (q : Req) : (s.hearing q).job = s.job := by simp
theorem State.hearing_flows (s : State) (q : Req) : (s.hearing q).host.flows = s.host.flows := by simp
theorem Answer.finish_job (a : Answer) (sid op : Nat) (q : Req) : (a.finish sid op q).job = a.s.job := by simp

/-- A load begins, where the module has no plan and has the time; else it fails at once. -/
def State.beginLoad (s : State) (slot : Nat) : State :=
  if s.job.state ≠ .empty then s.loadFails 1 else if s.time.state ≠ .locked then s.loadFails 2
  else { s with job := { s.job with loading := some slot } }
theorem State.beginLoad_spec (s : State) (slot : Nat) (h : s.start.wardenHeld = false) : let t := s.beginLoad slot
    t.job.plan = s.job.plan ∧ t.job.state = s.job.state ∧
      if s.job.state = .empty ∧ s.time.state = .locked then t.job.loading = some slot
      else t.job.loading = none ∧ t.job.loadResult = (if s.job.state = .empty then 2 else 1) ∧ Raised t wardenSrc 0x2101 := by
  unfold State.beginLoad
  dsimp only
  by_cases hempty : s.job.state = .empty
  · by_cases hlocked : s.time.state = .locked
    · rw [if_neg (not_not.2 hempty), if_neg (not_not.2 hlocked), if_pos ⟨hempty, hlocked⟩]
      exact ⟨rfl, rfl, rfl⟩
    · obtain ⟨hjob, hraised, -⟩ := s.loadFails_spec 2 h
      rw [if_neg (not_not.2 hempty), if_pos hlocked, if_neg (fun hgo => hlocked hgo.2), if_pos hempty, hjob]
      exact ⟨rfl, rfl, rfl, rfl, hraised⟩
  · obtain ⟨hjob, hraised, -⟩ := s.loadFails_spec 1 h
    rw [if_pos hempty, if_neg (fun hgo => hempty hgo.1), if_neg hempty, hjob]
    exact ⟨rfl, rfl, rfl, rfl, hraised⟩

end Sys2Proof.Machine
end

section
open Sys2Proof Sys2Proof.Machine

/-- Settles O24: a load begins, fails at once, is installed, or fails. -/
theorem plansLoadOrFail : Obligations.PlansLoadOrFail := by
  unfold Obligations.PlansLoadOrFail
  refine ⟨fun s q hfresh hin hwhole hslot hidle hflows => ?_, fun s slot hloading hheld => ?_⟩
  · have hidle' : (s.hearing q).host.flows.any (fun f => decide (f.channel = 1 ∧ f.sub = leNat q.data)) = false := by
      rw [State.hearing_flows, List.any_eq_false]
      simpa using hflows
    have hbusy : ¬ ((s.hearing q).job.loading.isSome = true
        ∨ ((s.hearing q).host.flows.any fun f => decide (f.channel = 1 ∧ f.sub = leNat q.data)) = true) := by
      rw [hidle', State.hearing_job, hidle]
      decide
    have hexec : exec (.planSlot q) s
        = .next ((accept (((s.hearing q).putValue (objKey 0x2000 4) q.data false).beginLoad (leNat q.data))).finish (s.sid q) 2 q) :=
      congrArg Host.Outcome.next ((s.serveWrite_session hfresh hin hwhole _).trans
        (congrArg (Answer.finish · (s.sid q) 2 q) ((if_neg (Nat.not_lt.2 hslot)).trans (if_neg hbusy))))
    obtain ⟨hplan, hstate, hload⟩ := ((s.hearing q).putValue (objKey 0x2000 4) q.data false).beginLoad_spec (leNat q.data)
      (by simpa [State.putValue] using hfresh.1.1)
    refine ⟨_, hexec, Answer.finish_answered _ _ _ _, sb_next hexec rfl, ?_⟩
    rw [Answer.finish_job]
    simp only [State.putValue_frame, State.hearing_frame] at hplan hstate hload
    refine ⟨hplan, hstate, ?_⟩
    by_cases hgo : s.job.state = .empty ∧ s.time.state = .locked
    · rw [if_pos hgo] at hload ⊢
      exact hload
    · rw [if_neg hgo] at hload ⊢
      exact ⟨hload.1, hload.2.1, raised_finish hload.2.2⟩
  · by_cases hok : s.planReason (sget [] s.host.library slot) = 0
    · have hexec : exec .planLoadComplete s = .next (s.install (sget [] s.host.library slot)) := by
        show execPlanLoadComplete s = _
        unfold execPlanLoadComplete
        rw [hloading]
        exact congrArg Host.Outcome.next (if_neg (not_not.2 hok))
      obtain ⟨hstate, hplan, hlatch, hinhibit, hmem, hraised⟩ := s.install_spec (sget [] s.host.library slot) hheld
      refine ⟨_, hexec, ?_⟩
      rw [if_pos hok, hmem]
      exact ⟨hstate, hplan, hlatch, hinhibit, hraised, fun a hlo hhi => State.loadedMem_zero _ _ _ (.inl ⟨hlo, hhi⟩),
        fun d hd i hi => State.loadedMem_zero _ _ _ (.inr ⟨d, hd, Nat.le_add_right _ _, Nat.add_lt_add_left hi _⟩)⟩
    · have hexec : exec .planLoadComplete s = .next (s.loadFails (s.planReason (sget [] s.host.library slot))) := by
        show execPlanLoadComplete s = _
        unfold execPlanLoadComplete
        rw [hloading]
        exact congrArg Host.Outcome.next (if_pos hok)
      obtain ⟨hjob, hraised, hsame⟩ := s.loadFails_spec (s.planReason (sget [] s.host.library slot)) hheld
      refine ⟨_, hexec, ?_⟩
      generalize s.planReason (sget [] s.host.library slot) = r at *
      rw [if_neg hok, hjob]
      exact ⟨rfl, rfl, rfl, rfl, hraised, hsame⟩
end

section
/-! SUPPORT and PROOFS. The job commands: `START`, `STOP`, `UNLOAD`, the pauses and `RESUME` (R63 to R67, R73 to R75). -/

namespace Sys2Proof.Machine

/-! ### The job, from all of it but the events raised once -/

theorem State.duty_plan (s : State) : s.duty.plan = s.job.plan := rfl

theorem job_of_duty (s : State) {j : Job} (h : s.duty = j) : s.job = { j with firsts := s.job.firsts } := by subst h; rfl

/-! ### A job command -/

@[simp] theorem accept_parts (s : State) : (accept s).s = s ∧ (accept s).abort = 0 ∧ (accept s).data = [] ∧ (accept s).last = true :=
  ⟨rfl, rfl, rfl, rfl⟩

theorem State.jobCommand_session {s : State} {q : Req} {n : Nat} (hfresh : Fresh s q) (hin : InSession s q) (hwhole : WholeWrite q 0x2000 1 1)
    (hdata : q.data = u8 n) (act : State → Answer) : s.jobCommand q n act = (act (s.hearing q)).finish (s.sid q) 2 q :=
  (if_pos hdata).trans (s.serveWrite_session hfresh hin hwhole _)
theorem Answer.finish_duty (a : Answer) (sid op : Nat) (q : Req) : (a.finish sid op q).duty = a.s.duty := by
  unfold State.duty; rw [a.finish_job]

/-- What a job command looks at is the same in the state in which it is heard. -/
theorem State.hearing_command (s : State) (q : Req) : (s.hearing q).commandBeat = s.commandBeat ∧ (s.hearing q).commandStep = s.commandStep
    ∧ (s.hearing q).beatAhead = s.beatAhead := by
  have hbeat : (s.hearing q).commandBeat = s.commandBeat := by unfold State.commandBeat State.rwValue; simp
  refine ⟨hbeat, by unfold State.commandStep State.rwValue; simp, ?_⟩
  funext n
  unfold State.beatAhead
  rw [hbeat, State.hearing_stamp]
theorem State.setDigest_congr {s t : State} (h : t.job.plan = s.job.plan) : t.setDigest = s.setDigest := by unfold State.setDigest; rw [h]
theorem State.ports_congr {s t : State} (hplan : t.job.plan = s.job.plan) (hskid : t.skid = s.skid) :
    t.usedPorts = s.usedPorts ∧ t.portUnready = s.portUnready := by
  have hpeer : t.peer = s.peer := by funext n; unfold State.peer; rw [hplan]
  have hport : t.port = s.port := by funext n; unfold State.port; rw [hskid]
  refine ⟨by unfold State.usedPorts; rw [hpeer], ?_⟩
  funext n
  unfold State.portUnready State.farDiffers State.jobId
  rw [State.setDigest_congr hplan, hport, hpeer, hplan]

/-! ### `START` -/

/-- A command goes out: it is this module's newest. -/
theorem State.sendCommand_duty (s : State) (kind beat step : Nat) :
    (s.sendCommand kind beat step).duty = { s.duty with myCmd := some ⟨kind, beat, step, s.setDigest⟩ } := by
  unfold State.sendCommand
  refine (foldl_duty _ _ _ fun s e => ?_).trans rfl
  exact duty_of_touch (State.sendOn_touch (List.Subset.refl _) _ _ _ _ _ _ _ (Touch.refl _ _)) (by decide)
/-- The job, as `START` leaves it. -/
def State.armedJob (s : State) : Job :=
  { s.job with state := .armed, startBeat := s.commandBeat, startStep := s.commandStep, frozenAt := none, frozenByPass := false, pauseTotal := 0,
               pendingPause := none, resumeAt := none, stopping := false, begun := none, steps := [] }
theorem State.floodPorts_job (s : State) (l : List Nat) : (s.floodPorts l).job = s.job :=
  State.floodPorts_touch (List.Subset.refl _) s l (Touch.refl _ s) .job (by decide)
theorem State.tryPair_duty (s : State) : s.tryPair.duty = s.duty :=
  duty_of_touch (State.tryPair_touch (List.Subset.refl _) _ (Touch.refl _ _)) (by decide)
theorem State.rearrive_duty (s : State) : s.rearrive.duty = s.duty :=
  duty_of_touch (State.rearrive_touch (List.Subset.refl _) _ (Touch.refl _ _)) (by decide)
/-- The state in which `START` sends its command. -/
def State.arming (s : State) : State := ({ s with job := s.armedJob } : State).rearrive.ingestArm
theorem State.arm_eq (s : State) : s.arm = ((s.arming.floodPorts s.arming.usedPorts).sendCommand 1 s.commandBeat s.commandStep).tryPair := rfl
theorem State.arming_duty (s : State) : s.arming.duty = { s.armedJob with firsts := [] } :=
  (State.ingestArm_duty _).trans (State.rearrive_duty _)
theorem State.arm_duty (s : State) :
    s.arm.duty = { s.armedJob with firsts := [], myCmd := some ⟨1, s.commandBeat, s.commandStep, s.setDigest⟩ } := by
  have hplan : (s.arming.floodPorts s.arming.usedPorts).job.plan = s.job.plan := by
    rw [State.floodPorts_job, ← State.duty_plan, s.arming_duty]; rfl
  have hflood : (s.arming.floodPorts s.arming.usedPorts).duty = { s.armedJob with firsts := [] } := by
    rw [← s.arming_duty]; unfold State.duty; rw [State.floodPorts_job]
  rw [State.arm_eq, State.tryPair_duty, State.sendCommand_duty, hflood, State.setDigest_congr hplan]

/-- With nothing against it `START` arms the job. -/
theorem State.startAnswer_accept {s : State} {p : Plan} (hplan : s.job.plan = some p) (hstate : s.job.state = .loaded)
    (hrestore : s.snap.restore.state ∉ [1, 3, 4]) (hstep : s.snap.restore.state = 2 → s.commandStep = s.rwValue 0x8130 1 0 + 1)
    (hbeat : s.beatAhead (p.leadSteps * p.stepBeats + 1024) = true) (hports : ∀ n ∈ s.usedPorts, s.portUnready n = false) :
    s.startAnswer = accept s.arm := by
  simp only [List.mem_cons, List.not_mem_nil, or_false, not_or] at hrestore
  obtain ⟨h1, h3, h4⟩ := hrestore
  have hready : ¬ (s.usedPorts.any s.portUnready) = true := by simpa using hports
  unfold State.startAnswer
  rw [hplan]
  dsimp only
  rw [if_neg (by simp [hstate, h1, h3, h4]), if_neg (fun h => h.2 (hstep h.1)), if_neg (by simp [hbeat]), if_neg hready]
/-- A port whose far end is the planned one is ready. -/
theorem State.portReady {s : State} {n : Nat} (h : (s.port n).state = .up ∧ (s.port n).farKnown = true ∧ (s.port n).farModule = (s.peer n).module
    ∧ (s.port n).farJob = s.jobId ∧ (s.port n).farDigest = s.setDigest) : s.portUnready n = false := by
  obtain ⟨hup, hknown, hmodule, hjob, hdigest⟩ := h
  simp [State.portUnready, State.farDiffers, hup, hknown, hmodule, hjob, hdigest]

/-! ### `STOP` and `UNLOAD` -/

/-- The job stops once its last step has cleared and no pause waits. -/
theorem State.checkStopped_job (s : State) : s.checkStopped.job =
    if s.job.stopping = true ∧ s.job.state = .running ∧ s.job.pendingPause = none ∧ ∀ k, s.job.begun = some k → s.hasCleared k = true
    then { s.job with state := .stopped, stopping := false } else s.job := by
  unfold State.checkStopped
  dsimp only
  cases s.job.begun with
  | none =>
    simp only [reduceCtorEq, false_implies, implies_true]
    split
    · simp
    · rfl
  | some k =>
    simp only [Option.some.injEq, forall_eq']
    split
    · simp
    · rfl
/-- The answer to `STOP`. -/
def State.stopAnswer (s : State) : Answer :=
  match s.job.state with
  | .armed => accept ({ s with job := { s.job with state := .stopped } }.event wardenSrc 0x2122).ingestStop
  | .running | .paused => accept ({ s with job := { s.job with stopping := true } }.ingestStop).checkStopped
  | _ => refuse s abState
theorem State.stopAnswer_armed {s : State} (h : s.job.state = .armed) : s.stopAnswer.abort = 0 ∧ s.stopAnswer.data = [] ∧ s.stopAnswer.last = true
    ∧ s.stopAnswer.s.duty = { s.duty with state := .stopped } := by
  have hanswer : s.stopAnswer = accept (({ s with job := { s.job with state := .stopped } } : State).event wardenSrc 0x2122).ingestStop := by
    unfold State.stopAnswer
    rw [h]
  have hduty := State.ingestStop_duty (({ s with job := { s.job with state := .stopped } } : State).event wardenSrc 0x2122)
  rw [hanswer]
  simp only [accept_parts, true_and]
  rw [hduty]
  unfold State.duty
  rw [State.event_job]
theorem State.stopAnswer_begun {s : State} (h : s.job.state = .running ∨ s.job.state = .paused) :
    s.stopAnswer.abort = 0 ∧ s.stopAnswer.data = [] ∧ s.stopAnswer.last = true ∧
      s.stopAnswer.s.duty = if s.job.state = .running ∧ s.job.pendingPause = none ∧ ∀ k, s.job.begun = some k → s.hasCleared k = true
        then { s.duty with state := .stopped, stopping := false } else { s.duty with stopping := true } := by
  have hanswer : s.stopAnswer = accept ({ s with job := { s.job with stopping := true } } : State).ingestStop.checkStopped := by
    unfold State.stopAnswer
    obtain h | h := h <;> rw [h]
  rw [hanswer]
  simp only [accept_parts, true_and]
  have hduty : _ = ({ s.job with stopping := true, firsts := [] } : Job) := State.ingestStop_duty { s with job := { s.job with stopping := true } }
  generalize State.ingestStop { s with job := { s.job with stopping := true } } = u at *
  have hcleared (k : Nat) : u.hasCleared k = s.hasCleared k := by unfold State.hasCleared; rw [job_of_duty u hduty]
  unfold State.duty
  rw [State.checkStopped_job, job_of_duty u hduty]
  simp only [hcleared, true_and]
  split
  · rfl
  · rfl

/-- What the discarding of a plan leaves. -/
theorem State.unload_spec (s : State) : s.unload.job.state = .empty ∧ s.unload.job.plan = none ∧ s.unload.safe.latch = s.safe.latch
    ∧ ∀ f ∈ s.unload.host.flows, f.channel ≠ 0 := by
  refine ⟨rfl, rfl, ?_, fun f hf => ?_⟩
  · have hsafe : s.closeIngest.safe = s.safe := State.closeIngest_touch (List.Subset.refl _) s (Touch.refl _ s) .safe (by decide)
    rw [← hsafe]; rfl
  · have hflows : s.closeIngest.host.flows = s.host.flows.filter fun f => f.channel ≠ 0 := by
      unfold State.closeIngest
      exact foldl_same (fun s : State => s.host.flows) _ _ _ fun s f => rfl
    change f ∈ s.closeIngest.host.flows at hf
    rw [hflows, List.mem_filter] at hf
    exact of_decide_eq_true hf.2

end Sys2Proof.Machine
end

section
open Sys2Proof Sys2Proof.Machine

/-- Settles O25: each command's answer, and the job it leaves. -/
theorem jobCommandsArmStopAndUnload : Obligations.JobCommandsArmStopAndUnload := by
  unfold Obligations.JobCommandsArmStopAndUnload
  intro s q hfresh hin hwhole
  have hjob := s.hearing_job q
  obtain ⟨hbeat, hstep, hahead⟩ := s.hearing_command q
  have hcommand (n : Nat) (hdata : q.data = u8 n) (act : State → Answer) := State.jobCommand_session hfresh hin hwhole hdata act
  refine ⟨fun p hdata hplan hstate hrestore hresume hlead hports => ?_, fun hdata hstate => ?_, fun hdata hstate => ?_⟩
  · obtain ⟨hused, hunready⟩ := State.ports_congr (s := s) (t := s.hearing q) (congrArg Job.plan hjob) (by simp)
    have haccept : (s.hearing q).startAnswer = accept (s.hearing q).arm := by
      refine State.startAnswer_accept (p := p) (by rw [hjob, hplan]) (by rw [hjob, hstate]) (by simpa using hrestore) ?_ ?_ ?_
      · rw [hstep]; unfold State.rwValue; simpa [State.rwValue] using hresume
      · rw [hahead]; exact decide_eq_true hlead
      · rw [hused, hunready]; exact fun n hn => State.portReady (hports n hn)
    have hexec : exec (.start q) s = .next ((accept (s.hearing q).arm).finish (s.sid q) 2 q) := by
      rw [← haccept]; exact congrArg Host.Outcome.next (hcommand 1 hdata _)
    have hduty := Answer.finish_duty (accept (s.hearing q).arm) (s.sid q) 2 q
    rw [(accept_parts _).1, State.arm_duty] at hduty
    refine ⟨_, hexec, Answer.finish_answered _ _ _ _, ?_⟩
    have hsame := sameBut_of_next hexec
    have hdigest := State.setDigest_congr (s := s) (t := s.hearing q) (congrArg Job.plan hjob)
    generalize (accept (s.hearing q).arm).finish (s.sid q) 2 q = t at *
    rw [job_of_duty t hduty]
    unfold State.armedJob
    rw [hbeat, hstep, hdigest, hjob]
    exact ⟨rfl, hplan, rfl, rfl, rfl, rfl, rfl, hsame⟩
  · have hexec : exec (.stop q) s = .next (((s.hearing q).stopAnswer).finish (s.sid q) 2 q) := congrArg Host.Outcome.next (hcommand 5 hdata _)
    have hans := Answer.finish_answered (s.hearing q).stopAnswer (s.sid q) 2 q
    have hduty := Answer.finish_duty (s.hearing q).stopAnswer (s.sid q) 2 q
    have hsame := sameBut_of_next hexec
    have hsduty : (s.hearing q).duty = s.duty := by unfold State.duty; rw [hjob]
    have hcleared (k : Nat) : (s.hearing q).hasCleared k = s.hasCleared k := by unfold State.hasCleared; rw [hjob]
    refine ⟨_, hexec, ?_⟩
    by_cases harmed : s.job.state = .armed
    · obtain ⟨habort, hdata', hlast, hstop⟩ := State.stopAnswer_armed (s := s.hearing q) (by rw [hjob, harmed])
      rw [habort, hdata', hlast] at hans
      rw [hstop, hsduty] at hduty
      generalize ((s.hearing q).stopAnswer).finish (s.sid q) 2 q = t at *
      rw [if_pos (.inl harmed), job_of_duty t hduty]
      exact ⟨hans, rfl, rfl, hsame, rfl⟩
    · obtain ⟨habort, hdata', hlast, hstop⟩ := State.stopAnswer_begun (s := s.hearing q) (by rw [hjob]; exact hstate.resolve_left harmed)
      rw [habort, hdata', hlast] at hans
      rw [hstop, hsduty, hjob] at hduty
      simp only [hcleared] at hduty
      generalize ((s.hearing q).stopAnswer).finish (s.sid q) 2 q = t at *
      by_cases hend : s.job.state = .running ∧ s.job.pendingPause = none ∧ ∀ k, s.job.begun = some k → s.hasCleared k = true
      · rw [if_pos hend] at hduty
        rw [if_pos (.inr hend), job_of_duty t hduty]
        exact ⟨hans, rfl, rfl, hsame, rfl⟩
      · rw [if_neg hend] at hduty
        rw [if_neg (not_or.2 ⟨harmed, hend⟩), job_of_duty t hduty]
        exact ⟨hans, rfl, rfl, hsame, rfl, rfl⟩
  · have hexec : exec (.unload q) s = .next ((accept (s.hearing q).unload).finish (s.sid q) 2 q) := by
      refine congrArg Host.Outcome.next ((hcommand 6 hdata _).trans (congrArg (Answer.finish · (s.sid q) 2 q) ?_))
      rw [hjob]
      obtain h | h | h := hstate <;> rw [h]
    obtain ⟨hempty, hnone, hlatch, hflows⟩ := (s.hearing q).unload_spec
    refine ⟨_, hexec, Answer.finish_answered _ _ _ _, ?_, ?_, ?_, ?_, sameBut_of_next hexec⟩
    · rw [Answer.finish_job]; exact hempty
    · rw [Answer.finish_job]; exact hnone
    · rw [finish_part _ _ _ _ .safe (by decide)]; exact hlatch.trans (by simp)
    · simpa using hflows
end

section
/-! SUPPORT and PROOFS. Pauses and `RESUME` (R66, R73 to R75). -/

namespace Sys2Proof.Machine

theorem sb_job_clusters (s : State) (j : Job) (c : List (Nat × Cluster)) : SameBut [.job, .clusters] s { s with job := j, clusters := c } := by
  intro p hp
  cases p with
  | job => exact absurd (by decide) hp
  | clusters => exact absurd (by decide) hp
  | _ => rfl

/-- The pause that a command asks for, at the present command beat. -/
def State.pauseAsked (s : State) (pass : Bool) : PendPause :=
  if (pass && s.inPasses (s.commandBeat - s.job.pauseTotal)) = true then ⟨true, s.commandBeat⟩ else ⟨false, s.boundaryAt s.commandBeat⟩
theorem State.pauseAnswer_accept {s : State} (hstate : s.job.state = .running) (hnone : s.job.pendingPause = none)
    (hahead : s.beatAhead 1024 = true) (pass : Bool) : s.pauseAnswer pass =
      accept (({ s with job := { s.job with pendingPause := some (s.pauseAsked pass) } } : State).sendCommand (if pass then 3 else 2) s.commandBeat 0) := by
  unfold State.pauseAnswer State.pauseAsked
  dsimp only
  rw [if_neg (by simp [hstate]), if_neg (by simp [hnone]), if_neg (by simp [hahead])]
  cases (pass && s.inPasses (s.commandBeat - s.job.pauseTotal)) <;> rfl
/-- An accepted pause pends; the job runs on. -/
theorem State.pauseAnswer_duty (s : State) (pass : Bool) (n b : Nat) :
    let t := ({ s with job := { s.job with pendingPause := some (s.pauseAsked pass) } } : State).sendCommand n b 0
    t.job.pendingPause = some (s.pauseAsked pass) ∧ t.job.state = s.job.state := by
  dsimp only
  have hduty := State.sendCommand_duty { s with job := { s.job with pendingPause := some (s.pauseAsked pass) } } n b 0
  generalize State.sendCommand { s with job := { s.job with pendingPause := some (s.pauseAsked pass) } } n b 0 = t at *
  rw [job_of_duty t hduty]
  exact ⟨rfl, rfl⟩
theorem State.pauseAsked_hearing (s : State) (q : Req) : (s.hearing q).pauseAsked = s.pauseAsked := by
  obtain ⟨hbeat, -, -⟩ := s.hearing_command q
  funext pass
  unfold State.pauseAsked State.inPasses State.boundaryAt
  rw [hbeat, s.hearing_job]

/-- A pause takes effect. -/
def State.paused (s : State) (p : PendPause) : State :=
  ({ s with job := { s.job with state := .paused, frozenAt := some p.beat, frozenByPass := p.pass, pendingPause := none },
            clusters := smap {} (fun c : Cluster => { c with pauseSpilled := false }) s.clusters } : State).event wardenSrc 0x2120
theorem exec_pauseTakesEffect {s : State} {p : PendPause} (hstate : s.job.state = .running) (hpending : s.job.pendingPause = some p)
    (hreached : p.beat * 2 ^ 16 ≤ s.stamp) (hdone : p.pass = true ∨ s.stepDone = true) (hagree : s.commandsAgree = true) :
    exec .pauseTakesEffect s = .next (s.paused p) := by
  show execPauseTakesEffect s = _
  have hpoint : s.pauseReached = true := by unfold State.pauseReached; rw [hpending]; exact decide_eq_true hreached
  unfold execPauseTakesEffect
  rw [hpending]
  dsimp only
  rw [if_neg (by simp only [hstate, hpoint]; obtain h | h := hdone <;> simp [h]), if_neg (by simp [hagree])]
  rfl

/-- A pause ends. -/
def State.resumed (s : State) (b f : Nat) : State :=
  let restore (c : Cluster) : Cluster := if s.job.frozenByPass then (c.resumeRestore 0).resumeRestore 1 else c
  ({ s with job := { s.job with state := .running, frozenAt := none, frozenByPass := false, resumeAt := none,
                                pauseTotal := s.job.pauseTotal + (b - f) },
            clusters := smap {} (fun c => { restore c with pauseSpilled := false }) s.clusters } : State).event wardenSrc 0x2121
theorem State.checkStopped_going {s : State} (h : s.job.stopping = false) : s.checkStopped = s := by
  unfold State.checkStopped
  exact if_neg (by simp [h])
theorem exec_resumeTakesEffect {s : State} {b f : Nat} (hstate : s.job.state = .paused) (hresume : s.job.resumeAt = some b)
    (hfrozen : s.job.frozenAt = some f) (hreached : b * 2 ^ 16 ≤ s.stamp) (hagree : s.commandsAgree = true) (hgoing : s.job.stopping = false) :
    exec .resumeTakesEffect s = .next (s.resumed b f) := by
  show execResumeTakesEffect s = _
  have hjob : (s.resumed b f).job.stopping = false := by unfold State.resumed; simp [hgoing]
  unfold execResumeTakesEffect
  rw [hresume, hfrozen]
  dsimp only
  rw [if_neg (not_or.2 ⟨not_not.2 hstate, Nat.not_lt.2 hreached⟩), if_neg (by simp [hagree])]
  exact congrArg Host.Outcome.next (State.checkStopped_going hjob)

end Sys2Proof.Machine
end

section
open Sys2Proof Sys2Proof.Machine

/-- Settles O26: pauses pend, take effect, and end. -/
theorem pausesFreezePlanTime : Obligations.PausesFreezePlanTime := by
  unfold Obligations.PausesFreezePlanTime
  refine ⟨fun s q hfresh hin hwhole hahead => ?_, fun s p hstate hpending hreached hdone hagree hheld => ?_,
    fun s b f hstate hresume hfrozen hreached hagree hgoing hheld => ?_⟩
  · have hjob := s.hearing_job q
    obtain ⟨hbeat, -, hbeats⟩ := s.hearing_command q
    have hcommand (n : Nat) (hdata : q.data = u8 n) (act : State → Answer) := State.jobCommand_session hfresh hin hwhole hdata act
    have haccept (pass : Bool) (hstate : s.job.state = .running) (hnone : s.job.pendingPause = none) :=
      State.pauseAnswer_accept (s := s.hearing q) (by rw [hjob, hstate]) (by rw [hjob, hnone]) (by rw [hbeats, hahead]) pass
    refine ⟨fun hdata hstate hnone => ?_, fun hdata hstate hnone => ?_, fun hdata hstate => ?_⟩
    · have hexec : exec (.pauseStep q) s = .next _ := congrArg Host.Outcome.next ((hcommand 2 hdata fun s => s.pauseAnswer false).trans
        (congrArg (Answer.finish · (s.sid q) 2 q) (haccept false hstate hnone)))
      obtain ⟨hpending, hrunning⟩ := (s.hearing q).pauseAnswer_duty false (if false then 3 else 2) (s.hearing q).commandBeat
      refine ⟨_, hexec, Answer.finish_answered _ _ _ _, ?_, ?_, sameBut_of_next hexec⟩
      · rw [Answer.finish_job, (accept_parts _).1, hpending, State.pauseAsked_hearing]; rfl
      · rw [Answer.finish_job, (accept_parts _).1, hrunning, hjob, hstate]
    · have hexec : exec (.pausePass q) s = .next _ := congrArg Host.Outcome.next ((hcommand 3 hdata fun s => s.pauseAnswer true).trans
        (congrArg (Answer.finish · (s.sid q) 2 q) (haccept true hstate hnone)))
      obtain ⟨hpending, hrunning⟩ := (s.hearing q).pauseAnswer_duty true (if true then 3 else 2) (s.hearing q).commandBeat
      refine ⟨_, hexec, Answer.finish_answered _ _ _ _, ?_, sameBut_of_next hexec, ?_⟩
      · rw [Answer.finish_job, (accept_parts _).1, hrunning, hjob, hstate]
      · rw [Answer.finish_job, (accept_parts _).1, hpending, State.pauseAsked_hearing]
        unfold State.pauseAsked
        rw [Bool.true_and]
    · have hexec : exec (.resume q) s = .next ((accept
          (({ s.hearing q with job := { s.job with resumeAt := some s.commandBeat } } : State).sendCommand 4 s.commandBeat 0)).finish (s.sid q) 2 q) := by
        refine congrArg Host.Outcome.next ((hcommand 4 hdata _).trans (congrArg (Answer.finish · (s.sid q) 2 q) ?_))
        rw [if_neg (by simp [hstate]), if_neg (by simp [hbeats, hahead]), hbeat, hjob]
      have hduty := State.sendCommand_duty { s.hearing q with job := { s.job with resumeAt := some s.commandBeat } } 4 s.commandBeat 0
      refine ⟨_, hexec, Answer.finish_answered _ _ _ _, ?_⟩
      have hsame := sameBut_of_next hexec
      rw [Answer.finish_job, (accept_parts _).1]
      generalize State.sendCommand { s.hearing q with job := { s.job with resumeAt := some s.commandBeat } } 4 s.commandBeat 0 = t at *
      rw [job_of_duty t hduty]
      exact ⟨rfl, hstate, hsame⟩
  · refine ⟨_, exec_pauseTakesEffect hstate hpending hreached hdone hagree, ?_⟩
    have hjob : (s.paused p).job = { s.job with state := .paused, frozenAt := some p.beat, frozenByPass := p.pass, pendingPause := none } := by
      simp [State.paused]
    refine ⟨by rw [hjob], by rw [hjob], by rw [hjob], by unfold State.planNow; rw [hjob], raised_event _ _ _ _ hheld, ?_⟩
    exact ((sb_job_clusters s _ _).trans (sameBut_event _ _ _ _)).mono (by decide)
  · refine ⟨_, exec_resumeTakesEffect hstate hresume hfrozen hreached hagree hgoing, ?_⟩
    have hjob : (s.resumed b f).job = { s.job with state := .running, frozenAt := none, frozenByPass := false, resumeAt := none,
                                                   pauseTotal := s.job.pauseTotal + (b - f) } := by simp [State.resumed]
    refine ⟨by rw [hjob], by rw [hjob], by rw [hjob], by rw [hjob], raised_event _ _ _ _ hheld, ?_⟩
    exact ((sb_job_clusters s _ _).trans (sameBut_event _ _ _ _)).mono (by decide)
end

section
/-! SUPPORT and PROOFS. A step begins; a window opens (R52, R66 to R68, R391). -/

namespace Sys2Proof.Machine

/-! ### Objects that reset -/

/-- The objects of the plan that reset at a step's start. -/
def State.resets (s : State) : List SyncDecl :=
  match s.job.plan with | some p => p.sync.filter (fun d : SyncDecl => d.resets && decide (d.id < 0x3E00)) | none => []
theorem setSyncs_other {l : List SyncDecl} {id : Nat} (h : ∀ d ∈ l, d.id ≠ id) (s : State) :
    sget 0 (l.foldl (fun s d => s.setSync d.id d.initial) s).sync.values id = sget 0 s.sync.values id := by
  induction l generalizing s with
  | nil => rfl
  | cons d l ih =>
    rw [List.foldl_cons, ih fun e he => h e (List.mem_cons_of_mem _ he)]
    exact sget_sset_other _ _ _ _ _ (h d List.mem_cons_self).symm
/-- An object that is named alone takes its initial value. -/
theorem setSyncs_initial {l : List SyncDecl} {d : SyncDecl} (hd : d ∈ l) (halone : ∀ e ∈ l, e.id = d.id → e = d) (s : State) :
    sget 0 (l.foldl (fun s d => s.setSync d.id d.initial) s).sync.values d.id = d.initial := by
  induction l generalizing s with
  | nil => exact absurd hd List.not_mem_nil
  | cons e l ih =>
    rw [List.foldl_cons]
    by_cases hmem : d ∈ l
    · exact ih hmem (fun e he => halone e (List.mem_cons_of_mem _ he)) _
    · obtain rfl := (List.mem_cons.1 hd).resolve_right hmem
      rw [setSyncs_other fun e he hid => hmem (halone e (List.mem_cons_of_mem _ he) hid ▸ he)]
      exact sget_sset_same _ _ _ _
theorem setSyncs_held (l : List SyncDecl) (s : State) : (l.foldl (fun s d => s.setSync d.id d.initial) s).sync.held = s.sync.held :=
  foldl_same (fun s : State => s.sync.held) _ _ _ fun _ _ => rfl
/-- With no signal held none arrives. -/
theorem State.rearrive_values {s : State} (h : s.sync.held = []) : s.rearrive.sync.values = s.sync.values := by
  unfold State.rearrive
  rw [h]
  rfl

/-! ### A step begins -/

/-- The step in progress, with its objects reset. -/
def State.stepping (s : State) (k : Nat) : State :=
  s.resets.foldl (fun s d => s.setSync d.id d.initial) { s with job := { s.job with state := .running, begun := some k } }
theorem State.beginStep_eq (s : State) (k : Nat) : s.beginStep k = (s.stepping k).rearrive.safePoint 0xA0F0 := rfl
theorem State.beginStep_job (s : State) (k : Nat) : (s.beginStep k).job = { s.job with state := .running, begun := some k } := by
  have hset (l : List SyncDecl) (u : State) : (l.foldl (fun s d => s.setSync d.id d.initial) u).job = u.job :=
    foldl_same State.job _ _ _ fun _ _ => rfl
  have hsafe : ((s.stepping k).rearrive.safePoint 0xA0F0).job = (s.stepping k).rearrive.job :=
    State.safePoint_touch (List.Subset.refl _) _ _ (Touch.refl _ _) .job (by decide)
  have hrearrive : (s.stepping k).rearrive.job = (s.stepping k).job :=
    State.rearrive_touch (List.Subset.refl _) _ (Touch.refl _ _) .job (by decide)
  rw [State.beginStep_eq, hsafe, hrearrive]
  exact hset _ _
theorem State.beginStep_values {s : State} (k : Nat) (h : s.sync.held = []) : (s.beginStep k).sync.values = (s.stepping k).sync.values := by
  have hsafe : ((s.stepping k).rearrive.safePoint 0xA0F0).sync = (s.stepping k).rearrive.sync :=
    State.safePoint_touch (List.Subset.refl _) _ _ (Touch.refl _ _) .sync (by decide)
  rw [State.beginStep_eq, hsafe]
  exact State.rearrive_values ((setSyncs_held _ _).trans h)
theorem exec_stepStart {s : State} (hstate : s.job.state = .running ∨ (s.job.state = .armed ∧ s.startChecks = none))
    (hgoing : s.job.stopping = false) (hnone : s.job.pendingPause = none) (hbegin : s.stepBegin s.nextStep * 2 ^ 16 ≤ s.planNow)
    (hdone : s.stepDone = true) : exec .stepStart s = .next (s.beginStep s.nextStep) := by
  have hlive : ¬(s.job.state ≠ .armed ∧ s.job.state ≠ .running) := by
    rintro ⟨h1, h2⟩
    exact hstate.elim h2 fun h => h1 h.1
  have hgo : ¬((s.job.state ≠ .armed ∧ s.job.state ≠ .running) ∨ s.job.stopping ∨ s.planNow < s.stepBegin s.nextStep * 2 ^ 16 ∨ !s.stepDone) :=
    not_or.2 ⟨hlive, not_or.2 ⟨by simp [hgoing], not_or.2 ⟨Nat.not_lt.2 hbegin, by simp [hdone]⟩⟩⟩
  show execStepStart s = _
  unfold execStepStart
  dsimp only
  rw [if_neg hgo, hnone]
  obtain hrun | ⟨harmed, hchecks⟩ := hstate
  · rw [if_neg Bool.false_ne_true, if_neg (by simp [hrun])]
  · rw [if_neg Bool.false_ne_true, if_pos harmed, hchecks]

/-! ### A window opens -/

theorem State.openPhase_job (s : State) (k p : Nat) : (s.openPhase k p).job = s.job :=
  State.openPhase_touch (List.Subset.refl _) s k p (Touch.refl _ s) .job (by decide)
/-- The record of an opened window. -/
def State.opening (s : State) (k p : Nat) : State :=
  let s := s.modStep k fun r => { r with opened := r.opened + 2 ^ p }
  if p = 0 then s else { s with job := { s.job with stepNow := k, phaseNow := p } }
theorem exec_phaseWindowStart {s : State} {k p : Nat} (h : s.mayOpen k p = true) :
    exec (.phaseWindowStart k p) s = .next ((s.opening k p).openPhase k p) :=
  congrArg Host.Outcome.next (if_neg (by simp [h]))
theorem State.opening_stepRec (s : State) (k p : Nat) : (s.opening k p).stepRec k = { s.stepRec k with opened := (s.stepRec k).opened + 2 ^ p } := by
  unfold State.opening
  dsimp only
  have hrec := s.modStep_stepRec k fun r => { r with opened := r.opened + 2 ^ p }
  split
  · exact hrec
  · exact hrec
theorem bit_set {a : Nat} (p : Nat) (h : (a / 2 ^ p) % 2 ≠ 1) : ((a + 2 ^ p) / 2 ^ p) % 2 = 1 := by
  rw [Nat.add_div_right _ (Nat.two_pow_pos p)]
  omega

end Sys2Proof.Machine
end

section
open Sys2Proof Sys2Proof.Machine

/-- Settles O27: a step begins and resets its objects; a window opens. -/
theorem stepsAndWindowsBegin : Obligations.StepsAndWindowsBegin := by
  unfold Obligations.StepsAndWindowsBegin
  refine ⟨fun s p hplan hstate hgoing hnone hbegin hdone => ?_, fun s k p hmay => ?_⟩
  · have hexec := exec_stepStart hstate hgoing hnone hbegin hdone
    have hjob := s.beginStep_job s.nextStep
    refine ⟨_, hexec, by rw [hjob], by rw [hjob], by rw [hjob]; exact hplan, ?_, fun hheld => ?_⟩
    · exact State.beginStep_touch (List.Subset.refl _) s _ (Touch.refl _ s)
    · have hresets : s.resets = p.sync.filter (fun d : SyncDecl => d.resets && decide (d.id < 0x3E00)) := by unfold State.resets; rw [hplan]
      rw [State.beginStep_values _ hheld]
      unfold State.stepping
      rw [hresets]
      refine ⟨fun d hd hr hid halone => ?_, fun id hother => ?_⟩
      · exact setSyncs_initial (List.mem_filter.2 ⟨hd, by simp [hr, hid]⟩) (fun e he => halone e (List.mem_filter.1 he).1) _
      · refine setSyncs_other (fun d hd => ?_) _
        obtain ⟨hmem, hkeep⟩ := List.mem_filter.1 hd
        exact hother d hmem (by simp only [Bool.and_eq_true] at hkeep; exact hkeep.1)
  · have hexec := exec_phaseWindowStart hmay
    have hrec : ((s.opening k p).openPhase k p).stepRec k = { s.stepRec k with opened := (s.stepRec k).opened + 2 ^ p } := by
      rw [← State.opening_stepRec]; unfold State.stepRec; rw [State.openPhase_job]
    have hshut : s.windowOpen k p = false := by
      unfold State.mayOpen at hmay
      simp only [Bool.and_eq_true, Bool.not_eq_true'] at hmay
      exact hmay.1.1.1.2
    refine ⟨_, hexec, ?_, fun hp => ?_, ?_, by rw [hrec], sameBut_of_next hexec⟩
    · unfold State.windowOpen at hshut ⊢
      rw [hrec]
      exact decide_eq_true (bit_set p (of_decide_eq_false hshut))
    · rw [State.openPhase_job]
      unfold State.opening
      dsimp only
      rw [if_neg hp]
      exact ⟨rfl, rfl⟩
    · rw [State.openPhase_job]
      unfold State.opening
      dsimp only
      split <;> rfl
end

section
/-! SUPPORT and PROOFS. A window ends: its work retired, or late (R66, R71, R72). -/

namespace Sys2Proof.Machine

/-! ### The straggle of a module -/

/-- The job of a module that becomes a straggler for step `k`. -/
def Job.straggling (j : Job) (k : Nat) : Job :=
  { j with steps := supd {} j.steps k fun r => { r with straggles := true }, stragglers := j.stragglers + 1 }
/-- A module straggles in a step once. -/
theorem State.straggle_of_straggles {s : State} {k : Nat} (h : (s.stepRec k).straggles = true) : s.straggle k = s := if_pos h
/-- What a straggle does to the rest of the module, the job does not share in. -/
theorem State.straggle_job {s : State} {k : Nat} (h : (s.stepRec k).straggles = false) : (s.straggle k).job = s.job.straggling k := by
  have abandoned (l : List Nat) (t : State) : (l.foldl (fun s cl => s.abandonCl k cl) t).job = t.job :=
    foldl_same State.job _ _ _ fun s cl => State.abandonCl_touch (List.Subset.refl _) s k cl (Touch.refl _ s) .job (by decide)
  have receipted (t : State) : (t.laterReceipts k 4 0).job = t.job :=
    State.laterReceipts_touch (List.Subset.refl _) t k 4 0 (Touch.refl _ t) .job (by decide)
  have flushed (t : State) : t.flushWithdrawals.job = t.job :=
    State.flushWithdrawals_touch (List.Subset.refl _) t (Touch.refl _ t) .job (by decide)
  have told (t : State) : (t.event wardenSrc 0x2112).job = t.job :=
    State.event_touch (List.Subset.refl _) t _ _ _ (Touch.refl _ t) .job (by decide)
  unfold State.straggle
  rw [if_neg (by simp [h])]
  dsimp only
  rw [abandoned]
  show (State.laterReceipts _ k 4 0).job = _
  rw [receipted, flushed]
  show ({ (State.event _ wardenSrc 0x2112 []).job with stragglers := _ } : Job) = _
  rw [told]
  rfl
theorem State.straggle_stepRec {s : State} {k : Nat} (h : (s.stepRec k).straggles = false) :
    (s.straggle k).stepRec k = { s.stepRec k with straggles := true } := by
  unfold State.stepRec
  rw [State.straggle_job h]
  exact sget_supd_same {} _ _ fun r : StepRec => { r with straggles := true }
theorem State.straggle_safe (s : State) (k : Nat) : (s.straggle k).safe = s.safe :=
  State.straggle_touch (List.Subset.refl _) s k (Touch.refl _ s) .safe (by decide)

/-! ### A window's end is kept -/

theorem stepRec_of_duty {s t : State} (h : t.duty = s.duty) (k : Nat) : t.stepRec k = s.stepRec k := by
  have hjob := job_of_duty t h
  unfold State.stepRec
  rw [hjob]
  rfl

/-- The window of phase `p` of step `k` has ended, and its phase is no longer the present one. -/
def Over (t : State) (k p : Nat) : Prop := t.windowEnded k p = true ∧ (p ≠ 0 → t.job.phaseNow = 6)
theorem Over.congr {s t : State} {k p : Nat} (h : Over s k p) (he : (t.stepRec k).ended = (s.stepRec k).ended)
    (hp : t.job.phaseNow = s.job.phaseNow) : Over t k p := by
  unfold Over State.windowEnded
  rw [he, hp]
  exact h
theorem Over.of_pace {s t : State} {k p : Nat} (h : Over s k p) (e : t.pace = s.pace) : Over t k p := by
  have hs : t.job.steps = s.job.steps := congrArg Prod.fst e
  exact h.congr (by unfold State.stepRec; rw [hs]) (congrArg Prod.snd e)
theorem Over.modStep {s : State} {k p : Nat} (h : Over s k p) {f : StepRec → StepRec} (hf : ∀ r, (f r).ended = r.ended) :
    Over (s.modStep k f) k p := h.congr (by simp [hf]) rfl
theorem Over.straggle {s : State} {k p : Nat} (h : Over s k p) : Over (s.straggle k) k p := by
  cases hs : (s.stepRec k).straggles with
  | true => rwa [State.straggle_of_straggles hs]
  | false => exact h.congr (by rw [State.straggle_stepRec hs]) (by rw [State.straggle_job hs]; rfl)

/-! ### An overrun -/

/-- An overrun as it is recorded, whatever follows it. -/
def State.overrunning (s : State) (k p : Nat) : State :=
  let t := s.modStep k fun r => { r with overran := r.overran + 2 ^ p }
  { t with job := { t.job with overruns := t.job.overruns + 1 } }.event wardenSrc 0x2110 (u8 p ++ u32 k)
theorem State.overrun_eq (s : State) (k p : Nat) : s.overrun k p =
    if p = 0 then s.overrunning k p else if p ≤ 2 then (s.overrunning k p).straggle k
    else (s.overrunning k p).fault wardenSrc 0x2111 (u8 p ++ u32 k) := rfl
theorem State.overrunning_job (s : State) (k p : Nat) : (s.overrunning k p).job =
    { s.job with steps := supd {} s.job.steps k fun r => { r with overran := r.overran + 2 ^ p }, overruns := s.job.overruns + 1 } :=
  State.event_touch (List.Subset.refl _) _ _ _ _ (Touch.refl _ _) .job (by decide)
theorem State.overrunning_safe (s : State) (k p : Nat) : (s.overrunning k p).safe = s.safe :=
  State.event_touch (List.Subset.refl _) _ _ _ _ (Touch.refl _ _) .safe (by decide)
theorem State.overrunning_stepRec (s : State) (k p : Nat) :
    (s.overrunning k p).stepRec k = { s.stepRec k with overran := (s.stepRec k).overran + 2 ^ p } := by
  unfold State.stepRec
  rw [State.overrunning_job]
  exact sget_supd_same {} _ _ fun r : StepRec => { r with overran := r.overran + 2 ^ p }
theorem Over.overrun {s : State} {k p : Nat} (h : Over s k p) : Over (s.overrun k p) k p := by
  have told : Over (s.overrunning k p) k p := h.congr (by rw [State.overrunning_stepRec]) (by rw [State.overrunning_job])
  rw [State.overrun_eq]
  split
  · exact told
  · split
    · exact told.straggle
    · exact told.of_pace (pace_of_fault _ _ _ _)

/-! ### What follows a window's end in time -/

theorem State.closeStats_duty (s : State) (k : Nat) (b : Bool) : (s.closeStats k b).duty = s.duty :=
  duty_of_touch (State.closeStats_touch (List.Subset.refl _) s k b (Touch.refl _ s)) (by decide)
/-- The statistics of step `k` close, and what waited for the next step is taken. -/
def State.closing (s : State) (k : Nat) : State := (s.closeStats k false).releaseStale k
theorem State.closing_duty (s : State) (k : Nat) : (s.closing k).duty = s.duty :=
  (State.releaseStale_duty _ _).trans (State.closeStats_duty _ _ _)
theorem State.closing_touch (s : State) (k : Nat) : Touch [.log, .job, .stats, .upd, .host, .mem, .ctr, .out] s (s.closing k) :=
  State.releaseStale_touch (by decide) _ k (State.closeStats_touch (by decide) s k false (Touch.refl _ s))
/-- The `APPLY` window of step `k` has its end in time. -/
def State.applyEnded (s : State) (k : Nat) : State :=
  s.modStep k fun r => { r with applyEnd := ((s.stepBegin k + s.job.pauseTotal : Nat) + s.winEnd 5).toNat }
theorem State.closePhase_apply (s : State) (k : Nat) : s.closePhase k 5 = (s.closing k).applyEnded k := rfl
theorem State.applyEnded_of_duty {s t : State} (h : t.duty = s.duty) (k : Nat) :
    ((t.applyEnded k).stepRec k).applyEnd = ((s.stepBegin k + s.job.pauseTotal : Nat) + s.winEnd 5).toNat := by
  have hjob := job_of_duty t h
  simp only [State.applyEnded, State.modStep_stepRec, State.stepBegin, State.winEnd]
  rw [hjob]
  rfl
theorem State.closePhase_forward {s : State} {k : Nat} (h : s.stash.suppressed = some k → (s.stepRec k).straggles = true) :
    s.closePhase k 1 = { s with stash := { s.stash with lastHigh := s.stash.high, lastReserve := s.stash.reserve } } := by
  show (if s.stash.suppressed = some k then State.straggle _ k else _) = _
  split
  · next hs => exact State.straggle_of_straggles (h hs)
  · rfl
theorem Over.closePhase {s : State} {k p : Nat} (h : Over s k p) (hp : p < 6) : Over (s.closePhase k p) k p := by
  match p, hp with
  | 0, _ => exact h
  | 1, _ =>
    show Over (if s.stash.suppressed = some k then State.straggle _ k else _) k 1
    split
    · exact Over.straggle (s := { s with stash := _ }) h
    · exact h
  | 2, _ => exact h
  | 3, _ => exact h
  | 4, _ => exact h
  | 5, _ =>
    rw [State.closePhase_apply]
    exact (h.of_pace (pace_of_duty (State.closing_duty _ _))).modStep fun _ => rfl

/-! ### A window ends -/

/-- The window of phase `p` of step `k` is marked as ended; the deadline of `ADMIT` passes. -/
def State.ending (s : State) (k p : Nat) : State :=
  let t := s.modStep k fun r => { r with ended := r.ended + 2 ^ p }
  if p = 0 then t.deadline k else { t with job := { t.job with phaseNow := 6 } }
/-- Work of the phase is not retired. -/
def State.late (s : State) (k p : Nat) : Bool := s.workLate k p || s.streamed.any fun cl => s.clLate k p cl
/-- Rows that were cut at the deadline are forgotten. -/
def State.uncut (s : State) (k p : Nat) : State :=
  if p = 0 then { s with ingest := { s.ingest with cut := s.ingest.cut.filter fun j => decide (j ≠ k) } } else s
/-- A late phase overruns. -/
def State.checkedLate (s : State) (k p : Nat) : State := if s.late k p then (s.uncut k p).overrun k p else s.uncut k p
/-- What follows in a module that has not faulted. -/
def State.afterWindow (s : State) (k p : Nat) (checks : List MemCheck) : State :=
  if s.job.state = .fault then s
  else if p = 5 then if (s.checked checks).1 then (s.checked checks).2.closePhase k p else (s.checked checks).2
  else s.closePhase k p

/-- A window that is open ends at its planned end. -/
theorem execPhaseWindowEnd_eq {s : State} {k p : Nat} (checks : List MemCheck) (hlive : s.job.state = .running ∨ s.job.state = .paused) (hp : p < 6)
    (hopen : s.windowOpen k p = true) (hended : s.windowEnded k p = false) (hdue : s.pointOf k (s.winEnd p) 0 ≤ s.planNow)
    (hcommit : p = 5 → (s.stepRec k).committed = true) :
    execPhaseWindowEnd k p checks s = .next (((s.ending k p).checkedLate k p).afterWindow k p checks) := by
  have due : ¬(6 ≤ p ∨ !decide (s.job.state = .armed ∨ s.job.state = .running ∨ s.job.state = .paused) ∨ !s.windowOpen k p ∨ s.windowEnded k p
      ∨ s.planNow < s.pointOf k (s.winEnd p) 0 ∨ (p = 5 ∧ !(s.stepRec k).committed)) := by
    rintro (h | h | h | h | h | ⟨h, hc⟩)
    · exact absurd hp (Nat.not_lt.2 h)
    · rcases hlive with e | e <;> simp [e] at h
    · simp [hopen] at h
    · simp [hended] at h
    · exact absurd hdue (Int.not_le.2 h)
    · simp [hcommit h] at hc
  unfold execPhaseWindowEnd
  exact congrArg Host.Outcome.next (if_neg due)

theorem State.ending_over {s : State} {k p : Nat} (h : s.windowEnded k p = false) : Over (s.ending k p) k p := by
  have hodd := bit_set p (of_decide_eq_false h)
  have hmark (t : State) (ht : t.stepRec k = { s.stepRec k with ended := (s.stepRec k).ended + 2 ^ p }) : t.windowEnded k p = true := by
    unfold State.windowEnded
    rw [ht]
    exact decide_eq_true hodd
  unfold State.ending
  dsimp only
  split
  · next h0 =>
    refine ⟨hmark _ ?_, fun hn => absurd h0 hn⟩
    rw [stepRec_of_duty (State.deadline_duty _ k)]
    exact s.modStep_stepRec k fun r => { r with ended := r.ended + 2 ^ p }
  · exact ⟨hmark _ (s.modStep_stepRec k fun r => { r with ended := r.ended + 2 ^ p }), fun _ => rfl⟩
theorem Over.uncut {s : State} {k p : Nat} (h : Over s k p) : Over (s.uncut k p) k p := by
  unfold State.uncut
  split <;> exact h
theorem Over.checkedLate {s : State} {k p : Nat} (h : Over s k p) : Over (s.checkedLate k p) k p := by
  unfold State.checkedLate
  split
  · exact h.uncut.overrun
  · exact h.uncut
theorem Over.afterWindow {s : State} {k p : Nat} (h : Over s k p) (hp : p < 6) (checks : List MemCheck) : Over (s.afterWindow k p checks) k p := by
  have read : Over (s.checked checks).2 k p := h.of_pace (State.checked_pace _ _)
  unfold State.afterWindow
  split
  · exact h
  · split
    · split
      · exact read.closePhase hp
      · exact read
    · exact h.closePhase hp

/-! ### ADMIT -/

/-- The end of `ADMIT` counts late work, and neither the job's state nor its safety. -/
theorem State.endAdmit_spec {s : State} {k : Nat} (checks : List MemCheck) :
    let t := ((s.ending k 0).checkedLate k 0).afterWindow k 0 checks
    t.job.state = s.job.state ∧ t.safe = s.safe ∧ t.job.overruns = s.job.overruns +
      if (((s.modStep k fun r => { r with ended := r.ended + 1 }).deadline k).ingest.cut.contains k || s.streamed.any fun cl => s.clLate k 0 cl) = true
      then 1 else 0 := by
  intro t
  have hduty : (s.ending k 0).duty = (s.modStep k fun r => { r with ended := r.ended + 1 }).duty := State.deadline_duty _ k
  have hjob := job_of_duty _ hduty
  have htouch := State.deadline_touch (List.Subset.refl _) (s.modStep k fun r => { r with ended := r.ended + 1 }) k (Touch.refl _ _)
  have hclusters : (s.ending k 0).clusters = s.clusters := htouch .clusters (by decide)
  have hsafe : (s.ending k 0).safe = s.safe := htouch .safe (by decide)
  have hlate : (s.ending k 0).late k 0 =
      (((s.modStep k fun r => { r with ended := r.ended + 1 }).deadline k).ingest.cut.contains k || s.streamed.any fun cl => s.clLate k 0 cl) := by
    unfold State.late State.streamed State.clLate State.stream State.clStep State.cl
    rw [hjob, hclusters]
    rfl
  have hafter : t = (s.ending k 0).checkedLate k 0 := by
    show State.afterWindow _ k 0 checks = _
    unfold State.afterWindow
    split <;> rfl
  rw [hafter, ← hlate]
  unfold State.checkedLate
  split
  · rw [State.overrun_eq, if_pos rfl, State.overrunning_job, State.overrunning_safe]
    show (s.ending k 0).job.state = _ ∧ (s.ending k 0).safe = _ ∧ (s.ending k 0).job.overruns + 1 = _
    rw [hjob]
    exact ⟨rfl, hsafe, rfl⟩
  · show (s.ending k 0).job.state = _ ∧ (s.ending k 0).safe = _ ∧ (s.ending k 0).job.overruns = _
    rw [hjob]
    exact ⟨rfl, hsafe, rfl⟩

/-! ### The other phases -/

section
variable {s : State} {k p : Nat}

theorem State.ending_of_ne (hp : p ≠ 0) : s.ending k p =
    { s with job := { s.job with steps := supd {} s.job.steps k fun r => { r with ended := r.ended + 2 ^ p }, phaseNow := 6 } } := if_neg hp
theorem State.ending_late (hp : p ≠ 0) : (s.ending k p).late k p = s.late k p := by
  rw [State.ending_of_ne hp]
  rfl
theorem State.uncut_of_ne (hp : p ≠ 0) : s.uncut k p = s := if_neg hp

/-- With its work retired a window's end only releases the stash, or closes the statistics. -/
theorem State.endOnTime_spec {checks : List MemCheck} (hlate : s.late k p = false) (h0 : p ≠ 0) (hp : p < 6)
    (hlive : s.job.state = .running ∨ s.job.state = .paused) (hchecks : p = 5 → checks = []) (hstash : p = 1 → s.stash.suppressed ≠ some k) :
    let t := ((s.ending k p).checkedLate k p).afterWindow k p checks
    t.job.overruns = s.job.overruns ∧ t.job.state = s.job.state ∧ t.safe = s.safe ∧
      SameBut (if p = 3 ∨ p = 4 then [.job] else if p = 5 then [.log, .job, .stats, .upd, .host, .mem, .ctr, .out] else [.job, .stash, .free]) s t ∧
      (p = 5 → (t.stepRec k).applyEnd = ((s.stepBegin k + s.job.pauseTotal : Nat) + s.winEnd 5).toNat) := by
  intro t
  have hafter : t = (s.ending k p).closePhase k p := by
    show (State.checkedLate _ k p).afterWindow k p checks = _
    have hrun : ¬(s.ending k p).job.state = .fault := by
      rw [State.ending_of_ne h0]
      rcases hlive with e | e <;> simp [e]
    rw [show (s.ending k p).checkedLate k p = s.ending k p by
      rw [State.checkedLate, State.ending_late h0, hlate, State.uncut_of_ne h0]; exact if_neg Bool.false_ne_true]
    unfold State.afterWindow
    rw [if_neg hrun]
    split
    · next h5 =>
      rw [hchecks h5]
      rfl
    · rfl
  have hend : Touch [.job] s (s.ending k p) := by
    rw [State.ending_of_ne h0]
    exact sb_job s _
  rw [hafter]
  match p, h0, hp with
  | 1, h, _ =>
    rw [State.closePhase_forward fun he => absurd (hend .stash (by decide) ▸ he) (hstash rfl), State.ending_of_ne h]
    exact ⟨rfl, rfl, rfl, by intro q hq; cases q <;> first | rfl | exact absurd (by decide) hq, fun h5 => absurd h5 (by decide)⟩
  | 2, h, _ =>
    rw [State.ending_of_ne h]
    exact ⟨rfl, rfl, rfl, by intro q hq; cases q <;> first | rfl | exact absurd (by decide) hq, fun h5 => absurd h5 (by decide)⟩
  | 3, h, _ =>
    exact ⟨by rw [State.ending_of_ne h]; rfl, by rw [State.ending_of_ne h]; rfl, hend .safe (by decide), hend, fun h5 => absurd h5 (by decide)⟩
  | 4, h, _ =>
    exact ⟨by rw [State.ending_of_ne h]; rfl, by rw [State.ending_of_ne h]; rfl, hend .safe (by decide), hend, fun h5 => absurd h5 (by decide)⟩
  | 5, h, _ =>
    rw [State.closePhase_apply]
    have hjob := job_of_duty _ ((s.ending k 5).closing_duty k)
    have hall := (hend.trans ((s.ending k 5).closing_touch k)).trans (sb_job ((s.ending k 5).closing k) (((s.ending k 5).closing k).applyEnded k).job)
    have htouch : Touch [.log, .job, .stats, .upd, .host, .mem, .ctr, .out] s (((s.ending k 5).closing k).applyEnded k) := hall.mono (by decide)
    refine ⟨?_, ?_, htouch .safe (by decide), htouch, fun _ => ?_⟩
    · show ((s.ending k 5).closing k).job.overruns = _
      rw [hjob, State.ending_of_ne h]
      rfl
    · show ((s.ending k 5).closing k).job.state = _
      rw [hjob, State.ending_of_ne h]
      rfl
    · rw [State.applyEnded_of_duty ((s.ending k 5).closing_duty k), State.ending_of_ne h]
      rfl

/-- Late work of the last phases is a fault. -/
theorem State.endFatal_spec (checks : List MemCheck) (hlate : s.late k p = true) (hp : 3 ≤ p) (hlatch : s.safe.latch = false) (hplan : s.job.plan ≠ none) :
    let t := ((s.ending k p).checkedLate k p).afterWindow k p checks
    Faulted t wardenSrc 0x2111 ∧ t.job.overruns = s.job.overruns + 1 ∧ t.job.state = .fault ∧ t.safe.inhibit = true := by
  intro t
  have h0 : p ≠ 0 := by omega
  have hover : (s.ending k p).checkedLate k p = ((s.ending k p).overrunning k p).fault wardenSrc 0x2111 (u8 p ++ u32 k) := by
    rw [State.checkedLate, State.ending_late h0, if_pos hlate, State.uncut_of_ne h0, State.overrun_eq, if_neg h0, if_neg (by omega)]
  generalize hu : (s.ending k p).overrunning k p = u at hover
  have hj : u.job.plan = s.job.plan ∧ u.job.overruns = s.job.overruns + 1 := by
    rw [← hu, State.overrunning_job, State.ending_of_ne h0]
    exact ⟨rfl, rfl⟩
  have hl : u.safe.latch = false := by
    rw [← hu, State.overrunning_safe, State.ending_of_ne h0]
    exact hlatch
  have hjob := u.fault_job wardenSrc 0x2111 (u8 p ++ u32 k) hl (by rw [hj.1]; exact hplan)
  obtain ⟨hfaulted, -, -, hfirst⟩ := u.fault_spec wardenSrc 0x2111 (u8 p ++ u32 k)
  have hafter : t = u.fault wardenSrc 0x2111 (u8 p ++ u32 k) := by
    show State.afterWindow _ k p checks = _
    rw [hover]
    exact if_pos (by rw [hjob])
  rw [hafter]
  exact ⟨hfaulted, by rw [hjob]; exact hj.2, by rw [hjob], (hfirst hl).1⟩

/-- Late work of `FORWARD` or `BACKWARD` makes the module straggle. -/
theorem State.endStraggle_spec (checks : List MemCheck) (hlate : s.late k p = true) (hp : p = 1 ∨ p = 2)
    (hlive : s.job.state = .running ∨ s.job.state = .paused) (hnew : (s.stepRec k).straggles = false) :
    let t := ((s.ending k p).checkedLate k p).afterWindow k p checks
    (t.stepRec k).straggles = true ∧ t.job.overruns = s.job.overruns + 1 ∧ t.job.stragglers = s.job.stragglers + 1
      ∧ t.job.state = s.job.state ∧ t.safe = s.safe := by
  intro t
  have h0 : p ≠ 0 := by omega
  have hover : (s.ending k p).checkedLate k p = ((s.ending k p).overrunning k p).straggle k := by
    rw [State.checkedLate, State.ending_late h0, if_pos hlate, State.uncut_of_ne h0, State.overrun_eq, if_neg h0, if_pos (by omega)]
  generalize hu : (s.ending k p).overrunning k p = u at hover
  have hsafe : u.safe = s.safe := by
    rw [← hu, State.overrunning_safe, State.ending_of_ne h0]
  have hrec : (u.stepRec k).straggles = false := by
    rw [← hu, State.overrunning_stepRec]
    show ((s.ending k p).stepRec k).straggles = false
    rw [State.ending_of_ne h0]
    exact (congrArg StepRec.straggles (s.modStep_stepRec k fun r => { r with ended := r.ended + 2 ^ p })).trans hnew
  have hj : u.job.overruns = s.job.overruns + 1 ∧ u.job.stragglers = s.job.stragglers ∧ u.job.state = s.job.state := by
    rw [← hu, State.overrunning_job, State.ending_of_ne h0]
    exact ⟨rfl, rfl, rfl⟩
  obtain ⟨hov, hst, hstate⟩ := hj
  have hjob := State.straggle_job hrec
  have hmarked : ((u.straggle k).stepRec k).straggles = true := by rw [State.straggle_stepRec hrec]
  have hrun : ¬(u.straggle k).job.state = .fault := by
    rw [hjob]
    show ¬u.job.state = .fault
    rw [hstate]
    rcases hlive with e | e <;> simp [e]
  have hafter : t = (u.straggle k).closePhase k p := by
    show State.afterWindow _ k p checks = _
    rw [hover]
    exact (if_neg hrun).trans (if_neg (by omega))
  have hsame : t.job = (u.straggle k).job ∧ t.safe = (u.straggle k).safe := by
    rw [hafter]
    rcases hp with rfl | rfl
    · rw [State.closePhase_forward fun _ => hmarked]
      exact ⟨rfl, rfl⟩
    · exact ⟨rfl, rfl⟩
  obtain ⟨htjob, htsafe⟩ := hsame
  refine ⟨?_, ?_, ?_, ?_, htsafe.trans ((State.straggle_safe _ _).trans hsafe)⟩
  · unfold State.stepRec
    rw [htjob]
    exact hmarked
  · rw [htjob, hjob]; exact hov
  · rw [htjob, hjob]; exact congrArg (· + 1) hst
  · rw [htjob, hjob]; exact hstate

end
end Sys2Proof.Machine
end

section
open Sys2Proof Sys2Proof.Machine

/-- Settles O28: a window's end is marked and nothing that follows it unmarks it; what follows is one of four: the deadline of `ADMIT`,
the close of a phase on time, a straggle, or a fault. -/
theorem windowsEndAsPlanned : Obligations.WindowsEndAsPlanned := by
  unfold Obligations.WindowsEndAsPlanned
  intro s k p checks hlive hp hopen hended hdue hcommit
  obtain ⟨hover, hphase⟩ := (State.ending_over hended).checkedLate.afterWindow hp checks
  refine ⟨_, execPhaseWindowEnd_eq checks hlive hp hopen hended hdue hcommit, hover, hphase, ?_, ?_, ?_, ?_⟩
  · rintro rfl
    exact State.endAdmit_spec checks
  · exact fun hlate h0 hchecks hstash => State.endOnTime_spec hlate h0 hp hlive hchecks hstash
  · exact fun hlate h3 hlatch hplan => State.endFatal_spec checks hlate h3 hlatch hplan
  · exact fun hlate h12 hnew => State.endStraggle_spec checks hlate h12 hlive hnew
end

section
/-! SUPPORT and PROOFS. Clearance of a committed step (R70). -/

namespace Sys2Proof.Machine

/-- The oldest committed step that waits for its clearance. -/
def State.oldestWaiting (s : State) : Option Nat :=
  lowest ((s.job.steps.filter fun e => e.2.committed && !e.2.cleared && decide ((e.2.ended / 2 ^ 5) % 2 = 1)).map fun e => e.1)
/-- Step `k` has cleared; the records of the steps before it are let go. -/
def State.noteClear (s : State) (k : Nat) : State :=
  let t := s.modStep k fun r => { r with cleared := true }
  { t with job := { t.job with lastCleared := k, steps := t.job.steps.filter fun e : Nat × StepRec => decide (k ≤ e.1) } }
theorem exec_stepClear {s : State} {k : Nat} (hlatch : s.safe.latch = false) (hbeat : (s.stepRec k).applyEnd + 7813 ≤ s.beat)
    (hk : s.oldestWaiting = some k) : exec .stepClear s = .next (((s.noteClear k).startCapture k).checkStopped) := by
  have due : ¬(s.safe.latch ∨ s.beat < (s.stepRec k).applyEnd + 7813) := by
    rintro (h | h)
    · simp [hlatch] at h
    · omega
  show execStepClear s = _
  unfold execStepClear
  change lowest _ = _ at hk
  dsimp only
  rw [hk]
  exact congrArg Host.Outcome.next (if_neg due)
theorem State.noteClear_stepRec (s : State) (k : Nat) : ((s.noteClear k).stepRec k).cleared = true := by
  have hkept : (s.noteClear k).stepRec k = (s.modStep k fun r => { r with cleared := true }).stepRec k :=
    (sget_filter ({} : StepRec) (s.modStep k fun r => { r with cleared := true }).job.steps (fun j => decide (k ≤ j)) k).trans (if_pos (by simp))
  rw [hkept, State.modStep_stepRec]
/-- The job of a cleared step, but for a stop that takes effect, is as the clearance leaves it. -/
theorem State.afterClear_job (s : State) (k : Nat) : ∃ x y, (((s.noteClear k).startCapture k).checkStopped).job =
    { (s.noteClear k).job with state := x, stopping := y } := by
  have hcapture : ((s.noteClear k).startCapture k).job = (s.noteClear k).job :=
    State.startCapture_touch (List.Subset.refl _) _ k (Touch.refl _ _) .job (by decide)
  rw [State.checkStopped_job, hcapture]
  split
  · exact ⟨_, _, rfl⟩
  · exact ⟨_, _, rfl⟩

end Sys2Proof.Machine
end

section
open Sys2Proof Sys2Proof.Machine

/-- Settles O30: the oldest committed step that waits is marked as cleared; neither the capture that begins then nor a stop that takes
effect changes the record. -/
theorem committedStepsClear : Obligations.CommittedStepsClear := by
  unfold Obligations.CommittedStepsClear
  intro s k hlatch hbeat hk
  have hexec := exec_stepClear hlatch hbeat hk
  obtain ⟨x, y, hjob⟩ := s.afterClear_job k
  refine ⟨_, hexec, by rw [hjob]; rfl, ?_, by rw [hjob]; rfl, sb_next hexec rfl⟩
  unfold State.stepRec
  rw [hjob]
  exact s.noteClear_stepRec k
end

section
/-! SUPPORT and PROOFS. Stretching, the sources of the clocks, the supply feeds (R488 to R495, R500 to R503). -/

namespace Sys2Proof.Machine

/-! ### Rises of a level -/

/-- The level of a clock rises to the demand on it. -/
def State.rise (s : State) (i : Nat) : State :=
  if (s.inst i).level < s.demandOn i then s.modInst i fun c => { c with level := s.demandOn i, stretched := true } else s
theorem State.restretch_eq (s : State) : s.restretch = ((List.range 52).filter stretches).foldl State.rise s.accrueStretch := rfl
@[simp] theorem State.modInst_inst (s : State) (i : Nat) (f : ClkInst → ClkInst) : (s.modInst i f).inst i = f (s.inst i) := sget_supd_same _ _ _ _
theorem State.modInst_inst_other (s : State) {i j : Nat} (f : ClkInst → ClkInst) (h : j ≠ i) : (s.modInst i f).inst j = s.inst j :=
  sget_supd_other _ _ _ _ _ h
/-- Everything that a demand rests on. -/
def State.demands (s : State) : List (Nat × Nat) × Nat × Bool × List Nat :=
  (s.power.thermal, s.power.powerDemand, s.power.switching, s.start.dieMap)
theorem demandOn_of_demands {s t : State} (h : t.demands = s.demands) (i : Nat) : t.demandOn i = s.demandOn i := by
  simp only [State.demands, Prod.mk.injEq] at h
  obtain ⟨hthermal, hpower, hswitch, hdies⟩ := h
  unfold State.demandOn State.stretchedBy State.standOfDie
  rw [hthermal, hpower, hswitch, hdies]
theorem State.rise_demands (s : State) (i : Nat) : (s.rise i).demands = s.demands := by
  unfold State.rise
  split <;> rfl
theorem State.rises_demands (l : List Nat) (s : State) : (l.foldl State.rise s).demands = s.demands :=
  foldl_same State.demands _ _ _ fun s i => s.rise_demands i
theorem State.rise_level_mono (s : State) (i j : Nat) : (s.inst j).level ≤ ((s.rise i).inst j).level := by
  unfold State.rise
  split
  · next h =>
    by_cases hj : j = i
    · subst hj
      rw [State.modInst_inst]
      exact Nat.le_of_lt h
    · rw [State.modInst_inst_other s _ hj]
  · exact Nat.le_refl _
theorem State.rises_level_mono (l : List Nat) (s : State) (j : Nat) : (s.inst j).level ≤ ((l.foldl State.rise s).inst j).level := by
  induction l generalizing s with
  | nil => exact Nat.le_refl _
  | cons i l ih => exact Nat.le_trans (s.rise_level_mono i j) (ih _)
theorem State.demandOn_le_rise (s : State) (i : Nat) : s.demandOn i ≤ ((s.rise i).inst i).level := by
  unfold State.rise
  split
  · rw [State.modInst_inst]
  · next h => exact Nat.le_of_not_lt h
/-- After the rises every demand is met. -/
theorem State.demandOn_le_rises {l : List Nat} {i : Nat} (h : i ∈ l) (s : State) : s.demandOn i ≤ ((l.foldl State.rise s).inst i).level := by
  induction l generalizing s with
  | nil => exact absurd h List.not_mem_nil
  | cons j l ih =>
    rcases List.mem_cons.1 h with rfl | hl
    · exact Nat.le_trans (s.demandOn_le_rise i) (State.rises_level_mono l _ i)
    · rw [← demandOn_of_demands (s.rise_demands j)]
      exact ih hl _

/-! ### The stretch of the time gone by -/

/-- Counting the stretch changes no clock, and no demand. -/
theorem State.accrueStretch_power (s : State) : s.accrueStretch.power = { s.power with stretchMark := s.time.cycles } := by
  have counted (n : Nat) (l : List Nat) : (l.foldl (fun s i => let v := (State.inst s i).level
      if v = 0 then s else s.bump (kStretch i) (5 * n * v / (2 * (64 + v)))) s).power = s.power :=
    foldl_same State.power _ _ _ fun s i => by dsimp only; split <;> rfl
  have timed (n : Nat) (l : List Nat) : (l.foldl (fun s i => let v := (State.inst s i).level
      if v = 0 then s else s.bump (kStretch i) (5 * n * v / (2 * (64 + v)))) s).time = s.time :=
    foldl_same State.time _ _ _ fun s i => by dsimp only; split <;> rfl
  unfold State.accrueStretch
  dsimp only
  rw [counted, timed]
theorem State.accrueStretch_inst (s : State) (i : Nat) : s.accrueStretch.inst i = s.inst i := by
  unfold State.inst
  rw [State.accrueStretch_power]
theorem State.accrueStretch_demands (s : State) : s.accrueStretch.demands = s.demands := by
  have hstart : s.accrueStretch.start = s.start := State.accrueStretch_touch (List.Subset.refl _) s (Touch.refl _ s) .start (by decide)
  unfold State.demands
  rw [State.accrueStretch_power, hstart]
theorem State.restretch_demands (s : State) : s.restretch.demands = s.demands := by
  rw [State.restretch_eq, State.rises_demands, State.accrueStretch_demands]
theorem mem_stretched {i : Nat} (hi : i < 52) (h : stretches i = true) : i ∈ (List.range 52).filter stretches :=
  List.mem_filter.2 ⟨List.mem_range.2 hi, h⟩
/-- Rises take effect at once (R491). -/
theorem State.restretch_meets (s : State) {i : Nat} (hi : i < 52) (h : stretches i = true) :
    s.restretch.demandOn i ≤ (s.restretch.inst i).level := by
  rw [demandOn_of_demands s.restretch_demands, ← demandOn_of_demands s.accrueStretch_demands]
  exact State.demandOn_le_rises (mem_stretched hi h) _
/-- A rise changes the clocks alone, of the power. -/
theorem State.restretch_power (s : State) : ∃ m c, s.restretch.power = { s.power with inst := m, stretchMark := c } := by
  have risen (l : List Nat) (t : State) : ∃ m, (l.foldl State.rise t).power = { t.power with inst := m } := by
    induction l generalizing t with
    | nil => exact ⟨_, rfl⟩
    | cons i l ih =>
      obtain ⟨m, hm⟩ := ih (t.rise i)
      refine ⟨m, hm.trans ?_⟩
      unfold State.rise
      split <;> rfl
  obtain ⟨m, hm⟩ := risen ((List.range 52).filter stretches) s.accrueStretch
  rw [State.accrueStretch_power] at hm
  exact ⟨m, _, hm⟩
theorem State.restretch_touched (s : State) : SameBut [.power, .ctr] s s.restretch :=
  State.restretch_touch (List.Subset.refl _) s (Touch.refl _ s)

/-! ### Events that are raised once -/

theorem State.eventOnce_power (s : State) (k step src code : Nat) (d : Bytes) : (s.eventOnce k step src code d).power = s.power :=
  State.eventOnce_touch (List.Subset.refl _) s k step src code d (Touch.refl _ s) .power (by decide)
theorem State.eventOnce_start (s : State) (k step src code : Nat) (d : Bytes) : (s.eventOnce k step src code d).start = s.start :=
  State.eventOnce_touch (List.Subset.refl _) s k step src code d (Touch.refl _ s) .start (by decide)
theorem raised_eventOnce {s : State} {k step : Nat} (src code : Nat) (d : Bytes) (hfirst : s.isFirst k step = true)
    (hheld : s.start.wardenHeld = false) : Raised (s.eventOnce k step src code d) src code := by
  unfold State.eventOnce
  rw [if_pos hfirst]
  exact raised_event _ _ _ _ hheld
/-- What a clock is, and what is demanded of it, rests on the power and on the dies that serve. -/
theorem inst_of_power {s t : State} (h : t.power = s.power) (i : Nat) : t.inst i = s.inst i := by
  unfold State.inst
  rw [h]
theorem demands_of_power {s t : State} (h : t.power = s.power) (hstart : t.start = s.start) : t.demands = s.demands := by
  unfold State.demands
  rw [h, hstart]
theorem Raised.congr {s t : State} {src code : Nat} (h : Raised s src code) (hlog : t.log = s.log) : Raised t src code := by
  unfold Raised
  rw [hlog]
  exact h

/-! ### The three commands of stretching -/

theorem State.modInst_time (s : State) (i : Nat) (f : ClkInst → ClkInst) : (s.modInst i f).time = s.time := rfl

/-- The cycle at which a level fell. -/
def State.noteFall (s : State) (i : Nat) : State := { s with power := { s.power with fallAt := sset 0 s.power.fallAt i s.time.cycles } }
theorem State.noteFall_inst (s : State) (i j : Nat) : (s.noteFall i).inst j = s.inst j := rfl
theorem State.noteFall_fallAt (s : State) (i : Nat) : sget 0 (s.noteFall i).power.fallAt i = s.time.cycles := sget_sset_same _ _ _ _
/-- A level falls by one. -/
def State.stepDown (s : State) (i : Nat) : State := (s.accrueStretch.modInst i fun c => { c with level := c.level - 1 }).noteFall i
theorem exec_stretchStepDown {s : State} {i : Nat} (hi : stretches i = true) (hlevel : s.demandOn i < (s.inst i).level)
    (hdue : sget 0 s.power.fallAt i + 400 ≤ s.time.cycles) : exec (.stretchStepDown i) s = .next (s.stepDown i) := by
  have due : ¬(!stretches i ∨ (s.inst i).level ≤ s.demandOn i ∨ s.time.cycles < sget 0 s.power.fallAt i + 400) := by
    simp only [hi, Bool.not_true, Bool.false_eq_true, false_or, not_or, Nat.not_le, Nat.not_lt]
    exact ⟨hlevel, hdue⟩
  show execStretchStepDown i s = _
  unfold execStretchStepDown
  rw [if_neg due]
  rfl
theorem State.stepDown_inst (s : State) (i j : Nat) :
    (s.stepDown i).inst j = (s.accrueStretch.modInst i fun c => { c with level := c.level - 1 }).inst j := State.noteFall_inst _ _ _
theorem State.stepDown_fallAt (s : State) (i : Nat) : sget 0 (s.stepDown i).power.fallAt i = s.time.cycles := by
  have htime : s.accrueStretch.time = s.time := State.accrueStretch_touch (List.Subset.refl _) s (Touch.refl _ s) .time (by decide)
  unfold State.stepDown
  rw [State.noteFall_fallAt, State.modInst_time, htime]

/-- The thermal demand of a sensor is set. -/
def State.setThermal (s : State) (sensor n : Nat) : State :=
  { s with power := { s.power with thermal := sset 0 s.power.thermal sensor n, thermalAt := sset 0 s.power.thermalAt sensor s.time.cycles } }
/-- The demand of a sensor after a reading. -/
def State.thermalStep (s : State) (sensor reading : Nat) : State :=
  let d := sget 0 s.power.thermal sensor
  let since := s.time.cycles - sget 0 s.power.thermalAt sensor
  if throttleAt sensor ≤ reading ∧ 4000 ≤ since ∧ d < 64 then (s.setThermal sensor (d + 1)).restretch
  else if reading + 2 ≤ throttleAt sensor ∧ 40000 ≤ since ∧ 0 < d then s.setThermal sensor (d - 1)
  else s
theorem exec_thermalDemandUpdate (s : State) (sensor reading : Nat) : exec (.thermalDemandUpdate sensor reading) s = .next
    (let t := (s.noteTemp sensor reading).thermalStep sensor reading
     if 0 < sget 0 t.power.thermal sensor then t.eventOnce 0x700000 s.stepKey wardenSrc 0x7010 (u32 sensor ++ u32 reading) else t) := rfl
theorem State.thermalStep_touched (s : State) (sensor reading : Nat) : SameBut [.power, .ctr] s (s.thermalStep sensor reading) := by
  unfold State.thermalStep
  dsimp only
  split
  · exact ((sb_power s _).trans (State.restretch_touched _)).mono (by decide)
  · split
    · exact (sb_power s _).mono (by decide)
    · exact Touch.refl _ s
theorem State.thermalStep_temps (s : State) (sensor reading : Nat) : (s.thermalStep sensor reading).power.temps = s.power.temps := by
  unfold State.thermalStep
  dsimp only
  split
  · obtain ⟨m, c, h⟩ := (s.setThermal sensor (sget 0 s.power.thermal sensor + 1)).restretch_power
    rw [h]
    rfl
  · split <;> rfl
theorem State.thermalStep_thermal (s : State) (sensor reading : Nat) : sget 0 (s.thermalStep sensor reading).power.thermal sensor =
    if throttleAt sensor ≤ reading ∧ sget 0 s.power.thermalAt sensor + 4000 ≤ s.time.cycles ∧ sget 0 s.power.thermal sensor < 64 then
      sget 0 s.power.thermal sensor + 1
    else if reading + 2 ≤ throttleAt sensor ∧ sget 0 s.power.thermalAt sensor + 40000 ≤ s.time.cycles then sget 0 s.power.thermal sensor - 1
    else sget 0 s.power.thermal sensor := by
  have hset (n : Nat) : sget 0 (s.setThermal sensor n).power.thermal sensor = n := sget_sset_same _ _ _ _
  have hraised (n : Nat) : sget 0 (s.setThermal sensor n).restretch.power.thermal sensor = n := by
    obtain ⟨m, c, h⟩ := (s.setThermal sensor n).restretch_power
    rw [h]
    exact hset n
  have hcool : 40000 ≤ s.time.cycles - sget 0 s.power.thermalAt sensor ↔ sget 0 s.power.thermalAt sensor + 40000 ≤ s.time.cycles := by omega
  have hhot : 4000 ≤ s.time.cycles - sget 0 s.power.thermalAt sensor ↔ sget 0 s.power.thermalAt sensor + 4000 ≤ s.time.cycles := by omega
  unfold State.thermalStep
  simp only [hcool, hhot]
  split
  · exact hraised _
  · by_cases hdown : reading + 2 ≤ throttleAt sensor ∧ sget 0 s.power.thermalAt sensor + 40000 ≤ s.time.cycles
    · rw [if_pos hdown]
      split
      · exact hset _
      · next h =>
        have hzero : ¬0 < sget 0 s.power.thermal sensor := fun h0 => h ⟨hdown.1, hdown.2, h0⟩
        omega
    · rw [if_neg hdown, if_neg fun h => hdown ⟨h.1, h.2.1⟩]
/-- Where the demand of a sensor rises, every demand is met. -/
theorem State.thermalStep_meets {s : State} {sensor reading i : Nat}
    (hrise : sget 0 s.power.thermal sensor < sget 0 (s.thermalStep sensor reading).power.thermal sensor) (hi : i < 52) (h : stretches i = true) :
    (s.thermalStep sensor reading).demandOn i ≤ ((s.thermalStep sensor reading).inst i).level := by
  unfold State.thermalStep at *
  dsimp only at *
  split at hrise
  · next hup =>
    rw [if_pos hup]
    exact State.restretch_meets _ hi h
  · split at hrise
    · exact absurd hrise (by rw [show sget 0 (s.setThermal sensor (sget 0 s.power.thermal sensor - 1)).power.thermal sensor
        = sget 0 s.power.thermal sensor - 1 from sget_sset_same _ _ _ _]; omega)
    · exact absurd hrise (Nat.lt_irrefl _)

/-- A sample of the input power is taken. -/
def State.samplePower (s : State) (watts : Nat) : State :=
  let run := if 6500 < watts then s.power.powerRun + 1 else 0
  let rise := (if 7200 < watts then 8 else 0) + (if 100 < run then 1 else 0)
  { s with power := { s.power with power := watts, powerRun := run,
                                   powerDemand := if watts ≤ 6500 then s.power.powerDemand - 1 else min 64 (s.power.powerDemand + rise) } }
theorem exec_powerSample (s : State) (watts : Nat) : exec (.powerSample watts) s = .next
    (if 0 < (s.samplePower watts).power.powerDemand then
      (s.samplePower watts).restretch.eventOnce 0x700001 (s.samplePower watts).restretch.stepKey wardenSrc 0x7011 (u32 watts)
    else (s.samplePower watts).restretch) := rfl
theorem State.samplePower_demand (s : State) (watts : Nat) : (s.samplePower watts).power.powerDemand =
    if watts ≤ 6500 then s.power.powerDemand - 1
    else min 64 (s.power.powerDemand + (if 7200 < watts then 8 else 0) + if 100 ≤ s.power.powerRun then 1 else 0) := by
  unfold State.samplePower
  dsimp only
  split
  · rfl
  · next h =>
    have hrun : (100 < if 6500 < watts then s.power.powerRun + 1 else 0) ↔ 100 ≤ s.power.powerRun := by
      rw [if_pos (Nat.lt_of_not_le h)]
      omega
    simp only [hrun, Nat.add_assoc]

end Sys2Proof.Machine
end

section
open Sys2Proof Sys2Proof.Machine

/-- Settles O31: each command sets its demand; where it rises, the levels rise to it. -/
theorem demandsStretchTheClocks : Obligations.DemandsStretchTheClocks := by
  unfold Obligations.DemandsStretchTheClocks
  refine ⟨fun s i hi hlevel hdue => ?_, fun s sensor reading => ?_, fun s watts => ?_⟩
  · have hexec := exec_stretchStepDown hi hlevel hdue
    refine ⟨_, hexec, ?_, s.stepDown_fallAt i, fun j hj => ?_, sb_next hexec rfl⟩
    · rw [State.stepDown_inst, State.modInst_inst, State.accrueStretch_inst]
      show (s.inst i).level - 1 + 1 = _
      omega
    · rw [State.stepDown_inst, State.modInst_inst_other _ _ hj, State.accrueStretch_inst]
  · have hexec := exec_thermalDemandUpdate s sensor reading
    generalize hu : (s.noteTemp sensor reading).thermalStep sensor reading = u at hexec
    have hjob : u.job = s.job := by
      rw [← hu]
      exact State.thermalStep_touched _ _ _ .job (by decide)
    have hstart : u.start = s.start := by
      rw [← hu]
      exact State.thermalStep_touched _ _ _ .start (by decide)
    have hthermal := (s.noteTemp sensor reading).thermalStep_thermal sensor reading
    have htemps := (s.noteTemp sensor reading).thermalStep_temps sensor reading
    have hmeets := @State.thermalStep_meets (s.noteTemp sensor reading) sensor reading
    rw [hu] at hthermal htemps hmeets
    dsimp only at hexec
    generalize ht : (if 0 < sget 0 u.power.thermal sensor then u.eventOnce 0x700000 s.stepKey wardenSrc 0x7010 (u32 sensor ++ u32 reading) else u) = t
      at hexec
    have hpower : t.power = u.power := by
      rw [← ht]
      split
      · exact State.eventOnce_power _ _ _ _ _ _
      · rfl
    have htstart : t.start = u.start := by
      rw [← ht]
      split
      · exact State.eventOnce_start _ _ _ _ _ _
      · rfl
    refine ⟨t, hexec, ?_, sb_next hexec rfl, ?_, fun hrise i hi h => ?_, fun hpos hfirst hheld => ?_⟩
    · rw [hpower, htemps]
      exact sget_sset_same _ _ _ _
    · rw [hpower]
      exact hthermal
    · rw [hpower] at hrise
      rw [demandOn_of_demands (demands_of_power hpower htstart), inst_of_power hpower]
      exact hmeets hrise hi h
    · rw [hpower] at hpos
      rw [← ht, if_pos hpos]
      refine raised_eventOnce _ _ _ ?_ (hstart ▸ hheld)
      unfold State.isFirst
      rw [hjob]
      exact hfirst
  · have hexec := exec_powerSample s watts
    have hdemand := s.samplePower_demand watts
    obtain ⟨m, c, hp⟩ := (s.samplePower watts).restretch_power
    have hmeets := @State.restretch_meets (s.samplePower watts)
    have htouch := (sb_power s (s.samplePower watts).power).trans (State.restretch_touched (s.samplePower watts))
    have hjob : (s.samplePower watts).restretch.job = s.job := htouch .job (by decide)
    have hstart : (s.samplePower watts).restretch.start = s.start := htouch .start (by decide)
    generalize (s.samplePower watts).restretch = u at hexec hp hmeets hjob hstart
    generalize ht : (if 0 < (s.samplePower watts).power.powerDemand then u.eventOnce 0x700001 u.stepKey wardenSrc 0x7011 (u32 watts) else u) = t
      at hexec
    have hpower : t.power = u.power := by
      rw [← ht]
      split
      · exact State.eventOnce_power _ _ _ _ _ _
      · rfl
    have htstart : t.start = u.start := by
      rw [← ht]
      split
      · exact State.eventOnce_start _ _ _ _ _ _
      · rfl
    have htdemand : t.power.powerDemand = (s.samplePower watts).power.powerDemand := by rw [hpower, hp]
    refine ⟨t, hexec, by rw [hpower, hp]; rfl, sb_next hexec rfl, fun i hi h => ?_, by rw [hpower, hp]; rfl,
      htdemand.trans hdemand, fun hpos hfirst hheld => ?_⟩
    · rw [demandOn_of_demands (demands_of_power hpower htstart), inst_of_power hpower]
      exact hmeets hi h
    · rw [htdemand] at hpos
      rw [← ht, if_pos hpos]
      refine raised_eventOnce _ _ _ ?_ (hstart ▸ hheld)
      unfold State.isFirst State.stepKey
      rw [hjob]
      exact hfirst
end

section
/-! SUPPORT and PROOFS. The sources of the clocks, the supply feeds (R488 to R490, R494, R500 to R503). -/

namespace Sys2Proof.Machine

/-! ### The sources of a clock -/

/-- PLL B, or A. -/
abbrev pllNo (pllB : Bool) : Nat := if pllB then 1 else 0
/-- A PLL has lost lock. -/
def State.lockLoss (s : State) (inst : Nat) (pllB : Bool) : State :=
  s.modInst inst fun c => { c with lockA := c.lockA && pllB, lockB := c.lockB && !pllB, lockLost := true }
theorem exec_pllLockLoss (s : State) (inst : Nat) (pllB : Bool) : exec (.pllLockLoss inst pllB) s = .next
    (if (s.inst inst).target ≠ pllNo pllB then s.lockLoss inst pllB
     else if (if pllB then (s.inst inst).lockA else (s.inst inst).lockB) then
      (((s.lockLoss inst pllB).beginSwitch inst (1 - pllNo pllB)).bump kPllSwitchovers 1).event wardenSrc 0x7020 (u32 inst)
     else ((s.lockLoss inst pllB).beginSwitch inst 2).fault wardenSrc 0x7021) := by
  show execPllLockLoss inst pllB s = _
  unfold execPllLockLoss
  have hinst : (s.lockLoss inst pllB).inst inst = { s.inst inst with lockA := (s.inst inst).lockA && pllB, lockB := (s.inst inst).lockB && !pllB, lockLost := true } :=
    s.modInst_inst inst _
  change Host.Outcome.next (if ((s.lockLoss inst pllB).inst inst).target ≠ pllNo pllB then s.lockLoss inst pllB
    else if (if pllB then ((s.lockLoss inst pllB).inst inst).lockA else ((s.lockLoss inst pllB).inst inst).lockB) then _ else _) = _
  rw [hinst]
  cases pllB <;> simp [ClkInst.target, State.lockLoss, pllNo]
/-- What a switch of a clock that has lost a PLL leaves: the locks and the source. -/
theorem State.beginSwitch_lockLoss (s : State) (inst x : Nat) (pllB : Bool) : ((s.lockLoss inst pllB).beginSwitch inst x).inst inst =
    { s.inst inst with lockA := (s.inst inst).lockA && pllB, lockB := (s.inst inst).lockB && !pllB, lockLost := true, switching := some x } := by
  unfold State.beginSwitch State.lockLoss
  rw [State.modInst_inst, State.modInst_inst]

theorem exec_standbyRelock (s : State) (inst : Nat) (pllB ok : Bool) : exec (.standbyRelock inst pllB ok) s = .next
    (if ok = true ∧ (s.inst inst).target ≠ pllNo pllB then
      s.modInst inst fun c => if pllB then { c with lockB := true } else { c with lockA := true } else s) := by
  show execStandbyRelock inst pllB ok s = _
  unfold execStandbyRelock
  cases ok
  · rfl
  · by_cases h : (s.inst inst).target = pllNo pllB
    · rw [if_pos (.inr h), if_neg (by simp [h])]
    · rw [if_neg (by simpa using h), if_pos ⟨rfl, h⟩]

/-! ### The feeds -/

/-- A switch-over holds every clock that stretches at 32 at least. -/
theorem State.switchFeed_spec (s : State) (back : Bool) :
    (s.switchFeed back).power.switching = true ∧ (s.switchFeed back).power.feed = s.power.feed ∧ (s.switchFeed back).power.returning = back
      ∧ ∀ i, i < 52 → stretches i = true → 32 ≤ ((s.switchFeed back).inst i).level := by
  obtain ⟨m, c, h⟩ := ({ s with power := { s.power with switching := true, returning := back } } : State).restretch_power
  have hswitch : (s.switchFeed back).power.switching = true := by
    unfold State.switchFeed
    rw [h]
  refine ⟨hswitch, ?_, ?_, fun i hi hs => ?_⟩
  · unfold State.switchFeed
    rw [h]
  · unfold State.switchFeed
    rw [h]
  · have hdemand : 32 ≤ (s.switchFeed back).demandOn i := by
      unfold State.demandOn
      rw [hswitch]
      exact Nat.le_max_right _ _
    exact Nat.le_trans hdemand (State.restretch_meets _ hi hs)
theorem exec_switchOverStart {s : State} {main backup : Nat} (hidle : s.power.switching = false)
    (hlow : (if s.power.feed = 0 then main else backup) < 40000) (hgood : 40000 ≤ if s.power.feed = 0 then backup else main) :
    exec (.switchOverStart main backup) s = .next ((s.noteInputs main backup).switchFeed (decide (s.power.feed ≠ 0))) := by
  show Host.Outcome.next (if s.power.switching then _ else if s.power.feed = 0 then _ else _) = _
  rw [hidle]
  by_cases h : s.power.feed = 0
  · rw [if_pos h] at hlow hgood
    rw [if_neg Bool.false_ne_true, if_pos h, if_pos ⟨hlow, hgood⟩, h]
    rfl
  · rw [if_neg h] at hlow hgood
    rw [if_neg Bool.false_ne_true, if_neg h, if_pos ⟨hlow, hgood⟩, decide_eq_true h]
theorem exec_returnToMain {s : State} {main : Nat} (hidle : s.power.switching = false) (hfeed : s.power.feed ≠ 0)
    (hallowed : s.rwValue 0x9001 0 1 = 1) (hlow : 42000 ≤ main) (hhigh : main ≤ 58000) :
    exec (.returnToMain main) s = .next ((s.noteInputs main s.power.backup).switchFeed true) := by
  have hgo : ¬((s.noteInputs main s.power.backup).power.switching = true ∨ (s.noteInputs main s.power.backup).power.feed = 0
      ∨ (s.noteInputs main s.power.backup).rwValue 0x9001 0 1 ≠ 1 ∨ main < 42000 ∨ 58000 < main) := by
    rintro (h | h | h | h | h)
    · exact absurd (hidle.symm.trans h) Bool.false_ne_true
    · exact hfeed h
    · exact h hallowed
    · omega
    · omega
  exact congrArg Host.Outcome.next (if_neg hgo)
/-- The feed that the switch-over leads to. -/
def State.onFeed (s : State) : State :=
  { s with power := { s.power with switching := false, returning := false, feed := if s.power.returning then 0 else 1 } }
theorem exec_switchOverComplete {s : State} (h : s.power.switching = true) : exec .switchOverComplete s = .next
    (if s.power.returning then (s.onFeed.bump kFeedReturns 1).event wardenSrc 0x7001
     else ((s.onFeed.bump kSwitchovers 1).stress 16384).event wardenSrc 0x7000) := by
  show execSwitchOverComplete s = _
  unfold execSwitchOverComplete
  rw [if_neg (by simp [h])]
  rfl
theorem exec_supplyLost {s : State} {main backup : Nat} (hmain : main < 40000) (hbackup : backup < 40000) (hpowered : s.start.powered = true) :
    exec (.supplyLost main backup) s =
      .next ((((s.noteInputs main backup).fault wardenSrc 0x7003).hardNotice 0x7003).restarted 0 2 false) := by
  have hlost : ¬(40000 ≤ main ∨ 40000 ≤ backup ∨ !s.start.powered) := by
    simp only [hpowered, Bool.not_true, Bool.false_eq_true, or_false, not_or, Nat.not_le]
    exact ⟨hmain, hbackup⟩
  exact congrArg Host.Outcome.next (if_neg hlost)
/-- A restart keeps the history of faults and the stores, and no plan and no memory. -/
theorem State.restarted_spec (s : State) (stage cause : Nat) (powered : Bool) : let t := s.restarted stage cause powered
    t.start.powered = powered ∧ t.start.stage = stage ∧ t.job.plan = none ∧ t.mem = [] ∧ t.log.history = s.log.history
      ∧ t.start.stores = s.start.stores ∧ t.pending = s.pending := ⟨rfl, rfl, rfl, rfl, rfl, rfl, rfl⟩
theorem State.hardNotice_history (s : State) (code : Nat) : (s.hardNotice code).log.history = s.log.history := by
  unfold State.hardNotice
  exact foldl_same (fun s : State => s.log.history) _ _ _ fun s n => congrArg (fun x => x.1) (scars_of (s.sendOn_recorded n _ _ _ _ _))

/-- The reading of the input that is not in use. -/
def State.noteInactive (s : State) (mv : Nat) : State := if s.power.feed = 0 then s.noteInputs s.power.main mv else s.noteInputs mv s.power.backup
/-- The reading is judged: out of range it is reported once. -/
def State.judgeInactive (s : State) (mv : Nat) : State :=
  if 40000 ≤ mv ∧ mv ≤ 58000 then { s with power := { s.power with lowRaised := false } }
  else if s.power.lowRaised then s else { s with power := { s.power with lowRaised := true } }.event wardenSrc 0x7002
theorem exec_feedBackupLow (s : State) (mv : Nat) : exec (.feedBackupLow mv) s = .next ((s.noteInactive mv).judgeInactive mv) := rfl
theorem State.judgeInactive_power (s : State) (mv : Nat) :
    (s.judgeInactive mv).power = { s.power with lowRaised := decide ¬(40000 ≤ mv ∧ mv ≤ 58000) } := by
  unfold State.judgeInactive
  split
  · next h => rw [decide_eq_false (not_not.2 h)]
  · next h =>
    rw [decide_eq_true h]
    split
    · next hr => rw [← hr]
    · simp
theorem State.noteInactive_spec (s : State) (mv : Nat) : (if s.power.feed = 0 then (s.noteInactive mv).power.backup else (s.noteInactive mv).power.main) = mv
    ∧ (s.noteInactive mv).power.lowRaised = s.power.lowRaised ∧ (s.noteInactive mv).start = s.start := by
  unfold State.noteInactive
  split <;> exact ⟨rfl, rfl, rfl⟩

end Sys2Proof.Machine
end

section
open Sys2Proof Sys2Proof.Machine

/-- Settles O32: a lost lock is noted; where the PLL is the one in use, the switch to the other begins, or the fault. -/
theorem clocksSwitchToTheirOtherPll : Obligations.ClocksSwitchToTheirOtherPll := by
  unfold Obligations.ClocksSwitchToTheirOtherPll
  refine ⟨fun s inst pllB => ?_, fun s inst pllB ok => ?_, fun s inst => ?_⟩
  · have hexec := exec_pllLockLoss s inst pllB
    have hloss : (s.lockLoss inst pllB).inst inst = { s.inst inst with lockA := (s.inst inst).lockA && pllB, lockB := (s.inst inst).lockB && !pllB, lockLost := true } :=
      s.modInst_inst inst _
    by_cases htarget : (s.inst inst).target = pllNo pllB
    · rw [if_neg (not_not.2 htarget)] at hexec
      by_cases hother : (if pllB then (s.inst inst).lockA else (s.inst inst).lockB) = true
      · rw [if_pos hother] at hexec
        have hpower : ((((s.lockLoss inst pllB).beginSwitch inst (1 - pllNo pllB)).bump kPllSwitchovers 1).event wardenSrc 0x7020 (u32 inst)).power
            = ((s.lockLoss inst pllB).beginSwitch inst (1 - pllNo pllB)).power := by simp
        have hinst := (inst_of_power hpower inst).trans (s.beginSwitch_lockLoss inst (1 - pllNo pllB) pllB)
        refine ⟨_, hexec, by rw [hinst], by rw [hinst], by rw [hinst], by rw [hinst], fun h => absurd htarget h, fun _ _ => ⟨?_, ?_, ?_⟩,
          fun _ h => absurd hother (by rw [h]; decide)⟩
        · rw [hinst]
          cases pllB <;> rfl
        · simp [State.lockLoss, State.beginSwitch]
        · exact fun hheld => raised_event _ _ _ _ (by simpa [State.lockLoss, State.beginSwitch] using hheld)
      · rw [if_neg hother] at hexec
        have hpower : (((s.lockLoss inst pllB).beginSwitch inst 2).fault wardenSrc 0x7021).power = ((s.lockLoss inst pllB).beginSwitch inst 2).power := by simp
        have hinst := (inst_of_power hpower inst).trans (s.beginSwitch_lockLoss inst 2 pllB)
        obtain ⟨hfaulted, hlatch, -⟩ := State.fault_spec ((s.lockLoss inst pllB).beginSwitch inst 2) wardenSrc 0x7021 []
        exact ⟨_, hexec, by rw [hinst], by rw [hinst], by rw [hinst], by rw [hinst], fun h => absurd htarget h, fun _ h => absurd h hother,
          fun _ _ => ⟨hfaulted, hlatch⟩⟩
    · rw [if_pos htarget] at hexec
      exact ⟨_, hexec, by rw [hloss], by rw [hloss], by rw [hloss], by rw [hloss], fun _ => ⟨by rw [hloss], sb_power s _⟩,
        fun h => absurd h htarget, fun h => absurd h htarget⟩
  · have hexec := exec_standbyRelock s inst pllB ok
    by_cases h : ok = true ∧ (s.inst inst).target ≠ pllNo pllB
    · rw [if_pos h] at hexec
      refine ⟨_, hexec, ?_⟩
      rw [if_pos h, State.modInst_inst]
      cases pllB <;> exact ⟨rfl, rfl, sb_power s _⟩
    · rw [if_neg h] at hexec
      exact ⟨s, hexec, by rw [if_neg h]⟩
  · cases hswitch : (s.inst inst).switching with
    | none =>
      refine ⟨s, ?_, rfl⟩
      show execClockSwitchDone inst s = _
      unfold execClockSwitchDone
      rw [hswitch]
    | some x =>
      refine ⟨s.modInst inst fun c => { c with source := x, switching := none, switched := true }, ?_, ?_⟩
      · show execClockSwitchDone inst s = _
        unfold execClockSwitchDone
        rw [hswitch]
      · dsimp only
        rw [State.modInst_inst]
        exact ⟨rfl, rfl, sb_power s _⟩

/-- Settles O33: a switch-over holds the clocks that stretch at 32; a module without a supply powers down with its history kept. -/
theorem feedsSwitchOver : Obligations.FeedsSwitchOver := by
  unfold Obligations.FeedsSwitchOver
  refine ⟨fun s main backup hidle hlow hgood => ?_, fun s main hidle hfeed hallowed hlow hhigh => ?_, fun s hswitch hheld => ?_,
    fun s main backup hmain hbackup hpowered => ?_, fun s mv => ?_⟩
  · have hexec := exec_switchOverStart hidle hlow hgood
    obtain ⟨hsw, hfeed, hback, hlevel⟩ := (s.noteInputs main backup).switchFeed_spec (decide (s.power.feed ≠ 0))
    exact ⟨_, hexec, hsw, hfeed, hback, hlevel, sb_next hexec rfl⟩
  · have hexec := exec_returnToMain hidle hfeed hallowed hlow hhigh
    obtain ⟨hsw, hkept, hback, hlevel⟩ := (s.noteInputs main s.power.backup).switchFeed_spec true
    exact ⟨_, hexec, hsw, hback, hkept, hlevel, sb_next hexec rfl⟩
  · have hexec := exec_switchOverComplete hswitch
    refine ⟨_, hexec, ?_, ?_, ?_, sb_next hexec rfl⟩
    · split <;> simp [State.onFeed]
    · split <;> simp [State.onFeed, *]
    · split
      · exact raised_event _ _ _ _ hheld
      · exact raised_event _ _ _ _ hheld
  · have hexec := exec_supplyLost hmain hbackup hpowered
    obtain ⟨hpow, hstage, hplan, hmem, hhistory, hstores, hpending⟩ :=
      State.restarted_spec (((s.noteInputs main backup).fault wardenSrc 0x7003).hardNotice 0x7003) 0 2 false
    have htouch := State.hardNotice_touch (List.Subset.refl _) ((s.noteInputs main backup).fault wardenSrc 0x7003) 0x7003 (Touch.refl _ _)
    have hfaulted := State.fault_faulted (s.noteInputs main backup) wardenSrc 0x7003 []
    refine ⟨_, hexec, hpow, hstage, hplan, hmem, ?_, ?_, ?_⟩
    · unfold Faulted
      rw [hhistory, State.hardNotice_history]
      exact hfaulted
    · rw [hstores, htouch .start (by decide)]
      simp [State.noteInputs]
    · rw [hpending, htouch .pending (by decide)]
      simp [State.noteInputs]
  · have hexec := exec_feedBackupLow s mv
    obtain ⟨hread, hraised, hstart⟩ := s.noteInactive_spec mv
    generalize s.noteInactive mv = u at hexec hread hraised hstart
    refine ⟨_, hexec, sb_next hexec rfl, ?_, by rw [u.judgeInactive_power], fun hbad hlow hheld => ?_⟩
    · rw [u.judgeInactive_power]
      exact hread
    · unfold State.judgeInactive
      rw [if_neg hbad, if_neg (by simp [hraised, hlow])]
      exact raised_event _ _ _ _ (by simpa [hstart] using hheld)
end

section
/-! SUPPORT and PROOFS. Scrubbing, refresh, the links to CXL devices, tests and lockstep (R240, R262, R292, R297, R471 to R477, R542). -/

namespace Sys2Proof.Machine

/-! ### Scrub reads -/

theorem sb_bg (s : State) (x : Background) : SameBut [.bg] s { s with bg := x } := by
  intro p hp
  cases p with
  | bg => exact absurd (by decide) hp
  | _ => rfl
theorem State.background_of {s : State} (hpowered : s.start.powered = true) (hstump : s.start.stump = none) (hstage : s.start.stage = 9) :
    s.background = true := by
  simp [State.background, hpowered, hstump, hstage]
/-- A pass of a memory class ends. -/
def State.endPass (s : State) (cls : Nat) : State :=
  { s with bg := { s.bg with passes := supd 0 s.bg.passes cls (· + 1), passMs := sset 0 s.bg.passMs cls ((s.time.cycles - sget 0 s.bg.passBegan cls) / msCycles),
                             passBegan := sset 0 s.bg.passBegan cls s.time.cycles, behind := sset false s.bg.behind cls false } }
/-- What a scrub read does with what nature delivers. -/
def afterScrub (cls : Nat) (last : Bool) (x : Bool × State) : State := if !x.1 ∨ !last then x.2 else x.2.endPass cls
theorem exec_scrubRead {s : State} {cls : Nat} (hcls : cls ≤ 2) (hbg : s.background = true) (checks : List MemCheck) (last : Bool) :
    exec (.scrubRead cls checks last) s =
      .next (afterScrub cls last ((s.noteScrub (checks.filter s.scrubbed)).checked (checks.filter s.scrubbed))) := by
  have hgo : ¬(2 < cls ∨ !s.background) := by
    simp only [hbg, Bool.not_true, Bool.false_eq_true, or_false, Nat.not_lt]
    exact hcls
  exact congrArg Host.Outcome.next (if_neg hgo)
theorem State.checked_one (s : State) (c : MemCheck) : s.checked [c] = s.checkedOne c := by
  show (match s.checkedOne c with | (true, t) => t.checked [] | (false, t) => (false, t)) = _
  rcases s.checkedOne c with ⟨b, t⟩
  cases b <;> rfl
/-- A read whose data may not be used ends a scrub read with what it left. -/
theorem exec_scrubRead_bad {s t : State} {cls : Nat} {c : MemCheck} (hcls : cls ≤ 2) (hbg : s.background = true) (hscrub : s.scrubbed c = true)
    (hbad : (s.noteScrub [c]).checkedOne c = (false, t)) (last : Bool) : exec (.scrubRead cls [c] last) s = .next t := by
  rw [exec_scrubRead hcls hbg, List.filter_singleton, hscrub, cond_true, State.checked_one, hbad]
  rfl
/-- A read that fails is a fault, and nothing else than a fault and its report changes memory or the background work. -/
theorem fault_spec_of (s : State) {u : State} (src code : Nat) (d : Bytes) (hmem : u.mem = s.mem) (hbg : u.bg = s.bg) :
    Faulted (u.fault src code d) src code ∧ (u.fault src code d).safe.latch = true ∧ (u.fault src code d).mem = s.mem
      ∧ (u.fault src code d).bg = s.bg := by
  obtain ⟨hfaulted, hlatch, -⟩ := u.fault_spec src code d
  exact ⟨hfaulted, hlatch, by simp [hmem], by simp [hbg]⟩
theorem State.checkedLine_bad {s : State} {die code line : Nat} {reads : List LineRead} (h : rereadsUsed 1 (lineOk code line) reads = none) :
    ∃ d, s.checkedLine die code line reads = (false, s.fault (dieSrc die) 0x1100 d) := by
  unfold State.checkedLine
  rw [h]
  dsimp only
  split
  · exact ⟨_, rfl⟩
  · exact ⟨_, rfl⟩

/-! ### Stacks -/

theorem State.stackTempRead_base (s : State) (stack temp : Nat) :
    sget {} ((s.modBase stack fun b => { b with temp := temp, refreshHigh := decide (85 ≤ temp) }).noteTemp (128 + stack) temp).base stack =
      { sget {} s.base stack with temp := temp, refreshHigh := decide (85 ≤ temp) } :=
  sget_supd_same {} s.base stack fun b : BaseDie => { b with temp := temp, refreshHigh := decide (85 ≤ temp) }

/-! ### The links to CXL devices -/

/-- A device that is changed is found under its port and number again. -/
theorem State.cxlDevice_modDevice {s : State} {port dev : Nat} {d : CxlDevice} (h : s.cxlDevice port dev = some d) {f : CxlDevice → CxlDevice}
    (hf : ∀ d, (f d).port = d.port ∧ (f d).dev = d.dev) : (s.modDevice port dev f).cxlDevice port dev = some (f d) := by
  have hkey (x : CxlDevice) : ((if x.port = port ∧ x.dev = dev then f x else x).port = port ∧ (if x.port = port ∧ x.dev = dev then f x else x).dev = dev)
      ↔ (x.port = port ∧ x.dev = dev) := by
    split
    · rw [(hf x).1, (hf x).2]
    · exact Iff.rfl
  have hd : d.port = port ∧ d.dev = dev := by simpa using List.find?_some h
  unfold State.cxlDevice State.modDevice at *
  dsimp only
  rw [List.find?_map]
  rw [show ((fun d : CxlDevice => decide (d.port = port ∧ d.dev = dev)) ∘ fun d => if d.port = port ∧ d.dev = dev then f d else d)
    = fun d => decide (d.port = port ∧ d.dev = dev) from funext fun x => decide_eq_decide.2 (hkey x), h]
  exact congrArg some (if_pos hd)
theorem cxlDevice_of {s t : State} (h : t.cxl = s.cxl) (port dev : Nat) : t.cxlDevice port dev = s.cxlDevice port dev := by
  unfold State.cxlDevice
  rw [h]
theorem State.stress_count (s : State) (n k : Nat) : (s.stress n).count k = s.count k := rfl
/-- A link is back. -/
def State.retrained (s : State) (port dev speed width : Nat) : State :=
  (((s.modDevice port dev fun d => { d with link := if speed = 0 then 0 else 2, speed := speed, width := width }).bump kCxlRetrains 1).stress 4096).event
    (cxlSrc port) 0x6400
theorem exec_cxlLinkRetrain {s : State} {port dev : Nat} {d : CxlDevice} (h : s.cxlDevice port dev = some d) (speed width : Nat) :
    exec (.cxlLinkRetrain port dev speed width) s = .next
      (if speed < d.foundSpeed ∨ width < d.foundWidth then (s.retrained port dev speed width).event (cxlSrc port) 0x6402
       else s.retrained port dev speed width) := by
  show execCxlLinkRetrain port dev speed width s = _
  unfold execCxlLinkRetrain
  rw [h]
  rfl
theorem State.retrained_count (s : State) (port dev speed width : Nat) : (s.retrained port dev speed width).count kCxlRetrains = s.count kCxlRetrains + 1 := by
  unfold State.retrained
  rw [State.event_count _ _ _ _ _ (by decide) (by decide) (by decide), State.stress_count, count_bump]
  rfl
theorem State.retrained_cxl (s : State) (port dev speed width : Nat) : (s.retrained port dev speed width).cxl =
    (s.modDevice port dev fun d => { d with link := if speed = 0 then 0 else 2, speed := speed, width := width }).cxl := by
  simp [State.retrained]
theorem exec_cxlLinkDown {s : State} {port dev : Nat} {d : CxlDevice} (h : s.cxlDevice port dev = some d) (hlink : d.link ≠ 0) :
    exec (.cxlLinkDown port dev) s = .next
      ((if s.reserveOn d then (s.modDevice port dev fun d => { d with link := 0 }).fault (cxlSrc port) 0x6401
        else (s.modDevice port dev fun d => { d with link := 0 }).event (cxlSrc port) 0x6401).partnerLost { d with link := 0 }) := by
  show execCxlLinkDown port dev s = _
  unfold execCxlLinkDown
  rw [h]
  exact congrArg Host.Outcome.next (if_neg hlink)
theorem State.partnerLost_touched (s : State) (d : CxlDevice) : SameBut [.log, .host, .snap, .ctr, .out] s (s.partnerLost d) :=
  State.partnerLost_touch (List.Subset.refl _) s d (Touch.refl _ s)

/-! ### Tests and lockstep -/

theorem sb_safe (s : State) (x : Safety) : SameBut [.safe] s { s with safe := x } := by
  intro p hp
  cases p with
  | safe => exact absurd (by decide) hp
  | _ => rfl
theorem exec_unitKatTest {s : State} {unit : Nat} (hplan : s.job.plan ≠ none) (hunit : unit / 512 ∈ s.start.dieMap ∨ (52 ≤ unit / 512 ∧ unit / 512 < 92))
    (ok : Bool) : exec (.unitKatTest unit ok) s = .next
      (let t := { s with safe := { s.safe with unitTest := sset 0 s.safe.unitTest unit s.time.cycles } }
       if ok then t.bump kUnitKats 1 else t.fault unit 0x1205 (u16 unit)) := by
  have hgo : ¬(s.job.plan.isNone ∨ !s.testsUnits (unit / 512)) := by
    have htests : s.testsUnits (unit / 512) = true := by simpa [State.testsUnits] using hunit
    simp [htests, hplan]
  exact congrArg Host.Outcome.next (if_neg hgo)
theorem exec_checkerSelfTest {s : State} {checker : Nat} (hbg : s.background = true) (hdue : sget 0 s.safe.selfTest checker + 60 * secCycles ≤ s.time.cycles)
    (waits ok : Bool) : exec (.checkerSelfTest checker waits ok) s = .next
      (if waits then { s with safe := { s.safe with selftestDue := true } }
       else
        let t := { s with safe := { s.safe with selftestDue := false, selfTest := sset 0 s.safe.selfTest checker s.time.cycles } }
        if ok then t.bump kSelfTests 1 else t.fault checker 0x1206 (u16 checker)) := by
  have hgo : ¬(!s.background ∨ s.time.cycles < sget 0 s.safe.selfTest checker + 60 * secCycles) := by
    simp only [hbg, Bool.not_true, Bool.false_eq_true, false_or, Nat.not_lt]
    exact hdue
  exact congrArg Host.Outcome.next (if_neg hgo)
theorem exec_controllerLockstep {s : State} {source : Nat}
    (h : source / 512 ∈ s.start.dieMap ∨ (52 ≤ source / 512 ∧ source / 512 < 92) ∨ (96 ≤ source / 512 ∧ source / 512 < 99)) :
    exec (.controllerLockstep source) s = .next (s.fault source 0x1201 (u16 source)) := by
  have hcontrols : s.controls (source / 512) = true := by
    simpa [State.controls, State.testsUnits, or_assoc] using h
  exact congrArg Host.Outcome.next (if_pos hcontrols)
/-- The units stop and the notices go out, with nothing recorded. -/
def State.stopped (s : State) : State := (s.stopUnits.faultCheckpoint wardenSrc 0x1200).hardNotice 0x1200
theorem exec_wardenLockstep (s : State) : exec .wardenLockstep s = .next { s.stopped with
    safe := { s.stopped.safe with latch := true, inhibit := true },
    job := if s.stopped.job.plan.isSome then { s.stopped.job with state := .fault, pendingPause := none, resumeAt := none, stopping := false } else s.stopped.job,
    start := { s.stopped.start with wardenHeld := true } } := rfl
theorem State.stopped_touched (s : State) : SameBut [.log, .clusters, .upd, .limbers, .cow, .skid, .host, .ingest, .snap, .ctr, .out] s s.stopped :=
  State.hardNotice_touch (by decide) _ _ (State.faultCheckpoint_touch (by decide) _ _ _ (State.stopUnits_touch (by decide) s (Touch.refl _ s)))
theorem State.stopped_history (s : State) : s.stopped.log.history = s.log.history := by
  unfold State.stopped
  rw [State.hardNotice_history]
  exact congrArg (fun x => x.1) (State.faultCheckpoint_scars s.stopUnits wardenSrc 0x1200)

end Sys2Proof.Machine
end

section
open Sys2Proof Sys2Proof.Machine

/-- Settles O35: a scrub read ends with what its reads left; a pass that ends is recorded. -/
theorem memoryIsScrubbedAndRefreshed : Obligations.MemoryIsScrubbedAndRefreshed := by
  unfold Obligations.MemoryIsScrubbedAndRefreshed
  refine ⟨fun s cls hcls hpowered hstump hstage => ?_, fun s cls hcls hpowered hstump hstage hbehind hlate hheld => ?_, fun s stack temp => ?_⟩
  · have hbg := State.background_of hpowered hstump hstage
    refine ⟨⟨s, exec_scrubRead hcls hbg [] false, rfl⟩, ⟨s.endPass cls, exec_scrubRead hcls hbg [] true, ?_, ?_, ?_, ?_, sb_bg s _⟩,
      fun die code line reads hscrub => ⟨fun last hbad => ?_, fun hone => ?_⟩, fun a reads last hbad => ?_, fun port device a reads last hbad => ?_⟩
    · exact sget_supd_same 0 s.bg.passes cls (· + 1)
    · exact sget_sset_same 0 s.bg.passMs cls _
    · exact sget_sset_same false s.bg.behind cls false
    · exact sget_sset_same 0 s.bg.passBegan cls _
    · obtain ⟨d, hd⟩ := State.checkedLine_bad (s := s) (die := die) hbad
      exact ⟨_, exec_scrubRead_bad hcls hbg hscrub hd last, fault_spec_of s _ _ _ rfl rfl⟩
    · have hcheck : s.checkedOne (.sram die code line reads) = (true, (s.bump kSramRereads 1).stress 16) := by
        show s.checkedLine die code line reads = _
        unfold State.checkedLine
        rw [hone]
        rfl
      refine ⟨(s.bump kSramRereads 1).stress 16, ?_, (State.stress_count _ _ _).trans (count_bump s kSramRereads 1), State.stress_touch (by decide) _ _ (State.bump_touch (by decide) _ _ _ (Touch.refl _ s))⟩
      rw [exec_scrubRead hcls hbg, List.filter_singleton, hscrub, cond_true, State.checked_one]
      exact congrArg (fun x => Host.Outcome.next (afterScrub cls false x)) hcheck
    · have hcheck : ∃ u d, (s.noteScrub [.hbm a reads]).checkedOne (.hbm a reads) = (false, State.fault u (dieSrc (52 + stackOf a)) 0x1101 d)
          ∧ u.mem = s.mem ∧ u.bg = s.bg := by
        show ∃ u d, State.checkedBurst _ a reads = _ ∧ _
        unfold State.checkedBurst
        rw [hbad]
        exact ⟨_, _, rfl, rfl, rfl⟩
      obtain ⟨u, d, hu, hmem, hbgu⟩ := hcheck
      exact ⟨_, exec_scrubRead_bad hcls hbg rfl hu last, fault_spec_of s _ _ _ hmem hbgu⟩
    · have hcheck : ∃ u d, (s.noteScrub [.cxl port device a reads]).checkedOne (.cxl port device a reads) = (false, State.fault u (dieSrc (97 + port)) 0x1102 d)
          ∧ u.mem = s.mem ∧ u.bg = s.bg := by
        show ∃ u d, State.checkedTier _ port device a reads = _ ∧ _
        unfold State.checkedTier
        rw [hbad]
        refine ⟨_, _, rfl, ?_, ?_⟩
        · dsimp only
          split <;> split <;> rfl
        · dsimp only
          split <;> split <;> rfl
      obtain ⟨u, d, hu, hmem, hbgu⟩ := hcheck
      exact ⟨_, exec_scrubRead_bad hcls hbg rfl hu last, fault_spec_of s _ _ _ hmem hbgu⟩
  · have hgo : ¬(2 < cls ∨ !s.background ∨ sget false s.bg.behind cls ∨ s.time.cycles < sget 0 s.bg.passBegan cls + 2 * scrubPeriod cls) := by
      simp only [State.background_of hpowered hstump hstage, hbehind, Bool.not_true, Bool.false_eq_true, false_or, not_or, Nat.not_lt]
      exact ⟨hcls, hlate⟩
    have hexec : exec (.scrubBehind cls) s = .next
        (({ s with bg := { s.bg with behind := sset false s.bg.behind cls true } } : State).event wardenSrc 0x1300 (u32 cls)) :=
      congrArg Host.Outcome.next (if_neg hgo)
    refine ⟨_, hexec, ?_, raised_event _ _ _ _ hheld, sb_next hexec rfl⟩
    simp
  · refine ⟨⟨s, rfl, rfl⟩, ⟨s, rfl, rfl⟩, _, rfl, ?_, ?_, sget_sset_same _ _ _ _, sb_next (c := .stackTempRead stack temp) rfl rfl⟩
    · rw [State.stackTempRead_base]
    · rw [State.stackTempRead_base]
      exact decide_eq_true_iff

/-- Settles O36: the device is changed and reported; where a reserve lies on a lost one the report is a fault. -/
theorem cxlLinksRetrainOrGoDown : Obligations.CxlLinksRetrainOrGoDown := by
  unfold Obligations.CxlLinksRetrainOrGoDown
  intro s port dev d hd
  refine ⟨fun speed width hheld => ?_, fun hlink => ?_⟩
  · have hexec := exec_cxlLinkRetrain hd speed width
    have hdev := (cxlDevice_of (s.retrained_cxl port dev speed width) port dev).trans
      (State.cxlDevice_modDevice hd (f := fun d => { d with link := if speed = 0 then 0 else 2, speed := speed, width := width }) fun _ => ⟨rfl, rfl⟩)
    have hcount := s.retrained_count port dev speed width
    have hraised : Raised (s.retrained port dev speed width) (cxlSrc port) 0x6400 := raised_event _ _ _ _ hheld
    have hstart : (s.retrained port dev speed width).start.wardenHeld = false := by simpa [State.retrained] using hheld
    by_cases hlow : speed < d.foundSpeed ∨ width < d.foundWidth
    · rw [if_pos hlow] at hexec
      refine ⟨_, hexec, ?_, ?_, sb_next hexec rfl, ?_⟩
      · exact (cxlDevice_of (by simp) port dev).trans hdev
      · rw [State.event_count _ _ _ _ _ (by decide) (by decide) (by decide), hcount]
      · rw [if_pos hlow]
        exact raised_event _ _ _ _ hstart
    · rw [if_neg hlow] at hexec
      refine ⟨_, hexec, hdev, hcount, sb_next hexec rfl, ?_⟩
      rw [if_neg hlow]
      exact hraised
  · have hexec := exec_cxlLinkDown hd hlink
    have hdev := State.cxlDevice_modDevice hd (f := fun d => { d with link := 0 }) fun _ => ⟨rfl, rfl⟩
    by_cases hres : s.reserveOn d = true
    · rw [if_pos hres] at hexec
      have hsame := State.partnerLost_touched ((s.modDevice port dev fun d => { d with link := 0 }).fault (cxlSrc port) 0x6401) { d with link := 0 }
      obtain ⟨-, hlatch, -⟩ := (s.modDevice port dev fun d => { d with link := 0 }).fault_spec (cxlSrc port) 0x6401 []
      refine ⟨_, hexec, ?_, fun _ => ?_, fun h => absurd hres (by simp [h]), ?_⟩
      · exact (cxlDevice_of (hsame .cxl (by decide)) port dev).trans ((cxlDevice_of (by simp) port dev).trans hdev)
      · rw [hsame .safe (by decide)]
        exact hlatch
      · rw [hsame .mem (by decide)]
        simp [State.modDevice]
    · rw [if_neg hres] at hexec
      have hsame := State.partnerLost_touched ((s.modDevice port dev fun d => { d with link := 0 }).event (cxlSrc port) 0x6401) { d with link := 0 }
      refine ⟨_, hexec, ?_, fun h => absurd h hres, fun _ => ⟨?_, ?_⟩, ?_⟩
      · exact (cxlDevice_of (hsame .cxl (by decide)) port dev).trans ((cxlDevice_of (by simp) port dev).trans hdev)
      · rw [hsame .safe (by decide)]
        simp [State.modDevice]
      · rw [hsame .job (by decide)]
        simp [State.modDevice]
      · rw [hsame .mem (by decide)]
        simp [State.modDevice]

/-- Settles O37: a test is counted or is a fault; a warden out of lockstep is held with nothing recorded. -/
theorem testsAndLockstepStopTheModule : Obligations.TestsAndLockstepStopTheModule := by
  unfold Obligations.TestsAndLockstepStopTheModule
  refine ⟨fun s unit hplan hunit => ⟨?_, ?_⟩, fun s checker hpowered hstump hstage hdue => ⟨fun ok => ?_, ?_, ?_⟩,
    fun s source hsource hlatch => ?_, fun s => ?_⟩
  · have hexec := exec_unitKatTest hplan hunit true
    exact ⟨_, hexec, count_bump _ _ _, sget_sset_same _ _ _ _, rfl, ((sb_safe s _).trans (sb_ctr _ _ _)).mono (by decide)⟩
  · have hexec := exec_unitKatTest hplan hunit false
    obtain ⟨hfaulted, hlat, hmem, -⟩ := fault_spec_of s (u := { s with safe := { s.safe with unitTest := sset 0 s.safe.unitTest unit s.time.cycles } })
      unit 0x1205 (u16 unit) rfl rfl
    exact ⟨_, hexec, hfaulted, hlat, hmem⟩
  · exact ⟨_, exec_checkerSelfTest (State.background_of hpowered hstump hstage) hdue true ok, rfl, rfl, sb_safe s _⟩
  · have hexec := exec_checkerSelfTest (State.background_of hpowered hstump hstage) hdue false true
    exact ⟨_, hexec, count_bump _ _ _, rfl, sget_sset_same _ _ _ _, ((sb_safe s _).trans (sb_ctr _ _ _)).mono (by decide)⟩
  · have hexec := exec_checkerSelfTest (State.background_of hpowered hstump hstage) hdue false false
    obtain ⟨hfaulted, hlat, hmem, -⟩ := fault_spec_of s
      (u := { s with safe := { s.safe with selftestDue := false, selfTest := sset 0 s.safe.selfTest checker s.time.cycles } })
      checker 0x1206 (u16 checker) rfl rfl
    exact ⟨_, hexec, hfaulted, hlat, hmem⟩
  · obtain ⟨hfaulted, -, -, hfirst⟩ := s.fault_spec source 0x1201 (u16 source)
    obtain ⟨hinhibit, hcode, hsrc, hjob, -⟩ := hfirst hlatch
    exact ⟨_, exec_controllerLockstep hsource, hfaulted, hinhibit, hcode, hsrc, hjob, by simp, by simp⟩
  · have hsame := s.stopped_touched
    refine ⟨_, exec_wardenLockstep s, rfl, rfl, rfl, fun hplan => ?_, s.stopped_history, hsame .mem (by decide), hsame .tally (by decide),
      hsame .bg (by decide)⟩
    have hsome : s.stopped.job.plan.isSome = true := by
      rw [show s.stopped.job = s.job from hsame .job (by decide)]
      exact Option.isSome_iff_ne_none.2 hplan
    dsimp only
    rw [if_pos hsome]
end

section
/-! SUPPORT and PROOFS. Start-up stage by stage (R512, R513, R517). -/

namespace Sys2Proof.Machine

/-! ### Stump mode, and the failure of a stage -/

/-- Stump mode without a card changes of start-up its cause alone. -/
theorem State.enterStump_start {s : State} (h : s.start.card ≠ 1) (cause : Nat) :
    (s.enterStump cause).start = { s.start with stump := some cause } := by
  have hcard (t : State) (ht : t.start.card ≠ 1) : t.stumpCard = t := if_pos (.inl ht)
  unfold State.enterStump State.factoryDefaults State.restoreValues State.setCount
  dsimp only
  rw [hcard]
  · simp
  · simpa using h
theorem sb_startFails (s : State) : SameBut [.start, .safe] s s.startFails := by
  intro p hp
  cases p with
  | start => exact absurd (by decide) hp
  | safe => exact absurd (by decide) hp
  | _ => rfl
theorem sb_start (s : State) (x : Startup) : SameBut [.start] s { s with start := x } := by
  intro p hp
  cases p with
  | start => exact absurd (by decide) hp
  | _ => rfl
/-- A failed stage ends in stump mode, or in the fault state. -/
theorem State.stageFails_spec {s : State} (h : s.start.card ≠ 1) :
    (s.start.stage ≤ 1 → s.stageFails.start.stump = some 3) ∧ (s.start.stage = 2 → s.stageFails.start.stump = some 2) ∧
    (3 ≤ s.start.stage → s.stageFails.start.stage = 10 ∧ s.stageFails.safe.latch = true ∧ s.stageFails.safe.inhibit = true
      ∧ SameBut [.start, .safe] s s.stageFails) := by
  unfold State.stageFails
  refine ⟨fun h1 => ?_, fun h2 => ?_, fun h3 => ?_⟩
  · rw [if_pos h1, State.enterStump_start h]
  · rw [if_neg (by omega), if_pos h2, State.enterStump_start h]
  · rw [if_neg (by omega), if_neg (by omega)]
    exact ⟨rfl, rfl, rfl, sb_startFails s⟩
theorem exec_startStageDone_failed {s : State} (h : s.starting = true) : exec (.startStageDone .failed) s = .next s.stageFails :=
  congrArg Host.Outcome.next (if_neg (by simp [h]))
theorem exec_startStageTimeout {s : State} (h : s.starting = true) (hover : s.start.stageBegan + stageLimit s.start.stage * msCycles < s.time.cycles) :
    exec .startStageTimeout s = .next s.stageFails :=
  congrArg Host.Outcome.next (if_neg (by simpa [h] using hover))
theorem exec_startStageTimeout_early {s : State} (hin : s.time.cycles ≤ s.start.stageBegan + stageLimit s.start.stage * msCycles) :
    exec .startStageTimeout s = .next s := congrArg Host.Outcome.next (if_pos (.inr hin))

/-! ### The stage that is done -/

/-- What a stage that is done leads to. -/
def State.stagePassed (s : State) (r : StageReport) : State :=
  match s.start.stage with
  | 0 => if s.time.cycles < s.start.stageBegan + 2 ^ s.start.oscdly * msCycles then s
    else { s with start := { s.start with began := s.time.cycles } }.enterStage 1
  | 1 =>
    let s := { s with start := { s.start with bootCount := s.start.bootCount + 1 } }
    let s : State := match r with | .rom sel up => { s with start := { s.start with slotsel := sel % 4, stumpN := up } } | _ => s
    if s.start.lifecycle ≠ 2 then s.enterStump 4 else s.enterStage 2
  | 2 => s.selectSlot
  | 3 => { s with power := { s.power with inst := [] } }.enterStage 4
  | 4 => match r with | .tests failed lanes => s.tested failed lanes | _ => s.tested [] []
  | 5 => s.fuses
  | 6 => s.reload
  | 7 => s.readStore
  | _ => match r with | .links found => s.linkUp found | _ => s.linkUp []
theorem exec_startStageDone {s : State} (h : s.starting = true) {r : StageReport} (hr : r ≠ .failed) :
    exec (.startStageDone r) s = .next (s.stagePassed r) := by
  have hgo : ¬(!s.starting) = true := by simp [h]
  cases r with
  | failed => exact absurd rfl hr
  | passed => exact congrArg Host.Outcome.next (if_neg hgo)
  | rom sel up => exact congrArg Host.Outcome.next (if_neg hgo)
  | tests dies lanes => exact congrArg Host.Outcome.next (if_neg hgo)
  | links found => exact congrArg Host.Outcome.next (if_neg hgo)
theorem sb_enterStage {s t : State} (h : SameBut [.start] s t) (n : Nat) : SameBut [.start] s (t.enterStage n) :=
  sb_idem h (sb_start t (t.enterStage n).start)

/-! ### Stage 1 -/

/-- The ROM has started: the boot is counted and the straps are read. -/
def State.romRead (s : State) (sel : Nat) (up : Bool) : State :=
  { s with start := { s.start with bootCount := s.start.bootCount + 1, slotsel := sel % 4, stumpN := up } }
theorem State.stagePassed_rom {s : State} (h : s.start.stage = 1) (sel : Nat) (up : Bool) :
    s.stagePassed (.rom sel up) = if s.start.lifecycle ≠ 2 then (s.romRead sel up).enterStump 4 else (s.romRead sel up).enterStage 2 := by
  unfold State.stagePassed
  rw [h]
  rfl

/-! ### Stage 2 -/

theorem State.selectSlot_stump {s : State} (h : s.start.stumpN = false) : s.selectSlot = s.enterStump 0 := if_pos (by simp [h])
/-- With no trial and no straps the active slot is booted, where it verifies. -/
theorem State.selectSlot_active {s : State} {a : Nat} (hup : s.start.stumpN = true) (hsel : s.start.slotsel = 0) (htrial : s.slotIn 1 = none)
    (hactive : s.slotIn 2 = some a) (hother : s.slotIn 3 = none) : s.selectSlot =
    if s.slotVerifies a then (s.bootSlot a).enterStage 3 else (s.modFwSlot a fun x => { x with state := 4 }).enterStump 2 := by
  unfold State.selectSlot
  rw [if_neg (by simp [hup]), if_neg (by simp [hsel]), htrial]
  unfold State.bootActive
  rw [hactive, hother]

/-! ### Stage 4 -/

theorem State.fusedLanes_touched (l : List LaneFault) (s : State) : SameBut [.spine] s (l.foldl State.fuseLanes s) := by
  induction l generalizing s with
  | nil => exact Touch.refl _ s
  | cons f l ih => exact sb_idem (State.fuseLanes_touch (List.Subset.refl _) s f (Touch.refl _ s)) (ih _)
/-- With every die good, and spare lanes for every one that failed, the tests are done. -/
theorem State.tested_good {s : State} {lanes : List LaneFault} (h : ∀ f ∈ lanes, (lanes.foldl State.fuseLanes s).lanesOut f = false) :
    s.tested [] lanes = { lanes.foldl State.fuseLanes s with start := { (lanes.foldl State.fuseLanes s).start with found := [] } }.enterStage 5 := by
  have hnone : (lanes.foldl State.fuseLanes s).laneDies lanes = [] := by
    unfold State.laneDies
    rw [List.filter_eq_nil_iff.2 fun f hf => by simp [h f hf]]
    rfl
  unfold State.tested
  dsimp only
  rw [hnone]
  rfl
/-- What the failure of one die leads to. -/
theorem State.tested_one (s : State) (n : Nat) : s.tested [n] [] =
    if n = 99 then s.enterStump 3
    else if (52 ≤ n ∧ n < 99) ∨ s.unrepairable [n] n = true then
      ((if s.unrepairable [n] n then [n] else []).foldl (fun s n => s.fault (dieSrc n) 0x2F01)
        ((if 52 ≤ n ∧ n < 99 then [n] else []).foldl (fun s n => s.fault (dieSrc n) 0x2F02) (s.markSpares [n]))).startFails
    else { s with start := { s.start with found := [n] } }.enterStage 5 := by
  have hfailed : ([n] ++ s.laneDies []).dedup = [n] := rfl
  unfold State.tested
  dsimp only [List.foldl_nil]
  rw [hfailed]
  by_cases h99 : n = 99
  · subst h99
    rfl
  · rw [if_neg h99, if_neg (by simpa using Ne.symm h99)]
    by_cases hlost : 52 ≤ n ∧ n < 99
    · cases hun : s.unrepairable [n] n <;> simp [hlost, hun]
    · cases hun : s.unrepairable [n] n <;> simp [hlost, hun]
theorem State.unrepairable_of_spine {s : State} {n : Nat} (h : 52 ≤ n) : s.unrepairable [n] n = false := by
  have hn : ¬n < 52 := by omega
  simp [State.unrepairable, hn]
/-- The one site that failed can be replaced where its spare is free. -/
theorem State.unrepairable_of_site {s : State} {n l : Nat} (hn : n < 48) (hl : s.logicalOf n = some l) :
    s.unrepairable [n] n = (s.start.spares.getD (n / 12) 0xFF != 0xFF) := by
  have hspare : spareOf n = n / 12 := if_pos hn
  have hone : ¬(1 < ([n].filter fun f => decide (f < 48 ∧ spareOf f = n / 12) && (s.logicalOf f).isSome).length) := by
    have := List.length_filter_le (fun f => decide (f < 48 ∧ spareOf f = n / 12) && (s.logicalOf f).isSome) [n]
    simp only [List.length_singleton] at this
    omega
  have hself : ([n].contains (48 + n / 12)) = false := by simp; omega
  unfold State.unrepairable
  dsimp only
  rw [hspare, hself, decide_eq_false hone, hl, decide_eq_true (show n < 52 by omega), decide_eq_false (show ¬48 ≤ n by omega)]
  simp

/-! ### Stage 5 -/

/-- The dies that failed are replaced; a new map is a new generation. -/
def State.repaired (s : State) : State :=
  let t := s.start.found.foldl State.repair s
  if t.start.dieMap = s.start.dieMap then t else { t with start := { t.start with mapGeneration := t.start.mapGeneration + 1 } }
/-- A pending security version comes into force. -/
def State.secured (s : State) : State :=
  if s.start.security < s.start.securityPending then
    let v := s.start.securityPending
    let revoke (x : FwSlot) : FwSlot := if x.state ≠ 0 ∧ imgSecurity x.image < v then { x with state := 5 } else x
    { s with start := { s.start with security := v, slots := s.start.slots.map revoke } }.event wardenSrc 0x8009
  else s
/-- A pending return is made. -/
def State.returned (s : State) : State :=
  if s.start.returnPending then
    { s with start := { s.start with lifecycle := 3, returnPending := false, protectedSet := [], stores := [{}, {}] },
             host := { s.host with library := [] }, tally := { s.tally with rw := [] } }.noEntries.event wardenSrc 0x800A |>.wipeKeys
  else s
theorem State.fuses_eq (s : State) : s.fuses =
    { s.repaired.secured.returned with start := { s.repaired.secured.returned.start with found := [] } }.enterStage 6 := rfl
/-- What a return leaves of the fuses: the map, the spares, the repairs and the security version. -/
def State.fuseBits (s : State) : List Nat × List Nat × Nat × Nat × Nat := (s.start.dieMap, s.start.spares, s.start.repairs, s.start.mapGeneration, s.start.security)
theorem State.returned_fuseBits (s : State) : s.returned.fuseBits = s.fuseBits := by
  unfold State.returned
  split
  · simp [State.fuseBits, State.wipeKeys, State.noEntries]
  · rfl
theorem State.secured_fuseBits (s : State) : s.secured.fuseBits =
    (s.start.dieMap, s.start.spares, s.start.repairs, s.start.mapGeneration, max s.start.security s.start.securityPending) := by
  unfold State.secured
  split
  · next h => simp [State.fuseBits, Nat.max_eq_right (Nat.le_of_lt h)]
  · next h => simp [State.fuseBits, Nat.max_eq_left (Nat.le_of_not_lt h)]
theorem State.repair_security (s : State) (n : Nat) :
    (s.repair n).start.security = s.start.security ∧ (s.repair n).start.securityPending = s.start.securityPending := by
  unfold State.repair
  dsimp only
  split
  · exact ⟨rfl, rfl⟩
  · split
    · exact ⟨rfl, rfl⟩
    · simp
theorem State.repaired_security (s : State) :
    s.repaired.start.security = s.start.security ∧ s.repaired.start.securityPending = s.start.securityPending := by
  have h1 := foldl_same (fun s : State => s.start.security) State.repair s.start.found s fun s n => (s.repair_security n).1
  have h2 := foldl_same (fun s : State => s.start.securityPending) State.repair s.start.found s fun s n => (s.repair_security n).2
  unfold State.repaired
  dsimp only
  split
  · exact ⟨h1, h2⟩
  · exact ⟨h1, h2⟩
theorem listUpd_getElem? {v : Type} (l : List v) (i : Nat) (f : v → v) : (listUpd l i f)[i]? = l[i]?.map f := by
  induction l generalizing i with
  | nil => rfl
  | cons x l ih =>
    cases i with
    | zero => rfl
    | succ i => exact ih i
/-- The site that failed is served by its spare. -/
theorem State.repaired_one {s : State} {n l : Nat} (hfound : s.start.found = [n]) (hn : n < 48) (hl : s.logicalOf n = some l) :
    s.repaired.start.dieMap = listUpd s.start.dieMap l (fun _ => 48 + n / 12) ∧ s.repaired.start.spares = listUpd s.start.spares (n / 12) (fun _ => l)
      ∧ s.repaired.start.repairs = s.start.repairs + 1 ∧ s.repaired.start.mapGeneration = s.start.mapGeneration + 1 := by
  have hspare : spareOf n = n / 12 := if_pos hn
  have hrepair : (s.repair n).start = { s.start with
      dieMap := listUpd s.start.dieMap l (fun _ => 48 + n / 12)
      spares := listUpd s.start.spares (n / 12) (fun _ => l)
      repairs := s.start.repairs + 1 } := by
    unfold State.repair
    dsimp only
    rw [if_neg (by omega), hl, hspare]
    simp
  have hnew : ¬listUpd s.start.dieMap l (fun _ => 48 + n / 12) = s.start.dieMap := by
    obtain ⟨hlt, hat, -⟩ := List.findIdx?_eq_some_iff_getElem.1 hl
    intro hsame
    have hget := listUpd_getElem? s.start.dieMap l fun _ => 48 + n / 12
    rw [hsame, List.getElem?_eq_getElem hlt] at hget
    simp only [Option.map_some, Option.some.injEq] at hget
    have hsite : s.start.dieMap[l] = n := by simpa using hat
    omega
  unfold State.repaired
  rw [hfound]
  dsimp only [List.foldl_cons, List.foldl_nil]
  rw [hrepair, if_neg hnew]
  exact ⟨rfl, rfl, rfl, rfl⟩

/-! ### Stage 6 -/

theorem State.reload_spec (s : State) : SameBut [.start, .safe] s s.reload ∧
    if s.verifyImage (s.fwSlot s.booted).image true = 0 then s.reload.start.stage = 7 ∧ s.reload.safe = s.safe else s.reload.start.stage = 10 := by
  unfold State.reload
  dsimp only
  by_cases h : s.verifyImage (s.fwSlot s.booted).image true = 0
  · rw [if_neg (not_not.2 h), if_pos h]
    have hstart (x : Startup) : SameBut [.start, .safe] s ({ s with start := x }.enterStage 7) := (sb_enterStage (sb_start s x) 7).mono (by decide)
    exact ⟨hstart _, rfl, rfl⟩
  · rw [if_pos h, if_neg h]
    exact ⟨sb_startFails s, rfl⟩

/-! ### Stage 8 -/

theorem decodeCaps_length (used : Nat) (l : List CxlFound) : (decodeCaps used l).length = l.length := by
  induction l generalizing used with
  | nil => rfl
  | cons d l ih => exact congrArg (· + 1) (ih _)
theorem placeWindows_length (a : Nat) (l : List CxlDevice) : (placeWindows a l).length = l.length := by
  induction l generalizing a with
  | nil => rfl
  | cons d l ih => exact congrArg (· + 1) (ih _)
/-- Every device whose link is used is decoded. -/
theorem State.decodeCxl_length (s : State) (found : List CxlFound) :
    (s.decodeCxl found).cxl.devices.length = (found.filter fun d => d.speed ≠ 0).length := by
  have hcaps (l : List CxlFound) (le : CxlFound → CxlFound → Bool) : (decodeCaps 0 (l.mergeSort le)).length = l.length := by
    rw [decodeCaps_length, List.length_mergeSort]
  show (if _ then List.map _ (List.map _ _) else placeWindows _ (List.map _ _)).length = _
  rw [apply_ite List.length]
  simp only [List.length_map, placeWindows_length, hcaps, ite_self]
theorem State.decodeCxl_start (s : State) (found : List CxlFound) : (s.decodeCxl found).start = s.start :=
  State.decodeCxl_touch (List.Subset.refl _) s found (Touch.refl _ s) .start (by decide)
/-- A safe point marks values as changed; of start-up it changes nothing else. -/
theorem State.safePoint_start (s : State) (g : Nat) : ∃ d, (s.safePoint g).start = { s.start with dirty := d } := by
  have heffect (t : State) (a : PendApply) (c : List Nat) : (t.applyEffect a c).start = t.start :=
    State.applyEffect_touch (List.Subset.refl _) t a c (Touch.refl _ t) .start (by decide)
  unfold State.safePoint
  split
  · exact ⟨_, rfl⟩
  · dsimp only
    split
    · exact ⟨_, by simp; rfl⟩
    · rw [heffect]
      exact ⟨_, by simp; rfl⟩
/-- Start-up has reached its last stage. -/
def State.started (s : State) : State :=
  { (s.modFwSlot s.booted fun x => { x with trials := 0 }) with
    start := { (s.modFwSlot s.booted fun x => { x with trials := 0 }).start with stage := 9, timeMs := (s.time.cycles - s.start.began) / msCycles } }
theorem State.ready_eq (s : State) : ∃ d, s.ready = if (s.started.event wardenSrc 0x8000 d).start.identity then s.started.event wardenSrc 0x8000 d
    else (s.started.event wardenSrc 0x8000 d).event wardenSrc 0x800C := ⟨_, rfl⟩
theorem State.started_spec (s : State) : s.started.start.stage = 9 ∧ s.started.start.wardenHeld = s.start.wardenHeld
    ∧ s.started.start.identity = s.start.identity ∧ s.started.cxl = s.cxl := ⟨rfl, rfl, rfl, rfl⟩
theorem State.ready_spec (s : State) (hheld : s.start.wardenHeld = false) : s.ready.start.stage = 9 ∧ s.ready.cxl = s.cxl
    ∧ Raised s.ready wardenSrc (if s.start.identity = true then 0x8000 else 0x800C) := by
  obtain ⟨d, hready⟩ := s.ready_eq
  obtain ⟨hstage, hstarted, hidentity, hcxl⟩ := s.started_spec
  rw [hready]
  generalize s.started = u at *
  have hsame : (u.event wardenSrc 0x8000 d).start = u.start := by simp
  rw [hsame, hidentity]
  split
  · exact ⟨hsame ▸ hstage, by simpa using hcxl, raised_event _ _ _ _ (hstarted.trans hheld)⟩
  · exact ⟨by simpa using hstage, by simpa using hcxl, raised_event _ _ _ _ (by simpa [hstarted] using hheld)⟩

end Sys2Proof.Machine
end

section
open Sys2Proof Sys2Proof.Machine

/-- Settles O38: stage by stage, what a stage that is done leads to; a failed one leads to stump mode or to the fault state. -/
theorem startUpPassesItsStages : Obligations.StartUpPassesItsStages := by
  unfold Obligations.StartUpPassesItsStages
  refine ⟨fun s osc hoff => ?_, fun s hstarting hcard => ⟨fun c hc => ?_, fun hin => ⟨s, exec_startStageTimeout_early hin, rfl⟩, fun h0 hosc => ?_,
    fun h1 sel up => ?_, fun h2 => ?_, fun h3 => ?_, fun h4 => ⟨fun lanes hlanes => ?_, fun n hn hn2 => ?_, fun n l hn hl => ?_⟩, fun h5 => ?_,
    fun h6 => ?_, fun h7 => ?_, fun h8 hheld found => ?_⟩⟩
  · have hexec : exec (.powerGood osc) s = .next { s.restarted 0 s.start.cause true with
        start := { (s.restarted 0 s.start.cause true).start with oscdly := osc % 8 } } :=
      congrArg Host.Outcome.next (if_neg (by simp [hoff]))
    exact ⟨_, hexec, rfl, rfl, rfl, rfl, rfl, rfl, rfl, rfl, rfl⟩
  · have hexec : exec c s = .next s.stageFails := by
      rcases hc with rfl | ⟨rfl, hover⟩
      · exact exec_startStageDone_failed hstarting
      · exact exec_startStageTimeout hstarting hover
    exact ⟨_, hexec, State.stageFails_spec hcard⟩
  · have hpass : s.stagePassed .passed = { s with start := { s.start with began := s.time.cycles } }.enterStage 1 := by
      have hgo : ¬s.time.cycles < s.start.stageBegan + 2 ^ s.start.oscdly * msCycles := Nat.not_lt.2 hosc
      unfold State.stagePassed
      simp only [h0, if_neg hgo]
    refine ⟨_, exec_startStageDone hstarting (by decide), ?_⟩
    rw [hpass]
    exact ⟨rfl, sb_enterStage (sb_start s _) 1⟩
  · refine ⟨_, exec_startStageDone hstarting (by simp), ?_⟩
    rw [State.stagePassed_rom h1]
    by_cases hfield : s.start.lifecycle = 2
    · rw [if_neg (not_not.2 hfield), if_pos hfield]
      exact ⟨rfl, rfl, rfl, rfl, sb_enterStage (sb_start s _) 2⟩
    · rw [if_pos hfield, if_neg hfield, State.enterStump_start (s := s.romRead sel up) hcard]
      exact ⟨rfl, rfl⟩
  · have hpass : s.stagePassed .passed = s.selectSlot := by
      unfold State.stagePassed
      rewrite [h2]
      rfl
    refine ⟨_, exec_startStageDone hstarting (by decide), ?_⟩
    rw [hpass]
    refine ⟨fun hdown => ?_, fun a hup hsel htrial hactive hother => ?_⟩
    · rw [State.selectSlot_stump hdown, State.enterStump_start hcard]
    · rw [State.selectSlot_active hup hsel htrial hactive hother]
      split
      · exact ⟨rfl, rfl, sb_enterStage (sb_start s _) 3⟩
      · rw [State.enterStump_start (s := s.modFwSlot a fun x => { x with state := 4 }) hcard]
  · have hpass : s.stagePassed .passed = { s with power := { s.power with inst := [] } }.enterStage 4 := by
      unfold State.stagePassed
      rewrite [h3]
      rfl
    refine ⟨_, exec_startStageDone hstarting (by decide), ?_⟩
    rw [hpass]
    exact ⟨rfl, rfl, ((sb_power s _).trans (sb_start _ _)).mono (by decide)⟩
  · have hpass : s.stagePassed (.tests [] lanes) = s.tested [] lanes := by
      unfold State.stagePassed
      rewrite [h4]
      rfl
    refine ⟨_, exec_startStageDone hstarting (by simp), ?_⟩
    rw [hpass, State.tested_good hlanes]
    exact ⟨rfl, rfl, rfl, ((State.fusedLanes_touched lanes s).trans (sb_enterStage (sb_start _ _) 5)).mono (by decide)⟩
  · have hpass : s.stagePassed (.tests [n] []) = s.tested [n] [] := by
      unfold State.stagePassed
      rewrite [h4]
      rfl
    refine ⟨_, exec_startStageDone hstarting (by simp), ?_⟩
    rw [hpass, State.tested_one, State.unrepairable_of_spine hn, if_neg (show ¬n = 99 by omega), if_pos (.inl ⟨hn, hn2⟩), if_pos ⟨hn, hn2⟩]
    exact ⟨rfl, rfl, State.fault_faulted (s.markSpares [n]) (dieSrc n) 0x2F02 []⟩
  · have hpass : s.stagePassed (.tests [n] []) = s.tested [n] [] := by
      unfold State.stagePassed
      rewrite [h4]
      rfl
    refine ⟨_, exec_startStageDone hstarting (by simp), ?_⟩
    rw [hpass, State.tested_one, State.unrepairable_of_site hn hl, if_neg (show ¬n = 99 by omega)]
    by_cases hfree : s.start.spares.getD (n / 12) 0xFF = 0xFF
    · rw [if_pos hfree, if_neg (by rw [hfree]; simp; omega)]
      exact ⟨rfl, rfl, sb_enterStage (sb_start s _) 5⟩
    · have hused : (s.start.spares.getD (n / 12) 0xFF != 0xFF) = true := by simpa using hfree
      rw [if_neg hfree, hused, if_pos (.inr rfl), if_neg (by omega), if_pos rfl]
      exact ⟨rfl, rfl, State.fault_faulted (s.markSpares [n]) (dieSrc n) 0x2F01 []⟩
  · have hpass : s.stagePassed .passed = s.fuses := by
      unfold State.stagePassed
      rewrite [h5]
      rfl
    refine ⟨_, exec_startStageDone hstarting (by decide), ?_⟩
    obtain ⟨hsec, hpend⟩ := s.repaired_security
    have hbits := (State.returned_fuseBits s.repaired.secured).trans (State.secured_fuseBits s.repaired)
    simp only [State.fuseBits, Prod.mk.injEq] at hbits
    obtain ⟨hmap, hspares, hrepairs, hgen, hsecurity⟩ := hbits
    rw [hpass, State.fuses_eq]
    refine ⟨rfl, rfl, ?_, fun n l hfound hn hl => ?_⟩
    · rw [← hsec, ← hpend]
      exact hsecurity
    · obtain ⟨h1, h2, h3, h4⟩ := State.repaired_one hfound hn hl
      exact ⟨hmap.trans h1, hspares.trans h2, hrepairs.trans h3, hgen.trans h4⟩
  · have hpass : s.stagePassed .passed = s.reload := by
      unfold State.stagePassed
      rewrite [h6]
      rfl
    refine ⟨_, exec_startStageDone hstarting (by decide), ?_⟩
    rw [hpass]
    exact s.reload_spec
  · have hpass : s.stagePassed .passed = s.readStore := by
      unfold State.stagePassed
      rewrite [h7]
      rfl
    refine ⟨_, exec_startStageDone hstarting (by decide), ?_⟩
    rw [hpass]
    rfl
  · have hpass : s.stagePassed (.links found) = s.linkUp found := by
      unfold State.stagePassed
      rewrite [h8]
      rfl
    refine ⟨_, exec_startStageDone hstarting (by simp), ?_⟩
    rw [hpass]
    obtain ⟨d, hsafe⟩ := s.safePoint_start 0x4050
    have hstart := ((s.safePoint 0x4050).decodeCxl_start found).trans hsafe
    obtain ⟨hstage, hcxl, hraised⟩ := State.ready_spec ((s.safePoint 0x4050).decodeCxl found) (by rw [hstart]; exact hheld)
    refine ⟨hstage, ?_, ?_⟩
    · show ((s.safePoint 0x4050).decodeCxl found).ready.cxl.devices.length = _
      rw [hcxl, State.decodeCxl_length]
    · rw [hstart] at hraised
      exact hraised
end

section
/-! SUPPORT and PROOFS. Restarts, installs from the card, the confirmation of a trial (R513, R520 to R523). -/

namespace Sys2Proof.Machine

/-! ### Slots of firmware -/

theorem State.fwSlot_modFwSlot {s : State} {n : Nat} (h : n < s.start.slots.length) (f : FwSlot → FwSlot) :
    (s.modFwSlot n f).fwSlot n = f (s.fwSlot n) := by
  unfold State.fwSlot State.modFwSlot
  dsimp only
  rw [List.getD_eq_getElem?_getD, listUpd_getElem?, List.getD_eq_getElem?_getD, List.getElem?_eq_getElem h]
  rfl
theorem listUpd_getElem?_other {v : Type} (l : List v) {i j : Nat} (f : v → v) (h : j ≠ i) : (listUpd l i f)[j]? = l[j]? := by
  induction l generalizing i j with
  | nil => rfl
  | cons x l ih =>
    cases i with
    | zero =>
      cases j with
      | zero => exact absurd rfl h
      | succ j => rfl
    | succ i =>
      cases j with
      | zero => rfl
      | succ j => exact ih fun e => h (congrArg (· + 1) e)
theorem State.fwSlot_modFwSlot_other (s : State) {n m : Nat} (f : FwSlot → FwSlot) (h : m ≠ n) : (s.modFwSlot n f).fwSlot m = s.fwSlot m := by
  unfold State.fwSlot State.modFwSlot
  dsimp only
  rw [List.getD_eq_getElem?_getD, listUpd_getElem?_other _ _ h, List.getD_eq_getElem?_getD]
/-- A slot beyond the last is empty, and stays so. -/
theorem State.fwSlot_beyond {s : State} {n : Nat} (h : ¬n < s.start.slots.length) : s.fwSlot n = {} := by
  unfold State.fwSlot
  rw [List.getD_eq_getElem?_getD, List.getElem?_eq_none (Nat.le_of_not_lt h)]
  rfl
theorem listUpd_length {v : Type} (l : List v) (i : Nat) (f : v → v) : (listUpd l i f).length = l.length := by
  induction l generalizing i with
  | nil => rfl
  | cons x l ih =>
    cases i with
    | zero => rfl
    | succ i => exact congrArg (· + 1) (ih i)
theorem State.otherSlot_ne (s : State) : s.otherSlot ≠ s.booted := by
  unfold State.otherSlot State.booted
  split <;> decide

/-! ### A restart -/

/-- The answer to a restart. -/
def State.restartAnswer (s : State) : Answer :=
  if s.job.state = .armed ∨ s.job.state = .running ∨ s.job.state = .paused then refuse s abState else accept (s.enterStage 1)
theorem exec_moduleRestart {s : State} {q : Req} (hfresh : Fresh s q) (hin : InSession s q) (hwhole : WholeWrite q 0xB000 5 1) (hdata : q.data = u8 1) :
    exec (.moduleRestart q) s = .next
      (let t := ((s.hearing q).restartAnswer).finish (s.sid q) 2 q
       if s.start.stage ≠ 1 ∧ t.start.stage = 1 then t.restarted 1 1 true else t) := by
  have hone : leNat q.data = 1 := by rw [hdata]; decide
  show execModuleRestart q s = _
  unfold execModuleRestart
  rw [State.serveWrite_session hfresh hin hwhole, hone]
  rfl
theorem State.restarted_fresh (s : State) (stage cause : Nat) (powered : Bool) : let t := s.restarted stage cause powered
    t.start.cause = cause ∧ t.host.sessions = [] ∧ t.safe.latch = false ∧ t.start.slots = s.start.slots ∧ t.out = s.out := ⟨rfl, rfl, rfl, rfl, rfl⟩

/-! ### Installs from the card -/

theorem State.installFails_start (s : State) (r : Nat) : (s.installFails r).start =
    { s.start with slots := listUpd s.start.slots s.otherSlot (fun _ => {}), installing := false, result := r } := by
  unfold State.installFails State.modFwSlot
  simp
theorem exec_cardChanged (s : State) (card : Nat) (file : Bytes) : exec (.cardChanged card file) s = .next
    (let t : State := { s with start := { s.start with card := card, cardFile := file, cardChanged := true } }
     if s.start.installing = true ∧ card = 0 then t.installFails 2 else t) := rfl
theorem State.flashWrite_start (s : State) (r : FlashReport) (n : Nat) : (s.flashWrite r n).start = s.start :=
  State.flashWrite_touch (List.Subset.refl _) s r n (Touch.refl _ s) .start (by decide)
/-- The image of the card is written, on trial. -/
def State.installed (s : State) (flash : FlashReport) : State :=
  ({ s with start := { s.start with installing := false, result := 0 } }.putTrial s.otherSlot s.start.cardFile).flashWrite flash s.start.cardFile.length
theorem State.installed_start (s : State) (flash : FlashReport) : (s.installed flash).start =
    { s.start with slots := listUpd s.start.slots s.otherSlot (fun _ => { state := 1, trials := 0, image := s.start.cardFile }),
                   installing := false, result := 0 } := by
  unfold State.installed
  rw [State.flashWrite_start]
  rfl
theorem exec_fwInstallComplete {s : State} (h : s.start.installing = true) (flash : FlashReport) : exec (.fwInstallComplete flash) s = .next
    (if s.installResult flash.ok = 0 then s.installed flash else (s.flashWrite flash 0).installFails (s.installResult flash.ok)) :=
  congrArg Host.Outcome.next (if_neg (by simp [h]))
/-- The answer to an install. -/
def State.installAnswer (s : State) : Answer :=
  if s.onTrial ∨ s.start.installing then refuse s abState else accept { s with start := { s.start with installing := true, result := 255 } }
theorem exec_fwCardInstall {s : State} {q : Req} (hfresh : Fresh s q) (hin : InSession s q) (hwhole : WholeWrite q 0xB012 0 1) (hdata : q.data = u8 1) :
    exec (.fwCardInstall q) s = .next (((s.hearing q).installAnswer).finish (s.sid q) 2 q) := by
  have hone : leNat q.data = 1 := by rw [hdata]; decide
  show execFwCardInstall q s = _
  unfold execFwCardInstall
  rw [State.serveWrite_session hfresh hin hwhole, hone]
  rfl
/-- What the slots are is told by start-up alone. -/
theorem onTrial_of {s t : State} (h : t.start = s.start) : t.onTrial = s.onTrial := by
  unfold State.onTrial State.fwSlot State.booted
  rw [h]

/-! ### Confirmation -/

/-- A whole write of a fixed-length BLOB in a session. -/
theorem State.serveBlob_session {s : State} {q : Req} {index sub n : Nat} (hfresh : Fresh s q) (hin : InSession s q) (hwhole : WholeWrite q index sub n)
    (hn : n ≤ 4096) (act : State → Bytes → Answer) :
    s.serveBlob q index sub n act = (act ((s.hearing q).setRun q.session (reqKey q) none) q.data).finish (s.sid q) 2 q := by
  obtain ⟨hindex, hsub, hoffset, hlast, hlen⟩ := hwhole
  unfold State.serveBlob reqIs
  rw [if_pos (by simp [hindex, hsub]), State.serve_session hfresh hin, State.blobSegment_whole _ hoffset hlast (by omega)]
  dsimp only
  rw [if_neg (not_not.2 hlen)]
/-- The slot booted is `ACTIVE`, the other one is not, and the security version of the image is the pending one. -/
def State.confirmed (s : State) : State :=
  let u := s.modFwSlot s.booted fun x => { x with state := 2 }
  let u := u.modFwSlot u.otherSlot fun x => if x.state = 0 then x else { x with state := 3 }
  { u with start := { u.start with securityPending := max u.start.securityPending (imgSecurity (s.fwSlot s.booted).image),
                                   formats := u.start.formats.map fun e : Nat × List Nat => (e.1, [u.entryFormat u.booted e.1]) } }.event wardenSrc 0x8005
/-- The answer to a confirmation. -/
def State.confirmAnswer (s : State) (v : Bytes) : Answer :=
  if !s.onTrial ∨ s.start.stage ≠ 9 then refuse s abState
  else if v ≠ headerDigest (s.fwSlot s.booted).image then refuse s abInconsistent
  else accept s.confirmed
theorem exec_fwConfirm {s : State} {q : Req} (hfresh : Fresh s q) (hin : InSession s q) (hwhole : WholeWrite q 0xB011 0 64) :
    exec (.fwConfirm q) s = .next ((((s.hearing q).setRun q.session (reqKey q) none).confirmAnswer q.data).finish (s.sid q) 2 q) := by
  show execFwConfirm q s = _
  unfold execFwConfirm
  rw [State.serveBlob_session hfresh hin hwhole (by decide)]
  rfl
theorem State.confirmed_slots {s : State} (h : s.onTrial = true) : (s.confirmed.fwSlot s.booted).state = 2
    ∧ ((s.confirmed.fwSlot s.otherSlot).state = 0 ∨ (s.confirmed.fwSlot s.otherSlot).state = 3) := by
  have hlen : s.booted < s.start.slots.length := by
    by_contra hbeyond
    have : (s.fwSlot s.booted).state = 1 := of_decide_eq_true h
    rw [State.fwSlot_beyond hbeyond] at this
    exact absurd this (by decide)
  have hsame (n : Nat) : s.confirmed.fwSlot n = ((s.modFwSlot s.booted fun x => { x with state := 2 }).modFwSlot s.otherSlot
      fun x => if x.state = 0 then x else { x with state := 3 }).fwSlot n := by
    unfold State.confirmed State.fwSlot
    simp
    rfl
  rw [hsame, hsame, State.fwSlot_modFwSlot_other _ _ (Ne.symm s.otherSlot_ne), State.fwSlot_modFwSlot hlen]
  refine ⟨rfl, ?_⟩
  by_cases hother : s.otherSlot < (s.modFwSlot s.booted fun x => { x with state := 2 }).start.slots.length
  · rw [State.fwSlot_modFwSlot hother]
    split
    · next h0 => exact .inl h0
    · exact .inr rfl
  · have hother2 : ¬s.otherSlot < ((s.modFwSlot s.booted fun x => { x with state := 2 }).modFwSlot s.otherSlot
        fun x => if x.state = 0 then x else { x with state := 3 }).start.slots.length := by
      unfold State.modFwSlot at *
      rwa [listUpd_length]
    rw [State.fwSlot_beyond hother2]
    exact .inl rfl
theorem State.confirmed_pending (s : State) : s.confirmed.start.securityPending = max s.start.securityPending (imgSecurity (s.fwSlot s.booted).image) := by
  unfold State.confirmed
  simp [State.modFwSlot]

end Sys2Proof.Machine
end

section
open Sys2Proof Sys2Proof.Machine

/-- Settles O39: each command refuses, or does what it answers. -/
theorem restartsAndInstallsComplete : Obligations.RestartsAndInstallsComplete := by
  unfold Obligations.RestartsAndInstallsComplete
  refine ⟨fun s q hfresh hin hwhole hdata => ?_, fun s card file => ?_, fun s q hfresh hin hwhole hdata => ?_, fun s flash hinst => ?_,
    fun s q hfresh hin hwhole hstage => ?_⟩
  · have hexec := exec_moduleRestart hfresh hin hwhole hdata
    obtain ⟨⟨-, hstage, -⟩, -⟩ := hfresh
    have hjob : (s.hearing q).job = s.job := s.hearing_job q
    have hstart : (s.hearing q).start = s.start := s.hearing_start q
    dsimp only at hexec
    unfold State.restartAnswer at hexec
    rw [hjob] at hexec
    by_cases hbusy : s.job.state = .armed ∨ s.job.state = .running ∨ s.job.state = .paused
    · rw [if_pos hbusy] at hexec
      have hkeep : ((refuse (s.hearing q) abState).finish (s.sid q) 2 q).start = s.start := by simp [refuse]
      rw [if_neg fun h => by rw [hkeep] at h; omega] at hexec
      refine ⟨_, hexec, ?_⟩
      rw [if_pos hbusy]
      exact ⟨Answer.finish_answered _ _ _ _, sb_idem (s.hearing_sameBut q) (Answer.finish_sameBut _ _ _ _)⟩
    · rw [if_neg hbusy] at hexec
      have hlog : ((accept ((s.hearing q).enterStage 1)).finish (s.sid q) 2 q).log = s.log := by simp [accept, State.enterStage]
      have hanswer := Answer.finish_answered (accept ((s.hearing q).enterStage 1)) (s.sid q) 2 q
      have hslots : ((accept ((s.hearing q).enterStage 1)).finish (s.sid q) 2 q).start.slots = s.start.slots := by
        simp [accept, State.enterStage]
      have hnow : ((accept ((s.hearing q).enterStage 1)).finish (s.sid q) 2 q).start.stage = 1 := by simp [accept, State.enterStage]
      rw [if_pos ⟨by omega, hnow⟩] at hexec
      generalize (accept ((s.hearing q).enterStage 1)).finish (s.sid q) 2 q = u at hexec hlog hanswer hslots
      obtain ⟨-, hone, hplan, -, hhistory, -, -⟩ := u.restarted_spec 1 1 true
      obtain ⟨hcause, hsessions, hlatch, hkept, hout⟩ := u.restarted_fresh 1 1 true
      refine ⟨_, hexec, ?_⟩
      rw [if_neg hbusy]
      refine ⟨?_, hone, hcause, hplan, hsessions, hlatch, hkept.trans hslots, ?_⟩
      · unfold Answered
        rw [hout]
        exact hanswer
      · rw [hhistory, hlog]
  · have hexec := exec_cardChanged s card file
    dsimp only at hexec
    by_cases hgone : s.start.installing = true ∧ card = 0
    · rw [if_pos hgone] at hexec
      refine ⟨_, hexec, ?_⟩
      rw [if_pos hgone, State.installFails_start]
      exact ⟨rfl, rfl, rfl, rfl, rfl, rfl, sb_next hexec rfl⟩
    · rw [if_neg hgone] at hexec
      refine ⟨_, hexec, ?_⟩
      rw [if_neg hgone]
      exact ⟨rfl, rfl, rfl, rfl, rfl, sb_start s _⟩
  · have hexec := exec_fwCardInstall hfresh hin hwhole hdata
    have hstart : (s.hearing q).start = s.start := s.hearing_start q
    refine ⟨_, hexec, sb_next hexec rfl, ?_⟩
    unfold State.installAnswer
    rw [onTrial_of hstart, hstart]
    by_cases hbusy : s.onTrial = true ∨ s.start.installing = true
    · rw [if_pos hbusy, if_pos hbusy]
      exact ⟨Answer.finish_answered _ _ _ _, by simp [refuse]⟩
    · rw [if_neg hbusy, if_neg hbusy]
      exact ⟨Answer.finish_answered _ _ _ _, by simp [accept], by simp [accept], by simp [accept]⟩
  · have hexec := exec_fwInstallComplete hinst flash
    refine ⟨_, hexec, ?_, ?_, sb_next hexec rfl, ?_⟩
    · split
      · rw [State.installed_start]
      · rw [State.installFails_start]
    · split
      · next h => rw [State.installed_start, h]
      · rw [State.installFails_start]
    · split
      · rw [State.installed_start]
      · rw [State.installFails_start, State.flashWrite_start]
        have hother : (s.flashWrite flash 0).otherSlot = s.otherSlot := by
          unfold State.otherSlot State.booted
          rw [State.flashWrite_start]
        rw [hother]
  · have hexec := exec_fwConfirm hfresh hin hwhole
    have hstart : ((s.hearing q).setRun q.session (reqKey q) none).start = s.start :=
      ((sb_setRun _ _ _ _) .start (by decide)).trans (s.hearing_start q)
    refine ⟨_, hexec, sb_next hexec rfl, ?_⟩
    obtain ⟨⟨hheld, -, -⟩, -⟩ := hfresh
    generalize (s.hearing q).setRun q.session (reqKey q) none = u at hstart
    have hboot : u.booted = s.booted := by unfold State.booted; rw [hstart]
    have hother : u.otherSlot = s.otherSlot := by unfold State.otherSlot; rw [hboot]
    have hslot (n : Nat) : u.fwSlot n = s.fwSlot n := by unfold State.fwSlot; rw [hstart]
    have htrial := onTrial_of hstart
    unfold State.confirmAnswer
    rw [htrial, hstart, hboot, hslot]
    cases hon : s.onTrial with
    | false =>
      rw [if_pos (show (!false) = true ∨ s.start.stage ≠ 9 from .inl rfl), if_pos rfl]
      exact ⟨Answer.finish_answered _ _ _ _, by simp [refuse, hstart]⟩
    | true =>
      rw [if_neg (show ¬((!true) = true ∨ s.start.stage ≠ 9) by simp [hstage]), if_neg (show ¬(true = false) by decide)]
      by_cases hdigest : q.data = headerDigest (s.fwSlot s.booted).image
      · rw [if_neg (not_not.2 hdigest), if_neg (not_not.2 hdigest)]
        obtain ⟨hactive, hinactive⟩ := State.confirmed_slots (htrial.trans hon)
        have hpending := u.confirmed_pending
        have hraised : Raised u.confirmed wardenSrc 0x8005 := raised_event _ _ _ _ (by
          show u.start.wardenHeld = false
          rw [hstart]
          exact hheld)
        have hfin (n : Nat) : ((accept u.confirmed).finish (s.sid q) 2 q).fwSlot n = u.confirmed.fwSlot n := by
          unfold State.fwSlot
          simp [accept]
        rw [hboot] at hactive
        rw [hother] at hinactive
        refine ⟨Answer.finish_answered _ _ _ _, raised_finish hraised, ?_, ?_, ?_⟩
        · rw [hfin]
          exact hactive
        · rw [hfin]
          exact hinactive
        · rw [hboot, hslot, hstart] at hpending
          simpa [accept] using hpending
      · rw [if_pos hdigest, if_pos hdigest]
        exact ⟨Answer.finish_answered _ _ _ _, by simp [refuse, hstart]⟩
end

section
/-! SUPPORT and PROOFS. Instructions of the array take their place at issue (R72, R88, R91, R103, R110, R156). -/

namespace Sys2Proof.Machine

/-! ### What an operation does to its cluster -/

/-- From `u` to `v` cluster `cl` becomes what `g` makes of it; no other cluster, no count of issues and no duty of the job changes. -/
def ActsAs (u v : State) (cl : Nat) (g : Cluster → Cluster) : Prop :=
  v.cl cl = g (u.cl cl) ∧
  (∀ n, n ≠ cl → v.cl n = u.cl n) ∧
  v.count kIssued = u.count kIssued ∧
  v.duty = u.duty
theorem ActsAs.here {u v : State} {cl : Nat} {g : Cluster → Cluster} : ActsAs u v cl g → v.cl cl = g (u.cl cl)
  | ⟨h, _, _, _⟩ => h
theorem ActsAs.others {u v : State} {cl : Nat} {g : Cluster → Cluster} : ActsAs u v cl g → ∀ n, n ≠ cl → v.cl n = u.cl n
  | ⟨_, h, _, _⟩ => h
theorem ActsAs.issued {u v : State} {cl : Nat} {g : Cluster → Cluster} : ActsAs u v cl g → v.count kIssued = u.count kIssued
  | ⟨_, _, h, _⟩ => h
theorem ActsAs.duty {u v : State} {cl : Nat} {g : Cluster → Cluster} : ActsAs u v cl g → v.duty = u.duty
  | ⟨_, _, _, h⟩ => h
/-- `g` neither reads nor writes a cluster's place in its stream, its signature and its count of issues. -/
def Unplaced (g : Cluster → Cluster) : Prop :=
  ∀ c i sg n, (g { c with index := i, sig := sg, issued := n }).work = { (g c).work with issued := n } ∧
    (g { c with index := i, sig := sg, issued := n }).step = c.step

theorem actsAs_modCl (u : State) (cl : Nat) (g : Cluster → Cluster) : ActsAs u (u.modCl cl g) cl g :=
  ⟨cl_modCl u cl g, fun n hn => cl_modCl_other u cl n g hn, rfl, rfl⟩
theorem ActsAs.trans {u v w : State} {cl : Nat} {g h : Cluster → Cluster} (a : ActsAs u v cl g) (b : ActsAs v w cl h) : ActsAs u w cl (fun c => h (g c)) :=
  ⟨by rw [b.here, a.here], fun n hn => (b.others n hn).trans (a.others n hn), b.issued.trans a.issued, b.duty.trans a.duty⟩
theorem actsAs_bump (u : State) (cl k n : Nat) (h : kIssued ≠ k) : ActsAs u (u.bump k n) cl id :=
  ⟨rfl, fun _ _ => rfl, count_bump_other _ _ _ _ h, rfl⟩
theorem actsAs_refl (u : State) (cl : Nat) : ActsAs u u cl id := ⟨rfl, fun _ _ => rfl, rfl, rfl⟩
theorem actsAs_eventOnce (u : State) (cl k step src code : Nat) (d : Bytes) : ActsAs u (u.eventOnce k step src code d) cl id := by
  have hclusters : (u.eventOnce k step src code d).clusters = u.clusters :=
    State.eventOnce_touch (List.Subset.refl _) u k step src code d (Touch.refl _ u) .clusters (by decide)
  refine ⟨cl_of hclusters cl, fun n _ => cl_of hclusters n, ?_, State.eventOnce_duty _ _ _ _ _ _⟩
  unfold State.eventOnce
  split
  · exact State.event_count _ _ _ _ _ (by decide) (by decide) (by decide)
  · rfl

/-- An instruction has issued once its action has made of its cluster what `g` says. -/
theorem ActsAs.settled {s v : State} {cl : Nat} {f : Fetched} {g : Cluster → Cluster} {ps : List Part}
    (hact : ActsAs ((s.sign cl f).step1 cl) v cl g) (h : Issues s cl f) (hontime : OnTime s cl) (hg : Unplaced g)
    (hsame : SameBut ps ((s.sign cl f).step1 cl) v) :
    SameBut (ps ++ issueParts) s (v.settle cl) ∧ Issued s (v.settle cl) cl (g (s.cl cl)) := by
  obtain ⟨⟨i, sg, hcl⟩, -, -, -⟩ := State.step1_spec h
  obtain ⟨hwork, hstep⟩ := hg (s.cl cl) i sg ((s.cl cl).issued + 1)
  have hlate : OnTime v cl := onTime_duty hact.duty (by rw [hact.here, hcl, hstep]) (State.step1_onTime h hontime)
  exact ⟨issued_sb h hsame hlate, issued_of h (by rw [hact.here, hcl]; exact hwork) hact.others hlate hact.issued⟩
/-- An instruction that a command selects and that no check refuses issues: its cluster's work is what its action makes of it. -/
theorem State.issue_acts {s : State} {cl : Nat} {f : Fetched} (h : Issues s cl f) (hontime : OnTime s cl) {sel : State → Nat → Bool}
    {check : State → Fetched → Verdict} {act : State → Fetched → State} {ps : List Part} (hsel : sel s f.word = true)
    (hcheck : check (s.sign cl f) f = .ok) {g : Cluster → Cluster} (hg : Unplaced g)
    (hact : ActsAs ((s.sign cl f).step1 cl) (act ((s.sign cl f).step1 cl) f) cl g)
    (hsame : SameBut ps ((s.sign cl f).step1 cl) (act ((s.sign cl f).step1 cl) f)) :
    ∃ t, s.issue cl sel check act = t ∧ SameBut (ps ++ issueParts) s t ∧ Issued s t cl (g (s.cl cl)) := by
  obtain ⟨hparts, hissued⟩ := hact.settled h hontime hg hsame
  exact ⟨_, State.issue_ok h sel check act hsel hcheck, hparts, hissued⟩

/-- The cluster in which an instruction acts, but for its place in its stream. -/
theorem State.step1_cl {s : State} {cl : Nat} {f : Fetched} (h : Issues s cl f) :
    ∃ i sg n, ((s.sign cl f).step1 cl).cl cl = { s.cl cl with index := i, sig := sg, issued := n } := by
  obtain ⟨⟨i, sg, hcl⟩, -, -, -⟩ := State.step1_spec h
  exact ⟨i, sg, _, hcl⟩

/-! ### Passes -/

theorem actsAs_passRetired (u : State) (cl : Nat) : ActsAs u (u.passRetired cl) cl (fun c => { c with passCount := c.passCount + 1 }) :=
  (actsAs_modCl u cl _).trans (actsAs_bump _ cl kPasses 1 (by decide))
/-- The tile as it will be after a pass. -/
def Cluster.passAhead (c : Cluster) (w k : Nat) : Cluster :=
  c.setAhead (iTile w) { c.aheadOf (iTile w) with base := .live, eref := iEref w, runK := if iFresh w = true then k else (c.aheadOf (iTile w)).runK + k }
/-- A pass of no depth has begun an idle tile. -/
def Cluster.passCleared (c : Cluster) (w k : Nat) : Cluster :=
  { (c.passAhead w k).setTile (iTile w) { base := .live, acc := [], eref := iEref w, runK := 0 } with passCount := c.passCount + 1 }
/-- A pass has taken its place in the array's queue. -/
def Cluster.passQueued (c : Cluster) (f : Fetched) (kind : PassKind) (m n k : Nat) : Cluster :=
  { c.passAhead f.word k with issueNo := c.issueNo + 1, arrayQ := c.arrayQ ++ [⟨c.issueNo, kind, iTile f.word, f.word, m, n, k, f.step, f.idx⟩] }
theorem unplaced_passCleared (w k : Nat) : Unplaced fun c => c.passCleared w k := fun _ _ _ _ => ⟨rfl, rfl⟩
theorem unplaced_passQueued (f : Fetched) (kind : PassKind) (m n k : Nat) : Unplaced fun c => c.passQueued f kind m n k := fun _ _ _ _ => ⟨rfl, rfl⟩

/-- A pass without rows or columns, or of no depth onto no new tile, retires at issue. -/
theorem State.passIssue_empty {u : State} {cl : Nat} {f : Fetched} {m n k : Nat} (kind : PassKind)
    (h : m = 0 ∨ n = 0 ∨ (k = 0 ∧ iFresh f.word = false)) : u.passIssue cl f kind m n k = u.passRetired cl :=
  if_pos (h.imp_right (Or.imp_right (And.imp_right fun e => by simp [e])))
/-- A pass of no depth that begins an idle tile clears it at issue. -/
theorem State.passIssue_clear {u : State} {cl : Nat} {f : Fetched} {m n k : Nat} (kind : PassKind)
    (h : ¬(m = 0 ∨ n = 0 ∨ (k = 0 ∧ iFresh f.word = false))) (hidle : k = 0 ∧ (u.cl cl).tileBusy (iTile f.word) = false) :
    ActsAs u (u.passIssue cl f kind m n k) cl (fun c => c.passCleared f.word k) := by
  have hact := ((actsAs_modCl u cl fun c => c.setAhead (iTile f.word) { (u.cl cl).aheadOf (iTile f.word) with
      base := .live, eref := iEref f.word, runK := if iFresh f.word = true then k else ((u.cl cl).aheadOf (iTile f.word)).runK + k }).trans
    (actsAs_modCl _ cl fun c => c.setTile (iTile f.word) { base := .live, acc := [], eref := iEref f.word, runK := 0 })).trans (actsAs_passRetired _ cl)
  unfold State.passIssue
  dsimp only
  rw [if_neg (by simpa using h), if_pos (by simpa using hidle)]
  exact ⟨hact.here, hact.others, hact.issued, hact.duty⟩
/-- Any other pass takes its place in the array's queue. -/
theorem State.passIssue_queue {u : State} {cl : Nat} {f : Fetched} {m n k : Nat} (kind : PassKind)
    (h : ¬(m = 0 ∨ n = 0 ∨ (k = 0 ∧ iFresh f.word = false))) (hbusy : ¬(k = 0 ∧ (u.cl cl).tileBusy (iTile f.word) = false)) :
    ActsAs u (u.passIssue cl f kind m n k) cl (fun c => c.passQueued f kind m n k) := by
  have hact := ((actsAs_modCl u cl fun c => c.setAhead (iTile f.word) { (u.cl cl).aheadOf (iTile f.word) with
      base := .live, eref := iEref f.word, runK := if iFresh f.word = true then k else ((u.cl cl).aheadOf (iTile f.word)).runK + k }).trans
    (actsAs_modCl _ cl fun c => { c with issueNo := c.issueNo + 1 })).trans
    (actsAs_modCl _ cl fun c => { c with arrayQ := c.arrayQ ++ [⟨(u.cl cl).issueNo, kind, iTile f.word, f.word, m, n, k, f.step, f.idx⟩] })
  unfold State.passIssue
  dsimp only
  rw [if_neg (by simpa using h), if_neg (by simpa using hbusy)]
  exact ⟨hact.here, hact.others, hact.issued, hact.duty⟩

/-- What a pass makes of its cluster at issue. -/
def Cluster.passed (c : Cluster) (f : Fetched) (kind : PassKind) (m n k : Nat) : Cluster :=
  if m = 0 ∨ n = 0 ∨ (k = 0 ∧ iFresh f.word = false) then { c with passCount := c.passCount + 1 }
  else if k = 0 ∧ c.tileBusy (iTile f.word) = false then c.passCleared f.word k
  else c.passQueued f kind m n k
/-- A pass that issues on a cluster makes of it what `passed` says. -/
theorem State.passIssue_acts {s u : State} {cl : Nat} (hu : ∃ i sg n, u.cl cl = { s.cl cl with index := i, sig := sg, issued := n }) (f : Fetched)
    (kind : PassKind) (m n k : Nat) : ∃ g, Unplaced g ∧ g (s.cl cl) = (s.cl cl).passed f kind m n k ∧ ActsAs u (u.passIssue cl f kind m n k) cl g := by
  have hbusy : (u.cl cl).tileBusy (iTile f.word) = (s.cl cl).tileBusy (iTile f.word) := by
    obtain ⟨i, sg, n, hcl⟩ := hu
    rw [hcl]
    rfl
  unfold Cluster.passed
  by_cases hempty : m = 0 ∨ n = 0 ∨ (k = 0 ∧ iFresh f.word = false)
  · rw [if_pos hempty, State.passIssue_empty kind hempty]
    exact ⟨_, fun _ _ _ _ => ⟨rfl, rfl⟩, rfl, actsAs_passRetired u cl⟩
  · rw [if_neg hempty]
    by_cases hidle : k = 0 ∧ (s.cl cl).tileBusy (iTile f.word) = false
    · rw [if_pos hidle]
      exact ⟨_, unplaced_passCleared f.word k, rfl, State.passIssue_clear kind hempty (by rw [hbusy]; exact hidle)⟩
    · rw [if_neg hidle]
      exact ⟨_, unplaced_passQueued f kind m n k, rfl, State.passIssue_queue kind hempty (by rw [hbusy]; exact hidle)⟩
/-- The extents of a pass are read from the cluster's bound registers. -/
theorem passExtents_of {s u : State} {cl : Nat} (hu : ∃ i sg n, u.cl cl = { s.cl cl with index := i, sig := sg, issued := n }) (w : Nat) :
    (u.cl cl).passExtents w = (s.cl cl).passExtents w := by
  obtain ⟨i, sg, n, hcl⟩ := hu
  rw [hcl]
  rfl

/-- A pass that a command selects and that no check refuses issues, with the extents at issue; before it the command may count and report. -/
theorem State.issue_passes {s : State} {cl : Nat} {f : Fetched} (h : Issues s cl f) (hontime : OnTime s cl) {sel : State → Nat → Bool}
    {check : State → Fetched → Verdict} {act : State → Fetched → State} {ps : List Part} (hsel : sel s f.word = true)
    (hcheck : check (s.sign cl f) f = .ok) (kind : PassKind) (m n k : Nat) {v : State} (hcl : v.cl cl = ((s.sign cl f).step1 cl).cl cl)
    (hacts : ActsAs ((s.sign cl f).step1 cl) v cl id) (hv : SameBut ps ((s.sign cl f).step1 cl) v)
    (hact : act ((s.sign cl f).step1 cl) f = v.passIssue cl f kind m n k) :
    ∃ t, s.issue cl sel check act = t ∧ SameBut (ps ++ [Part.clusters, Part.ctr] ++ issueParts) s t ∧ Issued s t cl ((s.cl cl).passed f kind m n k) := by
  obtain ⟨g, hg, hpassed, hpass⟩ := State.passIssue_acts (s := s) (u := v) (by rw [hcl]; exact State.step1_cl h) f kind m n k
  have hsame : SameBut [.clusters, .ctr] v (v.passIssue cl f kind m n k) :=
    State.passIssue_touch (List.Subset.refl _) v cl f kind m n k (Touch.refl _ v)
  rw [← hpassed]
  exact State.issue_acts h hontime hsel hcheck hg (by rw [hact]; exact hacts.trans hpass) (by rw [hact]; exact hv.trans hsame)

/-- What `CROP` does where it is not refused (R200, R211). -/
def cropAct (cl : Nat) (s : State) (f : Fetched) : State :=
  let (m, n, k) := (s.cl cl).passExtents f.word
  let clamps := if n = 0 then 0 else s.cropClamps cl m ((s.desc (iGeom f.word)).getD [])
  let s := if clamps = 0 then s
    else (s.bump kCropClamps clamps).eventOnce 3 f.step (s.seqSrc cl) 0x2500 (u16 (iGeom f.word))
  s.passIssue cl f .crop m n k
/-- Counting and reporting the neighbours resolved against the stored window is nothing to a cluster. -/
theorem State.cropCounted (u : State) (cl : Nat) (f : Fetched) (m n : Nat) :
    ∃ v : State, v.cl cl = u.cl cl ∧ ActsAs u v cl id ∧ SameBut [.log, .job, .host, .ctr, .out] u v ∧
      (if (if n = 0 then 0 else u.cropClamps cl m ((u.desc (iGeom f.word)).getD [])) = 0 then u
        else (u.bump kCropClamps (if n = 0 then 0 else u.cropClamps cl m ((u.desc (iGeom f.word)).getD []))).eventOnce 3 f.step (u.seqSrc cl) 0x2500
          (u16 (iGeom f.word))) = v := by
  generalize (if n = 0 then 0 else u.cropClamps cl m ((u.desc (iGeom f.word)).getD [])) = clamps
  split
  · exact ⟨u, rfl, actsAs_refl u cl, Touch.refl _ u, rfl⟩
  · have hacts := (actsAs_bump u cl kCropClamps clamps (by decide)).trans (actsAs_eventOnce _ cl 3 f.step (u.seqSrc cl) 0x2500 (u16 (iGeom f.word)))
    have hevent := State.eventOnce_touch (List.Subset.refl _) (u.bump kCropClamps clamps) 3 f.step (u.seqSrc cl) 0x2500 (u16 (iGeom f.word)) (Touch.refl _ _)
    have hsame : SameBut [.log, .job, .host, .ctr, .out] u _ := ((sb_ctr u kCropClamps clamps).trans hevent).mono (by decide)
    exact ⟨_, hacts.here, hacts, hsame, rfl⟩

/-! ### Known-answer passes -/

/-- A known-answer pass has taken its place in the array, and its check on the drain path. -/
def Cluster.katQueued (c : Cluster) (f : Fetched) : Cluster :=
  { c.setAhead (iTile f.word) { c.aheadOf (iTile f.word) with base := .idle, runK := 0 } with
    issueNo := c.issueNo + 1
    arrayQ := c.arrayQ ++ [⟨c.issueNo, .kat, iTile f.word, f.word, 128, 128, 128, f.step, f.idx⟩]
    drainQ := c.drainQ ++ [{ n := c.issueNo, kind := .katCheck, tile := iTile f.word, word := f.word, m := 128, nn := 128, rowBits := 0,
                             colBits := 0, step := f.step, idx := f.idx }] }
theorem State.katIssue_acts (u : State) (cl : Nat) (f : Fetched) : ActsAs u (u.katIssue cl f) cl (fun c => c.katQueued f) := by
  have hact := (actsAs_modCl u cl fun c => { c with issueNo := c.issueNo + 1 }).trans (actsAs_modCl _ cl fun c =>
    { c.setAhead (iTile f.word) { (u.cl cl).aheadOf (iTile f.word) with base := .idle, runK := 0 } with
      arrayQ := c.arrayQ ++ [⟨(u.cl cl).issueNo, .kat, iTile f.word, f.word, 128, 128, 128, f.step, f.idx⟩]
      drainQ := c.drainQ ++ [{ n := (u.cl cl).issueNo, kind := .katCheck, tile := iTile f.word, word := f.word, m := 128, nn := 128, rowBits := 0,
                               colBits := 0, step := f.step, idx := f.idx }] })
  exact ⟨hact.here, hact.others, hact.issued, hact.duty⟩

/-- The checks of `KAT` (R103, R110). -/
def katVerdict (cl : Nat) (s : State) (f : Fetched) : Verdict :=
  match firstReason [(2, ((s.cl cl).aheadOf (iTile f.word)).base = .reserved),
      (7, ((s.cl cl).aheadOf (iTile f.word)).slot = .accumulated && decide (0 < ((s.cl cl).aheadOf (iTile f.word)).runK))] with
  | some r => .array r
  | none => .ok
theorem katVerdict_ok {s : State} {cl : Nat} {f : Fetched} (h : Issues s cl f) (hbase : ((s.cl cl).aheadOf (iTile f.word)).base ≠ .reserved)
    (hslot : ¬(((s.cl cl).aheadOf (iTile f.word)).slot = .accumulated ∧ 0 < ((s.cl cl).aheadOf (iTile f.word)).runK)) :
    katVerdict cl (s.sign cl f) f = .ok := by
  obtain ⟨sg, hcl⟩ := State.sign_cl h
  have hahead : ((s.sign cl f).cl cl).aheadOf (iTile f.word) = (s.cl cl).aheadOf (iTile f.word) := by
    rw [hcl]
    rfl
  unfold katVerdict
  rw [hahead]
  generalize (s.cl cl).aheadOf (iTile f.word) = a at *
  have hreason : firstReason [(2, decide (a.base = .reserved)), (7, a.slot = .accumulated && decide (0 < a.runK))] = none := by
    rw [not_and] at hslot
    simp only [firstReason, List.find?, decide_eq_false hbase]
    by_cases hacc : a.slot = .accumulated
    · simp [hacc, hslot hacc]
    · simp [hacc]
  rw [hreason]

/-! ### The end of a pass of the stream in a module that straggles in the next step (R72) -/

/-- With nothing in flight every queue of the cluster is empty. -/
theorem Cluster.queues_of_idle {c : Cluster} (h : c.inflight = 0) : c.arrayQ = [] ∧ c.signals = [] := by
  unfold Cluster.inflight at h
  exact ⟨List.length_eq_zero_iff.1 (by omega), List.length_eq_zero_iff.1 (by omega)⟩
theorem State.giveSignals_none {s : State} {cl : Nat} (h : (s.cl cl).signals = []) :
    s.giveSignals cl = s.modCl cl fun c => { c with signals := c.signals.filter fun g => !c.signalReady g } := by
  unfold State.giveSignals
  dsimp only
  rw [h]
  rfl
/-- A cluster at the end of its stream's pass begins the next one. -/
def State.nextPass (s : State) (cl : Nat) : State :=
  let s1 := s.modCl cl fun c => { c with index := 0, step := c.step + 1, drainIn := [], sig := 0xFFFFFFFF#32 }
  if (s.cl cl).drainIn.length = 0 then s1 else (s1.bump kDiscards (s.cl cl).drainIn.length).event (s.seqSrc cl) 0x2600 (u32 (s.cl cl).drainIn.length)
theorem State.nextPass_clusters (s : State) (cl : Nat) : (s.nextPass cl).clusters =
    (s.modCl cl fun c => { c with index := 0, step := c.step + 1, drainIn := [], sig := 0xFFFFFFFF#32 }).clusters := by
  unfold State.nextPass
  dsimp only
  split <;> simp [State.bump]
theorem State.nextPass_sameBut (s : State) (cl : Nat) : SameBut [.clusters, .log, .host, .ctr, .out] s (s.nextPass cl) := by
  unfold State.nextPass
  dsimp only
  split
  · exact (sb_modCl s cl _).mono (by decide)
  · exact ((sb_modCl s cl _).trans (sb_bump_event _ _ _ _ _ _)).mono (by decide)
/-- It abandons the work before the REDUCE entry. -/
def State.passOver (s : State) (cl : Nat) (st : Stream) : State :=
  (({ s with sync := { s.sync with waits := s.sync.waits.filter fun x => x.cluster ≠ cl ∨ st.entries.getD 3 0 < (s.cl cl).index } } : State).modCl cl
    fun c => (c.abandonTo (st.entries.getD 3 0)).katFirst (s.clStep cl)).event (s.seqSrc cl) 0x2204
theorem State.abandonCl_idle {s : State} {cl : Nat} {st : Stream} (hst : s.stream cl = some st) (hq : (s.cl cl).arrayQ = []) :
    s.abandonCl (s.clStep cl) cl = s.passOver cl st := by
  have hpass : s.finishPass cl = s := by
    unfold State.finishPass Cluster.inPipe
    rw [hq]
  unfold State.abandonCl
  rw [hst]
  dsimp only
  rw [if_pos (Or.inl rfl), if_pos rfl, hpass]
  rfl
theorem State.wrap_late {s : State} {cl : Nat} {st : Stream} (hst : s.stream cl = some st) (hlen : 0 < st.words.length)
    (hend : (s.cl cl).index = st.words.length) (hidle : (s.cl cl).inflight = 0) (hwait : (s.cl cl).wait = .none)
    (hlate : (s.stepRec (s.clStep cl + 1)).straggles = true) : s.wrap cl = (s.nextPass cl).passOver cl st := by
  have hjob : (s.nextPass cl).job = s.job := s.nextPass_sameBut cl .job (by decide)
  have hcl : (s.nextPass cl).cl cl = { s.cl cl with index := 0, step := (s.cl cl).step + 1, drainIn := [], sig := 0xFFFFFFFF#32 } := by
    rw [cl_of (s.nextPass_clusters cl), cl_modCl]
  have hstep : (s.nextPass cl).clStep cl = s.clStep cl + 1 := by
    unfold State.clStep
    rw [hjob, hcl]
    exact (Nat.add_assoc _ _ _).symm
  have hstraggles : ((s.nextPass cl).stepRec ((s.nextPass cl).clStep cl)).straggles = true := by
    rw [hstep]
    unfold State.stepRec
    rw [hjob]
    exact hlate
  have hstream : (s.nextPass cl).stream cl = some st := by
    unfold State.stream
    rw [hjob]
    exact hst
  unfold State.wrap
  rw [hst]
  dsimp only
  rw [if_pos ⟨hlen, hend, hidle, hwait⟩]
  have habandon := State.abandonCl_idle hstream (by rw [hcl]; exact (Cluster.queues_of_idle hidle).1)
  exact (if_pos hstraggles).trans habandon
/-- The cluster of an instruction that issues holds it, and waits for nothing. -/
theorem State.fetch_stream {s : State} {cl : Nat} {f : Fetched} (h : s.fetch cl = some f) :
    s.stream cl = some f.st ∧ (s.cl cl).index = f.idx ∧ (s.cl cl).wait = .none ∧ f.step = s.clStep cl := by
  unfold State.fetch at h
  split at h
  · cases h
  · next st hst =>
    dsimp only at h
    split at h
    · cases h
    · split at h
      · next hready =>
        obtain ⟨-, -, -, hwait, -⟩ := hready
        obtain rfl := Option.some.inj h
        exact ⟨hst, rfl, hwait, rfl⟩
      · cases h
/-- An instruction that acts has moved its cluster on by one in its stream. -/
theorem State.step1_index {s : State} {cl : Nat} {f : Fetched} (h : Issues s cl f) :
    ∃ sg n, ((s.sign cl f).step1 cl).cl cl = { s.cl cl with index := f.idx + 1, sig := sg, issued := n } := by
  obtain ⟨sg, hcl⟩ := State.sign_cl h
  obtain ⟨-, hindex, -, -⟩ := State.fetch_stream h.1
  refine ⟨sg, (s.cl cl).issued + 1, ?_⟩
  unfold State.step1
  rw [cl_bump, cl_modCl, hcl, ← hindex]
/-- What the cluster is then: at the REDUCE entry of the next step, with nothing but a known-answer pass. -/
theorem State.passOver_spec {s : State} {cl : Nat} {st : Stream} (hindex : (s.cl cl).index = 0) (hheld : s.start.wardenHeld = false) :
    let t := s.passOver cl st
    (t.cl cl).index = st.entries.getD 3 0 ∧ (t.cl cl).step = (s.cl cl).step ∧ (t.cl cl).katHold = true ∧
      (t.cl cl).arrayQ.map (fun o => o.kind) = [.kat] ∧ (t.cl cl).tiles = [] ∧ (t.cl cl).slots = [] ∧ Raised t (s.seqSrc cl) 0x2204 ∧
      SameBut [.sync, .clusters, .log, .host, .ctr, .out] s t := by
  intro t
  have hcl : t.cl cl = ((s.cl cl).abandonTo (st.entries.getD 3 0)).katFirst (s.clStep cl) := by
    show (State.event _ _ _ _).cl cl = _
    rw [cl_of (event_clusters _ _ _ _), cl_modCl]
    rfl
  have habandon : (s.cl cl).abandonTo (st.entries.getD 3 0) =
      { (s.cl cl).abandon with index := st.entries.getD 3 0, sig := 0xFFFFFFFF#32, vuStopped := true } :=
    if_pos (by rw [hindex]; exact Nat.zero_le _)
  have hsync : SameBut [.sync] s { s with sync := { s.sync with waits := s.sync.waits.filter fun x => x.cluster ≠ cl ∨ st.entries.getD 3 0 < (s.cl cl).index } } := by
    intro p hp
    cases p with
    | sync => exact absurd (by decide) hp
    | _ => rfl
  rw [hcl, habandon]
  refine ⟨rfl, rfl, rfl, rfl, rfl, rfl, raised_event _ _ _ _ hheld, ?_⟩
  exact ((hsync.trans (sb_modCl _ cl _)).trans (sameBut_event _ _ _ _)).mono (by decide)

end Sys2Proof.Machine
end

section
open Sys2Proof Sys2Proof.Machine

/-- The last instruction of a pass of the stream, in a module that straggles in the next step. -/
theorem lateStreamIsPassedOver {s : State} {cl : Nat} {f : Fetched} (h : Issues s cl f) (hlate : ¬OnTime s cl) (hclass : iClass f.word = 0)
    (hlast : f.idx + 1 = f.st.words.length) (hidle : (s.cl cl).inflight = 0) (hheld : s.start.wardenHeld = false) :
    ∃ t, exec (.nop cl) s = .next t ∧ (t.cl cl).index = f.st.entries.getD 3 0 ∧ (t.cl cl).step = (s.cl cl).step + 1
        ∧ (t.cl cl).katHold = true ∧ (t.cl cl).arrayQ.map (fun o => o.kind) = [.kat] ∧ (t.cl cl).tiles = [] ∧ (t.cl cl).slots = []
        ∧ Raised t (s.seqSrc cl) 0x2204 ∧ SameBut issueParts s t := by
  have hissue := State.issue_ok h (fun _ w => iClass w = 0) (fun _ _ => .ok) (fun s _ => s) (decide_eq_true hclass) rfl
  obtain ⟨hstream, -, hwait, -⟩ := State.fetch_stream h.1
  obtain ⟨sg, n, hcl⟩ := State.step1_index h
  obtain ⟨-, -, -, hsame⟩ := State.step1_spec h
  generalize ((s.sign cl f).step1 cl) = u at hissue hcl hsame
  obtain ⟨hqueue, hsignals⟩ := Cluster.queues_of_idle hidle
  have hgive : (u.giveSignals cl).cl cl = u.cl cl := by
    rw [State.giveSignals_none (by rw [hcl]; exact hsignals), cl_modCl, hcl]
    dsimp only
    rw [hsignals]
    rfl
  have hgiven : SameBut [.clusters] u (u.giveSignals cl) := by
    rw [State.giveSignals_none (by rw [hcl]; exact hsignals)]
    exact sb_modCl u cl _
  have hstart : (u.giveSignals cl).start = s.start := (hgiven .start (by decide)).trans (hsame .start (by decide))
  have hjob : (u.giveSignals cl).job = s.job := (hgiven .job (by decide)).trans (hsame .job (by decide))
  have hsame' : SameBut [.clusters, .ctr] s (u.giveSignals cl) := (hsame.trans hgiven).mono (by decide)
  have hsettle : u.settle cl = (u.giveSignals cl).wrap cl := rfl
  generalize u.giveSignals cl = v at hgive hstart hjob hsame' hsettle
  rw [hcl] at hgive
  have hwrap : v.wrap cl = (v.nextPass cl).passOver cl f.st := by
    refine State.wrap_late ?_ (by omega) (by rw [hgive]; exact hlast) (by rw [hgive]; exact hidle) (by rw [hgive]; exact hwait) ?_
    · unfold State.stream
      rw [hjob]
      exact hstream
    · unfold State.stepRec State.clStep
      rw [hjob, hgive]
      exact Bool.eq_true_of_not_eq_false hlate
  have hnext : (v.nextPass cl).cl cl = { v.cl cl with index := 0, step := (v.cl cl).step + 1, drainIn := [], sig := 0xFFFFFFFF#32 } := by
    rw [cl_of (v.nextPass_clusters cl), cl_modCl]
  have hnextSame := v.nextPass_sameBut cl
  have hnextStart : (v.nextPass cl).start = s.start := (hnextSame .start (by decide)).trans hstart
  obtain ⟨hindex, hstep, hkat, harray, htiles, hslots, hraised, hover⟩ :=
    State.passOver_spec (st := f.st) (s := v.nextPass cl) (cl := cl) (by rw [hnext]) (by rw [hnextStart]; exact hheld)
  refine ⟨_, congrArg Host.Outcome.next (hissue.trans (hsettle.trans hwrap)), hindex, hstep.trans (by rw [hnext, hgive]), hkat, harray, htiles, hslots, ?_,
    ((hsame'.trans hnextSame).trans hover).mono (by decide)⟩
  unfold State.seqSrc State.physDie at hraised ⊢
  rw [← hnextStart]
  exact hraised

/-- A pass of any kind takes its place. -/
theorem passTakesItsPlace {s : State} {cl : Nat} {f : Fetched} (h : Issues s cl f) (hontime : OnTime s cl) {i : Instr} {kind : PassKind} {n : Nat}
    (hpass : (i = .matrix cl ∧ kind = .matrix ∧ iClass f.word = 1 ∧ n = ((s.cl cl).passExtents f.word).2.1 ∧ s.matrixCheck cl f = .ok) ∨
      (i = .conv cl ∧ kind = .conv ∧ iClass f.word = 2 ∧ s.namesCrop f.word = false ∧ n = ((s.cl cl).passExtents f.word).2.1
        ∧ s.convCheck cl f = .ok) ∨
      (i = .crop cl ∧ kind = .crop ∧ iClass f.word = 2 ∧ s.namesCrop f.word = true ∧ n = ((s.cl cl).passExtents f.word).2.1
        ∧ s.cropCheck cl f = .ok) ∨
      (i = .elemwise cl ∧ kind = .elemwise ∧ iClass f.word = 3 ∧ n = 128 ∧ s.elemCheck cl f = .ok)) :
    ∃ t, exec i s = .next t ∧ SameBut (.job :: issueParts) s t ∧ (kind ≠ .crop → t.job = s.job) ∧
      Issued s t cl ((s.cl cl).passed f kind ((s.cl cl).passExtents f.word).1 n ((s.cl cl).passExtents f.word).2.2) := by
  have hext := passExtents_of (State.step1_cl h) f.word
  rcases hpass with ⟨rfl, rfl, hclass, rfl, hcheck⟩ | ⟨rfl, rfl, hclass, hcrop, rfl, hcheck⟩ | ⟨rfl, rfl, hclass, hcrop, rfl, hcheck⟩ | ⟨rfl, rfl, hclass, rfl, hcheck⟩
  case inl =>
    obtain ⟨t, ht, hsame, hissued⟩ := State.issue_passes h hontime (sel := fun _ w => iClass w = 1) (check := fun s f => s.matrixCheck cl f)
      (act := fun s f => let (m, n, k) := (s.cl cl).passExtents f.word; s.passIssue cl f .matrix m n k) (decide_eq_true hclass)
      ((State.matrixCheck_sign h).trans hcheck) .matrix ((s.cl cl).passExtents f.word).1 ((s.cl cl).passExtents f.word).2.1 ((s.cl cl).passExtents f.word).2.2 rfl (actsAs_refl _ cl) (Touch.refl [] _)
      (by dsimp only; rw [hext])
    exact ⟨t, congrArg Host.Outcome.next ht, hsame.mono (by decide), fun _ => hsame .job (by decide), hissued⟩
  case inr.inl =>
    obtain ⟨t, ht, hsame, hissued⟩ := State.issue_passes h hontime (sel := fun s w => iClass w = 2 ∧ !s.namesCrop w) (check := fun s f => s.convCheck cl f)
      (act := fun s f => let (m, n, k) := (s.cl cl).passExtents f.word; s.passIssue cl f .conv m n k) (by simp [hclass, hcrop])
      ((State.convCheck_sign h).trans hcheck) .conv ((s.cl cl).passExtents f.word).1 ((s.cl cl).passExtents f.word).2.1 ((s.cl cl).passExtents f.word).2.2 rfl (actsAs_refl _ cl) (Touch.refl [] _)
      (by dsimp only; rw [hext])
    exact ⟨t, congrArg Host.Outcome.next ht, hsame.mono (by decide), fun _ => hsame .job (by decide), hissued⟩
  case inr.inr.inl =>
    obtain ⟨v, hcl, hacts, hsame, hcrops⟩ := State.cropCounted ((s.sign cl f).step1 cl) cl f ((s.cl cl).passExtents f.word).1 ((s.cl cl).passExtents f.word).2.1
    obtain ⟨t, ht, hsame, hissued⟩ := State.issue_passes h hontime (sel := fun s w => iClass w = 2 ∧ s.namesCrop w) (check := fun s f => s.cropCheck cl f)
      (act := cropAct cl) (by simp [hclass, hcrop]) ((State.cropCheck_sign h).trans hcheck) .crop ((s.cl cl).passExtents f.word).1 ((s.cl cl).passExtents f.word).2.1 ((s.cl cl).passExtents f.word).2.2 hcl hacts hsame
      (by rw [← hcrops]; unfold cropAct; rw [hext])
    exact ⟨t, congrArg Host.Outcome.next ht, hsame.mono (by decide), fun hkind => absurd rfl hkind, hissued⟩
  case inr.inr.inr =>
    obtain ⟨t, ht, hsame, hissued⟩ := State.issue_passes h hontime (sel := fun _ w => iClass w = 3) (check := fun s f => s.elemCheck cl f)
      (act := fun s f => let (m, _, k) := (s.cl cl).passExtents f.word; s.passIssue cl f .elemwise m 128 k) (decide_eq_true hclass)
      ((State.elemCheck_sign h).trans hcheck) .elemwise ((s.cl cl).passExtents f.word).1 128 ((s.cl cl).passExtents f.word).2.2 rfl (actsAs_refl _ cl) (Touch.refl [] _)
      (by dsimp only; rw [hext])
    exact ⟨t, congrArg Host.Outcome.next ht, hsame.mono (by decide), fun _ => hsame .job (by decide), hissued⟩

/-- Settles O41: what a pass makes of its cluster at issue, whatever kind of pass it is. -/
theorem passesTakeTheirPlaceAtIssue : Obligations.PassesTakeTheirPlaceAtIssue := by
  unfold Obligations.PassesTakeTheirPlaceAtIssue
  intro s cl f h
  refine ⟨fun hlate hclass hlast hidle hheld => lateStreamIsPassedOver h hlate hclass hlast hidle hheld, fun hontime => ⟨fun hclass => ?_, fun i kind n hpass => ?_, fun hclass hbase hslot => ?_⟩⟩
  · obtain ⟨t, ht, hsame, hissued⟩ := State.issue_acts (sel := fun _ w => iClass w = 0) (check := fun _ _ => .ok) (act := fun s _ => s) h hontime
      (decide_eq_true hclass) rfl (g := id) (fun _ _ _ _ => ⟨rfl, rfl⟩) (actsAs_refl _ cl) (Touch.refl _ _ : SameBut [] _ _)
    exact ⟨t, congrArg Host.Outcome.next ht, hissued, hsame⟩
  · obtain ⟨t, ht, hsame, hjob, hissued⟩ := passTakesItsPlace h hontime hpass
    refine ⟨t, ht, hsame, hjob, ?_⟩
    unfold Cluster.passed at hissued
    dsimp only
    split
    · next hempty => rwa [if_pos hempty] at hissued
    · next hempty =>
      rw [if_neg hempty] at hissued
      split
      · next hclear => rwa [if_pos hclear] at hissued
      · next hclear => rwa [if_neg hclear] at hissued
  · obtain ⟨t, ht, hsame, hissued⟩ := State.issue_acts (sel := fun _ w => iClass w = 4) (check := katVerdict cl) (act := fun s f => s.katIssue cl f) h hontime
      (decide_eq_true hclass) (katVerdict_ok h hbase hslot) (g := fun c => c.katQueued f) (fun _ _ _ _ => ⟨rfl, rfl⟩) (State.katIssue_acts _ cl f)
      (State.katIssue_touch (List.Subset.refl _) _ cl f (Touch.refl _ _))
    exact ⟨t, congrArg Host.Outcome.next ht, hsame.mono (by decide), hissued⟩
end

section
/-! SUPPORT and PROOFS. Drains, spills and restores take their place on the drain path at issue (R94, R102, R103, R156, R165 to R167). -/

namespace Sys2Proof.Machine

/-- An operation has taken its place on the drain path. -/
def Cluster.drainPut (c : Cluster) (f : Fetched) (kind : DrainKind) (m n : Nat) (mask : Nat × Nat) : Cluster :=
  { c with
    issueNo := c.issueNo + 1
    drainQ := c.drainQ ++ [{ n := c.issueNo, kind := kind, tile := iTile f.word, word := f.word, m := m, nn := n,
                             rowBits := mask.1, colBits := mask.2, step := f.step, idx := f.idx }] }
theorem actsAs_drainPut (u : State) (cl : Nat) (f : Fetched) (kind : DrainKind) (m n : Nat) (mask : Nat × Nat) :
    ActsAs u (u.drainPut cl f kind m n mask) cl (fun c => c.drainPut f kind m n mask) := by
  have hact := (actsAs_modCl u cl fun c => { c with issueNo := c.issueNo + 1 }).trans (actsAs_modCl _ cl fun c =>
    { c with drainQ := c.drainQ ++ [{ n := (u.cl cl).issueNo, kind := kind, tile := iTile f.word, word := f.word, m := m, nn := n,
                                      rowBits := mask.1, colBits := mask.2, step := f.step, idx := f.idx }] })
  exact ⟨hact.here, hact.others, hact.issued, hact.duty⟩
theorem State.drainPut_same (u : State) (cl : Nat) (f : Fetched) (kind : DrainKind) (m n : Nat) (mask : Nat × Nat) :
    SameBut [.clusters] u (u.drainPut cl f kind m n mask) :=
  State.drainPut_touch (List.Subset.refl _) u cl f kind m n mask (Touch.refl _ u)

/-- The tile as `tileNext` says it will be, an operation has taken its place on the drain path. -/
theorem actsAs_ahead_drainPut (u : State) (cl : Nat) (f : Fetched) (tileNext : Ahead → Ahead) (kind : DrainKind) (m n : Nat) (mask : Nat × Nat) :
    ActsAs u ((u.modCl cl fun c => c.setAhead (iTile f.word) (tileNext ((u.cl cl).aheadOf (iTile f.word)))).drainPut cl f kind m n mask) cl
      (fun c => (c.setAhead (iTile f.word) (tileNext (c.aheadOf (iTile f.word)))).drainPut f kind m n mask) := by
  have hact := (actsAs_modCl u cl fun c => c.setAhead (iTile f.word) (tileNext ((u.cl cl).aheadOf (iTile f.word)))).trans
    (actsAs_drainPut _ cl f kind m n mask)
  exact ⟨hact.here, hact.others, hact.issued, hact.duty⟩

/-- A spill or a restore that its command selects and no check refuses takes its place. -/
theorem State.issue_tileMove {s : State} {cl : Nat} {f : Fetched} (h : Issues s cl f) (hontime : OnTime s cl) {sel : State → Nat → Bool}
    {check : State → Fetched → Verdict} (hsel : sel s f.word = true) (hcheck : check (s.sign cl f) f = .ok) (tileNext : Ahead → Ahead)
    (kind : DrainKind) :
    ∃ t, s.issue cl sel check (fun u f =>
        (u.modCl cl fun c => c.setAhead (iTile f.word) (tileNext ((u.cl cl).aheadOf (iTile f.word)))).drainPut cl f kind 128 128 (0, 0)) = t ∧ SameBut issueParts s t ∧
      Issued s t cl (((s.cl cl).setAhead (iTile f.word) (tileNext ((s.cl cl).aheadOf (iTile f.word)))).drainPut f kind 128 128 (0, 0)) := by
  have hacts := actsAs_ahead_drainPut ((s.sign cl f).step1 cl) cl f tileNext kind 128 128 (0, 0)
  have hsame : SameBut [.clusters] ((s.sign cl f).step1 cl) _ := ((sb_modCl _ cl fun c => c.setAhead (iTile f.word)
    (tileNext ((((s.sign cl f).step1 cl).cl cl).aheadOf (iTile f.word)))).trans (State.drainPut_same _ cl f kind 128 128 (0, 0))).mono (by decide)
  obtain ⟨t, ht, hparts, hissued⟩ := State.issue_acts (act := fun u f =>
      (u.modCl cl fun c => c.setAhead (iTile f.word) (tileNext ((u.cl cl).aheadOf (iTile f.word)))).drainPut cl f kind 128 128 (0, 0))
    h hontime hsel hcheck (fun _ _ _ _ => ⟨rfl, rfl⟩) hacts hsame
  exact ⟨t, ht, hparts.mono (by decide), hissued⟩

/-- The tile that the checks of R103 look at is what it was before the signature. -/
theorem State.sign_aheadOf {s : State} {cl : Nat} {f : Fetched} (h : Issues s cl f) (x : Nat) :
    ((s.sign cl f).cl cl).aheadOf x = (s.cl cl).aheadOf x := by
  obtain ⟨sg, hcl⟩ := State.sign_cl h
  rw [hcl]
  rfl
theorem State.drainCheck_sign {s : State} {cl : Nat} {f : Fetched} (h : Issues s cl f) : (s.sign cl f).drainCheck cl f = s.drainCheck cl f := by
  obtain ⟨g, hg⟩ := State.sign_cl h
  have hreach : ∀ w m n, (s.sign cl f).drainReach w m n = s.drainReach w m n := fun w m n => by
    rw [State.drainReach, State.sign_desc h, State.drainReach]
  rw [State.drainCheck, hg, State.sign_desc h, hreach, State.drainCheck]
  rfl

/-- What a drain makes of its cluster at issue: a drain of a slot empties it. -/
def Cluster.drained (c : Cluster) (f : Fetched) : Cluster :=
  (if dFromSlot f.word = true then c.setAhead (iTile f.word) { c.aheadOf (iTile f.word) with slot := .empty } else c).drainPut f
    (if dFromSlot f.word = true then .drainSlot else .drain) (c.extent (dMMax f.word) (dMSel f.word)) (c.extent (dNMax f.word) (dNSel f.word))
    (c.drainMask f.word)
theorem unplaced_drained (f : Fetched) : Unplaced fun c => c.drained f := by
  intro c i sg n
  unfold Cluster.drained
  split <;> exact ⟨rfl, rfl⟩
theorem actsAs_drainIssue (u : State) (cl : Nat) (f : Fetched) : ActsAs u (u.drainIssue cl f) cl (fun c => c.drained f) := by
  unfold State.drainIssue Cluster.drained
  dsimp only
  split
  · have hact := (actsAs_modCl u cl fun c => c.setAhead (iTile f.word) { (u.cl cl).aheadOf (iTile f.word) with slot := .empty }).trans
      (actsAs_drainPut _ cl f .drainSlot ((u.cl cl).extent (dMMax f.word) (dMSel f.word)) ((u.cl cl).extent (dNMax f.word) (dNSel f.word))
        ((u.cl cl).drainMask f.word))
    exact ⟨hact.here, hact.others, hact.issued, hact.duty⟩
  · have hact := actsAs_drainPut u cl f .drain ((u.cl cl).extent (dMMax f.word) (dMSel f.word)) ((u.cl cl).extent (dNMax f.word) (dNSel f.word))
      ((u.cl cl).drainMask f.word)
    exact ⟨hact.here, hact.others, hact.issued, hact.duty⟩

/-- A drain that its command selects and no check refuses takes its place. -/
theorem State.issue_drain {s : State} {cl : Nat} {f : Fetched} (h : Issues s cl f) (hontime : OnTime s cl) {sel : State → Nat → Bool}
    (hsel : sel s f.word = true) (hcheck : s.drainCheck cl f = .ok) :
    ∃ t, s.issue cl sel (fun s f => s.drainCheck cl f) (fun s f => s.drainIssue cl f) = t ∧ SameBut issueParts s t ∧
      Issued s t cl ((s.cl cl).drained f) := by
  obtain ⟨t, ht, hparts, hissued⟩ := State.issue_acts (check := fun s f => s.drainCheck cl f) (act := fun s f => s.drainIssue cl f) h hontime hsel
    ((State.drainCheck_sign h).trans hcheck) (unplaced_drained f) (actsAs_drainIssue _ cl f)
    (State.drainIssue_touch (List.Subset.refl _) _ cl f (Touch.refl _ _))
  exact ⟨t, ht, hparts.mono (by decide), hissued⟩

/-! ### The reasons of R103 -/

/-- None of two reasons holds. -/
theorem firstReason_two {i j : Nat} {a b : Bool} (ha : a = false) (hb : b = false) : firstReason [(i, a), (j, b)] = none := by
  rw [ha, hb]
  rfl

end Sys2Proof.Machine
end

section
open Sys2Proof Sys2Proof.Machine

/-- Settles O42: what an operation makes of its cluster at issue, once for the drains and once for the spills and the restore. -/
theorem drainsAndSpillsTakeTheirPlaceAtIssue : Obligations.DrainsAndSpillsTakeTheirPlaceAtIssue := by
  unfold Obligations.DrainsAndSpillsTakeTheirPlaceAtIssue
  intro s cl f h hontime c t0 a op put
  have hahead := State.sign_aheadOf h t0
  refine ⟨fun hclass hcheck => ⟨fun hslot => ?_, fun hslot => ?_⟩, fun hclass hmode hbase hempty => ?_,
    fun hclass hmode hbase hstored hacc => ?_, fun hclass hstored => ?_⟩
  case refine_1 =>
    obtain ⟨t, ht, hsame, hissued⟩ := State.issue_drain h hontime (sel := fun _ w => iClass w = 5 ∧ !dFromSlot w) (by simp [hclass, hslot]) hcheck
    rw [Cluster.drained, if_neg (by rw [hslot]; decide), if_neg (by rw [hslot]; decide)] at hissued
    exact ⟨t, congrArg Host.Outcome.next ht, hsame, hissued⟩
  case refine_2 =>
    obtain ⟨t, ht, hsame, hissued⟩ := State.issue_drain h hontime (sel := fun _ w => iClass w = 5 ∧ dFromSlot w) (by simp [hclass, hslot]) hcheck
    rw [Cluster.drained, if_pos hslot, if_pos hslot] at hissued
    exact ⟨t, congrArg Host.Outcome.next ht, hsame, hissued⟩
  case refine_3 =>
    obtain ⟨t, ht, hsame, hissued⟩ := State.issue_tileMove h hontime (sel := fun _ w => iClass w = 6 ∧ !iFresh w)
      (check := fun s f =>
        match firstReason [(2, ((s.cl cl).aheadOf (iTile f.word)).base = .reserved), (3, ((s.cl cl).aheadOf (iTile f.word)).slot ≠ .empty)] with
        | some r => .array r | none => .ok)
      (by simp [hclass, hmode]) (by rw [hahead, firstReason_two (decide_eq_false hbase) (decide_eq_false (not_not.2 hempty))])
      (fun a => { a with base := .reserved, runK := 0, slot := .stored, slotEref := a.eref, slotRunK := a.runK }) .spillStore
    exact ⟨t, congrArg Host.Outcome.next ht, hsame, hissued⟩
  case refine_4 =>
    obtain ⟨t, ht, hsame, hissued⟩ := State.issue_tileMove h hontime (sel := fun _ w => iClass w = 6 ∧ iFresh w)
      (check := fun s f =>
        match firstReason [(2, ((s.cl cl).aheadOf (iTile f.word)).base = .reserved),
            (4, ((s.cl cl).aheadOf (iTile f.word)).slot = .stored || (((s.cl cl).aheadOf (iTile f.word)).slot = .accumulated &&
              ((s.cl cl).aheadOf (iTile f.word)).slotEref != ((s.cl cl).aheadOf (iTile f.word)).eref))] with
        | some r => .array r | none => .ok)
      (by simp [hclass, hmode]) (by
        have hslot : (decide (a.slot = .stored) || (decide (a.slot = .accumulated) && a.slotEref != a.eref)) = false := by
          rw [decide_eq_false hstored, Bool.false_or, Bool.and_eq_false_imp]
          exact fun hslot => by rw [hacc (of_decide_eq_true hslot), bne_self_eq_false]
        rw [hahead, firstReason_two (decide_eq_false hbase) hslot])
      (fun a => { a with base := .idle, runK := 0, slot := .accumulated, slotEref := a.eref, slotRunK := 0 }) .spillAdd
    exact ⟨t, congrArg Host.Outcome.next ht, hsame, hissued⟩
  case refine_5 =>
    obtain ⟨t, ht, hsame, hissued⟩ := State.issue_tileMove h hontime (sel := fun _ w => iClass w = 7)
      (check := fun s f => if ((s.cl cl).aheadOf (iTile f.word)).slot ≠ .stored then .array 5 else .ok)
      (by simp [hclass]) (by rw [hahead, if_neg (not_not.2 hstored)])
      (fun a => { a with base := .live, eref := a.slotEref, runK := a.slotRunK, slot := .empty }) .restore
    exact ⟨t, congrArg Host.Outcome.next ht, hsame, hissued⟩
end

section
/-! SUPPORT and PROOFS. Queued array work retires: passes, the drain path, known-answer checks, the spill of a pause
(R80, R94, R96 to R99, R102, R105, R110 to R112, R152). -/

namespace Sys2Proof.Machine

/-! ### Retirement (R152) -/

/-- From `s` to `v` cluster `cl` becomes `c`; no other cluster and no duty of the job changes. -/
def BecomesAt (s v : State) (cl : Nat) (c : Cluster) : Prop :=
  v.cl cl = c ∧
  (∀ n, n ≠ cl → v.cl n = s.cl n) ∧
  v.duty = s.duty
theorem BecomesAt.here {s v : State} {cl : Nat} {c : Cluster} : BecomesAt s v cl c → v.cl cl = c
  | ⟨h, _, _⟩ => h
theorem BecomesAt.others {s v : State} {cl : Nat} {c : Cluster} : BecomesAt s v cl c → ∀ n, n ≠ cl → v.cl n = s.cl n
  | ⟨_, h, _⟩ => h
theorem BecomesAt.duty {s v : State} {cl : Nat} {c : Cluster} : BecomesAt s v cl c → v.duty = s.duty
  | ⟨_, _, h⟩ => h
theorem BecomesAt.refl (s : State) (cl : Nat) : BecomesAt s s cl (s.cl cl) := ⟨rfl, fun _ _ => rfl, rfl⟩
theorem becomesAt_modCl (s : State) (cl : Nat) (f : Cluster → Cluster) : BecomesAt s (s.modCl cl f) cl (f (s.cl cl)) :=
  ⟨cl_modCl s cl f, fun n hn => cl_modCl_other s cl n f hn, rfl⟩
theorem BecomesAt.trans {s u v : State} {cl : Nat} {c d : Cluster} (h : BecomesAt s u cl c) (k : BecomesAt u v cl d) : BecomesAt s v cl d :=
  ⟨k.here, fun n hn => (k.others n hn).trans (h.others n hn), k.duty.trans h.duty⟩
/-- What changes neither clusters nor the job leaves the cluster as it has become. -/
theorem BecomesAt.of_same {s u v : State} {cl : Nat} {c : Cluster} {ps : List Part} (h : BecomesAt s u cl c) (k : SameBut ps u v)
    (hclusters : Part.clusters ∉ ps) (hjob : Part.job ∉ ps) : BecomesAt s v cl c :=
  ⟨(cl_of (k .clusters hclusters) cl).trans h.here, fun n hn => (cl_of (k .clusters hclusters) n).trans (h.others n hn),
    (duty_of_touch k hjob).trans h.duty⟩
/-- What follows a retirement leaves the cluster's work as the retirement left it. -/
theorem BecomesAt.settle {s v : State} {cl : Nat} {c : Cluster} (h : BecomesAt s v cl c) (hontime : OnTime s cl) (hstep : c.step = (s.cl cl).step) :
    ((v.settle cl).cl cl).work = c.work ∧ (∀ n, n ≠ cl → (v.settle cl).cl n = s.cl n) ∧ SameBut issueParts v (v.settle cl) := by
  obtain ⟨hwork, hothers, -, hsame⟩ := v.settle_spec cl (onTime_duty h.duty (by rw [h.here, hstep]) hontime)
  exact ⟨by rw [hwork, h.here], fun n hn => (hothers n hn).trans (h.others n hn), hsame⟩

theorem Cluster.tile_setTile (c : Cluster) (t : Nat) (x : Tile) : (c.setTile t x).tile t = x := sget_sset_same _ _ _ _
theorem Cluster.tile_setTile_other (c : Cluster) {t n : Nat} (x : Tile) (h : n ≠ t) : (c.setTile t x).tile n = c.tile n :=
  sget_sset_other _ _ _ _ _ h
theorem Cluster.slot_setSlot (c : Cluster) (t : Nat) (x : Slot) : (c.setSlot t x).slot t = x := sget_sset_same _ _ _ _

theorem Cluster.slot_setTile (c : Cluster) (t : Nat) (x : Tile) (n : Nat) : (c.setTile t x).slot n = c.slot n := rfl
theorem Cluster.tile_setSlot (c : Cluster) (t : Nat) (x : Slot) (n : Nat) : (c.setSlot t x).tile n = c.tile n := rfl

theorem Cluster.spillStore_spec (c : Cluster) (t : Nat) :
    (c.spillStore t false).slot t = { state := .stored, totalK := (c.tile t).runK, eref := (c.tile t).eref, runK := (c.tile t).runK, elems := (c.tile t).acc } ∧
    ((c.spillStore t false).tile t).base = .reserved := by
  unfold Cluster.spillStore
  dsimp only
  rw [Cluster.slot_setTile, Cluster.slot_setSlot, Cluster.tile_setTile]
  exact ⟨rfl, rfl⟩
theorem Cluster.spillAdd_spec (c : Cluster) (t : Nat) : ((c.spillAdd t).slot t).state = .accumulated ∧
    ((c.spillAdd t).slot t).elems = addImages (c.slot t).elems (c.tile t).acc ∧ ((c.spillAdd t).tile t).base = .idle := by
  unfold Cluster.spillAdd
  dsimp only
  rw [Cluster.slot_setTile, Cluster.slot_setSlot, Cluster.tile_setTile]
  exact ⟨rfl, rfl, rfl⟩
theorem Cluster.restore_spec (c : Cluster) (t : Nat) : (c.restore t).slot t = {} ∧
    (c.restore t).tile t = { base := .live, acc := (c.slot t).elems, eref := (c.slot t).eref, runK := (c.slot t).runK } := by
  unfold Cluster.restore
  dsimp only
  rw [Cluster.slot_setSlot, Cluster.tile_setSlot, Cluster.tile_setTile]
  exact ⟨rfl, rfl⟩

theorem Cluster.tile_of_work {c d : Cluster} (h : c.work = d.work) (n : Nat) : c.tile n = d.tile n := by
  have hwork := congrArg Cluster.tiles h
  have htiles : c.tiles = d.tiles := hwork
  unfold Cluster.tile
  rw [htiles]
theorem Cluster.slot_of_work {c d : Cluster} (h : c.work = d.work) (n : Nat) : c.slot n = d.slot n := by
  have hwork := congrArg Cluster.slots h
  have hslots : c.slots = d.slots := hwork
  unfold Cluster.slot
  rw [hslots]

/-! ### The sums of a pass (R80, R90) -/

/-- A row of a pass's sums added to the accumulators. -/
def Feed.addRow (f : Feed) (eref shift : Int) (i n kk : Nat) (r : List (Nat × Int) × Counts) : List (Nat × Int) × Counts :=
  (List.range n).foldl (fun r j =>
    let (x, c) := f.cell eref shift i j kk
    (supd 0 r.1 (128 * i + j) (· + x), r.2.add c)) r
/-- Each cell of the row has then its sum more, and every other cell is as it was. -/
theorem Feed.addRow_cell (f : Feed) (eref shift : Int) (i : Nat) {n : Nat} (kk : Nat) (r : List (Nat × Int) × Counts) (hn : n ≤ 128) (i' : Nat)
    {j : Nat} (hj : j < 128) : sget 0 (f.addRow eref shift i n kk r).1 (128 * i' + j) =
      sget 0 r.1 (128 * i' + j) + if i' = i ∧ j < n then (f.cell eref shift i' j kk).1 else 0 := by
  induction n with
  | zero => simp [Feed.addRow]
  | succ n ih =>
    have hlast : f.addRow eref shift i (n + 1) kk r =
        (supd 0 (f.addRow eref shift i n kk r).1 (128 * i + n) (· + (f.cell eref shift i n kk).1),
          (f.addRow eref shift i n kk r).2.add (f.cell eref shift i n kk).2) := by
      unfold Feed.addRow
      rw [List.range_succ, List.foldl_append]
      rfl
    rw [hlast]
    dsimp only
    by_cases hcell : i' = i ∧ j = n
    · obtain ⟨rfl, rfl⟩ := hcell
      rw [sget_supd_same, ih (by omega), if_neg (by omega), if_pos ⟨rfl, by omega⟩, add_zero]
    · rw [sget_supd_other 0 _ _ _ _ (by omega), ih (by omega)]
      have hiff : (i' = i ∧ j < n + 1) ↔ (i' = i ∧ j < n) := by omega
      simp only [hiff]
/-- Each valid cell has its sum more, and every other cell is as it was. -/
theorem Feed.sum_cell (f : Feed) (eref shift : Int) (m : Nat) {n : Nat} (kk : Nat) (acc : List (Nat × Int)) (hn : n ≤ 128) (i : Nat) {j : Nat}
    (hj : j < 128) : sget 0 (f.sum eref shift m n kk acc).1 (128 * i + j) =
      sget 0 acc (128 * i + j) + if i < m ∧ j < n ∧ f.row i = true then (f.cell eref shift i j kk).1 else 0 := by
  induction m with
  | zero => simp [Feed.sum]
  | succ m ih =>
    have hlast : f.sum eref shift (m + 1) n kk acc =
        if f.row m = true then f.addRow eref shift m n kk (f.sum eref shift m n kk acc) else f.sum eref shift m n kk acc := by
      unfold Feed.sum
      rw [List.range_succ, List.foldl_append]
      rfl
    rw [hlast]
    by_cases hrow : f.row m = true
    · rw [if_pos hrow, Feed.addRow_cell f eref shift m kk _ hn i hj, ih, add_assoc]
      by_cases him : i = m
      · subst him
        simp only [lt_self_iff_false, false_and, if_false, zero_add, true_and, Nat.lt_succ_self, hrow, and_true]
      · have hiff : i < m + 1 ↔ i < m := by omega
        simp only [him, false_and, if_false, add_zero, hiff]
    · rw [if_neg hrow, ih]
      by_cases him : i = m
      · subst him
        simp [hrow]
      · have hiff : i < m + 1 ↔ i < m := by omega
        simp only [hiff]

/-- The tile after a pass: live, with the pass's reference exponent and depth (R87). -/
theorem State.passTile_spec (s : State) (cl : Nat) (op : PassOp) : (s.passTile cl op).1.base = .live ∧ (s.passTile cl op).1.eref = iEref op.word ∧
    (s.passTile cl op).1.runK = (if iFresh op.word = true then op.k else ((s.cl cl).tile op.tile).runK + op.k) := ⟨rfl, rfl, rfl⟩
theorem State.passTile_cell (s : State) (cl : Nat) (op : PassOp) (hkind : op.kind ≠ .elemwise) (hn : op.nn ≤ 128) (i : Nat) {j : Nat} (hj : j < 128) :
    sget 0 (s.passTile cl op).1.acc (128 * i + j) =
      (if iFresh op.word = true then 0 else sget 0 ((s.cl cl).tile op.tile).acc (128 * i + j)) +
      if i < op.m ∧ j < op.nn ∧ (s.feedOf cl op).row i = true then ((s.feedOf cl op).cell (iEref op.word) (iShift op.word) i j op.k).1 else 0 := by
  have hacc : (s.passTile cl op).1.acc = ((s.feedOf cl op).sum (iEref op.word) (iShift op.word) op.m op.nn op.k
      (if iFresh op.word = true then [] else ((s.cl cl).tile op.tile).acc)).1 := by
    unfold State.passTile
    dsimp only
    rw [if_neg hkind]
  rw [hacc, Feed.sum_cell _ _ _ _ _ _ hn i hj]
  congr 1
  split <;> rfl

/-! ### Passes retire -/

/-- What a pass that is no known-answer pass does beside its tile is nothing to a cluster. -/
theorem State.passEffect_spec (s : State) (cl : Nat) (op : PassOp) : BecomesAt s (s.passEffect cl op) cl ((s.cl cl).setTile op.tile (s.passTile cl op).1) ∧
    SameBut [.log, .stats, .clusters, .host, .ctr, .out] s (s.passEffect cl op) := by
  refine ⟨?_, State.passEffect_touch (List.Subset.refl _) s cl op (Touch.refl _ s)⟩
  have hbump := (becomesAt_modCl s cl fun c => c.setTile op.tile (s.passTile cl op).1).of_same (sb_ctr _ kKSteps op.cycles) (by decide) (by decide)
  have hcounts := hbump.of_same (State.addCounts_same _ op.step (s.seqSrc cl) (iWatch op.word) (iFmtA op.word) (s.passTile cl op).2)
    (by decide) (by decide)
  unfold State.passEffect
  dsimp only
  split
  · exact hcounts.of_same (State.addHist_same _ _ _ _ _) (by decide) (by decide)
  · exact hcounts

/-- A pass at the head of the array leaves it: what is then of its cluster. -/
def State.passLeft (s : State) (cl : Nat) (op : PassOp) (rest : List PassOp) : State :=
  if op.kind = .kat then ((s.modCl cl fun c => { c with arrayQ := rest }).modCl cl fun c => c.katRun op.tile).bump kKSteps op.cycles
  else ((s.passEffect cl op).modCl cl fun c => { c with arrayQ := rest }).passRetired cl
/-- The cluster that a pass leaves. -/
def State.clusterLeft (s : State) (cl : Nat) (op : PassOp) (rest : List PassOp) : Cluster :=
  if op.kind = .kat then { s.cl cl with arrayQ := rest }.katRun op.tile
  else { (s.cl cl).setTile op.tile (s.passTile cl op).1 with arrayQ := rest, passCount := (s.cl cl).passCount + 1 }
theorem State.clusterLeft_kat {s : State} {op : PassOp} (h : op.kind = .kat) (cl : Nat) (rest : List PassOp) :
    s.clusterLeft cl op rest = { s.cl cl with arrayQ := rest }.katRun op.tile := if_pos h
theorem State.clusterLeft_sum {s : State} {op : PassOp} (h : op.kind ≠ .kat) (cl : Nat) (rest : List PassOp) : s.clusterLeft cl op rest =
    { (s.cl cl).setTile op.tile (s.passTile cl op).1 with arrayQ := rest, passCount := (s.cl cl).passCount + 1 } := if_neg h
theorem State.passLeft_spec (s : State) (cl : Nat) (op : PassOp) (rest : List PassOp) :
    BecomesAt s (s.passLeft cl op rest) cl (s.clusterLeft cl op rest) ∧ SameBut [.log, .stats, .clusters, .host, .ctr, .out] s (s.passLeft cl op rest) := by
  unfold State.passLeft State.clusterLeft
  split
  · have hkat := (becomesAt_modCl s cl fun c => { c with arrayQ := rest }).trans (becomesAt_modCl _ cl fun c => c.katRun op.tile)
    have hsame := ((sb_modCl s cl fun c => { c with arrayQ := rest }).trans (sb_modCl _ cl fun c => c.katRun op.tile)).trans (sb_ctr _ kKSteps op.cycles)
    refine ⟨?_, hsame.mono (by decide)⟩
    rw [cl_modCl] at hkat
    exact hkat.of_same (sb_ctr _ kKSteps op.cycles) (by decide) (by decide)
  · obtain ⟨heffect, hparts⟩ := s.passEffect_spec cl op
    have hpop := heffect.trans (becomesAt_modCl _ cl fun c => { c with arrayQ := rest })
    have hcount := (hpop.trans (becomesAt_modCl _ cl fun c => { c with passCount := c.passCount + 1 })).of_same (sb_ctr _ kPasses 1) (by decide) (by decide)
    have hsame := (hparts.trans (sb_modCl _ cl fun c => { c with arrayQ := rest })).trans
      (State.passRetired_touch (List.Subset.refl _) _ cl (Touch.refl _ _))
    refine ⟨?_, hsame.mono (by decide)⟩
    rw [cl_modCl, heffect.here] at hcount
    exact hcount
theorem State.clusterLeft_step (s : State) (cl : Nat) (op : PassOp) (rest : List PassOp) : (s.clusterLeft cl op rest).step = (s.cl cl).step := by
  unfold State.clusterLeft
  split <;> rfl
theorem State.clusterLeft_arrayQ (s : State) (cl : Nat) (op : PassOp) (rest : List PassOp) : (s.clusterLeft cl op rest).arrayQ = rest := by
  unfold State.clusterLeft
  split <;> rfl
theorem State.clusterLeft_tile_other (s : State) (cl : Nat) (op : PassOp) (rest : List PassOp) {n : Nat} (h : n ≠ op.tile) :
    (s.clusterLeft cl op rest).tile n = (s.cl cl).tile n := by
  unfold State.clusterLeft
  split
  · exact Cluster.tile_setTile_other _ _ h
  · exact Cluster.tile_setTile_other (s.cl cl) (s.passTile cl op).1 h

theorem exec_arrayPassComplete {s : State} {cl : Nat} {op : PassOp} {rest : List PassOp} (hqueue : (s.cl cl).arrayQ = op :: rest)
    (hclock : s.clocked cl = true) : exec (.arrayPassComplete cl []) s = .next
      (if (s.cl cl).held op = true then (s.modCl cl fun c => { c with stallCycles := c.stallCycles + 1 }).bump kStalls 1
       else (s.passLeft cl op rest).settle cl) := by
  show execArrayPassComplete cl [] s = _
  unfold execArrayPassComplete State.passLeft
  rw [hqueue]
  dsimp only
  rw [hclock, if_neg (by decide), show s.checked [] = (true, s) from rfl]
  dsimp only
  rw [if_neg (show ¬(!true) = true by decide)]
  by_cases hkat : op.kind = .kat
  · rw [if_pos hkat, if_pos hkat]
  · rw [if_neg hkat, if_neg hkat]

/-! ### Rows of a drain (R96, R166) -/

/-- The destination of a drain has taken row `i`. -/
def RowWritten (s t : State) (cl : Nat) (d : DrainOp) (i : Nat) : Prop :=
  BecomesAt s t cl { s.cl cl with
    drainIn := if dKind d.word = 1 then (s.cl cl).drainIn ++ [(s.cl cl).drainVector d i] else (s.cl cl).drainIn } ∧
  (dKind d.word = 1 → t.mem = s.mem) ∧
  (dKind d.word = 0 → t.mem = (s.drainLocal cl d i).mem)
/-- The rounded elements of a row are counted. -/
theorem State.rowCounted_same (v : State) (src step w f : Nat) (c : Counts) (vs : List ℚ) :
    SameBut countParts v ((v.addCounts src step w f c).addHist step w f vs) :=
  countParts_trans (State.addCounts_same v step src w f c) (State.addHist_same _ step w f vs)
theorem State.drainRow_written {s t : State} {cl i : Nat} {d : DrainOp} (h : s.drainRow cl d i = some t) : RowWritten s t cl d i := by
  unfold State.drainRow at h
  dsimp only at h
  split at h
  · next hkind =>
    obtain rfl := Option.some.inj h
    have hcounted := State.rowCounted_same (s.drainLocal cl d i) (s.seqSrc cl) d.step (iWatch d.word) (dFmt d.word) ((s.cl cl).drainCounts d i)
      (((List.range d.nn).filter fun j => d.kept i j).map fun j => (s.cl cl).drainVal d i j)
    have hlocal : SameBut [.log, .job, .banks, .host, .mem, .ctr, .out] s (s.drainLocal cl d i) :=
      State.drainLocal_touch (List.Subset.refl _) s cl d i (Touch.refl _ s)
    have hclusters := hlocal .clusters (by decide)
    refine ⟨?_, fun hone => absurd (hkind.symm.trans hone) (by decide), fun _ => hcounted .mem (by decide)⟩
    rw [if_neg (by rw [hkind]; decide)]
    exact BecomesAt.of_same ⟨cl_of hclusters cl, fun n _ => cl_of hclusters n, State.drainLocal_duty s cl d i⟩ hcounted (by decide) (by decide)
  · next hkind =>
    split at h
    · obtain rfl := Option.some.inj h
      have hcounted := State.rowCounted_same (s.modCl cl fun c => { c with drainIn := c.drainIn ++ [c.drainVector d i] }) (s.seqSrc cl) d.step
        (iWatch d.word) (dFmt d.word) ((s.cl cl).drainCounts d i) (((List.range d.nn).filter fun j => d.kept i j).map fun j => (s.cl cl).drainVal d i j)
      refine ⟨?_, fun _ => hcounted .mem (by decide), fun hzero => absurd (hkind.symm.trans hzero) (by decide)⟩
      rw [if_pos hkind]
      exact (becomesAt_modCl s cl fun c => { c with drainIn := c.drainIn ++ [c.drainVector d i] }).of_same hcounted (by decide) (by decide)
    · cases h
  · next hzero hone =>
    obtain rfl := Option.some.inj h
    have hcounted := State.rowCounted_same (s.drainGradient cl d i) (s.seqSrc cl) d.step (iWatch d.word) (dFmt d.word) ((s.cl cl).drainCounts d i)
      (((List.range d.nn).filter fun j => d.kept i j).map fun j => (s.cl cl).drainVal d i j)
    have hgradient : SameBut [.log, .upd, .skid, .out] s (s.drainGradient cl d i) :=
      State.drainGradient_touch (List.Subset.refl _) s cl d i (Touch.refl _ s)
    have hclusters := hgradient .clusters (by decide)
    refine ⟨?_, fun h => absurd h hone, fun h => absurd h hzero⟩
    rw [if_neg hone]
    exact BecomesAt.of_same ⟨cl_of hclusters cl, fun n _ => cl_of hclusters n, duty_of_touch hgradient (by decide)⟩ hcounted
      (by decide) (by decide)
/-- Only a full drain input takes no row. -/
theorem State.drainRow_eq_none {s : State} {cl i : Nat} {d : DrainOp} : s.drainRow cl d i = none ↔ dKind d.word = 1 ∧ 256 ≤ (s.cl cl).drainIn.length := by
  unfold State.drainRow
  dsimp only
  split
  · next hkind => simp [hkind]
  · next hkind =>
    split
    · next hroom => simp only [reduceCtorEq, false_iff, not_and, hkind, forall_const]; omega
    · next hfull => simp only [true_iff, hkind, true_and]; omega
  · next hzero hone => simp only [reduceCtorEq, false_iff, not_and]; exact fun h => absurd h hone

/-- The head of the drain path, with its row taken. -/
theorem State.drainOne_taken {s u : State} {cl : Nat} {d : DrainOp} {rest : List DrainOp} (hqueue : (s.cl cl).drainQ = d :: rest)
    (h : s.drainRow cl d d.row = some u) : s.drainOne cl d = u.rowTaken cl d ∧
      BecomesAt s (u.rowTaken cl d) cl { s.cl cl with
        drainIn := if dKind d.word = 1 then (s.cl cl).drainIn ++ [(s.cl cl).drainVector d d.row] else (s.cl cl).drainIn
        drainQ := { d with row := d.row + 1 } :: rest } := by
  obtain ⟨hbecomes, -, -⟩ := State.drainRow_written h
  refine ⟨by unfold State.drainOne; rw [h], ?_⟩
  have htaken := hbecomes.trans (becomesAt_modCl u cl fun c => { c with drainQ := { d with row := d.row + 1 } :: c.drainQ.drop 1 })
  rw [hbecomes.here, hqueue] at htaken
  exact htaken

/-! ### The rows that are left (R102, R152) -/

/-- A drain has written its remaining rows: its last row is behind it. -/
def RowsWritten (s t : State) (cl : Nat) (d : DrainOp) (rest : List DrainOp) : Prop :=
  (∃ rows row, d.m ≤ row ∧ BecomesAt s t cl { s.cl cl with drainIn := rows, drainQ := { d with row := row } :: rest }) ∧
  (dKind d.word = 1 → t.mem = s.mem) ∧
  (dKind d.word = 0 → d.m = d.row + 1 → t.mem = (s.drainLocal cl d d.row).mem)
/-- A drain with no row left writes none. -/
theorem State.drainRows_done {s : State} {cl : Nat} {d : DrainOp} {rest : List DrainOp} (hqueue : (s.cl cl).drainQ = d :: rest) (hdone : d.m ≤ d.row)
    (fuel : Nat) : s.drainRows cl fuel = s := by
  cases fuel with
  | zero => rfl
  | succ fuel =>
    unfold State.drainRows
    rw [hqueue]
    exact if_pos (Or.inl hdone)
theorem rowsWritten_done {s : State} {cl : Nat} {d : DrainOp} {rest : List DrainOp} (hqueue : (s.cl cl).drainQ = d :: rest) (hdone : d.m ≤ d.row) :
    RowsWritten s s cl d rest := by
  refine ⟨⟨(s.cl cl).drainIn, d.row, hdone, ?_, fun n _ => rfl, rfl⟩, fun _ => rfl, fun _ hlast => absurd hdone (by omega)⟩
  rw [← hqueue]
theorem State.drainRows_written (fuel : Nat) {s : State} {cl : Nat} {d : DrainOp} {rest : List DrainOp} (hqueue : (s.cl cl).drainQ = d :: rest)
    (hfuel : d.m - d.row ≤ fuel) (hroom : dKind d.word ≠ 1 ∨ (s.cl cl).drainIn.length + (d.m - d.row) ≤ 256) :
    RowsWritten s (s.drainRows cl fuel) cl d rest := by
  induction fuel generalizing s d with
  | zero =>
    rw [State.drainRows_done hqueue (by omega)]
    exact rowsWritten_done hqueue (by omega)
  | succ fuel ih =>
    by_cases hdone : d.m ≤ d.row
    · rw [State.drainRows_done hqueue hdone]
      exact rowsWritten_done hqueue hdone
    · have hsome : s.drainRow cl d d.row ≠ none := fun h => by
        obtain ⟨hkind, hfull⟩ := State.drainRow_eq_none.1 h
        rcases hroom with hroom | hroom
        · exact hroom hkind
        · omega
      obtain ⟨u, hu⟩ := Option.ne_none_iff_exists'.1 hsome
      obtain ⟨-, hinput, hlocal⟩ := State.drainRow_written hu
      obtain ⟨hone, htaken⟩ := State.drainOne_taken hqueue hu
      have hrows : s.drainRows cl (fuel + 1) = (u.rowTaken cl d).drainRows cl fuel := by
        rw [State.drainRows, hqueue]
        dsimp only
        rw [if_neg (by rw [hu]; simpa using hdone), hone]
      rw [hrows]
      have hqueue' : ((u.rowTaken cl d).cl cl).drainQ = { d with row := d.row + 1 } :: rest := by rw [htaken.here]
      have hroom' : dKind d.word ≠ 1 ∨ ((u.rowTaken cl d).cl cl).drainIn.length + (d.m - (d.row + 1)) ≤ 256 := by
        refine hroom.imp_right fun hroom => ?_
        rw [htaken.here]
        dsimp only
        split
        · rw [List.length_append, List.length_singleton]
          omega
        · omega
      obtain ⟨⟨rows, row, hrow, hbecomes⟩, hleftInput, -⟩ := ih (d := { d with row := d.row + 1 }) hqueue' (by dsimp only; omega) hroom'
      refine ⟨⟨rows, row, hrow, ?_⟩, fun hkind => (hleftInput hkind).trans (hinput hkind), fun hkind hlast => ?_⟩
      · have htrans := htaken.trans hbecomes
        rw [htaken.here] at htrans
        exact htrans
      · rw [State.drainRows_done hqueue' (by dsimp only; omega)]
        exact hlocal hkind

/-! ### The drain path retires its head -/

theorem Cluster.drainDone_step (c : Cluster) (d : DrainOp) : (c.drainDone d).step = c.step := by
  unfold Cluster.drainDone
  split <;> rfl
section
variable {c : Cluster} {d : DrainOp}
theorem Cluster.drainDone_spillStore (h : d.kind = .spillStore) : c.drainDone d = c.spillStore d.tile false := by unfold Cluster.drainDone; rw [h]
theorem Cluster.drainDone_spillAdd (h : d.kind = .spillAdd) : c.drainDone d = c.spillAdd d.tile := by unfold Cluster.drainDone; rw [h]
theorem Cluster.drainDone_restore (h : d.kind = .restore) : c.drainDone d = c.restore d.tile := by unfold Cluster.drainDone; rw [h]
theorem Cluster.drainDone_drainSlot (h : d.kind = .drainSlot) : c.drainDone d = c.setSlot d.tile {} := by unfold Cluster.drainDone; rw [h]
theorem Cluster.drainDone_katCheck (h : d.kind = .katCheck) :
    c.drainDone d = c.setTile d.tile { base := .idle, acc := [], eref := (c.tile d.tile).eref, runK := 0 } := by unfold Cluster.drainDone; rw [h]
/-- A drain reads its tile and leaves it. -/
theorem Cluster.drainDone_tile (h : d.sendsRows = true) (n : Nat) : (c.drainDone d).tile n = c.tile n := by
  unfold DrainOp.sendsRows at h
  rw [Bool.or_eq_true, decide_eq_true_iff, decide_eq_true_iff] at h
  unfold Cluster.drainDone
  rcases h with h | h <;> rw [h]
  rfl
end
theorem becomesAt_drainRetired {u : State} {cl : Nat} {d : DrainOp} {rest : List DrainOp} (hqueue : (u.cl cl).drainQ = d :: rest) :
    BecomesAt u (u.modCl cl fun c => { (c.drainDone d) with drainQ := c.drainQ.drop 1 }) cl { ((u.cl cl).drainDone d) with drainQ := rest } := by
  have hretired := becomesAt_modCl u cl fun c => { (c.drainDone d) with drainQ := c.drainQ.drop 1 }
  rw [hqueue] at hretired
  exact hretired
/-- The head of the drain path retires: the cluster's work is then what the operation leaves. -/
theorem State.drainRetire_spec {s u : State} {cl : Nat} {c : Cluster} {d : DrainOp} {rest : List DrainOp} (hu : BecomesAt s u cl c)
    (hontime : OnTime s cl) (hstep : c.step = (s.cl cl).step) (hqueue : c.drainQ = d :: rest) :
    let t := u.drainRetire cl d
    (t.cl cl).work = ({ (c.drainDone d) with drainQ := rest } : Cluster).work ∧ (∀ n, n ≠ cl → t.cl n = s.cl n) ∧ SameBut issueParts u t := by
  have hretired := hu.trans (becomesAt_drainRetired (u := u) (cl := cl) (by rw [hu.here]; exact hqueue))
  rw [hu.here] at hretired
  obtain ⟨hwork, hothers, hsame⟩ := hretired.settle hontime ((Cluster.drainDone_step c d).trans hstep)
  exact ⟨hwork, hothers, ((sb_modCl u cl _).trans hsame).mono (by decide)⟩

/-! ### The commands of the drain path -/

theorem DrainOp.sendsRows_iff (d : DrainOp) : d.sendsRows = true ↔ d.kind = .drain ∨ d.kind = .drainSlot := by
  unfold DrainOp.sendsRows
  rw [Bool.or_eq_true, decide_eq_true_iff, decide_eq_true_iff]
theorem exec_drainFence {s : State} {cl : Nat} {d : DrainOp} {rest : List DrainOp} (hqueue : (s.cl cl).drainQ = d :: rest)
    (hclock : s.clocked cl = true) (hfenced : d.fenced = false) : exec (.drainFence cl) s = .next
      (if d.kind ≠ .drainSlot ∧ (∃ o ∈ (s.cl cl).arrayQ, o.n ≤ d.n ∧ o.tile = d.tile) then s
       else if (d.kind = .drain ∨ d.kind = .drainSlot) ∧ d.writesNothing = true then s.drainRetire cl d
       else s.modCl cl fun c => { c with drainQ := { d with fenced := true } :: c.drainQ.drop 1 }) := by
  show execDrainFence cl s = _
  unfold execDrainFence
  rw [hqueue]
  simp only [hclock, hfenced, Bool.not_true, Bool.false_eq_true, false_or, List.any_eq_true, decide_eq_true_eq, DrainOp.sendsRows_iff]
theorem exec_drainRowWrite {s : State} {cl : Nat} {d : DrainOp} {rest : List DrainOp} (hqueue : (s.cl cl).drainQ = d :: rest)
    (hclock : s.clocked cl = true) (hfenced : d.fenced = true) (hrow : d.row + 1 < d.m) :
    (∀ col, exec (.drainRowWrite cl (some col) []) s = .next (s.residueFail cl d.tile d.row col)) ∧
    exec (.drainRowWrite cl none []) s = .next (if d.sendsRows = true then s.drainOne cl d else s.rowTaken cl d) := by
  have hgo : ¬(((!s.clocked cl) = true) ∨ ((!d.fenced) = true) ∨ d.m ≤ d.row + 1) := by
    rw [hclock, hfenced]
    simpa using hrow
  refine ⟨fun col => ?_, ?_⟩
  · show execDrainRowWrite cl (some col) [] s = _
    unfold execDrainRowWrite
    rw [hqueue]
    exact congrArg Host.Outcome.next (if_neg hgo)
  · show execDrainRowWrite cl none [] s = _
    unfold execDrainRowWrite
    rw [hqueue]
    exact congrArg Host.Outcome.next (if_neg hgo)
theorem exec_drainPathOpComplete {s : State} {cl : Nat} {d : DrainOp} {rest : List DrainOp} (hqueue : (s.cl cl).drainQ = d :: rest)
    (hclock : s.clocked cl = true) (hfenced : d.fenced = true) (hkind : d.kind ≠ .katCheck) : exec (.drainPathOpComplete cl []) s = .next
      (if d.sendsRows = true then
        match ((s.drainRows cl d.m).cl cl).drainQ with
        | [] => s.drainRows cl d.m
        | d' :: _ => if d'.m ≤ d'.row then (s.drainRows cl d.m).drainRetire cl d' else s.drainRows cl d.m
       else s.drainRetire cl d) := by
  have hgo : ¬(((!s.clocked cl) = true) ∨ ((!d.fenced) = true) ∨ d.kind = .katCheck) := by
    rw [hclock, hfenced]
    simpa using hkind
  show execDrainPathOpComplete cl [] s = _
  unfold execDrainPathOpComplete
  rw [hqueue]
  exact congrArg Host.Outcome.next (if_neg hgo)
/-- A spill, or a restore, retires. -/
theorem exec_drainPathOpComplete_move {s : State} {cl : Nat} {d : DrainOp} {rest : List DrainOp} (hqueue : (s.cl cl).drainQ = d :: rest)
    (hclock : s.clocked cl = true) (hfenced : d.fenced = true) (hkind : d.kind = .spillStore ∨ d.kind = .spillAdd ∨ d.kind = .restore) :
    exec (.drainPathOpComplete cl []) s = .next (s.drainRetire cl d) := by
  have hcheck : d.kind ≠ .katCheck := by rcases hkind with h | h | h <;> rw [h] <;> decide
  have hsends : ¬d.sendsRows = true := by rw [DrainOp.sendsRows_iff]; rcases hkind with h | h | h <;> rw [h] <;> decide
  rw [exec_drainPathOpComplete hqueue hclock hfenced hcheck, if_neg hsends]
/-- A drain writes the rows it has left, and retires. -/
theorem exec_drainPathOpComplete_rows {s : State} {cl : Nat} {d : DrainOp} {rest : List DrainOp} (hqueue : (s.cl cl).drainQ = d :: rest)
    (hclock : s.clocked cl = true) (hfenced : d.fenced = true) (hsends : d.sendsRows = true) {row : Nat} (hrow : d.m ≤ row)
    (hleft : ((s.drainRows cl d.m).cl cl).drainQ = { d with row := row } :: rest) :
    exec (.drainPathOpComplete cl []) s = .next ((s.drainRows cl d.m).drainRetire cl { d with row := row }) := by
  have hcheck : d.kind ≠ .katCheck := by rcases d.sendsRows_iff.1 hsends with h | h <;> rw [h] <;> decide
  rw [exec_drainPathOpComplete hqueue hclock hfenced hcheck, if_pos hsends, hleft]
  exact congrArg Host.Outcome.next (if_pos hrow)

/-- A cluster whose known-answer pass has been checked at plan time `mark`. -/
def Cluster.katChecked (c : Cluster) (mark : Nat) : Cluster :=
  { c with katNext := (c.katNext + 1) % 8, katCount := c.katCount + 1, katHold := false, katMark := mark }
/-- A known-answer check has found its signature: what is then of the cluster, but for the head of the drain path. -/
def State.katCounted (s : State) (cl : Nat) : State :=
  ((s.modCl cl fun c => c.katChecked (s.planNow - s.job.startBeat * 2 ^ 16)).bump kKats 1).passRetired cl
theorem State.katCounted_spec (s : State) (cl : Nat) :
    BecomesAt s (s.katCounted cl) cl { (s.cl cl).katChecked (s.planNow - s.job.startBeat * 2 ^ 16) with passCount := (s.cl cl).passCount + 1 } ∧
    SameBut [.clusters, .ctr] s (s.katCounted cl) := by
  have hchecked := becomesAt_modCl s cl fun c => c.katChecked (s.planNow - s.job.startBeat * 2 ^ 16)
  have hcounted := (hchecked.of_same (sb_ctr _ kKats 1) (by decide) (by decide)).trans
    (becomesAt_modCl _ cl fun c => { c with passCount := c.passCount + 1 })
  have hsame := ((sb_modCl s cl fun c => c.katChecked (s.planNow - s.job.startBeat * 2 ^ 16)).trans (sb_ctr _ kKats 1)).trans
    (State.passRetired_touch (List.Subset.refl _) _ cl (Touch.refl _ _))
  refine ⟨?_, hsame.mono (by decide)⟩
  rw [cl_bump, cl_modCl] at hcounted
  exact hcounted.of_same (sb_ctr _ kPasses 1) (by decide) (by decide)
theorem exec_katCheckComplete {s : State} {cl : Nat} {d : DrainOp} {rest : List DrainOp} (hqueue : (s.cl cl).drainQ = d :: rest)
    (hclock : s.clocked cl = true) (hfenced : d.fenced = true) (hkind : d.kind = .katCheck) (sig : Nat) : exec (.katCheckComplete cl sig none) s = .next
      (if sig ≠ Config.katSignature (s.cl cl).katNext then s.fault (s.seqSrc cl) 0x2200 (u8 (s.cl cl).katNext)
       else (s.katCounted cl).drainRetire cl d) := by
  have hgo : ¬(((!s.clocked cl) = true) ∨ ((!d.fenced) = true) ∨ d.kind ≠ .katCheck) := by
    rw [hclock, hfenced, hkind]
    decide
  show execKatCheckComplete cl sig none s = _
  unfold execKatCheckComplete
  rw [hqueue]
  exact congrArg Host.Outcome.next (if_neg hgo)

end Sys2Proof.Machine
end

section
open Sys2Proof Sys2Proof.Machine

variable {s : State} {cl : Nat}

/-- While its clock is stopped nothing of a cluster retires. -/
theorem stoppedArrayStandsStill (hclock : s.clocked cl = false) (sig : Nat) : ∀ c ∈ ([.arrayPassComplete cl [], .drainFence cl, .drainRowWrite cl none [],
    .drainPathOpComplete cl [], .katCheckComplete cl sig none] : List Instr), ∃ t, exec c s = .next t ∧ t = s := by
  have hnot : (!s.clocked cl) = true := by rw [hclock]; rfl
  simp only [List.mem_cons, List.not_mem_nil, or_false, forall_eq_or_imp, forall_eq]
  refine ⟨⟨s, ?_, rfl⟩, ⟨s, ?_, rfl⟩, ⟨s, ?_, rfl⟩, ⟨s, ?_, rfl⟩, ⟨s, ?_, rfl⟩⟩
  case refine_1 =>
    show execArrayPassComplete cl [] s = _
    unfold execArrayPassComplete
    split
    · rfl
    · exact congrArg Host.Outcome.next (if_pos hnot)
  case refine_2 =>
    show execDrainFence cl s = _
    unfold execDrainFence
    split
    · rfl
    · exact congrArg Host.Outcome.next (if_pos (Or.inl hnot))
  case refine_3 =>
    show execDrainRowWrite cl none [] s = _
    unfold execDrainRowWrite
    split
    · rfl
    · exact congrArg Host.Outcome.next (if_pos (Or.inl hnot))
  case refine_4 =>
    show execDrainPathOpComplete cl [] s = _
    unfold execDrainPathOpComplete
    split
    · rfl
    · exact congrArg Host.Outcome.next (if_pos (Or.inl hnot))
  case refine_5 =>
    show execKatCheckComplete cl sig none s = _
    unfold execKatCheckComplete
    split
    · rfl
    · exact congrArg Host.Outcome.next (if_pos (Or.inl hnot))

/-- The head pass retires with its sums. -/
theorem passRetires {op : PassOp} {rest : List PassOp} (hclock : s.clocked cl = true) (hontime : OnTime s cl) (hqueue : (s.cl cl).arrayQ = op :: rest)
    (hheld : (s.cl cl).held op = false) : ∃ t, exec (.arrayPassComplete cl []) s = .next t ∧ (t.cl cl).arrayQ = rest
        ∧ SameBut (.stats :: issueParts) s t ∧ (∀ n, n ≠ cl → t.cl n = s.cl n)
        ∧ (∀ n, n ≠ op.tile → (t.cl cl).tile n = (s.cl cl).tile n)
        ∧ (op.kind = .kat → (t.cl cl).tile op.tile = { (s.cl cl).tile op.tile with acc := [], runK := 0 }
            ∧ (t.cl cl).passCount = (s.cl cl).passCount ∧ (t.cl cl).drainQ = (s.cl cl).drainQ)
        ∧ (op.kind ≠ .kat → (t.cl cl).passCount = (s.cl cl).passCount + 1 ∧ ((t.cl cl).tile op.tile).base = .live
            ∧ ((t.cl cl).tile op.tile).eref = iEref op.word
            ∧ ((t.cl cl).tile op.tile).runK = (if iFresh op.word = true then op.k else ((s.cl cl).tile op.tile).runK + op.k))
        ∧ (op.kind = .matrix ∨ op.kind = .conv ∨ op.kind = .crop → op.nn ≤ 128 → ∀ i j, j < 128 →
            sget 0 ((t.cl cl).tile op.tile).acc (128 * i + j) =
              (if iFresh op.word = true then 0 else sget 0 ((s.cl cl).tile op.tile).acc (128 * i + j)) +
              if i < op.m ∧ j < op.nn ∧ (s.feedOf cl op).row i = true
              then ((s.feedOf cl op).cell (iEref op.word) (iShift op.word) i j op.k).1 else 0) := by
  have hexec := exec_arrayPassComplete hqueue hclock
  rw [if_neg (by rw [hheld]; decide)] at hexec
  obtain ⟨hleft, hparts⟩ := s.passLeft_spec cl op rest
  obtain ⟨hwork, hothers, hsettle⟩ := hleft.settle hontime (s.clusterLeft_step cl op rest)
  have htile : ∀ n, (((s.passLeft cl op rest).settle cl).cl cl).tile n = (s.clusterLeft cl op rest).tile n :=
    fun n => Cluster.tile_of_work hwork n
  have hcount := congrArg Cluster.passCount hwork
  have hsum : op.kind ≠ .kat → (((s.passLeft cl op rest).settle cl).cl cl).tile op.tile = (s.passTile cl op).1 := fun hkind => by
    rw [htile, State.clusterLeft_sum hkind]
    exact Cluster.tile_setTile (s.cl cl) op.tile (s.passTile cl op).1
  refine ⟨_, hexec, (congrArg Cluster.arrayQ hwork).trans (s.clusterLeft_arrayQ cl op rest), (hparts.trans hsettle).mono (by decide), hothers,
    fun n hn => (htile n).trans (s.clusterLeft_tile_other cl op rest hn), fun hkind => ⟨?_, ?_, ?_⟩, fun hkind => ⟨?_, ?_⟩, fun hkind hn i j hj => ?_⟩
  · rw [htile, State.clusterLeft_kat hkind]
    exact Cluster.tile_setTile _ _ _
  · refine hcount.trans ?_
    rw [State.clusterLeft_kat hkind]
    rfl
  · refine (congrArg Cluster.drainQ hwork).trans ?_
    rw [State.clusterLeft_kat hkind]
    rfl
  · refine hcount.trans ?_
    rw [State.clusterLeft_sum hkind]
    rfl
  · rw [hsum hkind]
    exact s.passTile_spec cl op
  · have helem : op.kind ≠ .elemwise := by rcases hkind with h | h | h <;> rw [h] <;> decide
    have hkat : op.kind ≠ .kat := by rcases hkind with h | h | h <;> rw [h] <;> decide
    rw [hsum hkat]
    exact s.passTile_cell cl op helem hn i hj

variable {d : DrainOp} {rest : List DrainOp}

/-- The head of the drain path begins. -/
theorem drainBegins (hclock : s.clocked cl = true) (hontime : OnTime s cl) (hqueue : (s.cl cl).drainQ = d :: rest) (hfenced : d.fenced = false) :
    ∃ t, exec (.drainFence cl) s = .next t ∧
        if d.kind ≠ .drainSlot ∧ (∃ o ∈ (s.cl cl).arrayQ, o.n ≤ d.n ∧ o.tile = d.tile) then t = s
        else SameBut issueParts s t ∧ (t.cl cl).drainQ =
          (if (d.kind = .drain ∨ d.kind = .drainSlot) ∧ d.writesNothing = true then rest else { d with fenced := true } :: rest) := by
  refine ⟨_, exec_drainFence hqueue hclock hfenced, ?_⟩
  split
  · rfl
  · split
    · obtain ⟨hwork, -, hsame⟩ := State.drainRetire_spec (BecomesAt.refl s cl) hontime rfl hqueue
      exact ⟨hsame, congrArg Cluster.drainQ hwork⟩
    · refine ⟨(sb_modCl s cl _).mono (by decide), ?_⟩
      rw [cl_modCl]
      dsimp only
      rw [hqueue]
      rfl

/-- The head of the drain path goes on by a row. -/
theorem drainRowIsTaken (hclock : s.clocked cl = true) (hqueue : (s.cl cl).drainQ = d :: rest) (hfenced : d.fenced = true) (hrow : d.row + 1 < d.m) :
    ∃ t, exec (.drainRowWrite cl none []) s = .next t ∧
          if d.sendsRows = true ∧ dKind d.word = 1 ∧ 256 ≤ (s.cl cl).drainIn.length then t = s
          else (t.cl cl).drainQ = { d with row := d.row + 1 } :: rest
            ∧ (d.sendsRows = true → dKind d.word = 1 → (t.cl cl).drainIn = (s.cl cl).drainIn ++ [(s.cl cl).drainVector d d.row] ∧ t.mem = s.mem)
            ∧ (d.sendsRows = true → dKind d.word = 0 → t.mem = (s.drainLocal cl d d.row).mem ∧ (t.cl cl).drainIn = (s.cl cl).drainIn)
            ∧ (d.sendsRows = false → t.mem = s.mem ∧ (t.cl cl).drainIn = (s.cl cl).drainIn) := by
  obtain ⟨-, hexec⟩ := exec_drainRowWrite hqueue hclock hfenced hrow
  refine ⟨_, hexec, ?_⟩
  by_cases hsends : d.sendsRows = true
  · rw [if_pos hsends]
    cases hu : s.drainRow cl d d.row with
    | none =>
      rw [if_pos ⟨hsends, State.drainRow_eq_none.1 hu⟩]
      unfold State.drainOne
      rw [hu]
    | some u =>
      have hnotfull : ¬(dKind d.word = 1 ∧ 256 ≤ (s.cl cl).drainIn.length) := fun h => by
        rw [State.drainRow_eq_none.2 h] at hu
        cases hu
      obtain ⟨-, hinput, hlocal⟩ := State.drainRow_written hu
      obtain ⟨hone, htaken⟩ := State.drainOne_taken hqueue hu
      rw [if_neg (fun h => hnotfull h.2), hone, htaken.here]
      exact ⟨rfl, fun _ hkind => ⟨if_pos hkind, hinput hkind⟩,
        fun _ hkind => ⟨hlocal hkind, if_neg (by rw [hkind]; decide)⟩, fun h => absurd (h.symm.trans hsends) (by decide)⟩
  · rw [if_neg hsends, if_neg (fun h => hsends h.1)]
    have hcl : (s.rowTaken cl d).cl cl = { s.cl cl with drainQ := { d with row := d.row + 1 } :: (s.cl cl).drainQ.drop 1 } := cl_modCl s cl _
    rw [hcl, hqueue]
    exact ⟨rfl, fun h => absurd h hsends, fun h => absurd h hsends, fun _ => ⟨rfl, rfl⟩⟩

/-- A spill or a restore retires with its effect on tile and slot. -/
theorem tileMoveRetires (hclock : s.clocked cl = true) (hontime : OnTime s cl) (hqueue : (s.cl cl).drainQ = d :: rest) (hfenced : d.fenced = true)
    (hkind : d.kind = .spillStore ∨ d.kind = .spillAdd ∨ d.kind = .restore) :
    ∃ t, exec (.drainPathOpComplete cl []) s = .next t ∧ SameBut issueParts s t ∧ (t.cl cl).drainQ = rest
          ∧ (d.kind = .spillStore → let x := (s.cl cl).tile d.tile
              (t.cl cl).slot d.tile = { state := .stored, totalK := x.runK, eref := x.eref, runK := x.runK, elems := x.acc }
              ∧ ((t.cl cl).tile d.tile).base = .reserved)
          ∧ (d.kind = .spillAdd → ((t.cl cl).slot d.tile).state = .accumulated
              ∧ ((t.cl cl).slot d.tile).elems = addImages ((s.cl cl).slot d.tile).elems ((s.cl cl).tile d.tile).acc
              ∧ ((t.cl cl).tile d.tile).base = .idle)
          ∧ (d.kind = .restore → let y := (s.cl cl).slot d.tile
              (t.cl cl).slot d.tile = {} ∧ (t.cl cl).tile d.tile = { base := .live, acc := y.elems, eref := y.eref, runK := y.runK }) := by
  obtain ⟨hwork, -, hsame⟩ := State.drainRetire_spec (BecomesAt.refl s cl) hontime rfl hqueue
  have htile : ∀ n, ((s.drainRetire cl d).cl cl).tile n = ((s.cl cl).drainDone d).tile n := fun n => Cluster.tile_of_work hwork n
  have hslot : ∀ n, ((s.drainRetire cl d).cl cl).slot n = ((s.cl cl).drainDone d).slot n := fun n => Cluster.slot_of_work hwork n
  refine ⟨_, exec_drainPathOpComplete_move hqueue hclock hfenced hkind, hsame, congrArg Cluster.drainQ hwork, fun h => ?_, fun h => ?_, fun h => ?_⟩
  · rw [htile, hslot, Cluster.drainDone_spillStore h]
    exact Cluster.spillStore_spec _ _
  · rw [htile, hslot, Cluster.drainDone_spillAdd h]
    exact Cluster.spillAdd_spec _ _
  · rw [htile, hslot, Cluster.drainDone_restore h]
    exact Cluster.restore_spec _ _

/-- A drain retires with its last row. -/
theorem drainRetires (hclock : s.clocked cl = true) (hontime : OnTime s cl) (hqueue : (s.cl cl).drainQ = d :: rest) (hfenced : d.fenced = true)
    (hsends : d.sendsRows = true) (hroom : dKind d.word ≠ 1 ∨ (s.cl cl).drainIn.length + (d.m - d.row) ≤ 256) :
    ∃ t, exec (.drainPathOpComplete cl []) s = .next t ∧ (t.cl cl).drainQ = rest ∧ (∀ n, n ≠ cl → t.cl n = s.cl n)
          ∧ (d.kind = .drainSlot → (t.cl cl).slot d.tile = {}) ∧ (∀ n, (t.cl cl).tile n = (s.cl cl).tile n)
          ∧ (dKind d.word = 1 → t.mem = s.mem)
          ∧ (dKind d.word = 0 → d.m = d.row + 1 → t.mem = (s.drainLocal cl d d.row).mem) := by
  obtain ⟨⟨rows, row, hrow, hbecomes⟩, hinput, hlocal⟩ := State.drainRows_written d.m hqueue (Nat.sub_le _ _) hroom
  obtain ⟨hwork, hothers, hsame⟩ := State.drainRetire_spec hbecomes hontime rfl rfl
  have hmem : ((s.drainRows cl d.m).drainRetire cl { d with row := row }).mem = (s.drainRows cl d.m).mem := hsame .mem (by decide)
  refine ⟨_, exec_drainPathOpComplete_rows hqueue hclock hfenced hsends hrow (by rw [hbecomes.here]), congrArg Cluster.drainQ hwork, hothers,
    fun hkind => ?_, fun n => ?_, fun hkind => hmem.trans (hinput hkind), fun hkind hlast => hmem.trans (hlocal hkind hlast)⟩
  · refine (Cluster.slot_of_work hwork d.tile).trans ?_
    rw [Cluster.drainDone_drainSlot (d := { d with row := row }) hkind]
    exact Cluster.slot_setSlot (s.cl cl) d.tile {}
  · exact (Cluster.tile_of_work hwork n).trans (Cluster.drainDone_tile (d := { d with row := row }) hsends n)

/-- A known-answer check retires, or finds a wrong signature. -/
theorem katCheckCompletes (hclock : s.clocked cl = true) (hontime : OnTime s cl) (hqueue : (s.cl cl).drainQ = d :: rest) (hfenced : d.fenced = true)
    (hkind : d.kind = .katCheck) (sig : Nat) : ∃ t, exec (.katCheckComplete cl sig none) s = .next t ∧ t.mem = s.mem ∧
        if sig = Config.katSignature (s.cl cl).katNext then (t.cl cl).drainQ = rest ∧ (t.cl cl).katCount = (s.cl cl).katCount + 1
          ∧ (t.cl cl).katNext = ((s.cl cl).katNext + 1) % 8 ∧ (t.cl cl).katHold = false
          ∧ (t.cl cl).tile d.tile = { eref := ((s.cl cl).tile d.tile).eref } ∧ SameBut issueParts s t
        else Faulted t (s.seqSrc cl) 0x2200 ∧ t.safe.latch = true := by
  refine ⟨_, exec_katCheckComplete hqueue hclock hfenced hkind sig, ?_⟩
  by_cases hsig : sig = Config.katSignature (s.cl cl).katNext
  · rw [if_neg (not_not.2 hsig), if_pos hsig]
    obtain ⟨hcounted, hparts⟩ := s.katCounted_spec cl
    obtain ⟨hwork, -, hsame⟩ := State.drainRetire_spec (rest := rest) hcounted hontime rfl hqueue
    rw [Cluster.drainDone_katCheck hkind] at hwork
    refine ⟨(hsame .mem (by decide)).trans (hparts .mem (by decide)), congrArg Cluster.drainQ hwork, ?_, ?_, ?_, ?_, (hparts.trans hsame).mono (by decide)⟩
    · exact congrArg Cluster.katCount hwork
    · exact congrArg Cluster.katNext hwork
    · exact congrArg Cluster.katHold hwork
    · exact (Cluster.tile_of_work hwork d.tile).trans (Cluster.tile_setTile (s.cl cl) d.tile _)
  · rw [if_pos hsig, if_neg hsig]
    obtain ⟨hfaulted, hlatch, -⟩ := s.fault_spec (s.seqSrc cl) 0x2200 (u8 (s.cl cl).katNext)
    exact ⟨by simp, hfaulted, hlatch⟩

end

section
open Sys2Proof Sys2Proof.Machine

/-- Settles O43: each command retires the head of its queue with the effect that the operation has on its tile, slot and rows. -/
theorem queuedArrayWorkRetires : Obligations.QueuedArrayWorkRetires := by
  unfold Obligations.QueuedArrayWorkRetires
  intro s cl
  refine ⟨fun hclock sig => stoppedArrayStandsStill hclock sig, fun hclock hontime op rest hqueue => ⟨fun hheld => ?_, passRetires hclock hontime hqueue⟩,
    fun hclock hontime d rest hqueue => ⟨drainBegins hclock hontime hqueue, fun hfenced hrow => ⟨fun col => ?_, drainRowIsTaken hclock hqueue hfenced hrow⟩,
      tileMoveRetires hclock hontime hqueue, drainRetires hclock hontime hqueue, katCheckCompletes hclock hontime hqueue⟩,
    fun p hplan hstate hstream => ?_, fun hpaused hpass hstream harray hdrain hspilled => ?_⟩
  · have hexec := exec_arrayPassComplete hqueue hclock
    rw [if_pos hheld] at hexec
    exact ⟨_, hexec, ((sb_modCl s cl _).trans (sb_ctr _ kStalls 1)).mono (by decide), by rw [cl_bump, cl_modCl]⟩
  · obtain ⟨hexec, -⟩ := exec_drainRowWrite hqueue hclock hfenced hrow
    obtain ⟨hfaulted, -, hmem⟩ := s.residueFail_spec cl d.tile d.row col
    exact ⟨_, hexec col, hfaulted, hmem⟩
  · have hexec : exec (.katMissed cl) s = .next (if p.katPeriod * 2 ^ 16 < s.katGap cl then s.fault (s.seqSrc cl) 0x2201 else s) := by
      show execKatMissed cl s = _
      unfold execKatMissed
      rw [hplan]
      simp only [hstate, hstream, true_and]
    refine ⟨_, hexec, ?_⟩
    split
    · obtain ⟨hfaulted, hlatch, -⟩ := s.fault_spec (s.seqSrc cl) 0x2201 []
      exact ⟨hfaulted, hlatch, by simp⟩
    · rfl
  · have hexec : exec (.clusterPauseSpill cl) s = .next _ := congrArg Host.Outcome.next (if_pos ⟨hpaused, hpass, hstream, hspilled, harray, hdrain⟩)
    exact ⟨_, hexec, sb_modCl s cl _, cl_modCl s cl _⟩
end

section
/-! SUPPORT and PROOFS. Vector operations queue at issue and retire (R152, R156, R157, R169, R170, R215, R220). -/

namespace Sys2Proof.Machine

/-! ### Issue -/

/-- The operation that an instruction makes is read from its cluster's bounds and its place in the issue order. -/
theorem State.vecOpOf_of {s u : State} {cl : Nat} (hu : ∃ i sg n, u.cl cl = { s.cl cl with index := i, sig := sg, issued := n }) (f : Fetched) :
    u.vecOpOf cl f = s.vecOpOf cl f := by
  obtain ⟨i, sg, n, hcl⟩ := hu
  rw [State.vecOpOf, hcl, State.vecOpOf]
  rfl
theorem State.vecCheck_sign {s : State} {cl : Nat} {f : Fetched} (h : Issues s cl f) : (s.sign cl f).vecCheck cl f = s.vecCheck cl f := by
  obtain ⟨g, hg⟩ := State.sign_cl h
  have hop : (s.sign cl f).vecOpOf cl f = s.vecOpOf cl f := by
    rw [State.vecOpOf, hg, State.vecOpOf]
    rfl
  rw [State.vecCheck, hop, State.vecCheck]

/-- What a vector operation makes of its cluster at issue: one of zero extents retires (R157). -/
def Cluster.vecTaken (c : Cluster) (op : VecOp) (f : Fetched) : Cluster :=
  if op.rows = 0 ∨ (iClass f.word = 9 ∧ (op.len = 0 ∨ tkK f.word = 0)) then { c with vuOps := c.vuOps + 1 }
  else { c with issueNo := c.issueNo + 1, vecQ := c.vecQ ++ [op], vuStopped := false }
theorem unplaced_vecTaken (op : VecOp) (f : Fetched) : Unplaced fun c => c.vecTaken op f := by
  intro c i sg n
  unfold Cluster.vecTaken
  split <;> exact ⟨rfl, rfl⟩
theorem actsAs_vecIssue (u : State) (cl : Nat) (f : Fetched) : ActsAs u (u.vecIssue cl f) cl (fun c => c.vecTaken (u.vecOpOf cl f) f) := by
  unfold State.vecIssue Cluster.vecTaken
  dsimp only
  split
  · exact (actsAs_modCl u cl fun c => { c with vuOps := c.vuOps + 1 }).trans (actsAs_bump _ cl kVuOps 1 (by decide))
  · have hact := (actsAs_modCl u cl fun c => { c with issueNo := c.issueNo + 1 }).trans
      (actsAs_modCl _ cl fun c => { c with vecQ := c.vecQ ++ [u.vecOpOf cl f], vuStopped := false })
    exact ⟨hact.here, hact.others, hact.issued, hact.duty⟩

/-- A vector operation that its command selects and no check refuses takes its place. -/
theorem State.issue_vector {s : State} {cl : Nat} {f : Fetched} (h : Issues s cl f) (hontime : OnTime s cl) {sel : State → Nat → Bool}
    (hsel : sel s f.word = true) (hcheck : s.vecCheck cl f = .ok) :
    ∃ t, s.issue cl sel (fun s f => s.vecCheck cl f) (fun s f => s.vecIssue cl f) = t ∧ SameBut issueParts s t ∧
      Issued s t cl ((s.cl cl).vecTaken (s.vecOpOf cl f) f) := by
  have hact := actsAs_vecIssue ((s.sign cl f).step1 cl) cl f
  rw [State.vecOpOf_of (State.step1_cl h) f] at hact
  obtain ⟨t, ht, hparts, hissued⟩ := State.issue_acts (check := fun s f => s.vecCheck cl f) (act := fun s f => s.vecIssue cl f) h hontime hsel
    ((State.vecCheck_sign h).trans hcheck) (unplaced_vecTaken _ f) hact (State.vecIssue_touch (List.Subset.refl _) _ cl f (Touch.refl _ _))
  exact ⟨t, ht, hparts.mono (by decide), hissued⟩

/-- Each command of a `VECTOR` operation but `COPY` issues the operation of its code. -/
theorem exec_vectorOps (cl : Nat) : ∀ p ∈ (vectorOps cl).tail, ∀ s, exec p.2 s = .next (vectorCommand p.1 cl s) := by
  simp only [vectorOps, List.tail_cons, List.forall_mem_cons, List.not_mem_nil, false_implies, implies_true, and_true]
  and_intros <;> exact fun s => rfl
/-- The command of a defined operation in a defined mode issues it. -/
theorem vectorOps_issue {s : State} {cl : Nat} {f : Fetched} {i : Instr} (h : Issues s cl f) (hontime : OnTime s cl) (hcheck : s.vecCheck cl f = .ok)
    (hclass : iClass f.word = 8) (hmode : vMode f.word ≠ 3) (hop : (vOp f.word, i) ∈ vectorOps cl) :
    ∃ t, exec i s = .next t ∧ SameBut issueParts s t ∧ Issued s t cl ((s.cl cl).vecTaken (s.vecOpOf cl f) f) := by
  rcases List.mem_cons.1 (show (vOp f.word, i) ∈ (0x00, .copy cl) :: (vectorOps cl).tail from hop) with hcopy | htail
  · obtain ⟨hcode, rfl⟩ := Prod.mk.inj hcopy
    obtain ⟨t, ht, hsame, hissued⟩ := State.issue_vector h hontime
      (sel := fun _ w => iClass w = 8 ∧ (vOp w = 0 ∨ vMode w = 3 ∨ !vuListed (vOp w))) (by simp [hclass, hcode]) hcheck
    exact ⟨t, congrArg Host.Outcome.next ht, hsame, hissued⟩
  · obtain ⟨t, ht, hsame, hissued⟩ := State.issue_vector h hontime
      (sel := fun _ w => iClass w = 8 ∧ vOp w = vOp f.word ∧ vMode w ≠ 3) (by simp [hclass, hmode]) hcheck
    exact ⟨t, (exec_vectorOps cl _ htail s).trans (congrArg Host.Outcome.next ht), hsame, hissued⟩
theorem topk_issue {s : State} {cl : Nat} {f : Fetched} (h : Issues s cl f) (hontime : OnTime s cl) (hcheck : s.vecCheck cl f = .ok)
    (hclass : iClass f.word = 9) :
    ∃ t, exec (.topk cl) s = .next t ∧ SameBut issueParts s t ∧ Issued s t cl ((s.cl cl).vecTaken (s.vecOpOf cl f) f) := by
  obtain ⟨t, ht, hsame, hissued⟩ := State.issue_vector h hontime (sel := fun _ w => iClass w = 9) (decide_eq_true hclass) hcheck
  exact ⟨t, congrArg Host.Outcome.next ht, hsame, hissued⟩

/-! ### Running the queue -/

/-- An operation with no row left takes none. -/
theorem State.runVector_done {s : State} {cl : Nat} {op : VecOp} {rest : List VecOp} (hq : (s.cl cl).vecQ = op :: rest) (hdone : op.rows ≤ op.row)
    (fuel : Nat) : s.runVector cl fuel = s := by
  cases fuel with
  | zero => rfl
  | succ fuel =>
    unfold State.runVector
    rw [hq]
    exact if_pos hdone
theorem Cluster.starved_done (c : Cluster) {op : VecOp} (hdone : op.rows ≤ op.row) : c.starved op = false := by
  unfold Cluster.starved
  rw [decide_eq_false (fun h => absurd h.1 (Nat.not_lt.2 hdone)), Bool.and_false]
theorem exec_vectorOpComplete_stopped {s : State} {cl : Nat} {op : VecOp} {rest : List VecOp} (hq : (s.cl cl).vecQ = op :: rest)
    (hclock : s.clocked cl = false) : exec (.vectorOpComplete cl []) s = .next s := by
  show execVectorOpComplete cl [] s = _
  unfold execVectorOpComplete
  rw [hq]
  exact congrArg Host.Outcome.next (if_pos (by rw [hclock]; rfl))
theorem exec_vectorOpComplete_starved {s : State} {cl : Nat} {op : VecOp} {rest : List VecOp} (hq : (s.cl cl).vecQ = op :: rest)
    (hclock : s.clocked cl = true) (hstarved : (s.cl cl).starved op = true) : exec (.vectorOpComplete cl []) s =
      .next ((s.modCl cl fun c => { c with vuStarve := c.vuStarve + 1 }).bump kVuStarve 1) := by
  show execVectorOpComplete cl [] s = _
  unfold execVectorOpComplete
  rw [hq]
  exact congrArg Host.Outcome.next ((if_neg (by rw [hclock]; decide)).trans (if_pos hstarved))

end Sys2Proof.Machine
end

section
open Sys2Proof Sys2Proof.Machine

/-- Settles O44: every command of the vector unit issues by the same action; the head of the queue starves, or retires once it has no
row left. -/
theorem vectorOperationsQueueAndRetire : Obligations.VectorOperationsQueueAndRetire := by
  unfold Obligations.VectorOperationsQueueAndRetire
  refine ⟨fun s cl f i h hontime hcheck hi => ?_, fun s cl op rest hq => ⟨fun hclock => ⟨s, exec_vectorOpComplete_stopped hq hclock, rfl⟩,
    fun hclock hstarved => ?_, fun hclock hontime hdone => ?_⟩⟩
  · have hissue : ∃ t, exec i s = .next t ∧ SameBut issueParts s t ∧ Issued s t cl ((s.cl cl).vecTaken (s.vecOpOf cl f) f) := by
      rcases hi with ⟨hclass, hmode, hop⟩ | ⟨hclass, rfl⟩
      · exact vectorOps_issue h hontime hcheck hclass hmode hop
      · exact topk_issue h hontime hcheck hclass
    obtain ⟨t, ht, hsame, hissued⟩ := hissue
    refine ⟨t, ht, hsame, ?_⟩
    unfold Cluster.vecTaken at hissued
    split
    · next hempty => rwa [if_pos hempty] at hissued
    · next hrows => rwa [if_neg hrows] at hissued
  · exact ⟨_, exec_vectorOpComplete_starved hq hclock hstarved, by rw [cl_bump, cl_modCl], ((sb_modCl s cl _).trans (sb_ctr _ _ _)).mono (by decide)⟩
  · exact ⟨_, execVectorOpComplete_of_run hq hclock ((s.cl cl).starved_done hdone) (State.runVector_done hq hdone op.rows) hq hdone,
      State.retireVec_spec hontime rest⟩
end

section
/-! SUPPORT. What follows a retirement puts nothing on the fault history; what a straggle keeps; the queue of a cluster's DMA engine
(R72, R152, R153, R275, R385, R552). -/

namespace Sys2Proof.Machine

/-! ### What follows a retirement is no fault -/

theorem State.event_history (s : State) (src code : Nat) (d : Bytes) : (s.event src code d).log.history = s.log.history := s.eventAfter_history _ _ _ _
theorem State.addCounts_history (s : State) (src step w f : Nat) (c : Counts) : (s.addCounts src step w f c).log.history = s.log.history := by
  unfold State.addCounts State.raiseFlag
  dsimp only
  split
  · rfl
  · split
    · exact State.event_history _ _ _ _
    · rfl
theorem State.passEffect_history (s : State) (cl : Nat) (op : PassOp) : (s.passEffect cl op).log.history = s.log.history := by
  unfold State.passEffect
  dsimp only
  split
  · exact (congrArg Log.history ((State.addHist_touch (List.Subset.refl _) _ _ _ _ _ (Touch.refl _ _)) .log (by decide))).trans
      (State.addCounts_history _ _ _ _ _ _)
  · exact State.addCounts_history _ _ _ _ _ _
theorem State.finishPass_history (s : State) (cl : Nat) : (s.finishPass cl).log.history = s.log.history := by
  unfold State.finishPass
  split
  · rfl
  · split
    · rfl
    · exact State.passEffect_history s cl _
theorem State.abandonCl_history (s : State) (k cl : Nat) : (s.abandonCl k cl).log.history = s.log.history := by
  unfold State.abandonCl
  split
  · rfl
  · dsimp only
    split
    · exact (State.event_history _ _ _ _).trans (State.finishPass_history s cl)
    · rfl
theorem State.nextPass_history (s : State) (cl : Nat) : (s.nextPass cl).log.history = s.log.history := by
  unfold State.nextPass
  dsimp only
  split
  · rfl
  · exact State.event_history _ _ _ _
theorem State.wrap_history (s : State) (cl : Nat) : (s.wrap cl).log.history = s.log.history := by
  unfold State.wrap
  split
  · rfl
  · dsimp only
    split
    · show (if ((s.nextPass cl).stepRec ((s.nextPass cl).clStep cl)).straggles = true then (s.nextPass cl).abandonCl ((s.nextPass cl).clStep cl) cl
        else s.nextPass cl).log.history = _
      split
      · exact (State.abandonCl_history _ _ _).trans (s.nextPass_history cl)
      · exact s.nextPass_history cl
    · rfl
theorem State.signal_history (s : State) (src id inc step : Nat) : (s.signal src id inc step).log.history = s.log.history := by
  unfold State.signal
  dsimp only
  split
  · split
    · exact congrArg Prod.fst (scars_of (State.sendOn_recorded s _ _ _ _ _ _))
    · exact State.event_history _ _ _ _
  · rfl
theorem State.giveSignals_history (s : State) (cl : Nat) : (s.giveSignals cl).log.history = s.log.history := by
  unfold State.giveSignals
  refine (foldl_same (fun s : State => s.log.history) _ _ _ fun u g => ?_).trans rfl
  split
  · rfl
  · exact State.signal_history _ _ _ _ _
theorem State.settle_history (s : State) (cl : Nat) : (s.settle cl).log.history = s.log.history :=
  (State.wrap_history _ cl).trans (State.giveSignals_history s cl)
/-- What follows a fault leaves its record the newest, and the latch as it is. -/
theorem Faulted.settle {s : State} {src code : Nat} (h : Faulted s src code) (cl : Nat) : Faulted (s.settle cl) src code := by
  unfold Faulted at h ⊢
  rw [State.settle_history]
  exact h
/-- The parts that what follows a retirement may change, whatever the next step of the module (R72). -/
def settleParts : List Part := [.log, .stats, .clusters, .skid, .sync, .host, .ctr, .out]
theorem State.settle_sameBut (s : State) (cl : Nat) : SameBut settleParts s (s.settle cl) :=
  State.settle_touch (List.Subset.refl _) s cl (Touch.refl _ s)

/-! ### A straggle releases the stash and leaves it suppressed (R275, R276) -/

theorem State.straggle_suppressed (s : State) (k : Nat) : (s.straggle k).stash.suppressed = s.stash.suppressed := by
  have abandoned (l : List Nat) (t : State) : (l.foldl (fun s cl => s.abandonCl k cl) t).stash = t.stash :=
    foldl_same State.stash _ _ _ fun s cl => State.abandonCl_touch (List.Subset.refl _) s k cl (Touch.refl _ s) .stash (by decide)
  have receipted (t : State) : (t.laterReceipts k 4 0).stash = t.stash :=
    State.laterReceipts_touch (List.Subset.refl _) t k 4 0 (Touch.refl _ t) .stash (by decide)
  have flushed (t : State) : t.flushWithdrawals.stash = t.stash :=
    State.flushWithdrawals_touch (List.Subset.refl _) t (Touch.refl _ t) .stash (by decide)
  have told (t : State) : (t.event wardenSrc 0x2112).stash = t.stash :=
    State.event_touch (List.Subset.refl _) t _ _ _ (Touch.refl _ t) .stash (by decide)
  unfold State.straggle
  split
  · rfl
  · dsimp only
    rw [abandoned]
    show (State.laterReceipts _ k 4 0).stash.suppressed = _
    rw [receipted, flushed]
    exact congrArg Stash.suppressed (told _)

/-! ### The queue of a cluster's DMA engine (R153) -/

/-- The operation that an instruction puts into its cluster's queue. -/
def Cluster.dmaOp (c : Cluster) (f : Fetched) (kind : DmaKind) (rows : Nat) : DmaOp :=
  { n := c.issueNo, kind := kind, desc := dmaIndex f.word, rows := rows, step := f.step, idx := f.idx }
def Cluster.dmaQueued (c : Cluster) (f : Fetched) (kind : DmaKind) (rows : Nat) : Cluster :=
  { c with issueNo := c.issueNo + 1, dmaQ := c.dmaQ ++ [c.dmaOp f kind rows] }
/-- The operation is in the queue, and has not begun. -/
def State.dmaPlaced (s : State) (cl : Nat) (f : Fetched) (kind : DmaKind) (rows : Nat) : State :=
  (s.place cl).2.modCl cl fun c => { c with dmaQ := c.dmaQ ++ [(s.cl cl).dmaOp f kind rows] }
theorem unplaced_dmaQueued (f : Fetched) (kind : DmaKind) (rows : Nat) : Unplaced fun c => c.dmaQueued f kind rows := fun _ _ _ _ => ⟨rfl, rfl⟩
theorem actsAs_dmaPlaced (s : State) (cl : Nat) (f : Fetched) (kind : DmaKind) (rows : Nat) :
    ActsAs s (s.dmaPlaced cl f kind rows) cl (fun c => c.dmaQueued f kind rows) := by
  have hact := (actsAs_modCl s cl fun c => { c with issueNo := c.issueNo + 1 }).trans
    (actsAs_modCl _ cl fun c => { c with dmaQ := c.dmaQ ++ [(s.cl cl).dmaOp f kind rows] })
  exact ⟨hact.here, hact.others, hact.issued, hact.duty⟩
theorem State.dmaPlaced_same (s : State) (cl : Nat) (f : Fetched) (kind : DmaKind) (rows : Nat) : SameBut [.clusters] s (s.dmaPlaced cl f kind rows) :=
  ((sb_modCl s cl fun c => { c with issueNo := c.issueNo + 1 }).trans
    (sb_modCl _ cl fun c => { c with dmaQ := c.dmaQ ++ [(s.cl cl).dmaOp f kind rows] })).mono (by decide)
theorem State.dmaPlaced_cl (s : State) (cl : Nat) (f : Fetched) (kind : DmaKind) (rows : Nat) :
    (s.dmaPlaced cl f kind rows).cl cl = (s.cl cl).dmaQueued f kind rows := (actsAs_dmaPlaced s cl f kind rows).here
theorem State.dmaPut_behind {s : State} {cl : Nat} (h : (s.cl cl).dmaQ ≠ []) (f : Fetched) (kind : DmaKind) (rows : Nat) (checks : List MemCheck) :
    s.dmaPut cl f kind rows checks = s.dmaPlaced cl f kind rows := if_neg (by simpa using h)
theorem State.dmaPut_first {s : State} {cl : Nat} (h : (s.cl cl).dmaQ = []) (f : Fetched) (kind : DmaKind) (rows : Nat) (checks : List MemCheck) :
    s.dmaPut cl f kind rows checks = (s.dmaPlaced cl f kind rows).dmaBegin cl checks := if_pos (by rw [h]; rfl)

section
variable {s : State} {cl : Nat} {op : DmaOp} {rest : List DmaOp} {d : Bytes}

/-- A local transfer and a limber job wait at the head. -/
theorem State.dmaBegin_waits (hqueue : (s.cl cl).dmaQ = op :: rest) (hdesc : s.desc op.desc = some d)
    (hwaits : op.kind = .limber ∨ (op.kind = .transfer ∧ ddLocal d = true)) (checks : List MemCheck) : s.dmaBegin cl checks = s := by
  unfold State.dmaBegin
  rw [hqueue]
  dsimp only
  rw [hdesc]
  exact if_pos (by rcases hwaits with h | ⟨h, hlocal⟩ <;> simp [*])

/-- The queue of the cluster, with its head sent. -/
def Cluster.headSent (c : Cluster) (op : DmaOp) (rest : List DmaOp) (x : Nat) : Cluster := { c with dmaQ := { op with done := true, transfer := x } :: rest }
theorem State.sendTransfer_duty (s : State) (cl step : Nat) (d : Bytes) (rows xfer : Nat) : (s.sendTransfer cl step d rows xfer).duty = s.duty := by
  have written (u : State) (addr total : Nat) (body : Bytes) : (u.sendWrite cl d addr total xfer body).duty = u.duty :=
    duty_of_touch (State.sendWrite_touch (List.Subset.refl _) u cl d addr total xfer body (Touch.refl _ u)) (by decide)
  unfold State.sendTransfer
  split
  · exact written _ _ _ _
  · refine foldl_duty _ _ _ fun u r => ?_
    refine Eq.trans ?_ (State.mapRead_duty u (some cl) (ddSrc d + r * ddSrcPitch d) (ddRowBytes d) step)
    generalize u.mapRead (some cl) (ddSrc d + r * ddSrcPitch d) (ddRowBytes d) step = p
    obtain ⟨bs, v⟩ := p
    dsimp only
    generalize bodies (bs.length / 65536 + 1) bs = l
    generalize ddDst d + r * ddDstPitch d = a
    induction l generalizing a v with
    | nil => rfl
    | cons b l ih => exact (ih _ _).trans (written _ _ _ _)
/-- A transfer to a peer that has come to the head is sent. -/
theorem State.dmaBegin_sends (hqueue : (s.cl cl).dmaQ = op :: rest) (hdesc : s.desc op.desc = some d) (hkind : op.kind = .transfer)
    (hremote : ddLocal d = false) (hdone : op.done = false) :
    BecomesAt s (s.dmaBegin cl []) cl ((s.cl cl).headSent op rest s.net.nextXfer) ∧
      (s.dmaBegin cl []).net.nextXfer = (s.net.nextXfer + 1) % 2 ^ 32 ∧ (s.dmaBegin cl []).mem = s.mem := by
  have hsends : s.dmaBegin cl [] = (({ s with net := { s.net with nextXfer := (s.net.nextXfer + 1) % 2 ^ 32 } } : State).putHead cl
      { op with done := true, transfer := s.net.nextXfer } rest).sendTransfer cl op.step d op.rows s.net.nextXfer := by
    unfold State.dmaBegin
    rw [hqueue]
    dsimp only
    rw [hdesc]
    dsimp only
    rw [if_neg (by simp [hdone, hkind, hremote]), show s.checked [] = (true, s) from rfl]
    dsimp only
    rw [if_neg (show ¬(!true) = true by decide), hkind]
  rw [hsends]
  generalize hu : (({ s with net := { s.net with nextXfer := (s.net.nextXfer + 1) % 2 ^ 32 } } : State).putHead cl
      { op with done := true, transfer := s.net.nextXfer } rest) = u
  have hhead : BecomesAt s u cl ((s.cl cl).headSent op rest s.net.nextXfer) := by
    have hmod := becomesAt_modCl ({ s with net := { s.net with nextXfer := (s.net.nextXfer + 1) % 2 ^ 32 } } : State) cl
      fun c => { c with dmaQ := { op with done := true, transfer := s.net.nextXfer } :: rest }
    rw [← hu]
    exact ⟨hmod.here, hmod.others, hmod.duty⟩
  have hmem : u.mem = s.mem := by rw [← hu]; rfl
  have hnet : u.net.nextXfer = (s.net.nextXfer + 1) % 2 ^ 32 := by rw [← hu]; rfl
  have hsent : SameBut [.log, .job, .banks, .skid, .host, .ctr, .out] u (u.sendTransfer cl op.step d op.rows s.net.nextXfer) :=
    State.sendTransfer_touch (List.Subset.refl _) u cl op.step d op.rows s.net.nextXfer (Touch.refl _ u)
  have hclusters := hsent .clusters (by decide)
  exact ⟨⟨(cl_of hclusters cl).trans hhead.here, fun n hn => (cl_of hclusters n).trans (hhead.others n hn), (State.sendTransfer_duty _ _ _ _ _ _).trans hhead.duty⟩,
    (congrArg Net.nextXfer (hsent .net (by decide))).trans hnet, (hsent .mem (by decide)).trans hmem⟩
end

/-! ### The signal of a retiring operation -/

theorem actsAs_dmaSignal (s : State) (cl step : Nat) (d : Bytes) : ActsAs s (s.dmaSignal cl step d) cl id := by
  have htouch := State.dmaSignal_touch (List.Subset.refl _) s cl step d (Touch.refl _ s)
  have hclusters := htouch .clusters (by decide)
  refine ⟨cl_of hclusters cl, fun n _ => cl_of hclusters n, ?_, duty_of_touch htouch (by decide)⟩
  unfold State.dmaSignal
  split
  · exact State.signal_count _ _ _ _ _ _ (by decide) (by decide) (by decide)
  · rfl
theorem State.dmaSignal_same (s : State) (cl step : Nat) (d : Bytes) : SameBut issueParts s (s.dmaSignal cl step d) :=
  SameBut.mono (State.dmaSignal_touch (List.Subset.refl _) s cl step d (Touch.refl _ s)) (by decide)

end Sys2Proof.Machine
end

section
/-! SUPPORT and PROOFS. DMA transfers, limber jobs and bank control writes issue (R152, R153, R156, R157, R202, R244 to R246, R275). -/

namespace Sys2Proof.Machine

variable {s u : State} {cl : Nat} {f : Fetched} {d : Bytes}

/-! ### The checks look at what the signature leaves alone -/

theorem State.dmaRows_of (hu : ∃ i sg n, u.cl cl = { s.cl cl with index := i, sig := sg, issued := n }) (w : Nat) (d : Bytes) :
    u.dmaRows cl w d = s.dmaRows cl w d := by
  obtain ⟨i, sg, n, hcl⟩ := hu
  unfold State.dmaRows
  rw [hcl]
  rfl
theorem State.desc_congr (hjob : u.job = s.job) (n : Nat) : u.desc n = s.desc n := by rw [State.desc, hjob, State.desc]
theorem State.dmaDesc_congr (hjob : u.job = s.job) (w : Nat) : u.dmaDesc w = s.dmaDesc w := State.desc_congr hjob _
theorem State.stashDecl_congr (hjob : u.job = s.job) (b : Nat) : u.stashDecl b = s.stashDecl b := by rw [State.stashDecl, hjob, State.stashDecl]
theorem State.sideBad_congr (hjob : u.job = s.job) (hstart : u.start = s.start) (hcxl : u.cxl = s.cxl) (a span : Nat) (write : Bool) :
    u.sideBad a span write = s.sideBad a span write := by
  unfold State.sideBad State.decodes State.windowBytes
  rw [State.stashDecl_congr hjob, hstart, hcxl]
theorem State.transferBad_congr (hjob : u.job = s.job) (hstart : u.start = s.start) (hcxl : u.cxl = s.cxl) (d : Bytes) (rows : Nat) :
    u.transferBad d rows = s.transferBad d rows := by
  have hreaches : ∀ m, u.reaches m = s.reaches m := fun m => by
    unfold State.reaches State.peer
    rw [hjob]
  unfold State.transferBad
  rw [hreaches, State.sideBad_congr hjob hstart hcxl, State.sideBad_congr hjob hstart hcxl]
theorem State.sign_cl' (h : Issues s cl f) : ∃ i sg n, (s.sign cl f).cl cl = { s.cl cl with index := i, sig := sg, issued := n } := by
  obtain ⟨g, hg⟩ := State.sign_cl h
  exact ⟨_, g, _, hg⟩
theorem State.transferCheck_sign (h : Issues s cl f) : (s.sign cl f).transferCheck cl f = s.transferCheck cl f := by
  have hsame := State.sign_same h
  unfold State.transferCheck
  rw [State.dmaDesc_congr (hsame .job (by decide))]
  split
  · rfl
  · dsimp only
    rw [State.dmaRows_of (State.sign_cl' h), State.transferBad_congr (hsame .job (by decide)) (hsame .start (by decide)) (hsame .cxl (by decide))]
theorem State.limberCheck_sign (h : Issues s cl f) : (s.sign cl f).limberCheck cl f = s.limberCheck cl f := by
  unfold State.limberCheck
  rw [State.dmaDesc_congr (State.sign_same h .job (by decide))]
  split
  · rfl
  · dsimp only
    rw [State.dmaRows_of (State.sign_cl' h)]
theorem State.bankCheck_sign (h : Issues s cl f) : (s.sign cl f).bankCheck cl f = s.bankCheck cl f := by
  have hsame := State.sign_same h
  have hstart : (s.sign cl f).start = s.start := hsame .start (by decide)
  unfold State.bankCheck
  rw [State.dmaDesc_congr (hsame .job (by decide))]
  split
  · rfl
  · dsimp only
    rw [State.dmaRows_of (State.sign_cl' h), State.sideBad_congr (hsame .job (by decide)) hstart (hsame .cxl (by decide)), State.physDie, hstart, State.physDie]

/-! ### The operation takes its place -/

/-- Behind another, or as one that waits at the head, an operation only takes its place. -/
theorem State.dmaPut_placed (hdesc : u.desc (dmaIndex f.word) = some d) {kind : DmaKind} {rows : Nat}
    (hwaits : (u.cl cl).dmaQ ≠ [] ∨ kind = .limber ∨ (kind = .transfer ∧ ddLocal d = true)) (checks : List MemCheck) :
    u.dmaPut cl f kind rows checks = u.dmaPlaced cl f kind rows := by
  by_cases hempty : (u.cl cl).dmaQ = []
  · rw [State.dmaPut_first hempty]
    have hdesc' : (u.dmaPlaced cl f kind rows).desc (dmaIndex f.word) = some d := (State.desc_congr (u.dmaPlaced_same cl f kind rows .job (by decide)) _).trans hdesc
    refine State.dmaBegin_waits (s := u.dmaPlaced cl f kind rows) (cl := cl) (op := (u.cl cl).dmaOp f kind rows) (rest := []) ?_ hdesc' (hwaits.resolve_left (not_not.2 hempty)) checks
    rw [State.dmaPlaced_cl]
    unfold Cluster.dmaQueued
    rw [hempty]
    rfl
  · exact State.dmaPut_behind hempty _ _ _ _
theorem placed_issued (h : Issues s cl f) (hontime : OnTime s cl) (kind : DmaKind) (rows : Nat) :
    Issued s ((((s.sign cl f).step1 cl).dmaPlaced cl f kind rows).settle cl) cl ((s.cl cl).dmaQueued f kind rows) ∧
    SameBut issueParts s ((((s.sign cl f).step1 cl).dmaPlaced cl f kind rows).settle cl) := by
  obtain ⟨hparts, hissued⟩ := (actsAs_dmaPlaced ((s.sign cl f).step1 cl) cl f kind rows).settled h hontime (unplaced_dmaQueued f kind rows)
    (State.dmaPlaced_same _ cl f kind rows)
  exact ⟨hissued, hparts.mono (by decide)⟩
theorem signalled_issued (h : Issues s cl f) (hontime : OnTime s cl) (step : Nat) (d : Bytes) :
    Issued s ((((s.sign cl f).step1 cl).dmaSignal cl step d).settle cl) cl (s.cl cl) ∧
    SameBut issueParts s ((((s.sign cl f).step1 cl).dmaSignal cl step d).settle cl) := by
  obtain ⟨hparts, hissued⟩ := (actsAs_dmaSignal ((s.sign cl f).step1 cl) cl step d).settled h hontime (fun _ _ _ _ => ⟨rfl, rfl⟩) (State.dmaSignal_same _ cl step d)
  exact ⟨hissued, hparts.mono (by decide)⟩

/-- The only transfer of the queue, to a peer, is sent at issue. -/
def SentAlone (s t : State) (cl : Nat) (f : Fetched) (rows : Nat) : Prop :=
  (t.cl cl).dmaQ = [{ (s.cl cl).dmaOp f .transfer rows with done := true, transfer := s.net.nextXfer }] ∧
  t.net.nextXfer = (s.net.nextXfer + 1) % 2 ^ 32 ∧
  t.mem = s.mem
theorem sent_alone (h : Issues s cl f) (hontime : OnTime s cl) (hdesc : s.dmaDesc f.word = some d) (hremote : ddLocal d = false)
    (hempty : (s.cl cl).dmaQ = []) (rows : Nat) :
    SentAlone s ((((s.sign cl f).step1 cl).dmaPut cl f .transfer rows []).settle cl) cl f rows := by
  obtain ⟨⟨i, sg, hcl⟩, -, -, hsame⟩ := State.step1_spec h
  have hontime' := State.step1_onTime h hontime
  generalize (s.sign cl f).step1 cl = u at *
  have hempty' : (u.cl cl).dmaQ = [] := by rw [hcl]; exact hempty
  have hplaced := u.dmaPlaced_same cl f .transfer rows
  have hbecomes : BecomesAt u (u.dmaPlaced cl f .transfer rows) cl ((u.cl cl).dmaQueued f .transfer rows) := by
    have hacts := actsAs_dmaPlaced u cl f .transfer rows
    exact ⟨hacts.here, hacts.others, hacts.duty⟩
  have hqueue : ((u.dmaPlaced cl f .transfer rows).cl cl).dmaQ = (s.cl cl).dmaOp f .transfer rows :: [] := by
    rw [hbecomes.here, Cluster.dmaQueued, hempty', hcl]
    rfl
  have hdesc' : (u.dmaPlaced cl f .transfer rows).desc (dmaIndex f.word) = some d :=
    (State.desc_congr ((hplaced .job (by decide)).trans (hsame .job (by decide))) _).trans hdesc
  obtain ⟨hsent, hnext, hmem⟩ := State.dmaBegin_sends hqueue hdesc' rfl hremote rfl
  have hnet : (u.dmaPlaced cl f .transfer rows).net = s.net := (hplaced .net (by decide)).trans (hsame .net (by decide))
  have hmem' : (u.dmaPlaced cl f .transfer rows).mem = s.mem := (hplaced .mem (by decide)).trans (hsame .mem (by decide))
  rw [State.dmaPut_first hempty']
  rw [hnet] at hsent hnext
  rw [hmem'] at hmem
  have hbegun := hbecomes.trans hsent
  have hstep : (((u.dmaPlaced cl f .transfer rows).cl cl).headSent ((s.cl cl).dmaOp f .transfer rows) [] s.net.nextXfer).step = (u.cl cl).step := by
    rw [hbecomes.here]
    rfl
  generalize (u.dmaPlaced cl f .transfer rows).dmaBegin cl [] = v at hbegun hnext hmem ⊢
  obtain ⟨hwork, -, hparts⟩ := hbegun.settle hontime' hstep
  have hsettledNet : (v.settle cl).net = v.net := hparts .net (by decide)
  exact ⟨congrArg Cluster.dmaQ hwork, (congrArg Net.nextXfer hsettledNet).trans hnext, (hparts .mem (by decide)).trans hmem⟩

/-! ### Transfers -/

theorem exec_dmaTransfer (h : Issues s cl f) (hclass : iClass f.word = 10) (hlimber : s.namesLimber f.word = false) (hcontrol : s.namesControl f.word = false)
    (hcheck : s.transferCheck cl f = .ok) :
    exec (.dmaTransfer cl []) s = .next ((((s.sign cl f).step1 cl).transferIssue cl f []).settle cl) :=
  congrArg Host.Outcome.next (State.issue_ok h (fun s w => iClass w = 10 ∧ !s.namesLimber w ∧ !s.namesControl w) (fun s f => s.transferCheck cl f)
    (fun s f => s.transferIssue cl f []) (by simp [hclass, hlimber, hcontrol]) ((State.transferCheck_sign h).trans hcheck))
theorem State.transferIssue_empty (hdesc : u.dmaDesc f.word = some d) (hempty : u.dmaRows cl f.word d = 0 ∨ ddRowBytes d = 0) :
    u.transferIssue cl f [] = if ddLocal d = true then u.dmaSignal cl f.step d
      else if ddFlag d = true then u.dmaPut cl f .transfer (u.dmaRows cl f.word d) [] else u := by
  unfold State.transferIssue
  rw [hdesc]
  exact if_pos hempty
theorem State.transferIssue_rows (hdesc : u.dmaDesc f.word = some d) (hrows : ¬(u.dmaRows cl f.word d = 0 ∨ ddRowBytes d = 0)) :
    u.transferIssue cl f [] = if (u.stashRefuses f.step d (u.dmaRows cl f.word d)).1 = true
      then (u.stashRefuses f.step d (u.dmaRows cl f.word d)).2.dmaSignal cl f.step d
      else (u.stashRefuses f.step d (u.dmaRows cl f.word d)).2.dmaPut cl f .transfer (u.dmaRows cl f.word d) [] := by
  unfold State.transferIssue
  rw [hdesc]
  exact if_neg hrows

/-- The stash takes no write of the step any more. -/
abbrev State.suppressedBy (s : State) (step : Nat) (d : Bytes) : Prop := ddLocal d = true ∧ inStash (ddDst d) = true ∧ s.stash.suppressed = some step
/-- The transfer would write beyond the stash. -/
abbrev State.overStash (s : State) (d : Bytes) (rows : Nat) : Prop := ddLocal d = true ∧ inStash (ddDst d) = true
  ∧ (s.stashDecl (stashBranch (ddDst d))).limit < stashOffset (ddDst d) + rowSpan rows (ddDstPitch d) (ddRowBytes d)
theorem State.stashRefuses_suppressed {step : Nat} (h : s.suppressedBy step d) (rows : Nat) : s.stashRefuses step d rows = (true, s) := by
  obtain ⟨hlocal, hstash, hsuppressed⟩ := h
  unfold State.stashRefuses
  rw [if_neg (by simp [hlocal, hstash]), if_pos hsuppressed]
theorem State.stashRefuses_over {step rows : Nat} (h : ¬s.suppressedBy step d) (hover : s.overStash d rows) :
    ∃ b o, s.stashRefuses step d rows = (true, s.stashLimit step b o) := by
  obtain ⟨hlocal, hstash, hlimit⟩ := hover
  unfold State.stashRefuses
  rw [if_neg (by simp [hlocal, hstash]), if_neg (fun e => h ⟨hlocal, hstash, e⟩)]
  exact ⟨_, _, if_pos hlimit⟩
theorem State.stashRefuses_not {step rows : Nat} (h : ¬s.suppressedBy step d) (hover : ¬s.overStash d rows) : s.stashRefuses step d rows = (false, s) := by
  unfold State.stashRefuses
  by_cases hlocal : ddLocal d = true ∧ inStash (ddDst d) = true
  · rw [if_neg (by simp [hlocal]), if_neg (fun e => h ⟨hlocal.1, hlocal.2, e⟩)]
    exact if_neg (fun e => hover ⟨hlocal.1, hlocal.2, e⟩)
  · exact if_pos (by simpa using not_and_or.1 hlocal)

/-- The stash of the step is suppressed from here on. -/
def State.stashShut (s : State) (step b o : Nat) : State :=
  ({ s with stash := { s.stash with suppressed := some step } } : State).event (dieSrc (52 + stackOf (s.stashDecl b).hbmBase)) 0x3110 (u32 b ++ u32 o)
theorem State.stashLimit_eq (s : State) (step b o : Nat) : s.stashLimit step b o =
    if ((s.stashShut step b o).stepRec step).ended / 2 % 2 = 1 then (s.stashShut step b o).straggle step else s.stashShut step b o := rfl
theorem State.stashShut_same (s : State) (step b o : Nat) : SameBut [.stash, .log, .host, .ctr, .out] s (s.stashShut step b o) := by
  have hshut : SameBut [.stash] s ({ s with stash := { s.stash with suppressed := some step } } : State) := by
    intro p hp
    cases p with
    | stash => exact absurd (by decide) hp
    | _ => rfl
  exact (hshut.trans (sameBut_event _ _ _ _)).mono (by decide)
theorem actsAs_stashShut (s : State) (step b o cl : Nat) : ActsAs s (s.stashShut step b o) cl id := by
  have hclusters : (s.stashShut step b o).clusters = s.clusters := s.stashShut_same step b o .clusters (by decide)
  exact ⟨cl_of hclusters cl, fun n _ => cl_of hclusters n, State.event_count _ _ _ _ _ (by decide) (by decide) (by decide),
    duty_of_touch (s.stashShut_same step b o) (by decide)⟩
theorem State.stashShut_suppressed (s : State) (step b o : Nat) : (s.stashShut step b o).stash.suppressed = some step := by
  unfold State.stashShut
  simp
theorem State.stashLimit_suppressed (s : State) (step b o : Nat) : (s.stashLimit step b o).stash.suppressed = some step := by
  rw [State.stashLimit_eq]
  split
  · rw [State.straggle_suppressed]
    exact s.stashShut_suppressed step b o
  · exact s.stashShut_suppressed step b o

/-- A transfer beyond the stash is refused, and suppresses the stash of its step. -/
theorem over_issued (h : Issues s cl f) (hontime : OnTime s cl) (step b o : Nat) (d : Bytes) :
    let t := ((((s.sign cl f).step1 cl).stashLimit step b o).dmaSignal cl step d).settle cl
    t.stash.suppressed = some step ∧ t.mem = s.mem ∧
      ((s.stepRec step).ended / 2 % 2 ≠ 1 → Issued s t cl (s.cl cl) ∧ SameBut (.stash :: issueParts) s t) := by
  obtain ⟨-, -, -, hsame⟩ := State.step1_spec h
  generalize hu : (s.sign cl f).step1 cl = u at *
  intro t
  have hsettle := State.settle_sameBut ((u.stashLimit step b o).dmaSignal cl step d) cl
  have hsignal := (u.stashLimit step b o).dmaSignal_same cl step d
  have hlimit := State.stashLimit_touch (List.Subset.refl _) u step b o (Touch.refl _ u)
  refine ⟨?_, ?_, fun hended => ?_⟩
  · have hstash : t.stash = (u.stashLimit step b o).stash := (hsettle .stash (by decide)).trans (hsignal .stash (by decide))
    rw [hstash]
    exact u.stashLimit_suppressed step b o
  · exact (hsettle .mem (by decide)).trans ((hsignal .mem (by decide)).trans ((hlimit .mem (by decide)).trans (hsame .mem (by decide))))
  · have hrec : (u.stashShut step b o).stepRec step = s.stepRec step := by
      have hjob : (u.stashShut step b o).job = s.job := (u.stashShut_same step b o .job (by decide)).trans (hsame .job (by decide))
      unfold State.stepRec
      rw [hjob]
    have hshut : u.stashLimit step b o = u.stashShut step b o := by
      rw [State.stashLimit_eq, hrec]
      exact if_neg hended
    have hacts : ActsAs u ((u.stashLimit step b o).dmaSignal cl step d) cl id := by
      rw [hshut]
      exact (actsAs_stashShut u step b o cl).trans (actsAs_dmaSignal _ cl step d)
    have hparts : SameBut (.stash :: issueParts) u ((u.stashLimit step b o).dmaSignal cl step d) := by
      rw [hshut] at hsignal ⊢
      exact ((u.stashShut_same step b o).trans hsignal).mono (by decide)
    rw [← hu] at hacts hparts
    obtain ⟨hall, hissued⟩ := hacts.settled h hontime (fun _ _ _ _ => ⟨rfl, rfl⟩) hparts
    rw [hu] at hall hissued
    exact ⟨hissued, hall.mono (by decide)⟩

/-! ### Limber jobs -/

/-- A job that writes nothing is counted. -/
theorem limberRetired_issued (h : Issues s cl f) (hontime : OnTime s cl) (die : Nat) :
    let t := (((s.sign cl f).step1 cl).limberRetired die 0).settle cl
    Issued s t cl (s.cl cl) ∧ SameBut (.limbers :: issueParts) s t ∧ t.limber die = { s.limber die with jobs := (s.limber die).jobs + 1 } := by
  obtain ⟨-, -, -, hsame⟩ := State.step1_spec h
  have hlimbers : SameBut [.limbers] ((s.sign cl f).step1 cl) (((s.sign cl f).step1 cl).modLimber die fun l =>
      { l with jobs := l.jobs + 1, products := l.products + 0 }) := by
    intro p hp
    cases p with
    | limbers => exact absurd (by decide) hp
    | _ => rfl
  have hacts : ActsAs ((s.sign cl f).step1 cl) (((s.sign cl f).step1 cl).limberRetired die 0) cl id := by
    have hmod : ActsAs ((s.sign cl f).step1 cl) (((s.sign cl f).step1 cl).modLimber die fun l =>
        { l with jobs := l.jobs + 1, products := l.products + 0 }) cl id := ⟨rfl, fun _ _ => rfl, rfl, rfl⟩
    exact (hmod.trans (actsAs_bump _ cl kLimberJobs 1 (by decide))).trans (actsAs_bump _ cl kLimberProducts 0 (by decide))
  have hretired := (hlimbers.trans (sb_ctr _ kLimberJobs 1)).trans (sb_ctr _ kLimberProducts 0)
  obtain ⟨hparts, hissued⟩ := hacts.settled h hontime (fun _ _ _ _ => ⟨rfl, rfl⟩) hretired
  refine ⟨hissued, hparts.mono (by decide), ?_⟩
  have hsettled : (State.settle (((s.sign cl f).step1 cl).limberRetired die 0) cl).limbers = (((s.sign cl f).step1 cl).limberRetired die 0).limbers :=
    State.settle_sameBut _ cl .limbers (by decide)
  have hbefore : ((s.sign cl f).step1 cl).limbers = s.limbers := hsame .limbers (by decide)
  unfold State.limber
  rw [hsettled, ← hbefore]
  exact sget_supd_same {} _ die fun l : Limber => { l with jobs := l.jobs + 1, products := l.products + 0 }

theorem exec_limberJob (h : Issues s cl f) (hclass : iClass f.word = 10) (hlimber : s.namesLimber f.word = true) (hcheck : s.limberCheck cl f = .ok)
    (hdesc : s.dmaDesc f.word = some d) : exec (.limberJob cl) s = .next (State.settle (if lbEmpty d (s.dmaRows cl f.word d) = true
      then ((s.sign cl f).step1 cl).limberRetired (s.physDie (clDie cl)) 0
      else ((s.sign cl f).step1 cl).dmaPut cl f .limber (s.dmaRows cl f.word d) []) cl) := by
  obtain ⟨-, -, -, hsame⟩ := State.step1_spec h
  have hdesc' : ((s.sign cl f).step1 cl).dmaDesc f.word = some d := (State.dmaDesc_congr (hsame .job (by decide)) _).trans hdesc
  have hrows := State.dmaRows_of (State.step1_cl h) f.word d
  have hdie : ((s.sign cl f).step1 cl).physDie (clDie cl) = s.physDie (clDie cl) := by
    have hstart : ((s.sign cl f).step1 cl).start = s.start := hsame .start (by decide)
    unfold State.physDie
    rw [hstart]
  have hissue := State.issue_ok h (fun s w => iClass w = 10 ∧ s.namesLimber w) (fun s f => s.limberCheck cl f)
    (fun s f =>
      match s.dmaDesc f.word with
      | none => s
      | some d =>
        let rows := s.dmaRows cl f.word d
        if lbEmpty d rows then s.limberRetired (s.physDie (clDie cl)) 0 else s.dmaPut cl f .limber rows []) (by simp [hclass, hlimber])
    ((State.limberCheck_sign h).trans hcheck)
  refine congrArg Host.Outcome.next (hissue.trans ?_)
  dsimp only
  rw [hdesc']
  dsimp only
  rw [hrows, hdie]

/-! ### Bank control writes (R244 to R246) -/

theorem State.tierByte_congr (hjob : u.job = s.job) (hstash : u.stash = s.stash) (hmem : u.mem = s.mem) (a : Nat) : u.tierByte a = s.tierByte a := by
  unfold State.tierByte State.stashByte
  rw [hjob, hstash, hmem]
theorem padTo_eq_self {n : Nat} {bs : Bytes} (h : bs.length = n) : padTo n bs = bs := by
  unfold padTo
  rw [h, Nat.sub_self, List.replicate_zero, List.append_nil, ← h, List.take_length]
/-- A read of HBM returns its bytes, and counts its half-bursts. -/
theorem State.mapRead_hbm (u : State) (who : Option Nat) {a n : Nat} (h : a + n ≤ hbmEnd) (hn : 0 < n) (step : Nat) :
    u.mapRead who a n step = ((List.range n).map fun i => u.tierByte (a + i), u.noteRead a n) := by
  have hend : a < 0x018000000000 := lt_of_lt_of_le (by omega) h
  have hpieces : u.pieces a n = [(a, n)] := by
    unfold State.pieces inStash
    rw [if_neg]
    rw [decide_eq_true_iff]
    unfold stashBase
    omega
  unfold State.mapRead
  rw [hpieces]
  simp only [List.foldl_cons, List.foldl_nil, List.nil_append]
  rw [if_neg (by unfold sramBase; omega)]
  dsimp only
  rw [padTo_eq_self (by simp)]
theorem actsAs_noteRead (u : State) (a n cl : Nat) : ActsAs u (u.noteRead a n) cl id := by
  unfold State.noteRead
  split
  · exact actsAs_refl u cl
  · refine actsAs_bump u cl _ _ ?_
    unfold kIssued objKey kStackReads ctrlBase
    omega
theorem State.noteRead_same (u : State) (a n : Nat) : SameBut [.ctr] u (u.noteRead a n) := by
  unfold State.noteRead
  split
  · exact SameBut.rfl'
  · exact sb_ctr u _ _
theorem State.bankRefused_congr (hjob : u.job = s.job) (hstart : u.start = s.start) (die i v : Nat) : u.bankRefused die i v = s.bankRefused die i v := by
  unfold State.bankRefused State.clusterOff
  rw [hjob, hstart]
theorem sb_modBank (s : State) (die i : Nat) (g : Bank → Bank) : SameBut [.banks] s (s.modBank die i g) := by
  intro p hp
  cases p with
  | banks => exact absurd (by decide) hp
  | _ => rfl
theorem State.bank_modBank (s : State) (die i : Nat) (g : Bank → Bank) : (s.modBank die i g).bank die i = g (s.bank die i) := sget_supd_same {} s.banks (64 * die + i) g

/-- The write that an instruction makes to a bank, of the word at its source. -/
def State.bankWriteOf (s : State) (cl : Nat) (d : Bytes) : BankWrite :=
  ⟨cl, (s.cl cl).issueNo, fieldAt ((List.range 64).map fun k => s.tierByte (ddSrc d + k)) 0 4⟩
/-- The bank control write at the head is on its way: its source is read. -/
def State.bankRead (u : State) (cl : Nat) (f : Fetched) (d : Bytes) : State :=
  ((u.dmaPlaced cl f .bank 1).noteRead (ddSrc d) 64).putHead cl { (u.cl cl).dmaOp f .bank 1 with done := true } []
/-- The cluster whose only operation is a bank control write on its way. -/
def Cluster.bankSent (c : Cluster) (f : Fetched) : Cluster := { c with issueNo := c.issueNo + 1, dmaQ := [{ c.dmaOp f .bank 1 with done := true }] }
theorem actsAs_bankRead (u : State) (cl : Nat) (f : Fetched) (d : Bytes) : ActsAs u (u.bankRead cl f d) cl (fun c => c.bankSent f) := by
  have hact := ((actsAs_dmaPlaced u cl f .bank 1).trans (actsAs_noteRead _ (ddSrc d) 64 cl)).trans
    (actsAs_modCl _ cl fun c => { c with dmaQ := [{ (u.cl cl).dmaOp f .bank 1 with done := true }] })
  exact ⟨hact.here, hact.others, hact.issued, hact.duty⟩
theorem State.bankRead_same (u : State) (cl : Nat) (f : Fetched) (d : Bytes) : SameBut [.clusters, .ctr] u (u.bankRead cl f d) :=
  (((u.dmaPlaced_same cl f .bank 1).trans (State.noteRead_same _ (ddSrc d) 64)).trans (sb_modCl _ cl _)).mono (by decide)
theorem State.dmaPut_bank (hempty : (u.cl cl).dmaQ = []) (hdesc : u.dmaDesc f.word = some d) (hsrc : ddSrc d + 64 ≤ hbmEnd) {i : Nat}
    (hbank : bankBlock (u.physDie (clDie cl)) (ddDst d) = some i) :
    u.dmaPut cl f .bank 1 [] = (u.bankRead cl f d).bankArrives (u.physDie (clDie cl)) i (u.bankWriteOf cl d) := by
  have hqueue : ((u.dmaPlaced cl f .bank 1).cl cl).dmaQ = [(u.cl cl).dmaOp f .bank 1] := by
    rw [State.dmaPlaced_cl, Cluster.dmaQueued, hempty]
    rfl
  have hplaced := u.dmaPlaced_same cl f .bank 1
  have hjob : (u.dmaPlaced cl f .bank 1).job = u.job := hplaced .job (by decide)
  have hstart : (u.bankRead cl f d).start = u.start := u.bankRead_same cl f d .start (by decide)
  have hdesc' : (u.dmaPlaced cl f .bank 1).desc ((u.cl cl).dmaOp f .bank 1).desc = some d := (State.desc_congr hjob _).trans hdesc
  have htier : ∀ a, (u.dmaPlaced cl f .bank 1).tierByte a = u.tierByte a :=
    State.tierByte_congr hjob (hplaced .stash (by decide)) (hplaced .mem (by decide))
  rw [State.dmaPut_first hempty]
  unfold State.dmaBegin
  rw [hqueue]
  dsimp only
  rw [hdesc']
  dsimp only
  rw [if_neg (by simp [Cluster.dmaOp]), show (u.dmaPlaced cl f .bank 1).checked [] = (true, u.dmaPlaced cl f .bank 1) from rfl]
  dsimp only
  rw [if_neg (show ¬(!true) = true by decide)]
  show bankSend cl ((u.cl cl).dmaOp f .bank 1) [] d ((u.dmaPlaced cl f .bank 1).mapRead (some cl) (ddSrc d) 64 ((u.cl cl).dmaOp f .bank 1).step) = _
  rw [State.mapRead_hbm _ (some cl) hsrc (by decide)]
  have hsend : bankSend cl ((u.cl cl).dmaOp f .bank 1) [] d ((List.range 64).map fun i => (u.dmaPlaced cl f .bank 1).tierByte (ddSrc d + i),
      (u.dmaPlaced cl f .bank 1).noteRead (ddSrc d) 64) =
      (bankBlock ((u.bankRead cl f d).physDie (clDie cl)) (ddDst d)).elim (u.bankRead cl f d) fun i =>
        (u.bankRead cl f d).bankArrives ((u.bankRead cl f d).physDie (clDie cl)) i
          ⟨cl, (u.cl cl).issueNo, fieldAt ((List.range 64).map fun i => (u.dmaPlaced cl f .bank 1).tierByte (ddSrc d + i)) 0 4⟩ := rfl
  have hdie : (u.bankRead cl f d).physDie (clDie cl) = u.physDie (clDie cl) := by
    unfold State.physDie
    rw [hstart]
  rw [hsend, hdie, hbank]
  simp only [htier]
  rfl

end Sys2Proof.Machine
end

section
open Sys2Proof Sys2Proof.Machine

variable {s : State} {cl : Nat} {f : Fetched} {d : Bytes}

/-- A transfer takes its place, completes at issue, or is sent. -/
theorem transferTakesItsPlace (h : Issues s cl f) (hontime : OnTime s cl) (hclass : iClass f.word = 10) (hdesc : s.dmaDesc f.word = some d)
    (hlimber : s.namesLimber f.word = false) (hcontrol : s.namesControl f.word = false) (hcheck : s.transferCheck cl f = .ok) :
    let rows := s.dmaRows cl f.word d
    ∃ t, exec (.dmaTransfer cl []) s = .next t ∧
      if rows = 0 ∨ ddRowBytes d = 0 then
        (ddLocal d = true ∨ ddFlag d = false → Issued s t cl (s.cl cl) ∧ SameBut issueParts s t)
          ∧ (ddLocal d = false → ddFlag d = true → (s.cl cl).dmaQ ≠ [] →
              Issued s t cl ((s.cl cl).dmaQueued f .transfer rows) ∧ SameBut issueParts s t)
          ∧ (ddLocal d = false → ddFlag d = true → (s.cl cl).dmaQ = [] → SentAlone s t cl f rows)
      else if s.suppressedBy f.step d then Issued s t cl (s.cl cl) ∧ SameBut issueParts s t
      else if s.overStash d rows then
        t.stash.suppressed = some f.step ∧ t.mem = s.mem
          ∧ ((s.stepRec f.step).ended / 2 % 2 ≠ 1 → Issued s t cl (s.cl cl) ∧ SameBut (.stash :: issueParts) s t)
      else if ddLocal d = true ∨ (s.cl cl).dmaQ ≠ [] then Issued s t cl ((s.cl cl).dmaQueued f .transfer rows) ∧ SameBut issueParts s t
      else SentAlone s t cl f rows := by
  intro rows
  have hexec := exec_dmaTransfer h hclass hlimber hcontrol hcheck
  refine ⟨_, hexec, ?_⟩
  clear hexec
  obtain ⟨⟨i, sg, hcl⟩, -, -, hsame⟩ := State.step1_spec h
  have hdescIn : ((s.sign cl f).step1 cl).dmaDesc f.word = some d := (State.dmaDesc_congr (hsame .job (by decide)) _).trans hdesc
  have hrows : ((s.sign cl f).step1 cl).dmaRows cl f.word d = rows := State.dmaRows_of (State.step1_cl h) f.word d
  have hqueue : (((s.sign cl f).step1 cl).cl cl).dmaQ = (s.cl cl).dmaQ := by rw [hcl]
  by_cases hempty : rows = 0 ∨ ddRowBytes d = 0
  · rw [if_pos hempty, State.transferIssue_empty hdescIn (by rw [hrows]; exact hempty), hrows]
    refine ⟨fun hdone => ?_, fun hremote hflag hbehind => ?_, fun hremote hflag hfirst => ?_⟩
    · by_cases hlocal : ddLocal d = true
      · rw [if_pos hlocal]
        exact signalled_issued h hontime f.step d
      · rw [if_neg hlocal, if_neg (by rw [hdone.resolve_left hlocal]; decide)]
        obtain ⟨hparts, hissued⟩ := (actsAs_refl ((s.sign cl f).step1 cl) cl).settled h hontime (fun _ _ _ _ => ⟨rfl, rfl⟩) (SameBut.rfl' : SameBut [] _ _)
        exact ⟨hissued, hparts⟩
    · rw [if_neg (by rw [hremote]; decide), if_pos hflag, State.dmaPut_placed hdescIn (Or.inl (by rw [hqueue]; exact hbehind))]
      exact placed_issued h hontime .transfer rows
    · rw [if_neg (by rw [hremote]; decide), if_pos hflag]
      exact sent_alone h hontime hdesc hremote hfirst rows
  · rw [if_neg hempty, State.transferIssue_rows hdescIn (by rw [hrows]; exact hempty), hrows]
    have hstash : ((s.sign cl f).step1 cl).stash = s.stash := hsame .stash (by decide)
    have hsuppressed : ((s.sign cl f).step1 cl).suppressedBy f.step d ↔ s.suppressedBy f.step d := by
      unfold State.suppressedBy
      rw [hstash]
    have hover : ((s.sign cl f).step1 cl).overStash d rows ↔ s.overStash d rows := by
      unfold State.overStash
      rw [State.stashDecl_congr (hsame .job (by decide))]
    by_cases hs : s.suppressedBy f.step d
    · rw [if_pos hs, State.stashRefuses_suppressed (hsuppressed.2 hs), if_pos rfl]
      exact signalled_issued h hontime f.step d
    · rw [if_neg hs]
      by_cases ho : s.overStash d rows
      · obtain ⟨b, o, hrefuses⟩ := State.stashRefuses_over (mt hsuppressed.1 hs) (hover.2 ho)
        rw [if_pos ho, hrefuses, if_pos rfl]
        exact over_issued h hontime f.step b o d
      · rw [if_neg ho, State.stashRefuses_not (mt hsuppressed.1 hs) (mt hover.1 ho), if_neg (show ¬(false = true) by decide)]
        by_cases hplaced : ddLocal d = true ∨ (s.cl cl).dmaQ ≠ []
        · rw [if_pos hplaced, State.dmaPut_placed hdescIn (by rw [hqueue]; exact hplaced.elim (fun hl => Or.inr (Or.inr ⟨rfl, hl⟩)) Or.inl)]
          exact placed_issued h hontime .transfer rows
        · obtain ⟨hremote, hfirst⟩ := not_or.1 hplaced
          rw [if_neg hplaced]
          exact sent_alone h hontime hdesc (Bool.eq_false_of_not_eq_true hremote) (not_not.1 hfirst) rows

/-- A bank control write that finds the queue empty reaches its bank. -/
theorem bankWriteArrives (h : Issues s cl f) (hontime : OnTime s cl) (hdesc : s.dmaDesc f.word = some d) (hempty : (s.cl cl).dmaQ = [])
    (hsrc : ddSrc d + 64 ≤ hbmEnd) {i : Nat} (hbank : bankBlock (s.physDie (clDie cl)) (ddDst d) = some i) :
    let die := s.physDie (clDie cl)
    let w := s.bankWriteOf cl d
    let t := (((s.sign cl f).step1 cl).dmaPut cl f .bank 1 []).settle cl
    t.mem = s.mem ∧
      if s.bankRefused die i w.value = true then Faulted t (dieSrc die) 0x3003 ∧ t.safe.latch = true ∧ t.banks = s.banks
      else Issued s t cl ((s.cl cl).bankSent f) ∧ t.bank die i = (if (s.bank die i).handover.isSome = true
            then { s.bank die i with queued := (s.bank die i).queued ++ [w] } else (s.bank die i).begin w)
        ∧ SameBut (.banks :: issueParts) s t := by
  intro die w t
  obtain ⟨⟨j, sg, hcl⟩, -, -, hsame⟩ := State.step1_spec h
  have hstart : ((s.sign cl f).step1 cl).start = s.start := hsame .start (by decide)
  have hdie : ((s.sign cl f).step1 cl).physDie (clDie cl) = die := by
    unfold State.physDie
    rw [hstart]
    rfl
  have hw : ((s.sign cl f).step1 cl).bankWriteOf cl d = w := by
    unfold State.bankWriteOf
    simp only [State.tierByte_congr (hsame .job (by decide)) (hsame .stash (by decide)) (hsame .mem (by decide)), hcl]
    rfl
  have hput := State.dmaPut_bank (f := f) (by rw [hcl]; exact hempty) ((State.dmaDesc_congr (hsame .job (by decide)) _).trans hdesc) hsrc (by rw [hdie]; exact hbank)
  rw [hdie, hw] at hput
  have ht : t = State.settle (((s.sign cl f).step1 cl).dmaPut cl f .bank 1 []) cl := rfl
  rw [hput] at ht
  have hacts := actsAs_bankRead ((s.sign cl f).step1 cl) cl f d
  have hread := State.bankRead_same ((s.sign cl f).step1 cl) cl f d
  have hall := hsame.trans hread
  have hrefused : (((s.sign cl f).step1 cl).bankRead cl f d).bankRefused die i w.value = s.bankRefused die i w.value :=
    State.bankRefused_congr (hall .job (by decide)) (hall .start (by decide)) die i w.value
  have hbanks : (((s.sign cl f).step1 cl).bankRead cl f d).banks = s.banks := hall .banks (by decide)
  have hmem : (((s.sign cl f).step1 cl).bankRead cl f d).mem = s.mem := hall .mem (by decide)
  unfold State.bankArrives at ht
  rw [hrefused] at ht
  by_cases hr : s.bankRefused die i w.value = true
  · rw [if_pos hr] at ht ⊢
    rw [ht]
    generalize ((s.sign cl f).step1 cl).bankRead cl f d = v at *
    obtain ⟨hfaulted, hlatch, -⟩ := v.fault_spec (dieSrc die) 0x3003 (u32 i ++ u32 w.value)
    have hsettle := State.settle_sameBut (v.fault (dieSrc die) 0x3003 (u32 i ++ u32 w.value)) cl
    refine ⟨(hsettle .mem (by decide)).trans ?_, hfaulted.settle cl, ?_, (hsettle .banks (by decide)).trans ?_⟩
    · rw [← hmem]
      exact (by simp : (v.fault (dieSrc die) 0x3003 (u32 i ++ u32 w.value)).mem = v.mem)
    · exact (congrArg Safety.latch (hsettle .safe (by decide))).trans hlatch
    · rw [← hbanks]
      exact (by simp : (v.fault (dieSrc die) 0x3003 (u32 i ++ u32 w.value)).banks = v.banks)
  · rw [if_neg hr] at ht ⊢
    rw [ht]
    generalize hg : (fun b : Bank => if b.handover.isSome then { b with queued := b.queued ++ [w] } else b.begin w) = g
    have hmod : ActsAs (((s.sign cl f).step1 cl).bankRead cl f d) ((((s.sign cl f).step1 cl).bankRead cl f d).modBank die i g) cl id :=
      ⟨rfl, fun _ _ => rfl, rfl, rfl⟩
    obtain ⟨hparts, hissued⟩ := (hacts.trans hmod).settled h hontime (fun _ _ _ _ => ⟨rfl, rfl⟩) (hread.trans (sb_modBank _ die i g))
    have hsettled := State.settle_sameBut ((((s.sign cl f).step1 cl).bankRead cl f d).modBank die i g) cl .banks (by decide)
    have hbank' : (State.settle ((((s.sign cl f).step1 cl).bankRead cl f d).modBank die i g) cl).bank die i = g (s.bank die i) := by
      have hmodded := State.bank_modBank (((s.sign cl f).step1 cl).bankRead cl f d) die i g
      unfold State.bank at hmodded ⊢
      rw [hsettled, hmodded, hbanks]
    refine ⟨hparts .mem (by decide), hissued, hbank'.trans ?_, hparts.mono (by decide)⟩
    rw [← hg]
end

section
open Sys2Proof Sys2Proof.Machine

/-- Settles O46: what each kind of operation makes of its cluster's queue at issue. -/
theorem dmaInstructionsTakeTheirPlace : Obligations.DmaInstructionsTakeTheirPlace := by
  unfold Obligations.DmaInstructionsTakeTheirPlace
  intro s cl f d h hontime hclass hdesc c rows op queued
  refine ⟨fun hlimber hcontrol hcheck => ?_, fun hlimber hcheck => ⟨_, exec_limberJob h hclass hlimber hcheck hdesc, ?_⟩, fun hcontrol hcheck => ?_⟩
  · obtain ⟨t, ht, hplace⟩ := transferTakesItsPlace h hontime hclass hdesc hlimber hcontrol hcheck
    refine ⟨t, ht, ?_⟩
    split
    · next hempty =>
      rw [if_pos hempty] at hplace
      obtain ⟨hdone, hqueued, hsent⟩ := hplace
      exact ⟨hdone, hqueued, hsent⟩
    · next hrows =>
      rw [if_neg hrows] at hplace
      split
      · next hs => rwa [if_pos (show s.suppressedBy f.step d from hs)] at hplace
      · next hs =>
        rw [if_neg (show ¬s.suppressedBy f.step d from hs)] at hplace
        split
        · next ho => rwa [if_pos (show s.overStash d rows from ho)] at hplace
        · next ho =>
          rw [if_neg (show ¬s.overStash d rows from ho)] at hplace
          split
          · next hq => rwa [if_pos hq] at hplace
          · next hq =>
            rw [if_neg hq] at hplace
            exact hplace
  · split
    · exact limberRetired_issued h hontime (s.physDie (clDie cl))
    · have hdesc' : ((s.sign cl f).step1 cl).dmaDesc f.word = some d :=
        (State.dmaDesc_congr ((State.step1_spec h).2.2.2 .job (by decide)) _).trans hdesc
      rw [State.dmaPut_placed hdesc' (Or.inr (Or.inl rfl))]
      exact placed_issued h hontime .limber rows
  · have hexec : exec (.bankCtrl cl []) s = .next ((((s.sign cl f).step1 cl).dmaPut cl f .bank 1 []).settle cl) :=
      congrArg Host.Outcome.next (State.issue_ok h (fun s w => iClass w = 10 ∧ s.namesControl w) (fun s f => s.bankCheck cl f)
        (fun s f => s.dmaPut cl f .bank 1 []) (by simp [hclass, hcontrol]) ((State.bankCheck_sign h).trans hcheck))
    refine ⟨_, hexec, fun hbehind => ?_, fun hempty hsrc i hbank => bankWriteArrives h hontime hdesc hempty hsrc hbank⟩
    obtain ⟨⟨j, sg, hcl⟩, -, -, -⟩ := State.step1_spec h
    rw [State.dmaPut_behind (by rw [hcl]; exact hbehind)]
    exact placed_issued h hontime .bank 1
end

section
/-! SUPPORT and PROOFS. DMA transfers, limber jobs, hand-overs and power transitions complete (R152, R172, R202, R206, R209, R240,
R245, R248). -/

namespace Sys2Proof.Machine

variable {s u : State} {cl : Nat} {d : Bytes}

/-! ### HBM under no capture -/

/-- With no page in a capture a write to HBM, page by page, writes its bytes. -/
theorem State.hbmWrite_mem (fuel : Nat) (s : State) (a : Nat) (bs : Bytes) (hpages : s.cow.pages = [])
    (hfuel : bs.length = 0 ∨ a % pageBytes + bs.length ≤ fuel * pageBytes) : (s.hbmWrite fuel a bs).mem = writeBytes s.mem a bs := by
  induction fuel generalizing s a bs with
  | zero =>
    have hlen : bs.length = 0 := by rw [Nat.zero_mul] at hfuel; omega
    rw [List.length_eq_zero_iff.1 hlen]
    rfl
  | succ fuel ih =>
    cases bs with
    | nil => rfl
    | cons b bs =>
      have hpage : ∀ x, s.pageWrite a x = { s with mem := writeBytes s.mem a x } := fun x => by
        unfold State.pageWrite State.pageState
        rw [hpages]
        rfl
      have hmod : a % pageBytes < pageBytes := Nat.mod_lt _ (by decide)
      generalize hxs : b :: bs = xs at *
      have hwrite : s.hbmWrite (fuel + 1) a xs =
          (s.pageWrite a (xs.take (min xs.length (pageBytes - a % pageBytes)))).hbmWrite fuel (a + min xs.length (pageBytes - a % pageBytes))
            (xs.drop (min xs.length (pageBytes - a % pageBytes))) := by
        rw [← hxs]
        rfl
      generalize hk : min xs.length (pageBytes - a % pageBytes) = k at hwrite
      rw [hwrite, hpage]
      have hlen : xs.length ≠ 0 := by rw [← hxs]; exact Nat.succ_ne_zero _
      have hleft : (xs.drop k).length = 0 ∨ (a + k) % pageBytes + (xs.drop k).length ≤ fuel * pageBytes := by
        rw [List.length_drop]
        rw [Nat.succ_mul] at hfuel
        rcases le_total xs.length (pageBytes - a % pageBytes) with hle | hle
        · rw [min_eq_left hle] at hk
          omega
        · rw [min_eq_right hle] at hk
          have hsum : a + k = pageBytes * (a / pageBytes + 1) := by
            have hdiv := Nat.div_add_mod a pageBytes
            rw [Nat.mul_add, Nat.mul_one]
            omega
          rw [hsum, Nat.mul_mod_right]
          have hfuel' := hfuel.resolve_left hlen
          omega
      rw [ih { s with mem := writeBytes s.mem a (xs.take k) } _ _ hpages hleft]
      dsimp only
      conv_rhs => rw [← List.take_append_drop k xs, writeBytes_append]
      rw [List.length_take, ← hk, min_eq_left (min_le_left _ _)]

theorem slice_zero_length (bs : Bytes) : slice bs 0 bs.length = bs := by
  unfold slice
  rw [List.drop_zero, List.take_length]
theorem State.hbm_pieces {a : Nat} (h : a < hbmEnd) (s : State) (n : Nat) : s.pieces a n = [(a, n)] := by
  have hend : a < 0x018000000000 := h
  unfold State.pieces inStash
  rw [if_neg]
  rw [decide_eq_true_iff]
  unfold stashBase
  omega
theorem hbm_not_sram {a : Nat} (h : a < hbmEnd) : ¬sramBase ≤ a := by
  have hend : a < 0x018000000000 := h
  unfold sramBase
  omega
/-- A write to HBM, with no stash released and no page in a capture, writes its bytes. -/
theorem State.mapWrite_hbm_mem {a : Nat} (h : a < hbmEnd) (s : State) (hreleased : s.stash.released = none) (hpages : s.cow.pages = [])
    (who : Option Nat) (step : Nat) (bs : Bytes) : (s.mapWrite who a step bs).mem = writeBytes s.mem a bs := by
  have hfuel : a % pageBytes + bs.length ≤ (bs.length / pageBytes + 2) * pageBytes := by
    have hmod : a % pageBytes < pageBytes := Nat.mod_lt _ (by decide)
    have hlen : bs.length % pageBytes < pageBytes := Nat.mod_lt _ (by decide)
    have hdiv := Nat.div_add_mod bs.length pageBytes
    rw [Nat.add_mul, Nat.mul_comm (bs.length / pageBytes)]
    omega
  unfold State.mapWrite
  rw [State.hbm_pieces h]
  simp only [List.foldl_cons, List.foldl_nil]
  rw [if_neg (hbm_not_sram h), hreleased, slice_zero_length]
  simp only [Option.isSome_none, Bool.false_and, Bool.false_eq_true, if_false, if_pos h]
  unfold State.toHbm
  dsimp only
  split
  · exact State.hbmWrite_mem _ s a bs hpages (Or.inr hfuel)
  · exact State.hbmWrite_mem _ (s.bump (kStackReads (stackOf a)) (partBursts a bs.length)) a bs hpages (Or.inr hfuel)
/-- A read of HBM, with no stash released, returns what is written there, and only counts. -/
theorem State.mapRead_hbm_bytes {a : Nat} (h : a < hbmEnd) (s : State) (hreleased : s.stash.released = none) (who : Option Nat) (n step : Nat) :
    s.mapRead who a n step = (readBytes s.mem a n, s.noteRead a n) := by
  have htier : ∀ x, s.tierByte x = readByte s.mem x := fun x => by
    unfold State.tierByte
    rw [hreleased]
  unfold State.mapRead
  rw [State.hbm_pieces h]
  simp only [List.foldl_cons, List.foldl_nil, List.nil_append, htier]
  rw [if_neg (hbm_not_sram h)]
  dsimp only
  rw [padTo_eq_self (by simp)]
  rfl
/-- A transfer of one row within HBM copies its bytes. -/
theorem State.copyRows_one (s : State) (cl step : Nat) (hsrc : ddSrc d < hbmEnd) (hdst : ddDst d < hbmEnd) (hreleased : s.stash.released = none)
    (hpages : s.cow.pages = []) : (s.copyRows cl step d 1).mem = writeBytes s.mem (ddDst d) (readBytes s.mem (ddSrc d) (ddRowBytes d)) := by
  have hnoted := s.noteRead_same (ddSrc d) (ddRowBytes d)
  have hstash : (s.noteRead (ddSrc d) (ddRowBytes d)).stash = s.stash := hnoted .stash (by decide)
  have hcow : (s.noteRead (ddSrc d) (ddRowBytes d)).cow = s.cow := hnoted .cow (by decide)
  have hmem : (s.noteRead (ddSrc d) (ddRowBytes d)).mem = s.mem := hnoted .mem (by decide)
  unfold State.copyRows
  simp only [List.range_one, List.foldl_cons, List.foldl_nil, Nat.zero_mul, Nat.add_zero]
  rw [State.mapRead_hbm_bytes hsrc s hreleased]
  dsimp only
  rw [State.mapWrite_hbm_mem hdst _ (by rw [hstash]; exact hreleased) (by rw [hcow]; exact hpages), hmem]

/-! ### The head of the DMA queue retires (R152) -/

theorem State.dmaRetire_eq {op : DmaOp} {rest : List DmaOp} (hqueue : (s.cl cl).dmaQ = op :: rest) : s.dmaRetire cl true =
    State.settle ((s.modCl cl fun c => { c with dmaQ := rest }).dmaSignal cl op.step ((s.desc op.desc).getD [])) cl := by
  unfold State.dmaRetire
  rw [hqueue]
  rfl
theorem State.dmaRetire_spec {op : DmaOp} {rest : List DmaOp} (hqueue : (s.cl cl).dmaQ = op :: rest) (hontime : OnTime s cl) :
    let t := s.dmaRetire cl true
    (t.cl cl).work = ({ s.cl cl with dmaQ := rest } : Cluster).work ∧ (∀ n, n ≠ cl → t.cl n = s.cl n) ∧ SameBut issueParts s t := by
  intro t
  have ht : t = _ := State.dmaRetire_eq hqueue
  have hpop := becomesAt_modCl s cl fun c => { c with dmaQ := rest }
  generalize hu : s.modCl cl (fun c => { c with dmaQ := rest }) = u at *
  have hsignal := actsAs_dmaSignal u cl op.step ((s.desc op.desc).getD [])
  have hbecomes := hpop.trans ⟨hsignal.here, hsignal.others, hsignal.duty⟩
  obtain ⟨hwork, hothers, hsame⟩ := hbecomes.settle hontime (by rw [hpop.here]; rfl)
  rw [← ht] at hwork hothers hsame
  rw [hpop.here] at hwork
  have hpopped : SameBut [.clusters] s u := by
    rw [← hu]
    exact sb_modCl s cl _
  exact ⟨hwork, hothers, ((hpopped.trans (State.dmaSignal_same u cl op.step _)).trans hsame).mono (by decide)⟩

/-- The rows of a local transfer have been moved. -/
def State.rowsMoved (s : State) (cl step : Nat) (d : Bytes) (rows : Nat) : State := (s.copyRows cl step d rows).noteStash d rows
theorem State.rowsMoved_spec (s : State) (cl step : Nat) (d : Bytes) (rows : Nat) : let t := s.rowsMoved cl step d rows
    (∀ n, t.cl n = s.cl n) ∧ t.duty = s.duty ∧ t.mem = (s.copyRows cl step d rows).mem := by
  have hcopied := State.copyRows_touch (List.Subset.refl _) s cl step d rows (Touch.refl _ s)
  have hnoted := State.noteStash_touch (List.Subset.refl _) (s.copyRows cl step d rows) d rows (Touch.refl _ _)
  have hclusters : (s.rowsMoved cl step d rows).clusters = s.clusters := (hnoted .clusters (by decide)).trans (hcopied .clusters (by decide))
  exact ⟨cl_of hclusters, (duty_of_touch hnoted (by decide)).trans (State.copyRows_duty _ _ _ _ _), hnoted .mem (by decide)⟩

section
variable {op : DmaOp} {rest : List DmaOp} (hqueue : (s.cl cl).dmaQ = op :: rest)
include hqueue

theorem exec_dmaComplete_stopped (hclock : s.clocked cl = false) : exec (.dmaComplete cl [] []) s = .next s := by
  show execDmaComplete cl [] [] s = _
  unfold execDmaComplete
  rw [hqueue]
  exact congrArg Host.Outcome.next (if_pos (by rw [hclock]; rfl))
theorem exec_dmaComplete_local (hclock : s.clocked cl = true) (hkind : op.kind = .transfer) (hdesc : s.desc op.desc = some d) (hlocal : ddLocal d = true)
    (checks : List MemCheck) : exec (.dmaComplete cl checks []) s = .next
      (if (s.checked checks).1 = true then ((s.checked checks).2.rowsMoved cl op.step d op.rows).dmaRetire cl true else (s.checked checks).2) := by
  show execDmaComplete cl checks [] s = _
  unfold execDmaComplete State.rowsMoved
  rw [hqueue]
  dsimp only
  rw [if_neg (by rw [hclock]; decide), hkind, hdesc]
  dsimp only
  rw [if_neg (by rw [hlocal]; decide)]
  rfl
theorem exec_dmaComplete_remote (hclock : s.clocked cl = true) (hkind : op.kind = .transfer) (hdesc : s.desc op.desc = some d)
    (hremote : ddLocal d = false) : exec (.dmaComplete cl [] []) s = .next (s.dmaBegin cl []) := by
  show execDmaComplete cl [] [] s = _
  unfold execDmaComplete
  rw [hqueue]
  dsimp only
  rw [if_neg (by rw [hclock]; decide), hkind, hdesc]
  dsimp only
  rw [if_pos (by rw [hremote]; rfl)]
end

/-! ### Limber jobs (R202, R206, R209, R210) -/

theorem sb_mem (s : State) (m : List (Nat × Byte)) : SameBut [.mem] s { s with mem := m } := by
  intro p hp
  cases p with
  | mem => exact absurd (by decide) hp
  | _ => rfl
theorem sb_modLimber (s : State) (die : Nat) (g : Limber → Limber) : SameBut [.limbers] s (s.modLimber die g) := by
  intro p hp
  cases p with
  | limbers => exact absurd (by decide) hp
  | _ => rfl
theorem State.limber_modLimber (s : State) (die : Nat) (g : Limber → Limber) : (s.modLimber die g).limber die = g (s.limber die) :=
  sget_supd_same ({} : Limber) s.limbers die g

/-- The work of a job, and its tally, are nothing to clusters and limber engines. -/
def State.limberWorked (s : State) (die : Nat) (j : LimberJob) (d : Bytes) : State :=
  (limberWork (limberIo j d []) d j.rows s).2.2.addTally (dieSrc die) j.step (lbOut d) (limberWork (limberIo j d []) d j.rows s).2.1
theorem State.limberWorked_spec (s : State) (die : Nat) (j : LimberJob) (d : Bytes) : let t := s.limberWorked die j d
    (∀ n, t.cl n = s.cl n) ∧ t.limber die = s.limber die ∧ t.duty = s.duty ∧ t.mem = (limberWork (limberIo j d []) d j.rows s).2.2.mem := by
  have hwork : Touch [.log, .job, .banks, .stash, .cow, .host, .mem, .ctr, .out] s (limberWork (limberIo j d []) d j.rows s).2.2 :=
    limberWork_keeps (fun u : State => Touch [.log, .job, .banks, .stash, .cow, .host, .mem, .ctr, .out] s u) (limberIo j d []) d j.rows s
      (fun _ _ h => State.localRead_touch (by decide) _ _ _ _ _ h) (fun _ _ _ h => State.localRead_touch (by decide) _ _ _ _ _ h)
      (fun _ _ _ h => State.landWrite_touch (by decide) _ _ _ _ _ _ h) (Touch.refl _ s)
  have htally := State.addTally_touch (List.Subset.refl _) (limberWork (limberIo j d []) d j.rows s).2.2 (dieSrc die) j.step (lbOut d)
    (limberWork (limberIo j d []) d j.rows s).2.1 (Touch.refl _ _)
  have hclusters : (s.limberWorked die j d).clusters = s.clusters := (htally .clusters (by decide)).trans (hwork .clusters (by decide))
  have hlimbers : (s.limberWorked die j d).limbers = s.limbers := (htally .limbers (by decide)).trans (hwork .limbers (by decide))
  refine ⟨cl_of hclusters, ?_, (duty_of_touch htally (by decide)).trans (limberWork_duty j d [] j.rows s), htally .mem (by decide)⟩
  unfold State.limber
  rw [hlimbers]

/-- The running job has written its outputs, and its engine goes on to the rest. -/
def State.limberDone (s : State) (die : Nat) (j : LimberJob) (rest : List LimberJob) (d : Bytes) : State :=
  (((s.limberWorked die j d).modLimber die fun l => { l with queue := rest }).limberRetired die (limberWork (limberIo j d []) d j.rows s).1).modCl
    j.cluster fun c => { c with limberOps := c.limberOps.filter fun o => o.1 ≠ j.n }
theorem State.limberDone_spec (s : State) (die : Nat) (j : LimberJob) (rest : List LimberJob) (d : Bytes) : let t := s.limberDone die j rest d
    BecomesAt s t j.cluster { s.cl j.cluster with limberOps := (s.cl j.cluster).limberOps.filter fun o => o.1 ≠ j.n } ∧
    t.limber die = { s.limber die with queue := rest, jobs := (s.limber die).jobs + 1,
                                       products := (s.limber die).products + (limberWork (limberIo j d []) d j.rows s).1 } ∧
    t.mem = (limberWork (limberIo j d []) d j.rows s).2.2.mem := by
  obtain ⟨hcl, hlimber, hduty, hmem⟩ := s.limberWorked_spec die j d
  unfold State.limberDone
  generalize s.limberWorked die j d = v at *
  generalize (limberWork (limberIo j d []) d j.rows s).1 = n
  generalize hw : (v.modLimber die fun l => { l with queue := rest }).limberRetired die n = w
  have hcl' : ∀ m, w.cl m = v.cl m := by
    rw [← hw]
    exact fun _ => rfl
  have hduty' : w.duty = v.duty := by
    rw [← hw]
    rfl
  have hlimber' : w.limber die = { v.limber die with queue := rest, jobs := (v.limber die).jobs + 1, products := (v.limber die).products + n } := by
    rw [← hw]
    show ((v.modLimber die fun l => { l with queue := rest }).modLimber die fun l => { l with jobs := l.jobs + 1, products := l.products + n }).limber die = _
    rw [State.limber_modLimber, State.limber_modLimber]
  have hmem' : w.mem = v.mem := by
    rw [← hw]
    rfl
  have hmod := becomesAt_modCl w j.cluster fun c => { c with limberOps := c.limberOps.filter fun o => o.1 ≠ j.n }
  rw [hcl', hcl] at hmod
  exact ⟨⟨hmod.here, fun m hm => (hmod.others m hm).trans ((hcl' m).trans (hcl m)), hmod.duty.trans (hduty'.trans hduty)⟩,
    by rw [← hlimber]; exact hlimber', hmem'.trans hmem⟩
theorem exec_limberJobComplete {die : Nat} {j : LimberJob} {rest : List LimberJob} (hqueue : (s.limber die).queue = j :: rest)
    (hdesc : s.desc j.desc = some d) : exec (.limberJobComplete die [] []) s = .next
      (if s.arithStopped (clDie j.cluster / 6) = true then s else (s.limberDone die j rest d).settle j.cluster) := by
  show execLimberJobComplete die [] [] s = _
  unfold execLimberJobComplete
  rw [hqueue]
  dsimp only
  rw [hdesc]
  rfl

/-- The limber queue of a cluster's die takes the job at the head of its DMA queue. -/
def State.limberTaken (s : State) (cl : Nat) (op : DmaOp) (rest : List DmaOp) : State :=
  (s.modCl cl fun c => { c with dmaQ := rest, limberOps := c.limberOps ++ [(op.n, op.step, op.idx)] }).modLimber (s.physDie (clDie cl))
    fun l => { l with queue := l.queue ++ [⟨cl, op.n, op.desc, op.rows, op.step⟩], stopped := false }
theorem State.limberTaken_spec (s : State) (cl : Nat) (op : DmaOp) (rest : List DmaOp) : let t := s.limberTaken cl op rest
    (t.cl cl).dmaQ = rest ∧ (t.cl cl).limberOps = (s.cl cl).limberOps ++ [(op.n, op.step, op.idx)] ∧
      (t.limber (s.physDie (clDie cl))).queue = (s.limber (s.physDie (clDie cl))).queue ++ [⟨cl, op.n, op.desc, op.rows, op.step⟩] ∧
      SameBut [.clusters, .limbers] s t := by
  have hcl := cl_modCl s cl fun c => { c with dmaQ := rest, limberOps := c.limberOps ++ [(op.n, op.step, op.idx)] }
  have htaken := State.limber_modLimber (s.modCl cl fun c => { c with dmaQ := rest, limberOps := c.limberOps ++ [(op.n, op.step, op.idx)] })
    (s.physDie (clDie cl)) fun l => { l with queue := l.queue ++ [⟨cl, op.n, op.desc, op.rows, op.step⟩], stopped := false }
  exact ⟨congrArg Cluster.dmaQ hcl, congrArg Cluster.limberOps hcl, congrArg Limber.queue htaken,
    ((sb_modCl s cl _).trans (sb_modLimber _ _ _)).mono (by decide)⟩
theorem exec_limberJobAccept {op : DmaOp} {rest : List DmaOp} (hqueue : (s.cl cl).dmaQ = op :: rest) (hkind : op.kind = .limber) :
    exec (.limberJobAccept cl) s = .next
      (if s.clocked cl = true ∧ (s.limber (s.physDie (clDie cl))).queue.length ≤ 64 then s.limberTaken cl op rest else s) := by
  show execLimberJobAccept cl s = _
  unfold execLimberJobAccept
  rw [hqueue]
  simp only [hkind, true_and]
  rfl

/-! ### Banks (R245, R248) -/

theorem State.bank_of {t : State} (h : t.banks = s.banks) (die i : Nat) : t.bank die i = s.bank die i := by
  unfold State.bank
  rw [h]
theorem State.limber_of {t : State} (h : t.limbers = s.limbers) (die : Nat) : t.limber die = s.limber die := by
  unfold State.limber
  rw [h]

/-- The bank once its write is done: a write that waits is taken up. -/
def Bank.handedOver (b : Bank) (w : BankWrite) : Bank :=
  match b.queued with
  | [] => { b with owner := (b.target w.value).2, handover := none }
  | q :: rest => ({ b with owner := (b.target w.value).2, handover := none, queued := rest } : Bank).begin q
theorem exec_bankHandoverComplete {die bank : Nat} {w : BankWrite} (hwrite : (s.bank die bank).handover = some w)
    (htransition : (s.bank die bank).transition = false) (hjob : s.job.state ≠ .fault) : exec (.bankHandoverComplete die bank) s = .next
      (if s.arithStopped (clDie w.cluster / 6) = true then s
       else (s.modBank die bank fun _ => (s.bank die bank).handedOver w).bankRetire w) := by
  show execBankHandoverComplete die bank s = _
  unfold execBankHandoverComplete Bank.handedOver
  dsimp only
  rw [hwrite]
  dsimp only
  rw [htransition]
  simp only [hjob, Bool.false_eq_true, false_or] <;> rfl
theorem exec_bankPowerTransitionDone {die bank : Nat} (htransition : (s.bank die bank).transition = true) (hjob : s.job.state ≠ .fault) :
    exec (.bankPowerTransitionDone die bank) s = .next
      (if (s.bank die bank).powerNow = 2
       then { s.modBank die bank fun b => { b with powerNow := b.power, transition := false } with
              mem := clearRange s.mem (bankRange die bank).1 (bankRange die bank).2 }
       else s.modBank die bank fun b => { b with powerNow := b.power, transition := false }) := by
  show execBankPowerTransitionDone die bank s = _
  unfold execBankPowerTransitionDone
  dsimp only
  rw [if_neg (by rw [htransition]; simpa using hjob)]
  rfl

end Sys2Proof.Machine
end

section
open Sys2Proof Sys2Proof.Machine

/-- Settles O47: each completion retires the head of its queue with its effect. -/
theorem dmaWorkCompletes : Obligations.DmaWorkCompletes := by
  unfold Obligations.DmaWorkCompletes
  refine ⟨fun s cl op rest d hqueue hkind hdesc => ⟨fun hclock => ⟨s, exec_dmaComplete_stopped hqueue hclock, rfl⟩, fun hclock hontime hlocal => ?_,
      fun hclock hlocal die code line reads hbad => ?_, fun hclock hremote hdone => ?_⟩,
    fun s cl op rest hqueue hkind => ?_, fun s die j rest d hqueue hdesc hontime => ⟨_, exec_limberJobComplete hqueue hdesc, ?_⟩,
    fun s die bank w op rest hwrite htransition hjob hqueue hn hkind hontime => ⟨_, exec_bankHandoverComplete hwrite htransition hjob, ?_⟩,
    fun s die bank htransition hjob => ⟨_, exec_bankPowerTransitionDone htransition hjob, ?_⟩⟩
  · have hexec := exec_dmaComplete_local hqueue hclock hkind hdesc hlocal []
    obtain ⟨hcl, hduty, hmem⟩ := s.rowsMoved_spec cl op.step d op.rows
    obtain ⟨hwork, -, hsame⟩ := State.dmaRetire_spec (rest := rest) (op := op) (by rw [hcl]; exact hqueue) (onTime_duty hduty (by rw [hcl]) hontime)
    have hcopied := (hsame .mem (by decide)).trans hmem
    refine ⟨_, hexec, congrArg Cluster.dmaQ hwork, hcopied, fun hone _ _ hsrc hdst hreleased hpages => hcopied.trans ?_⟩
    rw [hone]
    exact s.copyRows_one cl op.step hsrc hdst hreleased hpages
  · have hexec := exec_dmaComplete_local hqueue hclock hkind hdesc hlocal [.sram die code line reads]
    obtain ⟨x, hx⟩ := State.checkedLine_bad (s := s) (die := die) hbad
    have hchecked : s.checked [.sram die code line reads] = (false, s.fault (dieSrc die) 0x1100 x) := (s.checked_one _).trans hx
    rw [hchecked] at hexec
    obtain ⟨hfaulted, hlatch, hmem, -⟩ := fault_spec_of s (dieSrc die) 0x1100 x rfl rfl
    exact ⟨_, hexec, hfaulted, hlatch, hmem⟩
  · obtain ⟨hsent, hnext, hmem⟩ := State.dmaBegin_sends hqueue hdesc hkind hremote hdone
    exact ⟨_, exec_dmaComplete_remote hqueue hclock hkind hdesc hremote, congrArg Cluster.dmaQ hsent.here, hnext, hmem⟩
  · refine ⟨_, exec_limberJobAccept hqueue hkind, ?_⟩
    dsimp only
    split
    · exact s.limberTaken_spec cl op rest
    · rfl
  · split
    · rfl
    · obtain ⟨hbecomes, hlimber, hmem⟩ := s.limberDone_spec die j rest d
      obtain ⟨hwork, -, hsame⟩ := hbecomes.settle hontime rfl
      rw [State.limber_of (hsame .limbers (by decide)), hlimber]
      exact ⟨rfl, rfl, (hsame .mem (by decide)).trans hmem, rfl, congrArg Cluster.limberOps hwork⟩
  · split
    · rfl
    · have hretire : (s.modBank die bank fun _ => (s.bank die bank).handedOver w).bankRetire w =
          (s.modBank die bank fun _ => (s.bank die bank).handedOver w).dmaRetire w.cluster true := by
        unfold State.bankRetire
        rw [show ((s.modBank die bank fun _ => (s.bank die bank).handedOver w).cl w.cluster).dmaQ = op :: rest from hqueue]
        exact if_pos ⟨hn, hkind⟩
      rw [hretire]
      obtain ⟨hwork, -, hsame⟩ := State.dmaRetire_spec (s := s.modBank die bank fun _ => (s.bank die bank).handedOver w) hqueue hontime
      have hparts := (sb_modBank s die bank fun _ => (s.bank die bank).handedOver w).trans hsame
      refine ⟨congrArg Cluster.dmaQ hwork, hparts.mono (by decide), ?_⟩
      dsimp only
      rw [State.bank_of (hsame .banks (by decide)), s.bank_modBank die bank]
      unfold Bank.handedOver
      cases hwaiting : (s.bank die bank).queued with
      | nil => rfl
      | cons q rest => rfl
  · have hdone := s.bank_modBank die bank fun b => { b with powerNow := b.power, transition := false }
    have hbanks := sb_modBank s die bank fun b => { b with powerNow := b.power, transition := false }
    split
    · next hoff =>
      refine ⟨(hbanks.trans (sb_mem _ _)).mono (by decide), hdone, fun a _ hfrom hto => readByte_clearRange_in s.mem hfrom hto, fun a ha => ?_⟩
      exact (readByte_clearRange s.mem _ _ a).trans (if_pos (ha.resolve_left (not_not.2 hoff)))
    · next hon =>
      exact ⟨hbanks.mono (by decide), hdone, fun a hoff => absurd hoff hon, fun a _ => rfl⟩
end

section
/-! SUPPORT and PROOFS. Waits, signals, bound loads and masks execute at issue (R152, R157 to R159, R167, R174 to R178, R393). -/

namespace Sys2Proof.Machine

/-! ### What giving signals and the end of a pass do to the sync objects -/

theorem State.signal_relay (s : State) (src inc step : Nat) {id : Nat} (h : 0x3E00 ≤ id) : (s.signal src id inc step).sync = s.sync := by
  unfold State.signal
  dsimp only
  rw [if_pos h]
  split
  · exact State.sendOn_touch (List.Subset.refl _) s _ _ _ _ _ _ (Touch.refl _ s) .sync (by decide)
  · exact State.event_touch (List.Subset.refl _) s _ _ _ (Touch.refl _ s) .sync (by decide)
theorem State.signal_object (s : State) (src inc step : Nat) {id : Nat} (h : id < 0x3E00) : s.signal src id inc step =
    { s with sync := { s.sync with transit := s.sync.transit ++ [⟨src, id, inc, step, s.replica (src / 512)⟩] } } :=
  if_neg (Nat.not_le.2 h)
theorem State.signal_waits (s : State) (src id inc step : Nat) : (s.signal src id inc step).sync.waits = s.sync.waits := by
  rcases Nat.lt_or_ge id 0x3E00 with h | h
  · rw [State.signal_object s src inc step h]
  · rw [State.signal_relay s src inc step h]
theorem State.giveSignals_waits (s : State) (cl : Nat) : (s.giveSignals cl).sync.waits = s.sync.waits := by
  unfold State.giveSignals
  refine (foldl_same (fun s : State => s.sync.waits) _ _ _ fun u g => ?_).trans rfl
  split
  · rfl
  · exact State.signal_waits _ _ _ _ _
theorem State.giveSignals_clusters (s : State) (cl : Nat) : (s.giveSignals cl).clusters =
    (s.modCl cl fun c => { c with signals := c.signals.filter fun g => !c.signalReady g }).clusters := by
  unfold State.giveSignals
  refine foldl_same State.clusters _ _ _ fun u g => ?_
  split
  · rfl
  · exact State.signal_touch (List.Subset.refl _) u _ _ _ _ (Touch.refl _ u) .clusters (by decide)
theorem State.giveSignals_signals (s : State) (cl : Nat) :
    ((s.giveSignals cl).cl cl).signals = (s.cl cl).signals.filter fun g => (s.cl cl).signalReady g = false := by
  rw [cl_of (s.giveSignals_clusters cl), cl_modCl]
  exact List.filter_congr fun g _ => by cases (s.cl cl).signalReady g <;> rfl
/-- The only signal that a cluster owes goes onto the fabric once its queues are clear; a zero increment and a relay change no object. -/
theorem State.giveSignals_only {s : State} {cl : Nat} {g : PendSignal} (h : (s.cl cl).signals = [g]) :
    (g.inc = 0 ∨ (s.cl cl).signalReady g = false ∨ 0x3E00 ≤ g.id → (s.giveSignals cl).sync = s.sync) ∧
    (g.inc ≠ 0 → (s.cl cl).signalReady g = true → g.id < 0x3E00 → (s.giveSignals cl).sync =
      { s.sync with transit := s.sync.transit ++ [⟨s.seqSrc cl, g.id, g.inc, g.step, s.replica (s.seqSrc cl / 512)⟩] }) := by
  unfold State.giveSignals
  dsimp only
  rw [h]
  cases hready : (s.cl cl).signalReady g with
  | false =>
    rw [List.filter_cons_of_neg (by rw [hready]; decide)]
    exact ⟨fun _ => rfl, fun _ hr => absurd hr (by decide)⟩
  | true =>
    rw [List.filter_cons_of_pos (by rw [hready])]
    dsimp only [List.foldl]
    refine ⟨fun hnone => ?_, fun hinc _ hid => ?_⟩
    · split
      · rfl
      · next hinc => exact State.signal_relay _ _ _ _ ((hnone.resolve_left hinc).resolve_left (by decide))
    · rw [if_neg hinc, State.signal_object _ _ _ _ hid]
      rfl
theorem State.wrap_onTime_signals {s : State} {cl : Nat} (h : OnTime s cl) :
    (s.wrap cl).sync = s.sync ∧ ((s.wrap cl).cl cl).signals = (s.cl cl).signals := by
  rcases s.wrap_onTime cl h with e | ⟨n, e⟩
  · rw [e]
    exact ⟨rfl, rfl⟩
  · rw [e]
    dsimp only
    split
    · exact ⟨rfl, by rw [cl_modCl]⟩
    · refine ⟨State.event_touch (List.Subset.refl _) _ _ _ _ (Touch.refl _ _) .sync (by decide), ?_⟩
      rw [cl_of (event_clusters _ _ _ _), cl_bump, cl_modCl]
theorem State.giveSignals_onTime {s : State} {cl : Nat} (h : OnTime s cl) : OnTime (s.giveSignals cl) cl := by
  obtain ⟨⟨-, hstep⟩, -, -, hsame⟩ := s.giveSignals_spec cl
  exact onTime_of (hsame .job (by decide)) hstep h
theorem State.settle_waits {s : State} {cl : Nat} (h : OnTime s cl) : (s.settle cl).sync.waits = s.sync.waits :=
  (congrArg Sync.waits (State.wrap_onTime_signals (State.giveSignals_onTime h)).1).trans (s.giveSignals_waits cl)
theorem State.settle_signals {s : State} {cl : Nat} (h : OnTime s cl) :
    ((s.settle cl).cl cl).signals = (s.cl cl).signals.filter fun g => (s.cl cl).signalReady g = false :=
  (State.wrap_onTime_signals (State.giveSignals_onTime h)).2.trans (s.giveSignals_signals cl)
theorem State.settle_sync {s : State} {cl : Nat} (h : OnTime s cl) : (s.settle cl).sync = (s.giveSignals cl).sync :=
  (State.wrap_onTime_signals (State.giveSignals_onTime h)).1

/-! ### Waits and signals -/

theorem State.syncDecl_congr {s u : State} (hjob : u.job = s.job) (id : Nat) : u.syncDecl id = s.syncDecl id := by
  rw [State.syncDecl, hjob, State.syncDecl]
/-- What a cluster that waits on an object is. -/
def Cluster.waitsOn (c : Cluster) (id target : Nat) : Cluster := { c with wait := .sync id target }
theorem actsAs_registerWait (u : State) (cl id target : Nat) : ActsAs u (u.registerWait cl id target) cl (fun c => c.waitsOn id target) := by
  have hact := actsAs_modCl ({ u with sync := { u.sync with
    waits := (u.sync.waits.filter fun x => x.cluster ≠ cl) ++ [⟨cl, id, target, decide (target ≤ u.syncValue id)⟩] } } : State) cl
    fun c => { c with wait := .sync id target }
  exact ⟨hact.here, hact.others, hact.issued, hact.duty⟩
theorem State.registerWait_same (u : State) (cl id target : Nat) : SameBut [.clusters, .sync] u (u.registerWait cl id target) :=
  SameBut.mono (State.registerWait_touch (List.Subset.refl _) u cl id target (Touch.refl _ u)) (by decide)
/-- A signal has taken its place among those that a cluster owes. -/
def Cluster.owes (c : Cluster) (f : Fetched) : Cluster :=
  { c with
    issueNo := c.issueNo + 1
    signals := c.signals ++ [⟨c.issueNo, bitsOf f.word 122 109, bitsOf f.word 108 105, bitsOf f.word 104 89, f.step, f.idx⟩] }
/-- What `SYNC_SIGNAL` does. -/
def State.owe (u : State) (cl : Nat) (f : Fetched) : State :=
  let n := (u.cl cl).issueNo
  let g : PendSignal := ⟨n, bitsOf f.word 122 109, bitsOf f.word 108 105, bitsOf f.word 104 89, f.step, f.idx⟩
  (u.place cl).2.modCl cl fun c => { c with signals := c.signals ++ [g] }
theorem actsAs_owe (u : State) (cl : Nat) (f : Fetched) : ActsAs u (u.owe cl f) cl (fun c => c.owes f) := by
  have hact := (actsAs_modCl u cl fun c => { c with issueNo := c.issueNo + 1 }).trans
    (actsAs_modCl _ cl fun c => { c with signals := c.signals ++
      [⟨(u.cl cl).issueNo, bitsOf f.word 122 109, bitsOf f.word 108 105, bitsOf f.word 104 89, f.step, f.idx⟩] })
  exact ⟨hact.here, hact.others, hact.issued, hact.duty⟩
theorem State.owe_same (u : State) (cl : Nat) (f : Fetched) : SameBut [.clusters] u (u.owe cl f) :=
  ((sb_modCl u cl _).trans (sb_modCl _ cl _)).mono (by decide)

/-- What a cluster that waits for a point in the step is. -/
def Cluster.waitsFor (c : Cluster) (o : Int) (sub : Nat) : Cluster := { c with wait := .beat o sub }
/-- What `BEAT_WAIT` does. -/
def State.beatWait (u : State) (cl : Nat) (f : Fetched) : State :=
  let o := signed 32 (bitsOf f.word 122 91)
  let sub := bitsOf f.word 90 75
  if u.pointOf f.step o sub ≤ u.planNow then u else u.modCl cl fun c => c.waitsFor o sub
theorem State.passed_congr {s u : State} (hjob : u.job = s.job) (htime : u.time = s.time) (f : Fetched) :
    u.pointOf f.step (signed 32 (bitsOf f.word 122 91)) (bitsOf f.word 90 75) ≤ u.planNow ↔
      s.pointOf f.step (signed 32 (bitsOf f.word 122 91)) (bitsOf f.word 90 75) ≤ s.planNow := by
  unfold State.pointOf State.stepBegin State.planNow State.stamp
  rw [hjob, htime]

/-! ### Loads of bound and mask registers -/

/-- A load of a register of a cluster is in flight. -/
def Cluster.loading (c : Cluster) (mask : Bool) (f : Fetched) : Cluster :=
  { c with issueNo := c.issueNo + 1, loads := c.loads ++ [⟨c.issueNo, mask, f.word, f.step, f.idx⟩] }
theorem actsAs_loadIssue (u : State) (cl : Nat) (mask : Bool) (f : Fetched) : ActsAs u (u.loadIssue cl mask f) cl (fun c => c.loading mask f) := by
  have hact := (actsAs_modCl u cl fun c => { c with issueNo := c.issueNo + 1 }).trans
    (actsAs_modCl _ cl fun c => { c with loads := c.loads ++ [⟨(u.cl cl).issueNo, mask, f.word, f.step, f.idx⟩] })
  exact ⟨hact.here, hact.others, hact.issued, hact.duty⟩
theorem State.loadIssue_same (u : State) (cl : Nat) (mask : Bool) (f : Fetched) : SameBut [.clusters] u (u.loadIssue cl mask f) :=
  ((sb_modCl u cl _).trans (sb_modCl _ cl _)).mono (by decide)

section
variable {s : State} {cl : Nat} {f : Fetched}

/-- The checks of `BOUND_LOAD` look at nothing that a signature changes. -/
theorem State.boundCheck_sign (h : Issues s cl f) : (s.sign cl f).boundCheck cl f = s.boundCheck cl f := by
  obtain ⟨sg, hcl⟩ := State.sign_cl h
  have hjob : (s.sign cl f).job = s.job := State.sign_same h .job (by decide)
  have hclass : ∀ k, (s.sign cl f).shapeClass k = s.shapeClass k := fun k => by rw [State.shapeClass, hjob, State.shapeClass]
  have hload : ∀ k, (s.sign cl f).loadable k = s.loadable k := fun k => by rw [State.loadable, hclass, State.loadable]
  have hderived : ((s.sign cl f).cl cl).derived f.word = (s.cl cl).derived f.word := by rw [hcl]; rfl
  unfold State.boundCheck
  dsimp only
  rw [hderived, hclass, hload]

/-- An instruction that a command selects and whose fields fail a check is a fault. -/
theorem State.issue_field (h : Issues s cl f) {sel : State → Nat → Bool} {check : State → Fetched → Verdict} {act : State → Fetched → State}
    {r : Nat} (hsel : sel s f.word = true) (hcheck : check (s.sign cl f) f = .field r) :
    ∃ t, s.issue cl sel check act = t ∧ Faulted t (s.seqSrc cl) 0x2402 ∧ t.safe.latch = true ∧ t.mem = s.mem := by
  have hsame := (State.sign_same h).trans (sb_modCl (s.sign cl f) cl fun c => { c with index := c.index + 1 })
  have hissue : s.issue cl sel check act = ((s.sign cl f).skip1 cl).checkFail cl f r := by
    have hrun : ¬(s.sign cl f).job.state = .fault := (State.sign_same h .job (by decide) : (s.sign cl f).job = s.job) ▸ h.job_ne_fault
    unfold State.issue
    rw [h.1]
    dsimp only
    rw [if_pos hsel, if_neg hrun, hcheck]
  have hmem := (hsame.trans (sb_modCl _ cl fun c => { c with lastReason := r })) .mem (by decide)
  have hsrc : (((s.sign cl f).skip1 cl)).seqSrc cl = s.seqSrc cl := by
    have hstart : ((s.sign cl f).skip1 cl).start = s.start := hsame .start (by decide)
    unfold State.seqSrc State.physDie
    rw [hstart]
  refine ⟨_, hissue, ?_⟩
  unfold State.checkFail
  rw [hsrc]
  unfold State.skip1 at *
  generalize State.modCl _ cl (fun c => { c with lastReason := r }) = v at *
  obtain ⟨hfaulted, hlatch, -⟩ := v.fault_spec (s.seqSrc cl) 0x2402 (u8 r ++ u32 (iClass f.word) ++ u16 f.idx)
  exact ⟨hfaulted, hlatch, Eq.trans (by simp) hmem⟩
theorem State.issue_bound (h : Issues s cl f) {sel : State → Nat → Bool} {check : State → Fetched → Verdict} {act : State → Fetched → State}
    {k v m : Nat} (hsel : sel s f.word = true) (hcheck : check (s.sign cl f) f = .bound k v m) :
    s.issue cl sel check act = (((s.sign cl f).skip1 cl).boundFail cl f k v m).settle cl := by
  have hrun : ¬(s.sign cl f).job.state = .fault := (State.sign_same h .job (by decide) : (s.sign cl f).job = s.job) ▸ h.job_ne_fault
  unfold State.issue
  rw [h.1]
  dsimp only
  rw [if_pos hsel, if_neg hrun, hcheck]
theorem State.skip1_same (h : Issues s cl f) : SameBut [.clusters, .ctr] s ((s.sign cl f).skip1 cl) :=
  ((State.sign_same h).trans (sb_modCl (s.sign cl f) cl fun c => { c with index := c.index + 1 })).mono (by decide)
/-- A bound above its maximum in a late phase is a fault. -/
theorem State.boundFail_late (h : Issues s cl f) (k v m : Nat) (hphase : 2 < f.st.phaseOf f.idx) :
    let t := (((s.sign cl f).skip1 cl).boundFail cl f k v m).settle cl
    Faulted t (s.seqSrc cl) 0x2401 ∧ t.safe.latch = true ∧ t.mem = s.mem := by
  intro t
  have hsame := State.skip1_same h
  have hsrc : (((s.sign cl f).skip1 cl)).seqSrc cl = s.seqSrc cl := by
    have hstart : ((s.sign cl f).skip1 cl).start = s.start := hsame .start (by decide)
    unfold State.seqSrc State.physDie
    rw [hstart]
  have hmem : ((s.sign cl f).skip1 cl).mem = s.mem := hsame .mem (by decide)
  have ht : t = State.settle (((s.sign cl f).skip1 cl).fault (s.seqSrc cl) 0x2401 (u8 k ++ u16 f.idx ++ u32 v ++ u32 m)) cl := by
    rw [← hsrc]
    exact congrArg (fun u => State.settle u cl) (if_neg (Nat.not_le.2 hphase))
  rw [ht]
  generalize (s.sign cl f).skip1 cl = u at *
  obtain ⟨hfaulted, hlatch, -⟩ := u.fault_spec (s.seqSrc cl) 0x2401 (u8 k ++ u16 f.idx ++ u32 v ++ u32 m)
  have hsettle := State.settle_sameBut (u.fault (s.seqSrc cl) 0x2401 (u8 k ++ u16 f.idx ++ u32 v ++ u32 m)) cl
  refine ⟨hfaulted.settle cl, (congrArg Safety.latch (hsettle .safe (by decide))).trans hlatch, (hsettle .mem (by decide)).trans ?_⟩
  rw [← hmem]
  exact (by simp : (u.fault (s.seqSrc cl) 0x2401 (u8 k ++ u16 f.idx ++ u32 v ++ u32 m)).mem = u.mem)
theorem State.straggle_straggles (s : State) (k : Nat) : ((s.straggle k).stepRec k).straggles = true := by
  cases hs : (s.stepRec k).straggles with
  | true => rwa [State.straggle_of_straggles hs]
  | false => rw [State.straggle_stepRec hs]
/-- A bound above its maximum in an early phase makes the module a straggler. -/
theorem State.boundFail_early (h : Issues s cl f) (k v m : Nat) (hphase : f.st.phaseOf f.idx ≤ 2) :
    let t := (((s.sign cl f).skip1 cl).boundFail cl f k v m).settle cl
    (t.stepRec f.step).straggles = true ∧ t.mem = s.mem ∧ t.safe = s.safe := by
  intro t
  have hsame := State.skip1_same h
  generalize hu : (s.sign cl f).skip1 cl = u at *
  have ht : t = State.settle (u.boundFail cl f k v m) cl := congrArg (fun u => State.settle (State.boundFail u cl f k v m) cl) hu
  unfold State.boundFail at ht
  dsimp only at ht
  rw [if_pos hphase] at ht
  have hevent := State.event_touch (List.Subset.refl _) u (u.seqSrc cl) 0x2400 (u8 k ++ u16 f.idx ++ u32 v ++ u32 m) (Touch.refl _ u)
  have hmem : (u.event (u.seqSrc cl) 0x2400 (u8 k ++ u16 f.idx ++ u32 v ++ u32 m)).mem = s.mem := (hevent .mem (by decide)).trans (hsame .mem (by decide))
  have hsafe : (u.event (u.seqSrc cl) 0x2400 (u8 k ++ u16 f.idx ++ u32 v ++ u32 m)).safe = s.safe := (hevent .safe (by decide)).trans (hsame .safe (by decide))
  generalize u.event (u.seqSrc cl) 0x2400 (u8 k ++ u16 f.idx ++ u32 v ++ u32 m) = e at *
  generalize hw : ({ e.bump kBoundExceeded 1 with job := { (e.bump kBoundExceeded 1).job with
    lastBound := [clDie cl, clRegion cl, cl % 4, k, f.idx, v, m] } } : State) = w at *
  have hwmem : w.mem = s.mem := by rw [← hw]; exact hmem
  have hwsafe : w.safe = s.safe := by rw [← hw]; exact hsafe
  have hstraggle := State.straggle_touch (List.Subset.refl _) w f.step (Touch.refl _ w)
  have hsettle := State.settle_sameBut (w.straggle f.step) cl
  rw [ht]
  refine ⟨?_, (hsettle .mem (by decide)).trans ((hstraggle .mem (by decide)).trans hwmem),
    (hsettle .safe (by decide)).trans ((w.straggle_safe f.step).trans hwsafe)⟩
  unfold State.stepRec
  rw [show ((w.straggle f.step).settle cl).job = (w.straggle f.step).job from hsettle .job (by decide)]
  exact w.straggle_straggles f.step

end
end Sys2Proof.Machine
end

section
open Sys2Proof Sys2Proof.Machine

variable {s : State} {cl : Nat} {f : Fetched}

/-- `SYNC_WAIT` registers with the home of its object. -/
theorem syncWaitRegisters (h : Issues s cl f) (hontime : OnTime s cl) (hclass : iClass f.word = 11) :
    let id := bitsOf f.word 122 109
    let target := if bitsOf f.word 108 108 = 1 then bitsOf f.word 107 76 else (s.syncDecl id).target
    ∃ t, exec (.syncWait cl) s = .next t ∧ SameBut issueParts s t ∧ Issued s t cl ((s.cl cl).waitsOn id target) ∧
      t.sync.waits = s.sync.waits.filter (fun x => x.cluster ≠ cl) ++ [⟨cl, id, target, decide (target ≤ s.syncValue id)⟩] := by
  intro id target
  obtain ⟨-, -, -, hsame⟩ := State.step1_spec h
  have htarget : ((s.sign cl f).step1 cl).waitTarget f.word = target := by
    unfold State.waitTarget
    rw [State.syncDecl_congr (hsame .job (by decide))]
  have hexec : exec (.syncWait cl) s = .next ((((s.sign cl f).step1 cl).registerWait cl id (((s.sign cl f).step1 cl).waitTarget f.word)).settle cl) :=
    congrArg Host.Outcome.next (State.issue_ok h (fun _ w => iClass w = 11) (fun _ _ => .ok)
      (fun s f => s.registerWait cl (bitsOf f.word 122 109) (s.waitTarget f.word)) (decide_eq_true hclass) rfl)
  rw [htarget] at hexec
  have hacts := actsAs_registerWait ((s.sign cl f).step1 cl) cl id target
  obtain ⟨hparts, hissued⟩ := hacts.settled h hontime (fun _ _ _ _ => ⟨rfl, rfl⟩) (State.registerWait_same _ cl id target)
  refine ⟨_, hexec, hparts.mono (by decide), hissued, ?_⟩
  have hlate : OnTime (((s.sign cl f).step1 cl).registerWait cl id target) cl :=
    onTime_duty hacts.duty (by rw [hacts.here]; rfl) (State.step1_onTime h hontime)
  have hsync : ((s.sign cl f).step1 cl).sync = s.sync := hsame .sync (by decide)
  have hwaits : (((s.sign cl f).step1 cl).registerWait cl id target).sync.waits =
    ((s.sign cl f).step1 cl).sync.waits.filter (fun x => x.cluster ≠ cl)
      ++ [⟨cl, id, target, decide (target ≤ ((s.sign cl f).step1 cl).syncValue id)⟩] := rfl
  rw [State.settle_waits hlate, hwaits]
  unfold State.syncValue
  rw [hsync]

/-- `SYNC_SIGNAL` takes its place, and is given once its queues are clear. -/
theorem syncSignalIsGiven (h : Issues s cl f) (hontime : OnTime s cl) (hclass : iClass f.word = 12) :
    let c := s.cl cl
    let id := bitsOf f.word 122 109
    let g : PendSignal := ⟨c.issueNo, id, bitsOf f.word 108 105, bitsOf f.word 104 89, f.step, f.idx⟩
    ∃ t, exec (.syncSignal cl) s = .next t ∧ SameBut issueParts s t ∧ Issued s t cl { c with issueNo := c.issueNo + 1 } ∧
      (t.cl cl).signals = (c.signals ++ [g]).filter (fun g => c.signalReady g = false) ∧
      (c.signals = [] → bitsOf f.word 104 89 = 0 ∨ c.signalReady g = false ∨ 0x3E00 ≤ id → t.sync = s.sync) ∧
      (c.signals = [] → bitsOf f.word 104 89 ≠ 0 → c.signalReady g = true → id < 0x3E00 →
        t.sync = { s.sync with transit := s.sync.transit ++ [⟨s.seqSrc cl, id, bitsOf f.word 104 89, f.step, s.replica (s.seqSrc cl / 512)⟩] }) := by
  intro c id g
  obtain ⟨⟨i, sg, hcl⟩, -, -, hsame⟩ := State.step1_spec h
  have hexec : exec (.syncSignal cl) s = .next ((((s.sign cl f).step1 cl).owe cl f).settle cl) :=
    congrArg Host.Outcome.next (State.issue_ok h (fun _ w => iClass w = 12) (fun _ _ => .ok) (fun s f => s.owe cl f) (decide_eq_true hclass) rfl)
  have hacts := actsAs_owe ((s.sign cl f).step1 cl) cl f
  obtain ⟨hparts, hissued⟩ := hacts.settled h hontime (fun _ _ _ _ => ⟨rfl, rfl⟩) (State.owe_same _ cl f)
  have hlate : OnTime (((s.sign cl f).step1 cl).owe cl f) cl :=
    onTime_duty hacts.duty (by rw [hacts.here]; rfl) (State.step1_onTime h hontime)
  have hsignals : ((((s.sign cl f).step1 cl).owe cl f).cl cl).signals = c.signals ++ [g] := by
    rw [hacts.here, hcl]
    rfl
  have hready : ((((s.sign cl f).step1 cl).owe cl f).cl cl).signalReady = c.signalReady := by
    rw [hacts.here, hcl]
    rfl
  have hall := hsame.trans (State.owe_same ((s.sign cl f).step1 cl) cl f)
  have hsync : (((s.sign cl f).step1 cl).owe cl f).sync = s.sync := hall .sync (by decide)
  have hstart : (((s.sign cl f).step1 cl).owe cl f).start = s.start := hall .start (by decide)
  have htime : (((s.sign cl f).step1 cl).owe cl f).time = s.time := hall .time (by decide)
  refine ⟨_, hexec, hparts.mono (by decide), ⟨hissued.1, hissued.2⟩, ?_, fun hnone => ?_, fun hnone => ?_⟩
  · rw [State.settle_signals hlate, hsignals, hready]
  all_goals
    rw [State.settle_sync hlate]
    generalize ((s.sign cl f).step1 cl).owe cl f = v at *
    obtain ⟨hquiet, hgiven⟩ := State.giveSignals_only (s := v) (cl := cl) (g := g) (by rw [hsignals, hnone]; rfl)
    rw [hready, hsync] at *
  · exact hquiet
  · have hsrc : v.seqSrc cl = s.seqSrc cl := by
      unfold State.seqSrc State.physDie
      rw [hstart]
    have hreplica : ∀ d, v.replica d = s.replica d := fun d => by
      unfold State.replica State.stamp
      rw [htime]
    rw [hsrc, hreplica] at hgiven
    exact hgiven

/-- An instruction that only sets registers of its cluster, or waits, executes at issue. -/
theorem setsAtIssue (h : Issues s cl f) (hontime : OnTime s cl) {i : Instr} {sel : State → Nat → Bool} {check : State → Fetched → Verdict}
    {act : State → Fetched → State} (hexec : exec i s = .next (s.issue cl sel check act)) (hsel : sel s f.word = true)
    (hcheck : check (s.sign cl f) f = .ok) {g : Cluster → Cluster} (hg : Unplaced g)
    (hact : ActsAs ((s.sign cl f).step1 cl) (act ((s.sign cl f).step1 cl) f) cl g)
    (hsame : SameBut [.clusters] ((s.sign cl f).step1 cl) (act ((s.sign cl f).step1 cl) f)) :
    ∃ t, exec i s = .next t ∧ Issued s t cl (g (s.cl cl)) ∧ SameBut issueParts s t := by
  obtain ⟨t, ht, hparts, hissued⟩ := State.issue_acts h hontime hsel hcheck hg hact hsame
  exact ⟨t, hexec.trans (congrArg Host.Outcome.next ht), hissued, hparts.mono (by decide)⟩

theorem beatWaitIssues (h : Issues s cl f) (hontime : OnTime s cl) (hclass : iClass f.word = 13) :
    ∃ t, exec (.beatWait cl) s = .next t ∧ Issued s t cl
      (if s.pointOf f.step (signed 32 (bitsOf f.word 122 91)) (bitsOf f.word 90 75) ≤ s.planNow then s.cl cl
       else (s.cl cl).waitsFor (signed 32 (bitsOf f.word 122 91)) (bitsOf f.word 90 75)) ∧ SameBut issueParts s t := by
  have hsame := (State.step1_spec h).2.2.2
  have hpassed := State.passed_congr (hsame .job (by decide)) (hsame .time (by decide)) f
  split
  · next hp =>
    have hact : ((s.sign cl f).step1 cl).beatWait cl f = (s.sign cl f).step1 cl := if_pos (hpassed.2 hp)
    exact setsAtIssue h hontime (i := .beatWait cl) (check := fun _ _ => .ok) (act := fun s f => s.beatWait cl f) rfl (decide_eq_true hclass) rfl (g := id) (fun _ _ _ _ => ⟨rfl, rfl⟩)
      (by rw [hact]; exact actsAs_refl _ cl) (by rw [hact]; exact SameBut.rfl')
  · next hp =>
    have hact : ((s.sign cl f).step1 cl).beatWait cl f = ((s.sign cl f).step1 cl).modCl cl fun c =>
        c.waitsFor (signed 32 (bitsOf f.word 122 91)) (bitsOf f.word 90 75) := if_neg (mt hpassed.1 hp)
    exact setsAtIssue h hontime (i := .beatWait cl) (check := fun _ _ => .ok) (act := fun s f => s.beatWait cl f) rfl (decide_eq_true hclass) rfl (fun _ _ _ _ => ⟨rfl, rfl⟩)
      (by rw [hact]; exact actsAs_modCl _ cl _) (by rw [hact]; exact sb_modCl _ cl _)

/-- The forms of `BOUND_LOAD` that each of its commands takes. -/
theorem boundLoadCommand {form : Nat} {i : Instr}
    (hi : (form, i) ∈ [(0, Instr.boundLoadImmediate cl), (3, .boundLoadImmediate cl), (1, .boundLoadMemory cl none), (2, .boundLoadDerived cl)]) :
    ∃ (sel : Nat → Bool) (act : State → Fetched → State), sel form = true ∧ ∀ s, exec i s =
      .next (s.issue cl (fun _ w => iClass w = 14 ∧ sel (blForm w)) (fun s f => s.boundCheck cl f) act) := by
  simp only [List.mem_cons, Prod.mk.injEq, List.not_mem_nil, or_false] at hi
  obtain ⟨rfl, rfl⟩ | ⟨rfl, rfl⟩ | ⟨rfl, rfl⟩ | ⟨rfl, rfl⟩ := hi
  · exact ⟨fun f => f = 0 ∨ f = 3, fun s f => s.modCl cl fun c => c.setBound (blDst f.word) (blValue f.word), rfl, fun _ => rfl⟩
  · exact ⟨fun f => f = 0 ∨ f = 3, fun s f => s.modCl cl fun c => c.setBound (blDst f.word) (blValue f.word), rfl, fun _ => rfl⟩
  · exact ⟨fun f => f = 1, fun s f => s.loadIssue cl false f, rfl, fun _ => rfl⟩
  · exact ⟨fun f => f = 2, fun s f => s.modCl cl fun c => c.setBound (blDst f.word) (c.derived f.word), rfl, fun _ => rfl⟩

/-- Settles O48: what each instruction makes of its cluster, and which checks refuse it. -/
theorem syncTimeAndBoundInstructionsExecute : Obligations.SyncTimeAndBoundInstructionsExecute := by
  unfold Obligations.SyncTimeAndBoundInstructionsExecute
  intro s cl f h hontime c w id loading plain
  have hcheck := State.boundCheck_sign h
  refine ⟨syncWaitRegisters h hontime, syncSignalIsGiven h hontime, fun hclass => ?_, fun hclass hok => ⟨fun hform => ?_, fun hform => ?_, fun hform => ?_⟩,
    fun hclass i form hi hform => ?_, fun hclass hrect => ?_, fun hclass hbitmap => ?_⟩
  · exact beatWaitIssues h hontime hclass
  · exact setsAtIssue h hontime (act := fun s f => s.modCl cl fun c => c.setBound (blDst f.word) (blValue f.word)) rfl
      (decide_eq_true ⟨hclass, decide_eq_true (Or.inl hform)⟩) (hcheck.trans hok) (g := fun c => c.setBound (blDst w) (blValue w)) (fun _ _ _ _ => ⟨rfl, rfl⟩)
      (actsAs_modCl _ cl _) (sb_modCl _ cl _)
  · exact setsAtIssue h hontime (act := fun s f => s.loadIssue cl false f) rfl
      (decide_eq_true ⟨hclass, decide_eq_true hform⟩) (hcheck.trans hok) (g := fun c => c.loading false f) (fun _ _ _ _ => ⟨rfl, rfl⟩)
      (actsAs_loadIssue _ cl false f) (State.loadIssue_same _ cl false f)
  · exact setsAtIssue h hontime (act := fun s f => s.modCl cl fun c => c.setBound (blDst f.word) (c.derived f.word)) rfl
      (decide_eq_true ⟨hclass, decide_eq_true hform⟩) (hcheck.trans hok) (g := fun c => c.setBound (blDst w) (c.derived w)) (fun _ _ _ _ => ⟨rfl, rfl⟩)
      (actsAs_modCl _ cl _) (sb_modCl _ cl _)
  · obtain ⟨sel, act, hsel, hexec⟩ := boundLoadCommand hi
    have hsel' : decide (iClass w = 14 ∧ sel (blForm w) = true) = true := decide_eq_true ⟨hclass, by rw [hform]; exact hsel⟩
    refine ⟨fun r hr => ?_, fun k v m hb hphase => ?_, fun k v m hb hphase => ?_⟩
    · obtain ⟨t, ht, hfield⟩ := State.issue_field h (sel := fun _ w => iClass w = 14 ∧ sel (blForm w)) (check := fun s f => s.boundCheck cl f)
        (act := act) hsel' (hcheck.trans hr)
      exact ⟨t, (hexec s).trans (congrArg Host.Outcome.next ht), hfield⟩
    all_goals
      have ht := (hexec s).trans (congrArg Host.Outcome.next (State.issue_bound h (sel := fun _ w => iClass w = 14 ∧ sel (blForm w))
        (check := fun s f => s.boundCheck cl f) (act := act) hsel' (hcheck.trans hb)))
    · exact ⟨_, ht, State.boundFail_late h k v m hphase⟩
    · exact ⟨_, ht, State.boundFail_early h k v m hphase⟩
  · exact setsAtIssue h hontime (act := fun s f => s.modCl cl fun c => c.setMask (bitsOf f.word 122 121)
        (rangeBits (bitsOf f.word 119 112) (bitsOf f.word 111 104)) (rangeBits (bitsOf f.word 103 96) (bitsOf f.word 95 88))) rfl
      (decide_eq_true ⟨hclass, hrect⟩) rfl (g := fun c => c.setMask (bitsOf w 122 121) (rangeBits (bitsOf w 119 112) (bitsOf w 111 104))
        (rangeBits (bitsOf w 103 96) (bitsOf w 95 88))) (fun _ _ _ _ => ⟨rfl, rfl⟩) (actsAs_modCl _ cl _) (sb_modCl _ cl _)
  · split
    · next hlocal =>
      exact setsAtIssue h hontime (act := fun s f => s.loadIssue cl true f) rfl (decide_eq_true ⟨hclass, hbitmap⟩) (if_pos hlocal)
        (g := fun c => c.loading true f) (fun _ _ _ _ => ⟨rfl, rfl⟩) (actsAs_loadIssue _ cl true f) (State.loadIssue_same _ cl true f)
    · next hlocal =>
      obtain ⟨t, ht, hfield⟩ := State.issue_field h (r := 3) (sel := fun _ w => iClass w = 15 ∧ bitsOf w 120 120 = 1)
        (check := fun _ f => if localOk (bitsOf f.word 87 68 * 64) 64 then .ok else .field 3) (act := fun s f => s.loadIssue cl true f)
        (decide_eq_true ⟨hclass, hbitmap⟩) (if_neg hlocal)
      exact ⟨t, congrArg Host.Outcome.next ht, hfield⟩
end

section
/-! SUPPORT and PROOFS. Waits end, loads of registers come back, and signals reach their home (R152, R174 to R177, R240, R391, R393). -/

namespace Sys2Proof.Machine

/-! ### Waits -/

theorem exec_syncWaitSatisfied {s : State} {cl id target : Nat} (hwait : (s.cl cl).wait = .sync id target) : exec (.syncWaitSatisfied cl) s = .next
    (if s.waitSatisfied cl && s.clocked cl then
      (({ s with sync := { s.sync with waits := s.sync.waits.filter fun x => x.cluster ≠ cl } } : State).modCl cl fun c => { c with wait := .none }).settle cl
     else s) := by
  show execSyncWaitSatisfied cl s = _
  unfold execSyncWaitSatisfied
  rw [hwait]
theorem exec_beatWaitReached {s : State} {cl : Nat} {o : Int} {sub : Nat} (hwait : (s.cl cl).wait = .beat o sub) : exec (.beatWaitReached cl) s = .next
    (if s.pointOf (s.clStep cl) o sub ≤ s.planNow ∧ s.clocked cl then (s.modCl cl fun c => { c with wait := .none }).settle cl else s) := by
  show execBeatWaitReached cl s = _
  unfold execBeatWaitReached
  rw [hwait]
theorem State.waitSatisfied_iff (s : State) (cl : Nat) : s.waitSatisfied cl = true ↔ ∃ x ∈ s.sync.waits, x.cluster = cl ∧ x.satisfied = true := by
  unfold State.waitSatisfied
  rw [List.any_eq_true]
  exact exists_congr fun x => and_congr_right fun _ => decide_eq_true_iff
/-- A cluster whose wait has ended waits for nothing. -/
theorem BecomesAt.settle_waits {s v : State} {cl : Nat} (h : BecomesAt s v cl { s.cl cl with wait := .none }) (hontime : OnTime s cl) :
    ((v.settle cl).cl cl).wait = .none ∧ (v.settle cl).sync.waits = v.sync.waits ∧ SameBut issueParts v (v.settle cl) := by
  obtain ⟨hwork, -, hsame⟩ := h.settle hontime rfl
  exact ⟨congrArg Cluster.wait hwork, State.settle_waits (onTime_duty h.duty (by rw [h.here]) hontime), hsame⟩

/-! ### Loads come back -/

/-- What a load that comes back makes of its cluster. -/
def Cluster.loaded (c : Cluster) (mask : Bool) (l : RegLoad) (bs : Bytes) : Cluster :=
  { (if mask then c.setMask (bitsOf l.word 122 121) (fieldAt bs 0 16) (fieldAt bs 16 16) else c.setBound (blDst l.word) (leNat bs)) with
    loads := c.loads.filter fun x => x.n ≠ l.n }
theorem Cluster.loaded_work (c : Cluster) (mask : Bool) (l : RegLoad) (bs : Bytes) : (c.loaded mask l bs).work =
    (let d := { c with loads := c.loads.filter fun x => x.n ≠ l.n }
     if mask then d.setMask (bitsOf l.word 122 121) (fieldAt bs 0 16) (fieldAt bs 16 16) else d.setBound (blDst l.word) (leNat bs)).work := by
  cases mask <;> rfl
/-- The address a load reads, and its length. -/
def RegLoad.addr (l : RegLoad) (mask : Bool) : Nat := if mask then bitsOf l.word 87 68 * 64 else blValue l.word % 2 ^ 26
def RegLoad.size (mask : Bool) : Nat := if mask then 64 else 4
/-- The command with which a load comes back. -/
def loadBack (cl : Nat) (mask : Bool) (checks : List MemCheck) : Instr :=
  if mask then .maskBitmap cl (some checks) else .boundLoadMemory cl (some checks)
/-- A load comes back. -/
def State.loadEnds (s : State) (cl : Nat) (mask : Bool) (l : RegLoad) : State :=
  match mask with
  | true => loadMask cl l (s.localRead cl (bitsOf l.word 87 68 * 64) 64 l.step)
  | false => loadBound cl l (s.localRead cl (blValue l.word % 2 ^ 26) 4 l.step)
theorem loadMask_eq (cl : Nat) (l : RegLoad) (p : Bytes × State) : loadMask cl l p = (p.2.modCl cl fun c => c.loaded true l p.1).settle cl := rfl
theorem loadBound_eq (cl : Nat) (l : RegLoad) (p : Bytes × State) : loadBound cl l p = (p.2.modCl cl fun c => c.loaded false l p.1).settle cl := rfl
theorem State.loadEnds_eq (s : State) (cl : Nat) (mask : Bool) (l : RegLoad) : s.loadEnds cl mask l =
    ((s.localRead cl (l.addr mask) (RegLoad.size mask) l.step).2.modCl cl fun c =>
      c.loaded mask l (s.localRead cl (l.addr mask) (RegLoad.size mask) l.step).1).settle cl := by
  cases mask with
  | true => exact loadMask_eq cl l _
  | false => exact loadBound_eq cl l _
theorem ite_not_bool {α : Type} (b : Bool) (x y : α) : (if (!b) = true then x else y) = if b = true then y else x := by cases b <;> rfl
section
variable {s t : State} {cl : Nat} {l : RegLoad} {checks : List MemCheck} {ok : Bool}
theorem State.boundBack_of (hload : (s.cl cl).nextLoad false = some l) (hchecked : s.checked checks = (ok, t)) :
    s.boundBack cl checks = if s.clocked cl = true then (if ok = true then t.loadEnds cl false l else t) else s := by
  unfold State.boundBack State.loadEnds
  rw [hload, hchecked]
  dsimp only
  rw [ite_not_bool, ite_not_bool]
theorem State.maskBack_of (hload : (s.cl cl).nextLoad true = some l) (hchecked : s.checked checks = (ok, t)) :
    s.maskBack cl checks = if s.clocked cl = true then (if ok = true then t.loadEnds cl true l else t) else s := by
  unfold State.maskBack State.loadEnds
  rw [hload, hchecked]
  dsimp only
  rw [ite_not_bool, ite_not_bool]
theorem exec_loadBack {mask : Bool} (hload : (s.cl cl).nextLoad mask = some l) (hchecked : s.checked checks = (ok, t)) :
    exec (loadBack cl mask checks) s = .next (if s.clocked cl = true then (if ok = true then t.loadEnds cl mask l else t) else s) := by
  cases mask with
  | false => exact congrArg Host.Outcome.next (State.boundBack_of hload hchecked)
  | true => exact congrArg Host.Outcome.next (State.maskBack_of hload hchecked)
end
theorem becomesAt_loaded {s : State} {cl : Nat} {p : Bytes × State} (mask : Bool) (l : RegLoad) (hclusters : p.2.clusters = s.clusters)
    (hduty : p.2.duty = s.duty) : BecomesAt s (p.2.modCl cl fun c => c.loaded mask l p.1) cl ((s.cl cl).loaded mask l p.1) := by
  have hmod := becomesAt_modCl p.2 cl fun c => c.loaded mask l p.1
  rw [cl_of hclusters cl] at hmod
  exact ⟨hmod.here, fun n hn => (hmod.others n hn).trans (cl_of hclusters n), hmod.duty.trans hduty⟩
/-- A load that comes back writes what it read into its register, and nothing else. -/
theorem State.loadEnds_spec {s : State} {cl : Nat} (mask : Bool) (l : RegLoad) (hontime : OnTime s cl) :
    ((s.loadEnds cl mask l).cl cl).work = ((s.cl cl).loaded mask l (s.localRead cl (l.addr mask) (RegLoad.size mask) l.step).1).work ∧
      (∀ m, m ≠ cl → (s.loadEnds cl mask l).cl m = s.cl m) ∧ (s.loadEnds cl mask l).mem = s.mem := by
  have hread := State.localRead_touch (List.Subset.refl _) s cl (l.addr mask) (RegLoad.size mask) l.step (Touch.refl _ s)
  have hduty := State.localRead_duty s cl (l.addr mask) (RegLoad.size mask) l.step
  rw [State.loadEnds_eq]
  generalize s.localRead cl (l.addr mask) (RegLoad.size mask) l.step = p at *
  have hstep : ((s.cl cl).loaded mask l p.1).step = (s.cl cl).step := by cases mask <;> rfl
  obtain ⟨hwork, hothers, hsame⟩ := (becomesAt_loaded mask l (hread .clusters (by decide)) hduty).settle hontime hstep
  have hmem : p.2.mem = s.mem := hread .mem (by decide)
  exact ⟨hwork, hothers, (hsame .mem (by decide)).trans hmem⟩

/-! ### Signals reach their home -/

/-- A signal has left the fabric. -/
def State.arrived (s : State) (n : Nat) : State := { s with sync := { s.sync with transit := s.sync.transit.eraseIdx n } }
section
variable {s : State} {n : Nat} {g : Signal}

theorem exec_syncSignalArrival (hg : s.sync.transit[n]? = some g) (horder : s.inOrder n g = true) :
    exec (.syncSignalArrival n) s = .next ((s.arriveSignal g).elim s fun u => u.arrived n) := by
  show execSyncSignalArrival n s = _
  unfold execSyncSignalArrival
  rw [hg]
  dsimp only
  rw [horder]
  cases s.arriveSignal g <;> rfl
/-- The pending queue of a home takes a signal while it has room. -/
def State.holdSignal (s : State) (g : Signal) : Option State :=
  if (s.sync.held.filter (fun h => s.syncHome h.id = s.syncHome g.id)).length < 256
  then some { s with sync := { s.sync with held := s.sync.held ++ [g] } } else none
theorem State.arriveSignal_undeclared (h : s.declared g.id = false) : s.arriveSignal g = some s := if_pos (by rw [h]; rfl)
theorem State.arriveSignal_plain (h : s.declared g.id = true) (hresets : (s.syncDecl g.id).resets = false) :
    s.arriveSignal g = some (s.addSync g.id g.inc g.stamp) := by
  unfold State.arriveSignal
  dsimp only
  rw [if_neg (by rw [h]; decide), if_pos (by rw [hresets]; rfl)]
section
variable (h : s.declared g.id = true) (hresets : (s.syncDecl g.id).resets = true)
include h hresets
theorem State.arriveSignal_loaded (hloaded : s.job.state = .loaded) : s.arriveSignal g = s.holdSignal g := by
  unfold State.arriveSignal
  dsimp only
  rw [if_neg (by rw [h]; decide), if_neg (by rw [hresets]; decide), if_pos hloaded]
  rfl
theorem State.arriveSignal_present (hloaded : s.job.state ≠ .loaded) (hnow : g.step % 2 ^ 32 = s.homeStep) (hbegun : s.job.begun ≠ none) :
    s.arriveSignal g = some (s.addSync g.id g.inc g.stamp) := by
  unfold State.arriveSignal
  dsimp only
  rw [if_neg (by rw [h]; decide), if_neg (by rw [hresets]; decide), if_neg hloaded, if_pos hnow, if_pos (Option.isSome_iff_ne_none.2 hbegun)]
theorem State.arriveSignal_early (hloaded : s.job.state ≠ .loaded) (hnow : g.step % 2 ^ 32 = s.homeStep) (hbegun : s.job.begun = none) :
    s.arriveSignal g = some (s.dropSignal g) := by
  unfold State.arriveSignal
  dsimp only
  rw [if_neg (by rw [h]; decide), if_neg (by rw [hresets]; decide), if_neg hloaded, if_pos hnow, if_neg (by rw [hbegun]; decide)]
theorem State.arriveSignal_later (hloaded : s.job.state ≠ .loaded) (hnow : g.step % 2 ^ 32 ≠ s.homeStep) (hlater : serialLater s.homeStep g.step = true) :
    s.arriveSignal g = s.holdSignal g := by
  unfold State.arriveSignal
  dsimp only
  rw [if_neg (by rw [h]; decide), if_neg (by rw [hresets]; decide), if_neg hloaded, if_neg hnow, if_pos hlater]
  rfl
theorem State.arriveSignal_late (hloaded : s.job.state ≠ .loaded) (hnow : g.step % 2 ^ 32 ≠ s.homeStep) (hlater : ¬serialLater s.homeStep g.step = true) :
    s.arriveSignal g = some (s.dropSignal g) := by
  unfold State.arriveSignal
  dsimp only
  rw [if_neg (by rw [h]; decide), if_neg (by rw [hresets]; decide), if_neg hloaded, if_neg hnow, if_neg hlater]
end

/-- The parts that a signal which reaches its home may change. -/
def arriveParts : List Part := [.log, .sync, .host, .ctr, .out]
theorem sb_sync (s : State) (y : Sync) : SameBut [.sync] s { s with sync := y } := by
  intro p hp
  cases p with
  | sync => exact absurd (by decide) hp
  | _ => rfl
theorem State.arrived_same (u : State) (n : Nat) : SameBut [.sync] u (u.arrived n) := sb_sync u _
/-- What a signal adds to its object stays at the largest value. -/
theorem State.addSync_spec (s : State) (id inc cause : Nat) :
    let v := min (s.syncValue id + inc) 0xFFFFFFFF
    SameBut arriveParts s (s.addSync id inc cause) ∧ (s.addSync id inc cause).sync = ({ s.sync with values := sset 0 s.sync.values id v } : Sync).notify id v ∧
      (2 ^ 32 ≤ s.syncValue id + inc → (s.addSync id inc cause).count kSyncSaturations = s.count kSyncSaturations + 1) := by
  intro v
  have hset (w : Nat) : SameBut [.sync] s (s.setSync id w) := sb_sync s _
  unfold State.addSync
  dsimp only
  split
  · next hsmall =>
    have hv : v = s.syncValue id + inc := min_eq_left (by omega)
    rw [hv]
    exact ⟨(hset _).mono (by decide), rfl, fun hlarge => absurd hsmall (by omega)⟩
  · next hlarge =>
    have hv : v = 2 ^ 32 - 1 := min_eq_right (by omega)
    have hbump := (hset (2 ^ 32 - 1)).trans (sb_ctr (s.setSync id (2 ^ 32 - 1)) kSyncSaturations 1)
    rw [hv]
    have hcount : ((s.setSync id (2 ^ 32 - 1)).bump kSyncSaturations 1).count kSyncSaturations = s.count kSyncSaturations + 1 := count_bump _ _ _
    generalize hu : (s.setSync id (2 ^ 32 - 1)).bump kSyncSaturations 1 = u at *
    have hsync : u.sync = ({ s.sync with values := sset 0 s.sync.values id (2 ^ 32 - 1) } : Sync).notify id (2 ^ 32 - 1) := by rw [← hu]; rfl
    have hevent := State.eventAfter_touch (List.Subset.refl _) u (dieSrc (s.syncHome id)) 0x6301 (cause + 1) [] (Touch.refl _ u)
    exact ⟨(hbump.trans hevent).mono (by decide), (hevent .sync (by decide)).trans hsync,
      fun _ => (u.eventAfter_count _ _ _ _ _ (by decide) (by decide) (by decide)).trans hcount⟩
theorem State.dropSignal_spec (s : State) (g : Signal) :
    SameBut arriveParts s (s.dropSignal g) ∧ (s.dropSignal g).sync = s.sync ∧ (s.dropSignal g).count kSyncLate = s.count kSyncLate + 1 := by
  have hevent := State.eventAfter_touch (List.Subset.refl _) (s.bump kSyncLate 1) (dieSrc (s.syncHome g.id)) 0x6300 (g.stamp + 1)
    (u32 g.id ++ u32 g.step) (Touch.refl _ _)
  exact ⟨((sb_ctr s kSyncLate 1).trans hevent).mono (by decide), hevent .sync (by decide),
    ((s.bump kSyncLate 1).eventAfter_count _ _ _ _ _ (by decide) (by decide) (by decide)).trans (count_bump _ _ _)⟩
theorem State.dropSignal_late (s : State) (n : Nat) (g : Signal) :
    let t := (s.dropSignal g).arrived n
    t.sync.transit = s.sync.transit.eraseIdx n ∧ t.sync.held = s.sync.held ∧ t.sync.values = s.sync.values
      ∧ t.count kSyncLate = s.count kSyncLate + 1 := by
  obtain ⟨-, hsync, hcount⟩ := s.dropSignal_spec g
  generalize s.dropSignal g = u at *
  rw [← hsync]
  exact ⟨rfl, rfl, rfl, hcount⟩

/-- A signal was added to its object. -/
def Added (s t : State) (n : Nat) (g : Signal) : Prop :=
  t.sync.transit = s.sync.transit.eraseIdx n ∧ t.sync.held = s.sync.held ∧ t.syncValue g.id = min (s.syncValue g.id + g.inc) 0xFFFFFFFF
    ∧ (∀ j, j ≠ g.id → t.syncValue j = s.syncValue j)
    ∧ t.sync.waits = s.sync.waits.map (fun x => if x.id = g.id ∧ x.target ≤ t.syncValue g.id then { x with satisfied := true } else x)
    ∧ (2 ^ 32 ≤ s.syncValue g.id + g.inc → t.count kSyncSaturations = s.count kSyncSaturations + 1)
theorem State.addSync_added (hid : g.id < 0x3E00) : Added s ((s.addSync g.id g.inc g.stamp).arrived n) n g := by
  obtain ⟨-, hsync, hcount⟩ := s.addSync_spec g.id g.inc g.stamp
  generalize s.addSync g.id g.inc g.stamp = u at *
  have htransit : u.sync.transit = s.sync.transit := by rw [hsync]; rfl
  have hheld : u.sync.held = s.sync.held := by rw [hsync]; rfl
  have hvalues : u.sync.values = sset 0 s.sync.values g.id (min (s.syncValue g.id + g.inc) 0xFFFFFFFF) := by rw [hsync]; rfl
  have hwaits : u.sync.waits = s.sync.waits.map fun x => if x.id = g.id ∧ x.target ≤ min (s.syncValue g.id + g.inc) 0xFFFFFFFF
    then { x with satisfied := true } else x := by rw [hsync]; rfl
  have hvalue : (u.arrived n).syncValue g.id = min (s.syncValue g.id + g.inc) 0xFFFFFFFF := by
    unfold State.syncValue State.arrived
    dsimp only
    rw [if_neg (Nat.not_le.2 hid), hvalues]
    refine (sget_sset_same 0 s.sync.values g.id _).trans ?_
    unfold State.syncValue
    rw [if_neg (Nat.not_le.2 hid)]
  refine ⟨congrArg (fun l : List Signal => l.eraseIdx n) htransit, hheld, hvalue, fun j hj => ?_, by rw [hvalue]; exact hwaits, hcount⟩
  unfold State.syncValue State.arrived
  dsimp only
  rw [hvalues]
  split
  · rfl
  · exact sget_sset_other 0 s.sync.values g.id j _ hj
/-- A signal that is held until its step waits in its home's pending queue, or, while that is full, on the fabric. -/
theorem State.holdSignal_spec (s : State) (n : Nat) (g : Signal) :
    let t := (s.holdSignal g).elim s fun u => u.arrived n
    SameBut arriveParts s t ∧ if (s.sync.held.filter (fun h => s.syncHome h.id = s.syncHome g.id)).length < 256
      then t.sync.transit = s.sync.transit.eraseIdx n ∧ t.sync.held = s.sync.held ++ [g] ∧ t.sync.values = s.sync.values else t = s := by
  unfold State.holdSignal
  split
  · exact ⟨(sb_sync s _).mono (by decide), rfl, rfl, rfl⟩
  · exact ⟨SameBut.rfl', rfl⟩
end

end Sys2Proof.Machine
end

section
open Sys2Proof Sys2Proof.Machine

/-- A signal that reaches its home has there the effect that its object and its step give it. -/
theorem signalArrives {s : State} {n : Nat} {g : Signal} (hg : s.sync.transit[n]? = some g) (hid : g.id < 0x3E00) (horder : s.inOrder n g = true) :
    ∃ t, exec (.syncSignalArrival n) s = .next t ∧ SameBut arriveParts s t ∧
      let gone := t.sync.transit = s.sync.transit.eraseIdx n
      let held := if (s.sync.held.filter (fun h => s.syncHome h.id = s.syncHome g.id)).length < 256
        then gone ∧ t.sync.held = s.sync.held ++ [g] ∧ t.sync.values = s.sync.values else t = s
      let late := gone ∧ t.sync.held = s.sync.held ∧ t.sync.values = s.sync.values ∧ t.count kSyncLate = s.count kSyncLate + 1
      if s.declared g.id = false then gone ∧ t.sync.held = s.sync.held ∧ t.sync.values = s.sync.values ∧ t.sync.waits = s.sync.waits
      else if (s.syncDecl g.id).resets = false then Added s t n g
      else if s.job.state = .loaded then held
      else if g.step % 2 ^ 32 = s.homeStep then (if s.job.begun ≠ none then Added s t n g else late)
      else if serialLater s.homeStep g.step = true then held
      else late := by
  have hadded : SameBut arriveParts s ((s.addSync g.id g.inc g.stamp).arrived n) :=
    ((s.addSync_spec g.id g.inc g.stamp).1.trans (State.arrived_same _ n)).mono (by decide)
  have hlate : SameBut arriveParts s ((s.dropSignal g).arrived n) := ((s.dropSignal_spec g).1.trans (State.arrived_same _ n)).mono (by decide)
  have hlateSpec := s.dropSignal_late n g
  obtain ⟨hheld, hheldSpec⟩ := s.holdSignal_spec n g
  refine ⟨_, exec_syncSignalArrival hg horder, ?_⟩
  dsimp only
  split
  · next hd =>
    rw [State.arriveSignal_undeclared hd]
    exact ⟨(State.arrived_same s n).mono (by decide), rfl, rfl, rfl, rfl⟩
  · next hd =>
    have hd := Bool.eq_true_of_not_eq_false hd
    split
    · next hr =>
      rw [State.arriveSignal_plain hd hr]
      exact ⟨hadded, State.addSync_added hid⟩
    · next hr =>
      have hr := Bool.eq_true_of_not_eq_false hr
      split
      · next hl =>
        rw [State.arriveSignal_loaded hd hr hl]
        exact ⟨hheld, hheldSpec⟩
      · next hl =>
        split
        · next hn =>
          split
          · next hb =>
            rw [State.arriveSignal_present hd hr hl hn hb]
            exact ⟨hadded, State.addSync_added hid⟩
          · next hb =>
            rw [State.arriveSignal_early hd hr hl hn (not_not.1 hb)]
            exact ⟨hlate, hlateSpec⟩
        · next hn =>
          split
          · next hlater =>
            rw [State.arriveSignal_later hd hr hl hn hlater]
            exact ⟨hheld, hheldSpec⟩
          · next hlater =>
            rw [State.arriveSignal_late hd hr hl hn hlater]
            exact ⟨hlate, hlateSpec⟩

/-- Settles O49: the end of a wait, of a load and of a signal's way. -/
theorem waitsEndAndSignalsArrive : Obligations.WaitsEndAndSignalsArrive := by
  unfold Obligations.WaitsEndAndSignalsArrive
  refine ⟨fun s cl id target hwait hontime => ⟨_, exec_syncWaitSatisfied hwait, ?_⟩, fun s cl offset sub hwait hontime => ⟨_, exec_beatWaitReached hwait, ?_⟩,
    fun s cl mask l hload hontime => ⟨?_, fun hclocked die code line reads hbad => ?_⟩, fun s n g hg hid horder => ?_, fun s n hout => ?_⟩
  · have hiff := s.waitSatisfied_iff cl
    by_cases hends : s.waitSatisfied cl = true ∧ s.clocked cl = true
    · rw [if_pos ⟨hiff.1 hends.1, hends.2⟩, if_pos ((Bool.and_eq_true _ _).mpr hends)]
      have hbecomes := becomesAt_modCl ({ s with sync := { s.sync with waits := s.sync.waits.filter fun x => x.cluster ≠ cl } } : State) cl
        fun c => { c with wait := .none }
      have hnone : BecomesAt s _ cl { s.cl cl with wait := .none } := ⟨hbecomes.here, hbecomes.others, hbecomes.duty⟩
      obtain ⟨hwait', hwaits, hsame⟩ := hnone.settle_waits hontime
      exact ⟨hwait', hwaits, (((sb_sync s _).trans (sb_modCl _ cl _)).trans hsame).mono (by decide)⟩
    · rw [if_neg fun h => hends ⟨hiff.2 h.1, h.2⟩, if_neg (mt (Bool.and_eq_true _ _).mp hends)]
  · have hpoint : ((s.stepBegin (s.clStep cl) : Int) + offset) * 65536 + sub = s.pointOf (s.clStep cl) offset sub := rfl
    rw [hpoint]
    split
    · obtain ⟨hnone, -, hsame⟩ := (becomesAt_modCl s cl fun c => { c with wait := .none }).settle_waits hontime
      exact ⟨hnone, ((sb_modCl s cl _).trans hsame).mono (by decide)⟩
    · rfl
  · refine ⟨_, exec_loadBack (checks := []) hload rfl, ?_⟩
    rw [if_pos (rfl : true = true)]
    split
    · obtain ⟨hwork, hothers, hmem⟩ := State.loadEnds_spec (cl := cl) mask l hontime
      exact ⟨hwork.trans (Cluster.loaded_work _ mask l _), fun hfeeder => congrArg Prod.fst (State.localRead_of_feeder s l.step cl hfeeder), hothers, hmem⟩
    · rfl
  · obtain ⟨d, hd⟩ := State.checkedLine_bad (s := s) (die := die) hbad
    refine ⟨_, exec_loadBack hload ((State.checked_one s _).trans hd), ?_⟩
    rw [if_pos hclocked, if_neg (by decide)]
    obtain ⟨hfaulted, hlatch, hmem, -⟩ := fault_spec_of s (u := s) (dieSrc die) 0x1100 d rfl rfl
    exact ⟨hfaulted, hlatch, hmem⟩
  · exact signalArrives hg hid horder
  · refine ⟨s, ?_, rfl⟩
    show execSyncSignalArrival n s = _
    unfold execSyncSignalArrival
    cases hg : s.sync.transit[n]? with
    | none => rfl
    | some g =>
      dsimp only
      rw [hout g hg]
      rfl
end

section
/-! SUPPORT and PROOFS. Bulk flows open, are refused, close and time out (R417 to R422, R448, R512, R526). -/

namespace Sys2Proof.Machine

/-! ### The flow of a number -/

theorem State.flow_id {s : State} {id : Nat} {f : Flow} (h : s.flow id = some f) : f.id = id := of_decide_eq_true (List.find?_some h :)
theorem State.flow_congr {s t : State} (h : t.host.flows = s.host.flows) (id : Nat) : t.flow id = s.flow id := by rw [State.flow, h, State.flow]
theorem State.flow_modFlow {s : State} {id : Nat} {f : Flow} (h : s.flow id = some f) {g : Flow → Flow} (hg : ∀ x, (g x).id = x.id) :
    (s.modFlow id g).flow id = some (g f) := by
  have hsame : ((fun x : Flow => decide (x.id = id)) ∘ fun x => if x.id = id then g x else x) = fun x => decide (x.id = id) := by
    funext x
    dsimp only [Function.comp]
    split
    · rw [hg]
    · rfl
  unfold State.flow at h
  unfold State.flow State.modFlow
  rw [List.find?_map, hsame, h, Option.map_some, if_pos (State.flow_id h)]
theorem State.flow_none {s : State} {id : Nat} (h : ∀ k ∈ s.flowKeys, k.1 ≠ id) : s.flow id = none := by
  unfold State.flow
  rw [List.find?_eq_none]
  intro f hf
  have hkey := h (f.id, f.channel, f.session) (List.mem_map.2 ⟨f, hf, rfl⟩)
  simpa using hkey
/-- A flow that has ended is no more. -/
theorem State.closeFlow_flow (s : State) {id : Nat} {f : Flow} (h : f.id = id) : (s.closeFlow f).flow id = none := by
  refine State.flow_none fun k hk => ?_
  rw [(s.closeFlow_spec f).2, List.mem_filter] at hk
  rw [← h]
  exact of_decide_eq_true hk.2
theorem State.closeAck_flow (s : State) {id : Nat} {f : Flow} (h : f.id = id) (code : Nat) : (s.closeAck f code).flow id = none := by
  unfold State.flow State.closeAck
  rw [List.find?_eq_none]
  intro x hx
  have hne := (List.mem_filter.1 hx).2
  rw [← h]
  simpa using hne
theorem State.onFlow_of {s : State} {id : Nat} {f : Flow} (h : s.flow id = some f) (g : State → Flow → State) :
    s.onFlow id g = .next (g s.rxFrame f) := by
  unfold State.onFlow
  dsimp only
  rw [show s.rxFrame.flow id = some f from h]

/-! ### What the operations on flows leave alone -/

theorem sb_rxFrame (s : State) : SameBut [.ctr] s s.rxFrame := sb_ctr s kFramesRx 1
theorem State.sendHost_same (s : State) (o : Output) : SameBut [.ctr, .out] s (s.sendHost o) := State.sendHost_touch (List.Subset.refl _) s o (Touch.refl _ s)
theorem sb_snap (s : State) (x : Snaps) : SameBut [.snap] s { s with snap := x } := by
  intro p hp
  cases p with
  | snap => exact absurd (by decide) hp
  | _ => rfl
theorem State.flowLost_count (s : State) (f : Flow) {k : Nat} (h : k ≠ kRecordsLost) (h2 : k ≠ kEventRecords) (h3 : k ≠ kFramesTx) :
    (s.flowLost f).count k = s.count k := by
  have event (t : State) (code : Nat) : (t.event wardenSrc code).count k = t.count k := t.event_count _ _ _ _ h h2 h3
  have last (b : State) : (if b.snap.restore.flow = some f.id ∧ b.snap.restore.state = 1 then
      ({ b with snap := { b.snap with restore := { b.snap.restore with state := 3, flow := none, verified := 0, image := [], manifest := [] } } }).event
        wardenSrc 0x3308 else b).count k = b.count k := by
    split
    · exact event _ _
    · rfl
  have mid (a : State) : (match a.snap.checkpoint with
      | some c => if c.flow = some f.id then
          ({ a with snap := { a.snap with checkpoint := some { c with flow := none, since := a.time.cycles } } }).event wardenSrc 0x3306
        else a
      | none => a).count k = a.count k := by
    cases a.snap.checkpoint with
    | none => rfl
    | some c =>
      dsimp only
      split
      · exact event _ _
      · rfl
  unfold State.flowLost
  refine (last _).trans ((mid _).trans ?_)
  split <;> rfl
theorem State.closeFlow_count (s : State) (f : Flow) {k : Nat} (h : k ≠ kRecordsLost) (h2 : k ≠ kEventRecords) (h3 : k ≠ kFramesTx) :
    (s.closeFlow f).count k = s.count k := (State.flowLost_count _ f h h2 h3).trans rfl
/-- The end of a flow that no checkpoint uses leaves the checkpoint that streams as it is. -/
theorem State.closeFlow_checkpoint {s : State} {f : Flow} (h : ∀ c, s.snap.checkpoint = some c → c.flow ≠ some f.id) :
    (s.closeFlow f).snap.checkpoint = s.snap.checkpoint := by
  have event (t : State) (code : Nat) : (t.event wardenSrc code).snap = t.snap := by simp
  have last (b : State) : (if b.snap.restore.flow = some f.id ∧ b.snap.restore.state = 1 then
      ({ b with snap := { b.snap with restore := { b.snap.restore with state := 3, flow := none, verified := 0, image := [], manifest := [] } } }).event
        wardenSrc 0x3308 else b).snap.checkpoint = b.snap.checkpoint := by
    split
    · rw [event]
    · rfl
  unfold State.closeFlow State.flowLost
  refine (last _).trans ?_
  generalize ht : (if f.channel = 1 then _ else _ : State) = t
  have hsnap : t.snap = s.snap := by
    rw [← ht]
    split <;> rfl
  rw [hsnap]
  cases hc : s.snap.checkpoint with
  | none => exact (congrArg Snaps.checkpoint hsnap).trans hc
  | some c =>
    dsimp only
    rw [if_neg (h c hc)]
    exact (congrArg Snaps.checkpoint hsnap).trans hc

/-! ### Opening a flow -/

/-- The flow that an `OPEN` opens, before it has its window. -/
def State.flowOf (s : State) (addr : Bytes) (session channel sub : Nat) : Flow :=
  { id := s.host.nextFlow, channel := channel, sub := sub, session := (match s.session addr session with | some x => x.id | none => 0), addr := addr,
    outbound := isOutbound channel sub, lastRx := s.time.cycles, lastBlock := s.time.cycles, lastAck := s.time.cycles }
/-- The window that an `OPEN` grants. -/
def State.firstWindow (s : State) (f : Flow) : Nat := if f.outbound then 0 else s.grant f
/-- What a new flow of a channel sets back: a library slot, a restore, a checkpoint. -/
def State.flowTaken (s : State) (id channel sub : Nat) : State :=
  if channel = 1 then { s with host := { s.host with library := sset [] s.host.library sub [] } }.setFormats sub []
  else if channel = 2 ∧ sub = 1 then s.modRestore fun r => { r with flow := some id, image := [], manifest := [] }
  else if channel = 2 then
    { s with snap := { s.snap with checkpoint := s.snap.checkpoint.map fun c => if c.flow = none then { c with flow := some id } else c } }
  else s
theorem State.flowTaken_spec (s : State) (id channel sub : Nat) :
    SameBut [.start, .host, .snap] s (s.flowTaken id channel sub) ∧ (s.flowTaken id channel sub).host.flows = s.host.flows ∧
      (s.flowTaken id channel sub).host.sessions = s.host.sessions ∧ (s.flowTaken id channel sub).out = s.out := by
  unfold State.flowTaken
  split
  · exact ⟨((sb_host s _).trans (State.setFormats_touch (List.Subset.refl _) _ sub [] (Touch.refl _ _))).mono (by decide), rfl, rfl, rfl⟩
  · split
    · exact ⟨(sb_snap s _).mono (by decide), rfl, rfl, rfl⟩
    · split
      · exact ⟨(sb_snap s _).mono (by decide), rfl, rfl, rfl⟩
      · exact ⟨SameBut.rfl', rfl, rfl, rfl⟩
/-- A flow is open. -/
def State.flowAdded (s : State) (f : Flow) : State :=
  { s with host := { s.host with nextFlow := f.id % (2 ^ 32 - 1) + 1, flows := s.host.flows ++ [{ f with window := s.firstWindow f }] } }
def State.flowOpened (s : State) (f : Flow) : State :=
  ((s.flowAdded f).flowTaken f.id f.channel f.sub).sendHost (Output.bulk f.id 2 f.channel 0 (s.firstWindow f) (u32 0))
theorem exec_bulkOpen (s : State) (addr : Bytes) (session channel sub : Nat) : exec (.bulkOpen addr session channel sub) s = .next
    (if s.deaf then s.rxFrame
     else if s.openCheck addr session channel sub ≠ 0 then s.rxFrame.sendHost (Output.bulk 0 2 channel 0 0 (u32 (s.openCheck addr session channel sub)))
     else s.rxFrame.flowOpened (s.rxFrame.flowOf addr session channel sub)) := rfl

end Sys2Proof.Machine
end

section
/-! SUPPORT. The end of an upload and of a checkpoint stream (R446, R448, R526). -/
namespace Sys2Proof.Machine

/-! ### The end of an upload -/

/-- The flow whose `CLOSE` has come from the host. -/
def Flow.closing (f : Flow) (now blocks : Nat) : Flow := { f with lastRx := now, count := some blocks, seen := max f.seen blocks }
/-- The state in which a `CLOSE` of the host has been noted. -/
def State.closeNoted (s : State) (id blocks : Nat) : State :=
  (s.rxFrame.heard id).modFlow id fun f => { f with count := some blocks, seen := max f.seen blocks }
section
variable {s : State} {id : Nat} {f : Flow}
theorem State.closeNoted_flow (h : s.flow id = some f) (blocks : Nat) : (s.closeNoted id blocks).flow id = some (f.closing s.time.cycles blocks) :=
  State.flow_modFlow (State.flow_modFlow (s := s.rxFrame) (g := fun f => { f with lastRx := s.time.cycles }) h fun _ => rfl) fun _ => rfl
theorem State.closeNoted_same (s : State) (id blocks : Nat) : SameBut [.host, .ctr] s (s.closeNoted id blocks) :=
  ((sb_rxFrame s).trans ((sb_host s.rxFrame _).trans (sb_host (s.rxFrame.heard id) _))).mono (by decide)
theorem exec_bulkClose_inbound (h : s.flow id = some f) (hin : f.outbound = false) (blocks : Nat) (flash : FlashReport) :
    exec (.bulkClose id blocks flash) s =
      .next (((s.closeNoted id blocks).bulkNak f (f.missing (max f.next f.seen) blocks)).tryFinish id flash) := by
  show execBulkClose id blocks flash s = _
  unfold execBulkClose
  rw [State.onFlow_of h]
  dsimp only
  rw [if_neg (by rw [hin]; decide)]
  rfl
theorem exec_bulkClose_outbound (h : s.flow id = some f) (hout : f.outbound = true) (blocks : Nat) (flash : FlashReport) :
    exec (.bulkClose id blocks flash) s = .next ((s.rxFrame.closeFlow f).sendHost (Output.bulk id 6 f.channel 0 0 (u32 0))) := by
  show execBulkClose id blocks flash s = _
  unfold execBulkClose
  rw [State.onFlow_of h]
  exact congrArg Host.Outcome.next (if_pos hout)
theorem exec_bulkOpenAck (h : s.flow id = some f) (code : Nat) :
    exec (.bulkOpenAck id code) s = .next (if code = 0 then s.rxFrame.heard id else s.rxFrame.closeFlow f) := by
  show execBulkOpenAck id code s = _
  unfold execBulkOpenAck
  rw [State.onFlow_of h]
theorem Flow.missing_none (f : Flow) {lo hi : Nat} (h : hi ≤ lo) : f.missing lo hi = [] := by
  unfold Flow.missing
  rw [Nat.sub_eq_zero_of_le h]
  rfl
theorem State.tryFinish_whole {flash : FlashReport} {n : Nat} (h : s.flow id = some f) (hcount : f.count = some n) (hall : n ≤ f.next) :
    s.tryFinish id flash = s.finishFlow f flash := by
  unfold State.tryFinish
  rw [h]
  dsimp only
  rw [hcount]
  exact if_pos hall
theorem State.tryFinish_waits {flash : FlashReport} {n : Nat} (h : s.flow id = some f) (hcount : f.count = some n) (hall : f.next < n) :
    s.tryFinish id flash = s := by
  unfold State.tryFinish
  rw [h]
  dsimp only
  rw [hcount]
  exact if_neg (Nat.not_le.2 hall)
theorem State.closeAck_out (s : State) (f : Flow) (code : Nat) :
    (s.closeAck f code).out.getLast? = some (Output.bulk f.id 6 f.channel 0 0 (u32 code)) := List.getLast?_concat
/-- An upload whose blocks have all come is kept, or refused where flash fails. -/
theorem State.finishFlow_upload (hid : f.id = id) (hchannel : f.channel = 1) (flash : FlashReport) :
    (s.finishFlow f flash).flow id = none ∧ if flash.ok = true
      then sget [] (s.finishFlow f flash).host.library f.sub = f.data ∧ (s.finishFlow f flash).out.getLast? = some (Output.bulk f.id 6 1 0 0 (u32 0))
      else (s.finishFlow f flash).out.getLast? = some (Output.bulk f.id 6 1 0 0 (u32 abStoreFault)) := by
  unfold State.finishFlow
  rw [hchannel]
  dsimp only
  generalize s.flashWrite flash ((s.formatsNow f.sub).length * f.data.length) = u
  cases flash.ok with
  | true =>
    rw [if_pos rfl, if_pos rfl]
    exact ⟨State.closeAck_flow _ hid 0, sget_sset_same [] u.host.library f.sub f.data, (State.closeAck_out _ f 0).trans (by rw [hchannel])⟩
  | false =>
    rw [if_neg (show ¬(false = true) by decide), if_neg (show ¬(false = true) by decide)]
    exact ⟨State.closeAck_flow _ hid abStoreFault, (State.closeAck_out _ f abStoreFault).trans (by rw [hchannel])⟩
end

/-! ### A checkpoint stream that ends -/

theorem exec_bulkCloseAck {s : State} {id : Nat} {f : Flow} (h : s.flow id = some f) (code : Nat) : exec (.bulkCloseAck id code) s = .next
    (if !f.outbound ∨ f.count = none then s.rxFrame
     else match s.snap.checkpoint with
      | some c =>
        if c.flow = some id ∧ code = 0 then ((s.rxFrame.endCheckpoint.bump kCheckpointsSent 1).event wardenSrc 0x3304).closeFlow f
        else s.rxFrame.closeFlow f
      | none => s.rxFrame.closeFlow f) := by
  show execBulkCloseAck id code s = _
  unfold execBulkCloseAck
  rw [State.onFlow_of h]
  split
  · rfl
  · cases hc : s.snap.checkpoint with
    | none => rewrite [show s.rxFrame.snap.checkpoint = none from hc]; rfl
    | some c => rewrite [show s.rxFrame.snap.checkpoint = some c from hc]; rfl
/-- A complete checkpoint stream is counted, and the one behind it waits. -/
theorem State.checkpointSent_spec (s : State) (f : Flow) :
    let t := ((s.rxFrame.endCheckpoint.bump kCheckpointsSent 1).event wardenSrc 0x3304).closeFlow f
    t.count kCheckpointsSent = s.count kCheckpointsSent + 1 ∧
      ((∀ n, s.snap.nextCheckpoint = some n → n.flow = none) → t.snap.checkpoint = s.snap.nextCheckpoint) := by
  intro t
  have hcount : (s.rxFrame.endCheckpoint.bump kCheckpointsSent 1).count kCheckpointsSent = s.rxFrame.count kCheckpointsSent + 1 := State.bump_count _ _ _
  have hsnap : ((s.rxFrame.endCheckpoint.bump kCheckpointsSent 1).event wardenSrc 0x3304).snap.checkpoint = s.snap.nextCheckpoint := by
    rw [show ((s.rxFrame.endCheckpoint.bump kCheckpointsSent 1).event wardenSrc 0x3304).snap = (s.rxFrame.endCheckpoint.bump kCheckpointsSent 1).snap by simp]
    rfl
  refine ⟨?_, fun hnext => ?_⟩
  · refine (State.closeFlow_count _ f (by decide) (by decide) (by decide)).trans ?_
    rw [State.event_count _ _ _ _ _ (by decide) (by decide) (by decide), hcount, s.rxFrame_count_other _ (by decide)]
  · refine (State.closeFlow_checkpoint fun c hc => ?_).trans hsnap
    rw [hsnap] at hc
    rw [hnext c hc]
    exact fun h => absurd h.symm (Option.some_ne_none _)

end Sys2Proof.Machine
end

section
open Sys2Proof Sys2Proof.Machine

/-- An `OPEN` is refused with its code, or opens a flow. -/
theorem openIsAnswered (s : State) (addr : Bytes) (session channel sub : Nat) : ∃ t, exec (.bulkOpen addr session channel sub) s = .next t ∧
    if s.deaf = true then SameBut [.ctr] s t ∧ t.count kFramesRx = s.count kFramesRx + 1
    else SameBut [.start, .host, .snap, .ctr, .out] s t ∧ t.host.sessions = s.host.sessions ∧
      (s.start.stump = none → subOk channel sub = true → channel ≠ 3 → channel ≠ 5 → channel ≠ 15 → s.session addr session = none →
        s.openCheck addr session channel sub = abNoSession) ∧
      (if s.openCheck addr session channel sub ≠ 0 then t.host = s.host ∧ t.snap = s.snap
        ∧ t.out = s.out ++ [Output.bulk 0 2 channel 0 0 (u32 (s.openCheck addr session channel sub))]
      else ∃ f : Flow, t.host.flows = s.host.flows ++ [f] ∧ f.id = s.host.nextFlow ∧ f.channel = channel
        ∧ f.sub = sub ∧ f.addr = addr ∧ f.outbound = isOutbound channel sub ∧ f.next = 0 ∧ f.held = []
        ∧ (f.outbound = true → f.window = 0) ∧ (f.outbound = false → channel ≠ 0 → f.window = 4096)
        ∧ t.out = s.out ++ [Output.bulk f.id 2 channel 0 f.window (u32 0)]) := by
  refine ⟨_, exec_bulkOpen s addr session channel sub, ?_⟩
  have hsessionless : s.start.stump = none → subOk channel sub = true → channel ≠ 3 → channel ≠ 5 → channel ≠ 15 → s.session addr session = none →
      s.openCheck addr session channel sub = abNoSession := by
    intro hstump hsub h3 h5 h15 hnone
    unfold State.openCheck
    dsimp only
    rw [if_neg (by rw [hstump]; decide), if_neg (by rw [hsub]; decide), if_neg h15, if_pos ⟨h3, h5, by rw [hnone]; rfl⟩]
  by_cases hdeaf : s.deaf = true
  · rw [if_pos hdeaf, if_pos hdeaf]
    exact ⟨sb_rxFrame s, s.rxFrame_count⟩
  · rw [if_neg hdeaf, if_neg hdeaf]
    by_cases hcheck : s.openCheck addr session channel sub ≠ 0
    · rw [if_pos hcheck, if_pos hcheck]
      exact ⟨((sb_rxFrame s).trans (State.sendHost_same _ _)).mono (by decide), rfl, hsessionless, rfl, rfl, rfl⟩
    · rw [if_neg hcheck, if_neg hcheck]
      unfold State.flowOpened
      generalize hf : s.rxFrame.flowOf addr session channel sub = f
      have husame : SameBut [.ctr, .host] s (s.rxFrame.flowAdded f) := (sb_rxFrame s).trans (sb_host s.rxFrame _)
      have huflows : (s.rxFrame.flowAdded f).host.flows = s.host.flows ++ [{ f with window := s.rxFrame.firstWindow f }] := rfl
      have husessions : (s.rxFrame.flowAdded f).host.sessions = s.host.sessions := rfl
      have huout : (s.rxFrame.flowAdded f).out = s.out := rfl
      generalize s.rxFrame.flowAdded f = u at *
      obtain ⟨htaken, hflows, hsessions, hout⟩ := u.flowTaken_spec f.id f.channel f.sub
      have hid : f.id = s.host.nextFlow := by rw [← hf]; rfl
      have hchannel : f.channel = channel := by rw [← hf]; rfl
      refine ⟨((husame.trans htaken).trans (State.sendHost_same _ _)).mono (by decide), hsessions.trans husessions, hsessionless,
        { f with window := s.rxFrame.firstWindow f }, hflows.trans huflows, hid, hchannel, by rw [← hf]; rfl, by rw [← hf]; rfl, by rw [← hf]; rfl,
        by rw [← hf]; rfl, by rw [← hf]; rfl, fun hout => if_pos hout, fun hin hch => ?_, ?_⟩
      · show s.rxFrame.firstWindow f = 4096
        unfold State.firstWindow State.grant
        rw [if_neg (by rw [show f.outbound = false from hin]; decide), if_neg (by rw [hchannel]; exact hch)]
      · rw [State.sendHost_out, hout, huout, hchannel]

/-- A checkpoint for which no flow opens in 30 s is skipped. -/
theorem checkpointIsSkipped (s : State) (hheld : s.start.wardenHeld = false) : ∃ t, exec .checkpointSkipped s = .next t ∧
    if s.waitedOut s.snap.checkpoint = true ∨ s.waitedOut s.snap.nextCheckpoint = true then
      t.snap.nextCheckpoint = none ∧ Raised t wardenSrc 0x3305 ∧ SameBut [.snap, .log, .host, .ctr, .out] s t
        ∧ t.snap.checkpoint = (if s.waitedOut s.snap.checkpoint = true then (if s.waitedOut s.snap.nextCheckpoint = true then none else s.snap.nextCheckpoint) else s.snap.checkpoint)
    else t = s := by
  have hexec : exec .checkpointSkipped s = .next
      (let s := if s.waitedOut s.snap.nextCheckpoint then { s with snap := { s.snap with nextCheckpoint := none } }.event wardenSrc 0x3305 else s
       if s.waitedOut s.snap.checkpoint then s.endCheckpoint.event wardenSrc 0x3305 else s) := rfl
  have hsnap (u : State) : (u.event wardenSrc 0x3305).snap = u.snap := by simp
  have hevent (u : State) : SameBut [.log, .host, .ctr, .out] u (u.event wardenSrc 0x3305) := State.event_touch (List.Subset.refl _) u _ _ _ (Touch.refl _ u)
  refine ⟨_, hexec, ?_⟩
  clear hexec
  dsimp only
  cases hnext : s.waitedOut s.snap.nextCheckpoint with
  | false =>
    rw [if_neg (show ¬(false = true) by decide)]
    cases hnow : s.waitedOut s.snap.checkpoint with
    | false => rfl
    | true =>
      rw [if_pos (Or.inl rfl), if_pos rfl, if_pos rfl, if_neg (show ¬(false = true) by decide)]
      exact ⟨by rw [hsnap]; rfl, raised_event _ _ _ _ hheld, ((sb_snap s _).trans (hevent _)).mono (by decide), by rw [hsnap]; rfl⟩
  | true =>
    rw [if_pos rfl, if_pos (Or.inr rfl), if_pos rfl]
    generalize hu : ({ s with snap := { s.snap with nextCheckpoint := none } } : State) = u
    have husame : SameBut [.snap] s u := hu ▸ sb_snap s _
    have huheld : u.start.wardenHeld = false := hu ▸ hheld
    have hucheckpoint : u.snap.checkpoint = s.snap.checkpoint := by rw [← hu]
    have hunext : u.snap.nextCheckpoint = none := by rw [← hu]
    have hwaited : (u.event wardenSrc 0x3305).waitedOut (u.event wardenSrc 0x3305).snap.checkpoint = s.waitedOut s.snap.checkpoint := by
      rw [hsnap, hucheckpoint]
      unfold State.waitedOut
      rw [show (u.event wardenSrc 0x3305).time = s.time from (by simp : (u.event wardenSrc 0x3305).time = u.time).trans (husame .time (by decide))]
    rw [hwaited]
    cases hnow : s.waitedOut s.snap.checkpoint with
    | false =>
      rw [if_neg (show ¬(false = true) by decide), if_neg (show ¬(false = true) by decide)]
      exact ⟨by rw [hsnap, hunext], raised_event _ _ _ _ huheld, (husame.trans (hevent u)).mono (by decide), by rw [hsnap, hucheckpoint]⟩
    | true =>
      rw [if_pos rfl, if_pos rfl]
      generalize hv : u.event wardenSrc 0x3305 = v
      have hvsnap : v.snap = u.snap := hv ▸ hsnap u
      have hvsame : SameBut [.log, .host, .ctr, .out] u v := hv ▸ hevent u
      have hvheld : v.start.wardenHeld = false := (congrArg Startup.wardenHeld (hvsame .start (by decide))).trans huheld
      exact ⟨by rw [hsnap]; rfl, raised_event _ _ _ _ hvheld, (((husame.trans hvsame).trans (sb_snap v _)).trans (hevent _)).mono (by decide),
        by rw [hsnap]; exact (congrArg Snaps.nextCheckpoint hvsnap).trans hunext⟩

/-- Settles O50: the opening of a flow, and each of its ends. -/
theorem flowsOpenAndClose : Obligations.FlowsOpenAndClose := by
  unfold Obligations.FlowsOpenAndClose
  refine ⟨openIsAnswered, fun s id f h => ⟨fun code => ⟨_, exec_bulkOpenAck h code, ?_⟩, fun blocks flash hout => ⟨_, exec_bulkClose_outbound h hout blocks flash, ?_⟩,
    fun blocks flash hin hchannel hall => ?_, fun blocks flash hin hheld hseen hsome => ?_, fun code => ⟨_, exec_bulkCloseAck h code, ?_⟩, ?_⟩,
    checkpointIsSkipped⟩
  · split
    · exact ⟨State.flow_modFlow (s := s.rxFrame) (g := fun f => { f with lastRx := s.time.cycles }) h fun _ => rfl,
        ((sb_rxFrame s).trans (sb_host s.rxFrame _)).mono (by decide)⟩
    · exact State.closeFlow_flow _ (State.flow_id h)
  · exact ⟨(State.flow_congr rfl id).trans (State.closeFlow_flow _ (State.flow_id h)), by rw [State.sendHost_out, List.getLast?_concat]⟩
  · have hexec := exec_bulkClose_inbound h hin blocks flash
    have hid : f.id = id := State.flow_id h
    rw [Flow.missing_none f (hall.trans (le_max_left _ _)), show (s.closeNoted id blocks).bulkNak f [] = s.closeNoted id blocks from rfl,
      State.tryFinish_whole (State.closeNoted_flow h blocks) rfl hall] at hexec
    exact ⟨_, hexec, State.finishFlow_upload (f := f.closing s.time.cycles blocks) hid hchannel flash⟩
  · have hexec := exec_bulkClose_inbound h hin blocks flash
    have hmissing : f.missing (max f.next f.seen) blocks = (List.range (blocks - f.next)).map (f.next + ·) := by
      unfold Flow.missing
      rw [max_eq_left hseen, hheld]
      exact List.filter_eq_self.2 fun _ _ => rfl
    have hne : (List.range (blocks - f.next)).map (f.next + ·) ≠ [] := by
      rw [Ne, List.map_eq_nil_iff, List.range_eq_nil]
      omega
    rw [hmissing, State.bulkNak, if_neg hne] at hexec
    have hflow := State.closeNoted_flow h blocks
    have hsame := s.closeNoted_same id blocks
    have hcount : (s.closeNoted id blocks).count kBulkNaks = s.count kBulkNaks := s.rxFrame_count_other _ (by decide)
    generalize s.closeNoted id blocks = u at *
    have hsent (o : Output) : ((u.bump kBulkNaks 1).sendHost o).flow id = some (f.closing s.time.cycles blocks) := hflow
    rw [State.tryFinish_waits (hsent _) rfl hsome] at hexec
    refine ⟨_, hexec, ((hsame.trans (sb_ctr u kBulkNaks 1)).trans (State.sendHost_same _ _)).mono (by decide), (hsent _).trans ?_, ?_, ?_⟩
    · unfold Flow.closing
      rw [max_eq_right (hseen.trans hsome.le)]
    · rw [State.sendHost_count _ _ _ (by decide), State.bump_count, hcount]
    · rw [State.sendHost_out]
      exact congrArg (· ++ _) (hsame .out (by decide) : u.out = s.out)
  · by_cases hearly : f.outbound = false ∨ f.count = none
    · rw [if_pos hearly, if_pos (hearly.imp_left fun h => by rw [h]; rfl)]
      exact sb_rxFrame s
    · rw [if_neg hearly, if_neg (mt (Or.imp_left fun h => by simpa using h) hearly)]
      cases hc : s.snap.checkpoint with
      | none => exact ⟨State.closeFlow_flow _ (State.flow_id h), fun c hsome => absurd hsome.symm (Option.some_ne_none c)⟩
      | some c =>
        dsimp only
        by_cases hsent : c.flow = some id ∧ code = 0
        · rw [if_pos hsent]
          exact ⟨State.closeFlow_flow _ (State.flow_id h), fun _ _ _ _ => s.checkpointSent_spec f⟩
        · rw [if_neg hsent]
          refine ⟨State.closeFlow_flow _ (State.flow_id h), fun c' hc' hflow hcode => absurd ⟨?_, hcode⟩ hsent⟩
          rw [Option.some.inj hc']
          exact hflow
  · have hexec : exec (.bulkFlowTimeout id) s = .next
        (if s.time.cycles < f.lastRx + 30 * secCycles then s else (s.event ethSrc 0x6502 (u32 f.channel ++ u32 f.id)).closeFlow f) := by
      show execBulkFlowTimeout id s = _
      unfold execBulkFlowTimeout
      rw [h]
    refine ⟨_, hexec, ?_⟩
    split
    · rfl
    · exact State.closeFlow_flow _ (State.flow_id h)
end

section
/-! SUPPORT and PROOFS. Blocks are taken in order, acknowledged, named where missing, and sent again (R405, R417, R419 to R422, R467). -/

namespace Sys2Proof.Machine

section
variable {s : State} {id : Nat} {f : Flow}

/-! ### Sending -/

/-- An `ACK` moves the window of a flow on. -/
def Flow.acked (f : Flow) (now n : Nat) : Flow := { f with window := f.next + n, sinceAck := 0, lastAck := now }
theorem State.sendAck_same (s : State) (f : Flow) (n : Nat) : SameBut [.host, .ctr, .out] s (s.sendAck f n) :=
  State.sendAck_touch (List.Subset.refl _) s f n (Touch.refl _ s)
theorem State.sendAck_flow (h : s.flow id = some f) (n : Nat) : (s.sendAck f n).flow id = some (f.acked s.time.cycles n) := by
  have hmod := State.flow_modFlow (g := fun x => { x with window := x.next + n, sinceAck := 0, lastAck := s.time.cycles }) h fun _ => rfl
  unfold State.sendAck
  rw [State.flow_id h]
  exact hmod
/-- Held blocks go out again, in order, and are counted. -/
theorem State.resendBlocks_spec (s : State) (f : Flow) (l : List (Nat × Bytes)) :
    SameBut [.host, .ctr, .out] s (s.resendBlocks f l) ∧ (∀ id, (s.resendBlocks f l).flow id = s.flow id) ∧
      (s.resendBlocks f l).out = s.out ++ l.map (fun b => Output.bulk f.id 0 f.channel b.1 0 b.2) ∧
      (s.resendBlocks f l).count kBulkResends = s.count kBulkResends + l.length := by
  refine ⟨State.resendBlocks_touch (List.Subset.refl _) s f l (Touch.refl _ s), ?_⟩
  unfold State.resendBlocks
  induction l generalizing s with
  | nil => exact ⟨fun _ => rfl, (List.append_nil _).symm, rfl⟩
  | cons b l ih =>
    have hcount : (((s.bump kBulkResends 1).touch f.session).sendHost (Output.bulk f.id 0 f.channel b.1 0 b.2)).count kBulkResends = s.count kBulkResends + 1 :=
      (State.sendHost_count _ _ _ (by decide)).trans (State.bump_count s kBulkResends 1)
    obtain ⟨hflow, hout, hcounted⟩ := ih (((s.bump kBulkResends 1).touch f.session).sendHost (Output.bulk f.id 0 f.channel b.1 0 b.2))
    have hkept : (((s.bump kBulkResends 1).touch f.session).sendHost (Output.bulk f.id 0 f.channel b.1 0 b.2)).host.flows = s.host.flows := rfl
    simp only [List.foldl_cons]
    refine ⟨fun id => (hflow id).trans (State.flow_congr hkept id), hout.trans ?_, hcounted.trans ?_⟩
    · rw [State.sendHost_out, List.map_cons, List.append_assoc]
      rfl
    · rw [hcount, List.length_cons]
      omega
/-- A `NAK` names blocks. -/
theorem State.bulkNak_spec (s : State) (f : Flow) (block : Nat) : SameBut [.ctr, .out] s (s.bulkNak f [block]) ∧
    (s.bulkNak f [block]).out = s.out ++ [Output.bulk f.id 4 f.channel 0 0 (u64 block)] :=
  ⟨State.bulkNak_touch (List.Subset.refl _) s f [block] (Touch.refl _ s), rfl⟩

/-! ### A block that fails its check -/

/-- A block that has failed its check once more. -/
def Flow.failed (f : Flow) (block : Nat) : Flow := { f with fails := sset 0 f.fails block (sget 0 f.fails block + 1) }
/-- The discard of a block is counted. -/
def State.discarded (s : State) : State := { s.bump kOtdinDiscards 1 with host := { s.host with crcDiscard := true } }
theorem State.discarded_same (s : State) : SameBut [.host, .ctr] s s.discarded :=
  ((sb_ctr s kOtdinDiscards 1).trans (sb_host (s.bump kOtdinDiscards 1) _)).mono (by decide)
/-- The failure of a block is noted. -/
def State.blockFailed (s : State) (f : Flow) (block : Nat) : State :=
  s.discarded.modFlow f.id fun x => { x with fails := sset 0 x.fails block (sget 0 f.fails block + 1) }
theorem State.blockFailed_spec (h : s.flow id = some f) (block : Nat) : SameBut [.host, .ctr] s (s.blockFailed f block) ∧
    (s.blockFailed f block).flow id = some (f.failed block) ∧ (s.blockFailed f block).host.crcDiscard = true ∧ (s.blockFailed f block).out = s.out := by
  have hflow := State.flow_modFlow (s := s.discarded) (g := fun x => { x with fails := sset 0 x.fails block (sget 0 f.fails block + 1) }) h fun _ => rfl
  unfold State.blockFailed
  rw [State.flow_id h]
  exact ⟨(s.discarded_same.trans (sb_host s.discarded _)).mono (by decide), hflow, rfl, rfl⟩
theorem State.badBlock_named (h : s.flow id = some f) {block : Nat} (hfew : sget 0 f.fails block < 15) :
    SameBut [.host, .ctr, .out] s (s.badBlock f block) ∧ (s.badBlock f block).out = s.out ++ [Output.bulk f.id 4 f.channel 0 0 (u64 block)]
      ∧ (s.badBlock f block).flow id = some (f.failed block) ∧ (s.badBlock f block).host.crcDiscard = true := by
  have hbad : s.badBlock f block = (s.blockFailed f block).bulkNak f [block] := if_pos (by omega)
  obtain ⟨hsame, hflow, hdiscard, hkept⟩ := State.blockFailed_spec h block
  rw [hbad]
  generalize s.blockFailed f block = u at *
  obtain ⟨hnak, hout⟩ := State.bulkNak_spec u f block
  have hhost : (u.bulkNak f [block]).host = u.host := hnak .host (by decide)
  exact ⟨(hsame.trans hnak).mono (by decide), hout.trans (by rw [hkept]), (State.flow_congr (congrArg HostPort.flows hhost) id).trans hflow,
    (congrArg HostPort.crcDiscard hhost).trans hdiscard⟩
theorem State.badBlock_closes (h : s.flow id = some f) {block : Nat} (hmany : ¬sget 0 f.fails block < 15) :
    (s.badBlock f block).flow id = none ∧ (s.badBlock f block).count kBulkCrcLimits = s.count kBulkCrcLimits + 1 := by
  have hbad : s.badBlock f block = ((s.discarded.bump kBulkCrcLimits 1).event ethSrc 0x1207 (u32 f.channel ++ u32 f.id)).closeFlow f :=
    if_neg (by omega)
  rw [hbad]
  refine ⟨State.closeFlow_flow _ (State.flow_id h), (State.closeFlow_count _ f (by decide) (by decide) (by decide)).trans ?_⟩
  rw [State.event_count _ _ _ _ _ (by decide) (by decide) (by decide), State.bump_count]
  exact congrArg (· + 1) (s.bump_count_other kOtdinDiscards kBulkCrcLimits 1 (by decide))

/-! ### A block in order -/

/-- The flow that has taken a block; its session has been active. -/
def Flow.taking (f : Flow) (now block : Nat) (body : Bytes) : Flow :=
  Flow.absorb (f.held.length + 1) { f with held := f.held ++ [(block, body)], seen := max f.seen (block + 1), sinceAck := f.sinceAck + 1,
                                           lastBlock := now, fails := sset 0 f.fails block 0 }
theorem Flow.absorb_id (n : Nat) (f : Flow) : (Flow.absorb n f).id = f.id := by
  induction n generalizing f with
  | zero => rfl
  | succ n ih =>
    unfold Flow.absorb
    split
    · exact ih _
    · rfl
/-- `g` is `f` once it has taken its next block. -/
def Took (f g : Flow) (body : Bytes) : Prop :=
  g.id = f.id ∧
  g.channel = f.channel ∧
  g.sub = f.sub ∧
  g.next = f.next + 1 ∧
  g.held = [] ∧
  g.count = f.count ∧
  g.data = f.data ++ body ∧
  g.sinceAck = f.sinceAck + 1
/-- With nothing held, the next block is appended. -/
theorem Flow.taking_next {now rx : Nat} {body : Bytes} (hheld : f.held = []) : Took f (Flow.taking { f with lastRx := rx } now f.next body) body := by
  have htaking : Flow.taking { f with lastRx := rx } now f.next body =
      { f with lastRx := rx, next := f.next + 1, data := f.data ++ body, held := [], seen := max f.seen (f.next + 1), sinceAck := f.sinceAck + 1,
               lastBlock := now, fails := sset 0 f.fails f.next 0 } := by
    unfold Flow.taking
    dsimp only
    rw [hheld]
    show Flow.absorb 1 _ = _
    unfold Flow.absorb
    dsimp only [List.nil_append]
    rw [List.find?_cons_of_pos (by simp)]
    dsimp only
    rw [List.filter_cons_of_neg (by simp)]
    rfl
  rw [htaking]
  exact ⟨rfl, rfl, rfl, rfl, rfl, rfl, rfl, rfl⟩

/-- The state in which a block has been heard. -/
def State.blockHeard (s : State) (id : Nat) (f : Flow) : State := (s.rxFrame.heard id).touch f.session
theorem State.blockHeard_flow (h : s.flow id = some f) : (s.blockHeard id f).flow id = some { f with lastRx := s.time.cycles } :=
  State.flow_modFlow (s := s.rxFrame) (g := fun f => { f with lastRx := s.time.cycles }) h fun _ => rfl
theorem State.blockHeard_same (s : State) (id : Nat) (f : Flow) : SameBut [.host, .ctr] s (s.blockHeard id f) :=
  ((sb_rxFrame s).trans ((sb_host s.rxFrame _).trans (sb_host (s.rxFrame.heard id) _))).mono (by decide)

/-- The block is taken, and what is whole goes on. -/
def State.blockTaken (s : State) (id : Nat) (f : Flow) (block : Nat) (body : Bytes) (flash : FlashReport) : State :=
  let t := ((s.modFlow id fun x => x.taking s.time.cycles block body).bulkNak f (f.missing f.seen block)).takeBytes id
  (match t.flow id with | some g => if 32 ≤ g.sinceAck then t.sendAck g (t.grant g) else t | none => t).tryFinish id flash
theorem exec_bulkData (h : s.flow id = some f) (hin : f.outbound = false) (block : Nat) (body : Bytes) (crc : Nat) (flash : FlashReport) :
    exec (.bulkData id block body crc flash) s = .next
      (if crc ≠ obCrc 0 f.channel id block 0 0 body then s.rxFrame.badBlock f block
       else if block < f.next ∨ f.window ≤ block ∨ 8192 < body.length ∨ (f.held.any fun h => h.1 = block) = true then s.blockHeard id f
       else (s.blockHeard id f).blockTaken id f block body flash) := by
  show execBulkData id block body crc flash s = _
  unfold execBulkData
  rw [State.onFlow_of h]
  dsimp only
  rw [if_neg (by rw [hin]; decide)]
  rfl
theorem State.takeBytes_upload {g : Flow} (h : s.flow id = some g) (hchannel : g.channel = 1)
    (hroom : s.libraryUsed g.sub + (s.formatsNow g.sub).length * g.data.length ≤ libraryBytes) : s.takeBytes id = s := by
  unfold State.takeBytes
  rw [h]
  dsimp only
  rw [hchannel]
  exact if_neg (Nat.not_lt.2 hroom)
theorem State.tryFinish_open {flash : FlashReport} (h : s.flow id = some f) (hcount : f.count = none) : s.tryFinish id flash = s := by
  unfold State.tryFinish
  rw [h]
  dsimp only
  rw [hcount]

/-- A block of an upload in order is appended, and every 32nd is acknowledged. -/
theorem State.blockTaken_upload {body : Bytes} {flash : FlashReport} (h : ∃ now, s.flow id = some { f with lastRx := now }) (hchannel : f.channel = 1)
    (hheld : f.held = []) (hseen : f.seen = f.next) (hcount : f.count = none)
    (hroom : s.libraryUsed f.sub + (s.formatsNow f.sub).length * (f.data.length + body.length) ≤ libraryBytes) :
    ∃ g, (s.blockTaken id f f.next body flash).flow id = some g ∧ g.data = f.data ++ body ∧ g.next = f.next + 1 ∧ g.held = [] ∧
      SameBut [.host, .ctr, .out] s (s.blockTaken id f f.next body flash) ∧
      (f.sinceAck < 31 → g.sinceAck = f.sinceAck + 1 ∧ (s.blockTaken id f f.next body flash).out = s.out) ∧
      (31 ≤ f.sinceAck → g.sinceAck = 0 ∧ g.window = f.next + 4097 ∧
        (s.blockTaken id f f.next body flash).out = s.out ++ [Output.bulk f.id 3 1 (f.next + 1) 4096 []]) := by
  obtain ⟨now, h⟩ := h
  have hflow := State.flow_modFlow (g := fun x => x.taking s.time.cycles f.next body) h fun x => Flow.absorb_id _ _
  obtain ⟨hid, hchannel', hsub, hnext, hempty, hcount', hdata, hacks⟩ := Flow.taking_next (f := f) (now := s.time.cycles) (rx := now) (body := body) hheld
  unfold State.blockTaken
  rw [hseen, Flow.missing_none f (le_refl _), show ∀ u : State, u.bulkNak f [] = u from fun _ => rfl]
  have hsame : SameBut [.host] s (s.modFlow id fun x => x.taking s.time.cycles f.next body) := sb_host s _
  have hused : (s.modFlow id fun x => x.taking s.time.cycles f.next body).libraryUsed f.sub = s.libraryUsed f.sub := rfl
  have hformats : (s.modFlow id fun x => x.taking s.time.cycles f.next body).formatsNow f.sub = s.formatsNow f.sub := rfl
  generalize s.modFlow id (fun x => x.taking s.time.cycles f.next body) = u at *
  generalize Flow.taking { f with lastRx := now } s.time.cycles f.next body = g at *
  rw [hchannel] at hchannel'
  rw [hcount] at hcount'
  have hout : u.out = s.out := hsame .out (by decide)
  rw [State.takeBytes_upload hflow hchannel' (by rw [hsub, hused, hformats, hdata, List.length_append]; exact hroom)]
  dsimp only
  rw [hflow]
  dsimp only
  by_cases hmany : 31 ≤ f.sinceAck
  · have hgrant : u.grant g = 4096 := if_neg (by rw [hchannel']; decide)
    have hsent := State.sendAck_flow hflow 4096
    rw [if_pos (show 32 ≤ g.sinceAck by rw [hacks]; omega), hgrant, State.tryFinish_open hsent hcount']
    refine ⟨_, hsent, hdata, hnext, hempty, (hsame.trans (State.sendAck_same _ _ _)).mono (by decide), fun hfew => absurd hmany (by omega),
      fun _ => ⟨rfl, congrArg (· + 4096) hnext, ?_⟩⟩
    rw [State.sendAck, State.sendHost_out, hid, hchannel', hnext]
    exact congrArg (· ++ _) hout
  · rw [if_neg (show ¬32 ≤ g.sinceAck by rw [hacks]; omega), State.tryFinish_open hflow hcount']
    exact ⟨g, hflow, hdata, hnext, hempty, hsame.mono (by decide), fun _ => ⟨hacks, hout⟩, fun h => absurd h hmany⟩

/-! ### Acknowledgements of the host -/

/-- The flow that an `ACK` of the host has come for. -/
def Flow.freed (f : Flow) (now block window : Nat) : Flow :=
  if f.outbound = true then
    { f with
      lastRx := now
      lastAck := now
      held := f.held.filter (fun b => decide (block ≤ b.1))
      window := block + window }
  else { f with lastRx := now }
/-- The state in which an `ACK` of the host has been noted. -/
def State.ackNoted (s : State) (id block window : Nat) : State :=
  (s.rxFrame.heard id).modFlow id fun f =>
    if f.outbound then { f with held := f.held.filter fun b => decide (block ≤ b.1), window := block + window, lastAck := s.time.cycles } else f
theorem State.ackNoted_flow (h : s.flow id = some f) (block window : Nat) :
    (s.ackNoted id block window).flow id = some (f.freed s.time.cycles block window) := by
  refine (State.flow_modFlow (State.flow_modFlow (s := s.rxFrame) (g := fun f => { f with lastRx := s.time.cycles }) h fun _ => rfl) fun x => ?_).trans ?_
  · split <;> rfl
  · unfold Flow.freed
    cases f.outbound <;> rfl
theorem exec_bulkAck (h : s.flow id = some f) (block window : Nat) :
    exec (.bulkAck id block window []) s = .next ((s.ackNoted id block window).pumpFlow id) := by
  show execBulkAck id block window [] s = _
  unfold execBulkAck
  rw [State.onFlow_of h]
  rfl
/-- A flow that no stream feeds has nothing to send. -/
theorem State.pumpFlow_quiet {g : Flow} (h : s.flow id = some g) (hchannel : g.channel ≠ 15)
    (hfree : ∀ c, s.snap.checkpoint = some c → c.flow ≠ some id) : s.pumpFlow id = s := by
  have hbytes : s.flowBytes g = none := by
    unfold State.flowBytes
    rw [if_neg hchannel, State.flow_id h]
    cases hc : s.snap.checkpoint with
    | none => rfl
    | some c => exact if_neg (hfree c hc)
  unfold State.pumpFlow
  rw [h]
  dsimp only
  rw [hbytes]
end
end Sys2Proof.Machine
end

section
open Sys2Proof Sys2Proof.Machine

/-- Settles O51: what a block, its acknowledgement and the timers of a flow do to it. -/
theorem blocksAreCarried : Obligations.BlocksAreCarried := by
  unfold Obligations.BlocksAreCarried
  intro s id f h
  refine ⟨fun hin block body crc flash => ⟨_, exec_bulkData h hin block body crc flash, ?_⟩, ?_, fun block window hchannel hfree =>
    ⟨_, exec_bulkAck h block window, ?_⟩, fun blocks => ?_, ?_⟩
  · by_cases hcrc : crc ≠ obCrc 0 f.channel id block 0 0 body
    · rw [if_pos hcrc, if_pos hcrc]
      split
      · next hfew =>
        obtain ⟨hsame, hout, hflow, hdiscard⟩ := State.badBlock_named (s := s.rxFrame) h hfew
        exact ⟨((sb_rxFrame s).trans hsame).mono (by decide), hout, hflow, hdiscard⟩
      · next hmany =>
        obtain ⟨hnone, hcount⟩ := State.badBlock_closes (s := s.rxFrame) h hmany
        exact ⟨hnone, hcount.trans (congrArg (· + 1) (s.rxFrame_count_other _ (by decide)))⟩
    · rw [if_neg hcrc, if_neg hcrc]
      have hheld : (f.held.any fun h => h.1 = block) = true ↔ ∃ h ∈ f.held, h.1 = block := by simp
      by_cases hpast : block < f.next ∨ f.window ≤ block ∨ 8192 < body.length ∨ (f.held.any fun h => h.1 = block) = true
      · rw [if_pos hpast, if_pos (by rwa [hheld] at hpast)]
        exact ⟨rfl, s.blockHeard_same id f, State.blockHeard_flow h⟩
      · rw [if_neg hpast, if_neg (by rwa [hheld] at hpast)]
        intro hchannel hnext hnone hseen hcount hroom
        obtain ⟨g, hflow, hdata, hg, hgheld, hsame, hfew, hmany⟩ := State.blockTaken_upload (s := s.blockHeard id f) (flash := flash)
          ⟨_, State.blockHeard_flow h⟩ hchannel hnone hseen hcount hroom
        rw [hnext]
        exact ⟨g, hflow, hdata, hg, hgheld, ((s.blockHeard_same id f).trans hsame).mono (by decide), hfew, hmany⟩
  · have hexec : exec (.ackTimer id) s = .next (if f.outbound ∨ f.sinceAck = 0 ∨ s.time.cycles < f.lastBlock + 20000 then s else s.sendAck f (s.grant f)) := by
      show execAckTimer id s = _
      unfold execAckTimer
      rw [h]
    refine ⟨_, hexec, ?_⟩
    split
    · rfl
    · exact ⟨s.sendAck_same f _, rfl, State.sendAck_flow h _⟩
  · have hsame : SameBut [.host, .ctr] s (s.ackNoted id block window) :=
      ((sb_rxFrame s).trans ((sb_host s.rxFrame _).trans (sb_host (s.rxFrame.heard id) _))).mono (by decide)
    have hflow := State.ackNoted_flow h block window
    rw [State.pumpFlow_quiet hflow (by unfold Flow.freed; split <;> exact hchannel) hfree]
    exact ⟨rfl, hsame, hflow⟩
  · have hexec : exec (.bulkNak id blocks) s = .next ((s.rxFrame.heard id).resendBlocks f (if f.outbound then f.held.filter fun b => blocks.contains b.1 else [])) := by
      show execBulkNak id blocks s = _
      unfold execBulkNak
      rw [State.onFlow_of h]
    refine ⟨_, hexec, ?_⟩
    obtain ⟨hsame, hflow, hout, hcount⟩ := (s.rxFrame.heard id).resendBlocks_spec f (if f.outbound then f.held.filter fun b => blocks.contains b.1 else [])
    refine ⟨(((sb_rxFrame s).trans (sb_host s.rxFrame _)).trans hsame).mono (by decide), (hflow id).trans ?_, hout, hcount.trans ?_⟩
    · exact State.flow_modFlow (s := s.rxFrame) (g := fun f => { f with lastRx := s.time.cycles }) h fun _ => rfl
    · exact congrArg (· + _) (s.rxFrame_count_other _ (by decide))
  · have hexec : exec (.resendTimer id) s = .next (if !f.outbound ∨ s.time.cycles < f.lastAck + 5 * msCycles then s
        else (s.modFlow id fun f => { f with lastAck := s.time.cycles }).resendBlocks f (f.held.take 1)) := by
      show execResendTimer id s = _
      unfold execResendTimer
      rw [h]
    refine ⟨_, hexec, ?_⟩
    have hiff : ((!f.outbound) = true ∨ s.time.cycles < f.lastAck + 5 * msCycles) ↔ (f.outbound = false ∨ s.time.cycles < f.lastAck + 5 * msCycles) := by
      cases f.outbound <;> simp
    by_cases hquiet : f.outbound = false ∨ s.time.cycles < f.lastAck + 5 * msCycles
    · rw [if_pos hquiet, if_pos (hiff.2 hquiet)]
    · rw [if_neg hquiet, if_neg (mt hiff.1 hquiet)]
      obtain ⟨hsame, hflow, hout, -⟩ := (s.modFlow id fun f => { f with lastAck := s.time.cycles }).resendBlocks_spec f (f.held.take 1)
      exact ⟨((sb_host s _).trans hsame).mono (by decide), (hflow id).trans (State.flow_modFlow (g := fun f => { f with lastAck := s.time.cycles }) h fun _ => rfl), hout⟩
end

section
/-! SUPPORT. Frames on the skid links: naks, data, training, what a port keeps (R376 to R381). -/

namespace Sys2Proof.Machine

section
variable {s u : State} {n : Nat}

/-! ### A port and the rest of the state -/

theorem State.port_congr {s t : State} (h : t.skid = s.skid) (n : Nat) : t.port n = s.port n := by rw [State.port, h, State.port]
theorem sb_emit (s : State) (o : Output) : SameBut [.out] s (s.emit o) := by
  intro p hp
  cases p with
  | out => exact absurd (by decide) hp
  | _ => rfl
theorem sb_net (s : State) (x : Net) : SameBut [.net] s { s with net := x } := by
  intro p hp
  cases p with
  | net => exact absurd (by decide) hp
  | _ => rfl
theorem sb_stress (s : State) (k : Nat) : SameBut [.snap] s (s.stress k) := State.stress_touch (List.Subset.refl _) s k (Touch.refl _ s)
theorem Kept.out_sub {s t : State} (h : Kept s t) : ∀ o ∈ s.out, o ∈ t.out := fun _ ho => h.2.1.subset ho
/-- A port that has nothing to send sends nothing. -/
theorem State.pumpPort_idle (h : (s.port n).backlog = 0) : s.pumpPort n = s := by
  unfold State.pumpPort
  rw [h]
  rfl
theorem State.emit_port (s : State) (o : Output) (k : Nat) : (s.emit o).port k = s.port k := rfl
theorem State.modPort_state (s : State) (n k : Nat) {g : SkidPort → SkidPort} (hg : ∀ p, (g p).state = p.state) :
    ((s.modPort n g).port k).state = (s.port k).state := by
  by_cases hk : k = n
  · subst hk
    rw [State.modPort_port, hg]
  · rw [State.modPort_other _ _ _ _ hk]
/-- Sending changes no port's state. -/
theorem State.beginMsg_state (s : State) (n cls k : Nat) : ((s.beginMsg n cls).port k).state = (s.port k).state := by
  unfold State.beginMsg
  dsimp only
  split
  · rfl
  · split
    · rfl
    · next q arb _ =>
      refine (State.modPort_state _ n k ?_).trans ?_
      · exact fun _ => rfl
      · split <;> rfl
theorem State.sendFrame_state (s : State) (n cls j k : Nat) : ((s.sendFrame n cls j).port k).state = (s.port k).state := by
  unfold State.sendFrame
  split
  · rfl
  · dsimp only
    rw [State.emit_port]
    exact State.modPort_state s n k fun _ => rfl
theorem State.pumpLoop_state (s : State) (n fuel k : Nat) : ((s.pumpLoop n fuel).port k).state = (s.port k).state := by
  induction fuel generalizing s with
  | zero => rfl
  | succ fuel ih =>
    unfold State.pumpLoop
    split
    · next t ht =>
      refine (ih t).trans ?_
      unfold State.sendNext at ht
      dsimp only at ht
      split at ht
      · cases ht
      · obtain ⟨c, -, rfl⟩ := Option.map_eq_some_iff.1 ht
        exact (State.sendFrame_state _ _ _ _ _).trans (State.beginMsg_state _ _ _ _)
    · rfl
theorem State.pumpPort_state (s : State) (n k : Nat) : ((s.pumpPort n).port k).state = (s.port k).state := s.pumpLoop_state n _ k
theorem State.putMsg_state (s : State) (n : Nat) (came : Option Nat) (m : Msg) (k : Nat) : ((s.putMsg n came m).port k).state = (s.port k).state := by
  unfold State.putMsg
  dsimp only
  rw [State.pumpPort_state, State.emit_port]
  exact State.modPort_state s n k fun _ => rfl
theorem State.linkRecords_state (s : State) (l : List Nat) (k : Nat) : ((s.linkRecords l).port k).state = (s.port k).state := by
  unfold State.linkRecords
  split
  · rfl
  · exact foldl_same (fun s : State => (s.port k).state) _ _ _ fun s n => State.putMsg_state _ _ _ _ _

/-! ### Naks and retrains -/

/-- A bare frame: 0 idle, 3 `NAK`. -/
def bareOut (n kind ack cls credits : Nat) : Output :=
  .frame n (sealFrame { kind := kind, cls := 0, first := false, last := false, seq := 0, ack := ack, creditClass := cls, credits := credits,
                        payload := List.replicate 256 0#8, fcrc := 0 })
/-- A port that retrains has entered its retrain, counted and reported. -/
theorem State.retrainPort_spec (s : State) (n : Nat) : ((s.retrainPort n).port n) = { s.port n with state := .retraining, retrained := true } ∧
    (s.retrainPort n).count kSkidRetrains = s.count kSkidRetrains + 1 ∧ (s.start.wardenHeld = false → Raised (s.retrainPort n) (spineSrc n) 0x6201) := by
  have hport := State.modPort_port s n fun p => { p with state := .retraining, retrained := true }
  have hctr : (s.modPort n fun p => { p with state := .retraining, retrained := true }).count kSkidRetrains = s.count kSkidRetrains := rfl
  have hstart : (s.modPort n fun p => { p with state := .retraining, retrained := true }).start = s.start := rfl
  unfold State.retrainPort
  generalize (s.modPort n fun p => { p with state := .retraining, retrained := true }) = v at *
  refine ⟨Eq.trans (State.port_congr (t := ((v.bump kSkidRetrains 1).stress 4096).event (spineSrc n) 0x6201) (s := v) (by simp) n) hport,
    (State.event_count _ _ _ _ _ (by decide) (by decide) (by decide)).trans ((State.stress_count _ _ _).trans ((v.bump_count kSkidRetrains 1).trans (by rw [hctr]))),
    fun h => raised_event _ _ _ _ ?_⟩
  exact (congrArg Startup.wardenHeld hstart).trans h
/-- A frame fails for good. -/
theorem State.skidFails_spec (s : State) (n : Nat) : Faulted (s.skidFails n) (spineSrc n) 0x1104 ∧ (s.skidFails n).safe.latch = true ∧ (s.skidFails n).mem = s.mem := by
  obtain ⟨hfaulted, hlatch, hmem, -⟩ := fault_spec_of s (u := s) (spineSrc n) 0x1104 (u16 n) rfl rfl
  exact ⟨hfaulted, hlatch, hmem⟩
/-- A port has named the frame it expects; what became of it for a run of such naks. -/
def Naked (n : Nat) (p : SkidPort) (s t : State) : Prop :=
  (p.rxNakRun < 3 ∨ p.state ≠ .up → SameBut [.skid, .out] s t ∧ t.out = s.out ++ [bareOut n 3 p.rxSeq 0 0]
    ∧ t.port n = { p with nakSent := true, rxNakRun := p.rxNakRun + 1 }) ∧
  (3 ≤ p.rxNakRun → p.state = .up → p.rxNakRetrained = false → s.start.wardenHeld = false → (t.port n).state = .retraining ∧ (t.port n).rxNakRetrained = true
    ∧ t.count kSkidRetrains = s.count kSkidRetrains + 1 ∧ Raised t (spineSrc n) 0x6201) ∧
  (3 ≤ p.rxNakRun → p.state = .up → p.rxNakRetrained = true → Faulted t (spineSrc n) 0x1104 ∧ t.safe.latch = true ∧ t.mem = s.mem)
theorem State.sendNak_naked (h : SameBut [.skid] s u) (n : Nat) : Naked n (u.port n) s (u.sendNak n) := by
  have hout : u.out = s.out := h .out (by decide)
  unfold State.sendNak
  have hport := State.modPort_port u n fun p => { p with nakSent := true, rxNakRun := p.rxNakRun + 1 }
  have hsame := (sb_modPort u n fun p => { p with nakSent := true, rxNakRun := p.rxNakRun + 1 })
  generalize hv : (u.modPort n fun p => { p with nakSent := true, rxNakRun := p.rxNakRun + 1 }) = v at *
  have hvout : (v.bareFrame n 3 0 0).out = s.out ++ [bareOut n 3 (u.port n).rxSeq 0 0] := by
    show v.out ++ [bareOut n 3 (v.port n).rxSeq 0 0] = _
    rw [hport, show v.out = s.out from (hsame .out (by decide)).trans hout]
  have hvport : (v.bareFrame n 3 0 0).port n = { u.port n with nakSent := true, rxNakRun := (u.port n).rxNakRun + 1 } := hport
  have hall : SameBut [.skid, .out] s (v.bareFrame n 3 0 0) := ((h.trans hsame).trans (sb_emit v _)).mono (by decide)
  generalize v.bareFrame n 3 0 0 = w at *
  dsimp only
  rw [hvport]
  dsimp only
  refine ⟨fun hfew => ?_, fun hmany hup hfirst hheld => ?_, fun hmany hup hagain => ?_⟩
  · rw [if_pos (hfew.imp_left fun h => by omega)]
    exact ⟨hall, hvout, hvport⟩
  · rw [if_neg (not_or.2 ⟨by omega, not_not.2 hup⟩), if_neg (by rw [hfirst]; decide)]
    obtain ⟨hretrained, hcount, hraised⟩ := (w.modPort n fun p => { p with rxNakRun := 0, rxNakRetrained := true }).retrainPort_spec n
    rw [State.modPort_port] at hretrained
    have hctr : w.ctr = s.ctr := hall .ctr (by decide)
    refine ⟨by rw [hretrained], by rw [hretrained], hcount.trans (congrArg (· + 1) (count_of hctr kSkidRetrains)),
      hraised ((congrArg Startup.wardenHeld (hall .start (by decide))).trans hheld)⟩
  · rw [if_neg (not_or.2 ⟨by omega, not_not.2 hup⟩), if_pos hagain]
    obtain ⟨hfaulted, hlatch, hmem⟩ := w.skidFails_spec n
    exact ⟨hfaulted, hlatch, hmem.trans (hall .mem (by decide))⟩

/-! ### Frames sent again -/

/-- A port that has sent everything not acknowledged again. -/
def SkidPort.resent (p : SkidPort) (now : Nat) : SkidPort :=
  ({ p with resends := p.resends + p.replay.length, framesTx := p.framesTx + p.replay.length }).useSlots now (p.slotNow now) p.replay.length
theorem State.resend_port (s : State) (n : Nat) : (s.resend n).port n = (s.port n).resent s.stamp := by
  have hport := State.modPort_port s n fun p =>
    ({ p with resends := p.resends + (s.port n).replay.length, framesTx := p.framesTx + (s.port n).replay.length }).useSlots s.stamp
      (p.slotNow s.stamp) (s.port n).replay.length
  unfold State.resend
  dsimp only
  rw [List.length_map]
  exact hport
theorem State.resend_out (s : State) (n : Nat) :
    (s.resend n).out = s.out ++ (s.port n).replay.map (fun g => Output.frame n (sealFrame { g with ack := (s.port n).rxSeq })) := by
  unfold State.resend
  dsimp only
  rw [List.map_map]
  rfl
theorem State.resend_same (s : State) (n : Nat) : SameBut [.skid, .ctr, .out] s (s.resend n) := State.resend_touch (List.Subset.refl _) s n (Touch.refl _ s)
end
end Sys2Proof.Machine
end

section
/-! SUPPORT and PROOFS. Skid and spine links carry frames, re-send, retrain, come up and go down (R46, R370, R372, R376 to R381, R398, R453). -/

namespace Sys2Proof.Machine

section
variable {s : State} {n : Nat}

theorem ite_not_eq {α : Type} (b : Bool) (x y : α) : (if (!b) = true then x else y) = if b = false then x else y := by cases b <;> rfl

/-! ### Data frames -/

/-- The port that has taken a data frame in order. -/
def SkidPort.took (p : SkidPort) (f : SkidFrame) : SkidPort :=
  { (p.ackTo f.ack).credit f.creditClass f.credits with
    rxSeq := (p.rxSeq + 1) % 4096
    framesRx := p.framesRx + 1
    rxNakRun := 0
    rxNakRetrained := false }
/-- The bytes of a message so far, and the message they spell. -/
def SkidPort.gathered (p : SkidPort) (f : SkidFrame) : Bytes := (if f.first = true then [] else sget [] p.partialMsg f.cls) ++ f.payload
/-- The port with the frame's payload put to its message. -/
def SkidPort.took' (p : SkidPort) (f : SkidFrame) : SkidPort :=
  { p.took f with partialMsg := sset [] p.partialMsg f.cls (if f.last = true then [] else p.gathered f) }
/-- The frame is taken and answered. -/
def State.frameTaken (s : State) (n : Nat) (f : SkidFrame) : State :=
  ((s.modPort n fun p => p.took f).bareFrame n 0 f.cls 1).modPort n fun p =>
    { p with partialMsg := sset [] p.partialMsg f.cls (if f.last = true then [] else (s.port n).gathered f) }
theorem State.frameTaken_port (s : State) (n : Nat) (f : SkidFrame) : (s.frameTaken n f).port n = (s.port n).took' f := by
  unfold State.frameTaken
  rw [State.modPort_port, State.bareFrame, State.emit_port, State.modPort_port]
  rfl
theorem State.frameTaken_same (s : State) (n : Nat) (f : SkidFrame) : SameBut [.skid, .out] s (s.frameTaken n f) :=
  (((sb_modPort s n _).trans (sb_emit _ _)).trans (sb_modPort _ n _)).mono (by decide)
theorem State.frameTaken_out (s : State) (n : Nat) (f : SkidFrame) :
    (s.frameTaken n f).out = s.out ++ [bareOut n 0 (((s.port n).rxSeq + 1) % 4096) f.cls 1] := by
  show s.out ++ [bareOut n 0 ((s.modPort n fun p => p.took f).port n).rxSeq f.cls 1] = _
  rw [State.modPort_port]
  rfl
theorem State.noteWait_short {ns : Nat} (h : ns ≤ 4000) (s : State) (n : Nat) :
    s.noteWait n ns = { s with net := { s.net with arbWaitMax := max s.net.arbWaitMax ns } } :=
  if_neg fun hlong => absurd h (Nat.not_le.2 hlong.1)
/-- A data frame in order has been dealt with. -/
def State.dataTaken (s : State) (n : Nat) (f : SkidFrame) (wait : Nat) : State :=
  let v := ((s.modPort n fun p => p.took f).bareFrame n 0 f.cls 1).pumpPort n
  (if f.cls < 3 then v.takeFrame n f else v).noteWait n wait
theorem exec_skidDataFrame (s : State) (n : Nat) (f : SkidFrame) (wait : Nat) : exec (.skidDataFrame n f wait) s = .next
    (if (s.port n).state ≠ .up then s
     else if crcOk f = false then (s.badFrame n).sendNak n
     else if f.seq ≠ (s.port n).rxSeq then (if (s.port n).rxNakRun = 0 then s.sendNak n else s)
     else s.dataTaken n f wait) := by
  rw [← ite_not_eq]
  rfl
theorem State.dataTaken_eq (f : SkidFrame) {wait : Nat} (hclass : f.cls < 3) (hidle : (s.port n).backlog = 0) (hwait : wait ≤ 4000) :
    let t := if f.last = true then (s.frameTaken n f).deliver (parseMsg n ((s.port n).gathered f)) else s.frameTaken n f
    s.dataTaken n f wait = { t with net := { t.net with arbWaitMax := max t.net.arbWaitMax wait } } := by
  have hport : ((s.modPort n fun p => p.took f).bareFrame n 0 f.cls 1).port n = (s.port n).took f := State.modPort_port s n fun p => p.took f
  unfold State.dataTaken
  dsimp only
  rw [State.pumpPort_idle (by rw [hport]; exact hidle), if_pos hclass, State.noteWait_short hwait]
  unfold State.takeFrame
  dsimp only
  rw [hport]
  rfl
/-- A message is discarded, or kept for its command. -/
theorem State.deliver_discards {m : Msg} (h : m.kind = 0 ∨ 16 ≤ m.kind ∨ 15 < m.hops) (s : State) : s.deliver m = s.bump kSkidDiscards 1 := if_pos h
theorem State.deliver_keeps {m : Msg} (h : ¬(m.kind = 0 ∨ 16 ≤ m.kind ∨ 15 < m.hops)) (hplan : s.job.plan ≠ none)
    (hmine : m.kind = 3 ∨ m.kind = 9 ∨ m.dst = s.self) : s.deliver m = { s with net := { s.net with inbox := s.net.inbox ++ [m] } } := by
  unfold State.deliver
  rw [if_neg h, if_neg (fun hnone => hplan (Option.isNone_iff_eq_none.1 hnone.1)), if_pos hmine]

/-! ### Naks of the far end -/

/-- The port to which the far end has sent a `NAK`. -/
def SkidPort.naked (p : SkidPort) (f : SkidFrame) : SkidPort :=
  let q : SkidPort := { p.ackTo f.ack with framesRx := p.framesRx + 1 }
  if q.nakRun ≠ 0 ∧ q.nakSeq = f.ack then { q with nakRun := q.nakRun + 1 }
  else { q with nakSeq := f.ack, nakRun := 1, nakRetrained := q.nakRetrained && decide (q.nakSeq = f.ack) }
theorem exec_skidNak (s : State) (n : Nat) (f : SkidFrame) : exec (.skidNak n f) s = .next
    (if (s.port n).state ≠ .up then s
     else if crcOk f = false then s.badFrame n
     else
      let u := (s.stress 64).modPort n fun p => p.naked f
      if (u.port n).nakRun < 4 then u.resend n
      else if (u.port n).nakRetrained then u.skidFails n
      else (u.modPort n fun p => { p with nakRun := 0, nakRetrained := true }).retrainPort n) := by
  rw [← ite_not_eq]
  rfl
theorem SkidPort.naked_spec (p : SkidPort) (f : SkidFrame) : (p.naked f).replay = (p.ackTo f.ack).replay ∧ (p.naked f).rxSeq = p.rxSeq ∧
    (p.naked f).resends = p.resends ∧
    (p.naked f).nakRun = (if decide (p.nakRun ≠ 0 ∧ p.nakSeq = f.ack) = true then p.nakRun + 1 else 1) ∧
    (decide (p.nakRun ≠ 0 ∧ p.nakSeq = f.ack) = true → (p.naked f).nakRetrained = p.nakRetrained) := by
  unfold SkidPort.naked
  dsimp only [SkidPort.ackTo]
  simp only [decide_eq_true_eq]
  split
  · exact ⟨rfl, rfl, rfl, rfl, fun _ => rfl⟩
  · next h => exact ⟨rfl, rfl, rfl, rfl, fun hagain => absurd hagain h⟩

/-! ### Training -/

/-- What a link control frame of the far end says. -/
def SkidPort.told (p : SkidPort) (f : SkidFrame) (part stepping far epoch : Nat) (serial : Bytes) (delay : Int) : SkidPort :=
  { p.ackTo f.ack with
    state := if p.state = .down ∨ p.state = .epochHeld then .training else p.state
    farPart := part
    farStepping := stepping
    farPort := far
    farEpoch := epoch
    farSerial := serial
    delay := delay
    rxSeq := (p.rxSeq + 1) % 4096
    framesRx := p.framesRx + 1
    rxNakRun := 0
    rxNakRetrained := false }
/-- The link control frame of this module. -/
def State.controlFrame (s : State) (n : Nat) : SkidFrame :=
  sealFrame { kind := 4, cls := 0, first := false, last := false, seq := (s.port n).txSeq, ack := (s.port n).rxSeq, creditClass := 0, credits := 0,
              payload := padTo 256 (Config.linkControl (s.controlFields n)), fcrc := 0 }
/-- A port that has sent its link control frame. -/
def SkidPort.controlSent (p : SkidPort) (g : SkidFrame) (now : Nat) : SkidPort :=
  ({ p with replay := p.replay ++ [g], txSeq := (p.txSeq + 1) % 4096, framesTx := p.framesTx + 1 }).useSlots now (p.slotNow now) 1
theorem State.sendControl_port (s : State) (n : Nat) : (s.sendControl n).port n = (s.port n).controlSent (s.controlFrame n) s.stamp :=
  State.modPort_port s n fun p => p.controlSent (s.controlFrame n) s.stamp
theorem State.sendControl_same (s : State) (n : Nat) : SameBut [.skid, .out] s (s.sendControl n) :=
  State.sendControl_touch (List.Subset.refl _) s n (Touch.refl _ s)
theorem State.sendControl_out (s : State) (n : Nat) : (s.sendControl n).out = s.out ++ [Output.frame n (s.controlFrame n)] := rfl
/-- A port of another epoch is held (R46). -/
def State.epochChecked (v : State) (n epoch : Nat) : State :=
  if epoch ≠ v.beatEpoch then (v.modPort n fun p => { p with state := .epochHeld }).event (spineSrc n) 0x6105 else v
theorem State.epochChecked_spec (v : State) (n epoch : Nat) : SameBut [.skid, .log, .host, .ctr, .out] v (v.epochChecked n epoch) ∧
    (∀ o ∈ v.out, o ∈ (v.epochChecked n epoch).out) ∧ (epoch = v.beatEpoch → v.epochChecked n epoch = v) ∧
    (epoch ≠ v.beatEpoch → v.start.wardenHeld = false → Raised (v.epochChecked n epoch) (spineSrc n) 0x6105) ∧
    ((v.epochChecked n epoch).port n) = { v.port n with state := if epoch = v.beatEpoch then (v.port n).state else .epochHeld } := by
  unfold State.epochChecked
  by_cases h : epoch = v.beatEpoch
  · rw [if_neg (not_not.2 h), if_pos h]
    exact ⟨SameBut.rfl', fun _ ho => ho, fun _ => rfl, fun hne => absurd h hne, rfl⟩
  · rw [if_pos h, if_neg h]
    have hport := State.modPort_port v n fun p => { p with state := .epochHeld }
    have hsame := sb_modPort v n fun p => { p with state := .epochHeld }
    have hout : (v.modPort n fun p => { p with state := .epochHeld }).out = v.out := rfl
    generalize (v.modPort n fun p => { p with state := .epochHeld }) = u at *
    have hevent := State.event_touch (List.Subset.refl _) u (spineSrc n) 0x6105 [] (Touch.refl _ u)
    exact ⟨(hsame.trans hevent).mono (by decide), fun o ho => Kept.out_sub (State.event_kept u (spineSrc n) 0x6105 [] (Kept.refl u)) o (by rwa [hout]),
      fun he => absurd he h, fun _ hheld => raised_event _ _ _ _ ((congrArg Startup.wardenHeld (hsame .start (by decide))).trans hheld),
      (State.port_congr (hevent .skid (by decide)) n).trans hport⟩
/-- A port that enters training says the same of this module. -/
def State.controlAnswered (u : State) (n : Nat) (enters : Bool) : State := if enters then u.sendControl n else u
theorem State.controlAnswered_spec (u : State) (n : Nat) (enters : Bool) : SameBut [.skid, .out] u (u.controlAnswered n enters) ∧
    (u.controlAnswered n enters).port n = (if enters = true then (u.port n).controlSent (u.controlFrame n) u.stamp else u.port n) ∧
    (u.controlAnswered n enters).out = (if enters = true then u.out ++ [Output.frame n (u.controlFrame n)] else u.out) := by
  unfold State.controlAnswered
  cases enters with
  | true => exact ⟨u.sendControl_same n, u.sendControl_port n, u.sendControl_out n⟩
  | false => exact ⟨SameBut.rfl', rfl, rfl⟩
/-- The link control frame with which a port answers one that it has taken. -/
def State.controlReply (s : State) (n : Nat) : SkidFrame :=
  sealFrame { kind := 4, cls := 0, first := false, last := false, seq := (s.port n).txSeq, ack := ((s.port n).rxSeq + 1) % 4096, creditClass := 0,
              credits := 0, payload := padTo 256 (Config.linkControl (s.controlFields n)), fcrc := 0 }
/-- The port enters training. -/
def SkidPort.enters (p : SkidPort) : Bool := decide (p.state = .down ∨ p.state = .epochHeld)
section
variable (f : SkidFrame) (part stepping far epoch : Nat) (serial : Bytes) (delay : Int)
/-- A link control frame has been taken. -/
def State.controlTaken (s : State) (n : Nat) : State :=
  ((s.modPort n fun p => p.told f part stepping far epoch serial delay).controlAnswered n (s.port n).enters).epochChecked n epoch
theorem exec_linkControlFrame (s : State) (n : Nat) :
    exec (.linkControlFrame n f part stepping far epoch serial delay) s = .next
    (if crcOk f = false then (s.badFrame n).sendNak n
     else if f.seq ≠ (s.port n).rxSeq then (if (s.port n).rxNakRun = 0 then s.sendNak n else s)
     else s.controlTaken f part stepping far epoch serial delay n) := by
  rw [← ite_not_eq]
  rfl
theorem State.controlTaken_spec (s : State) (n : Nat) :
    let p := (s.port n).told f part stepping far epoch serial delay
    let t := s.controlTaken f part stepping far epoch serial delay n
    SameBut [.skid, .log, .host, .ctr, .out] s t ∧
      t.port n = { (if (s.port n).enters = true then p.controlSent (s.controlReply n) s.stamp else p) with
        state := if epoch = s.beatEpoch then p.state else .epochHeld } ∧
      (epoch ≠ s.beatEpoch → s.start.wardenHeld = false → Raised t (spineSrc n) 0x6105) ∧
      ((s.port n).enters = true → Output.frame n (s.controlReply n) ∈ t.out) ∧
      ((s.port n).enters = false → epoch = s.beatEpoch → t.out = s.out) := by
  intro p t
  have hport : (s.modPort n fun p => p.told f part stepping far epoch serial delay).port n = p := State.modPort_port s n _
  have hcontrol : (s.modPort n fun p => p.told f part stepping far epoch serial delay).controlFrame n = s.controlReply n := by
    unfold State.controlFrame
    rw [hport]
    rfl
  have hsame := sb_modPort s n fun p => p.told f part stepping far epoch serial delay
  have hepoch : (s.modPort n fun p => p.told f part stepping far epoch serial delay).beatEpoch = s.beatEpoch := rfl
  have hstamp : (s.modPort n fun p => p.told f part stepping far epoch serial delay).stamp = s.stamp := rfl
  have ht : t = ((s.modPort n fun p => p.told f part stepping far epoch serial delay).controlAnswered n (s.port n).enters).epochChecked n epoch := rfl
  generalize s.modPort n (fun p => p.told f part stepping far epoch serial delay) = u at *
  obtain ⟨hanswered, haport, haout⟩ := u.controlAnswered_spec n (s.port n).enters
  rw [hport, hcontrol, hstamp] at haport
  rw [hcontrol, show u.out = s.out from hsame .out (by decide)] at haout
  have hvepoch : (u.controlAnswered n (s.port n).enters).beatEpoch = s.beatEpoch := by
    unfold State.beatEpoch State.rwValue
    rw [show (u.controlAnswered n (s.port n).enters).tally = s.tally from (hanswered .tally (by decide)).trans (hsame .tally (by decide))]
  have hvstart : (u.controlAnswered n (s.port n).enters).start = s.start := (hanswered .start (by decide)).trans (hsame .start (by decide))
  obtain ⟨hchecked, hkept, hquiet, hraised, hcport⟩ := (u.controlAnswered n (s.port n).enters).epochChecked_spec n epoch
  rw [haport, hvepoch] at hcport
  rw [hvepoch] at hquiet hraised
  rw [ht]
  refine ⟨((hsame.trans hanswered).trans hchecked).mono (by decide), hcport.trans ?_, fun hne hheld => hraised hne (by rw [hvstart]; exact hheld),
    fun henters => hkept _ ?_, fun hno he => ?_⟩
  · cases (s.port n).enters <;> rfl
  · rw [haout, if_pos henters]
    exact List.mem_append_right _ List.mem_cons_self
  · rw [hquiet he, haout, if_neg (by rw [hno]; decide)]
end
end
end Sys2Proof.Machine
end

section
open Sys2Proof Sys2Proof.Machine

variable (s : State) (n : Nat) (f : SkidFrame)

/-- A data frame in order is taken and answered. -/
theorem dataFrameIsTaken (wait : Nat) : let p := s.port n
    ∃ t, exec (.skidDataFrame n f wait) s = .next t ∧
      if p.state ≠ .up then t = s
      else if crcOk f = false then Naked n { p with crcMismatch := true } s t
      else if f.seq ≠ p.rxSeq then (if p.rxNakRun = 0 then Naked n p s t else t = s)
      else f.cls < 3 → p.backlog = 0 → wait ≤ 4000 →
        let m := parseMsg n (p.gathered f)
        let q : SkidPort := p.took' f
        (f.last = false → t.port n = q ∧ SameBut [.skid, .net, .out] s t ∧ t.net.inbox = s.net.inbox ∧ t.out = s.out ++ [bareOut n 0 ((p.rxSeq + 1) % 4096) f.cls 1]) ∧
        (f.last = true → m.kind = 0 ∨ 16 ≤ m.kind ∨ 15 < m.hops → t.port n = q ∧ t.net.inbox = s.net.inbox ∧ t.count kSkidDiscards = s.count kSkidDiscards + 1) ∧
        (f.last = true → 0 < m.kind → m.kind < 16 → m.hops ≤ 15 → s.job.plan ≠ none → m.kind = 3 ∨ m.kind = 9 ∨ m.dst = s.self →
          t.port n = q ∧ t.net.inbox = s.net.inbox ++ [m] ∧ SameBut [.skid, .net, .out] s t) := by
  intro p
  refine ⟨_, exec_skidDataFrame s n f wait, ?_⟩
  by_cases hup : p.state ≠ .up
  · rw [if_pos hup, if_pos hup]
  rw [if_neg hup, if_neg hup]
  by_cases hcrc : crcOk f = false
  · rw [if_pos hcrc, if_pos hcrc]
    have hnaked := State.sendNak_naked (sb_modPort s n fun p => { p with crcMismatch := true }) n
    rw [State.modPort_port] at hnaked
    exact hnaked
  · rw [if_neg hcrc, if_neg hcrc]
    by_cases hseq : f.seq ≠ p.rxSeq
    · rw [if_pos hseq, if_pos hseq]
      split
      · exact State.sendNak_naked SameBut.rfl' n
      · rfl
    · rw [if_neg hseq, if_neg hseq]
      intro hclass hidle hwait
      rw [State.dataTaken_eq f hclass hidle hwait]
      have hport := s.frameTaken_port n f
      have hsame := s.frameTaken_same n f
      have hout := s.frameTaken_out n f
      generalize s.frameTaken n f = u at *
      have hinbox : u.net.inbox = s.net.inbox := congrArg Net.inbox (hsame .net (by decide) : u.net = s.net)
      refine ⟨fun hlast => ?_, fun hlast hdiscard => ?_, fun hlast hkind hmax hhops hplan hmine => ?_⟩
      · rw [if_neg (by rw [hlast]; decide)]
        exact ⟨hport, (hsame.trans (sb_net u _)).mono (by decide), hinbox, hout⟩
      · rw [if_pos hlast, State.deliver_discards hdiscard]
        have hctr : u.ctr = s.ctr := hsame .ctr (by decide)
        exact ⟨hport, hinbox, (u.bump_count kSkidDiscards 1).trans (congrArg (· + 1) (count_of hctr kSkidDiscards))⟩
      · have hjob : u.job = s.job := hsame .job (by decide)
        rw [if_pos hlast, State.deliver_keeps (not_or.2 ⟨Nat.ne_of_gt hkind, not_or.2 ⟨Nat.not_le.2 hmax, Nat.not_lt.2 hhops⟩⟩) (by rw [hjob]; exact hplan) (by unfold State.self at hmine ⊢; rw [hjob]; exact hmine)]
        exact ⟨hport, congrArg (· ++ [_]) hinbox, ((hsame.trans (sb_net u _)).trans (sb_net _ _)).mono (by decide)⟩

/-- An idle frame acknowledges and returns credit. -/
theorem idleFrameAcknowledges : let p := s.port n
    ∃ t, exec (.idleFrame n f) s = .next t ∧
      if p.state ≠ .up then t = s
      else if crcOk f = false then t.port n = { p with crcMismatch := true } ∧ SameBut [.skid] s t
      else p.backlog = 0 → t.port n = (p.ackTo f.ack).credit f.creditClass f.credits ∧ SameBut [.skid] s t := by
  intro p
  have hexec : exec (.idleFrame n f) s = .next (if (s.port n).state ≠ .up then s
    else if crcOk f = false then s.badFrame n
    else (s.modPort n fun p => (p.ackTo f.ack).credit f.creditClass f.credits).pumpPort n) := by
    rw [← ite_not_eq]
    rfl
  refine ⟨_, hexec, ?_⟩
  clear hexec
  by_cases hup : p.state ≠ .up
  · rw [if_pos hup, if_pos hup]
  rw [if_neg hup, if_neg hup]
  by_cases hcrc : crcOk f = false
  · rw [if_pos hcrc, if_pos hcrc]
    exact ⟨State.modPort_port s n _, sb_modPort s n _⟩
  · rw [if_neg hcrc, if_neg hcrc]
    intro hidle
    rw [State.pumpPort_idle (by rw [State.modPort_port]; exact hidle)]
    exact ⟨State.modPort_port s n _, sb_modPort s n _⟩

/-- A `NAK` has everything from its number on sent again; a run of them retrains the port. -/
theorem skidNakResends : let p := s.port n
    ∃ t, exec (.skidNak n f) s = .next t ∧
      if p.state ≠ .up then t = s
      else if crcOk f = false then t.port n = { p with crcMismatch := true } ∧ SameBut [.skid] s t
      else
      let again : Bool := decide (p.nakRun ≠ 0 ∧ p.nakSeq = f.ack)
      (again = false ∨ p.nakRun < 3 → SameBut [.skid, .snap, .ctr, .out] s t
        ∧ t.out = s.out ++ (p.ackTo f.ack).replay.map (fun g => Output.frame n (sealFrame { g with ack := p.rxSeq }))
        ∧ (t.port n).replay = (p.ackTo f.ack).replay ∧ (t.port n).nakRun = (if again = true then p.nakRun + 1 else 1)
        ∧ (t.port n).resends = p.resends + (p.ackTo f.ack).replay.length) ∧
      (again = true → 3 ≤ p.nakRun → p.nakRetrained = false → s.start.wardenHeld = false → (t.port n).state = .retraining
        ∧ (t.port n).nakRetrained = true ∧ t.count kSkidRetrains = s.count kSkidRetrains + 1 ∧ Raised t (spineSrc n) 0x6201) ∧
      (again = true → 3 ≤ p.nakRun → p.nakRetrained = true → Faulted t (spineSrc n) 0x1104 ∧ t.safe.latch = true ∧ t.mem = s.mem) := by
  intro p
  refine ⟨_, exec_skidNak s n f, ?_⟩
  by_cases hup : p.state ≠ .up
  · rw [if_pos hup, if_pos hup]
  rw [if_neg hup, if_neg hup]
  by_cases hcrc : crcOk f = false
  · rw [if_pos hcrc, if_pos hcrc]
    exact ⟨State.modPort_port s n _, sb_modPort s n _⟩
  · rw [if_neg hcrc, if_neg hcrc]
    intro again
    have hport : ((s.stress 64).modPort n fun p => p.naked f).port n = p.naked f := State.modPort_port (s.stress 64) n _
    have hsame := (sb_stress s 64).trans (sb_modPort (s.stress 64) n fun p => p.naked f)
    obtain ⟨hreplay, hseq, hresends, hrun, hretrained⟩ := p.naked_spec f
    generalize (s.stress 64).modPort n (fun p => p.naked f) = u at *
    dsimp only
    rw [hport]
    have hout : u.out = s.out := hsame .out (by decide)
    have hctr : u.ctr = s.ctr := hsame .ctr (by decide)
    have hstart : u.start = s.start := hsame .start (by decide)
    have hmem : u.mem = s.mem := hsame .mem (by decide)
    refine ⟨fun hfew => ?_, fun hagain hmany hfirst hheld => ?_, fun hagain hmany hbefore => ?_⟩
    · have hless : (p.naked f).nakRun < 4 := by
        rw [hrun]
        split
        · next ha => exact Nat.succ_lt_succ (hfew.resolve_left (by rw [show again = true from ha]; decide))
        · decide
      rw [if_pos hless, State.resend_port, State.resend_out, hport, hout, hreplay, hseq]
      refine ⟨(hsame.trans (State.resend_same u n)).mono (by decide), rfl, hreplay, hrun, ?_⟩
      show (p.naked f).resends + (p.naked f).replay.length = _
      rw [hresends, hreplay]
    all_goals
      have hrun4 : ¬(p.naked f).nakRun < 4 := by
        rw [hrun, if_pos hagain]
        omega
      rw [if_neg hrun4, hretrained hagain]
    · rw [if_neg (by rw [hfirst]; decide)]
      obtain ⟨hstate, hcount, hraised⟩ := (u.modPort n fun p => { p with nakRun := 0, nakRetrained := true }).retrainPort_spec n
      rw [State.modPort_port] at hstate
      exact ⟨by rw [hstate], by rw [hstate], hcount.trans (congrArg (· + 1) (count_of hctr kSkidRetrains)),
        hraised ((congrArg Startup.wardenHeld hstart).trans hheld)⟩
    · rw [if_pos hbefore]
      obtain ⟨hfaulted, hlatch, hkept⟩ := u.skidFails_spec n
      exact ⟨hfaulted, hlatch, hkept.trans hmem⟩

/-- A link control frame tells who the far end is, and is answered by a port that enters training. -/
theorem linkControlTrains (part stepping far epoch : Nat) (serial : Bytes) (delay : Int) : let p := s.port n
    ∃ t, exec (.linkControlFrame n f part stepping far epoch serial delay) s = .next t ∧
      if crcOk f = false then Naked n { p with crcMismatch := true } s t
      else if f.seq ≠ p.rxSeq then (if p.rxNakRun = 0 then Naked n p s t else t = s)
      else
      let q := t.port n
      let enters := p.state = .down ∨ p.state = .epochHeld
      SameBut [.skid, .log, .host, .ctr, .out] s t ∧ q.farPart = part ∧ q.farStepping = stepping ∧ q.farPort = far ∧ q.farEpoch = epoch
        ∧ q.farSerial = serial ∧ q.delay = delay ∧ q.rxSeq = (p.rxSeq + 1) % 4096 ∧ q.framesRx = p.framesRx + 1 ∧
      (epoch = s.beatEpoch → q.state = (if enters then .training else p.state)) ∧
      (epoch ≠ s.beatEpoch → q.state = .epochHeld ∧ (s.start.wardenHeld = false → Raised t (spineSrc n) 0x6105)) ∧
      let g := sealFrame { kind := 4, cls := 0, first := false, last := false, seq := p.txSeq, ack := (p.rxSeq + 1) % 4096, creditClass := 0, credits := 0, payload := padTo 256 (Config.linkControl (s.controlFields n)), fcrc := 0 }
      (enters → Output.frame n g ∈ t.out ∧ q.replay = (p.ackTo f.ack).replay ++ [g] ∧ q.txSeq = (p.txSeq + 1) % 4096) ∧
      (¬ enters → q.replay = (p.ackTo f.ack).replay ∧ q.txSeq = p.txSeq ∧ (epoch = s.beatEpoch → t.out = s.out)) := by
  intro p
  refine ⟨_, exec_linkControlFrame f part stepping far epoch serial delay s n, ?_⟩
  by_cases hcrc : crcOk f = false
  · rw [if_pos hcrc, if_pos hcrc]
    have hnaked := State.sendNak_naked (sb_modPort s n fun p => { p with crcMismatch := true }) n
    rw [State.modPort_port] at hnaked
    exact hnaked
  · rw [if_neg hcrc, if_neg hcrc]
    by_cases hseq : f.seq ≠ p.rxSeq
    · rw [if_pos hseq, if_pos hseq]
      split
      · exact State.sendNak_naked SameBut.rfl' n
      · rfl
    rw [if_neg hseq, if_neg hseq]
    obtain ⟨hsame, hport, hraised, hsent, hquiet⟩ := s.controlTaken_spec f part stepping far epoch serial delay n
    generalize s.controlTaken f part stepping far epoch serial delay n = t at *
    have henters : (s.port n).enters = true ↔ p.state = .down ∨ p.state = .epochHeld := decide_eq_true_iff
    dsimp only
    rw [hport]
    refine ⟨hsame, ?_, ?_, ?_, ?_, ?_, ?_, ?_, ?_, fun he => ?_, fun hne => ⟨if_neg hne, hraised hne⟩, fun hen => ⟨hsent (henters.2 hen), ?_, ?_⟩, fun hno => ⟨?_, ?_, ?_⟩⟩
    case refine_9 => exact (if_pos he).trans rfl
    case refine_10 => rw [if_pos (henters.2 hen)]; rfl
    case refine_11 => rw [if_pos (henters.2 hen)]; rfl
    case refine_12 => rw [if_neg (mt henters.1 hno)]; rfl
    case refine_13 => rw [if_neg (mt henters.1 hno)]; rfl
    case refine_14 => exact hquiet (Bool.eq_false_of_not_eq_true (mt henters.1 hno))
    all_goals
      dsimp only
      split <;> rfl

end

section
/-! SUPPORT. Ports that come up and go down; the two ends of a module of the spine (R370, R372, R379, R380). -/

namespace Sys2Proof.Machine

section
variable {s : State} {n : Nat}

/-! ### A link that comes up or goes down -/

theorem exec_skidLinkUp (s : State) (n : Nat) : exec (.skidLinkUp n) s = .next
    (if (s.port n).state ≠ .training ∧ (s.port n).state ≠ .retraining then s
     else (((((s.modPort n fun p => { p with state := .up }).event (spineSrc n) 0x6200).resend n).linkRecords [n]).pumpPort n)) := rfl
/-- A port that comes up sends again what was not acknowledged. -/
theorem State.linkUp_spec (s : State) (n : Nat) :
    let t := ((((s.modPort n fun p => { p with state := .up }).event (spineSrc n) 0x6200).resend n).linkRecords [n]).pumpPort n
    (t.port n).state = .up ∧ t.mem = s.mem ∧ t.job = s.job ∧
      ∀ g ∈ (s.port n).replay, Output.frame n (sealFrame { g with ack := (s.port n).rxSeq }) ∈ t.out := by
  intro t
  have hport := State.modPort_port s n fun p => { p with state := .up }
  have hsame := sb_modPort s n fun p => { p with state := .up }
  have ht : t = ((((s.modPort n fun p => { p with state := .up }).event (spineSrc n) 0x6200).resend n).linkRecords [n]).pumpPort n := rfl
  generalize (s.modPort n fun p => { p with state := .up }) = u at *
  have hevent := State.event_touch (List.Subset.refl _) u (spineSrc n) 0x6200 [] (Touch.refl _ u)
  have heport : (u.event (spineSrc n) 0x6200).port n = { s.port n with state := .up } := (State.port_congr (hevent .skid (by decide)) n).trans hport
  have hall := hsame.trans hevent
  generalize u.event (spineSrc n) 0x6200 = v at *
  have hout := v.resend_out n
  have hrport := v.resend_port n
  have hrall := hall.trans (v.resend_same n)
  rw [heport] at hout hrport
  have hup : ((v.resend n).port n).state = .up := by
    rw [hrport]
    rfl
  generalize v.resend n = w at *
  have hlinks := State.linkRecords_sameBut w [n]
  have hpump := State.pumpPort_touch (List.Subset.refl _) (w.linkRecords [n]) n (Touch.refl _ _)
  rw [ht]
  refine ⟨?_, (hpump .mem (by decide)).trans ((hlinks .mem (by decide)).trans (hrall .mem (by decide))),
    (hpump .job (by decide)).trans ((hlinks .job (by decide)).trans (hrall .job (by decide))), fun g hg => ?_⟩
  · rw [State.pumpPort_state, State.linkRecords_state, hup]
  · refine (State.pumpPort_kept _ n (Kept.refl _)).out_sub _ ((State.linkRecords_kept w [n] (Kept.refl w)).out_sub _ ?_)
    rw [hout]
    exact List.mem_append_right _ (List.mem_map.2 ⟨g, hg, rfl⟩)
theorem exec_skidLinkDown (s : State) (n : Nat) : exec (.skidLinkDown n) s = .next
    (if (s.port n).state = .up ∨ (s.port n).state = .retraining ∨ (s.port n).downRaised ∨ s.time.cycles ≤ (s.port n).downSince + msCycles then s
     else
      let u := (s.modPort n fun p => { p with downRaised := true }).routeCut n
      if (u.peer n).used ∧ (u.job.state = .armed ∨ u.job.state = .running ∨ u.job.state = .paused) then u.fault (spineSrc n) 0x6202
      else u.event (spineSrc n) 0x6202) := rfl

/-! ### The two ends of a module of the spine -/

theorem spineJoins_self : ∀ k < 4, 92 + k ∉ spineJoins k := by decide
theorem spineJoins_none {k : Nat} (h : 3 < k) : spineJoins k = [] := if_pos h
/-- A spine link does not join a die to itself. -/
theorem spineTwin_ne {k m k2 m2 : Nat} (h : spineTwin k m = some (k2, m2)) : k2 ≠ k := by
  unfold spineTwin at h
  split at h
  · next d hd =>
    split at h
    · next hrange =>
      obtain ⟨rfl, -⟩ := Prod.mk.inj (Option.some.inj h)
      rintro rfl
      have hmem : d ∈ spineJoins (d - 92) := List.mem_of_getElem? hd
      by_cases hk : 3 < d - 92
      · rw [spineJoins_none hk] at hmem
        exact absurd hmem List.not_mem_nil
      · refine spineJoins_self (d - 92) (by omega) ?_
        rwa [show 92 + (d - 92) = d by omega]
    · cases h
  · cases h
theorem State.modSpine_die (s : State) (k : Nat) (f : Spine → Spine) : (s.modSpine k f).spineDie k = f (s.spineDie k) := sget_supd_same ({} : Spine) s.spine k f
theorem State.modSpine_other (s : State) {k j : Nat} (f : Spine → Spine) (h : j ≠ k) : (s.modSpine k f).spineDie j = s.spineDie j :=
  sget_supd_other ({} : Spine) s.spine k j f h
/-- The ends of a module. -/
def spineEnds (k m : Nat) : List (Nat × Nat) := (k, m) :: (spineTwin k m).toList
/-- Both ends of a module change alike. -/
theorem State.atEnds_die (s : State) (k m : Nat) (f : Nat → Spine → Spine) :
    ∀ e ∈ spineEnds k m, (s.atEnds k m f).spineDie e.1 = f e.2 (s.spineDie e.1) := by
  unfold spineEnds State.atEnds
  cases htwin : spineTwin k m with
  | none =>
    intro e he
    obtain rfl := List.mem_singleton.1 he
    exact s.modSpine_die k (f m)
  | some x =>
    obtain ⟨k2, m2⟩ := x
    have hne := spineTwin_ne htwin
    intro e he
    rcases List.mem_cons.1 he with rfl | he
    · exact ((s.modSpine k (f m)).modSpine_other (f m2) (Ne.symm hne)).trans (s.modSpine_die k (f m))
    · obtain rfl := List.mem_singleton.1 he
      exact ((s.modSpine k (f m)).modSpine_die k2 (f m2)).trans (congrArg (f m2) (s.modSpine_other (f m) hne))
theorem State.atEnds_same (s : State) (k m : Nat) (f : Nat → Spine → Spine) : SameBut [.spine] s (s.atEnds k m f) :=
  State.atEnds_touch (List.Subset.refl _) s k m f (Touch.refl _ s)
theorem State.spineFails_spec {s t : State} (hmem : t.mem = s.mem) (k other : Nat) :
    Faulted (t.spineFails k other) (spineDieSrc k) 0x1103 ∧ (t.spineFails k other).safe.latch = true ∧ (t.spineFails k other).mem = s.mem := by
  obtain ⟨hfaulted, hlatch, hmem', -⟩ := fault_spec_of t (u := t) (spineDieSrc k) 0x1103 (u32 (92 + k) ++ u32 other) rfl rfl
  exact ⟨hfaulted, hlatch, hmem'.trans hmem⟩

/-- A flit of a module has failed. -/
def Spine.flitFailed (again : Bool) (m : Nat) (x : Spine) : Spine :=
  { x with run := supd 0 x.run m fun n => if again then n + 1 else 0, afterRetrain := if again then x.afterRetrain else sset false x.afterRetrain m false }
/-- A flit of a module is replayed; a module retrains. -/
def Spine.replayed (x : Spine) : Spine := { x with replaySeen := true, replays := x.replays + 1 }
def Spine.retrains (m : Nat) (x : Spine) : Spine :=
  { x with run := sset 0 x.run m 0, afterRetrain := sset false x.afterRetrain m true, retraining := sset false x.retraining m true }
theorem exec_flitReplay (s : State) {k m other : Nat} (hfar : spineFar k m = some other) (again : Bool) : exec (.flitReplay k m again) s = .next
    (let u := s.atEnds k m (Spine.flitFailed again)
     if sget 0 (u.spineDie k).run m < 4 then ((u.atEnds k m fun _ => Spine.replayed).bump kSpineReplays 1).stress 16
     else if sget false (u.spineDie k).afterRetrain m then u.spineFails k other
     else (((u.atEnds k m Spine.retrains).bump kSpineRetrains 1).stress 4096).event (spineDieSrc k) 0x6204) := by
  show execFlitReplay k m again s = _
  unfold execFlitReplay
  rw [hfar]
  rfl
theorem exec_spineRetrainDone (s : State) {k m other : Nat} (hfar : spineFar k m = some other) (ok : Bool) : exec (.spineRetrainDone k m ok) s = .next
    (if !sget false (s.spineDie k).retraining m then s
     else if ok then s.atEnds k m fun m x => { x with retraining := sset false x.retraining m false }
     else s.spineFails k other) := by
  show execSpineRetrainDone k m ok s = _
  unfold execSpineRetrainDone
  rw [hfar]
end
end Sys2Proof.Machine
end

section
open Sys2Proof Sys2Proof.Machine

variable (s : State)

/-- A port that has been down for 1 ms is reported, as a fault where the running job uses it. -/
theorem linkDownIsReported (n : Nat) (hheld : s.start.wardenHeld = false) : ∃ t, exec (.skidLinkDown n) s = .next t ∧
      if (s.port n).state = .up ∨ (s.port n).state = .retraining ∨ (s.port n).downRaised = true ∨ s.time.cycles ≤ (s.port n).downSince + msCycles then t = s
      else if (s.peer n).used = true ∧ (s.job.state = .armed ∨ s.job.state = .running ∨ s.job.state = .paused)
      then Faulted t (spineSrc n) 0x6202 ∧ t.safe.latch = true ∧ t.mem = s.mem
      else Raised t (spineSrc n) 0x6202 ∧ (t.port n).downRaised = true ∧ t.safe = s.safe ∧ t.job = s.job ∧ t.mem = s.mem := by
  refine ⟨_, exec_skidLinkDown s n, ?_⟩
  split
  · rfl
  have hport := State.modPort_port s n fun p => { p with downRaised := true }
  have hmod := sb_modPort s n fun p => { p with downRaised := true }
  generalize (s.modPort n fun p => { p with downRaised := true }) = u at *
  have hcut := State.routeCut_touch (List.Subset.refl _) u n (Touch.refl _ u)
  have hsame : SameBut [.skid, .log, .host, .snap, .ctr, .out] s (u.routeCut n) := (hmod.trans hcut).mono (by decide)
  have hcport : (u.routeCut n).port n = { s.port n with downRaised := true } := (State.port_congr (hcut .skid (by decide)) n).trans hport
  generalize u.routeCut n = v at *
  have hjob : v.job = s.job := hsame .job (by decide)
  have hmem : v.mem = s.mem := hsame .mem (by decide)
  have hpeer : v.peer n = s.peer n := by rw [State.peer, hjob, State.peer]
  dsimp only
  rw [hpeer, hjob]
  split
  · obtain ⟨hfaulted, hlatch, hkept, -⟩ := fault_spec_of v (u := v) (spineSrc n) 0x6202 [] rfl rfl
    exact ⟨hfaulted, hlatch, hkept.trans hmem⟩
  · have hevent := State.event_touch (List.Subset.refl _) v (spineSrc n) 0x6202 [] (Touch.refl _ v)
    have hall := hsame.trans hevent
    refine ⟨raised_event _ _ _ _ ((congrArg Startup.wardenHeld (hsame .start (by decide))).trans hheld), ?_, hall .safe (by decide), hall .job (by decide),
      hall .mem (by decide)⟩
    rw [State.port_congr (hevent .skid (by decide)) n, hcport]

/-- A flit is replayed four times, then its module retrains once, then it is a fault. -/
theorem flitsAreReplayed (die module : Nat) (again : Bool) : ∃ t, exec (.flitReplay die module again) s = .next t ∧
    if spineFar die module = none then t = s else
    let x := s.spineDie die
    let run := if again = true then sget 0 x.run module + 1 else 0
    let ends := spineEnds die module
    (run < 4 → SameBut [.spine, .snap, .ctr] s t ∧ t.count kSpineReplays = s.count kSpineReplays + 1 ∧
      ∀ e ∈ ends, (t.spineDie e.1).replays = (s.spineDie e.1).replays + 1 ∧ (t.spineDie e.1).replaySeen = true
        ∧ sget 0 (t.spineDie e.1).run e.2 = (if again = true then sget 0 (s.spineDie e.1).run e.2 + 1 else 0)
        ∧ (t.spineDie e.1).retraining = (s.spineDie e.1).retraining) ∧
    (4 ≤ run → sget false x.afterRetrain module = false → s.start.wardenHeld = false →
      t.count kSpineRetrains = s.count kSpineRetrains + 1 ∧ Raised t (spineDieSrc die) 0x6204 ∧ t.safe = s.safe ∧
      ∀ e ∈ ends, sget false (t.spineDie e.1).retraining e.2 = true ∧ sget false (t.spineDie e.1).afterRetrain e.2 = true) ∧
    (4 ≤ run → sget false x.afterRetrain module = true → Faulted t (spineDieSrc die) 0x1103 ∧ t.safe.latch = true ∧ t.mem = s.mem) := by
  cases hfar : spineFar die module with
  | none =>
    refine ⟨s, ?_, by rw [if_pos rfl]⟩
    show execFlitReplay die module again s = _
    unfold execFlitReplay
    rw [hfar]
  | some other =>
    refine ⟨_, exec_flitReplay s hfar again, ?_⟩
    rw [if_neg (Option.some_ne_none other)]
    intro x run ends
    have hfailed := s.atEnds_die die module (Spine.flitFailed again)
    have hsame := s.atEnds_same die module (Spine.flitFailed again)
    generalize s.atEnds die module (Spine.flitFailed again) = u at *
    have hhere : u.spineDie die = Spine.flitFailed again module x := hfailed (die, module) List.mem_cons_self
    have hrunAt (m : Nat) (y : Spine) : sget 0 (Spine.flitFailed again m y).run m = if again = true then sget 0 y.run m + 1 else 0 := sget_supd_same 0 y.run m fun n => if again then n + 1 else 0
    have hrun : sget 0 (u.spineDie die).run module = run := by rw [hhere, hrunAt]
    have hctr : u.ctr = s.ctr := hsame .ctr (by decide)
    dsimp only
    rw [hrun]
    have hafter (hmany : 4 ≤ run) : sget false (u.spineDie die).afterRetrain module = sget false x.afterRetrain module := by
      cases hagain : again with
      | false => exact absurd hmany (by simp [run, hagain])
      | true => rw [hhere, hagain]; rfl
    refine ⟨fun hfew => ?_, fun hmany hfirst hheld => ?_, fun hmany hbefore => ?_⟩
    · rw [if_pos hfew]
      have hagain := u.atEnds_die die module fun _ => Spine.replayed
      have hsame' := u.atEnds_same die module fun _ => Spine.replayed
      generalize (u.atEnds die module fun _ => Spine.replayed) = v at *
      have hvctr : v.ctr = s.ctr := (hsame' .ctr (by decide)).trans hctr
      refine ⟨(((hsame.trans hsame').trans (sb_ctr v kSpineReplays 1)).trans (sb_stress _ 16)).mono (by decide),
        (State.stress_count _ _ _).trans ((v.bump_count kSpineReplays 1).trans (congrArg (· + 1) (count_of hvctr kSpineReplays))), fun e he => ?_⟩
      have hend : ((v.bump kSpineReplays 1).stress 16).spineDie e.1 = (Spine.flitFailed again e.2 (s.spineDie e.1)).replayed := (hagain e he).trans (by rw [hfailed e he])
      rw [hend]
      exact ⟨rfl, rfl, hrunAt _ _, rfl⟩
    · rw [if_neg (Nat.not_lt.2 hmany), hafter hmany, if_neg (by rw [hfirst]; decide)]
      have hretrains := u.atEnds_die die module Spine.retrains
      have hsame' := u.atEnds_same die module Spine.retrains
      generalize u.atEnds die module Spine.retrains = v at *
      have hvall := hsame.trans hsame'
      have hvctr : v.ctr = s.ctr := hvall .ctr (by decide)
      have hcount : ((v.bump kSpineRetrains 1).stress 4096).count kSpineRetrains = s.count kSpineRetrains + 1 :=
        (State.stress_count _ _ _).trans ((v.bump_count kSpineRetrains 1).trans (congrArg (· + 1) (count_of hvctr kSpineRetrains)))
      have hwsame : SameBut [.ctr, .snap] v ((v.bump kSpineRetrains 1).stress 4096) := (sb_ctr v kSpineRetrains 1).trans (sb_stress _ 4096)
      generalize (v.bump kSpineRetrains 1).stress 4096 = w at *
      have hwall := hvall.trans hwsame
      have hevent := State.event_touch (List.Subset.refl _) w (spineDieSrc die) 0x6204 [] (Touch.refl _ _)
      refine ⟨(w.event_count _ _ _ _ (by decide) (by decide) (by decide)).trans hcount,
        raised_event _ _ _ _ ((congrArg Startup.wardenHeld (hwall .start (by decide) : w.start = s.start)).trans hheld),
        (hevent .safe (by decide)).trans (hwall .safe (by decide)), fun e he => ?_⟩
      have hspine : (w.event (spineDieSrc die) 0x6204).spineDie e.1 = v.spineDie e.1 :=
        congrArg (fun l => sget ({} : Spine) l e.1) ((hevent .spine (by decide)).trans (hwsame .spine (by decide)))
      rw [hspine, hretrains e he]
      exact ⟨sget_sset_same false _ e.2 true, sget_sset_same false _ e.2 true⟩
    · rw [if_neg (Nat.not_lt.2 hmany), hafter hmany, if_pos hbefore]
      exact State.spineFails_spec (hsame .mem (by decide)) die other

/-- A retrain of a module of the spine ends, or is a fault. -/
theorem spineRetrainEnds (die module : Nat) (ok : Bool) : ∃ t, exec (.spineRetrainDone die module ok) s = .next t ∧
    if spineFar die module = none ∨ sget false (s.spineDie die).retraining module = false then t = s
    else if ok = true then SameBut [.spine] s t ∧ ∀ e ∈ spineEnds die module, sget false (t.spineDie e.1).retraining e.2 = false
    else Faulted t (spineDieSrc die) 0x1103 ∧ t.safe.latch = true ∧ t.mem = s.mem := by
  cases hfar : spineFar die module with
  | none =>
    refine ⟨s, ?_, by rw [if_pos (Or.inl rfl)]⟩
    show execSpineRetrainDone die module ok s = _
    unfold execSpineRetrainDone
    rw [hfar]
  | some other =>
    refine ⟨_, exec_spineRetrainDone s hfar ok, ?_⟩
    rw [ite_not_eq]
    by_cases hidle : sget false (s.spineDie die).retraining module = false
    · rw [if_pos (Or.inr hidle), if_pos hidle]
    · rw [if_neg (not_or.2 ⟨Option.some_ne_none other, hidle⟩), if_neg hidle]
      split
      · refine ⟨s.atEnds_same die module _, fun e he => ?_⟩
        rw [s.atEnds_die die module _ e he]
        exact sget_sset_same false _ e.2 false
      · exact State.spineFails_spec rfl die other

/-- Settles O52: each frame and each turn of a link by the lemma for it. -/
theorem linksCarryFrames : Obligations.LinksCarryFrames := by
  unfold Obligations.LinksCarryFrames
  refine ⟨fun s n f wait => dataFrameIsTaken s n f wait, fun s n f => ⟨idleFrameAcknowledges s n f, skidNakResends s n f⟩,
    fun s n f part stepping far epoch serial delay => linkControlTrains s n f part stepping far epoch serial delay, fun s n => ⟨_, exec_skidLinkUp s n, ?_⟩,
    fun s n => ?_, fun s n hheld => linkDownIsReported s n hheld, fun s die module again => flitsAreReplayed s die module again,
    fun s die module ok => spineRetrainEnds s die module ok⟩
  · by_cases htraining : (s.port n).state = .training ∨ (s.port n).state = .retraining
    · rw [if_pos htraining, if_neg (fun h => htraining.elim h.1 h.2)]
      exact s.linkUp_spec n
    · rw [if_neg htraining, if_pos (not_or.1 htraining)]
  · have hexec : exec (.skidPortDown n) s = .next (if (s.port n).state ≠ .up ∧ (s.port n).state ≠ .retraining then s
        else s.modPort n fun p => { p with state := .down, farKnown := false, downSince := s.time.cycles, downRaised := false }) := rfl
    refine ⟨_, hexec, ?_⟩
    by_cases hup : (s.port n).state = .up ∨ (s.port n).state = .retraining
    · rw [if_pos hup, if_neg (fun h => hup.elim h.1 h.2)]
      exact ⟨sb_modPort s n _, State.modPort_port s n _⟩
    · rw [if_neg hup, if_pos (not_or.1 hup)]
end

section
/-! SUPPORT and PROOFS. Messages of peers write memory, signal, command, acknowledge and give notice (R53, R380, R383 to R385, R388, R391, R392). -/

namespace Sys2Proof.Machine

section
variable {s : State} {m : Msg}

/-! ### The work of a message -/

/-- What is caused from now on is stamped above this (R45). -/
def State.recause (s : State) (c : Nat) : State := { s with log := { s.log with cause := c } }
theorem sb_log (s : State) (x : Log) : SameBut [.log] s { s with log := x } := by
  intro p hp
  cases p with
  | log => exact absurd (by decide) hp
  | _ => rfl
theorem sb_recause (s : State) (c : Nat) : SameBut [.log] s (s.recause c) := sb_log s _
theorem sb_took (s : State) (m : Msg) : SameBut [.net] s (s.took m) := sb_net s _
/-- The state in which a message has its effect. -/
def State.onMsg (s : State) (m : Msg) : State := (s.took m).recause (m.stamp + 1)
theorem sb_onMsg (s : State) (m : Msg) : SameBut [.log, .net] s (s.onMsg m) := ((sb_took s m).trans (sb_recause _ _)).mono (by decide)
theorem State.taken_eq (s : State) (m : Msg) (f : State → State) : s.taken m f = (f (s.onMsg m)).recause s.log.cause := rfl
/-- A message without effect only leaves the inbox. -/
theorem State.onMsg_recause (s : State) (m : Msg) : (s.onMsg m).recause s.log.cause = s.took m := rfl

/-- A message goes out on the port that the routes give. -/
theorem State.putMsg_out (s : State) (n : Nat) (came : Option Nat) (m : Msg) : Output.message { m with port := n } ∈ (s.putMsg n came m).out := by
  unfold State.putMsg
  dsimp only
  refine (State.pumpPort_kept _ n (Kept.refl _)).out_sub _ ?_
  exact List.mem_append_right _ (List.mem_singleton.2 rfl)
/-- A message of this kind, for this module and with this argument, has been sent on the port that leads there. -/
def Sends (s t : State) (kind dst arg : Nat) : Prop := ∀ n, routePort s.net.graph s.self s.self dst = some n →
  ∃ a : Msg, Output.message a ∈ t.out ∧ a.kind = kind ∧ a.dst = dst ∧ a.arg = arg ∧ a.port = n
theorem State.sendTo_sends (s : State) (src kind dst arg : Nat) (body : Bytes) : Sends s (s.sendTo src kind dst arg body) kind dst arg := by
  intro n hroute
  unfold State.sendTo
  rw [hroute]
  exact ⟨_, s.putMsg_out n none (s.newMsg src kind dst arg body), rfl, rfl, rfl, rfl⟩
theorem self_of {s t : State} (h : t.job = s.job) : t.self = s.self := by
  unfold State.self
  rw [h]
theorem Sends.of_same {s u t : State} {kind dst arg : Nat} (h : Sends u t kind dst arg) (hgraph : u.net.graph = s.net.graph) (hself : u.self = s.self) :
    Sends s t kind dst arg := by
  intro n hroute
  rw [← hgraph, ← hself] at hroute
  exact h n hroute
/-- The number in the acknowledgement of a message. -/
def msgAckArg (m : Msg) : Nat := m.kind * 2 ^ 56 + (if m.kind = 1 then m.xfer else m.seq) % 2 ^ 32
theorem State.e2eAck_sends (s : State) (m : Msg) : Sends s (s.e2eAck m) 8 m.origin (msgAckArg m) := s.sendTo_sends _ _ _ _ _
theorem sb_e2eAck (s : State) (m : Msg) : SameBut [.log, .skid, .out] s (s.e2eAck m) := State.e2eAck_touch (List.Subset.refl _) s m (Touch.refl _ s)

/-! ### Transfers of peers -/

/-- A write into the CXL window where no stash is released writes its bytes and changes nothing else. -/
theorem State.mapWrite_cxl {a : Nat} (hlow : cxlBase ≤ a) (hhigh : a < stashBase) (s : State) (hreleased : s.stash.released = none) (who : Option Nat)
    (step : Nat) (bs : Bytes) : s.mapWrite who a step bs = { s with mem := writeBytes s.mem a bs } := by
  have hpieces : s.pieces a bs.length = [(a, bs.length)] := by
    unfold State.pieces inStash
    rw [if_neg (by simp [hhigh])]
  have hsram : ¬sramBase ≤ a := by
    have : stashBase ≤ sramBase := by decide
    omega
  have hhbm : ¬a < hbmEnd := by
    have : hbmEnd ≤ cxlBase := by decide
    omega
  have hdefined : ¬(s.stash.released.isSome && s.stashByte a) = true := by
    rw [hreleased]
    simp
  unfold State.mapWrite
  rw [hpieces]
  simp only [List.foldl_cons, List.foldl_nil, if_neg hsram, if_neg hdefined, if_neg hhbm]
  simp [slice]

/-- The bytes of a transfer that have come, with those of this part; the other transfers that are coming in. -/
def State.gotSoFar (s : State) (m : Msg) : Nat :=
  (match s.net.inbound.find? (fun x => decide (x.origin = m.origin ∧ x.xfer = m.xfer)) with | some x => x.got | none => 0) + m.body.length
def State.otherInbound (s : State) (m : Msg) : List Inbound := s.net.inbound.filter fun x => !decide (x.origin = m.origin ∧ x.xfer = m.xfer)
def State.setInbound (s : State) (l : List Inbound) : State := { s with net := { s.net with inbound := l } }
/-- The part of a transfer has been written: it is noted, or, the last one, signals and is acknowledged. -/
def State.partWritten (s : State) (m : Msg) : State :=
  if s.gotSoFar m < m.total then s.setInbound (s.otherInbound m ++ [⟨m.origin, m.xfer, s.gotSoFar m⟩])
  else
    let u := s.setInbound (s.otherInbound m)
    (if m.sync = 0xFFFF then u else u.signal m.source m.sync 1 u.homeStep).e2eAck m
theorem exec_dmaWrite (s : State) (m : Msg) : exec (.dmaWrite m [] []) s = .next (State.recause
    (if s.job.state = .fault then s.onMsg m
     else if m.body ≠ [] ∧ s.decodes m.arg m.body.length = false then (s.onMsg m).fault m.source 0x2402 (u8 3 ++ u32 0x0A ++ u16 0xFFFF)
     else ((s.onMsg m).mapWrite none m.arg (s.onMsg m).stepKey m.body).partWritten m) s.log.cause) := by
  have hbad : (m.body ≠ [] ∧ s.decodes m.arg m.body.length = false) ↔ (m.body ≠ [] ∧ (!s.decodes m.arg m.body.length) = true) := by simp
  rw [if_congr hbad rfl rfl]
  rfl

theorem State.setInbound_same (s : State) (l : List Inbound) : SameBut [.net] s (s.setInbound l) := sb_net s _
/-- The signal of a transfer that has come: none, or one on its way to its home. -/
theorem State.partSignal_spec (u : State) (m : Msg) : let t := if m.sync = 0xFFFF then u else u.signal m.source m.sync 1 u.homeStep
    SameBut [.log, .skid, .sync, .host, .ctr, .out] u t ∧ (m.sync = 0xFFFF → t.sync = u.sync) ∧
      (m.sync < 0x3E00 → t.sync.transit = u.sync.transit ++ [⟨m.source, m.sync, 1, u.homeStep, u.replica (m.source / 512)⟩]) := by
  intro t
  by_cases hnone : m.sync = 0xFFFF
  · have ht : t = u := if_pos hnone
    rw [ht]
    exact ⟨fun p _ => Touch.refl [] u p (by simp), fun _ => rfl, fun h => absurd h (by omega)⟩
  · have ht : t = u.signal m.source m.sync 1 u.homeStep := if_neg hnone
    rw [ht]
    refine ⟨State.signal_touch (List.Subset.refl _) u _ _ _ _ (Touch.refl _ u), fun h => absurd h hnone, fun h => ?_⟩
    rw [State.signal_object _ _ _ _ h]
theorem State.partWritten_more (h : s.gotSoFar m < m.total) : s.partWritten m = s.setInbound (s.otherInbound m ++ [⟨m.origin, m.xfer, s.gotSoFar m⟩]) :=
  if_pos h
theorem State.partWritten_last (h : ¬s.gotSoFar m < m.total) : let t := s.partWritten m
    t.mem = s.mem ∧ Sends s t 8 m.origin (msgAckArg m) ∧ (m.sync = 0xFFFF → t.sync = s.sync) ∧
      (m.sync < 0x3E00 → t.sync.transit = s.sync.transit ++ [⟨m.source, m.sync, 1, s.homeStep, s.replica (m.source / 512)⟩]) := by
  intro t
  have hnet := s.setInbound_same (s.otherInbound m)
  have hgraph : (s.setInbound (s.otherInbound m)).net.graph = s.net.graph := rfl
  have hstep : (s.setInbound (s.otherInbound m)).homeStep = s.homeStep := rfl
  have hreplica (d : Nat) : (s.setInbound (s.otherInbound m)).replica d = s.replica d := rfl
  have ht : t = State.e2eAck (if m.sync = 0xFFFF then s.setInbound (s.otherInbound m)
    else (s.setInbound (s.otherInbound m)).signal m.source m.sync 1 (s.setInbound (s.otherInbound m)).homeStep) m := if_neg h
  obtain ⟨hsame, hquiet, hsignal⟩ := (s.setInbound (s.otherInbound m)).partSignal_spec m
  rw [ht]
  generalize s.setInbound (s.otherInbound m) = u at *
  generalize (if m.sync = 0xFFFF then u else u.signal m.source m.sync 1 u.homeStep) = v at *
  have hack := sb_e2eAck v m
  have hsync : (v.e2eAck m).sync = v.sync := hack .sync (by decide)
  have husync : u.sync = s.sync := hnet .sync (by decide)
  have hvnet : v.net = u.net := hsame .net (by decide)
  refine ⟨((hack .mem (by decide)).trans (hsame .mem (by decide))).trans (hnet .mem (by decide)), (v.e2eAck_sends m).of_same ?_ ?_, ?_, ?_⟩
  · rw [hvnet, hgraph]
  · exact self_of ((hsame .job (by decide)).trans (hnet .job (by decide)))
  · exact fun h => hsync.trans ((hquiet h).trans husync)
  · intro h
    rw [hsync, hsignal h, husync, hstep, hreplica]

theorem dmaWritten (s : State) (m : Msg) : ∃ t, exec (.dmaWrite m [] []) s = .next t ∧
    if s.job.state = .fault then t = s.took m
    else if m.body ≠ [] ∧ s.decodes m.arg m.body.length = false then Faulted t m.source 0x2402 ∧ t.safe.latch = true ∧ t.mem = s.mem
    else cxlBase ≤ m.arg → m.arg < stashBase → s.stash.released = none →
      t.mem = writeBytes s.mem m.arg m.body ∧
      if s.gotSoFar m < m.total then SameBut [.mem, .net] s t
        ∧ t.net.inbound = s.otherInbound m ++ [⟨m.origin, m.xfer, s.gotSoFar m⟩]
      else Sends s t 8 m.origin (msgAckArg m) ∧ (m.sync = 0xFFFF → t.sync = s.sync) ∧
        (m.sync < 0x3E00 → t.sync.transit = s.sync.transit ++ [⟨m.source, m.sync, 1, s.homeStep, s.replica (m.source / 512)⟩]) := by
  refine ⟨_, exec_dmaWrite s m, ?_⟩
  by_cases hfault : s.job.state = .fault
  · rw [if_pos hfault, if_pos hfault]
    rfl
  · rw [if_neg hfault, if_neg hfault]
    by_cases hbad : m.body ≠ [] ∧ s.decodes m.arg m.body.length = false
    · rw [if_pos hbad, if_pos hbad]
      have hmem : (s.onMsg m).mem = s.mem := rfl
      obtain ⟨hfaulted, hlatch, hkept, -⟩ := fault_spec_of s (u := s.onMsg m) m.source 0x2402 (u8 3 ++ u32 0x0A ++ u16 0xFFFF) hmem rfl
      exact ⟨hfaulted, hlatch, hkept⟩
    · rw [if_neg hbad, if_neg hbad]
      intro hlow hhigh hreleased
      rw [State.mapWrite_cxl hlow hhigh (s.onMsg m) hreleased]
      generalize hw : ({ s.onMsg m with mem := writeBytes (s.onMsg m).mem m.arg m.body } : State) = w
      have hgot : w.gotSoFar m = s.gotSoFar m := by rw [← hw]; rfl
      have hothers : w.otherInbound m = s.otherInbound m := by rw [← hw]; rfl
      have hmem : w.mem = writeBytes s.mem m.arg m.body := by rw [← hw]; rfl
      have hsame : SameBut [.log, .net, .mem] s w := by
        rw [← hw]
        exact ((sb_onMsg s m).trans (sb_mem (s.onMsg m) _)).mono (by decide)
      by_cases hmore : s.gotSoFar m < m.total
      · rw [if_pos hmore, State.partWritten_more (by rw [hgot]; exact hmore), hgot, hothers]
        refine ⟨hmem, ?_, rfl⟩
        rw [← hw]
        intro p hp
        cases p with
        | mem => exact absurd (by decide) hp
        | net => exact absurd (by decide) hp
        | _ => rfl
      · rw [if_neg hmore]
        obtain ⟨hkept, hsends, hquiet, hsignal⟩ := State.partWritten_last (s := w) (m := m) (by rw [hgot]; exact hmore)
        have hstep : w.homeStep = s.homeStep := by rw [← hw]; rfl
        have hreplica : w.replica (m.source / 512) = s.replica (m.source / 512) := by rw [← hw]; rfl
        have hsync : w.sync = s.sync := hsame .sync (by decide)
        have hgraph : w.net.graph = s.net.graph := by rw [← hw]; rfl
        rw [hsync, hstep, hreplica] at hsignal
        rw [hsync] at hquiet
        exact ⟨hkept.trans hmem, hsends.of_same hgraph (self_of (hsame .job (by decide))), hquiet, hsignal⟩

end
end Sys2Proof.Machine
end

section
/-! SUPPORT and PROOFS. Messages of peers (continued): signals, commands, acknowledgements, link records, fault notices, routes. -/

namespace Sys2Proof.Machine

section
variable {s : State} {m : Msg}

/-! ### Relayed signals (R390 to R392) -/

/-- The signal that a message relays, for an inbound object of its port. -/
def relayed (m : Msg) : Signal := ⟨m.source, 0x3C00 + 32 * m.port + m.arg % 32, bitsOf m.arg 31 16, bitsOf m.arg 63 32, m.stamp⟩
theorem exec_relayedSyncSignal {t : State} (h : (s.onMsg m).arriveSignal (relayed m) = some t) : exec (.relayedSyncSignal m) s = .next (t.recause s.log.cause) := by
  show execRelayedSyncSignal m s = _
  unfold execRelayedSyncSignal
  rw [State.taken_eq]
  dsimp only
  rw [show (s.onMsg m).arriveSignal ⟨m.source, 0x3C00 + 32 * m.port + m.arg % 32, bitsOf m.arg 31 16, bitsOf m.arg 63 32, m.stamp⟩ = some t from h]
theorem relayedArrives (s : State) (m : Msg) : let id := 0x3C00 + 32 * m.port + m.arg % 32
    id < 0x3E00 → ∃ t, exec (.relayedSyncSignal m) s = .next t ∧
      if s.declared id = false then t = s.took m
      else (s.syncDecl id).resets = false → s.syncValue id + bitsOf m.arg 31 16 < 2 ^ 32 →
        t.syncValue id = s.syncValue id + bitsOf m.arg 31 16 ∧ t.sync.transit = s.sync.transit ∧ t.sync.held = s.sync.held
          ∧ SameBut [.net, .sync] s t := by
  intro id hid
  have hrelayed : (relayed m).id = id := rfl
  have hdeclared : (s.onMsg m).declared id = s.declared id := rfl
  by_cases hnone : s.declared id = false
  · refine ⟨_, exec_relayedSyncSignal (State.arriveSignal_undeclared (hdeclared.trans hnone)), ?_⟩
    rw [if_pos hnone]
    rfl
  · have hsome : s.declared id = true := by simpa using hnone
    by_cases hplain : (s.syncDecl id).resets = false ∧ s.syncValue id + bitsOf m.arg 31 16 < 2 ^ 32
    · refine ⟨_, exec_relayedSyncSignal (State.arriveSignal_plain (hdeclared.trans hsome) hplain.1), ?_⟩
      rw [if_neg hnone]
      intro _ _
      have hadd : (s.onMsg m).addSync id (relayed m).inc (relayed m).stamp = (s.onMsg m).setSync id (s.syncValue id + bitsOf m.arg 31 16) := if_pos hplain.2
      rw [hrelayed, hadd]
      refine ⟨(if_neg (by omega)).trans (sget_sset_same _ _ _ _), rfl, rfl, ?_⟩
      intro p hp
      cases p with
      | net => exact absurd (by decide) hp
      | sync => exact absurd (by decide) hp
      | _ => rfl
    · have hrun : ∃ t, exec (.relayedSyncSignal m) s = .next t := ⟨_, rfl⟩
      obtain ⟨t, ht⟩ := hrun
      refine ⟨t, ht, ?_⟩
      rw [if_neg hnone]
      exact fun hresets hsmall => absurd ⟨hresets, hsmall⟩ hplain

/-! ### Commands of peers (R65, R388) -/

/-- The command that a peer tells of. -/
def peerCmd (m : Msg) : JobCmd := ⟨fieldAt m.body 0 1, fieldAt m.body 8 8, m.arg, slice m.body 16 64⟩
def State.keepCmd (s : State) (m : Msg) : State :=
  { s with job := { s.job with peerCmds := supd [] s.job.peerCmds m.origin fun l => l ++ [peerCmd m] } }
theorem commandKept (s : State) (m : Msg) : ∃ t, exec (.command m) s = .next t ∧ sget [] t.job.peerCmds m.origin = sget [] s.job.peerCmds m.origin ++ [peerCmd m]
    ∧ t.job.state = s.job.state ∧ SameBut [.log, .job, .skid, .net, .out] s t ∧ Sends s t 8 m.origin (msgAckArg m) := by
  have hexec : exec (.command m) s = .next (((((s.onMsg m).keepCmd m).e2eAck m)).recause s.log.cause) := rfl
  have hjob : ((s.onMsg m).keepCmd m).job = (s.keepCmd m).job := rfl
  have hkeep : SameBut [.job] (s.onMsg m) ((s.onMsg m).keepCmd m) := sb_job _ _
  have hsame := (sb_onMsg s m).trans hkeep
  have hgraph : ((s.onMsg m).keepCmd m).net.graph = s.net.graph := rfl
  have hself : ((s.onMsg m).keepCmd m).self = s.self := rfl
  refine ⟨_, hexec, ?_⟩
  generalize (s.onMsg m).keepCmd m = u at *
  have hack := sb_e2eAck u m
  have hjob' : (u.e2eAck m).job = (s.keepCmd m).job := (hack .job (by decide)).trans hjob
  refine ⟨?_, Eq.trans (congrArg Job.state hjob' : (u.e2eAck m).job.state = (s.keepCmd m).job.state) rfl, ((hsame.trans hack).trans (sb_recause _ _)).mono (by decide), (u.e2eAck_sends m).of_same hgraph hself⟩
  show sget [] (u.e2eAck m).job.peerCmds m.origin = _
  rw [hjob']
  exact sget_supd_same [] s.job.peerCmds m.origin fun l => l ++ [peerCmd m]

/-! ### Acknowledgements (R384) -/

/-- The work of an acknowledgement. -/
def State.acked (s : State) (m : Msg) : State :=
  match m.arg / 2 ^ 56 with
  | 1 => match s.sender (m.arg % 2 ^ 32) with | some cl => s.dmaRetire cl false | none => s
  | 2 => (s.rowAcked (m.arg % 2 ^ 32)).flushWithdrawals
  | _ => s
theorem State.acked_one (h : m.arg / 2 ^ 56 = 1) :
    s.acked m = match s.sender (m.arg % 2 ^ 32) with | some cl => s.dmaRetire cl false | none => s := by
  unfold State.acked
  rw [h]
  rfl
theorem State.acked_two (h : m.arg / 2 ^ 56 = 2) : s.acked m = (s.rowAcked (m.arg % 2 ^ 32)).flushWithdrawals := by
  unfold State.acked
  rw [h]
  rfl
theorem exec_e2eAck (s : State) (m : Msg) : exec (.e2eAck m) s = .next (((s.onMsg m).acked m).recause s.log.cause) := rfl
theorem State.dmaRetire_silent {cl : Nat} {op : DmaOp} {rest : List DmaOp} (hqueue : (s.cl cl).dmaQ = op :: rest) :
    s.dmaRetire cl false = (s.modCl cl fun c => { c with dmaQ := rest }).settle cl := by
  unfold State.dmaRetire
  rw [hqueue]
  rfl
theorem State.acked_transfer {cl : Nat} {op : DmaOp} {rest : List DmaOp} (hkind : m.arg / 2 ^ 56 = 1) (hsender : s.sender (m.arg % 2 ^ 32) = some cl)
    (hqueue : (s.cl cl).dmaQ = op :: rest) (hontime : OnTime s cl) : ((s.acked m).cl cl).dmaQ = rest ∧ (s.acked m).mem = s.mem := by
  have hacked : s.acked m = (s.modCl cl fun c => { c with dmaQ := rest }).settle cl := by
    rw [State.acked_one hkind, hsender]
    exact State.dmaRetire_silent hqueue
  have hpop := becomesAt_modCl s cl fun c => { c with dmaQ := rest }
  have hmem : (s.modCl cl fun c => { c with dmaQ := rest }).mem = s.mem := rfl
  obtain ⟨hwork, -, hsame⟩ := hpop.settle hontime rfl
  rw [hacked]
  exact ⟨congrArg Cluster.dmaQ hwork, (hsame .mem (by decide)).trans hmem⟩
theorem State.flushWithdrawals_done (h : s.rowsAcked = true) : s.flushWithdrawals.upd.toWithdraw = [] ∧ s.flushWithdrawals.mem = s.mem := by
  have hflush : s.flushWithdrawals = s.upd.toWithdraw.foldl (fun s k => s.sendAll wardenSrc 4 k []) { s with upd := { s.upd with toWithdraw := [] } } :=
    if_pos h
  have htouch : Touch [.log, .skid, .out] { s with upd := { s.upd with toWithdraw := [] } } s.flushWithdrawals := by
    rw [hflush]
    exact touch_foldl _ (fun v k hv => State.sendAll_touch (List.Subset.refl _) v wardenSrc 4 k [] hv) (Touch.refl _ _)
  exact ⟨congrArg Update.toWithdraw (htouch .upd (by decide)), htouch .mem (by decide)⟩
theorem State.rowAcked_eq (s : State) (n : Nat) : s.rowAcked n = { s with skid := (s.rowAcked n).skid } := by
  unfold State.rowAcked
  split <;> rfl
theorem State.rowAcked_congr {t : State} (h : t.skid = s.skid) (n : Nat) : (t.rowAcked n).skid = (s.rowAcked n).skid := by
  unfold State.rowAcked State.port
  rw [h]
  split
  · next k _ => exact congrArg (fun l => supd {} l k fun p : SkidPort => { p with unacked := p.unacked.erase n }) h
  · exact h
theorem ackTaken (s : State) (m : Msg) : ∃ t, exec (.e2eAck m) s = .next t ∧
    (m.arg / 2 ^ 56 = 1 → ∀ cl op rest, s.sender (m.arg % 2 ^ 32) = some cl → (s.cl cl).dmaQ = op :: rest → OnTime s cl → (t.cl cl).dmaQ = rest ∧ t.mem = s.mem) ∧
    (m.arg / 2 ^ 56 = 1 → s.sender (m.arg % 2 ^ 32) = none → t = s.took m) ∧
    (m.arg / 2 ^ 56 = 2 → if (s.rowAcked (m.arg % 2 ^ 32)).rowsAcked = true then t.upd.toWithdraw = [] ∧ t.mem = s.mem
      else t = { s.took m with skid := (s.rowAcked (m.arg % 2 ^ 32)).skid }) := by
  refine ⟨_, exec_e2eAck s m, ?_, ?_, ?_⟩
  · intro hkind cl op rest hsender hqueue hontime
    exact State.acked_transfer (s := s.onMsg m) hkind hsender hqueue hontime
  · intro hkind hsender
    have hacked : (s.onMsg m).acked m = s.onMsg m := by
      rw [State.acked_one hkind, show (s.onMsg m).sender (m.arg % 2 ^ 32) = none from hsender]
    rw [hacked]
    rfl
  · intro hkind
    have hacked : (s.onMsg m).acked m = ((s.onMsg m).rowAcked (m.arg % 2 ^ 32)).flushWithdrawals :=
      State.acked_two hkind
    have hskid : ((s.onMsg m).rowAcked (m.arg % 2 ^ 32)).skid = (s.rowAcked (m.arg % 2 ^ 32)).skid := State.rowAcked_congr (s := s) (t := s.onMsg m) rfl _
    have hall : ((s.onMsg m).rowAcked (m.arg % 2 ^ 32)).rowsAcked = (s.rowAcked (m.arg % 2 ^ 32)).rowsAcked := congrArg
      (fun l : List (Nat × SkidPort) => l.all fun e => e.2.unacked.isEmpty && !e.2.waiting.any fun q => q.own && q.msg.kind == 2) hskid
    have hmem : ((s.onMsg m).rowAcked (m.arg % 2 ^ 32)).mem = s.mem := by
      rw [State.rowAcked_eq]
      rfl
    rw [hacked]
    by_cases hdone : (s.rowAcked (m.arg % 2 ^ 32)).rowsAcked = true
    · rw [if_pos hdone]
      obtain ⟨hgone, hkept⟩ := State.flushWithdrawals_done (hall.trans hdone)
      exact ⟨hgone, hkept.trans hmem⟩
    · rw [if_neg hdone, show ((s.onMsg m).rowAcked (m.arg % 2 ^ 32)).flushWithdrawals = (s.onMsg m).rowAcked (m.arg % 2 ^ 32) from
        if_neg (by rw [hall]; exact hdone), State.rowAcked_eq, hskid]
      rfl

/-! ### Link records (R380) -/

/-- The port with what the far end's link record says. -/
def SkidPort.linked (p : SkidPort) (m : Msg) : SkidPort :=
  { p with farKnown := true, farModule := fieldAt m.body 0 2, farJob := fieldAt m.body 2 8, farDigest := slice m.body 10 64 }
theorem linkRecordTaken (s : State) (m : Msg) : ∃ t, exec (.linkRecord m) s = .next t ∧ t.port m.port = (s.port m.port).linked m ∧
    ((s.peer m.port).used = true → fieldAt m.body 0 2 ≠ (s.peer m.port).module → s.start.wardenHeld = false → Raised t (spineSrc m.port) 0x6203) ∧
    ((s.peer m.port).used = false → SameBut [.net, .skid] s t) := by
  let u := (s.onMsg m).modPort m.port fun p => p.linked m
  have hexec : exec (.linkRecord m) s = .next (State.recause
    (if ((u.peer m.port).used && u.farDiffers m.port) = true then u.event (spineSrc m.port) 0x6203 (u16 m.port) else u) s.log.cause) := rfl
  have hpeer : u.peer m.port = s.peer m.port := rfl
  have hport : u.port m.port = (s.port m.port).linked m := State.modPort_port (s.onMsg m) m.port fun p => p.linked m
  have hstart : u.start = s.start := rfl
  have hquiet : SameBut [.net, .skid] s (u.recause s.log.cause) := by
    intro p hp
    cases p with
    | net => exact absurd (by decide) hp
    | skid => exact absurd (by decide) hp
    | _ => rfl
  rw [hexec]
  generalize u = v at *
  refine ⟨_, rfl, ?_, ?_, ?_⟩
  · split
    · exact Eq.trans (State.port_congr (t := (v.event (spineSrc m.port) 0x6203 (u16 m.port)).recause s.log.cause) (s := v)
        (show (v.event (spineSrc m.port) 0x6203 (u16 m.port)).skid = v.skid by simp) m.port) hport
    · exact hport
  · intro hused hother hheld
    have hdiffers : v.farDiffers m.port = true := by
      unfold State.farDiffers
      dsimp only
      rw [hport, hpeer]
      have hne : ((s.port m.port).linked m).farModule ≠ (s.peer m.port).module := hother
      simp [SkidPort.linked, hother]
    rw [if_pos (by rw [hpeer, hused, hdiffers]; rfl)]
    exact raised_event v (spineSrc m.port) 0x6203 (u16 m.port) (by rw [hstart]; exact hheld)
  · intro hunused
    rw [if_neg (by rw [hpeer, hunused]; simp)]
    exact hquiet

/-! ### Fault notices (R385) -/

/-- A cause that is no later than the one at work changes no stamp: the fault is raised as any other. -/
theorem State.faultAfter_caused {c : Nat} (h : c ≤ s.log.cause) (src code : Nat) (d : Bytes) : s.faultAfter src code c d = s.fault src code d := by
  have hstamp : s.stampOf src c = s.stampOf src 0 := by
    unfold State.stampOf
    rw [max_eq_right h, max_eq_right (Nat.zero_le _)]
  have hrecord : s.mkRecord src code c d = s.mkRecord src code 0 d := by
    unfold State.mkRecord
    rw [hstamp]
  have hevent : s.eventAfter src code c d = s.eventAfter src code 0 d := by
    unfold State.eventAfter
    dsimp only
    rw [hrecord]
  unfold State.fault State.faultAfter
  rw [hrecord, hevent]
/-- Neither records nor what a lost flow leaves behind change the cause at work. -/
theorem State.event_cause (s : State) (src code : Nat) (d : Bytes) : (s.event src code d).log.cause = s.log.cause := by
  unfold State.event State.eventAfter
  split
  · rfl
  · simp [Log.advance]
theorem State.flowLost_cause (s : State) (f : Flow) : (s.flowLost f).log.cause = s.log.cause := by
  have last (b : State) : (if b.snap.restore.flow = some f.id ∧ b.snap.restore.state = 1 then
      ({ b with snap := { b.snap with restore := { b.snap.restore with state := 3, flow := none, verified := 0, image := [], manifest := [] } } }).event
        wardenSrc 0x3308 else b).log.cause = b.log.cause := by
    split
    · exact State.event_cause _ _ _ _
    · rfl
  have mid (a : State) : (match a.snap.checkpoint with
      | some c => if c.flow = some f.id then
          ({ a with snap := { a.snap with checkpoint := some { c with flow := none, since := a.time.cycles } } }).event wardenSrc 0x3306
        else a
      | none => a).log.cause = a.log.cause := by
    cases a.snap.checkpoint with
    | none => rfl
    | some c =>
      dsimp only
      split
      · exact State.event_cause _ _ _ _
      · rfl
  unfold State.flowLost
  refine (last _).trans ((mid _).trans ?_)
  split <;> rfl
theorem State.closeRestoreFlow_cause (s : State) (f : Option Nat) : (s.closeRestoreFlow f).log.cause = s.log.cause := by
  unfold State.closeRestoreFlow
  split
  · exact (State.flowLost_cause _ _).trans rfl
  · rfl
theorem State.peerFailed_cause (s : State) (n : Nat) : (s.peerFailed n).log.cause = s.log.cause := by
  unfold State.peerFailed
  split
  · rfl
  · split
    · exact (State.closeRestoreFlow_cause _ _).trans (State.event_cause _ _ _ _)
    · split
      · exact State.event_cause _ _ _ _
      · rfl
theorem exec_faultNotice {p : Plan} (hplan : s.job.plan = some p) : exec (.faultNotice m) s = .next (State.recause
    (if s.job.state = .fault then (s.onMsg m).bump kFaultCount 1
     else ((s.onMsg m).peerFailed m.origin).fault wardenSrc 0x6305 (u16 m.origin ++ u16 m.arg)) s.log.cause) := by
  have hcause : m.stamp + 1 ≤ ((s.onMsg m).peerFailed m.origin).log.cause := by
    rw [State.peerFailed_cause]
    exact le_refl _
  rw [← State.faultAfter_caused hcause]
  show execFaultNotice m s = _
  unfold execFaultNotice
  rw [State.taken_eq]
  rw [show (s.onMsg m).job.plan = some p from hplan]
  rfl
theorem noticeTaken (s : State) (m : Msg) : ∃ t, exec (.faultNotice m) s = .next t ∧
    if s.job.plan = none then t = s.took m
    else if s.job.state = .fault then t.count kFaultCount = s.count kFaultCount + 1 ∧ SameBut [.net, .ctr] s t
    else Faulted t wardenSrc 0x6305 ∧ t.safe.latch = true ∧ (s.safe.latch = false → t.job.state = .fault) ∧ t.mem = s.mem := by
  cases hplan : s.job.plan with
  | none =>
    have hexec : exec (.faultNotice m) s = .next ((s.onMsg m).recause s.log.cause) := by
      show execFaultNotice m s = _
      unfold execFaultNotice
      rw [State.taken_eq]
      rw [show (s.onMsg m).job.plan = none from hplan]
    exact ⟨_, hexec, rfl⟩
  | some p =>
    refine ⟨_, exec_faultNotice hplan, ?_⟩
    rw [if_neg (by simp)]
    by_cases hfault : s.job.state = .fault
    · rw [if_pos hfault, if_pos hfault]
      refine ⟨(s.onMsg m).bump_count kFaultCount 1, ?_⟩
      intro q hq
      cases q with
      | net => exact absurd (by decide) hq
      | ctr => exact absurd (by decide) hq
      | _ => rfl
    · rw [if_neg hfault, if_neg hfault]
      have hfailed := (sb_onMsg s m).trans (State.peerFailed_touch (List.Subset.refl _) (s.onMsg m) m.origin (Touch.refl _ _))
      generalize (s.onMsg m).peerFailed m.origin = u at *
      have hsafe : u.safe = s.safe := hfailed .safe (by decide)
      have hjob : u.job = s.job := hfailed .job (by decide)
      obtain ⟨-, -, -, hfirst⟩ := u.fault_spec wardenSrc 0x6305 (u16 m.origin ++ u16 m.arg)
      obtain ⟨hfaulted, hlatch, hmem, -⟩ := fault_spec_of s (u := u) wardenSrc 0x6305 (u16 m.origin ++ u16 m.arg) (hfailed .mem (by decide))
        (hfailed .bg (by decide))
      refine ⟨hfaulted, hlatch, fun hopen => ?_, hmem⟩
      obtain ⟨-, -, -, hstate, -⟩ := hfirst (by rw [hsafe]; exact hopen)
      exact hstate (by rw [hjob, hplan]; simp)

/-! ### Routes (R383) -/

/-- A list of routes goes out on ports. -/
def State.passOn (s : State) (l : List Nat) (module : Nat) (ports : List (Nat × Nat)) : State := l.foldl (fun s n => s.emit (Output.flood n module ports)) s
theorem State.passOn_same (s : State) (l : List Nat) (module : Nat) (ports : List (Nat × Nat)) : SameBut [.out] s (s.passOn l module ports) :=
  touch_foldl l (fun u n hu => State.emit_touch (List.Subset.refl _) u (Output.flood n module ports) hu) (Touch.refl _ s)
theorem State.passOn_out (s : State) (l : List Nat) (module : Nat) (ports : List (Nat × Nat)) :
    (s.passOn l module ports).out = s.out ++ l.map fun n => Output.flood n module ports := by
  induction l generalizing s with
  | nil => simp [State.passOn]
  | cons n l ih =>
    have hstep : s.passOn (n :: l) module ports = (s.emit (Output.flood n module ports)).passOn l module ports := rfl
    rw [hstep, ih]
    simp [State.emit]
/-- A new list of routes is kept and passed on. -/
def State.floodKept (s : State) (port module : Nat) (ports : List (Nat × Nat)) : State :=
  (s.setPorts module ports).passOn ((s.setPorts module ports).usedPorts.filter fun n => decide (n ≠ port)) module ports
theorem exec_routeFlood (s : State) (port module : Nat) (ports : List (Nat × Nat)) : exec (.routeFlood port module ports) s = .next
    (if (s.job.state ≠ .armed ∧ s.job.state ≠ .loaded) ∨ module = s.self ∨ (module, ports) ∈ s.net.graph then s
     else (s.floodKept port module ports).tryPair.askRestore) := by
  have hknown : (module, ports) ∈ s.net.graph ↔ s.net.graph.contains (module, ports) = true := by simp
  rw [if_congr (or_congr_right (or_congr_right hknown)) rfl rfl]
  rfl
theorem routesTaken (s : State) (port module : Nat) (ports : List (Nat × Nat)) : ∃ t, exec (.routeFlood port module ports) s = .next t ∧
    if (s.job.state ≠ .armed ∧ s.job.state ≠ .loaded) ∨ module = s.self ∨ (module, ports) ∈ s.net.graph then t = s
    else t.net.graph = (module, ports) :: s.net.graph.filter (fun e => decide (e.1 ≠ module))
      ∧ (∀ n, n ∈ s.usedPorts → n ≠ port → Output.flood n module ports ∈ t.out) ∧ t.job = s.job ∧ t.mem = s.mem := by
  refine ⟨_, exec_routeFlood s port module ports, ?_⟩
  by_cases hold : (s.job.state ≠ .armed ∧ s.job.state ≠ .loaded) ∨ module = s.self ∨ (module, ports) ∈ s.net.graph
  · rw [if_pos hold, if_pos hold]
  · rw [if_neg hold, if_neg hold]
    have hpassed := State.passOn_same (s.setPorts module ports) (s.usedPorts.filter fun n => decide (n ≠ port)) module ports
    have hout := State.passOn_out (s.setPorts module ports) (s.usedPorts.filter fun n => decide (n ≠ port)) module ports
    have hnet : (s.setPorts module ports).net.graph = (module, ports) :: s.net.graph.filter (fun e => decide (e.1 ≠ module)) := rfl
    have hkeep : s.floodKept port module ports = (s.setPorts module ports).passOn (s.usedPorts.filter fun n => decide (n ≠ port)) module ports := rfl
    have hset : SameBut [.net] s (s.setPorts module ports) := sb_net s _
    rw [hkeep]
    generalize s.setPorts module ports = u at *
    generalize u.passOn (s.usedPorts.filter fun n => decide (n ≠ port)) module ports = v at *
    have hasked := State.askRestore_touch (List.Subset.refl _) v.tryPair (State.tryPair_touch (List.Subset.refl _) v (Touch.refl _ v))
    have hkept := State.askRestore_kept v.tryPair (State.tryPair_kept v (Kept.refl v))
    refine ⟨(congrArg Net.graph ((hasked .net (by decide)).trans (hpassed .net (by decide)))).trans hnet, fun n hn hother => hkept.out_sub _ ?_,
      (hasked .job (by decide)).trans ((hpassed .job (by decide)).trans (hset .job (by decide))),
      (hasked .mem (by decide)).trans ((hpassed .mem (by decide)).trans (hset .mem (by decide)))⟩
    rw [hout]
    exact List.mem_append_right _ (List.mem_map.2 ⟨n, List.mem_filter.2 ⟨hn, decide_eq_true hother⟩, rfl⟩)

end

/-- Settles O53: each kind of message by the rule for its work, in the state that the message finds once it has left the inbox. -/
theorem messagesHaveTheirEffect : Obligations.MessagesHaveTheirEffect := by
  unfold Obligations.MessagesHaveTheirEffect
  intro sent s m
  exact ⟨dmaWritten s m, relayedArrives s m, commandKept s m, ackTaken s m, linkRecordTaken s m, noticeTaken s m, routesTaken s⟩

end Sys2Proof.Machine
end

section
/-! SUPPORT. Stands: what records of a stand leave alone, drops, and a stand that has nothing to take. -/

namespace Sys2Proof.Machine

section
variable {s u t : State} {st : Nat}

/-! ### Records leave flows in place and count nothing else -/

/-- The places of the open flows: the channel and subchannel of each. -/
def State.flowPlaces (s : State) : List (Nat × Nat) := s.host.flows.map fun f => (f.channel, f.sub)
theorem State.ingestFlow_none_iff (s : State) (st : Nat) : s.ingestFlow st = none ↔ (0, st) ∉ s.flowPlaces := by
  unfold State.ingestFlow State.flowPlaces
  simp only [List.find?_eq_none, List.mem_map, Prod.mk.injEq, not_exists, not_and, decide_eq_true_eq]
/-- Records were sent, and no more: every flow stays in its place, and only the counters of records and frames grow. -/
def Told (s t : State) : Prop :=
  t.flowPlaces = s.flowPlaces ∧
  (∀ k, k ≠ kRecordsLost → k ≠ kEventRecords → k ≠ kFramesTx → t.count k = s.count k)
theorem Told.places {s t : State} : Told s t → t.flowPlaces = s.flowPlaces
  | ⟨h, _⟩ => h
theorem Told.counts {s t : State} : Told s t → ∀ k, k ≠ kRecordsLost → k ≠ kEventRecords → k ≠ kFramesTx → t.count k = s.count k
  | ⟨_, h⟩ => h
theorem Told.refl (s : State) : Told s s := ⟨rfl, fun _ _ _ _ => rfl⟩
theorem Told.trans (h : Told s u) (k : Told u t) : Told s t :=
  ⟨k.places.trans h.places, fun n h1 h2 h3 => (k.counts n h1 h2 h3).trans (h.counts n h1 h2 h3)⟩
/-- What changes neither host port nor counters tells nothing. -/
theorem Told.of_same {ps : List Part} (h : SameBut ps s t) (hhost : Part.host ∉ ps) (hctr : Part.ctr ∉ ps) : Told s t := by
  have hh : t.host = s.host := h .host hhost
  have hc : t.ctr = s.ctr := h .ctr hctr
  refine ⟨?_, fun k _ _ _ => congrArg (fun l => sget 0 l k) hc⟩
  unfold State.flowPlaces
  rw [hh]
theorem Told.ingestFlow (h : Told s t) (hflow : s.ingestFlow st = none) : t.ingestFlow st = none := by
  rw [State.ingestFlow_none_iff] at *
  rw [h.places]
  exact hflow

theorem State.modFlow_places (s : State) (id : Nat) (f : Flow → Flow) (h : ∀ x, (f x).channel = x.channel ∧ (f x).sub = x.sub) :
    (s.modFlow id f).flowPlaces = s.flowPlaces := by
  unfold State.flowPlaces State.modFlow
  simp only [List.map_map]
  refine List.map_congr_left fun x _ => ?_
  simp only [Function.comp]
  split
  · rw [(h x).1, (h x).2]
  · rfl
theorem State.sendHost_places (s : State) (o : Output) : (s.sendHost o).flowPlaces = s.flowPlaces := rfl
theorem State.touch_places (s : State) (n : Nat) : (s.touch n).flowPlaces = s.flowPlaces := rfl
theorem told_record (s : State) (ch sub : Nat) (bs : Bytes) : Told s (s.record ch sub bs) := by
  refine ⟨?_, fun k h1 _ h3 => s.record_count ch sub bs k h1 h3⟩
  unfold State.record
  split
  · rfl
  · split
    · rfl
    · refine foldl_same State.flowPlaces _ _ _ fun s f => ?_
      split
      · unfold State.sendBlock
        rw [State.sendHost_places, State.touch_places]
        exact s.modFlow_places f.id _ fun _ => ⟨rfl, rfl⟩
      · rfl
theorem told_log (s : State) (x : Log) : Told s { s with log := x } := Told.of_same (sb_log s x) (by decide) (by decide)
theorem told_event (s : State) (src code : Nat) (d : Bytes) : Told s (s.event src code d) := by
  refine ⟨?_, fun k h1 h2 h3 => s.event_count src code d k h1 h2 h3⟩
  unfold State.event State.eventAfter
  split
  · rfl
  · refine (told_record _ _ _ _).places.trans ?_
    unfold State.flowPlaces
    simp only [State.bump_frame]
theorem told_receipt (s : State) (st : Nat) (r : Receipt) : Told s (s.receipt st r) := by
  unfold State.receipt
  exact (told_log s (s.log.advance (packerSrc st) (s.stampOf (packerSrc st) 0))).trans (told_record _ _ _ _)
theorem told_eventOnce (s : State) (k step src code : Nat) (d : Bytes) : Told s (s.eventOnce k step src code d) := by
  unfold State.eventOnce
  split
  · exact (Told.of_same (sb_job s _) (by decide) (by decide)).trans (told_event _ _ _ _)
  · exact Told.refl s
theorem told_ingestOnce (s : State) (st n code : Nat) (d : Bytes) : Told s (s.ingestOnce st n code d) := told_eventOnce _ _ _ _ _ _
theorem told_modStats (s : State) (step : Nat) (f : StepStats → StepStats) : Told s (s.modStats step f) := ⟨rfl, fun _ _ _ _ => rfl⟩
theorem told_addCounts (s : State) (src step w f : Nat) (c : Counts) : Told s (s.addCounts src step w f c) := by
  unfold State.addCounts State.tallyCounts
  split
  · exact told_modStats _ _ _
  · unfold State.raiseFlag
    dsimp only
    split
    · exact ((told_modStats _ _ _).trans (told_modStats _ _ _)).trans (told_event _ _ _ _)
    · exact (told_modStats _ _ _).trans (told_modStats _ _ _)
theorem told_addTally (s : State) (src step f : Nat) (c : LimberTally) : Told s (s.addTally src step f c) := by
  unfold State.addTally State.addHist
  split
  · exact (told_addCounts _ _ _ _ _ _).trans (told_modStats _ _ _)
  · exact told_addCounts _ _ _ _ _ _
theorem told_stemmed (s : State) (st step : Nat) (d bs : Bytes) : Told s (s.stemmed st step d bs).2 := by
  unfold State.stemmed
  split
  · exact Told.refl s
  · next g hgeom =>
    clear hgeom
    dsimp only
    generalize chunks (stemIn g) (bs.length / stemIn g) bs = l
    generalize sget [] s.ingest.weights (bjStem d) = weights
    generalize ([] : Bytes) = out
    induction l generalizing s out with
    | nil => exact Told.refl s
    | cons p l ih =>
      rw [List.foldl_cons]
      refine Told.trans ?_ (ih _ _)
      exact (told_addTally _ _ _ _ _).trans (Told.of_same (sb_modLimber _ _ _) (by decide) (by decide))

/-! ### A stand -/

theorem State.stand_modStand (s : State) (st : Nat) (f : Stand → Stand) : (s.modStand st f).stand st = f (s.stand st) :=
  sget_supd_same ({} : Stand) s.ingest.stands st f
theorem State.stand_modStand_other (s : State) {st n : Nat} (f : Stand → Stand) (h : n ≠ st) : (s.modStand st f).stand n = s.stand n :=
  sget_supd_other ({} : Stand) s.ingest.stands st n f h
theorem sb_modStand (s : State) (st : Nat) (f : Stand → Stand) : SameBut [.ingest] s (s.modStand st f) := State.modStand_touch (List.Subset.refl _) s st f (Touch.refl _ s)
theorem stand_of (h : t.ingest = s.ingest) (n : Nat) : t.stand n = s.stand n := congrArg (fun x : Ingest => sget ({} : Stand) x.stands n) h
theorem told_modStand (s : State) (st : Nat) (f : Stand → Stand) : Told s (s.modStand st f) := Told.of_same (sb_modStand s st f) (by decide) (by decide)

/-- The sample of an arrival number, once the samples of that number have changed. -/
theorem Stand.sample_modSample {x : Stand} {a : Nat} {e : Sample} {f : Sample → Sample} (h : x.sample a = some e) (hf : (f e).arrival = a) :
    (x.modSample a f).sample a = some (f e) := by
  unfold Stand.sample at h
  show (x.samples.map fun e => if e.arrival = a then f e else e).find? (fun e => decide (e.arrival = a)) = _
  generalize x.samples = samples at h
  induction samples with
  | nil => simp at h
  | cons y l ih =>
    rw [List.map_cons]
    by_cases hy : y.arrival = a
    · rw [List.find?_cons_of_pos (by simpa using hy)] at h
      cases h
      rw [if_pos hy, List.find?_cons_of_pos (by simpa using hf)]
    · rw [List.find?_cons_of_neg (by simpa using hy)] at h
      rw [if_neg hy, List.find?_cons_of_neg (by simpa using hy)]
      exact ih h
theorem Stand.sample_arrival {x : Stand} {a : Nat} {e : Sample} (h : x.sample a = some e) : e.arrival = a := by
  have := List.find?_some h
  simpa using this
theorem Stand.sample_congr {x y : Stand} (h : y.samples = x.samples) (a : Nat) : y.sample a = x.sample a := by
  unfold Stand.sample
  rw [h]
theorem Stand.release_samples (x : Stand) (c : Option Nat) : (x.release c).samples = x.samples := by
  cases c <;> rfl
theorem Stand.turned_samples (x : Stand) (e : Sample) : (x.turned e).samples = x.samples := by
  unfold Stand.turned
  split <;> rfl

/-! ### Nothing waits for pool space, and no flow brings samples -/

theorem State.settleStand_noFlow (hflow : s.ingestFlow st = none) : s.settleStand st = if s.job.state = .fault then s else s.fillPool st := by
  have hfill : (s.fillPool st).ingestFlow st = none :=
    (Told.of_same (State.fillPool_touch (List.Subset.refl _) s st (Touch.refl _ s)) (by decide) (by decide)).ingestFlow hflow
  unfold State.settleStand
  dsimp only
  rw [hfill]
  generalize s.fillPool st = u at *
  have htake : u.takeSamples st 0 = u := rfl
  have hring : u.ringFull st = false := by
    unfold State.ringFull
    rw [hfill]
  have hopen : u.reopenWindow st = u := by
    unfold State.reopenWindow
    rw [hfill]
  rw [htake, hring]
  split
  · rfl
  · exact hopen
theorem told_settleStand (hflow : s.ingestFlow st = none) : Told s (s.settleStand st) := by
  rw [State.settleStand_noFlow hflow]
  split
  · exact Told.refl s
  · exact Told.of_same (State.fillPool_touch (List.Subset.refl _) s st (Touch.refl _ s)) (by decide) (by decide)
theorem State.settleStand_idle (hflow : s.ingestFlow st = none) (hwait : ∀ x ∈ (s.stand st).samples, x.state ≠ .waitPool) : s.settleStand st = s := by
  have hfill : s.fillPool st = s := by
    unfold State.fillPool
    rw [List.filter_eq_nil_iff.2 (fun x hx => by simpa using hwait x hx)]
    rfl
  rw [State.settleStand_noFlow hflow, hfill, ite_self]

/-! ### A sample is dropped (R312, R331) -/

theorem State.bumpStream_count (s : State) (n i : Nat) {k : Nat} (h : k < 2 ^ 50) : (s.bumpStream n i).count k = s.count k := by
  unfold State.bumpStream
  split
  · refine s.bump_count_other _ _ _ fun hk => ?_
    rw [hk] at h
    unfold kStream at h
    omega
  · rfl
theorem told_dropReceipt (s : State) (st : Nat) (h : Bytes) (c r : Nat) :
    (s.dropReceipt st h c r).flowPlaces = s.flowPlaces ∧ ∀ k, k < 2 ^ 50 → k ≠ kRecordsLost → k ≠ kEventRecords → k ≠ kFramesTx → k ≠ kBkDone st →
      (s.dropReceipt st h c r).count k = s.count k + if k = kDrop r then 1 else 0 := by
  have hreceipt := told_receipt s st { kind := 2, reason := r, id := smId h, step := smStep h + c, carries := c, stream := smStream h }
  have hdrop : s.dropReceipt st h c r =
      ((((s.receipt st { kind := 2, reason := r, id := smId h, step := smStep h + c, carries := c, stream := smStream h }).bump (kDrop r) 1).bump
        (kBkDone st) 1).bumpStream (smStream h) 3).ingestOnce st r 0x4000 (u8 r ++ u32 (smId h)) := rfl
  rw [hdrop]
  generalize s.receipt st { kind := 2, reason := r, id := smId h, step := smStep h + c, carries := c, stream := smStream h } = u at *
  have hstream : (((u.bump (kDrop r) 1).bump (kBkDone st) 1).bumpStream (smStream h) 3).flowPlaces = u.flowPlaces := by
    unfold State.bumpStream
    split <;> rfl
  have honce := told_ingestOnce (((u.bump (kDrop r) 1).bump (kBkDone st) 1).bumpStream (smStream h) 3) st r 0x4000 (u8 r ++ u32 (smId h))
  refine ⟨honce.places.trans (hstream.trans hreceipt.places), fun k hk h1 h2 h3 hdone => ?_⟩
  rw [honce.counts k h1 h2 h3, State.bumpStream_count _ _ _ hk, State.bump_count_other _ _ _ _ hdone, ← hreceipt.counts k h1 h2 h3]
  split
  · next hkey =>
    rw [hkey]
    exact u.bump_count _ _
  · next hkey => exact u.bump_count_other _ _ _ hkey
theorem kBkCycles_ne_kBkDone (st : Nat) : kBkCycles st ≠ kBkDone st := by
  unfold kBkCycles kBkDone
  omega
/-- The counters of a stand and of drops are no others. -/
theorem kBkCycles_own (h : st < 8) : kBkCycles st < 2 ^ 50 ∧ kBkCycles st ≠ kRecordsLost ∧ kBkCycles st ≠ kEventRecords ∧ kBkCycles st ≠ kFramesTx := by
  unfold kBkCycles kRecordsLost kEventRecords kFramesTx regBase ctrlBase objKey
  omega
theorem kBkRows_own (h : st < 8) : kBkRows st < 2 ^ 50 ∧ kBkRows st ≠ kRecordsLost ∧ kBkRows st ≠ kEventRecords ∧ kBkRows st ≠ kFramesTx := by
  unfold kBkRows kRecordsLost kEventRecords kFramesTx regBase ctrlBase objKey
  omega
theorem kDrop_own {r : Nat} (h : r < 256) : kDrop r < 2 ^ 50 ∧ kDrop r ≠ kRecordsLost ∧ kDrop r ≠ kEventRecords ∧ kDrop r ≠ kFramesTx ∧ kDrop r ≠ kBkDone st ∧
    kBkCycles st ≠ kDrop r := by
  unfold kDrop kBkDone kBkCycles kRecordsLost kEventRecords kFramesTx regBase ctrlBase objKey
  omega
/-- A sample is dropped: the stand holds it no more, the drop is counted, nothing of memory changes. -/
def Dropped (s t : State) (st arrival r : Nat) : Prop :=
  (t.stand st).samples = (s.stand st).samples.filter (fun y => decide (y.arrival ≠ arrival)) ∧
  (r < 256 → t.count (kDrop r) = s.count (kDrop r) + 1) ∧
  (st < 8 → r < 256 → t.count (kBkCycles st) = s.count (kBkCycles st)) ∧
  t.flowPlaces = s.flowPlaces ∧
  SameBut [.log, .job, .host, .ingest, .ctr, .out] s t
theorem Dropped.samples {s t : State} {st arrival r : Nat} : Dropped s t st arrival r →
    (t.stand st).samples = (s.stand st).samples.filter fun y => decide (y.arrival ≠ arrival)
  | ⟨h, _, _, _, _⟩ => h
theorem Dropped.drops {s t : State} {st arrival r : Nat} : Dropped s t st arrival r →
    r < 256 → t.count (kDrop r) = s.count (kDrop r) + 1
  | ⟨_, h, _, _, _⟩ => h
theorem Dropped.cycles {s t : State} {st arrival r : Nat} : Dropped s t st arrival r →
    st < 8 → r < 256 → t.count (kBkCycles st) = s.count (kBkCycles st)
  | ⟨_, _, h, _, _⟩ => h
theorem Dropped.places {s t : State} {st arrival r : Nat} : Dropped s t st arrival r →
    t.flowPlaces = s.flowPlaces
  | ⟨_, _, _, h, _⟩ => h
theorem Dropped.same {s t : State} {st arrival r : Nat} : Dropped s t st arrival r →
    SameBut [.log, .job, .host, .ingest, .ctr, .out] s t
  | ⟨_, _, _, _, h⟩ => h
theorem State.dropSample_dropped (s : State) (st r : Nat) (e : Sample) : Dropped s (s.dropSample st r e) st e.arrival r := by
  have hsame := State.dropSample_touch (List.Subset.refl _) s st r e (Touch.refl _ s)
  have hstand := s.stand_modStand st fun x => { x with samples := x.samples.filter fun y => decide (y.arrival ≠ e.arrival) }.release e.ctx
  have hctr (k : Nat) : (s.modStand st fun x => { x with samples := x.samples.filter fun y => decide (y.arrival ≠ e.arrival) }.release e.ctx).count k = s.count k := rfl
  have hplaces : (s.modStand st fun x => { x with samples := x.samples.filter fun y => decide (y.arrival ≠ e.arrival) }.release e.ctx).flowPlaces = s.flowPlaces := rfl
  unfold State.dropSample at *
  generalize (s.modStand st fun x => { x with samples := x.samples.filter fun y => decide (y.arrival ≠ e.arrival) }.release e.ctx) = u at *
  obtain ⟨htold, hcounts⟩ := told_dropReceipt u st e.header e.carries r
  have hreceipt := State.dropReceipt_touch (List.Subset.refl _) u st e.header e.carries r (Touch.refl _ u)
  refine ⟨?_, fun hr => ?_, fun hst hr => ?_, htold.trans hplaces, hsame⟩
  · rw [stand_of (hreceipt .ingest (by decide)) st, hstand, Stand.release_samples]
  · obtain ⟨h1, h2, h3, h4, h5, -⟩ := kDrop_own (st := st) hr
    rw [hcounts _ h1 h2 h3 h4 h5, if_pos rfl, hctr]
  · obtain ⟨h1, h2, h3, h4⟩ := kBkCycles_own hst
    rw [hcounts _ h1 h2 h3 h4 (kBkCycles_ne_kBkDone st), if_neg (kDrop_own hr).2.2.2.2.2, hctr]
    rfl
theorem Dropped.gone {arrival r : Nat} (h : Dropped s t st arrival r) : (t.stand st).sample arrival = none := by
  unfold Stand.sample
  rw [h.samples, List.find?_eq_none]
  intro x hx
  simpa using (List.mem_filter.1 hx).2
/-- A stand that took nothing and waited for nothing takes nothing once a sample is dropped. -/
theorem Dropped.settled {arrival r : Nat} (h : Dropped s t st arrival r) (hflow : s.ingestFlow st = none)
    (hwait : ∀ x ∈ (s.stand st).samples, x.state ≠ .waitPool) : t.settleStand st = t := by
  refine State.settleStand_idle ?_ fun x hx => ?_
  · rw [State.ingestFlow_none_iff, h.places, ← State.ingestFlow_none_iff]
    exact hflow
  · rw [h.samples] at hx
    exact hwait x (List.mem_filter.1 hx).1

end
end Sys2Proof.Machine
end

section
/-! SUPPORT and PROOFS. Samples start, are decoded within their budget, and take their place in a row (R303, R305, R311 to R318, R321,
R323, R328, R331). -/

namespace Sys2Proof.Machine

section
variable {s u : State} {st arrival : Nat} {e : Sample} {d : Bytes}

/-! ### A decode starts (R311) -/

/-- Sample `a` starts before sample `b`: ascending step, then arrival order. -/
def Sooner (a b : Sample) : Prop := smStep a.header < smStep b.header ∨ (smStep a.header = smStep b.header ∧ a.arrival < b.arrival)
theorem foldl_soonest (l : List Sample) (a : Sample) :
    let r := l.foldl (fun a b => if smStep b.header < smStep a.header ∨ (smStep b.header = smStep a.header ∧ b.arrival < a.arrival) then b else a) a
    r ∈ a :: l ∧ ∀ y ∈ a :: l, ¬Sooner y r := by
  induction l generalizing a with
  | nil =>
    dsimp only [List.foldl_nil]
    refine ⟨List.mem_singleton.2 rfl, fun y hy h => ?_⟩
    rw [List.mem_singleton.1 hy] at h
    unfold Sooner at h
    omega
  | cons b l ih =>
    rw [List.foldl_cons]
    by_cases hb : smStep b.header < smStep a.header ∨ (smStep b.header = smStep a.header ∧ b.arrival < a.arrival)
    · rw [if_pos hb]
      obtain ⟨hmem, hleast⟩ := ih b
      refine ⟨List.mem_cons_of_mem _ hmem, fun y hy => ?_⟩
      rcases List.mem_cons.1 hy with rfl | hy
      · have := hleast b (List.mem_cons_self ..)
        unfold Sooner at *
        omega
      · exact hleast y hy
    · rw [if_neg hb]
      obtain ⟨hmem, hleast⟩ := ih a
      refine ⟨?_, fun y hy => ?_⟩
      · rcases List.mem_cons.1 hmem with h | h
        · rw [h]
          exact List.mem_cons_self ..
        · exact List.mem_cons_of_mem _ (List.mem_cons_of_mem _ h)
      · rcases List.mem_cons.1 hy with rfl | hy
        · exact hleast _ (List.mem_cons_self ..)
        · rcases List.mem_cons.1 hy with rfl | hy
          · have := hleast a (List.mem_cons_self ..)
            unfold Sooner at *
            omega
          · exact hleast y (List.mem_cons_of_mem _ hy)
/-- The sample that starts next is of the lowest step, then of the earliest arrival. -/
theorem Stand.nextQueued_of {x : Stand} {cls : Nat} (hmem : e ∈ x.samples) (hqueued : e.state = .queued) (hclass : smClass e.header = cls)
    (hleast : ∀ y ∈ x.samples, y.state = .queued → smClass y.header = cls →
      smStep e.header < smStep y.header ∨ (smStep e.header = smStep y.header ∧ e.arrival ≤ y.arrival)) :
    ∃ b, x.nextQueued cls = some b ∧ b.arrival = e.arrival ∧ smStep b.header = smStep e.header := by
  have hin : e ∈ x.samples.filter fun e => decide (e.state = .queued ∧ smClass e.header = cls) :=
    List.mem_filter.2 ⟨hmem, decide_eq_true ⟨hqueued, hclass⟩⟩
  have hall : ∀ y ∈ x.samples.filter (fun e => decide (e.state = .queued ∧ smClass e.header = cls)),
      smStep e.header < smStep y.header ∨ (smStep e.header = smStep y.header ∧ e.arrival ≤ y.arrival) := by
    intro y hy
    obtain ⟨hy1, hy2⟩ := List.mem_filter.1 hy
    have := of_decide_eq_true hy2
    exact hleast y hy1 this.1 this.2
  unfold Stand.nextQueued
  generalize x.samples.filter (fun e => decide (e.state = .queued ∧ smClass e.header = cls)) = l at hin hall
  cases l with
  | nil => cases hin
  | cons a l =>
    obtain ⟨hr, hsoonest⟩ := foldl_soonest l a
    have h1 := hall _ hr
    have h2 := hsoonest e hin
    refine ⟨_, rfl, ?_⟩
    unfold Sooner at h2
    omega
/-- A context of a class that is free is found, when one is. -/
theorem Stand.freeContext_of {x : Stand} {cls n : Nat} (hclass : cls < 3) (hn : n < classContexts cls)
    (hbusy : 64 * cls + n ∉ x.samples.filterMap fun y => y.ctx) (hfreed : 64 * cls + n ∉ x.freed) :
    ∃ c, x.freeContext cls = some c ∧ c / 64 = cls ∧ c ∉ x.samples.filterMap fun y => y.ctx := by
  have hmost : classContexts cls ≤ 48 := by
    unfold classContexts
    split <;> omega
  unfold Stand.freeContext
  dsimp only
  have hfound : (((List.range (classContexts cls)).map fun n => 64 * cls + n).find? fun c =>
      !(x.samples.filterMap fun e => e.ctx).contains c && !x.freed.contains c).isSome = true := by
    rw [List.find?_isSome]
    exact ⟨64 * cls + n, List.mem_map.2 ⟨n, List.mem_range.2 hn, rfl⟩, by simpa using ⟨by simpa using hbusy, hfreed⟩⟩
  obtain ⟨c, hc⟩ := Option.isSome_iff_exists.1 hfound
  rw [hc]
  refine ⟨c, rfl, ?_, ?_⟩
  · obtain ⟨k, hk, rfl⟩ := List.mem_map.1 (List.mem_of_find?_eq_some hc)
    have := List.mem_range.1 hk
    omega
  · have := List.find?_some hc
    simp only [Bool.and_eq_true, Bool.not_eq_true'] at this
    intro hbusy'
    rw [List.contains_iff_mem.2 hbusy'] at this
    exact absurd this.1 (by decide)
theorem State.mayDecode_congr {a b : Sample} (h : smStep a.header = smStep b.header) : s.mayDecode a = s.mayDecode b := by
  unfold State.mayDecode
  rw [h]
theorem exec_decodeStart {cls : Nat} {b : Sample} (h : (s.stand st).nextQueued cls = some b) : exec (.decodeStart st cls) s = .next
    (if s.mayDecode b = false then s
     else if cls = 3 then s.modStand st fun x => x.modSample b.arrival fun e => { e with state := .decoding }
     else match (s.stand st).freeContext cls with
      | none => s
      | some c => s.modStand st fun x =>
          { x with freed := x.freed.filter fun y => decide (y ≠ c) }.modSample b.arrival fun e => { e with state := .decoding, ctx := some c }) := by
  rw [← ite_not_eq]
  show execDecodeStart st cls s = _
  unfold execDecodeStart
  rewrite [h]
  rfl
theorem decodeStarts (s : State) (st cls : Nat) (e : Sample) (hmem : e ∈ (s.stand st).samples) (hqueued : e.state = .queued)
    (hclass : smClass e.header = cls) (hleast : ∀ x ∈ (s.stand st).samples, x.state = .queued → smClass x.header = cls →
      smStep e.header < smStep x.header ∨ (smStep e.header = smStep x.header ∧ e.arrival ≤ x.arrival)) :
    let busy := (s.stand st).samples.filterMap (fun x => x.ctx)
    ∃ t, exec (.decodeStart st cls) s = .next t ∧ SameBut [.ingest] s t ∧
      (s.mayDecode e = false → t = s) ∧
      (s.mayDecode e = true → cls = 3 → (t.stand st).samples = (s.stand st).samples.map (fun x => if x.arrival = e.arrival then { x with state := .decoding } else x)) ∧
      (s.mayDecode e = true → cls < 3 → ∀ n, n < classContexts cls → 64 * cls + n ∉ busy → 64 * cls + n ∉ (s.stand st).freed →
        ∃ c, c / 64 = cls ∧ c ∉ busy ∧ (t.stand st).samples = (s.stand st).samples.map (fun x => if x.arrival = e.arrival then { x with state := .decoding, ctx := some c } else x)) := by
  intro busy
  obtain ⟨b, hnext, harrival, hstep⟩ := Stand.nextQueued_of hmem hqueued hclass hleast
  refine ⟨_, exec_decodeStart hnext, ?_⟩
  rw [State.mayDecode_congr hstep, harrival]
  cases hmay : s.mayDecode e with
  | false =>
    rw [if_pos rfl]
    exact ⟨fun p _ => Touch.refl [] s p (by simp), fun _ => rfl, fun h => absurd h (by decide), fun h => absurd h (by decide)⟩
  | true =>
    rw [if_neg (by decide)]
    by_cases hpre : cls = 3
    · rw [if_pos hpre]
      refine ⟨sb_modStand _ _ _, fun h => absurd h (by decide), fun _ _ => ?_, fun _ h => absurd h (by omega)⟩
      rw [State.stand_modStand]
      rfl
    · rw [if_neg hpre]
      refine ⟨?_, fun h => absurd h (by decide), fun _ h => absurd h hpre, fun _ hsmall n hn hbusy hfreed => ?_⟩
      · split
        · exact fun p _ => Touch.refl [] s p (by simp)
        · exact sb_modStand _ _ _
      · obtain ⟨c, hfree, hin, hidle⟩ := Stand.freeContext_of hsmall hn hbusy hfreed
        refine ⟨c, hin, hidle, ?_⟩
        rw [hfree]
        dsimp only
        rw [State.stand_modStand]
        rfl

/-! ### A turn is charged (R303, R318) -/

/-- A sample with the cycles of a turn. -/
def Sample.charge (e : Sample) (n : Nat) : Sample := { e with charged := e.charged + n }
/-- The turn is given and charged. -/
def State.turnGiven (s : State) (st arrival cycles : Nat) (e : Sample) : State :=
  (s.modStand st fun x => (x.turned e).modSample arrival fun _ => e.charge cycles).bump (kBkCycles st) cycles
theorem Stand.turnOk_iff (x : Stand) (e : Sample) (cycles : Nat) : (!x.turnOk e cycles) = true ↔ 131072 < cycles ∨ ∃ c, e.ctx = some c ∧ x.inTurn c = false := by
  unfold Stand.turnOk turnLimit
  cases e.ctx with
  | none => simp
  | some c =>
    simp only [Bool.not_and, Bool.or_eq_true, Bool.not_eq_true', decide_eq_false_iff_not, Nat.not_le, Option.some.injEq, exists_eq_left']
theorem exec_decodeTurn {cycles : Nat} {ends : Bool} (hsample : (s.stand st).sample arrival = some e) (hstream : s.streamDesc (smStream e.header) = some d) :
    exec (.decodeTurn st arrival cycles ends []) s = .next
      (if e.state ≠ .decoding ∨ 131072 < cycles ∨ (∃ c, e.ctx = some c ∧ (s.stand st).inTurn c = false) then s
       else if s.budget d < e.charged + cycles then s.turnGiven st arrival cycles e
       else if ends = true then ((s.turnGiven st arrival cycles e).endDecode st d (e.charge cycles)).settleStand st
       else s.turnGiven st arrival cycles e) := by
  rw [← if_congr (or_congr_right (Stand.turnOk_iff (s.stand st) e cycles)) rfl rfl]
  show execDecodeTurn st arrival cycles ends [] s = _
  unfold execDecodeTurn
  rw [hsample]
  dsimp only
  rw [hstream]
  rfl
/-- What a turn leaves of the stand. -/
theorem State.turnGiven_spec {cycles : Nat} (hsample : (s.stand st).sample arrival = some e) (hdecoding : e.state = .decoding)
    (hflow : s.ingestFlow st = none) (hwait : ∀ x ∈ (s.stand st).samples, x.state ≠ .waitPool) : let u := s.turnGiven st arrival cycles e
    SameBut [.ingest, .ctr] s u ∧ (u.stand st).sample arrival = some (e.charge cycles) ∧
    (u.stand st).samples = (s.stand st).samples.map (fun y => if y.arrival = arrival then e.charge cycles else y) ∧
    u.count (kBkCycles st) = s.count (kBkCycles st) + cycles ∧ (∀ r, r < 256 → u.count (kDrop r) = s.count (kDrop r)) ∧
    (∀ c, e.ctx = some c → sget 0 (u.stand st).turns (c / 8) = c + 1) ∧ u.ingestFlow st = none ∧ ∀ x ∈ (u.stand st).samples, x.state ≠ .waitPool := by
  intro u
  have hstand : u.stand st = ((s.stand st).turned e).modSample arrival fun _ => e.charge cycles := State.stand_modStand s st _
  have hsamples : (u.stand st).samples = (s.stand st).samples.map (fun y => if y.arrival = arrival then e.charge cycles else y) := by
    rw [hstand]
    unfold Stand.modSample
    dsimp only
    rw [Stand.turned_samples]
  refine ⟨((sb_modStand s st _).trans (sb_ctr _ _ _)).mono (by decide), ?_, hsamples, State.bump_count _ _ _, fun r hr => ?_, fun c hc => ?_, hflow, fun x hx => ?_⟩
  · rw [hstand]
    refine Stand.sample_modSample (f := fun _ => e.charge cycles) ((Stand.sample_congr (Stand.turned_samples _ e) arrival).trans hsample) ?_
    show e.arrival = arrival
    exact Stand.sample_arrival hsample
  · exact State.bump_count_other (s.modStand st _) _ _ _ (kDrop_own (st := st) hr).2.2.2.2.2.symm
  · rw [hstand]
    unfold Stand.turned
    rw [hc]
    exact sget_sset_same 0 (s.stand st).turns (c / 8) (c + 1)
  · rw [hsamples] at hx
    obtain ⟨y, hy, rfl⟩ := List.mem_map.1 hx
    split
    · show e.state ≠ .waitPool
      rw [hdecoding]
      decide
    · exact hwait y hy

/-! ### A decode ends (R312 to R317) -/

theorem State.finishDecode_large {truncated : Bool} (h : s.claimOutput d e.header < (s.converted d e).2.1.sum * rwPos (s.rowGeom d)) :
    s.finishDecode st d e truncated = s.dropSample st 9 e := by
  unfold State.finishDecode
  exact if_pos h
/-- The output of a sample, which is ready. -/
def Sample.outputs (e : Sample) (bs : Bytes) (segs : List Nat) (truncated : Bool) : Sample :=
  { e with state := .ready, output := bs, segments := segs, truncated := truncated }
theorem State.finishDecode_ready {truncated : Bool} (hclaim : (s.converted d e).2.1.sum * rwPos (s.rowGeom d) ≤ s.claimOutput d e.header)
    (hfinite : (s.converted d e).2.2 = 0) (hstem : s.stemGeom d = none) (hfits : (s.converted d e).1.length ≤ s.poolFree st) :
    s.finishDecode st d e truncated =
      s.modStand st fun x => x.modSample e.arrival fun y => y.outputs (s.converted d e).1 (s.converted d e).2.1 truncated := by
  have hstemmed : s.stemmed st e.step d (s.converted d e).1 = ((s.converted d e).1, s) := by
    unfold State.stemmed
    rw [hstem]
  unfold State.finishDecode
  generalize s.converted d e = c at *
  obtain ⟨bs, segs, bad⟩ := c
  dsimp only at *
  rw [if_neg (Nat.not_lt.2 hclaim), if_pos hfinite, hstemmed]
  dsimp only
  rw [decide_eq_true hfits]
  rfl
/-- A decode that ends counts no cycles and closes no flow. -/
def Spent (s u : State) (st : Nat) : Prop :=
  u.flowPlaces = s.flowPlaces ∧
  u.count (kBkCycles st) = s.count (kBkCycles st)
theorem Spent.places {s u : State} {st : Nat} : Spent s u st → u.flowPlaces = s.flowPlaces
  | ⟨h, _⟩ => h
theorem Spent.cycles {s u : State} {st : Nat} : Spent s u st → u.count (kBkCycles st) = s.count (kBkCycles st)
  | ⟨_, h⟩ => h
theorem Told.spent (h : Told s u) (hst : st < 8) : Spent s u st :=
  ⟨h.places, h.counts _ (kBkCycles_own hst).2.1 (kBkCycles_own hst).2.2.1 (kBkCycles_own hst).2.2.2⟩
theorem State.dropSample_spent (s : State) (hst : st < 8) {r : Nat} (hr : r < 256) (e : Sample) : Spent s (s.dropSample st r e) st :=
  ⟨(s.dropSample_dropped st r e).places, (s.dropSample_dropped st r e).cycles hst hr⟩
theorem State.finishDecode_spent (s : State) (hst : st < 8) (d : Bytes) (e : Sample) (truncated : Bool) : Spent s (s.finishDecode st d e truncated) st := by
  unfold State.finishDecode
  generalize s.converted d e = c
  obtain ⟨bs, segs, bad⟩ := c
  dsimp only
  split
  · exact s.dropSample_spent hst (by decide) e
  · have hcounted : Told s (if bad = 0 then s
        else s.addCounts (bkSrc st) e.step 0 (if smFormat e.header = 9 ∧ bjForm d = 1 then fBF16 else fFP32) { nonFinite := bad }) := by
      split
      · exact Told.refl s
      · exact told_addCounts _ _ _ _ _ _
    generalize (if bad = 0 then s else _) = v at *
    have hstemmed := hcounted.trans (told_stemmed v st e.step d bs)
    generalize v.stemmed st e.step d bs = q at *
    obtain ⟨out, w⟩ := q
    refine Told.spent ?_ hst
    dsimp only at *
    split
    · exact hstemmed.trans (told_modStand _ _ _)
    · exact (hstemmed.trans (told_modStand _ _ _)).trans (told_ingestOnce _ _ _ _ _)
/-- The reasons of a decode are few. -/
theorem dropReason_small {r : Nat} (h : dropReason d e = some r) : r < 256 := by
  unfold dropReason at h
  dsimp only at h
  repeat' split at h
  all_goals cases h
  all_goals decide
theorem State.endDecode_reason {r : Nat} (h : dropReason d e = some r) : s.endDecode st d e = s.dropSample st r e := by
  unfold State.endDecode
  rw [h]
theorem State.endDecode_early (h : dropReason d e = none) (hearly : endsEarly e = true) (hdrop : s.active 0x5000 4 0 ≠ 1) :
    s.endDecode st d e = s.dropSample st 6 e := by
  unfold State.endDecode
  rw [h]
  dsimp only
  rw [hearly, if_neg (by decide), if_neg hdrop]
theorem State.endDecode_whole (h : dropReason d e = none) (hwhole : endsEarly e = false ∨ s.active 0x5000 4 0 = 1) :
    s.endDecode st d e = s.finishDecode st d e (endsEarly e) := by
  unfold State.endDecode
  rw [h]
  dsimp only
  cases hearly : endsEarly e with
  | false => rfl
  | true =>
    rw [hearly] at hwhole
    rw [if_neg (by decide), if_pos (hwhole.resolve_left (by decide))]
theorem State.endDecode_spent (s : State) (hst : st < 8) (d : Bytes) (e : Sample) : Spent s (s.endDecode st d e) st := by
  cases h : dropReason d e with
  | some r =>
    rw [State.endDecode_reason h]
    exact s.dropSample_spent hst (dropReason_small h) e
  | none =>
    by_cases hwhole : endsEarly e = false ∨ s.active 0x5000 4 0 = 1
    · rw [State.endDecode_whole h hwhole]
      exact s.finishDecode_spent hst d e _
    · obtain ⟨hearly, hdrop⟩ := not_or.1 hwhole
      rw [State.endDecode_early h (by simpa using hearly) hdrop]
      exact s.dropSample_spent hst (by decide) e

end
end Sys2Proof.Machine
end

section
/-! PROOFS. Turns and outputs of samples (R303, R312 to R318, R321, R323, R328). -/

namespace Sys2Proof.Machine

section
variable {s u : State} {st arrival : Nat} {e : Sample} {d : Bytes}

/-! ### A turn (R303, R318) -/

theorem sum_filter_map_eq {α : Type} (p : α → Bool) (w : α → Nat) (g : α → α) (l : List α) (h : ∀ y ∈ l, g y = y ∨ (p y = false ∧ p (g y) = false)) :
    (((l.map g).filter p).map w).sum = ((l.filter p).map w).sum := by
  induction l with
  | nil => rfl
  | cons y l ih =>
    have ih := ih fun z hz => h z (List.mem_cons_of_mem _ hz)
    rw [List.map_cons]
    rcases h y (List.mem_cons_self ..) with hy | ⟨hy, hgy⟩
    · rw [hy]
      cases hp : p y with
      | true => rw [List.filter_cons_of_pos hp, List.filter_cons_of_pos hp, List.map_cons, List.map_cons, List.sum_cons, List.sum_cons, ih]
      | false => rw [List.filter_cons_of_neg (by simp [hp]), List.filter_cons_of_neg (by simp [hp]), ih]
    · rw [List.filter_cons_of_neg (by simp [hgy]), List.filter_cons_of_neg (by simp [hy]), ih]
/-- A turn takes no pool space. -/
theorem State.turnGiven_poolFree {cycles : Nat} (hdecoding : e.state = .decoding) (hunique : ∀ y ∈ (s.stand st).samples, y.arrival = arrival → y = e)
    (hsamples : (u.stand st).samples = (s.stand st).samples.map (fun y => if y.arrival = arrival then e.charge cycles else y)) (hjob : u.job = s.job) :
    u.poolFree st = s.poolFree st := by
  have hpool : u.poolBytes st = s.poolBytes st := by
    unfold State.poolBytes State.standDesc
    rw [hjob]
  unfold State.poolFree
  rw [hpool, hsamples, sum_filter_map_eq]
  intro y hy
  by_cases hmine : y.arrival = arrival
  · right
    have hcharged : (e.charge cycles).state = .decoding := hdecoding
    rw [if_pos hmine, hunique y hy hmine, hdecoding, hcharged]
    exact ⟨by decide, by decide⟩
  · left
    exact if_neg hmine
/-- Pre-decoded elements of other forms than BF16 and FP32 are taken as they are (R316). -/
theorem State.converted_raw (hformat : smFormat e.header = 9) (hbf : bjForm d ≠ 1) (hfp : bjForm d ≠ 2) :
    s.converted d e = (e.payload, [claimPositions d e.header], 0) := by
  have hclean : cleanTensor (bjForm d) e.payload = (e.payload, 0) := by
    unfold cleanTensor
    rw [if_neg (not_or.2 ⟨hbf, hfp⟩)]
  unfold State.converted
  rw [hformat]
  show ((cleanTensor (bjForm d) e.payload).1, [claimPositions d e.header], (cleanTensor (bjForm d) e.payload).2) = _
  rw [hclean]

/-- The stand has dropped the sample, and counts its reason. -/
def Gone (s t : State) (st arrival r : Nat) : Prop := (t.stand st).sample arrival = none ∧ t.count (kDrop r) = s.count (kDrop r) + 1
theorem gone_settled (hflow : u.ingestFlow st = none) (hwait : ∀ x ∈ (u.stand st).samples, x.state ≠ .waitPool) {r : Nat} (hr : r < 256)
    (harrival : e.arrival = arrival) (hdrops : u.count (kDrop r) = s.count (kDrop r)) : Gone s ((u.dropSample st r e).settleStand st) st arrival r := by
  have hdropped := u.dropSample_dropped st r e
  rw [hdropped.settled hflow hwait]
  exact ⟨harrival ▸ hdropped.gone, (hdropped.drops hr).trans (congrArg (· + 1) hdrops)⟩

/-- A turn that ends the decode: the sample is dropped for its reason, or its output is ready. -/
theorem turnEnds {cycles : Nat} (hdecoding : e.state = .decoding)
    (hu : u = s.turnGiven st arrival cycles e) (hflow : u.ingestFlow st = none) (hwait : ∀ x ∈ (u.stand st).samples, x.state ≠ .waitPool)
    (hmine : (u.stand st).sample arrival = some (e.charge cycles)) (hdrops : ∀ r, r < 256 → u.count (kDrop r) = s.count (kDrop r))
    (hsamples : (u.stand st).samples = (s.stand st).samples.map (fun y => if y.arrival = arrival then e.charge cycles else y)) :
    let t := (u.endDecode st d (e.charge cycles)).settleStand st
    (∀ r, dropReason d e = some r → Gone s t st arrival r) ∧
    (dropReason d e = none → endsEarly e = true → s.active 0x5000 4 0 ≠ 1 → Gone s t st arrival 6) ∧
    (dropReason d e = none → endsEarly e = false ∨ s.active 0x5000 4 0 = 1 →
      (s.claimOutput d e.header < (s.converted d e).2.1.sum * rwPos (s.rowGeom d) → Gone s t st arrival 9) ∧
      ((s.converted d e).2.1.sum * rwPos (s.rowGeom d) ≤ s.claimOutput d e.header → (s.converted d e).2.2 = 0 → s.stemGeom d = none →
        (∀ y ∈ (s.stand st).samples, y.arrival = arrival → y = e) → (s.converted d e).1.length ≤ s.poolFree st →
        (t.stand st).sample arrival = some ((e.charge cycles).outputs (s.converted d e).1 (s.converted d e).2.1 (endsEarly e)))) := by
  intro t
  have harrival : (e.charge cycles).arrival = arrival := Stand.sample_arrival hmine
  have hconverted : u.converted d (e.charge cycles) = s.converted d e := by rw [hu]; rfl
  have hjob : u.job = s.job := by rw [hu]; rfl
  have hactive : u.active 0x5000 4 0 = s.active 0x5000 4 0 := by rw [hu]; rfl
  have hclaim : u.claimOutput d (e.charge cycles).header = s.claimOutput d e.header := by rw [hu]; rfl
  have hgeom : u.rowGeom d = s.rowGeom d := by rw [hu]; rfl
  have hstem : u.stemGeom d = s.stemGeom d := by rw [hu]; rfl
  have hreason : dropReason d (e.charge cycles) = dropReason d e := rfl
  have hearly : endsEarly (e.charge cycles) = endsEarly e := rfl
  have drop (r : Nat) (hr : r < 256) (h : u.endDecode st d (e.charge cycles) = u.dropSample st r (e.charge cycles)) : Gone s t st arrival r := by
    show Gone s ((u.endDecode st d (e.charge cycles)).settleStand st) st arrival r
    rw [h]
    exact gone_settled hflow hwait hr harrival (hdrops r hr)
  refine ⟨fun r hr => drop r (dropReason_small hr) (State.endDecode_reason hr), fun h h' h'' => drop 6 (by decide) (State.endDecode_early h h' (hactive ▸ h'')),
    fun h hwhole => ?_⟩
  have hends := State.endDecode_whole (s := u) (st := st) (e := e.charge cycles) h (hactive ▸ hwhole)
  refine ⟨fun hlarge => drop 9 (by decide) (hends.trans (State.finishDecode_large ?_)), fun hfit hfinite hnostem hunique hpool => ?_⟩
  · rw [hclaim, hconverted, hgeom]
    exact hlarge
  · have hready := State.finishDecode_ready (s := u) (st := st) (d := d) (e := e.charge cycles) (truncated := endsEarly e)
      (by rw [hclaim, hconverted, hgeom]; exact hfit) (by rw [hconverted]; exact hfinite) (by rw [hstem]; exact hnostem)
      (by rw [hconverted, State.turnGiven_poolFree hdecoding hunique hsamples hjob]; exact hpool)
    rw [hconverted, harrival] at hready
    have hstand := u.stand_modStand st fun x =>
      x.modSample arrival fun y => y.outputs (s.converted d e).1 (s.converted d e).2.1 (endsEarly e)
    show (((u.endDecode st d (e.charge cycles)).settleStand st).stand st).sample arrival = _
    rw [hends, hearly, hready, State.settleStand_idle, hstand]
    · exact Stand.sample_modSample hmine harrival
    · exact hflow
    · rw [hstand]
      intro x hx
      obtain ⟨y, hy, rfl⟩ := List.mem_map.1 hx
      split
      · show SampleState.ready ≠ .waitPool
        decide
      · exact hwait y hy

theorem turnTaken (s : State) (st arrival cycles : Nat) (ends : Bool) (e : Sample) (d : Bytes) (hsample : (s.stand st).sample arrival = some e)
    (hstream : s.streamDesc (smStream e.header) = some d) (hst : st < 8) (hflow : s.ingestFlow st = none) (hwait : ∀ x ∈ (s.stand st).samples, x.state ≠ .waitPool) :
    ∃ t, exec (.decodeTurn st arrival cycles ends []) s = .next t ∧
      if e.state ≠ .decoding ∨ 131072 < cycles ∨ (∃ c, e.ctx = some c ∧ (s.stand st).inTurn c = false) then t = s
      else t.mem = s.mem ∧ t.count (kBkCycles st) = s.count (kBkCycles st) + cycles ∧
      (s.budget d < e.charged + cycles ∨ ends = false → SameBut [.ingest, .ctr] s t ∧ (t.stand st).sample arrival = some (e.charge cycles)
        ∧ ∀ c, e.ctx = some c → sget 0 (t.stand st).turns (c / 8) = c + 1) ∧
      (e.charged + cycles ≤ s.budget d → ends = true →
        (∀ r, dropReason d e = some r → Gone s t st arrival r) ∧
        (dropReason d e = none → endsEarly e = true → s.active 0x5000 4 0 ≠ 1 → Gone s t st arrival 6) ∧
        (dropReason d e = none → endsEarly e = false ∨ s.active 0x5000 4 0 = 1 →
          (s.claimOutput d e.header < (s.converted d e).2.1.sum * rwPos (s.rowGeom d) → Gone s t st arrival 9) ∧
          ((s.converted d e).2.1.sum * rwPos (s.rowGeom d) ≤ s.claimOutput d e.header → (s.converted d e).2.2 = 0 → s.stemGeom d = none →
            (∀ y ∈ (s.stand st).samples, y.arrival = arrival → y = e) → (s.converted d e).1.length ≤ s.poolFree st →
            (t.stand st).sample arrival = some ((e.charge cycles).outputs (s.converted d e).1 (s.converted d e).2.1 (endsEarly e)))) ∧
        (smFormat e.header = 9 → bjForm d ≠ 1 → bjForm d ≠ 2 → s.converted d e = (e.payload, [claimPositions d e.header], 0))) := by
  refine ⟨_, exec_decodeTurn hsample hstream, ?_⟩
  by_cases hnone : e.state ≠ .decoding ∨ 131072 < cycles ∨ (∃ c, e.ctx = some c ∧ (s.stand st).inTurn c = false)
  · rw [if_pos hnone, if_pos hnone]
  rw [if_neg hnone, if_neg hnone]
  have hdecoding : e.state = .decoding := not_not.1 (not_or.1 hnone).1
  have hspec := State.turnGiven_spec (cycles := cycles) hsample hdecoding hflow hwait
  generalize hu : s.turnGiven st arrival cycles e = u at *
  obtain ⟨hsame, hmine, hsamples, hcycles, hdrops, hturns, hflow', hwait'⟩ := hspec
  have hmem : u.mem = s.mem := hsame .mem (by decide)
  by_cases hover : s.budget d < e.charged + cycles
  · rw [if_pos hover]
    exact ⟨hmem, hcycles, fun _ => ⟨hsame, hmine, hturns⟩, fun h => absurd hover (Nat.not_lt.2 h)⟩
  rw [if_neg hover]
  cases ends with
  | false =>
    rw [if_neg (by decide)]
    exact ⟨hmem, hcycles, fun _ => ⟨hsame, hmine, hturns⟩, fun _ h => absurd h (by decide)⟩
  | true =>
    rw [if_pos rfl]
    have hspent := u.endDecode_spent hst d (e.charge cycles)
    have hended := State.endDecode_touch (List.Subset.refl _) u st d (e.charge cycles) (Touch.refl _ u)
    have hnow : (u.endDecode st d (e.charge cycles)).ingestFlow st = none := by
      rw [State.ingestFlow_none_iff, hspent.places, ← State.ingestFlow_none_iff]
      exact hflow'
    obtain ⟨hreason, hearly, hwhole⟩ := turnEnds (d := d) hdecoding hu.symm hflow' hwait' hmine hdrops hsamples
    refine ⟨?_, ?_, fun h => absurd h (not_or.2 ⟨hover, by decide⟩), fun _ _ => ⟨hreason, hearly, hwhole, State.converted_raw⟩⟩
    · exact ((State.settleStand_touch (List.Subset.refl _) _ st (Touch.refl _ _)) .mem (by decide)).trans ((hended .mem (by decide)).trans hmem)
    · exact ((told_settleStand hnow).spent hst).cycles.trans (hspent.cycles.trans hcycles)

/-! ### Charged above the budget; outputs complete (R303, R318, R321, R323) -/

theorem exec_decodeBudgetExceeded (hsample : (s.stand st).sample arrival = some e) : exec (.decodeBudgetExceeded st arrival) s = .next
    (if e.state = .decoding ∧ s.overBudget e = true then (s.dropSample st 11 e).settleStand st else s) := by
  show execDecodeBudgetExceeded st arrival s = _
  unfold execDecodeBudgetExceeded
  rw [hsample]
/-- A drop of a sample of a stand that takes nothing. -/
theorem dropped_settled (hsample : (s.stand st).sample arrival = some e) (hflow : s.ingestFlow st = none)
    (hwait : ∀ x ∈ (s.stand st).samples, x.state ≠ .waitPool) {r : Nat} (hr : r < 256) : let t := (s.dropSample st r e).settleStand st
    Gone s t st arrival r ∧ t.mem = s.mem := by
  have hdropped := s.dropSample_dropped st r e
  refine ⟨gone_settled hflow hwait hr (Stand.sample_arrival hsample) rfl, ?_⟩
  rw [hdropped.settled hflow hwait]
  exact hdropped.same .mem (by decide)

/-- A sample whose output lies whole in the pool. -/
def Sample.completed (e : Sample) (n : Nat) : Sample := { e with state := .complete, ctx := none, doneNo := n }
/-- The stand once the output of a sample is complete. -/
def Stand.done (x : Stand) (e : Sample) : Stand := ({ x with nextDone := x.nextDone + 1 }.release e.ctx).modSample e.arrival fun _ => e.completed x.nextDone
theorem Stand.done_sample {x : Stand} (h : x.sample arrival = some e) : (x.done e).sample arrival = some (e.completed x.nextDone) := by
  have harrival := Stand.sample_arrival h
  unfold Stand.done
  rw [harrival]
  exact Stand.sample_modSample (f := fun _ => e.completed x.nextDone)
    ((Stand.sample_congr (Stand.release_samples { x with nextDone := x.nextDone + 1 } e.ctx) arrival).trans h) harrival
theorem Stand.done_kept (x : Stand) (e : Sample) : (x.done e).rows = x.rows ∧ (x.done e).closed = x.closed ∧ (x.done e).guarded = x.guarded ∧
    (x.done e).freed = x.freed ++ e.ctx.toList := by
  unfold Stand.done
  cases e.ctx with
  | none => exact ⟨rfl, rfl, rfl, (List.append_nil _).symm⟩
  | some c => exact ⟨rfl, rfl, rfl, rfl⟩
def State.outputDone (s : State) (st : Nat) (e : Sample) : State := s.modStand st fun x => x.done e
theorem exec_outputComplete (hsample : (s.stand st).sample arrival = some e) : exec (.outputComplete st arrival []) s = .next
    (if e.state ≠ .ready then s
     else if 0 ∈ e.segments then (s.dropSample st 10 e).settleStand st
     else (s.outputDone st e).placeSample st (e.completed (s.stand st).nextDone)) := by
  have harrival := Stand.sample_arrival hsample
  have hzero : 0 ∈ e.segments ↔ e.segments.contains 0 = true := by simp
  have hdone : s.outputDone st e = s.modStand st fun x => ({ x with nextDone := x.nextDone + 1 }.release e.ctx).modSample arrival fun _ =>
      e.completed (s.stand st).nextDone := by
    show { s with ingest := { s.ingest with stands := supd {} s.ingest.stands st fun x => x.done e } } = { s with ingest := { s.ingest with stands := _ } }
    unfold supd Stand.done
    rw [harrival]
    rfl
  rw [if_congr hzero rfl rfl, hdone]
  show execOutputComplete st arrival [] s = _
  unfold execOutputComplete
  rw [hsample]
  rfl
theorem State.placeSample_none (h : e.step ∉ s.ingest.admitting ∨ ∀ d, s.streamDesc (smStream e.header) = some d → s.guardAt e.step (s.rowGeom d) ≤ s.planNow) :
    s.placeSample st e = s := by
  unfold State.placeSample
  split
  · rfl
  · next d hd =>
    refine if_neg fun hall => ?_
    obtain ⟨hin, -, -, hbefore⟩ := hall
    rcases h with h | h
    · exact h (List.contains_iff_mem.1 hin)
    · have := h d hd
      omega
/-- The row that a sample opens. -/
def openedRow (key : Nat) (e : Sample) : PackRow := ⟨key, 0, e.segments.sum, e.segments.length, [(e.arrival, 0, 1)], none⟩
/-- With no row open a sample opens one, where the step has room for it. -/
theorem Stand.pack_opens {x : Stand} {key len most : Nat} (hrows : ∀ r ∈ x.rows, r.geom = key → r.index ≠ none) (hroom : sget 0 x.closed key < most) (e : Sample) :
    x.pack key len most e = { x with rows := x.rows ++ [openedRow key e] }.modSample e.arrival fun e => { e with state := .placed } := by
  have hopen : x.openRows key = [] := by
    unfold Stand.openRows
    rw [List.filter_eq_nil_iff.2 (fun r hr => by simpa using hrows r hr)]
    exact List.mergeSort_nil
  have hrow : PackRow.add ⟨key, 0, 0, 0, [], none⟩ e.arrival e.segments.sum e.segments.length = openedRow key e := by
    unfold PackRow.add openedRow
    simp
  have hfew : (0 : Nat) < 4 := by decide
  unfold Stand.pack
  simp only [hopen, List.find?_nil, List.length_nil, hfew, hroom, if_true]
  rw [← hrow]
  rfl
theorem State.placeSample_opens {d : Bytes} (hstream : s.streamDesc (smStream e.header) = some d) (hstep : e.step ∈ s.ingest.admitting)
    (hguard : rowKey (bjRows d) e.step ∉ (s.stand st).guarded) (hcomplete : e.state = .complete) (hbefore : s.planNow < s.guardAt e.step (s.rowGeom d))
    (hrows : ∀ r ∈ (s.stand st).rows, r.geom = rowKey (bjRows d) e.step → r.index ≠ none)
    (hroom : sget 0 (s.stand st).closed (rowKey (bjRows d) e.step) < rwRows (s.rowGeom d)) : let t := s.placeSample st e
    SameBut [.ingest] s t ∧ t.stand st = { s.stand st with rows := (s.stand st).rows ++ [openedRow (rowKey (bjRows d) e.step) e] }.modSample e.arrival
      fun e => { e with state := .placed } := by
  intro t
  have ht : t = s.modStand st fun x => x.pack (rowKey (bjRows d) e.step) (rwLength (s.rowGeom d)) (rwRows (s.rowGeom d)) e := by
    show s.placeSample st e = _
    unfold State.placeSample
    rw [hstream]
    exact if_pos ⟨List.contains_iff_mem.2 hstep, by simpa using hguard, hcomplete, hbefore⟩
  rw [ht]
  exact ⟨sb_modStand _ _ _, (State.stand_modStand _ _ _).trans (Stand.pack_opens hrows hroom e)⟩

theorem outputTaken (s : State) (st arrival : Nat) (e : Sample) (hsample : (s.stand st).sample arrival = some e) (hflow : s.ingestFlow st = none)
    (hwait : ∀ x ∈ (s.stand st).samples, x.state ≠ .waitPool) :
    ∃ t, exec (.outputComplete st arrival []) s = .next t ∧ t.mem = s.mem ∧
      (e.state ≠ .ready → t = s) ∧
      (e.state = .ready → 0 ∈ e.segments → Gone s t st arrival 10) ∧
      (e.state = .ready → 0 ∉ e.segments → e.step ∉ s.ingest.admitting ∨ (∀ d, s.streamDesc (smStream e.header) = some d → s.guardAt e.step (s.rowGeom d) ≤ s.planNow) → SameBut [.ingest] s t ∧ (t.stand st).rows = (s.stand st).rows
        ∧ (t.stand st).sample arrival = some (e.completed (s.stand st).nextDone)
        ∧ (t.stand st).freed = (s.stand st).freed ++ e.ctx.toList) ∧
      (e.state = .ready → 0 ∉ e.segments → e.step ∈ s.ingest.admitting → ∀ d, s.streamDesc (smStream e.header) = some d →
        rowKey (bjRows d) e.step ∉ (s.stand st).guarded → s.planNow < s.guardAt e.step (s.rowGeom d) → (∀ r ∈ (s.stand st).rows, r.geom = rowKey (bjRows d) e.step → r.index ≠ none) →
        sget 0 (s.stand st).closed (rowKey (bjRows d) e.step) < rwRows (s.rowGeom d) → SameBut [.ingest] s t
          ∧ (t.stand st).sample arrival = some { e.completed (s.stand st).nextDone with state := .placed }
          ∧ (t.stand st).rows = (s.stand st).rows ++ [openedRow (rowKey (bjRows d) e.step) e]) := by
  refine ⟨_, exec_outputComplete hsample, ?_⟩
  by_cases hready : e.state = .ready
  · rw [if_neg (not_not.2 hready)]
    by_cases hzero : 0 ∈ e.segments
    · rw [if_pos hzero]
      obtain ⟨hgone, hmem⟩ := dropped_settled hsample hflow hwait (r := 10) (by decide)
      exact ⟨hmem, fun h => absurd hready h, fun _ _ => hgone, fun _ h => absurd hzero h, fun _ h => absurd hzero h⟩
    · rw [if_neg hzero]
      have hstand : (s.outputDone st e).stand st = (s.stand st).done e := State.stand_modStand s st fun x => x.done e
      have hsame : SameBut [.ingest] s (s.outputDone st e) := sb_modStand s st fun x => x.done e
      obtain ⟨hrows, hclosed, hguarded, hfreed⟩ := (s.stand st).done_kept e
      have hdone := Stand.done_sample hsample
      have hstep : (e.completed (s.stand st).nextDone).step = e.step := rfl
      have hadmitting : (s.outputDone st e).ingest.admitting = s.ingest.admitting := rfl
      have hguardAt (d : Bytes) : (s.outputDone st e).guardAt e.step ((s.outputDone st e).rowGeom d) = s.guardAt e.step (s.rowGeom d) := rfl
      have hgeom (d : Bytes) : (s.outputDone st e).rowGeom d = s.rowGeom d := rfl
      have hplan : (s.outputDone st e).planNow = s.planNow := rfl
      have hdesc : (s.outputDone st e).streamDesc (smStream e.header) = s.streamDesc (smStream e.header) := rfl
      generalize s.outputDone st e = u at *
      refine ⟨?_, fun h => absurd hready h, fun _ h => absurd h hzero, fun _ _ hlate => ?_, fun _ _ hin d hd hguard hbefore hopen hroom => ?_⟩
      · exact ((State.placeSample_touch (List.Subset.refl _) u st _ (Touch.refl _ u)) .mem (by decide)).trans (hsame .mem (by decide))
      · have hplace : u.placeSample st (e.completed (s.stand st).nextDone) = u := by
          refine State.placeSample_none ?_
          rw [hstep, hadmitting]
          refine hlate.imp id fun h d hd => ?_
          rw [hguardAt, hplan]
          exact h d (hdesc.symm.trans hd)
        rw [hplace, hstand]
        exact ⟨hsame, hrows, hdone, hfreed⟩
      · obtain ⟨hplaced, hopened⟩ := State.placeSample_opens (s := u) (st := st) (e := e.completed (s.stand st).nextDone) (hdesc.trans hd)
          (by rw [hstep, hadmitting]; exact hin) (by rw [hstand, hguarded]; exact hguard) rfl (by rw [hstep, hguardAt, hplan]; exact hbefore)
          (by rw [hstand, hrows]; exact hopen) (by rw [hstand, hclosed, hgeom]; exact hroom)
        rw [hstand, hstep, hrows] at hopened
        refine ⟨(hsame.trans hplaced).mono (by decide), ?_, congrArg Stand.rows hopened⟩
        have harrival : (e.completed (s.stand st).nextDone).arrival = arrival := Stand.sample_arrival hdone
        rw [hopened, harrival]
        exact Stand.sample_modSample (f := fun e => { e with state := .placed }) ((Stand.sample_congr rfl arrival).trans hdone) harrival
  · rw [if_pos hready]
    exact ⟨rfl, fun _ => rfl, fun h => absurd h hready, fun h => absurd h hready, fun h => absurd h hready⟩

/-! ### The load of a stand (R328) -/

/-- What a stand holds in its ring and has to decode, as `DECODE_LOAD` reports it. -/
def State.loadReport (s : State) (st video audio text : Nat) : Bytes :=
  let es := (s.stand st).samples.filter (fun e => decide (e.state = .queued ∨ e.state = .decoding))
  u64 s.stamp ++ (u16 video ++ u16 audio ++ u16 text)
    ++ u64 ((es.map (fun e => smSize e.header)).sum + (match s.ingestFlow st with | some f => f.data.length | none => 0)) ++ u64 (s.backlog es)
    ++ u32 ((List.range 3).map (fun c => s.atRisk st c)).sum
def State.putLoad (s : State) (st : Nat) (bs : Bytes) : State := { s with ingest := { s.ingest with load := sset [] s.ingest.load st bs } }
theorem sb_putLoad (s : State) (st : Nat) (bs : Bytes) : SameBut [.ingest] s (s.putLoad st bs) := by
  intro p hp
  cases p with
  | ingest => exact absurd (by decide) hp
  | _ => rfl
/-- The body of the telemetry record of a load. -/
def State.loadBody (s : State) (st video audio text : Nat) : Bytes :=
  let es := (s.stand st).samples.filter (fun e => decide (e.state = .queued ∨ e.state = .decoding))
  (u16 video ++ u16 audio ++ u16 text) ++ u16 0
    ++ u64 ((es.map (fun e => smSize e.header)).sum + (match s.ingestFlow st with | some f => f.data.length | none => 0)) ++ u64 (s.backlog es)
    ++ u32 ((List.range 3).map (fun c => s.atRisk st c)).sum ++ u32 0
theorem exec_decodeLoad (hst : st < 8) (video audio text : Nat) : exec (.decodeLoad st video audio text) s = .next
    (if sget [] s.ingest.load st ≠ [] ∧ fieldAt (sget [] s.ingest.load st) 0 8 / 2 ^ 22 = s.stamp / 2 ^ 22 then s
     else (s.telemetry (srcId (84 + st) 0x30) 4 (s.loadBody st video audio text)).putLoad st (s.loadReport st video audio text)) := by
  have hstamp (src kind : Nat) (body : Bytes) : (s.telemetry src kind body).stamp = s.stamp :=
    congrArg (fun x => x.counter / 2 ^ 32) ((State.telemetry_touch (List.Subset.refl _) s src kind body (Touch.refl _ s)) .time (by decide))
  show execDecodeLoad st video audio text s = _
  unfold execDecodeLoad
  dsimp only
  rw [if_congr (or_iff_right (Nat.not_le.2 hst)) rfl rfl, hstamp]
  rfl
theorem loadReported (s : State) (st video audio text : Nat) (hst : st < 8) : ∃ t, exec (.decodeLoad st video audio text) s = .next t ∧
    let last := sget [] s.ingest.load st
    if last ≠ [] ∧ fieldAt last 0 8 / 2 ^ 22 = s.stamp / 2 ^ 22 then t = s
    else SameBut [.log, .host, .ingest, .ctr, .out] s t ∧ t.ingest.stands = s.ingest.stands ∧ sget [] t.ingest.load st = s.loadReport st video audio text := by
  refine ⟨_, exec_decodeLoad hst video audio text, ?_⟩
  dsimp only
  by_cases hrecent : sget [] s.ingest.load st ≠ [] ∧ fieldAt (sget [] s.ingest.load st) 0 8 / 2 ^ 22 = s.stamp / 2 ^ 22
  · rw [if_pos hrecent, if_pos hrecent]
  · rw [if_neg hrecent, if_neg hrecent]
    have htold := State.telemetry_touch (List.Subset.refl _) s (srcId (84 + st) 0x30) 4 (s.loadBody st video audio text) (Touch.refl _ s)
    generalize s.telemetry (srcId (84 + st) 0x30) 4 (s.loadBody st video audio text) = u at *
    have hstands : (u.putLoad st (s.loadReport st video audio text)).ingest.stands = u.ingest.stands := rfl
    have hingest : u.ingest = s.ingest := htold .ingest (by decide)
    exact ⟨(htold.trans (sb_putLoad u st _)).mono (by decide), hstands.trans (congrArg Ingest.stands hingest),
      sget_sset_same [] u.ingest.load st (s.loadReport st video audio text)⟩

end

/-- Settles O54: the soonest sample of a class starts; a turn is charged, and one that ends the decode drops the sample or makes its output
ready; a complete output takes its place; a load is reported. -/
theorem samplesAreDecoded : Obligations.SamplesAreDecoded := by
  unfold Obligations.SamplesAreDecoded
  refine ⟨decodeStarts, turnTaken, fun s st arrival e hsample _ hflow hwait => ⟨?_, ?_⟩, loadReported⟩
  · refine ⟨_, exec_decodeBudgetExceeded hsample, ?_⟩
    by_cases hover : e.state = .decoding ∧ s.overBudget e = true
    · rw [if_pos hover, if_pos hover]
      obtain ⟨⟨hgone, hcount⟩, hmem⟩ := dropped_settled hsample hflow hwait (r := 11) (by decide)
      exact ⟨hgone, hcount, hmem⟩
    · rw [if_neg hover, if_neg hover]
  · obtain ⟨t, hexec, hmem, hwaits, hgone, hkept, hplaced⟩ := outputTaken s st arrival e hsample hflow hwait
    have harrival := Stand.sample_arrival hsample
    refine ⟨t, hexec, hmem, hwaits, hgone, hkept, fun h1 h2 h3 d h4 h5 h6 h7 h8 => ?_⟩
    obtain ⟨hsame, hsample', hrows⟩ := hplaced h1 h2 h3 d h4 h5 h6 h7 h8
    refine ⟨hsame, hsample', ?_⟩
    rw [hrows, openedRow, harrival]

end Sys2Proof.Machine
end

section
/-! SUPPORT. Work on a stand: it leaves the other stands, the open admission steps and what was written as they are (R319 to R326). -/

namespace Sys2Proof.Machine

section
variable {s u t : State} {st : Nat}

/-- Work on a stand: the other stands and the open admission steps stay, no bound goes, and the counts of rows written stay. -/
def Worked (st : Nat) (s t : State) : Prop :=
  (∀ n, n ≠ st → t.stand n = s.stand n) ∧
  t.ingest.admitting = s.ingest.admitting ∧
  (∀ b ∈ s.ingest.bounds, b ∈ t.ingest.bounds) ∧
  (t.stand st).written = (s.stand st).written
theorem Worked.others {st : Nat} {s t : State} : Worked st s t → ∀ n, n ≠ st → t.stand n = s.stand n
  | ⟨h, _, _, _⟩ => h
theorem Worked.admitting {st : Nat} {s t : State} : Worked st s t → t.ingest.admitting = s.ingest.admitting
  | ⟨_, h, _, _⟩ => h
theorem Worked.bounds {st : Nat} {s t : State} : Worked st s t → ∀ b ∈ s.ingest.bounds, b ∈ t.ingest.bounds
  | ⟨_, _, h, _⟩ => h
theorem Worked.written {st : Nat} {s t : State} : Worked st s t → (t.stand st).written = (s.stand st).written
  | ⟨_, _, _, h⟩ => h
theorem Worked.refl (st : Nat) (s : State) : Worked st s s := ⟨fun _ _ => rfl, rfl, fun _ h => h, rfl⟩
theorem Worked.trans (h : Worked st s u) (k : Worked st u t) : Worked st s t :=
  ⟨fun n hn => (k.others n hn).trans (h.others n hn), k.admitting.trans h.admitting, fun b hb => k.bounds b (h.bounds b hb), k.written.trans h.written⟩
theorem Worked.of_ingest (h : t.ingest = s.ingest) : Worked st s t := by
  refine ⟨fun n _ => stand_of h n, by rw [h], fun b hb => by rw [h]; exact hb, by rw [stand_of h]⟩
theorem Worked.of_same {ps : List Part} (h : SameBut ps s t) (hingest : Part.ingest ∉ ps) : Worked st s t := Worked.of_ingest (h .ingest hingest)
theorem Worked.foldl {α : Type} {f : State → α → State} (l : List α) (hf : ∀ u x, Worked st u (f u x)) (s : State) : Worked st s (l.foldl f s) := by
  induction l generalizing s with
  | nil => exact Worked.refl st s
  | cons x l ih => exact (hf s x).trans (ih (f s x))
theorem worked_modStand (s : State) {f : Stand → Stand} (hf : (f (s.stand st)).written = (s.stand st).written) : Worked st s (s.modStand st f) :=
  ⟨fun _ hn => s.stand_modStand_other f hn, rfl, fun _ h => h, by rw [State.stand_modStand]; exact hf⟩
theorem worked_ite {c : Prop} [Decidable c] {x y : State} (hx : c → Worked st s x) (hy : ¬c → Worked st s y) : Worked st s (if c then x else y) := by
  split
  · exact hx ‹_›
  · exact hy ‹_›

theorem Stand.release_written (x : Stand) (c : Option Nat) : (x.release c).written = x.written := by cases c <;> rfl
theorem worked_dropReceipt (s : State) (n : Nat) (h : Bytes) (c r : Nat) : Worked st s (s.dropReceipt n h c r) :=
  Worked.of_same (State.dropReceipt_touch (List.Subset.refl _) s n h c r (Touch.refl _ s)) (by decide)
theorem worked_dropSample (s : State) (r : Nat) (e : Sample) : Worked st s (s.dropSample st r e) :=
  (worked_modStand s (Stand.release_written _ _)).trans (worked_dropReceipt _ _ _ _ _)
theorem Stand.closeRows_written (l : List PackRow) (key : Nat) (x : Stand) : (l.foldl (fun y r => y.closeRow key r.slot) x).written = x.written := by
  induction l generalizing x with
  | nil => rfl
  | cons r l ih => exact (ih _).trans rfl
theorem Stand.pack_written (x : Stand) (key len most : Nat) (e : Sample) : (x.pack key len most e).written = x.written := by
  have hclosed : (if (x.openRows key).length < 4 then x else match fullest (x.openRows key) with | some r => x.closeRow key r.slot | none => x).written = x.written := by
    split
    · rfl
    · split <;> rfl
  unfold Stand.pack
  dsimp only
  split
  · rfl
  · generalize (if (x.openRows key).length < 4 then x else _) = y at *
    split
    · split
      · exact hclosed
      · exact hclosed
    · exact hclosed
theorem worked_placeSample (s : State) (e : Sample) : Worked st s (s.placeSample st e) := by
  unfold State.placeSample
  split
  · exact Worked.refl st s
  · exact worked_ite (fun _ => worked_modStand s (Stand.pack_written _ _ _ _ _)) fun _ => Worked.refl st s
theorem worked_carrySample (s : State) (k : Nat) (e : Sample) : Worked st s (s.carrySample st k e) := by
  unfold State.carrySample
  refine worked_ite (fun _ => ?_) fun _ => worked_dropSample s 12 e
  have hcarry : Worked st s (s.modStand st fun x => x.modSample e.arrival fun e => { e with carries := e.carries + 1 }) := worked_modStand s rfl
  dsimp only
  generalize (s.modStand st fun x => x.modSample e.arrival fun e => { e with carries := e.carries + 1 }) = u at *
  have hreceipt := State.bumpStream_touch (ps := [.log, .host, .ctr, .out]) (by decide) _ (smStream e.header) 2
    (State.receipt_touch (List.Subset.refl _) u st { kind := 1, id := smId e.header, step := k, carries := e.carries + 1, stream := smStream e.header } (Touch.refl _ u))
  exact (hcarry.trans (Worked.of_same hreceipt (by decide))).trans (worked_placeSample _ _)
theorem worked_signalRows (s : State) (g k : Nat) (d : Bytes) : Worked st s (s.signalRows st g k d) := by
  unfold State.signalRows
  refine worked_ite (fun _ => Worked.refl st s) fun _ => ?_
  have hmark : Worked st s (s.modStand st fun x => { x with signalled := x.signalled ++ [rowKey g k] }) := worked_modStand s rfl
  exact worked_ite (fun _ => hmark) fun _ => hmark.trans (Worked.of_same (State.signal_touch (List.Subset.refl _) _ _ _ _ _ (Touch.refl _ _)) (by decide))
/-- The open rows of a geometry are closed, in order, and its guard point is past. -/
def Stand.guard (x : Stand) (key : Nat) : Stand :=
  let y := (x.openRows key).foldl (fun y r => y.closeRow key r.slot) x
  { y with guarded := y.guarded ++ [key] }
theorem State.guardRows_eq (s : State) (st g k : Nat) (d : Bytes) : s.guardRows st g k d =
    if (s.stand st).guarded.contains (rowKey g k) = true then s
    else
      let u := s.modStand st fun x => x.guard (rowKey g k)
      if (u.stand st).unwritten (rowKey g k) (rwRows d) = [] then u.signalRows st g k d else u := rfl
theorem worked_guardRows (s : State) (g k : Nat) (d : Bytes) : Worked st s (s.guardRows st g k d) := by
  rw [State.guardRows_eq]
  refine worked_ite (fun _ => Worked.refl st s) fun _ => ?_
  have hguard : Worked st s (s.modStand st fun x => x.guard (rowKey g k)) := worked_modStand s (Stand.closeRows_written _ _ _)
  exact worked_ite (fun _ => hguard.trans (worked_signalRows _ _ _ _)) fun _ => hguard
theorem worked_setBounds (s : State) (k g : Nat) (d : Bytes) : Worked st s (s.setBounds st k g d) :=
  ⟨fun _ _ => rfl, rfl, fun _ hb => List.mem_append_left _ (List.mem_append_left _ hb), rfl⟩
/-- The bound of a geometry's rows is set. -/
theorem State.setBounds_mem (s : State) (st k g : Nat) {d : Bytes} (h : rwRowsClass d ≠ 0xFF) :
    (k, st, rwRowsClass d, sget 0 (s.stand st).written (rowKey g k)) ∈ (s.setBounds st k g d).ingest.bounds := by
  unfold State.setBounds
  dsimp only
  rw [if_neg h]
  exact List.mem_append_left _ (List.mem_append_right _ (List.mem_singleton.2 rfl))

/-! ### What follows a change of a stand -/

theorem worked_fillPool (s : State) : Worked st s (s.fillPool st) := by
  unfold State.fillPool
  exact Worked.foldl _ (fun u e => worked_ite (fun _ => worked_modStand u rfl) fun _ => Worked.refl st u) s
theorem worked_arrive (s : State) (h payload boxes : Bytes) : Worked st s (s.arrive st h payload boxes) := by
  have hbump : Worked st s (s.bumpStream (smStream h) 0) := Worked.of_same (State.bumpStream_touch (List.Subset.refl _) s _ _ (Touch.refl _ s)) (by decide)
  unfold State.arrive
  dsimp only
  exact worked_ite (fun _ => hbump.trans (worked_dropReceipt _ _ _ _ _)) fun _ => worked_ite (fun _ => hbump.trans (worked_dropReceipt _ _ _ _ _)) fun _ =>
    worked_ite (fun _ => hbump.trans (worked_dropReceipt _ _ _ _ _)) fun _ => hbump.trans (worked_modStand _ rfl)
theorem worked_takeSamples (fuel : Nat) (s : State) : Worked st s (s.takeSamples st fuel) := by
  induction fuel generalizing s with
  | zero => exact Worked.refl st s
  | succ fuel ih =>
    unfold State.takeSamples
    split
    · exact Worked.refl st s
    · next f _ =>
      dsimp only
      refine worked_ite (fun _ => Worked.refl st s) fun _ => worked_ite (fun _ => ?_) fun _ => worked_ite (fun _ => Worked.refl st s) fun _ => ?_
      · exact ((Worked.of_same (State.bumpStream_touch (List.Subset.refl _) s _ _ (Touch.refl _ s)) (by decide)).trans (worked_dropReceipt _ _ _ _ _)).trans
          (Worked.of_same (State.closeWith_touch (List.Subset.refl _) _ _ _ (Touch.refl _ _)) (by decide))
      · refine Worked.trans ?_ (ih _)
        exact (Worked.of_same (State.modFlow_touch (List.Subset.refl _) s f.id _ (Touch.refl _ s)) (by decide)).trans (worked_arrive _ _ _ _)
theorem worked_settleStand (s : State) : Worked st s (s.settleStand st) := by
  unfold State.settleStand
  refine worked_ite (fun _ => Worked.refl st s) fun _ => ?_
  have htaken := (worked_fillPool (st := st) s).trans (worked_takeSamples (match (s.fillPool st).ingestFlow st with | some f => f.data.length / 64 + 1 | none => 0) (s.fillPool st))
  dsimp only
  generalize (s.fillPool st).takeSamples st _ = u at *
  have hnoted : Worked st u (if u.ringFull st = true then u.ingestOnce st 0x22 0x4003 [] else u) :=
    worked_ite (fun _ => Worked.of_same (State.ingestOnce_touch (List.Subset.refl _) u _ _ _ _ (Touch.refl _ u)) (by decide)) fun _ => Worked.refl st u
  exact (htaken.trans hnoted).trans (Worked.of_same (State.reopenWindow_touch (List.Subset.refl _) _ _ (Touch.refl _ _)) (by decide))
theorem worked_dropStopped (s : State) : Worked st s (s.dropStopped st) := Worked.foldl _ (fun u e => worked_dropSample u 13 e) s

/-! ### The deadline on a stand (R319, R324) -/

theorem State.standGeoms_duty (h : t.duty = s.duty) (n : Nat) : t.standGeoms n = s.standGeoms n := by
  have hplan : t.duty.plan = s.duty.plan := congrArg Job.plan h
  change t.job.plan = s.job.plan at hplan
  unfold State.standGeoms
  rw [hplan]
/-- The bounds of geometries, with their signals. -/
def State.boundGeoms (s : State) (st k : Nat) (l : List (Nat × Bytes)) : State := l.foldl (fun s e => (s.setBounds st k e.1 e.2).signalRows st e.1 k e.2) s
theorem worked_boundGeoms (s : State) (k : Nat) (l : List (Nat × Bytes)) : Worked st s (s.boundGeoms st k l) :=
  Worked.foldl l (fun u e => (worked_setBounds u k e.1 e.2).trans (worked_signalRows _ _ _ _)) s
theorem State.boundGeoms_mem (s : State) (st k : Nat) {l : List (Nat × Bytes)} {g : Nat} {d : Bytes} (h : (g, d) ∈ l) (hclass : rwRowsClass d ≠ 0xFF) :
    (k, st, rwRowsClass d, sget 0 (s.stand st).written (rowKey g k)) ∈ (s.boundGeoms st k l).ingest.bounds := by
  induction l generalizing s with
  | nil => cases h
  | cons e l ih =>
    have hrest : s.boundGeoms st k (e :: l) = ((s.setBounds st k e.1 e.2).signalRows st e.1 k e.2).boundGeoms st k l := rfl
    have hset := (worked_setBounds (st := st) s k e.1 e.2).trans (worked_signalRows (s.setBounds st k e.1 e.2) e.1 k e.2)
    rw [hrest]
    rcases List.mem_cons.1 h with rfl | hmem
    · exact (worked_boundGeoms _ k l).bounds _ ((worked_signalRows _ _ _ _).bounds _ (s.setBounds_mem st k g hclass))
    · rw [← hset.written]
      exact ih _ hmem
/-- The stand up to its deadline: late decodes are dropped, and every geometry is past its guard point. -/
def State.deadlineGuarded (s : State) (st k : Nat) : State :=
  let u := ((s.stand st).samples.filter fun e => decide (e.step = k ∧ e.state = .decoding) && s.overBudget e).foldl (fun s e => s.dropSample st 11 e) s
  (u.standGeoms st).foldl (fun s e => s.guardRows st e.1 k e.2) u
/-- A row write of a step was cut. -/
def State.cutStep (s : State) (st k : Nat) (cut : Bool) : State :=
  if cut then { s with ingest := { s.ingest with cut := (s.ingest.cut ++ [k]).dedup } }.event (bkSrc st) 0x4004 [] else s
/-- What the deadline leaves of the samples. -/
def State.deadlineCarried (s : State) (st k : Nat) : State :=
  let s := s.modStand st fun x =>
    { x with rows := x.rows.filter fun r => decide (r.geom % 2 ≠ k % 2),
             samples := x.samples.map fun e => if e.step = k ∧ e.state = .placed then { e with state := .complete } else e }
  let late := ((s.stand st).samples.filter fun e => decide (e.step = k)).mergeSort fun a b =>
    decide (b.carries < a.carries ∨ (a.carries = b.carries ∧ a.doneNo ≤ b.doneNo))
  let s := late.foldl (fun s e => s.carrySample st k e) s
  (s.dropStopped st).settleStand st
theorem State.standDeadline_eq (s : State) (k st : Nat) : ∃ (cut : Bool) (l : List (Nat × Bytes)), l = s.standGeoms st ∧
    s.standDeadline k st = (((s.deadlineGuarded st k).cutStep st k cut).boundGeoms st k l).deadlineCarried st k := by
  have hgeoms : (((s.stand st).samples.filter fun e => decide (e.step = k ∧ e.state = .decoding) && s.overBudget e).foldl
      (fun s e => s.dropSample st 11 e) s).standGeoms st = s.standGeoms st := State.standGeoms_duty (foldl_duty _ _ _ fun _ _ => State.dropSample_duty _ _ _ _) st
  exact ⟨_, _, hgeoms, rfl⟩
theorem worked_deadlineGuarded (s : State) (k : Nat) : Worked st s (s.deadlineGuarded st k) := by
  unfold State.deadlineGuarded
  exact (Worked.foldl _ (fun u e => worked_dropSample u 11 e) s).trans (Worked.foldl _ (fun u (e : Nat × Bytes) => worked_guardRows u e.1 k e.2) _)
theorem worked_cutStep (s : State) (k : Nat) (cut : Bool) : Worked st s (s.cutStep st k cut) := by
  have hcut : Worked st s { s with ingest := { s.ingest with cut := (s.ingest.cut ++ [k]).dedup } } := ⟨fun _ _ => rfl, rfl, fun _ h => h, rfl⟩
  exact worked_ite (fun _ => hcut.trans (Worked.of_same (State.event_touch (List.Subset.refl _) _ _ _ _ (Touch.refl _ _)) (by decide))) fun _ => Worked.refl st s
theorem worked_deadlineCarried (s : State) (k : Nat) : Worked st s (s.deadlineCarried st k) := by
  unfold State.deadlineCarried
  exact (((worked_modStand s rfl).trans (Worked.foldl _ (fun u e => worked_carrySample u k e) _)).trans (worked_dropStopped _)).trans (worked_settleStand _)
theorem worked_standDeadline (s : State) (k : Nat) : Worked st s (s.standDeadline k st) := by
  obtain ⟨cut, l, -, heq⟩ := s.standDeadline_eq k st
  rw [heq]
  exact (((worked_deadlineGuarded s k).trans (worked_cutStep _ _ _)).trans (worked_boundGeoms _ _ _)).trans (worked_deadlineCarried _ _)
/-- The rows written on a stand by its deadline become bounds. -/
theorem State.standDeadline_bounds (s : State) (k : Nat) {g : Nat} {d : Bytes} (h : (g, d) ∈ s.standGeoms st) (hclass : rwRowsClass d ≠ 0xFF) :
    (k, st, rwRowsClass d, sget 0 (s.stand st).written (rowKey g k)) ∈ (s.standDeadline k st).ingest.bounds := by
  obtain ⟨cut, l, hl, heq⟩ := s.standDeadline_eq k st
  have hbefore := (worked_deadlineGuarded (st := st) s k).trans (worked_cutStep (s.deadlineGuarded st k) k cut)
  rw [heq, ← hbefore.written]
  exact (worked_deadlineCarried _ _).bounds _ (State.boundGeoms_mem _ _ _ (hl ▸ h) hclass)
/-- The deadline on several stands. -/
theorem State.standDeadlines_spec (l : List Nat) (s : State) (k : Nat) (hnodup : l.Nodup) : let t := l.foldl (fun s st => s.standDeadline k st) s
    t.ingest.admitting = s.ingest.admitting ∧ (∀ b ∈ s.ingest.bounds, b ∈ t.ingest.bounds) ∧
    ∀ st ∈ l, ∀ g d, (g, d) ∈ s.standGeoms st → rwRowsClass d ≠ 0xFF →
      (k, st, rwRowsClass d, sget 0 (s.stand st).written (rowKey g k)) ∈ t.ingest.bounds := by
  induction l generalizing s with
  | nil => exact ⟨rfl, fun _ h => h, fun _ h => absurd h (by simp)⟩
  | cons n l ih =>
    obtain ⟨hn, hrest⟩ := List.nodup_cons.1 hnodup
    have hworked := worked_standDeadline (st := n) s k
    obtain ⟨hadmitting, hbounds, hset⟩ := ih (s.standDeadline k n) hrest
    rw [List.foldl_cons]
    refine ⟨hadmitting.trans hworked.admitting, fun b hb => hbounds b (hworked.bounds b hb), fun st hst g d hgd hclass => ?_⟩
    rcases List.mem_cons.1 hst with rfl | hst
    · exact hbounds _ (s.standDeadline_bounds k hgd hclass)
    · have hne : st ≠ n := fun h => hn (h ▸ hst)
      rw [← hworked.others st hne]
      exact hset st hst g d (by rw [State.standGeoms_duty (s.standDeadline_duty k n)]; exact hgd) hclass

end
end Sys2Proof.Machine
end

section
/-! PROOFS. Rows close at the guard point, are written in order, and admission ends at the deadline (R158, R319, R323 to R326, R330). -/

namespace Sys2Proof.Machine

section
variable {s u t : State} {st g k : Nat} {d : Bytes}

/-! ### The guard point (R319) -/

/-- After open rows of a geometry have been closed, a row of it that is still open is an old one, of another slot. -/
theorem Stand.closeRows_open (l : List PackRow) (key : Nat) (x : Stand) {r : PackRow} (hr : r ∈ (l.foldl (fun y r => y.closeRow key r.slot) x).rows)
    (hkey : r.geom = key) (hopen : r.index = none) : r ∈ x.rows ∧ ∀ q ∈ l, q.slot ≠ r.slot := by
  induction l generalizing x with
  | nil => exact ⟨hr, fun _ h => absurd h (by simp)⟩
  | cons q l ih =>
    obtain ⟨hmem, hslots⟩ := ih (x.closeRow key q.slot) hr
    obtain ⟨p, hp, hpr⟩ := List.mem_map.1 hmem
    by_cases hclosed : p.geom = key ∧ p.slot = q.slot ∧ p.index = none
    · rw [if_pos hclosed] at hpr
      rw [← hpr] at hopen
      cases hopen
    · rw [if_neg hclosed] at hpr
      subst hpr
      refine ⟨hp, fun z hz => ?_⟩
      rcases List.mem_cons.1 hz with rfl | hz
      · exact fun h => hclosed ⟨hkey, h.symm, hopen⟩
      · exact hslots z hz
theorem Stand.guard_closed (x : Stand) (key : Nat) : ∀ r ∈ (x.guard key).rows, r.geom = key → r.index ≠ none := by
  intro r hr hkey hopen
  obtain ⟨hmem, hslots⟩ := Stand.closeRows_open (x.openRows key) key x hr hkey hopen
  refine hslots r ?_ rfl
  exact List.mem_mergeSort.2 (List.mem_filter.2 ⟨hmem, decide_eq_true ⟨hkey, hopen⟩⟩)
theorem Stand.guard_guarded (x : Stand) (key : Nat) : key ∈ (x.guard key).guarded := List.mem_append_right _ (List.mem_singleton.2 rfl)
theorem Stand.closeRows_kept (l : List PackRow) (key : Nat) (x : Stand) : (l.foldl (fun y r => y.closeRow key r.slot) x).samples = x.samples ∧
    (l.foldl (fun y r => y.closeRow key r.slot) x).signalled = x.signalled := by
  induction l generalizing x with
  | nil => exact ⟨rfl, rfl⟩
  | cons r l ih => exact ih (x.closeRow key r.slot)
theorem Stand.guard_kept (x : Stand) (key : Nat) : (x.guard key).samples = x.samples ∧ (x.guard key).signalled = x.signalled := Stand.closeRows_kept _ key x
theorem Stand.guard_empty {x : Stand} {key : Nat} (h : ∀ r ∈ x.rows, r.geom ≠ key) (most : Nat) : (x.guard key).unwritten key most = [] := by
  have hopen : x.openRows key = [] := by
    unfold Stand.openRows
    rw [List.filter_eq_nil_iff.2 (fun r hr => by simp [h r hr])]
    exact List.mergeSort_nil
  have hrows : (x.guard key).rows = x.rows := by
    unfold Stand.guard
    rw [hopen]
    rfl
  unfold Stand.unwritten
  rw [hrows, List.filter_eq_nil_iff]
  intro r hr
  simp [h r hr]

/-! ### The signal of written rows (R326) -/

theorem told_signal (s : State) (src id inc step : Nat) : Told s (s.signal src id inc step) := by
  unfold State.signal
  dsimp only
  split
  · split
    · exact Told.of_same (State.sendOn_touch (List.Subset.refl _) s _ _ _ _ _ _ (Touch.refl _ s)) (by decide) (by decide)
    · exact told_event _ _ _ _
  · exact Told.of_same (sb_sync s _) (by decide) (by decide)
theorem State.signalRows_once (h : rowKey g k ∈ (s.stand st).signalled) : s.signalRows st g k d = s := if_pos (List.contains_iff_mem.2 h)
theorem State.signalRows_first (h : rowKey g k ∉ (s.stand st).signalled) : s.signalRows st g k d =
    let u := s.modStand st fun x => { x with signalled := x.signalled ++ [rowKey g k] }
    if rwDone d = 0xFFFF then u else u.signal (packerSrc st) (bitsOf (rwDone d) 13 0) 1 k := if_neg (by simpa using h)
theorem State.signalRows_stand (s : State) (st g k : Nat) (d : Bytes) : ∃ l, (s.signalRows st g k d).stand st = { s.stand st with signalled := l } := by
  by_cases h : rowKey g k ∈ (s.stand st).signalled
  · rw [State.signalRows_once h]
    exact ⟨_, rfl⟩
  · have hstand := s.stand_modStand st fun x => { x with signalled := x.signalled ++ [rowKey g k] }
    rw [State.signalRows_first h]
    dsimp only
    split
    · exact ⟨_, hstand⟩
    · refine ⟨_, (stand_of ?_ st).trans hstand⟩
      exact (State.signal_touch (List.Subset.refl _) _ _ _ _ _ (Touch.refl _ _)) .ingest (by decide)
theorem told_signalRows (s : State) (st g k : Nat) (d : Bytes) : Told s (s.signalRows st g k d) := by
  by_cases h : rowKey g k ∈ (s.stand st).signalled
  · rw [State.signalRows_once h]
    exact Told.refl s
  · rw [State.signalRows_first h]
    dsimp only
    split
    · exact told_modStand _ _ _
    · exact (told_modStand _ _ _).trans (told_signal _ _ _ _ _)
theorem State.signalRows_transit (h : rowKey g k ∉ (s.stand st).signalled) (hdone : rwDone d ≠ 0xFFFF) (hid : bitsOf (rwDone d) 13 0 < 0x3E00) :
    (s.signalRows st g k d).sync.transit = s.sync.transit ++ [⟨packerSrc st, bitsOf (rwDone d) 13 0, 1, k, s.replica (packerSrc st / 512)⟩] := by
  rw [State.signalRows_first h]
  dsimp only
  rw [if_neg hdone, State.signal_object _ _ _ _ hid]
  rfl
theorem exec_guardPoint (hdesc : s.ingestDesc g = some d) (htype : bjType d = 3) (hstand : bjStand d = st) (hadmitting : s.ingest.admitting = [k])
    (hguard : rowKey g k ∉ (s.stand st).guarded) : exec (.guardPoint st g) s = .next
      (if s.guardAt k d ≤ s.planNow then s.guardRows st g k d else s) := by
  have hfind : s.ingest.admitting.find? (fun k => !(s.stand st).guarded.contains (rowKey g k)) = some k := by
    rw [hadmitting]
    exact List.find?_cons_of_pos (by simpa using hguard)
  have hhere : (bjType d = 3 ∧ bjStand d = st ∧ s.guardAt k d ≤ s.planNow) ↔ s.guardAt k d ≤ s.planNow := by simp [htype, hstand]
  rw [← if_congr hhere rfl rfl]
  show execGuardPoint st g s = _
  unfold execGuardPoint
  rw [hdesc]
  dsimp only
  rw [hfind]
theorem guardPassed (s : State) (st g k : Nat) (d : Bytes) (hdesc : s.ingestDesc g = some d) (htype : bjType d = 3) (hstand : bjStand d = st)
    (hadmitting : s.ingest.admitting = [k]) (hguard : rowKey g k ∉ (s.stand st).guarded) : ∃ t, exec (.guardPoint st g) s = .next t ∧
      if s.guardAt k d ≤ s.planNow then
        rowKey g k ∈ (t.stand st).guarded ∧ (∀ r ∈ (t.stand st).rows, r.geom = rowKey g k → r.index ≠ none) ∧ t.mem = s.mem
        ∧ (t.stand st).samples = (s.stand st).samples ∧
        ((∀ r ∈ (s.stand st).rows, r.geom ≠ rowKey g k) → rowKey g k ∉ (s.stand st).signalled → rwDone d ≠ 0xFFFF → bitsOf (rwDone d) 13 0 < 0x3E00 →
          t.sync.transit = s.sync.transit ++ [⟨packerSrc st, bitsOf (rwDone d) 13 0, 1, k, s.replica (packerSrc st / 512)⟩])
      else t = s := by
  refine ⟨_, exec_guardPoint hdesc htype hstand hadmitting hguard, ?_⟩
  by_cases hpassed : s.guardAt k d ≤ s.planNow
  · rw [if_pos hpassed, if_pos hpassed, State.guardRows_eq, if_neg (by simpa using hguard)]
    have hsame := sb_modStand s st fun x => x.guard (rowKey g k)
    have hnow := s.stand_modStand st fun x => x.guard (rowKey g k)
    have hreplica : (s.modStand st fun x => x.guard (rowKey g k)).replica (packerSrc st / 512) = s.replica (packerSrc st / 512) := rfl
    obtain ⟨hsamples, hsignalled⟩ := (s.stand st).guard_kept (rowKey g k)
    have hclosed := (s.stand st).guard_closed (rowKey g k)
    have hguarded := (s.stand st).guard_guarded (rowKey g k)
    generalize (s.modStand st fun x => x.guard (rowKey g k)) = u at *
    have hmem : u.mem = s.mem := hsame .mem (by decide)
    dsimp only
    by_cases hleft : (u.stand st).unwritten (rowKey g k) (rwRows d) = []
    · rw [if_pos hleft]
      obtain ⟨l, hl⟩ := u.signalRows_stand st g k d
      rw [hl, hnow]
      refine ⟨hguarded, hclosed, ((State.signalRows_touch (List.Subset.refl _) u _ _ _ _ (Touch.refl _ u)) .mem (by decide)).trans hmem, hsamples,
        fun _ hfirst hdone hid => ?_⟩
      rw [State.signalRows_transit (by rw [hnow, hsignalled]; exact hfirst) hdone hid, hreplica]
      exact congrArg (fun y : Sync => y.transit ++ _) (hsame .sync (by decide))
    · rw [if_neg hleft, hnow]
      refine ⟨hguarded, hclosed, hmem, hsamples, fun hnone => absurd ?_ hleft⟩
      rw [hnow]
      exact Stand.guard_empty hnone _
  · rw [if_neg hpassed, if_neg hpassed]

/-! ### A row is written (R323 to R326) -/

/-- A counter keeps its value, and flows their places. -/
def Keeps (n : Nat) (s t : State) : Prop :=
  t.flowPlaces = s.flowPlaces ∧
  t.count n = s.count n
theorem Keeps.places {n : Nat} {s t : State} : Keeps n s t → t.flowPlaces = s.flowPlaces
  | ⟨h, _⟩ => h
theorem Keeps.count {n : Nat} {s t : State} : Keeps n s t → t.count n = s.count n
  | ⟨_, h⟩ => h
theorem Keeps.refl (n : Nat) (s : State) : Keeps n s s := ⟨rfl, rfl⟩
theorem Keeps.trans {n : Nat} (h : Keeps n s u) (k : Keeps n u t) : Keeps n s t := ⟨k.places.trans h.places, k.count.trans h.count⟩
theorem Told.keepsRows (h : Told s t) (hst : st < 8) : Keeps (kBkRows st) s t :=
  ⟨h.places, h.counts _ (kBkRows_own hst).2.1 (kBkRows_own hst).2.2.1 (kBkRows_own hst).2.2.2⟩
theorem keeps_bump (s : State) {n j : Nat} (i : Nat) (h : n ≠ j) : Keeps n s (s.bump j i) := ⟨rfl, s.bump_count_other _ _ _ h⟩
theorem keeps_bumpStream (s : State) (n i : Nat) {j : Nat} (h : j < 2 ^ 50) : Keeps j s (s.bumpStream n i) := by
  refine ⟨?_, State.bumpStream_count s n i h⟩
  unfold State.bumpStream
  split <;> rfl
/-- The counter of rows of a stand is none of the counters that writes to HBM and admissions use. -/
theorem kBkRows_ne (st m : Nat) (h : st < 8) : kBkRows st ≠ kStackReads m ∧ kBkRows st ≠ kStackTouch m ∧ kBkRows st ≠ kWriteWaits ∧ kBkRows st ≠ kFirstTouches ∧
    kBkRows st ≠ kBkDone st ∧ kBkRows st ≠ kZeroFilled := by
  unfold kBkRows kStackReads kStackTouch kWriteWaits kFirstTouches kBkDone kZeroFilled regBase ctrlBase objKey
  omega
theorem keeps_cow (s : State) (n : Nat) (x : Cow) : Keeps n s { s with cow := x } := ⟨rfl, rfl⟩
theorem keeps_pageWrite (hst : st < 8) (s : State) (a : Nat) (bs : Bytes) : Keeps (kBkRows st) s (s.pageWrite a bs) := by
  have hne := fun m => kBkRows_ne st m hst
  have hhold (v : State) : Keeps (kBkRows st) v (v.holdWrite a bs) := keeps_cow _ _ _
  have hset (v : State) (p : Nat) (x : PageState) : Keeps (kBkRows st) v (v.setPage p x) := keeps_cow _ _ _
  unfold State.pageWrite
  dsimp only
  split
  · exact ⟨rfl, rfl⟩
  · exact ⟨rfl, rfl⟩
  · exact (hhold s).trans (keeps_bump _ 1 (hne 0).2.2.1)
  · exact hhold s
  · split
    · next q _ =>
      exact (((hhold s).trans (hset _ _ _)).trans (keeps_bump _ 1 (hne 0).2.2.2.1)).trans (keeps_bump _ 1 (hne _).2.1)
    · unfold State.waitPool
      dsimp only
      have hwait := ((hhold s).trans (keeps_bump _ 1 (hne 0).2.2.1)).trans (hset _ (a / pageBytes) .waiting)
      split
      · exact hwait
      · exact (hwait.trans (keeps_cow _ _ _)).trans ((told_event _ _ _ _).keepsRows hst)
theorem keeps_hbmWrite (hst : st < 8) (fuel : Nat) (s : State) (a : Nat) (bs : Bytes) : Keeps (kBkRows st) s (s.hbmWrite fuel a bs) := by
  induction fuel generalizing s a bs with
  | zero => exact Keeps.refl _ s
  | succ fuel ih =>
    unfold State.hbmWrite
    split
    · exact Keeps.refl _ s
    · exact (keeps_pageWrite hst _ _ _).trans (ih _ _ _)
theorem keeps_toHbm (hst : st < 8) (s : State) (a : Nat) (bs : Bytes) : Keeps (kBkRows st) s (s.toHbm a bs) := by
  unfold State.toHbm
  dsimp only
  refine Keeps.trans ?_ (keeps_hbmWrite hst _ _ _ _)
  split
  · exact Keeps.refl _ s
  · exact keeps_bump _ _ (kBkRows_ne st _ hst).1
/-- With no page in a capture a write to HBM writes its bytes, and no page enters a capture. -/
theorem State.toHbm_mem (hpages : s.cow.pages = []) (a : Nat) (bs : Bytes) : (s.toHbm a bs).mem = writeBytes s.mem a bs := by
  have hfuel : a % pageBytes + bs.length ≤ (bs.length / pageBytes + 2) * pageBytes := by
    have hmod : a % pageBytes < pageBytes := Nat.mod_lt _ (by decide)
    have hlen : bs.length % pageBytes < pageBytes := Nat.mod_lt _ (by decide)
    have hdiv := Nat.div_add_mod bs.length pageBytes
    rw [Nat.add_mul, Nat.mul_comm (bs.length / pageBytes)]
    omega
  unfold State.toHbm
  dsimp only
  split
  · exact State.hbmWrite_mem _ s a bs hpages (Or.inr hfuel)
  · exact State.hbmWrite_mem _ (s.bump (kStackReads (stackOf a)) (partBursts a bs.length)) a bs hpages (Or.inr hfuel)
theorem State.hbmWrite_pages (fuel : Nat) (s : State) (a : Nat) (bs : Bytes) (hpages : s.cow.pages = []) : (s.hbmWrite fuel a bs).cow.pages = [] := by
  induction fuel generalizing s a bs with
  | zero => exact hpages
  | succ fuel ih =>
    unfold State.hbmWrite
    split
    · exact hpages
    · refine ih _ _ _ ?_
      unfold State.pageWrite State.pageState
      rw [hpages]
      exact hpages
theorem State.toHbm_pages (hpages : s.cow.pages = []) (a : Nat) (bs : Bytes) : (s.toHbm a bs).cow.pages = [] := by
  unfold State.toHbm
  dsimp only
  refine State.hbmWrite_pages _ _ _ _ ?_
  split <;> exact hpages

/-- The bytes of a row are in HBM, and the row is counted. -/
def State.rowOut (s : State) (st k i : Nat) (d : Bytes) (r : PackRow) : State :=
  ((s.toHbm (s.rowSet st k d + i * rwRowBytes d) (packedRowBytes (s.stand st) d r).1).toHbm
    (s.rowSet st k d + i * rwRowBytes d + up64 (rwLength d * rwPos d)) (packedRowBytes (s.stand st) d r).2).bump (kBkRows st) 1
/-- The samples of a written row are admitted. -/
def State.admitParts (s : State) (st k key : Nat) (d : Bytes) (i : Nat) (parts : List (Nat × Nat × Nat)) : State :=
  parts.foldl (fun s p => match (s.stand st).sample p.1 with | some e => s.admitSample st k key d i p.2.1 e | none => s) s
/-- The stand with a row written. -/
def Stand.wrote (x : Stand) (key i : Nat) (r : PackRow) : Stand :=
  { x with written := sset 0 x.written key (i + 1), rows := x.rows.filter fun q => decide (q ≠ r) }
theorem State.writePacked_eq (s : State) (st g k i : Nat) (d : Bytes) (r : PackRow) : s.writePacked st g k i d r =
    let u := ((s.rowOut st k i d r).admitParts st k (rowKey g k) d i r.parts).modStand st fun x => x.wrote (rowKey g k) i r
    if (u.stand st).guarded.contains (rowKey g k) = true ∧ (u.stand st).unwritten (rowKey g k) (rwRows d) = [] then u.signalRows st g k d else u := rfl
theorem State.rowOut_spec (hst : st < 8) (s : State) (i : Nat) (r : PackRow) : let t := s.rowOut st k i d r
    SameBut [.log, .cow, .host, .mem, .ctr, .out] s t ∧ t.flowPlaces = s.flowPlaces ∧ t.count (kBkRows st) = s.count (kBkRows st) + 1 ∧
    (s.cow.pages = [] → t.mem = writeBytes (writeBytes s.mem (s.rowSet st k d + i * rwRowBytes d) (packedRowBytes (s.stand st) d r).1)
      (s.rowSet st k d + i * rwRowBytes d + up64 (rwLength d * rwPos d)) (packedRowBytes (s.stand st) d r).2) := by
  intro t
  have hdata := keeps_toHbm hst s (s.rowSet st k d + i * rwRowBytes d) (packedRowBytes (s.stand st) d r).1
  have hmarks := keeps_toHbm hst (s.toHbm (s.rowSet st k d + i * rwRowBytes d) (packedRowBytes (s.stand st) d r).1)
    (s.rowSet st k d + i * rwRowBytes d + up64 (rwLength d * rwPos d)) (packedRowBytes (s.stand st) d r).2
  have hkeeps := hdata.trans hmarks
  have hsame1 := State.toHbm_touch (List.Subset.refl _) s (s.rowSet st k d + i * rwRowBytes d) (packedRowBytes (s.stand st) d r).1 (Touch.refl _ s)
  have hsame := State.toHbm_touch (List.Subset.refl _) _ (s.rowSet st k d + i * rwRowBytes d + up64 (rwLength d * rwPos d)) (packedRowBytes (s.stand st) d r).2 hsame1
  refine ⟨State.bump_touch (by decide) _ _ _ hsame, hkeeps.places, ?_, fun hpages => ?_⟩
  · exact (State.bump_count _ _ _).trans (congrArg (· + 1) hkeeps.count)
  · have hmem := State.toHbm_mem hpages (s.rowSet st k d + i * rwRowBytes d) (packedRowBytes (s.stand st) d r).1
    have hpages' := State.toHbm_pages hpages (s.rowSet st k d + i * rwRowBytes d) (packedRowBytes (s.stand st) d r).1
    rw [← hmem]
    exact State.toHbm_mem hpages' _ _

/-- A sample of a written row is admitted, where no boxes are listed. -/
def Stand.admits (x : Stand) (k : Nat) (e : Sample) : Stand :=
  { x with samples := x.samples.filter fun y => decide (y.arrival ≠ e.arrival)
           admitted := x.admitted ++ [⟨k, smId e.header, smStream e.header, e.carries⟩] }
/-- What admitting a sample leaves alone. -/
def AdmittedAs (s t : State) (st k : Nat) (e : Sample) : Prop :=
  t.stand st = (s.stand st).admits k e ∧
  Keeps (kBkRows st) s t ∧
  t.mem = s.mem
theorem AdmittedAs.stand {s t : State} {st k : Nat} {e : Sample} : AdmittedAs s t st k e → t.stand st = (s.stand st).admits k e
  | ⟨h, _, _⟩ => h
theorem State.admitSample_spec (hst : st < 8) (hbox : rwBoxClass d = 0xFF) (s : State) (key i first : Nat) (e : Sample) :
    AdmittedAs s (s.admitSample st k key d i first e) st k e := by
  have hboxes : s.writeBoxes st k key d i first e = (0, s) := if_pos hbox
  obtain ⟨-, -, -, -, hdone, hzero⟩ := kBkRows_ne st 0 hst
  have hadmit (rec : Receipt) (z : Nat) : AdmittedAs s
      (((((s.receipt st rec).bumpStream (smStream e.header) 1).bump (kBkDone st) 1).bump kZeroFilled z).modStand st fun x => x.admits k e) st k e := by
    have hreceipt := State.receipt_touch (List.Subset.refl _) s st rec (Touch.refl _ s)
    have hsent := State.bump_touch (by decide) _ kZeroFilled z (State.bump_touch (by decide) _ (kBkDone st) 1
      (State.bumpStream_touch (by decide) _ (smStream e.header) 1 hreceipt))
    have hkeeps := ((((told_receipt s st rec).keepsRows hst).trans (keeps_bumpStream _ (smStream e.header) 1 (kBkRows_own hst).1)).trans
      (keeps_bump _ 1 hdone)).trans (keeps_bump _ z hzero)
    generalize (((s.receipt st rec).bumpStream (smStream e.header) 1).bump (kBkDone st) 1).bump kZeroFilled z = v at *
    refine ⟨?_, hkeeps.trans ((told_modStand v st _).keepsRows hst), hsent .mem (by decide)⟩
    rw [State.stand_modStand, stand_of (hsent .ingest (by decide))]
  unfold State.admitSample
  rw [hboxes]
  split
  · dsimp only
    rw [ite_self]
    exact hadmit _ _
  · exact hadmit _ _
/-- Admitted samples leave the stand; nothing that was not waiting for pool space begins to. -/
theorem State.admitParts_spec (hst : st < 8) (hbox : rwBoxClass d = 0xFF) (parts : List (Nat × Nat × Nat)) (s : State) (key i : Nat) :
    let t := s.admitParts st k key d i parts
    Keeps (kBkRows st) s t ∧ t.mem = s.mem ∧ ∀ x ∈ (t.stand st).samples, x ∈ (s.stand st).samples := by
  induction parts generalizing s with
  | nil => exact ⟨Keeps.refl _ s, rfl, fun _ h => h⟩
  | cons p parts ih =>
    have hrest : s.admitParts st k key d i (p :: parts) =
      (match (s.stand st).sample p.1 with | some e => s.admitSample st k key d i p.2.1 e | none => s).admitParts st k key d i parts := rfl
    rw [hrest]
    cases (s.stand st).sample p.1 with
    | none => exact ih s
    | some e =>
      obtain ⟨hstand, hkeeps, hmem⟩ := State.admitSample_spec (k := k) hst hbox s key i p.2.1 e
      obtain ⟨hkeeps', hmem', hsamples⟩ := ih (s.admitSample st k key d i p.2.1 e)
      refine ⟨hkeeps.trans hkeeps', hmem'.trans hmem, fun x hx => ?_⟩
      have hin := hsamples x hx
      rw [hstand] at hin
      exact (List.mem_filter.1 hin).1
theorem exec_rowWriteComplete {r : PackRow} (hdesc : s.ingestDesc g = some d) (htype : bjType d = 3) (hstand : bjStand d = st) (hadmitting : s.ingest.admitting = [k])
    (hroom : sget 0 (s.stand st).written (rowKey g k) < rwRows d)
    (hrow : (s.stand st).rows.find? (fun r => decide (r.geom = rowKey g k ∧ r.index = some (sget 0 (s.stand st).written (rowKey g k)))) = some r) :
    exec (.rowWriteComplete st g []) s = .next ((s.writePacked st g k (sget 0 (s.stand st).written (rowKey g k)) d r).settleStand st) := by
  show execRowWriteComplete st g [] s = _
  unfold execRowWriteComplete
  rw [hdesc]
  simp only [hadmitting, List.findSome?_cons, if_pos hroom, hrow, Option.map_some, if_pos (And.intro htype hstand)]
  rfl
theorem rowWritten (s : State) (st g k : Nat) (d : Bytes) (r : PackRow) (hdesc : s.ingestDesc g = some d) (htype : bjType d = 3) (hstand : bjStand d = st)
    (hst : st < 8) (hadmitting : s.ingest.admitting = [k]) :
    let i := sget 0 (s.stand st).written (rowKey g k)
    i < rwRows d → (s.stand st).rows.find? (fun r => decide (r.geom = rowKey g k ∧ r.index = some i)) = some r → rwBoxClass d = 0xFF →
    s.ingestFlow st = none → (∀ x ∈ (s.stand st).samples, x.state ≠ .waitPool) →
    ∃ t, exec (.rowWriteComplete st g []) s = .next t ∧ sget 0 (t.stand st).written (rowKey g k) = i + 1
      ∧ t.count (kBkRows st) = s.count (kBkRows st) + 1 ∧ r ∉ (t.stand st).rows ∧
      (s.cow.pages = [] → s.rowSet st k d + i * rwRowBytes d + rwRowBytes d ≤ hbmEnd →
        let a := s.rowSet st k d + i * rwRowBytes d
        t.mem = writeBytes (writeBytes s.mem a (packedRowBytes (s.stand st) d r).1) (a + up64 (rwLength d * rwPos d)) (packedRowBytes (s.stand st) d r).2) ∧
      (∀ a e, r.parts = [(a, 0, 1)] → (s.stand st).sample a = some e →
        (t.stand st).admitted = (s.stand st).admitted ++ [⟨k, smId e.header, smStream e.header, e.carries⟩] ∧ (t.stand st).sample a = none) := by
  intro i hroom hrow hbox hflow hwait
  refine ⟨_, exec_rowWriteComplete hdesc htype hstand hadmitting hroom hrow, ?_⟩
  rw [State.writePacked_eq]
  obtain ⟨hout, hplaces, hcount, hmem⟩ := State.rowOut_spec (k := k) (d := d) hst s i r
  generalize s.rowOut st k (sget 0 (s.stand st).written (rowKey g k)) d r = v at *
  have hv : v.stand st = s.stand st := stand_of (hout .ingest (by decide)) st
  obtain ⟨hkeeps, hmem', hsamples⟩ := State.admitParts_spec (k := k) hst hbox r.parts v (rowKey g k) i
  have hone (a : Nat) (e : Sample) (hparts : r.parts = [(a, 0, 1)]) (he : (s.stand st).sample a = some e) :
      (v.admitParts st k (rowKey g k) d i r.parts).stand st = (s.stand st).admits k e := by
    have hadmit : v.admitParts st k (rowKey g k) d i r.parts = v.admitSample st k (rowKey g k) d i 0 e := by
      rw [hparts]
      show (match (v.stand st).sample a with | some e => v.admitSample st k (rowKey g k) d i 0 e | none => v) = _
      rw [hv, he]
    rw [hadmit, (State.admitSample_spec (k := k) hst hbox v (rowKey g k) i 0 e).stand, hv]
  generalize v.admitParts st k (rowKey g k) d i r.parts = w at *
  have hwrote := w.stand_modStand st fun x => x.wrote (rowKey g k) i r
  have hmod := sb_modStand w st fun x => x.wrote (rowKey g k) i r
  have htold := told_modStand w st fun x => x.wrote (rowKey g k) i r
  dsimp only
  generalize (w.modStand st fun x => x.wrote (rowKey g k) i r) = y at *
  have hfinal : ∃ z l, z = (if (y.stand st).guarded.contains (rowKey g k) = true ∧ (y.stand st).unwritten (rowKey g k) (rwRows d) = [] then
      y.signalRows st g k d else y) ∧ z.stand st = { y.stand st with signalled := l } ∧ Told y z ∧ z.mem = y.mem := by
    by_cases hsignal : (y.stand st).guarded.contains (rowKey g k) = true ∧ (y.stand st).unwritten (rowKey g k) (rwRows d) = []
    · obtain ⟨l, hl⟩ := y.signalRows_stand st g k d
      exact ⟨_, l, (if_pos hsignal).symm, hl, told_signalRows y st g k d, (State.signalRows_touch (List.Subset.refl _) y _ _ _ _ (Touch.refl _ y)) .mem (by decide)⟩
    · exact ⟨_, _, (if_neg hsignal).symm, rfl, Told.refl y, rfl⟩
  obtain ⟨z, l, hz, hstandz, htoldz, hmemz⟩ := hfinal
  rw [← hz]
  have hall := (hkeeps.trans (htold.keepsRows hst)).trans (htoldz.keepsRows hst)
  have hidle : z.settleStand st = z := by
    refine State.settleStand_idle ?_ fun x hx => ?_
    · rw [State.ingestFlow_none_iff, hall.places, hplaces, ← State.ingestFlow_none_iff]
      exact hflow
    · rw [hstandz, hwrote] at hx
      have := hsamples x hx
      rw [hv] at this
      exact hwait x this
  rw [hidle, hstandz, hwrote]
  refine ⟨sget_sset_same 0 (w.stand st).written (rowKey g k) (i + 1), hall.count.trans hcount, fun h => ?_, fun hpages _ => ?_, fun a e hparts he => ?_⟩
  · have := (List.mem_filter.1 h).2
    simp at this
  · exact hmemz.trans ((hmod .mem (by decide)).trans (hmem'.trans (hmem hpages)))
  · rw [hone a e hparts he]
    refine ⟨rfl, ?_⟩
    have harrival := Stand.sample_arrival he
    refine List.find?_eq_none.2 fun x hx => ?_
    have := (List.mem_filter.1 hx).2
    rw [harrival] at this
    simpa using this

/-! ### The admission deadline (R319) -/

theorem lowest_mem {l : List Nat} {k : Nat} (h : lowest l = some k) : k ∈ l := by
  cases l with
  | nil => cases h
  | cons x xs =>
    have hk : xs.foldl min x = k := Option.some.inj h
    have hmem (xs : List Nat) (x : Nat) : xs.foldl min x ∈ x :: xs := by
      induction xs generalizing x with
      | nil => exact List.mem_singleton.2 rfl
      | cons y ys ih =>
        rw [List.foldl_cons]
        rcases List.mem_cons.1 (ih (min x y)) with h | h
        · rw [h]
          rcases min_choice x y with hx | hy
          · rw [hx]
            exact List.mem_cons_self ..
          · rw [hy]
            exact List.mem_cons_of_mem _ (List.mem_cons_self ..)
        · exact List.mem_cons_of_mem _ (List.mem_cons_of_mem _ h)
    exact hk ▸ hmem xs x
theorem deadlinePassed (s : State) : ∃ t, exec .admissionDeadline s = .next t ∧ t.mem = s.mem ∧
    (s.ingest.admitting = [] → t = s) ∧
    (∀ k, lowest s.ingest.admitting = some k → s.planNow < s.deadlineOf k → t = s) ∧
    (∀ k, lowest s.ingest.admitting = some k → s.deadlineOf k ≤ s.planNow → t.ingest.ingestStep = k
      ∧ t.ingest.admitting = s.ingest.admitting.filter (fun j => decide (j ≠ k)) ∧ t.job.state = s.job.state ∧
      (∀ st g d, st < 8 → (g, d) ∈ s.standGeoms st → rwRowsClass d ≠ 0xFF →
        (k, st, rwRowsClass d, sget 0 (s.stand st).written (rowKey g k)) ∈ t.ingest.bounds)) := by
  cases hlowest : lowest s.ingest.admitting with
  | none =>
    have hexec : exec .admissionDeadline s = .next s := by
      show execAdmissionDeadline s = _
      unfold execAdmissionDeadline
      rw [hlowest]
    exact ⟨s, hexec, rfl, fun _ => rfl, fun k h => absurd h (by simp), fun k h => absurd h (by simp)⟩
  | some k =>
    have hexec : exec .admissionDeadline s = .next (if s.deadlineOf k ≤ s.planNow then s.deadline k else s) := by
      show execAdmissionDeadline s = _
      unfold execAdmissionDeadline
      rw [hlowest]
    have hin := lowest_mem hlowest
    refine ⟨_, hexec, ?_⟩
    by_cases hpast : s.deadlineOf k ≤ s.planNow
    · rw [if_pos hpast]
      refine ⟨State.deadline_touch (List.Subset.refl _) s k (Touch.refl _ s) .mem (by decide), fun h => ?_, fun j hj hbefore => ?_, fun j hj _ => ?_⟩
      · rw [h] at hin
        cases hin
      · cases hj
        omega
      · cases hj
        obtain ⟨hadmitting, -, hbounds⟩ := State.standDeadlines_spec (List.range 8) s k List.nodup_range
        have hstate : (s.deadline k).duty.state = s.duty.state := congrArg Job.state (s.deadline_duty k)
        have hdeadline : s.deadline k = (fun u : State => { u with ingest := { u.ingest with ingestStep := k, admitting := u.ingest.admitting.filter fun j => decide (j ≠ k) } })
          ((List.range 8).foldl (fun s st => s.standDeadline k st) s) := if_pos (List.contains_iff_mem.2 hin)
        refine ⟨by rw [hdeadline], ?_, hstate, fun st g d hst hgd hclass => ?_⟩
        · rw [hdeadline, ← hadmitting]
        · rw [hdeadline]
          exact hbounds st (List.mem_range.2 hst) g d hgd hclass
    · rw [if_neg hpast]
      refine ⟨rfl, fun _ => rfl, fun _ _ _ => rfl, fun j hj hle => ?_⟩
      cases hj
      exact absurd hle hpast

end

/-- Settles O55: the guard point closes rows, a row written is whole and admits its samples, the deadline sets the bounds. -/
theorem rowsAreWrittenAndAdmitted : Obligations.RowsAreWrittenAndAdmitted := by
  unfold Obligations.RowsAreWrittenAndAdmitted
  exact ⟨guardPassed, rowWritten, deadlinePassed⟩

end Sys2Proof.Machine
end

section
/-! SUPPORT. The combining cache of a stack, and a gradient row added to its buffer (R134, R265 to R267). -/

namespace Sys2Proof.Machine

/-! ### Cells of sparse maps -/

section
variable {v : Type}
theorem lookup_sput_same (m : List (Nat × v)) (k : Nat) (x : v) : (sput m k x).lookup k = some x := by
  induction m with
  | nil => simp [sput]
  | cons e m ih =>
    unfold sput
    split
    · simp
    · split
      · simp
      · next hk =>
        rw [List.lookup_cons, beq_eq_false_iff_ne.2 (Ne.symm hk)]
        exact ih
theorem lookup_sput_other (m : List (Nat × v)) {k j : Nat} (x : v) (h : j ≠ k) : (sput m k x).lookup j = m.lookup j := by
  induction m with
  | nil => simpa [sput] using h
  | cons e m ih =>
    unfold sput
    split
    · rw [List.lookup_cons, beq_eq_false_iff_ne.2 h]
    · split
      · next hk => rw [List.lookup_cons, beq_eq_false_iff_ne.2 h, List.lookup_cons, hk, beq_eq_false_iff_ne.2 h]
      · rw [List.lookup_cons, List.lookup_cons, ih]
end

/-! ### What a cache holds -/

section
variable {s t : State} {m : Nat} {c : List CacheBlock}

/-- The element at an address, as the blocks of a cache hold it. -/
def cacheCell (c : List CacheBlock) (a : Nat) : Option Nat := c.findSome? fun x => if x.block = a / 2048 then x.cells.lookup (a % 2048 / 16) else none
/-- The numbers of the blocks of a cache. -/
def blocksOf (c : List CacheBlock) : List Nat := c.map fun x => x.block
theorem State.gaeElem_eq (s : State) (m a : Nat) : s.gaeElem m a = match cacheCell (s.cacheOf m) a with | some v => v | none => leNat (readBytes s.mem a 16) := rfl
theorem State.gaeElem_congr {a : Nat} (hcell : cacheCell (t.cacheOf m) a = cacheCell (s.cacheOf m) a) (hmem : t.mem = s.mem) : t.gaeElem m a = s.gaeElem m a := by
  rw [State.gaeElem_eq, State.gaeElem_eq, hcell, hmem]
theorem cacheCell_cons (x : CacheBlock) (c : List CacheBlock) (a : Nat) : cacheCell (x :: c) a =
    match (if x.block = a / 2048 then x.cells.lookup (a % 2048 / 16) else none) with | some v => some v | none => cacheCell c a := by
  unfold cacheCell
  rw [List.findSome?_cons]
  cases (if x.block = a / 2048 then x.cells.lookup (a % 2048 / 16) else none) <;> rfl
theorem mem_blocksOf {x : CacheBlock} (h : x ∈ c) : x.block ∈ blocksOf c := List.mem_map_of_mem h
theorem cacheCell_none {a : Nat} (h : a / 2048 ∉ blocksOf c) : cacheCell c a = none := by
  unfold cacheCell
  rw [List.findSome?_eq_none_iff]
  intro x hx
  exact if_neg fun hb => h (by rw [← hb]; exact mem_blocksOf hx)
/-- A block that is in the cache once holds what the cache holds of it. -/
theorem cacheCell_of_mem {x : CacheBlock} {a : Nat} (hnodup : (blocksOf c).Nodup) (hx : x ∈ c) (hblock : x.block = a / 2048) :
    cacheCell c a = x.cells.lookup (a % 2048 / 16) := by
  induction c with
  | nil => cases hx
  | cons y c ih =>
    obtain ⟨hy, hc⟩ := List.nodup_cons.1 hnodup
    change y.block ∉ blocksOf c at hy
    rw [cacheCell_cons]
    rcases List.mem_cons.1 hx with rfl | hx
    · rw [if_pos hblock, cacheCell_none (by rw [← hblock]; exact hy)]
      cases x.cells.lookup (a % 2048 / 16) <;> rfl
    · have hne : y.block ≠ a / 2048 := fun h => hy (by rw [h, ← hblock]; exact mem_blocksOf hx)
      rw [if_neg hne]
      exact ih hc hx
/-- Caches of the same blocks hold the same. -/
theorem cacheCell_congr {c' : List CacheBlock} (hnodup : (blocksOf c).Nodup) (hnodup' : (blocksOf c').Nodup) (h : ∀ x, x ∈ c' ↔ x ∈ c) (a : Nat) :
    cacheCell c' a = cacheCell c a := by
  by_cases hin : a / 2048 ∈ blocksOf c
  · obtain ⟨x, hx, hblock⟩ := List.mem_map.1 hin
    rw [cacheCell_of_mem hnodup hx hblock, cacheCell_of_mem hnodup' ((h x).2 hx) hblock]
  · rw [cacheCell_none hin, cacheCell_none fun h' => ?_]
    obtain ⟨x, hx, hblock⟩ := List.mem_map.1 h'
    exact hin (hblock ▸ List.mem_map_of_mem ((h x).1 hx))

theorem State.cacheOf_setCache (s : State) (m : Nat) (c : List CacheBlock) : (s.setCache m c).cacheOf m = c := sget_sset_same [] s.upd.cache m c

/-! ### A block is touched -/

/-- Only caches and counters have changed, and the cache of the stack holds what it did. -/
def Fetched1 (s t : State) (m : Nat) : Prop :=
  t.mem = s.mem ∧
  (∃ c, t.upd = { s.upd with cache := c }) ∧
  SameBut [.upd, .ctr] s t ∧
  (∀ a, t.gaeElem m a = s.gaeElem m a) ∧
  (blocksOf (t.cacheOf m)).Nodup ∧
  (∀ b ∈ blocksOf (s.cacheOf m), b ∈ blocksOf (t.cacheOf m)) ∧
  (∀ k, t.count (kGaeContributions k) = s.count (kGaeContributions k))
theorem Fetched1.mem {s t : State} {m : Nat} : Fetched1 s t m →
    t.mem = s.mem
  | ⟨h, _, _, _, _, _, _⟩ => h
theorem Fetched1.upd {s t : State} {m : Nat} : Fetched1 s t m →
    ∃ c, t.upd = { s.upd with cache := c }
  | ⟨_, h, _, _, _, _, _⟩ => h
theorem Fetched1.same {s t : State} {m : Nat} : Fetched1 s t m →
    SameBut [.upd, .ctr] s t
  | ⟨_, _, h, _, _, _, _⟩ => h
theorem Fetched1.elems {s t : State} {m : Nat} : Fetched1 s t m →
    ∀ a, t.gaeElem m a = s.gaeElem m a
  | ⟨_, _, _, h, _, _, _⟩ => h
theorem Fetched1.nodup {s t : State} {m : Nat} : Fetched1 s t m →
    (blocksOf (t.cacheOf m)).Nodup
  | ⟨_, _, _, _, h, _, _⟩ => h
theorem Fetched1.kept {s t : State} {m : Nat} : Fetched1 s t m →
    ∀ b ∈ blocksOf (s.cacheOf m), b ∈ blocksOf (t.cacheOf m)
  | ⟨_, _, _, _, _, h, _⟩ => h
theorem Fetched1.count {s t : State} {m : Nat} : Fetched1 s t m →
    ∀ k, t.count (kGaeContributions k) = s.count (kGaeContributions k)
  | ⟨_, _, _, _, _, _, h⟩ => h
theorem sb_upd (s : State) (x : Update) : SameBut [.upd] s { s with upd := x } := by
  intro p hp
  cases p with
  | upd => exact absurd (by decide) hp
  | _ => rfl
theorem State.touchBlock_hit {b : Nat} {x : CacheBlock} (h : (s.cacheOf m).find? (fun x => decide (x.block = b)) = some x) :
    s.touchBlock m b = s.setCache m (x :: (s.cacheOf m).filter fun y => decide (y.block ≠ b)) := by
  unfold State.touchBlock
  dsimp only
  rw [h]
theorem State.noteRead_count (s : State) (a n k : Nat) : (s.noteRead a n).count (kGaeContributions k) = s.count (kGaeContributions k) := by
  unfold State.noteRead
  split
  · rfl
  · refine s.bump_count_other _ _ _ ?_
    unfold kGaeContributions kStackReads regBase ctrlBase
    omega
/-- The block is read into the cache. -/
def State.fetchBlock (s : State) (m b : Nat) : State := (s.noteRead (2048 * b) 2048).bump (kGaeMisses m) 1
theorem State.fetchBlock_spec (s : State) (m b : Nat) : SameBut [.ctr] s (s.fetchBlock m b) ∧
    ∀ k, (s.fetchBlock m b).count (kGaeContributions k) = s.count (kGaeContributions k) := by
  refine ⟨((State.noteRead_same s _ _).trans (sb_ctr _ _ _)).mono (by decide), fun k => ?_⟩
  refine (State.bump_count_other _ _ _ _ ?_).trans (s.noteRead_count _ _ k)
  unfold kGaeContributions kGaeMisses regBase ctrlBase
  omega
theorem State.cacheOf_congr (h : t.upd = s.upd) (m : Nat) : t.cacheOf m = s.cacheOf m := by
  unfold State.cacheOf
  rw [h]
theorem State.touchBlock_miss {b : Nat} (h : (s.cacheOf m).find? (fun x => decide (x.block = b)) = none) (hroom : (s.cacheOf m).length ≤ 4095) :
    s.touchBlock m b = (s.fetchBlock m b).setCache m ({ block := b } :: s.cacheOf m) := by
  have hmem : (s.fetchBlock m b).mem = s.mem := (s.fetchBlock_spec m b).1 .mem (by decide)
  unfold State.touchBlock
  dsimp only
  rw [h]
  dsimp only
  rw [List.drop_eq_nil_of_le hroom, List.take_of_length_le hroom]
  rfl
theorem State.touchBlock_spec (s : State) (m b : Nat) (hnodup : (blocksOf (s.cacheOf m)).Nodup) (hroom : (s.cacheOf m).length ≤ 4095) :
    let t := s.touchBlock m b
    Fetched1 s t m ∧ b ∈ blocksOf (t.cacheOf m) ∧ (t.cacheOf m).length ≤ (s.cacheOf m).length + 1 := by
  cases hfind : (s.cacheOf m).find? (fun x => decide (x.block = b)) with
  | some x =>
    rw [State.touchBlock_hit hfind]
    have hx := List.mem_of_find?_eq_some hfind
    have hblock : x.block = b := by simpa using List.find?_some hfind
    have hfilter : (blocksOf ((s.cacheOf m).filter fun y => decide (y.block ≠ b))).Nodup := hnodup.sublist (List.filter_sublist.map _)
    have hout : b ∉ blocksOf ((s.cacheOf m).filter fun y => decide (y.block ≠ b)) := by
      intro h
      obtain ⟨y, hy, hyb⟩ := List.mem_map.1 h
      have := (List.mem_filter.1 hy).2
      simp [hyb] at this
    have hnodup' : (blocksOf (x :: (s.cacheOf m).filter fun y => decide (y.block ≠ b))).Nodup := List.nodup_cons.2 ⟨hblock ▸ hout, hfilter⟩
    have hmem : ∀ y, y ∈ x :: (s.cacheOf m).filter (fun y => decide (y.block ≠ b)) ↔ y ∈ s.cacheOf m := by
      intro y
      constructor
      · intro hy
        rcases List.mem_cons.1 hy with rfl | hy
        · exact hx
        · exact (List.mem_filter.1 hy).1
      · intro hy
        by_cases hyb : y.block = b
        · have : y = x := List.inj_on_of_nodup_map hnodup hy hx (hyb.trans hblock.symm)
          rw [this]
          exact List.mem_cons_self ..
        · exact List.mem_cons_of_mem _ (List.mem_filter.2 ⟨hy, by simpa using hyb⟩)
    have hcache := s.cacheOf_setCache m (x :: (s.cacheOf m).filter fun y => decide (y.block ≠ b))
    refine ⟨⟨rfl, ⟨_, rfl⟩, (sb_upd s _).mono (by decide), fun a => State.gaeElem_congr ?_ rfl, ?_, fun k hk => ?_, fun _ => rfl⟩, ?_, ?_⟩
    · rw [hcache]
      exact cacheCell_congr hnodup hnodup' hmem a
    · rw [hcache]
      exact hnodup'
    · rw [hcache]
      obtain ⟨y, hy, rfl⟩ := List.mem_map.1 hk
      exact List.mem_map_of_mem ((hmem y).2 hy)
    · rw [hcache]
      exact List.mem_map.2 ⟨x, List.mem_cons_self .., hblock⟩
    · rw [hcache]
      exact Nat.succ_le_succ (List.length_filter_le _ _)
  | none =>
    rw [State.touchBlock_miss hfind hroom]
    obtain ⟨hsame, hcount⟩ := s.fetchBlock_spec m b
    have hout : b ∉ blocksOf (s.cacheOf m) := by
      intro h
      obtain ⟨y, hy, hyb⟩ := List.mem_map.1 h
      have := List.find?_eq_none.1 hfind y hy
      simp [hyb] at this
    have hupd : (s.fetchBlock m b).upd = s.upd := hsame .upd (by decide)
    have hmem : (s.fetchBlock m b).mem = s.mem := hsame .mem (by decide)
    generalize s.fetchBlock m b = u at *
    have hcache := u.cacheOf_setCache m ({ block := b } :: s.cacheOf m)
    refine ⟨⟨hmem, ⟨_, congrArg (fun x : Update => { x with cache := sset [] x.cache m ({ block := b } :: s.cacheOf m) }) hupd⟩,
      (hsame.trans (sb_upd u _)).mono (by decide), fun a => State.gaeElem_congr ?_ hmem, ?_, fun k hk => ?_, hcount⟩, ?_, ?_⟩
    · rw [hcache, cacheCell_cons]
      dsimp only
      split
      · next h => split at h <;> cases h
      · rfl
    · rw [hcache]
      exact List.nodup_cons.2 ⟨hout, hnodup⟩
    · rw [hcache]
      exact List.mem_cons_of_mem _ hk
    · rw [hcache]
      exact List.mem_cons_self ..
    · rw [hcache]
      exact le_refl _
theorem Fetched1.refl (hnodup : (blocksOf (s.cacheOf m)).Nodup) : Fetched1 s s m :=
  ⟨rfl, ⟨_, rfl⟩, fun p _ => Touch.refl [] s p (by simp), fun _ => rfl, hnodup, fun _ h => h, fun _ => rfl⟩
theorem Fetched1.trans {u : State} (h : Fetched1 s u m) (k : Fetched1 u t m) : Fetched1 s t m := by
  obtain ⟨c, hc⟩ := h.upd
  obtain ⟨e, he⟩ := k.upd
  refine ⟨k.mem.trans h.mem, ⟨e, he.trans (by rw [hc])⟩, (h.same.trans k.same).mono (by decide), fun a => (k.elems a).trans (h.elems a), k.nodup,
    fun b hb => k.kept b (h.kept b hb), fun n => (k.count n).trans (h.count n)⟩
/-- The blocks of a row are in the cache. -/
theorem State.touchBlocks_spec (bs : List Nat) (s : State) (m : Nat) (hnodup : (blocksOf (s.cacheOf m)).Nodup) (hroom : (s.cacheOf m).length + bs.length ≤ 4096) :
    let t := bs.foldl (fun s b => s.touchBlock m b) s
    Fetched1 s t m ∧ ∀ b ∈ bs, b ∈ blocksOf (t.cacheOf m) := by
  induction bs generalizing s with
  | nil => exact ⟨Fetched1.refl hnodup, fun _ h => absurd h (by simp)⟩
  | cons b bs ih =>
    rw [List.length_cons] at hroom
    obtain ⟨hfirst, hin, hlength⟩ := s.touchBlock_spec m b hnodup (by omega)
    obtain ⟨hrest, hall⟩ := ih (s.touchBlock m b) hfirst.nodup (by omega)
    rw [List.foldl_cons]
    refine ⟨hfirst.trans hrest, fun k hk => ?_⟩
    rcases List.mem_cons.1 hk with rfl | hk
    · exact hrest.kept _ hin
    · exact hall k hk

/-! ### Elements change -/

/-- A cache whose element at `a` has been set. -/
def setCell (c : List CacheBlock) (a v : Nat) : List CacheBlock :=
  c.map fun x => if x.block = a / 2048 then { x with cells := sput x.cells (a % 2048 / 16) v } else x
theorem setCell_blocks (c : List CacheBlock) (a v : Nat) : blocksOf (setCell c a v) = blocksOf c := by
  unfold setCell blocksOf
  rw [List.map_map]
  refine List.map_congr_left fun x _ => ?_
  simp only [Function.comp]
  split <;> rfl
theorem cacheCell_setCell_same {a : Nat} (v : Nat) (hnodup : (blocksOf c).Nodup) (hin : a / 2048 ∈ blocksOf c) : cacheCell (setCell c a v) a = some v := by
  obtain ⟨x, hx, hblock⟩ := List.mem_map.1 hin
  have hx' : { x with cells := sput x.cells (a % 2048 / 16) v } ∈ setCell c a v := List.mem_map.2 ⟨x, hx, if_pos hblock⟩
  rw [cacheCell_of_mem (by rw [setCell_blocks]; exact hnodup) hx' hblock]
  exact lookup_sput_same _ _ _
theorem cacheCell_setCell_other {a b : Nat} (v : Nat) (hnodup : (blocksOf c).Nodup) (hne : b / 2048 ≠ a / 2048 ∨ b % 2048 / 16 ≠ a % 2048 / 16) :
    cacheCell (setCell c a v) b = cacheCell c b := by
  by_cases hin : b / 2048 ∈ blocksOf c
  · obtain ⟨x, hx, hblock⟩ := List.mem_map.1 hin
    have hx' : (if x.block = a / 2048 then { x with cells := sput x.cells (a % 2048 / 16) v } else x) ∈ setCell c a v := List.mem_map_of_mem hx
    have hb' : (if x.block = a / 2048 then { x with cells := sput x.cells (a % 2048 / 16) v } else x).block = b / 2048 := by
      split <;> exact hblock
    rw [cacheCell_of_mem (by rw [setCell_blocks]; exact hnodup) hx' hb', cacheCell_of_mem hnodup hx hblock]
    split
    · next h => exact lookup_sput_other _ _ (hne.resolve_left fun hn => hn (hblock.symm.trans h))
    · rfl
  · rw [cacheCell_none hin, cacheCell_none (by rw [setCell_blocks]; exact hin)]

/-- The address of element `j` of a row that begins at element `e`. -/
def elemAddr (d : Bytes) (e j : Nat) : Nat := udGrad d + 16 * (e + j)
/-- One element of a row is added. -/
def State.addElem (s : State) (m a : Nat) (x : Int) : State :=
  if x = 0 then s else s.setElem m a (unsigned 128 (signed 128 (s.gaeElem m a) + x))
/-- What an element holds with a value added. -/
def addedTo (old : Nat) (x : Int) : Nat := if x = 0 then old else unsigned 128 (signed 128 old + x)
/-- Only the cache of the stack has changed, of the blocks it holds. -/
def Summed (s t : State) (m : Nat) : Prop :=
  (∃ c, t.upd = { s.upd with cache := c }) ∧
  SameBut [.upd] s t ∧
  blocksOf (t.cacheOf m) = blocksOf (s.cacheOf m)
theorem Summed.upd {s t : State} {m : Nat} : Summed s t m → ∃ c, t.upd = { s.upd with cache := c }
  | ⟨h, _, _⟩ => h
theorem Summed.same {s t : State} {m : Nat} : Summed s t m → SameBut [.upd] s t
  | ⟨_, h, _⟩ => h
theorem Summed.blocks {s t : State} {m : Nat} : Summed s t m → blocksOf (t.cacheOf m) = blocksOf (s.cacheOf m)
  | ⟨_, _, h⟩ => h
theorem Summed.trans {u : State} (h : Summed s u m) (k : Summed u t m) : Summed s t m := by
  obtain ⟨c, hc⟩ := h.upd
  obtain ⟨e, he⟩ := k.upd
  exact ⟨⟨e, he.trans (by rw [hc])⟩, (h.same.trans k.same).mono (by decide), k.blocks.trans h.blocks⟩
theorem State.addElem_spec (s : State) {m a : Nat} (x : Int) (hnodup : (blocksOf (s.cacheOf m)).Nodup) (hin : a / 2048 ∈ blocksOf (s.cacheOf m)) (ha : a % 16 = 0) :
    let t := s.addElem m a x
    Summed s t m ∧ t.gaeElem m a = addedTo (s.gaeElem m a) x ∧ ∀ b, b % 16 = 0 → b ≠ a → t.gaeElem m b = s.gaeElem m b := by
  intro t
  by_cases hx : x = 0
  · have ht : t = s := if_pos hx
    rw [ht, addedTo, if_pos hx]
    exact ⟨⟨⟨_, rfl⟩, fun p _ => Touch.refl [] s p (by simp), rfl⟩, rfl, fun _ _ _ => rfl⟩
  · have ht : t = s.setCache m (setCell (s.cacheOf m) a (unsigned 128 (signed 128 (s.gaeElem m a) + x))) := if_neg hx
    rw [ht, addedTo, if_neg hx]
    generalize unsigned 128 (signed 128 (s.gaeElem m a) + x) = v
    have hcache := s.cacheOf_setCache m (setCell (s.cacheOf m) a v)
    refine ⟨⟨⟨_, rfl⟩, sb_upd s _, ?_⟩, ?_, fun b hb hne => State.gaeElem_congr ?_ rfl⟩
    · rw [hcache, setCell_blocks]
    · rw [State.gaeElem_eq, hcache, cacheCell_setCell_same v hnodup hin]
    · rw [hcache]
      exact cacheCell_setCell_other v hnodup (by omega)
/-- Elements at different places are added each to its own. -/
theorem State.addElems_spec {d : Bytes} {e : Nat} (hd : udGrad d % 16 = 0) (l : List (Int × Nat)) (s : State) (m : Nat) (hnodup : (blocksOf (s.cacheOf m)).Nodup)
    (hin : ∀ x ∈ l, elemAddr d e x.2 / 2048 ∈ blocksOf (s.cacheOf m)) (hdistinct : (l.map fun x => x.2).Nodup) :
    let t := l.foldl (fun s x => s.addElem m (elemAddr d e x.2) x.1) s
    Summed s t m ∧ (∀ x ∈ l, t.gaeElem m (elemAddr d e x.2) = addedTo (s.gaeElem m (elemAddr d e x.2)) x.1) ∧
      ∀ b, b % 16 = 0 → (∀ x ∈ l, b ≠ elemAddr d e x.2) → t.gaeElem m b = s.gaeElem m b := by
  induction l generalizing s with
  | nil => exact ⟨⟨⟨_, rfl⟩, fun p _ => Touch.refl [] s p (by simp), rfl⟩, fun _ h => absurd h (by simp), fun _ _ _ => rfl⟩
  | cons x l ih =>
    obtain ⟨hx, hl⟩ := List.nodup_cons.1 hdistinct
    have hfirst {y : Int × Nat} (hy : y ∈ l) : x.2 ≠ y.2 := fun h => hx (List.mem_map.2 ⟨y, hy, h.symm⟩)
    have haligned (j : Nat) : elemAddr d e j % 16 = 0 := by
      unfold elemAddr
      omega
    have hother {j k : Nat} (h : j ≠ k) : elemAddr d e j ≠ elemAddr d e k := by
      unfold elemAddr
      omega
    obtain ⟨hsummed, hhere, hothers⟩ := s.addElem_spec (a := elemAddr d e x.2) x.1 hnodup (hin x (List.mem_cons_self ..)) (haligned _)
    obtain ⟨hrest, hthere, hleft⟩ := ih (s.addElem m (elemAddr d e x.2) x.1) (by rw [hsummed.blocks]; exact hnodup)
      (fun y hy => by rw [hsummed.blocks]; exact hin y (List.mem_cons_of_mem _ hy)) hl
    rw [List.foldl_cons]
    refine ⟨hsummed.trans hrest, fun y hy => ?_, fun b hb hne => ?_⟩
    · rcases List.mem_cons.1 hy with rfl | hy
      · rw [hleft _ (haligned _) fun z hz => hother (hfirst hz)]
        exact hhere
      · rw [hthere y hy, hothers _ (haligned _) (hother (hfirst hy).symm)]
    · rw [hleft b hb fun z hz => hne z (List.mem_cons_of_mem _ hz)]
      exact hothers b hb (hne x (List.mem_cons_self ..))
end
end Sys2Proof.Machine
end

section
/-! SUPPORT and PROOFS. Gradient rows are added, wait, are held or dropped; withdrawals are kept (R134, R265, R268, R350 to R352, R384). -/

namespace Sys2Proof.Machine

section
variable {s u t : State} {d : Bytes} {m r : Msg}

/-! ### A row is added to its buffer -/

/-- What a row adds: the placed value of each element, with its number. -/
def rowTerms (d : Bytes) (m : Msg) : List (Int × Nat) := (List.range (gpCount m)).map fun j => ((placeGrad (udEg d) (gpValue m j).1).val, j)
theorem rowTerms_eq (d : Bytes) (m : Msg) :
    ((((List.range (gpCount m)).map (gpValue m)).map fun v => placeGrad (udEg d) v.1).zipIdx.map fun x => (x.1.val, x.2)) = rowTerms d m := by
  refine List.ext_getElem (by simp [rowTerms]) fun j h _ => ?_
  simp [rowTerms]
theorem rowTerms_distinct (d : Bytes) (m : Msg) : ((rowTerms d m).map fun x => x.2).Nodup := by
  unfold rowTerms
  rw [List.map_map]
  show ((List.range (gpCount m)).map fun j => j).Nodup
  rw [List.map_id']
  exact List.nodup_range
theorem mem_rowTerms {x : Int × Nat} : x ∈ rowTerms d m ↔ x.2 < gpCount m ∧ x.1 = (placeGrad (udEg d) (gpValue m x.2).1).val := by
  unfold rowTerms
  rw [List.mem_map]
  constructor
  · rintro ⟨j, hj, rfl⟩
    exact ⟨List.mem_range.1 hj, rfl⟩
  · rintro ⟨hj, hv⟩
    exact ⟨x.2, List.mem_range.2 hj, Prod.ext hv.symm rfl⟩
/-- The blocks of a row are fetched. -/
def State.rowFetched (s : State) (d : Bytes) (m : Msg) : State := (rowBlocks d (gpFirst m) (gpCount m)).foldl (fun s b => s.touchBlock (udStack d) b) s
/-- The elements of a row are added. -/
def State.rowSummed (s : State) (d : Bytes) (m : Msg) : State :=
  (rowTerms d m).foldl (fun s x => s.addElem (udStack d) (elemAddr d (gpFirst m) x.2) x.1) s
/-- A row is counted. -/
def State.rowCounted (s : State) (d : Bytes) (m : Msg) (into : Nat) (cts : Counts) (vals : List ℚ) : State :=
  ((({ s with upd := { s.upd with filled := supd [] s.upd.filled (gpIndex m) fun l => (l ++ rowBlocks d (gpFirst m) (gpCount m)).dedup } }).bump
    (kGaeContributions (udStack d)) (gpCount m)).addCounts (udSrc d) into (udWatch d) (gpForm m) cts).addHist into (udWatch d) (gpForm m) vals
theorem State.placeRow_eq (s : State) (d : Bytes) (m : Msg) (into : Nat) : ∃ cts vals,
    s.placeRow d m into = ((s.rowFetched d m).rowSummed d m).rowCounted d m into cts vals := by
  unfold State.rowSummed
  rw [← rowTerms_eq, List.foldl_map]
  exact ⟨_, _, rfl⟩
theorem told_addHist (s : State) (step w f : Nat) (vs : List ℚ) : Told s (s.addHist step w f vs) := by
  unfold State.addHist
  split
  · exact told_modStats _ _ _
  · exact Told.refl s
/-- What counting a row leaves alone. -/
theorem State.rowCounted_spec (s : State) (d : Bytes) (m : Msg) (into : Nat) (cts : Counts) (vals : List ℚ) : let t := s.rowCounted d m into cts vals
    SameBut [.log, .stats, .upd, .host, .ctr, .out] s t ∧ (∃ l, t.upd = { s.upd with filled := l }) ∧
    (udStack d < 32 → t.count (kGaeContributions (udStack d)) = s.count (kGaeContributions (udStack d)) + gpCount m) := by
  intro t
  have hfilled : SameBut [.upd] s { s with upd := { s.upd with filled := supd [] s.upd.filled (gpIndex m) fun l => (l ++ rowBlocks d (gpFirst m) (gpCount m)).dedup } } :=
    sb_upd s _
  have hcounted : t = ((({ s with upd := { s.upd with filled := supd [] s.upd.filled (gpIndex m) fun l => (l ++ rowBlocks d (gpFirst m) (gpCount m)).dedup } }).bump
    (kGaeContributions (udStack d)) (gpCount m)).addCounts (udSrc d) into (udWatch d) (gpForm m) cts).addHist into (udWatch d) (gpForm m) vals := rfl
  have hupd : ({ s with upd := { s.upd with filled := supd [] s.upd.filled (gpIndex m) fun l => (l ++ rowBlocks d (gpFirst m) (gpCount m)).dedup } } : State).upd =
    { s.upd with filled := supd [] s.upd.filled (gpIndex m) fun l => (l ++ rowBlocks d (gpFirst m) (gpCount m)).dedup } := rfl
  have hctr : ({ s with upd := { s.upd with filled := supd [] s.upd.filled (gpIndex m) fun l => (l ++ rowBlocks d (gpFirst m) (gpCount m)).dedup } } : State).count
    (kGaeContributions (udStack d)) = s.count (kGaeContributions (udStack d)) := rfl
  rw [hcounted]
  generalize ({ s with upd := { s.upd with filled := supd [] s.upd.filled (gpIndex m) fun l => (l ++ rowBlocks d (gpFirst m) (gpCount m)).dedup } } : State) = v at *
  have hsame := State.addHist_touch (ps := [.log, .stats, .host, .ctr, .out]) (by decide) _ into (udWatch d) (gpForm m) vals
    (State.addCounts_touch (List.Subset.refl _) _ (udSrc d) into (udWatch d) (gpForm m) cts
      (State.bump_touch (by decide) v (kGaeContributions (udStack d)) (gpCount m) (Touch.refl _ v)))
  have htold := (told_addCounts (v.bump (kGaeContributions (udStack d)) (gpCount m)) (udSrc d) into (udWatch d) (gpForm m) cts).trans
    (told_addHist _ into (udWatch d) (gpForm m) vals)
  refine ⟨(hfilled.trans hsame).mono (by decide), ⟨_, Eq.trans (hsame .upd (by decide)) hupd⟩, fun hstack => ?_⟩
  rw [htold.counts, State.bump_count, hctr]
  · unfold kGaeContributions kRecordsLost regBase ctrlBase objKey
    omega
  · unfold kGaeContributions kEventRecords regBase ctrlBase objKey
    omega
  · unfold kGaeContributions kFramesTx regBase ctrlBase
    omega
/-- Every element of a row lies in a block of the row. -/
theorem elemAddr_block {j : Nat} (h : j < gpCount m) : elemAddr d (gpFirst m) j / 2048 ∈ rowBlocks d (gpFirst m) (gpCount m) := by
  unfold rowBlocks elemAddr
  dsimp only
  rw [if_neg (by omega), List.mem_map]
  refine ⟨(udGrad d + 16 * (gpFirst m + j)) / 2048 - (udGrad d + 16 * gpFirst m) / 2048, List.mem_range.2 ?_, ?_⟩
  · omega
  · omega
/-- A row has been added to its buffer. -/
def RowPlaced (s t : State) (d : Bytes) (m : Msg) : Prop :=
  SameBut [.log, .stats, .upd, .host, .ctr, .out] s t ∧
  t.upd.rows = s.upd.rows ∧
  (udStack d < 32 → t.count (kGaeContributions (udStack d)) = s.count (kGaeContributions (udStack d)) + gpCount m) ∧
  (∀ j, j < gpCount m → t.gaeElem (udStack d) (elemAddr d (gpFirst m) j) =
       addedTo (s.gaeElem (udStack d) (elemAddr d (gpFirst m) j)) (placeGrad (udEg d) (gpValue m j).1).val) ∧
  (∀ a, a % 16 = 0 → (∀ j, j < gpCount m → a ≠ elemAddr d (gpFirst m) j) → t.gaeElem (udStack d) a = s.gaeElem (udStack d) a)
theorem RowPlaced.same {s t : State} {d : Bytes} {m : Msg} : RowPlaced s t d m →
    SameBut [.log, .stats, .upd, .host, .ctr, .out] s t
  | ⟨h, _, _, _, _⟩ => h
theorem RowPlaced.rows {s t : State} {d : Bytes} {m : Msg} : RowPlaced s t d m →
    t.upd.rows = s.upd.rows
  | ⟨_, h, _, _, _⟩ => h
theorem RowPlaced.count {s t : State} {d : Bytes} {m : Msg} : RowPlaced s t d m →
    udStack d < 32 → t.count (kGaeContributions (udStack d)) = s.count (kGaeContributions (udStack d)) + gpCount m
  | ⟨_, _, h, _, _⟩ => h
theorem RowPlaced.elems {s t : State} {d : Bytes} {m : Msg} : RowPlaced s t d m →
    ∀ j, j < gpCount m → t.gaeElem (udStack d) (elemAddr d (gpFirst m) j) =
       addedTo (s.gaeElem (udStack d) (elemAddr d (gpFirst m) j)) (placeGrad (udEg d) (gpValue m j).1).val
  | ⟨_, _, _, h, _⟩ => h
theorem RowPlaced.others {s t : State} {d : Bytes} {m : Msg} : RowPlaced s t d m →
    ∀ a, a % 16 = 0 → (∀ j, j < gpCount m → a ≠ elemAddr d (gpFirst m) j) → t.gaeElem (udStack d) a = s.gaeElem (udStack d) a
  | ⟨_, _, _, _, h⟩ => h
theorem State.placeRow_spec (s : State) (m : Msg) (into : Nat) (hd : udGrad d % 16 = 0) (hnodup : (blocksOf (s.cacheOf (udStack d))).Nodup)
    (hroom : (s.cacheOf (udStack d)).length + (rowBlocks d (gpFirst m) (gpCount m)).length ≤ 4096) : RowPlaced s (s.placeRow d m into) d m := by
  obtain ⟨cts, vals, hplace⟩ := s.placeRow_eq d m into
  obtain ⟨hfetched, hblocks⟩ := State.touchBlocks_spec (rowBlocks d (gpFirst m) (gpCount m)) s (udStack d) hnodup hroom
  change Fetched1 s (s.rowFetched d m) (udStack d) at hfetched
  change ∀ b ∈ rowBlocks d (gpFirst m) (gpCount m), b ∈ blocksOf ((s.rowFetched d m).cacheOf (udStack d)) at hblocks
  rw [hplace]
  generalize s.rowFetched d m = v at *
  obtain ⟨hsummed, helems, hothers⟩ := State.addElems_spec (e := gpFirst m) hd (rowTerms d m) v (udStack d) hfetched.nodup
    (fun x hx => hblocks _ (elemAddr_block (mem_rowTerms.1 hx).1)) (rowTerms_distinct d m)
  change Summed v (v.rowSummed d m) (udStack d) at hsummed
  change ∀ x ∈ rowTerms d m, (v.rowSummed d m).gaeElem (udStack d) (elemAddr d (gpFirst m) x.2) = _ at helems
  change ∀ b, b % 16 = 0 → (∀ x ∈ rowTerms d m, b ≠ elemAddr d (gpFirst m) x.2) → (v.rowSummed d m).gaeElem (udStack d) b = _ at hothers
  generalize v.rowSummed d m = w at *
  obtain ⟨hsame, ⟨l, hupd⟩, hcount⟩ := w.rowCounted_spec d m into cts vals
  generalize w.rowCounted d m into cts vals = y at *
  have hmem : y.mem = w.mem := hsame .mem (by decide)
  have hcache : y.cacheOf (udStack d) = w.cacheOf (udStack d) := by
    unfold State.cacheOf
    rw [hupd]
  have hkept (a : Nat) : y.gaeElem (udStack d) a = w.gaeElem (udStack d) a := State.gaeElem_congr (by rw [hcache]) hmem
  have hctr : w.count (kGaeContributions (udStack d)) = s.count (kGaeContributions (udStack d)) :=
    (congrArg (fun l => sget 0 l (kGaeContributions (udStack d))) (hsummed.same .ctr (by decide))).trans (hfetched.count _)
  obtain ⟨c1, hc1⟩ := hfetched.upd
  obtain ⟨c2, hc2⟩ := hsummed.upd
  refine ⟨((hfetched.same.trans hsummed.same).trans hsame).mono (by decide), by rw [hupd, hc2, hc1], fun h => by rw [hcount h, hctr], fun j hj => ?_, fun a ha hne => ?_⟩
  · rw [hkept, ← hfetched.elems]
    exact helems (_, j) (mem_rowTerms.2 ⟨hj, rfl⟩)
  · rw [hkept, ← hfetched.elems]
    exact hothers a ha fun x hx => hne x.2 (mem_rowTerms.1 hx).1

/-! ### A row reaches its owner (R268, R350, R352) -/

theorem State.gradientRow_unknown (h : s.updates[gpIndex r]? = none) : s.gradientRow r = some (s.fault wardenSrc 0x5009) := by
  unfold State.gradientRow
  dsimp only
  rw [h]
section
variable (hd : s.updates[gpIndex r]? = some d)
include hd
theorem State.gradientRow_outside (h : udElems d < gpFirst r + gpCount r) : s.gradientRow r = some (s.fault (udSrc d) 0x5009) := by
  unfold State.gradientRow
  dsimp only
  rw [hd]
  exact if_pos h
variable (hin : gpFirst r + gpCount r ≤ udElems d)
include hin
theorem State.gradientRow_closed (h : s.upd.accepting = none) : s.gradientRow r = none := by
  unfold State.gradientRow
  dsimp only
  rw [hd]
  dsimp only
  rw [if_neg (Nat.not_lt.2 hin), h]
variable {acc : Nat} (hacc : s.upd.accepting = some acc)
include hacc
theorem State.gradientRow_of : s.gradientRow r =
    if acc < r.arg then none
    else if s.isLate (gpIndex r) d r.arg acc = true then
      some ((if r.arg = acc then { s with upd := { s.upd with late := Machine.addMember s.upd.late (gpIndex r) r.origin } } else s).staleRow d r acc)
    else some { s.placeRow d r r.arg with upd := { (s.placeRow d r r.arg).upd with seen := Machine.addMember s.upd.seen (gpIndex r) r.origin } } := by
  unfold State.gradientRow
  dsimp only
  rw [hd]
  dsimp only
  rw [if_neg (Nat.not_lt.2 hin), hacc]
theorem State.gradientRow_future (h : acc < r.arg) : s.gradientRow r = none := by
  rw [State.gradientRow_of hd hin hacc]
  exact if_pos h
theorem State.gradientRow_now (h : r.arg = acc) (hlate : s.isLate (gpIndex r) d acc acc = false) : s.gradientRow r =
    some { s.placeRow d r r.arg with upd := { (s.placeRow d r r.arg).upd with seen := Machine.addMember s.upd.seen (gpIndex r) r.origin } } := by
  rw [State.gradientRow_of hd hin hacc, if_neg (by omega), h, hlate]
  exact if_neg (by decide)
theorem State.gradientRow_dropped (h : r.arg < acc) (hdrop : s.staleDrop = true) : s.gradientRow r =
    some ((s.bump kStaleDropped 1).eventOnce 0x11 acc (udSrc d) 0x5006 []) := by
  have hlate : s.isLate (gpIndex r) d r.arg acc = true := by
    unfold State.isLate
    rw [decide_eq_true h]
    rfl
  rw [State.gradientRow_of hd hin hacc, if_neg (by omega), if_pos hlate, if_neg (by omega)]
  unfold State.staleRow
  rw [hdrop]
  exact congrArg some (if_pos rfl)
end

/-- The oldest row of this module's own clusters leaves its queue. -/
def State.rowsLeft (s : State) (rest : List Msg) : State := { s with upd := { s.upd with rows := rest } }
section
variable {rest : List Msg} (hplan : s.job.plan ≠ none) (hstate : s.job.state ≠ .fault) (hrows : s.upd.rows = r :: rest)
include hplan hstate hrows
theorem exec_gradient_own : exec (.gradient none []) s = .next (match (s.rowsLeft rest).gradientRow r with | none => s | some t => t) := by
  show execGradient none [] s = _
  unfold execGradient
  rw [if_neg (not_or.2 ⟨by simpa using hplan, hstate⟩), hrows]
  show Host.Outcome.next (match (s.rowsLeft rest).gradientRow r with | none => s | some t => if t.job.state = JobState.fault then t else t) = _
  cases (s.rowsLeft rest).gradientRow r with
  | none => rfl
  | some t => exact congrArg Host.Outcome.next (ite_self t)
theorem exec_gradient_some {t : State} (h : (s.rowsLeft rest).gradientRow r = some t) : exec (.gradient none []) s = .next t := by
  rw [exec_gradient_own hplan hstate hrows, h]
theorem exec_gradient_none (h : (s.rowsLeft rest).gradientRow r = none) : exec (.gradient none []) s = .next s := by
  rw [exec_gradient_own hplan hstate hrows, h]
end
theorem addMember_mem (l : List (Nat × List Nat)) (i origin : Nat) : origin ∈ sget [] (addMember l i origin) i := by
  unfold addMember
  rw [sget_supd_same]
  split
  · next h => exact List.contains_iff_mem.1 h
  · exact List.mem_append_right _ (List.mem_singleton.2 rfl)
theorem ownRows (s : State) (r : Msg) (rest : List Msg) (hplan : s.job.plan ≠ none) (hstate : s.job.state ≠ .fault) (hrows : s.upd.rows = r :: rest) :
    (s.updates[gpIndex r]? = none → ∃ t, exec (.gradient none []) s = .next t ∧ Faulted t wardenSrc 0x5009 ∧ t.safe.latch = true ∧ t.mem = s.mem) ∧
    (∀ d, s.updates[gpIndex r]? = some d →
      (udElems d < gpFirst r + gpCount r → ∃ t, exec (.gradient none []) s = .next t ∧ Faulted t (udSrc d) 0x5009 ∧ t.safe.latch = true ∧ t.mem = s.mem) ∧
      (gpFirst r + gpCount r ≤ udElems d →
        (s.upd.accepting = none → exec (.gradient none []) s = .next s) ∧
        (∀ acc, s.upd.accepting = some acc →
          (acc < r.arg → exec (.gradient none []) s = .next s) ∧
          (r.arg = acc → s.isLate (gpIndex r) d acc acc = false → udGrad d % 16 = 0 → ((s.cacheOf (udStack d)).map (fun x => x.block)).Nodup →
            (s.cacheOf (udStack d)).length + (rowBlocks d (gpFirst r) (gpCount r)).length ≤ 4096 → ∃ t, exec (.gradient none []) s = .next t
            ∧ t.upd.rows = rest ∧ r.origin ∈ sget [] t.upd.seen (gpIndex r) ∧ t.mem = s.mem
            ∧ (udStack d < 32 → t.count (kGaeContributions (udStack d)) = s.count (kGaeContributions (udStack d)) + gpCount r)
            ∧ (∀ j, j < gpCount r → let v := (placeGrad (udEg d) (gpValue r j).1).val
                t.gaeElem (udStack d) (udGrad d + 16 * (gpFirst r + j)) = if v = 0 then s.gaeElem (udStack d) (udGrad d + 16 * (gpFirst r + j))
                  else unsigned 128 (signed 128 (s.gaeElem (udStack d) (udGrad d + 16 * (gpFirst r + j))) + v))
            ∧ (∀ a, a % 16 = 0 → a < udGrad d + 16 * gpFirst r ∨ udGrad d + 16 * (gpFirst r + gpCount r) ≤ a → t.gaeElem (udStack d) a = s.gaeElem (udStack d) a)) ∧
          (r.arg < acc → s.staleDrop = true → ∃ t, exec (.gradient none []) s = .next t ∧ t.upd.rows = rest ∧ t.mem = s.mem
            ∧ t.count kStaleDropped = s.count kStaleDropped + 1 ∧ t.upd.seen = s.upd.seen)))) := by
  have fault (src : Nat) : let t := (s.rowsLeft rest).fault src 0x5009
      Faulted t src 0x5009 ∧ t.safe.latch = true ∧ t.mem = s.mem := by
    obtain ⟨hfaulted, hlatch, hmem, -⟩ := fault_spec_of s (u := s.rowsLeft rest) src 0x5009 [] rfl rfl
    exact ⟨hfaulted, hlatch, hmem⟩
  refine ⟨fun hnone => ⟨_, exec_gradient_some hplan hstate hrows (State.gradientRow_unknown hnone), fault wardenSrc⟩, fun d hd =>
    ⟨fun hout => ⟨_, exec_gradient_some hplan hstate hrows (State.gradientRow_outside hd hout), fault (udSrc d)⟩, fun hin =>
      ⟨fun hclosed => exec_gradient_none hplan hstate hrows (State.gradientRow_closed hd hin hclosed), fun acc hacc =>
        ⟨fun hfuture => exec_gradient_none hplan hstate hrows (State.gradientRow_future hd hin hacc hfuture), fun hnow hlate hgrad hnodup hroom => ?_,
          fun hpast hdrop => ?_⟩⟩⟩⟩
  · refine ⟨_, exec_gradient_some hplan hstate hrows (State.gradientRow_now (s := s.rowsLeft rest) hd hin hacc hnow hlate), ?_⟩
    have hplaced := State.placeRow_spec (s := s.rowsLeft rest) r r.arg hgrad hnodup hroom
    generalize (s.rowsLeft rest).placeRow d r r.arg = w at *
    have hrest : (s.rowsLeft rest).upd.rows = rest := rfl
    have hmem : (s.rowsLeft rest).mem = s.mem := rfl
    refine ⟨hplaced.rows.trans hrest, addMember_mem _ _ _, (hplaced.same .mem (by decide)).trans hmem, hplaced.count, hplaced.elems, fun a ha hfar => ?_⟩
    refine hplaced.others a ha fun j hj => ?_
    unfold elemAddr
    omega
  · refine ⟨_, exec_gradient_some hplan hstate hrows (State.gradientRow_dropped (s := s.rowsLeft rest) hd hin hacc hpast hdrop), ?_⟩
    have honce := State.eventOnce_touch (List.Subset.refl _) ((s.rowsLeft rest).bump kStaleDropped 1) 0x11 acc (udSrc d) 0x5006 [] (Touch.refl _ _)
    have htold := told_eventOnce ((s.rowsLeft rest).bump kStaleDropped 1) 0x11 acc (udSrc d) 0x5006 []
    have hcount : ((s.rowsLeft rest).bump kStaleDropped 1).count kStaleDropped = s.count kStaleDropped + 1 := State.bump_count _ _ _
    have hupd : ((s.rowsLeft rest).bump kStaleDropped 1).upd = { s.upd with rows := rest } := rfl
    have hmem : ((s.rowsLeft rest).bump kStaleDropped 1).mem = s.mem := rfl
    generalize (s.rowsLeft rest).bump kStaleDropped 1 = w at *
    have hupd' := (honce .upd (by decide)).trans hupd
    exact ⟨congrArg Update.rows hupd', (honce .mem (by decide)).trans hmem, (htold.counts _ (by decide) (by decide) (by decide)).trans hcount,
      Eq.trans (congrArg Update.seen hupd') rfl⟩

/-! ### A row of a peer, and its acknowledgement (R384) -/

theorem peerRow (s : State) (m : Msg) (d : Bytes) (acc n : Nat) (hplan : s.job.plan ≠ none) (hstate : s.job.state ≠ .fault) (hd : s.updates[gpIndex m]? = some d)
    (hin : gpFirst m + gpCount m ≤ udElems d) (hacc : s.upd.accepting = some acc) (hnow : m.arg = acc) (hlate : s.isLate (gpIndex m) d acc acc = false)
    (hroute : routePort s.net.graph s.self s.self m.origin = some n) :
    ∃ t, exec (.gradient (some m) []) s = .next t ∧ t.net.inbox = s.net.inbox.erase m ∧ m.origin ∈ sget [] t.upd.seen (gpIndex m)
      ∧ ∃ a : Msg, Output.message a ∈ t.out ∧ a.kind = 8 ∧ a.dst = m.origin ∧ a.port = n ∧ a.arg = msgAckArg m := by
  have hrow := State.gradientRow_now (s := s.onMsg m) hd hin hacc hnow hlate
  have hplaced := State.placeRow_touch (List.Subset.refl _) (s.onMsg m) d m m.arg (Touch.refl _ _)
  have hjob : (s.onMsg m).job = s.job := rfl
  have hnet : (s.onMsg m).net = { s.net with inbox := s.net.inbox.erase m } := rfl
  let w : State := { (s.onMsg m).placeRow d m m.arg with
    upd := { ((s.onMsg m).placeRow d m m.arg).upd with seen := addMember (s.onMsg m).upd.seen (gpIndex m) m.origin } }
  have hwjob : w.job = s.job := (hplaced .job (by decide)).trans hjob
  have hwnet : w.net = { s.net with inbox := s.net.inbox.erase m } := (hplaced .net (by decide)).trans hnet
  have hwseen : m.origin ∈ sget [] w.upd.seen (gpIndex m) := addMember_mem _ _ _
  have hexec : exec (.gradient (some m) []) s = .next ((w.e2eAck m).recause s.log.cause) := by
    show execGradient (some m) [] s = _
    unfold execGradient
    rw [if_neg (not_or.2 ⟨by simpa using hplan, hstate⟩)]
    show Host.Outcome.next (State.recause (match (s.onMsg m).gradientRow m with | none => s | some t => if t.job.state = JobState.fault then t else t.e2eAck m) _) = _
    rw [hrow]
    show Host.Outcome.next (State.recause (if w.job.state = .fault then w else w.e2eAck m) _) = _
    rw [if_neg (by rw [hwjob]; exact hstate)]
    rfl
  have hack := sb_e2eAck w m
  have hsends := w.e2eAck_sends m
  rw [hexec]
  generalize w = x at *
  have hgraph : x.net.graph = s.net.graph := by rw [hwnet]
  obtain ⟨a, hout, hkind, hdst, harg, hport⟩ := hsends.of_same hgraph (self_of hwjob) n hroute
  have hseen' : (x.e2eAck m).upd = x.upd := hack .upd (by decide)
  refine ⟨_, rfl, congrArg Net.inbox ((hack .net (by decide)).trans hwnet), ?_, a, hout, hkind, hdst, hport, harg⟩
  show m.origin ∈ sget [] (x.e2eAck m).upd.seen (gpIndex m)
  rw [hseen']
  exact hwseen

/-! ### Deadlines and withdrawals (R350, R351) -/

theorem deadlineOfDescriptor (s : State) (i k : Nat) (d : Bytes) (hacc : s.upd.accepting = some k) (hd : s.updates[i]? = some d) :
    ∃ t, exec (.contributionDeadline i) s = .next t ∧
    if s.pointOf k (udDeadline d) 0 < (s.planNow : Int) ∧ i ∉ s.upd.closed
    then t.upd = { s.upd with closed := s.upd.closed ++ [i] } ∧ SameBut [.upd] s t else t = s := by
  have hopen : (s.pointOf k (udDeadline d) 0 < (s.planNow : Int) ∧ i ∉ s.upd.closed) ↔
      (s.pointOf k (udDeadline d) 0 < (s.planNow : Int) ∧ (!s.upd.closed.contains i) = true) := by simp
  have hexec : exec (.contributionDeadline i) s = if s.pointOf k (udDeadline d) 0 < (s.planNow : Int) ∧ i ∉ s.upd.closed
      then .next { s with upd := { s.upd with closed := s.upd.closed ++ [i] } } else .next s := by
    rw [if_congr hopen rfl rfl]
    show execContributionDeadline i s = _
    unfold execContributionDeadline
    rw [hacc, hd]
  rw [hexec]
  by_cases hpast : s.pointOf k (udDeadline d) 0 < (s.planNow : Int) ∧ i ∉ s.upd.closed
  · rw [if_pos hpast]
    refine ⟨_, rfl, ?_⟩
    rw [if_pos hpast]
    exact ⟨rfl, sb_upd s _⟩
  · rw [if_neg hpast]
    refine ⟨_, rfl, ?_⟩
    rw [if_neg hpast]
/-- A withdrawal is noted for its step and counted. -/
def State.withdrawalNoted (s : State) (m : Msg) : State := (s.noteWithdrawn m.arg m.origin).bump kWithdrawals 1
theorem withdrawalTaken (s : State) (m : Msg) : ∃ t, exec (.withdraw m) s = .next t ∧ sget 0 t.upd.withdrawn m.arg = (sget 0 s.upd.withdrawn m.arg ||| 2 ^ m.origin)
    ∧ (∀ k, k ≠ m.arg → sget 0 t.upd.withdrawn k = sget 0 s.upd.withdrawn k) ∧ t.count kWithdrawals = s.count kWithdrawals + 1
    ∧ t.net.inbox = s.net.inbox.erase m ∧ SameBut [.log, .upd, .skid, .net, .ctr, .out] s t := by
  have hexec : exec (.withdraw m) s = .next ((((s.onMsg m).withdrawalNoted m).e2eAck m).recause s.log.cause) := rfl
  have hupd : ((s.onMsg m).withdrawalNoted m).upd = { s.upd with withdrawn := supd 0 s.upd.withdrawn m.arg (· ||| 2 ^ m.origin) } := rfl
  have hcount : ((s.onMsg m).withdrawalNoted m).count kWithdrawals = s.count kWithdrawals + 1 := State.bump_count _ _ _
  have hnet : ((s.onMsg m).withdrawalNoted m).net = { s.net with inbox := s.net.inbox.erase m } := rfl
  have hsame : SameBut [.log, .net, .upd, .ctr] s ((s.onMsg m).withdrawalNoted m) :=
    (((sb_onMsg s m).trans (sb_upd (s.onMsg m) _)).trans (sb_ctr _ _ _)).mono (by decide)
  rw [hexec]
  generalize (s.onMsg m).withdrawalNoted m = v at *
  have hack := sb_e2eAck v m
  have hupd' : ((v.e2eAck m).recause s.log.cause).upd = { s.upd with withdrawn := supd 0 s.upd.withdrawn m.arg (· ||| 2 ^ m.origin) } :=
    Eq.trans (hack .upd (by decide)) hupd
  have hctr : ((v.e2eAck m).recause s.log.cause).ctr = v.ctr := hack .ctr (by decide)
  have hnet' : ((v.e2eAck m).recause s.log.cause).net = v.net := hack .net (by decide)
  refine ⟨_, rfl, ?_, fun k hk => ?_, (congrArg (fun l => sget 0 l kWithdrawals) hctr).trans hcount, congrArg Net.inbox (hnet'.trans hnet),
    ((hsame.trans hack).trans (sb_recause _ _)).mono (by decide)⟩
  · rw [hupd']
    exact sget_supd_same 0 s.upd.withdrawn m.arg (· ||| 2 ^ m.origin)
  · rw [hupd']
    exact sget_supd_other 0 s.upd.withdrawn m.arg k (· ||| 2 ^ m.origin) hk

end
end Sys2Proof.Machine
end

section
/-! PROOFS. `APPLY` or the skip of a descriptor (R278, R344, R354, R358, R362), and O56. -/

namespace Sys2Proof.Machine

section
variable {s u t : State} {d : Bytes} {i : Nat} {dec : Decision}

/-! ### A descriptor is done -/

/-- An element lies in the buffer of a descriptor. -/
def inBuffer (d : Bytes) (b e : Nat) : Bool := decide (udGrad d ≤ 2048 * b + 16 * e ∧ 2048 * b + 16 * e < udGrad d + 16 * udElems d)
/-- The cached elements of a descriptor's buffer are dropped. -/
def dropCells (d : Bytes) (c : List CacheBlock) : List CacheBlock := c.map fun x => { x with cells := x.cells.filter fun e => !inBuffer d x.block e.1 }
/-- The buffer of descriptor `i` is zero, and it is noted as done. -/
def State.bufferCleared (s : State) (i : Nat) (d : Bytes) : State :=
  let v := s.setCache (udStack d) (dropCells d (s.cacheOf (udStack d)))
  { v with mem := clearRange v.mem (udGrad d) (16 * udElems d), upd := { v.upd with done := v.upd.done ++ [i], filled := sset [] v.upd.filled i [] } }
/-- The object of a descriptor is signalled. -/
def State.doneSignalled (s : State) (k : Nat) (d : Bytes) : State := if udDone d = 0xFFFF then s else s.signal (udSrc d) (udDone d % 0x4000) 1 k
/-- `APPLY` is over. -/
def State.applyOver (s : State) : State := { s with upd := { s.upd with applying := false } }
theorem State.finishDesc_eq (s : State) (k i : Nat) (d : Bytes) : let u := (s.bufferCleared i d).doneSignalled k d
    s.finishDesc k i d = if u.updates.length ≤ u.upd.done.length then u.applyOver else u := rfl
theorem State.doneSignalled_same (s : State) (k : Nat) (d : Bytes) : SameBut [.log, .skid, .sync, .host, .ctr, .out] s (s.doneSignalled k d) := by
  unfold State.doneSignalled
  split
  · exact Touch.refl _ s
  · exact State.signal_touch (List.Subset.refl _) s _ _ _ _ (Touch.refl _ s)
theorem State.doneSignalled_transit (k : Nat) (hdone : udDone d ≠ 0xFFFF) (hid : udDone d % 0x4000 < 0x3E00) : (s.doneSignalled k d).sync.transit =
    s.sync.transit ++ [⟨udSrc d, udDone d % 0x4000, 1, k, s.replica (udSrc d / 512)⟩] := by
  unfold State.doneSignalled
  rw [if_neg hdone, State.signal_object _ _ _ _ hid]

/-- A descriptor is done: its buffer is zero and its object signalled; the last one ends `APPLY`. -/
def DescDone (s t : State) (k i : Nat) (d : Bytes) : Prop :=
  t.upd.done = s.upd.done ++ [i] ∧
  t.upd.written = s.upd.written ∧
  (s.upd.applying = true → (t.upd.applying = false ↔ s.updates.length ≤ s.upd.done.length + 1)) ∧
  t.mem = clearRange s.mem (udGrad d) (16 * udElems d) ∧
  t.cacheOf (udStack d) = dropCells d (s.cacheOf (udStack d)) ∧
  (udDone d ≠ 0xFFFF → udDone d % 0x4000 < 0x3E00 →
       t.sync.transit = s.sync.transit ++ [⟨udSrc d, udDone d % 0x4000, 1, k, s.replica (udSrc d / 512)⟩])
theorem DescDone.done {s t : State} {k i : Nat} {d : Bytes} : DescDone s t k i d →
    t.upd.done = s.upd.done ++ [i]
  | ⟨h, _, _, _, _, _⟩ => h
theorem DescDone.written {s t : State} {k i : Nat} {d : Bytes} : DescDone s t k i d →
    t.upd.written = s.upd.written
  | ⟨_, h, _, _, _, _⟩ => h
theorem DescDone.applying {s t : State} {k i : Nat} {d : Bytes} : DescDone s t k i d →
    s.upd.applying = true → (t.upd.applying = false ↔ s.updates.length ≤ s.upd.done.length + 1)
  | ⟨_, _, h, _, _, _⟩ => h
theorem DescDone.mem {s t : State} {k i : Nat} {d : Bytes} : DescDone s t k i d →
    t.mem = clearRange s.mem (udGrad d) (16 * udElems d)
  | ⟨_, _, _, h, _, _⟩ => h
theorem DescDone.cache {s t : State} {k i : Nat} {d : Bytes} : DescDone s t k i d →
    t.cacheOf (udStack d) = dropCells d (s.cacheOf (udStack d))
  | ⟨_, _, _, _, h, _⟩ => h
theorem DescDone.transit {s t : State} {k i : Nat} {d : Bytes} : DescDone s t k i d →
    udDone d ≠ 0xFFFF → udDone d % 0x4000 < 0x3E00 →
       t.sync.transit = s.sync.transit ++ [⟨udSrc d, udDone d % 0x4000, 1, k, s.replica (udSrc d / 512)⟩]
  | ⟨_, _, _, _, _, h⟩ => h
theorem State.finishDesc_spec (s : State) (k i : Nat) (d : Bytes) : DescDone s (s.finishDesc k i d) k i d := by
  have hcache : (s.bufferCleared i d).cacheOf (udStack d) = dropCells d (s.cacheOf (udStack d)) := s.cacheOf_setCache _ _
  have hmem : (s.bufferCleared i d).mem = clearRange s.mem (udGrad d) (16 * udElems d) := rfl
  have hdone : (s.bufferCleared i d).upd.done = s.upd.done ++ [i] := rfl
  have hwritten : (s.bufferCleared i d).upd.written = s.upd.written := rfl
  have happlying : (s.bufferCleared i d).upd.applying = s.upd.applying := rfl
  have hjob : (s.bufferCleared i d).job = s.job := rfl
  have htransit : (s.bufferCleared i d).sync.transit = s.sync.transit := rfl
  have hreplica (n : Nat) : (s.bufferCleared i d).replica n = s.replica n := rfl
  rw [State.finishDesc_eq]
  generalize s.bufferCleared i d = v at *
  have hsame := v.doneSignalled_same k d
  have hsent := State.doneSignalled_transit (s := v) (d := d) k
  generalize v.doneSignalled k d = w at *
  have hupd : w.upd = v.upd := hsame .upd (by decide)
  have hcacheW : w.cacheOf (udStack d) = dropCells d (s.cacheOf (udStack d)) := (State.cacheOf_congr hupd _).trans hcache
  have hmemW : w.mem = clearRange s.mem (udGrad d) (16 * udElems d) := Eq.trans (hsame .mem (by decide)) hmem
  have hupdates : w.updates = s.updates := by
    unfold State.updates
    rw [show w.job = s.job from (hsame .job (by decide)).trans hjob]
  have hlen : w.upd.done.length = s.upd.done.length + 1 := by rw [hupd, hdone, List.length_append]; rfl
  rw [htransit] at hsent
  simp only [hreplica] at hsent
  rw [hupdates, hlen]
  split
  · next hlast => exact ⟨(congrArg Update.done hupd).trans hdone, (congrArg Update.written hupd).trans hwritten, fun _ => iff_of_true rfl hlast, hmemW, hcacheW, hsent⟩
  · next hmore =>
    refine ⟨(congrArg Update.done hupd).trans hdone, (congrArg Update.written hupd).trans hwritten, fun h => iff_of_false ?_ hmore, hmemW, hcacheW, hsent⟩
    rw [hupd, happlying, h]
    decide
theorem inBuffer_of {a : Nat} (ha : a % 16 = 0) (hlo : udGrad d ≤ a) (hhi : a < udGrad d + 16 * udElems d) : inBuffer d (a / 2048) (a % 2048 / 16) = true := by
  have haddr : 2048 * (a / 2048) + 16 * (a % 2048 / 16) = a := by omega
  unfold inBuffer
  rw [haddr]
  exact decide_eq_true ⟨hlo, hhi⟩
theorem cacheCell_dropCells {a : Nat} (h : inBuffer d (a / 2048) (a % 2048 / 16) = true) (c : List CacheBlock) : cacheCell (dropCells d c) a = none := by
  unfold cacheCell
  rw [List.findSome?_eq_none_iff]
  intro x hx
  obtain ⟨y, -, rfl⟩ := List.mem_map.1 hx
  split
  · next hblock =>
    rw [List.lookup_eq_none_iff]
    intro e he
    rw [bne_iff_ne]
    intro hcell
    have hout := (List.mem_filter.1 he).2
    dsimp only at hout hblock
    rw [hblock, ← hcell, h] at hout
    cases hout
  · rfl
theorem leNat_zeros {bs : Bytes} (h : ∀ b ∈ bs, b = 0#8) : leNat bs = 0 := by
  induction bs with
  | nil => rfl
  | cons b bs ih =>
    rw [leNat, h b (List.mem_cons_self ..), ih fun x hx => h x (List.mem_cons_of_mem _ hx)]
    rfl
theorem DescDone.zero {k : Nat} (h : DescDone s t k i d) (hd : udGrad d % 16 = 0) {j : Nat} (hj : j < udElems d) :
    t.gaeElem (udStack d) (udGrad d + 16 * j) = 0 := by
  rw [State.gaeElem_eq, h.cache, cacheCell_dropCells (inBuffer_of (by omega) (by omega) (by omega))]
  refine leNat_zeros fun b hb => ?_
  obtain ⟨o, ho, rfl⟩ := List.mem_map.1 hb
  have ho := List.mem_range.1 ho
  rw [h.mem]
  exact readByte_clearRange_in s.mem (by omega) (by omega)
theorem DescDone.bytes {k : Nat} (h : DescDone s t k i d) (a : Nat) :
    readByte t.mem a = if udGrad d ≤ a ∧ a < udGrad d + 16 * udElems d then 0#8 else readByte s.mem a := by
  rw [h.mem, readByte_clearRange, ← ite_not]
  refine if_congr ?_ rfl rfl
  omega

/-! ### Writes of `APPLY` -/

theorem leNat_leBytes (n x : Nat) (h : x < 256 ^ n) : leNat (leBytes n x) = x := by
  induction n generalizing x with
  | zero =>
    rw [Nat.pow_zero] at h
    rw [leBytes, leNat]
    omega
  | succ n ih =>
    rw [Nat.pow_succ] at h
    rw [leBytes, leNat, ih _ (Nat.div_lt_of_lt_mul (by omega)), BitVec.toNat_ofNat]
    omega
/-- Bytes written read back. -/
theorem readBytes_writeBytes (m : List (Nat × Byte)) (a : Nat) (xs ys : Bytes) : readBytes (writeBytes m a (xs ++ ys)) a xs.length = xs := by
  refine List.ext_getElem (by simp [readBytes]) fun j h1 h2 => ?_
  show ((List.range xs.length).map fun i => readByte (writeBytes m a (xs ++ ys)) (a + i))[j]'(by simpa using h2) = xs[j]
  rw [List.getElem_map, List.getElem_range, readByte_writeBytes_same _ _ _ _ (by rw [List.length_append]; omega), List.getElem_append_left h2]
theorem readBytes_congr {m m' : List (Nat × Byte)} {a n : Nat} (h : ∀ x, readByte m' x = readByte m x) : readBytes m' a n = readBytes m a n := by
  unfold readBytes
  exact List.map_congr_left fun j _ => h _
/-- With no page in a capture a write to HBM leaves the page tracker alone. -/
theorem State.toHbm_cow (hpages : s.cow.pages = []) (a : Nat) (bs : Bytes) : (s.toHbm a bs).cow = s.cow := by
  have hwrite (fuel : Nat) : ∀ (u : State) (a : Nat) (bs : Bytes), u.cow.pages = [] → (u.hbmWrite fuel a bs).cow = u.cow := by
    induction fuel with
    | zero => exact fun u a bs _ => rfl
    | succ fuel ih =>
      intro u a bs hu
      unfold State.hbmWrite
      split
      · rfl
      · unfold State.pageWrite State.pageState
        rw [hu]
        exact ih _ _ _ hu
  unfold State.toHbm
  dsimp only
  split
  · exact hwrite _ _ _ _ hpages
  · exact hwrite _ _ _ _ hpages
/-- A descriptor of no elements writes its counter record. -/
def emptyCounter (s : State) (k : Nat) (d : Bytes) : Bytes := newCounter (s.counterRec d) k ⟨[], [], false, false⟩
theorem emptyCounter_eq (s : State) (k : Nat) (d : Bytes) : ∃ rest, emptyCounter s k d = u64 (crApplied (s.counterRec d) + 1) ++ rest ∧ rest.length ≤ 56 := by
  refine ⟨_, (List.append_assoc _ _ _).trans ((List.append_assoc _ _ _).trans ((List.append_assoc _ _ _).trans (List.append_assoc _ _ _))), ?_⟩
  simp only [List.length_append, Bool.false_eq_true, if_false]
  unfold u64 u32 slice
  simp only [leBytes_length, List.length_take]
  omega
/-- The writes of `APPLY` of a descriptor of no elements. -/
def State.emptyWritten (s : State) (k i : Nat) (d : Bytes) : State := (s.notePass i d true).toHbm (udCounter d) (emptyCounter s k d)
theorem State.applyOne_empty (s : State) (k i : Nat) (clip : ℚ) (h : udElems d = 0) : ∃ w cts,
    s.applyOne k i d clip = ((((s.emptyWritten k i d).noteWork d k w).applyNonFinite d k 0).addCounts (udSrc d) k (udWatch d) (udNarrowFmt d) cts).addHist k
      (udWatch d) (udNarrowFmt d) (narrowVals d []) := by
  have hpass : s.applyPass d (sget {} s.upd.norms i) clip {} = (⟨[], [], false, false⟩, {}) := by
    unfold State.applyPass
    rw [if_pos h]
    rfl
  have hnarrow : narrowWrites d [] = ([], {}) := by
    unfold narrowWrites
    exact if_pos (.inr h)
  unfold State.applyOne
  rw [hpass]
  dsimp only
  rw [hnarrow]
  exact ⟨_, _, rfl⟩
/-- `APPLY` of a descriptor of no elements writes its counter record, and no other byte. -/
theorem State.applyOne_empty_spec (s : State) (k i : Nat) (clip : ℚ) (h : udElems d = 0) (hpages : s.cow.pages = []) :
    (s.applyOne k i d clip).mem = writeBytes s.mem (udCounter d) (emptyCounter s k d) ∧ (s.applyOne k i d clip).cow = s.cow := by
  obtain ⟨w, cts, heq⟩ := s.applyOne_empty k i clip h
  have hpass := State.notePass_touch (List.Subset.refl _) s i d true (Touch.refl _ s)
  have hmem : (s.emptyWritten k i d).mem = writeBytes s.mem (udCounter d) (emptyCounter s k d) := by
    unfold State.emptyWritten
    rw [State.toHbm_mem (by rw [hpass .cow (by decide)]; exact hpages), hpass .mem (by decide)]
  have hcow : (s.emptyWritten k i d).cow = s.cow := (State.toHbm_cow (by rw [hpass .cow (by decide)]; exact hpages) _ _).trans (hpass .cow (by decide))
  rw [heq]
  generalize s.emptyWritten k i d = v at *
  have hsame := State.addHist_touch (ps := [.log, .stats, .host, .ctr, .out]) (by decide) _ k (udWatch d) (udNarrowFmt d) (narrowVals d [])
    (State.addCounts_touch (by decide) _ (udSrc d) k (udWatch d) (udNarrowFmt d) cts
      (State.applyNonFinite_touch (by decide) _ d k 0 (State.noteWork_touch (List.Subset.refl _) v d k w (Touch.refl _ v))))
  exact ⟨(hsame .mem (by decide)).trans hmem, (hsame .cow (by decide)).trans hcow⟩

/-! ### APPLY_DESCRIPTOR_DONE -/

/-- `APPLY` has written descriptor `i`. -/
def State.writtenOne (s : State) (k i : Nat) (d : Bytes) (clip : ℚ) : State :=
  { s.applyOne k i d clip with upd := { (s.applyOne k i d clip).upd with written := (s.applyOne k i d clip).upd.written ++ [i] } }
section
variable (hdec : s.upd.decision = some dec) (hd : s.updates[i]? = some d)
include hdec hd
theorem exec_applyDone_idle (checks : List MemCheck) (h : s.upd.applying = false ∨ i ∈ s.upd.done) : exec (.applyDescriptorDone i checks) s = .next s := by
  show execApplyDescriptorDone i checks s = _
  unfold execApplyDescriptorDone
  rw [hdec, hd]
  dsimp only
  refine if_pos ?_
  rw [Bool.or_eq_true, Bool.not_eq_true', List.contains_iff_mem]
  exact h
variable (happlying : s.upd.applying = true) (htodo : i ∉ s.upd.done)
include happlying htodo
theorem exec_applyDone_skip (checks : List MemCheck) (h : dec.action = 1 ∨ udGroup d ∈ dec.skipped) :
    exec (.applyDescriptorDone i checks) s = .next (s.finishDesc dec.step i d) := by
  have hguard : (!s.upd.applying || s.upd.done.contains i) ≠ true := by
    rw [happlying]
    simpa using htodo
  show execApplyDescriptorDone i checks s = _
  unfold execApplyDescriptorDone
  rw [hdec, hd]
  dsimp only
  rw [if_neg hguard]
  exact if_pos (h.imp_right List.contains_iff_mem.2)
theorem exec_applyDone_first (haction : dec.action ≠ 1) (hgroup : udGroup d ∉ dec.skipped) (hwritten : i ∉ s.upd.written) :
    exec (.applyDescriptorDone i []) s = .next (if (s.writtenOne dec.step i d dec.clip).heldOn (udStack d) then s.writtenOne dec.step i d dec.clip
      else (s.writtenOne dec.step i d dec.clip).finishDesc dec.step i d) := by
  have hguard : (!s.upd.applying || s.upd.done.contains i) ≠ true := by
    rw [happlying]
    simpa using htodo
  have hnot : s.upd.written.contains i = false := by simpa using hwritten
  show execApplyDescriptorDone i [] s = _
  unfold execApplyDescriptorDone
  rw [hdec, hd]
  dsimp only
  rw [if_neg hguard, if_neg (fun h => h.elim haction fun h => hgroup (List.contains_iff_mem.1 h)), hnot]
  rfl
end
theorem State.writtenOne_upd (s : State) (k i : Nat) (d : Bytes) (clip : ℚ) : (s.writtenOne k i d clip).upd = { s.upd with written := s.upd.written ++ [i] } := by
  have hupd : (s.applyOne k i d clip).upd = s.upd := State.applyOne_touch (List.Subset.refl _) s k i d clip (Touch.refl _ s) .upd (by decide)
  show { (s.applyOne k i d clip).upd with written := (s.applyOne k i d clip).upd.written ++ [i] } = _
  rw [hupd]
theorem descriptorDone (s : State) (i : Nat) (d : Bytes) (dec : Decision) (hdec : s.upd.decision = some dec) (hd : s.updates[i]? = some d) :
    (∀ checks, s.upd.applying = false ∨ i ∈ s.upd.done → exec (.applyDescriptorDone i checks) s = .next s) ∧
    (s.upd.applying = true → i ∉ s.upd.done →
      (∀ checks, dec.action = 1 ∨ udGroup d ∈ dec.skipped → ∃ t, exec (.applyDescriptorDone i checks) s = .next t
        ∧ t.upd.done = s.upd.done ++ [i] ∧ (t.upd.applying = false ↔ s.updates.length ≤ s.upd.done.length + 1)
        ∧ (∀ a, readByte t.mem a = if udGrad d ≤ a ∧ a < udGrad d + 16 * udElems d then 0#8 else readByte s.mem a)
        ∧ (udGrad d % 16 = 0 → ∀ j, j < udElems d → t.gaeElem (udStack d) (udGrad d + 16 * j) = 0)
        ∧ (udDone d ≠ 0xFFFF → udDone d % 0x4000 < 0x3E00 → t.sync.transit = s.sync.transit ++ [⟨udSrc d, udDone d % 0x4000, 1, dec.step, s.replica (udSrc d / 512)⟩])) ∧
      (dec.action ≠ 1 → udGroup d ∉ dec.skipped → i ∉ s.upd.written →
        (∃ t, exec (.applyDescriptorDone i []) s = .next t ∧ i ∈ t.upd.written ∧
          let u := s.applyOne dec.step i d dec.clip
          if u.heldOn (udStack d) = true then t.upd.done = s.upd.done ∧ t.mem = u.mem
          else t.upd.done = s.upd.done ++ [i] ∧ t.mem = clearRange u.mem (udGrad d) (16 * udElems d)) ∧
        (udElems d = 0 → s.cow.pages = [] → s.cow.held = [] → udCounter d + 64 ≤ hbmEnd → Memory.wf s.mem = true → crApplied (s.counterRec d) + 1 < 2 ^ 64 →
          ∃ t, exec (.applyDescriptorDone i []) s = .next t ∧ leNat (readBytes t.mem (udCounter d) 8) = crApplied (s.counterRec d) + 1
            ∧ ∀ a, a < udCounter d ∨ udCounter d + 64 ≤ a → readByte t.mem a = readByte s.mem a))) := by
  refine ⟨fun checks h => exec_applyDone_idle hdec hd checks h, fun happlying htodo => ⟨fun checks hskip => ?_, fun haction hgroup hwritten => ?_⟩⟩
  · have hdone := s.finishDesc_spec dec.step i d
    exact ⟨_, exec_applyDone_skip hdec hd happlying htodo checks hskip, hdone.done, hdone.applying happlying, hdone.bytes, fun hgrad j hj => hdone.zero hgrad hj,
      hdone.transit⟩
  have hexec := exec_applyDone_first hdec hd happlying htodo haction hgroup hwritten
  have hupd := s.writtenOne_upd dec.step i d dec.clip
  have hmem : (s.writtenOne dec.step i d dec.clip).mem = (s.applyOne dec.step i d dec.clip).mem := rfl
  have hheld : (s.writtenOne dec.step i d dec.clip).heldOn (udStack d) = (s.applyOne dec.step i d dec.clip).heldOn (udStack d) := rfl
  have hcow : (s.writtenOne dec.step i d dec.clip).cow = (s.applyOne dec.step i d dec.clip).cow := rfl
  have hempty := s.applyOne_empty_spec (d := d) dec.step i dec.clip
  rw [hexec]
  generalize s.writtenOne dec.step i d dec.clip = v at *
  generalize s.applyOne dec.step i d dec.clip = w at *
  have hfinish := v.finishDesc_spec dec.step i d
  generalize v.finishDesc dec.step i d = y at *
  have hmember : i ∈ v.upd.written := by
    rw [hupd]
    exact List.mem_append_right _ (List.mem_singleton.2 rfl)
  have hdone : v.upd.done = s.upd.done := by rw [hupd]
  constructor
  · refine ⟨_, rfl, ?_⟩
    dsimp only
    rw [hheld]
    by_cases hwait : w.heldOn (udStack d) = true
    · rw [if_pos hwait, if_pos hwait]
      exact ⟨hmember, hdone, hmem⟩
    · rw [if_neg hwait, if_neg hwait]
      exact ⟨by rw [hfinish.written]; exact hmember, by rw [hfinish.done, hdone], by rw [hfinish.mem, hmem]⟩
  · intro hno hpages hnone _ _ hfits
    obtain ⟨hmemW, hcowW⟩ := hempty hno hpages
    have hfree : v.heldOn (udStack d) ≠ true := by
      unfold State.heldOn
      rw [hcow, hcowW, hnone]
      exact Bool.false_ne_true
    obtain ⟨rest, hrec, hlen⟩ := emptyCounter_eq s dec.step d
    have hu64 : (u64 (crApplied (s.counterRec d) + 1)).length = 8 := leBytes_length _ _
    have hread (a : Nat) : readByte y.mem a = readByte (writeBytes s.mem (udCounter d) (emptyCounter s dec.step d)) a := by
      rw [hfinish.bytes a, hno, if_neg (by omega), hmem, hmemW]
    rw [if_neg hfree]
    refine ⟨y, rfl, ?_, fun a ha => ?_⟩
    · rw [readBytes_congr hread, hrec]
      have hback := readBytes_writeBytes s.mem (udCounter d) (u64 (crApplied (s.counterRec d) + 1)) rest
      rw [hu64] at hback
      rw [hback]
      exact leNat_leBytes 8 _ (by omega)
    · rw [hread, hrec]
      refine readByte_writeBytes_other _ _ _ _ (ha.imp_right fun h => ?_)
      rw [List.length_append, hu64]
      omega
end

/-- Settles O56: a gradient row is added exactly by way of the combining cache, waits, is dropped or is a fault; a descriptor that is done is
zero in its buffer and in the cache, and its counter record is written through the page tracker. -/
theorem contributionsAreTakenAndApplied : Obligations.ContributionsAreTakenAndApplied := by
  unfold Obligations.ContributionsAreTakenAndApplied
  exact ⟨ownRows, peerRow, deadlineOfDescriptor, withdrawalTaken, descriptorDone⟩

end Sys2Proof.Machine
end

section
/-! PROOFS. The NORM pass, the combine up and down its tree, and the decision (R354 to R357, R386), and O57. -/

namespace Sys2Proof.Machine

section
variable {s u t : State} {m : Msg} {k : Nat} {r own : CombineRec}

/-! ### A record goes up once those of the children are here (R386) -/

/-- The records of children of this module for a step. -/
def State.childRecords (s : State) (k : Nat) : List (Nat × CombineRec) := s.upd.ups.filter fun u => u.2.step = k ∧ s.treeChildren.contains u.1
/-- Every child's record is here. -/
def State.childrenHere (s : State) (k : Nat) : Bool := s.treeChildren.all fun c => (s.childRecords k).any fun u => u.1 = c
/-- This module's record with those of its children. -/
def State.joinedRecord (s : State) (k : Nat) (r : CombineRec) : CombineRec := (s.childRecords k).foldl (fun a u => a.join u.2) r
/-- The joined record is kept as the one that goes up. -/
def State.joinedUp (s : State) (k : Nat) (r : CombineRec) : State :=
  { s with upd := { s.upd with sentUp := true, record := some (s.joinedRecord k r), ups := s.upd.ups.filter fun u => u.2.step ≠ k } }
/-- A record goes to the parent; the root keeps it. -/
def State.sentToParent (s : State) (k : Nat) (all : CombineRec) : State :=
  match s.treeParent with
  | some p => s.sendTo wardenSrc 6 p k all.bytes
  | none => s
theorem State.tryUp_idle (h : s.upd.normStep = none ∨ s.upd.record = none ∨ s.upd.sentUp = true) : s.tryUp = s := by
  unfold State.tryUp
  split
  · next hnorm hrecord =>
    refine if_pos ?_
    rw [hnorm, hrecord] at h
    rcases h with h | h | h
    · cases h
    · cases h
    · rw [h, Bool.true_or]
  · rfl
section
variable (hnorm : s.upd.normStep = some k) (hrecord : s.upd.record = some r) (hsent : s.upd.sentUp = false)
include hnorm hrecord hsent
theorem State.tryUp_eq : s.tryUp = if s.childrenHere k = true then (s.joinedUp k r).sentToParent k (s.joinedRecord k r) else s := by
  unfold State.tryUp
  rw [hnorm, hrecord, hsent]
  show (if (false || !s.childrenHere k) = true then s else (s.joinedUp k r).sentToParent k (s.joinedRecord k r)) = _
  cases s.childrenHere k <;> rfl
theorem State.tryUp_waits (hchildren : s.treeChildren ≠ []) (hups : s.upd.ups = []) : s.tryUp = s := by
  rw [State.tryUp_eq hnorm hrecord hsent]
  refine if_neg ?_
  obtain ⟨c, l, hc⟩ := List.exists_cons_of_ne_nil hchildren
  unfold State.childrenHere State.childRecords
  rw [hups, hc]
  exact Bool.false_ne_true
end
theorem State.sentToParent_same (s : State) (k : Nat) (all : CombineRec) : SameBut [.log, .skid, .out] s (s.sentToParent k all) := by
  unfold State.sentToParent
  split
  · exact State.sendTo_touch (List.Subset.refl _) s _ _ _ _ _ (Touch.refl _ s)
  · exact Touch.refl _ s
theorem State.sentUp_upd (s : State) (k : Nat) (r all : CombineRec) : ((s.joinedUp k r).sentToParent k all).upd =
    { s.upd with sentUp := true, record := some (s.joinedRecord k r), ups := s.upd.ups.filter fun u => u.2.step ≠ k } :=
  (State.sentToParent_same (s.joinedUp k r) k all) .upd (by decide)
theorem State.treeChildren_of (hjob : t.job = s.job) (hnet : t.net.graph = s.net.graph) : t.treeChildren = s.treeChildren := by
  unfold State.treeChildren
  rw [self_of hjob, hnet]
theorem State.treeParent_of (hjob : t.job = s.job) (hnet : t.net.graph = s.net.graph) : t.treeParent = s.treeParent := by
  unfold State.treeParent
  rw [self_of hjob, hnet]

/-! ### The pass of NORM (R354) -/

/-- The pass over one descriptor notes its norms and its work. -/
def State.normOne (s : State) (k : Nat) (x : Bytes × Nat) : State :=
  let p := s.normPass x.1 (sget {} s.upd.norms x.2) {}
  (({ s with upd := { s.upd with norms := sset {} s.upd.norms x.2 p.1 } }).noteWork x.1 k p.2).notePass x.2 x.1 false
/-- The pass over every descriptor. -/
def State.normAll (s : State) (k : Nat) : State := s.updates.zipIdx.foldl (fun s x => s.normOne k x) s
/-- This module's record is formed. -/
def State.normFormed (s : State) (k : Nat) : State := { s with upd := { s.upd with passDone := true, record := some (s.ownRecord k) } }
theorem State.normOne_same (s : State) (k : Nat) (x : Bytes × Nat) : SameBut [.log, .stats, .upd, .host, .ctr, .out] s (s.normOne k x) ∧
    { (s.normOne k x).upd with norms := [] } = { s.upd with norms := [] } := by
  have hset := sb_upd s { s.upd with norms := sset {} s.upd.norms x.2 (s.normPass x.1 (sget {} s.upd.norms x.2) {}).1 }
  have hupd : { ({ s with upd := { s.upd with norms := sset {} s.upd.norms x.2 (s.normPass x.1 (sget {} s.upd.norms x.2) {}).1 } } : State).upd with norms := [] } =
    { s.upd with norms := [] } := rfl
  unfold State.normOne
  dsimp only
  generalize ({ s with upd := { s.upd with norms := sset {} s.upd.norms x.2 (s.normPass x.1 (sget {} s.upd.norms x.2) {}).1 } } : State) = v at *
  have hwork := State.notePass_touch (ps := [.log, .stats, .host, .ctr, .out]) (by decide) _ x.2 x.1 false
    (State.noteWork_touch (List.Subset.refl _) v x.1 k (s.normPass x.1 (sget {} s.upd.norms x.2) {}).2 (Touch.refl _ v))
  refine ⟨(hset.trans hwork).mono (by decide), Eq.trans ?_ hupd⟩
  exact congrArg (fun x : Update => { x with norms := [] }) (hwork .upd (by decide))
theorem State.normAll_same (s : State) (k : Nat) : SameBut [.log, .stats, .upd, .host, .ctr, .out] s (s.normAll k) ∧
    { (s.normAll k).upd with norms := [] } = { s.upd with norms := [] } := by
  unfold State.normAll
  exact ⟨touch_foldl _ (fun u x hu => (hu.trans (State.normOne_same u k x).1).mono (by decide)) (Touch.refl _ s),
    foldl_same (fun s : State => { s.upd with norms := [] }) _ _ _ fun u x => (State.normOne_same u k x).2⟩
theorem exec_normPass_idle (h : s.upd.normStep = none ∨ s.upd.passDone = true) (checks : List MemCheck) : exec (.normPassComplete checks) s = .next s := by
  show execNormPassComplete checks s = _
  unfold execNormPassComplete
  split
  · rfl
  · next k hnorm =>
    rw [hnorm] at h
    exact if_pos (h.resolve_left (Option.some_ne_none _))
section
variable (hnorm : s.upd.normStep = some k) (hpass : s.upd.passDone = false)
include hnorm hpass
theorem exec_normPass_good : exec (.normPassComplete []) s = .next ((s.normAll k).normFormed k).tryUp := by
  show execNormPassComplete [] s = _
  unfold execNormPassComplete
  rw [hnorm, hpass]
  rfl
theorem exec_normPass_bad {checks : List MemCheck} (h : s.checked checks = (false, t)) : exec (.normPassComplete checks) s = .next t := by
  show execNormPassComplete checks s = _
  unfold execNormPassComplete
  rw [hnorm, hpass]
  dsimp only
  rw [h]
  rfl
end
theorem normPassEnds (s : State) : ∃ t, exec (.normPassComplete []) s = .next t ∧ t.mem = s.mem ∧
    (s.upd.normStep = none ∨ s.upd.passDone = true → t = s) ∧
    (∀ k, s.upd.normStep = some k → s.upd.passDone = false → t.upd.passDone = true ∧ t.upd.record ≠ none ∧ t.job.state = s.job.state ∧
      (s.treeChildren = [] → s.upd.sentUp = false → t.upd.sentUp = true) ∧
      (s.treeChildren ≠ [] → s.upd.ups = [] → t.upd.sentUp = s.upd.sentUp) ∧
      (s.treeChildren ≠ [] → s.upd.ups = [] → s.updates = [] → t.upd.record = some (s.ownRecord k) ∧ SameBut [.upd] s t)) := by
  by_cases hidle : s.upd.normStep = none ∨ s.upd.passDone = true
  · refine ⟨s, exec_normPass_idle hidle [], rfl, fun _ => rfl, fun k hnorm hpass => ?_⟩
    rw [hnorm, hpass] at hidle
    rcases hidle with h | h <;> cases h
  obtain ⟨hnone, hpass⟩ := not_or.1 hidle
  obtain ⟨k, hnorm⟩ := Option.ne_none_iff_exists'.1 hnone
  have hpass : s.upd.passDone = false := Bool.eq_false_of_not_eq_true hpass
  obtain ⟨hall, hupd⟩ := s.normAll_same k
  have hempty : s.updates = [] → s.normAll k = s := fun h => by
    unfold State.normAll
    rw [h]
    rfl
  rw [exec_normPass_good hnorm hpass]
  generalize s.normAll k = v at *
  have hover : SameBut [.upd] v (v.normFormed k) := sb_upd v _
  have hnormV : (v.normFormed k).upd.normStep = some k := (congrArg Update.normStep hupd :).trans hnorm
  have hrecordV : (v.normFormed k).upd.record = some (v.ownRecord k) := rfl
  have hpassV : (v.normFormed k).upd.passDone = true := rfl
  have hsentV : (v.normFormed k).upd.sentUp = s.upd.sentUp := (congrArg Update.sentUp hupd :)
  have hupsV : (v.normFormed k).upd.ups = s.upd.ups := (congrArg Update.ups hupd :)
  have hchildren : (v.normFormed k).treeChildren = s.treeChildren := State.treeChildren_of ((hover .job (by decide)).trans (hall .job (by decide)))
    (congrArg Net.graph ((hover .net (by decide)).trans (hall .net (by decide))))
  have hempty' : s.updates = [] → SameBut [.upd] s (v.normFormed k) ∧ v.ownRecord k = s.ownRecord k := fun h => by
    rw [hempty h] at hover ⊢
    exact ⟨hover, rfl⟩
  have hsame : SameBut [.log, .stats, .upd, .host, .ctr, .out] s (v.normFormed k) := (hall.trans hover).mono (by decide)
  generalize v.normFormed k = w at *
  have hup := State.tryUp_touch (List.Subset.refl _) w (Touch.refl _ w)
  have hmem : w.tryUp.mem = s.mem := (hup .mem (by decide)).trans (hsame .mem (by decide))
  have hjob : w.tryUp.job = s.job := (hup .job (by decide)).trans (hsame .job (by decide))
  refine ⟨_, rfl, hmem, fun h => absurd h hidle, fun k' hnorm' _ => ?_⟩
  obtain rfl : k = k' := Option.some_injective _ (hnorm.symm.trans hnorm')
  by_cases hsent : s.upd.sentUp = true
  · have hstays : w.tryUp = w := State.tryUp_idle (.inr (.inr (hsentV.trans hsent)))
    rw [hstays] at hjob ⊢
    refine ⟨hpassV, by rw [hrecordV]; exact Option.some_ne_none _, congrArg Job.state hjob, fun _ h => ?_, fun _ _ => hsentV, fun _ _ h => ?_⟩
    · rw [hsent] at h
      cases h
    · obtain ⟨hbut, hown⟩ := hempty' h
      exact ⟨by rw [hrecordV, hown], hbut⟩
  have hsent : s.upd.sentUp = false := Bool.eq_false_of_not_eq_true hsent
  have hwaits (h : s.treeChildren ≠ []) (hups : s.upd.ups = []) : w.tryUp = w :=
    State.tryUp_waits hnormV hrecordV (hsentV.trans hsent) (by rw [hchildren]; exact h) (hupsV.trans hups)
  have hparts : w.tryUp.upd.passDone = true ∧ w.tryUp.upd.record ≠ none ∧ (s.treeChildren = [] → w.tryUp.upd.sentUp = true) := by
    rw [State.tryUp_eq hnormV hrecordV (hsentV.trans hsent)]
    split
    · rw [State.sentUp_upd]
      exact ⟨hpassV, Option.some_ne_none _, fun _ => rfl⟩
    · next hmissing =>
      refine ⟨hpassV, by rw [hrecordV]; exact Option.some_ne_none _, fun h => absurd ?_ hmissing⟩
      unfold State.childrenHere
      rw [hchildren, h]
      rfl
  obtain ⟨hdone, hkept, hgone⟩ := hparts
  refine ⟨hdone, hkept, congrArg Job.state hjob, fun h _ => hgone h, fun h hups => ?_, fun h hups hnone => ?_⟩
  · rw [hwaits h hups]
    exact hsentV
  · obtain ⟨hbut, hown⟩ := hempty' hnone
    rw [hwaits h hups]
    exact ⟨by rw [hrecordV, hown], hbut⟩
theorem normPassReadFails (s : State) (die code line k : Nat) (reads : List LineRead) (hnorm : s.upd.normStep = some k) (hpass : s.upd.passDone = false)
    (hreads : rereadsUsed 1 (lineOk code line) reads = none) :
    ∃ t, exec (.normPassComplete [.sram die code line reads]) s = .next t ∧ Faulted t (dieSrc die) 0x1100 ∧ t.safe.latch = true ∧ t.mem = s.mem := by
  obtain ⟨d, hline⟩ := State.checkedLine_bad (s := s) (die := die) hreads
  obtain ⟨hfaulted, hlatch, hmem, -⟩ := fault_spec_of s (u := s) (dieSrc die) 0x1100 d rfl rfl
  exact ⟨_, exec_normPass_bad hnorm hpass ((s.checked_one _).trans hline), hfaulted, hlatch, hmem⟩

/-! ### The record of a child -/

/-- A child's record is noted. -/
def State.upNoted (s : State) (m : Msg) : State := { s with upd := { s.upd with ups := s.upd.ups ++ [(m.origin, combineOf m.body)] } }
theorem exec_combineUp_other (h : m.origin ∉ s.treeChildren ∨ s.job.state = .fault) :
    exec (.combineUp m) s = .next { s with net := { s.net with inbox := s.net.inbox.erase m } } := by
  have hnot : ¬((s.onMsg m).treeChildren.contains m.origin = true ∧ (s.onMsg m).job.state ≠ .fault) := by
    rintro ⟨hchild, hstate⟩
    exact h.elim (fun h => h (List.contains_iff_mem.1 hchild)) fun h => hstate h
  show execCombineUp m s = _
  unfold execCombineUp
  rw [State.taken_eq, if_neg hnot]
  rfl
theorem exec_combineUp_child (hchild : m.origin ∈ s.treeChildren) (hstate : s.job.state ≠ .fault) :
    exec (.combineUp m) s = .next (((s.onMsg m).upNoted m).tryUp.recause s.log.cause) := by
  show execCombineUp m s = _
  unfold execCombineUp
  rw [State.taken_eq, if_pos ⟨List.contains_iff_mem.2 hchild, hstate⟩]
  rfl
theorem childRecord (s : State) (m : Msg) : ∃ t, exec (.combineUp m) s = .next t ∧ t.mem = s.mem ∧
    (m.origin ∉ s.treeChildren ∨ s.job.state = .fault → t = { s with net := { s.net with inbox := s.net.inbox.erase m } }) ∧
    (m.origin ∈ s.treeChildren → s.job.state ≠ .fault → s.upd.normStep = none ∨ s.upd.record = none ∨ s.upd.sentUp = true →
      SameBut [.upd, .net] s t ∧ t.upd = { s.upd with ups := s.upd.ups ++ [(m.origin, combineOf m.body)] }) ∧
    (∀ k r, s.treeChildren = [m.origin] → s.job.state ≠ .fault → s.upd.normStep = some k → s.upd.record = some r → s.upd.sentUp = false →
      s.upd.ups = [] → (combineOf m.body).step = k → t.upd.sentUp = true ∧ t.upd.record = some (r.join (combineOf m.body)) ∧
        (∀ p n, s.treeParent = some p → routePort s.net.graph s.self s.self p = some n →
          ∃ a : Msg, Output.message a ∈ t.out ∧ a.kind = 6 ∧ a.dst = p ∧ a.arg = k ∧ a.port = n ∧ a.body = (r.join (combineOf m.body)).bytes)) := by
  by_cases hother : m.origin ∉ s.treeChildren ∨ s.job.state = .fault
  · refine ⟨_, exec_combineUp_other hother, rfl, fun _ => rfl, fun h1 h2 => absurd hother (not_or.2 ⟨not_not.2 h1, h2⟩), fun k r h1 h2 => ?_⟩
    refine absurd hother (not_or.2 ⟨not_not.2 ?_, h2⟩)
    rw [h1]
    exact List.mem_singleton.2 rfl
  obtain ⟨hchild, hstate⟩ := not_or.1 hother
  have hchild := not_not.1 hchild
  rw [exec_combineUp_child hchild hstate]
  have hidle : s.upd.normStep = none ∨ s.upd.record = none ∨ s.upd.sentUp = true →
      ((s.onMsg m).upNoted m).tryUp.recause s.log.cause = (s.upNoted m).took m := fun h => by
    rw [State.tryUp_idle (s := (s.onMsg m).upNoted m) h]
    rfl
  have hnoted : SameBut [.log, .net, .upd] s ((s.onMsg m).upNoted m) := ((sb_onMsg s m).trans (sb_upd (s.onMsg m) _)).mono (by decide)
  have hupd : ((s.onMsg m).upNoted m).upd = { s.upd with ups := s.upd.ups ++ [(m.origin, combineOf m.body)] } := rfl
  have hgraph : ((s.onMsg m).upNoted m).net.graph = s.net.graph := rfl
  have hjob : ((s.onMsg m).upNoted m).job = s.job := rfl
  generalize (s.onMsg m).upNoted m = v at *
  have hup := State.tryUp_touch (List.Subset.refl _) v (Touch.refl _ v)
  refine ⟨_, rfl, (hup .mem (by decide)).trans (hnoted .mem (by decide)), fun h => absurd h hother, fun _ _ h => ?_, fun k r honly _ hnorm hrecord hsent hups hstep => ?_⟩
  · rw [hidle h]
    exact ⟨((sb_upd s _).trans (sb_took (s.upNoted m) m)).mono (by decide), rfl⟩
  have hchildren : v.treeChildren = [m.origin] := (State.treeChildren_of hjob hgraph).trans honly
  have hrecords : v.childRecords k = [(m.origin, combineOf m.body)] := by
    unfold State.childRecords
    rw [hupd, hchildren, hups, List.nil_append]
    refine List.filter_eq_self.2 fun u hu => ?_
    rw [List.mem_singleton.1 hu]
    exact decide_eq_true ⟨hstep, by simp⟩
  have hhere : v.childrenHere k = true := by
    unfold State.childrenHere
    rw [hchildren, hrecords]
    simp
  have hjoined : v.joinedRecord k r = r.join (combineOf m.body) := by
    unfold State.joinedRecord
    rw [hrecords]
    rfl
  have hnormV : v.upd.normStep = some k := (congrArg Update.normStep hupd).trans hnorm
  have hrecordV : v.upd.record = some r := (congrArg Update.record hupd).trans hrecord
  have hsentV : v.upd.sentUp = false := (congrArg Update.sentUp hupd).trans hsent
  rw [State.tryUp_eq hnormV hrecordV hsentV, if_pos hhere]
  have hresult := v.sentUp_upd k r (v.joinedRecord k r)
  rw [hjoined] at hresult ⊢
  refine ⟨congrArg Update.sentUp hresult, congrArg Update.record hresult, fun p n hparent hroute => ?_⟩
  have hparentV : (v.joinedUp k r).treeParent = some p := (State.treeParent_of (s := s) hjob hgraph).trans hparent
  have hrouteV : routePort (v.joinedUp k r).net.graph (v.joinedUp k r).self (v.joinedUp k r).self p = some n := by
    have hselfV : (v.joinedUp k r).self = s.self := self_of (s := s) (t := v.joinedUp k r) hjob
    have hgraphV : (v.joinedUp k r).net.graph = s.net.graph := hgraph
    rw [hselfV, hgraphV]
    exact hroute
  generalize v.joinedUp k r = w at *
  have hsentTo : w.sentToParent k (r.join (combineOf m.body)) = w.sendOn n wardenSrc 6 p k (r.join (combineOf m.body)).bytes := by
    unfold State.sentToParent
    rw [hparentV]
    dsimp only
    unfold State.sendTo
    rw [hrouteV]
  have hout := w.putMsg_out n none (w.newMsg wardenSrc 6 p k (r.join (combineOf m.body)).bytes)
  refine ⟨{ w.newMsg wardenSrc 6 p k (r.join (combineOf m.body)).bytes with port := n }, ?_, rfl, rfl, rfl, rfl, rfl⟩
  rw [hsentTo]
  exact hout

/-! ### The decision (R356) -/

/-- A fault for a record that must not be applied. -/
def Fails (t : State) (code : Nat) : Prop := Faulted t wardenSrc code ∧ t.safe.latch = true
/-- The decision on a record is kept, without a fault. -/
def Goes (s t : State) (r : CombineRec) (action : Nat) (skipped : List Nat) : Prop :=
  t.upd.normStep = none ∧ t.safe = s.safe ∧ t.upd.decision = some ⟨r.step, action, skipped, (s.clipOf r).1, (s.clipOf r).2⟩
/-- What a decision on a record leaves. -/
def Decides (s : State) (r : CombineRec) (t : State) : Prop :=
  match s.decide356 r with
  | .stepSkew _ _ _ => Fails t 0x5002
  | .groupSkew _ => Fails t 0x5003
  | .withdrawLate => Fails t 0x5008
  | .halt => Fails t 0x5001
  | .skip => Goes s t r 1 [] ∧ t.count kStepsSkipped = s.count kStepsSkipped + 1
  | .apply sk => Goes s t r 0 sk ∧ t.count kGroupSkips = s.count kGroupSkips + sk.length
/-- The action of a decision, and the groups it skips. -/
def Verdict356.action : Verdict356 → Nat × List Nat
  | .apply sk => (0, sk)
  | .skip => (1, [])
  | _ => (2, [])
/-- The decision on a record is kept. -/
def State.decisionKept (s : State) (r : CombineRec) : State :=
  { s with net := { s.net with combineStep := r.step, combineStamp := s.stamp,
                               combineDepth := (((List.range s.modules).filterMap fun m => hops s.net.graph m 0).foldl max 0) },
           upd := { s.upd with normStep := none,
                               decision := some ⟨r.step, (s.decide356 r).action.1, (s.decide356 r).action.2, (s.clipOf r).1, (s.clipOf r).2⟩,
                               last := [r.step, (s.decide356 r).action.1, (s.decide356 r).action.2.length, popCount r.withdrawn, f32Code (s.clipOf r).1,
                                 f32Code (s.clipOf r).2] } }
/-- Groups are noted as skipped. -/
def State.groupsSkipped (s : State) (sk : List Nat) : State := sk.foldl (fun s g => (s.bump kGroupSkips 1).event (s.groupSrc g) 0x5004 (u16 g)) s
/-- What follows from a verdict. -/
def State.verdictTaken (s : State) : Verdict356 → State
  | .stepSkew g lo hi => s.fault wardenSrc 0x5002 (u16 g ++ u32 lo ++ u32 hi)
  | .groupSkew g => s.fault wardenSrc 0x5003 (u16 g)
  | .withdrawLate => s.fault wardenSrc 0x5008
  | .halt => s.fault wardenSrc 0x5001
  | .skip => (s.bump kStepsSkipped 1).event wardenSrc 0x5000
  | .apply sk => s.groupsSkipped sk
theorem State.takeDecision_eq (s : State) (r : CombineRec) : s.takeDecision r = (s.decisionKept r).verdictTaken (s.decide356 r) := by
  unfold State.takeDecision State.decisionKept
  dsimp only
  cases s.decide356 r <;> rfl
theorem State.groupsSkipped_spec (sk : List Nat) (s : State) : SameBut [.log, .host, .ctr, .out] s (s.groupsSkipped sk) ∧
    (s.groupsSkipped sk).count kGroupSkips = s.count kGroupSkips + sk.length := by
  induction sk generalizing s with
  | nil => exact ⟨Touch.refl _ s, rfl⟩
  | cons g sk ih =>
    have hone := State.event_touch (List.Subset.refl _) (s.bump kGroupSkips 1) (s.groupSrc g) 0x5004 (u16 g) (State.bump_touch (by decide) s kGroupSkips 1 (Touch.refl _ s))
    have htold := (told_event (s.bump kGroupSkips 1) (s.groupSrc g) 0x5004 (u16 g)).counts kGroupSkips (by decide) (by decide) (by decide)
    rw [State.bump_count] at htold
    obtain ⟨hsame, hcount⟩ := ih ((s.bump kGroupSkips 1).event (s.groupSrc g) 0x5004 (u16 g))
    refine ⟨(hone.trans hsame).mono (by decide), hcount.trans ?_⟩
    rw [htold, List.length_cons]
    omega
theorem State.takeDecision_spec (s : State) (r : CombineRec) : Decides s r (s.takeDecision r) := by
  have hkept : (s.decisionKept r).upd.normStep = none := rfl
  have hsafe : (s.decisionKept r).safe = s.safe := rfl
  have hdecision : (s.decisionKept r).upd.decision =
    some ⟨r.step, (s.decide356 r).action.1, (s.decide356 r).action.2, (s.clipOf r).1, (s.clipOf r).2⟩ := rfl
  have hcount (n : Nat) : (s.decisionKept r).count n = s.count n := rfl
  have hfault (u : State) (code : Nat) (d : Bytes) : Fails (u.fault wardenSrc code d) code := by
    obtain ⟨hfaulted, hlatch, -⟩ := u.fault_spec wardenSrc code d
    exact ⟨hfaulted, hlatch⟩
  rw [State.takeDecision_eq]
  unfold Decides
  generalize s.decisionKept r = v at *
  generalize s.decide356 r = verdict at *
  cases verdict with
  | stepSkew g lo hi => exact hfault _ _ _
  | groupSkew g => exact hfault _ _ _
  | withdrawLate => exact hfault _ _ _
  | halt => exact hfault _ _ _
  | skip =>
    have hsame := State.event_touch (List.Subset.refl _) (v.bump kStepsSkipped 1) wardenSrc 0x5000 [] (State.bump_touch (by decide) v kStepsSkipped 1 (Touch.refl _ v))
    have htold := (told_event (v.bump kStepsSkipped 1) wardenSrc 0x5000 []).counts kStepsSkipped (by decide) (by decide) (by decide)
    rw [State.bump_count, hcount] at htold
    have hupd : ((v.bump kStepsSkipped 1).event wardenSrc 0x5000 []).upd = v.upd := hsame .upd (by decide)
    exact ⟨⟨(congrArg Update.normStep hupd).trans hkept, (hsame .safe (by decide)).trans hsafe, (congrArg Update.decision hupd).trans hdecision⟩, htold⟩
  | apply sk =>
    obtain ⟨hsame, hskips⟩ := State.groupsSkipped_spec sk v
    have hupd : (v.groupsSkipped sk).upd = v.upd := hsame .upd (by decide)
    rw [hcount] at hskips
    exact ⟨⟨(congrArg Update.normStep hupd).trans hkept, (hsame .safe (by decide)).trans hsafe, (congrArg Update.decision hupd).trans hdecision⟩, hskips⟩
/-- Messages and the inbox do not count in a decision. -/
theorem Decides.of_same (hsame : SameBut [.log, .skid, .net, .out] s u) (h : Decides u r t) : Decides s r t := by
  have htally : u.tally = s.tally := hsame .tally (by decide)
  have hupd : u.upd = s.upd := hsame .upd (by decide)
  have hsafe : u.safe = s.safe := hsame .safe (by decide)
  have hctr : u.ctr = s.ctr := hsame .ctr (by decide)
  have hactive (i n d : Nat) : u.active i n d = s.active i n d := by
    unfold State.active
    rw [htally]
  have hverdict : u.decide356 r = s.decide356 r := by
    unfold State.decide356 State.asIs
    rw [hupd, hactive, hactive]
  have hclip : u.clipOf r = s.clipOf r := by
    unfold State.clipOf
    rw [hactive]
  have hcount (n : Nat) : u.count n = s.count n := by
    unfold State.count
    rw [hctr]
  unfold Decides Goes at *
  rw [hverdict, hclip, hsafe, hcount, hcount] at h
  exact h
theorem Decides.recause (h : Decides s r t) (c : Nat) : Decides s r (t.recause c) := by
  unfold Decides at *
  cases hverdict : s.decide356 r with
  | _ =>
    rw [hverdict] at h
    exact h

/-! ### The final record goes down (R386) -/

/-- A record goes to every child. -/
def State.sentDown (s : State) (k : Nat) (bs : Bytes) : State := s.treeChildren.foldl (fun s c => s.sendTo wardenSrc 7 c k bs) s
theorem State.sentDown_same (s : State) (k : Nat) (bs : Bytes) : SameBut [.log, .skid, .out] s (s.sentDown k bs) :=
  touch_foldl _ (fun u _ hu => State.sendTo_touch (List.Subset.refl _) u _ _ _ _ _ hu) (Touch.refl _ s)
theorem State.sentDown_decides (s : State) (k : Nat) (bs : Bytes) (r : CombineRec) : Decides s r ((s.sentDown k bs).takeDecision r) ∧
    ((s.sentDown k bs).takeDecision r).mem = s.mem := by
  have hdown := s.sentDown_same k bs
  generalize s.sentDown k bs = v at *
  exact ⟨(v.takeDecision_spec r).of_same (hdown.mono (by decide)),
    (State.takeDecision_touch (List.Subset.refl _) v r (Touch.refl _ v) .mem (by decide)).trans (hdown .mem (by decide))⟩
section
variable (hnorm : s.upd.normStep = some k) (hrecord : s.upd.record = some own)
include hnorm hrecord
theorem exec_combineDown_early (m : Option Msg) (h : s.upd.sentUp = false) : exec (.combineDown m) s = .next s := by
  show execCombineDown m s = _
  unfold execCombineDown
  rw [hnorm, hrecord, h]
  rfl
variable (hsent : s.upd.sentUp = true)
include hsent
theorem exec_combineDown_own : exec (.combineDown none) s = .next (match s.treeParent with | some _ => s | none => (s.sentDown k own.bytes).takeDecision own) := by
  show execCombineDown none s = _
  unfold execCombineDown
  rw [hnorm, hrecord, hsent]
  dsimp only
  cases s.treeParent <;> rfl
theorem exec_combineDown_parent (m : Msg) : exec (.combineDown (some m)) s = .next (if m.arg = k ∧ s.treeParent = some m.origin then
    (((s.onMsg m).sentDown k m.body).takeDecision (combineOf m.body)).recause s.log.cause else s) := by
  show execCombineDown (some m) s = _
  unfold execCombineDown
  rw [hnorm, hrecord, hsent]
  dsimp only
  rw [State.taken_eq]
  rfl
end
theorem finalRecord (s : State) (k : Nat) (own : CombineRec) (hnorm : s.upd.normStep = some k) (hrecord : s.upd.record = some own) :
    (∀ m, s.upd.sentUp = false → exec (.combineDown m) s = .next s) ∧
    (s.upd.sentUp = true →
      (∃ t, exec (.combineDown none) s = .next t ∧ t.mem = s.mem ∧ (s.treeParent ≠ none → t = s) ∧ (s.treeParent = none → Decides s own t)) ∧
      (∀ m : Msg, ∃ t, exec (.combineDown (some m)) s = .next t ∧ t.mem = s.mem ∧
        (m.arg = k → s.treeParent = some m.origin → Decides s (combineOf m.body) t) ∧
        (m.arg ≠ k ∨ s.treeParent ≠ some m.origin → t = s))) := by
  refine ⟨fun m h => exec_combineDown_early hnorm hrecord m h, fun hsent => ⟨⟨_, exec_combineDown_own hnorm hrecord hsent, ?_⟩,
    fun m => ⟨_, exec_combineDown_parent hnorm hrecord hsent m, ?_⟩⟩⟩
  · cases s.treeParent with
    | some p => exact ⟨rfl, fun _ => rfl, fun h => absurd h (Option.some_ne_none p)⟩
    | none =>
      obtain ⟨hdecides, hmem⟩ := s.sentDown_decides k own.bytes own
      exact ⟨hmem, fun h => absurd rfl h, fun _ => hdecides⟩
  · generalize combineOf m.body = x
    by_cases hparent : m.arg = k ∧ s.treeParent = some m.origin
    · rw [if_pos hparent]
      obtain ⟨hdecides, hmem⟩ := (s.onMsg m).sentDown_decides k m.body x
      generalize ((s.onMsg m).sentDown k m.body).takeDecision x = v at *
      refine ⟨hmem, fun _ _ => (hdecides.of_same ((sb_onMsg s m).mono (by decide))).recause _, fun h => ?_⟩
      exact (h.elim (fun h => h hparent.1) fun h => h hparent.2).elim
    · rw [if_neg hparent]
      exact ⟨rfl, fun h1 h2 => (hparent ⟨h1, h2⟩).elim, fun _ => rfl⟩
end

/-- Settles O57: the record of the pass joins those of the children and goes up once they are all here; the decision follows the rows of
R356, each of which is a fault or keeps its action. -/
theorem normsCombineAndDecide : Obligations.NormsCombineAndDecide := by
  unfold Obligations.NormsCombineAndDecide
  refine ⟨normPassEnds, normPassReadFails, childRecord, fun s k own hnorm hrecord => ?_⟩
  intro decided
  have hdecided (r : CombineRec) (t : State) (h : Decides s r t) : decided r t := h
  clear_value decided
  obtain ⟨hearly, hfinal⟩ := finalRecord s k own hnorm hrecord
  refine ⟨hearly, fun hsent => ?_⟩
  obtain ⟨⟨t, hexec, hmem, hpassive, hroot⟩, hdown⟩ := hfinal hsent
  refine ⟨⟨t, hexec, hmem, hpassive, fun h => hdecided own t (hroot h)⟩, fun m => ?_⟩
  have hdown := hdown m
  generalize combineOf m.body = x at hdown ⊢
  obtain ⟨u, hexec', hmem', hparent, hother⟩ := hdown
  exact ⟨u, hexec', hmem', fun h1 h2 => hdecided x u (hparent h1 h2), hother⟩

end Sys2Proof.Machine
end

section
/-! PROOFS. First-touch copies and pages read out (R278, R280, R281, R445). -/

namespace Sys2Proof.Machine

/-! ### A range of memory copied -/

/-- The written bytes of a range put elsewhere are the bytes read there; every other byte is as it was. -/
theorem readByte_putRange (src dst n x : Nat) (l : List (Nat × Byte)) (lo : Nat) (w : swfFrom 0#8 lo l = true) (m : List (Nat × Byte)) :
    readByte ((rangeCells l src n).foldl (fun m e => writeByte m (dst + e.1) e.2) m) x =
      if dst ≤ x ∧ x < dst + n ∧ sget 0#8 l (src + (x - dst)) ≠ 0#8 then sget 0#8 l (src + (x - dst)) else readByte m x := by
  induction l generalizing lo m with
  | nil =>
    rw [if_neg fun h => h.2.2 rfl]
    rfl
  | cons e l ih =>
    obtain ⟨k, b⟩ := e
    simp only [swfFrom, Bool.and_eq_true, decide_eq_true_eq] at w
    obtain ⟨⟨-, hb⟩, hl⟩ := w
    have hbelow : sget 0#8 l k = 0#8 := sget_below 0#8 l (k + 1) k hl (Nat.lt_succ_self k)
    by_cases hk : src ≤ k ∧ k < src + n
    · have hcells : rangeCells ((k, b) :: l) src n = (k - src, b) :: rangeCells l src n := by
        unfold rangeCells
        rw [List.filter_cons_of_pos (by simpa using hk)]
        rfl
      rw [hcells, List.foldl_cons, ih (k + 1) hl, sget]
      by_cases hx : dst ≤ x ∧ x < dst + n ∧ k = src + (x - dst)
      · obtain ⟨h1, h2, h3⟩ := hx
        rw [if_pos h3, ← h3, if_neg fun h => h.2.2 hbelow, if_pos ⟨h1, h2, hb⟩, show dst + (k - src) = x by omega]
        exact sget_sset_same 0#8 m x b
      · by_cases hin : dst ≤ x ∧ x < dst + n
        · rw [if_neg fun h => hx ⟨hin.1, hin.2, h⟩, show readByte (writeByte m (dst + (k - src)) b) x = readByte m x from
            sget_sset_other 0#8 m _ x b fun h => hx ⟨hin.1, hin.2, by omega⟩]
        · rw [if_neg fun h => hin ⟨h.1, h.2.1⟩, if_neg fun h => hin ⟨h.1, h.2.1⟩]
          exact sget_sset_other 0#8 m _ x b (by omega)
    · have hcells : rangeCells ((k, b) :: l) src n = rangeCells l src n := by
        unfold rangeCells
        rw [List.filter_cons_of_neg (by simpa using hk)]
      rw [hcells, ih (k + 1) hl, sget]
      by_cases hx : k = src + (x - dst)
      · rw [if_pos hx, ← hx, if_neg fun h => h.2.2 hbelow, if_neg fun h => hk (by omega)]
      · rw [if_neg hx]
/-- A copied range reads as its source. -/
theorem readByte_copyRange {m : List (Nat × Byte)} (w : Memory.wf m = true) (src dst n x : Nat) : readByte (copyRange m src dst n) x =
    if dst ≤ x ∧ x < dst + n then readByte m (src + (x - dst)) else readByte m x := by
  unfold copyRange putCells
  rw [readByte_putRange src dst n x m 0 w, readByte_clearRange]
  by_cases hin : dst ≤ x ∧ x < dst + n
  · rw [if_pos hin, if_neg (show ¬(x < dst ∨ dst + n ≤ x) by omega)]
    by_cases hzero : sget 0#8 m (src + (x - dst)) = 0#8
    · rw [if_neg fun h => h.2.2 hzero]
      exact hzero.symm
    · rw [if_pos ⟨hin.1, hin.2, hzero⟩]
      rfl
  · rw [if_neg fun h => hin ⟨h.1, h.2.1⟩, if_neg hin, if_pos (show x < dst ∨ dst + n ≤ x by omega)]

section
variable {s u t : State} {page q : Nat} {c : Capture} {x : PageState}

/-! ### A first-touch copy (R278) -/

theorem sb_cow (s : State) (x : Cow) : SameBut [.cow] s { s with cow := x } := by
  intro p hp
  cases p with
  | cow => exact absurd (by decide) hp
  | _ => rfl
/-- Held writes of other pages wait on. -/
theorem State.releaseHeld_mem (h : ∀ h ∈ s.cow.held, h.1 / pageBytes ≠ page) : (s.releaseHeld page).mem = s.mem := by
  have hnone : (s.cow.held.filter fun h => decide (h.1 / pageBytes = page)) = [] := List.filter_eq_nil_iff.2 fun e he => by simpa using h e he
  show (s.cow.held.filter fun h => decide (h.1 / pageBytes = page)).foldl (fun m h => writeBytes m h.1 h.2) s.mem = s.mem
  rw [hnone]
  rfl
theorem State.releaseHeld_cow (s : State) (page : Nat) : (s.releaseHeld page).cow = { s.cow with held := s.cow.held.filter fun h => decide (h.1 / pageBytes ≠ page) } := rfl
theorem lookup_replaced {v : Type} (l : List (Nat × v)) (p : Nat) (y : v) : (l.map fun e => if e.1 = p then (p, y) else e).lookup p = (l.lookup p).map fun _ => y := by
  induction l with
  | nil => rfl
  | cons e l ih =>
    rw [List.map_cons, List.lookup_cons]
    by_cases h : e.1 = p
    · rw [if_pos h, List.lookup_cons, h, beq_self_eq_true]
      rfl
    · rw [if_neg h, List.lookup_cons, beq_eq_false_iff_ne.2 (Ne.symm h)]
      exact ih
theorem checked_nil (s : State) : s.checked [] = (true, s) := rfl
theorem withMem_cow (s : State) (m : List (Nat × Byte)) : ({ s with mem := m } : State).cow = s.cow := rfl
theorem withMem_mem (s : State) (m : List (Nat × Byte)) : ({ s with mem := m } : State).mem = m := rfl
/-- A page is copied into its pool page. -/
def State.copyPlaced (s : State) (page q : Nat) : State := { s with mem := copyRange s.mem (page * pageBytes) (q * pageBytes) pageBytes }
/-- The old page is in its pool page, and the writes held for it are made. -/
def State.copiedPage (s : State) (page q : Nat) : State :=
  (((s.noteRead (page * pageBytes) pageBytes).copyPlaced page q).setPage page (.shadowed q)).releaseHeld page
theorem exec_shadowCopy_other (h : ∀ q, s.pageState page ≠ some (.copying q)) (checks : List MemCheck) : exec (.shadowCopyDone page checks) s = .next s := by
  show execShadowCopyDone page checks s = _
  unfold execShadowCopyDone
  split
  · next q hq => exact absurd hq (h q)
  · rfl
/-- What a first-touch copy does with what nature reports of its reads. -/
def copyAfter (page q : Nat) (r : Bool × State) : State := if r.1 = true then r.2.copiedPage page q else r.2
theorem copyAfter_good (u : State) : copyAfter page q (true, u) = u.copiedPage page q := if_pos rfl
theorem copyAfter_bad (u : State) : copyAfter page q (false, u) = u := if_neg Bool.false_ne_true
theorem copyAfter_eq (r : Bool × State) : (match r with | (ok, s) => if !ok then s else s.copiedPage page q) = copyAfter page q r := by
  obtain ⟨ok, u⟩ := r
  cases ok with
  | false => exact (if_pos rfl).trans (copyAfter_bad u).symm
  | true => exact (if_neg Bool.false_ne_true).trans (copyAfter_good u).symm
theorem exec_shadowCopy (h : s.pageState page = some (.copying q)) (checks : List MemCheck) :
    exec (.shadowCopyDone page checks) s = .next (copyAfter page q (s.checked checks)) := by
  rw [← copyAfter_eq]
  show execShadowCopyDone page checks s = _
  unfold execShadowCopyDone
  rewrite [h]
  rfl
theorem exec_shadowCopy_good (h : s.pageState page = some (.copying q)) : exec (.shadowCopyDone page []) s = .next (s.copiedPage page q) := by
  rw [exec_shadowCopy h, checked_nil, copyAfter_good]
theorem exec_shadowCopy_bad {checks : List MemCheck} (h : s.pageState page = some (.copying q)) (hbad : s.checked checks = (false, t)) :
    exec (.shadowCopyDone page checks) s = .next t := by
  rw [exec_shadowCopy h, hbad, copyAfter_bad]
theorem State.copiedPage_spec (h : s.pageState page = some (.copying q)) :
    SameBut [.cow, .mem, .ctr] s (s.copiedPage page q) ∧ (s.copiedPage page q).pageState page = some (.shadowed q) ∧
      (s.copiedPage page q).cow.held = s.cow.held.filter (fun h => decide (h.1 / pageBytes ≠ page)) ∧
      (Memory.wf s.mem = true → (∀ h ∈ s.cow.held, h.1 / pageBytes ≠ page) → ∀ a, readByte (s.copiedPage page q).mem a
        = if q * pageBytes ≤ a ∧ a < q * pageBytes + pageBytes then readByte s.mem (page * pageBytes + (a - q * pageBytes)) else readByte s.mem a) := by
  have hread := s.noteRead_same (page * pageBytes) pageBytes
  unfold State.copiedPage
  generalize s.noteRead (page * pageBytes) pageBytes = v at *
  have hmem : v.mem = s.mem := hread .mem (by decide)
  have hcow : v.cow = s.cow := hread .cow (by decide)
  have hcopied : SameBut [.mem] v (v.copyPlaced page q) := sb_mem v _
  have hcow' : (v.copyPlaced page q).cow = s.cow := (withMem_cow v _).trans hcow
  have hmem' : (v.copyPlaced page q).mem = copyRange s.mem (page * pageBytes) (q * pageBytes) pageBytes := by
    rewrite [← hmem]
    exact withMem_mem v _
  generalize v.copyPlaced page q = w at *
  have hset := State.setPage_touch (List.Subset.refl _) w page (.shadowed q) (Touch.refl _ w)
  have hpages : (w.setPage page (.shadowed q)).cow = { s.cow with pages := s.cow.pages.map fun e => if e.1 = page then (page, .shadowed q) else e } := by
    rw [← hcow']
    rfl
  have hmem2 : (w.setPage page (.shadowed q)).mem = w.mem := rfl
  generalize w.setPage page (.shadowed q) = y at *
  have hrelease := State.releaseHeld_touch (List.Subset.refl _) y page (Touch.refl _ y)
  have hheld := y.releaseHeld_cow page
  refine ⟨(((hread.trans hcopied).trans hset).trans hrelease).mono (by decide), ?_, ?_, fun w hothers a => ?_⟩
  · unfold State.pageState at *
    rw [hheld, hpages]
    refine (lookup_replaced s.cow.pages page (.shadowed q)).trans ?_
    rw [h]
    rfl
  · rw [hheld, hpages]
  · rw [State.releaseHeld_mem (by rw [hpages]; exact hothers), hmem2, hmem']
    exact readByte_copyRange w _ _ _ a
theorem firstTouchCopy (s : State) (page : Nat) : ∃ t, exec (.shadowCopyDone page []) s = .next t ∧
    ((∀ q, s.pageState page ≠ some (.copying q)) → t = s) ∧
    (∀ q die code line reads, s.pageState page = some (.copying q) → rereadsUsed 1 (lineOk code line) reads = none →
      ∃ u, exec (.shadowCopyDone page [.sram die code line reads]) s = .next u ∧ Faulted u (dieSrc die) 0x1100 ∧ u.safe.latch = true ∧ u.mem = s.mem) ∧
    (∀ q, s.pageState page = some (.copying q) → SameBut [.cow, .mem, .ctr] s t ∧ t.pageState page = some (.shadowed q) ∧
      t.cow.held = s.cow.held.filter (fun h => decide (h.1 / pageBytes ≠ page)) ∧
      (Memory.wf s.mem = true → (∀ h ∈ s.cow.held, h.1 / pageBytes ≠ page) → ∀ a, readByte t.mem a
        = if q * pageBytes ≤ a ∧ a < q * pageBytes + pageBytes then readByte s.mem (page * pageBytes + (a - q * pageBytes)) else readByte s.mem a)) := by
  by_cases hcopying : ∃ q, s.pageState page = some (.copying q)
  · obtain ⟨q, hq⟩ := hcopying
    refine ⟨_, exec_shadowCopy_good hq, fun h => absurd hq (h q), fun q' die code line reads hq' hreads => ?_, fun q' hq' => ?_⟩
    · obtain ⟨d, hline⟩ := State.checkedLine_bad (s := s) (die := die) hreads
      obtain ⟨hfaulted, hlatch, hmem, -⟩ := fault_spec_of s (u := s) (dieSrc die) 0x1100 d rfl rfl
      exact ⟨_, exec_shadowCopy_bad hq' ((s.checked_one _).trans hline), hfaulted, hlatch, hmem⟩
    · obtain rfl : q = q' := by
        rw [hq] at hq'
        injection hq' with hq'
        injection hq'
      exact State.copiedPage_spec hq
  · have hother (q : Nat) : s.pageState page ≠ some (.copying q) := fun h => hcopying ⟨q, h⟩
    exact ⟨s, exec_shadowCopy_other hother [], fun _ => rfl, fun q _ _ _ _ hq => absurd hq (hother q), fun q hq => absurd hq (hother q)⟩

/-! ### A page read out (R280, R445) -/

/-- Where a page is read: its pool page once it is shadowed. -/
def pageFrom (page : Nat) : PageState → Nat
  | .shadowed q => q * pageBytes
  | _ => page * pageBytes
theorem pageFrom_eq (page : Nat) (x : PageState) : pageFrom page x = match x with | .shadowed q => q * pageBytes | _ => page * pageBytes := by
  cases x <;> rfl
/-- A page joins the own slot of its capture. -/
def State.pageKept (s : State) (page a slot : Nat) : State :=
  let v := s.noteRead a pageBytes
  v.modOwn slot fun x => { x with pages := x.pages ++ [(page, crcOfPage page (readBytes s.mem a pageBytes), rangeCells s.mem a pageBytes)] }
/-- A page of a capture is `DONE`. -/
def State.pageOut (s : State) (page : Nat) : State :=
  (({ s with cow := { s.cow with pages := s.cow.pages.filter fun e => decide (e.1 ≠ page) } }.releaseHeld page).captureDie (page / pagesPerStack))
/-- A page of a remote capture goes to the partner too. -/
def State.pageSent (s u : State) (page a : Nat) (c : Capture) : State :=
  if c.remote = true then u.sendPage c.step page (crcOfPage page (readBytes s.mem a pageBytes)) (readBytes s.mem a pageBytes) else u
/-- What the read-out of a page does with what nature reports of its reads. -/
def outAfter (page a : Nat) (c : Capture) (r : Bool × State) : State :=
  if r.1 = true then ((r.2.pageSent (r.2.pageKept page a c.slot) page a c).pageOut page).captureRead else r.2
theorem outAfter_good (a : Nat) (u : State) : outAfter page a c (true, u) = ((u.pageSent (u.pageKept page a c.slot) page a c).pageOut page).captureRead := if_pos rfl
theorem outAfter_bad (a : Nat) (u : State) : outAfter page a c (false, u) = u := if_neg Bool.false_ne_true
theorem outAfter_eq (a : Nat) (r : Bool × State) : (match r with
    | (ok, s) => if !ok then s else ((s.pageSent (s.pageKept page a c.slot) page a c).pageOut page).captureRead) = outAfter page a c r := by
  obtain ⟨ok, u⟩ := r
  cases ok with
  | false => exact (if_pos rfl).trans (outAfter_bad a u).symm
  | true => exact (if_neg Bool.false_ne_true).trans (outAfter_good a u).symm
section
variable (hcapture : s.snap.capture = some c) (hpage : s.pageState page = some x)
include hcapture hpage
theorem exec_pageDone_other (h : s.cow.state ≠ 1 ∨ s.nextPage (page / pagesPerStack) ≠ some page) (checks : List MemCheck) :
    exec (.pageDone page checks) s = .next s := by
  show execPageDone page checks s = _
  unfold execPageDone
  rw [hcapture, hpage]
  exact congrArg Host.Outcome.next (if_pos h)
variable (hstate : s.cow.state = 1) (hnext : s.nextPage (page / pagesPerStack) = some page)
include hstate hnext
theorem exec_pageDone_next (checks : List MemCheck) : exec (.pageDone page checks) s = .next (outAfter page (pageFrom page x) c (s.checked checks)) := by
  rw [← outAfter_eq]
  show execPageDone page checks s = _
  unfold execPageDone
  rewrite [hcapture, hpage]
  refine congrArg Host.Outcome.next ((if_neg (not_or.2 ⟨not_not.2 hstate, not_not.2 hnext⟩)).trans ?_)
  cases x <;> rfl
theorem exec_pageDone_bad {checks : List MemCheck} (hbad : s.checked checks = (false, t)) : exec (.pageDone page checks) s = .next t := by
  rw [exec_pageDone_next hcapture hpage hstate hnext, hbad, outAfter_bad]
theorem exec_pageDone_local (hlocal : c.remote = false) : exec (.pageDone page []) s = .next ((s.pageKept page (pageFrom page x) c.slot).pageOut page).captureRead := by
  rw [exec_pageDone_next hcapture hpage hstate hnext, checked_nil, outAfter_good]
  unfold State.pageSent
  rw [if_neg (by rw [hlocal]; exact Bool.false_ne_true)]
end
/-- What is left once a page is out, and what it leaves alone. -/
theorem State.pageOut_spec (s : State) (page : Nat) : let t := s.pageOut page
    let kept := s.cow.pages.filter (fun e => decide (e.1 ≠ page))
    SameBut [.cow, .mem] s t ∧ t.cow.pages = kept ∧ t.cow.state = s.cow.state ∧ ((∀ h ∈ s.cow.held, h.1 / pageBytes ≠ page) → t.mem = s.mem)
      ∧ sget 0 t.cow.dies (page / pagesPerStack) =
        (if kept.any (fun e => decide (e.1 / pagesPerStack = page / pagesPerStack)) = true then sget 0 s.cow.dies (page / pagesPerStack) else 2) := by
  have hdrop := sb_cow s { s.cow with pages := s.cow.pages.filter fun e => decide (e.1 ≠ page) }
  unfold State.pageOut
  dsimp only
  have hrelease := State.releaseHeld_touch (List.Subset.refl _) { s with cow := { s.cow with pages := s.cow.pages.filter fun e => decide (e.1 ≠ page) } } page (Touch.refl _ _)
  have hmem := State.releaseHeld_mem (s := { s with cow := { s.cow with pages := s.cow.pages.filter fun e => decide (e.1 ≠ page) } }) (page := page)
  have hcow : (State.releaseHeld { s with cow := { s.cow with pages := s.cow.pages.filter fun e => decide (e.1 ≠ page) } } page).cow =
    { s.cow with pages := s.cow.pages.filter fun e => decide (e.1 ≠ page), held := s.cow.held.filter fun h => decide (h.1 / pageBytes ≠ page) } := rfl
  have hsame : SameBut [.cow, .mem] s _ := (hdrop.trans hrelease).mono (by decide)
  change (∀ h ∈ s.cow.held, h.1 / pageBytes ≠ page) → _ = s.mem at hmem
  generalize State.releaseHeld { s with cow := { s.cow with pages := s.cow.pages.filter fun e => decide (e.1 ≠ page) } } page = v at *
  unfold State.captureDie
  rw [hcow]
  dsimp only
  split
  · exact ⟨hsame, (congrArg Cow.pages hcow :), (congrArg Cow.state hcow :), hmem, (congrArg (fun c => sget 0 c.dies (page / pagesPerStack)) hcow :)⟩
  · exact ⟨(hsame.trans (sb_cow v _)).mono (by decide), rfl, rfl, hmem, sget_sset_same 0 s.cow.dies (page / pagesPerStack) 2⟩
theorem State.pageKept_spec (s : State) (page a slot : Nat) : let t := s.pageKept page a slot
    SameBut [.snap, .ctr] s t ∧ (∃ o, t.snap = { s.snap with own := o }) ∧
    (t.ownSlot slot).pages = (s.ownSlot slot).pages ++ [(page, crcOfPage page (readBytes s.mem a pageBytes), rangeCells s.mem a pageBytes)] := by
  have hread := s.noteRead_same a pageBytes
  unfold State.pageKept
  dsimp only
  generalize s.noteRead a pageBytes = v at *
  have hsnap : v.snap = s.snap := hread .snap (by decide)
  refine ⟨(hread.trans (State.modOwn_touch (List.Subset.refl _) v slot _ (Touch.refl _ v))).mono (by decide), ?_, ?_⟩
  · rw [← hsnap]
    exact ⟨_, rfl⟩
  · unfold State.modOwn State.ownSlot
    rw [hsnap]
    exact congrArg SnapSlot.pages (sget_supd_same {} s.snap.own slot fun x =>
      { x with pages := x.pages ++ [(page, crcOfPage page (readBytes s.mem a pageBytes), rangeCells s.mem a pageBytes)] })

/-- The checkpoint that a complete capture leaves. -/
def checkpointOf (s : State) (c : Capture) : Checkpoint := { step := c.step, slot := c.slot, since := s.time.cycles }
theorem State.ownComplete_spec (s : State) (c : Capture) : let t := s.ownComplete c
    SameBut [.snap] s t ∧ t.snap.capture = none ∧ t.ownSlot c.slot = { s.ownSlot c.slot with state := 2 } ∧
    (c.checkpoint = true → if s.snap.checkpoint = none then t.snap.checkpoint = some (checkpointOf s c)
      else t.snap.checkpoint = s.snap.checkpoint ∧ t.snap.nextCheckpoint = some (checkpointOf s c)) := by
  have hown : sget {} (supd {} s.snap.own c.slot fun x => { x with state := 2 }) c.slot = { s.ownSlot c.slot with state := 2 } :=
    sget_supd_same {} s.snap.own c.slot _
  have hsame := State.ownComplete_touch (List.Subset.refl _) s c (Touch.refl _ s)
  intro t
  refine ⟨hsame, ?_⟩
  unfold t State.ownComplete State.modOwn
  dsimp only
  cases c.checkpoint with
  | false => exact ⟨rfl, hown, nofun⟩
  | true =>
    cases hwaits : s.snap.checkpoint with
    | none => exact ⟨rfl, hown, fun _ => rfl⟩
    | some w => exact ⟨rfl, hown, fun _ => ⟨rfl, rfl⟩⟩
/-- The capture of the module is complete. -/
def State.captureComplete (s : State) : State := { s with cow := { s.cow with state := 2 } }.event wardenSrc 0x3121
theorem State.captureRead_waits (h : s.cow.pages ≠ []) : s.captureRead = s := if_neg fun h' => h h'.2
theorem State.captureRead_local (hstate : s.cow.state = 1) (hpages : s.cow.pages = []) (hcapture : s.snap.capture = some c) (hlocal : c.remote = false) :
    s.captureRead = s.captureComplete.ownComplete c := by
  have hsnap : s.captureComplete.snap = s.snap := sameBut_event { s with cow := { s.cow with state := 2 } } wardenSrc 0x3121 [] .snap (by decide)
  unfold State.captureRead
  rw [if_pos ⟨hstate, hpages⟩]
  show (match s.captureComplete.snap.capture with
    | none => s.captureComplete
    | some c => if c.remote then _ else s.captureComplete.ownComplete c) = _
  rw [hsnap, hcapture]
  exact if_neg (by rw [hlocal]; exact Bool.false_ne_true)
theorem State.captureComplete_spec (s : State) : SameBut [.log, .cow, .host, .ctr, .out] s s.captureComplete ∧ s.captureComplete.cow = { s.cow with state := 2 } ∧
    (s.start.wardenHeld = false → Raised s.captureComplete wardenSrc 0x3121) := by
  have hevent := sameBut_event { s with cow := { s.cow with state := 2 } } wardenSrc 0x3121 []
  exact ⟨((sb_cow s _).trans hevent).mono (by decide), hevent .cow (by decide), fun h => raised_event _ _ _ _ h⟩

theorem pageReadOut (s : State) (page : Nat) (c : Capture) (x : PageState) : s.snap.capture = some c → s.pageState page = some x →
    (s.cow.state ≠ 1 ∨ s.nextPage (page / pagesPerStack) ≠ some page → ∀ checks, exec (.pageDone page checks) s = .next s) ∧
    (s.cow.state = 1 → s.nextPage (page / pagesPerStack) = some page →
      (∀ die code line reads, rereadsUsed 1 (lineOk code line) reads = none → ∃ t, exec (.pageDone page [.sram die code line reads]) s = .next t ∧ Faulted t (dieSrc die) 0x1100 ∧ t.safe.latch = true ∧ t.mem = s.mem) ∧
      (c.remote = false → ∃ t, exec (.pageDone page []) s = .next t ∧
        let src := match x with | .shadowed q => q * pageBytes | _ => page * pageBytes
        let kept := s.cow.pages.filter (fun e => decide (e.1 ≠ page))
        (t.ownSlot c.slot).pages = (s.ownSlot c.slot).pages ++ [(page, crcOfPage page (readBytes s.mem src pageBytes), rangeCells s.mem src pageBytes)]
        ∧ t.cow.pages = kept ∧ ((∀ h ∈ s.cow.held, h.1 / pageBytes ≠ page) → t.mem = s.mem)
        ∧ sget 0 t.cow.dies (page / pagesPerStack) = (if kept.any (fun e => decide (e.1 / pagesPerStack = page / pagesPerStack)) = true then sget 0 s.cow.dies (page / pagesPerStack) else 2)
        ∧ (kept ≠ [] → t.cow.state = 1 ∧ t.snap.capture = some c)
        ∧ (kept = [] → t.cow.state = 2 ∧ t.snap.capture = none ∧ (t.ownSlot c.slot).state = 2 ∧ (s.start.wardenHeld = false → Raised t wardenSrc 0x3121)
            ∧ (c.checkpoint = true → let w : Checkpoint := { step := c.step, slot := c.slot, since := s.time.cycles }
                if s.snap.checkpoint = none then t.snap.checkpoint = some w else t.snap.checkpoint = s.snap.checkpoint ∧ t.snap.nextCheckpoint = some w)))) := by
  intro hcapture hpage
  refine ⟨fun h checks => exec_pageDone_other hcapture hpage h checks, fun hstate hnext => ⟨fun die code line reads hreads => ?_, fun hlocal => ?_⟩⟩
  · obtain ⟨d, hline⟩ := State.checkedLine_bad (s := s) (die := die) hreads
    obtain ⟨hfaulted, hlatch, hmem, -⟩ := fault_spec_of s (u := s) (dieSrc die) 0x1100 d rfl rfl
    exact ⟨_, exec_pageDone_bad hcapture hpage hstate hnext ((s.checked_one _).trans hline), hfaulted, hlatch, hmem⟩
  refine ⟨_, exec_pageDone_local hcapture hpage hstate hnext hlocal, ?_⟩
  dsimp only
  rw [← pageFrom_eq]
  obtain ⟨hkept, ⟨o, hsnap⟩, hpages⟩ := s.pageKept_spec page (pageFrom page x) c.slot
  generalize s.pageKept page (pageFrom page x) c.slot = v at *
  have hcow : v.cow = s.cow := hkept .cow (by decide)
  have hmem : v.mem = s.mem := hkept .mem (by decide)
  have hstart : v.start = s.start := hkept .start (by decide)
  have htime : v.time = s.time := hkept .time (by decide)
  obtain ⟨hout, hleft, hstate', hmem', hdies⟩ := v.pageOut_spec page
  generalize v.pageOut page = w at *
  rw [hcow] at hleft hstate' hmem' hdies
  rw [hmem] at hmem'
  have hsnapW : w.snap = v.snap := hout .snap (by decide)
  have hownW : w.ownSlot c.slot = v.ownSlot c.slot := by
    unfold State.ownSlot
    rw [hsnapW]
  have hcaptureW : w.snap.capture = some c := by
    rw [hsnapW, hsnap]
    exact hcapture
  by_cases hlast : (s.cow.pages.filter fun e => decide (e.1 ≠ page)) = []
  · rw [State.captureRead_local (hstate'.trans hstate) (hleft.trans hlast) hcaptureW hlocal]
    obtain ⟨hcomplete, hcow2, hraised⟩ := w.captureComplete_spec
    generalize w.captureComplete = y at *
    obtain ⟨hown, hnone, hslot, hcheckpoint⟩ := y.ownComplete_spec c
    generalize y.ownComplete c = z at *
    have hcowZ : z.cow = { w.cow with state := 2 } := (hown .cow (by decide)).trans hcow2
    have hmemZ : z.mem = w.mem := (hown .mem (by decide)).trans (hcomplete .mem (by decide))
    have hsnapY : y.snap = w.snap := hcomplete .snap (by decide)
    have htimeY : y.time = s.time := ((hcomplete .time (by decide)).trans (hout .time (by decide))).trans htime
    have hslotY : y.ownSlot c.slot = w.ownSlot c.slot := by
      unfold State.ownSlot
      rw [hsnapY]
    have hcheck : y.snap.checkpoint = s.snap.checkpoint := by rw [hsnapY, hsnapW, hsnap]
    have hof : checkpointOf y c = { step := c.step, slot := c.slot, since := s.time.cycles } := by
      unfold checkpointOf
      rw [htimeY]
    rw [hcheck, hof] at hcheckpoint
    refine ⟨?_, by rw [hcowZ]; exact hleft, fun h => hmemZ.trans (hmem' h), by rw [hcowZ]; exact hdies, fun h => absurd hlast h,
      fun _ => ⟨by rw [hcowZ], hnone, by rw [hslot], fun h => ?_, hcheckpoint⟩⟩
    · rw [hslot, hslotY, hownW]
      exact hpages
    · exact (hraised (by rw [hout .start (by decide), hstart]; exact h)).congr (hown .log (by decide))
  · rw [State.captureRead_waits (by rw [hleft]; exact hlast)]
    exact ⟨by rw [hownW]; exact hpages, hleft, hmem', hdies, fun _ => ⟨hstate'.trans hstate, hcaptureW⟩, fun h => absurd h hlast⟩
end
end Sys2Proof.Machine
end

section
/-! PROOFS. The messages of captures, of the partner's side and of pairing (R438 to R445, R447). -/

namespace Sys2Proof.Machine

section
variable {s u t : State} {m : Msg} {i k n kind dst arg : Nat} {c : Capture}

/-! ### A message is sent, with its body -/

/-- A message with such a body goes out wherever the routes lead to its module. -/
def Tells (s t : State) (kind dst arg : Nat) (p : Bytes → Prop) : Prop := ∀ n, routePort s.net.graph s.self s.self dst = some n →
  ∃ a : Msg, Output.message a ∈ t.out ∧ a.kind = kind ∧ a.dst = dst ∧ a.arg = arg ∧ p a.body ∧ a.port = n
theorem State.sendTo_tells (s : State) (src kind dst arg : Nat) (body : Bytes) : Tells s (s.sendTo src kind dst arg body) kind dst arg (· = body) := by
  intro n hroute
  unfold State.sendTo
  rw [hroute]
  exact ⟨_, s.putMsg_out n none (s.newMsg src kind dst arg body), rfl, rfl, rfl, rfl, rfl⟩
theorem Tells.of_same {p : Bytes → Prop} (h : Tells u t kind dst arg p) (hgraph : u.net.graph = s.net.graph) (hjob : u.job = s.job) : Tells s t kind dst arg p := by
  intro n hroute
  rw [← hgraph, ← self_of hjob] at hroute
  exact h n hroute
theorem Tells.recause {p : Bytes → Prop} (h : Tells s t kind dst arg p) (x : Nat) : Tells s (t.recause x) kind dst arg p := h
theorem raised_recause {src code : Nat} (h : Raised t src code) (x : Nat) : Raised (t.recause x) src code := h

/-! ### Requests (R443) -/

theorem State.noteRequest_cleared (h : s.hasCleared k = true) : s.noteRequest k = s.refuseCapture k 1 := if_pos h
theorem State.noteRequest_open (h : s.hasCleared k ≠ true) : s.noteRequest k =
    { s with snap := { s.snap with requested := if k ∈ s.snap.requested then s.snap.requested else s.snap.requested ++ [k] } } := by
  unfold State.noteRequest
  rw [if_neg h]
  by_cases hin : k ∈ s.snap.requested
  · rw [if_pos (List.contains_iff_mem.2 hin), if_pos hin]
  · rw [if_neg fun h => hin (List.contains_iff_mem.1 h), if_neg hin]
theorem sendAll_count (s : State) (src kind arg : Nat) (body : Bytes) (k : Nat) : (s.sendAll src kind arg body).count k = s.count k :=
  congrArg (fun l => sget 0 l k) (State.sendAll_touch (List.Subset.refl _) s src kind arg body (Touch.refl _ s) .ctr (by decide))
theorem State.refuseCapture_count (s : State) (k cause : Nat) : (s.refuseCapture k cause).count kCapturesRefused = s.count kCapturesRefused + 1 := by
  unfold State.refuseCapture
  rw [sendAll_count, (told_event _ _ _ _).counts _ (by decide) (by decide) (by decide), State.bump_count]
theorem captureRequested (s : State) (m : Msg) : ∃ t, exec (.captureRequest m) s = .next t ∧
    if s.hasCleared m.arg = true then t.count kCapturesRefused = s.count kCapturesRefused + 1 ∧ t.snap = s.snap
    else SameBut [.log, .net, .snap] s t ∧ t.snap = { s.snap with requested := if m.arg ∈ s.snap.requested then s.snap.requested else s.snap.requested ++ [m.arg] } := by
  refine ⟨((s.onMsg m).noteRequest m.arg).recause s.log.cause, rfl, ?_⟩
  by_cases hcleared : s.hasCleared m.arg = true
  · rw [if_pos hcleared, State.noteRequest_cleared (s := s.onMsg m) hcleared]
    exact ⟨(s.onMsg m).refuseCapture_count m.arg 1, State.refuseCapture_touch (List.Subset.refl _) (s.onMsg m) m.arg 1 (Touch.refl _ _) .snap (by decide)⟩
  · rw [if_neg hcleared, State.noteRequest_open (s := s.onMsg m) hcleared]
    exact ⟨(((sb_onMsg s m).trans (sb_snap (s.onMsg m) _)).trans (sb_recause _ _)).mono (by decide), rfl⟩

/-! ### Sets (R444) -/

theorem State.addMember_in (h : n ∈ sget [] s.snap.members k) : s.addMember k n = s := if_pos (List.contains_iff_mem.2 h)
/-- A module is a member of the set of a step. -/
def State.memberAdded (s : State) (k n : Nat) : State := { s with snap := { s.snap with members := supd [] s.snap.members k fun l => l ++ [n] } }
/-- The set of a step is complete. -/
def State.setComplete (s : State) (k : Nat) : State :=
  { s with snap := { s.snap with newestSet := if s.snap.newestSet = 2 ^ 64 - 1 then k else max s.snap.newestSet k } }.event wardenSrc 0x3302 (u32 k)
theorem State.memberAdded_members (s : State) (k n : Nat) : sget [] (s.memberAdded k n).snap.members k = sget [] s.snap.members k ++ [n] :=
  sget_supd_same [] s.snap.members k fun l => l ++ [n]
theorem State.addMember_new (h : n ∉ sget [] s.snap.members k) : s.addMember k n =
    if (sget [] s.snap.members k).length + 1 = s.modules then (s.memberAdded k n).setComplete k else s.memberAdded k n := by
  have hlen : (sget [] (s.memberAdded k n).snap.members k).length = (sget [] s.snap.members k).length + 1 := by
    rw [State.memberAdded_members, List.length_append]
    rfl
  rw [← hlen]
  exact if_neg fun h' => h (List.contains_iff_mem.1 h')
theorem State.setComplete_spec (s : State) (k : Nat) : SameBut [.log, .host, .snap, .ctr, .out] s (s.setComplete k) ∧
    (s.setComplete k).snap = { s.snap with newestSet := if s.snap.newestSet = 2 ^ 64 - 1 then k else max s.snap.newestSet k } ∧
    (s.start.wardenHeld = false → Raised (s.setComplete k) wardenSrc 0x3302) := by
  have hevent := sameBut_event { s with snap := { s.snap with newestSet := if s.snap.newestSet = 2 ^ 64 - 1 then k else max s.snap.newestSet k } } wardenSrc 0x3302 (u32 k)
  exact ⟨((sb_snap s _).trans hevent).mono (by decide), hevent .snap (by decide), fun h => raised_event _ _ _ _ h⟩
/-- A module joins a set. -/
theorem State.addMember_spec (s : State) (k n : Nat) : SameBut [.log, .host, .snap, .ctr, .out] s (s.addMember k n) ∧
    n ∈ sget [] (s.addMember k n).snap.members k ∧ (s.addMember k n).snap.own = s.snap.own ∧ (s.addMember k n).snap.capture = s.snap.capture ∧
    (n ∉ sget [] s.snap.members k → sget [] (s.addMember k n).snap.members k = sget [] s.snap.members k ++ [n] ∧
      if (sget [] s.snap.members k).length + 1 = s.modules
      then (s.addMember k n).snap.newestSet = (if s.snap.newestSet = 2 ^ 64 - 1 then k else max s.snap.newestSet k) ∧
        (s.start.wardenHeld = false → Raised (s.addMember k n) wardenSrc 0x3302)
      else (s.addMember k n).snap.newestSet = s.snap.newestSet) := by
  by_cases hin : n ∈ sget [] s.snap.members k
  · rw [State.addMember_in hin]
    exact ⟨Touch.refl _ s, hin, rfl, rfl, fun h => absurd hin h⟩
  have hmembers := s.memberAdded_members k n
  have hmember : n ∈ sget [] s.snap.members k ++ [n] := List.mem_append_right _ (List.mem_singleton.2 rfl)
  have hadded : SameBut [.snap] s (s.memberAdded k n) := sb_snap s _
  rw [State.addMember_new hin]
  by_cases hall : (sget [] s.snap.members k).length + 1 = s.modules
  · obtain ⟨hsame, hsnap, hraised⟩ := (s.memberAdded k n).setComplete_spec k
    rw [if_pos hall, if_pos hall, hsnap]
    refine ⟨(hadded.trans hsame).mono (by decide), ?_, rfl, rfl, fun _ => ⟨hmembers, rfl, fun h => hraised h⟩⟩
    rw [hmembers]
    exact hmember
  · rw [if_neg hall, if_neg hall]
    exact ⟨hadded.mono (by decide), by rw [hmembers]; exact hmember, rfl, rfl, fun _ => ⟨hmembers, rfl⟩⟩
theorem setMember (s : State) (m : Msg) : ∃ t, exec (.setMember m) s = .next t ∧ SameBut [.log, .net, .host, .snap, .ctr, .out] s t ∧
    let k := s.fullStep (m.arg % 2 ^ 32)
    let l := sget [] s.snap.members k
    if m.origin ∈ l then t = s.took m
    else sget [] t.snap.members k = l ++ [m.origin] ∧
      if l.length + 1 = s.modules then t.snap.newestSet = (if s.snap.newestSet = 2 ^ 64 - 1 then k else max s.snap.newestSet k) ∧ (s.start.wardenHeld = false → Raised t wardenSrc 0x3302)
      else t.snap.newestSet = s.snap.newestSet := by
  refine ⟨((s.onMsg m).addMember (s.fullStep (m.arg % 2 ^ 32)) m.origin).recause s.log.cause, rfl, ?_⟩
  dsimp only
  generalize s.fullStep (m.arg % 2 ^ 32) = k
  obtain ⟨hsame, -, -, -, hnew⟩ := (s.onMsg m).addMember_spec k m.origin
  refine ⟨(((sb_onMsg s m).trans hsame).trans (sb_recause _ _)).mono (by decide), ?_⟩
  by_cases hin : m.origin ∈ sget [] s.snap.members k
  · rw [if_pos hin, State.addMember_in (s := s.onMsg m) hin]
    exact s.onMsg_recause m
  · rw [if_neg hin]
    exact hnew hin

/-! ### The partner holds the copy (R445) -/

/-- A capture that waits for its partner only, and the message that says its pages are held. -/
def HeldBy (s : State) (c : Capture) (m : Msg) : Prop :=
  c.remote = true ∧ c.localDone = true ∧ m.origin = s.partner ∧ m.arg % 2 ^ 32 = c.step % 2 ^ 32
/-- The own copy is complete, and counted. -/
def State.copyHeld (s : State) (c : Capture) : State := ((s.ownComplete c).bump kSnapshotsHeld 1).event wardenSrc 0x3301
/-- The module joins the set of a complete copy, and tells the others. -/
def State.setJoined (s : State) (k : Nat) : State := (s.sendAll wardenSrc 13 (snapArg 5 k) []).addMember k s.self
theorem exec_held_none (h : s.snap.capture = none) : exec (.held m) s = .next (s.took m) := by
  show execHeld m s = _
  unfold execHeld
  rw [State.taken_eq, show (s.onMsg m).snap.capture = none from h]
  exact congrArg Host.Outcome.next (s.onMsg_recause m)
theorem heldBy_iff (s : State) (c : Capture) (m : Msg) :
    (c.remote && c.localDone && decide (m.origin = s.partner ∧ m.arg % 2 ^ 32 = c.step % 2 ^ 32)) = true ↔ HeldBy s c m := by
  unfold HeldBy
  rw [Bool.and_eq_true, Bool.and_eq_true, decide_eq_true_eq, and_assoc]
section
variable (hcapture : s.snap.capture = some c)
include hcapture
theorem exec_held_other (h : ¬HeldBy s c m) : exec (.held m) s = .next (s.took m) := by
  show execHeld m s = _
  unfold execHeld
  rw [State.taken_eq, show (s.onMsg m).snap.capture = some c from hcapture]
  dsimp only
  rw [if_neg fun h' => h ((heldBy_iff (s.onMsg m) c m).1 h')]
  exact congrArg Host.Outcome.next (s.onMsg_recause m)
theorem exec_held (h : HeldBy s c m) : exec (.held m) s = .next ((((s.onMsg m).copyHeld c).setJoined c.step).recause s.log.cause) := by
  show execHeld m s = _
  unfold execHeld
  rw [State.taken_eq, show (s.onMsg m).snap.capture = some c from hcapture]
  dsimp only
  rw [if_pos ((heldBy_iff (s.onMsg m) c m).2 h)]
  rfl
end
theorem State.copyHeld_spec (s : State) (c : Capture) : let t := s.copyHeld c
    SameBut [.log, .host, .snap, .ctr, .out] s t ∧ t.snap.capture = none ∧ (t.ownSlot c.slot).state = 2 ∧ t.count kSnapshotsHeld = s.count kSnapshotsHeld + 1 := by
  obtain ⟨hown, hnone, hslot, -⟩ := s.ownComplete_spec c
  have hctr : (s.ownComplete c).ctr = s.ctr := hown .ctr (by decide)
  unfold State.copyHeld
  dsimp only
  generalize s.ownComplete c = v at *
  have hevent := State.event_touch (List.Subset.refl _) (v.bump kSnapshotsHeld 1) wardenSrc 0x3301 [] (State.bump_touch (by decide) v kSnapshotsHeld 1 (Touch.refl _ v))
  have hcount := (told_event (v.bump kSnapshotsHeld 1) wardenSrc 0x3301 []).counts kSnapshotsHeld (by decide) (by decide) (by decide)
  rw [State.bump_count] at hcount
  generalize (v.bump kSnapshotsHeld 1).event wardenSrc 0x3301 = w at *
  have hsnap : w.snap = v.snap := hevent .snap (by decide)
  refine ⟨(hown.trans hevent).mono (by decide), by rw [hsnap]; exact hnone, ?_, ?_⟩
  · unfold State.ownSlot at *
    rw [hsnap, hslot]
  · rw [hcount]
    unfold State.count
    rw [hctr]
theorem State.setJoined_spec (s : State) (k : Nat) : let t := s.setJoined k
    s.self ∈ sget [] t.snap.members k ∧ t.snap.own = s.snap.own ∧ t.snap.capture = s.snap.capture ∧ t.count kSnapshotsHeld = s.count kSnapshotsHeld := by
  have hsend := State.sendAll_touch (List.Subset.refl _) s wardenSrc 13 (snapArg 5 k) [] (Touch.refl _ s)
  have hcount := sendAll_count s wardenSrc 13 (snapArg 5 k) [] kSnapshotsHeld
  unfold State.setJoined
  dsimp only
  generalize s.sendAll wardenSrc 13 (snapArg 5 k) [] = v at *
  have hsnap : v.snap = s.snap := hsend .snap (by decide)
  obtain ⟨-, hmember, hown, hcapture, -⟩ := v.addMember_spec k s.self
  rw [hsnap] at hown hcapture
  refine ⟨hmember, hown, hcapture, Eq.trans ?_ hcount⟩
  by_cases hin : s.self ∈ sget [] v.snap.members k
  · rw [State.addMember_in hin]
  · rw [State.addMember_new hin]
    split
    · exact (told_event _ _ _ _).counts kSnapshotsHeld (by decide) (by decide) (by decide)
    · rfl
theorem copyIsHeld (s : State) (m : Msg) : ∃ t, exec (.held m) s = .next t ∧
    (s.snap.capture = none → t = s.took m) ∧
    (∀ c, s.snap.capture = some c → c.remote = false ∨ c.localDone = false ∨ m.origin ≠ s.partner ∨ m.arg % 2 ^ 32 ≠ c.step % 2 ^ 32 → t = s.took m) ∧
    (∀ c, s.snap.capture = some c → c.remote = true → c.localDone = true → m.origin = s.partner → m.arg % 2 ^ 32 = c.step % 2 ^ 32 →
      (t.ownSlot c.slot).state = 2 ∧ t.snap.capture = none ∧ t.count kSnapshotsHeld = s.count kSnapshotsHeld + 1 ∧ s.self ∈ sget [] t.snap.members c.step) := by
  cases hcapture : s.snap.capture with
  | none => exact ⟨_, exec_held_none hcapture, fun _ => rfl, fun c hc => (nomatch hc), fun c hc => (nomatch hc)⟩
  | some c =>
    have hthis (c' : Capture) (hc : some c = some c') : c' = c := (Option.some_injective _ hc).symm
    by_cases hheld : HeldBy s c m
    · obtain ⟨hremote, hdone, horigin, hstep⟩ := hheld
      refine ⟨_, exec_held hcapture ⟨hremote, hdone, horigin, hstep⟩, nofun, fun c' hc h => ?_, fun c' hc _ _ _ _ => ?_⟩
      · rw [hthis c' hc] at h
        rcases h with h | h | h | h
        · exact absurd hremote (by rw [h]; exact Bool.false_ne_true)
        · exact absurd hdone (by rw [h]; exact Bool.false_ne_true)
        · exact absurd horigin h
        · exact absurd hstep h
      · rw [hthis c' hc]
        obtain ⟨hsame, hnone, hslot, hcount⟩ := (s.onMsg m).copyHeld_spec c
        have hself : ((s.onMsg m).copyHeld c).self = s.self := self_of (hsame .job (by decide))
        generalize (s.onMsg m).copyHeld c = v at *
        obtain ⟨hmember, hown, hcapture', hcount'⟩ := v.setJoined_spec c.step
        rw [hself] at hmember
        refine ⟨?_, hcapture'.trans hnone, hcount'.trans hcount, hmember⟩
        show (sget {} (v.setJoined c.step).snap.own c.slot).state = 2
        rw [hown]
        exact hslot
    · refine ⟨_, exec_held_other hcapture hheld, fun _ => rfl, fun _ _ _ => rfl, fun c' hc h1 h2 h3 h4 => ?_⟩
      rw [hthis c' hc] at h1 h2 h4
      exact absurd ⟨h1, h2, h3, h4⟩ hheld

/-! ### The partner's side -/

theorem State.modPartner_slot (s : State) (i : Nat) (f : SnapSlot → SnapSlot) : (s.modPartner i f).partnerSlot i = f (s.partnerSlot i) :=
  sget_supd_same ({} : SnapSlot) s.snap.partner i f
theorem sb_modPartner (s : State) (i : Nat) (f : SnapSlot → SnapSlot) : SameBut [.snap] s (s.modPartner i f) := sb_snap s _
/-- The partner slot takes pages of this step and module already. -/
def SnapSlot.Takes (x : SnapSlot) (k : Nat) (m : Msg) : Prop := x.state = 1 ∧ x.step = k ∧ x.module = m.origin
/-- The slot into which the pages of a step go, as it is before. -/
def State.slotBase (s : State) (i k : Nat) (m : Msg) : SnapSlot :=
  if (s.partnerSlot i).state = 1 ∧ (s.partnerSlot i).step = k ∧ (s.partnerSlot i).module = m.origin then s.partnerSlot i
  else { state := 1, step := k, module := m.origin, modules := s.modules, jobId := s.jobId, stamp := m.stamp, digest := s.setDigest, coFed := s.snap.heldCoFed }
/-- A slot is made ready for the pages of a step. -/
def State.slotOpened (s : State) (i k : Nat) (m : Msg) : State :=
  if (s.partnerSlot i).state = 1 ∧ (s.partnerSlot i).step = k ∧ (s.partnerSlot i).module = m.origin then s
  else s.modPartner i fun _ => { state := 1, step := k, module := m.origin, modules := s.modules, jobId := s.jobId, stamp := m.stamp, digest := s.setDigest,
                                 coFed := s.snap.heldCoFed }
theorem State.slotOpened_spec (s : State) (i k : Nat) (m : Msg) : SameBut [.snap] s (s.slotOpened i k m) ∧ (s.slotOpened i k m).partnerSlot i = s.slotBase i k m := by
  unfold State.slotOpened State.slotBase
  split
  · exact ⟨Touch.refl _ s, rfl⟩
  · exact ⟨sb_modPartner s i _, s.modPartner_slot i _⟩
theorem State.slotBase_takes (s : State) (i k : Nat) (m : Msg) : (s.slotBase i k m).Takes k m := by
  unfold State.slotBase
  split
  · next h => exact h
  · exact ⟨rfl, rfl, rfl⟩
/-- Every page announced is here, each checked. -/
def SnapSlot.Whole (x : SnapSlot) : Prop := x.state = 1 ∧ (!x.bad) = true ∧ x.expect = some x.checked.length
theorem State.tryHeld_waits (h : ¬(s.partnerSlot i).Whole) : s.tryHeld i = s := if_neg h
theorem State.tryHeld_whole (h : (s.partnerSlot i).Whole) : s.tryHeld i =
    (s.modPartner i fun x => { x with state := 2 }).sendTo wardenSrc 13 (s.partnerSlot i).module (snapArg 4 (s.partnerSlot i).step) [] := if_pos h
theorem State.tryHeld_spec (h : (s.partnerSlot i).Whole) : (s.tryHeld i).partnerSlot i = { s.partnerSlot i with state := 2 } ∧
    Tells s (s.tryHeld i) 13 (s.partnerSlot i).module (snapArg 4 (s.partnerSlot i).step) (· = []) := by
  have hslot := s.modPartner_slot i fun x => { x with state := 2 }
  have hsame := sb_modPartner s i fun x => { x with state := 2 }
  rw [State.tryHeld_whole h]
  generalize s.modPartner i (fun x => { x with state := 2 }) = v at *
  have hsend := State.sendTo_touch (List.Subset.refl _) v wardenSrc 13 (s.partnerSlot i).module (snapArg 4 (s.partnerSlot i).step) [] (Touch.refl _ v)
  refine ⟨?_, (v.sendTo_tells _ _ _ _ _).of_same (congrArg Net.graph (hsame .net (by decide))) (hsame .job (by decide))⟩
  exact Eq.trans (congrArg (fun x : Snaps => sget ({} : SnapSlot) x.partner i) (hsend .snap (by decide))) hslot
/-- A slot that is whole once it has taken something is complete, and its module is told. -/
theorem State.heldAfter (s : State) {x y : SnapSlot} {f : SnapSlot → SnapSlot} (hx : s.partnerSlot i = x) (hy : f x = y) : let t := (s.modPartner i f).tryHeld i
    SameBut [.log, .skid, .snap, .out] s t ∧ (¬y.Whole → t.partnerSlot i = y) ∧
      (y.Whole → t.partnerSlot i = { y with state := 2 } ∧ Tells s t 13 y.module (snapArg 4 y.step) (· = [])) := by
  have hslot := s.modPartner_slot i f
  have hsame := sb_modPartner s i f
  rw [hx, hy] at hslot
  generalize s.modPartner i f = v at *
  have htry := State.tryHeld_touch (List.Subset.refl _) v i (Touch.refl _ v)
  refine ⟨(hsame.trans htry).mono (by decide), fun h => ?_, fun h => ?_⟩
  · rw [State.tryHeld_waits (by rw [hslot]; exact h)]
    exact hslot
  · obtain ⟨hheld, htells⟩ := State.tryHeld_spec (s := v) (i := i) (by rw [hslot]; exact h)
    rw [hslot] at hheld htells
    exact ⟨hheld, htells.of_same (congrArg Net.graph (hsame .net (by decide))) (hsame .job (by decide))⟩
/-- The bytes that a slot has of a page. -/
def SnapSlot.cellsOf (x : SnapSlot) (page : Nat) : List (Nat × Byte) := match x.pages.find? fun e => e.1 = page with | some e => e.2.2 | none => []
theorem SnapSlot.putCrc_eq (x : SnapSlot) (page crc : Nat) : x.putCrc page crc = if crcOfPage page (cellBytes pageBytes (x.cellsOf page)) = crc
    then { x with pages := x.pages.map fun e => if e.1 = page then (page, crc, e.2.2) else e, checked := x.checked ++ [page] } else { x with bad := true } := rfl
theorem SnapSlot.putCrc_good {x : SnapSlot} {page crc : Nat} (h : (x.putCrc page crc).bad = false) : x.bad = false ∧ (x.putCrc page crc).state = x.state ∧
    (x.putCrc page crc).step = x.step ∧ (x.putCrc page crc).module = x.module ∧ (x.putCrc page crc).expect = x.expect ∧
    (x.putCrc page crc).checked = x.checked ++ [page] := by
  rw [SnapSlot.putCrc_eq] at *
  split at h
  · next hok =>
    rw [if_pos hok]
    exact ⟨h, rfl, rfl, rfl, rfl, rfl⟩
  · cases h

theorem State.recause_slot (s : State) (x i : Nat) : (s.recause x).partnerSlot i = s.partnerSlot i := rfl
/-- The page that a message of pages names. -/
def pageOfArg (m : Msg) : Nat := bitsOf m.arg 31 27 * pagesPerStack + bitsOf m.arg 26 12
section
variable (hfor : s.snap.heldFor = some m.origin)
theorem exec_snapPage_other (h : s.snap.heldFor ≠ some m.origin) : exec (.snapPage m) s = .next (s.took m) := by
  show execSnapPage m s = _
  unfold execSnapPage
  rewrite [State.taken_eq]
  exact congrArg Host.Outcome.next (congrArg (fun u => State.recause u s.log.cause) (if_pos (.inl h)))
theorem exec_captureSent_other (h : s.snap.heldFor ≠ some m.origin) : exec (.captureSent m) s = .next (s.took m) := by
  show execCaptureSent m s = _
  unfold execCaptureSent
  rewrite [State.taken_eq]
  exact congrArg Host.Outcome.next (congrArg (fun u => State.recause u s.log.cause) (if_pos h))
include hfor
theorem exec_snapPage (hk : k = s.fullStep (m.arg / 2 ^ 32)) (hslot : s.slotFor m.origin k = some i) (hstate : s.job.state ≠ .fault) :
    exec (.snapPage m) s = .next ((if bitsOf m.arg 11 6 < 32
      then ((s.onMsg m).slotOpened i k m).modPartner i fun x => x.putChunk (pageOfArg m) (65536 * bitsOf m.arg 11 6) m.body
      else (((s.onMsg m).slotOpened i k m).modPartner i fun x => x.putCrc (pageOfArg m) (fieldAt m.body 0 4)).tryHeld i).recause s.log.cause) := by
  have hslot' : (s.onMsg m).slotFor m.origin ((s.onMsg m).fullStep (m.arg / 2 ^ 32)) = some i := by
    rw [show (s.onMsg m).fullStep (m.arg / 2 ^ 32) = k from hk.symm]
    exact hslot
  have hno : ¬((s.onMsg m).snap.heldFor ≠ some m.origin ∨ (s.onMsg m).job.state = .fault) := not_or.2 ⟨not_not.2 hfor, hstate⟩
  show execSnapPage m s = _
  unfold execSnapPage
  rewrite [State.taken_eq, if_neg hno, hslot', show (s.onMsg m).fullStep (m.arg / 2 ^ 32) = k from hk.symm]
  rfl
theorem exec_captureSent (hk : k = s.fullStep (m.arg % 2 ^ 32)) (hslot : s.slotFor m.origin k = some i) :
    exec (.captureSent m) s = .next (((((s.onMsg m).slotOpened i k m).modPartner i fun x => { x with expect := some (fieldAt m.body 0 4) }).tryHeld i).recause s.log.cause) := by
  have hslot' : (s.onMsg m).slotFor m.origin ((s.onMsg m).fullStep (m.arg % 2 ^ 32)) = some i := by
    rw [show (s.onMsg m).fullStep (m.arg % 2 ^ 32) = k from hk.symm]
    exact hslot
  have hno : ¬(s.onMsg m).snap.heldFor ≠ some m.origin := not_not.2 hfor
  show execCaptureSent m s = _
  unfold execCaptureSent
  rewrite [State.taken_eq, if_neg hno, hslot', show (s.onMsg m).fullStep (m.arg % 2 ^ 32) = k from hk.symm]
  rfl
end
/-- What a message of pages leaves of the slot that takes it. -/
def PageTaken (s t : State) (m : Msg) (i k page : Nat) (base : SnapSlot) : Prop :=
  t.mem = s.mem ∧
  (bitsOf m.arg 11 6 < 32 → t.partnerSlot i = base.putChunk page (65536 * bitsOf m.arg 11 6) m.body ∧ SameBut [.log, .net, .snap] s t) ∧
  (32 ≤ bitsOf m.arg 11 6 → (base.putCrc page (fieldAt m.body 0 4)).bad = true → t.partnerSlot i = base.putCrc page (fieldAt m.body 0 4)) ∧
  (32 ≤ bitsOf m.arg 11 6 → (base.putCrc page (fieldAt m.body 0 4)).bad = false → base.expect = some (base.checked.length + 1) →
       t.partnerSlot i = { base.putCrc page (fieldAt m.body 0 4) with state := 2 } ∧ Tells s t 13 m.origin (snapArg 4 k) (· = []))
/-- A slot takes a chunk of a page. -/
theorem State.chunkTaken {v : State} {base : SnapSlot} (hsame : SameBut [.log, .net, .snap] s v) (hbase : v.partnerSlot i = base) (page : Nat)
    (hchunk : bitsOf m.arg 11 6 < 32) : PageTaken s ((v.modPartner i fun x => x.putChunk page (65536 * bitsOf m.arg 11 6) m.body).recause s.log.cause) m i k page base := by
  have hput := v.modPartner_slot i fun x => x.putChunk page (65536 * bitsOf m.arg 11 6) m.body
  have hput' := sb_modPartner v i fun x => x.putChunk page (65536 * bitsOf m.arg 11 6) m.body
  rw [hbase] at hput
  generalize (v.modPartner i fun x => x.putChunk page (65536 * bitsOf m.arg 11 6) m.body) = w at *
  have hall := ((hsame.trans hput').trans (sb_recause _ s.log.cause)).mono (show _ ⊆ [Part.log, .net, .snap] by decide)
  exact ⟨hall .mem (by decide), fun _ => ⟨hput, hall⟩, fun h => absurd hchunk (Nat.not_lt.2 h), fun h => absurd hchunk (Nat.not_lt.2 h)⟩
/-- A slot takes the CRC of a page. -/
theorem State.crcTaken {v : State} {base : SnapSlot} (hsame : SameBut [.log, .net, .snap] s v) (hgraph : v.net.graph = s.net.graph) (hbase : v.partnerSlot i = base)
    (htakes : base.Takes k m) (page : Nat) (hchunk : ¬bitsOf m.arg 11 6 < 32) :
    PageTaken s (((v.modPartner i fun x => x.putCrc page (fieldAt m.body 0 4)).tryHeld i).recause s.log.cause) m i k page base := by
  obtain ⟨htried, hwaits, hwhole⟩ := v.heldAfter (f := fun x => x.putCrc page (fieldAt m.body 0 4)) (y := base.putCrc page (fieldAt m.body 0 4)) hbase rfl
  have hcrc := SnapSlot.putCrc_good (x := base) (page := page) (crc := fieldAt m.body 0 4)
  obtain ⟨htakes1, htakes2, htakes3⟩ := htakes
  generalize (v.modPartner i fun x => x.putCrc page (fieldAt m.body 0 4)).tryHeld i = w at *
  have hall := (hsame.trans htried).trans (sb_recause _ s.log.cause)
  have hmem : (w.recause s.log.cause).mem = s.mem := hall .mem (by decide)
  refine ⟨hmem, fun h => absurd h hchunk, fun _ hbad => ?_, fun _ hgood hexpect => ?_⟩
  · generalize base.putCrc page (fieldAt m.body 0 4) = y at *
    refine (w.recause_slot _ i).trans (hwaits fun h => ?_)
    have := h.2.1
    rw [hbad] at this
    cases this
  · generalize base.putCrc page (fieldAt m.body 0 4) = y at *
    obtain ⟨-, hstate, hstep, hmodule, hexpect', hchecked⟩ := hcrc hgood
    obtain ⟨hdone, htells⟩ := hwhole ⟨hstate.trans htakes1, by rw [hgood]; rfl, by rw [hexpect', hchecked, hexpect, List.length_append]; rfl⟩
    rw [hstep, hmodule, htakes3, htakes2] at htells
    exact ⟨(w.recause_slot _ i).trans hdone, (htells.of_same hgraph (hsame .job (by decide))).recause _⟩
theorem pageTaken (s : State) (m : Msg) (i k : Nat) (hk : k = s.fullStep (m.arg / 2 ^ 32)) (hfor : s.snap.heldFor = some m.origin) (hslot : s.slotFor m.origin k = some i)
    (hstate : s.job.state ≠ .fault) : ∃ t, exec (.snapPage m) s = .next t ∧ PageTaken s t m i k (pageOfArg m) (s.slotBase i k m) := by
  obtain ⟨hopened, hbase⟩ := (s.onMsg m).slotOpened_spec i k m
  change _ = s.slotBase i k m at hbase
  have htakes := s.slotBase_takes i k m
  have hsame : SameBut [.log, .net, .snap] s ((s.onMsg m).slotOpened i k m) := ((sb_onMsg s m).trans hopened).mono (by decide)
  have hgraph : ((s.onMsg m).slotOpened i k m).net.graph = s.net.graph := Eq.trans (congrArg Net.graph (hopened .net (by decide))) rfl
  rw [exec_snapPage hfor hk hslot hstate]
  refine ⟨_, rfl, ?_⟩
  by_cases hchunk : bitsOf m.arg 11 6 < 32
  · rw [if_pos hchunk]
    exact State.chunkTaken hsame hbase _ hchunk
  · rw [if_neg hchunk]
    exact State.crcTaken hsame hgraph hbase htakes _ hchunk
theorem pagesAnnounced (s : State) (m : Msg) (i k : Nat) (hk : k = s.fullStep (m.arg % 2 ^ 32)) (hfor : s.snap.heldFor = some m.origin)
    (hslot : s.slotFor m.origin k = some i) : let base := s.slotBase i k m
      ∃ t, exec (.captureSent m) s = .next t ∧ t.mem = s.mem ∧
        if base.bad = false ∧ base.checked.length = fieldAt m.body 0 4
        then t.partnerSlot i = { base with expect := some (fieldAt m.body 0 4), state := 2 } ∧ Tells s t 13 m.origin (snapArg 4 k) (· = [])
        else t.partnerSlot i = { base with expect := some (fieldAt m.body 0 4) } := by
  intro base
  have hexec := exec_captureSent hfor hk hslot
  obtain ⟨hopened, hbase⟩ := (s.onMsg m).slotOpened_spec i k m
  change _ = base at hbase
  obtain ⟨htakes1, htakes2, htakes3⟩ := s.slotBase_takes i k m
  have hsame := (sb_onMsg s m).trans hopened
  rw [hexec]
  generalize (s.onMsg m).slotOpened i k m = v at *
  obtain ⟨htried, hwaits, hwhole⟩ := v.heldAfter (f := fun x => { x with expect := some (fieldAt m.body 0 4) }) hbase rfl
  have hall := (hsame.trans htried).trans (sb_recause _ s.log.cause)
  refine ⟨_, rfl, hall .mem (by decide), ?_⟩
  by_cases hdone : base.bad = false ∧ base.checked.length = fieldAt m.body 0 4
  · rw [if_pos hdone]
    obtain ⟨hslot', htells⟩ := hwhole ⟨htakes1, by show (!base.bad) = true; rw [hdone.1]; rfl, by show some _ = some base.checked.length; rw [hdone.2]⟩
    change Tells v _ 13 base.module (snapArg 4 base.step) _ at htells
    rw [show base.module = m.origin from htakes3, show base.step = k from htakes2] at htells
    exact ⟨hslot', htells.of_same (Eq.trans (congrArg Net.graph (hopened .net (by decide))) rfl) (Eq.trans (hopened .job (by decide)) rfl)⟩
  · rw [if_neg hdone]
    refine hwaits fun ⟨_, hbad, hexpect⟩ => hdone ⟨?_, ?_⟩
    · exact Bool.not_eq_true' _ ▸ hbad
    · exact (Option.some_injective _ hexpect).symm
end
end Sys2Proof.Machine
end

section
/-! PROOFS. Pairing and the windthrow index (R435, R436, R438 to R441), and O58. -/

namespace Sys2Proof.Machine

section
variable {s t : State} {m : Msg} {k : Nat}

/-! ### Pairing -/

/-- A partner's copies are to be held here. -/
def State.heldForOf (s : State) (m : Msg) : State :=
  { s with snap := { s.snap with heldFor := some m.origin, heldPages := fieldAt m.body 8 4, heldCoFed := coFed s.feedIds (pairFeeds m) } }
/-- What a `PAIR` of such a result leaves, before it is answered. -/
def State.pairedWith (s : State) (m : Msg) (r : Nat) : State := if r = 0 then (s.heldForOf m).noteCoFed m else s
theorem exec_pair (s : State) (m : Msg) : exec (.pair m) s =
    .next ((((s.onMsg m).pairedWith m ((s.onMsg m).pairResult m)).sendTo wardenSrc 13 m.origin (snapArg 2 0)
      (((s.onMsg m).pairedWith m ((s.onMsg m).pairResult m)).pairBody ++ u8 ((s.onMsg m).pairResult m))).recause s.log.cause) := rfl
theorem State.pairResult_of (hcxl : t.cxl = s.cxl) (htally : t.tally = s.tally) (hcow : t.cow = s.cow) (hsnap : t.snap = s.snap) (hjob : t.job = s.job) (m : Msg) :
    t.pairResult m = s.pairResult m := by
  unfold State.pairResult State.partnerArea State.markedCount State.jobId State.active
  rw [hcxl, htally, hcow, hsnap, hjob]
theorem State.pairBody_of (hcxl : t.cxl = s.cxl) (htally : t.tally = s.tally) (hcow : t.cow = s.cow) (hjob : t.job = s.job) : t.pairBody = s.pairBody := by
  unfold State.pairBody State.feedIds State.partnerArea State.markedCount State.jobId State.active State.rwValue
  rw [hcxl, htally, hcow, hjob]
theorem State.pairedWith_spec (s : State) (m : Msg) (r : Nat) : SameBut [.log, .host, .snap, .ctr, .out] s (s.pairedWith m r) ∧
    (s.pairedWith m r).snap = if r = 0 then { s.snap with heldFor := some m.origin, heldPages := fieldAt m.body 8 4, heldCoFed := coFed s.feedIds (pairFeeds m) }
      else s.snap := by
  have hheld : SameBut [.snap] s (s.heldForOf m) := sb_snap s _
  have hsnap : (s.heldForOf m).snap = { s.snap with heldFor := some m.origin, heldPages := fieldAt m.body 8 4, heldCoFed := coFed s.feedIds (pairFeeds m) } := rfl
  unfold State.pairedWith
  generalize s.heldForOf m = v at *
  split
  · have hnoted := State.noteCoFed_touch (List.Subset.refl _) v m (Touch.refl _ v)
    exact ⟨(hheld.trans hnoted).mono (by decide), (hnoted .snap (by decide)).trans hsnap⟩
  · exact ⟨Touch.refl _ s, rfl⟩
theorem pairAnswered (s : State) (m : Msg) : ∃ t, exec (.pair m) s = .next t ∧ Tells s t 13 m.origin (snapArg 2 0) (· = s.pairBody ++ u8 (s.pairResult m)) ∧
    (s.pairResult m ≠ 0 → t.snap = s.snap) ∧
    (s.pairResult m = 0 → t.snap = { s.snap with heldFor := some m.origin, heldPages := fieldAt m.body 8 4, heldCoFed := coFed s.feedIds (pairFeeds m) }) := by
  refine ⟨_, exec_pair s m, ?_⟩
  have honmsg := sb_onMsg s m
  have hgraph : (s.onMsg m).net.graph = s.net.graph := rfl
  have hfeeds : (s.onMsg m).feedIds = s.feedIds := rfl
  generalize s.onMsg m = u at *
  have hresult := State.pairResult_of (honmsg .cxl (by decide)) (honmsg .tally (by decide)) (honmsg .cow (by decide)) (honmsg .snap (by decide)) (honmsg .job (by decide)) m
  obtain ⟨hpaired, hsnap⟩ := u.pairedWith_spec m (u.pairResult m)
  rw [hresult] at hpaired hsnap ⊢
  rw [hfeeds, show u.snap = s.snap from honmsg .snap (by decide)] at hsnap
  generalize u.pairedWith m (s.pairResult m) = v at *
  have hall := honmsg.trans hpaired
  have hbody := State.pairBody_of (hall .cxl (by decide)) (hall .tally (by decide)) (hall .cow (by decide)) (hall .job (by decide))
  rw [hbody]
  have hsend := State.sendTo_touch (List.Subset.refl _) v wardenSrc 13 m.origin (snapArg 2 0) (s.pairBody ++ u8 (s.pairResult m)) (Touch.refl _ v)
  have htells := v.sendTo_tells wardenSrc 13 m.origin (snapArg 2 0) (s.pairBody ++ u8 (s.pairResult m))
  generalize v.sendTo wardenSrc 13 m.origin (snapArg 2 0) (s.pairBody ++ u8 (s.pairResult m)) = w at *
  have hsnapW : (w.recause s.log.cause).snap = v.snap := hsend .snap (by decide)
  refine ⟨(htells.of_same ((congrArg Net.graph (hpaired .net (by decide))).trans hgraph) (hall .job (by decide))).recause _, fun h => ?_, fun h => ?_⟩
  · rw [hsnapW, hsnap, if_neg h]
  · rw [hsnapW, hsnap, if_pos h]
/-- The partner's answer is kept. -/
def State.ackKept (s : State) (m : Msg) : State :=
  { s with snap := { s.snap with paired := some (fieldAt m.body 28 1), partnerFeeds := pairFeeds m, coFed := coFed s.feedIds (pairFeeds m) } }
theorem exec_pairAck_other (h : m.origin ≠ s.partner) : exec (.pairAck m) s = .next (s.took m) := by
  show execPairAck m s = _
  unfold execPairAck
  rewrite [State.taken_eq]
  exact congrArg Host.Outcome.next (congrArg (fun u => State.recause u s.log.cause) (if_pos h))
theorem exec_pairAck (h : m.origin = s.partner) : exec (.pairAck m) s =
    .next ((if fieldAt m.body 28 1 = 0 then ((s.onMsg m).ackKept m).noteCoFed m else (s.onMsg m).ackKept m).recause s.log.cause) := by
  show execPairAck m s = _
  unfold execPairAck
  rewrite [State.taken_eq]
  exact congrArg Host.Outcome.next (congrArg (fun u => State.recause u s.log.cause) (if_neg (not_not.2 h)))
theorem pairAcknowledged (s : State) (m : Msg) : ∃ t, exec (.pairAck m) s = .next t ∧
    (m.origin ≠ s.partner → t = s.took m) ∧
    (m.origin = s.partner → t.snap = { s.snap with paired := some (fieldAt m.body 28 1), partnerFeeds := pairFeeds m, coFed := coFed s.feedIds (pairFeeds m) } ∧
      (fieldAt m.body 28 1 = 0 → coFed s.feedIds (pairFeeds m) = true → s.start.wardenHeld = false → Raised t wardenSrc 0x7300)) := by
  by_cases hpartner : m.origin = s.partner
  · refine ⟨_, exec_pairAck hpartner, fun h => absurd hpartner h, fun _ => ?_⟩
    have hsnap : ((s.onMsg m).ackKept m).snap = { s.snap with paired := some (fieldAt m.body 28 1), partnerFeeds := pairFeeds m, coFed := coFed s.feedIds (pairFeeds m) } := rfl
    have hfeeds : ((s.onMsg m).ackKept m).feedIds = s.feedIds := rfl
    have hstart : ((s.onMsg m).ackKept m).start = s.start := rfl
    generalize (s.onMsg m).ackKept m = v at *
    by_cases hzero : fieldAt m.body 28 1 = 0
    · rw [if_pos hzero]
      refine ⟨Eq.trans (State.noteCoFed_touch (List.Subset.refl _) v m (Touch.refl _ v) .snap (by decide)) hsnap, fun _ hshared hheld => raised_recause ?_ _⟩
      unfold State.noteCoFed
      rw [hfeeds, if_pos hshared]
      exact raised_event _ _ _ _ (by rw [hstart]; exact hheld)
    · rw [if_neg hzero]
      exact ⟨hsnap, fun h => absurd h hzero⟩
  · exact ⟨_, exec_pairAck_other hpartner, fun _ => rfl, fun h => absurd h hpartner⟩

/-! ### The windthrow index (R435, R436) -/

/-- The parts of the index, and the index. -/
def State.strain (s : State) : Nat := s.snap.e - s.snap.e / 4096
def State.holdoverPart (s : State) : Nat := 8192 * s.holdoverMs / 1000
def State.windthrow (s : State) : Nat := min 65535 (s.strain + s.thermalPart + s.holdoverPart)
/-- The limit at which the index asks for a capture. -/
def State.windthrowLimit (s : State) : Nat := s.rwValue 0x8100 2 40000
/-- The index is formed. -/
def State.indexFormed (s : State) : State :=
  { s with snap := { s.snap with e := s.strain, t := s.thermalPart, h := s.holdoverPart, index := s.windthrow, lastEval := s.beat,
                                 armed := if s.snap.armed && decide (s.windthrowLimit ≤ s.windthrow) then false
                                   else s.snap.armed || decide (s.windthrow + 4096 < s.windthrowLimit) } }
/-- The index asks for a capture. -/
def State.windthrowCalled (s : State) (x : Nat) : State :=
  match s.requestStep with
  | some k =>
    if (s.event wardenSrc 0x3300 (u16 x ++ u32 k)).partner = 0xFFFF ∨ (s.event wardenSrc 0x3300 (u16 x ++ u32 k)).job.state = .fault
    then s.event wardenSrc 0x3300 (u16 x ++ u32 k)
    else ((s.event wardenSrc 0x3300 (u16 x ++ u32 k)).sendAll wardenSrc 11 k []).noteRequest k
  | none => s.nextFree.event wardenSrc 0x3300 (u16 x ++ u32 (Config.freeNat s.free))
theorem exec_windthrow (s : State) : exec .windthrowEvaluation s = .next (if s.beat / 1024 = s.snap.lastEval / 1024 then s
    else if (s.snap.armed && decide (s.windthrowLimit ≤ s.windthrow)) = true then s.indexFormed.windthrowCalled s.windthrow else s.indexFormed) := by
  show execWindthrowEvaluation s = _
  unfold execWindthrowEvaluation
  rfl
theorem calls_iff (s : State) : (s.snap.armed && decide (s.windthrowLimit ≤ s.windthrow)) = true ↔ s.snap.armed = true ∧ s.windthrowLimit ≤ s.windthrow := by
  rw [Bool.and_eq_true, decide_eq_true_eq]
/-- What the call for a capture leaves of the index, and whom it tells. -/
theorem State.windthrowCalled_spec (s : State) (x : Nat) : let t := s.windthrowCalled x
    (∃ r, t.snap = { s.snap with requested := r }) ∧ t.mem = s.mem ∧
    (s.start.wardenHeld = false → s.partner = 0xFFFF ∨ s.requestStep = none → Raised t wardenSrc 0x3300) ∧
    (∀ k, s.requestStep = some k → s.partner ≠ 0xFFFF → s.job.state ≠ .fault → s.hasCleared k = false → k ∈ t.snap.requested) := by
  unfold State.windthrowCalled
  cases hstep : s.requestStep with
  | none =>
    have hevent := sameBut_event s.nextFree wardenSrc 0x3300 (u16 x ++ u32 (Config.freeNat s.free))
    exact ⟨⟨s.snap.requested, hevent .snap (by decide)⟩, hevent .mem (by decide), fun hheld _ => raised_event _ _ _ _ hheld, fun k hk => (nomatch hk)⟩
  | some k =>
    have hevent := sameBut_event s wardenSrc 0x3300 (u16 x ++ u32 k)
    have hraised (hheld : s.start.wardenHeld = false) := raised_event s wardenSrc 0x3300 (u16 x ++ u32 k) hheld
    dsimp only
    generalize s.event wardenSrc 0x3300 (u16 x ++ u32 k) = v at *
    have hpartner : v.partner = s.partner := by
      unfold State.partner State.active
      rw [show v.tally = s.tally from hevent .tally (by decide)]
    have hjob : v.job = s.job := hevent .job (by decide)
    have hsnap : v.snap = s.snap := hevent .snap (by decide)
    have hmem : v.mem = s.mem := hevent .mem (by decide)
    rw [hpartner, hjob]
    by_cases halone : s.partner = 0xFFFF ∨ s.job.state = .fault
    · rw [if_pos halone]
      refine ⟨⟨s.snap.requested, hsnap⟩, hmem, fun hheld _ => hraised hheld, fun k' _ h1 h2 => ?_⟩
      exact (halone.elim h1 h2).elim
    · rw [if_neg halone]
      have hsend := State.sendAll_touch (List.Subset.refl _) v wardenSrc 11 k [] (Touch.refl _ v)
      generalize v.sendAll wardenSrc 11 k [] = w at *
      have hrequest := State.noteRequest_touch (List.Subset.refl _) w k (Touch.refl _ w)
      have hsnapW : w.snap = s.snap := (hsend .snap (by decide)).trans hsnap
      have hjobW : w.job = s.job := (hsend .job (by decide)).trans hjob
      have hclearedW : w.hasCleared k = s.hasCleared k := by
        unfold State.hasCleared
        rw [hjobW]
      refine ⟨?_, (hrequest .mem (by decide)).trans ((hsend .mem (by decide)).trans hmem), fun _ h => ?_, fun k' hk _ _ hcleared => ?_⟩
      · by_cases hcleared : w.hasCleared k = true
        · rw [State.noteRequest_cleared hcleared]
          exact ⟨s.snap.requested, (State.refuseCapture_touch (List.Subset.refl _) w k 1 (Touch.refl _ w) .snap (by decide)).trans hsnapW⟩
        · rw [State.noteRequest_open hcleared, ← hsnapW]
          exact ⟨_, rfl⟩
      · rcases h with h | h
        · exact absurd (.inl h) halone
        · cases h
      · obtain rfl : k = k' := Option.some_injective _ hk
        rw [State.noteRequest_open (by rw [hclearedW, hcleared]; exact Bool.false_ne_true)]
        show k ∈ (if k ∈ w.snap.requested then w.snap.requested else w.snap.requested ++ [k])
        split
        · next hin => exact hin
        · exact List.mem_append_right _ (List.mem_singleton.2 rfl)
theorem windthrowEvaluated (s : State) : ∃ t, exec .windthrowEvaluation s = .next t ∧
    (s.beat / 1024 = s.snap.lastEval / 1024 → t = s) ∧
    (s.beat / 1024 ≠ s.snap.lastEval / 1024 → t.snap.e = s.strain ∧ t.snap.t = s.thermalPart ∧ t.snap.h = s.holdoverPart ∧ t.snap.index = s.windthrow ∧
      t.snap.lastEval = s.beat ∧ t.mem = s.mem ∧
      (s.snap.armed = false ∨ s.windthrow < s.windthrowLimit → SameBut [.snap] s t ∧ (t.snap.armed = true ↔ s.snap.armed = true ∨ s.windthrow + 4096 < s.windthrowLimit)) ∧
      (s.snap.armed = true → s.windthrowLimit ≤ s.windthrow → t.snap.armed = false ∧
        (s.start.wardenHeld = false → s.partner = 0xFFFF ∨ s.requestStep = none → Raised t wardenSrc 0x3300) ∧
        (∀ k, s.requestStep = some k → s.partner ≠ 0xFFFF → s.job.state ≠ .fault → s.hasCleared k = false → k ∈ t.snap.requested))) := by
  refine ⟨_, exec_windthrow s, fun h => if_pos h, fun h => ?_⟩
  rw [if_neg h]
  have hformed : SameBut [.snap] s s.indexFormed := sb_snap s _
  by_cases hcalls : (s.snap.armed && decide (s.windthrowLimit ≤ s.windthrow)) = true
  · rw [if_pos hcalls]
    obtain ⟨harmed, hlimit⟩ := (calls_iff s).1 hcalls
    have hoff : s.indexFormed.snap.armed = false := if_pos hcalls
    obtain ⟨⟨r, hsnap⟩, hmem, hraised, hrequested⟩ := s.indexFormed.windthrowCalled_spec s.windthrow
    rw [hsnap]
    refine ⟨rfl, rfl, rfl, rfl, rfl, hmem, fun h => ?_, fun _ _ => ⟨hoff, fun hheld h => hraised hheld h, fun k hk h1 h2 h3 => ?_⟩⟩
    · rcases h with h | h
      · rw [harmed] at h
        cases h
      · exact absurd hlimit (Nat.not_le.2 h)
    · rw [← hsnap]
      exact hrequested k hk h1 h2 h3
  · rw [if_neg hcalls]
    refine ⟨rfl, rfl, rfl, rfl, rfl, rfl, fun _ => ⟨hformed, ?_⟩, fun h1 h2 => absurd ((calls_iff s).2 ⟨h1, h2⟩) hcalls⟩
    have hnext : s.indexFormed.snap.armed = (s.snap.armed || decide (s.windthrow + 4096 < s.windthrowLimit)) := if_neg hcalls
    rw [hnext, Bool.or_eq_true, decide_eq_true_eq]
end

/-- Settles O58: a first-touch copy moves the old page to its pool page, the pages of a capture gather in slots with their CRCs until their
count is met, and the windthrow index asks for a capture once. -/
theorem capturesAreTakenAndHeld : Obligations.CapturesAreTakenAndHeld := by
  unfold Obligations.CapturesAreTakenAndHeld
  intro sent
  have hsent (s t : State) (dst arg : Nat) (body : Bytes) (h : Tells s t 13 dst arg (· = body)) : sent s t dst arg body := h
  refine ⟨firstTouchCopy, pageReadOut, fun s m => ⟨captureRequested s m, rfl, setMember s m, copyIsHeld s m, fun i k hk hfor hslot hstate => ?_,
    fun h => ⟨exec_snapPage_other h, exec_captureSent_other h⟩, fun i k hk hfor hslot => ?_, ?_, pairAcknowledged s m⟩, windthrowEvaluated⟩
  · obtain ⟨t, hexec, hmem, hchunk, hbad, hlast⟩ := pageTaken s m i k hk hfor hslot hstate
    exact ⟨t, hexec, hmem, hchunk, hbad, fun h1 h2 h3 => ⟨(hlast h1 h2 h3).1, hsent _ _ _ _ _ (hlast h1 h2 h3).2⟩⟩
  · exact pagesAnnounced s m i k hk hfor hslot
  · obtain ⟨t, hexec, htells, hrefused, htaken⟩ := pairAnswered s m
    exact ⟨t, hexec, hsent _ _ _ _ _ htells, hrefused, htaken⟩

end Sys2Proof.Machine
end

section
/-! PROOFS. The writes that set, begin and stop a restore (R452 to R454, R458). -/

namespace Sys2Proof.Machine

section
variable {s t : State} {q : Req}

/-! ### What a restore looks at -/

theorem State.restoreFrom_of (htally : t.tally = s.tally) : t.restoreFrom = s.restoreFrom := by
  unfold State.restoreFrom State.rwValue
  rw [htally]
theorem State.extentCount_of (hcow : t.cow = s.cow) : t.extentCount = s.extentCount := by
  unfold State.extentCount
  rw [hcow]
theorem State.slotGood_of (hjob : t.job = s.job) (x : SnapSlot) (k n : Nat) : t.slotGood x k n = s.slotGood x k n := by
  unfold State.slotGood State.jobId State.setDigest
  rw [hjob]
theorem State.localSource_of (htally : t.tally = s.tally) (hcow : t.cow = s.cow) (hjob : t.job = s.job) (hown : t.snap.own = s.snap.own) :
    t.localSource = s.localSource := by
  have hgood : t.slotGood = s.slotGood := by
    funext x k n
    exact State.slotGood_of hjob x k n
  have hslot : t.ownSlot = s.ownSlot := by
    funext i
    unfold State.ownSlot
    rw [hown]
  unfold State.localSource State.restoreStep State.rwValue
  rw [htally, hcow, hgood, hslot, self_of hjob]

/-! ### A restore ends, or asks its source -/

/-- No restore reads a flow. -/
theorem State.closeRestoreFlow_none (s : State) : s.closeRestoreFlow none = s := rfl
/-- What a lost flow means for the library. -/
def State.libraryLost (s : State) (f : Flow) : State := if f.channel = 1 then { s with host := { s.host with library := sset [] s.host.library f.sub [] } } else s
/-- What a lost flow means for the checkpoint that streams on it. -/
def State.checkpointLost (s : State) (f : Flow) : State :=
  match s.snap.checkpoint with
  | some c => if c.flow = some f.id then { s with snap := { s.snap with checkpoint := some { c with flow := none, since := s.time.cycles } } }.event wardenSrc 0x3306 else s
  | none => s
theorem State.libraryLost_snap (s : State) (f : Flow) : (s.libraryLost f).snap = s.snap := by
  unfold State.libraryLost
  split <;> rfl
theorem State.checkpointLost_restore (s : State) (f : Flow) : (s.checkpointLost f).snap.restore = s.snap.restore := by
  unfold State.checkpointLost
  split
  · next c hc =>
    split
    · have hevent := sameBut_event { s with snap := { s.snap with checkpoint := some { c with flow := none, since := s.time.cycles } } } wardenSrc 0x3306 []
      exact (congrArg Snaps.restore (hevent .snap (by decide)) :)
    · rfl
  · rfl
theorem State.flowLost_restore (f : Flow) (h : s.snap.restore.flow = none) : (s.flowLost f).snap.restore = s.snap.restore := by
  have hkept : ((s.libraryLost f).checkpointLost f).snap.restore = s.snap.restore :=
    ((s.libraryLost f).checkpointLost_restore f).trans (congrArg Snaps.restore (s.libraryLost_snap f))
  have hsame : s.flowLost f = (s.libraryLost f).checkpointLost f := if_neg fun h' => by
    have hflow : ((s.libraryLost f).checkpointLost f).snap.restore.flow = some f.id := h'.1
    rw [hkept, h] at hflow
    cases hflow
  rw [hsame]
  exact hkept
theorem State.closeRestoreFlow_restore (f : Option Nat) (h : s.snap.restore.flow = none) : (s.closeRestoreFlow f).snap.restore = s.snap.restore := by
  unfold State.closeRestoreFlow
  split
  · exact State.flowLost_restore (s := { s with host := _ }) _ h
  · rfl
theorem State.abandonRestore_restore (s : State) (cause : Nat) : (s.abandonRestore cause).snap.restore = { state := 4 } := by
  have hevent : ((s.modRestore fun _ => { state := 4 }).event wardenSrc 0x3309 (u8 cause)).snap = (s.modRestore fun _ => { state := 4 }).snap :=
    sameBut_event (s.modRestore fun _ => { state := 4 }) wardenSrc 0x3309 (u8 cause) .snap (by decide)
  have hrestore : ((s.modRestore fun _ => { state := 4 }).event wardenSrc 0x3309 (u8 cause)).snap.restore = { state := 4 } := by
    rw [hevent]
    rfl
  unfold State.abandonRestore
  dsimp only
  rw [State.closeRestoreFlow_restore _ (by rw [hrestore]), hrestore]
theorem State.finishRestore_restore (s : State) : s.finishRestore.snap.restore = { s.snap.restore with state := 2 } := by
  unfold State.finishRestore
  rw [show ((s.modRestore fun r => { r with state := 2 }).event wardenSrc 0x3307).snap = (s.modRestore fun r => { r with state := 2 }).snap from
    sameBut_event _ _ _ _ .snap (by decide)]
  rfl
theorem State.askRestore_restore (s : State) : s.askRestore.snap.restore = s.snap.restore ∨
    s.askRestore.snap.restore = { s.snap.restore with asked := true, chunks := 0, manifest := [] } := by
  unfold State.askRestore
  split
  · have hsend := State.sendTo_touch (List.Subset.refl _) (s.modRestore fun r => { r with asked := true, chunks := 0, manifest := [] }) wardenSrc 14 s.restoreFrom
      ((s.restoreStep % 2 ^ 32) * 2 ^ 32 + s.snap.restore.verified) [] (Touch.refl _ _)
    exact .inr (congrArg Snaps.restore (hsend .snap (by decide)))
  · exact .inl rfl

/-! ### RESTORE_STEP and RESTORE_FROM -/

/-- A value of a restore is taken, and the restore cleared. -/
def State.restoreSet (s : State) (q : Req) : State := ((s.putValue (reqKey q) q.data false).modRestore fun _ => {}).closeRestoreFlow s.snap.restore.flow
theorem State.restoreSet_spec (q : Req) (h : s.snap.restore.flow = none) : (s.restoreSet q).snap.restore = {} ∧ bytesOr (s.restoreSet q).tally.rw (reqKey q) [] = q.data ∧
    (s.restoreSet q).snap.own = s.snap.own ∧ (s.restoreSet q).mem = s.mem := by
  unfold State.restoreSet
  rw [h, State.closeRestoreFlow_none]
  exact ⟨rfl, bytesOr_put _ _ _ _, rfl, rfl⟩
theorem exec_restoreStep_one (hfresh : Fresh s q) (hin : InSession s q) (hwhole : WholeWrite q 0x8130 1 8) :
    exec (.restoreStep q) s = .next ((accept ((s.hearing q).restoreSet q)).finish (s.sid q) 2 q) := by
  have hone : reqIs q 0x8130 1 = true := decide_eq_true ⟨hwhole.1, hwhole.2.1⟩
  show execRestoreStep q s = _
  unfold execRestoreStep
  exact congrArg Host.Outcome.next ((if_pos hone).trans (s.serveWrite_session hfresh hin hwhole _))
theorem exec_restoreStep_two (hfresh : Fresh s q) (hin : InSession s q) (hwhole : WholeWrite q 0x8130 2 2) : exec (.restoreStep q) s =
    .next ((if 4096 ≤ leNat q.data ∧ leNat q.data < 0xFFFE then refuse (s.hearing q) abRange else accept ((s.hearing q).restoreSet q)).finish (s.sid q) 2 q) := by
  have hone : ¬reqIs q 0x8130 1 = true := by
    rw [reqIs, decide_eq_true_eq, hwhole.2.1]
    exact fun h => absurd h.2 (by decide)
  show execRestoreStep q s = _
  unfold execRestoreStep
  exact congrArg Host.Outcome.next ((if_neg hone).trans (s.serveWrite_session hfresh hin hwhole _))
theorem finish_snap (a : Answer) (sid op : Nat) (q : Req) : (a.finish sid op q).snap = a.s.snap := finish_part a sid op q .snap (by decide)
theorem finish_mem (a : Answer) (sid op : Nat) (q : Req) : (a.finish sid op q).mem = a.s.mem := finish_part a sid op q .mem (by decide)
theorem finish_tally (a : Answer) (sid op : Nat) (q : Req) : (a.finish sid op q).tally = a.s.tally := finish_part a sid op q .tally (by decide)
theorem restoreValueTaken (s : State) (q : Req) (hfresh : Fresh s q) (hin : InSession s q) (sub n : Nat) (hsub : (sub, n) ∈ [(1, 8), (2, 2)])
    (hwhole : WholeWrite q 0x8130 sub n) (hrange : ¬(sub = 2 ∧ 4096 ≤ leNat q.data ∧ leNat q.data < 0xFFFE)) (hflow : s.snap.restore.flow = none) :
      ∃ t, exec (.restoreStep q) s = .next t ∧ Answered t q 2 0 true [] ∧ t.snap.restore = {} ∧ bytesOr t.tally.rw (reqKey q) [] = q.data
        ∧ t.snap.own = s.snap.own ∧ t.mem = s.mem := by
  have hsnap : (s.hearing q).snap = s.snap := hearing_part .snap (by decide)
  have hmem : (s.hearing q).mem = s.mem := hearing_part .mem (by decide)
  have hexec : exec (.restoreStep q) s = .next ((accept ((s.hearing q).restoreSet q)).finish (s.sid q) 2 q) := by
    rcases List.mem_cons.1 hsub with h | h
    · obtain ⟨rfl, rfl⟩ := Prod.mk.inj h
      exact exec_restoreStep_one hfresh hin hwhole
    · obtain ⟨rfl, rfl⟩ := Prod.mk.inj (List.mem_singleton.1 h)
      exact (exec_restoreStep_two hfresh hin hwhole).trans (by rw [if_neg fun h => hrange ⟨rfl, h⟩])
  obtain ⟨hrestore, htally, hown, hmem'⟩ := State.restoreSet_spec (s := s.hearing q) q (by rw [hsnap]; exact hflow)
  refine ⟨_, hexec, Answer.finish_answered _ _ _ _, ?_⟩
  rw [finish_snap, finish_tally, finish_mem]
  exact ⟨hrestore, htally, hown.trans (congrArg Snaps.own hsnap), hmem'.trans hmem⟩
theorem restoreFromRefused (s : State) (q : Req) (hfresh : Fresh s q) (hin : InSession s q) (hwhole : WholeWrite q 0x8130 2 2) (hlow : 4096 ≤ leNat q.data)
    (hhigh : leNat q.data < 0xFFFE) : ∃ t, exec (.restoreStep q) s = .next t ∧ Answered t q 2 abRange true [] ∧ t.snap = s.snap ∧ t.tally = s.tally := by
  have hexec := exec_restoreStep_two hfresh hin hwhole
  rw [if_pos ⟨hlow, hhigh⟩] at hexec
  refine ⟨_, hexec, Answer.finish_answered _ _ _ _, ?_⟩
  rw [finish_snap, finish_tally]
  exact ⟨hearing_part .snap (by decide), hearing_part .tally (by decide)⟩

/-! ### RESTORE_GO -/

/-- The verified extents that a restore keeps as it begins again. -/
def State.restoreKept (s : State) : Nat := if s.snap.restore.state = 3 ∧ s.restoreFrom ≠ 0xFFFE then s.snap.restore.verified else 0
/-- The ports are flooded afresh. -/
def State.upFlooded (s : State) : State := s.floodPorts (s.usedPorts.filter fun n => (s.port n).state = .up)
/-- A restore begins. -/
def State.restoreBegun (s : State) : State :=
  s.upFlooded.modRestore fun _ => { state := 1, verified := s.restoreKept, extents := s.upFlooded.extentCount, bytes := if s.restoreKept = 0 then 0 else s.snap.restore.bytes }
theorem State.goRestore_eq (s : State) : s.goRestore =
    if s.restoreBegun.restoreFrom = 0xFFFF then
      if s.restoreBegun.localSource.isNone then s.restoreBegun.abandonRestore 1 else if s.restoreBegun.extentCount = 0 then s.restoreBegun.finishRestore else s.restoreBegun
    else if s.restoreBegun.restoreFrom = 0xFFFE then s.restoreBegun
    else if s.restoreBegun.extentCount = 0 then s.restoreBegun.finishRestore
    else s.restoreBegun.askRestore := rfl
/-- A restore has begun: its state, its extents, what it keeps. -/
def RestoreBegun (s t : State) : Prop :=
  t.snap.restore.state = 1 ∧
  t.snap.restore.extents = s.extentCount ∧
  t.snap.restore.verified = s.restoreKept
theorem RestoreBegun.state {s t : State} : RestoreBegun s t → t.snap.restore.state = 1
  | ⟨h, _, _⟩ => h
theorem RestoreBegun.extents {s t : State} : RestoreBegun s t → t.snap.restore.extents = s.extentCount
  | ⟨_, h, _⟩ => h
theorem RestoreBegun.verified {s t : State} : RestoreBegun s t → t.snap.restore.verified = s.restoreKept
  | ⟨_, _, h⟩ => h
theorem State.restoreBegun_spec (s : State) : RestoreBegun s s.restoreBegun ∧ s.restoreBegun.restoreFrom = s.restoreFrom ∧ s.restoreBegun.extentCount = s.extentCount ∧
    s.restoreBegun.localSource = s.localSource := by
  have hflood : SameBut [.net, .out] s s.upFlooded := State.floodPorts_touch (List.Subset.refl _) s _ (Touch.refl _ s)
  have htally : s.upFlooded.tally = s.tally := hflood .tally (by decide)
  have hcow : s.upFlooded.cow = s.cow := hflood .cow (by decide)
  have hjob : s.upFlooded.job = s.job := hflood .job (by decide)
  have hsnap : s.upFlooded.snap = s.snap := hflood .snap (by decide)
  have hcount : s.upFlooded.extentCount = s.extentCount := State.extentCount_of hcow
  unfold State.restoreBegun
  generalize s.upFlooded = v at *
  refine ⟨⟨rfl, hcount, rfl⟩, State.restoreFrom_of (s := s) htally, State.extentCount_of (s := s) hcow, State.localSource_of (s := s) htally hcow hjob ?_⟩
  exact (congrArg Snaps.own hsnap :)
theorem State.askRestore_begun (h : RestoreBegun s t) : RestoreBegun s t.askRestore := by
  rcases t.askRestore_restore with hsame | hasked
  · exact ⟨by rw [hsame]; exact h.state, by rw [hsame]; exact h.extents, by rw [hsame]; exact h.verified⟩
  · exact ⟨by rw [hasked]; exact h.state, by rw [hasked]; exact h.extents, by rw [hasked]; exact h.verified⟩
/-- What a begun restore is after its source is looked at. -/
def RestoreGone (s t : State) : Prop :=
  (s.restoreFrom = 0xFFFF → s.localSource = none → t.snap.restore.state = 4) ∧
  (s.restoreFrom = 0xFFFF → s.localSource ≠ none → 0 < s.extentCount → RestoreBegun s t) ∧
  (s.restoreFrom = 0xFFFE → RestoreBegun s t) ∧
  (s.restoreFrom < 0xFFFE → 0 < s.extentCount → RestoreBegun s t) ∧
  (s.restoreFrom < 0xFFFE → s.extentCount = 0 → t.snap.restore.state = 2)
theorem State.goRestore_spec (s : State) : RestoreGone s s.goRestore := by
  obtain ⟨hbegun, hfrom, hcount, hlocal⟩ := s.restoreBegun_spec
  rw [State.goRestore_eq, hfrom, hcount, hlocal]
  generalize s.restoreBegun = v at *
  have hdone : v.finishRestore.snap.restore.state = 2 := by rw [State.finishRestore_restore]
  by_cases hown : s.restoreFrom = 0xFFFF
  · rw [if_pos hown]
    refine ⟨fun _ hnone => ?_, fun _ hsome hmore => ?_, fun h => by omega, fun h => by omega, fun h => by omega⟩
    · rw [hnone, if_pos Option.isNone_none, State.abandonRestore_restore]
    · rw [if_neg (by simpa using hsome), if_neg (by omega)]
      exact hbegun
  · rw [if_neg hown]
    by_cases himage : s.restoreFrom = 0xFFFE
    · rw [if_pos himage]
      exact ⟨fun h => absurd h hown, fun h => absurd h hown, fun _ => hbegun, fun h => by omega, fun h => by omega⟩
    · rw [if_neg himage]
      refine ⟨fun h => absurd h hown, fun h => absurd h hown, fun h => absurd h himage, fun _ hmore => ?_, fun _ hnone => ?_⟩
      · rw [if_neg (by omega)]
        exact State.askRestore_begun hbegun
      · rw [if_pos hnone]
        exact hdone
section
variable (hfresh : Fresh s q) (hin : InSession s q) (hwhole : WholeWrite q 0x8130 3 1)
include hfresh hin hwhole
theorem exec_restoreGo (hdata : q.data = u8 1) : exec (.restoreGoStart q) s =
    .next ((if (s.hearing q).job.state ≠ .loaded ∨ (s.hearing q).snap.restore.state = 1 then refuse (s.hearing q) abState else accept (s.hearing q).goRestore).finish
      (s.sid q) 2 q) :=
  congrArg Host.Outcome.next ((if_pos hdata).trans (s.serveWrite_session hfresh hin hwhole _))
theorem exec_restoreStop (hdata : q.data = u8 2) : exec (.restoreGoStop q) s =
    .next ((accept (if (s.hearing q).snap.restore.state = 1 ∨ (s.hearing q).snap.restore.state = 3 then (s.hearing q).abandonRestore 5 else s.hearing q)).finish
      (s.sid q) 2 q) :=
  congrArg Host.Outcome.next ((if_pos hdata).trans (s.serveWrite_session hfresh hin hwhole _))
theorem restoreGoes (hdata : q.data = u8 1) :
      ∃ t, exec (.restoreGoStart q) s = .next t ∧ t.mem = s.mem ∧ t.job.state = s.job.state ∧
        (s.job.state ≠ .loaded ∨ s.snap.restore.state = 1 → Answered t q 2 abState true [] ∧ t.snap = s.snap) ∧
        (s.job.state = .loaded → s.snap.restore.state ≠ 1 → Answered t q 2 0 true [] ∧
          (s.restoreFrom = 0xFFFF → s.localSource = none → t.snap.restore.state = 4) ∧
          (s.restoreFrom = 0xFFFF → s.localSource ≠ none → 0 < s.extentCount → t.snap.restore.state = 1 ∧ t.snap.restore.extents = s.extentCount
            ∧ t.snap.restore.verified = if s.snap.restore.state = 3 then s.snap.restore.verified else 0) ∧
          (s.restoreFrom = 0xFFFE → t.snap.restore.state = 1 ∧ t.snap.restore.verified = 0 ∧ t.snap.restore.extents = s.extentCount) ∧
          (s.restoreFrom < 0xFFFE → 0 < s.extentCount → t.snap.restore.state = 1 ∧ t.snap.restore.extents = s.extentCount) ∧
          (s.restoreFrom < 0xFFFE → s.extentCount = 0 → t.snap.restore.state = 2)) := by
  have hsnap : (s.hearing q).snap = s.snap := hearing_part .snap (by decide)
  have hmem : (s.hearing q).mem = s.mem := hearing_part .mem (by decide)
  have hjob : (s.hearing q).job = s.job := hearing_part .job (by decide)
  have htally : (s.hearing q).tally = s.tally := hearing_part .tally (by decide)
  have hcow : (s.hearing q).cow = s.cow := hearing_part .cow (by decide)
  refine ⟨_, exec_restoreGo hfresh hin hwhole hdata, ?_⟩
  have hgone := (s.hearing q).goRestore_spec
  have hsame := State.goRestore_touch (List.Subset.refl _) (s.hearing q) (Touch.refl _ _)
  have hfrom : (s.hearing q).restoreFrom = s.restoreFrom := State.restoreFrom_of htally
  have hcount : (s.hearing q).extentCount = s.extentCount := State.extentCount_of hcow
  have hlocal : (s.hearing q).localSource = s.localSource := State.localSource_of htally hcow hjob (congrArg Snaps.own hsnap)
  have hkept : (s.hearing q).restoreKept = s.restoreKept := by
    unfold State.restoreKept
    rw [hsnap, hfrom]
  generalize s.hearing q = u at *
  obtain ⟨hnosource, hslot, himage, hmodule, hnothing⟩ := hgone
  rw [hfrom] at hnosource hslot himage hmodule hnothing
  rw [hlocal] at hnosource hslot
  rw [hcount] at hslot hmodule hnothing
  rw [hjob, hsnap, finish_mem, finish_snap, Answer.finish_job]
  by_cases hrefused : s.job.state ≠ .loaded ∨ s.snap.restore.state = 1
  · rw [if_pos hrefused]
    refine ⟨hmem, congrArg Job.state hjob, fun _ => ⟨Answer.finish_answered _ _ _ _, hsnap⟩, fun h1 h2 => ?_⟩
    exact (hrefused.elim (fun h => h h1) h2).elim
  · rw [if_neg hrefused]
    refine ⟨(hsame .mem (by decide)).trans hmem, congrArg Job.state ((hsame .job (by decide)).trans hjob), fun h => absurd h hrefused, fun _ _ =>
      ⟨Answer.finish_answered _ _ _ _, hnosource, fun h1 h2 h3 => ?_, fun h => ?_, fun h1 h2 => ?_, hnothing⟩⟩
    · obtain ⟨hstate, hextents, hverified⟩ := hslot h1 h2 h3
      refine ⟨hstate, hextents.trans hcount, (hverified.trans hkept).trans ?_⟩
      unfold State.restoreKept
      rw [h1]
      simp
    · obtain ⟨hstate, hextents, hverified⟩ := himage h
      refine ⟨hstate, (hverified.trans hkept).trans (if_neg fun h' => h'.2 h), hextents.trans hcount⟩
    · obtain ⟨hstate, hextents, -⟩ := hmodule h1 h2
      exact ⟨hstate, hextents.trans hcount⟩
theorem restoreStops (hdata : q.data = u8 2) : ∃ t, exec (.restoreGoStop q) s = .next t ∧ Answered t q 2 0 true [] ∧ t.mem = s.mem ∧
        (s.snap.restore.state = 1 ∨ s.snap.restore.state = 3 → t.snap.restore = { state := 4 }) ∧
        (s.snap.restore.state ≠ 1 → s.snap.restore.state ≠ 3 → t.snap = s.snap) := by
  have hsnap : (s.hearing q).snap = s.snap := hearing_part .snap (by decide)
  have hmem : (s.hearing q).mem = s.mem := hearing_part .mem (by decide)
  refine ⟨_, exec_restoreStop hfresh hin hwhole hdata, Answer.finish_answered _ _ _ _, ?_⟩
  rw [finish_mem, finish_snap, hsnap]
  by_cases hruns : s.snap.restore.state = 1 ∨ s.snap.restore.state = 3
  · rw [if_pos hruns]
    refine ⟨(State.abandonRestore_touch (List.Subset.refl _) (s.hearing q) 5 (Touch.refl _ _) .mem (by decide)).trans hmem, fun _ => State.abandonRestore_restore _ _, fun h1 h3 => ?_⟩
    exact (hruns.elim h1 h3).elim
  · rw [if_neg hruns]
    exact ⟨hmem, fun h => absurd h hruns, fun _ _ => hsnap⟩
end
end
end Sys2Proof.Machine
end

section
/-! PROOFS. A restore is served, filled and verified (R450 to R454, R456), and O59. -/

namespace Sys2Proof.Machine

section
variable {s t u : State} {m : Msg} {kind dst arg : Nat}

/-! ### The source's side -/

theorem Tells.extend {p : Bytes → Prop} (h : Tells s u kind dst arg p) (hout : u.out <+: t.out) : Tells s t kind dst arg p := by
  intro n hroute
  obtain ⟨a, ha, hrest⟩ := h n hroute
  exact ⟨a, hout.subset ha, hrest⟩
/-- Messages of a list go out, each after the others. -/
theorem tells_foldl {α : Type} {f : State → α → State} {arg : α → Nat} {p : α → Bytes → Prop}
    (hf : ∀ u x, SameBut [.log, .skid, .out] u (f u x) ∧ u.out <+: (f u x).out ∧ Tells u (f u x) kind dst (arg x) (p x)) (l : List α) (s : State) :
    SameBut [.log, .skid, .out] s (l.foldl f s) ∧ s.out <+: (l.foldl f s).out ∧ ∀ x ∈ l, Tells s (l.foldl f s) kind dst (arg x) (p x) := by
  induction l generalizing s with
  | nil => exact ⟨Touch.refl _ s, List.prefix_rfl, fun x hx => (nomatch hx)⟩
  | cons y l ih =>
    obtain ⟨hone, hout, htells⟩ := hf s y
    obtain ⟨hrest, hout', htells'⟩ := ih (f s y)
    rw [List.foldl_cons]
    refine ⟨(hone.trans hrest).mono (by decide), hout.trans hout', fun x hx => ?_⟩
    rcases List.mem_cons.1 hx with rfl | hx
    · exact htells.extend hout'
    · exact (htells' x hx).of_same (congrArg Net.graph (hone .net (by decide))) (hone .job (by decide))
/-- The pages of an extent go out in chunks. -/
def State.pagesSent (s : State) (dst e : Nat) (pages : List (Nat × Nat × List (Nat × Byte))) : State :=
  pages.zipIdx.foldl (fun s (p, i) => (List.range 32).foldl (fun s c => s.sendChunk dst e (32 * i + c)
    (cellBytes 65536 ((p.2.2.filter fun x => decide (65536 * c ≤ x.1 ∧ x.1 < 65536 * (c + 1))).map fun x => (x.1 - 65536 * c, x.2)))) s) s
/-- The manifest entries of an extent. -/
def extentManifest (pages : List (Nat × Nat × List (Nat × Byte))) : Bytes := pages.flatMap fun p => manifestEntry p.1 p.2.1
theorem State.sendExtent_eq (s : State) (dst e : Nat) (pages : List (Nat × Nat × List (Nat × Byte))) :
    s.sendExtent dst e pages = (s.pagesSent dst e pages).sendTo wardenSrc 15 dst (e * 2 ^ 32 + 32 * pages.length) (extentManifest pages) := rfl
theorem State.pagesSent_same (s : State) (dst e : Nat) (pages : List (Nat × Nat × List (Nat × Byte))) : SameBut [.log, .skid, .out] s (s.pagesSent dst e pages) :=
  touch_foldl _ (fun _ _ hu => touch_foldl _ (fun _ _ hv => State.sendTo_touch (List.Subset.refl _) _ _ _ _ _ _ hv) hu) (Touch.refl _ s)
theorem State.sendExtent_tells (s : State) (dst e : Nat) (pages : List (Nat × Nat × List (Nat × Byte))) : SameBut [.log, .skid, .out] s (s.sendExtent dst e pages) ∧
    s.out <+: (s.sendExtent dst e pages).out ∧ Tells s (s.sendExtent dst e pages) 15 dst (e * 2 ^ 32 + 32 * pages.length) (· = extentManifest pages) := by
  have hkept := State.sendExtent_kept s dst e pages (Kept.refl s)
  refine ⟨State.sendExtent_touch (List.Subset.refl _) s dst e pages (Touch.refl _ s), hkept.2.1, ?_⟩
  have hsame := s.pagesSent_same dst e pages
  rw [State.sendExtent_eq]
  generalize s.pagesSent dst e pages = v at *
  exact (v.sendTo_tells _ _ _ _ _).of_same (congrArg Net.graph (hsame .net (by decide))) (hsame .job (by decide))
/-- The slot that serves a read of a restore. -/
def State.servingSlot (s : State) (m : Msg) : Option SnapSlot :=
  [s.partnerSlot 0, s.partnerSlot 1].find? fun x => s.slotGood x (m.arg / 2 ^ 32) m.origin
/-- The extents of a slot that a read names. -/
def extentsFrom (m : Msg) (x : SnapSlot) : List Nat :=
  (List.range ((x.ordered.length + extentPages - 1) / extentPages)).filter fun e => decide (m.arg % 2 ^ 32 ≤ e)
/-- The pages of an extent of a slot. -/
def SnapSlot.extent (x : SnapSlot) (e : Nat) : List (Nat × Nat × List (Nat × Byte)) := (x.ordered.drop (extentPages * e)).take extentPages
/-- A read of a restore is answered. -/
def State.readServed (s : State) (m : Msg) : State :=
  match s.servingSlot m with
  | none => s.sendTo wardenSrc 13 m.origin (snapArg 7 (m.arg / 2 ^ 32)) (u8 1)
  | some x =>
    if x.coFed then s.sendTo wardenSrc 13 m.origin (snapArg 7 (m.arg / 2 ^ 32)) (u8 2)
    else (extentsFrom m x).foldl (fun s e => s.sendExtent m.origin e (x.extent e)) s
theorem exec_restoreRead (s : State) (m : Msg) : exec (.restoreRead m) s = .next (((s.onMsg m).readServed m).recause s.log.cause) := by
  show execRestoreRead m s = _
  unfold execRestoreRead
  rewrite [State.taken_eq]
  rfl
/-- What is sent in answer to a read of a restore. -/
def ReadAnswered (s t : State) (m : Msg) : Option SnapSlot → Prop
  | none => Tells s t 13 m.origin (snapArg 7 (m.arg / 2 ^ 32)) (· = u8 1)
  | some x => if x.coFed = true then Tells s t 13 m.origin (snapArg 7 (m.arg / 2 ^ 32)) (· = u8 2)
    else ∀ e, m.arg % 2 ^ 32 ≤ e → e < (x.ordered.length + extentPages - 1) / extentPages →
      Tells s t 15 m.origin (e * 2 ^ 32 + 32 * (x.extent e).length) (· = extentManifest (x.extent e))
theorem State.readServed_spec (s : State) (m : Msg) : SameBut [.log, .skid, .out] s (s.readServed m) ∧ ReadAnswered s (s.readServed m) m (s.servingSlot m) := by
  unfold State.readServed
  cases s.servingSlot m with
  | none => exact ⟨State.sendTo_touch (List.Subset.refl _) s _ _ _ _ _ (Touch.refl _ s), s.sendTo_tells _ _ _ _ _⟩
  | some x =>
    unfold ReadAnswered
    dsimp only
    by_cases hfed : x.coFed = true
    · rw [if_pos hfed, if_pos hfed]
      exact ⟨State.sendTo_touch (List.Subset.refl _) s _ _ _ _ _ (Touch.refl _ s), s.sendTo_tells _ _ _ _ _⟩
    · rw [if_neg hfed, if_neg hfed]
      obtain ⟨hsame, -, htells⟩ := tells_foldl (fun u e => u.sendExtent_tells m.origin e (x.extent e)) (extentsFrom m x) s
      exact ⟨hsame, fun e hlo hhi => htells e (List.mem_filter.2 ⟨List.mem_range.2 hhi, decide_eq_true hlo⟩)⟩
theorem restoreServed (s : State) (m : Msg) : ∃ t, exec (.restoreRead m) s = .next t ∧ t.mem = s.mem ∧ t.snap = s.snap ∧ ReadAnswered s t m (s.servingSlot m) := by
  refine ⟨_, exec_restoreRead s m, ?_⟩
  have hserving : (s.onMsg m).servingSlot m = s.servingSlot m := rfl
  have honmsg := sb_onMsg s m
  have hgraph : (s.onMsg m).net.graph = s.net.graph := rfl
  generalize s.onMsg m = v at *
  obtain ⟨hsame, hanswered⟩ := v.readServed_spec m
  rw [hserving] at hanswered
  generalize v.readServed m = w at *
  have hof {kind dst arg : Nat} {p : Bytes → Prop} (h : Tells v w kind dst arg p) : Tells s (w.recause s.log.cause) kind dst arg p :=
    (h.of_same hgraph (honmsg .job (by decide))).recause _
  refine ⟨(hsame .mem (by decide)).trans (honmsg .mem (by decide)), (hsame .snap (by decide)).trans (honmsg .snap (by decide)), ?_⟩
  cases hslot : s.servingSlot m with
  | none =>
    rw [hslot] at hanswered
    unfold ReadAnswered at *
    exact hof hanswered
  | some x =>
    rw [hslot] at hanswered
    unfold ReadAnswered at *
    dsimp only at *
    by_cases hfed : x.coFed = true
    · rw [if_pos hfed] at *
      exact hof hanswered
    · rw [if_neg hfed] at *
      exact fun e hlo hhi => hof (hanswered e hlo hhi)

/-! ### A refusal of the source -/

theorem restoreIsRefused (s : State) (m : Msg) : ∃ t, exec (.restoreRefused m) s = .next t ∧
    if s.remoteRestore = true ∧ m.origin = s.restoreFrom then t.snap.restore = { state := 4 } ∧ t.mem = s.mem else t = s.took m := by
  have hiff : (s.remoteRestore && decide (m.origin = s.restoreFrom)) = true ↔ s.remoteRestore = true ∧ m.origin = s.restoreFrom := by
    rw [Bool.and_eq_true, decide_eq_true_eq]
  have hexec : exec (.restoreRefused m) s = .next ((if (s.remoteRestore && decide (m.origin = s.restoreFrom)) = true then (s.onMsg m).abandonRestore 2
      else s.onMsg m).recause s.log.cause) := rfl
  refine ⟨_, hexec, ?_⟩
  by_cases hsource : s.remoteRestore = true ∧ m.origin = s.restoreFrom
  · rw [if_pos hsource, if_pos (hiff.2 hsource)]
    exact ⟨(s.onMsg m).abandonRestore_restore 2, State.abandonRestore_touch (List.Subset.refl _) (s.onMsg m) 2 (Touch.refl _ _) .mem (by decide)⟩
  · rw [if_neg hsource, if_neg fun h => hsource (hiff.1 h)]
    exact s.onMsg_recause m

/-! ### Data of the present extent -/

/-- The chunk is the next one that the restore waits for. -/
def NextChunk (s : State) (m : Msg) : Prop := s.remoteRestore = true ∧ s.snap.restore.asked = true ∧ m.origin = s.restoreFrom ∧
  m.arg / 2 ^ 32 = s.snap.restore.verified ∧ m.arg % 2 ^ 32 = s.snap.restore.chunks
/-- A chunk is written to its page. -/
def State.chunkWritten (s : State) (a c : Nat) (bs : Bytes) : State :=
  { s with mem := writeBytes s.mem a (bs.take 65536) }.modRestore fun r => { r with chunks := c + 1, bytes := r.bytes + bs.length }
/-- The manifest of an extent is kept. -/
def State.manifestKept (s : State) (c n : Nat) (bs : Bytes) : State := s.modRestore fun r => { r with chunks := c + 1, manifest := manifestOf n bs }
/-- The next chunk is taken. -/
def State.chunkIn (s : State) (m : Msg) : State :=
  if m.arg % 2 ^ 32 < 32 * (s.extent (m.arg / 2 ^ 32)).length then
    s.chunkWritten ((s.extent (m.arg / 2 ^ 32)).getD (m.arg % 2 ^ 32 / 32) 0 * pageBytes + 65536 * (m.arg % 2 ^ 32 % 32)) (m.arg % 2 ^ 32) m.body
  else if m.arg % 2 ^ 32 = 32 * (s.extent (m.arg / 2 ^ 32)).length then s.manifestKept (m.arg % 2 ^ 32) (s.extent (m.arg / 2 ^ 32)).length m.body
  else s
theorem notNext_iff (s : State) (m : Msg) : (!s.remoteRestore || !s.snap.restore.asked ||
    decide (m.origin ≠ s.restoreFrom ∨ m.arg / 2 ^ 32 ≠ s.snap.restore.verified ∨ m.arg % 2 ^ 32 ≠ s.snap.restore.chunks)) = true ↔ ¬NextChunk s m := by
  unfold NextChunk
  rw [Bool.or_eq_true, Bool.or_eq_true, decide_eq_true_eq]
  cases s.remoteRestore <;> cases s.snap.restore.asked <;> simp [imp_iff_not_or]
theorem exec_restoreData_other (h : ¬NextChunk s m) : exec (.restoreData m) s = .next (s.took m) := by
  show execRestoreData m s = _
  unfold execRestoreData
  rewrite [State.taken_eq]
  exact congrArg Host.Outcome.next ((congrArg (fun u => State.recause u s.log.cause) (if_pos ((notNext_iff (s.onMsg m) m).2 h))).trans (s.onMsg_recause m))
theorem exec_restoreData (h : NextChunk s m) : exec (.restoreData m) s = .next (((s.onMsg m).chunkIn m).recause s.log.cause) := by
  show execRestoreData m s = _
  unfold execRestoreData
  rewrite [State.taken_eq]
  exact congrArg Host.Outcome.next (congrArg (fun u => State.recause u s.log.cause) (if_neg fun h' => (notNext_iff (s.onMsg m) m).1 h' h))
theorem State.chunkWritten_spec (s : State) (a c : Nat) (bs : Bytes) : SameBut [.snap, .mem] s (s.chunkWritten a c bs) ∧
    (s.chunkWritten a c bs).mem = writeBytes s.mem a (bs.take 65536) ∧
    (s.chunkWritten a c bs).snap = { s.snap with restore := { s.snap.restore with chunks := c + 1, bytes := s.snap.restore.bytes + bs.length } } := by
  have hmem := sb_mem s (writeBytes s.mem a (bs.take 65536))
  unfold State.chunkWritten
  exact ⟨(hmem.trans (State.modRestore_touch (List.Subset.refl _) _ _ (Touch.refl _ _))).mono (by decide), rfl, rfl⟩
theorem State.manifestKept_spec (s : State) (c n : Nat) (bs : Bytes) : SameBut [.snap] s (s.manifestKept c n bs) ∧
    (s.manifestKept c n bs).snap = { s.snap with restore := { s.snap.restore with chunks := c + 1, manifest := manifestOf n bs } } :=
  ⟨State.modRestore_touch (List.Subset.refl _) s _ (Touch.refl _ s), rfl⟩
theorem restoreDataTaken (s : State) (m : Msg) : ∃ t, exec (.restoreData m) s = .next t ∧ SameBut [.log, .net, .snap, .mem] s t ∧
      let r := s.snap.restore
      let e := m.arg / 2 ^ 32
      let c := m.arg % 2 ^ 32
      let pages := s.extent e
      (s.remoteRestore = false ∨ r.asked = false ∨ m.origin ≠ s.restoreFrom ∨ e ≠ r.verified ∨ c ≠ r.chunks → t = s.took m) ∧
      (s.remoteRestore = true → r.asked = true → m.origin = s.restoreFrom → e = r.verified → c = r.chunks →
        (c < 32 * pages.length → t.mem = writeBytes s.mem ((pages.getD (c / 32) 0) * pageBytes + 65536 * (c % 32)) (m.body.take 65536)
          ∧ t.snap = { s.snap with restore := { r with chunks := c + 1, bytes := r.bytes + m.body.length } }) ∧
        (c = 32 * pages.length → t.mem = s.mem ∧ t.snap = { s.snap with restore := { r with chunks := c + 1, manifest := manifestOf pages.length m.body } })) := by
  dsimp only
  by_cases hnext : NextChunk s m
  · have hextent : (s.onMsg m).extent (m.arg / 2 ^ 32) = s.extent (m.arg / 2 ^ 32) := rfl
    have honmsg := sb_onMsg s m
    refine ⟨_, exec_restoreData hnext, ?_⟩
    obtain ⟨hremote, hasked, horigin, hextent', hchunk⟩ := hnext
    have hnot (h : s.remoteRestore = false ∨ s.snap.restore.asked = false ∨ m.origin ≠ s.restoreFrom ∨ m.arg / 2 ^ 32 ≠ s.snap.restore.verified ∨
        m.arg % 2 ^ 32 ≠ s.snap.restore.chunks) : False := by
      rw [hremote, hasked] at h
      rcases h with h | h | h | h | h
      · cases h
      · cases h
      · exact h horigin
      · exact h hextent'
      · exact h hchunk
    unfold State.chunkIn
    rw [hextent]
    generalize s.onMsg m = v at *
    generalize s.extent (m.arg / 2 ^ 32) = pages at *
    have hsnap : v.snap = s.snap := honmsg .snap (by decide)
    have hmem : v.mem = s.mem := honmsg .mem (by decide)
    by_cases hdata : m.arg % 2 ^ 32 < 32 * pages.length
    · obtain ⟨hsame, hmem', hsnap'⟩ := v.chunkWritten_spec (pages.getD (m.arg % 2 ^ 32 / 32) 0 * pageBytes + 65536 * (m.arg % 2 ^ 32 % 32)) (m.arg % 2 ^ 32) m.body
      rw [if_pos hdata]
      rw [hmem] at hmem'
      rw [hsnap] at hsnap'
      exact ⟨((honmsg.trans hsame).trans (sb_recause _ _)).mono (by decide), fun h => (hnot h).elim, fun _ _ _ _ _ => ⟨fun _ => ⟨hmem', hsnap'⟩, fun h => by omega⟩⟩
    · rw [if_neg hdata]
      by_cases hlast : m.arg % 2 ^ 32 = 32 * pages.length
      · obtain ⟨hsame, hsnap'⟩ := v.manifestKept_spec (m.arg % 2 ^ 32) pages.length m.body
        rw [if_pos hlast]
        rw [hsnap] at hsnap'
        exact ⟨((honmsg.trans hsame).trans (sb_recause _ _)).mono (by decide), fun h => (hnot h).elim, fun _ _ _ _ _ =>
          ⟨fun h => absurd h hdata, fun _ => ⟨(hsame .mem (by decide)).trans hmem, hsnap'⟩⟩⟩
      · rw [if_neg hlast]
        exact ⟨(honmsg.trans (sb_recause _ _)).mono (by decide), fun h => (hnot h).elim, fun _ _ _ _ _ => ⟨fun h => absurd h hdata, fun h => absurd h hlast⟩⟩
  · exact ⟨_, exec_restoreData_other hnext, (sb_took s m).mono (by decide), fun _ => rfl, fun h1 h2 h3 h4 h5 => absurd ⟨h1, h2, h3, h4, h5⟩ hnext⟩

/-! ### An extent is verified -/

/-- The pages of an extent agree with its manifest. -/
def State.agrees (s : State) (manifest : List (Nat × Nat)) : Bool := manifest.all fun e => decide (s.hbmPageCrc e.1 = e.2)
/-- An extent is noted as verified. -/
def State.extentNoted (s : State) : State :=
  s.modRestore fun r => { r with verified := r.verified + 1, chunks := 0, rereads := 0, manifest := if s.restoreFrom = 0xFFFE then r.manifest else [] }
/-- An extent is verified; the last one ends the restore. -/
def State.extentVerified (s : State) : State :=
  if s.restoreFrom = 0xFFFE then s.extentNoted.imageEnd
  else if s.extentNoted.snap.restore.verified = s.snap.restore.extents then s.extentNoted.finishRestore else s.extentNoted
/-- An extent is to be read again. -/
def State.extentReread (s : State) : State := s.modRestore fun r => { r with rereads := r.rereads + 1, chunks := 0, asked := false }
/-- An extent is held to its manifest. -/
def State.extentJudged (s : State) (manifest : List (Nat × Nat)) : State :=
  if (manifest.map fun e => e.1) ≠ s.extent s.snap.restore.verified then s.abandonRestore 1
  else if s.agrees manifest then s.extentVerified
  else if s.snap.restore.rereads < 3 then s.extentReread.askRestore
  else s.abandonRestore 4
/-- What the verification does with what nature reports of its reads. -/
def judgeAfter (manifest : List (Nat × Nat)) (r : Bool × State) : State := if r.1 = true then r.2.extentJudged manifest else r.2
theorem judgeAfter_good (manifest : List (Nat × Nat)) (u : State) : judgeAfter manifest (true, u) = u.extentJudged manifest := if_pos rfl
theorem judgeAfter_bad (manifest : List (Nat × Nat)) (u : State) : judgeAfter manifest (false, u) = u := if_neg Bool.false_ne_true
theorem judgeAfter_eq (manifest : List (Nat × Nat)) (r : Bool × State) :
    (match r with | (ok, t) => if !ok then t else t.extentJudged manifest) = judgeAfter manifest r := by
  obtain ⟨ok, u⟩ := r
  cases ok with
  | false => exact (if_pos rfl).trans (judgeAfter_bad manifest u).symm
  | true => exact (if_neg Bool.false_ne_true).trans (judgeAfter_good manifest u).symm
theorem exec_extentVerified_none (h : s.extentIn = none) (checks : List MemCheck) : exec (.restoreExtentVerified checks) s = .next s := by
  show execRestoreExtentVerified checks s = _
  unfold execRestoreExtentVerified
  rewrite [h]
  rfl
theorem exec_extentVerified {manifest : List (Nat × Nat)} (h : s.extentIn = some (manifest, t)) (checks : List MemCheck) :
    exec (.restoreExtentVerified checks) s = .next (judgeAfter manifest (t.checked checks)) := by
  rw [← judgeAfter_eq]
  show execRestoreExtentVerified checks s = _
  unfold execRestoreExtentVerified
  rewrite [h]
  rfl
theorem State.extentIn_remote (hstate : s.snap.restore.state = 1) (hmore : s.snap.restore.verified < s.snap.restore.extents) (hfrom : s.restoreFrom < 0xFFFE)
    (hchunks : s.snap.restore.chunks = 32 * (s.extent s.snap.restore.verified).length + 1) : s.extentIn = some (s.snap.restore.manifest, s) := by
  unfold State.extentIn
  dsimp only
  rw [if_neg (by omega), if_neg (by omega), if_neg (by omega), if_pos hchunks]
/-- The pages of the own slot are put into memory. -/
def State.slotPut (s : State) (x : SnapSlot) : State :=
  { s with mem := (x.extent s.snap.restore.verified).foldl (fun m p => putCells m (p.1 * pageBytes) pageBytes p.2.2) s.mem }
theorem State.extentIn_local {x : SnapSlot} (hstate : s.snap.restore.state = 1) (hmore : s.snap.restore.verified < s.snap.restore.extents) (hfrom : s.restoreFrom = 0xFFFF)
    (hlocal : s.localSource = some x) : s.extentIn = some ((x.extent s.snap.restore.verified).map fun p => (p.1, p.2.1),
      (s.slotPut x).modRestore fun r => { r with bytes := r.bytes + pageBytes * (x.extent s.snap.restore.verified).length }) := by
  unfold State.extentIn
  dsimp only
  rw [if_neg (by omega), if_pos hfrom, hlocal]
  rfl
theorem State.extentVerified_same (s : State) : SameBut [.log, .host, .snap, .ctr, .out] s s.extentVerified := by
  have hnoted : SameBut [.snap] s s.extentNoted := State.modRestore_touch (List.Subset.refl _) s _ (Touch.refl _ s)
  unfold State.extentVerified
  generalize s.extentNoted = v at *
  split
  · exact (hnoted.trans (State.imageEnd_touch (List.Subset.refl _) v (Touch.refl _ v))).mono (by decide)
  · split
    · exact (hnoted.trans (State.finishRestore_touch (List.Subset.refl _) v (Touch.refl _ v))).mono (by decide)
    · exact hnoted.mono (by decide)
theorem State.extentReread_same (s : State) : SameBut [.log, .skid, .snap, .out] s s.extentReread.askRestore := by
  have hreread : SameBut [.snap] s s.extentReread := State.modRestore_touch (List.Subset.refl _) s _ (Touch.refl _ s)
  generalize s.extentReread = v at *
  exact (hreread.trans (State.askRestore_touch (List.Subset.refl _) v (Touch.refl _ v))).mono (by decide)
theorem State.extentJudged_same (s : State) (manifest : List (Nat × Nat)) : SameBut [.log, .skid, .host, .snap, .ctr, .out] s (s.extentJudged manifest) := by
  unfold State.extentJudged
  split
  · exact State.abandonRestore_touch (by decide) s 1 (Touch.refl _ s)
  · split
    · exact s.extentVerified_same.mono (by decide)
    · split
      · exact s.extentReread_same.mono (by decide)
      · exact State.abandonRestore_touch (by decide) s 4 (Touch.refl _ s)
theorem State.extentVerified_restore (hfrom : s.restoreFrom < 0xFFFE) (hstate : s.snap.restore.state = 1) : s.extentVerified.snap.restore =
    { s.snap.restore with verified := s.snap.restore.verified + 1, chunks := 0, rereads := 0, manifest := [],
                          state := if s.snap.restore.verified + 1 = s.snap.restore.extents then 2 else 1 } := by
  have hremote : ¬s.restoreFrom = 0xFFFE := by omega
  have hnoted : s.extentNoted.snap.restore = { s.snap.restore with verified := s.snap.restore.verified + 1, chunks := 0, rereads := 0, manifest := [] } :=
    congrArg (fun l => { s.snap.restore with verified := s.snap.restore.verified + 1, chunks := 0, rereads := 0, manifest := l }) (if_neg hremote)
  unfold State.extentVerified
  rw [if_neg hremote, hnoted]
  generalize s.extentNoted = v at *
  dsimp only
  by_cases hlast : s.snap.restore.verified + 1 = s.snap.restore.extents
  · rw [if_pos hlast, if_pos hlast, State.finishRestore_restore, hnoted]
  · rw [if_neg hlast, if_neg hlast, hnoted, ← hstate]
theorem State.extentReread_restore (s : State) (hstate : s.snap.restore.state = 1) : let t := s.extentReread.askRestore
    t.snap.restore.verified = s.snap.restore.verified ∧ t.snap.restore.rereads = s.snap.restore.rereads + 1 ∧ t.snap.restore.chunks = 0 ∧ t.snap.restore.state = 1 := by
  have hreread : s.extentReread.snap.restore = { s.snap.restore with rereads := s.snap.restore.rereads + 1, chunks := 0, asked := false } := rfl
  generalize s.extentReread = v at *
  dsimp only
  rcases v.askRestore_restore with h | h
  · rw [h, hreread]
    exact ⟨rfl, rfl, rfl, hstate⟩
  · rw [h, hreread]
    exact ⟨rfl, rfl, rfl, hstate⟩
theorem remoteExtent (s : State) (hstate : s.snap.restore.state = 1) (hmore : s.snap.restore.verified < s.snap.restore.extents) (hfrom : s.restoreFrom < 0xFFFE)
    (hchunks : s.snap.restore.chunks = 32 * (s.extent s.snap.restore.verified).length + 1) : let r := s.snap.restore
      (∃ t, exec (.restoreExtentVerified []) s = .next t ∧ t.mem = s.mem ∧ t.job.state = s.job.state ∧
        (r.manifest.map (fun e => e.1) ≠ s.extent r.verified → t.snap.restore = { state := 4 }) ∧
        (r.manifest.map (fun e => e.1) = s.extent r.verified → (∀ e ∈ r.manifest, s.hbmPageCrc e.1 = e.2) → t.snap.restore
          = { r with verified := r.verified + 1, chunks := 0, rereads := 0, manifest := [], state := if r.verified + 1 = r.extents then 2 else 1 }) ∧
        (r.manifest.map (fun e => e.1) = s.extent r.verified → (∃ e ∈ r.manifest, s.hbmPageCrc e.1 ≠ e.2) →
          (r.rereads < 3 → t.snap.restore.verified = r.verified ∧ t.snap.restore.rereads = r.rereads + 1 ∧ t.snap.restore.chunks = 0 ∧ t.snap.restore.state = 1) ∧
          (3 ≤ r.rereads → t.snap.restore = { state := 4 }))) ∧
      (∀ die code line reads, rereadsUsed 1 (lineOk code line) reads = none → ∃ t, exec (.restoreExtentVerified [.sram die code line reads]) s = .next t ∧
        Faulted t (dieSrc die) 0x1100 ∧ t.safe.latch = true ∧ t.mem = s.mem) := by
  have hexec (checks : List MemCheck) := exec_extentVerified (State.extentIn_remote hstate hmore hfrom hchunks) checks
  refine ⟨⟨_, (hexec []).trans (by rw [checked_nil, judgeAfter_good]), ?_⟩, fun die code line reads hreads => ?_⟩
  · have hsame := s.extentJudged_same s.snap.restore.manifest
    refine ⟨hsame .mem (by decide), congrArg Job.state (hsame .job (by decide)), ?_⟩
    clear hsame hexec
    unfold State.extentJudged
    refine ⟨fun h => ?_, fun h hgood => ?_, fun h ⟨e, he, hbad⟩ => ?_⟩
    · rw [if_pos h, State.abandonRestore_restore]
    · have hagree : s.agrees s.snap.restore.manifest = true := List.all_eq_true.2 fun e he => decide_eq_true (hgood e he)
      rw [if_neg (not_not.2 h), if_pos hagree]
      exact State.extentVerified_restore hfrom hstate
    · have hdiffers : ¬s.agrees s.snap.restore.manifest = true := fun h' => hbad (of_decide_eq_true (List.all_eq_true.1 h' e he))
      rw [if_neg (not_not.2 h), if_neg hdiffers]
      refine ⟨fun hfew => ?_, fun hmany => ?_⟩
      · rw [if_pos hfew]
        exact s.extentReread_restore hstate
      · rw [if_neg (Nat.not_lt.2 hmany), State.abandonRestore_restore]
  · obtain ⟨d, hline⟩ := State.checkedLine_bad (s := s) (die := die) hreads
    obtain ⟨hfaulted, hlatch, hmem, -⟩ := fault_spec_of s (u := s) (dieSrc die) 0x1100 d rfl rfl
    exact ⟨_, (hexec _).trans (by rw [s.checked_one, show s.checkedOne (.sram die code line reads) = _ from hline, judgeAfter_bad]), hfaulted, hlatch, hmem⟩
theorem localExtent (s : State) (x : SnapSlot) (hstate : s.snap.restore.state = 1) (hmore : s.snap.restore.verified < s.snap.restore.extents)
    (hfrom : s.restoreFrom = 0xFFFF) (hlocal : s.localSource = some x) : ∃ t, exec (.restoreExtentVerified []) s = .next t ∧
      t.mem = (x.extent s.snap.restore.verified).foldl (fun m p => putCells m (p.1 * pageBytes) pageBytes p.2.2) s.mem := by
  have hput : (s.slotPut x).mem = (x.extent s.snap.restore.verified).foldl (fun m p => putCells m (p.1 * pageBytes) pageBytes p.2.2) s.mem := withMem_mem s _
  refine ⟨_, (exec_extentVerified (State.extentIn_local hstate hmore hfrom hlocal) []).trans (by rw [checked_nil, judgeAfter_good]), ?_⟩
  have hmoved := State.modRestore_touch (List.Subset.refl _) (s.slotPut x) (fun r => { r with bytes := r.bytes + pageBytes * (x.extent s.snap.restore.verified).length })
    (Touch.refl _ (s.slotPut x))
  generalize (s.slotPut x).modRestore (fun r => { r with bytes := r.bytes + pageBytes * (x.extent s.snap.restore.verified).length }) = v at *
  exact (v.extentJudged_same _ .mem (by decide)).trans ((hmoved .mem (by decide)).trans hput)
end

/-- Settles O59: a restore begins from a good source only, takes the chunks of its extent in order, and counts an extent only where every page
agrees with its manifest. -/
theorem restoresFillTheModule : Obligations.RestoresFillTheModule := by
  unfold Obligations.RestoresFillTheModule
  intro sent
  refine ⟨fun s q hfresh hin => ⟨fun sub n hsub hwhole hrange hflow => restoreValueTaken s q hfresh hin sub n hsub hwhole hrange hflow,
    fun hwhole hlow hhigh => restoreFromRefused s q hfresh hin hwhole hlow hhigh, fun hwhole hdata => restoreGoes hfresh hin hwhole hdata,
    fun hwhole hdata => restoreStops hfresh hin hwhole hdata⟩, fun s m => ⟨?_, restoreIsRefused s m, restoreDataTaken s m⟩,
    fun s => ⟨fun h checks => exec_extentVerified_none h checks, fun h1 h2 h3 h4 _ => remoteExtent s h1 h2 h3 h4, fun x h1 h2 h3 h4 => localExtent s x h1 h2 h3 h4⟩⟩
  obtain ⟨t, hexec, hmem, hsnap, hanswered⟩ := restoreServed s m
  exact ⟨t, hexec, hmem, hsnap, hanswered⟩

end Sys2Proof.Machine
end
